-- ==== Sys2Proof/Syntax.lean ====
section
/-! DEFINITION. The commands the node takes: one constructor per row of the spec's table of operations and events,
with the operands that the outside gives them.  A physical outcome (a check that fails, a transfer that is lost, a
measured value) is an operand, because the spec gives its consequences and not its cause. -/

namespace Sys2Proof

/-- The outcome of a checked computation (R100, R120, R123, R185): it passed, it failed once and the repeat in the
spill slot passed, it failed on repeat too, or a read that it needs found an uncorrected error: in the home of a window page or in other
storage (R91; a number that is no allocated page), or in the page's frame copy (R240). -/
inductive Chk where
  | ok | once | twice | readUe (page : Nat) | frameUe (page : Nat)
  deriving DecidableEq, Repr

/-- The outcomes of an audit slice's checks (R120): the residues, the Harrow's shadow sums, and the Winnower's self-check. -/
structure AuditChk where
  resid  : Chk
  shadow : Chk
  sel    : Chk
  deriving DecidableEq, Repr

/-- The outcomes of a TILL_MATVEC's checks: the comparison of R125 with the column sums (R261), and the rescales of its outputs (R182). -/
structure TillChk where
  sum  : Chk
  resc : Chk
  deriving DecidableEq, Repr

/-- The outcomes of a generation pass's checks: the checksums of the pass itself, and the two Keccak cores that form GEN_DIGEST where it
is the last (R120). -/
structure GenChk where
  pass : Chk
  hash : Chk
  deriving DecidableEq, Repr

/-- How a planned action ends (R26): in its slot, past it, or past it with a spill slot that is too short. -/
inductive SlotEnd where
  | inSlot | overran | spillShort
  deriving DecidableEq, Repr

/-- How a handoff settles (R172): cleanly, with a poisoned word, with its Headland transfer failed, or with the stub's
BELIEF write failed after the release was applied. -/
inductive Handoff where
  | clean | poison | routeFail | beliefFail
  deriving DecidableEq, Repr

/-- Which request-state pool is lost, in the cases of the table of R174: by an error in its structures, with its stack or with its
plot. -/
inductive PoolLoss where
  | near (plot : Nat) | far (plot : Nat) | stack (plot : Nat) | plot (plot : Nat) | farContext (tag : Nat) | stub (tag : Nat)
  deriving DecidableEq, Repr

/-- How a mover transfer ends, in the cases of R294, a failed read with the place in the source at which it fails, and of R26: past its slot, and
past its slot with a spill slot too short. -/
inductive MoveEnd where
  | ok | mismatchOnce | mismatchTwice | flushed | overran | spillShort
  | sourceUe (off : Nat)
  deriving DecidableEq, Repr

/-- Damage of the words of a packet on its way out of a queue (R302): how many words SECDED corrects, a word that it cannot, and the words that
fail parity, eight to a cell. -/
inductive CellDamage where
  | none
  | corrected (words : Nat)
  | uncorrectable
  | poison (words : List Nat)
  deriving DecidableEq, Repr

/-- What a producer pushes (R299): the payload of cells of a packet, and whether the last of them is the packet's LAST. -/
structure Push where
  data : Bytes
  last : Bool
  deriving DecidableEq, Repr

/-- How a flash sector read ends, in the cases of R277: decoded (with the retries it took), decoded after the due
step, or not decoded. -/
inductive FlashOut where
  | decoded (retries : Nat) | late (retries : Nat) | failed
  deriving DecidableEq, Repr

/-- How a garbage-collection copy ends, in the cases of R280. -/
inductive GcOut where
  | ok | programFail | readBackFail | sourceFail (unit : Nat) | eraseFail
  deriving DecidableEq, Repr

/-- What a word or a transfer that a scrub slice reads belongs to, in the cases of the table of R240.  In SRAM: a frame, a stub or a near
slot, or what has no case of its own; in the Tiller stack: a sealed page, a delta or TOMB_USN page, an embedding row, a far context, a
plan copy, or a row that has no case of its own.  `image` is a page that mismatches its leaf (R71). -/
inductive ScrubPlace where
  | frame (page : Nat) | stub (tag : Nat) | sram
  | sealed (slot seg page : Nat) | delta (slot : Nat) | emb (table : Nat) | context (tag : Nat) | planCopy | row
  | image (slot seg page : Nat)
  deriving DecidableEq, Repr

/-- What a scrub slice found: where, in which row of the plot's stack, and how many bits of the SRAM word or bytes of the Tiller transfer
are in error (R239). -/
structure ScrubFind where
  place : ScrubPlace
  row   : Nat
  errs  : Nat
  deriving DecidableEq, Repr

/-- A plot's migration slice (R235): the plot, and the pages whose copy reads back otherwise. -/
structure PlotCopy where
  plot : Nat
  bad  : List Nat
  deriving DecidableEq, Repr

/-- A tilling group: stack (plot) and tilling group index, R242. -/
structure GroupId where
  stack : Nat
  gamma : Nat
  deriving DecidableEq, Repr

/-- A READ_ROW (R256): the group, and what the check of the rows that it reads found beside what they hold. -/
structure RowRead where
  g   : GroupId
  chk : Chk
  deriving DecidableEq, Repr

/-- A row of a tilling group: bank and ROW_ADDR, R242. -/
structure TillRow where
  g    : GroupId
  bank : Nat
  row  : Nat
  deriving DecidableEq, Repr

/-- What a flash scrub slice read of a block (R277, R281): its sectors read, those that needed a retry, those that needed more than the
planned retries, for each sector that the tracking loop takes up the level concerned and the surplus of 1 bits, and the pages of the block that
did not decode. -/
structure ScrubRead where
  blk : Nat
  reads : Nat
  retried : Nat
  beyond : Nat
  ones : List (Nat × Int)
  lost : List Nat
  deriving DecidableEq, Repr

/-- What a LOAD slice does at a DATA row (R245, R265, R266): it writes or reads the row, or its scrub finds there a corrected error, an
uncorrected on-die error, or a bitmap pair whose rails do not match. -/
inductive LoadAct where
  | write (data : Bytes) | read | corrected | ondieUe | rails
  deriving DecidableEq, Repr

/-- What the alternate Hand finds as it starts: whether its firmware verifies (R18, R358), and whether a copy of the leaf counter verifies with
the fuses that are blown (R359). -/
structure AltBoot where
  verified : Bool
  leafOk   : Bool
  deriving DecidableEq, Repr

/-- What the extended test finds of one unit (R395): its type (0 = Hedge port, 1 = Ethernet port, 2 = tensor array, 3 = Gleaner,
4 = flash die), its number, whether its checks passed on every pattern, and the patterns, 0 to 255, on which its result is not that of the
pattern's own arithmetic, with the result it gave. -/
structure TestUnit where
  typ     : Nat
  num     : Nat
  ok      : Bool
  wrong   : List (Nat × Bytes)
  deriving DecidableEq, Repr

/-- A tensor instruction (R189), as its fields; OPCODE is the command itself. -/
structure TInstr where
  fmtA : Nat
  fmtB : Nat
  outFmt : Nat
  func : Nat
  m : Nat
  n : Nat
  k : Nat
  opA : Nat
  opB : Nat
  res : Nat
  deriving DecidableEq, Repr

/-- The figures latched at the end of a step: those of the power controller (R377, R385), the delays of the egress queues that
were not 0, by 8 × port + class (R321), the Ethernet ports with uncorrected codewords (R314), and the outcomes of the Keccak cores' comparisons
for the root records that the step forms, in queue order (R120). -/
structure Sensors where
  pinW : Nat
  vinMv : Nat
  holdMv : Nat
  tjDc : List Nat
  stackDc : List Nat
  cpm : List Nat
  delays : List (Nat × Nat)
  uncorrected : List Nat
  roots : List Chk
  deriving DecidableEq, Repr

/-- One flash die as bring-up finds it (R269): its channel, its number on the channel, its READ ID bytes and the device model of its parameter
page, whether that page's CRC is right and its interface is one that R268 supports, its data and spare bytes to a page, its blocks and native
pages to a block, the blocks that are bad, and the format that it holds (0 = none, 1 = this node's, 2 = another node's). -/
structure DieReport where
  chan : Nat
  die : Nat
  jedecId : Bytes
  model : Bytes
  pageOk : Bool
  dataBytes : Nat
  spareBytes : Nat
  blocks : Nat
  unitsPerBlock : Nat
  badBlocks : List Nat
  format : Nat
  deriving DecidableEq, Repr

/-- What the stages of bring-up find (R378): the physical outcome of each stage; `badLog` and `badSys` name the LPNs of log pages and the
addresses of journal pages that do not decode (R287); `failedSegs` and `rereadSegs` name the segments, by slot and number, of which a page
mismatched on its re-read, or only before it (R71). -/
structure BootReport where
  g0Alive : Bool
  straps : Nat
  bankOk : Bool
  altBankOk : Bool
  svnRunning : List Nat
  refclkOk : Bool
  plotsOk : Nat
  stacksOk : Nat
  gatesOk : Nat
  headlandOk : Bool
  chansOk : Nat
  dies : List DieReport
  hedgePeers : List Nat
  leafCopyOk : Bool
  leafReserved : Nat
  leafFuses : Nat
  capUf : Nat
  holdMv : Nat
  badLog : List Nat
  badSys : List Nat
  mapDecodes : Bool
  flushRecordOk : Bool
  failedSegs : List (Nat × Nat)
  rereadSegs : List (Nat × Nat)
  deriving DecidableEq, Repr

/-- Why the input-loss signal is asserted (R374). -/
inductive LossCause where
  | vin | overcurrent
  deriving DecidableEq, Repr

/-- An assertion of the input-loss signal: its cause, and the programs of the flush that fail, by their place in it: once, or on their retry
too (R285). -/
structure Loss where
  cause : LossCause
  once  : List Nat
  twice : List Nat
  deriving DecidableEq, Repr

/-- A running-sums or commit message of a replicated table's chain (R202). -/
inductive SumsMsg where
  | running (trainStep : Nat) (sums : List (Nat × List W32))
  | final (trainStep : Nat) (sums : List (Nat × List W32))
  | commit (trainStep node : Nat)
  | missing (trainStep : Nat)
  deriving DecidableEq, Repr

/-- A connection-management message on QP1 (R311). -/
inductive CmMsg where
  | req (qp : Nat) (port : Nat) (mtu : Nat) (tclass : Nat) (psn : Nat) (datagram : Bool)
  | rtu (qp : Nat)
  | dreq (qp : Nat)
  | rej (qp : Nat)
  | drep (qp : Nat)
  deriving DecidableEq, Repr

/-- The network-layer requests that R310 answers. -/
inductive EchoKind where
  | arp | neighbour | icmp | icmp6 | other
  deriving DecidableEq, Repr

/-- A frame of the network layer (R310): its length, its 802.1Q tags, whether it is a fragment, and what it carries of its sender. -/
structure NetFrame where
  len  : Nat
  tags : Nat
  frag : Bool
  src  : Bytes
  deriving DecidableEq, Repr

/-- A link that has trained (R310): the port, and the PMDs that its partner advertises. -/
structure EthUp where
  port : Nat
  kr4  : Bool
  cr4  : Bool
  deriving DecidableEq, Repr

/-- How the frames of an RDMA operation arrive: whether their session tag verifies (R366), the PCP where they are tagged, and the DSCP (R313). -/
structure FrameIn where
  tagOk : Bool
  pcp   : Option Nat
  dscp  : Nat
  deriving DecidableEq, Repr

/-- What a lane's receiver finds (R306): a loss of lock, its FEC symbol errors in 1 µs, and whether the peer has the spare armed. -/
structure LaneFault where
  lock      : Bool
  errors    : Nat
  peerArmed : Bool
  deriving DecidableEq, Repr

/-- One message of a re-admission load, in the order of R397. -/
inductive RejoinItem where
  | epoch (rec : Bytes)
  | image (seg : Nat) (image : Bytes)
  | tombs (entries : List (Nat × Nat))
  | log (recs : Bytes)
  deriving DecidableEq, Repr

/-- An FDP request frame as it arrives (R326): the source MAC, whether it was broadcast, the header fields, the value
bytes and the TAG. SERVICE is the command itself. -/
structure FdpFrame where
  mac : Nat
  broadcast : Bool
  version : Nat
  auth : Bool
  last : Bool
  staged : Bool
  transaction : Nat
  index : Nat
  sub : Nat
  total : Nat
  frameSeq : Nat
  value : Bytes
  tag : Bytes
  deriving DecidableEq, Repr

/-- The commands, one per row of the table.  Operands that many of them share: `tag` is a request's tag and `pos` the place of one of its
shards; `deps` are the requests that depend on the action; `idx` is the place of an entry in its section of the plan in force; `chk`,
`sumsq`, `hash`, `resc` and `rail` are the outcomes of checks; `tags` are the requests whose rows a tensor pass carries, `arr` its array
(4 × plot + array) and `ti` its instruction. -/
inductive Instr where
  /-- STEP_BOUNDARY: R23 R25 R36: number+1, dictionary values due, agenda (activation, visibility, admission) started and drained to the first item with its own row. -/
  | stepBoundary
  /-- STEP_CLOSE: R24: finish agenda; spill; latch counters; event flush R390; notices; settle (queue flush, tier clock); power tick R377; apply commits waiting. -/
  | stepClose (sens : Sensors)
  /-- ENGINE_SLOT: R26 R30: overran -> spill slot C003; too short/used -> dependents LOST_CONTEXT + C004. -/
  | engineSlot (idx : Nat) (fin : SlotEnd) (deps : List Nat)
  /-- HEADLAND_TRANSFER: R12: failure waits for its retry slot. -/
  | headlandTransfer (route : Nat) (ok : Bool) (deps : List Nat)
  /-- HEADLAND_RETRY: R12: second failure -> EV 6004, dependents LOST_CONTEXT. -/
  | headlandRetry (route : Nat) (ok : Bool)
  /-- STEP_NUMBER_LIMIT: R36: hold idle, EV C009. -/
  | stepNumberLimit
  /-- PLAN_DRAIN_START: R32 (agenda item) EV C008. -/
  | planDrainStart
  /-- PLAN_SET_ACTIVATE: R32 (agenda item) EV C002; R207 R229 R236 R248 R384 within. -/
  | planSetActivate
  /-- TIER_CHANGE_REQUEST: R33 EV C005. -/
  | tierChangeRequest (tier : Nat)
  /-- TIER_CLOCK_CHANGE: R33 EV C005 at settle. -/
  | tierClockChange
  /-- TIER_STRETCH: R34 EV C007 / C006. -/
  | tierStretch (tier : Nat)
  /-- HAND_WATCHDOG_EXPIRY: R18 EV 1102. -/
  | handWatchdogExpiry
  /-- G0_LOSS: R18 EV 1105. -/
  | g0Loss
  /-- BAR_LOSS: R18 EV 1101. -/
  | barLoss (b : Nat)
  /-- STRING_LOSS: R18 EV 1104. -/
  | stringLoss (gate : Bool) (n : Nat)
  /-- GATE_DIE_LOSS: R18 EV 1107 + 1101. -/
  | gateDieLoss (g : Nat)
  /-- ALTERNATE_HAND_TAKEOVER: R18 EV 1103, R364 EV 9031. -/
  | alternateHandTakeover (x : AltBoot)
  /-- AGENT_RESTART: R18 EV 1106 under GRANT.AGENT_RESTART. -/
  | agentRestart (isBar : Bool) (gate : Bool) (n : Nat)
  /-- HOST_RDMA_WRITE: R20-R22, R155/R156 doorbells, R249 windows. `tagOk` = the tag of a sealed payload verifies (R366). -/
  | hostRdmaWrite (qp : Nat) (addr : BitVec 64) (data : Bytes) (how : FrameIn)
  /-- HOST_RDMA_READ: R20-R22; answer held in the response register. -/
  | hostRdmaRead (qp : Nat) (addr : BitVec 64) (len : Nat) (tagOk : Bool)
  /-- EVENT_CONSUMED_WRITE: R389. -/
  | eventConsumedWrite (qp : Nat) (offset : Nat) (data : Bytes)
  /-- SEARCH: agenda item: the next admission slot whose head is a SEARCH, R39 R74 R76 R168. -/
  | search
  /-- QUERY_PREPARE: R77 R192. -/
  | queryPrepare (tag : Nat) (chk : Chk)
  /-- TABLE_BUILD: R78 R79 R120. -/
  | tableBuild (tag : Nat) (chk : Chk)
  /-- SEGMENT_WALK: R81 R82. -/
  | segmentWalk (tag : Nat) (pos : Nat) (seg : Nat) (hops : Nat) (chk : Chk)
  /-- FULL_SCAN: R83. -/
  | fullScan (tag : Nat) (pos : Nat) (seg : Nat) (chk : Chk)
  /-- DELTA_SCAN: R83. `chk` = the outcome on each plot, by plot. -/
  | deltaScan (tag : Nat) (pos : Nat) (chk : List (Nat × Chk))
  /-- ENUMERATION: R88. -/
  | enumeration (tag : Nat) (pos : Nat) (seg : Nat) (chk : Chk)
  /-- BITMAP_FILTER_EVAL: R87. -/
  | bitmapFilterEval (tag : Nat) (pos : Nat) (seg : Nat) (rail : Chk)
  /-- RERANK_SELECT: R89. -/
  | rerankSelect (tag : Nat) (pos : Nat) (chk : Chk)
  /-- RERANK: R79 R89 R90 R121. -/
  | rerank (tag : Nat) (pos : Nat) (chk : Chk) (sumsq : Chk)
  /-- WIDENED_PASS: R92. -/
  | widenedPass (tag : Nat)
  /-- WINNOWER_PASS: R97 R100. -/
  | winnowerPass (tag : Nat) (pos : Nat) (plot : Nat) (chk : Chk)
  /-- SHARD_RESULT: R91 R101 R102 R106 R45. -/
  | shardResult (tag : Nat) (pos : Nat) (chk : Chk) (hash : Chk)
  /-- MERGE: R101 R102 R106 R162 R46. -/
  | merge (tag : Nat) (chk : Chk) (hash : Chk)
  /-- REMOTE_WAIT_EXPIRY: R108 EV 3040, R117 EV 3055. -/
  | remoteWaitExpiry (tag : Nat)
  /-- CERTIFY: R110-R117. -/
  | certify (tag : Nat) (chk : Chk)
  /-- COMPLETION_WRITE: R157 R163 R164 R223. -/
  | completionWrite (tag : Nat)
  /-- AUDIT_PASS: R128-R130. -/
  | auditPass (tag : Nat) (sumsq : Chk) (chk : AuditChk) (hash : Chk)
  /-- ROOT_REQUEST: R159 R70. -/
  | rootRequest (tag : Nat) (hash : Chk)
  /-- ROOT_QUEUE_DRAIN: R166. -/
  | rootQueueDrain
  /-- SUB_SEARCH: R158. -/
  | subSearch (port : Nat) (body : Bytes)
  /-- SHARD_LIST: R105 R108. -/
  | shardList (port : Nat) (tag : Nat) (body : Bytes)
  /-- CERT_FIELDS: R117. -/
  | certFields (port : Nat) (tag : Nat) (body : Bytes)
  /-- INSERT: R135 R136. -/
  | insert (tag : Nat)
  /-- DELETE: R135 R136. -/
  | delete (tag : Nat)
  /-- REPLACE: R135 R136 R42. -/
  | replace (tag : Nat)
  /-- LOG_RECORDS: R143 EV 3068. -/
  | logRecords (port : Nat) (body : Bytes)
  /-- REPLICA_APPLY: R143. -/
  | replicaApply (slot : Nat)
  /-- LOG_ACK: R142 R136 R396. -/
  | logAck (port : Nat) (shard : Nat) (usn : Nat)
  /-- LOG_RESEND: R143. -/
  | logResend (port : Nat) (shard : Nat) (usn : Nat)
  /-- DELTA_OPEN: R138. -/
  | deltaOpen (slot : Nat)
  /-- SEAL_FREEZE: R145 R146. -/
  | sealFreeze (slot : Nat)
  /-- SEAL_BUILD: R146 R49-R60. `passages` = each passage: offset, TOKEN_COUNT and values (R211). -/
  | sealBuild (slot : Nat) (chk : Chk) (passages : List (Nat × List Nat))
  /-- SEAL_WRITE: R279 R67 R147. -/
  | sealWrite (slot : Nat)
  /-- SEAL_SWITCH: R146 R150. -/
  | sealSwitch (slot : Nat)
  /-- SEGMENT_IMAGE: R146 R62. -/
  | segmentImage (port : Nat) (slot : Nat) (image : Bytes) (rec : Bytes)
  /-- REPLICA_EPOCH_SWITCH: R146. -/
  | replicaEpochSwitch (slot : Nat)
  /-- COMPACTION_CHOOSE: R148. -/
  | compactionChoose (slot : Nat)
  /-- COMPACTION_BUILD: R149. -/
  | compactionBuild (slot : Nat) (chk : Chk)
  /-- COMPACTION_SWITCH: R149 R150. -/
  | compactionSwitch (slot : Nat)
  /-- EPOCH_RELEASE: R151. -/
  | epochRelease (slot : Nat) (epoch : Nat)
  /-- LOG_TRIM: R152. -/
  | logTrim
  /-- TAKE: R172. -/
  | take (tag : Nat) (h : Handoff)
  /-- RELEASE: R172. -/
  | release (tag : Nat) (h : Handoff)
  /-- AUDIT_SWEEP: R173. -/
  | auditSweep (plot : Nat)
  /-- POOL_LOSS: R174. -/
  | poolLoss (loss : PoolLoss)
  /-- REPLAY: R175. `copyOk` = the read of the copy returned no uncorrected error. -/
  | replay (tag : Nat) (copyOk : Bool)
  /-- GEMM: R180 R182 R185. -/
  | gemm (tags : List Nat) (arr : Nat) (ti : TInstr) (chk : Chk) (resc : Chk)
  /-- LOAD_SCALES: R183. -/
  | loadScales (tags : List Nat) (arr : Nat) (ti : TInstr)
  /-- SWAP_SCALES: R183. -/
  | swapScales (tags : List Nat) (arr : Nat) (ti : TInstr)
  /-- EWISE: R190. -/
  | ewise (tags : List Nat) (arr : Nat) (ti : TInstr) (chk : Chk)
  /-- ACT: R191. -/
  | act (tags : List Nat) (arr : Nat) (ti : TInstr) (chk : Chk)
  /-- NORM: R191. -/
  | norm (tags : List Nat) (arr : Nat) (ti : TInstr) (chk : Chk)
  /-- SOFTMAX: R191. -/
  | softmax (tags : List Nat) (arr : Nat) (ti : TInstr) (chk : Chk)
  /-- POOL: R190. -/
  | pool (tags : List Nat) (arr : Nat) (ti : TInstr) (chk : Chk)
  /-- CONVERT: R182. -/
  | convert (tags : List Nat) (arr : Nat) (ti : TInstr)
  /-- EMB_GATHER: R198. -/
  | embGather (tags : List Nat) (ti : TInstr)
  /-- CLIP_DUMP: R184. -/
  | clipDump (tags : List Nat) (arr : Nat) (ti : TInstr)
  /-- KV_APPEND: R215 R213. -/
  | kvAppend (tags : List Nat) (arr : Nat) (ti : TInstr)
  /-- ROPE_Q: R213. -/
  | ropeQ (tags : List Nat) (arr : Nat) (ti : TInstr)
  /-- ATTN_MAX: R214. -/
  | attnMax (tags : List Nat) (arr : Nat) (ti : TInstr)
  /-- ATTN_PAGE: R214. -/
  | attnPage (tags : List Nat) (arr : Nat) (ti : TInstr)
  /-- ATTN_COMBINE: R214. -/
  | attnCombine (tags : List Nat) (arr : Nat) (ti : TInstr)
  /-- TILL_MATVEC: R260. -/
  | tillMatvec (tags : List Nat) (ti : TInstr) (chk : TillChk)
  /-- TOKEN_CHOOSE: R222. -/
  | tokenChoose (tags : List Nat) (arr : Nat) (ti : TInstr)
  /-- VERIFY: R221. -/
  | verify (tags : List Nat) (ti : TInstr)
  /-- MODEL_DRAIN_START: R188 EV 5003. -/
  | modelDrainStart (slot : Nat)
  /-- MODEL_ACTIVATE: R188 EV 5002. -/
  | modelActivate (slot : Nat)
  /-- GRADIENT_BATCH: R199 R202 EV 5021. -/
  | gradientBatch (port : Nat) (body : Bytes)
  /-- TRAIN_STEP_APPLY: R200 R201. -/
  | trainStepApply (table : Nat) (ue : Bool)
  /-- TRAIN_WAIT_EXPIRY: R202 EV 5022. -/
  | trainWaitExpiry (table : Nat)
  /-- RUNNING_SUMS: R202 EV 5023. -/
  | runningSums (port : Nat) (table : Nat) (msg : SumsMsg)
  /-- EMB_ROWS: R198. -/
  | embRows (port : Nat) (tag : Nat) (body : Bytes)
  /-- LOAD_WINDOW_END: R203 R204. -/
  | loadWindowEnd
  /-- EMB_SHARD_COPY: R204. -/
  | embShardCopy (table : Nat)
  /-- EMB_SHARD_SWITCH: R204. -/
  | embShardSwitch (table : Nat)
  /-- GENERATE: agenda item: R216 R217 R219 R225. -/
  | generate
  /-- GEN_PLACE: R218. -/
  | genPlace (tag : Nat)
  /-- PREFILL: R218. -/
  | prefill (tag : Nat) (chk : Chk)
  /-- DECODE: R218 R221 R222. -/
  | decode (tag : Nat) (chk : GenChk)
  /-- SCORE: R218. -/
  | score (tag : Nat) (chk : GenChk)
  /-- PAGE_PARTIALS: R225 EV 5045. -/
  | pagePartials (tag : Nat) (port : Nat) (body : Bytes) (late : Bool)
  /-- CACHE_RETAIN_EXPIRY: R219 EV 5048. -/
  | cacheRetainExpiry (cache : Nat)
  /-- PLACEMENT_WINDOW_END: R234. -/
  | placementWindowEnd
  /-- PAGE_DEMOTE: R235. -/
  | pageDemote
  /-- PROMOTION_COPY: R235. -/
  | promotionCopy (copy : PlotCopy)
  /-- PROMOTION_SWITCH: R235. -/
  | promotionSwitch (plot : Nat)
  /-- REFRESH_SLICE: R238. -/
  | refreshSlice (idx : Nat)
  /-- SCRUB_SLICE: R240. -/
  | scrubSlice (idx : Nat) (found : List ScrubFind)
  /-- ROW_REPAIR: R240 EV 6017. -/
  | rowRepair (plot : Nat) (row : Nat)
  /-- SEGMENT_LOAD: R71 EV 3030/3031/3032. -/
  | segmentLoad (slot : Nat) (seg : Nat) (chk : Chk)
  /-- PAGE_RELOAD: R71. -/
  | pageReload (slot : Nat) (seg : Nat) (page : Nat) (flashOk : Bool)
  /-- SEGMENT_REFETCH: R71 R62. -/
  | segmentRefetch (slot : Nat) (seg : Nat) (image : Bytes)
  /-- TILLING_ENTER: R246. -/
  | tillingEnter (idx : Nat)
  /-- TILLING_RUN: R245. -/
  | tillingRun (idx : Nat)
  /-- TILLING_EXIT: R247. -/
  | tillingExit (idx : Nat)
  /-- TILLING_LOAD: R245 R265. `r` = the DATA row that the slice is at. -/
  | tillingLoad (idx : Nat) (r : TillRow) (act : LoadAct)
  /-- TM_ACK_TIMEOUT: R246 R266 EV 6026. -/
  | tmAckTimeout (g : GroupId)
  /-- TILL_COMMAND_WRITE: R253. -/
  | tillCommandWrite (g : GroupId) (rec : Bytes)
  /-- NOP: R252 R263. -/
  | nop (g : GroupId)
  /-- TILLING_REFRESH_DUE: R263. -/
  | tillingRefreshDue (g : GroupId) (hot : Bool)
  /-- ROW_COPY: R252. -/
  | rowCopy (g : GroupId)
  /-- ROW_CLEAR: R252 R265. -/
  | rowClear (g : GroupId)
  /-- WRITE_ROW: R252. -/
  | writeRow (g : GroupId)
  /-- READ_ROW: R256. -/
  | readRow (x : RowRead)
  /-- AND: R255. -/
  | tillAnd (g : GroupId)
  /-- OR: R255. -/
  | tillOr (g : GroupId)
  /-- NOT: R255. -/
  | tillNot (g : GroupId)
  /-- XOR: R255. -/
  | tillXor (g : GroupId)
  /-- EW_ADD: R261. -/
  | ewAdd (g : GroupId)
  /-- EW_MUL: R261. -/
  | ewMul (g : GroupId)
  /-- EW_ACT: R261. -/
  | ewAct (g : GroupId)
  /-- MATVEC: R259. -/
  | matvec (g : GroupId) (chk : Chk)
  /-- FLASH_READ: R277. `ones` = what the tracking loop takes of the read, as (level, surplus of 1 bits). -/
  | flashRead (lpn : Nat) (sector : Nat) (out : FlashOut) (ones : List (Nat × Int)) (deps : List Nat)
  /-- LOG_WRITE: R278. -/
  | logWrite (ok : Bool)
  /-- LOG_PAGE_TIMEOUT: R278. -/
  | logPageTimeout
  /-- IMAGE_WRITE: R278 R282. `comp` = of a compaction; `fails` = the image pages whose program failed, or whose read-back did (`true`). -/
  | imageWrite (slot : Nat) (comp : Bool) (fails : List (Nat × Bool))
  /-- MAP_CHECKPOINT: R278. `n` = the checkpoint pages that the slice writes. -/
  | mapCheckpoint (n : Nat)
  /-- GC_COPY: R280. -/
  | gcCopy (die : Nat) (out : GcOut)
  /-- FLASH_SCRUB: R277 R281 R283. -/
  | flashScrub (die : Nat) (found : List ScrubRead)
  /-- FLASH_DIE_LOSS: R281 EV 7013. -/
  | flashDieLoss (die : Nat)
  /-- NAND_RAIL_OVERCURRENT: R406 EV 7013. -/
  | nandRailOvercurrent (chan : Nat)
  /-- COPY: R291 R293 R294. -/
  | copy (idx : Nat) (end_ : MoveEnd) (deps : List Nat)
  /-- TRANSPOSE: R291. -/
  | transpose (idx : Nat) (end_ : MoveEnd) (deps : List Nat)
  /-- UNTRANSPOSE: R291. -/
  | untranspose (idx : Nat) (end_ : MoveEnd) (deps : List Nat)
  /-- GATHER: R291. -/
  | gather (idx : Nat) (end_ : MoveEnd) (deps : List Nat)
  /-- SCATTER: R291. -/
  | scatter (idx : Nat) (end_ : MoveEnd) (deps : List Nat)
  /-- CELL_PUSH: R297 R299. `req` = the request that the packet belongs to. -/
  | cellPush (plot : Nat) (q : Nat) (req : Option Nat) (x : Push)
  /-- CELL_POP: R300 R302. -/
  | cellPop (plot : Nat) (queue : Nat) (dmg : CellDamage) (deps : List Nat)
  /-- QUEUE_FLUSH_APPLY: R301. -/
  | queueFlushApply (plot : Nat) (queue : Nat)
  /-- LANE_FAILURE: R306. -/
  | laneFailure (port : Nat) (lane : Nat) (x : LaneFault)
  /-- LANE_SWAP: R306. -/
  | laneSwap (port : Nat) (lane : Nat)
  /-- LANE_RETRAIN: R306. -/
  | laneRetrain (port : Nat) (ok : Bool)
  /-- PORT_RECOVERY: R306. -/
  | portRecovery (port : Nat) (ok : Bool) (rttNs : Nat)
  /-- PORT_TRAINING: R304 R306 R367. -/
  | portTraining (port : Nat) (peer : Nat) (rttNs : Nat) (ok : Bool) (reportOk : Bool) (ek : Bytes) (ct : Bytes)
  /-- PORT_REUP: R306. -/
  | portReup (port : Nat)
  /-- DATA_FLIT: R308 R309. -/
  | dataFlit (port : Nat) (flit : Bytes) (fecOk : Bool) (tagOk : Bool)
  /-- RETRY: R308. -/
  | retry (port : Nat) (fsn : Nat)
  /-- ACK: R308. -/
  | ack (port : Nat) (fsn : Nat)
  /-- PEER_ID: R307 R306. -/
  | peerId (port : Nat) (peer : Nat)
  /-- REPLAY_TIMEOUT: R308. -/
  | replayTimeout (port : Nat)
  /-- REJOIN_LOAD: R397. -/
  | rejoinLoad (port : Nat) (slot : Nat) (item : RejoinItem)
  /-- ETH_LINK_DOWN: R314 EV 8010. -/
  | ethLinkDown (port : Nat)
  /-- ETH_LINK_UP: R314 EV 8011. -/
  | ethLinkUp (x : EthUp)
  /-- ETH_FAILOVER: R314 EV 8012/8013. -/
  | ethFailover (port : Nat)
  /-- CM_MESSAGE: R311. -/
  | cmMessage (port : Nat) (msg : CmMsg)
  /-- ROCE_REFUSED_OPCODE: R311 EV 8017. -/
  | roceRefusedOpcode (qp : Nat)
  /-- CNP_RECEIVE: R312. -/
  | cnpReceive (qp : Nat)
  /-- CE_MARKED_PACKET: R312. -/
  | ceMarkedPacket (qp : Nat) (nowNs : Nat)
  /-- PFC_PAUSE: R312. -/
  | pfcPause (port : Nat) (prio : Nat) (pause : Bool)
  /-- ARP_ND_ECHO: R310. -/
  | arpNdEcho (port : Nat) (kind : EchoKind) (x : NetFrame)
  /-- ROCE_ACK_TIMEOUT: R311 R314 EV 8015. -/
  | roceAckTimeout (qp : Nat)
  /-- SHAPER_REFILL: R312 R316. -/
  | shaperRefill (port : Nat)
  /-- EGRESS_WINDOW: R315. -/
  | egressWindow (port : Nat) (openNs : Nat) (classes : Nat)
  /-- GATE_LIST_TAKEOVER: R319 EV 8021. -/
  | gateListTakeover (port : Nat)
  /-- READ_EXPEDITED: R327 R328. -/
  | readExpedited (f : FdpFrame)
  /-- WRITE_EXPEDITED: R327 R328. -/
  | writeExpedited (f : FdpFrame)
  /-- READ_INIT: R327. -/
  | readInit (f : FdpFrame)
  /-- WRITE_INIT: R327. -/
  | writeInit (f : FdpFrame)
  /-- SEGMENT: R327. -/
  | segment (f : FdpFrame)
  /-- ABORT: R327. -/
  | abort (f : FdpFrame)
  /-- COMMIT: R331. -/
  | commit (f : FdpFrame)
  /-- DISCARD: R330. -/
  | discard (f : FdpFrame)
  /-- TRANSFER_IDLE_EXPIRY: R327 EV 1022. -/
  | transferIdleExpiry (mac : Nat)
  /-- MIRROR_STAGING_WRITE: R329. -/
  | mirrorStagingWrite (qp : Nat) (index : Nat) (sub : Nat) (off : Nat) (data : Bytes)
  /-- DICT_COMMIT: R329. -/
  | dictCommit (qp : Nat)
  /-- DICT_DISCARD: R329. -/
  | dictDiscard (qp : Nat)
  /-- COMMIT_APPLY: R332-R334 and every per-entry action of 95. -/
  | commitApply
  /-- REJOIN_TEST_END: R395. `units` = what each unit that took part gave. -/
  | rejoinTestEnd (units : List TestUnit)
  /-- REJOIN_LOADED: R397 EV B010. -/
  | rejoinLoaded (slot : Nat)
  /-- REJOIN_ADMIT: R398. -/
  | rejoinAdmit
  /-- PLOT_FAULT_LIMIT: R393. -/
  | plotFaultLimit (plot : Nat)
  /-- TENANT_DRAIN_START: R351 EV 9010. -/
  | tenantDrainStart (p : Nat)
  /-- TENANT_SWITCH: R351 EV 9011. -/
  | tenantSwitch (p : Nat)
  /-- TENANT_SCRUB: R352 R353. -/
  | tenantScrub (p : Nat) (external : Bool) (ok : Bool)
  /-- TENANT_SCRUB_END: R351 EV 9012. -/
  | tenantScrubEnd (p : Nat)
  /-- ATT_REPORT_SIGN: R359-R362 EV 9020/9021/9022. -/
  | attReportSign
  /-- POWER_ON: R378-R383. -/
  | powerOn (boot : BootReport)
  /-- INPUT_LOSS: R374 R285. -/
  | inputLoss (x : Loss)
  /-- VIN_MARGINAL: R374 EV A002. -/
  | vinMarginal (mv : Nat)
  /-- CLOCK_FAULT: R375 EV A030. -/
  | clockFault
  /-- RESET_PULSE: R404. -/
  | resetPulse (us : Nat)
  /-- CAP_TEST: R373 EV A005. -/
  | capTest (v1mv : Nat) (v2mv : Nat)
  /-- VCORE_ADJUST: R376 EV A020. -/
  | vcoreAdjust (plot : Nat) (margin : Int)
  /-- THERMAL_CLAMP: R377 EV A012. -/
  | thermalClamp
  /-- CLAMP_RELEASE: R377 EV A014. -/
  | clampRelease
  /-- THERMAL_TRIP: R377 EV A013. -/
  | thermalTrip
  /-- INGRESS_WINDOW: R318 R312. -/
  | ingressWindow (port : Nat) (classes : Nat)
  /-- ROCE_ACK_RECEIVED: R311. -/
  | roceAckReceived (qp : Nat) (psn : Nat) (nak : Bool)
  /-- REFCLK_RETURN: R375 R378. -/
  | refclkReturn
  /-- TRANSMIT_OPPORTUNITY: R325 R327. -/
  | transmitOpportunity
  deriving DecidableEq, Repr

end Sys2Proof
end

