-- ==== Sys2Proof/WellFormed.lean ====
section
/-! DEFINITION. Which commands are well formed: every operand lies in the range that the spec gives it.  `exec` is total: it also
answers for ill-formed commands, which name nothing that the node holds. -/

namespace Sys2Proof

/-- A number of at most `n` bits. -/
def wide (n x : Nat) : Bool := decide (x < 2 ^ n)
/-- A plot (R10), a Hedge port, an Ethernet port, and a traffic port: a Hedge port or 16 + an Ethernet port (R304, R310, R315). -/
def plotOk (p : Nat) : Bool := decide (p < 16)
def hedgeOk (p : Nat) : Bool := decide (p < 16)
def ethOk (e : Nat) : Bool := decide (e < 4)
def portOk (p : Nat) : Bool := decide (p < 20)

/-- Stack and tilling group index (R242). -/
def GroupId.wf (g : GroupId) : Bool := plotOk g.stack && decide (g.gamma < 128)
/-- Bank and ROW_ADDR of a tilling group (R242). -/
def TillRow.wf (r : TillRow) : Bool := r.g.wf && decide (r.bank < 80) && wide 12 r.row
/-- The fields of a tensor instruction (R189). -/
def TInstr.wf (t : TInstr) : Bool :=
  wide 8 t.fmtA && wide 8 t.fmtB && wide 8 t.outFmt && wide 8 t.func && wide 32 t.m && wide 32 t.n && wide 32 t.k &&
  wide 32 t.opA && wide 32 t.opB && wide 32 t.res
/-- The header of an FDP frame (R325, R326). -/
def FdpFrame.wf (f : FdpFrame) : Bool :=
  wide 48 f.mac && wide 8 f.version && wide 16 f.transaction && wide 16 f.index && wide 8 f.sub && wide 32 f.total && wide 32 f.frameSeq
/-- What a pool loss names (R174). -/
def PoolLoss.wf : PoolLoss → Bool
  | .near p => plotOk p
  | .far p => plotOk p
  | .stack p => plotOk p
  | .plot p => plotOk p
  | .farContext t => wide 64 t
  | .stub t => wide 64 t
/-- What a scrub find names (R240). -/
def ScrubPlace.wf : ScrubPlace → Bool
  | .frame g => wide 32 g
  | .sealed s g p => wide 8 s && wide 16 g && wide 32 p
  | .delta s => wide 8 s
  | .emb t => wide 8 t
  | .context t => wide 64 t
  | .stub t => wide 64 t
  | .planCopy => true
  | .row => true
  | .sram => true
  | .image s g p => wide 8 s && wide 16 g && wide 32 p
def ScrubFind.wf (f : ScrubFind) : Bool := f.place.wf && wide 32 f.row && decide (f.errs ≤ 72)
/-- The figures of a step: 20 dies and 16 stacks at most, 160 queues, 4 Ethernet ports (R321, R377). -/
def Sensors.wf (x : Sensors) : Bool :=
  wide 32 x.pinW && wide 32 x.vinMv && wide 32 x.holdMv && decide (x.tjDc.length ≤ 20) && decide (x.stackDc.length ≤ 16) &&
  decide (x.cpm.length ≤ 16) && x.delays.all (fun d => decide (d.1 < 160)) && x.uncorrected.all ethOk
/-- What the tracking loop takes of a sector (R277): a level, and a surplus of at most the sector's bits. -/
def onesOk (e : Nat × Int) : Bool := wide 4 e.1 && decide (e.2.natAbs ≤ 8192)
/-- The place of a failed read in a transfer (R290), and the damage of at least one word of a packet (R302). -/
def MoveEnd.wf : MoveEnd → Bool
  | .sourceUe off => wide 24 off
  | _ => true
def CellDamage.wf : CellDamage → Bool
  | .corrected n => decide (0 < n)
  | .poison words => !words.isEmpty
  | _ => true
/-- What a flash scrub read of a block (R277). -/
def ScrubRead.wf (r : ScrubRead) : Bool :=
  wide 23 r.blk && wide 32 r.reads && wide 32 r.retried && wide 32 r.beyond && r.ones.all onesOk && r.lost.all (wide 23)
/-- A die's place (R269), and a bring-up report: bitmaps of 16 plots, 4 Gate dies, 32 flash channels (R378). -/
def DieReport.wf (d : DieReport) : Bool :=
  wide 5 d.chan && wide 4 d.die && decide (d.jedecId.length = 6) && decide (d.model.length = 20) && decide (d.format < 3)
def BootReport.wf (r : BootReport) : Bool :=
  wide 16 r.plotsOk && wide 16 r.stacksOk && wide 4 r.gatesOk && wide 32 r.chansOk && decide (r.svnRunning.length = 4) &&
  r.dies.all DieReport.wf && wide 32 r.capUf && wide 32 r.holdMv
/-- The items of a re-admission load (R397), connection messages (R311), chain messages (R202). -/
def RejoinItem.wf : RejoinItem → Bool
  | .epoch _ => true
  | .image n _ => wide 16 n
  | .tombs l => l.all fun e => wide 40 e.1 && wide 64 e.2
  | .log _ => true
def CmMsg.wf : CmMsg → Bool
  | .req q p m t n _ => wide 24 q && ethOk p && decide (m ≤ 4096) && wide 8 t && wide 24 n
  | .rtu q => wide 24 q
  | .dreq q => wide 24 q
  | .rej q => wide 24 q
  | .drep q => wide 24 q
/-- How a host's frames arrive (R313): a PCP of three bits, a DSCP of six. -/
def FrameIn.wf (x : FrameIn) : Bool := (x.pcp.map (wide 3)).getD true && wide 6 x.dscp
def SumsMsg.wf : SumsMsg → Bool
  | .running t _ => wide 64 t
  | .final t _ => wide 64 t
  | .commit t n => wide 64 t && wide 6 n
  | .missing t => wide 64 t

/-- A command whose operands lie in their ranges. -/
def Instr.wf : Instr → Bool
  | .stepBoundary => true
  | .stepClose sens => sens.wf
  | .engineSlot idx _ deps => wide 20 idx && deps.all (wide 64)
  | .headlandTransfer route _ deps => wide 20 route && deps.all (wide 64)
  | .headlandRetry route _ => wide 20 route
  | .stepNumberLimit => true
  | .planDrainStart => true
  | .planSetActivate => true
  | .tierChangeRequest tier => decide (tier < 3)
  | .tierClockChange => true
  | .tierStretch tier => decide (tier < 3)
  | .handWatchdogExpiry => true
  | .g0Loss => true
  | .barLoss b => wide 2 b
  | .stringLoss _ n => wide 4 n
  | .gateDieLoss g => wide 2 g
  | .alternateHandTakeover _ => true
  | .agentRestart _ _ n => wide 4 n
  | .hostRdmaWrite qp _ _ how => wide 24 qp && how.wf
  | .hostRdmaRead qp _ len _ => wide 24 qp && wide 32 len
  | .eventConsumedWrite qp offset _ => wide 24 qp && wide 32 offset
  | .search => true
  | .queryPrepare tag _ => wide 64 tag
  | .tableBuild tag _ => wide 64 tag
  | .segmentWalk tag pos seg hops _ => wide 64 tag && wide 8 pos && wide 16 seg && wide 32 hops
  | .fullScan tag pos seg _ => wide 64 tag && wide 8 pos && wide 16 seg
  | .deltaScan tag pos chk => wide 64 tag && wide 8 pos && chk.all fun x => plotOk x.1
  | .enumeration tag pos seg _ => wide 64 tag && wide 8 pos && wide 16 seg
  | .bitmapFilterEval tag pos seg _ => wide 64 tag && wide 8 pos && wide 16 seg
  | .rerankSelect tag pos _ => wide 64 tag && wide 8 pos
  | .rerank tag pos _ _ => wide 64 tag && wide 8 pos
  | .widenedPass tag => wide 64 tag
  | .winnowerPass tag pos plot _ => wide 64 tag && wide 8 pos && plotOk plot
  | .shardResult tag pos _ _ => wide 64 tag && wide 8 pos
  | .merge tag _ _ => wide 64 tag
  | .remoteWaitExpiry tag => wide 64 tag
  | .certify tag _ => wide 64 tag
  | .completionWrite tag => wide 64 tag
  | .auditPass tag _ _ _ => wide 64 tag
  | .rootRequest tag _ => wide 64 tag
  | .rootQueueDrain => true
  | .subSearch port _ => hedgeOk port
  | .shardList port tag _ => hedgeOk port && wide 64 tag
  | .certFields port tag _ => hedgeOk port && wide 64 tag
  | .insert tag => wide 64 tag
  | .delete tag => wide 64 tag
  | .replace tag => wide 64 tag
  | .logRecords port _ => hedgeOk port
  | .replicaApply slot => wide 8 slot
  | .logAck port shard usn => hedgeOk port && wide 32 shard && wide 64 usn
  | .logResend port shard usn => hedgeOk port && wide 32 shard && wide 64 usn
  | .deltaOpen slot => wide 8 slot
  | .sealFreeze slot => wide 8 slot
  | .sealBuild slot _ ps => wide 8 slot && ps.all fun p => wide 24 p.1 && wide 16 p.2.length && p.2.all (wide 32)
  | .sealWrite slot => wide 8 slot
  | .sealSwitch slot => wide 8 slot
  | .segmentImage port slot _ _ => hedgeOk port && wide 8 slot
  | .replicaEpochSwitch slot => wide 8 slot
  | .compactionChoose slot => wide 8 slot
  | .compactionBuild slot _ => wide 8 slot
  | .compactionSwitch slot => wide 8 slot
  | .epochRelease slot epoch => wide 8 slot && wide 32 epoch
  | .logTrim => true
  | .take tag _ => wide 64 tag
  | .release tag _ => wide 64 tag
  | .auditSweep plot => plotOk plot
  | .poolLoss loss => loss.wf
  | .replay tag _ => wide 64 tag
  | .gemm tags arr ti _ _ => tags.all (wide 64) && wide 6 arr && ti.wf
  | .loadScales tags arr ti => tags.all (wide 64) && wide 6 arr && ti.wf
  | .swapScales tags arr ti => tags.all (wide 64) && wide 6 arr && ti.wf
  | .ewise tags arr ti _ => tags.all (wide 64) && wide 6 arr && ti.wf
  | .act tags arr ti _ => tags.all (wide 64) && wide 6 arr && ti.wf
  | .norm tags arr ti _ => tags.all (wide 64) && wide 6 arr && ti.wf
  | .softmax tags arr ti _ => tags.all (wide 64) && wide 6 arr && ti.wf
  | .pool tags arr ti _ => tags.all (wide 64) && wide 6 arr && ti.wf
  | .convert tags arr ti => tags.all (wide 64) && wide 6 arr && ti.wf
  | .embGather tags ti => tags.all (wide 64) && ti.wf
  | .clipDump tags arr ti => tags.all (wide 64) && wide 6 arr && ti.wf
  | .kvAppend tags arr ti => tags.all (wide 64) && wide 6 arr && ti.wf
  | .ropeQ tags arr ti => tags.all (wide 64) && wide 6 arr && ti.wf
  | .attnMax tags arr ti => tags.all (wide 64) && wide 6 arr && ti.wf
  | .attnPage tags arr ti => tags.all (wide 64) && wide 6 arr && ti.wf
  | .attnCombine tags arr ti => tags.all (wide 64) && wide 6 arr && ti.wf
  | .tillMatvec tags ti _ => tags.all (wide 64) && ti.wf
  | .tokenChoose tags arr ti => tags.all (wide 64) && wide 6 arr && ti.wf
  | .verify tags ti => tags.all (wide 64) && ti.wf
  | .modelDrainStart slot => wide 8 slot
  | .modelActivate slot => wide 8 slot
  | .gradientBatch port _ => hedgeOk port
  | .trainStepApply table _ => wide 8 table
  | .trainWaitExpiry table => wide 8 table
  | .runningSums port table msg => hedgeOk port && wide 8 table && msg.wf
  | .embRows port tag _ => hedgeOk port && wide 64 tag
  | .loadWindowEnd => true
  | .embShardCopy table => wide 8 table
  | .embShardSwitch table => wide 8 table
  | .generate => true
  | .genPlace tag => wide 64 tag
  | .prefill tag _ => wide 64 tag
  | .decode tag _ => wide 64 tag
  | .score tag _ => wide 64 tag
  | .pagePartials tag port _ _ => wide 64 tag && hedgeOk port
  | .cacheRetainExpiry cache => wide 32 cache
  | .placementWindowEnd => true
  | .pageDemote => true
  | .promotionCopy c => plotOk c.plot && c.bad.all (wide 32)
  | .promotionSwitch plot => plotOk plot
  | .refreshSlice idx => wide 20 idx
  | .scrubSlice idx found => wide 20 idx && found.all ScrubFind.wf
  | .rowRepair plot row => plotOk plot && wide 32 row
  | .segmentLoad slot seg _ => wide 8 slot && wide 16 seg
  | .pageReload slot seg page _ => wide 8 slot && wide 16 seg && wide 32 page
  | .segmentRefetch slot seg _ => wide 8 slot && wide 16 seg
  | .tillingEnter idx => wide 20 idx
  | .tillingRun idx => wide 20 idx
  | .tillingExit idx => wide 20 idx
  | .tillingLoad idx row _ => wide 20 idx && row.wf
  | .tmAckTimeout g => g.wf
  | .tillCommandWrite g rec_ => g.wf && rec_.length == 64
  | .nop g => g.wf
  | .tillingRefreshDue g _ => g.wf
  | .rowCopy g => g.wf
  | .rowClear g => g.wf
  | .writeRow g => g.wf
  | .readRow x => x.g.wf
  | .tillAnd g => g.wf
  | .tillOr g => g.wf
  | .tillNot g => g.wf
  | .tillXor g => g.wf
  | .ewAdd g => g.wf
  | .ewMul g => g.wf
  | .ewAct g => g.wf
  | .matvec g _ => g.wf
  | .flashRead lpn sector _ ones deps => wide 32 lpn && wide 3 sector && ones.all onesOk && deps.all (wide 64)
  | .logWrite _ => true
  | .logPageTimeout => true
  | .imageWrite slot _ fails => wide 8 slot && fails.all fun f => wide 32 f.1
  | .mapCheckpoint n => wide 32 n
  | .gcCopy die _ => wide 9 die
  | .flashScrub die found => wide 9 die && found.all ScrubRead.wf
  | .flashDieLoss die => wide 9 die
  | .nandRailOvercurrent chan => wide 5 chan
  | .copy idx x deps => wide 20 idx && x.wf && deps.all (wide 64)
  | .transpose idx x deps => wide 20 idx && x.wf && deps.all (wide 64)
  | .untranspose idx x deps => wide 20 idx && x.wf && deps.all (wide 64)
  | .gather idx x deps => wide 20 idx && x.wf && deps.all (wide 64)
  | .scatter idx x deps => wide 20 idx && x.wf && deps.all (wide 64)
  | .cellPush plot queue req _ => plotOk plot && wide 16 queue && (req.map (wide 64)).getD true
  | .cellPop plot queue x deps => plotOk plot && wide 16 queue && x.wf && deps.all (wide 64)
  | .queueFlushApply plot queue => plotOk plot && wide 16 queue
  | .laneFailure port lane x => hedgeOk port && decide (lane < 9) && wide 32 x.errors
  | .laneSwap port lane => hedgeOk port && decide (lane < 9)
  | .laneRetrain port _ => hedgeOk port
  | .portRecovery port _ rttNs => hedgeOk port && wide 32 rttNs
  | .portTraining port peer rttNs _ _ _ _ => hedgeOk port && wide 64 peer && wide 32 rttNs
  | .portReup port => hedgeOk port
  | .dataFlit port flit _ _ => hedgeOk port && flit.length == 256
  | .retry port fsn => hedgeOk port && wide 16 fsn
  | .ack port fsn => hedgeOk port && wide 16 fsn
  | .peerId port peer => hedgeOk port && wide 64 peer
  | .replayTimeout port => hedgeOk port
  | .rejoinLoad port slot item => hedgeOk port && wide 8 slot && item.wf
  | .ethLinkDown port => ethOk port
  | .ethLinkUp x => ethOk x.port
  | .ethFailover port => ethOk port
  | .cmMessage port msg => ethOk port && msg.wf
  | .roceRefusedOpcode qp => wide 24 qp
  | .cnpReceive qp => wide 24 qp
  | .ceMarkedPacket qp nowNs => wide 24 qp && wide 64 nowNs
  | .pfcPause port prio _ => ethOk port && wide 3 prio
  | .arpNdEcho port _ x => ethOk port && wide 16 x.len
  | .roceAckTimeout qp => wide 24 qp
  | .shaperRefill port => portOk port
  | .egressWindow port openNs classes => portOk port && wide 32 openNs && wide 8 classes
  | .gateListTakeover port => portOk port
  | .readExpedited f => f.wf
  | .writeExpedited f => f.wf
  | .readInit f => f.wf
  | .writeInit f => f.wf
  | .segment f => f.wf
  | .abort f => f.wf
  | .commit f => f.wf
  | .discard f => f.wf
  | .transferIdleExpiry mac => wide 48 mac
  | .mirrorStagingWrite qp index sub off _ => wide 24 qp && wide 16 index && wide 8 sub && wide 32 off
  | .dictCommit qp => wide 24 qp
  | .dictDiscard qp => wide 24 qp
  | .commitApply => true
  | .rejoinTestEnd units => units.all fun u => decide (u.typ < 5) && u.wrong.all fun e => decide (e.1 < 256)
  | .rejoinLoaded slot => wide 8 slot
  | .rejoinAdmit => true
  | .plotFaultLimit plot => plotOk plot
  | .tenantDrainStart p => wide 3 p
  | .tenantSwitch p => wide 3 p
  | .tenantScrub p _ _ => wide 3 p
  | .tenantScrubEnd p => wide 3 p
  | .attReportSign => true
  | .powerOn boot => boot.wf
  | .inputLoss _ => true
  | .vinMarginal mv => wide 32 mv
  | .clockFault => true
  | .resetPulse us => wide 32 us
  | .capTest v1mv v2mv => wide 32 v1mv && wide 32 v2mv
  | .vcoreAdjust plot _ => plotOk plot
  | .thermalClamp => true
  | .clampRelease => true
  | .thermalTrip => true
  | .ingressWindow port classes => ethOk port && wide 8 classes
  | .roceAckReceived qp psn _ => wide 24 qp && wide 24 psn
  | .refclkReturn => true
  | .transmitOpportunity => true

end Sys2Proof
end

