-- ==== Sys2Proof/Decode.lean ====
section
/-! DEFINITION. The words of the operation table.  The table gives no row any bits: commands come from outside as such, and no word
spells one. -/

namespace Sys2Proof

/-- The command that a word of `nbits` bits spells by the table's bits: none, for no row gives bits. -/
def decodeTableWord (_nbits _w : Nat) : Option Instr := none

end Sys2Proof
end

