-- ==== Sys2Proof/Machine/Bits.lean ====
section
/-! DEFINITION. Byte strings, bit fields, sorted maps and sparse byte memory: the helpers every meaning uses. -/

namespace Sys2Proof.Machine

/-! ### Bytes and fields -/

/-- The number whose little-endian bytes are `b` (R6). -/
def leNat : Bytes → Nat
  | [] => 0
  | b :: bs => b.toNat + 256 * leNat bs

/-- `v` as `n` little-endian bytes (R6), taken modulo 256 to the `n`. -/
def leBytes : Nat → Nat → Bytes
  | 0, _ => []
  | n + 1, v => BitVec.ofNat 8 v :: leBytes n (v / 256)

/-- The number whose network-order bytes are `b`. -/
def beNat (b : Bytes) : Nat := leNat b.reverse

/-- `v` as `n` network-order bytes. -/
def beBytes (n v : Nat) : Bytes := (leBytes n v).reverse

/-- `n` zero bytes. -/
def zeros (n : Nat) : Bytes := List.replicate n 0

/-- At most `n` bytes of `b` from offset `o`. -/
def sl (b : Bytes) (o n : Nat) : Bytes := (b.drop o).take n

/-- The unsigned little-endian fields of `b` at offset `o`. -/
def u8 (b : Bytes) (o : Nat) : Nat := leNat (sl b o 1)
def u16 (b : Bytes) (o : Nat) : Nat := leNat (sl b o 2)
def u32 (b : Bytes) (o : Nat) : Nat := leNat (sl b o 4)
def u40 (b : Bytes) (o : Nat) : Nat := leNat (sl b o 5)
def u48 (b : Bytes) (o : Nat) : Nat := leNat (sl b o 6)
def u64 (b : Bytes) (o : Nat) : Nat := leNat (sl b o 8)

/-- `b` cut or filled with zero bytes to `n` bytes. -/
def padTo (n : Nat) (b : Bytes) : Bytes := b.take n ++ zeros (n - b.length)

/-- `b` with the bytes `v` over it from offset `o`; the length of `b` stays. -/
def overlay (b : Bytes) (o : Nat) (v : Bytes) : Bytes :=
  (b.take o ++ v ++ b.drop (o + v.length)).take b.length

/-- Whether every byte of `b` is zero. -/
def allZero (b : Bytes) : Bool := b.all (· == 0)

/-- Bits `hi` down to `lo` of `n`. -/
def bitsOf (n hi lo : Nat) : Nat := (n >>> lo) % 2 ^ (hi + 1 - lo)

/-- Bit `i` of `n`. -/
def bit (n i : Nat) : Bool := n.testBit i

/-- `n` with bit `i` set, and with bit `i` clear. -/
def setBit (n i : Nat) : Nat := n ||| (1 <<< i)
def clrBit (n i : Nat) : Nat := if n.testBit i then n - 2 ^ i else n

/-- How many of the lowest `k` bits of `n` are set. -/
def popCount (n : Nat) : Nat → Nat
  | 0 => 0
  | k + 1 => popCount n k + (if n.testBit k then 1 else 0)

/-- The indices below `k` of the set bits of `n`, ascending. -/
def bitList (n k : Nat) : List Nat := (List.range k).filter n.testBit

/-- Bit `i` of a bitmap held in bytes, bit 0 of byte 0 first. -/
def bitAt (b : Bytes) (i : Nat) : Bool := (u8 b (i / 8)).testBit (i % 8)

/-- A bitmap of `n` bits, in whole bytes, from a predicate. -/
def bitmapOf (n : Nat) (p : Nat → Bool) : Bytes :=
  (List.range ((n + 7) / 8)).map fun j =>
    BitVec.ofNat 8 (((List.range 8).filter fun i => p (8 * j + i) && decide (8 * j + i < n)).foldl (fun a i => a + 2 ^ i) 0)

/-- The two's complement value of the low `w` bits of `n`, and back. -/
def sInt (w n : Nat) : Int := (BitVec.ofNat w n).toInt
def ofSInt (w : Nat) (i : Int) : Nat := (BitVec.ofInt w i).toNat

/-- The pieces of `b` of `n` bytes each, at most `k` of them. -/
def chunks (n : Nat) : Nat → Bytes → List Bytes
  | 0, _ => []
  | k + 1, b => if b.isEmpty then [] else b.take n :: chunks n k (b.drop n)

/-- All the pieces of `b` of `n` bytes each (n > 0). -/
def splitAll (n : Nat) (b : Bytes) : List Bytes := chunks n (ceilDiv b.length (max n 1)) b

/-- A list cut into groups of n. -/
def groupsOf {α : Type} (n : Nat) (l : List α) : List (List α) :=
  (List.range (ceilDiv l.length n)).map fun i => (l.drop (n * i)).take n

/-- The ASCII bytes of a string. -/
def ascii (s : String) : Bytes := s.toList.map fun c => BitVec.ofNat 8 c.toNat

/-- Whether `p` is a power of two. -/
def isPow2 (p : Nat) : Bool := p != 0 && 2 ^ p.log2 == p

/-! ### Sorted maps: keys strictly rising -/

/-- The value under a key. -/
def mget {α : Type} : List (Nat × α) → Nat → Option α
  | [], _ => none
  | (k, v) :: m, x => if k = x then some v else if x < k then none else mget m x

/-- The map with `v` under `x`. -/
def mput {α : Type} : List (Nat × α) → Nat → α → List (Nat × α)
  | [], x, v => [(x, v)]
  | (k, w) :: m, x, v =>
    if x < k then (x, v) :: (k, w) :: m else if k = x then (x, v) :: m else (k, w) :: mput m x v

/-- The map without the key `x`. -/
def mdel {α : Type} (m : List (Nat × α)) (x : Nat) : List (Nat × α) := m.filter fun e => e.1 != x

/-- The value under a key, or `d`. -/
def mgetD {α : Type} (m : List (Nat × α)) (x : Nat) (d : α) : α := (mget m x).getD d

/-- The map with the value under `x`, if there is one, changed by `f`. -/
def mmod {α : Type} (m : List (Nat × α)) (x : Nat) (f : α → α) : List (Nat × α) :=
  m.map fun e => if e.1 = x then (e.1, f e.2) else e

/-- The map with the value under `x`, or `d` where there is none, changed by `f`. -/
def mupd {α : Type} (m : List (Nat × α)) (x : Nat) (d : α) (f : α → α) : List (Nat × α) :=
  mput m x (f (mgetD m x d))

/-- Keys strictly rising, all at least `lo`. -/
def mrisesFrom {α : Type} : Nat → List (Nat × α) → Bool
  | _, [] => true
  | lo, (k, _) :: m => decide (lo ≤ k) && mrisesFrom (k + 1) m

/-! ### Sparse byte memory: a byte that is not listed reads 0 -/

/-- Read one byte. -/
def Memory.read (m : List (Nat × Byte)) (a : Nat) : Byte := mgetD m a 0

/-- Write one byte, keeping the canonical form: addresses strictly rising, no listed byte zero. -/
def Memory.write : List (Nat × Byte) → Nat → Byte → List (Nat × Byte)
  | [], a, b => if b = 0 then [] else [(a, b)]
  | (k, c) :: m, a, b =>
    if a < k then (if b = 0 then (k, c) :: m else (a, b) :: (k, c) :: m)
    else if a = k then (if b = 0 then m else (a, b) :: m)
    else (k, c) :: Memory.write m a b

/-- Read `n` bytes from `a`. -/
def Memory.readN (m : List (Nat × Byte)) (a : Nat) : Nat → Bytes
  | 0 => []
  | n + 1 => Memory.read m a :: Memory.readN m (a + 1) n

/-- Write the bytes `b` from `a`. -/
def Memory.writeN (m : List (Nat × Byte)) (a : Nat) : Bytes → List (Nat × Byte)
  | [] => m
  | b :: bs => Memory.writeN (Memory.write m a b) (a + 1) bs

/-- The canonical form. -/
def Memory.wf (m : List (Nat × Byte)) : Bool := mrisesFrom 0 m && m.all fun e => e.2 != 0

/-! ### Lists -/

/-- Insert before the first element that `x` is strictly below, so that equal elements keep their order. -/
def insertBy {α : Type} (lt : α → α → Bool) (x : α) : List α → List α
  | [] => [x]
  | y :: ys => if lt x y then x :: y :: ys else y :: insertBy lt x ys

/-- Stable insertion sort. -/
def sortBy {α : Type} (lt : α → α → Bool) (l : List α) : List α := l.foldl (fun acc x => insertBy lt x acc) []
def sortNat (l : List Nat) : List Nat := sortBy (fun a b => decide (a < b)) l

/-- Remove later repeats of the same key. -/
def dedupBy {α : Type} (key : α → Nat) : List Nat → List α → List α
  | _, [] => []
  | seen, x :: xs => if seen.contains (key x) then dedupBy key seen xs else x :: dedupBy key (key x :: seen) xs

/-- The sum of a list of numbers. -/
def sumNat (l : List Nat) : Nat := l.foldl (· + ·) 0

/-- The largest of a list, 0 for none. -/
def maxNat (l : List Nat) : Nat := l.foldl max 0

/-- The least of a list, `d` for none. -/
def minNat (d : Nat) (l : List Nat) : Nat := l.foldl min d

/-- Whether no number occurs twice. -/
def noDup : List Nat → Bool
  | [] => true
  | x :: xs => !xs.contains x && noDup xs

/-- `f` folded over the numbers below `n`. -/
def foldRange {α : Type} (n : Nat) (a : α) (f : α → Nat → α) : α := (List.range n).foldl f a

end Sys2Proof.Machine
end

