-- ==== Sys2Proof/Machine/Float.lean ====
section
/-! DEFINITION. Binary floating point by exact rationals (R77): a value is decoded exactly, an operation is taken exactly
and rounded once, to nearest even, with subnormals kept and nothing fused. -/

namespace Sys2Proof.Machine

/-- A floating-point format: exponent bits, fraction bits, bias, whether the top exponent holds infinities and NaNs
(IEEE 754), or only the all-ones pattern is NaN (E4M3), or every pattern is a number (the MX element formats). -/
structure FFmt where
  eb   : Nat
  mb   : Nat
  bias : Nat
  kind : Nat
  deriving DecidableEq, Repr

def fp32 : FFmt := ⟨8, 23, 127, 0⟩
def fp16 : FFmt := ⟨5, 10, 15, 0⟩
def bf16 : FFmt := ⟨8, 7, 127, 0⟩
def e5m2 : FFmt := ⟨5, 2, 15, 0⟩
def e4m3 : FFmt := ⟨4, 3, 7, 1⟩
def e2m1 : FFmt := ⟨2, 1, 1, 2⟩

/-- A decoded value: not a number, an infinity, or (-1)^neg · num / den with den > 0. -/
inductive FV where
  | nan
  | inf (neg : Bool)
  | fin (neg : Bool) (num den : Nat)
  deriving DecidableEq, Repr

/-- The bits of a format. -/
def FFmt.width (f : FFmt) : Nat := 1 + f.eb + f.mb

/-- The value of a pattern. -/
def fdec (f : FFmt) (b : Nat) : FV :=
  let m := b % 2 ^ f.mb
  let e := (b / 2 ^ f.mb) % 2 ^ f.eb
  let s := (b / 2 ^ (f.mb + f.eb)) % 2 == 1
  if f.kind = 0 ∧ e = 2 ^ f.eb - 1 then (if m = 0 then .inf s else .nan)
  else if f.kind = 1 ∧ e = 2 ^ f.eb - 1 ∧ m = 2 ^ f.mb - 1 then .nan
  else
    let sig := if e = 0 then m else m + 2 ^ f.mb
    let ex := if e = 0 then 1 else e          -- value sig * 2^(ex - bias - mb)
    if f.bias + f.mb ≤ ex then .fin s (sig * 2 ^ (ex - f.bias - f.mb)) 1
    else .fin s sig (2 ^ (f.bias + f.mb - ex))

/-- `num / den` rounded half to even. -/
def rneDiv (num den : Nat) : Nat :=
  let q := num / den
  let r := num % den
  if 2 * r < den then q else if den < 2 * r then q + 1 else if q % 2 = 0 then q else q + 1

/-- The pattern of a NaN, an infinity, and the largest finite value. -/
def fnan (f : FFmt) : Nat :=
  if f.kind = 0 then (2 ^ f.eb - 1) * 2 ^ f.mb + 2 ^ (f.mb - 1)
  else if f.kind = 1 then 2 ^ (f.eb + f.mb) - 1 else 0
def fsignBit (f : FFmt) (s : Bool) : Nat := if s then 2 ^ (f.eb + f.mb) else 0
def fmaxFin (f : FFmt) : Nat :=
  if f.kind = 0 then (2 ^ f.eb - 1) * 2 ^ f.mb - 1
  else if f.kind = 1 then 2 ^ (f.eb + f.mb) - 2 else 2 ^ (f.eb + f.mb) - 1
def finf (f : FFmt) (s : Bool) : Nat :=
  fsignBit f s + (if f.kind = 0 then (2 ^ f.eb - 1) * 2 ^ f.mb else if f.kind = 1 then fnan f else fmaxFin f)

/-- floor(log2(num / den)) plus `2^20`, for num, den > 0. -/
def flog2 (num den : Nat) : Nat :=
  let a := num.log2
  let b := den.log2
  let e := 1048576 + a - b
  -- 2^(a-b) ≤ num/den or just below
  if (if b ≤ a then den * 2 ^ (a - b) ≤ num else den ≤ num * 2 ^ (b - a)) then e else e - 1

/-- The pattern of the magnitude num / den before the range test: one rounding, to nearest even. The result may pass the
top exponent. -/
def fmag (f : FFmt) (num den : Nat) : Nat :=
  if num = 0 then 0 else
  let e := flog2 num den
  -- biased exponent, at least 1
  let eb := max (e + f.bias - 1048576) 1
  -- quantum 2^(eb - bias - mb)
  let q := if f.bias + f.mb ≤ eb then rneDiv num (den * 2 ^ (eb - f.bias - f.mb))
           else rneDiv (num * 2 ^ (f.bias + f.mb - eb)) den
  -- q < 2^mb: subnormal; q = 2^(mb+1): carries into the exponent, which addition does by itself
  q + (eb - 1) * 2 ^ f.mb

/-- Encode with one rounding; overflow gives an infinity, or the largest finite value under `sat`. -/
def fenc (f : FFmt) (sat : Bool) : FV → Nat
  | .nan => fnan f
  | .inf s => if sat then fsignBit f s + fmaxFin f else finf f s
  | .fin s num den =>
    let m := fmag f num den
    if fmaxFin f < m then (if sat then fsignBit f s + fmaxFin f else finf f s) else fsignBit f s + m

/-- Exact sum, product and quotient of decoded values.  An exact zero sum is +0, unless both are negative zeros. -/
def fvAdd : FV → FV → FV
  | .nan, _ => .nan
  | _, .nan => .nan
  | .inf s, .inf t => if s = t then .inf s else .nan
  | .inf s, _ => .inf s
  | _, .inf t => .inf t
  | .fin s a b, .fin t c d =>
    let x := a * d
    let y := c * b
    if s = t then .fin s (x + y) (b * d)
    else if x = y then .fin false 0 1
    else if y < x then .fin s (x - y) (b * d) else .fin t (y - x) (b * d)
def fvNeg : FV → FV
  | .nan => .nan
  | .inf s => .inf (!s)
  | .fin s a b => .fin (!s) a b
def fvSub (x y : FV) : FV := fvAdd x (fvNeg y)
def fvMul : FV → FV → FV
  | .nan, _ => .nan
  | _, .nan => .nan
  | .inf s, .inf t => .inf (s != t)
  | .inf s, .fin t a _ => if a = 0 then .nan else .inf (s != t)
  | .fin s a _, .inf t => if a = 0 then .nan else .inf (s != t)
  | .fin s a b, .fin t c d => .fin (s != t) (a * c) (b * d)
def fvDiv : FV → FV → FV
  | .nan, _ => .nan
  | _, .nan => .nan
  | .inf _, .inf _ => .nan
  | .inf s, .fin t _ _ => .inf (s != t)
  | .fin s _ _, .inf t => .fin (s != t) 0 1
  | .fin s a b, .fin t c d =>
    if c = 0 then (if a = 0 then .nan else .inf (s != t)) else .fin (s != t) (a * d) (b * c)

/-- Numeric comparison: `some` of the order, `none` with a NaN; -0 equals +0. -/
def fvLt : FV → FV → Bool
  | .nan, _ => false
  | _, .nan => false
  | .inf s, .inf t => s && !t
  | .inf s, .fin .. => s
  | .fin .., .inf t => !t
  | .fin s a b, .fin t c d =>
    let x : Int := if s then -(a : Int) else a
    let y : Int := if t then -(c : Int) else c
    decide (x * d < y * b)
def fvIsNan : FV → Bool
  | .nan => true
  | _ => false
def fvFinite : FV → Bool
  | .fin .. => true
  | _ => false
def fvIsZero : FV → Bool
  | .fin _ a _ => a == 0
  | _ => false

/-- FP32 operations on patterns, one rounding each. -/
def f32add (a b : Nat) : Nat := fenc fp32 false (fvAdd (fdec fp32 a) (fdec fp32 b))
def f32sub (a b : Nat) : Nat := fenc fp32 false (fvSub (fdec fp32 a) (fdec fp32 b))
def f32mul (a b : Nat) : Nat := fenc fp32 false (fvMul (fdec fp32 a) (fdec fp32 b))
def f32div (a b : Nat) : Nat := fenc fp32 false (fvDiv (fdec fp32 a) (fdec fp32 b))
def f32lt (a b : Nat) : Bool := fvLt (fdec fp32 a) (fdec fp32 b)
def f32le (a b : Nat) : Bool := !fvIsNan (fdec fp32 a) && !fvIsNan (fdec fp32 b) && !f32lt b a
def f32isNan (a : Nat) : Bool := fvIsNan (fdec fp32 a)
def f32neg (a : Nat) : Nat := a ^^^ 0x80000000
def f32abs (a : Nat) : Nat := a % 0x80000000
def f32one : Nat := 0x3F800000

/-- The integer square root, by bits from 2^k down. -/
def isqrtAux (n : Nat) : Nat → Nat → Nat
  | 0, r => r
  | k + 1, r => let c := r + 2 ^ k; if c * c ≤ n then isqrtAux n k c else isqrtAux n k r
def isqrt (n : Nat) : Nat := isqrtAux n (n.log2 / 2 + 1) 0

/-- FP32 square root, correctly rounded: the root is taken to far more bits than the format holds, and a remainder is
kept as one sticky bit below them. -/
def f32sqrt (a : Nat) : Nat :=
  match fdec fp32 a with
  | .nan => fnan fp32
  | .inf s => if s then fnan fp32 else a
  | .fin s n d =>
    if n = 0 then a
    else if s then fnan fp32
    else
      let v := n * 2 ^ 400 / d           -- exact: d is a power of two at most 2^149
      let r := isqrt v
      let t := if r * r = v then 2 * r else 2 * r + 1
      fenc fp32 false (.fin false t (2 ^ 201))

/-- Conversions, one rounding each. -/
def f16to32 (h : Nat) : Nat := fenc fp32 false (fdec fp16 h)
def f32to16 (a : Nat) : Nat := fenc fp16 false (fdec fp32 a)
def natTo32 (n : Nat) : Nat := fenc fp32 false (.fin false n 1)
def intTo32 (i : Int) : Nat := fenc fp32 false (.fin (i < 0) i.natAbs 1)

/-- Round half to even to an integer; a NaN or an infinity gives none. -/
def fvRound : FV → Option Int
  | .fin s n d => some (if s then -((rneDiv n d : Nat) : Int) else ((rneDiv n d : Nat) : Int))
  | _ => none

/-- 2^e as a value. -/
def fvPow2 (e : Int) : FV := if 0 ≤ e then .fin false (2 ^ e.toNat) 1 else .fin false 1 (2 ^ (-e).toNat)

end Sys2Proof.Machine
end

