-- ==== Sys2Proof/Config.lean ====
section
/-! DEFINITION. What an implementation or the manufacture fixes, and the free values: constants without a body, so that
nothing can be proved of their values.  Each is named in the assumption log. -/

namespace Sys2Proof.Config

open Sys2Proof.Machine

/-- The next free value: a number that nothing constrains, picked by the model's own counter `State.freeCtr`. -/
opaque freeNat : Nat → Nat

/-- Free bytes of a given length, picked by the counter. -/
opaque freeByte : Nat → Nat → Byte
def freeBytes (ctr n : Nat) : Bytes := (List.range n).map (freeByte ctr)

/-- The values set at manufacture (R347, R359, R361): serial number, peer identity, MAC base, identity public key, the
digest of the firmware root, the attestation seed's leaf keys. -/
opaque serial : Nat → Byte
opaque peerId : Nat
opaque macBase : Nat
opaque idPublicKey : Nat → Byte
opaque fwRootDigest : Nat → Byte
opaque leafSignature : Nat → Bytes → Nat → Byte

/-- What rounding a NaN to an integer gives where the spec states no result (R79). -/
opaque roundOpen : Nat → Nat → Int

/-- The NODE_INDEX under which another node merges the lists of a sub-search that carries no merge-source table, by its SUB_TAG: the
spec does not say how the serving node learns it (R105, R108, R159). -/
opaque subNode : Nat → Nat

/-- Values of the tensor arrays that the spec does not state: a conversion of a float that is no representable integer to an
integer format, and a rescale whose register and accumulator do not fit (R181, R182); by a code of the case and the operand. -/
opaque tensorOpen : Nat → Nat → Nat

/-- The owner's choice of hubs and edges (R54, R62): which offset hub i prefers, and the j-th neighbour it proposes for a
vertex. The builder keeps of it what the limits of the layout allow. -/
opaque hubChoice : Bytes → Nat → Nat
opaque hubEdge : Bytes → Nat → Nat → Nat
opaque baseEdge : Bytes → Nat → Nat → Nat
opaque entryHub : Bytes → Nat

/-- The insert USN of an offset of a sealed segment whose delta this node never held (R50): no part of the image states it.  The places
16,777,216 and 16,777,217 pick the offsets that hold the least and the greatest. -/
opaque insertUsn : Nat → Nat → Nat

/-- The firmware's own bytes of the Seedling plan set, which fix its digest (R383). -/
opaque seedlingDigest : Nat → Nat → Nat → Bytes → Nat → Byte

/-- Whether the Seedling plan set holds audit scan slices, one of the firmware's own choices (R130, R383). -/
opaque seedlingAudit : Bool

/-- The digests, security versions and qualified list of a firmware bank (R269, R357, R358). -/
opaque fwDigest : Nat → Nat → Byte
opaque qualRecord : Nat → Nat → Byte
opaque qualCount : Nat

/-- AES-256-XTS under a namespace key, by the key's generation, the tweak, the data and the byte (R271). -/
opaque xtsEncrypt : Nat → Nat → Bytes → Nat → Byte

/-- The public-key algorithms the spec names and leaves to their standards (R361 to R364): verification of an image
signature, key encapsulation, and AES-256-GCM under a key and an IV: the sealed byte and the tag's byte of a message, and the byte that a sealed message
opens to (R367). -/
opaque fwSignatureOk : Bytes → Bool
opaque kemPublic : Nat → Nat → Byte
opaque kemDecaps : Nat → Bytes → Nat → Byte
opaque kemEncaps : Nat → Bytes → Nat → Byte
opaque gcmSeal : Bytes → Bytes → Bytes → Nat → Byte
opaque gcmTag : Bytes → Bytes → Bytes → Nat → Byte
opaque gcmOpen : Bytes → Bytes → Bytes → Nat → Byte

end Sys2Proof.Config
end

