-- ==== Sys2Proof/Machine/Keccak.lean ====
section
/-! DEFINITION. SHAKE256 and KMAC256, the digests and tags of the whole node (the functions the spec
names; their definition is that of FIPS 202 and SP 800-185). -/

namespace Sys2Proof.Machine

/-- The shift register whose low bits are those of the round constants: its feedback is x^8 + x^6 + x^5 + x^4 + 1. -/
def rcNext (r : Nat) : Nat := if 128 ≤ r then 2 * r ^^^ 369 else 2 * r

/-- The round constant that seven bits of the register spell, bit j of them at place 2^j − 1, and the register after them. -/
def rcWord (r : Nat) : Nat × Nat :=
  ([1, 2, 8, 128, 2 ^ 15, 2 ^ 31, 2 ^ 63] : List Nat).foldl (fun st place => (st.1 + st.2 % 2 * place, rcNext st.2)) (0, r)

/-- The constants of n rounds from a register on. -/
def rcWords : Nat → Nat → List W64
  | 0, _ => []
  | n + 1, r => BitVec.ofNat 64 (rcWord r).1 :: rcWords n (rcWord r).2
def keccakRC : List W64 := rcWords 24 1

/-- The lanes that rho turns, as x + 5y, each with its rotation: the t-th after lane (1, 0) by (t + 1)(t + 2) / 2. -/
def rotWalk : Nat → Nat → Nat → Nat → List (Nat × Nat)
  | 0, _, _, _ => []
  | n + 1, t, x, y => (x + 5 * y, (t + 1) * (t + 2) / 2 % 64) :: rotWalk n (t + 1) y ((2 * x + 3 * y) % 5)
def keccakRot : List Nat :=
  let walk := rotWalk 24 0 1 0
  (List.range 25).map fun i => ((walk.find? fun e => e.1 == i).map (·.2)).getD 0

/-- Lane x + 5y of the state. -/
def lane (a : List W64) (x y : Nat) : W64 := a.getD (x % 5 + 5 * (y % 5)) 0

/-- One round: theta, rho, pi, chi and iota. -/
def keccakRound (a : List W64) (rc : W64) : List W64 :=
  let c := (List.range 5).map fun x => lane a x 0 ^^^ lane a x 1 ^^^ lane a x 2 ^^^ lane a x 3 ^^^ lane a x 4
  let d := (List.range 5).map fun x => c.getD ((x + 4) % 5) 0 ^^^ (c.getD ((x + 1) % 5) 0).rotateLeft 1
  let t := (List.range 25).map fun i => (a.getD i 0 ^^^ d.getD (i % 5) 0).rotateLeft (keccakRot.getD i 0)
  -- lane (x, y) of pi is lane (x + 3y, x) of rho
  let b := (List.range 25).map fun i => lane t (i % 5 + 3 * (i / 5)) (i % 5)
  let e := (List.range 25).map fun i =>
    let x := i % 5; let y := i / 5
    lane b x y ^^^ (~~~ lane b (x + 1) y &&& lane b (x + 2) y)
  match e with
  | [] => []
  | e0 :: es => (e0 ^^^ rc) :: es

/-- Keccak-f[1600]. -/
def keccakF (a : List W64) : List W64 := keccakRC.foldl keccakRound a

/-- The 17 lanes of a 136-byte block added to the state. -/
def keccakXor (a : List W64) (blk : Bytes) : List W64 :=
  (List.range 25).map fun i =>
    a.getD i 0 ^^^ (if i < 17 then BitVec.ofNat 64 (leNat (sl blk (8 * i) 8)) else 0)

/-- The sponge's absorbing, over whole 136-byte blocks. -/
def keccakAbsorb (a : List W64) (blks : List Bytes) : List W64 :=
  blks.foldl (fun a blk => keccakF (keccakXor a blk)) a

/-- `n` blocks squeezed out. -/
def keccakSqueeze (a : List W64) : Nat → Bytes
  | 0 => []
  | n + 1 => ((a.take 17).flatMap fun w => leBytes 8 w.toNat) ++ keccakSqueeze (keccakF a) n

/-- The message with its domain byte and the pad to a whole number of 136-byte blocks. -/
def keccakPad (dom : Nat) (m : Bytes) : Bytes :=
  let r := 136 - m.length % 136
  if r = 1 then m ++ [BitVec.ofNat 8 (dom + 128)]
  else m ++ [BitVec.ofNat 8 dom] ++ zeros (r - 2) ++ [0x80]

/-- The sponge with capacity 512. -/
def sponge256 (dom : Nat) (m : Bytes) (out : Nat) : Bytes :=
  (keccakSqueeze (keccakAbsorb (List.replicate 25 0) (splitAll 136 (keccakPad dom m))) (ceilDiv out 136)).take out

/-- SHAKE256 with an output of `out` bytes. -/
def shake256 (m : Bytes) (out : Nat) : Bytes := sponge256 0x1F m out

/-- The 32-byte digest of the node. -/
def digest (m : Bytes) : Bytes := shake256 m 32

/-- left_encode and right_encode of SP 800-185. -/
def encLen (n : Nat) : Nat := if n = 0 then 1 else n.log2 / 8 + 1
def leftEncode (n : Nat) : Bytes := BitVec.ofNat 8 (encLen n) :: beBytes (encLen n) n
def rightEncode (n : Nat) : Bytes := beBytes (encLen n) n ++ [BitVec.ofNat 8 (encLen n)]

/-- encode_string and bytepad of SP 800-185. -/
def encodeString (s : Bytes) : Bytes := leftEncode (8 * s.length) ++ s
def bytepad (s : Bytes) : Bytes :=
  let t := leftEncode 136 ++ s
  t ++ zeros ((136 - t.length % 136) % 136)

/-- KMAC256 with key, message, output bytes and customisation string. -/
def kmac256 (key m : Bytes) (out : Nat) (custom : String) : Bytes :=
  sponge256 0x04
    (bytepad (encodeString (ascii "KMAC") ++ encodeString (ascii custom)) ++ bytepad (encodeString key) ++ m ++
      rightEncode (8 * out)) out

end Sys2Proof.Machine
end

