-- ==== Sys2Proof/Machine/Merkle.lean ====
section
/-! DEFINITION. Merkle trees, roots and chains (R65 to R69). -/

namespace Sys2Proof.Machine

/-- One level of a tree: adjacent pairs combined, an unpaired last node promoted (R65). -/
def treeLevel : List Bytes → List Bytes
  | a :: b :: rest => digest (0x01 :: (a ++ b)) :: treeLevel rest
  | l => l

/-- `n` levels up. -/
def treeUp : Nat → List Bytes → List Bytes
  | 0, l => l
  | n + 1, l => treeUp n (treeLevel l)

/-- tree_top of R65; the levels of a list of n leaves are at most its binary length. -/
def treeTop (leaves : List Bytes) : Bytes := (treeUp (leaves.length.log2 + 1) leaves).headD (zeros 32)

/-- The inclusion path of leaf `j` (R66): siblings with their side bits (`true` on the right), leaf upwards. -/
def treePath : Nat → List Bytes → Nat → List (Bool × Bytes)
  | 0, _, _ => []
  | n + 1, l, j =>
    let here : List (Bool × Bytes) :=
      if j % 2 = 1 then [(false, l.getD (j - 1) [])]
      else if j + 1 < l.length then [(true, l.getD (j + 1) [])] else []
    here ++ treePath n (treeLevel l) (j / 2)

def inclPath (leaves : List Bytes) (j : Nat) : List (Bool × Bytes) := treePath (leaves.length.log2 + 1) leaves j

/-- The top that a leaf and its path give (R66, R119). -/
def foldPath (leaf : Bytes) (path : List (Bool × Bytes)) : Bytes :=
  path.foldl (fun h s => if s.1 then digest (0x01 :: (h ++ s.2)) else digest (0x01 :: (s.2 ++ h))) leaf

/-- The side bits of a path as a number. -/
def pathSides (path : List (Bool × Bytes)) : Nat :=
  (path.zipIdx).foldl (fun a e => if e.1.1 then a + 2 ^ e.2 else a) 0

/-- The leaf of an image-sized page (R65, R67). -/
def pageLeaf (p : Nat) (page : Bytes) : Bytes := digest (0x00 :: (leBytes 4 p ++ page))

/-- The leaves of an image, page by page. -/
def pageLeaves (image : Bytes) : List Bytes :=
  ((splitAll 16384 image).zipIdx).map fun e => pageLeaf e.2 e.1

/-- The segment root (R65). -/
def segmentRoot (shard seg : Nat) (image : Bytes) : Bytes :=
  digest (0x02 :: (leBytes 4 shard ++ leBytes 2 seg ++ leBytes 4 (image.length / 16384) ++ treeTop (pageLeaves image)))

/-- The tombstone base root over (handle, delete USN) entries in ascending handle order (R67). -/
def tombBaseRoot (shard epoch : Nat) (entries : List (Nat × Nat)) : Bytes :=
  let bytes := entries.flatMap fun e => leBytes 5 e.1 ++ zeros 3 ++ leBytes 8 e.2
  let top := if entries.isEmpty then zeros 32 else
    treeTop (((splitAll 16384 bytes).zipIdx).map fun e => pageLeaf e.2 (padTo 16384 e.1))
  digest (0x05 :: (leBytes 4 shard ++ leBytes 4 epoch ++ leBytes 4 entries.length ++ top))

/-- The base and a link of the delta chain (R68). -/
def chainBase (shard epoch f : Nat) : Bytes := digest (0x06 :: (leBytes 4 shard ++ leBytes 4 epoch ++ leBytes 8 f))
def chainLink (prior : Bytes) (u : Nat) (upd : Bytes) : Bytes := digest (0x04 :: (prior ++ leBytes 8 u ++ upd))

/-- The snapshot root over its leaves (R69). -/
def snapshotRoot (shard epoch u : Nat) (leaves : List Bytes) : Bytes :=
  digest (0x03 :: (leBytes 4 shard ++ leBytes 4 epoch ++ leBytes 8 u ++ leBytes 4 leaves.length ++ treeTop leaves))

end Sys2Proof.Machine
end

