-- ==== Sys2Proof/Machine/Segment.lean ====
section
/-! DEFINITION. The segment image (R47 to R60): reading its fields, checking its rules (R71) and building it (R146). -/

namespace Sys2Proof.Machine

/-- A handle of a segment number and an offset, and its two fields (R47). -/
def mkHandle (seg off : Nat) : Nat := seg * 16777216 + off
def handleSeg (h : Nat) : Nat := h / 16777216
def handleOff (h : Nat) : Nat := h % 16777216
/-- The sentinel handle, and the delete USN of a live item (R37, R47). -/
def noHandle : Nat := 0xFFFFFFFFFF
def usnNever : Nat := 0xFFFFFFFFFFFFFFFF

/-- The feature level of stepping B0 (R337). -/
def featureLevel : Bytes := leBytes 16 0x04010000000000000000000000000001

/-! ### Header (R50) and sections (R51) -/

def segMetric (i : Bytes) : Nat := u8 i 6
def segBits (i : Bytes) : Nat := u8 i 7
def segNumber (i : Bytes) : Nat := u16 i 8
def segM (i : Bytes) : Nat := u8 i 10
def segFlags (i : Bytes) : Nat := u8 i 11
def segDim (i : Bytes) : Nat := u16 i 12
def segShard (i : Bytes) : Nat := u32 i 16
def segEpoch (i : Bytes) : Nat := u32 i 20
def segVc (i : Bytes) : Nat := u32 i 24
def segHubs (i : Bytes) : Nat := u32 i 28
def segFeature (i : Bytes) : Bytes := sl i 48 16
def segPages (i : Bytes) : Nat := u32 i 64
def segSecCount (i : Bytes) : Nat := u32 i 68
def segBaseDeg (i : Bytes) : Nat := u8 i 72
def segHubDeg (i : Bytes) : Nat := u8 i 73
def segEntry (i : Bytes) : Nat := u32 i 76
def segCb (i : Bytes) : Bytes := sl i 80 32
def segKvModel (i : Bytes) : Bytes := sl i 112 32
def segMirrored (i : Bytes) : Bool := bit (segFlags i) 0
def segPassage (i : Bytes) : Bool := bit (segFlags i) 1
def segBitmaps (i : Bytes) : Bool := bit (segFlags i) 2
def codeBytes (m bits : Nat) : Nat := if bits = 4 then m / 2 else m
def recordBytes (dim : Nat) : Nat := 64 * ceilDiv (8 + dim) 64
def centroids (bits : Nat) : Nat := 2 ^ bits

/-- The directory: (type, first page, byte length). -/
def segDir (i : Bytes) : List (Nat × Nat × Nat) :=
  (List.range (segSecCount i)).map fun k => (u16 i (256 + 16 * k), u32 i (260 + 16 * k), u64 i (264 + 16 * k))

/-- The bytes of a section, none where it is absent. -/
def segSec (i : Bytes) (typ : Nat) : Bytes :=
  match (segDir i).find? fun e => e.1 == typ with
  | some e => sl i (16384 * e.2.1) e.2.2
  | none => []

/-- Where a section begins in the image. -/
def segSecAt (i : Bytes) (typ : Nat) : Nat :=
  match (segDir i).find? fun e => e.1 == typ with
  | some e => 16384 * e.2.1
  | none => 0

def segExt (i : Bytes) (o : Nat) : Nat := u64 (segSec i 1) (8 * o)
def segAttr (i : Bytes) (o : Nat) : Bytes := sl (segSec i 8) (32 * o) 32
def segCodebook (i : Bytes) : Bytes := segSec i 2
def segCode (i : Bytes) (o : Nat) : Bytes := sl (segSec i 3) (codeBytes (segM i) (segBits i) * o) (codeBytes (segM i) (segBits i))
def segRecord (i : Bytes) (o : Nat) : Bytes := sl (segSec i 11) (recordBytes (segDim i) * o) (recordBytes (segDim i))

/-- The centroid indices of a code (R53). -/
def codeIndices (bits : Nat) (code : Bytes) : List Nat :=
  if bits = 4 then code.flatMap fun b => [b.toNat % 16, b.toNat / 16] else code.map (·.toNat)

/-! ### Graphs (R54 to R56) -/

def hubOffset (i : Bytes) (h : Nat) : Nat := u32 (segSec i 4) (4 * h) % 16777216

/-- The neighbours of an encoded list (R56). -/
def decodeNeighbours (l : Bytes) : List Nat :=
  let deg := u8 l 0
  let tags := sl l 1 (ceilDiv deg 4)
  let step := fun (st : List Nat × Nat × Nat) (k : Nat) =>
    let w := bitsOf (u8 tags (k / 4)) (2 * (k % 4) + 1) (2 * (k % 4)) + 1
    let v := leNat (sl l st.2.1 w)
    let n := if k = 0 then v else st.2.2 + v + 1
    (st.1 ++ [n], st.2.1 + w, n)
  (foldRange deg ([], 1 + ceilDiv deg 4, 0) step).1

/-- The canonical list of neighbours in ascending order (R56). -/
def encodeNeighbours (ns : List Nat) : Bytes :=
  if ns.isEmpty then [0] else
  let vals := (ns.zipIdx).map fun e => if e.2 = 0 then e.1 else e.1 - ns.getD (e.2 - 1) 0 - 1
  let width := fun v => if v < 256 then 1 else if v < 65536 then 2 else 3
  let tag := fun j => (List.range 4).foldl (fun a k =>
    match vals[4 * j + k]? with
    | some v => a + (width v - 1) * 4 ^ k
    | none => a) 0
  leBytes 1 ns.length ++ ((List.range (ceilDiv ns.length 4)).map fun j => BitVec.ofNat 8 (tag j)) ++
    vals.flatMap fun v => leBytes (width v) v

/-- The encoded list of vertex `v` in a group block that starts at `at_` of `sec` (R55). -/
def groupList (sec : Bytes) (at_ v : Nat) : Bytes :=
  let lens := (List.range 64).map fun k => u8 sec (at_ + k)
  sl sec (at_ + 64 + sumNat (lens.take (v % 64))) (lens.getD (v % 64) 0)

def baseNeighbours (i : Bytes) (o : Nat) : List Nat :=
  decodeNeighbours (groupList (segSec i 7) (u64 (segSec i 6) (8 * (o / 64)) % 2 ^ 40) o)
def hubNeighbours (i : Bytes) (h : Nat) : List Nat :=
  decodeNeighbours (groupList (segSec i 5) (u64 (segSec i 5) (8 * (h / 64)) % 2 ^ 40) h)

/-! ### Attributes (R57) and bitmaps (R58) -/

def attrTag (a : Bytes) (t : Nat) : Nat := u16 a (2 * t)

/-- The bitmap directory: (field, value, match count, first pair). -/
def segBitmapDir (i : Bytes) : List (Nat × Nat × Nat × Nat) :=
  if segBitmaps i then
    (splitAll 16 (segSec i 9)).map fun e => (u8 e 0, u16 e 2, u32 e 4, u32 e 8)
  else []

/-- The bit of an offset in the TRUE row of a bitmap that begins at row pair `pair`. -/
def bitmapBit (i : Bytes) (pair o : Nat) : Bool :=
  bitAt (sl (segSec i 10) (2048 * (pair + o / 8192)) 1024) (o % 8192)

/-! ### Checks at load (R49 to R60, R71, R80) -/

def strictlyRising : List Nat → Bool
  | a :: b :: rest => decide (a < b) && strictlyRising (b :: rest)
  | _ => true

/-- An adjacency's lists: canonical, within the degree, ascending, without the vertex and within the range (R56). -/
def listOk (l : Bytes) (v n maxDeg : Nat) : Bool :=
  let ns := decodeNeighbours l
  decide (u8 l 0 ≤ maxDeg) && strictlyRising ns && ns.all (fun x => decide (x < n) && x != v) && (encodeNeighbours ns == l)

def groupOk (sec : Bytes) (at_ g n maxDeg : Nat) : Bool :=
  (List.range 64).all fun k =>
    let v := 64 * g + k
    if v < n then listOk (groupList sec at_ v) v n maxDeg else u8 sec (at_ + k) == 0

/-- Whether the `n` group blocks of a graph follow each other from `start`, with nothing between them, to the end of their section
(R55): the entry of each in the directory `dir` is where the block before it ends. -/
def groupsPacked (dir sec : Bytes) (start n : Nat) : Bool :=
  let size := fun (at_ : Nat) => 64 + sumNat ((List.range 64).map fun k => u8 sec (at_ + k))
  let r := foldRange n (true, start) fun (st : Bool × Nat) g =>
    (st.1 && u64 dir (8 * g) % 2 ^ 40 == st.2, st.2 + size st.2)
  r.1 && r.2 == sec.length

/-- The sections that the flags demand, in ascending order. -/
def segWanted (i : Bytes) : List Nat :=
  [1, 2, 3, 4, 5, 6, 7, 8] ++ (if segBitmaps i then [9, 10] else []) ++ [11] ++ (if segPassage i then [12, 13] else [])

/-- Sections lie in ascending order on page boundaries, with zero fill between, and fill the image (R49, R51). -/
def segLayoutOk (i : Bytes) : Bool :=
  let d := segDir i
  (d.map (·.1) == segWanted i) &&
  (d.foldl (fun (st : Bool × Nat) e => (st.1 && e.2.1 == st.2, e.2.1 + ceilDiv e.2.2 16384)) (true, 1)).1 &&
  ((d.foldl (fun (n : Nat) e => n + ceilDiv e.2.2 16384) 1) == segPages i) && (i.length == 16384 * segPages i) &&
  d.all (fun e => allZero (sl i (16384 * e.2.1 + e.2.2) (16384 * ceilDiv e.2.2 16384 - e.2.2)))

def segHeaderOk (i : Bytes) : Bool :=
  (sl i 0 4 == ascii "OSEG") && u16 i 4 == 1 && decide (segMetric i ≤ 2) && (segBits i == 4 || segBits i == 8) &&
  [16, 32, 48, 64, 96, 128].contains (segM i) && decide (1 ≤ segDim i) && decide (segDim i ≤ 4096) &&
  segDim i % segM i == 0 && decide (1 ≤ segVc i) && decide (segVc i ≤ 16777216) && decide (1 ≤ segHubs i) &&
  decide (segHubs i ≤ 262144) && decide (segHubs i ≤ segVc i) && decide (1 ≤ segSecCount i) &&
  decide (segSecCount i ≤ 16) && decide (8 ≤ segBaseDeg i) && decide (segBaseDeg i ≤ 64) &&
  decide (1 ≤ segHubDeg i) && decide (segHubDeg i ≤ 32) && decide (segEntry i < segHubs i) &&
  (segFeature i == featureLevel) && (segPassage i || allZero (segKvModel i))

/-- The sum of the squares of INT8 components (R59). -/
def byteSquares (b : Bytes) : Nat := sumNat (b.map fun x => x.toInt.natAbs * x.toInt.natAbs)

def segSectionsOk (i : Bytes) : Bool :=
  let vc := segVc i
  let hubs := (List.range (segHubs i)).map (hubOffset i)
  (segSec i 1).length == 8 * vc && (segSec i 2).length == centroids (segBits i) * segDim i * 2 &&
  (digest (segSec i 2) == segCb i) &&
  (segSec i 3).length == 64 * ceilDiv vc 64 * codeBytes (segM i) (segBits i) &&
  allZero ((segSec i 3).drop (vc * codeBytes (segM i) (segBits i))) &&
  (segSec i 4).length == 4 * segHubs i && strictlyRising hubs && hubs.all (fun o => decide (o < vc)) &&
  (segSec i 6).length == 8 * ceilDiv vc 64 &&
  (List.range (ceilDiv vc 64)).all (fun g =>
    groupOk (segSec i 7) (u64 (segSec i 6) (8 * g) % 2 ^ 40) g vc (segBaseDeg i)) &&
  (List.range (ceilDiv (segHubs i) 64)).all (fun g =>
    groupOk (segSec i 5) (u64 (segSec i 5) (8 * g) % 2 ^ 40) g (segHubs i) (segHubDeg i)) &&
  groupsPacked (segSec i 6) (segSec i 7) 0 (ceilDiv vc 64) &&
  groupsPacked (segSec i 5) (segSec i 5) (8 * ceilDiv (segHubs i) 64) (ceilDiv (segHubs i) 64) &&
  (segSec i 8).length == 32 * vc && (segSec i 11).length == recordBytes (segDim i) * vc &&
  (List.range vc).all (fun o => u32 (segRecord i o) 4 == byteSquares (sl (segRecord i o) 8 (segDim i)))

/-- Bitmaps: entries ascending, counts right, their row pairs one behind the other, the bits beyond VECTOR_COUNT 0 in TRUE, and each
COMPLEMENT the inverse of its TRUE (R58). -/
def segBitmapsOk (i : Bytes) : Bool :=
  let d := segBitmapDir i
  let nch := ceilDiv (segVc i) 8192
  (!segBitmaps i || ((segSec i 9).length == 16 * d.length && (segSec i 10).length == 2048 * nch * d.length)) &&
  decide (d.length ≤ 1024) && strictlyRising (d.map fun e => e.1 * 65536 + e.2.1) &&
  (d.map fun e => e.2.2.2) == (List.range d.length).map (nch * ·) &&
  d.all (fun e => e.2.1 != 0xFFFF && decide (e.1 ≤ 3) &&
    ((List.range (segVc i)).filter (bitmapBit i e.2.2.2)).length == e.2.2.1 &&
    (List.range (8192 * nch)).all (fun o => bitmapBit i e.2.2.2 o == (decide (o < segVc i) && attrTag (segAttr i o) e.1 == e.2.1))) &&
  (splitAll 2048 (segSec i 10)).all (fun p => (p.take 1024).zip (p.drop 1024) |>.all fun b => b.1 == ~~~ b.2)

/-- The bytes of one passage page of section 0x000D, as its first KV page shows them: the KV pages up to the next of layer 0, head 0
(R210, R211). -/
def passagePageBytes (sec : Bytes) : Nat :=
  let size := 64 + 128 * u16 sec 6 * (if u8 sec 5 = 2 then 1 else 2)
  let pages := splitAll size sec
  size * (1 + ((pages.drop 1).takeWhile fun p => !(u16 p 0 == 0 && u8 p 2 == 0)).length)

/-- Passage references: one for each offset, no more tokens than the pages hold, and every page within section 0x000D (R60). -/
def segPassagesOk (i : Bytes) : Bool :=
  let refs := splitAll 16 (segSec i 12)
  let pages := if (segSec i 13).isEmpty then 0 else (segSec i 13).length / passagePageBytes (segSec i 13)
  !segPassage i || ((segSec i 12).length == 16 * segVc i &&
    refs.all fun r => decide (u16 r 6 ≤ 64 * u16 r 4) && (u16 r 4 == 0 || decide (u32 r 0 + u16 r 4 ≤ pages)))

/-- The whole check of an image at load, against its shard and number (R71). -/
def segOk (i : Bytes) (shard seg : Nat) : Bool :=
  segHeaderOk i && segLayoutOk i && segSectionsOk i && segBitmapsOk i && segPassagesOk i && segShard i == shard && segNumber i == seg

/-! ### Building (R146, R149) -/

/-- A vector to be built into a segment. -/
structure VecRec where
  ext   : Nat
  attr  : Bytes
  scale : Nat
  sumsq : Nat
  code  : Bytes
  comps : Bytes
  kv    : Bytes
  deriving DecidableEq, Repr

/-- The number of hubs (R70). -/
def hubCount (vc share : Nat) : Nat := min 262144 (min vc (max 1 (ceilDiv (vc * share) 65536)))

/-- `n` distinct offsets below `vc` in ascending order: those the owner proposes, then the lowest others. -/
def chooseHubs (seed : Bytes) (vc n : Nat) : List Nat :=
  let want := dedupBy id [] ((List.range n).map fun k => Config.hubChoice seed k % vc)
  let rest := (List.range vc).filter fun o => !want.contains o
  sortBy (fun a b => decide (a < b)) ((want ++ rest).take n)

/-- At most `deg` distinct neighbours of `v` below `n`, ascending, from what the owner proposes. -/
def chooseEdges (pick : Nat → Nat) (v n deg : Nat) : List Nat :=
  sortBy (fun a b => decide (a < b)) ((dedupBy id [v] ((List.range deg).map fun j => pick j % n)).take deg)

/-- The group blocks of a graph of `n` vertices, with the offset of each from `start` (R55). -/
def buildGroups (start n : Nat) (edges : Nat → List Nat) : List Nat × Bytes :=
  foldRange (ceilDiv n 64) ([], []) fun st g =>
    let lists := (List.range 64).map fun k => if 64 * g + k < n then encodeNeighbours (edges (64 * g + k)) else []
    (st.1 ++ [start + st.2.length], st.2 ++ (lists.map fun l => BitVec.ofNat 8 l.length) ++ lists.flatten)

/-- The bitmaps of the (field, value) pairs that qualify (R58): directory and rows.  Where a pair without a match qualifies too, the
lowest 1,024 of its field are enough, since no more are kept. -/
def buildBitmaps (attrs : List Bytes) (fields share : Nat) : Bytes × Bytes :=
  let vc := attrs.length
  let least := ceilDiv (vc * share) 65536
  let pairs := (bitList fields 4).flatMap fun f =>
    let seen := dedupBy id [0xFFFF] (attrs.map fun a => attrTag a f)
    let none_ := if least = 0 then ((List.range (1024 + seen.length)).filter fun v => v != 0xFFFF && !seen.contains v).take 1024 else []
    (seen ++ none_).map fun v => (f, v, (attrs.filter fun a => attrTag a f == v).length)
  let kept := (sortBy (fun a b => decide (b.2.2 < a.2.2) || (a.2.2 == b.2.2 && decide (a.1 * 65536 + a.2.1 < b.1 * 65536 + b.2.1)))
    (pairs.filter fun p => decide (least ≤ p.2.2))).take 1024
  let order := sortBy (fun a b => decide (a.1 * 65536 + a.2.1 < b.1 * 65536 + b.2.1)) kept
  let nch := ceilDiv vc 8192
  let row := fun (p : Nat × Nat × Nat) (c : Nat) =>
    let t := bitmapOf 8192 fun k => match attrs[8192 * c + k]? with
      | some a => attrTag a p.1 == p.2.1
      | none => false
    t ++ t.map (~~~ ·)
  ((order.zipIdx).flatMap fun e => leBytes 1 e.1.1 ++ [0] ++ leBytes 2 e.1.2.1 ++ leBytes 4 e.1.2.2 ++ leBytes 4 (e.2 * nch) ++ zeros 4,
   order.flatMap fun p => (List.range nch).flatMap (row p))

/-- The full-vector record of R59. -/
def vecRecord (dim : Nat) (v : VecRec) : Bytes :=
  padTo (recordBytes dim) (leBytes 4 v.scale ++ leBytes 4 v.sumsq ++ padTo dim v.comps)

/-- The settings and identity that a build takes. -/
structure BuildParams where
  shard   : Nat
  seg     : Nat
  epoch   : Nat
  metric  : Nat
  m       : Nat
  bits    : Nat
  dim     : Nat
  cb      : Bytes
  mirror  : Bool
  fields  : Nat
  share   : Nat
  baseDeg : Nat
  hubDeg  : Nat
  hubShare : Nat
  kvModel : Bytes
  kvPages : Bytes
  usns    : List Nat
  deriving DecidableEq, Repr

/-- The image of a list of vectors in offset order (R49 to R60).  DESIGN CHOICE (log 162): the BITMAPS flag is 1 exactly when at least one
pair qualifies. -/
def buildImage (p : BuildParams) (vs : List VecRec) : Bytes :=
  let vc := vs.length
  let seed := leBytes 4 p.shard ++ leBytes 2 p.seg ++ leBytes 4 p.epoch
  let nh := hubCount vc p.hubShare
  let hubs := chooseHubs seed vc nh
  let hubDirBytes := 8 * ceilDiv nh 64
  let hg := buildGroups hubDirBytes nh fun v => chooseEdges (Config.hubEdge seed v) v nh (min p.hubDeg (nh - 1))
  let bg := buildGroups 0 vc fun v => chooseEdges (Config.baseEdge seed v) v vc (min p.baseDeg (vc - 1))
  let bm := buildBitmaps (vs.map (·.attr)) p.fields p.share
  let hasBm := !bm.1.isEmpty
  let hasKv := !p.kvPages.isEmpty
  let secs : List (Nat × Bytes) :=
    [(1, vs.flatMap fun v => leBytes 8 v.ext), (2, p.cb),
     (3, padTo (64 * ceilDiv vc 64 * codeBytes p.m p.bits) (vs.flatMap fun v => padTo (codeBytes p.m p.bits) v.code)),
     (4, hubs.flatMap fun o => leBytes 4 o),
     (5, (hg.1.flatMap fun o => leBytes 8 o) ++ hg.2), (6, bg.1.flatMap fun o => leBytes 8 o), (7, bg.2),
     (8, vs.flatMap fun v => padTo 32 (v.attr.take 24))] ++
    (if hasBm then [(9, bm.1), (10, bm.2)] else []) ++
    [(11, vs.flatMap (vecRecord p.dim))] ++
    (if hasKv then [(12, vs.flatMap fun v => padTo 16 v.kv), (13, p.kvPages)] else [])
  let placed := secs.foldl (fun (st : Bytes × Nat × Bytes) s =>
    (st.1 ++ leBytes 2 s.1 ++ zeros 2 ++ leBytes 4 st.2.1 ++ leBytes 8 s.2.length,
     st.2.1 + ceilDiv s.2.length 16384, st.2.2 ++ padTo (16384 * ceilDiv s.2.length 16384) s.2)) ([], 1, [])
  let usns := p.usns
  let hdr := ascii "OSEG" ++ leBytes 2 1 ++ leBytes 1 p.metric ++ leBytes 1 p.bits ++ leBytes 2 p.seg ++ leBytes 1 p.m ++
    leBytes 1 ((if p.mirror then 1 else 0) + (if hasKv then 2 else 0) + (if hasBm then 4 else 0)) ++ leBytes 2 p.dim ++ zeros 2 ++
    leBytes 4 p.shard ++ leBytes 4 p.epoch ++ leBytes 4 vc ++ leBytes 4 nh ++ leBytes 8 (minNat (usns.headD 0) usns) ++
    leBytes 8 (maxNat usns) ++ featureLevel ++ leBytes 4 placed.2.1 ++ leBytes 4 secs.length ++ leBytes 1 p.baseDeg ++
    leBytes 1 p.hubDeg ++ zeros 2 ++ leBytes 4 (Config.entryHub seed % max nh 1) ++ digest p.cb ++
    (if hasKv then padTo 32 p.kvModel else zeros 32) ++ zeros 112
  padTo 16384 (hdr ++ placed.1) ++ placed.2.2

/-- The vector at an offset of an image, as a build takes it again (R149). -/
def segVec (i : Bytes) (o : Nat) : VecRec :=
  let r := segRecord i o
  { ext := segExt i o, attr := segAttr i o, scale := u32 r 0, sumsq := u32 r 4, code := segCode i o,
    comps := sl r 8 (segDim i), kv := if segPassage i then sl (segSec i 12) (16 * o) 16 else [] }

end Sys2Proof.Machine
end

