-- ==== Sys2Proof/Machine/DictTable.lean ====
section
/-! DEFINITION. The Falyn dictionary's entries (R323, R324, R346): type, access, default, range and moment of effect of
every entry, as the entry tables of the chapters give them. -/

namespace Sys2Proof.Machine

/-- The types of R324, with their sizes. -/
inductive DTyp where
  | bool | uint (n : Nat) | real | oct (n : Nat) | vis (n : Nat) | dom
  deriving DecidableEq, Repr

/-- The access rights of R323. -/
inductive Acc where
  | ro | rw | wo
  deriving DecidableEq, Repr

/-- The stated range of a value (R332, check 1): any value; a number between two bounds or one of the values with a
meaning of their own; a power of two; bits of a mask; one of a list; each byte at most a bound or one of a list; or a
scale, 0 or finite and positive. -/
inductive Rng where
  | any | nat (lo hi : Nat) (also : List Nat) | pow2 (lo hi : Nat) | mask (m : Nat) (also : List Nat)
  | oneOf (l : List Nat) | bytes (hi : Nat) (also : List Nat) | qscale
  deriving DecidableEq, Repr

/-- When a value takes effect (R333): at the boundary after COMMIT_STEP; at the next reset; at a moment that a rule of
the entry's chapter names; and, for what the node writes, at each boundary or when it changes. -/
inductive Eff where
  | boundary | reset | moment | eachBoundary | onChange
  deriving DecidableEq, Repr

/-- One entry. -/
structure DRow where
  typ  : DTyp
  acc  : Acc
  dflt : Bytes
  rng  : Rng
  eff  : Eff
  deriving DecidableEq, Repr

/-- The entries of one index, or of a run of indices that hold the same entries. -/
structure DGroup where
  base  : Nat
  count : Nat
  rows  : List (Nat × DRow)
  deriving DecidableEq, Repr

/-- IDN (1000; R347). -/
def dict1000 : DGroup := ⟨0x1000, 1, [
  (0, ⟨.uint 1, .ro, leBytes 1 7, .any, .onChange⟩),
  (1, ⟨.uint 4, .ro, leBytes 4 20053, .any, .onChange⟩),
  (2, ⟨.vis 16, .ro, padTo 16 (ascii "HN-OC4-A1280"), .any, .onChange⟩),
  (3, ⟨.uint 1, .ro, leBytes 1 176, .any, .onChange⟩),
  (4, ⟨.oct 16, .ro, zeros 16, .any, .onChange⟩),
  (5, ⟨.uint 8, .ro, zeros 8, .any, .onChange⟩),
  (6, ⟨.oct 6, .ro, zeros 6, .any, .onChange⟩),
  (7, ⟨.uint 1, .ro, zeros 1, .any, .onChange⟩)]⟩

/-- IDN (1010; R19). -/
def dict1010 : DGroup := ⟨0x1010, 1, [
  (0, ⟨.uint 1, .ro, leBytes 1 5, .any, .onChange⟩),
  (1, ⟨.uint 2, .ro, zeros 2, .any, .onChange⟩),
  (2, ⟨.uint 2, .ro, zeros 2, .any, .onChange⟩),
  (3, ⟨.uint 1, .ro, zeros 1, .any, .onChange⟩),
  (4, ⟨.uint 1, .ro, leBytes 1 15, .any, .onChange⟩),
  (5, ⟨.uint 1, .ro, leBytes 1 0, .any, .onChange⟩)]⟩

/-- FNET (1020; R347). -/
def dict1020 : DGroup := ⟨0x1020, 1, [
  (0, ⟨.uint 1, .ro, leBytes 1 5, .any, .onChange⟩),
  (1, ⟨.uint 1, .ro, leBytes 1 1, .any, .onChange⟩),
  (2, ⟨.uint 8, .ro, leBytes 8 0, .any, .eachBoundary⟩),
  (3, ⟨.uint 8, .ro, leBytes 8 0, .any, .eachBoundary⟩),
  (4, ⟨.uint 8, .ro, leBytes 8 0, .any, .eachBoundary⟩),
  (5, ⟨.uint 4, .rw, leBytes 4 12500, .nat 1250 1250000 [], .boundary⟩)]⟩

/-- DICT (1030; R347). -/
def dict1030 : DGroup := ⟨0x1030, 1, [
  (0, ⟨.uint 1, .ro, leBytes 1 6, .any, .onChange⟩),
  (1, ⟨.uint 4, .wo, zeros 4, .any, .onChange⟩),
  (2, ⟨.uint 4, .wo, zeros 4, .any, .onChange⟩),
  (3, ⟨.oct 64, .ro, zeros 64, .any, .onChange⟩),
  (4, ⟨.uint 4, .ro, leBytes 4 0, .any, .onChange⟩),
  (5, ⟨.oct 32, .ro, zeros 32, .any, .onChange⟩),
  (6, ⟨.uint 8, .ro, leBytes 8 0, .any, .eachBoundary⟩)]⟩

/-- PRIV (1031; R347). -/
def dict1031 : DGroup := ⟨0x1031, 1, [
  (0, ⟨.uint 1, .ro, leBytes 1 4, .any, .onChange⟩),
  (1, ⟨.uint 4, .rw, leBytes 4 4294967295, .mask 0xFFFFFF [0xFFFFFFFF], .boundary⟩),
  (2, ⟨.uint 4, .rw, leBytes 4 4294967295, .mask 0xFFFFFF [0xFFFFFFFF], .boundary⟩),
  (3, ⟨.uint 4, .rw, leBytes 4 4294967295, .mask 0xFFFFFF [0xFFFFFFFF], .boundary⟩),
  (4, ⟨.uint 4, .rw, leBytes 4 4294967295, .mask 0xFFFFFF [0xFFFFFFFF], .boundary⟩)]⟩

/-- FEAT (2000; R347). -/
def dict2000 : DGroup := ⟨0x2000, 1, [
  (0, ⟨.uint 1, .ro, leBytes 1 5, .any, .onChange⟩),
  (1, ⟨.oct 16, .ro, leBytes 16 1, .any, .onChange⟩),
  (2, ⟨.oct 16, .rw, leBytes 16 1, .any, .reset⟩),
  (3, ⟨.oct 16, .ro, leBytes 16 0x04010000000000000000000000000001, .any, .onChange⟩),
  (4, ⟨.oct 16, .ro, leBytes 16 1, .any, .onChange⟩),
  (5, ⟨.oct 16, .rw, zeros 16, .any, .boundary⟩)]⟩

/-- POLICY (2100; R347). -/
def dict2100 : DGroup := ⟨0x2100, 1, [
  (0, ⟨.uint 1, .ro, leBytes 1 1, .any, .onChange⟩),
  (1, ⟨.uint 1, .rw, leBytes 1 0, .nat 0 1 [], .boundary⟩)]⟩

/-- GRANT (2110; R19, R35, R70, R94, R154, R176, R205, R226, R241, R288, R322, R347). -/
def dict2110 : DGroup := ⟨0x2110, 1, [
  (0, ⟨.uint 1, .ro, leBytes 1 14, .any, .onChange⟩),
  (1, ⟨.bool, .rw, leBytes 1 0, .any, .boundary⟩),
  (2, ⟨.bool, .rw, leBytes 1 0, .any, .boundary⟩),
  (3, ⟨.bool, .rw, leBytes 1 0, .any, .boundary⟩),
  (4, ⟨.bool, .rw, leBytes 1 0, .any, .boundary⟩),
  (5, ⟨.bool, .rw, leBytes 1 0, .any, .boundary⟩),
  (6, ⟨.bool, .rw, leBytes 1 0, .any, .boundary⟩),
  (7, ⟨.bool, .rw, leBytes 1 0, .any, .boundary⟩),
  (8, ⟨.bool, .rw, leBytes 1 0, .any, .boundary⟩),
  (9, ⟨.bool, .rw, leBytes 1 0, .any, .boundary⟩),
  (10, ⟨.bool, .rw, leBytes 1 0, .any, .boundary⟩),
  (11, ⟨.bool, .rw, leBytes 1 0, .any, .boundary⟩),
  (12, ⟨.bool, .rw, leBytes 1 0, .any, .boundary⟩),
  (13, ⟨.bool, .rw, leBytes 1 0, .any, .boundary⟩),
  (14, ⟨.bool, .rw, leBytes 1 0, .any, .boundary⟩)]⟩

/-- GRANT_CNT (2111; R347). -/
def dict2111 : DGroup := ⟨0x2111, 1, [
  (0, ⟨.uint 1, .ro, leBytes 1 14, .any, .onChange⟩),
  (1, ⟨.uint 8, .ro, leBytes 8 0, .any, .eachBoundary⟩),
  (2, ⟨.uint 8, .ro, leBytes 8 0, .any, .eachBoundary⟩),
  (3, ⟨.uint 8, .ro, leBytes 8 0, .any, .eachBoundary⟩),
  (4, ⟨.uint 8, .ro, leBytes 8 0, .any, .eachBoundary⟩),
  (5, ⟨.uint 8, .ro, leBytes 8 0, .any, .eachBoundary⟩),
  (6, ⟨.uint 8, .ro, leBytes 8 0, .any, .eachBoundary⟩),
  (7, ⟨.uint 8, .ro, leBytes 8 0, .any, .eachBoundary⟩),
  (8, ⟨.uint 8, .ro, leBytes 8 0, .any, .eachBoundary⟩),
  (9, ⟨.uint 8, .ro, leBytes 8 0, .any, .eachBoundary⟩),
  (10, ⟨.uint 8, .ro, leBytes 8 0, .any, .eachBoundary⟩),
  (11, ⟨.uint 8, .ro, leBytes 8 0, .any, .eachBoundary⟩),
  (12, ⟨.uint 8, .ro, leBytes 8 0, .any, .eachBoundary⟩),
  (13, ⟨.uint 8, .ro, leBytes 8 0, .any, .eachBoundary⟩),
  (14, ⟨.uint 8, .ro, leBytes 8 0, .any, .eachBoundary⟩)]⟩

/-- RES (2200; R347). -/
def dict2200 : DGroup := ⟨0x2200, 1, [
  (0, ⟨.uint 1, .ro, leBytes 1 2, .any, .onChange⟩),
  (1, ⟨.uint 2, .ro, leBytes 2 2844, .any, .onChange⟩),
  (2, ⟨.dom, .ro, [], .any, .onChange⟩)]⟩

/-- RES_CMD (2201; R347). -/
def dict2201 : DGroup := ⟨0x2201, 1, [
  (0, ⟨.uint 1, .ro, leBytes 1 2, .any, .onChange⟩),
  (1, ⟨.dom, .wo, [], .any, .onChange⟩),
  (2, ⟨.dom, .wo, [], .any, .onChange⟩)]⟩

/-- SRCH (3010; R94). -/
def dict3010 : DGroup := ⟨0x3010, 1, [
  (0, ⟨.uint 1, .ro, leBytes 1 11, .any, .onChange⟩),
  (1, ⟨.uint 2, .rw, leBytes 2 10, .nat 1 1024 [], .boundary⟩),
  (2, ⟨.uint 2, .rw, leBytes 2 64, .nat 1 256 [], .boundary⟩),
  (3, ⟨.uint 4, .rw, leBytes 4 4096, .nat 64 65536 [], .boundary⟩),
  (4, ⟨.uint 4, .rw, leBytes 4 256, .nat 1 65536 [], .boundary⟩),
  (5, ⟨.uint 2, .rw, leBytes 2 32, .nat 1 1024 [], .boundary⟩),
  (6, ⟨.uint 1, .rw, leBytes 1 0, .mask 7 [], .boundary⟩),
  (7, ⟨.uint 1, .rw, leBytes 1 0, .nat 0 2 [], .boundary⟩),
  (8, ⟨.uint 4, .rw, leBytes 4 4096, .nat 0 65536 [], .boundary⟩),
  (9, ⟨.real, .rw, zeros 4, .qscale, .boundary⟩),
  (10, ⟨.uint 1, .rw, leBytes 1 0, .nat 0 2 [], .boundary⟩),
  (11, ⟨.uint 2, .rw, leBytes 2 0, .nat 0 255 [], .boundary⟩)]⟩

/-- SRCH_CNT (3011; R94). -/
def dict3011 : DGroup := ⟨0x3011, 1, [
  (0, ⟨.uint 1, .ro, leBytes 1 5, .any, .onChange⟩),
  (1, ⟨.uint 8, .ro, leBytes 8 0, .any, .eachBoundary⟩),
  (2, ⟨.uint 8, .ro, leBytes 8 0, .any, .eachBoundary⟩),
  (3, ⟨.uint 8, .ro, leBytes 8 0, .any, .eachBoundary⟩),
  (4, ⟨.uint 8, .ro, leBytes 8 0, .any, .eachBoundary⟩),
  (5, ⟨.uint 8, .ro, leBytes 8 0, .any, .eachBoundary⟩)]⟩

/-- WINN_CNT (3012; R109). -/
def dict3012 : DGroup := ⟨0x3012, 1, [
  (0, ⟨.uint 1, .ro, leBytes 1 4, .any, .onChange⟩),
  (1, ⟨.uint 8, .ro, leBytes 8 0, .any, .eachBoundary⟩),
  (2, ⟨.uint 8, .ro, leBytes 8 0, .any, .eachBoundary⟩),
  (3, ⟨.uint 8, .ro, leBytes 8 0, .any, .eachBoundary⟩),
  (4, ⟨.uint 8, .ro, leBytes 8 0, .any, .eachBoundary⟩)]⟩

/-- CERT (3013; R131). -/
def dict3013 : DGroup := ⟨0x3013, 1, [
  (0, ⟨.uint 1, .ro, leBytes 1 6, .any, .onChange⟩),
  (1, ⟨.uint 1, .rw, leBytes 1 1, .nat 0 1 [], .boundary⟩),
  (2, ⟨.bool, .rw, leBytes 1 0, .any, .boundary⟩),
  (3, ⟨.uint 2, .rw, leBytes 2 4, .nat 0 64 [], .boundary⟩),
  (4, ⟨.uint 8, .ro, leBytes 8 0, .any, .eachBoundary⟩),
  (5, ⟨.uint 8, .ro, leBytes 8 0, .any, .eachBoundary⟩),
  (6, ⟨.uint 8, .ro, leBytes 8 0, .any, .eachBoundary⟩)]⟩

/-- IDX (3030; R70). -/
def dict3030 : DGroup := ⟨0x3030, 1, [
  (0, ⟨.uint 1, .ro, leBytes 1 8, .any, .onChange⟩),
  (1, ⟨.uint 4, .rw, leBytes 4 65536, .nat 1024 2147483648 [], .boundary⟩),
  (2, ⟨.uint 2, .rw, leBytes 2 0, .any, .boundary⟩),
  (3, ⟨.bool, .rw, leBytes 1 1, .any, .boundary⟩),
  (4, ⟨.uint 1, .rw, leBytes 1 0, .mask 0x0F [], .boundary⟩),
  (5, ⟨.uint 2, .rw, leBytes 2 1024, .any, .boundary⟩),
  (6, ⟨.uint 1, .rw, leBytes 1 32, .nat 8 64 [], .boundary⟩),
  (7, ⟨.uint 1, .rw, leBytes 1 32, .nat 1 32 [], .boundary⟩),
  (8, ⟨.uint 2, .rw, leBytes 2 655, .nat 1 65535 [], .boundary⟩)]⟩

/-- UPD (3040; R154). -/
def dict3040 : DGroup := ⟨0x3040, 1, [
  (0, ⟨.uint 1, .ro, leBytes 1 5, .any, .onChange⟩),
  (1, ⟨.uint 4, .rw, leBytes 4 4096, .nat 1024 16777216 [], .boundary⟩),
  (2, ⟨.uint 4, .rw, leBytes 4 12500, .any, .boundary⟩),
  (3, ⟨.uint 4, .rw, leBytes 4 125000, .any, .boundary⟩),
  (4, ⟨.uint 1, .ro, leBytes 1 16, .any, .onChange⟩),
  (5, ⟨.uint 1, .ro, leBytes 1 4, .any, .onChange⟩)]⟩

/-- UPD_CNT (3041; R154). -/
def dict3041 : DGroup := ⟨0x3041, 1, [
  (0, ⟨.uint 1, .ro, leBytes 1 5, .any, .onChange⟩),
  (1, ⟨.uint 8, .ro, leBytes 8 0, .any, .eachBoundary⟩),
  (2, ⟨.uint 8, .ro, leBytes 8 0, .any, .eachBoundary⟩),
  (3, ⟨.uint 8, .ro, leBytes 8 0, .any, .eachBoundary⟩),
  (4, ⟨.uint 8, .ro, leBytes 8 0, .any, .eachBoundary⟩),
  (5, ⟨.uint 8, .ro, leBytes 8 0, .any, .eachBoundary⟩)]⟩

/-- LOG (3042; R154). -/
def dict3042 : DGroup := ⟨0x3042, 1, [
  (0, ⟨.uint 1, .ro, leBytes 1 7, .any, .onChange⟩),
  (1, ⟨.uint 8, .ro, leBytes 8 402653184, .any, .onChange⟩),
  (2, ⟨.uint 8, .ro, leBytes 8 335544320, .any, .onChange⟩),
  (3, ⟨.uint 8, .ro, leBytes 8 67108864, .any, .onChange⟩),
  (4, ⟨.uint 8, .ro, leBytes 8 0, .any, .eachBoundary⟩),
  (5, ⟨.uint 8, .ro, leBytes 8 0, .any, .eachBoundary⟩),
  (6, ⟨.bool, .rw, leBytes 1 1, .any, .boundary⟩),
  (7, ⟨.uint 8, .rw, leBytes 8 1073741824, .nat 67108864 17179869184 [], .boundary⟩)]⟩

/-- COMPACT (3043; R154). -/
def dict3043 : DGroup := ⟨0x3043, 1, [
  (0, ⟨.uint 1, .ro, leBytes 1 3, .any, .onChange⟩),
  (1, ⟨.uint 1, .rw, leBytes 1 8, .nat 2 8 [], .boundary⟩),
  (2, ⟨.uint 2, .rw, leBytes 2 16384, .any, .boundary⟩),
  (3, ⟨.bool, .rw, leBytes 1 1, .any, .boundary⟩)]⟩

/-- SHARD (3100+i; R48). -/
def dict3100 : DGroup := ⟨0x3100, 256, [
  (0, ⟨.uint 1, .ro, leBytes 1 4, .any, .onChange⟩),
  (1, ⟨.uint 4, .rw, leBytes 4 4294967295, .any, .boundary⟩),
  (2, ⟨.uint 2, .rw, leBytes 2 0, .any, .boundary⟩),
  (3, ⟨.uint 2, .rw, leBytes 2 0, .any, .boundary⟩),
  (4, ⟨.bool, .rw, leBytes 1 0, .any, .boundary⟩)]⟩

/-- SHUPD (3200+i; R154). -/
def dict3200 : DGroup := ⟨0x3200, 256, [
  (0, ⟨.uint 1, .ro, leBytes 1 6, .any, .onChange⟩),
  (1, ⟨.oct 32, .rw, zeros 32, .any, .boundary⟩),
  (2, ⟨.uint 8, .rw, leBytes 8 0, .any, .boundary⟩),
  (3, ⟨.uint 1, .rw, leBytes 1 255, .nat 0 15 [0xFF], .boundary⟩),
  (4, ⟨.uint 8, .rw, leBytes 8 0, .any, .boundary⟩),
  (5, ⟨.uint 1, .rw, leBytes 1 255, .nat 0 15 [0xFF], .boundary⟩),
  (6, ⟨.uint 1, .rw, leBytes 1 0, .nat 0 2 [], .boundary⟩)]⟩

/-- CB (3300; R154). -/
def dict3300 : DGroup := ⟨0x3300, 1, [
  (0, ⟨.uint 1, .ro, leBytes 1 3, .any, .onChange⟩),
  (1, ⟨.dom, .wo, [], .any, .onChange⟩),
  (2, ⟨.uint 1, .ro, leBytes 1 0, .any, .onChange⟩),
  (3, ⟨.oct 32, .wo, zeros 32, .any, .onChange⟩)]⟩

/-- RING (4010; R176). -/
def dict4010 : DGroup := ⟨0x4010, 1, [
  (0, ⟨.uint 1, .ro, leBytes 1 2, .any, .onChange⟩),
  (1, ⟨.dom, .wo, [], .any, .onChange⟩),
  (2, ⟨.uint 4, .ro, leBytes 4 0, .any, .onChange⟩)]⟩

/-- LEDGER (4020; R176). -/
def dict4020 : DGroup := ⟨0x4020, 1, [
  (0, ⟨.uint 1, .ro, leBytes 1 7, .any, .onChange⟩),
  (1, ⟨.uint 4, .rw, leBytes 4 64, .nat 16 4096 [], .boundary⟩),
  (2, ⟨.uint 8, .ro, leBytes 8 268435456, .any, .onChange⟩),
  (3, ⟨.uint 1, .ro, leBytes 1 1, .any, .onChange⟩),
  (4, ⟨.uint 4, .ro, leBytes 4 32768, .any, .onChange⟩),
  (5, ⟨.uint 4, .ro, leBytes 4 2097152, .any, .onChange⟩),
  (6, ⟨.uint 4, .ro, leBytes 4 4096, .any, .onChange⟩),
  (7, ⟨.uint 8, .ro, leBytes 8 4294967296, .any, .onChange⟩)]⟩

/-- LEDGER_CNT (4021; R176). -/
def dict4021 : DGroup := ⟨0x4021, 1, [
  (0, ⟨.uint 1, .ro, leBytes 1 5, .any, .onChange⟩),
  (1, ⟨.uint 8, .ro, leBytes 8 0, .any, .eachBoundary⟩),
  (2, ⟨.uint 8, .ro, leBytes 8 0, .any, .eachBoundary⟩),
  (3, ⟨.uint 8, .ro, leBytes 8 0, .any, .eachBoundary⟩),
  (4, ⟨.uint 8, .ro, leBytes 8 0, .any, .eachBoundary⟩),
  (5, ⟨.uint 8, .ro, leBytes 8 0, .any, .eachBoundary⟩)]⟩

/-- QUEUE (4030; R303). -/
def dict4030 : DGroup := ⟨0x4030, 1, [
  (0, ⟨.uint 1, .ro, leBytes 1 5, .any, .onChange⟩),
  (1, ⟨.uint 4, .wo, zeros 4, .any, .onChange⟩),
  (2, ⟨.uint 8, .ro, leBytes 8 0, .any, .eachBoundary⟩),
  (3, ⟨.uint 8, .ro, leBytes 8 0, .any, .eachBoundary⟩),
  (4, ⟨.uint 8, .ro, leBytes 8 0, .any, .eachBoundary⟩),
  (5, ⟨.uint 8, .ro, leBytes 8 0, .any, .eachBoundary⟩)]⟩

/-- TENS (5010; R205). -/
def dict5010 : DGroup := ⟨0x5010, 1, [
  (0, ⟨.uint 1, .ro, leBytes 1 6, .any, .onChange⟩),
  (1, ⟨.uint 1, .ro, leBytes 1 64, .any, .onChange⟩),
  (2, ⟨.uint 2, .ro, leBytes 2 4096, .any, .onChange⟩),
  (3, ⟨.uint 2, .rw, leBytes 2 655, .any, .boundary⟩),
  (4, ⟨.uint 8, .ro, leBytes 8 0, .any, .eachBoundary⟩),
  (5, ⟨.uint 8, .ro, leBytes 8 0, .any, .eachBoundary⟩),
  (6, ⟨.uint 8, .ro, leBytes 8 0, .any, .eachBoundary⟩)]⟩

/-- MODEL (5100+s; R205). -/
def dict5100 : DGroup := ⟨0x5100, 256, [
  (0, ⟨.uint 1, .ro, leBytes 1 5, .any, .onChange⟩),
  (1, ⟨.dom, .wo, [], .any, .onChange⟩),
  (2, ⟨.oct 32, .ro, zeros 32, .any, .onChange⟩),
  (3, ⟨.uint 1, .ro, leBytes 1 0, .any, .onChange⟩),
  (4, ⟨.uint 2, .ro, leBytes 2 0, .any, .onChange⟩),
  (5, ⟨.uint 1, .ro, leBytes 1 0, .any, .eachBoundary⟩)]⟩

/-- EMB (5200+t; R205). -/
def dict5200 : DGroup := ⟨0x5200, 256, [
  (0, ⟨.uint 1, .ro, leBytes 1 7, .any, .onChange⟩),
  (1, ⟨.dom, .rw, [], .any, .boundary⟩),
  (2, ⟨.dom, .rw, [], .any, .boundary⟩),
  (3, ⟨.uint 8, .rw, leBytes 8 1, .any, .boundary⟩),
  (4, ⟨.uint 1, .ro, leBytes 1 0, .any, .eachBoundary⟩),
  (5, ⟨.uint 8, .ro, leBytes 8 0, .any, .onChange⟩),
  (6, ⟨.oct 32, .ro, zeros 32, .any, .onChange⟩),
  (7, ⟨.uint 8, .ro, leBytes 8 0, .any, .onChange⟩)]⟩

/-- EMBG (5300; R205). -/
def dict5300 : DGroup := ⟨0x5300, 1, [
  (0, ⟨.uint 1, .ro, leBytes 1 8, .any, .onChange⟩),
  (1, ⟨.dom, .wo, [], .any, .onChange⟩),
  (2, ⟨.oct 64, .rw, List.replicate 64 0xFF, .bytes 15 [0xFF], .boundary⟩),
  (3, ⟨.uint 4, .rw, leBytes 4 1250, .nat 64 1000000 [], .boundary⟩),
  (4, ⟨.uint 4, .rw, leBytes 4 1048576, .nat 0 16777216 [], .boundary⟩),
  (5, ⟨.uint 2, .rw, leBytes 2 8192, .any, .boundary⟩),
  (6, ⟨.uint 4, .rw, leBytes 4 1250, .nat 16 1000000 [], .boundary⟩),
  (7, ⟨.uint 8, .ro, leBytes 8 0, .any, .eachBoundary⟩),
  (8, ⟨.uint 8, .ro, leBytes 8 16777216, .any, .onChange⟩)]⟩

/-- GEN (5400; R226). -/
def dict5400 : DGroup := ⟨0x5400, 1, [
  (0, ⟨.uint 1, .ro, leBytes 1 11, .any, .onChange⟩),
  (1, ⟨.uint 1, .ro, leBytes 1 0, .any, .onChange⟩),
  (2, ⟨.uint 1, .rw, leBytes 1 0, .nat 0 2 [], .moment⟩),
  (3, ⟨.uint 4, .ro, leBytes 4 256, .any, .onChange⟩),
  (4, ⟨.bool, .rw, leBytes 1 1, .any, .boundary⟩),
  (5, ⟨.uint 1, .rw, leBytes 1 0, .nat 0 2 [], .boundary⟩),
  (6, ⟨.uint 8, .rw, leBytes 8 1, .any, .boundary⟩),
  (7, ⟨.uint 4, .rw, leBytes 4 0, .any, .boundary⟩),
  (8, ⟨.uint 8, .ro, leBytes 8 8589934592, .any, .onChange⟩),
  (9, ⟨.uint 4, .ro, leBytes 4 0, .any, .eachBoundary⟩),
  (10, ⟨.uint 8, .ro, leBytes 8 0, .any, .eachBoundary⟩),
  (11, ⟨.uint 8, .ro, leBytes 8 0, .any, .eachBoundary⟩)]⟩

/-- TIER (6010; R241). -/
def dict6010 : DGroup := ⟨0x6010, 1, [
  (0, ⟨.uint 1, .ro, leBytes 1 10, .any, .onChange⟩),
  (1, ⟨.uint 1, .rw, leBytes 1 1, .nat 0 2 [], .reset⟩),
  (2, ⟨.uint 8, .ro, leBytes 8 755914244096, .any, .onChange⟩),
  (3, ⟨.uint 2, .rw, leBytes 2 512, .nat 256 2048 [], .moment⟩),
  (4, ⟨.uint 4, .rw, leBytes 4 1024, .nat 0 16384 [], .reset⟩),
  (5, ⟨.uint 4, .ro, leBytes 4 40960, .any, .onChange⟩),
  (6, ⟨.uint 4, .rw, leBytes 4 125, .nat 16 100000 [], .boundary⟩),
  (7, ⟨.uint 2, .rw, leBytes 2 64, .any, .boundary⟩),
  (8, ⟨.uint 4, .rw, leBytes 4 4194304, .nat 0 67108864 [], .boundary⟩),
  (9, ⟨.uint 4, .rw, leBytes 4 1250000, .nat 125000 12500000 [], .boundary⟩),
  (10, ⟨.uint 2, .rw, leBytes 2 16, .any, .boundary⟩)]⟩

/-- TIER_CNT (6011; R241). -/
def dict6011 : DGroup := ⟨0x6011, 1, [
  (0, ⟨.uint 1, .ro, leBytes 1 5, .any, .onChange⟩),
  (1, ⟨.uint 8, .ro, leBytes 8 0, .any, .eachBoundary⟩),
  (2, ⟨.uint 8, .ro, leBytes 8 0, .any, .eachBoundary⟩),
  (3, ⟨.uint 8, .ro, leBytes 8 0, .any, .eachBoundary⟩),
  (4, ⟨.uint 8, .ro, leBytes 8 0, .any, .eachBoundary⟩),
  (5, ⟨.uint 8, .ro, leBytes 8 0, .any, .eachBoundary⟩)]⟩

/-- TILL (6020; R267). -/
def dict6020 : DGroup := ⟨0x6020, 1, [
  (0, ⟨.uint 1, .ro, leBytes 1 5, .any, .onChange⟩),
  (1, ⟨.oct 256, .rw, zeros 256, .any, .moment⟩),
  (2, ⟨.oct 256, .rw, zeros 256, .any, .moment⟩),
  (3, ⟨.uint 1, .ro, leBytes 1 8, .any, .onChange⟩),
  (4, ⟨.uint 2, .ro, leBytes 2 1950, .any, .onChange⟩),
  (5, ⟨.oct 2048, .ro, zeros 2048, .any, .eachBoundary⟩)]⟩

/-- TILL_CNT (6021; R267). -/
def dict6021 : DGroup := ⟨0x6021, 1, [
  (0, ⟨.uint 1, .ro, leBytes 1 6, .any, .onChange⟩),
  (1, ⟨.uint 8, .ro, leBytes 8 0, .any, .eachBoundary⟩),
  (2, ⟨.uint 8, .ro, leBytes 8 0, .any, .eachBoundary⟩),
  (3, ⟨.uint 8, .ro, leBytes 8 0, .any, .eachBoundary⟩),
  (4, ⟨.uint 8, .ro, leBytes 8 0, .any, .eachBoundary⟩),
  (5, ⟨.uint 8, .ro, leBytes 8 0, .any, .eachBoundary⟩),
  (6, ⟨.uint 8, .ro, leBytes 8 0, .any, .eachBoundary⟩)]⟩

/-- MOVER (6030; R303). -/
def dict6030 : DGroup := ⟨0x6030, 1, [
  (0, ⟨.uint 1, .ro, leBytes 1 3, .any, .onChange⟩),
  (1, ⟨.uint 8, .ro, leBytes 8 0, .any, .eachBoundary⟩),
  (2, ⟨.uint 8, .ro, leBytes 8 0, .any, .eachBoundary⟩),
  (3, ⟨.uint 8, .ro, leBytes 8 0, .any, .eachBoundary⟩)]⟩

/-- FLASH (7010; R288). -/
def dict7010 : DGroup := ⟨0x7010, 1, [
  (0, ⟨.uint 1, .ro, leBytes 1 15, .any, .onChange⟩),
  (1, ⟨.uint 2, .ro, zeros 2, .any, .onChange⟩),
  (2, ⟨.uint 8, .ro, zeros 8, .any, .eachBoundary⟩),
  (3, ⟨.uint 2, .ro, leBytes 2 0, .any, .eachBoundary⟩),
  (4, ⟨.uint 2, .ro, leBytes 2 5243, .any, .eachBoundary⟩),
  (5, ⟨.uint 8, .ro, zeros 8, .any, .eachBoundary⟩),
  (6, ⟨.uint 1, .rw, leBytes 1 2, .nat 1 4 [], .reset⟩),
  (7, ⟨.uint 4, .ro, zeros 4, .any, .onChange⟩),
  (8, ⟨.uint 1, .ro, leBytes 1 2, .any, .onChange⟩),
  (9, ⟨.uint 4, .rw, zeros 4, .any, .reset⟩),
  (10, ⟨.uint 4, .rw, leBytes 4 16, .nat 1 1250 [], .boundary⟩),
  (11, ⟨.uint 2, .rw, leBytes 2 8, .nat 4 256 [], .boundary⟩),
  (12, ⟨.uint 4, .rw, leBytes 4 200, .nat 50 10000 [], .boundary⟩),
  (13, ⟨.uint 4, .wo, zeros 4, .any, .onChange⟩),
  (14, ⟨.uint 1, .ro, leBytes 1 12, .any, .onChange⟩),
  (15, ⟨.uint 4, .rw, leBytes 4 10800000, .nat 1250000 108000000 [], .boundary⟩)]⟩

/-- FLASH_CNT (7011; R288). -/
def dict7011 : DGroup := ⟨0x7011, 1, [
  (0, ⟨.uint 1, .ro, leBytes 1 6, .any, .onChange⟩),
  (1, ⟨.uint 8, .ro, leBytes 8 0, .any, .eachBoundary⟩),
  (2, ⟨.uint 8, .ro, leBytes 8 0, .any, .eachBoundary⟩),
  (3, ⟨.uint 8, .ro, leBytes 8 0, .any, .eachBoundary⟩),
  (4, ⟨.uint 8, .ro, leBytes 8 0, .any, .eachBoundary⟩),
  (5, ⟨.uint 8, .ro, leBytes 8 0, .any, .eachBoundary⟩),
  (6, ⟨.uint 8, .ro, leBytes 8 0, .any, .eachBoundary⟩)]⟩

/-- HEALTH (7012; R288). -/
def dict7012 : DGroup := ⟨0x7012, 1, [
  (0, ⟨.uint 1, .ro, leBytes 1 3, .any, .onChange⟩),
  (1, ⟨.uint 2, .rw, leBytes 2 16384, .any, .boundary⟩),
  (2, ⟨.uint 2, .rw, leBytes 2 52429, .any, .boundary⟩),
  (3, ⟨.uint 2, .rw, leBytes 2 655, .any, .boundary⟩)]⟩

/-- QUAL (7013; R288). -/
def dict7013 : DGroup := ⟨0x7013, 1, [
  (0, ⟨.uint 1, .ro, leBytes 1 2, .any, .onChange⟩),
  (1, ⟨.dom, .ro, [], .any, .onChange⟩),
  (2, ⟨.uint 2, .ro, zeros 2, .any, .onChange⟩)]⟩

/-- FCH (7020+c; R288). -/
def dict7020 : DGroup := ⟨0x7020, 32, [
  (0, ⟨.uint 1, .ro, leBytes 1 3, .any, .onChange⟩),
  (1, ⟨.uint 1, .ro, zeros 1, .any, .onChange⟩),
  (2, ⟨.uint 1, .ro, zeros 1, .any, .eachBoundary⟩),
  (3, ⟨.uint 2, .ro, zeros 2, .any, .eachBoundary⟩)]⟩

/-- NS (7040+p; R288). -/
def dict7040 : DGroup := ⟨0x7040, 8, [
  (0, ⟨.uint 1, .ro, leBytes 1 3, .any, .onChange⟩),
  (1, ⟨.uint 4, .rw, leBytes 4 0, .any, .reset⟩),
  (2, ⟨.uint 4, .rw, leBytes 4 0, .any, .reset⟩),
  (3, ⟨.uint 4, .rw, leBytes 4 65536, .any, .reset⟩)]⟩

/-- HEDGE (8010; R322). -/
def dict8010 : DGroup := ⟨0x8010, 1, [
  (0, ⟨.uint 1, .ro, leBytes 1 7, .any, .onChange⟩),
  (1, ⟨.uint 1, .rw, leBytes 1 8, .nat 2 32 [], .boundary⟩),
  (2, ⟨.uint 1, .rw, leBytes 1 3, .nat 0 16 [], .boundary⟩),
  (3, ⟨.uint 2, .rw, leBytes 2 64, .any, .boundary⟩),
  (4, ⟨.uint 2, .ro, leBytes 2 4096, .any, .onChange⟩),
  (5, ⟨.uint 2, .ro, leBytes 2 4000, .any, .onChange⟩),
  (6, ⟨.uint 4, .rw, leBytes 4 125000, .any, .boundary⟩),
  (7, ⟨.uint 8, .ro, leBytes 8 0, .any, .eachBoundary⟩)]⟩

/-- HPORT (8020+p; R322). -/
def dict8020 : DGroup := ⟨0x8020, 16, [
  (0, ⟨.uint 1, .ro, leBytes 1 6, .any, .onChange⟩),
  (1, ⟨.uint 1, .ro, leBytes 1 0, .any, .eachBoundary⟩),
  (2, ⟨.uint 8, .ro, leBytes 8 0, .any, .onChange⟩),
  (3, ⟨.uint 2, .ro, leBytes 2 255, .any, .onChange⟩),
  (4, ⟨.bool, .rw, leBytes 1 1, .any, .boundary⟩),
  (5, ⟨.uint 1, .rw, leBytes 1 0, .nat 0 2 [], .boundary⟩),
  (6, ⟨.uint 8, .ro, leBytes 8 0, .any, .eachBoundary⟩)]⟩

/-- TRAF (8030; R322). -/
def dict8030 : DGroup := ⟨0x8030, 1, [
  (0, ⟨.uint 1, .ro, leBytes 1 2, .any, .onChange⟩),
  (1, ⟨.uint 4, .rw, leBytes 4 1000, .nat 100 100000 [], .moment⟩),
  (2, ⟨.uint 4, .rw, leBytes 4 64000, .any, .boundary⟩)]⟩

/-- EPORT (8040+e; R322). -/
def dict8040 : DGroup := ⟨0x8040, 4, [
  (0, ⟨.uint 1, .ro, leBytes 1 9, .any, .onChange⟩),
  (1, ⟨.uint 1, .rw, leBytes 1 0, .nat 0 1 [], .reset⟩),
  (2, ⟨.oct 6, .rw, zeros 6, .any, .reset⟩),
  (3, ⟨.oct 72, .rw, zeros 72, .any, .boundary⟩),
  (4, ⟨.uint 1, .rw, leBytes 1 24, .any, .boundary⟩),
  (5, ⟨.uint 1, .rw, leBytes 1 0, .nat 0 2 [], .boundary⟩),
  (6, ⟨.uint 1, .ro, leBytes 1 0, .any, .eachBoundary⟩),
  (7, ⟨.uint 1, .rw, leBytes 1 255, .nat 0 3 [0xFF], .boundary⟩),
  (8, ⟨.oct 64, .rw, zeros 64, .bytes 7 [], .boundary⟩),
  (9, ⟨.uint 4, .rw, leBytes 4 50000, .nat 1000 1000000 [], .boundary⟩)]⟩

/-- ROCE (8050; R322). -/
def dict8050 : DGroup := ⟨0x8050, 1, [
  (0, ⟨.uint 1, .ro, leBytes 1 4, .any, .onChange⟩),
  (1, ⟨.uint 4, .ro, leBytes 4 65536, .any, .onChange⟩),
  (2, ⟨.uint 1, .ro, leBytes 1 64, .any, .onChange⟩),
  (3, ⟨.uint 1, .rw, leBytes 1 14, .nat 8 20 [], .boundary⟩),
  (4, ⟨.uint 1, .rw, leBytes 1 7, .nat 1 7 [], .boundary⟩)]⟩

/-- TRAF_PORT (8100+t; R322). -/
def dict8100 : DGroup := ⟨0x8100, 20, [
  (0, ⟨.uint 1, .ro, leBytes 1 12, .any, .onChange⟩),
  (1, ⟨.uint 1, .ro, leBytes 1 0, .any, .onChange⟩),
  (2, ⟨.uint 1, .rw, leBytes 1 0, .nat 0 15 [], .moment⟩),
  (3, ⟨.uint 8, .rw, leBytes 8 0, .nat 0 0xFFFFFFFFFFFE [], .boundary⟩),
  (4, ⟨.uint 8, .rw, leBytes 8 0, .any, .moment⟩),
  (5, ⟨.uint 8, .rw, leBytes 8 0, .any, .moment⟩),
  (6, ⟨.uint 8, .rw, leBytes 8 0, .any, .moment⟩),
  (7, ⟨.uint 8, .rw, leBytes 8 0, .any, .moment⟩),
  (8, ⟨.uint 8, .rw, leBytes 8 0, .any, .moment⟩),
  (9, ⟨.uint 8, .rw, leBytes 8 0, .any, .moment⟩),
  (10, ⟨.uint 8, .rw, leBytes 8 0, .any, .moment⟩),
  (11, ⟨.uint 8, .rw, leBytes 8 0, .any, .moment⟩),
  (12, ⟨.oct 128, .ro, zeros 128, .any, .eachBoundary⟩)]⟩

/-- SEC (9000; R368). -/
def dict9000 : DGroup := ⟨0x9000, 1, [
  (0, ⟨.uint 1, .ro, leBytes 1 6, .any, .onChange⟩),
  (1, ⟨.oct 68, .ro, zeros 68, .any, .onChange⟩),
  (2, ⟨.oct 32, .ro, zeros 32, .any, .onChange⟩),
  (3, ⟨.uint 8, .ro, zeros 8, .any, .onChange⟩),
  (4, ⟨.uint 2, .ro, zeros 2, .any, .onChange⟩),
  (5, ⟨.oct 32, .wo, zeros 32, .any, .onChange⟩),
  (6, ⟨.bool, .rw, leBytes 1 0, .any, .moment⟩)]⟩

/-- FW (9020; R368). -/
def dict9020 : DGroup := ⟨0x9020, 1, [
  (0, ⟨.uint 1, .ro, leBytes 1 5, .any, .onChange⟩),
  (1, ⟨.dom, .wo, [], .any, .onChange⟩),
  (2, ⟨.uint 1, .ro, leBytes 1 0, .any, .onChange⟩),
  (3, ⟨.oct 128, .ro, zeros 128, .any, .onChange⟩),
  (4, ⟨.oct 16, .ro, zeros 16, .any, .onChange⟩),
  (5, ⟨.uint 1, .wo, zeros 1, .mask 0x0F [], .onChange⟩)]⟩

/-- ATT (9030; R368). -/
def dict9030 : DGroup := ⟨0x9030, 1, [
  (0, ⟨.uint 1, .ro, leBytes 1 3, .any, .onChange⟩),
  (1, ⟨.dom, .wo, [], .any, .onChange⟩),
  (2, ⟨.dom, .ro, [], .any, .onChange⟩),
  (3, ⟨.uint 1, .ro, leBytes 1 0, .any, .eachBoundary⟩)]⟩

/-- SESS (9040; R368). -/
def dict9040 : DGroup := ⟨0x9040, 1, [
  (0, ⟨.uint 1, .ro, leBytes 1 5, .any, .onChange⟩),
  (1, ⟨.oct 1568, .ro, zeros 1568, .any, .onChange⟩),
  (2, ⟨.dom, .wo, [], .any, .onChange⟩),
  (3, ⟨.oct 32, .ro, zeros 32, .any, .onChange⟩),
  (4, ⟨.uint 4, .wo, zeros 4, .mask 0xFFFFFF [], .onChange⟩),
  (5, ⟨.uint 4, .ro, leBytes 4 0, .any, .eachBoundary⟩)]⟩

/-- PART (9100+p; R368). -/
def dict9100 : DGroup := ⟨0x9100, 8, [
  (0, ⟨.uint 1, .ro, leBytes 1 6, .any, .onChange⟩),
  (1, ⟨.uint 2, .rw, zeros 2, .any, .moment⟩),
  (2, ⟨.oct 32, .rw, zeros 32, .any, .moment⟩),
  (3, ⟨.uint 8, .ro, leBytes 8 0, .any, .onChange⟩),
  (4, ⟨.dom, .wo, [], .any, .onChange⟩),
  (5, ⟨.uint 1, .ro, leBytes 1 0, .any, .eachBoundary⟩),
  (6, ⟨.uint 8, .ro, leBytes 8 0, .any, .eachBoundary⟩)]⟩

/-- PWR (A010; R385). -/
def dictA010 : DGroup := ⟨0xA010, 1, [
  (0, ⟨.uint 1, .ro, leBytes 1 10, .any, .onChange⟩),
  (1, ⟨.uint 4, .ro, zeros 4, .any, .eachBoundary⟩),
  (2, ⟨.uint 4, .ro, zeros 4, .any, .eachBoundary⟩),
  (3, ⟨.uint 2, .rw, leBytes 2 3600, .nat 1000 3600 [], .boundary⟩),
  (4, ⟨.uint 4, .ro, zeros 4, .any, .eachBoundary⟩),
  (5, ⟨.uint 4, .ro, zeros 4, .any, .onChange⟩),
  (6, ⟨.uint 4, .ro, zeros 4, .any, .eachBoundary⟩),
  (7, ⟨.uint 4, .ro, zeros 4, .any, .onChange⟩),
  (8, ⟨.uint 8, .rw, leBytes 8 450000000, .nat 12500000 4500000000 [], .boundary⟩),
  (9, ⟨.uint 4, .ro, leBytes 4 14968, .any, .onChange⟩),
  (10, ⟨.uint 4, .ro, leBytes 4 0, .any, .onChange⟩)]⟩

/-- CLK (A020; R385). -/
def dictA020 : DGroup := ⟨0xA020, 1, [
  (0, ⟨.uint 1, .ro, leBytes 1 4, .any, .onChange⟩),
  (1, ⟨.uint 1, .ro, zeros 1, .any, .onChange⟩),
  (2, ⟨.bool, .ro, zeros 1, .any, .onChange⟩),
  (3, ⟨.uint 2, .ro, zeros 2, .any, .onChange⟩),
  (4, ⟨.uint 8, .ro, leBytes 8 0, .any, .eachBoundary⟩)]⟩

/-- THERM (A030; R385). -/
def dictA030 : DGroup := ⟨0xA030, 1, [
  (0, ⟨.uint 1, .ro, leBytes 1 8, .any, .onChange⟩),
  (1, ⟨.uint 2, .rw, leBytes 2 1000, .nat 850 1000 [], .boundary⟩),
  (2, ⟨.uint 2, .rw, leBytes 2 880, .nat 800 900 [], .boundary⟩),
  (3, ⟨.uint 1, .ro, leBytes 1 0, .any, .eachBoundary⟩),
  (4, ⟨.uint 4, .rw, leBytes 4 1250, .nat 125 125000 [], .boundary⟩),
  (5, ⟨.uint 2, .ro, leBytes 2 1050, .any, .onChange⟩),
  (6, ⟨.uint 2, .ro, leBytes 2 1150, .any, .onChange⟩),
  (7, ⟨.uint 2, .ro, leBytes 2 920, .any, .onChange⟩),
  (8, ⟨.uint 2, .ro, leBytes 2 950, .any, .onChange⟩)]⟩

/-- PLOTPWR (A040+n; R385). -/
def dictA040 : DGroup := ⟨0xA040, 16, [
  (0, ⟨.uint 1, .ro, leBytes 1 4, .any, .onChange⟩),
  (1, ⟨.uint 2, .ro, zeros 2, .any, .eachBoundary⟩),
  (2, ⟨.uint 2, .ro, zeros 2, .any, .eachBoundary⟩),
  (3, ⟨.uint 2, .ro, zeros 2, .any, .eachBoundary⟩),
  (4, ⟨.uint 2, .ro, zeros 2, .any, .eachBoundary⟩)]⟩

/-- BRINGUP (A050; R385). -/
def dictA050 : DGroup := ⟨0xA050, 1, [
  (0, ⟨.uint 1, .ro, leBytes 1 5, .any, .onChange⟩),
  (1, ⟨.uint 1, .ro, zeros 1, .any, .onChange⟩),
  (2, ⟨.uint 1, .ro, leBytes 1 0, .any, .onChange⟩),
  (3, ⟨.oct 32, .ro, zeros 32, .any, .onChange⟩),
  (4, ⟨.uint 4, .ro, leBytes 4 0, .any, .onChange⟩),
  (5, ⟨.uint 8, .ro, leBytes 8 0, .any, .onChange⟩)]⟩

/-- EVT (B010; R399). -/
def dictB010 : DGroup := ⟨0xB010, 1, [
  (0, ⟨.uint 1, .ro, leBytes 1 5, .any, .onChange⟩),
  (1, ⟨.uint 4, .rw, leBytes 4 1048576, .pow2 4096 4194304, .reset⟩),
  (2, ⟨.uint 1, .rw, leBytes 1 4, .nat 1 6 [], .boundary⟩),
  (3, ⟨.oct 32, .rw, zeros 32, .any, .boundary⟩),
  (4, ⟨.uint 1, .rw, leBytes 1 5, .nat 1 6 [], .boundary⟩),
  (5, ⟨.uint 8, .ro, leBytes 8 0, .any, .eachBoundary⟩)]⟩

/-- EVT_CNT (B011; R399). -/
def dictB011 : DGroup := ⟨0xB011, 1, [
  (0, ⟨.uint 1, .ro, leBytes 1 13, .any, .onChange⟩),
  (1, ⟨.uint 8, .ro, leBytes 8 0, .any, .eachBoundary⟩),
  (2, ⟨.uint 8, .ro, leBytes 8 0, .any, .eachBoundary⟩),
  (3, ⟨.uint 8, .ro, leBytes 8 0, .any, .eachBoundary⟩),
  (4, ⟨.uint 8, .ro, leBytes 8 0, .any, .eachBoundary⟩),
  (5, ⟨.uint 8, .ro, leBytes 8 0, .any, .eachBoundary⟩),
  (6, ⟨.uint 8, .ro, leBytes 8 0, .any, .eachBoundary⟩),
  (7, ⟨.uint 8, .ro, leBytes 8 0, .any, .eachBoundary⟩),
  (8, ⟨.uint 8, .ro, leBytes 8 0, .any, .eachBoundary⟩),
  (9, ⟨.uint 8, .ro, leBytes 8 0, .any, .eachBoundary⟩),
  (10, ⟨.uint 8, .ro, leBytes 8 0, .any, .eachBoundary⟩),
  (11, ⟨.uint 8, .ro, leBytes 8 0, .any, .eachBoundary⟩),
  (12, ⟨.uint 8, .ro, leBytes 8 0, .any, .eachBoundary⟩),
  (13, ⟨.oct 96, .ro, zeros 96, .any, .eachBoundary⟩)]⟩

/-- FAULT (B020; R399). -/
def dictB020 : DGroup := ⟨0xB020, 1, [
  (0, ⟨.uint 1, .ro, leBytes 1 3, .any, .onChange⟩),
  (1, ⟨.uint 4, .rw, leBytes 4 125000, .nat 1250 12500000 [], .boundary⟩),
  (2, ⟨.uint 2, .rw, leBytes 2 64, .nat 4 65535 [], .boundary⟩),
  (3, ⟨.uint 2, .ro, leBytes 2 0, .any, .onChange⟩)]⟩

/-- DOM (B030; R399). -/
def dictB030 : DGroup := ⟨0xB030, 1, [
  (0, ⟨.uint 1, .ro, leBytes 1 2, .any, .onChange⟩),
  (1, ⟨.oct 16, .rw, zeros 16, .any, .boundary⟩),
  (2, ⟨.oct 384, .rw, zeros 384, .any, .boundary⟩)]⟩

/-- REJOIN (B040; R399). -/
def dictB040 : DGroup := ⟨0xB040, 1, [
  (0, ⟨.uint 1, .ro, leBytes 1 7, .any, .onChange⟩),
  (1, ⟨.uint 4, .wo, zeros 4, .mask 0xFFFFF [], .onChange⟩),
  (2, ⟨.uint 1, .ro, leBytes 1 0, .any, .eachBoundary⟩),
  (3, ⟨.uint 4, .rw, leBytes 4 268435456, .nat 0 1073741824 [], .boundary⟩),
  (4, ⟨.oct 256, .ro, zeros 256, .any, .eachBoundary⟩),
  (5, ⟨.oct 32, .rw, zeros 32, .any, .moment⟩),
  (6, ⟨.uint 8, .rw, leBytes 8 0, .nat 0 0xFFFFFFFFFFFE [], .boundary⟩),
  (7, ⟨.uint 8, .ro, leBytes 8 0, .any, .eachBoundary⟩)]⟩

/-- STEP (C010; R35). -/
def dictC010 : DGroup := ⟨0xC010, 1, [
  (0, ⟨.uint 1, .ro, leBytes 1 4, .any, .onChange⟩),
  (1, ⟨.uint 4, .rw, leBytes 4 8000, .oneOf [4000, 8000, 16000], .moment⟩),
  (2, ⟨.uint 8, .ro, leBytes 8 0, .any, .eachBoundary⟩),
  (3, ⟨.uint 1, .ro, leBytes 1 0, .any, .onChange⟩),
  (4, ⟨.uint 4, .ro, leBytes 4 0, .any, .eachBoundary⟩)]⟩

/-- PLAN (C020; R35). -/
def dictC020 : DGroup := ⟨0xC020, 1, [
  (0, ⟨.uint 1, .ro, leBytes 1 6, .any, .onChange⟩),
  (1, ⟨.oct 32, .ro, zeros 32, .any, .onChange⟩),
  (2, ⟨.oct 32, .rw, zeros 32, .any, .boundary⟩),
  (3, ⟨.uint 8, .rw, leBytes 8 0, .nat 0 0xFFFFFFFFFFFE [], .boundary⟩),
  (4, ⟨.uint 1, .ro, leBytes 1 0, .any, .eachBoundary⟩),
  (5, ⟨.uint 4, .ro, leBytes 4 64, .any, .onChange⟩),
  (6, ⟨.oct 24, .rw, zeros 24, .any, .boundary⟩)]⟩

/-- Every group of entries. -/
def dictGroups : List DGroup :=
  [dict1000, dict1010, dict1020, dict1030, dict1031, dict2000, dict2100, dict2110, dict2111, dict2200, dict2201, dict3010] ++
  [dict3011, dict3012, dict3013, dict3030, dict3040, dict3041, dict3042, dict3043, dict3100, dict3200, dict3300, dict4010] ++
  [dict4020, dict4021, dict4030, dict5010, dict5100, dict5200, dict5300, dict5400, dict6010, dict6011, dict6020, dict6021] ++
  [dict6030, dict7010, dict7011, dict7012, dict7013, dict7020, dict7040, dict8010, dict8020, dict8030, dict8040, dict8050] ++
  [dict8100, dict9000, dict9020, dict9030, dict9040, dict9100, dictA010, dictA020, dictA030, dictA040, dictA050, dictB010] ++
  [dictB011, dictB020, dictB030, dictB040, dictC010, dictC020]

/-- The group that holds an index. -/
def dictGroup (idx : Nat) : Option DGroup :=
  dictGroups.find? fun g => decide (g.base ≤ idx) && decide (idx < g.base + g.count)

/-- The entry at an index and subindex; PART.PLOTS and PART.SHARDS of partition 0 have a default of their own (R348). -/
def dictRow (idx sub : Nat) : Option DRow :=
  match dictGroup idx with
  | none => none
  | some g => match mget g.rows sub with
    | none => none
    | some r =>
      if idx = 0x9100 ∧ sub = 1 then some { r with dflt := [0xFF, 0xFF] }
      else if idx = 0x9100 ∧ sub = 2 then some { r with dflt := List.replicate 32 0xFF }
      else some r

/-- The key of an entry: index and subindex in one number, ascending as R335 orders them. -/
def dkey (idx sub : Nat) : Nat := idx * 256 + sub

/-- The size of a value of fixed size; DOMAIN has none. -/
def dsize : DTyp → Option Nat
  | .bool => some 1
  | .uint n => some n
  | .real => some 4
  | .oct n => some n
  | .vis n => some n
  | .dom => none

/-- Every RW entry's index and subindex, in ascending order (R335). -/
def dictRwKeys : List (Nat × Nat) :=
  dictGroups.flatMap fun g => (List.range g.count).flatMap fun j =>
    (g.rows.filter fun r => r.2.acc == .rw).map fun r => (g.base + j, r.1)

end Sys2Proof.Machine
end

