-- ==== Sys2Proof/Machine/State.lean ====
section
/-! DEFINITION. The state of the node: plain data, one structure per unit that the spec names, and the state at reset. -/

namespace Sys2Proof.Machine

/-- Why a step faults.  The model raises none: every command of the table has an effect, or leaves the state as it is
where it names nothing that the node holds. -/
inductive Fault where
  /-- Raised by no meaning; it keeps the type inhabited.  Safe. -/
  | none
  deriving DecidableEq, Repr

/-- Why a step is refused. -/
inductive Refusal where
  /-- A command whose meaning is not written: raised by `exec`'s arm of that command only.  Safe. -/
  | notModelled (mnemonic : String)
  deriving DecidableEq, Repr


/-! ### Tensor arrays and embedding tables (R181 to R204) -/

/-- A working buffer of a request: its format code of R177 (0x10 = INT32), the format of each column where they differ, since every
channel has a register of its own (R181), its rows of element patterns, and for an MX format the scale bytes of each row's blocks. -/
structure Buf where
  fmt    : Nat
  cols   : List Nat
  rows   : List (List Nat)
  scales : List (List Nat)
  deriving DecidableEq, Repr

/-- A tensor array (R181, R183, R184): its two banks of scale registers (a register that is not listed is 0) with their
CHANNEL_BASE, which bank is active, and the clip counters of its groups (CLIPPED, NAN_ZEROED, TOTAL). -/
structure TArr where
  bankA  : List (Nat × Nat)
  bankB  : List (Nat × Nat)
  baseA  : Nat
  baseB  : Nat
  useB   : Bool
  clip   : List (Nat × Nat × Nat × Nat)
  deriving DecidableEq, Repr

/-- A row record of an embedding table (R195): SCALE, APPLY_COUNT, LAST_TRAIN_STEP, B1P, B2P, VALUES and STATE, the values
as patterns of the table's format. -/
structure EmbRow where
  scale : Nat
  applied : Nat
  last  : Nat
  b1p   : Nat
  b2p   : Nat
  vals  : List Nat
  acc   : List Nat
  var   : List Nat
  deriving DecidableEq, Repr

/-- A gradient batch (R199): its source, its entries (row, position, values) and the step of its arrival. -/
structure GradBatch where
  train   : Nat
  source  : Nat
  entries : List (Nat × Nat × List Nat)
  at_     : Nat
  deriving DecidableEq, Repr

/-- A shard's move between plots (R204): the rows copied, those that an apply changed after their copy, and the step of the last
slice. -/
structure EmbMove where
  shard  : Nat
  dest   : Nat
  copied : Nat
  dirty  : List Nat
  at_    : Nat
  deriving DecidableEq, Repr

/-- An embedding table (R194 to R204): its descriptor, the partition that holds it, EMB.STATE, its rows, the last TRAIN_STEP applied, the batches that
wait, the chain's running and finished sums and its commits, the positions counted per shard in this window, the plot of
each shard that has moved, the move that runs, and TABLE_DIGEST as its rows were loaded. -/
structure EmbTab where
  desc    : Bytes
  digest  : Bytes
  part    : Nat
  state   : Nat
  rows    : List EmbRow
  last    : Nat
  batches : List GradBatch
  running : List (Nat × List (Nat × List Nat))
  final   : List (Nat × List (Nat × List Nat))
  commits : List (Nat × Nat)
  warned  : List (Nat × Nat)
  counts  : List (Nat × Nat)
  places  : List (Nat × Nat)
  move    : Option EmbMove
  deriving DecidableEq, Repr
/-! ### Events (R17, R386 to R390) -/

/-- An event record (R386). -/
structure EvRec where
  code     : Nat
  sev      : Nat
  poison   : Bool
  bootLog  : Bool
  usnValid : Bool
  slot     : Nat
  ctrl     : Nat
  stepNo   : Nat
  loc      : Nat
  usn      : Nat
  detail   : Nat
  deriving DecidableEq, Repr

/-- The event hardware (R389, R390): the ring by record index, its counts, the records raised in this step in raising
order, the boot log, the notices sent, and for each condition reported once per run (R388) the last
step in which it held. -/
structure EvSt where
  ring     : List (Nat × EvRec)
  records  : Nat
  produced : Nat
  consumed : Nat
  lost     : Nat
  lostRun  : Nat
  raised   : List EvRec
  boot     : List EvRec
  notices  : Nat
  runs     : List (Nat × Nat)
  deriving DecidableEq, Repr

/-! ### The dictionary (R323 to R345) -/

/-- A source of the dictionary (R330): a field-network MAC address or a privileged queue pair. -/
inductive Src where
  | mac (m : Nat) | qp (q : Nat)
  deriving DecidableEq, Repr

/-- A staging set (R330). -/
structure StagedSet where
  src     : Src
  vals    : List (Nat × Bytes)
  pending : Bool
  deriving DecidableEq, Repr

/-- A segmented transfer (R327). -/
structure Xfer where
  mac    : Nat
  txn    : Nat
  write  : Bool
  idx    : Nat
  sub    : Nat
  total  : Nat
  buf    : Bytes
  moved  : Nat
  since  : Nat
  deriving DecidableEq, Repr

/-- A response frame of FDP (R326, R327). -/
structure FdpResp where
  mac     : Nat
  service : Nat
  last    : Bool
  result  : Nat
  txn     : Nat
  idx     : Nat
  sub     : Nat
  total   : Nat
  value   : Bytes
  deriving DecidableEq, Repr

/-- A commit that waits for the Hand (R331): its source, the FDP transaction that awaits the answer, and the last step in
which the Hand may finish it. -/
structure CommitReq where
  src  : Src
  txn  : Option Nat
  due  : Nat
  deriving DecidableEq, Repr

/-- What the node holds for one source: the commit result (R334), the session confirmation (R363), and the attestation
report (R361) with its nonce, its ATT.STATE as it stands and as read until the next boundary, and the generation of the encapsulation key that it names (R364). -/
structure SrcResult where
  commit  : Bytes
  confirm : Bytes
  report  : Bytes
  nonce   : Bytes
  att     : Nat
  attPub  : Nat
  gen     : Nat
  deriving DecidableEq, Repr

/-- A resource claim in force (R343): type, index and owner. -/
structure ResClaim where
  typ   : Nat
  idx   : Nat
  owner : Nat
  deriving DecidableEq, Repr

/-- The dictionary's state: committed values and values in force, by key; the node's own (RO) values, running and as
published at the last boundary; the claims; the durable store (R379); and the protocol's own state, with the sources whose last
transfer was ended as idle. -/
structure DictSt where
  committed : List (Nat × Bytes)
  active    : List (Nat × Bytes)
  live      : List (Nat × Bytes)
  pub       : List (Nat × Bytes)
  claims    : List ResClaim
  store     : List (Nat × Bytes)
  sets      : List StagedSet
  xfers     : List Xfer
  lastTxn   : List (Nat × Nat)
  lastResp  : List (Nat × FdpResp)
  resp      : List FdpResp
  sent      : List FdpResp
  commits   : List CommitReq
  results   : List (Nat × SrcResult)
  lastSeq   : List (Nat × Nat)
  expired   : List Nat
  deriving DecidableEq, Repr

/-! ### Agents and dies (R10 to R19) -/

/-- Which units live (bitmaps), the lost agents whose restart was granted when their loss was detected (bits 0 to 3 the Bars, 4 to 7
the Gate Strings, 8 to 23 the plot Strings), and the plot faults scored (R393). -/
structure NodeSt where
  plots       : Nat
  tillers     : Nat
  gates       : Nat
  bars        : Nat
  strings     : Nat
  gateStrings : Nat
  handDie     : Nat
  handAlive   : Bool
  altStarting : Bool
  g0Lost      : Bool
  nearOut     : Nat
  farOut      : Nat
  retired     : Nat
  restart     : Nat
  faults      : List (Nat × Nat × Nat)
  deriving DecidableEq, Repr

/-! ### Plans and steps (R23 to R36) -/

/-- A section of a plan image (R29). -/
structure PlanSec where
  typ   : Nat
  count : Nat
  off   : Nat
  deriving DecidableEq, Repr

/-- A plan (R29): its image in the plan store and the header's fields. -/
structure Plan where
  image    : Bytes
  tier     : Nat
  stepNs   : Nat
  period   : Nat
  lifetime : Nat
  digest   : Bytes
  secs     : List PlanSec
  deriving DecidableEq, Repr

/-- A plan set (R28): its plans in tier order, and its digest. -/
structure PlanSet where
  plans  : List Plan
  digest : Bytes
  deriving DecidableEq, Repr

/-- A Headland transfer that waits for its retry slot (R12, R296), the step of its first attempt, and the requests that depend on it. -/
structure RouteRetry where
  route : Nat
  at_   : Nat
  deps  : List Nat
  deriving DecidableEq, Repr

/-- One item of the boundary phase (R25), in the order in which the agenda holds them.  Every item with a row of its own
in the table of operations is done by that command, or at the end of the step at the latest. -/
inductive BItem where
  | planDrain | planActivate
  | modelDrain (slot : Nat) | modelActivate (slot : Nat)
  | gateTakeover (port : Nat)
  | tenantDrain (p : Nat) | tenantSwitch (p : Nat) | tenantScrubEnd (p : Nat)
  | plotLimit (plot : Nat)
  | sealFreeze (slot : Nat) | sealSwitch (slot : Nat) | replicaSwitch (slot : Nat)
  | deltaOpen (slot : Nat)
  | compactChoose (slot : Nat) | compactSwitch (slot : Nat)
  | epochRelease (slot epoch : Nat)
  | loadWindow | placeWindow | pageDemote | promotionSwitch (plot : Nat) | embSwitch (table : Nat)
  | rejoinLoaded (slot : Nat) | rejoinAdmit
  | visibility | updates
  | accept (entry ring : Nat) | publish
  deriving DecidableEq, Repr

/-- A data mover (R289): its channels that name transfers of this step, with their entries, and its buffer, as the share of a transfer from its
first region holds it. -/
structure Mover where
  chans : List (Nat × Nat)
  buf   : List (Nat × Bytes)
  deriving DecidableEq, Repr

/-- The sequencer and the plan sets (R23 to R36): `tier` is that of CLK_CORE, `planTier` that of the plan which runs (under a stretch it
stays, R34), `admTier` that of the slots which admission follows (R33), `used` what has run of each maintenance slice's CAPACITY in this
step (R237), `movers` the data movers, by 2 × plot + mover. -/
structure StepSt where
  number    : Nat
  running   : Bool
  held      : Bool
  limit     : Bool
  sequencer : Nat
  tier      : Nat
  planTier  : Nat
  admTier   : Nat
  wantTier  : Option Nat
  tierAt    : Nat
  stretch   : Bool
  noAdmit   : Bool
  demand    : Option Nat
  spill     : Nat
  retries   : List RouteRetry
  agenda    : List BItem
  open_     : Bool
  plan      : Option PlanSet
  activated : Nat
  staged    : Option PlanSet
  armed     : Bool
  draining  : Bool
  seedling  : Bool
  used      : List (Nat × Nat)
  movers    : List (Nat × Mover)
  deriving DecidableEq, Repr

/-! ### Rings and the ledger (R155 to R175) -/

/-- A ring pair with its doorbell page (R155, R156); slots are bytes of region 0x4.  `sTail` and `sHead` are REQ_TAIL
and CPL_HEAD as last sampled. -/
structure Ring where
  log2     : Nat
  qp       : Nat
  part     : Nat
  mirror   : Bool
  mAddr    : Nat
  mRkey    : Nat
  reqTail  : Nat
  cplHead  : Nat
  reqHead  : Nat
  cplTail  : Nat
  sTail    : Nat
  sHead    : Nat
  reserved : Nat
  halted   : Bool
  deriving DecidableEq, Repr

/-- A stub (R170). -/
structure Stub where
  belief   : Nat
  phase    : Nat
  cplRing  : Nat
  far      : Nat
  tag      : Nat
  client   : Nat
  reserved : Nat
  nearSlot : Nat
  deriving DecidableEq, Repr

/-- A request whose pool was lost: its completion is due in the step after `at_`, in which the loss was detected (R174), or its slots only
return; `far` says that its far context is what was lost. -/
structure Lost where
  tag      : Nat
  kind     : Nat
  client   : Nat
  cplRing  : Nat
  reserved : Nat
  phase    : Nat
  writes   : Bool
  far      : Bool
  at_      : Nat
  deriving DecidableEq, Repr

/-- A visit record (R45), with the segment it belongs to. -/
structure Visit where
  handle    : Nat
  filtered  : Bool
  invisible : Bool
  pruned    : Bool
  delta     : Bool
  dist      : Nat
  deriving DecidableEq, Repr

/-- A ranked record: a candidate of the rerank, or a record of a result list (R89, R103). -/
structure Cand where
  ext    : Nat
  shard  : Nat
  handle : Nat
  pq     : Nat
  exact  : Int
  scale  : Nat
  delta  : Bool
  dup    : Bool
  resid  : Nat
  deriving DecidableEq, Repr

/-- A merge-source entry (R107). -/
structure MergeSrc where
  shard : Nat
  node  : Nat
  port  : Nat
  peer  : Nat
  deriving DecidableEq, Repr

/-- A table of R78 for one codebook, quantised, in (subspace, centroid) order, and the residues mod 255 stored with it (R122). -/
structure QTab where
  cb  : Bytes
  tab : List Nat
  res : List Nat
  deriving DecidableEq, Repr

/-- A walk in progress (R82, R85), as the near slot keeps it from step to step: the queue in ascending (distance, offset) with the
open mark, the offsets seen with their distances, the hops taken, the hub at which the hub phase stands (none in the base phase),
whether the walk is exhausted, whether it has converged, and its records, last first. -/
structure Walk where
  seg   : Nat
  queue : List (Nat × Nat × Bool)
  seen  : List (Nat × Nat)
  hops  : Nat
  hub   : Option Nat
  done  : Bool
  ended : Bool
  recs  : List Visit
  deriving DecidableEq, Repr

/-- The selection of one plot of a shard (R106 stage 1): the keys that its passes have returned, and its plot list (R105) once the
selection has ended. -/
structure PlotSel where
  plot : Nat
  keys : List Nat
  list : Option Bytes
  deriving DecidableEq, Repr

/-- The searches of one segment of a shard: the segment and its records in emission order. -/
structure SegVisits where
  seg    : Nat
  visits : List Visit
  exhausted : Bool
  deriving DecidableEq, Repr

/-- What a request holds for one entry of its Stamp: its tables and query, the walks in progress and the searches that have ended, the
result row pairs of its segments' covered terms (R87), the plots' selections (R106), and the keys that the passes of its selection in
progress have returned (R98). -/
structure ShardWork where
  slot    : Nat
  id      : Nat
  epoch   : Nat
  usn     : Nat
  src     : MergeSrc
  tables  : List QTab
  q       : List Int
  qScale  : Nat
  walks   : List Walk
  segs    : List SegVisits
  rows    : List (Nat × Bytes × Bytes)
  delta   : Option (List Visit)
  plots   : List PlotSel
  sel     : List Nat
  cands   : List Cand
  ranked  : List Cand
  stage   : Nat
  todo    : List Nat
  result  : List Cand
  status  : Nat
  visited : Nat
  filtered : Nat
  pruned  : Nat
  digest  : Bytes
  certs   : List (Nat × Bytes)
  deriving DecidableEq, Repr

/-- A page of keys and values of one (layer, KV head) pair (R210): its flags, its tokens, and the element patterns; and whether it is
referenced where its segment is mirrored, so that it takes no cache page (R218). -/
structure KvPage where
  layer   : Nat
  head    : Nat
  mirrored : Bool
  ro      : Bool
  rotated : Bool
  valid   : Nat
  pos     : Nat
  k       : List Nat
  v       : List Nat
  deriving DecidableEq, Repr

/-- An instruction of a program that a request still has to run (R189), and whether the program is its draft model's (R221). -/
structure TStep where
  draft : Bool
  op    : Nat
  ti    : TInstr
  deriving DecidableEq, Repr

/-- An entry of a pass's length table (R220). -/
structure LenEntry where
  near  : Nat
  home  : Nat
  kind  : Nat
  first : Nat
  count : Nat
  ctx   : Nat
  pos   : Nat
  deriving DecidableEq, Repr

/-- A generation request's working state (R216 to R222): the header posted, the cache it extends, its tokens, the pages in
page-table order with the position each is spliced at, those of the draft model, how much of the draft's tree the draft had before the
run of its program, the spread of the cache and its members (R225), the pass whose length table covers its rows (R220, R221), the choices of the pass, and what was emitted.
`key` names the kept cache that it extends to the other members, `asked` are the ports whose partials it waits for (R225), and `passg` says
that it computes the pages of a passage (R211). -/
structure GenWork where
  hdr      : Bytes
  image    : Bytes
  draft    : Bytes
  cache    : Nat
  prior    : Bytes
  base     : Nat
  prompt   : List Nat
  block    : List Nat
  passages : List (Nat × Nat)
  roots    : List Bytes
  pages    : List (KvPage × Nat)
  dpages   : List (KvPage × Nat)
  tried    : Nat
  pass     : Option Nat
  spread   : Nat
  members  : List Nat
  fed      : Nat
  choice   : List Nat
  drafts   : List Nat
  path     : List Nat
  next     : Option Nat
  out      : List Nat
  scores   : List Nat
  passes   : Nat
  emitting : Nat
  accepted : Nat
  stop     : Nat
  done     : Bool
  late     : Bool
  stage    : Nat
  key      : Option Nat
  asked    : Nat
  passg    : Bool
  deriving DecidableEq, Repr

/-- A near slot: the working state of a request (R171), on its home plot, with the plots of its walk parts; whether its Stamp was
supplied, the keys that the merge's passes have returned, and whether the merged list fell short over filtered visits (R91); for an
update whether a partner was attached at its admission (R136); the instructions that its programs still have to run (R189); a gather
that waits for rows of other nodes, and the rows that have come (R198). -/
structure Work where
  kind     : Nat
  plot     : Nat
  walk     : List Nat
  qp       : Nat
  body     : Bytes
  params   : Bytes
  query    : Bytes
  kindId   : Nat
  level    : Nat
  supplied : Bool
  widen    : Bool
  widened  : Bool
  short    : Bool
  merged   : Bool
  seedling : Bool
  plan     : Bytes
  model    : Bytes
  orig     : Nat
  subTag   : Nat
  subPort  : Nat
  x        : Option (List Nat)
  shards   : List ShardWork
  sel      : List Nat
  final    : List Cand
  status   : Nat
  condBits : Nat
  replay   : Bytes
  certSet  : Bytes
  roots    : List (Nat × Nat × Nat)
  usn      : Nat
  mirror   : Bool
  acks     : Nat
  gen      : Option GenWork
  image    : Bytes
  prog     : List TStep
  bufs     : List (Nat × Buf)
  lastOut  : Nat
  gather   : Option TInstr
  fetched  : List (Nat × List Nat)
  deriving DecidableEq, Repr

/-- A far context (R170).  `ref` is REPLAY_REF, `ckpt` the CHECKPOINT of the last release, and `moved` the step of the last handoff
(R173). -/
structure FarCtx where
  owner    : Nat
  phase    : Nat
  kind     : Nat
  kindId   : Nat
  cplRing  : Nat
  srcRing  : Nat
  tag      : Nat
  client   : Nat
  stub     : Nat
  reserved : Nat
  deadline : Nat
  replayable : Bool
  replayed : Bool
  audit    : Bool
  home     : Nat
  status   : Nat
  ref      : Nat
  ckpt     : Option Work
  moved    : Option Nat
  deriving DecidableEq, Repr

/-- A request's replay copy (R175): its slots, what its admission fixed (its Stamp and every value read then), the plot on
which it lies, whether the grant was held, and its ring. -/
structure ReplayCopy where
  desc   : Bytes
  work   : Work
  plot   : Nat
  grant  : Bool
  ring   : Nat
  deriving DecidableEq, Repr

/-- A replay that waits for its slot (R175). -/
structure Replay where
  tag      : Nat
  copy     : ReplayCopy
  kindId   : Nat
  cplRing  : Nat
  reserved : Nat
  client   : Nat
  kind     : Nat
  phase    : Nat
  deriving DecidableEq, Repr

/-- An audit pass that waits or runs (R127, R128), with the vectors that its slices have scored on each plot. -/
structure Audit where
  tag   : Nat
  work  : Work
  ring  : Nat
  slots : Nat
  far   : Nat
  done  : List (Nat × Nat)
  deriving DecidableEq, Repr

/-- A root record that waits in the root queue (R166), or the one that a ROOT_REQUEST computes; `ok` says that the two Keccak cores have
agreed on its root (R120). -/
structure RootRec where
  slot   : Nat
  shard  : Nat
  epoch  : Nat
  usn    : Nat
  reason : Nat
  root   : Bytes
  ok     : Bool
  deriving DecidableEq, Repr

/-- The two pools and what goes with them; the fixed Stamps of sub-searches served that may come again as a widened pass, by port and
SUB_TAG (R92); the step in which each far partition was last swept (R173); and the length tables of the passes that run (R220). -/
structure LedgerSt where
  fars    : List (Nat × FarCtx)
  stubs   : List (Nat × Stub)
  works   : List (Nat × Work)
  copies  : List (Nat × ReplayCopy)
  losses  : List Lost
  replays : List Replay
  rootQ   : List RootRec
  audits  : List Audit
  published : List (Nat × Nat × Nat)
  subQ    : List (Nat × Bytes)
  subSeen : List (Nat × Nat × List (Nat × Nat × Nat))
  swept   : List (Nat × Nat)
  lens    : List (Nat × List LenEntry)
  deriving DecidableEq, Repr

/-! ### Shards, segments and updates (R47 to R71, R132 to R153) -/

/-- A sealed segment: its image, the root recorded for it, whether it serves, the pages that are being reloaded, and the insert USN of
each offset, none where this node never held the deltas (R50). -/
structure Seg where
  image   : Bytes
  root    : Bytes
  loaded  : Bool
  inService : Bool
  mirrored : Bool
  reload  : List Nat
  usns    : List Nat
  deriving DecidableEq, Repr

/-- A delta record (R63). -/
structure DRec where
  ext   : Nat
  usn   : Nat
  attr  : Bytes
  scale : Nat
  sumsq : Nat
  code  : Bytes
  comps : Bytes
  deriving DecidableEq, Repr

/-- A delta segment (R63, R138). -/
structure Delta where
  cb     : Bytes
  metric : Nat
  epoch  : Nat
  opened : Nat
  recs   : List DRec
  deriving DecidableEq, Repr

/-- A layout epoch (R38, R67, R68): its range, its sealed segments, its deltas (frozen first), its tombstone base and
its chain by USN. -/
structure Epoch where
  num     : Nat
  floor   : Nat
  ceiling : Option Nat
  sealed  : List Nat
  deltas  : List Nat
  tombRoot : Bytes
  tombCount : Nat
  chain   : List (Nat × Bytes)
  superseded : Option Nat
  deriving DecidableEq, Repr

/-- The seal settings of 0x3030 (R333), as read at a freeze or at a choice. -/
structure SealSet where
  mirror  : Bool
  fields  : Nat
  share   : Nat
  baseDeg : Nat
  hubDeg  : Nat
  hubShare : Nat
  deriving DecidableEq, Repr

/-- A seal or a compaction that runs (R146, R149). Stage: 0 abandoned and to begin
again, 1 begun, 2 built, 3 written to flash, 4 durable, 5 frozen at a replica, whose owner builds it.  `needs`: the flash units that an image refused for lack of space takes. -/
structure SealJob where
  inputs  : List Nat
  out     : Nat
  floor   : Nat
  stage   : Nat
  tries   : Nat
  image   : Bytes
  offs    : List (Nat × Nat)
  set     : SealSet
  chain   : List (Nat × Bytes)
  noSpace : Bool
  needs   : Nat
  built   : Nat
  deriving DecidableEq, Repr

/-- A log record (R140): the shard's slot, its kind and USN, its bytes, the step in which it was charged, how many of its
bytes log pages hold, and whether it is durable. -/
structure LogRec where
  seq     : Nat
  slot    : Nat
  kind    : Nat
  usn     : Nat
  bytes   : Bytes
  at_     : Nat
  done    : Nat
  durable : Bool
  deriving DecidableEq, Repr

/-- A partner of a shard at its owner (R142, R144, R396), or the owner at a replica; the next log record that it is owed; while it loads,
the epoch sent, the bytes of it sent, and the next log record (R397). -/
structure Partner where
  peer     : Nat
  port     : Nat
  attached : Bool
  detached : Bool
  acked    : Nat
  next     : Nat
  loading  : Bool
  loadEp   : Nat
  loadAt   : Nat
  loadSeq  : Nat
  deriving DecidableEq, Repr

/-- A shard slot (R48).  `pendEpoch` is the epoch record that a replica installs next, `pendDone` whether it is durable with its images
(R146). -/
structure Shard where
  id       : Nat
  segBase  : Nat
  segCount : Nat
  owner    : Bool
  vis      : Nat
  last     : Nat
  epochs   : List Epoch
  segs     : List (Nat × Seg)
  deltas   : List (Nat × Delta)
  tombs    : List (Nat × Nat)
  digests  : List (Nat × Bytes)
  dir      : List (Nat × List Nat)
  sealJob  : Option SealJob
  comp     : Option SealJob
  noSpace  : Bool
  partners : List Partner
  inbox    : List LogRec
  held     : List LogRec
  expects  : Nat
  pendEpoch : Option Bytes
  pendDone : Bool
  images   : List (Nat × Bytes)
  state    : Nat
  holdOut  : Bool
  badImage : List Nat
  topUsn   : Nat
  lastUsn  : Nat
  deriving DecidableEq, Repr

/-- The update log (R140, R141): its records oldest first, the bytes charged, whether flash refuses appends. -/
structure LogSt where
  recs    : List LogRec
  dirty   : Nat
  nextSeq : Nat
  full    : Bool
  deriving DecidableEq, Repr

/-- A codebook (R139): its header fields and values. -/
structure Codebook where
  digest : Bytes
  dim    : Nat
  m      : Nat
  bits   : Nat
  values : Bytes
  deriving DecidableEq, Repr

/-! ### What the node sends -/

/-- A message that the node hands to an egress queue: an RDMA WRITE to the host (R157), a UD SEND (R390), a Hedge message
of R309 with its type, the acknowledgement or negative acknowledgement of a host's RDMA operation, the data of an RDMA READ, or an answer on the
network (R310 to R312). -/
inductive OutMsg where
  | write (qp addr rkey : Nat) (data : Bytes) (imm : Option Nat)
  | send (qp : Nat) (data : Bytes)
  | hedge (typ : Nat) (body : Bytes)
  | net (kind : Nat) (body : Bytes)
  | ack (qp : Nat) (nak : Bool)
  | reply (qp : Nat) (data : Bytes)
  deriving DecidableEq, Repr

/-- What the headers of a RoCEv2 packet give (R311 to R313): PCP, the ECN field (2 = ECT(0)), the UDP ports, and under a session
the IV under which the payload was sealed when it left (R366). -/
structure RoceHdr where
  pcp : Nat
  ecn : Nat
  src : Nat
  dst : Nat
  iv  : Bytes
  deriving DecidableEq, Repr

/-- An item of an egress queue (R315): its port (0 to 15 Hedge, 16 to 19 Ethernet), its class, the message, the step in
which it was queued, how many frames of it have left, and the headers of its packets where they are RoCEv2. -/
structure TxItem where
  port : Nat
  cls  : Nat
  msg  : OutMsg
  step : Nat
  done : Nat
  hdr  : Option RoceHdr
  deriving DecidableEq, Repr

/-- A queue pair (R311 to R314, R348, R363): type (0 = RC, 1 = UD), port, state (0 = reset, 1 = ready to receive, 2 = ready
to send, 3 = error), sequence numbers, the frames that are not acknowledged with their PSNs, its congestion state, where its send-rate limit is
`rate` / 2^`rateExp` 64ths of line rate, with the bytes sent since the last refill, class, partition and the KM of its session (KEY_HN, KEY_NH, TAG_KEY, SALT_HN and SALT_NH of R365). -/
structure QPair where
  ud       : Bool
  port     : Nat
  state    : Nat
  mtu      : Nat
  sendPsn  : Nat
  recvPsn  : Nat
  ackPsn   : Nat
  outstanding : List (Nat × TxItem)
  retries  : Nat
  retryMax : Nat
  timeout  : Nat
  rate     : Nat
  rateExp  : Nat
  cuts     : Nat
  lastCnp  : Option Nat
  congested : Bool
  cls      : Nat
  part     : Nat
  session  : Option Bytes
  sendSeq  : Nat
  recvSeq  : Nat
  spent    : Nat
  deriving DecidableEq, Repr

/-- The answer to the last RDMA operation (R22): data, done, or a negative acknowledgement. -/
inductive RdmaResp where
  | none | data (b : Bytes) | done | nak
  deriving DecidableEq, Repr

/-! ### Models and kept caches (R186 to R188, R219) -/

/-- A model slot: its active image, the staged image with its activation step, whether requests are held from it, and the partition
on whose plots it resides. -/
structure ModelSlot where
  image   : Bytes
  next    : Option Bytes
  at_     : Nat
  blocked : Bool
  part    : Nat
  deriving DecidableEq, Repr

/-- A kept cache (R219), with the bytes that it holds on the first plot of its partition, which holds the most (R225), the pages of
the draft model that its requests ran with, and the spread, the members and the key with which it was opened (R225, R226). -/
structure Cache where
  bytes  : Nat
  part   : Nat
  model  : Bytes
  tokens : Nat
  digest : Bytes
  pages  : List (KvPage × Nat)
  dpages : List (KvPage × Nat)
  spread : Nat
  members : List Nat
  key    : Nat
  inUse  : Bool
  last   : Nat
  deriving DecidableEq, Repr

/-- The pages that this node holds as a member of another node's cache (R225): the Hedge port and the key of the cache, HEAD_DIM and
KV_FORMAT, and the pages with their first positions. -/
structure Lent where
  port  : Nat
  key   : Nat
  hd    : Nat
  fmt   : Nat
  pages : List (KvPage × Nat)
  deriving DecidableEq, Repr


/-! ### Flash (R268 to R287) -/

/-- A block of a die (R272, R275, R276, R280, R281): whether it is in SLC mode, its state (0 = free, 1 = open, 2 = full,
3 = retired, 4 = emptied and to be erased), its erase count, the pages written, whether it is weak, the step from which it may be
erased and the WRITE_SEQ up to which the journal must be programmed before, the reads of this scrub period with those that needed
retries beyond the planned number, 1 + the period in which it was last reported weak, and its use (0 = units, 1 = system pages, 2 = the target
of a copy). -/
structure Blk where
  slc     : Bool
  st      : Nat
  erases  : Nat
  written : Nat
  weak    : Bool
  eraseAt : Nat
  seq     : Nat
  reads   : Nat
  beyond  : Nat
  told    : Nat
  use_    : Nat
  deriving DecidableEq, Repr

/-- A unit that a collection has copied into an open target (R280): its LPN, where it was and where its copy is, and the copy's WRITE_SEQ. -/
structure Moved where
  lpn   : Nat
  from_ : Nat
  to_   : Nat
  seq   : Nat
  deriving DecidableEq, Repr

/-- A collection that a die runs (R280, R281): its victim, the open target, what that holds, and whether it is a relocation. -/
structure GcJob where
  victim   : Nat
  target   : Option Nat
  moved    : List Moved
  relocate : Bool
  deriving DecidableEq, Repr

/-- A die (R269, R276, R277, R280 to R283): its record of the qualified list, whether it is in service, what its parameter page gives, its
erase limit, its blocks that are not as manufactured, its spares, its reads and retries of this scrub period and of the last, the read offsets
of R277 in steps and the imbalances of the last 4,096 sectors, both by 32 × group of 64 blocks + 16 × mode + level, the features that are set,
and the collection that it runs. -/
structure Die where
  rec_    : Bytes
  on      : Bool
  blocks  : Nat
  units   : Nat
  peLimit : Nat
  bad     : List Nat
  blks    : List (Nat × Blk)
  spares  : Nat
  spares0 : Nat
  reads   : Nat
  retried : Nat
  lastReads   : Nat
  lastRetried : Nat
  period  : Nat
  offsets : List (Nat × Int)
  seen    : List (Nat × List Int)
  feats   : List (Nat × Nat)
  gc      : Option GcJob
  deriving DecidableEq, Repr

/-- A unit on NAND (R271): LPN, KIND (0 = image, 1 = log, 2 = system) and WRITE_SEQ of its sectors' metadata, the namespace key under which it is
encrypted (partition + 8 × generation), and its data before encryption. -/
structure FUnit where
  lpn  : Nat
  kind : Nat
  seq  : Nat
  key  : Nat
  data : Bytes
  deriving DecidableEq, Repr

/-- An extent (R273, R278, R279): the partition, the shard slot and segment, its first LPN and pages, and whether it is
provisional; and how many of its pages are programmed. -/
structure Extent where
  part  : Nat
  slot  : Nat
  seg   : Nat
  first : Nat
  pages : Nat
  prov  : Bool
  done  : Nat
  deriving DecidableEq, Repr

/-- A log page in flash (R278): its partition, LPN, LOG_SEQ, VALID_BYTES, and the first and the last log record of which it holds bytes. -/
structure LogPage where
  part  : Nat
  lpn   : Nat
  seq   : Nat
  valid : Nat
  first : Nat
  last  : Nat
  deriving DecidableEq, Repr

/-- An entry of the map journal (R278): LPN, NEW_ADDRESS and WRITE_SEQ; and how many LPNs it trims (R351). -/
structure JEntry where
  lpn  : Nat
  addr : Nat
  seq  : Nat
  span : Nat
  deriving DecidableEq, Repr

/-- A journal page in a system block, and a map page of the last checkpoint (R278): the WRITE_SEQ up to which it covers the journal, and its
entries. -/
structure JPage where
  addr    : Nat
  entries : List JEntry
  deriving DecidableEq, Repr

structure Ckpt where
  upTo    : Nat
  entries : List (Nat × Nat)
  deriving DecidableEq, Repr

/-- The flush record (R285): Step Number, last LOG_SEQ and WRITE_SEQ, its digest, and where its copies lie. -/
structure FlushRec where
  step     : Nat
  logSeq   : Nat
  writeSeq : Nat
  digest   : Bytes
  places   : List Nat
  deriving DecidableEq, Repr

/-- The flash side: dies by 16 × channel + die, the channels in service, the units on NAND by address, the map, the changes that the next
boundary makes, dirty and programmed journal entries, the map page that the next checkpoint writes and those written, the addresses of the other
system pages (0 = the extent table, 1 + slot = a shard's epoch record, 1,024 + n = map page n), the extents and log pages, the partitions whose
open log page is due, the counters WRITE_SEQ and LOG_SEQ, the LOG_SEQ up to which recovery has verified the log, the flush time, the flush
record, the channels to format at reset, and the health warnings that stand (R283). -/
structure FlashSt where
  dies     : List (Nat × Die)
  chans    : Nat
  units    : List (Nat × FUnit)
  map      : List (Nat × Nat)
  pend     : List JEntry
  journal  : List JEntry
  jpages   : List JPage
  ckptNext : Nat
  ckpt     : List (Nat × Ckpt)
  sys      : List (Nat × Nat)
  extents  : List Extent
  logPages : List LogPage
  due      : List Nat
  writeSeq : Nat
  logSeq   : Nat
  verified : Nat
  flushUs  : Nat
  flushRec : Option FlushRec
  format   : Nat
  warned   : Nat
  deriving DecidableEq, Repr

/-! ### Tiers (R227 to R240) -/

/-- A promotion that waits or is being copied (R235); whether a write of this step has restarted it. -/
structure Promo where
  page     : Nat
  restarts : Nat
  copied   : Bool
  hit      : Bool
  deriving DecidableEq, Repr

/-- Where a segment's bitmap row pairs lie (R254): plot, shard slot, segment, base slot and bitmap count; and whether rows of them wait
to be rewritten from the flash image (R266). -/
structure BmPlace where
  plot  : Nat
  slot  : Nat
  seg   : Nat
  base  : Nat
  count : Nat
  bad   : Bool
  deriving DecidableEq, Repr

/-- A block of a TILLER tensor in the banks (R257, R258): the model slot and the TENSOR_ID, the group, the block's first channel, and the
MATVEC record that names its rows. -/
structure TillPlace where
  model : Nat
  id    : Nat
  g     : GroupId
  first : Nat
  rec_  : Bytes
  deriving DecidableEq, Repr

/-- The registers that the Henust extension adds to a pseudo-channel (R246): TM_CTRL, and ONDIE_UE of TM_STATUS. -/
structure TmReg where
  ctrl : Nat
  ue   : Bool
  deriving DecidableEq, Repr

/-- The window and its frames: the pages the node has allocated with what they hold (0 = segment, 1 = delta, 2 = TOMB_USN,
3 = embedding shard, 4 = passage mirror; slot or table; segment or shard), the read counts of this window, the pages held in
frames, the demotions of the last window, the promotions that wait, the pages written in this step, the bytes copied per plot
in this step, the end of the last window, corrected errors per row, rows repaired, pages to rebuild from the log, and the
deltas that wait for a page, the end of the last scrub period, the bitmaps' places, and the host writes of regions 0x0 and 0x1
that the engines see from the next boundary (R22), the pages held for the caches of other nodes (R225), the blocks of TILLER tensors (R258), and
the registers of the pseudo-channels (R246). -/
structure TierSt where
  alloc    : List (Nat × (Nat × Nat × Nat))
  counts   : List (Nat × Nat)
  frames   : List Nat
  demote   : List Nat
  promos   : List Promo
  wrote    : List Nat
  copied   : List (Nat × Nat)
  winAt    : Nat
  rowCe    : List (Nat × Nat)
  repairs  : List (Nat × Nat)
  rebuild  : List Nat
  planBad  : Nat
  outQ     : List (Nat × Nat)
  scrubAt  : Nat
  bmaps    : List BmPlace
  landing  : List (Nat × Bytes)
  lent     : List Lent
  places   : List TillPlace
  tm       : List (Nat × TmReg)
  deriving DecidableEq, Repr

/-! ### Tilling (R242 to R266) -/

/-- A tilling group (R245, R246, R249, R250, R263, R265): STATE (0 = OUT, 1 = TILLING, 2 = SUSPENDED, 3 = FAULT), the command
FIFO, LAST_SEQ, LAST_RESULT, DEFICIT, COMMANDS_DONE, whether the stack is above 85 °C, the window's ROW_IN, ROW_OUT, Y_OUT,
SUM_Y and X_IN (the X latch), the state marks of rows (1 = TILLED, 2 = CHECKED, 3 = FAILED; a row that is not listed is CLEAN), the step of
the last write of TM_CTRL for the group, and the accumulators. -/
structure TGroup where
  st      : Nat
  fifo    : List Bytes
  lastSeq : Nat
  lastRes : Nat
  deficit : Nat
  done    : Nat
  hot     : Bool
  rowIn   : Bytes
  rowOut  : Bytes
  yOut    : Bytes
  sumY    : Bytes
  xIn     : Bytes
  marks   : List (Nat × Nat)
  ctrlAt  : Option Nat
  acc     : List Int
  deriving DecidableEq, Repr

/-! ### Cell-pool queues (R297 to R302) -/

/-- A queue of a plot's cell pool: credits left in this step, the whole packets held as lists of cell indices, the cells of the packet still
being pushed with the number of packets ahead of it and what becomes of it (0 = it is held, 1 = it is freed when its LAST cell arrives, 2 = it was
discarded), whether a flush is pending, the commands that the Hand sends again in the next step, and the tags of the requests whose packets the
queue carries. -/
structure QSt where
  credits : Nat
  pkts    : List (List Nat)
  open_   : List Nat
  ahead   : Nat
  fate    : Nat
  flush   : Bool
  again   : List Bytes
  reqs    : List Nat
  deriving DecidableEq, Repr

/-! ### Links and traffic (R304 to R321) -/

/-- A DATA flit that a replay buffer holds (R308), with how many times in a row it was sent again, and the lanes that carried its pieces (R307). -/
structure RFlit where
  fsn     : Nat
  flit    : Bytes
  retried : Nat
  lanes   : List Nat
  deriving DecidableEq, Repr

/-- A Hedge port (R304 to R309, R367); STATE, PEER_ID, LANE_MAP and SWAPS are entries of the dictionary.  The armed spare, the
lane that waits for retraining, its attempts and the step of the last, those of the port as a whole, the round trip measured at training in ns, the key agreed, the next FSN to send
and the FSN expected, whether the gap's RETRY was sent, the replay buffer, the part of a message held per class and of
bodies that several messages carry, the CONTROL and IDLE flits sent in this step, the messages sealed and
opened per class under the port's key (R367), and the step at which the port went DOWN. -/
structure HPort where
  spare   : Option Nat
  failed  : Option Nat
  tries   : Nat
  triedAt : Option Nat
  recTries : Nat
  recAt   : Option Nat
  rtt     : Nat
  key     : Option Bytes
  txFsn   : Nat
  rxFsn   : Nat
  gap     : Bool
  replay  : List RFlit
  halves  : List (Nat × Bytes)
  ctl     : List Bytes
  sealTx  : List Nat
  sealRx  : List Nat
  downAt  : Nat
  deriving DecidableEq, Repr

/-- An RDMA WRITE that waits in a class buffer for its ingress gate (R312, R318). -/
structure HeldWrite where
  cls  : Nat
  qp   : Nat
  addr : Nat
  data : Bytes
  deriving DecidableEq, Repr

/-- An Ethernet port (R310 to R314): the step in which its link was lost, the port its addresses moved to, the priorities
paused by the peer with the step of each pause, the writes that wait, the classes for which XOFF stands, the PFC frames
sent in this step (`true` = XOFF), and the frames discarded. -/
structure EPort where
  downAt  : Option Nat
  movedTo : Option Nat
  paused  : List (Nat × Nat)
  inQ     : List HeldWrite
  xoff    : Nat
  pfcSent : List (Nat × Bool)
  dropped : Nat
  deriving DecidableEq, Repr

/-- A traffic port (R315, R316, R321): per class the shaper register in force, its credit, the most bytes held and the frames
deferred in this step. -/
structure TPort where
  shapers : List Nat
  credit  : List Int
  depth   : List Nat
  waited  : List Nat
  deriving DecidableEq, Repr

/-! ### Security (R348 to R367) -/

/-- A tenant switch that is committed (R350). -/
structure Switch where
  mode   : Nat
  at_    : Nat
  tenant : Nat
  plots  : Nat
  shards : Bytes
  deriving DecidableEq, Repr

/-- A scrub (R351 to R353): its mode, its first step, and for ON_CHIP and EXTERNAL: 0 = runs, 1 = runs again after a failure,
2 = passed, 3 = not part of the mode, 4 = failed twice. -/
structure Scrub where
  mode  : Nat
  start : Nat
  chip  : Nat
  ext   : Nat
  deriving DecidableEq, Repr

/-- A partition (R350, R351): the switch that waits, the scrub that runs, whether a switch record without its scrub is durable,
and the generation of its namespace key. -/
structure PartSt where
  next  : Option Switch
  scrub : Option Scrub
  owed  : Option Nat
  key   : Nat
  deriving DecidableEq, Repr

/-- A report that is asked for (R360): its source, NONCE, PARTITION, the step of the commit, and its body as the state in force at the
boundary after gives it (empty before). -/
structure AttReq where
  src   : Src
  nonce : Bytes
  part  : Nat
  at_   : Nat
  body  : Bytes
  deriving DecidableEq, Repr

/-- Keys, firmware and leaf indices (R354 to R364): RESERVED_TO, the management key, the generation of the encapsulation key,
the reports to sign, the running security versions, the running bank, the images written to the banks by 4 × bank + component, and
whether the other bank becomes active at the next reset. -/
structure SecSt where
  leafTo  : Nat
  mgmt    : Option Bytes
  kemGen  : Nat
  atts    : List AttReq
  svn     : List Nat
  bank    : Nat
  staged  : List (Nat × Bytes)
  swap    : Bool
  deriving DecidableEq, Repr

/-! ### Power (R369 to R385, R403 to R405) -/

/-- What the node is doing: without power or before stage 0, running, halted in the boot ROM or after stage 2 (R380), held until
REFCLK is valid (R375), held in reset after a flush. -/
inductive Boot where
  | off | running | romHalt | halt | waitClock | reset
  deriving DecidableEq, Repr

/-- Power and bring-up: the phase, the input powers of the last 64 steps, the steps of the last demand and of the present run
below the release limits, the clamp with the steps below THROTTLE, the core voltages in units of 0.1 mV, the step of the last capacitance
test, whether a failed recovery left flash read-only (R381), PWR_GOOD and FLUSH_N, the termination strap, and the extended
test that runs with its last step. -/
structure PwrSt where
  boot    : Boot
  pin     : List Nat
  demand  : Nat
  calm    : Nat
  clamp   : Bool
  cool    : Nat
  vcore   : List (Nat × Nat)
  capAt   : Nat
  short   : Bool
  good    : Bool
  flushN  : Bool
  term    : Bool
  test    : Option (Nat × Nat)
  deriving DecidableEq, Repr

/-! ### The whole state -/

/-- The state of the node.  `freeCtr` is the model's own: it picks the next free value of `Config.freeNat`. -/
structure State where
  pending : List Instr
  step    : StepSt
  node    : NodeSt
  dict    : DictSt
  ev      : EvSt
  mem     : List (Nat × Byte)
  rings   : List (Nat × Ring)
  ledger  : LedgerSt
  shards  : List (Nat × Shard)
  log     : LogSt
  flash   : FlashSt
  tier    : TierSt
  codebooks : List Codebook
  models  : List (Nat × ModelSlot)
  caches  : List (Nat × Cache)
  nextCache : Nat
  arrays  : List (Nat × TArr)
  embs    : List (Nat × EmbTab)
  embWinAt : Nat
  tills   : List (Nat × TGroup)
  queues  : List (Nat × QSt)
  tx      : List TxItem
  sent    : List TxItem
  qps     : List (Nat × QPair)
  hedge   : List (Nat × HPort)
  eth     : List (Nat × EPort)
  traf    : List (Nat × TPort)
  sec     : SecSt
  parts   : List (Nat × PartSt)
  pwr     : PwrSt
  resp    : RdmaResp
  freeCtr : Nat
  deriving DecidableEq, Repr

/-- A Hedge port, an Ethernet port, a traffic port and a partition of which nothing is listed. -/
def HPort.reset : HPort :=
  { spare := none, failed := none, tries := 0, triedAt := none, recTries := 0, recAt := none, rtt := 0, key := none, txFsn := 0, rxFsn := 0, gap := false, replay := [],
    halves := [], ctl := [], sealTx := List.replicate 8 0, sealRx := List.replicate 8 0, downAt := 0 }
def EPort.reset : EPort := { downAt := none, movedTo := none, paused := [], inQ := [], xoff := 0, pfcSent := [], dropped := 0 }
def TPort.reset : TPort :=
  { shapers := List.replicate 8 0, credit := List.replicate 8 0, depth := List.replicate 8 0, waited := List.replicate 8 0 }
def PartSt.reset : PartSt := { next := none, scrub := none, owed := none, key := 0 }

def StepSt.reset : StepSt :=
  { number := 0, running := false, held := false, limit := false, sequencer := 0, tier := 0, planTier := 0, admTier := 0, wantTier := none,
    tierAt := 0, stretch := false, noAdmit := false, demand := none, spill := 0, retries := [], agenda := [], open_ := false,
    plan := none, activated := 0, staged := none, armed := false, draining := false, seedling := false, used := [],
    movers := [] }

def NodeSt.reset : NodeSt :=
  { plots := 0, tillers := 0, gates := 0, bars := 15, strings := 65535, gateStrings := 15, handDie := 0, handAlive := true,
    altStarting := false, g0Lost := false, nearOut := 0, farOut := 0, retired := 0, restart := 0,
    faults := [] }

def DictSt.reset : DictSt :=
  { committed := [], active := [], live := [], pub := [], claims := [], store := [], sets := [], xfers := [], lastTxn := [],
    lastResp := [], resp := [], sent := [], commits := [], results := [], lastSeq := [], expired := [] }

def EvSt.reset : EvSt :=
  { ring := [], records := 0, produced := 0, consumed := 0, lost := 0, lostRun := 0, raised := [], boot := [],
    notices := 0, runs := [] }

def LedgerSt.reset : LedgerSt :=
  { fars := [], stubs := [], works := [], copies := [], losses := [], replays := [], rootQ := [], audits := [], published := [],
    subQ := [], subSeen := [], swept := [], lens := [] }

def FlashSt.reset : FlashSt :=
  { dies := [], chans := 0, units := [], map := [], pend := [], journal := [], jpages := [], ckptNext := 0, ckpt := [], sys := [],
    extents := [], logPages := [], due := [], writeSeq := 0, logSeq := 0, verified := 0, flushUs := 0, flushRec := none, format := 0,
    warned := 0 }

def TierSt.reset : TierSt :=
  { alloc := [], counts := [], frames := [], demote := [], promos := [], wrote := [], copied := [], winAt := 0, rowCe := [],
    repairs := [], rebuild := [], planBad := 0, outQ := [], scrubAt := 0, bmaps := [],
    landing := [], lent := [], places := [], tm := [] }

def LogSt.reset : LogSt := { recs := [], dirty := 0, nextSeq := 0, full := false }

def SecSt.reset : SecSt :=
  { leafTo := 0, mgmt := none, kemGen := 0, atts := [], svn := [0, 0, 0, 0], bank := 0, staged := [], swap := false }

def PwrSt.reset : PwrSt :=
  { boot := .off, pin := [], demand := 0, calm := 0, clamp := false, cool := 0, vcore := [], capAt := 0, short := false,
    good := false, flushN := true, term := false, test := none }

/-- The machine right after reset, before the lock-out releases (stage 0 of R378): nothing is in service, every entry of the
dictionary reads its default, Step Number 0 has not begun, and no command waits. -/
def State.reset : State :=
  { pending := [], step := .reset, node := .reset, dict := .reset, ev := .reset, mem := [], rings := [], ledger := .reset,
    shards := [], log := .reset, flash := .reset, tier := .reset, codebooks := [], models := [], caches := [], nextCache := 0,
    arrays := [], embs := [], embWinAt := 0, tills := [], queues := [], tx := [], sent := [], qps := [], hedge := [], eth := [],
    traf := [], sec := .reset, parts := [], pwr := .reset, resp := .none, freeCtr := 0 }

end Sys2Proof.Machine
end

