-- ==== Sys2Proof/Machine/SearchCore.lean ====
section
/-! DEFINITION. The search pipeline's arithmetic and orders, over plain data: tables (R78), quantisation (R79), walks
(R82), scans (R83), filters (R73), exact distances, keys and selection (R95 to R98), duplicates (R101). -/

namespace Sys2Proof.Machine

/-! ### Query preparation and tables -/

/-- The sum of FP32 values in ascending index, one rounding per addition (R77). -/
def f32sum : List Nat → Nat
  | [] => 0
  | a :: l => l.foldl f32add a

/-- The vector of a cosine shard (R77). -/
def normalise (x : List Nat) : List Nat :=
  let xs := x.map f16to32
  let nn := f32sum (xs.map fun a => f32mul a a)
  if fvIsZero (fdec fp32 nn) then x
  else
    let r := f32div f32one (f32sqrt nn)
    xs.map fun a => f32to16 (f32mul a r)

/-- The FP16 table of one codebook, in (subspace, centroid) order (R78). -/
def distTable (metric dim m bits : Nat) (cb : Bytes) (x : List Nat) : List Nat :=
  let d := dim / m
  let k := centroids bits
  (List.range m).flatMap fun s => (List.range k).map fun c =>
    let terms := (List.range d).map fun j =>
      let u := f16to32 (x.getD (s * d + j) 0)
      let w := f16to32 (u16 cb (2 * ((s * k + c) * d + j)))
      if metric = 1 then (let e := f32sub u w; f32mul e e) else f32mul u w
    let t := f32sum terms
    f32to16 (if metric = 1 then t else f32neg t)

/-- The scale that quantises all of a shard's tables (R78): the minimum and sigma, or none where sigma is 0. -/
def tableScale (entries : List Nat) : Option (Nat × Nat) :=
  let vs := entries.map f16to32
  if vs.any f32isNan then none else
  match vs with
  | [] => none
  | v :: rest =>
    let lo := rest.foldl (fun a b => if f32lt b a then b else a) v
    let hi := rest.foldl (fun a b => if f32lt a b then b else a) v
    let r := f32sub hi lo
    if fvIsZero (fdec fp32 r) || !fvFinite (fdec fp32 r) then none
    else some (lo, f32div (natTo32 65535) r)

def quantEntry (sc : Option (Nat × Nat)) (t : Nat) : Nat :=
  match sc with
  | none => 0
  | some (lo, sigma) =>
    match fvRound (fdec fp32 (f32mul (f32sub (f16to32 t) lo) sigma)) with
    | some i => min 65535 i.toNat
    | none => 65535

/-- The quantised tables of a shard, one per distinct codebook (R78). -/
def buildTables (metric dim m bits : Nat) (cbs : List (Bytes × Bytes)) (x : List Nat) : List QTab :=
  let ts := cbs.map fun c => (c.1, distTable metric dim m bits c.2 x)
  let sc := tableScale (ts.flatMap (·.2))
  ts.map fun t => ⟨t.1, t.2.map (quantEntry sc), (t.2.map (quantEntry sc)).map (· % 255)⟩

/-- PQ distance: the sum over ascending subspaces, in UINT32 (R44, R78). -/
def pqDist (tab : List Nat) (bits : Nat) (code : Bytes) : Nat :=
  (((codeIndices bits code).zipIdx).foldl (fun a e => a + tab.getD (e.2 * centroids bits + e.1) 0) 0) % 2 ^ 32

/-- The shadow sum of a code: its stored residues, summed modulo 255 (R122). -/
def pqShadow (res : List Nat) (bits : Nat) (code : Bytes) : Nat :=
  ((codeIndices bits code).zipIdx).foldl (fun a e => (a + res.getD (e.2 * centroids bits + e.1) 0) % 255) 0

/-- Whether the shadow sum of a code agrees with its distance (R122). -/
def shadowOk (tab res : List Nat) (bits : Nat) (code : Bytes) : Bool := pqDist tab bits code % 255 == pqShadow res bits code

/-- q and the scale used (R79). -/
def quantQuery (qScale : Nat) (x : List Nat) : List Int × Nat :=
  let xs := x.map f16to32
  let a := f32div ((xs.map f32abs).foldl (fun m v => if f32lt m v then v else m) 0) (natTo32 127)
  let zero := fvIsZero (fdec fp32 qScale)
  if zero ∧ fvIsZero (fdec fp32 a) then (x.map fun _ => 0, a)
  else
    let sc := if zero then a else qScale
    (xs.map fun v => match fdec fp32 (f32div v sc) with
      | .nan => max (-127) (min 127 (Config.roundOpen v sc))
      | .inf s => if s then -127 else 127
      | w => max (-127) (min 127 ((fvRound w).getD 0)), sc)

/-- INT8 components of stored bytes. -/
def int8s (b : Bytes) : List Int := b.map (·.toInt)

def dotInt (a b : List Int) : Int := (a.zip b).foldl (fun s p => s + p.1 * p.2) 0

/-- The sum of squares of INT8 components (R59). -/
def sumsqOf (v : List Int) : Nat := (dotInt v v).toNat

/-- EXACT_DIST (R79). -/
def exactDist (metric : Nat) (q v : List Int) (sumsq : Nat) : Int :=
  let dot := dotInt q v
  if metric = 1 then dotInt q q - 2 * dot + sumsq else -dot

/-- The residue of the check lane (R121). -/
def residue (metric : Nat) (q v : List Int) : Nat :=
  let rd := (dotInt q v).emod 65521
  if metric = 1 then ((dotInt q q).emod 65521 - 2 * rd + (dotInt v v).emod 65521).emod 65521 |>.toNat
  else ((-rd).emod 65521).toNat

/-! ### Filters and visibility -/

/-- Whether a record satisfies one term of 16 bytes (R73). -/
def termHolds (t attr : Bytes) : Bool :=
  let f := u8 t 0
  let op := u8 t 1
  if f ≤ 3 then
    let vals := ((List.range 6).map fun k => u16 t (4 + 2 * k)).filter (· != 0xFFFF)
    let tag := attrTag attr f
    let inn := tag != 0xFFFF && vals.contains tag
    if op = 0 then inn else !inn
  else if f ≤ 5 then
    let v := sInt 32 (u32 attr (8 + 4 * (f - 4)))
    decide (sInt 32 (u32 t 4) ≤ v) && decide (v ≤ sInt 32 (u32 t 8))
  else
    let a := (u64 attr 16) &&& (u64 t 4)
    if op = 3 then a == u64 t 4 else if op = 4 then a != 0 else a == 0

/-- Whether a term is well formed (R73). -/
def termOk (t : Bytes) : Bool :=
  let f := u8 t 0
  let op := u8 t 1
  if f ≤ 3 then (op == 0 || op == 1) && ((List.range 6).any fun k => u16 t (4 + 2 * k) != 0xFFFF)
  else if f ≤ 5 then op == 2 && decide (sInt 32 (u32 t 4) ≤ sInt 32 (u32 t 8))
  else f == 6 && (op == 3 || op == 4 || op == 5)

/-- The terms in use of a parameter block (R72). -/
def paramTerms (p : Bytes) : List Bytes := (List.range (u8 p 17)).map fun k => sl p (32 + 16 * k) 16

/-- Whether the values of a TAG term all have bitmaps in the segment (R86). -/
def termCovered (img t : Bytes) : Bool :=
  decide (u8 t 0 ≤ 3) &&
  (((List.range 6).map fun k => u16 t (4 + 2 * k)).filter (· != 0xFFFF)).all fun v =>
    (segBitmapDir img).any fun e => e.1 == u8 t 0 && e.2.1 == v

/-- The result bit of the covered terms at an offset, from the bitmaps (R87). -/
def bitmapTerm (img t : Bytes) (o : Nat) : Bool :=
  let hit := (((List.range 6).map fun k => u16 t (4 + 2 * k)).filter (· != 0xFFFF)).any fun v =>
    (segBitmapDir img).any fun e => e.1 == u8 t 0 && e.2.1 == v && bitmapBit img e.2.2.2 o
  if u8 t 1 = 0 then hit else !hit

/-- The estimate E of a segment and whether it has a covered term (R88). -/
def estimate (img : Bytes) (terms : List Bytes) : Option Nat :=
  let es := (terms.filter (termCovered img)).map fun t =>
    let s := sumNat ((((List.range 6).map fun k => u16 t (4 + 2 * k)).filter (· != 0xFFFF)).map fun v =>
      sumNat (((segBitmapDir img).filter fun e => e.1 == u8 t 0 && e.2.1 == v).map fun e => e.2.2.1))
    if u8 t 1 = 0 then s else segVc img - s
  match es with
  | [] => none
  | e :: rest => some (rest.foldl min e)

/-- Whether a segment is enumerated (R88). -/
def enumerated (strategy enumMax : Nat) (img : Bytes) (terms : List Bytes) : Bool :=
  match estimate img terms with
  | none => false
  | some e => strategy == 2 || (strategy == 0 && decide (e ≤ enumMax))

/-! ### Shares and visits (R81 to R84) -/

/-- The effective budget and each segment's share, in ascending segment order (R81). -/
def shares (budget : Nat) (vcs : List Nat) : Nat × List Nat :=
  let base := vcs.map fun v => min v 64
  let b := max budget (sumNat base)
  let w := vcs.map fun v => v - min v 64
  let rest := b - sumNat base
  if sumNat w = 0 then (b, base) else
  let s := (base.zip w).map fun p => p.1 + rest * p.2 / sumNat w
  let left := b - sumNat s
  (b, (s.zipIdx).map fun e => if e.2 < left then e.1 + 1 else e.1)

/-- What a segment search reads of its segment: the image, its table, and for each offset whether it is invisible and
whether it fails the filter. -/
structure SegView where
  img  : Bytes
  tab  : List Nat
  res  : List Nat
  inv  : Nat → Bool
  filt : Nat → Bool

def SegView.dist (v : SegView) (o : Nat) : Nat := pqDist v.tab (segBits v.img) (segCode v.img o)
def SegView.visit (v : SegView) (o : Nat) (pruned : Bool) : Visit :=
  ⟨mkHandle (segNumber v.img) o, v.filt o, v.inv o, pruned, false, v.dist o⟩

def pairLt (a b : Nat × Nat) : Bool := decide (a.1 < b.1) || (a.1 == b.1 && decide (a.2 < b.2))

/-- visit(o) of R82; the number of visits is the number of offsets seen. -/
def walkVisit (v : SegView) (share L : Nat) (st : Walk) (o : Nat) : Walk :=
  if st.done || (st.seen.any fun e => e.1 == o) then st
  else if st.seen.length = share then { st with done := true }
  else
    let d := v.dist o
    let last := (st.queue.getLast?.map fun e => (e.1, e.2.1)).getD (0, 0)
    let pruned := st.queue.length == L && pairLt last (d, o)
    let q := if pruned then st.queue else
      (insertBy (fun a b => pairLt (a.1, a.2.1) (b.1, b.2.1)) (d, o, true) st.queue).take L
    { st with queue := q, seen := st.seen ++ [(o, d)], recs := v.visit o pruned :: st.recs }

def seenDist (st : Walk) (o : Nat) : Option Nat := (st.seen.find? fun e => e.1 == o).map (·.2)

/-- A walk that begins: it visits the hub at which the segment is entered (R82). -/
def walkStart (v : SegView) (share L : Nat) : Walk :=
  let h := segEntry v.img
  walkVisit v share L ⟨segNumber v.img, [], [], 0, some h, false, false, []⟩ (hubOffset v.img h)

/-- One turn of the hub phase's loop at hub `h`: greedy descent (R82). -/
def walkHub (v : SegView) (share L h : Nat) (st : Walk) : Walk :=
  let r := (hubNeighbours v.img h).foldl (fun (p : Walk × Nat) n =>
    let s := walkVisit v share L p.1 (hubOffset v.img n)
    if s.done then (s, p.2) else
    match seenDist s (hubOffset v.img n), seenDist s (hubOffset v.img p.2) with
    | some dn, some db =>
      if pairLt (dn, hubOffset v.img n) (db, hubOffset v.img p.2) then (s, n) else (s, p.2)
    | _, _ => (s, p.2)) ({ st with hops := st.hops + 1 }, h)
  { r.1 with hub := if r.2 = h then none else some r.2 }

/-- One turn of the base phase's loop at the first open entry: best-first over the base graph (R82). -/
def walkBase (v : SegView) (share L : Nat) (e : Nat × Nat × Bool) (st : Walk) : Walk :=
  let q := st.queue.map fun x => if x.2.1 = e.2.1 then (x.1, x.2.1, false) else x
  (baseNeighbours v.img e.2.1).foldl (walkVisit v share L) { st with queue := q, hops := st.hops + 1 }

/-- One hop of a walk (R82): a walk that needs a hop beyond its limit is exhausted, one without an open entry has converged. -/
def walkHop (v : SegView) (share L H : Nat) (st : Walk) : Walk :=
  if st.done || st.ended then st else
  match st.hub with
  | some h => if st.hops = H then { st with done := true } else walkHub v share L h st
  | none => match st.queue.find? fun e => e.2.2 with
    | none => { st with ended := true }
    | some e => if st.hops = H then { st with done := true } else walkBase v share L e st

/-- The hops that a step's slots hold: the walk goes on where it stopped (R85). -/
def walkHops (v : SegView) (share L H : Nat) : Nat → Walk → Walk
  | 0, st => st
  | n + 1, st => walkHops v share L H n (walkHop v share L H st)

/-- A full scan (R83). -/
def segScan (v : SegView) : List Visit := (List.range (segVc v.img)).map fun o => v.visit o false

/-- The result row pair of a segment's covered terms over all its offsets (R87): each IN term the OR of its values' TRUE rows, each
NOT_IN term the complement of that OR, and the terms ANDed together. -/
def resultRows (img : Bytes) (terms : List Bytes) : Bytes × Bytes :=
  let hit := fun (o : Nat) => (terms.filter (termCovered img)).all fun t => bitmapTerm img t o
  (bitmapOf (segVc img) hit, bitmapOf (segVc img) fun o => !hit o)

/-- Enumeration (R88): every offset whose result bit is 1, in ascending order; FILTERED only for terms that are not covered. -/
def segEnum (v : SegView) (terms : List Bytes) (row : Bytes) : List Visit :=
  ((List.range (segVc v.img)).filter fun o => bitAt row o).map fun o => { v.visit o false with
    filtered := (terms.filter fun t => !termCovered v.img t).any fun t => !termHolds t (segAttr v.img o) }

/-! ### Keys and selection (R95 to R98) -/

/-- An order key (R95) of a primary, a shard position and a handle. -/
def orderKey (primary pos handle : Nat) : Nat := primary * 2 ^ 64 + pos * 2 ^ 40 + handle
/-- EXACT_DIST as the primary of a key (R95). -/
def exactPrimary (d : Int) : Nat := (ofSInt 32 d) ^^^ 0x80000000

/-- The digits of a pass: the bytes of the key, without its reserved bits (R97). -/
def winnowShifts : List Nat := [88, 80, 72, 64, 40, 32, 24, 16, 8, 0]

/-- The boundary bucket: the first bucket, from `b` on, with which the keys counted reach `need` (R97). -/
def winnowBoundary (cand : List Nat) (sh need : Nat) : Nat → Nat → Nat → Nat
  | 0, b, _ => b
  | fuel + 1, b, below =>
    let c := (cand.filter fun x => x / 2 ^ sh % 256 == b).length
    if need ≤ below + c then b else winnowBoundary cand sh need fuel (b + 1) (below + c)

/-- The rounds of a bucket pass (R97); after the last digit the boundary bucket holds one key. -/
def winnowRounds : List Nat → List Nat → List Nat → Nat → List Nat
  | [], cand, out, need => if cand.length ≤ need then out ++ cand else out
  | sh :: rest, cand, out, need =>
    if need = 0 then out
    else if cand.length ≤ need then out ++ cand
    else
      let b := winnowBoundary cand sh need 255 0 0
      let low := cand.filter fun x => decide (x / 2 ^ sh % 256 < b)
      winnowRounds rest (cand.filter fun x => x / 2 ^ sh % 256 == b) (out ++ low) (need - low.length)

/-- One bucket pass over the keys above the threshold, if there is one (R97). -/
def winnowPass (keys : List Nat) (k : Nat) (t : Option Nat) : List Nat :=
  sortBy (fun a b => decide (a < b))
    (winnowRounds winnowShifts (keys.filter fun x => match t with | none => true | some t => decide (t < x)) [] k)

/-- A selection of `k` keys in passes of at most 64 (R98). -/
def winnowSelect (keys : List Nat) : Nat → Nat → Option Nat → List Nat
  | 0, _, _ => []
  | fuel + 1, k, t =>
    if k = 0 then [] else
    let out := winnowPass keys (min 64 k) t
    if out.length < min 64 k then out else out ++ winnowSelect keys fuel (k - 64) out.getLast?

/-- One pass of a selection in progress (R98): the keys returned so far, and whether the selection stops here.  `k` is not cut to the number
of inputs (log 199). -/
def selectPass (keys got : List Nat) (k : Nat) : List Nat × Bool :=
  let n := min 64 (k - got.length)
  let out := winnowPass keys n got.getLast?
  (got ++ out, decide (out.length < n) || decide (k ≤ got.length + out.length))

/-- The number of passes of a whole selection of `k` from `n` keys (R98). -/
def winnowPasses (n k : Nat) : Nat := max 1 (min (ceilDiv k 64) (n / 64 + 1))

/-- The records of a list that keys name, in the order of the keys. -/
def recordsOf {α : Type} (key : α → Nat) (l : List α) (ks : List Nat) : List α := ks.filterMap fun x => l.find? fun r => key r == x

/-- The records of a list whose keys a whole selection gives, in key order. -/
def selectBy {α : Type} (key : α → Nat) (l : List α) (k : Nat) : List α :=
  recordsOf key l (winnowSelect (l.map key) (ceilDiv k 64) k none)

/-! ### Duplicates (R101, R102) -/

/-- The order of R101: distance, logical plot, node index, shard position, handle. -/
def dupKey (pos node : Nat → Nat) (c : Cand) : Nat :=
  ((((exactPrimary c.exact) * 16 + handleSeg c.handle % 16) * 64 + node c.shard) * 256 + pos c.shard) * 2 ^ 40 + c.handle

/-- One record per EXTERNAL_ID, the least in that order, marked where a copy was discarded. -/
def removeDups (pos node : Nat → Nat) (l : List Cand) : List Cand :=
  let s := sortBy (fun a b => decide (dupKey pos node a < dupKey pos node b)) l
  (dedupBy (·.ext) [] s).map fun c => { c with dup := c.dup || decide (1 < (l.filter fun d => d.ext == c.ext).length) }

/-! ### Records and messages (R45, R46, R103 to R105) -/

/-- A result record (R103). -/
def resultRecord (widened : Bool) (rank : Nat) (c : Cand) : Bytes :=
  leBytes 8 c.ext ++ leBytes 4 c.shard ++ leBytes 5 c.handle ++
  leBytes 1 ((if c.delta then 2 else 0) + (if c.dup then 4 else 0) + (if widened then 8 else 0)) ++
  leBytes 2 rank ++ leBytes 4 (ofSInt 32 c.exact) ++ leBytes 4 c.pq ++ leBytes 4 c.scale

/-- A sentinel record (R104). -/
def sentinelRecord (rank : Nat) : Bytes :=
  List.replicate 17 0xFF ++ [0x01] ++ leBytes 2 rank ++ leBytes 4 0x7FFFFFFF ++ leBytes 4 0xFFFFFFFF ++ zeros 4

/-- The K records of a completion (R104). -/
def resultRecords (widened : Bool) (k : Nat) (l : List Cand) : Bytes :=
  ((l.zipIdx).flatMap fun e => resultRecord widened e.2 e.1) ++
  (List.range (k - l.length)).flatMap fun j => sentinelRecord (l.length + j)

def visitRecord (idx : Nat) (v : Visit) : Bytes :=
  leBytes 4 idx ++ leBytes 5 v.handle ++
  leBytes 1 ((if v.filtered then 1 else 0) + (if v.invisible then 2 else 0) + (if v.pruned then 4 else 0) +
    (if v.delta then 8 else 0)) ++ zeros 2 ++ leBytes 4 v.dist

/-- What a shard replay message takes besides its visits and candidates. -/
structure ReplayHead where
  query  : Bytes
  params : Bytes
  plan   : Bytes
  cbs    : Bytes
  model  : Bytes

/-- The shard replay message (R45). -/
def shardMessage (h : ReplayHead) (w : ShardWork) (visits : List Visit) (cands : List Cand) : Bytes :=
  ascii "OC4-REPLAY-SHARD" ++ featureLevel ++ leBytes 4 w.id ++ leBytes 4 w.epoch ++ leBytes 8 w.usn ++
  digest h.query ++ digest h.params ++ padTo 32 h.plan ++ digest h.cbs ++ padTo 32 h.model ++
  leBytes 4 visits.length ++ leBytes 4 cands.length ++ ((visits.zipIdx).flatMap fun e => visitRecord e.2 e.1) ++
  (cands.flatMap fun c => leBytes 5 c.handle ++ zeros 3 ++ leBytes 4 c.pq ++ leBytes 4 (ofSInt 32 c.exact)) ++
  leBytes 2 w.status ++ zeros 2 ++ leBytes 4 w.visited ++ leBytes 4 w.filtered ++ leBytes 4 w.pruned

/-- The merge message (R46). -/
def mergeMessage (query params : Bytes) (status : Nat) (digests : List Bytes) (final : List Cand) : Bytes :=
  ascii "OC4-REPLAY-MERGE" ++ featureLevel ++ digest query ++ digest params ++ leBytes 2 digests.length ++
  leBytes 2 final.length ++ leBytes 2 status ++ zeros 2 ++ digests.flatMap (padTo 32) ++
  final.flatMap fun c => leBytes 8 c.ext ++ leBytes 4 c.shard ++ leBytes 4 (ofSInt 32 c.exact)

/-- A shard list between nodes (R105, R108). -/
def shardListBytes (w : ShardWork) (node tag : Nat) (widened : Bool) : Bytes :=
  ascii "OWPL" ++ leBytes 2 w.result.length ++ leBytes 1 node ++ [0xFF] ++ leBytes 4 w.id ++ leBytes 2 w.status ++
  leBytes 2 (if widened then 2 else 0) ++ leBytes 8 tag ++ leBytes 4 w.visited ++ leBytes 4 w.filtered ++
  leBytes 4 w.pruned ++ zeros 28 ++ padTo 32 w.digest ++ (w.result.zipIdx).flatMap fun e => resultRecord widened e.2 e.1

/-- A plot list, within the node (R105): the records of a plot's rerank selection, whose EXACT_DIST is 0. -/
def plotListBytes (w : ShardWork) (node plot tag : Nat) (widened : Bool) (recs : List Cand) : Bytes :=
  ascii "OWPL" ++ leBytes 2 recs.length ++ leBytes 1 node ++ leBytes 1 plot ++ leBytes 4 w.id ++ zeros 2 ++
  leBytes 2 (if widened then 3 else 1) ++ leBytes 8 tag ++ zeros 72 ++ (recs.zipIdx).flatMap fun e => resultRecord widened e.2 e.1

/-- The records of a received list. -/
def parseRecords (b : Bytes) : List Cand :=
  (splitAll 32 b).map fun r =>
    { ext := u64 r 0, shard := u32 r 8, handle := u40 r 12, pq := u32 r 24, exact := sInt 32 (u32 r 20),
      scale := u32 r 28, delta := bit (u8 r 17) 1, dup := bit (u8 r 17) 2, resid := 0 }

/-! ### Statuses (R161, R162) -/

/-- The final status and CONDITIONS from (code, phase) inputs in Stamp order (R162). -/
def finalStatus (conds : List (Nat × Nat)) : Nat × Nat :=
  let top := maxNat (conds.map (·.1))
  let ph := ((conds.find? fun c => c.1 == top).map (·.2)).getD 0
  (ph * 256 + top, (List.range 16).foldl (fun a c => if decide (1 ≤ c) && decide (c ≤ 10) && conds.any (·.1 == c) then a + 2 ^ c else a) 0)

/-- A status of a code and a phase (R161). -/
def mkStatus (code phase : Nat) : Nat := phase * 256 + code

/-! ### Certificates (R111 to R116) -/

/-- The tag under a session key, 32 zero bytes where there is none (R116). -/
def tagOf (key : Option Bytes) (b : Bytes) (custom : String) : Bytes :=
  match key with
  | none => zeros 32
  | some k => kmac256 k b 32 custom

def pathBytes (p : List (Bool × Bytes)) : Bytes := p.flatMap fun s => padTo 32 s.2

/-- A page proof of role `role` (R114). -/
def pageProof (image : Bytes) (page role : Nat) : Bytes :=
  let leaves := pageLeaves image
  let p := inclPath leaves page
  leBytes 4 page ++ leBytes 1 role ++ leBytes 1 p.length ++ zeros 2 ++ leBytes 4 (pathSides p) ++ zeros 4 ++
  padTo 32 (leaves.getD page []) ++ pathBytes p

/-- The sealed proof block of an offset (R113). -/
def sealedProof (image root : Bytes) (leaves : List Bytes) (idx off level : Nat) : Bytes :=
  let p := inclPath leaves idx
  let idPage := (segSecAt image 1 + 8 * off) / 16384
  let v0 := segSecAt image 11 + recordBytes (segDim image) * off
  let p2 := v0 / 16384
  let p3 := (v0 + recordBytes (segDim image) - 1) / 16384
  let proofs := if level = 0 then [] else
    [(0, 0), (idPage, 1), (p2, 2)] ++ (if p3 = p2 then [] else [(p3, 3)])
  padTo 32 root ++ leBytes 4 leaves.length ++ leBytes 4 idx ++ leBytes 4 (segPages image) ++ leBytes 1 p.length ++
  leBytes 1 proofs.length ++ zeros 2 ++ leBytes 4 (pathSides p) ++ zeros 12 ++ pathBytes p ++
  proofs.flatMap fun e => pageProof image e.1 e.2

/-- The delta proof block (R115). -/
def deltaProof (w u : Nat) (prior : Bytes) (leaves : List Bytes) : Bytes :=
  let p := inclPath leaves (leaves.length - 1)
  leBytes 8 w ++ leBytes 4 (u - w) ++ leBytes 4 leaves.length ++ leBytes 1 p.length ++ zeros 3 ++ leBytes 4 (pathSides p) ++
  zeros 8 ++ padTo 32 prior ++ pathBytes p

end Sys2Proof.Machine
end

