-- ==== Sys2Proof/Machine/Ops.lean ====
section
/-! DEFINITION. The shared operations of the node: reading and writing the dictionary, raising events (R17, R386 to R390,
R393), the rings' memory, free values. -/

namespace Sys2Proof.Machine

/-! ### The dictionary -/

/-- The default of an entry. -/
def dictDefault (idx sub : Nat) : Bytes := ((dictRow idx sub).map (·.dflt)).getD []

/-- The committed value of an entry (R323). -/
def State.com (s : State) (idx sub : Nat) : Bytes := (mget s.dict.committed (dkey idx sub)).getD (dictDefault idx sub)
def State.comN (s : State) (idx sub : Nat) : Nat := leNat (s.com idx sub)

/-- The value in force (R333). -/
def State.act (s : State) (idx sub : Nat) : Bytes := (mget s.dict.active (dkey idx sub)).getD (dictDefault idx sub)
def State.actN (s : State) (idx sub : Nat) : Nat := leNat (s.act idx sub)

/-- The node's own value of an entry, as it runs. -/
def State.live (s : State) (idx sub : Nat) : Bytes := (mget s.dict.live (dkey idx sub)).getD (dictDefault idx sub)
def State.liveN (s : State) (idx sub : Nat) : Nat := leNat (s.live idx sub)

/-- Set a value of the node's own. -/
def State.setLive (s : State) (idx sub : Nat) (v : Bytes) : State :=
  { s with dict := { s.dict with live := mput s.dict.live (dkey idx sub) v } }

/-- Set the value in force. -/
def State.setAct (s : State) (idx sub : Nat) (v : Bytes) : State :=
  { s with dict := { s.dict with active := mput s.dict.active (dkey idx sub) v } }

/-- Set a numeric value of the node's own, in the entry's size. -/
def State.setN (s : State) (idx sub v : Nat) : State := s.setLive idx sub (leBytes (dictDefault idx sub).length v)

/-- Add to a counter. -/
def State.bump (s : State) (idx sub n : Nat) : State := s.setN idx sub (s.liveN idx sub + n)

/-- Add to a counter what there is to add. -/
def State.countUp (s : State) (idx sub n : Nat) : State := if n = 0 then s else s.bump idx sub n

/-- Whether a grant of 0x2110 is held (R339). -/
def State.grant (s : State) (g : Nat) : Bool := s.comN 0x2110 g == 1

/-- Count one exercise of a grant (R339). -/
def State.useGrant (s : State) (g : Nat) : State := s.bump 0x2111 g 1

/-! ### Places and agents (R17) -/

def locField : Nat := 0
def locPlot (p : Nat) : Nat := 2 * 2 ^ 29 + (p / 4 % 4) * 2 ^ 27 + (p % 16) * 2 ^ 23
def locRow (p ty i : Nat) : Nat := 3 * 2 ^ 29 + (p / 4 % 4) * 2 ^ 27 + (p % 16) * 2 ^ 23 + (ty % 16) * 2 ^ 19 + (i % 64) * 2 ^ 13
def locLane (p ty i l : Nat) : Nat :=
  4 * 2 ^ 29 + (p / 4 % 4) * 2 ^ 27 + (p % 16) * 2 ^ 23 + (ty % 16) * 2 ^ 19 + (i % 64) * 2 ^ 13 + (l % 256) * 2 ^ 5
def locGate (g : Nat) : Nat := 5 * 2 ^ 29 + (g % 4) * 2 ^ 27
def locUnit (g ty i l : Nat) : Nat :=
  6 * 2 ^ 29 + (g % 4) * 2 ^ 27 + (ty % 16) * 2 ^ 19 + (i % 64) * 2 ^ 13 + (l % 256) * 2 ^ 5
/-- The places of a Hedge port, an Ethernet port and a flash channel with a die. -/
def locHedge (p : Nat) : Nat := locUnit (p / 4) 1 (p % 4) 0
def locHedgeLane (p l : Nat) : Nat := locUnit (p / 4) 1 (p % 4) l
def locEth (e : Nat) : Nat := locUnit e 2 0 0
def locFlash (c d : Nat) : Nat := locUnit (c / 8) 3 (c % 8) d
def locHand (s : State) : Nat := locUnit s.node.handDie 4 0 0

def locScope (loc : Nat) : Nat := bitsOf loc 31 29
def locPlotOf (loc : Nat) : Nat := bitsOf loc 26 23
def locGateOf (loc : Nat) : Nat := bitsOf loc 28 27

/-- The place as reported: what a lost plot String would have reported is raised with scope 2 (R18). -/
def State.evLoc (s : State) (loc : Nat) : Nat :=
  if 2 ≤ locScope loc ∧ locScope loc ≤ 4 ∧ ¬ bit s.node.strings (locPlotOf loc) then locPlot (locPlotOf loc) else loc

/-- The control path of the agent that reports a place (R16, R17, R18): the String of the plot or Gate die, its Bar where
the String is lost, and the Hand for the Field. -/
def State.ctrlPath (s : State) (loc : Nat) : Nat :=
  let die := s.node.handDie / 2 * 2 ^ 13
  let scope := locScope loc
  if 2 ≤ scope ∧ scope ≤ 4 then
    let p := locPlotOf loc
    if bit s.node.strings p then 2 * 2 ^ 14 + die + (p % 4) * 2 ^ 11 + p * 2 ^ 6
    else if bit s.node.bars (p % 4) then 2 ^ 14 + die + (p % 4) * 2 ^ 11 else die
  else if scope = 5 ∨ scope = 6 then
    let g := locGateOf loc
    if bit s.node.gateStrings g then 2 * 2 ^ 14 + die + g * 2 ^ 11 + 2 ^ 10 + g * 2 ^ 6
    else if bit s.node.bars g then 2 ^ 14 + die + g * 2 ^ 11 else die
  else die

/-! ### Events -/

/-- The severity of a code (R392). -/
def severity (code : Nat) : Nat :=
  if [0x2002, 0x3020, 0x5002, 0x5003, 0x5030, 0x5047, 0x5048, 0x7034, 0x8002, 0x8005, 0x8011, 0x8021, 0x9010, 0x9011,
      0x9012, 0x9020, 0x9030, 0x9031, 0xA014, 0xA040, 0xA043, 0xA044, 0xB010, 0xC002, 0xC005, 0xC008].contains code then 1
  else if [0x1103, 0x1106, 0x3012, 0x3014, 0x3031, 0x3042, 0x3050, 0x3051, 0x3052, 0x3053, 0x3054, 0x3067, 0x3068,
      0x4015, 0x4016, 0x4018, 0x4032, 0x5010, 0x5011, 0x5014, 0x5044, 0x6012, 0x6014, 0x6017, 0x6020, 0x6021, 0x6022,
      0x6030, 0x7022, 0x7023, 0x7024, 0x7025, 0x8001, 0x8012, 0x8014, 0x8018, 0x9032, 0x9040, 0xC003, 0xC007].contains code then 2
  else if [0x1101, 0x1104, 0x3015, 0x3016, 0x3030, 0x3032, 0x3040, 0x3041, 0x3055, 0x4006, 0x4010, 0x4011, 0x4013, 0x4014,
      0x4017, 0x4030, 0x4031, 0x5024, 0x5045, 0x5046, 0x6004, 0x6016, 0x6024, 0x6025, 0x6031, 0x7013, 0x7020, 0x7021,
      0x8003, 0x8004, 0x8006, 0x8010, 0xA012, 0xA041, 0xC004].contains code then 4
  else if [0x1020, 0x1108, 0x1109, 0x3013, 0x3064, 0x3065, 0x3066, 0x3069, 0x4002, 0x4007, 0x4019, 0x5022, 0x5023, 0x5031,
      0x6010, 0x6013, 0x6015, 0x6026, 0x7010, 0x7011, 0x7026, 0x7030, 0x7031, 0x7033, 0x8007, 0x8013, 0x9002, 0x9013,
      0xA004, 0xA005, 0xA045, 0xB011, 0xC006].contains code then 5
  else if [0x1102, 0x1105, 0x1107, 0x7012, 0x7051, 0x9003, 0x9022, 0xA001, 0xA013, 0xA030, 0xA042, 0xC009].contains code then 6
  else 3

/-- The Step Number that a record carries (R386). -/
def State.evStep (s : State) : Nat := if s.step.running then s.step.number else 0xFFFFFFFFFFFF

/-- The record of an event, with the shard slot and USN it concerns, if any (R386). -/
def State.mkEv (s : State) (code loc : Nat) (usn : Option (Nat × Nat)) (detail : Nat) : EvRec :=
  { code := code, sev := severity code, poison := false, bootLog := false, usnValid := usn.isSome,
    slot := (usn.map (·.1)).getD 0, ctrl := s.ctrlPath loc, stepNo := s.evStep, loc := s.evLoc loc,
    usn := (usn.map (·.2)).getD 0, detail := detail % 2 ^ 64 }

/-- Raise an event that the agent of a control path reports: the record joins this step's records, or the boot log before stage 8
(R386, R390); its class is counted; and a record of severity DEGRADED or above that names a plot is scored against it (R393). -/
def State.evBy (s : State) (agent code loc : Nat) (usn : Option (Nat × Nat)) (detail : Nat) : State :=
  let r := { s.mkEv code loc usn detail with ctrl := agent }
  let ev := if s.step.running then { s.ev with raised := s.ev.raised ++ [r] } else { s.ev with boot := s.ev.boot ++ [r] }
  let node := if 4 ≤ r.sev ∧ 2 ≤ locScope loc ∧ locScope loc ≤ 4 then
      { s.node with faults := s.node.faults ++ [(s.step.number, locPlotOf loc, if code = 0xC004 then 4 else 1)] }
    else s.node
  ({ s with ev := ev, node := node }).bump 0xB011 (code / 4096) 1

/-- Raise an event that the agent supervising its place reports (R16, R17). -/
def State.evU (s : State) (code loc : Nat) (usn : Option (Nat × Nat)) (detail : Nat) : State :=
  s.evBy (s.ctrlPath loc) code loc usn detail

/-- The control paths of the Hand and of a Bar (R17). -/
def State.handPath (s : State) : Nat := s.node.handDie / 2 * 2 ^ 13
def State.barPath (s : State) (b : Nat) : Nat := 2 ^ 14 + s.handPath + b % 4 * 2 ^ 11

/-- Raise an event that concerns no USN. -/
def State.raise (s : State) (code loc detail : Nat) : State := s.evU code loc none detail

/-- Raise an event once per run of steps in which its condition holds (R388); `unit` tells the runs of one code apart. -/
def State.raiseRun (s : State) (code unit loc : Nat) (usn : Option (Nat × Nat)) (detail : Nat) : State :=
  let k := code * 2 ^ 64 + unit
  let fresh := match mget s.ev.runs k with
    | none => true
    | some n => decide (n + 1 < s.step.number)
  let s := { s with ev := { s.ev with runs := mput s.ev.runs k s.step.number } }
  if fresh then s.evU code loc usn detail else s

/-! ### Free values -/

/-- The next free number, and the state that has used it. -/
def State.free (s : State) : Nat × State := (Config.freeNat s.freeCtr, { s with freeCtr := s.freeCtr + 1 })

/-! ### Ring memory (R21, R155, R156) -/

/-- The Field address of a byte of a request ring (kind 0) or completion ring (kind 1), each field in its own bits (R21). -/
def ringAddr (kind ring off : Nat) : Nat := 4 * 2 ^ 60 + kind % 4 * 2 ^ 46 + ring % 2 ^ 16 * 2 ^ 30 + off % 2 ^ 30

/-- `n` slots of a ring of 2^log2 slots from slot count `at_` on. -/
def State.ringSlots (s : State) (kind ring log2 at_ n : Nat) : Bytes :=
  (List.range n).flatMap fun k => Memory.readN s.mem (ringAddr kind ring (64 * ((at_ + k) % 2 ^ log2))) 64

/-- Write whole slots into a ring. -/
def State.putSlots (s : State) (kind ring log2 at_ : Nat) (b : Bytes) : State :=
  { s with mem := ((splitAll 64 b).zipIdx).foldl (fun m e =>
      Memory.writeN m (ringAddr kind ring (64 * ((at_ + e.2) % 2 ^ log2))) (padTo 64 e.1)) s.mem }

/-- The difference of two free-running UINT32 counts (R156). -/
def ringDiff (a b : Nat) : Nat := (a + 2 ^ 32 - b % 2 ^ 32) % 2 ^ 32

/-- The free completion slots, none where CPL_HEAD is out of its range (R156, R165). -/
def Ring.freeSlots (r : Ring) : Nat :=
  let occ := ringDiff r.cplTail r.sHead
  if 2 ^ r.log2 < occ then 0 else 2 ^ r.log2 - occ - r.reserved

def State.modRing (s : State) (r : Nat) (f : Ring → Ring) : State := { s with rings := mmod s.rings r f }
def State.modShard (s : State) (i : Nat) (f : Shard → Shard) : State := { s with shards := mmod s.shards i f }
def State.modWork (s : State) (t : Nat) (f : Work → Work) : State :=
  { s with ledger := { s.ledger with works := mmod s.ledger.works t f } }
def State.modFar (s : State) (c : Nat) (f : FarCtx → FarCtx) : State :=
  { s with ledger := { s.ledger with fars := mmod s.ledger.fars c f } }
def State.modStub (s : State) (k : Nat) (f : Stub → Stub) : State :=
  { s with ledger := { s.ledger with stubs := mmod s.ledger.stubs k f } }

/-- CLK_CORE of a tier in MHz (R33, R375). -/
def tierMhz (t : Nat) : Nat := [1600, 1200, 800].getD t 800

/-- The headers of a message that travels as RoCEv2 in a class (R311 to R313): its class as PCP, ECT(0), destination 4791, and the source port of
its queue pair, which is QP1 for connection management. -/
def roceHdr (cls qp : Nat) : RoceHdr := ⟨cls, 2, 0xC000 + qp % 16384, 4791, []⟩
def OutMsg.hdr (cls : Nat) : OutMsg → Option RoceHdr
  | .write q _ _ _ _ | .send q _ | .ack q _ | .reply q _ => some (roceHdr cls q)
  | .net kind b => if kind ≤ 3 then some (roceHdr cls 1) else if kind = 4 ∨ kind = 7 then some (roceHdr cls (beNat b)) else none
  | .hedge _ _ => none

/-- Queue a message for a port in a class (R315). -/
def State.emit (s : State) (port cls : Nat) (m : OutMsg) : State := { s with tx := s.tx ++ [⟨port, cls, m, s.step.number, 0, m.hdr cls⟩] }

/-- The class of a Hedge message type (R309). -/
def hedgeClass (typ : Nat) : Nat :=
  if typ = 1 ∨ typ = 2 then 2 else if typ = 3 then 3 else if typ = 4 ∨ typ = 5 ∨ typ = 6 then 1
  else if typ = 8 ∨ typ = 9 ∨ typ = 10 then 4 else if typ = 11 then 5 else 0

/-- The bytes of a Hedge message (R309). -/
def hedgeBytes (typ tag shard : Nat) (body : Bytes) : Bytes :=
  leBytes 1 typ ++ zeros 3 ++ leBytes 4 body.length ++ leBytes 8 tag ++ leBytes 4 shard ++ zeros 12 ++ body

/-- Whether a Hedge port is UP or in RECOVERY, so that messages wait in its queues (R306). -/
def State.hedgeUp (s : State) (port : Nat) : Bool := [2, 3].contains (s.liveN (0x8020 + port) 1)

/-- The bodies that carry a body of any length (R309): parts of 16,777,216 bytes, and a shorter one that ends it (log 222).  Segment images and
re-admission loads are parted by their senders. -/
def hedgeParts (typ : Nat) (body : Bytes) : List Bytes :=
  if typ = 7 ∨ typ = 12 then [body]
  else (List.range (body.length / 16777216 + 1)).map fun j => (body.drop (16777216 * j)).take 16777216

/-- Queue a Hedge message; a port that is DOWN or in training takes none (R306). -/
def State.sendHedge (s : State) (port typ tag shard : Nat) (body : Bytes) : State :=
  if s.hedgeUp port then
    (hedgeParts typ body).foldl (fun s b => s.emit port (hedgeClass typ) (.hedge typ (hedgeBytes typ tag shard b))) s
  else s

/-- Queue a Hedge message for a named peer: where the port's peer is another, the message is not sent (R306). -/
def State.sendPeer (s : State) (port peer typ tag shard : Nat) (body : Bytes) : State :=
  if s.hedgeUp port && s.liveN (0x8020 + port) 2 != peer then s.raise 0x8007 (locHedge port) 0
  else s.sendHedge port typ tag shard body

def State.ep (s : State) (e : Nat) : EPort := mgetD s.eth e EPort.reset
def State.modEp (s : State) (e : Nat) (f : EPort → EPort) : State := { s with eth := mupd s.eth e EPort.reset f }

/-- Queue a message on a queue pair's Ethernet port, in its class; one of a queue pair in the error state is dropped and counted (R314). -/
def State.emitQp (s : State) (qp : Nat) (m : OutMsg) : State :=
  match mget s.qps qp with
  | none => s
  | some q =>
    if q.state = 3 then s.modEp q.port fun p => { p with dropped := p.dropped + 1 } else s.emit (16 + q.port) q.cls m

/-- TAG_KEY of a queue pair's session: the third part of its KM (R116, R365). -/
def State.sessionKey (s : State) (qp : Nat) : Option Bytes := ((mget s.qps qp).bind (·.session)).map fun km => sl km 64 32

/-- The slot of 0x3100 + i that serves a shard, by the values in force. -/
def State.slotOf (s : State) (id : Nat) : Option Nat :=
  if id = 0xFFFFFFFF then none else (s.shards.find? fun e => e.2.id == id).map (·.1)

/-- The partition of a shard slot and of a plot (R348), by the bitmaps in force; a slot or a plot lies in at most one. -/
def State.partOfSlot (s : State) (i : Nat) : Option Nat := (List.range 8).find? fun p => bitAt (s.act (0x9100 + p) 2) i
def State.partOfPlot (s : State) (n : Nat) : Option Nat := (List.range 8).find? fun p => bit (s.actN (0x9100 + p) 1) n

/-- The plots of a partition in ascending order (R196, R258, R348). -/
def State.partPlots (s : State) (p : Nat) : List Nat := bitList (s.actN (0x9100 + p) 1) 16

/-- Whether the hold energy does not cover a flush, so that no record is charged to the dirty window (R372). -/
def State.holdShort (s : State) : Bool := decide (s.liveN 0xA010 6 < s.liveN 0xA010 7)

end Sys2Proof.Machine
end

