-- ==== Sys2Proof/Machine/Dies.lean ====
section
/-! DEFINITION. Flash dies, their blocks and addresses, and the space that writes may use (R269, R272, R275, R276, R282, R284). -/

namespace Sys2Proof.Machine

/-! ### Dies, blocks and addresses (R272, R275, R276) -/

def State.modDie (s : State) (k : Nat) (f : Die → Die) : State := { s with flash := { s.flash with dies := mmod s.flash.dies k f } }

/-- Whether a die (16 × channel + die) is in service. -/
def State.dieUp (s : State) (k : Nat) : Bool := bit s.flash.chans (k / 16) && ((mget s.flash.dies k).any (·.on))
def State.upDies (s : State) : List (Nat × Die) := s.flash.dies.filter fun e => s.dieUp e.1

def dieLoc (k : Nat) : Nat := locFlash (k / 16) (k % 16)

/-- What a die's record of the qualified list gives (R269): CELL_BITS, the feature address and value of SLC mode, the first feature address
of the read offsets, LEVELS, the worst SLC program time and the erase limit. -/
def Die.bits (d : Die) : Nat := u8 d.rec_ 26
def Die.slcFeature (d : Die) : Nat := u8 d.rec_ 27
def Die.slcValue (d : Die) : Nat := u32 d.rec_ 28
def Die.offsetFeature (d : Die) : Nat := u8 d.rec_ 32
def Die.levels (d : Die) : Nat := u8 d.rec_ 33
def Die.tprog (d : Die) : Nat := u16 d.rec_ 36

def Die.blk (d : Die) (n : Nat) : Blk := mgetD d.blks n ⟨false, 0, 0, 0, false, 0, 0, 0, 0, 0, 0⟩
def Die.setBlk (d : Die) (n : Nat) (f : Blk → Blk) : Die := { d with blks := mput d.blks n (f (d.blk n)) }

/-- Set the block-mode feature before a program or an erase of a block: SLC_VALUE, or zero for native mode (R269). -/
def Die.setMode (d : Die) (slc : Bool) : Die := { d with feats := mput d.feats d.slcFeature (if slc then d.slcValue else 0) }

/-- The blocks that hold data: all but the bad ones and the highest-numbered, which is the metadata block. -/
def Die.usable (d : Die) : List Nat := (List.range (d.blocks - 1)).filter fun n => !d.bad.contains n

/-- Pages of a block in its mode (R272). -/
def Die.cap (d : Die) (slc : Bool) : Nat := if slc then d.units / max d.bits 1 else d.units

/-- The least-worn free block: lowest erase count, then lowest number (R276). -/
def Die.leastWorn (d : Die) : Option Nat :=
  (d.usable.filter fun n => (d.blk n).st == 0).foldl (fun m n => match m with
    | none => some n
    | some k => if (d.blk n).erases < (d.blk k).erases then some n else some k) none

def Die.freeCount (d : Die) : Nat := (d.usable.filter fun n => (d.blk n).st == 0).length

/-- An erased block: one more erase, in native mode (R275, R276). -/
def Blk.erased (b : Blk) : Blk :=
  { b with st := 0, slc := false, erases := b.erases + 1, written := 0, weak := false, reads := 0, beyond := 0, told := 0, use_ := 0 }

/-- A physical unit address (R272), the die and the block that it names. -/
def unitAddr (k blk page units : Nat) : Nat := k * 8388608 + blk * units + page
def addrDie (a : Nat) : Nat := a / 8388608
def Die.addrBlk (d : Die) (a : Nat) : Nat := a % 8388608 / max d.units 1
def unmapped : Nat := 0xFFFFFFFF

/-- Whether an address lies in a block. -/
def State.inBlk (s : State) (k n a : Nat) : Bool := addrDie a == k && ((mget s.flash.dies k).map fun d => d.addrBlk a == n).getD false

/-- The mapped units of a block that no map change of this step concerns, in ascending unit order: (LPN, address) (R274, R280). -/
def State.validUnits (s : State) (k n : Nat) : List (Nat × Nat) :=
  sortBy (fun a b => decide (a.2 < b.2)) (s.flash.map.filter fun e => s.inBlk k n e.2 && !(s.flash.pend.any fun p => p.lpn == e.1))

/-- FLASH.GC_FREE_TARGET. -/
def State.gcTarget (s : State) : Nat := s.actN 0x7010 0x0B

/-- The blocks that a die runs in SLC mode, and those of them that are free (R275): SLC_SHARE of its good blocks. -/
def State.slcQuota (s : State) (d : Die) : Nat := (d.usable.filter fun n => (d.blk n).st != 3).length * s.liveN 0x7010 4 / 65536
def Die.slcUsed (d : Die) : Nat := (d.usable.filter fun n => (d.blk n).slc && (d.blk n).st != 0 && (d.blk n).st != 3).length
def State.slcFree (s : State) (d : Die) : Nat := s.slcQuota d - d.slcUsed

/-- The flush set (R284), and the pre-erased SLC blocks that a die of it holds back for the hold-up reserve of 768 MiB, spread evenly (R282,
R284). -/
def State.flushSet (s : State) : List (Nat × Die) := s.upDies.filter fun e => decide (e.1 % 16 < s.actN 0x7010 6)
def State.holdBlocks (s : State) (k : Nat) (d : Die) : Nat :=
  if k % 16 < s.actN 0x7010 6 then ceilDiv 49152 (s.flushSet.length * d.cap true) else 0

/-- The bytes of the hold-up reserve: those of the pre-erased SLC blocks that the flush set has (R284). -/
def State.reserveBytes (s : State) : Nat :=
  sumNat (s.flushSet.map fun e => 16384 * (min (s.slcFree e.2) e.2.freeCount * e.2.cap true))

/-- MAP_DIRTY: the journal entries made and not programmed (R278); and whether `n` more log bytes, with `waiting` admitted before them, leave
the reserve covering LOG_DIRTY and MAP_DIRTY twice over (R284). -/
def State.mapDirty (s : State) : Nat := 16 * s.flash.journal.length
def State.reserveCovers (s : State) (n : Nat) : Bool := decide (2 * (s.log.dirty + n + s.mapDirty) ≤ s.reserveBytes)

/-- Whether a write may open a free block of a die in a mode: outside the spares, the GC reserve and the hold-up reserve (R275, R282). -/
def State.mayOpen (s : State) (k : Nat) (d : Die) (slc : Bool) : Bool :=
  if slc then decide (s.gcTarget + d.spares < d.freeCount) && decide (s.holdBlocks k d < s.slcFree d)
  else decide (s.gcTarget + d.spares + s.slcFree d < d.freeCount)

/-- Native units free outside the reserves and spares (R282): of the free blocks, and of the open one. -/
def State.freeNative (s : State) (k : Nat) (d : Die) : Nat :=
  let part := (d.usable.filter fun n => (d.blk n).st == 1 && !(d.blk n).slc && (d.blk n).use_ == 0).map fun n => d.units - (d.blk n).written
  if s.dieUp k then (d.freeCount - s.gcTarget - d.spares - s.slcFree d) * d.units + sumNat part else 0
def State.freeUnits (s : State) : Nat := sumNat (s.flash.dies.map fun e => s.freeNative e.1 e.2)

end Sys2Proof.Machine
end

