-- ==== Sys2Proof/Machine/Ledger.lean ====
section
/-! DEFINITION. The two-pool ledger (R155 to R175): completions, losses, handoffs, audits, replays. -/

namespace Sys2Proof.Machine

/-- L(H): the plots on which a far context may lie, in order (R169). -/
def farSeq (h : Nat) : List Nat :=
  (dedupBy id [] (([0xA, 0x5, 0xF] ++ (List.range 14).map (· + 1) ++ [0]).map fun x => h ^^^ x))

/-- FAR_PLOT of a plot in a partition (R169), and the plot of its replay copy (R175). -/
def State.farPlot (s : State) (h part : Nat) : Nat := ((farSeq h).find? fun p => bit (s.actN (0x9100 + part) 1) p).getD h
def State.copyPlot (s : State) (h part : Nat) : Nat :=
  let f := s.farPlot h part
  ((((farSeq h).dropWhile (· != f)).drop 1).find? fun p => bit (s.actN (0x9100 + part) 1) p).getD h

/-- The lowest key from `base` on that a map does not hold. -/
def lowestFree {α : Type} (m : List (Nat × α)) (base : Nat) : Nat :=
  m.foldl (fun c e => if e.1 = c then c + 1 else c) base

/-- The pools in service on a plot (R174). -/
def State.nearOk (s : State) (p : Nat) : Bool := bit s.node.plots p && !bit s.node.nearOut p && !bit s.node.retired p
def State.farOk (s : State) (p : Nat) : Bool :=
  bit s.node.plots p && bit s.node.tillers p && !bit s.node.farOut p && !bit s.node.retired p

/-- REQUEST_TAG (R160). -/
def mkTag (step plot typ idx : Nat) : Nat := step * 65536 + plot * 4096 + typ * 1024 + idx * 16

/-- The far context of a request, with its index, and the stub of a request. -/
def State.farOf (s : State) (tag : Nat) : Option (Nat × FarCtx) := s.ledger.fars.find? fun e => e.2.tag == tag && e.2.owner != 0
def State.stubOf (s : State) (tag : Nat) : Option (Nat × Stub) := s.ledger.stubs.find? fun e => e.2.tag == tag && e.2.belief != 0
def State.workOf (s : State) (tag : Nat) : Option Work := mget s.ledger.works tag

/-- The near slots in use on a plot, and the lowest free one. -/
def State.freeNear (s : State) (plot : Nat) : Nat :=
  let used := (s.ledger.stubs.filter fun e => e.1 / 131072 == plot && e.2.belief == 2).map (·.2.nearSlot)
  ((List.range (used.length + 1)).find? fun n => !used.contains n).getD 0

/-! ### Completions -/

/-- The header fields of a completion (R163). -/
structure CplHead where
  kind     : Nat
  replayed : Bool
  certs    : Bool
  status   : Nat
  n        : Nat
  client   : Nat
  tag      : Nat
  conds    : Nat
  records  : Nat
  orig     : Nat
  deriving DecidableEq, Repr

/-- The bytes of a completion (R163). -/
def cplBytes (h : CplHead) (step : Nat) (body : Bytes) : Bytes :=
  let slots := ceilDiv (64 + body.length) 64
  leBytes 1 h.kind ++ leBytes 1 ((if h.replayed then 1 else 0) + (if h.certs then 2 else 0)) ++
  leBytes 2 (min slots 0xFFFF) ++ leBytes 2 h.status ++ leBytes 2 h.n ++ leBytes 8 h.client ++ leBytes 8 h.tag ++
  leBytes 8 step ++ leBytes 2 h.conds ++ leBytes 2 h.records ++ leBytes 4 body.length ++ leBytes 8 h.orig ++ zeros 16 ++ body

/-- Write a completion into a completion ring, return the slots reserved for it, and mirror it (R157, R163, R165). -/
def State.writeCpl (s : State) (ring reserved : Nat) (h : CplHead) (body : Bytes) : State :=
  match mget s.rings ring with
  | none => s
  | some r =>
    let b := cplBytes h s.step.number body
    let n := ceilDiv b.length 64
    let s1 := s.putSlots 1 ring r.log2 r.cplTail b
    let tail := (r.cplTail + n) % 2 ^ 32
    let s2 := s1.modRing ring fun r => { r with cplTail := tail, reserved := r.reserved - reserved }
    if r.mirror then
      ((((splitAll 64 b).zipIdx).foldl (fun (s : State) e =>
        s.emitQp r.qp (.write r.qp (r.mAddr + 64 * ((r.cplTail + e.2) % 2 ^ r.log2)) r.mRkey (padTo 64 e.1) none)) s2)).emitQp
          r.qp (.write r.qp r.mAddr r.mRkey [] (some tail))
    else s2

/-- The kept caches with the one that a request continues marked as in use or not (R219). -/
def State.holdCache (s : State) (tag : Nat) (use : Bool) : List (Nat × Cache) :=
  match (s.workOf tag).bind (·.gen) with
  | some g => if 2 ≤ u8 g.hdr 1 then mmod s.caches g.cache (fun (c : Cache) => { c with inUse := use }) else s.caches
  | none => s.caches

/-- An update that has taken its USN and is not applied yet: the step applies it whatever becomes of its request (R37, R136). -/
def Work.owed (w : Work) : Bool := w.kind == 2 && w.usn != 0 && w.acks == 0

/-- The length tables without a request's rows (R220). -/
def State.lensWithout (s : State) (tag : Nat) : List (Nat × List LenEntry) :=
  match s.farOf tag, s.stubOf tag with
  | some (_, f), some (_, k) =>
    let others := fun (e : LenEntry) => !(e.near == k.nearSlot && e.home == f.home)
    (s.ledger.lens.map fun t => (t.1, t.2.filter others)).filter fun t => !t.2.isEmpty
  | _, _ => s.ledger.lens

/-- The queues with those that carry a request's packets flushed (R301). -/
def State.flushedQueues (s : State) (tag : Nat) : List (Nat × QSt) :=
  s.queues.map fun (q : Nat × QSt) => if q.2.reqs.contains tag then (q.1, { q.2 with flush := true, reqs := q.2.reqs.filter (· != tag) }) else q

/-- Free the pools of a request: far context, stub, near slot with its walk parts, and replay copy; its queues are flushed (R301).  What an
update still owes stays until the step has applied it. -/
def State.freeReq (s : State) (tag : Nat) : State :=
  { s with
    caches := s.holdCache tag false
    queues := s.flushedQueues tag
    ledger := { s.ledger with
      fars := s.ledger.fars.filter fun e => e.2.tag != tag,
      stubs := s.ledger.stubs.filter fun e => e.2.tag != tag,
      works := s.ledger.works.filter fun e => e.1 != tag || e.2.owed,
      copies := mdel s.ledger.copies tag,
      losses := s.ledger.losses.filter fun x => x.tag != tag,
      lens := s.lensWithout tag } }

/-- The two slots that a ROOT_REQUEST reserved for its root record return to IDX.ROOT_RING (R165). -/
def State.returnRoot (s : State) (tag : Nat) : State :=
  match s.workOf tag with
  | some w => if w.kind = 4 then s.modRing w.orig fun r => { r with reserved := r.reserved - 2 } else s
  | none => s

/-- Count a completed request in the counters of its status (R94, R176). -/
def State.countStatus (s : State) (kind code : Nat) : State :=
  let s := if code = 9 then s.bump 0x4021 2 1 else if code = 10 then s.bump 0x4021 3 1 else s
  if kind = 1 then
    let s := s.bump 0x3011 1 1
    if code = 3 then s.bump 0x3011 2 1 else if code = 1 then s.bump 0x3011 3 1 else if code = 2 then s.bump 0x3011 4 1 else s
  else s

/-- The shard lists that a sub-request returns, with a status that carries no results (R108). -/
def State.sendEmptyLists (s : State) (w : Work) (status : Nat) : State :=
  w.shards.foldl (fun s sh =>
    s.sendHedge w.subPort 2 w.subTag sh.id
      (shardListBytes { sh with result := [], status := status } sh.src.node w.subTag w.widened)) s

/-- What a request holds towards its final status when it ends early (R162): the conditions of its merge, or the shard statuses that it
has so far. -/
def Work.heldConds (w : Work) : List (Nat × Nat) :=
  if w.merged then (bitList w.condBits 11).map fun c => (c, if c = w.status % 256 then w.status / 256 else 0)
  else (w.shards.filter fun x => x.status != 0).map fun x => (x.status % 256, x.status / 256)

/-- The final status and CONDITIONS of a request that ends early with a status: codes 1 and 2 of what it held give bits only (R162). -/
def endStatus (status : Nat) (held : List (Nat × Nat)) : Nat × Nat :=
  let own := (status % 256, status / 256)
  ((finalStatus (own :: held.filter fun c => decide (3 ≤ c.1))).1, (finalStatus (own :: held)).2)

/-- The body of a completion that carries no result: that of an update which took its USN holds its filled fields (R164). -/
def State.earlyBody (s : State) (kind tag : Nat) : Bytes :=
  if kind = 2 then ((s.workOf tag).map fun w => if w.usn = 0 then [] else sl w.image 16 40).getD [] else []

/-- A request in phase AUDIT (R128): its far context and stub stay with the slots reserved for the record, and its pass waits for its
slices. -/
def State.keepAudit (s : State) (tag c kept : Nat) (f : FarCtx) (w : Work) : State :=
  let s1 := s.modFar c fun f => { f with owner := 1, phase := 0x0C, reserved := kept }
  let s2 := (s1.stubOf tag).elim s1 fun k => s1.modStub k.1 fun st => { st with belief := 1, nearSlot := 0xFFFF }
  { s2 with queues := s2.flushedQueues tag,
            ledger := { s2.ledger with works := mdel s2.ledger.works tag, copies := mdel s2.ledger.copies tag,
                                       audits := s2.ledger.audits ++ [⟨tag, w, f.cplRing, kept, c, []⟩] } }

/-- The slots of its reservation that an AUDIT request keeps for its record (R165). -/
def auditSlots (f : FarCtx) (k : Nat) : Nat := min f.reserved (ceilDiv (80 + 32 * k + 96) 64)

/-- Complete a request with a status and an empty body but for what R164 gives an update, whatever it holds, and free it.  A sub-request
answers with empty shard lists.  An AUDIT request whose far context survives has its pass (R128), which finds no result of it to compare
(log 186). -/
def State.completeEmpty (s : State) (tag : Nat) (f : FarCtx) (status : Nat) : State :=
  let st := endStatus status (((s.workOf tag).map Work.heldConds).getD [])
  let h : CplHead := ⟨f.kind, f.replayed, false, st.1, 0, f.client, tag, st.2, 0,
    if f.replayed then ((s.workOf tag).map (·.orig)).getD 0 else 0⟩
  let body := s.earlyBody f.kind tag
  let s := s.countStatus f.kind (st.1 % 256)
  match f.kind == 1 && f.audit, s.farOf tag, s.workOf tag with
  | true, some (c, _), some w =>
    let kept := auditSlots f (u16 w.params 0)
    (s.writeCpl f.cplRing (f.reserved - kept) h body).keepAudit tag c kept f { w with final := [] }
  | _, _, _ =>
    let s := if f.kind = 5 then
        (match s.workOf tag with | some w => s.sendEmptyLists w status | none => s)
      else s.writeCpl f.cplRing f.reserved h body
    (s.returnRoot tag).freeReq tag

/-- REPLAY_REF where a request has no copy (R170). -/
def noRef : Nat := 0xFFFFFFFF

/-- The far context of a request just admitted (R170): FAR, in phase ADMIT, with the state of its admission as its CHECKPOINT. -/
def newFar (kind kindId cplRing srcRing tag client reserved deadline home : Nat) (w : Work) : FarCtx :=
  { owner := 1, phase := 1, kind := kind, kindId := kindId, cplRing := cplRing, srcRing := srcRing, tag := tag, client := client,
    stub := 0, reserved := reserved, deadline := deadline, replayable := false, replayed := false, audit := false, home := home,
    status := 0, ref := noRef, ckpt := some w, moved := none }

/-- Whether a lost request is re-run (R175). -/
def State.replays (s : State) (f : FarCtx) : Bool :=
  (f.kind == 1 || f.kind == 3) && f.replayable && !f.replayed &&
  (match mget s.ledger.copies f.tag with
   | some c => c.grant && bit s.node.plots c.plot && bit s.node.tillers c.plot
   | none => false)

/-- Lose a request: a replay takes the place of the completion where R175 allows one; otherwise it completes with the
status code (9 = LOST_CONTEXT, 10 = ORPHANED) and its phase, or with NOT_GRANTED where the Hand has stopped (R18), and EV 0x4019 is raised where only the grant was missing. -/
def State.lose (s : State) (tag code : Nat) : State :=
  match s.farOf tag with
  | none => s
  | some (_, f) =>
    if f.phase = 0x0C then
      -- the request has completed; its audit ends without a record of it here
      s
    else if code = 9 ∧ s.replays f ∧ ¬ s.node.handAlive then s.completeEmpty tag f (mkStatus 7 0)
    else if code = 9 ∧ s.replays f then
      match mget s.ledger.copies tag with
      | none => s
      | some c =>
        let held := s.holdCache tag true
        let s := { s.freeReq tag with caches := held }
        { s with ledger := { s.ledger with replays := s.ledger.replays ++
            [⟨tag, c, f.kindId, f.cplRing, f.reserved, f.client, f.kind, f.phase⟩] } }
    else
      let noGrant := code == 9 && f.replayable && !f.replayed &&
        (match mget s.ledger.copies tag with | some c => !c.grant | none => false)
      let s := s.completeEmpty tag f (mkStatus code f.phase)
      if noGrant then s.raise 0x4019 (locPlot f.home) 0 else s

/-- Lose each of a list of requests with LOST_CONTEXT. -/
def State.loseAll (s : State) (tags : List Nat) : State := tags.foldl (fun s t => s.lose t 9) s

/-! ### Spill slots and checks (R26, R123) -/

/-- Whether a plot's spill slot is used in this step. -/
def State.spillUsed (s : State) (p : Nat) : Bool := bit s.step.spill p

/-- Use a plot's spill slot. -/
def State.useSpill (s : State) (p : Nat) : State :=
  ({ s with step := { s.step with spill := setBit s.step.spill p } }).bump 0xC010 4 1

/-- Whether a check fails for good: on its repeat too, or for want of a read. -/
def Chk.bad : Chk → Bool
  | .twice | .readUe _ => true
  | .ok | .once | .frameUe _ => false
/-- The page whose read has an uncorrected error. -/
def Chk.ue : Chk → Option Nat
  | .readUe page => some page
  | _ => none

/-- A table diverges on this node (R202). -/
def State.divergeEmb (s : State) (t : Nat) : State :=
  match mget s.embs t with
  | none => s
  | some _ =>
    let out := fun (e : EmbTab) => { e with state := 3 }
    ({ s with embs := mmod s.embs t out }).setN (0x5200 + t) 4 3

/-- A page of a segment waits for its reload from flash (R71). -/
def State.askReload (s : State) (slot seg page : Nat) : State :=
  let add := fun (g : Seg) => if g.reload.contains page then g else { g with reload := g.reload ++ [page] }
  s.modShard slot fun h => { h with segs := mmod h.segs seg add }

/-- A shard whose delta or TOMB_USN page waits for its rebuild from the log, which holds its updates (R240). -/
def State.askRebuild (s : State) (slot : Nat) : State :=
  { s with tier := { s.tier with rebuild := if s.tier.rebuild.contains slot then s.tier.rebuild else s.tier.rebuild ++ [slot] } }

/-- An uncorrected error that a read finds in the home of a window page, by what the page holds, or in storage that is no such page
(R91, R202, the table of R240). -/
def State.homeFault (s : State) (page loc : Nat) : State :=
  let s1 := s.bump 0x6011 5 1
  match mget s.tier.alloc page with
  | none => s1.raise 0x3016 loc 0
  | some (k, a, b) =>
    let i := ((s.tier.alloc.filter fun e => e.2 == (k, a, b)).map (·.1)).idxOf page
    if k = 3 then (s1.divergeEmb a).raise 0x5024 loc 0
    else if k = 0 ∨ k = 4 then ((s1.raise 0x3016 loc 0).raise 0x3031 loc 0).askReload a b i
    else ((s1.raise 0x3016 loc 0).raise 0x6016 loc 0).askRebuild a

/-- A frame whose copy has an uncorrected error is dropped (R240). -/
def State.dropFrame (s : State) (page loc : Nat) : State :=
  ((({ s with tier := { s.tier with frames := s.tier.frames.filter (· != page) } }).bump 0x6011 5 1).bump 0x6011 2 1).raise 0x6014 loc 0

/-- A read that meets such a frame is repeated from the home frame in the plot's spill slot; where that is used, the dependent requests are
lost (R26, R240). The answer says whether the read stands. -/
def State.frameFault (s : State) (page plot loc : Nat) (tags : List Nat) : State × Bool :=
  if ¬ s.tier.frames.contains page then (s, true)
  else if s.spillUsed plot then (((s.dropFrame page loc).raise 0xC004 loc 0).loseAll tags, false)
  else ((s.dropFrame page loc).useSpill plot, true)

/-- A checked computation (R100, R120, R123): the event at the first failure, the repeat in the spill slot, and the loss of
the dependent requests where the repeat fails or the slot is used. The answer says whether the computation stands. -/
def State.check (s : State) (c : Chk) (plot code loc : Nat) (tags : List Nat) : State × Bool :=
  match c with
  | .ok => (s, true)
  | .once =>
    let s := s.raise code loc 0
    if s.spillUsed plot then ((s.raise 0xC004 loc 0).loseAll tags, false) else (s.useSpill plot, true)
  | .twice =>
    let s := s.raise code loc 0
    let s := if s.spillUsed plot then s else s.useSpill plot
    ((s.raise 0xC004 loc 0).loseAll tags, false)
  | .readUe page => ((s.homeFault page loc).loseAll tags, false)
  | .frameUe page => s.frameFault page plot loc tags

/-! ### Handoffs (R171, R172) -/

/-- Whether the merged list falls short in a way that asks for the widened pass (R91, R92). -/
def Work.wantsWiden (w : Work) : Bool :=
  w.widen && !w.widened && w.short

/-- The local entries of a request. -/
def Work.locals (w : Work) : List ShardWork := w.shards.filter fun x => x.src.port == 0xFF
def Work.remotes (w : Work) : List ShardWork := w.shards.filter fun x => x.src.port != 0xFF

/-- Whether a shard's walks, scans and delta scan have ended. -/
def ShardWork.walked (x : ShardWork) : Bool := x.todo.isEmpty && x.delta.isSome

/-- Whether the work of a NEAR phase has ended (the last column of R171, R218). -/
def Work.phaseDone (w : Work) (phase : Nat) : Bool :=
  let g := (w.gen.map (·.stage)).getD 0
  if phase = 0x02 then w.x.isSome
  else if phase = 0x03 then w.locals.all fun x => decide (1 ≤ x.stage)
  else if phase = 0x04 then w.locals.all ShardWork.walked
  else if phase = 0x05 then w.locals.all fun x => decide (3 ≤ x.stage)
  else if phase = 0x06 then w.locals.all fun x => decide (4 ≤ x.stage)
  else if phase = 0x07 then w.locals.all fun x => decide (5 ≤ x.stage)
  else if phase = 0x09 then w.merged && !w.wantsWiden
  else if phase = 0x0A then !w.certSet.isEmpty
  else if phase = 0x10 then w.acks != 0
  else if phase = 0x12 then w.merged
  else if phase = 0x20 then decide (1 ≤ g)
  else if phase = 0x21 then decide (2 ≤ g)
  else if phase = 0x22 ∨ phase = 0x23 then decide (3 ≤ g)
  else true

/-- The phase that follows a NEAR phase at its release (R171, R218). `remote`: the request has remote sources; `mirror`:
the update waits for its partners; `spread`: the cache is spread across nodes. -/
def nextPhase (kind phase : Nat) (remote mirror score spread : Bool) : Nat :=
  if phase = 0x07 then (if kind = 5 then 0x0B else if remote then 0x08 else 0x09)
  else if phase = 0x10 then (if mirror then 0x11 else 0x0B)
  else if phase = 0x20 then (if score then 0x23 else 0x21)
  else if phase = 0x22 then (if spread then 0x24 else 0x0B)
  else if phase = 0x0A ∨ phase = 0x12 ∨ phase = 0x23 then 0x0B
  else phase + 1

/-- The phase that a take enters (R171). -/
def takePhase (kind phase : Nat) : Nat :=
  if phase = 0x01 then (if kind = 2 then 0x10 else if kind = 4 then 0x12 else if kind = 3 then 0x20 else 0x02)
  else if phase = 0x08 then 0x09 else phase

/-- Whether a request is lost and waits for the step in which it completes (R174): no part of it runs on. -/
def State.isLost (s : State) (tag : Nat) : Bool := s.ledger.losses.any fun x => x.tag == tag

/-- Whether a request's home plot runs a phase now: the far context reads NEAR with that phase. -/
def State.inPhase (s : State) (tag phase : Nat) : Bool :=
  match s.farOf tag with
  | some (_, f) => f.owner == 2 && f.phase == phase && !s.isLost tag
  | none => false

/-- TAKE (R172).  The far side has written its context when the record turns out poisoned or its transfer fails, so that the request
completes with the phase being entered. -/
def execTake (tag : Nat) (h : Handoff) (s : State) : Host.Outcome State Fault Refusal :=
  match s.farOf tag, s.stubOf tag with
  | some (c, f), some (k, _) =>
    if f.owner ≠ 1 ∨ [0x0B, 0x0C, 0x11, 0x24].contains f.phase ∨ s.isLost tag then .next s else
    let ph := takePhase f.kind f.phase
    let far := s.modFar c fun f => { f with owner := 2, phase := ph, moved := some s.step.number }
    match h with
    | .poison => .next ((far.raise 0x4014 (locPlot f.home) 0).lose tag 10)
    | .routeFail => .next ((far.raise 0x6004 (locPlot f.home) 0).lose tag 9)
    | _ =>
      let near := far.freeNear f.home
      .next (far.modStub k fun st => { st with belief := 2, phase := ph, nearSlot := near })
  | _, _ => .next s

/-- Whether an update waits for its partners' acknowledgements (R136, R142): a partner was attached at its admission, and one that is
attached has not yet acknowledged its USN. -/
def State.mirrorWait (s : State) (w : Work) : Bool :=
  s.actN 0x3042 6 == 1 && w.mirror &&
  (match (s.slotOf (u32 w.body 4)).bind (mget s.shards) with
   | some h => h.partners.any fun p => p.attached && decide (p.acked < w.usn)
   | none => false)

/-- Whether the pages of a request's cache lie on several nodes, the NODE_INDEX of this node (log 107), the Hedge port of a member, and those of the other members (R225). -/
def Work.spreads (w : Work) : Bool := (w.gen.map fun g => decide (1 < g.members.length)).getD false
def ownIndex (ports : Bytes) : Nat := ((List.range 64).find? fun n => decide (16 ≤ u8 ports n)).getD 64
def State.memberPort (s : State) (n : Nat) : Nat := u8 (s.act 0x5300 2) n
def State.portsOf (s : State) (members : List Nat) : List Nat := (members.map s.memberPort).filter fun p => decide (p < 16)
def State.otherPorts (s : State) (g : GenWork) : List Nat := s.portsOf g.members

/-- The first 16 bytes of a message of R225 (log 204): what it is (0 = appended pages, 1 = queries whose partials are asked for,
2 = partials, 3 = acknowledgement, 4 = the end of the cache), a layer, the cache's committed length, and the cache's key. -/
def pageHead (kind layer base key : Nat) : Bytes := leBytes 1 kind ++ zeros 1 ++ leBytes 2 layer ++ leBytes 4 base ++ leBytes 8 key

/-- Tell the other members of a cache that it is gone. -/
def State.releaseLent (s : State) (key : Nat) (members : List Nat) : State :=
  (s.portsOf members).foldl (fun s p => s.sendHedge p 11 key 0 (pageHead 4 0 0 key)) s

/-- Free kept caches (R219, R225). -/
def State.dropCaches (s : State) (gone : Nat × Cache → Bool) : State :=
  let s1 := (s.caches.filter gone).foldl (fun s c => s.releaseLent c.2.key c.2.members) s
  let m := s.caches.filter fun c => !gone c
  { s1 with caches := m }.setN 0x5400 9 m.length

/-- RELEASE (R172), once the work of the phase has ended (R171): the near side's state becomes the far context's CHECKPOINT and STATUS.
When the BELIEF write fails, the far context has moved on and the stub still reads NEAR, until the next audit corrects it. -/
def execRelease (tag : Nat) (h : Handoff) (s : State) : Host.Outcome State Fault Refusal :=
  match s.farOf tag, s.stubOf tag, s.workOf tag with
  | some (c, f), some (k, _), some w =>
    if f.owner ≠ 2 ∨ ¬ w.phaseDone f.phase ∨ s.isLost tag then .next s else
    let score := (w.gen.map fun g => u8 g.hdr 0 == 1).getD false
    let ph := nextPhase f.kind f.phase (!w.remotes.isEmpty) (s.mirrorWait w) score w.spreads
    let stub := s.modStub k fun st => { st with belief := 1, nearSlot := 0xFFFF }
    let far := fun (s : State) =>
      s.modFar c fun f => { f with owner := 1, phase := ph, status := w.status, ckpt := some w, moved := some s.step.number }
    match h with
    | .clean => .next (far stub)
    | .poison => .next ((stub.raise 0x4014 (locPlot f.home) 0).lose tag 10)
    | .routeFail => .next ((stub.raise 0x6004 (locPlot f.home) 0).lose tag 9)
    | .beliefFail => .next (far s)
  | _, _, _ => .next s

/-! ### Audits (R173) -/

/-- Compare one far context with its stub; a request with a handoff in this step is left to the next sweep. -/
def State.auditFar (s : State) (e : Nat × FarCtx) : State :=
  let f := e.2
  if f.moved = some s.step.number then s else
  match s.ledger.stubs.find? fun x => x.2.far == e.1 with
  | none => (s.raise 0x4013 (locPlot f.home) 0).lose f.tag 9
  | some (k, st) =>
    if st.tag ≠ f.tag then (s.raise 0x4013 (locPlot f.home) 0).lose f.tag 9
    else if f.owner = 1 ∧ st.belief = 2 then
      ((s.modStub k fun st => { st with belief := 1, nearSlot := 0xFFFF }).bump 0x4021 5 1).raise 0x4015 (locPlot f.home) 0
    else if f.owner = 2 ∧ st.belief = 1 then (s.raise 0x4014 (locPlot f.home) 0).lose f.tag 10
    else if f.deadline < s.step.number ∧ ¬ [0x08, 0x0B, 0x0C, 0x11].contains f.phase then
      (s.raise 0x4017 (locPlot f.home) 0).lose f.tag 9
    else s

/-- One sweep of the far partition of a plot (R173).  Stubs of that partition that stand for no far context are freed. -/
def State.sweepFar (s : State) (plot : Nat) : State :=
  let s0 := { s with ledger := { s.ledger with swept := mput s.ledger.swept plot s.step.number } }
  let s1 := (s0.ledger.fars.filter fun e => e.1 / 131072 == plot).foldl State.auditFar s0
  let loose := s1.ledger.stubs.filter fun e => e.2.far / 131072 == plot && !(s1.ledger.fars.any fun x => x.1 == e.2.far)
  loose.foldl (fun s e =>
    ({ s with ledger := { s.ledger with stubs := mdel s.ledger.stubs e.1 } }).raise 0x4016 (locPlot (e.1 / 131072)) 0) s1

/-- AUDIT_SWEEP (R173). -/
def execAuditSweep (plot : Nat) (s : State) : Host.Outcome State Fault Refusal := .next (s.sweepFar plot)

/-- The sweeps that must have run by the end of a step, so that every partition is swept within LEDGER.AUDIT_PERIOD steps (R173,
log 150). -/
def State.sweepDue (s : State) : State :=
  (List.range 16).foldl (fun (s : State) p =>
    if s.actN 0x4020 1 ≤ s.step.number - mgetD s.ledger.swept p 0 then s.sweepFar p else s) s

/-! ### Losing a pool (R174) -/

/-- Move a request to the list of losses, due in the next step.  `far` says that its far context completes it; else its stub does. -/
def State.loseLater (s : State) (tag : Nat) (far : Bool) : State :=
  match s.farOf tag, s.stubOf tag with
  | some (_, f), st =>
    let ph := if far then f.phase else ((st.map (·.2.phase)).getD f.phase)
    { s with ledger := { s.ledger with losses := s.ledger.losses ++
        [⟨tag, f.kind, f.client, f.cplRing, f.reserved, ph, true, !far, s.step.number⟩] } }
  | none, some (_, st) =>
    { s with ledger := { s.ledger with losses := s.ledger.losses ++
        [⟨tag, 0, st.client, st.cplRing, st.reserved, st.phase, true, true, s.step.number⟩] } }
  | none, none => s

/-- A request with both pools lost: no completion, its slots return in the next step (R165, R174). -/
def State.loseBoth (s : State) (tag : Nat) : State :=
  match s.farOf tag with
  | some (_, f) => { s with ledger := { s.ledger with losses := (s.ledger.losses.filter fun x => x.tag != tag) ++
      [⟨tag, f.kind, f.client, f.cplRing, f.reserved, f.phase, false, true, s.step.number⟩] } }
  | none => s

/-- An audit pass whose far context is lost ends without a record; its reserved slots return (R130, R165, R174). -/
def State.dropAudit (s : State) (a : Audit) : State :=
  let s1 := (s.modRing a.ring fun r => { r with reserved := r.reserved - a.slots }).freeReq a.tag
  { s1 with ledger := { s1.ledger with audits := s1.ledger.audits.filter fun x => x.tag != a.tag } }

/-- The audit passes whose far context lies on a plot end so. -/
def State.dropAudits (s : State) (plot : Nat) : State :=
  (s.ledger.audits.filter fun a => a.far / 131072 == plot).foldl State.dropAudit s

/-- The near pool of a plot is lost: every request homed there, and every request with a walk part there, which it holds together with
its near slot while it is NEAR (R170). -/
def State.nearLost (s : State) (p : Nat) : State :=
  let hit := s.ledger.fars.filter fun e => e.2.phase != 0x0C &&
    (e.2.home == p || (e.2.owner == 2 && ((s.workOf e.2.tag).map fun w => w.walk.contains p).getD false))
  let both := hit.filter fun e => e.2.home == p && bit s.node.farOut (e.1 / 131072)
  let s := hit.foldl (fun s e => if both.any fun b => b.1 == e.1 then s.loseBoth e.2.tag else s.loseLater e.2.tag true) s
  s.raise 0x4010 (locPlot p) hit.length

/-- The far partition of a plot is lost: every request with its far context there, completed by its stub. -/
def State.farLost (s : State) (p : Nat) : State :=
  let hit := s.ledger.fars.filter fun e => e.1 / 131072 == p && e.2.phase != 0x0C
  let aud := s.ledger.audits.filter fun a => a.far / 131072 == p
  let s := hit.foldl (fun s e =>
    if bit s.node.nearOut e.2.home then s.loseBoth e.2.tag else s.loseLater e.2.tag false) s
  let s := s.dropAudits p
  s.raise 0x4011 (locPlot p) (hit.length + aud.length)

/-- POOL_LOSS (R174). A request is listed once, however many of its pools are lost. -/
def execPoolLoss (l : PoolLoss) (s : State) : Host.Outcome State Fault Refusal :=
  match l with
  | .near p => .next (({ s with node := { s.node with nearOut := setBit s.node.nearOut p } }).nearLost p)
  | .far p => .next (({ s with node := { s.node with farOut := setBit s.node.farOut p } }).farLost p)
  | .stack p =>
    let s := { s with node := { s.node with farOut := setBit s.node.farOut p, tillers := clrBit s.node.tillers p } }
    .next ((s.setN 0x1010 2 s.node.tillers).farLost p)
  | .plot p =>
    let s := { s with node := { s.node with nearOut := setBit s.node.nearOut p, farOut := setBit s.node.farOut p,
                                            plots := clrBit s.node.plots p, tillers := clrBit s.node.tillers p } }
    let s := (s.setN 0x1010 1 s.node.plots).setN 0x1010 2 s.node.tillers
    .next ((s.nearLost p).farLost p)
  | .farContext t =>
    match s.ledger.audits.find? fun a => a.tag == t with
    | some a => .next ((s.dropAudit a).raise 0x4011 (locPlot (a.far / 131072)) 1)
    | none => match s.farOf t with
      | some (c, _) => .next ((s.loseLater t false).raise 0x4013 (locPlot (c / 131072)) 0)
      | none => .next s
  | .stub t =>
    match s.farOf t with
    | some (_, f) => .next ((s.loseLater t true).raise 0x4013 (locPlot f.home) 0)
    | none => .next s

/-- The completions due in the step after a loss (R174): written by the surviving pool, or replaced by a replay; the slots
of a request that lost both pools return.  What was detected in this step waits for the next. -/
def State.settleLosses (s : State) : State :=
  let l := dedupBy (·.tag) [] (s.ledger.losses.filter fun x => decide (x.at_ < s.step.number))
  let s := { s with ledger := { s.ledger with losses := s.ledger.losses.filter fun x => !decide (x.at_ < s.step.number) } }
  l.foldl (fun s x =>
    if x.writes then
      match s.farOf x.tag with
      | some (c, _) => (s.modFar c fun f => { f with phase := x.phase, audit := f.audit && !x.far }).lose x.tag 9
      | none =>
        ((s.writeCpl x.cplRing x.reserved ⟨x.kind, false, false, mkStatus 9 x.phase, 0, x.client, x.tag, 512, 0, 0⟩
          (s.earlyBody x.kind x.tag)).returnRoot x.tag).freeReq x.tag
    else (((s.modRing x.cplRing fun r => { r with reserved := r.reserved - x.reserved }).returnRoot x.tag).freeReq x.tag)) s

/-! ### Replays that end without running (R18, R175) -/

/-- A replay that waits completes with a status instead; the cache that it would have continued is free again. -/
def State.endReplay (s : State) (r : Replay) (status : Nat) : State :=
  let free := match r.copy.work.gen with
    | some g => if 2 ≤ u8 g.hdr 1 then mmod s.caches g.cache (fun (c : Cache) => { c with inUse := false }) else s.caches
    | none => s.caches
  let s1 := { s with caches := free, ledger := { s.ledger with replays := s.ledger.replays.filter fun x => x.tag != r.tag } }
  (s1.writeCpl r.cplRing r.reserved ⟨r.kind, false, false, status, 0, r.client, r.tag, 2 ^ (status % 256), 0, 0⟩ []).countStatus r.kind
    (status % 256)

/-- It completes with LOST_CONTEXT and the phase that its first attempt had. -/
def State.failReplay (s : State) (r : Replay) : State := s.endReplay r (mkStatus 9 r.phase)

/-- Every replay that waits completes so. -/
def State.loseReplays (s : State) : State := s.ledger.replays.foldl State.failReplay s

end Sys2Proof.Machine
end

