-- ==== Sys2Proof/Machine/Plan.lean ====
section
/-! DEFINITION. What the node reads of a plan (R29, R30, R75, R167, R237, R383). -/

namespace Sys2Proof.Machine

/-- The entries of a fixed-size section, each as one number with the bits that its layout names. -/
def Plan.entries (p : Plan) (typ size : Nat) : List Nat :=
  match p.secs.find? fun x => x.typ == typ with
  | none => []
  | some x => (splitAll size (sl p.image x.off (size * x.count))).map leNat

/-- An admission slot (R167). -/
structure AdmSlot where
  template : Nat
  plot     : Nat
  idx      : Nat
  typ      : Nat
  source   : Nat
  mask     : Nat
  deriving DecidableEq, Repr

def admSlotOf (e : Nat) : AdmSlot :=
  ⟨bitsOf e 127 116, bitsOf e 115 112, bitsOf e 111 106, bitsOf e 105 104, bitsOf e 103 88, bitsOf e 87 56⟩

def Plan.slots (p : Plan) : List AdmSlot := (p.entries 5 16).map admSlotOf

/-- A kind record (R75). -/
def kindRerank (k : Bytes) : Nat := u8 k 1
def kindWiden (k : Bytes) : Bool := u8 k 2 == 1
def kindQueries (k : Bytes) : Nat := u8 k 3
def kindK (k : Bytes) : Nat := u16 k 4
def kindBeam (k : Bytes) : Nat := u16 k 6
def kindVisits (k : Bytes) : Nat := u32 k 8
def kindHops (k : Bytes) : Nat := u32 k 12
def kindRerankMax (k : Bytes) : Nat := u16 k 16
def kindShards (k : Bytes) : Nat := u8 k 18
def kindSegs (k : Bytes) : Nat := u8 k 19
def kindDelta (k : Bytes) : Nat := u32 k 20
def kindEnum (k : Bytes) : Nat := u32 k 24
def kindDim (k : Bytes) : Nat := u16 k 28
def kindTerms (k : Bytes) : Nat := u8 k 30
def kindLifetime (k : Bytes) : Nat := u32 k 32

/-- The kinds of a plan's search programme. -/
def Plan.kinds (p : Plan) : List Bytes :=
  match p.secs.find? fun x => x.typ == 8 with
  | none => []
  | some x =>
    let b := p.image.drop x.off
    (List.range (u16 b 6)).map fun k => sl b (64 + 64 * k) 64

/-- The instructions of each tensor program of a plan (R189). -/
def Plan.programs (p : Plan) : List Bytes :=
  match p.secs.find? fun x => x.typ == 7 with
  | none => []
  | some x =>
    let b := p.image.drop x.off
    (List.range (u16 b 6)).map fun k => sl b (u64 b (64 + 16 * k + 8)) (32 * u32 b (64 + 16 * k))

/-- An instruction of 32 bytes (R189). -/
def tstepOf (draft : Bool) (b : Bytes) : TStep :=
  ⟨draft, u16 b 0, ⟨u8 b 2, u8 b 3, u8 b 4, u8 b 5, u32 b 8, u32 b 12, u32 b 16, u32 b 20, u32 b 24, u32 b 28⟩⟩

/-- The one search kind of the Seedling plan (R383). -/
def seedlingKind : Bytes :=
  [0x00, 0x00, 0x00, 0x01] ++ leBytes 2 64 ++ leBytes 2 64 ++ leBytes 4 8192 ++ leBytes 4 512 ++ leBytes 2 256 ++
  leBytes 1 16 ++ leBytes 1 64 ++ leBytes 4 65536 ++ leBytes 4 65536 ++ leBytes 2 4096 ++ leBytes 1 8 ++ [0x00] ++
  leBytes 4 256 ++ zeros 28

/-- The plan of the active set that admission follows: the tier of R33, or the set's first. -/
def State.admPlan (s : State) : Option Plan :=
  s.step.plan.bind fun ps => (ps.plans.find? fun p => p.tier == s.step.admTier) <|> ps.plans.head?

/-- The plan that runs: that of its tier, which a stretched step keeps (R34). -/
def State.tierPlan (s : State) : Option Plan :=
  s.step.plan.bind fun ps => (ps.plans.find? fun p => p.tier == s.step.planTier) <|> ps.plans.head?

/-- The program of the active set that an image's PROGRAM_DIGEST names (R186, R189). -/
def State.programOf (s : State) (draft : Bool) (img : Bytes) : List TStep :=
  if img.isEmpty then [] else
  (((((s.admPlan).map Plan.programs).getD []).find? fun b => digest b == sl img 32 32).map fun b => (splitAll 32 b).map (tstepOf draft)).getD []

/-- The active set's kinds and its MAX_LIFETIME_STEPS (R29, R383). -/
def State.kinds (s : State) : List Bytes :=
  if s.step.seedling then [seedlingKind] else ((s.admPlan).map Plan.kinds).getD []
def State.lifetime (s : State) : Nat :=
  if s.step.seedling then 256 else ((s.admPlan).map (·.lifetime)).getD 0

/-- Whether a partition admits (R351): it neither drains for a switch nor waits for a scrub. -/
def State.partOpen (s : State) (p : Nat) : Bool :=
  match mget s.parts p with
  | none => true
  | some x => x.scrub.isNone && (x.next.map fun w => decide (s.step.number + s.lifetime < w.at_)).getD true

/-- The largest MAX_DELTA and MAX_SEGMENTS among the active set's kinds (R75, R145); generation kinds take no part. -/
def State.maxDelta (s : State) : Nat := maxNat ((s.kinds.filter fun k => kindQueries k != 0).map kindDelta)
def State.maxSegs (s : State) : Nat := maxNat ((s.kinds.filter fun k => kindQueries k != 0).map kindSegs)

/-- The step template in force (R25). -/
def State.template (s : State) : Nat :=
  ((s.tierPlan).map fun p => (s.step.number - s.step.activated) % max p.period 1).getD 0

/-- The digest of the active set. -/
def State.planDigest (s : State) : Bytes := if s.step.seedling then s.live 0xC020 1 else ((s.step.plan).map (·.digest)).getD (zeros 32)

/-- A maintenance slice (R237). -/
structure Slice where
  template : Nat
  plot     : Nat
  typ      : Nat
  start    : Nat
  len      : Nat
  cap      : Nat
  target   : Nat
  params   : Nat
  deriving DecidableEq, Repr

def sliceOf (e : Nat) : Slice :=
  ⟨bitsOf e 255 244, bitsOf e 243 240, bitsOf e 239 232, bitsOf e 231 216, bitsOf e 215 200, bitsOf e 191 160,
   bitsOf e 159 128, bitsOf e 127 0⟩

def Plan.slices (p : Plan) : List Slice := (p.entries 6 32).map sliceOf

/-- Whether a plot takes its planned slots: it is in service, and belongs to a partition that no scrub occupies (R348, R353, R393).  The entries
of flash slices name no plot (R270). -/
def State.plotServes (s : State) (p : Nat) : Bool :=
  bit s.node.plots p && (match s.partOfPlot p with
    | none => false
    | some q => (mgetD s.parts q PartSt.reset).scrub.isNone)
def State.sliceServes (s : State) (x : Slice) : Bool := decide (0x20 ≤ x.typ) || s.plotServes x.plot

/-- The slice that a command names, if it is of a type and of the step's template. -/
def State.sliceAt (s : State) (idx typ : Nat) : Option Slice :=
  (((s.tierPlan).map Plan.slices).getD [])[idx]?.bind fun x => if x.typ = typ ∧ x.template = s.template ∧ s.sliceServes x then some x else none

/-- Whether a plot has a slice of a type in the step's template (R237); the Seedling set's slices are the firmware's own (log 179). -/
def State.hasSlice (s : State) (plot typ : Nat) : Bool :=
  s.plotServes plot && (s.step.seedling || (((s.tierPlan).map Plan.slices).getD []).any fun x =>
    x.typ == typ && x.plot == plot && x.template == s.template)

/-- The slices of the step's template that a test picks, with their places in the section. -/
def State.slicesNow (s : State) (f : Slice → Bool) : List (Nat × Slice) :=
  ((((s.tierPlan).map Plan.slices).getD []).zipIdx.filter fun e => e.1.template == s.template && f e.1 && s.sliceServes e.1).map fun e => (e.2, e.1)

/-- What the slices that a test picks may still do in this step: their CAPACITY less what has run in them (R237). -/
def State.room (s : State) (f : Slice → Bool) : Nat :=
  sumNat ((s.slicesNow f).map fun e => e.2.cap - mgetD s.step.used e.1 0)

/-- How much of an amount the slices that a test picks may still do; Seedling service has the firmware's own slices, whose CAPACITY the
spec does not give (log 179). -/
def State.roomFor (s : State) (f : Slice → Bool) (n : Nat) : Nat := if s.step.seedling then n else min n (s.room f)

/-- Whether the slices of the step have room for an amount; an amount of 0 needs a slice all the same. -/
def State.fits (s : State) (f : Slice → Bool) (n : Nat) : Bool :=
  s.step.seedling || (!(s.slicesNow f).isEmpty && decide (n ≤ s.room f))

/-- Charge an amount to slices, in their order. -/
def chargeSlices : List (Nat × Slice) → Nat → List (Nat × Nat) → List (Nat × Nat)
  | [], _, u => u
  | (k, x) :: rest, n, u =>
    let m := min n (x.cap - mgetD u k 0)
    chargeSlices rest (n - m) (if m = 0 then u else mupd u k 0 (· + m))

/-- Run an amount in the slices that a test picks. -/
def State.useRoom (s : State) (f : Slice → Bool) (n : Nat) : State :=
  { s with step := { s.step with used := chargeSlices (s.slicesNow f) n s.step.used } }

/-- The slices of a type on a plot. -/
def onPlot (plot typ : Nat) (x : Slice) : Bool := x.typ == typ && x.plot == plot

/-- Whether a plan set holds audit scan slices (R127). -/
def PlanSet.hasAudit (ps : PlanSet) : Bool := ps.plans.any fun p => p.slices.any fun x => x.typ == 4
/-- Whether the active set holds audit scan slices (R127); those of the Seedling set are the firmware's own (R383, log 158). -/
def State.hasAudit (s : State) : Bool :=
  if s.step.seedling then Config.seedlingAudit else ((s.step.plan).map PlanSet.hasAudit).getD false

/-- An engine slot (R30). -/
structure EngSlot where
  template : Nat
  plot     : Nat
  rowType  : Nat
  rowIndex : Nat
  start    : Nat
  len      : Nat
  batch    : Nat
  opcode   : Nat
  ref      : Nat
  deriving DecidableEq, Repr

def engSlotOf (e : Nat) : EngSlot :=
  ⟨bitsOf e 127 116, bitsOf e 115 112, bitsOf e 111 108, bitsOf e 107 102, bitsOf e 101 86, bitsOf e 85 70,
   bitsOf e 69 60, bitsOf e 59 44, bitsOf e 43 0⟩

def Plan.engines (p : Plan) : List EngSlot := (p.entries 1 16).map engSlotOf

/-- A plan image as the plan store holds it (R29). -/
def parsePlan (b : Bytes) : Plan :=
  { image := b, tier := u8 b 6, stepNs := u32 b 8, period := u32 b 12, lifetime := u32 b 48, digest := sl b 64 32,
    secs := (List.range (min (u32 b 36) 16)).map fun k =>
      ⟨u16 b (128 + 16 * k), u32 b (132 + 16 * k), u64 b (136 + 16 * k)⟩ }

/-- The capacity of an admission slot (R169): how often it admits within the set's lifetime. -/
def Plan.slotCapacity (p : Plan) (a : AdmSlot) : Nat :=
  ((p.slots.filter fun x => x.plot == a.plot && x.typ == a.typ && x.idx == a.idx).length) * ceilDiv p.lifetime (max p.period 1)

end Sys2Proof.Machine
end

