-- ==== Sys2Proof/Machine/Weights.lean ====
section
/-! DEFINITION. The tensors of a model image (R177, R178, R186, R187), the records of tilling commands (R251), and what a TILLER tensor's
weights are in the banks (R257, R258). -/

namespace Sys2Proof.Machine

/-! ### Formats (R177, R178) -/

/-- Integer formats; the code 0x10 stands for INT32, which buffers hold after a bypass. -/
def isIntFmt (f : Nat) : Bool := f == 0 || f == 1 || f == 16
def isMxFmt (f : Nat) : Bool := f == 5 || f == 6 || f == 7
def fmtBits (f : Nat) : Nat := if f = 1 ∨ f = 7 then 4 else if f = 4 ∨ f = 8 then 16 else if f = 9 ∨ f = 16 then 32 else 8
def fltFmt (f : Nat) : FFmt :=
  if f = 2 ∨ f = 5 then e4m3 else if f = 3 ∨ f = 6 then e5m2 else if f = 4 then bf16 else if f = 7 then e2m1
  else if f = 8 then fp16 else fp32

/-- The exponent of an MX element's largest power of two (R182). -/
def mxE (f : Nat) : Int := if f = 5 then 8 else if f = 6 then 15 else 2

/-- An E8M0 block scale. -/
def e8m0 (e : Nat) : FV := if e = 255 then .nan else fvPow2 ((e : Int) - 127)

def fvInt (i : Int) : FV := .fin (i < 0) i.natAbs 1

/-- Elements packed in bytes, 4-bit elements two to a byte, the lower nibble first. -/
def unpackElems (f n : Nat) (b : Bytes) : List Nat :=
  if fmtBits f = 4 then (b.flatMap fun x => [x.toNat % 16, x.toNat / 16]).take n
  else (splitAll (fmtBits f / 8) b).map leNat |>.take n

/-- A row of elements as integers, and as exact values with their block scales. -/
def rowInts (f : Nat) (ps : List Nat) : List Int := ps.map (sInt (fmtBits f))
def rowVals (f : Nat) (ps sc : List Nat) : List FV :=
  if isIntFmt f then (rowInts f ps).map fvInt
  else if isMxFmt f then ps.zipIdx.map fun e => fvMul (fdec (fltFmt f) e.1) (e8m0 (sc.getD (e.2 / 32) 127))
  else ps.map (fdec (fltFmt f))

/-- Row i of a buffer as values, and as FP32 patterns. -/
def Buf.vals (b : Buf) (i : Nat) : List FV := rowVals b.fmt (b.rows.getD i []) (b.scales.getD i [])
def Buf.f32 (b : Buf) (i : Nat) : List Nat := (b.vals i).map (fenc fp32 false)

/-! ### Tensors of an image (R186, R187) -/

structure Tensor where
  id    : Nat
  fmt   : Nat
  flags : Nat
  k     : Nat
  n     : Nat
  off   : Nat
  bytes : Nat
  deriving DecidableEq, Repr

def tensorAt (img : Bytes) (i : Nat) : Tensor :=
  let o := 128 + 32 * i
  ⟨u32 img o, u8 img (o + 4), u8 img (o + 5), u32 img (o + 8), u32 img (o + 12), u64 img (o + 16), u64 img (o + 24)⟩
def imageTensors (img : Bytes) : List Tensor := if img.isEmpty then [] else (List.range (u32 img 8)).map (tensorAt img)

/-- The table references of an image (R186): a table's number and its TABLE_DIGEST. -/
def imageTables (img : Bytes) : List (Nat × Bytes) :=
  let at_ := 128 + 32 * u32 img 8
  (List.range (u16 img 12)).map fun i => (u16 img (at_ + 40 * i), sl img (at_ + 40 * i + 8) 32)

/-- The parts of a tensor: the bytes of its elements, block scales, rescale table and check vector, each padded to 64. -/
def pad64 (n : Nat) : Nat := 64 * ceilDiv n 64
def Tensor.elemBytes (t : Tensor) : Nat := pad64 (ceilDiv (t.k * t.n * fmtBits t.fmt) 8)
def Tensor.scaleBytes (t : Tensor) : Nat := if isMxFmt t.fmt then pad64 (t.n * ceilDiv t.k 32) else 0
def Tensor.regBytes (t : Tensor) : Nat := if bit t.flags 0 then pad64 (8 * t.n) else 0
def Tensor.checkBytes (t : Tensor) : Nat := if bit t.flags 1 then pad64 (8 * t.k) else 0

/-- The elements of channel j, and its block scales. -/
def Tensor.channel (t : Tensor) (img : Bytes) (j : Nat) : List Nat :=
  let b := fmtBits t.fmt
  if b = 4 then (List.range t.k).map fun k =>
      let i := j * t.k + k
      u8 img (t.off + i / 2) / (if i % 2 = 0 then 1 else 16) % 16
  else unpackElems t.fmt t.k (sl img (t.off + j * t.k * (b / 8)) (t.k * (b / 8)))
def Tensor.chScales (t : Tensor) (img : Bytes) (j : Nat) : List Nat :=
  if isMxFmt t.fmt then
    let n := ceilDiv t.k 32
    (sl img (t.off + t.elemBytes + j * n) n).map (·.toNat)
  else []

/-- Register j of a tensor's rescale table. -/
def Tensor.reg (t : Tensor) (img : Bytes) (j : Nat) : Nat :=
  if bit t.flags 0 ∧ j < t.n then u64 img (t.off + t.elemBytes + t.scaleBytes + 8 * j) else 0

/-- A tensor as a buffer, one row per channel. -/
def Tensor.buf (t : Tensor) (img : Bytes) : Buf :=
  ⟨t.fmt, [], (List.range t.n).map (t.channel img), (List.range t.n).map (t.chScales img)⟩

/-! ### Rows and the records of commands (R243, R251) -/

/-- The class of a row (R243): 0 = ZERO, 1 = ONE, 2 = COMPUTE, 3 = SCRATCH, 4 = DATA. -/
def rowClass (r : Nat) : Nat :=
  let x := r % 512
  if x = 0 then 0 else if x = 1 then 1 else if x < 8 then 2 else if x < 16 then 3 else 4
def isWork (r : Nat) : Bool := rowClass r == 2 || rowClass r == 3

def groupKey (g : GroupId) : Nat := g.stack * 128 + g.gamma
def rBank0 (r : Bytes) : Nat := u8 r 4
def rBanks (r : Bytes) : Nat := u8 r 5
def rA (r : Bytes) : Nat := u16 r 8
def rB (r : Bytes) : Nat := u16 r 10
def rDst (r : Bytes) : Nat := u16 r 12
def rElem (r : Bytes) : Nat := u8 r 14
def rFunc (r : Bytes) : Nat := u8 r 15
def rK (r : Bytes) : Nat := u32 r 16
def rCh (r : Bytes) : Nat := u16 r 20
def rVec (r : Bytes) : Nat := u8 r 22
def rFmt (r : Bytes) : Nat := u8 r 23
def bankList (r : Bytes) : List Nat := (List.range (rBanks r)).map (rBank0 r + ·)

/-- The DATA rows from a row on, in ascending order. -/
def dataRows (r : Nat) : List Nat := ((List.range (4096 - r)).map (r + ·)).filter fun x => rowClass x == 4

/-- The bytes and rows of a channel's record in its bank (R257). -/
def weightBytes (fmt k : Nat) : Nat := if fmt = 0 then k else ceilDiv k 2 + ceilDiv (ceilDiv k 32) 4
def weightRows (fmt k : Nat) : Nat := ceilDiv (weightBytes fmt k) 1024

/-! ### Weights in the banks (R257, R258) -/

/-- Twice the E2M1 value of a nibble. -/
def e2m1Twice (n : Nat) : Int :=
  let m : Int := ([0, 1, 2, 3, 4, 6, 8, 12] : List Int).getD (n % 8) 0
  if 8 ≤ n then -m else m

/-- The integer weights of a channel's in-bank record. -/
def weightsOf (fmt k : Nat) (b : Bytes) : List Int :=
  if fmt = 0 then (b.take k).map (·.toInt)
  else (List.range k).map fun i =>
    let n := (u8 b (i / 2) / (if i % 2 = 0 then 1 else 16)) % 16
    let blk := i / 32
    let sh := u8 b (ceilDiv k 2 + blk / 4) / 4 ^ (blk % 4) % 4
    e2m1Twice n * 2 ^ sh

/-- The block scales of a channel's blocks that hold a non-zero element, and their least. -/
def Tensor.liveScales (t : Tensor) (img : Bytes) (j : Nat) : List Nat :=
  let c := t.channel img j
  ((t.chScales img j).zipIdx.filter fun e => ((c.drop (32 * e.2)).take 32).any fun x => x % 8 != 0).map (·.1)

/-- A channel's in-bank record (R257): INT8 elements as they are; MXFP4 elements two to a byte, then the shift codes four to a byte, where a
block of zeros takes 0.  Padded to whole rows. -/
def Tensor.record (t : Tensor) (img : Bytes) (j : Nat) : Bytes :=
  let c := t.channel img j
  if t.fmt = 0 then padTo (1024 * weightRows 0 t.k) (c.map (BitVec.ofNat 8))
  else
    let least := minNat 255 (t.liveScales img j)
    let shift := fun (e : Nat × Nat) => if ((c.drop (32 * e.2)).take 32).any (fun x => x % 8 != 0) then (e.1 - least) % 4 else 0
    let pack := fun (w n : Nat) (l : List Nat) => (groupsOf n l).map fun x => BitVec.ofNat 8 (sumNat (x.zipIdx.map fun e => e.1 * w ^ e.2))
    padTo (1024 * weightRows 1 t.k) (pack 16 2 c ++ pack 4 4 ((t.chScales img j).zipIdx.map shift))

/-- The column sums of weights of length k: for each input, the sum over the channels (R125, R258). -/
def columnSums (k : Nat) (ws : List (List Int)) : List Int :=
  ws.foldl (fun a w => (a.zip w).map fun p => p.1 + p.2) (List.replicate k 0)

/-- The rows of a block in its banks, and the rows of its column sums in its first bank (R258). -/
def blockRows (r : Bytes) : List Nat :=
  (dataRows (u16 r 24)).take (ceilDiv (rCh r) (rBanks r) * weightRows (rFmt r) (rK r))
def sumRows (r : Bytes) : List Nat := (dataRows (u16 r 26)).take (ceilDiv (8 * rK r) 1024)

/-- Whether a row is one of a block's weight rows or column-sum rows. -/
def inBlock (r : Bytes) (bank row : Nat) : Bool :=
  ((bankList r).contains bank && (blockRows r).contains row) || (bank == rBank0 r && (sumRows r).contains row)

/-- Whether two blocks share a row of a bank; and the slots of the banks below `used` that a block takes (R254). -/
def blocksMeet (a b : Bytes) : Bool :=
  ((bankList b).any fun k => (blockRows b).any (inBlock a k)) || (sumRows b).any (inBlock a (rBank0 b))
def rowSlot (r : Nat) : Nat := r / 512 * 248 + (r % 512 - 16) / 2
def blockSlots (used : Nat) (r : Bytes) : List Nat :=
  (if rBank0 r < used then blockRows r ++ sumRows r else []).map rowSlot

/-- The blocks of a TILLER tensor over the groups of a partition's plots (R258): group, first channel and channels. -/
def tensorBlocks (n : Nat) (plots : List Nat) (groups : Nat) : List (GroupId × Nat × Nat) :=
  let all := plots.length * groups
  let cb := ceilDiv n (max 1 all)
  ((List.range all).filter fun b => decide (b * cb < n)).map fun b =>
    (⟨plots.getD (b / groups) 0, b % groups⟩, b * cb, min cb (n - b * cb))

end Sys2Proof.Machine
end

