-- ==== Sys2Proof/Machine/Window.lean ====
section
/-! DEFINITION. The tiered window and the SRAM areas of a plot: geometry and allocation (R227 to R231, R195, R196). -/

namespace Sys2Proof.Machine

/-! ### Geometry (R227, R229, R230) -/

/-- W, the window home area of one stack. -/
def State.homeBytes (s : State) : Nat := 68719476736 - 21474836480 * s.actN 0x6010 1

/-- Window pages of 64 KiB per stack, the home stack of a page, and the first page of a stack that the node allocates. -/
def State.homePages (s : State) : Nat := s.homeBytes / 65536
def State.pageHome (s : State) (p : Nat) : Nat := p / max s.homePages 1
def State.firstPage (s : State) (plot : Nat) : Nat := plot * s.homePages + s.actN 0x6010 4 * 16

/-- SRAM_FRAMES for a role's weight region and pinned area, negative where they do not fit (R229). -/
def weightMib (role : Nat) : Nat := if role = 0 then 256 else if role = 1 then 1536 else 3072
def framesFor (role pinned : Nat) : Int := (3328 - (weightMib role : Int) - (pinned : Int)) * 16

/-- The reserved area of a stack (R228): each structure's STACK_OFFSET and size, in the order of the table.  Of what is kept for the whole
node a stack holds one sixteenth: the replay copies, the log buffer, the rings, the flash map and the cache pool are counted per stack or
shared out so. -/
def reservedAreas : List (Nat × Nat) :=
  [(0x000000000, 0x2000000), (0x002000000, 0x1000000), (0x003000000, 0x1400000), (0x004400000, 0x10000000), (0x014400000, 0x3C00000),
   (0x018000000, 0x30000000), (0x048000000, 0x38000000), (0x080000000, 0x40000000), (0x0C0000000, 0x100000000),
   (0x1C0000000, 0x40000000), (0x200000000, 0x200000000)]
def reservedArea (k : Nat) : Nat × Nat := reservedAreas.getD k (0, 0)

/-! ### The allocator (R231) -/

/-- The pages that a structure holds, ascending. -/
def State.pagesOf (s : State) (kind a b : Nat) : List Nat := (s.tier.alloc.filter fun p => p.2 == (kind, a, b)).map (·.1)

/-- The plot that holds the codes of a segment or a delta, as placed; by its number where it has no page yet (R101, R170, R231). -/
def State.codesPlot (s : State) (slot n : Nat) : Nat :=
  match (s.pagesOf 0 slot n ++ s.pagesOf 1 slot n).head? with
  | some p => s.pageHome p
  | none => n % 16

/-- The lowest free pages of a plot's home stack, at most `n` of them. -/
def State.freePages (s : State) (plot n : Nat) : List Nat :=
  let lo := s.firstPage plot
  let hi := (plot + 1) * s.homePages
  let used := (s.tier.alloc.filter fun p => decide (lo ≤ p.1) && decide (p.1 < hi)).map (·.1)
  (((List.range (used.length + n)).map (lo + ·)).filter fun p => !used.contains p && decide (p < hi)).take n

/-- Give a structure `n` pages in all on a plot, or none where they are not free. -/
def State.allocPages (s : State) (plot kind a b n : Nat) : Option State :=
  let miss := n - (s.pagesOf kind a b).length
  let ps := s.freePages plot miss
  if ps.length < miss then none
  else some { s with tier := { s.tier with alloc := ps.foldl (fun m p => mput m p (kind, a, b)) s.tier.alloc } }

/-- Count the frames that are dropped and the promotions that are abandoned for which a test holds (R236, log 205). -/
def State.countDropped (s : State) (gone : Nat → Bool) : State :=
  (s.countUp 0x6011 2 (s.tier.frames.filter gone).length).countUp 0x6011 3 (s.tier.promos.filter fun q => gone q.page).length

/-- Release the pages for which `p` holds, with their frames, promotions and counts (R231, R236). -/
def State.releasePages (s : State) (p : Nat × Nat × Nat → Bool) : State :=
  let gone := (s.tier.alloc.filter fun e => p e.2).map (·.1)
  let keep := fun x => !gone.contains x
  let s1 := s.countDropped gone.contains
  { s1 with tier := { s1.tier with
      alloc := s.tier.alloc.filter (fun e => !p e.2), counts := s.tier.counts.filter (fun e => keep e.1),
      frames := s.tier.frames.filter keep, demote := s.tier.demote.filter keep,
      promos := s.tier.promos.filter fun q => keep q.page } }

/-! ### What segments, deltas and embedding tables take -/

def pages64 (n : Nat) : Nat := ceilDiv n 65536

/-- The window pages of a segment's sections (R61), the pages of its TOMB_USN array, and those of mirrored passages. -/
def segWinPages (i : Bytes) : Nat :=
  sumNat (([1, 3, 7, 8, 12] ++ if segMirrored i then [11] else []).map fun t => pages64 (segSec i t).length)
def segTombPages (i : Bytes) : Nat := pages64 (8 * segVc i)
def segKvPages64 (i : Bytes) : Nat := pages64 (segSec i 13).length

/-- The pinned bytes of a segment: its pinned sections and TOMB_BITS (R61, R64). -/
def segPinned (i : Bytes) : Nat :=
  16384 + sumNat ([2, 4, 5, 6, 9].map fun t => (segSec i t).length) + ceilDiv (segVc i) 8

/-- A row record's stride in an embedding table (R195), its row count and its bytes. -/
def embRows (d : Bytes) : Nat := u32 d 8
def embWidth (d : Bytes) : Nat := u16 d 12
def embFmt (d : Bytes) : Nat := u8 d 4
def embOpt (d : Bytes) : Nat := u8 d 5
def embSharded (d : Bytes) : Bool := u8 d 6 == 1
def embTrainable (d : Bytes) : Bool := bit (u8 d 7) 0
def valBytes (fmt : Nat) : Nat := if fmt = 4 then 2 else if fmt = 9 then 4 else 1
def embStride (d : Bytes) : Nat :=
  let w := embWidth d
  64 * ceilDiv (32 + w * valBytes (embFmt d) + (if embOpt d = 1 then 4 * w else if embOpt d = 2 then 8 * w else 0)) 64
def embBytes (d : Bytes) : Nat := embRows d * embStride d

/-- A row record of an embedding table (R195): the first four bytes are a scale in an INT8 table, else reserved. -/
def rowBytes (d : Bytes) (r : EmbRow) : Bytes :=
  padTo (embStride d) (leBytes 4 r.scale ++ leBytes 4 r.applied ++ leBytes 8 r.last ++ leBytes 4 r.b1p ++ leBytes 4 r.b2p ++ zeros 8 ++
    r.vals.flatMap (leBytes (valBytes (embFmt d))) ++ r.acc.flatMap (leBytes 4) ++ r.var.flatMap (leBytes 4))
def embShardLog (d : Bytes) : Nat := u8 d 14

/-- The pinned bytes that a plot holds: segments and deltas homed there, by segment number, and replicated tables. -/
def State.pinnedUsed (s : State) (plot : Nat) : Nat :=
  sumNat (s.shards.map fun e =>
    sumNat ((e.2.segs.filter fun g => g.1 % 16 == plot && g.2.loaded).map fun g => segPinned g.2.image) +
    sumNat ((e.2.deltas.filter fun d => d.1 % 16 == plot).map fun d => ceilDiv d.2.recs.length 8)) +
  sumNat ((s.embs.filter fun t => !embSharded t.2.desc).map fun t => embBytes t.2.desc)

/-- The pinned area in force, in bytes, and the frames of a plot in force. -/
def State.pinnedBytes (s : State) : Nat := 1048576 * s.actN 0x6010 3
def State.frames (s : State) : Nat := s.liveN 0x6010 5

/-- Tilling groups per stack (R242), and the base slot that a segment's bitmaps take in the banks of its plot's groups, beside other bitmaps,
TILLER weights and column sums (R254). -/
def State.tillGroups (s : State) : Nat := 64 * s.actN 0x6010 1
def State.bitmapBase (s : State) (plot : Nat) (i : Bytes) : Option Nat :=
  let n := (segBitmapDir i).length
  let g := s.tillGroups
  let banks := ceilDiv (ceilDiv (segVc i) 8192) g
  let here := s.tier.bmaps.filter fun b => b.plot == plot
  let slots := (s.tier.places.filter fun p => p.g.stack == plot).flatMap fun p => blockSlots banks p.rec_
  if g = 0 ∨ 80 < banks then none else
  (sortBy (fun a b => decide (a < b)) (0 :: (here.map fun b => b.base + b.count) ++ slots.map (· + 1))).find? fun x =>
    decide (x + n ≤ 1984) && (here.all fun b => decide (x + n ≤ b.base) || decide (b.base + b.count ≤ x)) &&
    slots.all fun k => decide (k < x) || decide (x + n ≤ k)

/-- STATE of a tilling group (R245). -/
def State.tillState (s : State) (g : GroupId) : Nat := ((mget s.tills (g.stack * 128 + g.gamma)).map (·.st)).getD 0

/-- Give a segment's bitmaps their place, or none where they do not fit. -/
def State.placeBitmaps (s : State) (slot : Nat) (i : Bytes) : Option State :=
  let n := segNumber i
  if ¬ segBitmaps i then some s
  else (s.bitmapBase (n % 16) i).map fun b =>
    { s with tier := { s.tier with bmaps := s.tier.bmaps ++ [(⟨n % 16, slot, n, b, (segBitmapDir i).length, false⟩ : BmPlace)] } }

/-- Place a segment's window sections on its home stack (R61, R231); none where they, or its pinned bytes, do not fit. -/
def State.placeSeg (s : State) (slot : Nat) (i : Bytes) : Option State :=
  let n := segNumber i
  let plot := n % 16
  if s.pinnedBytes < s.pinnedUsed plot + segPinned i then none else
  (s.placeBitmaps slot i).bind fun s =>
  ((s.allocPages plot 0 slot n (segWinPages i)).bind fun s => s.allocPages plot 2 slot n (segTombPages i)).bind fun s =>
    if segPassage i && s.actN 0x5400 4 == 1 then s.allocPages plot 4 slot n (segKvPages64 i) else some s

/-- The check of an image against its shard: the rules of the image, and the shard's range of segment numbers (R48, R71). -/
def Shard.imageOk (h : Shard) (i : Bytes) (n : Nat) : Bool :=
  segOk i h.id n && decide (h.segBase ≤ n) && decide (n < h.segBase + h.segCount)

/-- The bytes of a delta record (R63). -/
def deltaRecBytes (c : Codebook) : Nat := 64 + 64 * ceilDiv (codeBytes c.m c.bits) 64 + 64 * ceilDiv c.dim 64
def deltaRecord (c : Codebook) (r : DRec) : Bytes :=
  leBytes 8 r.ext ++ leBytes 8 r.usn ++ padTo 32 r.attr ++ leBytes 4 r.scale ++ leBytes 4 r.sumsq ++ zeros 8 ++
    padTo (64 * ceilDiv (codeBytes c.m c.bits) 64) r.code ++ padTo (64 * ceilDiv c.dim 64) r.comps

/-- The header of a delta (R50, R63): that of a segment without an image, whose counts are those of the records written. -/
def deltaHeader (shard seg : Nat) (d : Delta) (c : Codebook) : Bytes :=
  ascii "OSEG" ++ leBytes 2 1 ++ leBytes 1 d.metric ++ leBytes 1 c.bits ++ leBytes 2 seg ++ leBytes 1 c.m ++ [0] ++ leBytes 2 c.dim ++
    zeros 2 ++ leBytes 4 shard ++ leBytes 4 d.epoch ++ leBytes 4 d.recs.length ++ zeros 4 ++
    leBytes 8 ((d.recs.head?.map (·.usn)).getD 0) ++ leBytes 8 ((d.recs.getLast?.map (·.usn)).getD 0) ++ featureLevel ++ zeros 16 ++
    padTo 32 d.cb ++ zeros 144

/-- The pages of a delta of `n` records behind its header of 256 bytes, and of its TOMB_USN array. -/
def deltaPages (c : Codebook) (n : Nat) : Nat := pages64 (256 + n * deltaRecBytes c)
def tombPages (n : Nat) : Nat := pages64 (8 * n)

/-- Grow a delta's pages to `n` records. -/
def State.growDelta (s : State) (slot seg n : Nat) (c : Codebook) : Option State :=
  (s.allocPages (seg % 16) 1 slot seg (deltaPages c n)).bind fun s => s.allocPages (seg % 16) 2 slot seg (tombPages n)

/-! ### Writes to pages (R235, R236) -/

/-- A write to a window page: into its home frame and its copy at once; a promotion whose copy it meets restarts behind the
others, and is dropped after three restarts. -/
def State.touchPage (s : State) (p : Nat) : State :=
  let t := { s.tier with wrote := if s.tier.wrote.contains p then s.tier.wrote else s.tier.wrote ++ [p] }
  match s.tier.promos.find? fun q => q.page == p && q.copied with
  | none => { s with tier := t }
  | some q =>
    let rest := t.promos.filter fun x => x.page != p
    if 3 ≤ q.restarts + 1 then (({ s with tier := { t with promos := rest } }).bump 0x6011 3 1).raise 0x6012 (locPlot (s.pageHome p)) 0
    else { s with tier := { t with promos := rest ++ [(⟨p, q.restarts + 1, false, true⟩ : Promo)] } }

/-- The page of a structure that holds its byte `off`, written. -/
def State.touchAt (s : State) (kind a b off : Nat) : State :=
  match (s.pagesOf kind a b)[off / 65536]? with
  | none => s
  | some p => s.touchPage p

end Sys2Proof.Machine
end

