-- ==== Sys2Proof/Machine/Admission.lean ====
section
/-! DEFINITION. The admission parts of the boundary phase (R25): checks of a descriptor (R76, R134, R158, R159, R217), the
table of R168, and the allocation of pools, Stamps and tags. -/

namespace Sys2Proof.Machine

/-! ### Descriptors (R158) and parameter blocks (R72) -/

def dKind (d : Bytes) : Nat := u8 d 0
def dReplayable (d : Bytes) : Bool := bit (u8 d 1) 0
def dParams (d : Bytes) : Bool := bit (u8 d 1) 1
def dStamp (d : Bytes) : Bool := bit (u8 d 1) 2
def dSlots (d : Bytes) : Nat := u16 d 2
def dCplRing (d : Bytes) : Nat := u16 d 4
def dClient (d : Bytes) : Nat := u64 d 8
def dBody (d : Bytes) : Nat := u32 d 16
def dStampBytes (d : Bytes) : Nat := u16 d 20
def dMergeBytes (d : Bytes) : Nat := u16 d 22
def dQueryBytes (d : Bytes) : Nat := u32 d 24
def dSubTag (d : Bytes) : Nat := u64 d 32

def pK (p : Bytes) : Nat := u16 p 0
def pBeam (p : Bytes) : Nat := u16 p 2
def pVisits (p : Bytes) : Nat := u32 p 4
def pHops (p : Bytes) : Nat := u32 p 8
def pRerank (p : Bytes) : Nat := u16 p 12
def pQuery (p : Bytes) : Nat := u8 p 14
def pFlags (p : Bytes) : Nat := u8 p 15
def pWiden (p : Bytes) : Bool := bit (pFlags p) 0
def pFlash (p : Bytes) : Bool := bit (pFlags p) 1
def pAudit (p : Bytes) : Bool := bit (pFlags p) 2
def pStrategy (p : Bytes) : Nat := u8 p 16
def pTerms (p : Bytes) : Nat := u8 p 17
def pModel (p : Bytes) : Nat := u16 p 18
def pEnum (p : Bytes) : Nat := u32 p 20
def pScale (p : Bytes) : Nat := u32 p 24

/-- The parameter block that the node assembles (R74). -/
def State.defaultParams (s : State) : Bytes :=
  let e := fun k => s.act 0x3010 k
  e 1 ++ e 2 ++ e 3 ++ e 4 ++ e 5 ++ e 10 ++ e 6 ++ e 7 ++ [0] ++ e 11 ++ e 8 ++ e 9 ++ zeros 132

/-- A search body cut into parameter block, Stamp, merge-source table and query bytes (R159). -/
structure SearchBody where
  params : Bytes
  stamp  : Bytes
  merge  : Bytes
  query  : Bytes

def State.searchBody (s : State) (d : Bytes) : SearchBody :=
  let b := d.drop 64
  let pb := if dParams d then 160 else 0
  { params := if dParams d then sl b 0 160 else s.defaultParams,
    stamp := sl b pb (dStampBytes d), merge := sl b (pb + dStampBytes d) (dMergeBytes d),
    query := sl b (pb + dStampBytes d + dMergeBytes d) (dQueryBytes d) }

/-- The entries of a Stamp: (SHARD_ID, EPOCH, USN) (R38). -/
def stampEntries (st : Bytes) : List (Nat × Nat × Nat) :=
  (List.range (u16 st 0)).map fun k => (u32 st (16 + 16 * k), u32 st (20 + 16 * k), u64 st (24 + 16 * k))

/-- The merge sources, one per entry; this node's own where the table is absent (R107, R159). -/
def mergeSources (m : Bytes) (ents : List (Nat × Nat × Nat)) : List MergeSrc :=
  if m.isEmpty then ents.map fun e => ⟨e.1, 0, 0xFF, 0⟩
  else (List.range ents.length).map fun k => ⟨u32 m (16 * k), u8 m (16 * k + 4), u8 m (16 * k + 5), u64 m (16 * k + 8)⟩

def MergeSrc.isLocal (m : MergeSrc) : Bool := m.port == 0xFF

/-- The first entry that breaks a rule of R107; of two that disagree on a node's index, the later. -/
def mergeOk (m : Bytes) (ents : List (Nat × Nat × Nat)) : Option Nat :=
  if m.isEmpty then none else
  let srcs := mergeSources m ents
  ((srcs.zip ents).zipIdx.find? fun x =>
    let a := x.1.1
    !(a.shard == x.1.2.1 && decide (a.node ≤ 63) &&
      (a.isLocal && a.node == 0 && a.peer == 0 || decide (a.port ≤ 15) && a.peer != 0) &&
      (srcs.take x.2).all fun b => b.peer != a.peer || b.node == a.node)).map (·.2)

/-- The index of the first key that does not lie above the key before it; the list's length when there is none. -/
def firstFall : List Nat → Nat
  | a :: b :: rest => if a < b then firstFall (b :: rest) + 1 else 1
  | l => l.length

/-- The bytes that the parts of a search body take (R159). -/
def partBytes (d : Bytes) : Nat := (if dParams d then 160 else 0) + dStampBytes d + dMergeBytes d + dQueryBytes d

/-- The first field that breaks R159, as its offset in the descriptor. A Stamp whose entries do not rise is named by the first
entry that does not lie above the one before it.  DESIGN CHOICE (log 152): a sub-search, which no ring carries, breaks the rule too
where its parts run past BODY_BYTES; the spec names no case for it, and offset 24 is named. -/
def State.bodyBreach (s : State) (part : Nat) (d : Bytes) : Option Nat :=
  let search := dKind d == 1 || dKind d == 5
  let st := (s.searchBody d).stamp
  let n := u16 st 0
  if search ∧ (dStampBytes d < 16 ∨ dStampBytes d ≠ 16 + 16 * n) then some 20
  else if search ∧ ¬ (1 ≤ n ∧ n ≤ 255) then some (64 + if dParams d then 160 else 0)
  else if search ∧ ¬ strictlyRising ((stampEntries st).map (·.1)) then
    some (80 + (if dParams d then 160 else 0) + 16 * firstFall ((stampEntries st).map (·.1)))
  else if search ∧ dMergeBytes d ≠ 0 ∧ dMergeBytes d ≠ 16 * n then some 22
  else if dKind d = 5 ∧ dBody d < partBytes d then some 24
  else if ¬ search ∧ dStampBytes d ≠ 0 then some 20
  else if ¬ search ∧ dMergeBytes d ≠ 0 then some 22
  else if ¬ search ∧ dQueryBytes d ≠ 0 then some 24
  else if dKind d ≠ 5 ∧ dSubTag d ≠ 0 then some 32
  else if dKind d = 2 ∧ u64 d (64 + 56) ≠ dClient d then some 8
  else if dKind d = 4 ∧ (match s.slotOf (u32 d 64) with
      | some i => s.partOfSlot i == some part && ((mget s.shards i).map (·.owner)).getD false
      | none => false) = false then some 64
  else none

/-! ### Shards under a Stamp (R39, R76) -/

/-- The current epoch of a shard. -/
def Shard.cur (h : Shard) : Epoch :=
  h.epochs.getLast?.getD ⟨0, 0, none, [], [], zeros 32, 0, [], none⟩

def Shard.epoch? (h : Shard) (e : Nat) : Option Epoch := h.epochs.find? fun x => x.num == e

/-- The records of an epoch's deltas, frozen before open, that lie at or below a USN (R83, R138): (segment, offset, record). -/
def Shard.deltaRecs (h : Shard) (e : Epoch) (u : Nat) : List (Nat × Nat × DRec) :=
  e.deltas.flatMap fun n => match mget h.deltas n with
    | none => []
    | some d => (d.recs.zipIdx.filter fun r => decide (r.1.usn ≤ u)).map fun r => (n, r.2, r.1)

def Shard.deltaCount (h : Shard) : Nat := sumNat (h.cur.deltas.map fun n => ((mget h.deltas n).map (·.recs.length)).getD 0)

/-- The records of the open delta, which holds at most 16,777,216 (R63). -/
def Shard.openCount (h : Shard) : Nat := ((h.cur.deltas.getLast?.bind (mget h.deltas)).map (·.recs.length)).getD 0

/-- Whether every segment of an epoch is loaded (R383). -/
def Shard.allLoaded (h : Shard) (e : Epoch) : Bool := e.sealed.all fun n => ((mget h.segs n).map (·.loaded)).getD false

/-- Whether an open or frozen delta of the shard names a codebook the node does not hold (R379). -/
def State.cbMissing (s : State) (h : Shard) : Bool :=
  h.cur.deltas.any fun n => match mget h.deltas n with
    | some d => !(s.codebooks.any fun c => c.digest == d.cb)
    | none => false

/-- Why a Stamp entry cannot be served now: the event that the rule names (R39, R287, R379, R383, R396). -/
def State.staleEvent (s : State) (supplied : Bool) (ent : Nat × Nat × Nat) : Option Nat :=
  match (s.slotOf ent.1).bind (mget s.shards) with
  | none => none
  | some h =>
    if h.holdOut then some 0x3010
    else if s.cbMissing h then some 0xA045
    else if s.step.seedling && !h.allLoaded h.cur then some 0x3010
    else if h.state == 1 then some 0x3010
    else if h.state == 2 && !supplied then some 0x3010
    else if !supplied then none
    else match h.epoch? ent.2.1 with
      | none => if ent.2.1 < h.cur.num then some 0x3010 else some 0x3011
      | some e =>
        if ent.2.2 < e.floor then some 0x3010
        else match e.ceiling with
          | some c => if c < ent.2.2 then some 0x3010 else none
          | none => if h.vis < ent.2.2 then some 0x3011 else none

/-- A Stamp entry with the current epoch and V(h), where none was supplied (R39). -/
def State.fixEntry (s : State) (supplied : Bool) (ent : Nat × Nat × Nat) : Nat × Nat × Nat :=
  if supplied then ent else
  match (s.slotOf ent.1).bind (mget s.shards) with
  | none => ent
  | some h => (ent.1, h.cur.num, h.vis)

/-- The (METRIC, DIM) pairs of an epoch's segments and deltas (R76). -/
def State.dims (s : State) (h : Shard) (e : Epoch) : List (Nat × Nat) :=
  (e.sealed.filterMap fun n => (mget h.segs n).map fun g => (segMetric g.image, segDim g.image)) ++
  (e.deltas.filterMap fun n => (mget h.deltas n).bind fun d =>
    (s.codebooks.find? fun c => c.digest == d.cb).map fun c => (d.metric, c.dim))

/-! ### Models -/

/-- A loaded slot's active image: ROLE, OUT_DIM (R186). -/
def State.modelImage (s : State) (m : Nat) : Bytes := ((mget s.models m).map (·.image)).getD []
def State.modelRole (s : State) (m : Nat) : Nat := u8 (s.modelImage m) 6
def State.modelOut (s : State) (m : Nat) : Nat := u16 (s.modelImage m) 14
def State.modelBlocked (s : State) (m : Nat) : Bool := ((mget s.models m).map (·.blocked)).getD false
def State.modelDigest (s : State) (m : Nat) : Bytes :=
  let i := s.modelImage m
  if i.isEmpty then zeros 32 else digest i

/-! ### The checks of R76 -/

/-- What a search request brings to the checks, its Stamp fixed. -/
structure SearchReq where
  params : Bytes
  query  : Bytes
  ents   : List (Nat × Nat × Nat)
  srcs   : List MergeSrc

/-- The local entries of a request, by position: the entry and its source. -/
def SearchReq.locals (r : SearchReq) : List (((Nat × Nat × Nat) × MergeSrc) × Nat) :=
  (r.ents.zip r.srcs).zipIdx.filter fun x => x.1.2.isLocal

/-- The local shards of a request with their epochs, as far as the node holds them. -/
def State.reqEpochs (s : State) (r : SearchReq) : List (Nat × Shard × Epoch × Nat) :=
  r.locals.filterMap fun x =>
    ((s.slotOf x.1.1.1).bind (mget s.shards)).bind fun h =>
      (h.epoch? x.1.1.2.1).map fun e => (x.2, h, e, x.1.1.2.2)

/-- A request's DIM; where it names no shard of this node, what its query or its encoder says. -/
def State.reqDim (s : State) (r : SearchReq) : Nat :=
  (((s.reqEpochs r).flatMap fun x => s.dims x.2.1 x.2.2.1).head?.map (·.2)).getD
    (if pQuery r.params = 0 then r.query.length / 2 else s.modelOut (pModel r.params))

/-- The first answer of a list of checks. -/
def firstSome {α : Type} (l : List (Option α)) : Option α := (l.filterMap id).head?

/-- DETAIL of EV 0x3001 (R76). -/
def naming (field rule kind item : Nat) : Nat := field + rule * 2 ^ 16 + kind * 2 ^ 24 + item * 2 ^ 32

/-- The first of a list of conditions that fails. -/
def firstOf {α : Type} : List (Bool × α) → Option α
  | [] => none
  | (ok, d) :: rest => if ok then firstOf rest else some d
def firstFail (l : List (Bool × Nat)) : Option Nat := firstOf l

/-- The range and form checks, as DETAIL.  DESIGN CHOICE (log 153): R76 does not place the check of R107 among its own; it stands
last of these. -/
def rangeFail (r : SearchReq) (mergeItem : Option Nat) : Option Nat :=
  let p := r.params
  let bad := fun f item => naming f 1 0xFF item
  let terms := paramTerms p
  let q := r.query
  firstFail ([
    (decide (1 ≤ pK p) && decide (pK p ≤ 1024), bad 0 0), (decide (1 ≤ pBeam p) && decide (pBeam p ≤ 256), bad 2 0),
    (decide (64 ≤ pVisits p) && decide (pVisits p ≤ 65536), bad 4 0),
    (decide (1 ≤ pHops p) && decide (pHops p ≤ 65536), bad 8 0),
    (decide (pK p ≤ pRerank p) && decide (pRerank p ≤ 1024), bad 12 0), (decide (pQuery p ≤ 2), bad 14 0),
    (decide (pStrategy p ≤ 2), bad 16 0), (decide (pTerms p ≤ 8), bad 17 0),
    (pQuery p != 0 || pModel p == 0, bad 18 0), (decide (pEnum p ≤ 65536), bad 20 0)] ++
    ((terms.zipIdx).map fun t => (termOk t.1, bad (32 + 16 * t.2) t.2)) ++ [
    (match fdec fp32 (pScale p) with
      | .fin neg n _ => n == 0 || !neg
      | _ => false, bad 24 0),
    ((if pQuery p = 0 then q.length % 2 == 0 &&
        (List.range (q.length / 2)).all fun j => fvFinite (fdec fp16 (u16 q (2 * j)))
      else if pQuery p = 1 then q.length % 4 == 0 && decide (q.length / 4 ≤ 4096)
      else q.length % 8 == 0 && decide (q.length / 8 ≤ 4096)), bad 0xFFFF 0),
    (mergeItem.isNone, bad 0xFFFD (mergeItem.getD 0))])

/-- The checks of model, service and dimensions, as DETAIL (R76); an epoch that the node does not hold brings none. -/
def State.placeFail (s : State) (r : SearchReq) : Option Nat :=
  let p := r.params
  let role := if pQuery p = 1 then 1 else 2
  let es := s.reqEpochs r
  let ds := es.flatMap fun x => (s.dims x.2.1 x.2.2.1).map fun d => (x.1, d)
  let d0 := (ds.head?.map (·.2)).getD (0, 0)
  let whole := decide (r.locals.length ≤ es.length) && !es.isEmpty
  firstFail ([
    (pQuery p == 0 || (s.modelRole (pModel p) == role && !s.modelBlocked (pModel p) &&
      (ds.isEmpty || s.modelOut (pModel p) == d0.2)), naming 18 3 0xFF 0)] ++
    (((r.ents.zip r.srcs).zipIdx).map fun x =>
      (!x.1.2.isLocal || (s.slotOf x.1.1.1).isSome, naming 0xFFFE 4 0xFF x.2)) ++
    [(!whole || !ds.isEmpty, naming 0xFFFC 5 0xFF 0)] ++ (ds.map fun d => (d.2 == d0, naming 0xFFFC 5 0xFF d.1)) ++
    [(ds.isEmpty || pQuery p != 0 || r.query.length == 2 * d0.2, naming 0xFFFF 1 0xFF 0)])

/-- The effective budget of a request over its shards (R81). -/
def effBudget (visits : Nat) (es : List (Nat × Shard × Epoch × Nat)) : Nat :=
  maxNat (visits :: es.map fun x =>
    (shares visits (x.2.2.1.sealed.filterMap fun n => (mget x.2.1.segs n).map fun g => segVc g.image)).1)

/-- The largest E among the segments that a strategy enumerates beyond ENUM_MAX (R88). -/
def enumNeed (p : Bytes) (es : List (Nat × Shard × Epoch × Nat)) : Nat :=
  if pStrategy p = 2 then
    maxNat (pEnum p :: es.flatMap fun x => x.2.2.1.sealed.filterMap fun n =>
      (mget x.2.1.segs n).bind fun g => estimate g.image (paramTerms p))
  else pEnum p

/-- The first condition of a kind that a request breaks, in the order of R76: (field, item). -/
def State.kindBreach (s : State) (k : Bytes) (r : SearchReq) : Option (Nat × Nat) :=
  let p := r.params
  let es := s.reqEpochs r
  let mirror0 := es.any fun x => x.2.2.1.sealed.any fun n => ((mget x.2.1.segs n).map fun g => !segMirrored g.image).getD false
  let each : (Nat × Shard × Epoch × Nat → Bool) → List (Bool × Nat × Nat) := fun f => es.map fun x => (f x, (0xFFFC, x.1))
  let wide := kindWiden k && decide (effBudget (min (4 * pVisits p) 65536) es ≤ kindVisits k) &&
    decide (min (4 * pHops p) 65536 ≤ kindHops k) && decide (min (2 * pBeam p) 256 ≤ kindBeam k) &&
    decide (min (4 * pEnum p) 65536 ≤ kindEnum k)
  firstOf ([
    (decide (pK p ≤ kindK k), (0, 0)), (decide (pBeam p ≤ kindBeam k), (2, 0)),
    (decide (effBudget (pVisits p) es ≤ kindVisits k), (4, 0)), (decide (pHops p ≤ kindHops k), (8, 0)),
    (decide (pRerank p ≤ kindRerankMax k), (12, 0)), (decide (pTerms p ≤ kindTerms k), (17, 0)),
    (decide (enumNeed p es ≤ kindEnum k), (20, 0)), (decide (r.ents.length ≤ kindShards k), (0xFFFE, 0))] ++
    each (fun x => decide (x.2.2.1.sealed.length ≤ kindSegs k)) ++
    each (fun x => decide ((x.2.1.deltaRecs x.2.2.1 x.2.2.2).length ≤ kindDelta k)) ++
    [(decide (s.reqDim r ≤ kindDim k), (0xFFFC, (es.head?.map (·.1)).getD 0)), (!pWiden p || wide, (15, 0)),
     (s.step.seedling || (kindRerank k == 1) == (pFlash p || mirror0), (15, 0))])

/-- The kind of a request, or the DETAIL of its refusal (R76). -/
def State.chooseKind (s : State) (r : SearchReq) : Nat ⊕ Nat :=
  let ks := (s.kinds.zipIdx).filter fun k => bit (kindQueries k.1) (pQuery r.params)
  match ks.find? fun k => (s.kindBreach k.1 r).isNone with
  | some k => .inl k.2
  | none => match ks with
    | [] => .inr (naming 14 2 0xFF 0)
    | k :: _ => match s.kindBreach k.1 r with
      | some (f, i) => .inr (naming f 2 k.2 i)
      | none => .inr (naming 14 2 0xFF 0)

/-- The audit conditions of R127, as DETAIL.  DESIGN CHOICE (log 154): the spec does not say when an audit begins to be pending; a
request admitted with AUDIT counts from its admission. -/
def State.auditFail (s : State) (r : SearchReq) : Option Nat :=
  let c := fun k => naming 15 6 0xFF k
  let pending := s.ledger.audits.length + (s.ledger.works.filter fun w => w.2.kind == 1 && pAudit w.2.params).length
  if pAudit r.params then
    firstFail [(r.srcs.all (·.isLocal), c 1), (s.hasAudit, c 2), (decide (pending < s.actN 0x3013 3), c 3)]
  else none

/-- Seedling service takes neither remote sources nor other query kinds (R383). -/
def State.seedlingFail (s : State) (r : SearchReq) : Option Nat :=
  if s.step.seedling ∧ ¬ r.srcs.all (·.isLocal) then some (naming 0xFFFD 2 0 0) else none

/-! ### Updates (R132 to R134, R137) -/

def uOp (d : Bytes) : Nat := u8 d 0
def uPayload (d : Bytes) : Nat := u16 d 2
def uShard (d : Bytes) : Nat := u32 d 4
def uExt (d : Bytes) : Nat := u64 d 8

/-- The codebook that a new delta or insert of a slot uses (R138, R139). -/
def State.slotCb (s : State) (i : Nat) : Option Codebook := s.codebooks.find? fun c => c.digest == s.act (0x3200 + i) 1

/-- The codebook of the shard's open delta. -/
def State.openCb (s : State) (h : Shard) : Option Codebook :=
  ((h.cur.deltas.getLast?).bind (mget h.deltas)).bind fun d => s.codebooks.find? fun c => c.digest == d.cb

/-- PAYLOAD_BYTES of an insert (R133). -/
def payloadBytes (c : Codebook) : Nat := 64 + 64 * ceilDiv (codeBytes c.m c.bits) 64 + 64 * ceilDiv c.dim 64

/-- The live handles of an EXTERNAL_ID at V(h) (R133). -/
def Shard.live (h : Shard) (ext : Nat) : List Nat := (mgetD h.dir ext []).filter fun x => (mget h.tombs x).isNone

/-- The live handles that an EXTERNAL_ID has once the updates admitted ahead have acted. -/
def State.liveAhead (s : State) (h : Shard) (ext : Nat) : List Nat :=
  let ahead := s.ledger.works.filter fun w =>
    w.2.kind == 2 && w.2.usn != 0 && w.2.acks == 0 && uShard w.2.body == h.id && uExt w.2.body == ext
  (sortBy (fun a b => decide (a.2.usn < b.2.usn)) ahead).foldl (fun l w =>
    let new_ := u40 w.2.image 24
    if uOp w.2.body = 1 then l ++ [new_] else if uOp w.2.body = 3 then [new_] else []) (h.live ext)
def State.liveCopies (s : State) (h : Shard) (ext : Nat) : Nat := (s.liveAhead h ext).length

/-- The first rule of R134 that an update breaks, with the offset of its field. -/
def State.updateFail (s : State) (b : Bytes) : Option (Nat × Nat) :=
  match s.slotOf (uShard b) with
  | none => some (4, 1)
  | some i => match mget s.shards i with
    | none => some (4, 1)
    | some h =>
      if ¬ h.owner then some (4, 1)
      else
        let ins := uOp b == 1 || uOp b == 3
        let want := if ins then (s.openCb h).map payloadBytes else some 0
        if ¬ (1 ≤ uOp b ∧ uOp b ≤ 3) then some (0, 2)
        else if ins ∧ ((s.slotCb i).isNone ∨ want.isNone) then some (4, 5)
        else if want ≠ some (uPayload b) then some (2, 2)
        else if uExt b = 0xFFFFFFFFFFFFFFFF then some (8, 3)
        else if ins ∧ ¬ fvFinite (fdec fp32 (u32 b 64)) then some (64, 3)
        else if uOp b = 1 ∧ 4 ≤ s.liveCopies h (uExt b) then some (8, 4)
        else none

/-- The length of an update's log record (R140). -/
def logLen (b : Bytes) : Nat := 64 * ceilDiv (16 + 64 + uPayload b) 64

/-- The bytes and inserts of updates that are admitted and not yet applied. -/
def State.pendingLog (s : State) : Nat := sumNat ((s.ledger.works.filter fun w => w.2.kind == 2 && w.2.usn != 0 && w.2.acks == 0).map fun w => logLen w.2.body)
def State.pendingIns (s : State) (id : Nat) : Nat :=
  (s.ledger.works.filter fun w => w.2.kind == 2 && w.2.usn != 0 && w.2.acks == 0 && uShard w.2.body == id && uOp w.2.body != 2).length

/-- The open delta of a shard: its segment number; and its next offset, as a handle (R63). -/
def Shard.open_ (h : Shard) : Option Nat := h.cur.deltas.getLast?
def Shard.nextHandle (h : Shard) : Nat :=
  match h.open_ with
  | none => noHandle
  | some n => mkHandle n (((mget h.deltas n).map (·.recs.length)).getD 0)

/-- An update descriptor with its filled fields, and its payload (R132): `gone` are the handles that it retires. -/
def fillDesc (b : Bytes) (u new_ : Nat) (gone : List Nat) : Bytes :=
  let slots := (List.range 4).flatMap fun k => leBytes 5 (gone.getD k noHandle)
  b.take 16 ++ leBytes 8 u ++ leBytes 5 (if uOp b = 2 then noHandle else new_) ++ leBytes 1 gone.length ++ zeros 2 ++ slots ++ zeros 4 ++ b.drop 56

/-- An update's descriptor as the node fills it at admission (R132), behind the updates that are admitted and not yet applied. -/
def State.fillAhead (s : State) (h : Shard) (b : Bytes) (u : Nat) : Bytes :=
  fillDesc b u (h.nextHandle + s.pendingIns h.id) (if uOp b = 1 then [] else sortNat (s.liveAhead h (uExt b)))

/-- Whether a delta or TOMB_USN array needs a page for the next insert and none is free (R231). -/
def State.deltaShort (s : State) (i : Nat) (h : Shard) : Bool :=
  match h.cur.deltas.getLast?, s.openCb h with
  | some n, some c =>
    (s.growDelta i n (((mget h.deltas n).map (·.recs.length)).getD 0 + s.pendingIns h.id + 1) c).isNone
  | _, _ => false

/-- A partner's backlog: the bytes of the shard's log beyond what it acknowledged (R142). -/
def State.backlog (s : State) (i : Nat) (p : Partner) : Nat :=
  sumNat ((s.log.recs.filter fun r => r.slot == i && decide (p.acked < r.usn)).map (·.bytes.length))

/-! ### Consuming and admitting (R168) -/

/-- Advance a ring past its head descriptor. -/
def State.consume (s : State) (r n : Nat) : State := s.modRing r fun q => { q with reqHead := (q.reqHead + n) % 2 ^ 32 }

/-- DETAIL of EV 0x3060: the field, as an offset in the update descriptor, and the case of R134 (log 155). -/
def updNaming (f : Nat × Nat) : Nat := f.1 + f.2 * 2 ^ 16

/-- Consume a descriptor without admission and complete it with a status in a one-slot completion, once the ring has a free
slot; until then it is held. -/
def State.refuseWith (s : State) (r cpl : Nat) (d : Bytes) (code : Nat) (ev : State → State) : State :=
  match mget s.rings cpl with
  | none => s
  | some q =>
    if q.freeSlots = 0 then s.raiseRun 0x4004 r (locField) none 0
    else
      let s := ev s
      (((s.consume r (dSlots d)).writeCpl cpl 0
        ⟨dKind d, false, false, mkStatus code 0, 0, dClient d, 0, 2 ^ code, 0, 0⟩ []).countStatus (dKind d) code)

/-- The same with one event. -/
def State.refuse (s : State) (r cpl : Nat) (d : Bytes) (code event loc detail : Nat) : State :=
  s.refuseWith r cpl d code fun s => s.raise event loc detail

/-- The kinds bound to a ring by the active set's request slots (R168). -/
def State.ringMask (s : State) (r : Nat) : Nat :=
  if s.step.seedling then 1 else
  ((s.admPlan).map fun p => (p.slots.filter fun a => a.typ == 0 && a.source == r).foldl (fun m a => m ||| a.mask) 0).getD 0

/-- The completion reservation in slots (R165, R217). -/
def cplSlots (kind k dim level : Nat) (audit : Bool) (gen : Nat) : Nat :=
  let q := 64 * ceilDiv dim 64
  let cmax := if level = 0 then 560 else 4848
  if kind = 1 then ceilDiv (64 + 32 * k + (240 + q) + k * cmax + (if audit then 80 + 32 * k + 32 + 64 else 0)) 64
  else if kind = 2 then 2 else if kind = 3 then ceilDiv (128 + 4 * gen) 64 else 1

/-- Allocate the pools of a request: far context, stub, reservation, and advance the ring (last row of R168). -/
def State.allocate (s : State) (slot : AdmSlot) (f : FarCtx) (w : Work) (farP : Nat) : State :=
  let tag := f.tag
  let c := lowestFree (s.ledger.fars.filter fun e => e.1 / 131072 == farP) (farP * 131072)
  let k := lowestFree (s.ledger.stubs.filter fun e => e.1 / 131072 == slot.plot) (slot.plot * 131072)
  let st : Stub := ⟨1, f.phase, f.cplRing, c, tag, f.client, f.reserved, 0xFFFF⟩
  let s := { s with ledger := { s.ledger with
    fars := mput s.ledger.fars c { f with stub := k, home := slot.plot }, stubs := mput s.ledger.stubs k st,
    works := mput s.ledger.works tag w } }
  (s.modRing f.cplRing fun q => { q with reserved := q.reserved + f.reserved }).bump 0x4021 1 1

/-- An empty near state. -/
def emptyWork (kind plot qp : Nat) (body : Bytes) : Work :=
  { kind := kind, plot := plot, walk := [], qp := qp, body := body, params := [], query := [], kindId := 0xFF,
    level := 0, supplied := false, widen := false, widened := false, short := false, merged := false, seedling := false, plan := [], model := zeros 32, orig := 0,
    subTag := 0, subPort := 0, x := none, shards := [], sel := [], final := [], status := 0, condBits := 0, replay := [],
    certSet := [], roots := [], usn := 0, mirror := false, acks := 0, gen := none, image := [], prog := [], bufs := [], lastOut := 0,
    gather := none, fetched := [] }

/-- The near state of a Stamp entry at admission. -/
def emptyEntry (slot : Nat) (e : Nat × Nat × Nat) (src : MergeSrc) : ShardWork :=
  { slot := slot, id := e.1, epoch := e.2.1, usn := e.2.2, src := src, tables := [], q := [], qScale := 0, walks := [], segs := [],
    rows := [], delta := none, plots := [], sel := [], cands := [], ranked := [], stage := 0, todo := [], result := [], status := 0,
    visited := 0, filtered := 0, pruned := 0, digest := [], certs := [] }

/-- The program of the encoder in a model slot (R192).  A ROLE 2 program begins with EMB_GATHER; one that does not is not run, and its
row is open (log 171). -/
def State.encoderProg (s : State) (m : Nat) : List TStep :=
  let p := s.programOf false (s.modelImage m)
  if s.modelRole m = 2 ∧ (p.head?.map (·.op)) ≠ some 0x20 then [] else p

/-- The near state of an admitted search. -/
def State.searchWork (s : State) (kind plot qp : Nat) (d : Bytes) (r : SearchReq) (kid : Nat) : Work :=
  let role := pQuery r.params != 0
  { emptyWork kind plot qp (d.drop 64) with
    params := r.params, query := r.query, kindId := kid, level := s.actN 0x3013 1,
    widen := pWiden r.params && s.grant 5, seedling := s.step.seedling, plan := s.planDigest,
    model := if role then s.modelDigest (pModel r.params) else zeros 32,
    image := if role then s.modelImage (pModel r.params) else [],
    prog := if role then s.encoderProg (pModel r.params) else [],
    supplied := dStamp d, subTag := dSubTag d,
    shards := (r.ents.zip r.srcs).map fun e => emptyEntry ((s.slotOf e.1.1).getD 256) e.1 e.2 }

/-- The plots that walk for a request: those that hold the codes of its segments and deltas, as placed (R170, R231). -/
def State.walkPlots (s : State) (r : SearchReq) : List Nat :=
  dedupBy id [] ((s.reqEpochs r).flatMap fun x =>
    (x.2.2.1.sealed ++ x.2.2.1.deltas).map (s.codesPlot ((s.slotOf x.2.1.id).getD 256)))

/-- The sub-searches that a search with remote sources sends, one per serving node, port and peer (R106, R107, R158).  They carry the
parameter block as posted, also for a widened pass (R92), and no merge-source table (R159). -/
def State.sendSubs (s : State) (client tag : Nat) (supplied : Bool) (r : SearchReq) : State :=
  let rem := (r.ents.zip r.srcs).filter fun e => !e.2.isLocal
  let node := fun (m : MergeSrc) => m.node + 64 * (m.port + 256 * m.peer)
  (dedupBy (fun e => node e.2) [] rem).foldl (fun s x =>
    let mine := rem.filter fun e => node e.2 == node x.2
    let st := leBytes 2 mine.length ++ zeros 14 ++ mine.flatMap fun e => leBytes 4 e.1.1 ++ leBytes 4 e.1.2.1 ++ leBytes 8 e.1.2.2
    let body := r.params ++ st ++ r.query
    let hd := leBytes 1 5 ++ leBytes 1 (2 + (if supplied then 4 else 0)) ++ leBytes 2 (1 + ceilDiv body.length 64) ++ zeros 4 ++
      leBytes 8 client ++ leBytes 4 body.length ++ leBytes 2 st.length ++ zeros 2 ++
      leBytes 4 r.query.length ++ zeros 4 ++ leBytes 8 tag ++ zeros 24
    s.sendPeer x.2.port x.2.peer 1 tag 0 (hd ++ body)) s

/-- The request of a descriptor with its Stamp fixed.  A sub-search serves every entry on this node; where it carries no merge-source
table, the NODE_INDEX of its lists is a free value (log 156). -/
def State.searchReq (s : State) (d : Bytes) : SearchReq :=
  let b := s.searchBody d
  let ents := (stampEntries b.stamp).map (s.fixEntry (dStamp d))
  let srcs := mergeSources b.merge ents
  let sub := fun (m : MergeSrc) =>
    { m with port := 0xFF, peer := 0, node := if b.merge.isEmpty then Config.subNode (dSubTag d) % 64 else m.node }
  ⟨b.params, b.query, ents, if dKind d = 5 then srcs.map sub else srcs⟩

/-- The refusal of a search, if any: (status code, event, DETAIL).  Every case of R76 comes before a Stamp that cannot be served
(R91, R168).  DESIGN CHOICE (log 195): R127 adds its conditions to R76's and gives them no place; they stand after the choice of a kind. -/
def State.searchRefusal (s : State) (r : SearchReq) (merge : Bytes) (supplied : Bool) : Option (Nat × Nat × Nat) :=
  let broken := firstSome [rangeFail r (mergeOk merge r.ents), s.placeFail r, s.seedlingFail r,
    (match s.chooseKind r with | .inr x => some x | .inl _ => none), s.auditFail r]
  match broken with
  | some x => some (8, 0x3001, x)
  | none => ((r.locals.filterMap fun e => s.staleEvent supplied e.1.1).head?).map fun ev => (5, ev, 0)

/-! ### GENERATE (R216, R217, R219, R225) -/

def gForm (b : Bytes) : Nat := u8 b 0
def gCacheOp (b : Bytes) : Nat := u8 b 1
def gModel (b : Bytes) : Nat := u16 b 2
def gDraft (b : Bytes) : Nat := u16 b 4
def gTree (b : Bytes) : Nat := u8 b 6
def gDecode (b : Bytes) : Nat := u8 b 7
def gMaxNew (b : Bytes) : Nat := u16 b 8
def gStops (b : Bytes) : Nat := u8 b 10
def gCache (b : Bytes) : Nat := u32 b 12
def gPrompt (b : Bytes) : Nat := u32 b 16
def gPassages (b : Bytes) : Nat := u16 b 20
def gTemp (b : Bytes) : Nat := u32 b 24
def gPrefix (b : Bytes) : Nat := u32 b 28
def gSeed (b : Bytes) : Nat := u64 b 32
def gStopTokens (b : Bytes) : List Nat := (List.range (gStops b)).map fun k => u32 b (40 + 4 * k)
def gParent (b : Bytes) (n : Nat) : Nat := u8 b (56 + n)

/-- The Stamp, passage entries, prompt and token block of a GENERATE body (R216). -/
def gStampLen (b : Bytes) : Nat := if gForm b = 0 ∧ gPassages b ≠ 0 then 16 + 16 * u16 b 96 else 0
def gStampAt (b : Bytes) : Bytes := sl b 96 (gStampLen b)
def gEntries (b : Bytes) : List Bytes := splitAll 8 (sl b (96 + gStampLen b) (8 * gPassages b))
def gTokens (b : Bytes) : List Nat := (splitAll 4 (sl b (96 + gStampLen b + 8 * gPassages b) (4 * gPrompt b))).map leNat
def gBlock (b : Bytes) (len : Nat) : List Nat :=
  let at_ := 96 + gStampLen b + 8 * gPassages b + 4 * gPrompt b
  (splitAll 4 (sl b at_ (len - at_))).map leNat

/-- The depth of a node of the draft tree, with its ancestors bounded by `fuel`. -/
def treeDepth (b : Bytes) : Nat → Nat → Nat
  | 0, _ => 0
  | fuel + 1, n => if gParent b n = 0xFF then 1 else 1 + treeDepth b fuel (gParent b n)

/-- The fields of a generator section (R208), which follows the table references of R186. -/
def genSecAt (img : Bytes) : Nat := 128 + 32 * u32 img 8 + 40 * u16 img 12
def genLayers (img : Bytes) : Nat := u16 img (genSecAt img)
def genHeads (img : Bytes) : Nat := u8 img (genSecAt img + 2)
def genKvHeads (img : Bytes) : Nat := u8 img (genSecAt img + 3)
def genHeadDim (img : Bytes) : Nat := u16 img (genSecAt img + 4)
def genKvFmt (img : Bytes) : Nat := u8 img (genSecAt img + 6)
def genVocab (img : Bytes) : Nat := u32 img (genSecAt img + 8)
def genMaxCtx (img : Bytes) : Nat := u32 img (genSecAt img + 12)
def genRopeBase (img : Bytes) : Nat := u32 img (genSecAt img + 16)

/-- Bytes of a KV page (R210). -/
def kvPageBytes (img : Bytes) : Nat := 64 + 128 * genHeadDim img * (if genKvFmt img = 2 then 1 else 2)

/-- The bytes that a number of page-table blocks take on the first plot of a partition: the (layer, KV head) pairs lie on its plots in
turn, so that no plot holds more (R225). -/
def State.blockBytes (s : State) (part : Nat) (img : Bytes) (blocks : Nat) : Nat :=
  blocks * ceilDiv (genLayers img * genKvHeads img) (max 1 (popCount (s.actN (0x9100 + part) 1) 16)) * kvPageBytes img

/-- The blocks of 64 tokens that a request may append (R217): a passage between its tokens begins new pages (R215). -/
def ownBlocks (b : Bytes) : Nat :=
  if gForm b = 1 then 0 else if gPassages b = 0 then ceilDiv (gPrompt b + gMaxNew b) 64
  else ceilDiv (gPrefix b) 64 + ceilDiv (gPrompt b - gPrefix b + gMaxNew b) 64

/-- The blocks of a page table that take cache pages, from a position on (R218). -/
def heldBlocks (pages : List (KvPage × Nat)) (from_ : Nat) : Nat :=
  (pages.filter fun p => p.1.layer == 0 && p.1.head == 0 && !p.1.mirrored && decide (from_ ≤ p.2)).length

/-- What a running request holds of the pool: what it may append, and the passages copied for it (R217, R218). -/
def State.genBytes (s : State) (part : Nat) (g : GenWork) : Nat :=
  s.blockBytes part g.image (ownBlocks g.hdr + heldBlocks (g.pages.filter fun p => p.1.ro) g.base)

/-- What a partition's kept caches and running requests hold of the pool on its first plot (R217, R226). -/
def State.cacheUsed (s : State) (part : Nat) : Nat :=
  sumNat ((s.caches.filter fun c => c.2.part == part).map (·.2.bytes)) +
  sumNat ((s.ledger.works.filter fun w => s.partOfPlot w.2.plot == some part).map fun w => (w.2.gen.map (s.genBytes part)).getD 0)

/-- The first field of a generation header that breaks R216 or R217's form rules, as an offset in the body. -/
def State.genRange (s : State) (b : Bytes) : Option Nat :=
  let m := s.modelImage (gModel b)
  let dft := s.modelImage (gDraft b)
  let st := gStampAt b
  firstFail [
    (decide (gForm b ≤ 1), 0), (decide (gCacheOp b ≤ 3), 1),
    (s.modelRole (gModel b) == (if gForm b = 0 then 4 else 3) && !s.modelBlocked (gModel b), 2),
    (gForm b == 0 || u16 m 14 == 1, 2),
    (gDraft b == 0xFFFF || (s.modelRole (gDraft b) == 4 && genVocab dft == genVocab m && !s.modelBlocked (gDraft b)), 4),
    (decide (1 ≤ gTree b) && decide (gTree b ≤ 16) && (gDraft b != 0xFFFF || gTree b == 1), 6),
    (decide (gDecode b ≤ 1), 7), (decide (1 ≤ gMaxNew b) && decide (gMaxNew b ≤ 1024), 8), (decide (gStops b ≤ 4), 10),
    (gCacheOp b != 0 || gCache b == 0, 12), (decide (gPrompt b ≤ 65536), 16), (decide (gPassages b ≤ 1024), 20),
    (gDecode b == 0 || (match fdec fp32 (gTemp b) with | .fin neg n _ => !neg && n != 0 | _ => false), 24),
    (decide (gPrefix b ≤ gPrompt b), 28),
    ((List.range (gTree b)).all fun n => (gParent b n == 0xFF || decide (gParent b n < n)) && decide (treeDepth b 16 n ≤ 8), 56),
    (gStampLen b == 0 || (decide (1 ≤ u16 st 0) && decide (u16 st 0 ≤ 255) && strictlyRising ((stampEntries st).map (·.1))), 96)]

/-- The context tokens that admission knows (R217): a FORM 1 request's passages say their tokens, a FORM 0 request's are counted at
GEN_PLACE. -/
def State.genCtx (s : State) (b : Bytes) : Nat :=
  let base := if gCacheOp b < 2 then 0 else ((mget s.caches (gCache b)).map (·.tokens)).getD 0
  let passages := if gForm b = 0 then 0 else sumNat ((gEntries b).map fun e => u32 e 4)
  base + gPrompt b + passages + gMaxNew b

/-- Whether a generation kind covers a request (R217). -/
def genKindOk (k b : Bytes) (ctx block : Nat) : Bool :=
  kindQueries k == 0 && decide (gMaxNew b ≤ kindK k) && decide (gTree b ≤ kindBeam k) && decide (ctx ≤ kindVisits k) &&
  decide (gPassages b ≤ kindRerankMax k) && decide (u16 (gStampAt b) 0 ≤ kindShards k) && decide (gPrompt b + block ≤ kindDelta k) &&
  (gForm b == 1 || kindHops k != 0)

/-- The lowest-numbered kind that covers a GENERATE, 0xFF where there is none; a context beyond MAX_CONTEXT is covered by none. -/
def State.genKind (s : State) (d : Bytes) : Nat :=
  let b := sl d 64 (dBody d)
  let ctx := s.genCtx b
  if gForm b = 0 ∧ genMaxCtx (s.modelImage (gModel b)) < ctx then 0xFF
  else ((s.kinds.zipIdx.find? fun k => genKindOk k.1 b ctx (gBlock b (dBody d)).length).map (·.2)).getD 0xFF

/-- The refusal of a GENERATE before its kind is looked up: (status code, event, DETAIL).  EV 0x5040 names the service state as
BRINGUP.SERVICE does: 1 is Seedling service. -/
def State.genRefusal (s : State) (d : Bytes) : Option (Nat × Nat × Nat) :=
  let b := sl d 64 (dBody d)
  if s.step.seedling then some (8, 0x5040, 1)
  else match s.genRange b with
    | some f => some (8, 0x4001, 64 + f)
    | none =>
      let ents := (stampEntries (gStampAt b)).map (s.fixEntry (dStamp d))
      ((ents.filterMap fun e => if (s.slotOf e.1).isNone then some 0x3010 else s.staleEvent (dStamp d) e).head?).map fun e => (5, e, 0)

/-- Whether a GENERATE may extend the cache that it names (R219). -/
def State.cacheOk (s : State) (part : Nat) (b : Bytes) : Bool :=
  gCacheOp b < 2 || (match mget s.caches (gCache b) with
    | some c => c.part == part && !c.inUse && c.model == s.modelDigest (gModel b)
    | none => false)

/-- The near state of an admitted GENERATE; a continued cache is in use from here on. -/
def State.genWork (s : State) (plot qp : Nat) (d : Bytes) (kid : Nat) : Work :=
  let b := sl d 64 (dBody d)
  let c := if gCacheOp b < 2 then none else mget s.caches (gCache b)
  let ents := (stampEntries (gStampAt b)).map (s.fixEntry (dStamp d))
  let k := s.kinds.getD kid []
  { emptyWork 3 plot qp b with
    kindId := kid, plan := s.planDigest, model := s.modelDigest (gModel b), image := s.modelImage (gModel b),
    supplied := dStamp d, shards := ents.map fun e => emptyEntry ((s.slotOf e.1).getD 256) e ⟨e.1, 0, 0xFF, 0⟩,
    gen := some {
      hdr := b.take 96, image := s.modelImage (gModel b), draft := if gDraft b = 0xFFFF then [] else s.modelImage (gDraft b),
      cache := gCache b, prior := (c.map (·.digest)).getD (zeros 32), base := (c.map (·.tokens)).getD 0, prompt := gTokens b,
      block := gBlock b (dBody d), passages := (gEntries b).map fun e => if gForm b = 1 then (u32 e 0, u32 e 4) else (u40 e 0, u8 e 5), roots := [],
      pages := (c.map (·.pages)).getD [], dpages := (c.map (·.dpages)).getD [], tried := 0, pass := none,
      spread := match c with | some c => c.spread | none => s.actN 0x5400 5,
      members := match c with
        | some c => c.members
        | none => if s.actN 0x5400 5 = 0 then [] else bitList (s.actN 0x5400 6) 64,
      fed := 0, choice := [], drafts := [], path := [], next := none, out := [], scores := [],
      passes := kindHops k, emitting := 0, accepted := 0, stop := 0, done := false, late := false, stage := 0,
      key := c.map (·.key), asked := 0, passg := false } }

/-- Free the partition's kept cache whose last completion is oldest, until a plot's share fits in the pool of 8 GiB (R219); never the
cache `keep`, which the request extends. -/
def State.evict (s : State) (part need keep : Nat) : Nat → State
  | 0 => s
  | fuel + 1 =>
    if s.cacheUsed part + need ≤ (reservedArea 10).2 then s else
    match sortBy (fun a b => decide (a.2.last < b.2.last)) (s.caches.filter fun c => !c.2.inUse && c.2.part == part && c.1 != keep) with
    | [] => s
    | c :: _ => (((s.dropCaches fun x => x.1 == c.1).useGrant 9).raise 0x5044 locField 0).evict part need keep fuel

/-! ### The table of R168 -/

/-- What a request of a descriptor needs of its completion ring, in slots. -/
def State.descSlots (s : State) (d : Bytes) : Nat :=
  let r := s.searchReq d
  let b := sl d 64 (dBody d)
  cplSlots (dKind d) (pK r.params) (s.reqDim r) (s.actN 0x3013 1) (pAudit r.params) (if gForm b = 0 then gMaxNew b else gPassages b)

/-- The bytes of a replay copy: its descriptor and its fixed Stamp (R175); and those that the replay store holds on a plot's stack, the
copies of replays that wait among them. -/
def copyLen (d : Bytes) (entries : Nat) : Nat := d.length + (if entries = 0 then 0 else 16 + 16 * entries)
def State.copyBytes (s : State) (plot : Nat) : Nat :=
  let all := s.ledger.copies.map (·.2) ++ s.ledger.replays.map (·.copy)
  sumNat ((all.filter fun c => c.plot == plot).map fun c => copyLen c.desc c.work.shards.length)

/-- The Stamp entries of a request's descriptor. -/
def State.descEntries (s : State) (d : Bytes) : Nat :=
  if dKind d = 1 ∨ dKind d = 5 then u16 (s.searchBody d).stamp 0
  else if dKind d = 3 then u16 (gStampAt (sl d 64 (dBody d))) 0 else 0

/-- Whether the replay store cannot take the copy that a REPLAYABLE request asks for: its share of a stack is 16 MiB (R175, R228). -/
def State.storeLacks (s : State) (plot part : Nat) (d : Bytes) : Bool :=
  dReplayable d && decide ((reservedArea 1).2 < s.copyBytes (s.copyPlot plot part) + copyLen d (s.descEntries d))

/-- The replay copy of a REPLAYABLE request just admitted (R175). -/
def State.keepCopy (s : State) (d : Bytes) (tag : Nat) (w : Work) (plot part ring : Nat) : State :=
  if dReplayable d then
    { s with ledger := { s.ledger with copies := mput s.ledger.copies tag ⟨d, w, s.copyPlot plot part, s.grant 7, ring⟩ } }
  else s

/-- The lowest unit of the replay store that no context names (R170). -/
def State.freeRef (s : State) : Nat :=
  let used := s.ledger.fars.map (·.2.ref)
  ((List.range (used.length + 1)).find? fun n => !used.contains n).getD 0

/-- REPLAY_REF of a request just admitted (R170). -/
def State.refOf (s : State) (d : Bytes) : Nat := if dReplayable d then s.freeRef else noRef

/-- The near state of a request just admitted. -/
def State.newWork (s : State) (plot qp : Nat) (d : Bytes) (kid : Nat) : Work :=
  if dKind d = 1 then let req := s.searchReq d; { s.searchWork 1 plot qp d req kid with walk := s.walkPlots req }
  else if dKind d = 3 then s.genWork plot qp d kid
  else { emptyWork 4 plot qp (d.drop 64) with
    usn := (((s.slotOf (u32 d 64)).bind (mget s.shards)).map (·.vis)).getD 0, orig := s.actN 0x3030 2 }

/-- The kind of a request that its checks have passed, 0xFF for a ROOT_REQUEST. -/
def State.reqKind (s : State) (d : Bytes) : Nat :=
  if dKind d = 1 then (match s.chooseKind (s.searchReq d) with | .inl k => k | .inr _ => 0xFF)
  else if dKind d = 3 then s.genKind d else 0xFF

/-- Admit a SEARCH, GENERATE or ROOT_REQUEST: the last row of R168. -/
def State.accept (s : State) (slot : AdmSlot) (r : Nat) (q : Ring) (d : Bytes) : State :=
  let tag := mkTag s.step.number slot.plot slot.typ slot.idx
  let kid := s.reqKind d
  let life := if kid = 0xFF then s.lifetime else kindLifetime (s.kinds.getD kid [])
  let w := s.newWork slot.plot q.qp d kid
  let f := { newFar (dKind d) kid (dCplRing d) r tag (dClient d) (s.descSlots d) (s.step.number + life) slot.plot w with
    replayable := dReplayable d, audit := dKind d == 1 && pAudit w.params, ref := s.refOf d }
  let s1 := (s.consume r (dSlots d)).allocate slot f w (s.farPlot slot.plot q.part)
  let s2 := if dKind d = 4 then s1.modRing (s.actN 0x3030 2) fun x => { x with reserved := x.reserved + 2 } else s1
  let s3 := s2.keepCopy d tag w slot.plot q.part r
  let s4 := if dKind d = 3 then
      let use := fun (c : Cache) => { c with inUse := c.inUse || decide (2 ≤ gCacheOp (d.drop 64)) }
      { s3 with caches := mmod s3.caches (gCache (d.drop 64)) use }
    else s3
  if dKind d = 1 then s4.sendSubs (dClient d) tag (dStamp d) (s.searchReq d) else s4

/-- Whether a body's parts run past BODY_BYTES, so that the descriptor does not hold them (R158, R216; log 151). -/
def bodyOverrun (d : Bytes) : Bool :=
  if dKind d = 1 then decide (dBody d < partBytes d)
  else if dKind d = 3 then
    let b := sl d 64 (dBody d)
    decide (dBody d < 96 + gStampLen b + 8 * gPassages b + 4 * gPrompt b)
  else false

/-- The completion slots that a request still lacks: its own, and two for a root record, which may lie in one ring (R165). -/
def State.slotsLack (s : State) (d : Bytes) : Bool :=
  let free := fun (r : Nat) => ((mget s.rings r).map Ring.freeSlots).getD 0
  let root := s.actN 0x3030 2
  let need := s.descSlots d
  decide (free (dCplRing d) < need) ||
  (dKind d == 4 && decide (free root < if root = dCplRing d then need + 2 else 2))

/-- The pool's answer to a GENERATE that nothing else stops (R217, R219): refused, held or admitted. -/
def State.acceptGen (s : State) (slot : AdmSlot) (r : Nat) (q : Ring) (d : Bytes) : State :=
  let b := d.drop 64
  let need := s.blockBytes q.part (s.modelImage (gModel b)) (ownBlocks b)
  let keep := if gCacheOp b < 2 then 2 ^ 32 else gCache b
  let s1 := if s.grant 9 then s.evict q.part need keep 64 else s
  if s.grant 9 ∧ ¬ s.node.handAlive ∧ 8589934592 < s.cacheUsed q.part + need then s.refuseWith r (dCplRing d) d 7 id
  else if 8589934592 < s1.cacheUsed q.part + need then s1.raiseRun 0x5043 r (locPlot slot.plot) none 0
  else s1.accept slot r q d

/-- One request slot acts on its ring's head descriptor (R168). -/
def State.serveRequest (s : State) (slot : AdmSlot) (r : Nat) : State :=
  match mget s.rings r with
  | none => s
  | some q =>
    let avail := ringDiff q.sTail q.reqHead
    if q.halted ∨ avail = 0 then s else
    let hd := s.ringSlots 0 r q.log2 q.reqHead 1
    let halt := (s.modRing r fun q => { q with halted := true }).raise 0x4002 (locPlot slot.plot) 0
    if 2 ^ q.log2 < avail then halt
    else if dSlots hd = 0 ∨ 8192 < dSlots hd ∨ 2 ^ q.log2 < dSlots hd then halt
    else if avail < dSlots hd then s
    else if 64 * (dSlots hd - 1) < dBody hd then halt
    else if s.step.seedling ∧ dKind hd = 2 then s
    else if dKind hd ≠ 1 ∧ dKind hd ≠ 3 ∧ dKind hd ≠ 4 then halt
    else
      let d := s.ringSlots 0 r q.log2 q.reqHead (dSlots hd)
      let cplOk : Bool := ((mget s.rings (dCplRing d)).map fun c => c.part == q.part).getD false
      if bodyOverrun d then halt
      else if ¬ cplOk then s.refuse r r d 8 0x4001 (locPlot slot.plot) 4
      else match s.bodyBreach q.part d with
        | some f => s.refuse r (dCplRing d) d 8 0x4001 (locPlot slot.plot) f
        | none =>
          let b := sl d 64 (dBody d)
          match (if dKind d = 1 then s.searchRefusal (s.searchReq d) (s.searchBody d).merge (dStamp d)
              else if dKind d = 3 then s.genRefusal d else none) with
          | some (code, ev, det) => s.refuse r (dCplRing d) d code ev (locPlot slot.plot) det
          | none =>
            let kid := s.reqKind d
            let size := ((mget s.rings (dCplRing d)).map fun c => 2 ^ c.log2).getD 0
            if dKind d ≠ 4 ∧ ¬ bit (s.ringMask r) kid then s.refuse r (dCplRing d) d 8 0x4003 (locPlot slot.plot) kid
            else if dKind d = 3 ∧ ¬ s.cacheOk q.part b then s.refuse r (dCplRing d) d 8 0x5042 (locPlot slot.plot) 76
            else if dKind d ≠ 4 ∧ ¬ bit slot.mask kid then s
            else if size < s.descSlots d then s.refuse r (dCplRing d) d 8 0x4008 (locPlot slot.plot) 4
            else if s.slotsLack d then s.raiseRun 0x4004 r (locPlot slot.plot) none 0
            else if s.storeLacks slot.plot q.part d then s.raiseRun 0x4005 r (locPlot slot.plot) none 0
            else if ¬ s.nearOk slot.plot ∨ ¬ s.farOk (s.farPlot slot.plot q.part) then
              s.raiseRun 0x4006 slot.plot (locPlot slot.plot) none 0
            else if dKind d = 3 then s.acceptGen slot r q d
            else s.accept slot r q d

/-- The widened pass of a sub-search (R92): the second SUB_SEARCH of one SUB_TAG from one port whose parameter block sets WIDEN repeats
the search under the first one's Stamp (log 157).  Answers the request, and whether its Stamp is held already. -/
def State.subRequest (s : State) (port : Nat) (d : Bytes) : SearchReq × Bool :=
  let r := s.searchReq d
  match s.ledger.subSeen.find? fun e => e.1 == port && e.2.1 == dSubTag d with
  | some e => if pWiden r.params then ({ r with ents := e.2.2 }, true) else (r, false)
  | none => (r, false)

/-- What is remembered of a sub-search that is admitted. -/
def State.noteSub (s : State) (port : Nat) (d : Bytes) (r : SearchReq) (again : Bool) : State :=
  let rest := s.ledger.subSeen.filter fun e => !(e.1 == port && e.2.1 == dSubTag d)
  let seen := if pWiden r.params && !again then rest ++ [(port, dSubTag d, r.ents)] else rest
  { s with ledger := { s.ledger with subSeen := seen } }

/-- One sub-request slot acts on the head of its port's queue of SUB_SEARCH messages (R158, R168). -/
def State.serveSub (s : State) (slot : AdmSlot) (port : Nat) : State :=
  match s.ledger.subQ.find? fun e => e.1 == port with
  | none => s
  | some (_, d) =>
    let rest := s.ledger.subQ.eraseIdx (s.ledger.subQ.findIdx fun e => e.1 == port)
    let pop := fun (s : State) => { s with ledger := { s.ledger with subQ := rest } }
    let sub := s.subRequest port d
    let req := sub.1
    let part := (s.partOfPlot slot.plot).getD 0
    let tag := mkTag s.step.number slot.plot slot.typ slot.idx
    let work := fun (kid : Nat) => { s.searchWork 5 slot.plot 0 d req kid with subPort := port, widened := sub.2 }
    let answer := fun (s : State) (status : Nat) => s.sendEmptyLists (work 0xFF) status
    match s.bodyBreach part d with
    | some f => (answer (pop s) (mkStatus 8 0)).raise 0x4001 (locHedge port) f
    | none => match s.searchRefusal req (s.searchBody d).merge (sub.2 || dStamp d) with
      | some (code, ev, det) => (answer (pop s) (mkStatus code 0)).raise ev (locHedge port) det
      | none => match s.chooseKind req with
        | .inr _ => s
        | .inl kid =>
          if ¬ bit slot.mask kid then s
          else if s.storeLacks slot.plot part d then s.raiseRun 0x4005 (65536 + port) (locPlot slot.plot) none 0
          else if ¬ s.nearOk slot.plot ∨ ¬ s.farOk (s.farPlot slot.plot part) then
            s.raiseRun 0x4006 slot.plot (locPlot slot.plot) none 0
          else
            let w := { work kid with walk := s.walkPlots req }
            let f := { newFar 5 kid 0 0 tag (dClient d) 0 (s.step.number + kindLifetime (s.kinds.getD kid [])) slot.plot w with
              replayable := dReplayable d, ref := s.refOf d }
            (((pop s).noteSub port d req sub.2).allocate slot f w (s.farPlot slot.plot part)).keepCopy d tag w slot.plot part 0

/-- The attached partners of a shard that its next update finds (R144): one whose backlog is above its limit is detached. -/
def State.detachLate (s : State) (i : Nat) : State :=
  let late := fun (p : Partner) => p.attached && decide (s.actN 0x3042 7 < s.backlog i p)
  match mget s.shards i with
  | none => s
  | some h =>
    if h.partners.any late then
      let drop := fun (p : Partner) => if late p then { p with attached := false, detached := true } else p
      ((s.modShard i fun h => { h with partners := h.partners.map drop }).useGrant 6).evU 0x3067 locField (some (i, h.vis)) 0
    else s

/-- Admit an update: it takes the shard's next USN (R37, R134). -/
def State.acceptUpdate (s : State) (slot : AdmSlot) (q : Ring) (i : Nat) (h : Shard) (d : Bytes) : State :=
  let b := sl d 64 (dBody d)
  let r := slot.source
  let s1 := s.detachLate i
  let u := h.last + 1
  let tag := mkTag s.step.number slot.plot 1 slot.idx
  let mirror := ((mget s1.shards i).map fun x => x.partners.any (·.attached)).getD false
  let w := { emptyWork 2 slot.plot q.qp (b.take (64 + uPayload b)) with
    usn := u, mirror := mirror, image := (s.fillAhead h (b.take (64 + uPayload b)) u).take 64 }
  let f := { newFar 2 0xFF (dCplRing d) r tag (dClient d) 2 (s.step.number + s.lifetime) slot.plot w with
    replayable := dReplayable d, ref := s.refOf d }
  let s2 := ((s1.consume r (dSlots d)).allocate slot f w (s.farPlot slot.plot q.part)).modShard i fun h => { h with last := u }
  (s2.keepCopy d tag w slot.plot q.part r).bump 0x3041 1 1

/-- One update slot acts on its ring's head descriptor (R134, R137, R168). -/
def State.serveUpdate (s : State) (slot : AdmSlot) : State :=
  let r := slot.source
  match mget s.rings r with
  | none => s
  | some q =>
    let avail := ringDiff q.sTail q.reqHead
    if q.halted ∨ avail = 0 then s else
    let hd := s.ringSlots 0 r q.log2 q.reqHead 1
    let halt := (s.modRing r fun q => { q with halted := true }).raise 0x4002 (locPlot slot.plot) 0
    if 2 ^ q.log2 < avail then halt
    else if dSlots hd = 0 ∨ 8192 < dSlots hd ∨ 2 ^ q.log2 < dSlots hd then halt
    else if avail < dSlots hd then s
    else if 64 * (dSlots hd - 1) < dBody hd ∨ dKind hd ≠ 2 then halt
    else
      let d := s.ringSlots 0 r q.log2 q.reqHead (dSlots hd)
      let b := sl d 64 (dBody d)
      let cplOk : Bool := ((mget s.rings (dCplRing d)).map fun c => c.part == q.part).getD false
      let free := ((mget s.rings (dCplRing d)).map Ring.freeSlots).getD 0
      let size := ((mget s.rings (dCplRing d)).map fun c => 2 ^ c.log2).getD 0
      let refuse := fun (code ev det : Nat) => s.refuse r (dCplRing d) d code ev (locPlot slot.plot) det
      let noSpace := fun (i v : Nat) => s.refuseWith r (dCplRing d) d 6 fun s =>
        (s.raiseRun 0x3065 i locField (some (i, v)) 0).bump 0x3041 3 1
      if ¬ cplOk then s.refuse r r d 8 0x4001 (locPlot slot.plot) 4
      else match s.bodyBreach q.part d with
        | some f => refuse 8 0x4001 f
        | none => match s.updateFail b with
          | some f => refuse 8 0x3060 (updNaming f)
          | none =>
            let i := (s.slotOf (uShard b)).getD 0
            match mget s.shards i with
            | none => s
            | some h =>
              let inUse := (s.ledger.fars.filter fun e => e.2.kind == 2 && e.2.home == slot.plot && bitsOf e.2.tag 9 4 == slot.idx).length
              let cap := ((s.admPlan).map fun p => p.slotCapacity slot).getD 0
              let late := h.partners.any fun p => p.attached && decide (s.actN 0x3042 7 < s.backlog i p)
              let ins := uOp b != 2
              let limit := decide (s.maxDelta < h.deltaCount + s.pendingIns h.id + 1) || decide (16777216 < h.openCount + s.pendingIns h.id + 1)
              if h.holdOut then refuse 5 0x3010 0
              else if size < 2 then refuse 8 0x4008 4
              else if free < 2 then s.raiseRun 0x4004 r (locPlot slot.plot) none 0
              else if s.storeLacks slot.plot q.part d then s.raiseRun 0x4005 r (locPlot slot.plot) none 0
              else if ¬ s.nearOk slot.plot ∨ ¬ s.farOk (s.farPlot slot.plot q.part) then
                s.raiseRun 0x4006 slot.plot (locPlot slot.plot) none 0
              else if cap ≤ inUse then s
              else if s.log.full then noSpace i h.vis
              else if 4096 ≤ s.ledger.rootQ.length then s
              else if 20000 < s.flash.flushUs then s
              else if s.holdShort then s.raiseRun 0xA004 0 locField none 0
              else if ¬ s.reserveCovers (s.pendingLog + logLen b) then
                s.raiseRun 0x7032 0 locField none 0
              else if 335544320 < s.log.dirty + s.pendingLog + logLen b then s.raiseRun 0x3062 0 locField (some (i, h.vis)) 0
              else if ins && limit && h.noSpace then noSpace i h.vis
              else if ins && limit then s.raiseRun 0x3061 i locField (some (i, h.vis)) 0
              else if s.tier.rebuild.contains i then s
              else if ins && s.deltaShort i h then s.raiseRun 0x6013 i locField (some (i, h.vis)) 0
              else if late && !s.grant 6 then s.raiseRun 0x3066 i locField (some (i, h.vis)) 0
              else s.acceptUpdate slot q i h d

end Sys2Proof.Machine
end

