-- ==== Sys2Proof/Machine/Search.lean ====
section
/-! DEFINITION. The search commands: preparation, tables, walks and scans, filters, rerank, selection, merge (R77 to R108). -/

namespace Sys2Proof.Machine

/-! ### What a request sees of its shards -/

/-- The shard, epoch and Stamp USN of an entry that this node serves. -/
def State.entryOf (s : State) (x : ShardWork) : Option (Shard × Epoch) :=
  (mget s.shards x.slot).bind fun h => (h.epoch? x.epoch).map fun e => (h, e)

/-- The parameter block as the pass in progress reads it (R92). -/
def Work.visits (w : Work) : Nat := if w.widened then min (4 * pVisits w.params) 65536 else pVisits w.params
def Work.hops (w : Work) : Nat := if w.widened then min (4 * pHops w.params) 65536 else pHops w.params
def Work.beam (w : Work) : Nat := if w.widened then min (2 * pBeam w.params) 256 else pBeam w.params
def Work.enumMax (w : Work) : Nat := if w.widened then min (4 * pEnum w.params) 65536 else pEnum w.params
def Work.terms (w : Work) : List Bytes := paramTerms w.params
def Work.k (w : Work) : Nat := pK w.params

/-- The first (METRIC, DIM) of a request's shards; (0, the query's components) where it names no local shard. -/
def State.workDim (s : State) (w : Work) : Nat × Nat :=
  ((w.locals.filterMap s.entryOf).flatMap fun e => s.dims e.1 e.2).headD (0, if pQuery w.params = 0 then w.query.length / 2 else (w.x.getD []).length)

/-- The sealed images of an epoch, in ascending segment number. -/
def epochImages (h : Shard) (e : Epoch) : List (Nat × Seg) := e.sealed.filterMap fun n => (mget h.segs n).map fun g => (n, g)

/-- The deltas of an epoch, frozen before open, from which the delta scan visits a record (R78, R83). -/
def epochDeltas (h : Shard) (e : Epoch) (u : Nat) : List (Nat × Delta) :=
  e.deltas.filterMap fun n => (mget h.deltas n).bind fun d => if d.recs.any fun r => decide (r.usn ≤ u) then some (n, d) else none

/-- The values of a codebook that a delta names. -/
def State.cbValues (s : State) (dg : Bytes) : Bytes := ((s.codebooks.find? fun c => c.digest == dg).map (·.values)).getD []
def State.cbOf (s : State) (dg : Bytes) : Option Codebook := s.codebooks.find? fun c => c.digest == dg

/-- The distinct codebooks of an entry (R78): digest and values. -/
def State.entryCbs (s : State) (h : Shard) (e : Epoch) (u : Nat) : List (Bytes × Bytes) :=
  dedupBy (fun c => leNat c.1) [] (((epochImages h e).map fun g => (segCb g.2.image, segCodebook g.2.image)) ++
    ((epochDeltas h e u).map fun d => (d.2.cb, s.cbValues d.2.cb)))

/-- M and CODE_BITS of an entry, one pair for the whole epoch (R80). -/
def State.entryCode (s : State) (h : Shard) (e : Epoch) : Nat × Nat :=
  (((epochImages h e).map fun g => (segM g.2.image, segBits g.2.image)) ++
   (e.deltas.filterMap fun n => (mget h.deltas n).bind fun d => (s.cbOf d.cb).map fun c => (c.m, c.bits))).headD (1, 8)

def ShardWork.tabOf (x : ShardWork) (cb : Bytes) : List Nat := ((x.tables.find? fun t => t.cb == cb).map (·.tab)).getD []
def ShardWork.resOf (x : ShardWork) (cb : Bytes) : List Nat := ((x.tables.find? fun t => t.cb == cb).map (·.res)).getD []

/-- Whether a handle is invisible under a Stamp USN (R40): its delete USN is at most the Stamp. -/
def Shard.invisible (h : Shard) (hd u : Nat) : Bool := decide (mgetD h.tombs hd usnNever ≤ u)

/-- Whether an attribute record fails a term in use (R86). -/
def filteredBy (terms : List Bytes) (attr : Bytes) : Bool := terms.any fun t => !termHolds t attr

/-- The result row of a segment's covered terms, where it stands (R87). -/
def ShardWork.rowOf (x : ShardWork) (seg : Nat) : Option Bytes := (x.rows.find? fun e => e.1 == seg).map (·.2.1)

/-- What a segment search of an entry reads: the result bit for the covered terms where their rows stand, attribute records otherwise
(R86, R87). -/
def segView (h : Shard) (x : ShardWork) (terms : List Bytes) (g : Seg) : SegView :=
  { img := g.image, tab := x.tabOf (segCb g.image), res := x.resOf (segCb g.image),
    inv := fun o => h.invisible (mkHandle (segNumber g.image) o) x.usn,
    filt := fun o => match x.rowOf (segNumber g.image) with
      | some row => !bitAt row o || filteredBy (terms.filter fun t => !termCovered g.image t) (segAttr g.image o)
      | none => filteredBy terms (segAttr g.image o) }

/-- How the pass searches a segment (R81, R88): 0 = walk, 1 = full scan, 2 = enumeration; with its share. -/
def Work.method (w : Work) (h : Shard) (e : Epoch) (seg : Nat) : Nat × Nat :=
  let imgs := epochImages h e
  let sh := (shares w.visits (imgs.map fun g => segVc g.2.image)).2
  let share := ((imgs.zip sh).find? fun p => p.1.1 == seg).map (·.2) |>.getD 0
  match mget h.segs seg with
  | none => (0, share)
  | some g =>
    if enumerated (pStrategy w.params) w.enumMax g.image w.terms then (2, share)
    else if segVc g.image ≤ share then (1, share) else (0, share)

/-- The delta scan of an entry (R83): its records in offset order, frozen delta before open. -/
def deltaVisits (h : Shard) (e : Epoch) (x : ShardWork) (terms : List Bytes) (bits : Nat) : List Visit :=
  e.deltas.flatMap fun n => match mget h.deltas n with
    | none => []
    | some d => (d.recs.zipIdx.filter fun r => decide (r.1.usn ≤ x.usn)).map fun r =>
      ⟨mkHandle n r.2, filteredBy terms r.1.attr, h.invisible (mkHandle n r.2) x.usn, false, true, pqDist (x.tabOf d.cb) bits r.1.code⟩

/-- A shard's visit records in logical order (R84). -/
def ShardWork.allVisits (x : ShardWork) : List Visit :=
  (sortBy (fun a b => decide (a.seg < b.seg)) x.segs).flatMap (·.visits) ++ x.delta.getD []

/-- The stored vector of a handle: EXTERNAL_ID, SCALE, SUMSQ and components (R59, R63). -/
def storedVector (h : Shard) (hd : Nat) : Option (Nat × Nat × Nat × List Int) :=
  match mget h.segs (handleSeg hd) with
  | some g =>
    let v := segVec g.image (handleOff hd)
    some (v.ext, v.scale, v.sumsq, int8s v.comps)
  | none => (mget h.deltas (handleSeg hd)).bind fun d => d.recs[handleOff hd]?.map fun r => (r.ext, r.scale, r.sumsq, int8s r.comps)

/-- Whether a handle's vector lies in the stacks (R90): a delta record, or a segment with a mirror. -/
def inStacks (h : Shard) (hd : Nat) : Bool :=
  match mget h.segs (handleSeg hd) with
  | some g => g.mirrored
  | none => true

/-! ### Shared steps of the commands -/

/-- Run a phase's command on the request that it names, where its home plot runs that phase. -/
def State.during (s : State) (tag phase : Nat) (k : Nat → Work → State) : State :=
  if s.inPhase tag phase then
    match s.farOf tag, s.workOf tag with
    | some (_, f), some w => k f.home w
    | _, _ => s
  else s

/-- How often a check failed. -/
def Chk.fails (c : Chk) (spillUsed : Bool) : Nat :=
  match c with
  | .ok => 0 | .readUe _ => 0 | .frameUe _ => 0 | .once => 1
  | .twice => if spillUsed then 1 else 2

/-- A checked computation of one request that counts its failures in a counter of the dictionary. -/
def State.checkIn (s : State) (c : Chk) (plot code loc idx sub tag : Nat) : State × Bool :=
  let n := Chk.fails c (s.spillUsed plot)
  (if n = 0 then s else s.bump idx sub n).check c plot code loc [tag]

/-- A checked computation on which no request depends any more: it counts its failures and is repeated in the spill slot (R123); the answer
says whether it stands. -/
def State.checkAlone (s : State) (c : Chk) (plot code loc idx sub : Nat) : State × Bool :=
  let s1 := (s.bump idx sub (Chk.fails c (s.spillUsed plot))).raise code loc 0
  let again := if s.spillUsed plot then s1 else s1.useSpill plot
  match c with
  | .ok => (s, true)
  | .once => (again, !s.spillUsed plot)
  | .twice => (again, false)
  | .readUe page => (s.homeFault page loc, false)
  | .frameUe page => s.frameFault page plot loc []

/-- Change one entry of a request. -/
def State.modEntry (s : State) (tag pos : Nat) (f : ShardWork → ShardWork) : State :=
  s.modWork tag fun w => { w with shards := (w.shards.zipIdx).map fun e => if e.2 = pos then f e.1 else e.1 }

/-- The entry at a Stamp position, where this node serves it. -/
def Work.localAt (w : Work) (pos : Nat) : Option ShardWork := (w.shards[pos]?).bind fun x => if x.src.port = 0xFF then some x else none

/-! ### Preparation and tables -/

/-- TABLE_BUILD (R78, R79). -/
def execTableBuild (tag : Nat) (chk : Chk) (s : State) : Host.Outcome State Fault Refusal :=
  .next (s.during tag 3 fun home w =>
    match w.x with
    | none => s
    | some v =>
      let r := s.checkIn chk home 0x3052 (locRow home 5 0) 0x3013 5 tag
      let md := s.workDim w
      let q := quantQuery (pScale w.params) v
      let build := fun (x : ShardWork) => match (if x.src.port = 0xFF then s.entryOf x else none) with
        | none => { x with q := q.1, qScale := q.2 }
        | some (h, e) =>
          let mb := s.entryCode h e
          { x with tables := buildTables md.1 md.2 mb.1 mb.2 (s.entryCbs h e x.usn) v, q := q.1, qScale := q.2, todo := e.sealed,
                   stage := 1 }
      if r.2 then r.1.modWork tag fun w => { w with shards := w.shards.map build } else r.1)

/-! ### Walks and scans -/

/-- Whether a Harrow's shadow sums agree for the codes of a segment's visits (R122). -/
def SegView.shadowsOk (v : SegView) (vs : List Visit) : Bool :=
  vs.all fun x => shadowOk v.tab v.res (segBits v.img) (segCode v.img (handleOff x.handle))

/-- A segment search by one of the three methods, where the pass searches that segment so (R81, R88); a walk goes on for the hops that
the step's slots hold (R85).  The Harrow's check runs on the plot that holds the codes, whose spill slot repeats it (R26, R123). -/
def State.searchSeg (s : State) (tag pos seg hops : Nat) (chk : Chk) (method : Nat) : State :=
  s.during tag 4 fun _ w =>
    match w.localAt pos with
    | none => s
    | some x => match s.entryOf x with
      | none => s
      | some (h, e) => match mget h.segs seg with
        | none => s
        | some g =>
          let m := w.method h e seg
          if ¬ x.todo.contains seg ∨ m.1 ≠ method ∨ (method = 2 ∧ (x.rowOf seg).isNone) then s
          else
            let v := segView h x w.terms g
            let st := walkHops v m.2 w.beam w.hops hops ((x.walks.find? fun y => y.seg == seg).getD (walkStart v m.2 w.beam))
            let vs := if method = 0 then st.recs.reverse
              else if method = 1 then segScan v else segEnum v w.terms ((x.rowOf seg).getD [])
            let plot := s.codesPlot x.slot seg
            let r := s.checkIn (if v.shadowsOk vs then chk else .twice) plot 0x3053 (locRow plot 2 0) 0x3013 5 tag
            let whole := method != 0 || st.done || st.ended
            let others := x.walks.filter fun y => y.seg != seg
            if ¬ r.2 then r.1
            else r.1.modEntry tag pos fun x =>
              if whole then { x with walks := others, segs := x.segs ++ [⟨seg, vs, method == 0 && st.done⟩], todo := x.todo.filter (· != seg) }
              else { x with walks := others ++ [st] }

/-- SEGMENT_WALK (R82, R85): `hops` turns of the walk's loops. -/
def execSegmentWalk (tag pos seg hops : Nat) (chk : Chk) (s : State) : Host.Outcome State Fault Refusal :=
  .next (s.searchSeg tag pos seg hops chk 0)
/-- FULL_SCAN (R83). -/
def execFullScan (tag pos seg : Nat) (chk : Chk) (s : State) : Host.Outcome State Fault Refusal := .next (s.searchSeg tag pos seg 0 chk 1)
/-- ENUMERATION (R88), once the segment's result rows stand. -/
def execEnumeration (tag pos seg : Nat) (chk : Chk) (s : State) : Host.Outcome State Fault Refusal := .next (s.searchSeg tag pos seg 0 chk 2)

/-- Whether the shadow sums of a delta scan agree (R122). -/
def deltaShadowsOk (h : Shard) (x : ShardWork) (bits : Nat) (vs : List Visit) : Bool :=
  vs.all fun v => match mget h.deltas (handleSeg v.handle) with
    | none => true
    | some d => ((d.recs[handleOff v.handle]?).map fun r => shadowOk (x.tabOf d.cb) (x.resOf d.cb) bits r.code).getD true

/-- A check that runs on several plots, each with its own spill slot (R26): whether it stands on all of them. -/
def State.checkPlots (s : State) (tag code idx sub : Nat) (loc : Nat → Nat) : List (Nat × Chk) → State × Bool
  | [] => (s, true)
  | (p, c) :: rest =>
    let r := s.checkIn c p code (loc p) idx sub tag
    if r.2 then r.1.checkPlots tag code idx sub loc rest else r

/-- DELTA_SCAN (R83): the shadow sums are checked on each plot that holds records of the scan (R122, R123). -/
def execDeltaScan (tag pos : Nat) (chk : List (Nat × Chk)) (s : State) : Host.Outcome State Fault Refusal :=
  .next (s.during tag 4 fun _ w =>
    match w.localAt pos with
    | none => s
    | some x => match s.entryOf x with
      | none => s
      | some (h, e) =>
        if x.delta.isSome ∨ x.stage = 0 then s else
        let bits := (s.entryCode h e).2
        let v := deltaVisits h e x w.terms bits
        let on := fun (p : Nat) => v.filter fun y => s.codesPlot x.slot (handleSeg y.handle) == p
        let out := ((List.range 16).filter fun p => !(on p).isEmpty).map fun p =>
          (p, if deltaShadowsOk h x bits (on p) then mgetD chk p .ok else .twice)
        let r := s.checkPlots tag 0x3053 0x3013 5 (fun p => locRow p 2 0) out
        if r.2 then r.1.modEntry tag pos fun x => { x with delta := some v } else r.1)

/-- BITMAP_FILTER_EVAL (R87): the result row pairs of a segment with covered terms.  A walk or scan whose rows fail twice, or whose
bitmaps cannot be read (R266: an error in them, or a group in FAULT), reads attribute records instead; an enumeration cannot go on. -/
def execBitmapFilterEval (tag pos seg : Nat) (rail : Chk) (s : State) : Host.Outcome State Fault Refusal :=
  .next (s.during tag 4 fun home w =>
    match w.localAt pos with
    | none => s
    | some x => match s.entryOf x with
      | none => s
      | some (h, e) => match mget h.segs seg with
        | none => s
        | some g =>
          if ¬ x.todo.contains seg ∨ ¬ w.terms.any (termCovered g.image) then s else
          let loc := locPlot (s.codesPlot x.slot seg)
          let rows := resultRows g.image w.terms
          let done := fun (s : State) => s.modEntry tag pos fun x => { x with rows := (x.rows.filter fun y => y.1 != seg) ++ [(seg, rows)] }
          let fail := fun (s : State) => ((s.bump 0x6021 3 1).raise 0x6021 loc 0).raise 0x3014 loc 0
          let place := s.tier.bmaps.find? fun b => b.slot == x.slot && b.seg == seg
          let broken := (place.map fun b => b.bad || (List.range s.tillGroups).any fun c =>
            decide (8192 * c < segVc g.image) && s.tillState ⟨b.plot, c⟩ == 3).getD false
          let worn := fun (b : BmPlace) => if place = some b then { b with bad := true } else b
          let mark := fun (s : State) => { s with tier := { s.tier with bmaps := s.tier.bmaps.map worn } }
          let without := fun (s : State) =>
            if (w.method h e seg).1 = 2 then (s.raise 0x3015 (locPlot home) 0).lose tag 9 else s.raise 0x3014 loc 0
          if broken then without s else
          match rail with
          | .ok => done s
          | .once => done (fail s)
          | .twice => without (((fail s).bump 0x6021 3 1).raise 0x6021 loc 0)
          | .frameUe _ => done s
          | .readUe _ => without (mark (((s.bump 0x6021 6 1).raise 0x6025 loc 0).raise 0x3031 loc 0)))

/-! ### Rerank -/

/-- The visits of a shard that may be chosen (R89). -/
def ShardWork.eligible (x : ShardWork) : List Visit := x.allVisits.filter fun v => !v.filtered && !v.invisible

/-- The plots that searched segments of a shard, by LOGICAL_PLOT (R101, R106). -/
def ShardWork.searched (x : ShardWork) : List Nat :=
  sortBy (fun a b => decide (a < b)) (dedupBy (fun p => p) [] ((x.segs.map (·.seg) ++ (x.delta.getD []).map fun v => handleSeg v.handle).map (· % 16)))

/-- The selection of a plot. -/
def ShardWork.plotSel (x : ShardWork) (plot : Nat) : PlotSel := (x.plots.find? fun p => p.plot == plot).getD ⟨plot, [], none⟩

/-- A visit as a record of a plot list: EXACT_DIST is 0 (R105). -/
def visitCand (h : Shard) (shard : Nat) (v : Visit) : Cand :=
  let r := (storedVector h v.handle).getD (0, 0, 0, [])
  ⟨r.1, shard, v.handle, v.dist, 0, r.2.1, v.delta, false, 0⟩

/-- WINNOWER_PASS (R97, R98, R100, R106): the next pass of a plot's rerank selection from its own eligible visits.  The pass that ends
the selection forms the plot list, which the home plot takes (log 200).  How PASSES counts: log 184, 185. -/
def execWinnowerPass (tag pos plot : Nat) (chk : Chk) (s : State) : Host.Outcome State Fault Refusal :=
  .next (s.during tag 5 fun _ w =>
    match w.localAt pos with
    | none => s
    | some x => match s.entryOf x with
      | none => s
      | some (h, _) =>
        let p := x.plotSel plot
        if 3 ≤ x.stage ∨ ¬ x.searched.contains plot ∨ p.list.isSome then s else
        let r := s.checkIn chk plot 0x3042 (locRow plot 4 0) 0x3012 3 tag
        let mine := x.eligible.filter fun v => handleSeg v.handle % 16 == plot
        let key := fun (v : Visit) => orderKey v.dist pos v.handle
        let sel := selectPass (mine.map key) p.keys (pRerank w.params)
        let recs := (recordsOf key mine sel.1).map (visitCand h x.id)
        let p1 : PlotSel := ⟨plot, sel.1, if sel.2 then some (plotListBytes x x.src.node plot tag w.widened recs) else none⟩
        if r.2 then (r.1.bump 0x3012 1 1).modEntry tag pos fun x => { x with plots := (x.plots.filter fun y => y.plot != plot) ++ [p1] }
        else r.1)

/-- RERANK_SELECT (R89, R90, R106): the next pass of the home plot's selection from the union of the plot lists.  The pass that ends it
fixes the candidates; in Seedling service those without a vector in the stacks drop out. -/
def execRerankSelect (tag pos : Nat) (chk : Chk) (s : State) : Host.Outcome State Fault Refusal :=
  .next (s.during tag 5 fun home w =>
    match w.localAt pos with
    | none => s
    | some x => match s.entryOf x with
      | none => s
      | some (h, _) =>
        if 3 ≤ x.stage ∨ ¬ x.searched.all (fun p => (x.plotSel p).list.isSome) then s else
        let r := s.checkIn chk home 0x3042 (locRow home 4 0) 0x3012 3 tag
        let union := x.searched.flatMap fun p => parseRecords (((x.plotSel p).list.getD []).drop 96)
        let key := fun (c : Cand) => orderKey c.pq pos c.handle
        let sel := selectPass (union.map key) x.sel (pRerank w.params)
        let cands := (recordsOf key union sel.1).filter fun c => !w.seedling || inStacks h c.handle
        if ¬ r.2 then r.1
        else (r.1.bump 0x3012 1 1).modEntry tag pos fun x =>
          if sel.2 then { x with cands := cands, sel := [], stage := 3 } else { x with sel := sel.1 })

/-- The check of the stored SUMSQs (R120, R123): one that persists is a read error of the record. -/
def State.checkSumsq (s : State) (c : Chk) (plot loc tag : Nat) : State × Bool :=
  let n := Chk.fails c (s.spillUsed plot)
  let s1 := if n = 0 then s else (s.bump 0x3013 4 n).raise 0x3051 loc 0
  let lost := fun (s : State) => ((s.raise 0x3016 loc 0).lose tag 9, false)
  match c with
  | .ok => (s, true)
  | .once => if s.spillUsed plot then lost s1 else (s1.useSpill plot, true)
  | .twice => lost (if s.spillUsed plot then s1 else s1.useSpill plot)
  | .readUe page => ((s1.homeFault page loc).lose tag 9, false)
  | .frameUe page => s1.frameFault page plot loc [tag]

/-- Whether a stored vector's SUMSQ disagrees with its components modulo 65,521 (R121). -/
def sumsqBad (h : Shard) (hd : Nat) : Bool :=
  let v := (storedVector h hd).getD (0, 0, 0, [])
  sumsqOf v.2.2.2 % 65521 != v.2.2.1 % 65521

/-- RERANK (R79, R90, R121, R123): the stored SUMSQs are checked, then exact distances and residues are formed.  A record that
disagrees with its own components fails on repeat too. -/
def execRerank (tag pos : Nat) (chk sumsq : Chk) (s : State) : Host.Outcome State Fault Refusal :=
  .next (s.during tag 6 fun home w =>
    match w.localAt pos with
    | none => s
    | some x => match s.entryOf x with
      | none => s
      | some (h, _) =>
        if x.stage ≠ 3 then s else
        let metric := (s.workDim w).1
        let loc := locLane home 3 0 16
        let vec := fun (c : Cand) => (storedVector h c.handle).getD (0, 0, 0, [])
        let bad := x.cands.any fun c => sumsqBad h c.handle
        let sq := s.checkSumsq (if bad then .twice else sumsq) home loc tag
        if ¬ sq.2 then sq.1 else
        let r := sq.1.checkIn chk home 0x3050 loc 0x3013 4 tag
        let score := fun (c : Cand) =>
          let v := vec c
          { c with ext := v.1, scale := v.2.1, exact := exactDist metric x.q v.2.2.2 v.2.2.1, resid := residue metric x.q v.2.2.2 }
        if r.2 then r.1.modEntry tag pos fun x => { x with ranked := x.cands.map score, stage := 4 } else r.1)

/-! ### Snapshot roots (R69), and certificates as the serving node assembles them (R112 to R117) -/

def snapLeaves (h : Shard) (e : Epoch) (u : Nat) : List Bytes :=
  ((epochImages h e).map fun g => g.2.root) ++ [e.tombRoot, (mget e.chain u).getD (zeros 32)]

def snapRoot (h : Shard) (e : Epoch) (u : Nat) : Bytes := snapshotRoot h.id e.num u (snapLeaves h e u)

/-- A certificate without its TAG (R112). -/
def certBody (w : Work) (rank : Nat) (x : ShardWork) (c : Cand) (setDigest root proof : Bytes) : Bytes :=
  ascii "OCRT" ++ leBytes 2 1 ++ leBytes 1 w.level ++
  leBytes 1 ((if c.delta then 1 else 0) + (if c.dup then 2 else 0) + (if w.widened then 4 else 0)) ++
  leBytes 4 (176 + proof.length + 32) ++ leBytes 2 rank ++ leBytes 2 x.status ++ leBytes 8 c.ext ++ leBytes 4 x.id ++
  leBytes 4 x.epoch ++ leBytes 8 x.usn ++ leBytes 5 c.handle ++ zeros 3 ++ leBytes 4 c.pq ++ leBytes 4 (ofSInt 32 c.exact) ++
  leBytes 4 c.resid ++ leBytes 4 x.visited ++ leBytes 4 x.filtered ++ leBytes 4 x.pruned ++ zeros 8 ++ padTo 32 setDigest ++
  padTo 32 x.digest ++ padTo 32 root ++ proof

/-- The proof block of a result of an entry that this node serves (R113 to R115). -/
def proofOf (h : Shard) (e : Epoch) (u level : Nat) (c : Cand) : Bytes :=
  let leaves := snapLeaves h e u
  if c.delta then
    let wu := (((mget h.deltas (handleSeg c.handle)).bind fun d => d.recs[handleOff c.handle]?).map (·.usn)).getD 0
    deltaProof wu u ((mget e.chain (wu - 1)).getD (zeros 32)) leaves
  else match mget h.segs (handleSeg c.handle) with
    | none => []
    | some g => sealedProof g.image g.root leaves (e.sealed.findIdx fun n => n == handleSeg c.handle) (handleOff c.handle) level

/-- A certificate as the serving node assembles it: RANK and SET_DIGEST zero (R117). -/
def State.servedCert (s : State) (w : Work) (x : ShardWork) (c : Cand) : Bytes :=
  match s.entryOf x with
  | none => []
  | some (h, e) => certBody w 0 x c (zeros 32) (snapRoot h e x.usn) (proofOf h e x.usn w.level c)

/-! ### Selection, shard results and the merge -/

/-- The conditions of a shard (R91), and its status. -/
def shardConds (w : Work) (x : ShardWork) (n : Nat) : List (Nat × Nat) :=
  let vs := x.allVisits
  (if x.segs.any (·.exhausted) then [(3, 0)] else []) ++
  (if n < w.k then (if vs.any (·.filtered) then [(2, 0)] else [(1, 0)]) else []) ++
  (if w.seedling then [(4, 0)] else [])

/-- What the digests take of a request. -/
def Work.replayHead (w : Work) (cbs : Bytes) : ReplayHead := ⟨w.query, w.params, w.plan, cbs, w.model⟩

/-- The CODEBOOK_DIGEST list of an entry (R45). -/
def entryCbDigests (h : Shard) (e : Epoch) (u : Nat) : Bytes :=
  ((epochImages h e).flatMap fun g => segCb g.2.image) ++ (epochDeltas h e u).flatMap fun d => d.2.cb

/-- A shard's result list, its status and its counts (R45, R89, R91, R101, R102), with the shard digest over them. -/
def ShardWork.conclude (x : ShardWork) (w : Work) (h : Shard) (e : Epoch) (list : List Cand) : ShardWork :=
  let vs := x.allVisits
  let st := (finalStatus (shardConds w x list.length)).1
  let x1 : ShardWork :=
    { x with result := list, sel := [], status := st, visited := vs.length, filtered := (vs.filter fun v => v.filtered).length,
             pruned := (vs.filter fun v => v.pruned).length, stage := 5 }
  { x1 with digest := Sys2Proof.Machine.digest (shardMessage (w.replayHead (entryCbDigests h e x.usn)) x1 vs x.ranked) }

/-- SHARD_RESULT (R91, R100 to R102, R106, R45): the next pass of the selection from the shard's distinct reranked candidates.  The pass
that ends it gives the result list and the digest, and for a sub-request the fields of its certificates (R117); the two Keccak cores of
their hashes are compared (R120). -/
def execShardResult (tag pos : Nat) (chk hash : Chk) (s : State) : Host.Outcome State Fault Refusal :=
  .next (s.during tag 7 fun home w =>
    match w.localAt pos with
    | none => s
    | some x => match s.entryOf x with
      | none => s
      | some (h, e) =>
        if x.stage ≠ 4 then s else
        let r := s.checkIn chk home 0x3042 (locRow home 4 0) 0x3012 3 tag
        let uniq := removeDups (fun _ => pos) (fun _ => x.src.node) x.ranked
        let key := fun (c : Cand) => orderKey (exactPrimary c.exact) pos c.handle
        let sel := selectPass (uniq.map key) x.sel w.k
        if ¬ r.2 then r.1
        else
          let s1 := r.1.bump 0x3012 1 1
          if ¬ sel.2 then s1.modEntry tag pos fun x => { x with sel := sel.1 }
          else
            let d := s1.checkIn hash home 0x3054 (locPlot home) 0x3013 5 tag
            if ¬ d.2 then d.1
            else
              let x1 := x.conclude w h e (recordsOf key uniq sel.1)
              let certs := if w.kind = 5 then x1.result.zipIdx.map fun c => (c.2, s.servedCert w x1 c.1 ++ zeros 32) else []
              (d.1.bump 0x3012 2 (x.ranked.length - uniq.length)).modEntry tag pos fun _ => { x1 with certs := certs })

/-- The inputs to a request's final status (R162): request-level outcomes, shard codes of 3 and above, the merge's own
shortness. -/
def mergeConds (w : Work) (n : Nat) : List (Nat × Nat) :=
  (if w.seedling then [(4, 0)] else []) ++
  (w.shards.filterMap fun x => if 3 ≤ x.status % 256 then some (x.status % 256, x.status / 256) else none) ++
  (if n < w.k then (if w.shards.any fun x => decide (0 < x.filtered) then [(2, 0)] else [(1, 0)]) else [])

/-- The bits of CONDITIONS (R162): every code that an input held, codes 1 and 2 of a shard's status among them. -/
def mergeBits (w : Work) (n : Nat) : Nat :=
  (finalStatus (mergeConds w n ++ w.shards.map fun x => (x.status % 256, x.status / 256))).2

/-- Whether a status carries result records (R104). -/
def carriesRecords (code : Nat) : Bool := !([5, 8, 9, 10].contains code)

/-- A request's final list, its status, and its replay digest (R46, R91, R104, R162). -/
def Work.conclude (w : Work) (list : List Cand) : Work :=
  let st := (finalStatus (mergeConds w list.length)).1
  let final := if carriesRecords (st % 256) then list else []
  { w with merged := true, sel := [], final := final, status := st, condBits := mergeBits w list.length,
           short := decide (list.length < w.k) && w.shards.any fun x => decide (0 < x.filtered),
           replay := digest (mergeMessage w.query w.params st (w.shards.map (·.digest)) final) }

/-- MERGE (R100 to R102, R106, R162, R46): the next pass of the selection from the union of the shard lists without duplicates.  The
pass that ends it gives the final list and the replay digest, whose two Keccak cores are compared (R120).  A request of one shard runs it too
(log 198). -/
def execMerge (tag : Nat) (chk hash : Chk) (s : State) : Host.Outcome State Fault Refusal :=
  .next (s.during tag 9 fun home w =>
    if w.merged ∨ ¬ w.shards.all (fun x => x.stage == 5) then s else
    let r := s.checkIn chk home 0x3042 (locRow home 4 0) 0x3012 3 tag
    let pos := fun id => w.shards.findIdx fun x => x.id == id
    let node := fun id => ((w.shards.find? fun x => x.id == id).map (·.src.node)).getD 0
    let all := w.shards.flatMap (·.result)
    let uniq := removeDups pos node all
    let key := fun (c : Cand) => orderKey (exactPrimary c.exact) (pos c.shard) c.handle
    let sel := selectPass (uniq.map key) w.sel w.k
    if ¬ r.2 then r.1
    else
      let s1 := r.1.bump 0x3012 1 1
      if ¬ sel.2 then s1.modWork tag fun w => { w with sel := sel.1 }
      else
        let d := s1.checkIn hash home 0x3054 (locPlot home) 0x3013 5 tag
        let w1 := w.conclude (recordsOf key uniq sel.1)
        if ¬ d.2 then d.1
        else
          let s2 := (d.1.bump 0x3012 2 (all.length - uniq.length)).modWork tag fun _ => w1
          if w1.short && pWiden w.params && !w.widen then s2.raise 0x3013 (locPlot home) 0 else s2)

/-- An entry as the widened pass finds it: the same tables and the same INT8 query (R92). -/
def ShardWork.again (x : ShardWork) (h : Option (Shard × Epoch)) : ShardWork :=
  { x with walks := [], segs := [], rows := [], delta := none, plots := [], sel := [], cands := [], ranked := [], result := [],
           status := 0, visited := 0, filtered := 0, pruned := 0, digest := [], certs := [], stage := if x.src.port = 0xFF then 1 else 0,
           todo := (h.map (·.2.sealed)).getD [] }

/-- WIDENED_PASS (R92): the search of every shard begins again with the widened values; the shards of other nodes are asked again under
the posted block.  It needs a grant, so that with the Hand stopped the request completes with NOT_GRANTED (R18). -/
def execWidenedPass (tag : Nat) (s : State) : Host.Outcome State Fault Refusal :=
  .next (s.during tag 9 fun home w =>
    if ¬ w.merged ∨ ¬ w.wantsWiden then s else
    match s.farOf tag with
    | none => s
    | some (c, f) =>
      if ¬ s.node.handAlive then s.completeEmpty tag f (mkStatus 7 0) else
      let redo := fun (x : ShardWork) => x.again (s.entryOf x)
      let s1 := (s.modWork tag fun w => { w with widened := true, short := false, merged := false, final := [], status := 0, condBits := 0,
                                                 replay := [], shards := w.shards.map redo }).modFar c fun f => { f with phase := 4 }
      let req : SearchReq := ⟨w.params, w.query, w.shards.map fun x => (x.id, x.epoch, x.usn), w.shards.map (·.src)⟩
      (((s1.bump 0x3011 5 1).useGrant 5).raise 0x3012 (locPlot home) 0).sendSubs f.client tag w.supplied req)

/-! ### Lists between nodes (R105, R108) -/

/-- The records of a list are in strictly ascending key order (R105). -/
def keysRise (l : List Cand) : Bool := strictlyRising (l.map fun c => orderKey (exactPrimary c.exact) 0 c.handle)

/-- Whether a shard list suits its merge-source entry (R108); a list whose status carries no results is taken as empty, whatever its
COUNT says. -/
def listFits (body : Bytes) (x : ShardWork) (k tag : Nat) : Bool :=
  let n := u16 body 4
  let recs := parseRecords (body.drop 96)
  (sl body 0 4 == ascii "OWPL") && u8 body 6 == x.src.node && u8 body 7 == 0xFF && u32 body 8 == x.id && decide (n ≤ k) &&
  u64 body 16 == tag && body.length == 96 + 32 * n && keysRise recs && recs.all (fun c => c.shard == x.id)

/-- The entry with a received list. -/
def ShardWork.withList (x : ShardWork) (body : Bytes) : ShardWork :=
  let st := u16 body 12
  { x with result := if carriesRecords (st % 256) then parseRecords (body.drop 96) else [], status := st,
           visited := u32 body 24, filtered := u32 body 28, pruned := u32 body 32, digest := sl body 64 32, stage := 5 }

/-- SHARD_LIST (R105, R108): a message for request `tag`.  A list that does not suit its entry, or a second one for a shard, loses the
request; one for a request that has ended is discarded. -/
def execShardList (port tag : Nat) (body : Bytes) (s : State) : Host.Outcome State Fault Refusal :=
  match s.farOf tag, s.workOf tag with
  | some (_, f), some w =>
    if f.kind ≠ 1 ∨ f.phase = 0x0C then .next s else
    let pos := w.shards.findIdx fun x => x.id == u32 body 8 && x.src.port == port
    let fits := match w.shards[pos]? with
      | some x => decide (f.phase ≤ 0x08) && x.stage != 5 && listFits body x w.k tag
      | none => false
    .next (if fits then s.modEntry tag pos fun x => x.withList body
      else ((s.bump 0x3012 4 1).raise 0x3041 (locHedge port) 0).lose tag 9)
  | _, _ => .next s

/-- CERT_FIELDS (R117): the blocks of a list's records, in list order, as the serving node fills the certificates. -/
def certBlocks : Nat → Bytes → List Bytes
  | 0, _ => []
  | n + 1, b => if b.length < 12 then [] else b.take (max 12 (u32 b 8)) :: certBlocks n (b.drop (max 12 (u32 b 8)))

def execCertFields (port tag : Nat) (body : Bytes) (s : State) : Host.Outcome State Fault Refusal :=
  match s.farOf tag, s.workOf tag with
  | some (_, f), some w =>
    let bl := certBlocks 1024 body
    let pos := w.shards.findIdx fun x => x.src.port == port && (bl.head?.map fun b => u32 b 24 == x.id).getD false
    .next (if f.kind ≠ 1 ∨ 0x08 < f.phase then s
      else s.modEntry tag pos fun x => { x with certs := (bl.zipIdx).map fun e => (e.2, e.1) })
  | _, _ => .next s

/-- REMOTE_WAIT_EXPIRY (R108, R117): lists, or a proof block of a listed record, are missing at the planned merge step. -/
def execRemoteWaitExpiry (tag : Nat) (s : State) : Host.Outcome State Fault Refusal :=
  match s.farOf tag, s.workOf tag with
  | some (_, f), some w =>
    if f.owner ≠ 1 ∨ f.phase ≠ 0x08 then .next s else
    let late := w.remotes.filter fun x => x.stage != 5
    if ¬ late.isEmpty then
      .next ((late.foldl (fun (s : State) x => (s.bump 0x3012 4 1).raise 0x3040 (locHedge x.src.port) 0) s).lose tag 9)
    else match w.remotes.find? fun x => decide (x.certs.length < x.result.length) with
      | some x => .next ((s.raise 0x3055 (locHedge x.src.port) 0).lose tag 9)
      | none => .next s
  | _, _ => .next s

/-- SUB_SEARCH (R158): the descriptor waits for a sub-request slot of its port. -/
def execSubSearch (port : Nat) (body : Bytes) (s : State) : Host.Outcome State Fault Refusal :=
  .next { s with ledger := { s.ledger with subQ := s.ledger.subQ ++ [(port, body)] } }

end Sys2Proof.Machine
end

