-- ==== Sys2Proof/Machine/Complete.lean ====
section
/-! DEFINITION. Certificates (R110 to R117), completions (R157, R163, R164, R223, R224), audit passes (R127 to R130), root
records (R69, R70, R166). -/

namespace Sys2Proof.Machine

/-! ### Certificates -/

/-- The certificate set's header without its TAG (R111). -/
def setHeader (w : Work) (tag dim : Nat) : Bytes :=
  let q := ((w.shards.head?.map (·.q)).getD []).map fun i => BitVec.ofInt 8 i
  let qv := 64 * ceilDiv dim 64
  ascii "OCSH" ++ leBytes 2 1 ++ leBytes 2 w.final.length ++ leBytes 8 tag ++ leBytes 2 w.status ++ leBytes 1 w.level ++
  leBytes 1 ((if w.widened then 1 else 0) + (if pAudit w.params then 2 else 0)) ++ leBytes 2 dim ++ zeros 2 ++
  leBytes 4 ((w.shards.head?.map (·.qScale)).getD 0) ++ leBytes 4 (208 + qv + 32) ++ featureLevel ++ digest w.query ++
  digest w.params ++ padTo 32 w.replay ++ padTo 32 w.plan ++ padTo 32 w.model ++ padTo qv q

/-- A path's siblings and side bits as a path. -/
def pathOf (sides : Nat) (sib : List Bytes) : List (Bool × Bytes) := (sib.zipIdx).map fun e => (bit sides e.2, e.1)

/-- The page proofs of a block, with the segment root they lead to (R114). -/
def pageProofsOk (shard seg pages : Nat) (segRoot : Bytes) : Nat → Bytes → Bool
  | 0, _ => true
  | n + 1, b =>
    let d := u8 b 5
    let top := foldPath (sl b 16 32) (pathOf (u32 b 8) (splitAll 32 (sl b 48 (32 * d))))
    (digest (0x02 :: (leBytes 4 shard ++ leBytes 2 seg ++ leBytes 4 pages ++ top)) == segRoot) &&
    pageProofsOk shard seg pages segRoot n (b.drop (48 + 32 * d))

/-- D(u) of a shard's epoch, where this node holds the chain itself (R68). -/
def State.chainAt (s : State) (shard epoch u : Nat) : Option Bytes :=
  (((s.slotOf shard).bind (mget s.shards)).bind fun h => h.epoch? epoch).bind fun e => mget e.chain u

/-- The paths of a remote block, folded up to its SNAPSHOT_ROOT (R117).  A delta block's path begins at D(u), which the block does not
hold: it is folded where this node holds the chain, and otherwise its USNs are compared (log 160). -/
def remotePaths (b : Bytes) (shard epoch usn seg : Nat) (delta : Bool) (link : Option Bytes) : Bool :=
  let p := b.drop 176
  let rootOf := fun (count : Nat) (top : Bytes) =>
    digest (0x03 :: (leBytes 4 shard ++ leBytes 4 epoch ++ leBytes 8 usn ++ leBytes 4 count ++ top))
  if delta then
    let d := u8 p 16
    decide (u64 p 0 + u32 p 8 = usn) && (match link with
      | none => true
      | some l => rootOf (u32 p 12) (foldPath l (pathOf (u32 p 20) (splitAll 32 (sl p 64 (32 * d))))) == sl b 144 32)
  else
    let d := u8 p 44
    rootOf (u32 p 32) (foldPath (sl p 0 32) (pathOf (u32 p 48) (splitAll 32 (sl p 64 (32 * d))))) == sl b 144 32 &&
    pageProofsOk shard seg (u32 p 40) (sl p 0 32) (u8 p 45) (p.drop (64 + 32 * d))

/-- The checks on a remote block (R117): its paths, its residue, its counts, its record; and its LEVEL, which is the set header's (R112,
log 159).  EPOCH and USN are the Stamp entry's, or the block's own where the serving node fixed the Stamp. -/
def remoteOk (b : Bytes) (w : Work) (x : ShardWork) (c : Cand) (link : Option Bytes) : Bool :=
  let epoch := if w.supplied then x.epoch else u32 b 28
  let usn := if w.supplied then x.usn else u64 b 32
  remotePaths b x.id epoch usn (handleSeg c.handle) c.delta link && u8 b 6 == w.level && u32 b 28 == epoch && u64 b 32 == usn &&
  (u32 b 56 : Int) == c.exact.emod 65521 && u32 b 60 == x.visited && u32 b 64 == x.filtered && u32 b 68 == x.pruned &&
  u64 b 16 == c.ext && u40 b 40 == c.handle && u32 b 48 == c.pq && u32 b 52 == ofSInt 32 c.exact

/-- The certificate of a final record, or none where a remote block fails its checks. -/
def State.certOf (s : State) (w : Work) (rank : Nat) (c : Cand) (setDigest : Bytes) : Option Bytes :=
  match w.shards.find? fun x => x.id == c.shard with
  | none => none
  | some x =>
    let fin := fun (b : Bytes) =>
      let b1 := overlay (overlay b 12 (leBytes 2 rank)) 80 setDigest
      b1 ++ tagOf (s.sessionKey w.qp) b1 "OC4-CERT"
    if x.src.port = 0xFF then some (fin (s.servedCert w x c))
    else
      let j := x.result.findIdx fun r => r.handle == c.handle
      match x.certs.find? fun e => e.1 == j with
      | none => none
      | some (_, b) =>
        let body := b.take (b.length - 32)
        let flags := leBytes 1 ((if c.delta then 1 else 0) + (if c.dup then 2 else 0) + (if w.widened then 4 else 0))
        if remoteOk body w x c (s.chainAt x.id (u32 body 28) (u64 body 32)) then some (fin (overlay body 7 flags)) else none

/-- CERTIFY (R110 to R117). -/
def execCertify (tag : Nat) (chk : Chk) (s : State) : Host.Outcome State Fault Refusal :=
  .next (s.during tag 0x0A fun home w =>
    if ¬ w.certSet.isEmpty then s else
    let r := s.checkIn chk home 0x3054 (locPlot home) 0x3013 5 tag
    if ¬ r.2 then r.1
    else if ¬ carriesRecords (w.status % 256) then r.1.modWork tag fun w => { w with certSet := [0] }
    else
      let hd := setHeader w tag (s.workDim w).2
      let certs := (w.final.zipIdx).map fun e => s.certOf w e.2 e.1 (digest hd)
      if certs.any (·.isNone) then (r.1.raise 0x3055 (locPlot home) 0).lose tag 9
      else
        let set := hd ++ tagOf (s.sessionKey w.qp) hd "OC4-CERT-SET" ++ (certs.filterMap id).flatten
        r.1.modWork tag fun w => { w with certSet := set })

/-! ### Root records (R70, R166) -/

/-- A root record's 64 bytes (R70). -/
def rootBytes (r : RootRec) : Bytes :=
  leBytes 4 r.shard ++ leBytes 4 r.epoch ++ leBytes 8 r.usn ++ leBytes 1 r.reason ++ zeros 15 ++ padTo 32 r.root

/-- Put a root record of a shard's epoch at a USN into the root queue, once; it leaves once the Keccak cores have agreed on its root.
DESIGN CHOICE (log 161): a record that finds the queue full is not queued, and counts as not published. -/
def State.queueRoot (s : State) (slot : Nat) (h : Shard) (e : Epoch) (u reason : Nat) : State :=
  if s.ledger.published.contains (h.id, e.num, u) ∨ 4096 ≤ s.ledger.rootQ.length then s else
  ({ s with ledger := { s.ledger with
      rootQ := s.ledger.rootQ ++ [(⟨slot, h.id, e.num, u, reason, snapRoot h e u, false⟩ : RootRec)],
      published := s.ledger.published ++ [(h.id, e.num, u)] } }).evU 0x3020 locField (some (slot, u)) 0

/-- A root record as a completion of its own (R163, R164). -/
def rootHead : CplHead := ⟨8, false, false, 0, 0, 0, 0, 0, 0, 0⟩

/-- The comparison of the Keccak cores for the first root record that has not passed one (R120, R123): it passes, or it is dropped, since
its root is not known (log 161).  The plot is that of the shard's first segment number. -/
def State.checkRoot (s : State) (c : Chk) : State :=
  match s.ledger.rootQ.find? fun r => !r.ok with
  | none => s
  | some r =>
    let p := (((mget s.shards r.slot).map (·.segBase)).getD 0) % 16
    let d := s.checkAlone c p 0x3054 (locPlot p) 0x3013 5
    let q := d.1.ledger.rootQ
    let first := fun (x : RootRec) => x.slot == r.slot && x.epoch == r.epoch && x.usn == r.usn
    { d.1 with ledger := { d.1.ledger with
        rootQ := if d.2 then q.map fun x => if first x then { x with ok := true } else x else q.filter fun x => !first x } }

/-- Those of all the root records that a step has formed, in queue order. -/
def State.checkRoots (s : State) (chks : List Chk) : State :=
  let n := (s.ledger.rootQ.filter fun r => !r.ok).length
  (List.range n).foldl (fun s k => s.checkRoot (chks.getD k .ok)) s

/-- Write the root records that wait, while IDX.ROOT_RING has room for two slots (R166). -/
def State.drainRoots (s : State) : Nat → State
  | 0 => s
  | fuel + 1 =>
    match s.ledger.rootQ, mget s.rings (s.actN 0x3030 2) with
    | r :: rest, some q =>
      if q.freeSlots < 2 ∨ ¬ r.ok then s else
      (({ s with ledger := { s.ledger with rootQ := rest } }).writeCpl (s.actN 0x3030 2) 0 rootHead (rootBytes r)).drainRoots fuel
    | _, _ => s

/-- The root records that a step has formed are checked, and written in that step (R70). -/
def State.formRoots (s : State) (chks : List Chk) : State := (s.checkRoots chks).drainRoots s.ledger.rootQ.length

/-- ROOT_QUEUE_DRAIN (R166). -/
def execRootQueueDrain (s : State) : Host.Outcome State Fault Refusal := .next (s.drainRoots s.ledger.rootQ.length)

/-- The epoch under which a USN was the newest: the last held epoch that began at or below it. -/
def Shard.epochAt (h : Shard) (u : Nat) : Epoch :=
  ((h.epochs.filter fun e => decide (e.floor ≤ u)).getLast?).getD h.cur

/-- ROOT_REQUEST (R159, R70): the root at V(h) as it stood at admission, computed on two Keccak cores (R120). -/
def execRootRequest (tag : Nat) (hash : Chk) (s : State) : Host.Outcome State Fault Refusal :=
  .next (s.during tag 0x12 fun home w =>
    match s.slotOf (u32 w.body 0) with
    | none => s
    | some i => match mget s.shards i with
      | none => s
      | some h =>
        let e := h.epochAt w.usn
        let d := s.checkIn hash home 0x3054 (locPlot home) 0x3013 5 tag
        if ¬ d.2 then d.1
        else d.1.modWork tag fun w => { w with merged := true, replay := rootBytes ⟨i, h.id, e.num, w.usn, 3, snapRoot h e w.usn, true⟩,
                                               roots := [(i, e.num, w.usn)] })

/-- The root record of a ROOT_REQUEST, written behind its completion: it counts as published (R70, R131). -/
def State.writeRoot (s : State) (w : Work) : State :=
  let s1 := s.writeCpl w.orig 2 rootHead w.replay
  let pub := w.roots.map fun r => (u32 w.body 0, r.2.1, r.2.2)
  let s2 := { s1 with ledger := { s1.ledger with published := s1.ledger.published ++ pub.filter fun p => !s1.ledger.published.contains p } }
  s2.evU 0x3020 locField ((w.roots.head?).map fun r => (r.1, r.2.2)) 0

/-! ### Generation bodies (R223, R224) -/

/-- The tokens that the pages of a sequence hold: those of its first (layer, KV head) pair. -/
def genLength (pages : List (KvPage × Nat)) : Nat :=
  sumNat ((pages.filter fun p => p.1.layer == 0 && p.1.head == 0).map fun p => p.1.valid)

/-- The values that a completion returns: tokens or scores. -/
def GenWork.values (g : GenWork) : List Nat := if u8 g.hdr 0 = 0 then g.out else g.scores

/-- GEN_DIGEST (R224). -/
def genDigest (w : Work) (g : GenWork) : Bytes :=
  digest (ascii "OC4-REPLAY-GEN--" ++ featureLevel ++ padTo 32 w.plan ++ padTo 32 w.model ++
    (if g.draft.isEmpty then zeros 32 else digest g.draft) ++
    digest (if u8 w.body 1 = 1 then overlay w.body 12 (zeros 4) else w.body) ++
    (if 2 ≤ u8 g.hdr 1 then padTo 32 g.prior else zeros 32) ++ g.roots.flatMap (padTo 32) ++
    leBytes 1 g.stop ++ leBytes 2 (if u8 g.hdr 0 = 0 then g.out.length else 0) ++ g.values.flatMap (leBytes 4))

/-- What becomes of the cache at completion (R219): the state, and CACHE_ID and CACHE_TOKENS of R223.  The other members drop the pages
of a cache that is not kept (R225). -/
def State.settleCache (s : State) (tag : Nat) (w : Work) (g : GenWork) (part : Nat) : State × Nat × Nat :=
  let op := u8 g.hdr 1
  let len := genLength g.pages
  let key := g.key.getD tag
  let c : Cache :=
    ⟨s.blockBytes part g.image (heldBlocks g.pages 0), part, w.model, len, genDigest w g, g.pages, g.dpages, g.spread, g.members, key, false,
      s.step.number⟩
  if op = 1 ∧ u8 g.hdr 0 = 0 then
    ({ s with caches := mput s.caches s.nextCache c, nextCache := s.nextCache + 1 }, s.nextCache, len)
  else if op = 2 then ({ s with caches := mput s.caches g.cache c }, g.cache, len)
  else if op = 3 then (s.dropCaches fun x => x.1 == g.cache, 0, 0)
  else (if u8 g.hdr 0 = 0 then s.releaseLent key g.members else s, 0, 0)

/-- The body of a GENERATE completion (R223). -/
def genBody (w : Work) (g : GenWork) (cache tokens : Nat) : Bytes :=
  let out := g.values.flatMap (leBytes 4)
  leBytes 1 (u8 g.hdr 0) ++ leBytes 1 g.stop ++ leBytes 2 (if u8 g.hdr 0 = 0 then g.out.length else 0) ++ leBytes 4 cache ++
  leBytes 4 tokens ++ leBytes 2 g.emitting ++ leBytes 2 g.accepted ++ zeros 16 ++ genDigest w g ++ padTo (64 * ceilDiv out.length 64) out

/-! ### Completions -/

/-- The partition of a ring. -/
def State.ringPart (s : State) (r : Nat) : Nat := ((mget s.rings r).map (·.part)).getD 0

/-- The completion of a search, and what follows it: root records under CERT.PUBLISH_ROOTS, and the audit (R128, R131). -/
def State.completeSearch (s : State) (tag c : Nat) (f : FarCtx) (w : Work) : State :=
  let recs := carriesRecords (w.status % 256)
  let body := if recs then resultRecords w.widened w.k w.final ++ w.certSet else []
  let n := if recs then w.final.length else 0
  let h : CplHead := ⟨1, f.replayed, recs, w.status, n, f.client, tag, w.condBits, if recs then w.k else 0, if f.replayed then w.orig else 0⟩
  let kept := if f.audit then auditSlots f w.k else 0
  let s1 := (s.writeCpl f.cplRing (f.reserved - kept) h body).countStatus 1 (w.status % 256)
  let s2 := if recs ∧ s.actN 0x3013 2 = 1 then
      w.locals.foldl (fun s x => match s.entryOf x with
        | some (h, e) => if h.owner then s.queueRoot x.slot h e x.usn 3 else s
        | none => s) s1
    else s1
  if f.audit then s2.keepAudit tag c kept f w else s2.freeReq tag

/-- The shard lists of a sub-request, each followed by its certificate fields (R108, R117). -/
def State.sendLists (s : State) (w : Work) : State :=
  w.shards.foldl (fun s x =>
    let s1 := s.sendHedge w.subPort 2 w.subTag x.id (shardListBytes x x.src.node w.subTag w.widened)
    s1.sendHedge w.subPort 3 w.subTag x.id (x.certs.flatMap (·.2))) s

/-- COMPLETION_WRITE (R157, R163, R164, R223): a request in phase COMPLETE. -/
def execCompletionWrite (tag : Nat) (s : State) : Host.Outcome State Fault Refusal :=
  match s.farOf tag, s.workOf tag with
  | some (c, f), some w =>
    if f.phase ≠ 0x0B ∨ f.owner ≠ 1 ∨ s.isLost tag then .next s else
    let head : CplHead := ⟨f.kind, f.replayed, false, w.status, 0, f.client, tag, w.condBits, 0, if f.replayed then w.orig else 0⟩
    if f.kind = 1 then .next (s.completeSearch tag c f w)
    else if f.kind = 5 then .next ((s.sendLists w).freeReq tag)
    else if f.kind = 2 then .next (((s.writeCpl f.cplRing f.reserved head (s.earlyBody 2 tag)).countStatus 2 0).freeReq tag)
    else if f.kind = 4 then
      .next (((s.writeCpl f.cplRing f.reserved head []).writeRoot w).freeReq tag)
    else match w.gen with
      | none => .next s
      | some g =>
        let r := s.settleCache tag w g (s.ringPart f.srcRing)
        let s1 := r.1.writeCpl f.cplRing f.reserved { head with n := g.values.length } (genBody w g r.2.1 r.2.2)
        .next (((s1.setN 0x5400 9 r.1.caches.length).countStatus 3 0).freeReq tag)
  | _, _ => .next s

/-! ### Audit passes (R128 to R130) -/

/-- The exact candidates of an entry: every eligible record, scored. In Seedling service only those in the stacks. -/
def State.auditShard (s : State) (w : Work) (x : ShardWork) (metric : Nat) : List Cand :=
  match s.entryOf x with
  | none => []
  | some (h, e) =>
    let score := fun (hd : Nat) (delta : Bool) (v : Nat × Nat × Nat × List Int) (d : Nat) =>
      (⟨v.1, x.id, hd, d, exactDist metric x.q v.2.2.2 v.2.2.1, v.2.1, delta, false, residue metric x.q v.2.2.2⟩ : Cand)
    let sealed := (epochImages h e).flatMap fun g =>
      let view := segView h x w.terms g.2
      if s.step.seedling && !g.2.mirrored then [] else
      ((List.range (segVc g.2.image)).filter fun o => !view.inv o && !view.filt o).filterMap fun o =>
        (storedVector h (mkHandle g.1 o)).map fun v => score (mkHandle g.1 o) false v (view.dist o)
    let delta := ((deltaVisits h e x w.terms (s.entryCode h e).2).filter fun v => !v.filtered && !v.invisible).filterMap fun v =>
      (storedVector h v.handle).map fun r => score v.handle true r v.dist
    sealed ++ delta

/-- The audit record without its TAG (R129). -/
def auditBytes (w : Work) (tag status eligible : Nat) (exact : List Cand) : Bytes :=
  let kth := (exact.getLast?.map fun c => ofSInt 32 c.exact).getD 0x7FFFFFFF
  let hits := (w.final.filter fun c => exact.any fun x => x.ext == c.ext).length
  let dist := match exact.getLast? with
    | some l => (w.final.filter fun c => decide (c.exact ≤ l.exact)).length
    | none => 0
  let dg := digest (ascii "OC4-AUDIT-EXACT-" ++ featureLevel ++ digest w.query ++ digest w.params ++ leBytes 8 eligible ++
    leBytes 2 exact.length ++ exact.flatMap fun c => leBytes 8 c.ext ++ leBytes 4 c.shard ++ leBytes 4 (ofSInt 32 c.exact))
  ascii "OAUD" ++ leBytes 2 w.k ++ leBytes 2 status ++ leBytes 8 tag ++ leBytes 8 eligible ++ leBytes 2 exact.length ++
  leBytes 2 hits ++ leBytes 2 dist ++ zeros 2 ++ leBytes 4 kth ++ zeros 12 ++ dg ++ (exact.zipIdx).flatMap fun e => resultRecord false e.2 e.1

/-- End an audit with a record (R129, R130), and free what it held. -/
def State.endAudit (s : State) (a : Audit) (status eligible : Nat) (exact : List Cand) : State :=
  let client := ((s.farOf a.tag).map (·.2.client)).getD 0
  let b := auditBytes a.work a.tag status eligible exact
  let body := b ++ tagOf (s.sessionKey a.work.qp) b "OC4-AUDIT"
  let h : CplHead := ⟨9, false, false, status, exact.length, client, a.tag, (finalStatus [(status % 256, 0)]).2, exact.length, 0⟩
  let s1 := ((s.writeCpl a.ring a.slots h body).bump 0x3013 6 1).freeReq a.tag
  { s1 with ledger := { s1.ledger with audits := s1.ledger.audits.filter fun x => x.tag != a.tag } }

/-- An audit that cannot go on (R130): the header alone, LOST_CONTEXT in phase AUDIT, and EV 0x3056. -/
def State.failAudit (s : State) (a : Audit) : State :=
  ((s.endAudit a (mkStatus 9 0x0C) 0 []).raise 0x3056 (locPlot a.work.plot) 0)

/-- What an entry of an audit has on each plot: the vectors that its pass scores there. -/
def State.auditOn (s : State) (a : Audit) (all : List Cand) (p : Nat) : Nat :=
  let slot := fun id => ((a.work.shards.find? fun x => x.id == id).map (·.slot)).getD 0
  (all.filter fun c => s.codesPlot (slot c.shard) (handleSeg c.handle) == p).length

/-- The vectors that the audit slices of a step score for an audit, plot by plot, in their CAPACITY (R237). -/
def State.auditScan (s : State) (a : Audit) (all : List Cand) : State × Audit :=
  (List.range 16).foldl (fun (st : State × Audit) p =>
    let n := st.1.roomFor (onPlot p 4) (s.auditOn a all p - mgetD st.2.done p 0)
    if n = 0 then st else (st.1.useRoom (onPlot p 4) n, { st.2 with done := mupd st.2.done p 0 (· + n) })) (s, a)

/-- Whether an audit has scored every vector. -/
def State.audited (s : State) (a : Audit) (all : List Cand) : Bool :=
  (List.range 16).all fun p => decide (s.auditOn a all p ≤ mgetD a.done p 0)

/-- Whether the step has an audit scan slice (R128); those of the Seedling set are the firmware's own (R383, log 158). -/
def State.inAudit (s : State) : Bool :=
  if s.step.seedling then Config.seedlingAudit else !(s.slicesNow fun x => x.typ == 4).isEmpty

/-- AUDIT_PASS (R120, R121, R128 to R130): the audit scan slices of the step score what their CAPACITY allows; the pass that scores the last
vector selects the exact set and writes the record.  An entry that was lost before its query stood cannot be scored (log 186). -/
def execAuditPass (tag : Nat) (sumsq : Chk) (chk : AuditChk) (hash : Chk) (s : State) : Host.Outcome State Fault Refusal :=
  match s.ledger.audits.find? fun a => a.tag == tag with
  | none => .next s
  | some a =>
    if ¬ s.inAudit then .next s else
    let w := a.work
    let home := w.plot
    if w.shards.any fun x => x.q.isEmpty then .next (s.failAudit a) else
    let all := w.shards.flatMap fun x => s.auditShard w x (s.workDim w).1
    let pos := fun id => w.shards.findIdx fun x => x.id == id
    let loc := locLane home 3 0 16
    let bad := w.shards.any fun x => ((s.entryOf x).map fun e => all.any fun c => c.shard == x.id && sumsqBad e.1 c.handle).getD false
    let sc := s.auditScan a all
    let sq := sc.1.checkAlone (if bad then .twice else sumsq) home 0x3051 loc 0x3013 4
    let r := sq.1.checkAlone chk.resid home 0x3050 loc 0x3013 4
    let h := r.1.checkAlone chk.shadow home 0x3053 (locRow home 2 0) 0x3013 5
    if ¬ sq.2 then .next ((sq.1.raise 0x3016 loc 0).failAudit a)
    else if ¬ r.2 then .next (r.1.failAudit a)
    else if ¬ h.2 then .next (h.1.failAudit a)
    else if ¬ s.audited sc.2 all then
      .next { h.1 with ledger := { h.1.ledger with audits := h.1.ledger.audits.map fun x => if x.tag == tag then sc.2 else x } }
    else
      let uniq := removeDups pos (fun _ => 0) all
      let exact := selectBy (fun c => orderKey (exactPrimary c.exact) (pos c.shard) c.handle) uniq w.k
      let v := h.1.checkAlone chk.sel home 0x3042 (locRow home 4 0) 0x3012 3
      let d := v.1.checkAlone hash home 0x3054 (locPlot home) 0x3013 5
      .next (if ¬ v.2 then v.1.failAudit a
        else if ¬ d.2 then d.1.failAudit a
        else
          let s1 := (d.1.bump 0x3012 1 (winnowPasses uniq.length w.k)).bump 0x3012 2 (all.length - uniq.length)
          if s.step.seedling then (s1.endAudit a 4 all.length exact).raise 0x3056 (locPlot home) 0 else s1.endAudit a 0 all.length exact)

end Sys2Proof.Machine
end

