-- ==== Sys2Proof/Machine/Flash.lean ====
section
/-! DEFINITION. Flash channels and translation (R268 to R288). -/

namespace Sys2Proof.Machine

/-! ### Programs (R270, R271, R276) -/

/-- The slices of a type that name a die (R270); whether a die may run `n` units in them, and the run. -/
def onDie (typ k : Nat) (x : Slice) : Bool := x.typ == typ && bit x.target (k / 16) && bit x.params (112 + k % 16)
def State.dieRuns (s : State) (typ k n : Nat) : Bool := s.dieUp k && s.fits (onDie typ k) n
def State.dieRan (s : State) (typ k n : Nat) : State := s.useRoom (onDie typ k) n

/-- The partition whose namespace holds an LPN, and the generation of its key (R271, R273). -/
def State.nsOf (s : State) (lpn : Nat) : Option Nat :=
  (List.range 8).find? fun p => decide (s.actN (0x7040 + p) 1 ≤ lpn) && decide (lpn < s.actN (0x7040 + p) 1 + s.actN (0x7040 + p) 2)
def State.keyOf (s : State) (lpn : Nat) : Nat := ((s.nsOf lpn).map fun p => p + 8 * ((mget s.parts p).map (·.key)).getD 0).getD 0

/-- The metadata of a sector of a unit, and its data as they stand on NAND, encrypted under the namespace's key with (LPN, SECTOR) as the tweak
(R271). -/
def FUnit.metadata (u : FUnit) (sector : Nat) : Bytes := leBytes 4 u.lpn ++ leBytes 1 sector ++ leBytes 1 u.kind ++ zeros 2 ++ leBytes 8 u.seq
def FUnit.cipher (u : FUnit) (sector : Nat) : Bytes :=
  (List.range 2048).map (Config.xtsEncrypt u.key (u.lpn * 8 + sector) (sl u.data (2048 * sector) 2048))

/-- The block that takes a die's next page of a mode and a use: its open one, or its least-worn free block where a write may open one. -/
def State.blockFor (s : State) (k : Nat) (slc : Bool) (use_ : Nat) : Option Nat :=
  (mget s.flash.dies k).bind fun d =>
    (d.usable.find? fun n => (d.blk n).st == 1 && (d.blk n).slc == slc && (d.blk n).use_ == use_) <|>
    (if s.mayOpen k d slc then d.leastWorn else none)

/-- Program the next page of a block: its address.  Every program counts in WRITE_SEQ (R271). -/
def State.programIn (s : State) (k n : Nat) (slc : Bool) (use_ lpn kind : Nat) (data : Bytes) : State × Nat :=
  match mget s.flash.dies k with
  | none => (s, unmapped)
  | some d =>
    let b := d.blk n
    let a := unitAddr k n b.written d.units
    let st := if d.cap slc ≤ b.written + 1 then 2 else 1
    let u : FUnit := ⟨lpn, kind, s.flash.writeSeq, s.keyOf lpn, data⟩
    let s1 := s.modDie k fun d => (d.setMode slc).setBlk n fun b => { b with st := st, slc := slc, use_ := use_, written := b.written + 1 }
    ({ s1 with flash := { s1.flash with writeSeq := s.flash.writeSeq + 1, units := mput s1.flash.units a u } }, a)

/-- Program a page of a die in the slices of a type; none where no page can be had. -/
def State.program (s : State) (typ k : Nat) (slc : Bool) (use_ lpn kind : Nat) (data : Bytes) : Option (State × Nat) :=
  if s.dieRuns typ k 1 then (s.blockFor k slc use_).map fun n => (s.dieRan typ k 1).programIn k n slc use_ lpn kind data else none

/-- The lowest die that has a page for a slice type. -/
def State.dieFor (s : State) (typ : Nat) (slc : Bool) (use_ : Nat) : Option Nat :=
  (s.flash.dies.map (·.1)).find? fun k => s.dieRuns typ k 1 && (s.blockFor k slc use_).isSome

/-- Make a map change: it is charged and journalled at once, and takes effect at the next boundary (R274, R278). -/
def State.changeMap (s : State) (lpn addr seq : Nat) : State :=
  let e : JEntry := ⟨lpn, addr, seq, 1⟩
  { s with flash := { s.flash with pend := s.flash.pend ++ [e], journal := s.flash.journal ++ [e] } }

/-- What an LPN maps to once the changes of this step have taken effect. -/
def State.mapNext (s : State) (lpn : Nat) : Option Nat :=
  match (s.flash.pend.filter fun e => e.lpn == lpn).getLast? with
  | some e => if e.addr = unmapped then none else some e.addr
  | none => mget s.flash.map lpn

/-- Unmap a range of LPNs (R279). -/
def State.trim (s : State) (first n : Nat) : State :=
  (List.range n).foldl (fun s j => if (s.mapNext (first + j)).isSome then s.changeMap (first + j) unmapped s.flash.writeSeq else s) s

/-- Retire a block (R280, R282): its die's spare takes its place, while there is one. -/
def State.retireBlk (s : State) (k n : Nat) : State :=
  match mget s.flash.dies k with
  | none => s
  | some d =>
    let s1 := (s.modDie k fun d => { d.setBlk n (fun b => { b with st := 3 }) with spares := d.spares - 1 }).bump 0x7011 6 1
    if d.spares = 0 then s1.raise 0x7033 (dieLoc k) 0 else s1

/-- Retire a block whose program or read-back failed. -/
def State.retire (s : State) (k n : Nat) : State := if (mget s.flash.dies k).isSome then (s.raise 0x7024 (dieLoc k) 0).retireBlk k n else s

/-- Whether an emptied block may be erased: 64 steps after its switch, once the journal entries of its units are programmed (R274, R280). -/
def State.erasable (s : State) (b : Blk) : Bool :=
  b.st == 4 && decide (b.eraseAt ≤ s.step.number) && s.flash.journal.all fun e => decide (b.seq ≤ e.seq)

/-- Erase a block, whose units go; one at its limit is retired as worn instead (R276). -/
def State.dropUnits (s : State) (k n : Nat) : State :=
  { s with flash := { s.flash with units := s.flash.units.filter fun u => !s.inBlk k n u.1 } }
def State.eraseBlk (s : State) (k n : Nat) : State :=
  match mget s.flash.dies k with
  | none => s
  | some d =>
    if d.peLimit ≤ (d.blk n).erases then s.retireBlk k n
    else (s.dropUnits k n).modDie k fun d => (d.setMode (d.blk n).slc).setBlk n Blk.erased

/-- A map change as it takes effect; a namespace trim takes a range of LPNs. -/
def JEntry.apply (m : List (Nat × Nat)) (e : JEntry) : List (Nat × Nat) :=
  if e.addr = unmapped then m.filter fun x => !(decide (e.lpn ≤ x.1) && decide (x.1 < e.lpn + e.span)) else mput m e.lpn e.addr

/-- The addresses of the system pages that are still needed (R273). -/
def State.sysPages (s : State) : List Nat :=
  s.flash.jpages.map (·.addr) ++ s.flash.sys.map (·.2) ++ ((s.flash.flushRec).map (·.places)).getD []

/-- The system blocks of a die without a page that is still needed wait to be erased. -/
def State.emptySys (s : State) (e : Nat × Die) : Nat × Die :=
  let live := s.sysPages
  let gone := fun (n : Nat) (b : Blk) => b.st == 2 && b.use_ == 1 && !live.any fun a => addrDie a == e.1 && e.2.addrBlk a == n
  (e.1, { e.2 with blks := e.2.blks.map fun b => if gone b.1 b.2 then (b.1, { b.2 with st := 4, eraseAt := s.step.number + 64, seq := 0 }) else b })

/-- The map changes of the boundary take effect (R274). -/
def State.flashBoundary (s : State) : State :=
  let s1 := { s with flash := { s.flash with map := s.flash.pend.foldl JEntry.apply s.flash.map, pend := [] } }
  { s1 with flash := { s1.flash with dies := s1.flash.dies.map s1.emptySys } }

/-- A program that failed: counted, reported, what it left is no unit, and its block is retired. -/
def State.programFailed (s : State) (addr : Nat) (event : Nat) : State :=
  let k := addrDie addr
  let n := ((mget s.flash.dies k).map fun d => d.addrBlk addr).getD 0
  (({ s with flash := { s.flash with units := mdel s.flash.units addr } }.bump 0x7011 4 1).raise event (dieLoc k) 0).retire k n

/-! ### Segments out of service (R71, third case) -/

/-- The segment goes out of service at the next boundary. -/
def State.segOut (s : State) (slot seg : Nat) : State :=
  if s.tier.outQ.contains (slot, seg) then s
  else ({ s with tier := { s.tier with outQ := s.tier.outQ ++ [(slot, seg)] } }).raise 0x3032 locField 0

/-- The extent that holds an LPN. -/
def State.extentOf (s : State) (lpn : Nat) : Option Extent :=
  s.flash.extents.find? fun e => decide (e.first ≤ lpn) && decide (lpn < e.first + e.pages)

/-- The segments with mapped pages on dies for which `p` holds follow the third case of R71. -/
def State.segsOutOn (s : State) (p : Nat → Bool) : State :=
  let hit := dedupBy (fun e => e.slot * 65536 + e.seg) [] ((s.flash.map.filter fun e => p (addrDie e.2)).filterMap fun e => s.extentOf e.1)
  hit.foldl (fun s e => s.segOut e.slot e.seg) s

/-- Release the flash image of a segment (R151, R279). -/
def State.dropExtent (s : State) (slot seg : Nat) : State :=
  let gone := s.flash.extents.filter fun e => e.slot == slot && e.seg == seg
  let s1 := gone.foldl (fun s e => s.trim e.first e.pages) s
  { s1 with flash := { s1.flash with extents := s1.flash.extents.filter fun e => !(e.slot == slot && e.seg == seg) } }

/-! ### Log and journal writes (R278) -/

/-- The partition whose namespace holds a shard slot's log. -/
def State.logPart (s : State) (slot : Nat) : Nat := (s.partOfSlot slot).getD 0

/-- The log bytes of a partition that no log page holds yet, and the step of the oldest of them. -/
def State.logPending (s : State) (p : Nat) : Nat :=
  sumNat ((s.log.recs.filter fun r => !r.durable && s.logPart r.slot == p).map fun r => r.bytes.length - r.done)
def State.logOldest (s : State) (p : Nat) : Option Nat :=
  (s.log.recs.find? fun r => !r.durable && s.logPart r.slot == p && decide (r.done < r.bytes.length)).map (·.at_)

/-- The records of a partition after `n` more of their bytes lie in log pages, and the last record touched. -/
def fillLog (hit : LogRec → Bool) : List LogRec → Nat → Nat → List LogRec × Nat
  | [], _, last => ([], last)
  | r :: rest, n, last =>
    if hit r && !r.durable && decide (0 < n) then
      let m := min n (r.bytes.length - r.done)
      let r1 := { r with done := r.done + m, durable := decide (r.bytes.length ≤ r.done + m) }
      let x := fillLog hit rest (n - m) r.seq
      (r1 :: x.1, x.2)
    else
      let x := fillLog hit rest n last
      (r :: x.1, x.2)

/-- The LPN of a partition's next log page: the log ring lies at the start of its namespace. -/
def State.nextLogLpn (s : State) (p : Nat) : Option Nat :=
  let base := s.actN (0x7040 + p) 1
  let n := s.actN (0x7040 + p) 3
  let used := (s.flash.logPages.filter fun g => g.part == p).map (·.lpn)
  let from_ := (used.getLast?.map fun x => x - base + 1).getD 0
  ((List.range n).map fun j => base + (from_ + j) % n).find? fun l => !used.contains l

/-- The bytes of a partition that its next log page takes, and the page (R278): the tag, LOG_SEQ, VALID_BYTES, and the log bytes. -/
def State.logBytes (s : State) (p : Nat) : Bytes :=
  ((s.log.recs.filter fun r => !r.durable && s.logPart r.slot == p).flatMap fun r => r.bytes.drop r.done).take 16320
def State.logPage (s : State) (p : Nat) : Bytes :=
  padTo 16384 (ascii "OLOG" ++ leBytes 8 s.flash.logSeq ++ leBytes 2 (s.logBytes p).length ++ zeros 50 ++ s.logBytes p)

/-- A log page of a partition is programmed at an address: the charges of its bytes are released (R141, R278). -/
def State.logDone (s : State) (p lpn addr seq : Nat) : State :=
  let n := min 16320 (s.logPending p)
  let first := ((s.log.recs.find? fun r => !r.durable && s.logPart r.slot == p && decide (r.done < r.bytes.length)).map (·.seq)).getD 0
  let x := fillLog (fun r => s.logPart r.slot == p) s.log.recs n 0
  let s1 := { s with log := { s.log with recs := x.1, dirty := s.log.dirty - n, full := false },
                     flash := { s.flash with logSeq := s.flash.logSeq + 1, due := s.flash.due.filter (· != p),
                                             logPages := s.flash.logPages ++ [(⟨p, lpn, s.flash.logSeq, n, first, x.2⟩ : LogPage)] } }
  (s1.changeMap lpn addr seq).setN 0x3042 4 (s.log.dirty - n)

/-! ### Reads -/

/-- The figures of a die in a scrub period: they begin anew with it, and those of the last one stay for its health (R281, R283). -/
def Die.inPeriod (d : Die) (p : Nat) : Die :=
  if d.period = p then d else
  { d with period := p, reads := 0, retried := 0, lastReads := if d.period + 1 = p then d.reads else 0,
           lastRetried := if d.period + 1 = p then d.retried else 0, blks := d.blks.map fun e => (e.1, { e.2 with reads := 0, beyond := 0 }) }
def State.scrubAge (s : State) : Nat := s.step.number / max 1 (s.actN 0x7010 0x0F)

/-- Reads of a block, those of them that needed a retry, and those that needed more than FLASH.RETRY_PLANNED (R277, R281). -/
def State.tallyReads (s : State) (k n reads retried beyond : Nat) : State :=
  ((s.bump 0x7011 1 reads).bump 0x7011 2 retried).modDie k fun d =>
    let d := d.inPeriod s.scrubAge
    { d with reads := d.reads + reads, retried := d.retried + retried,
             blks := if n < d.blocks then mput d.blks n { d.blk n with reads := (d.blk n).reads + reads, beyond := (d.blk n).beyond + beyond } else d.blks }

/-- What the tracking loop makes of the sectors of a block (R277): for each, the level concerned and how many more 1 bits the decoded data
held than expected.  Where the imbalance over the last 4,096 sectors exceeds 1% of their bits, the level's offset moves by a step, against the
surplus (log 213), and the die takes it as its read-offset feature. -/
def Die.track (d : Die) (n : Nat) (e : Nat × Int) : Die :=
  let slc := (d.blk n).slc
  let key := n / 64 * 32 + (if slc then 16 else 0) + e.1 % 16
  let seen := (e.2 :: mgetD d.seen key []).take 4096
  let sum := seen.foldl (· + ·) 0
  let old := mgetD d.offsets key 0
  let new_ := if seen.length < 4096 then old else if 671088 < sum then old - 1 else if sum < -671088 then old + 1 else old
  if (if slc then 1 else d.levels) ≤ e.1 then d else
  { d with seen := mput d.seen key seen, offsets := mput d.offsets key new_, feats := mput d.feats (d.offsetFeature + e.1) (ofSInt 32 new_) }
def Die.trackAll (d : Die) (n : Nat) (l : List (Nat × Int)) : Die := l.foldl (fun d e => d.track n e) d

/-- Program a system page of a key (0 = the extent table, 1 + slot = a shard's epoch record, 1,024 + n = map page n) in the slices of a type
(R273, R278); none where no page can be had. -/
def State.putSys (s : State) (typ key : Nat) (data : Bytes) : Option State :=
  (s.dieFor typ true 1).bind fun k => (s.program typ k true 1 unmapped 2 data).map fun x =>
    { x.1 with flash := { x.1.flash with sys := mput x.1.flash.sys key x.2 } }

/-- A mapped page that does not decode (R277): a segment's takes it out of service; a log page is written anew from the Tiller copy of the
log's records, while the node holds them. -/
def State.pageLost (s : State) (lpn : Nat) : State :=
  match s.extentOf lpn with
  | some e => s.segOut e.slot e.seg
  | none =>
    let held := s.flash.logPages.any fun g => g.lpn == lpn && s.log.recs.any fun r => s.logPart r.slot == g.part && decide (r.seq ≤ g.last)
    let data := (((mget s.flash.map lpn).bind fun a => mget s.flash.units a).map (·.data)).getD []
    match (if held then s.dieFor 0x20 true 0 else none).bind fun k => s.program 0x20 k true 0 lpn 1 data with
    | some x => x.1.changeMap lpn x.2 s.flash.writeSeq
    | none => s

/-- A system page that does not decode is written anew from its Tiller copy (R277). -/
def State.sysLost (s : State) (a : Nat) : State :=
  let data := ((mget s.flash.units a).map (·.data)).getD []
  match (s.dieFor 0x20 true 1).bind fun k => s.program 0x20 k true 1 unmapped 2 data with
  | none => s
  | some x =>
    let move := fun (b : Nat) => if b = a then x.2 else b
    { x.1 with flash := { x.1.flash with
      jpages := x.1.flash.jpages.map fun j => { j with addr := move j.addr }, sys := x.1.flash.sys.map fun e => (e.1, move e.2),
      flushRec := x.1.flash.flushRec.map fun f => { f with places := f.places.map move } } }

/-- A page at an address, in either case. -/
def State.unitLost (s : State) (a : Nat) : State :=
  if s.sysPages.contains a then s.sysLost a
  else match s.flash.map.find? fun e => e.2 == a with
    | some e => s.pageLost e.1
    | none => s

/-- FLASH_READ of a sector (R277). -/
def execFlashRead (lpn sector : Nat) (out : FlashOut) (ones : List (Nat × Int)) (deps : List Nat) (s : State) : Host.Outcome State Fault Refusal :=
  match mget s.flash.map lpn with
  | none => .next s
  | some a =>
    let k := addrDie a
    let n := ((mget s.flash.dies k).map fun d => d.addrBlk a).getD 0
    let loc := dieLoc k
    let tally := fun (r : Nat) => s.tallyReads k n 1 (if r = 0 then 0 else 1) (if s.liveN 0x7010 8 < r then 1 else 0)
    match out with
    | .decoded r => .next ((tally r).modDie k fun d => d.trackAll n ones)
    | .late r => .next ((((tally (max r (s.liveN 0x7010 8 + 1))).modDie k fun d => d.trackAll n ones).raise 0x7020 loc (sector % 8)).loseAll deps)
    | .failed =>
      let s1 := ((tally (s.liveN 0x7010 14)).bump 0x7011 3 1).raise 0x7021 loc (sector % 8)
      .next ((if deps.isEmpty then s1 else (s1.raise 0x3016 loc 0).loseAll deps).pageLost lpn)

/-! ### Log, journal and checkpoint pages (R278, R282) -/

/-- Whether a log or journal slice of the plan names a die (R270). -/
def State.logDieNamed (s : State) (k : Nat) : Bool :=
  s.dieUp k && (s.step.seedling || (((s.tierPlan).map Plan.slices).getD []).any (onDie 0x20 k))

/-- Whether nothing can make space for an append (R282): on no die that takes log pages is there a free block beyond the reserves, a block
with invalid units to collect, or a spare. -/
def State.noLogSpace (s : State) : Bool :=
  s.flash.dies.all fun e => !s.logDieNamed e.1 ||
    (!s.mayOpen e.1 e.2 true && e.2.spares == 0 && e.2.usable.all fun n =>
      (e.2.blk n).st != 2 || (e.2.blk n).use_ == 1 || decide (e.2.cap (e.2.blk n).slc ≤ (s.validUnits e.1 n).length))

/-- A page that finds no block waits for garbage collection; where that can make no space either, appends are refused (R282). -/
def State.waitSpace (s : State) : State :=
  if s.noLogSpace then ({ s with log := { s.log with full := true } }).raiseRun 0x7031 0 locField none 0 else s

/-- Program one log page of a partition with up to 16,320 of its bytes. -/
def State.writeLogPage (s : State) (p : Nat) (ok : Bool) : State :=
  match s.dieFor 0x20 true 0, s.nextLogLpn p with
  | some k, some lpn =>
    match s.program 0x20 k true 0 lpn 1 (s.logPage p) with
    | none => s
    | some (s1, a) => if ok then s1.logDone p lpn a s.flash.writeSeq else s1.programFailed a 0x7022
  | _, _ => if (s.nextLogLpn p).isNone ∨ (s.flash.dies.all fun e => (s.blockFor e.1 true 0).isNone || !s.logDieNamed e.1) then s.waitSpace else s

/-- The journal entries that have taken effect, which a journal page takes: at most 1,020; its bytes. -/
def State.journalNow (s : State) : List JEntry := (s.flash.journal.filter fun e => !s.flash.pend.contains e).take 1020
def journalPage (l : List JEntry) : Bytes := padTo 16384 (l.flatMap fun e => leBytes 4 e.lpn ++ leBytes 4 e.addr ++ leBytes 8 e.seq)

/-- A journal page is programmed at an address: its entries' charges are released (R278). -/
def State.journalDone (s : State) (l : List JEntry) (addr : Nat) : State :=
  let s1 := { s with flash := { s.flash with journal := s.flash.journal.filter (fun e => !l.contains e), jpages := s.flash.jpages ++ [(⟨addr, l⟩ : JPage)] } }
  s1.setN 0x3042 5 s1.mapDirty

/-- Program one page of the map journal. -/
def State.writeJournal (s : State) (ok : Bool) : State :=
  if s.journalNow.isEmpty then s else
  match s.dieFor 0x20 true 1 with
  | none => if s.flash.dies.all fun e => (s.blockFor e.1 true 1).isNone || !s.logDieNamed e.1 then s.waitSpace else s
  | some k => match s.program 0x20 k true 1 unmapped 2 (journalPage s.journalNow) with
    | none => s
    | some (s1, a) => if ok then s1.journalDone s.journalNow a else s1.programFailed a 0x7022

/-- LOG_WRITE (R278, R381): a log page that is full or due, of the lowest partition that has one, else a page of the map journal. -/
def State.pageReady (s : State) (p : Nat) : Bool := decide (16320 ≤ s.logPending p) || (s.flash.due.contains p && decide (0 < s.logPending p))
def execLogWrite (ok : Bool) (s : State) : Host.Outcome State Fault Refusal :=
  if s.pwr.short then .next s else
  match (List.range 8).find? s.pageReady with
  | some p => .next (s.writeLogPage p ok)
  | none => .next (s.writeJournal ok)

/-- LOG_PAGE_TIMEOUT (R278): a page open for FLASH.LOG_FILL_STEPS steps is programmed as it stands, by the next LOG_WRITE, since programs run
in log slices only (R270). -/
def State.pageAged (s : State) (p : Nat) : Bool := (s.logOldest p).any fun t => decide (t + s.actN 0x7010 0x0A ≤ s.step.number)
def execLogPageTimeout (s : State) : Host.Outcome State Fault Refusal :=
  .next { s with flash := { s.flash with due := (List.range 8).filter fun p => s.flash.due.contains p || s.pageAged p } }

/-- Write the map page that is next in rotation (R278): what it holds of the map, with the WRITE_SEQ up to which it covers the journal. -/
def State.writeCkpt (s : State) : Option State :=
  let p := s.flash.ckptNext
  let upTo := ((s.flash.pend.head?).map (·.seq)).getD s.flash.writeSeq
  let here := s.flash.map.filter fun e => e.1 / 4096 == p
  let data := (List.range 4096).flatMap fun i => leBytes 4 (mgetD here (4096 * p + i) unmapped)
  (s.putSys 0x23 (1024 + p) data).map fun s1 =>
    { s1 with flash := { s1.flash with ckpt := mput s1.flash.ckpt p ⟨upTo, here⟩, ckptNext := (p + 1) % 1048576 } }
def State.writeCkpts : Nat → State → State
  | 0, s => s
  | n + 1, s => (s.writeCkpt.map (State.writeCkpts n)).getD s

/-- Whether a checkpoint covers a journal entry. -/
def FlashSt.covers (f : FlashSt) (e : JEntry) : Bool :=
  (List.range ((e.lpn + e.span - 1) / 4096 + 1 - e.lpn / 4096)).all fun j => (mget f.ckpt (e.lpn / 4096 + j)).any fun c => decide (e.seq < c.upTo)

/-- MAP_CHECKPOINT (R278): the next `n` map pages, as far as the slices go; a journal page that later checkpoints cover is dropped. -/
def execMapCheckpoint (n : Nat) (s : State) : Host.Outcome State Fault Refusal :=
  let s1 := State.writeCkpts (min n 1048576) s
  .next { s1 with flash := { s1.flash with jpages := s1.flash.jpages.filter fun p => !p.entries.all s1.flash.covers } }

/-! ### Image writes (R278, R282) -/

/-- The first LPN of a free contiguous range of a namespace, behind its log ring. -/
def State.findRange (s : State) (p n : Nat) : Option Nat :=
  let lo := s.actN (0x7040 + p) 1 + s.actN (0x7040 + p) 3
  let hi := s.actN (0x7040 + p) 1 + s.actN (0x7040 + p) 2
  let es := s.flash.extents
  (sortBy (fun a b => decide (a < b)) (lo :: es.map fun e => e.first + e.pages)).find? fun x =>
    decide (lo ≤ x) && decide (x + n ≤ hi) && es.all fun e => decide (x + n ≤ e.first) || decide (e.first + e.pages ≤ x)

/-- The dies in the order in which an image page is offered to them: consecutive pages go to the channels in service in ascending order, and a
channel that has no page for it gives way to the next (R278, log 83). -/
def State.stripe (s : State) (q : Nat) : List Nat :=
  let chs := (List.range 32).filter fun c => s.upDies.any fun e => e.1 / 16 == c
  let order := chs.drop (q % max chs.length 1) ++ chs.take (q % max chs.length 1)
  order.flatMap fun c => (s.upDies.filter fun e => e.1 / 16 == c).map (·.1)

/-- Program image page `q` at its LPN, and read it back: `fail` is the event of a program or a read-back that fails, after which the page is
programmed once more (R278). -/
def State.writeUnit (s : State) (lpn q : Nat) (data : Bytes) (fail : Option Nat) : Option State :=
  let once := fun (s : State) => ((s.stripe q).find? fun k => s.dieRuns 0x24 k 1 && (s.blockFor k false 0).isSome).bind fun k =>
    s.program 0x24 k false 0 lpn 0 data
  match once s, fail with
  | none, _ => none
  | some (s1, a), none => some (s1.changeMap lpn a s.flash.writeSeq)
  | some (s1, a), some ev =>
    let s2 := s1.programFailed a ev
    some (((once s2).map fun x => x.1.changeMap lpn x.2 s2.flash.writeSeq).getD s2)

/-- Program pages of an extent from `q` on while the slices and the space last: the state, and the pages that are done. -/
def State.writeUnits (first : Nat) (image : Bytes) (fails : List (Nat × Bool)) : Nat → Nat → State → State × Nat
  | 0, q, s => (s, q)
  | n + 1, q, s =>
    let fail := (fails.find? fun f => f.1 == q).map fun f => if f.2 then 0x7025 else 0x7022
    match s.writeUnit (first + q) q (sl image (16384 * q) 16384) fail with
    | none => (s, q)
    | some s1 => if (s1.mapNext (first + q)).isSome then s1.writeUnits first image fails n (q + 1) else (s1, q)

/-- Change the job of a shard: the seal's or the compaction's. -/
def State.modJob (s : State) (slot : Nat) (comp : Bool) (f : SealJob → Option SealJob) : State :=
  s.modShard slot fun h => if comp then { h with comp := h.comp.bind f } else { h with sealJob := h.sealJob.bind f }

/-- The extent of a segment. -/
def State.extentFor (s : State) (slot seg : Nat) : Option Extent := s.flash.extents.find? fun e => e.slot == slot && e.seg == seg

/-- An image goes to a provisional extent, as far as the slices go, and is read back (R270, R278); none where flash has no room (R282). -/
def State.writeImage (s : State) (slot seg : Nat) (image : Bytes) (fails : List (Nat × Bool)) : Option State :=
  let p := s.logPart slot
  let n := image.length / 16384
  let e := match s.extentFor slot seg with
    | some e => some e
    | none => (s.findRange p n).map fun first => (⟨p, slot, seg, first, n, true, 0⟩ : Extent)
  match e with
  | none => none
  | some e =>
    if s.freeUnits < n - e.done then none else
    let x := s.writeUnits e.first image fails (n - e.done) e.done
    let rest := x.1.flash.extents.filter fun y => !(y.slot == slot && y.seg == seg)
    some { x.1 with flash := { x.1.flash with extents := rest ++ [{ e with done := x.2 }] } }

/-- Whether every page of a segment's extent is programmed. -/
def State.written (s : State) (slot seg : Nat) : Bool := (s.extentFor slot seg).any fun e => decide (e.pages ≤ e.done)

/-- The images that a slot holds and that have no whole extent, lowest number first: those that wait for a replica's switch, those of a load, and
those fetched again (R62, R146, R397). -/
def State.unwritten (s : State) (slot : Nat) (h : Shard) : List (Nat × Bytes) :=
  let all := h.images ++ if h.owner then [] else h.segs.map fun g => (g.1, g.2.image)
  (sortBy (fun a b => decide (a.1 < b.1)) all).filter fun x => !s.written slot x.1

/-- An image of a slot goes to flash outside a job; once it is written, a copy of an image that already serves goes. -/
def State.writeLoose (s : State) (slot : Nat) (h : Shard) (fails : List (Nat × Bool)) : State :=
  match s.unwritten slot h with
  | [] => s
  | x :: _ =>
    let s1 := (s.writeImage slot x.1 x.2 fails).getD (s.raise 0x7030 locField 0)
    if s1.written slot x.1 ∧ (mget h.segs x.1).isSome then s1.modShard slot fun h => { h with images := mdel h.images x.1 } else s1

/-- IMAGE_WRITE (R146, R278, R282): the image of a seal or compaction is written, or the next that the slot holds beside its jobs. -/
def execImageWrite (slot : Nat) (comp : Bool) (fails : List (Nat × Bool)) (s : State) : Host.Outcome State Fault Refusal :=
  match mget s.shards slot with
  | none => .next s
  | some h =>
    if s.pwr.short then .next s else
    match (if comp then h.comp else h.sealJob).filter fun j => h.owner && j.stage == 2 with
    | none => .next (s.writeLoose slot h fails)
    | some j =>
      match s.writeImage slot j.out j.image fails with
      | none =>
        let s1 := ((s.dropExtent slot j.out).raise 0x7030 locField 0).evU 0x3064 locField (some (slot, h.vis)) 0
        let n := j.image.length / 16384
        .next (if comp then s1.modShard slot fun h => { h with comp := none }
          else (s1.modJob slot false fun j => some { j with stage := 0, noSpace := true, image := [], needs := n, built := 0 }).modShard slot fun h =>
            { h with noSpace := true })
      | some s1 => .next (if s1.written slot j.out then s1.modJob slot comp fun j => some { j with stage := 3 } else s1)

/-! ### Garbage collection (R276, R280, R281) -/

/-- The victim of a die's next collection, if it has reason to run, and whether that is a relocation: static levelling, a granted relocation,
or free blocks below the target.  A weak block's data moves under the grant only. -/
def State.gcVictim (s : State) (k : Nat) (d : Die) : Option (Nat × Bool) :=
  let full := d.usable.filter fun n => (d.blk n).st == 2 && (d.blk n).use_ != 1
  let er := fun n => (d.blk n).erases
  let spread := maxNat (d.usable.map er) - minNat (maxNat (d.usable.map er)) (d.usable.map er)
  let byWear := (sortBy (fun a b => decide (er a < er b)) (full.filter fun n => !(s.validUnits k n).isEmpty)).head?
  let weak := full.find? fun n => (d.blk n).weak
  let byValid := (sortBy (fun a b =>
    let va := (s.validUnits k a).length
    let vb := (s.validUnits k b).length
    decide (va < vb) || (va == vb && decide (er a < er b))) full).head?
  if s.actN 0x7010 0x0C < spread ∧ byWear.isSome then byWear.map fun n => (n, false)
  else if s.grant 0x0C && weak.isSome then weak.map fun n => (n, true)
  else if d.freeCount < s.gcTarget then byValid.map fun n => (n, false) else none

/-- The block that a copy opens as its target (R276, R280, R281, R282): the least-worn free one, from the GC reserve too; a relocation takes a
spare; and an SLC target stays within the SLC blocks beyond the hold-up reserve. -/
def State.gcTargetBlk (s : State) (k : Nat) (d : Die) (slc relocate : Bool) : Option Nat :=
  if relocate then (if d.spares = 0 then none else d.leastWorn)
  else if d.freeCount ≤ d.spares ∨ (slc ∧ s.slcFree d ≤ s.holdBlocks k d) then none else d.leastWorn

/-- The units of a job's victim that it has still to copy. -/
def State.gcLeft (s : State) (k : Nat) (j : GcJob) : List (Nat × Nat) := (s.validUnits k j.victim).filter fun u => !j.moved.any fun m => m.from_ == u.2

/-- Close the target: its units switch at the next boundary, those of them whose source is still what was copied (R280). -/
def State.gcClose (s : State) (k : Nat) (j : GcJob) : State × GcJob :=
  let shut := fun (s : State) (t : Nat) => s.modDie k fun d => d.setBlk t fun b => { b with st := 2 }
  let good := j.moved.filter fun m => mget s.flash.map m.lpn == some m.from_ && !(s.flash.pend.any fun p => p.lpn == m.lpn)
  (good.foldl (fun s m => s.changeMap m.lpn m.to_ m.seq) ((j.target.map (shut s)).getD s), { j with target := none, moved := [] })

/-- A job's target failed: it is retired, and what was copied into it is to be copied again (R280). -/
def State.gcFail (s : State) (k : Nat) (j : GcJob) (event : Nat) : State × GcJob :=
  match j.target with
  | none => (s, j)
  | some t => (((s.bump 0x7011 4 1).raise event (dieLoc k) 0).retire k t, { j with target := none, moved := [] })

/-- Open the next target of a job. -/
def State.gcOpen (s : State) (k : Nat) (slc : Bool) (j : GcJob) : Option (State × GcJob) :=
  match j.target with
  | some _ => some (s, j)
  | none => (mget s.flash.dies k).bind fun d => (s.gcTargetBlk k d slc j.relocate).map fun t =>
      let take := fun (d : Die) => { d.setBlk t fun b => { b with st := 1, slc := slc, use_ := 2, written := 0 } with
        spares := if j.relocate then d.spares - 1 else d.spares }
      (s.modDie k take, { j with target := some t })

/-- Copy one unit into the target; a full target is closed. -/
def State.gcCopy1 (s : State) (k t : Nat) (slc : Bool) (j : GcJob) (u : Nat × Nat) : State × GcJob :=
  let data := ((mget s.flash.units u.2).map (·.data)).getD []
  let kind := ((mget s.flash.units u.2).map (·.kind)).getD 0
  let x := (s.dieRan 0x21 k 1).programIn k t slc 2 u.1 kind data
  let j1 : GcJob := { j with moved := j.moved ++ [(⟨u.1, u.2, x.2, s.flash.writeSeq⟩ : Moved)] }
  let s1 := x.1.bump 0x7011 5 1
  if ((mget s1.flash.dies k).map fun d => (d.blk t).st == 2).getD true then s1.gcClose k j1 else (s1, j1)

/-- Run a job while the slices and the free blocks last, up to a unit that does not decode.  `none`: the job is at its end. -/
def State.gcRun (k : Nat) (slc : Bool) (stop : Option Nat) : Nat → State → GcJob → State × Option GcJob
  | 0, s, j => (s, some j)
  | fuel + 1, s, j =>
    match s.gcLeft k j with
    | [] => ((s.gcClose k j).1, none)
    | u :: _ =>
      if stop = some u.2 then ((s.gcClose k j).1, none)
      else if ¬ s.dieRuns 0x21 k 1 then (s, some j)
      else match s.gcOpen k slc j with
        | none => (s.raiseRun 0x7031 (k + 1) (dieLoc k) none 0, some j)
        | some (s1, j1) => match j1.target with
          | none => (s1, some j1)
          | some t =>
            let x := s1.gcCopy1 k t slc j1 u
            x.1.gcRun k slc stop fuel x.2

/-- The victim is emptied: it is erased no earlier than 64 steps after the switch at the next boundary (R274, R280). -/
def State.emptyVictim (s : State) (k n : Nat) : State :=
  s.modDie k fun d => d.setBlk n fun b => { b with st := 4, eraseAt := s.step.number + 65, seq := s.flash.writeSeq }

/-- The erases of a GC slice: every block of the die whose time has come; one whose erase fails is retired (R280). -/
def State.gcErase (s : State) (k : Nat) (fails : Bool) : State :=
  let due := ((mget s.flash.dies k).map fun d => (d.blks.filter fun b => s.erasable b.2).map (·.1)).getD []
  match due with
  | [] => s
  | n :: rest => rest.foldl (fun s m => s.eraseBlk k m) (if fails then (s.raise 0x7023 (dieLoc k) 0).retireBlk k n else s.eraseBlk k n)

/-- The job that a die runs, or the one that it begins. -/
def State.gcJob (s : State) (k : Nat) (d : Die) : Option GcJob :=
  d.gc <|> (s.gcVictim k d).map fun v => (⟨v.1, none, [], v.2⟩ : GcJob)

/-- Run a die's job with an outcome: a target that fails does so before its next unit. -/
def State.gcGo (s : State) (k : Nat) (d : Die) (out : GcOut) (j : GcJob) : State :=
  let slc := (d.blk j.victim).slc
  let start : State × GcJob := match out with
    | .programFail => ((s.gcOpen k slc j).map fun x => x.1.gcFail k x.2 0x7022).getD (s, j)
    | .readBackFail => ((s.gcOpen k slc j).map fun x => x.1.gcFail k x.2 0x7025).getD (s, j)
    | _ => (s, j)
  let stop := match out with
    | .sourceFail u => some (unitAddr k 0 u d.units)
    | _ => none
  let x := State.gcRun k slc stop (d.units + d.units) start.1 start.2
  let keep := fun (s : State) (g : Option GcJob) => s.modDie k fun d => { d with gc := g }
  match x.2, stop with
  | some j1, _ => keep x.1 (some j1)
  | none, some a =>
    if x.1.flash.map.any fun e => e.2 == a then ((keep x.1 none).bump 0x7011 3 1 |>.raise 0x7021 (dieLoc k) 0).unitLost a
    else (keep x.1 none).emptyVictim k j.victim
  | none, none => ((if j.relocate then (keep x.1 none).useGrant 0x0C else keep x.1 none)).emptyVictim k j.victim

/-- GC_COPY (R280): in the die's GC slices, the erases whose time has come, then the copies. -/
def execGcCopy (die : Nat) (out : GcOut) (s : State) : Host.Outcome State Fault Refusal :=
  if s.pwr.short ∨ ¬ s.dieRuns 0x21 die 0 then .next s else
  let s1 := s.gcErase die (out == .eraseFail)
  match mget s1.flash.dies die with
  | none => .next s1
  | some d => .next (((s1.gcJob die d).map (s1.gcGo die d out)).getD s1)

/-! ### Scrub, health and losses (R277, R281, R283) -/

/-- Raise a health warning when its figure crosses its threshold, and again only after it has returned (R283). -/
def State.warn (s : State) (i event : Nat) (on : Bool) : State :=
  if on then
    if bit s.flash.warned i then s
    else ({ s with flash := { s.flash with warned := setBit s.flash.warned i } }).raise event locField 0
  else { s with flash := { s.flash with warned := clrBit s.flash.warned i } }

/-- The 99th-percentile erase count of the node's blocks. -/
def State.p99 (s : State) : Nat :=
  let n := sumNat (s.upDies.map fun e => e.2.usable.length)
  let top := sortBy (fun a b => decide (b < a)) (s.upDies.flatMap fun e => e.2.blks.map fun b => b.2.erases)
  top.getD (n - ceilDiv (99 * n) 100) 0

def State.health (s : State) : State :=
  let ds := s.upDies.map (·.2)
  let spare := ds.any fun d => d.spares0 != 0 && decide (d.spares * 65536 < s.actN 0x7012 1 * d.spares0)
  let wear := s.actN 0x7012 2 * maxNat (ds.map (·.peLimit)) < s.p99 * 65536
  let retry := ds.any fun d => decide (s.actN 0x7012 3 * d.lastReads < d.lastRetried * 65536)
  ((s.warn 0 0x7A01 spare).warn 1 0x7A02 (decide wear)).warn 2 0x7A03 retry

/-- What a scrub read of a block (R277): its sectors and retries, the tracking loop's figures, and the pages that did not decode. -/
def State.scrubbed (s : State) (k : Nat) (r : ScrubRead) : State :=
  let s1 := (s.tallyReads k r.blk r.reads r.retried r.beyond).modDie k fun d => d.trackAll r.blk r.ones
  let units := ((mget s.flash.dies k).map (·.units)).getD 0
  r.lost.foldl (fun s page => ((s.bump 0x7011 3 1).raise 0x7021 (dieLoc k) 0).unitLost (unitAddr k r.blk page units)) s1

/-- A block whose reads of the period needed more than the planned retries on more than 1% is weak: without the grant it is reported once per
period (R281). -/
def State.weakBlk (s : State) (k n : Nat) : State :=
  match mget s.flash.dies k with
  | none => s
  | some d =>
    let b := d.blk n
    if ¬ (b.weak || decide (b.reads < 100 * b.beyond)) then s else
    let tell := !s.grant 0x0C && b.told != s.scrubAge + 1
    let s1 := s.modDie k fun d => d.setBlk n fun b => { b with weak := true, told := if tell then s.scrubAge + 1 else b.told }
    if tell then s1.raise 0x7026 (dieLoc k) 0 else s1

/-- FLASH_SCRUB (R277, R281, R283): what the slices of a die read, block by block, as far as their CAPACITY goes: eight sectors to a unit. -/
def scrubFits : List ScrubRead → Nat → List ScrubRead
  | [], _ => []
  | r :: rest, n => if r.reads ≤ n then r :: scrubFits rest (n - r.reads) else []
def execFlashScrub (die : Nat) (found : List ScrubRead) (s : State) : Host.Outcome State Fault Refusal :=
  if ¬ s.dieRuns 0x22 die 0 then .next s else
  let total := sumNat (found.map (·.reads))
  let room := s.roomFor (onDie 0x22 die) (ceilDiv total 8)
  let l := scrubFits found (8 * room)
  let s1 := l.foldl (fun s r => s.scrubbed die r) (s.dieRan 0x22 die room)
  .next ((l.foldl (fun s r => s.weakBlk die r.blk) s1).health)

/-- Take a channel out of service, for its dies `ks` that stopped (R281). -/
def State.channelOut (s : State) (c : Nat) (ks : List Nat) : State :=
  let off := fun (e : Nat × Die) => if ks.contains e.1 then (e.1, { e.2 with on := false }) else e
  let s1 := { s with flash := { s.flash with chans := clrBit s.flash.chans c, dies := s.flash.dies.map off } }
  let s2 := (s1.setN (0x7020 + c) 1 ((s1.flash.dies.filter fun e => e.1 / 16 == c && e.2.on).length)).setN (0x7020 + c) 2 0
  let s3 := s2.setN 0x7010 1 s2.upDies.length
  (ks.foldl (fun s k => s.raise 0x7013 (dieLoc k) 0) s3).segsOutOn fun k => k / 16 == c

/-- FLASH_DIE_LOSS (R281). -/
def execFlashDieLoss (die : Nat) (s : State) : Host.Outcome State Fault Refusal :=
  .next (if (mget s.flash.dies die).any (·.on) then s.channelOut (die / 16) [die] else s)

/-- NAND_RAIL_OVERCURRENT (R281, R406): the rail is switched off, and every die on the channel goes out of service. -/
def execNandRailOvercurrent (chan : Nat) (s : State) : Host.Outcome State Fault Refusal :=
  let ks := (s.flash.dies.filter fun e => e.1 / 16 == chan && e.2.on).map (·.1)
  .next (if chan < 32 then s.channelOut chan ks else s)

/-- The figures that flash publishes at a boundary (R275, R282, R288). -/
def State.flashFigures (s : State) : State :=
  let up := s.upDies
  let native := sumNat (up.map fun e => (e.2.usable.filter fun n => (e.2.blk n).st != 3).length * e.2.units)
  let fill := if native = 0 then 0 else min 65535 (s.flash.map.length * 65536 / native)
  let share := if fill ≤ 58982 then 5243 - 4915 * fill / 58982 else 328
  let s1 := (((s.setN 0x7010 2 (native * 16384)).setN 0x7010 3 fill).setN 0x7010 4 share).setN 0x7010 5 s.freeUnits
  let s2 := (s1.setN 0x3042 4 s1.log.dirty).setN 0x3042 5 s1.mapDirty
  (List.range 32).foldl (fun s c =>
    let on := s.flash.dies.filter fun e => e.1 / 16 == c && e.2.on
    (s.setN (0x7020 + c) 2 (if bit s.flash.chans c && !on.isEmpty then 1 else 0)).setN (0x7020 + c) 3
      (minNat ((on.head?.map (·.2.spares)).getD 0) (on.map (·.2.spares)))) s2

end Sys2Proof.Machine
end

