-- ==== Sys2Proof/Machine/Updates.lean ====
section
/-! DEFINITION. Inserts, deletes, mirroring, sealing, compaction, release and trimming (R132 to R152). -/

namespace Sys2Proof.Machine

/-! ### The update log (R140, R141) -/

/-- A log record: frame, body, and zero bytes up to a multiple of 64. -/
def logFrame (kind shard usn : Nat) (body : Bytes) : Bytes :=
  let n := 64 * ceilDiv (16 + body.length) 64
  padTo n (leBytes 1 kind ++ [0] ++ leBytes 2 n ++ leBytes 4 shard ++ leBytes 8 usn ++ body)

/-- Append a record to the log and charge it to the dirty window. -/
def State.chargeLog (s : State) (slot kind usn : Nat) (b : Bytes) : State :=
  { s with log := { s.log with
      recs := s.log.recs ++ [(⟨s.log.nextSeq, slot, kind, usn, b, s.step.number, 0, false⟩ : LogRec)],
      dirty := s.log.dirty + b.length, nextSeq := s.log.nextSeq + 1 } }

/-- The segment that an epoch record brings: its entries whose image carries the epoch's own number (R146, R149). -/
def Shard.broughtBy (h : Shard) (rec_ : Bytes) : List (Nat × Seg) :=
  ((splitAll 40 (sl rec_ 64 (40 * u16 rec_ 4))).map fun x => u16 x 0).filterMap fun n =>
    ((mget h.segs n).filter fun g => segEpoch g.image == u32 rec_ 12).map fun g => (n, g)

/-- Send the image of a new epoch's segment with its epoch record to a partner (R146). -/
def State.sendImage (s : State) (h : Shard) (p : Partner) (rec_ : Bytes) : State :=
  (h.broughtBy rec_).foldl (fun s g =>
    (splitAll 16777216 (g.2.image ++ rec_)).foldl (fun s b => s.sendPeer p.port p.peer 7 g.1 h.id b) s) s

/-- Send a log record to a partner, an EPOCH record with the image that it brings (R142, R146). -/
def State.sendRecord (s : State) (h : Shard) (p : Partner) (r : LogRec) : State :=
  let s1 := s.sendPeer p.port p.peer 4 r.usn h.id r.bytes
  if r.kind = 3 then s1.sendImage h p (r.bytes.drop 16) else s1

/-- Send every attached partner of a shard the records that it is owed, in log order, while its port is UP to it (R142). -/
def State.sendOwed (s : State) (slot : Nat) : State :=
  match mget s.shards slot with
  | none => s
  | some h =>
    let up := fun (p : Partner) => h.owner && p.attached && s.hedgeUp p.port && s.liveN (0x8020 + p.port) 2 == p.peer
    let s1 := (h.partners.filter up).foldl (fun s p =>
      (s.log.recs.filter fun r => r.slot == slot && decide (p.next ≤ r.seq)).foldl (fun s r => s.sendRecord h p r) s) s
    let set := fun (p : Partner) => if up p then { p with next := s.log.nextSeq } else p
    s1.modShard slot fun h => { h with partners := h.partners.map set }

/-- Whether a record of `n` bytes may be charged: the log share holds it, the hold-up reserve still covers the dirty window twice over, and
appends are not refused (R141, R282, R284). -/
def State.logRoom (s : State) (n : Nat) : Bool :=
  decide (s.log.dirty + n ≤ 335544320) && s.reserveCovers n && !s.log.full && !s.holdShort

/-- The owner's log record: appended, charged, and sent to every attached partner, in log order behind those that it is still owed (R136,
R142). -/
def State.appendLog (s : State) (slot kind usn : Nat) (body : Bytes) : State :=
  match mget s.shards slot with
  | none => s
  | some h =>
    let s1 := s.chargeLog slot kind usn (logFrame kind h.id usn body)
    let wrong := fun (p : Partner) => p.attached && s.hedgeUp p.port && s.liveN (0x8020 + p.port) 2 != p.peer
    ((h.partners.filter wrong).foldl (fun s p => s.raise 0x8007 (locHedge p.port) 0) s1).sendOwed slot

/-- The first record of a shard that a partner has not acknowledged, where sending begins again once its port is UP (R142). -/
def State.firstOwed (s : State) (slot : Nat) (p : Partner) : Nat :=
  ((s.log.recs.find? fun r => r.slot == slot && (if r.kind = 1 then decide (p.acked < r.usn) else decide (p.acked ≤ r.usn))).map
    (·.seq)).getD s.log.nextSeq

/-- A port went DOWN with its queues: what its partners have not acknowledged is owed again (R142, R306). -/
def State.oweAgain (s : State) (port : Nat) : State :=
  let back := fun (i : Nat) (p : Partner) => if p.port = port then { p with next := s.firstOwed i p } else p
  { s with shards := s.shards.map fun (e : Nat × Shard) => (e.1, { e.2 with partners := e.2.partners.map (back e.1) }) }

/-! ### Applying an update (R135, R136, R143) -/

/-- The filled descriptor of an update, with its payload (R132). -/
def Shard.fillUpdate (h : Shard) (b : Bytes) (u : Nat) : Bytes :=
  fillDesc b u h.nextHandle (if uOp b = 1 then [] else sortNat (h.live (uExt b)))

/-- The delta record of a filled INSERT or REPLACE (R63, R133). -/
def State.deltaRec (s : State) (h : Shard) (d : Bytes) (u : Nat) : DRec :=
  let c := (s.openCb h).getD ⟨[], 0, 0, 8, []⟩
  let cb := codeBytes c.m c.bits
  let comps := sl d (128 + 64 * ceilDiv cb 64) c.dim
  { ext := uExt d, usn := u, attr := sl d 72 24 ++ zeros 8, scale := u32 d 64, sumsq := sumsqOf (int8s comps), code := sl d 128 cb, comps := comps }

/-- The retired handles of a filled descriptor. -/
def uRetired (d : Bytes) : List Nat := (List.range (u8 d 29)).map fun k => u40 d (32 + 5 * k)

/-- A link of a chain at a USN. -/
def extendChain (c : List (Nat × Bytes)) (u : Nat) (dg : Bytes) : List (Nat × Bytes) :=
  mput c u (chainLink ((mget c (u - 1)).getD (zeros 32)) u dg)

/-- Change the current epoch of a shard. -/
def Shard.modCur (h : Shard) (f : Epoch → Epoch) : Shard :=
  { h with epochs := h.epochs.map fun e => if e.num = h.cur.num then f e else e }

/-- The handles that a filled update retires: those that it lists, and every live handle of its EXTERNAL_ID that the shard holds (R135).
At a replica between a compaction's EPOCH record and its switch the two differ, and both are retired. -/
def Shard.retires (h : Shard) (d : Bytes) : List Nat :=
  let own := if uOp d = 1 then [] else sortNat (h.live (uExt d))
  uRetired d ++ own.filter fun x => !(uRetired d).contains x

/-- The effect of a filled update on a shard: delta record, tombstones, directory, digest and chains. -/
def Shard.applied (h : Shard) (d : Bytes) (u : Nat) (r : DRec) : Shard :=
  let gone := h.retires d
  let ins := uOp d != 2
  let new_ := h.nextHandle
  let dg := digest d
  let put := fun (x : Delta) => { x with recs := x.recs ++ [r] }
  let h1 := match h.open_ with
    | some n => if ins then { h with deltas := mmod h.deltas n put } else h
    | none => h
  let tombs := gone.foldl (fun m x => mput m x u) h1.tombs
  let kept := (mgetD h1.dir (uExt d) []).filter fun x => !gone.contains x
  let now := if ins then kept ++ [new_] else kept
  let dir := if now.isEmpty then mdel h1.dir (uExt d) else mput h1.dir (uExt d) now
  let ext := fun (j : SealJob) => { j with chain := extendChain j.chain u dg }
  { h1.modCur (fun e => { e with chain := extendChain e.chain u dg }) with
    tombs := tombs, dir := dir, digests := mput h1.digests u dg, sealJob := h1.sealJob.map ext, comp := h1.comp.map ext, lastUsn := u }

/-- Apply a filled update to the shard of a slot and log it. -/
def State.applyUpdate (s : State) (slot : Nat) (d : Bytes) (u : Nat) : State :=
  match mget s.shards slot with
  | none => s
  | some h =>
    let r := s.deltaRec h d u
    let s1 := s.modShard slot fun h => h.applied d u r
    let s2 := match h.open_, s.openCb h with
      | some n, some c =>
        if uOp d = 2 then s1 else
        let k := ((mget h.deltas n).map (·.recs.length)).getD 0
        ((s1.growDelta slot n (k + 1) c).getD s1).touchAt 1 slot n (256 + k * deltaRecBytes c)
      | _, _ => s1
    (h.retires d).foldl (fun s x => s.touchAt 2 slot (handleSeg x) (8 * handleOff x)) s2

/-- The owner applies an admitted update: R136.  It acts on updates of one shard in USN order; where the request was lost meanwhile, its
update is applied and what it held goes. -/
def State.ownUpdate (s : State) (tag op : Nat) : State :=
  match s.workOf tag with
  | none => s
  | some w => match s.slotOf (uShard w.body) with
    | none => s
    | some i => match mget s.shards i with
      | none => s
      | some h =>
        if w.kind ≠ 2 ∨ uOp w.body ≠ op ∨ w.acks ≠ 0 ∨ w.usn ≠ h.lastUsn + 1 then s else
        let d := h.fillUpdate w.body w.usn
        let s1 := ((s.applyUpdate i d w.usn).appendLog i 1 w.usn d).setN 0x3042 4 (s.log.dirty + logLen w.body)
        if s1.ledger.fars.any fun e => e.2.tag == tag then s1.modWork tag fun w => { w with acks := 1, image := d.take 64 }
        else { s1 with ledger := { s1.ledger with works := mdel s1.ledger.works tag } }

/-- INSERT (R135, R136). -/
def execInsert (tag : Nat) (s : State) : Host.Outcome State Fault Refusal := .next (s.ownUpdate tag 1)
/-- DELETE (R135, R136). -/
def execDelete (tag : Nat) (s : State) : Host.Outcome State Fault Refusal := .next (s.ownUpdate tag 2)
/-- REPLACE (R42, R135, R136). -/
def execReplace (tag : Nat) (s : State) : Host.Outcome State Fault Refusal := .next (s.ownUpdate tag 3)

/-- The admitted updates that are not applied yet, in (SHARD, USN) order: a step applies all that it admits (R136). -/
def State.waitingUpdates (s : State) : List (Nat × Work) :=
  sortBy (fun a b => decide (uShard a.2.body < uShard b.2.body) || (uShard a.2.body == uShard b.2.body && decide (a.2.usn < b.2.usn)))
    (s.ledger.works.filter fun w => w.2.kind == 2 && w.2.usn != 0 && w.2.acks == 0)

def State.applyWaiting (s : State) : State := s.waitingUpdates.foldl (fun s w => s.ownUpdate w.1 (uOp w.2.body)) s

/-! ### Mirroring (R142 to R144, R396) -/

/-- Updates in phase MIRROR_WAIT whose attached partners have all acknowledged them become COMPLETE (R136). -/
def State.settleMirror (s : State) : State :=
  let hit := s.ledger.fars.filter fun e => e.2.phase == 0x11 && (match s.workOf e.2.tag with
    | some w => !s.mirrorWait w
    | none => false)
  hit.foldl (fun s e => s.modFar e.1 fun f => { f with phase := 0x0B }) s

/-- Whether a record stands at or behind the update of a USN in log order: a SEAL_BEGIN or EPOCH record applies after its own USN (R140). -/
def LogRec.from_ (r : LogRec) (usn : Nat) : Bool := if r.kind = 1 then decide (usn ≤ r.usn) else decide (usn ≤ r.usn + 1)

/-- LOG_ACK (R142, R396): the partner's highest charged USN.  A loading partner is attached at its first acknowledgement at
or above V(h), and is owed from then on what its load has not sent. -/
def execLogAck (port shard usn : Nat) (s : State) : Host.Outcome State Fault Refusal :=
  match s.slotOf shard with
  | none => .next s
  | some i =>
    let upd := fun (v : Nat) (p : Partner) =>
      if p.port = port then
        let a := max p.acked usn
        let att := !p.detached && decide (v ≤ a)
        { p with acked := a, attached := p.attached || att, next := if !p.attached && att then p.loadSeq else p.next,
                 loading := p.loading && decide (a < v) }
      else p
    .next ((s.modShard i fun h => if h.owner then { h with partners := h.partners.map (upd h.vis) } else h).settleMirror)

/-- LOG_RESEND (R142, R143): the owner sends its records again from a USN on, in log order, so that the records which apply after the USN
before it come too.  Where its log holds a LOADING partner's USN no longer, the
load stands (R397; that the owner reports it, log 183). -/
def execLogResend (port shard usn : Nat) (s : State) : Host.Outcome State Fault Refusal :=
  match s.slotOf shard with
  | none => .next s
  | some i => match mget s.shards i with
    | none => .next s
    | some h =>
      if !h.owner || !(h.partners.any fun p => p.port == port && !p.detached) then .next s else
      let s1 := (s.log.recs.filter fun r => r.slot == i && r.from_ usn).foldl (fun (s : State) r => s.sendHedge port 4 r.usn shard r.bytes) s
      let lacks := (h.partners.any fun p => p.port == port && p.loading) && decide (usn ≤ h.last) &&
        !(s.log.recs.any fun r => r.slot == i && r.kind == 1 && r.usn == usn)
      .next (if lacks then s1.evU 0xB011 locField (some (i, usn)) 0 else s1)

/-- The records of a LOG_RECORDS body: each frame gives its own length. -/
def logParts : Nat → Bytes → List Bytes
  | 0, _ => []
  | n + 1, b => if b.length < 64 ∨ u16 b 2 < 64 then [] else b.take (u16 b 2) :: logParts n (b.drop (u16 b 2))

/-- A received record in its order: an UPDATE carries the next USN, any other follows the USN that it names. -/
def Shard.inOrder (h : Shard) (b : Bytes) : Bool :=
  if u8 b 0 = 1 then u64 b 8 == h.expects else u64 b 8 + 1 == h.expects

/-- Whether a received record has been taken before. -/
def State.logSeen (s : State) (slot : Nat) (h : Shard) (b : Bytes) : Bool :=
  if u8 b 0 = 1 then decide (u64 b 8 < h.expects)
  else s.log.recs.any fun r => r.slot == slot && r.bytes == b

/-- A replica takes one record of its shard, in order, while its log share has room (R141 to R143). -/
def State.takeRecord (s : State) (slot : Nat) (b : Bytes) : State :=
  if ¬ s.logRoom b.length then s else
  let s1 := s.chargeLog slot (u8 b 0) (u64 b 8) b
  let r : LogRec := ⟨s.log.nextSeq, slot, u8 b 0, u64 b 8, b, s.step.number, 0, false⟩
  s1.modShard slot fun h => { h with inbox := h.inbox ++ [r], topUsn := max h.topUsn (u64 b 8),
                                     expects := if u8 b 0 = 1 then u64 b 8 + 1 else h.expects }

/-- Take the held records that have come into order. -/
def State.takeHeld (s : State) (slot : Nat) : Nat → State
  | 0 => s
  | fuel + 1 => match mget s.shards slot with
    | none => s
    | some h => match h.held.find? fun r => h.inOrder r.bytes && s.logRoom r.bytes.length with
      | none => s
      | some r => ((s.takeRecord slot r.bytes).modShard slot fun h => { h with held := h.held.filter fun x => x.bytes != r.bytes }).takeHeld slot fuel

/-- Hold a record that cannot be taken yet. -/
def Shard.hold (h : Shard) (b : Bytes) : Shard :=
  if h.held.any fun r => r.bytes == b then h
  else { h with held := h.held ++ [(⟨0, 0, u8 b 0, u64 b 8, b, 0, 0, false⟩ : LogRec)], topUsn := max h.topUsn (u64 b 8) }

/-- LOG_RECORDS at a replica (R143): records in order are charged and acknowledged; a gap holds the later ones, asks for the
missing ones and raises EV 0x3068. -/
def execLogRecords (port : Nat) (body : Bytes) (s : State) : Host.Outcome State Fault Refusal :=
  .next ((logParts body.length body).foldl (fun s b =>
    match s.slotOf (u32 b 4) with
    | none => s
    | some i => match mget s.shards i with
      | none => s
      | some h =>
        if h.owner || u8 b 0 == 0 || decide (3 < u8 b 0) then s
        else if s.logSeen i h b then s.sendHedge port 5 (h.expects - 1) h.id []
        else if h.inOrder b then
          if ¬ s.logRoom b.length then s.modShard i fun h => h.hold b
          else
            let s1 := (s.takeRecord i b).takeHeld i (h.held.length + 1)
            s1.sendHedge port 5 (((mget s1.shards i).map (·.expects)).getD 1 - 1) h.id []
        else ((s.modShard i fun h => h.hold b).sendHedge port 6 h.expects h.id []).evU 0x3068 locField (some (i, h.expects)) 0) s)

/-! ### Deltas (R63, R138) -/

/-- The lowest free segment number of a shard's range: one that no held epoch, delta or running job uses. -/
def Shard.freeSegment (h : Shard) : Option Nat :=
  let used := (h.epochs.flatMap fun e => e.sealed ++ e.deltas) ++ h.deltas.map (·.1) ++ h.segs.map (·.1) ++
    (h.sealJob.toList ++ h.comp.toList).map (·.out)
  ((List.range h.segCount).map fun k => h.segBase + k).find? fun n => !used.contains n

/-- The codebook digest that a new delta of a slot takes: the committed value, where it names a held codebook (R138). -/
def State.deltaCb (s : State) (slot : Nat) : Option Bytes :=
  let d := s.com (0x3200 + slot) 1
  if s.codebooks.any fun c => c.digest == d then some d else none

/-- Open delta number `n` of a slot with a codebook. -/
def State.openDelta (s : State) (slot n : Nat) (cb : Bytes) : State :=
  let m := s.actN (0x3200 + slot) 6
  s.modShard slot fun h =>
    { h.modCur (fun e => { e with deltas := e.deltas ++ [n] }) with
      deltas := mput h.deltas n ⟨cb, m, h.cur.num, s.step.number, []⟩ }

/-- Whether the first delta of a slot opens now (R138): the shard holds none, on its owner or on a replica alike. -/
def State.opensFirst (s : State) (slot : Nat) (h : Shard) : Bool :=
  h.id != 0xFFFFFFFF && !h.epochs.isEmpty && h.cur.deltas.isEmpty && h.freeSegment.isSome && (s.deltaCb slot).isSome

/-- DELTA_OPEN (R138). -/
def State.doDeltaOpen (s : State) (slot : Nat) : State :=
  match mget s.shards slot with
  | none => s
  | some h =>
    if ¬ s.opensFirst slot h then s else
    match h.freeSegment, s.deltaCb slot with
    | some n, some cb => s.openDelta slot n cb
    | _, _ => s

/-! ### Seals (R145, R146) -/

/-- The seal settings as committed (R333). -/
def State.sealSet (s : State) : SealSet :=
  { mirror := s.comN 0x3030 3 == 1, fields := s.comN 0x3030 4, share := s.comN 0x3030 5, baseDeg := s.comN 0x3030 6,
    hubDeg := s.comN 0x3030 7, hubShare := s.comN 0x3030 8 }

/-- The second condition of R145: the open delta asks for a seal. -/
def State.sealAsked (s : State) (h : Shard) : Bool :=
  match h.open_.bind (mget h.deltas) with
  | none => false
  | some d =>
    let n := d.recs.length
    decide (s.actN 0x3040 1 ≤ n) ||
    (decide (1 ≤ n) && s.actN 0x3040 2 != 0 && decide (d.opened + s.actN 0x3040 2 ≤ s.step.number)) ||
    (decide (1 ≤ n) && decide (s.maxDelta ≤ h.deltaCount))

/-- The last three conditions of R145. -/
def State.sealRoom (s : State) (slot : Nat) (h : Shard) : Bool :=
  h.freeSegment.isSome && decide (h.cur.sealed.length < s.maxSegs) && (s.deltaCb slot).isSome

/-- Whether a seal of a shard begins now, and whether EV 0x3069 applies (R145). -/
def State.sealBegins (s : State) (slot : Nat) (h : Shard) : Bool := h.owner && h.sealJob.isNone && s.sealAsked h && s.sealRoom slot h
def State.sealBlocked (s : State) (slot : Nat) (h : Shard) : Bool := h.owner && h.sealJob.isNone && s.sealAsked h && !s.sealRoom slot h

/-- The chain of a coming epoch from its floor over the held digests (R68, R149). -/
def Shard.chainFrom (h : Shard) (epoch f : Nat) : List (Nat × Bytes) :=
  (List.range (h.lastUsn - f)).foldl (fun c k =>
    match mget h.digests (f + 1 + k) with
    | some dg => extendChain c (f + 1 + k) dg
    | none => c) [(f, chainBase h.id epoch f)]

/-- Freeze the open delta of a shard at floor `f` and open delta `n` (stage 1 of R146); a replica keeps the floor and the chain, and builds
nothing (R143). -/
def State.freezeAt (s : State) (slot n : Nat) (cb : Bytes) (f : Nat) : State :=
  match mget s.shards slot with
  | none => s
  | some h => match h.open_ with
    | none => s
    | some d =>
      let job : SealJob := ⟨[d], d, f, if h.owner then 1 else 5, 0, [], [], s.sealSet, h.chainFrom (h.cur.num + 1) f, false, 0, 0⟩
      (s.openDelta slot n cb).modShard slot fun h => { h with sealJob := some job }

/-- SEAL_FREEZE: the freeze and its log record (R140, R146). -/
def State.doSealFreeze (s : State) (slot : Nat) : State :=
  match mget s.shards slot with
  | none => s
  | some h =>
    if ¬ s.sealBegins slot h ∨ ¬ s.logRoom 128 then s else
    match h.open_, h.freeSegment, s.deltaCb slot with
    | some d, some n, some cb =>
      (s.freezeAt slot n cb h.vis).appendLog slot 2 h.vis (leBytes 8 h.vis ++ leBytes 2 d ++ leBytes 2 n ++ zeros 4 ++ padTo 32 cb)
    | _, _, _ => s

/-- The ROLE 4 model with which the owner builds passage pages (R211): that of the lowest slot which holds one (log 165). -/
def State.passageModel (s : State) : Option Bytes :=
  ((sortNat (s.models.map (·.1))).find? fun k => s.modelRole k == 4).map s.modelImage

/-- What the slices of an output's plot may still do of a build (R237), and the part that they do in this step. -/
def State.buildRoom (s : State) (j : SealJob) (image : Bytes) : Nat := s.roomFor (onPlot (j.out % 16) 5) (image.length - j.built)
def State.buildPart (s : State) (slot : Nat) (comp : Bool) (j : SealJob) (image : Bytes) : State :=
  let n := s.buildRoom j image
  (s.useRoom (onPlot (j.out % 16) 5) n).modJob slot comp fun j => some { j with built := j.built + n }

/-- A read error of a build (R240): one in a home frame stops it for this time; one in a frame copy costs a repeat. -/
def Chk.fault (c : Chk) (s : State) (plot : Nat) : State × Bool :=
  match c with
  | .readUe page => (s.homeFault page (locPlot plot), false)
  | .frameUe page => s.frameFault page plot (locPlot plot) []
  | _ => (s, true)

/-- The outcome of a build's checks (R146, R149): how often EV 0x306A is raised, and whether the image stands. -/
def buildOutcome : Chk → Nat × Bool
  | .ok => (0, true) | .once => (1, true) | .twice => (2, false) | .readUe _ => (0, false) | .frameUe _ => (0, true)

def State.raiseBuild (s : State) (slot usn : Nat) : Nat → State
  | 0 => s
  | n + 1 => (s.evU 0x306A locField (some (slot, usn)) 0).raiseBuild slot usn n

/-! ### Epochs (R67, R68, R147) -/

/-- The tombstone base of an epoch: deletes at or below its floor in its sealed segments, in ascending handle order (R67). -/
def tombEntries (tombs : List (Nat × Nat)) (sealed : List Nat) (f : Nat) : List (Nat × Nat) :=
  tombs.filter fun e => decide (e.2 ≤ f) && sealed.contains (handleSeg e.1)

/-- The epoch record of R147. -/
def epochRecord (h : Shard) (e : Epoch) (reason : Nat) : Bytes :=
  ascii "OEPR" ++ leBytes 2 e.sealed.length ++ leBytes 1 reason ++ [0] ++ leBytes 4 h.id ++ leBytes 4 e.num ++ leBytes 8 e.floor ++
  leBytes 4 e.tombCount ++ leBytes 2 (e.deltas.getLast?.getD 0) ++ zeros 2 ++ padTo 32 e.tombRoot ++
  e.sealed.flatMap fun n =>
    let g := mget h.segs n
    leBytes 2 n ++ zeros 2 ++ leBytes 4 ((g.map fun g => g.image.length / 16384).getD 0) ++ padTo 32 ((g.map (·.root)).getD [])

/-- Make an epoch current: the old one ends at V(h) (R146). -/
def Shard.pushEpoch (h : Shard) (e : Epoch) (now : Nat) : Shard :=
  let close := fun (x : Epoch) => if x.num = h.cur.num then { x with ceiling := some h.vis, superseded := some now } else x
  { h with epochs := h.epochs.map close ++ [e] }

/-- A new segment in service, with the insert USNs of its offsets as far as the node knows them. -/
def newSeg (image root : Bytes) (usns : List Nat) : Seg := ⟨image, root, true, true, segMirrored image, [], usns⟩

/-- The insert USN of an offset of a segment (R50): known from its delta, else a free value within the header's bounds, which two of its
offsets take: some offset holds the least, and another the greatest. -/
def Seg.usnAt (g : Seg) (n o : Nat) : Nat :=
  let vc := segVc g.image
  let lo := Config.insertUsn n 16777216 % max 1 vc
  let hi := (lo + 1 + Config.insertUsn n 16777217 % max 1 (vc - 1)) % max 1 vc
  (g.usns[o]?).getD (if o = lo then u64 g.image 32 else if o = hi then u64 g.image 40
    else min (u64 g.image 40) (max (u64 g.image 32) (Config.insertUsn n o)))

/-- The insert USNs of a delta's offsets. -/
def Shard.deltaUsns (h : Shard) (n : Nat) : List Nat := ((mget h.deltas n).map fun d => d.recs.map (·.usn)).getD []

/-- Install a job's output as the next epoch of a shard. -/
def Shard.install (h : Shard) (image : Bytes) (usns : List Nat) (num f : Nat) (sealed deltas : List Nat) (chain : List (Nat × Bytes))
    (tombs : List (Nat × Nat)) (now : Nat) : Shard :=
  let n := segNumber image
  let base := tombEntries tombs sealed f
  let e : Epoch := ⟨num, f, none, sealed, deltas, tombBaseRoot h.id num base, base.length, chain, none⟩
  { h.pushEpoch e now with segs := mput h.segs n (newSeg image (segmentRoot h.id n image) usns), tombs := tombs }

/-- What follows an owner's switch (R70, R146): the root record, and the EPOCH log record, with which each attached partner gets the image;
a loading partner gets the image at once. -/
def State.announceEpoch (s : State) (slot reason : Nat) : State :=
  match mget s.shards slot with
  | none => s
  | some h =>
    let rec_ := epochRecord h h.cur reason
    let s1 := ((s.queueRoot slot h h.cur h.cur.floor reason).appendLog slot 3 h.vis rec_).bump 0x3041 (3 + reason) 1
    (h.partners.filter fun p => p.loading && !p.attached).foldl (fun s p => s.sendImage h p rec_) s1

/-- The extents of segments are no longer provisional once the map holds every page of them, the journal entries of the pages are programmed,
and the extent table is (R278, R279); none before. -/
def State.extentReady (s : State) (e : Extent) : Bool :=
  (List.range e.pages).all (fun k => (mget s.flash.map (e.first + k)).isSome) && decide (e.pages ≤ e.done) &&
  !s.flash.journal.any fun x => decide (e.first ≤ x.lpn) && decide (x.lpn < e.first + e.pages)
def State.sealExtents (s : State) (slot : Nat) (ns : List Nat) : Option State :=
  if ns.all fun n => (s.extentFor slot n).any s.extentReady then
    let fix := fun (x : Extent) => if x.slot = slot ∧ ns.contains x.seg then { x with prov := false } else x
    let es := s.flash.extents.map fix
    if es = s.flash.extents then some s else
    (s.putSys 0x20 0 (es.flatMap fun e => leBytes 2 e.slot ++ leBytes 2 e.seg ++ leBytes 4 e.first ++ leBytes 4 e.pages)).map fun s1 =>
      { s1 with flash := { s1.flash with extents := es } }
  else none

/-- The entry of a segment in an epoch record: (IMAGE_PAGES, SEGMENT_ROOT). -/
def recSeg (rec_ : Bytes) (n : Nat) : Option (Nat × Bytes) :=
  ((splitAll 40 (sl rec_ 64 (40 * u16 rec_ 4))).find? fun x => u16 x 0 == n).map fun x => (u32 x 4, sl x 8 32)
def recSealed (rec_ : Bytes) : List Nat := (splitAll 40 (sl rec_ 64 (40 * u16 rec_ 4))).map fun x => u16 x 0

/-- A job whose epoch number was taken meanwhile is built again for the next one. -/
def State.rebuildJob (s : State) (slot : Nat) (comp : Bool) (j : SealJob) (h : Shard) : State :=
  (s.dropExtent slot j.out).modJob slot comp fun j =>
    some { j with stage := 1, image := [], built := 0, chain := h.chainFrom (h.cur.num + 1) j.floor }

/-- Whether a shard may open another epoch (R146, UPD.EPOCHS_HELD_MAX). -/
def Shard.epochRoom (h : Shard) : Bool := decide (h.epochs.length < 16)

/-- Whether a shard has changed its epoch at this boundary (R150). -/
def Shard.changedAt (h : Shard) (now : Nat) : Bool := h.epochs.any fun e => e.superseded == some now

def Shard.sealReady (h : Shard) : Bool := h.owner && h.epochRoom && (h.sealJob.map fun j => j.stage == 4).getD false
def Shard.compReady (h : Shard) (now : Nat) : Bool :=
  h.owner && h.epochRoom && !h.sealReady && !h.changedAt now && (match h.comp with
    | some j => j.stage == 4 && !(h.sealJob.isSome && segEpoch j.image == h.cur.num + 2)
    | none => false)

/-- A segment that does not fit the window or the pinned area any more is refused at its switch (R71, R231): the seal begins again, the
compaction is abandoned. -/
def State.refuseSwitch (s : State) (slot : Nat) (comp : Bool) (j : SealJob) : State :=
  (((s.raise 0x6013 locField 0).raise 0x3030 locField 0).dropExtent slot j.out).modJob slot comp fun j =>
    if comp then none else some { j with stage := 0, image := [], built := 0 }

/-- A shard as the switch of a seal leaves it. -/
def Shard.sealedBy (h : Shard) (j : SealJob) (now : Nat) : Shard :=
  { h.install j.image (h.deltaUsns j.out) (h.cur.num + 1) j.floor (sortNat (h.cur.sealed ++ [j.out])) (h.cur.deltas.filter fun n => n != j.out)
      j.chain h.tombs now with sealJob := none, noSpace := false }

/-- What the switch of a seal makes of the shard (stage 5 of R146). -/
def State.commitSeal (s : State) (slot : Nat) (h : Shard) (j : SealJob) : State :=
  (s.modShard slot fun h => h.sealedBy j s.step.number).announceEpoch slot 1

/-- A bound on the log bytes of an EPOCH record of a shard (R140, R147). -/
def epochRoomBytes (h : Shard) : Nat := 256 + 40 * (h.cur.sealed.length + 1)

/-- The switch of a seal whose image and epoch record are durable (stage 5 of R146): the segment takes its place, and serves. -/
def State.switchSeal (s : State) (slot : Nat) (h : Shard) (j : SealJob) : State :=
  match s.placeSeg slot j.image with
  | none => s.refuseSwitch slot false j
  | some s1 => s1.commitSeal slot h j

/-- SEAL_SWITCH (stage 5 of R146). -/
def State.doSealSwitch (s : State) (slot : Nat) : State :=
  match mget s.shards slot with
  | none => s
  | some h => match h.sealJob with
    | none => s
    | some j =>
      if ¬ h.sealReady ∨ ¬ s.logRoom (epochRoomBytes h) then s
      else if segEpoch j.image ≠ h.cur.num + 1 then s.rebuildJob slot false j h
      else s.switchSeal slot h j

/-- Recovery takes a seal's durable epoch record as current, however many epochs are held (R153). -/
def State.recoverSeal (s : State) (slot : Nat) : State :=
  match mget s.shards slot with
  | none => s
  | some h => match h.sealJob.filter fun j => j.stage == 4 && segEpoch j.image == h.cur.num + 1 with
    | none => s
    | some j => s.commitSeal slot h j

/-! ### Compaction (R148 to R150) -/

/-- The level of a segment (R148). -/
def segLevel (vc : Nat) : Nat := ((List.range 32).find? fun l => decide (vc ≤ 4096 * 8 ^ l)).getD 31

/-- The offsets of a segment whose delete USN is greater than `f`. -/
def Shard.keptOffsets (h : Shard) (f : Nat) (n : Nat) : List Nat :=
  match mget h.segs n with
  | none => []
  | some g => (List.range (segVc g.image)).filter fun o => decide (f < mgetD h.tombs (mkHandle n o) usnNever)

/-- The first `k` of a list of (segment, live offsets), in its order, that have together at most `room` live offsets: a segment is taken
where enough of those behind it still fit. -/
def pickMerge : Nat → Nat → List (Nat × Nat) → Option (List Nat)
  | 0, _, _ => some []
  | _ + 1, _, [] => none
  | k + 1, room, x :: rest =>
    if k ≤ rest.length ∧ x.2 + sumNat ((sortNat (rest.map (·.2))).take k) ≤ room then (pickMerge k (room - x.2) rest).map (x.1 :: ·)
    else pickMerge (k + 1) room rest

/-- The inputs of the first form of R148 that applies: of the groups that can be merged, the one whose segments are the lowest-numbered.
DESIGN CHOICE (log 166): of several segments that qualify for a reclaim, the lowest-numbered is taken. -/
def State.compInputs (s : State) (h : Shard) : Option (List Nat) :=
  let f := h.cur.floor
  let segs := (sortNat h.cur.sealed).filterMap fun n => (mget h.segs n).bind fun g => if g.inService then some (n, g) else none
  let vc := fun (g : Nat × Seg) => segVc g.2.image
  let kept := fun (g : Nat × Seg) => (h.keptOffsets f g.1).length
  match segs.find? fun g => decide (s.actN 0x3043 2 * vc g ≤ (vc g - kept g) * 65536) with
  | some g => some [g.1]
  | none =>
    (sortBy (fun a b => decide (a.headD 0 < b.headD 0)) (segs.filterMap fun g =>
      pickMerge (s.actN 0x3043 1) 16777216
        ((segs.filter fun x => segLevel (vc x) == segLevel (vc g) && segCb x.2.image == segCb g.2.image).map fun x =>
          (x.1, kept x)))).head?

/-- Whether a compaction of a shard is chosen now. -/
def State.compBegins (s : State) (h : Shard) : Bool :=
  h.owner && s.actN 0x3043 3 == 1 && h.comp.isNone && h.freeSegment.isSome && (s.compInputs h).isSome

/-- COMPACTION_CHOOSE (R148). -/
def State.doCompactChoose (s : State) (slot : Nat) : State :=
  match mget s.shards slot with
  | none => s
  | some h =>
    if ¬ s.compBegins h then s else
    match s.compInputs h, h.freeSegment with
    | some ins, some out =>
      let num := h.cur.num + (if h.sealJob.isSome then 2 else 1)
      let job : SealJob := ⟨ins, out, h.cur.floor, 1, 0, [], [], s.sealSet, h.chainFrom num h.cur.floor, false, 0, 0⟩
      s.modShard slot fun h => { h with comp := some job }
    | _, _ => s

/-- The offsets of a job's output: each old handle with its new offset (R149). -/
def Shard.compMap (h : Shard) (j : SealJob) : List (Nat × Nat) :=
  ((sortNat j.inputs).flatMap fun n => (h.keptOffsets j.floor n).map (mkHandle n)).zipIdx

/-- The passage pages of a segment's section 0x000D, which a compaction takes whole (R60, R149). -/
def segKvPages (i : Bytes) : Nat := if segPassage i then (segSec i 13).length / passagePageBytes (segSec i 13) else 0

/-- The passage references of the inputs, each shifted by the pages of the inputs before it. -/
def kvShifts (imgs : List (Nat × Bytes)) : List (Nat × Nat) :=
  (imgs.foldl (fun (st : List (Nat × Nat) × Nat) g => (st.1 ++ [(g.1, st.2)], st.2 + segKvPages g.2)) ([], 0)).1

/-- The insert USNs of the offsets of a job's output, in their order. -/
def Shard.outUsns (h : Shard) (j : SealJob) : List Nat :=
  j.offs.map fun e => ((mget h.segs (handleSeg e.1)).map fun g => g.usnAt (handleSeg e.1) (handleOff e.1)).getD 0

/-- The image of a compaction's output (R149). -/
def compImage (h : Shard) (j : SealJob) (num : Nat) : Bytes :=
  let imgs := (sortNat j.inputs).filterMap fun n => (mget h.segs n).map fun g => (n, g.image)
  let i := (imgs.head?.map (·.2)).getD []
  let spliced := imgs.filter fun g => segPassage g.2
  let model := (spliced.head?.map fun g => segKvModel g.2).getD []
  let kv := !spliced.isEmpty && spliced.all fun g => segKvModel g.2 == model
  let sh := kvShifts imgs
  let vec := fun (hd : Nat) =>
    let img := ((imgs.find? fun g => g.1 == handleSeg hd).map (·.2)).getD []
    let v := segVec img (handleOff hd)
    let d := ((sh.find? fun g => g.1 == handleSeg hd).map (·.2)).getD 0
    { v with kv := if kv && u16 v.kv 4 != 0 then leBytes 4 (u32 v.kv 0 + d) ++ v.kv.drop 4 else [] }
  buildImage
    { shard := h.id, seg := j.out, epoch := num, metric := segMetric i, m := segM i, bits := segBits i, dim := segDim i,
      cb := segCodebook i, mirror := j.set.mirror, fields := j.set.fields, share := j.set.share, baseDeg := j.set.baseDeg,
      hubDeg := j.set.hubDeg, hubShare := j.set.hubShare, kvModel := if kv then model else [],
      kvPages := if kv then imgs.flatMap fun g => segSec g.2 13 else [],
      usns := h.outUsns j }
    (j.offs.map fun e => vec e.1)

/-- COMPACTION_BUILD (R149): a job that fails its checks, as one whose output holds no vector does (R50), is abandoned. -/
def execCompactionBuild (slot : Nat) (chk : Chk) (s : State) : Host.Outcome State Fault Refusal :=
  match mget s.shards slot with
  | none => .next s
  | some h => match h.comp with
    | none => .next s
    | some j =>
      let num := h.cur.num + (if h.sealJob.isSome then 2 else 1)
      let j1 := { j with offs := h.compMap j }
      let image := compImage h j1 num
      if j.stage ≠ 1 ∨ ¬ h.owner ∨ ¬ s.hasSlice (j.out % 16) 5 then .next s
      else if j.built + s.buildRoom j image < image.length then .next (s.buildPart slot true j image)
      else match Chk.fault chk (s.buildPart slot true j image) (j.out % 16) with
      | (s, false) => .next s
      | (s, true) =>
        if chk = .once ∨ chk = .twice ∨ ¬ h.imageOk image j.out then
          .next ((s.evU 0x306A locField (some (slot, h.vis)) 0).modShard slot fun h => { h with comp := none })
        else if (s.placeSeg slot image).isNone then
          .next (((s.raise 0x6013 locField 0).raise 0x3030 locField 0).modShard slot fun h => { h with comp := none })
        else .next (s.modJob slot true fun _ => some { j1 with stage := 2, image := image, chain := h.chainFrom num j.floor })

/-- The tombstones above f0 copied to a job's output (R149). -/
def copyTombs (tombs : List (Nat × Nat)) (j : SealJob) : List (Nat × Nat) :=
  j.offs.foldl (fun m e => match mget tombs e.1 with
    | some u => mput m (mkHandle j.out e.2) u
    | none => m) tombs

/-- The ID directory with the handles of a job's inputs repointed (R149). -/
def repointDir (dir : List (Nat × List Nat)) (j : SealJob) : List (Nat × List Nat) :=
  let moved := fun x => match j.offs.find? fun e => e.1 == x with
    | some e => mkHandle j.out e.2
    | none => x
  dir.map fun e => (e.1, e.2.map moved)

/-- A shard as the switch of a compaction leaves it. -/
def Shard.compactedBy (h : Shard) (j : SealJob) (now : Nat) : Shard :=
  let sealed := sortNat (h.cur.sealed.filter (fun n => !j.inputs.contains n) ++ [j.out])
  { h.install j.image (h.outUsns j) (h.cur.num + 1) h.cur.floor sealed h.cur.deltas
      (if j.floor = h.cur.floor then j.chain else h.chainFrom (h.cur.num + 1) h.cur.floor) (copyTombs h.tombs j) now with
    comp := none, dir := repointDir h.dir j }

/-- What the switch of a compaction makes of the shard (stage 4 of R149). -/
def State.commitCompact (s : State) (slot : Nat) (h : Shard) (j : SealJob) : State :=
  (s.modShard slot fun h => h.compactedBy j s.step.number).announceEpoch slot 2

/-- The epoch record of a job whose image is written, as its switch will find it (R147). -/
def State.jobRecord (s : State) (slot : Nat) (comp : Bool) (j : SealJob) : Bytes :=
  match mget s.shards slot with
  | none => []
  | some h =>
    let x := if comp then h.compactedBy j s.step.number else h.sealedBy j s.step.number
    epochRecord x x.cur (if comp then 2 else 1)

/-- A job's epoch record becomes durable with its image (R147). -/
def State.jobDurable (s : State) (slot : Nat) (comp : Bool) (j : SealJob) : State :=
  match (s.sealExtents slot [j.out]).bind fun s => s.putSys 0x20 (1 + slot) (s.jobRecord slot comp j) with
  | none => s
  | some s1 => s1.modJob slot comp fun j => some { j with stage := 4 }

/-- The images that a slot holds beside its jobs get their extents, segment by segment. -/
def State.sealLoose (s : State) (slot : Nat) (h : Shard) : State :=
  (h.segs.map (·.1)).foldl (fun s n => (s.sealExtents slot [n]).getD s) s

/-- SEAL_WRITE (R67, R147, R279): the epoch record of a written image is made durable, the seal's before the compaction's; at a replica,
the record that it installs next, with the images of its segments (stage 6 of R146). -/
def execSealWrite (slot : Nat) (s : State) : Host.Outcome State Fault Refusal :=
  match mget s.shards slot with
  | none => .next s
  | some h =>
    if h.owner then
      match h.sealJob.filter fun j => j.stage == 3, h.comp.filter fun j => j.stage == 3 with
      | some j, _ => .next (s.jobDurable slot false j)
      | none, some j => .next (s.jobDurable slot true j)
      | none, none => .next (s.sealLoose slot h)
    else match h.pendEpoch with
      | some r => match s.sealExtents slot (recSealed r) with
        | some s1 => match s1.putSys 0x20 (1 + slot) r with
          | some s2 => .next (s2.modShard slot fun h => { h with pendDone := true })
          | none => .next s1
        | none => .next s
      | none => .next (s.sealLoose slot h)

/-- The switch of a compaction whose image and epoch record are durable (stage 4 of R149). -/
def State.switchCompact (s : State) (slot : Nat) (h : Shard) (j : SealJob) : State :=
  match s.placeSeg slot j.image with
  | none => s.refuseSwitch slot true j
  | some s1 => s1.commitCompact slot h j

/-- COMPACTION_SWITCH (R149, R150). -/
def State.doCompactSwitch (s : State) (slot : Nat) : State :=
  match mget s.shards slot with
  | none => s
  | some h => match h.comp with
    | none => s
    | some j =>
      if ¬ h.compReady s.step.number ∨ ¬ s.logRoom (epochRoomBytes h) then s
      else if segEpoch j.image ≠ h.cur.num + 1 then s.rebuildJob slot true j h
      else s.switchCompact slot h j

/-- Recovery takes a compaction's durable epoch record as current (R153). -/
def State.recoverCompact (s : State) (slot : Nat) : State :=
  match mget s.shards slot with
  | none => s
  | some h => match h.comp.filter fun j => j.stage == 4 && segEpoch j.image == h.cur.num + 1 with
    | none => s
    | some j => s.commitCompact slot h j

/-! ### Replicas (R143, R146) -/

/-- Whether a record must wait for the epoch that the replica still fetches: a second freeze or epoch record (log 167). -/
def Shard.recordWaits (h : Shard) (r : LogRec) : Bool :=
  (r.kind == 2 && h.sealJob.isSome) || (r.kind == 3 && h.pendEpoch.isSome)

/-- Whether a replica's next update needs a page and none is free (R231). -/
def State.lacksPage (s : State) (slot : Nat) (h : Shard) (d : Bytes) : Bool :=
  match h.open_, s.openCb h with
  | some n, some c => uOp d != 2 && (s.growDelta slot n (((mget h.deltas n).map (·.recs.length)).getD 0 + 1) c).isNone
  | _, _ => false

/-- Act on the first record that a replica holds of its shard (R143).  An update that needs a page while none is free is held (R231), but
where the slot changes its role (`all`); a SEAL_BEGIN or EPOCH record that has come again changes nothing. -/
def State.takeInbox (s : State) (slot : Nat) (all : Bool) : State :=
  match mget s.shards slot with
  | none => s
  | some h => match h.inbox with
    | [] => s
    | r :: rest =>
      let s1 := s.modShard slot fun h => { h with inbox := rest }
      let b := r.bytes.drop 16
      if r.kind = 1 then
        if !all && s.lacksPage slot h b then s.raiseRun 0x6013 slot locField none 0 else s1.applyUpdate slot (b.take (64 + uPayload b)) r.usn
      else if r.kind = 2 then if h.open_ = some (u16 b 8) then s1.freezeAt slot (u16 b 10) (sl b 16 32) (u64 b 0) else s1
      else if u32 b 12 ≤ h.cur.num then s1
      else s1.modShard slot fun h => { h with pendEpoch := some (b.take (64 + 40 * u16 b 4)), pendDone := false }

/-- Act on all of them. -/
def State.drainInbox (s : State) (slot : Nat) : Nat → State
  | 0 => s
  | n + 1 => (s.takeInbox slot true).drainInbox slot n

/-- REPLICA_APPLY (R143): the next record of a replica's shard.  Seedling service takes none (R383). -/
def execReplicaApply (slot : Nat) (s : State) : Host.Outcome State Fault Refusal :=
  match mget s.shards slot with
  | none => .next s
  | some h =>
    if h.owner || s.step.seedling || (h.inbox.head?.map h.recordWaits).getD false then .next s else .next (s.takeInbox slot false)

/-- Whether two images carry equal METRIC, DIM, M and CODE_BITS (R80). -/
def imagesAgree (a b : Bytes) : Bool := segMetric a == segMetric b && segDim a == segDim b && segM a == segM b && segBits a == segBits b

/-- Whether a segment's METRIC, DIM, M and CODE_BITS equal those of the other segments and deltas of its epoch (R80). -/
def State.segAgrees (s : State) (h : Shard) (i : Bytes) : Bool :=
  (h.cur.sealed.all fun n => match mget h.segs n with
    | some g => imagesAgree g.image i
    | none => true) &&
  (h.cur.deltas.all fun n => match (mget h.deltas n).bind fun d => (s.cbOf d.cb).map fun c => (d.metric, c) with
    | some (m, c) => m == segMetric i && c.dim == segDim i && c.m == segM i && c.bits == segBits i
    | none => true)

/-- SEGMENT_IMAGE at a replica (R62, R71, R80, R146): an image that passes waits for its write and the switch. -/
def execSegmentImage (_port slot : Nat) (image rec_ : Bytes) (s : State) : Host.Outcome State Fault Refusal :=
  match mget s.shards slot with
  | none => .next s
  | some h =>
    let n := segNumber image
    if h.owner then .next s
    else if ¬ h.imageOk image n ∨ ¬ s.segAgrees h image then .next (s.raise 0x3030 locField 0)
    else if (recSeg rec_ n).map (·.2) ≠ some (segmentRoot h.id n image) then .next (s.raise 0x3032 locField 0)
    else if (s.placeSeg slot image).isNone then .next ((s.raise 0x6013 locField 0).raise 0x3030 locField 0)
    else .next (s.modShard slot fun h => { h with images := mput h.images n image })

/-- Whether a replica can switch to the epoch that its log announced: it holds every segment of it, and the record and the images are
durable (stage 6 of R146). -/
def Shard.replicaReady (h : Shard) : Bool :=
  match h.pendEpoch with
  | none => false
  | some r => !h.owner && h.pendDone && h.epochRoom && (recSealed r).all fun n => (mget h.segs n).isSome || (mget h.images n).isSome

/-- The floor with which the owner kept `vc` offsets of the inputs (R149): the image says how many, and the offsets dropped are those
deleted first. -/
def Shard.keptFloor (h : Shard) (ins : List Nat) (vc : Nat) : Nat :=
  let total := sumNat (ins.map fun n => ((mget h.segs n).map fun g => segVc g.image).getD 0)
  let gone := sortNat ((h.tombs.filter fun t => ins.contains (handleSeg t.1)).map (·.2))
  if total ≤ vc then 0 else gone.getD (total - vc - 1) 0

/-- The replica installs the owner's epoch (R143, R146, R149).  For a compaction it derives the mapping of old handles to new from the
images and its own tombstone maps.  The image takes its place, but at recovery, where the load follows (R153); one that does not fit any more
is refused, and fetched again (R231). -/
def State.installEpoch (s : State) (slot : Nat) (place : Bool) : State :=
  match mget s.shards slot with
  | none => s
  | some h => match h.pendEpoch with
    | none => s
    | some r =>
      let sealed := recSealed r
      let new_ := sealed.filter fun n => !h.cur.sealed.contains n
      let ins := h.cur.sealed.filter fun n => !sealed.contains n
      let out := new_.headD 0
      let image := (mget h.images out).getD (((mget h.segs out).map (·.image)).getD [])
      let f := u64 r 16
      let merged := u8 r 6 == 2
      let j0 : SealJob := ⟨ins, out, h.keptFloor ins (segVc image), 4, 0, image, [], s.sealSet, [], false, 0, 0⟩
      let j := { j0 with offs := h.compMap j0 }
      let tombs := if merged then copyTombs h.tombs j else h.tombs
      let keep := h.cur.deltas.filter fun n => !sealed.contains n
      let sw := fun (h : Shard) =>
        { h.install image (if merged then h.outUsns j else h.deltaUsns out) (u32 r 12) f sealed keep (h.chainFrom (u32 r 12) f) tombs
            s.step.number with
          pendEpoch := none, pendDone := false, images := mdel h.images out, dir := if merged then repointDir h.dir j else h.dir,
          sealJob := h.sealJob.filter fun j => j.out != out }
      match (if place then s.placeSeg slot image else some s) with
      | none => (((s.raise 0x6013 locField 0).raise 0x3030 locField 0).dropExtent slot out).modShard slot fun h =>
          { h with images := mdel h.images out, pendDone := false }
      | some s1 => s1.modShard slot sw

/-- REPLICA_EPOCH_SWITCH (R146): at the replica's own boundary. -/
def State.doReplicaSwitch (s : State) (slot : Nat) : State :=
  match mget s.shards slot with
  | none => s
  | some h => if h.replicaReady then s.installEpoch slot true else s

/-- Recovery takes a replica's durable epoch record as current, however many epochs are held (R153). -/
def State.recoverReplica (s : State) (slot : Nat) : State :=
  match mget s.shards slot with
  | none => s
  | some h => if h.pendDone && !h.owner then s.installEpoch slot false else s

/-! ### Release and trimming (R151, R152) -/

/-- Whether a request, audit pass or replay copy holds an epoch of a shard. -/
def State.epochUsed (s : State) (id num : Nat) : Bool :=
  let has := fun (w : Work) => w.shards.any fun x => x.src.port == 0xFF && x.id == id && x.epoch == num
  (s.ledger.works.any fun w => has w.2) || (s.ledger.audits.any fun a => has a.work) ||
  (s.ledger.copies.any fun c => has c.2.work) || (s.ledger.replays.any fun r => has r.copy.work)

/-- Whether a superseded epoch is released now (R151). -/
def State.releases (s : State) (h : Shard) (e : Epoch) : Bool :=
  (match e.superseded with
   | some t => decide (t + s.actN 0x3040 3 ≤ s.step.number)
   | none => false) && !s.epochUsed h.id e.num

/-- EPOCH_RELEASE (R151): what no held epoch uses becomes free. -/
def State.doEpochRelease (s : State) (slot num : Nat) : State :=
  match mget s.shards slot with
  | none => s
  | some h => match h.epoch? num with
    | none => s
    | some e =>
      if ¬ s.releases h e then s else
      let left := h.epochs.filter fun x => x.num != num
      let segs := left.flatMap (·.sealed)
      let dels := left.flatMap (·.deltas)
      let low := minNat h.lastUsn (left.map (·.floor))
      let gone := (e.sealed.filter fun n => !segs.contains n)
      let live := fun x => segs.contains (handleSeg x) || dels.contains (handleSeg x)
      let rel := fun (h : Shard) =>
        { h with epochs := left, segs := h.segs.filter (fun x => segs.contains x.1), deltas := h.deltas.filter (fun x => dels.contains x.1),
                 tombs := h.tombs.filter (fun x => live x.1), digests := h.digests.filter fun x => decide (low < x.1) }
      let freed := fun (p : Nat × Nat × Nat) =>
        p.2.1 == slot && (((p.1 == 0 || p.1 == 4) && !segs.contains p.2.2) || (p.1 == 1 && !dels.contains p.2.2) ||
          (p.1 == 2 && !segs.contains p.2.2 && !dels.contains p.2.2))
      let s1 := (gone.foldl (fun s n => s.dropExtent slot n) (s.modShard slot rel)).releasePages freed
      { s1 with tier := { s1.tier with bmaps := s1.tier.bmaps.filter fun b => !(b.slot == slot && gone.contains b.seg) } }

/-- Whether a log record may be trimmed (R152). -/
def State.trims (s : State) (r : LogRec) : Bool :=
  r.durable && (match mget s.shards r.slot with
    | none => true
    | some h => decide (1 ≤ h.cur.num) && decide (r.usn ≤ h.cur.floor) &&
        (h.partners.filter (·.attached)).all fun p => decide (r.usn ≤ p.acked))

/-- LOG_TRIM (R152, R279): records leave in log order, and the log pages that hold none of the rest are unmapped. -/
def execLogTrim (s : State) : Host.Outcome State Fault Refusal :=
  let left := s.log.recs.dropWhile s.trims
  let gone := s.flash.logPages.filter fun p => left.all fun r => decide (p.last < r.seq)
  let s1 := { s with log := { s.log with recs := left },
                     flash := { s.flash with logPages := s.flash.logPages.filter (fun p => !(left.all fun r => decide (p.last < r.seq))),
                                             verified := max s.flash.verified (maxNat (gone.map fun p => p.seq + 1)) } }
  .next (gone.foldl (fun s p => s.trim p.lpn 1) s1)

end Sys2Proof.Machine
end

