-- ==== Sys2Proof/Machine/Tiers.lean ====
section
/-! DEFINITION. Tiers: placement, migration, scrub, repair, loads and reloads (R71, R233 to R240). -/

namespace Sys2Proof.Machine

/-! ### Placement and migration (R234 to R236) -/

/-- The read count of a window page in the window that ends: the reads of the host, of plan transfers and of embedding rows as they came.
Searches merge and batch their reads of segments and deltas (R85), so what they add to those pages is a free value. -/
def State.pageCount (s : State) (k p : Nat) : Nat :=
  let merged := ((mget s.tier.alloc p).map fun e => e.1 != 3).getD false
  min 65535 (mgetD s.tier.counts p 0 + if merged then Config.freeNat (s.freeCtr + k) else 0)

/-- The desired pages of a plot, in ranking order (R234). -/
def State.desired (s : State) (plot : Nat) : List Nat :=
  let mine := (s.tier.alloc.zipIdx).filter fun e => s.pageHome e.1.1 == plot
  let counted := mine.map fun e => (e.1.1, s.pageCount e.2 e.1.1)
  ((sortBy (fun a b => decide (b.2 < a.2) || (a.2 == b.2 && decide (a.1 < b.1)))
    (counted.filter fun e => decide (s.actN 0x6010 7 ≤ e.2))).map (·.1)).take s.frames

/-- Whether a placement window ends at this boundary. -/
def State.placeEnds (s : State) : Bool := decide (s.tier.winAt + s.actN 0x6010 6 ≤ s.step.number)

/-- PLACEMENT_WINDOW_END (R234, R235). -/
def State.doPlaceWindow (s : State) : State :=
  if ¬ s.placeEnds then s else
  let want := (List.range 16).flatMap s.desired
  let up := want.filter fun p => !s.tier.frames.contains p
  let down := s.tier.frames.filter fun p => !want.contains p
  let left := s.tier.promos.length
  let s1 := { s with tier := { s.tier with counts := [], promos := [], demote := [], winAt := s.step.number },
                     freeCtr := s.freeCtr + s.tier.alloc.length }
  let s2 := if left = 0 then s1 else s1.bump 0x6011 3 left
  if s.grant 0x0A then
    { s2 with tier := { s2.tier with demote := down, promos := up.map fun p => ⟨p, 0, false, false⟩ } }
  else if up.isEmpty && down.isEmpty then s2 else s2.raise 0x6010 locField 0

/-- PAGE_DEMOTE (R235): at the boundary after the window's end. -/
def State.doDemote (s : State) : State :=
  if s.tier.demote.isEmpty then s else
  let n := s.tier.demote.length
  if s.grant 0x0A then
    let s1 := { s with tier := { s.tier with frames := s.tier.frames.filter (fun p => !s.tier.demote.contains p), demote := [] } }
    (s1.bump 0x6011 2 n).bump 0x2111 0x0A n
  else { s with tier := { s.tier with demote := [] } }

/-- The next promotion that a plot can copy: in ranking order, within the step's budget and what its migration slices still hold, into an
empty frame. -/
def State.nextPromo (s : State) (plot : Nat) : Option Promo :=
  let here := fun p => s.pageHome p == plot
  let held := (s.tier.frames.filter here).length + (s.tier.promos.filter fun q => here q.page && q.copied).length
  if mgetD s.tier.copied plot 0 + 65536 ≤ s.actN 0x6010 8 ∧ s.fits (onPlot plot 3) 65536 ∧ held < s.frames then
    s.tier.promos.find? fun q => here q.page && !q.copied
  else none

/-- Copy one page.  A copy that reads back otherwise waits behind the others and is made again (log 206); one of a page written in this
step restarts, once for what was written before it (R235). -/
def State.copyPromo (s : State) (plot : Nat) (bad : Bool) (q : Promo) : State :=
  let rest := s.tier.promos.filter fun x => x.page != q.page
  let mark := fun (x : Promo) => if x.page = q.page then { x with copied := true } else x
  let s0 := s.useRoom (onPlot plot 3) 65536
  let s1 := { s0 with tier := { s0.tier with
    promos := if bad then rest ++ [q] else s.tier.promos.map mark, copied := mupd s.tier.copied plot 0 (· + 65536) } }
  if !bad && s.tier.wrote.contains q.page && !q.hit then s1.touchPage q.page else s1

/-- Copy pages of a plot while the budget lasts. -/
def State.copyPromos (s : State) (plot : Nat) (bad : List Nat) : Nat → State
  | 0 => s
  | fuel + 1 => match s.nextPromo plot with
    | none => s
    | some q => (s.copyPromo plot (bad.contains q.page) q).copyPromos plot bad fuel

/-- PROMOTION_COPY (R235): in a migration slice of the plot. -/
def execPromotionCopy (c : PlotCopy) (s : State) : Host.Outcome State Fault Refusal :=
  .next (if s.grant 0x0A && s.hasSlice c.plot 3 then s.copyPromos c.plot c.bad (s.tier.promos.length) else s)

/-- PROMOTION_SWITCH (R235): the copied pages of a plot are read from their frames from this boundary. -/
def State.doPromoSwitch (s : State) (plot : Nat) : State :=
  let hit := s.tier.promos.filter fun q => s.pageHome q.page == plot && q.copied
  if hit.isEmpty then s else
  let s1 := { s with tier := { s.tier with
      frames := sortNat (s.tier.frames ++ hit.map (fun (q : Promo) => q.page)),
      promos := s.tier.promos.filter fun (q : Promo) => !(s.pageHome q.page == plot && q.copied) } }
  (s1.bump 0x6011 1 hit.length).bump 0x2111 0x0A hit.length

/-- Invalidate every frame, at a change of the weight region or of PINNED_MIB (R236). -/
def State.dropFrames (s : State) : State :=
  let s1 := s.countDropped fun _ => true
  { s1 with tier := { s1.tier with frames := [], demote := [], promos := [] } }

/-! ### Refresh, scrub and repair (R238 to R240) -/

/-- REFRESH_SLICE (R238): the banks outside tilling mode are refreshed; what they hold stays. -/
def execRefreshSlice (_idx : Nat) (s : State) : Host.Outcome State Fault Refusal := .next s

/-- What the code of a memory makes of a word or transfer with errors (R239). -/
inductive Ecc where
  | clean | corrected | detected
  deriving DecidableEq, Repr

/-- SECDED over the bits of a 64-bit SRAM word; and the Reed-Solomon code of distance 9 over the 72 bytes of a Tiller transfer, which corrects
t and detects s bytes for t + s up to 8: 3 and 5.  What more errors read as is open: `free` decides (log 207). -/
def secded (errs free : Nat) : Ecc :=
  if errs = 0 then .clean else if errs = 1 then .corrected else if errs = 2 then .detected
  else if free % 2 = 0 then .corrected else .detected
def tillerCode (errs free : Nat) : Ecc :=
  if errs = 0 then .clean else if errs ≤ 3 then .corrected else if errs ≤ 5 then .detected
  else if free % 2 = 0 then .corrected else .detected

/-- Whether a scrub reads a place in SRAM, whether it reads it on a plot at all, and what the read makes of the errors. -/
def ScrubPlace.inSram : ScrubPlace → Bool
  | .frame _ | .stub _ | .sram => true
  | _ => false
def State.holdsPage (s : State) (plot : Nat) (p : Nat × Nat × Nat → Bool) : Bool :=
  s.tier.alloc.any fun e => p e.2 && s.pageHome e.1 == plot
def State.scrubs (s : State) (plot : Nat) : ScrubPlace → Bool
  | .frame page => s.pageHome page == plot
  | .sealed slot seg _ | .image slot seg _ => s.codesPlot slot seg == plot
  | .delta slot => s.holdsPage plot fun e => (e.1 == 1 || e.1 == 2) && e.2.1 == slot
  | .emb t => s.holdsPage plot fun e => e.1 == 3 && e.2.1 == t
  | .context tag => ((s.farOf tag).map fun f => f.1 / 131072 == plot).getD false
  | .stub tag => ((s.stubOf tag).map fun k => k.1 / 131072 == plot).getD false
  | .planCopy | .row | .sram => true
def State.eccRead (s : State) (f : ScrubFind) : Ecc × State :=
  let code := if ScrubPlace.inSram f.place then secded f.errs else tillerCode f.errs
  if (if ScrubPlace.inSram f.place then 2 else 5) < f.errs then (code s.free.1, s.free.2) else (code 0, s)

/-- A key for a Tiller row of a plot. -/
def rowKey (plot row : Nat) : Nat := row * 16 + plot % 16

/-- A corrected error of a Tiller row, which is written back (R240, R265): it counts, and past TIER.ROW_CE_LIMIT the row is to be repaired. -/
def State.countRow (s : State) (plot row : Nat) : State :=
  let n := mgetD s.tier.rowCe (rowKey plot row) 0 + 1
  let s1 := ({ s with tier := { s.tier with rowCe := mput s.tier.rowCe (rowKey plot row) n } }).bump 0x6011 4 1
  if n = s.actN 0x6010 0x0A + 1 then
    ({ s1 with tier := { s1.tier with repairs := s1.tier.repairs ++ [(plot, row)] } }).raise 0x6015 (locPlot plot) 0
  else s1

/-- An uncorrected error that a scrub finds, by the cases of the table of R240. -/
def State.scrubUe (s : State) (plot : Nat) (p : ScrubPlace) : State :=
  let ue := s.bump 0x6011 5 1
  let pool := fun (x : PoolLoss) => match execPoolLoss x ue with
    | .next s1 => s1
    | _ => ue
  match p with
  | .frame page => if s.tier.frames.contains page then s.dropFrame page (locPlot plot) else ue
  | .sealed slot seg page => ((ue.raise 0x3016 (locPlot plot) 0).raise 0x3031 (locPlot plot) 0).askReload slot seg page
  | .delta slot => (ue.raise 0x6016 (locPlot plot) 0).askRebuild slot
  | .emb t => (ue.divergeEmb t).raise 0x5024 (locPlot plot) 0
  | .context tag => pool (.farContext tag)
  | .stub tag => pool (.stub tag)
  | .planCopy => ({ ue with tier := { ue.tier with planBad := setBit ue.tier.planBad plot } }).raise 0x6016 (locPlot plot) 0
  | .row | .sram | .image _ _ _ => ue

/-- What a scrub slice of a plot found, by the table of R240 and the fourth case of R71. -/
def State.scrubFound (plot : Nat) (s : State) (f : ScrubFind) : State :=
  if ¬ s.scrubs plot f.place then s else
  match f.place with
  | .image slot seg page => (s.raise 0x3031 (locPlot plot) 0).askReload slot seg page
  | place =>
    let r := s.eccRead f
    match r.1 with
    | .clean => s
    | .corrected => if ScrubPlace.inSram place then r.2.bump 0x6011 4 1 else r.2.countRow plot f.row
    | .detected => r.2.scrubUe plot place

/-- The plot and the bytes of a scrub slice (R237): those that the slice names and has not yet read in this step.  The Seedling set's slices
are the firmware's own, one to a plot (log 179). -/
def State.scrubSlice (s : State) (idx : Nat) : Option (Nat × Option Nat) :=
  if s.step.seedling then some (idx % 16, none)
  else (s.sliceAt idx 2).bind fun x => if x.cap ≤ mgetD s.step.used idx 0 then none else some (x.plot, some (x.cap - mgetD s.step.used idx 0))

/-- SCRUB_SLICE (R71, R237, R240).  The plot's plan copy and delta pages found bad before are restored; then what the slice found in the
64-byte reads that its CAPACITY allows.  The counts of corrected errors per row start anew with every scrub period. -/
def execScrubSlice (idx : Nat) (found : List ScrubFind) (s : State) : Host.Outcome State Fault Refusal :=
  match s.scrubSlice idx with
  | none => .next s
  | some (plot, cap) =>
    let over_ := decide (s.tier.scrubAt + s.actN 0x6010 9 ≤ s.step.number)
    let here := fun (slot : Nat) => s.holdsPage plot fun e => (e.1 == 1 || e.1 == 2) && e.2.1 == slot
    let s1 := { s with
      step := { s.step with used := match cap with | some n => mupd s.step.used idx 0 (· + n) | none => s.step.used }
      tier := { s.tier with
        rebuild := s.tier.rebuild.filter (fun slot => !here slot), planBad := clrBit s.tier.planBad plot,
        rowCe := if over_ then [] else s.tier.rowCe, scrubAt := if over_ then s.step.number else s.tier.scrubAt } }
    .next ((match cap with | some n => found.take (n / 64) | none => found).foldl (State.scrubFound plot) s1)

/-- Whether the step has a scrub slice for a row's channel (log 208). -/
def State.repairSlice (s : State) (plot row : Nat) : Bool :=
  s.step.seedling || !(s.slicesNow fun x => onPlot plot 2 x && (x.target == 0 || bit x.target (row % 32))).isEmpty

/-- ROW_REPAIR (R240): a row that passed TIER.ROW_CE_LIMIT, under the grant, in a scrub slice of its channel. -/
def execRowRepair (plot row : Nat) (s : State) : Host.Outcome State Fault Refusal :=
  .next (if s.grant 0x0B && s.tier.repairs.contains (plot, row) && s.repairSlice plot row then
      (({ s with tier := { s.tier with repairs := s.tier.repairs.filter (· != (plot, row)),
                                       rowCe := mdel s.tier.rowCe (rowKey plot row) } }).useGrant 0x0B).raise 0x6017 (locPlot plot) 0
    else s)

/-! ### Loads and reloads (R62, R71, R80) -/

/-- SEGMENT_LOAD (R71): the header and section rules, the pages against their leaves, the recorded root, the space; then the segment
serves.  `chk`: every page of the flash image matches its leaf, one matches on its re-read, or one does not. -/
def execSegmentLoad (slot seg : Nat) (chk : Chk) (s : State) : Host.Outcome State Fault Refusal :=
  match mget s.shards slot with
  | none => .next s
  | some h => match mget h.segs seg with
    | none => .next s
    | some g =>
      if g.loaded then .next s
      else if Chk.bad chk then .next (s.segOut slot seg)
      else
      let s := if chk = .once then s.raise 0x3031 (locPlot seg) 0 else s
      if ¬ h.imageOk g.image seg ∨ ¬ s.segAgrees h g.image then .next (s.raise 0x3030 (locPlot seg) 0)
      else if segmentRoot h.id seg g.image ≠ g.root then .next (s.segOut slot seg)
      else match s.placeSeg slot g.image with
        | none => .next ((s.raise 0x6013 (locPlot seg) 0).raise 0x3030 (locPlot seg) 0)
        | some s1 => .next (s1.modShard slot fun h =>
          { h with segs := mmod h.segs seg (fun g => { g with loaded := true, inService := true }) })

/-- PAGE_RELOAD (R71): a mismatched page comes back from flash; where the flash page mismatches too, the third case applies. -/
def execPageReload (slot seg page : Nat) (flashOk : Bool) (s : State) : Host.Outcome State Fault Refusal :=
  match (mget s.shards slot).bind fun h => mget h.segs seg with
  | none => .next s
  | some g =>
    if ¬ g.reload.contains page then .next s else
    let s1 := s.modShard slot fun h =>
      { h with segs := mmod h.segs seg (fun g => { g with reload := g.reload.filter (fun x => x != page) }) }
    .next (if flashOk then s1 else s1.segOut slot seg)

/-- SEGMENT_REFETCH (R61, R62, R71): under GRANT.SEGMENT_REFETCH, a partner's image of a segment that is out of service.  A segment that has
no place yet takes one, and the image waits for its write to flash, whose old extent goes. -/
def execSegmentRefetch (slot seg : Nat) (image : Bytes) (s : State) : Host.Outcome State Fault Refusal :=
  match mget s.shards slot with
  | none => .next s
  | some h => match mget h.segs seg with
    | none => .next s
    | some g =>
      if g.inService || !s.grant 4 then .next s
      else
        let s1 := s.useGrant 4
        if ¬ h.imageOk image seg ∨ ¬ s.segAgrees h image then .next (s1.raise 0x3030 (locPlot seg) 0)
        else if segmentRoot h.id seg image ≠ g.root then .next (s1.raise 0x3032 (locPlot seg) 0)
        else match (if g.loaded then some s1 else s1.placeSeg slot image) with
          | none => .next ((s1.raise 0x6013 (locPlot seg) 0).raise 0x3030 (locPlot seg) 0)
          | some s2 => .next ((s2.dropExtent slot seg).modShard slot fun h =>
              { h with segs := mmod h.segs seg (fun g => { g with image := image, inService := true, loaded := true, reload := [] }),
                       images := mput h.images seg image })

end Sys2Proof.Machine
end

