-- ==== Sys2Proof/Machine/Events.lean ====
section
/-! DEFINITION. The event ring: record bytes, the flush of a step, notices and pins, the consumer pointer (R386 to R390). -/

namespace Sys2Proof.Machine

/-! ### Records (R386) -/

/-- A record's 32 bytes. -/
def evBytes (r : EvRec) : Bytes :=
  leBytes 2 r.code ++
  leBytes 1 (16 * r.sev + (if r.poison then 8 else 0) + (if r.bootLog then 4 else 0) + (if r.usnValid then 2 else 0)) ++
  leBytes 1 r.slot ++ leBytes 2 r.ctrl ++ leBytes 6 r.stepNo ++ leBytes 4 r.loc ++ leBytes 8 r.usn ++ leBytes 8 r.detail

/-- The record that 32 bytes hold. -/
def evOf (b : Bytes) : EvRec :=
  { code := u16 b 0, sev := u8 b 2 / 16, poison := bit (u8 b 2) 3, bootLog := bit (u8 b 2) 2, usnValid := bit (u8 b 2) 1,
    slot := u8 b 3, ctrl := u16 b 4, stepNo := u48 b 6, loc := u32 b 12, usn := u64 b 16, detail := u64 b 24 }

/-! ### The flush (R390) -/

/-- EVT.RING_RECORDS as it stands at this reset. -/
def State.ringRecords (s : State) : Nat := s.actN 0xB010 1

/-- Records of the flush in order: scopes 0, 1 and 5 as raised, then the rest by place, code and raising order. -/
def flushOrder (l : List EvRec) : List EvRec :=
  let first := fun (r : EvRec) => [0, 1, 5].contains (locScope r.loc)
  l.filter first ++ sortBy (fun a b => decide (a.loc < b.loc) || (a.loc == b.loc && decide (a.code < b.code)))
    (l.filter fun r => !first r)

/-- Write one record, or count it as lost where the ring is full. -/
def State.putRecord (s : State) (r : EvRec) : State :=
  if s.ev.records - s.ev.consumed < s.ringRecords then
    { s with ev := { s.ev with ring := mput s.ev.ring (s.ev.records % max 1 s.ringRecords) r, records := s.ev.records + 1 } }
  else
    let k := r.code / 4096 - 1
    let old := s.live 0xB011 0x0D
    ({ s with ev := { s.ev with lost := s.ev.lost + 1, lostRun := s.ev.lostRun + 1 } }).setLive 0xB011 0x0D
      (overlay old (8 * k) (leBytes 8 (u64 old (8 * k) + 1)))

/-- A record is written at the first flush after space returns, with the number lost during the run. -/
def State.reportLost (s : State) : State :=
  if s.ev.lostRun ≠ 0 ∧ s.ev.records - s.ev.consumed < s.ringRecords then
    let r := s.mkEv 0xB001 locField none s.ev.lostRun
    (({ s with ev := { s.ev with lostRun := 0 } }).putRecord r).bump 0xB011 0xB 1
  else s

/-! ### Resource owners (R342, R343) -/

def ownNone : Nat := 0x00
def ownPlan : Nat := 0x01
def ownTrace : Nat := 0x02
def ownScrub : Nat := 0x03
def ownFabric : Nat := 0x04
def ownHost : Nat := 0x05
def ownLoopback : Nat := 0x06
def ownOff : Nat := 0x07
def ownTilling : Nat := 0x08
def ownNotice : Nat := 0x09
def ownEventOut : Nat := 0x0A
def ownStepOut : Nat := 0x0B
def ownTrigger : Nat := 0x0C

/-- The default owner of a resource type, and how many resources it has. -/
def defaultOwner (typ : Nat) : Nat :=
  if typ = 3 then ownFabric else if typ = 4 then ownHost else if typ = 6 ∨ typ = 7 then ownNone else ownPlan
def resCount (typ : Nat) : Nat := [0, 512, 256, 16, 4, 2048, 4, 4].getD typ 0

/-- The owner that a port's OWNER entry names. -/
def portOwner (base v : Nat) : Nat := if v = 0 then base else if v = 1 then ownLoopback else ownOff

/-- The owner of a resource, by the committed values. -/
def State.ownerOf (s : State) (typ idx : Nat) : Nat :=
  if typ = 3 then portOwner ownFabric (s.comN (0x8020 + idx) 5)
  else if typ = 4 then portOwner ownHost (s.comN (0x8040 + idx) 5)
  else if typ = 5 then
    (if bitAt (s.com 0x6020 2) idx then ownOff else if bitAt (s.com 0x6020 1) idx then ownTilling else ownPlan)
  else match s.dict.claims.find? fun c => c.typ == typ && c.idx == idx with
    | some c => c.owner
    | none => defaultOwner typ

/-! ### Notices and the close of a step (R390) -/

/-- The notice of a step: its records at or above EVT.NOTICE_SEVERITY, at most 127, in one SEND that is never retried. -/
def State.sendNotice (s : State) (recs : List EvRec) : State :=
  let hit := recs.filter fun r => decide (s.actN 0xB010 2 ≤ r.sev)
  if s.ownerOf 7 0 ≠ ownNotice ∨ hit.isEmpty then s else
  let qp := u32 (s.act 0xB010 3) 24
  let s1 := ({ s with ev := { s.ev with notices := s.ev.notices + 1 } }).emitQp qp
    (.send qp ((hit.take 127).flatMap evBytes))
  if 127 < hit.length then s1.raise 0xB002 locField 0 else s1

/-- The event-flush part of the close phase (R24, R390). -/
def State.flushEvents (s : State) : State :=
  let boot := if s.step.number = 0 then
      s.ev.boot.map fun r => { r with bootLog := true, stepNo := 0xFFFFFFFFFFFF }
    else []
  let recs := flushOrder s.ev.raised
  let s0 := { s with ev := { s.ev with raised := [], boot := if s.step.number = 0 then [] else s.ev.boot } }
  let s1 := (boot ++ recs).foldl State.putRecord s0.reportLost
  let s2 := { s1 with ev := { s1.ev with produced := s1.ev.records } }
  (s2.sendNotice (boot ++ recs)).setN 0xB010 5 s2.ev.lost

/-- Whether a MGT_GPIO pin owned by EVENT_OUT is driven high (R390). -/
def State.gpioHigh (s : State) (pin : Nat) : Bool :=
  s.ownerOf 6 pin == ownEventOut &&
  (List.range (s.ev.produced - s.ev.consumed)).any fun k =>
    match mget s.ev.ring ((s.ev.consumed + k) % max 1 s.ringRecords) with
    | some r => decide (s.actN 0xB010 4 ≤ r.sev)
    | none => false

/-! ### Region 0x7 (R389) -/

/-- A byte of the event ring's region. -/
def State.eventByte (s : State) (off : Nat) : Byte :=
  if off < 4096 then
    (leBytes 8 s.ev.produced ++ leBytes 8 s.ev.consumed ++ leBytes 8 s.ev.lost ++ leBytes 4 s.ringRecords).getD off 0
  else match mget s.ev.ring ((off - 4096) / 32) with
    | some r => (evBytes r).getD ((off - 4096) % 32) 0
    | none => 0

/-- Whether a write of CONSUMED is accepted. -/
def State.consumedOk (s : State) (off : Nat) (data : Bytes) : Bool :=
  off == 8 && data.length == 8 && decide (leNat data ≤ s.ev.produced) && decide (s.ev.produced - s.ringRecords ≤ leNat data)

end Sys2Proof.Machine
end

