-- ==== Sys2Proof/Machine/Transc.lean ====
section
/-! DEFINITION. Exponential, logarithm, sine, cosine and the normal distribution to 640 binary places, for the functions that
R191, R213 and R261 define by their mathematics.  A result is rounded once, to the format that the rule names. -/

namespace Sys2Proof.Machine

/-- Binary places of the fixed point, and the product and quotient of two fixed-point numbers. -/
def fxBits : Nat := 640
def fxOne : Int := 2 ^ fxBits
def fxMul (a b : Int) : Int := a * b / fxOne
def fxDiv (a b : Int) : Int := a * fxOne / b

/-- A rational as fixed point. -/
def fxOf (neg : Bool) (num den : Nat) : Int :=
  let v : Int := (num : Int) * fxOne / (den : Int)
  if neg then -v else v

/-- A fixed-point number as a value. -/
def fxVal (x : Int) : FV := .fin (x < 0) x.natAbs (2 ^ fxBits)

/-- Sum of a series: from the term `t` on, each next term by `f` of its index. -/
def fxSeries (f : Nat → Int → Int) : Nat → Nat → Int → Int → Int
  | 0, _, _, acc => acc
  | n + 1, k, t, acc => fxSeries f n (k + 1) (f k t) (acc + t)

/-- atanh of a number of magnitude at most 1/3, and atan of 1/n. -/
def fxAtanh (z : Int) : Int :=
  let z2 := fxMul z z
  ((List.range 210).foldl (fun (st : Int × Int) (k : Nat) => (st.1 + st.2 / (2 * (k : Int) + 1), fxMul st.2 z2)) (0, z)).1
def fxAtanInv (n : Int) : Int :=
  ((List.range 300).foldl (fun (st : Int × Int) (k : Nat) =>
    (if k % 2 = 0 then st.1 + st.2 / (2 * (k : Int) + 1) else st.1 - st.2 / (2 * (k : Int) + 1), st.2 / (n * n))) (0, fxOne / n)).1

/-- The natural logarithm of 2, and the circle constant. -/
def fxLn2 : Int := 2 * fxAtanh (fxOne / 3)
def fxPi : Int := 16 * fxAtanInv 5 - 4 * fxAtanInv 239

/-- exp of a fixed-point number, as a mantissa in fixed point and a power of two. -/
def fxExp (x : Int) : Int × Int :=
  let k := x / fxLn2
  let r := x - k * fxLn2
  (fxSeries (fun i t => fxMul t r / ((i : Int) + 1)) 160 0 fxOne 0, k)

/-- A mantissa and a power of two as a value. -/
def fxScaled (m k : Int) : FV :=
  if 0 ≤ k then .fin (m < 0) (m.natAbs * 2 ^ k.toNat) (2 ^ fxBits) else .fin (m < 0) m.natAbs (2 ^ (fxBits + (-k).toNat))

/-- exp of a value; beyond ±1,024 it is beyond every format of the node. -/
def fvExp : FV → FV
  | .nan => .nan
  | .inf s => if s then .fin false 0 1 else .inf false
  | .fin s n d =>
    if 1024 * d < n then (if s then .fin false 1 (2 ^ 1400) else .inf false)
    else
      let e := fxExp (fxOf s n d)
      fxScaled e.1 e.2

/-- A value a little nearer to zero than x, as a function that tends to x from below takes at a large x. -/
def fvBelow (n d : Nat) : FV := .fin false (n * (2 ^ 1000 - 1)) (d * 2 ^ 1000)

/-- SiLU(x) = x / (1 + e^(-x)). -/
def fvSilu : FV → FV
  | .nan => .nan
  | .inf s => if s then .fin true 0 1 else .inf false
  | .fin s n d =>
    if n = 0 then .fin s 0 1
    else if 400 * d < n then (if s then .fin true 1 (2 ^ 400) else fvBelow n d)
    else fvDiv (.fin s n d) (fvAdd (.fin false 1 1) (fvExp (.fin (!s) n d)))

/-- The normal distribution function at a fixed-point number of magnitude at most 16. -/
def fxPhi (x : Int) : Int :=
  let x2 := fxMul x x
  let sum := fxSeries (fun i t => fxMul t x2 / (2 * (i : Int) + 3)) 900 0 x 0
  let e := fxExp (-(x2 / 2))
  let dens := fxDiv (match fxScaled e.1 e.2 with | .fin _ n d => fxOf false n d | _ => 0)
    (((isqrt ((2 * fxPi * fxOne).toNat) : Nat) : Int))
  fxOne / 2 + fxMul dens sum

/-- GELU(x) = x Φ(x). -/
def fvGelu : FV → FV
  | .nan => .nan
  | .inf s => if s then .fin true 0 1 else .inf false
  | .fin s n d =>
    if n = 0 then .fin s 0 1
    else if 16 * d < n then (if s then .fin true 1 (2 ^ 400) else fvBelow n d)
    else fvMul (.fin s n d) (fxVal (fxPhi (fxOf s n d)))

/-- The natural logarithm of a positive value. -/
def fxLn (num den : Nat) : Int :=
  let e : Int := (flog2 num den : Int) - 1048576
  let m := if 0 ≤ e then fxOf false num (den * 2 ^ e.toNat) else fxOf false (num * 2 ^ (-e).toNat) den
  2 * fxAtanh (fxDiv (m - fxOne) (m + fxOne)) + e * fxLn2

/-- base^(p / q) for a positive base. -/
def fvPow (num den : Nat) (p q : Int) : FV :=
  let e := fxExp (fxLn num den * p / q)
  fxScaled e.1 e.2

/-- Sine and cosine of a fixed-point angle. -/
def fxSin (x : Int) : Int :=
  let r := x % (2 * fxPi)
  let r2 := fxMul r r
  fxSeries (fun i t => -(fxMul t r2 / ((2 * (i : Int) + 2) * (2 * (i : Int) + 3)))) 120 0 r 0
def fxCos (x : Int) : Int :=
  let r := x % (2 * fxPi)
  let r2 := fxMul r r
  fxSeries (fun i t => -(fxMul t r2 / ((2 * (i : Int) + 1) * (2 * (i : Int) + 2)))) 120 0 fxOne 0

end Sys2Proof.Machine
end

