-- ==== Sys2Proof/Machine/Tilling.lean ====
section
/-! DEFINITION. Tilling (R242 to R266): groups, rows, the command window and FIFO, refresh, and every opcode. -/

namespace Sys2Proof.Machine

/-! ### Groups and rows (R242, R243) -/

def emptyGroup : TGroup := ⟨0, [], 0, 0, 0, 0, false, [], [], [], [], [], [], none, []⟩

def State.groupOk (s : State) (g : GroupId) : Bool := decide (g.stack < 16) && decide (g.gamma < s.tillGroups)
def State.tg (s : State) (g : GroupId) : TGroup := mgetD s.tills (groupKey g) emptyGroup
def State.modTg (s : State) (g : GroupId) (f : TGroup → TGroup) : State :=
  { s with tills := mupd s.tills (groupKey g) emptyGroup f }

/-- Whether a group is a host group, and whether it is disabled, by the values in force (R248, R267). -/
def State.hostGroup (s : State) (g : GroupId) : Bool := bitAt (s.act 0x6020 1) (groupKey g)
def State.offGroup (s : State) (g : GroupId) : Bool := bitAt (s.act 0x6020 2) (groupKey g)

/-- BANK_GROUP of a group, and the address of its window's COMMAND (R21, R242). -/
def State.groupBg (s : State) (g : GroupId) : Nat := g.gamma / 64 + 4 - s.actN 0x6010 1
def State.winAddr (s : State) (g : GroupId) (off : Nat) : Nat :=
  2 * 2 ^ 60 + g.stack * 2 ^ 37 + (g.gamma % 64 / 2) * 2 ^ 32 + (g.gamma % 2) * 2 ^ 31 + s.groupBg g * 2 ^ 29 + off

/-- The model's address of a row: beyond the Field addresses, which do not say where a row lies. -/
def rowAddr (g : GroupId) (bank row : Nat) : Nat := 2 ^ 64 + ((groupKey g * 80 + bank) * 4096 + row % 4096) * 1024

/-- The bitmaps whose row pairs take a slot of a bank (R254), with the bitmap's directory position and the chunk. -/
def State.bitmapAt (s : State) (g : GroupId) (bank r : Nat) : Option (BmPlace × Nat × Nat) :=
  if rowClass r ≠ 4 then none else
  let slot := rowSlot r
  let chunk := bank * s.tillGroups + g.gamma
  (s.tier.bmaps.find? fun b => b.plot == g.stack && decide (b.base ≤ slot) && decide (slot < b.base + b.count) &&
    (((mget s.shards b.slot).bind fun h => mget h.segs b.seg).any fun x => decide (8192 * chunk < segVc x.image))).map fun b => (b, slot - b.base, chunk)

/-- The contents of a bitmap's DATA row: a row of the image's section 0x000A (R58, R254). -/
def State.bitmapRow (s : State) (g : GroupId) (bank r : Nat) : Option Bytes :=
  (s.bitmapAt g bank r).map fun x =>
    let img := (((mget s.shards x.1.slot).bind fun h => mget h.segs x.1.seg).map (·.image)).getD []
    let pair := (((segBitmapDir img)[x.2.1]?).map fun e => e.2.2.2).getD 0
    padTo 1024 (sl (segSec img 10) (2048 * (pair + x.2.2) + 1024 * (r % 2)) 1024)

/-- The block of a TILLER tensor that holds a row (R258). -/
def State.placeAt (s : State) (g : GroupId) (bank r : Nat) : Option TillPlace :=
  if rowClass r ≠ 4 then none else s.tier.places.find? fun p => p.g == g && inBlock p.rec_ bank r

/-- What the load of a model stores in the rows of a block (R257, R258): the channels' records, channel c in bank c mod BANK_COUNT of the
range; and the column sums, formed from the weights. -/
def blockRow (t : Tensor) (img : Bytes) (p : TillPlace) (bank r : Nat) : Bytes :=
  let rows := blockRows p.rec_
  let n := max 1 (weightRows (rFmt p.rec_) t.k)
  let i := rows.idxOf r
  let c := i / n * rBanks p.rec_ + (bank - rBank0 p.rec_)
  if (bankList p.rec_).contains bank ∧ rows.contains r then
    if c < rCh p.rec_ then padTo 1024 (sl (t.record img (p.first + c)) (1024 * (i % n)) 1024) else zeros 1024
  else
    let ws := (List.range (rCh p.rec_)).map fun c => weightsOf (rFmt p.rec_) t.k (t.record img (p.first + c))
    padTo 1024 (sl ((columnSums t.k ws).flatMap fun v => leBytes 8 (ofSInt 64 v)) (1024 * (sumRows p.rec_).idxOf r) 1024)
def State.placeRow (s : State) (g : GroupId) (bank r : Nat) : Option Bytes :=
  (s.placeAt g bank r).bind fun p => (mget s.models p.model).bind fun m =>
    ((imageTensors m.image).find? fun t => t.id == p.id).map fun t => blockRow t m.image p bank r

/-- A row of a bank. -/
def State.row (s : State) (g : GroupId) (bank r : Nat) : Bytes :=
  if rowClass r = 0 then zeros 1024
  else if rowClass r = 1 then List.replicate 1024 0xFF
  else ((s.bitmapRow g bank r) <|> (s.placeRow g bank r)).getD (Memory.readN s.mem (rowAddr g bank r) 1024)

/-- Write a row of a bank; the ZERO and ONE rows are never written. -/
def State.putRow (s : State) (g : GroupId) (bank r : Nat) (b : Bytes) : State :=
  if rowClass r ≤ 1 then s else { s with mem := Memory.writeN s.mem (rowAddr g bank r) (padTo 1024 b) }

/-- The state mark of a row (R265). -/
def markKey (bank r : Nat) : Nat := bank * 4096 + r % 4096
def State.mark (s : State) (g : GroupId) (bank r : Nat) : Nat := mgetD (s.tg g).marks (markKey bank r) 0
def State.setMark (s : State) (g : GroupId) (bank r m : Nat) : State :=
  if ¬ isWork r then s else
  s.modTg g fun t => { t with marks := if m = 0 then mdel t.marks (markKey bank r) else mput t.marks (markKey bank r) m }

/-! ### Dependents (R266) -/

/-- Whether a generator image has a TILLER layer (R208). -/
def hasTiller (img : Bytes) : Bool :=
  u8 img 6 == 4 && (sl img (genSecAt img + 64) (genLayers img)).any fun b => b == 1

/-- The requests that depend on the arithmetic of a plan's group: those in prefill or decode on a model with TILLER layers, in
the partition of the group's plot. -/
def State.tillDeps (s : State) (g : GroupId) : List Nat :=
  if s.hostGroup g then [] else
  (s.ledger.fars.filter fun e => e.2.owner == 2 && (e.2.phase == 0x21 || e.2.phase == 0x22) &&
    (match s.workOf e.2.tag with
     | some w => (match w.gen with
       | some x => hasTiller x.image
       | none => false)
     | none => false) && s.partOfPlot g.stack == some (s.ringPart e.2.srcRing)).map fun e => e.2.tag

/-- Of these, the requests that use the layers of given model slots. -/
def State.layerDeps (s : State) (g : GroupId) (slots : List Nat) : List Nat :=
  let images := slots.filterMap fun m => (mget s.models m).map (·.image)
  (s.tillDeps g).filter fun tag => (((s.workOf tag).bind (·.gen)).map fun x => images.contains x.image).getD false

/-- The requests that wait for the bitmaps of a group: those whose filter terms a segment with row pairs there still covers. -/
def State.filterDeps (s : State) (g : GroupId) : List Nat :=
  let here := fun (slot seg : Nat) => s.tier.bmaps.any fun b => b.plot == g.stack && b.slot == slot && b.seg == seg &&
    (((mget s.shards slot).bind fun h => mget h.segs seg).any fun x => decide (8192 * g.gamma < segVc x.image))
  let waits := fun (w : Work) => (List.range w.locals.length).any fun pos => (w.localAt pos).any fun x =>
    x.todo.any fun seg => here x.slot seg && ((mget s.shards x.slot).bind fun h => mget h.segs seg).any fun i => w.terms.any (termCovered i.image)
  if s.hostGroup g then [] else
  (s.ledger.fars.filter fun e => e.2.owner == 2 && e.2.phase == 4 && ((s.workOf e.2.tag).map waits).getD false).map fun e => e.2.tag

/-- Whether a record is arithmetic, and whether it is of a filter's bitwise work. -/
def isArith (rec_ : Bytes) : Bool := decide (0x20 ≤ u8 rec_ 0)
def isBitwise (rec_ : Bytes) : Bool := decide (0x01 ≤ u8 rec_ 0) && decide (u8 rec_ 0 ≤ 0x13)

/-- Discard what a group's FIFO holds, with LAST_RESULT and the event; the requests that depend on it are lost. -/
def State.dropFifo (s : State) (g : GroupId) (res event : Nat) : State :=
  let t := s.tg g
  let s1 := s.modTg g fun t => { t with fifo := [], lastRes := res, lastSeq := (t.fifo.getLast?.map fun r => u16 r 2).getD t.lastSeq }
  let s2 := s1.raise event (locPlot g.stack) 0
  let s3 := if t.fifo.any isArith then s2.loseAll (s2.tillDeps g) else s2
  if t.fifo.any isBitwise then s3.loseAll (s3.filterDeps g) else s3

/-! ### The registers of a pseudo-channel (R246) -/

/-- TM_CTRL and ONDIE_UE of a group's pseudo-channel. -/
def tmKey (g : GroupId) : Nat := g.stack * 64 + g.gamma % 64
def emptyTm : TmReg := ⟨0, false⟩
def State.tmReg (s : State) (g : GroupId) : TmReg := mgetD s.tier.tm (tmKey g) emptyTm
def State.modTm (s : State) (g : GroupId) (f : TmReg → TmReg) : State :=
  { s with tier := { s.tier with tm := mupd s.tier.tm (tmKey g) emptyTm f } }

/-- TM_STATUS of a group's pseudo-channel: TILLING of its bank groups; BUSY, where a group in tilling mode has a command at its head; and
ONDIE_UE.  A read of it clears ONDIE_UE. -/
def State.tmStatus (s : State) (g : GroupId) : Nat :=
  let at_ := fun (b : Nat) => (⟨g.stack, (b + s.actN 0x6010 1 - 4) * 64 + g.gamma % 64⟩ : GroupId)
  let here := (List.range 4).filter fun b => decide (4 ≤ b + s.actN 0x6010 1)
  let tills := here.filter fun b => (s.tg (at_ b)).st == 1 || (s.tg (at_ b)).st == 2
  sumNat (tills.map fun b => 16 * 2 ^ b) + (if tills.any fun b => (s.tg (at_ b)).st == 1 && !(s.tg (at_ b)).fifo.isEmpty then 8 else 0) +
    (if (s.tmReg g).ue then 4 else 0)
def State.readTm (s : State) (g : GroupId) : Nat × State := (s.tmStatus g, s.modTm g fun t => { t with ue := false })

/-- The write of TM_CTRL that takes a group in (OP 1) or out (OP 2) of tilling mode, with the read of TM_STATUS that acknowledges it. -/
def State.switchTm (s : State) (g : GroupId) (op : Nat) (f : TGroup → TGroup) : State :=
  (((s.modTm g fun t => { t with ctrl := op * 64 + s.groupBg g * 16 }).modTg g fun t => { f t with ctrlAt := some s.step.number }).readTm g).2

/-! ### The command window (R249 to R253) -/

/-- STATUS (R250). -/
def tillStatus (t : TGroup) : Bytes :=
  leBytes 1 t.st ++ leBytes 1 (64 - min 64 t.fifo.length) ++ leBytes 2 t.lastSeq ++ leBytes 1 t.lastRes ++ leBytes 1 t.deficit ++
  zeros 2 ++ leBytes 8 t.done ++ zeros 48

/-- A byte of the window as a read gives it. -/
def winByte (t : TGroup) (off : Nat) : Byte :=
  if off < 64 then (tillStatus t).getD off 0
  else if 0x800 ≤ off ∧ off < 0x1000 then t.rowOut.getD (off - 0x800) 0
  else if 0x1000 ≤ off ∧ off < 0x3000 then t.yOut.getD (off - 0x1000) 0
  else if 0x3000 ≤ off ∧ off < 0x3080 then t.sumY.getD (off - 0x3000) 0
  else 0

/-- Push one record onto a FIFO; a full one discards it (R253). -/
def State.pushTill (s : State) (g : GroupId) (rec_ : Bytes) : State :=
  if 64 ≤ (s.tg g).fifo.length then
    (s.modTg g fun t => { t with lastRes := 4, lastSeq := u16 rec_ 2 }).raise 0x6024 (locPlot g.stack) 0
  else s.modTg g fun t => { t with fifo := t.fifo ++ [rec_] }

/-- Whether data written at an offset meets an area of the window, and the area's buffer after it: bytes outside are not written (R249). -/
def inArea (base size off : Nat) (data : Bytes) : Bool := decide (off < base + size) && decide (base < off + data.length)
def overlayIn (base size : Nat) (buf : Bytes) (off : Nat) (data : Bytes) : Bytes :=
  let d := data.drop (base - off)
  overlay (padTo size buf) (off - base) (d.take (base + size - max off base))

/-- Write bytes to a group's window. -/
def State.winWrite (s : State) (g : GroupId) (off : Nat) (data : Bytes) : State :=
  if off = 0x40 ∧ data.length = 64 then s.pushTill g data
  else
    let s1 := if inArea 0x400 1024 off data then s.modTg g fun t => { t with rowIn := overlayIn 0x400 1024 t.rowIn off data } else s
    if inArea 0x8000 32768 off data then s1.modTg g fun t => { t with xIn := overlayIn 0x8000 32768 t.xIn off data } else s1

/-- TILL_COMMAND_WRITE (R253): a window is reached in tilling mode only (R22). -/
def execTillCommandWrite (g : GroupId) (rec_ : Bytes) (s : State) : Host.Outcome State Fault Refusal :=
  let t := s.tg g
  if ¬ s.groupOk g ∨ (t.st ≠ 1 ∧ t.st ≠ 2) then .next (s.raise 0x6002 (locPlot g.stack) (s.winAddr g 0x40))
  else if rec_.length = 64 then .next (s.pushTill g rec_) else .next s

/-! ### Well-formed records (R251, R252, R255, R256, R259, R261) -/

/-- Whether a record keeps the rules of its opcode. -/
def recOk (r : Bytes) : Bool :=
  let op := u8 r 0
  let range := decide (rBank0 r ≤ 79) && decide (1 ≤ rBanks r) && decide (rBank0 r + rBanks r ≤ 80)
  let row := fun x => decide (x < 4096)
  let pair := fun x => decide (x < 4096) && x % 2 == 0
  let dst := row (rDst r) && isWork (rDst r)
  let seg := !bit (u8 r 1) 0 || (decide (1 ≤ u16 r 6) && decide (u16 r 6 ≤ 1950))
  let ew := dst && row (rA r) && rBank0 r % 2 == 0 && rBanks r % 2 == 0
  seg && (if op = 0x00 then true
  else if op = 0x01 then range && dst && row (rA r)
  else if op = 0x02 ∨ op = 0x03 then range && dst
  else if op = 0x04 then range && rBanks r == 1 && decide (rFunc r ≤ 2) && row (rA r) &&
    (rFunc r == 1 || pair (rA r)) && (rFunc r != 2 || rowClass (rA r) == 4)
  else if op = 0x10 ∨ op = 0x11 ∨ op = 0x13 then range && dst && pair (rDst r) && pair (rA r) && pair (rB r)
  else if op = 0x12 then range && dst && pair (rDst r) && pair (rA r)
  else if op = 0x20 then range && ew && row (rB r) && decide (rElem r ≤ 2)
  else if op = 0x21 then range && ew && row (rB r) && decide (rElem r ≤ 2) && decide (rFunc r ≤ 31)
  else if op = 0x22 then range && ew && rElem r == 0 && decide (rFunc r ≤ 2)
  else if op = 0x30 then
    range && decide (1 ≤ rK r) && decide (rK r ≤ 32768) && decide (1 ≤ rCh r) && decide (rCh r ≤ 2048) &&
    decide (1 ≤ rVec r) && decide (rVec r ≤ 16) && decide (rVec r * rK r ≤ 32768) && decide (rVec r * rCh r ≤ 2048) &&
    decide (rFmt r ≤ 1) && rowClass (u16 r 24) == 4 && rowClass (u16 r 26) == 4 &&
    decide (ceilDiv (rCh r) (rBanks r) * weightRows (rFmt r) (rK r) ≤ (dataRows (u16 r 24)).length) &&
    decide (ceilDiv (8 * rK r) 1024 ≤ (dataRows (u16 r 26)).length)
  else false)

/-! ### Running a command (R253, R263) -/

/-- tREFI at the stack's temperature. -/
def TGroup.trefi (t : TGroup) : Nat := if t.hot then 1950 else 3900

/-- A suspended group has issued its rounds and resumes. -/
def State.resumeTill (s : State) (g : GroupId) : State :=
  if (s.tg g).st = 2 then s.modTg g fun t => { t with st := 1, deficit := 0 } else s

/-- The end of a command: the counts, LAST_SEQ and LAST_RESULT, and the segment point that may follow it. -/
def State.endTill (s : State) (g : GroupId) (rec_ : Bytes) (res : Nat) : State :=
  let s1 := (s.modTg g fun t => { t with fifo := t.fifo.drop 1, lastSeq := u16 rec_ 2, lastRes := res, done := t.done + 1 }).bump 0x6021 1 1
  let t := s1.tg g
  if bit (u8 rec_ 1) 0 ∧ 8 < t.deficit + ceilDiv (u16 rec_ 6) t.trefi + 1 then
    (s1.modTg g fun t => { t with st := 2 }).bump 0x6021 2 1
  else s1

/-- Run the FIFO's head where it has the opcode `op`; a malformed head is refused with the rest of the FIFO (R266). -/
def State.runTill (s : State) (g : GroupId) (op : Nat) (eff : State → Bytes → State × Nat) : State :=
  if ¬ s.groupOk g then s else
  let s1 := s.resumeTill g
  let t := s1.tg g
  match t.fifo with
  | [] => s
  | r :: _ =>
    if t.st ≠ 1 then s
    else if ¬ recOk r then s1.dropFifo g 2 0x6024
    else if u8 r 0 ≠ op then s
    else
      let x := eff s1 r
      x.1.endTill g r x.2

/-- TILLING_REFRESH_DUE (R263, R266): a round falls due.  A group with an empty FIFO issues what it owes. -/
def execTillingRefreshDue (g : GroupId) (hot : Bool) (s : State) : Host.Outcome State Fault Refusal :=
  let s1 := s.resumeTill g
  let t := s1.tg g
  if ¬ s.groupOk g ∨ t.st ≠ 1 then .next s
  else if t.fifo.isEmpty then .next (s1.modTg g fun t => { t with hot := hot, deficit := 0 })
  else if 8 ≤ t.deficit then .next ((s1.modTg g fun t => { t with hot := hot }).raise 0x6027 (locPlot g.stack) 0)
  else .next (s1.modTg g fun t => { t with hot := hot, deficit := t.deficit + 1 })

/-! ### Rows (R252, R256) -/

/-- Write one row in each bank of a range, from each bank's own contents, and mark it. -/
def State.eachBank (s : State) (g : GroupId) (r : Bytes) (mark : Nat) (f : Nat → Bytes) : State :=
  (bankList r).foldl (fun s b => (s.putRow g b (rDst r) (f b)).setMark g b (rDst r) mark) s

/-- NOP. -/
def execNop (g : GroupId) (s : State) : Host.Outcome State Fault Refusal := .next (s.runTill g 0x00 fun s _ => (s, 0))

/-- ROW_COPY. -/
def execRowCopy (g : GroupId) (s : State) : Host.Outcome State Fault Refusal :=
  .next (s.runTill g 0x01 fun s r => (s.eachBank g r 1 fun b => s.row g b (rA r), 0))

/-- ROW_CLEAR. -/
def execRowClear (g : GroupId) (s : State) : Host.Outcome State Fault Refusal :=
  .next (s.runTill g 0x02 fun s r => (s.eachBank g r 0 fun _ => zeros 1024, 0))

/-- WRITE_ROW. -/
def execWriteRow (g : GroupId) (s : State) : Host.Outcome State Fault Refusal :=
  .next (s.runTill g 0x03 fun s r => (s.eachBank g r 0 fun _ => padTo 1024 (s.tg g).rowIn, 0))

/-- A row's mark after a read of it: CHECKED or FAILED where it was not CLEAN. -/
def State.markRead (s : State) (g : GroupId) (b r : Nat) (ok : Bool) : State :=
  if ¬ ok then s.setMark g b r 3 else if s.mark g b r = 0 then s else s.setMark g b r 2

/-- A model slot takes no further requests until it is reloaded (R266). -/
def State.blockTillers (s : State) (slots : List Nat) : State :=
  let block := fun (m : ModelSlot) => { m with blocked := true }
  { s with models := s.models.map fun m => if slots.contains m.1 then (m.1, block m.2) else m }

/-- The bitmap whose row pair lies at a row was found bad: its rows wait to be rewritten. -/
def State.badBitmap (s : State) (x : BmPlace) : State :=
  { s with tier := { s.tier with bmaps := s.tier.bmaps.map fun b => if b == x then { b with bad := true } else b } }

/-- The on-die ECC reports an uncorrected error (R246, R266): in ONDIE_UE; in a row of a bitmap, which is rewritten; in a row of weights or
column sums, whose layer's requests are lost and whose slot takes no more. -/
def State.ondieUe (s : State) (g : GroupId) : State :=
  ((s.bump 0x6021 6 1).modTm g fun t => { t with ue := true }).raise 0x6025 (locPlot g.stack) 0
def State.layersUe (s : State) (g : GroupId) (slots : List Nat) : State := ((s.ondieUe g).blockTillers slots).loseAll (s.layerDeps g slots)
def State.ondieRow (s : State) (g : GroupId) (bank r : Nat) : State :=
  match s.bitmapAt g bank r with
  | some x => ((s.ondieUe g).raise 0x3031 (locPlot g.stack) 0).badBitmap x.1
  | none => match s.placeAt g bank r with
    | some p => s.layersUe g [p.model]
    | none => s.ondieUe g

/-- READ_ROW (R256, R266).  FUNC 2 reads under the code of R239. -/
def execReadRow (x : RowRead) (s : State) : Host.Outcome State Fault Refusal :=
  let g := x.g
  .next (s.runTill g 0x04 fun s r =>
    let b := rBank0 r
    let host := s.hostGroup g
    let first := s.row g b (rA r)
    let second := if rFunc r = 1 then s.row g (b ^^^ 1) (rA r) else s.row g b (rA r + 1)
    let s1 := s.modTg g fun t => { t with rowOut := first ++ second }
    if (Chk.ue x.chk).isSome ∧ rFunc r ≠ 2 then (s1.ondieRow g b (rA r), 3)
    else if rFunc r = 0 then
      let ok := ((first.zip second).all fun p => p.1 ^^^ p.2 == (0xFF : Byte)) && !Chk.bad x.chk
      let s2 := (s1.markRead g b (rA r) ok).markRead g b (rA r + 1) ok
      if ok then (s2, 0)
      else
        let s3 := (s2.bump 0x6021 3 1).raise 0x6021 (locPlot g.stack) 0
        (if host then s3 else s3.raise 0x3014 (locPlot g.stack) 0, 1)
    else if rFunc r = 1 then
      let c := if first == second then x.chk else .twice
      let n := Chk.fails c (s.spillUsed g.stack)
      let y := (if n = 0 then s1 else s1.bump 0x6021 5 n).check c g.stack 0x6022 (locPlot g.stack) (s1.tillDeps g)
      ((y.1.markRead g b (rA r) y.2).markRead g (b ^^^ 1) (rA r) y.2, if y.2 then 0 else 1)
    else (s1, if Chk.bad x.chk then 1 else 0))

/-! ### Bitwise rows (R255) -/

/-- The majority of three rows, bit by bit. -/
def maj3 (a b c : Bytes) : Bytes := (a.zip (b.zip c)).map fun x => (x.1 &&& x.2.1) ||| (x.1 &&& x.2.2) ||| (x.2.1 &&& x.2.2)

def rowZero : Bytes := zeros 1024
def rowOne : Bytes := List.replicate 1024 0xFF
def majAnd (a b : Bytes) : Bytes := maj3 a b rowZero
def majOr (a b : Bytes) : Bytes := maj3 a b rowOne

/-- The two rails of each operation, from the operands' rails. -/
def railsOf (op : Nat) (aT aC bT bC : Bytes) : Bytes × Bytes :=
  if op = 0x10 then (majAnd aT bT, majOr aC bC)
  else if op = 0x11 then (majOr aT bT, majAnd aC bC)
  else if op = 0x12 then (aC, aT)
  else (majOr (majAnd aT bC) (majAnd aC bT), majOr (majAnd aT bT) (majAnd aC bC))

/-- The COMPUTE rows of the destination's subarray into which the controller copies rails and constants: what they hold
afterwards is open, but for the operands and the result. -/
def stagingRows (r : Bytes) : List Nat :=
  let base := rDst r / 512 * 512
  ((List.range 6).map fun k => base + 2 + k).filter fun x =>
    !([rA r, rA r + 1, rB r, rB r + 1, rDst r, rDst r + 1].contains x)

/-- Leave the staging rows of a bank with free contents. -/
def State.stage (s : State) (g : GroupId) (b : Nat) (r : Bytes) : State :=
  (stagingRows r).foldl (fun s x =>
    ({ s with freeCtr := s.freeCtr + 1 }.putRow g b x (Config.freeBytes s.freeCtr 1024)).setMark g b x 1) s

/-- A bitwise command in every bank of its range. -/
def State.bitwise (s : State) (g : GroupId) (op : Nat) : State :=
  s.runTill g op fun s r =>
    ((bankList r).foldl (fun s b =>
      let x := railsOf op (s.row g b (rA r)) (s.row g b (rA r + 1)) (s.row g b (rB r)) (s.row g b (rB r + 1))
      let s1 := if op = 0x12 then s else s.stage g b r
      (((s1.putRow g b (rDst r) x.1).setMark g b (rDst r) 1).putRow g b (rDst r + 1) x.2).setMark g b (rDst r + 1) 1) s, 0)

/-- AND, OR, NOT, XOR. -/
def execTillAnd (g : GroupId) (s : State) : Host.Outcome State Fault Refusal := .next (s.bitwise g 0x10)
def execTillOr (g : GroupId) (s : State) : Host.Outcome State Fault Refusal := .next (s.bitwise g 0x11)
def execTillNot (g : GroupId) (s : State) : Host.Outcome State Fault Refusal := .next (s.bitwise g 0x12)
def execTillXor (g : GroupId) (s : State) : Host.Outcome State Fault Refusal := .next (s.bitwise g 0x13)

/-! ### Element-wise rows (R261) -/

/-- Bytes per element, a row's elements, and the row of a list of elements. -/
def elemBytes (e : Nat) : Nat := if e = 0 then 1 else if e = 1 then 2 else 4
def elemsOf (e : Nat) (b : Bytes) : List Int := (splitAll (elemBytes e) b).map fun x => sInt (8 * elemBytes e) (leNat x)
def rowOfElems (e : Nat) (l : List Int) : Bytes := l.flatMap fun x => leBytes (elemBytes e) (ofSInt (8 * elemBytes e) x)

/-- Clamp to a signed width; and the rounding right shift of R182, with ties towards +∞. -/
def clampS (w : Nat) (x : Int) : Int := max (-(2 ^ (w - 1) : Int)) (min x (2 ^ (w - 1) - 1))
def shiftR (x : Int) (n : Nat) : Int := if n = 0 then x else (x + 2 ^ (n - 1)) / 2 ^ n

/-- The exact functions of R191, without a rounding: 0 = ReLU, 1 = SiLU, 2 = GELU. -/
def actExact (f : Nat) (x : FV) : FV :=
  if f = 0 then (match x with
    | .fin true _ _ => .fin false 0 1
    | .inf true => .fin false 0 1
    | y => y)
  else if f = 1 then fvSilu x else fvGelu x

/-- The table of EW_ACT at an element. -/
def ewActOf (f : Nat) (inE outE : Int) (v : Int) : Int :=
  let x := fvMul (.fin (v < 0) v.natAbs 1) (fvPow2 inE)
  clampS 8 ((fvRound (fvMul (actExact f x) (fvPow2 (-outE)))).getD 0)

/-- EW_ADD. -/
def execEwAdd (g : GroupId) (s : State) : Host.Outcome State Fault Refusal :=
  .next (s.runTill g 0x20 fun s r => (s.eachBank g r 1 fun b =>
    let e := rElem r
    rowOfElems e (((elemsOf e (s.row g b (rA r))).zip (elemsOf e (s.row g b (rB r)))).map fun p => clampS (8 * elemBytes e) (p.1 + p.2)), 0))

/-- EW_MUL. -/
def execEwMul (g : GroupId) (s : State) : Host.Outcome State Fault Refusal :=
  .next (s.runTill g 0x21 fun s r => (s.eachBank g r 1 fun b =>
    let e := rElem r
    rowOfElems e (((elemsOf e (s.row g b (rA r))).zip (elemsOf e (s.row g b (rB r)))).map fun p =>
      clampS (8 * elemBytes e) (shiftR (p.1 * p.2) (rFunc r))), 0))

/-- EW_ACT: one table for the command. -/
def execEwAct (g : GroupId) (s : State) : Host.Outcome State Fault Refusal :=
  .next (s.runTill g 0x22 fun s r => (s.eachBank g r 1 fun b =>
    rowOfElems 0 ((elemsOf 0 (s.row g b (rA r))).map (ewActOf (rFunc r) (sInt 8 (u8 r 28)) (sInt 8 (u8 r 29)))), 0))

/-! ### Matrix-vector products (R257 to R259) -/

/-- Bytes over consecutive DATA rows of a bank. -/
def State.rowsBytes (s : State) (g : GroupId) (bank : Nat) (rows : List Nat) : Bytes := rows.flatMap (s.row g bank)

/-- The weights of a block's channels, in channel order (R258). -/
def State.blockWeights (s : State) (g : GroupId) (r : Bytes) : List (List Int) :=
  let rows := dataRows (u16 r 24)
  let n := weightRows (rFmt r) (rK r)
  (List.range (rCh r)).map fun c =>
    weightsOf (rFmt r) (rK r) (s.rowsBytes g (rBank0 r + c % rBanks r) ((rows.drop (c / rBanks r * n)).take n))

/-- Form the column sums of a block from its weights, and store them from CSUM_ROW in bank BANK_FIRST (R258). -/
def State.sumBlock (s : State) (g : GroupId) (r : Bytes) : State :=
  let cs := (columnSums (rK r) (s.blockWeights g r)).flatMap fun v => leBytes 8 (ofSInt 64 v)
  ((sumRows r).zipIdx).foldl (fun s x => s.putRow g (rBank0 r) x.1 (sl cs (1024 * x.2) 1024)) s

/-- One product of a block over input vectors (R259): each vector's outputs by channel. -/
def State.products (s : State) (g : GroupId) (r : Bytes) (xs : List (List Int)) : List (List Int) :=
  let ws := s.blockWeights g r
  xs.map fun x => ws.map fun w => dotInt w x

/-- What a MATVEC leaves in the accumulators, Y_OUT and SUM_Y (R246, R249, R253). -/
def State.putProducts (s : State) (g : GroupId) (ys : List (List Int)) (sums : List Int) : State :=
  s.modTg g fun t =>
    { t with acc := ys.flatten, yOut := overlay (padTo 8192 t.yOut) 0 (ys.flatMap fun y => y.flatMap fun v => leBytes 4 (ofSInt 32 v)),
             sumY := overlay (padTo 128 t.sumY) 0 (sums.flatMap fun v => leBytes 8 (ofSInt 64 v)) }
def sumsOf (ys : List (List Int)) : List Int := ys.map fun y => y.foldl (· + ·) 0

/-- What they hold where a check failed that the data do not explain: free values. -/
def State.spoilt (s : State) (ys : List (List Int)) : List (List Int) × State :=
  let one := fun (c : Nat) => sInt 32 (Config.freeNat (s.freeCtr + c) % 2 ^ 32)
  (ys.zipIdx.map fun y => y.1.zipIdx.map fun v => one (y.2 * 2048 + v.2), { s with freeCtr := s.freeCtr + 32768 })

/-- The model slots whose blocks a MATVEC record reads. -/
def State.layersOf (s : State) (g : GroupId) (r : Bytes) : List Nat :=
  (s.tier.places.filter fun p => p.g == g && blocksMeet p.rec_ r).map (·.model)

/-- MATVEC (R259, R266): the products, SUM_Y, and the comparison with the stored column sums.  Y_OUT and SUM_Y hold what it gave, whether its
check passed or not (R253). -/
def execMatvec (g : GroupId) (chk : Chk) (s : State) : Host.Outcome State Fault Refusal :=
  .next (s.runTill g 0x30 fun s r =>
    let k := rK r
    let x := padTo 32768 (s.tg g).xIn
    let xs := (List.range (rVec r)).map fun v => (sl x (v * k) k).map (·.toInt)
    let ys := s.products g r xs
    let sums := sumsOf ys
    let cs := (splitAll 8 ((s.rowsBytes g (rBank0 r) (sumRows r)).take (8 * k))).map fun b => sInt 64 (leNat b)
    let refs := xs.map fun xv => dotInt cs xv
    let real := refs == sums
    let bad := fun (s : State) =>
      let z := s.spoilt ys
      z.2.putProducts g z.1 (sumsOf z.1)
    if (Chk.ue chk).isSome then ((bad s).layersUe g (s.layersOf g r), 3)
    else
      let c := if real then chk else .twice
      let n := Chk.fails c (s.spillUsed g.stack)
      let y := (if n = 0 then s else s.bump 0x6021 4 n).check c g.stack 0x6020 (locPlot g.stack) (s.tillDeps g)
      (if real && !y.2 then bad y.1 else y.1.putProducts g ys sums, if y.2 then 0 else 1))

/-! ### Tilling slices (R245 to R248) -/

/-- The groups that a tilling slice targets. -/
def State.sliceGroups (s : State) (x : Slice) : List GroupId :=
  let tgs := s.actN 0x6010 1
  ((bitList x.target 32).flatMap fun ch => ([0, 1].filter fun p => bit x.params (126 + p)).flatMap fun p =>
    ([2, 3].filter fun b => bit x.params (122 + b) && decide (4 ≤ b + tgs)).map fun b => (⟨x.plot, (b + tgs - 4) * 64 + ch * 2 + p⟩ : GroupId)).filter
      fun g => s.groupOk g && !s.hostGroup g && !s.offGroup g

/-- A group enters tilling mode (R246). -/
def State.enterTill (s : State) (g : GroupId) : State :=
  if (s.tg g).st ≠ 0 then s else
  s.switchTm g 1 fun t => { t with st := 1, deficit := 0, xIn := [], acc := [], sumY := [] }

/-- TILLING_ENTER. -/
def execTillingEnter (idx : Nat) (s : State) : Host.Outcome State Fault Refusal :=
  match s.sliceAt idx 0x10 with
  | none => .next s
  | some x => .next ((s.sliceGroups x).foldl State.enterTill s)

/-- TILLING_RUN: the list goes to every targeted group; one that is not in tilling mode discards it (R266). -/
def execTillingRun (idx : Nat) (s : State) : Host.Outcome State Fault Refusal :=
  match s.sliceAt idx 0x11 with
  | none => .next s
  | some x =>
    let img := ((s.tierPlan).map (·.image)).getD []
    let recs := splitAll 64 (sl img (x.params % 2 ^ 44) (64 * bitsOf x.params 59 44))
    .next ((s.sliceGroups x).foldl (fun s g =>
      let s1 := s.resumeTill g
      let s2 := s1.modTg g fun t => { t with fifo := t.fifo ++ recs }
      if (s1.tg g).st = 1 then s2
      else (s2.dropFifo g 4 0x6024)) s)

/-- A group leaves tilling mode (R247); commands still queued are discarded (R266). -/
def State.exitTill (s : State) (g : GroupId) : State :=
  let t := s.tg g
  if t.st ≠ 1 ∧ t.st ≠ 2 then s else
  (if t.fifo.isEmpty then s else s.dropFifo g 4 0x6024).switchTm g 2 fun t => { t with st := 0, deficit := 0 }

/-- TILLING_EXIT. -/
def execTillingExit (idx : Nat) (s : State) : Host.Outcome State Fault Refusal :=
  match s.sliceAt idx 0x12 with
  | none => .next s
  | some x => .next ((s.sliceGroups x).foldl State.exitTill s)

/-- The blocks of a group: the MATVEC records that the RUN slices of the plan in force give it (R258, log 178). -/
def State.blocksOf (s : State) (g : GroupId) : List Bytes :=
  match s.tierPlan with
  | none => []
  | some p =>
    ((p.slices.filter fun x => x.typ == 0x11 && (s.sliceGroups x).contains g).flatMap fun x =>
      splitAll 64 (sl p.image (x.params % 2 ^ 44) (64 * bitsOf x.params 59 44))).filter fun r => u8 r 0 == 0x30 && recOk r

/-- The number under which a tilling row counts its corrected errors and is repaired: its low five bits are its channel (R240, R265). -/
def tillRowNo (r : TillRow) : Nat := 2 ^ 40 + (((r.g.gamma * 80 + r.bank) * 4096 + r.row) * 32 + r.g.gamma % 64 / 2)

/-- What a LOAD slice's read or scrub found at a row (R240, R265, R266): a corrected error, an uncorrected one, or a bitmap row pair that is
invalid by its rails, which is rewritten from the flash image in the next LOAD slice. -/
def State.loadFound (s : State) (r : TillRow) (act : LoadAct) : State :=
  let loc := locPlot r.g.stack
  match act with
  | .write _ | .read => s
  | .corrected => s.countRow r.g.stack (tillRowNo r)
  | .ondieUe => s.ondieRow r.g r.bank r.row
  | .rails => match s.bitmapAt r.g r.bank r.row with
    | some x => (((s.bump 0x6021 3 1).raise 0x6021 loc 0).raise 0x3014 loc 0).badBitmap x.1
    | none => s

/-- The bitmap rows of a stack that were found bad are rewritten from the flash image (R266). -/
def State.rewriteBitmaps (s : State) (plot : Nat) : State :=
  let well := fun (b : BmPlace) => if b.plot = plot then { b with bad := false } else b
  { s with tier := { s.tier with bmaps := s.tier.bmaps.map well } }

/-- TILLING_LOAD: an ordinary read or write of a DATA row of a targeted group in OUT (R244, R245), or its scrub (R265).  The rows of bitmaps
and of models' blocks stay as their images have them (R232); a row of a block that no model holds brings the block's column sums up to date,
which are never taken from the data (R125, R258). -/
def execTillingLoad (idx : Nat) (r : TillRow) (act : LoadAct) (s : State) : Host.Outcome State Fault Refusal :=
  match s.sliceAt idx 0x13 with
  | none => .next s
  | some x =>
    if ¬ (s.sliceGroups x).contains r.g ∨ 80 ≤ r.bank ∨ 4096 ≤ r.row then .next s
    else if (s.tg r.g).st ≠ 0 ∨ rowClass r.row ≠ 4 then .next (s.raise 0x6002 (locPlot r.g.stack) 0)
    else
      let s := s.rewriteBitmaps x.plot
      match act with
      | .write data =>
        if (s.bitmapAt r.g r.bank r.row).isSome ∨ (s.placeAt r.g r.bank r.row).isSome then .next s
        else .next (((s.blocksOf r.g).filter fun b => inBlock b r.bank r.row).foldl (fun s b => s.sumBlock r.g b) (s.putRow r.g r.bank r.row data))
      | a => .next (s.loadFound r a)

/-- TM_ACK_TIMEOUT (R246, R266): TM_CTRL, written in this step, is not acknowledged. -/
def execTmAckTimeout (g : GroupId) (s : State) : Host.Outcome State Fault Refusal :=
  if ¬ s.groupOk g ∨ (s.tg g).ctrlAt ≠ some s.step.number then .next s else
  let s1 := s.modTg g fun t => { t with st := 3, fifo := [], ctrlAt := none }
  .next ((s1.raise 0x6026 (locPlot g.stack) 0).loseAll (s1.tillDeps g))

/-- The host groups enter tilling mode at a plan set's activation, and stay in it (R248). -/
def State.hostGroupsAt (s : State) : State :=
  let gs := (List.range 16).flatMap fun p => (List.range s.tillGroups).map fun c => (⟨p, c⟩ : GroupId)
  gs.foldl (fun s g => if s.hostGroup g && !s.offGroup g then s.enterTill g else s) s

/-- TILL.GROUP_STATE as a boundary publishes it. -/
def State.tillFigures (s : State) : State :=
  s.setLive 0x6020 5 ((List.range 2048).map fun k => BitVec.ofNat 8 (mgetD s.tills k emptyGroup).st)

end Sys2Proof.Machine
end

