-- ==== Sys2Proof/Machine/FieldMem.lean ====
section
/-! DEFINITION. The Field address space as engines read and write it: regions, the window's home frames, the segment window,
the command windows, cells (R20, R21, R230, R273, R297). -/

namespace Sys2Proof.Machine

/-- The region of a Field address, and its fields (R21). -/
def faRegion (a : Nat) : Nat := a / 2 ^ 60
def faStack (a : Nat) : Nat := bitsOf a 40 37
def faStackOff (a : Nat) : Nat := a % 2 ^ 37
def faWindow (a : Nat) : Nat := a % 2 ^ 41

/-- Where a byte of the window or of a stack is held: window bytes at their home frames (R230). -/
def State.homeOf (s : State) (a : Nat) : Nat :=
  if faRegion a = 0 then
    let w := max 1 s.homeBytes
    2 ^ 60 + (faWindow a / w) * 2 ^ 37 + 17179869184 + faWindow a % w
  else a

/-- The window offset of a raw stack byte, where it lies in the window home area (R227, R230). -/
def State.windowOf (s : State) (a : Nat) : Option Nat :=
  let o := faStackOff a
  if faRegion a = 0 then some (faWindow a)
  else if faRegion a = 1 ∧ 17179869184 ≤ o ∧ o < 17179869184 + s.homeBytes then
    some (faStack a * s.homeBytes + (o - 17179869184))
  else none

/-- A byte of parts that lie one behind the other, each from a window page on; none beyond the end of a part. -/
def partByte : List Bytes → Nat → Option Byte
  | [], _ => none
  | b :: rest, o => if o < 65536 * pages64 b.length then b[o]? else partByte rest (o - 65536 * pages64 b.length)

/-- The UINT64 of offset `o` in a segment's TOMB_USN array (R64). -/
def Shard.tombUsn (h : Shard) (n o : Nat) : Nat := mgetD h.tombs (mkHandle n o) usnNever

/-- Byte `o` of what a structure holds in its window pages (R61, R63, R64, R195, R212): the window sections of a segment in ascending type
(log 168), a delta's header and records, a TOMB_USN array, an embedding shard's rows, or mirrored passage pages; none where the spec
states no contents. -/
def State.windowByte (s : State) (kind a b o : Nat) : Option Byte :=
  let tomb := fun (h : Shard) (n : Nat) => if o / 8 < n then (leBytes 8 (h.tombUsn b (o / 8)))[o % 8]? else none
  let deltaByte := fun (h : Shard) (d : Delta) (c : Codebook) =>
    if d.recs.isEmpty ∧ 32 ≤ o ∧ o < 48 then none
    else if o < 256 then (deltaHeader h.id b d c)[o]?
    else (d.recs[(o - 256) / deltaRecBytes c]?).bind fun r => (deltaRecord c r)[(o - 256) % deltaRecBytes c]?
  if kind = 3 then
    match mget s.embs a with
    | none => none
    | some t =>
      let k := o / embStride t.desc
      if k < 2 ^ embShardLog t.desc then (t.rows[b * 2 ^ embShardLog t.desc + k]?).bind fun r => (rowBytes t.desc r)[o % embStride t.desc]?
      else none
  else match mget s.shards a with
    | none => none
    | some h =>
      if kind = 1 then (mget h.deltas b).bind fun d => (s.cbOf d.cb).bind (deltaByte h d) else
      match mget h.segs b, mget h.deltas b with
      | some g, _ =>
        if kind = 0 then partByte (([1, 3, 7, 8] ++ (if g.mirrored then [11] else []) ++ [12]).map (segSec g.image)) o
        else if kind = 2 then tomb h (segVc g.image)
        else if kind = 4 then (segSec g.image 13)[o]? else none
      | none, some d => if kind = 2 then tomb h d.recs.length else none
      | none, none => none

/-- Whether a byte is the node's own: it lies in a window page that the node allocated, in a stack's reserved area, or in the tilling
area. -/
def State.openByte (s : State) (a : Nat) : Bool :=
  match s.windowOf a with
  | some o => (mget s.tier.alloc (o / 65536)).isSome
  | none => faRegion a == 1

/-- What such a byte reads as, where the spec states its contents: that of the structure whose page it is. -/
def State.ownByte (s : State) (a : Nat) : Option Byte :=
  (s.windowOf a).bind fun o => (mget s.tier.alloc (o / 65536)).bind fun e =>
    s.windowByte e.1 e.2.1 e.2.2 (65536 * (s.pagesOf e.1 e.2.1 e.2.2).idxOf (o / 65536) + o % 65536)

/-- The extent of a segment number (R273): the segment ranges of shards do not overlap (R48). -/
def State.segExtent (s : State) (n : Nat) : Option Extent := s.flash.extents.find? fun e => e.seg == n && !e.prov

/-- A byte of region 0x3 (R273): of the LPN that the segment's extent gives, on the unit that the map names.  A unit whose namespace key is
gone does not decrypt (R271, R351). -/
def State.segByte (s : State) (a : Nat) : Option Byte :=
  let o := a % 2 ^ 40
  ((s.segExtent (bitsOf a 55 40)).filter fun e => decide (o / 16384 < e.pages)).bind fun e =>
    ((mget s.flash.map (e.first + o / 16384)).bind fun x => mget s.flash.units x).bind fun u =>
      if u.key = s.keyOf (e.first + o / 16384) then u.data[o % 16384]? else none

/-- The row of the tilling area that a raw address names.  DESIGN CHOICE (log 189): R227 and R242 to R244 give no mapping of the area's
offsets to rows; the model takes them group by group, bank by bank, row by row. -/
def State.rawRow (s : State) (addr : Nat) : GroupId × Nat :=
  let o := faStackOff addr - 17179869184 - s.homeBytes
  (⟨faStack addr, o / 335544320⟩, o / 1024 % 4096)

/-- The rows that a raw access touches. -/
def State.rawRows (s : State) (addr len : Nat) : List (GroupId × Nat) :=
  (List.range ((addr % 1024 + len + 1023) / 1024)).map fun k => s.rawRow (addr / 1024 * 1024 + 1024 * k)

/-- The tilling group of a region 0x2 address. -/
def State.winGroup (s : State) (a : Nat) : GroupId :=
  ⟨faStack a, (bitsOf a 30 29 + s.actN 0x6010 1 - 4) * 64 + bitsOf a 36 32 * 2 + bitsOf a 31 31⟩
def State.winGroupOk (s : State) (a : Nat) : Bool := decide (4 ≤ bitsOf a 30 29 + s.actN 0x6010 1) && s.groupOk (s.winGroup a)

/-- A byte of a stack's reserved area whose contents the spec states (R228, R272): its share of the flash map, and the GiB that reads 0. -/
def State.reservedByte (s : State) (a : Nat) : Option Byte :=
  let o := faStackOff a
  let map := reservedArea 7
  let zero := reservedArea 9
  if map.1 ≤ o ∧ o < map.1 + map.2 then
    (leBytes 4 (mgetD s.flash.map (faStack a * (map.2 / 4) + (o - map.1) / 4) unmapped))[(o - map.1) % 4]?
  else if zero.1 ≤ o ∧ o < zero.1 + zero.2 then some 0
  else none

/-- A byte of the tilling area, which lies behind the home frames (R227, R243, log 189): that of a row. -/
def State.tillByte (s : State) (a : Nat) : Option Byte :=
  let x := s.rawRow a
  let o := faStackOff a - 17179869184 - s.homeBytes
  if 17179869184 + s.homeBytes ≤ faStackOff a ∧ x.1.gamma < s.tillGroups then (s.row x.1 (o / 4194304 % 80) x.2)[a % 1024]? else none

/-- One byte as an engine reads it; `k` picks its free value where its contents are open. -/
def State.byteAt (s : State) (k a : Nat) : Byte :=
  let r := faRegion a
  if r = 2 then winByte (s.tg (s.winGroup a)) (a % 65536)
  else if r = 3 then (s.segByte a).getD (Config.freeByte s.freeCtr k)
  else if r = 1 ∧ (s.reservedByte a).isSome then (s.reservedByte a).getD 0
  else if r = 1 ∧ (s.tillByte a).isSome then (s.tillByte a).getD 0
  else if r ≤ 1 ∧ s.openByte a then (s.ownByte a).getD (Config.freeByte s.freeCtr k)
  else Memory.read s.mem (s.homeOf a)

/-- `n` bytes from an address, and the state that has used its free values. -/
def State.readField (s : State) (a n : Nat) : Bytes × State :=
  ((List.range n).map fun k => s.byteAt k (a + k), { s with freeCtr := s.freeCtr + 1 })

/-- Write bytes from an address.  Open bytes keep no value; a read of the window counts and a write to a promoted page is
written through (R233). -/
def State.writeField (s : State) (a : Nat) (b : Bytes) : State :=
  let r := faRegion a
  if r = 2 then s.winWrite (s.winGroup a) (a % 65536) b
  else if r = 3 then s
  else
    let m := (b.zipIdx).foldl (fun m e =>
      if r ≤ 1 ∧ s.openByte (a + e.2) then m else Memory.write m (s.homeOf (a + e.2)) e.1) s.mem
    let pages := match s.windowOf a with
      | some o => (List.range (ceilDiv (o % 65536 + b.length) 65536)).map fun k => o / 65536 + k
      | none => []
    pages.foldl State.touchPage { s with mem := m }

/-- The host writes of regions 0x0 and 0x1 reach memory, in their order: the engines see them from here on (R22). -/
def State.landed (s : State) : State :=
  s.tier.landing.foldl (fun (s : State) w => s.writeField w.1 w.2) { s with tier := { s.tier with landing := [] } }

/-- The bytes of host staging (R231), as the Hand reads them: every write whose RDMA operation has completed is there. -/
def State.staging (s : State) (addr len : Nat) : Bytes :=
  let m := s.landed.mem
  (List.range len).map fun k => Memory.read m (s.homeOf (addr + k))

/-- Count the 64-byte reads of a structure's pages that a range of it takes (R234). -/
def State.countAt (s : State) (kind a b off n : Nat) : State :=
  let ps := s.pagesOf kind a b
  let one := fun (m : List (Nat × Nat)) (k : Nat) => match ps[(off + 64 * k) / 65536]? with
    | some p => mupd m p 0 fun c => min 65535 (c + 1)
    | none => m
  { s with tier := { s.tier with counts := (List.range (ceilDiv n 64)).foldl one s.tier.counts } }

/-- Count the 64-byte reads of window pages that a range takes (R234). -/
def State.countReads (s : State) (a n : Nat) : State :=
  match s.windowOf a with
  | none => s
  | some o =>
    { s with tier := { s.tier with counts := (List.range (ceilDiv n 64)).foldl (fun m k =>
      let p := (o + 64 * k) / 65536
      if (mget s.tier.alloc p).isSome then mupd m p 0 (fun c => min 65535 (c + 1)) else m) s.tier.counts } }

end Sys2Proof.Machine
end

