-- ==== Sys2Proof/Machine/Tensor.lean ====
section
/-! DEFINITION. Tensor arrays and vector units (R177 to R192): formats, GEMM, the output stage and its scale registers, clip
statistics, the element-wise and row operations. -/

namespace Sys2Proof.Machine

/-! ### Buffers and operands (R177, R189, R192) -/

def Buf.colFmt (b : Buf) (j : Nat) : Nat := b.cols.getD j b.fmt

/-- Rows of one format, without block scales; and rows whose columns have the formats `fs`. -/
def plainBuf (f : Nat) (rows : List (List Nat)) : Buf := ⟨f, [], rows, []⟩
def colsBuf (fs : List Nat) (rows scales : List (List Nat)) : Buf :=
  let f := fs.headD 9
  ⟨f, if fs.all (· == f) then [] else fs, rows, scales⟩

/-- A buffer in the format that an instruction names for it.  The spec does not say what a value is that is read in a format other than
the one it was written in: it is a free value (log 172). -/
def Buf.asFmt (b : Buf) (f : Nat) : Buf :=
  if b.cols.isEmpty ∧ b.fmt = f then b
  else ⟨f, [], b.rows.map fun r => r.zipIdx.map fun v =>
      if b.colFmt v.2 = f ∧ ¬ isMxFmt f then v.1 else Config.tensorOpen (64 + f) v.1 % 2 ^ fmtBits f,
    b.rows.map fun r => (List.range (ceilDiv r.length 32)).map fun i => Config.tensorOpen (96 + f) i % 255⟩

/-- The same for an operation on values: INT32, which a bypass leaves, has no format code and is read as it is. -/
def Buf.asOperand (b : Buf) (f : Nat) : Buf := if b.cols.isEmpty ∧ b.fmt = 16 then b else b.asFmt f

/-- A working buffer that nothing has written: free values (log 172). -/
def openBuf (id f rows width : Nat) : Buf :=
  plainBuf f ((List.range rows).map fun i => (List.range width).map fun j =>
    Config.tensorOpen (128 + f) ((id * 2 ^ 32 + i) * 2 ^ 32 + j) % 2 ^ fmtBits f)

/-- The tokens of a generation's rows: the chunk of a prefill; the last emitted token, where it is still to be computed, and the draft's
nodes; or the query and the passage that a reranker scores, at most 1,024 of them in a pass (R193, R216, R218, R220). -/
def GenWork.chunk (g : GenWork) : Nat :=
  let n := u32 g.hdr 28
  min 256 (if g.fed < n then n - g.fed else g.prompt.length - g.fed)
def GenWork.pair (g : GenWork) : List Nat :=
  let e := g.passages.getD g.scores.length (0, 0)
  g.prompt ++ (g.block.drop e.1).take e.2
def GenWork.rowTokens (g : GenWork) : List Nat :=
  if u8 g.hdr 0 = 1 then (g.pair.drop g.fed).take 1024
  else if g.stage < 2 then (g.prompt.drop g.fed).take g.chunk
  else g.next.toList ++ g.drafts

/-- The input rows of a program (R192), which stand in buffer 0 until it is written: the tokens of QUERY_KIND 1, one to a row, the
entries of QUERY_KIND 2 as (table, row), or the tokens of a generation. -/
def Work.input (w : Work) : Buf :=
  match w.gen with
  | some g => plainBuf 16 (g.rowTokens.map fun t => [t])
  | none =>
    if pQuery w.params = 1 then plainBuf 16 ((splitAll 4 w.query).map fun b => [leNat b])
    else if pQuery w.params = 2 then plainBuf 16 ((splitAll 8 w.query).map fun b => [u16 b 0, u32 b 4])
    else plainBuf 8 [(splitAll 2 w.query).map leNat]

/-- The image whose program runs, and a tensor of it by its TENSOR_ID. -/
def Work.runImage (w : Work) : Bytes :=
  match w.gen with
  | some g => if (w.prog.head?.map (·.draft)).getD false then g.draft else g.image
  | none => w.image
def Work.tensor (w : Work) (id : Nat) : Option Tensor := (imageTensors w.runImage).find? fun t => t.id == id

/-- Operand A: a working buffer, its rows no more than `lim`. -/
def Work.bufOf (w : Work) (id f rows width : Nat) : Buf :=
  match mget w.bufs id with
  | some b => b
  | none => if id = 0 then w.input else openBuf id f rows width
def Buf.rowsUpTo (b : Buf) (lim : Nat) : Buf := ⟨b.fmt, b.cols, b.rows.take lim, b.scales.take lim⟩

/-- Operand B: a tensor where the image has the identifier, else a working buffer. -/
def Work.operandB (w : Work) (ti : TInstr) : Buf :=
  match w.tensor ti.opB with
  | some t => t.buf w.runImage
  | none => w.bufOf ti.opB ti.fmtB ti.n ti.k

/-- Write an instruction's result. -/
def State.setBuf (s : State) (tag id : Nat) (b : Buf) : State :=
  s.modWork tag fun w => { w with bufs := mput w.bufs id b, lastOut := id }

/-! ### Batches, passes and their length tables (R185, R189, R220) -/

/-- The position of the i-th token that a generation itself appends: the prefix, then what follows the passages. -/
def GenWork.spliced (g : GenWork) : Nat :=
  sumNat ((g.pages.filter fun p => p.1.layer == 0 && p.1.head == 0 && p.1.ro && decide (g.base ≤ p.2)).map fun p => p.1.valid)
def GenWork.ownPos (g : GenWork) (i : Nat) : Nat := g.base + i + (if i < u32 g.hdr 28 then 0 else g.spliced)

/-- The rows of a request in a pass, as runs of (ROW_KIND, ROW_COUNT, CTX_TOKENS, POS_FIRST); a scoring pair in runs of 256 rows. -/
def GenWork.runs (g : GenWork) : List (Nat × Nat × Nat × Nat) :=
  if u8 g.hdr 0 = 1 then
    (groupsOf 256 g.rowTokens).zipIdx.map fun c => (3, c.1.length, g.fed + 256 * c.2, g.fed + 256 * c.2)
  else
    let p := g.ownPos g.fed
    let r := g.next.toList.length
    (if g.stage < 2 then [(0, g.rowTokens.length, p, p)] else [(1, r, p, p), (2, g.drafts.length, p + r, p + r)]).filter fun e => e.2.1 != 0

/-- A request's entries of a length table, from a batch row on. -/
def lenEntries (near home : Nat) : Nat → List (Nat × Nat × Nat × Nat) → List LenEntry
  | _, [] => []
  | first, (kind, count, ctx, pos) :: rest => ⟨near, home, kind, first, count, ctx, pos⟩ :: lenEntries near home (first + count) rest

/-- A length table of at most 256 entries and 1,024 rows, taken up with the requests in order: the requests that it covers, and it. -/
def State.lenTable (s : State) (tags : List Nat) : List Nat × List LenEntry :=
  tags.foldl (fun (st : List Nat × List LenEntry) t =>
    match s.farOf t, s.stubOf t, (s.workOf t).bind (·.gen) with
    | some (_, f), some (_, k), some g =>
      let es := lenEntries k.nearSlot f.home (sumNat (st.2.map (·.count))) g.runs
      if st.2.length + es.length ≤ 256 ∧ sumNat ((st.2 ++ es).map (·.count)) ≤ 1024 then (st.1 ++ [t], st.2 ++ es) else st
    | _, _, _ => st) ([], [])

/-- Whether a request's program stands at an instruction: its home plot holds it in a phase that runs programs (R192, R218), it waits
for no row and, to combine partials (ATTN_COMBINE), for none of a member (R225), and the instruction is its next. -/
def State.atInstr (s : State) (op : Nat) (ti : TInstr) (tag : Nat) : Bool :=
  match s.farOf tag, s.workOf tag with
  | some (_, f), some w => f.owner == 2 && [2, 3, 0x21, 0x22, 0x23].contains f.phase && !s.isLost tag && w.gather.isNone &&
      (op != 0x44 || (w.gen.map fun g => g.asked == 0).getD true) && (w.prog.head?.map fun p => p.op == op && p.ti == ti).getD false
  | _, _ => false

/-- The requests named that stand at the instruction under the image of the first, each once. -/
def State.standing (s : State) (op : Nat) (ti : TInstr) (tags : List Nat) : List Nat :=
  let l := (dedupBy (fun t => t) [] tags).filter (s.atInstr op ti)
  match l.head?.bind s.workOf with
  | none => []
  | some w => l.filter fun t => ((s.workOf t).map fun x => x.runImage == w.runImage).getD false

/-- The ledger describes a pass that begins in a length table of its own (R220). -/
def State.startPass (s : State) (tags : List Nat) : State :=
  let new := tags.filter fun t => (((s.workOf t).bind (·.gen)).map fun g => g.pass.isNone).getD false
  match s.lenTable new with
  | ([], _) => s
  | (t :: ts, es) =>
    let n := lowestFree s.ledger.lens 0
    let join := fun (g : GenWork) => { g with pass := some n }
    { s with ledger := { s.ledger with
      lens := mput s.ledger.lens n es
      works := s.ledger.works.map fun w => if (t :: ts).contains w.1 then (w.1, { w.2 with gen := w.2.gen.map join }) else w } }

/-- A request's entries of its pass's length table, and its rows as they cover them. -/
def State.entriesOf (s : State) (tag : Nat) : List LenEntry :=
  match s.farOf tag, s.stubOf tag, ((s.workOf tag).bind (·.gen)).bind (·.pass) with
  | some (_, f), some (_, k), some p => (mgetD s.ledger.lens p []).filter fun e => e.near == k.nearSlot && e.home == f.home
  | _, _, _ => []
def rowsOf (es : List LenEntry) : List (LenEntry × Nat) := es.flatMap fun e => (List.range e.count).map fun i => (e, i)

/-- The batch of an instruction (R185, R220): encoders' requests, and those of a generation that a length table covers. -/
def State.batch (s : State) (op : Nat) (ti : TInstr) (tags : List Nat) : List Nat :=
  (s.standing op ti tags).filter fun t => (((s.workOf t).bind (·.gen)).map fun g => g.pass.isSome).getD true

/-- How many rows of a request an instruction reads: M counts the rows of the batch, and a generation's begin at its first ROW_FIRST. -/
def State.rowLimit (s : State) (tag : Nat) (ti : TInstr) : Nat := ti.m - ((s.entriesOf tag).head?.map (·.first)).getD 0

/-- The pass of a request ends: its rows leave the length table. -/
def State.endPass (s : State) (tag : Nat) : State :=
  let left := fun (g : GenWork) => { g with pass := none }
  ({ s with ledger := { s.ledger with lens := s.lensWithout tag } }).modWork tag fun w => { w with gen := w.gen.map left }

/-- The buffers that outlive a program's run: those that hold keys and values of verification nodes. -/
def Work.clearBufs (w : Work) : Work := { w with bufs := w.bufs.filter fun b => decide (2 ^ 32 ≤ b.1), lastOut := 0 }

/-- A request's program moves past an instruction.  At the end of a draft's program it runs again while its tree grew, and then the
generator's runs (R221, log 173). -/
def State.stepProg (s : State) (tag : Nat) : State :=
  match s.workOf tag with
  | none => s
  | some w =>
    let rest := w.prog.drop 1
    match w.gen with
    | none => s.modWork tag fun w => { w with prog := rest }
    | some g =>
      let here := (w.prog.head?.map (·.draft)).getD false
      match rest with
      | [] => (s.endPass tag).modWork tag fun w => { w with prog := [] }
      | p :: _ =>
        if p.draft = here then s.modWork tag fun w => { w with prog := rest }
        else
          let again := decide (g.stage = 2) && decide (g.tried < g.drafts.length)
          let mark := fun (g : GenWork) => { g with tried := g.drafts.length }
          (s.endPass tag).modWork tag fun w =>
            { w.clearBufs with prog := if again then s.programOf true g.draft ++ rest else rest, gen := w.gen.map mark }

/-- A check of a batch that counts its failures in a counter of the dictionary; every request of the batch is lost with it (R185). -/
def State.checkBatch (s : State) (c : Chk) (plot code loc idx sub : Nat) (tags : List Nat) : State × Bool :=
  let n := Chk.fails c (s.spillUsed plot)
  (if n = 0 then s else s.bump idx sub n).check c plot code loc tags

/-- Run an instruction on a batch: what the batch goes through as a whole, and where that passes, each request's own part, after which
its program moves on. -/
def State.runBatch (s : State) (op : Nat) (ti : TInstr) (tags : List Nat) (whole : List Nat → State → State × Bool)
    (part : Nat → Work → State → State) : State :=
  let s1 := s.startPass (s.standing op ti tags)
  let b := s1.batch op ti tags
  if b.isEmpty then s else
  let r := whole b s1
  if ¬ r.2 then r.1
  else b.foldl (fun s t => match s.workOf t with
    | some w => (part t w s).stepProg t
    | none => s) r.1

/-! ### Conversions (R182) -/

/-- Whether a value lies beyond the largest finite value of a format. -/
def fvBeyond (f : FFmt) : FV → Bool
  | .nan => false
  | .inf _ => true
  | .fin _ n d => fvLt (fdec f (fmaxFin f)) (.fin false n d)

/-- One converted value: the pattern, whether it was clipped, and whether a NaN was zeroed. -/
abbrev Conv := Nat × Bool × Bool

/-- The flags of converted values by their columns. -/
abbrev Flags := List (Nat × Bool × Bool)
def flagsOf (row : List Conv) : Flags := row.zipIdx.map fun v => (v.2, v.1.2.1, v.1.2.2)

/-- A float to a float format. -/
def convFlt (f : FFmt) (v : FV) : Conv := if fvIsNan v then (0, false, true) else (fenc f true v, fvBeyond f v, false)

/-- A float to an integer format: exact where it is an integer of the range; what else results is open. -/
def convInt (bits : Nat) (p : Nat) : Conv :=
  match fdec fp32 p with
  | .fin s n d =>
    let i : Int := if s then -((n / d : Nat) : Int) else ((n / d : Nat) : Int)
    if n % d = 0 ∧ clampS bits i = i then (ofSInt bits i, false, false) else (Config.tensorOpen bits p % 2 ^ bits, false, false)
  | .nan => (0, false, true)
  | .inf _ => (Config.tensorOpen bits p % 2 ^ bits, false, false)

/-- The scale byte of an MX block of FP32 patterns. -/
def mxScaleOf (f : Nat) (blk : List Nat) : Nat :=
  let mags := blk.map fun p => fdec fp32 (f32abs p)
  if mags.any (fun v => !fvIsNan v && !fvFinite v) then 254
  else
    let amax := mags.foldl (fun m v => if fvLt m v then v else m) (.fin false 0 1)
    match amax with
    | .fin _ n d => if n = 0 then 0 else ((max (-127) (min 127 ((flog2 n d : Int) - 1048576 - mxE f))) + 127).toNat
    | _ => 254

/-- One FP32 pattern converted to a format other than an MX one. -/
def convOne (f p : Nat) : Conv :=
  if f = 9 then (p, false, false) else if isIntFmt f then convInt (fmtBits f) p else convFlt (fltFmt f) (fdec fp32 p)

/-- A row of FP32 patterns converted to a format: the values, and the block scales of an MX format. -/
def convRow (f : Nat) (ps : List Nat) : List Conv × List Nat :=
  if isMxFmt f then
    let bl := groupsOf 32 ps
    let sc := bl.map (mxScaleOf f)
    (((bl.zip sc).flatMap fun b => b.1.map fun p => convFlt (fltFmt f) (fvDiv (fdec fp32 p) (e8m0 b.2))), sc)
  else (ps.map (convOne f), [])

/-- Rows of FP32 patterns converted to a buffer, with the flags of every converted value; FP32 itself is no conversion. -/
def convRows (f : Nat) (rows : List (List Nat)) : Buf × Flags :=
  let cs := rows.map (convRow f)
  (⟨f, [], cs.map fun c => c.1.map (·.1), cs.map (·.2)⟩, if f = 9 then [] else cs.flatMap fun c => flagsOf c.1)

/-- The flags of values that went through two conversions, each counted once. -/
def bothFlags (a b : Flags) : Flags := if b.isEmpty then a else (a.zip b).map fun p => (p.1.1, p.1.2.1 || p.2.2.1, p.1.2.2 || p.2.2.2)

/-! ### Arrays, scale registers and clip counters (R181, R183, R184) -/

def emptyArr : TArr := ⟨[], [], 0, 0, false, []⟩
def State.arr (s : State) (a : Nat) : TArr := mgetD s.arrays a emptyArr
def State.modArr (s : State) (a : Nat) (f : TArr → TArr) : State := { s with arrays := mupd s.arrays a emptyArr f }
def TArr.base (a : TArr) : Nat := if a.useB then a.baseB else a.baseA
def TArr.reg (a : TArr) (j : Nat) : Nat := mgetD (if a.useB then a.bankB else a.bankA) j 0

/-- The place of an array of the node, by plot × 4 + array. -/
def locArr (a : Nat) : Nat := locRow (a / 4) 5 (a % 4)

/-- Count converted values by group of 64 output channels, with the counters saturating. -/
def TArr.tally (a : TArr) (fl : Flags) : TArr :=
  let sat := fun (n : Nat) => min n (2 ^ 32 - 1)
  let add := fun (c : List (Nat × Nat × Nat × Nat)) (x : Nat × Bool × Bool) =>
    mupd c (x.1 / 64 % 64) (0, 0, 0) fun v =>
      (sat (v.1 + if x.2.1 then 1 else 0), sat (v.2.1 + if x.2.2 then 1 else 0), sat (v.2.2 + 1))
  { a with clip := fl.foldl add a.clip }

/-- Count the NaNs zeroed in the node's counter, and the clip statistics of an array. -/
def State.tallyNan (s : State) (fl : Flags) : State :=
  let n := (fl.filter fun x => x.2.2).length
  if n = 0 then s else s.bump 0x5010 6 n
def State.tally (s : State) (a : Nat) (fl : Flags) : State := (s.modArr a fun t => t.tally fl).tallyNan fl

/-! ### Accumulation and its references (R124, R180) -/

/-- The integer sum, and the float sum in groups of 32, each exact and then rounded twice. -/
def dotFlt (a b : List FV) : Nat :=
  (groupsOf 32 (a.zip b)).foldl (fun acc g =>
    let x := g.foldl (fun (t : FV) p => fvAdd t (fvMul p.1 p.2)) (.fin false 0 1)
    f32add acc (fenc fp32 false x)) 0

/-- An accumulator value. -/
inductive AccVal where
  | int (i : Int)
  | flt (p : Nat)
  deriving DecidableEq, Repr
def AccVal.toInt : AccVal → Int
  | .int i => i
  | .flt _ => 0
def AccVal.toFlt : AccVal → Nat
  | .int _ => 0
  | .flt p => p

/-- Whether an operand pair is a TILLER layer's: integer activations with MXFP4 weights, which no other GEMM pairs (R179,
R208, R260); and whether a pair accumulates in INT32. -/
def tillerPair (fa fb : Nat) : Bool := isIntFmt fa && fb == 7
def intPair (fa fb : Nat) : Bool := isIntFmt fa && (isIntFmt fb || fb == 7)

/-- A channel of MXFP4 weights as integers, with S_j (R257): the least scale among the blocks that hold a non-zero element. -/
def tillChannel (ps sc : List Nat) : List Int × Nat :=
  let bl := (groupsOf 32 ps).zip sc
  let nz := bl.filter fun b => b.1.any fun p => p % 8 != 0
  let s0 := minNat 255 (nz.map (·.2))
  (bl.flatMap fun b => b.1.map fun p => e2m1Twice p * 2 ^ (if b.1.any (fun p => p % 8 != 0) then b.2 - s0 else 0), if nz.isEmpty then 128 else s0)

/-- A row of operand A, and channel j of operand B, as integers. -/
def channelInts (fb : Nat) (ps sc : List Nat) : List Int := if fb = 7 then (tillChannel ps sc).1 else rowInts fb ps

/-- C_ij of one row and one channel. -/
def gemmAcc (fa fb : Nat) (a asc b bsc : List Nat) : AccVal :=
  if intPair fa fb then .int (dotInt (rowInts fa a) (channelInts fb b bsc)) else .flt (dotFlt (rowVals fa a asc) (rowVals fb b bsc))

/-- The channels that a product takes of operand B. -/
def chansOf (w : Buf) (base n : Nat) : List Nat := ((List.range n).map (base + ·)).filter fun j => decide (j < w.rows.length)

/-- C over the first k elements of A's rows and the channels `base` on. -/
def gemmAccs (a : Buf) (k : Nat) (w : Buf) (base n : Nat) : List (List AccVal) :=
  a.rows.zipIdx.map fun r => (chansOf w base n).map fun j =>
    gemmAcc a.fmt w.fmt (r.1.take k) (a.scales.getD r.2 []) ((w.rows.getD j []).take k) (w.scales.getD j [])

/-- Whether a sum lies within the tolerance of its reference, in FP32; a NaN or an infinity does not. -/
def nearRef (sum ref count tol : Nat) : Bool := f32le (f32abs (f32sub sum ref)) (f32mul (fenc fp32 false (.fin false count (2 ^ 23))) tol)

/-- The column check of R124 on the rows of A and the channels of B, and by exchanging the two the row check: Σ_i C_ij against
Σ_k (Σ_i A_ik) B_kj. -/
def intRefs (a b : List (List Int)) (k : Nat) (sums : List Int) : Bool :=
  let e := (List.range k).map fun i => a.foldl (fun t r => t + r.getD i 0) (0 : Int)
  b.map (dotInt e) == sums
def fltRefs (a b : List (List Nat)) (k : Nat) (sums : List Nat) : Bool :=
  let e := (List.range k).map fun i => f32sum (a.map fun r => r.getD i 0)
  let m := (List.range k).map fun i => f32sum (a.map fun r => f32abs (r.getD i 0))
  let dot := fun (x y : List Nat) => f32sum ((x.zip y).map fun p => f32mul p.1 p.2)
  (b.zip sums).all fun c => nearRef c.2 (dot e c.1) (k + a.length) (dot m (c.1.map f32abs))

/-- Whether a product agrees with the column and the row reference (R124). -/
def gemmChecks (a : Buf) (k : Nat) (w : Buf) (base n : Nat) : Bool :=
  let c := gemmAccs a k w base n
  let js := chansOf w base n
  let cols := (List.range js.length).map fun j => c.map fun r => r.getD j (.int 0)
  if intPair a.fmt w.fmt then
    let ai := a.rows.map fun r => rowInts a.fmt (r.take k)
    let bi := js.map fun j => channelInts w.fmt ((w.rows.getD j []).take k) (w.scales.getD j [])
    let sum := fun (l : List AccVal) => (l.map AccVal.toInt).foldl (· + ·) 0
    intRefs ai bi k (cols.map sum) && intRefs bi ai k (c.map sum)
  else
    let af := a.rows.zipIdx.map fun r => (rowVals a.fmt (r.1.take k) (a.scales.getD r.2 [])).map (fenc fp32 false)
    let bf := js.map fun j => (rowVals w.fmt ((w.rows.getD j []).take k) (w.scales.getD j [])).map (fenc fp32 false)
    let sum := fun (l : List AccVal) => f32sum (l.map AccVal.toFlt)
    fltRefs af bf k (cols.map sum) && fltRefs bf af k (c.map sum)

/-! ### The output stage (R181, R182) -/

def regMult (r : Nat) : Nat := r / 2 ^ 32
def regShift (r : Nat) : Nat := bitsOf r 31 26
def regZero (r : Nat) : Int := sInt 8 (bitsOf r 25 18)
def regOut (r : Nat) : Nat := bitsOf r 17 14
def regMode (r : Nat) : Nat := bitsOf r 13 12

/-- MULT of a TILLER channel, as the load replaces it (R257). -/
def tillMult (mult sj : Nat) : Nat := fenc fp32 false (fvMul (fdec fp32 mult) (fvPow2 ((sj : Int) - 128)))
def tillReg (fa : Nat) (w : Buf) (j r : Nat) : Nat :=
  if tillerPair fa w.fmt ∧ regMode r = 1 then
    tillMult (regMult r) (tillChannel (w.rows.getD j []) (w.scales.getD j [])).2 * 2 ^ 32 + r % 2 ^ 32
  else r

/-- MODE 0: the product, the rounding shift, the zero point and the clamp. -/
def rescaleInt (r : Nat) (acc : Int) : Conv :=
  let t := shiftR (acc * sInt 32 (regMult r)) (regShift r)
  let y := t + regZero r
  if regOut r = 9 then (intTo32 y, false, false)
  else
    let b := fmtBits (regOut r)
    let z := clampS b y
    (ofSInt b z, decide (z ≠ y), false)

/-- One value of the output stage: a pattern, or an FP32 value that the row still converts. -/
inductive OutVal where
  | pat (c : Conv)
  | flt (p : Nat)
  deriving DecidableEq, Repr

/-- One accumulator through its register. What a register in MODE 0 makes of a float accumulator or for a format that MODE 0 does not
give, and MODE 3, is open. -/
def outVal (r : Nat) (acc : AccVal) : OutVal :=
  let o := regOut r
  match regMode r, acc with
  | 0, .int i => if o = 0 ∨ o = 1 ∨ o = 9 then .pat (rescaleInt r i) else .pat (Config.tensorOpen r (ofSInt 32 i) % 2 ^ fmtBits o, false, false)
  | 1, .int i => .flt (fenc fp32 false (fvMul (fvInt i) (fdec fp32 (regMult r))))
  | 1, .flt p => .flt (f32mul p (regMult r))
  | 2, .int i => .pat (ofSInt 32 i, false, false)
  | 2, .flt p => .pat (p, false, false)
  | _, .int i => .pat (Config.tensorOpen r (ofSInt 32 i) % 2 ^ 32, false, false)
  | _, .flt p => .pat (Config.tensorOpen r p % 2 ^ fmtBits o, false, false)

/-- The format that a register gives its channel. -/
def outFmtOf (int : Bool) (r : Nat) : Nat := if regMode r ≤ 1 then regOut r else if int then 16 else 9

/-- One value in its channel's format. An MX channel beside channels of other formats has no block that the spec defines: its value
is open (log 172). -/
def outOne (f : Nat) : OutVal → Conv
  | .pat c => c
  | .flt p => if isMxFmt f then (Config.tensorOpen (32 + f) p % 2 ^ fmtBits f, false, false) else convOne f p

/-- A row of output values, 32 channels at a time, with the block scales of MX channels. -/
def outRow (fs : List Nat) (vs : List OutVal) : List Conv × List Nat :=
  let one := fun (blk : List (Nat × OutVal)) =>
    let f := (blk.head?.map (·.1)).getD 9
    if isMxFmt f && blk.all (fun x => x.1 == f) then
      let c := convRow f (blk.map fun x => match x.2 with | .flt p => p | .pat _ => 0)
      ((blk.zip c.1).map fun x => match x.1.2 with | .flt _ => x.2 | .pat y => y, c.2.headD 127)
    else (blk.map fun x => outOne x.1 x.2, 127)
  let bs := (groupsOf 32 (fs.zip vs)).map one
  (bs.flatMap (·.1), if fs.any isMxFmt then bs.map (·.2) else [])

/-- Rows of accumulators through their registers: a buffer, and the flags of the values that MODE 0 or 1 converts, by channel. -/
def outRows (int : Bool) (regs : List Nat) (accs : List (List AccVal)) : Buf × Flags :=
  let fs := regs.map (outFmtOf int)
  let outs := accs.map fun row => outRow fs ((regs.zip row).map fun x => outVal x.1 x.2)
  let counts := fun (x : Nat × Bool × Bool) => decide (regMode (regs.getD x.1 0) ≤ 1) && (regMode (regs.getD x.1 0) == 0 || fs.getD x.1 9 != 9)
  (colsBuf fs (outs.map fun o => o.1.map (·.1)) (outs.map (·.2)), (outs.flatMap fun o => flagsOf o.1).filter counts)

/-- The result of a product over the channels `base` on. -/
def gemmOut (a : Buf) (k : Nat) (w : Buf) (base n : Nat) (reg : Nat → Nat) : Buf × Flags :=
  outRows (intPair a.fmt w.fmt) ((chansOf w base n).map fun j => tillReg a.fmt w j (reg (j - base))) (gemmAccs a k w base n)

/-- A result that continues one whose earlier channels another channel group wrote (R183). -/
def Buf.extend (old : Option Buf) (base : Nat) (b : Buf) : Buf :=
  match old with
  | some o =>
    if base = 0 then b
    else
      let width := (b.rows.headD []).length
      colsBuf ((List.range base).map o.colFmt ++ (List.range width).map b.colFmt)
        ((b.rows.zipIdx).map fun r => (o.rows.getD r.2 []).take base ++ r.1)
        ((b.scales.zipIdx).map fun r => (o.scales.getD r.2 []).take (base / 32) ++ r.1)
  | none => b

/-- The blocks of a TILLER tensor that operand B names, by first channel; and what the arrays read of them: the in-bank records, each w
expanded to INT8 (R260). -/
def State.blocksOfB (s : State) (w : Work) (ti : TInstr) : List TillPlace :=
  sortBy (fun (a b : TillPlace) => decide (a.first < b.first)) (s.tier.places.filter fun p => p.id == ti.opB &&
    ((mget s.models p.model).map fun m => m.image == w.runImage).getD false)
def State.bankBuf (s : State) (ps : List TillPlace) : Buf :=
  plainBuf 0 ((ps.flatMap fun p => s.blockWeights p.g p.rec_).map fun w => w.map (ofSInt 8))

/-- Operand B of a product and the registers of its channels: where the banks hold the tensor, its in-bank records, and the registers as
the load replaced them (R257, R260). -/
def State.weightsB (s : State) (w : Work) (ti : TInstr) (b : Buf) (fa base : Nat) (reg : Nat → Nat) : Buf × (Nat → Nat) :=
  let ps := s.blocksOfB w ti
  if ps.isEmpty ∨ ¬ isIntFmt fa then (b, reg) else (s.bankBuf ps, fun i => tillReg fa b (base + i) (reg i))

/-- Operand A of a request's GEMM, in the format that the instruction names. -/
def State.gemmA (s : State) (tag : Nat) (w : Work) (ti : TInstr) : Buf :=
  ((w.bufOf ti.opA ti.fmtA ti.m ti.k).asFmt ti.fmtA).rowsUpTo (s.rowLimit tag ti)

/-- A batch's rows of operand A as they enter the array. -/
def State.batchA (s : State) (ti : TInstr) (b : List Nat) : Buf :=
  let as := b.filterMap fun t => (s.workOf t).map fun w => s.gemmA t w ti
  ⟨ti.fmtA, [], as.flatMap (·.rows), as.flatMap (·.scales)⟩

/-- Whether a batch's product agrees with its references: one product where operand B is a tensor, else one for each request. -/
def State.gemmAgrees (s : State) (arr : Nat) (ti : TInstr) (b : List Nat) : Bool :=
  let base := (s.arr arr).base
  let one := fun (w : Work) (a : Buf) =>
    gemmChecks a ti.k (s.weightsB w ti ((w.operandB ti).asFmt ti.fmtB) ti.fmtA base (fun _ => 0)).1 base ti.n
  match b.head?.bind s.workOf with
  | none => true
  | some w =>
    if (w.tensor ti.opB).isSome then one w (s.batchA ti b)
    else b.all fun t => ((s.workOf t).map fun w => one w (s.gemmA t w ti)).getD true

/-- GEMM (R124, R180, R182, R185): the channels from the active bank's CHANNEL_BASE on.  A product that misses its references fails its
repeat too. -/
def execGemm (tags : List Nat) (arr : Nat) (ti : TInstr) (chk resc : Chk) (s : State) : Host.Outcome State Fault Refusal :=
  .next (if 64 ≤ arr then s else s.runBatch 1 ti tags
    (fun b s =>
      let r := s.checkBatch (if s.gemmAgrees arr ti b then chk else .twice) (arr / 4) 0x5010 (locArr arr) 0x5010 4 b
      if ¬ r.2 then r else r.1.checkBatch resc (arr / 4) 0x5011 (locArr arr) 0x5010 4 b)
    fun tag w s =>
      let t := s.arr arr
      let b := s.weightsB w ti ((w.operandB ti).asFmt ti.fmtB) ti.fmtA t.base t.reg
      let o := gemmOut (s.gemmA tag w ti) ti.k b.1 t.base ti.n b.2
      (s.tally arr o.2).setBuf tag ti.res (Buf.extend (mget w.bufs ti.res) t.base o.1))

/-- A whole that nothing checks. -/
def noCheck (_ : List Nat) (s : State) : State × Bool := (s, true)

/-- LOAD_SCALES (R183): the idle bank from a tensor's rescale table, channels N to N + 4,095. -/
def State.loadScales (s : State) (arr : Nat) (ti : TInstr) (w : Work) : State :=
  match w.tensor ti.opB with
  | some t =>
    let bank := ((List.range 4096).filter fun j => decide (ti.n + j < t.n)).map fun j => (j, t.reg w.runImage (ti.n + j))
    s.modArr arr fun a => if a.useB then { a with bankA := bank, baseA := ti.n } else { a with bankB := bank, baseB := ti.n }
  | none => s
def execLoadScales (tags : List Nat) (arr : Nat) (ti : TInstr) (s : State) : Host.Outcome State Fault Refusal :=
  .next (if 64 ≤ arr then s else s.runBatch 2 ti tags
    (fun b s => (((b.head?.bind s.workOf).map (s.loadScales arr ti)).getD s, true)) fun _ _ s => s)

/-- SWAP_SCALES (R183). -/
def execSwapScales (tags : List Nat) (arr : Nat) (ti : TInstr) (s : State) : Host.Outcome State Fault Refusal :=
  .next (if 64 ≤ arr then s else s.runBatch 3 ti tags (fun _ s => (s.modArr arr fun a => { a with useB := !a.useB }, true)) fun _ _ s => s)

/-- A dump of an array's clip counters (R184). -/
def State.clipBytes (s : State) (arr : Nat) : Bytes :=
  leBytes 1 arr ++ zeros 7 ++ leBytes 8 s.step.number ++ (List.range 64).flatMap fun g =>
    let c := mgetD (s.arr arr).clip g (0, 0, 0)
    leBytes 4 c.1 ++ leBytes 4 c.2.1 ++ leBytes 4 c.2.2

/-- What a dump clears and raises. -/
def State.clipDumped (s : State) (arr : Nat) : State :=
  let t := s.arr arr
  let grp := fun (g : Nat) => mgetD t.clip g (0, 0, 0)
  let s1 := (List.range 64).foldl (fun (s : State) g =>
    let c := grp g
    if 1024 ≤ c.2.2 ∧ s.actN 0x5010 3 * c.2.2 < c.1 * 65536 then
      (s.raise 0x5012 (locArr arr) (g + c.1 * 65536 / c.2.2 * 2 ^ 32)).bump 0x5010 5 1
    else s) (s.modArr arr fun a => { a with clip := [] })
  if (List.range 64).any fun g => (grp g).2.1 != 0 then s1.raise 0x5013 (locArr arr) 0 else s1

/-- CLIP_DUMP (R184): every request of the batch gets the dump, which is no program's output. -/
def execClipDump (tags : List Nat) (arr : Nat) (ti : TInstr) (s : State) : Host.Outcome State Fault Refusal :=
  .next (if 64 ≤ arr then s else
    let dump := plainBuf 0 [(s.clipBytes arr).map (·.toNat)]
    s.runBatch 0x30 ti tags (fun _ s => (s.clipDumped arr, true)) fun tag _ s =>
      s.modWork tag fun w => { w with bufs := mput w.bufs ti.res dump })

/-! ### Vector units (R190, R191) -/

/-- The plot on which a batch's vector units run: the array's. -/
def State.vectorCheck (s : State) (arr : Nat) (chk : Chk) (b : List Nat) : State × Bool :=
  s.checkBatch chk (arr / 4) 0x5014 (locPlot (arr / 4)) 0x5010 4 b

/-- A checked vector operation: each request's rows as FP32 patterns with the flags of the conversions on the way, converted to
OUT_FORMAT and counted in an array's statistics. -/
def State.vectorOp (s : State) (op : Nat) (tags : List Nat) (arr : Nat) (ti : TInstr) (chk : Chk)
    (rows : State → Nat → Work → List (List Nat) × Flags) : State :=
  if 64 ≤ arr then s else
  s.runBatch op ti tags (fun b s => s.vectorCheck arr chk b) fun tag w s =>
    let x := rows s tag w
    let c := convRows ti.outFmt x.1
    (s.tally arr (if x.2.isEmpty then c.2 else bothFlags x.2 c.2)).setBuf tag ti.res c.1

/-- The first n columns of a buffer, and its first n elements, row by row. -/
def Buf.colsUpTo (b : Buf) (n : Nat) : Buf :=
  ⟨b.fmt, b.cols.take n, b.rows.map (·.take n), b.scales.map (·.take (ceilDiv n 32))⟩
def Buf.elemsUpTo (b : Buf) (n : Nat) : Buf :=
  let width := (b.rows.headD []).length
  let rows := b.rows.zipIdx.map fun r => r.1.take (n - r.2 * width)
  ⟨b.fmt, b.cols, rows.filter fun r => !r.isEmpty, b.scales⟩

/-- M and N of a vector operation (R189): M rows of N columns; N 0 makes M the count of a request's elements (log 203). -/
def State.upTo (s : State) (tag : Nat) (ti : TInstr) (b : Buf) : Buf :=
  if ti.n = 0 then b.elemsUpTo (ti.m - ((s.entriesOf tag).head?.map (·.first)).getD 0 * (b.rows.headD []).length)
  else (b.rowsUpTo (s.rowLimit tag ti)).colsUpTo ti.n

/-- Operands A and B of a vector operation, and A's rows as FP32 patterns. -/
def State.vecA (s : State) (tag : Nat) (w : Work) (ti : TInstr) : Buf :=
  s.upTo tag ti ((w.bufOf ti.opA ti.fmtA ti.m (if ti.n = 0 then 1 else ti.n)).asOperand ti.fmtA)
def Work.vecB (w : Work) (ti : TInstr) : Buf := (w.operandB ti).asOperand ti.fmtB
def Buf.f32Rows (b : Buf) : List (List Nat) := (List.range b.rows.length).map b.f32

/-- The element-wise operations on FP32 patterns, and on INT32 with saturation. -/
def ewFlt (f a b : Nat) : Nat := if f = 0 then f32add a b else if f = 1 then f32mul a b else f32sub a b
def ewInt (f : Nat) (a b : Int) : Int := clampS 32 (if f = 0 then a + b else if f = 1 then a * b else a - b)

/-- Row i of an operand; an operand of one row serves every row. -/
def bIdx (b : Buf) (i : Nat) : Nat := if b.rows.length = 1 then 0 else i

/-- EWISE on one request's operands: integers give INT32, which an integer OUT_FORMAT clamps as MODE 0 does and which other formats
convert as FP32 (log 172). -/
def ewRows (ti : TInstr) (a b : Buf) : Buf × Flags :=
  let idx := List.range a.rows.length
  if isIntFmt a.fmt ∧ isIntFmt b.fmt then
    let vs := idx.map fun i => ((rowInts a.fmt (a.rows.getD i [])).zip (rowInts b.fmt (b.rows.getD (bIdx b i) []))).map fun p => ewInt ti.func p.1 p.2
    if ti.outFmt = 0 ∨ ti.outFmt = 1 then
      let w := fmtBits ti.outFmt
      let cs := vs.map fun r => r.map fun v => ((ofSInt w (clampS w v), decide (clampS w v ≠ v), false) : Conv)
      (plainBuf ti.outFmt (cs.map fun r => r.map (·.1)), cs.flatMap flagsOf)
    else convRows ti.outFmt (vs.map fun r => r.map intTo32)
  else convRows ti.outFmt (idx.map fun i => ((a.f32 i).zip (b.f32 (bIdx b i))).map fun p => ewFlt ti.func p.1 p.2)

/-- EWISE (R190). -/
def execEwise (tags : List Nat) (arr : Nat) (ti : TInstr) (chk : Chk) (s : State) : Host.Outcome State Fault Refusal :=
  .next (if 2 < ti.func ∨ 64 ≤ arr then s else
    s.runBatch 0x10 ti tags (fun b s => s.vectorCheck arr chk b) fun tag w s =>
      let c := ewRows ti (s.vecA tag w ti) (if ti.n = 0 then w.vecB ti else (w.vecB ti).colsUpTo ti.n)
      (s.tally arr c.2).setBuf tag ti.res c.1)

/-- A function of R191 at an FP16 pattern, rounded to FP16. -/
def actFp16 (f p : Nat) : Conv :=
  let x := fdec fp16 p
  convFlt fp16 (if f = 3 then fvExp x else actExact f x)

/-- An FP32 pattern through ACT: converted to FP16, the function, and back, with the flags of both conversions. -/
def actOne (f p : Nat) : Conv :=
  let i := convFlt fp16 (fdec fp32 p)
  let o := actFp16 f i.1
  (f16to32 o.1, i.2.1 || o.2.1, i.2.2 || o.2.2)

/-- ACT (R191): a NaN and a value that saturates count in the array's statistics. -/
def execAct (tags : List Nat) (arr : Nat) (ti : TInstr) (chk : Chk) (s : State) : Host.Outcome State Fault Refusal :=
  .next (if 3 < ti.func then s else s.vectorOp 0x11 tags arr ti chk fun s tag w =>
    let rows := (s.vecA tag w ti).f32Rows.map fun r => r.map (actOne ti.func)
    (rows.map fun r => r.map (·.1), rows.flatMap flagsOf))

/-- NORM of a row: RMS, or layer normalisation. -/
def normRow (f eps : Nat) (x : List Nat) : List Nat :=
  let n := natTo32 x.length
  let d := if f = 0 then x else
    let mean := f32div (f32sum x) n
    x.map fun v => f32sub v mean
  let ms := f32div (f32sum (d.map fun v => f32mul v v)) n
  let q := f32sqrt (f32add ms eps)
  d.map fun v => f32div v q

/-- NORM (R190, R191): epsilon is the first element of operand B. -/
def execNorm (tags : List Nat) (arr : Nat) (ti : TInstr) (chk : Chk) (s : State) : Host.Outcome State Fault Refusal :=
  .next (if 1 < ti.func then s else s.vectorOp 0x12 tags arr ti chk fun s tag w =>
    let eps := ((w.vecB ti).f32 0).headD 0
    ((s.vecA tag w ti).f32Rows.map (normRow ti.func eps), []))

/-- SOFTMAX of a row of FP32 patterns (R191), with the flags of d_i's conversion and of the exponential's. -/
def softmaxConv (x : List Nat) : List Nat × List Conv :=
  let m := x.foldl (fun m v => if f32isNan m || f32lt m v then v else m) (fnan fp32)
  let e := x.map fun v => actOne 3 (f32sub v m)
  let t := f32sum (e.map (·.1))
  (e.map fun v => f32div v.1 t, e)
def softmaxRow (x : List Nat) : List Nat := (softmaxConv x).1

/-- SOFTMAX. -/
def execSoftmax (tags : List Nat) (arr : Nat) (ti : TInstr) (chk : Chk) (s : State) : Host.Outcome State Fault Refusal :=
  .next (s.vectorOp 0x13 tags arr ti chk fun s tag w =>
    let rows := (s.vecA tag w ti).f32Rows.map softmaxConv
    (rows.map (·.1), rows.flatMap fun r => flagsOf r.2))

/-- POOL of rows. -/
def poolRows (f : Nat) (rows : List (List Nat)) : List Nat :=
  let width := (rows.headD []).length
  let total := (List.range width).map fun j => f32sum (rows.map fun r => r.getD j 0)
  if f = 0 then total.map fun v => f32div v (natTo32 rows.length)
  else if f = 1 then rows.headD [] else if f = 2 then rows.getLastD [] else total

/-- POOL (R190). -/
def execPool (tags : List Nat) (arr : Nat) (ti : TInstr) (chk : Chk) (s : State) : Host.Outcome State Fault Refusal :=
  .next (if 3 < ti.func then s else s.vectorOp 0x14 tags arr ti chk fun s tag w => ([poolRows ti.func (s.vecA tag w ti).f32Rows], []))

/-- CONVERT of a buffer (R182): an integer row to an integer format clamps as MODE 0 does. -/
def convBuf (f : Nat) (a : Buf) : Buf × Flags :=
  if isIntFmt a.fmt ∧ isIntFmt f then
    let b := fmtBits f
    let cs := a.rows.map fun r => (rowInts a.fmt r).map fun v => ((ofSInt b (clampS b v), decide (clampS b v ≠ v), false) : Conv)
    (plainBuf f (cs.map fun r => r.map (·.1)), cs.flatMap flagsOf)
  else convRows f a.f32Rows

/-- CONVERT. -/
def execConvert (tags : List Nat) (arr : Nat) (ti : TInstr) (s : State) : Host.Outcome State Fault Refusal :=
  .next (if 64 ≤ arr then s else s.runBatch 0x15 ti tags noCheck fun tag w s =>
    let c := convBuf ti.outFmt (s.vecA tag w ti)
    (s.tally arr c.2).setBuf tag ti.res c.1)

/-- The comparison of R125 over a TILLER tensor's channels: Σ_k cs_k × x_k against the sum of the outputs, for every vector. -/
def tillSumsOk (x : Buf) (k : Nat) (b : Buf) (n : Nat) : Bool :=
  let ws := (chansOf b 0 n).map fun j => channelInts b.fmt ((b.rows.getD j []).take k) (b.scales.getD j [])
  let cs := columnSums k ws
  x.rows.all fun r =>
    let v := rowInts 0 (r.take k)
    dotInt cs v == (ws.map fun w => dotInt w v).foldl (· + ·) 0

/-- One MATVEC for each block and up to 16 rows (R258, R260): the groups' units take the rows into their X latches, and the outputs of a row
stand in channel order. -/
def State.issueBlocks (s : State) (ps : List TillPlace) (rows : List (List Int)) : List (List Int) × State :=
  let one := fun (p : TillPlace) (a : List (List Int) × State) (xs : List (List Int)) =>
    let ys := a.2.products p.g p.rec_ xs
    let latch := fun (t : TGroup) => { t with xIn := overlay (padTo 32768 t.xIn) 0 (xs.flatMap fun x => x.map (BitVec.ofInt 8)) }
    (a.1 ++ ys, (a.2.modTg p.g latch).putProducts p.g ys (sumsOf ys))
  ps.foldl (fun acc p =>
    let r := (groupsOf 16 rows).foldl (one p) ([], acc.2)
    ((acc.1.zip r.1).map fun y => y.1 ++ y.2, r.2)) (rows.map fun _ => [], s)

/-- The output stage of a TILL_MATVEC (R182, R260): from the blocks' outputs where the banks hold the tensor, under the registers that the
load replaced. -/
def State.tillOut (s : State) (w : Work) (ti : TInstr) (x : Buf) (reg : Nat → Nat) : (Buf × Flags) × State :=
  let b := w.operandB ti
  let ps := s.blocksOfB w ti
  if ps.isEmpty then (gemmOut x ti.k b 0 ti.n reg, s)
  else
    let y := s.issueBlocks ps (x.rows.map fun r => rowInts 0 (r.take ti.k))
    (outRows true ((List.range ti.n).map fun j => tillReg 0 b j (reg j)) (y.1.map fun r => r.map AccVal.int), y.2)

/-- TILL_MATVEC (R260): RESULT holds the INT8 input rows, and then the outputs under the tensor's registers.  A block's group that is not in
tilling mode discards its commands (R266). -/
def execTillMatvec (tags : List Nat) (ti : TInstr) (chk : TillChk) (s : State) : Host.Outcome State Fault Refusal :=
  let input := fun (tag : Nat) (w : Work) (s : State) => ((w.bufOf ti.res 0 ti.m ti.k).asFmt 0).rowsUpTo (s.rowLimit tag ti)
  .next (s.runBatch 0x45 ti tags
    (fun b s =>
      let home := (((b.head?.bind s.workOf).map (·.plot))).getD 0
      let blocks := ((b.head?.bind s.workOf).map fun w => s.blocksOfB w ti).getD []
      let sums := b.all fun tag => match s.workOf tag with
        | some w => tillSumsOk (input tag w s) ti.k (s.weightsB w ti (w.operandB ti) 0 0 fun _ => 0).1 ti.n
        | none => true
      match blocks.find? fun p => (s.tg p.g).st != 1 && (s.tg p.g).st != 2 with
      | some p => ((s.raise 0x6024 (locPlot p.g.stack) 0).loseAll b, false)
      | none =>
      let r := s.checkBatch (if sums then chk.sum else .twice) home 0x6020 (locPlot home) 0x6021 4 b
      if ¬ r.2 then r else r.1.checkBatch chk.resc home 0x5011 (locPlot home) 0x5010 4 b)
    fun tag w s =>
      let x := input tag w s
      let reg := fun (j : Nat) => ((w.tensor ti.opB).map fun t => t.reg w.runImage j).getD 0
      let o := s.tillOut w ti x reg
      (o.2.tallyNan o.1.2).setBuf tag ti.res o.1.1)

/-! ### Query encoders (R77, R192) -/

/-- The row with which an encoder's program ended, converted to FP16; OUT_DIM values, those that the row lacks being free (log 172). -/
def Work.encoded (w : Work) : List Conv :=
  let v := ((mget w.bufs w.lastOut).getD (openBuf 0 9 1 0)).vals 0
  (List.range (u16 w.image 14)).map fun j => match v[j]? with
    | some x => convFlt fp16 x
    | none => (Config.tensorOpen 31 j % 2 ^ 16, false, false)

/-- The rows of a table that an image's program may look up: none where the image does not name the table (R194, R197, log 175), or where
it is trainable and the image is no generator's. -/
def State.rowsFor (s : State) (img : Bytes) (t : Nat) : Nat :=
  match mget s.embs t with
  | some e =>
    if ((imageTables img).any fun r => r.1 == t) && (!bit (u8 e.desc 7) 0 || u8 img 6 == 4) then u32 e.desc 8 else 0
  | none => 0

/-- The first position that names no row, and DETAIL of EV 0x5020: the position, and ROWS in bits 63 to 32. -/
def State.badLookup (s : State) (img : Bytes) (ps : List (Nat × Nat)) : Option Nat :=
  (ps.findIdx? fun p => decide (s.rowsFor img p.1 ≤ p.2)).map fun i => i + s.rowsFor img ((ps.getD i (0, 0)).1) * 2 ^ 32

/-- The status of a lookup that names no row (R198): CONFLICT, and EV 0x5020. -/
def State.refuseRow (s : State) (tag det : Nat) : State :=
  match s.farOf tag with
  | some (_, f) => (s.raise 0x5020 (locPlot f.home) det).completeEmpty tag f (mkStatus 8 0)
  | none => s

/-- QUERY_PREPARE (R77, R192, R198): x is the query's own values, or the output row of the encoder's program, which has run. -/
def execQueryPrepare (tag : Nat) (chk : Chk) (s : State) : Host.Outcome State Fault Refusal :=
  .next (s.during tag 2 fun home w =>
    let bad := if pQuery w.params = 2 then s.badLookup w.image ((splitAll 8 w.query).map fun e => (u16 e 0, u32 e 4)) else none
    match bad with
    | some det => s.refuseRow tag det
    | none =>
      if pQuery w.params ≠ 0 ∧ ¬ w.prog.isEmpty then s else
      let v := if pQuery w.params = 0 then (splitAll 2 w.query).map fun b => ((leNat b, false, false) : Conv) else w.encoded
      let r := s.checkIn chk home 0x5014 (locRow home 5 0) 0x5010 4 tag
      if ¬ r.2 then r.1 else
      let s1 := if v.any fun c => c.2.1 || c.2.2 then (r.1.tallyNan (flagsOf v)).raise 0x5013 (locPlot home) 0 else r.1
      let x := v.map (·.1)
      s1.modWork tag fun w => { w with x := some (if (s.workDim w).1 = 2 then normalise x else x) })

end Sys2Proof.Machine
end

