-- ==== Sys2Proof/Machine/Gen.lean ====
section
/-! DEFINITION. Grounded generation (R206 to R226): placement of passages, rotation, attention, token choice, speculative
verification, the passes, kept caches, and the model slots' activation (R188). -/

namespace Sys2Proof.Machine

/-! ### Models (R186 to R188, R207, R209) -/

/-- The programs of the active and the staged plan set, each with its digest. -/
def State.allPrograms (s : State) : List (Bytes × Bytes) :=
  ((s.step.plan.toList ++ s.step.staged.toList).flatMap fun p => ((p.plans.head?).map Plan.programs).getD []).map fun b => (digest b, b)

/-- The tensors that a program's instructions of an opcode name as OPERAND_B. -/
def namedBy (prog : Bytes) (op : Nat) (ts : List Tensor) : List Tensor :=
  let ids := ((splitAll 32 prog).filter fun i => u16 i 0 == op).map fun i => u32 i 24
  ts.filter fun t => ids.contains t.id

/-- The tensors of a generator that its TILLER layers hold in the Tiller stacks: those that its program names in TILL_MATVEC (R208, R215).
The directory itself does not say which layer a tensor belongs to (log 176). -/
def State.tillTensors (s : State) (img : Bytes) : List Tensor :=
  if u8 img 6 ≠ 4 ∨ (sl img (genSecAt img + 64) (genLayers img)).all (· == 0) then [] else
  ((s.allPrograms.find? fun p => p.1 == sl img 32 32).map fun p => namedBy p.2 0x45 (imageTensors img)).getD []

/-- The SRAM-resident bytes of an image: all of it, but the tensors of TILLER layers; and a plot's share of them, which the plots of the
image's partition hold in equal parts (R208, R226). -/
def State.residentBytes (s : State) (img : Bytes) : Nat := img.length - sumNat ((s.tillTensors img).map (·.bytes))
def State.weightShare (s : State) (part : Nat) (img : Bytes) : Nat :=
  ceilDiv (s.residentBytes img) (max 1 (popCount (s.actN (0x9100 + part) 1) 16))

/-- The outgoing images that running requests still hold (R188), each with its partition. -/
def State.heldImages (s : State) : List (Nat × Bytes) :=
  let mine := fun (w : Work) => w.image :: (match w.gen with | some g => [g.image, g.draft] | none => [])
  let all := s.ledger.works.flatMap fun w => (mine w.2).map fun i => ((s.partOfPlot w.2.plot).getD 0, i)
  (all.filter fun x => !x.2.isEmpty && !(s.models.any fun m => m.2.image == x.2)).foldl (fun l x => if l.contains x then l else l ++ [x]) []

/-- The bytes of a plot's weight region that the loaded slots take, and with `staged` also the incoming images and the outgoing ones that
requests hold (R207, R209). -/
def State.weightsOn (s : State) (plot : Nat) (staged : Bool) : Nat :=
  let here := s.models.filter fun m => s.partOfPlot plot == some m.2.part
  sumNat (here.map fun m => s.weightShare m.2.part m.2.image) +
  (if staged then sumNat (here.map fun m => s.weightShare m.2.part ((m.2.next).getD [])) +
    sumNat ((s.heldImages.filter fun x => s.partOfPlot plot == some x.1).map fun x => s.weightShare x.1 x.2) else 0)

/-- Whether the weight region of a role holds them on every plot. -/
def State.modelsFit (s : State) (role : Nat) (staged : Bool) : Bool :=
  (List.range 16).all fun p => decide (s.weightsOn p staged ≤ weightMib role * 1048576)

/-- MODEL_DRAIN_START (R188): the residency cannot hold both images, so no request that names the slot is admitted until the
new one is active. -/
def State.doModelDrain (s : State) (slot : Nat) : State :=
  match mget s.models slot with
  | none => s
  | some m =>
    if m.next.isNone ∨ m.blocked then s else
    let block := fun (m : ModelSlot) => { m with blocked := true }
    (({ s with models := mmod s.models slot block }).setN (0x5100 + slot) 5 3).raise 0x5003 locField 0

/-- The blocks of a model's TILLER tensors take their places as it is loaded (R257, R258): each in its group, at the rows that a MATVEC record
of the plan in force names for a block of that size (log 210). -/
def State.placeTensors (s : State) (slot : Nat) (img : Bytes) (part : Nat) : State :=
  let plots := s.partPlots part
  let one := fun (ps : List TillPlace) (e : Tensor × GroupId × Nat × Nat) =>
    let fits := fun (r : Bytes) => rK r == e.1.k && rCh r == e.2.2.2 && rFmt r == (if e.1.fmt = 0 then 0 else 1) &&
      !(ps.any fun p => p.g == e.2.1 && blocksMeet p.rec_ r)
    match (s.blocksOf e.2.1).find? fits with
    | some r => ps ++ [(⟨slot, e.1.id, e.2.1, e.2.2.1, r⟩ : TillPlace)]
    | none => ps
  let all := (s.tillTensors img).flatMap fun t => (tensorBlocks t.n plots s.tillGroups).map fun b => (t, b)
  { s with tier := { s.tier with places := all.foldl one (s.tier.places.filter fun p => p.model != slot) } }

/-- MODEL_ACTIVATE (R188): the staged image becomes the slot's; an empty one empties it. -/
def State.doModelActivate (s : State) (slot : Nat) : State :=
  match mget s.models slot with
  | none => s
  | some m => match m.next with
    | none => s
    | some img =>
      let e := 0x5100 + slot
      let s1 := if img.isEmpty then { s with models := mdel s.models slot }
        else { s with models := mput s.models slot ⟨img, none, 0, false, m.part⟩ }
      let s1 := s1.placeTensors slot img m.part
      let s2 := (s1.setLive e 2 (if img.isEmpty then zeros 32 else digest img)).setN e 3 (u8 img 6)
      ((s2.setN e 4 (u16 img 14)).setN e 5 (if img.isEmpty then 0 else 2)).raise 0x5002 locField 0

/-! ### Positions (R213, R216, R220) -/

/-- The position of a node of the draft's tree in the context, and of a row that an entry of the length table covers. -/
def GenWork.nodePos (g : GenWork) (n : Nat) : Nat := g.ownPos g.fed + g.next.toList.length + treeDepth g.hdr 16 n - 1
def LenEntry.rowPos (g : GenWork) (e : LenEntry × Nat) : Nat :=
  if e.1.kind = 2 then e.1.pos + treeDepth g.hdr 16 e.2 - 1 else e.1.pos + e.2

/-- A node with its ancestors, root first. -/
def ancestors (b : Bytes) : Nat → Nat → List Nat
  | 0, n => [n]
  | fuel + 1, n => if gParent b n = 0xFF then [n] else ancestors b fuel (gParent b n) ++ [n]

/-! ### Rotation (R213) -/

/-- θ_i, and the cosine and sine of p × θ_i, as FP32. -/
def ropeTheta (base hd i : Nat) : Nat :=
  match fdec fp32 base with
  | .fin _ n d => fenc fp32 false (fvPow n d (-(2 * (i : Int))) hd)
  | _ => 0
def ropeCs (base hd i p : Nat) : Nat × Nat :=
  match fdec fp32 (ropeTheta base hd i) with
  | .fin s n d =>
    let a := fxOf s (n * p) d
    (fenc fp32 false (fxVal (fxCos a)), fenc fp32 false (fxVal (fxSin a)))
  | _ => (0, 0)

/-- A head's FP32 values rotated at a position, pair by pair. -/
def rotate (base hd p : Nat) (v : List Nat) : List Nat :=
  (List.range (hd / 2)).flatMap fun i =>
    let cs := ropeCs base hd i p
    let a := v.getD (2 * i) 0
    let b := v.getD (2 * i + 1) 0
    [f32sub (f32mul a cs.1) (f32mul b cs.2), f32add (f32mul a cs.2) (f32mul b cs.1)]

/-- FP32 values converted to KV_FORMAT, and back to exact values. -/
def toKv (fmt : Nat) (v : List Nat) : List Nat := (convRow fmt v).1.map (·.1)
def kvVals (fmt : Nat) (v : List Nat) : List FV := v.map (fdec (fltFmt fmt))
def kvF32 (fmt : Nat) (v : List Nat) : List Nat := v.map fun p => fenc fp32 false (fdec (fltFmt fmt) p)

/-! ### Placement (R210, R211, R218) -/

/-- A KV page of an image (R210), to be spliced at a position; referenced where its segment is mirrored, else copied (R218). -/
def parseKv (b : Bytes) (hd fmt at_ : Nat) (mirrored : Bool) : KvPage × Nat :=
  let e := if fmt = 2 then 1 else 2
  let n := u8 b 4
  (⟨u16 b 0, u8 b 2, mirrored, bit (u8 b 3) 1, bit (u8 b 3) 0, n, u32 b 8, (unpackElems fmt (n * hd) (sl b 64 (n * hd * e))),
    (unpackElems fmt (n * hd) (sl b (64 + 64 * hd * e) (n * hd * e)))⟩, at_)

/-- A KV page as bytes. -/
def kvBytesOf (p : KvPage) (hd fmt : Nat) : Bytes :=
  let e := if fmt = 2 then 1 else 2
  leBytes 2 p.layer ++ leBytes 1 p.head ++ leBytes 1 ((if p.rotated then 1 else 0) + (if p.ro then 2 else 0)) ++ leBytes 1 p.valid ++
  leBytes 1 fmt ++ leBytes 2 hd ++ leBytes 4 (if p.rotated then p.pos else 0) ++ zeros 52 ++
  padTo (64 * hd * e) (p.k.flatMap (leBytes e)) ++ padTo (64 * hd * e) (p.v.flatMap (leBytes e))

/-- A passage as GEN_PLACE finds it: its segment's image and root, whether its pages lie in the window, and its KV_FIRST_PAGE,
KV_PAGE_COUNT and TOKEN_COUNT. -/
structure Passage where
  image : Bytes
  root : Bytes
  mirrored : Bool
  first : Nat
  count : Nat
  tokens : Nat
  deriving DecidableEq, Repr

/-- A passage entry's reference, where the checks of R218 pass. -/
def State.passageRef (s : State) (w : Work) (p : Nat × Nat) : Option Passage :=
  match (w.shards[p.2]?).bind fun x => (s.entryOf x).map fun e => (x, e) with
  | none => none
  | some (x, h, e) => match (if e.sealed.contains (handleSeg p.1) then mget h.segs (handleSeg p.1) else none) with
    | none => none
    | some g =>
      let o := handleOff p.1
      let r := sl (segSec g.image 12) (16 * o) 16
      if decide (o < segVc g.image) && !h.invisible p.1 x.usn && segPassage g.image && segKvModel g.image == w.model && decide (1 ≤ u16 r 4) then
        some ⟨g.image, g.root, !(s.pagesOf 4 x.slot (handleSeg p.1)).isEmpty, u32 r 0, u16 r 4, u16 r 6⟩
      else none

/-- The pages of a passage, spliced at a position. -/
def Passage.pages (model : Bytes) (r : Passage) (at_ : Nat) : List (KvPage × Nat) :=
  let pairs := genLayers model * genKvHeads model
  let size := kvPageBytes model
  (List.range r.count).flatMap fun j => (List.range pairs).map fun q =>
    parseKv (sl (segSec r.image 13) (((r.first + j) * pairs + q) * size) size) (genHeadDim model) (genKvFmt model) (at_ + 64 * j) r.mirrored

/-- Change a request's generation state. -/
def State.modGen (s : State) (tag : Nat) (f : GenWork → GenWork) : State :=
  s.modWork tag fun w => { w with gen := w.gen.map f }

/-- A step of a generation in a phase. -/
def State.genPhase (s : State) (tag phase : Nat) (k : Nat → Work → GenWork → State) : State :=
  s.during tag phase fun home w => match w.gen with
    | none => s
    | some g => k home w g

/-- A refusal of a passage: CONFLICT with an empty body; DETAIL names the entry, or the count of entries where no one of them fails but
the context is too long (log 155). -/
def State.refuseGen (s : State) (tag home entry : Nat) : State :=
  match s.farOf tag with
  | some (_, f) => (s.raise 0x5041 (locPlot home) entry).completeEmpty tag f (mkStatus 8 0)
  | none => s

/-- The program of a pass: the draft's, if there is a draft, and then the generator's; or the reranker's (R189, R193, R221). -/
def State.passProg (s : State) (g : GenWork) : List TStep :=
  (if u8 g.hdr 0 = 1 then [] else s.programOf true g.draft) ++ s.programOf false g.image

/-- A request's next pass begins: its program stands at its first instruction, and its working buffers are its own again. -/
def State.loadPass (s : State) (tag : Nat) : State :=
  s.modWork tag fun w => match w.gen with
    | some g => { w.clearBufs with prog := s.passProg g, gen := some { g with tried := 0 } }
    | none => w

/-- GEN_PLACE (R217, R218). -/
def execGenPlace (tag : Nat) (s : State) : Host.Outcome State Fault Refusal :=
  .next (s.genPhase tag 0x20 fun home w g =>
    if g.stage ≠ 0 then s
    else if gForm g.hdr = 1 then
      match g.passages.findIdx? fun e => decide (g.block.length < e.1 + e.2) with
      | some i => s.refuseGen tag home i
      | none =>
        let s1 := s.modGen tag fun g => { g with stage := 1 }
        if g.passages.isEmpty then s1 else s1.loadPass tag
    else
      let refs := g.passages.map (s.passageRef w)
      match refs.findIdx? (·.isNone) with
      | some i => s.refuseGen tag home i
      | none =>
        let rs := refs.filterMap fun r => r
        let total := g.base + gPrompt g.hdr + sumNat (rs.map (·.tokens)) + gMaxNew g.hdr
        if genMaxCtx g.image < total ∨ kindVisits (s.kinds.getD w.kindId []) < total then s.refuseGen tag home rs.length
        else
          let placed := rs.foldl (fun (st : List (KvPage × Nat) × Nat) r =>
            (st.1 ++ r.pages g.image st.2, st.2 + r.tokens)) ([], g.base + gPrefix g.hdr)
          let s1 := s.modGen tag fun g => { g with stage := 1, pages := g.pages ++ placed.1, roots := rs.map (·.root) }
          if g.prompt.isEmpty then s1 else s1.loadPass tag)

/-! ### Appending (R210, R215) -/

/-- A page's first position in the context, and whether an own page may take a token at a position. -/
def takes (layer head pos : Nat) (p : KvPage × Nat) : Bool :=
  p.1.layer == layer && p.1.head == head && !p.1.ro && decide (p.2 ≤ pos) && decide (pos < p.2 + 64) && decide (pos ≤ p.2 + p.1.valid)

/-- Replace the n elements at a slot of a block. -/
def putSlot (hd slot : Nat) (blk v : List Nat) : List Nat :=
  let b := blk ++ List.replicate (hd * (slot + 1) - blk.length) 0
  b.take (hd * slot) ++ v ++ b.drop (hd * (slot + 1))

/-- Write a key or value of a token at its slot of the sequence's own pages; a token that no own page takes starts one, kept in
page-table order by position. -/
def appendKv (hd layer head pos : Nat) (rotated key : Bool) (v : List Nat) (pages : List (KvPage × Nat)) : List (KvPage × Nat) :=
  let put := fun (p : KvPage × Nat) =>
    let slot := pos - p.2
    let n := max p.1.valid (slot + 1)
    (if key then { p.1 with k := putSlot hd slot p.1.k v, valid := n } else { p.1 with v := putSlot hd slot p.1.v v, valid := n }, p.2)
  if pages.any (takes layer head pos) then pages.map fun p => if takes layer head pos p then put p else p
  else
    let fresh := put (⟨layer, head, false, false, rotated, 0, pos, [], []⟩, pos)
    (pages.filter fun p => decide (p.2 ≤ pos)) ++ [fresh] ++ pages.filter fun p => !decide (p.2 ≤ pos)

/-- The buffer that holds the keys or values of the verification nodes of a (layer, KV head) pair until VERIFY accepts them. -/
def nodeBuf (draft : Bool) (layer head : Nat) (key : Bool) : Nat :=
  2 ^ 32 + (((if draft then 256 else 0) + layer) * 64 + head) * 2 + (if key then 0 else 1)

/-- Whether a request's draft model runs, and the pages that the running model attends. -/
def Work.drafting (w : Work) : Bool := (w.prog.head?.map (·.draft)).getD false
def GenWork.pagesOf (g : GenWork) (draft : Bool) : List (KvPage × Nat) := if draft then g.dpages else g.pages
def GenWork.setPages (g : GenWork) (draft : Bool) (ps : List (KvPage × Nat)) : GenWork :=
  if draft then { g with dpages := ps } else { g with pages := ps }

/-- Operand B of a cache instruction, and the rows that the length table covers, each with its FP32 values. -/
def State.coveredRows (s : State) (tag : Nat) (w : Work) (ti : TInstr) : List ((LenEntry × Nat) × List Nat) :=
  let b := (w.vecB ti).rowsUpTo (s.rowLimit tag ti)
  (rowsOf (s.entriesOf tag)).zip b.f32Rows

/-- KV_APPEND on one request: operand B holds one row per row of the pass, KV_HEADS heads of HEAD_DIM values side by side; N is the
layer.  Keys are rotated, but for those of a passage page, and both are converted to KV_FORMAT (R211, R213). -/
def State.kvAppend (s : State) (tag arr : Nat) (ti : TInstr) (w : Work) (g : GenWork) : State :=
  let img := w.runImage
  let hd := genHeadDim img
  let fmt := genKvFmt img
  let key := ti.func == 0
  let heads := List.range (genKvHeads img)
  let conv := fun (e : (LenEntry × Nat) × List Nat) (h : Nat) =>
    let v := (e.2.drop (h * hd)).take hd
    (convRow fmt (if key && !g.passg then rotate (genRopeBase img) hd (LenEntry.rowPos g e.1) v else v)).1
  let rows := (s.coveredRows tag w ti).map fun e => (e.1, heads.map (conv e))
  let vals := fun (r : (LenEntry × Nat) × List (List Conv)) (h : Nat) => (r.2.getD h []).map (·.1)
  let own := rows.filter fun r => r.1.1.kind != 2
  let nodes := rows.filter fun r => r.1.1.kind == 2
  let pages := own.foldl (fun ps r => heads.foldl (fun ps h => appendKv hd ti.n h (LenEntry.rowPos g r.1) (!g.passg) key (vals r h) ps) ps)
    (g.pagesOf w.drafting)
  let s1 := (s.tally arr (rows.flatMap fun r => flagsOf r.2.flatten)).modGen tag fun g => g.setPages w.drafting pages
  if nodes.isEmpty then s1
  else s1.modWork tag fun w => { w with bufs := heads.foldl (fun m h =>
    mput m (nodeBuf w.drafting ti.n h key) (plainBuf fmt (nodes.map fun r => vals r h))) w.bufs }

/-- Run a cache instruction on the generations of a batch. -/
def State.genOp (s : State) (op : Nat) (tags : List Nat) (arr : Nat) (ti : TInstr) (f : Nat → Work → GenWork → State → State) : State :=
  if 64 ≤ arr then s else
  s.runBatch op ti tags noCheck fun tag w s => match w.gen with
    | some g => f tag w g s
    | none => s

/-- KV_APPEND (R215). -/
def execKvAppend (tags : List Nat) (arr : Nat) (ti : TInstr) (s : State) : Host.Outcome State Fault Refusal :=
  .next (s.genOp 0x40 tags arr ti fun tag w g s => s.kvAppend tag arr ti w g)

/-- ROPE_Q (R213, R214 step 1): query rows, HEADS heads of HEAD_DIM values side by side, rotated and converted to KV_FORMAT. -/
def execRopeQ (tags : List Nat) (arr : Nat) (ti : TInstr) (s : State) : Host.Outcome State Fault Refusal :=
  .next (s.genOp 0x41 tags arr ti fun tag w g s =>
    let img := w.runImage
    let hd := genHeadDim img
    let rows := (s.coveredRows tag w ti).map fun e =>
      (groupsOf hd e.2).flatMap fun v => (convRow (genKvFmt img) (rotate (genRopeBase img) hd (LenEntry.rowPos g e.1) v)).1
    (s.tally arr (rows.flatMap flagsOf)).setBuf tag ti.res (plainBuf (genKvFmt img) (rows.map fun r => r.map (·.1))))

/-! ### Attention (R214, R220) -/

/-- 1 / sqrt(n) as FP32, correctly rounded: the root is taken to 200 places and a remainder kept below them. -/
def invSqrt (n : Nat) : Nat :=
  let v := 2 ^ 400 / max n 1
  let r := isqrt v
  fenc fp32 false (.fin false (if r * r = v ∧ 2 ^ 400 % max n 1 = 0 then 2 * r else 2 * r + 1) (2 ^ 201))

/-- The valid slots of a page before a position, as keys and values; the keys of an unrotated page are rotated as they are loaded. -/
def slotsOf (base hd fmt top : Nat) (x : KvPage × Nat) : List (List FV × List FV) :=
  ((List.range x.1.valid).filter fun t => decide (x.2 + t < top)).map fun t =>
    let k := (x.1.k.drop (t * hd)).take hd
    let k := if x.1.rotated then k else toKv fmt (rotate base hd (x.2 + t) (kvF32 fmt k))
    (kvVals fmt k, kvVals fmt ((x.1.v.drop (t * hd)).take hd))

/-- The position before which a row attends the slots of its sequence's pages (R220): its own is among them in a decode row. -/
def LenEntry.top (g : GenWork) (row : LenEntry × Nat) : Nat :=
  if row.1.kind = 2 then row.1.ctx else if row.1.kind = 1 then LenEntry.rowPos g row + 1 else LenEntry.rowPos g row

/-- The keys and values that a row attends, page by page (R220): the valid slots of the sequence's pages before the row (a decode row's
own slot included), then the ancestors of a verification node and itself as one final page. -/
def Work.attended (w : Work) (g : GenWork) (layer head : Nat) (row : LenEntry × Nat) : List (List (List FV × List FV)) :=
  let img := w.runImage
  let hd := genHeadDim img
  let fmt := genKvFmt img
  let own := ((g.pagesOf w.drafting).filter fun x => x.1.layer == layer && x.1.head == head).map
    (slotsOf (genRopeBase img) hd fmt (LenEntry.top g row))
  if row.1.kind ≠ 2 then own
  else
    let ks := ((mget w.bufs (nodeBuf w.drafting layer head true)).map (·.rows)).getD []
    let vs := ((mget w.bufs (nodeBuf w.drafting layer head false)).map (·.rows)).getD []
    own ++ [(ancestors g.hdr 16 row.2).map fun a => (kvVals fmt (ks.getD a []), kvVals fmt (vs.getD a []))]

/-- The scores of a row and head over its pages. -/
def scoresOf (sc : Nat) (q : List FV) (pages : List (List (List FV × List FV))) : List (List Nat) :=
  pages.map fun pg => pg.map fun t => f32mul (dotFlt q t.1) sc

/-- The maximum of a row's scores (R214); minus infinity where every score is a NaN (log 197). -/
def maxScore (sc : List (List Nat)) : Nat := (sc.flatten).foldl (fun m v => if f32lt m v then v else m) 0xFF800000

/-- e_t of the scores of a page, with the flags of the conversions. -/
def pageExps (m : Nat) (sc : List Nat) : List Conv := sc.map fun x => actOne 3 (f32sub x m)

/-- S_j and O_j of a page: exact sums, rounded once. -/
def pagePartial (m hd : Nat) (pg : List (List FV × List FV)) (sc : List Nat) : List Nat :=
  let e := (pageExps m sc).map fun c => fdec fp32 c.1
  let sum := fun (l : List FV) => fenc fp32 false (l.foldl fvAdd (.fin false 0 1))
  sum e :: (List.range hd).map fun i => sum ((e.zip pg).map fun x => fvMul x.1 (x.2.2.getD i (.fin false 0 1)))

/-- A row's work per query head, over the pages that it attends and their scores. -/
def Work.perHead {α : Type} (w : Work) (g : GenWork) (layer : Nat) (row : LenEntry × Nat) (q : List FV)
    (f : List (List (List FV × List FV)) → List (List Nat) → List α) : List α :=
  let img := w.runImage
  let hd := genHeadDim img
  let group := genHeads img / max (genKvHeads img) 1
  let sc := invSqrt hd
  (List.range (genHeads img)).flatMap fun h =>
    let pages := w.attended g layer (h / max group 1) row
    f pages (scoresOf sc ((q.drop (h * hd)).take hd) pages)

/-- The rows of queries that an attention instruction reads of operand B, as values. -/
def State.queryRows (s : State) (tag : Nat) (w : Work) (ti : TInstr) : List ((LenEntry × Nat) × List FV) :=
  let b := (w.vecB ti).rowsUpTo (s.rowLimit tag ti)
  (rowsOf (s.entriesOf tag)).zip ((List.range b.rows.length).map b.vals)

/-- ATTN_MAX (R214 step 4): the maxima of each row's heads. Operand B holds the query rows; N is the layer. -/
def execAttnMax (tags : List Nat) (arr : Nat) (ti : TInstr) (s : State) : Host.Outcome State Fault Refusal :=
  .next (s.genOp 0x42 tags arr ti fun tag w g s =>
    s.setBuf tag ti.res (plainBuf 9 ((s.queryRows tag w ti).map fun r => w.perHead g ti.n r.1 r.2 fun _ sc => [maxScore sc])))

/-- The queries of a row whose partials a member is asked for, one to a query head of the KV heads that `lies` says lie on it: KV_HEAD,
the position before which slots are attended, the maximum, and the query in KV_FORMAT (log 204). -/
def Work.queriesOf (w : Work) (g : GenWork) (layer : Nat) (lies : Nat → Bool) (r : (LenEntry × Nat) × List FV) : Bytes :=
  let img := w.runImage
  let hd := genHeadDim img
  let group := max 1 (genHeads img / max (genKvHeads img) 1)
  let fmt := genKvFmt img
  ((w.perHead g layer r.1 r.2 fun _ sc => [maxScore sc]).zipIdx.filter fun h => lies (h.2 / group)).flatMap fun h =>
    leBytes 1 (h.2 / group) ++ zeros 3 ++ leBytes 4 (LenEntry.top g r.1) ++ leBytes 4 h.1 ++
      ((r.2.drop (h.2 * hd)).take hd).flatMap fun v => leBytes (fmtBits fmt / 8) (fenc (fltFmt fmt) true v)

/-- Ask the other members of a cache's spread for the partials of their pages (R225): those of its committed length. -/
def State.askPartials (s : State) (tag layer : Nat) (w : Work) (g : GenWork) (rows : List ((LenEntry × Nat) × List FV)) : State :=
  if g.base = 0 ∨ w.drafting then s else
  g.members.zipIdx.foldl (fun (s : State) m =>
    let port := s.memberPort m.1
    let lies := fun (head : Nat) => g.spread != 1 || head % max 1 g.members.length == m.2
    if port < 16 then
      (s.sendHedge port 11 tag 0 (pageHead 1 layer g.base (g.key.getD tag) ++ rows.flatMap (w.queriesOf g layer lies))).modGen tag fun g =>
        { g with asked := setBit g.asked port }
    else s) s

/-- ATTN_PAGE (R214 steps 4 and 5): per row and head, each page's S_j and O_j.  Those of pages on other members are the same numbers,
and are asked for; the home node combines them once they are there (R225). -/
def execAttnPage (tags : List Nat) (arr : Nat) (ti : TInstr) (s : State) : Host.Outcome State Fault Refusal :=
  .next (s.genOp 0x43 tags arr ti fun tag w g s =>
    let rows := s.queryRows tag w ti
    let out := rows.map fun r =>
      w.perHead g ti.n r.1 r.2 fun pages sc => (pages.zip sc).flatMap fun x => pagePartial (maxScore sc) (genHeadDim w.runImage) x.1 x.2
    let fl := rows.flatMap fun r => flagsOf (w.perHead g ti.n r.1 r.2 fun _ sc => sc.flatMap (pageExps (maxScore sc)))
    ((s.tally arr fl).setBuf tag ti.res (plainBuf 9 out)).askPartials tag ti.n w g rows)

/-- A head's output from its pages' partials (R214 step 6). -/
def combine (hd : Nat) (parts : List (List Nat)) : List Nat :=
  let s := parts.foldl (fun a p => f32add a (p.getD 0 0)) 0
  (List.range hd).map fun i => f32div (parts.foldl (fun a p => f32add a (p.getD (i + 1) 0)) 0) s

/-- ATTN_COMBINE (R214 step 6): operand B holds the partials that ATTN_PAGE left. -/
def execAttnCombine (tags : List Nat) (arr : Nat) (ti : TInstr) (s : State) : Host.Outcome State Fault Refusal :=
  .next (s.genOp 0x44 tags arr ti fun tag w _ s =>
    let hd := genHeadDim w.runImage
    let heads := max (genHeads w.runImage) 1
    let rows := (s.coveredRows tag w ti).map fun r =>
      (groupsOf (r.2.length / heads) r.2).flatMap fun h => combine hd (groupsOf (hd + 1) h)
    let c := convRows ti.outFmt rows
    (s.tally arr c.2).setBuf tag ti.res c.1)

/-! ### Choosing tokens (R221, R222) -/

/-- Whether logit a ranks above logit b; a NaN lies below every number. -/
def logitAbove (a b : Nat) : Bool := if f32isNan b then !f32isNan a else f32lt b a

/-- Greedy: the highest logit, the lowest token among equals. -/
def greedy (l : List Nat) : Nat :=
  (l.zipIdx.foldl (fun (m : Nat × Nat) v => if logitAbove v.1 m.1 then (v.1, v.2) else m) (fnan fp32, 0)).2

/-- The tokens by logit descending, equal logits by ascending token: rank r of them. -/
def draftRank (l : List Nat) (r : Nat) : Nat :=
  ((sortBy (fun (a b : Nat × Nat) => logitAbove a.1 b.1) l.zipIdx).map (·.2)).getD r 0

/-- The random number u of a position, as FP32. -/
def drawU (seed p : Nat) : Nat :=
  let w := leNat ((shake256 (leBytes 8 seed ++ leBytes 8 p) 32).take 8)
  fenc fp32 false (fvMul (fdec fp32 (natTo32 (w / 2 ^ 40))) (fvPow2 (-24)))

/-- Seeded: the least token whose cumulative probability passes u, or the highest of positive probability.  A NaN logit is below every
number: minus infinity. -/
def seeded (temp seed p : Nat) (l : List Nat) : Nat :=
  let y := softmaxRow (l.map fun v => f32div (if f32isNan v then 0xFF800000 else v) temp)
  let u := drawU seed p
  let cum := (y.foldl (fun (c : List Nat × Nat) v => (c.1 ++ [f32add c.2 v], f32add c.2 v)) ([], 0)).1
  match cum.findIdx? fun c => f32lt u c with
  | some i => i
  | none => ((y.zipIdx.filter fun v => f32lt 0 v.1).getLast?.map (·.2)).getD 0

/-- A node's rank among its siblings. -/
def siblingRank (b : Bytes) (n : Nat) : Nat := ((List.range n).filter fun m => gParent b m == gParent b n).length

/-- The draft's nodes that it knows after a run: those that it had, and in order those whose parent's row of logits is there; the
context's own row is the first where `ctx` says that it ran (R221). -/
def draftNodes (b : Bytes) (old : List Nat) (ctx : Bool) (rows : List (List Nat)) : List Nat :=
  let row := fun (n : Nat) => if gParent b n = 0xFF then (if ctx then 0 else rows.length) else gParent b n + (if ctx then 1 else 0)
  (((List.range (gTree b)).takeWhile fun n => decide (n < old.length) || decide (row n < rows.length)).map fun n =>
    (old[n]?).getD (draftRank (rows.getD (row n) []) (siblingRank b n)))

/-- TOKEN_CHOOSE on one request (R222): operand B holds the logits of the pass's rows, one per position.  FUNC 0 and 1 choose for the
request whose DECODE names it; FUNC 2 extends the tree of a draft that runs (log 173). -/
def State.tokenChoose (s : State) (tag : Nat) (ti : TInstr) (w : Work) (g : GenWork) : State :=
  let rows := s.coveredRows tag w ti
  if ti.func = 2 then
    let ds := if g.stage < 2 then draftNodes g.hdr [] true ((rows.getLast?.map (·.2)).toList)
      else draftNodes g.hdr g.drafts g.next.isSome (rows.map (·.2))
    let s1 := s.setBuf tag ti.res (plainBuf 16 (ds.map fun t => [t]))
    if w.drafting then s1.modGen tag fun g => { g with drafts := ds } else s1
  else
    let pos := fun (e : LenEntry × Nat) => if g.stage < 2 then g.base + g.spliced + g.prompt.length else LenEntry.rowPos g e + 1
    let ts := rows.map fun r => if ti.func = 0 then greedy r.2 else seeded (gTemp g.hdr) (gSeed g.hdr) (pos r.1) r.2
    let s1 := s.setBuf tag ti.res (plainBuf 16 (ts.map fun t => [t]))
    if w.drafting ∨ ti.func ≠ gDecode g.hdr then s1
    else s1.modGen tag fun g =>
      { g with choice := if g.stage < 2 then ts.getLast?.toList else if g.next.isSome then ts else g.choice.take 1 ++ ts }

/-- TOKEN_CHOOSE (R222). -/
def execTokenChoose (tags : List Nat) (arr : Nat) (ti : TInstr) (s : State) : Host.Outcome State Fault Refusal :=
  .next (if 2 < ti.func then s else s.genOp 0x46 tags arr ti fun tag w g s => s.tokenChoose tag ti w g)

/-- The accepted path: from the context's choice, child after child whose token is the choice before it. -/
def acceptPath (b : Bytes) (drafts choice : List Nat) : Nat → Nat → Nat → List Nat
  | 0, _, _ => []
  | fuel + 1, par, want =>
    match (List.range drafts.length).find? fun n => gParent b n == par && drafts.getD n 0 == want with
    | none => []
    | some n => n :: acceptPath b drafts choice fuel n (choice.getD (n + 1) 0)

/-- What a pass emits: the accepted tokens and one further token. -/
def GenWork.passTokens (g : GenWork) : List Nat :=
  g.path.map (fun n => g.drafts.getD n 0) ++
    [match g.path.getLast? with | some n => g.choice.getD (n + 1) 0 | none => g.choice.getD 0 0]

/-- The tokens that are kept of an emission: up to a stop token, and up to MAX_NEW_TOKENS; with STOP_REASON. -/
def keepTokens (b : Bytes) (room : Nat) (ts : List Nat) : List Nat × Nat :=
  let stops := gStopTokens b
  let cut := (ts.takeWhile fun t => !stops.contains t).length
  let k := ts.take (cut + 1)
  if cut < ts.length ∧ cut + 1 ≤ room then (k, 1)
  else if room ≤ k.length then (k.take room, 2) else (k, 0)

/-- The pages of a model with the keys and values of accepted nodes. -/
def GenWork.accept (g : GenWork) (w : Work) (draft : Bool) (path : List Nat) : List (KvPage × Nat) :=
  let img := if draft then g.draft else g.image
  let pairs := (List.range (genLayers img)).flatMap fun l => (List.range (genKvHeads img)).map fun h => (l, h)
  path.foldl (fun ps n => pairs.foldl (fun ps q => [true, false].foldl (fun ps key =>
    match (mget w.bufs (nodeBuf draft q.1 q.2 key)).bind fun b => b.rows[n]? with
    | some v => appendKv (genHeadDim img) q.1 q.2 (g.nodePos n) true key v ps
    | none => ps) ps) ps) (g.pagesOf draft)

/-- VERIFY on one request: the accepted path; the keys and values of its nodes, as far as their tokens are kept, join the pages. -/
def State.verify (s : State) (tag : Nat) (w : Work) (g : GenWork) : State :=
  match (if g.stage = 2 then g.choice else []) with
  | [] => s
  | a :: _ =>
    let path := acceptPath g.hdr g.drafts g.choice 8 0xFF a
    let g1 := { g with path := path }
    let kept := path.take (keepTokens g.hdr (gMaxNew g.hdr - g.out.length) g1.passTokens).1.length
    let pages := g.accept w false kept
    let dpages := if g.draft.isEmpty then g.dpages else g.accept w true kept
    s.modGen tag fun g => { g with path := path, pages := pages, dpages := dpages }

/-- VERIFY (R221). -/
def execVerify (tags : List Nat) (ti : TInstr) (s : State) : Host.Outcome State Fault Refusal :=
  .next (s.genOp 0x48 tags 0 ti fun tag w g s => s.verify tag w g)

/-! ### The phases (R218, R225) -/

/-- A checked pass: an uncorrected error of a cache page loses the request and frees the kept cache (R225). -/
def State.genCheck (s : State) (tag home : Nat) (g : GenWork) (chk : Chk) : State × Bool :=
  if (Chk.ue chk).isSome then
    let s1 := (s.raise 0x5046 (locPlot home) 0).lose tag 9
    (if 2 ≤ gCacheOp g.hdr then s1.dropCaches fun c => c.1 == g.cache else s1, false)
  else s.checkIn chk home 0x5010 (locRow home 5 0) 0x5010 4 tag

/-- Send each other member of a cache's spread those of the pages that the request appended which lie on it (R225): by KV head, or by own
block. -/
def State.sendPages (s : State) (tag : Nat) (g : GenWork) : State :=
  let n := g.members.length
  let own := g.pages.filter fun p => !p.1.ro && decide (g.base < p.2 + p.1.valid)
  let block := fun (p : KvPage × Nat) =>
    (g.pages.filter fun x => !x.1.ro && x.1.layer == p.1.layer && x.1.head == p.1.head && decide (x.2 < p.2)).length
  let rank := fun (p : KvPage × Nat) => (if g.spread = 1 then p.1.head else block p) % max n 1
  g.members.zipIdx.foldl (fun (s : State) m =>
    let port := s.memberPort m.1
    if port < 16 then
      s.sendHedge port 11 tag 0 (pageHead 0 0 g.base (g.key.getD tag) ++
        (own.filter fun x => rank x == m.2).flatMap fun x => kvBytesOf x.1 (genHeadDim g.image) (genKvFmt g.image))
    else s) s

/-- PREFILL (R218, R220): one pass of at most 256 rows of the request has appended its pages; the phase ends with the last.  A context
that ends with a passage, or that has no token of its own, has no row whose logits choose its next token (log 173). -/
def execPrefill (tag : Nat) (chk : Chk) (s : State) : Host.Outcome State Fault Refusal :=
  .next (s.genPhase tag 0x21 fun home w g =>
    if g.stage ≠ 1 ∨ ¬ w.prog.isEmpty then s else
    let r := s.genCheck tag home g chk
    if ¬ r.2 then r.1 else
    let fed := g.fed + g.rowTokens.length
    if g.prompt.length ≤ fed then
      let blind := g.prompt.isEmpty || (gPrefix g.hdr == g.prompt.length && g.spliced != 0)
      (r.1.modGen tag fun g => { g with
        fed := fed, stage := 2, choice := if blind then [] else g.choice, drafts := if blind then [] else g.drafts }).loadPass tag
    else (r.1.modGen tag fun g => { g with fed := fed }).loadPass tag)

/-- The token of a pass that has no choice: a free value (log 173). -/
def State.anyToken (s : State) (g : GenWork) : GenWork × State :=
  if g.done || !g.choice.isEmpty then (g, s) else ({ g with choice := [s.free.1 % max 1 (genVocab g.image)] }, s.free.2)

/-- The Keccak cores that form GEN_DIGEST at the end of a generation's last phase (R120, R224). -/
def State.hashCheck (s : State) (tag home : Nat) (chk : Chk) : State × Bool := s.checkIn chk home 0x3054 (locPlot home) 0x3013 5 tag

/-- DECODE (R218, R221, R222): the end of one pass, which emits its tokens unless generation has stopped. -/
def execDecode (tag : Nat) (chk : GenChk) (s : State) : Host.Outcome State Fault Refusal :=
  .next (s.genPhase tag 0x22 fun home w g0 =>
    if g0.stage ≠ 2 ∨ ¬ w.prog.isEmpty then s else
    let r := s.genCheck tag home g0 chk.pass
    if ¬ r.2 then r.1 else
    let any := r.1.anyToken g0
    let g := any.1
    let left := g.passes - 1
    let k := if g.done then ([], g.stop) else keepTokens g.hdr (gMaxNew g.hdr - g.out.length) g.passTokens
    let grown := g.fed + g.next.toList.length + min g.path.length k.1.length
    let ended := g.done || k.2 != 0
    let s1 := any.2.modGen tag fun g => { g with
      fed := if g.done then g.fed else grown, next := if g.done then g.next else k.1.getLast?, out := g.out ++ k.1, stop := k.2,
      done := ended, passes := left, emitting := g.emitting + (if k.1.isEmpty then 0 else 1),
      accepted := g.accepted + (if g.done then 0 else g.path.length), choice := [], drafts := [], path := [],
      stage := if left = 0 then 3 else 2 }
    let s2 := ((s1.modWork tag fun w => { w with bufs := [] }).bump 0x5400 0x0A k.1.length).bump 0x5400 0x0B (if g.done then 0 else g.path.length)
    if left ≠ 0 then (if ended then s2 else s2.loadPass tag) else
    let h := s2.hashCheck tag home chk.hash
    if h.2 then h.1.sendPages tag g else h.1)

/-- SCORE (R193, R218): the reranker's program has run on a pair, or on a part of 1,024 rows of one; the one output value of its last
pass is the passage's score. -/
def execScore (tag : Nat) (chk : GenChk) (s : State) : Host.Outcome State Fault Refusal :=
  .next (s.genPhase tag 0x23 fun home w g =>
    let n := gPassages g.hdr
    if g.stage ≠ 1 ∨ ¬ w.prog.isEmpty then s
    else
      let hash := fun (s : State) => (s.hashCheck tag home chk.hash).1
      if n ≤ g.scores.length then hash (s.modGen tag fun g => { g with stage := 3 })
      else
        let r := s.checkIn chk.pass home 0x5010 (locRow home 5 0) 0x5010 4 tag
        if ¬ r.2 then r.1
        else if g.fed + g.rowTokens.length < g.pair.length then
          (r.1.modGen tag fun g => { g with fed := g.fed + g.rowTokens.length }).loadPass tag
        else
          let v := (((mget w.bufs w.lastOut).getD (openBuf 0 9 1 1)).f32 0).headD 0
          let last := decide (n ≤ g.scores.length + 1)
          let s1 := r.1.modGen tag fun g => { g with scores := g.scores ++ [v], stage := if last then 3 else 1, fed := 0, pages := [] }
          if last then hash s1 else s1.loadPass tag)

/-! ### The members of a cache's spread (R225) -/

/-- The pages of a message, which name their HEAD_DIM and KV_FORMAT. -/
def parsePages (b : Bytes) : List (KvPage × Nat) :=
  let hd := u16 b 6
  let fmt := u8 b 5
  (splitAll (64 + 128 * hd * (if fmt = 2 then 1 else 2)) b).map fun p => parseKv p hd fmt (u32 p 8) false

/-- Whether two pages are the same page of a sequence. -/
def samePage (a b : KvPage × Nat) : Bool := a.1.layer == b.1.layer && a.1.head == b.1.head && a.2 == b.2

/-- Store the pages that a home node appended, in place of those that they continue, and acknowledge them. -/
def State.takePages (s : State) (port tag : Nat) (body : Bytes) : State :=
  let key := u64 body 8
  let b := body.drop 16
  let new := parsePages b
  let is := fun (l : Lent) => l.port == port && l.key == key
  let old := (s.tier.lent.find? is).getD ⟨port, key, u16 b 6, u8 b 5, []⟩
  let l := { old with pages := (old.pages.filter fun p => !new.any (samePage p)) ++ new }
  let kept := s.tier.lent.filter fun x => !is x
  ({ s with tier := { s.tier with lent := if new.isEmpty then s.tier.lent else kept ++ [l] } }).sendHedge port 11 tag 0 (pageHead 3 0 0 key)

/-- The partials of a query over the pages that a member holds, each after its page's first position. -/
def Lent.partials (l : Lent) (layer base : Nat) (q : Bytes) : Bytes :=
  let x := kvVals l.fmt (unpackElems l.fmt l.hd (q.drop 12))
  ((l.pages.filter fun p => p.1.layer == layer && p.1.head == u8 q 0)).flatMap fun p =>
    let slots := slotsOf 0 l.hd l.fmt (min base (u32 q 4)) p
    leBytes 4 p.2 ++ (pagePartial (u32 q 8) l.hd slots ((scoresOf (invSqrt l.hd) x [slots]).headD [])).flatMap (leBytes 4)

/-- Answer the queries of a home node. -/
def State.answerQueries (s : State) (port tag : Nat) (body : Bytes) : State :=
  match s.tier.lent.find? fun l => l.port == port && l.key == u64 body 8 with
  | none => s
  | some l => s.sendHedge port 11 tag 0 (pageHead 2 (u16 body 2) (u32 body 4) l.key ++
      (splitAll (12 + l.hd * (fmtBits l.fmt / 8)) (body.drop 16)).flatMap (l.partials (u16 body 2) (u32 body 4)))

/-- A member's acknowledgement in PEER_WAIT. -/
def State.takePageAck (s : State) (port tag : Nat) : State :=
  match s.farOf tag with
  | none => s
  | some (c, f) =>
    if f.phase ≠ 0x24 then s else
    let acks := setBit (((s.workOf tag).map (·.acks)).getD 0) port
    let s1 := s.modWork tag fun w => { w with acks := acks }
    let ports := (((s.workOf tag).bind (·.gen)).map s.otherPorts).getD []
    if ports.all (bit acks) then s1.modFar c fun f => { f with phase := 0x0B } else s1

/-- Whether a request waits for a member's partials or acknowledgement. -/
def State.awaits (s : State) (tag port : Nat) : Bool :=
  match s.farOf tag, s.workOf tag with
  | some (_, f), some w => match w.gen with
    | some g => (f.phase == 0x24 && (s.otherPorts g).contains port && !bit w.acks port) || bit g.asked port
    | none => false
  | _, _ => false

/-- PAGE_PARTIALS (R225): a message of a cache's home node or of a member, or the absence of what a member owes at its planned slot. -/
def execPagePartials (tag port : Nat) (body : Bytes) (late : Bool) (s : State) : Host.Outcome State Fault Refusal :=
  .next (if late then (if s.awaits tag port then (s.raise 0x5045 (locHedge port) 0).lose tag 9 else s)
    else if u8 body 0 = 0 then s.takePages port tag body
    else if u8 body 0 = 1 then s.answerQueries port tag body
    else if u8 body 0 = 2 then s.modGen tag fun g => { g with asked := clrBit g.asked port }
    else if u8 body 0 = 3 then s.takePageAck port tag
    else if u8 body 0 = 4 then
      let ended := fun (l : Lent) => l.port == port && l.key == u64 body 8
      { s with tier := { s.tier with lent := s.tier.lent.filter fun l => !ended l } }
    else s)

/-- CACHE_RETAIN_EXPIRY (R219). -/
def execCacheRetainExpiry (cache : Nat) (s : State) : Host.Outcome State Fault Refusal :=
  match mget s.caches cache with
  | none => .next s
  | some c =>
    let n := s.actN 0x5400 7
    if n = 0 ∨ c.inUse ∨ s.step.number < c.last + n then .next s
    else .next ((s.dropCaches fun c => c.1 == cache).raise 0x5048 locField 0)

/-- What activation of a plan set does to generation (R207): the role, its weight region, and the caches that SEARCH releases. -/
def State.roleActivate (s : State) : State :=
  let role := s.comN 0x5400 2
  let s1 := (s.setN 0x5400 1 role).setN 0x5400 3 (weightMib role)
  if role = 0 ∧ s.liveN 0x5400 1 ≠ 0 ∧ ¬ s.caches.isEmpty then
    (s1.dropCaches fun _ => true).raise 0x5047 locField 0
  else s1

end Sys2Proof.Machine
end

