-- ==== Sys2Proof/Machine/Emb.lean ====
section
/-! DEFINITION. Embedding tables (R194 to R204): rows, lookups, gradients and the optimisers, the chain of a replicated table,
load windows and moves between plots. -/

namespace Sys2Proof.Machine

/-! ### Tables (R194 to R197) -/

def embLr (d : Bytes) : Nat := u32 d 16
def embEps (d : Bytes) : Nat := u32 d 20
def embB1 (d : Bytes) : Nat := u32 d 24
def embB2 (d : Bytes) : Nat := u32 d 28
def embShardOf (d : Bytes) (row : Nat) : Nat := row / 2 ^ embShardLog d
def embShards (d : Bytes) : Nat := if embSharded d then ceilDiv (embRows d) (2 ^ embShardLog d) else 0

/-- A row record as R195 packs it; the first four bytes are reserved unless the values are INT8. -/
def parseRow (d b : Bytes) : EmbRow :=
  let w := embWidth d
  let v := valBytes (embFmt d)
  let at_ := 32 + w * v
  let words := fun (o : Nat) => (List.range w).map fun i => u32 b (o + 4 * i)
  { scale := if embFmt d = 0 then u32 b 0 else 0, applied := u32 b 4, last := u64 b 8, b1p := u32 b 16, b2p := u32 b 20,
    vals := (List.range w).map fun i => leNat (sl b (32 + i * v) v),
    acc := if embOpt d = 0 then [] else words at_, var := if embOpt d = 2 then words (at_ + 4 * w) else [] }

/-- TABLE_DIGEST (R195). -/
def tableDigest (d : Bytes) (rows : List EmbRow) : Bytes :=
  digest (rows.flatMap fun r => r.vals.flatMap (leBytes (valBytes (embFmt d))) ++ leBytes 4 r.scale)

/-- The plot on which a shard starts or to which it moved (R196, R204). -/
def State.shardPlot (s : State) (t : EmbTab) (sh : Nat) : Nat :=
  let ps := s.partPlots t.part
  (mget t.places sh).getD (ps.getD (sh % max ps.length 1) 0)

/-- The Hedge port of a logical node, and whether the node is this one: the lowest that no port is named for (R196, log 107). -/
def State.nodePort (s : State) (n : Nat) : Nat := u8 (s.act 0x5300 2) n
def State.ownNode (s : State) (n : Nat) : Bool := decide (ownIndex (s.act 0x5300 2) = n)
def State.shardOwner (s : State) (t sh : Nat) : Nat := u8 (s.act (0x5200 + t) 2) sh
def State.ownRow (s : State) (t : Nat) (e : EmbTab) (row : Nat) : Bool :=
  !embSharded e.desc || s.ownNode (s.shardOwner t (embShardOf e.desc row))

def State.modEmb (s : State) (t : Nat) (f : EmbTab → EmbTab) : State := { s with embs := mmod s.embs t f }

/-- Load a table's rows from its INIT_ADDR: at the boundary after the commit (R194, R195). -/
def State.loadEmb (s : State) (t : Nat) (d : Bytes) : State :=
  let stride := embStride d
  let addr := u64 d 32
  let rows := (List.range (embRows d)).map fun i => parseRow d (s.staging (addr + i * stride) stride)
  let part := ((List.range 8).find? fun p => s.actN (0x9100 + p) 1 != 0).getD 0
  let tab : EmbTab := { desc := d, digest := tableDigest d rows, part := part, state := 2, rows := rows, last := maxNat (rows.map (·.last)), batches := [], running := [],
                        final := [], commits := [], warned := [], counts := [], places := [], move := none }
  let s1 := (s.releasePages fun k => k.1 == 3 && k.2.1 == t)
  let s2 := { s1 with embs := mput s1.embs t tab }
  let s3 := (List.range (embShards d)).foldl (fun (s : State) sh =>
    if s.ownNode (s.shardOwner t sh) then
      (s.allocPages (s.shardPlot tab sh) 3 t sh (ceilDiv (min (2 ^ embShardLog d) (embRows d - sh * 2 ^ embShardLog d) * stride) 65536)).getD s
    else s) s2
  ((s3.setN (0x5200 + t) 4 2).setN (0x5200 + t) 5 tab.last).setLive (0x5200 + t) 6
    (if embTrainable d then zeros 32 else tab.digest)

/-! ### Lookups (R198) -/

/-- A row as a lookup gives it, in FP32. -/
def rowF32 (d : Bytes) (r : EmbRow) : List Nat :=
  if embFmt d = 0 then r.vals.map fun v => fenc fp32 false (fvMul (fvInt (sInt 8 v)) (fdec fp32 r.scale))
  else r.vals.map fun v => fenc fp32 false (fdec (fltFmt (embFmt d)) v)

/-- The positions of a gather: rows of (table, row), or single rows of operand B's table. -/
def gatherPositions (b : Buf) (opB : Nat) : List (Nat × Nat) :=
  b.rows.map fun r => match r with
    | [x] => (opB, x)
    | t :: x :: _ => (t, x)
    | [] => (256, 0)

/-- The value of a position: a row of this node's, or one that has come from its owner.  A passage's pass does not wait for another
node's row: its values are free (log 165). -/
def State.posValue (s : State) (w : Work) (p : Nat × Nat) : Option (List Nat) :=
  match mget s.embs p.1 with
  | none => none
  | some e =>
    if s.ownRow p.1 e p.2 then (e.rows[p.2]?).map (rowF32 e.desc)
    else if (w.gen.map (·.passg)).getD false then (openBuf (p.1 * 2 ^ 32 + p.2) 9 1 (embWidth e.desc)).rows.head?
    else mget w.fetched (p.1 * 2 ^ 32 + p.2)

/-- The bags in order, each as its rows in ascending position. -/
def bagsOf (l : List (Nat × List Nat)) : List (List (List Nat)) :=
  (l.foldl (fun (st : List (List (List Nat)) × Option Nat) x =>
    if st.2 = some x.1 then (st.1.dropLast ++ [(st.1.getLastD []) ++ [x.2]], st.2) else (st.1 ++ [[x.2]], some x.1)) ([], none)).1

/-- Count positions against their shards (R203): each row with the number of positions that named it. -/
def State.countShards (s : State) (ps : List (Nat × Nat × Nat)) : State :=
  ps.foldl (fun (s : State) p => s.modEmb p.1 fun e =>
    if embSharded e.desc then { e with counts := mupd e.counts (embShardOf e.desc p.2.1) 0 (· + p.2.2) } else e) s

/-- Count the reads of rows of this node's shards, each once (R198, R234). -/
def State.readRows (s : State) (ps : List (Nat × Nat)) : State :=
  ps.foldl (fun (s : State) p => match mget s.embs p.1 with
    | some e =>
      if embSharded e.desc then
        s.countAt 3 p.1 (embShardOf e.desc p.2) (p.2 % 2 ^ embShardLog e.desc * embStride e.desc) (embStride e.desc)
      else s
    | none => s) s

/-- Run a gather: a position outside every table, a diverged table, rows still to come, or the result. `first`: the positions
are counted and missing rows asked of their owners. -/
def State.gatherRun (s : State) (tag home : Nat) (w : Work) (ti : TInstr) (first : Bool) : State :=
  let ps := gatherPositions ((w.bufOf ti.opA 16 ti.m 1).rowsUpTo (s.rowLimit tag ti)) ti.opB
  let gone := ps.any fun p => ((mget s.embs p.1).map fun e => e.state != 2).getD false
  match s.badLookup w.runImage ps with
  | some det => s.refuseRow tag det
  | none =>
    if gone then (s.raise 0x5024 (locPlot home) 0).lose tag 9
    else
      let mine := ps.filter fun p => ((mget s.embs p.1).map fun e => s.ownRow p.1 e p.2).getD false
      let fresh := dedupBy (fun p => p.1 * 2 ^ 32 + p.2) [] mine
      let s1 := if first then (s.countShards (mine.map fun p => (p.1, p.2, 1))).readRows fresh else s
      let miss := dedupBy (fun p => p.1 * 2 ^ 32 + p.2) [] (ps.filter fun p => (s.posValue w p).isNone)
      if miss.isEmpty then
        let vs := ps.map fun p => (p.1, (s.posValue w p).getD [])
        let rows := if ti.func = 1 then (bagsOf vs).map (poolRows 3) else vs.map (·.2)
        ((s1.setBuf tag ti.res (plainBuf 9 rows)).modWork tag fun w => { w with gather := none }).stepProg tag
      else if ¬ first then s1
      else
        let port := fun (p : Nat × Nat) => s.nodePort (s.shardOwner p.1 (((mget s.embs p.1).map fun e => embShardOf e.desc p.2).getD 0))
        let groups := dedupBy (fun p => port p * 256 + p.1) [] miss
        (groups.foldl (fun (s : State) g => s.sendHedge (port g) 8 tag g.1 (leBytes 2 0 ++ leBytes 2 g.1 ++
          (miss.filter fun p => p.1 == g.1 && port p == port g).flatMap fun p =>
            leBytes 4 p.2 ++ leBytes 4 (ps.filter fun q => q == p).length)) s1).modWork tag fun w =>
            { w with gather := some ti }

/-- The distinct rows that the gathers of a batch fetch on a plot, and whether they are more than one gather takes (R198): a request
whose plot would fetch more is refused with CONFLICT when it gathers (log 174). -/
def State.gatherRows (s : State) (ti : TInstr) (b : List Nat) (plot : Nat) : List (Nat × Nat) :=
  dedupBy (fun p => p.1 * 2 ^ 32 + p.2) [] (b.flatMap fun t => match s.workOf t with
    | some w => if w.plot = plot then gatherPositions ((w.bufOf ti.opA 16 ti.m 1).rowsUpTo (s.rowLimit t ti)) ti.opB else []
    | none => [])
def State.gatherOver (s : State) (ti : TInstr) (b : List Nat) (plot : Nat) : Bool := decide (262144 < (s.gatherRows ti b plot).length)
def State.refuseGather (s : State) (tag : Nat) : State :=
  match s.farOf tag with
  | some (_, f) => s.completeEmpty tag f (mkStatus 8 0)
  | none => s

/-- EMB_GATHER (R198): each request of the batch goes on when its rows are there. -/
def execEmbGather (tags : List Nat) (ti : TInstr) (s : State) : Host.Outcome State Fault Refusal :=
  let s1 := s.startPass (s.standing 0x20 ti tags)
  .next (if 1 < ti.func then s else
    let b := s1.batch 0x20 ti tags
    b.foldl (fun s t => match s.workOf t with
      | some w => if s1.gatherOver ti b w.plot then s.refuseGather t else s.gatherRun t w.plot w ti true
      | none => s) s1)

/-- EMB_ROWS (R198): another node's request for rows, which this node answers with those it owns, or the rows that it asked for.
The body's first byte is 0 for a request and 1 for rows; bytes 2 and 3 are the table; a request names each row with the number of
positions that named it (R203, log 177). -/
def execEmbRows (port tag : Nat) (body : Bytes) (s : State) : Host.Outcome State Fault Refusal :=
  let t := u16 body 2
  match mget s.embs t with
  | none => .next s
  | some e =>
    if u8 body 0 = 0 then
      let asked := (splitAll 8 (body.drop 4)).map fun b => (u32 b 0, u32 b 4)
      let served := asked.filter fun r => s.ownRow t e r.1 && decide (r.1 < embRows e.desc) && e.state == 2
      let mine := served.map (·.1)
      let s1 := (s.countShards (served.map fun r => (t, r.1, r.2))).readRows (mine.map fun r => (t, r))
      .next (s1.sendHedge port 8 tag t (leBytes 2 1 ++ leBytes 2 t ++ mine.flatMap fun r =>
        leBytes 4 r ++ (rowF32 e.desc ((e.rows[r]?).getD ⟨0, 0, 0, 0, 0, [], [], []⟩)).flatMap (leBytes 4)))
    else
      let recs := splitAll (4 + 4 * embWidth e.desc) (body.drop 4)
      let s1 := s.modWork tag fun w => { w with fetched := recs.foldl (fun m r =>
        mput m (t * 2 ^ 32 + u32 r 0) ((splitAll 4 (r.drop 4)).map leNat)) w.fetched }
      match s1.farOf tag, s1.workOf tag with
      | some (_, f), some w => match w.gather with
        | some ti => .next (s1.gatherRun tag f.home w ti false)
        | none => .next s1
      | _, _ => .next s1

/-! ### Gradients (R199, R202) -/

/-- The entries of a batch. -/
def gradEntries (width n : Nat) (b : Bytes) : List (Nat × Nat × List Nat) :=
  (List.range n).map fun i =>
    let e := sl b (i * (8 + 4 * width)) (8 + 4 * width)
    (u32 e 0, u32 e 4, (splitAll 4 (e.drop 8)).map leNat)

/-- Why a batch is refused, as the offset of its field in the record (the first row of the table of R202); for a row or position, that of
GRAD_ADDR. -/
def State.gradFail (s : State) (rec_ : Bytes) (es : List (Nat × Nat × List Nat)) : Option Nat :=
  match mget s.embs (u16 rec_ 0) with
  | none => some 0
  | some e => firstFail [
    (embTrainable e.desc, 0), (decide (u8 rec_ 3 < 64), 3), (decide (u32 rec_ 4 ≤ 1048576), 4), (decide (e.last < u64 rec_ 8), 8),
    (!(e.batches.any fun b => b.train == u64 rec_ 8 && b.source == u8 rec_ 3), 3),
    (es.all fun x => decide (x.1 < embRows e.desc) && s.ownRow (u16 rec_ 0) e x.1, 16),
    (noDup (es.map fun x => x.1 * 2 ^ 32 + x.2.1), 16)]

/-- The width of a batch's table, and its entries as the host has staged them. -/
def State.gradWidth (s : State) (rec_ : Bytes) : Nat := ((mget s.embs (u16 rec_ 0)).map fun e => embWidth e.desc).getD 0
def State.gradBytes (s : State) (rec_ : Bytes) : Bytes := s.staging (u64 rec_ 16) (u32 rec_ 4 * (8 + 4 * s.gradWidth rec_))

/-- The nodes of a table's sources, ascending, and this node's index among them. -/
def State.sources (s : State) (t : Nat) : List Nat := bitList (s.actN (0x5200 + t) 3) 64
def State.selfNode (s : State) (t : Nat) : Option Nat := (s.sources t).find? s.ownNode

/-- Add contributions to sums per row, in ascending position, in FP32. -/
def addGrads (width : Nat) (sums : List (Nat × List Nat)) (es : List (Nat × Nat × List Nat)) : List (Nat × List Nat) :=
  (sortBy (fun (a b : Nat × Nat × List Nat) => decide (a.2.1 < b.2.1)) es).foldl (fun m e =>
    mupd m e.1 (List.replicate width 0) fun g => (g.zip e.2.2).map fun p => f32add p.1 p.2) sums

/-- A message of R202: its kind (0 = running sums, 1 = finished sums, 2 = commit), the table, and the sums or the node. -/
def sumsBody (kind t : Nat) (sums : List (Nat × List Nat)) : Bytes :=
  leBytes 2 kind ++ leBytes 2 t ++ sums.flatMap fun r => leBytes 4 r.1 ++ r.2.flatMap (leBytes 4)

/-- Send to every other node of a table's sources. -/
def State.sendSources (s : State) (t tau : Nat) (body : Bytes) : State :=
  ((s.sources t).filter fun n => !s.ownNode n).foldl (fun s n => s.sendHedge (s.nodePort n) 10 tau t body) s

/-- This node commits a TRAIN_STEP's finished sums (R202 step 3). -/
def State.commitSums (s : State) (t tau : Nat) : State :=
  match s.selfNode t with
  | none => s
  | some n => (s.modEmb t fun e => { e with commits := mupd e.commits tau 0 fun b => setBit b n }).sendSources t tau
      (leBytes 2 2 ++ leBytes 2 t ++ leBytes 1 n)

/-- Move the chain on at this node, where the sums of the nodes before it and its own batch are there. -/
def State.chain (s : State) (t tau : Nat) : State :=
  match mget s.embs t, s.selfNode t with
  | some e, some me =>
    let order := s.sources t
    let before := if order.head? = some me then some [] else mget e.running tau
    match before, (e.batches.find? fun b => b.train == tau && b.source == me), mget e.final tau with
    | some sums, some b, none =>
      let g := addGrads (embWidth e.desc) sums b.entries
      match (order.dropWhile (· != me)).drop 1 with
      | [] => ((s.modEmb t fun e => { e with final := mput e.final tau g }).sendSources t tau (sumsBody 1 t g)).commitSums t tau
      | next :: _ => (s.modEmb t fun e => { e with running := mdel e.running tau }).sendHedge (s.nodePort next) 10 tau t (sumsBody 0 t g)
    | _, _, _ => s
  | _, _ => s

/-- Take a gradient batch: refused whole, not admitted while its partition switches (R351), or held for its TRAIN_STEP. The answer
says whether it was taken. -/
def State.takeBatch (s : State) (rec_ entries : Bytes) (loc : Nat) : State × Bool :=
  let t := u16 rec_ 0
  let es := gradEntries (s.gradWidth rec_) (u32 rec_ 4) entries
  match s.gradFail rec_ es with
  | some f => (s.raise 0x5021 loc f, false)
  | none =>
  if ((mget s.embs t).map fun e => !s.partOpen e.part).getD false then (s, false)
  else
    let s1 := s.modEmb t fun e => { e with batches := e.batches ++ [(⟨u64 rec_ 8, u8 rec_ 3, es, s.step.number⟩ : GradBatch)] }
    let rep := ((mget s.embs t).map fun e => !embSharded e.desc).getD false
    (if rep then s1.chain t (u64 rec_ 8) else s1, true)

/-- GRADIENT_BATCH (R199): a batch over Hedge, its record and then its entries. -/
def execGradientBatch (port : Nat) (body : Bytes) (s : State) : Host.Outcome State Fault Refusal :=
  .next (s.takeBatch (body.take 32) (body.drop 32) (locHedge port)).1

/-- RUNNING_SUMS (R202). -/
def execRunningSums (port table : Nat) (msg : SumsMsg) (s : State) : Host.Outcome State Fault Refusal :=
  match mget s.embs table with
  | none => .next s
  | some e =>
    if embSharded e.desc ∨ ¬ embTrainable e.desc ∨ e.state ≠ 2 then .next s else
    let nat := fun (l : List (Nat × List W32)) => l.map fun r => (r.1, r.2.map (·.toNat))
    match msg with
    | .running tau sums =>
      if tau ≤ e.last then .next s
      else .next ((s.modEmb table fun e => { e with running := mput e.running tau (nat sums) }).chain table tau)
    | .final tau sums =>
      if tau ≤ e.last ∨ (mget e.final tau).isSome then .next s
      else .next ((s.modEmb table fun e => { e with final := mput e.final tau (nat sums) }).commitSums table tau)
    | .commit tau node =>
      if tau ≤ e.last then .next s
      else .next (s.modEmb table fun e => { e with commits := mupd e.commits tau 0 fun b => setBit b node })
    | .missing tau =>
      if tau ≠ e.last + 1 then .next s else .next ((s.divergeEmb table).raise 0x5023 (locHedge port) 0)

/-! ### The optimisers (R200, R201) -/

/-- One element: (w, m or acc, var, g) to the new three. -/
def optElem (d : Bytes) (b1p b2p : Nat) (w a v g : Nat) : Nat × Nat × Nat :=
  if embOpt d = 1 then
    let acc := f32add a (f32mul g g)
    let q := f32add (f32sqrt acc) (embEps d)
    (f32sub w (f32mul (embLr d) (f32div g q)), acc, v)
  else if embOpt d = 2 then
    let m := f32add (f32mul (embB1 d) a) (f32mul (f32sub f32one (embB1 d)) g)
    let var := f32add (f32mul (embB2 d) v) (f32mul (f32sub f32one (embB2 d)) (f32mul g g))
    let mh := f32div m (f32sub f32one b1p)
    let vh := f32div var (f32sub f32one b2p)
    (f32sub w (f32mul (embLr d) (f32div mh (f32add (f32sqrt vh) (embEps d)))), m, var)
  else (f32sub w (f32mul (embLr d) g), a, v)

/-- One read-modify-write of a row. -/
def applyRow (d : Bytes) (tau : Nat) (r : EmbRow) (g : List Nat) : EmbRow :=
  let adam := embOpt d = 2
  let b1p := if adam then f32mul r.b1p (embB1 d) else r.b1p
  let b2p := if adam then f32mul r.b2p (embB2 d) else r.b2p
  let f := fltFmt (embFmt d)
  let out := (List.range (embWidth d)).map fun i =>
    optElem d b1p b2p (fenc fp32 false (fdec f (r.vals.getD i 0))) (r.acc.getD i 0) (r.var.getD i 0) (g.getD i 0)
  { r with
    applied := if embOpt d = 0 then r.applied else (r.applied + 1) % 2 ^ 32, last := tau, b1p := b1p, b2p := b2p
    vals := out.map fun x => fenc f false (fdec fp32 x.1)
    acc := if embOpt d = 0 then r.acc else out.map (·.2.1), var := if embOpt d = 2 then out.map (·.2.2) else r.var }

/-- G of a TRAIN_STEP where it can be applied: a batch from every source, in source and position order; or a replicated table's
finished sums with every node's commit (R200, R202).  A frozen table takes none (R197). -/
def State.readySums (s : State) (t : Nat) (e : EmbTab) (tau : Nat) : Option (List (Nat × List Nat)) :=
  if ¬ embTrainable e.desc then none
  else if embSharded e.desc then
    let bs := (s.sources t).map fun n => e.batches.find? fun b => b.train == tau && b.source == n
    if bs.all (·.isSome) then some ((bs.filterMap id).foldl (fun m b => addGrads (embWidth e.desc) m b.entries) []) else none
  else match mget e.final tau with
    | some g => if (s.sources t).all fun n => bit (mgetD e.commits tau 0) n then some g else none
    | none => none

/-- The bytes of the rows that an apply changes on each plot of the table's partition (R196, R237); with none to change, a slice of the first
plot. -/
def State.applyPlots (s : State) (t : Nat) (e : EmbTab) (rows : List Nat) : List (Nat × Nat) :=
  let on := fun (p : Nat) (r : Nat) => !embSharded e.desc || (s.ownRow t e r && s.shardPlot e (embShardOf e.desc r) == p)
  let l := (s.partPlots e.part).map fun p => (p, (rows.filter (on p)).length * embStride e.desc)
  if l.any fun x => x.2 != 0 then l.filter fun x => x.2 != 0 else l.take 1

/-- The window pages that hold a row, written (R233, R235). -/
def State.touchRow (s : State) (t : Nat) (e : EmbTab) (row : Nat) : State :=
  let stride := embStride e.desc
  let sh := embShardOf e.desc row
  let at_ := row % 2 ^ embShardLog e.desc * stride
  let s1 := s.touchAt 3 t sh at_
  if (at_ + stride - 1) / 65536 = at_ / 65536 then s1 else s1.touchAt 3 t sh (at_ + stride - 1)

/-- TRAIN_STEP_APPLY (R200 to R202, R237): in the apply slices of the plots that hold its rows, where they have room for them (log 209);
`ue`: a row that it reads has an uncorrected error. -/
def execTrainStepApply (table : Nat) (ue : Bool) (s : State) : Host.Outcome State Fault Refusal :=
  match mget s.embs table with
  | none => .next s
  | some e =>
    let tau := e.last + 1
    match (if e.state = 2 then s.readySums table e tau else none) with
    | none => .next s
    | some g =>
      let named := g.map (·.1)
      let on := s.applyPlots table e named
      if ¬ on.all fun p => s.fits (onPlot p.1 6) p.2 then .next s
      else if ue then .next ((s.divergeEmb table).raise 0x5024 locField 0) else
      let mine := named.filter fun r => embSharded e.desc && s.ownRow table e r
      let s := mine.foldl (fun s r => s.touchRow table e r)
        ((on.foldl (fun s p => s.useRoom (onPlot p.1 6) p.2) s).readRows (mine.map fun r => (table, r)))
      let rows := e.rows.zipIdx.map fun r => match mget g r.2 with
        | some x => applyRow e.desc tau r.1 x
        | none => r.1
      let mark := fun (m : EmbMove) =>
        let size := 2 ^ embShardLog e.desc
        let hit := (g.map (·.1)).filter fun r => decide (r / size = m.shard) && decide (r % size < m.copied) && !m.dirty.contains r
        { m with dirty := m.dirty ++ hit }
      .next ((s.modEmb table fun e => { e with
        rows := rows, last := tau, batches := e.batches.filter fun b => b.train != tau, running := mdel e.running tau,
        final := mdel e.final tau, commits := mdel e.commits tau, warned := mdel e.warned tau, move := e.move.map mark }).setN
          (0x5200 + table) 5 tau)

/-- TRAIN_WAIT_EXPIRY (R202): TRAIN_STEP τ still lacks a source; for a replicated table, its chain has not come to its end. -/
def execTrainWaitExpiry (table : Nat) (s : State) : Host.Outcome State Fault Refusal :=
  match mget s.embs table with
  | none => .next s
  | some e =>
    let tau := e.last + 1
    let here := e.batches.filter fun b => b.train == tau
    match here with
    | [] => .next s
    | b :: _ =>
      let since := (mget e.warned tau).getD (minNat b.at_ (here.map (·.at_)))
      let lacks := if embSharded e.desc then (s.sources table).any fun n => !here.any fun b => b.source == n
        else (mget e.final tau).isNone
      if e.state ≠ 2 ∨ ¬ lacks ∨ s.step.number < since + s.actN 0x5300 6 then .next s
      else .next ((s.modEmb table fun e => { e with warned := mput e.warned tau s.step.number }).raise 0x5022 locField 0)

/-! ### Load and moves (R203, R204) -/

/-- A table's load per shard that this node owns, and per plot of its partition. -/
def State.plotLoads (s : State) (t : Nat) (e : EmbTab) : List (Nat × Nat) :=
  (s.partPlots e.part).map fun p => (p, sumNat ((e.counts.filter fun c => s.ownNode (s.shardOwner t c.1) && s.shardPlot e c.1 == p).map (·.2)))

/-- The first entry of the greatest, and of the least, value. -/
def hottest (l : List (Nat × Nat)) : Nat × Nat := l.foldl (fun m x => if m.2 < x.2 then x else m) (l.headD (0, 0))
def coolest (l : List (Nat × Nat)) : Nat × Nat := l.foldl (fun m x => if x.2 < m.2 then x else m) (l.headD (0, 0))

/-- The move that a table's load asks for: shard and destination. -/
def State.wantMove (s : State) (t : Nat) (e : EmbTab) : Option (Nat × Nat) :=
  let loads := s.plotLoads t e
  let hi := hottest loads
  let lo := coolest loads
  let total := sumNat (loads.map (·.2))
  if s.actN 0x5300 5 * total < (hi.2 - lo.2) * 65536 then
    some ((hottest (e.counts.filter fun c => s.shardPlot e c.1 == hi.1)).1, lo.1)
  else none

/-- LOAD_WINDOW_END at a boundary (R203, R204). -/
def State.loadEnds (s : State) : Bool := decide (s.embWinAt + s.actN 0x5300 3 ≤ s.step.number)
def State.doLoadWindow (s : State) : State :=
  if ¬ s.loadEnds then s else
  let tabs := s.embs.filter fun t => embSharded t.2.desc
  let s1 := tabs.foldl (fun (s : State) t =>
    let peak := (hottest (s.plotLoads t.1 t.2)).2 * 2 ^ 32 + (hottest t.2.counts).2 % 2 ^ 32
    s.setN (0x5200 + t.1) 7 peak) { s with embWinAt := s.step.number }
  let wants := tabs.filterMap fun t => if t.2.move.isSome ∨ t.2.state ≠ 2 then none else (s.wantMove t.1 t.2).map fun m => (t.1, m)
  let s2 := if s.grant 8 then
      wants.foldl (fun (s : State) w =>
        (((s.modEmb w.1 fun e => { e with move := some ⟨w.2.1, w.2.2, 0, [], 0⟩ }).useGrant 8).raise 0x5030 (locPlot w.2.2) 0)) s1
    else if wants.isEmpty then s1 else s1.raise 0x5031 locField 0
  { s2 with embs := s2.embs.map fun t => (t.1, { t.2 with counts := [] }) }

/-- A move whose grant reads 0 is abandoned, and the shard stays where it is (R339). -/
def State.abandonMove (s : State) (table : Nat) : State := s.modEmb table fun e => { e with move := none }

/-- EMB_SHARD_COPY (R204, R237): the embedding slices of the shard's plot, once in a step, of at most MIGRATE_BUDGET bytes; changed rows again
at the end. -/
def execEmbShardCopy (table : Nat) (s : State) : Host.Outcome State Fault Refusal :=
  match mget s.embs table with
  | none => .next s
  | some e => match e.move with
    | none => .next s
    | some m =>
      if ¬ s.grant 8 then .next (s.abandonMove table)
      else if m.at_ = s.step.number then .next s else
      let here := onPlot (s.shardPlot e m.shard) 6
      if ¬ s.hasSlice (s.shardPlot e m.shard) 6 then .next s else
      let n := s.roomFor here (s.actN 0x5300 4) / max (embStride e.desc) 1
      let size := min (2 ^ embShardLog e.desc) (embRows e.desc - m.shard * 2 ^ embShardLog e.desc)
      let fresh := min n (size - m.copied)
      let work := (fresh + min (n - fresh) m.dirty.length) * embStride e.desc
      .next ((s.useRoom here work).modEmb table fun e => { e with
        move := some ⟨m.shard, m.dest, m.copied + fresh, m.dirty.drop (n - fresh), s.step.number⟩ })

/-- EMB_SHARD_SWITCH (R204): at a boundary with every row current and no TRAIN_STEP of the table about to be applied. -/
def State.doEmbSwitch (s : State) (table : Nat) : State :=
  match mget s.embs table with
  | none => s
  | some e => match e.move with
    | none => s
    | some m =>
      let size := min (2 ^ embShardLog e.desc) (embRows e.desc - m.shard * 2 ^ embShardLog e.desc)
      if ¬ s.grant 8 then s.abandonMove table
      else if m.copied < size ∨ ¬ m.dirty.isEmpty ∨ (s.readySums table e (e.last + 1)).isSome then s else
      let s1 := s.releasePages fun k => k == (3, table, m.shard)
      let s2 := (s1.allocPages m.dest 3 table m.shard (ceilDiv (size * embStride e.desc) 65536)).getD s1
      (((s2.modEmb table fun e => { e with move := none, places := mput e.places m.shard m.dest }).bump 0x5300 7 1)).raise
        0x5030 (locPlot m.dest) 0

end Sys2Proof.Machine
end

