-- ==== Sys2Proof/Machine/Passages.lean ====
section
/-! DEFINITION. The build of a sealed segment's image (R146) with its passage pages (R60, R210, R211), which a pass of the ROLE 4 model
computes. -/

namespace Sys2Proof.Machine

/-! ### A pass over a passage (R211) -/

/-- The request state in which the model reads a passage: a prefill of its tokens from position 0, into pages whose keys stay
unrotated. -/
def passageWork (m : Bytes) (tokens : List Nat) : Work :=
  { emptyWork 3 0 0 [] with
    model := digest m, image := m,
    gen := some {
      hdr := zeros 96, image := m, draft := [], cache := 0, prior := [], base := 0, prompt := tokens, block := [], passages := [], roots := [],
      pages := [], dpages := [], tried := 0, pass := none, spread := 0, members := [], fed := 0, choice := [], drafts := [], path := [],
      next := none, out := [], scores := [], passes := 0, emitting := 0, accepted := 0, stop := 0, done := false, late := false, stage := 1,
      key := none, asked := 0, passg := true } }

/-- The node with that request alone, in phase PREFILL.  What its pass leaves besides its pages is dropped (log 165). -/
def State.passageNode (s : State) (m : Bytes) (tokens : List Nat) : State :=
  let w := passageWork m tokens
  let f := { newFar 3 0xFF 0 0 0 0 0 0 0 w with owner := 2, phase := 0x21 }
  let k : Stub := ⟨2, 0x21, 0, 0, 0, 0, 0, 0⟩
  { s with arrays := [], ledger := { LedgerSt.reset with fars := [(0, f)], stubs := [(0, k)], works := [(0, w)] } }

/-- The state that a command goes on with. -/
def goOn (s : State) : Host.Outcome State Fault Refusal → State
  | .next t => t
  | _ => s

/-- One instruction of the program, with its checks passed. -/
def State.runInstr (s : State) (op : Nat) (ti : TInstr) : State :=
  goOn s (match op with
    | 0x01 => execGemm [0] 0 ti .ok .ok s
    | 0x02 => execLoadScales [0] 0 ti s
    | 0x03 => execSwapScales [0] 0 ti s
    | 0x10 => execEwise [0] 0 ti .ok s
    | 0x11 => execAct [0] 0 ti .ok s
    | 0x12 => execNorm [0] 0 ti .ok s
    | 0x13 => execSoftmax [0] 0 ti .ok s
    | 0x14 => execPool [0] 0 ti .ok s
    | 0x15 => execConvert [0] 0 ti s
    | 0x20 => execEmbGather [0] ti s
    | 0x30 => execClipDump [0] 0 ti s
    | 0x40 => execKvAppend [0] 0 ti s
    | 0x41 => execRopeQ [0] 0 ti s
    | 0x42 => execAttnMax [0] 0 ti s
    | 0x43 => execAttnPage [0] 0 ti s
    | 0x44 => execAttnCombine [0] 0 ti s
    | 0x45 => execTillMatvec [0] ti ⟨.ok, .ok⟩ s
    | 0x46 => execTokenChoose [0] 0 ti s
    | 0x48 => execVerify [0] ti s
    | _ => .next s)

/-- The program, instruction by instruction; and pass after pass, as long as each comes to its end. -/
def State.runProg : Nat → State → State
  | 0, s => s
  | n + 1, s => match (s.workOf 0).bind fun w => w.prog.head? with
    | none => s
    | some p => State.runProg n (s.runInstr p.op p.ti)
def State.runPasses (fuel : Nat) : Nat → State → State
  | 0, s => s
  | n + 1, s =>
    let t := State.runProg fuel (s.loadPass 0)
    if (t.workOf 0).any fun w => w.prog.isEmpty then
      State.runPasses fuel n (t.modGen 0 fun g => { g with fed := g.fed + g.rowTokens.length })
    else t

/-- The KV pages that the model gives a passage; none where a check fails in the pass, or its program is in no active plan. -/
def State.passagePages (s : State) (m : Bytes) (tokens : List Nat) : Option (List (KvPage × Nat)) :=
  let prog := s.programOf false m
  let t := State.runPasses prog.length (ceilDiv tokens.length 256) (s.passageNode m tokens)
  match (t.workOf 0).bind (·.gen) with
  | some g => if prog.isEmpty ∨ g.fed < tokens.length then none else some g.pages
  | none => none

/-- A passage page: the KV pages of block j of a passage of n tokens, for every (layer, KV head) pair in order. -/
def passageBlock (m : Bytes) (n j : Nat) (pages : List (KvPage × Nat)) : Bytes :=
  let heads := genKvHeads m
  (List.range (genLayers m * heads)).flatMap fun q =>
    let layer := q / max heads 1
    let head := q % max heads 1
    let p := (pages.find? fun x => x.1.layer == layer && x.1.head == head && x.2 == 64 * j).map (·.1)
    kvBytesOf ⟨layer, head, false, true, false, min 64 (n - 64 * j), 0, (p.map (·.k)).getD [], (p.map (·.v)).getD []⟩ (genHeadDim m) (genKvFmt m)

/-! ### The image -/

/-- The passages of a delta of `n` records (R60, R211): each offset's reference, and section 0x000D.  A passage is its offset, its
TOKEN_COUNT and its pages. -/
def sealPassages (m : Bytes) (n : Nat) (ps : List (Nat × Nat × List (KvPage × Nat))) : List Bytes × Bytes :=
  foldRange n ([], []) fun (st : List Bytes × Bytes) o =>
    match ps.find? fun p => p.1 == o && decide (0 < p.2.1) with
    | none => (st.1 ++ [zeros 16], st.2)
    | some p =>
      let count := ceilDiv p.2.1 64
      let size := genLayers m * genKvHeads m * kvPageBytes m
      (st.1 ++ [leBytes 4 (st.2.length / max size 1) ++ leBytes 2 count ++ leBytes 2 p.2.1 ++ zeros 8],
       st.2 ++ (List.range count).flatMap fun j => passageBlock m p.2.1 j p.2.2)

/-- Passages as offsets and tokens, with their pages; none where one of them has none. -/
def State.passagesOf (s : State) (m : Bytes) (ps : List (Nat × List Nat)) : Option (List (Nat × Nat × List (KvPage × Nat))) :=
  let all := (ps.filter fun p => !p.2.isEmpty).map fun p => (s.passagePages m p.2).map fun g => (p.1, p.2.length, g)
  if all.all (·.isSome) then some (all.filterMap id) else none

/-- The image of a seal (stage 2 of R146), with its passages where the owner holds a ROLE 4 model (R211). -/
def State.sealImage (s : State) (h : Shard) (j : SealJob) (ps : List (Nat × List Nat)) : Bytes :=
  match mget h.deltas j.out with
  | none => []
  | some d => match s.cbOf d.cb with
    | none => []
    | some c =>
      let m := s.passageModel.getD []
      match (if m.isEmpty then some [] else s.passagesOf m ps) with
      | none => []
      | some pages =>
      let kv := if m.isEmpty then ([], []) else sealPassages m d.recs.length pages
      buildImage
        { shard := h.id, seg := j.out, epoch := h.cur.num + 1, metric := d.metric, m := c.m, bits := c.bits, dim := c.dim,
          cb := c.values, mirror := j.set.mirror, fields := j.set.fields, share := j.set.share, baseDeg := j.set.baseDeg,
          hubDeg := j.set.hubDeg, hubShare := j.set.hubShare, kvModel := if kv.2.isEmpty then [] else digest m, kvPages := kv.2,
          usns := d.recs.map (·.usn) }
        ((d.recs.zipIdx).map fun e => ⟨e.1.ext, e.1.attr, e.1.scale, e.1.sumsq, e.1.code, e.1.comps, kv.1.getD e.2 []⟩)

/-- SEAL_BUILD (R146, R237): the slices of the output's plot build the image, and with its last part it is checked under R71; `ps` are the passages of R211, as offsets and tokens (log 165). -/
def execSealBuild (slot : Nat) (chk : Chk) (ps : List (Nat × List Nat)) (s : State) : Host.Outcome State Fault Refusal :=
  match mget s.shards slot with
  | none => .next s
  | some h => match h.sealJob with
    | none => .next s
    | some j =>
      let image := s.sealImage h j ps
      if j.stage ≠ 1 ∨ ¬ h.owner ∨ ¬ s.hasSlice (j.out % 16) 5 then .next s
      else if j.built + s.buildRoom j image < image.length then .next (s.buildPart slot false j image)
      else match Chk.fault chk (s.buildPart slot false j image) (j.out % 16) with
      | (s, false) => .next s
      | (s, true) =>
        let o := if h.imageOk image j.out then buildOutcome chk else (2, false)
        let s1 := s.raiseBuild slot h.vis o.1
        let fits := (s.placeSeg slot image).isSome
        let s2 := if o.2 && !fits then (s1.raise 0x6013 locField 0).raise 0x3030 locField 0 else s1
        .next (s2.modJob slot false fun j =>
          if o.2 && fits then some { j with stage := 2, image := image } else some { j with stage := 0, image := [], built := 0 })

end Sys2Proof.Machine
end

