-- ==== Sys2Proof/Machine/Rejoin.lean ====
section
/-! DEFINITION. Re-admission: the owner's load of a joining partner, the joining node's side, and admission (R395 to R398). -/

namespace Sys2Proof.Machine

/-! ### The state of a slot -/

/-- A shard slot that holds nothing: epoch 0, floor 0 (R48, R138). -/
def emptyShard (id base count : Nat) (owner : Bool) : Shard :=
  { id := id, segBase := base, segCount := count, owner := owner, vis := 0, last := 0,
    epochs := [⟨0, 0, none, [], [], tombBaseRoot id 0 [], 0, [(0, chainBase id 0 0)], none⟩],
    segs := [], deltas := [], tombs := [], digests := [], dir := [], sealJob := none, comp := none,
    noSpace := false, partners := [], inbox := [], held := [], expects := 1, pendEpoch := none, pendDone := false, images := [], state := 0,
    holdOut := false, badImage := [], topUsn := 0, lastUsn := 0 }

/-- Whether a slot holds a sealed segment or a delta record (R48). -/
def Shard.holds (h : Shard) : Bool := !h.segs.isEmpty || h.deltas.any fun d => !d.2.recs.isEmpty

/-- Set REJOIN.SLOT_STATE of a slot (R396). -/
def State.setSlotState (s : State) (slot st : Nat) : State :=
  ((s.modShard slot fun h => { h with state := st })).setLive 0xB040 4 (overlay (s.live 0xB040 4) slot (leBytes 1 st))

/-! ### The owner's load (R397) -/

/-- A part of a message of type 0x0C: its kind (0 = epoch record, 1 = image, 2 = tombstone base, 3 = log records), segment, the
length of the whole part, and these bytes of it. -/
def loadBody (kind seg total : Nat) (b : Bytes) : Bytes := leBytes 2 kind ++ leBytes 2 seg ++ zeros 4 ++ leBytes 8 total ++ b

/-- The parts that load an epoch, in order: its record, its images in ascending number, its tombstone base entries. -/
def loadParts (h : Shard) (e : Epoch) : List (Nat × Nat × Bytes) :=
  let base := tombEntries h.tombs e.sealed e.floor
  [(0, 0, epochRecord h e 0)] ++ (sortNat e.sealed).map (fun n => (1, n, ((mget h.segs n).map (·.image)).getD [])) ++
    (if base.isEmpty then [] else [(2, 0, base.flatMap fun t => leBytes 8 t.1 ++ leBytes 8 t.2)])

/-- Send at most `room` bytes of the parts from byte `from_` on, in messages of at most 8 MiB; the answer says how far. -/
def State.sendParts (s : State) (p : Partner) (shard : Nat) : List (Nat × Nat × Bytes) → Nat → Nat → State × Nat
  | [], _, _ => (s, 0)
  | (kind, seg, b) :: rest, from_, room =>
    if b.length ≤ from_ then
      let r := s.sendParts p shard rest (from_ - b.length) room
      (r.1, r.2)
    else
      let take := min room (b.length - from_)
      let piece := sl b from_ take
      let s1 := (splitAll 8388608 piece).foldl (fun (s : State) x =>
        s.sendPeer p.port p.peer 12 seg shard (loadBody kind seg b.length x)) s
      if take < b.length - from_ ∨ room = take then (s1, take)
      else
        let r := s1.sendParts p shard rest 0 (room - take)
        (r.1, take + r.2)

/-- Send log records from a position on while the budget lasts: the position after them. -/
def State.sendLogs (s : State) (p : Partner) (shard : Nat) : List LogRec → Nat → Nat → State × Nat
  | [], _, at_ => (s, at_)
  | r :: rest, room, at_ =>
    if room < r.bytes.length then (s, at_)
    else (s.sendPeer p.port p.peer 12 r.usn shard (loadBody 3 0 r.bytes.length r.bytes)).sendLogs p shard rest
      (room - r.bytes.length) (r.seq + 1)

/-- One step's load of one partner: of the epoch being loaded, or of the current one where that is released. -/
def State.loadPartner (s : State) (slot k budget : Nat) : State :=
  match mget s.shards slot with
  | none => s
  | some h => match h.partners[k]? with
    | none => s
    | some p =>
      if ¬ h.owner ∨ ¬ p.loading ∨ p.detached ∨ ¬ s.hedgeUp p.port then s else
      let e := if (h.epoch? p.loadEp).isSome then ((h.epoch? p.loadEp).getD h.cur) else h.cur
      let at_ := if e.num = p.loadEp then p.loadAt else 0
      let seq := if e.num = p.loadEp then p.loadSeq else 0
      let parts := loadParts h e
      let total := sumNat (parts.map fun x => x.2.2.length)
      let r := s.sendParts p h.id parts at_ budget
      let sent := at_ + r.2
      let set := fun (s : State) (seq : Nat) => s.modShard slot fun h =>
        { h with partners := h.partners.modify k fun (p : Partner) => { p with loadEp := e.num, loadAt := sent, loadSeq := seq } }
      if sent < total then set r.1 seq
      else
        let logs := s.log.recs.filter fun x => x.slot == slot && decide (e.floor < x.usn) && decide (seq ≤ x.seq)
        let q := r.1.sendLogs p h.id logs (budget - r.2) seq
        set q.1 q.2

/-- The load of every LOADING partner in a step, within REJOIN.LOAD_BUDGET each (R397). -/
def State.loadPartners (s : State) : State :=
  s.shards.foldl (fun s e => (List.range e.2.partners.length).foldl (fun s k => s.loadPartner e.1 k (s.actN 0xB040 3)) s) s

/-! ### The joining node (R397) -/

/-- Place the images of an epoch that is loaded, one after the other; none where one does not fit (R231). -/
def State.placeAll (s : State) (slot : Nat) : List (Nat × Seg) → Option State
  | [] => some s
  | g :: rest => (s.placeSeg slot g.2.image).bind fun s => s.placeAll slot rest

/-- The epoch that a joining slot loads is installed once all its images are verified and its tombstone base is there.  An epoch whose images
do not fit is refused (R231): none of them enters service, and the load stands. -/
def State.installLoad (s : State) (slot : Nat) : State :=
  match mget s.shards slot with
  | none => s
  | some h => match h.pendEpoch with
    | none => s
    | some r =>
      let sealed := recSealed r
      if h.state ≠ 1 ∨ ¬ (sealed.all fun n => (mget h.images n).isSome) ∨ h.tombs.length < u32 r 24 then s else
      let f := u64 r 16
      let segs := sealed.filterMap fun n => (mget h.images n).map fun i => (n, newSeg i (segmentRoot h.id n i) [])
      let dels := h.tombs.filter fun t => sealed.contains (handleSeg t.1)
      let e : Epoch := ⟨u32 r 12, f, none, sealed, [], sl r 32 32, u32 r 24, [(f, chainBase h.id (u32 r 12) f)], none⟩
      let dir := (segs.flatMap fun g => (List.range (segVc g.2.image)).map fun o => (segExt g.2.image o, mkHandle g.1 o)).foldl
        (fun m x => mupd m x.1 [] fun l => l ++ [x.2]) []
      match s.placeAll slot segs with
      | none => ((s.modShard slot fun h => { h with images := [] }).raise 0x6013 locField 0).raise 0x3030 locField 0
      | some s0 =>
        let s1 := s0.modShard slot fun h =>
          { h with epochs := [e], segs := segs.foldl (fun m g => mput m g.1 g.2) [], tombs := dels, dir := dir, deltas := [],
                   pendEpoch := none, pendDone := false, vis := max h.vis f, last := max h.last f, lastUsn := max h.lastUsn f,
                   topUsn := max h.topUsn f, expects := max h.expects (f + 1) }
        match s1.deltaCb slot with
        | some cb => if u16 r 28 = 0 ∧ h.segBase ≠ 0 then s1 else s1.openDelta slot (u16 r 28) cb
        | none => s1

/-- Whether an image of a load agrees with the images that the slot holds already, and with the codebook and METRIC of its delta to come
(R80). -/
def State.loadAgrees (s : State) (slot : Nat) (h : Shard) (i : Bytes) : Bool :=
  (h.images.all fun x => imagesAgree x.2 i) &&
  (match (s.deltaCb slot).bind s.cbOf with
    | some c => s.actN (0x3200 + slot) 6 == segMetric i && c.dim == segDim i && c.m == segM i && c.bits == segBits i
    | none => true)

/-- REJOIN_LOAD (R397): a part of a load arrives in whole: the epoch record, an image, the tombstone base, or log records.  A
record of another epoch than the one being loaded discards the images that it does not name. -/
def execRejoinLoad (port slot : Nat) (item : RejoinItem) (s : State) : Host.Outcome State Fault Refusal :=
  match mget s.shards slot with
  | none => .next s
  | some h =>
    if h.owner then .next s else
    match item with
    | .epoch r =>
      if h.state ≠ 1 ∨ u32 r 8 ≠ h.id then .next s else
      .next ((s.modShard slot fun h =>
        { h with pendEpoch := some r, pendDone := false, images := h.images.filter fun x => (recSealed r).contains x.1 }).installLoad slot)
    | .image n i =>
      match h.pendEpoch with
      | none => .next s
      | some r =>
        if h.state ≠ 1 ∨ (recSeg r n).isNone ∨ (mget h.images n).isSome then .next s
        else
          let fits := h.imageOk i n && s.segAgrees h i && s.loadAgrees slot h i
          if fits && (recSeg r n).map (·.2) == some (segmentRoot h.id n i) then
            .next ((s.modShard slot fun h => { h with images := mput h.images n i }).installLoad slot)
          else
          let s1 := s.raise (if fits then 0x3032 else 0x3030) locField 0
          if h.badImage.contains n then .next (s1.raise 0xB011 locField 0)
          else .next (s1.modShard slot fun h => { h with badImage := h.badImage ++ [n] })
    | .tombs es =>
      if h.state ≠ 1 ∨ h.pendEpoch.isNone then .next s else
      .next ((s.modShard slot fun h => { h with tombs := es.foldl (fun m t => mput m t.1 t.2) h.tombs }).installLoad slot)
    | .log b => execLogRecords port b s

/-- The item of a load message's whole part. -/
def loadItem (kind seg : Nat) (b : Bytes) : RejoinItem :=
  if kind = 0 then .epoch b else if kind = 1 then .image seg b
  else if kind = 2 then .tombs ((splitAll 16 b).map fun x => (u64 x 0, u64 x 8)) else .log b

/-- A joining slot before its load: as an empty one, but it holds no epoch (R396). -/
def loadingShard (id base count : Nat) : Shard := { emptyShard id base count false with epochs := [], state := 1 }

/-- Whether a joining slot is LOADED: its epoch is installed, V(h) is the highest USN received, and no resend is pending
(R397). -/
def Shard.loadDone (h : Shard) : Bool :=
  !h.owner && h.state == 1 && !h.epochs.isEmpty && h.pendEpoch.isNone && h.held.isEmpty && h.vis == h.topUsn

/-- REJOIN_LOADED (R397): an item of the boundary. -/
def State.doRejoinLoaded (s : State) (slot : Nat) : State :=
  match mget s.shards slot with
  | none => s
  | some h => if h.loadDone then ((s.setSlotState slot 2).bump 0xB040 7 1).evU 0xB010 locField (some (slot, h.vis)) 0 else s

/-- REJOIN_ADMIT (R398): the slots set in REJOIN.ADMIT serve from the boundary of REJOIN.ADMIT_AT. -/
def State.doRejoinAdmit (s : State) : State :=
  if s.comN 0xB040 6 ≠ s.step.number then s else
  ((List.range 256).filter fun i => bitAt (s.com 0xB040 5) i && ((mget s.shards i).map (·.state)) == some 2).foldl
    (fun s i => s.setSlotState i 0) s

/-- The operand bytes of a built-in pattern, and its results (R395): of the INT8 GEMM of 128 by 128 by 128, whose B lies channel by channel
(log 225), and of the scores of 64 vectors of 4,096 dimensions against a query, under squared L2. -/
def bistBytes (i n : Nat) : Bytes := shake256 (ascii "OC4-BIST" ++ leBytes 4 i) n
def bistArray (i : Nat) : Bytes :=
  let b := bistBytes i 32768
  (splitAll 128 (b.take 16384)).flatMap fun r => (splitAll 128 (b.drop 16384)).flatMap fun c => leBytes 4 ((dotInt (int8s r) (int8s c)).emod (2 ^ 32)).toNat
def bistGleaner (i : Nat) : Bytes :=
  let b := bistBytes i 266240
  let q := int8s (b.drop 262144)
  (splitAll 4096 (b.take 262144)).flatMap fun v => leBytes 8 ((exactDist 1 q (int8s v) (sumsqOf (int8s v))).emod (2 ^ 64)).toNat

/-- What a unit gives on a pattern. -/
def unitResult (u : TestUnit) (i : Nat) : Bytes :=
  (mget u.wrong i).getD (if u.typ = 2 then bistArray i else if u.typ = 3 then bistGleaner i else [])

/-- Whether two units of one type give different results on some pattern. -/
def unitsDiffer (u v : TestUnit) : Bool := v.typ == u.typ && (u.wrong ++ v.wrong).any fun e => unitResult u e.1 != unitResult v e.1

/-- The units that fail the extended test (R395): a check failed, or another unit of the type gave other results. -/
def failedUnits (units : List TestUnit) : List TestUnit := units.filter fun u => !u.ok || units.any (unitsDiffer u)

/-- REJOIN_TEST_END (R395): the extended test that a commit started ends, 1,250 steps after its start; a failure names its unit, its
type in the high half of DETAIL (log 183). -/
def execRejoinTestEnd (units : List TestUnit) (s : State) : Host.Outcome State Fault Refusal :=
  match s.pwr.test with
  | none => .next s
  | some (_, due) =>
    if s.step.number < due then .next s else
    let s1 := { s with pwr := { s.pwr with test := none } }
    let bad := failedUnits units
    .next (bad.foldl (fun (s : State) u => s.raise 0xB011 locField (u.typ * 2 ^ 32 + u.num)) (s1.setN 0xB040 2 (if bad.isEmpty then 1 else 2)))

end Sys2Proof.Machine
end

