-- ==== Sys2Proof/Machine/Links.lean ====
section
/-! DEFINITION. Hedge links: lanes, flits and retry, messages (R304 to R309, R367). -/

namespace Sys2Proof.Machine

/-! ### Ports (R304, R306) -/

def State.hp (s : State) (p : Nat) : HPort := mgetD s.hedge p HPort.reset
def State.modHp (s : State) (p : Nat) (f : HPort → HPort) : State := { s with hedge := mupd s.hedge p HPort.reset f }

/-- HPORT.STATE, HPORT.LANE_MAP and HPORT.PEER_ID of a port, and whether the node may use the spare (R306). -/
def State.hState (s : State) (p : Nat) : Nat := s.liveN (0x8020 + p) 1
def State.setHState (s : State) (p v : Nat) : State := s.setN (0x8020 + p) 1 v
def State.laneMap (s : State) (p : Nat) : Nat := s.liveN (0x8020 + p) 3
def State.peerOf (s : State) (p : Nat) : Nat := s.liveN (0x8020 + p) 2
def State.spareArm (s : State) (p : Nat) : Bool := s.comN (0x8020 + p) 4 == 1

/-- CRC-32 of IEEE 802.3 over bytes. -/
def crcByte (c : Nat) (b : Byte) : Nat :=
  (List.range 8).foldl (fun c _ => if c % 2 = 1 then (c / 2) ^^^ 0xEDB88320 else c / 2) (c ^^^ b.toNat)
def crc32 (b : Bytes) : Nat := (b.foldl crcByte 0xFFFFFFFF) ^^^ 0xFFFFFFFF

/-- A flit (R307), its multi-byte fields little-endian (log 188). -/
def flitBytes (typ flags fsn ackFsn : Nat) (payload : Bytes) : Bytes :=
  let b := leBytes 1 typ ++ leBytes 1 flags ++ leBytes 2 fsn ++ leBytes 2 ackFsn ++ leBytes 2 payload.length ++ padTo 244 payload
  b ++ leBytes 4 (crc32 b)
def mkFlit (cls : Nat) (first last : Bool) (fsn ackFsn : Nat) (payload : Bytes) : Bytes :=
  flitBytes 1 (cls % 8 + (if first then 8 else 0) + (if last then 16 else 0)) fsn ackFsn payload

/-- A CONTROL or IDLE flit of a port: the FSN of its next DATA flit, and the highest FSN received in order. -/
def HPort.ctlFlit (h : HPort) (typ : Nat) (payload : Bytes) : Bytes := flitBytes typ 0 h.txFsn ((h.rxFsn + 65535) % 65536) payload
def ctlRecord (op arg : Nat) : Bytes := leBytes 1 op ++ zeros 7 ++ leBytes 8 arg

/-- The pieces of a flit, each with the physical lane that carries it: piece i goes to the i-th lane of HPORT.LANE_MAP (R307). -/
def RFlit.pieces (r : RFlit) : List (Nat × Bytes) := r.lanes.zip (splitAll 32 r.flit)

/-- A control record that the port sends at once (R307). -/
def State.sendCtl (s : State) (p op arg : Nat) : State := s.modHp p fun h => { h with ctl := h.ctl ++ [h.ctlFlit 2 (ctlRecord op arg)] }

/-- A port goes DOWN: its replay buffer and queues are discarded (R306).  Where its Gate die is lost, the die's own event stands
for it. -/
def State.portOut (s : State) (p : Nat) : State :=
  let s1 := (s.setHState p 0).setN (0x8020 + p) 2 0
  let s2 := s1.modHp p fun h =>
    { h with replay := [], halves := [], ctl := [], key := none, gap := false, tries := 0, downAt := s.step.number }
  ({ s2 with tx := s2.tx.filter fun x => x.port != p }).oweAgain p
def State.portDown (s : State) (p : Nat) : State := (s.portOut p).raise 0x8006 (locHedge p) 0

/-- Move the data position of a lane to the armed spare (R306). -/
def State.swapLane (s : State) (p lane spare : Nat) : State :=
  (((s.setN (0x8020 + p) 3 (setBit (clrBit (s.laneMap p) lane) spare)).bump (0x8020 + p) 6 1).modHp p fun h =>
    { h with spare := none, failed := some lane, tries := 0 }).raise 0x8001 (locHedgeLane p lane) 0

/-- A port enters RECOVERY: the attempts to retrain it as a whole begin with the next settle part (R306). -/
def State.recover (s : State) (p : Nat) : State := (s.setHState p 3).modHp p fun h => { h with recTries := 0 }

/-- LANE_FAILURE (R306): a lane fails when it loses lock, or when its symbol errors of 1 µs pass HEDGE.LANE_SER_LIMIT.  With an armed spare the receiver names the lane in a LANE_SWAP flit and the position
moves; otherwise the port enters RECOVERY.  A spare that fails is no longer armed and waits for retraining. -/
def execLaneFailure (port lane : Nat) (x : LaneFault) (s : State) : Host.Outcome State Fault Refusal :=
  if s.hState port ≠ 2 ∨ 8 < lane ∨ ¬ (x.lock ∨ s.actN 0x8010 3 < x.errors) then .next s
  else if ¬ bit (s.laneMap port) lane then
    .next (if (s.hp port).spare = some lane then s.modHp port fun h => { h with spare := none, failed := some lane, tries := 0 } else s)
  else match (s.hp port).spare with
    | some sp =>
      if s.spareArm port && x.peerArmed then .next ((s.sendCtl port 2 lane).swapLane port lane sp)
      else .next ((s.recover port).raise 0x8003 (locHedgeLane port lane) 0)
    | none => .next ((s.recover port).raise 0x8003 (locHedgeLane port lane) 0)

/-- LANE_SWAP (R306, R307): the peer names a failed lane, which the port acknowledges; with SPARE_ARM 0 the spare is never used. -/
def State.swapNamed (s : State) (port lane : Nat) : State :=
  match (s.hp port).spare with
  | some sp =>
    if s.hState port = 2 ∧ s.spareArm port ∧ bit (s.laneMap port) lane then (s.swapLane port lane sp).sendCtl port 4 0 else s
  | none => s
def execLaneSwap (port lane : Nat) (s : State) : Host.Outcome State Fault Refusal := .next (s.swapNamed port lane)

/-- Whether the node is in the settle part of a step, the next boundary before it (R24): lanes and ports retrain there only (R305). -/
def State.settling (s : State) : Bool := s.pwr.boot == .running && !s.step.open_

/-- LANE_RETRAIN (R305, R306): the attempt of a step's settle part, one per step; the lane that passes becomes the armed spare. -/
def execLaneRetrain (port : Nat) (ok : Bool) (s : State) : Host.Outcome State Fault Refusal :=
  match (s.hp port).failed with
  | none => .next s
  | some l =>
    if ¬ s.settling ∨ s.actN 0x8010 2 ≤ (s.hp port).tries ∨ (s.hp port).triedAt = some s.step.number then .next s
    else if ok then
      .next ((s.modHp port fun h => { h with spare := some l, failed := none, tries := 0 }).raise 0x8002 (locHedgeLane port l) 0)
    else .next (s.modHp port fun h => { h with tries := h.tries + 1, triedAt := some s.step.number })

/-- A port that has retrained as a whole is UP again: sending resumes from the oldest unacknowledged FSN (R306). -/
def State.recovered (s : State) (port rttNs : Nat) : State :=
  let again := fun (r : RFlit) => { r with retried := 0 }
  (((s.setHState port 2).modHp port fun h => { h with rtt := rttNs, recTries := 0, replay := h.replay.map again }).bump 0x8010 7
    (s.hp port).replay.length).raise 0x8005 (locHedge port) 0

/-- PORT_RECOVERY (R305, R306): an attempt to retrain the port as a whole, one in a step's settle part, where it begins and ends; after
HEDGE.RETRAIN_MAX of them the port goes DOWN. -/
def execPortRecovery (port : Nat) (ok : Bool) (rttNs : Nat) (s : State) : Host.Outcome State Fault Refusal :=
  if s.hState port ≠ 3 ∨ ¬ s.settling ∨ (s.hp port).recAt = some s.step.number then .next s
  else if s.actN 0x8010 2 ≤ (s.hp port).recTries then .next (s.portDown port)
  else if ok then .next (if s.liveN 0x8010 5 < rttNs then s.portDown port else s.recovered port rttNs)
  else if (s.hp port).recTries + 1 < s.actN 0x8010 2 then
    .next (s.modHp port fun h => { h with recTries := h.recTries + 1, recAt := some s.step.number })
  else .next (s.portDown port)

/-- The key of a port (R367): K of each end is the secret that it encapsulated, and A is the end with the lower identity. -/
def hedgeKey (own peer : Nat) (kOwn kPeer : Bytes) : Bytes :=
  let ab := if own < peer then kOwn ++ kPeer ++ leBytes 8 own ++ leBytes 8 peer else kPeer ++ kOwn ++ leBytes 8 peer ++ leBytes 8 own
  kmac256 (ab.take 64) (ab.drop 64) 36 "OC4-HEDGE"

/-- PORT_TRAINING (R304, R306, R367): a port that is in TRAINING, since bring-up or a retry of R306, trains. With SEC.HEDGE_SEAL the ends agree a key; a peer whose report or identity
does not verify leaves the port DOWN. -/
def execPortTraining (port peer rttNs : Nat) (ok reportOk : Bool) (ek ct : Bytes) (s : State) : Host.Outcome State Fault Refusal :=
  if 16 ≤ port ∨ s.hState port ≠ 1 ∨ s.ownerOf 3 port = ownOff then .next s
  else if ¬ ok then .next (s.setHState port 0)
  else if s.liveN 0x8010 5 < rttNs then .next (s.portDown port)
  else
    let sealOn := s.comN 0x9000 6 == 1
    if sealOn ∧ ¬ reportOk then .next ((s.setHState port 0).raise 0x8007 (locHedge port) 0)
    else
      let kOwn := (List.range 32).map (Config.kemEncaps s.freeCtr ek)
      let kPeer := (List.range 32).map (Config.kemDecaps s.sec.kemGen ct)
      let key := if sealOn then some (hedgeKey Config.peerId peer kOwn kPeer) else none
      let s1 := ((s.setHState port 2).setN (0x8020 + port) 2 peer).setN (0x8020 + port) 3 0xFF
      let h : HPort := { HPort.reset with spare := some 8, rtt := rttNs, key := key }
      let s2 := { s1 with freeCtr := s1.freeCtr + 1, hedge := mput s1.hedge port h }
      .next ((s2.sendCtl port 3 Config.peerId).raise 0x8005 (locHedge port) 0)

/-- PORT_REUP (R306): at every HEDGE.REUP_STEPS-th boundary a DOWN port trains again; 0 = never. -/
def execPortReup (port : Nat) (s : State) : Host.Outcome State Fault Refusal :=
  let n := s.actN 0x8010 6
  .next (if port < 16 ∧ s.hState port = 0 ∧ n ≠ 0 ∧ s.step.number % n = 0 ∧ s.ownerOf 3 port ≠ ownOff then s.setHState port 1 else s)

/-! ### Flits (R307, R308) -/

def flitCrcOk (f : Bytes) : Bool := f.length == 256 && crc32 (f.take 252) == u32 f 252
def flitClass (f : Bytes) : Nat := u8 f 1 % 8
def flitFirst (f : Bytes) : Bool := bit (u8 f 1) 3
def flitLast (f : Bytes) : Bool := bit (u8 f 1) 4

/-- Free the replay entries up to an acknowledged FSN (R308). -/
def State.acked (s : State) (p fsn : Nat) : State :=
  s.modHp p fun h =>
    if h.replay.any fun r => r.fsn == fsn then { h with replay := (h.replay.dropWhile fun r => r.fsn != fsn).drop 1 } else h

/-- Send again from an FSN on (R308): each resend counts as a retry of its FSN, and one retried HEDGE.RETRY_LIMIT times in a row
puts the port into RECOVERY. -/
def State.resendFrom (s : State) (p fsn : Nat) : State :=
  let h := s.hp p
  if s.hState p ≠ 2 ∨ ¬ (h.replay.any fun r => r.fsn == fsn) then s else
  let old := h.replay.takeWhile fun r => r.fsn != fsn
  let again := (h.replay.dropWhile fun r => r.fsn != fsn).map fun (r : RFlit) => { r with retried := r.retried + 1 }
  let s1 := (s.modHp p fun h => { h with replay := old ++ again }).bump 0x8010 7 again.length
  if again.any fun r => decide (s.actN 0x8010 1 ≤ r.retried) then
    (s1.recover p).raise 0x8004 (locHedge p) 0
  else s1

/-- RETRY and REPLAY_TIMEOUT (R308). -/
def execRetry (port fsn : Nat) (s : State) : Host.Outcome State Fault Refusal := .next (s.resendFrom port fsn)
def execReplayTimeout (port : Nat) (s : State) : Host.Outcome State Fault Refusal :=
  match (s.hp port).replay with
  | [] => .next s
  | r :: _ => .next (s.resendFrom port r.fsn)

/-- ACK (R308). -/
def execAck (port fsn : Nat) (s : State) : Host.Outcome State Fault Refusal := .next (s.acked port fsn)

/-- PEER_ID (R306, R307): the peer's identity. -/
def execPeerId (port peer : Nat) (s : State) : Host.Outcome State Fault Refusal :=
  .next (if s.hState port = 2 then s.setN (0x8020 + port) 2 peer else s)

/-! ### Messages (R309) -/

/-- The state after a command's effect. -/
def after (s : State) (o : Host.Outcome State Fault Refusal) : State :=
  match o with
  | .next t => t
  | _ => s

/-- The finished message of R202. -/
def sumsMsg (tau : Nat) (width : Nat) (b : Bytes) : SumsMsg :=
  let sums := (splitAll (4 + 4 * width) (b.drop 4)).map fun x => (u32 x 0, ((splitAll 4 (x.drop 4)).map fun y => BitVec.ofNat 32 (leNat y)))
  if u16 b 0 = 0 then .running tau sums else if u16 b 0 = 1 then .final tau sums
  else if u16 b 0 = 2 then .commit tau (u8 b 4) else .missing tau

/-- A segment image's messages, joined: the image and the epoch record that follows it (R146), or the image alone (R71). -/
def State.takeImage (s : State) (port seg shard : Nat) (body : Bytes) : State :=
  let k := 8 + seg
  let whole := mgetD (s.hp port).halves k [] ++ body
  let n := 16384 * segPages whole
  let s1 := s.modHp port fun h => { h with halves := mput h.halves k whole }
  if whole.length < n ∨ n = 0 then s1
  else if whole.length = n ∨ n + 64 + 40 * u16 whole (n + 4) ≤ whole.length then
    let s2 := s1.modHp port fun h => { h with halves := mdel h.halves k }
    match s2.slotOf shard with
    | none => s2
    | some i => match mget s2.shards i with
      | none => s2
      | some h =>
        if ((mget h.segs seg).map fun g => !g.loaded).getD false then after s2 (execSegmentRefetch i seg (whole.take n) s2)
        else after s2 (execSegmentImage port i (whole.take n) (whole.drop n) s2)
  else s1

/-- A part of a re-admission load; the parts of one item are joined (R397). -/
def State.takeLoad (s : State) (port shard : Nat) (body : Bytes) : State :=
  let k := 65544 + u16 body 0 * 65536 + u16 body 2
  let whole := mgetD (s.hp port).halves k [] ++ body.drop 16
  if whole.length < u64 body 8 then s.modHp port fun h => { h with halves := mput h.halves k whole }
  else
    let s1 := s.modHp port fun h => { h with halves := mdel h.halves k }
    match s1.slotOf shard with
    | none => s1
    | some i => after s1 (execRejoinLoad port i (loadItem (u16 body 0) (u16 body 2) whole) s1)

/-- A whole message reaches its consumer (R309). -/
def State.consumeMsg (s : State) (port typ tag shard : Nat) (body : Bytes) : State :=
  if typ = 1 then after s (execSubSearch port body s)
  else if typ = 2 then after s (execShardList port tag body s)
  else if typ = 3 then after s (execCertFields port tag body s)
  else if typ = 4 then after s (execLogRecords port body s)
  else if typ = 5 then after s (execLogAck port shard tag s)
  else if typ = 6 then after s (execLogResend port shard tag s)
  else if typ = 7 then s.takeImage port tag shard body
  else if typ = 8 then after s (execEmbRows port tag body s)
  else if typ = 9 then after s (execGradientBatch port body s)
  else if typ = 10 then
    after s (execRunningSums port shard (sumsMsg tag (((mget s.embs shard).map fun e => embWidth e.desc).getD 0) body) s)
  else if typ = 11 then after s (execPagePartials tag port body false s)
  else s.takeLoad port shard body

/-- A body that several messages of one type, TAG and shard carry is joined before it is consumed (log 222). -/
def State.joinMsg (s : State) (port typ tag shard : Nat) (body : Bytes) : State :=
  if typ = 7 ∨ typ = 12 then s.consumeMsg port typ tag shard body else
  let k := 2 ^ 140 + (typ * 2 ^ 64 + tag) * 2 ^ 32 + shard
  let whole := mgetD (s.hp port).halves k [] ++ body
  if body.length = 16777216 then s.modHp port fun h => { h with halves := mput h.halves k whole }
  else (s.modHp port fun h => { h with halves := mdel h.halves k }).consumeMsg port typ tag shard whole

/-- The IV of a sealed message: the port key's salt, the class, and the count of the class's messages (R367, log 224). -/
def hedgeIv (key : Bytes) (cls n : Nat) : Bytes := key.drop 32 ++ beBytes 1 cls ++ beBytes 7 n

/-- A message whose LAST flit has come: a reserved type or a wrong length is discarded (R309). -/
def State.deliver (s : State) (port : Nat) (m : Bytes) : State :=
  let typ := u8 m 0
  if m.length < 32 ∨ typ = 0 ∨ 12 < typ ∨ 16777216 < u32 m 4 ∨ m.length ≠ 32 + u32 m 4 then
    s.raise 0x8008 (locHedge port) 0
  else s.joinMsg port typ (u64 m 8) (u32 m 16) (sl m 32 (u32 m 4))

/-- A message as it came: under a port key it is opened first, and one whose tag fails is discarded (R367). -/
def State.openMsg (s : State) (port c : Nat) (m : Bytes) (tagOk : Bool) : State :=
  match (s.hp port).key with
  | none => s.deliver port m
  | some k =>
    let iv := hedgeIv k c ((s.hp port).sealRx.getD c 0)
    let s1 := s.modHp port fun h => { h with sealRx := h.sealRx.modify c (· + 1) }
    if tagOk then s1.deliver port ((List.range (m.length - 16)).map (Config.gcmOpen (k.take 32) iv m)) else s1.raise 0x9040 (locHedge port) 0

/-- The payload of an accepted flit joins its class's message; flits that no FIRST flit opened are no message. -/
def State.takeFlit (s : State) (port : Nat) (f : Bytes) (tagOk : Bool) : State :=
  let c := flitClass f
  let old := mget (s.hp port).halves c
  let s0 := if flitFirst f ∧ old.isSome then s.raise 0x8008 (locHedge port) 0 else s
  if ¬ flitFirst f ∧ old.isNone then (if flitLast f then s.raise 0x8008 (locHedge port) 0 else s) else
  let m := (if flitFirst f then [] else old.getD []) ++ sl f 8 (u16 f 6)
  if flitLast f then (s0.modHp port fun h => { h with halves := mdel h.halves c }).openMsg port c m tagOk
  else s0.modHp port fun h => { h with halves := mput h.halves c m }

/-- A control record that arrives (R307): RETRY, LANE_SWAP and PEER_ID act, and ACK is said by the flit's ACK_FSN. -/
def State.takeCtl (s : State) (port : Nat) (f : Bytes) : State :=
  let arg := u64 f 16
  if u16 f 6 ≠ 16 then s
  else if u8 f 8 = 1 then s.resendFrom port arg
  else if u8 f 8 = 2 then s.swapNamed port arg
  else if u8 f 8 = 3 then s.setN (0x8020 + port) 2 arg else s

/-- A DATA flit is acknowledged by the next flit of the port, or by a control flit where no message waits there (log 221). -/
def State.ackFlit (s : State) (port : Nat) : State := if s.tx.any fun x => x.port == port then s else s.sendCtl port 4 0

/-- DATA_FLIT (R307 to R309): accepted when FEC decoded it, its CRC passes and its FSN is the one expected; any other is discarded,
with one RETRY for each gap.  A flit that was received before opens no gap. -/
def execDataFlit (port : Nat) (flit : Bytes) (fecOk tagOk : Bool) (s : State) : Host.Outcome State Fault Refusal :=
  if s.hState port ≠ 2 then .next s else
  let h := s.hp port
  let retry := fun (s : State) => if h.gap then s else (s.sendCtl port 1 h.rxFsn).modHp port fun h => { h with gap := true }
  if ¬ fecOk ∨ ¬ flitCrcOk flit then .next (retry s)
  else
    let s1 := s.acked port (u16 flit 4)
    if u8 flit 0 ≠ 1 then .next (if u8 flit 0 = 2 then s1.takeCtl port flit else s1)
    else if u16 flit 2 = h.rxFsn then
      if u16 flit 6 = 0 ∨ 244 < u16 flit 6 then .next (retry s1)
      else
        .next ((s1.modHp port fun h => { h with rxFsn := (h.rxFsn + 1) % 65536, gap := false }).ackFlit port |>.takeFlit port flit tagOk)
    else if 32768 ≤ (u16 flit 2 + 65536 - h.rxFsn) % 65536 then .next s1
    else .next (retry s1)

end Sys2Proof.Machine
end

