-- ==== Sys2Proof/Machine/Dict.lean ====
section
/-! DEFINITION. The Falyn dictionary: reading, staging, the field network and the mirror (R323 to R330, R380). -/

namespace Sys2Proof.Machine

/-! ### Sources (R330) -/

def srcKey : Src → Nat
  | .mac m => 2 * m
  | .qp q => 2 * q + 1

def emptyResult : SrcResult :=
  { commit := zeros 64, confirm := zeros 32, report := [], nonce := [], att := 0, attPub := 0, gen := 0 }
def State.result (s : State) (x : Src) : SrcResult := mgetD s.dict.results (srcKey x) emptyResult
def State.modResult (s : State) (x : Src) (f : SrcResult → SrcResult) : State :=
  { s with dict := { s.dict with results := mupd s.dict.results (srcKey x) emptyResult f } }

/-- The privileged queue pairs (R329). -/
def State.privileged (s : State) (qp : Nat) : Bool := [1, 2, 3, 4].any fun k => s.comN 0x1031 k == qp

/-- A source's staging set, and the bytes it holds. -/
def State.stagedSet (s : State) (x : Src) : Option StagedSet := s.dict.sets.find? fun t => t.src == x
def StagedSet.bytes (t : StagedSet) : Nat := sumNat (t.vals.map fun v => v.2.length)

/-- Whether the Hand serves the dictionary (R18, R380). -/
def State.handServes (s : State) : Bool := (s.pwr.boot == .running || s.pwr.boot == .halt) && s.node.handAlive

/-! ### Reads (R323) -/

/-- RES.TABLE (R345): one record per resource, with the entry that set its owner. -/
def State.resSource (s : State) (typ idx : Nat) : Nat × Nat :=
  if s.ownerOf typ idx = defaultOwner typ then (0, 0)
  else if typ = 3 then (0x8020 + idx, 5) else if typ = 4 then (0x8040 + idx, 5)
  else if typ = 5 then (if bitAt (s.com 0x6020 2) idx then (0x6020, 2) else (0x6020, 1))
  else (0x2201, 1)
def State.resTable (s : State) : Bytes :=
  [1, 2, 3, 4, 5, 6, 7].flatMap fun t => (List.range (resCount t)).flatMap fun i =>
    let src := s.resSource t i
    leBytes 1 t ++ leBytes 1 (s.ownerOf t i) ++ zeros 2 ++ leBytes 4 i ++ leBytes 2 src.1 ++ leBytes 1 src.2 ++ zeros 5

/-- CONFIG_DIGEST (R335): over every RW entry in order; a value committed for reset enters it at that reset. -/
def State.configDigest (s : State) : Bytes :=
  digest (dictRwKeys.flatMap fun k =>
    let v := match dictRow k.1 k.2 with
      | some r => if r.eff = .reset then s.act k.1 k.2 else s.com k.1 k.2
      | none => []
    leBytes 2 k.1 ++ leBytes 1 k.2 ++ leBytes 4 v.length ++ v)

/-- The value that a source reads: the committed value of an RW entry; the node's own of an RO entry, as published at the last
boundary where the entry says so; none of a WO entry (R323). -/
def State.dictRead (s : State) (x : Src) (idx sub : Nat) : Bytes :=
  if idx = 0x1030 ∧ sub = 3 then (s.result x).commit
  else if idx = 0x1030 ∧ sub = 4 then leBytes 4 (((s.stagedSet x).map StagedSet.bytes).getD 0)
  else if idx = 0x9030 ∧ sub = 2 then (s.result x).report
  else if idx = 0x9030 ∧ sub = 3 then leBytes 1 (s.result x).attPub
  else if idx = 0x9040 ∧ sub = 3 then (s.result x).confirm
  else if idx = 0x2200 ∧ sub = 2 then s.resTable
  else match dictRow idx sub with
    | none => []
    | some r =>
      if r.acc = .rw then s.com idx sub
      else if r.acc = .wo then []
      else if r.eff = .eachBoundary then (mget s.dict.pub (dkey idx sub)).getD r.dflt
      else s.live idx sub

/-! ### Staging (R324, R328, R330) -/

/-- Whether an entry's value can exceed 32 bytes, and whether a value has its entry's size and encoding (R324). -/
def longEntry (t : DTyp) : Bool :=
  match dsize t with
  | some n => decide (32 < n)
  | none => true
def encOk (t : DTyp) (v : Bytes) : Bool :=
  match t with
  | .bool => v == [0] || v == [1]
  | .vis n => v.length == n && ((v.dropWhile fun b => decide (0x20 ≤ b.toNat) && decide (b.toNat ≤ 0x7E)).all (· == 0))
  | .dom => decide (v.length ≤ 16777216)
  | t => dsize t == some v.length

/-- Why an entry takes no staged value (R328): the code, or its row. -/
def stageRow (idx sub : Nat) : Nat ⊕ DRow :=
  match dictGroup idx with
  | none => .inl 1
  | some _ => match dictRow idx sub with
    | none => .inl 2
    | some r => if sub = 0 then .inl 5 else if r.acc = .ro then .inl 3 else .inr r

/-- Put a value into a source's set (R330): refused with BUSY while its commit is pending, for a ninth set, and past 4 MiB. -/
def State.putStaged (s : State) (x : Src) (idx sub : Nat) (v : Bytes) : State × Nat :=
  let t := (s.stagedSet x).getD ⟨x, [], false⟩
  let t1 : StagedSet := { t with vals := mput t.vals (dkey idx sub) v }
  if t.pending ∨ 4194304 < t1.bytes ∨ ((s.stagedSet x).isNone ∧ 8 ≤ s.dict.sets.length) then (s, 7)
  else ({ s with dict := { s.dict with sets := (s.dict.sets.filter fun y => y.src != x) ++ [t1] } }, 0)

/-- Whether a source's set has a commit pending. -/
def State.pendingSet (s : State) (x : Src) : Bool := ((s.stagedSet x).map (·.pending)).getD false || s.dict.commits.any fun c => c.src == x

/-- Ask the Hand for a commit (R331): it finishes within 16 steps, plus one for every 4 MiB of images that it hashes. -/
def State.askCommit (s : State) (x : Src) (txn : Option Nat) : State :=
  let t := (s.stagedSet x).getD ⟨x, [], false⟩
  let t1 : StagedSet := { t with pending := true }
  let sets := if (s.stagedSet x).isSome then (s.dict.sets.filter fun y => y.src != x) ++ [t1] else s.dict.sets
  { s with dict := { s.dict with sets := sets, commits := s.dict.commits ++ [⟨x, txn, s.step.number + 16 + t1.bytes / 4194304⟩] } }

/-- Drop a source's set. -/
def State.dropSet (s : State) (x : Src) : State := { s with dict := { s.dict with sets := s.dict.sets.filter fun y => y.src != x } }

/-- A staging write (R328): the result, and EV 0x2003 where it is refused.  A write of DICT.COMMIT or DICT.DISCARD acts at once. -/
def State.stageValue (s : State) (x : Src) (idx sub : Nat) (v : Bytes) : State × Nat :=
  match stageRow idx sub with
  | .inl c => (s.raise 0x2003 locField 0, c)
  | .inr r =>
    if ¬ encOk r.typ v then (s.raise 0x2003 locField 0, 4)
    else if s.pendingSet x then (s.raise 0x2003 locField 0, 7)
    else if idx = 0x1030 ∧ sub = 1 then (s.askCommit x none, 0)
    else if idx = 0x1030 ∧ sub = 2 then (s.dropSet x, 0)
    else
      let p := s.putStaged x idx sub v
      if p.2 = 0 then p else (p.1.raise 0x2003 locField 0, p.2)

/-! ### The field network (R325 to R327) -/

/-- The FDP header of a request (R326), in network byte order. -/
def fdpHeader (svc : Nat) (f : FdpFrame) : Bytes :=
  beBytes 1 f.version ++ beBytes 1 svc ++
  beBytes 1 ((if f.auth then 1 else 0) + (if f.last then 2 else 0) + (if f.staged then 8 else 0)) ++ [0] ++
  beBytes 2 f.transaction ++ beBytes 2 f.index ++ beBytes 1 f.sub ++ [0] ++ beBytes 2 f.value.length ++ beBytes 4 f.total ++
  beBytes 4 f.frameSeq ++ zeros 4

/-- Queue a response for the next transmit opportunity. -/
def State.respond (s : State) (svc : Nat) (f : FdpFrame) (result : Nat) (last : Bool) (total : Nat) (v : Bytes) : State :=
  { s with dict := { s.dict with resp := s.dict.resp ++ [(⟨f.mac, svc, last, result, f.transaction, f.index, f.sub, total, v⟩ : FdpResp)] } }
def State.answer (s : State) (svc : Nat) (f : FdpFrame) (result : Nat) : State := s.respond svc f result true 0 []

/-- The segmented transfer that a source holds (R327). -/
def State.xfer (s : State) (mac : Nat) : Option Xfer := s.dict.xfers.find? fun x => x.mac == mac
def State.endXfer (s : State) (mac : Nat) : State :=
  { s with dict := { s.dict with xfers := s.dict.xfers.filter fun x => x.mac != mac } }
def State.putXfer (s : State) (x : Xfer) : State :=
  let d := (s.endXfer x.mac).dict
  { s with dict := { d with xfers := d.xfers ++ [x], expired := d.expired.filter (· != x.mac) } }

/-- Whether a frame writes or commits, so that it needs AUTH while a management key is installed (R326). -/
def State.writeFrame (s : State) (svc : Nat) (f : FdpFrame) : Bool :=
  [2, 4, 7].contains svc || (svc == 5 && ((s.xfer f.mac).map (·.write)).getD false)

/-- Whether a frame is authorised (R326). -/
def State.authOk (s : State) (svc : Nat) (f : FdpFrame) : Bool :=
  match s.sec.mgmt with
  | none => true
  | some key =>
    if f.auth then
      f.tag == kmac256 key (fdpHeader svc f ++ f.value) 16 "OC4-FDP" && decide (∀ n ∈ mget s.dict.lastSeq f.mac, n < f.frameSeq)
    else !s.writeFrame svc f

/-- What the boot ROM serves in its halt (R380). -/
def romServes (svc idx sub : Nat) (writing : Bool) : Bool :=
  let reads := idx == 0x1000 || idx == 0xA050 || (idx == 0x9020 && (sub == 2 || sub == 3))
  if svc = 1 ∨ svc = 3 then reads else if svc = 4 then idx == 0x9020 && sub == 1 else svc == 5 && (reads || writing)

/-- Take a request frame: the rules that hold for every service, then the service itself (R325 to R327).  A request that repeats
the TRANSACTION of its source's previous one is not executed again. -/
def State.fdp (s : State) (svc : Nat) (f : FdpFrame) (run : State → State) : State :=
  let rom := s.pwr.boot == .romHalt
  if ¬ (s.handServes || rom) ∨ s.liveN 0x1020 1 = 0 then s
  else if f.broadcast ∧ ¬ (svc = 1 ∧ 0x1000 ≤ f.index ∧ f.index ≤ 0x1FFF) then s
  else
    let s1 := s.bump 0x1020 2 1
    if mget s.dict.lastTxn f.mac = some f.transaction then
      let waiting := (s.dict.resp.any fun r => r.mac == f.mac && r.txn == f.transaction) ||
        s.dict.commits.any fun c => c.src == .mac f.mac && c.txn == some f.transaction
      match waiting, mget s.dict.lastResp f.mac with
      | false, some r => { s1 with dict := { s1.dict with resp := s1.dict.resp ++ [r] } }
      | _, _ => s1
    else
      let s2 := { s1 with dict := { s1.dict with lastTxn := mput s1.dict.lastTxn f.mac f.transaction } }
      if f.version ≠ 1 then s2.answer svc f 11
      else if ¬ s.authOk svc f then ((s2.raise 0x1021 locField 0).bump 0x1020 4 1).answer svc f 9
      else
        let s3 := if f.auth ∧ s.sec.mgmt.isSome then
            { s2 with dict := { s2.dict with lastSeq := mput s2.dict.lastSeq f.mac f.frameSeq } }
          else s2
        if rom ∧ ¬ romServes svc f.index f.sub (((s.xfer f.mac).map (·.write)).getD false) then s3.answer svc f 11
        else run s3

/-- What a frame reads: the committed value, or with STAGED the value in its source's set. -/
def State.frameRead (s : State) (f : FdpFrame) : Bytes :=
  let committed := s.dictRead (.mac f.mac) f.index f.sub
  if f.staged then (((s.stagedSet (.mac f.mac)).bind fun t => mget t.vals (dkey f.index f.sub)).getD committed) else committed

/-- Why an entry is not read (R328). -/
def readFail (idx sub : Nat) (expedited : Bool) : Option Nat :=
  match dictGroup idx with
  | none => some 1
  | some _ => match dictRow idx sub with
    | none => some 2
    | some r => if r.acc = .wo then some 3 else if expedited && longEntry r.typ then some 4 else none

/-- READ_EXPEDITED. -/
def execReadExpedited (f : FdpFrame) (s : State) : Host.Outcome State Fault Refusal :=
  .next (s.fdp 1 f fun s => match readFail f.index f.sub true with
    | some c => s.answer 1 f c
    | none => s.respond 1 f 0 true 0 (s.frameRead f))

/-- WRITE_EXPEDITED. -/
def execWriteExpedited (f : FdpFrame) (s : State) : Host.Outcome State Fault Refusal :=
  .next (s.fdp 2 f fun s =>
    match stageRow f.index f.sub with
    | .inr r =>
      if longEntry r.typ ∨ 32 < f.value.length then (s.raise 0x2003 locField 0).answer 2 f 4
      else
        let p := s.stageValue (.mac f.mac) f.index f.sub f.value
        p.1.answer 2 f p.2
    | .inl _ =>
      let p := s.stageValue (.mac f.mac) f.index f.sub f.value
      p.1.answer 2 f p.2)

/-- READ_INIT: the length, and the first segment of at most 1,024 bytes. -/
def execReadInit (f : FdpFrame) (s : State) : Host.Outcome State Fault Refusal :=
  .next (s.fdp 3 f fun s =>
    if (s.xfer f.mac).isSome then s.answer 3 f 7
    else match readFail f.index f.sub false with
      | some c => s.answer 3 f c
      | none =>
        let v := s.frameRead f
        let s1 := s.respond 3 f 0 (decide (v.length ≤ 1024)) v.length (v.take 1024)
        if v.length ≤ 1024 then s1
        else s1.putXfer ⟨f.mac, f.transaction, false, f.index, f.sub, v.length, v, 1024, s.step.number⟩)

/-- Whether an image verifies: its header, its signature, its CODE_DIGEST, its SVN against the fuses and its feature level. -/
def State.fwOk (s : State) (v : Bytes) : Bool :=
  sl v 0 4 == ascii "OFWI" && u16 v 4 == 1 && decide (u8 v 6 < 4) &&
  v.length == 2916 + u64 v 16 && digest (v.drop 2916) == sl v 64 32 && Config.fwSignatureOk v &&
  decide (u32 (s.live 0x9020 4) (4 * u8 v 6) ≤ u32 v 8) && sl v 24 16 == featureLevel

/-- A verified firmware image is written to the inactive bank, which becomes active at the next reset (R358). -/
def State.stageImage (s : State) (v : Bytes) : State :=
  { s with sec := { s.sec with staged := mput s.sec.staged ((1 - s.sec.bank) * 4 + u8 v 6) v, swap := true } }

/-- The end of a segmented write: the value is staged; in a boot-ROM halt it is the image of FW.STAGE, which the boot ROM verifies
and writes to the other bank (R380). -/
def State.endWrite (s : State) (svc : Nat) (f : FdpFrame) (idx sub : Nat) (v : Bytes) : State :=
  let s1 := s.endXfer f.mac
  if s.pwr.boot = .romHalt then
    if s1.fwOk v then
      let s2 := s1.answer svc f 0
      { s2.stageImage v with pwr := { s2.pwr with boot := .reset } }
    else s1.answer svc f 5
  else
    let p := s1.stageValue (.mac f.mac) idx sub v
    p.1.answer svc f p.2

/-- WRITE_INIT. -/
def execWriteInit (f : FdpFrame) (s : State) : Host.Outcome State Fault Refusal :=
  .next (s.fdp 4 f fun s =>
    let refuse := fun (c : Nat) => (s.raise 0x2003 locField 0).answer 4 f c
    if (s.xfer f.mac).isSome then refuse 7
    else match stageRow f.index f.sub with
      | .inl c => refuse c
      | .inr r =>
        if s.pendingSet (.mac f.mac) then refuse 7
        else if (match dsize r.typ with | some n => n != f.total | none => decide (16777216 < f.total)) || decide (f.total < f.value.length) then refuse 4
        else if f.value.length = f.total then s.endWrite 4 f f.index f.sub f.value
        else if f.last then refuse 4
        else (s.answer 4 f 0).putXfer ⟨f.mac, f.transaction, true, f.index, f.sub, f.total, f.value, f.value.length, s.step.number⟩)

/-- SEGMENT: the next segment of a read, or of a write, which ends with the segment that moves its last byte. -/
def execSegment (f : FdpFrame) (s : State) : Host.Outcome State Fault Refusal :=
  .next (s.fdp 5 f fun s =>
    match s.xfer f.mac with
    | none => if s.dict.expired.contains f.mac then s.answer 5 f 10 else s.answer 5 f 8
    | some x =>
      if f.total ≠ x.moved then
        (if x.write then (s.endXfer f.mac).raise 0x2003 locField 0 else s.endXfer f.mac).answer 5 f 8
      else if x.write then
        let v := x.buf ++ f.value
        if x.total < v.length ∨ (f.last ∧ v.length < x.total) then (((s.endXfer f.mac).raise 0x2003 locField 0).answer 5 f 4)
        else if v.length = x.total then s.endWrite 5 f x.idx x.sub v
        else (s.answer 5 f 0).putXfer { x with buf := v, moved := v.length, since := s.step.number }
      else
        let b := sl x.buf x.moved 1024
        let moved := x.moved + b.length
        let s1 := s.respond 5 f 0 (decide (x.total ≤ moved)) x.moved b
        if x.total ≤ moved then s1.endXfer f.mac else s1.putXfer { x with moved := moved, since := s.step.number })

/-- ABORT. -/
def execAbort (f : FdpFrame) (s : State) : Host.Outcome State Fault Refusal :=
  .next (s.fdp 6 f fun s =>
    match s.xfer f.mac with
    | none => s.answer 6 f 8
    | some x => if f.value.length = 2 ∧ leNat f.value = x.txn then (s.endXfer f.mac).answer 6 f 0 else s.answer 6 f 8)

/-- COMMIT (R331): the response comes when the Hand applies or rejects the set. -/
def execCommit (f : FdpFrame) (s : State) : Host.Outcome State Fault Refusal :=
  .next (s.fdp 7 f fun s => if s.pendingSet (.mac f.mac) then s.answer 7 f 7 else s.askCommit (.mac f.mac) (some f.transaction))

/-- DISCARD (R330). -/
def execDiscard (f : FdpFrame) (s : State) : Host.Outcome State Fault Refusal :=
  .next (s.fdp 8 f fun s => if s.pendingSet (.mac f.mac) then s.answer 8 f 7 else (s.dropSet (.mac f.mac)).answer 8 f 0)

/-- TRANSFER_IDLE_EXPIRY (R327). -/
def execTransferIdleExpiry (mac : Nat) (s : State) : Host.Outcome State Fault Refusal :=
  match s.xfer mac with
  | none => .next s
  | some x =>
    if s.step.number < x.since + s.comN 0x1020 5 then .next s
    else
      let s1 := s.endXfer mac
      .next (({ s1 with dict := { s1.dict with expired := mac :: s1.dict.expired.filter (· != mac) } }).raise 0x1022 locField 0)

/-- TRANSMIT_OPPORTUNITY (R325, R327): at most one frame leaves. -/
def execTransmitOpportunity (s : State) : Host.Outcome State Fault Refusal :=
  match s.dict.resp with
  | [] => .next s
  | r :: rest =>
    if s.liveN 0x1020 1 = 0 then .next s
    else .next (({ s with dict := { s.dict with resp := rest, sent := s.dict.sent ++ [r], lastResp := mput s.dict.lastResp r.mac r } }).bump
      0x1020 3 1)

/-! ### The mirror (R329) -/

/-- A mirror write to staging: its result code. -/
def State.mirrorStage (s : State) (qp idx sub off : Nat) (b : Bytes) : State × Nat :=
  let x := Src.qp qp
  match stageRow idx sub with
  | .inl c => (s.raise 0x2003 locField 0, c)
  | .inr r =>
    let old := (s.stagedSet x).bind fun t => mget t.vals (dkey idx sub)
    match r.typ with
    | .dom =>
      let v := old.getD []
      if off ≠ v.length % 65536 then (s.raise 0x2003 locField 0, 8) else s.stageValue x idx sub (v ++ b)
    | .oct n =>
      if n < off + b.length then (s.raise 0x2003 locField 0, 4)
      else s.stageValue x idx sub (overlay (padTo n (old.getD (s.com idx sub))) off b)
    | .vis n =>
      if n < off + b.length then (s.raise 0x2003 locField 0, 4)
      else s.stageValue x idx sub (overlay (padTo n (old.getD (s.com idx sub))) off b)
    | _ => if off ≠ 0 then (s.raise 0x2003 locField 0, 4) else s.stageValue x idx sub b

/-- MIRROR_STAGING_WRITE: one that fails is refused with a NAK. -/
def State.mirrorWrite (s : State) (qp idx sub off : Nat) (b : Bytes) : State :=
  if ¬ s.handServes then { s with resp := .none }
  else if ¬ s.privileged qp then
    { s.raise 0x6001 locField (6 * 2 ^ 60 + idx * 2 ^ 24 + sub * 2 ^ 16 + off) with resp := .nak }
  else
    let p := s.mirrorStage qp idx sub off b
    { p.1 with resp := if p.2 = 0 then .done else .nak }

def execMirrorStagingWrite (qp idx sub off : Nat) (b : Bytes) (s : State) : Host.Outcome State Fault Refusal :=
  .next (s.mirrorWrite qp idx sub off b)

/-- DICT_COMMIT and DICT_DISCARD: writes that act at once. -/
def execDictCommit (qp : Nat) (s : State) : Host.Outcome State Fault Refusal := .next (s.mirrorWrite qp 0x1030 1 0 (zeros 4))
def execDictDiscard (qp : Nat) (s : State) : Host.Outcome State Fault Refusal := .next (s.mirrorWrite qp 0x1030 2 0 (zeros 4))

end Sys2Proof.Machine
end

