-- ==== Sys2Proof/Machine/Movers.lean ====
section
/-! DEFINITION. Cell-pool queues and data movers (R289 to R303). -/

namespace Sys2Proof.Machine

/-! ### Queues (R297 to R301) -/

def emptyQueue : QSt := ⟨0, [], [], 0, 0, false, [], []⟩
def queueKey (plot q : Nat) : Nat := plot * 65536 + q
def State.queue (s : State) (plot q : Nat) : QSt := mgetD s.queues (queueKey plot q) emptyQueue
def State.modQueue (s : State) (plot q : Nat) (f : QSt → QSt) : State :=
  { s with queues := mupd s.queues (queueKey plot q) emptyQueue f }

/-- The transfer and queue entries of section 0x0002 (R290, R298). -/
def Plan.transfers (p : Plan) : List Nat := p.entries 2 32

/-- A queue of a plan: CLASS, CREDIT_CELLS and DEPTH_CELLS. Queues 0x0000 and 0x0001 exist whatever the plan. -/
def State.queueDef (s : State) (plot q : Nat) : Option (Nat × Nat × Nat) :=
  if q ≤ 1 then some (4, 1024, 1024) else
  ((((s.tierPlan).map Plan.transfers).getD []).find? fun e =>
    bitsOf e 232 229 == 0xF && bitsOf e 243 240 == plot && bitsOf e 228 213 == q).map fun e =>
      (bitsOf e 212 210, bitsOf e 209 190, bitsOf e 189 170)

/-- The cells that a queue holds. -/
def QSt.held (x : QSt) : Nat := sumNat (x.pkts.map List.length) + x.open_.length

/-- The Field address of a cell (R21), and the lowest free cells of a plot's pool. -/
def cellAddr (plot c : Nat) : Nat := 5 * 2 ^ 60 + plot % 2 ^ 20 * 2 ^ 36 + c % 2 ^ 30 * 64
def State.freeCells (s : State) (plot n : Nat) : List Nat :=
  let used := (s.queues.filter fun e => e.1 / 65536 == plot).flatMap fun e => e.2.pkts.flatten ++ e.2.open_
  ((List.range (used.length + n)).filter fun c => !used.contains c).take n

/-- The bytes of cells of a packet (R297): the next cell, FIRST where they begin it, LAST where they end it, and the queue. -/
def packetCells (q : Nat) (cells : List Nat) (data : Bytes) (first last : Bool) : List (Nat × Bytes) :=
  let parts := splitAll 56 data
  ((cells.zip parts).zipIdx).map fun e =>
    let n := cells.length
    (e.1.1, padTo 56 e.1.2 ++ leBytes 3 ((cells[e.2 + 1]?).getD 0xFFFFFF) ++
      leBytes 1 ((if first && e.2 == 0 then 1 else 0) + (if last && e.2 + 1 == n then 2 else 0)) ++ leBytes 1 e.1.2.length ++ [0] ++ leBytes 2 q)

/-- Put cells behind the tail of a queue: the state, and the cells. -/
def State.putCells (s : State) (plot q : Nat) (tail : Option Nat) (data : Bytes) (first last : Bool) : State × List Nat :=
  let cells := s.freeCells plot (ceilDiv data.length 56)
  let link := fun (m : List (Nat × Byte)) => match tail with
    | some t => Memory.writeN m (cellAddr plot t + 56) (leBytes 3 (cells.headD 0))
    | none => m
  ({ s with mem := (packetCells q cells data first last).foldl (fun m e => Memory.writeN m (cellAddr plot e.1) (padTo 64 e.2)) (link s.mem) }, cells)

/-- A push that runs out of credit (R299): its cells have used up what was left, and it is reported. -/
def State.noCredit (s : State) (plot q : Nat) (f : QSt → QSt) : State :=
  ((s.modQueue plot q fun x => f { x with credits := 0 }).bump 0x4030 5 1).raise 0x4031 (locPlot plot) 0

/-- Push a whole packet against credit (R299): without enough credit it is discarded.  The answer says whether it was pushed. -/
def State.pushPacket (s : State) (plot q : Nat) (data : Bytes) : State × Bool :=
  let n := ceilDiv data.length 56
  let x := s.queue plot q
  if (s.queueDef plot q).isNone ∨ n = 0 then (s, false)
  else if x.credits < n then (s.noCredit plot q id, false)
  else
    let y := s.putCells plot q (x.open_.getLast? <|> (x.pkts.getLast?).bind List.getLast?) data true true
    (y.1.modQueue plot q fun x => { x with credits := x.credits - n, pkts := x.pkts ++ [y.2] }, true)

/-- The LAST cell of the packet that is being pushed has arrived (R300, R301): it takes its place in FIRST order, or is freed. -/
def QSt.close (x : QSt) : QSt :=
  { x with pkts := if x.fate = 0 then x.pkts.take x.ahead ++ [x.open_] ++ x.pkts.drop x.ahead else x.pkts, open_ := [], ahead := 0, fate := 0 }

/-- Push cells of a packet (R299).  One that runs out of credit is discarded whole, the cells that follow with it. -/
def State.pushCells (s : State) (plot q : Nat) (p : Push) : State :=
  let n := ceilDiv p.data.length 56
  let x := s.queue plot q
  if (s.queueDef plot q).isNone ∨ n = 0 then s
  else if x.fate = 2 then s.modQueue plot q fun x => if p.last then { x with fate := 0 } else x
  else if x.credits < n then s.noCredit plot q fun x => { x with open_ := [], ahead := 0, fate := if p.last then 0 else 2 }
  else
    let y := s.putCells plot q (x.open_.getLast? <|> (x.pkts.getLast?).bind List.getLast?) p.data x.open_.isEmpty p.last
    let add := fun (x : QSt) => { x with credits := x.credits - n, open_ := x.open_ ++ y.2, ahead := if x.open_.isEmpty then x.pkts.length else x.ahead }
    y.1.modQueue plot q fun x => if p.last then (add x).close else add x

/-- CELL_PUSH (R299).  A packet of a request makes the queue one of that request's, which the ledger flushes when the request is completed
or lost (R301). -/
def execCellPush (plot q : Nat) (req : Option Nat) (p : Push) (s : State) : Host.Outcome State Fault Refusal :=
  .next (if plot < 16 then
      let s1 := s.pushCells plot q p
      match req with
      | some tag => if (s1.queue plot q).held ≤ (s.queue plot q).held then s1 else s1.modQueue plot q fun y => { y with reqs := y.reqs.filter (· != tag) ++ [tag] }
      | none => s1
    else s)

/-- The payload of a packet's cells. -/
def State.packetData (s : State) (plot : Nat) (cells : List Nat) : Bytes :=
  cells.flatMap fun c => Memory.readN s.mem (cellAddr plot c) (min 56 (Memory.read s.mem (cellAddr plot c + 60)).toNat)

/-- The oldest packet of a queue: none while the one before it is still being pushed (R300). -/
def QSt.oldest (x : QSt) : Option (List Nat) := if x.ahead = 0 ∧ ¬ x.open_.isEmpty then none else x.pkts.head?

/-- Take the oldest packet off a queue. -/
def State.popPacket (s : State) (plot q : Nat) : State := s.modQueue plot q fun x => { x with pkts := x.pkts.drop 1, ahead := x.ahead - 1 }

/-- Mark cells as poisoned (R302). -/
def State.poisonCells (s : State) (plot : Nat) (cells : List Nat) : State :=
  { s with mem := cells.foldl (fun m c =>
      Memory.write m (cellAddr plot c + 59) (Memory.read m (cellAddr plot c + 59) ||| 4)) s.mem }

/-- An event record that leaves the event queue joins the step's records (R298, R302).  A packet whose code lies in a reserved
class is no event of this feature level, and is dropped (R5, log 146). -/
def State.queuedEvent (s : State) (data : Bytes) (poison : Bool) : State :=
  let r := { evOf data with poison := poison }
  if 1 ≤ r.code / 4096 ∧ r.code / 4096 ≤ 12 then { s with ev := { s.ev with raised := s.ev.raised ++ [r] } } else s

/-- A packet of SECDED words with one that cannot be corrected is discarded (R302). -/
def State.badPacket (s : State) (plot : Nat) (deps : List Nat) : State := ((s.bump 0x4030 3 1).raise 0x4030 (locPlot plot) 0).loseAll deps

/-- Words that fail parity are delivered with POISON set in their cells, and the consumer decides: the String of a command refuses it, and the Hand
sends it again; an event record keeps its mark; a handoff follows R172. -/
def State.popPoisoned (s : State) (plot q : Nat) (cells words : List Nat) (data : Bytes) (deps : List Nat) : State :=
  let hit := cells.zipIdx.filter fun c => words.any fun w => w / 8 == c.2
  let s2 := (s.poisonCells plot (hit.map (·.1))).bump 0x4030 4 (dedupBy id [] words).length
  if q = 0 then (s2.modQueue plot q fun x => { x with again := x.again ++ [data] }).raise 0x4032 (locPlot plot) 0
  else if q = 1 then (s2.queuedEvent data true).raise 0x4032 (locPlot plot) 0
  else deps.foldl (fun s t => s.lose t 10) (s2.raise 0x4014 (locPlot plot) 0)

/-- CELL_POP (R300, R302): the oldest whole packet, and what a damaged word does. -/
def execCellPop (plot q : Nat) (dmg : CellDamage) (deps : List Nat) (s : State) : Host.Outcome State Fault Refusal :=
  match (s.queue plot q).oldest with
  | none => .next s
  | some cells =>
    let cls := ((s.queueDef plot q).map (·.1)).getD 0
    let data := s.packetData plot cells
    let parity := decide (q ≤ 1) || cls == 4
    let s1 := s.popPacket plot q
    let whole := if q = 1 then s1.queuedEvent data false else s1
    match dmg with
    | .none => .next whole
    | .corrected n => .next (if parity then whole else whole.bump 0x4030 2 n)
    | .uncorrectable => .next (if parity then whole else s1.badPacket plot deps)
    | .poison words => .next (if parity then s1.popPoisoned plot q cells words data deps else whole)

/-- Ask for the flush of a queue (R301). -/
def State.askFlush (s : State) (plot q : Nat) : State := s.modQueue plot q fun x => { x with flush := true }

/-- Apply a pending flush: every whole packet is freed, and the one still being pushed when its LAST cell arrives. -/
def QSt.flushed (x : QSt) : QSt :=
  { x with pkts := [], flush := false, ahead := 0, fate := if x.open_.isEmpty ∨ x.fate ≠ 0 then x.fate else 1 }
def State.applyFlush (s : State) (plot q : Nat) : State :=
  if (s.queue plot q).flush then s.modQueue plot q QSt.flushed else s

/-- QUEUE_FLUSH_APPLY (R301). -/
def execQueueFlushApply (plot q : Nat) (s : State) : Host.Outcome State Fault Refusal := .next (s.applyFlush plot q)

/-- Every pending flush, in the settle part of the close phase. -/
def State.applyFlushes (s : State) : State :=
  s.queues.foldl (fun s e => s.applyFlush (e.1 / 65536) (e.1 % 65536)) s

/-- The credits of a boundary (R299), and the commands that the Hand sends again (R302). -/
def State.giveCredits (s : State) : State :=
  let defs := ((List.range 16).flatMap fun p => [(p, 0), (p, 1)]) ++
    ((((s.tierPlan).map Plan.transfers).getD []).filter fun e => bitsOf e 232 229 == 0xF).map fun e => (bitsOf e 243 240, bitsOf e 228 213)
  defs.foldl (fun s d => match s.queueDef d.1 d.2 with
    | none => s
    | some (_, credit, depth) =>
      let x := s.queue d.1 d.2
      let s1 := s.modQueue d.1 d.2 fun x => { x with credits := min credit (depth - x.held), again := [] }
      x.again.foldl (fun s b => (s.pushPacket d.1 d.2 b).1) s1) s

/-! ### Transfers (R290 to R294) -/

def xPlot (e : Nat) : Nat := bitsOf e 243 240

/-- The transfer entry that a command names: of the step's template and of the command's MODE, on a plot that takes its slots. -/
def State.transferAt (s : State) (idx mode : Nat) : Option Nat :=
  (((s.tierPlan).map Plan.transfers).getD [])[idx]?.bind fun e =>
    if bitsOf e 232 229 = mode ∧ bitsOf e 255 244 = s.template ∧ s.plotServes (xPlot e) then some e else none

def xLen (e : Nat) : Nat := bitsOf e 187 164
def xParam (e : Nat) : Nat := bitsOf e 163 148
def xSrc (e : Nat) : Nat := bitsOf e 127 64
def xDst (e : Nat) : Nat := bitsOf e 63 0

/-- Bit planes of a block of 8,192 elements of `w` bits (R291). -/
def planesOf (w : Nat) (dual : Bool) (block : Bytes) : Bytes :=
  (List.range w).flatMap fun b =>
    let p := bitmapOf 8192 fun i => bitAt block (i * w + b)
    if dual then p ++ p.map (~~~ ·) else p

/-- The elements of a block of `w` planes. -/
def elemsOfPlanes (w : Nat) (block : Bytes) : Bytes :=
  bitmapOf (8192 * w) fun j => bitAt (sl block ((j % w) * 1024) 1024) (j / w)

/-- The source bytes that a transfer reads, and where each part of its output goes: (address, bytes).  LENGTH may end within a field of a GATHER
or a SCATTER. -/
def moverOut (e : Nat) (mode : Nat) (read : Nat → Nat → Bytes) : List (Nat × Bytes) :=
  let n := xLen e
  let p := xParam e
  let w := p % 32 + 1
  let dual := mode == 1 && bit p 5
  if mode = 0 then [(xDst e, read (xSrc e) n)]
  else if mode = 1 then
    let per := w * 1024 * (if dual then 2 else 1)
    [(xDst e, (List.range (n / per)).flatMap fun k => planesOf w dual (read (xSrc e + k * w * 1024) (w * 1024)))]
  else if mode = 2 then
    [(xDst e, (List.range (n / (w * 1024))).flatMap fun k => elemsOfPlanes w (read (xSrc e + k * w * 1024) (w * 1024)))]
  else
    let stride := 64 * bitsOf p 15 8
    let off := 8 * bitsOf p 7 4
    let size := 8 * (bitsOf p 3 0 + 1)
    let some_ := fun (r : Nat) => min size (n - r * size)
    if mode = 3 then [(xDst e, (List.range (ceilDiv n size)).flatMap fun r => read (xSrc e + r * stride + off) (some_ r))]
    else (List.range (ceilDiv n size)).map fun r => (xDst e + r * stride + off, read (xSrc e + r * size) (some_ r))

/-- Why an engine's access to a range is refused (R20 to R22): reserved address bits, a range, a raw access to the window's home area
or a stack's reserved area, a bank group in tilling mode, a row class that only tilling uses, a command window out of tilling mode.  A mover
reads cells (R289). -/
def State.engineRefusal (s : State) (addr len : Nat) : Option Nat :=
  let r := faRegion addr
  if len = 0 then none
  else if r = 5 then
    if bitsOf addr 59 40 ≠ 0 ∨ bitsOf addr 35 26 ≠ 0 ∨ 67108864 < addr % 67108864 + len then some 0x6001 else none
  else if 4 ≤ r then some 0x6001
  else if r = 0 then (if bitsOf addr 59 41 ≠ 0 ∨ 16 * s.homeBytes < faWindow addr + len then some 0x6001 else none)
  else if r = 1 then
    if bitsOf addr 59 41 ≠ 0 ∨ 85899345920 < faStackOff addr + len ∨ faStackOff addr < 17179869184 + s.homeBytes then some 0x6001
    else if (s.rawRows addr len).any fun x => (s.tg x.1).st != 0 || rowClass x.2 != 4 then some 0x6002 else none
  else if r = 2 then
    if bitsOf addr 59 41 ≠ 0 ∨ bitsOf addr 28 16 ≠ 0 ∨ 65536 < addr % 65536 + len then some 0x6001
    else if ¬ s.winGroupOk addr ∨ (s.tg (s.winGroup addr)).st = 0 then some 0x6002 else none
  else match s.segExtent (bitsOf addr 55 40) with
    | none => some 0x7002
    | some e => if bitsOf addr 59 56 ≠ 0 ∨ 16384 * e.pages < addr % 2 ^ 40 + len then some 0x7002 else none

/-- The same for a write: the window pages that the node has allocated change only as R232 says, never by a transfer. -/
def State.writeRefusal (s : State) (addr len : Nat) : Option Nat :=
  match s.engineRefusal addr len with
  | some c => some c
  | none => match s.windowOf addr with
    | none => none
    | some o =>
      if (List.range (ceilDiv (o % 65536 + len) 65536)).any fun k => (mget s.tier.alloc (o / 65536 + k)).isSome then some 0x6001 else none

/-- The source ranges that a transfer reads (R291): a TRANSPOSE with DUAL_RAIL reads half of what it writes. -/
def readRanges (e : Nat) : List (Nat × Nat) :=
  let n := xLen e
  let p := xParam e
  let mode := bitsOf e 232 229
  if mode = 3 then
    let size := 8 * (bitsOf p 3 0 + 1)
    (List.range (ceilDiv n size)).map fun r => (xSrc e + r * (64 * bitsOf p 15 8) + 8 * bitsOf p 7 4, min size (n - r * size))
  else [(xSrc e, if mode = 1 ∧ bit p 5 then n / 2 else n)]

/-- The first range of a transfer whose access the node refuses, with the event: its sources in order, then what it writes. -/
def State.moverRefusal (s : State) (e : Nat) (out : List (Nat × Bytes)) : Option (Nat × Nat) :=
  ((readRanges e).findSome? fun r => (s.engineRefusal r.1 r.2).map fun c => (c, r.1)) <|>
    out.findSome? fun p => (s.writeRefusal p.1 p.2.length).map fun c => (c, p.1)

/-- A completion record (R294): the line read back and the bytes written, both 0 where nothing was written (log 218). -/
def moverRecord (s : State) (e idx result last bytes : Nat) : Bytes :=
  leBytes 1 (bitsOf e 239 239) ++ leBytes 1 (bitsOf e 238 233) ++ leBytes 1 result ++ [0] ++ leBytes 4 idx ++
  leBytes 6 s.step.number ++ zeros 2 ++ leBytes 8 last ++ leBytes 4 bytes ++ zeros 20

/-- Write the completion, where it is wanted; without credit the dependent requests are lost (R294). -/
def State.moverDone (s : State) (e idx result last bytes : Nat) (deps : List Nat) : State :=
  if bitsOf e 188 188 = 0 then s else
  let x := s.pushPacket (xPlot e) (bitsOf e 147 132) (moverRecord s e idx result last bytes)
  if x.2 then x.1 else x.1.loseAll deps

/-- What the share of a mover's buffer holds of the bytes streamed through it as a ring (R289). -/
def ringOf (share : Nat) (data : Bytes) : Bytes :=
  let at_ := data.length / share * share
  if data.length ≤ share then data else
  let tail := data.drop at_
  tail ++ sl data (at_ - share + tail.length) (share - tail.length)

/-- A transfer's channel names it, and its bytes pass its share of the mover's buffer (R289, R290). -/
def State.noteMove (s : State) (e idx : Nat) (data : Bytes) : State :=
  let k := 2 * xPlot e + bitsOf e 239 239
  let f := fun (m : Mover) => { m with
    chans := mput m.chans (bitsOf e 238 233) idx, buf := mput m.buf (bitsOf e 196 193) (ringOf (16384 * (bitsOf e 192 189 + 1)) data) }
  { s with step := { s.step with movers := mupd s.step.movers k ⟨[], []⟩ f } }

/-- Whether a transfer writes into a queue that waits to be flushed: its data is discarded (R294, R301). -/
def State.flushTarget (s : State) (e : Nat) : Bool :=
  let cell := xDst e / 64 % 1048576
  faRegion (xDst e) == 5 && s.queues.any fun q => q.1 / 65536 == bitsOf (xDst e) 39 36 && q.2.flush && (q.2.pkts.flatten ++ q.2.open_).contains cell

/-- A source read with an uncorrected error (R294): the data's own chapter decides.  A frame is dropped and the read repeated from its home, a
home page and a flash page follow R240, R71 and R277, and a packet of SECDED cells is discarded (R302).  The answer says whether the transfer
stands; where it does not, the dependent requests are lost. -/
def State.sourceFault (s : State) (e off : Nat) (deps : List Nat) : State × Bool :=
  let a := xSrc e + off % max 1 (xLen e)
  let loc := locPlot (xPlot e)
  if faRegion a = 3 then
    let u := (s.segExtent (bitsOf a 55 40)).bind fun x => mget s.flash.map (x.first + a % 2 ^ 40 / 16384)
    ((u.map (s.loseAll deps).unitLost).getD (s.loseAll deps), false)
  else if faRegion a = 5 then
    let cell := a / 64 % 1048576
    match s.queues.find? fun q => q.1 / 65536 == xPlot e && q.2.pkts.any (·.contains cell) with
    | some q => ((s.modQueue (q.1 / 65536) (q.1 % 65536) fun x => { x with pkts := x.pkts.filter fun p => !p.contains cell }).badPacket (xPlot e) deps, false)
    | none => (s.loseAll deps, false)
  else match s.windowOf a with
    | some o =>
      if s.tier.frames.contains (o / 65536) then s.frameFault (o / 65536) (xPlot e) loc deps
      else if (mget s.tier.alloc (o / 65536)).isSome then ((s.homeFault (o / 65536) loc).loseAll deps, false) else (s.loseAll deps, false)
    | none => (s.loseAll deps, false)

/-- How a transfer ends that writes `out` (R293, R294, R26).  Without CPL_WANT there is no read-back.  What one that the spill slot cut short has
written is open. -/
def State.moverEnd (s : State) (e idx : Nat) (out : List (Nat × Bytes)) (fin : MoveEnd) (deps : List Nat) : State :=
  let loc := locPlot (xPlot e)
  let last := ((out.getLast?).map fun p => (p.1 + p.2.length - 1) / 64 * 64).getD (xDst e)
  let used := s.spillUsed (xPlot e)
  let write := fun (s : State) => out.foldl (fun s p => s.writeField p.1 p.2) { s with freeCtr := s.freeCtr + 1 }
  let spoil := fun (s : State) => { s.writeField last (Config.freeBytes s.freeCtr 64) with freeCtr := s.freeCtr + 1 }
  let part := fun (s : State) => out.foldl (fun (s : State) p =>
    { s.writeField p.1 (Config.freeBytes s.freeCtr p.2.length) with freeCtr := s.freeCtr + 1 }) s
  let cut := fun (s : State) => ((part s).raise 0xC004 loc 0).loseAll deps
  let fine := fun (s : State) => (s.bump 0x6030 1 1).moverDone e idx 0 last (xLen e) deps
  let fail := fun (s : State) (n : Nat) =>
    (((((spoil (write s)).bump 0x6030 2 n).raise 0x6030 loc 0).raise 0xC004 loc 0).loseAll deps).moverDone e idx 1 last (xLen e) deps
  match fin with
  | .ok => fine (write s)
  | .mismatchOnce =>
    if bitsOf e 188 188 = 0 then fine (write s)
    else if used then fail s 1 else fine (((write (s.useSpill (xPlot e))).bump 0x6030 2 1).raise 0x6030 loc 0)
  | .mismatchTwice =>
    if bitsOf e 188 188 = 0 then fine (write s) else if used then fail s 1 else fail (s.useSpill (xPlot e)) 2
  | .overran => if used then cut s else fine ((write (s.useSpill (xPlot e))).raise 0xC003 loc 0)
  | .spillShort => cut (if used then s else s.useSpill (xPlot e))
  | .sourceUe off =>
    let x := ((s.bump 0x6030 3 1).raise 0x6031 loc 0).sourceFault e off deps
    if x.2 then fine (write x.1) else x.1.moverDone e idx 2 0 0 deps
  | .flushed => s.moverDone e idx 4 0 0 deps

/-- A transfer: its bytes, its read-back, its completion (R291, R293, R294).  One whose access is refused moves nothing, and the requests that
depend on it are lost (R22, log 147). -/
def State.transfer (s : State) (idx mode : Nat) (fin : MoveEnd) (deps : List Nat) : State :=
  match s.transferAt idx mode with
  | none => s
  | some e =>
    let out := moverOut e mode fun a n => (s.readField a n).1
    match s.moverRefusal e out with
    | some (code, a) => (s.raise code (locPlot (xPlot e)) a).loseAll deps
    | none =>
      if fin = .flushed ∨ s.flushTarget e then s.moverEnd e idx out .flushed deps
      else ((readRanges e).foldl (fun s r => s.countReads r.1 r.2) (s.noteMove e idx ((readRanges e).flatMap fun r => (s.readField r.1 r.2).1))).moverEnd e idx out fin deps

/-- COPY, TRANSPOSE, UNTRANSPOSE, GATHER, SCATTER (R291). -/
def execCopy (idx : Nat) (fin : MoveEnd) (deps : List Nat) (s : State) : Host.Outcome State Fault Refusal := .next (s.transfer idx 0 fin deps)
def execTranspose (idx : Nat) (fin : MoveEnd) (deps : List Nat) (s : State) : Host.Outcome State Fault Refusal := .next (s.transfer idx 1 fin deps)
def execUntranspose (idx : Nat) (fin : MoveEnd) (deps : List Nat) (s : State) : Host.Outcome State Fault Refusal := .next (s.transfer idx 2 fin deps)
def execGather (idx : Nat) (fin : MoveEnd) (deps : List Nat) (s : State) : Host.Outcome State Fault Refusal := .next (s.transfer idx 3 fin deps)
def execScatter (idx : Nat) (fin : MoveEnd) (deps : List Nat) (s : State) : Host.Outcome State Fault Refusal := .next (s.transfer idx 4 fin deps)

end Sys2Proof.Machine
end

