-- ==== Sys2Proof/Machine/Host.lean ====
section
/-! DEFINITION. Host access over RDMA: the regions of the Field address space, refusals, doorbells, ingress gates (R20 to R22, R155,
R156, R231, R249, R273, R312, R318, R366, R389). -/

namespace Sys2Proof.Machine

/-! ### Refusals (R22) -/

/-- The answer of a refused access: a NAK, and the event that names the address; its DATA_LOC is the Field (log 148). -/
def State.refuseAccess (s : State) (event addr : Nat) : State := { s.raise event locField addr with resp := .nak }

/-- Whether a range of region 0x0 or 0x1 lies in the read set of the plan in the current step. -/
def State.inReadSet (s : State) (addr len : Nat) : Bool :=
  (((s.tierPlan).map Plan.transfers).getD []).any fun e =>
    bitsOf e 255 244 == s.template && decide (bitsOf e 232 229 ≤ 4) &&
    (readRanges e).any fun r => decide (s.homeOf addr < s.homeOf r.1 + r.2) && decide (s.homeOf r.1 < s.homeOf addr + len)

/-- The partition of a queue pair. -/
def State.qpPart (s : State) (qp : Nat) : Nat := ((mget s.qps qp).map (·.part)).getD 0

/-- Whether a queue pair's partition owns a plot. -/
def State.ownsPlot (s : State) (qp plot : Nat) : Bool := s.partOfPlot plot == some (s.qpPart qp)

/-- Why an access is refused (R20 to R22): the event. `w` says that it is a write. -/
def State.refusal (s : State) (qp addr len : Nat) (w : Bool) : Option Nat :=
  let r := faRegion addr
  if 8 ≤ r ∨ 2 ^ 64 < addr + len then some 0x6001
  else if r = 0 then
    if bitsOf addr 59 41 ≠ 0 ∨ 16 * s.homeBytes < faWindow addr + len ∨ ¬ s.ownsPlot qp (faWindow addr / max 1 s.homeBytes) ∨
        ¬ s.ownsPlot qp ((faWindow addr + len - 1) / max 1 s.homeBytes) then some 0x6001
    else if w ∧ (s.actN 0x6010 4 * 1048576 < faWindow addr % max 1 s.homeBytes + len ∨ s.inReadSet addr len) then some 0x6001
    else none
  else if r = 1 then
    if ¬ s.privileged qp ∨ bitsOf addr 59 41 ≠ 0 ∨ 85899345920 < faStackOff addr + len ∨ ¬ s.ownsPlot qp (faStack addr) then some 0x6001
    else if faStackOff addr < 17179869184 + s.homeBytes then some 0x6001
    else if (s.rawRows addr len).any fun x => (s.tg x.1).st != 0 || rowClass x.2 != 4 then some 0x6002
    else if w then some 0x6001 else none
  else if r = 2 then
    if ¬ s.privileged qp ∨ bitsOf addr 59 41 ≠ 0 ∨ bitsOf addr 28 16 ≠ 0 ∨ 65536 < addr % 65536 + len ∨ ¬ s.ownsPlot qp (faStack addr) then
      some 0x6001
    else if ¬ s.winGroupOk addr ∨ (s.tg (s.winGroup addr)).st = 0 then some 0x6002 else none
  else if r = 3 then
    if w then some 0x7001
    else
      match s.segExtent (bitsOf addr 55 40) with
      | none => some 0x7002
      | some e =>
        if bitsOf addr 59 56 ≠ 0 ∨ 16384 * e.pages < addr % 2 ^ 40 + len ∨ e.part ≠ s.qpPart qp then some 0x7002 else none
  else if r = 4 then
    let kind := bitsOf addr 47 46
    let off := addr % 2 ^ 30
    match mget s.rings (bitsOf addr 45 30) with
    | none => some 0x6001
    | some q =>
      let own := q.qp == qp || s.privileged qp
      if bitsOf addr 59 48 ≠ 0 ∨ kind = 3 ∨ q.part ≠ s.qpPart qp then some 0x6001
      else if kind = 2 then
        (if 4096 < off + len ∨ (w ∧ (¬ own ∨ ¬ ((off < 4 ∧ off + len ≤ 4) ∨ (8 ≤ off ∧ off + len ≤ 12)))) then some 0x6001 else none)
      else if 64 * 2 ^ q.log2 < off + len ∨ (w ∧ (kind = 1 ∨ ¬ own)) then some 0x6001 else none
  else if r = 5 then
    (if w ∨ ¬ s.privileged qp ∨ bitsOf addr 59 40 ≠ 0 ∨ bitsOf addr 35 26 ≠ 0 ∨ 67108864 < addr % 2 ^ 26 + len ∨
      ¬ s.ownsPlot qp (bitsOf addr 39 36) then some 0x6001 else none)
  else if r = 6 then (if ¬ s.privileged qp ∨ bitsOf addr 59 40 ≠ 0 then some 0x6001 else none)
  else
    let off := addr % 2 ^ 32
    if bitsOf addr 59 32 ≠ 0 ∨ 4096 + 32 * s.ringRecords < off + len then some 0x6001 else none

/-! ### Effects -/

/-- A byte of a doorbell page (R156). -/
def doorbellBytes (q : Ring) : Bytes :=
  leBytes 4 q.reqTail ++ zeros 4 ++ leBytes 4 q.cplHead ++ zeros 4 ++ leBytes 4 q.reqHead ++ leBytes 4 q.cplTail ++ zeros 8

/-- A write of REQ_TAIL or CPL_HEAD (R156). -/
def Ring.doorbell (q : Ring) (off : Nat) (b : Bytes) : Ring :=
  let p := overlay (doorbellBytes q) off b
  { q with reqTail := u32 p 0, cplHead := u32 p 8 }

/-- EVENT_CONSUMED_WRITE: the consumer pointer (R389). -/
def State.consumedWrite (s : State) (off : Nat) (b : Bytes) : State :=
  if s.consumedOk off b then { s with ev := { s.ev with consumed := leNat b }, resp := .done }
  else s.refuseAccess 0x6001 (7 * 2 ^ 60 + off)

def execEventConsumedWrite (qp offset : Nat) (data : Bytes) (s : State) : Host.Outcome State Fault Refusal :=
  .next (if (mget s.qps qp).isSome then s.consumedWrite offset data else s)

/-- An RDMA WRITE reaches memory (R20 to R22); in regions 0x0 and 0x1 the engines see it from the next boundary. -/
def State.hostWrite (s : State) (qp addr : Nat) (b : Bytes) : State :=
  if b.isEmpty then { s with resp := .done }
  else if faRegion addr = 7 ∧ bitsOf addr 59 32 = 0 then s.consumedWrite (addr % 2 ^ 32) b
  else match s.refusal qp addr b.length true with
    | some e => s.refuseAccess e addr
    | none =>
      let r := faRegion addr
      if r = 6 then s.mirrorWrite qp (bitsOf addr 39 24) (bitsOf addr 23 16) (addr % 65536) b
      else if r = 4 ∧ bitsOf addr 47 46 = 2 then { s.modRing (bitsOf addr 45 30) (fun q => q.doorbell (addr % 2 ^ 30) b) with resp := .done }
      else if r = 4 then { s with mem := Memory.writeN s.mem addr b, resp := .done }
      else if r ≤ 1 then { s with tier := { s.tier with landing := s.tier.landing ++ [(addr, b)] }, resp := .done }
      else { s.writeField addr b with resp := .done }

/-- What an RDMA READ answers (R20 to R22, R329). -/
def State.hostRead (s : State) (qp addr len : Nat) : State :=
  if len = 0 then { s with resp := .data [] }
  else match s.refusal qp addr len false with
    | some e => s.refuseAccess e addr
    | none =>
      let r := faRegion addr
      if r = 6 then
        if ¬ s.handServes then { s with resp := .none }
        else { s with resp := .data (padTo len (sl (s.dictRead (.qp qp) (bitsOf addr 39 24) (bitsOf addr 23 16)) (addr % 65536) len)) }
      else if r = 4 ∧ bitsOf addr 47 46 = 2 then
        let page := ((mget s.rings (bitsOf addr 45 30)).map doorbellBytes).getD []
        { s with resp := .data (padTo len (sl page (addr % 2 ^ 30) len)) }
      else if r = 4 then { s with resp := .data (Memory.readN s.mem addr len) }
      else if r = 7 then { s with resp := .data ((List.range len).map fun k => s.eventByte (addr % 2 ^ 32 + k)) }
      else
        let p := s.landed.readField addr len
        { { s with freeCtr := p.2.freeCtr }.countReads addr len with resp := .data p.1 }

/-! ### The Ethernet port (R312, R313, R318) -/

/-- EPORT.STATE: whether a link is up. -/
def State.linkUp (s : State) (e : Nat) : Bool := s.liveN (0x8040 + e) 6 == 1

/-- Raise an event once per step in which its condition occurs. -/
def State.raiseStep (s : State) (code unit loc : Nat) : State :=
  let k := code * 2 ^ 64 + unit
  if mget s.ev.runs k = some s.step.number then s
  else ({ s with ev := { s.ev with runs := mput s.ev.runs k s.step.number } }).raise code loc 0

/-- The gate entries of a port and direction in its active list (R317), as (TEMPLATE, CLASS_MASK, LENGTH_CYCLES). -/
def State.gates (s : State) (port dir : Nat) : List (Nat × Nat × Nat) :=
  let l := s.liveN (0x8100 + port) 1
  ((((s.tierPlan).map fun p => p.entries 4 32).getD []).filter fun e =>
    bitsOf e 243 240 == l && bitsOf e 239 235 == port && bitsOf e 234 234 == dir).map fun e => (bitsOf e 255 244, bitsOf e 233 226, bitsOf e 209 194)

/-- The classes that a port's windows open in this step's template; a list without entries is open to every class. -/
def State.openClasses (s : State) (port dir : Nat) : Nat :=
  let g := s.gates port dir
  if g.isEmpty then 255 else (g.filter fun e => e.1 == s.template).foldl (fun m e => m ||| e.2.1) 0

/-- How long a class's window may last in ps: at most the longest that the list gives it in this step's template, at CLK_CORE (R315, R317). -/
def State.windowPs (s : State) (port ns c : Nat) : Nat :=
  let g := s.gates port 0
  if g.isEmpty then 1000 * ns else min (1000 * ns) (maxNat ((g.filter fun e => e.1 == s.template && bit e.2.1 c).map fun e =>
    e.2.2 * 1000000 / tierMhz s.step.tier))

/-- The bytes that a class buffer holds. -/
def EPort.queued (e : EPort) (c : Nat) : Nat := sumNat ((e.inQ.filter fun w => w.cls == c).map fun w => w.data.length)

/-- The PFC priorities of a port. -/
def State.pfc (s : State) (e c : Nat) : Bool := bit (s.actN (0x8040 + e) 4) c

/-- A write waits in its class buffer; a frame that finds it full is dropped, and XOFF is sent at 384 KiB (R312). -/
def State.holdWrite (s : State) (e : Nat) (w : HeldWrite) : State :=
  let n := (s.ep e).queued w.cls + w.data.length
  if 524288 < n then s.raiseStep 0x8018 e (locEth e)
  else
    let xoff := s.pfc e w.cls && decide (393216 ≤ n) && !bit (s.ep e).xoff w.cls
    s.modEp e fun p => { p with inQ := p.inQ ++ [w], xoff := if xoff then setBit p.xoff w.cls else p.xoff,
                                pfcSent := if xoff then p.pfcSent ++ [(w.cls, true)] else p.pfcSent }

/-- The class of an arriving frame (R313): its PCP, or what the DSCP map gives. -/
def State.classIn (s : State) (e : Nat) (x : FrameIn) : Nat := (x.pcp.getD (u8 (s.act (0x8040 + e) 8) (x.dscp % 64))) % 8

/-- The answer to a host's operation leaves (R311, R313): an acknowledgement or a negative one in class 7, the data of a read in the queue pair's
class. -/
def State.answerHost (s : State) (qp : Nat) : State :=
  match mget s.qps qp with
  | none => s
  | some q => match s.resp with
    | .done => s.emit (16 + q.port) 7 (.ack qp false)
    | .nak => s.emit (16 + q.port) 7 (.ack qp true)
    | .data b => s.emit (16 + q.port) q.cls (.reply qp b)
    | .none => s

/-- The RDMA READs of a queue pair whose data has not left (R311). -/
def State.readsOut (s : State) (qp : Nat) : Nat :=
  (s.tx.filter fun x => match x.msg with
    | .reply q _ => q == qp
    | _ => false).length

/-- A packet with a session's tag (R366): one whose tag fails is dropped. -/
def QPair.sealFails (q : QPair) (tagOk : Bool) : Bool := q.session.isSome && !tagOk

/-- HOST_RDMA_WRITE: while the class's ingress gate is closed the frames wait in the class buffer (R318). -/
def execHostRdmaWrite (qp : Nat) (addr : BitVec 64) (data : Bytes) (how : FrameIn) (s : State) : Host.Outcome State Fault Refusal :=
  match mget s.qps qp with
  | none => .next s
  | some q =>
    if q.ud ∨ q.state = 0 ∨ q.state = 3 ∨ ¬ s.linkUp q.port then .next s
    else if q.sealFails how.tagOk then .next (s.raiseStep 0x9032 qp (locEth q.port))
    else if (s.gates (16 + q.port) 1).isEmpty then .next ((s.hostWrite qp addr.toNat data).answerHost qp)
    else .next (s.holdWrite q.port ⟨s.classIn q.port how, qp, addr.toNat, data⟩)

/-- HOST_RDMA_READ; a queue pair has at most 16 outstanding (R311). -/
def execHostRdmaRead (qp : Nat) (addr : BitVec 64) (len : Nat) (tagOk : Bool) (s : State) : Host.Outcome State Fault Refusal :=
  match mget s.qps qp with
  | none => .next s
  | some q =>
    if q.ud ∨ q.state = 0 ∨ q.state = 3 ∨ ¬ s.linkUp q.port then .next s
    else if q.sealFails tagOk then .next (s.raiseStep 0x9032 qp (locEth q.port))
    else if 16 ≤ s.readsOut qp then .next ({ s with resp := .nak }.answerHost qp)
    else .next ((s.hostRead qp addr.toNat len).answerHost qp)

/-- INGRESS_WINDOW (R312, R318): the frames of the open classes reach memory in order; XON at 128 KiB. -/
def execIngressWindow (port classes : Nat) (s : State) : Host.Outcome State Fault Refusal :=
  let open_ := classes &&& s.openClasses (16 + port) 1
  let mine := (s.ep port).inQ.filter fun w => bit open_ w.cls
  let s1 := s.modEp port fun p => { p with inQ := p.inQ.filter fun w => !bit open_ w.cls }
  let s2 := mine.foldl (fun (s : State) w => (s.hostWrite w.qp w.addr w.data).answerHost w.qp) s1
  let xon := (List.range 8).filter fun c => bit (s2.ep port).xoff c && decide ((s2.ep port).queued c ≤ 131072)
  .next (s2.modEp port fun p => { p with xoff := xon.foldl clrBit p.xoff, pfcSent := p.pfcSent ++ xon.map fun c => (c, false) })

end Sys2Proof.Machine
end

