-- ==== Sys2Proof/Machine/Traffic.lean ====
section
/-! DEFINITION. Ethernet, RoCEv2 and traffic scheduling (R307, R310 to R321). -/

namespace Sys2Proof.Machine

def State.tp (s : State) (p : Nat) : TPort := mgetD s.traf p TPort.reset
def State.modTp (s : State) (p : Nat) (f : TPort → TPort) : State := { s with traf := mupd s.traf p TPort.reset f }
def State.modQp (s : State) (q : Nat) (f : QPair → QPair) : State := { s with qps := mmod s.qps q f }
def locPort (p : Nat) : Nat := if p < 16 then locHedge p else locEth (p - 16)

/-! ### Ethernet ports (R310, R314) -/

/-- The answers of the network layer: 1 REP, 2 REJ, 3 DREP, 4 CNP, 5 ARP announcement, 6 neighbour announcement, 7 NAK invalid
request, 8 ARP, 9 neighbour, 10 echo and 11 ICMPv6 echo answers. -/
def State.net (s : State) (e cls kind : Nat) (b : Bytes) : State := s.emit (16 + e) cls (.net kind b)

/-- ETH_LINK_DOWN and ETH_LINK_UP (R310, R314): a link comes up only with a partner that advertises the port's PMD.  A port whose link has returned
may fail over again. -/
def execEthLinkDown (port : Nat) (s : State) : Host.Outcome State Fault Refusal :=
  if 4 ≤ port ∨ ¬ s.linkUp port then .next s else
  .next (((s.setN (0x8040 + port) 6 0).modEp port fun p => { p with downAt := some s.step.number, paused := [] }).raise 0x8010 (locEth port) 0)
def execEthLinkUp (x : EthUp) (s : State) : Host.Outcome State Fault Refusal :=
  let port := x.port
  if 4 ≤ port ∨ s.linkUp port ∨ s.ownerOf 4 port = ownOff ∨ ¬ (if s.actN (0x8040 + port) 1 = 0 then x.kr4 else x.cr4) then .next s else
  .next (((s.setN (0x8040 + port) 6 1).modEp port fun p => { p with downAt := none, movedTo := none }).raise 0x8011 (locEth port) 0)

/-- The queue pair of a message. -/
def OutMsg.qp : OutMsg → Option Nat
  | .write q _ _ _ _ => some q
  | .send q _ => some q
  | _ => none

/-- The queue pair of a RoCEv2 message, answers included. -/
def OutMsg.qpn : OutMsg → Option Nat
  | .write q _ _ _ _ | .send q _ | .ack q _ | .reply q _ => some q
  | _ => none

/-- The addresses of a port, announced at its new place (R314). -/
def State.announce (s : State) (from_ e : Nat) : State :=
  ((splitAll 18 (s.act (0x8040 + from_) 3)).filter fun a => !allZero a).foldl (fun (s : State) a =>
    s.net e 0 (if u8 a 0 = 6 then 6 else 5) a) s

/-- ETH_FAILOVER (R314): a link has stayed down for 4 steps; a boundary follows. -/
def execEthFailover (port : Nat) (s : State) : Host.Outcome State Fault Refusal :=
  match (s.ep port).downAt with
  | none => .next s
  | some d =>
    let t := s.comN (0x8040 + port) 7
    if s.step.number < d + 4 ∨ (s.ep port).movedTo.isSome then .next s
    else if s.grant 13 && decide (t < 4) && decide (t ≠ port) && s.linkUp t then
      let s1 := (s.setN (0x8040 + port) 6 2).modEp port fun p => { p with movedTo := some t }
      let moved : QPair → QPair := fun q => if q.port = port then { q with port := t } else q
      let item := fun (x : TxItem) => if x.port = 16 + port ∧ x.msg.qpn.isSome then { x with port := 16 + t } else x
      let s2 := { s1 with qps := s1.qps.map fun (e : Nat × QPair) => (e.1, moved e.2), tx := s1.tx.map item }
      .next (((s2.announce port t).useGrant 13).raise 0x8012 (locEth port) 0)
    else .next (s.raise 0x8013 (locEth port) 0)

/-- Whether the MAC and the network layer take a frame (R310): 64 to 4,224 bytes, at most one 802.1Q tag, no fragment. -/
def NetFrame.ok (x : NetFrame) : Bool := decide (64 ≤ x.len) && decide (x.len ≤ 4224) && decide (x.tags ≤ 1) && !x.frag

/-- ARP_ND_ECHO (R310): answered, or discarded and counted. -/
def State.countDrop (s : State) (port : Nat) : State := s.modEp port fun p => { p with dropped := p.dropped + 1 }
def execArpNdEcho (port : Nat) (kind : EchoKind) (x : NetFrame) (s : State) : Host.Outcome State Fault Refusal :=
  if ¬ s.linkUp port then .next s else
  if ¬ NetFrame.ok x then .next (s.countDrop port) else
  match kind with
  | .arp => .next (s.net port 0 8 x.src)
  | .neighbour => .next (s.net port 0 9 x.src)
  | .icmp => .next (s.net port 0 10 x.src)
  | .icmp6 => .next (s.net port 0 11 x.src)
  | .other => .next (s.countDrop port)

/-! ### Queue pairs (R311 to R313) -/

/-- A queue pair just set up: its class from the traffic class's DSCP (R313), its timers as committed (R322). -/
def State.newQp (s : State) (e mtu tclass psn : Nat) (ud : Bool) : QPair :=
  { ud := ud, port := e, state := if ud then 2 else 1, mtu := mtu, sendPsn := Config.freeNat s.freeCtr % 2 ^ 24, recvPsn := psn % 2 ^ 24,
    ackPsn := 0, outstanding := [], retries := 0, retryMax := s.comN 0x8050 4, timeout := s.comN 0x8050 3, rate := 64, rateExp := 0, cuts := 0,
    lastCnp := none, congested := false, cls := u8 (s.act (0x8040 + e) 8) (tclass / 4) % 8, part := 0, session := none, sendSeq := 0,
    recvSeq := 0, spent := 0 }

/-- A queue pair goes, with what it had to send. -/
def State.dropQp (s : State) (qp : Nat) : State := { s with qps := mdel s.qps qp, tx := s.tx.filter fun x => x.msg.qpn != some qp }

/-- CM_MESSAGE (R311): the passive side of connection management on QP1.  A REJ ends a set-up that waits for its RTU; the node, which sends no DREQ,
has no use for a DREP. -/
def execCmMessage (port : Nat) (msg : CmMsg) (s : State) : Host.Outcome State Fault Refusal :=
  if ¬ s.linkUp port then .next s else
  match msg with
  | .req qp _ mtu tclass psn ud =>
    let n := (s.qps.filter fun e => e.2.ud == ud).length
    let ok := decide (1 < qp) && decide (qp < 2 ^ 24) && (mget s.qps qp).isNone && [256, 512, 1024, 2048, 4096].contains mtu &&
      decide (n < (if ud then s.liveN 0x8050 2 else s.liveN 0x8050 1)) && s.ownerOf 4 port == ownHost
    if ok then
      let part := ((s.rings.find? fun r => r.2.qp == qp).map (·.2.part)).getD 0
      let s1 := { s with qps := mput s.qps qp { s.newQp port mtu tclass psn ud with part := part }, freeCtr := s.freeCtr + 1 }
      .next (s1.net port 7 1 (beBytes 4 qp))
    else .next (s.net port 7 2 (beBytes 4 qp))
  | .rtu qp => .next (s.modQp qp fun q => if q.state = 1 then { q with state := 2 } else q)
  | .dreq qp =>
    if (mget s.qps qp).isNone then .next (s.net port 7 2 (beBytes 4 qp)) else .next ((s.dropQp qp).net port 7 3 (beBytes 4 qp))
  | .rej qp => .next (if (mget s.qps qp).any fun q => q.state == 1 then s.dropQp qp else s)
  | .drep _ => .next s

/-- ROCE_REFUSED_OPCODE (R311, R314). -/
def execRoceRefusedOpcode (qp : Nat) (s : State) : Host.Outcome State Fault Refusal :=
  match mget s.qps qp with
  | none => .next s
  | some q => .next ((s.net q.port 7 7 (beBytes 4 qp)).raise 0x8017 (locEth q.port) 0)

/-- A send-rate limit halved, down to 1/64 of line rate, and raised by 1/32 of line rate, up to line rate (R312), in exact arithmetic. -/
def QPair.halve (q : QPair) : QPair :=
  if q.rate ≤ 2 * 2 ^ q.rateExp then { q with rate := 1, rateExp := 0 }
  else if q.rate % 2 = 0 then { q with rate := q.rate / 2 } else { q with rateExp := q.rateExp + 1 }
def QPair.raised (q : QPair) : QPair :=
  if 62 * 2 ^ q.rateExp ≤ q.rate then { q with rate := 64, rateExp := 0 } else { q with rate := q.rate + 2 * 2 ^ q.rateExp }

/-- CNP_RECEIVE (R312). -/
def execCnpReceive (qp : Nat) (s : State) : Host.Outcome State Fault Refusal :=
  .next (s.modQp qp fun q => { q.halve with cuts := q.cuts + 1, congested := true })

/-- CE_MARKED_PACKET (R312): at most one congestion notification per queue pair per CNP_INTERVAL_NS. -/
def execCeMarkedPacket (qp nowNs : Nat) (s : State) : Host.Outcome State Fault Refusal :=
  match mget s.qps qp with
  | none => .next s
  | some q =>
    let due := match q.lastCnp with
      | none => true
      | some t => decide (t + s.actN (0x8040 + q.port) 9 ≤ nowNs)
    if due then .next ((s.modQp qp fun q => { q with lastCnp := some nowNs }).net q.port 7 4 (beBytes 4 qp)) else .next s

/-- PFC_PAUSE (R312): honoured on the priorities of PFC_PRIORITIES. -/
def execPfcPause (port prio : Nat) (pause : Bool) (s : State) : Host.Outcome State Fault Refusal :=
  if 4 ≤ port ∨ 8 ≤ prio ∨ ¬ s.pfc port prio then .next s
  else if pause then
    .next (s.modEp port fun p => if (mget p.paused prio).isSome then p else { p with paused := mput p.paused prio s.step.number })
  else .next (s.modEp port fun p => { p with paused := mdel p.paused prio })

/-- The messages of which frames are not acknowledged, each from its first such frame. -/
def QPair.resends (q : QPair) : List TxItem := ((q.outstanding.zipIdx).filter fun e => e.2 == 0 || e.1.2.done == 0).map fun e => e.1.2

/-- A queue pair that sends again from its oldest unacknowledged PSN. -/
def QPair.rewind (q : QPair) : QPair :=
  let first := (q.outstanding.head?.map (·.1)).getD q.sendPsn
  { q with outstanding := [], sendPsn := first, sendSeq := q.sendSeq - (if q.sendPsn < first then 1 else 0) }

/-- A retransmission: the unacknowledged frames go to the head of their class queue, with the same PSNs; or the error state once the
retries are spent (R311, R314). -/
def State.retryQp (s : State) (qp : Nat) (q : QPair) : State :=
  if q.retries < q.retryMax then
    { s with qps := mput s.qps qp { q.rewind with retries := q.retries + 1 },
             tx := q.resends ++ s.tx.filter fun x => x.msg.qp != some qp || x.done == 0 }
  else
    let lost := (s.tx.filter fun x => x.msg.qp == some qp).length + q.outstanding.length
    ((({ s with tx := s.tx.filter fun x => x.msg.qp != some qp }).modQp qp fun q => { q with state := 3, outstanding := [] }).modEp q.port
      fun p => { p with dropped := p.dropped + lost }).raise 0x8015 (locEth q.port) 0

/-- ROCE_ACK_TIMEOUT (R311, R314). -/
def execRoceAckTimeout (qp : Nat) (s : State) : Host.Outcome State Fault Refusal :=
  match mget s.qps qp with
  | none => .next s
  | some q => if q.outstanding.isEmpty ∨ q.state ≠ 2 then .next s else .next (s.retryQp qp q)

/-- ROCE_ACK_RECEIVED (R311): an acknowledgement covers every packet up to its PSN; a negative one every packet before it, and the
rest is sent again. -/
def execRoceAckReceived (qp psn : Nat) (nak : Bool) (s : State) : Host.Outcome State Fault Refusal :=
  match mget s.qps qp with
  | none => .next s
  | some q =>
    if ¬ (q.outstanding.any fun e => e.1 == psn) ∨ q.state ≠ 2 then .next s
    else
      let rest := q.outstanding.dropWhile fun e => e.1 != psn
      if nak then
        let q1 := { q with outstanding := rest }
        .next (({ s with qps := mput s.qps qp q1 }).retryQp qp q1)
      else .next (s.modQp qp fun q => { q with outstanding := rest.drop 1, ackPsn := psn, retries := 0 })

/-! ### Shapers (R316) -/

def shEnable (r : Nat) : Bool := bit r 63
def shIdle (r : Nat) : Nat := bitsOf r 62 40
def shHigh (r : Nat) : Nat := bitsOf r 39 16

/-- SHAPER_REFILL (R312, R316): registers committed since take effect, credit rises up to HI_CREDIT, and the rate limits of the
port's queue pairs without a congestion notification rise by 1/32 of line rate. -/
def execShaperRefill (port : Nat) (s : State) : Host.Outcome State Fault Refusal :=
  if 20 ≤ port then .next s else
  let regs := (List.range 8).map fun c => s.comN (0x8100 + port) (4 + c)
  let credit := fun (t : TPort) => (List.range 8).map fun c =>
    let r := regs.getD c 0
    min (shHigh r : Int) (t.credit.getD c 0 + shIdle r)
  let s1 := s.modTp port fun t => { t with shapers := regs, credit := credit t }
  let up := fun (q : QPair) =>
    if port = 16 + q.port then { (if q.congested then q else q.raised) with congested := false, spent := 0 } else q
  .next { s1 with qps := s1.qps.map fun e => (e.1, up e.2) }

/-! ### Egress (R307, R315) -/

/-- A RoCEv2 payload per packet: the path MTU, less the tag under a session (R366). -/
def QPair.payload (q : QPair) : Nat := max 1 (q.mtu - (if q.session.isSome then 16 else 0))

/-- The frames that a message takes on a port. -/
def State.framesOf (s : State) (x : TxItem) : Nat :=
  match x.msg with
  | .hedge _ b => ceilDiv (b.length + (if (s.hp x.port).key.isSome then 16 else 0)) 244
  | .write q _ _ d _ | .reply q d => max 1 (ceilDiv d.length (((mget s.qps q).map QPair.payload).getD 4096))
  | _ => 1

/-- The wire bytes of a message's next frame, preamble and gap included (R315): an untagged IPv4 frame carries 78 bytes of headers
with RETH, 62 without, 70 on a datagram queue pair, and 4 of immediate data or of an AETH, which an acknowledgement carries and the first and the
last packet of a read's data. -/
def State.wireBytes (s : State) (x : TxItem) : Nat :=
  match x.msg with
  | .hedge _ _ => 256
  | .write q _ _ d imm =>
    let p := ((mget s.qps q).map QPair.payload).getD 4096
    let tag := if (((mget s.qps q).bind (·.session)).isSome : Bool) then 16 else 0
    let last := decide (x.done + 1 = s.framesOf x)
    (if x.done = 0 then 78 else 62) + min p (d.length - x.done * p) + tag + (if last && imm.isSome then 4 else 0) + 20
  | .send _ d => 70 + d.length + 20
  | .ack _ _ => 66 + 20
  | .reply q d =>
    let p := ((mget s.qps q).map QPair.payload).getD 4096
    let tag := if (((mget s.qps q).bind (·.session)).isSome : Bool) then 16 else 0
    62 + min p (d.length - x.done * p) + tag + (if x.done = 0 ∨ x.done + 1 = s.framesOf x then 4 else 0) + 20
  | .net _ b => max 64 (62 + b.length) + 20

/-- Wire time in ps: 200 GB/s on Hedge, 400 Gb/s on Ethernet. -/
def State.wirePs (s : State) (x : TxItem) : Nat := if x.port < 16 then 1280 else 20 * s.wireBytes x

/-- Whether a frame's queue pair may send now (R312, R315): its rate limit, over the refill interval, is not spent. -/
def State.rateOk (s : State) (x : TxItem) : Bool :=
  match x.msg.qpn with
  | none => true
  | some k => match mget s.qps k with
    | none => true
    | some q => q.rate == 64 * 2 ^ q.rateExp || decide (q.spent * 64 * 2 ^ q.rateExp < 50 * s.comN 0x8030 1 * q.rate)

/-- Whether a port sends at all: a Hedge port that is UP with room in its replay buffer, an Ethernet port with its link up. -/
def State.portSends (s : State) (p : Nat) : Bool :=
  if p < 16 then s.hState p == 2 && decide ((s.hp p).replay.length < s.liveN 0x8010 4) else s.linkUp (p - 16)

/-- Whether a class may send (R315): its shaper credit is at least 0 and its priority is not paused. -/
def State.classOk (s : State) (p c : Nat) : Bool :=
  let t := s.tp p
  (!shEnable (t.shapers.getD c 0) || decide (0 ≤ t.credit.getD c 0)) && (p < 16 || (mget (s.ep (p - 16)).paused c).isNone)

/-- The frame of a class that may leave next: within a class in queue order, but one whose rate limit is spent is passed over. -/
def State.headOf (s : State) (p c : Nat) : Option (Nat × TxItem) :=
  ((s.tx.zipIdx).find? fun e => e.1.port == p && e.1.cls == c && s.rateOk e.1).map fun e => (e.2, e.1)

/-- The bytes of a Hedge message as sent: with a port key it is sealed whole, and its tag follows (R367). -/
def State.hedgeMsg (s : State) (p c : Nat) (b : Bytes) : Bytes :=
  match (s.hp p).key with
  | none => b
  | some k =>
    let iv := hedgeIv k c ((s.hp p).sealTx.getD c 0)
    (List.range b.length).map (Config.gcmSeal (k.take 32) iv b) ++ (List.range 16).map (Config.gcmTag (k.take 32) iv b)

/-- The IV of a queue pair's next payload to the host under its session: SALT_NH, the wraps of its PSN, and the PSN (R365, R366). -/
def QPair.sealIv (q : QPair) : Bytes :=
  match q.session with
  | none => []
  | some km => sl km 100 4 ++ beBytes 5 q.sendSeq ++ beBytes 3 q.sendPsn
def State.ivOf (s : State) (m : OutMsg) : Bytes := match m.qp with
  | none => []
  | some q => ((mget s.qps q).map QPair.sealIv).getD []

/-- One frame leaves (R307, R308, R315): a flit takes the next FSN and joins the replay buffer; a RoCEv2 packet takes its queue
pair's next PSN; the shaper pays. -/
def State.sendFrame (s : State) (p c k : Nat) (x : TxItem) : State :=
  let n := s.framesOf x
  let w := s.wireBytes x
  let s1 := match x.msg with
    | .hedge _ b =>
      let h := s.hp p
      let f := mkFlit c (x.done == 0) (decide (x.done + 1 = n)) h.txFsn ((h.rxFsn + 65535) % 65536) (sl (s.hedgeMsg p c b) (244 * x.done) 244)
      s.modHp p fun h => { h with txFsn := (h.txFsn + 1) % 65536, replay := h.replay ++ [(⟨h.txFsn, f, 0, bitList (s.laneMap p) 9⟩ : RFlit)],
                                  sealTx := if x.done + 1 = n then h.sealTx.modify c (· + 1) else h.sealTx }
    | .write q _ _ _ _ => s.modQp q fun q =>
        { q with outstanding := q.outstanding ++ [(q.sendPsn, x)], sendPsn := (q.sendPsn + 1) % 2 ^ 24, spent := q.spent + w,
                 sendSeq := q.sendSeq + (if q.sendPsn + 1 = 2 ^ 24 then 1 else 0) }
    | .send q _ => s.modQp q fun q => { q with sendPsn := (q.sendPsn + 1) % 2 ^ 24, spent := q.spent + w }
    | .ack q _ | .reply q _ => s.modQp q fun q => { q with spent := q.spent + w }
    | .net _ _ => s
  let s2 := s1.modTp p fun t => { t with credit := t.credit.modify c fun v => if shEnable (t.shapers.getD c 0) then v - (w : Int) else v }
  let iv := s.ivOf x.msg
  let y : TxItem := { x with done := x.done + 1, hdr := x.hdr.map fun h => { h with iv := iv } }
  if x.done + 1 < n then { s2 with tx := s2.tx.set k y } else { s2 with tx := s2.tx.eraseIdx k, sent := s2.sent ++ [y] }

/-- The window's frames: the highest open class whose head may leave and fits what is left of its class's window sends first; a class whose
head does not fit waits for its next window. -/
def State.drainWindow (s : State) (p open_ : Nat) (ps : List Nat) : Nat → State
  | 0 => s
  | fuel + 1 =>
    if ¬ s.portSends p then s else
    let cand := ([7, 6, 5, 4, 3, 2, 1, 0].filter fun c => bit open_ c && s.classOk p c).filterMap fun c => (s.headOf p c).map fun e => (c, e)
    match cand.find? fun e => decide (s.wirePs e.2.2 ≤ ps.getD e.1 0) with
    | none => s.modTp p fun t => { t with waited := cand.foldl (fun l e => l.modify e.1 (· + 1)) t.waited }
    | some (c, k, x) => (s.sendFrame p c k x).drainWindow p open_ (ps.map (· - s.wirePs x)) fuel

/-- The bytes that a class queue holds. -/
def TxItem.left (x : TxItem) (per : Nat) : Nat :=
  match x.msg with
  | .hedge _ b => b.length - per * x.done
  | .write _ _ _ d _ => d.length - per * x.done
  | .send _ d => d.length
  | .reply _ d => d.length - per * x.done
  | .ack _ _ => 0
  | .net _ b => b.length
def State.depthOf (s : State) (p c : Nat) : Nat :=
  sumNat ((s.tx.filter fun x => x.port == p && x.cls == c).map fun x =>
    x.left (if p < 16 then 244 else ((x.msg.qpn.bind (mget s.qps)).map QPair.payload).getD 4096))

/-- Sample the depths of a port's queues. -/
def State.sampleDepth (s : State) (p : Nat) : State :=
  s.modTp p fun t => { t with depth := (t.depth.zipIdx).map fun d => max d.1 (s.depthOf p d.2) }

/-- A Hedge port that has nothing more to send sends IDLE flits, which carry its ACK_FSN (R307). -/
def State.sendIdle (s : State) (p : Nat) : State :=
  if p < 16 ∧ s.hState p = 2 then s.modHp p fun h => { h with ctl := h.ctl ++ [h.ctlFlit 0 []] } else s

/-- EGRESS_WINDOW (R315): a window of a port for some classes, which the plan opens, lasts `openNs`, and for no class longer than its entries say. -/
def execEgressWindow (port openNs classes : Nat) (s : State) : Host.Outcome State Fault Refusal :=
  if 20 ≤ port then .next s else
  let mine := sumNat ((s.tx.filter fun x => x.port == port).map s.framesOf)
  .next (((s.sampleDepth port).drainWindow port (classes &&& s.openClasses port 0)
    ((List.range 8).map (s.windowPs port openNs)) (mine + 1)).sendIdle port)

/-! ### Gate lists and the counter latch (R319, R321) -/

/-- GATE_LIST_TAKEOVER (R319). -/
def State.doGateTakeover (s : State) (p : Nat) : State :=
  if s.comN (0x8100 + p) 3 ≠ s.step.number ∨ 20 ≤ p then s
  else (s.setN (0x8100 + p) 1 (s.comN (0x8100 + p) 2)).raise 0x8021 (locPort p) 0

/-- The counter latch of the egress queues (R321), pauses held too long (R312), and uncorrected codewords (R314). -/
def State.latchQueues (s : State) (delays : List (Nat × Nat)) (bad : List Nat) : State :=
  let one := fun (s : State) (p : Nat) =>
    let s1 := s.sampleDepth p
    let t := s1.tp p
    let block : Bytes := (List.range 8).flatMap fun c =>
      leBytes 4 (s.depthOf p c) ++ leBytes 4 (t.depth.getD c 0) ++ leBytes 4 (mgetD delays (8 * p + c) 0) ++ leBytes 4 (t.waited.getD c 0)
    let s2 := (s1.setLive (0x8100 + p) 0xC block).modTp p fun t => { t with depth := List.replicate 8 0, waited := List.replicate 8 0 }
    if (List.range 8).any fun c => decide (s.actN 0x8030 2 < mgetD delays (8 * p + c) 0) then s2.raiseRun 0x8020 p (locPort p) none 0 else s2
  let s1 := (List.range 20).foldl one s
  let s2 := (List.range 4).foldl (fun (s : State) e => (s.ep e).paused.foldl (fun (s : State) x =>
    if x.2 + 10 < s.step.number then s.raiseRun 0x8016 (e * 8 + x.1) (locEth e) none 0 else s) s) s1
  (bad.filter (· < 4)).foldl (fun (s : State) e => s.raiseRun 0x8014 e (locEth e) none 0) s2

end Sys2Proof.Machine
end

