-- ==== Sys2Proof/Machine/Supervisors.lean ====
section
/-! DEFINITION. Losing a supervisor, a Gate die or a plot (R16, R18, R19, R364, R393). -/

namespace Sys2Proof.Machine

/-! ### Gate dies -/

/-- Whether a request waits for something that only a port among `ports` can bring: a remote shard list, the rows of a gather,
or the answers of a spread cache (R18). -/
def State.needsPort (s : State) (ports : List Nat) (w : Work) : Bool :=
  (w.remotes.any fun x => ports.contains x.src.port && x.stage != 5) ||
  (w.gather.isSome && ((List.range 64).any fun n => ports.contains (s.nodePort n))) ||
  ((w.gen.map fun g => (s.otherPorts g).any ports.contains).getD false)

/-- The units of a Gate die go out of service (R18): its Hedge ports, its Ethernet port with the queue pairs and sessions it
serves, and its flash channels.  The requests that need one of them complete with LOST_CONTEXT. -/
def State.gateOut (s : State) (g : Nat) : State :=
  let ports := (List.range 4).map (4 * g + ·)
  let node := { s.node with gates := clrBit s.node.gates g, gateStrings := clrBit s.node.gateStrings g }
  let s1 := ({ s with node := node }).setN 0x1010 3 node.gates
  let s2 := ports.foldl State.portOut s1
  let s3 := ((s2.setN (0x8040 + g) 6 0).modEp g fun p => { p with downAt := none, paused := [], inQ := [], xoff := 0 })
  let s4 := { s3 with qps := s3.qps.filter fun e => e.2.port != g, tx := s3.tx.filter fun x => x.port != 16 + g }
  let s5 := (List.range 8).foldl (fun (s : State) c => s.channelOut (8 * g + c) []) s4
  s5.loseAll ((s5.ledger.works.filter fun w => s5.needsPort ports w.2).map (·.1))

/-- The lowest Bar that answers, other than that of a Gate die: it reports what no Hand can report (R18, log 145). -/
def State.otherBar (s : State) (g : Nat) : Nat := ((List.range 4).find? fun b => b != g && bit s.node.bars b).getD ((g + 1) % 4)

/-- The agent that reports the loss of a Gate die and of its Bar (R17, R18): the Hand, or a Bar where no Hand runs elsewhere. -/
def State.lossAgent (s : State) (g : Nat) : Nat :=
  if s.node.handAlive && s.node.handDie != g then s.handPath else s.barPath (s.otherBar g)

/-- A Bar no longer answers, as the Hand detects (R18). -/
def State.barOut (s : State) (b : Nat) : State :=
  let node := { s.node with bars := clrBit s.node.bars b,
                            restart := if s.grant 2 then setBit s.node.restart b else clrBit s.node.restart b }
  let s1 := ({ s with node := node }).setN 0x1010 4 node.bars
  s1.evBy (s1.lossAgent b) 0x1101 (locGate b) none 0

/-- A Gate die is lost (R18): EV 0x1107, and EV 0x1101 for its Bar.  A Hand that ran on the die, or was starting there, runs no longer;
without the die's sequencer no boundary comes, so every plot holds. -/
def State.gateLoss (s : State) (g : Nat) : State :=
  if 4 ≤ g ∨ ¬ bit s.node.gates g then s
  else
    let s1 := (s.evBy (s.lossAgent g) 0x1107 (locGate g) none 0).gateOut g
    let s2 := if bit s1.node.bars g then s1.barOut g else s1
    let s3 := { s2 with node := { s2.node with handAlive := s2.node.handAlive && s2.node.handDie != g,
                                               altStarting := s2.node.altStarting && g != 2 } }
    if s3.step.sequencer = g then { s3 with step := { s3.step with held := true } } else s3

/-- BAR_LOSS (R18). -/
def execBarLoss (b : Nat) (s : State) : Host.Outcome State Fault Refusal :=
  .next (if b < 4 ∧ bit s.node.bars b then s.barOut b else s)

/-- STRING_LOSS (R18): a plot's String, or a Gate die's. -/
def execStringLoss (gate : Bool) (n : Nat) (s : State) : Host.Outcome State Fault Refusal :=
  let k := if gate then 4 + n else 8 + n
  let again := if s.grant 2 then setBit s.node.restart k else clrBit s.node.restart k
  if gate then
    if n < 4 ∧ bit s.node.gateStrings n then
      .next (({ s with node := { s.node with gateStrings := clrBit s.node.gateStrings n, restart := again } }).raise 0x1104 (locGate n) 0)
    else .next s
  else if n < 16 ∧ bit s.node.strings n then
    .next (({ s with node := { s.node with strings := clrBit s.node.strings n, restart := again } }).raise 0x1104 (locPlot n) 0)
  else .next s

/-- AGENT_RESTART (R18): a Bar, or a plot's or Gate die's String, under the grant that stood when its loss was detected and stands
now (R339).  The String that supervises the place reports EV 0x1106 (log 145). -/
def execAgentRestart (isBar gate : Bool) (n : Nat) (s : State) : Host.Outcome State Fault Refusal :=
  let k := if isBar then n else if gate then 4 + n else 8 + n
  let fits := if isBar || gate then decide (n < 4) && bit s.node.gates n else decide (n < 16)
  if ¬ fits ∨ ¬ bit s.node.restart k ∨ ¬ s.grant 2 then .next s
  else
    let s1 := { s with node := { s.node with restart := clrBit s.node.restart k } }
    let s2 := if isBar then
        { s1 with node := { s1.node with bars := setBit s1.node.bars n } }.setN 0x1010 4 (setBit s1.node.bars n)
      else if gate then { s1 with node := { s1.node with gateStrings := setBit s1.node.gateStrings n } }
      else { s1 with node := { s1.node with strings := setBit s1.node.strings n } }
    .next ((s2.useGrant 2).raise 0x1106 (if isBar || gate then locGate n else locPlot n) 0)

/-! ### The Hand -/

/-- Start the alternate Hand on G2, under GRANT.HAND_ALTERNATE, where G2 is in service (R18). -/
def State.startAlternate (s : State) : State :=
  if s.grant 1 ∧ bit s.node.gates 2 then ({ s with node := { s.node with altStarting := true } }).useGrant 1 else s

/-- HAND_WATCHDOG_EXPIRY (R18): the watchdog on G0. -/
def execHandWatchdogExpiry (s : State) : Host.Outcome State Fault Refusal :=
  if ¬ s.node.handAlive ∨ s.node.handDie ≠ 0 ∨ s.node.g0Lost then .next s
  else .next ((({ s with node := { s.node with handAlive := false } }).raise 0x1102 (locHand s) 0).startAlternate)

/-- Complete every request in flight with LOST_CONTEXT and its phase (R18), without a replay. -/
def State.loseInFlight (s : State) : State :=
  s.ledger.fars.foldl (fun (s : State) e =>
    if e.2.owner = 0 ∨ e.2.phase = 0x0C then s else s.completeEmpty e.2.tag e.2 (mkStatus 9 e.2.phase)) s.loseReplays

/-- G0 is lost (R18): the sequencer on G0 stops.  With the grant, and G2 in service, the standby sequencer and the alternate Hand on G2
start; else every plot holds, and the Bars complete what is in flight.  Where G2 has taken over already, its sequencer and its Hand run
on.  Bars 1 to 3 detect the loss, and one of them reports it (log 145). -/
def State.g0Loss (s : State) : State :=
  if s.node.g0Lost ∨ s.pwr.boot ≠ .running then s
  else
    let s1 := ({ s with node := { s.node with g0Lost := true, handAlive := s.node.handAlive && s.node.handDie != 0 } }).evBy
      (s.barPath (s.otherBar 0)) 0x1105 (locGate 0) none 0
    let s2 := if s1.step.sequencer ≠ 0 then s1
      else if s1.grant 1 ∧ bit s1.node.gates 2 then
        let s2 := { s1 with step := { s1.step with sequencer := 2 } }
        if s2.node.handDie = 0 ∧ ¬ s2.node.altStarting then s2.startAlternate else s2
      else
        let s2 := { s1 with step := { s1.step with held := true } }
        s2.loseInFlight
    s2.gateLoss 0

/-- G0_LOSS (R18). -/
def execG0Loss (s : State) : Host.Outcome State Fault Refusal := .next s.g0Loss

/-- GATE_DIE_LOSS (R18): the loss of G0 is the case of its own. -/
def execGateDieLoss (g : Nat) (s : State) : Host.Outcome State Fault Refusal :=
  .next (if g = 0 then s.g0Loss else s.gateLoss g)

/-- A new encapsulation key pair (R364): its public key is published. -/
def State.newKemKey (s : State) : State :=
  let gen := s.sec.kemGen + 1
  ({ s with sec := { s.sec with kemGen := gen } }).setLive 0x9040 1 ((List.range 1568).map (Config.kemPublic gen))

/-- Blow the next fuse of the leaf bank: a new window begins (R359). -/
def State.blowFuse (s : State) : State :=
  let f := s.liveN 0x9000 4 + 1
  let n := (f - 1) * 2 ^ 30
  ((({ s with sec := { s.sec with leafTo := n } }).setN 0x9000 4 f).setN 0x9000 3 n).raise 0x9021 (locHand s) 0

/-- The leaf counter at bring-up and at a takeover (R359): NEXT resumes at RESERVED_TO; without a good copy a new window begins. -/
def State.resumeLeaf (s : State) (copyOk : Bool) : State := if copyOk then s.setN 0x9000 3 s.sec.leafTo else s.blowFuse

/-- ALTERNATE_HAND_TAKEOVER (R18, R325, R358, R359, R364): once its firmware has verified, from the running bank or from the other,
the alternate Hand takes over.  It reads the committed configuration again; what the lost Hand had in progress is gone. -/
def execAlternateHandTakeover (x : AltBoot) (s : State) : Host.Outcome State Fault Refusal :=
  if ¬ s.node.altStarting then .next s
  else if ¬ x.verified then
    if bit (s.liveN 0x9020 2) 1 then
      .next (({ s with node := { s.node with altStarting := false } }).raise 0x9003 (locUnit 2 4 0 0) 0)
    else
      .next ((({ s with sec := { s.sec with bank := 1 - s.sec.bank } }).setN 0x9020 2 (2 + (1 - s.sec.bank))).raise 0x9002 (locUnit 2 4 0 0) 0)
  else
    let node := { s.node with handDie := 2, handAlive := true, altStarting := false }
    let dict := { s.dict with sets := [], xfers := [], commits := [], resp := [], lastTxn := [], lastResp := [], expired := [] }
    let s1 := (({ s with node := node, dict := dict }).setN 0x1010 5 2).setN 0x1020 1 2
    let s2 := (s1.resumeLeaf x.leafOk).newKemKey
    .next ((s2.raise 0x1103 (locHand s2) 0).raise 0x9031 (locHand s2) 0)

/-! ### Plot faults (R393) -/

/-- The score of a plot over the last FAULT.WINDOW_STEPS steps. -/
def State.faultScore (s : State) (p : Nat) : Nat :=
  sumNat ((s.node.faults.filter fun f => f.2.1 == p && decide (s.step.number ≤ f.1 + s.actN 0xB020 1)).map fun f => f.2.2)

def State.overLimit (s : State) (p : Nat) : Bool := bit s.node.plots p && decide (s.actN 0xB020 2 ≤ s.faultScore p)

/-- The segments whose codes a plot holds go out of service at the next boundary (R71). -/
def State.plotSegsOut (s : State) (p : Nat) : State :=
  s.shards.foldl (fun (s : State) h =>
    (h.2.segs.filter fun g => s.codesPlot h.1 g.1 == p && g.2.inService).foldl (fun (s : State) g => s.segOut h.1 g.1) s) s

/-- PLOT_FAULT_LIMIT (R393): an item of the boundary that follows. -/
def State.doPlotLimit (s : State) (p : Nat) : State :=
  if 16 ≤ p ∨ ¬ s.overLimit p then s
  else if ¬ s.grant 0x0E then s.raiseRun 0x1108 p (locPlot p) none (s.faultScore p)
  else
    let s1 := { s with node := { s.node with retired := setBit s.node.retired p } }
    let s2 := after s1 (execPoolLoss (.plot p) s1)
    ((((s2.setN 0xB020 3 s2.node.retired).plotSegsOut p).useGrant 0x0E)).raise 0x1109 (locPlot p) 0

/-- The events that no window counts any more. -/
def State.pruneFaults (s : State) : State :=
  { s with node := { s.node with faults := s.node.faults.filter fun f => decide (s.step.number ≤ f.1 + s.actN 0xB020 1) } }

end Sys2Proof.Machine
end

