-- ==== Sys2Proof/Machine/Security.lean ====
section
/-! DEFINITION. Tenant switches and their scrubs, leaf indices and attestation reports (R348 to R353, R359 to R362). -/

namespace Sys2Proof.Machine

/-! ### Partitions (R348, R351) -/

def State.part (s : State) (p : Nat) : PartSt := mgetD s.parts p PartSt.reset
def State.modPart (s : State) (p : Nat) (f : PartSt → PartSt) : State := { s with parts := mupd s.parts p PartSt.reset f }

/-- PART.STATE (R368): 0 = serving, 1 = draining, 2 = scrubbing, 3 = failed, 4 = empty. -/
def State.partState (s : State) (p : Nat) : Nat :=
  match (s.part p).scrub with
  | some x => if x.chip = 4 ∨ x.ext = 4 then 3 else 2
  | none =>
    if ¬ s.partOpen p then 1 else if s.actN (0x9100 + p) 1 = 0 then 4 else 0

/-- Whether the drain of a partition's switch begins at this boundary: PART.STATE did not read 1 before it. -/
def State.tenantDrains (s : State) (p : Nat) : Bool :=
  (s.part p).scrub.isNone && !s.partOpen p && s.liveN (0x9100 + p) 5 != 1

/-- TENANT_DRAIN_START (R351). -/
def State.doTenantDrain (s : State) (p : Nat) : State :=
  if p < 8 ∧ s.tenantDrains p then (s.setN (0x9100 + p) 5 1).raise 0x9010 locField 0 else s

/-- Zero the bytes of memory from `lo` up to `hi`. -/
def State.clearRange (s : State) (lo hi : Nat) : State := { s with mem := s.mem.filter fun e => decide (e.1 < lo) || decide (hi ≤ e.1) }

/-- Destroy a ring pair: its backing is zeroed and its memory returns (R155, R351). -/
def State.destroyRing (s : State) (r : Nat) : State :=
  match mget s.rings r with
  | none => s
  | some q =>
    let n := min (64 * 2 ^ q.log2) (2 ^ 30)
    let s1 := (s.clearRange (ringAddr 0 r 0) (ringAddr 0 r 0 + n)).clearRange (ringAddr 1 r 0) (ringAddr 1 r 0 + n)
    let s2 := { s1 with rings := mdel s1.rings r }
    s2.setN 0x4010 2 s2.rings.length

/-- Close sessions, and count those that are open. -/
def State.closeSessions (s : State) (p : Nat → QPair → Bool) : State :=
  let close := fun (e : Nat × QPair) => if p e.1 e.2 then (e.1, { e.2 with session := none }) else e
  let s1 := { s with qps := s.qps.map close }
  s1.setN 0x9040 5 (s1.qps.filter fun e => e.2.session.isSome).length

/-- Empty a shard slot: every epoch is released, its window pages, extents and log records go (R351). -/
def State.clearShard (s : State) (i : Nat) : State :=
  match mget s.shards i with
  | none => s
  | some h =>
    let s1 := h.segs.foldl (fun (s : State) g => s.dropExtent i g.1) s
    let s2 := s1.releasePages fun p => decide (p.1 ≤ 2 ∨ p.1 = 4) && p.2.1 == i
    let fresh : Shard := { emptyShard h.id h.segBase h.segCount h.owner with partners := h.partners }
    let s3 := { s2 with shards := mput s2.shards i fresh,
                        log := { s2.log with recs := s2.log.recs.filter fun r => r.slot != i },
                        tier := { s2.tier with bmaps := s2.tier.bmaps.filter (fun b => b.slot != i), outQ := s2.tier.outQ.filter (fun o => o.1 != i),
                                               rebuild := s2.tier.rebuild.filter fun x => x != i },
                        ledger := { s2.ledger with rootQ := s2.ledger.rootQ.filter fun r => r.slot != i } }
    s3.setSlotState i 0

/-- What a partition holds goes (R351, stage 2, moves 1 to 3). -/
def State.emptyPart (s : State) (p : Nat) : State :=
  let mine := (s.rings.filter fun r => r.2.part == p).map (·.1)
  let s1 := s.closeSessions fun _ q => q.part == p
  let leave := fun (e : Nat × QPair) => if e.2.part = p then (e.1, { e.2 with part := 0 }) else e
  let s2 := { s1 with qps := s1.qps.map leave }
  let tags := (s2.ledger.fars.filter fun f => f.2.kind != 5 && mine.contains f.2.cplRing).map fun f => f.2.tag
  let s3 := tags.foldl State.freeReq s2
  let s4 := { s3 with ledger := { s3.ledger with audits := s3.ledger.audits.filter (fun a => !mine.contains a.ring),
                                                 replays := s3.ledger.replays.filter (fun r => !mine.contains r.cplRing),
                                                 losses := s3.ledger.losses.filter fun l => !mine.contains l.cplRing } }
  let s5 := mine.foldl State.destroyRing s4
  let s6 := s5.dropCaches fun c => c.2.part == p
  let empties := (s6.models.filter fun m => m.2.part == p).map (·.1)
  let s7 := empties.foldl (fun (s : State) m =>
    ((({ s with models := mdel s.models m }).setLive (0x5100 + m) 2 (zeros 32)).setN (0x5100 + m) 3 0).setN (0x5100 + m) 4 0 |>.setN (0x5100 + m) 5 0) s6
  let tabs := (s7.embs.filter fun t => t.2.part == p).map (·.1)
  let s8 := tabs.foldl (fun (s : State) t =>
    (({ s with embs := mdel s.embs t }).releasePages fun q => q.1 == 3 && q.2.1 == t).setN (0x5200 + t) 4 0) s7
  ((List.range 256).filter fun i => bitAt (s.act (0x9100 + p) 2) i).foldl State.clearShard s8

/-- Namespace p's LPNs are trimmed by one namespace-trim journal entry (R351). -/
def State.trimNamespace (s : State) (p : Nat) : State :=
  let base := s.actN (0x7040 + p) 1
  let keep := fun (l : Nat) => decide (l < base) || decide (base + s.actN (0x7040 + p) 2 ≤ l)
  { s with flash := { s.flash with
      map := s.flash.map.filter (fun e => keep e.1), pend := s.flash.pend.filter (fun e => keep e.lpn),
      extents := s.flash.extents.filter (fun e => e.part != p), logPages := s.flash.logPages.filter (fun l => l.part != p),
      due := s.flash.due.filter (· != p),
      journal := s.flash.journal.filter (fun e => keep e.lpn) ++ [(⟨base, unmapped, s.flash.writeSeq, s.actN (0x7040 + p) 2⟩ : JEntry)] } }

/-- TENANT_SWITCH (R351, stage 2), at the boundary of ACTIVATE_AT, or at once where that is past. -/
def State.tenantSwitches (s : State) (p : Nat) : Bool := ((s.part p).next.map fun w => decide (w.at_ ≤ s.step.number)).getD false
def State.doTenantSwitch (s : State) (p : Nat) : State :=
  match (s.part p).next with
  | none => s
  | some w =>
    if s.step.number < w.at_ then s else
    let s1 := (s.emptyPart p).trimNamespace p
    let run : Scrub := ⟨w.mode, s.step.number, if w.mode = 1 then 3 else 0, if w.mode = 0 then 3 else 0⟩
    let s2 := s1.modPart p fun x => { x with next := none, scrub := some run, owed := some w.mode, key := x.key + 1 }
    let s3 := (s2.setAct (0x9100 + p) 1 (leBytes 2 w.plots)).setAct (0x9100 + p) 2 w.shards
    ((s3.setN (0x9100 + p) 3 w.tenant).setN (0x9100 + p) 5 2).raise 0x9011 locField 0

/-! ### Scrubs (R352, R353) -/

/-- What ON_CHIP clears: the SRAM, the scale banks, the mover buffers and the cells of a partition's plots. -/
def State.clearChip (s : State) (p : Nat) : State :=
  let plots := s.partPlots p
  let mine := fun (n : Nat) => plots.contains n
  let s1 := plots.foldl (fun (s : State) n => s.clearRange (cellAddr n 0) (cellAddr n 0 + 2 ^ 36)) s
  { s1 with step := { s1.step with movers := s1.step.movers.filter fun m => !mine (m.1 / 2) },
            arrays := s1.arrays.filter (fun a => !mine (a.1 / 4)), queues := s1.queues.filter (fun q => !mine (q.1 / 65536)),
            tier := { s1.tier with frames := s1.tier.frames.filter (fun x => !mine (s.pageHome x)),
                                   demote := s1.tier.demote.filter (fun x => !mine (s.pageHome x)),
                                   promos := s1.tier.promos.filter fun x => !mine (s.pageHome x.page) } }

/-- What EXTERNAL clears: the window home area and the tilling area of a partition's stacks, whose state marks become CLEAN. -/
def State.clearExternal (s : State) (p : Nat) : State :=
  let plots := s.partPlots p
  let row := fun (n : Nat) => 2 ^ 64 + n * 128 * 80 * 4096 * 1024
  let one := fun (s : State) (n : Nat) => (s.clearRange (2 ^ 60 + n * 2 ^ 37) (2 ^ 60 + (n + 1) * 2 ^ 37)).clearRange (row n) (row (n + 1))
  let s1 := plots.foldl one s
  { s1 with tills := s1.tills.map fun e => if plots.contains (e.1 / 128) then (e.1, { e.2 with marks := [] }) else e }

/-- TENANT_SCRUB (R352, R353): one of a partition's scrubs ends with its verification; a failure runs it once more, and a second
one leaves the partition failed. -/
def execTenantScrub (p : Nat) (external ok : Bool) (s : State) : Host.Outcome State Fault Refusal :=
  match (s.part p).scrub with
  | none => .next s
  | some x =>
    let st := if external then x.ext else x.chip
    if 2 ≤ st ∨ 8 ≤ p then .next s
    else
      let to_ := if ok then 2 else if st = 0 then 1 else 4
      let s1 := if external then s.clearExternal p else s.clearChip p
      let put := fun (y : PartSt) => { y with scrub := some (if external then { x with ext := to_ } else { x with chip := to_ }) }
      let s2 := s1.modPart p put
      .next (if ok then s2 else s2.raise 0x9013 locField 0)

/-- The step length in ns (R23, R34, R383), and the guaranteed time of a scrub (R352). -/
def State.stepNs (s : State) : Nat :=
  let base := ((s.step.plan.bind fun p => p.plans.head?).map (·.stepNs)).getD (s.actN 0xC010 1)
  if s.step.seedling then 2 * s.actN 0xC010 1
  else if s.step.stretch then ceilDiv (base * tierMhz s.step.planTier) (tierMhz s.step.tier) else base
def State.scrubNs (s : State) (mode : Nat) : Nat := if mode = 0 then [600000, 800000, 1200000].getD s.step.tier 1200000 else 8500000

/-- TENANT_SCRUB_END (R351, stage 3): the partition admits again. -/
def State.scrubEnds (s : State) (p : Nat) : Bool :=
  match (s.part p).scrub with
  | none => false
  | some x => [2, 3].contains x.chip && [2, 3].contains x.ext &&
      decide (x.start + ceilDiv (s.scrubNs x.mode) (max 1 s.stepNs) ≤ s.step.number)
def State.doScrubEnd (s : State) (p : Nat) : State :=
  if 8 ≤ p ∨ ¬ s.scrubEnds p then s
  else
    let s1 := s.modPart p fun x => { x with scrub := none, owed := none }
    ((s1.setN (0x9100 + p) 5 (s1.partState p)).bump (0x9100 + p) 6 1).raise 0x9012 locField 0

/-! ### The leaf index (R359) -/

/-- Whether no index is left. -/
def State.leavesSpent (s : State) : Bool :=
  s.liveN 0x9000 3 == s.sec.leafTo && decide (s.liveN 0x9000 4 * 2 ^ 30 < s.sec.leafTo + 4096) && decide (1024 ≤ s.liveN 0x9000 4)

/-- Take the next leaf index, none where the last window is spent. -/
def State.takeLeaf (s : State) : Option (Nat × State) :=
  if s.leavesSpent then none
  else
    let s1 :=
      if s.liveN 0x9000 3 = s.sec.leafTo then
        let s1 := if s.liveN 0x9000 4 * 2 ^ 30 < s.sec.leafTo + 4096 then s.blowFuse else s
        { s1 with sec := { s1.sec with leafTo := s1.sec.leafTo + 4096 } }
      else s
    some (s1.liveN 0x9000 3, s1.setN 0x9000 3 (s1.liveN 0x9000 3 + 1))

/-! ### The attestation report (R360 to R362) -/

/-- Bytes in ascending order. -/
def bytesLt (a b : Bytes) : Bool := decide (beNat a < beNat b)

/-- The segment entries of an epoch (R147). -/
def segEntries (h : Shard) (e : Epoch) : Bytes :=
  e.sealed.flatMap fun n =>
    let g := mget h.segs n
    leBytes 2 n ++ zeros 2 ++ leBytes 4 ((g.map fun g => g.image.length / 16384).getD 0) ++ padTo 32 ((g.map (·.root)).getD [])

/-- The lists of a report: models, codebooks, tensor programs and shards (R362). -/
def State.attModels (s : State) (part : Nat) : List Bytes :=
  (s.models.filter fun m => !m.2.image.isEmpty && (part == 0xFF || m.2.part == part)).map fun m =>
    leBytes 2 m.1 ++ leBytes 1 (u8 m.2.image 6) ++ leBytes 1 (s.liveN (0x5100 + m.1) 5) ++ zeros 12 ++ digest m.2.image
def State.attShards (s : State) (part : Nat) : List (Nat × Shard) :=
  sortBy (fun a b => decide (a.2.id < b.2.id)) (s.shards.filter fun h =>
    h.2.id != 0xFFFFFFFF && !h.2.epochs.isEmpty && (part == 0xFF || bitAt (s.act (0x9100 + part) 2) h.1))
def State.attCodebooks (s : State) (part : Nat) : List Bytes :=
  let named := (s.attShards part).flatMap fun h => (h.2.segs.map fun g => segCb g.2.image) ++ h.2.deltas.map fun d => d.2.cb
  (sortBy bytesLt (named.foldl (fun l c => if l.contains c then l else l ++ [c]) [])).filter fun c => s.codebooks.any fun b => b.digest == c
def State.attPrograms (s : State) : List Bytes := (((s.step.plan.bind fun p => p.plans.head?).map Plan.programs).getD []).map digest

/-- The body of a report, its LEAF_INDEX 0 until it is signed (R361). -/
def State.attBody (s : State) (a : AttReq) : Bytes :=
  let models := s.attModels a.part
  let cbs := s.attCodebooks a.part
  let progs := s.attPrograms
  let shards := (s.attShards a.part).map fun h =>
    let e := h.2.cur
    leBytes 4 h.2.id ++ leBytes 4 e.num ++ leBytes 8 h.2.vis ++ leBytes 2 e.sealed.length ++ zeros 14 ++ snapRoot h.2 e h.2.vis ++ segEntries h.2 e
  let lists := models.flatten ++ cbs.flatten ++ progs.flatten ++ shards.flatten
  let n := 432 + lists.length
  ascii "OATR" ++ leBytes 2 1 ++ leBytes 1 a.part ++ [0] ++ leBytes 4 n ++ leBytes 4 (n + 9893) ++ padTo 32 a.nonce ++
  s.live 0x1000 4 ++ s.live 0x1000 5 ++ s.live 0x1000 2 ++ [0xB0] ++ zeros 7 ++ s.live 0x2000 3 ++ leBytes 8 s.step.number ++ zeros 8 ++
  s.live 0x9020 3 ++ s.live 0x9020 4 ++ s.planDigest ++ s.com 0xC020 2 ++ s.configDigest ++ digest (s.live 0x9040 1) ++
  (List.range 8).flatMap (fun p => leBytes 2 (s.actN (0x9100 + p) 1)) ++
  (if a.part = 0xFF then zeros 8 else s.live (0x9100 + a.part) 3) ++
  leBytes 2 models.length ++ leBytes 2 cbs.length ++ leBytes 2 progs.length ++ leBytes 2 shards.length ++ lists

/-- Each report that was asked for before this boundary reads the state in force now (R360). -/
def State.captureReports (s : State) : State :=
  let take_ := fun (a : AttReq) => if a.body.isEmpty then { a with body := s.attBody a } else a
  { s with sec := { s.sec with atts := s.sec.atts.map take_ } }

/-- The oldest report is signed with a fresh leaf index (R359 to R361). -/
def State.signReport (s : State) : State :=
  match s.sec.atts with
  | [] => s
  | a :: rest =>
    if a.body.isEmpty ∨ ¬ s.handServes then s
    else
      let s0 := { s with sec := { s.sec with atts := rest } }
      match s0.takeLeaf with
      | none => (s0.modResult a.src fun r => { r with att := 0 }).raise 0x9022 (locHand s) 0
      | some (i, s1) =>
        let body := overlay a.body 120 (leBytes 8 i)
        let report := body ++ (List.range 9893).map (Config.leafSignature i body)
        (s1.modResult a.src fun r => { r with report := report, nonce := a.nonce, att := 2, gen := s1.sec.kemGen }).raise
          0x9020 (locHand s) 0

/-- ATT_REPORT_SIGN: the node signs the oldest report that waits. -/
def execAttReportSign (s : State) : Host.Outcome State Fault Refusal := .next s.signReport

/-- Reports whose 64 steps end with this one are signed in it (R360). -/
def State.reportsDueFrom (s : State) : Nat → State
  | 0 => s
  | n + 1 => match s.sec.atts with
    | [] => s
    | a :: _ => if a.at_ + 64 ≤ s.step.number then s.signReport.reportsDueFrom n else s
def State.reportsDue (s : State) : State := s.reportsDueFrom s.sec.atts.length

end Sys2Proof.Machine
end

