-- ==== Sys2Proof/Machine/Activate.lean ====
section
/-! DEFINITION. What a boundary does with committed values: the values in force, the shard slots, the partners and the embedding
tables that follow them (R48, R138, R142, R143, R194, R333, R396). -/

namespace Sys2Proof.Machine

/-! ### Shard slots and partners -/

/-- The partner of an entry pair of SHUPD: one that the slot knows already, or a new one, which an owner whose shard is not empty
loads first (R396).  A replica's entry names its owner, which is no attached partner (R142, R154). -/
def Shard.partnerOf (h : Shard) (peer port : Nat) : Partner :=
  match h.partners.find? fun p => p.peer == peer with
  | some p => { p with port := port }
  | none =>
    ⟨peer, port, h.owner && h.vis == 0, false, 0, 0, h.owner && h.vis != 0, 0, 0, 0⟩

/-- The partners that the entries in force name. -/
def State.setPartners (s : State) (i : Nat) : State :=
  let e := 0x3200 + i
  let named := ([(s.actN e 2, s.actN e 3), (s.actN e 4, s.actN e 5)]).filter fun p => p.1 != 0 && p.2 != 0xFF
  s.modShard i fun h => { h with partners := named.map fun p => h.partnerOf p.1 p.2 }

/-- A slot that its committed entries fill anew (R48, R138, R396). -/
def State.freshSlot (s : State) (i id : Nat) : State :=
  let base := s.actN (0x3100 + i) 2
  let count := s.actN (0x3100 + i) 3
  let owner := s.actN (0x3100 + i) 4 == 1
  let joins := !owner && s.actN (0x3200 + i) 2 != 0
  let h := if joins then loadingShard id base count else emptyShard id base count owner
  ({ s with shards := mput s.shards i h }).setSlotState i (if joins then 1 else 0)

/-- A replica becomes the owner: it assigns from its V(h) upward, its partners load first, and it builds the delta that its owner had
frozen (R138, R143).  DESIGN CHOICE (log 163): an epoch record not yet installed is dropped. -/
def Shard.makeOwner (h : Shard) : Shard :=
  { h with owner := true, last := max h.vis h.lastUsn, inbox := [], held := [], pendEpoch := none, pendDone := false, images := [],
           sealJob := h.sealJob.map fun j => { j with stage := 1 },
           partners := h.partners.map fun p => { p with attached := h.vis == 0, loading := h.vis != 0, acked := 0, next := 0, loadAt := 0, loadSeq := 0 } }

/-- A node that is no longer the owner builds, switches and publishes nothing more (R62, R70, R143). -/
def Shard.dropOwner (h : Shard) : Shard :=
  { h with owner := false, comp := none, sealJob := h.sealJob.map (fun j => { j with stage := 5, image := [], noSpace := false, needs := 0, built := 0 }),
           expects := h.last + 1, topUsn := max h.topUsn h.last, partners := h.partners.map fun p => { p with attached := false, loading := false } }

/-- The role of a slot changes: a new owner first applies the records that it holds (log 163); one that was the owner drops the images
that its jobs were writing. -/
def State.changeRole (s : State) (i : Nat) (owner : Bool) : State :=
  match mget s.shards i with
  | none => s
  | some h =>
    if owner && !h.owner then (s.drainInbox i h.inbox.length).modShard i Shard.makeOwner
    else if !owner && h.owner then
      (((h.sealJob.toList ++ h.comp.toList).foldl (fun (s : State) j => s.dropExtent i j.out) s).modShard i Shard.dropOwner)
    else s

/-- The entries of a slot take effect. -/
def State.applySlot (s : State) (i : Nat) : State :=
  let id := s.actN (0x3100 + i) 1
  let owner := s.actN (0x3100 + i) 4 == 1
  let s1 := match mget s.shards i with
    | none => if id = 0xFFFFFFFF then s else s.freshSlot i id
    | some h =>
      if id ≠ h.id then
        let s1 := s.releasePages fun p => decide (p.1 ≤ 2 ∨ p.1 = 4) && p.2.1 == i
        let s2 := { s1 with shards := mdel s1.shards i }
        if id = 0xFFFFFFFF then s2.setSlotState i 0 else s2.freshSlot i id
      else if !owner && h.state == 0 && !h.holds && h.vis == 0 && h.partners.isEmpty && s.actN (0x3200 + i) 2 != 0 then s.freshSlot i id
      else (s.modShard i fun h => { h with segBase := s.actN (0x3100 + i) 2, segCount := s.actN (0x3100 + i) 3 }).changeRole i owner
  s1.setPartners i

/-! ### Values in force (R333) -/

/-- The committed values whose effect is at the next boundary and which are not in force yet. -/
def State.dueValues (s : State) : List (Nat × Bytes) :=
  s.dict.committed.filter fun e =>
    ((dictRow (e.1 / 256) (e.1 % 256)).map fun r => r.eff == .boundary).getD false && mget s.dict.active e.1 != some e.2

/-- An embedding table follows its descriptor (R194, R197). -/
def State.applyEmb (s : State) (t : Nat) : State :=
  let d := s.act (0x5200 + t) 1
  if d.isEmpty then
    (({ s with embs := mdel s.embs t }).releasePages fun q => q.1 == 3 && q.2.1 == t).setN (0x5200 + t) 4 0
  else s.loadEmb t d

/-- Committed values take effect at this boundary, with what follows from them. -/
def State.applyDue (s : State) : State :=
  let due := s.dueValues
  let s1 := { s with dict := { s.dict with active := due.foldl (fun m e => mput m e.1 e.2) s.dict.active } }
  let slots := dedupBy id [] ((due.filter fun e => decide (0x3100 ≤ e.1 / 256) && decide (e.1 / 256 < 0x3300)).map fun e => e.1 / 256 % 256)
  let tabs := (due.filter fun e => decide (0x5200 ≤ e.1 / 256) && decide (e.1 / 256 < 0x5300) && e.1 % 256 == 1).map fun e => e.1 / 256 % 256
  tabs.foldl State.applyEmb (slots.foldl State.applySlot s1)

end Sys2Proof.Machine
end

