-- ==== Sys2Proof/Machine/Power.lean ====
section
/-! DEFINITION. Power: throttle tiers, the power controller, clamps, and the flush that ends a run (R33, R34, R285, R372 to R377,
R403, R404). -/

namespace Sys2Proof.Machine

/-! ### Tiers (R33, R34, R376) -/

/-- The VCORE window of a tier, in units of 0.1 mV. -/
def vcoreWindow (t : Nat) : Nat × Nat := [(7200, 8500), (6400, 7800), (5800, 7000)].getD t (5800, 7000)

/-- Whether the active set holds a plan of a tier, and the slowest tier it holds. -/
def State.holdsTier (s : State) (t : Nat) : Bool := ((s.step.plan).map fun p => p.plans.any fun x => x.tier == t).getD false
def State.slowestTier (s : State) : Nat := ((s.step.plan).map fun p => maxNat (p.plans.map (·.tier))).getD 0
def State.fastestTier (s : State) : Nat := ((s.step.plan).map fun p => minNat 2 (p.plans.map (·.tier))).getD 0

/-- CLK_CORE changes to a tier, and every plot's voltage moves into its window. -/
def State.clockTo (s : State) (t : Nat) : State :=
  let w := vcoreWindow t
  let v := s.pwr.vcore.map fun (e : Nat × Nat) => (e.1, max w.1 (min e.2 w.2))
  (({ s with step := { s.step with tier := t }, pwr := { s.pwr with vcore := v } }).setN 0xC010 3 t).setN 0xA020 3 (tierMhz t)

/-- The tier that the power controller last asked for. -/
def State.askedTier (s : State) : Nat := (s.step.demand <|> s.step.wantTier).getD s.step.admTier

/-- A demand that R34 governs: with GRANT.TIER_STRETCH the step is stretched, without it admission stops. -/
def State.demandStretch (s : State) (t : Nat) : State :=
  if s.step.demand = some t then s
  else if ¬ s.node.handAlive then { s with step := { s.step with demand := some t, noAdmit := true } }
  else if s.grant 3 then ({ s with step := { s.step with demand := some t, noAdmit := false } }).useGrant 3
  else ({ s with step := { s.step with demand := some t, noAdmit := true } }).raise 0xC006 locField 0

/-- A demand of the power controller for a tier: foreseen under R33 where the active set holds a plan of it, else under R34. -/
def State.demandTier (s : State) (t : Nat) : State :=
  if s.step.seedling ∨ 2 < t then s
  else if ¬ s.holdsTier t then s.demandStretch t
  else if s.step.demand.isNone ∧ s.step.wantTier.getD s.step.admTier = t ∧ ¬ s.step.stretch then s
  else if s.step.demand.isSome ∧ ¬ s.step.stretch ∧ s.step.wantTier.isNone ∧ s.step.admTier = t then
    { s with step := { s.step with demand := none, noAdmit := false } }
  else ({ s with step := { s.step with wantTier := some t, demand := none, noAdmit := false } }).raise 0xC005 locField 0

/-- TIER_CHANGE_REQUEST (R33). -/
def execTierChangeRequest (tier : Nat) (s : State) : Host.Outcome State Fault Refusal :=
  .next (if s.pwr.boot = .running then s.demandTier tier else s)

/-- TIER_STRETCH (R34): a tier that no plan foresees, or a drop faster than R33 allows. -/
def execTierStretch (tier : Nat) (s : State) : Host.Outcome State Fault Refusal :=
  .next (if s.pwr.boot = .running ∧ ¬ s.step.seedling ∧ tier ≤ 2 then s.demandStretch tier else s)

/-- At the boundary after the request, admission follows the new tier's slots (R25, R33). -/
def State.tierBoundary (s : State) : State :=
  match s.step.wantTier with
  | none => s
  | some t => if s.step.admTier = t then s else { s with step := { s.step with admTier := t, tierAt := s.step.number } }

/-- Whether CLK_CORE may follow a foreseen change: at once to a faster tier; to a slower one where every request in flight was
admitted under its slots. -/
def State.tierReady (s : State) (t : Nat) : Bool :=
  decide (t < s.step.tier) ||
  (s.step.admTier == t && s.ledger.fars.all fun e => e.2.owner == 0 || decide (s.step.tierAt ≤ e.2.tag / 65536))

/-- TIER_CLOCK_CHANGE (R33), in the settle part. -/
def State.foreseenClock (s : State) : State :=
  match s.step.wantTier with
  | none => s
  | some t =>
    if s.pwr.clamp ∨ ¬ s.tierReady t then s
    else
      let s1 := { s with step := { s.step with wantTier := if s.step.admTier = t then none else some t, stretch := false, planTier := t } }
      if s.step.tier = t then s1 else (s1.clockTo t).raise 0xC005 locField 0

def execTierClockChange (s : State) : Host.Outcome State Fault Refusal := .next s.foreseenClock

/-- The clock changes of the settle part (R24, R33, R34, R377): a clamp first, then a stretch that is granted, then a foreseen change. -/
def State.settleClock (s : State) : State :=
  if s.pwr.clamp then
    if s.step.tier = 2 ∧ s.step.stretch then s else ({ s with step := { s.step with stretch := true } }).clockTo 2
  else match s.step.demand with
    | some t =>
      if s.step.noAdmit ∨ (s.step.stretch ∧ s.step.tier = t) then s
      else (({ s with step := { s.step with stretch := true, wantTier := none } }).clockTo t).raise 0xC007 locField 0
    | none => s.foreseenClock

/-! ### The hold energy (R372, R373) -/

/-- HOLD_USABLE in mJ, for C_HOLD in µF and V_HOLD in mV. -/
def holdUsable (uf mv : Nat) : Nat := uf * (mv * mv - 324000000) / 2000000000

/-- C_HOLD in µF, from the two readings in mV of a draw of 0.1 J. -/
def holdCap (v1 v2 : Nat) : Nat := if v1 * v1 ≤ v2 * v2 then 0 else 200000000000 / (v1 * v1 - v2 * v2)

/-- CAP_TEST (R373): begins only when the energy covers a flush beside the draw, and no sooner than PWR.CAP_TEST_STEPS after the last. -/
def execCapTest (v1mv v2mv : Nat) (s : State) : Host.Outcome State Fault Refusal :=
  if s.pwr.boot ≠ .running ∨ ¬ s.node.handAlive ∨ s.liveN 0xA010 6 < s.liveN 0xA010 7 + 100 ∨
      s.step.number < s.pwr.capAt + s.actN 0xA010 8 then .next s
  else
    let c := holdCap v1mv v2mv
    let s1 := (({ s with pwr := { s.pwr with capAt := s.step.number } }).setN 0xA010 5 c).setN 0xA010 6 (holdUsable c (s.liveN 0xA010 4))
    .next (if c < 8600 then s1.raise 0xA005 locField 0 else s1)

/-! ### Voltage (R376) -/

/-- VCORE_ADJUST: every 1 µs a plot's loop moves its voltage by 2.5 mV, within the window of its tier; `margin` is the smallest
monitor margin less the guard band. -/
def execVcoreAdjust (plot : Nat) (margin : Int) (s : State) : Host.Outcome State Fault Refusal :=
  if 16 ≤ plot ∨ ¬ bit s.node.plots plot ∨ s.pwr.boot ≠ .running then .next s
  else
    let w := vcoreWindow s.step.tier
    let v := mgetD s.pwr.vcore plot w.2
    let put := fun (n : Nat) => { s with pwr := { s.pwr with vcore := mput s.pwr.vcore plot n } }
    if margin < 0 then
      if v < w.2 then .next (put (min w.2 (v + 25)))
      else .next (((put v).raise 0xA020 (locPlot plot) 0).bump 0xA020 4 1 |>.demandTier (s.askedTier + 1))
    else if 0 < margin then .next (put (max w.1 (v - 25)))
    else .next (put v)

/-! ### The flush (R285) and what a loss of power leaves (R355, R379) -/

/-- The entries of the node's own that the boot flash and the fuses keep. -/
def keptLive (k : Nat) : Bool :=
  [dkey 0x9000 3, dkey 0x9000 4, dkey 0x9020 4, dkey 0xA010 0xA].contains k ||
  ((List.range 8).any fun p => k == dkey (0x9100 + p) 3)
/-- The values in force that a switch record keeps: a partition's plots and shard slots (R350, R353). -/
def keptActive (k : Nat) : Bool := (List.range 8).any fun p => k == dkey (0x9100 + p) 1 || k == dkey (0x9100 + p) 2

/-- What stays of the flash side without power: what NAND holds (R286).  The map, the changes that waited and the journal entries that no page
holds are gone, and with them the marks of open log pages and the collections that ran. -/
def FlashSt.off (f : FlashSt) : FlashSt :=
  { f with map := [], pend := [], journal := [], due := [], warned := 0, dies := f.dies.map fun e => (e.1, { e.2 with gc := none, feats := [] }) }

/-- The node without power: the configuration store, the boot flash, the flash and what lies in it are left (R355, R379). -/
def State.powerDown (s : State) : State :=
  let dict := { DictSt.reset with store := s.dict.store, live := s.dict.live.filter (fun e => keptLive e.1),
                                  active := s.dict.active.filter (fun e => keptActive e.1) }
  let sec := { s.sec with atts := [] }
  let parts := s.parts.map fun (e : Nat × PartSt) => (e.1, { e.2 with scrub := none })
  let base := State.reset
  { base with pending := s.pending, dict := dict, ev := { EvSt.reset with boot := s.ev.boot }, shards := s.shards, log := s.log,
              flash := s.flash.off, sec := sec, parts := parts, freeCtr := s.freeCtr }

/-- The block of a die that takes a program of the flush: the open one of its use, or a block of the reserve (R285). -/
def State.flushBlk (s : State) (k use_ : Nat) : Option Nat :=
  (mget s.flash.dies k).bind fun d => (d.usable.find? fun n => (d.blk n).st == 1 && (d.blk n).slc && (d.blk n).use_ == use_) <|> d.leastWorn

/-- The die and block of the flush's `i`-th program: the dies of the flush set take them in turn. -/
def State.flushPlace (s : State) (i use_ : Nat) : Option (Nat × Nat) :=
  let l := s.flushSet.map (·.1)
  let n := i % max l.length 1
  (l.drop n ++ l.take n).findSome? fun k => (s.flushBlk k use_).map fun b => (k, b)

/-- The flush's `i`-th program at a place: one that fails is retried once in the next reserve block of its die.  The address and WRITE_SEQ of
the page, where it passed (R285). -/
def State.flushAt (s : State) (x : Loss) (i : Nat) (place : Nat × Nat) (use_ lpn kind : Nat) (data : Bytes) : State × Option (Nat × Nat) :=
  let a := s.programIn place.1 place.2 true use_ lpn kind data
  if ¬ (x.once.contains i || x.twice.contains i) then (a.1, some (a.2, s.flash.writeSeq)) else
  let s1 := a.1.programFailed a.2 0x7022
  match s1.flushBlk place.1 use_ with
  | none => (s1, none)
  | some n =>
    let b := s1.programIn place.1 n true use_ lpn kind data
    if x.twice.contains i then (b.1.programFailed b.2 0x7022, none) else (b.1, some (b.2, s1.flash.writeSeq))
def State.flushProgram (s : State) (x : Loss) (i use_ lpn kind : Nat) (data : Bytes) : State × Option (Nat × Nat) :=
  match s.flushPlace i use_ with
  | none => (s, none)
  | some p => s.flushAt x i p use_ lpn kind data

/-- A flush under way (R285): the state, the programs run, the LOG_SEQ of the first log page that could not be programmed, and the partitions
whose log ends there. -/
structure FlushRun where
  s : State
  i : Nat
  lost : Option Nat
  skip : List Nat

/-- Program the open log pages, padded, in LOG_SEQ order. -/
def FlushRun.log (x : Loss) : Nat → FlushRun → FlushRun
  | 0, r => r
  | fuel + 1, r =>
    match (List.range 8).find? fun p => !r.skip.contains p && decide (0 < r.s.logPending p) with
    | none => r
    | some p =>
      let fail := fun (s : State) => FlushRun.log x fuel ⟨s, r.i + 1, r.lost <|> some s.flash.logSeq, p :: r.skip⟩
      match r.s.nextLogLpn p with
      | none => fail r.s
      | some lpn =>
        let y := r.s.flushProgram x r.i 0 lpn 1 (r.s.logPage p)
        match y.2 with
        | none => fail y.1
        | some (a, seq) => FlushRun.log x fuel { r with s := y.1.logDone p lpn a seq, i := r.i + 1 }

/-- The journal entries that the flush programs: but for those that would have moved a mapped unit at the next boundary, whose source the map
still names (R280). -/
def State.flushEntries (s : State) : List JEntry :=
  s.flash.journal.filter fun e => !s.flash.pend.contains e || e.addr == unmapped || (mget s.flash.map e.lpn).isNone

/-- Program the dirty journal pages, in WRITE_SEQ order. -/
def FlushRun.journal (x : Loss) (r : FlushRun) : FlushRun :=
  let l := r.s.flushEntries
  ((List.range (ceilDiv l.length 1020)).map fun j => (l.drop (1020 * j)).take 1020).foldl (fun r page =>
    let y := r.s.flushProgram x r.i 1 unmapped 2 (journalPage page)
    { r with s := (y.2.map fun a => y.1.journalDone page a.1).getD y.1, i := r.i + 1 }) r

/-- The flush record (R285): the Step Number, the last LOG_SEQ, that of a page that could not be programmed where there is one, the WRITE_SEQ,
and the digest; in two copies on different channels. -/
def flushBytes (step logSeq writeSeq : Nat) : Bytes := leBytes 8 step ++ leBytes 8 logSeq ++ leBytes 8 writeSeq
def FlushRun.record (x : Loss) (r : FlushRun) : State :=
  let logSeq := (r.lost.map (· + 1)).getD r.s.flash.logSeq
  let b := flushBytes r.s.step.number logSeq r.s.flash.writeSeq
  let page := padTo 16384 (b ++ digest b)
  let put := fun (z : State × List Nat × Nat) =>
    let used := z.2.1.map fun a => addrDie a / 16
    match z.1.flushSet.findSome? fun e => if used.contains (e.1 / 16) then none else (z.1.flushBlk e.1 1).map fun n => (e.1, n) with
    | none => z
    | some p =>
      let y := z.1.flushAt x z.2.2 p 1 unmapped 2 page
      (y.1, z.2.1 ++ (y.2.map (·.1)).toList, z.2.2 + 1)
  let z := put (put (r.s, [], r.i))
  { z.1 with flash := { z.1.flash with
      flushRec := if z.2.1.isEmpty then none else some ⟨r.s.step.number, logSeq, r.s.flash.writeSeq, digest b, z.2.1⟩ } }

/-- The flush of R285: no further boundary, no further charge; the log pages, the journal pages, and the flush record, on the flush set. -/
def State.flush (s : State) (x : Loss) : State :=
  let r := FlushRun.log x (s.log.recs.length + s.log.dirty / 16320 + 16) ⟨s, 0, none, []⟩
  (r.journal x).record x

/-- The node loses its input, its clock or its reset line (R374, R375, R404): the flush runs, the event goes to the boot log, and
only what is durable stays.  PWR_GOOD falls, and FLUSH_N rises again once the flush record is written (R403). -/
def State.lossOfInput (s : State) (code detail : Nat) (x : Loss) (to_ : Boot) : State :=
  if s.pwr.boot = .off then s
  else
    let s1 := if s.pwr.boot = .running then s.flush x else s
    let s2 := ({ s1 with step := { s1.step with running := false } }).raise code locField detail
    let s3 := (if to_ = .off then s2.bump 0xA010 0xA 1 else s2).powerDown
    { s3 with pwr := { s3.pwr with boot := to_, flushN := s.pwr.boot != .running || s1.flash.flushRec.isSome } }

/-- A loss in whose flush every program passes. -/
def cleanLoss : Loss := ⟨.vin, [], []⟩

/-- INPUT_LOSS (R374): VIN out of its range, or the hot-swap controller's trip, whose flag is bit 0 of DETAIL. -/
def execInputLoss (x : Loss) (s : State) : Host.Outcome State Fault Refusal :=
  .next (s.lossOfInput 0xA001 (match x.cause with | .vin => 0 | .overcurrent => 1) x .off)

/-- CLOCK_FAULT (R375): the node holds in reset until REFCLK is valid. -/
def execClockFault (s : State) : Host.Outcome State Fault Refusal :=
  .next (if s.pwr.boot = .romHalt ∨ s.pwr.boot = .waitClock then s else s.lossOfInput 0xA030 0 cleanLoss .waitClock)

/-- REFCLK_RETURN (R375, R378): REFCLK has been valid for 10 ms; bring-up may begin at stage 0. -/
def execRefclkReturn (s : State) : Host.Outcome State Fault Refusal :=
  .next (if s.pwr.boot = .waitClock then { s with pwr := { s.pwr with boot := .off } } else s)

/-- RESET_PULSE (R404): a pulse of at least 1 ms; its flag is bit 1 of DETAIL. -/
def execResetPulse (us : Nat) (s : State) : Host.Outcome State Fault Refusal :=
  .next (if us < 1000 ∨ s.pwr.boot = .waitClock then s else s.lossOfInput 0xA001 2 cleanLoss .reset)

/-! ### Thermal levels (R377) -/

/-- THERMAL_TRIP: hardware asserts the input-loss signal. -/
def execThermalTrip (s : State) : Host.Outcome State Fault Refusal := .next (s.lossOfInput 0xA013 0 cleanLoss .off)

/-- THERMAL_CLAMP: hardware clamps CLK_CORE in the settle part, with no grant. -/
def State.setClamp (s : State) : State :=
  if s.pwr.clamp ∨ s.pwr.boot ≠ .running then s
  else ({ s with pwr := { s.pwr with clamp := true, cool := 0 } }).raise 0xA012 locField 0
def execThermalClamp (s : State) : Host.Outcome State Fault Refusal := .next s.setClamp

/-- CLAMP_RELEASE: after THERM.RELEASE_STEPS steps below THROTTLE the clamp ends, and the clock returns to the tier asked for. -/
def State.releaseClamp (s : State) : State :=
  if ¬ s.pwr.clamp ∨ s.pwr.cool < s.actN 0xA030 4 then s
  else
    let s1 := { s with pwr := { s.pwr with clamp := false, cool := 0 } }
    let s2 := if s.step.seedling then { s1 with step := { s1.step with stretch := false } }
      else match s.step.demand, s.step.noAdmit with
        | some t, false => s1.clockTo t
        | _, _ => ({ s1 with step := { s1.step with stretch := false } }).clockTo s.step.admTier
    s2.raise 0xA014 locField 0
def execClampRelease (s : State) : Host.Outcome State Fault Refusal := .next s.releaseClamp

/-- The thermal level: 0 = NORMAL, 1 = THROTTLE, 2 = CLAMP, 3 = TRIP. -/
def State.thermLevel (s : State) (x : Sensors) : Nat :=
  let tj := maxNat x.tjDc
  let st := maxNat x.stackDc
  if 1150 ≤ tj ∨ 950 ≤ st then 3 else if 1050 ≤ tj ∨ 920 ≤ st then 2
  else if s.actN 0xA030 1 ≤ tj ∨ s.actN 0xA030 2 ≤ st then 1 else 0

/-! ### The power controller (R374, R377) -/

/-- A demand to a slower tier, when there is one, at most once per 64 steps. -/
def State.demandLower (s : State) : State :=
  if s.step.number < s.pwr.demand ∨ 2 ≤ s.askedTier then s
  else ({ s with pwr := { s.pwr with demand := s.step.number + 64 } }).demandTier (s.askedTier + 1)

/-- After the release steps, one tier higher, up to the fastest that the active set holds (DEDUCED, log 183), or a demand that stopped
admission is withdrawn. -/
def State.demandHigher (s : State) : State :=
  let s1 := { s with pwr := { s.pwr with calm := 0 } }
  if s.step.noAdmit then { s1 with step := { s1.step with noAdmit := false, demand := none } }
  else if s.askedTier ≤ s.fastestTier then s1 else s1.demandTier (s.askedTier - 1)

/-- VIN_MARGINAL (R374): no flush; the slowest tier that the active set holds is demanded. -/
def State.vinMarginal (s : State) : State :=
  (s.raiseRun 0xA002 0 locField none 0).demandTier (if s.step.seedling then 3 else s.slowestTier)
def execVinMarginal (mv : Nat) (s : State) : Host.Outcome State Fault Refusal :=
  .next (if s.pwr.boot = .running ∧ ((37000 ≤ mv ∧ mv < 40000) ∨ (58000 < mv ∧ mv ≤ 60000)) then s.vinMarginal else s)

/-- The figures that the power controller publishes (R385). -/
def State.powerFigures (s : State) (x : Sensors) (mean level : Nat) : State :=
  let one := fun (s : State) (p : Nat) =>
    if ¬ bit s.node.strings p then s else
    (((s.setN (0xA040 + p) 1 (mgetD s.pwr.vcore p 0 / 10)).setN (0xA040 + p) 2 (x.tjDc.getD p 0)).setN (0xA040 + p) 3
      (x.stackDc.getD p 0)).setN (0xA040 + p) 4 (x.cpm.getD p 0)
  let s1 := (((s.setN 0xA010 1 x.vinMv).setN 0xA010 2 mean).setN 0xA010 4 x.holdMv).setN 0xA010 6 (holdUsable (s.liveN 0xA010 5) x.holdMv)
  (List.range 16).foldl one (s1.setN 0xA030 3 (min level 2))

/-- The tick of the power controller at the counter latch of a step (R374, R377). -/
def State.powerTick (s : State) (x : Sensors) : State :=
  let pin := (x.pinW :: s.pwr.pin).take 64
  let mean := sumNat pin / max 1 pin.length
  let level := s.thermLevel x
  let cap := s.actN 0xA010 3
  if level = 3 then s.lossOfInput 0xA013 0 cleanLoss .off
  else if x.vinMv < 37000 ∨ 60000 < x.vinMv then s.lossOfInput 0xA001 0 cleanLoss .off
  else
    let cool := if level = 0 then s.pwr.cool + 1 else 0
    let calm := if level = 0 ∧ mean * 100 < 85 * cap then s.pwr.calm + 1 else 0
    let s1 := ({ s with pwr := { s.pwr with pin := pin, cool := cool, calm := calm } }).powerFigures x mean level
    let s2 := if level = 2 then s1.setClamp else if s.actN 0xA030 4 < cool then s1.releaseClamp else s1
    if ¬ s.node.handAlive then s2
    else
      let s3 := if level = 1 then s2.raiseRun 0xA011 0 locField none 0 else s2
      let s4 := if x.vinMv < 40000 ∨ 58000 < x.vinMv then s3.vinMarginal else s3
      if s4.pwr.clamp ∨ s4.step.seedling then s4
      else if cap < mean ∨ level = 1 then s4.demandLower
      else if s.actN 0xA030 4 ≤ calm ∧ 40000 ≤ x.vinMv ∧ x.vinMv ≤ 58000 then s4.demandHigher
      else s4

end Sys2Proof.Machine
end

