-- ==== Sys2Proof/Machine/BringUp.lean ====
section
/-! DEFINITION. Bring-up, stage by stage, to Seedling service (R153, R269, R284, R286, R287, R358, R359, R378 to R383). -/

namespace Sys2Proof.Machine

/-- What a stage gives: the state, and whether bring-up goes on. -/
abbrev StageOut := State × Bool

/-- End a stage (R378): EV 0xA040, and BRINGUP.STAGE shows the next. -/
def State.endStage (s : State) (n : Nat) : State := (s.raise 0xA040 (locHand s) 0).setN 0xA050 1 (n + 1)

/-- Stop bring-up: halted, or held. -/
def State.stopBoot (s : State) (b : Boot) : StageOut := (({ s with pwr := { s.pwr with boot := b } }).setN 0xA050 1 0x0F, false)

/-! ### Stages 1 to 3: Gate boot, firmware, clocks -/

/-- Stage 1 (R378, R403, R405): the straps are read and PWR_GOOD is released.  Without G0 the alternate Hand on G2 starts only
under the grant in the configuration store. -/
def State.bootGates (s : State) (r : BootReport) : StageOut :=
  let id := r.straps % 64
  let s1 := ({ s with pwr := { s.pwr with term := bit r.straps 6, good := true, flushN := true } }).setN 0x1000 7 id
  if r.g0Alive then
    let s2 := s1.setN 0x1020 1 (if id = 0 then 0 else 1)
    ((if id = 0 then s2.raise 0x1020 (locHand s2) 0 else s2).endStage 1, true)
  else
    let s2 := ({ s1 with node := { s1.node with g0Lost := true } }).raise 0x1105 (locGate 0) 0
    if mget s.dict.store (dkey 0x2110 1) = some [1] ∧ bit r.gatesOk 2 then
      let s3 := { s2 with node := { s2.node with handDie := 2 }, step := { s2.step with sequencer := 2 } }
      let s4 := ((s3.setN 0x1010 5 2).setN 0x1020 1 (if id = 0 then 0 else 2)).useGrant 1
      ((if id = 0 then s4.raise 0x1020 (locHand s4) 0 else s4).endStage 1, true)
    else s2.stopBoot .reset

/-- The security version of a component of a bank: the staged image's, or that of the firmware the node came with. -/
def State.svnOf (s : State) (r : BootReport) (bank c : Nat) : Nat :=
  match mget s.sec.staged (bank * 4 + c) with
  | some i => u32 i 8
  | none => r.svnRunning.getD c 0

/-- Whether a bank's images pass (R358): they verify, and none lies below its fuse count. -/
def State.bankPasses (s : State) (r : BootReport) (bank : Nat) (ok : Bool) : Bool :=
  ok && [0, 1, 2, 3].all fun c => decide (u32 (s.live 0x9020 4) (4 * c) ≤ s.svnOf r bank c)

/-- FW.DIGESTS of a bank. -/
def State.bankDigests (s : State) (bank : Nat) : Bytes :=
  [0, 1, 2, 3].flatMap fun c => match mget s.sec.staged (bank * 4 + c) with
    | some i => digest i
    | none => (List.range 32).map fun k => Config.fwDigest (bank * 4 + c) k

/-- The committed values that the store does not restore (R379): the staged plan set, and the embedding tables. -/
def volatileKey (k : Nat) : Bool :=
  [dkey 0xC020 2, dkey 0xC020 3, dkey 0xC020 6].contains k || (decide (0x5200 ≤ k / 256) && decide (k / 256 < 0x5300) && k % 256 == 1)

/-- The committed dictionary is restored, and every restored value is in force; a switch that waits keeps its partition as it was. -/
def State.restoreDict (s : State) : State :=
  let vals := s.dict.store.filter fun e => !volatileKey e.1
  let waits := fun (k : Nat) => keptActive k && ((mget s.parts (k / 256 - 0x9100)).map fun p => p.next.isSome).getD false
  let act := vals.foldl (fun m e => if waits e.1 then m else mput m e.1 e.2) s.dict.active
  let set := fun (s : State) (k n : Nat) (f : Nat → Byte) => s.setLive (k / 256) (k % 256) ((List.range n).map f)
  let s1 := { s with dict := { s.dict with committed := vals, active := act } }
  let s2 := set (set (set s1 (dkey 0x1000 4) 16 Config.serial) (dkey 0x9000 1) 68 Config.idPublicKey) (dkey 0x9000 2) 32 Config.fwRootDigest
  let s3 := (s2.setN 0x1000 5 Config.peerId).setN 0x1000 6 Config.macBase
  let s4 := (set s3 (dkey 0x7013 1) (64 * Config.qualCount) (fun k => Config.qualRecord (k / 64) (k % 64))).setN 0x7013 2 Config.qualCount
  let s5 := s4.setN 0x6010 2 (16 * s4.homeBytes)
  s5.setLive 0x1030 5 s5.configDigest

/-- Stage 2 (R358, R364, R378, R379): the running bank, or the other; then the dictionary. -/
def State.bootFirmware (s : State) (r : BootReport) : StageOut :=
  let first := if s.sec.swap then 1 - s.sec.bank else s.sec.bank
  let other := 1 - first
  let run := fun (s : State) (b : Nat) (fell : Bool) =>
    let svn := [0, 1, 2, 3].map (s.svnOf r b)
    let s1 := ({ s with sec := { s.sec with bank := b, swap := false, svn := svn } }).setN 0x9020 2 (b + (if fell then 2 else 0))
    (((s1.setLive 0x9020 3 (s1.bankDigests b)).restoreDict).newKemKey.endStage 2, true)
  if s.bankPasses r first r.bankOk then run s first false
  else
    let s1 := s.raise 0x9002 (locHand s) 0
    if s1.bankPasses r other r.altBankOk then run s1 other true
    else
      let s2 := s1.raise 0x9003 (locHand s1) 0
      ((s2.setLive 0x9020 3 (s2.bankDigests first)).setN 0x9020 2 first).stopBoot .romHalt

/-- Stage 3 (R375, R378). -/
def State.bootClocks (s : State) (r : BootReport) : StageOut :=
  if r.refclkOk then
    let s1 := ((s.setN 0xA020 1 1).setN 0xA020 2 1).clockTo 2
    (s1.endStage 3, true)
  else (({ s.raise 0xA030 locField 0 with pwr := { s.pwr with boot := .waitClock } }), false)

/-! ### Stages 4 and 5: plots and Gate units -/

/-- Stage 4 (R378): the plots and stacks that pass are in service. -/
def State.bootPlots (s : State) (r : BootReport) : State :=
  let plots := r.plotsOk % 65536
  let st := r.stacksOk % 65536
  let out := (List.range 16).filter fun p => !bit plots p || !bit st p
  let v := (bitList plots 16).map fun p => (p, (vcoreWindow 2).2)
  let s1 := { s with node := { s.node with plots := plots, tillers := st }, pwr := { s.pwr with vcore := v } }
  let s2 := ((s1.setN 0x1010 1 plots).setN 0x1010 2 st).setN 0xA050 4 (out.foldl setBit 0)
  (out.foldl (fun (s : State) p => s.raise 0xA041 (locPlot p) 0) s2).endStage 4

/-- The records of the qualified NAND list, and the one that a die matches: by its READ ID bytes and its device model (R269). -/
def qualRec (i : Nat) : Bytes := (List.range 64).map (Config.qualRecord i)
def qualFind (d : DieReport) : Option Bytes :=
  ((List.range Config.qualCount).map qualRec).find? fun q => sl q 0 6 == d.jedecId && sl q 6 20 == d.model

/-- A die that the node holds: one that carries this node's format (R269). -/
def State.knownDie (s : State) (d : DieReport) : Option Die := (mget s.flash.dies (16 * d.chan + d.die)).filter fun _ => d.format == 1
def State.formats (s : State) (d : DieReport) : Bool := bit s.flash.format d.chan

/-- A die as bring-up accepts it under its record (R269, R276, R282): what it held stays, and its erase counts in any case; a format erases every
block that was written. -/
def State.bootDie (s : State) (d : DieReport) (q : Bytes) : Die :=
  let limit := ((mget s.dict.store (dkey 0x7010 9)).map leNat).getD (u32 q 44)
  let spares := ceilDiv (2 * (d.blocks - d.badBlocks.length)) 100
  let fresh : Die := ⟨q, true, d.blocks, d.unitsPerBlock, limit, d.badBlocks, [], spares, spares, 0, 0, 0, 0, 0, [], [], [], none⟩
  match s.knownDie d with
  | none => fresh
  | some old =>
    if s.formats d then
      { fresh with spares := old.spares, spares0 := old.spares0,
                   blks := old.blks.map fun b => if b.2.st = 0 ∨ b.2.st = 3 then b else (b.1, b.2.erased) }
    else { old with rec_ := q, on := true, peLimit := limit, reads := 0, retried := 0, lastReads := 0, lastRetried := 0, period := 0, gc := none }

/-- Whether a die passes the checks of R269: its parameter page, its geometry and its record; a channel takes dies of one kind of cell only; and a
die with another node's format is not touched without FLASH.FORMAT. -/
def State.dieFits (s : State) (seen : List (DieReport × Bytes)) (d : DieReport) (q : Bytes) : Bool :=
  d.pageOk && decide (d.dataBytes = 16384) && decide (1920 ≤ d.spareBytes) && (u8 q 26 == 3 || u8 q 26 == 4) &&
  decide (d.chan < 32) && decide (d.die < 16) && decide (d.blocks * d.unitsPerBlock ≤ 8388608) &&
  seen.all (fun x => x.1.chan != d.chan || (u8 x.2 26 == u8 q 26 && x.1.die != d.die)) && (d.format != 2 || s.formats d)

/-- The dies that pass, with their records, and those that do not. -/
def State.sortDies (s : State) (chans : Nat) : List DieReport → List (DieReport × Bytes) → List DieReport → List (DieReport × Bytes) × List DieReport
  | [], ok, bad => (ok, bad)
  | d :: rest, ok, bad =>
    if ¬ bit chans d.chan then s.sortDies chans rest ok bad
    else match (qualFind d).filter (s.dieFits ok d) with
      | some q => s.sortDies chans rest (ok ++ [(d, q)]) bad
      | none => s.sortDies chans rest ok (bad ++ [d])

/-- The default of FLASH.PE_LIMIT is that of the qualified list (R269, R288): the lowest of the records in use (log 215). -/
def State.peDefault (s : State) (qs : List Bytes) : State :=
  if qs.isEmpty ∨ (mget s.dict.store (dkey 0x7010 9)).isSome then s else
  let v := leBytes 4 (minNat (2 ^ 32 - 1) (qs.map fun q => u32 q 44))
  let put := fun (m : List (Nat × Bytes)) => mput m (dkey 0x7010 9) v
  let s1 := { s with dict := { s.dict with committed := put s.dict.committed, active := put s.dict.active } }
  s1.setLive 0x1030 5 s1.configDigest

/-- What the flash side holds once dies are accepted: a die that is not stays, out of service; what lay on a die that is formatted or was
exchanged is gone. -/
def State.takeDies (s : State) (chans : Nat) (ok : List (DieReport × Bytes)) : State :=
  let off := s.flash.dies.map fun e => (e.1, { e.2 with on := false })
  let dies := ok.foldl (fun m x => mput m (16 * x.1.chan + x.1.die) (s.bootDie x.1 x.2)) off
  let wiped := (ok.filter fun x => (s.knownDie x.1).isNone || s.formats x.1).map fun x => 16 * x.1.chan + x.1.die
  let here := fun (a : Nat) => !wiped.contains (addrDie a)
  { s with flash := { s.flash with
    dies := dies, chans := chans, format := 0, warned := 0, units := s.flash.units.filter (fun u => here u.1),
    jpages := s.flash.jpages.filter (fun j => here j.addr), sys := s.flash.sys.filter (fun e => here e.2),
    flushRec := s.flash.flushRec.filter fun f => f.places.any here } }

/-- The flash channels (R269, R278): the channels that train, their dies, and what a format erases. -/
def State.bootFlashUnits (s : State) (r : BootReport) : State :=
  let chans := (List.range 32).foldl (fun m c => if bit r.chansOk c && bit s.node.gates (c / 8) then setBit m c else m) 0
  let two := s.sortDies chans r.dies [] []
  let s1 := (s.takeDies chans two.1).peDefault (two.1.map (·.2))
  let s2 := (bitList ((2 ^ 32 - 1) - chans) 32).foldl (fun (s : State) c =>
    if bit s.node.gates (c / 8) then s.raise 0x7011 (locFlash c 0) 0 else s) s1
  let s3 := two.2.foldl (fun (s : State) d => s.raise 0x7010 (locFlash d.chan d.die) 0) s2
  let s4 := (List.range 32).foldl (fun (s : State) c =>
    (s.setN (0x7020 + c) 1 ((s.flash.dies.filter fun e => e.1 / 16 == c && e.2.on).length)).setN (0x7020 + c) 2 (if bit chans c then 1 else 0)) s3
  s4.setN 0x7010 1 s4.upDies.length

/-- The Hedge ports (R304, R306, R367): a port of a live Gate die with a peer comes UP, or trains on where its links are sealed. -/
def State.bootHedge (s : State) (r : BootReport) : State :=
  (List.range 16).foldl (fun (s : State) p =>
    let peer := r.hedgePeers.getD p 0
    if ¬ bit s.node.gates (p / 4) ∨ s.ownerOf 3 p ≠ ownFabric then s
    else if peer = 0 ∨ s.comN 0x9000 6 = 1 then s.setHState p 1
    else
      let s1 := ((s.setHState p 2).setN (0x8020 + p) 2 peer).setN (0x8020 + p) 3 0xFF
      let h : HPort := { HPort.reset with spare := some 8 }
      ((({ s1 with hedge := mput s1.hedge p h }).sendCtl p 3 Config.peerId).raise 0x8005 (locHedge p) 0)) s

/-- The leaf counter (R359): NEXT resumes at RESERVED_TO; a bad copy or another fuse count begins a new window. -/
def State.bootLeaf (s : State) (r : BootReport) : State :=
  let s1 := if s.liveN 0x9000 4 = 0 then
      ({ s with sec := { s.sec with leafTo := r.leafReserved } }).setN 0x9000 4 r.leafFuses
    else s
  s1.resumeLeaf r.leafCopyOk

/-- Stage 5 (R378). -/
def State.bootUnits (s : State) (r : BootReport) : State :=
  let gates := r.gatesOk % 16
  let gone := (List.range 4).filter fun g => !bit gates g
  let node := { s.node with gates := gates, gateStrings := gates, bars := gates }
  let s1 := (({ s with node := node }).setN 0x1010 3 gates).setN 0x1010 4 gates
  let s2 := s1.setN 0xA050 4 (s1.liveN 0xA050 4 + 65536 * gone.foldl setBit 0)
  let s3 := gone.foldl (fun (s : State) g => s.raise 0x1107 (locGate g) 0) s2
  (((s3.bootFlashUnits r).bootHedge r).bootLeaf r).endStage 5

/-! ### Stage 6: flash (R284, R286, R287, R373, R381) -/

/-- What a map page covers of the journal, and a journal entry replayed over the map pages: LPNs whose page holds it already stay (R286). -/
def pageCovers (ck : List (Nat × Ckpt)) (e : JEntry) (lpn : Nat) : Bool := (mget ck (lpn / 4096)).any fun c => decide (e.seq < c.upTo)
def replayEntry (ck : List (Nat × Ckpt)) (m : List (Nat × Nat)) (e : JEntry) : List (Nat × Nat) :=
  if e.addr = unmapped then m.filter fun x => !(decide (e.lpn ≤ x.1) && decide (x.1 < e.lpn + e.span)) || pageCovers ck e x.1
  else if pageCovers ck e e.lpn then m else mput m e.lpn e.addr

/-- A page of the system blocks can be read: its die is in service, and it decodes. -/
def State.sysReads (s : State) (bad : List Nat) (a : Nat) : Bool := s.dieUp (addrDie a) && !bad.contains a

/-- The map pages that read. -/
def State.ckptsRead (s : State) (bad : List Nat) : List (Nat × Ckpt) :=
  s.flash.ckpt.filter fun c => (mget s.flash.sys (1024 + c.1)).any fun a => s.sysReads bad a

/-- The map, from its pages and the journal in WRITE_SEQ order (R286). -/
def State.mapLoaded (s : State) (bad : List Nat) : List (Nat × Nat) :=
  let ck := s.ckptsRead bad
  let es := (s.flash.jpages.filter fun j => s.sysReads bad j.addr).flatMap (·.entries)
  (sortBy (fun a b => decide (a.seq < b.seq)) es).foldl (replayEntry ck) ((ck.flatMap fun c => c.2.entries).foldl (fun m e => mput m e.1 e.2) [])

/-- The map, from the metadata of every sector: the highest WRITE_SEQ of each LPN (R287). -/
def State.mapScanned (s : State) : List (Nat × Nat) :=
  let us := s.flash.units.filter fun u => u.2.kind != 2 && s.dieUp (addrDie u.1)
  (sortBy (fun a b => decide (a.2.seq < b.2.seq)) us).foldl (fun m u => mput m u.2.lpn u.1) []

/-- Whether no page of the map checkpoint decodes. -/
def State.mapGone (s : State) (r : BootReport) : Bool := !r.mapDecodes || (!s.flash.ckpt.isEmpty && (s.ckptsRead r.badSys).isEmpty)
def State.loadMap (s : State) (r : BootReport) : State :=
  { s with flash := { s.flash with map := if s.mapGone r then s.mapScanned else s.mapLoaded r.badSys } }

/-- Blocks that were emptied, and open targets of a collection, are erased (R280, R286); a target whose units the map names holds data. -/
def State.recoverBlk (s : State) (k : Nat) (d : Die) (e : Nat × Blk) : Nat × Blk :=
  let erase := if d.peLimit ≤ e.2.erases then { e.2 with st := 3 } else e.2.erased
  if e.2.st = 4 ∨ (e.2.use_ = 2 ∧ (s.validUnits k e.1).isEmpty) then (e.1, if e.2.st = 3 then e.2 else erase)
  else (e.1, { e.2 with weak := false, reads := 0, beyond := 0, told := 0, use_ := if e.2.use_ = 2 then 0 else e.2.use_ })
def State.recoverBlks (s : State) : State :=
  let dies := s.flash.dies.map fun e => (e.1, { e.2 with blks := e.2.blks.map (s.recoverBlk e.1 e.2) })
  let live := fun (a : Nat) => ((mget dies (addrDie a)).map fun d => (d.blk (d.addrBlk a)).st != 0).getD false
  { s with flash := { s.flash with dies := dies, units := s.flash.units.filter fun u => live u.1 } }

/-- The flush set, FLUSH_TIME_US, and the hold energy. -/
def State.bootHold (s : State) (r : BootReport) : State :=
  let set := s.flushSet
  let us := if set.isEmpty then 0 else 500 + ceilDiv 24576 (set.length * 4) * maxNat (set.map fun e => e.2.tprog) + 1000
  let need := ceilDiv (400 * us) 1000 + 500
  let s1 := { s with flash := { s.flash with flushUs := us } }
  let s2 := ((((s1.setN 0x7010 7 us).setN 0xA010 5 r.capUf).setN 0xA010 4 r.holdMv).setN 0xA010 7 need).setN 0xA010 6 (holdUsable r.capUf r.holdMv)
  let s3 := if 20000 < us then s2.raise 0x7012 locField 0 else s2
  let s4 := if r.capUf < 8600 then s3.raise 0xA005 locField 0 else s3
  if s4.holdShort then ({ s4 with pwr := { s4.pwr with short := true } }).raise 0xA004 locField 0 else s4

/-- Provisional extents are trimmed, but for those whose epoch record is durable; read-only recovery leaves them (R279, R381). -/
def State.trimProvisional (s : State) : State :=
  let gone := s.flash.extents.filter (·.prov)
  let s1 := gone.foldl (fun (s : State) e => s.trim e.first e.pages) s
  { s1 with flash := { s1.flash with extents := s1.flash.extents.filter fun e => !e.prov } }

/-- Whether a log page cannot be read: it does not decode, or the map names no unit of a die in service for it. -/
def State.pageGone (s : State) (bad : List Nat) (g : LogPage) : Bool :=
  bad.contains g.lpn || !(mget s.flash.map g.lpn).any fun a => s.dieUp (addrDie a)

/-- Whether a record is lost: no log page held it whole, or one that holds bytes of it cannot be read. -/
def State.recGone (s : State) (bad : List Nat) (r : LogRec) : Bool :=
  !r.durable || s.flash.logPages.any fun g => g.part == s.logPart r.slot && decide (g.first ≤ r.seq) && decide (r.seq ≤ g.last) && s.pageGone bad g

/-- The records of a slot up to the first that is lost, and the last durable USN of its log, at least its current floor. -/
def State.logKept (s : State) (bad : List Nat) (slot : Nat) : List LogRec :=
  (s.log.recs.filter fun r => r.slot == slot).takeWhile fun r => !s.recGone bad r
def State.durableUsn (s : State) (bad : List Nat) (slot : Nat) (h : Shard) : Nat :=
  max h.cur.floor (maxNat (((s.logKept bad slot).filter fun r => r.kind == 1).map (·.usn)))

/-- The ID directory, from what a shard holds (R153). -/
def Shard.rebuildDir (h : Shard) : Shard :=
  let sealed_ := h.segs.flatMap fun g => (List.range (segVc g.2.image)).map fun o => (segExt g.2.image o, mkHandle g.1 o)
  let dels := h.deltas.flatMap fun d => (d.2.recs.zipIdx).map fun r => (r.1.ext, mkHandle d.1 r.2)
  { h with dir := ((sealed_ ++ dels).filter fun x => (mget h.tombs x.2).isNone).foldl (fun m x => mupd m x.1 [] fun l => l ++ [x.2]) [] }

/-- A shard as it stands at USN `u`; a freeze whose record is not durable has not happened (R287). -/
def Shard.cutTo (h : Shard) (u : Nat) (frozen : Bool) : Shard :=
  let h1 := if h.sealJob.isSome && !frozen then
      { h.modCur (fun e => { e with deltas := e.deltas.take 1 }) with sealJob := none, deltas := h.deltas.filter fun d => (h.cur.deltas.take 1).contains d.1 }
    else h
  let cutD := fun (d : Nat × Delta) => (d.1, { d.2 with recs := d.2.recs.filter fun r => decide (r.usn ≤ u) })
  let h2 := { h1.modCur (fun e => { e with chain := e.chain.filter fun c => decide (c.1 ≤ u) }) with
    deltas := h1.deltas.map cutD, tombs := h1.tombs.filter (fun t => decide (t.2 ≤ u)), digests := h1.digests.filter (fun d => decide (d.1 ≤ u)),
    vis := u, last := u, lastUsn := u }
  h2.rebuildDir

/-- Whether a system page that cannot be read concerns a slot (R287): the extent table, its epoch record, a map or a journal page with its
segments or its records. -/
def State.sysConcerns (s : State) (bad : List Nat) (slot : Nat) : Bool :=
  let lost := fun (a : Nat) => !s.sysReads bad a
  let mine := fun (lo n : Nat) =>
    (s.flash.extents.any fun e => e.slot == slot && decide (lo < e.first + e.pages) && decide (e.first < lo + n)) ||
    s.flash.logPages.any fun g => decide (lo ≤ g.lpn) && decide (g.lpn < lo + n) && s.log.recs.any fun r =>
      r.slot == slot && decide (g.first ≤ r.seq) && decide (r.seq ≤ g.last)
  (s.flash.sys.any fun e => lost e.2 &&
    ((e.1 == 0 && s.flash.extents.any fun x => x.slot == slot) || e.1 == 1 + slot || (decide (1024 ≤ e.1) && mine ((e.1 - 1024) * 4096) 4096))) ||
  (s.flash.jpages.any fun j => lost j.addr && j.entries.any fun e => mine e.lpn e.span)

/-- Whether the flush record stands (R287): present and read, its digest right, its last LOG_SEQ in the log, or no longer needed there. -/
def State.flushGood (s : State) (r : BootReport) : Bool :=
  s.flash.flushRec.any fun f =>
    r.flushRecordOk && f.places.any (s.sysReads r.badSys) && f.digest == digest (flushBytes f.step f.logSeq f.writeSeq) &&
    (decide (f.logSeq ≤ s.flash.verified) || s.flash.logPages.any fun g => g.seq + 1 == f.logSeq && !s.pageGone r.badLog g)

/-- Whether recovery holds a slot (R287): its namespace has log pages after the last verified LOG_SEQ, or records that no page holds, where the
flush record does not stand; a log page with bytes of its records, or a system page that concerns it, cannot be read. -/
def State.concerned (s : State) (r : BootReport) (slot : Nat) : Bool :=
  let p := s.logPart slot
  (!s.flushGood r && ((s.flash.logPages.any fun g => g.part == p && decide (s.flash.verified ≤ g.seq)) ||
    s.log.recs.any fun x => s.logPart x.slot == p && !x.durable)) ||
  (s.log.recs.any fun x => x.slot == slot && x.durable && s.recGone r.badLog x) || s.sysConcerns r.badSys slot

/-- The shards concerned recover to their last durable USN and are held (R287). -/
def State.cutShards (s : State) (r : BootReport) : State :=
  let cut := fun (e : Nat × Shard) =>
    if ¬ s.concerned r e.1 then e
    else
      let kept := s.logKept r.badLog e.1
      let all := (s.log.recs.filter fun x => x.slot == e.1).length
      let frozen := kept.any fun x => x.kind == 2 && some x.usn == e.2.sealJob.map (·.floor)
      let u := if kept.length < all then s.durableUsn r.badLog e.1 e.2 else e.2.lastUsn
      (e.1, { e.2.cutTo u (frozen || e.2.sealJob.isNone) with holdOut := true })
  { s with shards := s.shards.map cut }

/-- What recovery leaves of the log: the records that are durable, in pages that read; all of it is verified. -/
def State.logRecovered (s : State) (r : BootReport) : State :=
  let recs := (s.log.recs.filter fun x => !s.recGone r.badLog x).map fun (x : LogRec) => { x with at_ := 0 }
  { s with log := { s.log with recs := recs, dirty := 0, full := false }, flash := { s.flash with verified := s.flash.logSeq } }

/-- Stage 6 (R286): the map, the blocks to erase, the flush record. -/
def State.bootFlash (s : State) (r : BootReport) : State :=
  let s2 := ((s.bootHold r).loadMap r).recoverBlks
  let lost := s2.liveN 0xA010 0xA != 0 || !s2.log.recs.isEmpty || s2.flash.flushRec.isSome
  let any := lost && !s2.upDies.isEmpty
  let s3 := if any then s2.raise 0x7052 locField (if s2.mapGone r then 1 else 0) else s2
  let held := s3.shards.any fun e => s3.concerned r e.1
  let s4 := if any ∧ (¬ s3.flushGood r ∨ held) then s3.raise 0x7051 locField 0 else s3
  let s5 := (if any then s4.cutShards r else s4).logRecovered r
  (s5.setN 0xA050 5 (((s5.flash.flushRec).map (·.step)).getD 0)).endStage 6

/-! ### Stage 7: shards (R71, R153) -/

/-- A codebook of the sizes that a delta's records show, for the pages they take. -/
def deltaShape (d : Delta) : Codebook :=
  match d.recs with
  | [] => ⟨d.cb, 0, 0, 8, []⟩
  | r :: _ => ⟨d.cb, r.comps.length, r.code.length, 8, []⟩

/-- A durable image and epoch record become current before anything else. -/
def State.finishJobs (s : State) (i : Nat) : State :=
  let s1 := s.modShard i fun h => { h with partners := [] }
  ((s1.recoverSeal i).recoverCompact i).recoverReplica i

/-- Whether the pages of a segment read as their leaves say (R71): the map names units on dies in service for its extent, none mismatches on its
re-read, and the root is the one recorded. -/
def State.segReads (s : State) (r : BootReport) (i : Nat) (h : Shard) (n : Nat) (g : Seg) : Bool :=
  let whole := fun (e : Extent) => !e.prov && (List.range e.pages).all fun k => (mget s.flash.map (e.first + k)).any fun a => s.dieUp (addrDie a)
  (s.extentFor i n).any whole && !r.failedSegs.contains (i, n) && segmentRoot h.id n g.image == g.root

/-- The state of one shard after R153: its current epoch only, its seal begun again, its compaction dropped. -/
def Shard.recovered (h : Shard) : Shard :=
  let e := h.cur
  let again := fun (j : SealJob) => { j with stage := if j.stage = 5 then 5 else 1, tries := 0, image := [], noSpace := false, needs := 0, built := 0, chain := h.chainFrom (e.num + 1) j.floor }
  let keepS := h.segs.filter fun g => e.sealed.contains g.1
  let keepD := (h.deltas.filter fun d => e.deltas.contains d.1).map fun (d : Nat × Delta) => (d.1, { d.2 with opened := 0 })
  { h with epochs := if h.epochs.isEmpty then [] else [e], segs := keepS, deltas := keepD, sealJob := h.sealJob.map again, comp := none,
           noSpace := false, held := [], images := [], pendEpoch := none, pendDone := false, vis := h.lastUsn, last := h.lastUsn }

/-- Load one segment of a recovered shard by the table of R71: out of service where a page or the root mismatches, refused where a rule
of its image fails or it does not fit, and in service otherwise, with EV 0x3031 for a page that matched on its re-read. -/
def State.loadSeg (s : State) (r : BootReport) (i : Nat) (h : Shard) (n : Nat) (g : Seg) : State :=
  let set := fun (ok : Bool) (s : State) =>
    s.modShard i fun h => { h with segs := mput h.segs n { g with loaded := ok, inService := ok, reload := [] } }
  let s1 := if r.rereadSegs.contains (i, n) then s.raise 0x3031 (locPlot (n % 16)) 0 else s
  if ¬ s.segReads r i h n g then (set false s).raise 0x3032 locField 0
  else if ¬ h.imageOk g.image n ∨ ¬ s.segAgrees h g.image then (set false s1).raise 0x3030 locField 0
  else match s1.placeSeg i g.image with
    | none => ((set false s1).raise 0x6013 locField 0).raise 0x3030 locField 0
    | some s2 => set true s2

/-- Load and place what a recovered shard holds. -/
def State.placeShard (s : State) (r : BootReport) (i : Nat) (h : Shard) : State :=
  let one := fun (s : State) (g : Nat × Seg) => s.loadSeg r i h g.1 g.2
  let s1 := h.segs.foldl one s
  h.deltas.foldl (fun (s : State) d => (s.growDelta i d.1 d.2.recs.length (deltaShape d.2)).getD s) s1

/-- Stage 7 (R153): every slot; then the slots that are committed and hold nothing. -/
def State.bootState (s : State) (r : BootReport) : State :=
  let s0 := s.setN 0x6010 5 (framesFor 0 (s.actN 0x6010 3)).toNat
  let s1 := s0.shards.foldl (fun (s : State) e => s.finishJobs e.1) s0
  let s2 := { s1 with tier := TierSt.reset, tx := [], ledger := LedgerSt.reset, shards := s1.shards.map fun (e : Nat × Shard) => (e.1, e.2.recovered) }
  let s3 := if s2.pwr.short then s2 else s2.trimProvisional
  let s4 := s3.shards.foldl (fun (s : State) e => (s.placeShard r e.1 e.2).setSlotState e.1 e.2.state) s3
  let s5 := (List.range 256).foldl State.applySlot s4
  let fresh := fun (p : Partner) (h : Shard) => { p with attached := h.owner && h.vis == 0, acked := 0, next := 0, loading := h.owner && h.vis != 0, loadAt := 0, loadSeq := 0 }
  let s6 := { s5 with shards := s5.shards.map fun (e : Nat × Shard) => (e.1, { e.2 with partners := e.2.partners.map fun p => fresh p e.2 }) }
  let owed := s6.parts.filter fun e => e.2.owed.isSome
  let s7 := owed.foldl (fun (s : State) e =>
    let mode := e.2.owed.getD 0
    let run : Scrub := ⟨mode, 0, if mode = 1 then 3 else 0, if mode = 0 then 3 else 0⟩
    ((s.modPart e.1 fun x => { x with scrub := some run }).setN (0x9100 + e.1) 5 2).raise 0x9011 locField 0) s6
  s7.endStage 7

/-! ### Stage 8: service (R382, R383) -/

/-- The minimal set. -/
def State.minimalSet (s : State) (r : BootReport) : Bool :=
  bit s.node.gates s.node.handDie && (List.range 16).any (fun p => bit s.node.plots p && bit s.node.tillers p) && r.headlandOk &&
  s.node.gates != 0

/-- The digest of the Seedling set. -/
def State.seedlingDigest (s : State) : Bytes :=
  let slots := (s.shards.filter fun e => e.2.id != 0xFFFFFFFF).flatMap fun e => leBytes 2 e.1 ++ leBytes 4 e.2.id
  (List.range 32).map (Config.seedlingDigest s.node.plots s.node.gates (s.comN 0xC010 1) slots)

/-- Stage 8: Step Number 0 begins under the Seedling set, with its events in the step's records. -/
def State.bootService (s : State) (r : BootReport) : State :=
  if ¬ s.minimalSet r then
    let s1 := (s.raise 0xA042 (locHand s) 0).stopBoot .halt
    s1.1
  else
    let step := { s.step with number := 0, running := true, open_ := true, seedling := true, tier := 2, admTier := 2 }
    let s1 := { s with step := step, pwr := { s.pwr with boot := .running } }
    let d := s1.seedlingDigest
    let s2 := (((s1.setLive 0xC020 1 d).setLive 0xA050 3 d).setN 0xA050 2 1).setN 0xC020 4 0
    let s3 := s2.flashFigures
    let s4 := { s3 with dict := { s3.dict with pub := s3.dict.live } }
    (s4.raise 0xA043 (locHand s4) 0).raise 0xA040 (locHand s4) 0

/-! ### POWER_ON (R378) -/

/-- Go on with bring-up while it is not stopped. -/
def StageOut.andThen (x : StageOut) (f : State → StageOut) : StageOut := if x.2 then f x.1 else x

/-- POWER_ON: from stage 0, or from stage 1 after a pulse on the reset line. -/
def execPowerOn (r : BootReport) (s : State) : Host.Outcome State Fault Refusal :=
  match s.pwr.boot with
  | .off | .reset =>
    let s0 := s.powerDown
    let s1 := if s.pwr.boot = .off then s0.endStage 0 else s0.setN 0xA050 1 1
    let x := ((s1.bootGates r).andThen fun s => s.bootFirmware r).andThen fun s => s.bootClocks r
    .next (x.andThen fun s => (((((s.bootPlots r).bootUnits r).bootFlash r).bootState r).bootService r, true)).1
  | _ => .next s

end Sys2Proof.Machine
end

