-- ==== Sys2Proof/Machine/PlanCheck.lean ====
section
/-! DEFINITION. The checks of a plan set at its commit (R28 to R32, R75, R167, R169, R179, R180, R183, R189, R190, R198, R215, R217,
R237, R238, R245, R248, R251, R262, R264, R290 to R292, R296, R298, R317). -/

namespace Sys2Proof.Machine

/-- Why a plan set is refused: PLAN_REASON, the section type and the entry's index (R32), and for resource use the resource's
type and index (R343). -/
structure PlanFail where
  reason : Nat
  sec    : Nat
  idx    : Nat
  res    : Option (Nat × Nat)
  deriving DecidableEq, Repr

def noIdx : Nat := 0xFFFFFFFF
def planFail (reason sec idx : Nat) : PlanFail := ⟨reason, sec, idx, none⟩

/-- The first failure of a list of checks. -/
def firstPF (l : List (Bool × PlanFail)) : Option PlanFail := (l.find? (·.1)).map (·.2)

/-- The first entry of a section that a check refuses. -/
def badEntry {α : Type} (l : List α) (bad : α → Option (Nat × Option (Nat × Nat))) (sec : Nat) : Option PlanFail :=
  (l.zipIdx).findSome? fun e => (bad e.1).map fun r => ⟨r.1, sec, e.2, r.2⟩

def when_ (b : Bool) (reason : Nat) : Option (Nat × Option (Nat × Nat)) := if b then some (reason, none) else none

/-! ### Times (R24) -/

/-- The cycles of a plan's step, and its execution phase as first cycle and end. -/
def Plan.cycles (p : Plan) : Nat := p.stepNs * tierMhz p.tier / 1000
def Plan.execFrom (p : Plan) : Nat := tierMhz p.tier / 25
def Plan.execTo (p : Plan) : Nat := p.cycles - 4 * (tierMhz p.tier / 25)
def Plan.inExec (p : Plan) (start len : Nat) : Bool := decide (p.execFrom ≤ start) && decide (start + len ≤ p.execTo)

/-- Whether two slots of cycles meet. -/
def meets (s1 l1 s2 l2 : Nat) : Bool := decide (s1 < s2 + l2) && decide (s2 < s1 + l1)

/-- The first entry that meets an earlier one. -/
def firstClash {α : Type} (hit : α → α → Bool) : List α → List α → Nat → Option Nat
  | [], _, _ => none
  | x :: r, seen, i => if seen.any (hit x) then some i else firstClash hit r (seen ++ [x]) (i + 1)

/-! ### Header and directory (R29, R30) -/

/-- The size of a section's entries, 0 where it varies. -/
def secSize (typ : Nat) : Nat := [0, 16, 32, 16, 32, 16, 32, 0, 0].getD typ 0

def Plan.headerFail (p : Plan) (tier : Nat) : Option PlanFail :=
  let b := p.image
  let n := u32 b 36
  let layout :=
    decide (b.length < 128 + 16 * n) || sl b 0 4 != ascii "LPLN" || u16 b 4 != 1 || p.tier != tier ||
    !([4000, 8000, 16000].contains p.stepNs) || p.period == 0 || n == 0 || decide (16 < n) || u64 b 40 != b.length
  firstPF [(layout, planFail 7 0 noIdx)]

def Plan.sectionFail (p : Plan) : Option PlanFail :=
  let n := p.secs.length
  let bad := p.secs.findSome? fun x =>
    if x.typ = 0 ∨ 8 < x.typ ∨ x.off < 128 + 16 * n ∨ p.image.length < x.off + secSize x.typ * x.count then
      some (planFail 7 x.typ noIdx)
    else none
  let twice := (p.secs.map (·.typ)).find? fun t => decide (1 < (p.secs.filter fun x => x.typ == t).length)
  let lacks := [1, 5, 8].find? fun t => !(p.secs.any fun x => x.typ == t)
  bad <|> (twice.map fun t => planFail 7 t noIdx) <|> (lacks.map fun t => planFail 7 t noIdx)

/-- Digest, level, dies and the limits of R31.  Bits [7:4] of GATES_REQUIRED, which no row names, are read as reserved bits (R7, log 190);
DESIGN CHOICE (log 191): sub-request slots count among the request admission slots of R31. -/
def State.planHeadFail (s : State) (p : Plan) : Option PlanFail :=
  let b := p.image
  let zeroed := overlay b 64 (zeros 32)
  let eng := p.engines
  let slots := p.slots
  let perStep := fun (typ : Nat → Bool) (plot : Option Nat) (t : Nat) =>
    (slots.filter fun x => typ x.typ && x.template == t && (plot.map fun q => x.plot == q).getD true).length
  let req := fun (t : Nat) => t == 0 || t == 2
  let upd := fun (t : Nat) => t == 1
  firstPF [
    (digest zeroed != p.digest, planFail 1 0 noIdx),
    (sl b 16 16 != featureLevel, planFail 2 0 noIdx),
    (!(List.range 16).all (fun n => !bit (u16 b 32) n || (bit s.node.plots n && !bit s.node.retired n)), planFail 3 0 noIdx),
    (!(List.range 4).all (fun g => !bit (u8 b 34) g || bit s.node.gates g), planFail 3 0 noIdx),
    (decide (4096 < p.period) || decide (134217728 < b.length) || decide (65536 < p.lifetime), planFail 4 0 noIdx),
    ((List.range p.period).any (fun t => (List.range 16).any fun q => decide (4096 < (eng.filter fun x => x.template == t && x.plot == q).length)),
      planFail 4 1 noIdx),
    ((List.range p.period).any (fun t => decide (1024 < perStep req none t) || decide (256 < perStep upd none t) ||
        (List.range 16).any fun q => decide (64 < perStep req (some q) t) || decide (16 < perStep upd (some q) t)),
      planFail 4 5 noIdx)]

/-! ### Engine slots (R30, R31) -/

/-- Rows of each type on a plot (R15). -/
def rowCount (typ : Nat) : Nat := [0, 4, 8, 2, 1, 4, 1, 2, 1, 1, 2].getD typ 0

/-- Engine slots (R30, R31).  DESIGN CHOICE (log 192): a field outside its range in R30 has PLAN_REASON 13. -/
def Plan.engineFail (p : Plan) : Option PlanFail :=
  badEntry p.engines (fun x =>
    when_ (decide (p.period ≤ x.template) || decide (rowCount x.rowType ≤ x.rowIndex) || x.len == 0 || !p.inExec x.start x.len ||
      decide (p.image.length ≤ x.ref)) 13) 1 <|>
  (firstClash (fun (x y : EngSlot) => x.template == y.template && x.plot == y.plot && x.rowType == y.rowType &&
    x.rowIndex == y.rowIndex && meets x.start x.len y.start y.len) p.engines [] 0).map (planFail 10 1)

/-! ### Memory transfers and queue definitions (R290 to R292, R298) -/

def isQueueDef (e : Nat) : Bool := bitsOf e 232 229 == 15
def xMover (e : Nat) : Nat := bitsOf e 239 239
def xChan (e : Nat) : Nat := bitsOf e 238 233
def xStart (e : Nat) : Nat := bitsOf e 228 213
def xCycles (e : Nat) : Nat := bitsOf e 212 197
def xRegions (e : Nat) : List Nat := (List.range (bitsOf e 192 189 + 1)).map (bitsOf e 196 193 + ·)
def xQueue (e : Nat) : Nat := bitsOf e 147 132

/-- PARAM and LENGTH by MODE (R291). -/
def modeOk (e : Nat) : Bool :=
  let p := xParam e
  let mode := bitsOf e 232 229
  let planes := (bitsOf p 4 0 + 1) * (if bit p 5 then 2 else 1)
  let len := xLen e
  if mode = 0 then true
  else if mode = 1 then decide (bitsOf p 4 0 < 16) && len % (1024 * planes) == 0
  else if mode = 2 then !bit p 5 && decide (bitsOf p 4 0 < 16) && len % (1024 * planes) == 0
  else if mode = 3 ∨ mode = 4 then
    decide (1 ≤ bitsOf p 15 8) && decide (bitsOf p 7 4 + bitsOf p 3 0 + 1 ≤ 8 * bitsOf p 15 8)
  else false

/-- A transfer entry by itself, and a queue definition. -/
def Plan.transferFail1 (p : Plan) (e : Nat) : Option (Nat × Option (Nat × Nat)) :=
  let queues := (p.transfers.filter isQueueDef).map fun d => (bitsOf d 243 240, bitsOf d 228 213)
  if isQueueDef e then
    let q := bitsOf e 228 213
    let depth := bitsOf e 189 170
    let cls := bitsOf e 212 210
    when_ (decide (q < 16) || decide (4096 ≤ q) ||
      !([0, 1, 4].contains cls) || bitsOf e 209 190 == 0 || decide (depth < bitsOf e 209 190)) 13
  else
    let cpl := bit e 188
    when_ (decide (p.period ≤ bitsOf e 255 244) || decide (4 < bitsOf e 232 229) || !modeOk e ||
      decide (15 < bitsOf e 196 193 + bitsOf e 192 189) || xCycles e == 0 || !p.inExec (xStart e) (xCycles e) || xLen e == 0 ||
      xLen e % 64 != 0 || (!cpl && xQueue e != 0) ||
      (cpl && !([0, 1].contains (xQueue e) || queues.contains (xPlot e, xQueue e))) ||
      !([0, 1, 2, 3, 5].contains (faRegion (xSrc e))) || !([0, 1, 2, 5].contains (faRegion (xDst e)))) 13

/-- Two transfers of one mover that meet in a buffer region or a channel. -/
def xClash (x y : Nat) : Bool :=
  !isQueueDef x && !isQueueDef y && bitsOf x 255 239 == bitsOf y 255 239 && meets (xStart x) (xCycles x) (xStart y) (xCycles y) &&
  (xChan x == xChan y || (xRegions x).any (xRegions y).contains)

def Plan.transferFail (p : Plan) : Option PlanFail :=
  let depth := fun (q : Nat) => sumNat ((p.transfers.filter fun e => isQueueDef e && bitsOf e 243 240 == q).map fun e => bitsOf e 189 170)
  badEntry p.transfers p.transferFail1 2 <|>
  (firstClash (fun (x y : Nat) => isQueueDef x && isQueueDef y && bitsOf x 243 240 == bitsOf y 243 240 && bitsOf x 228 213 == bitsOf y 228 213)
    p.transfers [] 0).map (planFail 13 2) <|>
  firstPF [((List.range 16).any fun q => decide (1046528 < depth q), planFail 13 2 noIdx)] <|>
  (firstClash xClash p.transfers [] 0).map (planFail 10 2)

/-! ### Headland routes (R11, R295, R296) -/

/-- Whether a link joins two dies: neighbours in the mesh, or a plot of the panel edge and the Gate die on its side. -/
def joined (a b : Nat) : Bool :=
  let edge := fun (g p : Nat) =>
    (g == 16 && p % 4 == 0) || (g == 17 && decide (p < 4)) || (g == 18 && p % 4 == 3) || (g == 19 && decide (12 ≤ p))
  if a < 16 ∧ b < 16 then (a / 4 == b / 4 && (a + 1 == b || b + 1 == a)) || a + 4 == b || b + 4 == a
  else (decide (b < 16) && edge a b) || (decide (a < 16) && edge b a)

def rWay (e i : Nat) : Nat := bitsOf e (92 - 5 * i) (88 - 5 * i)
def rHops (e : Nat) : Nat := bitsOf e 95 93
def rLinks (e : Nat) : List (Nat × Nat) := (List.range (rHops e)).map fun i => (rWay e i, rWay e (i + 1))
def rTemplates (e : Nat) : List Nat := [bitsOf e 127 116, bitsOf e 20 9]
def Plan.routes (p : Plan) : List Nat := p.entries 3 16

/-- The Gate die that holds a byte of the segment window: that of the channel on which the map has its unit. -/
def State.segDie (s : State) (a : Nat) : Option Nat :=
  ((s.segExtent (bitsOf a 55 40)).bind fun x => mget s.flash.map (x.first + a % 2 ^ 40 / 16384)).map fun u => 16 + addrDie u / 128

/-- The die that holds a transfer's end: its mover's plot for a source, the Gate die of the first byte for the segment window, and any where
nothing is mapped there yet, the stack or cell pool that an address names. -/
def State.dieOk (s : State) (e die : Nat) (src : Bool) : Bool :=
  let a := if src then xSrc e else xDst e
  if faRegion a = 3 then decide (16 ≤ die) && decide (die < 20) && ((s.segDie a).map (· == die)).getD true
  else if src then die == xPlot e
  else if faRegion a = 0 then die == faWindow a / max 1 s.homeBytes
  else if faRegion a = 5 then die == bitsOf a 39 36 else die == faStack a

/-- Whether a mover reads its own plot's memories, or the segment window (R289). -/
def State.ownSource (s : State) (e : Nat) : Bool :=
  let a := xSrc e
  faRegion a == 3 || (if faRegion a = 0 then xPlot e == faWindow a / max 1 s.homeBytes else if faRegion a = 5 then xPlot e == bitsOf a 39 36
    else xPlot e == faStack a)

def State.routeFail (s : State) (p : Plan) : Option PlanFail :=
  let one := fun (e : Nat) =>
    let t := bitsOf e 127 116
    let retry := bitsOf e 20 9
    let h := rHops e
    match p.transfers[bitsOf e 115 96]? with
    | none => some (13, none)
    | some x => when_ (isQueueDef x || decide (p.period ≤ t) || h == 0 || !p.inExec (bitsOf e 52 37) (bitsOf e 36 21) ||
        !(retry == (t + 1) % p.period || retry == (t + 2) % p.period) ||
        !s.dieOk x (rWay e 0) true || !s.dieOk x (rWay e h) false || (rLinks e).any (fun l => !joined l.1 l.2)) 13
  let clash := fun (x y : Nat) => (rTemplates x).any (rTemplates y).contains &&
    meets (bitsOf x 52 37) (bitsOf x 36 21) (bitsOf y 52 37) (bitsOf y 36 21) && (rLinks x).any (rLinks y).contains
  let loads := fun (t : Nat) => (p.routes.filter fun e => (rTemplates e).contains t).flatMap rLinks
  let full := (List.range p.period).any fun t => (loads t).any fun l => decide (256 < ((loads t).filter fun m => m == l || m == (l.2, l.1)).length)
  let needs := fun (x : Nat × Nat) => !isQueueDef x.1 && (faRegion (xSrc x.1) == 3 || !s.dieOk x.1 (xPlot x.1) false) &&
    !(p.routes.any fun e => bitsOf e 115 96 == x.2)
  let foreign := fun (x : Nat × Nat) => !isQueueDef x.1 && !s.ownSource x.1
  badEntry p.routes one 3 <|> (firstClash clash p.routes [] 0).map (planFail 10 3) <|>
  firstPF [(full, planFail 4 3 noIdx)] <|>
  ((p.transfers.zipIdx).find? fun x => foreign x || needs x).map fun x => planFail 13 2 x.2

/-! ### Gate entries (R317) -/

def gTemplate (e : Nat) : Nat := bitsOf e 255 244
def gPort (e : Nat) : Nat := bitsOf e 239 235
def Plan.gateEntries (p : Plan) : List Nat := p.entries 4 32

def Plan.gateFail (p : Plan) : Option PlanFail :=
  let same := fun (x y : Nat) => bitsOf x 255 234 == bitsOf y 255 234
  let clash := fun (x y : Nat) => same x y && (List.range 8).any (fun c => bit (bitsOf x 233 226) c && bit (bitsOf y 233 226) c) &&
    meets (bitsOf x 225 210) (bitsOf x 209 194) (bitsOf y 225 210) (bitsOf y 209 194)
  let crowd := fun (x : Nat) => decide (64 < (p.gateEntries.filter fun y => bitsOf x 255 235 == bitsOf y 255 235).length)
  badEntry p.gateEntries (fun e =>
    when_ (decide (p.period ≤ gTemplate e) || decide (20 ≤ gPort e) || !p.inExec (bitsOf e 225 210) (bitsOf e 209 194) ||
      crowd e) 13) 4 <|>
  (firstClash clash p.gateEntries [] 0).map (planFail 10 4)

/-! ### Admission slots and the pools (R167, R169) -/

/-- The longest LIFETIME_STEPS of a mask's kinds. -/
def Plan.maskLife (p : Plan) (mask : Nat) : Nat :=
  maxNat (((p.kinds.zipIdx).filter fun k => bit mask k.2).map fun k => kindLifetime k.1)

/-- What a slot holds at once, admitting in one template of the period. -/
def Plan.slotHolds (p : Plan) (x : AdmSlot) : Nat :=
  ceilDiv (if x.typ = 1 then p.lifetime else p.maskLife x.mask) (max 1 p.period)

/-- How many kinds of a mask search: those that accept a QUERY_KIND (R75); the others serve GENERATE alone (R217) and place no
walk, scan or enumeration work. -/
def Plan.maskWalks (p : Plan) (mask : Nat) : Nat := ((p.kinds.zipIdx).filter fun k => bit mask k.2 && kindQueries k.1 != 0).length

/-- The plots on which engine slots place walk, scan or enumeration work: those of Ploughs and Harrows. -/
def Plan.walkPlots (p : Plan) : List Nat :=
  dedupBy id [] ((p.engines.filter fun x => x.rowType == 1 || x.rowType == 2).map (·.plot))

def State.slotFail (s : State) (p : Plan) : Option PlanFail :=
  let one := fun (e : Nat) =>
    let x := admSlotOf e
    let ring := mget s.rings x.source
    when_ (decide (p.period ≤ x.template) || x.typ == 3 || (x.typ == 1 && (x.mask != 0 || decide (16 ≤ x.idx))) ||
      (x.typ == 2 && decide (16 ≤ x.source)) ||
      (x.typ != 2 && (ring.map fun q => !bit (s.actN (0x9100 + q.part) 1) x.plot).getD false)) 13
  let same := fun (x y : AdmSlot) => x.template == y.template && x.plot == y.plot && x.typ == y.typ && x.idx == y.idx
  badEntry (p.entries 5 16) one 5 <|> (firstClash same p.slots [] 0).map (planFail 10 5)

/-- The pools that the admission slots could need (R169): stubs and near slots, a walk part for each searching kind of a slot's mask on
every other plot with such work, far contexts.  DEDUCED (log 196): an engine slot names no kind, so the work of the Ploughs and Harrows
counts for each. -/
def State.poolFail (s : State) (p : Plan) : Option PlanFail :=
  let live := p.slots.filter fun x => (s.partOfPlot x.plot).isSome
  let home := fun (n : Nat) => sumNat ((live.filter fun x => x.plot == n).map p.slotHolds)
  let walks := fun (n : Nat) =>
    if p.walkPlots.contains n then sumNat ((live.filter fun x => x.plot != n && x.typ != 1).map fun x => p.maskWalks x.mask * p.slotHolds x) else 0
  let fars := fun (n : Nat) =>
    s.comN 0x3013 3 + sumNat ((live.filter fun x => s.farPlot x.plot ((s.partOfPlot x.plot).getD 0) == n).map p.slotHolds)
  firstPF [((List.range 16).any fun n => decide (32768 < home n + walks n) || decide (131072 < home n) || decide (131072 < fars n), planFail 9 5 noIdx)]

/-! ### Maintenance slices (R237, R238, R245, R248, R262, R264, R270) -/

/-- The groups that a tilling slice's fields name, those that a stack does not have among them. -/
def State.namedGroups (s : State) (x : Slice) : List (Option GroupId) :=
  let tgs := s.actN 0x6010 1
  (bitList x.target 32).flatMap fun ch => ([0, 1].filter fun p => bit x.params (126 + p)).flatMap fun p =>
    ([2, 3].filter fun b => bit x.params (122 + b)).map fun b =>
      if 4 ≤ b + tgs then some (⟨x.plot, (b + tgs - 4) * 64 + ch * 2 + p⟩ : GroupId) else none

def Plan.sliceFail1 (p : Plan) (s : State) (e : Nat) : Option (Nat × Option (Nat × Nat)) :=
  let x := sliceOf e
  let till := 0x10 ≤ x.typ ∧ x.typ ≤ 0x13
  let flash := 0x20 ≤ x.typ ∧ x.typ ≤ 0x24
  let list := bitsOf x.params 59 0
  let shape :=
    if 1 ≤ x.typ ∧ x.typ ≤ 6 then true
    else if till then
      (s.namedGroups x).all (·.isSome) &&
      (if x.typ = 0x11 then decide (1 ≤ bitsOf list 59 44) && decide (bitsOf list 43 0 + 64 * bitsOf list 59 44 ≤ p.image.length)
       else true) && (x.cap == 0 || x.typ == 0x11 || x.typ == 0x13)
    else if flash then x.plot == 0
    else false
  when_ (decide (p.period ≤ x.template) || !p.inExec x.start x.len || !shape) 13

/-- The planned time of a record in ns (R262), rounded up. -/
def recNs (r : Bytes) : Nat :=
  let op := u8 r 0
  let waves := ceilDiv (rBanks r) 20
  let far := fun (a : Nat) => if a / 512 = rDst r / 512 then 0 else 1
  let w := rCh r * weightBytes (rFmt r) (rK r)
  if op = 0x01 then (40 + 60 * far (rA r)) * waves
  else if op = 0x02 then 40 * waves
  else if op = 0x03 then 30 * rBanks r
  else if op = 0x04 then 80
  else if op = 0x10 ∨ op = 0x11 then (440 + 120 * (far (rA r) + far (rB r))) * waves
  else if op = 0x12 then 80 * waves
  else if op = 0x13 then 1200 * waves
  else if op = 0x20 ∨ op = 0x21 ∨ op = 0x22 then 120 * waves
  else if op = 0x30 then 300 + ceilDiv (10 * w) 1536
  else 0

/-- The segments of a command list, as times. -/
def segNs (l : List Bytes) : List Nat :=
  (l.foldl (fun (st : List Nat × Nat) r => if bit (u8 r 1) 0 then (st.1 ++ [st.2 + recNs r], 0) else (st.1, st.2 + recNs r)) ([], 0)) |>
    fun st => st.1 ++ [st.2]

/-- A RUN slice's list: its records, its segments and its length (R251, R264). -/
def Plan.runFail (p : Plan) (x : Slice) : Option Nat :=
  if x.typ ≠ 0x11 then none
  else
    let l := splitAll 64 (sl p.image (bitsOf x.params 43 0) (64 * bitsOf x.params 59 44))
    let total := sumNat (segNs l)
    if l.any fun r => !recOk r then some 13
    else if (segNs l).any (fun n => decide (1950 < n)) ∨ x.len * 1000 < tierMhz p.tier * (total + (ceilDiv total 1950 + 8) * 240) then some 11
    else none

/-- The moment of a slice within the period. -/
def Slice.at_ (x : Slice) : Nat := x.template * 65536 + x.start

/-- Whether a group is in tilling mode somewhere in a slice of the period: the last ENTER or EXIT slice that began before it, around the
period, was an ENTER, or an EXIT that has not ended; or an ENTER begins within it. -/
def Plan.tillsIn (p : Plan) (s : State) (g : GroupId) (l : Slice) : Bool :=
  let marks := sortBy (fun (a b : Slice) => decide (a.at_ < b.at_))
    (p.slices.filter fun x => (x.typ == 0x10 || x.typ == 0x12) && (s.namedGroups x).contains (some g))
  let before := marks.filter fun x => decide (x.at_ < l.at_)
  (((before.getLast? <|> marks.getLast?).map fun x => x.typ == 0x10).getD false) ||
  before.any (fun x => x.typ == 0x12 && decide (l.at_ < x.at_ + x.len)) ||
  marks.any fun x => x.typ == 0x10 && decide (l.at_ ≤ x.at_) && decide (x.at_ < l.at_ + l.len)

/-- The bytes of a group's DATA rows. -/
def dataBytes : Nat := 80 * 8 * 496 * 1024

/-- Refresh above 85 °C, RUN lists, LOAD slices against tilling mode, and their cover of the DATA rows. -/
def State.sliceTimeFail (s : State) (p : Plan) : Option PlanFail :=
  let plots := bitList (u16 p.image 32) 16
  let refreshed := fun (q ch : Nat) =>
    sumNat ((p.slices.filter fun x => x.typ == 1 && x.plot == q && bit x.target ch).map (·.cap))
  let loads := p.slices.filter fun x => x.typ == 0x13
  let covered := fun (g : GroupId) => sumNat ((loads.filter fun x => (s.namedGroups x).contains (some g)).map fun x =>
    x.cap / max 1 (s.namedGroups x).length)
  let groups := plots.flatMap fun q => (List.range s.tillGroups).map fun i => (⟨q, i⟩ : GroupId)
  let mine := groups.filter fun g => !s.hostGroup g && !s.offGroup g
  firstPF [(plots.any (fun q => (List.range 32).any fun ch => decide (refreshed q ch * 1950 < 640 * p.period * p.stepNs)), planFail 11 6 noIdx)] <|>
  badEntry p.slices (fun x => (p.runFail x).map fun r => (r, none)) 6 <|>
  badEntry p.slices (fun x => when_ (x.typ == 0x13 && (s.namedGroups x).any fun g => (g.map fun g => p.tillsIn s g x).getD false) 11) 6 <|>
  firstPF [(mine.any fun g => decide (covered g * (s.comN 0x6010 9 / max 1 p.period) < dataBytes), planFail 11 6 noIdx)]

/-! ### Tensor programs (R179, R180, R183, R189, R190, R198, R215) -/

/-- An instruction of 32 bytes.  The distinct rows of a gather are known only when it runs (R198, log 174). -/
def instrFail (b : Bytes) : Bool :=
  let op := u16 b 0
  let func := u8 b 5
  let lim := [(0x10, 2), (0x11, 3), (0x12, 1), (0x14, 3), (0x20, 1), (0x40, 1), (0x46, 2)]
  let int := isIntFmt (u8 b 2) && isIntFmt (u8 b 3)
  !([0x01, 0x02, 0x03, 0x10, 0x11, 0x12, 0x13, 0x14, 0x15, 0x20, 0x30, 0x40, 0x41, 0x42, 0x43, 0x44, 0x45, 0x46, 0x48].contains op) ||
  decide (mgetD lim op 255 < func) ||
  (op == 0x01 && (decide (7 < u8 b 2) || decide (7 < u8 b 3) || isIntFmt (u8 b 2) != isIntFmt (u8 b 3) || (int && decide (65536 < u32 b 16)) ||
    decide (4096 < u32 b 12))) ||
  (op == 0x20 && decide (1048576 < u32 b 8))

def Plan.tensorFail (p : Plan) : Option PlanFail :=
  match p.secs.find? fun x => x.typ == 7 with
  | none => none
  | some x =>
    let b := p.image.drop x.off
    let n := u16 b 6
    let dir := (List.range (min n 256)).map fun k => (u32 b (64 + 16 * k), u64 b (72 + 16 * k))
    firstPF [
      (sl b 0 4 != ascii "LTPG" || u16 b 4 != 1 || n == 0 || decide (256 < n) || decide (b.length < 64 + 16 * n) ||
        dir.any (fun d => decide (b.length < d.2 + 32 * d.1)), planFail 7 7 noIdx)] <|>
    badEntry p.programs (fun q => when_ ((splitAll 32 q).any instrFail) 12) 7

/-! ### The search programme (R75, R217) -/

def kindFail (p : Plan) (k : Bytes) (i : Nat) : Bool :=
  let gen := kindQueries k == 0
  u8 k 0 != i || decide (p.lifetime < kindLifetime k) || decide (7 < kindQueries k) ||
  (if gen then
    kindRerank k != 0 || kindWiden k || u8 k 2 != 0 || kindSegs k != 0 || kindEnum k != 0 || kindDim k != 0 || kindTerms k != 0
   else
    decide (1 < kindRerank k) || decide (1 < u8 k 2) || kindK k == 0 || decide (1024 < kindK k) || kindBeam k == 0 || decide (256 < kindBeam k) ||
    kindRerankMax k == 0 || decide (1024 < kindRerankMax k) || kindShards k == 0 || kindSegs k == 0 || decide (8 < kindTerms k))

def Plan.searchFail (p : Plan) : Option PlanFail :=
  match p.secs.find? fun x => x.typ == 8 with
  | none => none
  | some x =>
    let b := p.image.drop x.off
    let n := u16 b 6
    firstPF [(sl b 0 4 != ascii "LSRP" || u16 b 4 != 1 || n == 0 || decide (32 < n) || decide (b.length < 64 + 64 * n),
      planFail 7 8 noIdx)] <|>
    ((p.kinds.zipIdx).find? fun k => kindFail p k.1 k.2).map fun k => planFail 13 8 k.2

/-! ### The set (R28, R32) -/

/-- The addresses that PLAN.IMAGE_ADDRS names, by tier. -/
def imageAddrs (v : Bytes) : List (Nat × Nat) := (List.range 3).filterMap fun t => if u64 v (8 * t) = 0 then none else some (t, u64 v (8 * t))

/-- Whether a range lies in host staging (R231): inside the first TIER.STAGING_MIB of one stack's window. -/
def State.inStaging (s : State) (addr len : Nat) : Bool :=
  faRegion addr == 0 && bitsOf addr 59 41 == 0 && decide (faWindow addr + len ≤ 16 * s.homeBytes) &&
  decide (faWindow addr % max 1 s.homeBytes + len ≤ s.actN 0x6010 4 * 1048576)

/-- The IMAGE_LENGTH of the plan at an address. -/
def State.planLength (s : State) (addr : Nat) : Nat := leNat (s.staging (addr + 40) 8)

/-- The images that a set's addresses name, none where one is not whole in host staging on a 64-byte boundary.  DESIGN CHOICE (log 193): an
image whose IMAGE_LENGTH is below that of its header counts as one that is not whole. -/
def State.planImages (s : State) (v : Bytes) : Option (List (Nat × Plan)) :=
  (imageAddrs v).foldr (fun a acc => acc.bind fun l =>
    let n := s.planLength a.2
    if a.2 % 64 = 0 ∧ s.inStaging a.2 48 ∧ s.inStaging a.2 n ∧ 128 ≤ n then some ((a.1, parsePlan (s.staging a.2 n)) :: l) else none) (some [])

/-- The plan set digest (R28). -/
def setDigest (l : List (Nat × Plan)) : Bytes := digest ([0, 1, 2].flatMap fun t => ((mget l t).map (·.digest)).getD (zeros 32))

/-- Checks of each plan that come before ACTIVATE_AT, and those after the step length. -/
def State.earlyPlanFail (s : State) (x : Nat × Plan) : Option PlanFail :=
  x.2.headerFail x.1 <|> x.2.sectionFail <|> s.planHeadFail x.2
def State.latePlanFail (s : State) (x : Nat × Plan) : Option PlanFail :=
  let p := x.2
  p.searchFail <|> p.tensorFail <|> p.engineFail <|> p.transferFail <|> s.routeFail p <|> p.gateFail <|> s.slotFail p <|>
  badEntry (p.entries 6 32) (p.sliceFail1 s) 6 <|> s.sliceTimeFail p <|> s.poolFail p

/-- What the plans of a set share (R28). -/
def sameShape (a b : Plan) : Bool :=
  a.period == b.period && a.stepNs == b.stepNs && a.lifetime == b.lifetime && a.kinds == b.kinds && a.programs == b.programs

/-- The first failure of a set whose addresses are `v` and whose expected digest is `dg`; `at_` is its ACTIVATE_AT, `soonest` the least
that is allowed and `stepNs` the configured step length. -/
def State.planSetFail (s : State) (v dg : Bytes) (at_ soonest stepNs : Nat) : Option PlanFail :=
  match s.planImages v with
  | none => some (planFail 1 0 noIdx)
  | some l =>
    firstPF [(setDigest l != dg, planFail 1 0 noIdx)] <|>
    l.findSome? s.earlyPlanFail <|>
    firstPF [
      (decide (at_ < soonest), planFail 5 0 noIdx),
      (l.any fun x => x.2.stepNs != stepNs, planFail 8 0 noIdx),
      ((mget l 0).isNone || l.any (fun x => (l.any fun y => !sameShape x.2 y.2)), planFail 7 0 noIdx)] <|>
    l.findSome? s.latePlanFail

/-! ### Resources (R292, R317, R320, R343, R344) -/

/-- The resources that a plan uses: section, entry, resource and the owner that it needs. -/
def State.planUses (s : State) (p : Plan) : List (Nat × Nat × (Nat × Nat) × Nat) :=
  let moves := (p.transfers.zipIdx).filter fun e => !isQueueDef e.1
  (moves.flatMap fun e =>
    ((xRegions e.1).map fun r => (2, e.2, (1, xPlot e.1 * 32 + xMover e.1 * 16 + r), ownPlan)) ++
    (if 56 ≤ xChan e.1 then [(2, e.2, (2, xPlot e.1 * 16 + xMover e.1 * 8 + xChan e.1 - 56), ownPlan)] else [])) ++
  ((p.gateEntries.zipIdx).filterMap fun e =>
    if gPort e.1 < 16 then some (4, e.2, (3, gPort e.1), ownFabric)
    else if gPort e.1 < 20 then some (4, e.2, (4, gPort e.1 - 16), ownHost) else none) ++
  ((p.slices.zipIdx).filter fun x => decide (0x10 ≤ x.1.typ) && decide (x.1.typ ≤ 0x13)).flatMap fun x =>
    ((s.namedGroups x.1).filterMap id).map fun g => (6, x.2, (5, g.stack * 128 + g.gamma), ownPlan)

/-- The first use whose resource another feature owns. -/
def State.planUseFail (s : State) (plans : List Plan) : Option (PlanFail × Nat) :=
  plans.findSome? fun p => ((s.planUses p).find? fun u => s.ownerOf u.2.2.1.1 u.2.2.1.2 != u.2.2.2).map fun u =>
    (⟨6, u.1, u.2.1, some u.2.2.1⟩, u.2.2.2)

end Sys2Proof.Machine
end

