-- ==== Sys2Proof/Machine/ImageCheck.lean ====
section
/-! DEFINITION. The checks of the images that a commit brings: codebooks, models, embedding descriptors and firmware (R139, R186
to R188, R194 to R196, R208, R209, R257, R357, R358). -/

namespace Sys2Proof.Machine

/-! ### Codebooks (R50, R52, R139) -/

def cbOfLoad (v : Bytes) : Codebook :=
  let vals := v.drop 16
  ⟨digest vals, u16 v 0, u8 v 2, u8 v 3, vals⟩

/-- Whether a CB.LOAD is refused: a header that is not allowed, a length that does not match it, or 64 held already. -/
def State.cbLoadFails (s : State) (v : Bytes) : Bool :=
  let dim := u16 v 0
  let m := u8 v 2
  let bits := u8 v 3
  decide (v.length < 16) || !([16, 32, 48, 64, 96, 128].contains m) || !(bits == 4 || bits == 8) || dim == 0 || decide (4096 < dim) ||
  dim % max m 1 != 0 || v.length != 16 + 2 * 2 ^ bits * dim ||
  decide (64 ≤ s.codebooks.length)

/-- Whether a codebook is named by a delta or a held segment. -/
def State.cbNamed (s : State) (dg : Bytes) : Bool :=
  s.shards.any fun h => (h.2.deltas.any fun d => d.2.cb == dg) || h.2.segs.any fun g => segCb g.2.image == dg

/-! ### Tensors and their check vectors (R124, R186, R187) -/

/-- The values of channel j, with its block scales. -/
def Tensor.vals (t : Tensor) (img : Bytes) (j : Nat) : List FV := rowVals t.fmt (t.channel img j) (t.chScales img j)

/-- (B e)_k as the node computes it: INT64 for integer formats, FP32 in ascending channel for float formats. -/
def Tensor.checkBytesOf (t : Tensor) (img : Bytes) : Bytes :=
  let chans := (List.range t.n).map (t.channel img)
  let flts := (List.range t.n).map fun j => (t.vals img j).map (fenc fp32 false)
  (List.range t.k).flatMap fun k =>
    if isIntFmt t.fmt then leBytes 8 (ofSInt 64 ((chans.map fun c => sInt (fmtBits t.fmt) (c.getD k 0)).foldl (· + ·) 0))
    else leBytes 4 (f32sum (flts.map fun c => c.getD k 0)) ++ zeros 4

def Tensor.dirFails (t : Tensor) (img : Bytes) : Bool :=
  decide (9 < t.fmt) || t.off % 64 != 0 || t.bytes % 64 != 0 ||
  t.bytes != t.elemBytes + t.scaleBytes + t.regBytes + t.checkBytes || decide (img.length < t.off + t.bytes)

/-- A check vector as an image holds it: the reserved bytes of a float tensor's entries are not compared (R7). -/
def Tensor.heldCheck (t : Tensor) (img : Bytes) : Bytes :=
  let b := sl img (t.off + t.elemBytes + t.scaleBytes + t.regBytes) (8 * t.k)
  if isIntFmt t.fmt then b else (splitAll 8 b).flatMap fun e => e.take 4 ++ zeros 4

def Tensor.valueFails (t : Tensor) (img : Bytes) : Bool :=
  (bit t.flags 1 && t.heldCheck img != t.checkBytesOf img) ||
  (isMxFmt t.fmt && (sl img (t.off + t.elemBytes) (t.n * ceilDiv t.k 32)).any (· == 0xFF))

/-! ### Models (R188, R208, R209, R257) -/

/-- The header, and for a generator its section (R186, R208). -/
def modelHeadFails (img : Bytes) : Bool :=
  let n := u32 img 8
  let g := genSecAt img
  decide (img.length < 128 + 32 * n + 40 * u16 img 12) || sl img 0 4 != ascii "OMDL" || u16 img 4 != 1 || u8 img 6 == 0 || decide (4 < u8 img 6) ||
  n == 0 || decide (65536 < n) || decide (16 < u16 img 12) || u16 img 14 == 0 || decide (4096 < u16 img 14) ||
  u64 img 16 != img.length ||
  (u8 img 6 == 4 &&
    (decide (img.length < g + 64 + 64 * ceilDiv (genLayers img) 64) || genLayers img == 0 || decide (256 < genLayers img) ||
     genHeads img == 0 || decide (128 < genHeads img) || genKvHeads img == 0 || decide (64 < genKvHeads img) ||
     genHeads img % max 1 (genKvHeads img) != 0 || !([64, 128, 256].contains (genHeadDim img)) ||
     !(genKvFmt img == 2 || genKvFmt img == 4) || decide (genVocab img < 2) || decide (262144 < genVocab img) ||
     decide (genMaxCtx img < 64) || decide (1048576 < genMaxCtx img) ||
     !(decide (0x3F800000 < genRopeBase img) && decide (genRopeBase img < 0x7F800000)) ||
     (sl img (g + 64) (genLayers img)).any (fun b => decide (1 < b.toNat)) ||
     !allZero (sl img (g + 64 + genLayers img) (64 * ceilDiv (genLayers img) 64 - genLayers img))))

/-- Whether the replacement of a MULT under S_j is exact and normal (R257). -/
def replaceOk (mult s : Nat) : Bool :=
  let r := tillMult mult s
  let exact := fvMul (fdec fp32 mult) (fvPow2 ((s : Int) - 128))
  let e := r / 2 ^ 23 % 256
  e != 0 && e != 255 && !fvLt exact (fdec fp32 r) && !fvLt (fdec fp32 r) exact

/-- Whether a TILLER tensor of a format, depth and shifts cannot be held in the banks. -/
def Tensor.tillFails (t : Tensor) (img : Bytes) : Bool :=
  !(t.fmt == 0 || t.fmt == 7) || decide (32768 < t.k) ||
  (t.fmt == 7 && (List.range t.n).any fun j =>
    let l := t.liveScales img j
    let least := minNat 254 l
    l.any (fun x => decide (least + 3 < x)) || regMode (t.reg img j) != 1 ||
    !replaceOk (regMult (t.reg img j)) least)

/-- The rows of each bank that a TILLER tensor takes in a group (R257, R258). -/
def Tensor.tillRows (t : Tensor) (groups : Nat) : Nat :=
  ceilDiv (ceilDiv t.n (max 1 groups)) 80 * weightRows (if t.fmt = 0 then 0 else 1) t.k + ceilDiv (8 * t.k) 1024

/-- Whether a generator's TILLER layers fit in the tilling area of its partition (R242, R257), beside the tensors of the partition's other
models and the bitmaps that are placed there: there must be such an area, and its banks must have the rows. -/
def State.tillFits (s : State) (m part : Nat) (img : Bytes) (till : List Tensor) : Bool :=
  let groups := popCount (s.actN (0x9100 + part) 1) 16 * s.tillGroups
  let others := (s.models.filter fun e => e.1 != m && e.2.part == part).flatMap fun e => s.tillTensors ((e.2.next).getD e.2.image)
  let bitmaps := ((s.tier.bmaps.filter fun b => (s.partPlots part).contains b.plot).map fun b => 2 * (b.base + b.count)).foldl max 0
  if !hasTiller img && till.isEmpty then true
  else groups != 0 && decide (bitmaps + sumNat ((till ++ others).map fun t => t.tillRows groups) ≤ 8 * 496)

/-- Whether an image's table reference fails: no such table, another digest as its rows were loaded, or a trainable table named by an
image that is no generator's (R188, R197). -/
def State.tableFails (s : State) (role : Nat) (r : Nat × Bytes) : Bool :=
  match mget s.embs r.1 with
  | none => true
  | some e => e.digest != r.2 || (embTrainable e.desc && role != 4)

/-- The node with the images of a commit's load records staged. -/
def State.stageLoads (s : State) (part : Nat) (loads : List (Nat × Bytes)) : State :=
  { s with models := loads.foldl (fun ms l =>
    let img := s.staging (u64 l.2 0) (u64 l.2 8)
    match mget ms l.1 with
    | some x => mput ms l.1 { x with next := some img }
    | none => mput ms l.1 ⟨[], some img, u64 l.2 16, false, part⟩) s.models }

/-- Why a MODEL.LOAD record of slot `m` is refused, as the other side of the refusal: the entry itself, the plan set's digest, a table's
descriptor, the activation lead or the role.  `part` is the partition on whose plots it will reside, `now` the COMMIT_STEP, and `loads`
the load records of the same commit. -/
def State.modelFails (s : State) (m : Nat) (v : Bytes) (part now : Nat) (loads : List (Nat × Bytes)) : Option Nat :=
  let self := dkey (0x5100 + m) 1
  let addr := u64 v 0
  let n := u64 v 8
  let early := if u64 v 16 < now + s.liveN 0xC020 5 then some (dkey 0xC020 5) else none
  if v.length ≠ 32 then some self
  else if n = 0 then early
  else if ¬ s.inStaging addr n ∨ n < 128 then some self
  else
    let img := s.staging addr n
    if modelHeadFails img then some self
    else
      let ts := imageTensors img
      let progs := (s.allPrograms.filter fun p => p.1 == sl img 32 32).map (·.2)
      let gemm := progs.flatMap fun p => namedBy p 1 ts
      let till := progs.flatMap fun p => namedBy p 0x45 ts
      let own := ts.any (fun t => t.dirFails img) || !noDup (ts.map (·.id)) || gemm.any (fun t => t.flags % 4 != 3) ||
        sl img 64 16 != featureLevel || ts.any fun t => t.valueFails img
      if own then some self
      else if progs.isEmpty then some (dkey 0xC020 2)
      else match (imageTables img).find? (s.tableFails (u8 img 6)) with
        | some r => some (dkey (0x5200 + r.1 % 256) 1)
        | none => match early with
          | some k => some k
          | none =>
            if u8 img 6 ≠ 4 then none
            else if s.liveN 0x5400 1 = 0 ∨ ¬ (s.stageLoads part loads).modelsFit (s.liveN 0x5400 1) true then some (dkey 0x5400 1)
            else if s.comN 0x5400 2 = 0 ∨ ¬ (s.stageLoads part loads).modelsFit (s.comN 0x5400 2) true then some (dkey 0x5400 2)
            else if till.any (fun t => t.tillFails img) then some self
            else if ¬ s.tillFits m part img till then some (dkey 0x6010 1)
            else none

/-! ### Embedding descriptors (R194, R196) -/

/-- The shards of a table that SHARD_MAP, as committed, gives this node (R196), and the window pages of one. -/
def State.ownShards (s : State) (t : Nat) (d : Bytes) : List Nat :=
  (List.range (embShards d)).filter fun sh => s.ownNode (u8 (s.com (0x5200 + t) 2) sh)
def embShardPages (d : Bytes) (sh : Nat) : Nat :=
  ceilDiv (min (2 ^ embShardLog d) (embRows d - sh * 2 ^ embShardLog d) * embStride d) 65536

/-- Why a descriptor is refused for table `t`, as the other side: the entry itself, the room of its placement, or a model that names
the table. -/
def State.embFails (s : State) (t : Nat) (d : Bytes) : Option Nat :=
  let self := dkey (0x5200 + t) 1
  let user := (s.models.find? fun m => (imageTables m.2.image).any fun r => r.1 == t).map fun m => dkey (0x5100 + m.1) 1
  if d.isEmpty then user
  else
    let fmt := embFmt d
    let part := ((List.range 8).find? fun p => s.actN (0x9100 + p) 1 != 0).getD 0
    let plots := s.partPlots part
    let fits :=
      if embSharded d then
        plots.all fun p => decide (sumNat ((s.ownShards t d).map fun sh => if plots.getD (sh % max 1 plots.length) 0 = p then embShardPages d sh else 0) ≤
          s.homePages - s.actN 0x6010 4 * 16 - (s.tier.alloc.filter fun a => s.pageHome a.1 == p && !(a.2.1 == 3 && a.2.2.1 == t)).length)
      else
        decide (embBytes d ≤ s.liveN 0x5300 8) && plots.all fun p => decide (s.pinnedUsed p + embBytes d ≤ s.pinnedBytes)
    let shape := d.length != 64 || sl d 0 4 != ascii "OEMB" || !([0, 2, 4, 9].contains fmt) || decide (2 < embOpt d) || decide (1 < u8 d 6) ||
      embRows d == 0 || embWidth d == 0 || decide (1024 < embWidth d) || decide (u8 d 14 < 10) || decide (24 < u8 d 14) ||
      (embTrainable d && (fmt == 0 || fmt == 2)) || (!embTrainable d && embOpt d != 0) ||
      !s.inStaging (u64 d 32) (embBytes d)
    if shape then some self
    else if ¬ fits then some (if embSharded d then dkey 0x6010 4 else dkey 0x5300 8)
    else if (mget s.embs t).isSome then user else none

end Sys2Proof.Machine
end

