-- ==== Sys2Proof/Machine/CommitCheck.lean ====
section
/-! DEFINITION. The checks of a commit, in their order (R18, R32, R48, R139, R155, R207, R229, R288, R303, R319, R320, R329, R331, R332, R338, R341
to R344, R348 to R350, R356, R360, R363, R364, R394, R395, R398). -/

namespace Sys2Proof.Machine

/-- A set as the Hand checks it: its source, its values by ascending key, the node before it and the node as its values would leave
it. -/
structure CommitCtx where
  src  : Src
  vals : List (Nat × Bytes)
  s    : State
  t    : State
  deriving DecidableEq, Repr

/-- A rejection: the status code of R161, REASON, the keys of ENTRY_A and ENTRY_B, the two owners, and the further events with
their details. -/
structure Reject where
  code   : Nat
  reason : Nat
  a      : Nat
  b      : Nat
  ownA   : Nat
  ownB   : Nat
  more   : List (Nat × Nat)
  deriving DecidableEq, Repr

def conflict (reason a b : Nat) (more : List (Nat × Nat)) : Reject := ⟨8, reason, a, b, 0, 0, more⟩
def ownerReject (a b ownA ownB : Nat) (more : List (Nat × Nat)) : Reject := ⟨8, 3, a, b, ownA, ownB, more⟩

def CommitCtx.val (c : CommitCtx) (idx sub : Nat) : Option Bytes := mget c.vals (dkey idx sub)
def CommitCtx.has (c : CommitCtx) (idx sub : Nat) : Bool := (c.val idx sub).isSome
def CommitCtx.touches (c : CommitCtx) (p : Nat → Nat → Bool) : Bool := c.vals.any fun e => p (e.1 / 256) (e.1 % 256)
def CommitCtx.now (c : CommitCtx) : Nat := c.s.step.number
def CommitCtx.lead (c : CommitCtx) : Nat := c.s.liveN 0xC020 5

/-- The first rejection that an index and subindex of the set give. -/
def CommitCtx.each (c : CommitCtx) (f : Nat → Nat → Bytes → Option Reject) : Option Reject :=
  c.vals.findSome? fun e => f (e.1 / 256) (e.1 % 256) e.2

/-- The first rejection of a list. -/
def firstReject (l : List (Option Reject)) : Option Reject := l.findSome? id

/-- An index of a run of indices. -/
def inRun (idx base n : Nat) : Bool := decide (base ≤ idx) && decide (idx < base + n)

/-! ### 1: ranges (R155, R332) -/

def Rng.holds (r : Rng) (v : Bytes) : Bool :=
  let n := leNat v
  match r with
  | .any => true
  | .nat lo hi also => (decide (lo ≤ n) && decide (n ≤ hi)) || also.contains n
  | .pow2 lo hi => isPow2 n && decide (lo ≤ n) && decide (n ≤ hi)
  | .mask m also => (n &&& m) == n || also.contains n
  | .oneOf l => l.contains n
  | .bytes hi also => v.all fun b => decide (b.toNat ≤ hi) || also.contains b.toNat
  | .qscale => n == 0 || (decide (0 < n) && decide (n < 0x7F800000))

/-- The first record of a RING.SETUP value that lies outside its range. -/
def ringRangeFail (v : Bytes) : Option Nat :=
  if v.isEmpty ∨ v.length % 32 ≠ 0 ∨ 256 < v.length / 32 then some 0
  else ((splitAll 32 v).zipIdx.find? fun r =>
    decide (2 < u8 r.1 2) || decide (u8 r.1 3 < 6) || decide (24 < u8 r.1 3) || decide (7 < u8 r.1 8)).map (·.2)

/-- The shape of the values that are records; their reserved bytes are ignored (R7). -/
def recordOk (idx sub : Nat) (v : Bytes) : Bool :=
  let k := dkey idx sub
  if k = dkey 0x2201 1 ∨ k = dkey 0x2201 2 then !v.isEmpty && v.length % 8 == 0
  else if k = dkey 0x5300 1 then v.length == 32 && decide (u8 v 3 < 64) && decide (u32 v 4 ≤ 1048576)
  else if k = dkey 0x9030 1 then v.length == 64 && (decide (u8 v 32 < 8) || u8 v 32 == 0xFF)
  else if k = dkey 0x9040 2 then v.length == 1632
  else if inRun idx 0x9100 8 ∧ sub = 4 then v.length == 32 && decide (u8 v 0 ≤ 2) && decide (u64 v 8 ≤ 0xFFFFFFFFFFFE)
  else true

def CommitCtx.rangeFail (c : CommitCtx) : Option Reject :=
  c.each fun idx sub v =>
    let k := dkey idx sub
    if k = dkey 0x4010 1 then (ringRangeFail v).map fun n => conflict 1 k k [(0x4001, n)]
    else
      let late := k == dkey 0xB040 6 && leNat v != 0 && decide (leNat v < c.now + c.lead)
      if ((dictRow idx sub).map fun r => r.rng.holds v).getD false && recordOk idx sub v && !late then none
      else some (conflict 1 k k (if k = dkey 0x9000 5 then [(0x1021, 0)] else []))

/-! ### 2: the rules of the owning chapters -/

/-- Shard ranges (R48). -/
def CommitCtx.shardFail (c : CommitCtx) : Option Reject :=
  let range := fun (i : Nat) => (c.t.comN (0x3100 + i) 2, c.t.comN (0x3100 + i) 3)
  c.each fun idx sub v =>
    if ¬ inRun idx 0x3100 256 then none
    else
      let i := idx - 0x3100
      let k := dkey idx sub
      let idKey := dkey idx 1
      let changed := decide (c.s.com idx sub ≠ v)
      let h := mget c.s.shards i
      if sub = 2 ∨ sub = 3 then
        let r := range i
        match (List.range 256).find? fun j => j != i && decide (0 < r.2) && decide (0 < (range j).2) && meets r.1 r.2 (range j).1 (range j).2 with
        | some j => some (conflict 2 k (dkey (0x3100 + j) 2) [(0x3033, 0)])
        | none =>
          if 0 < r.2 ∧ 0xFFFF < r.1 + r.2 then some (conflict 2 k idKey [(0x3033, 0)])
          else if changed && (h.map fun h => h.holds || (c.s.com idx 1 == c.t.com idx 1 && !h.deltas.isEmpty)).getD false then some (conflict 2 k idKey [(0x3033, 0)]) else none
      else if sub = 1 ∧ changed ∧ ((h.map Shard.holds).getD false) then some (conflict 2 k idKey [(0x3033, 0)])
      else none

/-- Whether requests are in flight on a ring (R155): requests that have not completed, by either ring, sub-searches, which no ring
carries, apart; reserved slots; audits and root records to come. -/
def State.ringBusy (s : State) (r : Nat) : Bool :=
  (s.ledger.fars.any fun f => f.2.owner != 0 && f.2.kind != 5 && f.2.phase != 0x0C && (f.2.cplRing == r || f.2.srcRing == r)) ||
  (s.ledger.stubs.any fun f => f.2.belief != 0 && bitsOf f.2.tag 11 10 != 2 && f.2.cplRing == r) ||
  ((mget s.rings r).map fun q => q.reserved != 0).getD false ||
  (s.ledger.losses.any fun l => bitsOf l.tag 11 10 != 2 && l.cplRing == r) ||
  (s.ledger.replays.any fun p => p.cplRing == r || p.copy.ring == r) || (s.ledger.audits.any fun a => a.ring == r) ||
  (!s.ledger.rootQ.isEmpty && s.actN 0x3030 2 == r)

/-- The memory that a ring pair counts. -/
def ringBytes (log2 : Nat) : Nat := 2 * 64 * 2 ^ log2 + 4096

/-- A setup record (R155): the ring's change, or the entry on the other side of its refusal. -/
def State.ringRecord (s : State) (r : Bytes) : Nat ⊕ State :=
  let n := u16 r 0
  let self := dkey 0x4010 1
  let active := dkey 0x4010 2
  if u8 r 2 = 0 then
    let log2 := u8 r 3
    let qp := u32 r 4 % 2 ^ 24
    let part := u8 r 8
    let used := sumNat (s.rings.map fun q => ringBytes q.2.log2)
    if (mget s.rings n).isSome then .inl active
    else if s.liveN 0x4020 7 < used + ringBytes log2 then .inl (dkey 0x4020 7)
    else if s.actN (0x9100 + part) 1 = 0 then .inl (dkey (0x9100 + part) 1)
    else if s.rings.any (fun q => q.2.qp == qp && q.2.part != part) then .inl self
    else
      let q : Ring := ⟨log2, qp, part, bit (u8 r 9) 0, u64 r 16, u32 r 24, 0, 0, 0, 0, 0, 0, 0, false⟩
      let s1 := { s with rings := mput s.rings n q, qps := mmod s.qps qp fun x => { x with part := part } }
      .inr (s1.setN 0x4010 2 s1.rings.length)
  else if (mget s.rings n).isNone ∨ s.ringBusy n then .inl active
  else if u8 r 2 = 1 then
    .inr (s.modRing n fun q => { q with reqTail := 0, cplHead := 0, reqHead := 0, cplTail := 0, sTail := 0, sHead := 0, halted := false })
  else .inr (s.destroyRing n)

/-- The records of a value in order: the state they leave, or the position of the first that fails with the entry it fails against. -/
def State.ringSetup (s : State) : Nat → List Bytes → (Nat × Nat) ⊕ State
  | _, [] => .inr s
  | i, r :: l => match s.ringRecord r with
    | .inl b => .inl (i, b)
    | .inr s1 => s1.ringSetup (i + 1) l

def CommitCtx.ringFail (c : CommitCtx) : Option Reject :=
  (c.val 0x4010 1).bind fun v => match c.s.ringSetup 0 (splitAll 32 v) with
    | .inl e => some (conflict 2 (dkey 0x4010 1) e.2 [(0x4001, e.1)])
    | .inr _ => none

/-- The codebooks held after the set (R139). -/
def CommitCtx.codebooks (c : CommitCtx) : List Codebook :=
  let l := match c.val 0x3300 1 with
    | some v => if c.s.cbLoadFails v ∨ c.s.codebooks.any (fun b => b.digest == digest (v.drop 16)) then c.s.codebooks else c.s.codebooks ++ [cbOfLoad v]
    | none => c.s.codebooks
  match c.val 0x3300 3 with
  | some d => l.filter fun b => b.digest != d
  | none => l

/-- SHUPD.CODEBOOK_DIGEST, CB.DROP, SHUPD.METRIC and the partners' domains (R139, R394). -/
def CommitCtx.updateFail (c : CommitCtx) : Option Reject :=
  let tags := c.t.com 0xB030 1
  let partners := (splitAll 24 (c.t.com 0xB030 2)).map fun e => (u64 e 0, sl e 8 16)
  let apart := fun (peer : Nat) =>
    peer == 0 || partners.any fun p => p.1 == peer && (List.range 4).all fun i => u32 tags (4 * i) == 0 || u32 p.2 (4 * i) != u32 tags (4 * i)
  let domains := c.touches fun idx _ => idx == 0xB030
  (c.each fun idx sub v =>
    let k := dkey idx sub
    if k = dkey 0x3300 3 then
      if ¬ (c.s.codebooks.any fun b => b.digest == v) ∨ c.s.cbNamed v then some (conflict 2 k (dkey 0x3300 2) [(0x3063, 0)]) else none
    else if ¬ inRun idx 0x3200 256 then none
    else
      let i := idx - 0x3200
      let h := mget c.s.shards i
      if sub = 1 ∧ ¬ allZero v then
        match c.codebooks.find? fun b => b.digest == v with
        | none => some (conflict 2 k (dkey 0x3300 2) [(0x3063, 0)])
        | some b =>
          let differs := fun (g : Nat × Seg) => segDim g.2.image != b.dim || segM g.2.image != b.m || segBits g.2.image != b.bits
          -- A delta segment is quantised with its own codebook, whose header it shares.
          let apart := fun (d : Nat × Delta) => c.s.codebooks.any fun o => o.digest == d.2.cb && (o.dim != b.dim || o.m != b.m || o.bits != b.bits)
          if (h.map fun h => h.segs.any differs || h.deltas.any apart).getD false then some (conflict 2 k (dkey (0x3100 + i) 1) [(0x3063, 0)]) else none
      else if sub = 6 ∧ c.s.com idx 6 ≠ v ∧ ((h.map fun h => !h.segs.isEmpty || !h.deltas.isEmpty).getD false) then some (conflict 2 k (dkey (0x3100 + i) 1) [])
      else if (sub = 2 ∨ sub = 4) ∧ ¬ apart (leNat v) then some (conflict 2 k (dkey 0xB030 1) [])
      else none) <|>
  (if domains then
    (List.range 256).findSome? fun i => ([2, 4].find? fun sub => !apart (c.t.comN (0x3200 + i) sub)).map fun sub =>
      conflict 2 (dkey (0x3200 + i) sub) (dkey 0xB030 1) []
   else none)

/-- The staged set's plans as the set leaves them: those staged here, or those armed. -/
def CommitCtx.cancels (c : CommitCtx) : Bool := ((c.val 0xC020 2).map allZero).getD false
def CommitCtx.stages (c : CommitCtx) : Bool := (c.has 0xC020 2 || c.has 0xC020 6) && !allZero (c.t.com 0xC020 2)
def CommitCtx.plans (c : CommitCtx) : Option (List Plan) :=
  if c.stages then (c.t.planImages (c.t.com 0xC020 6)).map fun l => l.map (·.2)
  else if c.cancels then none else c.s.step.staged.map (·.plans)

/-- The next role and pinned area (R207, R229). -/
def CommitCtx.roleFail (c : CommitCtx) : Option Reject :=
  let role := dkey 0x5400 2
  let pin := dkey 0x6010 3
  let r := c.t.comN 0x5400 2
  let pinned := c.t.comN 0x6010 3
  let slot := fun (m : Nat × ModelSlot) => u8 m.2.image 6 == 4 || u8 ((m.2.next).getD []) 6 == 4
  firstReject [
    if c.has 0x5400 2 ∧ (c.plans.isNone : Bool) then some (conflict 2 role (dkey 0xC020 2) []) else none,
    if c.has 0x5400 2 ∧ ¬ c.s.modelsFit r false then some (conflict 2 role (((c.s.models.head?).map fun m => dkey (0x5100 + m.1) 1).getD role) []) else none,
    if c.has 0x5400 2 ∧ r = 0 then (c.s.models.find? slot).map fun m => conflict 2 role (dkey (0x5100 + m.1) 1) [] else none,
    if (c.has 0x5400 2 || c.has 0x6010 3) ∧ framesFor r pinned < 0 then
      some (if c.has 0x5400 2 then conflict 2 role pin [] else conflict 2 pin role []) else none,
    if c.has 0x6010 3 ∧ (List.range 16).any (fun p => decide (pinned * 1048576 < c.s.pinnedUsed p)) then some (conflict 2 pin pin []) else none]

/-- Tiers, tilling bitmaps, search defaults (R248, and the entry rules of their chapters). -/
def CommitCtx.tierFail (c : CommitCtx) : Option Reject :=
  let outside := fun (v : Bytes) => (List.range 2048).any fun i => bitAt v i && decide (c.s.tillGroups ≤ i % 128)
  let used := (c.plans.getD []).any fun p => (c.t.planUses p).any fun u => u.2.2.1.1 == 5 && bitAt (c.t.com 0x6020 1) u.2.2.1.2
  let w := 65536 - 20480 * c.t.comN 0x6010 1
  firstReject [
    if (c.has 0x3010 1 || c.has 0x3010 5) ∧ c.t.comN 0x3010 5 < c.t.comN 0x3010 1 then
      some (if c.has 0x3010 5 then conflict 2 (dkey 0x3010 5) (dkey 0x3010 1) [] else conflict 2 (dkey 0x3010 1) (dkey 0x3010 5) []) else none,
    if (c.has 0x3010 10 || c.has 0x3010 11) ∧ c.t.comN 0x3010 10 = 0 ∧ c.t.comN 0x3010 11 ≠ 0 then
      some (if c.has 0x3010 11 then conflict 2 (dkey 0x3010 11) (dkey 0x3010 10) [] else conflict 2 (dkey 0x3010 10) (dkey 0x3010 11) []) else none,
    if (c.has 0x6010 4 || c.has 0x6010 1) ∧ w < c.t.comN 0x6010 4 then
      some (if c.has 0x6010 4 then conflict 2 (dkey 0x6010 4) (dkey 0x6010 1) [] else conflict 2 (dkey 0x6010 1) (dkey 0x6010 4) []) else none,
    if ((c.val 0x6020 1).map outside).getD false then some (conflict 2 (dkey 0x6020 1) (dkey 0x6010 1) []) else none,
    if ((c.val 0x6020 2).map outside).getD false then some (conflict 2 (dkey 0x6020 2) (dkey 0x6010 1) []) else none,
    if c.has 0x6020 1 ∧ ¬ c.stages ∧ used then some (conflict 2 (dkey 0x6020 1) (dkey 0xC020 2) []) else none]

/-- Whether a slot's segments or log records have units on a bitmap of channels (R288). -/
def State.servedFrom (s : State) (chans slot : Nat) : Bool :=
  let mine := fun (lpn : Nat) => (s.extentOf lpn).any (fun e => e.slot == slot) ||
    s.flash.logPages.any fun g => g.lpn == lpn && s.log.recs.any fun r => r.slot == slot && decide (g.first ≤ r.seq) && decide (r.seq ≤ g.last)
  s.flash.map.any fun e => bit chans (addrDie e.2 / 16) && mine e.1

/-- Namespaces and FLASH.FORMAT (R288).  DESIGN CHOICE (log 214): NS.LOG_UNITS at its default of 65,536 beside NS.UNITS 0, as both stand before
any commit, is no conflict. -/
def CommitCtx.flashFail (c : CommitCtx) : Option Reject :=
  let range := fun (p : Nat) => (c.t.comN (0x7040 + p) 1, c.t.comN (0x7040 + p) 2)
  (c.each fun idx sub v =>
    let k := dkey idx sub
    if k = dkey 0x7010 13 then
      match c.s.shards.find? fun h => h.2.id != 0xFFFFFFFF && c.s.servedFrom (leNat v) h.1 with
      | some h => some (conflict 2 k (dkey (0x3100 + h.1) 1) [])
      | none => none
    else if ¬ inRun idx 0x7040 8 then none
    else
      let p := idx - 0x7040
      let r := range p
      let old := (c.s.actN idx 1, c.s.actN idx 2)
      match (List.range 8).find? fun q => q != p && decide (0 < r.2) && decide (0 < (range q).2) && meets r.1 r.2 (range q).1 (range q).2 with
      | some q => some (conflict 2 k (dkey (0x7040 + q) sub) [])
      | none =>
        if 2 ^ 32 < r.1 + r.2 then some (conflict 2 k (dkey idx (if sub = 1 then 2 else 1)) [])
        else if r.2 < c.t.comN idx 3 ∧ ¬ (r.2 = 0 ∧ c.t.comN idx 3 = 65536) then some (conflict 2 k (dkey idx (if sub = 3 then 2 else 3)) [])
        else if c.s.flash.map.any fun e => decide (old.1 ≤ e.1) && decide (e.1 < old.1 + old.2) && !(decide (r.1 ≤ e.1) && decide (e.1 < r.1 + r.2)) then
          some (conflict 2 k (dkey idx (if sub = 1 then 2 else 1)) [])
        else none)

/-- Queues, gate lists, Ethernet ports and spread nodes (R303, R319, R320, and the entry rule of GEN.SPREAD_NODES).  DESIGN CHOICE (log 219): a
refused QUEUE.FLUSH names its queue in the result's second entry, the queue as index and the plot as subindex. -/
def CommitCtx.linkFail (c : CommitCtx) : Option Reject :=
  let sets := fun (at_ : Nat) => c.s.step.plan.toList.map (·.plans) ++
    (if c.t.comN 0xC020 3 ≤ at_ then c.plans.toList else [])
  let lacks := fun (l : List Plan) (n : Nat) => n != 0 && !(l.any fun p => p.gateEntries.any fun e => bitsOf e 243 240 == n)
  (c.each fun idx sub v =>
    let k := dkey idx sub
    if k = dkey 0x4030 1 then
      let q := leNat v % 65536
      if q < 2 ∨ (c.s.queueDef (leNat v / 65536 % 16) q).isNone then some (conflict 2 k (dkey q (leNat v / 65536 % 16)) []) else none
    else if inRun idx 0x8100 20 ∧ (sub = 2 ∨ sub = 3) then
      let other := dkey idx (5 - sub)
      let at_ := c.t.comN idx 3
      if at_ < c.now + c.lead then some (conflict 2 k other [])
      else if (sets at_).any fun l => lacks l (c.t.comN idx 2) then some (conflict 2 k (dkey 0xC020 2) []) else none
    else if inRun idx 0x8040 4 ∧ sub = 7 ∧ leNat v = idx - 0x8040 then some (conflict 2 k k [])
    else if inRun idx 0x8040 4 ∧ sub = 4 ∧ (popCount (leNat v) 8 = 1 ∨ 2 < popCount (leNat v) 8) then some (conflict 2 k k [])
    else none) <|>
  (if (c.has 0x5400 6 || c.has 0x5300 2) && ((bitList (c.t.comN 0x5400 6) 64).any fun n =>
      u8 (c.t.com 0x5300 2) n == 0xFF && n != ownIndex (c.t.com 0x5300 2)) then
    some (if c.has 0x5400 6 then conflict 2 (dkey 0x5400 6) (dkey 0x5300 2) [] else conflict 2 (dkey 0x5300 2) (dkey 0x5400 6) [])
   else none)

/-- Partitions and their switches (R348 to R350). -/
def CommitCtx.switchOf (c : CommitCtx) (p : Nat) : Option Bytes := c.val (0x9100 + p) 4
def CommitCtx.partFail (c : CommitCtx) : Option Reject :=
  let key := fun (p sub : Nat) => dkey (0x9100 + p) sub
  let parts := List.range 8
  let plots := fun (s : State) (p : Nat) => s.comN (0x9100 + p) 1
  let moved := fun (p q : Nat) => p != q && (List.range 16).any fun n =>
    bit (plots c.s p) n && !bit (plots c.t p) n && bit (plots c.t q) n && !bit (plots c.s q) n
  let both := fun (p q : Nat) => match c.switchOf p, c.switchOf q with
    | some a, some b => u64 a 8 == u64 b 8
    | _, _ => false
  let tagged := fun (p sub i : Nat) => parts.findSome? fun q =>
    if q ≠ p ∧ bitAt (c.t.com (0x9100 + q) sub) i then some (conflict 2 (key p sub) (key q sub) []) else none
  (c.each fun idx sub v =>
    if ¬ inRun idx 0x9100 8 then none
    else
      let p := idx - 0x9100
      if (sub = 1 ∨ sub = 2) ∧ c.s.com idx sub ≠ v ∧ (c.switchOf p).isNone then some (conflict 2 (key p sub) (key p 4) [])
      else if sub = 1 then (bitList (leNat v) 16).findSome? fun n => tagged p 1 n
      else if sub = 2 then ((List.range 256).filter (bitAt v)).findSome? fun n => tagged p 2 n
      else none) <|>
  (parts.findSome? fun p => (parts.find? fun q => moved p q && !both p q).map fun q => conflict 2 (key p 1) (key q 1) []) <|>
  (parts.findSome? fun p => (c.switchOf p).bind fun v =>
    let mine := plots c.t p
    let ext := (bitList mine 16).all fun n =>
      c.t.ownerOf 1 (n * 32 + 16 + 14) == ownScrub && c.t.ownerOf 1 (n * 32 + 16 + 15) == ownScrub && c.t.ownerOf 2 (n * 16 + 8 + 7) == ownScrub
    let across := fun (q : Nat) => q != p && (c.switchOf q).isNone && (c.s.actN (0x9100 + q) 1 &&& mine) != 0
    let after := parts.foldl (fun (t : State) q => if (c.switchOf q).isSome then t.setAct (0x9100 + q) 1 (leBytes 2 (plots c.t q)) else t) c.t
    let sets := c.s.step.plan.toList.map (·.plans) ++ c.plans.toList
    if u64 v 8 < c.now + c.lead + c.s.lifetime then some (conflict 2 (key p 4) (dkey 0xC020 5) [])
    else if u8 v 0 ≠ 0 ∧ ¬ ext then some (conflict 2 (key p 4) (dkey 0x2201 1) [])
    else match c.s.models.find? fun m => across m.2.part with
      | some m => some (conflict 2 (key p 4) (dkey (0x5100 + m.1) 1) [])
      | none => match c.s.embs.find? fun e => across e.2.part with
        | some e => some (conflict 2 (key p 4) (dkey (0x5200 + e.1) 1) [])
        | none => if sets.any fun l => l.any fun q => (after.poolFail q).isSome then some (conflict 2 (key p 4) (dkey 0xC020 2) []) else none)

/-- Admission of a loaded slot, firmware, reports and sessions (R358 to R360, R363, R364, R398). -/
def CommitCtx.secFail (c : CommitCtx) : Option Reject :=
  c.each fun idx sub v =>
    let k := dkey idx sub
    if k = dkey 0xB040 5 then
      if (List.range 256).any fun i => bitAt v i && ((mget c.s.shards i).map fun h => h.state != 2).getD true then
        some (conflict 2 k (dkey 0xB040 4) []) else none
    else if k = dkey 0x9020 1 then
      if c.s.fwOk v then none else some (conflict 2 k k [(0x9001, 0)])
    else if k = dkey 0x9020 5 then
      if (bitList (leNat v) 4).any fun i => decide (c.s.sec.svn.getD i 0 < u32 (c.s.live 0x9020 4) (4 * i)) then
        some (conflict 2 k (dkey 0x9020 4) []) else none
    else if k = dkey 0x9030 1 then
      let part := u8 v 32
      let bound : Bool := match c.src with
        | .mac _ => true
        | .qp q => part == 0xFF || c.s.qpPart q == part
      if ¬ bound then some (conflict 2 k (dkey (0x9100 + part) 1) [])
      else if c.s.leavesSpent then some (conflict 2 k k [(0x9022, 0)]) else none
    else if k = dkey 0x9040 2 then
      let r := c.s.result c.src
      if r.report.isEmpty ∨ r.gen ≠ c.s.sec.kemGen ∨ (mget c.s.qps (u32 v 0)).isNone then some (conflict 2 k (dkey 0x9030 1) []) else none
    else none

def CommitCtx.crossFail (c : CommitCtx) : Option Reject :=
  c.shardFail <|> c.ringFail <|> c.updateFail <|> c.roleFail <|> c.tierFail <|> c.flashFail <|> c.linkFail <|> c.partFail <|> c.secFail

/-! ### 3: ownership (R292, R342 to R344, R395) -/

/-- The owners that RES.CLAIM may name for a type (R343). -/
def claimOwners (typ : Nat) : List Nat :=
  if typ = 1 ∨ typ = 2 then [ownPlan, ownTrace, ownScrub]
  else if typ = 6 then [ownNone, ownEventOut, ownStepOut, ownTrigger]
  else if typ = 7 then [ownNone, ownTrace, ownNotice] else []

def claimRecs (v : Bytes) : List ResClaim := (splitAll 8 v).map fun r => ⟨u8 r 0, u32 r 4, u8 r 1⟩

/-- The entry that sets a resource's owner. -/
def ownerEntry (s : State) (typ idx : Nat) : Nat :=
  if typ = 3 then dkey (0x8020 + idx) 5
  else if typ = 4 then dkey (0x8040 + idx) 5
  else if typ = 5 then (if bitAt (s.com 0x6020 2) idx then dkey 0x6020 2 else dkey 0x6020 1)
  else dkey 0x2201 1

def CommitCtx.claims (c : CommitCtx) : List ResClaim := ((c.val 0x2201 1).map claimRecs).getD []
def CommitCtx.released (c : CommitCtx) : List ResClaim := ((c.val 0x2201 2).map claimRecs).getD []

def CommitCtx.claimFail (c : CommitCtx) : Option Reject :=
  let k := dkey 0x2201 1
  let bad := fun (r : ResClaim) => decide (resCount r.typ ≤ r.idx) || !((claimOwners r.typ).contains r.owner)
  let twice := (c.claims.zipIdx).find? fun r => c.claims.zipIdx.any fun q => decide (q.2 < r.2) && q.1.typ == r.1.typ && q.1.idx == r.1.idx
  let taken := c.claims.find? fun r => c.s.ownerOf r.typ r.idx != defaultOwner r.typ &&
    !(c.released.any fun q => q.typ == r.typ && q.idx == r.idx)
  let at_ := fun (r : ResClaim) => ownerReject k k r.owner (c.s.ownerOf r.typ r.idx) []
  ((c.claims.find? bad).map at_) <|>
  ((c.released.find? fun r => decide (resCount r.typ ≤ r.idx) || (claimOwners r.typ).isEmpty).map fun r =>
    ownerReject (dkey 0x2201 2) (dkey 0x2201 2) r.owner (c.s.ownerOf r.typ r.idx) []) <|>
  (twice.map fun r => at_ r.1) <|> (taken.map at_)

/-- The ports and groups that entries use. -/
def CommitCtx.portFail (c : CommitCtx) : Option Reject :=
  let hedge := fun (k p : Nat) => if p < 16 ∧ c.t.ownerOf 3 p ≠ ownFabric then some (ownerReject k (dkey (0x8020 + p) 5) ownFabric (c.t.ownerOf 3 p) []) else none
  let asked := c.touches fun idx sub => (inRun idx 0x3200 256 && (sub == 3 || sub == 5)) || (idx == 0x5300 && sub == 2) ||
    (inRun idx 0x8020 16 && sub == 5) || (inRun idx 0x8040 4 && (sub == 5 || sub == 7))
  let groups := (c.has 0x6020 1 || c.has 0x6020 2) && (List.range 2048).any fun i => bitAt (c.t.com 0x6020 1) i && bitAt (c.t.com 0x6020 2) i
  (if asked then
    ((List.range 256).findSome? fun i => hedge (dkey (0x3200 + i) 3) (c.t.comN (0x3200 + i) 3) <|> hedge (dkey (0x3200 + i) 5) (c.t.comN (0x3200 + i) 5)) <|>
    ((List.range 64).findSome? fun n => hedge (dkey 0x5300 2) (u8 (c.t.com 0x5300 2) n)) <|>
    ((List.range 4).findSome? fun e =>
      let f := c.t.comN (0x8040 + e) 7
      if f < 4 ∧ c.t.ownerOf 4 f ≠ ownHost then some (ownerReject (dkey (0x8040 + e) 7) (dkey (0x8040 + f) 5) ownHost (c.t.ownerOf 4 f) []) else none)
   else none) <|>
  (if groups then some (ownerReject (if c.has 0x6020 1 then dkey 0x6020 1 else dkey 0x6020 2) (if c.has 0x6020 1 then dkey 0x6020 2 else dkey 0x6020 1) ownTilling ownOff [])
   else none) <|>
  (c.val 0xB040 1).bind fun v =>
    (((bitList (leNat v) 16).map fun p => (3, p)) ++ ((bitList (leNat v / 65536) 4).map fun e => (4, e))).findSome? fun (r : Nat × Nat) =>
      if c.t.ownerOf r.1 r.2 = ownLoopback then none
      else some (ownerReject (dkey 0xB040 1) (ownerEntry c.t r.1 r.2) ownLoopback (c.t.ownerOf r.1 r.2) [])

/-- DETAIL of EV 0xC001 (R32). -/
def planDetail (f : PlanFail) : Nat := f.reason + f.sec * 2 ^ 16 + f.idx * 2 ^ 32

/-- The resources of the plan set that the set stages, and of the sets that stand where the set changes owners. -/
def CommitCtx.planOwnerFail (c : CommitCtx) : Option Reject :=
  let changes := c.has 0x2201 1 || c.touches fun idx sub => (inRun idx 0x8020 16 && sub == 5) || (inRun idx 0x8040 4 && sub == 5) ||
    (idx == 0x6020 && (sub == 1 || sub == 2))
  (c.t.planUseFail (if c.stages || changes then c.plans.getD [] else [])).map fun f =>
    let res := f.1.res.getD (0, 0)
    ownerReject (dkey 0xC020 2) (ownerEntry c.t res.1 res.2) f.2 (c.t.ownerOf res.1 res.2) (if c.stages then [(0xC001, planDetail f.1)] else [])

def CommitCtx.ownershipFail (c : CommitCtx) : Option Reject := c.claimFail <|> c.portFail <|> c.planOwnerFail

/-! ### 4 and 5: features and supervision (R18, R329, R338, R341, R356, R380) -/

def CommitCtx.featureFail (c : CommitCtx) : Option Reject :=
  (c.val 0x2000 2).bind fun v =>
    let a := leNat v
    let offered := c.s.liveN 0x2000 1
    let required := c.s.liveN 0x2000 4
    if (a &&& offered) ≠ a then some (conflict 4 (dkey 0x2000 2) (dkey 0x2000 1) [])
    else if (a &&& required) ≠ required then some (conflict 4 (dkey 0x2000 2) (dkey 0x2000 4) []) else none

/-- The Bar that a resource of RES.CLAIM lies under: of a mover's region or channel and of a tilling group by its plot, of a port by
its Gate die (R16, R343). -/
def resBar (typ idx : Nat) : Option Nat :=
  if typ = 1 then some (idx / 32 % 4) else if typ = 2 then some (idx / 16 % 4) else if typ = 3 then some (idx / 4)
  else if typ = 4 then some idx else if typ = 5 then some (idx / 128 % 4) else none

/-- The Bars whose plots or Gate units an entry changes (R16, R18): `old` is what the entry holds. -/
def entryBars (idx sub : Nat) (v old : Bytes) : List Nat :=
  let diff := fun (n : Nat) => (List.range n).filter fun i => bitAt v i != bitAt old i
  if inRun idx 0x8020 16 then [(idx - 0x8020) / 4]
  else if inRun idx 0x8040 4 then [idx - 0x8040]
  else if inRun idx 0x8100 16 then [(idx - 0x8100) / 4]
  else if inRun idx 0x8110 4 then [idx - 0x8110]
  else if idx = 0x7010 ∧ sub = 13 then (bitList (leNat v) 32).map (· / 8)
  else if idx = 0xB040 ∧ sub = 1 then (bitList (leNat v) 16).map (· / 4) ++ (bitList (leNat v / 65536) 4)
  else if inRun idx 0x9100 8 ∧ sub = 1 then (diff 16).map (· % 4)
  else if idx = 0x6020 ∧ (sub = 1 ∨ sub = 2) then (diff 2048).filterMap (resBar 5)
  else if idx = 0x4030 ∧ sub = 1 then [leNat v / 65536 % 4]
  else if idx = 0x2201 ∧ (sub = 1 ∨ sub = 2) then (splitAll 8 v).filterMap fun r => resBar (u8 r 0) (u32 r 4)
  else []

def CommitCtx.supervisionFail (c : CommitCtx) : Option Reject :=
  let mirror := match c.src with | .qp _ => true | .mac _ => false
  let deny := fun (a b : Nat) (more : List (Nat × Nat)) => some (⟨7, 5, a, b, 0, 0, more⟩ : Reject)
  c.each fun idx sub v =>
    let k := dkey idx sub
    if mirror && (idx == 0x1031 || idx == 0x2100 || k == dkey 0x9000 5) then deny k k (if idx = 0x9000 then [(0x1021, 0)] else [])
    else if mirror && idx == 0x2110 && c.s.comN 0x2100 1 == 1 then deny k (dkey 0x2100 1) []
    else if (entryBars idx sub v (c.s.com idx sub)).any fun b => !bit c.s.node.bars b then deny k k []
    else if c.s.pwr.boot == .halt && (k == dkey 0xC020 2 || k == dkey 0xC020 3 || k == dkey 0xC020 6 || inRun idx 0x3100 512 || inRun idx 0x5100 256) then
      deny k k [(0xA042, 0)]
    else none

/-! ### 6: the plan set (R32) -/

def CommitCtx.planFail_ (_c : CommitCtx) (a b : Nat) (f : PlanFail) : Reject := conflict 6 a b [(0xC001, planDetail f)]

def CommitCtx.setFail (c : CommitCtx) : Option Reject :=
  let dg := dkey 0xC020 2
  let at_ := dkey 0xC020 3
  let named := c.has 0xC020 2 || c.has 0xC020 3 || c.has 0xC020 6
  let soonest := c.now + c.lead + c.s.lifetime
  let len := c.t.comN 0xC010 1
  let active := ((c.s.step.plan.bind fun p => p.plans.head?).map (·.stepNs)).getD (c.s.actN 0xC010 1)
  let stands := ((c.plans.bind (·.head?)).map (·.stepNs)).getD active
  let other := (c.has 0xC010 1 || c.cancels) && stands != len
  if named ∧ c.s.step.draining then
    let k := if c.has 0xC020 2 then dg else if c.has 0xC020 3 then at_ else dkey 0xC020 6
    some (c.planFail_ k dg (planFail 5 0 noIdx))
  else if c.stages then
    (c.t.planSetFail (c.t.com 0xC020 6) (c.t.com 0xC020 2) (c.t.comN 0xC020 3) soonest len).map fun f =>
      if f.reason = 5 then c.planFail_ at_ (dkey 0xC020 5) f
      else if f.reason = 8 then c.planFail_ dg (dkey 0xC010 1) f
      else c.planFail_ dg dg f
  else if c.has 0xC020 3 ∧ ¬ c.cancels ∧ c.s.step.armed ∧ c.t.comN 0xC020 3 < soonest then some (c.planFail_ at_ (dkey 0xC020 5) (planFail 5 0 noIdx))
  else if other then
    some (if c.has 0xC010 1 then c.planFail_ (dkey 0xC010 1) dg (planFail 8 0 noIdx) else c.planFail_ dg (dkey 0xC010 1) (planFail 8 0 noIdx))
  else none

/-! ### 7: images (R139, R188, R194) -/

/-- The partition on whose plots a source's model will reside. -/
def CommitCtx.part (c : CommitCtx) : Nat := match c.src with
  | .mac _ => 0
  | .qp q => c.s.qpPart q

/-- The node with the programs of the set that the commit stages. -/
def CommitCtx.withPlans (c : CommitCtx) : State :=
  { c.t with step := { c.t.step with staged := c.plans.map fun l => ⟨l, []⟩ } }

/-- The MODEL.LOAD records of a commit, by slot. -/
def CommitCtx.loads (c : CommitCtx) : List (Nat × Bytes) :=
  c.vals.filterMap fun e => if inRun (e.1 / 256) 0x5100 256 && e.1 % 256 == 1 then some (e.1 / 256 - 0x5100, e.2) else none

def CommitCtx.imageFail (c : CommitCtx) : Option Reject :=
  c.each fun idx sub v =>
    let k := dkey idx sub
    if k = dkey 0x3300 1 then
      if c.s.cbLoadFails v then some (conflict 7 k (if 64 ≤ c.s.codebooks.length then dkey 0x3300 2 else k) [(0x3063, 0)]) else none
    else if inRun idx 0x5100 256 ∧ sub = 1 then
      (c.withPlans.modelFails (idx - 0x5100) v c.part c.now c.loads).map fun b => conflict 7 k b [(0x5001, 0)]
    else if inRun idx 0x5200 256 ∧ sub = 1 then
      if c.s.com idx 1 = v then none else (c.t.embFails (idx - 0x5200) v).map fun b => conflict 7 k b []
    else if k = dkey 0x5300 1 then (c.s.gradFail v (gradEntries (c.s.gradWidth v) (u32 v 4) (c.s.gradBytes v))).map fun f => conflict 7 k k [(0x5021, f)]
    else none

/-- The first failure in the order of R332. -/
def CommitCtx.fail (c : CommitCtx) : Option Reject :=
  c.rangeFail <|> c.crossFail <|> c.ownershipFail <|> c.featureFail <|> c.supervisionFail <|> c.setFail <|> c.imageFail

end Sys2Proof.Machine
end

