-- ==== Sys2Proof/Machine/Commit.lean ====
section
/-! DEFINITION. A commit: what an applied set does, and the result that its source reads (R32, R139, R155, R186, R188, R199, R301, R331 to
R335, R343, R350, R356, R358, R360, R363 to R366, R379, R395). -/

namespace Sys2Proof.Machine

/-! ### What entries do -/

/-- CB.LOAD, and CB.DROP (R139). -/
def State.setCodebooks (s : State) (l : List Codebook) : State := ({ s with codebooks := l }).setN 0x3300 2 l.length

/-- MODEL.LOAD: the image is copied and waits for ACTIVATE_AT (R188). -/
def State.loadModel (s : State) (m : Nat) (v : Bytes) (part : Nat) : State :=
  let img := s.staging (u64 v 0) (u64 v 8)
  let slot := match mget s.models m with
    | some x => { x with next := some img, at_ := u64 v 16, part := if x.image.isEmpty then part else x.part }
    | none => ⟨[], some img, u64 v 16, false, part⟩
  if (mget s.models m).isNone ∧ img.isEmpty then s
  else ({ s with models := mput s.models m slot }).setN (0x5100 + m) 5 1

/-- EMBG.GRAD_POST: the batch's entries are read and it is checked (R199). -/
def State.postGrad (s : State) (v : Bytes) : State :=
  (s.takeBatch v (s.gradBytes v) locField).1

/-- SESS.OPEN: the shared secret, KM and the confirmation (R363, R365). -/
def State.openSession (s : State) (src : Src) (v : Bytes) : State :=
  let qp := u32 v 0
  let nonce := (s.result src).nonce
  let host := sl v 32 32
  let k := (List.range 32).map (Config.kemDecaps s.sec.kemGen (v.drop 64))
  let km := kmac256 k (nonce ++ host ++ leBytes 4 qp ++ leBytes 1 (s.qpPart qp)) 104 "OC4-SESSION"
  let confirm := kmac256 (sl km 64 32) (nonce ++ host) 32 "OC4-CONFIRM"
  let open_ := fun (q : QPair) => { q with session := some km, sendSeq := 0, recvSeq := 0 }
  let s1 := ({ s with qps := mmod s.qps qp open_ }).modResult src fun r => { r with confirm := confirm }
  (s1.setN 0x9040 5 (s1.qps.filter fun e => e.2.session.isSome).length).raise 0x9030 locField 0

/-- PART.SWITCH: the switch waits for its step (R350). -/
def State.schedule (s : State) (p : Nat) (v : Bytes) : State :=
  let w : Switch := ⟨u8 v 0, u64 v 8, u64 v 16, s.comN (0x9100 + p) 1, s.com (0x9100 + p) 2⟩
  s.modPart p fun x => { x with next := some w }

/-- FW.COMMIT_SVN: the fuse counts of the components rise to the running firmware's (R358). -/
def State.raiseSvn (s : State) (v : Nat) : State :=
  s.setLive 0x9020 4 ((bitList v 4).foldl (fun b i => overlay b (4 * i) (leBytes 4 (s.sec.svn.getD i 0))) (s.live 0x9020 4))

/-- What a value of the set does when it is applied, beyond being committed. -/
def State.applyEntry (s : State) (src : Src) (part k : Nat) (v : Bytes) : State :=
  let idx := k / 256
  let sub := k % 256
  if k = dkey 0x4010 1 then (match s.ringSetup 0 (splitAll 32 v) with
    | .inr s1 => s1
    | .inl _ => s)
  else if k = dkey 0x3300 1 then
    (if s.codebooks.any fun b => b.digest == digest (v.drop 16) then s else s.setCodebooks (s.codebooks ++ [cbOfLoad v]))
  else if k = dkey 0x3300 3 then s.setCodebooks (s.codebooks.filter fun b => b.digest != v)
  else if inRun idx 0x5100 256 ∧ sub = 1 then s.loadModel (idx - 0x5100) v part
  else if inRun idx 0x5200 256 ∧ sub = 1 ∧ ¬ v.isEmpty ∧ s.act idx 1 ≠ v then s.setN idx 4 1
  else if k = dkey 0x5300 1 then s.postGrad v
  else if k = dkey 0x4030 1 then s.askFlush (leNat v / 65536 % 16) (leNat v % 65536)
  else if inRun idx 0x9100 8 ∧ sub = 4 then s.schedule (idx - 0x9100) v
  else if k = dkey 0x9020 1 then s.stageImage v
  else if k = dkey 0x9020 5 then s.raiseSvn (leNat v)
  else if k = dkey 0x9030 1 then
    ({ s with sec := { s.sec with atts := s.sec.atts ++ [(⟨src, sl v 0 32, u8 v 32, s.step.number, []⟩ : AttReq)] } }).modResult src
      fun r => { r with att := 1 }
  else if k = dkey 0x9040 2 then s.openSession src v
  else if k = dkey 0x9040 4 then s.closeSessions fun q _ => q == leNat v
  else if k = dkey 0x9000 5 then { s with sec := { s.sec with mgmt := if allZero v then none else some v } }
  else if k = dkey 0x7010 13 then { s with flash := { s.flash with format := leNat v } }
  else if k = dkey 0xB040 1 then
    ({ s with pwr := { s.pwr with test := some (leNat v, s.step.number + 1250) } }).setN 0xB040 2 3
  else if inRun idx 0x3200 256 ∧ 2 ≤ sub ∧ sub ≤ 5 then
    -- A detached partner whose own entries are committed again loads anew (R144, R396).
    let peer := s.actN idx (2 * (sub / 2))
    let s1 := s.modShard (idx - 0x3200) fun h => { h with partners := h.partners.filter fun p => !(p.detached && p.peer == peer) }
    { s1 with dict := { s1.dict with active := mdel s1.dict.active k } }
  else s

/-- The plan set of a commit: staged, replaced, or cancelled (R32).  DESIGN CHOICE (log 194): an all-zero PLAN.STAGED_SET_DIGEST sets
PLAN.STATE to 0 also where no set is armed. -/
def State.stagePlans (s : State) (c : CommitCtx) : State :=
  if c.cancels then ({ s with step := { s.step with staged := none, armed := false } }).setN 0xC020 4 0
  else if c.stages then
    ({ s with step := { s.step with staged := c.plans.map fun l => ⟨l, s.com 0xC020 2⟩, armed := true } }).setN 0xC020 4 1
  else s

/-! ### The result (R333 to R335, R379) -/

/-- An entry as the result names it. -/
def entryBytes (k : Nat) : Bytes := leBytes 2 (k / 256) ++ leBytes 1 (k % 256) ++ [0]

/-- The commit result (R334). -/
def resultBytes (s : State) (n : Nat) (r : Option Reject) : Bytes :=
  let r := r.getD ⟨0, 0, 0, 0, 0, 0, []⟩
  leBytes 2 r.code ++ leBytes 2 r.reason ++ leBytes 4 n ++ leBytes 8 s.step.number ++ entryBytes r.a ++ entryBytes r.b ++
  leBytes 1 r.ownA ++ leBytes 1 r.ownB ++ zeros 6 ++ s.live 0x1030 5

/-- DETAIL of EV 0x2001 (R386). -/
def rejectDetail (r : Reject) : Nat := leNat (leBytes 2 (r.a / 256) ++ leBytes 1 (r.a % 256) ++ leBytes 1 r.reason ++
  leBytes 2 (r.b / 256) ++ leBytes 1 (r.b % 256) ++ leBytes 1 r.ownB)

/-- The values of a set that stay: those of RW entries. -/
def rwOnly (vals : List (Nat × Bytes)) : List (Nat × Bytes) :=
  vals.filter fun e => ((dictRow (e.1 / 256) (e.1 % 256)).map fun r => r.acc == .rw).getD false

/-- A value with its reserved bits cleared: the node ignores them and returns 0 in them (R7): bits [15:0] of a shaper register (R316), bits
[127:96] of FEAT.ACCEPTED (R336), the last four bytes of EVT.NOTICE_DEST (R390), and the reserved fields of a table's descriptor (R194). -/
def clearReserved (k : Nat) (v : Bytes) : Bytes :=
  let idx := k / 256
  let sub := k % 256
  if inRun idx 0x8100 20 ∧ 4 ≤ sub ∧ sub ≤ 11 then overlay v 0 (zeros 2)
  else if k = dkey 0x2000 2 then overlay v 12 (zeros 4)
  else if k = dkey 0xB010 3 then overlay v 28 (zeros 4)
  else if inRun idx 0x5200 256 ∧ sub = 1 then overlay (overlay (overlay v 7 (leBytes 1 (u8 v 7 % 2))) 15 (zeros 1)) 40 (zeros 24)
  else v

/-- The node as the values of a set leave it, before anything acts on them. -/
def State.withValues (s : State) (vals : List (Nat × Bytes)) : State :=
  let put := fun (m : List (Nat × Bytes)) => (rwOnly vals).foldl (fun m e => mput m e.1 e.2) m
  let released := ((mget vals (dkey 0x2201 2)).map claimRecs).getD []
  let claimed := ((mget vals (dkey 0x2201 1)).map claimRecs).getD []
  let kept := s.dict.claims.filter fun x => !((released ++ claimed).any fun r => r.typ == x.typ && r.idx == x.idx)
  { s with dict := { s.dict with committed := put s.dict.committed, store := put s.dict.store,
                                 claims := kept ++ claimed.filter fun r => r.owner != defaultOwner r.typ } }

/-- Apply a set: its values, what they do, and CONFIG_DIGEST. -/
def State.applySet (s : State) (c : CommitCtx) : State :=
  let s1 := ((s.withValues c.vals).raise 0x2002 locField 0).bump 0x1030 6 1
  let s2 := c.vals.foldl (fun (s : State) e => s.applyEntry c.src c.part e.1 e.2) s1
  let s3 := s2.stagePlans c
  s3.setLive 0x1030 5 s3.configDigest

/-- Reject a set: EV 0x2001, then the codes that other rules name, with the commit's entries as their DETAIL (R386) but where
the rule gives the code a DETAIL of its own (EV 0x4001 of R154 and EV 0xC001 of R32). -/
def State.rejectSet (s : State) (r : Reject) : State :=
  r.more.foldl (fun (s : State) e =>
      s.raise e.1 locField (if e.1 = 0x4001 ∨ e.1 = 0xC001 then e.2 else rejectDetail r)) (s.raise 0x2001 locField (rejectDetail r))

/-- The Hand finishes a commit: it checks the set, applies or rejects it, keeps the result for its source and answers a COMMIT
frame. -/
def State.finishCommit (s : State) (q : CommitReq) : State :=
  let vals := (((s.stagedSet q.src).map (·.vals)).getD []).map fun e => (e.1, clearReserved e.1 e.2)
  let s0 := { s with dict := { s.dict with commits := s.dict.commits.filter fun x => x != q } }
  let c : CommitCtx := ⟨q.src, vals, s0, s0.withValues vals⟩
  let fail := c.fail
  let s1 := match fail with
    | none => s0.applySet c
    | some r => s0.rejectSet r
  let res := resultBytes s1 vals.length fail
  let s2 := (s1.dropSet q.src).modResult q.src fun r => { r with commit := res }
  let code := match fail with
    | none => 0
    | some r => if r.code = 7 then 6 else 5
  match q.src, q.txn with
  | .mac m, some txn => { s2 with dict := { s2.dict with resp := s2.dict.resp ++ [(⟨m, 7, true, code, txn, 0, 0, 64, res⟩ : FdpResp)] } }
  | _, _ => s2

/-- COMMIT_APPLY (R331): the Hand takes commits one at a time, in the order of their arrival. -/
def State.commitNext (s : State) : State :=
  match s.dict.commits with
  | [] => s
  | q :: _ => if s.handServes then s.finishCommit q else s
def execCommitApply (s : State) : Host.Outcome State Fault Refusal := .next s.commitNext

/-- The bytes of images that the Hand hashes for a set beyond those it stages: plans and models in host staging (R331). -/
def State.hashedBytes (s : State) (q : CommitReq) : Nat :=
  sumNat ((((s.stagedSet q.src).map (·.vals)).getD []).map fun e =>
    if e.1 = dkey 0xC020 6 then sumNat ((imageAddrs e.2).map fun a => s.planLength a.2)
    else if inRun (e.1 / 256) 0x5100 256 ∧ e.1 % 256 = 1 then u64 e.2 8 else 0)

/-- Commits whose last step this is are finished in it (R331). -/
def State.commitsDueFrom (s : State) : Nat → State
  | 0 => s
  | n + 1 => match s.dict.commits with
    | [] => s
    | q :: _ => if s.handServes ∧ q.due + s.hashedBytes q / 4194304 ≤ s.step.number then (s.finishCommit q).commitsDueFrom n else s
def State.commitsDue (s : State) : State := s.commitsDueFrom s.dict.commits.length

end Sys2Proof.Machine
end

