-- ==== Sys2Proof/Machine/Steps.lean ====
section
/-! DEFINITION. The step: its boundary phase with the agenda of what falls due, its planned actions, its close phase (R12, R23 to R36,
R168, R175, R296, R383, R384). -/

namespace Sys2Proof.Machine

/-! ### Plan sets (R32, R384) -/

/-- Whether the drain of an armed set begins at this boundary, and whether the set becomes active. -/
def State.planDrains (s : State) : Bool :=
  s.step.armed && s.step.staged.isSome && !s.step.draining && decide (s.comN 0xC020 3 ≤ s.step.number + s.lifetime)
def State.planActivates (s : State) : Bool := s.step.armed && s.step.staged.isSome && decide (s.comN 0xC020 3 ≤ s.step.number)

/-- PLAN_DRAIN_START: no further requests are admitted. -/
def State.doPlanDrain (s : State) : State :=
  if s.planDrains then ({ s with step := { s.step with draining := true } }.setN 0xC020 4 2).raise 0xC008 locField 0 else s

/-- The committed values that a plan set's activation puts in force (R229, R248, R333). -/
def State.takeMoment (s : State) : State :=
  ([(0xC010, 1), (0x6010, 3), (0x6020, 1), (0x6020, 2)] : List (Nat × Nat)).foldl (fun s e => s.setAct e.1 e.2 (s.com e.1 e.2)) s

/-- The SRAM areas of the role and the pinned area in force; a change of either drops every frame (R229, R236). -/
def State.divideSram (s old : State) : State :=
  let s1 := s.setN 0x6010 5 (framesFor (s.liveN 0x5400 1) (s.actN 0x6010 3)).toNat
  if s.liveN 0x5400 3 = old.liveN 0x5400 3 ∧ s.actN 0x6010 3 = old.actN 0x6010 3 then s1 else s1.dropFrames

/-- Full service (R384). -/
def State.leaveSeedling (s : State) (ps : PlanSet) : State :=
  let t := (ps.plans.head?.map (·.tier)).getD 0
  let has := fun (x : Nat) => ps.plans.any fun p => p.tier == x
  if s.step.seedling then
    ((({ s with step := { s.step with seedling := false, admTier := t, planTier := t, tierAt := s.step.number } }).clockTo t).setN 0xA050 2 2).raise
      0xA044 locField 0
  else if has s.step.admTier && has s.step.planTier then s
  else { s with step := { s.step with admTier := if has s.step.admTier then s.step.admTier else t, tierAt := s.step.number,
                                      planTier := if has s.step.planTier then s.step.planTier else t,
                                      stretch := s.step.stretch || s.step.tier != t } }

/-- A set without audit scan slices ends the audits (R130). -/
def State.auditsEnd (s : State) : State := if s.hasAudit then s else s.ledger.audits.foldl State.failAudit s

/-- PLAN_SET_ACTIVATE: the staged set becomes the active one, with what changes at its activation. -/
def State.doPlanActivate (s : State) : State :=
  match s.step.staged with
  | none => s
  | some ps =>
    if ¬ s.planActivates then s else
    let step := { s.step with plan := some ps, activated := s.step.number, staged := none, armed := false, draining := false,
                              retries := [] }
    let s1 := (({ s with step := step }).takeMoment).roleActivate
    let s2 := (s1.divideSram s).hostGroupsAt
    let s3 := (List.range 20).foldl (fun s p => s.setN (0x8100 + p) 1 0) s2
    ((((s3.setLive 0xC020 1 ps.digest).setN 0xC020 4 3).raise 0xC002 locField 0).leaveSeedling ps).auditsEnd

/-! ### Models, and segments out of service -/

/-- Whether a slot's drain or change falls due (R188). -/
def State.modelDrains (s : State) (k : Nat) : Bool := match mget s.models k with
  | some m => m.next.isSome && !m.blocked && decide (m.at_ ≤ s.step.number + s.lifetime) && !s.modelsFit (s.liveN 0x5400 1) true
  | none => false
def State.modelActivates (s : State) (k : Nat) : Bool := match mget s.models k with
  | some m => m.next.isSome && decide (m.at_ ≤ s.step.number)
  | none => false

/-- Whether a request's Stamp names an epoch with a segment that is out of service. -/
def State.onOutSeg (s : State) (w : Work) : Bool :=
  w.shards.any fun x => x.src.isLocal && (match (mget s.shards x.slot).filter (fun h => h.id == x.id) with
    | none => false
    | some h => ((h.epoch? x.epoch).map fun e => e.sealed.any fun n =>
        ((mget h.segs n).map fun g => !g.inService).getD false).getD false)

/-- Segments go out of service at the boundary after the find, and their requests are lost (R71). -/
def State.outNow (s : State) : State :=
  let out := fun (g : Seg) => { g with inService := false }
  let s1 := s.tier.outQ.foldl (fun (s : State) o => s.modShard o.1 fun h => { h with segs := mmod h.segs o.2 out }) s
  let s2 := { s1 with tier := { s1.tier with outQ := [] } }
  let s3 := s2.loseAll ((s2.ledger.works.filter fun w => s2.onOutSeg w.2).map (·.1))
  (s3.ledger.audits.filter fun a => s3.onOutSeg a.work).foldl State.failAudit s3

/-- An abandoned seal begins again at this boundary; one that flash refused for lack of space waits until there is room (R146, R282). -/
def State.restartSeal (s : State) (i : Nat) : State :=
  match (mget s.shards i).bind (·.sealJob) with
  | none => s
  | some j =>
    if j.stage ≠ 0 then s
    else if ¬ j.noSpace then s.modJob i false fun j => some { j with stage := 1, tries := 0 }
    else if s.freeUnits < j.needs ∨ (s.findRange (s.logPart i) j.needs).isNone then s
    else ((s.modJob i false fun j => some { j with stage := 1, tries := 0, noSpace := false }).modShard i fun h =>
      { h with noSpace := false }).raise 0x7034 locField 0

/-! ### Visibility (R25, R41, R70, R145) -/

/-- V(h) of a shard, the root records that its interval asks for, and EV 0x3069. -/
def State.showShard (s : State) (i : Nat) : State :=
  match mget s.shards i with
  | none => s
  | some h =>
    let n := max 1 (s.comN 0x3030 1)
    let top := max h.vis (max h.last h.lastUsn)
    let us := ((List.range (top - h.vis)).map (h.vis + 1 + ·)).filter fun u => u % n == 0
    let h1 := { h with vis := top }
    let s1 := s.modShard i fun h => { h with vis := top }
    let s2 := if h.owner then us.foldl (fun s u => s.queueRoot i h1 (h1.epochAt u) u 0) s1 else s1
    if s2.sealBlocked i h1 then s2.raiseRun 0x3069 i locField (some (i, h1.vis)) 0 else s2

/-! ### Admission (R168, R175, R383) -/

/-- Whether the node admits updates, and whether it admits requests: a clamp stops both (R377), a drain and a demand without its
grant stop requests (R32, R34). -/
def State.admitsUpdates (s : State) : Bool := !s.step.held && !s.pwr.clamp
def State.admitsRequests (s : State) : Bool := s.admitsUpdates && !s.step.noAdmit && !s.step.draining

/-- Whether a slot may serve its ring: both in one partition, which admits (R167, R351). -/
def State.slotServes (s : State) (a : AdmSlot) (ring : Nat) : Bool :=
  match s.partOfPlot a.plot, mget s.rings ring with
  | some p, some q => p == q.part && s.partOpen p
  | _, _ => false

/-- REQ_TAIL and CPL_HEAD as sampled (R156). -/
def State.sampleBells (s : State) : State :=
  { s with rings := s.rings.map fun (r : Nat × Ring) => (r.1, { r.2 with sTail := r.2.reqTail, sHead := r.2.cplHead }) }

/-- The update slots of the step's template, in the order of R168. -/
def State.updateSlots (s : State) : List AdmSlot :=
  let all := ((s.admPlan).map Plan.slots).getD []
  sortBy (fun a b => decide (a.source * 1024 + a.plot * 64 + a.idx < b.source * 1024 + b.plot * 64 + b.idx))
    (all.filter fun a => a.typ == 1 && a.template == s.template)

/-- Whether a ring holds a whole head descriptor, or one that halts it. -/
def State.hasHead (s : State) (r : Nat) (q : Ring) : Bool :=
  let avail := ringDiff q.sTail q.reqHead
  let n := dSlots (s.ringSlots 0 r q.log2 q.reqHead 1)
  !q.halted && avail != 0 && (decide (n ≤ avail) || decide (8192 < n) || decide (2 ^ q.log2 < n))

/-- Update admission, which Seedling service does not have. -/
def State.takeUpdates (s : State) : State :=
  if ¬ s.admitsUpdates ∨ s.step.seedling then s
  else s.updateSlots.foldl (fun (s : State) a => if s.slotServes a a.source then s.serveUpdate a else s) s

/-- The rings that the update slots of this step serve; in Seedling service every ring waits (R383). -/
def State.updateRings (s : State) : List (Nat × Ring) :=
  if s.step.seedling then s.rings else
  let sources := s.updateSlots.map (·.source)
  s.rings.filter fun r => sources.contains r.1

/-- Update admission: a root queue that is full is reported once per run (R166), and an update that stays at the head of its ring is
counted, once a step (R137, R154). -/
def State.admitUpdates (s : State) : State :=
  let s0 := if 4096 ≤ s.ledger.rootQ.length then s.raiseRun 0x4007 0 locField none 0 else s
  let s1 := s0.takeUpdates
  let waits := s1.updateRings.filter fun r =>
    s1.hasHead r.1 r.2 && dKind (s1.ringSlots 0 r.1 r.2.log2 r.2.reqHead 1) == 2
  s1.bump 0x3041 2 waits.length

/-- The entry of a Seedling slot: any ring, kind 0 (R383). -/
def seedEntry (plot idx : Nat) : Nat := plot * 2 ^ 112 + idx * 2 ^ 106 + 0xFFFF * 2 ^ 88 + 2 ^ 56

/-- The Seedling slots that the rings get in this step. -/
def State.seedlingItems (s : State) : List BItem :=
  let slots := (List.range 16).flatMap fun p => if s.nearOk p then (List.range 64).map fun i => (p, i) else []
  ((s.rings.filter fun r => s.hasHead r.1 r.2).foldl (fun (x : List (Nat × Nat) × List BItem) r =>
    match x.1.find? fun e => s.partOfPlot e.1 == some r.2.part with
    | none => x
    | some e => (x.1.erase e, x.2 ++ [BItem.accept (seedEntry e.1 e.2) r.1])) (slots, [])).2

/-- The request and sub-request slots of the step's template, in the order of R168. -/
def State.admitItems (s : State) : List BItem :=
  if s.step.seedling then s.seedlingItems else
  let all := ((s.admPlan).map fun p => p.entries 5 16).getD []
  let mine := all.filter fun e => (admSlotOf e).typ != 1 && (admSlotOf e).template == s.template
  (sortBy (fun a b => decide (bitsOf a 115 106 < bitsOf b 115 106)) mine).map fun e => .accept e (admSlotOf e).source

/-- FAR_PLOT of a replay: the first of L(H) in the partition that is in service (R175). -/
def State.farPlotUp (s : State) (h part : Nat) : Option Nat :=
  (farSeq h).find? fun p => bit (s.actN (0x9100 + part) 1) p && s.farOk p

/-- The replay that a request slot takes ahead of its ring's head (R175). -/
def State.replayFor (s : State) (a : AdmSlot) (ring : Nat) : Option Replay :=
  if a.typ ≠ 0 ∨ ¬ s.nearOk a.plot then none else
  s.ledger.replays.find? fun r =>
    s.ringPart r.copy.ring == s.ringPart ring && bit a.mask r.kindId && (s.farPlotUp a.plot (s.ringPart ring)).isSome &&
    bit s.node.plots r.copy.plot && bit s.node.tillers r.copy.plot

/-- Admit a replay: its own tag, the first attempt's Stamp and reservation; a Stamp that is no longer served completes with
STALE_SNAPSHOT (R175). -/
def State.admitReplay (s : State) (a : AdmSlot) (r : Replay) : State :=
  let part := s.ringPart r.copy.ring
  let tag := mkTag s.step.number a.plot 0 a.idx
  let w := { r.copy.work with plot := a.plot, orig := r.tag, plan := s.planDigest }
  let req : SearchReq := ⟨w.params, w.query, w.shards.map fun x => (x.id, x.epoch, x.usn), w.shards.map (·.src)⟩
  let f : FarCtx := { newFar r.kind r.kindId r.cplRing r.copy.ring tag r.client r.reserved
      (s.step.number + kindLifetime (s.kinds.getD r.kindId [])) a.plot w with
    replayable := true, replayed := true, audit := r.kind == 1 && pAudit w.params }
  let s1 := { s with ledger := { s.ledger with replays := s.ledger.replays.filter fun x => x.tag != r.tag } }
  let s2 := (s1.modRing r.cplRing fun q => { q with reserved := q.reserved - r.reserved }).allocate a f
    { w with walk := if r.kind = 1 then s.walkPlots req else [] } ((s.farPlotUp a.plot part).getD a.plot)
  let s3 := ((({ s2 with caches := s2.holdCache tag true }).bump 0x4021 4 1).useGrant 7).raise 0x4018 (locPlot a.plot) 0
  match ((req.ents.zip req.srcs).filter fun e => e.2.isLocal).findSome? fun e => s.staleEvent true e.1 with
  | some ev => (s3.raise ev (locPlot a.plot) 0).completeEmpty tag f (mkStatus 5 0)
  | none => if r.kind = 1 then s3.sendSubs r.client tag true req else s3

/-- What a slot meets: 1 = a SEARCH, 3 = a GENERATE, 9 = a replay, 0 = anything else. -/
def State.admitKind (s : State) (e ring : Nat) : Nat :=
  let a := admSlotOf e
  if ¬ s.admitsRequests ∨ a.typ ≠ 0 ∨ ¬ s.slotServes a ring then 0
  else if (s.replayFor a ring).isSome then 9
  else match mget s.rings ring with
    | none => 0
    | some q =>
      let k := dKind (s.ringSlots 0 ring q.log2 q.reqHead 1)
      if s.hasHead ring q ∧ (k = 1 ∨ k = 3) then k else 0

/-- One slot acts. -/
def State.admitOne (s : State) (e ring : Nat) : State :=
  let a := admSlotOf e
  if ¬ s.admitsRequests then s
  else if a.typ = 2 then
    (if ((s.partOfPlot a.plot).map s.partOpen).getD false then s.serveSub a (ring % 16) else s)
  else if a.typ ≠ 0 ∨ ¬ s.slotServes a ring then s
  else match s.replayFor a ring with
    | some r => s.admitReplay a r
    | none => s.serveRequest a ring

/-- Before requests are admitted, replays whose copy went out of service complete with LOST_CONTEXT (R175); where the Hand has stopped,
those that wait complete with NOT_GRANTED (R18). -/
def State.dropReplays (s : State) : State :=
  let s1 := (s.ledger.replays.filter fun r => !(bit s.node.plots r.copy.plot && bit s.node.tillers r.copy.plot)).foldl State.failReplay s
  if s1.node.handAlive then s1 else s1.ledger.replays.foldl (fun (s : State) r => s.endReplay r (mkStatus 7 0)) s1

/-! ### What is published at a boundary (R35, R288, R298, R299, R360, R368) -/

/-- PART.STATE of the partitions; the drain's own event sets 1. -/
def State.partFigures (s : State) : State :=
  (List.range 8).foldl (fun s p => if s.tenantDrains p then s else s.setN (0x9100 + p) 5 (s.partState p)) s

/-- The node's own values as read until the next boundary. -/
def State.publish (s : State) : State :=
  let s1 := ((s.partFigures).flashFigures).tillFigures
  let told := fun (e : Nat × SrcResult) => (e.1, { e.2 with attPub := e.2.att })
  { s1 with dict := { s1.dict with pub := s1.dict.live, results := s1.dict.results.map told } }

/-! ### The agenda (R25) -/

/-- Run an item of the boundary phase. -/
def State.runItem (s : State) : BItem → State
  | .planDrain => s.doPlanDrain
  | .planActivate => s.doPlanActivate
  | .modelDrain k => if s.modelDrains k then s.doModelDrain k else s
  | .modelActivate k => if s.modelActivates k then s.doModelActivate k else s
  | .gateTakeover p => s.doGateTakeover p
  | .tenantDrain p => s.doTenantDrain p
  | .tenantSwitch p => s.doTenantSwitch p
  | .tenantScrubEnd p => s.doScrubEnd p
  | .plotLimit p => s.doPlotLimit p
  | .sealFreeze i => s.doSealFreeze i
  | .sealSwitch i => s.doSealSwitch i
  | .replicaSwitch i => s.doReplicaSwitch i
  | .deltaOpen i => s.doDeltaOpen i
  | .compactChoose i => s.doCompactChoose i
  | .compactSwitch i => s.doCompactSwitch i
  | .epochRelease i e => s.doEpochRelease i e
  | .loadWindow => s.doLoadWindow
  | .placeWindow => s.doPlaceWindow
  | .pageDemote => s.doDemote
  | .promotionSwitch p => s.doPromoSwitch p
  | .embSwitch t => s.doEmbSwitch t
  | .rejoinLoaded i => s.doRejoinLoaded i
  | .rejoinAdmit => s.doRejoinAdmit
  | .visibility => (s.shards.map (·.1)).foldl State.showShard s
  | .updates =>
    let s1 := s.sampleBells.admitUpdates.dropReplays
    { s1 with step := { s1.step with agenda := s1.admitItems ++ s1.step.agenda } }
  | .accept e r => s.admitOne e r
  | .publish => (s.settleLosses.giveCredits.captureReports).publish

/-- Whether an item that has a row of its own has something to do. -/
def State.due (s : State) : BItem → Bool
  | .planDrain => s.planDrains
  | .planActivate => s.planActivates
  | .modelDrain k => s.modelDrains k
  | .modelActivate k => s.modelActivates k
  | .gateTakeover p => s.comN (0x8100 + p) 3 == s.step.number
  | .tenantDrain p => s.tenantDrains p
  | .tenantSwitch p => s.tenantSwitches p
  | .tenantScrubEnd p => s.scrubEnds p
  | .plotLimit p => s.overLimit p
  | .sealFreeze i => ((mget s.shards i).map fun h => s.sealBegins i h).getD false
  | .sealSwitch i => ((mget s.shards i).map Shard.sealReady).getD false
  | .replicaSwitch i => ((mget s.shards i).map Shard.replicaReady).getD false
  | .deltaOpen i => ((mget s.shards i).map fun h => s.opensFirst i h).getD false
  | .compactChoose i => ((mget s.shards i).map fun h => s.compBegins h && (s.compInputs h).isSome).getD false
  | .compactSwitch i => ((mget s.shards i).map fun h => h.compReady s.step.number).getD false
  | .epochRelease i n => ((mget s.shards i).bind fun h => (h.epoch? n).map fun e => s.releases h e).getD false
  | .loadWindow => s.loadEnds
  | .placeWindow => s.placeEnds
  | .pageDemote => !s.tier.demote.isEmpty
  | .promotionSwitch p => s.tier.promos.any fun q => s.pageHome q.page == p && q.copied
  | .embSwitch t => ((mget s.embs t).bind (·.move)).isSome && (s.doEmbSwitch t != s)
  | .rejoinLoaded i => ((mget s.shards i).map Shard.loadDone).getD false
  | .rejoinAdmit => s.comN 0xB040 6 == s.step.number && s.doRejoinAdmit != s
  | .accept e r => s.admitKind e r != 0
  | .visibility | .updates | .publish => false

/-- The agenda of a boundary: every item that could fall due in it, in the order of R25. -/
def State.buildAgenda (s : State) : List BItem :=
  let ms := s.models.map (·.1)
  let hs := s.shards.map (·.1)
  [.planDrain, .planActivate] ++ ms.map .modelDrain ++ ms.map .modelActivate ++ (List.range 20).map .gateTakeover ++
  (List.range 8).map .tenantDrain ++ (List.range 8).map .tenantSwitch ++ (List.range 8).map .tenantScrubEnd ++
  (List.range 16).map .plotLimit ++ [.visibility, .rejoinAdmit] ++
  hs.map .sealFreeze ++ hs.map .sealSwitch ++ hs.map .replicaSwitch ++ hs.map .deltaOpen ++ hs.map .compactChoose ++
  hs.map .compactSwitch ++ (s.shards.flatMap fun h => h.2.epochs.map fun e => .epochRelease h.1 e.num) ++
  [.loadWindow, .pageDemote] ++ (List.range 16).map .promotionSwitch ++ [.placeWindow] ++ (s.embs.map (·.1)).map .embSwitch ++
  hs.map .rejoinLoaded ++ [.updates, .publish]

/-- Enough steps for an agenda: its items, and the slots that the update item adds. -/
def State.agendaFuel (s : State) : Nat :=
  let slots := fun (ps : Option PlanSet) => sumNat (((ps.map (·.plans)).getD []).map fun p => p.slots.length)
  s.step.agenda.length + slots s.step.plan + slots s.step.staged + s.rings.length

/-- Take the first item off the agenda and run it. -/
def State.popItem (s : State) : State :=
  match s.step.agenda with
  | [] => s
  | i :: rest => ({ s with step := { s.step with agenda := rest } }).runItem i

/-- Run the items up to the first that falls to a command of its own, or all of them. -/
def State.drain (s : State) (all : Bool) : Nat → State
  | 0 => s
  | n + 1 => match s.step.agenda with
    | [] => s
    | i :: _ => if !all && s.due i then s else s.popItem.drain all n

/-- Run the items up to and with the first that `p` names, which is due; none where there is no such item. -/
def State.runTo (s : State) (p : State → BItem → Bool) : Nat → Option State
  | 0 => none
  | n + 1 => match s.step.agenda with
    | [] => none
    | i :: _ => if p s i then some s.popItem else s.popItem.runTo p n

/-- The command of an item: the items before it, the item, and those up to the next that falls to a command. -/
def State.command (s : State) (p : State → BItem → Bool) : State :=
  match s.runTo (fun s i => p s i && s.due i) s.agendaFuel with
  | none => s
  | some t => t.drain false t.agendaFuel

/-! ### The step's two ends (R24, R36) -/

/-- The highest Step Number. -/
def maxStep : Nat := 0xFFFFFFFFFFFE

/-- The settle part of the close phase (R24): retry slots that passed, queue flushes, the clock.  What it raises is flushed with the
next step's records (log 149). -/
def State.settleStep (s : State) : State :=
  let routes := ((s.tierPlan).map Plan.routes).getD []
  let past := fun (r : RouteRetry) => decide (r.at_ < s.step.number) && bitsOf (routes.getD r.route 0) 20 9 == s.template
  let s1 := (({ s with step := { s.step with retries := s.step.retries.filter fun r => !past r } }).applyFlushes).settleClock
  { s1 with step := { s1.step with open_ := false } }

/-- What a step still has to do before it closes: the rest of the agenda, updates that wait, loads, sweeps, commits and reports. -/
def State.lastWork (s : State) : State := (((((s.drain true s.agendaFuel).applyWaiting).loadPartners).sweepDue).commitsDue).reportsDue

/-- The close phase (R24): what is left of the agenda, updates that wait, loads, commits whose last step this is, the root records of the
step (R70), the counter latch
with the power controller, the event flush, the settle part. -/
def State.closeStep (s : State) (sens : Option Sensors) : State :=
  let s1 := (s.lastWork).formRoots ((sens.map (·.roots)).getD [])
  let s2 := match sens with
    | some x => (s1.latchQueues x.delays x.uncorrected).powerTick x
    | none => s1
  if s2.pwr.boot ≠ .running then s2 else s2.flushEvents.settleStep

/-- Provisional extents that bring-up had to leave are trimmed once the hold energy covers a flush again (R279, R381). -/
def State.trimLater (s : State) : State :=
  let u := s.trimProvisional
  if s.pwr.short && !s.holdShort then { u with pwr := { u.pwr with short := false } } else s

/-- The boundary (R25): the number, the changes that fall due without a command, and the agenda.  Promotion copies in progress are
abandoned where GRANT.PAGE_MIGRATE reads 0 (R339, log 77). -/
def State.openStep (s : State) : State :=
  let n := s.step.number + 1
  let ctl := fun (e : Nat × HPort) => (e.1, { e.2 with ctl := [] })
  let pfc := fun (e : Nat × EPort) => (e.1, { e.2 with pfcSent := [] })
  let calm := fun (q : Promo) => { q with hit := false }
  let rest := fun (m : Nat × Mover) => (m.1, { m.2 with chans := [] })
  let s1 := ({ s with step := { s.step with number := n, open_ := true, spill := 0, agenda := [], used := [], movers := s.step.movers.map rest },
                      tier := { s.tier with wrote := [], copied := [], promos := if s.grant 0x0A then s.tier.promos.map calm else [] },
                      sent := [], hedge := s.hedge.map ctl, eth := s.eth.map pfc,
                      dict := { s.dict with sent := [] } }).setN 0xC010 2 n
  if maxStep ≤ n then { s1 with step := { s1.step with held := true } } else
  let s2 := (s1.landed.flashBoundary).pruneFaults
  let s3 := s2.trimLater
  let s4 := ((s3.tierBoundary).applyDue).outNow
  let s5 := ((s4.shards.map (·.1)).foldl (fun (s : State) i => (s.restartSeal i).sendOwed i) s4).settleMirror.publish
  let s6 := { s5 with step := { s5.step with agenda := s5.buildAgenda } }
  s6.drain false s6.agendaFuel

/-- STEP_BOUNDARY (R23, R25): the sequencer's boundary.  A step that was not closed is closed first. -/
def execStepBoundary (s : State) : Host.Outcome State Fault Refusal :=
  if s.pwr.boot ≠ .running ∨ s.step.held then .next s
  else .next (if s.step.open_ then s.closeStep none else s).openStep

/-- STEP_CLOSE (R24): the close phase of the step that is open. -/
def execStepClose (sens : Sensors) (s : State) : Host.Outcome State Fault Refusal :=
  if s.pwr.boot ≠ .running ∨ ¬ s.step.open_ then .next s else .next (s.closeStep (some sens))

/-- STEP_NUMBER_LIMIT (R36): the node holds idle at the last boundary and says so once. -/
def execStepNumberLimit (s : State) : Host.Outcome State Fault Refusal :=
  if s.step.number < maxStep ∨ s.step.limit then .next s
  else .next (({ s with step := { s.step with limit := true, held := true } }).raise 0xC009 locField s.step.number)

/-! ### Planned actions (R12, R26, R296) -/

/-- ENGINE_SLOT (R26): an action that runs past its slot completes in its plot's spill slot, or loses its requests. -/
def execEngineSlot (idx : Nat) (fin : SlotEnd) (deps : List Nat) (s : State) : Host.Outcome State Fault Refusal :=
  match (((s.tierPlan).map Plan.engines).getD [])[idx]? with
  | none => .next s
  | some e =>
    if e.template ≠ s.template ∨ ¬ s.plotServes e.plot then .next s else
    let loc := locRow e.plot e.rowType e.rowIndex
    match fin with
    | .inSlot => .next s
    | .overran => .next (if s.spillUsed e.plot then (s.raise 0xC004 loc 0).loseAll deps else (s.useSpill e.plot).raise 0xC003 loc 0)
    | .spillShort => .next (((if s.spillUsed e.plot then s else s.useSpill e.plot).raise 0xC004 loc 0).loseAll deps)

/-- The place of a route's first link: a plot's Headland port, or a Gate die's edge link (R11, R15, R17). -/
def routeLoc (e : Nat) : Nat :=
  let a := rWay e 0
  let b := rWay e 1
  if a < 16 then
    let port := if b = 17 ∨ b + 4 = a then 0 else if b = 18 ∨ (b = a + 1 ∧ b < 16) then 1 else if b = 19 ∨ (b = a + 4 ∧ b < 16) then 2 else 3
    locRow a 0xC port
  else locUnit (a - 16) 8 (if a = 16 ∨ a = 18 then b / 4 else b % 4) 0

/-- The route entry that a command names. -/
def State.routeAt (s : State) (k : Nat) : Option Nat := (((s.tierPlan).map Plan.routes).getD [])[k]?

/-- HEADLAND_TRANSFER (R12): one that fails waits for its retry slot. -/
def execHeadlandTransfer (route : Nat) (ok : Bool) (deps : List Nat) (s : State) : Host.Outcome State Fault Refusal :=
  match s.routeAt route with
  | none => .next s
  | some e =>
    if ok ∨ bitsOf e 127 116 ≠ s.template then .next s
    else .next { s with step := { s.step with retries := s.step.retries ++ [(⟨route, s.step.number, deps⟩ : RouteRetry)] } }

/-- HEADLAND_RETRY (R12, R296): in a later step of RETRY_TEMPLATE. -/
def execHeadlandRetry (route : Nat) (ok : Bool) (s : State) : Host.Outcome State Fault Refusal :=
  match s.routeAt route, s.step.retries.find? fun r => r.route == route && decide (r.at_ < s.step.number) with
  | some e, some r =>
    if bitsOf e 20 9 ≠ s.template then .next s else
    let s1 := { s with step := { s.step with retries := s.step.retries.erase r } }
    .next (if ok then s1 else (s1.raise 0x6004 (routeLoc e) 0).loseAll r.deps)
  | _, _ => .next s

/-! ### The commands of the agenda's items -/

/-- PLAN_DRAIN_START (R32). -/
def execPlanDrainStart (s : State) : Host.Outcome State Fault Refusal := .next (s.command fun _ i => i == .planDrain)
/-- PLAN_SET_ACTIVATE (R32, R384). -/
def execPlanSetActivate (s : State) : Host.Outcome State Fault Refusal := .next (s.command fun _ i => i == .planActivate)
/-- MODEL_DRAIN_START (R188). -/
def execModelDrainStart (slot : Nat) (s : State) : Host.Outcome State Fault Refusal := .next (s.command fun _ i => i == .modelDrain slot)
/-- MODEL_ACTIVATE (R188). -/
def execModelActivate (slot : Nat) (s : State) : Host.Outcome State Fault Refusal := .next (s.command fun _ i => i == .modelActivate slot)
/-- GATE_LIST_TAKEOVER (R319). -/
def execGateListTakeover (port : Nat) (s : State) : Host.Outcome State Fault Refusal := .next (s.command fun _ i => i == .gateTakeover port)
/-- TENANT_DRAIN_START (R351). -/
def execTenantDrainStart (p : Nat) (s : State) : Host.Outcome State Fault Refusal := .next (s.command fun _ i => i == .tenantDrain p)
/-- TENANT_SWITCH (R351). -/
def execTenantSwitch (p : Nat) (s : State) : Host.Outcome State Fault Refusal := .next (s.command fun _ i => i == .tenantSwitch p)
/-- TENANT_SCRUB_END (R351). -/
def execTenantScrubEnd (p : Nat) (s : State) : Host.Outcome State Fault Refusal := .next (s.command fun _ i => i == .tenantScrubEnd p)
/-- PLOT_FAULT_LIMIT (R393). -/
def execPlotFaultLimit (plot : Nat) (s : State) : Host.Outcome State Fault Refusal := .next (s.command fun _ i => i == .plotLimit plot)
/-- SEAL_FREEZE (R145, R146). -/
def execSealFreeze (slot : Nat) (s : State) : Host.Outcome State Fault Refusal := .next (s.command fun _ i => i == .sealFreeze slot)
/-- SEAL_SWITCH (R146). -/
def execSealSwitch (slot : Nat) (s : State) : Host.Outcome State Fault Refusal := .next (s.command fun _ i => i == .sealSwitch slot)
/-- REPLICA_EPOCH_SWITCH (R146). -/
def execReplicaEpochSwitch (slot : Nat) (s : State) : Host.Outcome State Fault Refusal := .next (s.command fun _ i => i == .replicaSwitch slot)
/-- DELTA_OPEN (R138). -/
def execDeltaOpen (slot : Nat) (s : State) : Host.Outcome State Fault Refusal := .next (s.command fun _ i => i == .deltaOpen slot)
/-- COMPACTION_CHOOSE (R148). -/
def execCompactionChoose (slot : Nat) (s : State) : Host.Outcome State Fault Refusal := .next (s.command fun _ i => i == .compactChoose slot)
/-- COMPACTION_SWITCH (R149). -/
def execCompactionSwitch (slot : Nat) (s : State) : Host.Outcome State Fault Refusal := .next (s.command fun _ i => i == .compactSwitch slot)
/-- EPOCH_RELEASE (R151). -/
def execEpochRelease (slot epoch : Nat) (s : State) : Host.Outcome State Fault Refusal := .next (s.command fun _ i => i == .epochRelease slot epoch)
/-- LOAD_WINDOW_END (R203). -/
def execLoadWindowEnd (s : State) : Host.Outcome State Fault Refusal := .next (s.command fun _ i => i == .loadWindow)
/-- EMB_SHARD_SWITCH (R204). -/
def execEmbShardSwitch (table : Nat) (s : State) : Host.Outcome State Fault Refusal := .next (s.command fun _ i => i == .embSwitch table)
/-- PLACEMENT_WINDOW_END (R234). -/
def execPlacementWindowEnd (s : State) : Host.Outcome State Fault Refusal := .next (s.command fun _ i => i == .placeWindow)
/-- PAGE_DEMOTE (R235). -/
def execPageDemote (s : State) : Host.Outcome State Fault Refusal := .next (s.command fun _ i => i == .pageDemote)
/-- PROMOTION_SWITCH (R235). -/
def execPromotionSwitch (plot : Nat) (s : State) : Host.Outcome State Fault Refusal := .next (s.command fun _ i => i == .promotionSwitch plot)
/-- REJOIN_LOADED (R397). -/
def execRejoinLoaded (slot : Nat) (s : State) : Host.Outcome State Fault Refusal := .next (s.command fun _ i => i == .rejoinLoaded slot)
/-- REJOIN_ADMIT (R398). -/
def execRejoinAdmit (s : State) : Host.Outcome State Fault Refusal := .next (s.command fun _ i => i == .rejoinAdmit)

/-- Whether an item is a slot that meets a request of a kind. -/
def meetsKind (k : Nat) (s : State) : BItem → Bool
  | .accept e r => s.admitKind e r == k
  | _ => false

/-- SEARCH (R76, R168): the next slot that meets one acts. -/
def execSearch (s : State) : Host.Outcome State Fault Refusal := .next (s.command (meetsKind 1))
/-- GENERATE (R168, R217): the next slot that meets one acts. -/
def execGenerate (s : State) : Host.Outcome State Fault Refusal := .next (s.command (meetsKind 3))
/-- REPLAY (R175): the next slot that a tag's replay takes; a copy whose read fails is not replayed, and its request completes. -/
def execReplay (tag : Nat) (copyOk : Bool) (s : State) : Host.Outcome State Fault Refusal :=
  if copyOk then
    .next (s.command fun s i => match i with
      | .accept e r => s.admitKind e r == 9 && ((s.replayFor (admSlotOf e) r).map (·.tag)) == some tag
      | _ => false)
  else .next ((s.ledger.replays.filter fun r => r.tag == tag).foldl State.failReplay s)

end Sys2Proof.Machine
end

