-- ==== Sys2Proof/Machine/Dispatch.lean ====
section
/-! DEFINITION. Which meaning each command runs: one arm per row of the table of operations and events. -/

namespace Sys2Proof.Machine

/-- The effect of a command on everything but the queue. -/
def exec (i : Instr) (s : State) : Host.Outcome State Fault Refusal :=
  match i with
  | .stepBoundary => Sys2Proof.Machine.execStepBoundary s
  | .stepClose sens => Sys2Proof.Machine.execStepClose sens s
  | .engineSlot idx fin deps => Sys2Proof.Machine.execEngineSlot idx fin deps s
  | .headlandTransfer route ok deps => Sys2Proof.Machine.execHeadlandTransfer route ok deps s
  | .headlandRetry route ok => Sys2Proof.Machine.execHeadlandRetry route ok s
  | .stepNumberLimit => Sys2Proof.Machine.execStepNumberLimit s
  | .planDrainStart => Sys2Proof.Machine.execPlanDrainStart s
  | .planSetActivate => Sys2Proof.Machine.execPlanSetActivate s
  | .tierChangeRequest tier => Sys2Proof.Machine.execTierChangeRequest tier s
  | .tierClockChange => Sys2Proof.Machine.execTierClockChange s
  | .tierStretch tier => Sys2Proof.Machine.execTierStretch tier s
  | .handWatchdogExpiry => Sys2Proof.Machine.execHandWatchdogExpiry s
  | .g0Loss => Sys2Proof.Machine.execG0Loss s
  | .barLoss b => Sys2Proof.Machine.execBarLoss b s
  | .stringLoss gate n => Sys2Proof.Machine.execStringLoss gate n s
  | .gateDieLoss g => Sys2Proof.Machine.execGateDieLoss g s
  | .alternateHandTakeover x => Sys2Proof.Machine.execAlternateHandTakeover x s
  | .agentRestart isBar gate n => Sys2Proof.Machine.execAgentRestart isBar gate n s
  | .hostRdmaWrite qp addr data tagOk => Sys2Proof.Machine.execHostRdmaWrite qp addr data tagOk s
  | .hostRdmaRead qp addr len tagOk => Sys2Proof.Machine.execHostRdmaRead qp addr len tagOk s
  | .eventConsumedWrite qp offset data => Sys2Proof.Machine.execEventConsumedWrite qp offset data s
  | .search => Sys2Proof.Machine.execSearch s
  | .queryPrepare tag chk => Sys2Proof.Machine.execQueryPrepare tag chk s
  | .tableBuild tag chk => Sys2Proof.Machine.execTableBuild tag chk s
  | .segmentWalk tag pos seg hops chk => Sys2Proof.Machine.execSegmentWalk tag pos seg hops chk s
  | .fullScan tag pos seg chk => Sys2Proof.Machine.execFullScan tag pos seg chk s
  | .deltaScan tag pos chk => Sys2Proof.Machine.execDeltaScan tag pos chk s
  | .enumeration tag pos seg chk => Sys2Proof.Machine.execEnumeration tag pos seg chk s
  | .bitmapFilterEval tag pos seg rail => Sys2Proof.Machine.execBitmapFilterEval tag pos seg rail s
  | .rerankSelect tag pos chk => Sys2Proof.Machine.execRerankSelect tag pos chk s
  | .rerank tag pos chk sumsq => Sys2Proof.Machine.execRerank tag pos chk sumsq s
  | .widenedPass tag => Sys2Proof.Machine.execWidenedPass tag s
  | .winnowerPass tag pos plot chk => Sys2Proof.Machine.execWinnowerPass tag pos plot chk s
  | .shardResult tag pos chk hash => Sys2Proof.Machine.execShardResult tag pos chk hash s
  | .merge tag chk hash => Sys2Proof.Machine.execMerge tag chk hash s
  | .remoteWaitExpiry tag => Sys2Proof.Machine.execRemoteWaitExpiry tag s
  | .certify tag chk => Sys2Proof.Machine.execCertify tag chk s
  | .completionWrite tag => Sys2Proof.Machine.execCompletionWrite tag s
  | .auditPass tag sumsq chk hash => Sys2Proof.Machine.execAuditPass tag sumsq chk hash s
  | .rootRequest tag hash => Sys2Proof.Machine.execRootRequest tag hash s
  | .rootQueueDrain => Sys2Proof.Machine.execRootQueueDrain s
  | .subSearch port body => Sys2Proof.Machine.execSubSearch port body s
  | .shardList port tag body => Sys2Proof.Machine.execShardList port tag body s
  | .certFields port tag body => Sys2Proof.Machine.execCertFields port tag body s
  | .insert tag => Sys2Proof.Machine.execInsert tag s
  | .delete tag => Sys2Proof.Machine.execDelete tag s
  | .replace tag => Sys2Proof.Machine.execReplace tag s
  | .logRecords port body => Sys2Proof.Machine.execLogRecords port body s
  | .replicaApply slot => Sys2Proof.Machine.execReplicaApply slot s
  | .logAck port shard usn => Sys2Proof.Machine.execLogAck port shard usn s
  | .logResend port shard usn => Sys2Proof.Machine.execLogResend port shard usn s
  | .deltaOpen slot => Sys2Proof.Machine.execDeltaOpen slot s
  | .sealFreeze slot => Sys2Proof.Machine.execSealFreeze slot s
  | .sealBuild slot chk ps => Sys2Proof.Machine.execSealBuild slot chk ps s
  | .sealWrite slot => Sys2Proof.Machine.execSealWrite slot s
  | .sealSwitch slot => Sys2Proof.Machine.execSealSwitch slot s
  | .segmentImage _port slot image rec_ => Sys2Proof.Machine.execSegmentImage _port slot image rec_ s
  | .replicaEpochSwitch slot => Sys2Proof.Machine.execReplicaEpochSwitch slot s
  | .compactionChoose slot => Sys2Proof.Machine.execCompactionChoose slot s
  | .compactionBuild slot chk => Sys2Proof.Machine.execCompactionBuild slot chk s
  | .compactionSwitch slot => Sys2Proof.Machine.execCompactionSwitch slot s
  | .epochRelease slot epoch => Sys2Proof.Machine.execEpochRelease slot epoch s
  | .logTrim => Sys2Proof.Machine.execLogTrim s
  | .take tag h => Sys2Proof.Machine.execTake tag h s
  | .release tag h => Sys2Proof.Machine.execRelease tag h s
  | .auditSweep plot => Sys2Proof.Machine.execAuditSweep plot s
  | .poolLoss l => Sys2Proof.Machine.execPoolLoss l s
  | .replay tag copyOk => Sys2Proof.Machine.execReplay tag copyOk s
  | .gemm tags arr ti chk resc => Sys2Proof.Machine.execGemm tags arr ti chk resc s
  | .loadScales tags arr ti => Sys2Proof.Machine.execLoadScales tags arr ti s
  | .swapScales tags arr ti => Sys2Proof.Machine.execSwapScales tags arr ti s
  | .ewise tags arr ti chk => Sys2Proof.Machine.execEwise tags arr ti chk s
  | .act tags arr ti chk => Sys2Proof.Machine.execAct tags arr ti chk s
  | .norm tags arr ti chk => Sys2Proof.Machine.execNorm tags arr ti chk s
  | .softmax tags arr ti chk => Sys2Proof.Machine.execSoftmax tags arr ti chk s
  | .pool tags arr ti chk => Sys2Proof.Machine.execPool tags arr ti chk s
  | .convert tags arr ti => Sys2Proof.Machine.execConvert tags arr ti s
  | .embGather tags ti => Sys2Proof.Machine.execEmbGather tags ti s
  | .clipDump tags arr ti => Sys2Proof.Machine.execClipDump tags arr ti s
  | .kvAppend tags arr ti => Sys2Proof.Machine.execKvAppend tags arr ti s
  | .ropeQ tags arr ti => Sys2Proof.Machine.execRopeQ tags arr ti s
  | .attnMax tags arr ti => Sys2Proof.Machine.execAttnMax tags arr ti s
  | .attnPage tags arr ti => Sys2Proof.Machine.execAttnPage tags arr ti s
  | .attnCombine tags arr ti => Sys2Proof.Machine.execAttnCombine tags arr ti s
  | .tillMatvec tags ti chk => Sys2Proof.Machine.execTillMatvec tags ti chk s
  | .tokenChoose tags arr ti => Sys2Proof.Machine.execTokenChoose tags arr ti s
  | .verify tags ti => Sys2Proof.Machine.execVerify tags ti s
  | .modelDrainStart slot => Sys2Proof.Machine.execModelDrainStart slot s
  | .modelActivate slot => Sys2Proof.Machine.execModelActivate slot s
  | .gradientBatch port body => Sys2Proof.Machine.execGradientBatch port body s
  | .trainStepApply table ue => Sys2Proof.Machine.execTrainStepApply table ue s
  | .trainWaitExpiry table => Sys2Proof.Machine.execTrainWaitExpiry table s
  | .runningSums port table msg => Sys2Proof.Machine.execRunningSums port table msg s
  | .embRows port tag body => Sys2Proof.Machine.execEmbRows port tag body s
  | .loadWindowEnd => Sys2Proof.Machine.execLoadWindowEnd s
  | .embShardCopy table => Sys2Proof.Machine.execEmbShardCopy table s
  | .embShardSwitch table => Sys2Proof.Machine.execEmbShardSwitch table s
  | .generate => Sys2Proof.Machine.execGenerate s
  | .genPlace tag => Sys2Proof.Machine.execGenPlace tag s
  | .prefill tag chk => Sys2Proof.Machine.execPrefill tag chk s
  | .decode tag chk => Sys2Proof.Machine.execDecode tag chk s
  | .score tag chk => Sys2Proof.Machine.execScore tag chk s
  | .pagePartials tag port _body late => Sys2Proof.Machine.execPagePartials tag port _body late s
  | .cacheRetainExpiry cache => Sys2Proof.Machine.execCacheRetainExpiry cache s
  | .placementWindowEnd => Sys2Proof.Machine.execPlacementWindowEnd s
  | .pageDemote => Sys2Proof.Machine.execPageDemote s
  | .promotionCopy copy => Sys2Proof.Machine.execPromotionCopy copy s
  | .promotionSwitch plot => Sys2Proof.Machine.execPromotionSwitch plot s
  | .refreshSlice _idx => Sys2Proof.Machine.execRefreshSlice _idx s
  | .scrubSlice idx found => Sys2Proof.Machine.execScrubSlice idx found s
  | .rowRepair plot row => Sys2Proof.Machine.execRowRepair plot row s
  | .segmentLoad slot seg chk => Sys2Proof.Machine.execSegmentLoad slot seg chk s
  | .pageReload slot seg page flashOk => Sys2Proof.Machine.execPageReload slot seg page flashOk s
  | .segmentRefetch slot seg image => Sys2Proof.Machine.execSegmentRefetch slot seg image s
  | .tillingEnter idx => Sys2Proof.Machine.execTillingEnter idx s
  | .tillingRun idx => Sys2Proof.Machine.execTillingRun idx s
  | .tillingExit idx => Sys2Proof.Machine.execTillingExit idx s
  | .tillingLoad idx r act => Sys2Proof.Machine.execTillingLoad idx r act s
  | .tmAckTimeout g => Sys2Proof.Machine.execTmAckTimeout g s
  | .tillCommandWrite g rec_ => Sys2Proof.Machine.execTillCommandWrite g rec_ s
  | .nop g => Sys2Proof.Machine.execNop g s
  | .tillingRefreshDue g hot => Sys2Proof.Machine.execTillingRefreshDue g hot s
  | .rowCopy g => Sys2Proof.Machine.execRowCopy g s
  | .rowClear g => Sys2Proof.Machine.execRowClear g s
  | .writeRow g => Sys2Proof.Machine.execWriteRow g s
  | .readRow x => Sys2Proof.Machine.execReadRow x s
  | .tillAnd g => Sys2Proof.Machine.execTillAnd g s
  | .tillOr g => Sys2Proof.Machine.execTillOr g s
  | .tillNot g => Sys2Proof.Machine.execTillNot g s
  | .tillXor g => Sys2Proof.Machine.execTillXor g s
  | .ewAdd g => Sys2Proof.Machine.execEwAdd g s
  | .ewMul g => Sys2Proof.Machine.execEwMul g s
  | .ewAct g => Sys2Proof.Machine.execEwAct g s
  | .matvec g chk => Sys2Proof.Machine.execMatvec g chk s
  | .flashRead lpn sector out ones deps => Sys2Proof.Machine.execFlashRead lpn sector out ones deps s
  | .logWrite ok => Sys2Proof.Machine.execLogWrite ok s
  | .logPageTimeout => Sys2Proof.Machine.execLogPageTimeout s
  | .imageWrite slot comp fails => Sys2Proof.Machine.execImageWrite slot comp fails s
  | .mapCheckpoint n => Sys2Proof.Machine.execMapCheckpoint n s
  | .gcCopy die out => Sys2Proof.Machine.execGcCopy die out s
  | .flashScrub die found => Sys2Proof.Machine.execFlashScrub die found s
  | .flashDieLoss die => Sys2Proof.Machine.execFlashDieLoss die s
  | .nandRailOvercurrent chan => Sys2Proof.Machine.execNandRailOvercurrent chan s
  | .copy idx fin deps => Sys2Proof.Machine.execCopy idx fin deps s
  | .transpose idx fin deps => Sys2Proof.Machine.execTranspose idx fin deps s
  | .untranspose idx fin deps => Sys2Proof.Machine.execUntranspose idx fin deps s
  | .gather idx fin deps => Sys2Proof.Machine.execGather idx fin deps s
  | .scatter idx fin deps => Sys2Proof.Machine.execScatter idx fin deps s
  | .cellPush plot q req x => Sys2Proof.Machine.execCellPush plot q req x s
  | .cellPop plot q dmg deps => Sys2Proof.Machine.execCellPop plot q dmg deps s
  | .queueFlushApply plot q => Sys2Proof.Machine.execQueueFlushApply plot q s
  | .laneFailure port lane x => Sys2Proof.Machine.execLaneFailure port lane x s
  | .laneSwap port lane => Sys2Proof.Machine.execLaneSwap port lane s
  | .laneRetrain port ok => Sys2Proof.Machine.execLaneRetrain port ok s
  | .portRecovery port ok rttNs => Sys2Proof.Machine.execPortRecovery port ok rttNs s
  | .portTraining port peer rttNs ok reportOk ek ct => Sys2Proof.Machine.execPortTraining port peer rttNs ok reportOk ek ct s
  | .portReup port => Sys2Proof.Machine.execPortReup port s
  | .dataFlit port flit fecOk tagOk => Sys2Proof.Machine.execDataFlit port flit fecOk tagOk s
  | .retry port fsn => Sys2Proof.Machine.execRetry port fsn s
  | .ack port fsn => Sys2Proof.Machine.execAck port fsn s
  | .peerId port peer => Sys2Proof.Machine.execPeerId port peer s
  | .replayTimeout port => Sys2Proof.Machine.execReplayTimeout port s
  | .rejoinLoad port slot item => Sys2Proof.Machine.execRejoinLoad port slot item s
  | .ethLinkDown port => Sys2Proof.Machine.execEthLinkDown port s
  | .ethLinkUp port => Sys2Proof.Machine.execEthLinkUp port s
  | .ethFailover port => Sys2Proof.Machine.execEthFailover port s
  | .cmMessage port msg => Sys2Proof.Machine.execCmMessage port msg s
  | .roceRefusedOpcode qp => Sys2Proof.Machine.execRoceRefusedOpcode qp s
  | .cnpReceive qp => Sys2Proof.Machine.execCnpReceive qp s
  | .ceMarkedPacket qp nowNs => Sys2Proof.Machine.execCeMarkedPacket qp nowNs s
  | .pfcPause port prio pause => Sys2Proof.Machine.execPfcPause port prio pause s
  | .arpNdEcho port kind x => Sys2Proof.Machine.execArpNdEcho port kind x s
  | .roceAckTimeout qp => Sys2Proof.Machine.execRoceAckTimeout qp s
  | .shaperRefill port => Sys2Proof.Machine.execShaperRefill port s
  | .egressWindow port openNs classes => Sys2Proof.Machine.execEgressWindow port openNs classes s
  | .gateListTakeover port => Sys2Proof.Machine.execGateListTakeover port s
  | .readExpedited f => Sys2Proof.Machine.execReadExpedited f s
  | .writeExpedited f => Sys2Proof.Machine.execWriteExpedited f s
  | .readInit f => Sys2Proof.Machine.execReadInit f s
  | .writeInit f => Sys2Proof.Machine.execWriteInit f s
  | .segment f => Sys2Proof.Machine.execSegment f s
  | .abort f => Sys2Proof.Machine.execAbort f s
  | .commit f => Sys2Proof.Machine.execCommit f s
  | .discard f => Sys2Proof.Machine.execDiscard f s
  | .transferIdleExpiry mac => Sys2Proof.Machine.execTransferIdleExpiry mac s
  | .mirrorStagingWrite qp idx sub off b => Sys2Proof.Machine.execMirrorStagingWrite qp idx sub off b s
  | .dictCommit qp => Sys2Proof.Machine.execDictCommit qp s
  | .dictDiscard qp => Sys2Proof.Machine.execDictDiscard qp s
  | .commitApply => Sys2Proof.Machine.execCommitApply s
  | .rejoinTestEnd units => Sys2Proof.Machine.execRejoinTestEnd units s
  | .rejoinLoaded slot => Sys2Proof.Machine.execRejoinLoaded slot s
  | .rejoinAdmit => Sys2Proof.Machine.execRejoinAdmit s
  | .plotFaultLimit plot => Sys2Proof.Machine.execPlotFaultLimit plot s
  | .tenantDrainStart p => Sys2Proof.Machine.execTenantDrainStart p s
  | .tenantSwitch p => Sys2Proof.Machine.execTenantSwitch p s
  | .tenantScrub p external ok => Sys2Proof.Machine.execTenantScrub p external ok s
  | .tenantScrubEnd p => Sys2Proof.Machine.execTenantScrubEnd p s
  | .attReportSign => Sys2Proof.Machine.execAttReportSign s
  | .powerOn r => Sys2Proof.Machine.execPowerOn r s
  | .inputLoss x => Sys2Proof.Machine.execInputLoss x s
  | .vinMarginal mv => Sys2Proof.Machine.execVinMarginal mv s
  | .clockFault => Sys2Proof.Machine.execClockFault s
  | .resetPulse us => Sys2Proof.Machine.execResetPulse us s
  | .capTest v1mv v2mv => Sys2Proof.Machine.execCapTest v1mv v2mv s
  | .vcoreAdjust plot margin => Sys2Proof.Machine.execVcoreAdjust plot margin s
  | .thermalClamp => Sys2Proof.Machine.execThermalClamp s
  | .clampRelease => Sys2Proof.Machine.execClampRelease s
  | .thermalTrip => Sys2Proof.Machine.execThermalTrip s
  | .ingressWindow port classes => Sys2Proof.Machine.execIngressWindow port classes s
  | .roceAckReceived qp psn nak => Sys2Proof.Machine.execRoceAckReceived qp psn nak s
  | .refclkReturn => Sys2Proof.Machine.execRefclkReturn s
  | .transmitOpportunity => Sys2Proof.Machine.execTransmitOpportunity s

end Sys2Proof.Machine
end

