-- ==== Sys2Proof/Safety.lean ====
section
/-! DEFINITION. What a safe run is, in the terms that claims use: memory in its one form, a Step Number in its range, and a step
that answers a next state. -/

namespace Sys2Proof.Machine

/-- The Step Number is in its range, and at its highest value the node holds (R36). -/
def State.stepOk (s : State) : Prop := s.step.number ≤ maxStep ∧ (s.step.number = maxStep → s.step.held = true)

/-- A state that a run may rest on. -/
def State.safe (s : State) : Prop := Memory.wf s.mem = true ∧ s.stepOk

/-- A step from a state answers a next state: it neither faults nor is refused. -/
def State.goesOn (s : State) : Prop := ∃ t, Sys2Proof.Machine.step s = .next t

/-! ### Where a command finds its work -/

/-- A request runs at its home plot: its far context, which the home plot owns, what its near slot holds, and no loss that waits to
end it (R167, R171, R174). -/
def State.atHome (s : State) (tag : Nat) (f : FarCtx) (w : Work) : Prop :=
  (s.farOf tag).map (·.2) = some f ∧ f.owner = 2 ∧ s.workOf tag = some w ∧ s.isLost tag = false

/-- A request's program stands at an instruction on its home plot, and waits for nothing (R189, R192, R218), ATTN_COMBINE for no member's partials
(R225): an encoder's, or one of a generation whose rows a length table covers and whose model has more to run (R220). -/
def State.atProg (s : State) (op : Nat) (ti : TInstr) (tag : Nat) (w : Work) : Prop :=
  (∃ f, s.atHome tag f w ∧ f.phase ∈ [2, 3, 0x21, 0x22, 0x23]) ∧ w.gather = none ∧
    ∃ draft rest, w.prog = ⟨draft, op, ti⟩ :: rest ∧
      ∀ g, w.gen = some g → g.pass.isSome = true ∧ rest.head?.map (·.draft) = some draft ∧ (op = 0x44 → g.asked = 0)

/-- Requests that stand at one instruction of one image's program, each named once: a batch (R185). -/
def State.batchAt (s : State) (op : Nat) (ti : TInstr) (tags : List Nat) : Prop :=
  tags.Nodup ∧ ∃ img, ∀ tag ∈ tags, ∃ w, s.atProg op ti tag w ∧ w.runImage = img

/-- The state after an instruction: every request of the batch has its own result and has moved on, and nothing else of a request nor
any byte of memory has changed. -/
def State.movesOn (s t : State) (ti : TInstr) (tags : List Nat) (out : Nat → Work → Buf) : Prop :=
  (∀ tag w, tag ∈ tags → s.workOf tag = some w →
    t.workOf tag = some { w with bufs := mput w.bufs ti.res (out tag w), lastOut := ti.res, prog := w.prog.drop 1 }) ∧
  (∀ k, k ∉ tags → t.workOf k = s.workOf k) ∧ t.mem = s.mem

/-- An entry of a request that this node serves, with its shard and its epoch (R39). -/
def State.serves (s : State) (w : Work) (pos : Nat) (x : ShardWork) (h : Shard) (e : Epoch) : Prop :=
  w.localAt pos = some x ∧ s.entryOf x = some (h, e)

/-- The bitmaps of a segment can be read: their tilling place, where they have one, took no error, and none of its groups is in FAULT
(R87, R266). -/
def State.bitmapsSound (s : State) (slot seg : Nat) (img : Bytes) : Prop :=
  ∀ b, s.tier.bmaps.find? (fun b => b.slot == slot && b.seg == seg) = some b →
    b.bad = false ∧ ∀ c, c < s.tillGroups → 8192 * c < segVc img → s.tillState ⟨b.plot, c⟩ ≠ 3

/-- The record at the front of a tilling group's FIFO, which is well formed and names an operation, in a group that executes
(R258, R265). -/
def State.atTill (s : State) (g : GroupId) (op : Nat) (r : Bytes) : Prop :=
  s.groupOk g = true ∧ ((s.resumeTill g).tg g).st = 1 ∧ ((s.resumeTill g).tg g).fifo.head? = some r ∧ recOk r = true ∧ u8 r 0 = op

/-- An item is first on the agenda of the boundary phase and falls due (R25). -/
def State.firstDue (s : State) (i : BItem) (rest : List BItem) : Prop := s.step.agenda = i :: rest ∧ s.due i = true

/-- The first item taken off the agenda and run, and those after it up to the next that falls to a command of its own. -/
def State.runFirst (s : State) (rest : List BItem) (f : State → State) : State :=
  let u := f { s with step := { s.step with agenda := rest } }
  u.drain false u.agendaFuel

/-- A slot meets a request at the head of its ring that every row of R168 lets in: the ring serves, holds the whole descriptor, and no
rule refuses or holds it. -/
def State.admits (s : State) (a : AdmSlot) (r : Nat) (q : Ring) (d : Bytes) : Prop :=
  let hd := s.ringSlots 0 r q.log2 q.reqHead 1
  let cpl := mget s.rings (dCplRing d)
  s.admitsRequests = true ∧ a.typ = 0 ∧ s.slotServes a r = true ∧ s.replayFor a r = none ∧ mget s.rings r = some q ∧ q.halted = false ∧
  ringDiff q.sTail q.reqHead ≤ 2 ^ q.log2 ∧ dSlots hd ≠ 0 ∧ dSlots hd ≤ 8192 ∧ dSlots hd ≤ ringDiff q.sTail q.reqHead ∧
  dBody hd ≤ 64 * (dSlots hd - 1) ∧ d = s.ringSlots 0 r q.log2 q.reqHead (dSlots hd) ∧ dKind hd = dKind d ∧ bodyOverrun d = false ∧
  (cpl.map fun c => c.part == q.part) = some true ∧ s.bodyBreach q.part d = none ∧
  (dKind d = 1 → s.searchRefusal (s.searchReq d) (s.searchBody d).merge (dStamp d) = none) ∧
  (dKind d = 3 → s.genRefusal d = none ∧ s.cacheOk q.part (d.drop 64) = true) ∧
  bit (s.ringMask r) (s.reqKind d) = true ∧ bit a.mask (s.reqKind d) = true ∧ (∀ c, cpl = some c → s.descSlots d ≤ 2 ^ c.log2) ∧
  s.slotsLack d = false ∧ s.storeLacks a.plot q.part d = false ∧ s.nearOk a.plot = true ∧ s.farOk (s.farPlot a.plot q.part) = true

/-- What the last row of R168 leaves: a far context in phase ADMIT for the request, its work in the near pool, the ring past its
descriptor. -/
def State.admitted (s t : State) (a : AdmSlot) (r : Nat) (q : Ring) (d : Bytes) : Prop :=
  ∃ c f w, mget t.ledger.fars c = some f ∧ f.tag = mkTag s.step.number a.plot a.typ a.idx ∧ f.owner = 1 ∧ f.phase = 1 ∧ f.kind = dKind d ∧
    f.client = dClient d ∧ f.srcRing = r ∧ f.cplRing = dCplRing d ∧ f.reserved = s.descSlots d ∧ f.home = a.plot ∧
    mget t.ledger.works f.tag = some w ∧ (mget t.rings r).map (·.reqHead) = some ((q.reqHead + dSlots d) % 2 ^ 32)

/-- A request frame that the Hand takes: it serves, the port's link is up, and the frame is addressed to the node, new, of version 1
and authorised (R325, R326). -/
def State.takesFrame (s : State) (svc : Nat) (f : FdpFrame) : Prop :=
  s.handServes = true ∧ s.liveN 0x1020 1 ≠ 0 ∧ f.broadcast = false ∧ mget s.dict.lastTxn f.mac ≠ some f.transaction ∧ f.version = 1 ∧
    s.authOk svc f = true

/-- What taking a frame writes before its service runs: the count of frames, the source's TRANSACTION and, under a management key,
its FRAME_SEQ. -/
def State.tookFrame (s : State) (f : FdpFrame) : State :=
  let s1 := s.bump 0x1020 2 1
  let s2 := { s1 with dict := { s1.dict with lastTxn := mput s1.dict.lastTxn f.mac f.transaction } }
  if f.auth ∧ s.sec.mgmt.isSome then { s2 with dict := { s2.dict with lastSeq := mput s2.dict.lastSeq f.mac f.frameSeq } } else s2

/-- An RDMA operation that its queue pair and its port take: open for it, with its link up and its tag good (R312, R366). -/
def State.takesRdma (s : State) (qp : Nat) (q : QPair) (tagOk : Bool) : Prop :=
  mget s.qps qp = some q ∧ q.ud = false ∧ q.state ≠ 0 ∧ q.state ≠ 3 ∧ s.linkUp q.port = true ∧ q.sealFails tagOk = false

/-- The end of the record at the front of a group's FIFO (R253): it leaves the FIFO, LAST_SEQ, LAST_RESULT and the count of commands
done follow it. -/
def State.tillEnds (s t : State) (g : GroupId) (r : Bytes) (res : Nat) : Prop :=
  (t.tg g).fifo = (s.tg g).fifo.drop 1 ∧ (t.tg g).lastSeq = u16 r 2 ∧ (t.tg g).lastRes = res ∧ (t.tg g).done = (s.tg g).done + 1

/-- Every bank of a record's range holds a row, and no other byte of memory changed. -/
def State.rowWritten (s t : State) (g : GroupId) (r : Bytes) (f : Nat → Bytes) : Prop :=
  (∀ b ∈ bankList r, t.row g b (rDst r) = f b) ∧
  ∀ a, (∀ b ∈ bankList r, a < rowAddr g b (rDst r) ∨ rowAddr g b (rDst r) + 1024 ≤ a) → Memory.read t.mem a = Memory.read s.mem a

/-- The cells of a plot's pool that packets hold, whole ones and those being pushed, which lie in its 2^20 cells (R297). -/
def State.usedCells (s : State) (plot : Nat) : List Nat :=
  (s.queues.filter fun e => e.1 / 65536 == plot).flatMap fun e => e.2.pkts.flatten ++ e.2.open_
def State.cellsFit (s : State) (plot n : Nat) : Prop :=
  (∀ c ∈ s.usedCells plot, c < 1048576) ∧ (s.usedCells plot).length + n ≤ 1048576

/-- The parts of the state, for saying what a command leaves as it is. -/
inductive Part where
  /-- The queue of waiting commands. -/
  | pending
  /-- The Step Number. -/
  | stepNumber
  /-- Whether the node holds. -/
  | stepHeld
  /-- Which sequencer counts. -/
  | stepSequencer
  /-- The throttle tiers in force, asked for and demanded. -/
  | stepClock
  /-- The spill slots used, and what the open step used of its slices and movers. -/
  | stepSpill
  /-- Headland transfers that wait for their retry. -/
  | stepRetries
  /-- What is left of the boundary phase. -/
  | stepAgenda
  /-- Whether steps run and one is open. -/
  | stepOpen
  /-- The plan sets and Seedling service. -/
  | stepPlan
  /-- Which units live. -/
  | nodeUnits
  /-- The Hand. -/
  | nodeHand
  /-- The pools that are out. -/
  | nodePools
  /-- Plot faults scored. -/
  | nodeFaults
  /-- Committed values. -/
  | dictCommitted
  /-- Values in force. -/
  | dictActive
  /-- The node's own values and counters. -/
  | dictLive
  /-- What those read as. -/
  | dictPub
  /-- Resource claims. -/
  | dictClaims
  /-- The durable store. -/
  | dictStore
  /-- Staging sets. -/
  | dictSets
  /-- The field network's transfers and frames. -/
  | dictProtocol
  /-- Commits that wait. -/
  | dictCommits
  /-- Results and reports per source. -/
  | dictResults
  /-- The event ring. -/
  | evRing
  /-- Records raised in this step, and the boot log. -/
  | evRaised
  /-- Conditions reported once per run. -/
  | evRuns
  /-- The bytes of the stacks, the window and the staging areas, below 4 * 2 ^ 60. -/
  | memField
  /-- The bytes of the rings. -/
  | memRings
  /-- The bytes of the cell pools. -/
  | memCells
  /-- The rows of the tilling banks. -/
  | memRows
  /-- The ring pairs. -/
  | rings
  /-- Far contexts. -/
  | fars
  /-- Stubs. -/
  | stubs
  /-- Near slots, and the length tables of passes. -/
  | works
  /-- Replay copies. -/
  | copies
  /-- Losses and replays that wait. -/
  | waits
  /-- The root queue. -/
  | roots
  /-- Audit passes, and the sweeps done. -/
  | audits
  /-- Sub-searches that wait, and those seen. -/
  | subQ
  /-- Shards, segments and deltas. -/
  | shards
  /-- The update log. -/
  | log
  /-- Dies, blocks, channels and the units they hold. -/
  | flashDies
  /-- The map, its journal and the system blocks. -/
  | flashMap
  /-- Extents and log pages, and what of them is due or verified. -/
  | flashExtents
  /-- The flush: its time and record, and a format asked for. -/
  | flashReserve
  /-- Flash warnings. -/
  | flashHealth
  /-- Pages allocated, and where raw rows are placed. -/
  | tierAlloc
  /-- Frames, read counts, promotions and frames lent. -/
  | tierFrames
  /-- Row errors and repairs, and what of them the tilling groups report. -/
  | tierRows
  /-- Segments that leave service. -/
  | tierOutQ
  /-- Codebooks. -/
  | codebooks
  /-- Model slots. -/
  | models
  /-- Kept caches. -/
  | caches
  /-- Tensor arrays. -/
  | arrays
  /-- Embedding tables. -/
  | embs
  /-- Tilling groups. -/
  | tills
  /-- Cell-pool queues. -/
  | queues
  /-- Egress queues and what left. -/
  | tx
  /-- Queue pairs. -/
  | qps
  /-- Hedge ports. -/
  | hedge
  /-- Ethernet ports. -/
  | eth
  /-- Traffic ports. -/
  | traf
  /-- Keys, firmware and reports to sign. -/
  | sec
  /-- Partitions. -/
  | parts
  /-- The phase of power and bring-up. -/
  | boot
  /-- Power, clamp, core voltages. -/
  | power
  /-- The answer to the last RDMA operation. -/
  | resp
  /-- The model's free-value counter. -/
  | freeCtr
  deriving DecidableEq, Repr

/-- A part of the state reads in `t` as it does in `s`. -/
def Part.same (s t : State) : Part → Prop
  | .pending => t.pending = s.pending
  | .stepNumber => t.step.number = s.step.number
  | .stepHeld => (t.step.held, t.step.limit) = (s.step.held, s.step.limit)
  | .stepSequencer => t.step.sequencer = s.step.sequencer
  | .stepClock => (t.step.tier, t.step.admTier, t.step.wantTier, t.step.tierAt, t.step.planTier, t.step.stretch, t.step.noAdmit, t.step.demand) = (s.step.tier, s.step.admTier, s.step.wantTier, s.step.tierAt, s.step.planTier, s.step.stretch, s.step.noAdmit, s.step.demand)
  | .stepSpill => (t.step.spill, t.step.used, t.step.movers) = (s.step.spill, s.step.used, s.step.movers)
  | .stepRetries => t.step.retries = s.step.retries
  | .stepAgenda => t.step.agenda = s.step.agenda
  | .stepOpen => (t.step.running, t.step.open_) = (s.step.running, s.step.open_)
  | .stepPlan => (t.step.plan, t.step.activated, t.step.staged, t.step.armed, t.step.draining, t.step.seedling) = (s.step.plan, s.step.activated, s.step.staged, s.step.armed, s.step.draining, s.step.seedling)
  | .nodeUnits => (t.node.plots, t.node.tillers, t.node.gates, t.node.bars, t.node.strings, t.node.gateStrings, t.node.retired, t.node.restart) = (s.node.plots, s.node.tillers, s.node.gates, s.node.bars, s.node.strings, s.node.gateStrings, s.node.retired, s.node.restart)
  | .nodeHand => (t.node.handDie, t.node.handAlive, t.node.altStarting, t.node.g0Lost) = (s.node.handDie, s.node.handAlive, s.node.altStarting, s.node.g0Lost)
  | .nodePools => (t.node.nearOut, t.node.farOut) = (s.node.nearOut, s.node.farOut)
  | .nodeFaults => t.node.faults = s.node.faults
  | .dictCommitted => t.dict.committed = s.dict.committed
  | .dictActive => t.dict.active = s.dict.active
  | .dictLive => t.dict.live = s.dict.live
  | .dictPub => t.dict.pub = s.dict.pub
  | .dictClaims => t.dict.claims = s.dict.claims
  | .dictStore => t.dict.store = s.dict.store
  | .dictSets => t.dict.sets = s.dict.sets
  | .dictProtocol => (t.dict.xfers, t.dict.lastTxn, t.dict.lastResp, t.dict.resp, t.dict.sent, t.dict.lastSeq, t.dict.expired) = (s.dict.xfers, s.dict.lastTxn, s.dict.lastResp, s.dict.resp, s.dict.sent, s.dict.lastSeq, s.dict.expired)
  | .dictCommits => t.dict.commits = s.dict.commits
  | .dictResults => t.dict.results = s.dict.results
  | .evRing => (t.ev.ring, t.ev.records, t.ev.produced, t.ev.consumed, t.ev.lost, t.ev.lostRun, t.ev.notices) = (s.ev.ring, s.ev.records, s.ev.produced, s.ev.consumed, s.ev.lost, s.ev.lostRun, s.ev.notices)
  | .evRaised => (t.ev.raised, t.ev.boot) = (s.ev.raised, s.ev.boot)
  | .evRuns => t.ev.runs = s.ev.runs
  | .memField => ∀ a, a < 4 * 2 ^ 60 → Memory.read t.mem a = Memory.read s.mem a
  | .memRings => ∀ a, 4 * 2 ^ 60 ≤ a → a < 5 * 2 ^ 60 → Memory.read t.mem a = Memory.read s.mem a
  | .memCells => ∀ a, 5 * 2 ^ 60 ≤ a → a < 2 ^ 64 → Memory.read t.mem a = Memory.read s.mem a
  | .memRows => ∀ a, 2 ^ 64 ≤ a → Memory.read t.mem a = Memory.read s.mem a
  | .rings => t.rings = s.rings
  | .fars => t.ledger.fars = s.ledger.fars
  | .stubs => t.ledger.stubs = s.ledger.stubs
  | .works => (t.ledger.works, t.ledger.lens) = (s.ledger.works, s.ledger.lens)
  | .copies => t.ledger.copies = s.ledger.copies
  | .waits => (t.ledger.losses, t.ledger.replays) = (s.ledger.losses, s.ledger.replays)
  | .roots => (t.ledger.rootQ, t.ledger.published) = (s.ledger.rootQ, s.ledger.published)
  | .audits => (t.ledger.audits, t.ledger.swept) = (s.ledger.audits, s.ledger.swept)
  | .subQ => (t.ledger.subQ, t.ledger.subSeen) = (s.ledger.subQ, s.ledger.subSeen)
  | .shards => t.shards = s.shards
  | .log => t.log = s.log
  | .flashDies => (t.flash.dies, t.flash.chans, t.flash.units) = (s.flash.dies, s.flash.chans, s.flash.units)
  | .flashMap => (t.flash.map, t.flash.pend, t.flash.journal, t.flash.jpages, t.flash.ckptNext, t.flash.ckpt, t.flash.writeSeq, t.flash.logSeq, t.flash.sys) = (s.flash.map, s.flash.pend, s.flash.journal, s.flash.jpages, s.flash.ckptNext, s.flash.ckpt, s.flash.writeSeq, s.flash.logSeq, s.flash.sys)
  | .flashExtents => (t.flash.extents, t.flash.logPages, t.flash.due, t.flash.verified) = (s.flash.extents, s.flash.logPages, s.flash.due, s.flash.verified)
  | .flashReserve => (t.flash.flushUs, t.flash.flushRec, t.flash.format) = (s.flash.flushUs, s.flash.flushRec, s.flash.format)
  | .flashHealth => t.flash.warned = s.flash.warned
  | .tierAlloc => (t.tier.alloc, t.tier.bmaps, t.tier.places) = (s.tier.alloc, s.tier.bmaps, s.tier.places)
  | .tierFrames => (t.tier.frames, t.tier.counts, t.tier.demote, t.tier.promos, t.tier.wrote, t.tier.copied, t.tier.winAt, t.tier.landing, t.tier.lent) = (s.tier.frames, s.tier.counts, s.tier.demote, s.tier.promos, s.tier.wrote, s.tier.copied, s.tier.winAt, s.tier.landing, s.tier.lent)
  | .tierRows => (t.tier.rowCe, t.tier.repairs, t.tier.rebuild, t.tier.planBad, t.tier.scrubAt, t.tier.tm) = (s.tier.rowCe, s.tier.repairs, s.tier.rebuild, s.tier.planBad, s.tier.scrubAt, s.tier.tm)
  | .tierOutQ => t.tier.outQ = s.tier.outQ
  | .codebooks => t.codebooks = s.codebooks
  | .models => t.models = s.models
  | .caches => (t.caches, t.nextCache) = (s.caches, s.nextCache)
  | .arrays => t.arrays = s.arrays
  | .embs => (t.embs, t.embWinAt) = (s.embs, s.embWinAt)
  | .tills => t.tills = s.tills
  | .queues => t.queues = s.queues
  | .tx => (t.tx, t.sent) = (s.tx, s.sent)
  | .qps => t.qps = s.qps
  | .hedge => t.hedge = s.hedge
  | .eth => t.eth = s.eth
  | .traf => t.traf = s.traf
  | .sec => t.sec = s.sec
  | .parts => t.parts = s.parts
  | .boot => (t.pwr.boot, t.pwr.good, t.pwr.flushN, t.pwr.term, t.pwr.test) = (s.pwr.boot, s.pwr.good, s.pwr.flushN, s.pwr.term, s.pwr.test)
  | .power => (t.pwr.pin, t.pwr.demand, t.pwr.calm, t.pwr.clamp, t.pwr.cool, t.pwr.vcore, t.pwr.capAt, t.pwr.short) = (s.pwr.pin, s.pwr.demand, s.pwr.calm, s.pwr.clamp, s.pwr.cool, s.pwr.vcore, s.pwr.capAt, s.pwr.short)
  | .resp => t.resp = s.resp
  | .freeCtr => t.freeCtr = s.freeCtr

/-! ### What each command touches -/

/-- The parts that may change with an event that is raised. -/
def Part.ofEvent : List Part :=
  [.nodeFaults, .dictLive, .evRaised]

/-- The parts that may change with a request or sub-request that a check ends, with its completion, its loss or its replay. -/
def Part.ofCheck : List Part :=
  Part.ofEvent ++ [.memRings, .rings, .fars, .stubs, .works, .copies, .waits, .audits, .caches, .queues, .tx, .eth]

/-- The parts that may change with a loss of power: all but the durable parts. -/
def Part.ofPowerDown : List Part :=
  Part.ofCheck ++ [.stepNumber, .stepHeld, .stepSequencer, .stepClock, .stepSpill, .stepRetries, .stepAgenda, .stepOpen, .stepPlan,
      .nodeUnits, .nodeHand, .nodePools, .dictCommitted, .dictActive, .dictPub, .dictClaims, .dictSets, .dictProtocol, .dictCommits,
      .dictResults, .evRing, .evRuns, .memField, .memCells, .memRows, .roots, .subQ, .flashDies, .flashMap, .flashExtents, .flashHealth,
      .tierAlloc, .tierFrames, .tierRows, .tierOutQ, .codebooks, .models, .arrays, .embs, .tills, .qps, .hedge, .traf, .sec, .parts,
      .boot, .power, .resp]

/-- The parts that may change with an item of the boundary phase, whichever items its command runs. -/
def Part.ofAgenda : List Part :=
  Part.ofCheck ++ [.stepClock, .stepRetries, .stepAgenda, .stepPlan, .nodeUnits, .nodePools, .dictActive, .dictPub, .dictResults, .evRuns,
      .memCells, .roots, .subQ, .shards, .log, .flashMap, .flashExtents, .tierAlloc, .tierFrames, .tierRows, .tierOutQ, .models, .embs,
      .tills, .qps, .sec, .parts, .power, .freeCtr]

/-- The parts of the state that a command may change; every other part reads as before after it. -/
def footprint (i : Instr) : List Part :=
  match i with
  | .stepBoundary => Part.ofAgenda ++ [.stepNumber, .stepHeld, .stepSpill, .stepOpen, .dictCommitted, .dictClaims, .dictStore, .dictSets,
      .dictProtocol, .dictCommits, .evRing, .memField, .memRows, .flashDies, .flashReserve, .codebooks, .hedge, .boot]
  | .stepClose .. => Part.ofPowerDown ++ [.dictStore, .shards, .log, .flashReserve, .freeCtr]
  | .engineSlot .. => Part.ofCheck ++ [.stepSpill]
  | .headlandTransfer .. => [.stepRetries]
  | .headlandRetry .. => Part.ofCheck ++ [.stepRetries]
  | .stepNumberLimit => Part.ofEvent ++ [.stepHeld]
  | .planDrainStart => Part.ofAgenda
  | .planSetActivate => Part.ofAgenda
  | .tierChangeRequest .. => Part.ofEvent ++ [.stepClock]
  | .tierClockChange => Part.ofEvent ++ [.stepClock, .power]
  | .tierStretch .. => Part.ofEvent ++ [.stepClock]
  | .handWatchdogExpiry => Part.ofEvent ++ [.nodeHand]
  | .g0Loss => Part.ofCheck ++ [.stepHeld, .stepSequencer, .nodeUnits, .nodeHand, .shards, .flashDies, .tierOutQ, .qps, .hedge]
  | .barLoss .. => Part.ofEvent ++ [.nodeUnits]
  | .stringLoss .. => Part.ofEvent ++ [.nodeUnits]
  | .gateDieLoss .. => Part.ofCheck ++ [.stepHeld, .stepSequencer, .nodeUnits, .nodeHand, .shards, .flashDies, .tierOutQ, .qps, .hedge]
  | .alternateHandTakeover .. => Part.ofEvent ++ [.nodeHand, .dictSets, .dictProtocol, .dictCommits, .sec]
  | .agentRestart .. => Part.ofEvent ++ [.nodeUnits]
  | .hostRdmaWrite .. => Part.ofEvent ++ [.dictSets, .dictCommits, .evRing, .evRuns, .memField, .memRings, .memCells, .memRows, .rings,
      .tierAlloc, .tierFrames, .tierRows, .tierOutQ, .tills, .tx, .eth, .resp]
  | .hostRdmaRead .. => Part.ofEvent ++ [.evRuns, .tierFrames, .tx, .resp, .freeCtr]
  | .eventConsumedWrite .. => Part.ofEvent ++ [.evRing, .resp]
  | .search => Part.ofAgenda
  | .queryPrepare .. => Part.ofCheck ++ [.stepSpill, .shards, .tierFrames, .tierRows, .embs]
  | .tableBuild .. => Part.ofCheck ++ [.stepSpill, .shards, .tierFrames, .tierRows, .embs]
  | .segmentWalk .. => Part.ofCheck ++ [.stepSpill, .shards, .tierFrames, .tierRows, .embs]
  | .fullScan .. => Part.ofCheck ++ [.stepSpill, .shards, .tierFrames, .tierRows, .embs]
  | .deltaScan .. => Part.ofCheck ++ [.stepSpill, .shards, .tierFrames, .tierRows, .embs]
  | .enumeration .. => Part.ofCheck ++ [.stepSpill, .shards, .tierFrames, .tierRows, .embs]
  | .bitmapFilterEval .. => Part.ofCheck ++ [.tierAlloc]
  | .rerankSelect .. => Part.ofCheck ++ [.stepSpill, .shards, .tierFrames, .tierRows, .embs]
  | .rerank .. => Part.ofCheck ++ [.stepSpill, .shards, .tierFrames, .tierRows, .embs]
  | .widenedPass .. => Part.ofCheck
  | .winnowerPass .. => Part.ofCheck ++ [.stepSpill, .shards, .tierFrames, .tierRows, .embs]
  | .shardResult .. => Part.ofCheck ++ [.stepSpill, .shards, .tierFrames, .tierRows, .embs]
  | .merge .. => Part.ofCheck ++ [.stepSpill, .shards, .tierFrames, .tierRows, .embs]
  | .remoteWaitExpiry .. => Part.ofCheck
  | .certify .. => Part.ofCheck ++ [.stepSpill, .shards, .tierFrames, .tierRows, .embs]
  | .completionWrite .. => Part.ofCheck ++ [.roots]
  | .auditPass .. => Part.ofCheck ++ [.stepSpill, .shards, .tierFrames, .tierRows, .embs]
  | .rootRequest .. => Part.ofCheck ++ [.stepSpill, .shards, .tierFrames, .tierRows, .embs]
  | .rootQueueDrain => [.memRings, .rings, .roots, .tx, .eth]
  | .subSearch .. => [.subQ]
  | .shardList .. => Part.ofCheck
  | .certFields .. => [.works]
  | .insert .. => Part.ofEvent ++ [.works, .shards, .log, .tierAlloc, .tierFrames, .tierRows, .tierOutQ, .tx]
  | .delete .. => Part.ofEvent ++ [.works, .shards, .log, .tierAlloc, .tierFrames, .tierRows, .tierOutQ, .tx]
  | .replace .. => Part.ofEvent ++ [.works, .shards, .log, .tierAlloc, .tierFrames, .tierRows, .tierOutQ, .tx]
  | .logRecords .. => Part.ofEvent ++ [.shards, .log, .tx]
  | .replicaApply .. => Part.ofEvent ++ [.evRuns, .shards, .tierAlloc, .tierFrames, .tierRows, .tierOutQ]
  | .logAck .. => [.fars, .shards]
  | .logResend .. => Part.ofEvent ++ [.tx]
  | .deltaOpen .. => Part.ofAgenda
  | .sealFreeze .. => Part.ofAgenda
  | .sealBuild .. => Part.ofCheck ++ [.stepSpill, .shards, .tierAlloc, .tierFrames, .tierRows, .embs]
  | .sealWrite .. => [.stepSpill, .shards, .flashDies, .flashMap, .flashExtents]
  | .sealSwitch .. => Part.ofAgenda
  | .segmentImage .. => Part.ofEvent ++ [.shards, .tierAlloc]
  | .replicaEpochSwitch .. => Part.ofAgenda
  | .compactionChoose .. => Part.ofAgenda
  | .compactionBuild .. => Part.ofCheck ++ [.stepSpill, .shards, .tierAlloc, .tierFrames, .tierRows, .embs]
  | .compactionSwitch .. => Part.ofAgenda
  | .epochRelease .. => Part.ofAgenda
  | .logTrim => [.log, .flashMap, .flashExtents]
  | .take .. => Part.ofCheck
  | .release .. => Part.ofCheck
  | .auditSweep .. => Part.ofCheck
  | .poolLoss .. => Part.ofEvent ++ [.nodeUnits, .nodePools, .rings, .fars, .stubs, .works, .copies, .waits, .audits, .caches, .queues]
  | .replay .. => Part.ofAgenda
  | .gemm .. => Part.ofCheck ++ [.stepSpill, .shards, .tierFrames, .tierRows, .arrays, .embs]
  | .loadScales .. => [.works, .arrays]
  | .swapScales .. => [.works, .arrays]
  | .ewise .. => Part.ofCheck ++ [.stepSpill, .shards, .tierFrames, .tierRows, .arrays, .embs]
  | .act .. => Part.ofCheck ++ [.stepSpill, .shards, .tierFrames, .tierRows, .arrays, .embs]
  | .norm .. => Part.ofCheck ++ [.stepSpill, .shards, .tierFrames, .tierRows, .arrays, .embs]
  | .softmax .. => Part.ofCheck ++ [.stepSpill, .shards, .tierFrames, .tierRows, .arrays, .embs]
  | .pool .. => Part.ofCheck ++ [.stepSpill, .shards, .tierFrames, .tierRows, .arrays, .embs]
  | .convert .. => [.dictLive, .works, .arrays]
  | .embGather .. => Part.ofCheck ++ [.tierFrames, .embs]
  | .clipDump .. => Part.ofEvent ++ [.works, .arrays]
  | .kvAppend .. => [.dictLive, .works, .arrays]
  | .ropeQ .. => [.dictLive, .works, .arrays]
  | .attnMax .. => [.works]
  | .attnPage .. => [.dictLive, .works, .arrays, .tx]
  | .attnCombine .. => [.dictLive, .works, .arrays]
  | .tillMatvec .. => Part.ofCheck ++ [.stepSpill, .shards, .tierFrames, .tierRows, .embs, .tills]
  | .tokenChoose .. => [.works]
  | .verify .. => Part.ofEvent ++ [.rings, .fars, .stubs, .works, .copies, .caches, .tx]
  | .modelDrainStart .. => Part.ofAgenda
  | .modelActivate .. => Part.ofAgenda
  | .gradientBatch .. => Part.ofEvent ++ [.embs, .tx]
  | .trainStepApply .. => Part.ofEvent ++ [.stepSpill, .tierAlloc, .tierFrames, .tierRows, .tierOutQ, .embs]
  | .trainWaitExpiry .. => Part.ofEvent ++ [.embs]
  | .runningSums .. => Part.ofEvent ++ [.embs, .tx]
  | .embRows .. => Part.ofCheck ++ [.tierFrames, .embs]
  | .loadWindowEnd => Part.ofAgenda
  | .embShardCopy .. => [.stepSpill, .embs]
  | .embShardSwitch .. => Part.ofAgenda
  | .generate => Part.ofAgenda
  | .genPlace .. => Part.ofCheck
  | .prefill .. => Part.ofCheck ++ [.stepSpill, .shards, .tierFrames, .tierRows, .embs]
  | .decode .. => Part.ofCheck ++ [.stepSpill, .shards, .tierFrames, .tierRows, .embs, .freeCtr]
  | .score .. => Part.ofCheck ++ [.stepSpill, .shards, .tierFrames, .tierRows, .embs]
  | .pagePartials .. => Part.ofCheck ++ [.tierFrames]
  | .cacheRetainExpiry .. => Part.ofEvent ++ [.caches, .tx]
  | .placementWindowEnd => Part.ofAgenda
  | .pageDemote => Part.ofAgenda
  | .promotionCopy .. => Part.ofEvent ++ [.stepSpill, .tierAlloc, .tierFrames, .tierRows, .tierOutQ]
  | .promotionSwitch .. => Part.ofAgenda
  | .refreshSlice .. => []
  | .scrubSlice .. => Part.ofEvent ++ [.stepSpill, .nodeUnits, .nodePools, .rings, .fars, .stubs, .works, .copies, .waits, .audits,
      .shards, .tierFrames, .tierRows, .caches, .embs, .queues, .freeCtr]
  | .rowRepair .. => Part.ofEvent ++ [.tierRows]
  | .segmentLoad .. => Part.ofEvent ++ [.shards, .tierAlloc, .tierOutQ]
  | .pageReload .. => Part.ofEvent ++ [.shards, .tierOutQ]
  | .segmentRefetch .. => Part.ofEvent ++ [.shards, .flashMap, .flashExtents, .tierAlloc]
  | .tillingEnter .. => [.tierRows, .tills]
  | .tillingRun .. => Part.ofCheck ++ [.tills]
  | .tillingExit .. => Part.ofCheck ++ [.tierRows, .tills]
  | .tillingLoad .. => Part.ofCheck ++ [.memRows, .tierAlloc, .tierRows, .models]
  | .tmAckTimeout .. => Part.ofCheck ++ [.tills]
  | .tillCommandWrite .. => Part.ofEvent ++ [.tills]
  | .nop .. => Part.ofCheck ++ [.tills]
  | .tillingRefreshDue .. => Part.ofEvent ++ [.tills]
  | .rowCopy .. => Part.ofCheck ++ [.memRows, .tills]
  | .rowClear .. => Part.ofCheck ++ [.memRows, .tills]
  | .writeRow .. => Part.ofCheck ++ [.memRows, .tills]
  | .readRow .. => Part.ofCheck ++ [.stepSpill, .shards, .tierAlloc, .tierFrames, .tierRows, .models, .embs, .tills]
  | .tillAnd .. => Part.ofCheck ++ [.memRows, .tills, .freeCtr]
  | .tillOr .. => Part.ofCheck ++ [.memRows, .tills, .freeCtr]
  | .tillNot .. => Part.ofCheck ++ [.memRows, .tills, .freeCtr]
  | .tillXor .. => Part.ofCheck ++ [.memRows, .tills, .freeCtr]
  | .ewAdd .. => Part.ofCheck ++ [.memRows, .tills]
  | .ewMul .. => Part.ofCheck ++ [.memRows, .tills]
  | .ewAct .. => Part.ofCheck ++ [.memRows, .tills]
  | .matvec .. => Part.ofCheck ++ [.stepSpill, .shards, .tierFrames, .tierRows, .models, .embs, .tills, .freeCtr]
  | .flashRead .. => Part.ofCheck ++ [.stepSpill, .flashDies, .flashMap, .tierOutQ]
  | .logWrite .. => Part.ofEvent ++ [.stepSpill, .evRuns, .log, .flashDies, .flashMap, .flashExtents]
  | .logPageTimeout => [.flashExtents]
  | .imageWrite .. => Part.ofEvent ++ [.stepSpill, .shards, .flashDies, .flashMap, .flashExtents]
  | .mapCheckpoint .. => [.stepSpill, .flashDies, .flashMap]
  | .gcCopy .. => Part.ofEvent ++ [.stepSpill, .evRuns, .flashDies, .flashMap, .flashReserve, .tierOutQ]
  | .flashScrub .. => Part.ofEvent ++ [.stepSpill, .flashDies, .flashMap, .flashReserve, .flashHealth, .tierOutQ]
  | .flashDieLoss .. => Part.ofEvent ++ [.flashDies, .tierOutQ]
  | .nandRailOvercurrent .. => Part.ofEvent ++ [.flashDies, .tierOutQ]
  | .copy .. => Part.ofCheck ++ [.stepSpill, .memField, .memCells, .memRows, .shards, .flashDies, .flashMap, .flashReserve, .tierAlloc,
      .tierFrames, .tierRows, .tierOutQ, .embs, .tills, .freeCtr]
  | .transpose .. => Part.ofCheck ++ [.stepSpill, .memField, .memCells, .memRows, .shards, .flashDies, .flashMap, .flashReserve,
      .tierAlloc, .tierFrames, .tierRows, .tierOutQ, .embs, .tills, .freeCtr]
  | .untranspose .. => Part.ofCheck ++ [.stepSpill, .memField, .memCells, .memRows, .shards, .flashDies, .flashMap, .flashReserve,
      .tierAlloc, .tierFrames, .tierRows, .tierOutQ, .embs, .tills, .freeCtr]
  | .gather .. => Part.ofCheck ++ [.stepSpill, .memField, .memCells, .memRows, .shards, .flashDies, .flashMap, .flashReserve, .tierAlloc,
      .tierFrames, .tierRows, .tierOutQ, .embs, .tills, .freeCtr]
  | .scatter .. => Part.ofCheck ++ [.stepSpill, .memField, .memCells, .memRows, .shards, .flashDies, .flashMap, .flashReserve, .tierAlloc,
      .tierFrames, .tierRows, .tierOutQ, .embs, .tills, .freeCtr]
  | .cellPush .. => Part.ofEvent ++ [.memCells, .queues]
  | .cellPop .. => Part.ofCheck ++ [.memCells]
  | .queueFlushApply .. => [.queues]
  | .laneFailure .. => Part.ofEvent ++ [.hedge]
  | .laneSwap .. => Part.ofEvent ++ [.hedge]
  | .laneRetrain .. => Part.ofEvent ++ [.hedge]
  | .portRecovery .. => Part.ofEvent ++ [.shards, .tx, .hedge]
  | .portTraining .. => Part.ofEvent ++ [.shards, .tx, .hedge, .freeCtr]
  | .portReup .. => [.dictLive]
  | .dataFlit .. => Part.ofCheck ++ [.subQ, .shards, .log, .flashMap, .flashExtents, .tierAlloc, .tierFrames, .embs, .hedge]
  | .retry .. => Part.ofEvent ++ [.hedge]
  | .ack .. => [.hedge]
  | .peerId .. => [.dictLive]
  | .replayTimeout .. => Part.ofEvent ++ [.hedge]
  | .rejoinLoad .. => Part.ofEvent ++ [.shards, .log, .tierAlloc, .tx]
  | .ethLinkDown .. => Part.ofEvent ++ [.eth]
  | .ethLinkUp .. => Part.ofEvent ++ [.eth]
  | .ethFailover .. => Part.ofEvent ++ [.tx, .qps, .eth]
  | .cmMessage .. => [.tx, .qps, .freeCtr]
  | .roceRefusedOpcode .. => Part.ofEvent ++ [.tx]
  | .cnpReceive .. => [.qps]
  | .ceMarkedPacket .. => [.tx, .qps]
  | .pfcPause .. => [.eth]
  | .arpNdEcho .. => [.tx, .eth]
  | .roceAckTimeout .. => Part.ofEvent ++ [.tx, .qps, .eth]
  | .shaperRefill .. => [.qps, .traf]
  | .egressWindow .. => [.tx, .qps, .hedge, .traf]
  | .gateListTakeover .. => Part.ofAgenda
  | .readExpedited .. => Part.ofEvent ++ [.dictProtocol]
  | .writeExpedited .. => Part.ofEvent ++ [.dictSets, .dictProtocol, .dictCommits]
  | .readInit .. => Part.ofEvent ++ [.dictProtocol]
  | .writeInit .. => Part.ofEvent ++ [.dictSets, .dictProtocol, .dictCommits, .sec, .boot]
  | .segment .. => Part.ofEvent ++ [.dictSets, .dictProtocol, .dictCommits, .sec, .boot]
  | .abort .. => Part.ofEvent ++ [.dictProtocol]
  | .commit .. => Part.ofEvent ++ [.dictSets, .dictProtocol, .dictCommits]
  | .discard .. => Part.ofEvent ++ [.dictSets, .dictProtocol]
  | .transferIdleExpiry .. => Part.ofEvent ++ [.dictProtocol]
  | .mirrorStagingWrite .. => Part.ofEvent ++ [.dictSets, .dictCommits, .resp]
  | .dictCommit .. => Part.ofEvent ++ [.dictSets, .dictCommits, .resp]
  | .dictDiscard .. => Part.ofEvent ++ [.dictSets, .dictCommits, .resp]
  | .commitApply => Part.ofEvent ++ [.stepPlan, .dictCommitted, .dictActive, .dictClaims, .dictStore, .dictSets, .dictProtocol,
      .dictCommits, .dictResults, .memRings, .rings, .shards, .flashReserve, .codebooks, .models, .embs, .queues, .tx, .qps, .sec, .parts,
      .boot]
  | .rejoinTestEnd .. => Part.ofEvent ++ [.boot]
  | .rejoinLoaded .. => Part.ofAgenda
  | .rejoinAdmit => Part.ofAgenda
  | .plotFaultLimit .. => Part.ofAgenda
  | .tenantDrainStart .. => Part.ofAgenda
  | .tenantSwitch .. => Part.ofAgenda
  | .tenantScrub .. => Part.ofEvent ++ [.stepSpill, .memField, .memRings, .memCells, .memRows, .tierFrames, .arrays, .tills, .queues,
      .parts]
  | .tenantScrubEnd .. => Part.ofAgenda
  | .attReportSign => Part.ofEvent ++ [.dictResults, .sec]
  | .powerOn .. => Part.ofPowerDown ++ [.shards, .log, .flashReserve]
  | .inputLoss .. => Part.ofPowerDown ++ [.log, .flashReserve]
  | .vinMarginal .. => Part.ofEvent ++ [.stepClock, .evRuns]
  | .clockFault => Part.ofPowerDown ++ [.log, .flashReserve]
  | .resetPulse .. => Part.ofPowerDown ++ [.log, .flashReserve]
  | .capTest .. => Part.ofEvent ++ [.power]
  | .vcoreAdjust .. => Part.ofEvent ++ [.stepClock, .power]
  | .thermalClamp => Part.ofEvent ++ [.power]
  | .clampRelease => Part.ofEvent ++ [.stepClock, .power]
  | .thermalTrip => Part.ofPowerDown ++ [.log, .flashReserve]
  | .ingressWindow .. => Part.ofEvent ++ [.dictSets, .dictCommits, .evRing, .memField, .memRings, .memCells, .memRows, .rings, .tierAlloc,
      .tierFrames, .tierRows, .tierOutQ, .tills, .tx, .eth, .resp]
  | .roceAckReceived .. => Part.ofEvent ++ [.tx, .qps, .eth]
  | .refclkReturn => [.boot]
  | .transmitOpportunity => [.dictLive, .dictProtocol]

end Sys2Proof.Machine
end

