-- ==== Sys2Proof/Certificates/Slice0/Obligations.lean ====
section
/-! DEFINITION. The statements about the model, for the provers: rule by rule of the spec, family by family of the table. -/

open Sys2Proof Sys2Proof.Machine

/-- One step of the block (the model's own convention of a queue of commands, log entries 2 and 3). -/
def Obligations.StepRunsTheFrontCommand : Prop :=
  (∀ (c : Instr) (s : State) (rest : List Instr), step { s with pending := c :: rest } = exec c { s with pending := rest }) ∧
  (∀ s : State, s.pending = [] → step s = .next s) ∧
  ∀ (c d : Instr) (s t : State) (rest : List Instr), s.pending = c :: d :: rest → exec c { s with pending := d :: rest } = .next t →
    step s = .next t ∧ step t = exec d { t with pending := rest }

/-- The state after reset meets the model's invariants, and nothing is in service (R36, R378). -/
def Obligations.ResetLeavesNothingInService : Prop :=
  State.reset.safe ∧ State.reset.pending = [] ∧ State.reset.mem = [] ∧ State.reset.rings = [] ∧ State.reset.shards = [] ∧
    State.reset.qps = [] ∧ State.reset.step.number = 0 ∧ State.reset.step.running = false ∧ State.reset.pwr.boot = .off ∧
    ∀ a, Memory.read State.reset.mem a = 0

/-- Every step keeps the memory's canonical form (the model's form of R20's address space). -/
def Obligations.MemoryStaysCanonical : Prop :=
  ∀ s t : State, Memory.wf s.mem = true → step s = .next t → Memory.wf t.mem = true

/-- Every step keeps the Step Number in its range, and only a boundary raises it, by one (R36). -/
def Obligations.StepNumberStaysInRange : Prop :=
  (∀ s t : State, s.stepOk → step s = .next t → t.stepOk) ∧
  ∀ (c : Instr) (s t : State), exec c s = .next t → t.step.number = s.step.number ∨ t.step.number = 0 ∨
    (c = .stepBoundary ∧ t.step.number = s.step.number + 1 ∧ s.step.held = false)

/-- Every step answers a next state, and takes no other command off the queue. -/
def Obligations.EveryStepGoesOn : Prop :=
  (∀ s : State, s.goesOn) ∧ ∀ (s t : State) (c : Instr) (rest : List Instr), s.pending = c :: rest → step s = .next t → t.pending = rest

/-- The frame of every command: the parts outside its footprint, which Safety.lean lists command by command, are as before. -/
def Obligations.CommandsKeepTheirFrame : Prop :=
  ∀ (c : Instr) (s t : State) (f : Part), Memory.wf s.mem = true → exec c s = .next t → f ∉ footprint c → f.same s t

/-- A selection of k keys (R98), by passes of the digit rounds of R97. -/
def Obligations.WinnowerSelectsSmallestKeys : Prop :=
  ∀ (keys : List Nat) (k : Nat), 1 ≤ k → k ≤ 1024 → keys.Nodup → (∀ x ∈ keys, x < 2 ^ 96 ∧ x / 2 ^ 48 % 2 ^ 16 = 0) →
    let out := winnowSelect keys (ceilDiv k 64) k none
    out.Pairwise (· < ·) ∧ out.length = min k keys.length ∧ (∀ x ∈ out, x ∈ keys) ∧ ∀ x ∈ keys, x ∉ out → ∀ y ∈ out, y < x

/-- Once per run is once at the first step of a run (R388), over any ascending list of the steps in which the condition holds. -/
def Obligations.OncePerRunMeansItsFirstStep : Prop :=
  ∀ (s : State) (code unit loc detail : Nat) (steps : List Nat), s.step.running = true → steps.Pairwise (· < ·) →
    (∀ n ∈ steps, ∀ m, mget s.ev.runs (code * 2 ^ 64 + unit) = some m → m + 1 < n) →
    let at_ := fun (u : State) (n : Nat) => ({ u with step := { u.step with number := n } } : State)
    let t := steps.foldl (fun u n => (at_ u n).raiseRun code unit loc none detail) s
    t.ev.raised.map (·.stepNo) = s.ev.raised.map (·.stepNo) ++ steps.filter (fun n => !steps.any fun m => m + 1 == n) ∧
      (∀ r ∈ t.ev.raised.drop s.ev.raised.length, r.code = code ∧ r.detail = detail % 2 ^ 64) ∧
      { t.ev with raised := s.ev.raised, runs := s.ev.runs } = s.ev

/-- POLICY.GRANT_SOURCE (R341): grants are committed from the field network only. -/
def Obligations.GrantsOnlyFromTheFieldNetwork : Prop :=
  ∀ (c : CommitCtx), c.s.comN 0x2100 1 = 1 → (∃ e ∈ c.vals, e.1 / 256 = 0x2110) →
    (∀ q, c.src = .qp q → c.fail.isSome = true ∧
      (c.rangeFail = none → c.crossFail = none → c.ownershipFail = none → c.featureFail = none → c.s.pwr.boot ≠ .halt →
        (∀ e ∈ c.vals, e.1 / 256 ≠ 0x1031 ∧ e.1 / 256 ≠ 0x2100 ∧ e.1 ≠ dkey 0x9000 5 ∧
          ∀ b ∈ entryBars (e.1 / 256) (e.1 % 256) e.2 (c.s.com (e.1 / 256) (e.1 % 256)), bit c.s.node.bars b = true) →
        ∃ k, k / 256 = 0x2110 ∧ c.fail = some ⟨7, 5, k, dkey 0x2100 1, 0, 0, []⟩)) ∧
    (∀ m, c.src = .mac m → (∀ e ∈ c.vals, e.1 / 256 = 0x2110) → c.supervisionFail = none)

/-- Every segment of an epoch carries equal METRIC, DIM, M and CODE_BITS, or it is refused at load (R80). -/
def Obligations.SegmentsOfAnEpochAgree : Prop :=
  ∀ (s : State) (i n : Nat) (h : Shard) (g : Seg), mget s.shards i = some h → mget h.segs n = some g → g.loaded = false →
    let shape := fun (i : Bytes) => (segMetric i, segDim i, segM i, segBits i)
    let differs := (∃ m ∈ h.cur.sealed, ∃ x, mget h.segs m = some x ∧ shape x.image ≠ shape g.image) ∨
      (∃ m ∈ h.cur.deltas, ∃ d cb, mget h.deltas m = some d ∧ s.cbOf d.cb = some cb ∧ (d.metric, cb.dim, cb.m, cb.bits) ≠ shape g.image)
    (differs → exec (.segmentLoad i n .ok) s = .next (s.raise 0x3030 (locPlot n) 0)) ∧
    (differs → exec (.segmentLoad i n .once) s = .next ((s.raise 0x3031 (locPlot n) 0).raise 0x3030 (locPlot n) 0)) ∧
    ∀ chk t x y, exec (.segmentLoad i n chk) s = .next t → mget t.shards i = some x → mget x.segs n = some y → y.loaded = true → ¬ differs

/-- QUERY_PREPARE and TABLE_BUILD complete (R77 to R79): a raw query becomes its components, normalised under COSINE, and every
entry gets its INT8 query, with tables, stage 1 and the sealed segments to search where this node serves it. -/
def Obligations.SearchPreparationAndTables : Prop :=
  ∀ (s : State) (tag : Nat) (f : FarCtx) (w : Work), s.atHome tag f w →
    (f.phase = 2 → pQuery w.params = 0 →
      exec (.queryPrepare tag .ok) s = .next (s.modWork tag fun y =>
        { y with x := some (if (s.workDim y).1 = 2 then normalise ((splitAll 2 w.query).map leNat) else (splitAll 2 w.query).map leNat) })) ∧
    (∀ v : List Nat, f.phase = 3 → w.x = some v →
      ∃ g : ShardWork → ShardWork, exec (.tableBuild tag .ok) s = .next (s.modWork tag fun y => { y with shards := y.shards.map g }) ∧
        ∀ x : ShardWork, (g x).q = (quantQuery (pScale w.params) v).1 ∧ (g x).qScale = (quantQuery (pScale w.params) v).2 ∧
          ∀ (h : Shard) (e : Epoch), x.src.port = 0xFF → s.entryOf x = some (h, e) →
            (g x).stage = 1 ∧ (g x).todo = e.sealed ∧
            (g x).tables = buildTables (s.workDim w).1 (s.workDim w).2 (s.entryCode h e).1 (s.entryCode h e).2 (s.entryCbs h e x.usn) v)

/-- SEGMENT_WALK, FULL_SCAN and ENUMERATION complete (R81 to R83, R85, R88, R122), where the shadow sums of the visits agree: the visits
of the method that the pass uses for a segment join its entry, and the segment is no longer to be searched.  A walk that the step's
slots do not end waits in its entry and goes on from there. -/
def Obligations.SegmentSearchesVisitTheirSegment : Prop :=
  ∀ (s : State) (tag pos seg : Nat) (f : FarCtx) (w : Work) (x : ShardWork) (h : Shard) (e : Epoch) (g : Seg),
    s.atHome tag f w → f.phase = 4 → s.serves w pos x h e → mget h.segs seg = some g → x.todo.contains seg = true →
    let v := segView h x w.terms g
    let others := x.walks.filter fun y => y.seg != seg
    let joined := fun (vs : List Visit) (ex : Bool) (y : ShardWork) => ({ y with
      walks := others, segs := y.segs ++ [⟨seg, vs, ex⟩], todo := y.todo.filter (· != seg) } : ShardWork)
    (∀ share hops, w.method h e seg = (0, share) →
      let st := walkHops v share w.beam w.hops hops ((x.walks.find? fun y => y.seg == seg).getD (walkStart v share w.beam))
      v.shadowsOk st.recs.reverse = true →
      (st.done || st.ended) = true →
        exec (.segmentWalk tag pos seg hops .ok) s = .next (s.modEntry tag pos (joined st.recs.reverse st.done))) ∧
    (∀ share hops, w.method h e seg = (0, share) →
      let st := walkHops v share w.beam w.hops hops ((x.walks.find? fun y => y.seg == seg).getD (walkStart v share w.beam))
      v.shadowsOk st.recs.reverse = true →
      (st.done || st.ended) = false →
        exec (.segmentWalk tag pos seg hops .ok) s = .next (s.modEntry tag pos fun y => { y with walks := others ++ [st] })) ∧
    ((w.method h e seg).1 = 1 → v.shadowsOk (segScan v) = true →
      exec (.fullScan tag pos seg .ok) s = .next (s.modEntry tag pos (joined (segScan v) false))) ∧
    (∀ row, (w.method h e seg).1 = 2 → x.rowOf seg = some row → v.shadowsOk (segEnum v w.terms row) = true →
      exec (.enumeration tag pos seg .ok) s = .next (s.modEntry tag pos (joined (segEnum v w.terms row) false)))

/-- DELTA_SCAN, BITMAP_FILTER_EVAL and RERANK_SELECT complete (R83, R87, R89, R90, R106): a delta's visits, a segment's result row
pairs, and the home plot's selection from the union of the plot lists. -/
def Obligations.ScansFiltersAndSelectionComplete : Prop :=
  ∀ (s : State) (tag pos seg : Nat) (f : FarCtx) (w : Work) (x : ShardWork) (h : Shard) (e : Epoch) (g : Seg),
    s.atHome tag f w → s.serves w pos x h e →
    (f.phase = 4 → x.delta = none → x.stage ≠ 0 →
      deltaShadowsOk h x (s.entryCode h e).2 (deltaVisits h e x w.terms (s.entryCode h e).2) = true →
      ∀ chks : List (Nat × Chk), (∀ c ∈ chks, c.2 = .ok) → exec (.deltaScan tag pos chks) s = .next (s.modEntry tag pos fun y =>
        { y with delta := some (deltaVisits h e x w.terms (s.entryCode h e).2) })) ∧
    (f.phase = 4 → mget h.segs seg = some g → x.todo.contains seg = true → w.terms.any (termCovered g.image) = true →
      s.bitmapsSound x.slot seg g.image →
      let done := fun (y : ShardWork) =>
        ({ y with rows := (y.rows.filter fun r => r.1 != seg) ++ [(seg, resultRows g.image w.terms)] } : ShardWork)
      let loc := locPlot (s.codesPlot x.slot seg)
      exec (.bitmapFilterEval tag pos seg .ok) s = .next (s.modEntry tag pos done) ∧
      exec (.bitmapFilterEval tag pos seg .once) s = .next ((((s.bump 0x6021 3 1).raise 0x6021 loc 0).raise 0x3014 loc 0).modEntry tag pos done)) ∧
    (f.phase = 5 → x.stage < 3 → (∀ p ∈ x.searched, (x.plotSel p).list.isSome = true) →
      let union := x.searched.flatMap fun p => parseRecords (((x.plotSel p).list.getD []).drop 96)
      let key := fun (c : Cand) => orderKey c.pq pos c.handle
      let sel := selectPass (union.map key) x.sel (pRerank w.params)
      ∃ cands : List Cand, exec (.rerankSelect tag pos .ok) s = .next ((s.bump 0x3012 1 1).modEntry tag pos fun y =>
          if sel.2 then { y with cands := cands, sel := [], stage := 3 } else { y with sel := sel.1 }) ∧
        (w.seedling = false → cands = recordsOf key union sel.1) ∧
        (w.seedling = true → cands = (recordsOf key union sel.1).filter fun c => inStacks h c.handle) ∧
        ∀ c ∈ cands, c ∈ union)

/-- RERANK completes (R79, R90, R121): every candidate keeps its place and handle, and gets its exact distance, its residue, its
EXTERNAL_ID and its scale from the stored vector. -/
def Obligations.RerankScoresEveryCandidate : Prop :=
  ∀ (s : State) (tag pos : Nat) (f : FarCtx) (w : Work) (x : ShardWork) (h : Shard) (e : Epoch),
    s.atHome tag f w → f.phase = 6 → s.serves w pos x h e → x.stage = 3 →
    (∀ c ∈ x.cands, ∃ v, storedVector h c.handle = some v ∧ sumsqOf v.2.2.2 % 65521 = v.2.2.1 % 65521) →
    ∃ score : Cand → Cand, exec (.rerank tag pos .ok .ok) s =
        .next (s.modEntry tag pos fun y => { y with ranked := y.cands.map score, stage := 4 }) ∧
      ∀ c ∈ x.cands, ∃ v, storedVector h c.handle = some v ∧ score c = { c with
        ext := v.1, scale := v.2.1, exact := exactDist (s.workDim w).1 x.q v.2.2.2 v.2.2.1, resid := residue (s.workDim w).1 x.q v.2.2.2 }

/-- WINNOWER_PASS and SHARD_RESULT complete (R89, R91, R97, R98, R100, R101, R105, R106): a plot's pass selects from its own eligible
visits, and the pass that ends a selection fixes the plot list or the shard's result. -/
def Obligations.PassesAndShardResultsComplete : Prop :=
  (∀ (s : State) (tag pos plot : Nat) (f : FarCtx) (w : Work) (x : ShardWork) (h : Shard) (e : Epoch),
    s.atHome tag f w → f.phase = 5 → s.serves w pos x h e → x.stage < 3 → plot ∈ x.searched → (x.plotSel plot).list = none →
    let mine := x.eligible.filter fun v => handleSeg v.handle % 16 == plot
    let key := fun (v : Visit) => orderKey v.dist pos v.handle
    let sel := selectPass (mine.map key) (x.plotSel plot).keys (pRerank w.params)
    ∃ p : PlotSel, exec (.winnowerPass tag pos plot .ok) s = .next ((s.bump 0x3012 1 1).modEntry tag pos fun y =>
        { y with plots := (y.plots.filter fun z => z.plot != plot) ++ [p] }) ∧ p.plot = plot ∧ p.keys = sel.1 ∧
      p.list = (if sel.2 then some (plotListBytes x x.src.node plot tag w.widened
        ((recordsOf key mine sel.1).map (visitCand h x.id))) else none) ∧
      ∀ v ∈ recordsOf key mine sel.1, v ∈ x.allVisits ∧ v.filtered = false ∧ v.invisible = false ∧ handleSeg v.handle % 16 = plot) ∧
  ∀ (s : State) (tag pos : Nat) (f : FarCtx) (w : Work) (x : ShardWork) (h : Shard) (e : Epoch),
    s.atHome tag f w → f.phase = 7 → s.serves w pos x h e → x.stage = 4 →
    let uniq := removeDups (fun _ => pos) (fun _ => x.src.node) x.ranked
    let key := fun (c : Cand) => orderKey (exactPrimary c.exact) pos c.handle
    let sel := selectPass (uniq.map key) x.sel w.k
    let list := recordsOf key uniq sel.1
    (sel.2 = false → exec (.shardResult tag pos .ok .ok) s =
      .next ((s.bump 0x3012 1 1).modEntry tag pos fun y => { y with sel := sel.1 })) ∧
    (sel.2 = true → ∃ (dg : Bytes) (certs : List (Nat × Bytes)), exec (.shardResult tag pos .ok .ok) s =
      .next (((s.bump 0x3012 1 1).bump 0x3012 2 (x.ranked.length - uniq.length)).modEntry tag pos fun _ =>
        { x with result := list, sel := [], status := (finalStatus (shardConds w x list.length)).1, visited := x.allVisits.length,
                 filtered := (x.allVisits.filter (·.filtered)).length, pruned := (x.allVisits.filter (·.pruned)).length,
                 stage := 5, digest := dg, certs := certs }) ∧
      (w.kind = 5 → certs.map (·.1) = List.range list.length) ∧ (w.kind ≠ 5 → certs = []))

/-- MERGE and WIDENED_PASS complete (R92, R101, R102, R104, R162). -/
def Obligations.MergeAndWidenedPassComplete : Prop :=
  ∀ (s : State) (tag c : Nat) (f : FarCtx) (w : Work), s.atHome tag f w → s.farOf tag = some (c, f) → f.phase = 9 →
    (w.merged = false → (∀ x ∈ w.shards, x.stage = 5) →
      let pos := fun id => w.shards.findIdx fun x => x.id == id
      let node := fun id => ((w.shards.find? fun x => x.id == id).map (·.src.node)).getD 0
      let all := w.shards.flatMap (·.result)
      let uniq := removeDups pos node all
      let key := fun (c : Cand) => orderKey (exactPrimary c.exact) (pos c.shard) c.handle
      let sel := selectPass (uniq.map key) w.sel w.k
      let list := recordsOf key uniq sel.1
      let st := (finalStatus (mergeConds w list.length)).1
      let short := decide (list.length < w.k) && w.shards.any fun x => decide (0 < x.filtered)
      (sel.2 = false → exec (.merge tag .ok .ok) s = .next ((s.bump 0x3012 1 1).modWork tag fun y => { y with sel := sel.1 })) ∧
      (sel.2 = true → ∃ (t : State) (dg : Bytes),
        t = (((s.bump 0x3012 1 1).bump 0x3012 2 (all.length - uniq.length)).modWork tag fun _ =>
          { w with merged := true, sel := [], final := if carriesRecords (st % 256) then list else [], status := st,
                   condBits := mergeBits w list.length, short := short, replay := dg }) ∧
        exec (.merge tag .ok .ok) s = .next (if (short && pWiden w.params && !w.widen) = true then t.raise 0x3013 (locPlot f.home) 0 else t))) ∧
    (w.merged = true → w.wantsWiden = true → s.node.handAlive = true →
      ∃ t w1, exec (.widenedPass tag) s = .next t ∧ t.workOf tag = some w1 ∧ w1.widened = true ∧ w1.merged = false ∧ w1.final = [] ∧
        w1.shards = w.shards.map (fun x => x.again (s.entryOf x)) ∧
        mget t.ledger.fars c = (mget s.ledger.fars c).map fun f => { f with phase := 4 })

/-- What the messages of other nodes do (R105, R108, R117, R168): a list that fits, one that does not, certificate blocks, and a
sub-search. -/
def Obligations.RemoteListsAndSubSearchesComplete : Prop :=
  (∀ (s : State) (port tag c : Nat) (body : Bytes) (f : FarCtx) (w : Work),
    s.farOf tag = some (c, f) → s.workOf tag = some w → f.kind = 1 → f.phase ≠ 0x0C →
    let pos := w.shards.findIdx fun x => x.id == u32 body 8 && x.src.port == port
    (∀ x, w.shards[pos]? = some x → f.phase ≤ 8 → x.stage ≠ 5 → listFits body x w.k tag = true →
      exec (.shardList port tag body) s = .next (s.modEntry tag pos fun y => y.withList body)) ∧
    ((∀ x, w.shards[pos]? = some x → 8 < f.phase ∨ x.stage = 5 ∨ listFits body x w.k tag = false) →
      exec (.shardList port tag body) s = .next (((s.bump 0x3012 4 1).raise 0x3041 (locHedge port) 0).lose tag 9))) ∧
  (∀ (s : State) (port tag c pos : Nat) (body : Bytes) (f : FarCtx) (w : Work),
    s.farOf tag = some (c, f) → s.workOf tag = some w → f.kind = 1 → f.phase ≤ 8 →
    pos = (w.shards.findIdx fun x => x.src.port == port && ((certBlocks 1024 body).head?.map fun b => u32 b 24 == x.id).getD false) →
    exec (.certFields port tag body) s = .next (s.modEntry tag pos fun y =>
      { y with certs := ((certBlocks 1024 body).zipIdx).map fun e => (e.2, e.1) })) ∧
  (∀ (s : State) (tag c : Nat) (f : FarCtx) (w : Work),
    s.farOf tag = some (c, f) → s.workOf tag = some w → f.owner = 1 → f.phase = 8 →
    let late := w.remotes.filter fun x => x.stage != 5
    (late ≠ [] → exec (.remoteWaitExpiry tag) s =
      .next ((late.foldl (fun (u : State) x => (u.bump 0x3012 4 1).raise 0x3040 (locHedge x.src.port) 0) s).lose tag 9)) ∧
    (late = [] → ∀ x, w.remotes.find? (fun x => decide (x.certs.length < x.result.length)) = some x →
      exec (.remoteWaitExpiry tag) s = .next ((s.raise 0x3055 (locHedge x.src.port) 0).lose tag 9)) ∧
    (late = [] → (∀ x ∈ w.remotes, x.result.length ≤ x.certs.length) → exec (.remoteWaitExpiry tag) s = .next s)) ∧
  ∀ (s : State) (port : Nat) (body : Bytes), ∃ t, exec (.subSearch port body) s = .next t ∧
    t.ledger.subQ = s.ledger.subQ ++ [(port, body)] ∧ { t with ledger := { t.ledger with subQ := s.ledger.subQ } } = s

/-- TAKE and RELEASE complete (R171, R172): what a clean handoff and a failed one leave of the far context and the stub. -/
def Obligations.HandoffsMoveTheRequest : Prop :=
  (∀ (s : State) (tag c k : Nat) (f : FarCtx) (st : Stub), s.farOf tag = some (c, f) → s.stubOf tag = some (k, st) → f.owner = 1 →
    f.phase ∉ [0x0B, 0x0C, 0x11, 0x24] → s.isLost tag = false →
    let u := s.modFar c fun x => { x with owner := 2, phase := takePhase f.kind f.phase, moved := some s.step.number }
    exec (.take tag .clean) s = .next (u.modStub k
      fun x => { x with belief := 2, phase := takePhase f.kind f.phase, nearSlot := u.freeNear f.home }) ∧
    exec (.take tag .poison) s = .next ((u.raise 0x4014 (locPlot f.home) 0).lose tag 10) ∧
    exec (.take tag .routeFail) s = .next ((u.raise 0x6004 (locPlot f.home) 0).lose tag 9)) ∧
  ∀ (s : State) (tag c k : Nat) (f : FarCtx) (st : Stub) (w : Work), s.farOf tag = some (c, f) → s.stubOf tag = some (k, st) →
    s.workOf tag = some w → f.owner = 2 → w.phaseDone f.phase = true → s.isLost tag = false →
    let ph := nextPhase f.kind f.phase (!w.remotes.isEmpty) (s.mirrorWait w) ((w.gen.map fun g => u8 g.hdr 0 == 1).getD false) w.spreads
    let far := fun (x : FarCtx) =>
      ({ x with owner := 1, phase := ph, status := w.status, ckpt := some w, moved := some s.step.number } : FarCtx)
    (exec (.release tag .clean) s = .next ((s.modStub k fun x => { x with belief := 1, nearSlot := 0xFFFF }).modFar c far)) ∧
      (exec (.release tag .beliefFail) s = .next (s.modFar c far)) ∧
      (exec (.release tag .poison) s = .next
        (((s.modStub k fun x => { x with belief := 1, nearSlot := 0xFFFF }).raise 0x4014 (locPlot f.home) 0).lose tag 10))

/-- AUDIT_SWEEP and POOL_LOSS complete (R173, R174). -/
def Obligations.SweepsAndLossesComplete : Prop :=
  (∀ (s : State) (plot : Nat), ∃ t, exec (.auditSweep plot) s = .next t ∧
    ∀ e ∈ t.ledger.stubs, e.2.far / 131072 = plot → ∃ x ∈ t.ledger.fars, x.1 = e.2.far) ∧
  ∀ (s : State) (p : Nat), ∃ a b c d,
    exec (.poolLoss (.near p)) s = .next a ∧ a.node.nearOut = setBit s.node.nearOut p ∧
    exec (.poolLoss (.far p)) s = .next b ∧ b.node.farOut = setBit s.node.farOut p ∧
    exec (.poolLoss (.stack p)) s = .next c ∧ c.node.farOut = setBit s.node.farOut p ∧ c.node.tillers = clrBit s.node.tillers p ∧
    exec (.poolLoss (.plot p)) s = .next d ∧ d.node.nearOut = setBit s.node.nearOut p ∧ d.node.farOut = setBit s.node.farOut p ∧
      d.node.plots = clrBit s.node.plots p ∧ d.node.tillers = clrBit s.node.tillers p

/-- CERTIFY, ROOT_REQUEST, ROOT_QUEUE_DRAIN and AUDIT_PASS complete (R110 to R116, R128, R159, R166). -/
def Obligations.CertificatesAndRootsComplete : Prop :=
  (∀ (s : State) (tag : Nat) (f : FarCtx) (w : Work), s.atHome tag f w → f.phase = 0x0A → w.certSet = [] →
    (carriesRecords (w.status % 256) = false →
      exec (.certify tag .ok) s = .next (s.modWork tag fun y => { y with certSet := [0] })) ∧
    (carriesRecords (w.status % 256) = true →
      ∀ certs : List Bytes, ((w.final.zipIdx).map fun e => s.certOf w e.2 e.1 (digest (setHeader w tag (s.workDim w).2))) = certs.map some →
      exec (.certify tag .ok) s = .next (s.modWork tag fun y =>
        { y with certSet := setHeader w tag (s.workDim w).2 ++
            tagOf (s.sessionKey w.qp) (setHeader w tag (s.workDim w).2) "OC4-CERT-SET" ++ certs.flatten }))) ∧
  (∀ (s : State) (tag i : Nat) (f : FarCtx) (w : Work) (h : Shard), s.atHome tag f w → f.phase = 0x12 →
    s.slotOf (u32 w.body 0) = some i → mget s.shards i = some h →
    ∃ t, exec (.rootRequest tag .ok) s = .next t ∧ { t with ledger := s.ledger } = s ∧ t.workOf tag = some { w with
      merged := true,
      replay := rootBytes ⟨i, h.id, (h.epochAt w.usn).num, w.usn, 3, snapRoot h (h.epochAt w.usn) w.usn, true⟩,
      roots := [(i, (h.epochAt w.usn).num, w.usn)] }) ∧
  (∀ (s : State) (r : RootRec) (q : Ring), s.ledger.rootQ = [r] → r.ok = true → mget s.rings (s.actN 0x3030 2) = some q → 2 ≤ q.freeSlots →
    exec .rootQueueDrain s = .next (({ s with ledger := { s.ledger with rootQ := [] } }).writeCpl (s.actN 0x3030 2) 0 rootHead (rootBytes r))) ∧
  ∀ (s : State) (tag : Nat) (a : Audit), s.ledger.audits.find? (fun a => a.tag == tag) = some a → s.step.seedling = false →
    s.inAudit = true → (∀ x ∈ a.work.shards, x.q ≠ []) →
    let all := a.work.shards.flatMap fun x => s.auditShard a.work x (s.workDim a.work).1
    let scan := s.auditScan a all
    (∀ x ∈ a.work.shards, ∀ h e, s.entryOf x = some (h, e) → ∀ c ∈ all, c.shard = x.id → sumsqBad h c.handle = false) →
    (s.audited scan.2 all = false → exec (.auditPass tag .ok ⟨.ok, .ok, .ok⟩ .ok) s = .next { scan.1 with
      ledger := { scan.1.ledger with audits := scan.1.ledger.audits.map fun x => if x.tag == tag then scan.2 else x } }) ∧
    (s.audited scan.2 all = true → ∃ (m n : Nat) (l : List Cand), exec (.auditPass tag .ok ⟨.ok, .ok, .ok⟩ .ok) s =
        .next (((scan.1.bump 0x3012 1 m).bump 0x3012 2 n).endAudit a 0 all.length l) ∧
        ∀ c ∈ l, c ∈ all ∨ { c with dup := false } ∈ all)

/-- COMPLETION_WRITE of an update, a root request or a sub-search completes (R157, R163): the request is freed, and only ring bytes
are written. -/
def Obligations.RequestsCompleteInTheirRing : Prop :=
  ∀ (s : State) (tag c : Nat) (f : FarCtx) (w : Work), s.farOf tag = some (c, f) → s.workOf tag = some w → f.owner = 1 →
    f.phase = 0x0B → (f.kind = 2 ∨ f.kind = 4 ∨ f.kind = 5) → (∀ e ∈ s.ledger.works, e.1 = tag → e.2.owed = false) →
    s.isLost tag = false → Memory.wf s.mem = true →
    ∃ t, exec (.completionWrite tag) s = .next t ∧ t.workOf tag = none ∧ (∀ e ∈ t.ledger.fars, e.2.tag ≠ tag) ∧
      (∀ e ∈ t.ledger.stubs, e.2.tag ≠ tag) ∧
      (f.kind = 2 → ∀ r, mget s.rings f.cplRing = some r → mget t.rings f.cplRing = some { r with
        cplTail := (r.cplTail + ceilDiv (64 + (s.earlyBody 2 tag).length) 64) % 2 ^ 32, reserved := r.reserved - f.reserved }) ∧
      (f.kind = 5 → t.rings = s.rings) ∧
      (∀ a, a < 4 * 2 ^ 60 ∨ 5 * 2 ^ 60 ≤ a → Memory.read t.mem a = Memory.read s.mem a) ∧
      t.shards = s.shards ∧ t.step = s.step ∧ t.dict.committed = s.dict.committed

/-- INSERT, DELETE and REPLACE complete (R37, R135, R136): the update with the next USN is applied, logged, and marked applied; what a
request that was lost meanwhile still held goes. -/
def Obligations.UpdatesTakeTheNextUsn : Prop :=
  ∀ (s : State) (tag i : Nat) (w : Work) (h : Shard), s.workOf tag = some w → s.slotOf (uShard w.body) = some i →
    mget s.shards i = some h → w.kind = 2 → w.acks = 0 → w.usn = h.lastUsn + 1 →
    let takesEffect := fun (c : Instr) => ∃ t g r, exec c s = .next t ∧
      mget t.shards i = some g ∧ g.lastUsn = w.usn ∧ t.log.recs = s.log.recs ++ [r] ∧ r.slot = i ∧ r.usn = w.usn ∧ r.kind = 1 ∧
      ((∃ e ∈ s.ledger.fars, e.2.tag = tag) →
        t.workOf tag = some { w with acks := 1, image := (h.fillUpdate w.body w.usn).take 64 } ∧ ∀ k, k ≠ tag → t.workOf k = s.workOf k) ∧
      ((∀ e ∈ s.ledger.fars, e.2.tag ≠ tag) → t.workOf tag = none ∧ t.ledger.works = mdel s.ledger.works tag)
    (uOp w.body = 1 → takesEffect (.insert tag)) ∧ (uOp w.body = 2 → takesEffect (.delete tag)) ∧
    (uOp w.body = 3 → takesEffect (.replace tag))

/-- REPLICA_APPLY, LOG_ACK and LOG_RESEND complete (R142, R143, R396). -/
def Obligations.ReplicasTakeAndApplyRecords : Prop :=
  (∀ (s : State) (i : Nat) (h : Shard) (r : LogRec) (rest : List LogRec), mget s.shards i = some h → h.inbox = r :: rest →
    h.owner = false → s.step.seedling = false → r.kind = 1 → s.lacksPage i h (r.bytes.drop 16) = false →
    exec (.replicaApply i) s = .next ((s.modShard i fun h => { h with inbox := rest }).applyUpdate i
      ((r.bytes.drop 16).take (64 + uPayload (r.bytes.drop 16))) r.usn)) ∧
  (∀ (s : State) (port shard usn i : Nat) (h : Shard), s.slotOf shard = some i → mget s.shards i = some h → h.owner = true →
    ∃ t g, exec (.logAck port shard usn) s = .next t ∧ mget t.shards i = some g ∧ g.partners.length = h.partners.length ∧
      ∀ (k : Nat) (p q : Partner), h.partners[k]? = some p → g.partners[k]? = some q →
        (p.port ≠ port → q = p) ∧
        (p.port = port → q.acked = max p.acked usn ∧ (p.attached = true → q.attached = true) ∧
          (p.detached = false → h.vis ≤ max p.acked usn → q.attached = true ∧ q.loading = false))) ∧
  ∀ (s : State) (port shard usn i : Nat) (h : Shard), s.slotOf shard = some i → mget s.shards i = some h → h.owner = true →
    (h.partners.any fun p => p.port == port && !p.detached) = true →
    let u := (s.log.recs.filter fun r => r.slot == i && r.from_ usn).foldl
      (fun (s : State) r => s.sendHedge port 4 r.usn shard r.bytes) s
    let lacks := (∃ p ∈ h.partners, p.port = port ∧ p.loading = true) ∧ usn ≤ h.last ∧
      ∀ r ∈ s.log.recs, ¬ (r.slot = i ∧ r.kind = 1 ∧ r.usn = usn)
    (¬ lacks → exec (.logResend port shard usn) s = .next u) ∧
    (lacks → exec (.logResend port shard usn) s = .next (u.evU 0xB011 locField (some (i, usn)) 0))

/-- LOG_RECORDS completes (R141 to R143), for a message of one update record to a replica. -/
def Obligations.LogRecordsArriveInOrder : Prop :=
  ∀ (s : State) (port i : Nat) (b : Bytes) (h : Shard), logParts b.length b = [b] → s.slotOf (u32 b 4) = some i →
    mget s.shards i = some h → h.owner = false → u8 b 0 = 1 → h.held = [] →
    (u64 b 8 = h.expects → s.logRoom b.length = false →
      exec (.logRecords port b) s = .next (s.modShard i fun h => h.hold b)) ∧
    (u64 b 8 = h.expects → s.logRoom b.length = true →
      ∃ g r, exec (.logRecords port b) s = .next ((s.takeRecord i b).sendHedge port 5 (u64 b 8) h.id []) ∧
        mget (s.takeRecord i b).shards i = some g ∧ g.inbox = h.inbox ++ [r] ∧ r.bytes = b ∧ g.expects = h.expects + 1) ∧
    (u64 b 8 < h.expects → exec (.logRecords port b) s = .next (s.sendHedge port 5 (h.expects - 1) h.id [])) ∧
    (h.expects < u64 b 8 → exec (.logRecords port b) s =
      .next (((s.modShard i fun h => h.hold b).sendHedge port 6 h.expects h.id []).evU 0x3068 locField (some (i, h.expects)) 0))

/-- LOG_TRIM (R152): records leave in log order; each that leaves is covered by the floor of the current epoch, which a durable
epoch record gives, and acknowledged by every attached partner. -/
def Obligations.LogTrimKeepsWhatIsOwed : Prop :=
  ∀ s : State, ∃ t gone, exec .logTrim s = .next t ∧ s.log.recs = gone ++ t.log.recs ∧
    (∀ r ∈ gone, r.durable = true ∧ ∀ h, mget s.shards r.slot = some h →
      1 ≤ h.cur.num ∧ r.usn ≤ h.cur.floor ∧ ∀ p ∈ h.partners, p.attached = true → r.usn ≤ p.acked) ∧
    (∀ r, t.log.recs.head? = some r → ¬ (r.durable = true ∧ (∀ h, mget s.shards r.slot = some h →
      1 ≤ h.cur.num ∧ r.usn ≤ h.cur.floor ∧ ∀ p ∈ h.partners, p.attached = true → r.usn ≤ p.acked)))

/-- SEAL_BUILD, COMPACTION_BUILD, SEAL_WRITE and SEGMENT_IMAGE complete (R62, R146, R148, R149, R237, R279): the owner builds, as far as
the slices of the output's plot go, checks and writes; and a replica takes an image whose root is the record's and makes durable what its
next epoch record names. -/
def Obligations.SealsAndCompactionsAreBuilt : Prop :=
  (∀ (s : State) (i : Nat) (h : Shard) (j : SealJob) (ps : List (Nat × List Nat)), mget s.shards i = some h → h.owner = true →
    h.sealJob = some j → j.stage = 1 → s.hasSlice (j.out % 16) 5 = true →
    let image := s.sealImage h j ps
    let u := s.buildPart i false j image
    (j.built + s.buildRoom j image < image.length → exec (.sealBuild i .ok ps) s = .next u) ∧
    (image.length ≤ j.built + s.buildRoom j image → h.imageOk image j.out = true → (u.placeSeg i image).isSome = true →
      exec (.sealBuild i .ok ps) s = .next (u.modJob i false fun k => some { k with stage := 2, image := image })) ∧
    (image.length ≤ j.built + s.buildRoom j image → h.imageOk image j.out = false →
      exec (.sealBuild i .ok ps) s = .next (((u.evU 0x306A locField (some (i, h.vis)) 0).evU 0x306A locField (some (i, h.vis)) 0).modJob i false
        fun k => some { k with stage := 0, image := [], built := 0 }))) ∧
  (∀ (s : State) (i : Nat) (h : Shard) (j : SealJob), mget s.shards i = some h → h.owner = true → h.comp = some j → j.stage = 1 →
    s.hasSlice (j.out % 16) 5 = true →
    let num := h.cur.num + (if h.sealJob.isSome then 2 else 1)
    let j1 := { j with offs := h.compMap j }
    let image := compImage h j1 num
    let u := s.buildPart i true j image
    (j.built + s.buildRoom j image < image.length → exec (.compactionBuild i .ok) s = .next u) ∧
    (image.length ≤ j.built + s.buildRoom j image → h.imageOk image j.out = true → (u.placeSeg i image).isSome = true →
      exec (.compactionBuild i .ok) s = .next (u.modJob i true fun _ =>
        some { j1 with stage := 2, image := image, chain := h.chainFrom num j.floor })) ∧
    (image.length ≤ j.built + s.buildRoom j image →
      exec (.compactionBuild i .once) s = .next ((u.evU 0x306A locField (some (i, h.vis)) 0).modShard i fun h => { h with comp := none }))) ∧
  (∀ (s u v : State) (i : Nat) (h : Shard) (j : SealJob), mget s.shards i = some h → h.owner = true → h.sealJob = some j →
    j.stage = 3 → s.sealExtents i [j.out] = some u → u.putSys 0x20 (1 + i) (u.jobRecord i false j) = some v →
    exec (.sealWrite i) s = .next (v.modJob i false fun k => some { k with stage := 4 }) ∧
      ∀ x ∈ v.flash.extents, x.slot = i → x.seg = j.out → x.prov = false) ∧
  (∀ (s u v : State) (i : Nat) (h : Shard) (r : Bytes), mget s.shards i = some h → h.owner = false → h.pendEpoch = some r →
    s.sealExtents i (recSealed r) = some u → u.putSys 0x20 (1 + i) r = some v →
    exec (.sealWrite i) s = .next (v.modShard i fun h => { h with pendDone := true }) ∧
      ∀ x ∈ v.flash.extents, x.slot = i → x.seg ∈ recSealed r → x.prov = false) ∧
  ∀ (s : State) (port i : Nat) (image rec_ : Bytes) (h : Shard), mget s.shards i = some h → h.owner = false →
    h.imageOk image (segNumber image) = true → s.segAgrees h image = true →
    (recSeg rec_ (segNumber image)).map (·.2) = some (segmentRoot h.id (segNumber image) image) → (s.placeSeg i image).isSome = true →
    exec (.segmentImage port i image rec_) s = .next (s.modShard i fun h => { h with images := mput h.images (segNumber image) image })

/-- FLASH_READ completes (R277, R281): in its slot, late, and failed in an image.  Every read is counted for its die. -/
def Obligations.FlashReadsComplete : Prop :=
  ∀ (s : State) (lpn sector a : Nat) (d : Die) (ones : List (Nat × Int)), mget s.flash.map lpn = some a →
    mget s.flash.dies (addrDie a) = some d →
    let counted := fun (u : State) (retried : Nat) => u.flash.map = s.flash.map ∧ u.ledger = s.ledger ∧ u.ev = s.ev ∧ u.shards = s.shards ∧
      ∃ e, mget u.flash.dies (addrDie a) = some e ∧ e.period = s.scrubAge ∧ e.reads = (d.inPeriod s.scrubAge).reads + 1 ∧
        e.retried = (d.inPeriod s.scrubAge).retried + retried ∧ e.spares = d.spares ∧ e.bad = d.bad
    (∀ r deps, ∃ t, exec (.flashRead lpn sector (.decoded r) ones deps) s = .next t ∧ counted t (if r = 0 then 0 else 1)) ∧
    (∀ r deps, ∃ u : State, exec (.flashRead lpn sector (.late r) ones deps) s =
      .next ((u.raise 0x7020 (dieLoc (addrDie a)) (sector % 8)).loseAll deps) ∧ counted u 1) ∧
    (∀ e, s.extentOf lpn = some e → 0 < s.liveN 0x7010 14 → ∃ u t : State,
      t = ((u.bump 0x7011 3 1).raise 0x7021 (dieLoc (addrDie a)) (sector % 8)).segOut e.slot e.seg ∧
      exec (.flashRead lpn sector .failed ones []) s = .next t ∧ counted u 1 ∧ (e.slot, e.seg) ∈ t.tier.outQ)

/-- LOG_WRITE, LOG_PAGE_TIMEOUT, MAP_CHECKPOINT and IMAGE_WRITE complete (R270, R278, R282). -/
def Obligations.LogAndMapWritesComplete : Prop :=
  ∀ s : State,
    (s.pwr.short = false → ∀ p k lpn, (List.range 8).find? s.pageReady = some p → s.dieFor 0x20 true 0 = some k → s.nextLogLpn p = some lpn →
      ∃ t a g u, exec (.logWrite true) s = .next t ∧ t.flash.logPages = s.flash.logPages ++ [g] ∧ g.part = p ∧ g.lpn = lpn ∧
        mget t.flash.units a = some u ∧ u.data = s.logPage p ∧ t.log.dirty = s.log.dirty - min 16320 (s.logPending p) ∧
        t.flash.logSeq = s.flash.logSeq + 1 ∧ t.flash.map = s.flash.map ∧
        t.flash.pend = s.flash.pend ++ [⟨lpn, a, s.flash.writeSeq, 1⟩] ∧ t.mem = s.mem) ∧
    (s.pwr.short = false → ∀ k, (List.range 8).find? s.pageReady = none → s.journalNow ≠ [] → s.dieFor 0x20 true 1 = some k →
      ∃ t a u, exec (.logWrite true) s = .next t ∧ t.flash.jpages = s.flash.jpages ++ [⟨a, s.journalNow⟩] ∧
        mget t.flash.units a = some u ∧ u.data = journalPage s.journalNow ∧
        (∀ e ∈ t.flash.journal, e ∈ s.flash.journal ∧ e ∉ s.journalNow) ∧ t.flash.map = s.flash.map ∧ t.log = s.log ∧ t.mem = s.mem) ∧
    (∃ t, exec .logPageTimeout s = .next t ∧ { t with flash := s.flash } = s ∧ ∀ p, p < 8 →
      (p ∈ t.flash.due ↔ p ∈ s.flash.due ∨ ∃ k, s.logOldest p = some k ∧ k + s.actN 0x7010 0x0A ≤ s.step.number)) ∧
    (s.flash.ckptNext < 1048576 → ∀ n, n ≤ 1048576 → ∃ t m, exec (.mapCheckpoint n) s = .next t ∧ m ≤ n ∧
      t.flash.ckptNext = (s.flash.ckptNext + m) % 1048576 ∧ (m < n → t.dieFor 0x23 true 1 = none) ∧
      t.flash.map = s.flash.map ∧ t.flash.journal = s.flash.journal) ∧
    (∀ i h j first, mget s.shards i = some h → h.owner = true → h.sealJob = some j → j.stage = 2 → s.pwr.short = false →
      s.extentFor i j.out = none → j.image.length / 16384 ≤ s.freeUnits → s.findRange (s.logPart i) (j.image.length / 16384) = some first →
      ∃ t g k d, exec (.imageWrite i false []) s = .next t ∧
        t.extentFor i j.out = some ⟨s.logPart i, i, j.out, first, j.image.length / 16384, true, d⟩ ∧
        mget t.shards i = some g ∧ g.sealJob = some k ∧ k.image = j.image ∧ k.stage = (if j.image.length / 16384 ≤ d then 3 else 2))

/-- GC_COPY, FLASH_SCRUB, FLASH_DIE_LOSS and NAND_RAIL_OVERCURRENT complete (R269, R270, R280, R281, R283). -/
def Obligations.FlashUpkeepCompletes : Prop :=
  ∀ (s : State) (die : Nat) (d : Die), mget s.flash.dies die = some d →
    (s.pwr.short = false → s.dieRuns 0x21 die 0 = true → d.gc = none →
      (∃ t l, exec (.gcCopy die .ok) s = .next t ∧ t.flash.map = s.flash.map ∧ t.flash.pend = s.flash.pend ++ l ∧ t.mem = s.mem ∧
        t.log = s.log ∧ ∀ e ∈ l, e.span = 1 ∧ ∃ a, mget s.flash.map e.lpn = some a ∧ addrDie a = die) ∧
      ∀ n, 0 < d.units → (∀ b ∈ d.blks, s.erasable b.2 = false) → s.gcVictim die d = some (n, false) → s.validUnits die n = [] →
        ∃ t e, exec (.gcCopy die .ok) s = .next t ∧ mget t.flash.dies die = some e ∧ (e.blk n).st = 4 ∧
          (e.blk n).eraseAt = s.step.number + 65 ∧ (∀ m, m ≠ n → e.blk m = d.blk m) ∧ e.gc = none ∧ t.flash.pend = s.flash.pend) ∧
    (∀ r : ScrubRead, s.dieRuns 0x22 die 0 = true → ceilDiv r.reads 8 ≤ s.roomFor (onDie 0x22 die) (ceilDiv r.reads 8) →
      ∃ t e, exec (.flashScrub die [r]) s = .next t ∧ mget t.flash.dies die = some e ∧ e.period = s.scrubAge ∧
        e.reads = (d.inPeriod s.scrubAge).reads + r.reads ∧ e.retried = (d.inPeriod s.scrubAge).retried + r.retried) ∧
    (d.on = true → ∃ t, exec (.flashDieLoss die) s = .next t ∧ t = s.channelOut (die / 16) [die] ∧
      t.flash.chans = clrBit s.flash.chans (die / 16) ∧ mget t.flash.dies die = some { d with on := false }) ∧
    (d.on = false → exec (.flashDieLoss die) s = .next s) ∧
    (∀ ch, ch < 32 → ∃ t, exec (.nandRailOvercurrent ch) s = .next t ∧ t.flash.chans = clrBit s.flash.chans ch ∧
      t = s.channelOut ch ((s.flash.dies.filter fun e => e.1 / 16 == ch && e.2.on).map (·.1)) ∧ t.dieUp die = (s.dieUp die && die / 16 != ch))

/-- PROMOTION_COPY, REFRESH_SLICE, SCRUB_SLICE and ROW_REPAIR complete (R235, R237, R238, R239, R240). -/
def Obligations.TierWorkCompletes : Prop :=
  ∀ s : State,
    (∀ (c : PlotCopy) (q : Promo), s.grant 0x0A = true → s.hasSlice c.plot 3 = true → s.nextPromo c.plot = some q →
      q.page ∉ c.bad → s.tier.wrote.contains q.page = false →
      ∃ t, exec (.promotionCopy c) s = .next t ∧ (∃ x ∈ t.tier.promos, x.page = q.page ∧ x.copied = true) ∧
        t.tier.frames = s.tier.frames ∧ t.mem = s.mem) ∧
    (∀ c, s.grant 0x0A = false ∨ s.hasSlice c.plot 3 = false ∨ s.nextPromo c.plot = none → exec (.promotionCopy c) s = .next s) ∧
    (∀ idx, exec (.refreshSlice idx) s = .next s) ∧
    (∀ idx, s.scrubSlice idx = none → ∀ found, exec (.scrubSlice idx found) s = .next s) ∧
    (∀ idx plot cap, s.scrubSlice idx = some (plot, cap) →
      let over_ := decide (s.tier.scrubAt + s.actN 0x6010 9 ≤ s.step.number)
      let counts := if over_ then [] else s.tier.rowCe
      (∃ t, exec (.scrubSlice idx []) s = .next t ∧ t.tier.planBad = clrBit s.tier.planBad plot ∧ (∀ x ∈ t.tier.rebuild, x ∈ s.tier.rebuild) ∧
        t.tier.rowCe = counts ∧ t.tier.scrubAt = (if over_ then s.step.number else s.tier.scrubAt) ∧
        t.tier.repairs = s.tier.repairs ∧ t.tier.frames = s.tier.frames ∧ t.mem = s.mem ∧ t.shards = s.shards) ∧
      ∀ row errs, (∀ n, cap = some n → 64 ≤ n) → 1 ≤ errs → errs ≤ 3 →
        let n := mgetD counts (rowKey plot row) 0 + 1
        ∃ t, exec (.scrubSlice idx [⟨.row, row, errs⟩]) s = .next t ∧ t.tier.rowCe = mput counts (rowKey plot row) n ∧
          t.tier.repairs = (if n = s.actN 0x6010 0x0A + 1 then s.tier.repairs ++ [(plot, row)] else s.tier.repairs) ∧ t.mem = s.mem) ∧
    (∀ plot row, s.grant 0x0B = true → s.tier.repairs.contains (plot, row) = true → s.repairSlice plot row = true →
      ∃ t, exec (.rowRepair plot row) s = .next t ∧ t.tier.repairs = s.tier.repairs.filter (· != (plot, row)) ∧
        t.tier.rowCe = mdel s.tier.rowCe (rowKey plot row) ∧ t.mem = s.mem ∧ t.tier.alloc = s.tier.alloc)

/-- SEGMENT_LOAD, PAGE_RELOAD and SEGMENT_REFETCH complete (R62, R71). -/
def Obligations.SegmentsEnterAndReenterService : Prop :=
  ∀ (s : State) (i n : Nat) (h : Shard) (g : Seg), mget s.shards i = some h → mget h.segs n = some g →
    (∀ u, g.loaded = false → h.imageOk g.image n = true → s.segAgrees h g.image = true → segmentRoot h.id n g.image = g.root →
      s.placeSeg i g.image = some u → exec (.segmentLoad i n .ok) s = .next (u.modShard i fun h =>
        { h with segs := mmod h.segs n (fun g => { g with loaded := true, inService := true }) })) ∧
    (g.loaded = false → h.imageOk g.image n = true → s.segAgrees h g.image = true → segmentRoot h.id n g.image ≠ g.root →
      ∃ t, exec (.segmentLoad i n .ok) s = .next t ∧ (i, n) ∈ t.tier.outQ ∧ t.shards = s.shards) ∧
    (g.loaded = false → ∃ t, exec (.segmentLoad i n .twice) s = .next t ∧ (i, n) ∈ t.tier.outQ ∧ t.shards = s.shards) ∧
    (∀ page, g.reload.contains page = true → exec (.pageReload i n page true) s = .next (s.modShard i fun h =>
      { h with segs := mmod h.segs n (fun g => { g with reload := g.reload.filter (fun x => x != page) }) })) ∧
    (∀ image u, g.inService = false → s.grant 4 = true → h.imageOk image n = true → s.segAgrees h image = true →
      segmentRoot h.id n image = g.root →
      (g.loaded = true ∧ u = s.useGrant 4 ∨ g.loaded = false ∧ (s.useGrant 4).placeSeg i image = some u) →
      exec (.segmentRefetch i n image) s = .next ((u.dropExtent i n).modShard i fun h =>
        { h with segs := mmod h.segs n (fun g => { g with image := image, inService := true, loaded := true, reload := [] }),
                 images := mput h.images n image })) ∧
    (∀ image, h.imageOk image n = false ∨ s.segAgrees h image = false ∨ segmentRoot h.id n image ≠ g.root →
      ∃ t, exec (.segmentRefetch i n image) s = .next t ∧ t.shards = s.shards)

/-- STEP_BOUNDARY and STEP_NUMBER_LIMIT complete (R23, R25, R36): a boundary closes the step that is open, opens the next under the next
number with no spill slot used and no slice's room taken, and at the highest number leaves the node held with nothing to do. -/
def Obligations.BoundariesCountSteps : Prop :=
  ∀ s : State,
    (s.pwr.boot = .running → s.step.held = false → ∃ t : State, exec .stepBoundary s = .next t ∧
      t = (if s.step.open_ then s.closeStep none else s).openStep ∧ t.step.number = s.step.number + 1 ∧ t.step.open_ = true ∧
      t.step.spill = 0 ∧ t.step.used = [] ∧ t.step.sequencer = s.step.sequencer ∧ t.pending = s.pending ∧
      (s.step.number + 1 < maxStep → t.step.held = false) ∧
      (maxStep ≤ s.step.number + 1 → t.step.held = true ∧ t.step.agenda = [])) ∧
    (s.pwr.boot ≠ .running ∨ s.step.held = true → exec .stepBoundary s = .next s) ∧
    (maxStep ≤ s.step.number → s.step.limit = false →
      exec .stepNumberLimit s = .next ({ s with step := { s.step with held := true, limit := true } }.raise 0xC009 locField s.step.number)) ∧
    (s.step.number < maxStep ∨ s.step.limit = true → exec .stepNumberLimit s = .next s)

/-- STEP_CLOSE completes (R24): the step that is open closes under its own number, unless what its sensors show takes the node's power
away; what the event flush put into the ring is published. -/
def Obligations.StepsClose : Prop :=
  ∀ (s : State) (x : Sensors),
    (s.pwr.boot = .running → s.step.open_ = true → ∃ t, exec (.stepClose x) s = .next t ∧ t = s.closeStep (some x) ∧
      t.pending = s.pending ∧ (t.step.number = s.step.number ∨ t.step.number = 0) ∧
      (t.pwr.boot = .running → t.step.open_ = false ∧ t.step.number = s.step.number ∧ t.ev.produced = t.ev.records)) ∧
    (s.pwr.boot ≠ .running ∨ s.step.open_ = false → exec (.stepClose x) s = .next s)

/-- ENGINE_SLOT, HEADLAND_TRANSFER and HEADLAND_RETRY complete (R12, R26, R296): an action that runs past its slot completes in its plot's
spill slot where that is free and long enough, and else its requests are lost. -/
def Obligations.PlannedActionsComplete : Prop :=
  (∀ (s : State) (idx : Nat) (e : EngSlot) (deps : List Nat), (((s.tierPlan).map Plan.engines).getD [])[idx]? = some e →
    e.template = s.template → s.plotServes e.plot = true →
    let loc := locRow e.plot e.rowType e.rowIndex
    exec (.engineSlot idx .inSlot deps) s = .next s ∧
    (s.spillUsed e.plot = false → exec (.engineSlot idx .overran deps) s = .next ((s.useSpill e.plot).raise 0xC003 loc 0) ∧
      exec (.engineSlot idx .spillShort deps) s = .next (((s.useSpill e.plot).raise 0xC004 loc 0).loseAll deps)) ∧
    (s.spillUsed e.plot = true → ∀ fin, fin ≠ .inSlot → exec (.engineSlot idx fin deps) s = .next ((s.raise 0xC004 loc 0).loseAll deps))) ∧
  (∀ (s : State) (k e : Nat) (deps : List Nat), s.routeAt k = some e → bitsOf e 127 116 = s.template →
    exec (.headlandTransfer k true deps) s = .next s ∧
    ∃ t, exec (.headlandTransfer k false deps) s = .next t ∧ t.step.retries = s.step.retries ++ [⟨k, s.step.number, deps⟩] ∧
      { t with step := { t.step with retries := s.step.retries } } = s) ∧
  ∀ (s : State) (k e : Nat) (r : RouteRetry), s.routeAt k = some e → bitsOf e 20 9 = s.template →
    s.step.retries.find? (fun r => r.route == k && decide (r.at_ < s.step.number)) = some r →
    exec (.headlandRetry k true) s = .next { s with step := { s.step with retries := s.step.retries.erase r } } ∧
    exec (.headlandRetry k false) s = .next (({ s with step := { s.step with retries := s.step.retries.erase r } }.raise 0x6004
      (routeLoc e) 0).loseAll r.deps)

/-- The commands of the boundary phase complete (R25): each makes its item's change, where the item is first on the agenda and falls due,
and then the items up to the next that falls to a command of its own are run.  The change is said of the state `b` that the command runs it
on: that of the command with the item taken off the agenda. -/
def Obligations.AgendaCommandsRunTheirItems : Prop :=
  ∀ (s : State) (rest : List BItem),
    let b := { s with step := { s.step with agenda := rest } }
    (s.firstDue .planDrain rest → exec .planDrainStart s = .next (s.runFirst rest fun u =>
      ({ u with step := { u.step with draining := true } }.setN 0xC020 4 2).raise 0xC008 locField 0)) ∧
    (∀ ps, s.firstDue .planActivate rest → s.step.staged = some ps →
      exec .planSetActivate s = .next (s.runFirst rest State.doPlanActivate) ∧ ∃ t, b.doPlanActivate = t ∧
        t.step.plan = some ps ∧ t.step.activated = s.step.number ∧ t.step.staged = none ∧ t.step.armed = false ∧
        t.step.draining = false ∧ t.step.retries = [] ∧ t.step.seedling = false) ∧
    (∀ k, s.firstDue (.modelDrain k) rest → exec (.modelDrainStart k) s = .next (s.runFirst rest fun u =>
      ({ u with models := mmod u.models k fun m => { m with blocked := true } }.setN (0x5100 + k) 5 3).raise 0x5003 locField 0)) ∧
    (∀ k m img, s.firstDue (.modelActivate k) rest → mget s.models k = some m → m.next = some img →
      exec (.modelActivate k) s = .next (s.runFirst rest (·.doModelActivate k)) ∧ ∃ t, b.doModelActivate k = t ∧
        t.models = (if img.isEmpty then mdel s.models k else mput s.models k ⟨img, none, 0, false, m.part⟩)) ∧
    (∀ p, p < 20 → s.firstDue (.gateTakeover p) rest → exec (.gateListTakeover p) s = .next (s.runFirst rest fun u =>
      (u.setN (0x8100 + p) 1 (u.comN (0x8100 + p) 2)).raise 0x8021 (locPort p) 0)) ∧
    (∀ p, p < 8 → s.firstDue (.tenantDrain p) rest → exec (.tenantDrainStart p) s = .next (s.runFirst rest fun u =>
      (u.setN (0x9100 + p) 5 1).raise 0x9010 locField 0)) ∧
    (∀ p w, s.firstDue (.tenantSwitch p) rest → (s.part p).next = some w →
      exec (.tenantSwitch p) s = .next (s.runFirst rest (·.doTenantSwitch p)) ∧ ∃ t, b.doTenantSwitch p = t ∧
        t.part p = ({ s.part p with
          next := none, owed := some w.mode, key := (s.part p).key + 1
          scrub := some ⟨w.mode, s.step.number, if w.mode = 1 then 3 else 0, if w.mode = 0 then 3 else 0⟩ } : PartSt) ∧
        t.act (0x9100 + p) 1 = leBytes 2 w.plots ∧ t.act (0x9100 + p) 2 = w.shards) ∧
    (∀ p, p < 8 → s.firstDue (.tenantScrubEnd p) rest → exec (.tenantScrubEnd p) s = .next (s.runFirst rest fun u =>
      let v := u.modPart p fun x => { x with scrub := none, owed := none }
      ((v.setN (0x9100 + p) 5 (v.partState p)).bump (0x9100 + p) 6 1).raise 0x9012 locField 0)) ∧
    (∀ p, p < 16 → s.firstDue (.plotLimit p) rest →
      (s.grant 0x0E = false → exec (.plotFaultLimit p) s = .next (s.runFirst rest fun u =>
        u.raiseRun 0x1108 p (locPlot p) none (u.faultScore p))) ∧
      (s.grant 0x0E = true → exec (.plotFaultLimit p) s = .next (s.runFirst rest (·.doPlotLimit p)) ∧ ∃ t, b.doPlotLimit p = t ∧
        t.node.retired = setBit s.node.retired p ∧ t.node.plots = clrBit s.node.plots p ∧ t.node.tillers = clrBit s.node.tillers p ∧
        t.node.nearOut = setBit s.node.nearOut p ∧ t.node.farOut = setBit s.node.farOut p)) ∧
    (∀ i h d n cb, s.firstDue (.sealFreeze i) rest → mget s.shards i = some h → h.open_ = some d → h.freeSegment = some n →
      s.deltaCb i = some cb → s.logRoom 128 = true →
      exec (.sealFreeze i) s = .next (s.runFirst rest (·.doSealFreeze i)) ∧ ∃ t g j, b.doSealFreeze i = t ∧ mget t.shards i = some g ∧
        g.sealJob = some j ∧ j.inputs = [d] ∧ j.out = d ∧ j.floor = h.vis ∧ j.stage = 1 ∧
        mget g.deltas n = some ⟨cb, s.actN (0x3200 + i) 6, h.cur.num, s.step.number, []⟩ ∧
        ∃ r, t.log.recs = s.log.recs ++ [r] ∧ r.slot = i ∧ r.kind = 2 ∧ r.usn = h.vis) ∧
    (∀ i h j v, s.firstDue (.sealSwitch i) rest → mget s.shards i = some h → h.sealJob = some j → s.logRoom (epochRoomBytes h) = true →
      segEpoch j.image = h.cur.num + 1 → b.placeSeg i j.image = some v →
      exec (.sealSwitch i) s = .next (s.runFirst rest (·.doSealSwitch i)) ∧ ∃ t g, b.doSealSwitch i = t ∧ mget t.shards i = some g ∧
        g.cur.num = h.cur.num + 1 ∧ g.cur.floor = j.floor ∧ g.cur.sealed = sortNat (h.cur.sealed ++ [j.out]) ∧
        g.cur.deltas = h.cur.deltas.filter (· != j.out) ∧ g.sealJob = none) ∧
    (∀ i h r v, s.firstDue (.replicaSwitch i) rest → mget s.shards i = some h → h.pendEpoch = some r →
      let out := ((recSealed r).filter fun n => !h.cur.sealed.contains n).headD 0
      b.placeSeg i ((mget h.images out).getD (((mget h.segs out).map (·.image)).getD [])) = some v →
      exec (.replicaEpochSwitch i) s = .next (s.runFirst rest (·.doReplicaSwitch i)) ∧ ∃ t g, b.doReplicaSwitch i = t ∧
        mget t.shards i = some g ∧ g.cur.num = u32 r 12 ∧ g.cur.floor = u64 r 16 ∧ g.cur.sealed = recSealed r ∧ g.pendEpoch = none ∧
        mget g.images out = none) ∧
    (∀ i h n cb, s.firstDue (.deltaOpen i) rest → mget s.shards i = some h → h.freeSegment = some n → s.deltaCb i = some cb →
      exec (.deltaOpen i) s = .next (s.runFirst rest (·.openDelta i n cb)) ∧ ∃ g, mget (b.openDelta i n cb).shards i = some g ∧
        g.cur.deltas = [n] ∧ mget g.deltas n = some ⟨cb, s.actN (0x3200 + i) 6, h.cur.num, s.step.number, []⟩) ∧
    (∀ i h ins out, s.firstDue (.compactChoose i) rest → mget s.shards i = some h → s.compInputs h = some ins →
      h.freeSegment = some out →
      exec (.compactionChoose i) s = .next (s.runFirst rest (·.doCompactChoose i)) ∧ ∃ g j, mget (b.doCompactChoose i).shards i = some g ∧
        g.comp = some j ∧ j.inputs = ins ∧ j.out = out ∧ j.floor = h.cur.floor ∧ j.stage = 1) ∧
    (∀ i h j v, s.firstDue (.compactSwitch i) rest → mget s.shards i = some h → h.comp = some j → s.logRoom (epochRoomBytes h) = true →
      segEpoch j.image = h.cur.num + 1 → b.placeSeg i j.image = some v →
      exec (.compactionSwitch i) s = .next (s.runFirst rest (·.doCompactSwitch i)) ∧ ∃ t g, b.doCompactSwitch i = t ∧
        mget t.shards i = some g ∧ g.cur.num = h.cur.num + 1 ∧ g.cur.floor = h.cur.floor ∧ g.cur.deltas = h.cur.deltas ∧
        g.cur.sealed = sortNat (h.cur.sealed.filter (fun n => !j.inputs.contains n) ++ [j.out]) ∧ g.comp = none) ∧
    (∀ i n h, s.firstDue (.epochRelease i n) rest → mget s.shards i = some h →
      exec (.epochRelease i n) s = .next (s.runFirst rest (·.doEpochRelease i n)) ∧ ∃ g, mget (b.doEpochRelease i n).shards i = some g ∧
        g.epochs = h.epochs.filter fun x => x.num != n) ∧
    (s.firstDue .loadWindow rest → exec .loadWindowEnd s = .next (s.runFirst rest State.doLoadWindow) ∧ ∃ t, b.doLoadWindow = t ∧
      t.embWinAt = s.step.number ∧ ∀ e ∈ t.embs, e.2.counts = []) ∧
    (s.firstDue .placeWindow rest → exec .placementWindowEnd s = .next (s.runFirst rest State.doPlaceWindow) ∧ ∃ t, b.doPlaceWindow = t ∧
      t.tier.winAt = s.step.number ∧ t.tier.counts = [] ∧ t.tier.frames = s.tier.frames ∧
      let want := (List.range 16).flatMap s.desired
      t.tier.promos = (if s.grant 0x0A then (want.filter fun p => !s.tier.frames.contains p).map fun p => ⟨p, 0, false, false⟩ else []) ∧
      t.tier.demote = (if s.grant 0x0A then s.tier.frames.filter fun p => !want.contains p else [])) ∧
    (s.firstDue .pageDemote rest → exec .pageDemote s = .next (s.runFirst rest State.doDemote) ∧ ∃ t, b.doDemote = t ∧ t.tier.demote = [] ∧
      t.tier.frames = (if s.grant 0x0A then s.tier.frames.filter fun p => !s.tier.demote.contains p else s.tier.frames)) ∧
    (∀ p, s.firstDue (.promotionSwitch p) rest → exec (.promotionSwitch p) s = .next (s.runFirst rest (·.doPromoSwitch p)) ∧
      ∃ t, b.doPromoSwitch p = t ∧ (∀ x, x ∈ t.tier.frames ↔ x ∈ s.tier.frames ∨ ∃ q ∈ s.tier.promos, q.page = x ∧ q.copied = true ∧ s.pageHome x = p) ∧
        t.tier.promos = s.tier.promos.filter fun q => !(s.pageHome q.page == p && q.copied)) ∧
    (∀ k e m, s.firstDue (.embSwitch k) rest → mget s.embs k = some e → e.move = some m →
      exec (.embShardSwitch k) s = .next (s.runFirst rest (·.doEmbSwitch k)) ∧ ∃ x, mget (b.doEmbSwitch k).embs k = some x ∧ x.move = none ∧
        (s.grant 8 = true → mget x.places m.shard = some m.dest) ∧ (s.grant 8 = false → x.places = e.places)) ∧
    (∀ i h, s.firstDue (.rejoinLoaded i) rest → mget s.shards i = some h →
      exec (.rejoinLoaded i) s = .next (s.runFirst rest (·.doRejoinLoaded i)) ∧ mget (b.doRejoinLoaded i).shards i = some { h with state := 2 }) ∧
    (s.firstDue .rejoinAdmit rest → exec .rejoinAdmit s = .next (s.runFirst rest State.doRejoinAdmit) ∧
      ∀ i h, i < 256 → mget s.shards i = some h → mget b.doRejoinAdmit.shards i =
        some (if bitAt (s.com 0xB040 5) i && h.state == 2 then { h with state := 0 } else h)) ∧
    (∀ e r q d, s.firstDue (.accept e r) rest → s.admits (admSlotOf e) r q d →
      (dKind d = 1 → exec .search s = .next (s.runFirst rest (·.admitOne e r)) ∧ s.admitted (b.admitOne e r) (admSlotOf e) r q d) ∧
      (dKind d = 3 → s.cacheUsed q.part + s.blockBytes q.part (s.modelImage (gModel (d.drop 64))) (ownBlocks (d.drop 64)) ≤ 8589934592 →
        exec .generate s = .next (s.runFirst rest (·.admitOne e r)) ∧ s.admitted (b.admitOne e r) (admSlotOf e) r q d)) ∧
    (∀ e r x, s.firstDue (.accept e r) rest → s.admitKind e r = 9 → s.replayFor (admSlotOf e) r = some x →
      exec (.replay x.tag true) s = .next (s.runFirst rest (·.admitOne e r)) ∧ ∃ t, b.admitOne e r = t ∧
        t.ledger.replays = s.ledger.replays.filter (fun y => y.tag != x.tag) ∧
        ((∀ y ∈ x.copy.work.shards, s.staleEvent true (y.id, y.epoch, y.usn) = none) →
          ∃ c f, mget t.ledger.fars c = some f ∧ f.tag = mkTag s.step.number (admSlotOf e).plot 0 (admSlotOf e).idx ∧ f.owner = 1 ∧
            f.phase = 1 ∧ f.kind = x.kind ∧ f.client = x.client ∧ f.reserved = x.reserved ∧ f.replayed = true)) ∧
    (∀ x, s.ledger.replays.filter (fun r => r.tag == x.tag) = [x] → ∃ t, exec (.replay x.tag false) s = .next t ∧ t = s.failReplay x ∧
      t.ledger.replays = s.ledger.replays.filter fun y => y.tag != x.tag)

/-- INPUT_LOSS, CLOCK_FAULT, THERMAL_TRIP, RESET_PULSE and REFCLK_RETURN complete (R285, R355, R374, R375, R377, R379, R403, R404). -/
def Obligations.LossesOfPowerKeepWhatIsDurable : Prop :=
  ∀ s : State,
    (s.pwr.boot = .running → ∀ (c : Instr) (b : Boot) (x : Loss),
        (c = .inputLoss x ∧ b = .off) ∨ (c = .thermalTrip ∧ b = .off ∧ x = cleanLoss) ∨
        (c = .clockFault ∧ b = .waitClock ∧ x = cleanLoss) ∨ (∃ us, 1000 ≤ us ∧ c = .resetPulse us ∧ b = .reset ∧ x = cleanLoss) →
      ∃ t, exec c s = .next t ∧ t.pwr.boot = b ∧ t.pwr.flushN = t.flash.flushRec.isSome ∧ t.dict.store = s.dict.store ∧
        t.pending = s.pending ∧ t.rings = [] ∧ t.ledger = LedgerSt.reset ∧ t.mem = [] ∧ t.step = State.reset.step ∧
        t.shards = (s.flush x).shards ∧ t.flash = (s.flush x).flash.off ∧ t.log = (s.flush x).log) ∧
    (s.pwr.boot = .off → ∀ x us, exec (.inputLoss x) s = .next s ∧ exec .thermalTrip s = .next s ∧ exec .clockFault s = .next s ∧
      exec (.resetPulse us) s = .next s) ∧
    (∀ us, us < 1000 → exec (.resetPulse us) s = .next s) ∧
    (s.pwr.boot = .waitClock → exec .clockFault s = .next s ∧ exec .refclkReturn s = .next { s with pwr := { s.pwr with boot := .off } }) ∧
    (s.pwr.boot ≠ .waitClock → exec .refclkReturn s = .next s)

/-- TIER_CHANGE_REQUEST, TIER_STRETCH and TIER_CLOCK_CHANGE complete (R33, R34, R376), in every state of a node that runs: a request for a
tier of the active set is foreseen unless it is in force or asked for already, or withdraws a demand; one for another tier is a demand. -/
def Obligations.TierDemandsComplete : Prop :=
  ∀ (s : State) (k : Nat),
    (s.pwr.boot ≠ .running ∨ s.step.seedling = true ∨ 2 < k →
      exec (.tierChangeRequest k) s = .next s ∧ exec (.tierStretch k) s = .next s) ∧
    (s.pwr.boot = .running → s.step.seedling = false → k ≤ 2 →
      let asked := s.step.demand = none ∧ s.step.wantTier.getD s.step.admTier = k ∧ s.step.stretch = false
      let back := s.step.demand ≠ none ∧ s.step.stretch = false ∧ s.step.wantTier = none ∧ s.step.admTier = k
      (s.holdsTier k = false → exec (.tierChangeRequest k) s = exec (.tierStretch k) s) ∧
      (s.holdsTier k = true → asked → exec (.tierChangeRequest k) s = .next s) ∧
      (s.holdsTier k = true → back →
        exec (.tierChangeRequest k) s = .next { s with step := { s.step with demand := none, noAdmit := false } }) ∧
      (s.holdsTier k = true → ¬ asked → ¬ back → exec (.tierChangeRequest k) s =
        .next ({ s with step := { s.step with wantTier := some k, demand := none, noAdmit := false } }.raise 0xC005 locField 0)) ∧
      (s.step.demand = some k → exec (.tierStretch k) s = .next s) ∧
      (s.step.demand ≠ some k → s.node.handAlive = false →
        exec (.tierStretch k) s = .next { s with step := { s.step with demand := some k, noAdmit := true } }) ∧
      (s.step.demand ≠ some k → s.node.handAlive = true → s.grant 3 = true →
        exec (.tierStretch k) s = .next ({ s with step := { s.step with demand := some k, noAdmit := false } }.useGrant 3)) ∧
      (s.step.demand ≠ some k → s.node.handAlive = true → s.grant 3 = false →
        exec (.tierStretch k) s = .next ({ s with step := { s.step with demand := some k, noAdmit := true } }.raise 0xC006 locField 0))) ∧
    (s.step.wantTier = none → exec .tierClockChange s = .next s) ∧
    (s.step.wantTier = some k → s.pwr.clamp = true ∨ s.tierReady k = false → exec .tierClockChange s = .next s) ∧
    (s.step.wantTier = some k → s.pwr.clamp = false → s.tierReady k = true →
      ∃ t, exec .tierClockChange s = .next t ∧ t.step.tier = k ∧ t.step.planTier = k ∧ t.step.stretch = false ∧
        t.step.wantTier = (if s.step.admTier = k then none else some k) ∧
        (s.step.tier ≠ k → ∀ e ∈ t.pwr.vcore, (vcoreWindow k).1 ≤ e.2 ∧ e.2 ≤ (vcoreWindow k).2))

/-- VCORE_ADJUST, CAP_TEST, THERMAL_CLAMP, CLAMP_RELEASE and VIN_MARGINAL complete (R372 to R377). -/
def Obligations.ClampsVoltagesAndHoldEnergy : Prop :=
  ∀ s : State, s.pwr.boot = .running →
    (∀ (p : Nat) (m : Int), p < 16 → bit s.node.plots p = true →
      let w := vcoreWindow s.step.tier
      let v := mgetD s.pwr.vcore p w.2
      let put := fun n => { s with pwr := { s.pwr with vcore := mput s.pwr.vcore p n } }
      (m < 0 → v < w.2 → exec (.vcoreAdjust p m) s = .next (put (min w.2 (v + 25)))) ∧
      (m < 0 → w.2 ≤ v → exec (.vcoreAdjust p m) s =
        .next ((((put v).raise 0xA020 (locPlot p) 0).bump 0xA020 4 1).demandTier (s.askedTier + 1))) ∧
      (m = 0 → exec (.vcoreAdjust p m) s = .next (put v)) ∧
      (0 < m → exec (.vcoreAdjust p m) s = .next (put (max w.1 (v - 25))))) ∧
    (∀ v1 v2, s.node.handAlive = true → s.liveN 0xA010 7 + 100 ≤ s.liveN 0xA010 6 → s.pwr.capAt + s.actN 0xA010 8 ≤ s.step.number →
      let u := ({ s with pwr := { s.pwr with capAt := s.step.number } }.setN 0xA010 5 (holdCap v1 v2)).setN 0xA010 6
        (holdUsable (holdCap v1 v2) (s.liveN 0xA010 4))
      exec (.capTest v1 v2) s = .next (if holdCap v1 v2 < 8600 then u.raise 0xA005 locField 0 else u)) ∧
    (s.pwr.clamp = false → exec .thermalClamp s =
      .next ({ s with pwr := { s.pwr with clamp := true, cool := 0 } }.raise 0xA012 locField 0)) ∧
    (s.pwr.clamp = true → exec .thermalClamp s = .next s) ∧
    (s.pwr.clamp = true → s.actN 0xA030 4 ≤ s.pwr.cool → ∃ t, exec .clampRelease s = .next t ∧ t.pwr.clamp = false ∧ t.pwr.cool = 0 ∧
      (s.step.seedling = true → t.step.tier = s.step.tier ∧ t.step.stretch = false) ∧
      (s.step.seedling = false → ∀ k, s.step.demand = some k → s.step.noAdmit = false → t.step.tier = k ∧ t.step.stretch = s.step.stretch) ∧
      (s.step.seedling = false → s.step.demand = none ∨ s.step.noAdmit = true → t.step.tier = s.step.admTier ∧ t.step.stretch = false)) ∧
    (s.pwr.clamp = false ∨ s.pwr.cool < s.actN 0xA030 4 → exec .clampRelease s = .next s) ∧
    (∀ mv, (37000 ≤ mv ∧ mv < 40000) ∨ (58000 < mv ∧ mv ≤ 60000) → exec (.vinMarginal mv) s =
      .next (if s.step.seedling then s.raiseRun 0xA002 0 locField none 0 else (s.raiseRun 0xA002 0 locField none 0).demandTier s.slowestTier)) ∧
    (∀ mv, mv < 37000 ∨ (40000 ≤ mv ∧ mv ≤ 58000) ∨ 60000 < mv → exec (.vinMarginal mv) s = .next s)

/-- BAR_LOSS, STRING_LOSS, GATE_DIE_LOSS, G0_LOSS, HAND_WATCHDOG_EXPIRY, AGENT_RESTART and ALTERNATE_HAND_TAKEOVER complete (R18, R339). -/
def Obligations.LossesOfAgentsComplete : Prop :=
  ∀ s : State,
    (∀ b, b < 4 → bit s.node.bars b = true → ∃ t, exec (.barLoss b) s = .next t ∧ t.node.bars = clrBit s.node.bars b ∧
      bit t.node.restart b = s.grant 2 ∧ t.step = s.step ∧ t.ledger = s.ledger) ∧
    (∀ n, n < 16 → bit s.node.strings n = true → ∃ t, exec (.stringLoss false n) s = .next t ∧ t.node.strings = clrBit s.node.strings n ∧
      bit t.node.restart (8 + n) = s.grant 2 ∧ t.step = s.step ∧ t.ledger = s.ledger) ∧
    (∀ n, n < 4 → bit s.node.gateStrings n = true → ∃ t, exec (.stringLoss true n) s = .next t ∧
      t.node.gateStrings = clrBit s.node.gateStrings n ∧ bit t.node.restart (4 + n) = s.grant 2 ∧ t.step = s.step ∧ t.ledger = s.ledger) ∧
    (∀ g, g ≠ 0 → g < 4 → bit s.node.gates g = true → ∃ t, exec (.gateDieLoss g) s = .next t ∧ bit t.node.gates g = false ∧
      bit t.node.bars g = false ∧ t.node.handAlive = (s.node.handAlive && s.node.handDie != g) ∧
      t.step.held = (s.step.held || s.step.sequencer == g)) ∧
    exec (.gateDieLoss 0) s = exec .g0Loss s ∧
    (s.node.g0Lost = false → s.pwr.boot = .running → bit s.node.gates 0 = true → ∃ t, exec .g0Loss s = .next t ∧ t.node.g0Lost = true ∧
      t.node.handAlive = (s.node.handAlive && s.node.handDie != 0) ∧ bit t.node.gates 0 = false ∧
      (s.step.sequencer ≠ 0 → t.step.held = s.step.held ∧ t.step.sequencer = s.step.sequencer) ∧
      (s.step.sequencer = 0 → (s.grant 1 && bit s.node.gates 2) = true → t.step.sequencer = 2 ∧ t.step.held = s.step.held ∧
        (s.node.handDie = 0 → t.node.altStarting = true)) ∧
      (s.step.sequencer = 0 → (s.grant 1 && bit s.node.gates 2) = false → t.step.held = true)) ∧
    (s.node.handAlive = true → s.node.handDie = 0 → s.node.g0Lost = false → ∃ t, exec .handWatchdogExpiry s = .next t ∧
      t = ({ s with node := { s.node with handAlive := false } }.raise 0x1102 (locHand s) 0).startAlternate ∧ t.node.handAlive = false ∧
      t.node.altStarting = (s.node.altStarting || (s.grant 1 && bit s.node.gates 2)) ∧ t.step = s.step) ∧
    (∀ n, n < 16 → bit s.node.restart (8 + n) = true → s.grant 2 = true →
      ∃ t, exec (.agentRestart false false n) s = .next t ∧ t.node.strings = setBit s.node.strings n ∧
        t.node.restart = clrBit s.node.restart (8 + n)) ∧
    (∀ n, n < 4 → bit s.node.gates n = true → s.grant 2 = true →
      (bit s.node.restart (4 + n) = true → ∃ t, exec (.agentRestart false true n) s = .next t ∧
        t.node.gateStrings = setBit s.node.gateStrings n ∧ t.node.restart = clrBit s.node.restart (4 + n)) ∧
      (bit s.node.restart n = true → ∀ gate, ∃ t, exec (.agentRestart true gate n) s = .next t ∧
        t.node.bars = setBit s.node.bars n ∧ t.node.restart = clrBit s.node.restart n)) ∧
    (∀ x, s.node.altStarting = true →
      (x.verified = true → ∃ t, exec (.alternateHandTakeover x) s = .next t ∧ t.node.handDie = 2 ∧ t.node.handAlive = true ∧
        t.node.altStarting = false ∧ t.dict.sets = [] ∧ t.dict.xfers = [] ∧ t.dict.commits = [] ∧ t.dict.committed = s.dict.committed) ∧
      (x.verified = false → bit (s.liveN 0x9020 2) 1 = true → exec (.alternateHandTakeover x) s =
        .next ({ s with node := { s.node with altStarting := false } }.raise 0x9003 (locUnit 2 4 0 0) 0)) ∧
      (x.verified = false → bit (s.liveN 0x9020 2) 1 = false → ∃ t, exec (.alternateHandTakeover x) s = .next t ∧
        t.sec.bank = 1 - s.sec.bank ∧ t.node = s.node))

/-- HOST_RDMA_WRITE, HOST_RDMA_READ, EVENT_CONSUMED_WRITE and INGRESS_WINDOW complete (R20, R22, R155, R156, R311, R312, R318, R389): each
access is made and answered on the wire, or waits in its class buffer for its window. -/
def Obligations.HostAccessesComplete : Prop :=
  (∀ (s : State) (qp : Nat) (q : QPair) (addr : BitVec 64) (b : Bytes) (how : FrameIn), Memory.wf s.mem = true →
    s.takesRdma qp q how.tagOk → s.gates (16 + q.port) 1 = [] → b ≠ [] → faRegion addr.toNat = 4 →
    (s.refusal qp addr.toNat b.length true = none → bitsOf addr.toNat 47 46 ≠ 2 →
      ∃ t x, exec (.hostRdmaWrite qp addr b how) s = .next t ∧ Memory.readN t.mem addr.toNat b.length = b ∧
        (∀ a, a < addr.toNat ∨ addr.toNat + b.length ≤ a → Memory.read t.mem a = Memory.read s.mem a) ∧
        t.resp = .done ∧ t.tx = s.tx ++ [x] ∧ x.msg = .ack qp false ∧ x.port = 16 + q.port ∧ x.cls = 7 ∧
        { t with mem := s.mem, resp := s.resp, tx := s.tx } = s) ∧
    (s.refusal qp addr.toNat b.length true = none → bitsOf addr.toNat 47 46 = 2 → ∀ r, mget s.rings (bitsOf addr.toNat 45 30) = some r →
      ∃ t r1, exec (.hostRdmaWrite qp addr b how) s = .next t ∧ mget t.rings (bitsOf addr.toNat 45 30) = some r1 ∧
        { r1 with reqTail := r.reqTail, cplHead := r.cplHead } = r ∧
        (addr.toNat % 2 ^ 30 = 0 → b.length = 4 → r1.reqTail = leNat b ∧ r1.cplHead = r.cplHead % 2 ^ 32) ∧
        (addr.toNat % 2 ^ 30 = 8 → b.length = 4 → r1.cplHead = leNat b ∧ r1.reqTail = r.reqTail % 2 ^ 32) ∧
        { t with rings := s.rings, resp := s.resp, tx := s.tx } = s) ∧
    (∀ e, s.refusal qp addr.toNat b.length true = some e → exec (.hostRdmaWrite qp addr b how) s =
      .next ({ s.raise e locField addr.toNat with resp := .nak }.emit (16 + q.port) 7 (.ack qp true)))) ∧
  (∀ (s : State) (qp : Nat) (q : QPair) (addr : BitVec 64) (b : Bytes) (how : FrameIn), s.takesRdma qp q how.tagOk →
    (s.gates (16 + q.port) 1 = [] → b ≠ [] → faRegion addr.toNat ≤ 1 → s.refusal qp addr.toNat b.length true = none →
      exec (.hostRdmaWrite qp addr b how) s =
        .next ({ s with tier := { s.tier with landing := s.tier.landing ++ [(addr.toNat, b)] }, resp := .done }.emit (16 + q.port) 7
          (.ack qp false))) ∧
    (s.gates (16 + q.port) 1 ≠ [] → (s.ep q.port).queued (s.classIn q.port how) + b.length ≤ 524288 →
      ∃ t, exec (.hostRdmaWrite qp addr b how) s = .next t ∧
        (t.ep q.port).inQ = (s.ep q.port).inQ ++ [⟨s.classIn q.port how, qp, addr.toNat, b⟩] ∧ { t with eth := s.eth } = s)) ∧
  (∀ (s : State) (qp : Nat) (q : QPair) (addr : BitVec 64) (n : Nat) (tagOk : Bool), s.takesRdma qp q tagOk → n ≠ 0 →
    (s.readsOut qp < 16 → faRegion addr.toNat = 4 → bitsOf addr.toNat 47 46 ≠ 2 → s.refusal qp addr.toNat n false = none →
      exec (.hostRdmaRead qp addr n tagOk) s = .next ({ s with resp := .data (Memory.readN s.mem addr.toNat n) }.emit (16 + q.port) q.cls
        (.reply qp (Memory.readN s.mem addr.toNat n)))) ∧
    (s.readsOut qp < 16 → ∀ e, s.refusal qp addr.toNat n false = some e → exec (.hostRdmaRead qp addr n tagOk) s =
      .next ({ s.raise e locField addr.toNat with resp := .nak }.emit (16 + q.port) 7 (.ack qp true))) ∧
    (16 ≤ s.readsOut qp → exec (.hostRdmaRead qp addr n tagOk) s = .next ({ s with resp := .nak }.emit (16 + q.port) 7 (.ack qp true)))) ∧
  (∀ (s : State) (qp off : Nat) (b : Bytes), (mget s.qps qp).isSome = true →
    (s.consumedOk off b = true → exec (.eventConsumedWrite qp off b) s =
      .next { s with ev := { s.ev with consumed := leNat b }, resp := .done }) ∧
    (s.consumedOk off b = false → exec (.eventConsumedWrite qp off b) s =
      .next { s.raise 0x6001 locField (7 * 2 ^ 60 + off) with resp := .nak })) ∧
  ∀ (s : State) (port classes : Nat),
    ((∀ w ∈ (s.ep port).inQ, bit (classes &&& s.openClasses (16 + port) 1) w.cls = false) →
      ∃ t, exec (.ingressWindow port classes) s = .next t ∧ (t.ep port).inQ = (s.ep port).inQ ∧ { t with eth := s.eth } = s) ∧
    (∀ w q, (s.ep port).inQ = [w] → bit (classes &&& s.openClasses (16 + port) 1) w.cls = true → mget s.qps w.qp = some q →
      Memory.wf s.mem = true → w.data ≠ [] → w.addr < 2 ^ 64 → faRegion w.addr = 4 → bitsOf w.addr 47 46 ≠ 2 →
      s.refusal w.qp w.addr w.data.length true = none →
      ∃ t x, exec (.ingressWindow port classes) s = .next t ∧ (t.ep port).inQ = [] ∧ Memory.readN t.mem w.addr w.data.length = w.data ∧
        (∀ a, a < w.addr ∨ w.addr + w.data.length ≤ a → Memory.read t.mem a = Memory.read s.mem a) ∧
        t.tx = s.tx ++ [x] ∧ x.msg = .ack w.qp false)

/-- READ_EXPEDITED, WRITE_EXPEDITED, READ_INIT, WRITE_INIT, SEGMENT, ABORT, TRANSFER_IDLE_EXPIRY and TRANSMIT_OPPORTUNITY complete. -/
def Obligations.FieldTransfersComplete : Prop :=
  (∀ (s : State) (f : FdpFrame), s.takesFrame 1 f → readFail f.index f.sub true = none →
    exec (.readExpedited f) s = .next ((s.tookFrame f).respond 1 f 0 true 0 ((s.tookFrame f).frameRead f))) ∧
  (∀ (s : State) (f : FdpFrame) (r : DRow), s.takesFrame 2 f → stageRow f.index f.sub = .inr r → longEntry r.typ = false →
    f.value.length ≤ 32 →
    exec (.writeExpedited f) s = .next ((((s.tookFrame f).stageValue (.mac f.mac) f.index f.sub f.value).1).answer 2 f
      ((s.tookFrame f).stageValue (.mac f.mac) f.index f.sub f.value).2)) ∧
  (∀ (s : State) (f : FdpFrame), s.takesFrame 3 f → s.xfer f.mac = none → readFail f.index f.sub false = none →
    let v := (s.tookFrame f).frameRead f
    ∃ t, exec (.readInit f) s = .next t ∧
      t.dict.resp = s.dict.resp ++ [⟨f.mac, 3, decide (v.length ≤ 1024), 0, f.transaction, f.index, f.sub, v.length, v.take 1024⟩] ∧
      (1024 < v.length → t.xfer f.mac = some ⟨f.mac, f.transaction, false, f.index, f.sub, v.length, v, 1024, s.step.number⟩)) ∧
  (∀ (s : State) (f : FdpFrame) (r : DRow), s.takesFrame 4 f → s.xfer f.mac = none → stageRow f.index f.sub = .inr r →
    s.pendingSet (.mac f.mac) = false → (dsize r.typ = some f.total ∨ (dsize r.typ = none ∧ f.total ≤ 16777216)) →
    f.value.length < f.total → f.last = false →
    ∃ t, exec (.writeInit f) s = .next t ∧
      t.xfer f.mac = some ⟨f.mac, f.transaction, true, f.index, f.sub, f.total, f.value, f.value.length, s.step.number⟩ ∧
      t.dict.resp = s.dict.resp ++ [⟨f.mac, 4, true, 0, f.transaction, f.index, f.sub, 0, []⟩] ∧ t.dict.sets = s.dict.sets) ∧
  (∀ (s : State) (f : FdpFrame) (x : Xfer), s.takesFrame 5 f → s.xfer f.mac = some x → f.total = x.moved →
    (x.write = true → f.last = false → x.buf.length + f.value.length < x.total → ∃ t, exec (.segment f) s = .next t ∧
      t.xfer f.mac = some { x with buf := x.buf ++ f.value, moved := x.buf.length + f.value.length, since := s.step.number }) ∧
    (x.write = false → x.moved + (sl x.buf x.moved 1024).length < x.total → ∃ t, exec (.segment f) s = .next t ∧
      t.xfer f.mac = some { x with moved := x.moved + (sl x.buf x.moved 1024).length, since := s.step.number } ∧
      t.dict.resp = s.dict.resp ++ [⟨f.mac, 5, false, 0, f.transaction, f.index, f.sub, x.moved, sl x.buf x.moved 1024⟩])) ∧
  (∀ (s : State) (f : FdpFrame) (x : Xfer), s.takesFrame 6 f → s.xfer f.mac = some x → f.value.length = 2 → leNat f.value = x.txn →
    ∃ t, exec (.abort f) s = .next t ∧ t.xfer f.mac = none ∧
      t.dict.resp = s.dict.resp ++ [⟨f.mac, 6, true, 0, f.transaction, f.index, f.sub, 0, []⟩]) ∧
  (∀ (s : State) (mac : Nat) (x : Xfer), s.xfer mac = some x → x.since + s.comN 0x1020 5 ≤ s.step.number →
    ∃ t, exec (.transferIdleExpiry mac) s = .next t ∧ t.xfer mac = none ∧ t.dict.expired.contains mac = true) ∧
  (∀ (s : State) (r : FdpResp) (rest : List FdpResp), s.dict.resp = r :: rest → s.liveN 0x1020 1 ≠ 0 →
    ∃ t, exec .transmitOpportunity s = .next t ∧ t.dict.resp = rest ∧ t.dict.sent = s.dict.sent ++ [r] ∧ t.dict.sets = s.dict.sets)

/-- COMMIT, DISCARD, MIRROR_STAGING_WRITE, DICT_COMMIT, DICT_DISCARD and COMMIT_APPLY complete (R329 to R331). -/
def Obligations.StagingAndCommitsComplete : Prop :=
  (∀ (s : State) (f : FdpFrame), s.takesFrame 7 f → s.pendingSet (.mac f.mac) = false →
    ∃ t q, exec (.commit f) s = .next t ∧ t.dict.commits = s.dict.commits ++ [q] ∧ q.src = .mac f.mac ∧ q.txn = some f.transaction ∧
      s.step.number + 16 ≤ q.due ∧ t.dict.committed = s.dict.committed) ∧
  (∀ (s : State) (f : FdpFrame), s.takesFrame 8 f → s.pendingSet (.mac f.mac) = false →
    ∃ t, exec (.discard f) s = .next t ∧ t.dict.sets = s.dict.sets.filter (fun x => x.src != .mac f.mac) ∧
      t.dict.committed = s.dict.committed) ∧
  (∀ (s : State) (qp idx sub : Nat) (b : Bytes) (r : DRow), s.handServes = true → s.privileged qp = true → stageRow idx sub = .inr r →
    dsize r.typ = some b.length → encOk r.typ b = true → s.pendingSet (.qp qp) = false → idx ≠ 0x1030 → s.stagedSet (.qp qp) = none →
    s.dict.sets.length < 8 → b.length ≤ 4194304 →
    ∃ t, exec (.mirrorStagingWrite qp idx sub 0 b) s = .next t ∧ t.resp = .done ∧
      t.dict.sets = s.dict.sets.filter (fun x => x.src != .qp qp) ++ [⟨.qp qp, [(dkey idx sub, b)], false⟩] ∧
      t.dict.committed = s.dict.committed) ∧
  (∀ (s : State) (qp : Nat), s.handServes = true → s.privileged qp = true → s.pendingSet (.qp qp) = false →
    (∃ t q, exec (.dictCommit qp) s = .next t ∧ t.resp = .done ∧ t.dict.commits = s.dict.commits ++ [q] ∧ q.src = .qp qp ∧ q.txn = none) ∧
    (∃ t, exec (.dictDiscard qp) s = .next t ∧ t.resp = .done ∧ t.dict.sets = s.dict.sets.filter fun x => x.src != .qp qp)) ∧
  (∀ (s : State) (q : CommitReq) (rest : List CommitReq), s.dict.commits = q :: rest → s.handServes = true →
    let vals := (((s.stagedSet q.src).map (·.vals)).getD []).map fun e => (e.1, clearReserved e.1 e.2)
    let s0 := { s with dict := { s.dict with commits := s.dict.commits.filter fun x => x != q } }
    ∃ t, exec .commitApply s = .next t ∧ t.dict.commits = s.dict.commits.filter (fun x => x != q) ∧
      t.dict.sets = s.dict.sets.filter (fun x => x.src != q.src) ∧
      ((CommitCtx.fail ⟨q.src, vals, s0, s0.withValues vals⟩).isSome = true → t.dict.committed = s.dict.committed ∧
        t.dict.active = s.dict.active ∧ t.rings = s.rings ∧ t.shards = s.shards))

/-- ETH_LINK_DOWN, ETH_LINK_UP, ETH_FAILOVER, ARP_ND_ECHO and PFC_PAUSE complete (R310, R312, R314). -/
def Obligations.EthernetPortsComplete : Prop :=
  ∀ (s : State) (e : Nat), e < 4 →
    (s.linkUp e = true → ∃ t, exec (.ethLinkDown e) s = .next t ∧ t.linkUp e = false ∧ (t.ep e).downAt = some s.step.number ∧
      (t.ep e).paused = [] ∧ (t.ep e).inQ = (s.ep e).inQ ∧ t.qps = s.qps) ∧
    (∀ x : EthUp, x.port = e → s.linkUp e = false → s.ownerOf 4 e ≠ ownOff → (if s.actN (0x8040 + e) 1 = 0 then x.kr4 else x.cr4) = true →
      ∃ t, exec (.ethLinkUp x) s = .next t ∧ t.linkUp e = true ∧ (t.ep e).downAt = none ∧ (t.ep e).movedTo = none ∧ t.qps = s.qps) ∧
    (∀ x : EthUp, x.port = e → s.linkUp e = true ∨ (if s.actN (0x8040 + e) 1 = 0 then x.kr4 else x.cr4) = false →
      exec (.ethLinkUp x) s = .next s) ∧
    (∀ d, (s.ep e).downAt = some d → d + 4 ≤ s.step.number → (s.ep e).movedTo = none → s.grant 13 = true →
      s.comN (0x8040 + e) 7 < 4 → s.comN (0x8040 + e) 7 ≠ e → s.linkUp (s.comN (0x8040 + e) 7) = true →
      ∃ t, exec (.ethFailover e) s = .next t ∧ t.liveN (0x8040 + e) 6 = 2 ∧ (t.ep e).movedTo = some (s.comN (0x8040 + e) 7) ∧
        t.qps = s.qps.map fun x => (x.1, if x.2.port = e then { x.2 with port := s.comN (0x8040 + e) 7 } else x.2)) ∧
    (s.linkUp e = true → ∀ (k : EchoKind) (x : NetFrame),
      (k ≠ .other → 64 ≤ x.len → x.len ≤ 4224 → x.tags ≤ 1 → x.frag = false →
        ∃ n, 8 ≤ n ∧ n ≤ 11 ∧ exec (.arpNdEcho e k x) s = .next (s.net e 0 n x.src)) ∧
      (k = .other ∨ x.len < 64 ∨ 4224 < x.len ∨ 1 < x.tags ∨ x.frag = true →
        exec (.arpNdEcho e k x) s = .next (s.modEp e fun p => { p with dropped := p.dropped + 1 }))) ∧
    (∀ prio, prio < 8 → s.pfc e prio = true →
      (∃ t, exec (.pfcPause e prio true) s = .next t ∧
        mget (t.ep e).paused prio = some ((mget (s.ep e).paused prio).getD s.step.number)) ∧
      exec (.pfcPause e prio false) s = .next (s.modEp e fun p => { p with paused := mdel p.paused prio }))

/-- CM_MESSAGE, ROCE_REFUSED_OPCODE, CNP_RECEIVE, CE_MARKED_PACKET, ROCE_ACK_TIMEOUT, ROCE_ACK_RECEIVED and SHAPER_REFILL complete. -/
def Obligations.QueuePairsComplete : Prop :=
  (∀ (s : State) (e qp ps mtu tc psn : Nat), s.linkUp e = true → 1 < qp → qp < 2 ^ 24 → mget s.qps qp = none →
    mtu ∈ [256, 512, 1024, 2048, 4096] → (s.qps.filter fun x => x.2.ud == false).length < s.liveN 0x8050 1 → s.ownerOf 4 e = ownHost →
    ∃ t q, exec (.cmMessage e (.req qp ps mtu tc psn false)) s = .next t ∧ mget t.qps qp = some q ∧ q.state = 1 ∧ q.port = e ∧ q.mtu = mtu ∧
      q.recvPsn = psn % 2 ^ 24 ∧ q.rate = 64 ∧ q.rateExp = 0 ∧ (∀ k, k ≠ qp → mget t.qps k = mget s.qps k) ∧ t.tx.length = s.tx.length + 1) ∧
  (∀ (s : State) (qp : Nat) (q : QPair), mget s.qps qp = some q →
    (∀ e, s.linkUp e = true → q.state = 1 → ∃ t, exec (.cmMessage e (.rtu qp)) s = .next t ∧ mget t.qps qp = some { q with state := 2 }) ∧
    (∀ e, s.linkUp e = true → ∃ t, exec (.cmMessage e (.dreq qp)) s = .next t ∧ mget t.qps qp = none ∧
      (mrisesFrom 0 s.qps = true → ∀ k, k ≠ qp → mget t.qps k = mget s.qps k) ∧ ∀ x ∈ t.tx, (x ∈ s.tx ∧ x.msg.qpn ≠ some qp) ∨ x.msg = .net 3 (beBytes 4 qp)) ∧
    exec (.roceRefusedOpcode qp) s = .next ((s.net q.port 7 7 (beBytes 4 qp)).raise 0x8017 (locEth q.port) 0) ∧
    (∃ t r, exec (.cnpReceive qp) s = .next t ∧ mget t.qps qp = some r ∧ { r with rate := q.rate, rateExp := q.rateExp } =
        { q with cuts := q.cuts + 1, congested := true } ∧
      (q.rate ≤ 2 * 2 ^ q.rateExp → r.rate = 1 ∧ r.rateExp = 0) ∧
      (2 * 2 ^ q.rateExp < q.rate → 2 * r.rate * 2 ^ q.rateExp = q.rate * 2 ^ r.rateExp)) ∧
    (∀ now, (∀ l, q.lastCnp = some l → l + s.actN (0x8040 + q.port) 9 ≤ now) → ∃ t, exec (.ceMarkedPacket qp now) s = .next t ∧
      mget t.qps qp = some { q with lastCnp := some now } ∧ t.tx.length = s.tx.length + 1) ∧
    (∀ now l, q.lastCnp = some l → now < l + s.actN (0x8040 + q.port) 9 → exec (.ceMarkedPacket qp now) s = .next s) ∧
    (q.state = 2 → q.outstanding ≠ [] →
      (q.retries < q.retryMax → ∃ t, exec (.roceAckTimeout qp) s = .next t ∧
        mget t.qps qp = some { q.rewind with retries := q.retries + 1 } ∧
        t.tx = q.resends ++ s.tx.filter fun x => x.msg.qp != some qp || x.done == 0) ∧
      (q.retryMax ≤ q.retries → ∃ t, exec (.roceAckTimeout qp) s = .next t ∧
        mget t.qps qp = some { q with state := 3, outstanding := [] } ∧ ∀ x ∈ t.tx, x ∈ s.tx ∧ x.msg.qp ≠ some qp)) ∧
    (∀ psn x pre post, q.state = 2 → q.outstanding = pre ++ (psn, x) :: post → (∀ e ∈ pre, e.1 ≠ psn) →
      (∃ t, exec (.roceAckReceived qp psn false) s = .next t ∧
        mget t.qps qp = some { q with outstanding := post, ackPsn := psn, retries := 0 } ∧ t.tx = s.tx) ∧
      (q.retries < q.retryMax → ∃ t, exec (.roceAckReceived qp psn true) s = .next t ∧
        mget t.qps qp = some { q with outstanding := [], sendPsn := psn, sendSeq := q.sendSeq - (if q.sendPsn < psn then 1 else 0),
                                      retries := q.retries + 1 })) ∧
    (∀ port, port < 20 → port = 16 + q.port → ∃ t r, exec (.shaperRefill port) s = .next t ∧ mget t.qps qp = some r ∧
      r.congested = false ∧ r.spent = 0 ∧ (q.congested = true → r.rate = q.rate ∧ r.rateExp = q.rateExp) ∧
      (q.congested = false → 62 * 2 ^ q.rateExp ≤ q.rate → r.rate = 64 ∧ r.rateExp = 0) ∧
      (q.congested = false → q.rate < 62 * 2 ^ q.rateExp → r.rate = q.rate + 2 * 2 ^ q.rateExp ∧ r.rateExp = q.rateExp)))

/-- EGRESS_WINDOW completes (R307, R308, R311, R315): with one frame waiting at its port, whose class is open for at least the frame's wire time,
the frame leaves: a flit under the next FSN into the replay buffer, a RoCEv2 write under the next PSN of its queue pair; with none waiting nothing
leaves. -/
def Obligations.FramesLeaveInTheirWindow : Prop :=
  ∀ (s : State) (p ns classes : Nat),
    (∀ (x : TxItem) (rest : List TxItem), s.tx = x :: rest → x.port = p → x.done = 0 → s.framesOf x = 1 → (∀ y ∈ rest, y.port ≠ p) →
      s.portSends p = true → s.classOk p 7 = true → x.cls = 7 → bit (classes &&& s.openClasses p 0) 7 = true →
      s.wirePs x ≤ s.windowPs p ns 7 →
      (∀ dst b, p < 16 → x.msg = .hedge dst b → ∃ t f y, exec (.egressWindow p ns classes) s = .next t ∧ t.tx = rest ∧
        t.sent = s.sent ++ [y] ∧ y.msg = x.msg ∧ y.done = 1 ∧ (t.hp p).replay = (s.hp p).replay ++ [f] ∧ f.fsn = (s.hp p).txFsn ∧
        (t.hp p).txFsn = ((s.hp p).txFsn + 1) % 65536 ∧ t.mem = s.mem ∧ t.qps = s.qps) ∧
      (∀ k a m d imm q, 16 ≤ p → p < 20 → x.msg = .write k a m d imm → mget s.qps k = some q → s.rateOk x = true →
        ∃ t y r, exec (.egressWindow p ns classes) s = .next t ∧ t.tx = rest ∧ t.sent = s.sent ++ [y] ∧ y.msg = x.msg ∧ y.done = 1 ∧
          mget t.qps k = some r ∧ r.outstanding = q.outstanding ++ [(q.sendPsn, x)] ∧ r.sendPsn = (q.sendPsn + 1) % 2 ^ 24 ∧
          r.spent = q.spent + s.wireBytes x ∧ t.mem = s.mem)) ∧
    (p < 20 → (∀ y ∈ s.tx, y.port ≠ p) → ∃ t, exec (.egressWindow p ns classes) s = .next t ∧ t.tx = s.tx ∧ t.sent = s.sent ∧
      t.qps = s.qps ∧ t.mem = s.mem ∧ (t.hp p).replay = (s.hp p).replay)

/-- LANE_FAILURE, LANE_SWAP, LANE_RETRAIN, PORT_RECOVERY, PORT_TRAINING, PORT_REUP and PEER_ID complete (R304, R305, R306, R307, R367). -/
def Obligations.LanesAndPortsComplete : Prop :=
  ∀ (s : State) (p : Nat), p < 16 →
    (∀ lane sp, s.hState p = 2 → lane ≤ 8 → bit (s.laneMap p) lane = true → (s.hp p).spare = some sp →
      (∀ x : LaneFault, x.lock = true ∨ s.actN 0x8010 3 < x.errors →
        (s.spareArm p = true → x.peerArmed = true → ∃ t, exec (.laneFailure p lane x) s = .next t ∧ (t.hp p).spare = none ∧
          (t.hp p).failed = some lane ∧ t.hState p = 2 ∧ t.laneMap p = setBit (clrBit (s.laneMap p) lane) sp % 65536) ∧
        (s.spareArm p = false ∨ x.peerArmed = false → ∃ t, exec (.laneFailure p lane x) s = .next t ∧ t.hState p = 3 ∧
          (t.hp p).spare = some sp ∧ (t.hp p).recTries = 0)) ∧
      (∀ x : LaneFault, x.lock = false → x.errors ≤ s.actN 0x8010 3 → exec (.laneFailure p lane x) s = .next s) ∧
      (s.spareArm p = true → ∃ t, exec (.laneSwap p lane) s = .next t ∧ (t.hp p).spare = none ∧ (t.hp p).failed = some lane ∧
        t.laneMap p = setBit (clrBit (s.laneMap p) lane) sp % 65536) ∧
      (s.spareArm p = false → exec (.laneSwap p lane) s = .next s)) ∧
    (∀ l, (s.hp p).failed = some l → s.settling = true → (s.hp p).tries < s.actN 0x8010 2 → (s.hp p).triedAt ≠ some s.step.number →
      (∃ t, exec (.laneRetrain p true) s = .next t ∧ (t.hp p).spare = some l ∧ (t.hp p).failed = none) ∧
      (∃ t, exec (.laneRetrain p false) s = .next t ∧ (t.hp p).tries = (s.hp p).tries + 1 ∧ (t.hp p).failed = some l ∧
        ∀ ok, exec (.laneRetrain p ok) t = .next t)) ∧
    (s.settling = false → ∀ ok rtt, exec (.laneRetrain p ok) s = .next s ∧ exec (.portRecovery p ok rtt) s = .next s) ∧
    (∀ rtt, s.hState p = 3 → s.settling = true → (s.hp p).recAt ≠ some s.step.number →
      let gone := fun t : State => t.hState p = 0 ∧ (t.hp p).replay = [] ∧ ∀ x ∈ t.tx, x.port ≠ p
      ((s.hp p).recTries < s.actN 0x8010 2 → rtt ≤ s.liveN 0x8010 5 → ∃ t, exec (.portRecovery p true rtt) s = .next t ∧ t.hState p = 2 ∧
        (t.hp p).rtt = rtt ∧ (t.hp p).replay = (s.hp p).replay.map fun r => { r with retried := 0 }) ∧
      (s.liveN 0x8010 5 < rtt → ∃ t, exec (.portRecovery p true rtt) s = .next t ∧ gone t) ∧
      ((s.hp p).recTries + 1 < s.actN 0x8010 2 → ∃ t, exec (.portRecovery p false rtt) s = .next t ∧
        (t.hp p).recTries = (s.hp p).recTries + 1 ∧ t.hState p = 3 ∧ ∀ ok, exec (.portRecovery p ok rtt) t = .next t) ∧
      (s.actN 0x8010 2 ≤ (s.hp p).recTries + 1 → ∃ t, exec (.portRecovery p false rtt) s = .next t ∧ gone t)) ∧
    (∀ peer rtt ek ct, s.hState p = 1 → s.ownerOf 3 p ≠ ownOff →
      (rtt ≤ s.liveN 0x8010 5 → ∃ t, exec (.portTraining p peer rtt true true ek ct) s = .next t ∧ t.hState p = 2 ∧
        t.peerOf p = peer % 2 ^ 64 ∧ t.laneMap p = 255 ∧ (t.hp p).spare = some 8 ∧ (t.hp p).rtt = rtt ∧
        ((t.hp p).key.isSome ↔ s.comN 0x9000 6 = 1) ∧ (t.hp p).txFsn = 0 ∧ (t.hp p).rxFsn = 0) ∧
      (∀ rep, ∃ t, exec (.portTraining p peer rtt false rep ek ct) s = .next t ∧ t.hState p = 0) ∧
      (s.comN 0x9000 6 = 1 → ∃ t, exec (.portTraining p peer rtt true false ek ct) s = .next t ∧ t.hState p = 0)) ∧
    (s.hState p = 0 → s.actN 0x8010 6 ≠ 0 → s.step.number % s.actN 0x8010 6 = 0 → s.ownerOf 3 p ≠ ownOff →
      ∃ t, exec (.portReup p) s = .next t ∧ t.hState p = 1 ∧ t.hedge = s.hedge) ∧
    (s.actN 0x8010 6 = 0 → exec (.portReup p) s = .next s) ∧
    (∀ peer, s.hState p = 2 → ∃ t, exec (.peerId p peer) s = .next t ∧ t.peerOf p = peer % 2 ^ 64 ∧ t.hedge = s.hedge)

/-- DATA_FLIT, ACK, RETRY and REPLAY_TIMEOUT complete (R307, R308). -/
def Obligations.FlitsComplete : Prop :=
  ∀ (s : State) (p : Nat), p < 16 → s.hState p = 2 →
    (∀ (f : Bytes) (tagOk : Bool), flitCrcOk f = true → u8 f 0 = 1 → u16 f 2 = (s.hp p).rxFsn → 1 ≤ u16 f 6 → u16 f 6 ≤ 244 →
      flitFirst f = true → flitLast f = false → mget (s.hp p).halves (flitClass f) = none →
      ∃ t, exec (.dataFlit p f true tagOk) s = .next t ∧ (t.hp p).rxFsn = (u16 f 2 + 1) % 65536 ∧ (t.hp p).gap = false ∧
        mget (t.hp p).halves (flitClass f) = some (sl f 8 (u16 f 6)) ∧ { t with hedge := s.hedge } = s) ∧
    (∀ (f : Bytes) (fecOk tagOk : Bool), fecOk = false ∨ flitCrcOk f = false → (s.hp p).gap = false →
      ∃ t, exec (.dataFlit p f fecOk tagOk) s = .next t ∧ (t.hp p).gap = true ∧
        (t.hp p).ctl = (s.hp p).ctl ++ [(s.hp p).ctlFlit 2 (ctlRecord 1 (s.hp p).rxFsn)] ∧ (t.hp p).rxFsn = (s.hp p).rxFsn ∧
        (t.hp p).halves = (s.hp p).halves ∧ exec (.dataFlit p f fecOk tagOk) t = .next t) ∧
    (∀ fsn pre r post, (s.hp p).replay = pre ++ r :: post → r.fsn = fsn → (∀ x ∈ pre, x.fsn ≠ fsn) →
      (∃ t, exec (.ack p fsn) s = .next t ∧ (t.hp p).replay = post ∧ { t with hedge := s.hedge } = s) ∧
      (∃ t, exec (.retry p fsn) s = .next t ∧
        (t.hp p).replay = pre ++ (r :: post).map fun x => { x with retried := x.retried + 1 }) ∧
      (pre = [] → ∃ t, exec (.replayTimeout p) s = .next t ∧
        (t.hp p).replay = (r :: post).map fun x => { x with retried := x.retried + 1 }))

/-- NOP, ROW_COPY, ROW_CLEAR, WRITE_ROW, EW_ADD, EW_MUL and EW_ACT complete (R252, R253, R256, R261). -/
def Obligations.TillingRowCommandsComplete : Prop :=
  ∀ (s : State) (g : GroupId) (r : Bytes), Memory.wf s.mem = true →
    (s.atTill g 0x00 r → ∃ t, exec (.nop g) s = .next t ∧ s.tillEnds t g r 0 ∧ t.mem = s.mem) ∧
    (s.atTill g 0x01 r → ∃ t, exec (.rowCopy g) s = .next t ∧ s.tillEnds t g r 0 ∧ s.rowWritten t g r fun b => s.row g b (rA r)) ∧
    (s.atTill g 0x02 r → ∃ t, exec (.rowClear g) s = .next t ∧ s.tillEnds t g r 0 ∧ s.rowWritten t g r fun _ => zeros 1024) ∧
    (s.atTill g 0x03 r → ∃ t, exec (.writeRow g) s = .next t ∧ s.tillEnds t g r 0 ∧
      s.rowWritten t g r fun _ => padTo 1024 (s.tg g).rowIn) ∧
    (s.atTill g 0x20 r → ∃ t, exec (.ewAdd g) s = .next t ∧ s.tillEnds t g r 0 ∧ s.rowWritten t g r fun b =>
      rowOfElems (rElem r) (((elemsOf (rElem r) (s.row g b (rA r))).zip (elemsOf (rElem r) (s.row g b (rB r)))).map fun p =>
        clampS (8 * elemBytes (rElem r)) (p.1 + p.2))) ∧
    (s.atTill g 0x21 r → ∃ t, exec (.ewMul g) s = .next t ∧ s.tillEnds t g r 0 ∧ s.rowWritten t g r fun b =>
      rowOfElems (rElem r) (((elemsOf (rElem r) (s.row g b (rA r))).zip (elemsOf (rElem r) (s.row g b (rB r)))).map fun p =>
        clampS (8 * elemBytes (rElem r)) (shiftR (p.1 * p.2) (rFunc r)))) ∧
    (s.atTill g 0x22 r → ∃ t, exec (.ewAct g) s = .next t ∧ s.tillEnds t g r 0 ∧ s.rowWritten t g r fun b =>
      rowOfElems 0 ((elemsOf 0 (s.row g b (rA r))).map (ewActOf (rFunc r) (sInt 8 (u8 r 28)) (sInt 8 (u8 r 29)))))

/-- AND, OR, XOR and NOT complete (R253, R255): the destination pair holds the two rails of the result. -/
def Obligations.BitwiseCommandsKeepTwoRails : Prop :=
  ∀ (s : State) (g : GroupId) (r : Bytes) (c : Instr) (op : Nat), Memory.wf s.mem = true →
    (c = .tillAnd g ∧ op = 0x10) ∨ (c = .tillOr g ∧ op = 0x11) ∨ (c = .tillNot g ∧ op = 0x12) ∨ (c = .tillXor g ∧ op = 0x13) →
    s.atTill g op r →
    ∃ t, exec c s = .next t ∧ s.tillEnds t g r 0 ∧ ∀ b ∈ bankList r,
      let x := railsOf op (s.row g b (rA r)) (s.row g b (rA r + 1)) (s.row g b (rB r)) (s.row g b (rB r + 1))
      t.row g b (rDst r) = x.1 ∧ t.row g b (rDst r + 1) = x.2

/-- READ_ROW and MATVEC complete (R256, R259, R266): where their checks pass, where the data do not agree, and where the on-die ECC reports an
error, which ONDIE_UE keeps. -/
def Obligations.ReadRowAndMatvecComplete : Prop :=
  (∀ (s : State) (g : GroupId) (r : Bytes), s.atTill g 0x04 r →
    let a := s.row g (rBank0 r) (rA r)
    let b := if rFunc r = 1 then s.row g (rBank0 r ^^^ 1) (rA r) else s.row g (rBank0 r) (rA r + 1)
    let railed := (a.zip b).all fun p => p.1 ^^^ p.2 == (0xFF : Byte)
    ∀ chk : Chk, ∃ t n, exec (.readRow ⟨g, chk⟩) s = .next t ∧ s.tillEnds t g r n ∧ (t.tg g).rowOut = a ++ b ∧
      (chk = .ok → rFunc r = 0 → n = (if railed then 0 else 1)) ∧ (chk = .ok → rFunc r = 1 → n = (if a = b then 0 else 1)) ∧
      (chk = .ok → rFunc r = 2 → n = 0) ∧ (Chk.bad chk = true → rFunc r = 2 → n = 1) ∧
      (chk = .twice → rFunc r ≠ 2 → n = 1) ∧ (∀ page, chk = .readUe page → rFunc r ≠ 2 → n = 3 ∧ (t.tmReg g).ue = true)) ∧
  (∀ (s : State) (g : GroupId) (r : Bytes), s.atTill g 0x30 r →
    let x := padTo 32768 (s.tg g).xIn
    let xs := (List.range (rVec r)).map fun v => (sl x (v * rK r) (rK r)).map (·.toInt)
    let ys := xs.map fun xv => (s.blockWeights g r).map fun w => dotInt w xv
    let cs := (splitAll 8 ((s.rowsBytes g (rBank0 r) (sumRows r)).take (8 * rK r))).map fun b => sInt 64 (leNat b)
    let agree := (xs.map fun xv => dotInt cs xv) = ys.map (fun y => y.foldl (· + ·) (0 : Int))
    let holds := fun (t : State) => (t.tg g).acc = ys.flatten ∧
      (t.tg g).yOut = overlay (padTo 8192 (s.tg g).yOut) 0 (ys.flatMap fun y => y.flatMap fun v => leBytes 4 (ofSInt 32 v)) ∧
      (t.tg g).sumY = overlay (padTo 128 (s.tg g).sumY) 0 ((ys.map fun y => y.foldl (· + ·) (0 : Int)).flatMap fun v =>
        leBytes 8 (ofSInt 64 v))
    (agree → ∃ t, exec (.matvec g .ok) s = .next t ∧ s.tillEnds t g r 0 ∧ t.mem = s.mem ∧ holds t) ∧
    (¬ agree → ∀ chk, Chk.ue chk = none → ∃ t, exec (.matvec g chk) s = .next t ∧ s.tillEnds t g r 1 ∧ holds t) ∧
    (∀ page, ∃ t, exec (.matvec g (.readUe page)) s = .next t ∧ s.tillEnds t g r 3 ∧ (t.tmReg g).ue = true))

/-- TILL_COMMAND_WRITE, TILLING_REFRESH_DUE, TILLING_ENTER, TILLING_RUN, TILLING_EXIT, TILLING_LOAD and TM_ACK_TIMEOUT complete. -/
def Obligations.TillingModeCommandsComplete : Prop :=
  (∀ (s : State) (g : GroupId) (r : Bytes), s.groupOk g = true → (s.tg g).st = 1 ∨ (s.tg g).st = 2 → r.length = 64 →
    ((s.tg g).fifo.length < 64 → ∃ t, exec (.tillCommandWrite g r) s = .next t ∧ (t.tg g).fifo = (s.tg g).fifo ++ [r] ∧
      { t with tills := s.tills } = s) ∧
    (64 ≤ (s.tg g).fifo.length → ∃ t, exec (.tillCommandWrite g r) s = .next t ∧ (t.tg g).fifo = (s.tg g).fifo ∧
      (t.tg g).lastRes = 4 ∧ (t.tg g).lastSeq = u16 r 2)) ∧
  (∀ (s : State) (g : GroupId) (r : Bytes), s.groupOk g = false ∨ ((s.tg g).st ≠ 1 ∧ (s.tg g).st ≠ 2) →
    exec (.tillCommandWrite g r) s = .next (s.raise 0x6002 (locPlot g.stack) (s.winAddr g 0x40))) ∧
  (∀ (s : State) (g : GroupId) (hot : Bool), s.groupOk g = true → (s.tg g).st = 1 →
    ((s.tg g).fifo = [] → ∃ t, exec (.tillingRefreshDue g hot) s = .next t ∧ (t.tg g).deficit = 0 ∧ (t.tg g).hot = hot) ∧
    ((s.tg g).fifo ≠ [] → (s.tg g).deficit < 8 → ∃ t, exec (.tillingRefreshDue g hot) s = .next t ∧
      (t.tg g).deficit = (s.tg g).deficit + 1 ∧ (t.tg g).hot = hot) ∧
    ((s.tg g).fifo ≠ [] → 8 ≤ (s.tg g).deficit → ∃ t, exec (.tillingRefreshDue g hot) s = .next t ∧
      (t.tg g).deficit = (s.tg g).deficit)) ∧
  (∀ (s : State) (idx : Nat) (x : Slice),
    (s.sliceAt idx 0x10 = some x → ∃ t, exec (.tillingEnter idx) s = .next t ∧
      (∀ g ∈ s.sliceGroups x, (s.tg g).st = 0 → (t.tg g).st = 1 ∧ (t.tg g).deficit = 0 ∧ (t.tg g).xIn = [] ∧ (t.tg g).sumY = [] ∧
        (t.tg g).acc = [] ∧ (t.tg g).ctrlAt = some s.step.number ∧ (t.tmReg g).ue = false) ∧
      (∀ g, (∀ h ∈ s.sliceGroups x, groupKey h ≠ groupKey g) → t.tg g = s.tg g) ∧ { t with tills := s.tills, tier := s.tier } = s) ∧
    (∀ g, s.sliceAt idx 0x11 = some x → s.sliceGroups x = [g] → (s.tg g).st = 1 → ∃ t, exec (.tillingRun idx) s = .next t ∧
      (t.tg g).fifo = (s.tg g).fifo ++ splitAll 64 (sl (((s.tierPlan).map (·.image)).getD []) (x.params % 2 ^ 44)
        (64 * bitsOf x.params 59 44)) ∧ { t with tills := s.tills } = s) ∧
    (s.sliceAt idx 0x12 = some x → ∃ t, exec (.tillingExit idx) s = .next t ∧
      ∀ g ∈ s.sliceGroups x, (s.tg g).st = 1 ∨ (s.tg g).st = 2 → (t.tg g).st = 0 ∧ (t.tg g).fifo = []) ∧
    (∀ (r : TillRow), Memory.wf s.mem = true → s.sliceAt idx 0x13 = some x → (s.sliceGroups x).contains r.g = true →
      r.bank < 80 → r.row < 4096 → (s.tg r.g).st = 0 → rowClass r.row = 4 →
      let u := s.rewriteBitmaps x.plot
      let blocks := (u.blocksOf r.g).filter fun b => inBlock b r.bank r.row
      (∀ d, u.bitmapAt r.g r.bank r.row = none → u.placeAt r.g r.bank r.row = none → blocks = [] →
        ∃ t, exec (.tillingLoad idx r (.write d)) s = .next t ∧ t.row r.g r.bank r.row = padTo 1024 d ∧ { t with mem := s.mem } = u ∧
          ∀ a, a < rowAddr r.g r.bank r.row ∨ rowAddr r.g r.bank r.row + 1024 ≤ a → Memory.read t.mem a = Memory.read s.mem a) ∧
      (∀ d, u.bitmapAt r.g r.bank r.row = none → u.placeAt r.g r.bank r.row = none → exec (.tillingLoad idx r (.write d)) s =
        .next (blocks.foldl (fun v b => v.sumBlock r.g b) (u.putRow r.g r.bank r.row d))) ∧
      (∀ d, u.bitmapAt r.g r.bank r.row ≠ none ∨ u.placeAt r.g r.bank r.row ≠ none → exec (.tillingLoad idx r (.write d)) s = .next u) ∧
      exec (.tillingLoad idx r .read) s = .next u ∧
      exec (.tillingLoad idx r .corrected) s = .next (u.countRow r.g.stack (tillRowNo r)) ∧
      exec (.tillingLoad idx r .ondieUe) s = .next (u.ondieRow r.g r.bank r.row) ∧
      (∀ b, u.bitmapAt r.g r.bank r.row = some b → exec (.tillingLoad idx r .rails) s =
        .next ((((u.bump 0x6021 3 1).raise 0x6021 (locPlot r.g.stack) 0).raise 0x3014 (locPlot r.g.stack) 0).badBitmap b.1)) ∧
      (u.bitmapAt r.g r.bank r.row = none → exec (.tillingLoad idx r .rails) s = .next u))) ∧
  (∀ (s : State) (g : GroupId), s.groupOk g = true → (s.tg g).ctrlAt = some s.step.number →
    ∃ t, exec (.tmAckTimeout g) s = .next t ∧ (t.tg g).st = 3 ∧ (t.tg g).fifo = [] ∧ (s.tillDeps g = [] → t.mem = s.mem))

/-- CELL_PUSH, CELL_POP and QUEUE_FLUSH_APPLY complete (R297 to R302): a packet pushed whole or in parts, one that runs out of credit, the oldest
packet with its words whole or damaged, and a pending flush. -/
def Obligations.QueuesMoveWholePackets : Prop :=
  ∀ (s : State) (plot q : Nat), plot < 16 → q < 65536 →
    let x := s.queue plot q
    (∀ (b : Bytes) (d : Nat × Nat × Nat), Memory.wf s.mem = true → s.queueDef plot q = some d → b ≠ [] →
      s.cellsFit plot (ceilDiv b.length 56) →
      (ceilDiv b.length 56 ≤ x.credits → x.fate = 0 → ∃ cells : List Nat, cells.length = ceilDiv b.length 56 ∧ cells.Nodup ∧
        (∀ c ∈ cells, c ∉ s.usedCells plot) ∧
        (x.open_ = [] → ∀ req, ∃ t, exec (.cellPush plot q req ⟨b, true⟩) s = .next t ∧ t.packetData plot cells = b ∧
          t.queue plot q = ({ x with
            credits := x.credits - cells.length, pkts := x.pkts ++ [cells], ahead := 0
            reqs := (match req with
              | some tag => x.reqs.filter (fun y => y != tag) ++ [tag]
              | none => x.reqs) } : QSt) ∧ { t with queues := s.queues, mem := s.mem } = s) ∧
        (∃ t, exec (.cellPush plot q none ⟨b, false⟩) s = .next t ∧ (t.queue plot q).pkts = x.pkts ∧
          (t.queue plot q).open_ = x.open_ ++ cells ∧ (t.queue plot q).credits = x.credits - cells.length ∧
          (t.queue plot q).ahead = (if x.open_ = [] then x.pkts.length else x.ahead) ∧ { t with queues := s.queues, mem := s.mem } = s) ∧
        (x.open_ ≠ [] → ∃ t, exec (.cellPush plot q none ⟨b, true⟩) s = .next t ∧ (t.queue plot q).open_ = [] ∧
          (t.queue plot q).pkts = x.pkts.take x.ahead ++ [x.open_ ++ cells] ++ x.pkts.drop x.ahead)) ∧
      (x.credits < ceilDiv b.length 56 → x.fate ≠ 2 → ∀ last, ∃ t, exec (.cellPush plot q none ⟨b, last⟩) s = .next t ∧
        t.queue plot q = { x with credits := 0, open_ := [], ahead := 0, fate := if last then 0 else 2 } ∧ t.mem = s.mem ∧
        ({ t with queues := s.queues } : State) = (s.bump 0x4030 5 1).raise 0x4031 (locPlot plot) 0) ∧
      (x.fate = 2 → ∃ t, exec (.cellPush plot q none ⟨b, false⟩) s = .next t ∧ t.queue plot q = x ∧ { t with queues := s.queues } = s)) ∧
    (x.oldest = none → ∀ dmg deps, exec (.cellPop plot q dmg deps) s = .next s) ∧
    (∀ cells deps, x.oldest = some cells →
      let data := s.packetData plot cells
      (q ≠ 1 → ∃ t, exec (.cellPop plot q .none deps) s = .next t ∧ (t.queue plot q).pkts = x.pkts.drop 1 ∧ { t with queues := s.queues } = s) ∧
      (q = 1 → let r := evOf data
        ∃ t, exec (.cellPop plot q .none deps) s = .next t ∧ (t.queue plot q).pkts = x.pkts.drop 1 ∧ t.mem = s.mem ∧
          (1 ≤ r.code / 4096 → r.code / 4096 ≤ 12 → t.ev.raised = s.ev.raised ++ [{ r with poison := false }]) ∧
          (r.code / 4096 = 0 ∨ 12 < r.code / 4096 → t.ev = s.ev)) ∧
      (1 < q → ((s.queueDef plot q).map (·.1)).getD 0 ≠ 4 →
        (∀ n, ∃ t, exec (.cellPop plot q (.corrected n) deps) s = .next t ∧ (t.queue plot q).pkts = x.pkts.drop 1 ∧
          ({ t with queues := s.queues } : State) = s.bump 0x4030 2 n) ∧
        ∃ t, exec (.cellPop plot q .uncorrectable []) s = .next t ∧ (t.queue plot q).pkts = x.pkts.drop 1 ∧
          ({ t with queues := s.queues } : State) = (s.bump 0x4030 3 1).raise 0x4030 (locPlot plot) 0) ∧
      (q = 0 → ∀ w, ∃ t, exec (.cellPop plot q (.poison [w]) deps) s = .next t ∧ (t.queue plot q).pkts = x.pkts.drop 1 ∧
        (t.queue plot q).again = x.again ++ [data])) ∧
    (x.flush = true → ∃ t, exec (.queueFlushApply plot q) s = .next t ∧ (t.queue plot q).pkts = [] ∧ (t.queue plot q).open_ = x.open_ ∧
      (t.queue plot q).flush = false ∧ (t.queue plot q).credits = x.credits ∧ { t with queues := s.queues } = s) ∧
    ((s.queue plot q).flush = false → exec (.queueFlushApply plot q) s = .next s)

/-- COPY, TRANSPOSE, UNTRANSPOSE, GATHER and SCATTER complete (R290, R291, R293, R294): the bytes move and the completion is written where one is
wanted; a failed read, a flushed target, a transfer past its slot, a read-back that differs once, and a refused access. -/
def Obligations.TransfersMoveTheirBytes : Prop :=
  ∀ (s : State) (idx e mode : Nat) (deps : List Nat), s.transferAt idx mode = some e →
    ∀ c : MoveEnd → Instr, (mode = 0 ∧ c = fun x => .copy idx x deps) ∨ (mode = 1 ∧ c = fun x => .transpose idx x deps) ∨
      (mode = 2 ∧ c = fun x => .untranspose idx x deps) ∨ (mode = 3 ∧ c = fun x => .gather idx x deps) ∨
      (mode = 4 ∧ c = fun x => .scatter idx x deps) →
    let out := moverOut e mode fun a n => (s.readField a n).1
    let loc := locPlot (xPlot e)
    let last := ((out.getLast?).map fun p => (p.1 + p.2.length - 1) / 64 * 64).getD (xDst e)
    let u := (readRanges e).foldl (fun (s : State) r => s.countReads r.1 r.2)
      (s.noteMove e idx ((readRanges e).flatMap fun r => (s.readField r.1 r.2).1))
    let write := fun (s : State) => out.foldl (fun (s : State) p => s.writeField p.1 p.2) { s with freeCtr := s.freeCtr + 1 }
    let fine := fun (s : State) => (s.bump 0x6030 1 1).moverDone e idx 0 last (xLen e) deps
    (bitsOf e 188 188 = 0 → ∀ (v : State) res l n, v.moverDone e idx res l n deps = v) ∧
    (s.moverRefusal e out = none → s.flushTarget e = false →
      exec (c .ok) s = .next (fine (write u)) ∧
      (bitsOf e 188 188 = 0 → exec (c .mismatchOnce) s = .next (fine (write u)) ∧ exec (c .mismatchTwice) s = .next (fine (write u))) ∧
      (bitsOf e 188 188 = 1 → u.spillUsed (xPlot e) = false → exec (c .mismatchOnce) s =
        .next (fine (((write (u.useSpill (xPlot e))).bump 0x6030 2 1).raise 0x6030 loc 0))) ∧
      (u.spillUsed (xPlot e) = false → exec (c .overran) s = .next (fine ((write (u.useSpill (xPlot e))).raise 0xC003 loc 0))) ∧
      (∀ off, let y := ((u.bump 0x6030 3 1).raise 0x6031 loc 0).sourceFault e off deps
        (y.2 = true → exec (c (.sourceUe off)) s = .next (fine (write y.1))) ∧
        (y.2 = false → exec (c (.sourceUe off)) s = .next (y.1.moverDone e idx 2 0 0 deps)))) ∧
    (s.moverRefusal e out = none → exec (c .flushed) s = .next (s.moverDone e idx 4 0 0 deps)) ∧
    (s.moverRefusal e out = none → s.flushTarget e = true → ∀ fin, exec (c fin) s = .next (s.moverDone e idx 4 0 0 deps)) ∧
    ∀ x fin, s.moverRefusal e out = some x → exec (c fin) s = .next ((s.raise x.1 (locPlot (xPlot e)) x.2).loseAll deps)

/-- GEMM, EWISE, ACT, NORM, SOFTMAX, POOL, CONVERT and TILL_MATVEC complete on a batch of requests (R180, R182, R185, R189 to R191,
R260), and what a failed check of a product does (R124, R185). -/
def Obligations.TensorInstructionsComplete : Prop :=
  ∀ (s : State) (tags : List Nat) (arr : Nat) (ti : TInstr), arr < 64 →
    let does := fun (op : Nat) (c : Instr) (out : Nat → Work → Buf) =>
      s.batchAt op ti tags → ∃ t, exec c s = .next t ∧ s.movesOn t ti tags out
    let rows := fun (tag : Nat) (w : Work) => (s.vecA tag w ti).f32Rows
    (s.gemmAgrees arr ti tags = true → does 1 (.gemm tags arr ti .ok .ok) fun tag w => Buf.extend (mget w.bufs ti.res) (s.arr arr).base
      (let b := s.weightsB w ti ((w.operandB ti).asFmt ti.fmtB) ti.fmtA (s.arr arr).base (s.arr arr).reg
       gemmOut (s.gemmA tag w ti) ti.k b.1 (s.arr arr).base ti.n b.2).1) ∧
    (∀ chk resc, s.batchAt 1 ti tags → tags ≠ [] → s.gemmAgrees arr ti tags = false ∨ chk = .twice →
      exec (.gemm tags arr ti chk resc) s = .next (s.checkBatch .twice (arr / 4) 0x5010 (locArr arr) 0x5010 4 tags).1) ∧
    (ti.func ≤ 2 → does 0x10 (.ewise tags arr ti .ok) fun tag w =>
      let a := s.vecA tag w ti
      let b := if ti.n = 0 then w.vecB ti else (w.vecB ti).colsUpTo ti.n
      let ints := (List.range a.rows.length).map fun i =>
        ((rowInts a.fmt (a.rows.getD i [])).zip (rowInts b.fmt (b.rows.getD (bIdx b i) []))).map fun p => ewInt ti.func p.1 p.2
      if isIntFmt a.fmt ∧ isIntFmt b.fmt then
        if ti.outFmt ≤ 1 then plainBuf ti.outFmt (ints.map fun r => r.map fun v => ofSInt (fmtBits ti.outFmt) (clampS (fmtBits ti.outFmt) v))
        else (convRows ti.outFmt (ints.map fun r => r.map intTo32)).1
      else (convRows ti.outFmt ((List.range a.rows.length).map fun i =>
        ((a.f32 i).zip (b.f32 (bIdx b i))).map fun p => ewFlt ti.func p.1 p.2)).1) ∧
    (ti.func ≤ 3 → does 0x11 (.act tags arr ti .ok) fun tag w =>
      (convRows ti.outFmt ((rows tag w).map fun x => (x.map (actOne ti.func)).map (·.1))).1) ∧
    (ti.func ≤ 1 → does 0x12 (.norm tags arr ti .ok) fun tag w =>
      (convRows ti.outFmt ((rows tag w).map (normRow ti.func (((w.vecB ti).f32 0).headD 0)))).1) ∧
    does 0x13 (.softmax tags arr ti .ok) (fun tag w => (convRows ti.outFmt ((rows tag w).map softmaxRow)).1) ∧
    (ti.func ≤ 3 → does 0x14 (.pool tags arr ti .ok) fun tag w => (convRows ti.outFmt [poolRows ti.func (rows tag w)]).1) ∧
    does 0x15 (.convert tags arr ti) (fun tag w =>
      let a := s.vecA tag w ti
      if isIntFmt a.fmt ∧ isIntFmt ti.outFmt then plainBuf ti.outFmt (a.rows.map fun r => (rowInts a.fmt r).map fun v =>
        ofSInt (fmtBits ti.outFmt) (clampS (fmtBits ti.outFmt) v))
      else (convRows ti.outFmt (rows tag w)).1) ∧
    (let x := fun (tag : Nat) (w : Work) => ((w.bufOf ti.res 0 ti.m ti.k).asFmt 0).rowsUpTo (s.rowLimit tag ti)
     let reg := fun (w : Work) (j : Nat) => ((w.tensor ti.opB).map fun d => d.reg w.runImage j).getD 0
     let bad := fun (p : TillPlace) => (s.tg p.g).st != 1 && (s.tg p.g).st != 2
     let sums := ∀ tag ∈ tags, ∀ w, s.workOf tag = some w → (s.blocksOfB w ti).find? bad = none ∧
       tillSumsOk (x tag w) ti.k (s.weightsB w ti (w.operandB ti) 0 0 fun _ => 0).1 ti.n = true
     (sums → does 0x45 (.tillMatvec tags ti ⟨.ok, .ok⟩) fun tag w =>
        if (s.blocksOfB w ti).isEmpty then (gemmOut (x tag w) ti.k (w.operandB ti) 0 ti.n (reg w)).1
        else (outRows true ((List.range ti.n).map fun j => tillReg 0 (w.operandB ti) j (reg w j))
          ((s.issueBlocks (s.blocksOfB w ti) ((x tag w).rows.map fun r => rowInts 0 (r.take ti.k))).1.map fun r => r.map AccVal.int)).1) ∧
     (∀ chk w p, s.batchAt 0x45 ti tags → s.workOf (tags.headD 0) = some w → tags ≠ [] → (s.blocksOfB w ti).find? bad = some p →
       exec (.tillMatvec tags ti chk) s = .next ((s.raise 0x6024 (locPlot p.g.stack) 0).loseAll tags)))

/-- LOAD_SCALES, SWAP_SCALES and CLIP_DUMP complete (R181, R183, R184). -/
def Obligations.ScaleBanksAndClipCounts : Prop :=
  ∀ (s : State) (tags : List Nat) (arr : Nat) (ti : TInstr), arr < 64 → tags ≠ [] →
    let onward := fun (t : State) => (∀ tag w, tag ∈ tags → s.workOf tag = some w → t.workOf tag = some { w with prog := w.prog.drop 1 }) ∧
      (∀ k, k ≠ arr → t.arr k = s.arr k)
    (s.batchAt 3 ti tags → ∃ t, exec (.swapScales tags arr ti) s = .next t ∧ onward t ∧ (t.arr arr).useB = !(s.arr arr).useB ∧
      (t.arr arr).bankA = (s.arr arr).bankA ∧ (t.arr arr).bankB = (s.arr arr).bankB ∧
      ∀ tj, t.batchAt 3 tj tags → ∃ u, exec (.swapScales tags arr tj) t = .next u ∧ u.arr arr = s.arr arr) ∧
    (∀ w d, s.batchAt 2 ti tags → s.workOf (tags.headD 0) = some w → w.tensor ti.opB = some d →
      ∃ t, exec (.loadScales tags arr ti) s = .next t ∧ onward t ∧ (t.arr arr).useB = (s.arr arr).useB ∧
        (∀ j, j < 4096 → ti.n + j < d.n →
          mget (if (s.arr arr).useB then (t.arr arr).bankA else (t.arr arr).bankB) j = some (d.reg w.runImage (ti.n + j))) ∧
        (if (s.arr arr).useB then (t.arr arr).bankB = (s.arr arr).bankB ∧ (t.arr arr).baseA = ti.n
         else (t.arr arr).bankA = (s.arr arr).bankA ∧ (t.arr arr).baseB = ti.n)) ∧
    (s.batchAt 0x30 ti tags → ∃ t, exec (.clipDump tags arr ti) s = .next t ∧ (t.arr arr).clip = [] ∧ (s.clipBytes arr).length = 784 ∧
      (∀ tag w, tag ∈ tags → s.workOf tag = some w → t.workOf tag = some { w with
        bufs := mput w.bufs ti.res (plainBuf 0 [(s.clipBytes arr).map (·.toNat)]), prog := w.prog.drop 1 }) ∧
      ∀ k, k ≠ arr → t.arr k = s.arr k)

/-- GEN_PLACE, PREFILL, DECODE, VERIFY, SCORE, PAGE_PARTIALS and CACHE_RETAIN_EXPIRY complete (R217 to R221, R225). -/
def Obligations.GenerationPhasesComplete : Prop :=
  (∀ (s : State) (tag : Nat) (f : FarCtx) (w : Work) (g : GenWork), s.atHome tag f w → w.gen = some g →
    let next := fun (h : GenWork) => { w.clearBufs with prog := s.passProg g, gen := some { h with tried := 0 } }
    (f.phase = 0x20 → g.stage = 0 → gForm g.hdr ≠ 1 → g.passages = [] →
      g.base + gPrompt g.hdr + gMaxNew g.hdr ≤ min (genMaxCtx g.image) (kindVisits (s.kinds.getD w.kindId [])) →
      let h := { g with stage := 1, roots := [] }
      ∃ t : State, exec (.genPlace tag) s = .next t ∧ t.workOf tag = some (if g.prompt.isEmpty then { w with gen := some h } else next h)) ∧
    (f.phase = 0x21 → g.stage = 1 → w.prog = [] →
      let fed := g.fed + g.rowTokens.length
      ∃ t, exec (.prefill tag .ok) s = .next t ∧ t.mem = s.mem ∧
        (fed < g.prompt.length → t.workOf tag = some (next { g with fed := fed })) ∧
        (g.prompt.length ≤ fed → ∃ x h, t.workOf tag = some x ∧ x.gen = some h ∧ x.prog = s.passProg g ∧ h.stage = 2 ∧ h.fed = fed ∧
          h.pages = g.pages ∧ (g.prompt ≠ [] → gPrefix g.hdr ≠ g.prompt.length ∨ g.spliced = 0 → h.choice = g.choice ∧ h.drafts = g.drafts) ∧
          (g.prompt = [] ∨ (gPrefix g.hdr = g.prompt.length ∧ g.spliced ≠ 0) → h.choice = [] ∧ h.drafts = []))) ∧
    (f.phase = 0x22 → g.stage = 2 → w.prog = [] → ∃ t x h, exec (.decode tag ⟨.ok, .ok⟩) s = .next t ∧
      t.workOf tag = some x ∧ x.gen = some h ∧ h.passes = g.passes - 1 ∧ h.stage = (if g.passes ≤ 1 then 3 else 2) ∧ x.bufs = [] ∧
      g.out <+: h.out ∧ (g.done = true → h.out = g.out ∧ h.stop = g.stop ∧ h.done = true) ∧
      (g.done = false → g.choice ≠ [] → h.out = g.out ++ (keepTokens g.hdr (gMaxNew g.hdr - g.out.length) g.passTokens).1) ∧
      h.pages = g.pages ∧ h.emitting = g.emitting + (if h.out = g.out then 0 else 1) ∧ (g.passes ≤ 1 → x.prog = [])) ∧
    (f.phase = 0x23 → g.stage = 1 → w.prog = [] →
      (g.scores.length < gPassages g.hdr → g.fed + g.rowTokens.length < g.pair.length → ∃ t, exec (.score tag ⟨.ok, .ok⟩) s = .next t ∧
        t.workOf tag = some (next { g with fed := g.fed + g.rowTokens.length })) ∧
      (∀ b, mget w.bufs w.lastOut = some b → g.scores.length < gPassages g.hdr → g.pair.length ≤ g.fed + g.rowTokens.length →
        ∃ t x h, exec (.score tag ⟨.ok, .ok⟩) s = .next t ∧ t.workOf tag = some x ∧ x.gen = some h ∧
          h.scores = g.scores ++ [(b.f32 0).headD 0] ∧ h.stage = (if gPassages g.hdr ≤ g.scores.length + 1 then 3 else 1) ∧
          h.fed = 0 ∧ h.pages = []) ∧
      (gPassages g.hdr ≤ g.scores.length → ∃ t, exec (.score tag ⟨.ok, .ok⟩) s = .next t ∧
        t.workOf tag = some { w with gen := some { g with stage := 3 } }))) ∧
  (∀ (s : State) (tags : List Nat) (ti : TInstr), s.batchAt 0x48 ti tags → ∃ t, exec (.verify tags ti) s = .next t ∧
    ∀ tag w g, tag ∈ tags → s.workOf tag = some w → w.gen = some g → ∃ x h, t.workOf tag = some x ∧ x.gen = some h ∧
      x.prog = w.prog.drop 1 ∧ h.out = g.out ∧ h.choice = g.choice ∧
      ∀ a l, g.stage = 2 → g.choice = a :: l → h.path = acceptPath g.hdr g.drafts g.choice 8 0xFF a) ∧
  (∀ (s : State) (tag port : Nat) (b : Bytes),
    let mine := fun (l : Lent) => l.port = port ∧ l.key = u64 b 8
    let answers := fun (t : State) => s.hedgeUp port = true → ∃ l, l ≠ [] ∧ t.tx = s.tx ++ l ∧ ∀ m ∈ l, m.port = port
    (u8 b 0 = 0 → ∃ t, exec (.pagePartials tag port b false) s = .next t ∧ t.ledger = s.ledger ∧ t.mem = s.mem ∧ answers t ∧
      (∀ p ∈ parsePages (b.drop 16), ∃ l ∈ t.tier.lent, mine l ∧ p ∈ l.pages) ∧ ∀ l ∈ s.tier.lent, ¬ mine l → l ∈ t.tier.lent) ∧
    (u8 b 0 = 1 → (∀ l ∈ s.tier.lent, ¬ mine l) → exec (.pagePartials tag port b false) s = .next s) ∧
    (u8 b 0 = 1 → (∃ l ∈ s.tier.lent, mine l) → ∃ t, exec (.pagePartials tag port b false) s = .next t ∧ answers t ∧
      { t with tx := s.tx } = s) ∧
    (u8 b 0 = 2 → ∀ w g, s.workOf tag = some w → w.gen = some g → ∃ t, exec (.pagePartials tag port b false) s = .next t ∧
      t.workOf tag = some { w with gen := some { g with asked := clrBit g.asked port } }) ∧
    (u8 b 0 = 3 → ∀ c f w g, s.farOf tag = some (c, f) → f.phase = 0x24 → s.workOf tag = some w → w.gen = some g →
      mget s.ledger.fars c = some f → ∃ t, exec (.pagePartials tag port b false) s = .next t ∧
        t.workOf tag = some { w with acks := setBit w.acks port } ∧
        mget t.ledger.fars c = some (if (s.otherPorts g).all (bit (setBit w.acks port)) then { f with phase := 0x0B } else f)) ∧
    (u8 b 0 = 4 → ∃ t, exec (.pagePartials tag port b false) s = .next t ∧ (∀ l, l ∈ t.tier.lent ↔ l ∈ s.tier.lent ∧ ¬ mine l) ∧
      { t with tier := s.tier } = s) ∧
    (4 < u8 b 0 → exec (.pagePartials tag port b false) s = .next s) ∧
    (s.awaits tag port = true → exec (.pagePartials tag port b true) s = .next ((s.raise 0x5045 (locHedge port) 0).lose tag 9)) ∧
    (s.awaits tag port = false → exec (.pagePartials tag port b true) s = .next s)) ∧
  (∀ (s : State) (k : Nat) (c : Cache), mget s.caches k = some c → c.inUse = false → s.actN 0x5400 7 ≠ 0 →
    c.last + s.actN 0x5400 7 ≤ s.step.number →
    ∃ t, exec (.cacheRetainExpiry k) s = .next t ∧ t.caches = mdel s.caches k ∧ t.models = s.models ∧ t.mem = s.mem)

/-- KV_APPEND, ROPE_Q, ATTN_MAX, ATTN_PAGE, ATTN_COMBINE and TOKEN_CHOOSE complete (R213 to R215, R220, R222). -/
def Obligations.AttentionInstructionsComplete : Prop :=
  ∀ (s : State) (tags : List Nat) (arr : Nat) (ti : TInstr), arr < 64 →
    let img := fun (w : Work) => w.runImage
    let hd := fun (w : Work) => genHeadDim w.runImage
    let fmt := fun (w : Work) => genKvFmt w.runImage
    let turned := fun (w : Work) (g : GenWork) (e : LenEntry × Nat) (v : List Nat) =>
      toKv (fmt w) (rotate (genRopeBase (img w)) (hd w) (LenEntry.rowPos g e) v)
    let does := fun (op : Nat) (c : Instr) (out : Nat → Work → GenWork → Buf) => s.batchAt op ti tags → ∃ t, exec c s = .next t ∧
      t.mem = s.mem ∧ ∀ tag w g, tag ∈ tags → s.workOf tag = some w → w.gen = some g →
        t.workOf tag = some { w with bufs := mput w.bufs ti.res (out tag w g), lastOut := ti.res, prog := w.prog.drop 1 }
    (s.batchAt 0x40 ti tags → ti.func ≤ 1 → ∃ t, exec (.kvAppend tags arr ti) s = .next t ∧ t.mem = s.mem ∧
      ∀ tag w g, tag ∈ tags → s.workOf tag = some w → w.gen = some g →
        let head := fun (e : (LenEntry × Nat) × List Nat) (k : Nat) =>
          let v := (e.2.drop (k * hd w)).take (hd w)
          if ti.func = 0 ∧ g.passg = false then turned w g e.1 v else toKv (fmt w) v
        let rows := s.coveredRows tag w ti
        let pages := (rows.filter fun e => e.1.1.kind != 2).foldl (fun ps e => (List.range (genKvHeads (img w))).foldl (fun ps k =>
          appendKv (hd w) ti.n k (LenEntry.rowPos g e.1) (!g.passg) (ti.func == 0) (head e k) ps) ps) (g.pagesOf w.drafting)
        ∃ x, t.workOf tag = some x ∧ x.gen = some (g.setPages w.drafting pages) ∧ x.prog = w.prog.drop 1 ∧ x.lastOut = w.lastOut ∧
          ((∀ e ∈ rows, e.1.1.kind ≠ 2) → x.bufs = w.bufs) ∧
          ∀ k, k < genKvHeads (img w) → (∃ e ∈ rows, e.1.1.kind = 2) → mget x.bufs (nodeBuf w.drafting ti.n k (ti.func == 0)) =
            some (plainBuf (fmt w) ((rows.filter fun e => e.1.1.kind == 2).map fun e => head e k))) ∧
    does 0x41 (.ropeQ tags arr ti) (fun tag w g => plainBuf (fmt w) ((s.coveredRows tag w ti).map fun e =>
      (groupsOf (hd w) e.2).flatMap (turned w g e.1))) ∧
    does 0x42 (.attnMax tags arr ti) (fun tag w g => plainBuf 9 ((s.queryRows tag w ti).map fun r =>
      w.perHead g ti.n r.1 r.2 fun _ sc => [maxScore sc])) ∧
    (s.batchAt 0x43 ti tags → ∃ t, exec (.attnPage tags arr ti) s = .next t ∧ t.mem = s.mem ∧
      ∀ tag w g, tag ∈ tags → s.workOf tag = some w → w.gen = some g →
        let out := plainBuf 9 ((s.queryRows tag w ti).map fun r =>
          w.perHead g ti.n r.1 r.2 fun pages sc => (pages.zip sc).flatMap fun x => pagePartial (maxScore sc) (hd w) x.1 x.2)
        ∃ n, t.workOf tag = some ({ w with
            bufs := mput w.bufs ti.res out, lastOut := ti.res, prog := w.prog.drop 1, gen := some { g with asked := n } } : Work) ∧
          (g.base = 0 ∨ w.drafting = true ∨ g.members = [] → n = g.asked) ∧
          (g.base ≠ 0 → w.drafting = false → ∀ m ∈ g.members, s.memberPort m < 16 → bit n (s.memberPort m) = true)) ∧
    does 0x44 (.attnCombine tags arr ti) (fun tag w _ => (convRows ti.outFmt ((s.coveredRows tag w ti).map fun r =>
      (groupsOf (r.2.length / max (genHeads (img w)) 1) r.2).flatMap fun h => combine (hd w) (groupsOf (hd w + 1) h))).1) ∧
    (s.batchAt 0x46 ti tags → ti.func ≤ 1 → ∃ t, exec (.tokenChoose tags arr ti) s = .next t ∧ t.mem = s.mem ∧
      ∀ tag w g, tag ∈ tags → s.workOf tag = some w → w.gen = some g →
        let ts := (s.coveredRows tag w ti).map fun r => if ti.func = 0 then greedy r.2 else seeded (gTemp g.hdr) (gSeed g.hdr)
          (if g.stage < 2 then g.base + g.spliced + g.prompt.length else LenEntry.rowPos g r.1 + 1) r.2
        ∃ x h, t.workOf tag = some x ∧ x.gen = some h ∧ mget x.bufs ti.res = some (plainBuf 16 (ts.map fun n => [n])) ∧
          x.lastOut = ti.res ∧ x.prog = w.prog.drop 1 ∧ h.out = g.out ∧ h.pages = g.pages ∧
          (w.drafting = false → ti.func = gDecode g.hdr →
            h.choice = if g.stage < 2 then ts.getLast?.toList else if g.next.isSome then ts else g.choice.take 1 ++ ts) ∧
          (w.drafting = true ∨ ti.func ≠ gDecode g.hdr → h = g)) ∧
    (s.batchAt 0x46 ti tags → ti.func = 2 → ∃ t, exec (.tokenChoose tags arr ti) s = .next t ∧ t.mem = s.mem ∧
      ∀ tag w g, tag ∈ tags → s.workOf tag = some w → w.gen = some g →
        let rows := s.coveredRows tag w ti
        let ds := if g.stage < 2 then draftNodes g.hdr [] true ((rows.getLast?.map (·.2)).toList)
          else draftNodes g.hdr g.drafts g.next.isSome (rows.map (·.2))
        t.workOf tag = some { w with bufs := mput w.bufs ti.res (plainBuf 16 (ds.map fun n => [n])), lastOut := ti.res, prog := w.prog.drop 1
                                     gen := some (if w.drafting then { g with drafts := ds } else g) })

/-- EMB_GATHER, EMB_ROWS, GRADIENT_BATCH, RUNNING_SUMS, TRAIN_STEP_APPLY, TRAIN_WAIT_EXPIRY and EMB_SHARD_COPY complete. -/
def Obligations.EmbeddingCommandsComplete : Prop :=
  (∀ (s : State) (tags : List Nat) (ti : TInstr), s.batchAt 0x20 ti tags → ti.func ≤ 1 →
    let ps := fun (tag : Nat) (w : Work) => gatherPositions ((w.bufOf ti.opA 16 ti.m 1).rowsUpTo (s.rowLimit tag ti)) ti.opB
    let vals := fun (tag : Nat) (w : Work) => (ps tag w).map fun p => (p.1, (s.posValue w p).getD [])
    ((∀ tag ∈ tags, ∀ w, s.workOf tag = some w → s.gatherOver ti tags w.plot = false ∧ ∀ p ∈ ps tag w, ∃ e, mget s.embs p.1 = some e ∧
        e.state = 2 ∧ p.2 < s.rowsFor w.runImage p.1 ∧ (s.posValue w p).isSome = true) →
      ∃ t, exec (.embGather tags ti) s = .next t ∧ s.movesOn t ti tags fun tag w =>
        plainBuf 9 (if ti.func = 1 then (bagsOf (vals tag w)).map (poolRows 3) else (vals tag w).map (·.2))) ∧
    (∀ tag w, tags = [tag] → s.workOf tag = some w → s.gatherOver ti tags w.plot = true →
      exec (.embGather tags ti) s = .next (s.refuseGather tag))) ∧
  (∀ (s : State) (port tag : Nat) (b : Bytes) (e : EmbTab), mget s.embs (u16 b 2) = some e →
    (u8 b 0 = 0 → ∃ t, exec (.embRows port tag b) s = .next t ∧ t.ledger = s.ledger ∧
      (s.hedgeUp port = true → ∃ l, l ≠ [] ∧ t.tx = s.tx ++ l ∧ ∀ m ∈ l, m.port = port)) ∧
    (∀ w, u8 b 0 ≠ 0 → s.workOf tag = some w → w.gather = none → ∃ t x, exec (.embRows port tag b) s = .next t ∧
      t.workOf tag = some x ∧ { x with fetched := w.fetched } = w)) ∧
  (∀ (s : State) (port : Nat) (b : Bytes) (e : EmbTab), mget s.embs (u16 b 0) = some e → embSharded e.desc = true → s.partOpen e.part = true →
    s.gradFail (b.take 32) (gradEntries (embWidth e.desc) (u32 (b.take 32) 4) (b.drop 32)) = none →
    ∃ t g, exec (.gradientBatch port b) s = .next t ∧ mget t.embs (u16 b 0) = some { e with batches := e.batches ++ [g] } ∧
      g.train = u64 b 8 ∧ g.source = u8 b 3 ∧ g.at_ = s.step.number ∧ ∀ k, k ≠ u16 b 0 → mget t.embs k = mget s.embs k) ∧
  (∀ (s : State) (port k : Nat) (e : EmbTab) (msg : SumsMsg), mget s.embs k = some e → embTrainable e.desc = false ∨ embSharded e.desc = true →
    exec (.runningSums port k msg) s = .next s) ∧
  (∀ (s : State) (port k tau node : Nat) (e : EmbTab), mget s.embs k = some e → embSharded e.desc = false → embTrainable e.desc = true →
    e.state = 2 →
    (e.last < tau → ∃ t x, exec (.runningSums port k (.commit tau node)) s = .next t ∧ mget t.embs k = some x ∧
      mgetD x.commits tau 0 = setBit (mgetD e.commits tau 0) node ∧ { x with commits := e.commits } = e) ∧
    (tau = e.last + 1 → ∃ t x, exec (.runningSums port k (.missing tau)) s = .next t ∧ mget t.embs k = some x ∧ x.state ≠ 2)) ∧
  (∀ (s : State) (k : Nat) (e : EmbTab) (g : List (Nat × List Nat)), mget s.embs k = some e → e.state = 2 →
    s.readySums k e (e.last + 1) = some g →
    let fits := ((s.applyPlots k e (g.map (·.1))).all fun p => s.fits (onPlot p.1 6) p.2) = true
    (fits → ∃ t x, exec (.trainStepApply k false) s = .next t ∧ mget t.embs k = some x ∧
      x.last = e.last + 1 ∧ x.rows.length = e.rows.length ∧
      ∀ (i : Nat) (r : EmbRow), e.rows[i]? = some r → x.rows[i]? = some (match mget g i with
        | some v => applyRow e.desc (e.last + 1) r v
        | none => r)) ∧
    (fits → ∃ t x, exec (.trainStepApply k true) s = .next t ∧ mget t.embs k = some x ∧ x.state ≠ 2 ∧ x.rows = e.rows) ∧
    (¬ fits → ∀ ue, exec (.trainStepApply k ue) s = .next s)) ∧
  (∀ (s : State) (k : Nat) (e : EmbTab) (b : GradBatch) (l : List GradBatch), mget s.embs k = some e → e.state = 2 →
    e.batches.filter (fun b => b.train == e.last + 1) = b :: l →
    (if embSharded e.desc then (s.sources k).any (fun n => !(b :: l).any fun b => b.source == n) = true
     else mget e.final (e.last + 1) = none) →
    (mget e.warned (e.last + 1)).getD (minNat b.at_ ((b :: l).map (·.at_))) + s.actN 0x5300 6 ≤ s.step.number →
    ∃ t x, exec (.trainWaitExpiry k) s = .next t ∧ mget t.embs k = some x ∧ mget x.warned (e.last + 1) = some s.step.number ∧
      { x with warned := e.warned } = e) ∧
  ∀ (s : State) (k : Nat) (e : EmbTab) (m : EmbMove), mget s.embs k = some e → e.move = some m →
    let home := s.shardPlot e m.shard
    let rows := s.roomFor (onPlot home 6) (s.actN 0x5300 4) / max (embStride e.desc) 1
    let size := min (2 ^ embShardLog e.desc) (embRows e.desc - m.shard * 2 ^ embShardLog e.desc)
    (s.grant 8 = true → m.at_ ≠ s.step.number → s.hasSlice home 6 = true →
      ∃ t n, exec (.embShardCopy k) s = .next t ∧ mget t.embs k = some { e with move := some n } ∧ n.shard = m.shard ∧ n.dest = m.dest ∧
        n.copied = m.copied + min rows (size - m.copied) ∧ n.dirty = m.dirty.drop (rows - min rows (size - m.copied)) ∧
        n.at_ = s.step.number) ∧
    (s.grant 8 = true → m.at_ = s.step.number ∨ s.hasSlice home 6 = false → exec (.embShardCopy k) s = .next s) ∧
    (s.grant 8 = false → ∃ t, exec (.embShardCopy k) s = .next t ∧ mget t.embs k = some { e with move := none })

/-- REJOIN_LOAD, REJOIN_TEST_END, TENANT_SCRUB and ATT_REPORT_SIGN complete (R352, R353, R361, R395, R397). -/
def Obligations.RejoinAndSecurityComplete : Prop :=
  (∀ (s : State) (port i : Nat) (h : Shard) (r : Bytes), mget s.shards i = some h → h.owner = false → h.state = 1 →
    (u32 r 8 = h.id → exec (.rejoinLoad port i (.epoch r)) s = .next ((s.modShard i fun h =>
      { h with pendEpoch := some r, pendDone := false, images := h.images.filter fun x => (recSealed r).contains x.1 }).installLoad i)) ∧
    (∀ n image, h.pendEpoch = some r → (recSeg r n).isSome = true → mget h.images n = none →
      let good := h.imageOk image n = true ∧ s.segAgrees h image = true ∧ s.loadAgrees i h image = true ∧ (recSeg r n).map (·.2) = some (segmentRoot h.id n image)
      (good → exec (.rejoinLoad port i (.image n image)) s = .next ((s.modShard i fun h =>
          { h with images := mput h.images n image }).installLoad i)) ∧
      (¬ good → ∃ t g, exec (.rejoinLoad port i (.image n image)) s = .next t ∧ mget t.shards i = some g ∧ g.images = h.images ∧
          n ∈ g.badImage ∧ g.segs = h.segs))) ∧
  (∀ (s : State) (x due : Nat) (units : List TestUnit), s.pwr.test = some (x, due) → due ≤ s.step.number →
    ∃ t, exec (.rejoinTestEnd units) s = .next t ∧ t.pwr.test = none ∧
      ((∀ u ∈ units, u.ok = true ∧ ∀ v ∈ units, v.typ = u.typ → ∀ k, unitResult v k = unitResult u k) → t.liveN 0xB040 2 = 1) ∧
      ((∃ u ∈ units, u.ok = false ∨ ∃ v ∈ units, v.typ = u.typ ∧ ∃ k, unitResult v k ≠ unitResult u k) → t.liveN 0xB040 2 = 2)) ∧
  (∀ (s : State) (p : Nat) (x : Scrub) (external ok : Bool), p < 8 → (s.part p).scrub = some x →
    (if external then x.ext else x.chip) < 2 →
    ∃ t y, exec (.tenantScrub p external ok) s = .next t ∧ (t.part p).scrub = some y ∧
      (if external then y.ext else y.chip) = (if ok then 2 else if (if external then x.ext else x.chip) = 0 then 1 else 4) ∧
      (if external then y.chip else y.ext) = (if external then x.chip else x.ext) ∧ y.mode = x.mode) ∧
  (∀ (s s1 : State) (a : AttReq) (rest : List AttReq) (i : Nat), s.sec.atts = a :: rest → a.body ≠ [] → s.handServes = true →
    State.takeLeaf { s with sec := { s.sec with atts := rest } } = some (i, s1) →
    ∃ t, exec .attReportSign s = .next t ∧ (t.result a.src).att = 2 ∧ (t.result a.src).nonce = a.nonce ∧
      (t.result a.src).report = overlay a.body 120 (leBytes 8 i) ++
        (List.range 9893).map (Config.leafSignature i (overlay a.body 120 (leBytes 8 i))))

/-- POWER_ON completes (R378 to R383): in service at step 0, or at a named stop. -/
def Obligations.BringUpStartsSteps : Prop :=
  ∀ (s : State) (r : BootReport), s.pwr.boot = .off ∨ s.pwr.boot = .reset →
    ∃ t, exec (.powerOn r) s = .next t ∧ t.pwr.boot ≠ .off ∧ t.dict.store = s.dict.store ∧ t.pending = s.pending ∧ t.rings = [] ∧
      t.mem = [] ∧
      (t.pwr.boot = .running → t.step.number = 0 ∧ t.step.open_ = true ∧ t.step.seedling = true ∧ t.step.tier = 2 ∧
        t.ledger = LedgerSt.reset) ∧
      (r.g0Alive = true → r.refclkOk = true → r.headlandOk = true → bit r.gatesOk 0 = true →
        s.powerDown.bankPasses r (if s.sec.swap then 1 - s.sec.bank else s.sec.bank) r.bankOk = true →
        (∃ p, p < 16 ∧ bit r.plotsOk p = true ∧ bit r.stacksOk p = true) → t.pwr.boot = .running)
end

