-- ==== Sys2Proof/Laws/Memory.lean ====
section
/-! SUPPORT. The sorted maps and the sparse memory: a read after a write, and that every operation keeps the canonical form. -/

namespace Sys2Proof.Machine
set_option Elab.async false

theorem mget_mput {α : Type} (m : List (Nat × α)) (x : Nat) (v : α) : mget (mput m x v) x = some v := by
  induction m with
  | nil => simp [mput, mget]
  | cons e m ih =>
    obtain ⟨k, w⟩ := e
    unfold mput
    split
    · simp [mget]
    · split
      · simp [mget]
      · rename_i h1 h2
        simp [mget, h1, h2, ih]

theorem mrisesFrom_le {α : Type} {m : List (Nat × α)} {a b : Nat} (h : a ≤ b) (hm : mrisesFrom b m = true) : mrisesFrom a m = true := by
  cases m with
  | nil => rfl
  | cons e m =>
    obtain ⟨k, w⟩ := e
    simp only [mrisesFrom, Bool.and_eq_true, decide_eq_true_eq] at hm ⊢
    exact ⟨Nat.le_trans h hm.1, hm.2⟩

theorem mrisesFrom_mput {α : Type} {m : List (Nat × α)} {lo x : Nat} (v : α) (hx : lo ≤ x) (hm : mrisesFrom lo m = true) :
    mrisesFrom lo (mput m x v) = true := by
  induction m generalizing lo with
  | nil => simp [mput, mrisesFrom, hx]
  | cons e m ih =>
    obtain ⟨k, w⟩ := e
    simp only [mrisesFrom, Bool.and_eq_true, decide_eq_true_eq] at hm
    unfold mput
    split
    · rename_i h
      simp only [mrisesFrom, Bool.and_eq_true, decide_eq_true_eq]
      exact ⟨hx, by omega, hm.2⟩
    · split
      · rename_i h
        subst h
        simp only [mrisesFrom, Bool.and_eq_true, decide_eq_true_eq]
        exact ⟨hx, hm.2⟩
      · rename_i h1 h2
        simp only [mrisesFrom, Bool.and_eq_true, decide_eq_true_eq]
        exact ⟨hm.1, ih (by omega) hm.2⟩

theorem mget_below {α : Type} {m : List (Nat × α)} {lo x : Nat} (hm : mrisesFrom lo m = true) (hx : x < lo) : mget m x = none := by
  cases m with
  | nil => rfl
  | cons e m =>
    obtain ⟨k, w⟩ := e
    simp only [mrisesFrom, Bool.and_eq_true, decide_eq_true_eq] at hm
    have h1 : ¬ k = x := by omega
    have h2 : x < k := by omega
    simp [mget, h1, h2]

theorem mget_mput_ne {α : Type} {m : List (Nat × α)} {x y : Nat} (v : α) (h : y ≠ x) : mget (mput m x v) y = mget m y := by
  induction m with
  | nil =>
    simp only [mput, mget]
    have : ¬ x = y := fun e => h e.symm
    simp [this]
  | cons e m ih =>
    obtain ⟨k, w⟩ := e
    unfold mput
    split
    · rename_i hlt
      simp only [mget]
      have h1 : ¬ x = y := fun e => h e.symm
      by_cases h2 : y < x
      · have h3 : ¬ k = y := by omega
        have h4 : y < k := by omega
        simp [h1, h2, h3, h4]
      · simp [h1, h2]
    · split
      · rename_i hk
        subst hk
        simp only [mget]
        have h1 : ¬ k = y := fun e => h e.symm
        simp [h1]
      · simp only [mget, ih]

/-! ### The canonical form of memory -/

/-- Addresses strictly rising from `lo`, no byte zero. -/
def Memory.wfFrom (lo : Nat) (m : List (Nat × Byte)) : Prop := mrisesFrom lo m = true ∧ ∀ e ∈ m, e.2 ≠ 0

theorem Memory.wf_iff (m : List (Nat × Byte)) : Memory.wf m = true ↔ Memory.wfFrom 0 m := by
  simp [Memory.wf, Memory.wfFrom, List.all_eq_true]

theorem Memory.wfFrom_cons {lo k : Nat} {b : Byte} {m : List (Nat × Byte)} :
    Memory.wfFrom lo ((k, b) :: m) ↔ lo ≤ k ∧ b ≠ 0 ∧ Memory.wfFrom (k + 1) m := by
  simp only [Memory.wfFrom, mrisesFrom, Bool.and_eq_true, decide_eq_true_eq, List.mem_cons, forall_eq_or_imp]
  tauto

theorem Memory.wfFrom_le {a b : Nat} {m : List (Nat × Byte)} (h : a ≤ b) (hm : Memory.wfFrom b m) : Memory.wfFrom a m :=
  ⟨mrisesFrom_le h hm.1, hm.2⟩

theorem Memory.wfFrom_write {lo a : Nat} {m : List (Nat × Byte)} (b : Byte) (ha : lo ≤ a) (hm : Memory.wfFrom lo m) :
    Memory.wfFrom lo (Memory.write m a b) := by
  induction m generalizing lo with
  | nil =>
    unfold Memory.write
    split
    · exact hm
    · rename_i h; exact Memory.wfFrom_cons.mpr ⟨ha, h, by constructor <;> simp [mrisesFrom]⟩
  | cons e m ih =>
    obtain ⟨k, c⟩ := e
    have hc := Memory.wfFrom_cons.mp hm
    unfold Memory.write
    split
    · split
      · exact hm
      · rename_i h1 h2
        exact Memory.wfFrom_cons.mpr ⟨ha, h2, Memory.wfFrom_cons.mpr ⟨by omega, hc.2⟩⟩
    · split
      · rename_i h1 h2
        subst h2
        split
        · exact Memory.wfFrom_le (by omega) hc.2.2
        · rename_i h3; exact Memory.wfFrom_cons.mpr ⟨ha, h3, hc.2.2⟩
      · exact Memory.wfFrom_cons.mpr ⟨hc.1, hc.2.1, ih (by omega) hc.2.2⟩

/-- A write of one byte keeps the canonical form. -/
theorem Memory.wf_write {m : List (Nat × Byte)} (h : Memory.wf m = true) (a : Nat) (b : Byte) : Memory.wf (Memory.write m a b) = true :=
  (Memory.wf_iff _).mpr (Memory.wfFrom_write b (Nat.zero_le _) ((Memory.wf_iff _).mp h))

/-- So does a write of many. -/
theorem Memory.wf_writeN {m : List (Nat × Byte)} (h : Memory.wf m = true) (a : Nat) (b : Bytes) : Memory.wf (Memory.writeN m a b) = true := by
  induction b generalizing m a with
  | nil => exact h
  | cons x b ih => exact ih (Memory.wf_write h a x) (a + 1)

theorem Memory.wf_foldl {α : Type} {f : List (Nat × Byte) → α → List (Nat × Byte)} {l : List α} {m : List (Nat × Byte)}
    (hf : ∀ m x, Memory.wf m = true → Memory.wf (f m x) = true) (h : Memory.wf m = true) : Memory.wf (l.foldl f m) = true := by
  induction l generalizing m with
  | nil => exact h
  | cons x l ih => exact ih (hf m x h)

theorem mrisesFrom_filter {α : Type} {m : List (Nat × α)} {lo : Nat} (p : Nat × α → Bool) (h : mrisesFrom lo m = true) :
    mrisesFrom lo (m.filter p) = true := by
  induction m generalizing lo with
  | nil => rfl
  | cons e m ih =>
    obtain ⟨k, w⟩ := e
    simp only [mrisesFrom, Bool.and_eq_true, decide_eq_true_eq] at h
    rw [List.filter_cons]
    split
    · simp only [mrisesFrom, Bool.and_eq_true, decide_eq_true_eq]
      exact ⟨h.1, ih h.2⟩
    · exact mrisesFrom_le (by omega) (ih h.2)

/-- Bytes that are cleared to zero leave the list. -/
theorem Memory.wf_filter {m : List (Nat × Byte)} (p : Nat × Byte → Bool) (h : Memory.wf m = true) : Memory.wf (m.filter p) = true := by
  have g := (Memory.wf_iff _).mp h
  exact (Memory.wf_iff _).mpr ⟨mrisesFrom_filter p g.1, fun e he => g.2 e (List.mem_of_mem_filter he)⟩

/-! ### Reads and writes -/

/-- A filter that keeps every pair of a key leaves what the key reads as. -/
theorem mget_filter {α : Type} {m : List (Nat × α)} {lo x : Nat} (p : Nat × α → Bool) (hp : ∀ v, p (x, v) = true)
    (h : mrisesFrom lo m = true) : mget (m.filter p) x = mget m x := by
  induction m generalizing lo with
  | nil => rfl
  | cons e m ih =>
    obtain ⟨k, w⟩ := e
    simp only [mrisesFrom, Bool.and_eq_true, decide_eq_true_eq] at h
    rw [List.filter_cons]
    split
    · simp only [mget, ih h.2]
    · rename_i hk
      have hne : ¬ k = x := fun e => hk (e ▸ hp w)
      by_cases hlt : x < k
      · rw [mget_below (mrisesFrom_filter p h.2) (by omega)]
        simp [mget, hne, hlt]
      · simp [mget, hne, hlt, ih h.2]

theorem Memory.read_filter {m : List (Nat × Byte)} {x : Nat} {p : Nat × Byte → Bool} (hm : Memory.wf m = true)
    (hp : ∀ v, p (x, v) = true) : Memory.read (m.filter p) x = Memory.read m x := by
  unfold Memory.read mgetD
  rw [mget_filter p hp ((Memory.wf_iff _).mp hm).1]

theorem Memory.read_write {m : List (Nat × Byte)} {a : Nat} {b : Byte} (h : Memory.wf m = true) : Memory.read (Memory.write m a b) a = b := by
  have g := (Memory.wf_iff _).mp h
  suffices ∀ lo, Memory.wfFrom lo m → Memory.read (Memory.write m a b) a = b from this 0 g
  clear g h
  induction m with
  | nil =>
    intro lo _
    unfold Memory.write Memory.read mgetD
    split
    · rename_i hb; subst hb; rfl
    · simp [mget]
  | cons e m ih =>
    obtain ⟨k, c⟩ := e
    intro lo hm
    have hc := Memory.wfFrom_cons.mp hm
    unfold Memory.write
    split
    · rename_i hlt
      split
      · rename_i hb
        have h1 : ¬ k = a := by omega
        simp [Memory.read, mgetD, mget, h1, hlt, hb]
      · simp [Memory.read, mgetD, mget]
    · split
      · rename_i h1 h2
        subst h2
        split
        · rename_i hb
          have := mget_below (x := a) hc.2.2.1 (by omega)
          simp [Memory.read, mgetD, this, hb]
        · simp [Memory.read, mgetD, mget]
      · rename_i h1 h2
        have h3 : ¬ k = a := fun e => h2 e.symm
        simpa [Memory.read, mgetD, mget, h3, h1] using ih _ hc.2.2

theorem Memory.read_write_ne {m : List (Nat × Byte)} {a x : Nat} {b : Byte} (hm : Memory.wf m = true) (h : x ≠ a) :
    Memory.read (Memory.write m a b) x = Memory.read m x := by
  have g := (Memory.wf_iff _).mp hm
  suffices ∀ lo, Memory.wfFrom lo m → Memory.read (Memory.write m a b) x = Memory.read m x from this 0 g
  clear g hm
  induction m with
  | nil =>
    intro lo _
    unfold Memory.write Memory.read mgetD
    split
    · rfl
    · have h1 : ¬ a = x := fun e => h e.symm
      simp [mget, h1]
  | cons e m ih =>
    obtain ⟨k, c⟩ := e
    intro lo hm
    have hc := Memory.wfFrom_cons.mp hm
    unfold Memory.write
    split
    · rename_i hlt
      split
      · rfl
      · have h1 : ¬ a = x := fun e => h e.symm
        by_cases h2 : x < a
        · have h3 : ¬ k = x := by omega
          have h4 : x < k := by omega
          simp [Memory.read, mgetD, mget, h1, h2, h3, h4]
        · simp [Memory.read, mgetD, mget, h1, h2]
    · split
      · rename_i h1 h2
        subst h2
        have h3 : ¬ a = x := fun e => h e.symm
        split
        · by_cases h4 : x < a
          · have := mget_below (x := x) hc.2.2.1 (by omega)
            simp [Memory.read, mgetD, mget, h3, h4, this]
          · simp [Memory.read, mgetD, mget, h3, h4]
        · simp [Memory.read, mgetD, mget, h3]
      · have := ih _ hc.2.2
        simp only [Memory.read, mgetD] at this
        by_cases h3 : k = x
        · simp [Memory.read, mgetD, mget, h3]
        · by_cases h4 : x < k
          · simp [Memory.read, mgetD, mget, h3, h4]
          · simpa [Memory.read, mgetD, mget, h3, h4] using this

/-- A write of many bytes leaves every byte outside them. -/
theorem Memory.read_writeN_out {m : List (Nat × Byte)} {a x : Nat} {b : Bytes} (hm : Memory.wf m = true)
    (h : x < a ∨ a + b.length ≤ x) : Memory.read (Memory.writeN m a b) x = Memory.read m x := by
  induction b generalizing m a with
  | nil => rfl
  | cons y b ih =>
    simp only [List.length_cons] at h
    rw [Memory.writeN, ih (Memory.wf_write hm a y) (by omega), Memory.read_write_ne hm (by omega)]

/-- The bytes written read back. -/
theorem Memory.readN_writeN {m : List (Nat × Byte)} {a : Nat} {b : Bytes} (hm : Memory.wf m = true) :
    Memory.readN (Memory.writeN m a b) a b.length = b := by
  induction b generalizing m a with
  | nil => rfl
  | cons y b ih =>
    have hw := Memory.wf_write hm a y
    rw [List.length_cons, Memory.readN, Memory.writeN, ih hw, Memory.read_writeN_out hw (Or.inl (by omega)), Memory.read_write hm]

end Sys2Proof.Machine
end

