-- ==== Sys2Proof/Laws/Parts.lean ====
section
/-! SUPPORT. Which parts of the state a change touches: the scheme by which one lemma per operation says once all that the
operation leaves as it is. -/

namespace Sys2Proof.Machine
set_option Elab.async false

/-- The number of a part, as a bit of a set of parts. -/
def Part.idx : Part → Nat
  | .pending => 0
  | .stepNumber => 1
  | .stepHeld => 2
  | .stepSequencer => 3
  | .stepClock => 4
  | .stepSpill => 5
  | .stepRetries => 6
  | .stepAgenda => 7
  | .stepOpen => 8
  | .stepPlan => 9
  | .nodeUnits => 10
  | .nodeHand => 11
  | .nodePools => 12
  | .nodeFaults => 13
  | .dictCommitted => 14
  | .dictActive => 15
  | .dictLive => 16
  | .dictPub => 17
  | .dictClaims => 18
  | .dictStore => 19
  | .dictSets => 20
  | .dictProtocol => 21
  | .dictCommits => 22
  | .dictResults => 23
  | .evRing => 24
  | .evRaised => 25
  | .evRuns => 26
  | .memField => 27
  | .memRings => 28
  | .memCells => 29
  | .memRows => 30
  | .rings => 31
  | .fars => 32
  | .stubs => 33
  | .works => 34
  | .copies => 35
  | .waits => 36
  | .roots => 37
  | .audits => 38
  | .subQ => 39
  | .shards => 40
  | .log => 41
  | .flashDies => 42
  | .flashMap => 43
  | .flashExtents => 44
  | .flashReserve => 45
  | .flashHealth => 46
  | .tierAlloc => 47
  | .tierFrames => 48
  | .tierRows => 49
  | .tierOutQ => 50
  | .codebooks => 51
  | .models => 52
  | .caches => 53
  | .arrays => 54
  | .embs => 55
  | .tills => 56
  | .queues => 57
  | .tx => 58
  | .qps => 59
  | .hedge => 60
  | .eth => 61
  | .traf => 62
  | .sec => 63
  | .parts => 64
  | .boot => 65
  | .power => 66
  | .resp => 67
  | .freeCtr => 68

/-- `v` with one part taken from `u`. -/
def Part.put (u v : State) : Part → State
  | .pending => { v with pending := u.pending }
  | .stepNumber => { v with step := { v.step with number := u.step.number } }
  | .stepHeld => { v with step := { v.step with held := u.step.held, limit := u.step.limit } }
  | .stepSequencer => { v with step := { v.step with sequencer := u.step.sequencer } }
  | .stepClock => { v with step := { v.step with tier := u.step.tier, admTier := u.step.admTier, wantTier := u.step.wantTier, tierAt := u.step.tierAt, planTier := u.step.planTier, stretch := u.step.stretch, noAdmit := u.step.noAdmit, demand := u.step.demand } }
  | .stepSpill => { v with step := { v.step with spill := u.step.spill, used := u.step.used, movers := u.step.movers } }
  | .stepRetries => { v with step := { v.step with retries := u.step.retries } }
  | .stepAgenda => { v with step := { v.step with agenda := u.step.agenda } }
  | .stepOpen => { v with step := { v.step with running := u.step.running, open_ := u.step.open_ } }
  | .stepPlan => { v with step := { v.step with plan := u.step.plan, activated := u.step.activated, staged := u.step.staged, armed := u.step.armed, draining := u.step.draining, seedling := u.step.seedling } }
  | .nodeUnits => { v with node := { v.node with plots := u.node.plots, tillers := u.node.tillers, gates := u.node.gates, bars := u.node.bars, strings := u.node.strings, gateStrings := u.node.gateStrings, retired := u.node.retired, restart := u.node.restart } }
  | .nodeHand => { v with node := { v.node with handDie := u.node.handDie, handAlive := u.node.handAlive, altStarting := u.node.altStarting, g0Lost := u.node.g0Lost } }
  | .nodePools => { v with node := { v.node with nearOut := u.node.nearOut, farOut := u.node.farOut } }
  | .nodeFaults => { v with node := { v.node with faults := u.node.faults } }
  | .dictCommitted => { v with dict := { v.dict with committed := u.dict.committed } }
  | .dictActive => { v with dict := { v.dict with active := u.dict.active } }
  | .dictLive => { v with dict := { v.dict with live := u.dict.live } }
  | .dictPub => { v with dict := { v.dict with pub := u.dict.pub } }
  | .dictClaims => { v with dict := { v.dict with claims := u.dict.claims } }
  | .dictStore => { v with dict := { v.dict with store := u.dict.store } }
  | .dictSets => { v with dict := { v.dict with sets := u.dict.sets } }
  | .dictProtocol => { v with dict := { v.dict with xfers := u.dict.xfers, lastTxn := u.dict.lastTxn, lastResp := u.dict.lastResp, resp := u.dict.resp, sent := u.dict.sent, lastSeq := u.dict.lastSeq, expired := u.dict.expired } }
  | .dictCommits => { v with dict := { v.dict with commits := u.dict.commits } }
  | .dictResults => { v with dict := { v.dict with results := u.dict.results } }
  | .evRing => { v with ev := { v.ev with ring := u.ev.ring, records := u.ev.records, produced := u.ev.produced, consumed := u.ev.consumed, lost := u.ev.lost, lostRun := u.ev.lostRun, notices := u.ev.notices } }
  | .evRaised => { v with ev := { v.ev with raised := u.ev.raised, boot := u.ev.boot } }
  | .evRuns => { v with ev := { v.ev with runs := u.ev.runs } }
  | .memField => v
  | .memRings => v
  | .memCells => v
  | .memRows => v
  | .rings => { v with rings := u.rings }
  | .fars => { v with ledger := { v.ledger with fars := u.ledger.fars } }
  | .stubs => { v with ledger := { v.ledger with stubs := u.ledger.stubs } }
  | .works => { v with ledger := { v.ledger with works := u.ledger.works, lens := u.ledger.lens } }
  | .copies => { v with ledger := { v.ledger with copies := u.ledger.copies } }
  | .waits => { v with ledger := { v.ledger with losses := u.ledger.losses, replays := u.ledger.replays } }
  | .roots => { v with ledger := { v.ledger with rootQ := u.ledger.rootQ, published := u.ledger.published } }
  | .audits => { v with ledger := { v.ledger with audits := u.ledger.audits, swept := u.ledger.swept } }
  | .subQ => { v with ledger := { v.ledger with subQ := u.ledger.subQ, subSeen := u.ledger.subSeen } }
  | .shards => { v with shards := u.shards }
  | .log => { v with log := u.log }
  | .flashDies => { v with flash := { v.flash with dies := u.flash.dies, chans := u.flash.chans, units := u.flash.units } }
  | .flashMap => { v with flash := { v.flash with map := u.flash.map, pend := u.flash.pend, journal := u.flash.journal, jpages := u.flash.jpages, ckptNext := u.flash.ckptNext, ckpt := u.flash.ckpt, writeSeq := u.flash.writeSeq, logSeq := u.flash.logSeq, sys := u.flash.sys } }
  | .flashExtents => { v with flash := { v.flash with extents := u.flash.extents, logPages := u.flash.logPages, due := u.flash.due, verified := u.flash.verified } }
  | .flashReserve => { v with flash := { v.flash with flushUs := u.flash.flushUs, flushRec := u.flash.flushRec, format := u.flash.format } }
  | .flashHealth => { v with flash := { v.flash with warned := u.flash.warned } }
  | .tierAlloc => { v with tier := { v.tier with alloc := u.tier.alloc, bmaps := u.tier.bmaps, places := u.tier.places } }
  | .tierFrames => { v with tier := { v.tier with frames := u.tier.frames, counts := u.tier.counts, demote := u.tier.demote, promos := u.tier.promos, wrote := u.tier.wrote, copied := u.tier.copied, winAt := u.tier.winAt, landing := u.tier.landing, lent := u.tier.lent } }
  | .tierRows => { v with tier := { v.tier with rowCe := u.tier.rowCe, repairs := u.tier.repairs, rebuild := u.tier.rebuild, planBad := u.tier.planBad, scrubAt := u.tier.scrubAt, tm := u.tier.tm } }
  | .tierOutQ => { v with tier := { v.tier with outQ := u.tier.outQ } }
  | .codebooks => { v with codebooks := u.codebooks }
  | .models => { v with models := u.models }
  | .caches => { v with caches := u.caches, nextCache := u.nextCache }
  | .arrays => { v with arrays := u.arrays }
  | .embs => { v with embs := u.embs, embWinAt := u.embWinAt }
  | .tills => { v with tills := u.tills }
  | .queues => { v with queues := u.queues }
  | .tx => { v with tx := u.tx, sent := u.sent }
  | .qps => { v with qps := u.qps }
  | .hedge => { v with hedge := u.hedge }
  | .eth => { v with eth := u.eth }
  | .traf => { v with traf := u.traf }
  | .sec => { v with sec := u.sec }
  | .parts => { v with parts := u.parts }
  | .boot => { v with pwr := { v.pwr with boot := u.pwr.boot, good := u.pwr.good, flushN := u.pwr.flushN, term := u.pwr.term, test := u.pwr.test } }
  | .power => { v with pwr := { v.pwr with pin := u.pwr.pin, demand := u.pwr.demand, calm := u.pwr.calm, clamp := u.pwr.clamp, cool := u.pwr.cool, vcore := u.pwr.vcore, capAt := u.pwr.capAt, short := u.pwr.short } }
  | .resp => { v with resp := u.resp }
  | .freeCtr => { v with freeCtr := u.freeCtr }

/-- The addresses that a kind of memory write leaves: 0 = ring slots, 1 = cells, 2 = tilling rows, else any write. -/
def memOut (k a : Nat) : Prop :=
  match k with
  | 0 => a < 4 * 2 ^ 60 ∨ 5 * 2 ^ 60 ≤ a
  | 1 => a < 5 * 2 ^ 60 ∨ 6 * 2 ^ 60 ≤ a
  | 2 => a < 2 ^ 64
  | _ => False

/-- What a kind of memory write keeps to: a canonical memory stays so, and the bytes it leaves read as before. -/
def MemFair (k : Nat) (m m' : List (Nat × Byte)) : Prop :=
  Memory.wf m = true → Memory.wf m' = true ∧ ∀ a, memOut k a → Memory.read m' a = Memory.read m a

theorem MemFair.any {m m' : List (Nat × Byte)} (h : Memory.wf m = true → Memory.wf m' = true) : MemFair 3 m m' :=
  fun w => ⟨h w, fun _ o => o.elim⟩

theorem MemFair.refl (k : Nat) (m : List (Nat × Byte)) : MemFair k m m := fun w => ⟨w, fun _ _ => rfl⟩

theorem MemFair.trans {k : Nat} {m n o : List (Nat × Byte)} (h : MemFair k m n) (g : MemFair k n o) : MemFair k m o :=
  fun w => ⟨(g (h w).1).1, fun a ha => ((g (h w).1).2 a ha).trans ((h w).2 a ha)⟩

theorem MemFair.writeN {k : Nat} (m : List (Nat × Byte)) (a : Nat) (b : Bytes)
    (h : ∀ x, memOut k x → x < a ∨ a + b.length ≤ x) : MemFair k m (Memory.writeN m a b) :=
  fun w => ⟨Memory.wf_writeN w a b, fun x hx => Memory.read_writeN_out w (h x hx)⟩

theorem MemFair.write {k : Nat} (m : List (Nat × Byte)) (a : Nat) (b : Byte) (h : ∀ x, memOut k x → x ≠ a) :
    MemFair k m (Memory.write m a b) :=
  fun w => ⟨Memory.wf_write w a b, fun x hx => Memory.read_write_ne w (h x hx)⟩

theorem MemFair.foldl {α : Type} {k : Nat} {f : List (Nat × Byte) → α → List (Nat × Byte)} {l : List α} (m : List (Nat × Byte))
    (hf : ∀ m x, MemFair k m (f m x)) : MemFair k m (l.foldl f m) := by
  induction l generalizing m with
  | nil => exact MemFair.refl k m
  | cons x l ih => exact (hf m x).trans (ih _)

theorem MemFair.filter {k : Nat} (m : List (Nat × Byte)) (p : Nat × Byte → Bool) (h : ∀ x, memOut k x.1 → p x = true) :
    MemFair k m (m.filter p) :=
  fun w => ⟨Memory.wf_filter p w, fun x hx => Memory.read_filter w fun e => h (x, e) hx⟩

/-- What a change of a part keeps to: the Step Number is set to 0. -/
def Part.fair (u : State) : Part → Prop
  | .stepNumber => u.step.number = 0
  | _ => True

/-- A property of states is kept by every fair change of a part. -/
def Stable (P : State → Prop) (p : Part) : Prop := ∀ u v, p.fair u → P v → P (p.put u v)

/-- A property is kept by fair changes of every part of a set (bit `Part.idx`), by a loss of power where bit 69 says so, and by
writes of memory of the kinds that bits 70 to 73 name. -/
structure Stables (P : State → Prop) (m : Nat) : Prop where
  part : ∀ p : Part, m.testBit p.idx = true → Stable P p
  down : m.testBit 69 = true → ∀ u, P u → P u.powerDown
  mem : ∀ k, m.testBit (70 + k) = true → ∀ v x, MemFair k v.mem x → P v → P { v with mem := x }

theorem Stables.sub {P : State → Prop} {m n : Nat} (h : Stables P m) (e : n &&& m = n) : Stables P n :=
  have low : ∀ i, n.testBit i = true → m.testBit i = true := fun i hi => by
    rw [← e, Nat.testBit_and, Bool.and_eq_true] at hi; exact hi.2
  ⟨fun p hp => h.part p (low _ hp), fun hp => h.down (low _ hp), fun k hp => h.mem k (low _ hp)⟩

theorem Part.put_same {u v : State} {p : Part} (e : p.same v u) : p.put u v = v := by
  cases p <;> simp only [Part.same, Prod.mk.injEq] at e <;> simp [Part.put, e]

theorem Stables.step {P : State → Prop} {m : Nat} (hk : Stables P m) {u v : State} {p : Part}
    (h : P v) (e : p.same v u ∨ (m.testBit p.idx = true ∧ p.fair u)) : P (p.put u v) := by
  rcases e with e | ⟨e, f⟩
  · rw [Part.put_same e]; exact h
  · exact hk.part p e u v f h

theorem Stables.memStep {P : State → Prop} {m : Nat} (hk : Stables P m) {v : State} {x : List (Nat × Byte)}
    (h : P v) (e : x = v.mem ∨ ∃ k, m.testBit (70 + k) = true ∧ MemFair k v.mem x) : P { v with mem := x } := by
  rcases e with e | ⟨k, b, f⟩
  · rw [e]; exact h
  · exact hk.mem k b v x f h

theorem Inv.lit_step {P : State → Prop} {m : Nat} (hk : Stables P m) {t u : State} (h : P t)
    (e1 : u.step.number = t.step.number ∨ (m.testBit 1 = true ∧ u.step.number = 0))
    (e2 : (u.step.held = t.step.held ∧ u.step.limit = t.step.limit) ∨ m.testBit 2 = true)
    (e3 : u.step.sequencer = t.step.sequencer ∨ m.testBit 3 = true)
    (e4 : (u.step.tier = t.step.tier ∧ u.step.admTier = t.step.admTier ∧ u.step.wantTier = t.step.wantTier ∧ u.step.tierAt = t.step.tierAt ∧ u.step.planTier = t.step.planTier ∧ u.step.stretch = t.step.stretch ∧ u.step.noAdmit = t.step.noAdmit ∧ u.step.demand = t.step.demand) ∨ m.testBit 4 = true)
    (e5 : (u.step.spill = t.step.spill ∧ u.step.used = t.step.used ∧ u.step.movers = t.step.movers) ∨ m.testBit 5 = true)
    (e6 : u.step.retries = t.step.retries ∨ m.testBit 6 = true)
    (e7 : u.step.agenda = t.step.agenda ∨ m.testBit 7 = true)
    (e8 : (u.step.running = t.step.running ∧ u.step.open_ = t.step.open_) ∨ m.testBit 8 = true)
    (e9 : (u.step.plan = t.step.plan ∧ u.step.activated = t.step.activated ∧ u.step.staged = t.step.staged ∧ u.step.armed = t.step.armed ∧ u.step.draining = t.step.draining ∧ u.step.seedling = t.step.seedling) ∨ m.testBit 9 = true) : P { t with step := u.step } := by
  have h1 : P { t with step := { t.step with number := u.step.number } } := hk.step (u := u) (p := .stepNumber) h (e1.imp id id)
  have h2 : P { t with step := { t.step with number := u.step.number, held := u.step.held, limit := u.step.limit } } := hk.step (u := u) (p := .stepHeld) h1 (e2.imp (fun e => by simp only [Part.same, e]; try rfl) fun e => ⟨e, trivial⟩)
  have h3 : P { t with step := { t.step with number := u.step.number, held := u.step.held, limit := u.step.limit, sequencer := u.step.sequencer } } := hk.step (u := u) (p := .stepSequencer) h2 (e3.imp (fun e => e) fun e => ⟨e, trivial⟩)
  have h4 : P { t with step := { t.step with number := u.step.number, held := u.step.held, limit := u.step.limit, sequencer := u.step.sequencer, tier := u.step.tier, admTier := u.step.admTier, wantTier := u.step.wantTier, tierAt := u.step.tierAt, planTier := u.step.planTier, stretch := u.step.stretch, noAdmit := u.step.noAdmit, demand := u.step.demand } } := hk.step (u := u) (p := .stepClock) h3 (e4.imp (fun e => by simp only [Part.same, e]; try rfl) fun e => ⟨e, trivial⟩)
  have h5 : P { t with step := { t.step with number := u.step.number, held := u.step.held, limit := u.step.limit, sequencer := u.step.sequencer, tier := u.step.tier, admTier := u.step.admTier, wantTier := u.step.wantTier, tierAt := u.step.tierAt, planTier := u.step.planTier, stretch := u.step.stretch, noAdmit := u.step.noAdmit, demand := u.step.demand, spill := u.step.spill, used := u.step.used, movers := u.step.movers } } := hk.step (u := u) (p := .stepSpill) h4 (e5.imp (fun e => by simp only [Part.same, e]; try rfl) fun e => ⟨e, trivial⟩)
  have h6 : P { t with step := { t.step with number := u.step.number, held := u.step.held, limit := u.step.limit, sequencer := u.step.sequencer, tier := u.step.tier, admTier := u.step.admTier, wantTier := u.step.wantTier, tierAt := u.step.tierAt, planTier := u.step.planTier, stretch := u.step.stretch, noAdmit := u.step.noAdmit, demand := u.step.demand, spill := u.step.spill, used := u.step.used, movers := u.step.movers, retries := u.step.retries } } := hk.step (u := u) (p := .stepRetries) h5 (e6.imp (fun e => e) fun e => ⟨e, trivial⟩)
  have h7 : P { t with step := { t.step with number := u.step.number, held := u.step.held, limit := u.step.limit, sequencer := u.step.sequencer, tier := u.step.tier, admTier := u.step.admTier, wantTier := u.step.wantTier, tierAt := u.step.tierAt, planTier := u.step.planTier, stretch := u.step.stretch, noAdmit := u.step.noAdmit, demand := u.step.demand, spill := u.step.spill, used := u.step.used, movers := u.step.movers, retries := u.step.retries, agenda := u.step.agenda } } := hk.step (u := u) (p := .stepAgenda) h6 (e7.imp (fun e => e) fun e => ⟨e, trivial⟩)
  have h8 : P { t with step := { t.step with number := u.step.number, held := u.step.held, limit := u.step.limit, sequencer := u.step.sequencer, tier := u.step.tier, admTier := u.step.admTier, wantTier := u.step.wantTier, tierAt := u.step.tierAt, planTier := u.step.planTier, stretch := u.step.stretch, noAdmit := u.step.noAdmit, demand := u.step.demand, spill := u.step.spill, used := u.step.used, movers := u.step.movers, retries := u.step.retries, agenda := u.step.agenda, running := u.step.running, open_ := u.step.open_ } } := hk.step (u := u) (p := .stepOpen) h7 (e8.imp (fun e => by simp only [Part.same, e]; try rfl) fun e => ⟨e, trivial⟩)
  have h9 : P { t with step := { t.step with number := u.step.number, held := u.step.held, limit := u.step.limit, sequencer := u.step.sequencer, tier := u.step.tier, admTier := u.step.admTier, wantTier := u.step.wantTier, tierAt := u.step.tierAt, planTier := u.step.planTier, stretch := u.step.stretch, noAdmit := u.step.noAdmit, demand := u.step.demand, spill := u.step.spill, used := u.step.used, movers := u.step.movers, retries := u.step.retries, agenda := u.step.agenda, running := u.step.running, open_ := u.step.open_, plan := u.step.plan, activated := u.step.activated, staged := u.step.staged, armed := u.step.armed, draining := u.step.draining, seedling := u.step.seedling } } := hk.step (u := u) (p := .stepPlan) h8 (e9.imp (fun e => by simp only [Part.same, e]; try rfl) fun e => ⟨e, trivial⟩)
  exact h9

theorem Inv.lit_node {P : State → Prop} {m : Nat} (hk : Stables P m) {t u : State} (h : P t)
    (e10 : (u.node.plots = t.node.plots ∧ u.node.tillers = t.node.tillers ∧ u.node.gates = t.node.gates ∧ u.node.bars = t.node.bars ∧ u.node.strings = t.node.strings ∧ u.node.gateStrings = t.node.gateStrings ∧ u.node.retired = t.node.retired ∧ u.node.restart = t.node.restart) ∨ m.testBit 10 = true)
    (e11 : (u.node.handDie = t.node.handDie ∧ u.node.handAlive = t.node.handAlive ∧ u.node.altStarting = t.node.altStarting ∧ u.node.g0Lost = t.node.g0Lost) ∨ m.testBit 11 = true)
    (e12 : (u.node.nearOut = t.node.nearOut ∧ u.node.farOut = t.node.farOut) ∨ m.testBit 12 = true)
    (e13 : u.node.faults = t.node.faults ∨ m.testBit 13 = true) : P { t with node := u.node } := by
  have h10 : P { t with node := { t.node with plots := u.node.plots, tillers := u.node.tillers, gates := u.node.gates, bars := u.node.bars, strings := u.node.strings, gateStrings := u.node.gateStrings, retired := u.node.retired, restart := u.node.restart } } := hk.step (u := u) (p := .nodeUnits) h (e10.imp (fun e => by simp only [Part.same, e]; try rfl) fun e => ⟨e, trivial⟩)
  have h11 : P { t with node := { t.node with plots := u.node.plots, tillers := u.node.tillers, gates := u.node.gates, bars := u.node.bars, strings := u.node.strings, gateStrings := u.node.gateStrings, retired := u.node.retired, restart := u.node.restart, handDie := u.node.handDie, handAlive := u.node.handAlive, altStarting := u.node.altStarting, g0Lost := u.node.g0Lost } } := hk.step (u := u) (p := .nodeHand) h10 (e11.imp (fun e => by simp only [Part.same, e]; try rfl) fun e => ⟨e, trivial⟩)
  have h12 : P { t with node := { t.node with plots := u.node.plots, tillers := u.node.tillers, gates := u.node.gates, bars := u.node.bars, strings := u.node.strings, gateStrings := u.node.gateStrings, retired := u.node.retired, restart := u.node.restart, handDie := u.node.handDie, handAlive := u.node.handAlive, altStarting := u.node.altStarting, g0Lost := u.node.g0Lost, nearOut := u.node.nearOut, farOut := u.node.farOut } } := hk.step (u := u) (p := .nodePools) h11 (e12.imp (fun e => by simp only [Part.same, e]; try rfl) fun e => ⟨e, trivial⟩)
  have h13 : P { t with node := { t.node with plots := u.node.plots, tillers := u.node.tillers, gates := u.node.gates, bars := u.node.bars, strings := u.node.strings, gateStrings := u.node.gateStrings, retired := u.node.retired, restart := u.node.restart, handDie := u.node.handDie, handAlive := u.node.handAlive, altStarting := u.node.altStarting, g0Lost := u.node.g0Lost, nearOut := u.node.nearOut, farOut := u.node.farOut, faults := u.node.faults } } := hk.step (u := u) (p := .nodeFaults) h12 (e13.imp (fun e => e) fun e => ⟨e, trivial⟩)
  exact h13

theorem Inv.lit_dict {P : State → Prop} {m : Nat} (hk : Stables P m) {t u : State} (h : P t)
    (e14 : u.dict.committed = t.dict.committed ∨ m.testBit 14 = true)
    (e15 : u.dict.active = t.dict.active ∨ m.testBit 15 = true)
    (e16 : u.dict.live = t.dict.live ∨ m.testBit 16 = true)
    (e17 : u.dict.pub = t.dict.pub ∨ m.testBit 17 = true)
    (e18 : u.dict.claims = t.dict.claims ∨ m.testBit 18 = true)
    (e19 : u.dict.store = t.dict.store ∨ m.testBit 19 = true)
    (e20 : u.dict.sets = t.dict.sets ∨ m.testBit 20 = true)
    (e21 : (u.dict.xfers = t.dict.xfers ∧ u.dict.lastTxn = t.dict.lastTxn ∧ u.dict.lastResp = t.dict.lastResp ∧ u.dict.resp = t.dict.resp ∧ u.dict.sent = t.dict.sent ∧ u.dict.lastSeq = t.dict.lastSeq ∧ u.dict.expired = t.dict.expired) ∨ m.testBit 21 = true)
    (e22 : u.dict.commits = t.dict.commits ∨ m.testBit 22 = true)
    (e23 : u.dict.results = t.dict.results ∨ m.testBit 23 = true) : P { t with dict := u.dict } := by
  have h14 : P { t with dict := { t.dict with committed := u.dict.committed } } := hk.step (u := u) (p := .dictCommitted) h (e14.imp (fun e => e) fun e => ⟨e, trivial⟩)
  have h15 : P { t with dict := { t.dict with committed := u.dict.committed, active := u.dict.active } } := hk.step (u := u) (p := .dictActive) h14 (e15.imp (fun e => e) fun e => ⟨e, trivial⟩)
  have h16 : P { t with dict := { t.dict with committed := u.dict.committed, active := u.dict.active, live := u.dict.live } } := hk.step (u := u) (p := .dictLive) h15 (e16.imp (fun e => e) fun e => ⟨e, trivial⟩)
  have h17 : P { t with dict := { t.dict with committed := u.dict.committed, active := u.dict.active, live := u.dict.live, pub := u.dict.pub } } := hk.step (u := u) (p := .dictPub) h16 (e17.imp (fun e => e) fun e => ⟨e, trivial⟩)
  have h18 : P { t with dict := { t.dict with committed := u.dict.committed, active := u.dict.active, live := u.dict.live, pub := u.dict.pub, claims := u.dict.claims } } := hk.step (u := u) (p := .dictClaims) h17 (e18.imp (fun e => e) fun e => ⟨e, trivial⟩)
  have h19 : P { t with dict := { t.dict with committed := u.dict.committed, active := u.dict.active, live := u.dict.live, pub := u.dict.pub, claims := u.dict.claims, store := u.dict.store } } := hk.step (u := u) (p := .dictStore) h18 (e19.imp (fun e => e) fun e => ⟨e, trivial⟩)
  have h20 : P { t with dict := { t.dict with committed := u.dict.committed, active := u.dict.active, live := u.dict.live, pub := u.dict.pub, claims := u.dict.claims, store := u.dict.store, sets := u.dict.sets } } := hk.step (u := u) (p := .dictSets) h19 (e20.imp (fun e => e) fun e => ⟨e, trivial⟩)
  have h21 : P { t with dict := { t.dict with committed := u.dict.committed, active := u.dict.active, live := u.dict.live, pub := u.dict.pub, claims := u.dict.claims, store := u.dict.store, sets := u.dict.sets, xfers := u.dict.xfers, lastTxn := u.dict.lastTxn, lastResp := u.dict.lastResp, resp := u.dict.resp, sent := u.dict.sent, lastSeq := u.dict.lastSeq, expired := u.dict.expired } } := hk.step (u := u) (p := .dictProtocol) h20 (e21.imp (fun e => by simp only [Part.same, e]; try rfl) fun e => ⟨e, trivial⟩)
  have h22 : P { t with dict := { t.dict with committed := u.dict.committed, active := u.dict.active, live := u.dict.live, pub := u.dict.pub, claims := u.dict.claims, store := u.dict.store, sets := u.dict.sets, xfers := u.dict.xfers, lastTxn := u.dict.lastTxn, lastResp := u.dict.lastResp, resp := u.dict.resp, sent := u.dict.sent, lastSeq := u.dict.lastSeq, expired := u.dict.expired, commits := u.dict.commits } } := hk.step (u := u) (p := .dictCommits) h21 (e22.imp (fun e => e) fun e => ⟨e, trivial⟩)
  have h23 : P { t with dict := { t.dict with committed := u.dict.committed, active := u.dict.active, live := u.dict.live, pub := u.dict.pub, claims := u.dict.claims, store := u.dict.store, sets := u.dict.sets, xfers := u.dict.xfers, lastTxn := u.dict.lastTxn, lastResp := u.dict.lastResp, resp := u.dict.resp, sent := u.dict.sent, lastSeq := u.dict.lastSeq, expired := u.dict.expired, commits := u.dict.commits, results := u.dict.results } } := hk.step (u := u) (p := .dictResults) h22 (e23.imp (fun e => e) fun e => ⟨e, trivial⟩)
  exact h23

theorem Inv.lit_ev {P : State → Prop} {m : Nat} (hk : Stables P m) {t u : State} (h : P t)
    (e24 : (u.ev.ring = t.ev.ring ∧ u.ev.records = t.ev.records ∧ u.ev.produced = t.ev.produced ∧ u.ev.consumed = t.ev.consumed ∧ u.ev.lost = t.ev.lost ∧ u.ev.lostRun = t.ev.lostRun ∧ u.ev.notices = t.ev.notices) ∨ m.testBit 24 = true)
    (e25 : (u.ev.raised = t.ev.raised ∧ u.ev.boot = t.ev.boot) ∨ m.testBit 25 = true)
    (e26 : u.ev.runs = t.ev.runs ∨ m.testBit 26 = true) : P { t with ev := u.ev } := by
  have h24 : P { t with ev := { t.ev with ring := u.ev.ring, records := u.ev.records, produced := u.ev.produced, consumed := u.ev.consumed, lost := u.ev.lost, lostRun := u.ev.lostRun, notices := u.ev.notices } } := hk.step (u := u) (p := .evRing) h (e24.imp (fun e => by simp only [Part.same, e]; try rfl) fun e => ⟨e, trivial⟩)
  have h25 : P { t with ev := { t.ev with ring := u.ev.ring, records := u.ev.records, produced := u.ev.produced, consumed := u.ev.consumed, lost := u.ev.lost, lostRun := u.ev.lostRun, notices := u.ev.notices, raised := u.ev.raised, boot := u.ev.boot } } := hk.step (u := u) (p := .evRaised) h24 (e25.imp (fun e => by simp only [Part.same, e]; try rfl) fun e => ⟨e, trivial⟩)
  have h26 : P { t with ev := { t.ev with ring := u.ev.ring, records := u.ev.records, produced := u.ev.produced, consumed := u.ev.consumed, lost := u.ev.lost, lostRun := u.ev.lostRun, notices := u.ev.notices, raised := u.ev.raised, boot := u.ev.boot, runs := u.ev.runs } } := hk.step (u := u) (p := .evRuns) h25 (e26.imp (fun e => e) fun e => ⟨e, trivial⟩)
  exact h26

theorem Inv.lit_ledger {P : State → Prop} {m : Nat} (hk : Stables P m) {t u : State} (h : P t)
    (e32 : u.ledger.fars = t.ledger.fars ∨ m.testBit 32 = true)
    (e33 : u.ledger.stubs = t.ledger.stubs ∨ m.testBit 33 = true)
    (e34 : (u.ledger.works = t.ledger.works ∧ u.ledger.lens = t.ledger.lens) ∨ m.testBit 34 = true)
    (e35 : u.ledger.copies = t.ledger.copies ∨ m.testBit 35 = true)
    (e36 : (u.ledger.losses = t.ledger.losses ∧ u.ledger.replays = t.ledger.replays) ∨ m.testBit 36 = true)
    (e37 : (u.ledger.rootQ = t.ledger.rootQ ∧ u.ledger.published = t.ledger.published) ∨ m.testBit 37 = true)
    (e38 : (u.ledger.audits = t.ledger.audits ∧ u.ledger.swept = t.ledger.swept) ∨ m.testBit 38 = true)
    (e39 : (u.ledger.subQ = t.ledger.subQ ∧ u.ledger.subSeen = t.ledger.subSeen) ∨ m.testBit 39 = true) : P { t with ledger := u.ledger } := by
  have h32 : P { t with ledger := { t.ledger with fars := u.ledger.fars } } := hk.step (u := u) (p := .fars) h (e32.imp (fun e => e) fun e => ⟨e, trivial⟩)
  have h33 : P { t with ledger := { t.ledger with fars := u.ledger.fars, stubs := u.ledger.stubs } } := hk.step (u := u) (p := .stubs) h32 (e33.imp (fun e => e) fun e => ⟨e, trivial⟩)
  have h34 : P { t with ledger := { t.ledger with fars := u.ledger.fars, stubs := u.ledger.stubs, works := u.ledger.works, lens := u.ledger.lens } } := hk.step (u := u) (p := .works) h33 (e34.imp (fun e => by simp only [Part.same, e]; try rfl) fun e => ⟨e, trivial⟩)
  have h35 : P { t with ledger := { t.ledger with fars := u.ledger.fars, stubs := u.ledger.stubs, works := u.ledger.works, lens := u.ledger.lens, copies := u.ledger.copies } } := hk.step (u := u) (p := .copies) h34 (e35.imp (fun e => e) fun e => ⟨e, trivial⟩)
  have h36 : P { t with ledger := { t.ledger with fars := u.ledger.fars, stubs := u.ledger.stubs, works := u.ledger.works, lens := u.ledger.lens, copies := u.ledger.copies, losses := u.ledger.losses, replays := u.ledger.replays } } := hk.step (u := u) (p := .waits) h35 (e36.imp (fun e => by simp only [Part.same, e]; try rfl) fun e => ⟨e, trivial⟩)
  have h37 : P { t with ledger := { t.ledger with fars := u.ledger.fars, stubs := u.ledger.stubs, works := u.ledger.works, lens := u.ledger.lens, copies := u.ledger.copies, losses := u.ledger.losses, replays := u.ledger.replays, rootQ := u.ledger.rootQ, published := u.ledger.published } } := hk.step (u := u) (p := .roots) h36 (e37.imp (fun e => by simp only [Part.same, e]; try rfl) fun e => ⟨e, trivial⟩)
  have h38 : P { t with ledger := { t.ledger with fars := u.ledger.fars, stubs := u.ledger.stubs, works := u.ledger.works, lens := u.ledger.lens, copies := u.ledger.copies, losses := u.ledger.losses, replays := u.ledger.replays, rootQ := u.ledger.rootQ, published := u.ledger.published, audits := u.ledger.audits, swept := u.ledger.swept } } := hk.step (u := u) (p := .audits) h37 (e38.imp (fun e => by simp only [Part.same, e]; try rfl) fun e => ⟨e, trivial⟩)
  have h39 : P { t with ledger := { t.ledger with fars := u.ledger.fars, stubs := u.ledger.stubs, works := u.ledger.works, lens := u.ledger.lens, copies := u.ledger.copies, losses := u.ledger.losses, replays := u.ledger.replays, rootQ := u.ledger.rootQ, published := u.ledger.published, audits := u.ledger.audits, swept := u.ledger.swept, subQ := u.ledger.subQ, subSeen := u.ledger.subSeen } } := hk.step (u := u) (p := .subQ) h38 (e39.imp (fun e => by simp only [Part.same, e]; try rfl) fun e => ⟨e, trivial⟩)
  exact h39

theorem Inv.lit_flash {P : State → Prop} {m : Nat} (hk : Stables P m) {t u : State} (h : P t)
    (e42 : (u.flash.dies = t.flash.dies ∧ u.flash.chans = t.flash.chans ∧ u.flash.units = t.flash.units) ∨ m.testBit 42 = true)
    (e43 : (u.flash.map = t.flash.map ∧ u.flash.pend = t.flash.pend ∧ u.flash.journal = t.flash.journal ∧ u.flash.jpages = t.flash.jpages ∧ u.flash.ckptNext = t.flash.ckptNext ∧ u.flash.ckpt = t.flash.ckpt ∧ u.flash.writeSeq = t.flash.writeSeq ∧ u.flash.logSeq = t.flash.logSeq ∧ u.flash.sys = t.flash.sys) ∨ m.testBit 43 = true)
    (e44 : (u.flash.extents = t.flash.extents ∧ u.flash.logPages = t.flash.logPages ∧ u.flash.due = t.flash.due ∧ u.flash.verified = t.flash.verified) ∨ m.testBit 44 = true)
    (e45 : (u.flash.flushUs = t.flash.flushUs ∧ u.flash.flushRec = t.flash.flushRec ∧ u.flash.format = t.flash.format) ∨ m.testBit 45 = true)
    (e46 : u.flash.warned = t.flash.warned ∨ m.testBit 46 = true) : P { t with flash := u.flash } := by
  have h42 : P { t with flash := { t.flash with dies := u.flash.dies, chans := u.flash.chans, units := u.flash.units } } := hk.step (u := u) (p := .flashDies) h (e42.imp (fun e => by simp only [Part.same, e]; try rfl) fun e => ⟨e, trivial⟩)
  have h43 : P { t with flash := { t.flash with dies := u.flash.dies, chans := u.flash.chans, units := u.flash.units, map := u.flash.map, pend := u.flash.pend, journal := u.flash.journal, jpages := u.flash.jpages, ckptNext := u.flash.ckptNext, ckpt := u.flash.ckpt, writeSeq := u.flash.writeSeq, logSeq := u.flash.logSeq, sys := u.flash.sys } } := hk.step (u := u) (p := .flashMap) h42 (e43.imp (fun e => by simp only [Part.same, e]; try rfl) fun e => ⟨e, trivial⟩)
  have h44 : P { t with flash := { t.flash with dies := u.flash.dies, chans := u.flash.chans, units := u.flash.units, map := u.flash.map, pend := u.flash.pend, journal := u.flash.journal, jpages := u.flash.jpages, ckptNext := u.flash.ckptNext, ckpt := u.flash.ckpt, writeSeq := u.flash.writeSeq, logSeq := u.flash.logSeq, sys := u.flash.sys, extents := u.flash.extents, logPages := u.flash.logPages, due := u.flash.due, verified := u.flash.verified } } := hk.step (u := u) (p := .flashExtents) h43 (e44.imp (fun e => by simp only [Part.same, e]; try rfl) fun e => ⟨e, trivial⟩)
  have h45 : P { t with flash := { t.flash with dies := u.flash.dies, chans := u.flash.chans, units := u.flash.units, map := u.flash.map, pend := u.flash.pend, journal := u.flash.journal, jpages := u.flash.jpages, ckptNext := u.flash.ckptNext, ckpt := u.flash.ckpt, writeSeq := u.flash.writeSeq, logSeq := u.flash.logSeq, sys := u.flash.sys, extents := u.flash.extents, logPages := u.flash.logPages, due := u.flash.due, verified := u.flash.verified, flushUs := u.flash.flushUs, flushRec := u.flash.flushRec, format := u.flash.format } } := hk.step (u := u) (p := .flashReserve) h44 (e45.imp (fun e => by simp only [Part.same, e]; try rfl) fun e => ⟨e, trivial⟩)
  have h46 : P { t with flash := { t.flash with dies := u.flash.dies, chans := u.flash.chans, units := u.flash.units, map := u.flash.map, pend := u.flash.pend, journal := u.flash.journal, jpages := u.flash.jpages, ckptNext := u.flash.ckptNext, ckpt := u.flash.ckpt, writeSeq := u.flash.writeSeq, logSeq := u.flash.logSeq, sys := u.flash.sys, extents := u.flash.extents, logPages := u.flash.logPages, due := u.flash.due, verified := u.flash.verified, flushUs := u.flash.flushUs, flushRec := u.flash.flushRec, format := u.flash.format, warned := u.flash.warned } } := hk.step (u := u) (p := .flashHealth) h45 (e46.imp (fun e => e) fun e => ⟨e, trivial⟩)
  exact h46

theorem Inv.lit_tier {P : State → Prop} {m : Nat} (hk : Stables P m) {t u : State} (h : P t)
    (e47 : (u.tier.alloc = t.tier.alloc ∧ u.tier.bmaps = t.tier.bmaps ∧ u.tier.places = t.tier.places) ∨ m.testBit 47 = true)
    (e48 : (u.tier.frames = t.tier.frames ∧ u.tier.counts = t.tier.counts ∧ u.tier.demote = t.tier.demote ∧ u.tier.promos = t.tier.promos ∧ u.tier.wrote = t.tier.wrote ∧ u.tier.copied = t.tier.copied ∧ u.tier.winAt = t.tier.winAt ∧ u.tier.landing = t.tier.landing ∧ u.tier.lent = t.tier.lent) ∨ m.testBit 48 = true)
    (e49 : (u.tier.rowCe = t.tier.rowCe ∧ u.tier.repairs = t.tier.repairs ∧ u.tier.rebuild = t.tier.rebuild ∧ u.tier.planBad = t.tier.planBad ∧ u.tier.scrubAt = t.tier.scrubAt ∧ u.tier.tm = t.tier.tm) ∨ m.testBit 49 = true)
    (e50 : u.tier.outQ = t.tier.outQ ∨ m.testBit 50 = true) : P { t with tier := u.tier } := by
  have h47 : P { t with tier := { t.tier with alloc := u.tier.alloc, bmaps := u.tier.bmaps, places := u.tier.places } } := hk.step (u := u) (p := .tierAlloc) h (e47.imp (fun e => by simp only [Part.same, e]; try rfl) fun e => ⟨e, trivial⟩)
  have h48 : P { t with tier := { t.tier with alloc := u.tier.alloc, bmaps := u.tier.bmaps, places := u.tier.places, frames := u.tier.frames, counts := u.tier.counts, demote := u.tier.demote, promos := u.tier.promos, wrote := u.tier.wrote, copied := u.tier.copied, winAt := u.tier.winAt, landing := u.tier.landing, lent := u.tier.lent } } := hk.step (u := u) (p := .tierFrames) h47 (e48.imp (fun e => by simp only [Part.same, e]; try rfl) fun e => ⟨e, trivial⟩)
  have h49 : P { t with tier := { t.tier with alloc := u.tier.alloc, bmaps := u.tier.bmaps, places := u.tier.places, frames := u.tier.frames, counts := u.tier.counts, demote := u.tier.demote, promos := u.tier.promos, wrote := u.tier.wrote, copied := u.tier.copied, winAt := u.tier.winAt, landing := u.tier.landing, lent := u.tier.lent, rowCe := u.tier.rowCe, repairs := u.tier.repairs, rebuild := u.tier.rebuild, planBad := u.tier.planBad, scrubAt := u.tier.scrubAt, tm := u.tier.tm } } := hk.step (u := u) (p := .tierRows) h48 (e49.imp (fun e => by simp only [Part.same, e]; try rfl) fun e => ⟨e, trivial⟩)
  have h50 : P { t with tier := { t.tier with alloc := u.tier.alloc, bmaps := u.tier.bmaps, places := u.tier.places, frames := u.tier.frames, counts := u.tier.counts, demote := u.tier.demote, promos := u.tier.promos, wrote := u.tier.wrote, copied := u.tier.copied, winAt := u.tier.winAt, landing := u.tier.landing, lent := u.tier.lent, rowCe := u.tier.rowCe, repairs := u.tier.repairs, rebuild := u.tier.rebuild, planBad := u.tier.planBad, scrubAt := u.tier.scrubAt, tm := u.tier.tm, outQ := u.tier.outQ } } := hk.step (u := u) (p := .tierOutQ) h49 (e50.imp (fun e => e) fun e => ⟨e, trivial⟩)
  exact h50

theorem Inv.lit_pwr {P : State → Prop} {m : Nat} (hk : Stables P m) {t u : State} (h : P t)
    (e65 : (u.pwr.boot = t.pwr.boot ∧ u.pwr.good = t.pwr.good ∧ u.pwr.flushN = t.pwr.flushN ∧ u.pwr.term = t.pwr.term ∧ u.pwr.test = t.pwr.test) ∨ m.testBit 65 = true)
    (e66 : (u.pwr.pin = t.pwr.pin ∧ u.pwr.demand = t.pwr.demand ∧ u.pwr.calm = t.pwr.calm ∧ u.pwr.clamp = t.pwr.clamp ∧ u.pwr.cool = t.pwr.cool ∧ u.pwr.vcore = t.pwr.vcore ∧ u.pwr.capAt = t.pwr.capAt ∧ u.pwr.short = t.pwr.short) ∨ m.testBit 66 = true) : P { t with pwr := u.pwr } := by
  have h65 : P { t with pwr := { t.pwr with boot := u.pwr.boot, good := u.pwr.good, flushN := u.pwr.flushN, term := u.pwr.term, test := u.pwr.test } } := hk.step (u := u) (p := .boot) h (e65.imp (fun e => by simp only [Part.same, e]; try rfl) fun e => ⟨e, trivial⟩)
  have h66 : P { t with pwr := { t.pwr with boot := u.pwr.boot, good := u.pwr.good, flushN := u.pwr.flushN, term := u.pwr.term, test := u.pwr.test, pin := u.pwr.pin, demand := u.pwr.demand, calm := u.pwr.calm, clamp := u.pwr.clamp, cool := u.pwr.cool, vcore := u.pwr.vcore, capAt := u.pwr.capAt, short := u.pwr.short } } := hk.step (u := u) (p := .power) h65 (e66.imp (fun e => by simp only [Part.same, e]; try rfl) fun e => ⟨e, trivial⟩)
  exact h66

/-- A state written out as a change of another keeps what every changed part keeps. -/
theorem Inv.lit0 {P : State → Prop} {m : Nat} (hk : Stables P m) {t u : State} (h : P t)
    (e0 : u.pending = t.pending ∨ m.testBit 0 = true := by first | with_reducible exact Or.inl rfl | exact Or.inr (by decide))
    (e1 : u.step.number = t.step.number ∨ (m.testBit 1 = true ∧ u.step.number = 0) := by first | with_reducible exact Or.inl rfl | exact Or.inr ⟨by decide, rfl⟩)
    (e2 : (u.step.held = t.step.held ∧ u.step.limit = t.step.limit) ∨ m.testBit 2 = true := by first | with_reducible exact Or.inl ⟨rfl, rfl⟩ | exact Or.inr (by decide))
    (e3 : u.step.sequencer = t.step.sequencer ∨ m.testBit 3 = true := by first | with_reducible exact Or.inl rfl | exact Or.inr (by decide))
    (e4 : (u.step.tier = t.step.tier ∧ u.step.admTier = t.step.admTier ∧ u.step.wantTier = t.step.wantTier ∧ u.step.tierAt = t.step.tierAt ∧ u.step.planTier = t.step.planTier ∧ u.step.stretch = t.step.stretch ∧ u.step.noAdmit = t.step.noAdmit ∧ u.step.demand = t.step.demand) ∨ m.testBit 4 = true := by first | with_reducible exact Or.inl ⟨rfl, rfl, rfl, rfl, rfl, rfl, rfl, rfl⟩ | exact Or.inr (by decide))
    (e5 : (u.step.spill = t.step.spill ∧ u.step.used = t.step.used ∧ u.step.movers = t.step.movers) ∨ m.testBit 5 = true := by first | with_reducible exact Or.inl ⟨rfl, rfl, rfl⟩ | exact Or.inr (by decide))
    (e6 : u.step.retries = t.step.retries ∨ m.testBit 6 = true := by first | with_reducible exact Or.inl rfl | exact Or.inr (by decide))
    (e7 : u.step.agenda = t.step.agenda ∨ m.testBit 7 = true := by first | with_reducible exact Or.inl rfl | exact Or.inr (by decide))
    (e8 : (u.step.running = t.step.running ∧ u.step.open_ = t.step.open_) ∨ m.testBit 8 = true := by first | with_reducible exact Or.inl ⟨rfl, rfl⟩ | exact Or.inr (by decide))
    (e9 : (u.step.plan = t.step.plan ∧ u.step.activated = t.step.activated ∧ u.step.staged = t.step.staged ∧ u.step.armed = t.step.armed ∧ u.step.draining = t.step.draining ∧ u.step.seedling = t.step.seedling) ∨ m.testBit 9 = true := by first | with_reducible exact Or.inl ⟨rfl, rfl, rfl, rfl, rfl, rfl⟩ | exact Or.inr (by decide))
    (e10 : (u.node.plots = t.node.plots ∧ u.node.tillers = t.node.tillers ∧ u.node.gates = t.node.gates ∧ u.node.bars = t.node.bars ∧ u.node.strings = t.node.strings ∧ u.node.gateStrings = t.node.gateStrings ∧ u.node.retired = t.node.retired ∧ u.node.restart = t.node.restart) ∨ m.testBit 10 = true := by first | with_reducible exact Or.inl ⟨rfl, rfl, rfl, rfl, rfl, rfl, rfl, rfl⟩ | exact Or.inr (by decide))
    (e11 : (u.node.handDie = t.node.handDie ∧ u.node.handAlive = t.node.handAlive ∧ u.node.altStarting = t.node.altStarting ∧ u.node.g0Lost = t.node.g0Lost) ∨ m.testBit 11 = true := by first | with_reducible exact Or.inl ⟨rfl, rfl, rfl, rfl⟩ | exact Or.inr (by decide))
    (e12 : (u.node.nearOut = t.node.nearOut ∧ u.node.farOut = t.node.farOut) ∨ m.testBit 12 = true := by first | with_reducible exact Or.inl ⟨rfl, rfl⟩ | exact Or.inr (by decide))
    (e13 : u.node.faults = t.node.faults ∨ m.testBit 13 = true := by first | with_reducible exact Or.inl rfl | exact Or.inr (by decide))
    (e14 : u.dict.committed = t.dict.committed ∨ m.testBit 14 = true := by first | with_reducible exact Or.inl rfl | exact Or.inr (by decide))
    (e15 : u.dict.active = t.dict.active ∨ m.testBit 15 = true := by first | with_reducible exact Or.inl rfl | exact Or.inr (by decide))
    (e16 : u.dict.live = t.dict.live ∨ m.testBit 16 = true := by first | with_reducible exact Or.inl rfl | exact Or.inr (by decide))
    (e17 : u.dict.pub = t.dict.pub ∨ m.testBit 17 = true := by first | with_reducible exact Or.inl rfl | exact Or.inr (by decide))
    (e18 : u.dict.claims = t.dict.claims ∨ m.testBit 18 = true := by first | with_reducible exact Or.inl rfl | exact Or.inr (by decide))
    (e19 : u.dict.store = t.dict.store ∨ m.testBit 19 = true := by first | with_reducible exact Or.inl rfl | exact Or.inr (by decide))
    (e20 : u.dict.sets = t.dict.sets ∨ m.testBit 20 = true := by first | with_reducible exact Or.inl rfl | exact Or.inr (by decide))
    (e21 : (u.dict.xfers = t.dict.xfers ∧ u.dict.lastTxn = t.dict.lastTxn ∧ u.dict.lastResp = t.dict.lastResp ∧ u.dict.resp = t.dict.resp ∧ u.dict.sent = t.dict.sent ∧ u.dict.lastSeq = t.dict.lastSeq ∧ u.dict.expired = t.dict.expired) ∨ m.testBit 21 = true := by first | with_reducible exact Or.inl ⟨rfl, rfl, rfl, rfl, rfl, rfl, rfl⟩ | exact Or.inr (by decide))
    (e22 : u.dict.commits = t.dict.commits ∨ m.testBit 22 = true := by first | with_reducible exact Or.inl rfl | exact Or.inr (by decide))
    (e23 : u.dict.results = t.dict.results ∨ m.testBit 23 = true := by first | with_reducible exact Or.inl rfl | exact Or.inr (by decide))
    (e24 : (u.ev.ring = t.ev.ring ∧ u.ev.records = t.ev.records ∧ u.ev.produced = t.ev.produced ∧ u.ev.consumed = t.ev.consumed ∧ u.ev.lost = t.ev.lost ∧ u.ev.lostRun = t.ev.lostRun ∧ u.ev.notices = t.ev.notices) ∨ m.testBit 24 = true := by first | with_reducible exact Or.inl ⟨rfl, rfl, rfl, rfl, rfl, rfl, rfl⟩ | exact Or.inr (by decide))
    (e25 : (u.ev.raised = t.ev.raised ∧ u.ev.boot = t.ev.boot) ∨ m.testBit 25 = true := by first | with_reducible exact Or.inl ⟨rfl, rfl⟩ | exact Or.inr (by decide))
    (e26 : u.ev.runs = t.ev.runs ∨ m.testBit 26 = true := by first | with_reducible exact Or.inl rfl | exact Or.inr (by decide))
    (em : u.mem = t.mem ∨ (∃ k, m.testBit (70 + k) = true ∧ MemFair k t.mem u.mem) := by with_reducible exact Or.inl rfl)
    (e31 : u.rings = t.rings ∨ m.testBit 31 = true := by first | with_reducible exact Or.inl rfl | exact Or.inr (by decide))
    (e32 : u.ledger.fars = t.ledger.fars ∨ m.testBit 32 = true := by first | with_reducible exact Or.inl rfl | exact Or.inr (by decide))
    (e33 : u.ledger.stubs = t.ledger.stubs ∨ m.testBit 33 = true := by first | with_reducible exact Or.inl rfl | exact Or.inr (by decide))
    (e34 : (u.ledger.works = t.ledger.works ∧ u.ledger.lens = t.ledger.lens) ∨ m.testBit 34 = true := by first | with_reducible exact Or.inl ⟨rfl, rfl⟩ | exact Or.inr (by decide))
    (e35 : u.ledger.copies = t.ledger.copies ∨ m.testBit 35 = true := by first | with_reducible exact Or.inl rfl | exact Or.inr (by decide))
    (e36 : (u.ledger.losses = t.ledger.losses ∧ u.ledger.replays = t.ledger.replays) ∨ m.testBit 36 = true := by first | with_reducible exact Or.inl ⟨rfl, rfl⟩ | exact Or.inr (by decide))
    (e37 : (u.ledger.rootQ = t.ledger.rootQ ∧ u.ledger.published = t.ledger.published) ∨ m.testBit 37 = true := by first | with_reducible exact Or.inl ⟨rfl, rfl⟩ | exact Or.inr (by decide))
    (e38 : (u.ledger.audits = t.ledger.audits ∧ u.ledger.swept = t.ledger.swept) ∨ m.testBit 38 = true := by first | with_reducible exact Or.inl ⟨rfl, rfl⟩ | exact Or.inr (by decide))
    (e39 : (u.ledger.subQ = t.ledger.subQ ∧ u.ledger.subSeen = t.ledger.subSeen) ∨ m.testBit 39 = true := by first | with_reducible exact Or.inl ⟨rfl, rfl⟩ | exact Or.inr (by decide))
    (e40 : u.shards = t.shards ∨ m.testBit 40 = true := by first | with_reducible exact Or.inl rfl | exact Or.inr (by decide))
    (e41 : u.log = t.log ∨ m.testBit 41 = true := by first | with_reducible exact Or.inl rfl | exact Or.inr (by decide))
    (e42 : (u.flash.dies = t.flash.dies ∧ u.flash.chans = t.flash.chans ∧ u.flash.units = t.flash.units) ∨ m.testBit 42 = true := by first | with_reducible exact Or.inl ⟨rfl, rfl, rfl⟩ | exact Or.inr (by decide))
    (e43 : (u.flash.map = t.flash.map ∧ u.flash.pend = t.flash.pend ∧ u.flash.journal = t.flash.journal ∧ u.flash.jpages = t.flash.jpages ∧ u.flash.ckptNext = t.flash.ckptNext ∧ u.flash.ckpt = t.flash.ckpt ∧ u.flash.writeSeq = t.flash.writeSeq ∧ u.flash.logSeq = t.flash.logSeq ∧ u.flash.sys = t.flash.sys) ∨ m.testBit 43 = true := by first | with_reducible exact Or.inl ⟨rfl, rfl, rfl, rfl, rfl, rfl, rfl, rfl, rfl⟩ | exact Or.inr (by decide))
    (e44 : (u.flash.extents = t.flash.extents ∧ u.flash.logPages = t.flash.logPages ∧ u.flash.due = t.flash.due ∧ u.flash.verified = t.flash.verified) ∨ m.testBit 44 = true := by first | with_reducible exact Or.inl ⟨rfl, rfl, rfl, rfl⟩ | exact Or.inr (by decide))
    (e45 : (u.flash.flushUs = t.flash.flushUs ∧ u.flash.flushRec = t.flash.flushRec ∧ u.flash.format = t.flash.format) ∨ m.testBit 45 = true := by first | with_reducible exact Or.inl ⟨rfl, rfl, rfl⟩ | exact Or.inr (by decide))
    (e46 : u.flash.warned = t.flash.warned ∨ m.testBit 46 = true := by first | with_reducible exact Or.inl rfl | exact Or.inr (by decide))
    (e47 : (u.tier.alloc = t.tier.alloc ∧ u.tier.bmaps = t.tier.bmaps ∧ u.tier.places = t.tier.places) ∨ m.testBit 47 = true := by first | with_reducible exact Or.inl ⟨rfl, rfl, rfl⟩ | exact Or.inr (by decide))
    (e48 : (u.tier.frames = t.tier.frames ∧ u.tier.counts = t.tier.counts ∧ u.tier.demote = t.tier.demote ∧ u.tier.promos = t.tier.promos ∧ u.tier.wrote = t.tier.wrote ∧ u.tier.copied = t.tier.copied ∧ u.tier.winAt = t.tier.winAt ∧ u.tier.landing = t.tier.landing ∧ u.tier.lent = t.tier.lent) ∨ m.testBit 48 = true := by first | with_reducible exact Or.inl ⟨rfl, rfl, rfl, rfl, rfl, rfl, rfl, rfl, rfl⟩ | exact Or.inr (by decide))
    (e49 : (u.tier.rowCe = t.tier.rowCe ∧ u.tier.repairs = t.tier.repairs ∧ u.tier.rebuild = t.tier.rebuild ∧ u.tier.planBad = t.tier.planBad ∧ u.tier.scrubAt = t.tier.scrubAt ∧ u.tier.tm = t.tier.tm) ∨ m.testBit 49 = true := by first | with_reducible exact Or.inl ⟨rfl, rfl, rfl, rfl, rfl, rfl⟩ | exact Or.inr (by decide))
    (e50 : u.tier.outQ = t.tier.outQ ∨ m.testBit 50 = true := by first | with_reducible exact Or.inl rfl | exact Or.inr (by decide))
    (e51 : u.codebooks = t.codebooks ∨ m.testBit 51 = true := by first | with_reducible exact Or.inl rfl | exact Or.inr (by decide))
    (e52 : u.models = t.models ∨ m.testBit 52 = true := by first | with_reducible exact Or.inl rfl | exact Or.inr (by decide))
    (e53 : (u.caches = t.caches ∧ u.nextCache = t.nextCache) ∨ m.testBit 53 = true := by first | with_reducible exact Or.inl ⟨rfl, rfl⟩ | exact Or.inr (by decide))
    (e54 : u.arrays = t.arrays ∨ m.testBit 54 = true := by first | with_reducible exact Or.inl rfl | exact Or.inr (by decide))
    (e55 : (u.embs = t.embs ∧ u.embWinAt = t.embWinAt) ∨ m.testBit 55 = true := by first | with_reducible exact Or.inl ⟨rfl, rfl⟩ | exact Or.inr (by decide))
    (e56 : u.tills = t.tills ∨ m.testBit 56 = true := by first | with_reducible exact Or.inl rfl | exact Or.inr (by decide))
    (e57 : u.queues = t.queues ∨ m.testBit 57 = true := by first | with_reducible exact Or.inl rfl | exact Or.inr (by decide))
    (e58 : (u.tx = t.tx ∧ u.sent = t.sent) ∨ m.testBit 58 = true := by first | with_reducible exact Or.inl ⟨rfl, rfl⟩ | exact Or.inr (by decide))
    (e59 : u.qps = t.qps ∨ m.testBit 59 = true := by first | with_reducible exact Or.inl rfl | exact Or.inr (by decide))
    (e60 : u.hedge = t.hedge ∨ m.testBit 60 = true := by first | with_reducible exact Or.inl rfl | exact Or.inr (by decide))
    (e61 : u.eth = t.eth ∨ m.testBit 61 = true := by first | with_reducible exact Or.inl rfl | exact Or.inr (by decide))
    (e62 : u.traf = t.traf ∨ m.testBit 62 = true := by first | with_reducible exact Or.inl rfl | exact Or.inr (by decide))
    (e63 : u.sec = t.sec ∨ m.testBit 63 = true := by first | with_reducible exact Or.inl rfl | exact Or.inr (by decide))
    (e64 : u.parts = t.parts ∨ m.testBit 64 = true := by first | with_reducible exact Or.inl rfl | exact Or.inr (by decide))
    (e65 : (u.pwr.boot = t.pwr.boot ∧ u.pwr.good = t.pwr.good ∧ u.pwr.flushN = t.pwr.flushN ∧ u.pwr.term = t.pwr.term ∧ u.pwr.test = t.pwr.test) ∨ m.testBit 65 = true := by first | with_reducible exact Or.inl ⟨rfl, rfl, rfl, rfl, rfl⟩ | exact Or.inr (by decide))
    (e66 : (u.pwr.pin = t.pwr.pin ∧ u.pwr.demand = t.pwr.demand ∧ u.pwr.calm = t.pwr.calm ∧ u.pwr.clamp = t.pwr.clamp ∧ u.pwr.cool = t.pwr.cool ∧ u.pwr.vcore = t.pwr.vcore ∧ u.pwr.capAt = t.pwr.capAt ∧ u.pwr.short = t.pwr.short) ∨ m.testBit 66 = true := by first | with_reducible exact Or.inl ⟨rfl, rfl, rfl, rfl, rfl, rfl, rfl, rfl⟩ | exact Or.inr (by decide))
    (e67 : u.resp = t.resp ∨ m.testBit 67 = true := by first | with_reducible exact Or.inl rfl | exact Or.inr (by decide))
    (e68 : u.freeCtr = t.freeCtr ∨ m.testBit 68 = true := by first | with_reducible exact Or.inl rfl | exact Or.inr (by decide)) : P u := by
  have g0 : P { t with pending := u.pending } := hk.step (u := u) (p := .pending) h (e0.imp (fun e => e) fun e => ⟨e, trivial⟩)
  have g1 : P { t with pending := u.pending, step := u.step } := Inv.lit_step (u := u) hk g0 e1 e2 e3 e4 e5 e6 e7 e8 e9
  have g2 : P { t with pending := u.pending, step := u.step, node := u.node } := Inv.lit_node (u := u) hk g1 e10 e11 e12 e13
  have g3 : P { t with pending := u.pending, step := u.step, node := u.node, dict := u.dict } := Inv.lit_dict (u := u) hk g2 e14 e15 e16 e17 e18 e19 e20 e21 e22 e23
  have g4 : P { t with pending := u.pending, step := u.step, node := u.node, dict := u.dict, ev := u.ev } := Inv.lit_ev (u := u) hk g3 e24 e25 e26
  have g5 : P { t with pending := u.pending, step := u.step, node := u.node, dict := u.dict, ev := u.ev, mem := u.mem } := hk.memStep g4 em
  have g6 : P { t with pending := u.pending, step := u.step, node := u.node, dict := u.dict, ev := u.ev, mem := u.mem, rings := u.rings } := hk.step (u := u) (p := .rings) g5 (e31.imp (fun e => e) fun e => ⟨e, trivial⟩)
  have g7 : P { t with pending := u.pending, step := u.step, node := u.node, dict := u.dict, ev := u.ev, mem := u.mem, rings := u.rings, ledger := u.ledger } := Inv.lit_ledger (u := u) hk g6 e32 e33 e34 e35 e36 e37 e38 e39
  have g8 : P { t with pending := u.pending, step := u.step, node := u.node, dict := u.dict, ev := u.ev, mem := u.mem, rings := u.rings, ledger := u.ledger, shards := u.shards } := hk.step (u := u) (p := .shards) g7 (e40.imp (fun e => e) fun e => ⟨e, trivial⟩)
  have g9 : P { t with pending := u.pending, step := u.step, node := u.node, dict := u.dict, ev := u.ev, mem := u.mem, rings := u.rings, ledger := u.ledger, shards := u.shards, log := u.log } := hk.step (u := u) (p := .log) g8 (e41.imp (fun e => e) fun e => ⟨e, trivial⟩)
  have g10 : P { t with pending := u.pending, step := u.step, node := u.node, dict := u.dict, ev := u.ev, mem := u.mem, rings := u.rings, ledger := u.ledger, shards := u.shards, log := u.log, flash := u.flash } := Inv.lit_flash (u := u) hk g9 e42 e43 e44 e45 e46
  have g11 : P { t with pending := u.pending, step := u.step, node := u.node, dict := u.dict, ev := u.ev, mem := u.mem, rings := u.rings, ledger := u.ledger, shards := u.shards, log := u.log, flash := u.flash, tier := u.tier } := Inv.lit_tier (u := u) hk g10 e47 e48 e49 e50
  have g12 : P { t with pending := u.pending, step := u.step, node := u.node, dict := u.dict, ev := u.ev, mem := u.mem, rings := u.rings, ledger := u.ledger, shards := u.shards, log := u.log, flash := u.flash, tier := u.tier, codebooks := u.codebooks } := hk.step (u := u) (p := .codebooks) g11 (e51.imp (fun e => e) fun e => ⟨e, trivial⟩)
  have g13 : P { t with pending := u.pending, step := u.step, node := u.node, dict := u.dict, ev := u.ev, mem := u.mem, rings := u.rings, ledger := u.ledger, shards := u.shards, log := u.log, flash := u.flash, tier := u.tier, codebooks := u.codebooks, models := u.models } := hk.step (u := u) (p := .models) g12 (e52.imp (fun e => e) fun e => ⟨e, trivial⟩)
  have g14 : P { t with pending := u.pending, step := u.step, node := u.node, dict := u.dict, ev := u.ev, mem := u.mem, rings := u.rings, ledger := u.ledger, shards := u.shards, log := u.log, flash := u.flash, tier := u.tier, codebooks := u.codebooks, models := u.models, caches := u.caches, nextCache := u.nextCache } := hk.step (u := u) (p := .caches) g13 (e53.imp (fun e => by simp only [Part.same, e]; try rfl) fun e => ⟨e, trivial⟩)
  have g15 : P { t with pending := u.pending, step := u.step, node := u.node, dict := u.dict, ev := u.ev, mem := u.mem, rings := u.rings, ledger := u.ledger, shards := u.shards, log := u.log, flash := u.flash, tier := u.tier, codebooks := u.codebooks, models := u.models, caches := u.caches, nextCache := u.nextCache, arrays := u.arrays } := hk.step (u := u) (p := .arrays) g14 (e54.imp (fun e => e) fun e => ⟨e, trivial⟩)
  have g16 : P { t with pending := u.pending, step := u.step, node := u.node, dict := u.dict, ev := u.ev, mem := u.mem, rings := u.rings, ledger := u.ledger, shards := u.shards, log := u.log, flash := u.flash, tier := u.tier, codebooks := u.codebooks, models := u.models, caches := u.caches, nextCache := u.nextCache, arrays := u.arrays, embs := u.embs, embWinAt := u.embWinAt } := hk.step (u := u) (p := .embs) g15 (e55.imp (fun e => by simp only [Part.same, e]; try rfl) fun e => ⟨e, trivial⟩)
  have g17 : P { t with pending := u.pending, step := u.step, node := u.node, dict := u.dict, ev := u.ev, mem := u.mem, rings := u.rings, ledger := u.ledger, shards := u.shards, log := u.log, flash := u.flash, tier := u.tier, codebooks := u.codebooks, models := u.models, caches := u.caches, nextCache := u.nextCache, arrays := u.arrays, embs := u.embs, embWinAt := u.embWinAt, tills := u.tills } := hk.step (u := u) (p := .tills) g16 (e56.imp (fun e => e) fun e => ⟨e, trivial⟩)
  have g18 : P { t with pending := u.pending, step := u.step, node := u.node, dict := u.dict, ev := u.ev, mem := u.mem, rings := u.rings, ledger := u.ledger, shards := u.shards, log := u.log, flash := u.flash, tier := u.tier, codebooks := u.codebooks, models := u.models, caches := u.caches, nextCache := u.nextCache, arrays := u.arrays, embs := u.embs, embWinAt := u.embWinAt, tills := u.tills, queues := u.queues } := hk.step (u := u) (p := .queues) g17 (e57.imp (fun e => e) fun e => ⟨e, trivial⟩)
  have g19 : P { t with pending := u.pending, step := u.step, node := u.node, dict := u.dict, ev := u.ev, mem := u.mem, rings := u.rings, ledger := u.ledger, shards := u.shards, log := u.log, flash := u.flash, tier := u.tier, codebooks := u.codebooks, models := u.models, caches := u.caches, nextCache := u.nextCache, arrays := u.arrays, embs := u.embs, embWinAt := u.embWinAt, tills := u.tills, queues := u.queues, tx := u.tx, sent := u.sent } := hk.step (u := u) (p := .tx) g18 (e58.imp (fun e => by simp only [Part.same, e]; try rfl) fun e => ⟨e, trivial⟩)
  have g20 : P { t with pending := u.pending, step := u.step, node := u.node, dict := u.dict, ev := u.ev, mem := u.mem, rings := u.rings, ledger := u.ledger, shards := u.shards, log := u.log, flash := u.flash, tier := u.tier, codebooks := u.codebooks, models := u.models, caches := u.caches, nextCache := u.nextCache, arrays := u.arrays, embs := u.embs, embWinAt := u.embWinAt, tills := u.tills, queues := u.queues, tx := u.tx, sent := u.sent, qps := u.qps } := hk.step (u := u) (p := .qps) g19 (e59.imp (fun e => e) fun e => ⟨e, trivial⟩)
  have g21 : P { t with pending := u.pending, step := u.step, node := u.node, dict := u.dict, ev := u.ev, mem := u.mem, rings := u.rings, ledger := u.ledger, shards := u.shards, log := u.log, flash := u.flash, tier := u.tier, codebooks := u.codebooks, models := u.models, caches := u.caches, nextCache := u.nextCache, arrays := u.arrays, embs := u.embs, embWinAt := u.embWinAt, tills := u.tills, queues := u.queues, tx := u.tx, sent := u.sent, qps := u.qps, hedge := u.hedge } := hk.step (u := u) (p := .hedge) g20 (e60.imp (fun e => e) fun e => ⟨e, trivial⟩)
  have g22 : P { t with pending := u.pending, step := u.step, node := u.node, dict := u.dict, ev := u.ev, mem := u.mem, rings := u.rings, ledger := u.ledger, shards := u.shards, log := u.log, flash := u.flash, tier := u.tier, codebooks := u.codebooks, models := u.models, caches := u.caches, nextCache := u.nextCache, arrays := u.arrays, embs := u.embs, embWinAt := u.embWinAt, tills := u.tills, queues := u.queues, tx := u.tx, sent := u.sent, qps := u.qps, hedge := u.hedge, eth := u.eth } := hk.step (u := u) (p := .eth) g21 (e61.imp (fun e => e) fun e => ⟨e, trivial⟩)
  have g23 : P { t with pending := u.pending, step := u.step, node := u.node, dict := u.dict, ev := u.ev, mem := u.mem, rings := u.rings, ledger := u.ledger, shards := u.shards, log := u.log, flash := u.flash, tier := u.tier, codebooks := u.codebooks, models := u.models, caches := u.caches, nextCache := u.nextCache, arrays := u.arrays, embs := u.embs, embWinAt := u.embWinAt, tills := u.tills, queues := u.queues, tx := u.tx, sent := u.sent, qps := u.qps, hedge := u.hedge, eth := u.eth, traf := u.traf } := hk.step (u := u) (p := .traf) g22 (e62.imp (fun e => e) fun e => ⟨e, trivial⟩)
  have g24 : P { t with pending := u.pending, step := u.step, node := u.node, dict := u.dict, ev := u.ev, mem := u.mem, rings := u.rings, ledger := u.ledger, shards := u.shards, log := u.log, flash := u.flash, tier := u.tier, codebooks := u.codebooks, models := u.models, caches := u.caches, nextCache := u.nextCache, arrays := u.arrays, embs := u.embs, embWinAt := u.embWinAt, tills := u.tills, queues := u.queues, tx := u.tx, sent := u.sent, qps := u.qps, hedge := u.hedge, eth := u.eth, traf := u.traf, sec := u.sec } := hk.step (u := u) (p := .sec) g23 (e63.imp (fun e => e) fun e => ⟨e, trivial⟩)
  have g25 : P { t with pending := u.pending, step := u.step, node := u.node, dict := u.dict, ev := u.ev, mem := u.mem, rings := u.rings, ledger := u.ledger, shards := u.shards, log := u.log, flash := u.flash, tier := u.tier, codebooks := u.codebooks, models := u.models, caches := u.caches, nextCache := u.nextCache, arrays := u.arrays, embs := u.embs, embWinAt := u.embWinAt, tills := u.tills, queues := u.queues, tx := u.tx, sent := u.sent, qps := u.qps, hedge := u.hedge, eth := u.eth, traf := u.traf, sec := u.sec, parts := u.parts } := hk.step (u := u) (p := .parts) g24 (e64.imp (fun e => e) fun e => ⟨e, trivial⟩)
  have g26 : P { t with pending := u.pending, step := u.step, node := u.node, dict := u.dict, ev := u.ev, mem := u.mem, rings := u.rings, ledger := u.ledger, shards := u.shards, log := u.log, flash := u.flash, tier := u.tier, codebooks := u.codebooks, models := u.models, caches := u.caches, nextCache := u.nextCache, arrays := u.arrays, embs := u.embs, embWinAt := u.embWinAt, tills := u.tills, queues := u.queues, tx := u.tx, sent := u.sent, qps := u.qps, hedge := u.hedge, eth := u.eth, traf := u.traf, sec := u.sec, parts := u.parts, pwr := u.pwr } := Inv.lit_pwr (u := u) hk g25 e65 e66
  have g27 : P { t with pending := u.pending, step := u.step, node := u.node, dict := u.dict, ev := u.ev, mem := u.mem, rings := u.rings, ledger := u.ledger, shards := u.shards, log := u.log, flash := u.flash, tier := u.tier, codebooks := u.codebooks, models := u.models, caches := u.caches, nextCache := u.nextCache, arrays := u.arrays, embs := u.embs, embWinAt := u.embWinAt, tills := u.tills, queues := u.queues, tx := u.tx, sent := u.sent, qps := u.qps, hedge := u.hedge, eth := u.eth, traf := u.traf, sec := u.sec, parts := u.parts, pwr := u.pwr, resp := u.resp } := hk.step (u := u) (p := .resp) g26 (e67.imp (fun e => e) fun e => ⟨e, trivial⟩)
  have g28 : P { t with pending := u.pending, step := u.step, node := u.node, dict := u.dict, ev := u.ev, mem := u.mem, rings := u.rings, ledger := u.ledger, shards := u.shards, log := u.log, flash := u.flash, tier := u.tier, codebooks := u.codebooks, models := u.models, caches := u.caches, nextCache := u.nextCache, arrays := u.arrays, embs := u.embs, embWinAt := u.embWinAt, tills := u.tills, queues := u.queues, tx := u.tx, sent := u.sent, qps := u.qps, hedge := u.hedge, eth := u.eth, traf := u.traf, sec := u.sec, parts := u.parts, pwr := u.pwr, resp := u.resp, freeCtr := u.freeCtr } := hk.step (u := u) (v := { u with freeCtr := t.freeCtr }) (p := .freeCtr) g27 (e68.imp (fun e => e) fun e => ⟨e, trivial⟩)
  exact g28
/-- The same for a state written out field by field. -/
theorem Inv.lit {P : State → Prop} {m : Nat} (hk : Stables P m) {t : State} {x_step : StepSt} {x_node : NodeSt} {x_dict : DictSt} {x_ev : EvSt} {x_mem : List (Nat × Byte)} {x_rings : List (Nat × Ring)} {x_ledger : LedgerSt} {x_shards : List (Nat × Shard)} {x_log : LogSt} {x_flash : FlashSt} {x_tier : TierSt} {x_codebooks : List Codebook} {x_models : List (Nat × ModelSlot)} {x_caches : List (Nat × Cache)} {x_nextCache : Nat} {x_arrays : List (Nat × TArr)} {x_embs : List (Nat × EmbTab)} {x_embWinAt : Nat} {x_tills : List (Nat × TGroup)} {x_queues : List (Nat × QSt)} {x_tx : List TxItem} {x_sent : List TxItem} {x_qps : List (Nat × QPair)} {x_hedge : List (Nat × HPort)} {x_eth : List (Nat × EPort)} {x_traf : List (Nat × TPort)} {x_sec : SecSt} {x_parts : List (Nat × PartSt)} {x_pwr : PwrSt} {x_resp : RdmaResp} {x_freeCtr : Nat} (h : P t)
    (e1 : x_step.number = t.step.number ∨ (m.testBit 1 = true ∧ x_step.number = 0) := by first | with_reducible exact Or.inl rfl | exact Or.inr ⟨by decide, rfl⟩)
    (e2 : (x_step.held = t.step.held ∧ x_step.limit = t.step.limit) ∨ m.testBit 2 = true := by first | with_reducible exact Or.inl ⟨rfl, rfl⟩ | exact Or.inr (by decide))
    (e3 : x_step.sequencer = t.step.sequencer ∨ m.testBit 3 = true := by first | with_reducible exact Or.inl rfl | exact Or.inr (by decide))
    (e4 : (x_step.tier = t.step.tier ∧ x_step.admTier = t.step.admTier ∧ x_step.wantTier = t.step.wantTier ∧ x_step.tierAt = t.step.tierAt ∧ x_step.planTier = t.step.planTier ∧ x_step.stretch = t.step.stretch ∧ x_step.noAdmit = t.step.noAdmit ∧ x_step.demand = t.step.demand) ∨ m.testBit 4 = true := by first | with_reducible exact Or.inl ⟨rfl, rfl, rfl, rfl, rfl, rfl, rfl, rfl⟩ | exact Or.inr (by decide))
    (e5 : (x_step.spill = t.step.spill ∧ x_step.used = t.step.used ∧ x_step.movers = t.step.movers) ∨ m.testBit 5 = true := by first | with_reducible exact Or.inl ⟨rfl, rfl, rfl⟩ | exact Or.inr (by decide))
    (e6 : x_step.retries = t.step.retries ∨ m.testBit 6 = true := by first | with_reducible exact Or.inl rfl | exact Or.inr (by decide))
    (e7 : x_step.agenda = t.step.agenda ∨ m.testBit 7 = true := by first | with_reducible exact Or.inl rfl | exact Or.inr (by decide))
    (e8 : (x_step.running = t.step.running ∧ x_step.open_ = t.step.open_) ∨ m.testBit 8 = true := by first | with_reducible exact Or.inl ⟨rfl, rfl⟩ | exact Or.inr (by decide))
    (e9 : (x_step.plan = t.step.plan ∧ x_step.activated = t.step.activated ∧ x_step.staged = t.step.staged ∧ x_step.armed = t.step.armed ∧ x_step.draining = t.step.draining ∧ x_step.seedling = t.step.seedling) ∨ m.testBit 9 = true := by first | with_reducible exact Or.inl ⟨rfl, rfl, rfl, rfl, rfl, rfl⟩ | exact Or.inr (by decide))
    (e10 : (x_node.plots = t.node.plots ∧ x_node.tillers = t.node.tillers ∧ x_node.gates = t.node.gates ∧ x_node.bars = t.node.bars ∧ x_node.strings = t.node.strings ∧ x_node.gateStrings = t.node.gateStrings ∧ x_node.retired = t.node.retired ∧ x_node.restart = t.node.restart) ∨ m.testBit 10 = true := by first | with_reducible exact Or.inl ⟨rfl, rfl, rfl, rfl, rfl, rfl, rfl, rfl⟩ | exact Or.inr (by decide))
    (e11 : (x_node.handDie = t.node.handDie ∧ x_node.handAlive = t.node.handAlive ∧ x_node.altStarting = t.node.altStarting ∧ x_node.g0Lost = t.node.g0Lost) ∨ m.testBit 11 = true := by first | with_reducible exact Or.inl ⟨rfl, rfl, rfl, rfl⟩ | exact Or.inr (by decide))
    (e12 : (x_node.nearOut = t.node.nearOut ∧ x_node.farOut = t.node.farOut) ∨ m.testBit 12 = true := by first | with_reducible exact Or.inl ⟨rfl, rfl⟩ | exact Or.inr (by decide))
    (e13 : x_node.faults = t.node.faults ∨ m.testBit 13 = true := by first | with_reducible exact Or.inl rfl | exact Or.inr (by decide))
    (e14 : x_dict.committed = t.dict.committed ∨ m.testBit 14 = true := by first | with_reducible exact Or.inl rfl | exact Or.inr (by decide))
    (e15 : x_dict.active = t.dict.active ∨ m.testBit 15 = true := by first | with_reducible exact Or.inl rfl | exact Or.inr (by decide))
    (e16 : x_dict.live = t.dict.live ∨ m.testBit 16 = true := by first | with_reducible exact Or.inl rfl | exact Or.inr (by decide))
    (e17 : x_dict.pub = t.dict.pub ∨ m.testBit 17 = true := by first | with_reducible exact Or.inl rfl | exact Or.inr (by decide))
    (e18 : x_dict.claims = t.dict.claims ∨ m.testBit 18 = true := by first | with_reducible exact Or.inl rfl | exact Or.inr (by decide))
    (e19 : x_dict.store = t.dict.store ∨ m.testBit 19 = true := by first | with_reducible exact Or.inl rfl | exact Or.inr (by decide))
    (e20 : x_dict.sets = t.dict.sets ∨ m.testBit 20 = true := by first | with_reducible exact Or.inl rfl | exact Or.inr (by decide))
    (e21 : (x_dict.xfers = t.dict.xfers ∧ x_dict.lastTxn = t.dict.lastTxn ∧ x_dict.lastResp = t.dict.lastResp ∧ x_dict.resp = t.dict.resp ∧ x_dict.sent = t.dict.sent ∧ x_dict.lastSeq = t.dict.lastSeq ∧ x_dict.expired = t.dict.expired) ∨ m.testBit 21 = true := by first | with_reducible exact Or.inl ⟨rfl, rfl, rfl, rfl, rfl, rfl, rfl⟩ | exact Or.inr (by decide))
    (e22 : x_dict.commits = t.dict.commits ∨ m.testBit 22 = true := by first | with_reducible exact Or.inl rfl | exact Or.inr (by decide))
    (e23 : x_dict.results = t.dict.results ∨ m.testBit 23 = true := by first | with_reducible exact Or.inl rfl | exact Or.inr (by decide))
    (e24 : (x_ev.ring = t.ev.ring ∧ x_ev.records = t.ev.records ∧ x_ev.produced = t.ev.produced ∧ x_ev.consumed = t.ev.consumed ∧ x_ev.lost = t.ev.lost ∧ x_ev.lostRun = t.ev.lostRun ∧ x_ev.notices = t.ev.notices) ∨ m.testBit 24 = true := by first | with_reducible exact Or.inl ⟨rfl, rfl, rfl, rfl, rfl, rfl, rfl⟩ | exact Or.inr (by decide))
    (e25 : (x_ev.raised = t.ev.raised ∧ x_ev.boot = t.ev.boot) ∨ m.testBit 25 = true := by first | with_reducible exact Or.inl ⟨rfl, rfl⟩ | exact Or.inr (by decide))
    (e26 : x_ev.runs = t.ev.runs ∨ m.testBit 26 = true := by first | with_reducible exact Or.inl rfl | exact Or.inr (by decide))
    (em : x_mem = t.mem ∨ (∃ k, m.testBit (70 + k) = true ∧ MemFair k t.mem x_mem) := by with_reducible exact Or.inl rfl)
    (e31 : x_rings = t.rings ∨ m.testBit 31 = true := by first | with_reducible exact Or.inl rfl | exact Or.inr (by decide))
    (e32 : x_ledger.fars = t.ledger.fars ∨ m.testBit 32 = true := by first | with_reducible exact Or.inl rfl | exact Or.inr (by decide))
    (e33 : x_ledger.stubs = t.ledger.stubs ∨ m.testBit 33 = true := by first | with_reducible exact Or.inl rfl | exact Or.inr (by decide))
    (e34 : (x_ledger.works = t.ledger.works ∧ x_ledger.lens = t.ledger.lens) ∨ m.testBit 34 = true := by first | with_reducible exact Or.inl ⟨rfl, rfl⟩ | exact Or.inr (by decide))
    (e35 : x_ledger.copies = t.ledger.copies ∨ m.testBit 35 = true := by first | with_reducible exact Or.inl rfl | exact Or.inr (by decide))
    (e36 : (x_ledger.losses = t.ledger.losses ∧ x_ledger.replays = t.ledger.replays) ∨ m.testBit 36 = true := by first | with_reducible exact Or.inl ⟨rfl, rfl⟩ | exact Or.inr (by decide))
    (e37 : (x_ledger.rootQ = t.ledger.rootQ ∧ x_ledger.published = t.ledger.published) ∨ m.testBit 37 = true := by first | with_reducible exact Or.inl ⟨rfl, rfl⟩ | exact Or.inr (by decide))
    (e38 : (x_ledger.audits = t.ledger.audits ∧ x_ledger.swept = t.ledger.swept) ∨ m.testBit 38 = true := by first | with_reducible exact Or.inl ⟨rfl, rfl⟩ | exact Or.inr (by decide))
    (e39 : (x_ledger.subQ = t.ledger.subQ ∧ x_ledger.subSeen = t.ledger.subSeen) ∨ m.testBit 39 = true := by first | with_reducible exact Or.inl ⟨rfl, rfl⟩ | exact Or.inr (by decide))
    (e40 : x_shards = t.shards ∨ m.testBit 40 = true := by first | with_reducible exact Or.inl rfl | exact Or.inr (by decide))
    (e41 : x_log = t.log ∨ m.testBit 41 = true := by first | with_reducible exact Or.inl rfl | exact Or.inr (by decide))
    (e42 : (x_flash.dies = t.flash.dies ∧ x_flash.chans = t.flash.chans ∧ x_flash.units = t.flash.units) ∨ m.testBit 42 = true := by first | with_reducible exact Or.inl ⟨rfl, rfl, rfl⟩ | exact Or.inr (by decide))
    (e43 : (x_flash.map = t.flash.map ∧ x_flash.pend = t.flash.pend ∧ x_flash.journal = t.flash.journal ∧ x_flash.jpages = t.flash.jpages ∧ x_flash.ckptNext = t.flash.ckptNext ∧ x_flash.ckpt = t.flash.ckpt ∧ x_flash.writeSeq = t.flash.writeSeq ∧ x_flash.logSeq = t.flash.logSeq ∧ x_flash.sys = t.flash.sys) ∨ m.testBit 43 = true := by first | with_reducible exact Or.inl ⟨rfl, rfl, rfl, rfl, rfl, rfl, rfl, rfl, rfl⟩ | exact Or.inr (by decide))
    (e44 : (x_flash.extents = t.flash.extents ∧ x_flash.logPages = t.flash.logPages ∧ x_flash.due = t.flash.due ∧ x_flash.verified = t.flash.verified) ∨ m.testBit 44 = true := by first | with_reducible exact Or.inl ⟨rfl, rfl, rfl, rfl⟩ | exact Or.inr (by decide))
    (e45 : (x_flash.flushUs = t.flash.flushUs ∧ x_flash.flushRec = t.flash.flushRec ∧ x_flash.format = t.flash.format) ∨ m.testBit 45 = true := by first | with_reducible exact Or.inl ⟨rfl, rfl, rfl⟩ | exact Or.inr (by decide))
    (e46 : x_flash.warned = t.flash.warned ∨ m.testBit 46 = true := by first | with_reducible exact Or.inl rfl | exact Or.inr (by decide))
    (e47 : (x_tier.alloc = t.tier.alloc ∧ x_tier.bmaps = t.tier.bmaps ∧ x_tier.places = t.tier.places) ∨ m.testBit 47 = true := by first | with_reducible exact Or.inl ⟨rfl, rfl, rfl⟩ | exact Or.inr (by decide))
    (e48 : (x_tier.frames = t.tier.frames ∧ x_tier.counts = t.tier.counts ∧ x_tier.demote = t.tier.demote ∧ x_tier.promos = t.tier.promos ∧ x_tier.wrote = t.tier.wrote ∧ x_tier.copied = t.tier.copied ∧ x_tier.winAt = t.tier.winAt ∧ x_tier.landing = t.tier.landing ∧ x_tier.lent = t.tier.lent) ∨ m.testBit 48 = true := by first | with_reducible exact Or.inl ⟨rfl, rfl, rfl, rfl, rfl, rfl, rfl, rfl, rfl⟩ | exact Or.inr (by decide))
    (e49 : (x_tier.rowCe = t.tier.rowCe ∧ x_tier.repairs = t.tier.repairs ∧ x_tier.rebuild = t.tier.rebuild ∧ x_tier.planBad = t.tier.planBad ∧ x_tier.scrubAt = t.tier.scrubAt ∧ x_tier.tm = t.tier.tm) ∨ m.testBit 49 = true := by first | with_reducible exact Or.inl ⟨rfl, rfl, rfl, rfl, rfl, rfl⟩ | exact Or.inr (by decide))
    (e50 : x_tier.outQ = t.tier.outQ ∨ m.testBit 50 = true := by first | with_reducible exact Or.inl rfl | exact Or.inr (by decide))
    (e51 : x_codebooks = t.codebooks ∨ m.testBit 51 = true := by first | with_reducible exact Or.inl rfl | exact Or.inr (by decide))
    (e52 : x_models = t.models ∨ m.testBit 52 = true := by first | with_reducible exact Or.inl rfl | exact Or.inr (by decide))
    (e53 : (x_caches = t.caches ∧ x_nextCache = t.nextCache) ∨ m.testBit 53 = true := by first | with_reducible exact Or.inl ⟨rfl, rfl⟩ | exact Or.inr (by decide))
    (e54 : x_arrays = t.arrays ∨ m.testBit 54 = true := by first | with_reducible exact Or.inl rfl | exact Or.inr (by decide))
    (e55 : (x_embs = t.embs ∧ x_embWinAt = t.embWinAt) ∨ m.testBit 55 = true := by first | with_reducible exact Or.inl ⟨rfl, rfl⟩ | exact Or.inr (by decide))
    (e56 : x_tills = t.tills ∨ m.testBit 56 = true := by first | with_reducible exact Or.inl rfl | exact Or.inr (by decide))
    (e57 : x_queues = t.queues ∨ m.testBit 57 = true := by first | with_reducible exact Or.inl rfl | exact Or.inr (by decide))
    (e58 : (x_tx = t.tx ∧ x_sent = t.sent) ∨ m.testBit 58 = true := by first | with_reducible exact Or.inl ⟨rfl, rfl⟩ | exact Or.inr (by decide))
    (e59 : x_qps = t.qps ∨ m.testBit 59 = true := by first | with_reducible exact Or.inl rfl | exact Or.inr (by decide))
    (e60 : x_hedge = t.hedge ∨ m.testBit 60 = true := by first | with_reducible exact Or.inl rfl | exact Or.inr (by decide))
    (e61 : x_eth = t.eth ∨ m.testBit 61 = true := by first | with_reducible exact Or.inl rfl | exact Or.inr (by decide))
    (e62 : x_traf = t.traf ∨ m.testBit 62 = true := by first | with_reducible exact Or.inl rfl | exact Or.inr (by decide))
    (e63 : x_sec = t.sec ∨ m.testBit 63 = true := by first | with_reducible exact Or.inl rfl | exact Or.inr (by decide))
    (e64 : x_parts = t.parts ∨ m.testBit 64 = true := by first | with_reducible exact Or.inl rfl | exact Or.inr (by decide))
    (e65 : (x_pwr.boot = t.pwr.boot ∧ x_pwr.good = t.pwr.good ∧ x_pwr.flushN = t.pwr.flushN ∧ x_pwr.term = t.pwr.term ∧ x_pwr.test = t.pwr.test) ∨ m.testBit 65 = true := by first | with_reducible exact Or.inl ⟨rfl, rfl, rfl, rfl, rfl⟩ | exact Or.inr (by decide))
    (e66 : (x_pwr.pin = t.pwr.pin ∧ x_pwr.demand = t.pwr.demand ∧ x_pwr.calm = t.pwr.calm ∧ x_pwr.clamp = t.pwr.clamp ∧ x_pwr.cool = t.pwr.cool ∧ x_pwr.vcore = t.pwr.vcore ∧ x_pwr.capAt = t.pwr.capAt ∧ x_pwr.short = t.pwr.short) ∨ m.testBit 66 = true := by first | with_reducible exact Or.inl ⟨rfl, rfl, rfl, rfl, rfl, rfl, rfl, rfl⟩ | exact Or.inr (by decide))
    (e67 : x_resp = t.resp ∨ m.testBit 67 = true := by first | with_reducible exact Or.inl rfl | exact Or.inr (by decide))
    (e68 : x_freeCtr = t.freeCtr ∨ m.testBit 68 = true := by first | with_reducible exact Or.inl rfl | exact Or.inr (by decide)) :
    P (State.mk t.pending x_step x_node x_dict x_ev x_mem x_rings x_ledger x_shards x_log x_flash x_tier x_codebooks x_models x_caches x_nextCache x_arrays x_embs x_embWinAt x_tills x_queues x_tx x_sent x_qps x_hedge x_eth x_traf x_sec x_parts x_pwr x_resp x_freeCtr) :=
  Inv.lit0 hk (u := State.mk t.pending x_step x_node x_dict x_ev x_mem x_rings x_ledger x_shards x_log x_flash x_tier x_codebooks x_models x_caches x_nextCache x_arrays x_embs x_embWinAt x_tills x_queues x_tx x_sent x_qps x_hedge x_eth x_traf x_sec x_parts x_pwr x_resp x_freeCtr) h (Or.inl rfl) e1 e2 e3 e4 e5 e6 e7 e8 e9 e10 e11 e12 e13 e14 e15 e16 e17 e18 e19 e20 e21 e22 e23 e24 e25 e26 em e31 e32 e33 e34 e35 e36 e37 e38 e39 e40 e41 e42 e43 e44 e45 e46 e47 e48 e49 e50 e51 e52 e53 e54 e55 e56 e57 e58 e59 e60 e61 e62 e63 e64 e65 e66 e67 e68

theorem Inv.foldl {α : Type} {P : State → Prop} {f : State → α → State} {l : List α} {t : State}
    (hf : ∀ v x, P v → P (f v x)) (h : P t) : P (l.foldl f t) := by
  induction l generalizing t with
  | nil => exact h
  | cons x l ih => exact ih (hf t x h)

theorem Inv.foldFst {α β : Type} {P : State → Prop} {f : State × β → α → State × β} {l : List α} {t : State × β}
    (hf : ∀ v x, P v.1 → P (f v x).1) (h : P t.1) : P (l.foldl f t).1 :=
  List.foldlRecOn l f (motive := fun v => P v.1) h fun v hv x _ => hf v x hv

theorem Inv.foldSnd {α β : Type} {P : State → Prop} {f : β × State → α → β × State} {l : List α} {t : β × State}
    (hf : ∀ v x, P v.2 → P (f v x).2) (h : P t.2) : P (l.foldl f t).2 :=
  List.foldlRecOn l f (motive := fun v => P v.2) h fun v hv x _ => hf v x hv

theorem Inv.ite {P : State → Prop} {c : Prop} [Decidable c] {a b : State} (ha : P a) (hb : P b) : P (if c then a else b) := by
  split
  · exact ha
  · exact hb

theorem Inv.getD {P : State → Prop} {o : Option State} {d : State} (ho : ∀ u, o = some u → P u) (hd : P d) : P (o.getD d) := by
  cases o with
  | none => exact hd
  | some u => exact ho u rfl

theorem Inv.mapD {α : Type} {P : State → Prop} {o : Option α} {f : α → State} {d : State} (ho : ∀ x, o = some x → P (f x)) (hd : P d) :
    P ((o.map f).getD d) := by
  cases o with
  | none => exact hd
  | some x => exact ho x rfl

theorem Inv.elim {α : Type} {P : State → Prop} {o : Option α} {f : α → State} {d : State} (hd : P d) (ho : ∀ x, o = some x → P (f x)) :
    P (o.elim d f) := by
  cases o with
  | none => exact hd
  | some x => exact ho x rfl

/-- A choice between a state that stands and an operation that may answer none. -/
theorem Inv.iteSome {P : State → Prop} {c : Prop} [Decidable c] {v u : State} {o : Option State} (hu : (if c then some v else o) = some u)
    (hv : P v) (ho : o = some u → P u) : P u := by
  split at hu
  · cases hu; exact hv
  · exact ho hu

/-- Every next state that an outcome answers has the property. -/
structure Ends (P : State → Prop) (o : Host.Outcome State Fault Refusal) : Prop where
  holds : ∀ u, o = .next u → P u

theorem Ends.next {P : State → Prop} {u : State} (h : P u) : Ends P (.next u) := ⟨fun _ e => by cases e; exact h⟩

theorem Ends.ite {P : State → Prop} {c : Prop} [Decidable c] {a b : Host.Outcome State Fault Refusal} (ha : Ends P a) (hb : Ends P b) :
    Ends P (if c then a else b) := by
  split
  · exact ha
  · exact hb


end Sys2Proof.Machine
end

