-- ==== Sys2Proof/Laws/Frames.lean ====
section
/-! SUPPORT. A fair change of one part leaves every other part as it is, so that every `Keeps` lemma gives a frame. -/

namespace Sys2Proof.Machine
set_option Elab.async false

/-- The parts that a loss of power leaves as they are. -/
def Part.durable : Part → Bool
  | .pending | .dictStore | .shards | .log | .flashReserve | .freeCtr => true
  | _ => false

/-- Whether a part is a range of memory, and the bit of the memory writes that touch it. -/
def Part.isMem : Part → Bool
  | .memField | .memRings | .memCells | .memRows => true
  | _ => false
def Part.memBit : Part → Nat
  | .memRings => 70
  | .memCells => 71
  | .memRows => 72
  | _ => 73

theorem Part.other_pending {f : Part} (h : f ≠ .pending) (s u v : State) (k : f.same s v) : f.same s (Part.put u v .pending) := by
  cases f <;> first | exact k | exact absurd rfl h
theorem Part.other_stepNumber {f : Part} (h : f ≠ .stepNumber) (s u v : State) (k : f.same s v) : f.same s (Part.put u v .stepNumber) := by
  cases f <;> first | exact k | exact absurd rfl h
theorem Part.other_stepHeld {f : Part} (h : f ≠ .stepHeld) (s u v : State) (k : f.same s v) : f.same s (Part.put u v .stepHeld) := by
  cases f <;> first | exact k | exact absurd rfl h
theorem Part.other_stepSequencer {f : Part} (h : f ≠ .stepSequencer) (s u v : State) (k : f.same s v) : f.same s (Part.put u v .stepSequencer) := by
  cases f <;> first | exact k | exact absurd rfl h
theorem Part.other_stepClock {f : Part} (h : f ≠ .stepClock) (s u v : State) (k : f.same s v) : f.same s (Part.put u v .stepClock) := by
  cases f <;> first | exact k | exact absurd rfl h
theorem Part.other_stepSpill {f : Part} (h : f ≠ .stepSpill) (s u v : State) (k : f.same s v) : f.same s (Part.put u v .stepSpill) := by
  cases f <;> first | exact k | exact absurd rfl h
theorem Part.other_stepRetries {f : Part} (h : f ≠ .stepRetries) (s u v : State) (k : f.same s v) : f.same s (Part.put u v .stepRetries) := by
  cases f <;> first | exact k | exact absurd rfl h
theorem Part.other_stepAgenda {f : Part} (h : f ≠ .stepAgenda) (s u v : State) (k : f.same s v) : f.same s (Part.put u v .stepAgenda) := by
  cases f <;> first | exact k | exact absurd rfl h
theorem Part.other_stepOpen {f : Part} (h : f ≠ .stepOpen) (s u v : State) (k : f.same s v) : f.same s (Part.put u v .stepOpen) := by
  cases f <;> first | exact k | exact absurd rfl h
theorem Part.other_stepPlan {f : Part} (h : f ≠ .stepPlan) (s u v : State) (k : f.same s v) : f.same s (Part.put u v .stepPlan) := by
  cases f <;> first | exact k | exact absurd rfl h
theorem Part.other_nodeUnits {f : Part} (h : f ≠ .nodeUnits) (s u v : State) (k : f.same s v) : f.same s (Part.put u v .nodeUnits) := by
  cases f <;> first | exact k | exact absurd rfl h
theorem Part.other_nodeHand {f : Part} (h : f ≠ .nodeHand) (s u v : State) (k : f.same s v) : f.same s (Part.put u v .nodeHand) := by
  cases f <;> first | exact k | exact absurd rfl h
theorem Part.other_nodePools {f : Part} (h : f ≠ .nodePools) (s u v : State) (k : f.same s v) : f.same s (Part.put u v .nodePools) := by
  cases f <;> first | exact k | exact absurd rfl h
theorem Part.other_nodeFaults {f : Part} (h : f ≠ .nodeFaults) (s u v : State) (k : f.same s v) : f.same s (Part.put u v .nodeFaults) := by
  cases f <;> first | exact k | exact absurd rfl h
theorem Part.other_dictCommitted {f : Part} (h : f ≠ .dictCommitted) (s u v : State) (k : f.same s v) : f.same s (Part.put u v .dictCommitted) := by
  cases f <;> first | exact k | exact absurd rfl h
theorem Part.other_dictActive {f : Part} (h : f ≠ .dictActive) (s u v : State) (k : f.same s v) : f.same s (Part.put u v .dictActive) := by
  cases f <;> first | exact k | exact absurd rfl h
theorem Part.other_dictLive {f : Part} (h : f ≠ .dictLive) (s u v : State) (k : f.same s v) : f.same s (Part.put u v .dictLive) := by
  cases f <;> first | exact k | exact absurd rfl h
theorem Part.other_dictPub {f : Part} (h : f ≠ .dictPub) (s u v : State) (k : f.same s v) : f.same s (Part.put u v .dictPub) := by
  cases f <;> first | exact k | exact absurd rfl h
theorem Part.other_dictClaims {f : Part} (h : f ≠ .dictClaims) (s u v : State) (k : f.same s v) : f.same s (Part.put u v .dictClaims) := by
  cases f <;> first | exact k | exact absurd rfl h
theorem Part.other_dictStore {f : Part} (h : f ≠ .dictStore) (s u v : State) (k : f.same s v) : f.same s (Part.put u v .dictStore) := by
  cases f <;> first | exact k | exact absurd rfl h
theorem Part.other_dictSets {f : Part} (h : f ≠ .dictSets) (s u v : State) (k : f.same s v) : f.same s (Part.put u v .dictSets) := by
  cases f <;> first | exact k | exact absurd rfl h
theorem Part.other_dictProtocol {f : Part} (h : f ≠ .dictProtocol) (s u v : State) (k : f.same s v) : f.same s (Part.put u v .dictProtocol) := by
  cases f <;> first | exact k | exact absurd rfl h
theorem Part.other_dictCommits {f : Part} (h : f ≠ .dictCommits) (s u v : State) (k : f.same s v) : f.same s (Part.put u v .dictCommits) := by
  cases f <;> first | exact k | exact absurd rfl h
theorem Part.other_dictResults {f : Part} (h : f ≠ .dictResults) (s u v : State) (k : f.same s v) : f.same s (Part.put u v .dictResults) := by
  cases f <;> first | exact k | exact absurd rfl h
theorem Part.other_evRing {f : Part} (h : f ≠ .evRing) (s u v : State) (k : f.same s v) : f.same s (Part.put u v .evRing) := by
  cases f <;> first | exact k | exact absurd rfl h
theorem Part.other_evRaised {f : Part} (h : f ≠ .evRaised) (s u v : State) (k : f.same s v) : f.same s (Part.put u v .evRaised) := by
  cases f <;> first | exact k | exact absurd rfl h
theorem Part.other_evRuns {f : Part} (h : f ≠ .evRuns) (s u v : State) (k : f.same s v) : f.same s (Part.put u v .evRuns) := by
  cases f <;> first | exact k | exact absurd rfl h
theorem Part.other_memField {f : Part} (h : f ≠ .memField) (s u v : State) (k : f.same s v) : f.same s (Part.put u v .memField) := by
  cases f <;> first | exact k | exact absurd rfl h
theorem Part.other_memRings {f : Part} (h : f ≠ .memRings) (s u v : State) (k : f.same s v) : f.same s (Part.put u v .memRings) := by
  cases f <;> first | exact k | exact absurd rfl h
theorem Part.other_memCells {f : Part} (h : f ≠ .memCells) (s u v : State) (k : f.same s v) : f.same s (Part.put u v .memCells) := by
  cases f <;> first | exact k | exact absurd rfl h
theorem Part.other_memRows {f : Part} (h : f ≠ .memRows) (s u v : State) (k : f.same s v) : f.same s (Part.put u v .memRows) := by
  cases f <;> first | exact k | exact absurd rfl h
theorem Part.other_rings {f : Part} (h : f ≠ .rings) (s u v : State) (k : f.same s v) : f.same s (Part.put u v .rings) := by
  cases f <;> first | exact k | exact absurd rfl h
theorem Part.other_fars {f : Part} (h : f ≠ .fars) (s u v : State) (k : f.same s v) : f.same s (Part.put u v .fars) := by
  cases f <;> first | exact k | exact absurd rfl h
theorem Part.other_stubs {f : Part} (h : f ≠ .stubs) (s u v : State) (k : f.same s v) : f.same s (Part.put u v .stubs) := by
  cases f <;> first | exact k | exact absurd rfl h
theorem Part.other_works {f : Part} (h : f ≠ .works) (s u v : State) (k : f.same s v) : f.same s (Part.put u v .works) := by
  cases f <;> first | exact k | exact absurd rfl h
theorem Part.other_copies {f : Part} (h : f ≠ .copies) (s u v : State) (k : f.same s v) : f.same s (Part.put u v .copies) := by
  cases f <;> first | exact k | exact absurd rfl h
theorem Part.other_waits {f : Part} (h : f ≠ .waits) (s u v : State) (k : f.same s v) : f.same s (Part.put u v .waits) := by
  cases f <;> first | exact k | exact absurd rfl h
theorem Part.other_roots {f : Part} (h : f ≠ .roots) (s u v : State) (k : f.same s v) : f.same s (Part.put u v .roots) := by
  cases f <;> first | exact k | exact absurd rfl h
theorem Part.other_audits {f : Part} (h : f ≠ .audits) (s u v : State) (k : f.same s v) : f.same s (Part.put u v .audits) := by
  cases f <;> first | exact k | exact absurd rfl h
theorem Part.other_subQ {f : Part} (h : f ≠ .subQ) (s u v : State) (k : f.same s v) : f.same s (Part.put u v .subQ) := by
  cases f <;> first | exact k | exact absurd rfl h
theorem Part.other_shards {f : Part} (h : f ≠ .shards) (s u v : State) (k : f.same s v) : f.same s (Part.put u v .shards) := by
  cases f <;> first | exact k | exact absurd rfl h
theorem Part.other_log {f : Part} (h : f ≠ .log) (s u v : State) (k : f.same s v) : f.same s (Part.put u v .log) := by
  cases f <;> first | exact k | exact absurd rfl h
theorem Part.other_flashDies {f : Part} (h : f ≠ .flashDies) (s u v : State) (k : f.same s v) : f.same s (Part.put u v .flashDies) := by
  cases f <;> first | exact k | exact absurd rfl h
theorem Part.other_flashMap {f : Part} (h : f ≠ .flashMap) (s u v : State) (k : f.same s v) : f.same s (Part.put u v .flashMap) := by
  cases f <;> first | exact k | exact absurd rfl h
theorem Part.other_flashExtents {f : Part} (h : f ≠ .flashExtents) (s u v : State) (k : f.same s v) : f.same s (Part.put u v .flashExtents) := by
  cases f <;> first | exact k | exact absurd rfl h
theorem Part.other_flashReserve {f : Part} (h : f ≠ .flashReserve) (s u v : State) (k : f.same s v) : f.same s (Part.put u v .flashReserve) := by
  cases f <;> first | exact k | exact absurd rfl h
theorem Part.other_flashHealth {f : Part} (h : f ≠ .flashHealth) (s u v : State) (k : f.same s v) : f.same s (Part.put u v .flashHealth) := by
  cases f <;> first | exact k | exact absurd rfl h
theorem Part.other_tierAlloc {f : Part} (h : f ≠ .tierAlloc) (s u v : State) (k : f.same s v) : f.same s (Part.put u v .tierAlloc) := by
  cases f <;> first | exact k | exact absurd rfl h
theorem Part.other_tierFrames {f : Part} (h : f ≠ .tierFrames) (s u v : State) (k : f.same s v) : f.same s (Part.put u v .tierFrames) := by
  cases f <;> first | exact k | exact absurd rfl h
theorem Part.other_tierRows {f : Part} (h : f ≠ .tierRows) (s u v : State) (k : f.same s v) : f.same s (Part.put u v .tierRows) := by
  cases f <;> first | exact k | exact absurd rfl h
theorem Part.other_tierOutQ {f : Part} (h : f ≠ .tierOutQ) (s u v : State) (k : f.same s v) : f.same s (Part.put u v .tierOutQ) := by
  cases f <;> first | exact k | exact absurd rfl h
theorem Part.other_codebooks {f : Part} (h : f ≠ .codebooks) (s u v : State) (k : f.same s v) : f.same s (Part.put u v .codebooks) := by
  cases f <;> first | exact k | exact absurd rfl h
theorem Part.other_models {f : Part} (h : f ≠ .models) (s u v : State) (k : f.same s v) : f.same s (Part.put u v .models) := by
  cases f <;> first | exact k | exact absurd rfl h
theorem Part.other_caches {f : Part} (h : f ≠ .caches) (s u v : State) (k : f.same s v) : f.same s (Part.put u v .caches) := by
  cases f <;> first | exact k | exact absurd rfl h
theorem Part.other_arrays {f : Part} (h : f ≠ .arrays) (s u v : State) (k : f.same s v) : f.same s (Part.put u v .arrays) := by
  cases f <;> first | exact k | exact absurd rfl h
theorem Part.other_embs {f : Part} (h : f ≠ .embs) (s u v : State) (k : f.same s v) : f.same s (Part.put u v .embs) := by
  cases f <;> first | exact k | exact absurd rfl h
theorem Part.other_tills {f : Part} (h : f ≠ .tills) (s u v : State) (k : f.same s v) : f.same s (Part.put u v .tills) := by
  cases f <;> first | exact k | exact absurd rfl h
theorem Part.other_queues {f : Part} (h : f ≠ .queues) (s u v : State) (k : f.same s v) : f.same s (Part.put u v .queues) := by
  cases f <;> first | exact k | exact absurd rfl h
theorem Part.other_tx {f : Part} (h : f ≠ .tx) (s u v : State) (k : f.same s v) : f.same s (Part.put u v .tx) := by
  cases f <;> first | exact k | exact absurd rfl h
theorem Part.other_qps {f : Part} (h : f ≠ .qps) (s u v : State) (k : f.same s v) : f.same s (Part.put u v .qps) := by
  cases f <;> first | exact k | exact absurd rfl h
theorem Part.other_hedge {f : Part} (h : f ≠ .hedge) (s u v : State) (k : f.same s v) : f.same s (Part.put u v .hedge) := by
  cases f <;> first | exact k | exact absurd rfl h
theorem Part.other_eth {f : Part} (h : f ≠ .eth) (s u v : State) (k : f.same s v) : f.same s (Part.put u v .eth) := by
  cases f <;> first | exact k | exact absurd rfl h
theorem Part.other_traf {f : Part} (h : f ≠ .traf) (s u v : State) (k : f.same s v) : f.same s (Part.put u v .traf) := by
  cases f <;> first | exact k | exact absurd rfl h
theorem Part.other_sec {f : Part} (h : f ≠ .sec) (s u v : State) (k : f.same s v) : f.same s (Part.put u v .sec) := by
  cases f <;> first | exact k | exact absurd rfl h
theorem Part.other_parts {f : Part} (h : f ≠ .parts) (s u v : State) (k : f.same s v) : f.same s (Part.put u v .parts) := by
  cases f <;> first | exact k | exact absurd rfl h
theorem Part.other_boot {f : Part} (h : f ≠ .boot) (s u v : State) (k : f.same s v) : f.same s (Part.put u v .boot) := by
  cases f <;> first | exact k | exact absurd rfl h
theorem Part.other_power {f : Part} (h : f ≠ .power) (s u v : State) (k : f.same s v) : f.same s (Part.put u v .power) := by
  cases f <;> first | exact k | exact absurd rfl h
theorem Part.other_resp {f : Part} (h : f ≠ .resp) (s u v : State) (k : f.same s v) : f.same s (Part.put u v .resp) := by
  cases f <;> first | exact k | exact absurd rfl h
theorem Part.other_freeCtr {f : Part} (h : f ≠ .freeCtr) (s u v : State) (k : f.same s v) : f.same s (Part.put u v .freeCtr) := by
  cases f <;> first | exact k | exact absurd rfl h

/-- A change of one part leaves another as it is. -/
theorem Part.put_other {f p : Part} (h : f ≠ p) (s u v : State) (k : f.same s v) : f.same s (p.put u v) := by
  cases p
  · exact Part.other_pending h s u v k
  · exact Part.other_stepNumber h s u v k
  · exact Part.other_stepHeld h s u v k
  · exact Part.other_stepSequencer h s u v k
  · exact Part.other_stepClock h s u v k
  · exact Part.other_stepSpill h s u v k
  · exact Part.other_stepRetries h s u v k
  · exact Part.other_stepAgenda h s u v k
  · exact Part.other_stepOpen h s u v k
  · exact Part.other_stepPlan h s u v k
  · exact Part.other_nodeUnits h s u v k
  · exact Part.other_nodeHand h s u v k
  · exact Part.other_nodePools h s u v k
  · exact Part.other_nodeFaults h s u v k
  · exact Part.other_dictCommitted h s u v k
  · exact Part.other_dictActive h s u v k
  · exact Part.other_dictLive h s u v k
  · exact Part.other_dictPub h s u v k
  · exact Part.other_dictClaims h s u v k
  · exact Part.other_dictStore h s u v k
  · exact Part.other_dictSets h s u v k
  · exact Part.other_dictProtocol h s u v k
  · exact Part.other_dictCommits h s u v k
  · exact Part.other_dictResults h s u v k
  · exact Part.other_evRing h s u v k
  · exact Part.other_evRaised h s u v k
  · exact Part.other_evRuns h s u v k
  · exact Part.other_memField h s u v k
  · exact Part.other_memRings h s u v k
  · exact Part.other_memCells h s u v k
  · exact Part.other_memRows h s u v k
  · exact Part.other_rings h s u v k
  · exact Part.other_fars h s u v k
  · exact Part.other_stubs h s u v k
  · exact Part.other_works h s u v k
  · exact Part.other_copies h s u v k
  · exact Part.other_waits h s u v k
  · exact Part.other_roots h s u v k
  · exact Part.other_audits h s u v k
  · exact Part.other_subQ h s u v k
  · exact Part.other_shards h s u v k
  · exact Part.other_log h s u v k
  · exact Part.other_flashDies h s u v k
  · exact Part.other_flashMap h s u v k
  · exact Part.other_flashExtents h s u v k
  · exact Part.other_flashReserve h s u v k
  · exact Part.other_flashHealth h s u v k
  · exact Part.other_tierAlloc h s u v k
  · exact Part.other_tierFrames h s u v k
  · exact Part.other_tierRows h s u v k
  · exact Part.other_tierOutQ h s u v k
  · exact Part.other_codebooks h s u v k
  · exact Part.other_models h s u v k
  · exact Part.other_caches h s u v k
  · exact Part.other_arrays h s u v k
  · exact Part.other_embs h s u v k
  · exact Part.other_tills h s u v k
  · exact Part.other_queues h s u v k
  · exact Part.other_tx h s u v k
  · exact Part.other_qps h s u v k
  · exact Part.other_hedge h s u v k
  · exact Part.other_eth h s u v k
  · exact Part.other_traf h s u v k
  · exact Part.other_sec h s u v k
  · exact Part.other_parts h s u v k
  · exact Part.other_boot h s u v k
  · exact Part.other_power h s u v k
  · exact Part.other_resp h s u v k
  · exact Part.other_freeCtr h s u v k

theorem Part.powerDown_same {f : Part} (h : f.durable = true) (u : State) : f.same u u.powerDown := by
  cases f <;> first | rfl | cases h

theorem Part.same_trans {f : Part} {s t u : State} (h : f.same s t) (k : f.same t u) : f.same s u := by
  cases f <;> first | exact Eq.trans k h | exact fun a h1 => (k a h1).trans (h a h1) | exact fun a h1 h2 => (k a h1 h2).trans (h a h1 h2)

theorem Part.same_refl (f : Part) (s : State) : f.same s s := by
  cases f <;> first | rfl | exact fun a _ => rfl | exact fun a _ _ => rfl

theorem Part.put_mem (p : Part) (u v : State) : (p.put u v).mem = v.mem := by
  cases p <;> rfl

theorem Part.mem_other {f : Part} (h : f.isMem = false) (v : State) (x : List (Nat × Byte)) : f.same v { v with mem := x } := by
  cases f <;> first | rfl | cases h

/-- The bytes that a memory part stands for. -/
theorem Part.same_mem {f : Part} (h : f.isMem = true) {s u v : State} {k : Nat} (hk : k < 3) (hb : f.memBit ≠ 70 + k)
    (hr : ∀ a, memOut k a → Memory.read v.mem a = Memory.read u.mem a) (hs : f.same s u) : f.same s v := by
  have hc : k = 0 ∨ k = 1 ∨ k = 2 := by omega
  rcases hc with rfl | rfl | rfl <;> cases f <;> first
    | exact absurd h (by decide)
    | exact absurd rfl hb
    | (simp only [Part.same] at hs ⊢
       intro a
       first
         | exact fun h1 => (hr a (by simp only [memOut]; omega)).trans (hs a h1)
         | exact fun h1 h2 => (hr a (by simp only [memOut]; omega)).trans (hs a h1 h2))

theorem Part.same_of_mem {f : Part} (h : f.isMem = true) {s u v : State} (e : v.mem = u.mem) (hs : f.same s u) : f.same s v := by
  cases f <;> first
    | exact absurd h (by decide)
    | (simp only [Part.same] at hs ⊢
       rw [e]
       exact hs)

/-- A part outside a set is kept by every operation whose set that is. -/
theorem Stables.same {f : Part} {m : Nat} (s : State) (hm : f.isMem = false) (h : m.testBit f.idx = false)
    (hd : f.durable = true ∨ m.testBit 69 = false) : Stables (fun v => f.same s v) m where
  part p hp u v _ hv := Part.put_other (fun e => by rw [e, hp] at h; cases h) s u v hv
  down h66 u hu := by
    rcases hd with hd | hd
    · exact Part.same_trans hu (Part.powerDown_same hd u)
    · rw [hd] at h66; cases h66
  mem _ _ v x _ hv := Part.same_trans hv (Part.mem_other hm v x)

/-- Bytes of memory outside a set are kept by every operation whose set that is, where memory is canonical. -/
theorem Stables.sameMem {f : Part} {m : Nat} (s : State) (hm : f.isMem = true) (h : m.testBit f.memBit = false)
    (h3 : m.testBit 73 = false) (hd : m.testBit 69 = false) (hlt : m < 2 ^ 74) :
    Stables (fun v => Memory.wf s.mem = true → Memory.wf v.mem = true ∧ f.same s v) m where
  part p _ u v _ hv w := by
    obtain ⟨h1, h2⟩ := hv w
    have e := Part.put_mem p u v
    exact ⟨by rw [e]; exact h1, Part.same_of_mem hm e h2⟩
  down h69 := by rw [hd] at h69; cases h69
  mem k hk v x hx hv w := by
    obtain ⟨h1, h2⟩ := hv w
    obtain ⟨g1, g2⟩ := hx h1
    refine ⟨g1, ?_⟩
    by_cases hk3 : k < 3
    · exact Part.same_mem hm hk3 (fun e => by rw [e, hk] at h; cases h) g2 h2
    · by_cases hk4 : k = 3
      · subst hk4; rw [h3] at hk; cases hk
      · have : m.testBit (70 + k) = false := Nat.testBit_lt_two_pow (Nat.lt_of_lt_of_le hlt (Nat.pow_le_pow_right (by decide) (by omega)))
        rw [this] at hk; cases hk

/-- Memory keeps its canonical form. -/
theorem Stables.wf (m : Nat) : Stables (fun v => Memory.wf v.mem = true) m where
  part p _ u v _ hv := by
    show Memory.wf (p.put u v).mem = true
    rw [Part.put_mem]; exact hv
  down _ u _ := rfl
  mem _ _ _ _ hx hv := (hx hv).1

/-- Every part. -/
def Part.all : List Part :=
  [.pending, .stepNumber, .stepHeld, .stepSequencer, .stepClock, .stepSpill, .stepRetries, .stepAgenda, .stepOpen, .stepPlan,
   .nodeUnits, .nodeHand, .nodePools, .nodeFaults, .dictCommitted, .dictActive, .dictLive, .dictPub, .dictClaims, .dictStore,
   .dictSets, .dictProtocol, .dictCommits, .dictResults, .evRing, .evRaised, .evRuns, .memField, .memRings, .memCells, .memRows,
   .rings, .fars, .stubs, .works, .copies, .waits, .roots, .audits, .subQ, .shards, .log, .flashDies, .flashMap, .flashExtents,
   .flashReserve, .flashHealth, .tierAlloc, .tierFrames, .tierRows, .tierOutQ, .codebooks, .models, .caches, .arrays, .embs, .tills,
   .queues, .tx, .qps, .hedge, .eth, .traf, .sec, .parts, .boot, .power, .resp, .freeCtr]

theorem Part.mem_all (f : Part) : f ∈ Part.all := by cases f <;> decide

/-- No operation of a set touches the part. -/
def Part.outside (m : Nat) (f : Part) : Bool :=
  if f.isMem then !m.testBit f.memBit && !m.testBit 73 && !m.testBit 69 && decide (m < 2 ^ 74)
  else !m.testBit f.idx && (f.durable || !m.testBit 69)

/-- A footprint that names every part a set touches. -/
def Part.covers (l : List Part) (m : Nat) : Bool := Part.all.all fun f => l.any (fun g => g.idx == f.idx) || f.outside m

theorem Part.idx_inj {f g : Part} (h : g.idx = f.idx) : g = f := by
  cases g <;> cases f <;> first | rfl | exact absurd h (by decide)

theorem Part.outside_of {l : List Part} {m : Nat} (c : Part.covers l m = true) {f : Part} (h : f ∉ l) : f.outside m = true := by
  have h1 := List.all_eq_true.mp c f (Part.mem_all f)
  rw [Bool.or_eq_true] at h1
  rcases h1 with h1 | h1
  · obtain ⟨g, hg, e⟩ := List.any_eq_true.mp h1
    exact absurd (Part.idx_inj (eq_of_beq e) ▸ hg) h
  · exact h1

/-- What a command leaves as it is: a part outside the set of its meaning's lemma. -/
theorem Inv.frame {m : Nat} {s t : State} {f : Part} {o : Host.Outcome State Fault Refusal}
    (hi : ∀ P : State → Prop, Stables P m → P s → Ends P o) (hf : f.outside m = true) (w : Memory.wf s.mem = true) (e : o = .next t) :
    f.same s t := by
  unfold Part.outside at hf
  split at hf
  · rename_i hm
    simp only [Bool.and_eq_true, Bool.not_eq_true', decide_eq_true_eq] at hf
    exact (((hi _ (Stables.sameMem s hm hf.1.1.1 hf.1.1.2 hf.1.2 hf.2) fun w => ⟨w, Part.same_refl f s⟩).holds t e) w).2
  · rename_i hm
    simp only [Bool.and_eq_true, Bool.not_eq_true', Bool.or_eq_true] at hf
    exact (hi _ (Stables.same s (by simpa using hm) hf.1 hf.2) (Part.same_refl f s)).holds t e

/-- A canonical memory stays canonical under a command. -/
theorem Inv.canon {m : Nat} {s t : State} {o : Host.Outcome State Fault Refusal}
    (hi : ∀ P : State → Prop, Stables P m → P s → Ends P o) (w : Memory.wf s.mem = true) (e : o = .next t) : Memory.wf t.mem = true :=
  (hi _ (Stables.wf m) w).holds t e

end Sys2Proof.Machine
end

