-- ==== Sys2Proof/Laws/KeepsOps.lean ====
section
/-! SUPPORT. What the operations of Machine/Ops.lean leave as it is: one lemma for each. -/

set_option linter.unusedTactic false
set_option linter.unreachableTactic false
set_option linter.unusedVariables false

namespace Sys2Proof.Machine
set_option Elab.async false

theorem Inv.setLive {P : State → Prop} (hk : Stables P 65536) {t : State} (h : P t) (idx sub : Nat) (v : Bytes) : P (State.setLive t idx sub v) := by
  unfold State.setLive
  repeat' first
    | intro _
    | with_reducible exact h
    | with_reducible assumption
    | with_reducible apply Inv.ite
    | with_reducible apply Inv.getD
    | fail_if_no_progress (first | with_reducible refine Inv.lit hk ?_ | fail)
    | split
    | dsimp only
    | exact h

theorem Inv.setAct {P : State → Prop} (hk : Stables P 32768) {t : State} (h : P t) (idx sub : Nat) (v : Bytes) : P (State.setAct t idx sub v) := by
  unfold State.setAct
  repeat' first
    | intro _
    | with_reducible exact h
    | with_reducible assumption
    | with_reducible apply Inv.ite
    | with_reducible apply Inv.getD
    | fail_if_no_progress (first | with_reducible refine Inv.lit hk ?_ | fail)
    | split
    | dsimp only
    | exact h

theorem Inv.setN {P : State → Prop} (hk : Stables P 65536) {t : State} (h : P t) (idx sub v : Nat) : P (State.setN t idx sub v) := by
  unfold State.setN
  have k0 : Stables P 65536 := hk.sub rfl
  repeat' first
    | intro _
    | with_reducible exact h
    | with_reducible assumption
    | with_reducible apply Inv.setLive k0
    | with_reducible apply Inv.ite
    | with_reducible apply Inv.getD
    | fail_if_no_progress (first | with_reducible refine Inv.lit hk ?_ | fail)
    | split
    | dsimp only
    | exact h

theorem Inv.bump {P : State → Prop} (hk : Stables P 65536) {t : State} (h : P t) (idx sub n : Nat) : P (State.bump t idx sub n) := by
  unfold State.bump
  have k0 : Stables P 65536 := hk.sub rfl
  repeat' first
    | intro _
    | with_reducible exact h
    | with_reducible assumption
    | with_reducible apply Inv.setN k0
    | with_reducible apply Inv.ite
    | with_reducible apply Inv.getD
    | fail_if_no_progress (first | with_reducible refine Inv.lit hk ?_ | fail)
    | split
    | dsimp only
    | exact h

theorem Inv.countUp {P : State → Prop} (hk : Stables P 65536) {t : State} (h : P t) (idx sub n : Nat) : P (State.countUp t idx sub n) := by
  unfold State.countUp
  have k0 : Stables P 65536 := hk.sub rfl
  repeat' first
    | intro _
    | with_reducible exact h
    | with_reducible assumption
    | with_reducible apply Inv.bump k0
    | with_reducible apply Inv.ite
    | with_reducible apply Inv.getD
    | fail_if_no_progress (first | with_reducible refine Inv.lit hk ?_ | fail)
    | split
    | dsimp only
    | exact h

theorem Inv.useGrant {P : State → Prop} (hk : Stables P 65536) {t : State} (h : P t) (g : Nat) : P (State.useGrant t g) := by
  unfold State.useGrant
  have k0 : Stables P 65536 := hk.sub rfl
  repeat' first
    | intro _
    | with_reducible exact h
    | with_reducible assumption
    | with_reducible apply Inv.bump k0
    | with_reducible apply Inv.ite
    | with_reducible apply Inv.getD
    | fail_if_no_progress (first | with_reducible refine Inv.lit hk ?_ | fail)
    | split
    | dsimp only
    | exact h

theorem Inv.evBy {P : State → Prop} (hk : Stables P 33628160) {t : State} (h : P t) (agent code loc : Nat) (usn : Option (Nat × Nat)) (detail : Nat) : P (State.evBy t agent code loc usn detail) := by
  unfold State.evBy
  have k0 : Stables P 65536 := hk.sub rfl
  repeat' first
    | intro _
    | with_reducible exact h
    | with_reducible assumption
    | with_reducible apply Inv.bump k0
    | with_reducible apply Inv.ite
    | with_reducible apply Inv.getD
    | fail_if_no_progress (first | with_reducible refine Inv.lit hk ?_ | fail)
    | split
    | dsimp only
    | exact h

theorem Inv.evU {P : State → Prop} (hk : Stables P 33628160) {t : State} (h : P t) (code loc : Nat) (usn : Option (Nat × Nat)) (detail : Nat) : P (State.evU t code loc usn detail) := by
  unfold State.evU
  have k0 : Stables P 33628160 := hk.sub rfl
  repeat' first
    | intro _
    | with_reducible exact h
    | with_reducible assumption
    | with_reducible apply Inv.evBy k0
    | with_reducible apply Inv.ite
    | with_reducible apply Inv.getD
    | fail_if_no_progress (first | with_reducible refine Inv.lit hk ?_ | fail)
    | split
    | dsimp only
    | exact h

theorem Inv.raise {P : State → Prop} (hk : Stables P 33628160) {t : State} (h : P t) (code loc detail : Nat) : P (State.raise t code loc detail) := by
  unfold State.raise
  have k0 : Stables P 33628160 := hk.sub rfl
  repeat' first
    | intro _
    | with_reducible exact h
    | with_reducible assumption
    | with_reducible apply Inv.evU k0
    | with_reducible apply Inv.ite
    | with_reducible apply Inv.getD
    | fail_if_no_progress (first | with_reducible refine Inv.lit hk ?_ | fail)
    | split
    | dsimp only
    | exact h

theorem Inv.raiseRun {P : State → Prop} (hk : Stables P 100737024) {t : State} (h : P t) (code unit loc : Nat) (usn : Option (Nat × Nat)) (detail : Nat) : P (State.raiseRun t code unit loc usn detail) := by
  unfold State.raiseRun
  have k0 : Stables P 33628160 := hk.sub rfl
  repeat' first
    | intro _
    | with_reducible exact h
    | with_reducible assumption
    | with_reducible apply Inv.evU k0
    | with_reducible apply Inv.ite
    | with_reducible apply Inv.getD
    | fail_if_no_progress (first | with_reducible refine Inv.lit hk ?_ | fail)
    | split
    | dsimp only
    | exact h

theorem Inv.free {P : State → Prop} (hk : Stables P 295147905179352825856) {t : State} (h : P t) : P t.free.2 := by
  unfold State.free
  exact Inv.lit hk h

theorem ringAddr_in (kind ring n x : Nat) (h : memOut 0 x) :
    x < ringAddr kind ring (64 * n) ∨ ringAddr kind ring (64 * n) + 64 ≤ x := by
  unfold ringAddr
  simp only [memOut] at h
  omega

theorem Inv.putSlots {P : State → Prop} (hk : Stables P 1180591620717411303424) {t : State} (h : P t) (kind ring log2 at_ : Nat) (b : Bytes) : P (State.putSlots t kind ring log2 at_ b) :=
  Inv.lit hk h (em := Or.inr ⟨0, by decide, MemFair.foldl _ fun m e => MemFair.writeN _ _ _ fun x hx => by
    have l : (padTo 64 e.1).length = 64 := by simp [padTo, zeros]; omega
    rw [l]; exact ringAddr_in _ _ _ x hx⟩)

theorem Inv.modRing {P : State → Prop} (hk : Stables P 2147483648) {t : State} (h : P t) (r : Nat) (f : Ring → Ring) : P (State.modRing t r f) := by
  unfold State.modRing
  repeat' first
    | intro _
    | with_reducible exact h
    | with_reducible assumption
    | with_reducible apply Inv.ite
    | with_reducible apply Inv.getD
    | fail_if_no_progress (first | with_reducible refine Inv.lit hk ?_ | fail)
    | split
    | dsimp only
    | exact h

theorem Inv.modShard {P : State → Prop} (hk : Stables P 1099511627776) {t : State} (h : P t) (i : Nat) (f : Shard → Shard) : P (State.modShard t i f) := by
  unfold State.modShard
  repeat' first
    | intro _
    | with_reducible exact h
    | with_reducible assumption
    | with_reducible apply Inv.ite
    | with_reducible apply Inv.getD
    | fail_if_no_progress (first | with_reducible refine Inv.lit hk ?_ | fail)
    | split
    | dsimp only
    | exact h

theorem Inv.modWork {P : State → Prop} (hk : Stables P 17179869184) {t : State} (h : P t) (t_ : Nat) (f : Work → Work) : P (State.modWork t t_ f) := by
  unfold State.modWork
  repeat' first
    | intro _
    | with_reducible exact h
    | with_reducible assumption
    | with_reducible apply Inv.ite
    | with_reducible apply Inv.getD
    | fail_if_no_progress (first | with_reducible refine Inv.lit hk ?_ | fail)
    | split
    | dsimp only
    | exact h

theorem Inv.modFar {P : State → Prop} (hk : Stables P 4294967296) {t : State} (h : P t) (c : Nat) (f : FarCtx → FarCtx) : P (State.modFar t c f) := by
  unfold State.modFar
  repeat' first
    | intro _
    | with_reducible exact h
    | with_reducible assumption
    | with_reducible apply Inv.ite
    | with_reducible apply Inv.getD
    | fail_if_no_progress (first | with_reducible refine Inv.lit hk ?_ | fail)
    | split
    | dsimp only
    | exact h

theorem Inv.modStub {P : State → Prop} (hk : Stables P 8589934592) {t : State} (h : P t) (k : Nat) (f : Stub → Stub) : P (State.modStub t k f) := by
  unfold State.modStub
  repeat' first
    | intro _
    | with_reducible exact h
    | with_reducible assumption
    | with_reducible apply Inv.ite
    | with_reducible apply Inv.getD
    | fail_if_no_progress (first | with_reducible refine Inv.lit hk ?_ | fail)
    | split
    | dsimp only
    | exact h

theorem Inv.emit {P : State → Prop} (hk : Stables P 288230376151711744) {t : State} (h : P t) (port cls : Nat) (m : OutMsg) : P (State.emit t port cls m) := by
  unfold State.emit
  repeat' first
    | intro _
    | with_reducible exact h
    | with_reducible assumption
    | with_reducible apply Inv.ite
    | with_reducible apply Inv.getD
    | fail_if_no_progress (first | with_reducible refine Inv.lit hk ?_ | fail)
    | split
    | dsimp only
    | exact h

theorem Inv.sendHedge {P : State → Prop} (hk : Stables P 288230376151711744) {t : State} (h : P t) (port typ tag shard : Nat) (body : Bytes) : P (State.sendHedge t port typ tag shard body) := by
  unfold State.sendHedge
  have k0 : Stables P 288230376151711744 := hk.sub rfl
  repeat' first
    | intro _
    | with_reducible exact h
    | with_reducible assumption
    | with_reducible apply Inv.emit k0
    | with_reducible apply Inv.ite
    | with_reducible apply Inv.getD
    | with_reducible apply Inv.foldl
    | fail_if_no_progress (first | with_reducible refine Inv.lit hk ?_ | fail)
    | split
    | dsimp only
    | exact h

theorem Inv.sendPeer {P : State → Prop} (hk : Stables P 288230376185339904) {t : State} (h : P t) (port peer typ tag shard : Nat) (body : Bytes) : P (State.sendPeer t port peer typ tag shard body) := by
  unfold State.sendPeer
  have k0 : Stables P 33628160 := hk.sub rfl
  have k1 : Stables P 288230376151711744 := hk.sub rfl
  repeat' first
    | intro _
    | with_reducible exact h
    | with_reducible assumption
    | with_reducible apply Inv.raise k0
    | with_reducible apply Inv.sendHedge k1
    | with_reducible apply Inv.ite
    | with_reducible apply Inv.getD
    | fail_if_no_progress (first | with_reducible refine Inv.lit hk ?_ | fail)
    | split
    | dsimp only
    | exact h

theorem Inv.modEp {P : State → Prop} (hk : Stables P 2305843009213693952) {t : State} (h : P t) (e : Nat) (f : EPort → EPort) : P (State.modEp t e f) := by
  unfold State.modEp
  repeat' first
    | intro _
    | with_reducible exact h
    | with_reducible assumption
    | with_reducible apply Inv.ite
    | with_reducible apply Inv.getD
    | fail_if_no_progress (first | with_reducible refine Inv.lit hk ?_ | fail)
    | split
    | dsimp only
    | exact h

theorem Inv.emitQp {P : State → Prop} (hk : Stables P 2594073385365405696) {t : State} (h : P t) (qp : Nat) (m : OutMsg) : P (State.emitQp t qp m) := by
  unfold State.emitQp
  have k0 : Stables P 2305843009213693952 := hk.sub rfl
  have k1 : Stables P 288230376151711744 := hk.sub rfl
  repeat' first
    | intro _
    | with_reducible exact h
    | with_reducible assumption
    | with_reducible apply Inv.modEp k0
    | with_reducible apply Inv.emit k1
    | with_reducible apply Inv.ite
    | with_reducible apply Inv.getD
    | fail_if_no_progress (first | with_reducible refine Inv.lit hk ?_ | fail)
    | split
    | dsimp only
    | exact h

end Sys2Proof.Machine
end

