-- ==== Sys2Proof/Laws/KeepsDies.lean ====
section
/-! SUPPORT. What the operations of Machine/Dies.lean leave as it is: one lemma for each. -/

set_option linter.unusedTactic false
set_option linter.unreachableTactic false
set_option linter.unusedVariables false

namespace Sys2Proof.Machine
set_option Elab.async false

theorem Inv.modDie {P : State → Prop} (hk : Stables P 4398046511104) {t : State} (h : P t) (k : Nat) (f : Die → Die) : P (State.modDie t k f) := by
  unfold State.modDie
  repeat' first
    | intro _
    | with_reducible exact h
    | with_reducible assumption
    | with_reducible apply Inv.ite
    | with_reducible apply Inv.getD
    | fail_if_no_progress (first | with_reducible refine Inv.lit hk ?_ | fail)
    | split
    | dsimp only
    | exact h

end Sys2Proof.Machine
end

