-- ==== Sys2Proof/Laws/KeepsLedger.lean ====
section
/-! SUPPORT. What the operations of Machine/Ledger.lean leave as it is: one lemma for each. -/

set_option linter.unusedTactic false
set_option linter.unreachableTactic false
set_option linter.unusedVariables false

namespace Sys2Proof.Machine
set_option Elab.async false

theorem Inv.writeCpl {P : State → Prop} (hk : Stables P 1183185694104924192768) {t : State} (h : P t) (ring reserved : Nat) (h_ : CplHead) (body : Bytes) : P (State.writeCpl t ring reserved h_ body) := by
  unfold State.writeCpl
  have k0 : Stables P 1180591620717411303424 := hk.sub rfl
  have k1 : Stables P 2147483648 := hk.sub rfl
  have k2 : Stables P 2594073385365405696 := hk.sub rfl
  repeat' first
    | intro _
    | with_reducible exact h
    | with_reducible assumption
    | with_reducible apply Inv.putSlots k0
    | with_reducible apply Inv.modRing k1
    | with_reducible apply Inv.emitQp k2
    | with_reducible apply Inv.ite
    | with_reducible apply Inv.getD
    | with_reducible apply Inv.foldl
    | fail_if_no_progress (first | with_reducible refine Inv.lit hk ?_ | fail)
    | split
    | dsimp only
    | exact h

theorem Inv.freeReq {P : State → Prop} (hk : Stables P 153122520474583040) {t : State} (h : P t) (tag : Nat) : P (State.freeReq t tag) := by
  unfold State.freeReq
  repeat' first
    | intro _
    | with_reducible exact h
    | with_reducible assumption
    | with_reducible apply Inv.ite
    | with_reducible apply Inv.getD
    | fail_if_no_progress (first | with_reducible refine Inv.lit hk ?_ | fail)
    | split
    | dsimp only
    | exact h

theorem Inv.returnRoot {P : State → Prop} (hk : Stables P 2147483648) {t : State} (h : P t) (tag : Nat) : P (State.returnRoot t tag) := by
  unfold State.returnRoot
  have k0 : Stables P 2147483648 := hk.sub rfl
  repeat' first
    | intro _
    | with_reducible exact h
    | with_reducible assumption
    | with_reducible apply Inv.modRing k0
    | with_reducible apply Inv.ite
    | with_reducible apply Inv.getD
    | fail_if_no_progress (first | with_reducible refine Inv.lit hk ?_ | fail)
    | split
    | dsimp only
    | exact h

theorem Inv.countStatus {P : State → Prop} (hk : Stables P 65536) {t : State} (h : P t) (kind code : Nat) : P (State.countStatus t kind code) := by
  unfold State.countStatus
  have k0 : Stables P 65536 := hk.sub rfl
  repeat' first
    | intro _
    | with_reducible exact h
    | with_reducible assumption
    | with_reducible apply Inv.bump k0
    | with_reducible apply Inv.ite
    | with_reducible apply Inv.getD
    | fail_if_no_progress (first | with_reducible refine Inv.lit hk ?_ | fail)
    | split
    | dsimp only
    | exact h

theorem Inv.sendEmptyLists {P : State → Prop} (hk : Stables P 288230376151711744) {t : State} (h : P t) (w : Work) (status : Nat) : P (State.sendEmptyLists t w status) := by
  unfold State.sendEmptyLists
  have k0 : Stables P 288230376151711744 := hk.sub rfl
  repeat' first
    | intro _
    | with_reducible exact h
    | with_reducible assumption
    | with_reducible apply Inv.sendHedge k0
    | with_reducible apply Inv.ite
    | with_reducible apply Inv.getD
    | with_reducible apply Inv.foldl
    | fail_if_no_progress (first | with_reducible refine Inv.lit hk ?_ | fail)
    | split
    | dsimp only
    | exact h

theorem Inv.keepAudit {P : State → Prop} (hk : Stables P 144115527378272256) {t : State} (h : P t) (tag c kept : Nat) (f : FarCtx) (w : Work) : P (State.keepAudit t tag c kept f w) := by
  unfold State.keepAudit
  have k0 : Stables P 4294967296 := hk.sub rfl
  have k1 : Stables P 8589934592 := hk.sub rfl
  repeat' first
    | intro _
    | with_reducible exact h
    | with_reducible assumption
    | with_reducible apply Inv.modFar k0
    | with_reducible apply Inv.modStub k1
    | with_reducible apply Inv.ite
    | with_reducible apply Inv.getD
    | with_reducible apply Inv.elim
    | fail_if_no_progress (first | with_reducible refine Inv.lit hk ?_ | fail)
    | split
    | dsimp only
    | exact h

theorem Inv.completeEmpty {P : State → Prop} (hk : Stables P 1183338816900276748288) {t : State} (h : P t) (tag : Nat) (f : FarCtx) (status : Nat) : P (State.completeEmpty t tag f status) := by
  unfold State.completeEmpty
  have k0 : Stables P 65536 := hk.sub rfl
  have k1 : Stables P 1183185694104924192768 := hk.sub rfl
  have k2 : Stables P 144115527378272256 := hk.sub rfl
  have k3 : Stables P 288230376151711744 := hk.sub rfl
  have k4 : Stables P 2147483648 := hk.sub rfl
  have k5 : Stables P 153122520474583040 := hk.sub rfl
  repeat' first
    | intro _
    | with_reducible exact h
    | with_reducible assumption
    | with_reducible apply Inv.countStatus k0
    | with_reducible apply Inv.writeCpl k1
    | with_reducible apply Inv.keepAudit k2
    | with_reducible apply Inv.sendEmptyLists k3
    | with_reducible apply Inv.returnRoot k4
    | with_reducible apply Inv.freeReq k5
    | with_reducible apply Inv.ite
    | with_reducible apply Inv.mapD
    | with_reducible apply Inv.getD
    | fail_if_no_progress (first | with_reducible refine Inv.lit hk ?_ | fail)
    | split
    | dsimp only
    | exact h

theorem Inv.lose {P : State → Prop} (hk : Stables P 1183338816900310310912) {t : State} (h : P t) (tag code : Nat) : P (State.lose t tag code) := by
  unfold State.lose
  have k0 : Stables P 1183338816900276748288 := hk.sub rfl
  have k1 : Stables P 153122520474583040 := hk.sub rfl
  have k2 : Stables P 33628160 := hk.sub rfl
  repeat' first
    | intro _
    | with_reducible exact h
    | with_reducible assumption
    | with_reducible apply Inv.completeEmpty k0
    | with_reducible apply Inv.freeReq k1
    | with_reducible apply Inv.raise k2
    | with_reducible apply Inv.ite
    | with_reducible apply Inv.getD
    | fail_if_no_progress (first | with_reducible refine Inv.lit hk ?_ | fail)
    | split
    | dsimp only
    | exact h

theorem Inv.loseAll {P : State → Prop} (hk : Stables P 1183338816900310310912) {t : State} (h : P t) (tags : List Nat) : P (State.loseAll t tags) := by
  unfold State.loseAll
  have k0 : Stables P 1183338816900310310912 := hk.sub rfl
  repeat' first
    | intro _
    | with_reducible exact h
    | with_reducible assumption
    | with_reducible apply Inv.lose k0
    | with_reducible apply Inv.ite
    | with_reducible apply Inv.getD
    | with_reducible apply Inv.foldl
    | fail_if_no_progress (first | with_reducible refine Inv.lit hk ?_ | fail)
    | split
    | dsimp only
    | exact h

theorem Inv.useSpill {P : State → Prop} (hk : Stables P 65568) {t : State} (h : P t) (p : Nat) : P (State.useSpill t p) := by
  unfold State.useSpill
  have k0 : Stables P 65536 := hk.sub rfl
  repeat' first
    | intro _
    | with_reducible exact h
    | with_reducible assumption
    | with_reducible apply Inv.bump k0
    | with_reducible apply Inv.ite
    | with_reducible apply Inv.getD
    | fail_if_no_progress (first | with_reducible refine Inv.lit hk ?_ | fail)
    | split
    | dsimp only
    | exact h

theorem Inv.divergeEmb {P : State → Prop} (hk : Stables P 36028797019029504) {t : State} (h : P t) (t_ : Nat) : P (State.divergeEmb t t_) := by
  unfold State.divergeEmb
  have k0 : Stables P 65536 := hk.sub rfl
  repeat' first
    | intro _
    | with_reducible exact h
    | with_reducible assumption
    | with_reducible apply Inv.setN k0
    | with_reducible apply Inv.ite
    | with_reducible apply Inv.getD
    | fail_if_no_progress (first | with_reducible refine Inv.lit hk ?_ | fail)
    | split
    | dsimp only
    | exact h

theorem Inv.askReload {P : State → Prop} (hk : Stables P 1099511627776) {t : State} (h : P t) (slot seg page : Nat) : P (State.askReload t slot seg page) := by
  unfold State.askReload
  have k0 : Stables P 1099511627776 := hk.sub rfl
  repeat' first
    | intro _
    | with_reducible exact h
    | with_reducible assumption
    | with_reducible apply Inv.modShard k0
    | with_reducible apply Inv.ite
    | with_reducible apply Inv.getD
    | fail_if_no_progress (first | with_reducible refine Inv.lit hk ?_ | fail)
    | split
    | dsimp only
    | exact h

theorem Inv.askRebuild {P : State → Prop} (hk : Stables P 562949953421312) {t : State} (h : P t) (slot : Nat) : P (State.askRebuild t slot) := by
  unfold State.askRebuild
  repeat' first
    | intro _
    | with_reducible exact h
    | with_reducible assumption
    | with_reducible apply Inv.ite
    | with_reducible apply Inv.getD
    | fail_if_no_progress (first | with_reducible refine Inv.lit hk ?_ | fail)
    | split
    | dsimp only
    | exact h

theorem Inv.homeFault {P : State → Prop} (hk : Stables P 36592846517641216) {t : State} (h : P t) (page loc : Nat) : P (State.homeFault t page loc) := by
  unfold State.homeFault
  have k0 : Stables P 65536 := hk.sub rfl
  have k1 : Stables P 33628160 := hk.sub rfl
  have k2 : Stables P 36028797019029504 := hk.sub rfl
  have k3 : Stables P 1099511627776 := hk.sub rfl
  have k4 : Stables P 562949953421312 := hk.sub rfl
  repeat' first
    | intro _
    | with_reducible exact h
    | with_reducible assumption
    | with_reducible apply Inv.bump k0
    | with_reducible apply Inv.raise k1
    | with_reducible apply Inv.divergeEmb k2
    | with_reducible apply Inv.askReload k3
    | with_reducible apply Inv.askRebuild k4
    | with_reducible apply Inv.ite
    | with_reducible apply Inv.getD
    | fail_if_no_progress (first | with_reducible refine Inv.lit hk ?_ | fail)
    | split
    | dsimp only
    | exact h

theorem Inv.dropFrame {P : State → Prop} (hk : Stables P 281475010338816) {t : State} (h : P t) (page loc : Nat) : P (State.dropFrame t page loc) := by
  unfold State.dropFrame
  have k0 : Stables P 65536 := hk.sub rfl
  have k1 : Stables P 33628160 := hk.sub rfl
  repeat' first
    | intro _
    | with_reducible exact h
    | with_reducible assumption
    | with_reducible apply Inv.bump k0
    | with_reducible apply Inv.raise k1
    | with_reducible apply Inv.ite
    | with_reducible apply Inv.getD
    | fail_if_no_progress (first | with_reducible refine Inv.lit hk ?_ | fail)
    | split
    | dsimp only
    | exact h

theorem Inv.frameFault {P : State → Prop} (hk : Stables P 1183339098375287021600) {t : State} (h : P t) (page plot loc : Nat) (tags : List Nat) : P (State.frameFault t page plot loc tags).1 := by
  unfold State.frameFault
  have k0 : Stables P 281475010338816 := hk.sub rfl
  have k1 : Stables P 33628160 := hk.sub rfl
  have k2 : Stables P 1183338816900310310912 := hk.sub rfl
  have k3 : Stables P 65568 := hk.sub rfl
  repeat' first
    | intro _
    | with_reducible exact h
    | with_reducible assumption
    | with_reducible apply Inv.dropFrame k0
    | with_reducible apply Inv.raise k1
    | with_reducible apply Inv.loseAll k2
    | with_reducible apply Inv.useSpill k3
    | with_reducible apply Inv.ite
    | with_reducible apply Inv.getD
    | fail_if_no_progress (first | with_reducible refine Inv.lit hk ?_ | fail)
    | split
    | dsimp only
    | exact h

theorem Inv.check {P : State → Prop} (hk : Stables P 1183375691221771034656) {t : State} (h : P t) (c : Chk) (plot code loc : Nat) (tags : List Nat) : P (State.check t c plot code loc tags).1 := by
  unfold State.check
  have k0 : Stables P 33628160 := hk.sub rfl
  have k1 : Stables P 1183338816900310310912 := hk.sub rfl
  have k2 : Stables P 65568 := hk.sub rfl
  have k3 : Stables P 36592846517641216 := hk.sub rfl
  have k4 : Stables P 1183339098375287021600 := hk.sub rfl
  repeat' first
    | intro _
    | with_reducible exact h
    | with_reducible assumption
    | with_reducible apply Inv.raise k0
    | with_reducible apply Inv.loseAll k1
    | with_reducible apply Inv.useSpill k2
    | with_reducible apply Inv.homeFault k3
    | with_reducible apply Inv.frameFault k4
    | with_reducible apply Inv.ite
    | with_reducible apply Inv.getD
    | fail_if_no_progress (first | with_reducible refine Inv.lit hk ?_ | fail)
    | split
    | dsimp only
    | exact h

theorem Inv.execTake {P : State → Prop} (hk : Stables P 1183338816900310310912) {t : State} (h : P t) (tag : Nat) (h_ : Handoff) : Ends P (Sys2Proof.Machine.execTake tag h_ t) := by
  unfold Sys2Proof.Machine.execTake
  have k0 : Stables P 4294967296 := hk.sub rfl
  have k1 : Stables P 33628160 := hk.sub rfl
  have k2 : Stables P 1183338816900310310912 := hk.sub rfl
  have k3 : Stables P 8589934592 := hk.sub rfl
  repeat' first
    | with_reducible apply Ends.next
    | with_reducible apply Ends.ite
    | intro _
    | with_reducible exact h
    | with_reducible assumption
    | with_reducible apply Inv.modFar k0
    | with_reducible apply Inv.raise k1
    | with_reducible apply Inv.lose k2
    | with_reducible apply Inv.modStub k3
    | with_reducible apply Inv.ite
    | with_reducible apply Inv.getD
    | fail_if_no_progress (first | with_reducible refine Inv.lit hk ?_ | fail)
    | split
    | dsimp only
    | exact h

theorem Inv.releaseLent {P : State → Prop} (hk : Stables P 288230376151711744) {t : State} (h : P t) (key : Nat) (members : List Nat) : P (State.releaseLent t key members) := by
  unfold State.releaseLent
  have k0 : Stables P 288230376151711744 := hk.sub rfl
  repeat' first
    | intro _
    | with_reducible exact h
    | with_reducible assumption
    | with_reducible apply Inv.sendHedge k0
    | with_reducible apply Inv.ite
    | with_reducible apply Inv.getD
    | with_reducible apply Inv.foldl
    | fail_if_no_progress (first | with_reducible refine Inv.lit hk ?_ | fail)
    | split
    | dsimp only
    | exact h

theorem Inv.dropCaches {P : State → Prop} (hk : Stables P 297237575406518272) {t : State} (h : P t) (gone : Nat × Cache → Bool) : P (State.dropCaches t gone) := by
  unfold State.dropCaches
  have k0 : Stables P 288230376151711744 := hk.sub rfl
  have k1 : Stables P 65536 := hk.sub rfl
  repeat' first
    | intro _
    | with_reducible exact h
    | with_reducible assumption
    | with_reducible apply Inv.releaseLent k0
    | with_reducible apply Inv.setN k1
    | with_reducible apply Inv.ite
    | with_reducible apply Inv.getD
    | with_reducible apply Inv.foldl
    | fail_if_no_progress (first | with_reducible refine Inv.lit hk ?_ | fail)
    | split
    | dsimp only
    | exact h

theorem Inv.execRelease {P : State → Prop} (hk : Stables P 1183338816900310310912) {t : State} (h : P t) (tag : Nat) (h_ : Handoff) : Ends P (Sys2Proof.Machine.execRelease tag h_ t) := by
  unfold Sys2Proof.Machine.execRelease
  have k0 : Stables P 8589934592 := hk.sub rfl
  have k1 : Stables P 4294967296 := hk.sub rfl
  have k2 : Stables P 33628160 := hk.sub rfl
  have k3 : Stables P 1183338816900310310912 := hk.sub rfl
  repeat' first
    | with_reducible apply Ends.next
    | with_reducible apply Ends.ite
    | intro _
    | with_reducible exact h
    | with_reducible assumption
    | with_reducible apply Inv.modStub k0
    | with_reducible apply Inv.modFar k1
    | with_reducible apply Inv.raise k2
    | with_reducible apply Inv.lose k3
    | with_reducible apply Inv.ite
    | with_reducible apply Inv.mapD
    | with_reducible apply Inv.getD
    | fail_if_no_progress (first | with_reducible refine Inv.lit hk ?_ | fail)
    | split
    | dsimp only
    | exact h

theorem Inv.auditFar {P : State → Prop} (hk : Stables P 1183338816900310310912) {t : State} (h : P t) (e : Nat × FarCtx) : P (State.auditFar t e) := by
  unfold State.auditFar
  have k0 : Stables P 33628160 := hk.sub rfl
  have k1 : Stables P 1183338816900310310912 := hk.sub rfl
  have k2 : Stables P 8589934592 := hk.sub rfl
  have k3 : Stables P 65536 := hk.sub rfl
  repeat' first
    | intro _
    | with_reducible exact h
    | with_reducible assumption
    | with_reducible apply Inv.raise k0
    | with_reducible apply Inv.lose k1
    | with_reducible apply Inv.modStub k2
    | with_reducible apply Inv.bump k3
    | with_reducible apply Inv.ite
    | with_reducible apply Inv.getD
    | fail_if_no_progress (first | with_reducible refine Inv.lit hk ?_ | fail)
    | split
    | dsimp only
    | exact h

theorem Inv.sweepFar {P : State → Prop} (hk : Stables P 1183338816900310310912) {t : State} (h : P t) (plot : Nat) : P (State.sweepFar t plot) := by
  unfold State.sweepFar
  have k0 : Stables P 1183338816900310310912 := hk.sub rfl
  have k1 : Stables P 33628160 := hk.sub rfl
  repeat' first
    | intro _
    | with_reducible exact h
    | with_reducible assumption
    | with_reducible apply Inv.auditFar k0
    | with_reducible apply Inv.raise k1
    | with_reducible apply Inv.ite
    | with_reducible apply Inv.getD
    | with_reducible apply Inv.foldl
    | fail_if_no_progress (first | with_reducible refine Inv.lit hk ?_ | fail)
    | split
    | dsimp only
    | exact h

theorem Inv.execAuditSweep {P : State → Prop} (hk : Stables P 1183338816900310310912) {t : State} (h : P t) (plot : Nat) : Ends P (Sys2Proof.Machine.execAuditSweep plot t) := by
  unfold Sys2Proof.Machine.execAuditSweep
  have k0 : Stables P 1183338816900310310912 := hk.sub rfl
  repeat' first
    | with_reducible apply Ends.next
    | with_reducible apply Ends.ite
    | intro _
    | with_reducible exact h
    | with_reducible assumption
    | with_reducible apply Inv.sweepFar k0
    | with_reducible apply Inv.ite
    | with_reducible apply Inv.getD
    | fail_if_no_progress (first | with_reducible refine Inv.lit hk ?_ | fail)
    | split
    | dsimp only
    | exact h

theorem Inv.sweepDue {P : State → Prop} (hk : Stables P 1183338816900310310912) {t : State} (h : P t) : P (State.sweepDue t) := by
  unfold State.sweepDue
  have k0 : Stables P 1183338816900310310912 := hk.sub rfl
  repeat' first
    | intro _
    | with_reducible exact h
    | with_reducible assumption
    | with_reducible apply Inv.sweepFar k0
    | with_reducible apply Inv.ite
    | with_reducible apply Inv.getD
    | with_reducible apply Inv.foldl
    | fail_if_no_progress (first | with_reducible refine Inv.lit hk ?_ | fail)
    | split
    | dsimp only
    | exact h

theorem Inv.loseLater {P : State → Prop} (hk : Stables P 68719476736) {t : State} (h : P t) (tag : Nat) (far : Bool) : P (State.loseLater t tag far) := by
  unfold State.loseLater
  repeat' first
    | intro _
    | with_reducible exact h
    | with_reducible assumption
    | with_reducible apply Inv.ite
    | with_reducible apply Inv.mapD
    | with_reducible apply Inv.getD
    | fail_if_no_progress (first | with_reducible refine Inv.lit hk ?_ | fail)
    | split
    | dsimp only
    | exact h

theorem Inv.loseBoth {P : State → Prop} (hk : Stables P 68719476736) {t : State} (h : P t) (tag : Nat) : P (State.loseBoth t tag) := by
  unfold State.loseBoth
  repeat' first
    | intro _
    | with_reducible exact h
    | with_reducible assumption
    | with_reducible apply Inv.ite
    | with_reducible apply Inv.getD
    | fail_if_no_progress (first | with_reducible refine Inv.lit hk ?_ | fail)
    | split
    | dsimp only
    | exact h

theorem Inv.dropAudit {P : State → Prop} (hk : Stables P 153122797499973632) {t : State} (h : P t) (a : Audit) : P (State.dropAudit t a) := by
  unfold State.dropAudit
  have k0 : Stables P 2147483648 := hk.sub rfl
  have k1 : Stables P 153122520474583040 := hk.sub rfl
  repeat' first
    | intro _
    | with_reducible exact h
    | with_reducible assumption
    | with_reducible apply Inv.modRing k0
    | with_reducible apply Inv.freeReq k1
    | with_reducible apply Inv.ite
    | with_reducible apply Inv.getD
    | fail_if_no_progress (first | with_reducible refine Inv.lit hk ?_ | fail)
    | split
    | dsimp only
    | exact h

theorem Inv.dropAudits {P : State → Prop} (hk : Stables P 153122797499973632) {t : State} (h : P t) (plot : Nat) : P (State.dropAudits t plot) := by
  unfold State.dropAudits
  have k0 : Stables P 153122797499973632 := hk.sub rfl
  repeat' first
    | intro _
    | with_reducible exact h
    | with_reducible assumption
    | with_reducible apply Inv.dropAudit k0
    | with_reducible apply Inv.ite
    | with_reducible apply Inv.getD
    | with_reducible apply Inv.foldl
    | fail_if_no_progress (first | with_reducible refine Inv.lit hk ?_ | fail)
    | split
    | dsimp only
    | exact h

theorem Inv.nearLost {P : State → Prop} (hk : Stables P 68753104896) {t : State} (h : P t) (p : Nat) : P (State.nearLost t p) := by
  unfold State.nearLost
  have k0 : Stables P 68719476736 := hk.sub rfl
  have k1 : Stables P 68719476736 := hk.sub rfl
  have k2 : Stables P 33628160 := hk.sub rfl
  repeat' first
    | intro _
    | with_reducible exact h
    | with_reducible assumption
    | with_reducible apply Inv.loseBoth k0
    | with_reducible apply Inv.loseLater k1
    | with_reducible apply Inv.raise k2
    | with_reducible apply Inv.ite
    | with_reducible apply Inv.mapD
    | with_reducible apply Inv.getD
    | with_reducible apply Inv.foldl
    | fail_if_no_progress (first | with_reducible refine Inv.lit hk ?_ | fail)
    | split
    | dsimp only
    | exact h

theorem Inv.farLost {P : State → Prop} (hk : Stables P 153122797533601792) {t : State} (h : P t) (p : Nat) : P (State.farLost t p) := by
  unfold State.farLost
  have k0 : Stables P 68719476736 := hk.sub rfl
  have k1 : Stables P 68719476736 := hk.sub rfl
  have k2 : Stables P 153122797499973632 := hk.sub rfl
  have k3 : Stables P 33628160 := hk.sub rfl
  repeat' first
    | intro _
    | with_reducible exact h
    | with_reducible assumption
    | with_reducible apply Inv.loseBoth k0
    | with_reducible apply Inv.loseLater k1
    | with_reducible apply Inv.dropAudits k2
    | with_reducible apply Inv.raise k3
    | with_reducible apply Inv.ite
    | with_reducible apply Inv.getD
    | with_reducible apply Inv.foldl
    | fail_if_no_progress (first | with_reducible refine Inv.lit hk ?_ | fail)
    | split
    | dsimp only
    | exact h

theorem Inv.execPoolLoss {P : State → Prop} (hk : Stables P 153122797533606912) {t : State} (h : P t) (l : PoolLoss) : Ends P (Sys2Proof.Machine.execPoolLoss l t) := by
  unfold Sys2Proof.Machine.execPoolLoss
  have k0 : Stables P 68753104896 := hk.sub rfl
  have k1 : Stables P 153122797533601792 := hk.sub rfl
  have k2 : Stables P 65536 := hk.sub rfl
  have k3 : Stables P 153122797499973632 := hk.sub rfl
  have k4 : Stables P 33628160 := hk.sub rfl
  have k5 : Stables P 68719476736 := hk.sub rfl
  repeat' first
    | with_reducible apply Ends.next
    | with_reducible apply Ends.ite
    | intro _
    | with_reducible exact h
    | with_reducible assumption
    | with_reducible apply Inv.nearLost k0
    | with_reducible apply Inv.farLost k1
    | with_reducible apply Inv.setN k2
    | with_reducible apply Inv.dropAudit k3
    | with_reducible apply Inv.raise k4
    | with_reducible apply Inv.loseLater k5
    | with_reducible apply Inv.ite
    | with_reducible apply Inv.getD
    | fail_if_no_progress (first | with_reducible refine Inv.lit hk ?_ | fail)
    | split
    | dsimp only
    | exact h

theorem Inv.settleLosses {P : State → Prop} (hk : Stables P 1183338816900310310912) {t : State} (h : P t) : P (State.settleLosses t) := by
  unfold State.settleLosses
  have k0 : Stables P 4294967296 := hk.sub rfl
  have k1 : Stables P 1183338816900310310912 := hk.sub rfl
  have k2 : Stables P 1183185694104924192768 := hk.sub rfl
  have k3 : Stables P 2147483648 := hk.sub rfl
  have k4 : Stables P 153122520474583040 := hk.sub rfl
  have k5 : Stables P 2147483648 := hk.sub rfl
  repeat' first
    | intro _
    | with_reducible exact h
    | with_reducible assumption
    | with_reducible apply Inv.modFar k0
    | with_reducible apply Inv.lose k1
    | with_reducible apply Inv.writeCpl k2
    | with_reducible apply Inv.returnRoot k3
    | with_reducible apply Inv.freeReq k4
    | with_reducible apply Inv.modRing k5
    | with_reducible apply Inv.ite
    | with_reducible apply Inv.getD
    | with_reducible apply Inv.foldl
    | fail_if_no_progress (first | with_reducible refine Inv.lit hk ?_ | fail)
    | split
    | dsimp only
    | exact h

theorem Inv.endReplay {P : State → Prop} (hk : Stables P 1183194701372898476032) {t : State} (h : P t) (r : Replay) (status : Nat) : P (State.endReplay t r status) := by
  unfold State.endReplay
  have k0 : Stables P 1183185694104924192768 := hk.sub rfl
  have k1 : Stables P 65536 := hk.sub rfl
  repeat' first
    | intro _
    | with_reducible exact h
    | with_reducible assumption
    | with_reducible apply Inv.writeCpl k0
    | with_reducible apply Inv.countStatus k1
    | with_reducible apply Inv.ite
    | with_reducible apply Inv.getD
    | fail_if_no_progress (first | with_reducible refine Inv.lit hk ?_ | fail)
    | split
    | dsimp only
    | exact h

theorem Inv.failReplay {P : State → Prop} (hk : Stables P 1183194701372898476032) {t : State} (h : P t) (r : Replay) : P (State.failReplay t r) := by
  unfold State.failReplay
  have k0 : Stables P 1183194701372898476032 := hk.sub rfl
  repeat' first
    | intro _
    | with_reducible exact h
    | with_reducible assumption
    | with_reducible apply Inv.endReplay k0
    | with_reducible apply Inv.ite
    | with_reducible apply Inv.getD
    | fail_if_no_progress (first | with_reducible refine Inv.lit hk ?_ | fail)
    | split
    | dsimp only
    | exact h

theorem Inv.loseReplays {P : State → Prop} (hk : Stables P 1183194701372898476032) {t : State} (h : P t) : P (State.loseReplays t) := by
  unfold State.loseReplays
  have k0 : Stables P 1183194701372898476032 := hk.sub rfl
  repeat' first
    | intro _
    | with_reducible exact h
    | with_reducible assumption
    | with_reducible apply Inv.failReplay k0
    | with_reducible apply Inv.ite
    | with_reducible apply Inv.getD
    | with_reducible apply Inv.foldl
    | fail_if_no_progress (first | with_reducible refine Inv.lit hk ?_ | fail)
    | split
    | dsimp only
    | exact h

end Sys2Proof.Machine
end

