-- ==== Sys2Proof/Laws/KeepsWindow.lean ====
section
/-! SUPPORT. What the operations of Machine/Window.lean leave as it is: one lemma for each. -/

set_option linter.unusedTactic false
set_option linter.unreachableTactic false
set_option linter.unusedVariables false

namespace Sys2Proof.Machine
set_option Elab.async false

theorem Inv.allocPages {P : State → Prop} (hk : Stables P 140737488355328) {t u : State} (h : P t) {plot kind a b n : Nat}
    (hu : State.allocPages t plot kind a b n = some u) : P u := by
  unfold State.allocPages at hu
  dsimp only at hu
  split at hu
  · cases hu
  · cases hu; exact Inv.lit hk h

theorem Inv.countDropped {P : State → Prop} (hk : Stables P 65536) {t : State} (h : P t) (gone : Nat → Bool) : P (State.countDropped t gone) := by
  unfold State.countDropped
  have k0 : Stables P 65536 := hk.sub rfl
  repeat' first
    | intro _
    | with_reducible exact h
    | with_reducible assumption
    | with_reducible apply Inv.countUp k0
    | with_reducible apply Inv.ite
    | with_reducible apply Inv.getD
    | fail_if_no_progress (first | with_reducible refine Inv.lit hk ?_ | fail)
    | split
    | dsimp only
    | exact h

theorem Inv.releasePages {P : State → Prop} (hk : Stables P 422212465131520) {t : State} (h : P t) (p : Nat × Nat × Nat → Bool) : P (State.releasePages t p) := by
  unfold State.releasePages
  have k0 : Stables P 65536 := hk.sub rfl
  repeat' first
    | intro _
    | with_reducible exact h
    | with_reducible assumption
    | with_reducible apply Inv.countDropped k0
    | with_reducible apply Inv.ite
    | with_reducible apply Inv.getD
    | fail_if_no_progress (first | with_reducible refine Inv.lit hk ?_ | fail)
    | split
    | dsimp only
    | exact h

theorem Inv.placeBitmaps {P : State → Prop} (hk : Stables P 140737488355328) {t u : State} (h : P t) {slot : Nat} {i : Bytes} (hu : State.placeBitmaps t slot i = some u) : P u := by
  unfold State.placeBitmaps at hu
  dsimp only at hu
  split at hu
  · cases hu; exact h
  · obtain ⟨b, -, rfl⟩ := Option.map_eq_some_iff.mp hu
    exact Inv.lit hk h

theorem Inv.placeSeg {P : State → Prop} (hk : Stables P 140737488355328) {t u : State} (h : P t) {slot : Nat} {i : Bytes} (hu : State.placeSeg t slot i = some u) : P u := by
  have k0 : Stables P 140737488355328 := hk.sub rfl
  have k1 : Stables P 140737488355328 := hk.sub rfl
  unfold State.placeSeg at hu
  dsimp only at hu
  split at hu
  · cases hu
  · obtain ⟨v, hv, hu⟩ := Option.bind_eq_some_iff.mp hu
    obtain ⟨w, hw, hu⟩ := Option.bind_eq_some_iff.mp hu
    obtain ⟨x, hx, hw⟩ := Option.bind_eq_some_iff.mp hw
    have g := Inv.allocPages k0 (Inv.allocPages k0 (Inv.placeBitmaps k1 h hv) hx) hw
    split at hu
    · exact Inv.allocPages k0 g hu
    · cases hu; exact g

theorem Inv.growDelta {P : State → Prop} (hk : Stables P 140737488355328) {t u : State} (h : P t) {slot seg n : Nat} {c : Codebook} (hu : State.growDelta t slot seg n c = some u) : P u := by
  have k0 : Stables P 140737488355328 := hk.sub rfl
  obtain ⟨v, hv, hu⟩ := Option.bind_eq_some_iff.mp hu
  exact Inv.allocPages k0 (Inv.allocPages k0 h hv) hu

theorem Inv.touchPage {P : State → Prop} (hk : Stables P 2111062358958080) {t : State} (h : P t) (p : Nat) : P (State.touchPage t p) := by
  unfold State.touchPage
  have k0 : Stables P 65536 := hk.sub rfl
  have k1 : Stables P 33628160 := hk.sub rfl
  repeat' first
    | intro _
    | with_reducible exact h
    | with_reducible assumption
    | with_reducible apply Inv.bump k0
    | with_reducible apply Inv.raise k1
    | with_reducible apply Inv.ite
    | with_reducible apply Inv.getD
    | fail_if_no_progress (first | with_reducible refine Inv.lit hk ?_ | fail)
    | split
    | dsimp only
    | exact h

theorem Inv.touchAt {P : State → Prop} (hk : Stables P 2111062358958080) {t : State} (h : P t) (kind a b off : Nat) : P (State.touchAt t kind a b off) := by
  unfold State.touchAt
  have k0 : Stables P 2111062358958080 := hk.sub rfl
  repeat' first
    | intro _
    | with_reducible exact h
    | with_reducible assumption
    | with_reducible apply Inv.touchPage k0
    | with_reducible apply Inv.ite
    | with_reducible apply Inv.getD
    | fail_if_no_progress (first | with_reducible refine Inv.lit hk ?_ | fail)
    | split
    | dsimp only
    | exact h

end Sys2Proof.Machine
end

