-- ==== Sys2Proof/Laws/KeepsAdmission.lean ====
section
/-! SUPPORT. What the operations of Machine/Admission.lean leave as it is: one lemma for each. -/

set_option linter.unusedTactic false
set_option linter.unreachableTactic false
set_option linter.unusedVariables false

namespace Sys2Proof.Machine
set_option Elab.async false

theorem Inv.consume {P : State → Prop} (hk : Stables P 2147483648) {t : State} (h : P t) (r n : Nat) : P (State.consume t r n) := by
  unfold State.consume
  have k0 : Stables P 2147483648 := hk.sub rfl
  repeat' first
    | intro _
    | with_reducible exact h
    | with_reducible assumption
    | with_reducible apply Inv.modRing k0
    | with_reducible apply Inv.ite
    | with_reducible apply Inv.getD
    | fail_if_no_progress (first | with_reducible refine Inv.lit hk ?_ | fail)
    | split
    | dsimp only
    | exact h

theorem Inv.refuseWith {P : State → Prop} (hk : Stables P 1183185694105024929792) {t : State} (h : P t) (r cpl : Nat) (d : Bytes) (code : Nat) (ev : State → State) (hev : P (ev t)) :
    P (State.refuseWith t r cpl d code ev) := by
  have k0 : Stables P 2147483648 := hk.sub rfl
  have k1 : Stables P 65536 := hk.sub rfl
  have k2 : Stables P 100737024 := hk.sub rfl
  have k3 : Stables P 1183185694104924192768 := hk.sub rfl
  unfold State.refuseWith
  repeat' first
    | intro _
    | with_reducible exact h
    | with_reducible exact hev
    | with_reducible apply Inv.consume k0
    | with_reducible apply Inv.countStatus k1
    | with_reducible apply Inv.raiseRun k2
    | with_reducible apply Inv.writeCpl k3
    | with_reducible apply Inv.ite
    | split

theorem Inv.refuse {P : State → Prop} (hk : Stables P 1183185694105024929792) {t : State} (h : P t) (r cpl : Nat) (d : Bytes) (code event loc detail : Nat) : P (State.refuse t r cpl d code event loc detail) := by
  unfold State.refuse
  have k0 : Stables P 1183185694105024929792 := hk.sub rfl
  have k1 : Stables P 33628160 := hk.sub rfl
  repeat' first
    | intro _
    | with_reducible exact h
    | with_reducible assumption
    | with_reducible apply Inv.refuseWith k0
    | with_reducible apply Inv.raise k1
    | with_reducible apply Inv.ite
    | with_reducible apply Inv.getD
    | fail_if_no_progress (first | with_reducible refine Inv.lit hk ?_ | fail)
    | split
    | dsimp only
    | exact h

theorem Inv.allocate {P : State → Prop} (hk : Stables P 32212320256) {t : State} (h : P t) (slot : AdmSlot) (f : FarCtx) (w : Work) (farP : Nat) : P (State.allocate t slot f w farP) := by
  unfold State.allocate
  have k0 : Stables P 2147483648 := hk.sub rfl
  have k1 : Stables P 65536 := hk.sub rfl
  repeat' first
    | intro _
    | with_reducible exact h
    | with_reducible assumption
    | with_reducible apply Inv.modRing k0
    | with_reducible apply Inv.bump k1
    | with_reducible apply Inv.ite
    | with_reducible apply Inv.getD
    | fail_if_no_progress (first | with_reducible refine Inv.lit hk ?_ | fail)
    | split
    | dsimp only
    | exact h

theorem Inv.sendSubs {P : State → Prop} (hk : Stables P 288230376185339904) {t : State} (h : P t) (client tag : Nat) (supplied : Bool) (r : SearchReq) : P (State.sendSubs t client tag supplied r) := by
  unfold State.sendSubs
  have k0 : Stables P 288230376185339904 := hk.sub rfl
  repeat' first
    | intro _
    | with_reducible exact h
    | with_reducible assumption
    | with_reducible apply Inv.sendPeer k0
    | with_reducible apply Inv.ite
    | with_reducible apply Inv.getD
    | with_reducible apply Inv.foldl
    | fail_if_no_progress (first | with_reducible refine Inv.lit hk ?_ | fail)
    | split
    | dsimp only
    | exact h

theorem Inv.evict {P : State → Prop} (hk : Stables P 297237575440080896) {t : State} (h : P t) (part : Nat) (need : Nat) (keep : Nat) (r_ : Nat) : P (State.evict t part need keep r_) := by
  have k0 : Stables P 297237575406518272 := hk.sub rfl
  have k1 : Stables P 65536 := hk.sub rfl
  have k2 : Stables P 33628160 := hk.sub rfl
  induction r_ generalizing t part need keep with
  | zero => simpa only [State.evict] using h
  | succ n_ ih =>
    unfold State.evict
    repeat' first
    | intro _
    | with_reducible exact h
    | with_reducible assumption
    | with_reducible apply ih
    | with_reducible apply Inv.dropCaches k0
    | with_reducible apply Inv.useGrant k1
    | with_reducible apply Inv.raise k2
    | with_reducible apply Inv.ite
    | split
    | fail_if_no_progress (first | with_reducible refine Inv.lit hk ?_ | fail)
    | dsimp only

theorem Inv.keepCopy {P : State → Prop} (hk : Stables P 34359738368) {t : State} (h : P t) (d : Bytes) (tag : Nat) (w : Work) (plot part ring : Nat) : P (State.keepCopy t d tag w plot part ring) := by
  unfold State.keepCopy
  repeat' first
    | intro _
    | with_reducible exact h
    | with_reducible assumption
    | with_reducible apply Inv.ite
    | with_reducible apply Inv.getD
    | fail_if_no_progress (first | with_reducible refine Inv.lit hk ?_ | fail)
    | split
    | dsimp only
    | exact h

theorem Inv.accept {P : State → Prop} (hk : Stables P 297237642012073984) {t : State} (h : P t) (slot : AdmSlot) (r : Nat) (q : Ring) (d : Bytes) : P (State.accept t slot r q d) := by
  unfold State.accept
  have k0 : Stables P 2147483648 := hk.sub rfl
  have k1 : Stables P 32212320256 := hk.sub rfl
  have k2 : Stables P 2147483648 := hk.sub rfl
  have k3 : Stables P 34359738368 := hk.sub rfl
  have k4 : Stables P 288230376185339904 := hk.sub rfl
  repeat' first
    | intro _
    | with_reducible exact h
    | with_reducible assumption
    | with_reducible apply Inv.consume k0
    | with_reducible apply Inv.allocate k1
    | with_reducible apply Inv.modRing k2
    | with_reducible apply Inv.keepCopy k3
    | with_reducible apply Inv.sendSubs k4
    | with_reducible apply Inv.ite
    | with_reducible apply Inv.getD
    | fail_if_no_progress (first | with_reducible refine Inv.lit hk ?_ | fail)
    | split
    | dsimp only
    | exact h

theorem Inv.acceptGen {P : State → Prop} (hk : Stables P 1183194701368704180224) {t : State} (h : P t) (slot : AdmSlot) (r : Nat) (q : Ring) (d : Bytes) : P (State.acceptGen t slot r q d) := by
  have k0 : Stables P 297237575440080896 := hk.sub rfl
  have k1 : Stables P 1183185694105024929792 := hk.sub rfl
  have k2 : Stables P 100737024 := hk.sub rfl
  have k3 : Stables P 297237642012073984 := hk.sub rfl
  unfold State.acceptGen
  dsimp only
  generalize hs : (if t.grant 9 then _ else t) = s1
  have h1 : P s1 := by
    rw [← hs]
    exact Inv.ite (Inv.evict k0 h _ _ _ _) h
  split
  · exact Inv.refuseWith k1 h _ _ _ _ _ h
  · split
    · exact Inv.raiseRun k2 h1 _ _ _ _ _
    · exact Inv.accept k3 h1 _ _ _ _

theorem Inv.serveRequest {P : State → Prop} (hk : Stables P 1183194701368704180224) {t : State} (h : P t) (slot : AdmSlot) (r : Nat) : P (State.serveRequest t slot r) := by
  unfold State.serveRequest
  have k0 : Stables P 2147483648 := hk.sub rfl
  have k1 : Stables P 33628160 := hk.sub rfl
  have k2 : Stables P 1183185694105024929792 := hk.sub rfl
  have k3 : Stables P 100737024 := hk.sub rfl
  have k4 : Stables P 1183194701368704180224 := hk.sub rfl
  have k5 : Stables P 297237642012073984 := hk.sub rfl
  repeat' first
    | intro _
    | with_reducible exact h
    | with_reducible assumption
    | with_reducible apply Inv.modRing k0
    | with_reducible apply Inv.raise k1
    | with_reducible apply Inv.refuse k2
    | with_reducible apply Inv.raiseRun k3
    | with_reducible apply Inv.acceptGen k4
    | with_reducible apply Inv.accept k5
    | with_reducible apply Inv.ite
    | with_reducible apply Inv.mapD
    | with_reducible apply Inv.getD
    | fail_if_no_progress (first | with_reducible refine Inv.lit hk ?_ | fail)
    | split
    | dsimp only
    | exact h

theorem Inv.noteSub {P : State → Prop} (hk : Stables P 549755813888) {t : State} (h : P t) (port : Nat) (d : Bytes) (r : SearchReq) (again : Bool) : P (State.noteSub t port d r again) := by
  unfold State.noteSub
  repeat' first
    | intro _
    | with_reducible exact h
    | with_reducible assumption
    | with_reducible apply Inv.ite
    | with_reducible apply Inv.getD
    | fail_if_no_progress (first | with_reducible refine Inv.lit hk ?_ | fail)
    | split
    | dsimp only
    | exact h

theorem Inv.serveSub {P : State → Prop} (hk : Stables P 288230992580255744) {t : State} (h : P t) (slot : AdmSlot) (port : Nat) : P (State.serveSub t slot port) := by
  unfold State.serveSub
  have k0 : Stables P 288230376151711744 := hk.sub rfl
  have k1 : Stables P 33628160 := hk.sub rfl
  have k2 : Stables P 100737024 := hk.sub rfl
  have k3 : Stables P 549755813888 := hk.sub rfl
  have k4 : Stables P 32212320256 := hk.sub rfl
  have k5 : Stables P 34359738368 := hk.sub rfl
  repeat' first
    | intro _
    | with_reducible exact h
    | with_reducible assumption
    | with_reducible apply Inv.sendEmptyLists k0
    | with_reducible apply Inv.raise k1
    | with_reducible apply Inv.raiseRun k2
    | with_reducible apply Inv.noteSub k3
    | with_reducible apply Inv.allocate k4
    | with_reducible apply Inv.keepCopy k5
    | with_reducible apply Inv.ite
    | with_reducible apply Inv.getD
    | fail_if_no_progress (first | with_reducible refine Inv.lit hk ?_ | fail)
    | split
    | dsimp only
    | exact h

theorem Inv.detachLate {P : State → Prop} (hk : Stables P 1099545255936) {t : State} (h : P t) (i : Nat) : P (State.detachLate t i) := by
  unfold State.detachLate
  have k0 : Stables P 1099511627776 := hk.sub rfl
  have k1 : Stables P 65536 := hk.sub rfl
  have k2 : Stables P 33628160 := hk.sub rfl
  repeat' first
    | intro _
    | with_reducible exact h
    | with_reducible assumption
    | with_reducible apply Inv.modShard k0
    | with_reducible apply Inv.useGrant k1
    | with_reducible apply Inv.evU k2
    | with_reducible apply Inv.ite
    | with_reducible apply Inv.getD
    | fail_if_no_progress (first | with_reducible refine Inv.lit hk ?_ | fail)
    | split
    | dsimp only
    | exact h

theorem Inv.acceptUpdate {P : State → Prop} (hk : Stables P 1166117249024) {t : State} (h : P t) (slot : AdmSlot) (q : Ring) (i : Nat) (h_ : Shard) (d : Bytes) : P (State.acceptUpdate t slot q i h_ d) := by
  unfold State.acceptUpdate
  have k0 : Stables P 1099545255936 := hk.sub rfl
  have k1 : Stables P 2147483648 := hk.sub rfl
  have k2 : Stables P 32212320256 := hk.sub rfl
  have k3 : Stables P 1099511627776 := hk.sub rfl
  have k4 : Stables P 34359738368 := hk.sub rfl
  have k5 : Stables P 65536 := hk.sub rfl
  repeat' first
    | intro _
    | with_reducible exact h
    | with_reducible assumption
    | with_reducible apply Inv.detachLate k0
    | with_reducible apply Inv.consume k1
    | with_reducible apply Inv.allocate k2
    | with_reducible apply Inv.modShard k3
    | with_reducible apply Inv.keepCopy k4
    | with_reducible apply Inv.bump k5
    | with_reducible apply Inv.ite
    | with_reducible apply Inv.mapD
    | with_reducible apply Inv.getD
    | fail_if_no_progress (first | with_reducible refine Inv.lit hk ?_ | fail)
    | split
    | dsimp only
    | exact h

theorem Inv.serveUpdate {P : State → Prop} (hk : Stables P 1183185695268961067008) {t : State} (h : P t) (slot : AdmSlot) : P (State.serveUpdate t slot) := by
  unfold State.serveUpdate
  have k0 : Stables P 2147483648 := hk.sub rfl
  have k1 : Stables P 33628160 := hk.sub rfl
  have k2 : Stables P 1183185694105024929792 := hk.sub rfl
  have k3 : Stables P 1183185694105024929792 := hk.sub rfl
  have k4 : Stables P 100737024 := hk.sub rfl
  have k5 : Stables P 65536 := hk.sub rfl
  have k6 : Stables P 1166117249024 := hk.sub rfl
  repeat' first
    | intro _
    | with_reducible exact h
    | with_reducible assumption
    | with_reducible apply Inv.modRing k0
    | with_reducible apply Inv.raise k1
    | with_reducible apply Inv.refuse k2
    | with_reducible apply Inv.refuseWith k3
    | with_reducible apply Inv.raiseRun k4
    | with_reducible apply Inv.bump k5
    | with_reducible apply Inv.acceptUpdate k6
    | with_reducible apply Inv.ite
    | with_reducible apply Inv.mapD
    | with_reducible apply Inv.getD
    | fail_if_no_progress (first | with_reducible refine Inv.lit hk ?_ | fail)
    | split
    | dsimp only
    | exact h

end Sys2Proof.Machine
end

