-- ==== Sys2Proof/Laws/KeepsSearch.lean ====
section
/-! SUPPORT. What the operations of Machine/Search.lean leave as it is: one lemma for each. -/

set_option linter.unusedTactic false
set_option linter.unreachableTactic false
set_option linter.unusedVariables false

namespace Sys2Proof.Machine
set_option Elab.async false

theorem Inv.during {P : State → Prop} (hk : Stables P 0) {t : State} (h : P t) (tag phase : Nat) (k : Nat → Work → State) (hk2 : ∀ n w, P (k n w)) : P (State.during t tag phase k) := by
  unfold State.during
  repeat' first
    | intro _
    | with_reducible exact h
    | exact hk2 _ _
    | with_reducible apply Inv.ite
    | split

theorem Inv.checkIn {P : State → Prop} (hk : Stables P 1183375691221771034656) {t : State} (h : P t) (c : Chk) (plot code loc idx sub tag : Nat) : P (State.checkIn t c plot code loc idx sub tag).1 := by
  unfold State.checkIn
  have k0 : Stables P 65536 := hk.sub rfl
  have k1 : Stables P 1183375691221771034656 := hk.sub rfl
  repeat' first
    | intro _
    | with_reducible exact h
    | with_reducible assumption
    | with_reducible apply Inv.bump k0
    | with_reducible apply Inv.check k1
    | with_reducible apply Inv.ite
    | with_reducible apply Inv.getD
    | fail_if_no_progress (first | with_reducible refine Inv.lit hk ?_ | fail)
    | split
    | dsimp only
    | exact h

theorem Inv.checkAlone {P : State → Prop} (hk : Stables P 1183375691221771034656) {t : State} (h : P t) (c : Chk) (plot code loc idx sub : Nat) : P (State.checkAlone t c plot code loc idx sub).1 := by
  unfold State.checkAlone
  have k0 : Stables P 65536 := hk.sub rfl
  have k1 : Stables P 33628160 := hk.sub rfl
  have k2 : Stables P 65568 := hk.sub rfl
  have k3 : Stables P 36592846517641216 := hk.sub rfl
  have k4 : Stables P 1183339098375287021600 := hk.sub rfl
  repeat' first
    | intro _
    | with_reducible exact h
    | with_reducible assumption
    | with_reducible apply Inv.bump k0
    | with_reducible apply Inv.raise k1
    | with_reducible apply Inv.useSpill k2
    | with_reducible apply Inv.homeFault k3
    | with_reducible apply Inv.frameFault k4
    | with_reducible apply Inv.ite
    | with_reducible apply Inv.getD
    | fail_if_no_progress (first | with_reducible refine Inv.lit hk ?_ | fail)
    | split
    | dsimp only
    | exact h

theorem Inv.modEntry {P : State → Prop} (hk : Stables P 17179869184) {t : State} (h : P t) (tag pos : Nat) (f : ShardWork → ShardWork) : P (State.modEntry t tag pos f) := by
  unfold State.modEntry
  have k0 : Stables P 17179869184 := hk.sub rfl
  repeat' first
    | intro _
    | with_reducible exact h
    | with_reducible assumption
    | with_reducible apply Inv.modWork k0
    | with_reducible apply Inv.ite
    | with_reducible apply Inv.getD
    | fail_if_no_progress (first | with_reducible refine Inv.lit hk ?_ | fail)
    | split
    | dsimp only
    | exact h

theorem Inv.execTableBuild {P : State → Prop} (hk : Stables P 1183375691221771034656) {t : State} (h : P t) (tag : Nat) (chk : Chk) : Ends P (Sys2Proof.Machine.execTableBuild tag chk t) := by
  unfold Sys2Proof.Machine.execTableBuild
  have k0 : Stables P 0 := hk.sub rfl
  have k1 : Stables P 1183375691221771034656 := hk.sub rfl
  have k2 : Stables P 17179869184 := hk.sub rfl
  repeat' first
    | with_reducible apply Ends.next
    | with_reducible apply Ends.ite
    | intro _
    | with_reducible exact h
    | with_reducible assumption
    | with_reducible apply Inv.during k0
    | with_reducible apply Inv.checkIn k1
    | with_reducible apply Inv.modWork k2
    | with_reducible apply Inv.ite
    | with_reducible apply Inv.getD
    | fail_if_no_progress (first | with_reducible refine Inv.lit hk ?_ | fail)
    | split
    | dsimp only
    | exact h

theorem Inv.searchSeg {P : State → Prop} (hk : Stables P 1183375691221771034656) {t : State} (h : P t) (tag pos seg hops : Nat) (chk : Chk) (method : Nat) : P (State.searchSeg t tag pos seg hops chk method) := by
  unfold State.searchSeg
  have k0 : Stables P 0 := hk.sub rfl
  have k1 : Stables P 1183375691221771034656 := hk.sub rfl
  have k2 : Stables P 17179869184 := hk.sub rfl
  repeat' first
    | intro _
    | with_reducible exact h
    | with_reducible assumption
    | with_reducible apply Inv.during k0
    | with_reducible apply Inv.checkIn k1
    | with_reducible apply Inv.modEntry k2
    | with_reducible apply Inv.ite
    | with_reducible apply Inv.getD
    | fail_if_no_progress (first | with_reducible refine Inv.lit hk ?_ | fail)
    | split
    | dsimp only
    | exact h

theorem Inv.execSegmentWalk {P : State → Prop} (hk : Stables P 1183375691221771034656) {t : State} (h : P t) (tag pos seg hops : Nat) (chk : Chk) : Ends P (Sys2Proof.Machine.execSegmentWalk tag pos seg hops chk t) := by
  unfold Sys2Proof.Machine.execSegmentWalk
  have k0 : Stables P 1183375691221771034656 := hk.sub rfl
  repeat' first
    | with_reducible apply Ends.next
    | with_reducible apply Ends.ite
    | intro _
    | with_reducible exact h
    | with_reducible assumption
    | with_reducible apply Inv.searchSeg k0
    | with_reducible apply Inv.ite
    | with_reducible apply Inv.getD
    | fail_if_no_progress (first | with_reducible refine Inv.lit hk ?_ | fail)
    | split
    | dsimp only
    | exact h

theorem Inv.execFullScan {P : State → Prop} (hk : Stables P 1183375691221771034656) {t : State} (h : P t) (tag pos seg : Nat) (chk : Chk) : Ends P (Sys2Proof.Machine.execFullScan tag pos seg chk t) := by
  unfold Sys2Proof.Machine.execFullScan
  have k0 : Stables P 1183375691221771034656 := hk.sub rfl
  repeat' first
    | with_reducible apply Ends.next
    | with_reducible apply Ends.ite
    | intro _
    | with_reducible exact h
    | with_reducible assumption
    | with_reducible apply Inv.searchSeg k0
    | with_reducible apply Inv.ite
    | with_reducible apply Inv.getD
    | fail_if_no_progress (first | with_reducible refine Inv.lit hk ?_ | fail)
    | split
    | dsimp only
    | exact h

theorem Inv.execEnumeration {P : State → Prop} (hk : Stables P 1183375691221771034656) {t : State} (h : P t) (tag pos seg : Nat) (chk : Chk) : Ends P (Sys2Proof.Machine.execEnumeration tag pos seg chk t) := by
  unfold Sys2Proof.Machine.execEnumeration
  have k0 : Stables P 1183375691221771034656 := hk.sub rfl
  repeat' first
    | with_reducible apply Ends.next
    | with_reducible apply Ends.ite
    | intro _
    | with_reducible exact h
    | with_reducible assumption
    | with_reducible apply Inv.searchSeg k0
    | with_reducible apply Inv.ite
    | with_reducible apply Inv.getD
    | fail_if_no_progress (first | with_reducible refine Inv.lit hk ?_ | fail)
    | split
    | dsimp only
    | exact h

theorem Inv.checkPlots {P : State → Prop} (hk : Stables P 1183375691221771034656) {t : State} (h : P t) (tag : Nat) (code : Nat) (idx : Nat) (sub : Nat) (loc : Nat → Nat) (r_ : List (Nat × Chk)) : P (State.checkPlots t tag code idx sub loc r_).1 := by
  have k0 : Stables P 1183375691221771034656 := hk.sub rfl
  induction r_ generalizing t tag code idx sub loc with
  | nil => simpa only [State.checkPlots] using h
  | cons x_ l_ ih =>
    unfold State.checkPlots
    repeat' first
    | intro _
    | with_reducible exact h
    | with_reducible assumption
    | with_reducible apply ih
    | with_reducible apply Inv.checkIn k0
    | with_reducible apply Inv.ite
    | split
    | fail_if_no_progress (first | with_reducible refine Inv.lit hk ?_ | fail)
    | dsimp only

theorem Inv.execDeltaScan {P : State → Prop} (hk : Stables P 1183375691221771034656) {t : State} (h : P t) (tag pos : Nat) (chk : List (Nat × Chk)) : Ends P (Sys2Proof.Machine.execDeltaScan tag pos chk t) := by
  unfold Sys2Proof.Machine.execDeltaScan
  have k0 : Stables P 0 := hk.sub rfl
  have k1 : Stables P 1183375691221771034656 := hk.sub rfl
  have k2 : Stables P 17179869184 := hk.sub rfl
  repeat' first
    | with_reducible apply Ends.next
    | with_reducible apply Ends.ite
    | intro _
    | with_reducible exact h
    | with_reducible assumption
    | with_reducible apply Inv.during k0
    | with_reducible apply Inv.checkPlots k1
    | with_reducible apply Inv.modEntry k2
    | with_reducible apply Inv.ite
    | with_reducible apply Inv.mapD
    | with_reducible apply Inv.getD
    | fail_if_no_progress (first | with_reducible refine Inv.lit hk ?_ | fail)
    | split
    | dsimp only
    | exact h

theorem Inv.execBitmapFilterEval {P : State → Prop} (hk : Stables P 1183338957637798666240) {t : State} (h : P t) (tag pos seg : Nat) (rail : Chk) : Ends P (Sys2Proof.Machine.execBitmapFilterEval tag pos seg rail t) := by
  unfold Sys2Proof.Machine.execBitmapFilterEval
  have k0 : Stables P 0 := hk.sub rfl
  have k1 : Stables P 17179869184 := hk.sub rfl
  have k2 : Stables P 65536 := hk.sub rfl
  have k3 : Stables P 33628160 := hk.sub rfl
  have k4 : Stables P 1183338816900310310912 := hk.sub rfl
  repeat' first
    | with_reducible apply Ends.next
    | with_reducible apply Ends.ite
    | intro _
    | with_reducible exact h
    | with_reducible assumption
    | with_reducible apply Inv.during k0
    | with_reducible apply Inv.modEntry k1
    | with_reducible apply Inv.bump k2
    | with_reducible apply Inv.raise k3
    | with_reducible apply Inv.lose k4
    | with_reducible apply Inv.ite
    | with_reducible apply Inv.mapD
    | with_reducible apply Inv.getD
    | fail_if_no_progress (first | with_reducible refine Inv.lit hk ?_ | fail)
    | split
    | dsimp only
    | exact h

theorem Inv.execWinnowerPass {P : State → Prop} (hk : Stables P 1183375691221771034656) {t : State} (h : P t) (tag pos plot : Nat) (chk : Chk) : Ends P (Sys2Proof.Machine.execWinnowerPass tag pos plot chk t) := by
  unfold Sys2Proof.Machine.execWinnowerPass
  have k0 : Stables P 0 := hk.sub rfl
  have k1 : Stables P 1183375691221771034656 := hk.sub rfl
  have k2 : Stables P 65536 := hk.sub rfl
  have k3 : Stables P 17179869184 := hk.sub rfl
  repeat' first
    | with_reducible apply Ends.next
    | with_reducible apply Ends.ite
    | intro _
    | with_reducible exact h
    | with_reducible assumption
    | with_reducible apply Inv.during k0
    | with_reducible apply Inv.checkIn k1
    | with_reducible apply Inv.bump k2
    | with_reducible apply Inv.modEntry k3
    | with_reducible apply Inv.ite
    | with_reducible apply Inv.getD
    | fail_if_no_progress (first | with_reducible refine Inv.lit hk ?_ | fail)
    | split
    | dsimp only
    | exact h

theorem Inv.execRerankSelect {P : State → Prop} (hk : Stables P 1183375691221771034656) {t : State} (h : P t) (tag pos : Nat) (chk : Chk) : Ends P (Sys2Proof.Machine.execRerankSelect tag pos chk t) := by
  unfold Sys2Proof.Machine.execRerankSelect
  have k0 : Stables P 0 := hk.sub rfl
  have k1 : Stables P 1183375691221771034656 := hk.sub rfl
  have k2 : Stables P 65536 := hk.sub rfl
  have k3 : Stables P 17179869184 := hk.sub rfl
  repeat' first
    | with_reducible apply Ends.next
    | with_reducible apply Ends.ite
    | intro _
    | with_reducible exact h
    | with_reducible assumption
    | with_reducible apply Inv.during k0
    | with_reducible apply Inv.checkIn k1
    | with_reducible apply Inv.bump k2
    | with_reducible apply Inv.modEntry k3
    | with_reducible apply Inv.ite
    | with_reducible apply Inv.mapD
    | with_reducible apply Inv.getD
    | fail_if_no_progress (first | with_reducible refine Inv.lit hk ?_ | fail)
    | split
    | dsimp only
    | exact h

theorem Inv.checkSumsq {P : State → Prop} (hk : Stables P 1183375691221771034656) {t : State} (h : P t) (c : Chk) (plot loc tag : Nat) : P (State.checkSumsq t c plot loc tag).1 := by
  unfold State.checkSumsq
  have k0 : Stables P 65536 := hk.sub rfl
  have k1 : Stables P 33628160 := hk.sub rfl
  have k2 : Stables P 1183338816900310310912 := hk.sub rfl
  have k3 : Stables P 65568 := hk.sub rfl
  have k4 : Stables P 36592846517641216 := hk.sub rfl
  have k5 : Stables P 1183339098375287021600 := hk.sub rfl
  repeat' first
    | intro _
    | with_reducible exact h
    | with_reducible assumption
    | with_reducible apply Inv.bump k0
    | with_reducible apply Inv.raise k1
    | with_reducible apply Inv.lose k2
    | with_reducible apply Inv.useSpill k3
    | with_reducible apply Inv.homeFault k4
    | with_reducible apply Inv.frameFault k5
    | with_reducible apply Inv.ite
    | with_reducible apply Inv.getD
    | fail_if_no_progress (first | with_reducible refine Inv.lit hk ?_ | fail)
    | split
    | dsimp only
    | exact h

theorem Inv.execRerank {P : State → Prop} (hk : Stables P 1183375691221771034656) {t : State} (h : P t) (tag pos : Nat) (chk sumsq : Chk) : Ends P (Sys2Proof.Machine.execRerank tag pos chk sumsq t) := by
  unfold Sys2Proof.Machine.execRerank
  have k0 : Stables P 0 := hk.sub rfl
  have k1 : Stables P 1183375691221771034656 := hk.sub rfl
  have k2 : Stables P 1183375691221771034656 := hk.sub rfl
  have k3 : Stables P 17179869184 := hk.sub rfl
  repeat' first
    | with_reducible apply Ends.next
    | with_reducible apply Ends.ite
    | intro _
    | with_reducible exact h
    | with_reducible assumption
    | with_reducible apply Inv.during k0
    | with_reducible apply Inv.checkSumsq k1
    | with_reducible apply Inv.checkIn k2
    | with_reducible apply Inv.modEntry k3
    | with_reducible apply Inv.ite
    | with_reducible apply Inv.mapD
    | with_reducible apply Inv.getD
    | fail_if_no_progress (first | with_reducible refine Inv.lit hk ?_ | fail)
    | split
    | dsimp only
    | exact h

theorem Inv.execShardResult {P : State → Prop} (hk : Stables P 1183375691221771034656) {t : State} (h : P t) (tag pos : Nat) (chk hash : Chk) : Ends P (Sys2Proof.Machine.execShardResult tag pos chk hash t) := by
  unfold Sys2Proof.Machine.execShardResult
  have k0 : Stables P 0 := hk.sub rfl
  have k1 : Stables P 1183375691221771034656 := hk.sub rfl
  have k2 : Stables P 65536 := hk.sub rfl
  have k3 : Stables P 17179869184 := hk.sub rfl
  repeat' first
    | with_reducible apply Ends.next
    | with_reducible apply Ends.ite
    | intro _
    | with_reducible exact h
    | with_reducible assumption
    | with_reducible apply Inv.during k0
    | with_reducible apply Inv.checkIn k1
    | with_reducible apply Inv.bump k2
    | with_reducible apply Inv.modEntry k3
    | with_reducible apply Inv.ite
    | with_reducible apply Inv.getD
    | fail_if_no_progress (first | with_reducible refine Inv.lit hk ?_ | fail)
    | split
    | dsimp only
    | exact h

theorem Inv.execMerge {P : State → Prop} (hk : Stables P 1183375691221771034656) {t : State} (h : P t) (tag : Nat) (chk hash : Chk) : Ends P (Sys2Proof.Machine.execMerge tag chk hash t) := by
  unfold Sys2Proof.Machine.execMerge
  have k0 : Stables P 0 := hk.sub rfl
  have k1 : Stables P 1183375691221771034656 := hk.sub rfl
  have k2 : Stables P 65536 := hk.sub rfl
  have k3 : Stables P 17179869184 := hk.sub rfl
  have k4 : Stables P 33628160 := hk.sub rfl
  repeat' first
    | with_reducible apply Ends.next
    | with_reducible apply Ends.ite
    | intro _
    | with_reducible exact h
    | with_reducible assumption
    | with_reducible apply Inv.during k0
    | with_reducible apply Inv.checkIn k1
    | with_reducible apply Inv.bump k2
    | with_reducible apply Inv.modWork k3
    | with_reducible apply Inv.raise k4
    | with_reducible apply Inv.ite
    | with_reducible apply Inv.mapD
    | with_reducible apply Inv.getD
    | fail_if_no_progress (first | with_reducible refine Inv.lit hk ?_ | fail)
    | split
    | dsimp only
    | exact h

theorem Inv.execWidenedPass {P : State → Prop} (hk : Stables P 1183338816900310310912) {t : State} (h : P t) (tag : Nat) : Ends P (Sys2Proof.Machine.execWidenedPass tag t) := by
  unfold Sys2Proof.Machine.execWidenedPass
  have k0 : Stables P 0 := hk.sub rfl
  have k1 : Stables P 1183338816900276748288 := hk.sub rfl
  have k2 : Stables P 17179869184 := hk.sub rfl
  have k3 : Stables P 4294967296 := hk.sub rfl
  have k4 : Stables P 65536 := hk.sub rfl
  have k5 : Stables P 65536 := hk.sub rfl
  have k6 : Stables P 33628160 := hk.sub rfl
  have k7 : Stables P 288230376185339904 := hk.sub rfl
  repeat' first
    | with_reducible apply Ends.next
    | with_reducible apply Ends.ite
    | intro _
    | with_reducible exact h
    | with_reducible assumption
    | with_reducible apply Inv.during k0
    | with_reducible apply Inv.completeEmpty k1
    | with_reducible apply Inv.modWork k2
    | with_reducible apply Inv.modFar k3
    | with_reducible apply Inv.bump k4
    | with_reducible apply Inv.useGrant k5
    | with_reducible apply Inv.raise k6
    | with_reducible apply Inv.sendSubs k7
    | with_reducible apply Inv.ite
    | with_reducible apply Inv.getD
    | fail_if_no_progress (first | with_reducible refine Inv.lit hk ?_ | fail)
    | split
    | dsimp only
    | exact h

theorem Inv.execShardList {P : State → Prop} (hk : Stables P 1183338816900310310912) {t : State} (h : P t) (port tag : Nat) (body : Bytes) : Ends P (Sys2Proof.Machine.execShardList port tag body t) := by
  unfold Sys2Proof.Machine.execShardList
  have k0 : Stables P 17179869184 := hk.sub rfl
  have k1 : Stables P 65536 := hk.sub rfl
  have k2 : Stables P 33628160 := hk.sub rfl
  have k3 : Stables P 1183338816900310310912 := hk.sub rfl
  repeat' first
    | with_reducible apply Ends.next
    | with_reducible apply Ends.ite
    | intro _
    | with_reducible exact h
    | with_reducible assumption
    | with_reducible apply Inv.modEntry k0
    | with_reducible apply Inv.bump k1
    | with_reducible apply Inv.raise k2
    | with_reducible apply Inv.lose k3
    | with_reducible apply Inv.ite
    | with_reducible apply Inv.getD
    | fail_if_no_progress (first | with_reducible refine Inv.lit hk ?_ | fail)
    | split
    | dsimp only
    | exact h

theorem Inv.execCertFields {P : State → Prop} (hk : Stables P 17179869184) {t : State} (h : P t) (port tag : Nat) (body : Bytes) : Ends P (Sys2Proof.Machine.execCertFields port tag body t) := by
  unfold Sys2Proof.Machine.execCertFields
  have k0 : Stables P 17179869184 := hk.sub rfl
  repeat' first
    | with_reducible apply Ends.next
    | with_reducible apply Ends.ite
    | intro _
    | with_reducible exact h
    | with_reducible assumption
    | with_reducible apply Inv.modEntry k0
    | with_reducible apply Inv.ite
    | with_reducible apply Inv.mapD
    | with_reducible apply Inv.getD
    | fail_if_no_progress (first | with_reducible refine Inv.lit hk ?_ | fail)
    | split
    | dsimp only
    | exact h

theorem Inv.execRemoteWaitExpiry {P : State → Prop} (hk : Stables P 1183338816900310310912) {t : State} (h : P t) (tag : Nat) : Ends P (Sys2Proof.Machine.execRemoteWaitExpiry tag t) := by
  unfold Sys2Proof.Machine.execRemoteWaitExpiry
  have k0 : Stables P 65536 := hk.sub rfl
  have k1 : Stables P 33628160 := hk.sub rfl
  have k2 : Stables P 1183338816900310310912 := hk.sub rfl
  repeat' first
    | with_reducible apply Ends.next
    | with_reducible apply Ends.ite
    | intro _
    | with_reducible exact h
    | with_reducible assumption
    | with_reducible apply Inv.bump k0
    | with_reducible apply Inv.raise k1
    | with_reducible apply Inv.lose k2
    | with_reducible apply Inv.ite
    | with_reducible apply Inv.getD
    | with_reducible apply Inv.foldl
    | fail_if_no_progress (first | with_reducible refine Inv.lit hk ?_ | fail)
    | split
    | dsimp only
    | exact h

theorem Inv.execSubSearch {P : State → Prop} (hk : Stables P 549755813888) {t : State} (h : P t) (port : Nat) (body : Bytes) : Ends P (Sys2Proof.Machine.execSubSearch port body t) := by
  unfold Sys2Proof.Machine.execSubSearch
  repeat' first
    | with_reducible apply Ends.next
    | with_reducible apply Ends.ite
    | intro _
    | with_reducible exact h
    | with_reducible assumption
    | with_reducible apply Inv.ite
    | with_reducible apply Inv.getD
    | fail_if_no_progress (first | with_reducible refine Inv.lit hk ?_ | fail)
    | split
    | dsimp only
    | exact h

end Sys2Proof.Machine
end

