-- ==== Sys2Proof/Laws/KeepsComplete.lean ====
section
/-! SUPPORT. What the operations of Machine/Complete.lean leave as it is: one lemma for each. -/

set_option linter.unusedTactic false
set_option linter.unreachableTactic false
set_option linter.unusedVariables false

namespace Sys2Proof.Machine
set_option Elab.async false

theorem Inv.execCertify {P : State → Prop} (hk : Stables P 1183375691221771034656) {t : State} (h : P t) (tag : Nat) (chk : Chk) : Ends P (Sys2Proof.Machine.execCertify tag chk t) := by
  unfold Sys2Proof.Machine.execCertify
  have k0 : Stables P 0 := hk.sub rfl
  have k1 : Stables P 1183375691221771034656 := hk.sub rfl
  have k2 : Stables P 17179869184 := hk.sub rfl
  have k3 : Stables P 33628160 := hk.sub rfl
  have k4 : Stables P 1183338816900310310912 := hk.sub rfl
  repeat' first
    | with_reducible apply Ends.next
    | with_reducible apply Ends.ite
    | intro _
    | with_reducible exact h
    | with_reducible assumption
    | with_reducible apply Inv.during k0
    | with_reducible apply Inv.checkIn k1
    | with_reducible apply Inv.modWork k2
    | with_reducible apply Inv.raise k3
    | with_reducible apply Inv.lose k4
    | with_reducible apply Inv.ite
    | with_reducible apply Inv.getD
    | fail_if_no_progress (first | with_reducible refine Inv.lit hk ?_ | fail)
    | split
    | dsimp only
    | exact h

theorem Inv.queueRoot {P : State → Prop} (hk : Stables P 137472581632) {t : State} (h : P t) (slot : Nat) (h_ : Shard) (e : Epoch) (u_ reason : Nat) : P (State.queueRoot t slot h_ e u_ reason) := by
  unfold State.queueRoot
  have k0 : Stables P 33628160 := hk.sub rfl
  repeat' first
    | intro _
    | with_reducible exact h
    | with_reducible assumption
    | with_reducible apply Inv.evU k0
    | with_reducible apply Inv.ite
    | with_reducible apply Inv.getD
    | fail_if_no_progress (first | with_reducible refine Inv.lit hk ?_ | fail)
    | split
    | dsimp only
    | exact h

theorem Inv.checkRoot {P : State → Prop} (hk : Stables P 1183375691359209988128) {t : State} (h : P t) (c : Chk) : P (State.checkRoot t c) := by
  unfold State.checkRoot
  have k0 : Stables P 1183375691221771034656 := hk.sub rfl
  repeat' first
    | intro _
    | with_reducible exact h
    | with_reducible assumption
    | with_reducible apply Inv.checkAlone k0
    | with_reducible apply Inv.ite
    | with_reducible apply Inv.mapD
    | with_reducible apply Inv.getD
    | fail_if_no_progress (first | with_reducible refine Inv.lit hk ?_ | fail)
    | split
    | dsimp only
    | exact h

theorem Inv.checkRoots {P : State → Prop} (hk : Stables P 1183375691359209988128) {t : State} (h : P t) (chks : List Chk) : P (State.checkRoots t chks) := by
  unfold State.checkRoots
  have k0 : Stables P 1183375691359209988128 := hk.sub rfl
  repeat' first
    | intro _
    | with_reducible exact h
    | with_reducible assumption
    | with_reducible apply Inv.checkRoot k0
    | with_reducible apply Inv.ite
    | with_reducible apply Inv.getD
    | with_reducible apply Inv.foldl
    | fail_if_no_progress (first | with_reducible refine Inv.lit hk ?_ | fail)
    | split
    | dsimp only
    | exact h

theorem Inv.drainRoots {P : State → Prop} (hk : Stables P 1183185694242363146240) {t : State} (h : P t)  (fuel_ : Nat) : P (State.drainRoots t fuel_) := by
  have k0 : Stables P 1183185694104924192768 := hk.sub rfl
  induction fuel_ generalizing t  with
  | zero => simpa only [State.drainRoots] using h
  | succ n_ ih =>
    unfold State.drainRoots
    repeat' first
    | intro _
    | with_reducible exact h
    | with_reducible assumption
    | with_reducible apply ih
    | with_reducible apply Inv.writeCpl k0
    | with_reducible apply Inv.ite
    | split
    | fail_if_no_progress (first | with_reducible refine Inv.lit hk ?_ | fail)
    | dsimp only

theorem Inv.formRoots {P : State → Prop} (hk : Stables P 1183375691359209988128) {t : State} (h : P t) (chks : List Chk) : P (State.formRoots t chks) := by
  unfold State.formRoots
  have k0 : Stables P 1183375691359209988128 := hk.sub rfl
  have k1 : Stables P 1183185694242363146240 := hk.sub rfl
  repeat' first
    | intro _
    | with_reducible exact h
    | with_reducible assumption
    | with_reducible apply Inv.checkRoots k0
    | with_reducible apply Inv.drainRoots k1
    | with_reducible apply Inv.ite
    | with_reducible apply Inv.getD
    | fail_if_no_progress (first | with_reducible refine Inv.lit hk ?_ | fail)
    | split
    | dsimp only
    | exact h

theorem Inv.execRootQueueDrain {P : State → Prop} (hk : Stables P 1183185694242363146240) {t : State} (h : P t) : Ends P (Sys2Proof.Machine.execRootQueueDrain t) := by
  unfold Sys2Proof.Machine.execRootQueueDrain
  have k0 : Stables P 1183185694242363146240 := hk.sub rfl
  repeat' first
    | with_reducible apply Ends.next
    | with_reducible apply Ends.ite
    | intro _
    | with_reducible exact h
    | with_reducible assumption
    | with_reducible apply Inv.drainRoots k0
    | with_reducible apply Inv.ite
    | with_reducible apply Inv.getD
    | fail_if_no_progress (first | with_reducible refine Inv.lit hk ?_ | fail)
    | split
    | dsimp only
    | exact h

theorem Inv.execRootRequest {P : State → Prop} (hk : Stables P 1183375691221771034656) {t : State} (h : P t) (tag : Nat) (hash : Chk) : Ends P (Sys2Proof.Machine.execRootRequest tag hash t) := by
  unfold Sys2Proof.Machine.execRootRequest
  have k0 : Stables P 0 := hk.sub rfl
  have k1 : Stables P 1183375691221771034656 := hk.sub rfl
  have k2 : Stables P 17179869184 := hk.sub rfl
  repeat' first
    | with_reducible apply Ends.next
    | with_reducible apply Ends.ite
    | intro _
    | with_reducible exact h
    | with_reducible assumption
    | with_reducible apply Inv.during k0
    | with_reducible apply Inv.checkIn k1
    | with_reducible apply Inv.modWork k2
    | with_reducible apply Inv.ite
    | with_reducible apply Inv.getD
    | fail_if_no_progress (first | with_reducible refine Inv.lit hk ?_ | fail)
    | split
    | dsimp only
    | exact h

theorem Inv.writeRoot {P : State → Prop} (hk : Stables P 1183185694242396774400) {t : State} (h : P t) (w : Work) : P (State.writeRoot t w) := by
  unfold State.writeRoot
  have k0 : Stables P 1183185694104924192768 := hk.sub rfl
  have k1 : Stables P 33628160 := hk.sub rfl
  repeat' first
    | intro _
    | with_reducible exact h
    | with_reducible assumption
    | with_reducible apply Inv.writeCpl k0
    | with_reducible apply Inv.evU k1
    | with_reducible apply Inv.ite
    | with_reducible apply Inv.getD
    | fail_if_no_progress (first | with_reducible refine Inv.lit hk ?_ | fail)
    | split
    | dsimp only
    | exact h

theorem Inv.settleCache {P : State → Prop} (hk : Stables P 297237575406518272) {t : State} (h : P t) (tag : Nat) (w : Work) (g : GenWork) (part : Nat) : P (State.settleCache t tag w g part).1 := by
  unfold State.settleCache
  have k0 : Stables P 297237575406518272 := hk.sub rfl
  have k1 : Stables P 288230376151711744 := hk.sub rfl
  repeat' first
    | intro _
    | with_reducible exact h
    | with_reducible assumption
    | with_reducible apply Inv.dropCaches k0
    | with_reducible apply Inv.releaseLent k1
    | with_reducible apply Inv.ite
    | with_reducible apply Inv.getD
    | fail_if_no_progress (first | with_reducible refine Inv.lit hk ?_ | fail)
    | split
    | dsimp only
    | exact h

theorem Inv.completeSearch {P : State → Prop} (hk : Stables P 1183338817037749264384) {t : State} (h : P t) (tag c : Nat) (f : FarCtx) (w : Work) : P (State.completeSearch t tag c f w) := by
  unfold State.completeSearch
  have k0 : Stables P 1183185694104924192768 := hk.sub rfl
  have k1 : Stables P 65536 := hk.sub rfl
  have k2 : Stables P 137472581632 := hk.sub rfl
  have k3 : Stables P 144115527378272256 := hk.sub rfl
  have k4 : Stables P 153122520474583040 := hk.sub rfl
  repeat' first
    | intro _
    | with_reducible exact h
    | with_reducible assumption
    | with_reducible apply Inv.writeCpl k0
    | with_reducible apply Inv.countStatus k1
    | with_reducible apply Inv.queueRoot k2
    | with_reducible apply Inv.keepAudit k3
    | with_reducible apply Inv.freeReq k4
    | with_reducible apply Inv.ite
    | with_reducible apply Inv.getD
    | with_reducible apply Inv.foldl
    | fail_if_no_progress (first | with_reducible refine Inv.lit hk ?_ | fail)
    | split
    | dsimp only
    | exact h

theorem Inv.sendLists {P : State → Prop} (hk : Stables P 288230376151711744) {t : State} (h : P t) (w : Work) : P (State.sendLists t w) := by
  unfold State.sendLists
  have k0 : Stables P 288230376151711744 := hk.sub rfl
  repeat' first
    | intro _
    | with_reducible exact h
    | with_reducible assumption
    | with_reducible apply Inv.sendHedge k0
    | with_reducible apply Inv.ite
    | with_reducible apply Inv.getD
    | with_reducible apply Inv.foldl
    | fail_if_no_progress (first | with_reducible refine Inv.lit hk ?_ | fail)
    | split
    | dsimp only
    | exact h

theorem Inv.execCompletionWrite {P : State → Prop} (hk : Stables P 1183338817037749264384) {t : State} (h : P t) (tag : Nat) : Ends P (Sys2Proof.Machine.execCompletionWrite tag t) := by
  unfold Sys2Proof.Machine.execCompletionWrite
  have k0 : Stables P 1183338817037749264384 := hk.sub rfl
  have k1 : Stables P 288230376151711744 := hk.sub rfl
  have k2 : Stables P 153122520474583040 := hk.sub rfl
  have k3 : Stables P 1183185694104924192768 := hk.sub rfl
  have k4 : Stables P 65536 := hk.sub rfl
  have k5 : Stables P 1183185694242396774400 := hk.sub rfl
  have k6 : Stables P 297237575406518272 := hk.sub rfl
  have k7 : Stables P 65536 := hk.sub rfl
  repeat' first
    | with_reducible apply Ends.next
    | with_reducible apply Ends.ite
    | intro _
    | with_reducible exact h
    | with_reducible assumption
    | with_reducible apply Inv.completeSearch k0
    | with_reducible apply Inv.sendLists k1
    | with_reducible apply Inv.freeReq k2
    | with_reducible apply Inv.writeCpl k3
    | with_reducible apply Inv.countStatus k4
    | with_reducible apply Inv.writeRoot k5
    | with_reducible apply Inv.settleCache k6
    | with_reducible apply Inv.setN k7
    | with_reducible apply Inv.ite
    | with_reducible apply Inv.getD
    | fail_if_no_progress (first | with_reducible refine Inv.lit hk ?_ | fail)
    | split
    | dsimp only
    | exact h

theorem Inv.endAudit {P : State → Prop} (hk : Stables P 1183338816900276748288) {t : State} (h : P t) (a : Audit) (status eligible : Nat) (exact : List Cand) : P (State.endAudit t a status eligible exact) := by
  unfold State.endAudit
  have k0 : Stables P 1183185694104924192768 := hk.sub rfl
  have k1 : Stables P 65536 := hk.sub rfl
  have k2 : Stables P 153122520474583040 := hk.sub rfl
  repeat' first
    | intro _
    | with_reducible exact h
    | with_reducible assumption
    | with_reducible apply Inv.writeCpl k0
    | with_reducible apply Inv.bump k1
    | with_reducible apply Inv.freeReq k2
    | with_reducible apply Inv.ite
    | with_reducible apply Inv.mapD
    | with_reducible apply Inv.getD
    | fail_if_no_progress (first | with_reducible refine Inv.lit hk ?_ | fail)
    | split
    | dsimp only
    | exact h

theorem Inv.failAudit {P : State → Prop} (hk : Stables P 1183338816900310310912) {t : State} (h : P t) (a : Audit) : P (State.failAudit t a) := by
  unfold State.failAudit
  have k0 : Stables P 1183338816900276748288 := hk.sub rfl
  have k1 : Stables P 33628160 := hk.sub rfl
  repeat' first
    | intro _
    | with_reducible exact h
    | with_reducible assumption
    | with_reducible apply Inv.endAudit k0
    | with_reducible apply Inv.raise k1
    | with_reducible apply Inv.ite
    | with_reducible apply Inv.getD
    | fail_if_no_progress (first | with_reducible refine Inv.lit hk ?_ | fail)
    | split
    | dsimp only
    | exact h

theorem Inv.auditScan {P : State → Prop} (hk : Stables P 32) {t : State} (h : P t) (a : Audit) (all : List Cand) : P (State.auditScan t a all).1 := by
  unfold State.auditScan
  have k0 : Stables P 32 := hk.sub rfl
  repeat' first
    | intro _
    | with_reducible exact h
    | with_reducible assumption
    | with_reducible apply Inv.useRoom k0
    | with_reducible apply Inv.ite
    | with_reducible apply Inv.getD
    | with_reducible apply Inv.foldl
    | with_reducible apply Inv.foldFst
    | with_reducible apply Inv.foldSnd
    | fail_if_no_progress (first | with_reducible refine Inv.lit hk ?_ | fail)
    | split
    | dsimp only
    | exact h

theorem Inv.execAuditPass {P : State → Prop} (hk : Stables P 1183375691221771034656) {t : State} (h : P t) (tag : Nat) (sumsq : Chk) (chk : AuditChk) (hash : Chk) : Ends P (Sys2Proof.Machine.execAuditPass tag sumsq chk hash t) := by
  unfold Sys2Proof.Machine.execAuditPass
  have k0 : Stables P 1183338816900310310912 := hk.sub rfl
  have k1 : Stables P 32 := hk.sub rfl
  have k2 : Stables P 1183375691221771034656 := hk.sub rfl
  have k3 : Stables P 33628160 := hk.sub rfl
  have k4 : Stables P 65536 := hk.sub rfl
  have k5 : Stables P 1183338816900276748288 := hk.sub rfl
  repeat' first
    | with_reducible apply Ends.next
    | with_reducible apply Ends.ite
    | intro _
    | with_reducible exact h
    | with_reducible assumption
    | with_reducible apply Inv.failAudit k0
    | with_reducible apply Inv.auditScan k1
    | with_reducible apply Inv.checkAlone k2
    | with_reducible apply Inv.raise k3
    | with_reducible apply Inv.bump k4
    | with_reducible apply Inv.endAudit k5
    | with_reducible apply Inv.ite
    | with_reducible apply Inv.mapD
    | with_reducible apply Inv.getD
    | fail_if_no_progress (first | with_reducible refine Inv.lit hk ?_ | fail)
    | split
    | dsimp only
    | exact h

end Sys2Proof.Machine
end

