-- ==== Sys2Proof/Laws/KeepsFlash.lean ====
section
/-! SUPPORT. What the operations of Machine/Flash.lean leave as it is: one lemma for each. -/

set_option linter.unusedTactic false
set_option linter.unreachableTactic false
set_option linter.unusedVariables false

namespace Sys2Proof.Machine
set_option Elab.async false

theorem Inv.dieRan {P : State → Prop} (hk : Stables P 32) {t : State} (h : P t) (typ k n : Nat) : P (State.dieRan t typ k n) := by
  unfold State.dieRan
  have k0 : Stables P 32 := hk.sub rfl
  repeat' first
    | intro _
    | with_reducible exact h
    | with_reducible assumption
    | with_reducible apply Inv.useRoom k0
    | with_reducible apply Inv.ite
    | with_reducible apply Inv.getD
    | fail_if_no_progress (first | with_reducible refine Inv.lit hk ?_ | fail)
    | split
    | dsimp only
    | exact h

theorem Inv.programIn {P : State → Prop} (hk : Stables P 13194139533312) {t : State} (h : P t) (k n : Nat) (slc : Bool) (use_ lpn kind : Nat) (data : Bytes) : P (State.programIn t k n slc use_ lpn kind data).1 := by
  unfold State.programIn
  have k0 : Stables P 4398046511104 := hk.sub rfl
  repeat' first
    | intro _
    | with_reducible exact h
    | with_reducible assumption
    | with_reducible apply Inv.modDie k0
    | with_reducible apply Inv.ite
    | with_reducible apply Inv.getD
    | fail_if_no_progress (first | with_reducible refine Inv.lit hk ?_ | fail)
    | split
    | dsimp only
    | exact h

theorem Inv.program {P : State → Prop} (hk : Stables P 13194139533344) {t : State} (h : P t) {typ k use_ lpn kind : Nat} {slc : Bool} {data : Bytes} {u : State × Nat}
    (hu : State.program t typ k slc use_ lpn kind data = some u) : P u.1 := by
  have k0 : Stables P 13194139533312 := hk.sub rfl
  have k1 : Stables P 32 := hk.sub rfl
  unfold State.program at hu
  split at hu
  · obtain ⟨n, -, rfl⟩ := Option.map_eq_some_iff.mp hu
    exact Inv.programIn k0 (Inv.dieRan k1 h _ _ _) _ _ _ _ _ _ _
  · cases hu

theorem Inv.programBy {P : State → Prop} (hk : Stables P 13194139533344) {t : State} (h : P t) {o : Option Nat} {typ use_ lpn kind : Nat} {slc : Bool} {data : Bytes}
    {u : State × Nat} (hu : (o.bind fun k => State.program t typ k slc use_ lpn kind data) = some u) : P u.1 := by
  have k0 : Stables P 13194139533344 := hk.sub rfl
  obtain ⟨_, -, hp⟩ := Option.bind_eq_some_iff.mp hu
  exact Inv.program k0 h hp

theorem Inv.changeMap {P : State → Prop} (hk : Stables P 8796093022208) {t : State} (h : P t) (lpn addr seq : Nat) : P (State.changeMap t lpn addr seq) := by
  unfold State.changeMap
  repeat' first
    | intro _
    | with_reducible exact h
    | with_reducible assumption
    | with_reducible apply Inv.ite
    | with_reducible apply Inv.getD
    | fail_if_no_progress (first | with_reducible refine Inv.lit hk ?_ | fail)
    | split
    | dsimp only
    | exact h

theorem Inv.trim {P : State → Prop} (hk : Stables P 8796093022208) {t : State} (h : P t) (first n : Nat) : P (State.trim t first n) := by
  unfold State.trim
  have k0 : Stables P 8796093022208 := hk.sub rfl
  repeat' first
    | intro _
    | with_reducible exact h
    | with_reducible assumption
    | with_reducible apply Inv.changeMap k0
    | with_reducible apply Inv.ite
    | with_reducible apply Inv.getD
    | with_reducible apply Inv.foldl
    | fail_if_no_progress (first | with_reducible refine Inv.lit hk ?_ | fail)
    | split
    | dsimp only
    | exact h

theorem Inv.retireBlk {P : State → Prop} (hk : Stables P 4398080139264) {t : State} (h : P t) (k n : Nat) : P (State.retireBlk t k n) := by
  unfold State.retireBlk
  have k0 : Stables P 4398046511104 := hk.sub rfl
  have k1 : Stables P 65536 := hk.sub rfl
  have k2 : Stables P 33628160 := hk.sub rfl
  repeat' first
    | intro _
    | with_reducible exact h
    | with_reducible assumption
    | with_reducible apply Inv.modDie k0
    | with_reducible apply Inv.bump k1
    | with_reducible apply Inv.raise k2
    | with_reducible apply Inv.ite
    | with_reducible apply Inv.getD
    | fail_if_no_progress (first | with_reducible refine Inv.lit hk ?_ | fail)
    | split
    | dsimp only
    | exact h

theorem Inv.retire {P : State → Prop} (hk : Stables P 4398080139264) {t : State} (h : P t) (k n : Nat) : P (State.retire t k n) := by
  unfold State.retire
  have k0 : Stables P 33628160 := hk.sub rfl
  have k1 : Stables P 4398080139264 := hk.sub rfl
  repeat' first
    | intro _
    | with_reducible exact h
    | with_reducible assumption
    | with_reducible apply Inv.raise k0
    | with_reducible apply Inv.retireBlk k1
    | with_reducible apply Inv.ite
    | with_reducible apply Inv.getD
    | fail_if_no_progress (first | with_reducible refine Inv.lit hk ?_ | fail)
    | split
    | dsimp only
    | exact h

theorem Inv.dropUnits {P : State → Prop} (hk : Stables P 4398046511104) {t : State} (h : P t) (k n : Nat) : P (State.dropUnits t k n) := by
  unfold State.dropUnits
  repeat' first
    | intro _
    | with_reducible exact h
    | with_reducible assumption
    | with_reducible apply Inv.ite
    | with_reducible apply Inv.getD
    | fail_if_no_progress (first | with_reducible refine Inv.lit hk ?_ | fail)
    | split
    | dsimp only
    | exact h

theorem Inv.eraseBlk {P : State → Prop} (hk : Stables P 4398080139264) {t : State} (h : P t) (k n : Nat) : P (State.eraseBlk t k n) := by
  unfold State.eraseBlk
  have k0 : Stables P 4398080139264 := hk.sub rfl
  have k1 : Stables P 4398046511104 := hk.sub rfl
  have k2 : Stables P 4398046511104 := hk.sub rfl
  repeat' first
    | intro _
    | with_reducible exact h
    | with_reducible assumption
    | with_reducible apply Inv.retireBlk k0
    | with_reducible apply Inv.dropUnits k1
    | with_reducible apply Inv.modDie k2
    | with_reducible apply Inv.ite
    | with_reducible apply Inv.getD
    | fail_if_no_progress (first | with_reducible refine Inv.lit hk ?_ | fail)
    | split
    | dsimp only
    | exact h

theorem Inv.flashBoundary {P : State → Prop} (hk : Stables P 13194139533312) {t : State} (h : P t) : P (State.flashBoundary t) := by
  unfold State.flashBoundary
  repeat' first
    | intro _
    | with_reducible exact h
    | with_reducible assumption
    | with_reducible apply Inv.ite
    | with_reducible apply Inv.getD
    | with_reducible apply Inv.foldl
    | fail_if_no_progress (first | with_reducible refine Inv.lit hk ?_ | fail)
    | split
    | dsimp only
    | exact h

theorem Inv.programFailed {P : State → Prop} (hk : Stables P 4398080139264) {t : State} (h : P t) (addr event : Nat) : P (State.programFailed t addr event) := by
  unfold State.programFailed
  have k0 : Stables P 65536 := hk.sub rfl
  have k1 : Stables P 33628160 := hk.sub rfl
  have k2 : Stables P 4398080139264 := hk.sub rfl
  repeat' first
    | intro _
    | with_reducible exact h
    | with_reducible assumption
    | with_reducible apply Inv.bump k0
    | with_reducible apply Inv.raise k1
    | with_reducible apply Inv.retire k2
    | with_reducible apply Inv.ite
    | with_reducible apply Inv.mapD
    | with_reducible apply Inv.getD
    | fail_if_no_progress (first | with_reducible refine Inv.lit hk ?_ | fail)
    | split
    | dsimp only
    | exact h

theorem Inv.segOut {P : State → Prop} (hk : Stables P 1125899940470784) {t : State} (h : P t) (slot seg : Nat) : P (State.segOut t slot seg) := by
  unfold State.segOut
  have k0 : Stables P 33628160 := hk.sub rfl
  repeat' first
    | intro _
    | with_reducible exact h
    | with_reducible assumption
    | with_reducible apply Inv.raise k0
    | with_reducible apply Inv.ite
    | with_reducible apply Inv.getD
    | fail_if_no_progress (first | with_reducible refine Inv.lit hk ?_ | fail)
    | split
    | dsimp only
    | exact h

theorem Inv.segsOutOn {P : State → Prop} (hk : Stables P 1125899940470784) {t : State} (h : P t) (p : Nat → Bool) : P (State.segsOutOn t p) := by
  unfold State.segsOutOn
  have k0 : Stables P 1125899940470784 := hk.sub rfl
  repeat' first
    | intro _
    | with_reducible exact h
    | with_reducible assumption
    | with_reducible apply Inv.segOut k0
    | with_reducible apply Inv.ite
    | with_reducible apply Inv.getD
    | with_reducible apply Inv.foldl
    | fail_if_no_progress (first | with_reducible refine Inv.lit hk ?_ | fail)
    | split
    | dsimp only
    | exact h

theorem Inv.dropExtent {P : State → Prop} (hk : Stables P 26388279066624) {t : State} (h : P t) (slot seg : Nat) : P (State.dropExtent t slot seg) := by
  unfold State.dropExtent
  have k0 : Stables P 8796093022208 := hk.sub rfl
  repeat' first
    | intro _
    | with_reducible exact h
    | with_reducible assumption
    | with_reducible apply Inv.trim k0
    | with_reducible apply Inv.ite
    | with_reducible apply Inv.getD
    | with_reducible apply Inv.foldl
    | fail_if_no_progress (first | with_reducible refine Inv.lit hk ?_ | fail)
    | split
    | dsimp only
    | exact h

theorem Inv.logDone {P : State → Prop} (hk : Stables P 28587302387712) {t : State} (h : P t) (p lpn addr seq : Nat) : P (State.logDone t p lpn addr seq) := by
  unfold State.logDone
  have k0 : Stables P 8796093022208 := hk.sub rfl
  have k1 : Stables P 65536 := hk.sub rfl
  repeat' first
    | intro _
    | with_reducible exact h
    | with_reducible assumption
    | with_reducible apply Inv.changeMap k0
    | with_reducible apply Inv.setN k1
    | with_reducible apply Inv.ite
    | with_reducible apply Inv.mapD
    | with_reducible apply Inv.getD
    | fail_if_no_progress (first | with_reducible refine Inv.lit hk ?_ | fail)
    | split
    | dsimp only
    | exact h

theorem Inv.tallyReads {P : State → Prop} (hk : Stables P 4398046576640) {t : State} (h : P t) (k n reads retried beyond : Nat) : P (State.tallyReads t k n reads retried beyond) := by
  unfold State.tallyReads
  have k0 : Stables P 65536 := hk.sub rfl
  have k1 : Stables P 4398046511104 := hk.sub rfl
  repeat' first
    | intro _
    | with_reducible exact h
    | with_reducible assumption
    | with_reducible apply Inv.bump k0
    | with_reducible apply Inv.modDie k1
    | with_reducible apply Inv.ite
    | with_reducible apply Inv.getD
    | fail_if_no_progress (first | with_reducible refine Inv.lit hk ?_ | fail)
    | split
    | dsimp only
    | exact h

theorem Inv.putSys {P : State → Prop} (hk : Stables P 13194139533344) {t u : State} (h : P t) {typ key : Nat} {data : Bytes} (hu : State.putSys t typ key data = some u) : P u := by
  have k0 : Stables P 13194139533344 := hk.sub rfl
  unfold State.putSys at hu
  obtain ⟨k, -, hp⟩ := Option.bind_eq_some_iff.mp hu
  obtain ⟨x, hx, rfl⟩ := Option.map_eq_some_iff.mp hp
  exact Inv.lit hk (Inv.program k0 h hx)

theorem Inv.pageLost {P : State → Prop} (hk : Stables P 1139094080004128) {t : State} (h : P t) (lpn : Nat) : P (State.pageLost t lpn) := by
  have k0 : Stables P 1125899940470784 := hk.sub rfl
  have k1 : Stables P 8796093022208 := hk.sub rfl
  have k2 : Stables P 13194139533344 := hk.sub rfl
  unfold State.pageLost
  dsimp only
  split
  · exact Inv.segOut k0 h _ _
  · split
    · rename_i x hx
      exact Inv.changeMap k1 (Inv.programBy k2 h hx) _ _ _
    · exact h

theorem Inv.sysLost {P : State → Prop} (hk : Stables P 48378511622176) {t : State} (h : P t) (a : Nat) : P (State.sysLost t a) := by
  unfold State.sysLost
  have k0 : Stables P 13194139533344 := hk.sub rfl
  repeat' first
    | intro _
    | with_reducible exact h
    | with_reducible assumption
    | refine Inv.program k0 (hu := by assumption) ?_
    | refine Inv.programBy (hk.sub rfl) (hu := by assumption) ?_
    | with_reducible apply Inv.ite
    | with_reducible apply Inv.mapD
    | with_reducible apply Inv.getD
    | fail_if_no_progress (first | with_reducible refine Inv.lit hk ?_ | fail)
    | split
    | dsimp only
    | exact h

theorem Inv.unitLost {P : State → Prop} (hk : Stables P 1174278452092960) {t : State} (h : P t) (a : Nat) : P (State.unitLost t a) := by
  unfold State.unitLost
  have k0 : Stables P 48378511622176 := hk.sub rfl
  have k1 : Stables P 1139094080004128 := hk.sub rfl
  repeat' first
    | intro _
    | with_reducible exact h
    | with_reducible assumption
    | with_reducible apply Inv.sysLost k0
    | with_reducible apply Inv.pageLost k1
    | with_reducible apply Inv.ite
    | with_reducible apply Inv.getD
    | fail_if_no_progress (first | with_reducible refine Inv.lit hk ?_ | fail)
    | split
    | dsimp only
    | exact h

theorem Inv.execFlashRead {P : State → Prop} (hk : Stables P 1183339955994356686880) {t : State} (h : P t) (lpn sector : Nat) (out : FlashOut) (ones : List (Nat × Int)) (deps : List Nat) : Ends P (Sys2Proof.Machine.execFlashRead lpn sector out ones deps t) := by
  unfold Sys2Proof.Machine.execFlashRead
  have k0 : Stables P 4398046576640 := hk.sub rfl
  have k1 : Stables P 4398046511104 := hk.sub rfl
  have k2 : Stables P 33628160 := hk.sub rfl
  have k3 : Stables P 1183338816900310310912 := hk.sub rfl
  have k4 : Stables P 65536 := hk.sub rfl
  have k5 : Stables P 1139094080004128 := hk.sub rfl
  repeat' first
    | with_reducible apply Ends.next
    | with_reducible apply Ends.ite
    | intro _
    | with_reducible exact h
    | with_reducible assumption
    | with_reducible apply Inv.tallyReads k0
    | with_reducible apply Inv.modDie k1
    | with_reducible apply Inv.raise k2
    | with_reducible apply Inv.loseAll k3
    | with_reducible apply Inv.bump k4
    | with_reducible apply Inv.pageLost k5
    | with_reducible apply Inv.ite
    | with_reducible apply Inv.mapD
    | with_reducible apply Inv.getD
    | fail_if_no_progress (first | with_reducible refine Inv.lit hk ?_ | fail)
    | split
    | dsimp only
    | exact h

theorem Inv.waitSpace {P : State → Prop} (hk : Stables P 2199123992576) {t : State} (h : P t) : P (State.waitSpace t) := by
  unfold State.waitSpace
  have k0 : Stables P 100737024 := hk.sub rfl
  repeat' first
    | intro _
    | with_reducible exact h
    | with_reducible assumption
    | with_reducible apply Inv.raiseRun k0
    | with_reducible apply Inv.ite
    | with_reducible apply Inv.getD
    | fail_if_no_progress (first | with_reducible refine Inv.lit hk ?_ | fail)
    | split
    | dsimp only
    | exact h

theorem Inv.writeLogPage {P : State → Prop} (hk : Stables P 32985449570336) {t : State} (h : P t) (p : Nat) (ok : Bool) : P (State.writeLogPage t p ok) := by
  unfold State.writeLogPage
  have k0 : Stables P 13194139533344 := hk.sub rfl
  have k1 : Stables P 28587302387712 := hk.sub rfl
  have k2 : Stables P 4398080139264 := hk.sub rfl
  have k3 : Stables P 2199123992576 := hk.sub rfl
  repeat' first
    | intro _
    | with_reducible exact h
    | with_reducible assumption
    | refine Inv.program k0 (hu := by assumption) ?_
    | with_reducible apply Inv.logDone k1
    | with_reducible apply Inv.programFailed k2
    | with_reducible apply Inv.waitSpace k3
    | with_reducible apply Inv.ite
    | with_reducible apply Inv.getD
    | fail_if_no_progress (first | with_reducible refine Inv.lit hk ?_ | fail)
    | split
    | dsimp only
    | exact h

theorem Inv.journalDone {P : State → Prop} (hk : Stables P 8796093087744) {t : State} (h : P t) (l : List JEntry) (addr : Nat) : P (State.journalDone t l addr) := by
  unfold State.journalDone
  have k0 : Stables P 65536 := hk.sub rfl
  repeat' first
    | intro _
    | with_reducible exact h
    | with_reducible assumption
    | with_reducible apply Inv.setN k0
    | with_reducible apply Inv.ite
    | with_reducible apply Inv.getD
    | fail_if_no_progress (first | with_reducible refine Inv.lit hk ?_ | fail)
    | split
    | dsimp only
    | exact h

theorem Inv.writeJournal {P : State → Prop} (hk : Stables P 15393263525920) {t : State} (h : P t) (ok : Bool) : P (State.writeJournal t ok) := by
  unfold State.writeJournal
  have k0 : Stables P 2199123992576 := hk.sub rfl
  have k1 : Stables P 13194139533344 := hk.sub rfl
  have k2 : Stables P 8796093087744 := hk.sub rfl
  have k3 : Stables P 4398080139264 := hk.sub rfl
  repeat' first
    | intro _
    | with_reducible exact h
    | with_reducible assumption
    | with_reducible apply Inv.waitSpace k0
    | refine Inv.program k1 (hu := by assumption) ?_
    | with_reducible apply Inv.journalDone k2
    | with_reducible apply Inv.programFailed k3
    | with_reducible apply Inv.ite
    | with_reducible apply Inv.getD
    | fail_if_no_progress (first | with_reducible refine Inv.lit hk ?_ | fail)
    | split
    | dsimp only
    | exact h

theorem Inv.execLogWrite {P : State → Prop} (hk : Stables P 32985449570336) {t : State} (h : P t) (ok : Bool) : Ends P (Sys2Proof.Machine.execLogWrite ok t) := by
  unfold Sys2Proof.Machine.execLogWrite
  have k0 : Stables P 32985449570336 := hk.sub rfl
  have k1 : Stables P 15393263525920 := hk.sub rfl
  repeat' first
    | with_reducible apply Ends.next
    | with_reducible apply Ends.ite
    | intro _
    | with_reducible exact h
    | with_reducible assumption
    | with_reducible apply Inv.writeLogPage k0
    | with_reducible apply Inv.writeJournal k1
    | with_reducible apply Inv.ite
    | with_reducible apply Inv.getD
    | fail_if_no_progress (first | with_reducible refine Inv.lit hk ?_ | fail)
    | split
    | dsimp only
    | exact h

theorem Inv.execLogPageTimeout {P : State → Prop} (hk : Stables P 17592186044416) {t : State} (h : P t) : Ends P (Sys2Proof.Machine.execLogPageTimeout t) := by
  unfold Sys2Proof.Machine.execLogPageTimeout
  repeat' first
    | with_reducible apply Ends.next
    | with_reducible apply Ends.ite
    | intro _
    | with_reducible exact h
    | with_reducible assumption
    | with_reducible apply Inv.ite
    | with_reducible apply Inv.getD
    | fail_if_no_progress (first | with_reducible refine Inv.lit hk ?_ | fail)
    | split
    | dsimp only
    | exact h

theorem Inv.writeCkpt {P : State → Prop} (hk : Stables P 13194139533344) {t u : State} (h : P t) (hu : State.writeCkpt t = some u) : P u := by
  have k0 : Stables P 13194139533344 := hk.sub rfl
  unfold State.writeCkpt at hu
  obtain ⟨v, hv, rfl⟩ := Option.map_eq_some_iff.mp hu
  exact Inv.lit hk (Inv.putSys k0 h hv)

theorem Inv.writeCkpts {P : State → Prop} (hk : Stables P 13194139533344) {t : State} (h : P t) (n : Nat) : P (State.writeCkpts n t) := by
  have k0 : Stables P 13194139533344 := hk.sub rfl
  induction n generalizing t with
  | zero => exact h
  | succ n ih =>
    unfold State.writeCkpts
    exact Inv.mapD (fun x hx => ih (Inv.writeCkpt k0 h hx)) h

theorem Inv.execMapCheckpoint {P : State → Prop} (hk : Stables P 13194139533344) {t : State} (h : P t) (n : Nat) : Ends P (Sys2Proof.Machine.execMapCheckpoint n t) := by
  unfold Sys2Proof.Machine.execMapCheckpoint
  have k0 : Stables P 13194139533344 := hk.sub rfl
  repeat' first
    | with_reducible apply Ends.next
    | with_reducible apply Ends.ite
    | intro _
    | with_reducible exact h
    | with_reducible assumption
    | with_reducible apply Inv.writeCkpts k0
    | with_reducible apply Inv.ite
    | with_reducible apply Inv.getD
    | fail_if_no_progress (first | with_reducible refine Inv.lit hk ?_ | fail)
    | split
    | dsimp only
    | exact h

theorem Inv.writeUnit {P : State → Prop} (hk : Stables P 13194173161504) {t u : State} (h : P t) {lpn q : Nat} {data : Bytes} {fail : Option Nat}
    (hu : State.writeUnit t lpn q data fail = some u) : P u := by
  have k0 : Stables P 8796093022208 := hk.sub rfl
  have k1 : Stables P 13194139533344 := hk.sub rfl
  have k2 : Stables P 4398080139264 := hk.sub rfl
  unfold State.writeUnit at hu
  dsimp only at hu
  split at hu
  · cases hu
  · cases hu
    exact Inv.changeMap k0 (Inv.programBy k1 (u := (_, _)) h (by assumption)) _ _ _
  · cases hu
    refine Inv.mapD (fun x hx => Inv.changeMap k0 (Inv.programBy k1 ?_ hx) _ _ _) ?_
    all_goals exact Inv.programFailed k2 (Inv.programBy k1 (u := (_, _)) h (by assumption)) _ _

theorem Inv.writeUnits {P : State → Prop} (hk : Stables P 13194173161504) {t : State} (h : P t) (first : Nat) (image : Bytes) (fails : List (Nat × Bool)) (n q : Nat) :
    P (State.writeUnits first image fails n q t).1 := by
  have k0 : Stables P 13194173161504 := hk.sub rfl
  induction n generalizing t q with
  | zero => exact h
  | succ n ih =>
    unfold State.writeUnits
    dsimp only
    split
    · exact h
    · rename_i s1 he
      have h1 := Inv.writeUnit k0 h he
      split
      · exact ih h1 _
      · exact h1

theorem Inv.modJob {P : State → Prop} (hk : Stables P 1099511627776) {t : State} (h : P t) (slot : Nat) (comp : Bool) (f : SealJob → Option SealJob) : P (State.modJob t slot comp f) := by
  unfold State.modJob
  have k0 : Stables P 1099511627776 := hk.sub rfl
  repeat' first
    | intro _
    | with_reducible exact h
    | with_reducible assumption
    | with_reducible apply Inv.modShard k0
    | with_reducible apply Inv.ite
    | with_reducible apply Inv.getD
    | fail_if_no_progress (first | with_reducible refine Inv.lit hk ?_ | fail)
    | split
    | dsimp only
    | exact h

theorem Inv.writeImage {P : State → Prop} (hk : Stables P 30786359205920) {t u : State} (h : P t) {slot seg : Nat} {image : Bytes} {fails : List (Nat × Bool)}
    (hu : State.writeImage t slot seg image fails = some u) : P u := by
  have k0 : Stables P 13194173161504 := hk.sub rfl
  unfold State.writeImage at hu
  dsimp only at hu
  split at hu
  · cases hu
  · split at hu
    · cases hu
    · cases hu
      exact Inv.lit hk (Inv.writeUnits k0 h _ _ _ _ _)

theorem Inv.writeLoose {P : State → Prop} (hk : Stables P 31885870833696) {t : State} (h : P t) (slot : Nat) (h_ : Shard) (fails : List (Nat × Bool)) : P (State.writeLoose t slot h_ fails) := by
  unfold State.writeLoose
  have k0 : Stables P 30786359205920 := hk.sub rfl
  have k1 : Stables P 33628160 := hk.sub rfl
  have k2 : Stables P 1099511627776 := hk.sub rfl
  repeat' first
    | intro _
    | with_reducible exact h
    | with_reducible assumption
    | refine Inv.writeImage k0 (hu := by assumption) ?_
    | with_reducible apply Inv.raise k1
    | with_reducible apply Inv.modShard k2
    | with_reducible apply Inv.ite
    | with_reducible apply Inv.getD
    | fail_if_no_progress (first | with_reducible refine Inv.lit hk ?_ | fail)
    | split
    | dsimp only
    | exact h

theorem Inv.execImageWrite {P : State → Prop} (hk : Stables P 31885870833696) {t : State} (h : P t) (slot : Nat) (comp : Bool) (fails : List (Nat × Bool)) : Ends P (Sys2Proof.Machine.execImageWrite slot comp fails t) := by
  unfold Sys2Proof.Machine.execImageWrite
  have k0 : Stables P 31885870833696 := hk.sub rfl
  have k1 : Stables P 30786359205920 := hk.sub rfl
  have k2 : Stables P 26388279066624 := hk.sub rfl
  have k3 : Stables P 33628160 := hk.sub rfl
  have k4 : Stables P 33628160 := hk.sub rfl
  have k5 : Stables P 1099511627776 := hk.sub rfl
  have k6 : Stables P 1099511627776 := hk.sub rfl
  repeat' first
    | with_reducible apply Ends.next
    | with_reducible apply Ends.ite
    | intro _
    | with_reducible exact h
    | with_reducible assumption
    | with_reducible apply Inv.writeLoose k0
    | refine Inv.writeImage k1 (hu := by assumption) ?_
    | with_reducible apply Inv.dropExtent k2
    | with_reducible apply Inv.raise k3
    | with_reducible apply Inv.evU k4
    | with_reducible apply Inv.modShard k5
    | with_reducible apply Inv.modJob k6
    | with_reducible apply Inv.ite
    | with_reducible apply Inv.getD
    | fail_if_no_progress (first | with_reducible refine Inv.lit hk ?_ | fail)
    | split
    | dsimp only
    | exact h

theorem Inv.gcClose {P : State → Prop} (hk : Stables P 13194139533312) {t : State} (h : P t) (k : Nat) (j : GcJob) : P (State.gcClose t k j).1 := by
  unfold State.gcClose
  have k0 : Stables P 4398046511104 := hk.sub rfl
  have k1 : Stables P 8796093022208 := hk.sub rfl
  repeat' first
    | intro _
    | with_reducible exact h
    | with_reducible assumption
    | with_reducible apply Inv.modDie k0
    | with_reducible apply Inv.changeMap k1
    | with_reducible apply Inv.ite
    | with_reducible apply Inv.mapD
    | with_reducible apply Inv.getD
    | with_reducible apply Inv.foldl
    | with_reducible apply Inv.foldFst
    | with_reducible apply Inv.foldSnd
    | fail_if_no_progress (first | with_reducible refine Inv.lit hk ?_ | fail)
    | split
    | dsimp only
    | exact h

theorem Inv.gcFail {P : State → Prop} (hk : Stables P 4398080139264) {t : State} (h : P t) (k : Nat) (j : GcJob) (event : Nat) : P (State.gcFail t k j event).1 := by
  unfold State.gcFail
  have k0 : Stables P 65536 := hk.sub rfl
  have k1 : Stables P 33628160 := hk.sub rfl
  have k2 : Stables P 4398080139264 := hk.sub rfl
  repeat' first
    | intro _
    | with_reducible exact h
    | with_reducible assumption
    | with_reducible apply Inv.bump k0
    | with_reducible apply Inv.raise k1
    | with_reducible apply Inv.retire k2
    | with_reducible apply Inv.ite
    | with_reducible apply Inv.getD
    | fail_if_no_progress (first | with_reducible refine Inv.lit hk ?_ | fail)
    | split
    | dsimp only
    | exact h

theorem Inv.gcOpen {P : State → Prop} (hk : Stables P 4398046511104) {t : State} (h : P t) {k : Nat} {slc : Bool} {j : GcJob} {u : State × GcJob}
    (hu : State.gcOpen t k slc j = some u) : P u.1 := by
  have k0 : Stables P 4398046511104 := hk.sub rfl
  unfold State.gcOpen at hu
  split at hu
  · cases hu; exact h
  · obtain ⟨d, -, hu⟩ := Option.bind_eq_some_iff.mp hu
    obtain ⟨n, -, rfl⟩ := Option.map_eq_some_iff.mp hu
    exact Inv.modDie k0 h _ _

theorem Inv.gcCopy1 {P : State → Prop} (hk : Stables P 13194139598880) {t : State} (h : P t) (k t_ : Nat) (slc : Bool) (j : GcJob) (u_ : Nat × Nat) : P (State.gcCopy1 t k t_ slc j u_).1 := by
  unfold State.gcCopy1
  have k0 : Stables P 32 := hk.sub rfl
  have k1 : Stables P 13194139533312 := hk.sub rfl
  have k2 : Stables P 65536 := hk.sub rfl
  have k3 : Stables P 13194139533312 := hk.sub rfl
  repeat' first
    | intro _
    | with_reducible exact h
    | with_reducible assumption
    | with_reducible apply Inv.dieRan k0
    | with_reducible apply Inv.programIn k1
    | with_reducible apply Inv.bump k2
    | with_reducible apply Inv.gcClose k3
    | with_reducible apply Inv.ite
    | with_reducible apply Inv.mapD
    | with_reducible apply Inv.getD
    | fail_if_no_progress (first | with_reducible refine Inv.lit hk ?_ | fail)
    | split
    | dsimp only
    | exact h

theorem Inv.gcRun {P : State → Prop} (hk : Stables P 13194240270368) {t : State} (h : P t) (k : Nat) (slc : Bool) (stop : Option Nat) (n : Nat) (j : GcJob) :
    P (State.gcRun k slc stop n t j).1 := by
  have k0 : Stables P 13194139533312 := hk.sub rfl
  have k1 : Stables P 100737024 := hk.sub rfl
  have k2 : Stables P 4398046511104 := hk.sub rfl
  have k3 : Stables P 13194139598880 := hk.sub rfl
  induction n generalizing t j with
  | zero => exact h
  | succ n ih =>
    unfold State.gcRun
    split
    · exact Inv.gcClose k0 h _ _
    · split
      · exact Inv.gcClose k0 h _ _
      · split
        · exact h
        · split
          · exact Inv.raiseRun k1 h _ _ _ _ _
          · rename_i s1 j1 he
            have h1 := Inv.gcOpen k2 (u := (s1, j1)) h he
            split
            · exact h1
            · exact ih (Inv.gcCopy1 k3 h1 _ _ _ _ _) _

theorem Inv.emptyVictim {P : State → Prop} (hk : Stables P 4398046511104) {t : State} (h : P t) (k n : Nat) : P (State.emptyVictim t k n) := by
  unfold State.emptyVictim
  have k0 : Stables P 4398046511104 := hk.sub rfl
  repeat' first
    | intro _
    | with_reducible exact h
    | with_reducible assumption
    | with_reducible apply Inv.modDie k0
    | with_reducible apply Inv.ite
    | with_reducible apply Inv.getD
    | fail_if_no_progress (first | with_reducible refine Inv.lit hk ?_ | fail)
    | split
    | dsimp only
    | exact h

theorem Inv.gcErase {P : State → Prop} (hk : Stables P 4398080139264) {t : State} (h : P t) (k : Nat) (fails : Bool) : P (State.gcErase t k fails) := by
  unfold State.gcErase
  have k0 : Stables P 4398080139264 := hk.sub rfl
  have k1 : Stables P 33628160 := hk.sub rfl
  have k2 : Stables P 4398080139264 := hk.sub rfl
  repeat' first
    | intro _
    | with_reducible exact h
    | with_reducible assumption
    | with_reducible apply Inv.eraseBlk k0
    | with_reducible apply Inv.raise k1
    | with_reducible apply Inv.retireBlk k2
    | with_reducible apply Inv.ite
    | with_reducible apply Inv.mapD
    | with_reducible apply Inv.getD
    | with_reducible apply Inv.foldl
    | fail_if_no_progress (first | with_reducible refine Inv.lit hk ?_ | fail)
    | split
    | dsimp only
    | exact h

theorem Inv.gcGo {P : State → Prop} (hk : Stables P 1174278519201824) {t : State} (h : P t) (k : Nat) (d : Die) (out : GcOut) (j : GcJob) : P (State.gcGo t k d out j) := by
  have k0 : Stables P 13194240270368 := hk.sub rfl
  have k1 : Stables P 4398046511104 := hk.sub rfl
  have k2 : Stables P 4398080139264 := hk.sub rfl
  have k3 : Stables P 4398046511104 := hk.sub rfl
  have k4 : Stables P 1174278452092960 := hk.sub rfl
  have k5 : Stables P 33628160 := hk.sub rfl
  have k6 : Stables P 65536 := hk.sub rfl
  have k7 : Stables P 4398046511104 := hk.sub rfl
  have k8 : Stables P 65536 := hk.sub rfl
  have fails : ∀ ev, P (((State.gcOpen t k (d.blk j.victim).slc j).map fun x => x.1.gcFail k x.2 ev).getD (t, j)).1 := by
    intro ev
    cases he : State.gcOpen t k (d.blk j.victim).slc j with
    | none => exact h
    | some x => exact Inv.gcFail k2 (Inv.gcOpen k1 h he) _ _ _
  unfold State.gcGo
  extract_lets slc start stop x keep_
  have hs1 : P start.1 := by
    dsimp only [start]
    split
    all_goals first
      | exact fails _
      | exact h
  have hx : P x.1 := Inv.gcRun k0 hs1 k slc stop (d.units + d.units) start.2
  clear_value x stop
  have keep : ∀ g : Option GcJob, P (keep_ x.1 g) := fun g => Inv.modDie k3 hx _ _
  split
  · exact keep _
  · split
    · exact Inv.unitLost k4 (Inv.raise k5 (Inv.bump k6 (keep _) _ _ _) _ _ _) _
    · exact Inv.emptyVictim k7 (keep _) _ _
  · exact Inv.emptyVictim k7 (Inv.ite (Inv.useGrant k8 (keep _) _) (keep _)) _ _

theorem Inv.execGcCopy {P : State → Prop} (hk : Stables P 1174278519201824) {t : State} (h : P t) (die : Nat) (out : GcOut) : Ends P (Sys2Proof.Machine.execGcCopy die out t) := by
  unfold Sys2Proof.Machine.execGcCopy
  have k0 : Stables P 4398080139264 := hk.sub rfl
  have k1 : Stables P 1174278519201824 := hk.sub rfl
  repeat' first
    | with_reducible apply Ends.next
    | with_reducible apply Ends.ite
    | intro _
    | with_reducible exact h
    | with_reducible assumption
    | with_reducible apply Inv.gcErase k0
    | with_reducible apply Inv.gcGo k1
    | with_reducible apply Inv.ite
    | with_reducible apply Inv.mapD
    | with_reducible apply Inv.getD
    | fail_if_no_progress (first | with_reducible refine Inv.lit hk ?_ | fail)
    | split
    | dsimp only
    | exact h

theorem Inv.warn {P : State → Prop} (hk : Stables P 70368777805824) {t : State} (h : P t) (i event : Nat) (on : Bool) : P (State.warn t i event on) := by
  unfold State.warn
  have k0 : Stables P 33628160 := hk.sub rfl
  repeat' first
    | intro _
    | with_reducible exact h
    | with_reducible assumption
    | with_reducible apply Inv.raise k0
    | with_reducible apply Inv.ite
    | with_reducible apply Inv.getD
    | fail_if_no_progress (first | with_reducible refine Inv.lit hk ?_ | fail)
    | split
    | dsimp only
    | exact h

theorem Inv.health {P : State → Prop} (hk : Stables P 70368777805824) {t : State} (h : P t) : P (State.health t) := by
  unfold State.health
  have k0 : Stables P 70368777805824 := hk.sub rfl
  repeat' first
    | intro _
    | with_reducible exact h
    | with_reducible assumption
    | with_reducible apply Inv.warn k0
    | with_reducible apply Inv.ite
    | with_reducible apply Inv.getD
    | fail_if_no_progress (first | with_reducible refine Inv.lit hk ?_ | fail)
    | split
    | dsimp only
    | exact h

theorem Inv.scrubbed {P : State → Prop} (hk : Stables P 1174278452092960) {t : State} (h : P t) (k : Nat) (r : ScrubRead) : P (State.scrubbed t k r) := by
  unfold State.scrubbed
  have k0 : Stables P 4398046576640 := hk.sub rfl
  have k1 : Stables P 4398046511104 := hk.sub rfl
  have k2 : Stables P 65536 := hk.sub rfl
  have k3 : Stables P 33628160 := hk.sub rfl
  have k4 : Stables P 1174278452092960 := hk.sub rfl
  repeat' first
    | intro _
    | with_reducible exact h
    | with_reducible assumption
    | with_reducible apply Inv.tallyReads k0
    | with_reducible apply Inv.modDie k1
    | with_reducible apply Inv.bump k2
    | with_reducible apply Inv.raise k3
    | with_reducible apply Inv.unitLost k4
    | with_reducible apply Inv.ite
    | with_reducible apply Inv.mapD
    | with_reducible apply Inv.getD
    | with_reducible apply Inv.foldl
    | fail_if_no_progress (first | with_reducible refine Inv.lit hk ?_ | fail)
    | split
    | dsimp only
    | exact h

theorem Inv.weakBlk {P : State → Prop} (hk : Stables P 4398080139264) {t : State} (h : P t) (k n : Nat) : P (State.weakBlk t k n) := by
  unfold State.weakBlk
  have k0 : Stables P 4398046511104 := hk.sub rfl
  have k1 : Stables P 33628160 := hk.sub rfl
  repeat' first
    | intro _
    | with_reducible exact h
    | with_reducible assumption
    | with_reducible apply Inv.modDie k0
    | with_reducible apply Inv.raise k1
    | with_reducible apply Inv.ite
    | with_reducible apply Inv.getD
    | fail_if_no_progress (first | with_reducible refine Inv.lit hk ?_ | fail)
    | split
    | dsimp only
    | exact h

theorem Inv.execFlashScrub {P : State → Prop} (hk : Stables P 1244647196270624) {t : State} (h : P t) (die : Nat) (found : List ScrubRead) : Ends P (Sys2Proof.Machine.execFlashScrub die found t) := by
  unfold Sys2Proof.Machine.execFlashScrub
  have k0 : Stables P 1174278452092960 := hk.sub rfl
  have k1 : Stables P 32 := hk.sub rfl
  have k2 : Stables P 4398080139264 := hk.sub rfl
  have k3 : Stables P 70368777805824 := hk.sub rfl
  repeat' first
    | with_reducible apply Ends.next
    | with_reducible apply Ends.ite
    | intro _
    | with_reducible exact h
    | with_reducible assumption
    | with_reducible apply Inv.scrubbed k0
    | with_reducible apply Inv.dieRan k1
    | with_reducible apply Inv.weakBlk k2
    | with_reducible apply Inv.health k3
    | with_reducible apply Inv.ite
    | with_reducible apply Inv.getD
    | with_reducible apply Inv.foldl
    | fail_if_no_progress (first | with_reducible refine Inv.lit hk ?_ | fail)
    | split
    | dsimp only
    | exact h

theorem Inv.channelOut {P : State → Prop} (hk : Stables P 1130297986981888) {t : State} (h : P t) (c : Nat) (ks : List Nat) : P (State.channelOut t c ks) := by
  unfold State.channelOut
  have k0 : Stables P 65536 := hk.sub rfl
  have k1 : Stables P 33628160 := hk.sub rfl
  have k2 : Stables P 1125899940470784 := hk.sub rfl
  repeat' first
    | intro _
    | with_reducible exact h
    | with_reducible assumption
    | with_reducible apply Inv.setN k0
    | with_reducible apply Inv.raise k1
    | with_reducible apply Inv.segsOutOn k2
    | with_reducible apply Inv.ite
    | with_reducible apply Inv.getD
    | with_reducible apply Inv.foldl
    | with_reducible apply Inv.foldFst
    | with_reducible apply Inv.foldSnd
    | fail_if_no_progress (first | with_reducible refine Inv.lit hk ?_ | fail)
    | split
    | dsimp only
    | exact h

theorem Inv.execFlashDieLoss {P : State → Prop} (hk : Stables P 1130297986981888) {t : State} (h : P t) (die : Nat) : Ends P (Sys2Proof.Machine.execFlashDieLoss die t) := by
  unfold Sys2Proof.Machine.execFlashDieLoss
  have k0 : Stables P 1130297986981888 := hk.sub rfl
  repeat' first
    | with_reducible apply Ends.next
    | with_reducible apply Ends.ite
    | intro _
    | with_reducible exact h
    | with_reducible assumption
    | with_reducible apply Inv.channelOut k0
    | with_reducible apply Inv.ite
    | with_reducible apply Inv.getD
    | fail_if_no_progress (first | with_reducible refine Inv.lit hk ?_ | fail)
    | split
    | dsimp only
    | exact h

theorem Inv.execNandRailOvercurrent {P : State → Prop} (hk : Stables P 1130297986981888) {t : State} (h : P t) (chan : Nat) : Ends P (Sys2Proof.Machine.execNandRailOvercurrent chan t) := by
  unfold Sys2Proof.Machine.execNandRailOvercurrent
  have k0 : Stables P 1130297986981888 := hk.sub rfl
  repeat' first
    | with_reducible apply Ends.next
    | with_reducible apply Ends.ite
    | intro _
    | with_reducible exact h
    | with_reducible assumption
    | with_reducible apply Inv.channelOut k0
    | with_reducible apply Inv.ite
    | with_reducible apply Inv.getD
    | fail_if_no_progress (first | with_reducible refine Inv.lit hk ?_ | fail)
    | split
    | dsimp only
    | exact h

theorem Inv.flashFigures {P : State → Prop} (hk : Stables P 65536) {t : State} (h : P t) : P (State.flashFigures t) := by
  unfold State.flashFigures
  have k0 : Stables P 65536 := hk.sub rfl
  repeat' first
    | intro _
    | with_reducible exact h
    | with_reducible assumption
    | with_reducible apply Inv.setN k0
    | with_reducible apply Inv.ite
    | with_reducible apply Inv.mapD
    | with_reducible apply Inv.getD
    | with_reducible apply Inv.foldl
    | fail_if_no_progress (first | with_reducible refine Inv.lit hk ?_ | fail)
    | split
    | dsimp only
    | exact h

end Sys2Proof.Machine
end

