-- ==== Sys2Proof/Laws/KeepsUpdates.lean ====
section
/-! SUPPORT. What the operations of Machine/Updates.lean leave as it is: one lemma for each. -/

set_option linter.unusedTactic false
set_option linter.unreachableTactic false
set_option linter.unusedVariables false

namespace Sys2Proof.Machine
set_option Elab.async false

theorem Inv.chargeLog {P : State → Prop} (hk : Stables P 2199023255552) {t : State} (h : P t) (slot kind usn : Nat) (b : Bytes) : P (State.chargeLog t slot kind usn b) := by
  unfold State.chargeLog
  repeat' first
    | intro _
    | with_reducible exact h
    | with_reducible assumption
    | with_reducible apply Inv.ite
    | with_reducible apply Inv.getD
    | fail_if_no_progress (first | with_reducible refine Inv.lit hk ?_ | fail)
    | split
    | dsimp only
    | exact h

theorem Inv.sendImage {P : State → Prop} (hk : Stables P 288230376185339904) {t : State} (h : P t) (h_ : Shard) (p : Partner) (rec_ : Bytes) : P (State.sendImage t h_ p rec_) := by
  unfold State.sendImage
  have k0 : Stables P 288230376185339904 := hk.sub rfl
  repeat' first
    | intro _
    | with_reducible exact h
    | with_reducible assumption
    | with_reducible apply Inv.sendPeer k0
    | with_reducible apply Inv.ite
    | with_reducible apply Inv.getD
    | with_reducible apply Inv.foldl
    | fail_if_no_progress (first | with_reducible refine Inv.lit hk ?_ | fail)
    | split
    | dsimp only
    | exact h

theorem Inv.sendRecord {P : State → Prop} (hk : Stables P 288230376185339904) {t : State} (h : P t) (h_ : Shard) (p : Partner) (r : LogRec) : P (State.sendRecord t h_ p r) := by
  unfold State.sendRecord
  have k0 : Stables P 288230376185339904 := hk.sub rfl
  have k1 : Stables P 288230376185339904 := hk.sub rfl
  repeat' first
    | intro _
    | with_reducible exact h
    | with_reducible assumption
    | with_reducible apply Inv.sendPeer k0
    | with_reducible apply Inv.sendImage k1
    | with_reducible apply Inv.ite
    | with_reducible apply Inv.getD
    | fail_if_no_progress (first | with_reducible refine Inv.lit hk ?_ | fail)
    | split
    | dsimp only
    | exact h

theorem Inv.sendOwed {P : State → Prop} (hk : Stables P 288231475696967680) {t : State} (h : P t) (slot : Nat) : P (State.sendOwed t slot) := by
  unfold State.sendOwed
  have k0 : Stables P 288230376185339904 := hk.sub rfl
  have k1 : Stables P 1099511627776 := hk.sub rfl
  repeat' first
    | intro _
    | with_reducible exact h
    | with_reducible assumption
    | with_reducible apply Inv.sendRecord k0
    | with_reducible apply Inv.modShard k1
    | with_reducible apply Inv.ite
    | with_reducible apply Inv.getD
    | with_reducible apply Inv.foldl
    | fail_if_no_progress (first | with_reducible refine Inv.lit hk ?_ | fail)
    | split
    | dsimp only
    | exact h

theorem Inv.appendLog {P : State → Prop} (hk : Stables P 288233674720223232) {t : State} (h : P t) (slot kind usn : Nat) (body : Bytes) : P (State.appendLog t slot kind usn body) := by
  unfold State.appendLog
  have k0 : Stables P 2199023255552 := hk.sub rfl
  have k1 : Stables P 33628160 := hk.sub rfl
  have k2 : Stables P 288231475696967680 := hk.sub rfl
  repeat' first
    | intro _
    | with_reducible exact h
    | with_reducible assumption
    | with_reducible apply Inv.chargeLog k0
    | with_reducible apply Inv.raise k1
    | with_reducible apply Inv.sendOwed k2
    | with_reducible apply Inv.ite
    | with_reducible apply Inv.getD
    | with_reducible apply Inv.foldl
    | fail_if_no_progress (first | with_reducible refine Inv.lit hk ?_ | fail)
    | split
    | dsimp only
    | exact h

theorem Inv.oweAgain {P : State → Prop} (hk : Stables P 1099511627776) {t : State} (h : P t) (port : Nat) : P (State.oweAgain t port) := by
  unfold State.oweAgain
  repeat' first
    | intro _
    | with_reducible exact h
    | with_reducible assumption
    | with_reducible apply Inv.ite
    | with_reducible apply Inv.getD
    | fail_if_no_progress (first | with_reducible refine Inv.lit hk ?_ | fail)
    | split
    | dsimp only
    | exact h

theorem Inv.applyUpdate {P : State → Prop} (hk : Stables P 2112161870585856) {t : State} (h : P t) (slot : Nat) (d : Bytes) (u_ : Nat) : P (State.applyUpdate t slot d u_) := by
  unfold State.applyUpdate
  have k0 : Stables P 1099511627776 := hk.sub rfl
  have k1 : Stables P 140737488355328 := hk.sub rfl
  have k2 : Stables P 2111062358958080 := hk.sub rfl
  repeat' first
    | intro _
    | with_reducible exact h
    | with_reducible assumption
    | with_reducible apply Inv.modShard k0
    | refine Inv.growDelta k1 (hu := by assumption) ?_
    | with_reducible apply Inv.touchAt k2
    | with_reducible apply Inv.ite
    | with_reducible apply Inv.mapD
    | with_reducible apply Inv.getD
    | with_reducible apply Inv.foldl
    | fail_if_no_progress (first | with_reducible refine Inv.lit hk ?_ | fail)
    | split
    | dsimp only
    | exact h

theorem Inv.ownUpdate {P : State → Prop} (hk : Stables P 290344754225422336) {t : State} (h : P t) (tag op : Nat) : P (State.ownUpdate t tag op) := by
  unfold State.ownUpdate
  have k0 : Stables P 2112161870585856 := hk.sub rfl
  have k1 : Stables P 288233674720223232 := hk.sub rfl
  have k2 : Stables P 65536 := hk.sub rfl
  have k3 : Stables P 17179869184 := hk.sub rfl
  repeat' first
    | intro _
    | with_reducible exact h
    | with_reducible assumption
    | with_reducible apply Inv.applyUpdate k0
    | with_reducible apply Inv.appendLog k1
    | with_reducible apply Inv.setN k2
    | with_reducible apply Inv.modWork k3
    | with_reducible apply Inv.ite
    | with_reducible apply Inv.getD
    | fail_if_no_progress (first | with_reducible refine Inv.lit hk ?_ | fail)
    | split
    | dsimp only
    | exact h

theorem Inv.execInsert {P : State → Prop} (hk : Stables P 290344754225422336) {t : State} (h : P t) (tag : Nat) : Ends P (Sys2Proof.Machine.execInsert tag t) := by
  unfold Sys2Proof.Machine.execInsert
  have k0 : Stables P 290344754225422336 := hk.sub rfl
  repeat' first
    | with_reducible apply Ends.next
    | with_reducible apply Ends.ite
    | intro _
    | with_reducible exact h
    | with_reducible assumption
    | with_reducible apply Inv.ownUpdate k0
    | with_reducible apply Inv.ite
    | with_reducible apply Inv.getD
    | fail_if_no_progress (first | with_reducible refine Inv.lit hk ?_ | fail)
    | split
    | dsimp only
    | exact h

theorem Inv.execDelete {P : State → Prop} (hk : Stables P 290344754225422336) {t : State} (h : P t) (tag : Nat) : Ends P (Sys2Proof.Machine.execDelete tag t) := by
  unfold Sys2Proof.Machine.execDelete
  have k0 : Stables P 290344754225422336 := hk.sub rfl
  repeat' first
    | with_reducible apply Ends.next
    | with_reducible apply Ends.ite
    | intro _
    | with_reducible exact h
    | with_reducible assumption
    | with_reducible apply Inv.ownUpdate k0
    | with_reducible apply Inv.ite
    | with_reducible apply Inv.getD
    | fail_if_no_progress (first | with_reducible refine Inv.lit hk ?_ | fail)
    | split
    | dsimp only
    | exact h

theorem Inv.execReplace {P : State → Prop} (hk : Stables P 290344754225422336) {t : State} (h : P t) (tag : Nat) : Ends P (Sys2Proof.Machine.execReplace tag t) := by
  unfold Sys2Proof.Machine.execReplace
  have k0 : Stables P 290344754225422336 := hk.sub rfl
  repeat' first
    | with_reducible apply Ends.next
    | with_reducible apply Ends.ite
    | intro _
    | with_reducible exact h
    | with_reducible assumption
    | with_reducible apply Inv.ownUpdate k0
    | with_reducible apply Inv.ite
    | with_reducible apply Inv.getD
    | fail_if_no_progress (first | with_reducible refine Inv.lit hk ?_ | fail)
    | split
    | dsimp only
    | exact h

theorem Inv.applyWaiting {P : State → Prop} (hk : Stables P 290344754225422336) {t : State} (h : P t) : P (State.applyWaiting t) := by
  unfold State.applyWaiting
  have k0 : Stables P 290344754225422336 := hk.sub rfl
  repeat' first
    | intro _
    | with_reducible exact h
    | with_reducible assumption
    | with_reducible apply Inv.ownUpdate k0
    | with_reducible apply Inv.ite
    | with_reducible apply Inv.getD
    | with_reducible apply Inv.foldl
    | fail_if_no_progress (first | with_reducible refine Inv.lit hk ?_ | fail)
    | split
    | dsimp only
    | exact h

theorem Inv.settleMirror {P : State → Prop} (hk : Stables P 4294967296) {t : State} (h : P t) : P (State.settleMirror t) := by
  unfold State.settleMirror
  have k0 : Stables P 4294967296 := hk.sub rfl
  repeat' first
    | intro _
    | with_reducible exact h
    | with_reducible assumption
    | with_reducible apply Inv.modFar k0
    | with_reducible apply Inv.ite
    | with_reducible apply Inv.getD
    | with_reducible apply Inv.foldl
    | fail_if_no_progress (first | with_reducible refine Inv.lit hk ?_ | fail)
    | split
    | dsimp only
    | exact h

theorem Inv.execLogAck {P : State → Prop} (hk : Stables P 1103806595072) {t : State} (h : P t) (port shard usn : Nat) : Ends P (Sys2Proof.Machine.execLogAck port shard usn t) := by
  unfold Sys2Proof.Machine.execLogAck
  have k0 : Stables P 1099511627776 := hk.sub rfl
  have k1 : Stables P 4294967296 := hk.sub rfl
  repeat' first
    | with_reducible apply Ends.next
    | with_reducible apply Ends.ite
    | intro _
    | with_reducible exact h
    | with_reducible assumption
    | with_reducible apply Inv.modShard k0
    | with_reducible apply Inv.settleMirror k1
    | with_reducible apply Inv.ite
    | with_reducible apply Inv.getD
    | fail_if_no_progress (first | with_reducible refine Inv.lit hk ?_ | fail)
    | split
    | dsimp only
    | exact h

theorem Inv.execLogResend {P : State → Prop} (hk : Stables P 288230376185339904) {t : State} (h : P t) (port shard usn : Nat) : Ends P (Sys2Proof.Machine.execLogResend port shard usn t) := by
  unfold Sys2Proof.Machine.execLogResend
  have k0 : Stables P 288230376151711744 := hk.sub rfl
  have k1 : Stables P 33628160 := hk.sub rfl
  repeat' first
    | with_reducible apply Ends.next
    | with_reducible apply Ends.ite
    | intro _
    | with_reducible exact h
    | with_reducible assumption
    | with_reducible apply Inv.sendHedge k0
    | with_reducible apply Inv.evU k1
    | with_reducible apply Inv.ite
    | with_reducible apply Inv.getD
    | with_reducible apply Inv.foldl
    | fail_if_no_progress (first | with_reducible refine Inv.lit hk ?_ | fail)
    | split
    | dsimp only
    | exact h

theorem Inv.takeRecord {P : State → Prop} (hk : Stables P 3298534883328) {t : State} (h : P t) (slot : Nat) (b : Bytes) : P (State.takeRecord t slot b) := by
  unfold State.takeRecord
  have k0 : Stables P 2199023255552 := hk.sub rfl
  have k1 : Stables P 1099511627776 := hk.sub rfl
  repeat' first
    | intro _
    | with_reducible exact h
    | with_reducible assumption
    | with_reducible apply Inv.chargeLog k0
    | with_reducible apply Inv.modShard k1
    | with_reducible apply Inv.ite
    | with_reducible apply Inv.getD
    | fail_if_no_progress (first | with_reducible refine Inv.lit hk ?_ | fail)
    | split
    | dsimp only
    | exact h

theorem Inv.takeHeld {P : State → Prop} (hk : Stables P 3298534883328) {t : State} (h : P t) (slot : Nat) (r_ : Nat) : P (State.takeHeld t slot r_) := by
  have k0 : Stables P 3298534883328 := hk.sub rfl
  have k1 : Stables P 1099511627776 := hk.sub rfl
  induction r_ generalizing t slot with
  | zero => simpa only [State.takeHeld] using h
  | succ n_ ih =>
    unfold State.takeHeld
    repeat' first
    | intro _
    | with_reducible exact h
    | with_reducible assumption
    | with_reducible apply ih
    | with_reducible apply Inv.takeRecord k0
    | with_reducible apply Inv.modShard k1
    | with_reducible apply Inv.ite
    | split
    | fail_if_no_progress (first | with_reducible refine Inv.lit hk ?_ | fail)
    | dsimp only

theorem Inv.execLogRecords {P : State → Prop} (hk : Stables P 288233674720223232) {t : State} (h : P t) (port : Nat) (body : Bytes) : Ends P (Sys2Proof.Machine.execLogRecords port body t) := by
  unfold Sys2Proof.Machine.execLogRecords
  have k0 : Stables P 288230376151711744 := hk.sub rfl
  have k1 : Stables P 1099511627776 := hk.sub rfl
  have k2 : Stables P 3298534883328 := hk.sub rfl
  have k3 : Stables P 3298534883328 := hk.sub rfl
  have k4 : Stables P 33628160 := hk.sub rfl
  repeat' first
    | with_reducible apply Ends.next
    | with_reducible apply Ends.ite
    | intro _
    | with_reducible exact h
    | with_reducible assumption
    | with_reducible apply Inv.sendHedge k0
    | with_reducible apply Inv.modShard k1
    | with_reducible apply Inv.takeRecord k2
    | with_reducible apply Inv.takeHeld k3
    | with_reducible apply Inv.evU k4
    | with_reducible apply Inv.ite
    | with_reducible apply Inv.mapD
    | with_reducible apply Inv.getD
    | with_reducible apply Inv.foldl
    | fail_if_no_progress (first | with_reducible refine Inv.lit hk ?_ | fail)
    | split
    | dsimp only
    | exact h

theorem Inv.openDelta {P : State → Prop} (hk : Stables P 1099511627776) {t : State} (h : P t) (slot n : Nat) (cb : Bytes) : P (State.openDelta t slot n cb) := by
  unfold State.openDelta
  have k0 : Stables P 1099511627776 := hk.sub rfl
  repeat' first
    | intro _
    | with_reducible exact h
    | with_reducible assumption
    | with_reducible apply Inv.modShard k0
    | with_reducible apply Inv.ite
    | with_reducible apply Inv.getD
    | fail_if_no_progress (first | with_reducible refine Inv.lit hk ?_ | fail)
    | split
    | dsimp only
    | exact h

theorem Inv.doDeltaOpen {P : State → Prop} (hk : Stables P 1099511627776) {t : State} (h : P t) (slot : Nat) : P (State.doDeltaOpen t slot) := by
  unfold State.doDeltaOpen
  have k0 : Stables P 1099511627776 := hk.sub rfl
  repeat' first
    | intro _
    | with_reducible exact h
    | with_reducible assumption
    | with_reducible apply Inv.openDelta k0
    | with_reducible apply Inv.ite
    | with_reducible apply Inv.getD
    | fail_if_no_progress (first | with_reducible refine Inv.lit hk ?_ | fail)
    | split
    | dsimp only
    | exact h

theorem Inv.freezeAt {P : State → Prop} (hk : Stables P 1099511627776) {t : State} (h : P t) (slot n : Nat) (cb : Bytes) (f : Nat) : P (State.freezeAt t slot n cb f) := by
  unfold State.freezeAt
  have k0 : Stables P 1099511627776 := hk.sub rfl
  have k1 : Stables P 1099511627776 := hk.sub rfl
  repeat' first
    | intro _
    | with_reducible exact h
    | with_reducible assumption
    | with_reducible apply Inv.openDelta k0
    | with_reducible apply Inv.modShard k1
    | with_reducible apply Inv.ite
    | with_reducible apply Inv.getD
    | fail_if_no_progress (first | with_reducible refine Inv.lit hk ?_ | fail)
    | split
    | dsimp only
    | exact h

theorem Inv.doSealFreeze {P : State → Prop} (hk : Stables P 288233674720223232) {t : State} (h : P t) (slot : Nat) : P (State.doSealFreeze t slot) := by
  unfold State.doSealFreeze
  have k0 : Stables P 1099511627776 := hk.sub rfl
  have k1 : Stables P 288233674720223232 := hk.sub rfl
  repeat' first
    | intro _
    | with_reducible exact h
    | with_reducible assumption
    | with_reducible apply Inv.freezeAt k0
    | with_reducible apply Inv.appendLog k1
    | with_reducible apply Inv.ite
    | with_reducible apply Inv.getD
    | fail_if_no_progress (first | with_reducible refine Inv.lit hk ?_ | fail)
    | split
    | dsimp only
    | exact h

theorem Inv.buildPart {P : State → Prop} (hk : Stables P 1099511627808) {t : State} (h : P t) (slot : Nat) (comp : Bool) (j : SealJob) (image : Bytes) : P (State.buildPart t slot comp j image) := by
  unfold State.buildPart
  have k0 : Stables P 32 := hk.sub rfl
  have k1 : Stables P 1099511627776 := hk.sub rfl
  repeat' first
    | intro _
    | with_reducible exact h
    | with_reducible assumption
    | with_reducible apply Inv.useRoom k0
    | with_reducible apply Inv.modJob k1
    | with_reducible apply Inv.ite
    | with_reducible apply Inv.getD
    | fail_if_no_progress (first | with_reducible refine Inv.lit hk ?_ | fail)
    | split
    | dsimp only
    | exact h

theorem Inv.chkFault {P : State → Prop} (hk : Stables P 1183375691221771034656) {t u : State} (h : P t) {c : Chk} {p : Nat} {b : Bool} (hu : Chk.fault c t p = (u, b)) : P u := by
  have k0 : Stables P 36592846517641216 := hk.sub rfl
  have k1 : Stables P 1183339098375287021600 := hk.sub rfl
  have e : u = (Chk.fault c t p).1 := by rw [hu]
  subst e
  unfold Chk.fault
  cases c
  all_goals first
    | exact h
    | exact Inv.homeFault k0 h _ _
    | exact Inv.frameFault k1 h _ _ _ _

theorem Inv.raiseBuild {P : State → Prop} (hk : Stables P 33628160) {t : State} (h : P t) (slot : Nat) (usn : Nat) (r_ : Nat) : P (State.raiseBuild t slot usn r_) := by
  have k0 : Stables P 33628160 := hk.sub rfl
  induction r_ generalizing t slot usn with
  | zero => simpa only [State.raiseBuild] using h
  | succ n_ ih =>
    unfold State.raiseBuild
    repeat' first
    | intro _
    | with_reducible exact h
    | with_reducible assumption
    | with_reducible apply ih
    | with_reducible apply Inv.evU k0
    | with_reducible apply Inv.ite
    | split
    | fail_if_no_progress (first | with_reducible refine Inv.lit hk ?_ | fail)
    | dsimp only

theorem Inv.announceEpoch {P : State → Prop} (hk : Stables P 288233812159176704) {t : State} (h : P t) (slot reason : Nat) : P (State.announceEpoch t slot reason) := by
  unfold State.announceEpoch
  have k0 : Stables P 137472581632 := hk.sub rfl
  have k1 : Stables P 288233674720223232 := hk.sub rfl
  have k2 : Stables P 65536 := hk.sub rfl
  have k3 : Stables P 288230376185339904 := hk.sub rfl
  repeat' first
    | intro _
    | with_reducible exact h
    | with_reducible assumption
    | with_reducible apply Inv.queueRoot k0
    | with_reducible apply Inv.appendLog k1
    | with_reducible apply Inv.bump k2
    | with_reducible apply Inv.sendImage k3
    | with_reducible apply Inv.ite
    | with_reducible apply Inv.getD
    | with_reducible apply Inv.foldl
    | fail_if_no_progress (first | with_reducible refine Inv.lit hk ?_ | fail)
    | split
    | dsimp only
    | exact h

theorem Inv.sealExtents {P : State → Prop} (hk : Stables P 30786325577760) {t u : State} (h : P t) {slot : Nat} {ns : List Nat} (hu : State.sealExtents t slot ns = some u) : P u := by
  have k0 : Stables P 13194139533344 := hk.sub rfl
  unfold State.sealExtents at hu
  dsimp only at hu
  split at hu
  · split at hu
    · cases hu; exact h
    · obtain ⟨v, hv, rfl⟩ := Option.map_eq_some_iff.mp hu
      exact Inv.lit hk (Inv.putSys k0 h hv)
  · cases hu

theorem Inv.rebuildJob {P : State → Prop} (hk : Stables P 27487790694400) {t : State} (h : P t) (slot : Nat) (comp : Bool) (j : SealJob) (h_ : Shard) : P (State.rebuildJob t slot comp j h_) := by
  unfold State.rebuildJob
  have k0 : Stables P 26388279066624 := hk.sub rfl
  have k1 : Stables P 1099511627776 := hk.sub rfl
  repeat' first
    | intro _
    | with_reducible exact h
    | with_reducible assumption
    | with_reducible apply Inv.dropExtent k0
    | with_reducible apply Inv.modJob k1
    | with_reducible apply Inv.ite
    | with_reducible apply Inv.getD
    | fail_if_no_progress (first | with_reducible refine Inv.lit hk ?_ | fail)
    | split
    | dsimp only
    | exact h

theorem Inv.refuseSwitch {P : State → Prop} (hk : Stables P 27487824322560) {t : State} (h : P t) (slot : Nat) (comp : Bool) (j : SealJob) : P (State.refuseSwitch t slot comp j) := by
  unfold State.refuseSwitch
  have k0 : Stables P 33628160 := hk.sub rfl
  have k1 : Stables P 26388279066624 := hk.sub rfl
  have k2 : Stables P 1099511627776 := hk.sub rfl
  repeat' first
    | intro _
    | with_reducible exact h
    | with_reducible assumption
    | with_reducible apply Inv.raise k0
    | with_reducible apply Inv.dropExtent k1
    | with_reducible apply Inv.modJob k2
    | with_reducible apply Inv.ite
    | with_reducible apply Inv.getD
    | fail_if_no_progress (first | with_reducible refine Inv.lit hk ?_ | fail)
    | split
    | dsimp only
    | exact h

theorem Inv.commitSeal {P : State → Prop} (hk : Stables P 288233812159176704) {t : State} (h : P t) (slot : Nat) (h_ : Shard) (j : SealJob) : P (State.commitSeal t slot h_ j) := by
  unfold State.commitSeal
  have k0 : Stables P 1099511627776 := hk.sub rfl
  have k1 : Stables P 288233812159176704 := hk.sub rfl
  repeat' first
    | intro _
    | with_reducible exact h
    | with_reducible assumption
    | with_reducible apply Inv.modShard k0
    | with_reducible apply Inv.announceEpoch k1
    | with_reducible apply Inv.ite
    | with_reducible apply Inv.getD
    | fail_if_no_progress (first | with_reducible refine Inv.lit hk ?_ | fail)
    | split
    | dsimp only
    | exact h

theorem Inv.switchSeal {P : State → Prop} (hk : Stables P 288400937926598656) {t : State} (h : P t) (slot : Nat) (h_ : Shard) (j : SealJob) : P (State.switchSeal t slot h_ j) := by
  have k0 : Stables P 27487824322560 := hk.sub rfl
  have k1 : Stables P 288233812159176704 := hk.sub rfl
  have k2 : Stables P 140737488355328 := hk.sub rfl
  unfold State.switchSeal
  split
  · exact Inv.refuseSwitch k0 h _ _ _
  · rename_i s1 hs
    exact Inv.commitSeal k1 (Inv.placeSeg k2 h hs) _ _ _

theorem Inv.doSealSwitch {P : State → Prop} (hk : Stables P 288400937926598656) {t : State} (h : P t) (slot : Nat) : P (State.doSealSwitch t slot) := by
  unfold State.doSealSwitch
  have k0 : Stables P 27487790694400 := hk.sub rfl
  have k1 : Stables P 288400937926598656 := hk.sub rfl
  repeat' first
    | intro _
    | with_reducible exact h
    | with_reducible assumption
    | with_reducible apply Inv.rebuildJob k0
    | with_reducible apply Inv.switchSeal k1
    | with_reducible apply Inv.ite
    | with_reducible apply Inv.getD
    | fail_if_no_progress (first | with_reducible refine Inv.lit hk ?_ | fail)
    | split
    | dsimp only
    | exact h

theorem Inv.recoverSeal {P : State → Prop} (hk : Stables P 288233812159176704) {t : State} (h : P t) (slot : Nat) : P (State.recoverSeal t slot) := by
  unfold State.recoverSeal
  have k0 : Stables P 288233812159176704 := hk.sub rfl
  repeat' first
    | intro _
    | with_reducible exact h
    | with_reducible assumption
    | with_reducible apply Inv.commitSeal k0
    | with_reducible apply Inv.ite
    | with_reducible apply Inv.getD
    | fail_if_no_progress (first | with_reducible refine Inv.lit hk ?_ | fail)
    | split
    | dsimp only
    | exact h

theorem Inv.doCompactChoose {P : State → Prop} (hk : Stables P 1099511627776) {t : State} (h : P t) (slot : Nat) : P (State.doCompactChoose t slot) := by
  unfold State.doCompactChoose
  have k0 : Stables P 1099511627776 := hk.sub rfl
  repeat' first
    | intro _
    | with_reducible exact h
    | with_reducible assumption
    | with_reducible apply Inv.modShard k0
    | with_reducible apply Inv.ite
    | with_reducible apply Inv.getD
    | fail_if_no_progress (first | with_reducible refine Inv.lit hk ?_ | fail)
    | split
    | dsimp only
    | exact h

theorem Inv.execCompactionBuild {P : State → Prop} (hk : Stables P 1183375831959259389984) {t : State} (h : P t) (slot : Nat) (chk : Chk) : Ends P (Sys2Proof.Machine.execCompactionBuild slot chk t) := by
  unfold Sys2Proof.Machine.execCompactionBuild
  have k0 : Stables P 1099511627808 := hk.sub rfl
  have k1 : Stables P 33628160 := hk.sub rfl
  have k2 : Stables P 1099511627776 := hk.sub rfl
  have k3 : Stables P 140737488355328 := hk.sub rfl
  have k4 : Stables P 33628160 := hk.sub rfl
  have k5 : Stables P 1099511627776 := hk.sub rfl
  repeat' first
    | with_reducible apply Ends.next
    | with_reducible apply Ends.ite
    | intro _
    | with_reducible exact h
    | with_reducible assumption
    | with_reducible apply Inv.buildPart k0
    | with_reducible apply Inv.evU k1
    | with_reducible apply Inv.modShard k2
    | refine Inv.placeSeg k3 (hu := by assumption) ?_
    | with_reducible apply Inv.raise k4
    | with_reducible apply Inv.modJob k5
    | refine Inv.chkFault (hk.sub rfl) (hu := by assumption) ?_
    | with_reducible apply Inv.ite
    | with_reducible apply Inv.getD
    | fail_if_no_progress (first | with_reducible refine Inv.lit hk ?_ | fail)
    | split
    | dsimp only
    | exact h

theorem Inv.commitCompact {P : State → Prop} (hk : Stables P 288233812159176704) {t : State} (h : P t) (slot : Nat) (h_ : Shard) (j : SealJob) : P (State.commitCompact t slot h_ j) := by
  unfold State.commitCompact
  have k0 : Stables P 1099511627776 := hk.sub rfl
  have k1 : Stables P 288233812159176704 := hk.sub rfl
  repeat' first
    | intro _
    | with_reducible exact h
    | with_reducible assumption
    | with_reducible apply Inv.modShard k0
    | with_reducible apply Inv.announceEpoch k1
    | with_reducible apply Inv.ite
    | with_reducible apply Inv.getD
    | fail_if_no_progress (first | with_reducible refine Inv.lit hk ?_ | fail)
    | split
    | dsimp only
    | exact h

theorem Inv.jobDurable {P : State → Prop} (hk : Stables P 31885837205536) {t : State} (h : P t) (slot : Nat) (comp : Bool) (j : SealJob) : P (State.jobDurable t slot comp j) := by
  have k0 : Stables P 1099511627776 := hk.sub rfl
  have k1 : Stables P 13194139533344 := hk.sub rfl
  have k2 : Stables P 30786325577760 := hk.sub rfl
  unfold State.jobDurable
  split
  · exact h
  · rename_i s1 hs
    obtain ⟨v, hv, hs⟩ := Option.bind_eq_some_iff.mp hs
    exact Inv.modJob k0 (Inv.putSys k1 (Inv.sealExtents k2 h hv) hs) _ _ _

theorem Inv.sealLoose {P : State → Prop} (hk : Stables P 30786325577760) {t : State} (h : P t) (slot : Nat) (h_ : Shard) : P (State.sealLoose t slot h_) := by
  unfold State.sealLoose
  have k0 : Stables P 30786325577760 := hk.sub rfl
  repeat' first
    | intro _
    | with_reducible exact h
    | with_reducible assumption
    | refine Inv.sealExtents k0 (hu := by assumption) ?_
    | with_reducible apply Inv.ite
    | with_reducible apply Inv.mapD
    | with_reducible apply Inv.getD
    | with_reducible apply Inv.foldl
    | fail_if_no_progress (first | with_reducible refine Inv.lit hk ?_ | fail)
    | split
    | dsimp only
    | exact h

theorem Inv.execSealWrite {P : State → Prop} (hk : Stables P 31885837205536) {t : State} (h : P t) (slot : Nat) : Ends P (Sys2Proof.Machine.execSealWrite slot t) := by
  unfold Sys2Proof.Machine.execSealWrite
  have k0 : Stables P 31885837205536 := hk.sub rfl
  have k1 : Stables P 30786325577760 := hk.sub rfl
  have k2 : Stables P 30786325577760 := hk.sub rfl
  have k3 : Stables P 13194139533344 := hk.sub rfl
  have k4 : Stables P 1099511627776 := hk.sub rfl
  repeat' first
    | with_reducible apply Ends.next
    | with_reducible apply Ends.ite
    | intro _
    | with_reducible exact h
    | with_reducible assumption
    | with_reducible apply Inv.jobDurable k0
    | with_reducible apply Inv.sealLoose k1
    | refine Inv.sealExtents k2 (hu := by assumption) ?_
    | refine Inv.putSys k3 (hu := by assumption) ?_
    | with_reducible apply Inv.modShard k4
    | with_reducible apply Inv.ite
    | with_reducible apply Inv.getD
    | fail_if_no_progress (first | with_reducible refine Inv.lit hk ?_ | fail)
    | split
    | dsimp only
    | exact h

theorem Inv.switchCompact {P : State → Prop} (hk : Stables P 288400937926598656) {t : State} (h : P t) (slot : Nat) (h_ : Shard) (j : SealJob) : P (State.switchCompact t slot h_ j) := by
  have k0 : Stables P 27487824322560 := hk.sub rfl
  have k1 : Stables P 288233812159176704 := hk.sub rfl
  have k2 : Stables P 140737488355328 := hk.sub rfl
  unfold State.switchCompact
  split
  · exact Inv.refuseSwitch k0 h _ _ _
  · rename_i s1 hs
    exact Inv.commitCompact k1 (Inv.placeSeg k2 h hs) _ _ _

theorem Inv.doCompactSwitch {P : State → Prop} (hk : Stables P 288400937926598656) {t : State} (h : P t) (slot : Nat) : P (State.doCompactSwitch t slot) := by
  unfold State.doCompactSwitch
  have k0 : Stables P 27487790694400 := hk.sub rfl
  have k1 : Stables P 288400937926598656 := hk.sub rfl
  repeat' first
    | intro _
    | with_reducible exact h
    | with_reducible assumption
    | with_reducible apply Inv.rebuildJob k0
    | with_reducible apply Inv.switchCompact k1
    | with_reducible apply Inv.ite
    | with_reducible apply Inv.getD
    | fail_if_no_progress (first | with_reducible refine Inv.lit hk ?_ | fail)
    | split
    | dsimp only
    | exact h

theorem Inv.recoverCompact {P : State → Prop} (hk : Stables P 288233812159176704) {t : State} (h : P t) (slot : Nat) : P (State.recoverCompact t slot) := by
  unfold State.recoverCompact
  have k0 : Stables P 288233812159176704 := hk.sub rfl
  repeat' first
    | intro _
    | with_reducible exact h
    | with_reducible assumption
    | with_reducible apply Inv.commitCompact k0
    | with_reducible apply Inv.ite
    | with_reducible apply Inv.getD
    | fail_if_no_progress (first | with_reducible refine Inv.lit hk ?_ | fail)
    | split
    | dsimp only
    | exact h

theorem Inv.takeInbox {P : State → Prop} (hk : Stables P 2112161937694720) {t : State} (h : P t) (slot : Nat) (all : Bool) : P (State.takeInbox t slot all) := by
  unfold State.takeInbox
  have k0 : Stables P 1099511627776 := hk.sub rfl
  have k1 : Stables P 100737024 := hk.sub rfl
  have k2 : Stables P 2112161870585856 := hk.sub rfl
  have k3 : Stables P 1099511627776 := hk.sub rfl
  repeat' first
    | intro _
    | with_reducible exact h
    | with_reducible assumption
    | with_reducible apply Inv.modShard k0
    | with_reducible apply Inv.raiseRun k1
    | with_reducible apply Inv.applyUpdate k2
    | with_reducible apply Inv.freezeAt k3
    | with_reducible apply Inv.ite
    | with_reducible apply Inv.getD
    | fail_if_no_progress (first | with_reducible refine Inv.lit hk ?_ | fail)
    | split
    | dsimp only
    | exact h

theorem Inv.drainInbox {P : State → Prop} (hk : Stables P 2112161937694720) {t : State} (h : P t) (slot : Nat) (r_ : Nat) : P (State.drainInbox t slot r_) := by
  have k0 : Stables P 2112161937694720 := hk.sub rfl
  induction r_ generalizing t slot with
  | zero => simpa only [State.drainInbox] using h
  | succ n_ ih =>
    unfold State.drainInbox
    repeat' first
    | intro _
    | with_reducible exact h
    | with_reducible assumption
    | with_reducible apply ih
    | with_reducible apply Inv.takeInbox k0
    | with_reducible apply Inv.ite
    | split
    | fail_if_no_progress (first | with_reducible refine Inv.lit hk ?_ | fail)
    | dsimp only

theorem Inv.execReplicaApply {P : State → Prop} (hk : Stables P 2112161937694720) {t : State} (h : P t) (slot : Nat) : Ends P (Sys2Proof.Machine.execReplicaApply slot t) := by
  unfold Sys2Proof.Machine.execReplicaApply
  have k0 : Stables P 2112161937694720 := hk.sub rfl
  repeat' first
    | with_reducible apply Ends.next
    | with_reducible apply Ends.ite
    | intro _
    | with_reducible exact h
    | with_reducible assumption
    | with_reducible apply Inv.takeInbox k0
    | with_reducible apply Inv.ite
    | with_reducible apply Inv.mapD
    | with_reducible apply Inv.getD
    | fail_if_no_progress (first | with_reducible refine Inv.lit hk ?_ | fail)
    | split
    | dsimp only
    | exact h

theorem Inv.execSegmentImage {P : State → Prop} (hk : Stables P 141837033611264) {t : State} (h : P t) (x0_ slot : Nat) (image rec_ : Bytes) : Ends P (Sys2Proof.Machine.execSegmentImage x0_ slot image rec_ t) := by
  unfold Sys2Proof.Machine.execSegmentImage
  have k0 : Stables P 33628160 := hk.sub rfl
  have k1 : Stables P 140737488355328 := hk.sub rfl
  have k2 : Stables P 1099511627776 := hk.sub rfl
  repeat' first
    | with_reducible apply Ends.next
    | with_reducible apply Ends.ite
    | intro _
    | with_reducible exact h
    | with_reducible assumption
    | with_reducible apply Inv.raise k0
    | refine Inv.placeSeg k1 (hu := by assumption) ?_
    | with_reducible apply Inv.modShard k2
    | with_reducible apply Inv.ite
    | with_reducible apply Inv.getD
    | fail_if_no_progress (first | with_reducible refine Inv.lit hk ?_ | fail)
    | split
    | dsimp only
    | exact h

theorem Inv.installEpoch {P : State → Prop} (hk : Stables P 168225312677888) {t : State} (h : P t) (slot : Nat) (place : Bool) : P (State.installEpoch t slot place) := by
  have k0 : Stables P 1099511627776 := hk.sub rfl
  have k1 : Stables P 26388279066624 := hk.sub rfl
  have k2 : Stables P 33628160 := hk.sub rfl
  have k3 : Stables P 140737488355328 := hk.sub rfl
  unfold State.installEpoch
  split
  · exact h
  · split
    · exact h
    · extract_lets
      split
      · exact Inv.modShard k0 (Inv.dropExtent k1 (Inv.raise k2 (Inv.raise k2 h _ _ _) _ _ _) _ _) _ _
      · rename_i s1 hs
        refine Inv.modShard k0 ?_ _ _
        split at hs
        · exact Inv.placeSeg k3 h hs
        · cases hs; exact h

theorem Inv.doReplicaSwitch {P : State → Prop} (hk : Stables P 168225312677888) {t : State} (h : P t) (slot : Nat) : P (State.doReplicaSwitch t slot) := by
  unfold State.doReplicaSwitch
  have k0 : Stables P 168225312677888 := hk.sub rfl
  repeat' first
    | intro _
    | with_reducible exact h
    | with_reducible assumption
    | with_reducible apply Inv.installEpoch k0
    | with_reducible apply Inv.ite
    | with_reducible apply Inv.getD
    | fail_if_no_progress (first | with_reducible refine Inv.lit hk ?_ | fail)
    | split
    | dsimp only
    | exact h

theorem Inv.recoverReplica {P : State → Prop} (hk : Stables P 168225312677888) {t : State} (h : P t) (slot : Nat) : P (State.recoverReplica t slot) := by
  unfold State.recoverReplica
  have k0 : Stables P 168225312677888 := hk.sub rfl
  repeat' first
    | intro _
    | with_reducible exact h
    | with_reducible assumption
    | with_reducible apply Inv.installEpoch k0
    | with_reducible apply Inv.ite
    | with_reducible apply Inv.getD
    | fail_if_no_progress (first | with_reducible refine Inv.lit hk ?_ | fail)
    | split
    | dsimp only
    | exact h

theorem Inv.doEpochRelease {P : State → Prop} (hk : Stables P 449700255825920) {t : State} (h : P t) (slot num : Nat) : P (State.doEpochRelease t slot num) := by
  unfold State.doEpochRelease
  have k0 : Stables P 26388279066624 := hk.sub rfl
  have k1 : Stables P 1099511627776 := hk.sub rfl
  have k2 : Stables P 422212465131520 := hk.sub rfl
  repeat' first
    | intro _
    | with_reducible exact h
    | with_reducible assumption
    | with_reducible apply Inv.dropExtent k0
    | with_reducible apply Inv.modShard k1
    | with_reducible apply Inv.releasePages k2
    | with_reducible apply Inv.ite
    | with_reducible apply Inv.getD
    | with_reducible apply Inv.foldl
    | with_reducible apply Inv.foldFst
    | with_reducible apply Inv.foldSnd
    | fail_if_no_progress (first | with_reducible refine Inv.lit hk ?_ | fail)
    | split
    | dsimp only
    | exact h

theorem Inv.execLogTrim {P : State → Prop} (hk : Stables P 28587302322176) {t : State} (h : P t) : Ends P (Sys2Proof.Machine.execLogTrim t) := by
  unfold Sys2Proof.Machine.execLogTrim
  have k0 : Stables P 8796093022208 := hk.sub rfl
  repeat' first
    | with_reducible apply Ends.next
    | with_reducible apply Ends.ite
    | intro _
    | with_reducible exact h
    | with_reducible assumption
    | with_reducible apply Inv.trim k0
    | with_reducible apply Inv.ite
    | with_reducible apply Inv.getD
    | with_reducible apply Inv.foldl
    | fail_if_no_progress (first | with_reducible refine Inv.lit hk ?_ | fail)
    | split
    | dsimp only
    | exact h

end Sys2Proof.Machine
end

