-- ==== Sys2Proof/Laws/KeepsTiers.lean ====
section
/-! SUPPORT. What the operations of Machine/Tiers.lean leave as it is: one lemma for each. -/

set_option linter.unusedTactic false
set_option linter.unreachableTactic false
set_option linter.unusedVariables false

namespace Sys2Proof.Machine
set_option Elab.async false

theorem Inv.doPlaceWindow {P : State → Prop} (hk : Stables P 295148186654363164672) {t : State} (h : P t) : P (State.doPlaceWindow t) := by
  unfold State.doPlaceWindow
  have k0 : Stables P 65536 := hk.sub rfl
  have k1 : Stables P 33628160 := hk.sub rfl
  repeat' first
    | intro _
    | with_reducible exact h
    | with_reducible assumption
    | with_reducible apply Inv.bump k0
    | with_reducible apply Inv.raise k1
    | with_reducible apply Inv.ite
    | with_reducible apply Inv.getD
    | fail_if_no_progress (first | with_reducible refine Inv.lit hk ?_ | fail)
    | split
    | dsimp only
    | exact h

theorem Inv.doDemote {P : State → Prop} (hk : Stables P 281474976776192) {t : State} (h : P t) : P (State.doDemote t) := by
  unfold State.doDemote
  have k0 : Stables P 65536 := hk.sub rfl
  repeat' first
    | intro _
    | with_reducible exact h
    | with_reducible assumption
    | with_reducible apply Inv.bump k0
    | with_reducible apply Inv.ite
    | with_reducible apply Inv.getD
    | fail_if_no_progress (first | with_reducible refine Inv.lit hk ?_ | fail)
    | split
    | dsimp only
    | exact h

theorem Inv.copyPromo {P : State → Prop} (hk : Stables P 2111062358958112) {t : State} (h : P t) (plot : Nat) (bad : Bool) (q : Promo) : P (State.copyPromo t plot bad q) := by
  unfold State.copyPromo
  have k0 : Stables P 32 := hk.sub rfl
  have k1 : Stables P 2111062358958080 := hk.sub rfl
  repeat' first
    | intro _
    | with_reducible exact h
    | with_reducible assumption
    | with_reducible apply Inv.useRoom k0
    | with_reducible apply Inv.touchPage k1
    | with_reducible apply Inv.ite
    | with_reducible apply Inv.getD
    | fail_if_no_progress (first | with_reducible refine Inv.lit hk ?_ | fail)
    | split
    | dsimp only
    | exact h

theorem Inv.copyPromos {P : State → Prop} (hk : Stables P 2111062358958112) {t : State} (h : P t) (plot : Nat) (bad : List Nat) (r_ : Nat) : P (State.copyPromos t plot bad r_) := by
  have k0 : Stables P 2111062358958112 := hk.sub rfl
  induction r_ generalizing t plot bad with
  | zero => simpa only [State.copyPromos] using h
  | succ n_ ih =>
    unfold State.copyPromos
    repeat' first
    | intro _
    | with_reducible exact h
    | with_reducible assumption
    | with_reducible apply ih
    | with_reducible apply Inv.copyPromo k0
    | with_reducible apply Inv.ite
    | split
    | fail_if_no_progress (first | with_reducible refine Inv.lit hk ?_ | fail)
    | dsimp only

theorem Inv.execPromotionCopy {P : State → Prop} (hk : Stables P 2111062358958112) {t : State} (h : P t) (c : PlotCopy) : Ends P (Sys2Proof.Machine.execPromotionCopy c t) := by
  unfold Sys2Proof.Machine.execPromotionCopy
  have k0 : Stables P 2111062358958112 := hk.sub rfl
  repeat' first
    | with_reducible apply Ends.next
    | with_reducible apply Ends.ite
    | intro _
    | with_reducible exact h
    | with_reducible assumption
    | with_reducible apply Inv.copyPromos k0
    | with_reducible apply Inv.ite
    | with_reducible apply Inv.getD
    | fail_if_no_progress (first | with_reducible refine Inv.lit hk ?_ | fail)
    | split
    | dsimp only
    | exact h

theorem Inv.doPromoSwitch {P : State → Prop} (hk : Stables P 281474976776192) {t : State} (h : P t) (plot : Nat) : P (State.doPromoSwitch t plot) := by
  unfold State.doPromoSwitch
  have k0 : Stables P 65536 := hk.sub rfl
  repeat' first
    | intro _
    | with_reducible exact h
    | with_reducible assumption
    | with_reducible apply Inv.bump k0
    | with_reducible apply Inv.ite
    | with_reducible apply Inv.getD
    | fail_if_no_progress (first | with_reducible refine Inv.lit hk ?_ | fail)
    | split
    | dsimp only
    | exact h

theorem Inv.dropFrames {P : State → Prop} (hk : Stables P 281474976776192) {t : State} (h : P t) : P (State.dropFrames t) := by
  unfold State.dropFrames
  have k0 : Stables P 65536 := hk.sub rfl
  repeat' first
    | intro _
    | with_reducible exact h
    | with_reducible assumption
    | with_reducible apply Inv.countDropped k0
    | with_reducible apply Inv.ite
    | with_reducible apply Inv.getD
    | fail_if_no_progress (first | with_reducible refine Inv.lit hk ?_ | fail)
    | split
    | dsimp only
    | exact h

theorem Inv.execRefreshSlice {P : State → Prop} (hk : Stables P 0) {t : State} (h : P t) (x0_ : Nat) : Ends P (Sys2Proof.Machine.execRefreshSlice x0_ t) := by
  unfold Sys2Proof.Machine.execRefreshSlice
  repeat' first
    | with_reducible apply Ends.next
    | with_reducible apply Ends.ite
    | intro _
    | with_reducible exact h
    | with_reducible assumption
    | with_reducible apply Inv.ite
    | with_reducible apply Inv.getD
    | fail_if_no_progress (first | with_reducible refine Inv.lit hk ?_ | fail)
    | split
    | dsimp only
    | exact h

theorem Inv.eccRead {P : State → Prop} (hk : Stables P 295147905179352825856) {t : State} (h : P t) (f : ScrubFind) : P (State.eccRead t f).2 := by
  unfold State.eccRead
  have k0 : Stables P 295147905179352825856 := hk.sub rfl
  repeat' first
    | intro _
    | with_reducible exact h
    | with_reducible assumption
    | with_reducible apply Inv.free k0
    | with_reducible apply Inv.ite
    | with_reducible apply Inv.getD
    | fail_if_no_progress (first | with_reducible refine Inv.lit hk ?_ | fail)
    | split
    | dsimp only
    | exact h

theorem Inv.countRow {P : State → Prop} (hk : Stables P 562949987049472) {t : State} (h : P t) (plot row : Nat) : P (State.countRow t plot row) := by
  unfold State.countRow
  have k0 : Stables P 65536 := hk.sub rfl
  have k1 : Stables P 33628160 := hk.sub rfl
  repeat' first
    | intro _
    | with_reducible exact h
    | with_reducible assumption
    | with_reducible apply Inv.bump k0
    | with_reducible apply Inv.raise k1
    | with_reducible apply Inv.ite
    | with_reducible apply Inv.getD
    | fail_if_no_progress (first | with_reducible refine Inv.lit hk ?_ | fail)
    | split
    | dsimp only
    | exact h

theorem Inv.scrubUe {P : State → Prop} (hk : Stables P 189997118994330624) {t : State} (h : P t) (plot : Nat) (p : ScrubPlace) : P (State.scrubUe t plot p) := by
  unfold State.scrubUe
  have k0 : Stables P 65536 := hk.sub rfl
  have k1 : Stables P 153122797533606912 := hk.sub rfl
  have k2 : Stables P 281475010338816 := hk.sub rfl
  have k3 : Stables P 33628160 := hk.sub rfl
  have k4 : Stables P 1099511627776 := hk.sub rfl
  have k5 : Stables P 562949953421312 := hk.sub rfl
  have k6 : Stables P 36028797019029504 := hk.sub rfl
  repeat' first
    | intro _
    | with_reducible exact h
    | with_reducible assumption
    | with_reducible apply Inv.bump k0
    | refine (Inv.execPoolLoss k1 ?_ ..).holds _ (by assumption)
    | with_reducible apply Inv.execPoolLoss k1
    | with_reducible apply Inv.dropFrame k2
    | with_reducible apply Inv.raise k3
    | with_reducible apply Inv.askReload k4
    | with_reducible apply Inv.askRebuild k5
    | with_reducible apply Inv.divergeEmb k6
    | with_reducible apply Inv.ite
    | with_reducible apply Inv.getD
    | fail_if_no_progress (first | with_reducible refine Inv.lit hk ?_ | fail)
    | split
    | dsimp only
    | exact h

theorem Inv.scrubFound {P : State → Prop} (hk : Stables P 295337902298347156480) {t : State} (h : P t) (plot : Nat) (f : ScrubFind) : P (State.scrubFound plot t f) := by
  unfold State.scrubFound
  have k0 : Stables P 33628160 := hk.sub rfl
  have k1 : Stables P 1099511627776 := hk.sub rfl
  have k2 : Stables P 295147905179352825856 := hk.sub rfl
  have k3 : Stables P 65536 := hk.sub rfl
  have k4 : Stables P 562949987049472 := hk.sub rfl
  have k5 : Stables P 189997118994330624 := hk.sub rfl
  repeat' first
    | intro _
    | with_reducible exact h
    | with_reducible assumption
    | with_reducible apply Inv.raise k0
    | with_reducible apply Inv.askReload k1
    | with_reducible apply Inv.eccRead k2
    | with_reducible apply Inv.bump k3
    | with_reducible apply Inv.countRow k4
    | with_reducible apply Inv.scrubUe k5
    | with_reducible apply Inv.ite
    | with_reducible apply Inv.getD
    | fail_if_no_progress (first | with_reducible refine Inv.lit hk ?_ | fail)
    | split
    | dsimp only
    | exact h

theorem Inv.execScrubSlice {P : State → Prop} (hk : Stables P 295337902298347156512) {t : State} (h : P t) (idx : Nat) (found : List ScrubFind) : Ends P (Sys2Proof.Machine.execScrubSlice idx found t) := by
  unfold Sys2Proof.Machine.execScrubSlice
  have k0 : Stables P 295337902298347156480 := hk.sub rfl
  repeat' first
    | with_reducible apply Ends.next
    | with_reducible apply Ends.ite
    | intro _
    | with_reducible exact h
    | with_reducible assumption
    | with_reducible apply Inv.scrubFound k0
    | with_reducible apply Inv.ite
    | with_reducible apply Inv.getD
    | with_reducible apply Inv.foldl
    | fail_if_no_progress (first | with_reducible refine Inv.lit hk ?_ | fail)
    | split
    | dsimp only
    | exact h

theorem Inv.execRowRepair {P : State → Prop} (hk : Stables P 562949987049472) {t : State} (h : P t) (plot row : Nat) : Ends P (Sys2Proof.Machine.execRowRepair plot row t) := by
  unfold Sys2Proof.Machine.execRowRepair
  have k0 : Stables P 65536 := hk.sub rfl
  have k1 : Stables P 33628160 := hk.sub rfl
  repeat' first
    | with_reducible apply Ends.next
    | with_reducible apply Ends.ite
    | intro _
    | with_reducible exact h
    | with_reducible assumption
    | with_reducible apply Inv.useGrant k0
    | with_reducible apply Inv.raise k1
    | with_reducible apply Inv.ite
    | with_reducible apply Inv.getD
    | fail_if_no_progress (first | with_reducible refine Inv.lit hk ?_ | fail)
    | split
    | dsimp only
    | exact h

theorem Inv.execSegmentLoad {P : State → Prop} (hk : Stables P 1267736940453888) {t : State} (h : P t) (slot seg : Nat) (chk : Chk) : Ends P (Sys2Proof.Machine.execSegmentLoad slot seg chk t) := by
  unfold Sys2Proof.Machine.execSegmentLoad
  have k0 : Stables P 1125899940470784 := hk.sub rfl
  have k1 : Stables P 33628160 := hk.sub rfl
  have k2 : Stables P 140737488355328 := hk.sub rfl
  have k3 : Stables P 1099511627776 := hk.sub rfl
  repeat' first
    | with_reducible apply Ends.next
    | with_reducible apply Ends.ite
    | intro _
    | with_reducible exact h
    | with_reducible assumption
    | with_reducible apply Inv.segOut k0
    | with_reducible apply Inv.raise k1
    | refine Inv.placeSeg k2 (hu := by assumption) ?_
    | with_reducible apply Inv.modShard k3
    | with_reducible apply Inv.ite
    | with_reducible apply Inv.getD
    | fail_if_no_progress (first | with_reducible refine Inv.lit hk ?_ | fail)
    | split
    | dsimp only
    | exact h

theorem Inv.execPageReload {P : State → Prop} (hk : Stables P 1126999452098560) {t : State} (h : P t) (slot seg page : Nat) (flashOk : Bool) : Ends P (Sys2Proof.Machine.execPageReload slot seg page flashOk t) := by
  unfold Sys2Proof.Machine.execPageReload
  have k0 : Stables P 1099511627776 := hk.sub rfl
  have k1 : Stables P 1125899940470784 := hk.sub rfl
  repeat' first
    | with_reducible apply Ends.next
    | with_reducible apply Ends.ite
    | intro _
    | with_reducible exact h
    | with_reducible assumption
    | with_reducible apply Inv.modShard k0
    | with_reducible apply Inv.segOut k1
    | with_reducible apply Inv.ite
    | with_reducible apply Inv.getD
    | fail_if_no_progress (first | with_reducible refine Inv.lit hk ?_ | fail)
    | split
    | dsimp only
    | exact h

theorem Inv.execSegmentRefetch {P : State → Prop} (hk : Stables P 168225312677888) {t : State} (h : P t) (slot seg : Nat) (image : Bytes) : Ends P (Sys2Proof.Machine.execSegmentRefetch slot seg image t) := by
  unfold Sys2Proof.Machine.execSegmentRefetch
  have k0 : Stables P 65536 := hk.sub rfl
  have k1 : Stables P 33628160 := hk.sub rfl
  have k2 : Stables P 140737488355328 := hk.sub rfl
  have k3 : Stables P 26388279066624 := hk.sub rfl
  have k4 : Stables P 1099511627776 := hk.sub rfl
  repeat' first
    | with_reducible apply Ends.next
    | with_reducible apply Ends.ite
    | intro _
    | with_reducible exact h
    | with_reducible assumption
    | with_reducible apply Inv.useGrant k0
    | with_reducible apply Inv.raise k1
    | refine Inv.placeSeg k2 (hu := by assumption) ?_
    | with_reducible apply Inv.dropExtent k3
    | with_reducible apply Inv.modShard k4
    | refine Inv.iteSome (by assumption) ?_ (fun hz => ?_)
    | with_reducible apply Inv.ite
    | with_reducible apply Inv.getD
    | fail_if_no_progress (first | with_reducible refine Inv.lit hk ?_ | fail)
    | split
    | dsimp only
    | exact h

end Sys2Proof.Machine
end

