-- ==== Sys2Proof/Laws/KeepsEvents.lean ====
section
/-! SUPPORT. What the operations of Machine/Events.lean leave as it is: one lemma for each. -/

set_option linter.unusedTactic false
set_option linter.unreachableTactic false
set_option linter.unusedVariables false

namespace Sys2Proof.Machine
set_option Elab.async false

theorem Inv.putRecord {P : State → Prop} (hk : Stables P 16842752) {t : State} (h : P t) (r : EvRec) : P (State.putRecord t r) := by
  unfold State.putRecord
  have k0 : Stables P 65536 := hk.sub rfl
  repeat' first
    | intro _
    | with_reducible exact h
    | with_reducible assumption
    | with_reducible apply Inv.setLive k0
    | with_reducible apply Inv.ite
    | with_reducible apply Inv.getD
    | fail_if_no_progress (first | with_reducible refine Inv.lit hk ?_ | fail)
    | split
    | dsimp only
    | exact h

theorem Inv.reportLost {P : State → Prop} (hk : Stables P 16842752) {t : State} (h : P t) : P (State.reportLost t) := by
  unfold State.reportLost
  have k0 : Stables P 16842752 := hk.sub rfl
  have k1 : Stables P 65536 := hk.sub rfl
  repeat' first
    | intro _
    | with_reducible exact h
    | with_reducible assumption
    | with_reducible apply Inv.putRecord k0
    | with_reducible apply Inv.bump k1
    | with_reducible apply Inv.ite
    | with_reducible apply Inv.getD
    | fail_if_no_progress (first | with_reducible refine Inv.lit hk ?_ | fail)
    | split
    | dsimp only
    | exact h

theorem Inv.sendNotice {P : State → Prop} (hk : Stables P 2594073385415811072) {t : State} (h : P t) (recs : List EvRec) : P (State.sendNotice t recs) := by
  unfold State.sendNotice
  have k0 : Stables P 2594073385365405696 := hk.sub rfl
  have k1 : Stables P 33628160 := hk.sub rfl
  repeat' first
    | intro _
    | with_reducible exact h
    | with_reducible assumption
    | with_reducible apply Inv.emitQp k0
    | with_reducible apply Inv.raise k1
    | with_reducible apply Inv.ite
    | with_reducible apply Inv.getD
    | fail_if_no_progress (first | with_reducible refine Inv.lit hk ?_ | fail)
    | split
    | dsimp only
    | exact h

theorem Inv.flushEvents {P : State → Prop} (hk : Stables P 2594073385415811072) {t : State} (h : P t) : P (State.flushEvents t) := by
  unfold State.flushEvents
  have k0 : Stables P 16842752 := hk.sub rfl
  have k1 : Stables P 16842752 := hk.sub rfl
  have k2 : Stables P 2594073385415811072 := hk.sub rfl
  have k3 : Stables P 65536 := hk.sub rfl
  repeat' first
    | intro _
    | with_reducible exact h
    | with_reducible assumption
    | with_reducible apply Inv.putRecord k0
    | with_reducible apply Inv.reportLost k1
    | with_reducible apply Inv.sendNotice k2
    | with_reducible apply Inv.setN k3
    | with_reducible apply Inv.ite
    | with_reducible apply Inv.getD
    | with_reducible apply Inv.foldl
    | fail_if_no_progress (first | with_reducible refine Inv.lit hk ?_ | fail)
    | split
    | dsimp only
    | exact h

end Sys2Proof.Machine
end

