-- ==== Sys2Proof/Laws/KeepsTilling.lean ====
section
/-! SUPPORT. What the operations of Machine/Tilling.lean leave as it is: one lemma for each. -/

set_option linter.unusedTactic false
set_option linter.unreachableTactic false
set_option linter.unusedVariables false

namespace Sys2Proof.Machine
set_option Elab.async false

theorem Inv.modTg {P : State → Prop} (hk : Stables P 72057594037927936) {t : State} (h : P t) (g : GroupId) (f : TGroup → TGroup) : P (State.modTg t g f) := by
  unfold State.modTg
  repeat' first
    | intro _
    | with_reducible exact h
    | with_reducible assumption
    | with_reducible apply Inv.ite
    | with_reducible apply Inv.getD
    | fail_if_no_progress (first | with_reducible refine Inv.lit hk ?_ | fail)
    | split
    | dsimp only
    | exact h

theorem Inv.putRow {P : State → Prop} (hk : Stables P 4722366482869645213696) {t : State} (h : P t) (g : GroupId) (bank r : Nat) (b : Bytes) : P (State.putRow t g bank r b) := by
  unfold State.putRow
  refine Inv.ite h (Inv.lit hk h (em := Or.inr ⟨2, by decide, MemFair.writeN _ _ _ fun x hx => Or.inl ?_⟩))
  simp only [memOut] at hx
  unfold rowAddr
  omega

theorem Inv.setMark {P : State → Prop} (hk : Stables P 72057594037927936) {t : State} (h : P t) (g : GroupId) (bank r m : Nat) : P (State.setMark t g bank r m) := by
  unfold State.setMark
  have k0 : Stables P 72057594037927936 := hk.sub rfl
  repeat' first
    | intro _
    | with_reducible exact h
    | with_reducible assumption
    | with_reducible apply Inv.modTg k0
    | with_reducible apply Inv.ite
    | with_reducible apply Inv.getD
    | fail_if_no_progress (first | with_reducible refine Inv.lit hk ?_ | fail)
    | split
    | dsimp only
    | exact h

theorem Inv.dropFifo {P : State → Prop} (hk : Stables P 1183410874494348238848) {t : State} (h : P t) (g : GroupId) (res event : Nat) : P (State.dropFifo t g res event) := by
  unfold State.dropFifo
  have k0 : Stables P 72057594037927936 := hk.sub rfl
  have k1 : Stables P 33628160 := hk.sub rfl
  have k2 : Stables P 1183338816900310310912 := hk.sub rfl
  repeat' first
    | intro _
    | with_reducible exact h
    | with_reducible assumption
    | with_reducible apply Inv.modTg k0
    | with_reducible apply Inv.raise k1
    | with_reducible apply Inv.loseAll k2
    | with_reducible apply Inv.ite
    | with_reducible apply Inv.mapD
    | with_reducible apply Inv.getD
    | fail_if_no_progress (first | with_reducible refine Inv.lit hk ?_ | fail)
    | split
    | dsimp only
    | exact h

theorem Inv.modTm {P : State → Prop} (hk : Stables P 562949953421312) {t : State} (h : P t) (g : GroupId) (f : TmReg → TmReg) : P (State.modTm t g f) := by
  unfold State.modTm
  repeat' first
    | intro _
    | with_reducible exact h
    | with_reducible assumption
    | with_reducible apply Inv.ite
    | with_reducible apply Inv.getD
    | fail_if_no_progress (first | with_reducible refine Inv.lit hk ?_ | fail)
    | split
    | dsimp only
    | exact h

theorem Inv.readTm {P : State → Prop} (hk : Stables P 562949953421312) {t : State} (h : P t) (g : GroupId) : P (State.readTm t g).2 := by
  unfold State.readTm
  have k0 : Stables P 562949953421312 := hk.sub rfl
  repeat' first
    | intro _
    | with_reducible exact h
    | with_reducible assumption
    | with_reducible apply Inv.modTm k0
    | with_reducible apply Inv.ite
    | with_reducible apply Inv.getD
    | fail_if_no_progress (first | with_reducible refine Inv.lit hk ?_ | fail)
    | split
    | dsimp only
    | exact h

theorem Inv.switchTm {P : State → Prop} (hk : Stables P 72620543991349248) {t : State} (h : P t) (g : GroupId) (op : Nat) (f : TGroup → TGroup) : P (State.switchTm t g op f) := by
  unfold State.switchTm
  have k0 : Stables P 562949953421312 := hk.sub rfl
  have k1 : Stables P 72057594037927936 := hk.sub rfl
  have k2 : Stables P 562949953421312 := hk.sub rfl
  repeat' first
    | intro _
    | with_reducible exact h
    | with_reducible assumption
    | with_reducible apply Inv.modTm k0
    | with_reducible apply Inv.modTg k1
    | with_reducible apply Inv.readTm k2
    | with_reducible apply Inv.ite
    | with_reducible apply Inv.getD
    | fail_if_no_progress (first | with_reducible refine Inv.lit hk ?_ | fail)
    | split
    | dsimp only
    | exact h

theorem Inv.pushTill {P : State → Prop} (hk : Stables P 72057594071556096) {t : State} (h : P t) (g : GroupId) (rec_ : Bytes) : P (State.pushTill t g rec_) := by
  unfold State.pushTill
  have k0 : Stables P 72057594037927936 := hk.sub rfl
  have k1 : Stables P 33628160 := hk.sub rfl
  repeat' first
    | intro _
    | with_reducible exact h
    | with_reducible assumption
    | with_reducible apply Inv.modTg k0
    | with_reducible apply Inv.raise k1
    | with_reducible apply Inv.ite
    | with_reducible apply Inv.getD
    | fail_if_no_progress (first | with_reducible refine Inv.lit hk ?_ | fail)
    | split
    | dsimp only
    | exact h

theorem Inv.winWrite {P : State → Prop} (hk : Stables P 72057594071556096) {t : State} (h : P t) (g : GroupId) (off : Nat) (data : Bytes) : P (State.winWrite t g off data) := by
  unfold State.winWrite
  have k0 : Stables P 72057594071556096 := hk.sub rfl
  have k1 : Stables P 72057594037927936 := hk.sub rfl
  repeat' first
    | intro _
    | with_reducible exact h
    | with_reducible assumption
    | with_reducible apply Inv.pushTill k0
    | with_reducible apply Inv.modTg k1
    | with_reducible apply Inv.ite
    | with_reducible apply Inv.getD
    | fail_if_no_progress (first | with_reducible refine Inv.lit hk ?_ | fail)
    | split
    | dsimp only
    | exact h

theorem Inv.execTillCommandWrite {P : State → Prop} (hk : Stables P 72057594071556096) {t : State} (h : P t) (g : GroupId) (rec_ : Bytes) : Ends P (Sys2Proof.Machine.execTillCommandWrite g rec_ t) := by
  unfold Sys2Proof.Machine.execTillCommandWrite
  have k0 : Stables P 33628160 := hk.sub rfl
  have k1 : Stables P 72057594071556096 := hk.sub rfl
  repeat' first
    | with_reducible apply Ends.next
    | with_reducible apply Ends.ite
    | intro _
    | with_reducible exact h
    | with_reducible assumption
    | with_reducible apply Inv.raise k0
    | with_reducible apply Inv.pushTill k1
    | with_reducible apply Inv.ite
    | with_reducible apply Inv.getD
    | fail_if_no_progress (first | with_reducible refine Inv.lit hk ?_ | fail)
    | split
    | dsimp only
    | exact h

theorem Inv.resumeTill {P : State → Prop} (hk : Stables P 72057594037927936) {t : State} (h : P t) (g : GroupId) : P (State.resumeTill t g) := by
  unfold State.resumeTill
  have k0 : Stables P 72057594037927936 := hk.sub rfl
  repeat' first
    | intro _
    | with_reducible exact h
    | with_reducible assumption
    | with_reducible apply Inv.modTg k0
    | with_reducible apply Inv.ite
    | with_reducible apply Inv.getD
    | fail_if_no_progress (first | with_reducible refine Inv.lit hk ?_ | fail)
    | split
    | dsimp only
    | exact h

theorem Inv.endTill {P : State → Prop} (hk : Stables P 72057594037993472) {t : State} (h : P t) (g : GroupId) (rec_ : Bytes) (res : Nat) : P (State.endTill t g rec_ res) := by
  unfold State.endTill
  have k0 : Stables P 72057594037927936 := hk.sub rfl
  have k1 : Stables P 65536 := hk.sub rfl
  repeat' first
    | intro _
    | with_reducible exact h
    | with_reducible assumption
    | with_reducible apply Inv.modTg k0
    | with_reducible apply Inv.bump k1
    | with_reducible apply Inv.ite
    | with_reducible apply Inv.getD
    | fail_if_no_progress (first | with_reducible refine Inv.lit hk ?_ | fail)
    | split
    | dsimp only
    | exact h

theorem Inv.runTill {P : State → Prop} (hk : Stables P 1183410874494348238848) {t : State} (h : P t) (g : GroupId) (op : Nat) (eff : State → Bytes → State × Nat)
    (he : ∀ v r, P v → P (eff v r).1) : P (State.runTill t g op eff) := by
  have k0 : Stables P 1183410874494348238848 := hk.sub rfl
  have k1 : Stables P 72057594037993472 := hk.sub rfl
  have k2 : Stables P 72057594037927936 := hk.sub rfl
  unfold State.runTill
  repeat' first
    | intro _
    | with_reducible exact h
    | with_reducible apply he
    | with_reducible apply Inv.dropFifo k0
    | with_reducible apply Inv.endTill k1
    | with_reducible apply Inv.resumeTill k2
    | with_reducible apply Inv.ite
    | split
    | dsimp only

theorem Inv.execTillingRefreshDue {P : State → Prop} (hk : Stables P 72057594071556096) {t : State} (h : P t) (g : GroupId) (hot : Bool) : Ends P (Sys2Proof.Machine.execTillingRefreshDue g hot t) := by
  unfold Sys2Proof.Machine.execTillingRefreshDue
  have k0 : Stables P 72057594037927936 := hk.sub rfl
  have k1 : Stables P 72057594037927936 := hk.sub rfl
  have k2 : Stables P 33628160 := hk.sub rfl
  repeat' first
    | with_reducible apply Ends.next
    | with_reducible apply Ends.ite
    | intro _
    | with_reducible exact h
    | with_reducible assumption
    | with_reducible apply Inv.resumeTill k0
    | with_reducible apply Inv.modTg k1
    | with_reducible apply Inv.raise k2
    | with_reducible apply Inv.ite
    | with_reducible apply Inv.getD
    | fail_if_no_progress (first | with_reducible refine Inv.lit hk ?_ | fail)
    | split
    | dsimp only
    | exact h

theorem Inv.eachBank {P : State → Prop} (hk : Stables P 4722438540463683141632) {t : State} (h : P t) (g : GroupId) (r : Bytes) (mark : Nat) (f : Nat → Bytes) : P (State.eachBank t g r mark f) := by
  unfold State.eachBank
  have k0 : Stables P 4722366482869645213696 := hk.sub rfl
  have k1 : Stables P 72057594037927936 := hk.sub rfl
  repeat' first
    | intro _
    | with_reducible exact h
    | with_reducible assumption
    | with_reducible apply Inv.putRow k0
    | with_reducible apply Inv.setMark k1
    | with_reducible apply Inv.ite
    | with_reducible apply Inv.getD
    | with_reducible apply Inv.foldl
    | fail_if_no_progress (first | with_reducible refine Inv.lit hk ?_ | fail)
    | split
    | dsimp only
    | exact h

theorem Inv.execNop {P : State → Prop} (hk : Stables P 1183410874494348238848) {t : State} (h : P t) (g : GroupId) : Ends P (Sys2Proof.Machine.execNop g t) := by
  unfold Sys2Proof.Machine.execNop
  have k0 : Stables P 1183410874494348238848 := hk.sub rfl
  repeat' first
    | with_reducible apply Ends.next
    | with_reducible apply Ends.ite
    | intro _
    | with_reducible exact h
    | with_reducible assumption
    | with_reducible apply Inv.runTill k0
    | with_reducible apply Inv.ite
    | with_reducible apply Inv.getD
    | fail_if_no_progress (first | with_reducible refine Inv.lit hk ?_ | fail)
    | split
    | dsimp only
    | exact h

theorem Inv.execRowCopy {P : State → Prop} (hk : Stables P 5905777357363993452544) {t : State} (h : P t) (g : GroupId) : Ends P (Sys2Proof.Machine.execRowCopy g t) := by
  unfold Sys2Proof.Machine.execRowCopy
  have k0 : Stables P 1183410874494348238848 := hk.sub rfl
  have k1 : Stables P 4722438540463683141632 := hk.sub rfl
  repeat' first
    | with_reducible apply Ends.next
    | with_reducible apply Ends.ite
    | intro _
    | with_reducible exact h
    | with_reducible assumption
    | with_reducible apply Inv.runTill k0
    | with_reducible apply Inv.eachBank k1
    | with_reducible apply Inv.ite
    | with_reducible apply Inv.getD
    | fail_if_no_progress (first | with_reducible refine Inv.lit hk ?_ | fail)
    | split
    | dsimp only
    | exact h

theorem Inv.execRowClear {P : State → Prop} (hk : Stables P 5905777357363993452544) {t : State} (h : P t) (g : GroupId) : Ends P (Sys2Proof.Machine.execRowClear g t) := by
  unfold Sys2Proof.Machine.execRowClear
  have k0 : Stables P 1183410874494348238848 := hk.sub rfl
  have k1 : Stables P 4722438540463683141632 := hk.sub rfl
  repeat' first
    | with_reducible apply Ends.next
    | with_reducible apply Ends.ite
    | intro _
    | with_reducible exact h
    | with_reducible assumption
    | with_reducible apply Inv.runTill k0
    | with_reducible apply Inv.eachBank k1
    | with_reducible apply Inv.ite
    | with_reducible apply Inv.getD
    | fail_if_no_progress (first | with_reducible refine Inv.lit hk ?_ | fail)
    | split
    | dsimp only
    | exact h

theorem Inv.execWriteRow {P : State → Prop} (hk : Stables P 5905777357363993452544) {t : State} (h : P t) (g : GroupId) : Ends P (Sys2Proof.Machine.execWriteRow g t) := by
  unfold Sys2Proof.Machine.execWriteRow
  have k0 : Stables P 1183410874494348238848 := hk.sub rfl
  have k1 : Stables P 4722438540463683141632 := hk.sub rfl
  repeat' first
    | with_reducible apply Ends.next
    | with_reducible apply Ends.ite
    | intro _
    | with_reducible exact h
    | with_reducible assumption
    | with_reducible apply Inv.runTill k0
    | with_reducible apply Inv.eachBank k1
    | with_reducible apply Inv.ite
    | with_reducible apply Inv.getD
    | fail_if_no_progress (first | with_reducible refine Inv.lit hk ?_ | fail)
    | split
    | dsimp only
    | exact h

theorem Inv.markRead {P : State → Prop} (hk : Stables P 72057594037927936) {t : State} (h : P t) (g : GroupId) (b r : Nat) (ok : Bool) : P (State.markRead t g b r ok) := by
  unfold State.markRead
  have k0 : Stables P 72057594037927936 := hk.sub rfl
  repeat' first
    | intro _
    | with_reducible exact h
    | with_reducible assumption
    | with_reducible apply Inv.setMark k0
    | with_reducible apply Inv.ite
    | with_reducible apply Inv.getD
    | fail_if_no_progress (first | with_reducible refine Inv.lit hk ?_ | fail)
    | split
    | dsimp only
    | exact h

theorem Inv.blockTillers {P : State → Prop} (hk : Stables P 4503599627370496) {t : State} (h : P t) (slots : List Nat) : P (State.blockTillers t slots) := by
  unfold State.blockTillers
  repeat' first
    | intro _
    | with_reducible exact h
    | with_reducible assumption
    | with_reducible apply Inv.ite
    | with_reducible apply Inv.getD
    | fail_if_no_progress (first | with_reducible refine Inv.lit hk ?_ | fail)
    | split
    | dsimp only
    | exact h

theorem Inv.badBitmap {P : State → Prop} (hk : Stables P 140737488355328) {t : State} (h : P t) (x : BmPlace) : P (State.badBitmap t x) := by
  unfold State.badBitmap
  repeat' first
    | intro _
    | with_reducible exact h
    | with_reducible assumption
    | with_reducible apply Inv.ite
    | with_reducible apply Inv.getD
    | fail_if_no_progress (first | with_reducible refine Inv.lit hk ?_ | fail)
    | split
    | dsimp only
    | exact h

theorem Inv.ondieUe {P : State → Prop} (hk : Stables P 562949987049472) {t : State} (h : P t) (g : GroupId) : P (State.ondieUe t g) := by
  unfold State.ondieUe
  have k0 : Stables P 65536 := hk.sub rfl
  have k1 : Stables P 562949953421312 := hk.sub rfl
  have k2 : Stables P 33628160 := hk.sub rfl
  repeat' first
    | intro _
    | with_reducible exact h
    | with_reducible assumption
    | with_reducible apply Inv.bump k0
    | with_reducible apply Inv.modTm k1
    | with_reducible apply Inv.raise k2
    | with_reducible apply Inv.ite
    | with_reducible apply Inv.getD
    | fail_if_no_progress (first | with_reducible refine Inv.lit hk ?_ | fail)
    | split
    | dsimp only
    | exact h

theorem Inv.layersUe {P : State → Prop} (hk : Stables P 1183343883449891102720) {t : State} (h : P t) (g : GroupId) (slots : List Nat) : P (State.layersUe t g slots) := by
  unfold State.layersUe
  have k0 : Stables P 562949987049472 := hk.sub rfl
  have k1 : Stables P 4503599627370496 := hk.sub rfl
  have k2 : Stables P 1183338816900310310912 := hk.sub rfl
  repeat' first
    | intro _
    | with_reducible exact h
    | with_reducible assumption
    | with_reducible apply Inv.ondieUe k0
    | with_reducible apply Inv.blockTillers k1
    | with_reducible apply Inv.loseAll k2
    | with_reducible apply Inv.ite
    | with_reducible apply Inv.getD
    | fail_if_no_progress (first | with_reducible refine Inv.lit hk ?_ | fail)
    | split
    | dsimp only
    | exact h

theorem Inv.ondieRow {P : State → Prop} (hk : Stables P 1183344024187379458048) {t : State} (h : P t) (g : GroupId) (bank r : Nat) : P (State.ondieRow t g bank r) := by
  unfold State.ondieRow
  have k0 : Stables P 562949987049472 := hk.sub rfl
  have k1 : Stables P 33628160 := hk.sub rfl
  have k2 : Stables P 140737488355328 := hk.sub rfl
  have k3 : Stables P 1183343883449891102720 := hk.sub rfl
  repeat' first
    | intro _
    | with_reducible exact h
    | with_reducible assumption
    | with_reducible apply Inv.ondieUe k0
    | with_reducible apply Inv.raise k1
    | with_reducible apply Inv.badBitmap k2
    | with_reducible apply Inv.layersUe k3
    | with_reducible apply Inv.ite
    | with_reducible apply Inv.getD
    | fail_if_no_progress (first | with_reducible refine Inv.lit hk ?_ | fail)
    | split
    | dsimp only
    | exact h

theorem Inv.execReadRow {P : State → Prop} (hk : Stables P 1183452393152924688416) {t : State} (h : P t) (x : RowRead) : Ends P (Sys2Proof.Machine.execReadRow x t) := by
  unfold Sys2Proof.Machine.execReadRow
  have k0 : Stables P 1183410874494348238848 := hk.sub rfl
  have k1 : Stables P 72057594037927936 := hk.sub rfl
  have k2 : Stables P 1183344024187379458048 := hk.sub rfl
  have k3 : Stables P 72057594037927936 := hk.sub rfl
  have k4 : Stables P 65536 := hk.sub rfl
  have k5 : Stables P 33628160 := hk.sub rfl
  have k6 : Stables P 1183375691221771034656 := hk.sub rfl
  repeat' first
    | with_reducible apply Ends.next
    | with_reducible apply Ends.ite
    | intro _
    | with_reducible exact h
    | with_reducible assumption
    | with_reducible apply Inv.runTill k0
    | with_reducible apply Inv.modTg k1
    | with_reducible apply Inv.ondieRow k2
    | with_reducible apply Inv.markRead k3
    | with_reducible apply Inv.bump k4
    | with_reducible apply Inv.raise k5
    | with_reducible apply Inv.check k6
    | with_reducible apply Inv.ite
    | with_reducible apply Inv.getD
    | fail_if_no_progress (first | with_reducible refine Inv.lit hk ?_ | fail)
    | split
    | dsimp only
    | exact h

theorem Inv.stage {P : State → Prop} (hk : Stables P 5017586445643035967488) {t : State} (h : P t) (g : GroupId) (b : Nat) (r : Bytes) : P (State.stage t g b r) := by
  unfold State.stage
  have k0 : Stables P 4722366482869645213696 := hk.sub rfl
  have k1 : Stables P 72057594037927936 := hk.sub rfl
  repeat' first
    | intro _
    | with_reducible exact h
    | with_reducible assumption
    | with_reducible apply Inv.putRow k0
    | with_reducible apply Inv.setMark k1
    | with_reducible apply Inv.ite
    | with_reducible apply Inv.getD
    | with_reducible apply Inv.foldl
    | fail_if_no_progress (first | with_reducible refine Inv.lit hk ?_ | fail)
    | split
    | dsimp only
    | exact h

theorem Inv.bitwise {P : State → Prop} (hk : Stables P 6200925262543346278400) {t : State} (h : P t) (g : GroupId) (op : Nat) : P (State.bitwise t g op) := by
  unfold State.bitwise
  have k0 : Stables P 1183410874494348238848 := hk.sub rfl
  have k1 : Stables P 5017586445643035967488 := hk.sub rfl
  have k2 : Stables P 4722366482869645213696 := hk.sub rfl
  have k3 : Stables P 72057594037927936 := hk.sub rfl
  repeat' first
    | intro _
    | with_reducible exact h
    | with_reducible assumption
    | with_reducible apply Inv.runTill k0
    | with_reducible apply Inv.stage k1
    | with_reducible apply Inv.putRow k2
    | with_reducible apply Inv.setMark k3
    | with_reducible apply Inv.ite
    | with_reducible apply Inv.getD
    | with_reducible apply Inv.foldl
    | fail_if_no_progress (first | with_reducible refine Inv.lit hk ?_ | fail)
    | split
    | dsimp only
    | exact h

theorem Inv.execTillAnd {P : State → Prop} (hk : Stables P 6200925262543346278400) {t : State} (h : P t) (g : GroupId) : Ends P (Sys2Proof.Machine.execTillAnd g t) := by
  unfold Sys2Proof.Machine.execTillAnd
  have k0 : Stables P 6200925262543346278400 := hk.sub rfl
  repeat' first
    | with_reducible apply Ends.next
    | with_reducible apply Ends.ite
    | intro _
    | with_reducible exact h
    | with_reducible assumption
    | with_reducible apply Inv.bitwise k0
    | with_reducible apply Inv.ite
    | with_reducible apply Inv.getD
    | fail_if_no_progress (first | with_reducible refine Inv.lit hk ?_ | fail)
    | split
    | dsimp only
    | exact h

theorem Inv.execTillOr {P : State → Prop} (hk : Stables P 6200925262543346278400) {t : State} (h : P t) (g : GroupId) : Ends P (Sys2Proof.Machine.execTillOr g t) := by
  unfold Sys2Proof.Machine.execTillOr
  have k0 : Stables P 6200925262543346278400 := hk.sub rfl
  repeat' first
    | with_reducible apply Ends.next
    | with_reducible apply Ends.ite
    | intro _
    | with_reducible exact h
    | with_reducible assumption
    | with_reducible apply Inv.bitwise k0
    | with_reducible apply Inv.ite
    | with_reducible apply Inv.getD
    | fail_if_no_progress (first | with_reducible refine Inv.lit hk ?_ | fail)
    | split
    | dsimp only
    | exact h

theorem Inv.execTillNot {P : State → Prop} (hk : Stables P 6200925262543346278400) {t : State} (h : P t) (g : GroupId) : Ends P (Sys2Proof.Machine.execTillNot g t) := by
  unfold Sys2Proof.Machine.execTillNot
  have k0 : Stables P 6200925262543346278400 := hk.sub rfl
  repeat' first
    | with_reducible apply Ends.next
    | with_reducible apply Ends.ite
    | intro _
    | with_reducible exact h
    | with_reducible assumption
    | with_reducible apply Inv.bitwise k0
    | with_reducible apply Inv.ite
    | with_reducible apply Inv.getD
    | fail_if_no_progress (first | with_reducible refine Inv.lit hk ?_ | fail)
    | split
    | dsimp only
    | exact h

theorem Inv.execTillXor {P : State → Prop} (hk : Stables P 6200925262543346278400) {t : State} (h : P t) (g : GroupId) : Ends P (Sys2Proof.Machine.execTillXor g t) := by
  unfold Sys2Proof.Machine.execTillXor
  have k0 : Stables P 6200925262543346278400 := hk.sub rfl
  repeat' first
    | with_reducible apply Ends.next
    | with_reducible apply Ends.ite
    | intro _
    | with_reducible exact h
    | with_reducible assumption
    | with_reducible apply Inv.bitwise k0
    | with_reducible apply Inv.ite
    | with_reducible apply Inv.getD
    | fail_if_no_progress (first | with_reducible refine Inv.lit hk ?_ | fail)
    | split
    | dsimp only
    | exact h

theorem Inv.execEwAdd {P : State → Prop} (hk : Stables P 5905777357363993452544) {t : State} (h : P t) (g : GroupId) : Ends P (Sys2Proof.Machine.execEwAdd g t) := by
  unfold Sys2Proof.Machine.execEwAdd
  have k0 : Stables P 1183410874494348238848 := hk.sub rfl
  have k1 : Stables P 4722438540463683141632 := hk.sub rfl
  repeat' first
    | with_reducible apply Ends.next
    | with_reducible apply Ends.ite
    | intro _
    | with_reducible exact h
    | with_reducible assumption
    | with_reducible apply Inv.runTill k0
    | with_reducible apply Inv.eachBank k1
    | with_reducible apply Inv.ite
    | with_reducible apply Inv.getD
    | fail_if_no_progress (first | with_reducible refine Inv.lit hk ?_ | fail)
    | split
    | dsimp only
    | exact h

theorem Inv.execEwMul {P : State → Prop} (hk : Stables P 5905777357363993452544) {t : State} (h : P t) (g : GroupId) : Ends P (Sys2Proof.Machine.execEwMul g t) := by
  unfold Sys2Proof.Machine.execEwMul
  have k0 : Stables P 1183410874494348238848 := hk.sub rfl
  have k1 : Stables P 4722438540463683141632 := hk.sub rfl
  repeat' first
    | with_reducible apply Ends.next
    | with_reducible apply Ends.ite
    | intro _
    | with_reducible exact h
    | with_reducible assumption
    | with_reducible apply Inv.runTill k0
    | with_reducible apply Inv.eachBank k1
    | with_reducible apply Inv.ite
    | with_reducible apply Inv.getD
    | fail_if_no_progress (first | with_reducible refine Inv.lit hk ?_ | fail)
    | split
    | dsimp only
    | exact h

theorem Inv.execEwAct {P : State → Prop} (hk : Stables P 5905777357363993452544) {t : State} (h : P t) (g : GroupId) : Ends P (Sys2Proof.Machine.execEwAct g t) := by
  unfold Sys2Proof.Machine.execEwAct
  have k0 : Stables P 1183410874494348238848 := hk.sub rfl
  have k1 : Stables P 4722438540463683141632 := hk.sub rfl
  repeat' first
    | with_reducible apply Ends.next
    | with_reducible apply Ends.ite
    | intro _
    | with_reducible exact h
    | with_reducible assumption
    | with_reducible apply Inv.runTill k0
    | with_reducible apply Inv.eachBank k1
    | with_reducible apply Inv.ite
    | with_reducible apply Inv.getD
    | fail_if_no_progress (first | with_reducible refine Inv.lit hk ?_ | fail)
    | split
    | dsimp only
    | exact h

theorem Inv.sumBlock {P : State → Prop} (hk : Stables P 4722366482869645213696) {t : State} (h : P t) (g : GroupId) (r : Bytes) : P (State.sumBlock t g r) := by
  unfold State.sumBlock
  have k0 : Stables P 4722366482869645213696 := hk.sub rfl
  repeat' first
    | intro _
    | with_reducible exact h
    | with_reducible assumption
    | with_reducible apply Inv.putRow k0
    | with_reducible apply Inv.ite
    | with_reducible apply Inv.getD
    | with_reducible apply Inv.foldl
    | fail_if_no_progress (first | with_reducible refine Inv.lit hk ?_ | fail)
    | split
    | dsimp only
    | exact h

theorem Inv.putProducts {P : State → Prop} (hk : Stables P 72057594037927936) {t : State} (h : P t) (g : GroupId) (ys : List (List Int)) (sums : List Int) : P (State.putProducts t g ys sums) := by
  unfold State.putProducts
  have k0 : Stables P 72057594037927936 := hk.sub rfl
  repeat' first
    | intro _
    | with_reducible exact h
    | with_reducible assumption
    | with_reducible apply Inv.modTg k0
    | with_reducible apply Inv.ite
    | with_reducible apply Inv.getD
    | fail_if_no_progress (first | with_reducible refine Inv.lit hk ?_ | fail)
    | split
    | dsimp only
    | exact h

theorem Inv.spoilt {P : State → Prop} (hk : Stables P 295147905179352825856) {t : State} (h : P t) (ys : List (List Int)) : P (State.spoilt t ys).2 := by
  unfold State.spoilt
  repeat' first
    | intro _
    | with_reducible exact h
    | with_reducible assumption
    | with_reducible apply Inv.ite
    | with_reducible apply Inv.getD
    | fail_if_no_progress (first | with_reducible refine Inv.lit hk ?_ | fail)
    | split
    | dsimp only
    | exact h

theorem Inv.execMatvec {P : State → Prop} (hk : Stables P 1478600157594789158944) {t : State} (h : P t) (g : GroupId) (chk : Chk) : Ends P (Sys2Proof.Machine.execMatvec g chk t) := by
  unfold Sys2Proof.Machine.execMatvec
  have k0 : Stables P 1183410874494348238848 := hk.sub rfl
  have k1 : Stables P 295147905179352825856 := hk.sub rfl
  have k2 : Stables P 72057594037927936 := hk.sub rfl
  have k3 : Stables P 1183343883449891102720 := hk.sub rfl
  have k4 : Stables P 65536 := hk.sub rfl
  have k5 : Stables P 1183375691221771034656 := hk.sub rfl
  repeat' first
    | with_reducible apply Ends.next
    | with_reducible apply Ends.ite
    | intro _
    | with_reducible exact h
    | with_reducible assumption
    | with_reducible apply Inv.runTill k0
    | with_reducible apply Inv.spoilt k1
    | with_reducible apply Inv.putProducts k2
    | with_reducible apply Inv.layersUe k3
    | with_reducible apply Inv.bump k4
    | with_reducible apply Inv.check k5
    | with_reducible apply Inv.ite
    | with_reducible apply Inv.getD
    | fail_if_no_progress (first | with_reducible refine Inv.lit hk ?_ | fail)
    | split
    | dsimp only
    | exact h

theorem Inv.enterTill {P : State → Prop} (hk : Stables P 72620543991349248) {t : State} (h : P t) (g : GroupId) : P (State.enterTill t g) := by
  unfold State.enterTill
  have k0 : Stables P 72620543991349248 := hk.sub rfl
  repeat' first
    | intro _
    | with_reducible exact h
    | with_reducible assumption
    | with_reducible apply Inv.switchTm k0
    | with_reducible apply Inv.ite
    | with_reducible apply Inv.getD
    | fail_if_no_progress (first | with_reducible refine Inv.lit hk ?_ | fail)
    | split
    | dsimp only
    | exact h

theorem Inv.execTillingEnter {P : State → Prop} (hk : Stables P 72620543991349248) {t : State} (h : P t) (idx : Nat) : Ends P (Sys2Proof.Machine.execTillingEnter idx t) := by
  unfold Sys2Proof.Machine.execTillingEnter
  have k0 : Stables P 72620543991349248 := hk.sub rfl
  repeat' first
    | with_reducible apply Ends.next
    | with_reducible apply Ends.ite
    | intro _
    | with_reducible exact h
    | with_reducible assumption
    | with_reducible apply Inv.enterTill k0
    | with_reducible apply Inv.ite
    | with_reducible apply Inv.getD
    | with_reducible apply Inv.foldl
    | fail_if_no_progress (first | with_reducible refine Inv.lit hk ?_ | fail)
    | split
    | dsimp only
    | exact h

theorem Inv.execTillingRun {P : State → Prop} (hk : Stables P 1183410874494348238848) {t : State} (h : P t) (idx : Nat) : Ends P (Sys2Proof.Machine.execTillingRun idx t) := by
  unfold Sys2Proof.Machine.execTillingRun
  have k0 : Stables P 72057594037927936 := hk.sub rfl
  have k1 : Stables P 72057594037927936 := hk.sub rfl
  have k2 : Stables P 1183410874494348238848 := hk.sub rfl
  repeat' first
    | with_reducible apply Ends.next
    | with_reducible apply Ends.ite
    | intro _
    | with_reducible exact h
    | with_reducible assumption
    | with_reducible apply Inv.resumeTill k0
    | with_reducible apply Inv.modTg k1
    | with_reducible apply Inv.dropFifo k2
    | with_reducible apply Inv.ite
    | with_reducible apply Inv.mapD
    | with_reducible apply Inv.getD
    | with_reducible apply Inv.foldl
    | fail_if_no_progress (first | with_reducible refine Inv.lit hk ?_ | fail)
    | split
    | dsimp only
    | exact h

theorem Inv.exitTill {P : State → Prop} (hk : Stables P 1183411437444301660160) {t : State} (h : P t) (g : GroupId) : P (State.exitTill t g) := by
  unfold State.exitTill
  have k0 : Stables P 1183410874494348238848 := hk.sub rfl
  have k1 : Stables P 72620543991349248 := hk.sub rfl
  repeat' first
    | intro _
    | with_reducible exact h
    | with_reducible assumption
    | with_reducible apply Inv.dropFifo k0
    | with_reducible apply Inv.switchTm k1
    | with_reducible apply Inv.ite
    | with_reducible apply Inv.getD
    | fail_if_no_progress (first | with_reducible refine Inv.lit hk ?_ | fail)
    | split
    | dsimp only
    | exact h

theorem Inv.execTillingExit {P : State → Prop} (hk : Stables P 1183411437444301660160) {t : State} (h : P t) (idx : Nat) : Ends P (Sys2Proof.Machine.execTillingExit idx t) := by
  unfold Sys2Proof.Machine.execTillingExit
  have k0 : Stables P 1183411437444301660160 := hk.sub rfl
  repeat' first
    | with_reducible apply Ends.next
    | with_reducible apply Ends.ite
    | intro _
    | with_reducible exact h
    | with_reducible assumption
    | with_reducible apply Inv.exitTill k0
    | with_reducible apply Inv.ite
    | with_reducible apply Inv.getD
    | with_reducible apply Inv.foldl
    | fail_if_no_progress (first | with_reducible refine Inv.lit hk ?_ | fail)
    | split
    | dsimp only
    | exact h

theorem Inv.loadFound {P : State → Prop} (hk : Stables P 1183344024187379458048) {t : State} (h : P t) (r : TillRow) (act : LoadAct) : P (State.loadFound t r act) := by
  unfold State.loadFound
  have k0 : Stables P 562949987049472 := hk.sub rfl
  have k1 : Stables P 1183344024187379458048 := hk.sub rfl
  have k2 : Stables P 65536 := hk.sub rfl
  have k3 : Stables P 33628160 := hk.sub rfl
  have k4 : Stables P 140737488355328 := hk.sub rfl
  repeat' first
    | intro _
    | with_reducible exact h
    | with_reducible assumption
    | with_reducible apply Inv.countRow k0
    | with_reducible apply Inv.ondieRow k1
    | with_reducible apply Inv.bump k2
    | with_reducible apply Inv.raise k3
    | with_reducible apply Inv.badBitmap k4
    | with_reducible apply Inv.ite
    | with_reducible apply Inv.getD
    | fail_if_no_progress (first | with_reducible refine Inv.lit hk ?_ | fail)
    | split
    | dsimp only
    | exact h

theorem Inv.rewriteBitmaps {P : State → Prop} (hk : Stables P 140737488355328) {t : State} (h : P t) (plot : Nat) : P (State.rewriteBitmaps t plot) := by
  unfold State.rewriteBitmaps
  repeat' first
    | intro _
    | with_reducible exact h
    | with_reducible assumption
    | with_reducible apply Inv.ite
    | with_reducible apply Inv.getD
    | fail_if_no_progress (first | with_reducible refine Inv.lit hk ?_ | fail)
    | split
    | dsimp only
    | exact h

theorem Inv.execTillingLoad {P : State → Prop} (hk : Stables P 5905710507057024671744) {t : State} (h : P t) (idx : Nat) (r : TillRow) (act : LoadAct) : Ends P (Sys2Proof.Machine.execTillingLoad idx r act t) := by
  unfold Sys2Proof.Machine.execTillingLoad
  have k0 : Stables P 33628160 := hk.sub rfl
  have k1 : Stables P 140737488355328 := hk.sub rfl
  have k2 : Stables P 4722366482869645213696 := hk.sub rfl
  have k3 : Stables P 4722366482869645213696 := hk.sub rfl
  have k4 : Stables P 1183344024187379458048 := hk.sub rfl
  repeat' first
    | with_reducible apply Ends.next
    | with_reducible apply Ends.ite
    | intro _
    | with_reducible exact h
    | with_reducible assumption
    | with_reducible apply Inv.raise k0
    | with_reducible apply Inv.rewriteBitmaps k1
    | with_reducible apply Inv.sumBlock k2
    | with_reducible apply Inv.putRow k3
    | with_reducible apply Inv.loadFound k4
    | with_reducible apply Inv.ite
    | with_reducible apply Inv.getD
    | with_reducible apply Inv.foldl
    | fail_if_no_progress (first | with_reducible refine Inv.lit hk ?_ | fail)
    | split
    | dsimp only
    | exact h

theorem Inv.execTmAckTimeout {P : State → Prop} (hk : Stables P 1183410874494348238848) {t : State} (h : P t) (g : GroupId) : Ends P (Sys2Proof.Machine.execTmAckTimeout g t) := by
  unfold Sys2Proof.Machine.execTmAckTimeout
  have k0 : Stables P 72057594037927936 := hk.sub rfl
  have k1 : Stables P 33628160 := hk.sub rfl
  have k2 : Stables P 1183338816900310310912 := hk.sub rfl
  repeat' first
    | with_reducible apply Ends.next
    | with_reducible apply Ends.ite
    | intro _
    | with_reducible exact h
    | with_reducible assumption
    | with_reducible apply Inv.modTg k0
    | with_reducible apply Inv.raise k1
    | with_reducible apply Inv.loseAll k2
    | with_reducible apply Inv.ite
    | with_reducible apply Inv.getD
    | fail_if_no_progress (first | with_reducible refine Inv.lit hk ?_ | fail)
    | split
    | dsimp only
    | exact h

theorem Inv.hostGroupsAt {P : State → Prop} (hk : Stables P 72620543991349248) {t : State} (h : P t) : P (State.hostGroupsAt t) := by
  unfold State.hostGroupsAt
  have k0 : Stables P 72620543991349248 := hk.sub rfl
  repeat' first
    | intro _
    | with_reducible exact h
    | with_reducible assumption
    | with_reducible apply Inv.enterTill k0
    | with_reducible apply Inv.ite
    | with_reducible apply Inv.getD
    | with_reducible apply Inv.foldl
    | fail_if_no_progress (first | with_reducible refine Inv.lit hk ?_ | fail)
    | split
    | dsimp only
    | exact h

theorem Inv.tillFigures {P : State → Prop} (hk : Stables P 65536) {t : State} (h : P t) : P (State.tillFigures t) := by
  unfold State.tillFigures
  have k0 : Stables P 65536 := hk.sub rfl
  repeat' first
    | intro _
    | with_reducible exact h
    | with_reducible assumption
    | with_reducible apply Inv.setLive k0
    | with_reducible apply Inv.ite
    | with_reducible apply Inv.mapD
    | with_reducible apply Inv.getD
    | fail_if_no_progress (first | with_reducible refine Inv.lit hk ?_ | fail)
    | split
    | dsimp only
    | exact h

end Sys2Proof.Machine
end

