-- ==== Sys2Proof/Laws/KeepsFieldMem.lean ====
section
/-! SUPPORT. What the operations of Machine/FieldMem.lean leave as it is: one lemma for each. -/

set_option linter.unusedTactic false
set_option linter.unreachableTactic false
set_option linter.unusedVariables false

namespace Sys2Proof.Machine
set_option Elab.async false

theorem Inv.readField {P : State → Prop} (hk : Stables P 295147905179352825856) {t : State} (h : P t) (a n : Nat) : P (State.readField t a n).2 := by
  unfold State.readField
  exact Inv.lit hk h

theorem Inv.writeField {P : State → Prop} (hk : Stables P 9444807134395687313408) {t : State} (h : P t) (a : Nat) (b : Bytes) : P (State.writeField t a b) := by
  unfold State.writeField
  have k0 : Stables P 2111062358958080 := hk.sub rfl
  have k1 : Stables P 72057594071556096 := hk.sub rfl
  repeat' first
    | intro _
    | with_reducible exact h
    | with_reducible assumption
    | with_reducible apply Inv.touchPage k0
    | with_reducible apply Inv.winWrite k1
    | with_reducible apply Inv.ite
    | with_reducible apply Inv.getD
    | with_reducible apply Inv.foldl
    | exact Memory.wf_writeN (by assumption) _ _
    | exact Memory.wf_write (by assumption) _ _
    | exact Memory.wf_filter _ (by assumption)
    | with_reducible apply Memory.wf_foldl
    | fail_if_no_progress (first | with_reducible refine Inv.lit hk ?_ | fail)
    | split
    | dsimp only
    | exact h
    | (first | with_reducible refine Inv.lit hk ?_ (em := Or.inr ⟨3, by decide, MemFair.any ?_⟩) | fail)

theorem Inv.landed {P : State → Prop} (hk : Stables P 9444807134395687313408) {t : State} (h : P t) : P (State.landed t) :=
  Inv.foldl (fun _ _ hv => Inv.writeField hk hv _ _) (Inv.lit hk h)

theorem Inv.countAt {P : State → Prop} (hk : Stables P 281474976710656) {t : State} (h : P t) (kind a b off n : Nat) : P (State.countAt t kind a b off n) := by
  unfold State.countAt
  repeat' first
    | intro _
    | with_reducible exact h
    | with_reducible assumption
    | with_reducible apply Inv.ite
    | with_reducible apply Inv.getD
    | with_reducible apply Inv.foldl
    | with_reducible apply Inv.foldFst
    | with_reducible apply Inv.foldSnd
    | fail_if_no_progress (first | with_reducible refine Inv.lit hk ?_ | fail)
    | split
    | dsimp only
    | exact h

theorem Inv.countReads {P : State → Prop} (hk : Stables P 281474976710656) {t : State} (h : P t) (a n : Nat) : P (State.countReads t a n) := by
  unfold State.countReads
  repeat' first
    | intro _
    | with_reducible exact h
    | with_reducible assumption
    | with_reducible apply Inv.ite
    | with_reducible apply Inv.getD
    | with_reducible apply Inv.foldl
    | fail_if_no_progress (first | with_reducible refine Inv.lit hk ?_ | fail)
    | split
    | dsimp only
    | exact h

end Sys2Proof.Machine
end

