-- ==== Sys2Proof/Laws/KeepsMovers.lean ====
section
/-! SUPPORT. What the operations of Machine/Movers.lean leave as it is: one lemma for each. -/

set_option linter.unusedTactic false
set_option linter.unreachableTactic false
set_option linter.unusedVariables false

namespace Sys2Proof.Machine
set_option Elab.async false

theorem Inv.modQueue {P : State → Prop} (hk : Stables P 144115188075855872) {t : State} (h : P t) (plot q : Nat) (f : QSt → QSt) : P (State.modQueue t plot q f) := by
  unfold State.modQueue
  repeat' first
    | intro _
    | with_reducible exact h
    | with_reducible assumption
    | with_reducible apply Inv.ite
    | with_reducible apply Inv.getD
    | fail_if_no_progress (first | with_reducible refine Inv.lit hk ?_ | fail)
    | split
    | dsimp only
    | exact h

theorem cellAddr_in (plot c x : Nat) (h : memOut 1 x) : x < cellAddr plot c ∨ cellAddr plot c + 64 ≤ x := by
  unfold cellAddr
  simp only [memOut] at h
  omega

theorem Inv.putCells {P : State → Prop} (hk : Stables P 2361183241434822606848) {t : State} (h : P t) (plot q : Nat) (tail : Option Nat) (data : Bytes) (first last : Bool) :
    P (State.putCells t plot q tail data first last).1 := by
  unfold State.putCells
  dsimp only
  have hc : ∀ (m : List (Nat × Byte)) (e : Nat × Bytes), MemFair 1 m (Memory.writeN m (cellAddr plot e.1) (padTo 64 e.2)) := fun m e => by
    refine MemFair.writeN _ _ _ fun x hx => ?_
    have l : (padTo 64 e.2).length = 64 := by simp [padTo, zeros]; omega
    rw [l]; exact cellAddr_in _ _ x hx
  refine Inv.lit hk h (em := Or.inr ⟨1, by decide, ?_⟩)
  refine MemFair.trans ?_ (MemFair.foldl _ hc)
  split
  · rename_i z
    refine MemFair.writeN _ _ _ fun x hx => ?_
    have l : (leBytes 3 (((t.freeCells plot (ceilDiv data.length 56)).headD 0))).length = 3 := by simp [leBytes]
    rw [l]
    have := cellAddr_in plot z x hx
    omega
  · exact MemFair.refl _ _

theorem Inv.noCredit {P : State → Prop} (hk : Stables P 144115188109484032) {t : State} (h : P t) (plot q : Nat) (f : QSt → QSt) : P (State.noCredit t plot q f) := by
  unfold State.noCredit
  have k0 : Stables P 144115188075855872 := hk.sub rfl
  have k1 : Stables P 65536 := hk.sub rfl
  have k2 : Stables P 33628160 := hk.sub rfl
  repeat' first
    | intro _
    | with_reducible exact h
    | with_reducible assumption
    | with_reducible apply Inv.modQueue k0
    | with_reducible apply Inv.bump k1
    | with_reducible apply Inv.raise k2
    | with_reducible apply Inv.ite
    | with_reducible apply Inv.getD
    | fail_if_no_progress (first | with_reducible refine Inv.lit hk ?_ | fail)
    | split
    | dsimp only
    | exact h

theorem Inv.pushPacket {P : State → Prop} (hk : Stables P 2361327356622932090880) {t : State} (h : P t) (plot q : Nat) (data : Bytes) : P (State.pushPacket t plot q data).1 := by
  unfold State.pushPacket
  have k0 : Stables P 144115188109484032 := hk.sub rfl
  have k1 : Stables P 2361183241434822606848 := hk.sub rfl
  have k2 : Stables P 144115188075855872 := hk.sub rfl
  repeat' first
    | intro _
    | with_reducible exact h
    | with_reducible assumption
    | with_reducible apply Inv.noCredit k0
    | with_reducible apply Inv.putCells k1
    | with_reducible apply Inv.modQueue k2
    | with_reducible apply Inv.ite
    | with_reducible apply Inv.getD
    | fail_if_no_progress (first | with_reducible refine Inv.lit hk ?_ | fail)
    | split
    | dsimp only
    | exact h

theorem Inv.pushCells {P : State → Prop} (hk : Stables P 2361327356622932090880) {t : State} (h : P t) (plot q : Nat) (p : Push) : P (State.pushCells t plot q p) := by
  unfold State.pushCells
  have k0 : Stables P 144115188075855872 := hk.sub rfl
  have k1 : Stables P 144115188109484032 := hk.sub rfl
  have k2 : Stables P 2361183241434822606848 := hk.sub rfl
  repeat' first
    | intro _
    | with_reducible exact h
    | with_reducible assumption
    | with_reducible apply Inv.modQueue k0
    | with_reducible apply Inv.noCredit k1
    | with_reducible apply Inv.putCells k2
    | with_reducible apply Inv.ite
    | with_reducible apply Inv.getD
    | fail_if_no_progress (first | with_reducible refine Inv.lit hk ?_ | fail)
    | split
    | dsimp only
    | exact h

theorem Inv.execCellPush {P : State → Prop} (hk : Stables P 2361327356622932090880) {t : State} (h : P t) (plot q : Nat) (req : Option Nat) (p : Push) : Ends P (Sys2Proof.Machine.execCellPush plot q req p t) := by
  unfold Sys2Proof.Machine.execCellPush
  have k0 : Stables P 2361327356622932090880 := hk.sub rfl
  have k1 : Stables P 144115188075855872 := hk.sub rfl
  repeat' first
    | with_reducible apply Ends.next
    | with_reducible apply Ends.ite
    | intro _
    | with_reducible exact h
    | with_reducible assumption
    | with_reducible apply Inv.pushCells k0
    | with_reducible apply Inv.modQueue k1
    | with_reducible apply Inv.ite
    | with_reducible apply Inv.getD
    | fail_if_no_progress (first | with_reducible refine Inv.lit hk ?_ | fail)
    | split
    | dsimp only
    | exact h

theorem Inv.popPacket {P : State → Prop} (hk : Stables P 144115188075855872) {t : State} (h : P t) (plot q : Nat) : P (State.popPacket t plot q) := by
  unfold State.popPacket
  have k0 : Stables P 144115188075855872 := hk.sub rfl
  repeat' first
    | intro _
    | with_reducible exact h
    | with_reducible assumption
    | with_reducible apply Inv.modQueue k0
    | with_reducible apply Inv.ite
    | with_reducible apply Inv.getD
    | fail_if_no_progress (first | with_reducible refine Inv.lit hk ?_ | fail)
    | split
    | dsimp only
    | exact h

theorem Inv.poisonCells {P : State → Prop} (hk : Stables P 2361183241434822606848) {t : State} (h : P t) (plot : Nat) (cells : List Nat) : P (State.poisonCells t plot cells) :=
  Inv.lit hk h (em := Or.inr ⟨1, by decide, MemFair.foldl _ fun m c => MemFair.write _ _ _ fun x hx => by
    have := cellAddr_in plot c x hx
    omega⟩)

theorem Inv.queuedEvent {P : State → Prop} (hk : Stables P 33554432) {t : State} (h : P t) (data : Bytes) (poison : Bool) : P (State.queuedEvent t data poison) := by
  unfold State.queuedEvent
  repeat' first
    | intro _
    | with_reducible exact h
    | with_reducible assumption
    | with_reducible apply Inv.ite
    | with_reducible apply Inv.getD
    | fail_if_no_progress (first | with_reducible refine Inv.lit hk ?_ | fail)
    | split
    | dsimp only
    | exact h

theorem Inv.badPacket {P : State → Prop} (hk : Stables P 1183338816900310310912) {t : State} (h : P t) (plot : Nat) (deps : List Nat) : P (State.badPacket t plot deps) := by
  unfold State.badPacket
  have k0 : Stables P 65536 := hk.sub rfl
  have k1 : Stables P 33628160 := hk.sub rfl
  have k2 : Stables P 1183338816900310310912 := hk.sub rfl
  repeat' first
    | intro _
    | with_reducible exact h
    | with_reducible assumption
    | with_reducible apply Inv.bump k0
    | with_reducible apply Inv.raise k1
    | with_reducible apply Inv.loseAll k2
    | with_reducible apply Inv.ite
    | with_reducible apply Inv.getD
    | fail_if_no_progress (first | with_reducible refine Inv.lit hk ?_ | fail)
    | split
    | dsimp only
    | exact h

theorem Inv.popPoisoned {P : State → Prop} (hk : Stables P 3544522058335132917760) {t : State} (h : P t) (plot q : Nat) (cells words : List Nat) (data : Bytes) (deps : List Nat) : P (State.popPoisoned t plot q cells words data deps) := by
  unfold State.popPoisoned
  have k0 : Stables P 2361183241434822606848 := hk.sub rfl
  have k1 : Stables P 65536 := hk.sub rfl
  have k2 : Stables P 144115188075855872 := hk.sub rfl
  have k3 : Stables P 33628160 := hk.sub rfl
  have k4 : Stables P 33554432 := hk.sub rfl
  have k5 : Stables P 1183338816900310310912 := hk.sub rfl
  repeat' first
    | intro _
    | with_reducible exact h
    | with_reducible assumption
    | with_reducible apply Inv.poisonCells k0
    | with_reducible apply Inv.bump k1
    | with_reducible apply Inv.modQueue k2
    | with_reducible apply Inv.raise k3
    | with_reducible apply Inv.queuedEvent k4
    | with_reducible apply Inv.lose k5
    | with_reducible apply Inv.ite
    | with_reducible apply Inv.getD
    | with_reducible apply Inv.foldl
    | fail_if_no_progress (first | with_reducible refine Inv.lit hk ?_ | fail)
    | split
    | dsimp only
    | exact h

theorem Inv.execCellPop {P : State → Prop} (hk : Stables P 3544522058335132917760) {t : State} (h : P t) (plot q : Nat) (dmg : CellDamage) (deps : List Nat) : Ends P (Sys2Proof.Machine.execCellPop plot q dmg deps t) := by
  unfold Sys2Proof.Machine.execCellPop
  have k0 : Stables P 144115188075855872 := hk.sub rfl
  have k1 : Stables P 33554432 := hk.sub rfl
  have k2 : Stables P 65536 := hk.sub rfl
  have k3 : Stables P 1183338816900310310912 := hk.sub rfl
  have k4 : Stables P 3544522058335132917760 := hk.sub rfl
  repeat' first
    | with_reducible apply Ends.next
    | with_reducible apply Ends.ite
    | intro _
    | with_reducible exact h
    | with_reducible assumption
    | with_reducible apply Inv.popPacket k0
    | with_reducible apply Inv.queuedEvent k1
    | with_reducible apply Inv.bump k2
    | with_reducible apply Inv.badPacket k3
    | with_reducible apply Inv.popPoisoned k4
    | with_reducible apply Inv.ite
    | with_reducible apply Inv.mapD
    | with_reducible apply Inv.getD
    | fail_if_no_progress (first | with_reducible refine Inv.lit hk ?_ | fail)
    | split
    | dsimp only
    | exact h

theorem Inv.askFlush {P : State → Prop} (hk : Stables P 144115188075855872) {t : State} (h : P t) (plot q : Nat) : P (State.askFlush t plot q) := by
  unfold State.askFlush
  have k0 : Stables P 144115188075855872 := hk.sub rfl
  repeat' first
    | intro _
    | with_reducible exact h
    | with_reducible assumption
    | with_reducible apply Inv.modQueue k0
    | with_reducible apply Inv.ite
    | with_reducible apply Inv.getD
    | fail_if_no_progress (first | with_reducible refine Inv.lit hk ?_ | fail)
    | split
    | dsimp only
    | exact h

theorem Inv.applyFlush {P : State → Prop} (hk : Stables P 144115188075855872) {t : State} (h : P t) (plot q : Nat) : P (State.applyFlush t plot q) := by
  unfold State.applyFlush
  have k0 : Stables P 144115188075855872 := hk.sub rfl
  repeat' first
    | intro _
    | with_reducible exact h
    | with_reducible assumption
    | with_reducible apply Inv.modQueue k0
    | with_reducible apply Inv.ite
    | with_reducible apply Inv.getD
    | fail_if_no_progress (first | with_reducible refine Inv.lit hk ?_ | fail)
    | split
    | dsimp only
    | exact h

theorem Inv.execQueueFlushApply {P : State → Prop} (hk : Stables P 144115188075855872) {t : State} (h : P t) (plot q : Nat) : Ends P (Sys2Proof.Machine.execQueueFlushApply plot q t) := by
  unfold Sys2Proof.Machine.execQueueFlushApply
  have k0 : Stables P 144115188075855872 := hk.sub rfl
  repeat' first
    | with_reducible apply Ends.next
    | with_reducible apply Ends.ite
    | intro _
    | with_reducible exact h
    | with_reducible assumption
    | with_reducible apply Inv.applyFlush k0
    | with_reducible apply Inv.ite
    | with_reducible apply Inv.getD
    | fail_if_no_progress (first | with_reducible refine Inv.lit hk ?_ | fail)
    | split
    | dsimp only
    | exact h

theorem Inv.applyFlushes {P : State → Prop} (hk : Stables P 144115188075855872) {t : State} (h : P t) : P (State.applyFlushes t) := by
  unfold State.applyFlushes
  have k0 : Stables P 144115188075855872 := hk.sub rfl
  repeat' first
    | intro _
    | with_reducible exact h
    | with_reducible assumption
    | with_reducible apply Inv.applyFlush k0
    | with_reducible apply Inv.ite
    | with_reducible apply Inv.getD
    | with_reducible apply Inv.foldl
    | fail_if_no_progress (first | with_reducible refine Inv.lit hk ?_ | fail)
    | split
    | dsimp only
    | exact h

theorem Inv.giveCredits {P : State → Prop} (hk : Stables P 2361327356622932090880) {t : State} (h : P t) : P (State.giveCredits t) := by
  unfold State.giveCredits
  have k0 : Stables P 144115188075855872 := hk.sub rfl
  have k1 : Stables P 2361327356622932090880 := hk.sub rfl
  repeat' first
    | intro _
    | with_reducible exact h
    | with_reducible assumption
    | with_reducible apply Inv.modQueue k0
    | with_reducible apply Inv.pushPacket k1
    | with_reducible apply Inv.ite
    | with_reducible apply Inv.mapD
    | with_reducible apply Inv.getD
    | with_reducible apply Inv.foldl
    | fail_if_no_progress (first | with_reducible refine Inv.lit hk ?_ | fail)
    | split
    | dsimp only
    | exact h

theorem Inv.moverDone {P : State → Prop} (hk : Stables P 3544522058335132917760) {t : State} (h : P t) (e idx result last bytes : Nat) (deps : List Nat) : P (State.moverDone t e idx result last bytes deps) := by
  unfold State.moverDone
  have k0 : Stables P 2361327356622932090880 := hk.sub rfl
  have k1 : Stables P 1183338816900310310912 := hk.sub rfl
  repeat' first
    | intro _
    | with_reducible exact h
    | with_reducible assumption
    | with_reducible apply Inv.pushPacket k0
    | with_reducible apply Inv.loseAll k1
    | with_reducible apply Inv.ite
    | with_reducible apply Inv.getD
    | fail_if_no_progress (first | with_reducible refine Inv.lit hk ?_ | fail)
    | split
    | dsimp only
    | exact h

theorem Inv.noteMove {P : State → Prop} (hk : Stables P 32) {t : State} (h : P t) (e idx : Nat) (data : Bytes) : P (State.noteMove t e idx data) := by
  unfold State.noteMove
  repeat' first
    | intro _
    | with_reducible exact h
    | with_reducible assumption
    | with_reducible apply Inv.ite
    | with_reducible apply Inv.getD
    | fail_if_no_progress (first | with_reducible refine Inv.lit hk ?_ | fail)
    | split
    | dsimp only
    | exact h

theorem Inv.sourceFault {P : State → Prop} (hk : Stables P 1183376865500189499424) {t : State} (h : P t) (e off : Nat) (deps : List Nat) : P (State.sourceFault t e off deps).1 := by
  unfold State.sourceFault
  have k0 : Stables P 1183338816900310310912 := hk.sub rfl
  have k1 : Stables P 144115188075855872 := hk.sub rfl
  have k2 : Stables P 1183338816900310310912 := hk.sub rfl
  have k3 : Stables P 1183339098375287021600 := hk.sub rfl
  have k4 : Stables P 36592846517641216 := hk.sub rfl
  repeat' first
    | intro _
    | with_reducible exact h
    | with_reducible assumption
    | with_reducible apply Inv.loseAll k0
    | with_reducible apply Inv.modQueue k1
    | with_reducible apply Inv.badPacket k2
    | with_reducible apply Inv.frameFault k3
    | with_reducible apply Inv.homeFault k4
    | with_reducible apply Inv.unitLost (hk.sub rfl)
    | with_reducible apply Inv.ite
    | with_reducible apply Inv.mapD
    | with_reducible apply Inv.getD
    | fail_if_no_progress (first | with_reducible refine Inv.lit hk ?_ | fail)
    | split
    | dsimp only
    | exact h

theorem Inv.moverEnd {P : State → Prop} (hk : Stables P 13284513176185181642784) {t : State} (h : P t) (e idx : Nat) (out : List (Nat × Bytes)) (fin : MoveEnd) (deps : List Nat) : P (State.moverEnd t e idx out fin deps) := by
  unfold State.moverEnd
  have k0 : Stables P 9444807134395687313408 := hk.sub rfl
  have k1 : Stables P 33628160 := hk.sub rfl
  have k2 : Stables P 1183338816900310310912 := hk.sub rfl
  have k3 : Stables P 65536 := hk.sub rfl
  have k4 : Stables P 3544522058335132917760 := hk.sub rfl
  have k5 : Stables P 65568 := hk.sub rfl
  have k6 : Stables P 1183376865500189499424 := hk.sub rfl
  repeat' first
    | intro _
    | with_reducible exact h
    | with_reducible assumption
    | with_reducible apply Inv.writeField k0
    | with_reducible apply Inv.raise k1
    | with_reducible apply Inv.loseAll k2
    | with_reducible apply Inv.bump k3
    | with_reducible apply Inv.moverDone k4
    | with_reducible apply Inv.useSpill k5
    | with_reducible apply Inv.sourceFault k6
    | with_reducible apply Inv.ite
    | with_reducible apply Inv.mapD
    | with_reducible apply Inv.getD
    | with_reducible apply Inv.foldl
    | fail_if_no_progress (first | with_reducible refine Inv.lit hk ?_ | fail)
    | split
    | dsimp only
    | exact h

theorem Inv.transfer {P : State → Prop} (hk : Stables P 13284513176185181642784) {t : State} (h : P t) (idx mode : Nat) (fin : MoveEnd) (deps : List Nat) : P (State.transfer t idx mode fin deps) := by
  unfold State.transfer
  have k0 : Stables P 295147905179352825856 := hk.sub rfl
  have k1 : Stables P 33628160 := hk.sub rfl
  have k2 : Stables P 1183338816900310310912 := hk.sub rfl
  have k3 : Stables P 13284513176185181642784 := hk.sub rfl
  have k4 : Stables P 281474976710656 := hk.sub rfl
  have k5 : Stables P 32 := hk.sub rfl
  repeat' first
    | intro _
    | with_reducible exact h
    | with_reducible assumption
    | with_reducible apply Inv.readField k0
    | with_reducible apply Inv.raise k1
    | with_reducible apply Inv.loseAll k2
    | with_reducible apply Inv.moverEnd k3
    | with_reducible apply Inv.countReads k4
    | with_reducible apply Inv.noteMove k5
    | with_reducible apply Inv.ite
    | with_reducible apply Inv.getD
    | with_reducible apply Inv.foldl
    | fail_if_no_progress (first | with_reducible refine Inv.lit hk ?_ | fail)
    | split
    | dsimp only
    | exact h

theorem Inv.execCopy {P : State → Prop} (hk : Stables P 13284513176185181642784) {t : State} (h : P t) (idx : Nat) (fin : MoveEnd) (deps : List Nat) : Ends P (Sys2Proof.Machine.execCopy idx fin deps t) := by
  unfold Sys2Proof.Machine.execCopy
  have k0 : Stables P 13284513176185181642784 := hk.sub rfl
  repeat' first
    | with_reducible apply Ends.next
    | with_reducible apply Ends.ite
    | intro _
    | with_reducible exact h
    | with_reducible assumption
    | with_reducible apply Inv.transfer k0
    | with_reducible apply Inv.ite
    | with_reducible apply Inv.getD
    | fail_if_no_progress (first | with_reducible refine Inv.lit hk ?_ | fail)
    | split
    | dsimp only
    | exact h

theorem Inv.execTranspose {P : State → Prop} (hk : Stables P 13284513176185181642784) {t : State} (h : P t) (idx : Nat) (fin : MoveEnd) (deps : List Nat) : Ends P (Sys2Proof.Machine.execTranspose idx fin deps t) := by
  unfold Sys2Proof.Machine.execTranspose
  have k0 : Stables P 13284513176185181642784 := hk.sub rfl
  repeat' first
    | with_reducible apply Ends.next
    | with_reducible apply Ends.ite
    | intro _
    | with_reducible exact h
    | with_reducible assumption
    | with_reducible apply Inv.transfer k0
    | with_reducible apply Inv.ite
    | with_reducible apply Inv.getD
    | fail_if_no_progress (first | with_reducible refine Inv.lit hk ?_ | fail)
    | split
    | dsimp only
    | exact h

theorem Inv.execUntranspose {P : State → Prop} (hk : Stables P 13284513176185181642784) {t : State} (h : P t) (idx : Nat) (fin : MoveEnd) (deps : List Nat) : Ends P (Sys2Proof.Machine.execUntranspose idx fin deps t) := by
  unfold Sys2Proof.Machine.execUntranspose
  have k0 : Stables P 13284513176185181642784 := hk.sub rfl
  repeat' first
    | with_reducible apply Ends.next
    | with_reducible apply Ends.ite
    | intro _
    | with_reducible exact h
    | with_reducible assumption
    | with_reducible apply Inv.transfer k0
    | with_reducible apply Inv.ite
    | with_reducible apply Inv.getD
    | fail_if_no_progress (first | with_reducible refine Inv.lit hk ?_ | fail)
    | split
    | dsimp only
    | exact h

theorem Inv.execGather {P : State → Prop} (hk : Stables P 13284513176185181642784) {t : State} (h : P t) (idx : Nat) (fin : MoveEnd) (deps : List Nat) : Ends P (Sys2Proof.Machine.execGather idx fin deps t) := by
  unfold Sys2Proof.Machine.execGather
  have k0 : Stables P 13284513176185181642784 := hk.sub rfl
  repeat' first
    | with_reducible apply Ends.next
    | with_reducible apply Ends.ite
    | intro _
    | with_reducible exact h
    | with_reducible assumption
    | with_reducible apply Inv.transfer k0
    | with_reducible apply Inv.ite
    | with_reducible apply Inv.getD
    | fail_if_no_progress (first | with_reducible refine Inv.lit hk ?_ | fail)
    | split
    | dsimp only
    | exact h

theorem Inv.execScatter {P : State → Prop} (hk : Stables P 13284513176185181642784) {t : State} (h : P t) (idx : Nat) (fin : MoveEnd) (deps : List Nat) : Ends P (Sys2Proof.Machine.execScatter idx fin deps t) := by
  unfold Sys2Proof.Machine.execScatter
  have k0 : Stables P 13284513176185181642784 := hk.sub rfl
  repeat' first
    | with_reducible apply Ends.next
    | with_reducible apply Ends.ite
    | intro _
    | with_reducible exact h
    | with_reducible assumption
    | with_reducible apply Inv.transfer k0
    | with_reducible apply Inv.ite
    | with_reducible apply Inv.getD
    | fail_if_no_progress (first | with_reducible refine Inv.lit hk ?_ | fail)
    | split
    | dsimp only
    | exact h

end Sys2Proof.Machine
end

