-- ==== Sys2Proof/Laws/KeepsTensor.lean ====
section
/-! SUPPORT. What the operations of Machine/Tensor.lean leave as it is: one lemma for each. -/

set_option linter.unusedTactic false
set_option linter.unreachableTactic false
set_option linter.unusedVariables false

namespace Sys2Proof.Machine
set_option Elab.async false

theorem Inv.setBuf {P : State → Prop} (hk : Stables P 17179869184) {t : State} (h : P t) (tag id : Nat) (b : Buf) : P (State.setBuf t tag id b) := by
  unfold State.setBuf
  have k0 : Stables P 17179869184 := hk.sub rfl
  repeat' first
    | intro _
    | with_reducible exact h
    | with_reducible assumption
    | with_reducible apply Inv.modWork k0
    | with_reducible apply Inv.ite
    | with_reducible apply Inv.getD
    | fail_if_no_progress (first | with_reducible refine Inv.lit hk ?_ | fail)
    | split
    | dsimp only
    | exact h

theorem Inv.startPass {P : State → Prop} (hk : Stables P 17179869184) {t : State} (h : P t) (tags : List Nat) : P (State.startPass t tags) := by
  unfold State.startPass
  repeat' first
    | intro _
    | with_reducible exact h
    | with_reducible assumption
    | with_reducible apply Inv.ite
    | with_reducible apply Inv.mapD
    | with_reducible apply Inv.getD
    | fail_if_no_progress (first | with_reducible refine Inv.lit hk ?_ | fail)
    | split
    | dsimp only
    | exact h

theorem Inv.endPass {P : State → Prop} (hk : Stables P 17179869184) {t : State} (h : P t) (tag : Nat) : P (State.endPass t tag) := by
  unfold State.endPass
  have k0 : Stables P 17179869184 := hk.sub rfl
  repeat' first
    | intro _
    | with_reducible exact h
    | with_reducible assumption
    | with_reducible apply Inv.modWork k0
    | with_reducible apply Inv.ite
    | with_reducible apply Inv.getD
    | fail_if_no_progress (first | with_reducible refine Inv.lit hk ?_ | fail)
    | split
    | dsimp only
    | exact h

theorem Inv.stepProg {P : State → Prop} (hk : Stables P 17179869184) {t : State} (h : P t) (tag : Nat) : P (State.stepProg t tag) := by
  unfold State.stepProg
  have k0 : Stables P 17179869184 := hk.sub rfl
  have k1 : Stables P 17179869184 := hk.sub rfl
  repeat' first
    | intro _
    | with_reducible exact h
    | with_reducible assumption
    | with_reducible apply Inv.modWork k0
    | with_reducible apply Inv.endPass k1
    | with_reducible apply Inv.ite
    | with_reducible apply Inv.mapD
    | with_reducible apply Inv.getD
    | fail_if_no_progress (first | with_reducible refine Inv.lit hk ?_ | fail)
    | split
    | dsimp only
    | exact h

theorem Inv.checkBatch {P : State → Prop} (hk : Stables P 1183375691221771034656) {t : State} (h : P t) (c : Chk) (plot code loc idx sub : Nat) (tags : List Nat) : P (State.checkBatch t c plot code loc idx sub tags).1 := by
  unfold State.checkBatch
  have k0 : Stables P 65536 := hk.sub rfl
  have k1 : Stables P 1183375691221771034656 := hk.sub rfl
  repeat' first
    | intro _
    | with_reducible exact h
    | with_reducible assumption
    | with_reducible apply Inv.bump k0
    | with_reducible apply Inv.check k1
    | with_reducible apply Inv.ite
    | with_reducible apply Inv.getD
    | fail_if_no_progress (first | with_reducible refine Inv.lit hk ?_ | fail)
    | split
    | dsimp only
    | exact h

theorem Inv.runBatch {P : State → Prop} (hk : Stables P 17179869184) {t : State} (h : P t) (op : Nat) (ti : TInstr) (tags : List Nat)
    (whole : List Nat → State → State × Bool) (part : Nat → Work → State → State) (hw : ∀ b v, P v → P (whole b v).1)
    (hp : ∀ n w v, P v → P (part n w v)) : P (State.runBatch t op ti tags whole part) := by
  have k0 : Stables P 17179869184 := hk.sub rfl
  have k1 : Stables P 17179869184 := hk.sub rfl
  unfold State.runBatch
  dsimp only
  split
  · exact h
  · split
    · exact hw _ _ (Inv.startPass k0 h _)
    · refine Inv.foldl (fun v n hv => ?_) (hw _ _ (Inv.startPass k0 h _))
      split
      · exact Inv.stepProg k1 (hp _ _ _ hv) _
      · exact hv

theorem Inv.modArr {P : State → Prop} (hk : Stables P 18014398509481984) {t : State} (h : P t) (a : Nat) (f : TArr → TArr) : P (State.modArr t a f) := by
  unfold State.modArr
  repeat' first
    | intro _
    | with_reducible exact h
    | with_reducible assumption
    | with_reducible apply Inv.ite
    | with_reducible apply Inv.getD
    | fail_if_no_progress (first | with_reducible refine Inv.lit hk ?_ | fail)
    | split
    | dsimp only
    | exact h

theorem Inv.tallyNan {P : State → Prop} (hk : Stables P 65536) {t : State} (h : P t) (fl : Flags) : P (State.tallyNan t fl) := by
  unfold State.tallyNan
  have k0 : Stables P 65536 := hk.sub rfl
  repeat' first
    | intro _
    | with_reducible exact h
    | with_reducible assumption
    | with_reducible apply Inv.bump k0
    | with_reducible apply Inv.ite
    | with_reducible apply Inv.getD
    | fail_if_no_progress (first | with_reducible refine Inv.lit hk ?_ | fail)
    | split
    | dsimp only
    | exact h

theorem Inv.tally {P : State → Prop} (hk : Stables P 18014398509547520) {t : State} (h : P t) (a : Nat) (fl : Flags) : P (State.tally t a fl) := by
  unfold State.tally
  have k0 : Stables P 18014398509481984 := hk.sub rfl
  have k1 : Stables P 65536 := hk.sub rfl
  repeat' first
    | intro _
    | with_reducible exact h
    | with_reducible assumption
    | with_reducible apply Inv.modArr k0
    | with_reducible apply Inv.tallyNan k1
    | with_reducible apply Inv.ite
    | with_reducible apply Inv.getD
    | fail_if_no_progress (first | with_reducible refine Inv.lit hk ?_ | fail)
    | split
    | dsimp only
    | exact h

theorem Inv.execGemm {P : State → Prop} (hk : Stables P 1183393705620280516640) {t : State} (h : P t) (tags : List Nat) (arr : Nat) (ti : TInstr) (chk resc : Chk) : Ends P (Sys2Proof.Machine.execGemm tags arr ti chk resc t) := by
  unfold Sys2Proof.Machine.execGemm
  have k0 : Stables P 17179869184 := hk.sub rfl
  have k1 : Stables P 1183375691221771034656 := hk.sub rfl
  have k2 : Stables P 18014398509547520 := hk.sub rfl
  have k3 : Stables P 17179869184 := hk.sub rfl
  repeat' first
    | with_reducible apply Ends.next
    | with_reducible apply Ends.ite
    | intro _
    | with_reducible exact h
    | with_reducible assumption
    | with_reducible apply Inv.runBatch k0
    | with_reducible apply Inv.checkBatch k1
    | with_reducible apply Inv.tally k2
    | with_reducible apply Inv.setBuf k3
    | with_reducible apply Inv.ite
    | with_reducible apply Inv.getD
    | fail_if_no_progress (first | with_reducible refine Inv.lit hk ?_ | fail)
    | split
    | dsimp only
    | exact h

theorem Inv.noCheck {P : State → Prop} (hk : Stables P 0) {t : State} (h : P t) (x0_ : List Nat) : P (Sys2Proof.Machine.noCheck x0_ t).1 := by
  unfold Sys2Proof.Machine.noCheck
  repeat' first
    | intro _
    | with_reducible exact h
    | with_reducible assumption
    | with_reducible apply Inv.ite
    | with_reducible apply Inv.getD
    | fail_if_no_progress (first | with_reducible refine Inv.lit hk ?_ | fail)
    | split
    | dsimp only
    | exact h

theorem Inv.loadScales {P : State → Prop} (hk : Stables P 18014398509481984) {t : State} (h : P t) (arr : Nat) (ti : TInstr) (w : Work) : P (State.loadScales t arr ti w) := by
  unfold State.loadScales
  have k0 : Stables P 18014398509481984 := hk.sub rfl
  repeat' first
    | intro _
    | with_reducible exact h
    | with_reducible assumption
    | with_reducible apply Inv.modArr k0
    | with_reducible apply Inv.ite
    | with_reducible apply Inv.getD
    | fail_if_no_progress (first | with_reducible refine Inv.lit hk ?_ | fail)
    | split
    | dsimp only
    | exact h

theorem Inv.execLoadScales {P : State → Prop} (hk : Stables P 18014415689351168) {t : State} (h : P t) (tags : List Nat) (arr : Nat) (ti : TInstr) : Ends P (Sys2Proof.Machine.execLoadScales tags arr ti t) := by
  unfold Sys2Proof.Machine.execLoadScales
  have k0 : Stables P 17179869184 := hk.sub rfl
  have k1 : Stables P 18014398509481984 := hk.sub rfl
  repeat' first
    | with_reducible apply Ends.next
    | with_reducible apply Ends.ite
    | intro _
    | with_reducible exact h
    | with_reducible assumption
    | with_reducible apply Inv.runBatch k0
    | with_reducible apply Inv.loadScales k1
    | with_reducible apply Inv.ite
    | with_reducible apply Inv.mapD
    | with_reducible apply Inv.getD
    | fail_if_no_progress (first | with_reducible refine Inv.lit hk ?_ | fail)
    | split
    | dsimp only
    | exact h

theorem Inv.execSwapScales {P : State → Prop} (hk : Stables P 18014415689351168) {t : State} (h : P t) (tags : List Nat) (arr : Nat) (ti : TInstr) : Ends P (Sys2Proof.Machine.execSwapScales tags arr ti t) := by
  unfold Sys2Proof.Machine.execSwapScales
  have k0 : Stables P 17179869184 := hk.sub rfl
  have k1 : Stables P 18014398509481984 := hk.sub rfl
  repeat' first
    | with_reducible apply Ends.next
    | with_reducible apply Ends.ite
    | intro _
    | with_reducible exact h
    | with_reducible assumption
    | with_reducible apply Inv.runBatch k0
    | with_reducible apply Inv.modArr k1
    | with_reducible apply Inv.ite
    | with_reducible apply Inv.getD
    | fail_if_no_progress (first | with_reducible refine Inv.lit hk ?_ | fail)
    | split
    | dsimp only
    | exact h

theorem Inv.clipDumped {P : State → Prop} (hk : Stables P 18014398543110144) {t : State} (h : P t) (arr : Nat) : P (State.clipDumped t arr) := by
  unfold State.clipDumped
  have k0 : Stables P 33628160 := hk.sub rfl
  have k1 : Stables P 65536 := hk.sub rfl
  have k2 : Stables P 18014398509481984 := hk.sub rfl
  repeat' first
    | intro _
    | with_reducible exact h
    | with_reducible assumption
    | with_reducible apply Inv.raise k0
    | with_reducible apply Inv.bump k1
    | with_reducible apply Inv.modArr k2
    | with_reducible apply Inv.ite
    | with_reducible apply Inv.getD
    | with_reducible apply Inv.foldl
    | fail_if_no_progress (first | with_reducible refine Inv.lit hk ?_ | fail)
    | split
    | dsimp only
    | exact h

theorem Inv.execClipDump {P : State → Prop} (hk : Stables P 18014415722979328) {t : State} (h : P t) (tags : List Nat) (arr : Nat) (ti : TInstr) : Ends P (Sys2Proof.Machine.execClipDump tags arr ti t) := by
  unfold Sys2Proof.Machine.execClipDump
  have k0 : Stables P 17179869184 := hk.sub rfl
  have k1 : Stables P 18014398543110144 := hk.sub rfl
  have k2 : Stables P 17179869184 := hk.sub rfl
  repeat' first
    | with_reducible apply Ends.next
    | with_reducible apply Ends.ite
    | intro _
    | with_reducible exact h
    | with_reducible assumption
    | with_reducible apply Inv.runBatch k0
    | with_reducible apply Inv.clipDumped k1
    | with_reducible apply Inv.modWork k2
    | with_reducible apply Inv.ite
    | with_reducible apply Inv.getD
    | fail_if_no_progress (first | with_reducible refine Inv.lit hk ?_ | fail)
    | split
    | dsimp only
    | exact h

theorem Inv.vectorCheck {P : State → Prop} (hk : Stables P 1183375691221771034656) {t : State} (h : P t) (arr : Nat) (chk : Chk) (b : List Nat) : P (State.vectorCheck t arr chk b).1 := by
  unfold State.vectorCheck
  have k0 : Stables P 1183375691221771034656 := hk.sub rfl
  repeat' first
    | intro _
    | with_reducible exact h
    | with_reducible assumption
    | with_reducible apply Inv.checkBatch k0
    | with_reducible apply Inv.ite
    | with_reducible apply Inv.getD
    | fail_if_no_progress (first | with_reducible refine Inv.lit hk ?_ | fail)
    | split
    | dsimp only
    | exact h

theorem Inv.vectorOp {P : State → Prop} (hk : Stables P 1183393705620280516640) {t : State} (h : P t) (op : Nat) (tags : List Nat) (arr : Nat) (ti : TInstr) (chk : Chk) (rows : State → Nat → Work → List (List Nat) × Flags) : P (State.vectorOp t op tags arr ti chk rows) := by
  unfold State.vectorOp
  have k0 : Stables P 17179869184 := hk.sub rfl
  have k1 : Stables P 1183375691221771034656 := hk.sub rfl
  have k2 : Stables P 18014398509547520 := hk.sub rfl
  have k3 : Stables P 17179869184 := hk.sub rfl
  repeat' first
    | intro _
    | with_reducible exact h
    | with_reducible assumption
    | with_reducible apply Inv.runBatch k0
    | with_reducible apply Inv.vectorCheck k1
    | with_reducible apply Inv.tally k2
    | with_reducible apply Inv.setBuf k3
    | with_reducible apply Inv.ite
    | with_reducible apply Inv.getD
    | fail_if_no_progress (first | with_reducible refine Inv.lit hk ?_ | fail)
    | split
    | dsimp only
    | exact h

theorem Inv.execEwise {P : State → Prop} (hk : Stables P 1183393705620280516640) {t : State} (h : P t) (tags : List Nat) (arr : Nat) (ti : TInstr) (chk : Chk) : Ends P (Sys2Proof.Machine.execEwise tags arr ti chk t) := by
  unfold Sys2Proof.Machine.execEwise
  have k0 : Stables P 17179869184 := hk.sub rfl
  have k1 : Stables P 1183375691221771034656 := hk.sub rfl
  have k2 : Stables P 18014398509547520 := hk.sub rfl
  have k3 : Stables P 17179869184 := hk.sub rfl
  repeat' first
    | with_reducible apply Ends.next
    | with_reducible apply Ends.ite
    | intro _
    | with_reducible exact h
    | with_reducible assumption
    | with_reducible apply Inv.runBatch k0
    | with_reducible apply Inv.vectorCheck k1
    | with_reducible apply Inv.tally k2
    | with_reducible apply Inv.setBuf k3
    | with_reducible apply Inv.ite
    | with_reducible apply Inv.getD
    | fail_if_no_progress (first | with_reducible refine Inv.lit hk ?_ | fail)
    | split
    | dsimp only
    | exact h

theorem Inv.execAct {P : State → Prop} (hk : Stables P 1183393705620280516640) {t : State} (h : P t) (tags : List Nat) (arr : Nat) (ti : TInstr) (chk : Chk) : Ends P (Sys2Proof.Machine.execAct tags arr ti chk t) := by
  unfold Sys2Proof.Machine.execAct
  have k0 : Stables P 1183393705620280516640 := hk.sub rfl
  repeat' first
    | with_reducible apply Ends.next
    | with_reducible apply Ends.ite
    | intro _
    | with_reducible exact h
    | with_reducible assumption
    | with_reducible apply Inv.vectorOp k0
    | with_reducible apply Inv.ite
    | with_reducible apply Inv.getD
    | fail_if_no_progress (first | with_reducible refine Inv.lit hk ?_ | fail)
    | split
    | dsimp only
    | exact h

theorem Inv.execNorm {P : State → Prop} (hk : Stables P 1183393705620280516640) {t : State} (h : P t) (tags : List Nat) (arr : Nat) (ti : TInstr) (chk : Chk) : Ends P (Sys2Proof.Machine.execNorm tags arr ti chk t) := by
  unfold Sys2Proof.Machine.execNorm
  have k0 : Stables P 1183393705620280516640 := hk.sub rfl
  repeat' first
    | with_reducible apply Ends.next
    | with_reducible apply Ends.ite
    | intro _
    | with_reducible exact h
    | with_reducible assumption
    | with_reducible apply Inv.vectorOp k0
    | with_reducible apply Inv.ite
    | with_reducible apply Inv.getD
    | fail_if_no_progress (first | with_reducible refine Inv.lit hk ?_ | fail)
    | split
    | dsimp only
    | exact h

theorem Inv.execSoftmax {P : State → Prop} (hk : Stables P 1183393705620280516640) {t : State} (h : P t) (tags : List Nat) (arr : Nat) (ti : TInstr) (chk : Chk) : Ends P (Sys2Proof.Machine.execSoftmax tags arr ti chk t) := by
  unfold Sys2Proof.Machine.execSoftmax
  have k0 : Stables P 1183393705620280516640 := hk.sub rfl
  repeat' first
    | with_reducible apply Ends.next
    | with_reducible apply Ends.ite
    | intro _
    | with_reducible exact h
    | with_reducible assumption
    | with_reducible apply Inv.vectorOp k0
    | with_reducible apply Inv.ite
    | with_reducible apply Inv.getD
    | fail_if_no_progress (first | with_reducible refine Inv.lit hk ?_ | fail)
    | split
    | dsimp only
    | exact h

theorem Inv.execPool {P : State → Prop} (hk : Stables P 1183393705620280516640) {t : State} (h : P t) (tags : List Nat) (arr : Nat) (ti : TInstr) (chk : Chk) : Ends P (Sys2Proof.Machine.execPool tags arr ti chk t) := by
  unfold Sys2Proof.Machine.execPool
  have k0 : Stables P 1183393705620280516640 := hk.sub rfl
  repeat' first
    | with_reducible apply Ends.next
    | with_reducible apply Ends.ite
    | intro _
    | with_reducible exact h
    | with_reducible assumption
    | with_reducible apply Inv.vectorOp k0
    | with_reducible apply Inv.ite
    | with_reducible apply Inv.getD
    | fail_if_no_progress (first | with_reducible refine Inv.lit hk ?_ | fail)
    | split
    | dsimp only
    | exact h

theorem Inv.execConvert {P : State → Prop} (hk : Stables P 18014415689416704) {t : State} (h : P t) (tags : List Nat) (arr : Nat) (ti : TInstr) : Ends P (Sys2Proof.Machine.execConvert tags arr ti t) := by
  unfold Sys2Proof.Machine.execConvert
  have k0 : Stables P 17179869184 := hk.sub rfl
  have k1 : Stables P 0 := hk.sub rfl
  have k2 : Stables P 18014398509547520 := hk.sub rfl
  have k3 : Stables P 17179869184 := hk.sub rfl
  repeat' first
    | with_reducible apply Ends.next
    | with_reducible apply Ends.ite
    | intro _
    | with_reducible exact h
    | with_reducible assumption
    | with_reducible apply Inv.runBatch k0
    | with_reducible apply Inv.noCheck k1
    | with_reducible apply Inv.tally k2
    | with_reducible apply Inv.setBuf k3
    | with_reducible apply Inv.ite
    | with_reducible apply Inv.getD
    | fail_if_no_progress (first | with_reducible refine Inv.lit hk ?_ | fail)
    | split
    | dsimp only
    | exact h

theorem Inv.issueBlocks {P : State → Prop} (hk : Stables P 72057594037927936) {t : State} (h : P t) (ps : List TillPlace) (rows : List (List Int)) : P (State.issueBlocks t ps rows).2 := by
  unfold State.issueBlocks
  have k0 : Stables P 72057594037927936 := hk.sub rfl
  have k1 : Stables P 72057594037927936 := hk.sub rfl
  repeat' first
    | intro _
    | with_reducible exact h
    | with_reducible assumption
    | with_reducible apply Inv.modTg k0
    | with_reducible apply Inv.putProducts k1
    | with_reducible apply Inv.ite
    | with_reducible apply Inv.getD
    | with_reducible apply Inv.foldl
    | with_reducible apply Inv.foldFst
    | with_reducible apply Inv.foldSnd
    | fail_if_no_progress (first | with_reducible refine Inv.lit hk ?_ | fail)
    | split
    | dsimp only
    | exact h

theorem Inv.tillOut {P : State → Prop} (hk : Stables P 72057594037927936) {t : State} (h : P t) (w : Work) (ti : TInstr) (x : Buf) (reg : Nat → Nat) : P (State.tillOut t w ti x reg).2 := by
  unfold State.tillOut
  have k0 : Stables P 72057594037927936 := hk.sub rfl
  repeat' first
    | intro _
    | with_reducible exact h
    | with_reducible assumption
    | with_reducible apply Inv.issueBlocks k0
    | with_reducible apply Inv.ite
    | with_reducible apply Inv.getD
    | fail_if_no_progress (first | with_reducible refine Inv.lit hk ?_ | fail)
    | split
    | dsimp only
    | exact h

theorem Inv.execTillMatvec {P : State → Prop} (hk : Stables P 1183447748815808962592) {t : State} (h : P t) (tags : List Nat) (ti : TInstr) (chk : TillChk) : Ends P (Sys2Proof.Machine.execTillMatvec tags ti chk t) := by
  unfold Sys2Proof.Machine.execTillMatvec
  have k0 : Stables P 17179869184 := hk.sub rfl
  have k1 : Stables P 33628160 := hk.sub rfl
  have k2 : Stables P 1183338816900310310912 := hk.sub rfl
  have k3 : Stables P 1183375691221771034656 := hk.sub rfl
  have k4 : Stables P 72057594037927936 := hk.sub rfl
  have k5 : Stables P 65536 := hk.sub rfl
  have k6 : Stables P 17179869184 := hk.sub rfl
  repeat' first
    | with_reducible apply Ends.next
    | with_reducible apply Ends.ite
    | intro _
    | with_reducible exact h
    | with_reducible assumption
    | with_reducible apply Inv.runBatch k0
    | with_reducible apply Inv.raise k1
    | with_reducible apply Inv.loseAll k2
    | with_reducible apply Inv.checkBatch k3
    | with_reducible apply Inv.tillOut k4
    | with_reducible apply Inv.tallyNan k5
    | with_reducible apply Inv.setBuf k6
    | with_reducible apply Inv.ite
    | with_reducible apply Inv.mapD
    | with_reducible apply Inv.getD
    | fail_if_no_progress (first | with_reducible refine Inv.lit hk ?_ | fail)
    | split
    | dsimp only
    | exact h

theorem Inv.refuseRow {P : State → Prop} (hk : Stables P 1183338816900310310912) {t : State} (h : P t) (tag det : Nat) : P (State.refuseRow t tag det) := by
  unfold State.refuseRow
  have k0 : Stables P 33628160 := hk.sub rfl
  have k1 : Stables P 1183338816900276748288 := hk.sub rfl
  repeat' first
    | intro _
    | with_reducible exact h
    | with_reducible assumption
    | with_reducible apply Inv.raise k0
    | with_reducible apply Inv.completeEmpty k1
    | with_reducible apply Inv.ite
    | with_reducible apply Inv.getD
    | fail_if_no_progress (first | with_reducible refine Inv.lit hk ?_ | fail)
    | split
    | dsimp only
    | exact h

theorem Inv.execQueryPrepare {P : State → Prop} (hk : Stables P 1183375691221771034656) {t : State} (h : P t) (tag : Nat) (chk : Chk) : Ends P (Sys2Proof.Machine.execQueryPrepare tag chk t) := by
  unfold Sys2Proof.Machine.execQueryPrepare
  have k0 : Stables P 0 := hk.sub rfl
  have k1 : Stables P 1183338816900310310912 := hk.sub rfl
  have k2 : Stables P 1183375691221771034656 := hk.sub rfl
  have k3 : Stables P 65536 := hk.sub rfl
  have k4 : Stables P 33628160 := hk.sub rfl
  have k5 : Stables P 17179869184 := hk.sub rfl
  repeat' first
    | with_reducible apply Ends.next
    | with_reducible apply Ends.ite
    | intro _
    | with_reducible exact h
    | with_reducible assumption
    | with_reducible apply Inv.during k0
    | with_reducible apply Inv.refuseRow k1
    | with_reducible apply Inv.checkIn k2
    | with_reducible apply Inv.tallyNan k3
    | with_reducible apply Inv.raise k4
    | with_reducible apply Inv.modWork k5
    | with_reducible apply Inv.ite
    | with_reducible apply Inv.getD
    | fail_if_no_progress (first | with_reducible refine Inv.lit hk ?_ | fail)
    | split
    | dsimp only
    | exact h

end Sys2Proof.Machine
end

