-- ==== Sys2Proof/Laws/KeepsGen.lean ====
section
/-! SUPPORT. What the operations of Machine/Gen.lean leave as it is: one lemma for each. -/

set_option linter.unusedTactic false
set_option linter.unreachableTactic false
set_option linter.unusedVariables false

namespace Sys2Proof.Machine
set_option Elab.async false

theorem Inv.doModelDrain {P : State → Prop} (hk : Stables P 4503599660998656) {t : State} (h : P t) (slot : Nat) : P (State.doModelDrain t slot) := by
  unfold State.doModelDrain
  have k0 : Stables P 65536 := hk.sub rfl
  have k1 : Stables P 33628160 := hk.sub rfl
  repeat' first
    | intro _
    | with_reducible exact h
    | with_reducible assumption
    | with_reducible apply Inv.setN k0
    | with_reducible apply Inv.raise k1
    | with_reducible apply Inv.ite
    | with_reducible apply Inv.getD
    | fail_if_no_progress (first | with_reducible refine Inv.lit hk ?_ | fail)
    | split
    | dsimp only
    | exact h

theorem Inv.placeTensors {P : State → Prop} (hk : Stables P 140737488355328) {t : State} (h : P t) (slot : Nat) (img : Bytes) (part : Nat) : P (State.placeTensors t slot img part) := by
  unfold State.placeTensors
  repeat' first
    | intro _
    | with_reducible exact h
    | with_reducible assumption
    | with_reducible apply Inv.ite
    | with_reducible apply Inv.getD
    | with_reducible apply Inv.foldl
    | with_reducible apply Inv.foldFst
    | with_reducible apply Inv.foldSnd
    | fail_if_no_progress (first | with_reducible refine Inv.lit hk ?_ | fail)
    | split
    | dsimp only
    | exact h

theorem Inv.doModelActivate {P : State → Prop} (hk : Stables P 4644337149353984) {t : State} (h : P t) (slot : Nat) : P (State.doModelActivate t slot) := by
  unfold State.doModelActivate
  have k0 : Stables P 140737488355328 := hk.sub rfl
  have k1 : Stables P 65536 := hk.sub rfl
  have k2 : Stables P 65536 := hk.sub rfl
  have k3 : Stables P 33628160 := hk.sub rfl
  repeat' first
    | intro _
    | with_reducible exact h
    | with_reducible assumption
    | with_reducible apply Inv.placeTensors k0
    | with_reducible apply Inv.setLive k1
    | with_reducible apply Inv.setN k2
    | with_reducible apply Inv.raise k3
    | with_reducible apply Inv.ite
    | with_reducible apply Inv.getD
    | fail_if_no_progress (first | with_reducible refine Inv.lit hk ?_ | fail)
    | split
    | dsimp only
    | exact h

theorem Inv.modGen {P : State → Prop} (hk : Stables P 17179869184) {t : State} (h : P t) (tag : Nat) (f : GenWork → GenWork) : P (State.modGen t tag f) := by
  unfold State.modGen
  have k0 : Stables P 17179869184 := hk.sub rfl
  repeat' first
    | intro _
    | with_reducible exact h
    | with_reducible assumption
    | with_reducible apply Inv.modWork k0
    | with_reducible apply Inv.ite
    | with_reducible apply Inv.getD
    | fail_if_no_progress (first | with_reducible refine Inv.lit hk ?_ | fail)
    | split
    | dsimp only
    | exact h

theorem Inv.genPhase {P : State → Prop} (hk : Stables P 0) {t : State} (h : P t) (tag phase : Nat) (k : Nat → Work → GenWork → State) (hk2 : ∀ n w g, P (k n w g)) :
    P (State.genPhase t tag phase k) := by
  have k0 : Stables P 0 := hk.sub rfl
  unfold State.genPhase
  apply Inv.during k0 h
  intro n w
  repeat' first
    | intro _
    | with_reducible exact h
    | exact hk2 _ _ _
    | with_reducible apply Inv.ite
    | split

theorem Inv.refuseGen {P : State → Prop} (hk : Stables P 1183338816900310310912) {t : State} (h : P t) (tag home entry : Nat) : P (State.refuseGen t tag home entry) := by
  unfold State.refuseGen
  have k0 : Stables P 33628160 := hk.sub rfl
  have k1 : Stables P 1183338816900276748288 := hk.sub rfl
  repeat' first
    | intro _
    | with_reducible exact h
    | with_reducible assumption
    | with_reducible apply Inv.raise k0
    | with_reducible apply Inv.completeEmpty k1
    | with_reducible apply Inv.ite
    | with_reducible apply Inv.getD
    | fail_if_no_progress (first | with_reducible refine Inv.lit hk ?_ | fail)
    | split
    | dsimp only
    | exact h

theorem Inv.loadPass {P : State → Prop} (hk : Stables P 17179869184) {t : State} (h : P t) (tag : Nat) : P (State.loadPass t tag) := by
  unfold State.loadPass
  have k0 : Stables P 17179869184 := hk.sub rfl
  repeat' first
    | intro _
    | with_reducible exact h
    | with_reducible assumption
    | with_reducible apply Inv.modWork k0
    | with_reducible apply Inv.ite
    | with_reducible apply Inv.getD
    | fail_if_no_progress (first | with_reducible refine Inv.lit hk ?_ | fail)
    | split
    | dsimp only
    | exact h

theorem Inv.execGenPlace {P : State → Prop} (hk : Stables P 1183338816900310310912) {t : State} (h : P t) (tag : Nat) : Ends P (Sys2Proof.Machine.execGenPlace tag t) := by
  unfold Sys2Proof.Machine.execGenPlace
  have k0 : Stables P 0 := hk.sub rfl
  have k1 : Stables P 1183338816900310310912 := hk.sub rfl
  have k2 : Stables P 17179869184 := hk.sub rfl
  have k3 : Stables P 17179869184 := hk.sub rfl
  repeat' first
    | with_reducible apply Ends.next
    | with_reducible apply Ends.ite
    | intro _
    | with_reducible exact h
    | with_reducible assumption
    | with_reducible apply Inv.genPhase k0
    | with_reducible apply Inv.refuseGen k1
    | with_reducible apply Inv.modGen k2
    | with_reducible apply Inv.loadPass k3
    | with_reducible apply Inv.ite
    | with_reducible apply Inv.mapD
    | with_reducible apply Inv.getD
    | with_reducible apply Inv.foldl
    | with_reducible apply Inv.foldFst
    | with_reducible apply Inv.foldSnd
    | fail_if_no_progress (first | with_reducible refine Inv.lit hk ?_ | fail)
    | split
    | dsimp only
    | exact h

theorem Inv.kvAppend {P : State → Prop} (hk : Stables P 18014415689416704) {t : State} (h : P t) (tag arr : Nat) (ti : TInstr) (w : Work) (g : GenWork) : P (State.kvAppend t tag arr ti w g) := by
  unfold State.kvAppend
  have k0 : Stables P 18014398509547520 := hk.sub rfl
  have k1 : Stables P 17179869184 := hk.sub rfl
  have k2 : Stables P 17179869184 := hk.sub rfl
  repeat' first
    | intro _
    | with_reducible exact h
    | with_reducible assumption
    | with_reducible apply Inv.tally k0
    | with_reducible apply Inv.modGen k1
    | with_reducible apply Inv.modWork k2
    | with_reducible apply Inv.ite
    | with_reducible apply Inv.mapD
    | with_reducible apply Inv.getD
    | with_reducible apply Inv.foldl
    | with_reducible apply Inv.foldFst
    | with_reducible apply Inv.foldSnd
    | fail_if_no_progress (first | with_reducible refine Inv.lit hk ?_ | fail)
    | split
    | dsimp only
    | exact h

theorem Inv.genOp {P : State → Prop} (hk : Stables P 17179869184) {t : State} (h : P t) (op : Nat) (tags : List Nat) (arr : Nat) (ti : TInstr)
    (f : Nat → Work → GenWork → State → State) (hf : ∀ n w g v, P v → P (f n w g v)) : P (State.genOp t op tags arr ti f) := by
  have k0 : Stables P 17179869184 := hk.sub rfl
  unfold State.genOp
  split
  · exact h
  · refine Inv.runBatch k0 h _ _ _ _ _ (fun b v hv => hv) (fun n w v hv => ?_)
    split
    · exact hf _ _ _ _ hv
    · exact hv

theorem Inv.execKvAppend {P : State → Prop} (hk : Stables P 18014415689416704) {t : State} (h : P t) (tags : List Nat) (arr : Nat) (ti : TInstr) : Ends P (Sys2Proof.Machine.execKvAppend tags arr ti t) := by
  unfold Sys2Proof.Machine.execKvAppend
  have k0 : Stables P 17179869184 := hk.sub rfl
  have k1 : Stables P 18014415689416704 := hk.sub rfl
  repeat' first
    | with_reducible apply Ends.next
    | with_reducible apply Ends.ite
    | intro _
    | with_reducible exact h
    | with_reducible assumption
    | with_reducible apply Inv.genOp k0
    | with_reducible apply Inv.kvAppend k1
    | with_reducible apply Inv.ite
    | with_reducible apply Inv.getD
    | fail_if_no_progress (first | with_reducible refine Inv.lit hk ?_ | fail)
    | split
    | dsimp only
    | exact h

theorem Inv.execRopeQ {P : State → Prop} (hk : Stables P 18014415689416704) {t : State} (h : P t) (tags : List Nat) (arr : Nat) (ti : TInstr) : Ends P (Sys2Proof.Machine.execRopeQ tags arr ti t) := by
  unfold Sys2Proof.Machine.execRopeQ
  have k0 : Stables P 17179869184 := hk.sub rfl
  have k1 : Stables P 18014398509547520 := hk.sub rfl
  have k2 : Stables P 17179869184 := hk.sub rfl
  repeat' first
    | with_reducible apply Ends.next
    | with_reducible apply Ends.ite
    | intro _
    | with_reducible exact h
    | with_reducible assumption
    | with_reducible apply Inv.genOp k0
    | with_reducible apply Inv.tally k1
    | with_reducible apply Inv.setBuf k2
    | with_reducible apply Inv.ite
    | with_reducible apply Inv.getD
    | fail_if_no_progress (first | with_reducible refine Inv.lit hk ?_ | fail)
    | split
    | dsimp only
    | exact h

theorem Inv.execAttnMax {P : State → Prop} (hk : Stables P 17179869184) {t : State} (h : P t) (tags : List Nat) (arr : Nat) (ti : TInstr) : Ends P (Sys2Proof.Machine.execAttnMax tags arr ti t) := by
  unfold Sys2Proof.Machine.execAttnMax
  have k0 : Stables P 17179869184 := hk.sub rfl
  have k1 : Stables P 17179869184 := hk.sub rfl
  repeat' first
    | with_reducible apply Ends.next
    | with_reducible apply Ends.ite
    | intro _
    | with_reducible exact h
    | with_reducible assumption
    | with_reducible apply Inv.genOp k0
    | with_reducible apply Inv.setBuf k1
    | with_reducible apply Inv.ite
    | with_reducible apply Inv.getD
    | fail_if_no_progress (first | with_reducible refine Inv.lit hk ?_ | fail)
    | split
    | dsimp only
    | exact h

theorem Inv.askPartials {P : State → Prop} (hk : Stables P 288230393331580928) {t : State} (h : P t) (tag layer : Nat) (w : Work) (g : GenWork) (rows : List ((LenEntry × Nat) × List FV)) : P (State.askPartials t tag layer w g rows) := by
  unfold State.askPartials
  have k0 : Stables P 288230376151711744 := hk.sub rfl
  have k1 : Stables P 17179869184 := hk.sub rfl
  repeat' first
    | intro _
    | with_reducible exact h
    | with_reducible assumption
    | with_reducible apply Inv.sendHedge k0
    | with_reducible apply Inv.modGen k1
    | with_reducible apply Inv.ite
    | with_reducible apply Inv.getD
    | with_reducible apply Inv.foldl
    | fail_if_no_progress (first | with_reducible refine Inv.lit hk ?_ | fail)
    | split
    | dsimp only
    | exact h

theorem Inv.execAttnPage {P : State → Prop} (hk : Stables P 306244791841128448) {t : State} (h : P t) (tags : List Nat) (arr : Nat) (ti : TInstr) : Ends P (Sys2Proof.Machine.execAttnPage tags arr ti t) := by
  unfold Sys2Proof.Machine.execAttnPage
  have k0 : Stables P 17179869184 := hk.sub rfl
  have k1 : Stables P 18014398509547520 := hk.sub rfl
  have k2 : Stables P 17179869184 := hk.sub rfl
  have k3 : Stables P 288230393331580928 := hk.sub rfl
  repeat' first
    | with_reducible apply Ends.next
    | with_reducible apply Ends.ite
    | intro _
    | with_reducible exact h
    | with_reducible assumption
    | with_reducible apply Inv.genOp k0
    | with_reducible apply Inv.tally k1
    | with_reducible apply Inv.setBuf k2
    | with_reducible apply Inv.askPartials k3
    | with_reducible apply Inv.ite
    | with_reducible apply Inv.getD
    | fail_if_no_progress (first | with_reducible refine Inv.lit hk ?_ | fail)
    | split
    | dsimp only
    | exact h

theorem Inv.execAttnCombine {P : State → Prop} (hk : Stables P 18014415689416704) {t : State} (h : P t) (tags : List Nat) (arr : Nat) (ti : TInstr) : Ends P (Sys2Proof.Machine.execAttnCombine tags arr ti t) := by
  unfold Sys2Proof.Machine.execAttnCombine
  have k0 : Stables P 17179869184 := hk.sub rfl
  have k1 : Stables P 18014398509547520 := hk.sub rfl
  have k2 : Stables P 17179869184 := hk.sub rfl
  repeat' first
    | with_reducible apply Ends.next
    | with_reducible apply Ends.ite
    | intro _
    | with_reducible exact h
    | with_reducible assumption
    | with_reducible apply Inv.genOp k0
    | with_reducible apply Inv.tally k1
    | with_reducible apply Inv.setBuf k2
    | with_reducible apply Inv.ite
    | with_reducible apply Inv.getD
    | fail_if_no_progress (first | with_reducible refine Inv.lit hk ?_ | fail)
    | split
    | dsimp only
    | exact h

theorem Inv.tokenChoose {P : State → Prop} (hk : Stables P 17179869184) {t : State} (h : P t) (tag : Nat) (ti : TInstr) (w : Work) (g : GenWork) : P (State.tokenChoose t tag ti w g) := by
  unfold State.tokenChoose
  have k0 : Stables P 17179869184 := hk.sub rfl
  have k1 : Stables P 17179869184 := hk.sub rfl
  repeat' first
    | intro _
    | with_reducible exact h
    | with_reducible assumption
    | with_reducible apply Inv.setBuf k0
    | with_reducible apply Inv.modGen k1
    | with_reducible apply Inv.ite
    | with_reducible apply Inv.getD
    | fail_if_no_progress (first | with_reducible refine Inv.lit hk ?_ | fail)
    | split
    | dsimp only
    | exact h

theorem Inv.execTokenChoose {P : State → Prop} (hk : Stables P 17179869184) {t : State} (h : P t) (tags : List Nat) (arr : Nat) (ti : TInstr) : Ends P (Sys2Proof.Machine.execTokenChoose tags arr ti t) := by
  unfold Sys2Proof.Machine.execTokenChoose
  have k0 : Stables P 17179869184 := hk.sub rfl
  have k1 : Stables P 17179869184 := hk.sub rfl
  repeat' first
    | with_reducible apply Ends.next
    | with_reducible apply Ends.ite
    | intro _
    | with_reducible exact h
    | with_reducible assumption
    | with_reducible apply Inv.genOp k0
    | with_reducible apply Inv.tokenChoose k1
    | with_reducible apply Inv.ite
    | with_reducible apply Inv.getD
    | fail_if_no_progress (first | with_reducible refine Inv.lit hk ?_ | fail)
    | split
    | dsimp only
    | exact h

theorem Inv.verify {P : State → Prop} (hk : Stables P 297237642012073984) {t : State} (h : P t) (tag : Nat) (w : Work) (g : GenWork) : P (State.verify t tag w g) := by
  unfold State.verify
  have k0 : Stables P 297237642012073984 := hk.sub rfl
  have k1 : Stables P 17179869184 := hk.sub rfl
  repeat' first
    | intro _
    | with_reducible exact h
    | with_reducible assumption
    | with_reducible apply Inv.accept k0
    | with_reducible apply Inv.modGen k1
    | with_reducible apply Inv.ite
    | with_reducible apply Inv.getD
    | fail_if_no_progress (first | with_reducible refine Inv.lit hk ?_ | fail)
    | split
    | dsimp only
    | exact h

theorem Inv.execVerify {P : State → Prop} (hk : Stables P 297237642012073984) {t : State} (h : P t) (tags : List Nat) (ti : TInstr) : Ends P (Sys2Proof.Machine.execVerify tags ti t) := by
  unfold Sys2Proof.Machine.execVerify
  have k0 : Stables P 17179869184 := hk.sub rfl
  have k1 : Stables P 297237642012073984 := hk.sub rfl
  repeat' first
    | with_reducible apply Ends.next
    | with_reducible apply Ends.ite
    | intro _
    | with_reducible exact h
    | with_reducible assumption
    | with_reducible apply Inv.genOp k0
    | with_reducible apply Inv.verify k1
    | with_reducible apply Inv.ite
    | with_reducible apply Inv.getD
    | fail_if_no_progress (first | with_reducible refine Inv.lit hk ?_ | fail)
    | split
    | dsimp only
    | exact h

theorem Inv.genCheck {P : State → Prop} (hk : Stables P 1183375691221771034656) {t : State} (h : P t) (tag home : Nat) (g : GenWork) (chk : Chk) : P (State.genCheck t tag home g chk).1 := by
  unfold State.genCheck
  have k0 : Stables P 33628160 := hk.sub rfl
  have k1 : Stables P 1183338816900310310912 := hk.sub rfl
  have k2 : Stables P 297237575406518272 := hk.sub rfl
  have k3 : Stables P 1183375691221771034656 := hk.sub rfl
  repeat' first
    | intro _
    | with_reducible exact h
    | with_reducible assumption
    | with_reducible apply Inv.raise k0
    | with_reducible apply Inv.lose k1
    | with_reducible apply Inv.dropCaches k2
    | with_reducible apply Inv.checkIn k3
    | with_reducible apply Inv.ite
    | with_reducible apply Inv.getD
    | fail_if_no_progress (first | with_reducible refine Inv.lit hk ?_ | fail)
    | split
    | dsimp only
    | exact h

theorem Inv.sendPages {P : State → Prop} (hk : Stables P 288230376151711744) {t : State} (h : P t) (tag : Nat) (g : GenWork) : P (State.sendPages t tag g) := by
  unfold State.sendPages
  have k0 : Stables P 288230376151711744 := hk.sub rfl
  repeat' first
    | intro _
    | with_reducible exact h
    | with_reducible assumption
    | with_reducible apply Inv.sendHedge k0
    | with_reducible apply Inv.ite
    | with_reducible apply Inv.getD
    | with_reducible apply Inv.foldl
    | with_reducible apply Inv.foldFst
    | with_reducible apply Inv.foldSnd
    | fail_if_no_progress (first | with_reducible refine Inv.lit hk ?_ | fail)
    | split
    | dsimp only
    | exact h

theorem Inv.execPrefill {P : State → Prop} (hk : Stables P 1183375691221771034656) {t : State} (h : P t) (tag : Nat) (chk : Chk) : Ends P (Sys2Proof.Machine.execPrefill tag chk t) := by
  unfold Sys2Proof.Machine.execPrefill
  have k0 : Stables P 0 := hk.sub rfl
  have k1 : Stables P 1183375691221771034656 := hk.sub rfl
  have k2 : Stables P 17179869184 := hk.sub rfl
  have k3 : Stables P 17179869184 := hk.sub rfl
  repeat' first
    | with_reducible apply Ends.next
    | with_reducible apply Ends.ite
    | intro _
    | with_reducible exact h
    | with_reducible assumption
    | with_reducible apply Inv.genPhase k0
    | with_reducible apply Inv.genCheck k1
    | with_reducible apply Inv.modGen k2
    | with_reducible apply Inv.loadPass k3
    | with_reducible apply Inv.ite
    | with_reducible apply Inv.getD
    | fail_if_no_progress (first | with_reducible refine Inv.lit hk ?_ | fail)
    | split
    | dsimp only
    | exact h

theorem Inv.anyToken {P : State → Prop} (hk : Stables P 295147905179352825856) {t : State} (h : P t) (g : GenWork) : P (State.anyToken t g).2 := by
  unfold State.anyToken
  have k0 : Stables P 295147905179352825856 := hk.sub rfl
  repeat' first
    | intro _
    | with_reducible exact h
    | with_reducible assumption
    | with_reducible apply Inv.free k0
    | with_reducible apply Inv.ite
    | with_reducible apply Inv.getD
    | fail_if_no_progress (first | with_reducible refine Inv.lit hk ?_ | fail)
    | split
    | dsimp only
    | exact h

theorem Inv.hashCheck {P : State → Prop} (hk : Stables P 1183375691221771034656) {t : State} (h : P t) (tag home : Nat) (chk : Chk) : P (State.hashCheck t tag home chk).1 := by
  unfold State.hashCheck
  have k0 : Stables P 1183375691221771034656 := hk.sub rfl
  repeat' first
    | intro _
    | with_reducible exact h
    | with_reducible assumption
    | with_reducible apply Inv.checkIn k0
    | with_reducible apply Inv.ite
    | with_reducible apply Inv.getD
    | fail_if_no_progress (first | with_reducible refine Inv.lit hk ?_ | fail)
    | split
    | dsimp only
    | exact h

theorem Inv.execDecode {P : State → Prop} (hk : Stables P 1478523596401123860512) {t : State} (h : P t) (tag : Nat) (chk : GenChk) : Ends P (Sys2Proof.Machine.execDecode tag chk t) := by
  unfold Sys2Proof.Machine.execDecode
  have k0 : Stables P 0 := hk.sub rfl
  have k1 : Stables P 1183375691221771034656 := hk.sub rfl
  have k2 : Stables P 295147905179352825856 := hk.sub rfl
  have k3 : Stables P 17179869184 := hk.sub rfl
  have k4 : Stables P 17179869184 := hk.sub rfl
  have k5 : Stables P 65536 := hk.sub rfl
  have k6 : Stables P 17179869184 := hk.sub rfl
  have k7 : Stables P 1183375691221771034656 := hk.sub rfl
  have k8 : Stables P 288230376151711744 := hk.sub rfl
  repeat' first
    | with_reducible apply Ends.next
    | with_reducible apply Ends.ite
    | intro _
    | with_reducible exact h
    | with_reducible assumption
    | with_reducible apply Inv.genPhase k0
    | with_reducible apply Inv.genCheck k1
    | with_reducible apply Inv.anyToken k2
    | with_reducible apply Inv.modGen k3
    | with_reducible apply Inv.modWork k4
    | with_reducible apply Inv.bump k5
    | with_reducible apply Inv.loadPass k6
    | with_reducible apply Inv.hashCheck k7
    | with_reducible apply Inv.sendPages k8
    | with_reducible apply Inv.ite
    | with_reducible apply Inv.getD
    | fail_if_no_progress (first | with_reducible refine Inv.lit hk ?_ | fail)
    | split
    | dsimp only
    | exact h

theorem Inv.execScore {P : State → Prop} (hk : Stables P 1183375691221771034656) {t : State} (h : P t) (tag : Nat) (chk : GenChk) : Ends P (Sys2Proof.Machine.execScore tag chk t) := by
  unfold Sys2Proof.Machine.execScore
  have k0 : Stables P 0 := hk.sub rfl
  have k1 : Stables P 1183375691221771034656 := hk.sub rfl
  have k2 : Stables P 17179869184 := hk.sub rfl
  have k3 : Stables P 1183375691221771034656 := hk.sub rfl
  have k4 : Stables P 17179869184 := hk.sub rfl
  repeat' first
    | with_reducible apply Ends.next
    | with_reducible apply Ends.ite
    | intro _
    | with_reducible exact h
    | with_reducible assumption
    | with_reducible apply Inv.genPhase k0
    | with_reducible apply Inv.hashCheck k1
    | with_reducible apply Inv.modGen k2
    | with_reducible apply Inv.checkIn k3
    | with_reducible apply Inv.loadPass k4
    | with_reducible apply Inv.ite
    | with_reducible apply Inv.getD
    | fail_if_no_progress (first | with_reducible refine Inv.lit hk ?_ | fail)
    | split
    | dsimp only
    | exact h

theorem Inv.takePages {P : State → Prop} (hk : Stables P 288511851128422400) {t : State} (h : P t) (port tag : Nat) (body : Bytes) : P (State.takePages t port tag body) := by
  unfold State.takePages
  have k0 : Stables P 288230376151711744 := hk.sub rfl
  repeat' first
    | intro _
    | with_reducible exact h
    | with_reducible assumption
    | with_reducible apply Inv.sendHedge k0
    | with_reducible apply Inv.ite
    | with_reducible apply Inv.getD
    | fail_if_no_progress (first | with_reducible refine Inv.lit hk ?_ | fail)
    | split
    | dsimp only
    | exact h

theorem Inv.answerQueries {P : State → Prop} (hk : Stables P 288230376151711744) {t : State} (h : P t) (port tag : Nat) (body : Bytes) : P (State.answerQueries t port tag body) := by
  unfold State.answerQueries
  have k0 : Stables P 288230376151711744 := hk.sub rfl
  repeat' first
    | intro _
    | with_reducible exact h
    | with_reducible assumption
    | with_reducible apply Inv.sendHedge k0
    | with_reducible apply Inv.ite
    | with_reducible apply Inv.getD
    | fail_if_no_progress (first | with_reducible refine Inv.lit hk ?_ | fail)
    | split
    | dsimp only
    | exact h

theorem Inv.takePageAck {P : State → Prop} (hk : Stables P 21474836480) {t : State} (h : P t) (port tag : Nat) : P (State.takePageAck t port tag) := by
  unfold State.takePageAck
  have k0 : Stables P 17179869184 := hk.sub rfl
  have k1 : Stables P 4294967296 := hk.sub rfl
  repeat' first
    | intro _
    | with_reducible exact h
    | with_reducible assumption
    | with_reducible apply Inv.modWork k0
    | with_reducible apply Inv.modFar k1
    | with_reducible apply Inv.ite
    | with_reducible apply Inv.mapD
    | with_reducible apply Inv.getD
    | fail_if_no_progress (first | with_reducible refine Inv.lit hk ?_ | fail)
    | split
    | dsimp only
    | exact h

theorem Inv.execPagePartials {P : State → Prop} (hk : Stables P 1183339098375287021568) {t : State} (h : P t) (tag port : Nat) (body : Bytes) (late : Bool) : Ends P (Sys2Proof.Machine.execPagePartials tag port body late t) := by
  unfold Sys2Proof.Machine.execPagePartials
  have k0 : Stables P 33628160 := hk.sub rfl
  have k1 : Stables P 1183338816900310310912 := hk.sub rfl
  have k2 : Stables P 288511851128422400 := hk.sub rfl
  have k3 : Stables P 288230376151711744 := hk.sub rfl
  have k4 : Stables P 17179869184 := hk.sub rfl
  have k5 : Stables P 21474836480 := hk.sub rfl
  repeat' first
    | with_reducible apply Ends.next
    | with_reducible apply Ends.ite
    | intro _
    | with_reducible exact h
    | with_reducible assumption
    | with_reducible apply Inv.raise k0
    | with_reducible apply Inv.lose k1
    | with_reducible apply Inv.takePages k2
    | with_reducible apply Inv.answerQueries k3
    | with_reducible apply Inv.modGen k4
    | with_reducible apply Inv.takePageAck k5
    | with_reducible apply Inv.ite
    | with_reducible apply Inv.getD
    | fail_if_no_progress (first | with_reducible refine Inv.lit hk ?_ | fail)
    | split
    | dsimp only
    | exact h

theorem Inv.execCacheRetainExpiry {P : State → Prop} (hk : Stables P 297237575440080896) {t : State} (h : P t) (cache : Nat) : Ends P (Sys2Proof.Machine.execCacheRetainExpiry cache t) := by
  unfold Sys2Proof.Machine.execCacheRetainExpiry
  have k0 : Stables P 297237575406518272 := hk.sub rfl
  have k1 : Stables P 33628160 := hk.sub rfl
  repeat' first
    | with_reducible apply Ends.next
    | with_reducible apply Ends.ite
    | intro _
    | with_reducible exact h
    | with_reducible assumption
    | with_reducible apply Inv.dropCaches k0
    | with_reducible apply Inv.raise k1
    | with_reducible apply Inv.ite
    | with_reducible apply Inv.getD
    | fail_if_no_progress (first | with_reducible refine Inv.lit hk ?_ | fail)
    | split
    | dsimp only
    | exact h

theorem Inv.roleActivate {P : State → Prop} (hk : Stables P 297237575440080896) {t : State} (h : P t) : P (State.roleActivate t) := by
  unfold State.roleActivate
  have k0 : Stables P 65536 := hk.sub rfl
  have k1 : Stables P 297237575406518272 := hk.sub rfl
  have k2 : Stables P 33628160 := hk.sub rfl
  repeat' first
    | intro _
    | with_reducible exact h
    | with_reducible assumption
    | with_reducible apply Inv.setN k0
    | with_reducible apply Inv.dropCaches k1
    | with_reducible apply Inv.raise k2
    | with_reducible apply Inv.ite
    | with_reducible apply Inv.getD
    | fail_if_no_progress (first | with_reducible refine Inv.lit hk ?_ | fail)
    | split
    | dsimp only
    | exact h

end Sys2Proof.Machine
end

