-- ==== Sys2Proof/Laws/KeepsEmb.lean ====
section
/-! SUPPORT. What the operations of Machine/Emb.lean leave as it is: one lemma for each. -/

set_option linter.unusedTactic false
set_option linter.unreachableTactic false
set_option linter.unusedVariables false

namespace Sys2Proof.Machine
set_option Elab.async false

theorem Inv.modEmb {P : State → Prop} (hk : Stables P 36028797018963968) {t : State} (h : P t) (t_ : Nat) (f : EmbTab → EmbTab) : P (State.modEmb t t_ f) := by
  unfold State.modEmb
  repeat' first
    | intro _
    | with_reducible exact h
    | with_reducible assumption
    | with_reducible apply Inv.ite
    | with_reducible apply Inv.getD
    | fail_if_no_progress (first | with_reducible refine Inv.lit hk ?_ | fail)
    | split
    | dsimp only
    | exact h

theorem Inv.loadEmb {P : State → Prop} (hk : Stables P 36451009484095488) {t : State} (h : P t) (t_ : Nat) (d : Bytes) : P (State.loadEmb t t_ d) := by
  unfold State.loadEmb
  have k0 : Stables P 422212465131520 := hk.sub rfl
  have k1 : Stables P 140737488355328 := hk.sub rfl
  have k2 : Stables P 65536 := hk.sub rfl
  have k3 : Stables P 65536 := hk.sub rfl
  repeat' first
    | intro _
    | with_reducible exact h
    | with_reducible assumption
    | with_reducible apply Inv.releasePages k0
    | refine Inv.allocPages k1 (hu := by assumption) ?_
    | with_reducible apply Inv.setN k2
    | with_reducible apply Inv.setLive k3
    | with_reducible apply Inv.ite
    | with_reducible apply Inv.mapD
    | with_reducible apply Inv.getD
    | with_reducible apply Inv.foldl
    | fail_if_no_progress (first | with_reducible refine Inv.lit hk ?_ | fail)
    | split
    | dsimp only
    | exact h

theorem Inv.countShards {P : State → Prop} (hk : Stables P 36028797018963968) {t : State} (h : P t) (ps : List (Nat × Nat × Nat)) : P (State.countShards t ps) := by
  unfold State.countShards
  have k0 : Stables P 36028797018963968 := hk.sub rfl
  repeat' first
    | intro _
    | with_reducible exact h
    | with_reducible assumption
    | with_reducible apply Inv.modEmb k0
    | with_reducible apply Inv.ite
    | with_reducible apply Inv.getD
    | with_reducible apply Inv.foldl
    | fail_if_no_progress (first | with_reducible refine Inv.lit hk ?_ | fail)
    | split
    | dsimp only
    | exact h

theorem Inv.readRows {P : State → Prop} (hk : Stables P 281474976710656) {t : State} (h : P t) (ps : List (Nat × Nat)) : P (State.readRows t ps) := by
  unfold State.readRows
  have k0 : Stables P 281474976710656 := hk.sub rfl
  repeat' first
    | intro _
    | with_reducible exact h
    | with_reducible assumption
    | with_reducible apply Inv.countAt k0
    | with_reducible apply Inv.ite
    | with_reducible apply Inv.getD
    | with_reducible apply Inv.foldl
    | fail_if_no_progress (first | with_reducible refine Inv.lit hk ?_ | fail)
    | split
    | dsimp only
    | exact h

theorem Inv.gatherRun {P : State → Prop} (hk : Stables P 1183375127172305985536) {t : State} (h : P t) (tag home : Nat) (w : Work) (ti : TInstr) (first : Bool) : P (State.gatherRun t tag home w ti first) := by
  unfold State.gatherRun
  have k0 : Stables P 1183338816900310310912 := hk.sub rfl
  have k1 : Stables P 33628160 := hk.sub rfl
  have k2 : Stables P 1183338816900310310912 := hk.sub rfl
  have k3 : Stables P 36028797018963968 := hk.sub rfl
  have k4 : Stables P 281474976710656 := hk.sub rfl
  have k5 : Stables P 17179869184 := hk.sub rfl
  have k6 : Stables P 17179869184 := hk.sub rfl
  have k7 : Stables P 17179869184 := hk.sub rfl
  have k8 : Stables P 288230376151711744 := hk.sub rfl
  repeat' first
    | intro _
    | with_reducible exact h
    | with_reducible assumption
    | with_reducible apply Inv.refuseRow k0
    | with_reducible apply Inv.raise k1
    | with_reducible apply Inv.lose k2
    | with_reducible apply Inv.countShards k3
    | with_reducible apply Inv.readRows k4
    | with_reducible apply Inv.setBuf k5
    | with_reducible apply Inv.modWork k6
    | with_reducible apply Inv.stepProg k7
    | with_reducible apply Inv.sendHedge k8
    | with_reducible apply Inv.ite
    | with_reducible apply Inv.mapD
    | with_reducible apply Inv.getD
    | with_reducible apply Inv.foldl
    | with_reducible apply Inv.foldFst
    | with_reducible apply Inv.foldSnd
    | fail_if_no_progress (first | with_reducible refine Inv.lit hk ?_ | fail)
    | split
    | dsimp only
    | exact h

theorem Inv.refuseGather {P : State → Prop} (hk : Stables P 1183338816900276748288) {t : State} (h : P t) (tag : Nat) : P (State.refuseGather t tag) := by
  unfold State.refuseGather
  have k0 : Stables P 1183338816900276748288 := hk.sub rfl
  repeat' first
    | intro _
    | with_reducible exact h
    | with_reducible assumption
    | with_reducible apply Inv.completeEmpty k0
    | with_reducible apply Inv.ite
    | with_reducible apply Inv.getD
    | fail_if_no_progress (first | with_reducible refine Inv.lit hk ?_ | fail)
    | split
    | dsimp only
    | exact h

theorem Inv.execEmbGather {P : State → Prop} (hk : Stables P 1183375127172305985536) {t : State} (h : P t) (tags : List Nat) (ti : TInstr) : Ends P (Sys2Proof.Machine.execEmbGather tags ti t) := by
  unfold Sys2Proof.Machine.execEmbGather
  have k0 : Stables P 17179869184 := hk.sub rfl
  have k1 : Stables P 1183338816900276748288 := hk.sub rfl
  have k2 : Stables P 1183375127172305985536 := hk.sub rfl
  repeat' first
    | with_reducible apply Ends.next
    | with_reducible apply Ends.ite
    | intro _
    | with_reducible exact h
    | with_reducible assumption
    | with_reducible apply Inv.startPass k0
    | with_reducible apply Inv.refuseGather k1
    | with_reducible apply Inv.gatherRun k2
    | with_reducible apply Inv.ite
    | with_reducible apply Inv.getD
    | with_reducible apply Inv.foldl
    | fail_if_no_progress (first | with_reducible refine Inv.lit hk ?_ | fail)
    | split
    | dsimp only
    | exact h

theorem Inv.execEmbRows {P : State → Prop} (hk : Stables P 1183375127172305985536) {t : State} (h : P t) (port tag : Nat) (body : Bytes) : Ends P (Sys2Proof.Machine.execEmbRows port tag body t) := by
  unfold Sys2Proof.Machine.execEmbRows
  have k0 : Stables P 36028797018963968 := hk.sub rfl
  have k1 : Stables P 281474976710656 := hk.sub rfl
  have k2 : Stables P 288230376151711744 := hk.sub rfl
  have k3 : Stables P 17179869184 := hk.sub rfl
  have k4 : Stables P 1183375127172305985536 := hk.sub rfl
  repeat' first
    | with_reducible apply Ends.next
    | with_reducible apply Ends.ite
    | intro _
    | with_reducible exact h
    | with_reducible assumption
    | with_reducible apply Inv.countShards k0
    | with_reducible apply Inv.readRows k1
    | with_reducible apply Inv.sendHedge k2
    | with_reducible apply Inv.modWork k3
    | with_reducible apply Inv.gatherRun k4
    | with_reducible apply Inv.ite
    | with_reducible apply Inv.mapD
    | with_reducible apply Inv.getD
    | with_reducible apply Inv.foldl
    | fail_if_no_progress (first | with_reducible refine Inv.lit hk ?_ | fail)
    | split
    | dsimp only
    | exact h

theorem Inv.sendSources {P : State → Prop} (hk : Stables P 288230376151711744) {t : State} (h : P t) (t_ tau : Nat) (body : Bytes) : P (State.sendSources t t_ tau body) := by
  unfold State.sendSources
  have k0 : Stables P 288230376151711744 := hk.sub rfl
  repeat' first
    | intro _
    | with_reducible exact h
    | with_reducible assumption
    | with_reducible apply Inv.sendHedge k0
    | with_reducible apply Inv.ite
    | with_reducible apply Inv.getD
    | with_reducible apply Inv.foldl
    | fail_if_no_progress (first | with_reducible refine Inv.lit hk ?_ | fail)
    | split
    | dsimp only
    | exact h

theorem Inv.commitSums {P : State → Prop} (hk : Stables P 324259173170675712) {t : State} (h : P t) (t_ tau : Nat) : P (State.commitSums t t_ tau) := by
  unfold State.commitSums
  have k0 : Stables P 36028797018963968 := hk.sub rfl
  have k1 : Stables P 288230376151711744 := hk.sub rfl
  repeat' first
    | intro _
    | with_reducible exact h
    | with_reducible assumption
    | with_reducible apply Inv.modEmb k0
    | with_reducible apply Inv.sendSources k1
    | with_reducible apply Inv.ite
    | with_reducible apply Inv.getD
    | fail_if_no_progress (first | with_reducible refine Inv.lit hk ?_ | fail)
    | split
    | dsimp only
    | exact h

theorem Inv.chain {P : State → Prop} (hk : Stables P 324259173170675712) {t : State} (h : P t) (t_ tau : Nat) : P (State.chain t t_ tau) := by
  unfold State.chain
  have k0 : Stables P 36028797018963968 := hk.sub rfl
  have k1 : Stables P 288230376151711744 := hk.sub rfl
  have k2 : Stables P 324259173170675712 := hk.sub rfl
  have k3 : Stables P 288230376151711744 := hk.sub rfl
  repeat' first
    | intro _
    | with_reducible exact h
    | with_reducible assumption
    | with_reducible apply Inv.modEmb k0
    | with_reducible apply Inv.sendSources k1
    | with_reducible apply Inv.commitSums k2
    | with_reducible apply Inv.sendHedge k3
    | with_reducible apply Inv.ite
    | with_reducible apply Inv.getD
    | fail_if_no_progress (first | with_reducible refine Inv.lit hk ?_ | fail)
    | split
    | dsimp only
    | exact h

theorem Inv.takeBatch {P : State → Prop} (hk : Stables P 324259173204303872) {t : State} (h : P t) (rec_ entries : Bytes) (loc : Nat) : P (State.takeBatch t rec_ entries loc).1 := by
  unfold State.takeBatch
  have k0 : Stables P 33628160 := hk.sub rfl
  have k1 : Stables P 36028797018963968 := hk.sub rfl
  have k2 : Stables P 324259173170675712 := hk.sub rfl
  repeat' first
    | intro _
    | with_reducible exact h
    | with_reducible assumption
    | with_reducible apply Inv.raise k0
    | with_reducible apply Inv.modEmb k1
    | with_reducible apply Inv.chain k2
    | with_reducible apply Inv.ite
    | with_reducible apply Inv.mapD
    | with_reducible apply Inv.getD
    | fail_if_no_progress (first | with_reducible refine Inv.lit hk ?_ | fail)
    | split
    | dsimp only
    | exact h

theorem Inv.execGradientBatch {P : State → Prop} (hk : Stables P 324259173204303872) {t : State} (h : P t) (port : Nat) (body : Bytes) : Ends P (Sys2Proof.Machine.execGradientBatch port body t) := by
  unfold Sys2Proof.Machine.execGradientBatch
  have k0 : Stables P 324259173204303872 := hk.sub rfl
  repeat' first
    | with_reducible apply Ends.next
    | with_reducible apply Ends.ite
    | intro _
    | with_reducible exact h
    | with_reducible assumption
    | with_reducible apply Inv.takeBatch k0
    | with_reducible apply Inv.ite
    | with_reducible apply Inv.getD
    | fail_if_no_progress (first | with_reducible refine Inv.lit hk ?_ | fail)
    | split
    | dsimp only
    | exact h

theorem Inv.execRunningSums {P : State → Prop} (hk : Stables P 324259173204303872) {t : State} (h : P t) (port table : Nat) (msg : SumsMsg) : Ends P (Sys2Proof.Machine.execRunningSums port table msg t) := by
  unfold Sys2Proof.Machine.execRunningSums
  have k0 : Stables P 36028797018963968 := hk.sub rfl
  have k1 : Stables P 324259173170675712 := hk.sub rfl
  have k2 : Stables P 324259173170675712 := hk.sub rfl
  have k3 : Stables P 36028797019029504 := hk.sub rfl
  have k4 : Stables P 33628160 := hk.sub rfl
  repeat' first
    | with_reducible apply Ends.next
    | with_reducible apply Ends.ite
    | intro _
    | with_reducible exact h
    | with_reducible assumption
    | with_reducible apply Inv.modEmb k0
    | with_reducible apply Inv.chain k1
    | with_reducible apply Inv.commitSums k2
    | with_reducible apply Inv.divergeEmb k3
    | with_reducible apply Inv.raise k4
    | with_reducible apply Inv.ite
    | with_reducible apply Inv.getD
    | fail_if_no_progress (first | with_reducible refine Inv.lit hk ?_ | fail)
    | split
    | dsimp only
    | exact h

theorem Inv.touchRow {P : State → Prop} (hk : Stables P 2111062358958080) {t : State} (h : P t) (t_ : Nat) (e : EmbTab) (row : Nat) : P (State.touchRow t t_ e row) := by
  unfold State.touchRow
  have k0 : Stables P 2111062358958080 := hk.sub rfl
  repeat' first
    | intro _
    | with_reducible exact h
    | with_reducible assumption
    | with_reducible apply Inv.touchAt k0
    | with_reducible apply Inv.ite
    | with_reducible apply Inv.getD
    | fail_if_no_progress (first | with_reducible refine Inv.lit hk ?_ | fail)
    | split
    | dsimp only
    | exact h

theorem Inv.execTrainStepApply {P : State → Prop} (hk : Stables P 38139859377922080) {t : State} (h : P t) (table : Nat) (ue : Bool) : Ends P (Sys2Proof.Machine.execTrainStepApply table ue t) := by
  unfold Sys2Proof.Machine.execTrainStepApply
  have k0 : Stables P 36028797019029504 := hk.sub rfl
  have k1 : Stables P 33628160 := hk.sub rfl
  have k2 : Stables P 2111062358958080 := hk.sub rfl
  have k3 : Stables P 32 := hk.sub rfl
  have k4 : Stables P 281474976710656 := hk.sub rfl
  have k5 : Stables P 36028797018963968 := hk.sub rfl
  have k6 : Stables P 65536 := hk.sub rfl
  repeat' first
    | with_reducible apply Ends.next
    | with_reducible apply Ends.ite
    | intro _
    | with_reducible exact h
    | with_reducible assumption
    | with_reducible apply Inv.divergeEmb k0
    | with_reducible apply Inv.raise k1
    | with_reducible apply Inv.touchRow k2
    | with_reducible apply Inv.useRoom k3
    | with_reducible apply Inv.readRows k4
    | with_reducible apply Inv.modEmb k5
    | with_reducible apply Inv.setN k6
    | with_reducible apply Inv.ite
    | with_reducible apply Inv.getD
    | with_reducible apply Inv.foldl
    | fail_if_no_progress (first | with_reducible refine Inv.lit hk ?_ | fail)
    | split
    | dsimp only
    | exact h

theorem Inv.execTrainWaitExpiry {P : State → Prop} (hk : Stables P 36028797052592128) {t : State} (h : P t) (table : Nat) : Ends P (Sys2Proof.Machine.execTrainWaitExpiry table t) := by
  unfold Sys2Proof.Machine.execTrainWaitExpiry
  have k0 : Stables P 36028797018963968 := hk.sub rfl
  have k1 : Stables P 33628160 := hk.sub rfl
  repeat' first
    | with_reducible apply Ends.next
    | with_reducible apply Ends.ite
    | intro _
    | with_reducible exact h
    | with_reducible assumption
    | with_reducible apply Inv.modEmb k0
    | with_reducible apply Inv.raise k1
    | with_reducible apply Inv.ite
    | with_reducible apply Inv.mapD
    | with_reducible apply Inv.getD
    | fail_if_no_progress (first | with_reducible refine Inv.lit hk ?_ | fail)
    | split
    | dsimp only
    | exact h

theorem Inv.doLoadWindow {P : State → Prop} (hk : Stables P 36028797052592128) {t : State} (h : P t) : P (State.doLoadWindow t) := by
  unfold State.doLoadWindow
  have k0 : Stables P 65536 := hk.sub rfl
  have k1 : Stables P 36028797018963968 := hk.sub rfl
  have k2 : Stables P 65536 := hk.sub rfl
  have k3 : Stables P 33628160 := hk.sub rfl
  repeat' first
    | intro _
    | with_reducible exact h
    | with_reducible assumption
    | with_reducible apply Inv.setN k0
    | with_reducible apply Inv.modEmb k1
    | with_reducible apply Inv.useGrant k2
    | with_reducible apply Inv.raise k3
    | with_reducible apply Inv.ite
    | with_reducible apply Inv.getD
    | with_reducible apply Inv.foldl
    | fail_if_no_progress (first | with_reducible refine Inv.lit hk ?_ | fail)
    | split
    | dsimp only
    | exact h

theorem Inv.abandonMove {P : State → Prop} (hk : Stables P 36028797018963968) {t : State} (h : P t) (table : Nat) : P (State.abandonMove t table) := by
  unfold State.abandonMove
  have k0 : Stables P 36028797018963968 := hk.sub rfl
  repeat' first
    | intro _
    | with_reducible exact h
    | with_reducible assumption
    | with_reducible apply Inv.modEmb k0
    | with_reducible apply Inv.ite
    | with_reducible apply Inv.getD
    | fail_if_no_progress (first | with_reducible refine Inv.lit hk ?_ | fail)
    | split
    | dsimp only
    | exact h

theorem Inv.execEmbShardCopy {P : State → Prop} (hk : Stables P 36028797018964000) {t : State} (h : P t) (table : Nat) : Ends P (Sys2Proof.Machine.execEmbShardCopy table t) := by
  unfold Sys2Proof.Machine.execEmbShardCopy
  have k0 : Stables P 36028797018963968 := hk.sub rfl
  have k1 : Stables P 32 := hk.sub rfl
  have k2 : Stables P 36028797018963968 := hk.sub rfl
  repeat' first
    | with_reducible apply Ends.next
    | with_reducible apply Ends.ite
    | intro _
    | with_reducible exact h
    | with_reducible assumption
    | with_reducible apply Inv.abandonMove k0
    | with_reducible apply Inv.useRoom k1
    | with_reducible apply Inv.modEmb k2
    | with_reducible apply Inv.ite
    | with_reducible apply Inv.getD
    | fail_if_no_progress (first | with_reducible refine Inv.lit hk ?_ | fail)
    | split
    | dsimp only
    | exact h

theorem Inv.doEmbSwitch {P : State → Prop} (hk : Stables P 36451009517658112) {t : State} (h : P t) (table : Nat) : P (State.doEmbSwitch t table) := by
  unfold State.doEmbSwitch
  have k0 : Stables P 36028797018963968 := hk.sub rfl
  have k1 : Stables P 422212465131520 := hk.sub rfl
  have k2 : Stables P 140737488355328 := hk.sub rfl
  have k3 : Stables P 36028797018963968 := hk.sub rfl
  have k4 : Stables P 65536 := hk.sub rfl
  have k5 : Stables P 33628160 := hk.sub rfl
  repeat' first
    | intro _
    | with_reducible exact h
    | with_reducible assumption
    | with_reducible apply Inv.abandonMove k0
    | with_reducible apply Inv.releasePages k1
    | refine Inv.allocPages k2 (hu := by assumption) ?_
    | with_reducible apply Inv.modEmb k3
    | with_reducible apply Inv.bump k4
    | with_reducible apply Inv.raise k5
    | with_reducible apply Inv.ite
    | with_reducible apply Inv.getD
    | fail_if_no_progress (first | with_reducible refine Inv.lit hk ?_ | fail)
    | split
    | dsimp only
    | exact h

end Sys2Proof.Machine
end

