-- ==== Sys2Proof/Laws/KeepsPassages.lean ====
section
/-! SUPPORT. What the operations of Machine/Passages.lean leave as it is: one lemma for each. -/

set_option linter.unusedTactic false
set_option linter.unreachableTactic false
set_option linter.unusedVariables false

namespace Sys2Proof.Machine
set_option Elab.async false

theorem Inv.execSealBuild {P : State → Prop} (hk : Stables P 1183375831959259389984) {t : State} (h : P t) (slot : Nat) (chk : Chk) (ps : List (Nat × List Nat)) : Ends P (Sys2Proof.Machine.execSealBuild slot chk ps t) := by
  unfold Sys2Proof.Machine.execSealBuild
  have k0 : Stables P 1099511627808 := hk.sub rfl
  have k1 : Stables P 33628160 := hk.sub rfl
  have k2 : Stables P 140737488355328 := hk.sub rfl
  have k3 : Stables P 33628160 := hk.sub rfl
  have k4 : Stables P 1099511627776 := hk.sub rfl
  repeat' first
    | with_reducible apply Ends.next
    | with_reducible apply Ends.ite
    | intro _
    | with_reducible exact h
    | with_reducible assumption
    | with_reducible apply Inv.buildPart k0
    | with_reducible apply Inv.raiseBuild k1
    | refine Inv.placeSeg k2 (hu := by assumption) ?_
    | with_reducible apply Inv.raise k3
    | with_reducible apply Inv.modJob k4
    | refine Inv.chkFault (hk.sub rfl) (hu := by assumption) ?_
    | with_reducible apply Inv.ite
    | with_reducible apply Inv.getD
    | fail_if_no_progress (first | with_reducible refine Inv.lit hk ?_ | fail)
    | split
    | dsimp only
    | exact h

end Sys2Proof.Machine
end

