-- ==== Sys2Proof/Laws/KeepsRejoin.lean ====
section
/-! SUPPORT. What the operations of Machine/Rejoin.lean leave as it is: one lemma for each. -/

set_option linter.unusedTactic false
set_option linter.unreachableTactic false
set_option linter.unusedVariables false

namespace Sys2Proof.Machine
set_option Elab.async false

theorem Inv.setSlotState {P : State → Prop} (hk : Stables P 1099511693312) {t : State} (h : P t) (slot st : Nat) : P (State.setSlotState t slot st) := by
  unfold State.setSlotState
  have k0 : Stables P 1099511627776 := hk.sub rfl
  have k1 : Stables P 65536 := hk.sub rfl
  repeat' first
    | intro _
    | with_reducible exact h
    | with_reducible assumption
    | with_reducible apply Inv.modShard k0
    | with_reducible apply Inv.setLive k1
    | with_reducible apply Inv.ite
    | with_reducible apply Inv.getD
    | fail_if_no_progress (first | with_reducible refine Inv.lit hk ?_ | fail)
    | split
    | dsimp only
    | exact h

theorem Inv.sendParts {P : State → Prop} (hk : Stables P 288230376185339904) {t : State} (h : P t) (p : Partner) (shard : Nat) (l : List (Nat × Nat × Bytes)) (from_ room : Nat) :
    P (State.sendParts t p shard l from_ room).1 := by
  have k0 : Stables P 288230376185339904 := hk.sub rfl
  induction l generalizing t from_ room with
  | nil => simpa only [State.sendParts] using h
  | cons x l ih =>
    obtain ⟨kind, seg, b⟩ := x
    unfold State.sendParts
    repeat' first
    | intro _
    | with_reducible exact h
    | with_reducible assumption
    | with_reducible apply ih
    | with_reducible apply Inv.sendPeer k0
    | with_reducible apply Inv.foldl
    | intro _
    | with_reducible apply Inv.ite
    | split
    | dsimp only

theorem Inv.sendLogs {P : State → Prop} (hk : Stables P 288230376185339904) {t : State} (h : P t) (p : Partner) (shard : Nat) (l : List LogRec) (room at_ : Nat) :
    P (State.sendLogs t p shard l room at_).1 := by
  have k0 : Stables P 288230376185339904 := hk.sub rfl
  induction l generalizing t room at_ with
  | nil => simpa only [State.sendLogs] using h
  | cons x l ih =>
    unfold State.sendLogs
    repeat' first
    | intro _
    | with_reducible exact h
    | with_reducible apply ih
    | with_reducible apply Inv.sendPeer k0
    | with_reducible apply Inv.ite
    | split

theorem Inv.loadPartner {P : State → Prop} (hk : Stables P 288231475696967680) {t : State} (h : P t) (slot k budget : Nat) : P (State.loadPartner t slot k budget) := by
  unfold State.loadPartner
  have k0 : Stables P 288230376185339904 := hk.sub rfl
  have k1 : Stables P 1099511627776 := hk.sub rfl
  have k2 : Stables P 288230376185339904 := hk.sub rfl
  repeat' first
    | intro _
    | with_reducible exact h
    | with_reducible assumption
    | with_reducible apply Inv.sendParts k0
    | with_reducible apply Inv.modShard k1
    | with_reducible apply Inv.sendLogs k2
    | with_reducible apply Inv.ite
    | with_reducible apply Inv.mapD
    | with_reducible apply Inv.getD
    | fail_if_no_progress (first | with_reducible refine Inv.lit hk ?_ | fail)
    | split
    | dsimp only
    | exact h

theorem Inv.loadPartners {P : State → Prop} (hk : Stables P 288231475696967680) {t : State} (h : P t) : P (State.loadPartners t) := by
  unfold State.loadPartners
  have k0 : Stables P 288231475696967680 := hk.sub rfl
  repeat' first
    | intro _
    | with_reducible exact h
    | with_reducible assumption
    | with_reducible apply Inv.loadPartner k0
    | with_reducible apply Inv.ite
    | with_reducible apply Inv.getD
    | with_reducible apply Inv.foldl
    | fail_if_no_progress (first | with_reducible refine Inv.lit hk ?_ | fail)
    | split
    | dsimp only
    | exact h

theorem Inv.placeAll {P : State → Prop} (hk : Stables P 140737488355328) {t u : State} (h : P t) {slot : Nat} {l : List (Nat × Seg)} (hu : State.placeAll t slot l = some u) : P u := by
  have k0 : Stables P 140737488355328 := hk.sub rfl
  induction l generalizing t with
  | nil => cases hu; exact h
  | cons g l ih =>
    unfold State.placeAll at hu
    obtain ⟨v, hv, hu⟩ := Option.bind_eq_some_iff.mp hu
    exact ih (Inv.placeSeg k0 h hv) hu

theorem Inv.installLoad {P : State → Prop} (hk : Stables P 141837033611264) {t : State} (h : P t) (slot : Nat) : P (State.installLoad t slot) := by
  unfold State.installLoad
  have k0 : Stables P 140737488355328 := hk.sub rfl
  have k1 : Stables P 1099511627776 := hk.sub rfl
  have k2 : Stables P 33628160 := hk.sub rfl
  have k3 : Stables P 1099511627776 := hk.sub rfl
  repeat' first
    | intro _
    | with_reducible exact h
    | with_reducible assumption
    | refine Inv.placeAll k0 (hu := by assumption) ?_
    | with_reducible apply Inv.modShard k1
    | with_reducible apply Inv.raise k2
    | with_reducible apply Inv.openDelta k3
    | with_reducible apply Inv.ite
    | with_reducible apply Inv.getD
    | with_reducible apply Inv.foldl
    | fail_if_no_progress (first | with_reducible refine Inv.lit hk ?_ | fail)
    | split
    | dsimp only
    | exact h

theorem Inv.execRejoinLoad {P : State → Prop} (hk : Stables P 288374412208578560) {t : State} (h : P t) (port slot : Nat) (item : RejoinItem) : Ends P (Sys2Proof.Machine.execRejoinLoad port slot item t) := by
  unfold Sys2Proof.Machine.execRejoinLoad
  have k0 : Stables P 1099511627776 := hk.sub rfl
  have k1 : Stables P 141837033611264 := hk.sub rfl
  have k2 : Stables P 33628160 := hk.sub rfl
  have k3 : Stables P 288233674720223232 := hk.sub rfl
  repeat' first
    | with_reducible apply Ends.next
    | with_reducible apply Ends.ite
    | intro _
    | with_reducible exact h
    | with_reducible assumption
    | with_reducible apply Inv.modShard k0
    | with_reducible apply Inv.installLoad k1
    | with_reducible apply Inv.raise k2
    | with_reducible apply Inv.execLogRecords k3
    | with_reducible apply Inv.ite
    | with_reducible apply Inv.getD
    | with_reducible apply Inv.foldl
    | fail_if_no_progress (first | with_reducible refine Inv.lit hk ?_ | fail)
    | split
    | dsimp only
    | exact h

theorem Inv.doRejoinLoaded {P : State → Prop} (hk : Stables P 1099545255936) {t : State} (h : P t) (slot : Nat) : P (State.doRejoinLoaded t slot) := by
  unfold State.doRejoinLoaded
  have k0 : Stables P 1099511693312 := hk.sub rfl
  have k1 : Stables P 65536 := hk.sub rfl
  have k2 : Stables P 33628160 := hk.sub rfl
  repeat' first
    | intro _
    | with_reducible exact h
    | with_reducible assumption
    | with_reducible apply Inv.setSlotState k0
    | with_reducible apply Inv.bump k1
    | with_reducible apply Inv.evU k2
    | with_reducible apply Inv.ite
    | with_reducible apply Inv.getD
    | fail_if_no_progress (first | with_reducible refine Inv.lit hk ?_ | fail)
    | split
    | dsimp only
    | exact h

theorem Inv.doRejoinAdmit {P : State → Prop} (hk : Stables P 1099511693312) {t : State} (h : P t) : P (State.doRejoinAdmit t) := by
  unfold State.doRejoinAdmit
  have k0 : Stables P 1099511693312 := hk.sub rfl
  repeat' first
    | intro _
    | with_reducible exact h
    | with_reducible assumption
    | with_reducible apply Inv.setSlotState k0
    | with_reducible apply Inv.ite
    | with_reducible apply Inv.getD
    | with_reducible apply Inv.foldl
    | fail_if_no_progress (first | with_reducible refine Inv.lit hk ?_ | fail)
    | split
    | dsimp only
    | exact h

theorem Inv.execRejoinTestEnd {P : State → Prop} (hk : Stables P 36893488147452731392) {t : State} (h : P t) (units : List TestUnit) : Ends P (Sys2Proof.Machine.execRejoinTestEnd units t) := by
  unfold Sys2Proof.Machine.execRejoinTestEnd
  have k0 : Stables P 33628160 := hk.sub rfl
  have k1 : Stables P 65536 := hk.sub rfl
  repeat' first
    | with_reducible apply Ends.next
    | with_reducible apply Ends.ite
    | intro _
    | with_reducible exact h
    | with_reducible assumption
    | with_reducible apply Inv.raise k0
    | with_reducible apply Inv.setN k1
    | with_reducible apply Inv.ite
    | with_reducible apply Inv.getD
    | with_reducible apply Inv.foldl
    | fail_if_no_progress (first | with_reducible refine Inv.lit hk ?_ | fail)
    | split
    | dsimp only
    | exact h

end Sys2Proof.Machine
end

