-- ==== Sys2Proof/Laws/KeepsLinks.lean ====
section
/-! SUPPORT. What the operations of Machine/Links.lean leave as it is: one lemma for each. -/

set_option linter.unusedTactic false
set_option linter.unreachableTactic false
set_option linter.unusedVariables false

namespace Sys2Proof.Machine
set_option Elab.async false

theorem Inv.modHp {P : State → Prop} (hk : Stables P 1152921504606846976) {t : State} (h : P t) (p : Nat) (f : HPort → HPort) : P (State.modHp t p f) := by
  unfold State.modHp
  repeat' first
    | intro _
    | with_reducible exact h
    | with_reducible assumption
    | with_reducible apply Inv.ite
    | with_reducible apply Inv.getD
    | fail_if_no_progress (first | with_reducible refine Inv.lit hk ?_ | fail)
    | split
    | dsimp only
    | exact h

theorem Inv.setHState {P : State → Prop} (hk : Stables P 65536) {t : State} (h : P t) (p v : Nat) : P (State.setHState t p v) := by
  unfold State.setHState
  have k0 : Stables P 65536 := hk.sub rfl
  repeat' first
    | intro _
    | with_reducible exact h
    | with_reducible assumption
    | with_reducible apply Inv.setN k0
    | with_reducible apply Inv.ite
    | with_reducible apply Inv.getD
    | fail_if_no_progress (first | with_reducible refine Inv.lit hk ?_ | fail)
    | split
    | dsimp only
    | exact h

theorem Inv.sendCtl {P : State → Prop} (hk : Stables P 1152921504606846976) {t : State} (h : P t) (p op arg : Nat) : P (State.sendCtl t p op arg) := by
  unfold State.sendCtl
  have k0 : Stables P 1152921504606846976 := hk.sub rfl
  repeat' first
    | intro _
    | with_reducible exact h
    | with_reducible assumption
    | with_reducible apply Inv.modHp k0
    | with_reducible apply Inv.ite
    | with_reducible apply Inv.getD
    | fail_if_no_progress (first | with_reducible refine Inv.lit hk ?_ | fail)
    | split
    | dsimp only
    | exact h

theorem Inv.portOut {P : State → Prop} (hk : Stables P 1441152980270252032) {t : State} (h : P t) (p : Nat) : P (State.portOut t p) := by
  unfold State.portOut
  have k0 : Stables P 65536 := hk.sub rfl
  have k1 : Stables P 65536 := hk.sub rfl
  have k2 : Stables P 1152921504606846976 := hk.sub rfl
  have k3 : Stables P 1099511627776 := hk.sub rfl
  repeat' first
    | intro _
    | with_reducible exact h
    | with_reducible assumption
    | with_reducible apply Inv.setHState k0
    | with_reducible apply Inv.setN k1
    | with_reducible apply Inv.modHp k2
    | with_reducible apply Inv.oweAgain k3
    | with_reducible apply Inv.ite
    | with_reducible apply Inv.getD
    | fail_if_no_progress (first | with_reducible refine Inv.lit hk ?_ | fail)
    | split
    | dsimp only
    | exact h

theorem Inv.portDown {P : State → Prop} (hk : Stables P 1441152980303814656) {t : State} (h : P t) (p : Nat) : P (State.portDown t p) := by
  unfold State.portDown
  have k0 : Stables P 1441152980270252032 := hk.sub rfl
  have k1 : Stables P 33628160 := hk.sub rfl
  repeat' first
    | intro _
    | with_reducible exact h
    | with_reducible assumption
    | with_reducible apply Inv.portOut k0
    | with_reducible apply Inv.raise k1
    | with_reducible apply Inv.ite
    | with_reducible apply Inv.getD
    | fail_if_no_progress (first | with_reducible refine Inv.lit hk ?_ | fail)
    | split
    | dsimp only
    | exact h

theorem Inv.swapLane {P : State → Prop} (hk : Stables P 1152921504640475136) {t : State} (h : P t) (p lane spare : Nat) : P (State.swapLane t p lane spare) := by
  unfold State.swapLane
  have k0 : Stables P 65536 := hk.sub rfl
  have k1 : Stables P 65536 := hk.sub rfl
  have k2 : Stables P 1152921504606846976 := hk.sub rfl
  have k3 : Stables P 33628160 := hk.sub rfl
  repeat' first
    | intro _
    | with_reducible exact h
    | with_reducible assumption
    | with_reducible apply Inv.setN k0
    | with_reducible apply Inv.bump k1
    | with_reducible apply Inv.modHp k2
    | with_reducible apply Inv.raise k3
    | with_reducible apply Inv.ite
    | with_reducible apply Inv.getD
    | fail_if_no_progress (first | with_reducible refine Inv.lit hk ?_ | fail)
    | split
    | dsimp only
    | exact h

theorem Inv.recover {P : State → Prop} (hk : Stables P 1152921504606912512) {t : State} (h : P t) (p : Nat) : P (State.recover t p) := by
  unfold State.recover
  have k0 : Stables P 65536 := hk.sub rfl
  have k1 : Stables P 1152921504606846976 := hk.sub rfl
  repeat' first
    | intro _
    | with_reducible exact h
    | with_reducible assumption
    | with_reducible apply Inv.setHState k0
    | with_reducible apply Inv.modHp k1
    | with_reducible apply Inv.ite
    | with_reducible apply Inv.getD
    | fail_if_no_progress (first | with_reducible refine Inv.lit hk ?_ | fail)
    | split
    | dsimp only
    | exact h

theorem Inv.execLaneFailure {P : State → Prop} (hk : Stables P 1152921504640475136) {t : State} (h : P t) (port lane : Nat) (x : LaneFault) : Ends P (Sys2Proof.Machine.execLaneFailure port lane x t) := by
  unfold Sys2Proof.Machine.execLaneFailure
  have k0 : Stables P 1152921504606846976 := hk.sub rfl
  have k1 : Stables P 1152921504606846976 := hk.sub rfl
  have k2 : Stables P 1152921504640475136 := hk.sub rfl
  have k3 : Stables P 1152921504606912512 := hk.sub rfl
  have k4 : Stables P 33628160 := hk.sub rfl
  repeat' first
    | with_reducible apply Ends.next
    | with_reducible apply Ends.ite
    | intro _
    | with_reducible exact h
    | with_reducible assumption
    | with_reducible apply Inv.modHp k0
    | with_reducible apply Inv.sendCtl k1
    | with_reducible apply Inv.swapLane k2
    | with_reducible apply Inv.recover k3
    | with_reducible apply Inv.raise k4
    | with_reducible apply Inv.ite
    | with_reducible apply Inv.getD
    | fail_if_no_progress (first | with_reducible refine Inv.lit hk ?_ | fail)
    | split
    | dsimp only
    | exact h

theorem Inv.swapNamed {P : State → Prop} (hk : Stables P 1152921504640475136) {t : State} (h : P t) (port lane : Nat) : P (State.swapNamed t port lane) := by
  unfold State.swapNamed
  have k0 : Stables P 1152921504640475136 := hk.sub rfl
  have k1 : Stables P 1152921504606846976 := hk.sub rfl
  repeat' first
    | intro _
    | with_reducible exact h
    | with_reducible assumption
    | with_reducible apply Inv.swapLane k0
    | with_reducible apply Inv.sendCtl k1
    | with_reducible apply Inv.ite
    | with_reducible apply Inv.getD
    | fail_if_no_progress (first | with_reducible refine Inv.lit hk ?_ | fail)
    | split
    | dsimp only
    | exact h

theorem Inv.execLaneSwap {P : State → Prop} (hk : Stables P 1152921504640475136) {t : State} (h : P t) (port lane : Nat) : Ends P (Sys2Proof.Machine.execLaneSwap port lane t) := by
  unfold Sys2Proof.Machine.execLaneSwap
  have k0 : Stables P 1152921504640475136 := hk.sub rfl
  repeat' first
    | with_reducible apply Ends.next
    | with_reducible apply Ends.ite
    | intro _
    | with_reducible exact h
    | with_reducible assumption
    | with_reducible apply Inv.swapNamed k0
    | with_reducible apply Inv.ite
    | with_reducible apply Inv.getD
    | fail_if_no_progress (first | with_reducible refine Inv.lit hk ?_ | fail)
    | split
    | dsimp only
    | exact h

theorem Inv.execLaneRetrain {P : State → Prop} (hk : Stables P 1152921504640475136) {t : State} (h : P t) (port : Nat) (ok : Bool) : Ends P (Sys2Proof.Machine.execLaneRetrain port ok t) := by
  unfold Sys2Proof.Machine.execLaneRetrain
  have k0 : Stables P 1152921504606846976 := hk.sub rfl
  have k1 : Stables P 33628160 := hk.sub rfl
  repeat' first
    | with_reducible apply Ends.next
    | with_reducible apply Ends.ite
    | intro _
    | with_reducible exact h
    | with_reducible assumption
    | with_reducible apply Inv.modHp k0
    | with_reducible apply Inv.raise k1
    | with_reducible apply Inv.ite
    | with_reducible apply Inv.getD
    | fail_if_no_progress (first | with_reducible refine Inv.lit hk ?_ | fail)
    | split
    | dsimp only
    | exact h

theorem Inv.recovered {P : State → Prop} (hk : Stables P 1152921504640475136) {t : State} (h : P t) (port rttNs : Nat) : P (State.recovered t port rttNs) := by
  unfold State.recovered
  have k0 : Stables P 65536 := hk.sub rfl
  have k1 : Stables P 1152921504606846976 := hk.sub rfl
  have k2 : Stables P 65536 := hk.sub rfl
  have k3 : Stables P 33628160 := hk.sub rfl
  repeat' first
    | intro _
    | with_reducible exact h
    | with_reducible assumption
    | with_reducible apply Inv.setHState k0
    | with_reducible apply Inv.modHp k1
    | with_reducible apply Inv.bump k2
    | with_reducible apply Inv.raise k3
    | with_reducible apply Inv.ite
    | with_reducible apply Inv.getD
    | fail_if_no_progress (first | with_reducible refine Inv.lit hk ?_ | fail)
    | split
    | dsimp only
    | exact h

theorem Inv.execPortRecovery {P : State → Prop} (hk : Stables P 1441152980303814656) {t : State} (h : P t) (port : Nat) (ok : Bool) (rttNs : Nat) : Ends P (Sys2Proof.Machine.execPortRecovery port ok rttNs t) := by
  unfold Sys2Proof.Machine.execPortRecovery
  have k0 : Stables P 1441152980303814656 := hk.sub rfl
  have k1 : Stables P 1152921504640475136 := hk.sub rfl
  have k2 : Stables P 1152921504606846976 := hk.sub rfl
  repeat' first
    | with_reducible apply Ends.next
    | with_reducible apply Ends.ite
    | intro _
    | with_reducible exact h
    | with_reducible assumption
    | with_reducible apply Inv.portDown k0
    | with_reducible apply Inv.recovered k1
    | with_reducible apply Inv.modHp k2
    | with_reducible apply Inv.ite
    | with_reducible apply Inv.getD
    | fail_if_no_progress (first | with_reducible refine Inv.lit hk ?_ | fail)
    | split
    | dsimp only
    | exact h

theorem Inv.execPortTraining {P : State → Prop} (hk : Stables P 296589058159656640512) {t : State} (h : P t) (port peer rttNs : Nat) (ok reportOk : Bool) (ek ct : Bytes) : Ends P (Sys2Proof.Machine.execPortTraining port peer rttNs ok reportOk ek ct t) := by
  unfold Sys2Proof.Machine.execPortTraining
  have k0 : Stables P 65536 := hk.sub rfl
  have k1 : Stables P 1441152980303814656 := hk.sub rfl
  have k2 : Stables P 33628160 := hk.sub rfl
  have k3 : Stables P 65536 := hk.sub rfl
  have k4 : Stables P 1152921504606846976 := hk.sub rfl
  repeat' first
    | with_reducible apply Ends.next
    | with_reducible apply Ends.ite
    | intro _
    | with_reducible exact h
    | with_reducible assumption
    | with_reducible apply Inv.setHState k0
    | with_reducible apply Inv.portDown k1
    | with_reducible apply Inv.raise k2
    | with_reducible apply Inv.setN k3
    | with_reducible apply Inv.sendCtl k4
    | with_reducible apply Inv.ite
    | with_reducible apply Inv.getD
    | fail_if_no_progress (first | with_reducible refine Inv.lit hk ?_ | fail)
    | split
    | dsimp only
    | exact h

theorem Inv.execPortReup {P : State → Prop} (hk : Stables P 65536) {t : State} (h : P t) (port : Nat) : Ends P (Sys2Proof.Machine.execPortReup port t) := by
  unfold Sys2Proof.Machine.execPortReup
  have k0 : Stables P 65536 := hk.sub rfl
  repeat' first
    | with_reducible apply Ends.next
    | with_reducible apply Ends.ite
    | intro _
    | with_reducible exact h
    | with_reducible assumption
    | with_reducible apply Inv.setHState k0
    | with_reducible apply Inv.ite
    | with_reducible apply Inv.getD
    | fail_if_no_progress (first | with_reducible refine Inv.lit hk ?_ | fail)
    | split
    | dsimp only
    | exact h

theorem Inv.acked {P : State → Prop} (hk : Stables P 1152921504606846976) {t : State} (h : P t) (p fsn : Nat) : P (State.acked t p fsn) := by
  unfold State.acked
  have k0 : Stables P 1152921504606846976 := hk.sub rfl
  repeat' first
    | intro _
    | with_reducible exact h
    | with_reducible assumption
    | with_reducible apply Inv.modHp k0
    | with_reducible apply Inv.ite
    | with_reducible apply Inv.getD
    | fail_if_no_progress (first | with_reducible refine Inv.lit hk ?_ | fail)
    | split
    | dsimp only
    | exact h

theorem Inv.resendFrom {P : State → Prop} (hk : Stables P 1152921504640475136) {t : State} (h : P t) (p fsn : Nat) : P (State.resendFrom t p fsn) := by
  unfold State.resendFrom
  have k0 : Stables P 1152921504606846976 := hk.sub rfl
  have k1 : Stables P 65536 := hk.sub rfl
  have k2 : Stables P 1152921504606912512 := hk.sub rfl
  have k3 : Stables P 33628160 := hk.sub rfl
  repeat' first
    | intro _
    | with_reducible exact h
    | with_reducible assumption
    | with_reducible apply Inv.modHp k0
    | with_reducible apply Inv.bump k1
    | with_reducible apply Inv.recover k2
    | with_reducible apply Inv.raise k3
    | with_reducible apply Inv.ite
    | with_reducible apply Inv.getD
    | fail_if_no_progress (first | with_reducible refine Inv.lit hk ?_ | fail)
    | split
    | dsimp only
    | exact h

theorem Inv.execRetry {P : State → Prop} (hk : Stables P 1152921504640475136) {t : State} (h : P t) (port fsn : Nat) : Ends P (Sys2Proof.Machine.execRetry port fsn t) := by
  unfold Sys2Proof.Machine.execRetry
  have k0 : Stables P 1152921504640475136 := hk.sub rfl
  repeat' first
    | with_reducible apply Ends.next
    | with_reducible apply Ends.ite
    | intro _
    | with_reducible exact h
    | with_reducible assumption
    | with_reducible apply Inv.resendFrom k0
    | with_reducible apply Inv.ite
    | with_reducible apply Inv.getD
    | fail_if_no_progress (first | with_reducible refine Inv.lit hk ?_ | fail)
    | split
    | dsimp only
    | exact h

theorem Inv.execReplayTimeout {P : State → Prop} (hk : Stables P 1152921504640475136) {t : State} (h : P t) (port : Nat) : Ends P (Sys2Proof.Machine.execReplayTimeout port t) := by
  unfold Sys2Proof.Machine.execReplayTimeout
  have k0 : Stables P 1152921504640475136 := hk.sub rfl
  repeat' first
    | with_reducible apply Ends.next
    | with_reducible apply Ends.ite
    | intro _
    | with_reducible exact h
    | with_reducible assumption
    | with_reducible apply Inv.resendFrom k0
    | with_reducible apply Inv.ite
    | with_reducible apply Inv.getD
    | fail_if_no_progress (first | with_reducible refine Inv.lit hk ?_ | fail)
    | split
    | dsimp only
    | exact h

theorem Inv.execAck {P : State → Prop} (hk : Stables P 1152921504606846976) {t : State} (h : P t) (port fsn : Nat) : Ends P (Sys2Proof.Machine.execAck port fsn t) := by
  unfold Sys2Proof.Machine.execAck
  have k0 : Stables P 1152921504606846976 := hk.sub rfl
  repeat' first
    | with_reducible apply Ends.next
    | with_reducible apply Ends.ite
    | intro _
    | with_reducible exact h
    | with_reducible assumption
    | with_reducible apply Inv.acked k0
    | with_reducible apply Inv.ite
    | with_reducible apply Inv.getD
    | fail_if_no_progress (first | with_reducible refine Inv.lit hk ?_ | fail)
    | split
    | dsimp only
    | exact h

theorem Inv.execPeerId {P : State → Prop} (hk : Stables P 65536) {t : State} (h : P t) (port peer : Nat) : Ends P (Sys2Proof.Machine.execPeerId port peer t) := by
  unfold Sys2Proof.Machine.execPeerId
  have k0 : Stables P 65536 := hk.sub rfl
  repeat' first
    | with_reducible apply Ends.next
    | with_reducible apply Ends.ite
    | intro _
    | with_reducible exact h
    | with_reducible assumption
    | with_reducible apply Inv.setN k0
    | with_reducible apply Inv.ite
    | with_reducible apply Inv.getD
    | fail_if_no_progress (first | with_reducible refine Inv.lit hk ?_ | fail)
    | split
    | dsimp only
    | exact h

theorem Inv.after {P : State → Prop} (hk : Stables P 0) {t : State} (h : P t) (o : Host.Outcome State Fault Refusal) (ho : Ends P o) : P (Sys2Proof.Machine.after t o) := by
  cases o with
  | next u => exact ho.holds u rfl
  | fault _ => exact h
  | refused _ => exact h

theorem Inv.takeImage {P : State → Prop} (hk : Stables P 1153089729919524864) {t : State} (h : P t) (port seg shard : Nat) (body : Bytes) : P (State.takeImage t port seg shard body) := by
  unfold State.takeImage
  have k0 : Stables P 1152921504606846976 := hk.sub rfl
  have k1 : Stables P 0 := hk.sub rfl
  have k2 : Stables P 168225312677888 := hk.sub rfl
  have k3 : Stables P 141837033611264 := hk.sub rfl
  repeat' first
    | intro _
    | with_reducible exact h
    | with_reducible assumption
    | with_reducible apply Inv.modHp k0
    | with_reducible apply Inv.after k1
    | refine (Inv.execSegmentRefetch k2 ?_ ..).holds _ (by assumption)
    | with_reducible apply Inv.execSegmentRefetch k2
    | refine (Inv.execSegmentImage k3 ?_ ..).holds _ (by assumption)
    | with_reducible apply Inv.execSegmentImage k3
    | with_reducible apply Inv.ite
    | with_reducible apply Inv.mapD
    | with_reducible apply Inv.getD
    | fail_if_no_progress (first | with_reducible refine Inv.lit hk ?_ | fail)
    | split
    | dsimp only
    | exact h

theorem Inv.takeLoad {P : State → Prop} (hk : Stables P 1441295916815425536) {t : State} (h : P t) (port shard : Nat) (body : Bytes) : P (State.takeLoad t port shard body) := by
  unfold State.takeLoad
  have k0 : Stables P 1152921504606846976 := hk.sub rfl
  have k1 : Stables P 0 := hk.sub rfl
  have k2 : Stables P 288374412208578560 := hk.sub rfl
  repeat' first
    | intro _
    | with_reducible exact h
    | with_reducible assumption
    | with_reducible apply Inv.modHp k0
    | with_reducible apply Inv.after k1
    | refine (Inv.execRejoinLoad k2 ?_ ..).holds _ (by assumption)
    | with_reducible apply Inv.execRejoinLoad k2
    | with_reducible apply Inv.ite
    | with_reducible apply Inv.getD
    | fail_if_no_progress (first | with_reducible refine Inv.lit hk ?_ | fail)
    | split
    | dsimp only
    | exact h

theorem Inv.consumeMsg {P : State → Prop} (hk : Stables P 1184528219650970951680) {t : State} (h : P t) (port typ tag shard : Nat) (body : Bytes) : P (State.consumeMsg t port typ tag shard body) := by
  unfold State.consumeMsg
  have k0 : Stables P 0 := hk.sub rfl
  have k1 : Stables P 549755813888 := hk.sub rfl
  have k2 : Stables P 1183338816900310310912 := hk.sub rfl
  have k3 : Stables P 17179869184 := hk.sub rfl
  have k4 : Stables P 288233674720223232 := hk.sub rfl
  have k5 : Stables P 1103806595072 := hk.sub rfl
  have k6 : Stables P 288230376185339904 := hk.sub rfl
  have k7 : Stables P 1153089729919524864 := hk.sub rfl
  have k8 : Stables P 1183375127172305985536 := hk.sub rfl
  have k9 : Stables P 324259173204303872 := hk.sub rfl
  have k10 : Stables P 324259173204303872 := hk.sub rfl
  have k11 : Stables P 1183339098375287021568 := hk.sub rfl
  have k12 : Stables P 1441295916815425536 := hk.sub rfl
  repeat' first
    | intro _
    | with_reducible exact h
    | with_reducible assumption
    | with_reducible apply Inv.after k0
    | refine (Inv.execSubSearch k1 ?_ ..).holds _ (by assumption)
    | with_reducible apply Inv.execSubSearch k1
    | refine (Inv.execShardList k2 ?_ ..).holds _ (by assumption)
    | with_reducible apply Inv.execShardList k2
    | refine (Inv.execCertFields k3 ?_ ..).holds _ (by assumption)
    | with_reducible apply Inv.execCertFields k3
    | refine (Inv.execLogRecords k4 ?_ ..).holds _ (by assumption)
    | with_reducible apply Inv.execLogRecords k4
    | refine (Inv.execLogAck k5 ?_ ..).holds _ (by assumption)
    | with_reducible apply Inv.execLogAck k5
    | refine (Inv.execLogResend k6 ?_ ..).holds _ (by assumption)
    | with_reducible apply Inv.execLogResend k6
    | with_reducible apply Inv.takeImage k7
    | refine (Inv.execEmbRows k8 ?_ ..).holds _ (by assumption)
    | with_reducible apply Inv.execEmbRows k8
    | refine (Inv.execGradientBatch k9 ?_ ..).holds _ (by assumption)
    | with_reducible apply Inv.execGradientBatch k9
    | refine (Inv.execRunningSums k10 ?_ ..).holds _ (by assumption)
    | with_reducible apply Inv.execRunningSums k10
    | refine (Inv.execPagePartials k11 ?_ ..).holds _ (by assumption)
    | with_reducible apply Inv.execPagePartials k11
    | with_reducible apply Inv.takeLoad k12
    | with_reducible apply Inv.ite
    | with_reducible apply Inv.mapD
    | with_reducible apply Inv.getD
    | fail_if_no_progress (first | with_reducible refine Inv.lit hk ?_ | fail)
    | split
    | dsimp only
    | exact h

theorem Inv.joinMsg {P : State → Prop} (hk : Stables P 1184528219650970951680) {t : State} (h : P t) (port typ tag shard : Nat) (body : Bytes) : P (State.joinMsg t port typ tag shard body) := by
  unfold State.joinMsg
  have k0 : Stables P 1184528219650970951680 := hk.sub rfl
  have k1 : Stables P 1152921504606846976 := hk.sub rfl
  repeat' first
    | intro _
    | with_reducible exact h
    | with_reducible assumption
    | with_reducible apply Inv.consumeMsg k0
    | with_reducible apply Inv.modHp k1
    | with_reducible apply Inv.ite
    | with_reducible apply Inv.getD
    | fail_if_no_progress (first | with_reducible refine Inv.lit hk ?_ | fail)
    | split
    | dsimp only
    | exact h

theorem Inv.deliver {P : State → Prop} (hk : Stables P 1184528219650970951680) {t : State} (h : P t) (port : Nat) (m : Bytes) : P (State.deliver t port m) := by
  unfold State.deliver
  have k0 : Stables P 33628160 := hk.sub rfl
  have k1 : Stables P 1184528219650970951680 := hk.sub rfl
  repeat' first
    | intro _
    | with_reducible exact h
    | with_reducible assumption
    | with_reducible apply Inv.raise k0
    | with_reducible apply Inv.joinMsg k1
    | with_reducible apply Inv.ite
    | with_reducible apply Inv.getD
    | fail_if_no_progress (first | with_reducible refine Inv.lit hk ?_ | fail)
    | split
    | dsimp only
    | exact h

theorem Inv.openMsg {P : State → Prop} (hk : Stables P 1184528219650970951680) {t : State} (h : P t) (port c : Nat) (m : Bytes) (tagOk : Bool) : P (State.openMsg t port c m tagOk) := by
  unfold State.openMsg
  have k0 : Stables P 1184528219650970951680 := hk.sub rfl
  have k1 : Stables P 1152921504606846976 := hk.sub rfl
  have k2 : Stables P 33628160 := hk.sub rfl
  repeat' first
    | intro _
    | with_reducible exact h
    | with_reducible assumption
    | with_reducible apply Inv.deliver k0
    | with_reducible apply Inv.modHp k1
    | with_reducible apply Inv.raise k2
    | with_reducible apply Inv.ite
    | with_reducible apply Inv.mapD
    | with_reducible apply Inv.getD
    | fail_if_no_progress (first | with_reducible refine Inv.lit hk ?_ | fail)
    | split
    | dsimp only
    | exact h

theorem Inv.takeFlit {P : State → Prop} (hk : Stables P 1184528219650970951680) {t : State} (h : P t) (port : Nat) (f : Bytes) (tagOk : Bool) : P (State.takeFlit t port f tagOk) := by
  unfold State.takeFlit
  have k0 : Stables P 33628160 := hk.sub rfl
  have k1 : Stables P 1152921504606846976 := hk.sub rfl
  have k2 : Stables P 1184528219650970951680 := hk.sub rfl
  repeat' first
    | intro _
    | with_reducible exact h
    | with_reducible assumption
    | with_reducible apply Inv.raise k0
    | with_reducible apply Inv.modHp k1
    | with_reducible apply Inv.openMsg k2
    | with_reducible apply Inv.ite
    | with_reducible apply Inv.getD
    | fail_if_no_progress (first | with_reducible refine Inv.lit hk ?_ | fail)
    | split
    | dsimp only
    | exact h

theorem Inv.takeCtl {P : State → Prop} (hk : Stables P 1152921504640475136) {t : State} (h : P t) (port : Nat) (f : Bytes) : P (State.takeCtl t port f) := by
  unfold State.takeCtl
  have k0 : Stables P 1152921504640475136 := hk.sub rfl
  have k1 : Stables P 1152921504640475136 := hk.sub rfl
  have k2 : Stables P 65536 := hk.sub rfl
  repeat' first
    | intro _
    | with_reducible exact h
    | with_reducible assumption
    | with_reducible apply Inv.resendFrom k0
    | with_reducible apply Inv.swapNamed k1
    | with_reducible apply Inv.setN k2
    | with_reducible apply Inv.ite
    | with_reducible apply Inv.getD
    | fail_if_no_progress (first | with_reducible refine Inv.lit hk ?_ | fail)
    | split
    | dsimp only
    | exact h

theorem Inv.ackFlit {P : State → Prop} (hk : Stables P 1152921504606846976) {t : State} (h : P t) (port : Nat) : P (State.ackFlit t port) := by
  unfold State.ackFlit
  have k0 : Stables P 1152921504606846976 := hk.sub rfl
  repeat' first
    | intro _
    | with_reducible exact h
    | with_reducible assumption
    | with_reducible apply Inv.sendCtl k0
    | with_reducible apply Inv.ite
    | with_reducible apply Inv.getD
    | fail_if_no_progress (first | with_reducible refine Inv.lit hk ?_ | fail)
    | split
    | dsimp only
    | exact h

theorem Inv.execDataFlit {P : State → Prop} (hk : Stables P 1184528219650970951680) {t : State} (h : P t) (port : Nat) (flit : Bytes) (fecOk tagOk : Bool) : Ends P (Sys2Proof.Machine.execDataFlit port flit fecOk tagOk t) := by
  unfold Sys2Proof.Machine.execDataFlit
  have k0 : Stables P 1152921504606846976 := hk.sub rfl
  have k1 : Stables P 1152921504606846976 := hk.sub rfl
  have k2 : Stables P 1152921504606846976 := hk.sub rfl
  have k3 : Stables P 1152921504640475136 := hk.sub rfl
  have k4 : Stables P 1152921504606846976 := hk.sub rfl
  have k5 : Stables P 1184528219650970951680 := hk.sub rfl
  repeat' first
    | with_reducible apply Ends.next
    | with_reducible apply Ends.ite
    | intro _
    | with_reducible exact h
    | with_reducible assumption
    | with_reducible apply Inv.sendCtl k0
    | with_reducible apply Inv.modHp k1
    | with_reducible apply Inv.acked k2
    | with_reducible apply Inv.takeCtl k3
    | with_reducible apply Inv.ackFlit k4
    | with_reducible apply Inv.takeFlit k5
    | with_reducible apply Inv.ite
    | with_reducible apply Inv.getD
    | fail_if_no_progress (first | with_reducible refine Inv.lit hk ?_ | fail)
    | split
    | dsimp only
    | exact h

end Sys2Proof.Machine
end

