-- ==== Sys2Proof/Laws/KeepsDict.lean ====
section
/-! SUPPORT. What the operations of Machine/Dict.lean leave as it is: one lemma for each. -/

set_option linter.unusedTactic false
set_option linter.unreachableTactic false
set_option linter.unusedVariables false

namespace Sys2Proof.Machine
set_option Elab.async false

theorem Inv.modResult {P : State → Prop} (hk : Stables P 8388608) {t : State} (h : P t) (x : Src) (f : SrcResult → SrcResult) : P (State.modResult t x f) := by
  unfold State.modResult
  repeat' first
    | intro _
    | with_reducible exact h
    | with_reducible assumption
    | with_reducible apply Inv.ite
    | with_reducible apply Inv.getD
    | fail_if_no_progress (first | with_reducible refine Inv.lit hk ?_ | fail)
    | split
    | dsimp only
    | exact h

theorem Inv.putStaged {P : State → Prop} (hk : Stables P 1048576) {t : State} (h : P t) (x : Src) (idx sub : Nat) (v : Bytes) : P (State.putStaged t x idx sub v).1 := by
  unfold State.putStaged
  repeat' first
    | intro _
    | with_reducible exact h
    | with_reducible assumption
    | with_reducible apply Inv.ite
    | with_reducible apply Inv.getD
    | fail_if_no_progress (first | with_reducible refine Inv.lit hk ?_ | fail)
    | split
    | dsimp only
    | exact h

theorem Inv.askCommit {P : State → Prop} (hk : Stables P 5242880) {t : State} (h : P t) (x : Src) (txn : Option Nat) : P (State.askCommit t x txn) := by
  unfold State.askCommit
  repeat' first
    | intro _
    | with_reducible exact h
    | with_reducible assumption
    | with_reducible apply Inv.ite
    | with_reducible apply Inv.getD
    | fail_if_no_progress (first | with_reducible refine Inv.lit hk ?_ | fail)
    | split
    | dsimp only
    | exact h

theorem Inv.dropSet {P : State → Prop} (hk : Stables P 1048576) {t : State} (h : P t) (x : Src) : P (State.dropSet t x) := by
  unfold State.dropSet
  repeat' first
    | intro _
    | with_reducible exact h
    | with_reducible assumption
    | with_reducible apply Inv.ite
    | with_reducible apply Inv.getD
    | fail_if_no_progress (first | with_reducible refine Inv.lit hk ?_ | fail)
    | split
    | dsimp only
    | exact h

theorem Inv.stageValue {P : State → Prop} (hk : Stables P 38871040) {t : State} (h : P t) (x : Src) (idx sub : Nat) (v : Bytes) : P (State.stageValue t x idx sub v).1 := by
  unfold State.stageValue
  have k0 : Stables P 33628160 := hk.sub rfl
  have k1 : Stables P 5242880 := hk.sub rfl
  have k2 : Stables P 1048576 := hk.sub rfl
  have k3 : Stables P 1048576 := hk.sub rfl
  repeat' first
    | intro _
    | with_reducible exact h
    | with_reducible assumption
    | with_reducible apply Inv.raise k0
    | with_reducible apply Inv.askCommit k1
    | with_reducible apply Inv.dropSet k2
    | with_reducible apply Inv.putStaged k3
    | with_reducible apply Inv.ite
    | with_reducible apply Inv.getD
    | fail_if_no_progress (first | with_reducible refine Inv.lit hk ?_ | fail)
    | split
    | dsimp only
    | exact h

theorem Inv.respond {P : State → Prop} (hk : Stables P 2097152) {t : State} (h : P t) (svc : Nat) (f : FdpFrame) (result : Nat) (last : Bool) (total : Nat) (v : Bytes) : P (State.respond t svc f result last total v) := by
  unfold State.respond
  repeat' first
    | intro _
    | with_reducible exact h
    | with_reducible assumption
    | with_reducible apply Inv.ite
    | with_reducible apply Inv.getD
    | fail_if_no_progress (first | with_reducible refine Inv.lit hk ?_ | fail)
    | split
    | dsimp only
    | exact h

theorem Inv.answer {P : State → Prop} (hk : Stables P 2097152) {t : State} (h : P t) (svc : Nat) (f : FdpFrame) (result : Nat) : P (State.answer t svc f result) := by
  unfold State.answer
  have k0 : Stables P 2097152 := hk.sub rfl
  repeat' first
    | intro _
    | with_reducible exact h
    | with_reducible assumption
    | with_reducible apply Inv.respond k0
    | with_reducible apply Inv.ite
    | with_reducible apply Inv.getD
    | fail_if_no_progress (first | with_reducible refine Inv.lit hk ?_ | fail)
    | split
    | dsimp only
    | exact h

theorem Inv.endXfer {P : State → Prop} (hk : Stables P 2097152) {t : State} (h : P t) (mac : Nat) : P (State.endXfer t mac) := by
  unfold State.endXfer
  repeat' first
    | intro _
    | with_reducible exact h
    | with_reducible assumption
    | with_reducible apply Inv.ite
    | with_reducible apply Inv.getD
    | fail_if_no_progress (first | with_reducible refine Inv.lit hk ?_ | fail)
    | split
    | dsimp only
    | exact h

theorem Inv.putXfer {P : State → Prop} (hk : Stables P 2097152) {t : State} (h : P t) (x : Xfer) : P (State.putXfer t x) := by
  unfold State.putXfer
  have k0 : Stables P 2097152 := hk.sub rfl
  repeat' first
    | intro _
    | with_reducible exact h
    | with_reducible assumption
    | with_reducible apply Inv.endXfer k0
    | with_reducible apply Inv.ite
    | with_reducible apply Inv.getD
    | fail_if_no_progress (first | with_reducible refine Inv.lit hk ?_ | fail)
    | split
    | dsimp only
    | exact h

theorem Inv.fdp {P : State → Prop} (hk : Stables P 35725312) {t : State} (h : P t) (svc : Nat) (f : FdpFrame) (run : State → State) (hr : ∀ v, P v → P (run v)) : P (State.fdp t svc f run) := by
  have k0 : Stables P 2097152 := hk.sub rfl
  have k1 : Stables P 65536 := hk.sub rfl
  have k2 : Stables P 33628160 := hk.sub rfl
  unfold State.fdp
  repeat' first
    | intro _
    | with_reducible exact h
    | with_reducible assumption
    | with_reducible apply hr
    | with_reducible apply Inv.answer k0
    | with_reducible apply Inv.bump k1
    | with_reducible apply Inv.raise k2
    | with_reducible apply Inv.ite
    | split
    | fail_if_no_progress (first | with_reducible refine Inv.lit hk ?_ | fail)
    | dsimp only

theorem Inv.execReadExpedited {P : State → Prop} (hk : Stables P 35725312) {t : State} (h : P t) (f : FdpFrame) : Ends P (Sys2Proof.Machine.execReadExpedited f t) := by
  unfold Sys2Proof.Machine.execReadExpedited
  have k0 : Stables P 35725312 := hk.sub rfl
  have k1 : Stables P 2097152 := hk.sub rfl
  have k2 : Stables P 2097152 := hk.sub rfl
  repeat' first
    | with_reducible apply Ends.next
    | with_reducible apply Ends.ite
    | intro _
    | with_reducible exact h
    | with_reducible assumption
    | with_reducible apply Inv.fdp k0
    | with_reducible apply Inv.answer k1
    | with_reducible apply Inv.respond k2
    | with_reducible apply Inv.ite
    | with_reducible apply Inv.getD
    | fail_if_no_progress (first | with_reducible refine Inv.lit hk ?_ | fail)
    | split
    | dsimp only
    | exact h

theorem Inv.execWriteExpedited {P : State → Prop} (hk : Stables P 40968192) {t : State} (h : P t) (f : FdpFrame) : Ends P (Sys2Proof.Machine.execWriteExpedited f t) := by
  unfold Sys2Proof.Machine.execWriteExpedited
  have k0 : Stables P 35725312 := hk.sub rfl
  have k1 : Stables P 33628160 := hk.sub rfl
  have k2 : Stables P 2097152 := hk.sub rfl
  have k3 : Stables P 38871040 := hk.sub rfl
  repeat' first
    | with_reducible apply Ends.next
    | with_reducible apply Ends.ite
    | intro _
    | with_reducible exact h
    | with_reducible assumption
    | with_reducible apply Inv.fdp k0
    | with_reducible apply Inv.raise k1
    | with_reducible apply Inv.answer k2
    | with_reducible apply Inv.stageValue k3
    | with_reducible apply Inv.ite
    | with_reducible apply Inv.getD
    | fail_if_no_progress (first | with_reducible refine Inv.lit hk ?_ | fail)
    | split
    | dsimp only
    | exact h

theorem Inv.execReadInit {P : State → Prop} (hk : Stables P 35725312) {t : State} (h : P t) (f : FdpFrame) : Ends P (Sys2Proof.Machine.execReadInit f t) := by
  unfold Sys2Proof.Machine.execReadInit
  have k0 : Stables P 35725312 := hk.sub rfl
  have k1 : Stables P 2097152 := hk.sub rfl
  have k2 : Stables P 2097152 := hk.sub rfl
  have k3 : Stables P 2097152 := hk.sub rfl
  repeat' first
    | with_reducible apply Ends.next
    | with_reducible apply Ends.ite
    | intro _
    | with_reducible exact h
    | with_reducible assumption
    | with_reducible apply Inv.fdp k0
    | with_reducible apply Inv.answer k1
    | with_reducible apply Inv.respond k2
    | with_reducible apply Inv.putXfer k3
    | with_reducible apply Inv.ite
    | with_reducible apply Inv.getD
    | fail_if_no_progress (first | with_reducible refine Inv.lit hk ?_ | fail)
    | split
    | dsimp only
    | exact h

theorem Inv.stageImage {P : State → Prop} (hk : Stables P 9223372036854775808) {t : State} (h : P t) (v : Bytes) : P (State.stageImage t v) := by
  unfold State.stageImage
  repeat' first
    | intro _
    | with_reducible exact h
    | with_reducible assumption
    | with_reducible apply Inv.ite
    | with_reducible apply Inv.getD
    | fail_if_no_progress (first | with_reducible refine Inv.lit hk ?_ | fail)
    | split
    | dsimp only
    | exact h

theorem Inv.endWrite {P : State → Prop} (hk : Stables P 46116860184314847232) {t : State} (h : P t) (svc : Nat) (f : FdpFrame) (idx sub : Nat) (v : Bytes) : P (State.endWrite t svc f idx sub v) := by
  unfold State.endWrite
  have k0 : Stables P 2097152 := hk.sub rfl
  have k1 : Stables P 2097152 := hk.sub rfl
  have k2 : Stables P 9223372036854775808 := hk.sub rfl
  have k3 : Stables P 38871040 := hk.sub rfl
  repeat' first
    | intro _
    | with_reducible exact h
    | with_reducible assumption
    | with_reducible apply Inv.endXfer k0
    | with_reducible apply Inv.answer k1
    | with_reducible apply Inv.stageImage k2
    | with_reducible apply Inv.stageValue k3
    | with_reducible apply Inv.ite
    | with_reducible apply Inv.getD
    | fail_if_no_progress (first | with_reducible refine Inv.lit hk ?_ | fail)
    | split
    | dsimp only
    | exact h

theorem Inv.execWriteInit {P : State → Prop} (hk : Stables P 46116860184314847232) {t : State} (h : P t) (f : FdpFrame) : Ends P (Sys2Proof.Machine.execWriteInit f t) := by
  unfold Sys2Proof.Machine.execWriteInit
  have k0 : Stables P 35725312 := hk.sub rfl
  have k1 : Stables P 33628160 := hk.sub rfl
  have k2 : Stables P 2097152 := hk.sub rfl
  have k3 : Stables P 46116860184314847232 := hk.sub rfl
  have k4 : Stables P 2097152 := hk.sub rfl
  repeat' first
    | with_reducible apply Ends.next
    | with_reducible apply Ends.ite
    | intro _
    | with_reducible exact h
    | with_reducible assumption
    | with_reducible apply Inv.fdp k0
    | with_reducible apply Inv.raise k1
    | with_reducible apply Inv.answer k2
    | with_reducible apply Inv.endWrite k3
    | with_reducible apply Inv.putXfer k4
    | with_reducible apply Inv.ite
    | with_reducible apply Inv.getD
    | fail_if_no_progress (first | with_reducible refine Inv.lit hk ?_ | fail)
    | split
    | dsimp only
    | exact h

theorem Inv.execSegment {P : State → Prop} (hk : Stables P 46116860184314847232) {t : State} (h : P t) (f : FdpFrame) : Ends P (Sys2Proof.Machine.execSegment f t) := by
  unfold Sys2Proof.Machine.execSegment
  have k0 : Stables P 35725312 := hk.sub rfl
  have k1 : Stables P 2097152 := hk.sub rfl
  have k2 : Stables P 2097152 := hk.sub rfl
  have k3 : Stables P 33628160 := hk.sub rfl
  have k4 : Stables P 46116860184314847232 := hk.sub rfl
  have k5 : Stables P 2097152 := hk.sub rfl
  have k6 : Stables P 2097152 := hk.sub rfl
  repeat' first
    | with_reducible apply Ends.next
    | with_reducible apply Ends.ite
    | intro _
    | with_reducible exact h
    | with_reducible assumption
    | with_reducible apply Inv.fdp k0
    | with_reducible apply Inv.answer k1
    | with_reducible apply Inv.endXfer k2
    | with_reducible apply Inv.raise k3
    | with_reducible apply Inv.endWrite k4
    | with_reducible apply Inv.putXfer k5
    | with_reducible apply Inv.respond k6
    | with_reducible apply Inv.ite
    | with_reducible apply Inv.getD
    | fail_if_no_progress (first | with_reducible refine Inv.lit hk ?_ | fail)
    | split
    | dsimp only
    | exact h

theorem Inv.execAbort {P : State → Prop} (hk : Stables P 35725312) {t : State} (h : P t) (f : FdpFrame) : Ends P (Sys2Proof.Machine.execAbort f t) := by
  unfold Sys2Proof.Machine.execAbort
  have k0 : Stables P 35725312 := hk.sub rfl
  have k1 : Stables P 2097152 := hk.sub rfl
  have k2 : Stables P 2097152 := hk.sub rfl
  repeat' first
    | with_reducible apply Ends.next
    | with_reducible apply Ends.ite
    | intro _
    | with_reducible exact h
    | with_reducible assumption
    | with_reducible apply Inv.fdp k0
    | with_reducible apply Inv.answer k1
    | with_reducible apply Inv.endXfer k2
    | with_reducible apply Inv.ite
    | with_reducible apply Inv.getD
    | fail_if_no_progress (first | with_reducible refine Inv.lit hk ?_ | fail)
    | split
    | dsimp only
    | exact h

theorem Inv.execCommit {P : State → Prop} (hk : Stables P 40968192) {t : State} (h : P t) (f : FdpFrame) : Ends P (Sys2Proof.Machine.execCommit f t) := by
  unfold Sys2Proof.Machine.execCommit
  have k0 : Stables P 35725312 := hk.sub rfl
  have k1 : Stables P 2097152 := hk.sub rfl
  have k2 : Stables P 5242880 := hk.sub rfl
  repeat' first
    | with_reducible apply Ends.next
    | with_reducible apply Ends.ite
    | intro _
    | with_reducible exact h
    | with_reducible assumption
    | with_reducible apply Inv.fdp k0
    | with_reducible apply Inv.answer k1
    | with_reducible apply Inv.askCommit k2
    | with_reducible apply Inv.ite
    | with_reducible apply Inv.getD
    | fail_if_no_progress (first | with_reducible refine Inv.lit hk ?_ | fail)
    | split
    | dsimp only
    | exact h

theorem Inv.execDiscard {P : State → Prop} (hk : Stables P 36773888) {t : State} (h : P t) (f : FdpFrame) : Ends P (Sys2Proof.Machine.execDiscard f t) := by
  unfold Sys2Proof.Machine.execDiscard
  have k0 : Stables P 35725312 := hk.sub rfl
  have k1 : Stables P 2097152 := hk.sub rfl
  have k2 : Stables P 1048576 := hk.sub rfl
  repeat' first
    | with_reducible apply Ends.next
    | with_reducible apply Ends.ite
    | intro _
    | with_reducible exact h
    | with_reducible assumption
    | with_reducible apply Inv.fdp k0
    | with_reducible apply Inv.answer k1
    | with_reducible apply Inv.dropSet k2
    | with_reducible apply Inv.ite
    | with_reducible apply Inv.getD
    | fail_if_no_progress (first | with_reducible refine Inv.lit hk ?_ | fail)
    | split
    | dsimp only
    | exact h

theorem Inv.execTransferIdleExpiry {P : State → Prop} (hk : Stables P 35725312) {t : State} (h : P t) (mac : Nat) : Ends P (Sys2Proof.Machine.execTransferIdleExpiry mac t) := by
  unfold Sys2Proof.Machine.execTransferIdleExpiry
  have k0 : Stables P 2097152 := hk.sub rfl
  have k1 : Stables P 33628160 := hk.sub rfl
  repeat' first
    | with_reducible apply Ends.next
    | with_reducible apply Ends.ite
    | intro _
    | with_reducible exact h
    | with_reducible assumption
    | with_reducible apply Inv.endXfer k0
    | with_reducible apply Inv.raise k1
    | with_reducible apply Inv.ite
    | with_reducible apply Inv.getD
    | fail_if_no_progress (first | with_reducible refine Inv.lit hk ?_ | fail)
    | split
    | dsimp only
    | exact h

theorem Inv.execTransmitOpportunity {P : State → Prop} (hk : Stables P 2162688) {t : State} (h : P t) : Ends P (Sys2Proof.Machine.execTransmitOpportunity t) := by
  unfold Sys2Proof.Machine.execTransmitOpportunity
  have k0 : Stables P 65536 := hk.sub rfl
  repeat' first
    | with_reducible apply Ends.next
    | with_reducible apply Ends.ite
    | intro _
    | with_reducible exact h
    | with_reducible assumption
    | with_reducible apply Inv.bump k0
    | with_reducible apply Inv.ite
    | with_reducible apply Inv.getD
    | fail_if_no_progress (first | with_reducible refine Inv.lit hk ?_ | fail)
    | split
    | dsimp only
    | exact h

theorem Inv.mirrorStage {P : State → Prop} (hk : Stables P 38871040) {t : State} (h : P t) (qp idx sub off : Nat) (b : Bytes) : P (State.mirrorStage t qp idx sub off b).1 := by
  unfold State.mirrorStage
  have k0 : Stables P 33628160 := hk.sub rfl
  have k1 : Stables P 38871040 := hk.sub rfl
  repeat' first
    | intro _
    | with_reducible exact h
    | with_reducible assumption
    | with_reducible apply Inv.raise k0
    | with_reducible apply Inv.stageValue k1
    | with_reducible apply Inv.ite
    | with_reducible apply Inv.getD
    | fail_if_no_progress (first | with_reducible refine Inv.lit hk ?_ | fail)
    | split
    | dsimp only
    | exact h

theorem Inv.mirrorWrite {P : State → Prop} (hk : Stables P 147573952589715283968) {t : State} (h : P t) (qp idx sub off : Nat) (b : Bytes) : P (State.mirrorWrite t qp idx sub off b) := by
  unfold State.mirrorWrite
  have k0 : Stables P 33628160 := hk.sub rfl
  have k1 : Stables P 38871040 := hk.sub rfl
  repeat' first
    | intro _
    | with_reducible exact h
    | with_reducible assumption
    | with_reducible apply Inv.raise k0
    | with_reducible apply Inv.mirrorStage k1
    | with_reducible apply Inv.ite
    | with_reducible apply Inv.getD
    | fail_if_no_progress (first | with_reducible refine Inv.lit hk ?_ | fail)
    | split
    | dsimp only
    | exact h

theorem Inv.execMirrorStagingWrite {P : State → Prop} (hk : Stables P 147573952589715283968) {t : State} (h : P t) (qp idx sub off : Nat) (b : Bytes) : Ends P (Sys2Proof.Machine.execMirrorStagingWrite qp idx sub off b t) := by
  unfold Sys2Proof.Machine.execMirrorStagingWrite
  have k0 : Stables P 147573952589715283968 := hk.sub rfl
  repeat' first
    | with_reducible apply Ends.next
    | with_reducible apply Ends.ite
    | intro _
    | with_reducible exact h
    | with_reducible assumption
    | with_reducible apply Inv.mirrorWrite k0
    | with_reducible apply Inv.ite
    | with_reducible apply Inv.getD
    | fail_if_no_progress (first | with_reducible refine Inv.lit hk ?_ | fail)
    | split
    | dsimp only
    | exact h

theorem Inv.execDictCommit {P : State → Prop} (hk : Stables P 147573952589715283968) {t : State} (h : P t) (qp : Nat) : Ends P (Sys2Proof.Machine.execDictCommit qp t) := by
  unfold Sys2Proof.Machine.execDictCommit
  have k0 : Stables P 147573952589715283968 := hk.sub rfl
  repeat' first
    | with_reducible apply Ends.next
    | with_reducible apply Ends.ite
    | intro _
    | with_reducible exact h
    | with_reducible assumption
    | with_reducible apply Inv.mirrorWrite k0
    | with_reducible apply Inv.ite
    | with_reducible apply Inv.getD
    | fail_if_no_progress (first | with_reducible refine Inv.lit hk ?_ | fail)
    | split
    | dsimp only
    | exact h

theorem Inv.execDictDiscard {P : State → Prop} (hk : Stables P 147573952589715283968) {t : State} (h : P t) (qp : Nat) : Ends P (Sys2Proof.Machine.execDictDiscard qp t) := by
  unfold Sys2Proof.Machine.execDictDiscard
  have k0 : Stables P 147573952589715283968 := hk.sub rfl
  repeat' first
    | with_reducible apply Ends.next
    | with_reducible apply Ends.ite
    | intro _
    | with_reducible exact h
    | with_reducible assumption
    | with_reducible apply Inv.mirrorWrite k0
    | with_reducible apply Inv.ite
    | with_reducible apply Inv.getD
    | fail_if_no_progress (first | with_reducible refine Inv.lit hk ?_ | fail)
    | split
    | dsimp only
    | exact h

end Sys2Proof.Machine
end

