-- ==== Sys2Proof/Laws/KeepsHost.lean ====
section
/-! SUPPORT. What the operations of Machine/Host.lean leave as it is: one lemma for each. -/

set_option linter.unusedTactic false
set_option linter.unreachableTactic false
set_option linter.unusedVariables false

namespace Sys2Proof.Machine
set_option Elab.async false

theorem Inv.refuseAccess {P : State → Prop} (hk : Stables P 147573952589710041088) {t : State} (h : P t) (event addr : Nat) : P (State.refuseAccess t event addr) := by
  unfold State.refuseAccess
  have k0 : Stables P 33628160 := hk.sub rfl
  repeat' first
    | intro _
    | with_reducible exact h
    | with_reducible assumption
    | with_reducible apply Inv.raise k0
    | with_reducible apply Inv.ite
    | with_reducible apply Inv.getD
    | fail_if_no_progress (first | with_reducible refine Inv.lit hk ?_ | fail)
    | split
    | dsimp only
    | exact h

theorem Inv.consumedWrite {P : State → Prop} (hk : Stables P 147573952589726818304) {t : State} (h : P t) (off : Nat) (b : Bytes) : P (State.consumedWrite t off b) := by
  unfold State.consumedWrite
  have k0 : Stables P 147573952589710041088 := hk.sub rfl
  repeat' first
    | intro _
    | with_reducible exact h
    | with_reducible assumption
    | with_reducible apply Inv.refuseAccess k0
    | with_reducible apply Inv.ite
    | with_reducible apply Inv.getD
    | fail_if_no_progress (first | with_reducible refine Inv.lit hk ?_ | fail)
    | split
    | dsimp only
    | exact h

theorem Inv.execEventConsumedWrite {P : State → Prop} (hk : Stables P 147573952589726818304) {t : State} (h : P t) (qp offset : Nat) (data : Bytes) : Ends P (Sys2Proof.Machine.execEventConsumedWrite qp offset data t) := by
  unfold Sys2Proof.Machine.execEventConsumedWrite
  have k0 : Stables P 147573952589726818304 := hk.sub rfl
  repeat' first
    | with_reducible apply Ends.next
    | with_reducible apply Ends.ite
    | intro _
    | with_reducible exact h
    | with_reducible assumption
    | with_reducible apply Inv.consumedWrite k0
    | with_reducible apply Inv.ite
    | with_reducible apply Inv.getD
    | fail_if_no_progress (first | with_reducible refine Inv.lit hk ?_ | fail)
    | split
    | dsimp only
    | exact h

theorem Inv.hostWrite {P : State → Prop} (hk : Stables P 9592381086987533230080) {t : State} (h : P t) (qp addr : Nat) (b : Bytes) : P (State.hostWrite t qp addr b) := by
  unfold State.hostWrite
  have k0 : Stables P 147573952589726818304 := hk.sub rfl
  have k1 : Stables P 147573952589715283968 := hk.sub rfl
  have k2 : Stables P 2147483648 := hk.sub rfl
  have k3 : Stables P 147573952589710041088 := hk.sub rfl
  have k4 : Stables P 9444807134395687313408 := hk.sub rfl
  repeat' first
    | intro _
    | with_reducible exact h
    | with_reducible assumption
    | with_reducible apply Inv.consumedWrite k0
    | with_reducible apply Inv.mirrorWrite k1
    | with_reducible apply Inv.modRing k2
    | with_reducible apply Inv.refuseAccess k3
    | with_reducible apply Inv.writeField k4
    | with_reducible apply Inv.ite
    | with_reducible apply Inv.getD
    | exact Memory.wf_writeN (by assumption) _ _
    | exact Memory.wf_write (by assumption) _ _
    | exact Memory.wf_filter _ (by assumption)
    | with_reducible apply Memory.wf_foldl
    | fail_if_no_progress (first | with_reducible refine Inv.lit hk ?_ | fail)
    | split
    | dsimp only
    | exact h
    | (first | with_reducible refine Inv.lit hk ?_ (em := Or.inr ⟨3, by decide, MemFair.any ?_⟩) | fail)

theorem Inv.hostRead {P : State → Prop} (hk : Stables P 442722139244039577600) {t : State} (h : P t) (qp addr len : Nat) : P (State.hostRead t qp addr len) := by
  unfold State.hostRead
  have k0 : Stables P 147573952589710041088 := hk.sub rfl
  have k1 : Stables P 281474976710656 := hk.sub rfl
  repeat' first
    | intro _
    | with_reducible exact h
    | with_reducible assumption
    | with_reducible apply Inv.refuseAccess k0
    | with_reducible apply Inv.countReads k1
    | with_reducible apply Inv.ite
    | with_reducible apply Inv.mapD
    | with_reducible apply Inv.getD
    | fail_if_no_progress (first | with_reducible refine Inv.lit hk ?_ | fail)
    | split
    | dsimp only
    | exact h

theorem Inv.raiseStep {P : State → Prop} (hk : Stables P 100737024) {t : State} (h : P t) (code unit loc : Nat) : P (State.raiseStep t code unit loc) := by
  unfold State.raiseStep
  have k0 : Stables P 33628160 := hk.sub rfl
  repeat' first
    | intro _
    | with_reducible exact h
    | with_reducible assumption
    | with_reducible apply Inv.raise k0
    | with_reducible apply Inv.ite
    | with_reducible apply Inv.getD
    | fail_if_no_progress (first | with_reducible refine Inv.lit hk ?_ | fail)
    | split
    | dsimp only
    | exact h

theorem Inv.holdWrite {P : State → Prop} (hk : Stables P 2305843009314430976) {t : State} (h : P t) (e : Nat) (w : HeldWrite) : P (State.holdWrite t e w) := by
  unfold State.holdWrite
  have k0 : Stables P 100737024 := hk.sub rfl
  have k1 : Stables P 2305843009213693952 := hk.sub rfl
  repeat' first
    | intro _
    | with_reducible exact h
    | with_reducible assumption
    | with_reducible apply Inv.raiseStep k0
    | with_reducible apply Inv.modEp k1
    | with_reducible apply Inv.ite
    | with_reducible apply Inv.getD
    | fail_if_no_progress (first | with_reducible refine Inv.lit hk ?_ | fail)
    | split
    | dsimp only
    | exact h

theorem Inv.answerHost {P : State → Prop} (hk : Stables P 288230376151711744) {t : State} (h : P t) (qp : Nat) : P (State.answerHost t qp) := by
  unfold State.answerHost
  have k0 : Stables P 288230376151711744 := hk.sub rfl
  repeat' first
    | intro _
    | with_reducible exact h
    | with_reducible assumption
    | with_reducible apply Inv.emit k0
    | with_reducible apply Inv.ite
    | with_reducible apply Inv.getD
    | fail_if_no_progress (first | with_reducible refine Inv.lit hk ?_ | fail)
    | split
    | dsimp only
    | exact h

theorem Inv.execHostRdmaWrite {P : State → Prop} (hk : Stables P 9594975160372965744640) {t : State} (h : P t) (qp : Nat) (addr : BitVec 64) (data : Bytes) (how : FrameIn) : Ends P (Sys2Proof.Machine.execHostRdmaWrite qp addr data how t) := by
  unfold Sys2Proof.Machine.execHostRdmaWrite
  have k0 : Stables P 100737024 := hk.sub rfl
  have k1 : Stables P 9592381086987533230080 := hk.sub rfl
  have k2 : Stables P 288230376151711744 := hk.sub rfl
  have k3 : Stables P 2305843009314430976 := hk.sub rfl
  repeat' first
    | with_reducible apply Ends.next
    | with_reducible apply Ends.ite
    | intro _
    | with_reducible exact h
    | with_reducible assumption
    | with_reducible apply Inv.raiseStep k0
    | with_reducible apply Inv.hostWrite k1
    | with_reducible apply Inv.answerHost k2
    | with_reducible apply Inv.holdWrite k3
    | with_reducible apply Inv.ite
    | with_reducible apply Inv.getD
    | fail_if_no_progress (first | with_reducible refine Inv.lit hk ?_ | fail)
    | split
    | dsimp only
    | exact h

theorem Inv.execHostRdmaRead {P : State → Prop} (hk : Stables P 443010369620258398208) {t : State} (h : P t) (qp : Nat) (addr : BitVec 64) (len : Nat) (tagOk : Bool) : Ends P (Sys2Proof.Machine.execHostRdmaRead qp addr len tagOk t) := by
  unfold Sys2Proof.Machine.execHostRdmaRead
  have k0 : Stables P 100737024 := hk.sub rfl
  have k1 : Stables P 288230376151711744 := hk.sub rfl
  have k2 : Stables P 442722139244039577600 := hk.sub rfl
  repeat' first
    | with_reducible apply Ends.next
    | with_reducible apply Ends.ite
    | intro _
    | with_reducible exact h
    | with_reducible assumption
    | with_reducible apply Inv.raiseStep k0
    | with_reducible apply Inv.answerHost k1
    | with_reducible apply Inv.hostRead k2
    | with_reducible apply Inv.ite
    | with_reducible apply Inv.getD
    | fail_if_no_progress (first | with_reducible refine Inv.lit hk ?_ | fail)
    | split
    | dsimp only
    | exact h

theorem Inv.execIngressWindow {P : State → Prop} (hk : Stables P 9594975160372898635776) {t : State} (h : P t) (port classes : Nat) : Ends P (Sys2Proof.Machine.execIngressWindow port classes t) := by
  unfold Sys2Proof.Machine.execIngressWindow
  have k0 : Stables P 2305843009213693952 := hk.sub rfl
  have k1 : Stables P 9592381086987533230080 := hk.sub rfl
  have k2 : Stables P 288230376151711744 := hk.sub rfl
  repeat' first
    | with_reducible apply Ends.next
    | with_reducible apply Ends.ite
    | intro _
    | with_reducible exact h
    | with_reducible assumption
    | with_reducible apply Inv.modEp k0
    | with_reducible apply Inv.hostWrite k1
    | with_reducible apply Inv.answerHost k2
    | with_reducible apply Inv.ite
    | with_reducible apply Inv.getD
    | with_reducible apply Inv.foldl
    | fail_if_no_progress (first | with_reducible refine Inv.lit hk ?_ | fail)
    | split
    | dsimp only
    | exact h

end Sys2Proof.Machine
end

