-- ==== Sys2Proof/Laws/KeepsTraffic.lean ====
section
/-! SUPPORT. What the operations of Machine/Traffic.lean leave as it is: one lemma for each. -/

set_option linter.unusedTactic false
set_option linter.unreachableTactic false
set_option linter.unusedVariables false

namespace Sys2Proof.Machine
set_option Elab.async false

theorem Inv.modTp {P : State → Prop} (hk : Stables P 4611686018427387904) {t : State} (h : P t) (p : Nat) (f : TPort → TPort) : P (State.modTp t p f) := by
  unfold State.modTp
  repeat' first
    | intro _
    | with_reducible exact h
    | with_reducible assumption
    | with_reducible apply Inv.ite
    | with_reducible apply Inv.getD
    | fail_if_no_progress (first | with_reducible refine Inv.lit hk ?_ | fail)
    | split
    | dsimp only
    | exact h

theorem Inv.modQp {P : State → Prop} (hk : Stables P 576460752303423488) {t : State} (h : P t) (q : Nat) (f : QPair → QPair) : P (State.modQp t q f) := by
  unfold State.modQp
  repeat' first
    | intro _
    | with_reducible exact h
    | with_reducible assumption
    | with_reducible apply Inv.ite
    | with_reducible apply Inv.getD
    | fail_if_no_progress (first | with_reducible refine Inv.lit hk ?_ | fail)
    | split
    | dsimp only
    | exact h

theorem Inv.net {P : State → Prop} (hk : Stables P 288230376151711744) {t : State} (h : P t) (e cls kind : Nat) (b : Bytes) : P (State.net t e cls kind b) := by
  unfold State.net
  have k0 : Stables P 288230376151711744 := hk.sub rfl
  repeat' first
    | intro _
    | with_reducible exact h
    | with_reducible assumption
    | with_reducible apply Inv.emit k0
    | with_reducible apply Inv.ite
    | with_reducible apply Inv.getD
    | fail_if_no_progress (first | with_reducible refine Inv.lit hk ?_ | fail)
    | split
    | dsimp only
    | exact h

theorem Inv.execEthLinkDown {P : State → Prop} (hk : Stables P 2305843009247322112) {t : State} (h : P t) (port : Nat) : Ends P (Sys2Proof.Machine.execEthLinkDown port t) := by
  unfold Sys2Proof.Machine.execEthLinkDown
  have k0 : Stables P 65536 := hk.sub rfl
  have k1 : Stables P 2305843009213693952 := hk.sub rfl
  have k2 : Stables P 33628160 := hk.sub rfl
  repeat' first
    | with_reducible apply Ends.next
    | with_reducible apply Ends.ite
    | intro _
    | with_reducible exact h
    | with_reducible assumption
    | with_reducible apply Inv.setN k0
    | with_reducible apply Inv.modEp k1
    | with_reducible apply Inv.raise k2
    | with_reducible apply Inv.ite
    | with_reducible apply Inv.getD
    | fail_if_no_progress (first | with_reducible refine Inv.lit hk ?_ | fail)
    | split
    | dsimp only
    | exact h

theorem Inv.execEthLinkUp {P : State → Prop} (hk : Stables P 2305843009247322112) {t : State} (h : P t) (x : EthUp) : Ends P (Sys2Proof.Machine.execEthLinkUp x t) := by
  unfold Sys2Proof.Machine.execEthLinkUp
  have k0 : Stables P 65536 := hk.sub rfl
  have k1 : Stables P 2305843009213693952 := hk.sub rfl
  have k2 : Stables P 33628160 := hk.sub rfl
  repeat' first
    | with_reducible apply Ends.next
    | with_reducible apply Ends.ite
    | intro _
    | with_reducible exact h
    | with_reducible assumption
    | with_reducible apply Inv.setN k0
    | with_reducible apply Inv.modEp k1
    | with_reducible apply Inv.raise k2
    | with_reducible apply Inv.ite
    | with_reducible apply Inv.getD
    | fail_if_no_progress (first | with_reducible refine Inv.lit hk ?_ | fail)
    | split
    | dsimp only
    | exact h

theorem Inv.announce {P : State → Prop} (hk : Stables P 288230376151711744) {t : State} (h : P t) (from_ e : Nat) : P (State.announce t from_ e) := by
  unfold State.announce
  have k0 : Stables P 288230376151711744 := hk.sub rfl
  repeat' first
    | intro _
    | with_reducible exact h
    | with_reducible assumption
    | with_reducible apply Inv.net k0
    | with_reducible apply Inv.ite
    | with_reducible apply Inv.getD
    | with_reducible apply Inv.foldl
    | fail_if_no_progress (first | with_reducible refine Inv.lit hk ?_ | fail)
    | split
    | dsimp only
    | exact h

theorem Inv.execEthFailover {P : State → Prop} (hk : Stables P 3170534137702457344) {t : State} (h : P t) (port : Nat) : Ends P (Sys2Proof.Machine.execEthFailover port t) := by
  unfold Sys2Proof.Machine.execEthFailover
  have k0 : Stables P 65536 := hk.sub rfl
  have k1 : Stables P 2305843009213693952 := hk.sub rfl
  have k2 : Stables P 288230376151711744 := hk.sub rfl
  have k3 : Stables P 65536 := hk.sub rfl
  have k4 : Stables P 33628160 := hk.sub rfl
  repeat' first
    | with_reducible apply Ends.next
    | with_reducible apply Ends.ite
    | intro _
    | with_reducible exact h
    | with_reducible assumption
    | with_reducible apply Inv.setN k0
    | with_reducible apply Inv.modEp k1
    | with_reducible apply Inv.announce k2
    | with_reducible apply Inv.useGrant k3
    | with_reducible apply Inv.raise k4
    | with_reducible apply Inv.ite
    | with_reducible apply Inv.getD
    | fail_if_no_progress (first | with_reducible refine Inv.lit hk ?_ | fail)
    | split
    | dsimp only
    | exact h

theorem Inv.countDrop {P : State → Prop} (hk : Stables P 2305843009213693952) {t : State} (h : P t) (port : Nat) : P (State.countDrop t port) := by
  unfold State.countDrop
  have k0 : Stables P 2305843009213693952 := hk.sub rfl
  repeat' first
    | intro _
    | with_reducible exact h
    | with_reducible assumption
    | with_reducible apply Inv.modEp k0
    | with_reducible apply Inv.ite
    | with_reducible apply Inv.getD
    | fail_if_no_progress (first | with_reducible refine Inv.lit hk ?_ | fail)
    | split
    | dsimp only
    | exact h

theorem Inv.execArpNdEcho {P : State → Prop} (hk : Stables P 2594073385365405696) {t : State} (h : P t) (port : Nat) (kind : EchoKind) (x : NetFrame) : Ends P (Sys2Proof.Machine.execArpNdEcho port kind x t) := by
  unfold Sys2Proof.Machine.execArpNdEcho
  have k0 : Stables P 2305843009213693952 := hk.sub rfl
  have k1 : Stables P 288230376151711744 := hk.sub rfl
  repeat' first
    | with_reducible apply Ends.next
    | with_reducible apply Ends.ite
    | intro _
    | with_reducible exact h
    | with_reducible assumption
    | with_reducible apply Inv.countDrop k0
    | with_reducible apply Inv.net k1
    | with_reducible apply Inv.ite
    | with_reducible apply Inv.getD
    | fail_if_no_progress (first | with_reducible refine Inv.lit hk ?_ | fail)
    | split
    | dsimp only
    | exact h

theorem Inv.dropQp {P : State → Prop} (hk : Stables P 864691128455135232) {t : State} (h : P t) (qp : Nat) : P (State.dropQp t qp) := by
  unfold State.dropQp
  repeat' first
    | intro _
    | with_reducible exact h
    | with_reducible assumption
    | with_reducible apply Inv.ite
    | with_reducible apply Inv.getD
    | fail_if_no_progress (first | with_reducible refine Inv.lit hk ?_ | fail)
    | split
    | dsimp only
    | exact h

theorem Inv.execCmMessage {P : State → Prop} (hk : Stables P 296012596307807961088) {t : State} (h : P t) (port : Nat) (msg : CmMsg) : Ends P (Sys2Proof.Machine.execCmMessage port msg t) := by
  unfold Sys2Proof.Machine.execCmMessage
  have k0 : Stables P 288230376151711744 := hk.sub rfl
  have k1 : Stables P 576460752303423488 := hk.sub rfl
  have k2 : Stables P 864691128455135232 := hk.sub rfl
  repeat' first
    | with_reducible apply Ends.next
    | with_reducible apply Ends.ite
    | intro _
    | with_reducible exact h
    | with_reducible assumption
    | with_reducible apply Inv.net k0
    | with_reducible apply Inv.modQp k1
    | with_reducible apply Inv.dropQp k2
    | with_reducible apply Inv.ite
    | with_reducible apply Inv.mapD
    | with_reducible apply Inv.getD
    | fail_if_no_progress (first | with_reducible refine Inv.lit hk ?_ | fail)
    | split
    | dsimp only
    | exact h

theorem Inv.execRoceRefusedOpcode {P : State → Prop} (hk : Stables P 288230376185339904) {t : State} (h : P t) (qp : Nat) : Ends P (Sys2Proof.Machine.execRoceRefusedOpcode qp t) := by
  unfold Sys2Proof.Machine.execRoceRefusedOpcode
  have k0 : Stables P 288230376151711744 := hk.sub rfl
  have k1 : Stables P 33628160 := hk.sub rfl
  repeat' first
    | with_reducible apply Ends.next
    | with_reducible apply Ends.ite
    | intro _
    | with_reducible exact h
    | with_reducible assumption
    | with_reducible apply Inv.net k0
    | with_reducible apply Inv.raise k1
    | with_reducible apply Inv.ite
    | with_reducible apply Inv.getD
    | fail_if_no_progress (first | with_reducible refine Inv.lit hk ?_ | fail)
    | split
    | dsimp only
    | exact h

theorem Inv.execCnpReceive {P : State → Prop} (hk : Stables P 576460752303423488) {t : State} (h : P t) (qp : Nat) : Ends P (Sys2Proof.Machine.execCnpReceive qp t) := by
  unfold Sys2Proof.Machine.execCnpReceive
  have k0 : Stables P 576460752303423488 := hk.sub rfl
  repeat' first
    | with_reducible apply Ends.next
    | with_reducible apply Ends.ite
    | intro _
    | with_reducible exact h
    | with_reducible assumption
    | with_reducible apply Inv.modQp k0
    | with_reducible apply Inv.ite
    | with_reducible apply Inv.getD
    | fail_if_no_progress (first | with_reducible refine Inv.lit hk ?_ | fail)
    | split
    | dsimp only
    | exact h

theorem Inv.execCeMarkedPacket {P : State → Prop} (hk : Stables P 864691128455135232) {t : State} (h : P t) (qp nowNs : Nat) : Ends P (Sys2Proof.Machine.execCeMarkedPacket qp nowNs t) := by
  unfold Sys2Proof.Machine.execCeMarkedPacket
  have k0 : Stables P 576460752303423488 := hk.sub rfl
  have k1 : Stables P 288230376151711744 := hk.sub rfl
  repeat' first
    | with_reducible apply Ends.next
    | with_reducible apply Ends.ite
    | intro _
    | with_reducible exact h
    | with_reducible assumption
    | with_reducible apply Inv.modQp k0
    | with_reducible apply Inv.net k1
    | with_reducible apply Inv.ite
    | with_reducible apply Inv.getD
    | fail_if_no_progress (first | with_reducible refine Inv.lit hk ?_ | fail)
    | split
    | dsimp only
    | exact h

theorem Inv.execPfcPause {P : State → Prop} (hk : Stables P 2305843009213693952) {t : State} (h : P t) (port prio : Nat) (pause : Bool) : Ends P (Sys2Proof.Machine.execPfcPause port prio pause t) := by
  unfold Sys2Proof.Machine.execPfcPause
  have k0 : Stables P 2305843009213693952 := hk.sub rfl
  repeat' first
    | with_reducible apply Ends.next
    | with_reducible apply Ends.ite
    | intro _
    | with_reducible exact h
    | with_reducible assumption
    | with_reducible apply Inv.modEp k0
    | with_reducible apply Inv.ite
    | with_reducible apply Inv.getD
    | fail_if_no_progress (first | with_reducible refine Inv.lit hk ?_ | fail)
    | split
    | dsimp only
    | exact h

theorem Inv.retryQp {P : State → Prop} (hk : Stables P 3170534137702457344) {t : State} (h : P t) (qp : Nat) (q : QPair) : P (State.retryQp t qp q) := by
  unfold State.retryQp
  have k0 : Stables P 576460752303423488 := hk.sub rfl
  have k1 : Stables P 2305843009213693952 := hk.sub rfl
  have k2 : Stables P 33628160 := hk.sub rfl
  repeat' first
    | intro _
    | with_reducible exact h
    | with_reducible assumption
    | with_reducible apply Inv.modQp k0
    | with_reducible apply Inv.modEp k1
    | with_reducible apply Inv.raise k2
    | with_reducible apply Inv.ite
    | with_reducible apply Inv.getD
    | fail_if_no_progress (first | with_reducible refine Inv.lit hk ?_ | fail)
    | split
    | dsimp only
    | exact h

theorem Inv.execRoceAckTimeout {P : State → Prop} (hk : Stables P 3170534137702457344) {t : State} (h : P t) (qp : Nat) : Ends P (Sys2Proof.Machine.execRoceAckTimeout qp t) := by
  unfold Sys2Proof.Machine.execRoceAckTimeout
  have k0 : Stables P 3170534137702457344 := hk.sub rfl
  repeat' first
    | with_reducible apply Ends.next
    | with_reducible apply Ends.ite
    | intro _
    | with_reducible exact h
    | with_reducible assumption
    | with_reducible apply Inv.retryQp k0
    | with_reducible apply Inv.ite
    | with_reducible apply Inv.getD
    | fail_if_no_progress (first | with_reducible refine Inv.lit hk ?_ | fail)
    | split
    | dsimp only
    | exact h

theorem Inv.execRoceAckReceived {P : State → Prop} (hk : Stables P 3170534137702457344) {t : State} (h : P t) (qp psn : Nat) (nak : Bool) : Ends P (Sys2Proof.Machine.execRoceAckReceived qp psn nak t) := by
  unfold Sys2Proof.Machine.execRoceAckReceived
  have k0 : Stables P 3170534137702457344 := hk.sub rfl
  have k1 : Stables P 576460752303423488 := hk.sub rfl
  repeat' first
    | with_reducible apply Ends.next
    | with_reducible apply Ends.ite
    | intro _
    | with_reducible exact h
    | with_reducible assumption
    | with_reducible apply Inv.retryQp k0
    | with_reducible apply Inv.modQp k1
    | with_reducible apply Inv.ite
    | with_reducible apply Inv.getD
    | fail_if_no_progress (first | with_reducible refine Inv.lit hk ?_ | fail)
    | split
    | dsimp only
    | exact h

theorem Inv.execShaperRefill {P : State → Prop} (hk : Stables P 5188146770730811392) {t : State} (h : P t) (port : Nat) : Ends P (Sys2Proof.Machine.execShaperRefill port t) := by
  unfold Sys2Proof.Machine.execShaperRefill
  have k0 : Stables P 4611686018427387904 := hk.sub rfl
  repeat' first
    | with_reducible apply Ends.next
    | with_reducible apply Ends.ite
    | intro _
    | with_reducible exact h
    | with_reducible assumption
    | with_reducible apply Inv.modTp k0
    | with_reducible apply Inv.ite
    | with_reducible apply Inv.mapD
    | with_reducible apply Inv.getD
    | fail_if_no_progress (first | with_reducible refine Inv.lit hk ?_ | fail)
    | split
    | dsimp only
    | exact h

theorem Inv.sendFrame {P : State → Prop} (hk : Stables P 6629298651489370112) {t : State} (h : P t) (p c k : Nat) (x : TxItem) : P (State.sendFrame t p c k x) := by
  unfold State.sendFrame
  have k0 : Stables P 1152921504606846976 := hk.sub rfl
  have k1 : Stables P 576460752303423488 := hk.sub rfl
  have k2 : Stables P 288230376151711744 := hk.sub rfl
  have k3 : Stables P 4611686018427387904 := hk.sub rfl
  repeat' first
    | intro _
    | with_reducible exact h
    | with_reducible assumption
    | with_reducible apply Inv.modHp k0
    | with_reducible apply Inv.modQp k1
    | with_reducible apply Inv.net k2
    | with_reducible apply Inv.modTp k3
    | with_reducible apply Inv.ite
    | with_reducible apply Inv.mapD
    | with_reducible apply Inv.getD
    | fail_if_no_progress (first | with_reducible refine Inv.lit hk ?_ | fail)
    | split
    | dsimp only
    | exact h

theorem Inv.drainWindow {P : State → Prop} (hk : Stables P 6629298651489370112) {t : State} (h : P t) (p : Nat) (open_ : Nat) (ps : List Nat) (r_ : Nat) : P (State.drainWindow t p open_ ps r_) := by
  have k0 : Stables P 4611686018427387904 := hk.sub rfl
  have k1 : Stables P 6629298651489370112 := hk.sub rfl
  induction r_ generalizing t p open_ ps with
  | zero => simpa only [State.drainWindow] using h
  | succ n_ ih =>
    unfold State.drainWindow
    repeat' first
    | intro _
    | with_reducible exact h
    | with_reducible assumption
    | with_reducible apply ih
    | with_reducible apply Inv.modTp k0
    | with_reducible apply Inv.sendFrame k1
    | with_reducible apply Inv.ite
    | split
    | fail_if_no_progress (first | with_reducible refine Inv.lit hk ?_ | fail)
    | dsimp only

theorem Inv.sampleDepth {P : State → Prop} (hk : Stables P 4611686018427387904) {t : State} (h : P t) (p : Nat) : P (State.sampleDepth t p) := by
  unfold State.sampleDepth
  have k0 : Stables P 4611686018427387904 := hk.sub rfl
  repeat' first
    | intro _
    | with_reducible exact h
    | with_reducible assumption
    | with_reducible apply Inv.modTp k0
    | with_reducible apply Inv.ite
    | with_reducible apply Inv.getD
    | fail_if_no_progress (first | with_reducible refine Inv.lit hk ?_ | fail)
    | split
    | dsimp only
    | exact h

theorem Inv.sendIdle {P : State → Prop} (hk : Stables P 1152921504606846976) {t : State} (h : P t) (p : Nat) : P (State.sendIdle t p) := by
  unfold State.sendIdle
  have k0 : Stables P 1152921504606846976 := hk.sub rfl
  repeat' first
    | intro _
    | with_reducible exact h
    | with_reducible assumption
    | with_reducible apply Inv.modHp k0
    | with_reducible apply Inv.ite
    | with_reducible apply Inv.getD
    | fail_if_no_progress (first | with_reducible refine Inv.lit hk ?_ | fail)
    | split
    | dsimp only
    | exact h

theorem Inv.execEgressWindow {P : State → Prop} (hk : Stables P 6629298651489370112) {t : State} (h : P t) (port openNs classes : Nat) : Ends P (Sys2Proof.Machine.execEgressWindow port openNs classes t) := by
  unfold Sys2Proof.Machine.execEgressWindow
  have k0 : Stables P 4611686018427387904 := hk.sub rfl
  have k1 : Stables P 6629298651489370112 := hk.sub rfl
  have k2 : Stables P 1152921504606846976 := hk.sub rfl
  repeat' first
    | with_reducible apply Ends.next
    | with_reducible apply Ends.ite
    | intro _
    | with_reducible exact h
    | with_reducible assumption
    | with_reducible apply Inv.sampleDepth k0
    | with_reducible apply Inv.drainWindow k1
    | with_reducible apply Inv.sendIdle k2
    | with_reducible apply Inv.ite
    | with_reducible apply Inv.getD
    | fail_if_no_progress (first | with_reducible refine Inv.lit hk ?_ | fail)
    | split
    | dsimp only
    | exact h

theorem Inv.doGateTakeover {P : State → Prop} (hk : Stables P 33628160) {t : State} (h : P t) (p : Nat) : P (State.doGateTakeover t p) := by
  unfold State.doGateTakeover
  have k0 : Stables P 65536 := hk.sub rfl
  have k1 : Stables P 33628160 := hk.sub rfl
  repeat' first
    | intro _
    | with_reducible exact h
    | with_reducible assumption
    | with_reducible apply Inv.setN k0
    | with_reducible apply Inv.raise k1
    | with_reducible apply Inv.ite
    | with_reducible apply Inv.getD
    | fail_if_no_progress (first | with_reducible refine Inv.lit hk ?_ | fail)
    | split
    | dsimp only
    | exact h

theorem Inv.latchQueues {P : State → Prop} (hk : Stables P 4611686018528124928) {t : State} (h : P t) (delays : List (Nat × Nat)) (bad : List Nat) : P (State.latchQueues t delays bad) := by
  unfold State.latchQueues
  have k0 : Stables P 4611686018427387904 := hk.sub rfl
  have k1 : Stables P 65536 := hk.sub rfl
  have k2 : Stables P 4611686018427387904 := hk.sub rfl
  have k3 : Stables P 100737024 := hk.sub rfl
  repeat' first
    | intro _
    | with_reducible exact h
    | with_reducible assumption
    | with_reducible apply Inv.sampleDepth k0
    | with_reducible apply Inv.setLive k1
    | with_reducible apply Inv.modTp k2
    | with_reducible apply Inv.raiseRun k3
    | with_reducible apply Inv.ite
    | with_reducible apply Inv.getD
    | with_reducible apply Inv.foldl
    | fail_if_no_progress (first | with_reducible refine Inv.lit hk ?_ | fail)
    | split
    | dsimp only
    | exact h

end Sys2Proof.Machine
end

