-- ==== Sys2Proof/Laws/KeepsSupervisors.lean ====
section
/-! SUPPORT. What the operations of Machine/Supervisors.lean leave as it is: one lemma for each. -/

set_option linter.unusedTactic false
set_option linter.unreachableTactic false
set_option linter.unusedVariables false

namespace Sys2Proof.Machine
set_option Elab.async false

theorem Inv.gateOut {P : State → Prop} (hk : Stables P 1185069330554685563904) {t : State} (h : P t) (g : Nat) : P (State.gateOut t g) := by
  unfold State.gateOut
  have k0 : Stables P 65536 := hk.sub rfl
  have k1 : Stables P 1441152980270252032 := hk.sub rfl
  have k2 : Stables P 2305843009213693952 := hk.sub rfl
  have k3 : Stables P 1130297986981888 := hk.sub rfl
  have k4 : Stables P 1183338816900310310912 := hk.sub rfl
  repeat' first
    | intro _
    | with_reducible exact h
    | with_reducible assumption
    | with_reducible apply Inv.setN k0
    | with_reducible apply Inv.portOut k1
    | with_reducible apply Inv.modEp k2
    | with_reducible apply Inv.channelOut k3
    | with_reducible apply Inv.loseAll k4
    | with_reducible apply Inv.ite
    | with_reducible apply Inv.getD
    | with_reducible apply Inv.foldl
    | fail_if_no_progress (first | with_reducible refine Inv.lit hk ?_ | fail)
    | split
    | dsimp only
    | exact h

theorem Inv.barOut {P : State → Prop} (hk : Stables P 33629184) {t : State} (h : P t) (b : Nat) : P (State.barOut t b) := by
  unfold State.barOut
  have k0 : Stables P 65536 := hk.sub rfl
  have k1 : Stables P 33628160 := hk.sub rfl
  repeat' first
    | intro _
    | with_reducible exact h
    | with_reducible assumption
    | with_reducible apply Inv.setN k0
    | with_reducible apply Inv.evBy k1
    | with_reducible apply Inv.ite
    | with_reducible apply Inv.getD
    | fail_if_no_progress (first | with_reducible refine Inv.lit hk ?_ | fail)
    | split
    | dsimp only
    | exact h

theorem Inv.gateLoss {P : State → Prop} (hk : Stables P 1185069330554685565956) {t : State} (h : P t) (g : Nat) : P (State.gateLoss t g) := by
  unfold State.gateLoss
  have k0 : Stables P 33628160 := hk.sub rfl
  have k1 : Stables P 1185069330554685563904 := hk.sub rfl
  have k2 : Stables P 33629184 := hk.sub rfl
  repeat' first
    | intro _
    | with_reducible exact h
    | with_reducible assumption
    | with_reducible apply Inv.evBy k0
    | with_reducible apply Inv.gateOut k1
    | with_reducible apply Inv.barOut k2
    | with_reducible apply Inv.ite
    | with_reducible apply Inv.getD
    | fail_if_no_progress (first | with_reducible refine Inv.lit hk ?_ | fail)
    | split
    | dsimp only
    | exact h

theorem Inv.execBarLoss {P : State → Prop} (hk : Stables P 33629184) {t : State} (h : P t) (b : Nat) : Ends P (Sys2Proof.Machine.execBarLoss b t) := by
  unfold Sys2Proof.Machine.execBarLoss
  have k0 : Stables P 33629184 := hk.sub rfl
  repeat' first
    | with_reducible apply Ends.next
    | with_reducible apply Ends.ite
    | intro _
    | with_reducible exact h
    | with_reducible assumption
    | with_reducible apply Inv.barOut k0
    | with_reducible apply Inv.ite
    | with_reducible apply Inv.getD
    | fail_if_no_progress (first | with_reducible refine Inv.lit hk ?_ | fail)
    | split
    | dsimp only
    | exact h

theorem Inv.execStringLoss {P : State → Prop} (hk : Stables P 33629184) {t : State} (h : P t) (gate : Bool) (n : Nat) : Ends P (Sys2Proof.Machine.execStringLoss gate n t) := by
  unfold Sys2Proof.Machine.execStringLoss
  have k0 : Stables P 33628160 := hk.sub rfl
  repeat' first
    | with_reducible apply Ends.next
    | with_reducible apply Ends.ite
    | intro _
    | with_reducible exact h
    | with_reducible assumption
    | with_reducible apply Inv.raise k0
    | with_reducible apply Inv.ite
    | with_reducible apply Inv.getD
    | fail_if_no_progress (first | with_reducible refine Inv.lit hk ?_ | fail)
    | split
    | dsimp only
    | exact h

theorem Inv.execAgentRestart {P : State → Prop} (hk : Stables P 33629184) {t : State} (h : P t) (isBar gate : Bool) (n : Nat) : Ends P (Sys2Proof.Machine.execAgentRestart isBar gate n t) := by
  unfold Sys2Proof.Machine.execAgentRestart
  have k0 : Stables P 65536 := hk.sub rfl
  have k1 : Stables P 65536 := hk.sub rfl
  have k2 : Stables P 33628160 := hk.sub rfl
  repeat' first
    | with_reducible apply Ends.next
    | with_reducible apply Ends.ite
    | intro _
    | with_reducible exact h
    | with_reducible assumption
    | with_reducible apply Inv.setN k0
    | with_reducible apply Inv.useGrant k1
    | with_reducible apply Inv.raise k2
    | with_reducible apply Inv.ite
    | with_reducible apply Inv.getD
    | fail_if_no_progress (first | with_reducible refine Inv.lit hk ?_ | fail)
    | split
    | dsimp only
    | exact h

theorem Inv.startAlternate {P : State → Prop} (hk : Stables P 67584) {t : State} (h : P t) : P (State.startAlternate t) := by
  unfold State.startAlternate
  have k0 : Stables P 65536 := hk.sub rfl
  repeat' first
    | intro _
    | with_reducible exact h
    | with_reducible assumption
    | with_reducible apply Inv.useGrant k0
    | with_reducible apply Inv.ite
    | with_reducible apply Inv.getD
    | fail_if_no_progress (first | with_reducible refine Inv.lit hk ?_ | fail)
    | split
    | dsimp only
    | exact h

theorem Inv.execHandWatchdogExpiry {P : State → Prop} (hk : Stables P 33630208) {t : State} (h : P t) : Ends P (Sys2Proof.Machine.execHandWatchdogExpiry t) := by
  unfold Sys2Proof.Machine.execHandWatchdogExpiry
  have k0 : Stables P 33628160 := hk.sub rfl
  have k1 : Stables P 67584 := hk.sub rfl
  repeat' first
    | with_reducible apply Ends.next
    | with_reducible apply Ends.ite
    | intro _
    | with_reducible exact h
    | with_reducible assumption
    | with_reducible apply Inv.raise k0
    | with_reducible apply Inv.startAlternate k1
    | with_reducible apply Inv.ite
    | with_reducible apply Inv.getD
    | fail_if_no_progress (first | with_reducible refine Inv.lit hk ?_ | fail)
    | split
    | dsimp only
    | exact h

theorem Inv.loseInFlight {P : State → Prop} (hk : Stables P 1183338816900276748288) {t : State} (h : P t) : P (State.loseInFlight t) := by
  unfold State.loseInFlight
  have k0 : Stables P 1183338816900276748288 := hk.sub rfl
  have k1 : Stables P 1183194701372898476032 := hk.sub rfl
  repeat' first
    | intro _
    | with_reducible exact h
    | with_reducible assumption
    | with_reducible apply Inv.completeEmpty k0
    | with_reducible apply Inv.loseReplays k1
    | with_reducible apply Inv.ite
    | with_reducible apply Inv.getD
    | with_reducible apply Inv.foldl
    | fail_if_no_progress (first | with_reducible refine Inv.lit hk ?_ | fail)
    | split
    | dsimp only
    | exact h

theorem Inv.g0Loss {P : State → Prop} (hk : Stables P 1185069330554685565964) {t : State} (h : P t) : P (State.g0Loss t) := by
  unfold State.g0Loss
  have k0 : Stables P 33628160 := hk.sub rfl
  have k1 : Stables P 67584 := hk.sub rfl
  have k2 : Stables P 1183338816900276748288 := hk.sub rfl
  have k3 : Stables P 1185069330554685565956 := hk.sub rfl
  repeat' first
    | intro _
    | with_reducible exact h
    | with_reducible assumption
    | with_reducible apply Inv.evBy k0
    | with_reducible apply Inv.startAlternate k1
    | with_reducible apply Inv.loseInFlight k2
    | with_reducible apply Inv.gateLoss k3
    | with_reducible apply Inv.ite
    | with_reducible apply Inv.getD
    | fail_if_no_progress (first | with_reducible refine Inv.lit hk ?_ | fail)
    | split
    | dsimp only
    | exact h

theorem Inv.execG0Loss {P : State → Prop} (hk : Stables P 1185069330554685565964) {t : State} (h : P t) : Ends P (Sys2Proof.Machine.execG0Loss t) := by
  unfold Sys2Proof.Machine.execG0Loss
  have k0 : Stables P 1185069330554685565964 := hk.sub rfl
  repeat' first
    | with_reducible apply Ends.next
    | with_reducible apply Ends.ite
    | intro _
    | with_reducible exact h
    | with_reducible assumption
    | with_reducible apply Inv.g0Loss k0
    | with_reducible apply Inv.ite
    | with_reducible apply Inv.getD
    | fail_if_no_progress (first | with_reducible refine Inv.lit hk ?_ | fail)
    | split
    | dsimp only
    | exact h

theorem Inv.execGateDieLoss {P : State → Prop} (hk : Stables P 1185069330554685565964) {t : State} (h : P t) (g : Nat) : Ends P (Sys2Proof.Machine.execGateDieLoss g t) := by
  unfold Sys2Proof.Machine.execGateDieLoss
  have k0 : Stables P 1185069330554685565964 := hk.sub rfl
  have k1 : Stables P 1185069330554685565956 := hk.sub rfl
  repeat' first
    | with_reducible apply Ends.next
    | with_reducible apply Ends.ite
    | intro _
    | with_reducible exact h
    | with_reducible assumption
    | with_reducible apply Inv.g0Loss k0
    | with_reducible apply Inv.gateLoss k1
    | with_reducible apply Inv.ite
    | with_reducible apply Inv.getD
    | fail_if_no_progress (first | with_reducible refine Inv.lit hk ?_ | fail)
    | split
    | dsimp only
    | exact h

theorem Inv.newKemKey {P : State → Prop} (hk : Stables P 9223372036854841344) {t : State} (h : P t) : P (State.newKemKey t) := by
  unfold State.newKemKey
  have k0 : Stables P 65536 := hk.sub rfl
  repeat' first
    | intro _
    | with_reducible exact h
    | with_reducible assumption
    | with_reducible apply Inv.setLive k0
    | with_reducible apply Inv.ite
    | with_reducible apply Inv.getD
    | fail_if_no_progress (first | with_reducible refine Inv.lit hk ?_ | fail)
    | split
    | dsimp only
    | exact h

theorem Inv.blowFuse {P : State → Prop} (hk : Stables P 9223372036888403968) {t : State} (h : P t) : P (State.blowFuse t) := by
  unfold State.blowFuse
  have k0 : Stables P 65536 := hk.sub rfl
  have k1 : Stables P 33628160 := hk.sub rfl
  repeat' first
    | intro _
    | with_reducible exact h
    | with_reducible assumption
    | with_reducible apply Inv.setN k0
    | with_reducible apply Inv.raise k1
    | with_reducible apply Inv.ite
    | with_reducible apply Inv.getD
    | fail_if_no_progress (first | with_reducible refine Inv.lit hk ?_ | fail)
    | split
    | dsimp only
    | exact h

theorem Inv.resumeLeaf {P : State → Prop} (hk : Stables P 9223372036888403968) {t : State} (h : P t) (copyOk : Bool) : P (State.resumeLeaf t copyOk) := by
  unfold State.resumeLeaf
  have k0 : Stables P 65536 := hk.sub rfl
  have k1 : Stables P 9223372036888403968 := hk.sub rfl
  repeat' first
    | intro _
    | with_reducible exact h
    | with_reducible assumption
    | with_reducible apply Inv.setN k0
    | with_reducible apply Inv.blowFuse k1
    | with_reducible apply Inv.ite
    | with_reducible apply Inv.getD
    | fail_if_no_progress (first | with_reducible refine Inv.lit hk ?_ | fail)
    | split
    | dsimp only
    | exact h

theorem Inv.execAlternateHandTakeover {P : State → Prop} (hk : Stables P 9223372036895746048) {t : State} (h : P t) (x : AltBoot) : Ends P (Sys2Proof.Machine.execAlternateHandTakeover x t) := by
  unfold Sys2Proof.Machine.execAlternateHandTakeover
  have k0 : Stables P 33628160 := hk.sub rfl
  have k1 : Stables P 65536 := hk.sub rfl
  have k2 : Stables P 9223372036888403968 := hk.sub rfl
  have k3 : Stables P 9223372036854841344 := hk.sub rfl
  repeat' first
    | with_reducible apply Ends.next
    | with_reducible apply Ends.ite
    | intro _
    | with_reducible exact h
    | with_reducible assumption
    | with_reducible apply Inv.raise k0
    | with_reducible apply Inv.setN k1
    | with_reducible apply Inv.resumeLeaf k2
    | with_reducible apply Inv.newKemKey k3
    | with_reducible apply Inv.ite
    | with_reducible apply Inv.getD
    | fail_if_no_progress (first | with_reducible refine Inv.lit hk ?_ | fail)
    | split
    | dsimp only
    | exact h

theorem Inv.plotSegsOut {P : State → Prop} (hk : Stables P 1125899940470784) {t : State} (h : P t) (p : Nat) : P (State.plotSegsOut t p) := by
  unfold State.plotSegsOut
  have k0 : Stables P 1125899940470784 := hk.sub rfl
  repeat' first
    | intro _
    | with_reducible exact h
    | with_reducible assumption
    | with_reducible apply Inv.segOut k0
    | with_reducible apply Inv.ite
    | with_reducible apply Inv.getD
    | with_reducible apply Inv.foldl
    | fail_if_no_progress (first | with_reducible refine Inv.lit hk ?_ | fail)
    | split
    | dsimp only
    | exact h

theorem Inv.doPlotLimit {P : State → Prop} (hk : Stables P 154248697507558400) {t : State} (h : P t) (p : Nat) : P (State.doPlotLimit t p) := by
  unfold State.doPlotLimit
  have k0 : Stables P 100737024 := hk.sub rfl
  have k1 : Stables P 0 := hk.sub rfl
  have k2 : Stables P 153122797533606912 := hk.sub rfl
  have k3 : Stables P 65536 := hk.sub rfl
  have k4 : Stables P 1125899940470784 := hk.sub rfl
  have k5 : Stables P 65536 := hk.sub rfl
  have k6 : Stables P 33628160 := hk.sub rfl
  repeat' first
    | intro _
    | with_reducible exact h
    | with_reducible assumption
    | with_reducible apply Inv.raiseRun k0
    | with_reducible apply Inv.after k1
    | refine (Inv.execPoolLoss k2 ?_ ..).holds _ (by assumption)
    | with_reducible apply Inv.execPoolLoss k2
    | with_reducible apply Inv.setN k3
    | with_reducible apply Inv.plotSegsOut k4
    | with_reducible apply Inv.useGrant k5
    | with_reducible apply Inv.raise k6
    | with_reducible apply Inv.ite
    | with_reducible apply Inv.getD
    | fail_if_no_progress (first | with_reducible refine Inv.lit hk ?_ | fail)
    | split
    | dsimp only
    | exact h

theorem Inv.pruneFaults {P : State → Prop} (hk : Stables P 8192) {t : State} (h : P t) : P (State.pruneFaults t) := by
  unfold State.pruneFaults
  repeat' first
    | intro _
    | with_reducible exact h
    | with_reducible assumption
    | with_reducible apply Inv.ite
    | with_reducible apply Inv.getD
    | fail_if_no_progress (first | with_reducible refine Inv.lit hk ?_ | fail)
    | split
    | dsimp only
    | exact h

end Sys2Proof.Machine
end

