-- ==== Sys2Proof/Laws/KeepsSecurity.lean ====
section
/-! SUPPORT. What the operations of Machine/Security.lean leave as it is: one lemma for each. -/

set_option linter.unusedTactic false
set_option linter.unreachableTactic false
set_option linter.unusedVariables false

namespace Sys2Proof.Machine
set_option Elab.async false

theorem Inv.modPart {P : State → Prop} (hk : Stables P 18446744073709551616) {t : State} (h : P t) (p : Nat) (f : PartSt → PartSt) : P (State.modPart t p f) := by
  unfold State.modPart
  repeat' first
    | intro _
    | with_reducible exact h
    | with_reducible assumption
    | with_reducible apply Inv.ite
    | with_reducible apply Inv.getD
    | fail_if_no_progress (first | with_reducible refine Inv.lit hk ?_ | fail)
    | split
    | dsimp only
    | exact h

theorem Inv.doTenantDrain {P : State → Prop} (hk : Stables P 33628160) {t : State} (h : P t) (p : Nat) : P (State.doTenantDrain t p) := by
  unfold State.doTenantDrain
  have k0 : Stables P 65536 := hk.sub rfl
  have k1 : Stables P 33628160 := hk.sub rfl
  repeat' first
    | intro _
    | with_reducible exact h
    | with_reducible assumption
    | with_reducible apply Inv.setN k0
    | with_reducible apply Inv.raise k1
    | with_reducible apply Inv.ite
    | with_reducible apply Inv.getD
    | fail_if_no_progress (first | with_reducible refine Inv.lit hk ?_ | fail)
    | split
    | dsimp only
    | exact h

theorem Inv.clearRange {P : State → Prop} (hk : Stables P 9444732965739290427392) {t : State} (h : P t) (lo hi : Nat) : P (State.clearRange t lo hi) := by
  unfold State.clearRange
  repeat' first
    | intro _
    | with_reducible exact h
    | with_reducible assumption
    | with_reducible apply Inv.ite
    | with_reducible apply Inv.getD
    | exact Memory.wf_writeN (by assumption) _ _
    | exact Memory.wf_write (by assumption) _ _
    | exact Memory.wf_filter _ (by assumption)
    | with_reducible apply Memory.wf_foldl
    | fail_if_no_progress (first | with_reducible refine Inv.lit hk ?_ | fail)
    | split
    | dsimp only
    | exact h
    | (first | with_reducible refine Inv.lit hk ?_ (em := Or.inr ⟨3, by decide, MemFair.any ?_⟩) | fail)

theorem Inv.clearRing {P : State → Prop} (hk : Stables P 1180591620717411303424) {t : State} (h : P t) (r n : Nat) (kind : Nat) (hn : n ≤ 2 ^ 30) :
    P (State.clearRange t (ringAddr kind r 0) (ringAddr kind r 0 + n)) :=
  Inv.lit hk h (em := Or.inr ⟨0, by decide, MemFair.filter _ _ fun x hx => by
    have hx' : x.1 < 4 * 2 ^ 60 ∨ 5 * 2 ^ 60 ≤ x.1 := hx
    have h1 : 4 * 2 ^ 60 ≤ ringAddr kind r 0 ∧ ringAddr kind r 0 + n ≤ 5 * 2 ^ 60 := by
      unfold ringAddr; omega
    by_cases c : x.1 < ringAddr kind r 0
    · simp [c]
    · have : ringAddr kind r 0 + n ≤ x.1 := by omega
      simp [this]⟩)

theorem Inv.destroyRing {P : State → Prop} (hk : Stables P 1180591620719558852608) {t : State} (h : P t) (r : Nat) : P (State.destroyRing t r) := by
  have k0 : Stables P 65536 := hk.sub rfl
  unfold State.destroyRing
  split
  · exact h
  · rename_i q _
    extract_lets n s1 s2
    have g : P s1 := Inv.clearRing (hk.sub rfl) (Inv.clearRing (hk.sub rfl) h r n 0 (Nat.min_le_right _ _)) r n 1 (Nat.min_le_right _ _)
    clear_value s1
    exact Inv.setN k0 (Inv.lit hk g) _ _ _

theorem Inv.closeSessions {P : State → Prop} (hk : Stables P 576460752303489024) {t : State} (h : P t) (p : Nat → QPair → Bool) : P (State.closeSessions t p) := by
  unfold State.closeSessions
  have k0 : Stables P 65536 := hk.sub rfl
  repeat' first
    | intro _
    | with_reducible exact h
    | with_reducible assumption
    | with_reducible apply Inv.setN k0
    | with_reducible apply Inv.ite
    | with_reducible apply Inv.getD
    | fail_if_no_progress (first | with_reducible refine Inv.lit hk ?_ | fail)
    | split
    | dsimp only
    | exact h

theorem Inv.clearShard {P : State → Prop} (hk : Stables P 2140886578298880) {t : State} (h : P t) (i : Nat) : P (State.clearShard t i) := by
  unfold State.clearShard
  have k0 : Stables P 26388279066624 := hk.sub rfl
  have k1 : Stables P 422212465131520 := hk.sub rfl
  have k2 : Stables P 1099511693312 := hk.sub rfl
  repeat' first
    | intro _
    | with_reducible exact h
    | with_reducible assumption
    | with_reducible apply Inv.dropExtent k0
    | with_reducible apply Inv.releasePages k1
    | with_reducible apply Inv.setSlotState k2
    | with_reducible apply Inv.ite
    | with_reducible apply Inv.getD
    | with_reducible apply Inv.foldl
    | fail_if_no_progress (first | with_reducible refine Inv.lit hk ?_ | fail)
    | split
    | dsimp only
    | exact h

theorem Inv.emptyPart {P : State → Prop} (hk : Stables P 1181652107926591045632) {t : State} (h : P t) (p : Nat) : P (State.emptyPart t p) := by
  unfold State.emptyPart
  have k0 : Stables P 576460752303489024 := hk.sub rfl
  have k1 : Stables P 153122520474583040 := hk.sub rfl
  have k2 : Stables P 1180591620719558852608 := hk.sub rfl
  have k3 : Stables P 297237575406518272 := hk.sub rfl
  have k4 : Stables P 65536 := hk.sub rfl
  have k5 : Stables P 65536 := hk.sub rfl
  have k6 : Stables P 422212465131520 := hk.sub rfl
  have k7 : Stables P 2140886578298880 := hk.sub rfl
  repeat' first
    | intro _
    | with_reducible exact h
    | with_reducible assumption
    | with_reducible apply Inv.closeSessions k0
    | with_reducible apply Inv.freeReq k1
    | with_reducible apply Inv.destroyRing k2
    | with_reducible apply Inv.dropCaches k3
    | with_reducible apply Inv.setLive k4
    | with_reducible apply Inv.setN k5
    | with_reducible apply Inv.releasePages k6
    | with_reducible apply Inv.clearShard k7
    | with_reducible apply Inv.ite
    | with_reducible apply Inv.getD
    | with_reducible apply Inv.foldl
    | with_reducible apply Inv.foldFst
    | with_reducible apply Inv.foldSnd
    | fail_if_no_progress (first | with_reducible refine Inv.lit hk ?_ | fail)
    | split
    | dsimp only
    | exact h

theorem Inv.trimNamespace {P : State → Prop} (hk : Stables P 26388279066624) {t : State} (h : P t) (p : Nat) : P (State.trimNamespace t p) := by
  unfold State.trimNamespace
  repeat' first
    | intro _
    | with_reducible exact h
    | with_reducible assumption
    | with_reducible apply Inv.ite
    | with_reducible apply Inv.getD
    | fail_if_no_progress (first | with_reducible refine Inv.lit hk ?_ | fail)
    | split
    | dsimp only
    | exact h

theorem Inv.doTenantSwitch {P : State → Prop} (hk : Stables P 1200098852000334192640) {t : State} (h : P t) (p : Nat) : P (State.doTenantSwitch t p) := by
  unfold State.doTenantSwitch
  have k0 : Stables P 1181652107926591045632 := hk.sub rfl
  have k1 : Stables P 26388279066624 := hk.sub rfl
  have k2 : Stables P 18446744073709551616 := hk.sub rfl
  have k3 : Stables P 32768 := hk.sub rfl
  have k4 : Stables P 65536 := hk.sub rfl
  have k5 : Stables P 33628160 := hk.sub rfl
  repeat' first
    | intro _
    | with_reducible exact h
    | with_reducible assumption
    | with_reducible apply Inv.emptyPart k0
    | with_reducible apply Inv.trimNamespace k1
    | with_reducible apply Inv.modPart k2
    | with_reducible apply Inv.setAct k3
    | with_reducible apply Inv.setN k4
    | with_reducible apply Inv.raise k5
    | with_reducible apply Inv.ite
    | with_reducible apply Inv.getD
    | fail_if_no_progress (first | with_reducible refine Inv.lit hk ?_ | fail)
    | split
    | dsimp only
    | exact h

theorem Inv.clearChip {P : State → Prop} (hk : Stables P 9444895376800852475936) {t : State} (h : P t) (p : Nat) : P (State.clearChip t p) := by
  unfold State.clearChip
  have k0 : Stables P 9444732965739290427392 := hk.sub rfl
  repeat' first
    | intro _
    | with_reducible exact h
    | with_reducible assumption
    | with_reducible apply Inv.clearRange k0
    | with_reducible apply Inv.ite
    | with_reducible apply Inv.getD
    | with_reducible apply Inv.foldl
    | fail_if_no_progress (first | with_reducible refine Inv.lit hk ?_ | fail)
    | split
    | dsimp only
    | exact h

theorem Inv.clearExternal {P : State → Prop} (hk : Stables P 9444805023333328355328) {t : State} (h : P t) (p : Nat) : P (State.clearExternal t p) := by
  unfold State.clearExternal
  have k0 : Stables P 9444732965739290427392 := hk.sub rfl
  repeat' first
    | intro _
    | with_reducible exact h
    | with_reducible assumption
    | with_reducible apply Inv.clearRange k0
    | with_reducible apply Inv.ite
    | with_reducible apply Inv.getD
    | with_reducible apply Inv.foldl
    | fail_if_no_progress (first | with_reducible refine Inv.lit hk ?_ | fail)
    | split
    | dsimp only
    | exact h

theorem Inv.execTenantScrub {P : State → Prop} (hk : Stables P 9463414178468633583648) {t : State} (h : P t) (p : Nat) (external ok : Bool) : Ends P (Sys2Proof.Machine.execTenantScrub p external ok t) := by
  unfold Sys2Proof.Machine.execTenantScrub
  have k0 : Stables P 9444805023333328355328 := hk.sub rfl
  have k1 : Stables P 9444895376800852475936 := hk.sub rfl
  have k2 : Stables P 18446744073709551616 := hk.sub rfl
  have k3 : Stables P 33628160 := hk.sub rfl
  repeat' first
    | with_reducible apply Ends.next
    | with_reducible apply Ends.ite
    | intro _
    | with_reducible exact h
    | with_reducible assumption
    | with_reducible apply Inv.clearExternal k0
    | with_reducible apply Inv.clearChip k1
    | with_reducible apply Inv.modPart k2
    | with_reducible apply Inv.raise k3
    | with_reducible apply Inv.ite
    | with_reducible apply Inv.getD
    | fail_if_no_progress (first | with_reducible refine Inv.lit hk ?_ | fail)
    | split
    | dsimp only
    | exact h

theorem Inv.doScrubEnd {P : State → Prop} (hk : Stables P 18446744073743179776) {t : State} (h : P t) (p : Nat) : P (State.doScrubEnd t p) := by
  unfold State.doScrubEnd
  have k0 : Stables P 18446744073709551616 := hk.sub rfl
  have k1 : Stables P 65536 := hk.sub rfl
  have k2 : Stables P 65536 := hk.sub rfl
  have k3 : Stables P 33628160 := hk.sub rfl
  repeat' first
    | intro _
    | with_reducible exact h
    | with_reducible assumption
    | with_reducible apply Inv.modPart k0
    | with_reducible apply Inv.setN k1
    | with_reducible apply Inv.bump k2
    | with_reducible apply Inv.raise k3
    | with_reducible apply Inv.ite
    | with_reducible apply Inv.getD
    | fail_if_no_progress (first | with_reducible refine Inv.lit hk ?_ | fail)
    | split
    | dsimp only
    | exact h

theorem Inv.takeLeaf {P : State → Prop} (hk : Stables P 9223372036888403968) {t u : State} (h : P t) {i : Nat} (hu : State.takeLeaf t = some (i, u)) : P u := by
  have k0 : Stables P 9223372036888403968 := hk.sub rfl
  have k1 : Stables P 65536 := hk.sub rfl
  unfold State.takeLeaf at hu
  dsimp only at hu
  split at hu
  · cases hu
  · obtain ⟨-, rfl⟩ := Prod.mk.inj (Option.some.inj hu)
    repeat' first
    | intro _
    | with_reducible exact h
    | with_reducible apply Inv.blowFuse k0
    | with_reducible apply Inv.setN k1
    | with_reducible apply Inv.ite
    | fail_if_no_progress (first | with_reducible refine Inv.lit hk ?_ | fail)
    | split

theorem Inv.captureReports {P : State → Prop} (hk : Stables P 9223372036854775808) {t : State} (h : P t) : P (State.captureReports t) := by
  unfold State.captureReports
  repeat' first
    | intro _
    | with_reducible exact h
    | with_reducible assumption
    | with_reducible apply Inv.ite
    | with_reducible apply Inv.getD
    | fail_if_no_progress (first | with_reducible refine Inv.lit hk ?_ | fail)
    | split
    | dsimp only
    | exact h

theorem Inv.signReport {P : State → Prop} (hk : Stables P 9223372036896792576) {t : State} (h : P t) : P (State.signReport t) := by
  unfold State.signReport
  have k0 : Stables P 9223372036888403968 := hk.sub rfl
  have k1 : Stables P 8388608 := hk.sub rfl
  have k2 : Stables P 33628160 := hk.sub rfl
  repeat' first
    | intro _
    | with_reducible exact h
    | with_reducible assumption
    | refine Inv.takeLeaf k0 (hu := by assumption) ?_
    | with_reducible apply Inv.modResult k1
    | with_reducible apply Inv.raise k2
    | with_reducible apply Inv.ite
    | with_reducible apply Inv.getD
    | fail_if_no_progress (first | with_reducible refine Inv.lit hk ?_ | fail)
    | split
    | dsimp only
    | exact h

theorem Inv.execAttReportSign {P : State → Prop} (hk : Stables P 9223372036896792576) {t : State} (h : P t) : Ends P (Sys2Proof.Machine.execAttReportSign t) := by
  unfold Sys2Proof.Machine.execAttReportSign
  have k0 : Stables P 9223372036896792576 := hk.sub rfl
  repeat' first
    | with_reducible apply Ends.next
    | with_reducible apply Ends.ite
    | intro _
    | with_reducible exact h
    | with_reducible assumption
    | with_reducible apply Inv.signReport k0
    | with_reducible apply Inv.ite
    | with_reducible apply Inv.getD
    | fail_if_no_progress (first | with_reducible refine Inv.lit hk ?_ | fail)
    | split
    | dsimp only
    | exact h

theorem Inv.reportsDueFrom {P : State → Prop} (hk : Stables P 9223372036896792576) {t : State} (h : P t) (r_ : Nat) : P (State.reportsDueFrom t r_) := by
  have k0 : Stables P 9223372036896792576 := hk.sub rfl
  induction r_ generalizing t  with
  | zero => simpa only [State.reportsDueFrom] using h
  | succ n_ ih =>
    unfold State.reportsDueFrom
    repeat' first
    | intro _
    | with_reducible exact h
    | with_reducible assumption
    | with_reducible apply ih
    | with_reducible apply Inv.signReport k0
    | with_reducible apply Inv.ite
    | split
    | fail_if_no_progress (first | with_reducible refine Inv.lit hk ?_ | fail)
    | dsimp only

theorem Inv.reportsDue {P : State → Prop} (hk : Stables P 9223372036896792576) {t : State} (h : P t) : P (State.reportsDue t) := by
  unfold State.reportsDue
  have k0 : Stables P 9223372036896792576 := hk.sub rfl
  repeat' first
    | intro _
    | with_reducible exact h
    | with_reducible assumption
    | with_reducible apply Inv.reportsDueFrom k0
    | with_reducible apply Inv.ite
    | with_reducible apply Inv.getD
    | fail_if_no_progress (first | with_reducible refine Inv.lit hk ?_ | fail)
    | split
    | dsimp only
    | exact h

end Sys2Proof.Machine
end

