-- ==== Sys2Proof/Laws/KeepsActivate.lean ====
section
/-! SUPPORT. What the operations of Machine/Activate.lean leave as it is: one lemma for each. -/

set_option linter.unusedTactic false
set_option linter.unreachableTactic false
set_option linter.unusedVariables false

namespace Sys2Proof.Machine
set_option Elab.async false

theorem Inv.setPartners {P : State → Prop} (hk : Stables P 1099511627776) {t : State} (h : P t) (i : Nat) : P (State.setPartners t i) := by
  unfold State.setPartners
  have k0 : Stables P 1099511627776 := hk.sub rfl
  repeat' first
    | intro _
    | with_reducible exact h
    | with_reducible assumption
    | with_reducible apply Inv.modShard k0
    | with_reducible apply Inv.ite
    | with_reducible apply Inv.getD
    | fail_if_no_progress (first | with_reducible refine Inv.lit hk ?_ | fail)
    | split
    | dsimp only
    | exact h

theorem Inv.freshSlot {P : State → Prop} (hk : Stables P 1099511693312) {t : State} (h : P t) (i id : Nat) : P (State.freshSlot t i id) := by
  unfold State.freshSlot
  have k0 : Stables P 1099511693312 := hk.sub rfl
  repeat' first
    | intro _
    | with_reducible exact h
    | with_reducible assumption
    | with_reducible apply Inv.setSlotState k0
    | with_reducible apply Inv.ite
    | with_reducible apply Inv.getD
    | fail_if_no_progress (first | with_reducible refine Inv.lit hk ?_ | fail)
    | split
    | dsimp only
    | exact h

theorem Inv.changeRole {P : State → Prop} (hk : Stables P 2138550216761344) {t : State} (h : P t) (i : Nat) (owner : Bool) : P (State.changeRole t i owner) := by
  unfold State.changeRole
  have k0 : Stables P 2112161937694720 := hk.sub rfl
  have k1 : Stables P 1099511627776 := hk.sub rfl
  have k2 : Stables P 26388279066624 := hk.sub rfl
  repeat' first
    | intro _
    | with_reducible exact h
    | with_reducible assumption
    | with_reducible apply Inv.drainInbox k0
    | with_reducible apply Inv.modShard k1
    | with_reducible apply Inv.dropExtent k2
    | with_reducible apply Inv.ite
    | with_reducible apply Inv.getD
    | with_reducible apply Inv.foldl
    | fail_if_no_progress (first | with_reducible refine Inv.lit hk ?_ | fail)
    | split
    | dsimp only
    | exact h

theorem Inv.applySlot {P : State → Prop} (hk : Stables P 2138550216761344) {t : State} (h : P t) (i : Nat) : P (State.applySlot t i) := by
  unfold State.applySlot
  have k0 : Stables P 1099511693312 := hk.sub rfl
  have k1 : Stables P 422212465131520 := hk.sub rfl
  have k2 : Stables P 1099511693312 := hk.sub rfl
  have k3 : Stables P 1099511627776 := hk.sub rfl
  have k4 : Stables P 2138550216761344 := hk.sub rfl
  have k5 : Stables P 1099511627776 := hk.sub rfl
  repeat' first
    | intro _
    | with_reducible exact h
    | with_reducible assumption
    | with_reducible apply Inv.freshSlot k0
    | with_reducible apply Inv.releasePages k1
    | with_reducible apply Inv.setSlotState k2
    | with_reducible apply Inv.modShard k3
    | with_reducible apply Inv.changeRole k4
    | with_reducible apply Inv.setPartners k5
    | with_reducible apply Inv.ite
    | with_reducible apply Inv.getD
    | fail_if_no_progress (first | with_reducible refine Inv.lit hk ?_ | fail)
    | split
    | dsimp only
    | exact h

theorem Inv.applyEmb {P : State → Prop} (hk : Stables P 36451009484095488) {t : State} (h : P t) (t_ : Nat) : P (State.applyEmb t t_) := by
  unfold State.applyEmb
  have k0 : Stables P 422212465131520 := hk.sub rfl
  have k1 : Stables P 65536 := hk.sub rfl
  have k2 : Stables P 36451009484095488 := hk.sub rfl
  repeat' first
    | intro _
    | with_reducible exact h
    | with_reducible assumption
    | with_reducible apply Inv.releasePages k0
    | with_reducible apply Inv.setN k1
    | with_reducible apply Inv.loadEmb k2
    | with_reducible apply Inv.ite
    | with_reducible apply Inv.getD
    | fail_if_no_progress (first | with_reducible refine Inv.lit hk ?_ | fail)
    | split
    | dsimp only
    | exact h

theorem Inv.applyDue {P : State → Prop} (hk : Stables P 38167347235758080) {t : State} (h : P t) : P (State.applyDue t) := by
  unfold State.applyDue
  have k0 : Stables P 36451009484095488 := hk.sub rfl
  have k1 : Stables P 2138550216761344 := hk.sub rfl
  repeat' first
    | intro _
    | with_reducible exact h
    | with_reducible assumption
    | with_reducible apply Inv.applyEmb k0
    | with_reducible apply Inv.applySlot k1
    | with_reducible apply Inv.ite
    | with_reducible apply Inv.getD
    | with_reducible apply Inv.foldl
    | fail_if_no_progress (first | with_reducible refine Inv.lit hk ?_ | fail)
    | split
    | dsimp only
    | exact h

end Sys2Proof.Machine
end

