-- ==== Sys2Proof/Laws/KeepsPower.lean ====
section
/-! SUPPORT. What the operations of Machine/Power.lean leave as it is: one lemma for each. -/

set_option linter.unusedTactic false
set_option linter.unreachableTactic false
set_option linter.unusedVariables false

namespace Sys2Proof.Machine
set_option Elab.async false

theorem Inv.clockTo {P : State → Prop} (hk : Stables P 73786976294838272016) {t : State} (h : P t) (t_ : Nat) : P (State.clockTo t t_) := by
  unfold State.clockTo
  have k0 : Stables P 65536 := hk.sub rfl
  repeat' first
    | intro _
    | with_reducible exact h
    | with_reducible assumption
    | with_reducible apply Inv.setN k0
    | with_reducible apply Inv.ite
    | with_reducible apply Inv.getD
    | fail_if_no_progress (first | with_reducible refine Inv.lit hk ?_ | fail)
    | split
    | dsimp only
    | exact h

theorem Inv.demandStretch {P : State → Prop} (hk : Stables P 33628176) {t : State} (h : P t) (t_ : Nat) : P (State.demandStretch t t_) := by
  unfold State.demandStretch
  have k0 : Stables P 65536 := hk.sub rfl
  have k1 : Stables P 33628160 := hk.sub rfl
  repeat' first
    | intro _
    | with_reducible exact h
    | with_reducible assumption
    | with_reducible apply Inv.useGrant k0
    | with_reducible apply Inv.raise k1
    | with_reducible apply Inv.ite
    | with_reducible apply Inv.getD
    | fail_if_no_progress (first | with_reducible refine Inv.lit hk ?_ | fail)
    | split
    | dsimp only
    | exact h

theorem Inv.demandTier {P : State → Prop} (hk : Stables P 33628176) {t : State} (h : P t) (t_ : Nat) : P (State.demandTier t t_) := by
  unfold State.demandTier
  have k0 : Stables P 33628176 := hk.sub rfl
  have k1 : Stables P 33628160 := hk.sub rfl
  repeat' first
    | intro _
    | with_reducible exact h
    | with_reducible assumption
    | with_reducible apply Inv.demandStretch k0
    | with_reducible apply Inv.raise k1
    | with_reducible apply Inv.ite
    | with_reducible apply Inv.getD
    | fail_if_no_progress (first | with_reducible refine Inv.lit hk ?_ | fail)
    | split
    | dsimp only
    | exact h

theorem Inv.execTierChangeRequest {P : State → Prop} (hk : Stables P 33628176) {t : State} (h : P t) (tier : Nat) : Ends P (Sys2Proof.Machine.execTierChangeRequest tier t) := by
  unfold Sys2Proof.Machine.execTierChangeRequest
  have k0 : Stables P 33628176 := hk.sub rfl
  repeat' first
    | with_reducible apply Ends.next
    | with_reducible apply Ends.ite
    | intro _
    | with_reducible exact h
    | with_reducible assumption
    | with_reducible apply Inv.demandTier k0
    | with_reducible apply Inv.ite
    | with_reducible apply Inv.getD
    | fail_if_no_progress (first | with_reducible refine Inv.lit hk ?_ | fail)
    | split
    | dsimp only
    | exact h

theorem Inv.execTierStretch {P : State → Prop} (hk : Stables P 33628176) {t : State} (h : P t) (tier : Nat) : Ends P (Sys2Proof.Machine.execTierStretch tier t) := by
  unfold Sys2Proof.Machine.execTierStretch
  have k0 : Stables P 33628176 := hk.sub rfl
  repeat' first
    | with_reducible apply Ends.next
    | with_reducible apply Ends.ite
    | intro _
    | with_reducible exact h
    | with_reducible assumption
    | with_reducible apply Inv.demandStretch k0
    | with_reducible apply Inv.ite
    | with_reducible apply Inv.getD
    | fail_if_no_progress (first | with_reducible refine Inv.lit hk ?_ | fail)
    | split
    | dsimp only
    | exact h

theorem Inv.tierBoundary {P : State → Prop} (hk : Stables P 16) {t : State} (h : P t) : P (State.tierBoundary t) := by
  unfold State.tierBoundary
  repeat' first
    | intro _
    | with_reducible exact h
    | with_reducible assumption
    | with_reducible apply Inv.ite
    | with_reducible apply Inv.getD
    | fail_if_no_progress (first | with_reducible refine Inv.lit hk ?_ | fail)
    | split
    | dsimp only
    | exact h

theorem Inv.foreseenClock {P : State → Prop} (hk : Stables P 73786976294871834640) {t : State} (h : P t) : P (State.foreseenClock t) := by
  unfold State.foreseenClock
  have k0 : Stables P 73786976294838272016 := hk.sub rfl
  have k1 : Stables P 33628160 := hk.sub rfl
  repeat' first
    | intro _
    | with_reducible exact h
    | with_reducible assumption
    | with_reducible apply Inv.clockTo k0
    | with_reducible apply Inv.raise k1
    | with_reducible apply Inv.ite
    | with_reducible apply Inv.getD
    | fail_if_no_progress (first | with_reducible refine Inv.lit hk ?_ | fail)
    | split
    | dsimp only
    | exact h

theorem Inv.execTierClockChange {P : State → Prop} (hk : Stables P 73786976294871834640) {t : State} (h : P t) : Ends P (Sys2Proof.Machine.execTierClockChange t) := by
  unfold Sys2Proof.Machine.execTierClockChange
  have k0 : Stables P 73786976294871834640 := hk.sub rfl
  repeat' first
    | with_reducible apply Ends.next
    | with_reducible apply Ends.ite
    | intro _
    | with_reducible exact h
    | with_reducible assumption
    | with_reducible apply Inv.foreseenClock k0
    | with_reducible apply Inv.ite
    | with_reducible apply Inv.getD
    | fail_if_no_progress (first | with_reducible refine Inv.lit hk ?_ | fail)
    | split
    | dsimp only
    | exact h

theorem Inv.settleClock {P : State → Prop} (hk : Stables P 73786976294871834640) {t : State} (h : P t) : P (State.settleClock t) := by
  unfold State.settleClock
  have k0 : Stables P 73786976294838272016 := hk.sub rfl
  have k1 : Stables P 33628160 := hk.sub rfl
  have k2 : Stables P 73786976294871834640 := hk.sub rfl
  repeat' first
    | intro _
    | with_reducible exact h
    | with_reducible assumption
    | with_reducible apply Inv.clockTo k0
    | with_reducible apply Inv.raise k1
    | with_reducible apply Inv.foreseenClock k2
    | with_reducible apply Inv.ite
    | with_reducible apply Inv.getD
    | fail_if_no_progress (first | with_reducible refine Inv.lit hk ?_ | fail)
    | split
    | dsimp only
    | exact h

theorem Inv.execCapTest {P : State → Prop} (hk : Stables P 73786976294871834624) {t : State} (h : P t) (v1mv v2mv : Nat) : Ends P (Sys2Proof.Machine.execCapTest v1mv v2mv t) := by
  unfold Sys2Proof.Machine.execCapTest
  have k0 : Stables P 65536 := hk.sub rfl
  have k1 : Stables P 33628160 := hk.sub rfl
  repeat' first
    | with_reducible apply Ends.next
    | with_reducible apply Ends.ite
    | intro _
    | with_reducible exact h
    | with_reducible assumption
    | with_reducible apply Inv.setN k0
    | with_reducible apply Inv.raise k1
    | with_reducible apply Inv.ite
    | with_reducible apply Inv.getD
    | fail_if_no_progress (first | with_reducible refine Inv.lit hk ?_ | fail)
    | split
    | dsimp only
    | exact h

theorem Inv.execVcoreAdjust {P : State → Prop} (hk : Stables P 73786976294871834640) {t : State} (h : P t) (plot : Nat) (margin : Int) : Ends P (Sys2Proof.Machine.execVcoreAdjust plot margin t) := by
  unfold Sys2Proof.Machine.execVcoreAdjust
  have k0 : Stables P 33628160 := hk.sub rfl
  have k1 : Stables P 65536 := hk.sub rfl
  have k2 : Stables P 33628176 := hk.sub rfl
  repeat' first
    | with_reducible apply Ends.next
    | with_reducible apply Ends.ite
    | intro _
    | with_reducible exact h
    | with_reducible assumption
    | with_reducible apply Inv.raise k0
    | with_reducible apply Inv.bump k1
    | with_reducible apply Inv.demandTier k2
    | with_reducible apply Inv.ite
    | with_reducible apply Inv.getD
    | fail_if_no_progress (first | with_reducible refine Inv.lit hk ?_ | fail)
    | split
    | dsimp only
    | exact h

theorem Inv.powerDown {P : State → Prop} (hk : Stables P 590295810358705651712) {t : State} (h : P t) : P t.powerDown := hk.down rfl t h

theorem Inv.flushAt {P : State → Prop} (hk : Stables P 13194173161472) {t : State} (h : P t) (x : Loss) (i : Nat) (place : Nat × Nat) (use_ lpn kind : Nat) (data : Bytes) : P (State.flushAt t x i place use_ lpn kind data).1 := by
  unfold State.flushAt
  have k0 : Stables P 13194139533312 := hk.sub rfl
  have k1 : Stables P 4398080139264 := hk.sub rfl
  repeat' first
    | intro _
    | with_reducible exact h
    | with_reducible assumption
    | with_reducible apply Inv.programIn k0
    | with_reducible apply Inv.programFailed k1
    | with_reducible apply Inv.ite
    | with_reducible apply Inv.getD
    | fail_if_no_progress (first | with_reducible refine Inv.lit hk ?_ | fail)
    | split
    | dsimp only
    | exact h

theorem Inv.flushProgram {P : State → Prop} (hk : Stables P 13194173161472) {t : State} (h : P t) (x : Loss) (i use_ lpn kind : Nat) (data : Bytes) : P (State.flushProgram t x i use_ lpn kind data).1 := by
  unfold State.flushProgram
  have k0 : Stables P 13194173161472 := hk.sub rfl
  repeat' first
    | intro _
    | with_reducible exact h
    | with_reducible assumption
    | with_reducible apply Inv.flushAt k0
    | with_reducible apply Inv.ite
    | with_reducible apply Inv.getD
    | fail_if_no_progress (first | with_reducible refine Inv.lit hk ?_ | fail)
    | split
    | dsimp only
    | exact h

theorem Inv.flushLog {P : State → Prop} (hk : Stables P 32985382461440) (x : Loss) (n : Nat) {r : FlushRun} (h : P r.s) : P (FlushRun.log x n r).s := by
  have k0 : Stables P 13194173161472 := hk.sub rfl
  have k1 : Stables P 28587302387712 := hk.sub rfl
  induction n generalizing r with
  | zero => exact h
  | succ n ih =>
    unfold FlushRun.log
    split
    · exact h
    · dsimp only
      split
      · exact ih h
      · split
        · exact ih (Inv.flushProgram k0 h ..)
        · exact ih (Inv.logDone k1 (Inv.flushProgram k0 h ..) ..)

theorem Inv.flushJournal {P : State → Prop} (hk : Stables P 13194173161472) (x : Loss) {r : FlushRun} (h : P r.s) : P (r.journal x).s := by
  have k0 : Stables P 13194173161472 := hk.sub rfl
  have k1 : Stables P 8796093087744 := hk.sub rfl
  unfold FlushRun.journal
  refine List.foldlRecOn _ _ (motive := fun (v : FlushRun) => P v.s) h fun v hv p _ => ?_
  exact Inv.mapD (fun _ _ => Inv.journalDone k1 (Inv.flushProgram k0 hv ..) ..) (Inv.flushProgram k0 hv ..)

theorem Inv.flushRecord {P : State → Prop} (hk : Stables P 48378545250304) (x : Loss) {r : FlushRun} (h : P r.s) : P (r.record x) := by
  have k0 : Stables P 13194173161472 := hk.sub rfl
  unfold FlushRun.record
  extract_lets logSeq b page put z z1
  have hp : ∀ v : State × List Nat × Nat, P v.1 → P (put v).1 := fun v hv => by
    dsimp only [put]
    split
    · exact hv
    · exact Inv.flushAt k0 hv ..
  have hz : P z.1 := hp _ (hp _ h)
  exact Inv.lit hk hz

theorem Inv.flush {P : State → Prop} (hk : Stables P 68169754550272) {t : State} (h : P t) (x : Loss) : P (State.flush t x) := by
  have k0 : Stables P 48378545250304 := hk.sub rfl
  have k1 : Stables P 13194173161472 := hk.sub rfl
  have k2 : Stables P 32985382461440 := hk.sub rfl
  unfold State.flush
  exact Inv.flushRecord k0 x (Inv.flushJournal k1 x (Inv.flushLog k2 x _ h))

theorem Inv.lossOfInput {P : State → Prop} (hk : Stables P 627189366675879305472) {t : State} (h : P t) (code detail : Nat) (x : Loss) (to_ : Boot) : P (State.lossOfInput t code detail x to_) := by
  unfold State.lossOfInput
  have k0 : Stables P 68169754550272 := hk.sub rfl
  have k1 : Stables P 33628160 := hk.sub rfl
  have k2 : Stables P 65536 := hk.sub rfl
  have k3 : Stables P 590295810358705651712 := hk.sub rfl
  repeat' first
    | intro _
    | with_reducible exact h
    | with_reducible assumption
    | with_reducible apply Inv.flush k0
    | with_reducible apply Inv.raise k1
    | with_reducible apply Inv.bump k2
    | with_reducible apply Inv.powerDown k3
    | with_reducible apply Inv.ite
    | with_reducible apply Inv.getD
    | fail_if_no_progress (first | with_reducible refine Inv.lit hk ?_ | fail)
    | split
    | dsimp only
    | exact h

theorem Inv.execInputLoss {P : State → Prop} (hk : Stables P 627189366675879305472) {t : State} (h : P t) (x : Loss) : Ends P (Sys2Proof.Machine.execInputLoss x t) := by
  unfold Sys2Proof.Machine.execInputLoss
  have k0 : Stables P 627189366675879305472 := hk.sub rfl
  repeat' first
    | with_reducible apply Ends.next
    | with_reducible apply Ends.ite
    | intro _
    | with_reducible exact h
    | with_reducible assumption
    | with_reducible apply Inv.lossOfInput k0
    | with_reducible apply Inv.ite
    | with_reducible apply Inv.getD
    | fail_if_no_progress (first | with_reducible refine Inv.lit hk ?_ | fail)
    | split
    | dsimp only
    | exact h

theorem Inv.execClockFault {P : State → Prop} (hk : Stables P 627189366675879305472) {t : State} (h : P t) : Ends P (Sys2Proof.Machine.execClockFault t) := by
  unfold Sys2Proof.Machine.execClockFault
  have k0 : Stables P 627189366675879305472 := hk.sub rfl
  repeat' first
    | with_reducible apply Ends.next
    | with_reducible apply Ends.ite
    | intro _
    | with_reducible exact h
    | with_reducible assumption
    | with_reducible apply Inv.lossOfInput k0
    | with_reducible apply Inv.ite
    | with_reducible apply Inv.getD
    | fail_if_no_progress (first | with_reducible refine Inv.lit hk ?_ | fail)
    | split
    | dsimp only
    | exact h

theorem Inv.execRefclkReturn {P : State → Prop} (hk : Stables P 36893488147419103232) {t : State} (h : P t) : Ends P (Sys2Proof.Machine.execRefclkReturn t) := by
  unfold Sys2Proof.Machine.execRefclkReturn
  repeat' first
    | with_reducible apply Ends.next
    | with_reducible apply Ends.ite
    | intro _
    | with_reducible exact h
    | with_reducible assumption
    | with_reducible apply Inv.ite
    | with_reducible apply Inv.getD
    | fail_if_no_progress (first | with_reducible refine Inv.lit hk ?_ | fail)
    | split
    | dsimp only
    | exact h

theorem Inv.execResetPulse {P : State → Prop} (hk : Stables P 627189366675879305472) {t : State} (h : P t) (us : Nat) : Ends P (Sys2Proof.Machine.execResetPulse us t) := by
  unfold Sys2Proof.Machine.execResetPulse
  have k0 : Stables P 627189366675879305472 := hk.sub rfl
  repeat' first
    | with_reducible apply Ends.next
    | with_reducible apply Ends.ite
    | intro _
    | with_reducible exact h
    | with_reducible assumption
    | with_reducible apply Inv.lossOfInput k0
    | with_reducible apply Inv.ite
    | with_reducible apply Inv.getD
    | fail_if_no_progress (first | with_reducible refine Inv.lit hk ?_ | fail)
    | split
    | dsimp only
    | exact h

theorem Inv.execThermalTrip {P : State → Prop} (hk : Stables P 627189366675879305472) {t : State} (h : P t) : Ends P (Sys2Proof.Machine.execThermalTrip t) := by
  unfold Sys2Proof.Machine.execThermalTrip
  have k0 : Stables P 627189366675879305472 := hk.sub rfl
  repeat' first
    | with_reducible apply Ends.next
    | with_reducible apply Ends.ite
    | intro _
    | with_reducible exact h
    | with_reducible assumption
    | with_reducible apply Inv.lossOfInput k0
    | with_reducible apply Inv.ite
    | with_reducible apply Inv.getD
    | fail_if_no_progress (first | with_reducible refine Inv.lit hk ?_ | fail)
    | split
    | dsimp only
    | exact h

theorem Inv.setClamp {P : State → Prop} (hk : Stables P 73786976294871834624) {t : State} (h : P t) : P (State.setClamp t) := by
  unfold State.setClamp
  have k0 : Stables P 33628160 := hk.sub rfl
  repeat' first
    | intro _
    | with_reducible exact h
    | with_reducible assumption
    | with_reducible apply Inv.raise k0
    | with_reducible apply Inv.ite
    | with_reducible apply Inv.getD
    | fail_if_no_progress (first | with_reducible refine Inv.lit hk ?_ | fail)
    | split
    | dsimp only
    | exact h

theorem Inv.execThermalClamp {P : State → Prop} (hk : Stables P 73786976294871834624) {t : State} (h : P t) : Ends P (Sys2Proof.Machine.execThermalClamp t) := by
  unfold Sys2Proof.Machine.execThermalClamp
  have k0 : Stables P 73786976294871834624 := hk.sub rfl
  repeat' first
    | with_reducible apply Ends.next
    | with_reducible apply Ends.ite
    | intro _
    | with_reducible exact h
    | with_reducible assumption
    | with_reducible apply Inv.setClamp k0
    | with_reducible apply Inv.ite
    | with_reducible apply Inv.getD
    | fail_if_no_progress (first | with_reducible refine Inv.lit hk ?_ | fail)
    | split
    | dsimp only
    | exact h

theorem Inv.releaseClamp {P : State → Prop} (hk : Stables P 73786976294871834640) {t : State} (h : P t) : P (State.releaseClamp t) := by
  unfold State.releaseClamp
  have k0 : Stables P 73786976294838272016 := hk.sub rfl
  have k1 : Stables P 33628160 := hk.sub rfl
  repeat' first
    | intro _
    | with_reducible exact h
    | with_reducible assumption
    | with_reducible apply Inv.clockTo k0
    | with_reducible apply Inv.raise k1
    | with_reducible apply Inv.ite
    | with_reducible apply Inv.getD
    | fail_if_no_progress (first | with_reducible refine Inv.lit hk ?_ | fail)
    | split
    | dsimp only
    | exact h

theorem Inv.execClampRelease {P : State → Prop} (hk : Stables P 73786976294871834640) {t : State} (h : P t) : Ends P (Sys2Proof.Machine.execClampRelease t) := by
  unfold Sys2Proof.Machine.execClampRelease
  have k0 : Stables P 73786976294871834640 := hk.sub rfl
  repeat' first
    | with_reducible apply Ends.next
    | with_reducible apply Ends.ite
    | intro _
    | with_reducible exact h
    | with_reducible assumption
    | with_reducible apply Inv.releaseClamp k0
    | with_reducible apply Inv.ite
    | with_reducible apply Inv.getD
    | fail_if_no_progress (first | with_reducible refine Inv.lit hk ?_ | fail)
    | split
    | dsimp only
    | exact h

theorem Inv.demandLower {P : State → Prop} (hk : Stables P 73786976294871834640) {t : State} (h : P t) : P (State.demandLower t) := by
  unfold State.demandLower
  have k0 : Stables P 33628176 := hk.sub rfl
  repeat' first
    | intro _
    | with_reducible exact h
    | with_reducible assumption
    | with_reducible apply Inv.demandTier k0
    | with_reducible apply Inv.ite
    | with_reducible apply Inv.getD
    | fail_if_no_progress (first | with_reducible refine Inv.lit hk ?_ | fail)
    | split
    | dsimp only
    | exact h

theorem Inv.demandHigher {P : State → Prop} (hk : Stables P 73786976294871834640) {t : State} (h : P t) : P (State.demandHigher t) := by
  unfold State.demandHigher
  have k0 : Stables P 33628176 := hk.sub rfl
  repeat' first
    | intro _
    | with_reducible exact h
    | with_reducible assumption
    | with_reducible apply Inv.demandTier k0
    | with_reducible apply Inv.ite
    | with_reducible apply Inv.getD
    | fail_if_no_progress (first | with_reducible refine Inv.lit hk ?_ | fail)
    | split
    | dsimp only
    | exact h

theorem Inv.vinMarginal {P : State → Prop} (hk : Stables P 100737040) {t : State} (h : P t) : P (State.vinMarginal t) := by
  unfold State.vinMarginal
  have k0 : Stables P 100737024 := hk.sub rfl
  have k1 : Stables P 33628176 := hk.sub rfl
  repeat' first
    | intro _
    | with_reducible exact h
    | with_reducible assumption
    | with_reducible apply Inv.raiseRun k0
    | with_reducible apply Inv.demandTier k1
    | with_reducible apply Inv.ite
    | with_reducible apply Inv.getD
    | fail_if_no_progress (first | with_reducible refine Inv.lit hk ?_ | fail)
    | split
    | dsimp only
    | exact h

theorem Inv.execVinMarginal {P : State → Prop} (hk : Stables P 100737040) {t : State} (h : P t) (mv : Nat) : Ends P (Sys2Proof.Machine.execVinMarginal mv t) := by
  unfold Sys2Proof.Machine.execVinMarginal
  have k0 : Stables P 100737040 := hk.sub rfl
  repeat' first
    | with_reducible apply Ends.next
    | with_reducible apply Ends.ite
    | intro _
    | with_reducible exact h
    | with_reducible assumption
    | with_reducible apply Inv.vinMarginal k0
    | with_reducible apply Inv.ite
    | with_reducible apply Inv.getD
    | fail_if_no_progress (first | with_reducible refine Inv.lit hk ?_ | fail)
    | split
    | dsimp only
    | exact h

theorem Inv.powerFigures {P : State → Prop} (hk : Stables P 65536) {t : State} (h : P t) (x : Sensors) (mean level : Nat) : P (State.powerFigures t x mean level) := by
  unfold State.powerFigures
  have k0 : Stables P 65536 := hk.sub rfl
  repeat' first
    | intro _
    | with_reducible exact h
    | with_reducible assumption
    | with_reducible apply Inv.setN k0
    | with_reducible apply Inv.ite
    | with_reducible apply Inv.getD
    | with_reducible apply Inv.foldl
    | fail_if_no_progress (first | with_reducible refine Inv.lit hk ?_ | fail)
    | split
    | dsimp only
    | exact h

theorem Inv.powerTick {P : State → Prop} (hk : Stables P 700976342970784620816) {t : State} (h : P t) (x : Sensors) : P (State.powerTick t x) := by
  unfold State.powerTick
  have k0 : Stables P 627189366675879305472 := hk.sub rfl
  have k1 : Stables P 65536 := hk.sub rfl
  have k2 : Stables P 73786976294871834624 := hk.sub rfl
  have k3 : Stables P 73786976294871834640 := hk.sub rfl
  have k4 : Stables P 100737024 := hk.sub rfl
  have k5 : Stables P 100737040 := hk.sub rfl
  have k6 : Stables P 73786976294871834640 := hk.sub rfl
  have k7 : Stables P 73786976294871834640 := hk.sub rfl
  repeat' first
    | intro _
    | with_reducible exact h
    | with_reducible assumption
    | with_reducible apply Inv.lossOfInput k0
    | with_reducible apply Inv.powerFigures k1
    | with_reducible apply Inv.setClamp k2
    | with_reducible apply Inv.releaseClamp k3
    | with_reducible apply Inv.raiseRun k4
    | with_reducible apply Inv.vinMarginal k5
    | with_reducible apply Inv.demandLower k6
    | with_reducible apply Inv.demandHigher k7
    | with_reducible apply Inv.ite
    | with_reducible apply Inv.getD
    | fail_if_no_progress (first | with_reducible refine Inv.lit hk ?_ | fail)
    | split
    | dsimp only
    | exact h

end Sys2Proof.Machine
end

