-- ==== Sys2Proof/Laws/KeepsBringUp.lean ====
section
/-! SUPPORT. What the operations of Machine/BringUp.lean leave as it is: one lemma for each. -/

set_option linter.unusedTactic false
set_option linter.unreachableTactic false
set_option linter.unusedVariables false

namespace Sys2Proof.Machine
set_option Elab.async false

theorem Inv.endStage {P : State → Prop} (hk : Stables P 33628160) {t : State} (h : P t) (n : Nat) : P (State.endStage t n) := by
  unfold State.endStage
  have k0 : Stables P 33628160 := hk.sub rfl
  have k1 : Stables P 65536 := hk.sub rfl
  repeat' first
    | intro _
    | with_reducible exact h
    | with_reducible assumption
    | with_reducible apply Inv.raise k0
    | with_reducible apply Inv.setN k1
    | with_reducible apply Inv.ite
    | with_reducible apply Inv.getD
    | fail_if_no_progress (first | with_reducible refine Inv.lit hk ?_ | fail)
    | split
    | dsimp only
    | exact h

theorem Inv.stopBoot {P : State → Prop} (hk : Stables P 36893488147419168768) {t : State} (h : P t) (b : Boot) : P (State.stopBoot t b).1 := by
  unfold State.stopBoot
  have k0 : Stables P 65536 := hk.sub rfl
  repeat' first
    | intro _
    | with_reducible exact h
    | with_reducible assumption
    | with_reducible apply Inv.setN k0
    | with_reducible apply Inv.ite
    | with_reducible apply Inv.getD
    | fail_if_no_progress (first | with_reducible refine Inv.lit hk ?_ | fail)
    | split
    | dsimp only
    | exact h

theorem Inv.bootGates {P : State → Prop} (hk : Stables P 36893488147452733448) {t : State} (h : P t) (r : BootReport) : P (State.bootGates t r).1 := by
  unfold State.bootGates
  have k0 : Stables P 65536 := hk.sub rfl
  have k1 : Stables P 33628160 := hk.sub rfl
  have k2 : Stables P 33628160 := hk.sub rfl
  have k3 : Stables P 65536 := hk.sub rfl
  have k4 : Stables P 36893488147419168768 := hk.sub rfl
  repeat' first
    | intro _
    | with_reducible exact h
    | with_reducible assumption
    | with_reducible apply Inv.setN k0
    | with_reducible apply Inv.raise k1
    | with_reducible apply Inv.endStage k2
    | with_reducible apply Inv.useGrant k3
    | with_reducible apply Inv.stopBoot k4
    | with_reducible apply Inv.ite
    | with_reducible apply Inv.getD
    | fail_if_no_progress (first | with_reducible refine Inv.lit hk ?_ | fail)
    | split
    | dsimp only
    | exact h

theorem Inv.restoreDict {P : State → Prop} (hk : Stables P 114688) {t : State} (h : P t) : P (State.restoreDict t) := by
  unfold State.restoreDict
  have k0 : Stables P 65536 := hk.sub rfl
  have k1 : Stables P 65536 := hk.sub rfl
  repeat' first
    | intro _
    | with_reducible exact h
    | with_reducible assumption
    | with_reducible apply Inv.setLive k0
    | with_reducible apply Inv.setN k1
    | with_reducible apply Inv.ite
    | with_reducible apply Inv.mapD
    | with_reducible apply Inv.getD
    | with_reducible apply Inv.foldl
    | fail_if_no_progress (first | with_reducible refine Inv.lit hk ?_ | fail)
    | split
    | dsimp only
    | exact h

theorem Inv.bootFirmware {P : State → Prop} (hk : Stables P 46116860184307556352) {t : State} (h : P t) (r : BootReport) : P (State.bootFirmware t r).1 := by
  unfold State.bootFirmware
  have k0 : Stables P 65536 := hk.sub rfl
  have k1 : Stables P 65536 := hk.sub rfl
  have k2 : Stables P 114688 := hk.sub rfl
  have k3 : Stables P 9223372036854841344 := hk.sub rfl
  have k4 : Stables P 33628160 := hk.sub rfl
  have k5 : Stables P 33628160 := hk.sub rfl
  have k6 : Stables P 36893488147419168768 := hk.sub rfl
  repeat' first
    | intro _
    | with_reducible exact h
    | with_reducible assumption
    | with_reducible apply Inv.setN k0
    | with_reducible apply Inv.setLive k1
    | with_reducible apply Inv.restoreDict k2
    | with_reducible apply Inv.newKemKey k3
    | with_reducible apply Inv.endStage k4
    | with_reducible apply Inv.raise k5
    | with_reducible apply Inv.stopBoot k6
    | with_reducible apply Inv.ite
    | with_reducible apply Inv.getD
    | fail_if_no_progress (first | with_reducible refine Inv.lit hk ?_ | fail)
    | split
    | dsimp only
    | exact h

theorem Inv.bootClocks {P : State → Prop} (hk : Stables P 110680464442290937872) {t : State} (h : P t) (r : BootReport) : P (State.bootClocks t r).1 := by
  unfold State.bootClocks
  have k0 : Stables P 65536 := hk.sub rfl
  have k1 : Stables P 73786976294838272016 := hk.sub rfl
  have k2 : Stables P 33628160 := hk.sub rfl
  have k3 : Stables P 33628160 := hk.sub rfl
  repeat' first
    | intro _
    | with_reducible exact h
    | with_reducible assumption
    | with_reducible apply Inv.setN k0
    | with_reducible apply Inv.clockTo k1
    | with_reducible apply Inv.endStage k2
    | with_reducible apply Inv.raise k3
    | with_reducible apply Inv.ite
    | with_reducible apply Inv.getD
    | fail_if_no_progress (first | with_reducible refine Inv.lit hk ?_ | fail)
    | split
    | dsimp only
    | exact h

theorem Inv.bootPlots {P : State → Prop} (hk : Stables P 73786976294871835648) {t : State} (h : P t) (r : BootReport) : P (State.bootPlots t r) := by
  unfold State.bootPlots
  have k0 : Stables P 65536 := hk.sub rfl
  have k1 : Stables P 33628160 := hk.sub rfl
  have k2 : Stables P 33628160 := hk.sub rfl
  repeat' first
    | intro _
    | with_reducible exact h
    | with_reducible assumption
    | with_reducible apply Inv.setN k0
    | with_reducible apply Inv.raise k1
    | with_reducible apply Inv.endStage k2
    | with_reducible apply Inv.ite
    | with_reducible apply Inv.getD
    | with_reducible apply Inv.foldl
    | fail_if_no_progress (first | with_reducible refine Inv.lit hk ?_ | fail)
    | split
    | dsimp only
    | exact h

theorem Inv.peDefault {P : State → Prop} (hk : Stables P 114688) {t : State} (h : P t) (qs : List Bytes) : P (State.peDefault t qs) := by
  unfold State.peDefault
  have k0 : Stables P 65536 := hk.sub rfl
  repeat' first
    | intro _
    | with_reducible exact h
    | with_reducible assumption
    | with_reducible apply Inv.setLive k0
    | with_reducible apply Inv.ite
    | with_reducible apply Inv.getD
    | fail_if_no_progress (first | with_reducible refine Inv.lit hk ?_ | fail)
    | split
    | dsimp only
    | exact h

theorem Inv.takeDies {P : State → Prop} (hk : Stables P 118747255799808) {t : State} (h : P t) (chans : Nat) (ok : List (DieReport × Bytes)) : P (State.takeDies t chans ok) := by
  unfold State.takeDies
  repeat' first
    | intro _
    | with_reducible exact h
    | with_reducible assumption
    | with_reducible apply Inv.ite
    | with_reducible apply Inv.getD
    | with_reducible apply Inv.foldl
    | fail_if_no_progress (first | with_reducible refine Inv.lit hk ?_ | fail)
    | split
    | dsimp only
    | exact h

theorem Inv.bootFlashUnits {P : State → Prop} (hk : Stables P 118747289477120) {t : State} (h : P t) (r : BootReport) : P (State.bootFlashUnits t r) := by
  unfold State.bootFlashUnits
  have k0 : Stables P 118747255799808 := hk.sub rfl
  have k1 : Stables P 114688 := hk.sub rfl
  have k2 : Stables P 33628160 := hk.sub rfl
  have k3 : Stables P 65536 := hk.sub rfl
  repeat' first
    | intro _
    | with_reducible exact h
    | with_reducible assumption
    | with_reducible apply Inv.takeDies k0
    | with_reducible apply Inv.peDefault k1
    | with_reducible apply Inv.raise k2
    | with_reducible apply Inv.setN k3
    | with_reducible apply Inv.ite
    | with_reducible apply Inv.getD
    | with_reducible apply Inv.foldl
    | fail_if_no_progress (first | with_reducible refine Inv.lit hk ?_ | fail)
    | split
    | dsimp only
    | exact h

theorem Inv.bootHedge {P : State → Prop} (hk : Stables P 1152921504640475136) {t : State} (h : P t) (r : BootReport) : P (State.bootHedge t r) := by
  unfold State.bootHedge
  have k0 : Stables P 65536 := hk.sub rfl
  have k1 : Stables P 65536 := hk.sub rfl
  have k2 : Stables P 1152921504606846976 := hk.sub rfl
  have k3 : Stables P 33628160 := hk.sub rfl
  repeat' first
    | intro _
    | with_reducible exact h
    | with_reducible assumption
    | with_reducible apply Inv.setHState k0
    | with_reducible apply Inv.setN k1
    | with_reducible apply Inv.sendCtl k2
    | with_reducible apply Inv.raise k3
    | with_reducible apply Inv.ite
    | with_reducible apply Inv.getD
    | with_reducible apply Inv.foldl
    | fail_if_no_progress (first | with_reducible refine Inv.lit hk ?_ | fail)
    | split
    | dsimp only
    | exact h

theorem Inv.bootLeaf {P : State → Prop} (hk : Stables P 9223372036888403968) {t : State} (h : P t) (r : BootReport) : P (State.bootLeaf t r) := by
  unfold State.bootLeaf
  have k0 : Stables P 65536 := hk.sub rfl
  have k1 : Stables P 9223372036888403968 := hk.sub rfl
  repeat' first
    | intro _
    | with_reducible exact h
    | with_reducible assumption
    | with_reducible apply Inv.setN k0
    | with_reducible apply Inv.resumeLeaf k1
    | with_reducible apply Inv.ite
    | with_reducible apply Inv.getD
    | fail_if_no_progress (first | with_reducible refine Inv.lit hk ?_ | fail)
    | split
    | dsimp only
    | exact h

theorem Inv.bootUnits {P : State → Prop} (hk : Stables P 10376412288751100928) {t : State} (h : P t) (r : BootReport) : P (State.bootUnits t r) := by
  unfold State.bootUnits
  have k0 : Stables P 65536 := hk.sub rfl
  have k1 : Stables P 33628160 := hk.sub rfl
  have k2 : Stables P 118747289477120 := hk.sub rfl
  have k3 : Stables P 1152921504640475136 := hk.sub rfl
  have k4 : Stables P 9223372036888403968 := hk.sub rfl
  have k5 : Stables P 33628160 := hk.sub rfl
  repeat' first
    | intro _
    | with_reducible exact h
    | with_reducible assumption
    | with_reducible apply Inv.setN k0
    | with_reducible apply Inv.raise k1
    | with_reducible apply Inv.bootFlashUnits k2
    | with_reducible apply Inv.bootHedge k3
    | with_reducible apply Inv.bootLeaf k4
    | with_reducible apply Inv.endStage k5
    | with_reducible apply Inv.ite
    | with_reducible apply Inv.getD
    | with_reducible apply Inv.foldl
    | fail_if_no_progress (first | with_reducible refine Inv.lit hk ?_ | fail)
    | split
    | dsimp only
    | exact h

theorem Inv.loadMap {P : State → Prop} (hk : Stables P 8796093022208) {t : State} (h : P t) (r : BootReport) : P (State.loadMap t r) := by
  unfold State.loadMap
  repeat' first
    | intro _
    | with_reducible exact h
    | with_reducible assumption
    | with_reducible apply Inv.ite
    | with_reducible apply Inv.getD
    | fail_if_no_progress (first | with_reducible refine Inv.lit hk ?_ | fail)
    | split
    | dsimp only
    | exact h

theorem Inv.recoverBlks {P : State → Prop} (hk : Stables P 4398046511104) {t : State} (h : P t) : P (State.recoverBlks t) := by
  unfold State.recoverBlks
  repeat' first
    | intro _
    | with_reducible exact h
    | with_reducible assumption
    | with_reducible apply Inv.ite
    | with_reducible apply Inv.mapD
    | with_reducible apply Inv.getD
    | fail_if_no_progress (first | with_reducible refine Inv.lit hk ?_ | fail)
    | split
    | dsimp only
    | exact h

theorem Inv.bootHold {P : State → Prop} (hk : Stables P 73787011479243923456) {t : State} (h : P t) (r : BootReport) : P (State.bootHold t r) := by
  unfold State.bootHold
  have k0 : Stables P 65536 := hk.sub rfl
  have k1 : Stables P 33628160 := hk.sub rfl
  repeat' first
    | intro _
    | with_reducible exact h
    | with_reducible assumption
    | with_reducible apply Inv.setN k0
    | with_reducible apply Inv.raise k1
    | with_reducible apply Inv.ite
    | with_reducible apply Inv.getD
    | fail_if_no_progress (first | with_reducible refine Inv.lit hk ?_ | fail)
    | split
    | dsimp only
    | exact h

theorem Inv.trimProvisional {P : State → Prop} (hk : Stables P 26388279066624) {t : State} (h : P t) : P (State.trimProvisional t) := by
  unfold State.trimProvisional
  have k0 : Stables P 8796093022208 := hk.sub rfl
  repeat' first
    | intro _
    | with_reducible exact h
    | with_reducible assumption
    | with_reducible apply Inv.trim k0
    | with_reducible apply Inv.ite
    | with_reducible apply Inv.getD
    | with_reducible apply Inv.foldl
    | fail_if_no_progress (first | with_reducible refine Inv.lit hk ?_ | fail)
    | split
    | dsimp only
    | exact h

theorem Inv.cutShards {P : State → Prop} (hk : Stables P 1099511627776) {t : State} (h : P t) (r : BootReport) : P (State.cutShards t r) := by
  unfold State.cutShards
  repeat' first
    | intro _
    | with_reducible exact h
    | with_reducible assumption
    | with_reducible apply Inv.ite
    | with_reducible apply Inv.getD
    | fail_if_no_progress (first | with_reducible refine Inv.lit hk ?_ | fail)
    | split
    | dsimp only
    | exact h

theorem Inv.logRecovered {P : State → Prop} (hk : Stables P 19791209299968) {t : State} (h : P t) (r : BootReport) : P (State.logRecovered t r) := by
  unfold State.logRecovered
  repeat' first
    | intro _
    | with_reducible exact h
    | with_reducible assumption
    | with_reducible apply Inv.ite
    | with_reducible apply Inv.getD
    | fail_if_no_progress (first | with_reducible refine Inv.lit hk ?_ | fail)
    | split
    | dsimp only
    | exact h

theorem Inv.bootFlash {P : State → Prop} (hk : Stables P 73787045564104384512) {t : State} (h : P t) (r : BootReport) : P (State.bootFlash t r) := by
  unfold State.bootFlash
  have k0 : Stables P 73787011479243923456 := hk.sub rfl
  have k1 : Stables P 8796093022208 := hk.sub rfl
  have k2 : Stables P 4398046511104 := hk.sub rfl
  have k3 : Stables P 33628160 := hk.sub rfl
  have k4 : Stables P 1099511627776 := hk.sub rfl
  have k5 : Stables P 19791209299968 := hk.sub rfl
  have k6 : Stables P 65536 := hk.sub rfl
  have k7 : Stables P 33628160 := hk.sub rfl
  repeat' first
    | intro _
    | with_reducible exact h
    | with_reducible assumption
    | with_reducible apply Inv.bootHold k0
    | with_reducible apply Inv.loadMap k1
    | with_reducible apply Inv.recoverBlks k2
    | with_reducible apply Inv.raise k3
    | with_reducible apply Inv.cutShards k4
    | with_reducible apply Inv.logRecovered k5
    | with_reducible apply Inv.setN k6
    | with_reducible apply Inv.endStage k7
    | with_reducible apply Inv.ite
    | with_reducible apply Inv.mapD
    | with_reducible apply Inv.getD
    | fail_if_no_progress (first | with_reducible refine Inv.lit hk ?_ | fail)
    | split
    | dsimp only
    | exact h

theorem Inv.finishJobs {P : State → Prop} (hk : Stables P 288400937926598656) {t : State} (h : P t) (i : Nat) : P (State.finishJobs t i) := by
  unfold State.finishJobs
  have k0 : Stables P 1099511627776 := hk.sub rfl
  have k1 : Stables P 288233812159176704 := hk.sub rfl
  have k2 : Stables P 288233812159176704 := hk.sub rfl
  have k3 : Stables P 168225312677888 := hk.sub rfl
  repeat' first
    | intro _
    | with_reducible exact h
    | with_reducible assumption
    | with_reducible apply Inv.modShard k0
    | with_reducible apply Inv.recoverSeal k1
    | with_reducible apply Inv.recoverCompact k2
    | with_reducible apply Inv.recoverReplica k3
    | with_reducible apply Inv.ite
    | with_reducible apply Inv.getD
    | fail_if_no_progress (first | with_reducible refine Inv.lit hk ?_ | fail)
    | split
    | dsimp only
    | exact h

theorem Inv.loadSeg {P : State → Prop} (hk : Stables P 141837033611264) {t : State} (h : P t) (r : BootReport) (i : Nat) (h_ : Shard) (n : Nat) (g : Seg) : P (State.loadSeg t r i h_ n g) := by
  unfold State.loadSeg
  have k0 : Stables P 1099511627776 := hk.sub rfl
  have k1 : Stables P 33628160 := hk.sub rfl
  have k2 : Stables P 140737488355328 := hk.sub rfl
  repeat' first
    | intro _
    | with_reducible exact h
    | with_reducible assumption
    | with_reducible apply Inv.modShard k0
    | with_reducible apply Inv.raise k1
    | refine Inv.placeSeg k2 (hu := by assumption) ?_
    | with_reducible apply Inv.ite
    | with_reducible apply Inv.getD
    | fail_if_no_progress (first | with_reducible refine Inv.lit hk ?_ | fail)
    | split
    | dsimp only
    | exact h

theorem Inv.placeShard {P : State → Prop} (hk : Stables P 141837033611264) {t : State} (h : P t) (r : BootReport) (i : Nat) (h_ : Shard) : P (State.placeShard t r i h_) := by
  have k0 : Stables P 140737488355328 := hk.sub rfl
  have k1 : Stables P 141837033611264 := hk.sub rfl
  unfold State.placeShard
  exact Inv.foldl (fun v d hv => Inv.getD (fun u hu => Inv.growDelta k0 hv hu) hv) (Inv.foldl (fun v g hv => Inv.loadSeg k1 hv _ _ _ _ _) h)

theorem Inv.bootState {P : State → Prop} (hk : Stables P 18737116294317940736) {t : State} (h : P t) (r : BootReport) : P (State.bootState t r) := by
  have k0 : Stables P 2138550216761344 := hk.sub rfl
  have k1 : Stables P 33628160 := hk.sub rfl
  have k2 : Stables P 288400937926598656 := hk.sub rfl
  have k3 : Stables P 18446744073709551616 := hk.sub rfl
  have k4 : Stables P 141837033611264 := hk.sub rfl
  have k5 : Stables P 33628160 := hk.sub rfl
  have k6 : Stables P 65536 := hk.sub rfl
  have k7 : Stables P 1099511693312 := hk.sub rfl
  have k8 : Stables P 26388279066624 := hk.sub rfl
  unfold State.bootState
  extract_lets s0 s1 s2 s3 s4 s5 fresh s6 owed s7
  have h0 : P s0 := Inv.setN k6 h _ _ _
  clear_value s0
  have h1 : P s1 := Inv.foldl (fun v x hv => Inv.finishJobs k2 hv _) h0
  clear_value s1
  have h2 : P s2 := Inv.lit hk h1
  clear_value s2
  have h3 : P s3 := Inv.ite h2 (Inv.trimProvisional k8 h2)
  clear_value s3
  have h4 : P s4 := Inv.foldl (fun v x hv => Inv.setSlotState k7 (Inv.placeShard k4 hv _ _ _) _ _) h3
  clear_value s4
  have h5 : P s5 := Inv.foldl (fun v x hv => Inv.applySlot k0 hv _) h4
  clear_value s5
  have h6 : P s6 := Inv.lit hk h5
  clear_value s6
  have h7 : P s7 := Inv.foldl (fun v x hv => Inv.raise k5 (Inv.setN k6 (Inv.modPart k3 hv _ _) _ _ _) _ _ _) h6
  exact Inv.endStage k1 h7 _

theorem Inv.bootService {P : State → Prop} (hk : Stables P 36893488147452863250) {t : State} (h : P t) (r : BootReport) : P (State.bootService t r) := by
  have k0 : Stables P 65536 := hk.sub rfl
  have k1 : Stables P 33628160 := hk.sub rfl
  have k2 : Stables P 65536 := hk.sub rfl
  have k3 : Stables P 65536 := hk.sub rfl
  have k4 : Stables P 36893488147419168768 := hk.sub rfl
  unfold State.bootService
  split
  · exact Inv.stopBoot k4 (Inv.raise k1 h _ _ _) _
  · extract_lets src step pw s1 d s2 s3 src3 s4
    have h1 : P s1 := Inv.lit hk h
    clear_value s1
    have h2 : P s2 := Inv.setN k3 (Inv.setN k3 (Inv.setLive k2 (Inv.setLive k2 h1 _ _ _) _ _ _) _ _ _) _ _ _
    clear_value s2
    have h3 : P s3 := Inv.flashFigures k0 h2
    clear_value s3
    have h4 : P s4 := Inv.lit hk h3
    exact Inv.raise k1 (Inv.raise k1 h4 _ _ _) _ _ _

theorem Inv.andThen {P : State → Prop} {x : StageOut} {f : State → StageOut} (hx : P x.1) (hf : ∀ v, P v → P (f v).1) :
    P (x.andThen f).1 := by
  unfold StageOut.andThen
  split
  · exact hf _ hx
  · exact hx

theorem Inv.execPowerOn {P : State → Prop} (hk : Stables P 730089794587905486618) {t : State} (h : P t) (r : BootReport) : Ends P (Sys2Proof.Machine.execPowerOn r t) := by
  have k0 : Stables P 110680464442290937872 := hk.sub rfl
  have k1 : Stables P 46116860184307556352 := hk.sub rfl
  have k2 : Stables P 73787045564104384512 := hk.sub rfl
  have k3 : Stables P 36893488147452733448 := hk.sub rfl
  have k4 : Stables P 73786976294871835648 := hk.sub rfl
  have k5 : Stables P 36893488147452863250 := hk.sub rfl
  have k6 : Stables P 18737116294317940736 := hk.sub rfl
  have k7 : Stables P 10376412288751100928 := hk.sub rfl
  have k8 : Stables P 33628160 := hk.sub rfl
  have k9 : Stables P 590295810358705651712 := hk.sub rfl
  have k10 : Stables P 65536 := hk.sub rfl
  have body : ∀ v, P v → P ((((v.bootGates r).andThen fun s => s.bootFirmware r).andThen fun s => s.bootClocks r).andThen
      fun s => (((((s.bootPlots r).bootUnits r).bootFlash r).bootState r).bootService r, true)).1 := by
    intro v hv
    refine Inv.andThen (Inv.andThen (Inv.andThen (Inv.bootGates k3 hv _) fun _ g => Inv.bootFirmware k1 g _)
      fun _ g => Inv.bootClocks k0 g _) fun _ g => ?_
    exact Inv.bootService k5 (Inv.bootState k6 (Inv.bootFlash k2 (Inv.bootUnits k7
      (Inv.bootPlots k4 g _) _) _) _) _
  have start : P (if t.pwr.boot = .off then t.powerDown.endStage 0 else t.powerDown.setN 0xA050 1 1) :=
    Inv.ite (Inv.endStage k8 (Inv.powerDown k9 h) _) (Inv.setN k10 (Inv.powerDown k9 h) _ _ _)
  unfold Sys2Proof.Machine.execPowerOn
  split
  · exact Ends.next (body _ start)
  · exact Ends.next (body _ start)
  · exact Ends.next h

end Sys2Proof.Machine
end

