-- ==== Sys2Proof/Laws/KeepsCommitCheck.lean ====
section
/-! SUPPORT. What the operations of Machine/CommitCheck.lean leave as it is: one lemma for each. -/

set_option linter.unusedTactic false
set_option linter.unreachableTactic false
set_option linter.unusedVariables false

namespace Sys2Proof.Machine
set_option Elab.async false

theorem Inv.ringRecord {P : State → Prop} (hk : Stables P 1181168081471862276096) {t u : State} (h : P t) {r : Bytes} (hu : State.ringRecord t r = .inr u) : P u := by
  have k0 : Stables P 1180591620719558852608 := hk.sub rfl
  have k1 : Stables P 2147483648 := hk.sub rfl
  have k2 : Stables P 65536 := hk.sub rfl
  unfold State.ringRecord at hu
  dsimp only at hu
  repeat' split at hu
  all_goals first
    | cases hu
    | skip
  all_goals repeat' first
    | intro _
    | with_reducible exact h
    | with_reducible apply Inv.destroyRing k0
    | with_reducible apply Inv.modRing k1
    | with_reducible apply Inv.setN k2
    | fail_if_no_progress (first | with_reducible refine Inv.lit hk ?_ | fail)

theorem Inv.ringSetup {P : State → Prop} (hk : Stables P 1181168081471862276096) {t u : State} (h : P t) {i : Nat} {l : List Bytes} (hu : State.ringSetup t i l = .inr u) : P u := by
  have k0 : Stables P 1181168081471862276096 := hk.sub rfl
  induction l generalizing t i with
  | nil => unfold State.ringSetup at hu; cases hu; exact h
  | cons r l ih =>
    unfold State.ringSetup at hu
    split at hu
    · cases hu
    · exact ih (Inv.ringRecord k0 h (by assumption)) hu

end Sys2Proof.Machine
end

