-- ==== Sys2Proof/Laws/KeepsCommit.lean ====
section
/-! SUPPORT. What the operations of Machine/Commit.lean leave as it is: one lemma for each. -/

set_option linter.unusedTactic false
set_option linter.unreachableTactic false
set_option linter.unusedVariables false

namespace Sys2Proof.Machine
set_option Elab.async false

theorem Inv.setCodebooks {P : State → Prop} (hk : Stables P 2251799813750784) {t : State} (h : P t) (l : List Codebook) : P (State.setCodebooks t l) := by
  unfold State.setCodebooks
  have k0 : Stables P 65536 := hk.sub rfl
  repeat' first
    | intro _
    | with_reducible exact h
    | with_reducible assumption
    | with_reducible apply Inv.setN k0
    | with_reducible apply Inv.ite
    | with_reducible apply Inv.getD
    | fail_if_no_progress (first | with_reducible refine Inv.lit hk ?_ | fail)
    | split
    | dsimp only
    | exact h

theorem Inv.loadModel {P : State → Prop} (hk : Stables P 4503599627436032) {t : State} (h : P t) (m : Nat) (v : Bytes) (part : Nat) : P (State.loadModel t m v part) := by
  unfold State.loadModel
  have k0 : Stables P 65536 := hk.sub rfl
  repeat' first
    | intro _
    | with_reducible exact h
    | with_reducible assumption
    | with_reducible apply Inv.setN k0
    | with_reducible apply Inv.ite
    | with_reducible apply Inv.getD
    | fail_if_no_progress (first | with_reducible refine Inv.lit hk ?_ | fail)
    | split
    | dsimp only
    | exact h

theorem Inv.postGrad {P : State → Prop} (hk : Stables P 324259173204303872) {t : State} (h : P t) (v : Bytes) : P (State.postGrad t v) := by
  unfold State.postGrad
  have k0 : Stables P 324259173204303872 := hk.sub rfl
  repeat' first
    | intro _
    | with_reducible exact h
    | with_reducible assumption
    | with_reducible apply Inv.takeBatch k0
    | with_reducible apply Inv.ite
    | with_reducible apply Inv.getD
    | fail_if_no_progress (first | with_reducible refine Inv.lit hk ?_ | fail)
    | split
    | dsimp only
    | exact h

theorem Inv.openSession {P : State → Prop} (hk : Stables P 576460752345440256) {t : State} (h : P t) (src : Src) (v : Bytes) : P (State.openSession t src v) := by
  unfold State.openSession
  have k0 : Stables P 8388608 := hk.sub rfl
  have k1 : Stables P 65536 := hk.sub rfl
  have k2 : Stables P 33628160 := hk.sub rfl
  repeat' first
    | intro _
    | with_reducible exact h
    | with_reducible assumption
    | with_reducible apply Inv.modResult k0
    | with_reducible apply Inv.setN k1
    | with_reducible apply Inv.raise k2
    | with_reducible apply Inv.ite
    | with_reducible apply Inv.getD
    | fail_if_no_progress (first | with_reducible refine Inv.lit hk ?_ | fail)
    | split
    | dsimp only
    | exact h

theorem Inv.schedule {P : State → Prop} (hk : Stables P 18446744073709551616) {t : State} (h : P t) (p : Nat) (v : Bytes) : P (State.schedule t p v) := by
  unfold State.schedule
  have k0 : Stables P 18446744073709551616 := hk.sub rfl
  repeat' first
    | intro _
    | with_reducible exact h
    | with_reducible assumption
    | with_reducible apply Inv.modPart k0
    | with_reducible apply Inv.ite
    | with_reducible apply Inv.getD
    | fail_if_no_progress (first | with_reducible refine Inv.lit hk ?_ | fail)
    | split
    | dsimp only
    | exact h

theorem Inv.raiseSvn {P : State → Prop} (hk : Stables P 65536) {t : State} (h : P t) (v : Nat) : P (State.raiseSvn t v) := by
  unfold State.raiseSvn
  have k0 : Stables P 65536 := hk.sub rfl
  repeat' first
    | intro _
    | with_reducible exact h
    | with_reducible assumption
    | with_reducible apply Inv.setLive k0
    | with_reducible apply Inv.ite
    | with_reducible apply Inv.getD
    | with_reducible apply Inv.foldl
    | fail_if_no_progress (first | with_reducible refine Inv.lit hk ?_ | fail)
    | split
    | dsimp only
    | exact h

theorem Inv.applyEntry {P : State → Prop} (hk : Stables P 1246206851774458994688) {t : State} (h : P t) (src : Src) (part k : Nat) (v : Bytes) : P (State.applyEntry t src part k v) := by
  unfold State.applyEntry
  have k0 : Stables P 1181168081471862276096 := hk.sub rfl
  have k1 : Stables P 2251799813750784 := hk.sub rfl
  have k2 : Stables P 4503599627436032 := hk.sub rfl
  have k3 : Stables P 65536 := hk.sub rfl
  have k4 : Stables P 324259173204303872 := hk.sub rfl
  have k5 : Stables P 144115188075855872 := hk.sub rfl
  have k6 : Stables P 18446744073709551616 := hk.sub rfl
  have k7 : Stables P 9223372036854775808 := hk.sub rfl
  have k8 : Stables P 65536 := hk.sub rfl
  have k9 : Stables P 8388608 := hk.sub rfl
  have k10 : Stables P 576460752345440256 := hk.sub rfl
  have k11 : Stables P 576460752303489024 := hk.sub rfl
  have k12 : Stables P 1099511627776 := hk.sub rfl
  repeat' first
    | intro _
    | with_reducible exact h
    | with_reducible assumption
    | refine Inv.ringSetup k0 (hu := by assumption) ?_
    | with_reducible apply Inv.setCodebooks k1
    | with_reducible apply Inv.loadModel k2
    | with_reducible apply Inv.setN k3
    | with_reducible apply Inv.postGrad k4
    | with_reducible apply Inv.askFlush k5
    | with_reducible apply Inv.schedule k6
    | with_reducible apply Inv.stageImage k7
    | with_reducible apply Inv.raiseSvn k8
    | with_reducible apply Inv.modResult k9
    | with_reducible apply Inv.openSession k10
    | with_reducible apply Inv.closeSessions k11
    | with_reducible apply Inv.modShard k12
    | with_reducible apply Inv.ite
    | with_reducible apply Inv.getD
    | fail_if_no_progress (first | with_reducible refine Inv.lit hk ?_ | fail)
    | split
    | dsimp only
    | exact h

theorem Inv.stagePlans {P : State → Prop} (hk : Stables P 66048) {t : State} (h : P t) (c : CommitCtx) : P (State.stagePlans t c) := by
  unfold State.stagePlans
  have k0 : Stables P 65536 := hk.sub rfl
  repeat' first
    | intro _
    | with_reducible exact h
    | with_reducible assumption
    | with_reducible apply Inv.setN k0
    | with_reducible apply Inv.ite
    | with_reducible apply Inv.getD
    | fail_if_no_progress (first | with_reducible refine Inv.lit hk ?_ | fail)
    | split
    | dsimp only
    | exact h

theorem Inv.withValues {P : State → Prop} (hk : Stables P 802816) {t : State} (h : P t) (vals : List (Nat × Bytes)) : P (State.withValues t vals) := by
  unfold State.withValues
  repeat' first
    | intro _
    | with_reducible exact h
    | with_reducible assumption
    | with_reducible apply Inv.ite
    | with_reducible apply Inv.mapD
    | with_reducible apply Inv.getD
    | with_reducible apply Inv.foldl
    | with_reducible apply Inv.foldFst
    | with_reducible apply Inv.foldSnd
    | fail_if_no_progress (first | with_reducible refine Inv.lit hk ?_ | fail)
    | split
    | dsimp only
    | exact h

theorem Inv.applySet {P : State → Prop} (hk : Stables P 1246206851774459798016) {t : State} (h : P t) (c : CommitCtx) : P (State.applySet t c) := by
  unfold State.applySet
  have k0 : Stables P 802816 := hk.sub rfl
  have k1 : Stables P 33628160 := hk.sub rfl
  have k2 : Stables P 65536 := hk.sub rfl
  have k3 : Stables P 1246206851774458994688 := hk.sub rfl
  have k4 : Stables P 66048 := hk.sub rfl
  have k5 : Stables P 65536 := hk.sub rfl
  repeat' first
    | intro _
    | with_reducible exact h
    | with_reducible assumption
    | with_reducible apply Inv.withValues k0
    | with_reducible apply Inv.raise k1
    | with_reducible apply Inv.bump k2
    | with_reducible apply Inv.applyEntry k3
    | with_reducible apply Inv.stagePlans k4
    | with_reducible apply Inv.setLive k5
    | with_reducible apply Inv.ite
    | with_reducible apply Inv.getD
    | with_reducible apply Inv.foldl
    | fail_if_no_progress (first | with_reducible refine Inv.lit hk ?_ | fail)
    | split
    | dsimp only
    | exact h

theorem Inv.rejectSet {P : State → Prop} (hk : Stables P 33628160) {t : State} (h : P t) (r : Reject) : P (State.rejectSet t r) := by
  unfold State.rejectSet
  have k0 : Stables P 33628160 := hk.sub rfl
  repeat' first
    | intro _
    | with_reducible exact h
    | with_reducible assumption
    | with_reducible apply Inv.raise k0
    | with_reducible apply Inv.ite
    | with_reducible apply Inv.getD
    | with_reducible apply Inv.foldl
    | fail_if_no_progress (first | with_reducible refine Inv.lit hk ?_ | fail)
    | split
    | dsimp only
    | exact h

theorem Inv.finishCommit {P : State → Prop} (hk : Stables P 1246206851774467138048) {t : State} (h : P t) (q : CommitReq) : P (State.finishCommit t q) := by
  unfold State.finishCommit
  have k0 : Stables P 802816 := hk.sub rfl
  have k1 : Stables P 1246206851774459798016 := hk.sub rfl
  have k2 : Stables P 33628160 := hk.sub rfl
  have k3 : Stables P 1048576 := hk.sub rfl
  have k4 : Stables P 8388608 := hk.sub rfl
  repeat' first
    | intro _
    | with_reducible exact h
    | with_reducible assumption
    | with_reducible apply Inv.withValues k0
    | with_reducible apply Inv.applySet k1
    | with_reducible apply Inv.rejectSet k2
    | with_reducible apply Inv.dropSet k3
    | with_reducible apply Inv.modResult k4
    | with_reducible apply Inv.ite
    | with_reducible apply Inv.mapD
    | with_reducible apply Inv.getD
    | fail_if_no_progress (first | with_reducible refine Inv.lit hk ?_ | fail)
    | split
    | dsimp only
    | exact h

theorem Inv.commitNext {P : State → Prop} (hk : Stables P 1246206851774467138048) {t : State} (h : P t) : P (State.commitNext t) := by
  unfold State.commitNext
  have k0 : Stables P 1246206851774467138048 := hk.sub rfl
  repeat' first
    | intro _
    | with_reducible exact h
    | with_reducible assumption
    | with_reducible apply Inv.finishCommit k0
    | with_reducible apply Inv.ite
    | with_reducible apply Inv.getD
    | fail_if_no_progress (first | with_reducible refine Inv.lit hk ?_ | fail)
    | split
    | dsimp only
    | exact h

theorem Inv.execCommitApply {P : State → Prop} (hk : Stables P 1246206851774467138048) {t : State} (h : P t) : Ends P (Sys2Proof.Machine.execCommitApply t) := by
  unfold Sys2Proof.Machine.execCommitApply
  have k0 : Stables P 1246206851774467138048 := hk.sub rfl
  repeat' first
    | with_reducible apply Ends.next
    | with_reducible apply Ends.ite
    | intro _
    | with_reducible exact h
    | with_reducible assumption
    | with_reducible apply Inv.commitNext k0
    | with_reducible apply Inv.ite
    | with_reducible apply Inv.getD
    | fail_if_no_progress (first | with_reducible refine Inv.lit hk ?_ | fail)
    | split
    | dsimp only
    | exact h

theorem Inv.commitsDueFrom {P : State → Prop} (hk : Stables P 1246206851774467138048) {t : State} (h : P t)  (fuel_ : Nat) : P (State.commitsDueFrom t fuel_) := by
  have k0 : Stables P 1246206851774467138048 := hk.sub rfl
  induction fuel_ generalizing t  with
  | zero => simpa only [State.commitsDueFrom] using h
  | succ n_ ih =>
    unfold State.commitsDueFrom
    repeat' first
    | intro _
    | with_reducible exact h
    | with_reducible assumption
    | with_reducible apply ih
    | with_reducible apply Inv.finishCommit k0
    | with_reducible apply Inv.ite
    | split
    | fail_if_no_progress (first | with_reducible refine Inv.lit hk ?_ | fail)
    | dsimp only

theorem Inv.commitsDue {P : State → Prop} (hk : Stables P 1246206851774467138048) {t : State} (h : P t) : P (State.commitsDue t) := by
  unfold State.commitsDue
  have k0 : Stables P 1246206851774467138048 := hk.sub rfl
  repeat' first
    | intro _
    | with_reducible exact h
    | with_reducible assumption
    | with_reducible apply Inv.commitsDueFrom k0
    | with_reducible apply Inv.ite
    | with_reducible apply Inv.getD
    | fail_if_no_progress (first | with_reducible refine Inv.lit hk ?_ | fail)
    | split
    | dsimp only
    | exact h

end Sys2Proof.Machine
end

