-- ==== Sys2Proof/Laws/KeepsSteps.lean ====
section
/-! SUPPORT. What the operations of Machine/Steps.lean leave as it is: one lemma for each. -/

set_option linter.unusedTactic false
set_option linter.unreachableTactic false
set_option linter.unusedVariables false

namespace Sys2Proof.Machine
set_option Elab.async false

theorem Inv.doPlanDrain {P : State → Prop} (hk : Stables P 33628672) {t : State} (h : P t) : P (State.doPlanDrain t) := by
  unfold State.doPlanDrain
  have k0 : Stables P 65536 := hk.sub rfl
  have k1 : Stables P 33628160 := hk.sub rfl
  repeat' first
    | intro _
    | with_reducible exact h
    | with_reducible assumption
    | with_reducible apply Inv.setN k0
    | with_reducible apply Inv.raise k1
    | with_reducible apply Inv.ite
    | with_reducible apply Inv.getD
    | fail_if_no_progress (first | with_reducible refine Inv.lit hk ?_ | fail)
    | split
    | dsimp only
    | exact h

theorem Inv.takeMoment {P : State → Prop} (hk : Stables P 32768) {t : State} (h : P t) : P (State.takeMoment t) := by
  unfold State.takeMoment
  have k0 : Stables P 32768 := hk.sub rfl
  repeat' first
    | intro _
    | with_reducible exact h
    | with_reducible assumption
    | with_reducible apply Inv.setAct k0
    | with_reducible apply Inv.ite
    | with_reducible apply Inv.getD
    | with_reducible apply Inv.foldl
    | with_reducible apply Inv.foldFst
    | with_reducible apply Inv.foldSnd
    | fail_if_no_progress (first | with_reducible refine Inv.lit hk ?_ | fail)
    | split
    | dsimp only
    | exact h

theorem Inv.divideSram {P : State → Prop} (hk : Stables P 281474976776192) {t : State} (h : P t) (old : State) : P (State.divideSram t old) := by
  unfold State.divideSram
  have k0 : Stables P 65536 := hk.sub rfl
  have k1 : Stables P 281474976776192 := hk.sub rfl
  repeat' first
    | intro _
    | with_reducible exact h
    | with_reducible assumption
    | with_reducible apply Inv.setN k0
    | with_reducible apply Inv.dropFrames k1
    | with_reducible apply Inv.ite
    | with_reducible apply Inv.getD
    | fail_if_no_progress (first | with_reducible refine Inv.lit hk ?_ | fail)
    | split
    | dsimp only
    | exact h

theorem Inv.leaveSeedling {P : State → Prop} (hk : Stables P 73786976294871835152) {t : State} (h : P t) (ps : PlanSet) : P (State.leaveSeedling t ps) := by
  unfold State.leaveSeedling
  have k0 : Stables P 73786976294838272016 := hk.sub rfl
  have k1 : Stables P 65536 := hk.sub rfl
  have k2 : Stables P 33628160 := hk.sub rfl
  repeat' first
    | intro _
    | with_reducible exact h
    | with_reducible assumption
    | with_reducible apply Inv.clockTo k0
    | with_reducible apply Inv.setN k1
    | with_reducible apply Inv.raise k2
    | with_reducible apply Inv.ite
    | with_reducible apply Inv.mapD
    | with_reducible apply Inv.getD
    | fail_if_no_progress (first | with_reducible refine Inv.lit hk ?_ | fail)
    | split
    | dsimp only
    | exact h

theorem Inv.auditsEnd {P : State → Prop} (hk : Stables P 1183338816900310310912) {t : State} (h : P t) : P (State.auditsEnd t) := by
  unfold State.auditsEnd
  have k0 : Stables P 1183338816900310310912 := hk.sub rfl
  repeat' first
    | intro _
    | with_reducible exact h
    | with_reducible assumption
    | with_reducible apply Inv.failAudit k0
    | with_reducible apply Inv.ite
    | with_reducible apply Inv.getD
    | with_reducible apply Inv.foldl
    | fail_if_no_progress (first | with_reducible refine Inv.lit hk ?_ | fail)
    | split
    | dsimp only
    | exact h

theorem Inv.doPlanActivate {P : State → Prop} (hk : Stables P 1257198695214116610640) {t : State} (h : P t) : P (State.doPlanActivate t) := by
  unfold State.doPlanActivate
  have k0 : Stables P 32768 := hk.sub rfl
  have k1 : Stables P 297237575440080896 := hk.sub rfl
  have k2 : Stables P 281474976776192 := hk.sub rfl
  have k3 : Stables P 72620543991349248 := hk.sub rfl
  have k4 : Stables P 65536 := hk.sub rfl
  have k5 : Stables P 65536 := hk.sub rfl
  have k6 : Stables P 33628160 := hk.sub rfl
  have k7 : Stables P 73786976294871835152 := hk.sub rfl
  have k8 : Stables P 1183338816900310310912 := hk.sub rfl
  repeat' first
    | intro _
    | with_reducible exact h
    | with_reducible assumption
    | with_reducible apply Inv.takeMoment k0
    | with_reducible apply Inv.roleActivate k1
    | with_reducible apply Inv.divideSram k2
    | with_reducible apply Inv.hostGroupsAt k3
    | with_reducible apply Inv.setN k4
    | with_reducible apply Inv.setLive k5
    | with_reducible apply Inv.raise k6
    | with_reducible apply Inv.leaveSeedling k7
    | with_reducible apply Inv.auditsEnd k8
    | with_reducible apply Inv.ite
    | with_reducible apply Inv.getD
    | with_reducible apply Inv.foldl
    | fail_if_no_progress (first | with_reducible refine Inv.lit hk ?_ | fail)
    | split
    | dsimp only
    | exact h

theorem Inv.outNow {P : State → Prop} (hk : Stables P 1183339943899728781312) {t : State} (h : P t) : P (State.outNow t) := by
  unfold State.outNow
  have k0 : Stables P 1099511627776 := hk.sub rfl
  have k1 : Stables P 1183338816900310310912 := hk.sub rfl
  have k2 : Stables P 1183338816900310310912 := hk.sub rfl
  repeat' first
    | intro _
    | with_reducible exact h
    | with_reducible assumption
    | with_reducible apply Inv.modShard k0
    | with_reducible apply Inv.loseAll k1
    | with_reducible apply Inv.failAudit k2
    | with_reducible apply Inv.ite
    | with_reducible apply Inv.getD
    | with_reducible apply Inv.foldl
    | fail_if_no_progress (first | with_reducible refine Inv.lit hk ?_ | fail)
    | split
    | dsimp only
    | exact h

theorem Inv.restartSeal {P : State → Prop} (hk : Stables P 1099545255936) {t : State} (h : P t) (i : Nat) : P (State.restartSeal t i) := by
  unfold State.restartSeal
  have k0 : Stables P 1099511627776 := hk.sub rfl
  have k1 : Stables P 1099511627776 := hk.sub rfl
  have k2 : Stables P 33628160 := hk.sub rfl
  repeat' first
    | intro _
    | with_reducible exact h
    | with_reducible assumption
    | with_reducible apply Inv.modJob k0
    | with_reducible apply Inv.modShard k1
    | with_reducible apply Inv.raise k2
    | with_reducible apply Inv.ite
    | with_reducible apply Inv.getD
    | fail_if_no_progress (first | with_reducible refine Inv.lit hk ?_ | fail)
    | split
    | dsimp only
    | exact h

theorem Inv.showShard {P : State → Prop} (hk : Stables P 1237051318272) {t : State} (h : P t) (i : Nat) : P (State.showShard t i) := by
  unfold State.showShard
  have k0 : Stables P 1099511627776 := hk.sub rfl
  have k1 : Stables P 137472581632 := hk.sub rfl
  have k2 : Stables P 100737024 := hk.sub rfl
  repeat' first
    | intro _
    | with_reducible exact h
    | with_reducible assumption
    | with_reducible apply Inv.modShard k0
    | with_reducible apply Inv.queueRoot k1
    | with_reducible apply Inv.raiseRun k2
    | with_reducible apply Inv.ite
    | with_reducible apply Inv.getD
    | with_reducible apply Inv.foldl
    | fail_if_no_progress (first | with_reducible refine Inv.lit hk ?_ | fail)
    | split
    | dsimp only
    | exact h

theorem Inv.sampleBells {P : State → Prop} (hk : Stables P 2147483648) {t : State} (h : P t) : P (State.sampleBells t) := by
  unfold State.sampleBells
  repeat' first
    | intro _
    | with_reducible exact h
    | with_reducible assumption
    | with_reducible apply Inv.ite
    | with_reducible apply Inv.getD
    | fail_if_no_progress (first | with_reducible refine Inv.lit hk ?_ | fail)
    | split
    | dsimp only
    | exact h

theorem Inv.takeUpdates {P : State → Prop} (hk : Stables P 1183185695268961067008) {t : State} (h : P t) : P (State.takeUpdates t) := by
  unfold State.takeUpdates
  have k0 : Stables P 1183185695268961067008 := hk.sub rfl
  repeat' first
    | intro _
    | with_reducible exact h
    | with_reducible assumption
    | with_reducible apply Inv.serveUpdate k0
    | with_reducible apply Inv.ite
    | with_reducible apply Inv.getD
    | with_reducible apply Inv.foldl
    | fail_if_no_progress (first | with_reducible refine Inv.lit hk ?_ | fail)
    | split
    | dsimp only
    | exact h

theorem Inv.admitUpdates {P : State → Prop} (hk : Stables P 1183185695268961067008) {t : State} (h : P t) : P (State.admitUpdates t) := by
  unfold State.admitUpdates
  have k0 : Stables P 100737024 := hk.sub rfl
  have k1 : Stables P 1183185695268961067008 := hk.sub rfl
  have k2 : Stables P 65536 := hk.sub rfl
  repeat' first
    | intro _
    | with_reducible exact h
    | with_reducible assumption
    | with_reducible apply Inv.raiseRun k0
    | with_reducible apply Inv.takeUpdates k1
    | with_reducible apply Inv.bump k2
    | with_reducible apply Inv.ite
    | with_reducible apply Inv.getD
    | fail_if_no_progress (first | with_reducible refine Inv.lit hk ?_ | fail)
    | split
    | dsimp only
    | exact h

theorem Inv.admitReplay {P : State → Prop} (hk : Stables P 1183338816900310310912) {t : State} (h : P t) (a : AdmSlot) (r : Replay) : P (State.admitReplay t a r) := by
  unfold State.admitReplay
  have k0 : Stables P 2147483648 := hk.sub rfl
  have k1 : Stables P 32212320256 := hk.sub rfl
  have k2 : Stables P 65536 := hk.sub rfl
  have k3 : Stables P 65536 := hk.sub rfl
  have k4 : Stables P 33628160 := hk.sub rfl
  have k5 : Stables P 1183338816900276748288 := hk.sub rfl
  have k6 : Stables P 288230376185339904 := hk.sub rfl
  repeat' first
    | intro _
    | with_reducible exact h
    | with_reducible assumption
    | with_reducible apply Inv.modRing k0
    | with_reducible apply Inv.allocate k1
    | with_reducible apply Inv.bump k2
    | with_reducible apply Inv.useGrant k3
    | with_reducible apply Inv.raise k4
    | with_reducible apply Inv.completeEmpty k5
    | with_reducible apply Inv.sendSubs k6
    | with_reducible apply Inv.ite
    | with_reducible apply Inv.mapD
    | with_reducible apply Inv.getD
    | fail_if_no_progress (first | with_reducible refine Inv.lit hk ?_ | fail)
    | split
    | dsimp only
    | exact h

theorem Inv.admitOne {P : State → Prop} (hk : Stables P 1183338817450133233664) {t : State} (h : P t) (e ring : Nat) : P (State.admitOne t e ring) := by
  unfold State.admitOne
  have k0 : Stables P 288230992580255744 := hk.sub rfl
  have k1 : Stables P 1183338816900310310912 := hk.sub rfl
  have k2 : Stables P 1183194701368704180224 := hk.sub rfl
  repeat' first
    | intro _
    | with_reducible exact h
    | with_reducible assumption
    | with_reducible apply Inv.serveSub k0
    | with_reducible apply Inv.admitReplay k1
    | with_reducible apply Inv.serveRequest k2
    | with_reducible apply Inv.ite
    | with_reducible apply Inv.mapD
    | with_reducible apply Inv.getD
    | fail_if_no_progress (first | with_reducible refine Inv.lit hk ?_ | fail)
    | split
    | dsimp only
    | exact h

theorem Inv.dropReplays {P : State → Prop} (hk : Stables P 1183194701372898476032) {t : State} (h : P t) : P (State.dropReplays t) := by
  unfold State.dropReplays
  have k0 : Stables P 1183194701372898476032 := hk.sub rfl
  have k1 : Stables P 1183194701372898476032 := hk.sub rfl
  repeat' first
    | intro _
    | with_reducible exact h
    | with_reducible assumption
    | with_reducible apply Inv.failReplay k0
    | with_reducible apply Inv.endReplay k1
    | with_reducible apply Inv.ite
    | with_reducible apply Inv.getD
    | with_reducible apply Inv.foldl
    | fail_if_no_progress (first | with_reducible refine Inv.lit hk ?_ | fail)
    | split
    | dsimp only
    | exact h

theorem Inv.partFigures {P : State → Prop} (hk : Stables P 65536) {t : State} (h : P t) : P (State.partFigures t) := by
  unfold State.partFigures
  have k0 : Stables P 65536 := hk.sub rfl
  repeat' first
    | intro _
    | with_reducible exact h
    | with_reducible assumption
    | with_reducible apply Inv.setN k0
    | with_reducible apply Inv.ite
    | with_reducible apply Inv.getD
    | with_reducible apply Inv.foldl
    | fail_if_no_progress (first | with_reducible refine Inv.lit hk ?_ | fail)
    | split
    | dsimp only
    | exact h

theorem Inv.publish {P : State → Prop} (hk : Stables P 8585216) {t : State} (h : P t) : P (State.publish t) := by
  have k0 : Stables P 65536 := hk.sub rfl
  have k1 : Stables P 65536 := hk.sub rfl
  have k2 : Stables P 65536 := hk.sub rfl
  have g := Inv.tillFigures k2 (Inv.flashFigures k0 (Inv.partFigures k1 h))
  unfold State.publish
  extract_lets s1 z
  change P s1 at g
  clear_value s1
  exact Inv.lit hk g

theorem Inv.runItem {P : State → Prop} (hk : Stables P 3941818248099285677776) {t : State} (h : P t) (i : BItem) : P (State.runItem t i) := by
  have k0 : Stables P 1183338817450133233664 := hk.sub rfl
  have k1 : Stables P 1183185695268961067008 := hk.sub rfl
  have k2 : Stables P 9223372036854775808 := hk.sub rfl
  have k3 : Stables P 1099511627776 := hk.sub rfl
  have k4 : Stables P 288400937926598656 := hk.sub rfl
  have k5 : Stables P 1099511627776 := hk.sub rfl
  have k6 : Stables P 281474976776192 := hk.sub rfl
  have k7 : Stables P 36451009517658112 := hk.sub rfl
  have k8 : Stables P 449700255825920 := hk.sub rfl
  have k9 : Stables P 33628160 := hk.sub rfl
  have k10 : Stables P 36028797052592128 := hk.sub rfl
  have k11 : Stables P 4644337149353984 := hk.sub rfl
  have k12 : Stables P 4503599660998656 := hk.sub rfl
  have k13 : Stables P 295148186654363164672 := hk.sub rfl
  have k14 : Stables P 1257198695214116610640 := hk.sub rfl
  have k15 : Stables P 33628672 := hk.sub rfl
  have k16 : Stables P 154248697507558400 := hk.sub rfl
  have k17 : Stables P 281474976776192 := hk.sub rfl
  have k18 : Stables P 1099511693312 := hk.sub rfl
  have k19 : Stables P 1099545255936 := hk.sub rfl
  have k20 : Stables P 168225312677888 := hk.sub rfl
  have k21 : Stables P 18446744073743179776 := hk.sub rfl
  have k22 : Stables P 288233674720223232 := hk.sub rfl
  have k23 : Stables P 288400937926598656 := hk.sub rfl
  have k24 : Stables P 33628160 := hk.sub rfl
  have k25 : Stables P 1200098852000334192640 := hk.sub rfl
  have k26 : Stables P 1183194701372898476032 := hk.sub rfl
  have k27 : Stables P 2361327356622932090880 := hk.sub rfl
  have k28 : Stables P 8585216 := hk.sub rfl
  have k29 : Stables P 2147483648 := hk.sub rfl
  have k30 : Stables P 1183338816900310310912 := hk.sub rfl
  have k31 : Stables P 1237051318272 := hk.sub rfl
  cases i with
  | planDrain => exact Inv.doPlanDrain k15 h
  | planActivate => exact Inv.doPlanActivate k14 h
  | modelDrain k => exact Inv.ite (Inv.doModelDrain k12 h _) h
  | modelActivate k => exact Inv.ite (Inv.doModelActivate k11 h _) h
  | gateTakeover p => exact Inv.doGateTakeover k9 h _
  | tenantDrain p => exact Inv.doTenantDrain k24 h _
  | tenantSwitch p => exact Inv.doTenantSwitch k25 h _
  | tenantScrubEnd p => exact Inv.doScrubEnd k21 h _
  | plotLimit p => exact Inv.doPlotLimit k16 h _
  | sealFreeze p => exact Inv.doSealFreeze k22 h _
  | sealSwitch p => exact Inv.doSealSwitch k23 h _
  | replicaSwitch p => exact Inv.doReplicaSwitch k20 h _
  | deltaOpen p => exact Inv.doDeltaOpen k5 h _
  | compactChoose p => exact Inv.doCompactChoose k3 h _
  | compactSwitch p => exact Inv.doCompactSwitch k4 h _
  | promotionSwitch p => exact Inv.doPromoSwitch k17 h _
  | embSwitch p => exact Inv.doEmbSwitch k7 h _
  | rejoinLoaded p => exact Inv.doRejoinLoaded k19 h _
  | epochRelease i e => exact Inv.doEpochRelease k8 h _ _
  | loadWindow => exact Inv.doLoadWindow k10 h
  | placeWindow => exact Inv.doPlaceWindow k13 h
  | pageDemote => exact Inv.doDemote k6 h
  | rejoinAdmit => exact Inv.doRejoinAdmit k18 h
  | visibility => exact Inv.foldl (fun v x hv => Inv.showShard k31 hv _) h
  | updates => exact Inv.lit hk (Inv.dropReplays k26 (Inv.admitUpdates k1 (Inv.sampleBells k29 h)))
  | accept e r => exact Inv.admitOne k0 h _ _
  | publish => exact Inv.publish k28 (Inv.captureReports k2 (Inv.giveCredits k27 (Inv.settleLosses k30 h)))


theorem Inv.popItem {P : State → Prop} (hk : Stables P 3941818248099285677776) {t : State} (h : P t) : P (State.popItem t) := by
  unfold State.popItem
  have k0 : Stables P 3941818248099285677776 := hk.sub rfl
  repeat' first
    | intro _
    | with_reducible exact h
    | with_reducible assumption
    | with_reducible apply Inv.runItem k0
    | with_reducible apply Inv.ite
    | with_reducible apply Inv.getD
    | fail_if_no_progress (first | with_reducible refine Inv.lit hk ?_ | fail)
    | split
    | dsimp only
    | exact h

theorem Inv.drain {P : State → Prop} (hk : Stables P 3941818248099285677776) {t : State} (h : P t) (all : Bool) (fuel_ : Nat) : P (State.drain t all fuel_) := by
  have k0 : Stables P 3941818248099285677776 := hk.sub rfl
  induction fuel_ generalizing t  with
  | zero => simpa only [State.drain] using h
  | succ n_ ih =>
    unfold State.drain
    repeat' first
    | intro _
    | with_reducible exact h
    | with_reducible assumption
    | with_reducible apply ih
    | with_reducible apply Inv.popItem k0
    | with_reducible apply Inv.ite
    | split
    | fail_if_no_progress (first | with_reducible refine Inv.lit hk ?_ | fail)
    | dsimp only

theorem Inv.runTo {P : State → Prop} (hk : Stables P 3941818248099285677776) {t u : State} (h : P t) {p : State → BItem → Bool} {n_ : Nat} (hu : State.runTo t p n_ = some u) : P u := by
  have k0 : Stables P 3941818248099285677776 := hk.sub rfl
  induction n_ generalizing t with
  | zero => unfold State.runTo at hu; cases hu
  | succ n_ ih =>
    unfold State.runTo at hu
    split at hu
    · cases hu
    · split at hu
      · cases hu; exact Inv.popItem k0 h
      · exact ih (Inv.popItem k0 h) hu

theorem Inv.command {P : State → Prop} (hk : Stables P 3941818248099285677776) {t : State} (h : P t) (p : State → BItem → Bool) : P (State.command t p) := by
  have k0 : Stables P 3941818248099285677776 := hk.sub rfl
  have k1 : Stables P 3941818248099285677776 := hk.sub rfl
  unfold State.command
  split
  · exact h
  · exact Inv.drain k0 (Inv.runTo k1 h (by assumption)) _ _

theorem Inv.settleStep {P : State → Prop} (hk : Stables P 73931091482947690832) {t : State} (h : P t) : P (State.settleStep t) := by
  unfold State.settleStep
  have k0 : Stables P 144115188075855872 := hk.sub rfl
  have k1 : Stables P 73786976294871834640 := hk.sub rfl
  repeat' first
    | intro _
    | with_reducible exact h
    | with_reducible assumption
    | with_reducible apply Inv.applyFlushes k0
    | with_reducible apply Inv.settleClock k1
    | with_reducible apply Inv.ite
    | with_reducible apply Inv.mapD
    | with_reducible apply Inv.getD
    | fail_if_no_progress (first | with_reducible refine Inv.lit hk ?_ | fail)
    | split
    | dsimp only
    | exact h

theorem Inv.lastWork {P : State → Prop} (hk : Stables P 3978714023230898697936) {t : State} (h : P t) : P (State.lastWork t) := by
  unfold State.lastWork
  have k0 : Stables P 3941818248099285677776 := hk.sub rfl
  have k1 : Stables P 290344754225422336 := hk.sub rfl
  have k2 : Stables P 288231475696967680 := hk.sub rfl
  have k3 : Stables P 1183338816900310310912 := hk.sub rfl
  have k4 : Stables P 1246206851774467138048 := hk.sub rfl
  have k5 : Stables P 9223372036896792576 := hk.sub rfl
  repeat' first
    | intro _
    | with_reducible exact h
    | with_reducible assumption
    | with_reducible apply Inv.drain k0
    | with_reducible apply Inv.applyWaiting k1
    | with_reducible apply Inv.loadPartners k2
    | with_reducible apply Inv.sweepDue k3
    | with_reducible apply Inv.commitsDue k4
    | with_reducible apply Inv.reportsDue k5
    | with_reducible apply Inv.ite
    | with_reducible apply Inv.getD
    | fail_if_no_progress (first | with_reducible refine Inv.lit hk ?_ | fail)
    | split
    | dsimp only
    | exact h

theorem Inv.closeStep {P : State → Prop} (hk : Stables P 4573621524006095026160) {t : State} (h : P t) (sens : Option Sensors) : P (State.closeStep t sens) := by
  have k0 : Stables P 1183375691359209988128 := hk.sub rfl
  have k1 : Stables P 3978714023230898697936 := hk.sub rfl
  have k2 : Stables P 700976342970784620816 := hk.sub rfl
  have k3 : Stables P 4611686018528124928 := hk.sub rfl
  have k4 : Stables P 73931091482947690832 := hk.sub rfl
  have k5 : Stables P 2594073385415811072 := hk.sub rfl
  unfold State.closeStep
  extract_lets s1 s2
  have h1 : P s1 := Inv.formRoots k0 (Inv.lastWork k1 h) _
  have h2 : P s2 := by
    dsimp only [s2]
    split
    · exact Inv.powerTick k2 (Inv.latchQueues k3 h1 _ _) _
    · exact h1
  exact Inv.ite h2 (Inv.settleStep k4 (Inv.flushEvents k5 h2))

theorem Inv.closeNone {P : State → Prop} (hk : Stables P 3978714023230915475440) {t : State} (h : P t) : P (State.closeStep t none) := by
  have k0 : Stables P 1183375691359209988128 := hk.sub rfl
  have k1 : Stables P 3978714023230898697936 := hk.sub rfl
  have k4 : Stables P 73931091482947690832 := hk.sub rfl
  have k5 : Stables P 2594073385415811072 := hk.sub rfl
  have h1 := Inv.formRoots k0 (Inv.lastWork k1 h) ((none : Option Sensors).map (·.roots) |>.getD [])
  unfold State.closeStep
  generalize (t.lastWork).formRoots _ = s1 at h1 ⊢
  exact Inv.ite h1 (Inv.settleStep k4 (Inv.flushEvents k5 h1))

theorem Inv.trimLater {P : State → Prop} (hk : Stables P 73787002683117273088) {t : State} (h : P t) : P (State.trimLater t) := by
  unfold State.trimLater
  have k0 : Stables P 26388279066624 := hk.sub rfl
  repeat' first
    | intro _
    | with_reducible exact h
    | with_reducible assumption
    | with_reducible apply Inv.trimProvisional k0
    | with_reducible apply Inv.ite
    | with_reducible apply Inv.getD
    | fail_if_no_progress (first | with_reducible refine Inv.lit hk ?_ | fail)
    | split
    | dsimp only
    | exact h

theorem Inv.openStep {P : State → Prop} (hk : Stables P 13387704139741231560692) {t : State}
    (h : P { t with step := { t.step with number := t.step.number + 1 } }) : P t.openStep := by
  have k0 : Stables P 65536 := hk.sub rfl
  have k1 : Stables P 13194139533312 := hk.sub rfl
  have k2 : Stables P 8192 := hk.sub rfl
  have k3 : Stables P 73787002683117273088 := hk.sub rfl
  have k4 : Stables P 16 := hk.sub rfl
  have k5 : Stables P 38167347235758080 := hk.sub rfl
  have k6 : Stables P 1183339943899728781312 := hk.sub rfl
  have k7 : Stables P 1099545255936 := hk.sub rfl
  have k8 : Stables P 4294967296 := hk.sub rfl
  have k9 : Stables P 8585216 := hk.sub rfl
  have k10 : Stables P 3941818248099285677776 := hk.sub rfl
  have k11 : Stables P 9444807134395687313408 := hk.sub rfl
  have k12 : Stables P 288231475696967680 := hk.sub rfl
  unfold State.openStep
  extract_lets n ctl pfc calm rest z1 z2 z3 s1 z4 s2 s3 s4 s5 z5 s6
  have h1 : P s1 := Inv.setN k0 (Inv.lit hk h) _ _ _
  clear_value s1
  refine Inv.ite (Inv.lit hk h1) ?_
  have h2 : P s2 := Inv.pruneFaults k2 (Inv.flashBoundary k1 (Inv.landed k11 h1))
  clear_value s2
  have h3 : P s3 := Inv.trimLater k3 h2
  clear_value s3
  have h4 : P s4 := Inv.outNow k6 (Inv.applyDue k5 (Inv.tierBoundary k4 h3))
  clear_value s4
  have h5 : P s5 := Inv.publish k9 (Inv.settleMirror k8 (Inv.foldl (fun v x hv => Inv.sendOwed k12 (Inv.restartSeal k7 hv _) _) h4))
  clear_value s5
  exact Inv.drain k10 (Inv.lit hk h5 (e7 := Or.inr (by decide))) _ _

theorem Inv.execStepBoundary {P : State → Prop} (hk : Stables P 13424599914872859260916) {t : State} (h : P t) (hn : ∀ v, P v → P { v with step := { v.step with number := v.step.number + 1 } }) :
    Ends P (Sys2Proof.Machine.execStepBoundary t) := by
  have k0 : Stables P 13387704139741231560692 := hk.sub rfl
  have k1 : Stables P 3978714023230915475440 := hk.sub rfl
  unfold Sys2Proof.Machine.execStepBoundary
  exact Ends.ite (Ends.next h) (Ends.next (Inv.openStep k0 (hn _ (Inv.ite (Inv.closeNone k1 h) h))))

theorem Inv.execStepClose {P : State → Prop} (hk : Stables P 4573621524006095026160) {t : State} (h : P t) (sens : Sensors) : Ends P (Sys2Proof.Machine.execStepClose sens t) := by
  unfold Sys2Proof.Machine.execStepClose
  have k0 : Stables P 4573621524006095026160 := hk.sub rfl
  repeat' first
    | with_reducible apply Ends.next
    | with_reducible apply Ends.ite
    | intro _
    | with_reducible exact h
    | with_reducible assumption
    | with_reducible apply Inv.closeStep k0
    | with_reducible apply Inv.ite
    | with_reducible apply Inv.getD
    | fail_if_no_progress (first | with_reducible refine Inv.lit hk ?_ | fail)
    | split
    | dsimp only
    | exact h

theorem Inv.execStepNumberLimit {P : State → Prop} (hk : Stables P 33628164) {t : State} (h : P t) : Ends P (Sys2Proof.Machine.execStepNumberLimit t) := by
  unfold Sys2Proof.Machine.execStepNumberLimit
  have k0 : Stables P 33628160 := hk.sub rfl
  repeat' first
    | with_reducible apply Ends.next
    | with_reducible apply Ends.ite
    | intro _
    | with_reducible exact h
    | with_reducible assumption
    | with_reducible apply Inv.raise k0
    | with_reducible apply Inv.ite
    | with_reducible apply Inv.getD
    | fail_if_no_progress (first | with_reducible refine Inv.lit hk ?_ | fail)
    | split
    | dsimp only
    | exact h

theorem Inv.execEngineSlot {P : State → Prop} (hk : Stables P 1183338816900310310944) {t : State} (h : P t) (idx : Nat) (fin : SlotEnd) (deps : List Nat) : Ends P (Sys2Proof.Machine.execEngineSlot idx fin deps t) := by
  unfold Sys2Proof.Machine.execEngineSlot
  have k0 : Stables P 33628160 := hk.sub rfl
  have k1 : Stables P 1183338816900310310912 := hk.sub rfl
  have k2 : Stables P 65568 := hk.sub rfl
  repeat' first
    | with_reducible apply Ends.next
    | with_reducible apply Ends.ite
    | intro _
    | with_reducible exact h
    | with_reducible assumption
    | with_reducible apply Inv.raise k0
    | with_reducible apply Inv.loseAll k1
    | with_reducible apply Inv.useSpill k2
    | with_reducible apply Inv.ite
    | with_reducible apply Inv.mapD
    | with_reducible apply Inv.getD
    | fail_if_no_progress (first | with_reducible refine Inv.lit hk ?_ | fail)
    | split
    | dsimp only
    | exact h

theorem Inv.execHeadlandTransfer {P : State → Prop} (hk : Stables P 64) {t : State} (h : P t) (route : Nat) (ok : Bool) (deps : List Nat) : Ends P (Sys2Proof.Machine.execHeadlandTransfer route ok deps t) := by
  unfold Sys2Proof.Machine.execHeadlandTransfer
  repeat' first
    | with_reducible apply Ends.next
    | with_reducible apply Ends.ite
    | intro _
    | with_reducible exact h
    | with_reducible assumption
    | with_reducible apply Inv.ite
    | with_reducible apply Inv.getD
    | fail_if_no_progress (first | with_reducible refine Inv.lit hk ?_ | fail)
    | split
    | dsimp only
    | exact h

theorem Inv.execHeadlandRetry {P : State → Prop} (hk : Stables P 1183338816900310310976) {t : State} (h : P t) (route : Nat) (ok : Bool) : Ends P (Sys2Proof.Machine.execHeadlandRetry route ok t) := by
  unfold Sys2Proof.Machine.execHeadlandRetry
  have k0 : Stables P 33628160 := hk.sub rfl
  have k1 : Stables P 1183338816900310310912 := hk.sub rfl
  repeat' first
    | with_reducible apply Ends.next
    | with_reducible apply Ends.ite
    | intro _
    | with_reducible exact h
    | with_reducible assumption
    | with_reducible apply Inv.raise k0
    | with_reducible apply Inv.loseAll k1
    | with_reducible apply Inv.ite
    | with_reducible apply Inv.getD
    | fail_if_no_progress (first | with_reducible refine Inv.lit hk ?_ | fail)
    | split
    | dsimp only
    | exact h

theorem Inv.execPlanDrainStart {P : State → Prop} (hk : Stables P 3941818248099285677776) {t : State} (h : P t) : Ends P (Sys2Proof.Machine.execPlanDrainStart t) := by
  unfold Sys2Proof.Machine.execPlanDrainStart
  have k0 : Stables P 3941818248099285677776 := hk.sub rfl
  repeat' first
    | with_reducible apply Ends.next
    | with_reducible apply Ends.ite
    | intro _
    | with_reducible exact h
    | with_reducible assumption
    | with_reducible apply Inv.command k0
    | with_reducible apply Inv.ite
    | with_reducible apply Inv.getD
    | fail_if_no_progress (first | with_reducible refine Inv.lit hk ?_ | fail)
    | split
    | dsimp only
    | exact h

theorem Inv.execPlanSetActivate {P : State → Prop} (hk : Stables P 3941818248099285677776) {t : State} (h : P t) : Ends P (Sys2Proof.Machine.execPlanSetActivate t) := by
  unfold Sys2Proof.Machine.execPlanSetActivate
  have k0 : Stables P 3941818248099285677776 := hk.sub rfl
  repeat' first
    | with_reducible apply Ends.next
    | with_reducible apply Ends.ite
    | intro _
    | with_reducible exact h
    | with_reducible assumption
    | with_reducible apply Inv.command k0
    | with_reducible apply Inv.ite
    | with_reducible apply Inv.getD
    | fail_if_no_progress (first | with_reducible refine Inv.lit hk ?_ | fail)
    | split
    | dsimp only
    | exact h

theorem Inv.execModelDrainStart {P : State → Prop} (hk : Stables P 3941818248099285677776) {t : State} (h : P t) (slot : Nat) : Ends P (Sys2Proof.Machine.execModelDrainStart slot t) := by
  unfold Sys2Proof.Machine.execModelDrainStart
  have k0 : Stables P 3941818248099285677776 := hk.sub rfl
  repeat' first
    | with_reducible apply Ends.next
    | with_reducible apply Ends.ite
    | intro _
    | with_reducible exact h
    | with_reducible assumption
    | with_reducible apply Inv.command k0
    | with_reducible apply Inv.ite
    | with_reducible apply Inv.getD
    | fail_if_no_progress (first | with_reducible refine Inv.lit hk ?_ | fail)
    | split
    | dsimp only
    | exact h

theorem Inv.execModelActivate {P : State → Prop} (hk : Stables P 3941818248099285677776) {t : State} (h : P t) (slot : Nat) : Ends P (Sys2Proof.Machine.execModelActivate slot t) := by
  unfold Sys2Proof.Machine.execModelActivate
  have k0 : Stables P 3941818248099285677776 := hk.sub rfl
  repeat' first
    | with_reducible apply Ends.next
    | with_reducible apply Ends.ite
    | intro _
    | with_reducible exact h
    | with_reducible assumption
    | with_reducible apply Inv.command k0
    | with_reducible apply Inv.ite
    | with_reducible apply Inv.getD
    | fail_if_no_progress (first | with_reducible refine Inv.lit hk ?_ | fail)
    | split
    | dsimp only
    | exact h

theorem Inv.execGateListTakeover {P : State → Prop} (hk : Stables P 3941818248099285677776) {t : State} (h : P t) (port : Nat) : Ends P (Sys2Proof.Machine.execGateListTakeover port t) := by
  unfold Sys2Proof.Machine.execGateListTakeover
  have k0 : Stables P 3941818248099285677776 := hk.sub rfl
  repeat' first
    | with_reducible apply Ends.next
    | with_reducible apply Ends.ite
    | intro _
    | with_reducible exact h
    | with_reducible assumption
    | with_reducible apply Inv.command k0
    | with_reducible apply Inv.ite
    | with_reducible apply Inv.getD
    | fail_if_no_progress (first | with_reducible refine Inv.lit hk ?_ | fail)
    | split
    | dsimp only
    | exact h

theorem Inv.execTenantDrainStart {P : State → Prop} (hk : Stables P 3941818248099285677776) {t : State} (h : P t) (p : Nat) : Ends P (Sys2Proof.Machine.execTenantDrainStart p t) := by
  unfold Sys2Proof.Machine.execTenantDrainStart
  have k0 : Stables P 3941818248099285677776 := hk.sub rfl
  repeat' first
    | with_reducible apply Ends.next
    | with_reducible apply Ends.ite
    | intro _
    | with_reducible exact h
    | with_reducible assumption
    | with_reducible apply Inv.command k0
    | with_reducible apply Inv.ite
    | with_reducible apply Inv.getD
    | fail_if_no_progress (first | with_reducible refine Inv.lit hk ?_ | fail)
    | split
    | dsimp only
    | exact h

theorem Inv.execTenantSwitch {P : State → Prop} (hk : Stables P 3941818248099285677776) {t : State} (h : P t) (p : Nat) : Ends P (Sys2Proof.Machine.execTenantSwitch p t) := by
  unfold Sys2Proof.Machine.execTenantSwitch
  have k0 : Stables P 3941818248099285677776 := hk.sub rfl
  repeat' first
    | with_reducible apply Ends.next
    | with_reducible apply Ends.ite
    | intro _
    | with_reducible exact h
    | with_reducible assumption
    | with_reducible apply Inv.command k0
    | with_reducible apply Inv.ite
    | with_reducible apply Inv.getD
    | fail_if_no_progress (first | with_reducible refine Inv.lit hk ?_ | fail)
    | split
    | dsimp only
    | exact h

theorem Inv.execTenantScrubEnd {P : State → Prop} (hk : Stables P 3941818248099285677776) {t : State} (h : P t) (p : Nat) : Ends P (Sys2Proof.Machine.execTenantScrubEnd p t) := by
  unfold Sys2Proof.Machine.execTenantScrubEnd
  have k0 : Stables P 3941818248099285677776 := hk.sub rfl
  repeat' first
    | with_reducible apply Ends.next
    | with_reducible apply Ends.ite
    | intro _
    | with_reducible exact h
    | with_reducible assumption
    | with_reducible apply Inv.command k0
    | with_reducible apply Inv.ite
    | with_reducible apply Inv.getD
    | fail_if_no_progress (first | with_reducible refine Inv.lit hk ?_ | fail)
    | split
    | dsimp only
    | exact h

theorem Inv.execPlotFaultLimit {P : State → Prop} (hk : Stables P 3941818248099285677776) {t : State} (h : P t) (plot : Nat) : Ends P (Sys2Proof.Machine.execPlotFaultLimit plot t) := by
  unfold Sys2Proof.Machine.execPlotFaultLimit
  have k0 : Stables P 3941818248099285677776 := hk.sub rfl
  repeat' first
    | with_reducible apply Ends.next
    | with_reducible apply Ends.ite
    | intro _
    | with_reducible exact h
    | with_reducible assumption
    | with_reducible apply Inv.command k0
    | with_reducible apply Inv.ite
    | with_reducible apply Inv.getD
    | fail_if_no_progress (first | with_reducible refine Inv.lit hk ?_ | fail)
    | split
    | dsimp only
    | exact h

theorem Inv.execSealFreeze {P : State → Prop} (hk : Stables P 3941818248099285677776) {t : State} (h : P t) (slot : Nat) : Ends P (Sys2Proof.Machine.execSealFreeze slot t) := by
  unfold Sys2Proof.Machine.execSealFreeze
  have k0 : Stables P 3941818248099285677776 := hk.sub rfl
  repeat' first
    | with_reducible apply Ends.next
    | with_reducible apply Ends.ite
    | intro _
    | with_reducible exact h
    | with_reducible assumption
    | with_reducible apply Inv.command k0
    | with_reducible apply Inv.ite
    | with_reducible apply Inv.getD
    | fail_if_no_progress (first | with_reducible refine Inv.lit hk ?_ | fail)
    | split
    | dsimp only
    | exact h

theorem Inv.execSealSwitch {P : State → Prop} (hk : Stables P 3941818248099285677776) {t : State} (h : P t) (slot : Nat) : Ends P (Sys2Proof.Machine.execSealSwitch slot t) := by
  unfold Sys2Proof.Machine.execSealSwitch
  have k0 : Stables P 3941818248099285677776 := hk.sub rfl
  repeat' first
    | with_reducible apply Ends.next
    | with_reducible apply Ends.ite
    | intro _
    | with_reducible exact h
    | with_reducible assumption
    | with_reducible apply Inv.command k0
    | with_reducible apply Inv.ite
    | with_reducible apply Inv.getD
    | fail_if_no_progress (first | with_reducible refine Inv.lit hk ?_ | fail)
    | split
    | dsimp only
    | exact h

theorem Inv.execReplicaEpochSwitch {P : State → Prop} (hk : Stables P 3941818248099285677776) {t : State} (h : P t) (slot : Nat) : Ends P (Sys2Proof.Machine.execReplicaEpochSwitch slot t) := by
  unfold Sys2Proof.Machine.execReplicaEpochSwitch
  have k0 : Stables P 3941818248099285677776 := hk.sub rfl
  repeat' first
    | with_reducible apply Ends.next
    | with_reducible apply Ends.ite
    | intro _
    | with_reducible exact h
    | with_reducible assumption
    | with_reducible apply Inv.command k0
    | with_reducible apply Inv.ite
    | with_reducible apply Inv.getD
    | fail_if_no_progress (first | with_reducible refine Inv.lit hk ?_ | fail)
    | split
    | dsimp only
    | exact h

theorem Inv.execDeltaOpen {P : State → Prop} (hk : Stables P 3941818248099285677776) {t : State} (h : P t) (slot : Nat) : Ends P (Sys2Proof.Machine.execDeltaOpen slot t) := by
  unfold Sys2Proof.Machine.execDeltaOpen
  have k0 : Stables P 3941818248099285677776 := hk.sub rfl
  repeat' first
    | with_reducible apply Ends.next
    | with_reducible apply Ends.ite
    | intro _
    | with_reducible exact h
    | with_reducible assumption
    | with_reducible apply Inv.command k0
    | with_reducible apply Inv.ite
    | with_reducible apply Inv.getD
    | fail_if_no_progress (first | with_reducible refine Inv.lit hk ?_ | fail)
    | split
    | dsimp only
    | exact h

theorem Inv.execCompactionChoose {P : State → Prop} (hk : Stables P 3941818248099285677776) {t : State} (h : P t) (slot : Nat) : Ends P (Sys2Proof.Machine.execCompactionChoose slot t) := by
  unfold Sys2Proof.Machine.execCompactionChoose
  have k0 : Stables P 3941818248099285677776 := hk.sub rfl
  repeat' first
    | with_reducible apply Ends.next
    | with_reducible apply Ends.ite
    | intro _
    | with_reducible exact h
    | with_reducible assumption
    | with_reducible apply Inv.command k0
    | with_reducible apply Inv.ite
    | with_reducible apply Inv.getD
    | fail_if_no_progress (first | with_reducible refine Inv.lit hk ?_ | fail)
    | split
    | dsimp only
    | exact h

theorem Inv.execCompactionSwitch {P : State → Prop} (hk : Stables P 3941818248099285677776) {t : State} (h : P t) (slot : Nat) : Ends P (Sys2Proof.Machine.execCompactionSwitch slot t) := by
  unfold Sys2Proof.Machine.execCompactionSwitch
  have k0 : Stables P 3941818248099285677776 := hk.sub rfl
  repeat' first
    | with_reducible apply Ends.next
    | with_reducible apply Ends.ite
    | intro _
    | with_reducible exact h
    | with_reducible assumption
    | with_reducible apply Inv.command k0
    | with_reducible apply Inv.ite
    | with_reducible apply Inv.getD
    | fail_if_no_progress (first | with_reducible refine Inv.lit hk ?_ | fail)
    | split
    | dsimp only
    | exact h

theorem Inv.execEpochRelease {P : State → Prop} (hk : Stables P 3941818248099285677776) {t : State} (h : P t) (slot epoch : Nat) : Ends P (Sys2Proof.Machine.execEpochRelease slot epoch t) := by
  unfold Sys2Proof.Machine.execEpochRelease
  have k0 : Stables P 3941818248099285677776 := hk.sub rfl
  repeat' first
    | with_reducible apply Ends.next
    | with_reducible apply Ends.ite
    | intro _
    | with_reducible exact h
    | with_reducible assumption
    | with_reducible apply Inv.command k0
    | with_reducible apply Inv.ite
    | with_reducible apply Inv.getD
    | fail_if_no_progress (first | with_reducible refine Inv.lit hk ?_ | fail)
    | split
    | dsimp only
    | exact h

theorem Inv.execLoadWindowEnd {P : State → Prop} (hk : Stables P 3941818248099285677776) {t : State} (h : P t) : Ends P (Sys2Proof.Machine.execLoadWindowEnd t) := by
  unfold Sys2Proof.Machine.execLoadWindowEnd
  have k0 : Stables P 3941818248099285677776 := hk.sub rfl
  repeat' first
    | with_reducible apply Ends.next
    | with_reducible apply Ends.ite
    | intro _
    | with_reducible exact h
    | with_reducible assumption
    | with_reducible apply Inv.command k0
    | with_reducible apply Inv.ite
    | with_reducible apply Inv.getD
    | fail_if_no_progress (first | with_reducible refine Inv.lit hk ?_ | fail)
    | split
    | dsimp only
    | exact h

theorem Inv.execEmbShardSwitch {P : State → Prop} (hk : Stables P 3941818248099285677776) {t : State} (h : P t) (table : Nat) : Ends P (Sys2Proof.Machine.execEmbShardSwitch table t) := by
  unfold Sys2Proof.Machine.execEmbShardSwitch
  have k0 : Stables P 3941818248099285677776 := hk.sub rfl
  repeat' first
    | with_reducible apply Ends.next
    | with_reducible apply Ends.ite
    | intro _
    | with_reducible exact h
    | with_reducible assumption
    | with_reducible apply Inv.command k0
    | with_reducible apply Inv.ite
    | with_reducible apply Inv.getD
    | fail_if_no_progress (first | with_reducible refine Inv.lit hk ?_ | fail)
    | split
    | dsimp only
    | exact h

theorem Inv.execPlacementWindowEnd {P : State → Prop} (hk : Stables P 3941818248099285677776) {t : State} (h : P t) : Ends P (Sys2Proof.Machine.execPlacementWindowEnd t) := by
  unfold Sys2Proof.Machine.execPlacementWindowEnd
  have k0 : Stables P 3941818248099285677776 := hk.sub rfl
  repeat' first
    | with_reducible apply Ends.next
    | with_reducible apply Ends.ite
    | intro _
    | with_reducible exact h
    | with_reducible assumption
    | with_reducible apply Inv.command k0
    | with_reducible apply Inv.ite
    | with_reducible apply Inv.getD
    | fail_if_no_progress (first | with_reducible refine Inv.lit hk ?_ | fail)
    | split
    | dsimp only
    | exact h

theorem Inv.execPageDemote {P : State → Prop} (hk : Stables P 3941818248099285677776) {t : State} (h : P t) : Ends P (Sys2Proof.Machine.execPageDemote t) := by
  unfold Sys2Proof.Machine.execPageDemote
  have k0 : Stables P 3941818248099285677776 := hk.sub rfl
  repeat' first
    | with_reducible apply Ends.next
    | with_reducible apply Ends.ite
    | intro _
    | with_reducible exact h
    | with_reducible assumption
    | with_reducible apply Inv.command k0
    | with_reducible apply Inv.ite
    | with_reducible apply Inv.getD
    | fail_if_no_progress (first | with_reducible refine Inv.lit hk ?_ | fail)
    | split
    | dsimp only
    | exact h

theorem Inv.execPromotionSwitch {P : State → Prop} (hk : Stables P 3941818248099285677776) {t : State} (h : P t) (plot : Nat) : Ends P (Sys2Proof.Machine.execPromotionSwitch plot t) := by
  unfold Sys2Proof.Machine.execPromotionSwitch
  have k0 : Stables P 3941818248099285677776 := hk.sub rfl
  repeat' first
    | with_reducible apply Ends.next
    | with_reducible apply Ends.ite
    | intro _
    | with_reducible exact h
    | with_reducible assumption
    | with_reducible apply Inv.command k0
    | with_reducible apply Inv.ite
    | with_reducible apply Inv.getD
    | fail_if_no_progress (first | with_reducible refine Inv.lit hk ?_ | fail)
    | split
    | dsimp only
    | exact h

theorem Inv.execRejoinLoaded {P : State → Prop} (hk : Stables P 3941818248099285677776) {t : State} (h : P t) (slot : Nat) : Ends P (Sys2Proof.Machine.execRejoinLoaded slot t) := by
  unfold Sys2Proof.Machine.execRejoinLoaded
  have k0 : Stables P 3941818248099285677776 := hk.sub rfl
  repeat' first
    | with_reducible apply Ends.next
    | with_reducible apply Ends.ite
    | intro _
    | with_reducible exact h
    | with_reducible assumption
    | with_reducible apply Inv.command k0
    | with_reducible apply Inv.ite
    | with_reducible apply Inv.getD
    | fail_if_no_progress (first | with_reducible refine Inv.lit hk ?_ | fail)
    | split
    | dsimp only
    | exact h

theorem Inv.execRejoinAdmit {P : State → Prop} (hk : Stables P 3941818248099285677776) {t : State} (h : P t) : Ends P (Sys2Proof.Machine.execRejoinAdmit t) := by
  unfold Sys2Proof.Machine.execRejoinAdmit
  have k0 : Stables P 3941818248099285677776 := hk.sub rfl
  repeat' first
    | with_reducible apply Ends.next
    | with_reducible apply Ends.ite
    | intro _
    | with_reducible exact h
    | with_reducible assumption
    | with_reducible apply Inv.command k0
    | with_reducible apply Inv.ite
    | with_reducible apply Inv.getD
    | fail_if_no_progress (first | with_reducible refine Inv.lit hk ?_ | fail)
    | split
    | dsimp only
    | exact h

theorem Inv.execSearch {P : State → Prop} (hk : Stables P 3941818248099285677776) {t : State} (h : P t) : Ends P (Sys2Proof.Machine.execSearch t) := by
  unfold Sys2Proof.Machine.execSearch
  have k0 : Stables P 3941818248099285677776 := hk.sub rfl
  repeat' first
    | with_reducible apply Ends.next
    | with_reducible apply Ends.ite
    | intro _
    | with_reducible exact h
    | with_reducible assumption
    | with_reducible apply Inv.command k0
    | with_reducible apply Inv.ite
    | with_reducible apply Inv.getD
    | fail_if_no_progress (first | with_reducible refine Inv.lit hk ?_ | fail)
    | split
    | dsimp only
    | exact h

theorem Inv.execGenerate {P : State → Prop} (hk : Stables P 3941818248099285677776) {t : State} (h : P t) : Ends P (Sys2Proof.Machine.execGenerate t) := by
  unfold Sys2Proof.Machine.execGenerate
  have k0 : Stables P 3941818248099285677776 := hk.sub rfl
  repeat' first
    | with_reducible apply Ends.next
    | with_reducible apply Ends.ite
    | intro _
    | with_reducible exact h
    | with_reducible assumption
    | with_reducible apply Inv.command k0
    | with_reducible apply Inv.ite
    | with_reducible apply Inv.getD
    | fail_if_no_progress (first | with_reducible refine Inv.lit hk ?_ | fail)
    | split
    | dsimp only
    | exact h

theorem Inv.execReplay {P : State → Prop} (hk : Stables P 3941818248099285677776) {t : State} (h : P t) (tag : Nat) (copyOk : Bool) : Ends P (Sys2Proof.Machine.execReplay tag copyOk t) := by
  unfold Sys2Proof.Machine.execReplay
  have k0 : Stables P 3941818248099285677776 := hk.sub rfl
  have k1 : Stables P 297237642012073984 := hk.sub rfl
  have k2 : Stables P 1183194701372898476032 := hk.sub rfl
  repeat' first
    | with_reducible apply Ends.next
    | with_reducible apply Ends.ite
    | intro _
    | with_reducible exact h
    | with_reducible assumption
    | with_reducible apply Inv.command k0
    | with_reducible apply Inv.accept k1
    | with_reducible apply Inv.failReplay k2
    | with_reducible apply Inv.ite
    | with_reducible apply Inv.getD
    | with_reducible apply Inv.foldl
    | fail_if_no_progress (first | with_reducible refine Inv.lit hk ?_ | fail)
    | split
    | dsimp only
    | exact h

end Sys2Proof.Machine
end

