-- ==== Sys2Proof/Laws/State.lean ====
section
/-! SUPPORT. Every field of the state under every update that the operations share, and what the accessors read after them. -/

namespace Sys2Proof.Machine
set_option Elab.async false

/-! ### Maps -/

theorem mget_mmod {α : Type} (m : List (Nat × α)) (x y : Nat) (f : α → α) :
    mget (mmod m x f) y = (mget m y).map (if y = x then f else id) := by
  induction m with
  | nil => rfl
  | cons e m ih =>
    have hk : ∀ k v, (if k = x then (k, f v) else (k, v)) = (k, if k = x then f v else v) := fun k v => by split <;> rfl
    obtain ⟨k, v⟩ := e
    simp only [mmod, List.map_cons] at ih ⊢
    rw [hk]
    simp only [mget]
    by_cases h1 : k = y
    · subst h1
      by_cases h2 : k = x <;> simp [h2]
    · rw [if_neg h1, if_neg h1]
      split
      · rfl
      · exact ih

theorem mget_mmod_self {α : Type} {m : List (Nat × α)} {x : Nat} {v : α} (f : α → α) (h : mget m x = some v) :
    mget (mmod m x f) x = some (f v) := by
  rw [mget_mmod, h, if_pos rfl]; rfl

theorem mget_mmod_ne {α : Type} (m : List (Nat × α)) {x y : Nat} (f : α → α) (h : y ≠ x) : mget (mmod m x f) y = mget m y := by
  rw [mget_mmod, if_neg h, Option.map_id]; rfl

theorem mget_mdel {α : Type} (m : List (Nat × α)) (x : Nat) : mget (mdel m x) x = none := by
  induction m with
  | nil => rfl
  | cons e m ih =>
    obtain ⟨k, v⟩ := e
    simp only [mdel, List.filter_cons] at ih ⊢
    split
    · rename_i h
      simp only [bne_iff_ne, ne_eq] at h
      simp only [mget, if_neg h, ih]
      split <;> rfl
    · exact ih

theorem mgetD_mput {α : Type} (m : List (Nat × α)) (x : Nat) (v d : α) : mgetD (mput m x v) x d = v := by
  simp [mgetD, mget_mput]

theorem mgetD_mput_ne {α : Type} (m : List (Nat × α)) {x y : Nat} (v d : α) (h : y ≠ x) : mgetD (mput m x v) y d = mgetD m y d := by
  simp [mgetD, mget_mput_ne v h]

theorem mgetD_mupd {α : Type} (m : List (Nat × α)) (x : Nat) (d : α) (f : α → α) : mgetD (mupd m x d f) x d = f (mgetD m x d) :=
  mgetD_mput ..

theorem mgetD_mupd_ne {α : Type} (m : List (Nat × α)) {x y : Nat} (d : α) (f : α → α) (h : y ≠ x) :
    mgetD (mupd m x d f) y d = mgetD m y d := mgetD_mput_ne _ _ _ h

theorem mget_mupd {α : Type} (m : List (Nat × α)) (x : Nat) (d : α) (f : α → α) : mget (mupd m x d f) x = some (f (mgetD m x d)) :=
  mget_mput ..

theorem mget_mupd_ne {α : Type} (m : List (Nat × α)) {x y : Nat} (d : α) (f : α → α) (h : y ≠ x) : mget (mupd m x d f) y = mget m y :=
  mget_mput_ne _ h

/-! ### Fields -/

@[simp] theorem State.setLive_pending (s : State) (i k : Nat) (v : Bytes) : (s.setLive i k v).pending = s.pending := rfl
@[simp] theorem State.setLive_step (s : State) (i k : Nat) (v : Bytes) : (s.setLive i k v).step = s.step := rfl
@[simp] theorem State.setLive_node (s : State) (i k : Nat) (v : Bytes) : (s.setLive i k v).node = s.node := rfl
@[simp] theorem State.setLive_dict_committed (s : State) (i k : Nat) (v : Bytes) : (s.setLive i k v).dict.committed = s.dict.committed := rfl
@[simp] theorem State.setLive_dict_active (s : State) (i k : Nat) (v : Bytes) : (s.setLive i k v).dict.active = s.dict.active := rfl
@[simp] theorem State.setLive_dict_pub (s : State) (i k : Nat) (v : Bytes) : (s.setLive i k v).dict.pub = s.dict.pub := rfl
@[simp] theorem State.setLive_dict_claims (s : State) (i k : Nat) (v : Bytes) : (s.setLive i k v).dict.claims = s.dict.claims := rfl
@[simp] theorem State.setLive_dict_store (s : State) (i k : Nat) (v : Bytes) : (s.setLive i k v).dict.store = s.dict.store := rfl
@[simp] theorem State.setLive_dict_sets (s : State) (i k : Nat) (v : Bytes) : (s.setLive i k v).dict.sets = s.dict.sets := rfl
@[simp] theorem State.setLive_dict_xfers (s : State) (i k : Nat) (v : Bytes) : (s.setLive i k v).dict.xfers = s.dict.xfers := rfl
@[simp] theorem State.setLive_dict_lastTxn (s : State) (i k : Nat) (v : Bytes) : (s.setLive i k v).dict.lastTxn = s.dict.lastTxn := rfl
@[simp] theorem State.setLive_dict_lastResp (s : State) (i k : Nat) (v : Bytes) : (s.setLive i k v).dict.lastResp = s.dict.lastResp := rfl
@[simp] theorem State.setLive_dict_resp (s : State) (i k : Nat) (v : Bytes) : (s.setLive i k v).dict.resp = s.dict.resp := rfl
@[simp] theorem State.setLive_dict_sent (s : State) (i k : Nat) (v : Bytes) : (s.setLive i k v).dict.sent = s.dict.sent := rfl
@[simp] theorem State.setLive_dict_commits (s : State) (i k : Nat) (v : Bytes) : (s.setLive i k v).dict.commits = s.dict.commits := rfl
@[simp] theorem State.setLive_dict_results (s : State) (i k : Nat) (v : Bytes) : (s.setLive i k v).dict.results = s.dict.results := rfl
@[simp] theorem State.setLive_dict_lastSeq (s : State) (i k : Nat) (v : Bytes) : (s.setLive i k v).dict.lastSeq = s.dict.lastSeq := rfl
@[simp] theorem State.setLive_dict_expired (s : State) (i k : Nat) (v : Bytes) : (s.setLive i k v).dict.expired = s.dict.expired := rfl
@[simp] theorem State.setLive_ev (s : State) (i k : Nat) (v : Bytes) : (s.setLive i k v).ev = s.ev := rfl
@[simp] theorem State.setLive_mem (s : State) (i k : Nat) (v : Bytes) : (s.setLive i k v).mem = s.mem := rfl
@[simp] theorem State.setLive_rings (s : State) (i k : Nat) (v : Bytes) : (s.setLive i k v).rings = s.rings := rfl
@[simp] theorem State.setLive_ledger (s : State) (i k : Nat) (v : Bytes) : (s.setLive i k v).ledger = s.ledger := rfl
@[simp] theorem State.setLive_shards (s : State) (i k : Nat) (v : Bytes) : (s.setLive i k v).shards = s.shards := rfl
@[simp] theorem State.setLive_log (s : State) (i k : Nat) (v : Bytes) : (s.setLive i k v).log = s.log := rfl
@[simp] theorem State.setLive_flash (s : State) (i k : Nat) (v : Bytes) : (s.setLive i k v).flash = s.flash := rfl
@[simp] theorem State.setLive_tier (s : State) (i k : Nat) (v : Bytes) : (s.setLive i k v).tier = s.tier := rfl
@[simp] theorem State.setLive_codebooks (s : State) (i k : Nat) (v : Bytes) : (s.setLive i k v).codebooks = s.codebooks := rfl
@[simp] theorem State.setLive_models (s : State) (i k : Nat) (v : Bytes) : (s.setLive i k v).models = s.models := rfl
@[simp] theorem State.setLive_caches (s : State) (i k : Nat) (v : Bytes) : (s.setLive i k v).caches = s.caches := rfl
@[simp] theorem State.setLive_nextCache (s : State) (i k : Nat) (v : Bytes) : (s.setLive i k v).nextCache = s.nextCache := rfl
@[simp] theorem State.setLive_arrays (s : State) (i k : Nat) (v : Bytes) : (s.setLive i k v).arrays = s.arrays := rfl
@[simp] theorem State.setLive_embs (s : State) (i k : Nat) (v : Bytes) : (s.setLive i k v).embs = s.embs := rfl
@[simp] theorem State.setLive_embWinAt (s : State) (i k : Nat) (v : Bytes) : (s.setLive i k v).embWinAt = s.embWinAt := rfl
@[simp] theorem State.setLive_tills (s : State) (i k : Nat) (v : Bytes) : (s.setLive i k v).tills = s.tills := rfl
@[simp] theorem State.setLive_queues (s : State) (i k : Nat) (v : Bytes) : (s.setLive i k v).queues = s.queues := rfl
@[simp] theorem State.setLive_tx (s : State) (i k : Nat) (v : Bytes) : (s.setLive i k v).tx = s.tx := rfl
@[simp] theorem State.setLive_sent (s : State) (i k : Nat) (v : Bytes) : (s.setLive i k v).sent = s.sent := rfl
@[simp] theorem State.setLive_qps (s : State) (i k : Nat) (v : Bytes) : (s.setLive i k v).qps = s.qps := rfl
@[simp] theorem State.setLive_hedge (s : State) (i k : Nat) (v : Bytes) : (s.setLive i k v).hedge = s.hedge := rfl
@[simp] theorem State.setLive_eth (s : State) (i k : Nat) (v : Bytes) : (s.setLive i k v).eth = s.eth := rfl
@[simp] theorem State.setLive_traf (s : State) (i k : Nat) (v : Bytes) : (s.setLive i k v).traf = s.traf := rfl
@[simp] theorem State.setLive_sec (s : State) (i k : Nat) (v : Bytes) : (s.setLive i k v).sec = s.sec := rfl
@[simp] theorem State.setLive_parts (s : State) (i k : Nat) (v : Bytes) : (s.setLive i k v).parts = s.parts := rfl
@[simp] theorem State.setLive_pwr (s : State) (i k : Nat) (v : Bytes) : (s.setLive i k v).pwr = s.pwr := rfl
@[simp] theorem State.setLive_resp (s : State) (i k : Nat) (v : Bytes) : (s.setLive i k v).resp = s.resp := rfl
@[simp] theorem State.setLive_freeCtr (s : State) (i k : Nat) (v : Bytes) : (s.setLive i k v).freeCtr = s.freeCtr := rfl

@[simp] theorem State.setN_pending (s : State) (i k v : Nat) : (s.setN i k v).pending = s.pending := rfl
@[simp] theorem State.setN_step (s : State) (i k v : Nat) : (s.setN i k v).step = s.step := rfl
@[simp] theorem State.setN_node (s : State) (i k v : Nat) : (s.setN i k v).node = s.node := rfl
@[simp] theorem State.setN_dict_committed (s : State) (i k v : Nat) : (s.setN i k v).dict.committed = s.dict.committed := rfl
@[simp] theorem State.setN_dict_active (s : State) (i k v : Nat) : (s.setN i k v).dict.active = s.dict.active := rfl
@[simp] theorem State.setN_dict_pub (s : State) (i k v : Nat) : (s.setN i k v).dict.pub = s.dict.pub := rfl
@[simp] theorem State.setN_dict_claims (s : State) (i k v : Nat) : (s.setN i k v).dict.claims = s.dict.claims := rfl
@[simp] theorem State.setN_dict_store (s : State) (i k v : Nat) : (s.setN i k v).dict.store = s.dict.store := rfl
@[simp] theorem State.setN_dict_sets (s : State) (i k v : Nat) : (s.setN i k v).dict.sets = s.dict.sets := rfl
@[simp] theorem State.setN_dict_xfers (s : State) (i k v : Nat) : (s.setN i k v).dict.xfers = s.dict.xfers := rfl
@[simp] theorem State.setN_dict_lastTxn (s : State) (i k v : Nat) : (s.setN i k v).dict.lastTxn = s.dict.lastTxn := rfl
@[simp] theorem State.setN_dict_lastResp (s : State) (i k v : Nat) : (s.setN i k v).dict.lastResp = s.dict.lastResp := rfl
@[simp] theorem State.setN_dict_resp (s : State) (i k v : Nat) : (s.setN i k v).dict.resp = s.dict.resp := rfl
@[simp] theorem State.setN_dict_sent (s : State) (i k v : Nat) : (s.setN i k v).dict.sent = s.dict.sent := rfl
@[simp] theorem State.setN_dict_commits (s : State) (i k v : Nat) : (s.setN i k v).dict.commits = s.dict.commits := rfl
@[simp] theorem State.setN_dict_results (s : State) (i k v : Nat) : (s.setN i k v).dict.results = s.dict.results := rfl
@[simp] theorem State.setN_dict_lastSeq (s : State) (i k v : Nat) : (s.setN i k v).dict.lastSeq = s.dict.lastSeq := rfl
@[simp] theorem State.setN_dict_expired (s : State) (i k v : Nat) : (s.setN i k v).dict.expired = s.dict.expired := rfl
@[simp] theorem State.setN_ev (s : State) (i k v : Nat) : (s.setN i k v).ev = s.ev := rfl
@[simp] theorem State.setN_mem (s : State) (i k v : Nat) : (s.setN i k v).mem = s.mem := rfl
@[simp] theorem State.setN_rings (s : State) (i k v : Nat) : (s.setN i k v).rings = s.rings := rfl
@[simp] theorem State.setN_ledger (s : State) (i k v : Nat) : (s.setN i k v).ledger = s.ledger := rfl
@[simp] theorem State.setN_shards (s : State) (i k v : Nat) : (s.setN i k v).shards = s.shards := rfl
@[simp] theorem State.setN_log (s : State) (i k v : Nat) : (s.setN i k v).log = s.log := rfl
@[simp] theorem State.setN_flash (s : State) (i k v : Nat) : (s.setN i k v).flash = s.flash := rfl
@[simp] theorem State.setN_tier (s : State) (i k v : Nat) : (s.setN i k v).tier = s.tier := rfl
@[simp] theorem State.setN_codebooks (s : State) (i k v : Nat) : (s.setN i k v).codebooks = s.codebooks := rfl
@[simp] theorem State.setN_models (s : State) (i k v : Nat) : (s.setN i k v).models = s.models := rfl
@[simp] theorem State.setN_caches (s : State) (i k v : Nat) : (s.setN i k v).caches = s.caches := rfl
@[simp] theorem State.setN_nextCache (s : State) (i k v : Nat) : (s.setN i k v).nextCache = s.nextCache := rfl
@[simp] theorem State.setN_arrays (s : State) (i k v : Nat) : (s.setN i k v).arrays = s.arrays := rfl
@[simp] theorem State.setN_embs (s : State) (i k v : Nat) : (s.setN i k v).embs = s.embs := rfl
@[simp] theorem State.setN_embWinAt (s : State) (i k v : Nat) : (s.setN i k v).embWinAt = s.embWinAt := rfl
@[simp] theorem State.setN_tills (s : State) (i k v : Nat) : (s.setN i k v).tills = s.tills := rfl
@[simp] theorem State.setN_queues (s : State) (i k v : Nat) : (s.setN i k v).queues = s.queues := rfl
@[simp] theorem State.setN_tx (s : State) (i k v : Nat) : (s.setN i k v).tx = s.tx := rfl
@[simp] theorem State.setN_sent (s : State) (i k v : Nat) : (s.setN i k v).sent = s.sent := rfl
@[simp] theorem State.setN_qps (s : State) (i k v : Nat) : (s.setN i k v).qps = s.qps := rfl
@[simp] theorem State.setN_hedge (s : State) (i k v : Nat) : (s.setN i k v).hedge = s.hedge := rfl
@[simp] theorem State.setN_eth (s : State) (i k v : Nat) : (s.setN i k v).eth = s.eth := rfl
@[simp] theorem State.setN_traf (s : State) (i k v : Nat) : (s.setN i k v).traf = s.traf := rfl
@[simp] theorem State.setN_sec (s : State) (i k v : Nat) : (s.setN i k v).sec = s.sec := rfl
@[simp] theorem State.setN_parts (s : State) (i k v : Nat) : (s.setN i k v).parts = s.parts := rfl
@[simp] theorem State.setN_pwr (s : State) (i k v : Nat) : (s.setN i k v).pwr = s.pwr := rfl
@[simp] theorem State.setN_resp (s : State) (i k v : Nat) : (s.setN i k v).resp = s.resp := rfl
@[simp] theorem State.setN_freeCtr (s : State) (i k v : Nat) : (s.setN i k v).freeCtr = s.freeCtr := rfl

@[simp] theorem State.bump_pending (s : State) (i k n : Nat) : (s.bump i k n).pending = s.pending := rfl
@[simp] theorem State.bump_step (s : State) (i k n : Nat) : (s.bump i k n).step = s.step := rfl
@[simp] theorem State.bump_node (s : State) (i k n : Nat) : (s.bump i k n).node = s.node := rfl
@[simp] theorem State.bump_dict_committed (s : State) (i k n : Nat) : (s.bump i k n).dict.committed = s.dict.committed := rfl
@[simp] theorem State.bump_dict_active (s : State) (i k n : Nat) : (s.bump i k n).dict.active = s.dict.active := rfl
@[simp] theorem State.bump_dict_pub (s : State) (i k n : Nat) : (s.bump i k n).dict.pub = s.dict.pub := rfl
@[simp] theorem State.bump_dict_claims (s : State) (i k n : Nat) : (s.bump i k n).dict.claims = s.dict.claims := rfl
@[simp] theorem State.bump_dict_store (s : State) (i k n : Nat) : (s.bump i k n).dict.store = s.dict.store := rfl
@[simp] theorem State.bump_dict_sets (s : State) (i k n : Nat) : (s.bump i k n).dict.sets = s.dict.sets := rfl
@[simp] theorem State.bump_dict_xfers (s : State) (i k n : Nat) : (s.bump i k n).dict.xfers = s.dict.xfers := rfl
@[simp] theorem State.bump_dict_lastTxn (s : State) (i k n : Nat) : (s.bump i k n).dict.lastTxn = s.dict.lastTxn := rfl
@[simp] theorem State.bump_dict_lastResp (s : State) (i k n : Nat) : (s.bump i k n).dict.lastResp = s.dict.lastResp := rfl
@[simp] theorem State.bump_dict_resp (s : State) (i k n : Nat) : (s.bump i k n).dict.resp = s.dict.resp := rfl
@[simp] theorem State.bump_dict_sent (s : State) (i k n : Nat) : (s.bump i k n).dict.sent = s.dict.sent := rfl
@[simp] theorem State.bump_dict_commits (s : State) (i k n : Nat) : (s.bump i k n).dict.commits = s.dict.commits := rfl
@[simp] theorem State.bump_dict_results (s : State) (i k n : Nat) : (s.bump i k n).dict.results = s.dict.results := rfl
@[simp] theorem State.bump_dict_lastSeq (s : State) (i k n : Nat) : (s.bump i k n).dict.lastSeq = s.dict.lastSeq := rfl
@[simp] theorem State.bump_dict_expired (s : State) (i k n : Nat) : (s.bump i k n).dict.expired = s.dict.expired := rfl
@[simp] theorem State.bump_ev (s : State) (i k n : Nat) : (s.bump i k n).ev = s.ev := rfl
@[simp] theorem State.bump_mem (s : State) (i k n : Nat) : (s.bump i k n).mem = s.mem := rfl
@[simp] theorem State.bump_rings (s : State) (i k n : Nat) : (s.bump i k n).rings = s.rings := rfl
@[simp] theorem State.bump_ledger (s : State) (i k n : Nat) : (s.bump i k n).ledger = s.ledger := rfl
@[simp] theorem State.bump_shards (s : State) (i k n : Nat) : (s.bump i k n).shards = s.shards := rfl
@[simp] theorem State.bump_log (s : State) (i k n : Nat) : (s.bump i k n).log = s.log := rfl
@[simp] theorem State.bump_flash (s : State) (i k n : Nat) : (s.bump i k n).flash = s.flash := rfl
@[simp] theorem State.bump_tier (s : State) (i k n : Nat) : (s.bump i k n).tier = s.tier := rfl
@[simp] theorem State.bump_codebooks (s : State) (i k n : Nat) : (s.bump i k n).codebooks = s.codebooks := rfl
@[simp] theorem State.bump_models (s : State) (i k n : Nat) : (s.bump i k n).models = s.models := rfl
@[simp] theorem State.bump_caches (s : State) (i k n : Nat) : (s.bump i k n).caches = s.caches := rfl
@[simp] theorem State.bump_nextCache (s : State) (i k n : Nat) : (s.bump i k n).nextCache = s.nextCache := rfl
@[simp] theorem State.bump_arrays (s : State) (i k n : Nat) : (s.bump i k n).arrays = s.arrays := rfl
@[simp] theorem State.bump_embs (s : State) (i k n : Nat) : (s.bump i k n).embs = s.embs := rfl
@[simp] theorem State.bump_embWinAt (s : State) (i k n : Nat) : (s.bump i k n).embWinAt = s.embWinAt := rfl
@[simp] theorem State.bump_tills (s : State) (i k n : Nat) : (s.bump i k n).tills = s.tills := rfl
@[simp] theorem State.bump_queues (s : State) (i k n : Nat) : (s.bump i k n).queues = s.queues := rfl
@[simp] theorem State.bump_tx (s : State) (i k n : Nat) : (s.bump i k n).tx = s.tx := rfl
@[simp] theorem State.bump_sent (s : State) (i k n : Nat) : (s.bump i k n).sent = s.sent := rfl
@[simp] theorem State.bump_qps (s : State) (i k n : Nat) : (s.bump i k n).qps = s.qps := rfl
@[simp] theorem State.bump_hedge (s : State) (i k n : Nat) : (s.bump i k n).hedge = s.hedge := rfl
@[simp] theorem State.bump_eth (s : State) (i k n : Nat) : (s.bump i k n).eth = s.eth := rfl
@[simp] theorem State.bump_traf (s : State) (i k n : Nat) : (s.bump i k n).traf = s.traf := rfl
@[simp] theorem State.bump_sec (s : State) (i k n : Nat) : (s.bump i k n).sec = s.sec := rfl
@[simp] theorem State.bump_parts (s : State) (i k n : Nat) : (s.bump i k n).parts = s.parts := rfl
@[simp] theorem State.bump_pwr (s : State) (i k n : Nat) : (s.bump i k n).pwr = s.pwr := rfl
@[simp] theorem State.bump_resp (s : State) (i k n : Nat) : (s.bump i k n).resp = s.resp := rfl
@[simp] theorem State.bump_freeCtr (s : State) (i k n : Nat) : (s.bump i k n).freeCtr = s.freeCtr := rfl


@[simp] theorem State.setAct_pending (s : State) (i k : Nat) (v : Bytes) : (s.setAct i k v).pending = s.pending := rfl
@[simp] theorem State.setAct_step (s : State) (i k : Nat) (v : Bytes) : (s.setAct i k v).step = s.step := rfl
@[simp] theorem State.setAct_node (s : State) (i k : Nat) (v : Bytes) : (s.setAct i k v).node = s.node := rfl
@[simp] theorem State.setAct_dict_committed (s : State) (i k : Nat) (v : Bytes) : (s.setAct i k v).dict.committed = s.dict.committed := rfl
@[simp] theorem State.setAct_dict_live (s : State) (i k : Nat) (v : Bytes) : (s.setAct i k v).dict.live = s.dict.live := rfl
@[simp] theorem State.setAct_dict_pub (s : State) (i k : Nat) (v : Bytes) : (s.setAct i k v).dict.pub = s.dict.pub := rfl
@[simp] theorem State.setAct_dict_claims (s : State) (i k : Nat) (v : Bytes) : (s.setAct i k v).dict.claims = s.dict.claims := rfl
@[simp] theorem State.setAct_dict_store (s : State) (i k : Nat) (v : Bytes) : (s.setAct i k v).dict.store = s.dict.store := rfl
@[simp] theorem State.setAct_dict_sets (s : State) (i k : Nat) (v : Bytes) : (s.setAct i k v).dict.sets = s.dict.sets := rfl
@[simp] theorem State.setAct_dict_xfers (s : State) (i k : Nat) (v : Bytes) : (s.setAct i k v).dict.xfers = s.dict.xfers := rfl
@[simp] theorem State.setAct_dict_lastTxn (s : State) (i k : Nat) (v : Bytes) : (s.setAct i k v).dict.lastTxn = s.dict.lastTxn := rfl
@[simp] theorem State.setAct_dict_lastResp (s : State) (i k : Nat) (v : Bytes) : (s.setAct i k v).dict.lastResp = s.dict.lastResp := rfl
@[simp] theorem State.setAct_dict_resp (s : State) (i k : Nat) (v : Bytes) : (s.setAct i k v).dict.resp = s.dict.resp := rfl
@[simp] theorem State.setAct_dict_sent (s : State) (i k : Nat) (v : Bytes) : (s.setAct i k v).dict.sent = s.dict.sent := rfl
@[simp] theorem State.setAct_dict_commits (s : State) (i k : Nat) (v : Bytes) : (s.setAct i k v).dict.commits = s.dict.commits := rfl
@[simp] theorem State.setAct_dict_results (s : State) (i k : Nat) (v : Bytes) : (s.setAct i k v).dict.results = s.dict.results := rfl
@[simp] theorem State.setAct_dict_lastSeq (s : State) (i k : Nat) (v : Bytes) : (s.setAct i k v).dict.lastSeq = s.dict.lastSeq := rfl
@[simp] theorem State.setAct_dict_expired (s : State) (i k : Nat) (v : Bytes) : (s.setAct i k v).dict.expired = s.dict.expired := rfl
@[simp] theorem State.setAct_ev (s : State) (i k : Nat) (v : Bytes) : (s.setAct i k v).ev = s.ev := rfl
@[simp] theorem State.setAct_mem (s : State) (i k : Nat) (v : Bytes) : (s.setAct i k v).mem = s.mem := rfl
@[simp] theorem State.setAct_rings (s : State) (i k : Nat) (v : Bytes) : (s.setAct i k v).rings = s.rings := rfl
@[simp] theorem State.setAct_ledger (s : State) (i k : Nat) (v : Bytes) : (s.setAct i k v).ledger = s.ledger := rfl
@[simp] theorem State.setAct_shards (s : State) (i k : Nat) (v : Bytes) : (s.setAct i k v).shards = s.shards := rfl
@[simp] theorem State.setAct_log (s : State) (i k : Nat) (v : Bytes) : (s.setAct i k v).log = s.log := rfl
@[simp] theorem State.setAct_flash (s : State) (i k : Nat) (v : Bytes) : (s.setAct i k v).flash = s.flash := rfl
@[simp] theorem State.setAct_tier (s : State) (i k : Nat) (v : Bytes) : (s.setAct i k v).tier = s.tier := rfl
@[simp] theorem State.setAct_codebooks (s : State) (i k : Nat) (v : Bytes) : (s.setAct i k v).codebooks = s.codebooks := rfl
@[simp] theorem State.setAct_models (s : State) (i k : Nat) (v : Bytes) : (s.setAct i k v).models = s.models := rfl
@[simp] theorem State.setAct_caches (s : State) (i k : Nat) (v : Bytes) : (s.setAct i k v).caches = s.caches := rfl
@[simp] theorem State.setAct_nextCache (s : State) (i k : Nat) (v : Bytes) : (s.setAct i k v).nextCache = s.nextCache := rfl
@[simp] theorem State.setAct_arrays (s : State) (i k : Nat) (v : Bytes) : (s.setAct i k v).arrays = s.arrays := rfl
@[simp] theorem State.setAct_embs (s : State) (i k : Nat) (v : Bytes) : (s.setAct i k v).embs = s.embs := rfl
@[simp] theorem State.setAct_embWinAt (s : State) (i k : Nat) (v : Bytes) : (s.setAct i k v).embWinAt = s.embWinAt := rfl
@[simp] theorem State.setAct_tills (s : State) (i k : Nat) (v : Bytes) : (s.setAct i k v).tills = s.tills := rfl
@[simp] theorem State.setAct_queues (s : State) (i k : Nat) (v : Bytes) : (s.setAct i k v).queues = s.queues := rfl
@[simp] theorem State.setAct_tx (s : State) (i k : Nat) (v : Bytes) : (s.setAct i k v).tx = s.tx := rfl
@[simp] theorem State.setAct_sent (s : State) (i k : Nat) (v : Bytes) : (s.setAct i k v).sent = s.sent := rfl
@[simp] theorem State.setAct_qps (s : State) (i k : Nat) (v : Bytes) : (s.setAct i k v).qps = s.qps := rfl
@[simp] theorem State.setAct_hedge (s : State) (i k : Nat) (v : Bytes) : (s.setAct i k v).hedge = s.hedge := rfl
@[simp] theorem State.setAct_eth (s : State) (i k : Nat) (v : Bytes) : (s.setAct i k v).eth = s.eth := rfl
@[simp] theorem State.setAct_traf (s : State) (i k : Nat) (v : Bytes) : (s.setAct i k v).traf = s.traf := rfl
@[simp] theorem State.setAct_sec (s : State) (i k : Nat) (v : Bytes) : (s.setAct i k v).sec = s.sec := rfl
@[simp] theorem State.setAct_parts (s : State) (i k : Nat) (v : Bytes) : (s.setAct i k v).parts = s.parts := rfl
@[simp] theorem State.setAct_pwr (s : State) (i k : Nat) (v : Bytes) : (s.setAct i k v).pwr = s.pwr := rfl
@[simp] theorem State.setAct_resp (s : State) (i k : Nat) (v : Bytes) : (s.setAct i k v).resp = s.resp := rfl
@[simp] theorem State.setAct_freeCtr (s : State) (i k : Nat) (v : Bytes) : (s.setAct i k v).freeCtr = s.freeCtr := rfl

@[simp] theorem State.evBy_pending (s : State) (a c l : Nat) (u : Option (Nat × Nat)) (d : Nat) : (s.evBy a c l u d).pending = s.pending := rfl
@[simp] theorem State.evBy_step (s : State) (a c l : Nat) (u : Option (Nat × Nat)) (d : Nat) : (s.evBy a c l u d).step = s.step := rfl
@[simp] theorem State.evBy_node_plots (s : State) (a c l : Nat) (u : Option (Nat × Nat)) (d : Nat) : (s.evBy a c l u d).node.plots = s.node.plots := by unfold State.evBy; dsimp only [State.bump, State.setN, State.setLive]; split <;> rfl
@[simp] theorem State.evBy_node_tillers (s : State) (a c l : Nat) (u : Option (Nat × Nat)) (d : Nat) : (s.evBy a c l u d).node.tillers = s.node.tillers := by unfold State.evBy; dsimp only [State.bump, State.setN, State.setLive]; split <;> rfl
@[simp] theorem State.evBy_node_gates (s : State) (a c l : Nat) (u : Option (Nat × Nat)) (d : Nat) : (s.evBy a c l u d).node.gates = s.node.gates := by unfold State.evBy; dsimp only [State.bump, State.setN, State.setLive]; split <;> rfl
@[simp] theorem State.evBy_node_bars (s : State) (a c l : Nat) (u : Option (Nat × Nat)) (d : Nat) : (s.evBy a c l u d).node.bars = s.node.bars := by unfold State.evBy; dsimp only [State.bump, State.setN, State.setLive]; split <;> rfl
@[simp] theorem State.evBy_node_strings (s : State) (a c l : Nat) (u : Option (Nat × Nat)) (d : Nat) : (s.evBy a c l u d).node.strings = s.node.strings := by unfold State.evBy; dsimp only [State.bump, State.setN, State.setLive]; split <;> rfl
@[simp] theorem State.evBy_node_gateStrings (s : State) (a c l : Nat) (u : Option (Nat × Nat)) (d : Nat) : (s.evBy a c l u d).node.gateStrings = s.node.gateStrings := by unfold State.evBy; dsimp only [State.bump, State.setN, State.setLive]; split <;> rfl
@[simp] theorem State.evBy_node_handDie (s : State) (a c l : Nat) (u : Option (Nat × Nat)) (d : Nat) : (s.evBy a c l u d).node.handDie = s.node.handDie := by unfold State.evBy; dsimp only [State.bump, State.setN, State.setLive]; split <;> rfl
@[simp] theorem State.evBy_node_handAlive (s : State) (a c l : Nat) (u : Option (Nat × Nat)) (d : Nat) : (s.evBy a c l u d).node.handAlive = s.node.handAlive := by unfold State.evBy; dsimp only [State.bump, State.setN, State.setLive]; split <;> rfl
@[simp] theorem State.evBy_node_altStarting (s : State) (a c l : Nat) (u : Option (Nat × Nat)) (d : Nat) : (s.evBy a c l u d).node.altStarting = s.node.altStarting := by unfold State.evBy; dsimp only [State.bump, State.setN, State.setLive]; split <;> rfl
@[simp] theorem State.evBy_node_g0Lost (s : State) (a c l : Nat) (u : Option (Nat × Nat)) (d : Nat) : (s.evBy a c l u d).node.g0Lost = s.node.g0Lost := by unfold State.evBy; dsimp only [State.bump, State.setN, State.setLive]; split <;> rfl
@[simp] theorem State.evBy_node_nearOut (s : State) (a c l : Nat) (u : Option (Nat × Nat)) (d : Nat) : (s.evBy a c l u d).node.nearOut = s.node.nearOut := by unfold State.evBy; dsimp only [State.bump, State.setN, State.setLive]; split <;> rfl
@[simp] theorem State.evBy_node_farOut (s : State) (a c l : Nat) (u : Option (Nat × Nat)) (d : Nat) : (s.evBy a c l u d).node.farOut = s.node.farOut := by unfold State.evBy; dsimp only [State.bump, State.setN, State.setLive]; split <;> rfl
@[simp] theorem State.evBy_node_retired (s : State) (a c l : Nat) (u : Option (Nat × Nat)) (d : Nat) : (s.evBy a c l u d).node.retired = s.node.retired := by unfold State.evBy; dsimp only [State.bump, State.setN, State.setLive]; split <;> rfl
@[simp] theorem State.evBy_node_restart (s : State) (a c l : Nat) (u : Option (Nat × Nat)) (d : Nat) : (s.evBy a c l u d).node.restart = s.node.restart := by unfold State.evBy; dsimp only [State.bump, State.setN, State.setLive]; split <;> rfl
@[simp] theorem State.evBy_dict_committed (s : State) (a c l : Nat) (u : Option (Nat × Nat)) (d : Nat) : (s.evBy a c l u d).dict.committed = s.dict.committed := rfl
@[simp] theorem State.evBy_dict_active (s : State) (a c l : Nat) (u : Option (Nat × Nat)) (d : Nat) : (s.evBy a c l u d).dict.active = s.dict.active := rfl
@[simp] theorem State.evBy_dict_pub (s : State) (a c l : Nat) (u : Option (Nat × Nat)) (d : Nat) : (s.evBy a c l u d).dict.pub = s.dict.pub := rfl
@[simp] theorem State.evBy_dict_claims (s : State) (a c l : Nat) (u : Option (Nat × Nat)) (d : Nat) : (s.evBy a c l u d).dict.claims = s.dict.claims := rfl
@[simp] theorem State.evBy_dict_store (s : State) (a c l : Nat) (u : Option (Nat × Nat)) (d : Nat) : (s.evBy a c l u d).dict.store = s.dict.store := rfl
@[simp] theorem State.evBy_dict_sets (s : State) (a c l : Nat) (u : Option (Nat × Nat)) (d : Nat) : (s.evBy a c l u d).dict.sets = s.dict.sets := rfl
@[simp] theorem State.evBy_dict_xfers (s : State) (a c l : Nat) (u : Option (Nat × Nat)) (d : Nat) : (s.evBy a c l u d).dict.xfers = s.dict.xfers := rfl
@[simp] theorem State.evBy_dict_lastTxn (s : State) (a c l : Nat) (u : Option (Nat × Nat)) (d : Nat) : (s.evBy a c l u d).dict.lastTxn = s.dict.lastTxn := rfl
@[simp] theorem State.evBy_dict_lastResp (s : State) (a c l : Nat) (u : Option (Nat × Nat)) (d : Nat) : (s.evBy a c l u d).dict.lastResp = s.dict.lastResp := rfl
@[simp] theorem State.evBy_dict_resp (s : State) (a c l : Nat) (u : Option (Nat × Nat)) (d : Nat) : (s.evBy a c l u d).dict.resp = s.dict.resp := rfl
@[simp] theorem State.evBy_dict_sent (s : State) (a c l : Nat) (u : Option (Nat × Nat)) (d : Nat) : (s.evBy a c l u d).dict.sent = s.dict.sent := rfl
@[simp] theorem State.evBy_dict_commits (s : State) (a c l : Nat) (u : Option (Nat × Nat)) (d : Nat) : (s.evBy a c l u d).dict.commits = s.dict.commits := rfl
@[simp] theorem State.evBy_dict_results (s : State) (a c l : Nat) (u : Option (Nat × Nat)) (d : Nat) : (s.evBy a c l u d).dict.results = s.dict.results := rfl
@[simp] theorem State.evBy_dict_lastSeq (s : State) (a c l : Nat) (u : Option (Nat × Nat)) (d : Nat) : (s.evBy a c l u d).dict.lastSeq = s.dict.lastSeq := rfl
@[simp] theorem State.evBy_dict_expired (s : State) (a c l : Nat) (u : Option (Nat × Nat)) (d : Nat) : (s.evBy a c l u d).dict.expired = s.dict.expired := rfl
@[simp] theorem State.evBy_ev_ring (s : State) (a c l : Nat) (u : Option (Nat × Nat)) (d : Nat) : (s.evBy a c l u d).ev.ring = s.ev.ring := by unfold State.evBy; dsimp only [State.bump, State.setN, State.setLive]; cases s.step.running <;> rfl
@[simp] theorem State.evBy_ev_records (s : State) (a c l : Nat) (u : Option (Nat × Nat)) (d : Nat) : (s.evBy a c l u d).ev.records = s.ev.records := by unfold State.evBy; dsimp only [State.bump, State.setN, State.setLive]; cases s.step.running <;> rfl
@[simp] theorem State.evBy_ev_produced (s : State) (a c l : Nat) (u : Option (Nat × Nat)) (d : Nat) : (s.evBy a c l u d).ev.produced = s.ev.produced := by unfold State.evBy; dsimp only [State.bump, State.setN, State.setLive]; cases s.step.running <;> rfl
@[simp] theorem State.evBy_ev_consumed (s : State) (a c l : Nat) (u : Option (Nat × Nat)) (d : Nat) : (s.evBy a c l u d).ev.consumed = s.ev.consumed := by unfold State.evBy; dsimp only [State.bump, State.setN, State.setLive]; cases s.step.running <;> rfl
@[simp] theorem State.evBy_ev_lost (s : State) (a c l : Nat) (u : Option (Nat × Nat)) (d : Nat) : (s.evBy a c l u d).ev.lost = s.ev.lost := by unfold State.evBy; dsimp only [State.bump, State.setN, State.setLive]; cases s.step.running <;> rfl
@[simp] theorem State.evBy_ev_lostRun (s : State) (a c l : Nat) (u : Option (Nat × Nat)) (d : Nat) : (s.evBy a c l u d).ev.lostRun = s.ev.lostRun := by unfold State.evBy; dsimp only [State.bump, State.setN, State.setLive]; cases s.step.running <;> rfl
@[simp] theorem State.evBy_ev_notices (s : State) (a c l : Nat) (u : Option (Nat × Nat)) (d : Nat) : (s.evBy a c l u d).ev.notices = s.ev.notices := by unfold State.evBy; dsimp only [State.bump, State.setN, State.setLive]; cases s.step.running <;> rfl
@[simp] theorem State.evBy_ev_runs (s : State) (a c l : Nat) (u : Option (Nat × Nat)) (d : Nat) : (s.evBy a c l u d).ev.runs = s.ev.runs := by unfold State.evBy; dsimp only [State.bump, State.setN, State.setLive]; cases s.step.running <;> rfl
@[simp] theorem State.evBy_mem (s : State) (a c l : Nat) (u : Option (Nat × Nat)) (d : Nat) : (s.evBy a c l u d).mem = s.mem := rfl
@[simp] theorem State.evBy_rings (s : State) (a c l : Nat) (u : Option (Nat × Nat)) (d : Nat) : (s.evBy a c l u d).rings = s.rings := rfl
@[simp] theorem State.evBy_ledger (s : State) (a c l : Nat) (u : Option (Nat × Nat)) (d : Nat) : (s.evBy a c l u d).ledger = s.ledger := rfl
@[simp] theorem State.evBy_shards (s : State) (a c l : Nat) (u : Option (Nat × Nat)) (d : Nat) : (s.evBy a c l u d).shards = s.shards := rfl
@[simp] theorem State.evBy_log (s : State) (a c l : Nat) (u : Option (Nat × Nat)) (d : Nat) : (s.evBy a c l u d).log = s.log := rfl
@[simp] theorem State.evBy_flash (s : State) (a c l : Nat) (u : Option (Nat × Nat)) (d : Nat) : (s.evBy a c l u d).flash = s.flash := rfl
@[simp] theorem State.evBy_tier (s : State) (a c l : Nat) (u : Option (Nat × Nat)) (d : Nat) : (s.evBy a c l u d).tier = s.tier := rfl
@[simp] theorem State.evBy_codebooks (s : State) (a c l : Nat) (u : Option (Nat × Nat)) (d : Nat) : (s.evBy a c l u d).codebooks = s.codebooks := rfl
@[simp] theorem State.evBy_models (s : State) (a c l : Nat) (u : Option (Nat × Nat)) (d : Nat) : (s.evBy a c l u d).models = s.models := rfl
@[simp] theorem State.evBy_caches (s : State) (a c l : Nat) (u : Option (Nat × Nat)) (d : Nat) : (s.evBy a c l u d).caches = s.caches := rfl
@[simp] theorem State.evBy_nextCache (s : State) (a c l : Nat) (u : Option (Nat × Nat)) (d : Nat) : (s.evBy a c l u d).nextCache = s.nextCache := rfl
@[simp] theorem State.evBy_arrays (s : State) (a c l : Nat) (u : Option (Nat × Nat)) (d : Nat) : (s.evBy a c l u d).arrays = s.arrays := rfl
@[simp] theorem State.evBy_embs (s : State) (a c l : Nat) (u : Option (Nat × Nat)) (d : Nat) : (s.evBy a c l u d).embs = s.embs := rfl
@[simp] theorem State.evBy_embWinAt (s : State) (a c l : Nat) (u : Option (Nat × Nat)) (d : Nat) : (s.evBy a c l u d).embWinAt = s.embWinAt := rfl
@[simp] theorem State.evBy_tills (s : State) (a c l : Nat) (u : Option (Nat × Nat)) (d : Nat) : (s.evBy a c l u d).tills = s.tills := rfl
@[simp] theorem State.evBy_queues (s : State) (a c l : Nat) (u : Option (Nat × Nat)) (d : Nat) : (s.evBy a c l u d).queues = s.queues := rfl
@[simp] theorem State.evBy_tx (s : State) (a c l : Nat) (u : Option (Nat × Nat)) (d : Nat) : (s.evBy a c l u d).tx = s.tx := rfl
@[simp] theorem State.evBy_sent (s : State) (a c l : Nat) (u : Option (Nat × Nat)) (d : Nat) : (s.evBy a c l u d).sent = s.sent := rfl
@[simp] theorem State.evBy_qps (s : State) (a c l : Nat) (u : Option (Nat × Nat)) (d : Nat) : (s.evBy a c l u d).qps = s.qps := rfl
@[simp] theorem State.evBy_hedge (s : State) (a c l : Nat) (u : Option (Nat × Nat)) (d : Nat) : (s.evBy a c l u d).hedge = s.hedge := rfl
@[simp] theorem State.evBy_eth (s : State) (a c l : Nat) (u : Option (Nat × Nat)) (d : Nat) : (s.evBy a c l u d).eth = s.eth := rfl
@[simp] theorem State.evBy_traf (s : State) (a c l : Nat) (u : Option (Nat × Nat)) (d : Nat) : (s.evBy a c l u d).traf = s.traf := rfl
@[simp] theorem State.evBy_sec (s : State) (a c l : Nat) (u : Option (Nat × Nat)) (d : Nat) : (s.evBy a c l u d).sec = s.sec := rfl
@[simp] theorem State.evBy_parts (s : State) (a c l : Nat) (u : Option (Nat × Nat)) (d : Nat) : (s.evBy a c l u d).parts = s.parts := rfl
@[simp] theorem State.evBy_pwr (s : State) (a c l : Nat) (u : Option (Nat × Nat)) (d : Nat) : (s.evBy a c l u d).pwr = s.pwr := rfl
@[simp] theorem State.evBy_resp (s : State) (a c l : Nat) (u : Option (Nat × Nat)) (d : Nat) : (s.evBy a c l u d).resp = s.resp := rfl
@[simp] theorem State.evBy_freeCtr (s : State) (a c l : Nat) (u : Option (Nat × Nat)) (d : Nat) : (s.evBy a c l u d).freeCtr = s.freeCtr := rfl

@[simp] theorem State.evU_pending (s : State) (c l : Nat) (u : Option (Nat × Nat)) (d : Nat) : (s.evU c l u d).pending = s.pending := State.evBy_pending ..
@[simp] theorem State.evU_step (s : State) (c l : Nat) (u : Option (Nat × Nat)) (d : Nat) : (s.evU c l u d).step = s.step := State.evBy_step ..
@[simp] theorem State.evU_node_plots (s : State) (c l : Nat) (u : Option (Nat × Nat)) (d : Nat) : (s.evU c l u d).node.plots = s.node.plots := State.evBy_node_plots ..
@[simp] theorem State.evU_node_tillers (s : State) (c l : Nat) (u : Option (Nat × Nat)) (d : Nat) : (s.evU c l u d).node.tillers = s.node.tillers := State.evBy_node_tillers ..
@[simp] theorem State.evU_node_gates (s : State) (c l : Nat) (u : Option (Nat × Nat)) (d : Nat) : (s.evU c l u d).node.gates = s.node.gates := State.evBy_node_gates ..
@[simp] theorem State.evU_node_bars (s : State) (c l : Nat) (u : Option (Nat × Nat)) (d : Nat) : (s.evU c l u d).node.bars = s.node.bars := State.evBy_node_bars ..
@[simp] theorem State.evU_node_strings (s : State) (c l : Nat) (u : Option (Nat × Nat)) (d : Nat) : (s.evU c l u d).node.strings = s.node.strings := State.evBy_node_strings ..
@[simp] theorem State.evU_node_gateStrings (s : State) (c l : Nat) (u : Option (Nat × Nat)) (d : Nat) : (s.evU c l u d).node.gateStrings = s.node.gateStrings := State.evBy_node_gateStrings ..
@[simp] theorem State.evU_node_handDie (s : State) (c l : Nat) (u : Option (Nat × Nat)) (d : Nat) : (s.evU c l u d).node.handDie = s.node.handDie := State.evBy_node_handDie ..
@[simp] theorem State.evU_node_handAlive (s : State) (c l : Nat) (u : Option (Nat × Nat)) (d : Nat) : (s.evU c l u d).node.handAlive = s.node.handAlive := State.evBy_node_handAlive ..
@[simp] theorem State.evU_node_altStarting (s : State) (c l : Nat) (u : Option (Nat × Nat)) (d : Nat) : (s.evU c l u d).node.altStarting = s.node.altStarting := State.evBy_node_altStarting ..
@[simp] theorem State.evU_node_g0Lost (s : State) (c l : Nat) (u : Option (Nat × Nat)) (d : Nat) : (s.evU c l u d).node.g0Lost = s.node.g0Lost := State.evBy_node_g0Lost ..
@[simp] theorem State.evU_node_nearOut (s : State) (c l : Nat) (u : Option (Nat × Nat)) (d : Nat) : (s.evU c l u d).node.nearOut = s.node.nearOut := State.evBy_node_nearOut ..
@[simp] theorem State.evU_node_farOut (s : State) (c l : Nat) (u : Option (Nat × Nat)) (d : Nat) : (s.evU c l u d).node.farOut = s.node.farOut := State.evBy_node_farOut ..
@[simp] theorem State.evU_node_retired (s : State) (c l : Nat) (u : Option (Nat × Nat)) (d : Nat) : (s.evU c l u d).node.retired = s.node.retired := State.evBy_node_retired ..
@[simp] theorem State.evU_node_restart (s : State) (c l : Nat) (u : Option (Nat × Nat)) (d : Nat) : (s.evU c l u d).node.restart = s.node.restart := State.evBy_node_restart ..
@[simp] theorem State.evU_dict_committed (s : State) (c l : Nat) (u : Option (Nat × Nat)) (d : Nat) : (s.evU c l u d).dict.committed = s.dict.committed := State.evBy_dict_committed ..
@[simp] theorem State.evU_dict_active (s : State) (c l : Nat) (u : Option (Nat × Nat)) (d : Nat) : (s.evU c l u d).dict.active = s.dict.active := State.evBy_dict_active ..
@[simp] theorem State.evU_dict_pub (s : State) (c l : Nat) (u : Option (Nat × Nat)) (d : Nat) : (s.evU c l u d).dict.pub = s.dict.pub := State.evBy_dict_pub ..
@[simp] theorem State.evU_dict_claims (s : State) (c l : Nat) (u : Option (Nat × Nat)) (d : Nat) : (s.evU c l u d).dict.claims = s.dict.claims := State.evBy_dict_claims ..
@[simp] theorem State.evU_dict_store (s : State) (c l : Nat) (u : Option (Nat × Nat)) (d : Nat) : (s.evU c l u d).dict.store = s.dict.store := State.evBy_dict_store ..
@[simp] theorem State.evU_dict_sets (s : State) (c l : Nat) (u : Option (Nat × Nat)) (d : Nat) : (s.evU c l u d).dict.sets = s.dict.sets := State.evBy_dict_sets ..
@[simp] theorem State.evU_dict_xfers (s : State) (c l : Nat) (u : Option (Nat × Nat)) (d : Nat) : (s.evU c l u d).dict.xfers = s.dict.xfers := State.evBy_dict_xfers ..
@[simp] theorem State.evU_dict_lastTxn (s : State) (c l : Nat) (u : Option (Nat × Nat)) (d : Nat) : (s.evU c l u d).dict.lastTxn = s.dict.lastTxn := State.evBy_dict_lastTxn ..
@[simp] theorem State.evU_dict_lastResp (s : State) (c l : Nat) (u : Option (Nat × Nat)) (d : Nat) : (s.evU c l u d).dict.lastResp = s.dict.lastResp := State.evBy_dict_lastResp ..
@[simp] theorem State.evU_dict_resp (s : State) (c l : Nat) (u : Option (Nat × Nat)) (d : Nat) : (s.evU c l u d).dict.resp = s.dict.resp := State.evBy_dict_resp ..
@[simp] theorem State.evU_dict_sent (s : State) (c l : Nat) (u : Option (Nat × Nat)) (d : Nat) : (s.evU c l u d).dict.sent = s.dict.sent := State.evBy_dict_sent ..
@[simp] theorem State.evU_dict_commits (s : State) (c l : Nat) (u : Option (Nat × Nat)) (d : Nat) : (s.evU c l u d).dict.commits = s.dict.commits := State.evBy_dict_commits ..
@[simp] theorem State.evU_dict_results (s : State) (c l : Nat) (u : Option (Nat × Nat)) (d : Nat) : (s.evU c l u d).dict.results = s.dict.results := State.evBy_dict_results ..
@[simp] theorem State.evU_dict_lastSeq (s : State) (c l : Nat) (u : Option (Nat × Nat)) (d : Nat) : (s.evU c l u d).dict.lastSeq = s.dict.lastSeq := State.evBy_dict_lastSeq ..
@[simp] theorem State.evU_dict_expired (s : State) (c l : Nat) (u : Option (Nat × Nat)) (d : Nat) : (s.evU c l u d).dict.expired = s.dict.expired := State.evBy_dict_expired ..
@[simp] theorem State.evU_ev_ring (s : State) (c l : Nat) (u : Option (Nat × Nat)) (d : Nat) : (s.evU c l u d).ev.ring = s.ev.ring := State.evBy_ev_ring ..
@[simp] theorem State.evU_ev_records (s : State) (c l : Nat) (u : Option (Nat × Nat)) (d : Nat) : (s.evU c l u d).ev.records = s.ev.records := State.evBy_ev_records ..
@[simp] theorem State.evU_ev_produced (s : State) (c l : Nat) (u : Option (Nat × Nat)) (d : Nat) : (s.evU c l u d).ev.produced = s.ev.produced := State.evBy_ev_produced ..
@[simp] theorem State.evU_ev_consumed (s : State) (c l : Nat) (u : Option (Nat × Nat)) (d : Nat) : (s.evU c l u d).ev.consumed = s.ev.consumed := State.evBy_ev_consumed ..
@[simp] theorem State.evU_ev_lost (s : State) (c l : Nat) (u : Option (Nat × Nat)) (d : Nat) : (s.evU c l u d).ev.lost = s.ev.lost := State.evBy_ev_lost ..
@[simp] theorem State.evU_ev_lostRun (s : State) (c l : Nat) (u : Option (Nat × Nat)) (d : Nat) : (s.evU c l u d).ev.lostRun = s.ev.lostRun := State.evBy_ev_lostRun ..
@[simp] theorem State.evU_ev_notices (s : State) (c l : Nat) (u : Option (Nat × Nat)) (d : Nat) : (s.evU c l u d).ev.notices = s.ev.notices := State.evBy_ev_notices ..
@[simp] theorem State.evU_ev_runs (s : State) (c l : Nat) (u : Option (Nat × Nat)) (d : Nat) : (s.evU c l u d).ev.runs = s.ev.runs := State.evBy_ev_runs ..
@[simp] theorem State.evU_mem (s : State) (c l : Nat) (u : Option (Nat × Nat)) (d : Nat) : (s.evU c l u d).mem = s.mem := State.evBy_mem ..
@[simp] theorem State.evU_rings (s : State) (c l : Nat) (u : Option (Nat × Nat)) (d : Nat) : (s.evU c l u d).rings = s.rings := State.evBy_rings ..
@[simp] theorem State.evU_ledger (s : State) (c l : Nat) (u : Option (Nat × Nat)) (d : Nat) : (s.evU c l u d).ledger = s.ledger := State.evBy_ledger ..
@[simp] theorem State.evU_shards (s : State) (c l : Nat) (u : Option (Nat × Nat)) (d : Nat) : (s.evU c l u d).shards = s.shards := State.evBy_shards ..
@[simp] theorem State.evU_log (s : State) (c l : Nat) (u : Option (Nat × Nat)) (d : Nat) : (s.evU c l u d).log = s.log := State.evBy_log ..
@[simp] theorem State.evU_flash (s : State) (c l : Nat) (u : Option (Nat × Nat)) (d : Nat) : (s.evU c l u d).flash = s.flash := State.evBy_flash ..
@[simp] theorem State.evU_tier (s : State) (c l : Nat) (u : Option (Nat × Nat)) (d : Nat) : (s.evU c l u d).tier = s.tier := State.evBy_tier ..
@[simp] theorem State.evU_codebooks (s : State) (c l : Nat) (u : Option (Nat × Nat)) (d : Nat) : (s.evU c l u d).codebooks = s.codebooks := State.evBy_codebooks ..
@[simp] theorem State.evU_models (s : State) (c l : Nat) (u : Option (Nat × Nat)) (d : Nat) : (s.evU c l u d).models = s.models := State.evBy_models ..
@[simp] theorem State.evU_caches (s : State) (c l : Nat) (u : Option (Nat × Nat)) (d : Nat) : (s.evU c l u d).caches = s.caches := State.evBy_caches ..
@[simp] theorem State.evU_nextCache (s : State) (c l : Nat) (u : Option (Nat × Nat)) (d : Nat) : (s.evU c l u d).nextCache = s.nextCache := State.evBy_nextCache ..
@[simp] theorem State.evU_arrays (s : State) (c l : Nat) (u : Option (Nat × Nat)) (d : Nat) : (s.evU c l u d).arrays = s.arrays := State.evBy_arrays ..
@[simp] theorem State.evU_embs (s : State) (c l : Nat) (u : Option (Nat × Nat)) (d : Nat) : (s.evU c l u d).embs = s.embs := State.evBy_embs ..
@[simp] theorem State.evU_embWinAt (s : State) (c l : Nat) (u : Option (Nat × Nat)) (d : Nat) : (s.evU c l u d).embWinAt = s.embWinAt := State.evBy_embWinAt ..
@[simp] theorem State.evU_tills (s : State) (c l : Nat) (u : Option (Nat × Nat)) (d : Nat) : (s.evU c l u d).tills = s.tills := State.evBy_tills ..
@[simp] theorem State.evU_queues (s : State) (c l : Nat) (u : Option (Nat × Nat)) (d : Nat) : (s.evU c l u d).queues = s.queues := State.evBy_queues ..
@[simp] theorem State.evU_tx (s : State) (c l : Nat) (u : Option (Nat × Nat)) (d : Nat) : (s.evU c l u d).tx = s.tx := State.evBy_tx ..
@[simp] theorem State.evU_sent (s : State) (c l : Nat) (u : Option (Nat × Nat)) (d : Nat) : (s.evU c l u d).sent = s.sent := State.evBy_sent ..
@[simp] theorem State.evU_qps (s : State) (c l : Nat) (u : Option (Nat × Nat)) (d : Nat) : (s.evU c l u d).qps = s.qps := State.evBy_qps ..
@[simp] theorem State.evU_hedge (s : State) (c l : Nat) (u : Option (Nat × Nat)) (d : Nat) : (s.evU c l u d).hedge = s.hedge := State.evBy_hedge ..
@[simp] theorem State.evU_eth (s : State) (c l : Nat) (u : Option (Nat × Nat)) (d : Nat) : (s.evU c l u d).eth = s.eth := State.evBy_eth ..
@[simp] theorem State.evU_traf (s : State) (c l : Nat) (u : Option (Nat × Nat)) (d : Nat) : (s.evU c l u d).traf = s.traf := State.evBy_traf ..
@[simp] theorem State.evU_sec (s : State) (c l : Nat) (u : Option (Nat × Nat)) (d : Nat) : (s.evU c l u d).sec = s.sec := State.evBy_sec ..
@[simp] theorem State.evU_parts (s : State) (c l : Nat) (u : Option (Nat × Nat)) (d : Nat) : (s.evU c l u d).parts = s.parts := State.evBy_parts ..
@[simp] theorem State.evU_pwr (s : State) (c l : Nat) (u : Option (Nat × Nat)) (d : Nat) : (s.evU c l u d).pwr = s.pwr := State.evBy_pwr ..
@[simp] theorem State.evU_resp (s : State) (c l : Nat) (u : Option (Nat × Nat)) (d : Nat) : (s.evU c l u d).resp = s.resp := State.evBy_resp ..
@[simp] theorem State.evU_freeCtr (s : State) (c l : Nat) (u : Option (Nat × Nat)) (d : Nat) : (s.evU c l u d).freeCtr = s.freeCtr := State.evBy_freeCtr ..

@[simp] theorem State.raise_pending (s : State) (c l d : Nat) : (s.raise c l d).pending = s.pending := rfl
@[simp] theorem State.raise_step (s : State) (c l d : Nat) : (s.raise c l d).step = s.step := rfl
@[simp] theorem State.raise_node_plots (s : State) (c l d : Nat) : (s.raise c l d).node.plots = s.node.plots := State.evU_node_plots ..
@[simp] theorem State.raise_node_tillers (s : State) (c l d : Nat) : (s.raise c l d).node.tillers = s.node.tillers := State.evU_node_tillers ..
@[simp] theorem State.raise_node_gates (s : State) (c l d : Nat) : (s.raise c l d).node.gates = s.node.gates := State.evU_node_gates ..
@[simp] theorem State.raise_node_bars (s : State) (c l d : Nat) : (s.raise c l d).node.bars = s.node.bars := State.evU_node_bars ..
@[simp] theorem State.raise_node_strings (s : State) (c l d : Nat) : (s.raise c l d).node.strings = s.node.strings := State.evU_node_strings ..
@[simp] theorem State.raise_node_gateStrings (s : State) (c l d : Nat) : (s.raise c l d).node.gateStrings = s.node.gateStrings := State.evU_node_gateStrings ..
@[simp] theorem State.raise_node_handDie (s : State) (c l d : Nat) : (s.raise c l d).node.handDie = s.node.handDie := State.evU_node_handDie ..
@[simp] theorem State.raise_node_handAlive (s : State) (c l d : Nat) : (s.raise c l d).node.handAlive = s.node.handAlive := State.evU_node_handAlive ..
@[simp] theorem State.raise_node_altStarting (s : State) (c l d : Nat) : (s.raise c l d).node.altStarting = s.node.altStarting := State.evU_node_altStarting ..
@[simp] theorem State.raise_node_g0Lost (s : State) (c l d : Nat) : (s.raise c l d).node.g0Lost = s.node.g0Lost := State.evU_node_g0Lost ..
@[simp] theorem State.raise_node_nearOut (s : State) (c l d : Nat) : (s.raise c l d).node.nearOut = s.node.nearOut := State.evU_node_nearOut ..
@[simp] theorem State.raise_node_farOut (s : State) (c l d : Nat) : (s.raise c l d).node.farOut = s.node.farOut := State.evU_node_farOut ..
@[simp] theorem State.raise_node_retired (s : State) (c l d : Nat) : (s.raise c l d).node.retired = s.node.retired := State.evU_node_retired ..
@[simp] theorem State.raise_node_restart (s : State) (c l d : Nat) : (s.raise c l d).node.restart = s.node.restart := State.evU_node_restart ..
@[simp] theorem State.raise_dict_committed (s : State) (c l d : Nat) : (s.raise c l d).dict.committed = s.dict.committed := rfl
@[simp] theorem State.raise_dict_active (s : State) (c l d : Nat) : (s.raise c l d).dict.active = s.dict.active := rfl
@[simp] theorem State.raise_dict_pub (s : State) (c l d : Nat) : (s.raise c l d).dict.pub = s.dict.pub := rfl
@[simp] theorem State.raise_dict_claims (s : State) (c l d : Nat) : (s.raise c l d).dict.claims = s.dict.claims := rfl
@[simp] theorem State.raise_dict_store (s : State) (c l d : Nat) : (s.raise c l d).dict.store = s.dict.store := rfl
@[simp] theorem State.raise_dict_sets (s : State) (c l d : Nat) : (s.raise c l d).dict.sets = s.dict.sets := rfl
@[simp] theorem State.raise_dict_xfers (s : State) (c l d : Nat) : (s.raise c l d).dict.xfers = s.dict.xfers := rfl
@[simp] theorem State.raise_dict_lastTxn (s : State) (c l d : Nat) : (s.raise c l d).dict.lastTxn = s.dict.lastTxn := rfl
@[simp] theorem State.raise_dict_lastResp (s : State) (c l d : Nat) : (s.raise c l d).dict.lastResp = s.dict.lastResp := rfl
@[simp] theorem State.raise_dict_resp (s : State) (c l d : Nat) : (s.raise c l d).dict.resp = s.dict.resp := rfl
@[simp] theorem State.raise_dict_sent (s : State) (c l d : Nat) : (s.raise c l d).dict.sent = s.dict.sent := rfl
@[simp] theorem State.raise_dict_commits (s : State) (c l d : Nat) : (s.raise c l d).dict.commits = s.dict.commits := rfl
@[simp] theorem State.raise_dict_results (s : State) (c l d : Nat) : (s.raise c l d).dict.results = s.dict.results := rfl
@[simp] theorem State.raise_dict_lastSeq (s : State) (c l d : Nat) : (s.raise c l d).dict.lastSeq = s.dict.lastSeq := rfl
@[simp] theorem State.raise_dict_expired (s : State) (c l d : Nat) : (s.raise c l d).dict.expired = s.dict.expired := rfl
@[simp] theorem State.raise_ev_ring (s : State) (c l d : Nat) : (s.raise c l d).ev.ring = s.ev.ring := State.evU_ev_ring ..
@[simp] theorem State.raise_ev_records (s : State) (c l d : Nat) : (s.raise c l d).ev.records = s.ev.records := State.evU_ev_records ..
@[simp] theorem State.raise_ev_produced (s : State) (c l d : Nat) : (s.raise c l d).ev.produced = s.ev.produced := State.evU_ev_produced ..
@[simp] theorem State.raise_ev_consumed (s : State) (c l d : Nat) : (s.raise c l d).ev.consumed = s.ev.consumed := State.evU_ev_consumed ..
@[simp] theorem State.raise_ev_lost (s : State) (c l d : Nat) : (s.raise c l d).ev.lost = s.ev.lost := State.evU_ev_lost ..
@[simp] theorem State.raise_ev_lostRun (s : State) (c l d : Nat) : (s.raise c l d).ev.lostRun = s.ev.lostRun := State.evU_ev_lostRun ..
@[simp] theorem State.raise_ev_notices (s : State) (c l d : Nat) : (s.raise c l d).ev.notices = s.ev.notices := State.evU_ev_notices ..
@[simp] theorem State.raise_ev_runs (s : State) (c l d : Nat) : (s.raise c l d).ev.runs = s.ev.runs := State.evU_ev_runs ..
@[simp] theorem State.raise_mem (s : State) (c l d : Nat) : (s.raise c l d).mem = s.mem := rfl
@[simp] theorem State.raise_rings (s : State) (c l d : Nat) : (s.raise c l d).rings = s.rings := rfl
@[simp] theorem State.raise_ledger (s : State) (c l d : Nat) : (s.raise c l d).ledger = s.ledger := rfl
@[simp] theorem State.raise_shards (s : State) (c l d : Nat) : (s.raise c l d).shards = s.shards := rfl
@[simp] theorem State.raise_log (s : State) (c l d : Nat) : (s.raise c l d).log = s.log := rfl
@[simp] theorem State.raise_flash (s : State) (c l d : Nat) : (s.raise c l d).flash = s.flash := rfl
@[simp] theorem State.raise_tier (s : State) (c l d : Nat) : (s.raise c l d).tier = s.tier := rfl
@[simp] theorem State.raise_codebooks (s : State) (c l d : Nat) : (s.raise c l d).codebooks = s.codebooks := rfl
@[simp] theorem State.raise_models (s : State) (c l d : Nat) : (s.raise c l d).models = s.models := rfl
@[simp] theorem State.raise_caches (s : State) (c l d : Nat) : (s.raise c l d).caches = s.caches := rfl
@[simp] theorem State.raise_nextCache (s : State) (c l d : Nat) : (s.raise c l d).nextCache = s.nextCache := rfl
@[simp] theorem State.raise_arrays (s : State) (c l d : Nat) : (s.raise c l d).arrays = s.arrays := rfl
@[simp] theorem State.raise_embs (s : State) (c l d : Nat) : (s.raise c l d).embs = s.embs := rfl
@[simp] theorem State.raise_embWinAt (s : State) (c l d : Nat) : (s.raise c l d).embWinAt = s.embWinAt := rfl
@[simp] theorem State.raise_tills (s : State) (c l d : Nat) : (s.raise c l d).tills = s.tills := rfl
@[simp] theorem State.raise_queues (s : State) (c l d : Nat) : (s.raise c l d).queues = s.queues := rfl
@[simp] theorem State.raise_tx (s : State) (c l d : Nat) : (s.raise c l d).tx = s.tx := rfl
@[simp] theorem State.raise_sent (s : State) (c l d : Nat) : (s.raise c l d).sent = s.sent := rfl
@[simp] theorem State.raise_qps (s : State) (c l d : Nat) : (s.raise c l d).qps = s.qps := rfl
@[simp] theorem State.raise_hedge (s : State) (c l d : Nat) : (s.raise c l d).hedge = s.hedge := rfl
@[simp] theorem State.raise_eth (s : State) (c l d : Nat) : (s.raise c l d).eth = s.eth := rfl
@[simp] theorem State.raise_traf (s : State) (c l d : Nat) : (s.raise c l d).traf = s.traf := rfl
@[simp] theorem State.raise_sec (s : State) (c l d : Nat) : (s.raise c l d).sec = s.sec := rfl
@[simp] theorem State.raise_parts (s : State) (c l d : Nat) : (s.raise c l d).parts = s.parts := rfl
@[simp] theorem State.raise_pwr (s : State) (c l d : Nat) : (s.raise c l d).pwr = s.pwr := rfl
@[simp] theorem State.raise_resp (s : State) (c l d : Nat) : (s.raise c l d).resp = s.resp := rfl
@[simp] theorem State.raise_freeCtr (s : State) (c l d : Nat) : (s.raise c l d).freeCtr = s.freeCtr := rfl

@[simp] theorem State.emit_pending (s : State) (p c : Nat) (m : OutMsg) : (s.emit p c m).pending = s.pending := rfl
@[simp] theorem State.emit_step (s : State) (p c : Nat) (m : OutMsg) : (s.emit p c m).step = s.step := rfl
@[simp] theorem State.emit_node (s : State) (p c : Nat) (m : OutMsg) : (s.emit p c m).node = s.node := rfl
@[simp] theorem State.emit_dict (s : State) (p c : Nat) (m : OutMsg) : (s.emit p c m).dict = s.dict := rfl
@[simp] theorem State.emit_ev (s : State) (p c : Nat) (m : OutMsg) : (s.emit p c m).ev = s.ev := rfl
@[simp] theorem State.emit_mem (s : State) (p c : Nat) (m : OutMsg) : (s.emit p c m).mem = s.mem := rfl
@[simp] theorem State.emit_rings (s : State) (p c : Nat) (m : OutMsg) : (s.emit p c m).rings = s.rings := rfl
@[simp] theorem State.emit_ledger (s : State) (p c : Nat) (m : OutMsg) : (s.emit p c m).ledger = s.ledger := rfl
@[simp] theorem State.emit_shards (s : State) (p c : Nat) (m : OutMsg) : (s.emit p c m).shards = s.shards := rfl
@[simp] theorem State.emit_log (s : State) (p c : Nat) (m : OutMsg) : (s.emit p c m).log = s.log := rfl
@[simp] theorem State.emit_flash (s : State) (p c : Nat) (m : OutMsg) : (s.emit p c m).flash = s.flash := rfl
@[simp] theorem State.emit_tier (s : State) (p c : Nat) (m : OutMsg) : (s.emit p c m).tier = s.tier := rfl
@[simp] theorem State.emit_codebooks (s : State) (p c : Nat) (m : OutMsg) : (s.emit p c m).codebooks = s.codebooks := rfl
@[simp] theorem State.emit_models (s : State) (p c : Nat) (m : OutMsg) : (s.emit p c m).models = s.models := rfl
@[simp] theorem State.emit_caches (s : State) (p c : Nat) (m : OutMsg) : (s.emit p c m).caches = s.caches := rfl
@[simp] theorem State.emit_nextCache (s : State) (p c : Nat) (m : OutMsg) : (s.emit p c m).nextCache = s.nextCache := rfl
@[simp] theorem State.emit_arrays (s : State) (p c : Nat) (m : OutMsg) : (s.emit p c m).arrays = s.arrays := rfl
@[simp] theorem State.emit_embs (s : State) (p c : Nat) (m : OutMsg) : (s.emit p c m).embs = s.embs := rfl
@[simp] theorem State.emit_embWinAt (s : State) (p c : Nat) (m : OutMsg) : (s.emit p c m).embWinAt = s.embWinAt := rfl
@[simp] theorem State.emit_tills (s : State) (p c : Nat) (m : OutMsg) : (s.emit p c m).tills = s.tills := rfl
@[simp] theorem State.emit_queues (s : State) (p c : Nat) (m : OutMsg) : (s.emit p c m).queues = s.queues := rfl
@[simp] theorem State.emit_sent (s : State) (p c : Nat) (m : OutMsg) : (s.emit p c m).sent = s.sent := rfl
@[simp] theorem State.emit_qps (s : State) (p c : Nat) (m : OutMsg) : (s.emit p c m).qps = s.qps := rfl
@[simp] theorem State.emit_hedge (s : State) (p c : Nat) (m : OutMsg) : (s.emit p c m).hedge = s.hedge := rfl
@[simp] theorem State.emit_eth (s : State) (p c : Nat) (m : OutMsg) : (s.emit p c m).eth = s.eth := rfl
@[simp] theorem State.emit_traf (s : State) (p c : Nat) (m : OutMsg) : (s.emit p c m).traf = s.traf := rfl
@[simp] theorem State.emit_sec (s : State) (p c : Nat) (m : OutMsg) : (s.emit p c m).sec = s.sec := rfl
@[simp] theorem State.emit_parts (s : State) (p c : Nat) (m : OutMsg) : (s.emit p c m).parts = s.parts := rfl
@[simp] theorem State.emit_pwr (s : State) (p c : Nat) (m : OutMsg) : (s.emit p c m).pwr = s.pwr := rfl
@[simp] theorem State.emit_resp (s : State) (p c : Nat) (m : OutMsg) : (s.emit p c m).resp = s.resp := rfl
@[simp] theorem State.emit_freeCtr (s : State) (p c : Nat) (m : OutMsg) : (s.emit p c m).freeCtr = s.freeCtr := rfl

@[simp] theorem State.useSpill_pending (s : State) (p : Nat) : (s.useSpill p).pending = s.pending := rfl
@[simp] theorem State.useSpill_step_number (s : State) (p : Nat) : (s.useSpill p).step.number = s.step.number := rfl
@[simp] theorem State.useSpill_step_running (s : State) (p : Nat) : (s.useSpill p).step.running = s.step.running := rfl
@[simp] theorem State.useSpill_step_held (s : State) (p : Nat) : (s.useSpill p).step.held = s.step.held := rfl
@[simp] theorem State.useSpill_step_limit (s : State) (p : Nat) : (s.useSpill p).step.limit = s.step.limit := rfl
@[simp] theorem State.useSpill_step_sequencer (s : State) (p : Nat) : (s.useSpill p).step.sequencer = s.step.sequencer := rfl
@[simp] theorem State.useSpill_step_tier (s : State) (p : Nat) : (s.useSpill p).step.tier = s.step.tier := rfl
@[simp] theorem State.useSpill_step_admTier (s : State) (p : Nat) : (s.useSpill p).step.admTier = s.step.admTier := rfl
@[simp] theorem State.useSpill_step_wantTier (s : State) (p : Nat) : (s.useSpill p).step.wantTier = s.step.wantTier := rfl
@[simp] theorem State.useSpill_step_tierAt (s : State) (p : Nat) : (s.useSpill p).step.tierAt = s.step.tierAt := rfl
@[simp] theorem State.useSpill_step_stretch (s : State) (p : Nat) : (s.useSpill p).step.stretch = s.step.stretch := rfl
@[simp] theorem State.useSpill_step_noAdmit (s : State) (p : Nat) : (s.useSpill p).step.noAdmit = s.step.noAdmit := rfl
@[simp] theorem State.useSpill_step_demand (s : State) (p : Nat) : (s.useSpill p).step.demand = s.step.demand := rfl
@[simp] theorem State.useSpill_step_retries (s : State) (p : Nat) : (s.useSpill p).step.retries = s.step.retries := rfl
@[simp] theorem State.useSpill_step_agenda (s : State) (p : Nat) : (s.useSpill p).step.agenda = s.step.agenda := rfl
@[simp] theorem State.useSpill_step_open_ (s : State) (p : Nat) : (s.useSpill p).step.open_ = s.step.open_ := rfl
@[simp] theorem State.useSpill_step_plan (s : State) (p : Nat) : (s.useSpill p).step.plan = s.step.plan := rfl
@[simp] theorem State.useSpill_step_activated (s : State) (p : Nat) : (s.useSpill p).step.activated = s.step.activated := rfl
@[simp] theorem State.useSpill_step_staged (s : State) (p : Nat) : (s.useSpill p).step.staged = s.step.staged := rfl
@[simp] theorem State.useSpill_step_armed (s : State) (p : Nat) : (s.useSpill p).step.armed = s.step.armed := rfl
@[simp] theorem State.useSpill_step_draining (s : State) (p : Nat) : (s.useSpill p).step.draining = s.step.draining := rfl
@[simp] theorem State.useSpill_step_seedling (s : State) (p : Nat) : (s.useSpill p).step.seedling = s.step.seedling := rfl
@[simp] theorem State.useSpill_node (s : State) (p : Nat) : (s.useSpill p).node = s.node := rfl
@[simp] theorem State.useSpill_dict_committed (s : State) (p : Nat) : (s.useSpill p).dict.committed = s.dict.committed := rfl
@[simp] theorem State.useSpill_dict_active (s : State) (p : Nat) : (s.useSpill p).dict.active = s.dict.active := rfl
@[simp] theorem State.useSpill_dict_pub (s : State) (p : Nat) : (s.useSpill p).dict.pub = s.dict.pub := rfl
@[simp] theorem State.useSpill_dict_claims (s : State) (p : Nat) : (s.useSpill p).dict.claims = s.dict.claims := rfl
@[simp] theorem State.useSpill_dict_store (s : State) (p : Nat) : (s.useSpill p).dict.store = s.dict.store := rfl
@[simp] theorem State.useSpill_dict_sets (s : State) (p : Nat) : (s.useSpill p).dict.sets = s.dict.sets := rfl
@[simp] theorem State.useSpill_dict_xfers (s : State) (p : Nat) : (s.useSpill p).dict.xfers = s.dict.xfers := rfl
@[simp] theorem State.useSpill_dict_lastTxn (s : State) (p : Nat) : (s.useSpill p).dict.lastTxn = s.dict.lastTxn := rfl
@[simp] theorem State.useSpill_dict_lastResp (s : State) (p : Nat) : (s.useSpill p).dict.lastResp = s.dict.lastResp := rfl
@[simp] theorem State.useSpill_dict_resp (s : State) (p : Nat) : (s.useSpill p).dict.resp = s.dict.resp := rfl
@[simp] theorem State.useSpill_dict_sent (s : State) (p : Nat) : (s.useSpill p).dict.sent = s.dict.sent := rfl
@[simp] theorem State.useSpill_dict_commits (s : State) (p : Nat) : (s.useSpill p).dict.commits = s.dict.commits := rfl
@[simp] theorem State.useSpill_dict_results (s : State) (p : Nat) : (s.useSpill p).dict.results = s.dict.results := rfl
@[simp] theorem State.useSpill_dict_lastSeq (s : State) (p : Nat) : (s.useSpill p).dict.lastSeq = s.dict.lastSeq := rfl
@[simp] theorem State.useSpill_dict_expired (s : State) (p : Nat) : (s.useSpill p).dict.expired = s.dict.expired := rfl
@[simp] theorem State.useSpill_ev (s : State) (p : Nat) : (s.useSpill p).ev = s.ev := rfl
@[simp] theorem State.useSpill_mem (s : State) (p : Nat) : (s.useSpill p).mem = s.mem := rfl
@[simp] theorem State.useSpill_rings (s : State) (p : Nat) : (s.useSpill p).rings = s.rings := rfl
@[simp] theorem State.useSpill_ledger (s : State) (p : Nat) : (s.useSpill p).ledger = s.ledger := rfl
@[simp] theorem State.useSpill_shards (s : State) (p : Nat) : (s.useSpill p).shards = s.shards := rfl
@[simp] theorem State.useSpill_log (s : State) (p : Nat) : (s.useSpill p).log = s.log := rfl
@[simp] theorem State.useSpill_flash (s : State) (p : Nat) : (s.useSpill p).flash = s.flash := rfl
@[simp] theorem State.useSpill_tier (s : State) (p : Nat) : (s.useSpill p).tier = s.tier := rfl
@[simp] theorem State.useSpill_codebooks (s : State) (p : Nat) : (s.useSpill p).codebooks = s.codebooks := rfl
@[simp] theorem State.useSpill_models (s : State) (p : Nat) : (s.useSpill p).models = s.models := rfl
@[simp] theorem State.useSpill_caches (s : State) (p : Nat) : (s.useSpill p).caches = s.caches := rfl
@[simp] theorem State.useSpill_nextCache (s : State) (p : Nat) : (s.useSpill p).nextCache = s.nextCache := rfl
@[simp] theorem State.useSpill_arrays (s : State) (p : Nat) : (s.useSpill p).arrays = s.arrays := rfl
@[simp] theorem State.useSpill_embs (s : State) (p : Nat) : (s.useSpill p).embs = s.embs := rfl
@[simp] theorem State.useSpill_embWinAt (s : State) (p : Nat) : (s.useSpill p).embWinAt = s.embWinAt := rfl
@[simp] theorem State.useSpill_tills (s : State) (p : Nat) : (s.useSpill p).tills = s.tills := rfl
@[simp] theorem State.useSpill_queues (s : State) (p : Nat) : (s.useSpill p).queues = s.queues := rfl
@[simp] theorem State.useSpill_tx (s : State) (p : Nat) : (s.useSpill p).tx = s.tx := rfl
@[simp] theorem State.useSpill_sent (s : State) (p : Nat) : (s.useSpill p).sent = s.sent := rfl
@[simp] theorem State.useSpill_qps (s : State) (p : Nat) : (s.useSpill p).qps = s.qps := rfl
@[simp] theorem State.useSpill_hedge (s : State) (p : Nat) : (s.useSpill p).hedge = s.hedge := rfl
@[simp] theorem State.useSpill_eth (s : State) (p : Nat) : (s.useSpill p).eth = s.eth := rfl
@[simp] theorem State.useSpill_traf (s : State) (p : Nat) : (s.useSpill p).traf = s.traf := rfl
@[simp] theorem State.useSpill_sec (s : State) (p : Nat) : (s.useSpill p).sec = s.sec := rfl
@[simp] theorem State.useSpill_parts (s : State) (p : Nat) : (s.useSpill p).parts = s.parts := rfl
@[simp] theorem State.useSpill_pwr (s : State) (p : Nat) : (s.useSpill p).pwr = s.pwr := rfl
@[simp] theorem State.useSpill_resp (s : State) (p : Nat) : (s.useSpill p).resp = s.resp := rfl
@[simp] theorem State.useSpill_freeCtr (s : State) (p : Nat) : (s.useSpill p).freeCtr = s.freeCtr := rfl

@[simp] theorem State.modRing_pending (s : State) (k : Nat) (f : Ring → Ring) : (s.modRing k f).pending = s.pending := rfl
@[simp] theorem State.modRing_step (s : State) (k : Nat) (f : Ring → Ring) : (s.modRing k f).step = s.step := rfl
@[simp] theorem State.modRing_node (s : State) (k : Nat) (f : Ring → Ring) : (s.modRing k f).node = s.node := rfl
@[simp] theorem State.modRing_dict (s : State) (k : Nat) (f : Ring → Ring) : (s.modRing k f).dict = s.dict := rfl
@[simp] theorem State.modRing_ev (s : State) (k : Nat) (f : Ring → Ring) : (s.modRing k f).ev = s.ev := rfl
@[simp] theorem State.modRing_mem (s : State) (k : Nat) (f : Ring → Ring) : (s.modRing k f).mem = s.mem := rfl
@[simp] theorem State.modRing_ledger (s : State) (k : Nat) (f : Ring → Ring) : (s.modRing k f).ledger = s.ledger := rfl
@[simp] theorem State.modRing_shards (s : State) (k : Nat) (f : Ring → Ring) : (s.modRing k f).shards = s.shards := rfl
@[simp] theorem State.modRing_log (s : State) (k : Nat) (f : Ring → Ring) : (s.modRing k f).log = s.log := rfl
@[simp] theorem State.modRing_flash (s : State) (k : Nat) (f : Ring → Ring) : (s.modRing k f).flash = s.flash := rfl
@[simp] theorem State.modRing_tier (s : State) (k : Nat) (f : Ring → Ring) : (s.modRing k f).tier = s.tier := rfl
@[simp] theorem State.modRing_codebooks (s : State) (k : Nat) (f : Ring → Ring) : (s.modRing k f).codebooks = s.codebooks := rfl
@[simp] theorem State.modRing_models (s : State) (k : Nat) (f : Ring → Ring) : (s.modRing k f).models = s.models := rfl
@[simp] theorem State.modRing_caches (s : State) (k : Nat) (f : Ring → Ring) : (s.modRing k f).caches = s.caches := rfl
@[simp] theorem State.modRing_nextCache (s : State) (k : Nat) (f : Ring → Ring) : (s.modRing k f).nextCache = s.nextCache := rfl
@[simp] theorem State.modRing_arrays (s : State) (k : Nat) (f : Ring → Ring) : (s.modRing k f).arrays = s.arrays := rfl
@[simp] theorem State.modRing_embs (s : State) (k : Nat) (f : Ring → Ring) : (s.modRing k f).embs = s.embs := rfl
@[simp] theorem State.modRing_embWinAt (s : State) (k : Nat) (f : Ring → Ring) : (s.modRing k f).embWinAt = s.embWinAt := rfl
@[simp] theorem State.modRing_tills (s : State) (k : Nat) (f : Ring → Ring) : (s.modRing k f).tills = s.tills := rfl
@[simp] theorem State.modRing_queues (s : State) (k : Nat) (f : Ring → Ring) : (s.modRing k f).queues = s.queues := rfl
@[simp] theorem State.modRing_tx (s : State) (k : Nat) (f : Ring → Ring) : (s.modRing k f).tx = s.tx := rfl
@[simp] theorem State.modRing_sent (s : State) (k : Nat) (f : Ring → Ring) : (s.modRing k f).sent = s.sent := rfl
@[simp] theorem State.modRing_qps (s : State) (k : Nat) (f : Ring → Ring) : (s.modRing k f).qps = s.qps := rfl
@[simp] theorem State.modRing_hedge (s : State) (k : Nat) (f : Ring → Ring) : (s.modRing k f).hedge = s.hedge := rfl
@[simp] theorem State.modRing_eth (s : State) (k : Nat) (f : Ring → Ring) : (s.modRing k f).eth = s.eth := rfl
@[simp] theorem State.modRing_traf (s : State) (k : Nat) (f : Ring → Ring) : (s.modRing k f).traf = s.traf := rfl
@[simp] theorem State.modRing_sec (s : State) (k : Nat) (f : Ring → Ring) : (s.modRing k f).sec = s.sec := rfl
@[simp] theorem State.modRing_parts (s : State) (k : Nat) (f : Ring → Ring) : (s.modRing k f).parts = s.parts := rfl
@[simp] theorem State.modRing_pwr (s : State) (k : Nat) (f : Ring → Ring) : (s.modRing k f).pwr = s.pwr := rfl
@[simp] theorem State.modRing_resp (s : State) (k : Nat) (f : Ring → Ring) : (s.modRing k f).resp = s.resp := rfl
@[simp] theorem State.modRing_freeCtr (s : State) (k : Nat) (f : Ring → Ring) : (s.modRing k f).freeCtr = s.freeCtr := rfl

@[simp] theorem State.modShard_pending (s : State) (k : Nat) (f : Shard → Shard) : (s.modShard k f).pending = s.pending := rfl
@[simp] theorem State.modShard_step (s : State) (k : Nat) (f : Shard → Shard) : (s.modShard k f).step = s.step := rfl
@[simp] theorem State.modShard_node (s : State) (k : Nat) (f : Shard → Shard) : (s.modShard k f).node = s.node := rfl
@[simp] theorem State.modShard_dict (s : State) (k : Nat) (f : Shard → Shard) : (s.modShard k f).dict = s.dict := rfl
@[simp] theorem State.modShard_ev (s : State) (k : Nat) (f : Shard → Shard) : (s.modShard k f).ev = s.ev := rfl
@[simp] theorem State.modShard_mem (s : State) (k : Nat) (f : Shard → Shard) : (s.modShard k f).mem = s.mem := rfl
@[simp] theorem State.modShard_rings (s : State) (k : Nat) (f : Shard → Shard) : (s.modShard k f).rings = s.rings := rfl
@[simp] theorem State.modShard_ledger (s : State) (k : Nat) (f : Shard → Shard) : (s.modShard k f).ledger = s.ledger := rfl
@[simp] theorem State.modShard_log (s : State) (k : Nat) (f : Shard → Shard) : (s.modShard k f).log = s.log := rfl
@[simp] theorem State.modShard_flash (s : State) (k : Nat) (f : Shard → Shard) : (s.modShard k f).flash = s.flash := rfl
@[simp] theorem State.modShard_tier (s : State) (k : Nat) (f : Shard → Shard) : (s.modShard k f).tier = s.tier := rfl
@[simp] theorem State.modShard_codebooks (s : State) (k : Nat) (f : Shard → Shard) : (s.modShard k f).codebooks = s.codebooks := rfl
@[simp] theorem State.modShard_models (s : State) (k : Nat) (f : Shard → Shard) : (s.modShard k f).models = s.models := rfl
@[simp] theorem State.modShard_caches (s : State) (k : Nat) (f : Shard → Shard) : (s.modShard k f).caches = s.caches := rfl
@[simp] theorem State.modShard_nextCache (s : State) (k : Nat) (f : Shard → Shard) : (s.modShard k f).nextCache = s.nextCache := rfl
@[simp] theorem State.modShard_arrays (s : State) (k : Nat) (f : Shard → Shard) : (s.modShard k f).arrays = s.arrays := rfl
@[simp] theorem State.modShard_embs (s : State) (k : Nat) (f : Shard → Shard) : (s.modShard k f).embs = s.embs := rfl
@[simp] theorem State.modShard_embWinAt (s : State) (k : Nat) (f : Shard → Shard) : (s.modShard k f).embWinAt = s.embWinAt := rfl
@[simp] theorem State.modShard_tills (s : State) (k : Nat) (f : Shard → Shard) : (s.modShard k f).tills = s.tills := rfl
@[simp] theorem State.modShard_queues (s : State) (k : Nat) (f : Shard → Shard) : (s.modShard k f).queues = s.queues := rfl
@[simp] theorem State.modShard_tx (s : State) (k : Nat) (f : Shard → Shard) : (s.modShard k f).tx = s.tx := rfl
@[simp] theorem State.modShard_sent (s : State) (k : Nat) (f : Shard → Shard) : (s.modShard k f).sent = s.sent := rfl
@[simp] theorem State.modShard_qps (s : State) (k : Nat) (f : Shard → Shard) : (s.modShard k f).qps = s.qps := rfl
@[simp] theorem State.modShard_hedge (s : State) (k : Nat) (f : Shard → Shard) : (s.modShard k f).hedge = s.hedge := rfl
@[simp] theorem State.modShard_eth (s : State) (k : Nat) (f : Shard → Shard) : (s.modShard k f).eth = s.eth := rfl
@[simp] theorem State.modShard_traf (s : State) (k : Nat) (f : Shard → Shard) : (s.modShard k f).traf = s.traf := rfl
@[simp] theorem State.modShard_sec (s : State) (k : Nat) (f : Shard → Shard) : (s.modShard k f).sec = s.sec := rfl
@[simp] theorem State.modShard_parts (s : State) (k : Nat) (f : Shard → Shard) : (s.modShard k f).parts = s.parts := rfl
@[simp] theorem State.modShard_pwr (s : State) (k : Nat) (f : Shard → Shard) : (s.modShard k f).pwr = s.pwr := rfl
@[simp] theorem State.modShard_resp (s : State) (k : Nat) (f : Shard → Shard) : (s.modShard k f).resp = s.resp := rfl
@[simp] theorem State.modShard_freeCtr (s : State) (k : Nat) (f : Shard → Shard) : (s.modShard k f).freeCtr = s.freeCtr := rfl

@[simp] theorem State.modWork_pending (s : State) (k : Nat) (f : Work → Work) : (s.modWork k f).pending = s.pending := rfl
@[simp] theorem State.modWork_step (s : State) (k : Nat) (f : Work → Work) : (s.modWork k f).step = s.step := rfl
@[simp] theorem State.modWork_node (s : State) (k : Nat) (f : Work → Work) : (s.modWork k f).node = s.node := rfl
@[simp] theorem State.modWork_dict (s : State) (k : Nat) (f : Work → Work) : (s.modWork k f).dict = s.dict := rfl
@[simp] theorem State.modWork_ev (s : State) (k : Nat) (f : Work → Work) : (s.modWork k f).ev = s.ev := rfl
@[simp] theorem State.modWork_mem (s : State) (k : Nat) (f : Work → Work) : (s.modWork k f).mem = s.mem := rfl
@[simp] theorem State.modWork_rings (s : State) (k : Nat) (f : Work → Work) : (s.modWork k f).rings = s.rings := rfl
@[simp] theorem State.modWork_ledger_fars (s : State) (k : Nat) (f : Work → Work) : (s.modWork k f).ledger.fars = s.ledger.fars := rfl
@[simp] theorem State.modWork_ledger_stubs (s : State) (k : Nat) (f : Work → Work) : (s.modWork k f).ledger.stubs = s.ledger.stubs := rfl
@[simp] theorem State.modWork_ledger_copies (s : State) (k : Nat) (f : Work → Work) : (s.modWork k f).ledger.copies = s.ledger.copies := rfl
@[simp] theorem State.modWork_ledger_losses (s : State) (k : Nat) (f : Work → Work) : (s.modWork k f).ledger.losses = s.ledger.losses := rfl
@[simp] theorem State.modWork_ledger_replays (s : State) (k : Nat) (f : Work → Work) : (s.modWork k f).ledger.replays = s.ledger.replays := rfl
@[simp] theorem State.modWork_ledger_rootQ (s : State) (k : Nat) (f : Work → Work) : (s.modWork k f).ledger.rootQ = s.ledger.rootQ := rfl
@[simp] theorem State.modWork_ledger_audits (s : State) (k : Nat) (f : Work → Work) : (s.modWork k f).ledger.audits = s.ledger.audits := rfl
@[simp] theorem State.modWork_ledger_published (s : State) (k : Nat) (f : Work → Work) : (s.modWork k f).ledger.published = s.ledger.published := rfl
@[simp] theorem State.modWork_ledger_subQ (s : State) (k : Nat) (f : Work → Work) : (s.modWork k f).ledger.subQ = s.ledger.subQ := rfl
@[simp] theorem State.modWork_shards (s : State) (k : Nat) (f : Work → Work) : (s.modWork k f).shards = s.shards := rfl
@[simp] theorem State.modWork_log (s : State) (k : Nat) (f : Work → Work) : (s.modWork k f).log = s.log := rfl
@[simp] theorem State.modWork_flash (s : State) (k : Nat) (f : Work → Work) : (s.modWork k f).flash = s.flash := rfl
@[simp] theorem State.modWork_tier (s : State) (k : Nat) (f : Work → Work) : (s.modWork k f).tier = s.tier := rfl
@[simp] theorem State.modWork_codebooks (s : State) (k : Nat) (f : Work → Work) : (s.modWork k f).codebooks = s.codebooks := rfl
@[simp] theorem State.modWork_models (s : State) (k : Nat) (f : Work → Work) : (s.modWork k f).models = s.models := rfl
@[simp] theorem State.modWork_caches (s : State) (k : Nat) (f : Work → Work) : (s.modWork k f).caches = s.caches := rfl
@[simp] theorem State.modWork_nextCache (s : State) (k : Nat) (f : Work → Work) : (s.modWork k f).nextCache = s.nextCache := rfl
@[simp] theorem State.modWork_arrays (s : State) (k : Nat) (f : Work → Work) : (s.modWork k f).arrays = s.arrays := rfl
@[simp] theorem State.modWork_embs (s : State) (k : Nat) (f : Work → Work) : (s.modWork k f).embs = s.embs := rfl
@[simp] theorem State.modWork_embWinAt (s : State) (k : Nat) (f : Work → Work) : (s.modWork k f).embWinAt = s.embWinAt := rfl
@[simp] theorem State.modWork_tills (s : State) (k : Nat) (f : Work → Work) : (s.modWork k f).tills = s.tills := rfl
@[simp] theorem State.modWork_queues (s : State) (k : Nat) (f : Work → Work) : (s.modWork k f).queues = s.queues := rfl
@[simp] theorem State.modWork_tx (s : State) (k : Nat) (f : Work → Work) : (s.modWork k f).tx = s.tx := rfl
@[simp] theorem State.modWork_sent (s : State) (k : Nat) (f : Work → Work) : (s.modWork k f).sent = s.sent := rfl
@[simp] theorem State.modWork_qps (s : State) (k : Nat) (f : Work → Work) : (s.modWork k f).qps = s.qps := rfl
@[simp] theorem State.modWork_hedge (s : State) (k : Nat) (f : Work → Work) : (s.modWork k f).hedge = s.hedge := rfl
@[simp] theorem State.modWork_eth (s : State) (k : Nat) (f : Work → Work) : (s.modWork k f).eth = s.eth := rfl
@[simp] theorem State.modWork_traf (s : State) (k : Nat) (f : Work → Work) : (s.modWork k f).traf = s.traf := rfl
@[simp] theorem State.modWork_sec (s : State) (k : Nat) (f : Work → Work) : (s.modWork k f).sec = s.sec := rfl
@[simp] theorem State.modWork_parts (s : State) (k : Nat) (f : Work → Work) : (s.modWork k f).parts = s.parts := rfl
@[simp] theorem State.modWork_pwr (s : State) (k : Nat) (f : Work → Work) : (s.modWork k f).pwr = s.pwr := rfl
@[simp] theorem State.modWork_resp (s : State) (k : Nat) (f : Work → Work) : (s.modWork k f).resp = s.resp := rfl
@[simp] theorem State.modWork_freeCtr (s : State) (k : Nat) (f : Work → Work) : (s.modWork k f).freeCtr = s.freeCtr := rfl

@[simp] theorem State.modFar_pending (s : State) (k : Nat) (f : FarCtx → FarCtx) : (s.modFar k f).pending = s.pending := rfl
@[simp] theorem State.modFar_step (s : State) (k : Nat) (f : FarCtx → FarCtx) : (s.modFar k f).step = s.step := rfl
@[simp] theorem State.modFar_node (s : State) (k : Nat) (f : FarCtx → FarCtx) : (s.modFar k f).node = s.node := rfl
@[simp] theorem State.modFar_dict (s : State) (k : Nat) (f : FarCtx → FarCtx) : (s.modFar k f).dict = s.dict := rfl
@[simp] theorem State.modFar_ev (s : State) (k : Nat) (f : FarCtx → FarCtx) : (s.modFar k f).ev = s.ev := rfl
@[simp] theorem State.modFar_mem (s : State) (k : Nat) (f : FarCtx → FarCtx) : (s.modFar k f).mem = s.mem := rfl
@[simp] theorem State.modFar_rings (s : State) (k : Nat) (f : FarCtx → FarCtx) : (s.modFar k f).rings = s.rings := rfl
@[simp] theorem State.modFar_ledger_stubs (s : State) (k : Nat) (f : FarCtx → FarCtx) : (s.modFar k f).ledger.stubs = s.ledger.stubs := rfl
@[simp] theorem State.modFar_ledger_works (s : State) (k : Nat) (f : FarCtx → FarCtx) : (s.modFar k f).ledger.works = s.ledger.works := rfl
@[simp] theorem State.modFar_ledger_copies (s : State) (k : Nat) (f : FarCtx → FarCtx) : (s.modFar k f).ledger.copies = s.ledger.copies := rfl
@[simp] theorem State.modFar_ledger_losses (s : State) (k : Nat) (f : FarCtx → FarCtx) : (s.modFar k f).ledger.losses = s.ledger.losses := rfl
@[simp] theorem State.modFar_ledger_replays (s : State) (k : Nat) (f : FarCtx → FarCtx) : (s.modFar k f).ledger.replays = s.ledger.replays := rfl
@[simp] theorem State.modFar_ledger_rootQ (s : State) (k : Nat) (f : FarCtx → FarCtx) : (s.modFar k f).ledger.rootQ = s.ledger.rootQ := rfl
@[simp] theorem State.modFar_ledger_audits (s : State) (k : Nat) (f : FarCtx → FarCtx) : (s.modFar k f).ledger.audits = s.ledger.audits := rfl
@[simp] theorem State.modFar_ledger_published (s : State) (k : Nat) (f : FarCtx → FarCtx) : (s.modFar k f).ledger.published = s.ledger.published := rfl
@[simp] theorem State.modFar_ledger_subQ (s : State) (k : Nat) (f : FarCtx → FarCtx) : (s.modFar k f).ledger.subQ = s.ledger.subQ := rfl
@[simp] theorem State.modFar_shards (s : State) (k : Nat) (f : FarCtx → FarCtx) : (s.modFar k f).shards = s.shards := rfl
@[simp] theorem State.modFar_log (s : State) (k : Nat) (f : FarCtx → FarCtx) : (s.modFar k f).log = s.log := rfl
@[simp] theorem State.modFar_flash (s : State) (k : Nat) (f : FarCtx → FarCtx) : (s.modFar k f).flash = s.flash := rfl
@[simp] theorem State.modFar_tier (s : State) (k : Nat) (f : FarCtx → FarCtx) : (s.modFar k f).tier = s.tier := rfl
@[simp] theorem State.modFar_codebooks (s : State) (k : Nat) (f : FarCtx → FarCtx) : (s.modFar k f).codebooks = s.codebooks := rfl
@[simp] theorem State.modFar_models (s : State) (k : Nat) (f : FarCtx → FarCtx) : (s.modFar k f).models = s.models := rfl
@[simp] theorem State.modFar_caches (s : State) (k : Nat) (f : FarCtx → FarCtx) : (s.modFar k f).caches = s.caches := rfl
@[simp] theorem State.modFar_nextCache (s : State) (k : Nat) (f : FarCtx → FarCtx) : (s.modFar k f).nextCache = s.nextCache := rfl
@[simp] theorem State.modFar_arrays (s : State) (k : Nat) (f : FarCtx → FarCtx) : (s.modFar k f).arrays = s.arrays := rfl
@[simp] theorem State.modFar_embs (s : State) (k : Nat) (f : FarCtx → FarCtx) : (s.modFar k f).embs = s.embs := rfl
@[simp] theorem State.modFar_embWinAt (s : State) (k : Nat) (f : FarCtx → FarCtx) : (s.modFar k f).embWinAt = s.embWinAt := rfl
@[simp] theorem State.modFar_tills (s : State) (k : Nat) (f : FarCtx → FarCtx) : (s.modFar k f).tills = s.tills := rfl
@[simp] theorem State.modFar_queues (s : State) (k : Nat) (f : FarCtx → FarCtx) : (s.modFar k f).queues = s.queues := rfl
@[simp] theorem State.modFar_tx (s : State) (k : Nat) (f : FarCtx → FarCtx) : (s.modFar k f).tx = s.tx := rfl
@[simp] theorem State.modFar_sent (s : State) (k : Nat) (f : FarCtx → FarCtx) : (s.modFar k f).sent = s.sent := rfl
@[simp] theorem State.modFar_qps (s : State) (k : Nat) (f : FarCtx → FarCtx) : (s.modFar k f).qps = s.qps := rfl
@[simp] theorem State.modFar_hedge (s : State) (k : Nat) (f : FarCtx → FarCtx) : (s.modFar k f).hedge = s.hedge := rfl
@[simp] theorem State.modFar_eth (s : State) (k : Nat) (f : FarCtx → FarCtx) : (s.modFar k f).eth = s.eth := rfl
@[simp] theorem State.modFar_traf (s : State) (k : Nat) (f : FarCtx → FarCtx) : (s.modFar k f).traf = s.traf := rfl
@[simp] theorem State.modFar_sec (s : State) (k : Nat) (f : FarCtx → FarCtx) : (s.modFar k f).sec = s.sec := rfl
@[simp] theorem State.modFar_parts (s : State) (k : Nat) (f : FarCtx → FarCtx) : (s.modFar k f).parts = s.parts := rfl
@[simp] theorem State.modFar_pwr (s : State) (k : Nat) (f : FarCtx → FarCtx) : (s.modFar k f).pwr = s.pwr := rfl
@[simp] theorem State.modFar_resp (s : State) (k : Nat) (f : FarCtx → FarCtx) : (s.modFar k f).resp = s.resp := rfl
@[simp] theorem State.modFar_freeCtr (s : State) (k : Nat) (f : FarCtx → FarCtx) : (s.modFar k f).freeCtr = s.freeCtr := rfl

@[simp] theorem State.modStub_pending (s : State) (k : Nat) (f : Stub → Stub) : (s.modStub k f).pending = s.pending := rfl
@[simp] theorem State.modStub_step (s : State) (k : Nat) (f : Stub → Stub) : (s.modStub k f).step = s.step := rfl
@[simp] theorem State.modStub_node (s : State) (k : Nat) (f : Stub → Stub) : (s.modStub k f).node = s.node := rfl
@[simp] theorem State.modStub_dict (s : State) (k : Nat) (f : Stub → Stub) : (s.modStub k f).dict = s.dict := rfl
@[simp] theorem State.modStub_ev (s : State) (k : Nat) (f : Stub → Stub) : (s.modStub k f).ev = s.ev := rfl
@[simp] theorem State.modStub_mem (s : State) (k : Nat) (f : Stub → Stub) : (s.modStub k f).mem = s.mem := rfl
@[simp] theorem State.modStub_rings (s : State) (k : Nat) (f : Stub → Stub) : (s.modStub k f).rings = s.rings := rfl
@[simp] theorem State.modStub_ledger_fars (s : State) (k : Nat) (f : Stub → Stub) : (s.modStub k f).ledger.fars = s.ledger.fars := rfl
@[simp] theorem State.modStub_ledger_works (s : State) (k : Nat) (f : Stub → Stub) : (s.modStub k f).ledger.works = s.ledger.works := rfl
@[simp] theorem State.modStub_ledger_copies (s : State) (k : Nat) (f : Stub → Stub) : (s.modStub k f).ledger.copies = s.ledger.copies := rfl
@[simp] theorem State.modStub_ledger_losses (s : State) (k : Nat) (f : Stub → Stub) : (s.modStub k f).ledger.losses = s.ledger.losses := rfl
@[simp] theorem State.modStub_ledger_replays (s : State) (k : Nat) (f : Stub → Stub) : (s.modStub k f).ledger.replays = s.ledger.replays := rfl
@[simp] theorem State.modStub_ledger_rootQ (s : State) (k : Nat) (f : Stub → Stub) : (s.modStub k f).ledger.rootQ = s.ledger.rootQ := rfl
@[simp] theorem State.modStub_ledger_audits (s : State) (k : Nat) (f : Stub → Stub) : (s.modStub k f).ledger.audits = s.ledger.audits := rfl
@[simp] theorem State.modStub_ledger_published (s : State) (k : Nat) (f : Stub → Stub) : (s.modStub k f).ledger.published = s.ledger.published := rfl
@[simp] theorem State.modStub_ledger_subQ (s : State) (k : Nat) (f : Stub → Stub) : (s.modStub k f).ledger.subQ = s.ledger.subQ := rfl
@[simp] theorem State.modStub_shards (s : State) (k : Nat) (f : Stub → Stub) : (s.modStub k f).shards = s.shards := rfl
@[simp] theorem State.modStub_log (s : State) (k : Nat) (f : Stub → Stub) : (s.modStub k f).log = s.log := rfl
@[simp] theorem State.modStub_flash (s : State) (k : Nat) (f : Stub → Stub) : (s.modStub k f).flash = s.flash := rfl
@[simp] theorem State.modStub_tier (s : State) (k : Nat) (f : Stub → Stub) : (s.modStub k f).tier = s.tier := rfl
@[simp] theorem State.modStub_codebooks (s : State) (k : Nat) (f : Stub → Stub) : (s.modStub k f).codebooks = s.codebooks := rfl
@[simp] theorem State.modStub_models (s : State) (k : Nat) (f : Stub → Stub) : (s.modStub k f).models = s.models := rfl
@[simp] theorem State.modStub_caches (s : State) (k : Nat) (f : Stub → Stub) : (s.modStub k f).caches = s.caches := rfl
@[simp] theorem State.modStub_nextCache (s : State) (k : Nat) (f : Stub → Stub) : (s.modStub k f).nextCache = s.nextCache := rfl
@[simp] theorem State.modStub_arrays (s : State) (k : Nat) (f : Stub → Stub) : (s.modStub k f).arrays = s.arrays := rfl
@[simp] theorem State.modStub_embs (s : State) (k : Nat) (f : Stub → Stub) : (s.modStub k f).embs = s.embs := rfl
@[simp] theorem State.modStub_embWinAt (s : State) (k : Nat) (f : Stub → Stub) : (s.modStub k f).embWinAt = s.embWinAt := rfl
@[simp] theorem State.modStub_tills (s : State) (k : Nat) (f : Stub → Stub) : (s.modStub k f).tills = s.tills := rfl
@[simp] theorem State.modStub_queues (s : State) (k : Nat) (f : Stub → Stub) : (s.modStub k f).queues = s.queues := rfl
@[simp] theorem State.modStub_tx (s : State) (k : Nat) (f : Stub → Stub) : (s.modStub k f).tx = s.tx := rfl
@[simp] theorem State.modStub_sent (s : State) (k : Nat) (f : Stub → Stub) : (s.modStub k f).sent = s.sent := rfl
@[simp] theorem State.modStub_qps (s : State) (k : Nat) (f : Stub → Stub) : (s.modStub k f).qps = s.qps := rfl
@[simp] theorem State.modStub_hedge (s : State) (k : Nat) (f : Stub → Stub) : (s.modStub k f).hedge = s.hedge := rfl
@[simp] theorem State.modStub_eth (s : State) (k : Nat) (f : Stub → Stub) : (s.modStub k f).eth = s.eth := rfl
@[simp] theorem State.modStub_traf (s : State) (k : Nat) (f : Stub → Stub) : (s.modStub k f).traf = s.traf := rfl
@[simp] theorem State.modStub_sec (s : State) (k : Nat) (f : Stub → Stub) : (s.modStub k f).sec = s.sec := rfl
@[simp] theorem State.modStub_parts (s : State) (k : Nat) (f : Stub → Stub) : (s.modStub k f).parts = s.parts := rfl
@[simp] theorem State.modStub_pwr (s : State) (k : Nat) (f : Stub → Stub) : (s.modStub k f).pwr = s.pwr := rfl
@[simp] theorem State.modStub_resp (s : State) (k : Nat) (f : Stub → Stub) : (s.modStub k f).resp = s.resp := rfl
@[simp] theorem State.modStub_freeCtr (s : State) (k : Nat) (f : Stub → Stub) : (s.modStub k f).freeCtr = s.freeCtr := rfl

@[simp] theorem State.modTm_pending (s : State) (g : GroupId) (f : TmReg → TmReg) : (s.modTm g f).pending = s.pending := rfl
@[simp] theorem State.modTm_step (s : State) (g : GroupId) (f : TmReg → TmReg) : (s.modTm g f).step = s.step := rfl
@[simp] theorem State.modTm_node (s : State) (g : GroupId) (f : TmReg → TmReg) : (s.modTm g f).node = s.node := rfl
@[simp] theorem State.modTm_dict (s : State) (g : GroupId) (f : TmReg → TmReg) : (s.modTm g f).dict = s.dict := rfl
@[simp] theorem State.modTm_ev (s : State) (g : GroupId) (f : TmReg → TmReg) : (s.modTm g f).ev = s.ev := rfl
@[simp] theorem State.modTm_mem (s : State) (g : GroupId) (f : TmReg → TmReg) : (s.modTm g f).mem = s.mem := rfl
@[simp] theorem State.modTm_rings (s : State) (g : GroupId) (f : TmReg → TmReg) : (s.modTm g f).rings = s.rings := rfl
@[simp] theorem State.modTm_ledger (s : State) (g : GroupId) (f : TmReg → TmReg) : (s.modTm g f).ledger = s.ledger := rfl
@[simp] theorem State.modTm_shards (s : State) (g : GroupId) (f : TmReg → TmReg) : (s.modTm g f).shards = s.shards := rfl
@[simp] theorem State.modTm_log (s : State) (g : GroupId) (f : TmReg → TmReg) : (s.modTm g f).log = s.log := rfl
@[simp] theorem State.modTm_flash (s : State) (g : GroupId) (f : TmReg → TmReg) : (s.modTm g f).flash = s.flash := rfl
@[simp] theorem State.modTm_codebooks (s : State) (g : GroupId) (f : TmReg → TmReg) : (s.modTm g f).codebooks = s.codebooks := rfl
@[simp] theorem State.modTm_models (s : State) (g : GroupId) (f : TmReg → TmReg) : (s.modTm g f).models = s.models := rfl
@[simp] theorem State.modTm_caches (s : State) (g : GroupId) (f : TmReg → TmReg) : (s.modTm g f).caches = s.caches := rfl
@[simp] theorem State.modTm_nextCache (s : State) (g : GroupId) (f : TmReg → TmReg) : (s.modTm g f).nextCache = s.nextCache := rfl
@[simp] theorem State.modTm_arrays (s : State) (g : GroupId) (f : TmReg → TmReg) : (s.modTm g f).arrays = s.arrays := rfl
@[simp] theorem State.modTm_embs (s : State) (g : GroupId) (f : TmReg → TmReg) : (s.modTm g f).embs = s.embs := rfl
@[simp] theorem State.modTm_embWinAt (s : State) (g : GroupId) (f : TmReg → TmReg) : (s.modTm g f).embWinAt = s.embWinAt := rfl
@[simp] theorem State.modTm_tills (s : State) (g : GroupId) (f : TmReg → TmReg) : (s.modTm g f).tills = s.tills := rfl
@[simp] theorem State.modTm_queues (s : State) (g : GroupId) (f : TmReg → TmReg) : (s.modTm g f).queues = s.queues := rfl
@[simp] theorem State.modTm_tx (s : State) (g : GroupId) (f : TmReg → TmReg) : (s.modTm g f).tx = s.tx := rfl
@[simp] theorem State.modTm_sent (s : State) (g : GroupId) (f : TmReg → TmReg) : (s.modTm g f).sent = s.sent := rfl
@[simp] theorem State.modTm_qps (s : State) (g : GroupId) (f : TmReg → TmReg) : (s.modTm g f).qps = s.qps := rfl
@[simp] theorem State.modTm_hedge (s : State) (g : GroupId) (f : TmReg → TmReg) : (s.modTm g f).hedge = s.hedge := rfl
@[simp] theorem State.modTm_eth (s : State) (g : GroupId) (f : TmReg → TmReg) : (s.modTm g f).eth = s.eth := rfl
@[simp] theorem State.modTm_traf (s : State) (g : GroupId) (f : TmReg → TmReg) : (s.modTm g f).traf = s.traf := rfl
@[simp] theorem State.modTm_sec (s : State) (g : GroupId) (f : TmReg → TmReg) : (s.modTm g f).sec = s.sec := rfl
@[simp] theorem State.modTm_parts (s : State) (g : GroupId) (f : TmReg → TmReg) : (s.modTm g f).parts = s.parts := rfl
@[simp] theorem State.modTm_pwr (s : State) (g : GroupId) (f : TmReg → TmReg) : (s.modTm g f).pwr = s.pwr := rfl
@[simp] theorem State.modTm_resp (s : State) (g : GroupId) (f : TmReg → TmReg) : (s.modTm g f).resp = s.resp := rfl
@[simp] theorem State.modTm_freeCtr (s : State) (g : GroupId) (f : TmReg → TmReg) : (s.modTm g f).freeCtr = s.freeCtr := rfl
@[simp] theorem State.modTm_tier_alloc (s : State) (g : GroupId) (f : TmReg → TmReg) : (s.modTm g f).tier.alloc = s.tier.alloc := rfl
@[simp] theorem State.modTm_tier_counts (s : State) (g : GroupId) (f : TmReg → TmReg) : (s.modTm g f).tier.counts = s.tier.counts := rfl
@[simp] theorem State.modTm_tier_frames (s : State) (g : GroupId) (f : TmReg → TmReg) : (s.modTm g f).tier.frames = s.tier.frames := rfl
@[simp] theorem State.modTm_tier_demote (s : State) (g : GroupId) (f : TmReg → TmReg) : (s.modTm g f).tier.demote = s.tier.demote := rfl
@[simp] theorem State.modTm_tier_promos (s : State) (g : GroupId) (f : TmReg → TmReg) : (s.modTm g f).tier.promos = s.tier.promos := rfl
@[simp] theorem State.modTm_tier_wrote (s : State) (g : GroupId) (f : TmReg → TmReg) : (s.modTm g f).tier.wrote = s.tier.wrote := rfl
@[simp] theorem State.modTm_tier_copied (s : State) (g : GroupId) (f : TmReg → TmReg) : (s.modTm g f).tier.copied = s.tier.copied := rfl
@[simp] theorem State.modTm_tier_winAt (s : State) (g : GroupId) (f : TmReg → TmReg) : (s.modTm g f).tier.winAt = s.tier.winAt := rfl
@[simp] theorem State.modTm_tier_rowCe (s : State) (g : GroupId) (f : TmReg → TmReg) : (s.modTm g f).tier.rowCe = s.tier.rowCe := rfl
@[simp] theorem State.modTm_tier_repairs (s : State) (g : GroupId) (f : TmReg → TmReg) : (s.modTm g f).tier.repairs = s.tier.repairs := rfl
@[simp] theorem State.modTm_tier_rebuild (s : State) (g : GroupId) (f : TmReg → TmReg) : (s.modTm g f).tier.rebuild = s.tier.rebuild := rfl
@[simp] theorem State.modTm_tier_planBad (s : State) (g : GroupId) (f : TmReg → TmReg) : (s.modTm g f).tier.planBad = s.tier.planBad := rfl
@[simp] theorem State.modTm_tier_outQ (s : State) (g : GroupId) (f : TmReg → TmReg) : (s.modTm g f).tier.outQ = s.tier.outQ := rfl
@[simp] theorem State.modTm_tier_scrubAt (s : State) (g : GroupId) (f : TmReg → TmReg) : (s.modTm g f).tier.scrubAt = s.tier.scrubAt := rfl
@[simp] theorem State.modTm_tier_bmaps (s : State) (g : GroupId) (f : TmReg → TmReg) : (s.modTm g f).tier.bmaps = s.tier.bmaps := rfl
@[simp] theorem State.modTm_tier_landing (s : State) (g : GroupId) (f : TmReg → TmReg) : (s.modTm g f).tier.landing = s.tier.landing := rfl
@[simp] theorem State.modTm_tier_lent (s : State) (g : GroupId) (f : TmReg → TmReg) : (s.modTm g f).tier.lent = s.tier.lent := rfl
@[simp] theorem State.modTm_tier_places (s : State) (g : GroupId) (f : TmReg → TmReg) : (s.modTm g f).tier.places = s.tier.places := rfl
@[simp] theorem State.modDie_pending (s : State) (k : Nat) (f : Die → Die) : (s.modDie k f).pending = s.pending := rfl
@[simp] theorem State.modDie_step (s : State) (k : Nat) (f : Die → Die) : (s.modDie k f).step = s.step := rfl
@[simp] theorem State.modDie_node (s : State) (k : Nat) (f : Die → Die) : (s.modDie k f).node = s.node := rfl
@[simp] theorem State.modDie_dict (s : State) (k : Nat) (f : Die → Die) : (s.modDie k f).dict = s.dict := rfl
@[simp] theorem State.modDie_ev (s : State) (k : Nat) (f : Die → Die) : (s.modDie k f).ev = s.ev := rfl
@[simp] theorem State.modDie_mem (s : State) (k : Nat) (f : Die → Die) : (s.modDie k f).mem = s.mem := rfl
@[simp] theorem State.modDie_rings (s : State) (k : Nat) (f : Die → Die) : (s.modDie k f).rings = s.rings := rfl
@[simp] theorem State.modDie_ledger (s : State) (k : Nat) (f : Die → Die) : (s.modDie k f).ledger = s.ledger := rfl
@[simp] theorem State.modDie_shards (s : State) (k : Nat) (f : Die → Die) : (s.modDie k f).shards = s.shards := rfl
@[simp] theorem State.modDie_log (s : State) (k : Nat) (f : Die → Die) : (s.modDie k f).log = s.log := rfl
@[simp] theorem State.modDie_tier (s : State) (k : Nat) (f : Die → Die) : (s.modDie k f).tier = s.tier := rfl
@[simp] theorem State.modDie_codebooks (s : State) (k : Nat) (f : Die → Die) : (s.modDie k f).codebooks = s.codebooks := rfl
@[simp] theorem State.modDie_models (s : State) (k : Nat) (f : Die → Die) : (s.modDie k f).models = s.models := rfl
@[simp] theorem State.modDie_caches (s : State) (k : Nat) (f : Die → Die) : (s.modDie k f).caches = s.caches := rfl
@[simp] theorem State.modDie_nextCache (s : State) (k : Nat) (f : Die → Die) : (s.modDie k f).nextCache = s.nextCache := rfl
@[simp] theorem State.modDie_arrays (s : State) (k : Nat) (f : Die → Die) : (s.modDie k f).arrays = s.arrays := rfl
@[simp] theorem State.modDie_embs (s : State) (k : Nat) (f : Die → Die) : (s.modDie k f).embs = s.embs := rfl
@[simp] theorem State.modDie_embWinAt (s : State) (k : Nat) (f : Die → Die) : (s.modDie k f).embWinAt = s.embWinAt := rfl
@[simp] theorem State.modDie_tills (s : State) (k : Nat) (f : Die → Die) : (s.modDie k f).tills = s.tills := rfl
@[simp] theorem State.modDie_queues (s : State) (k : Nat) (f : Die → Die) : (s.modDie k f).queues = s.queues := rfl
@[simp] theorem State.modDie_tx (s : State) (k : Nat) (f : Die → Die) : (s.modDie k f).tx = s.tx := rfl
@[simp] theorem State.modDie_sent (s : State) (k : Nat) (f : Die → Die) : (s.modDie k f).sent = s.sent := rfl
@[simp] theorem State.modDie_qps (s : State) (k : Nat) (f : Die → Die) : (s.modDie k f).qps = s.qps := rfl
@[simp] theorem State.modDie_hedge (s : State) (k : Nat) (f : Die → Die) : (s.modDie k f).hedge = s.hedge := rfl
@[simp] theorem State.modDie_eth (s : State) (k : Nat) (f : Die → Die) : (s.modDie k f).eth = s.eth := rfl
@[simp] theorem State.modDie_traf (s : State) (k : Nat) (f : Die → Die) : (s.modDie k f).traf = s.traf := rfl
@[simp] theorem State.modDie_sec (s : State) (k : Nat) (f : Die → Die) : (s.modDie k f).sec = s.sec := rfl
@[simp] theorem State.modDie_parts (s : State) (k : Nat) (f : Die → Die) : (s.modDie k f).parts = s.parts := rfl
@[simp] theorem State.modDie_pwr (s : State) (k : Nat) (f : Die → Die) : (s.modDie k f).pwr = s.pwr := rfl
@[simp] theorem State.modDie_resp (s : State) (k : Nat) (f : Die → Die) : (s.modDie k f).resp = s.resp := rfl
@[simp] theorem State.modDie_freeCtr (s : State) (k : Nat) (f : Die → Die) : (s.modDie k f).freeCtr = s.freeCtr := rfl
@[simp] theorem State.modDie_flash_chans (s : State) (k : Nat) (f : Die → Die) : (s.modDie k f).flash.chans = s.flash.chans := rfl
@[simp] theorem State.modDie_flash_units (s : State) (k : Nat) (f : Die → Die) : (s.modDie k f).flash.units = s.flash.units := rfl
@[simp] theorem State.modDie_flash_map (s : State) (k : Nat) (f : Die → Die) : (s.modDie k f).flash.map = s.flash.map := rfl
@[simp] theorem State.modDie_flash_pend (s : State) (k : Nat) (f : Die → Die) : (s.modDie k f).flash.pend = s.flash.pend := rfl
@[simp] theorem State.modDie_flash_journal (s : State) (k : Nat) (f : Die → Die) : (s.modDie k f).flash.journal = s.flash.journal := rfl
@[simp] theorem State.modDie_flash_jpages (s : State) (k : Nat) (f : Die → Die) : (s.modDie k f).flash.jpages = s.flash.jpages := rfl
@[simp] theorem State.modDie_flash_ckptNext (s : State) (k : Nat) (f : Die → Die) : (s.modDie k f).flash.ckptNext = s.flash.ckptNext := rfl
@[simp] theorem State.modDie_flash_ckpt (s : State) (k : Nat) (f : Die → Die) : (s.modDie k f).flash.ckpt = s.flash.ckpt := rfl
@[simp] theorem State.modDie_flash_sys (s : State) (k : Nat) (f : Die → Die) : (s.modDie k f).flash.sys = s.flash.sys := rfl
@[simp] theorem State.modDie_flash_extents (s : State) (k : Nat) (f : Die → Die) : (s.modDie k f).flash.extents = s.flash.extents := rfl
@[simp] theorem State.modDie_flash_logPages (s : State) (k : Nat) (f : Die → Die) : (s.modDie k f).flash.logPages = s.flash.logPages := rfl
@[simp] theorem State.modDie_flash_due (s : State) (k : Nat) (f : Die → Die) : (s.modDie k f).flash.due = s.flash.due := rfl
@[simp] theorem State.modDie_flash_writeSeq (s : State) (k : Nat) (f : Die → Die) : (s.modDie k f).flash.writeSeq = s.flash.writeSeq := rfl
@[simp] theorem State.modDie_flash_logSeq (s : State) (k : Nat) (f : Die → Die) : (s.modDie k f).flash.logSeq = s.flash.logSeq := rfl
@[simp] theorem State.modDie_flash_verified (s : State) (k : Nat) (f : Die → Die) : (s.modDie k f).flash.verified = s.flash.verified := rfl
@[simp] theorem State.modDie_flash_flushUs (s : State) (k : Nat) (f : Die → Die) : (s.modDie k f).flash.flushUs = s.flash.flushUs := rfl
@[simp] theorem State.modDie_flash_flushRec (s : State) (k : Nat) (f : Die → Die) : (s.modDie k f).flash.flushRec = s.flash.flushRec := rfl
@[simp] theorem State.modDie_flash_format (s : State) (k : Nat) (f : Die → Die) : (s.modDie k f).flash.format = s.flash.format := rfl
@[simp] theorem State.modDie_flash_warned (s : State) (k : Nat) (f : Die → Die) : (s.modDie k f).flash.warned = s.flash.warned := rfl
@[simp] theorem State.useRoom_pending (s : State) (p : Slice → Bool) (n : Nat) : (s.useRoom p n).pending = s.pending := rfl
@[simp] theorem State.useRoom_node (s : State) (p : Slice → Bool) (n : Nat) : (s.useRoom p n).node = s.node := rfl
@[simp] theorem State.useRoom_dict (s : State) (p : Slice → Bool) (n : Nat) : (s.useRoom p n).dict = s.dict := rfl
@[simp] theorem State.useRoom_ev (s : State) (p : Slice → Bool) (n : Nat) : (s.useRoom p n).ev = s.ev := rfl
@[simp] theorem State.useRoom_mem (s : State) (p : Slice → Bool) (n : Nat) : (s.useRoom p n).mem = s.mem := rfl
@[simp] theorem State.useRoom_rings (s : State) (p : Slice → Bool) (n : Nat) : (s.useRoom p n).rings = s.rings := rfl
@[simp] theorem State.useRoom_ledger (s : State) (p : Slice → Bool) (n : Nat) : (s.useRoom p n).ledger = s.ledger := rfl
@[simp] theorem State.useRoom_shards (s : State) (p : Slice → Bool) (n : Nat) : (s.useRoom p n).shards = s.shards := rfl
@[simp] theorem State.useRoom_log (s : State) (p : Slice → Bool) (n : Nat) : (s.useRoom p n).log = s.log := rfl
@[simp] theorem State.useRoom_flash (s : State) (p : Slice → Bool) (n : Nat) : (s.useRoom p n).flash = s.flash := rfl
@[simp] theorem State.useRoom_tier (s : State) (p : Slice → Bool) (n : Nat) : (s.useRoom p n).tier = s.tier := rfl
@[simp] theorem State.useRoom_codebooks (s : State) (p : Slice → Bool) (n : Nat) : (s.useRoom p n).codebooks = s.codebooks := rfl
@[simp] theorem State.useRoom_models (s : State) (p : Slice → Bool) (n : Nat) : (s.useRoom p n).models = s.models := rfl
@[simp] theorem State.useRoom_caches (s : State) (p : Slice → Bool) (n : Nat) : (s.useRoom p n).caches = s.caches := rfl
@[simp] theorem State.useRoom_nextCache (s : State) (p : Slice → Bool) (n : Nat) : (s.useRoom p n).nextCache = s.nextCache := rfl
@[simp] theorem State.useRoom_arrays (s : State) (p : Slice → Bool) (n : Nat) : (s.useRoom p n).arrays = s.arrays := rfl
@[simp] theorem State.useRoom_embs (s : State) (p : Slice → Bool) (n : Nat) : (s.useRoom p n).embs = s.embs := rfl
@[simp] theorem State.useRoom_embWinAt (s : State) (p : Slice → Bool) (n : Nat) : (s.useRoom p n).embWinAt = s.embWinAt := rfl
@[simp] theorem State.useRoom_tills (s : State) (p : Slice → Bool) (n : Nat) : (s.useRoom p n).tills = s.tills := rfl
@[simp] theorem State.useRoom_queues (s : State) (p : Slice → Bool) (n : Nat) : (s.useRoom p n).queues = s.queues := rfl
@[simp] theorem State.useRoom_tx (s : State) (p : Slice → Bool) (n : Nat) : (s.useRoom p n).tx = s.tx := rfl
@[simp] theorem State.useRoom_sent (s : State) (p : Slice → Bool) (n : Nat) : (s.useRoom p n).sent = s.sent := rfl
@[simp] theorem State.useRoom_qps (s : State) (p : Slice → Bool) (n : Nat) : (s.useRoom p n).qps = s.qps := rfl
@[simp] theorem State.useRoom_hedge (s : State) (p : Slice → Bool) (n : Nat) : (s.useRoom p n).hedge = s.hedge := rfl
@[simp] theorem State.useRoom_eth (s : State) (p : Slice → Bool) (n : Nat) : (s.useRoom p n).eth = s.eth := rfl
@[simp] theorem State.useRoom_traf (s : State) (p : Slice → Bool) (n : Nat) : (s.useRoom p n).traf = s.traf := rfl
@[simp] theorem State.useRoom_sec (s : State) (p : Slice → Bool) (n : Nat) : (s.useRoom p n).sec = s.sec := rfl
@[simp] theorem State.useRoom_parts (s : State) (p : Slice → Bool) (n : Nat) : (s.useRoom p n).parts = s.parts := rfl
@[simp] theorem State.useRoom_pwr (s : State) (p : Slice → Bool) (n : Nat) : (s.useRoom p n).pwr = s.pwr := rfl
@[simp] theorem State.useRoom_resp (s : State) (p : Slice → Bool) (n : Nat) : (s.useRoom p n).resp = s.resp := rfl
@[simp] theorem State.useRoom_freeCtr (s : State) (p : Slice → Bool) (n : Nat) : (s.useRoom p n).freeCtr = s.freeCtr := rfl
@[simp] theorem State.useRoom_step_number (s : State) (p : Slice → Bool) (n : Nat) : (s.useRoom p n).step.number = s.step.number := rfl
@[simp] theorem State.useRoom_step_running (s : State) (p : Slice → Bool) (n : Nat) : (s.useRoom p n).step.running = s.step.running := rfl
@[simp] theorem State.useRoom_step_held (s : State) (p : Slice → Bool) (n : Nat) : (s.useRoom p n).step.held = s.step.held := rfl
@[simp] theorem State.useRoom_step_limit (s : State) (p : Slice → Bool) (n : Nat) : (s.useRoom p n).step.limit = s.step.limit := rfl
@[simp] theorem State.useRoom_step_sequencer (s : State) (p : Slice → Bool) (n : Nat) : (s.useRoom p n).step.sequencer = s.step.sequencer := rfl
@[simp] theorem State.useRoom_step_tier (s : State) (p : Slice → Bool) (n : Nat) : (s.useRoom p n).step.tier = s.step.tier := rfl
@[simp] theorem State.useRoom_step_planTier (s : State) (p : Slice → Bool) (n : Nat) : (s.useRoom p n).step.planTier = s.step.planTier := rfl
@[simp] theorem State.useRoom_step_admTier (s : State) (p : Slice → Bool) (n : Nat) : (s.useRoom p n).step.admTier = s.step.admTier := rfl
@[simp] theorem State.useRoom_step_wantTier (s : State) (p : Slice → Bool) (n : Nat) : (s.useRoom p n).step.wantTier = s.step.wantTier := rfl
@[simp] theorem State.useRoom_step_tierAt (s : State) (p : Slice → Bool) (n : Nat) : (s.useRoom p n).step.tierAt = s.step.tierAt := rfl
@[simp] theorem State.useRoom_step_stretch (s : State) (p : Slice → Bool) (n : Nat) : (s.useRoom p n).step.stretch = s.step.stretch := rfl
@[simp] theorem State.useRoom_step_noAdmit (s : State) (p : Slice → Bool) (n : Nat) : (s.useRoom p n).step.noAdmit = s.step.noAdmit := rfl
@[simp] theorem State.useRoom_step_demand (s : State) (p : Slice → Bool) (n : Nat) : (s.useRoom p n).step.demand = s.step.demand := rfl
@[simp] theorem State.useRoom_step_spill (s : State) (p : Slice → Bool) (n : Nat) : (s.useRoom p n).step.spill = s.step.spill := rfl
@[simp] theorem State.useRoom_step_retries (s : State) (p : Slice → Bool) (n : Nat) : (s.useRoom p n).step.retries = s.step.retries := rfl
@[simp] theorem State.useRoom_step_agenda (s : State) (p : Slice → Bool) (n : Nat) : (s.useRoom p n).step.agenda = s.step.agenda := rfl
@[simp] theorem State.useRoom_step_open_ (s : State) (p : Slice → Bool) (n : Nat) : (s.useRoom p n).step.open_ = s.step.open_ := rfl
@[simp] theorem State.useRoom_step_plan (s : State) (p : Slice → Bool) (n : Nat) : (s.useRoom p n).step.plan = s.step.plan := rfl
@[simp] theorem State.useRoom_step_activated (s : State) (p : Slice → Bool) (n : Nat) : (s.useRoom p n).step.activated = s.step.activated := rfl
@[simp] theorem State.useRoom_step_staged (s : State) (p : Slice → Bool) (n : Nat) : (s.useRoom p n).step.staged = s.step.staged := rfl
@[simp] theorem State.useRoom_step_armed (s : State) (p : Slice → Bool) (n : Nat) : (s.useRoom p n).step.armed = s.step.armed := rfl
@[simp] theorem State.useRoom_step_draining (s : State) (p : Slice → Bool) (n : Nat) : (s.useRoom p n).step.draining = s.step.draining := rfl
@[simp] theorem State.useRoom_step_seedling (s : State) (p : Slice → Bool) (n : Nat) : (s.useRoom p n).step.seedling = s.step.seedling := rfl
@[simp] theorem State.useRoom_step_movers (s : State) (p : Slice → Bool) (n : Nat) : (s.useRoom p n).step.movers = s.step.movers := rfl
@[simp] theorem State.modTg_pending (s : State) (g : GroupId) (f : TGroup → TGroup) : (s.modTg g f).pending = s.pending := rfl
@[simp] theorem State.modTg_step (s : State) (g : GroupId) (f : TGroup → TGroup) : (s.modTg g f).step = s.step := rfl
@[simp] theorem State.modTg_node (s : State) (g : GroupId) (f : TGroup → TGroup) : (s.modTg g f).node = s.node := rfl
@[simp] theorem State.modTg_dict (s : State) (g : GroupId) (f : TGroup → TGroup) : (s.modTg g f).dict = s.dict := rfl
@[simp] theorem State.modTg_ev (s : State) (g : GroupId) (f : TGroup → TGroup) : (s.modTg g f).ev = s.ev := rfl
@[simp] theorem State.modTg_mem (s : State) (g : GroupId) (f : TGroup → TGroup) : (s.modTg g f).mem = s.mem := rfl
@[simp] theorem State.modTg_rings (s : State) (g : GroupId) (f : TGroup → TGroup) : (s.modTg g f).rings = s.rings := rfl
@[simp] theorem State.modTg_ledger (s : State) (g : GroupId) (f : TGroup → TGroup) : (s.modTg g f).ledger = s.ledger := rfl
@[simp] theorem State.modTg_shards (s : State) (g : GroupId) (f : TGroup → TGroup) : (s.modTg g f).shards = s.shards := rfl
@[simp] theorem State.modTg_log (s : State) (g : GroupId) (f : TGroup → TGroup) : (s.modTg g f).log = s.log := rfl
@[simp] theorem State.modTg_flash (s : State) (g : GroupId) (f : TGroup → TGroup) : (s.modTg g f).flash = s.flash := rfl
@[simp] theorem State.modTg_tier (s : State) (g : GroupId) (f : TGroup → TGroup) : (s.modTg g f).tier = s.tier := rfl
@[simp] theorem State.modTg_codebooks (s : State) (g : GroupId) (f : TGroup → TGroup) : (s.modTg g f).codebooks = s.codebooks := rfl
@[simp] theorem State.modTg_models (s : State) (g : GroupId) (f : TGroup → TGroup) : (s.modTg g f).models = s.models := rfl
@[simp] theorem State.modTg_caches (s : State) (g : GroupId) (f : TGroup → TGroup) : (s.modTg g f).caches = s.caches := rfl
@[simp] theorem State.modTg_nextCache (s : State) (g : GroupId) (f : TGroup → TGroup) : (s.modTg g f).nextCache = s.nextCache := rfl
@[simp] theorem State.modTg_arrays (s : State) (g : GroupId) (f : TGroup → TGroup) : (s.modTg g f).arrays = s.arrays := rfl
@[simp] theorem State.modTg_embs (s : State) (g : GroupId) (f : TGroup → TGroup) : (s.modTg g f).embs = s.embs := rfl
@[simp] theorem State.modTg_embWinAt (s : State) (g : GroupId) (f : TGroup → TGroup) : (s.modTg g f).embWinAt = s.embWinAt := rfl
@[simp] theorem State.modTg_queues (s : State) (g : GroupId) (f : TGroup → TGroup) : (s.modTg g f).queues = s.queues := rfl
@[simp] theorem State.modTg_tx (s : State) (g : GroupId) (f : TGroup → TGroup) : (s.modTg g f).tx = s.tx := rfl
@[simp] theorem State.modTg_sent (s : State) (g : GroupId) (f : TGroup → TGroup) : (s.modTg g f).sent = s.sent := rfl
@[simp] theorem State.modTg_qps (s : State) (g : GroupId) (f : TGroup → TGroup) : (s.modTg g f).qps = s.qps := rfl
@[simp] theorem State.modTg_hedge (s : State) (g : GroupId) (f : TGroup → TGroup) : (s.modTg g f).hedge = s.hedge := rfl
@[simp] theorem State.modTg_eth (s : State) (g : GroupId) (f : TGroup → TGroup) : (s.modTg g f).eth = s.eth := rfl
@[simp] theorem State.modTg_traf (s : State) (g : GroupId) (f : TGroup → TGroup) : (s.modTg g f).traf = s.traf := rfl
@[simp] theorem State.modTg_sec (s : State) (g : GroupId) (f : TGroup → TGroup) : (s.modTg g f).sec = s.sec := rfl
@[simp] theorem State.modTg_parts (s : State) (g : GroupId) (f : TGroup → TGroup) : (s.modTg g f).parts = s.parts := rfl
@[simp] theorem State.modTg_pwr (s : State) (g : GroupId) (f : TGroup → TGroup) : (s.modTg g f).pwr = s.pwr := rfl
@[simp] theorem State.modTg_resp (s : State) (g : GroupId) (f : TGroup → TGroup) : (s.modTg g f).resp = s.resp := rfl
@[simp] theorem State.modTg_freeCtr (s : State) (g : GroupId) (f : TGroup → TGroup) : (s.modTg g f).freeCtr = s.freeCtr := rfl

@[simp] theorem State.modQueue_pending (s : State) (p q : Nat) (f : QSt → QSt) : (s.modQueue p q f).pending = s.pending := rfl
@[simp] theorem State.modQueue_step (s : State) (p q : Nat) (f : QSt → QSt) : (s.modQueue p q f).step = s.step := rfl
@[simp] theorem State.modQueue_node (s : State) (p q : Nat) (f : QSt → QSt) : (s.modQueue p q f).node = s.node := rfl
@[simp] theorem State.modQueue_dict (s : State) (p q : Nat) (f : QSt → QSt) : (s.modQueue p q f).dict = s.dict := rfl
@[simp] theorem State.modQueue_ev (s : State) (p q : Nat) (f : QSt → QSt) : (s.modQueue p q f).ev = s.ev := rfl
@[simp] theorem State.modQueue_mem (s : State) (p q : Nat) (f : QSt → QSt) : (s.modQueue p q f).mem = s.mem := rfl
@[simp] theorem State.modQueue_rings (s : State) (p q : Nat) (f : QSt → QSt) : (s.modQueue p q f).rings = s.rings := rfl
@[simp] theorem State.modQueue_ledger (s : State) (p q : Nat) (f : QSt → QSt) : (s.modQueue p q f).ledger = s.ledger := rfl
@[simp] theorem State.modQueue_shards (s : State) (p q : Nat) (f : QSt → QSt) : (s.modQueue p q f).shards = s.shards := rfl
@[simp] theorem State.modQueue_log (s : State) (p q : Nat) (f : QSt → QSt) : (s.modQueue p q f).log = s.log := rfl
@[simp] theorem State.modQueue_flash (s : State) (p q : Nat) (f : QSt → QSt) : (s.modQueue p q f).flash = s.flash := rfl
@[simp] theorem State.modQueue_tier (s : State) (p q : Nat) (f : QSt → QSt) : (s.modQueue p q f).tier = s.tier := rfl
@[simp] theorem State.modQueue_codebooks (s : State) (p q : Nat) (f : QSt → QSt) : (s.modQueue p q f).codebooks = s.codebooks := rfl
@[simp] theorem State.modQueue_models (s : State) (p q : Nat) (f : QSt → QSt) : (s.modQueue p q f).models = s.models := rfl
@[simp] theorem State.modQueue_caches (s : State) (p q : Nat) (f : QSt → QSt) : (s.modQueue p q f).caches = s.caches := rfl
@[simp] theorem State.modQueue_nextCache (s : State) (p q : Nat) (f : QSt → QSt) : (s.modQueue p q f).nextCache = s.nextCache := rfl
@[simp] theorem State.modQueue_arrays (s : State) (p q : Nat) (f : QSt → QSt) : (s.modQueue p q f).arrays = s.arrays := rfl
@[simp] theorem State.modQueue_embs (s : State) (p q : Nat) (f : QSt → QSt) : (s.modQueue p q f).embs = s.embs := rfl
@[simp] theorem State.modQueue_embWinAt (s : State) (p q : Nat) (f : QSt → QSt) : (s.modQueue p q f).embWinAt = s.embWinAt := rfl
@[simp] theorem State.modQueue_tills (s : State) (p q : Nat) (f : QSt → QSt) : (s.modQueue p q f).tills = s.tills := rfl
@[simp] theorem State.modQueue_tx (s : State) (p q : Nat) (f : QSt → QSt) : (s.modQueue p q f).tx = s.tx := rfl
@[simp] theorem State.modQueue_sent (s : State) (p q : Nat) (f : QSt → QSt) : (s.modQueue p q f).sent = s.sent := rfl
@[simp] theorem State.modQueue_qps (s : State) (p q : Nat) (f : QSt → QSt) : (s.modQueue p q f).qps = s.qps := rfl
@[simp] theorem State.modQueue_hedge (s : State) (p q : Nat) (f : QSt → QSt) : (s.modQueue p q f).hedge = s.hedge := rfl
@[simp] theorem State.modQueue_eth (s : State) (p q : Nat) (f : QSt → QSt) : (s.modQueue p q f).eth = s.eth := rfl
@[simp] theorem State.modQueue_traf (s : State) (p q : Nat) (f : QSt → QSt) : (s.modQueue p q f).traf = s.traf := rfl
@[simp] theorem State.modQueue_sec (s : State) (p q : Nat) (f : QSt → QSt) : (s.modQueue p q f).sec = s.sec := rfl
@[simp] theorem State.modQueue_parts (s : State) (p q : Nat) (f : QSt → QSt) : (s.modQueue p q f).parts = s.parts := rfl
@[simp] theorem State.modQueue_pwr (s : State) (p q : Nat) (f : QSt → QSt) : (s.modQueue p q f).pwr = s.pwr := rfl
@[simp] theorem State.modQueue_resp (s : State) (p q : Nat) (f : QSt → QSt) : (s.modQueue p q f).resp = s.resp := rfl
@[simp] theorem State.modQueue_freeCtr (s : State) (p q : Nat) (f : QSt → QSt) : (s.modQueue p q f).freeCtr = s.freeCtr := rfl

@[simp] theorem State.modArr_pending (s : State) (k : Nat) (f : TArr → TArr) : (s.modArr k f).pending = s.pending := rfl
@[simp] theorem State.modArr_step (s : State) (k : Nat) (f : TArr → TArr) : (s.modArr k f).step = s.step := rfl
@[simp] theorem State.modArr_node (s : State) (k : Nat) (f : TArr → TArr) : (s.modArr k f).node = s.node := rfl
@[simp] theorem State.modArr_dict (s : State) (k : Nat) (f : TArr → TArr) : (s.modArr k f).dict = s.dict := rfl
@[simp] theorem State.modArr_ev (s : State) (k : Nat) (f : TArr → TArr) : (s.modArr k f).ev = s.ev := rfl
@[simp] theorem State.modArr_mem (s : State) (k : Nat) (f : TArr → TArr) : (s.modArr k f).mem = s.mem := rfl
@[simp] theorem State.modArr_rings (s : State) (k : Nat) (f : TArr → TArr) : (s.modArr k f).rings = s.rings := rfl
@[simp] theorem State.modArr_ledger (s : State) (k : Nat) (f : TArr → TArr) : (s.modArr k f).ledger = s.ledger := rfl
@[simp] theorem State.modArr_shards (s : State) (k : Nat) (f : TArr → TArr) : (s.modArr k f).shards = s.shards := rfl
@[simp] theorem State.modArr_log (s : State) (k : Nat) (f : TArr → TArr) : (s.modArr k f).log = s.log := rfl
@[simp] theorem State.modArr_flash (s : State) (k : Nat) (f : TArr → TArr) : (s.modArr k f).flash = s.flash := rfl
@[simp] theorem State.modArr_tier (s : State) (k : Nat) (f : TArr → TArr) : (s.modArr k f).tier = s.tier := rfl
@[simp] theorem State.modArr_codebooks (s : State) (k : Nat) (f : TArr → TArr) : (s.modArr k f).codebooks = s.codebooks := rfl
@[simp] theorem State.modArr_models (s : State) (k : Nat) (f : TArr → TArr) : (s.modArr k f).models = s.models := rfl
@[simp] theorem State.modArr_caches (s : State) (k : Nat) (f : TArr → TArr) : (s.modArr k f).caches = s.caches := rfl
@[simp] theorem State.modArr_nextCache (s : State) (k : Nat) (f : TArr → TArr) : (s.modArr k f).nextCache = s.nextCache := rfl
@[simp] theorem State.modArr_embs (s : State) (k : Nat) (f : TArr → TArr) : (s.modArr k f).embs = s.embs := rfl
@[simp] theorem State.modArr_embWinAt (s : State) (k : Nat) (f : TArr → TArr) : (s.modArr k f).embWinAt = s.embWinAt := rfl
@[simp] theorem State.modArr_tills (s : State) (k : Nat) (f : TArr → TArr) : (s.modArr k f).tills = s.tills := rfl
@[simp] theorem State.modArr_queues (s : State) (k : Nat) (f : TArr → TArr) : (s.modArr k f).queues = s.queues := rfl
@[simp] theorem State.modArr_tx (s : State) (k : Nat) (f : TArr → TArr) : (s.modArr k f).tx = s.tx := rfl
@[simp] theorem State.modArr_sent (s : State) (k : Nat) (f : TArr → TArr) : (s.modArr k f).sent = s.sent := rfl
@[simp] theorem State.modArr_qps (s : State) (k : Nat) (f : TArr → TArr) : (s.modArr k f).qps = s.qps := rfl
@[simp] theorem State.modArr_hedge (s : State) (k : Nat) (f : TArr → TArr) : (s.modArr k f).hedge = s.hedge := rfl
@[simp] theorem State.modArr_eth (s : State) (k : Nat) (f : TArr → TArr) : (s.modArr k f).eth = s.eth := rfl
@[simp] theorem State.modArr_traf (s : State) (k : Nat) (f : TArr → TArr) : (s.modArr k f).traf = s.traf := rfl
@[simp] theorem State.modArr_sec (s : State) (k : Nat) (f : TArr → TArr) : (s.modArr k f).sec = s.sec := rfl
@[simp] theorem State.modArr_parts (s : State) (k : Nat) (f : TArr → TArr) : (s.modArr k f).parts = s.parts := rfl
@[simp] theorem State.modArr_pwr (s : State) (k : Nat) (f : TArr → TArr) : (s.modArr k f).pwr = s.pwr := rfl
@[simp] theorem State.modArr_resp (s : State) (k : Nat) (f : TArr → TArr) : (s.modArr k f).resp = s.resp := rfl
@[simp] theorem State.modArr_freeCtr (s : State) (k : Nat) (f : TArr → TArr) : (s.modArr k f).freeCtr = s.freeCtr := rfl

@[simp] theorem State.modHp_pending (s : State) (k : Nat) (f : HPort → HPort) : (s.modHp k f).pending = s.pending := rfl
@[simp] theorem State.modHp_step (s : State) (k : Nat) (f : HPort → HPort) : (s.modHp k f).step = s.step := rfl
@[simp] theorem State.modHp_node (s : State) (k : Nat) (f : HPort → HPort) : (s.modHp k f).node = s.node := rfl
@[simp] theorem State.modHp_dict (s : State) (k : Nat) (f : HPort → HPort) : (s.modHp k f).dict = s.dict := rfl
@[simp] theorem State.modHp_ev (s : State) (k : Nat) (f : HPort → HPort) : (s.modHp k f).ev = s.ev := rfl
@[simp] theorem State.modHp_mem (s : State) (k : Nat) (f : HPort → HPort) : (s.modHp k f).mem = s.mem := rfl
@[simp] theorem State.modHp_rings (s : State) (k : Nat) (f : HPort → HPort) : (s.modHp k f).rings = s.rings := rfl
@[simp] theorem State.modHp_ledger (s : State) (k : Nat) (f : HPort → HPort) : (s.modHp k f).ledger = s.ledger := rfl
@[simp] theorem State.modHp_shards (s : State) (k : Nat) (f : HPort → HPort) : (s.modHp k f).shards = s.shards := rfl
@[simp] theorem State.modHp_log (s : State) (k : Nat) (f : HPort → HPort) : (s.modHp k f).log = s.log := rfl
@[simp] theorem State.modHp_flash (s : State) (k : Nat) (f : HPort → HPort) : (s.modHp k f).flash = s.flash := rfl
@[simp] theorem State.modHp_tier (s : State) (k : Nat) (f : HPort → HPort) : (s.modHp k f).tier = s.tier := rfl
@[simp] theorem State.modHp_codebooks (s : State) (k : Nat) (f : HPort → HPort) : (s.modHp k f).codebooks = s.codebooks := rfl
@[simp] theorem State.modHp_models (s : State) (k : Nat) (f : HPort → HPort) : (s.modHp k f).models = s.models := rfl
@[simp] theorem State.modHp_caches (s : State) (k : Nat) (f : HPort → HPort) : (s.modHp k f).caches = s.caches := rfl
@[simp] theorem State.modHp_nextCache (s : State) (k : Nat) (f : HPort → HPort) : (s.modHp k f).nextCache = s.nextCache := rfl
@[simp] theorem State.modHp_arrays (s : State) (k : Nat) (f : HPort → HPort) : (s.modHp k f).arrays = s.arrays := rfl
@[simp] theorem State.modHp_embs (s : State) (k : Nat) (f : HPort → HPort) : (s.modHp k f).embs = s.embs := rfl
@[simp] theorem State.modHp_embWinAt (s : State) (k : Nat) (f : HPort → HPort) : (s.modHp k f).embWinAt = s.embWinAt := rfl
@[simp] theorem State.modHp_tills (s : State) (k : Nat) (f : HPort → HPort) : (s.modHp k f).tills = s.tills := rfl
@[simp] theorem State.modHp_queues (s : State) (k : Nat) (f : HPort → HPort) : (s.modHp k f).queues = s.queues := rfl
@[simp] theorem State.modHp_tx (s : State) (k : Nat) (f : HPort → HPort) : (s.modHp k f).tx = s.tx := rfl
@[simp] theorem State.modHp_sent (s : State) (k : Nat) (f : HPort → HPort) : (s.modHp k f).sent = s.sent := rfl
@[simp] theorem State.modHp_qps (s : State) (k : Nat) (f : HPort → HPort) : (s.modHp k f).qps = s.qps := rfl
@[simp] theorem State.modHp_eth (s : State) (k : Nat) (f : HPort → HPort) : (s.modHp k f).eth = s.eth := rfl
@[simp] theorem State.modHp_traf (s : State) (k : Nat) (f : HPort → HPort) : (s.modHp k f).traf = s.traf := rfl
@[simp] theorem State.modHp_sec (s : State) (k : Nat) (f : HPort → HPort) : (s.modHp k f).sec = s.sec := rfl
@[simp] theorem State.modHp_parts (s : State) (k : Nat) (f : HPort → HPort) : (s.modHp k f).parts = s.parts := rfl
@[simp] theorem State.modHp_pwr (s : State) (k : Nat) (f : HPort → HPort) : (s.modHp k f).pwr = s.pwr := rfl
@[simp] theorem State.modHp_resp (s : State) (k : Nat) (f : HPort → HPort) : (s.modHp k f).resp = s.resp := rfl
@[simp] theorem State.modHp_freeCtr (s : State) (k : Nat) (f : HPort → HPort) : (s.modHp k f).freeCtr = s.freeCtr := rfl

@[simp] theorem State.modEp_pending (s : State) (k : Nat) (f : EPort → EPort) : (s.modEp k f).pending = s.pending := rfl
@[simp] theorem State.modEp_step (s : State) (k : Nat) (f : EPort → EPort) : (s.modEp k f).step = s.step := rfl
@[simp] theorem State.modEp_node (s : State) (k : Nat) (f : EPort → EPort) : (s.modEp k f).node = s.node := rfl
@[simp] theorem State.modEp_dict (s : State) (k : Nat) (f : EPort → EPort) : (s.modEp k f).dict = s.dict := rfl
@[simp] theorem State.modEp_ev (s : State) (k : Nat) (f : EPort → EPort) : (s.modEp k f).ev = s.ev := rfl
@[simp] theorem State.modEp_mem (s : State) (k : Nat) (f : EPort → EPort) : (s.modEp k f).mem = s.mem := rfl
@[simp] theorem State.modEp_rings (s : State) (k : Nat) (f : EPort → EPort) : (s.modEp k f).rings = s.rings := rfl
@[simp] theorem State.modEp_ledger (s : State) (k : Nat) (f : EPort → EPort) : (s.modEp k f).ledger = s.ledger := rfl
@[simp] theorem State.modEp_shards (s : State) (k : Nat) (f : EPort → EPort) : (s.modEp k f).shards = s.shards := rfl
@[simp] theorem State.modEp_log (s : State) (k : Nat) (f : EPort → EPort) : (s.modEp k f).log = s.log := rfl
@[simp] theorem State.modEp_flash (s : State) (k : Nat) (f : EPort → EPort) : (s.modEp k f).flash = s.flash := rfl
@[simp] theorem State.modEp_tier (s : State) (k : Nat) (f : EPort → EPort) : (s.modEp k f).tier = s.tier := rfl
@[simp] theorem State.modEp_codebooks (s : State) (k : Nat) (f : EPort → EPort) : (s.modEp k f).codebooks = s.codebooks := rfl
@[simp] theorem State.modEp_models (s : State) (k : Nat) (f : EPort → EPort) : (s.modEp k f).models = s.models := rfl
@[simp] theorem State.modEp_caches (s : State) (k : Nat) (f : EPort → EPort) : (s.modEp k f).caches = s.caches := rfl
@[simp] theorem State.modEp_nextCache (s : State) (k : Nat) (f : EPort → EPort) : (s.modEp k f).nextCache = s.nextCache := rfl
@[simp] theorem State.modEp_arrays (s : State) (k : Nat) (f : EPort → EPort) : (s.modEp k f).arrays = s.arrays := rfl
@[simp] theorem State.modEp_embs (s : State) (k : Nat) (f : EPort → EPort) : (s.modEp k f).embs = s.embs := rfl
@[simp] theorem State.modEp_embWinAt (s : State) (k : Nat) (f : EPort → EPort) : (s.modEp k f).embWinAt = s.embWinAt := rfl
@[simp] theorem State.modEp_tills (s : State) (k : Nat) (f : EPort → EPort) : (s.modEp k f).tills = s.tills := rfl
@[simp] theorem State.modEp_queues (s : State) (k : Nat) (f : EPort → EPort) : (s.modEp k f).queues = s.queues := rfl
@[simp] theorem State.modEp_tx (s : State) (k : Nat) (f : EPort → EPort) : (s.modEp k f).tx = s.tx := rfl
@[simp] theorem State.modEp_sent (s : State) (k : Nat) (f : EPort → EPort) : (s.modEp k f).sent = s.sent := rfl
@[simp] theorem State.modEp_qps (s : State) (k : Nat) (f : EPort → EPort) : (s.modEp k f).qps = s.qps := rfl
@[simp] theorem State.modEp_hedge (s : State) (k : Nat) (f : EPort → EPort) : (s.modEp k f).hedge = s.hedge := rfl
@[simp] theorem State.modEp_traf (s : State) (k : Nat) (f : EPort → EPort) : (s.modEp k f).traf = s.traf := rfl
@[simp] theorem State.modEp_sec (s : State) (k : Nat) (f : EPort → EPort) : (s.modEp k f).sec = s.sec := rfl
@[simp] theorem State.modEp_parts (s : State) (k : Nat) (f : EPort → EPort) : (s.modEp k f).parts = s.parts := rfl
@[simp] theorem State.modEp_pwr (s : State) (k : Nat) (f : EPort → EPort) : (s.modEp k f).pwr = s.pwr := rfl
@[simp] theorem State.modEp_resp (s : State) (k : Nat) (f : EPort → EPort) : (s.modEp k f).resp = s.resp := rfl
@[simp] theorem State.modEp_freeCtr (s : State) (k : Nat) (f : EPort → EPort) : (s.modEp k f).freeCtr = s.freeCtr := rfl

@[simp] theorem State.modTp_pending (s : State) (k : Nat) (f : TPort → TPort) : (s.modTp k f).pending = s.pending := rfl
@[simp] theorem State.modTp_step (s : State) (k : Nat) (f : TPort → TPort) : (s.modTp k f).step = s.step := rfl
@[simp] theorem State.modTp_node (s : State) (k : Nat) (f : TPort → TPort) : (s.modTp k f).node = s.node := rfl
@[simp] theorem State.modTp_dict (s : State) (k : Nat) (f : TPort → TPort) : (s.modTp k f).dict = s.dict := rfl
@[simp] theorem State.modTp_ev (s : State) (k : Nat) (f : TPort → TPort) : (s.modTp k f).ev = s.ev := rfl
@[simp] theorem State.modTp_mem (s : State) (k : Nat) (f : TPort → TPort) : (s.modTp k f).mem = s.mem := rfl
@[simp] theorem State.modTp_rings (s : State) (k : Nat) (f : TPort → TPort) : (s.modTp k f).rings = s.rings := rfl
@[simp] theorem State.modTp_ledger (s : State) (k : Nat) (f : TPort → TPort) : (s.modTp k f).ledger = s.ledger := rfl
@[simp] theorem State.modTp_shards (s : State) (k : Nat) (f : TPort → TPort) : (s.modTp k f).shards = s.shards := rfl
@[simp] theorem State.modTp_log (s : State) (k : Nat) (f : TPort → TPort) : (s.modTp k f).log = s.log := rfl
@[simp] theorem State.modTp_flash (s : State) (k : Nat) (f : TPort → TPort) : (s.modTp k f).flash = s.flash := rfl
@[simp] theorem State.modTp_tier (s : State) (k : Nat) (f : TPort → TPort) : (s.modTp k f).tier = s.tier := rfl
@[simp] theorem State.modTp_codebooks (s : State) (k : Nat) (f : TPort → TPort) : (s.modTp k f).codebooks = s.codebooks := rfl
@[simp] theorem State.modTp_models (s : State) (k : Nat) (f : TPort → TPort) : (s.modTp k f).models = s.models := rfl
@[simp] theorem State.modTp_caches (s : State) (k : Nat) (f : TPort → TPort) : (s.modTp k f).caches = s.caches := rfl
@[simp] theorem State.modTp_nextCache (s : State) (k : Nat) (f : TPort → TPort) : (s.modTp k f).nextCache = s.nextCache := rfl
@[simp] theorem State.modTp_arrays (s : State) (k : Nat) (f : TPort → TPort) : (s.modTp k f).arrays = s.arrays := rfl
@[simp] theorem State.modTp_embs (s : State) (k : Nat) (f : TPort → TPort) : (s.modTp k f).embs = s.embs := rfl
@[simp] theorem State.modTp_embWinAt (s : State) (k : Nat) (f : TPort → TPort) : (s.modTp k f).embWinAt = s.embWinAt := rfl
@[simp] theorem State.modTp_tills (s : State) (k : Nat) (f : TPort → TPort) : (s.modTp k f).tills = s.tills := rfl
@[simp] theorem State.modTp_queues (s : State) (k : Nat) (f : TPort → TPort) : (s.modTp k f).queues = s.queues := rfl
@[simp] theorem State.modTp_tx (s : State) (k : Nat) (f : TPort → TPort) : (s.modTp k f).tx = s.tx := rfl
@[simp] theorem State.modTp_sent (s : State) (k : Nat) (f : TPort → TPort) : (s.modTp k f).sent = s.sent := rfl
@[simp] theorem State.modTp_qps (s : State) (k : Nat) (f : TPort → TPort) : (s.modTp k f).qps = s.qps := rfl
@[simp] theorem State.modTp_hedge (s : State) (k : Nat) (f : TPort → TPort) : (s.modTp k f).hedge = s.hedge := rfl
@[simp] theorem State.modTp_eth (s : State) (k : Nat) (f : TPort → TPort) : (s.modTp k f).eth = s.eth := rfl
@[simp] theorem State.modTp_sec (s : State) (k : Nat) (f : TPort → TPort) : (s.modTp k f).sec = s.sec := rfl
@[simp] theorem State.modTp_parts (s : State) (k : Nat) (f : TPort → TPort) : (s.modTp k f).parts = s.parts := rfl
@[simp] theorem State.modTp_pwr (s : State) (k : Nat) (f : TPort → TPort) : (s.modTp k f).pwr = s.pwr := rfl
@[simp] theorem State.modTp_resp (s : State) (k : Nat) (f : TPort → TPort) : (s.modTp k f).resp = s.resp := rfl
@[simp] theorem State.modTp_freeCtr (s : State) (k : Nat) (f : TPort → TPort) : (s.modTp k f).freeCtr = s.freeCtr := rfl

@[simp] theorem State.modQp_pending (s : State) (k : Nat) (f : QPair → QPair) : (s.modQp k f).pending = s.pending := rfl
@[simp] theorem State.modQp_step (s : State) (k : Nat) (f : QPair → QPair) : (s.modQp k f).step = s.step := rfl
@[simp] theorem State.modQp_node (s : State) (k : Nat) (f : QPair → QPair) : (s.modQp k f).node = s.node := rfl
@[simp] theorem State.modQp_dict (s : State) (k : Nat) (f : QPair → QPair) : (s.modQp k f).dict = s.dict := rfl
@[simp] theorem State.modQp_ev (s : State) (k : Nat) (f : QPair → QPair) : (s.modQp k f).ev = s.ev := rfl
@[simp] theorem State.modQp_mem (s : State) (k : Nat) (f : QPair → QPair) : (s.modQp k f).mem = s.mem := rfl
@[simp] theorem State.modQp_rings (s : State) (k : Nat) (f : QPair → QPair) : (s.modQp k f).rings = s.rings := rfl
@[simp] theorem State.modQp_ledger (s : State) (k : Nat) (f : QPair → QPair) : (s.modQp k f).ledger = s.ledger := rfl
@[simp] theorem State.modQp_shards (s : State) (k : Nat) (f : QPair → QPair) : (s.modQp k f).shards = s.shards := rfl
@[simp] theorem State.modQp_log (s : State) (k : Nat) (f : QPair → QPair) : (s.modQp k f).log = s.log := rfl
@[simp] theorem State.modQp_flash (s : State) (k : Nat) (f : QPair → QPair) : (s.modQp k f).flash = s.flash := rfl
@[simp] theorem State.modQp_tier (s : State) (k : Nat) (f : QPair → QPair) : (s.modQp k f).tier = s.tier := rfl
@[simp] theorem State.modQp_codebooks (s : State) (k : Nat) (f : QPair → QPair) : (s.modQp k f).codebooks = s.codebooks := rfl
@[simp] theorem State.modQp_models (s : State) (k : Nat) (f : QPair → QPair) : (s.modQp k f).models = s.models := rfl
@[simp] theorem State.modQp_caches (s : State) (k : Nat) (f : QPair → QPair) : (s.modQp k f).caches = s.caches := rfl
@[simp] theorem State.modQp_nextCache (s : State) (k : Nat) (f : QPair → QPair) : (s.modQp k f).nextCache = s.nextCache := rfl
@[simp] theorem State.modQp_arrays (s : State) (k : Nat) (f : QPair → QPair) : (s.modQp k f).arrays = s.arrays := rfl
@[simp] theorem State.modQp_embs (s : State) (k : Nat) (f : QPair → QPair) : (s.modQp k f).embs = s.embs := rfl
@[simp] theorem State.modQp_embWinAt (s : State) (k : Nat) (f : QPair → QPair) : (s.modQp k f).embWinAt = s.embWinAt := rfl
@[simp] theorem State.modQp_tills (s : State) (k : Nat) (f : QPair → QPair) : (s.modQp k f).tills = s.tills := rfl
@[simp] theorem State.modQp_queues (s : State) (k : Nat) (f : QPair → QPair) : (s.modQp k f).queues = s.queues := rfl
@[simp] theorem State.modQp_tx (s : State) (k : Nat) (f : QPair → QPair) : (s.modQp k f).tx = s.tx := rfl
@[simp] theorem State.modQp_sent (s : State) (k : Nat) (f : QPair → QPair) : (s.modQp k f).sent = s.sent := rfl
@[simp] theorem State.modQp_hedge (s : State) (k : Nat) (f : QPair → QPair) : (s.modQp k f).hedge = s.hedge := rfl
@[simp] theorem State.modQp_eth (s : State) (k : Nat) (f : QPair → QPair) : (s.modQp k f).eth = s.eth := rfl
@[simp] theorem State.modQp_traf (s : State) (k : Nat) (f : QPair → QPair) : (s.modQp k f).traf = s.traf := rfl
@[simp] theorem State.modQp_sec (s : State) (k : Nat) (f : QPair → QPair) : (s.modQp k f).sec = s.sec := rfl
@[simp] theorem State.modQp_parts (s : State) (k : Nat) (f : QPair → QPair) : (s.modQp k f).parts = s.parts := rfl
@[simp] theorem State.modQp_pwr (s : State) (k : Nat) (f : QPair → QPair) : (s.modQp k f).pwr = s.pwr := rfl
@[simp] theorem State.modQp_resp (s : State) (k : Nat) (f : QPair → QPair) : (s.modQp k f).resp = s.resp := rfl
@[simp] theorem State.modQp_freeCtr (s : State) (k : Nat) (f : QPair → QPair) : (s.modQp k f).freeCtr = s.freeCtr := rfl

@[simp] theorem State.modEmb_pending (s : State) (k : Nat) (f : EmbTab → EmbTab) : (s.modEmb k f).pending = s.pending := rfl
@[simp] theorem State.modEmb_step (s : State) (k : Nat) (f : EmbTab → EmbTab) : (s.modEmb k f).step = s.step := rfl
@[simp] theorem State.modEmb_node (s : State) (k : Nat) (f : EmbTab → EmbTab) : (s.modEmb k f).node = s.node := rfl
@[simp] theorem State.modEmb_dict (s : State) (k : Nat) (f : EmbTab → EmbTab) : (s.modEmb k f).dict = s.dict := rfl
@[simp] theorem State.modEmb_ev (s : State) (k : Nat) (f : EmbTab → EmbTab) : (s.modEmb k f).ev = s.ev := rfl
@[simp] theorem State.modEmb_mem (s : State) (k : Nat) (f : EmbTab → EmbTab) : (s.modEmb k f).mem = s.mem := rfl
@[simp] theorem State.modEmb_rings (s : State) (k : Nat) (f : EmbTab → EmbTab) : (s.modEmb k f).rings = s.rings := rfl
@[simp] theorem State.modEmb_ledger (s : State) (k : Nat) (f : EmbTab → EmbTab) : (s.modEmb k f).ledger = s.ledger := rfl
@[simp] theorem State.modEmb_shards (s : State) (k : Nat) (f : EmbTab → EmbTab) : (s.modEmb k f).shards = s.shards := rfl
@[simp] theorem State.modEmb_log (s : State) (k : Nat) (f : EmbTab → EmbTab) : (s.modEmb k f).log = s.log := rfl
@[simp] theorem State.modEmb_flash (s : State) (k : Nat) (f : EmbTab → EmbTab) : (s.modEmb k f).flash = s.flash := rfl
@[simp] theorem State.modEmb_tier (s : State) (k : Nat) (f : EmbTab → EmbTab) : (s.modEmb k f).tier = s.tier := rfl
@[simp] theorem State.modEmb_codebooks (s : State) (k : Nat) (f : EmbTab → EmbTab) : (s.modEmb k f).codebooks = s.codebooks := rfl
@[simp] theorem State.modEmb_models (s : State) (k : Nat) (f : EmbTab → EmbTab) : (s.modEmb k f).models = s.models := rfl
@[simp] theorem State.modEmb_caches (s : State) (k : Nat) (f : EmbTab → EmbTab) : (s.modEmb k f).caches = s.caches := rfl
@[simp] theorem State.modEmb_nextCache (s : State) (k : Nat) (f : EmbTab → EmbTab) : (s.modEmb k f).nextCache = s.nextCache := rfl
@[simp] theorem State.modEmb_arrays (s : State) (k : Nat) (f : EmbTab → EmbTab) : (s.modEmb k f).arrays = s.arrays := rfl
@[simp] theorem State.modEmb_embWinAt (s : State) (k : Nat) (f : EmbTab → EmbTab) : (s.modEmb k f).embWinAt = s.embWinAt := rfl
@[simp] theorem State.modEmb_tills (s : State) (k : Nat) (f : EmbTab → EmbTab) : (s.modEmb k f).tills = s.tills := rfl
@[simp] theorem State.modEmb_queues (s : State) (k : Nat) (f : EmbTab → EmbTab) : (s.modEmb k f).queues = s.queues := rfl
@[simp] theorem State.modEmb_tx (s : State) (k : Nat) (f : EmbTab → EmbTab) : (s.modEmb k f).tx = s.tx := rfl
@[simp] theorem State.modEmb_sent (s : State) (k : Nat) (f : EmbTab → EmbTab) : (s.modEmb k f).sent = s.sent := rfl
@[simp] theorem State.modEmb_qps (s : State) (k : Nat) (f : EmbTab → EmbTab) : (s.modEmb k f).qps = s.qps := rfl
@[simp] theorem State.modEmb_hedge (s : State) (k : Nat) (f : EmbTab → EmbTab) : (s.modEmb k f).hedge = s.hedge := rfl
@[simp] theorem State.modEmb_eth (s : State) (k : Nat) (f : EmbTab → EmbTab) : (s.modEmb k f).eth = s.eth := rfl
@[simp] theorem State.modEmb_traf (s : State) (k : Nat) (f : EmbTab → EmbTab) : (s.modEmb k f).traf = s.traf := rfl
@[simp] theorem State.modEmb_sec (s : State) (k : Nat) (f : EmbTab → EmbTab) : (s.modEmb k f).sec = s.sec := rfl
@[simp] theorem State.modEmb_parts (s : State) (k : Nat) (f : EmbTab → EmbTab) : (s.modEmb k f).parts = s.parts := rfl
@[simp] theorem State.modEmb_pwr (s : State) (k : Nat) (f : EmbTab → EmbTab) : (s.modEmb k f).pwr = s.pwr := rfl
@[simp] theorem State.modEmb_resp (s : State) (k : Nat) (f : EmbTab → EmbTab) : (s.modEmb k f).resp = s.resp := rfl
@[simp] theorem State.modEmb_freeCtr (s : State) (k : Nat) (f : EmbTab → EmbTab) : (s.modEmb k f).freeCtr = s.freeCtr := rfl

@[simp] theorem State.modPart_pending (s : State) (k : Nat) (f : PartSt → PartSt) : (s.modPart k f).pending = s.pending := rfl
@[simp] theorem State.modPart_step (s : State) (k : Nat) (f : PartSt → PartSt) : (s.modPart k f).step = s.step := rfl
@[simp] theorem State.modPart_node (s : State) (k : Nat) (f : PartSt → PartSt) : (s.modPart k f).node = s.node := rfl
@[simp] theorem State.modPart_dict (s : State) (k : Nat) (f : PartSt → PartSt) : (s.modPart k f).dict = s.dict := rfl
@[simp] theorem State.modPart_ev (s : State) (k : Nat) (f : PartSt → PartSt) : (s.modPart k f).ev = s.ev := rfl
@[simp] theorem State.modPart_mem (s : State) (k : Nat) (f : PartSt → PartSt) : (s.modPart k f).mem = s.mem := rfl
@[simp] theorem State.modPart_rings (s : State) (k : Nat) (f : PartSt → PartSt) : (s.modPart k f).rings = s.rings := rfl
@[simp] theorem State.modPart_ledger (s : State) (k : Nat) (f : PartSt → PartSt) : (s.modPart k f).ledger = s.ledger := rfl
@[simp] theorem State.modPart_shards (s : State) (k : Nat) (f : PartSt → PartSt) : (s.modPart k f).shards = s.shards := rfl
@[simp] theorem State.modPart_log (s : State) (k : Nat) (f : PartSt → PartSt) : (s.modPart k f).log = s.log := rfl
@[simp] theorem State.modPart_flash (s : State) (k : Nat) (f : PartSt → PartSt) : (s.modPart k f).flash = s.flash := rfl
@[simp] theorem State.modPart_tier (s : State) (k : Nat) (f : PartSt → PartSt) : (s.modPart k f).tier = s.tier := rfl
@[simp] theorem State.modPart_codebooks (s : State) (k : Nat) (f : PartSt → PartSt) : (s.modPart k f).codebooks = s.codebooks := rfl
@[simp] theorem State.modPart_models (s : State) (k : Nat) (f : PartSt → PartSt) : (s.modPart k f).models = s.models := rfl
@[simp] theorem State.modPart_caches (s : State) (k : Nat) (f : PartSt → PartSt) : (s.modPart k f).caches = s.caches := rfl
@[simp] theorem State.modPart_nextCache (s : State) (k : Nat) (f : PartSt → PartSt) : (s.modPart k f).nextCache = s.nextCache := rfl
@[simp] theorem State.modPart_arrays (s : State) (k : Nat) (f : PartSt → PartSt) : (s.modPart k f).arrays = s.arrays := rfl
@[simp] theorem State.modPart_embs (s : State) (k : Nat) (f : PartSt → PartSt) : (s.modPart k f).embs = s.embs := rfl
@[simp] theorem State.modPart_embWinAt (s : State) (k : Nat) (f : PartSt → PartSt) : (s.modPart k f).embWinAt = s.embWinAt := rfl
@[simp] theorem State.modPart_tills (s : State) (k : Nat) (f : PartSt → PartSt) : (s.modPart k f).tills = s.tills := rfl
@[simp] theorem State.modPart_queues (s : State) (k : Nat) (f : PartSt → PartSt) : (s.modPart k f).queues = s.queues := rfl
@[simp] theorem State.modPart_tx (s : State) (k : Nat) (f : PartSt → PartSt) : (s.modPart k f).tx = s.tx := rfl
@[simp] theorem State.modPart_sent (s : State) (k : Nat) (f : PartSt → PartSt) : (s.modPart k f).sent = s.sent := rfl
@[simp] theorem State.modPart_qps (s : State) (k : Nat) (f : PartSt → PartSt) : (s.modPart k f).qps = s.qps := rfl
@[simp] theorem State.modPart_hedge (s : State) (k : Nat) (f : PartSt → PartSt) : (s.modPart k f).hedge = s.hedge := rfl
@[simp] theorem State.modPart_eth (s : State) (k : Nat) (f : PartSt → PartSt) : (s.modPart k f).eth = s.eth := rfl
@[simp] theorem State.modPart_traf (s : State) (k : Nat) (f : PartSt → PartSt) : (s.modPart k f).traf = s.traf := rfl
@[simp] theorem State.modPart_sec (s : State) (k : Nat) (f : PartSt → PartSt) : (s.modPart k f).sec = s.sec := rfl
@[simp] theorem State.modPart_pwr (s : State) (k : Nat) (f : PartSt → PartSt) : (s.modPart k f).pwr = s.pwr := rfl
@[simp] theorem State.modPart_resp (s : State) (k : Nat) (f : PartSt → PartSt) : (s.modPart k f).resp = s.resp := rfl
@[simp] theorem State.modPart_freeCtr (s : State) (k : Nat) (f : PartSt → PartSt) : (s.modPart k f).freeCtr = s.freeCtr := rfl

/-! ### Accessors -/

theorem leNat_leBytes (n v : Nat) : leNat (leBytes n v) = v % 256 ^ n := by
  induction n generalizing v with
  | zero => simp [leBytes, leNat, Nat.mod_one]
  | succ n ih =>
    simp only [leBytes, leNat, ih, BitVec.toNat_ofNat]
    have h := Nat.mod_mul (a := 256) (b := 256 ^ n) (x := v)
    have h8 : v % 2 ^ 8 = v % 256 := rfl
    rw [h8, Nat.pow_succ, Nat.mul_comm (256 ^ n), h]

theorem leBytes_length (n v : Nat) : (leBytes n v).length = n := by
  induction n generalizing v with
  | zero => rfl
  | succ n ih => simp [leBytes, ih]

theorem State.live_setLive (s : State) (i k : Nat) (v : Bytes) : (s.setLive i k v).live i k = v := by
  simp [State.live, State.setLive, mget_mput]

theorem State.live_setLive_ne (s : State) {i k j l : Nat} (v : Bytes) (h : dkey j l ≠ dkey i k) : (s.setLive i k v).live j l = s.live j l := by
  simp [State.live, State.setLive, mget_mput_ne v h]

theorem State.liveN_setN (s : State) (i k v : Nat) : (s.setN i k v).liveN i k = v % 256 ^ (dictDefault i k).length := by
  simp [State.liveN, State.setN, State.live_setLive, leNat_leBytes]

theorem State.liveN_setN_ne (s : State) {i k j l : Nat} (v : Nat) (h : dkey j l ≠ dkey i k) : (s.setN i k v).liveN j l = s.liveN j l := by
  simp [State.liveN, State.setN, State.live_setLive_ne s _ h]

theorem State.liveN_bump (s : State) (i k n : Nat) : (s.bump i k n).liveN i k = (s.liveN i k + n) % 256 ^ (dictDefault i k).length :=
  State.liveN_setN ..

theorem State.workOf_modWork {s : State} {tag : Nat} {w : Work} (f : Work → Work) (h : s.workOf tag = some w) :
    (s.modWork tag f).workOf tag = some (f w) := mget_mmod_self f h

theorem State.workOf_modWork_ne (s : State) {tag k : Nat} (f : Work → Work) (h : k ≠ tag) : (s.modWork tag f).workOf k = s.workOf k :=
  mget_mmod_ne _ f h

theorem State.shard_modShard {s : State} {i : Nat} {h : Shard} (f : Shard → Shard) (e : mget s.shards i = some h) :
    mget (s.modShard i f).shards i = some (f h) := mget_mmod_self f e

theorem State.tg_modTg (s : State) (g : GroupId) (f : TGroup → TGroup) : (s.modTg g f).tg g = f (s.tg g) := mgetD_mupd ..

theorem State.tg_modTg_ne (s : State) {g k : GroupId} (f : TGroup → TGroup) (h : groupKey k ≠ groupKey g) : (s.modTg g f).tg k = s.tg k :=
  mgetD_mupd_ne _ _ _ h

theorem State.queue_modQueue (s : State) (p q : Nat) (f : QSt → QSt) : (s.modQueue p q f).queue p q = f (s.queue p q) := mgetD_mupd ..

theorem State.arr_modArr (s : State) (a : Nat) (f : TArr → TArr) : (s.modArr a f).arr a = f (s.arr a) := mgetD_mupd ..

theorem State.arr_modArr_ne (s : State) {a k : Nat} (f : TArr → TArr) (h : k ≠ a) : (s.modArr a f).arr k = s.arr k := mgetD_mupd_ne _ _ _ h

theorem State.hp_modHp (s : State) (p : Nat) (f : HPort → HPort) : (s.modHp p f).hp p = f (s.hp p) := mgetD_mupd ..

theorem State.ep_modEp (s : State) (e : Nat) (f : EPort → EPort) : (s.modEp e f).ep e = f (s.ep e) := mgetD_mupd ..

theorem State.tp_modTp (s : State) (p : Nat) (f : TPort → TPort) : (s.modTp p f).tp p = f (s.tp p) := mgetD_mupd ..

theorem State.part_modPart (s : State) (p : Nat) (f : PartSt → PartSt) : (s.modPart p f).part p = f (s.part p) := mgetD_mupd ..

theorem State.qp_modQp {s : State} {k : Nat} {q : QPair} (f : QPair → QPair) (h : mget s.qps k = some q) :
    mget (s.modQp k f).qps k = some (f q) := mget_mmod_self f h

theorem State.emb_modEmb {s : State} {k : Nat} {e : EmbTab} (f : EmbTab → EmbTab) (h : mget s.embs k = some e) :
    mget (s.modEmb k f).embs k = some (f e) := mget_mmod_self f h

/-! ### Where a command finds its work -/

/-- A phase's command at its request's home plot runs there. -/
theorem State.during_home {s : State} {tag p : Nat} {f : FarCtx} {w : Work} {k : Nat → Work → State}
    (hr : s.atHome tag f w) (hp : f.phase = p) : s.during tag p k = k f.home w := by
  obtain ⟨ho, h2, hw, hl⟩ := hr
  obtain ⟨⟨c, g⟩, hf, hg⟩ := Option.map_eq_some_iff.mp ho
  subst hg
  dsimp only at h2 hp ⊢
  have hi : s.inPhase tag p = true := by simp [State.inPhase, hf, h2, hp, hl]
  simp [State.during, hi, hf, hw]

/-- A check that passes changes nothing. -/
@[simp] theorem State.check_ok (s : State) (p c l : Nat) (tags : List Nat) : s.check .ok p c l tags = (s, true) := rfl
@[simp] theorem State.checkIn_ok (s : State) (p c l i k tag : Nat) : s.checkIn .ok p c l i k tag = (s, true) := rfl

/-! ### Sending -/

/-- A part that no step of a fold changes is as before. -/
theorem foldl_same {α σ β : Type} {f : σ → α → σ} {g : σ → β} (h : ∀ s x, g (f s x) = g s) (l : List α) (s : σ) : g (l.foldl f s) = g s := by
  induction l generalizing s with
  | nil => rfl
  | cons x l ih => exact (ih (f s x)).trans (h s x)

/-- A part that neither arm of a choice changes is as before. -/
theorem ite_same {σ β : Type} {p : Prop} [Decidable p] {g : σ → β} {a b s : σ} (ha : g a = g s) (hb : g b = g s) :
    g (if p then a else b) = g s := by split <;> assumption

@[simp] theorem State.emitQp_pending (s : State) (qp : Nat) (m : OutMsg) : (s.emitQp qp m).pending = s.pending :=
  by
  unfold State.emitQp; split
  · rfl
  · split <;> rfl
@[simp] theorem State.emitQp_step (s : State) (qp : Nat) (m : OutMsg) : (s.emitQp qp m).step = s.step :=
  by
  unfold State.emitQp; split
  · rfl
  · split <;> rfl
@[simp] theorem State.emitQp_mem (s : State) (qp : Nat) (m : OutMsg) : (s.emitQp qp m).mem = s.mem :=
  by
  unfold State.emitQp; split
  · rfl
  · split <;> rfl
@[simp] theorem State.emitQp_rings (s : State) (qp : Nat) (m : OutMsg) : (s.emitQp qp m).rings = s.rings :=
  by
  unfold State.emitQp; split
  · rfl
  · split <;> rfl
@[simp] theorem State.emitQp_ledger (s : State) (qp : Nat) (m : OutMsg) : (s.emitQp qp m).ledger = s.ledger :=
  by
  unfold State.emitQp; split
  · rfl
  · split <;> rfl
@[simp] theorem State.emitQp_shards (s : State) (qp : Nat) (m : OutMsg) : (s.emitQp qp m).shards = s.shards :=
  by
  unfold State.emitQp; split
  · rfl
  · split <;> rfl
@[simp] theorem State.emitQp_log (s : State) (qp : Nat) (m : OutMsg) : (s.emitQp qp m).log = s.log :=
  by
  unfold State.emitQp; split
  · rfl
  · split <;> rfl
@[simp] theorem State.emitQp_flash (s : State) (qp : Nat) (m : OutMsg) : (s.emitQp qp m).flash = s.flash :=
  by
  unfold State.emitQp; split
  · rfl
  · split <;> rfl
@[simp] theorem State.emitQp_tier (s : State) (qp : Nat) (m : OutMsg) : (s.emitQp qp m).tier = s.tier :=
  by
  unfold State.emitQp; split
  · rfl
  · split <;> rfl
@[simp] theorem State.emitQp_codebooks (s : State) (qp : Nat) (m : OutMsg) : (s.emitQp qp m).codebooks = s.codebooks :=
  by
  unfold State.emitQp; split
  · rfl
  · split <;> rfl
@[simp] theorem State.emitQp_models (s : State) (qp : Nat) (m : OutMsg) : (s.emitQp qp m).models = s.models :=
  by
  unfold State.emitQp; split
  · rfl
  · split <;> rfl
@[simp] theorem State.emitQp_caches (s : State) (qp : Nat) (m : OutMsg) : (s.emitQp qp m).caches = s.caches :=
  by
  unfold State.emitQp; split
  · rfl
  · split <;> rfl
@[simp] theorem State.emitQp_arrays (s : State) (qp : Nat) (m : OutMsg) : (s.emitQp qp m).arrays = s.arrays :=
  by
  unfold State.emitQp; split
  · rfl
  · split <;> rfl
@[simp] theorem State.emitQp_embs (s : State) (qp : Nat) (m : OutMsg) : (s.emitQp qp m).embs = s.embs :=
  by
  unfold State.emitQp; split
  · rfl
  · split <;> rfl
@[simp] theorem State.emitQp_tills (s : State) (qp : Nat) (m : OutMsg) : (s.emitQp qp m).tills = s.tills :=
  by
  unfold State.emitQp; split
  · rfl
  · split <;> rfl
@[simp] theorem State.emitQp_queues (s : State) (qp : Nat) (m : OutMsg) : (s.emitQp qp m).queues = s.queues :=
  by
  unfold State.emitQp; split
  · rfl
  · split <;> rfl
@[simp] theorem State.emitQp_sent (s : State) (qp : Nat) (m : OutMsg) : (s.emitQp qp m).sent = s.sent :=
  by
  unfold State.emitQp; split
  · rfl
  · split <;> rfl
@[simp] theorem State.emitQp_qps (s : State) (qp : Nat) (m : OutMsg) : (s.emitQp qp m).qps = s.qps :=
  by
  unfold State.emitQp; split
  · rfl
  · split <;> rfl
@[simp] theorem State.emitQp_hedge (s : State) (qp : Nat) (m : OutMsg) : (s.emitQp qp m).hedge = s.hedge :=
  by
  unfold State.emitQp; split
  · rfl
  · split <;> rfl
@[simp] theorem State.emitQp_traf (s : State) (qp : Nat) (m : OutMsg) : (s.emitQp qp m).traf = s.traf :=
  by
  unfold State.emitQp; split
  · rfl
  · split <;> rfl
@[simp] theorem State.emitQp_sec (s : State) (qp : Nat) (m : OutMsg) : (s.emitQp qp m).sec = s.sec :=
  by
  unfold State.emitQp; split
  · rfl
  · split <;> rfl
@[simp] theorem State.emitQp_parts (s : State) (qp : Nat) (m : OutMsg) : (s.emitQp qp m).parts = s.parts :=
  by
  unfold State.emitQp; split
  · rfl
  · split <;> rfl
@[simp] theorem State.emitQp_pwr (s : State) (qp : Nat) (m : OutMsg) : (s.emitQp qp m).pwr = s.pwr :=
  by
  unfold State.emitQp; split
  · rfl
  · split <;> rfl
@[simp] theorem State.emitQp_resp (s : State) (qp : Nat) (m : OutMsg) : (s.emitQp qp m).resp = s.resp :=
  by
  unfold State.emitQp; split
  · rfl
  · split <;> rfl
@[simp] theorem State.emitQp_freeCtr (s : State) (qp : Nat) (m : OutMsg) : (s.emitQp qp m).freeCtr = s.freeCtr :=
  by
  unfold State.emitQp; split
  · rfl
  · split <;> rfl
@[simp] theorem State.emitQp_ev (s : State) (qp : Nat) (m : OutMsg) : (s.emitQp qp m).ev = s.ev :=
  by
  unfold State.emitQp; split
  · rfl
  · split <;> rfl
@[simp] theorem State.emitQp_dict (s : State) (qp : Nat) (m : OutMsg) : (s.emitQp qp m).dict = s.dict :=
  by
  unfold State.emitQp; split
  · rfl
  · split <;> rfl
@[simp] theorem State.emitQp_node (s : State) (qp : Nat) (m : OutMsg) : (s.emitQp qp m).node = s.node :=
  by
  unfold State.emitQp; split
  · rfl
  · split <;> rfl
@[simp] theorem State.sendHedge_pending (s : State) (p t g i : Nat) (b : Bytes) : (s.sendHedge p t g i b).pending = s.pending :=
  ite_same (g := State.pending) (foldl_same (g := State.pending) (fun _ _ => State.emit_pending ..) _ _) rfl
@[simp] theorem State.sendHedge_step (s : State) (p t g i : Nat) (b : Bytes) : (s.sendHedge p t g i b).step = s.step :=
  ite_same (g := State.step) (foldl_same (g := State.step) (fun _ _ => State.emit_step ..) _ _) rfl
@[simp] theorem State.sendHedge_mem (s : State) (p t g i : Nat) (b : Bytes) : (s.sendHedge p t g i b).mem = s.mem :=
  ite_same (g := State.mem) (foldl_same (g := State.mem) (fun _ _ => State.emit_mem ..) _ _) rfl
@[simp] theorem State.sendHedge_rings (s : State) (p t g i : Nat) (b : Bytes) : (s.sendHedge p t g i b).rings = s.rings :=
  ite_same (g := State.rings) (foldl_same (g := State.rings) (fun _ _ => State.emit_rings ..) _ _) rfl
@[simp] theorem State.sendHedge_ledger (s : State) (p t g i : Nat) (b : Bytes) : (s.sendHedge p t g i b).ledger = s.ledger :=
  ite_same (g := State.ledger) (foldl_same (g := State.ledger) (fun _ _ => State.emit_ledger ..) _ _) rfl
@[simp] theorem State.sendHedge_shards (s : State) (p t g i : Nat) (b : Bytes) : (s.sendHedge p t g i b).shards = s.shards :=
  ite_same (g := State.shards) (foldl_same (g := State.shards) (fun _ _ => State.emit_shards ..) _ _) rfl
@[simp] theorem State.sendHedge_log (s : State) (p t g i : Nat) (b : Bytes) : (s.sendHedge p t g i b).log = s.log :=
  ite_same (g := State.log) (foldl_same (g := State.log) (fun _ _ => State.emit_log ..) _ _) rfl
@[simp] theorem State.sendHedge_flash (s : State) (p t g i : Nat) (b : Bytes) : (s.sendHedge p t g i b).flash = s.flash :=
  ite_same (g := State.flash) (foldl_same (g := State.flash) (fun _ _ => State.emit_flash ..) _ _) rfl
@[simp] theorem State.sendHedge_tier (s : State) (p t g i : Nat) (b : Bytes) : (s.sendHedge p t g i b).tier = s.tier :=
  ite_same (g := State.tier) (foldl_same (g := State.tier) (fun _ _ => State.emit_tier ..) _ _) rfl
@[simp] theorem State.sendHedge_codebooks (s : State) (p t g i : Nat) (b : Bytes) : (s.sendHedge p t g i b).codebooks = s.codebooks :=
  ite_same (g := State.codebooks) (foldl_same (g := State.codebooks) (fun _ _ => State.emit_codebooks ..) _ _) rfl
@[simp] theorem State.sendHedge_models (s : State) (p t g i : Nat) (b : Bytes) : (s.sendHedge p t g i b).models = s.models :=
  ite_same (g := State.models) (foldl_same (g := State.models) (fun _ _ => State.emit_models ..) _ _) rfl
@[simp] theorem State.sendHedge_caches (s : State) (p t g i : Nat) (b : Bytes) : (s.sendHedge p t g i b).caches = s.caches :=
  ite_same (g := State.caches) (foldl_same (g := State.caches) (fun _ _ => State.emit_caches ..) _ _) rfl
@[simp] theorem State.sendHedge_arrays (s : State) (p t g i : Nat) (b : Bytes) : (s.sendHedge p t g i b).arrays = s.arrays :=
  ite_same (g := State.arrays) (foldl_same (g := State.arrays) (fun _ _ => State.emit_arrays ..) _ _) rfl
@[simp] theorem State.sendHedge_embs (s : State) (p t g i : Nat) (b : Bytes) : (s.sendHedge p t g i b).embs = s.embs :=
  ite_same (g := State.embs) (foldl_same (g := State.embs) (fun _ _ => State.emit_embs ..) _ _) rfl
@[simp] theorem State.sendHedge_tills (s : State) (p t g i : Nat) (b : Bytes) : (s.sendHedge p t g i b).tills = s.tills :=
  ite_same (g := State.tills) (foldl_same (g := State.tills) (fun _ _ => State.emit_tills ..) _ _) rfl
@[simp] theorem State.sendHedge_queues (s : State) (p t g i : Nat) (b : Bytes) : (s.sendHedge p t g i b).queues = s.queues :=
  ite_same (g := State.queues) (foldl_same (g := State.queues) (fun _ _ => State.emit_queues ..) _ _) rfl
@[simp] theorem State.sendHedge_sent (s : State) (p t g i : Nat) (b : Bytes) : (s.sendHedge p t g i b).sent = s.sent :=
  ite_same (g := State.sent) (foldl_same (g := State.sent) (fun _ _ => State.emit_sent ..) _ _) rfl
@[simp] theorem State.sendHedge_qps (s : State) (p t g i : Nat) (b : Bytes) : (s.sendHedge p t g i b).qps = s.qps :=
  ite_same (g := State.qps) (foldl_same (g := State.qps) (fun _ _ => State.emit_qps ..) _ _) rfl
@[simp] theorem State.sendHedge_hedge (s : State) (p t g i : Nat) (b : Bytes) : (s.sendHedge p t g i b).hedge = s.hedge :=
  ite_same (g := State.hedge) (foldl_same (g := State.hedge) (fun _ _ => State.emit_hedge ..) _ _) rfl
@[simp] theorem State.sendHedge_eth (s : State) (p t g i : Nat) (b : Bytes) : (s.sendHedge p t g i b).eth = s.eth :=
  ite_same (g := State.eth) (foldl_same (g := State.eth) (fun _ _ => State.emit_eth ..) _ _) rfl
@[simp] theorem State.sendHedge_traf (s : State) (p t g i : Nat) (b : Bytes) : (s.sendHedge p t g i b).traf = s.traf :=
  ite_same (g := State.traf) (foldl_same (g := State.traf) (fun _ _ => State.emit_traf ..) _ _) rfl
@[simp] theorem State.sendHedge_sec (s : State) (p t g i : Nat) (b : Bytes) : (s.sendHedge p t g i b).sec = s.sec :=
  ite_same (g := State.sec) (foldl_same (g := State.sec) (fun _ _ => State.emit_sec ..) _ _) rfl
@[simp] theorem State.sendHedge_parts (s : State) (p t g i : Nat) (b : Bytes) : (s.sendHedge p t g i b).parts = s.parts :=
  ite_same (g := State.parts) (foldl_same (g := State.parts) (fun _ _ => State.emit_parts ..) _ _) rfl
@[simp] theorem State.sendHedge_pwr (s : State) (p t g i : Nat) (b : Bytes) : (s.sendHedge p t g i b).pwr = s.pwr :=
  ite_same (g := State.pwr) (foldl_same (g := State.pwr) (fun _ _ => State.emit_pwr ..) _ _) rfl
@[simp] theorem State.sendHedge_resp (s : State) (p t g i : Nat) (b : Bytes) : (s.sendHedge p t g i b).resp = s.resp :=
  ite_same (g := State.resp) (foldl_same (g := State.resp) (fun _ _ => State.emit_resp ..) _ _) rfl
@[simp] theorem State.sendHedge_freeCtr (s : State) (p t g i : Nat) (b : Bytes) : (s.sendHedge p t g i b).freeCtr = s.freeCtr :=
  ite_same (g := State.freeCtr) (foldl_same (g := State.freeCtr) (fun _ _ => State.emit_freeCtr ..) _ _) rfl
@[simp] theorem State.sendHedge_ev (s : State) (p t g i : Nat) (b : Bytes) : (s.sendHedge p t g i b).ev = s.ev :=
  ite_same (g := State.ev) (foldl_same (g := State.ev) (fun _ _ => State.emit_ev ..) _ _) rfl
@[simp] theorem State.sendHedge_dict (s : State) (p t g i : Nat) (b : Bytes) : (s.sendHedge p t g i b).dict = s.dict :=
  ite_same (g := State.dict) (foldl_same (g := State.dict) (fun _ _ => State.emit_dict ..) _ _) rfl
@[simp] theorem State.sendHedge_node (s : State) (p t g i : Nat) (b : Bytes) : (s.sendHedge p t g i b).node = s.node :=
  ite_same (g := State.node) (foldl_same (g := State.node) (fun _ _ => State.emit_node ..) _ _) rfl
@[simp] theorem State.sendPeer_pending (s : State) (p e t g i : Nat) (b : Bytes) : (s.sendPeer p e t g i b).pending = s.pending :=
  ite_same (g := State.pending) (State.raise_pending ..) (State.sendHedge_pending ..)
@[simp] theorem State.sendPeer_step (s : State) (p e t g i : Nat) (b : Bytes) : (s.sendPeer p e t g i b).step = s.step :=
  ite_same (g := State.step) (State.raise_step ..) (State.sendHedge_step ..)
@[simp] theorem State.sendPeer_mem (s : State) (p e t g i : Nat) (b : Bytes) : (s.sendPeer p e t g i b).mem = s.mem :=
  ite_same (g := State.mem) (State.raise_mem ..) (State.sendHedge_mem ..)
@[simp] theorem State.sendPeer_rings (s : State) (p e t g i : Nat) (b : Bytes) : (s.sendPeer p e t g i b).rings = s.rings :=
  ite_same (g := State.rings) (State.raise_rings ..) (State.sendHedge_rings ..)
@[simp] theorem State.sendPeer_ledger (s : State) (p e t g i : Nat) (b : Bytes) : (s.sendPeer p e t g i b).ledger = s.ledger :=
  ite_same (g := State.ledger) (State.raise_ledger ..) (State.sendHedge_ledger ..)
@[simp] theorem State.sendPeer_shards (s : State) (p e t g i : Nat) (b : Bytes) : (s.sendPeer p e t g i b).shards = s.shards :=
  ite_same (g := State.shards) (State.raise_shards ..) (State.sendHedge_shards ..)
@[simp] theorem State.sendPeer_log (s : State) (p e t g i : Nat) (b : Bytes) : (s.sendPeer p e t g i b).log = s.log :=
  ite_same (g := State.log) (State.raise_log ..) (State.sendHedge_log ..)
@[simp] theorem State.sendPeer_flash (s : State) (p e t g i : Nat) (b : Bytes) : (s.sendPeer p e t g i b).flash = s.flash :=
  ite_same (g := State.flash) (State.raise_flash ..) (State.sendHedge_flash ..)
@[simp] theorem State.sendPeer_tier (s : State) (p e t g i : Nat) (b : Bytes) : (s.sendPeer p e t g i b).tier = s.tier :=
  ite_same (g := State.tier) (State.raise_tier ..) (State.sendHedge_tier ..)
@[simp] theorem State.sendPeer_codebooks (s : State) (p e t g i : Nat) (b : Bytes) : (s.sendPeer p e t g i b).codebooks = s.codebooks :=
  ite_same (g := State.codebooks) (State.raise_codebooks ..) (State.sendHedge_codebooks ..)
@[simp] theorem State.sendPeer_models (s : State) (p e t g i : Nat) (b : Bytes) : (s.sendPeer p e t g i b).models = s.models :=
  ite_same (g := State.models) (State.raise_models ..) (State.sendHedge_models ..)
@[simp] theorem State.sendPeer_caches (s : State) (p e t g i : Nat) (b : Bytes) : (s.sendPeer p e t g i b).caches = s.caches :=
  ite_same (g := State.caches) (State.raise_caches ..) (State.sendHedge_caches ..)
@[simp] theorem State.sendPeer_arrays (s : State) (p e t g i : Nat) (b : Bytes) : (s.sendPeer p e t g i b).arrays = s.arrays :=
  ite_same (g := State.arrays) (State.raise_arrays ..) (State.sendHedge_arrays ..)
@[simp] theorem State.sendPeer_embs (s : State) (p e t g i : Nat) (b : Bytes) : (s.sendPeer p e t g i b).embs = s.embs :=
  ite_same (g := State.embs) (State.raise_embs ..) (State.sendHedge_embs ..)
@[simp] theorem State.sendPeer_tills (s : State) (p e t g i : Nat) (b : Bytes) : (s.sendPeer p e t g i b).tills = s.tills :=
  ite_same (g := State.tills) (State.raise_tills ..) (State.sendHedge_tills ..)
@[simp] theorem State.sendPeer_queues (s : State) (p e t g i : Nat) (b : Bytes) : (s.sendPeer p e t g i b).queues = s.queues :=
  ite_same (g := State.queues) (State.raise_queues ..) (State.sendHedge_queues ..)
@[simp] theorem State.sendPeer_sent (s : State) (p e t g i : Nat) (b : Bytes) : (s.sendPeer p e t g i b).sent = s.sent :=
  ite_same (g := State.sent) (State.raise_sent ..) (State.sendHedge_sent ..)
@[simp] theorem State.sendPeer_qps (s : State) (p e t g i : Nat) (b : Bytes) : (s.sendPeer p e t g i b).qps = s.qps :=
  ite_same (g := State.qps) (State.raise_qps ..) (State.sendHedge_qps ..)
@[simp] theorem State.sendPeer_hedge (s : State) (p e t g i : Nat) (b : Bytes) : (s.sendPeer p e t g i b).hedge = s.hedge :=
  ite_same (g := State.hedge) (State.raise_hedge ..) (State.sendHedge_hedge ..)
@[simp] theorem State.sendPeer_eth (s : State) (p e t g i : Nat) (b : Bytes) : (s.sendPeer p e t g i b).eth = s.eth :=
  ite_same (g := State.eth) (State.raise_eth ..) (State.sendHedge_eth ..)
@[simp] theorem State.sendPeer_traf (s : State) (p e t g i : Nat) (b : Bytes) : (s.sendPeer p e t g i b).traf = s.traf :=
  ite_same (g := State.traf) (State.raise_traf ..) (State.sendHedge_traf ..)
@[simp] theorem State.sendPeer_sec (s : State) (p e t g i : Nat) (b : Bytes) : (s.sendPeer p e t g i b).sec = s.sec :=
  ite_same (g := State.sec) (State.raise_sec ..) (State.sendHedge_sec ..)
@[simp] theorem State.sendPeer_parts (s : State) (p e t g i : Nat) (b : Bytes) : (s.sendPeer p e t g i b).parts = s.parts :=
  ite_same (g := State.parts) (State.raise_parts ..) (State.sendHedge_parts ..)
@[simp] theorem State.sendPeer_pwr (s : State) (p e t g i : Nat) (b : Bytes) : (s.sendPeer p e t g i b).pwr = s.pwr :=
  ite_same (g := State.pwr) (State.raise_pwr ..) (State.sendHedge_pwr ..)
@[simp] theorem State.sendPeer_resp (s : State) (p e t g i : Nat) (b : Bytes) : (s.sendPeer p e t g i b).resp = s.resp :=
  ite_same (g := State.resp) (State.raise_resp ..) (State.sendHedge_resp ..)
@[simp] theorem State.sendPeer_freeCtr (s : State) (p e t g i : Nat) (b : Bytes) : (s.sendPeer p e t g i b).freeCtr = s.freeCtr :=
  ite_same (g := State.freeCtr) (State.raise_freeCtr ..) (State.sendHedge_freeCtr ..)
@[simp] theorem State.sendSubs_pending (s : State) (c g : Nat) (b : Bool) (r : SearchReq) : (s.sendSubs c g b r).pending = s.pending :=
  foldl_same (g := State.pending) (fun _ _ => State.sendPeer_pending ..) _ _
@[simp] theorem State.sendSubs_step (s : State) (c g : Nat) (b : Bool) (r : SearchReq) : (s.sendSubs c g b r).step = s.step :=
  foldl_same (g := State.step) (fun _ _ => State.sendPeer_step ..) _ _
@[simp] theorem State.sendSubs_mem (s : State) (c g : Nat) (b : Bool) (r : SearchReq) : (s.sendSubs c g b r).mem = s.mem :=
  foldl_same (g := State.mem) (fun _ _ => State.sendPeer_mem ..) _ _
@[simp] theorem State.sendSubs_rings (s : State) (c g : Nat) (b : Bool) (r : SearchReq) : (s.sendSubs c g b r).rings = s.rings :=
  foldl_same (g := State.rings) (fun _ _ => State.sendPeer_rings ..) _ _
@[simp] theorem State.sendSubs_ledger (s : State) (c g : Nat) (b : Bool) (r : SearchReq) : (s.sendSubs c g b r).ledger = s.ledger :=
  foldl_same (g := State.ledger) (fun _ _ => State.sendPeer_ledger ..) _ _
@[simp] theorem State.sendSubs_shards (s : State) (c g : Nat) (b : Bool) (r : SearchReq) : (s.sendSubs c g b r).shards = s.shards :=
  foldl_same (g := State.shards) (fun _ _ => State.sendPeer_shards ..) _ _
@[simp] theorem State.sendSubs_log (s : State) (c g : Nat) (b : Bool) (r : SearchReq) : (s.sendSubs c g b r).log = s.log :=
  foldl_same (g := State.log) (fun _ _ => State.sendPeer_log ..) _ _
@[simp] theorem State.sendSubs_flash (s : State) (c g : Nat) (b : Bool) (r : SearchReq) : (s.sendSubs c g b r).flash = s.flash :=
  foldl_same (g := State.flash) (fun _ _ => State.sendPeer_flash ..) _ _
@[simp] theorem State.sendSubs_tier (s : State) (c g : Nat) (b : Bool) (r : SearchReq) : (s.sendSubs c g b r).tier = s.tier :=
  foldl_same (g := State.tier) (fun _ _ => State.sendPeer_tier ..) _ _
@[simp] theorem State.sendSubs_codebooks (s : State) (c g : Nat) (b : Bool) (r : SearchReq) : (s.sendSubs c g b r).codebooks = s.codebooks :=
  foldl_same (g := State.codebooks) (fun _ _ => State.sendPeer_codebooks ..) _ _
@[simp] theorem State.sendSubs_models (s : State) (c g : Nat) (b : Bool) (r : SearchReq) : (s.sendSubs c g b r).models = s.models :=
  foldl_same (g := State.models) (fun _ _ => State.sendPeer_models ..) _ _
@[simp] theorem State.sendSubs_caches (s : State) (c g : Nat) (b : Bool) (r : SearchReq) : (s.sendSubs c g b r).caches = s.caches :=
  foldl_same (g := State.caches) (fun _ _ => State.sendPeer_caches ..) _ _
@[simp] theorem State.sendSubs_arrays (s : State) (c g : Nat) (b : Bool) (r : SearchReq) : (s.sendSubs c g b r).arrays = s.arrays :=
  foldl_same (g := State.arrays) (fun _ _ => State.sendPeer_arrays ..) _ _
@[simp] theorem State.sendSubs_embs (s : State) (c g : Nat) (b : Bool) (r : SearchReq) : (s.sendSubs c g b r).embs = s.embs :=
  foldl_same (g := State.embs) (fun _ _ => State.sendPeer_embs ..) _ _
@[simp] theorem State.sendSubs_tills (s : State) (c g : Nat) (b : Bool) (r : SearchReq) : (s.sendSubs c g b r).tills = s.tills :=
  foldl_same (g := State.tills) (fun _ _ => State.sendPeer_tills ..) _ _
@[simp] theorem State.sendSubs_queues (s : State) (c g : Nat) (b : Bool) (r : SearchReq) : (s.sendSubs c g b r).queues = s.queues :=
  foldl_same (g := State.queues) (fun _ _ => State.sendPeer_queues ..) _ _
@[simp] theorem State.sendSubs_sent (s : State) (c g : Nat) (b : Bool) (r : SearchReq) : (s.sendSubs c g b r).sent = s.sent :=
  foldl_same (g := State.sent) (fun _ _ => State.sendPeer_sent ..) _ _
@[simp] theorem State.sendSubs_qps (s : State) (c g : Nat) (b : Bool) (r : SearchReq) : (s.sendSubs c g b r).qps = s.qps :=
  foldl_same (g := State.qps) (fun _ _ => State.sendPeer_qps ..) _ _
@[simp] theorem State.sendSubs_hedge (s : State) (c g : Nat) (b : Bool) (r : SearchReq) : (s.sendSubs c g b r).hedge = s.hedge :=
  foldl_same (g := State.hedge) (fun _ _ => State.sendPeer_hedge ..) _ _
@[simp] theorem State.sendSubs_eth (s : State) (c g : Nat) (b : Bool) (r : SearchReq) : (s.sendSubs c g b r).eth = s.eth :=
  foldl_same (g := State.eth) (fun _ _ => State.sendPeer_eth ..) _ _
@[simp] theorem State.sendSubs_traf (s : State) (c g : Nat) (b : Bool) (r : SearchReq) : (s.sendSubs c g b r).traf = s.traf :=
  foldl_same (g := State.traf) (fun _ _ => State.sendPeer_traf ..) _ _
@[simp] theorem State.sendSubs_sec (s : State) (c g : Nat) (b : Bool) (r : SearchReq) : (s.sendSubs c g b r).sec = s.sec :=
  foldl_same (g := State.sec) (fun _ _ => State.sendPeer_sec ..) _ _
@[simp] theorem State.sendSubs_parts (s : State) (c g : Nat) (b : Bool) (r : SearchReq) : (s.sendSubs c g b r).parts = s.parts :=
  foldl_same (g := State.parts) (fun _ _ => State.sendPeer_parts ..) _ _
@[simp] theorem State.sendSubs_pwr (s : State) (c g : Nat) (b : Bool) (r : SearchReq) : (s.sendSubs c g b r).pwr = s.pwr :=
  foldl_same (g := State.pwr) (fun _ _ => State.sendPeer_pwr ..) _ _
@[simp] theorem State.sendSubs_resp (s : State) (c g : Nat) (b : Bool) (r : SearchReq) : (s.sendSubs c g b r).resp = s.resp :=
  foldl_same (g := State.resp) (fun _ _ => State.sendPeer_resp ..) _ _
@[simp] theorem State.sendSubs_freeCtr (s : State) (c g : Nat) (b : Bool) (r : SearchReq) : (s.sendSubs c g b r).freeCtr = s.freeCtr :=
  foldl_same (g := State.freeCtr) (fun _ _ => State.sendPeer_freeCtr ..) _ _

end Sys2Proof.Machine
end

