-- ==== Sys2Proof/Laws/Shared.lean ====
section
/-! SUPPORT. What the operations do that many meanings share: one lemma each, which proofs cite instead of unfolding the
operation. -/

namespace Sys2Proof.Machine
set_option Elab.async false

/-! ### Tilling engines -/

/-- The record at the head of a running engine's FIFO is carried out, and ends. -/
theorem runTill_at_head {s : State} {g : GroupId} {op : Nat} {r : Bytes} (eff : State → Bytes → State × Nat) (h : s.atTill g op r) :
    s.runTill g op eff = ((eff (s.resumeTill g) r).1).endTill g r (eff (s.resumeTill g) r).2 := by
  obtain ⟨h1, h2, h3, h4, h5⟩ := h
  unfold State.runTill
  cases hf : ((s.resumeTill g).tg g).fifo with
  | nil => simp [hf] at h3
  | cons x rest =>
    simp [hf] at h3; subst h3
    simp [h1, h2, h4, h5, hf]

theorem tg_bump (s : State) (g : GroupId) (i k n : Nat) : (s.bump i k n).tg g = s.tg g := rfl

/-- A record that ends leaves the FIFO, is counted, and its result code stands. -/
theorem endTill_ends {s u : State} {g : GroupId} (r : Bytes) (n : Nat) (h1 : (u.tg g).fifo = (s.tg g).fifo)
    (h2 : (u.tg g).done = (s.tg g).done) : s.tillEnds (u.endTill g r n) g r n := by
  unfold State.tillEnds State.endTill
  dsimp only
  split <;> simp [State.tg_modTg, tg_bump, h1, h2]

/-- The end of a record leaves the group's data registers and memory. -/
theorem endTill_keeps (u : State) (g : GroupId) (r : Bytes) (n : Nat) :
    ((u.endTill g r n).tg g).rowOut = (u.tg g).rowOut ∧ ((u.endTill g r n).tg g).yOut = (u.tg g).yOut ∧
      ((u.endTill g r n).tg g).sumY = (u.tg g).sumY ∧ (u.endTill g r n).tier.tm = u.tier.tm ∧
      (u.endTill g r n).mem = u.mem := by
  unfold State.endTill
  dsimp only
  split <;> simp [State.tg_modTg, tg_bump]

/-- A suspended group that resumes keeps its FIFO, its data registers and memory. -/
theorem resumeTill_keeps (s : State) (g : GroupId) :
    ((s.resumeTill g).tg g).fifo = (s.tg g).fifo ∧ ((s.resumeTill g).tg g).done = (s.tg g).done ∧
      ((s.resumeTill g).tg g).xIn = (s.tg g).xIn ∧ ((s.resumeTill g).tg g).yOut = (s.tg g).yOut ∧
      ((s.resumeTill g).tg g).sumY = (s.tg g).sumY ∧ (s.resumeTill g).mem = s.mem := by
  unfold State.resumeTill; split <;> simp [State.tg_modTg]

/-- A state mark touches neither the FIFO nor the row buffer. -/
theorem setMark_keeps (u : State) (g : GroupId) (b r m : Nat) :
    ((u.setMark g b r m).tg g).fifo = (u.tg g).fifo ∧ ((u.setMark g b r m).tg g).done = (u.tg g).done ∧
      ((u.setMark g b r m).tg g).rowOut = (u.tg g).rowOut := by
  unfold State.setMark; split <;> simp [State.tg_modTg]

/-! ### FDP frames -/

/-- A frame that the Hand takes runs its service on the state that noted the frame. -/
theorem fdp_takes {s : State} {svc : Nat} {f : FdpFrame} (run : State → State) (h : s.takesFrame svc f) :
    s.fdp svc f run = run (s.tookFrame f) := by
  obtain ⟨h1, h2, h3, h4, h5, h6⟩ := h
  have hr : (s.pwr.boot == Boot.romHalt) = false := by
    unfold State.handServes at h1
    cases hb : s.pwr.boot <;> simp_all
  unfold State.fdp State.tookFrame
  simp only [hr, h1, h2, h3, h4, h5, h6]
  simp

/-- Noting a frame touches no transfer, answer, staging set, commit or value. -/
theorem tookFrame_keeps (s : State) (f : FdpFrame) :
    (s.tookFrame f).dict.xfers = s.dict.xfers ∧ (s.tookFrame f).dict.resp = s.dict.resp ∧ (s.tookFrame f).dict.sets = s.dict.sets ∧
      (s.tookFrame f).dict.commits = s.dict.commits ∧ (s.tookFrame f).dict.committed = s.dict.committed ∧
      (s.tookFrame f).step = s.step ∧ (s.tookFrame f).dict.expired = s.dict.expired := by
  unfold State.tookFrame; dsimp only; split <;> simp

/-! ### Generations -/

/-- A command of a generation in its phase runs on its home plot, work and generation. -/
theorem genPhase_home {s : State} {tag p : Nat} {f : FarCtx} {w : Work} {g : GenWork} (k : Nat → Work → GenWork → State)
    (hr : s.atHome tag f w) (hg : w.gen = some g) (hp : f.phase = p) : s.genPhase tag p k = k f.home w g := by
  unfold State.genPhase; rw [State.during_home hr hp, hg]

theorem genCheck_ok (s : State) (tag home : Nat) (g : GenWork) : s.genCheck tag home g .ok = (s, true) := by simp [State.genCheck, Chk.ue]

/-! ### The agenda -/

/-- A command that meets the first due item of the agenda runs that item. -/
theorem command_runs_first {s : State} {rest : List BItem} {i : BItem} (p : State → BItem → Bool) (hf : s.firstDue i rest)
    (hp : p s i = true) : s.command p = s.runFirst rest (fun u => u.runItem i) := by
  obtain ⟨ha, hd⟩ := hf
  unfold State.command State.agendaFuel
  rw [ha]
  simp only [List.length_cons]
  have : ∀ n m k, rest.length + 1 + n + m + k = (rest.length + n + m + k) + 1 := by omega
  rw [this, State.runTo, ha]
  simp only [hp, hd, Bool.and_true, if_true]
  rw [State.popItem, ha]
  rfl

end Sys2Proof.Machine
end

