-- ==== Sys2Proof/Tests/Slice0.lean ====
section
/-! SUPPORT. Tests of the model: a witness for each statement's hypotheses, an ill-formed term for each check of WellFormed, the
worked cases of the spec, and single steps. -/

open Sys2Proof Sys2Proof.Machine
namespace Sys2Proof.Tests
set_option Elab.async false
theorem length_padTo (n : Nat) (b : Bytes) : (padTo n b).length = n := by simp [padTo, zeros]; omega
theorem drop_pages (ds : List Bytes) : ∀ k, (ds.flatMap (padTo 16384)).drop (16384 * k) = (ds.drop k).flatMap (padTo 16384) := by
  induction ds with
  | nil => simp
  | cons d ds ih =>
    intro k
    cases k with
    | zero => simp
    | succ k =>
      rw [List.flatMap_cons, Nat.mul_succ, Nat.add_comm, ← List.drop_drop]
      rw [show List.drop 16384 (padTo 16384 d ++ List.flatMap (padTo 16384) ds) = List.flatMap (padTo 16384) ds from by
        rw [List.drop_append_of_le_length (by rw [length_padTo]), List.drop_eq_nil_of_le (by rw [length_padTo])]; rfl]
      rw [ih]; rfl
theorem sl_page (ds : List Bytes) (k o n : Nat) (d : Bytes) (rest : List Bytes) (h : ds.drop k = d :: rest) (ho : o + n ≤ 16384) :
    sl (ds.flatMap (padTo 16384)) (16384 * k + o) n = sl (padTo 16384 d) o n := by
  unfold sl
  rw [← List.drop_drop, drop_pages, h, List.flatMap_cons, List.drop_append_of_le_length (by rw [length_padTo]; omega),
    List.take_append_of_le_length (by rw [List.length_drop, length_padTo]; omega)]
theorem sl_head (n : Nat) (d : Bytes) (h : d.length ≤ n) : sl (padTo n d) 0 d.length = d := by
  unfold sl padTo
  rw [List.take_of_length_le h]; simp
theorem sl_tail (n : Nat) (d : Bytes) (h : d.length ≤ n) : allZero (sl (padTo n d) d.length (n - d.length)) = true := by
  unfold sl padTo zeros
  rw [List.take_of_length_le h]
  simp [allZero]

/-- The header page of a segment of one vector, and the nine sections that follow it, each on a page. -/
def segHead (seg shard : Nat) : Bytes :=
  let dir := fun (t p n : Nat) => leBytes 2 t ++ zeros 2 ++ leBytes 4 p ++ leBytes 8 n
  ascii "OSEG" ++ leBytes 2 1 ++ [0, 4] ++ leBytes 2 seg ++ [16, 0] ++ leBytes 2 16 ++ zeros 2 ++ leBytes 4 shard ++ leBytes 4 1 ++
    leBytes 4 1 ++ leBytes 4 1 ++ leBytes 8 1 ++ leBytes 8 1 ++ featureLevel ++ leBytes 4 10 ++ leBytes 4 9 ++ [8, 1, 0, 0] ++
    zeros 4 ++ leBytes 32 55328199205323805590398536093103072838680986575351955544001260979506078634291 ++ zeros 144 ++ dir 1 1 8 ++ dir 2 2 512 ++ dir 3 3 512 ++ dir 4 4 4 ++ dir 5 5 73 ++ dir 6 6 8 ++
    dir 7 7 65 ++ dir 8 8 32 ++ dir 11 9 64
def segBody : List Bytes := [leBytes 8 9, zeros 512, zeros 512, zeros 4, leBytes 8 8 ++ [1] ++ zeros 64, zeros 8, [1] ++ zeros 64, zeros 32,
  leBytes 4 1 ++ leBytes 4 16 ++ List.replicate 16 1 ++ zeros 40]
@[irreducible] def segImage (seg shard : Nat) : Bytes := (segHead seg shard :: segBody).flatMap (padTo 16384)

theorem segDir_image : segDir (segImage 3 7) =
    [(1, 1, 8), (2, 2, 512), (3, 3, 512), (4, 4, 4), (5, 5, 73), (6, 6, 8), (7, 7, 65), (8, 8, 32), (11, 9, 64)] := by decide +kernel
theorem segSec_image (t k n : Nat) (d : Bytes) (rest : List Bytes)
    (h : ([(1, 1, 8), (2, 2, 512), (3, 3, 512), (4, 4, 4), (5, 5, 73), (6, 6, 8), (7, 7, 65), (8, 8, 32), (11, 9, 64)] : List (Nat × Nat × Nat)).find?
      (fun e => e.1 == t) = some (t, k, n)) (hd : (segHead 3 7 :: segBody).drop k = d :: rest) (hn : d.length = n) (hl : n ≤ 16384) :
    segSec (segImage 3 7) t = d := by
  unfold segSec
  rw [segDir_image, h, segImage]
  have := sl_page _ k 0 n d rest hd (by omega)
  rw [Nat.add_zero] at this
  exact (this.trans (by rw [← hn]; exact sl_head _ _ (by omega)))
theorem length_pages (ds : List Bytes) : (ds.flatMap (padTo 16384)).length = 16384 * ds.length := by
  induction ds with
  | nil => rfl
  | cons d ds ih => rw [List.flatMap_cons, List.length_append, length_padTo, ih, List.length_cons]; omega
theorem tail_page (k n : Nat) (d : Bytes) (rest : List Bytes) (hd : (segHead 3 7 :: segBody).drop k = d :: rest) (hn : d.length = n)
    (hl : n ≤ 16384) (h1 : 0 < n) : allZero (sl (segImage 3 7) (16384 * k + n) (16384 * ceilDiv n 16384 - n)) = true := by
  have hc : ceilDiv n 16384 = 1 := by unfold ceilDiv; omega
  rw [hc, Nat.mul_one, segImage]
  have := sl_page _ k n (16384 - n) d rest hd (by omega)
  exact (congrArg allZero this).trans (by rw [← hn]; exact sl_tail _ _ (by omega))
theorem segHeaderOk_image : segHeaderOk (segImage 3 7) = true := by decide +kernel
theorem segLayoutOk_image : segLayoutOk (segImage 3 7) = true := by
  have h0 : (segImage 3 7).length = 163840 := by rw [segImage, length_pages]; rfl
  have h1 : segPages (segImage 3 7) = 10 := by decide +kernel
  have h2 : segWanted (segImage 3 7) = [1, 2, 3, 4, 5, 6, 7, 8, 11] := by decide +kernel
  unfold segLayoutOk
  rw [segDir_image, h0, h1, h2]
  simp only [List.all_cons, List.all_nil]
  rw [tail_page 1 8 _ _ rfl (by decide +kernel) (by omega) (by omega), tail_page 2 512 _ _ rfl (by decide +kernel) (by omega) (by omega),
    tail_page 3 512 _ _ rfl (by decide +kernel) (by omega) (by omega), tail_page 4 4 _ _ rfl (by decide +kernel) (by omega) (by omega),
    tail_page 5 73 _ _ rfl (by decide +kernel) (by omega) (by omega), tail_page 6 8 _ _ rfl (by decide +kernel) (by omega) (by omega),
    tail_page 7 65 _ _ rfl (by decide +kernel) (by omega) (by omega), tail_page 8 32 _ _ rfl (by decide +kernel) (by omega) (by omega),
    tail_page 9 64 _ _ rfl (by decide +kernel) (by omega) (by omega)]
  rfl
theorem segSectionsOk_image : segSectionsOk (segImage 3 7) = true := by
  unfold segSectionsOk hubOffset
  rw [segSec_image 1 1 8 _ _ rfl rfl (by decide +kernel) (by omega), segSec_image 2 2 512 _ _ rfl rfl (by decide +kernel) (by omega),
    segSec_image 3 3 512 _ _ rfl rfl (by decide +kernel) (by omega), segSec_image 4 4 4 _ _ rfl rfl (by decide +kernel) (by omega),
    segSec_image 5 5 73 _ _ rfl rfl (by decide +kernel) (by omega), segSec_image 6 6 8 _ _ rfl rfl (by decide +kernel) (by omega),
    segSec_image 7 7 65 _ _ rfl rfl (by decide +kernel) (by omega), segSec_image 8 8 32 _ _ rfl rfl (by decide +kernel) (by omega),
    segSec_image 11 9 64 _ _ rfl rfl (by decide +kernel) (by omega)]
  decide +kernel
theorem segOk_image : segOk (segImage 3 7) 7 3 = true := by
  unfold segOk
  rw [segHeaderOk_image, segLayoutOk_image, segSectionsOk_image]
  decide +kernel


/-! ### Small states -/

def zst : State := State.reset
def farAt (owner phase kind : Nat) : FarCtx :=
  { owner := owner, phase := phase, kind := kind, kindId := 0, cplRing := 0, srcRing := 0, tag := 5, client := 0, stub := 1, reserved := 1,
    deadline := 0, replayable := false, replayed := false, audit := false, home := 0, status := 0, ref := 0, ckpt := none, moved := none }
def stubAt : Stub := { belief := 1, phase := 1, cplRing := 0, far := 2, tag := 5, client := 0, reserved := 1, nearSlot := 0xFFFF }
/-- A node that holds the one request of tag 5: its far context, its stub and its near slot. -/
def holds (s : State) (f : FarCtx) (w : Work) : State :=
  { s with ledger := { s.ledger with fars := [(2, f)], stubs := [(1, stubAt)], works := [(5, w)], losses := [] } }
def workK (kind : Nat) : Work := emptyWork kind 0 5 (zeros 64)
def entry0 : ShardWork :=
  { slot := 0, id := 7, epoch := 1, usn := 0, src := ⟨7, 0, 0xFF, 0⟩, tables := [], q := [1], qScale := 0, walks := [], segs := [], rows := [],
    delta := none, plots := [], sel := [], cands := [], ranked := [], stage := 1, todo := [3], result := [], status := 0, visited := 0, filtered := 0,
    pruned := 0, digest := [], certs := [] }
def epoch0 : Epoch := ⟨1, 0, none, [3], [], zeros 32, 0, [], none⟩
def segOf (image : Bytes) : Seg := ⟨image, segmentRoot 7 3 image, false, false, false, [1], []⟩
def shardOf (image : Bytes) : Shard := { emptyShard 7 0 16 true with epochs := [epoch0], segs := [(3, segOf image)] }
def withShard (h : Shard) (s : State) : State := { s with shards := [(0, h)] }
/-- An image of which only the header's vector count matters. -/
def countImage (vc : Nat) : Bytes := overlay (zeros 512) 24 (leBytes 4 vc)
/-- A parameter block: K, visits, query kind, strategy and one term without values. -/
def blockOf (k visits query strategy terms : Nat) : Bytes :=
  leBytes 2 k ++ leBytes 2 8 ++ leBytes 4 visits ++ leBytes 4 16 ++ leBytes 2 8 ++ leBytes 1 query ++ [0] ++ leBytes 1 strategy ++
    leBytes 1 terms ++ zeros 14 ++ [0, 0, 0, 0] ++ List.replicate 12 0xFF ++ zeros 32
theorem atHome_holds (s : State) (ph k : Nat) (w : Work) : (holds s (farAt 2 ph k) w).atHome 5 (farAt 2 ph k) w := ⟨rfl, rfl, rfl, rfl⟩

/-! ### Witnesses: searches -/

theorem witness_StepRunsTheFrontCommand :
    (∃ (s t : State) (c d : Instr) (rest : List Instr), s.pending = c :: d :: rest ∧ exec c { s with pending := d :: rest } = .next t) ∧
    ∃ s : State, s.pending = [] :=
  ⟨⟨{ zst with pending := [.planDrainStart, .stepBoundary] }, _, _, _, [], rfl, rfl⟩, ⟨zst, rfl⟩⟩
theorem witness_MemoryStaysCanonical : ∃ s t : State, Memory.wf s.mem = true ∧ s.mem ≠ [] ∧ step s = .next t :=
  ⟨{ zst with mem := [(0, 1), (2 ^ 62, 255)] }, _, by decide, by decide, rfl⟩
theorem witness_StepNumberStaysInRange :
    (∃ s t : State, s.stepOk ∧ step s = .next t) ∧ ∃ s t : State, s.stepOk ∧ s.step.number = maxStep ∧ step s = .next t :=
  ⟨⟨zst, _, ⟨by decide, by decide⟩, rfl⟩, ⟨{ zst with step := { zst.step with number := maxStep, held := true } }, _, ⟨by decide, by decide⟩, rfl, rfl⟩⟩
theorem witness_EveryStepGoesOn : ∃ (s t : State) (c : Instr) (rest : List Instr), s.pending = c :: rest ∧ step s = .next t :=
  ⟨{ zst with pending := [.stepNumberLimit, .logTrim] }, _, _, _, rfl, rfl⟩
theorem witness_CommandsKeepTheirFrame : ∃ (s t : State) (f : Part), Memory.wf s.mem = true ∧ exec (.auditSweep 0) s = .next t ∧
    f ∉ footprint (.auditSweep 0) :=
  ⟨zst, _, .memField, by decide, rfl, by decide⟩
theorem witness_WinnowerSelectsSmallestKeys :
    (∃ (keys : List Nat) (k : Nat), 1 ≤ k ∧ k ≤ 1024 ∧ k < keys.length ∧ keys.Nodup ∧ ∀ x ∈ keys, x < 2 ^ 96 ∧ x / 2 ^ 48 % 2 ^ 16 = 0) ∧
    ∃ (keys : List Nat) (k : Nat), 1 ≤ k ∧ k ≤ 1024 ∧ keys.length < k ∧ keys.Nodup ∧ ∀ x ∈ keys, x < 2 ^ 96 ∧ x / 2 ^ 48 % 2 ^ 16 = 0 :=
  ⟨⟨[3, 2 ^ 96 - 2 ^ 64 + 2 ^ 48 - 1, 0], 1, by decide⟩, ⟨[2 ^ 64], 1024, by decide⟩⟩
theorem witness_OncePerRunMeansItsFirstStep : ∃ (s : State) (steps : List Nat), s.step.running = true ∧ steps.Pairwise (· < ·) ∧
    s.ev.runs = [(0x4001 * 2 ^ 64 + 1, 3)] ∧ ∀ n ∈ steps, ∀ m, mget s.ev.runs (0x4001 * 2 ^ 64 + 1) = some m → m + 1 < n :=
  ⟨{ zst with step := { zst.step with running := true }, ev := { zst.ev with runs := [(0x4001 * 2 ^ 64 + 1, 3)] } }, [5, 6, 9], rfl,
    by decide, rfl, by intro n hn m hm; cases hm; revert n; decide⟩
def grantNode : State := { zst with dict := { zst.dict with committed := [(dkey 0x2100 1, [1])] } }
def grantVals : List (Nat × Bytes) := [(dkey 0x2110 1, [1])]
theorem witness_GrantsOnlyFromTheFieldNetwork :
    (∃ (c : CommitCtx) (q : Nat), c.s.comN 0x2100 1 = 1 ∧ (∃ e ∈ c.vals, e.1 / 256 = 0x2110) ∧ c.src = .qp q ∧ c.rangeFail = none ∧
      c.crossFail = none ∧ c.ownershipFail = none ∧ c.featureFail = none ∧ c.s.pwr.boot ≠ .halt ∧
      ∀ e ∈ c.vals, e.1 / 256 ≠ 0x1031 ∧ e.1 / 256 ≠ 0x2100 ∧ e.1 ≠ dkey 0x9000 5 ∧
        ∀ b ∈ entryBars (e.1 / 256) (e.1 % 256) e.2 (c.s.com (e.1 / 256) (e.1 % 256)), bit c.s.node.bars b = true) ∧
    ∃ (c : CommitCtx) (m : Nat), c.s.comN 0x2100 1 = 1 ∧ (∃ e ∈ c.vals, e.1 / 256 = 0x2110) ∧ c.src = .mac m ∧
      ∀ e ∈ c.vals, e.1 / 256 = 0x2110 :=
  ⟨⟨⟨.qp 2, grantVals, grantNode, grantNode.withValues grantVals⟩, 2, by decide +kernel, by decide +kernel, rfl, by decide +kernel,
      by decide +kernel, by decide +kernel, by decide +kernel, by decide +kernel, by decide +kernel⟩,
    ⟨⟨.mac 2, grantVals, grantNode, grantNode.withValues grantVals⟩, 2, by decide +kernel, by decide +kernel, rfl, by decide +kernel⟩⟩
theorem witness_SegmentsOfAnEpochAgree :
    (∃ (s : State) (h : Shard) (g x : Seg), mget s.shards 0 = some h ∧ mget h.segs 3 = some g ∧ g.loaded = false ∧ 2 ∈ h.cur.sealed ∧
      mget h.segs 2 = some x ∧ segMetric x.image ≠ segMetric g.image) ∧
    ∃ (s : State) (h : Shard) (g : Seg) (d : Delta) (cb : Codebook), mget s.shards 0 = some h ∧ mget h.segs 3 = some g ∧ g.loaded = false ∧
      4 ∈ h.cur.deltas ∧ mget h.deltas 4 = some d ∧ s.cbOf d.cb = some cb ∧ cb.dim ≠ segDim g.image :=
  ⟨⟨withShard { shardOf (countImage 1) with segs := [(2, segOf (overlay (zeros 512) 6 [1])), (3, segOf (countImage 1))],
                                            epochs := [{ epoch0 with sealed := [2, 3] }] } zst, _, _, _, rfl, rfl, rfl, by decide, rfl,
      by decide +kernel⟩,
    ⟨withShard { shardOf (countImage 1) with epochs := [{ epoch0 with sealed := [3], deltas := [4] }], deltas := [(4, ⟨zeros 32, 0, 1, 0, []⟩)] }
        { zst with codebooks := [⟨zeros 32, 16, 16, 4, zeros 512⟩] }, _, _, _, ⟨zeros 32, 16, 16, 4, zeros 512⟩, rfl, rfl, rfl, by decide, rfl, by decide +kernel, by decide +kernel⟩⟩
def queryWork : Work := { workK 1 with params := blockOf 10 128 0 0 0, query := zeros 32, shards := [entry0] }
def searchNode (f : FarCtx) (w : Work) (image : Bytes) : State := withShard (shardOf image) (holds zst f w)
theorem witness_SearchPreparationAndTables :
    (∃ s tag f w, State.atHome s tag f w ∧ f.phase = 2 ∧ pQuery w.params = 0) ∧
    ∃ s tag f w v x h e, State.atHome s tag f w ∧ f.phase = 3 ∧ w.x = some v ∧ x ∈ w.shards ∧ x.src.port = 0xFF ∧
      s.entryOf x = some (h, e) :=
  ⟨⟨_, 5, farAt 2 2 1, queryWork, atHome_holds zst 2 1 _, rfl, by decide⟩,
    ⟨searchNode (farAt 2 3 1) { queryWork with x := some [0] } (countImage 1), 5, farAt 2 3 1, { queryWork with x := some [0] }, _, entry0, _, _,
      ⟨rfl, rfl, rfl, rfl⟩, rfl, rfl, by simp [queryWork], rfl, rfl⟩⟩
/-- What the three segment searches of an entry ask for in common. -/
def searching (s : State) (w : Work) (x : ShardWork) (h : Shard) (e : Epoch) (g : Seg) : Prop :=
  s.atHome 5 (farAt 2 4 1) w ∧ s.serves w 0 x h e ∧ mget h.segs 3 = some g ∧ x.todo.contains 3 = true
def walkTo (w : Work) (x : ShardWork) (h : Shard) (g : Seg) (share hops : Nat) : Walk :=
  let v := segView h x w.terms g
  walkHops v share w.beam w.hops hops ((x.walks.find? fun y => y.seg == 3).getD (walkStart v share w.beam))
theorem searching_node (x : ShardWork) (p : Bytes) (image : Bytes) (hs : x.slot = 0) (hp : x.src.port = 0xFF) (he : x.epoch = 1)
    (ht : x.todo.contains 3 = true) :
    searching (searchNode (farAt 2 4 1) { queryWork with params := p, shards := [x] } image) { queryWork with params := p, shards := [x] } x
      (shardOf image) epoch0 (segOf image) := by
  refine ⟨⟨rfl, rfl, rfl, rfl⟩, ⟨by simp [Work.localAt, hp], ?_⟩, rfl, ht⟩
  unfold State.entryOf
  rw [hs]
  simp [searchNode, withShard, mget, Shard.epoch?, shardOf, emptyShard, epoch0, he]
def rowEntry : ShardWork := { entry0 with rows := [(3, List.replicate 16 0xFF, zeros 16)] }
def params2 (hops : Nat) : Bytes := overlay (blockOf 10 128 0 0 0) 8 (leBytes 4 hops)
theorem witness_SegmentSearchesVisitTheirSegment :
    (∃ s w x h e g share hops, searching s w x h e g ∧ w.method h e 3 = (0, share) ∧
      (segView h x w.terms g).shadowsOk (walkTo w x h g share hops).recs.reverse = true ∧ (walkTo w x h g share hops).ended = true) ∧
    (∃ s w x h e g share hops, searching s w x h e g ∧ w.method h e 3 = (0, share) ∧
      (segView h x w.terms g).shadowsOk (walkTo w x h g share hops).recs.reverse = true ∧ (walkTo w x h g share hops).done = true) ∧
    (∃ s w x h e g share hops, searching s w x h e g ∧ w.method h e 3 = (0, share) ∧
      (segView h x w.terms g).shadowsOk (walkTo w x h g share hops).recs.reverse = true ∧
      ((walkTo w x h g share hops).done || (walkTo w x h g share hops).ended) = false) ∧
    (∃ s w x h e g, searching s w x h e g ∧ (w.method h e 3).1 = 1 ∧ (segView h x w.terms g).shadowsOk (segScan (segView h x w.terms g)) = true) ∧
    ∃ s w x h e g row, searching s w x h e g ∧ (w.method h e 3).1 = 2 ∧ x.rowOf 3 = some row ∧
      (segView h x w.terms g).shadowsOk (segEnum (segView h x w.terms g) w.terms row) = true :=
  ⟨⟨_, _, _, _, _, _, 128, 3, searching_node entry0 (params2 16) (countImage 129) rfl rfl rfl rfl, by decide +kernel, by decide +kernel,
      by decide +kernel⟩,
    ⟨_, _, _, _, _, _, 128, 1, searching_node entry0 (params2 0) (countImage 129) rfl rfl rfl rfl, by decide +kernel, by decide +kernel,
      by decide +kernel⟩,
    ⟨_, _, _, _, _, _, 128, 2, searching_node entry0 (params2 16) (countImage 129) rfl rfl rfl rfl, by decide +kernel, by decide +kernel,
      by decide +kernel⟩,
    ⟨_, _, _, _, _, _, searching_node entry0 (params2 16) (countImage 128) rfl rfl rfl rfl, by decide +kernel, by decide +kernel⟩,
    ⟨_, _, _, _, _, _, _, searching_node rowEntry (blockOf 10 128 0 2 1) (countImage 128) rfl rfl rfl rfl, by decide +kernel, rfl,
      by decide +kernel⟩⟩
def deltaRec : DRec := ⟨9, 1, zeros 32, 1, 1, zeros 8, [1]⟩
def deltaSeg : Delta := ⟨zeros 32, 0, 1, 0, [deltaRec]⟩
def candOf (handle : Nat) : Cand := ⟨9, 7, handle, 0, 0, 0, true, false, 0⟩
def deltaShard : Shard := { emptyShard 7 0 16 true with epochs := [{ epoch0 with sealed := [], deltas := [4] }], deltas := [(4, deltaSeg)] }
/-- A plot list of `n` records whose handles and distances are distinct. -/
def plotList (n : Nat) : Bytes := zeros 96 ++ (List.range n).flatMap fun k => leBytes 8 k ++ leBytes 4 7 ++ leBytes 5 k ++ zeros 7 ++ leBytes 4 k ++ zeros 4
def listedEntry (n : Nat) : ShardWork :=
  { entry0 with stage := 2, segs := [⟨3, [], false⟩], plots := [⟨3, [], some (plotList n)⟩] }
def unionOf (x : ShardWork) : List Cand := x.searched.flatMap fun p => parseRecords (((x.plotSel p).list.getD []).drop 96)
def rerankParams : Bytes := overlay (blockOf 100 128 0 0 0) 12 (leBytes 2 128)
theorem witness_ScansFiltersAndSelectionComplete :
    (∃ s tag f w x h e, State.atHome s tag f w ∧ s.serves w 0 x h e ∧ f.phase = 4 ∧ x.delta = none ∧ x.stage ≠ 0 ∧
      deltaVisits h e x w.terms (s.entryCode h e).2 ≠ [] ∧
      deltaShadowsOk h x (s.entryCode h e).2 (deltaVisits h e x w.terms (s.entryCode h e).2) = true) ∧
    (∃ s tag f w x h e g, State.atHome s tag f w ∧ s.serves w 0 x h e ∧ f.phase = 4 ∧ mget h.segs 3 = some g ∧ x.todo.contains 3 = true ∧
      w.terms.any (termCovered g.image) = true ∧ s.bitmapsSound x.slot 3 g.image) ∧
    ∀ n, n = 64 ∨ n = 63 → ∃ s tag f w x h e, State.atHome s tag f w ∧ s.serves w 0 x h e ∧ f.phase = 5 ∧ x.stage < 3 ∧
      (∀ p ∈ x.searched, (x.plotSel p).list.isSome = true) ∧
      (selectPass ((unionOf x).map fun c => orderKey c.pq 0 c.handle) x.sel (pRerank w.params)).2 = (n == 63) :=
  ⟨⟨withShard deltaShard (holds zst (farAt 2 4 1) { queryWork with shards := [{ entry0 with usn := 1 }] }), 5, farAt 2 4 1,
      { queryWork with shards := [{ entry0 with usn := 1 }] }, { entry0 with usn := 1 }, deltaShard, { epoch0 with sealed := [], deltas := [4] },
      ⟨rfl, rfl, rfl, rfl⟩, ⟨rfl, rfl⟩, rfl, rfl, by decide, by decide +kernel, by decide +kernel⟩,
    ⟨searchNode (farAt 2 4 1) { queryWork with params := blockOf 10 128 0 2 1 } (countImage 1), 5, farAt 2 4 1,
      { queryWork with params := blockOf 10 128 0 2 1 }, entry0, shardOf (countImage 1), epoch0, _, ⟨rfl, rfl, rfl, rfl⟩, ⟨rfl, rfl⟩, rfl, rfl,
      by decide, by decide +kernel, by intro b hb; cases hb⟩, by
    intro n hn
    refine ⟨searchNode (farAt 2 5 1) { queryWork with params := rerankParams, shards := [listedEntry n] } [], 5, farAt 2 5 1,
      { queryWork with params := rerankParams, shards := [listedEntry n] }, listedEntry n, shardOf [], epoch0, ⟨rfl, rfl, rfl, rfl⟩,
      ⟨rfl, rfl⟩, rfl, by show (2 : Nat) < 3; decide, ?_, ?_⟩
    · rcases hn with rfl | rfl <;> decide +kernel
    · rcases hn with rfl | rfl <;> decide +kernel⟩
theorem witness_RerankScoresEveryCandidate :
    ∃ s tag f w x h e, State.atHome s tag f w ∧ f.phase = 6 ∧ s.serves w 0 x h e ∧ x.stage = 3 ∧ x.cands ≠ [] ∧
      ∀ c ∈ x.cands, ∃ v, storedVector h c.handle = some v ∧ sumsqOf v.2.2.2 % 65521 = v.2.2.1 % 65521 :=
  ⟨withShard deltaShard (holds zst (farAt 2 6 1) { queryWork with shards := [{ entry0 with stage := 3, cands := [candOf (mkHandle 4 0)] }] }), 5, farAt 2 6 1,
    { queryWork with shards := [{ entry0 with stage := 3, cands := [candOf (mkHandle 4 0)] }] }, { entry0 with stage := 3, cands := [candOf (mkHandle 4 0)] },
    deltaShard, { epoch0 with sealed := [], deltas := [4] }, ⟨rfl, rfl, rfl, rfl⟩, rfl, ⟨rfl, rfl⟩, rfl, by decide, by
      intro c hc; cases hc with
      | head => exact ⟨_, rfl, by decide +kernel⟩
      | tail _ h => cases h⟩
/-- `n` ranked candidates, distinct in EXTERNAL_ID and handle. -/
def ranked (n : Nat) : List Cand := (List.range n).map fun k => { candOf k with ext := k, exact := k }
def rankedEntry (n : Nat) : ShardWork := { entry0 with stage := 4, ranked := ranked n }
def uniqOf (x : ShardWork) : List Cand := removeDups (fun _ => 0) (fun _ => x.src.node) x.ranked
def visited (n : Nat) : ShardWork :=
  { entry0 with stage := 2, segs := [⟨3, (List.range n).map fun k => ⟨mkHandle 3 k, false, false, false, false, k⟩, false⟩] }
theorem witness_PassesAndShardResultsComplete :
    (∀ n, n = 64 ∨ n = 63 → ∃ s tag f w x h e, State.atHome s tag f w ∧ f.phase = 5 ∧ s.serves w 0 x h e ∧ x.stage < 3 ∧ 3 ∈ x.searched ∧
      (x.plotSel 3).list = none ∧ (selectPass ((x.eligible.filter fun v => handleSeg v.handle % 16 == 3).map fun v => orderKey v.dist 0 v.handle)
        (x.plotSel 3).keys (pRerank w.params)).2 = (n == 63)) ∧
    ∀ n, n = 64 ∨ n = 63 → ∃ s tag f w x h e, State.atHome s tag f w ∧ f.phase = 7 ∧ s.serves w 0 x h e ∧ x.stage = 4 ∧
      (selectPass ((uniqOf x).map fun c => orderKey (exactPrimary c.exact) 0 c.handle) x.sel w.k).2 = (n == 63) :=
  ⟨by
    intro n hn
    refine ⟨searchNode (farAt 2 5 1) { queryWork with params := rerankParams, shards := [visited n] } [], 5, farAt 2 5 1,
      { queryWork with params := rerankParams, shards := [visited n] }, visited n, shardOf [], epoch0, ⟨rfl, rfl, rfl, rfl⟩, rfl, ⟨rfl, rfl⟩,
      by show (2 : Nat) < 3; decide, ?_, rfl, ?_⟩ <;> rcases hn with rfl | rfl <;> decide +kernel,
    by
    intro n hn
    refine ⟨searchNode (farAt 2 7 1) { queryWork with params := rerankParams, shards := [rankedEntry n] } [], 5, farAt 2 7 1,
      { queryWork with params := rerankParams, shards := [rankedEntry n] }, rankedEntry n, shardOf [], epoch0, ⟨rfl, rfl, rfl, rfl⟩, rfl,
      ⟨rfl, rfl⟩, rfl, ?_⟩
    rcases hn with rfl | rfl <;> decide +kernel⟩
def widenWork : Work := { queryWork with merged := true, short := true, widen := true, shards := [{ entry0 with filtered := 1, stage := 5 }] }
def resultEntry (n : Nat) : ShardWork := { entry0 with stage := 5, result := ranked n }
def mergePass (w : Work) : List Nat × Bool :=
  let pos := fun id => w.shards.findIdx fun x => x.id == id
  let node := fun id => ((w.shards.find? fun x => x.id == id).map (·.src.node)).getD 0
  selectPass ((removeDups pos node (w.shards.flatMap (·.result))).map fun c => orderKey (exactPrimary c.exact) (pos c.shard) c.handle) w.sel w.k
theorem witness_MergeAndWidenedPassComplete :
    (∀ n, n = 64 ∨ n = 63 → ∃ s tag c f w, State.atHome s tag f w ∧ s.farOf tag = some (c, f) ∧ f.phase = 9 ∧ w.merged = false ∧
      (∀ x ∈ w.shards, x.stage = 5) ∧ (mergePass w).2 = (n == 63)) ∧
    ∃ s tag c f w, State.atHome s tag f w ∧ s.farOf tag = some (c, f) ∧ f.phase = 9 ∧ w.merged = true ∧ w.wantsWiden = true ∧
      s.node.handAlive = true :=
  ⟨by
    intro n hn
    refine ⟨holds zst (farAt 2 9 1) { queryWork with params := rerankParams, shards := [resultEntry n] }, 5, 2, farAt 2 9 1, _,
      ⟨rfl, rfl, rfl, rfl⟩, rfl, rfl, rfl, by simp [resultEntry], ?_⟩
    rcases hn with rfl | rfl <;> decide +kernel,
    ⟨holds { zst with node := { zst.node with handAlive := true } } (farAt 2 9 1) widenWork, 5, 2, farAt 2 9 1, _, ⟨rfl, rfl, rfl, rfl⟩, rfl, rfl, rfl,
      by decide, rfl⟩⟩
def remoteEntry : ShardWork := { entry0 with src := ⟨7, 1, 2, 9⟩ }
def listBody (n node : Nat) : Bytes :=
  ascii "OWPL" ++ leBytes 2 n ++ leBytes 1 node ++ [0xFF] ++ leBytes 4 7 ++ leBytes 2 0 ++ leBytes 2 0 ++ leBytes 8 5 ++ zeros 72 ++
    (List.range n).flatMap fun k => leBytes 8 k ++ leBytes 4 7 ++ leBytes 5 k ++ zeros 3 ++ leBytes 4 k ++ zeros 8
def remoteWork (x : ShardWork) : Work := { queryWork with shards := [x] }
def remoteNode (owner phase kind : Nat) (x : ShardWork) : State := holds zst (farAt owner phase kind) (remoteWork x)
def certBody0 : Bytes := [0, 0, 0, 0, 0, 0, 0, 0, 28, 0, 0, 0] ++ zeros 12 ++ leBytes 4 7
def entryOfList (w : Work) (body : Bytes) (port : Nat) : Option ShardWork :=
  w.shards[w.shards.findIdx fun x => x.id == u32 body 8 && x.src.port == port]?
theorem witness_RemoteListsAndSubSearchesComplete :
    (∀ n, n = 0 ∨ n = 10 → ∃ s tag c f w x, State.farOf s tag = some (c, f) ∧ s.workOf tag = some w ∧ f.kind = 1 ∧ f.phase = 8 ∧
      entryOfList w (listBody n 1) 2 = some x ∧ x.stage ≠ 5 ∧ listFits (listBody n 1) x w.k tag = true) ∧
    (∀ body, body = listBody 0 0 ∨ body = listBody 11 1 → ∃ s tag c f w x, State.farOf s tag = some (c, f) ∧ s.workOf tag = some w ∧
      f.kind = 1 ∧ f.phase = 8 ∧ entryOfList w body 2 = some x ∧ listFits body x w.k tag = false) ∧
    (∃ s tag c f w, State.farOf s tag = some (c, f) ∧ s.workOf tag = some w ∧ f.kind = 1 ∧ f.phase = 9 ∧ entryOfList w (listBody 0 1) 3 = none) ∧
    (∃ s tag c f w x, State.farOf s tag = some (c, f) ∧ s.workOf tag = some w ∧ f.kind = 1 ∧ f.phase = 8 ∧
      w.shards[w.shards.findIdx fun x => x.src.port == 2 && ((certBlocks 1024 certBody0).head?.map fun b => u32 b 24 == x.id).getD false]? = some x) ∧
    (∃ s tag c f w, State.farOf s tag = some (c, f) ∧ s.workOf tag = some w ∧ f.owner = 1 ∧ f.phase = 8 ∧
      (w.remotes.filter fun x => x.stage != 5) ≠ []) ∧
    (∃ s tag c f w x, State.farOf s tag = some (c, f) ∧ s.workOf tag = some w ∧ f.owner = 1 ∧ f.phase = 8 ∧
      (w.remotes.filter fun x => x.stage != 5) = [] ∧ w.remotes.find? (fun x => decide (x.certs.length < x.result.length)) = some x) ∧
    ∃ s tag c f w, State.farOf s tag = some (c, f) ∧ s.workOf tag = some w ∧ f.owner = 1 ∧ f.phase = 8 ∧ w.remotes ≠ [] ∧
      (w.remotes.filter fun x => x.stage != 5) = [] ∧ ∀ x ∈ w.remotes, x.result.length ≤ x.certs.length :=
  ⟨by
    intro n hn
    refine ⟨remoteNode 1 8 1 remoteEntry, 5, 2, farAt 1 8 1, remoteWork remoteEntry, remoteEntry, rfl, rfl, rfl, rfl, ?_, by decide, ?_⟩ <;>
      rcases hn with rfl | rfl <;> decide +kernel,
    by
    intro b hb
    refine ⟨remoteNode 1 8 1 remoteEntry, 5, 2, farAt 1 8 1, remoteWork remoteEntry, remoteEntry, rfl, rfl, rfl, rfl, ?_, ?_⟩ <;>
      rcases hb with rfl | rfl <;> decide +kernel,
    ⟨remoteNode 1 9 1 remoteEntry, 5, 2, farAt 1 9 1, remoteWork remoteEntry, rfl, rfl, rfl, rfl, by decide +kernel⟩,
    ⟨remoteNode 1 8 1 remoteEntry, 5, 2, farAt 1 8 1, remoteWork remoteEntry, remoteEntry, rfl, rfl, rfl, rfl, by decide +kernel⟩,
    ⟨remoteNode 1 8 1 remoteEntry, 5, 2, farAt 1 8 1, remoteWork remoteEntry, rfl, rfl, rfl, rfl, by decide +kernel⟩,
    ⟨remoteNode 1 8 1 { remoteEntry with stage := 5, result := [candOf 0] }, 5, 2, farAt 1 8 1, _, { remoteEntry with stage := 5, result := [candOf 0] },
      rfl, rfl, rfl, rfl, by decide +kernel, by decide +kernel⟩,
    ⟨remoteNode 1 8 1 { remoteEntry with stage := 5 }, 5, 2, farAt 1 8 1, _, rfl, rfl, rfl, rfl, by decide +kernel, by decide +kernel, by decide +kernel⟩⟩
theorem witness_HandoffsMoveTheRequest :
    (∃ s tag c k f st, State.farOf s tag = some (c, f) ∧ s.stubOf tag = some (k, st) ∧ f.owner = 1 ∧ f.phase ∉ [0x0B, 0x0C, 0x11, 0x24] ∧
      s.isLost tag = false) ∧
    ∃ s tag c k f st w, State.farOf s tag = some (c, f) ∧ s.stubOf tag = some (k, st) ∧ s.workOf tag = some w ∧ f.owner = 2 ∧
      w.phaseDone f.phase = true ∧ s.isLost tag = false :=
  ⟨⟨holds zst (farAt 1 1 1) queryWork, 5, 2, 1, farAt 1 1 1, _, rfl, rfl, rfl, by decide, rfl⟩,
    ⟨holds zst (farAt 2 2 1) { queryWork with x := some [0] }, 5, 2, 1, farAt 2 2 1, _, { queryWork with x := some [0] }, rfl, rfl, rfl, rfl,
      by decide +kernel, rfl⟩⟩
/-- A maintenance slice of template 0; a plan of such slices, and a node with all its plots that runs it. -/
def sliceEnt (plot typ cap target params : Nat) : Bytes :=
  leBytes 16 params ++ leBytes 4 target ++ leBytes 4 cap ++ zeros 5 ++ leBytes 1 typ ++ leBytes 2 plot
def slicePlan (es : List Bytes) : Plan := ⟨es.flatten, 1, 1000, 4, 10, zeros 32, [⟨6, es.length, 0⟩]⟩
def planned (es : List Bytes) (s : State) : State :=
  { s with node := { s.node with plots := 65535 }, step := { s.step with seedling := false, number := 0, plan := some ⟨[slicePlan es], zeros 32⟩ } }
def auditNode (cap : Nat) (a : Audit) : State :=
  planned [sliceEnt 4 4 cap 0 0] (withShard deltaShard { zst with ledger := { zst.ledger with audits := [a] } })
def auditWork : Work := { queryWork with shards := [{ entry0 with usn := 1 }] }
def auditAll (s : State) (a : Audit) : List Cand := a.work.shards.flatMap fun x => s.auditShard a.work x (s.workDim a.work).1
theorem witness_CertificatesAndRootsComplete :
    (∃ s tag f w, State.atHome s tag f w ∧ f.phase = 0x0A ∧ w.certSet = [] ∧ carriesRecords (w.status % 256) = false) ∧
    (∃ s tag f w, State.atHome s tag f w ∧ f.phase = 0x0A ∧ w.certSet = [] ∧ carriesRecords (w.status % 256) = true ∧
      ∃ certs : List Bytes, ((w.final.zipIdx).map fun e => s.certOf w e.2 e.1 (digest (setHeader w tag (s.workDim w).2))) = certs.map some) ∧
    (∃ s tag i f w h, State.atHome s tag f w ∧ f.phase = 0x12 ∧ s.slotOf (u32 w.body 0) = some i ∧ mget s.shards i = some h) ∧
    (∃ (s : State) (r : RootRec) (q : Ring), s.ledger.rootQ = [r] ∧ r.ok = true ∧ mget s.rings (s.actN 0x3030 2) = some q ∧ 2 ≤ q.freeSlots) ∧
    ∀ cap, cap = 0 ∨ cap = 1 → ∃ s tag a, (State.ledger s).audits.find? (fun a => a.tag == tag) = some a ∧ s.step.seedling = false ∧
      s.inAudit = true ∧ a.work.shards ≠ [] ∧ (∀ x ∈ a.work.shards, x.q ≠ []) ∧ (auditAll s a).length = 1 ∧
      (∀ x ∈ a.work.shards, ∀ h e, s.entryOf x = some (h, e) → ∀ c ∈ auditAll s a, c.shard = x.id → sumsqBad h c.handle = false) ∧
      s.audited (s.auditScan a (auditAll s a)).2 (auditAll s a) = decide (cap = 1) :=
  ⟨⟨holds zst (farAt 2 0x0A 1) { queryWork with status := 9 }, 5, farAt 2 0x0A 1, _, ⟨rfl, rfl, rfl, rfl⟩, rfl, rfl, by decide⟩,
    ⟨holds zst (farAt 2 0x0A 1) queryWork, 5, farAt 2 0x0A 1, queryWork, ⟨rfl, rfl, rfl, rfl⟩, rfl, rfl, by decide, [], rfl⟩,
    ⟨withShard (shardOf []) (holds zst (farAt 2 0x12 4) { workK 4 with body := leBytes 4 7 }), 5, 0, farAt 2 0x12 4, _, _, ⟨rfl, rfl, rfl, rfl⟩,
      rfl, by decide +kernel, rfl⟩,
    ⟨{ zst with ledger := { zst.ledger with rootQ := [⟨0, 7, 1, 0, 3, zeros 32, true⟩] },
                rings := [(zst.actN 0x3030 2, ⟨1, 5, 0, false, 0, 0, 0, 0, 0, 0, 0, 0, 0, false⟩)] }, _,
      ⟨1, 5, 0, false, 0, 0, 0, 0, 0, 0, 0, 0, 0, false⟩, rfl, rfl, by decide +kernel, by decide +kernel⟩, by
    intro cap hc
    refine ⟨auditNode cap ⟨5, auditWork, 0, 1, 0, []⟩, 5, ⟨5, auditWork, 0, 1, 0, []⟩, rfl, rfl, ?_, by decide, by decide, ?_, ?_, ?_⟩
    · rcases hc with rfl | rfl <;> decide +kernel
    · rcases hc with rfl | rfl <;> decide +kernel
    · intro x hx h e he c hc'
      revert c
      rcases List.mem_singleton.mp hx with rfl
      cases he
      rcases hc with rfl | rfl <;> decide +kernel
    · rcases hc with rfl | rfl <;> decide +kernel⟩
theorem witness_RequestsCompleteInTheirRing :
    (∃ (s : State) (tag c : Nat) (f : FarCtx) (w : Work) (r : Ring), State.farOf s tag = some (c, f) ∧ s.workOf tag = some w ∧ f.owner = 1 ∧ f.phase = 0x0B ∧ f.kind = 2 ∧
      (∀ e ∈ s.ledger.works, e.1 = tag → e.2.owed = false) ∧ s.isLost tag = false ∧ Memory.wf s.mem = true ∧ mget s.rings f.cplRing = some r) ∧
    ∃ (s : State) (tag c : Nat) (f : FarCtx) (w : Work), State.farOf s tag = some (c, f) ∧ s.workOf tag = some w ∧ f.owner = 1 ∧ f.phase = 0x0B ∧ f.kind = 5 ∧
      (∀ e ∈ s.ledger.works, e.1 = tag → e.2.owed = false) ∧ s.isLost tag = false ∧ Memory.wf s.mem = true :=
  ⟨⟨{ holds zst (farAt 1 0x0B 2) (workK 2) with rings := [(0, ⟨4, 5, 0, false, 0, 0, 0, 0, 0, 0, 0, 0, 1, false⟩)] }, 5, 2, farAt 1 0x0B 2, _, _,
      rfl, rfl, rfl, rfl, rfl, by decide +kernel, rfl, rfl, rfl⟩,
    ⟨holds zst (farAt 1 0x0B 5) (workK 5), 5, 2, farAt 1 0x0B 5, _, rfl, rfl, rfl, rfl, rfl, by decide +kernel, rfl, rfl⟩⟩

/-! ### Witnesses: updates, the log and seals -/

def sealSet0 : SealSet := ⟨false, 0, 0, 8, 1, 65536⟩
def jobOf (stage : Nat) (image : Bytes) : SealJob := ⟨[], 4, 5, stage, 0, image, [], sealSet0, [], false, 0, 0⟩
def codebook0 : Codebook := ⟨zeros 32, 16, 16, 4, zeros 512⟩
def recOf (slot usn : Nat) (bytes : Bytes) (durable : Bool) : LogRec := ⟨0, slot, 1, usn, bytes, 0, 0, durable⟩
def updBody (op : Nat) : Bytes := leBytes 1 op ++ zeros 3 ++ leBytes 4 7 ++ zeros 56
def updNode (op : Nat) (alive : Bool) : State :=
  withShard { shardOf [] with lastUsn := 8 }
    { zst with ledger := { zst.ledger with works := [(5, { workK 2 with body := updBody op, usn := 9 })],
                                           fars := if alive then [(2, farAt 1 6 2)] else [] } }
theorem witness_UpdatesTakeTheNextUsn : ∀ op alive, op = 1 ∨ op = 2 ∨ op = 3 → ∃ s w h, State.workOf s 5 = some w ∧
    s.slotOf (uShard w.body) = some 0 ∧ mget s.shards 0 = some h ∧ w.kind = 2 ∧ w.acks = 0 ∧ w.usn = h.lastUsn + 1 ∧ uOp w.body = op ∧
    s.ledger.fars.any (fun e => e.2.tag == 5) = alive := by
  intro op alive hop
  refine ⟨updNode op alive, { workK 2 with body := updBody op, usn := 9 }, { shardOf [] with lastUsn := 8 }, rfl, ?_, rfl, rfl, rfl, rfl, ?_, ?_⟩ <;>
    rcases hop with rfl | rfl | rfl <;> cases alive <;> decide +kernel
def partnerOf (port acked : Nat) : Partner := ⟨9, port, true, false, acked, 0, false, 0, 0, 0⟩
def replicaShard : Shard := { emptyShard 7 0 16 false with inbox := [recOf 0 1 (zeros 80) true] }
theorem witness_ReplicasTakeAndApplyRecords :
    (∃ s h r rest, mget (State.shards s) 0 = some h ∧ h.inbox = r :: rest ∧ h.owner = false ∧ s.step.seedling = false ∧ r.kind = 1 ∧
      s.lacksPage 0 h (r.bytes.drop 16) = false) ∧
    (∃ s h p q, State.slotOf s 7 = some 0 ∧ mget s.shards 0 = some h ∧ h.owner = true ∧ h.partners[0]? = some p ∧ h.partners[1]? = some q ∧
      p.port = 2 ∧ p.detached = false ∧ h.vis ≤ max p.acked 8 ∧ q.port ≠ 2) ∧
    (∃ s h, State.slotOf s 7 = some 0 ∧ mget s.shards 0 = some h ∧ h.owner = true ∧ (h.partners.any fun p => p.port == 2 && !p.detached) = true ∧
      ¬ ∃ p ∈ h.partners, p.port = 2 ∧ p.loading = true) ∧
    ∃ s h, State.slotOf s 7 = some 0 ∧ mget s.shards 0 = some h ∧ h.owner = true ∧ (h.partners.any fun p => p.port == 2 && !p.detached) = true ∧
      (∃ p ∈ h.partners, p.port = 2 ∧ p.loading = true) ∧ 1 ≤ h.last ∧ ∀ r ∈ s.log.recs, ¬ (r.slot = 0 ∧ r.kind = 1 ∧ r.usn = 1) :=
  ⟨⟨withShard replicaShard zst, _, _, _, rfl, rfl, rfl, rfl, rfl, by decide +kernel⟩,
    ⟨withShard { shardOf [] with vis := 8, partners := [partnerOf 2 3, partnerOf 3 9] } zst, _, partnerOf 2 3, partnerOf 3 9, by decide +kernel, rfl, rfl, rfl, rfl,
      rfl, rfl, by decide, by decide⟩,
    ⟨withShard { shardOf [] with partners := [partnerOf 2 3] } zst, _, by decide +kernel, rfl, rfl, by decide, by
      rintro ⟨p, hp, h1, h2⟩; rcases List.mem_singleton.mp hp with rfl; cases h2⟩,
    ⟨withShard { shardOf [] with last := 1, partners := [{ partnerOf 2 3 with loading := true }] } zst, _, by decide +kernel, rfl, rfl, by decide,
      ⟨_, List.mem_singleton.mpr rfl, rfl, rfl⟩, by decide, by intro r hr; cases hr⟩⟩
/-- A die with an open SLC block for units and one for system pages, in Seedling service, whose slices are the firmware's. -/
def openBlk (use_ : Nat) : Blk := ⟨true, 1, 0, 0, false, 0, 0, 0, 0, 0, use_⟩
def die0 : Die := ⟨zeros 26 ++ [3] ++ zeros 37, true, 7, 12, 1000, [], [(0, ⟨false, 2, 0, 12, false, 0, 0, 0, 0, 0, 0⟩), (1, openBlk 0), (2, openBlk 1)],
  1, 1, 0, 0, 0, 0, 0, [], [], [], none⟩
def flashNode (s : State) : State :=
  { s with flash := { s.flash with dies := [(0, die0)], chans := 1, map := [(100, 5)] }, step := { s.step with seedling := true }
           node := { s.node with plots := 65535 } }
/-- The same with a hold-up reserve of 32 pages to cover the log. -/
def roomy (s : State) : State :=
  { flashNode s with flash := { (flashNode s).flash with dies := [(0, { die0 with blocks := 40 })] }, dict := { s.dict with live := [(dkey 0x7010 4, leBytes 4 65536)] } }
def logRecBytes (usn : Nat) : Bytes := [1, 0] ++ leBytes 2 80 ++ leBytes 4 7 ++ leBytes 8 usn ++ zeros 64
theorem witness_LogRecordsArriveInOrder :
    (∃ s b h, logParts (List.length b) b = [b] ∧ State.slotOf s (u32 b 4) = some 0 ∧ mget s.shards 0 = some h ∧ h.owner = false ∧ u8 b 0 = 1 ∧
      h.held = [] ∧ u64 b 8 = h.expects ∧ s.logRoom b.length = true) ∧
    (∃ s b h, logParts (List.length b) b = [b] ∧ State.slotOf s (u32 b 4) = some 0 ∧ mget s.shards 0 = some h ∧ h.owner = false ∧ u8 b 0 = 1 ∧
      h.held = [] ∧ u64 b 8 = h.expects ∧ s.logRoom b.length = false) ∧
    (∃ s b h, logParts (List.length b) b = [b] ∧ State.slotOf s (u32 b 4) = some 0 ∧ mget s.shards 0 = some h ∧ h.owner = false ∧ u8 b 0 = 1 ∧
      h.held = [] ∧ u64 b 8 < h.expects) ∧
    ∃ s b h, logParts (List.length b) b = [b] ∧ State.slotOf s (u32 b 4) = some 0 ∧ mget s.shards 0 = some h ∧ h.owner = false ∧ u8 b 0 = 1 ∧
      h.held = [] ∧ h.expects < u64 b 8 :=
  ⟨⟨roomy (withShard (emptyShard 7 0 16 false) zst), logRecBytes 1, _, by decide +kernel, by decide +kernel, rfl, rfl, by decide, rfl, by decide,
      by decide +kernel⟩,
    ⟨withShard (emptyShard 7 0 16 false) zst, logRecBytes 1, _, by decide +kernel, by decide +kernel, rfl, rfl, by decide, rfl, by decide,
      by decide +kernel⟩,
    ⟨withShard (emptyShard 7 0 16 false) zst, logRecBytes 0, _, by decide +kernel, by decide +kernel, rfl, rfl, by decide, rfl, by decide⟩,
    ⟨withShard (emptyShard 7 0 16 false) zst, logRecBytes 2, _, by decide +kernel, by decide +kernel, rfl, rfl, by decide, rfl, by decide⟩⟩
theorem witness_LogTrimKeepsWhatIsOwed : ∃ (s t : State) (r : LogRec), r ∈ s.log.recs ∧ r.durable = true ∧ exec .logTrim s = .next t :=
  ⟨{ zst with log := { zst.log with recs := [recOf 0 1 (zeros 80) true, recOf 0 2 (zeros 80) false] } }, _, recOf 0 1 (zeros 80) true, by simp, rfl, rfl⟩
def sealShard (j : SealJob) : Shard :=
  { emptyShard 7 0 16 true with epochs := [{ epoch0 with sealed := [], deltas := [4] }], deltas := [(4, deltaSeg)], sealJob := some j }
def compShard (j : SealJob) : Shard := { shardOf [] with comp := some j }
def sealRec : Bytes := zeros 4 ++ leBytes 2 1 ++ zeros 58 ++ leBytes 2 3 ++ zeros 2 ++ leBytes 4 10 ++ segmentRoot 7 3 (segImage 3 7)
theorem length_keccakRound (a : List W64) (rc : W64) : (keccakRound a rc).length = 25 := by
  unfold keccakRound
  dsimp only
  split <;> rename_i h <;> have h1 := congrArg List.length h <;> simp at h1 ⊢
  omega
theorem length_rounds (l : List W64) (a : List W64) (h : a.length = 25) : (l.foldl keccakRound a).length = 25 := by
  induction l generalizing a with
  | nil => exact h
  | cons x l ih => exact ih _ (length_keccakRound a x)
theorem length_absorb (l : List Bytes) (a : List W64) (h : a.length = 25) : (keccakAbsorb a l).length = 25 := by
  unfold keccakAbsorb
  induction l generalizing a with
  | nil => exact h
  | cons x l ih => exact ih _ (length_rounds _ _ (by simp [keccakXor]))
theorem length_lanes (l : List W64) : (l.flatMap fun w => leBytes 8 w.toNat).length = 8 * l.length := by
  induction l with
  | nil => rfl
  | cons x l ih => rw [List.flatMap_cons, List.length_append, ih, leBytes_length, List.length_cons]; omega
theorem length_digest (m : Bytes) : (digest m).length = 32 := by
  unfold digest shake256 sponge256
  rw [show ceilDiv 32 136 = 1 from rfl, keccakSqueeze, keccakSqueeze, List.append_nil, List.length_take, length_lanes, List.length_take,
    length_absorb _ _ rfl]
  rfl
theorem splitAll_one (n : Nat) (b : Bytes) (h : b.length = n) (h0 : 0 < n) : splitAll n b = [b] := by
  have : ceilDiv b.length (max n 1) = 1 := by rw [h, Nat.max_eq_left h0]; unfold ceilDiv; rw [show n + n - 1 = n - 1 + n by omega, Nat.add_div_right _ h0, Nat.div_eq_of_lt (by omega)]
  unfold splitAll; rw [this]
  simp only [chunks]
  have hb : b.isEmpty = false := by cases b with
    | nil => simp at h; omega
    | cons _ _ => rfl
  rw [hb, List.take_of_length_le (by omega)]; rfl
def writtenNode : State :=
  let s := flashNode (withShard (sealShard (jobOf 3 [])) zst)
  { s with flash := { s.flash with extents := [⟨0, 0, 4, 100, 2, true, 2⟩], map := [(100, 7), (101, 8)] } }
def shortRec (n : Nat) : Bytes := zeros 4 ++ leBytes 2 1 ++ zeros 58 ++ leBytes 2 n ++ zeros 38
def replicaNode : State :=
  let s := flashNode (withShard { emptyShard 7 0 16 false with pendEpoch := some (shortRec 4) } zst)
  { s with flash := { s.flash with extents := [⟨0, 0, 4, 100, 2, true, 2⟩], map := [(100, 7), (101, 8)] } }
theorem segNumber_image : segNumber (segImage 3 7) = 3 := by decide +kernel
theorem segSec_absent (t : Nat) (h : ([(1, 1, 8), (2, 2, 512), (3, 3, 512), (4, 4, 4), (5, 5, 73), (6, 6, 8), (7, 7, 65), (8, 8, 32), (11, 9, 64)] :
    List (Nat × Nat × Nat)).find? (fun e => e.1 == t) = none) : segSec (segImage 3 7) t = [] := by
  unfold segSec; rw [segDir_image, h]
theorem segVc_image : segVc (segImage 3 7) = 1 := by decide +kernel
theorem segFlags_image : segFlags (segImage 3 7) = 0 := by decide +kernel
theorem segWinPages_image : segWinPages (segImage 3 7) = 4 := by
  unfold segWinPages segMirrored
  rw [segFlags_image]
  simp only [show bit 0 0 = false from rfl, Bool.false_eq_true, if_false, List.append_nil, List.map_cons, List.map_nil]
  rw [segSec_image 1 1 8 _ _ rfl rfl (by decide +kernel) (by omega), segSec_image 3 3 512 _ _ rfl rfl (by decide +kernel) (by omega),
    segSec_image 7 7 65 _ _ rfl rfl (by decide +kernel) (by omega), segSec_image 8 8 32 _ _ rfl rfl (by decide +kernel) (by omega),
    segSec_absent 12 rfl]
  decide +kernel
theorem segPinned_image : segPinned (segImage 3 7) = 16982 := by
  unfold segPinned
  rw [segVc_image]
  simp only [List.map_cons, List.map_nil]
  rw [segSec_image 2 2 512 _ _ rfl rfl (by decide +kernel) (by omega), segSec_image 4 4 4 _ _ rfl rfl (by decide +kernel) (by omega),
    segSec_image 5 5 73 _ _ rfl rfl (by decide +kernel) (by omega), segSec_image 6 6 8 _ _ rfl rfl (by decide +kernel) (by omega),
    segSec_absent 9 rfl]
  decide +kernel
theorem placeSeg_zst : (State.placeSeg zst 0 (segImage 3 7)).isSome = true := by
  unfold State.placeSeg State.placeBitmaps segBitmaps segPassage segTombPages
  rw [segFlags_image, segNumber_image, segPinned_image, segWinPages_image, segVc_image]
  decide +kernel
theorem sealRec_image : (recSeg sealRec 3).map (·.2) = some (segmentRoot 7 3 (segImage 3 7)) := by
  unfold sealRec
  generalize hg : segmentRoot 7 3 (segImage 3 7) = root
  have hr : root.length = 32 := by rw [← hg]; exact length_digest _
  match root, hr with
  | [a0, a1, a2, a3, a4, a5, a6, a7, a8, a9, b0, b1, b2, b3, b4, b5, b6, b7, b8, b9, c0, c1, c2, c3, c4, c5, c6, c7, c8, c9, d0, d1], _ =>
    simp [recSeg, sl, splitAll, chunks, ceilDiv, u16, u32, leNat, leBytes, zeros, List.replicate]
/-! An image that the model builds of one vector: it is `segImage 3 7`. -/
def vec1 : VecRec := ⟨9, zeros 32, 1, 16, zeros 8, List.replicate 16 1, []⟩
def build1 : BuildParams :=
  ⟨7, 3, 1, 0, 16, 4, 16, zeros 512, false, 0, 0, 8, 1, 65536, [], [], [1]⟩
theorem chooseHubs_one (seed : Bytes) : chooseHubs seed 1 1 = [0] := by
  unfold chooseHubs
  simp only [List.range_one, List.map_cons, List.map_nil, Nat.mod_one]
  decide
theorem placed_fold (secs : List (Nat × Bytes)) (h : ∀ x ∈ secs, 0 < x.2.length ∧ x.2.length ≤ 16384) (a c : Bytes) (n : Nat) :
    (secs.foldl (fun (st : Bytes × Nat × Bytes) s =>
      (st.1 ++ leBytes 2 s.1 ++ zeros 2 ++ leBytes 4 st.2.1 ++ leBytes 8 s.2.length,
       st.2.1 + ceilDiv s.2.length 16384, st.2.2 ++ padTo (16384 * ceilDiv s.2.length 16384) s.2)) (a, n, c)) =
    (a ++ (secs.zipIdx n).flatMap (fun e => leBytes 2 e.1.1 ++ zeros 2 ++ leBytes 4 e.2 ++ leBytes 8 e.1.2.length), n + secs.length,
      c ++ (secs.map (·.2)).flatMap (padTo 16384)) := by
  induction secs generalizing a c n with
  | nil => simp
  | cons x xs ih =>
    have hx := h x (by simp)
    have hc : ceilDiv x.2.length 16384 = 1 := by unfold ceilDiv; omega
    rw [List.foldl_cons, ih (fun y hy => h y (by simp [hy])), hc]
    simp only [List.zipIdx_cons, List.flatMap_cons, List.map_cons, List.length_cons, List.append_assoc, Nat.mul_one]
    rw [Nat.add_assoc n 1, Nat.add_comm 1]
def secs1 : List (Nat × Bytes) := [1, 2, 3, 4, 5, 6, 7, 8, 11].zip segBody
theorem build1_image : buildImage build1 [vec1] = segImage 3 7 := by
  unfold buildImage
  extract_lets vc seed nh hubs hubDirBytes hg bg bm hasBm hasKv secs placed usns hdr
  have hn : nh = 1 := by dsimp only [nh, vc]; decide
  have hh : hubs = [0] := by dsimp only [hubs]; rw [hn]; exact chooseHubs_one seed
  have hs : secs = secs1 := by
    dsimp only [secs]; rw [hh]; decide +kernel
  have hp : placed = ([] ++ (secs1.zipIdx 1).flatMap (fun e => leBytes 2 e.1.1 ++ zeros 2 ++ leBytes 4 e.2 ++ leBytes 8 e.1.2.length),
      1 + secs1.length, [] ++ (secs1.map (·.2)).flatMap (padTo 16384)) := by
    dsimp only [placed]; rw [hs]; exact placed_fold _ (by decide +kernel) _ _ _
  have hd : hdr ++ placed.1 = segHead 3 7 := by
    dsimp only [hdr]
    rw [hp, hs, show max nh 1 = 1 from by rw [hn]; rfl, Nat.mod_one]; decide +kernel
  clear_value hdr
  have h3 : placed.2.2 = segBody.flatMap (padTo 16384) := by
    rw [hp]; dsimp only; rw [List.nil_append, show secs1.map (·.2) = segBody from by decide +kernel]
  clear_value placed
  rw [hd, h3, segImage, List.flatMap_cons]
theorem segM_image : segM (segImage 3 7) = 16 ∧ segBits (segImage 3 7) = 4 ∧ segDim (segImage 3 7) = 16 ∧ segMetric (segImage 3 7) = 0 := by
  decide +kernel
theorem segVec_image : segVec (segImage 3 7) 0 = vec1 := by
  unfold segVec segRecord segExt segAttr segCode segPassage
  rw [segM_image.1, segM_image.2.1, segM_image.2.2.1, segFlags_image,
    segSec_image 1 1 8 _ _ rfl rfl (by decide +kernel) (by omega), segSec_image 3 3 512 _ _ rfl rfl (by decide +kernel) (by omega),
    segSec_image 8 8 32 _ _ rfl rfl (by decide +kernel) (by omega), segSec_image 11 9 64 _ _ rfl rfl (by decide +kernel) (by omega)]
  decide +kernel
/-- A shard whose frozen delta 3 holds that vector, and one whose segment 5 does. -/
def sealSetB : SealSet := ⟨false, 0, 0, 8, 1, 65536⟩
def epochB : Epoch := { epoch0 with num := 0, sealed := [], deltas := [3] }
def jobB (inputs : List Nat) : SealJob := ⟨inputs, 3, 0, 1, 0, [], [], sealSetB, [], false, 0, 0⟩
def buildShard : Shard :=
  { emptyShard 7 0 16 true with epochs := [epochB], deltas := [(3, ⟨zeros 32, 0, 1, 0, [⟨9, 1, zeros 32, 1, 16, zeros 8, List.replicate 16 1⟩]⟩)],
                                sealJob := some (jobB []) }
def buildNode : State := withShard buildShard { zst with codebooks := [codebook0] }
def mergeShard : Shard :=
  { emptyShard 7 0 16 true with epochs := [{ epochB with sealed := [5], deltas := [] }], segs := [(5, { segOf (segImage 3 7) with usns := [1] })],
                                comp := some (jobB [5]) }
def mergeNode : State := withShard mergeShard zst
theorem sealImage_image : buildNode.sealImage buildShard (jobB []) [] = segImage 3 7 := by
  rw [← build1_image]; rfl
theorem compMap_image : mergeShard.compMap (jobB [5]) = [(mkHandle 5 0, 0)] := by
  show ((sortNat [5]).flatMap fun n => (mergeShard.keptOffsets 0 n).map (mkHandle n)).zipIdx = _
  have : mergeShard.keptOffsets 0 5 = [0] := by
    show ((List.range (segVc (segImage 3 7))).filter fun o => decide (0 < mgetD mergeShard.tombs (mkHandle 5 o) usnNever)) = [0]
    rw [segVc_image]; decide
  show ((mergeShard.keptOffsets 0 5).map (mkHandle 5) ++ []).zipIdx = _
  rw [this]; rfl
theorem compImage_image : compImage mergeShard { jobB [5] with offs := mergeShard.compMap (jobB [5]) } 1 = segImage 3 7 := by
  rw [compMap_image]
  have e : ∀ (h : Shard) (j : SealJob) (n : Nat) (i : Bytes), h = mergeShard → j = { jobB [5] with offs := [(mkHandle 5 0, 0)] } → n = 1 →
      i = segImage 3 7 → compImage h j n = buildImage build1 [vec1] := by
    rintro h j n i rfl rfl rfl -
    unfold compImage
    extract_lets j1 imgs i0 spliced model kv sh vec
    have hi : imgs = [(5, segImage 3 7)] := rfl
    have h0 : i0 = segImage 3 7 := rfl
    have hs : spliced = [] := by
      show [(5, segImage 3 7)].filter (fun g => segPassage g.2) = []
      simp only [List.filter_cons, segPassage, segFlags_image]
      rfl
    have hk : kv = false := by dsimp only [kv]; rw [hs]; rfl
    have hv : vec (mkHandle 5 0) = vec1 := by
      dsimp only [vec]
      rw [hi, hk, show (([(5, segImage 3 7)].find? fun g => g.1 == handleSeg (mkHandle 5 0)).map (·.2)).getD [] = segImage 3 7 from rfl,
        show handleOff (mkHandle 5 0) = 0 from by decide, segVec_image]
      rfl
    have hu : mergeShard.outUsns { jobB [5] with offs := [(mkHandle 5 0, 0)] } = [1] := by rfl
    clear_value vec kv
    rw [hk, h0, segM_image.1, segM_image.2.1, segM_image.2.2.1, segM_image.2.2.2,
      show segCodebook (segImage 3 7) = zeros 512 from segSec_image 2 2 512 _ _ rfl rfl (by decide +kernel) (by omega)]
    show buildImage _ [vec (mkHandle 5 0)] = _
    rw [hv]
    exact congrArg (fun p => buildImage p [vec1]) (by rw [build1]; exact congrArg _ hu)
  rw [e _ _ _ _ rfl rfl rfl rfl, build1_image]
theorem imageOk_image (h : Shard) (hi : h.id = 7) (hb : h.segBase = 0) (hc : h.segCount = 16) : h.imageOk (segImage 3 7) 3 = true := by
  unfold Shard.imageOk
  rw [hi, hb, hc, segOk_image]
  decide
theorem length_image : (segImage 3 7).length = 163840 := by rw [segImage, length_pages]; rfl
/-- The same two nodes with a build slice of `cap` bytes on plot 3. -/
def buildPlan (cap : Nat) : State := planned [sliceEnt 3 5 cap 0 0] buildNode
def mergePlan (cap : Nat) : State := planned [sliceEnt 3 5 cap 0 0] mergeNode
theorem sealImage_plan (cap : Nat) : (buildPlan cap).sealImage buildShard (jobB []) [] = segImage 3 7 := by
  rw [← build1_image]; rfl
theorem buildRoom_plan (j : SealJob) (hj : j.built = 0) (ho : j.out = 3) : (buildPlan 4096).buildRoom j (segImage 3 7) = 4096 ∧
    (buildPlan 163840).buildRoom j (segImage 3 7) = 163840 ∧ (mergePlan 4096).buildRoom j (segImage 3 7) = 4096 ∧
    (mergePlan 163840).buildRoom j (segImage 3 7) = 163840 := by
  unfold State.buildRoom
  rw [length_image, hj, ho]
  decide +kernel
theorem placeSeg_plan : (((buildPlan 163840).buildPart 0 false (jobB []) (segImage 3 7)).placeSeg 0 (segImage 3 7)).isSome = true ∧
    (((mergePlan 163840).buildPart 0 true (jobB [5]) (segImage 3 7)).placeSeg 0 (segImage 3 7)).isSome = true := by
  unfold State.buildPart
  rw [(buildRoom_plan (jobB []) rfl rfl).2.1, (buildRoom_plan (jobB [5]) rfl rfl).2.2.2]
  unfold State.placeSeg State.placeBitmaps segBitmaps segPassage segTombPages
  rw [segFlags_image, segNumber_image, segPinned_image, segWinPages_image, segVc_image]
  decide +kernel
theorem seals_written : ((writtenNode.sealExtents 0 [4]).bind fun u => u.putSys 0x20 1 (u.jobRecord 0 false (jobOf 3 []))).isSome = true ∧
    ((replicaNode.sealExtents 0 (recSealed (shortRec 4))).bind fun u => u.putSys 0x20 1 (shortRec 4)).isSome = true := by decide +kernel
theorem bind_parts {α β : Type} {x : Option α} {f : α → Option β} (h : (x.bind f).isSome = true) : ∃ u v, x = some u ∧ f u = some v := by
  cases x with
  | none => cases h
  | some u => exact ⟨u, _, rfl, (Option.isSome_iff_exists.mp h).choose_spec⟩
def freshReplica : State := withShard (emptyShard 7 0 16 false) zst
theorem placeSeg_fresh : (freshReplica.placeSeg 0 (segImage 3 7)).isSome = true := by
  unfold State.placeSeg State.placeBitmaps segBitmaps segPassage segTombPages
  rw [segFlags_image, segNumber_image, segPinned_image, segWinPages_image, segVc_image]
  decide +kernel
theorem witness_SealsAndCompactionsAreBuilt :
    (∃ s h j ps, mget (State.shards s) 0 = some h ∧ h.owner = true ∧ h.sealJob = some j ∧ j.stage = 1 ∧ s.hasSlice (j.out % 16) 5 = true ∧
      j.built + s.buildRoom j (s.sealImage h j ps) < (s.sealImage h j ps).length) ∧
    (∃ s h j ps, mget (State.shards s) 0 = some h ∧ h.owner = true ∧ h.sealJob = some j ∧ j.stage = 1 ∧ s.hasSlice (j.out % 16) 5 = true ∧
      let image := s.sealImage h j ps
      image.length ≤ j.built + s.buildRoom j image ∧ h.imageOk image j.out = true ∧
        ((s.buildPart 0 false j image).placeSeg 0 image).isSome = true) ∧
    (∃ s h j ps, mget (State.shards s) 0 = some h ∧ h.owner = true ∧ h.sealJob = some j ∧ j.stage = 1 ∧ s.hasSlice (j.out % 16) 5 = true ∧
      let image := s.sealImage h j ps
      image.length ≤ j.built + s.buildRoom j image ∧ h.imageOk image j.out = false) ∧
    (∃ s h j, mget (State.shards s) 0 = some h ∧ h.owner = true ∧ h.comp = some j ∧ j.stage = 1 ∧ s.hasSlice (j.out % 16) 5 = true ∧
      let image := compImage h { j with offs := h.compMap j } (h.cur.num + (if h.sealJob.isSome then 2 else 1))
      j.built + s.buildRoom j image < image.length) ∧
    (∃ s h j, mget (State.shards s) 0 = some h ∧ h.owner = true ∧ h.comp = some j ∧ j.stage = 1 ∧ s.hasSlice (j.out % 16) 5 = true ∧
      let image := compImage h { j with offs := h.compMap j } (h.cur.num + (if h.sealJob.isSome then 2 else 1))
      image.length ≤ j.built + s.buildRoom j image ∧ h.imageOk image j.out = true ∧
        ((s.buildPart 0 true j image).placeSeg 0 image).isSome = true) ∧
    (∃ s u v h j, mget (State.shards s) 0 = some h ∧ h.owner = true ∧ h.sealJob = some j ∧ j.stage = 3 ∧ s.sealExtents 0 [j.out] = some u ∧
      u.putSys 0x20 (1 + 0) (u.jobRecord 0 false j) = some v) ∧
    (∃ (s u v : State) (h : Shard) (r : Bytes), mget s.shards 0 = some h ∧ h.owner = false ∧ h.pendEpoch = some r ∧
      s.sealExtents 0 (recSealed r) = some u ∧ u.putSys 0x20 (1 + 0) r = some v) ∧
    ∃ (s : State) (image rec_ : Bytes) (h : Shard), mget s.shards 0 = some h ∧ h.owner = false ∧ h.imageOk image (segNumber image) = true ∧
      s.segAgrees h image = true ∧ (recSeg rec_ (segNumber image)).map (·.2) = some (segmentRoot h.id (segNumber image) image) ∧
      (s.placeSeg 0 image).isSome = true := by
  obtain ⟨u1, v1, h1, h2⟩ := bind_parts seals_written.1
  obtain ⟨u2, v2, h3, h4⟩ := bind_parts seals_written.2
  have hc : compImage mergeShard { jobB [5] with offs := mergeShard.compMap (jobB [5]) } (mergeShard.cur.num + (if mergeShard.sealJob.isSome then 2 else 1)) =
    segImage 3 7 := compImage_image
  have hb := fun (cap : Nat) => sealImage_plan cap
  have r1 := buildRoom_plan (jobB []) rfl rfl
  have r5 := buildRoom_plan (jobB [5]) rfl rfl
  refine ⟨⟨buildPlan 4096, buildShard, jobB [], [], rfl, rfl, rfl, rfl, by decide +kernel, ?_⟩,
    ⟨buildPlan 163840, buildShard, jobB [], [], rfl, rfl, rfl, rfl, by decide +kernel, ?_⟩,
    ⟨planned [sliceEnt 3 5 163840 0 0] (withShard { buildShard with deltas := [] } zst), { buildShard with deltas := [] }, jobB [], [], rfl, rfl, rfl, rfl,
      by decide +kernel, by decide +kernel⟩,
    ⟨mergePlan 4096, mergeShard, jobB [5], rfl, rfl, rfl, rfl, by decide +kernel, ?_⟩,
    ⟨mergePlan 163840, mergeShard, jobB [5], rfl, rfl, rfl, rfl, by decide +kernel, ?_⟩,
    ⟨writtenNode, u1, v1, sealShard (jobOf 3 []), jobOf 3 [], rfl, rfl, rfl, rfl, h1, h2⟩,
    ⟨replicaNode, u2, v2, _, shortRec 4, rfl, rfl, rfl, h3, h4⟩,
    ⟨freshReplica, segImage 3 7, sealRec, emptyShard 7 0 16 false, rfl, rfl, ?_, by decide +kernel, ?_, placeSeg_fresh⟩⟩
  · rw [hb, r1.1, length_image]; decide
  · rw [hb]; exact ⟨by rw [r1.2.1, length_image]; decide, imageOk_image _ rfl rfl rfl, placeSeg_plan.1⟩
  · dsimp only; rw [hc, r5.2.2.1, length_image]; decide
  · dsimp only; rw [hc]; exact ⟨by rw [r5.2.2.2, length_image]; decide, imageOk_image _ rfl rfl rfl, placeSeg_plan.2⟩
  · rw [segNumber_image]; exact imageOk_image _ rfl rfl rfl
  · rw [segNumber_image]; exact sealRec_image

/-! ### Witnesses: flash, tiers and segments -/

theorem witness_FlashReadsComplete :
    (∃ s a, mget (State.flash s).map 100 = some a ∧ mget s.flash.dies (addrDie a) = some die0) ∧
    ∃ s a e, mget (State.flash s).map 100 = some a ∧ mget s.flash.dies (addrDie a) = some die0 ∧ s.extentOf 100 = some e ∧ 0 < s.liveN 0x7010 14 :=
  ⟨⟨flashNode zst, _, rfl, by decide +kernel⟩,
    ⟨{ flashNode zst with flash := { (flashNode zst).flash with extents := [⟨0, 0, 4, 100, 2, false, 2⟩] }, dict := { zst.dict with live := [(dkey 0x7010 14, [1])] } },
      _, ⟨0, 0, 4, 100, 2, false, 2⟩, rfl, by decide +kernel, by decide +kernel, by decide +kernel⟩⟩
/-- Partition 0 has a namespace of 64 log pages and 36 others; a record waits. -/
def logNode (bytes : Nat) (now : Nat) : State :=
  let s := flashNode zst
  { s with step := { s.step with number := now }, log := { zst.log with recs := [recOf 0 1 (zeros bytes) false] }
           dict := { zst.dict with active := [(dkey 0x7040 2, leBytes 4 100), (dkey 0x7040 3, leBytes 4 64)] } }
def journalNode : State := { flashNode zst with flash := { (flashNode zst).flash with journal := [⟨100, 5, 0, 1⟩] } }
def imageWriteNode : State :=
  { withShard (sealShard (jobOf 2 [])) (flashNode zst) with dict := { zst.dict with active := [(dkey 0x7040 2, leBytes 4 65636)] } }
theorem witness_LogAndMapWritesComplete :
    (∃ s p k lpn, (State.pwr s).short = false ∧ (List.range 8).find? s.pageReady = some p ∧ s.dieFor 0x20 true 0 = some k ∧ s.nextLogLpn p = some lpn) ∧
    (∃ s k, (State.pwr s).short = false ∧ (List.range 8).find? s.pageReady = none ∧ s.journalNow ≠ [] ∧ s.dieFor 0x20 true 1 = some k) ∧
    (∃ s : State, s.logOldest 0 = some 0 ∧ s.actN 0x7010 0x0A ≤ s.step.number) ∧
    (∃ s : State, s.flash.ckptNext < 1048576) ∧ (∃ n, n ≤ 1048576) ∧
    ∃ s h j first, mget (State.shards s) 0 = some h ∧ h.owner = true ∧ h.sealJob = some j ∧ j.stage = 2 ∧ s.pwr.short = false ∧
      s.extentFor 0 j.out = none ∧ j.image.length / 16384 ≤ s.freeUnits ∧ s.findRange (s.logPart 0) (j.image.length / 16384) = some first :=
  ⟨⟨logNode 16320 0, 0, 0, 0, rfl, by decide +kernel, by decide +kernel, by decide +kernel⟩,
    ⟨journalNode, 0, rfl, by decide +kernel, by decide +kernel, by decide +kernel⟩,
    ⟨logNode 80 (zst.actN 0x7010 0x0A), by decide +kernel, by decide +kernel⟩, ⟨zst, by decide⟩, ⟨1048576, by decide⟩,
    ⟨imageWriteNode, sealShard (jobOf 2 []), jobOf 2 [], 65536, rfl, rfl, rfl, rfl, rfl, by decide +kernel, by decide +kernel, by decide +kernel⟩⟩
def emptyVictim : Die := { die0 with units := 3, blocks := 3 }
def victimNode : State :=
  { flashNode zst with flash := { (flashNode zst).flash with dies := [(0, emptyVictim)], map := [] }
                       dict := { zst.dict with active := [(dkey 0x7010 1, leBytes 4 1000000)] } }
theorem witness_FlashUpkeepCompletes :
    (∃ s d, mget (State.flash s).dies 0 = some d ∧ s.pwr.short = false ∧ s.dieRuns 0x21 0 0 = true ∧ d.gc = none) ∧
    (∃ s d n, mget (State.flash s).dies 0 = some d ∧ s.pwr.short = false ∧ s.dieRuns 0x21 0 0 = true ∧ d.gc = none ∧
      0 < d.units ∧ (∀ b ∈ d.blks, s.erasable b.2 = false) ∧ s.gcVictim 0 d = some (n, false) ∧ s.validUnits 0 n = []) ∧
    (∃ (s : State) (d : Die) (r : ScrubRead), mget s.flash.dies 0 = some d ∧ s.dieRuns 0x22 0 0 = true ∧ 0 < r.reads ∧
      ceilDiv r.reads 8 ≤ s.roomFor (onDie 0x22 0) (ceilDiv r.reads 8)) ∧
    (∃ s d, mget (State.flash s).dies 0 = some d ∧ d.on = true) ∧ ∃ s d, mget (State.flash s).dies 0 = some d ∧ d.on = false :=
  ⟨⟨flashNode zst, die0, rfl, rfl, by decide +kernel, rfl⟩,
    ⟨victimNode, emptyVictim, 0, rfl, rfl, by decide +kernel, rfl, by decide, by decide +kernel, by decide +kernel, by decide +kernel⟩,
    ⟨flashNode zst, die0, ⟨0, 64, 0, 0, [], []⟩, rfl, by decide +kernel, by decide, by decide +kernel⟩,
    ⟨flashNode zst, die0, rfl, rfl⟩, ⟨{ zst with flash := { zst.flash with dies := [(0, { die0 with on := false })] } }, _, rfl, rfl⟩⟩
def grants (l : List Nat) (s : State) : State := { s with dict := { s.dict with committed := l.map fun g => (dkey 0x2110 g, [1]) } }
def seedling (s : State) : State := { s with step := { s.step with seedling := true } }
theorem witness_TierWorkCompletes :
    (∃ s q, State.grant s 0x0A = true ∧ s.hasSlice 0 3 = true ∧ s.nextPromo 0 = some q ∧ s.tier.wrote.contains q.page = false) ∧
    (∃ s : State, s.grant 0x0A = false ∧ s.hasSlice 0 3 = false ∧ s.nextPromo 0 = none) ∧
    (∃ s : State, s.scrubSlice 0 = none) ∧
    (∃ s plot cap, State.scrubSlice s 0 = some (plot, some cap) ∧ s.step.number < s.tier.scrubAt + s.actN 0x6010 9 ∧ 64 ≤ cap) ∧
    (∃ s plot, State.scrubSlice s 0 = some (plot, none) ∧ s.tier.scrubAt + s.actN 0x6010 9 ≤ s.step.number) ∧
    (∃ s : State, s.grant 0x0B = true ∧ s.tier.repairs.contains (3, 7) = true ∧ s.repairSlice 3 7 = true ∧ s.step.seedling = true) ∧
    ∃ s : State, s.grant 0x0B = true ∧ s.tier.repairs.contains (3, 7) = true ∧ s.repairSlice 3 7 = true ∧ s.step.seedling = false :=
  ⟨⟨grants [0x0A] (planned [sliceEnt 0 3 65536 0 0] { zst with tier := { zst.tier with promos := [⟨0, 0, false, false⟩] } }), ⟨0, 0, false, false⟩,
      by decide +kernel, by decide +kernel, by decide +kernel, by decide⟩,
    ⟨zst, by decide +kernel, by decide +kernel, by decide +kernel⟩,
    ⟨planned [sliceEnt 0 3 65536 0 0] zst, by decide +kernel⟩,
    ⟨planned [sliceEnt 0 2 128 0 0] zst, 0, 128, by decide +kernel, by decide +kernel, by decide⟩,
    ⟨{ seedling zst with step := { (seedling zst).step with number := zst.actN 0x6010 9 } }, 0, rfl, by decide +kernel⟩,
    ⟨grants [0x0B] (seedling { zst with tier := { zst.tier with repairs := [(3, 7)] } }), by decide +kernel, by decide, by decide +kernel, rfl⟩,
    ⟨grants [0x0B] (planned [sliceEnt 3 2 128 0 0] { zst with tier := { zst.tier with repairs := [(3, 7)] } }), by decide +kernel, by decide,
      by decide +kernel, rfl⟩⟩
def imageSeg : Seg := ⟨segImage 3 7, segmentRoot 7 3 (segImage 3 7), false, false, false, [1], []⟩
def otherSeg : Seg := ⟨segImage 3 7, segmentRoot 7 3 (segImage 3 7) ++ [0], false, false, false, [1], []⟩
def loadShard (g : Seg) : Shard := { emptyShard 7 0 16 true with epochs := [epoch0], segs := [(3, g)] }
def loadNode (g : Seg) : State := withShard (loadShard g) zst
theorem segAgrees_image (g : Seg) (h : g = imageSeg ∨ g = otherSeg) : (loadNode g).segAgrees (loadShard g) (segImage 3 7) = true := by
  rcases h with rfl | rfl <;> decide +kernel
theorem segAgrees_grant : (grants [4] (loadNode imageSeg)).segAgrees (loadShard imageSeg) (segImage 3 7) = true := by decide +kernel
theorem placeSeg_loadNode : ((loadNode imageSeg).placeSeg 0 (segImage 3 7)).isSome = true := by
  unfold State.placeSeg State.placeBitmaps segBitmaps segPassage segTombPages
  rw [segFlags_image, segNumber_image, segPinned_image, segWinPages_image, segVc_image]
  decide +kernel
theorem loadNode_segs (g : Seg) : mget (loadNode g).shards 0 = some (loadShard g) ∧ mget (loadShard g).segs 3 = some g ∧ (loadShard g).id = 7 :=
  ⟨rfl, rfl, rfl⟩
theorem segAgrees_loaded : (grants [4] (loadNode { imageSeg with loaded := true })).segAgrees (loadShard { imageSeg with loaded := true })
    (segImage 3 7) = true := by decide +kernel
theorem placeSeg_refetch : (((grants [4] (loadNode imageSeg)).useGrant 4).placeSeg 0 (segImage 3 7)).isSome = true := by
  unfold State.placeSeg State.placeBitmaps segBitmaps segPassage segTombPages
  rw [segFlags_image, segNumber_image, segPinned_image, segWinPages_image, segVc_image]
  decide +kernel
theorem witness_SegmentsEnterAndReenterService :
    (∃ s h g, mget (State.shards s) 0 = some h ∧ mget h.segs 3 = some g ∧ ∃ u, g.loaded = false ∧ h.imageOk g.image 3 = true ∧
      s.segAgrees h g.image = true ∧ segmentRoot h.id 3 g.image = g.root ∧ s.placeSeg 0 g.image = some u) ∧
    (∃ s h g, mget (State.shards s) 0 = some h ∧ mget h.segs 3 = some g ∧ g.loaded = false ∧ h.imageOk g.image 3 = true ∧
      s.segAgrees h g.image = true ∧ segmentRoot h.id 3 g.image ≠ g.root) ∧
    (∃ s h g, mget (State.shards s) 0 = some h ∧ mget h.segs 3 = some g ∧ g.reload.contains 1 = true) ∧
    (∃ s h g image u, mget (State.shards s) 0 = some h ∧ mget h.segs 3 = some g ∧ g.inService = false ∧ s.grant 4 = true ∧
      h.imageOk image 3 = true ∧ s.segAgrees h image = true ∧ segmentRoot h.id 3 image = g.root ∧ g.loaded = true ∧ u = s.useGrant 4) ∧
    (∃ s h g image u, mget (State.shards s) 0 = some h ∧ mget h.segs 3 = some g ∧ g.inService = false ∧ s.grant 4 = true ∧
      h.imageOk image 3 = true ∧ s.segAgrees h image = true ∧ segmentRoot h.id 3 image = g.root ∧ g.loaded = false ∧
        (s.useGrant 4).placeSeg 0 image = some u) ∧
    (∃ s h g image, mget (State.shards s) 0 = some h ∧ mget h.segs 3 = some g ∧ h.imageOk image 3 = false) ∧
    (∃ s h g image, mget (State.shards s) 0 = some h ∧ mget h.segs 3 = some g ∧ s.segAgrees h image = false) ∧
    ∃ s h g image, mget (State.shards s) 0 = some h ∧ mget h.segs 3 = some g ∧ segmentRoot h.id 3 image ≠ g.root := by
  obtain ⟨a1, a2, -⟩ := loadNode_segs imageSeg
  obtain ⟨b1, b2, -⟩ := loadNode_segs otherSeg
  have ok : ∀ g, (loadShard g).imageOk (segImage 3 7) 3 = true := fun g => imageOk_image (loadShard g) rfl rfl rfl
  have ne : segmentRoot 7 3 (segImage 3 7) ≠ otherSeg.root := by
    intro h; have := congrArg List.length h; simp [otherSeg] at this
  refine ⟨?_, ?_, ?_, ?_, ?_, ?_, ?_, ?_⟩
  · obtain ⟨u, hu⟩ := Option.isSome_iff_exists.mp placeSeg_loadNode
    exact ⟨loadNode imageSeg, loadShard imageSeg, imageSeg, a1, a2, u, rfl, ok imageSeg, segAgrees_image _ (.inl rfl),
      by simp only [imageSeg]; rfl, hu⟩
  · exact ⟨loadNode otherSeg, loadShard otherSeg, otherSeg, b1, b2, rfl, ok otherSeg, segAgrees_image _ (.inr rfl), ne⟩
  · exact ⟨loadNode imageSeg, loadShard imageSeg, imageSeg, a1, a2, rfl⟩
  · obtain ⟨c1, c2, -⟩ := loadNode_segs { imageSeg with loaded := true }
    exact ⟨grants [4] (loadNode { imageSeg with loaded := true }), loadShard { imageSeg with loaded := true }, { imageSeg with loaded := true },
      segImage 3 7, _, c1, c2, rfl, by decide +kernel, imageOk_image _ rfl rfl rfl, segAgrees_loaded, by simp only [imageSeg]; rfl, rfl, rfl⟩
  · obtain ⟨u, hu⟩ := Option.isSome_iff_exists.mp placeSeg_refetch
    exact ⟨grants [4] (loadNode imageSeg), loadShard imageSeg, imageSeg, segImage 3 7, u, a1, a2, rfl, by decide +kernel, ok imageSeg,
      segAgrees_grant, by simp only [imageSeg]; rfl, rfl, hu⟩
  · exact ⟨loadNode imageSeg, loadShard imageSeg, imageSeg, [], a1, a2, by decide +kernel⟩
  · exact ⟨loadNode imageSeg, loadShard imageSeg, imageSeg, [], a1, a2, by decide +kernel⟩
  · exact ⟨loadNode otherSeg, loadShard otherSeg, otherSeg, segImage 3 7, b1, b2, ne⟩
def importShard : Shard := emptyShard 7 0 16 false
def importNode : State := withShard importShard zst
theorem importNode_shard : mget importNode.shards 0 = some importShard ∧ importShard.id = 7 ∧ importShard.owner = false := ⟨rfl, rfl, rfl⟩
theorem placeSeg_importNode : (importNode.placeSeg 0 (segImage 3 7)).isSome = true := by
  unfold State.placeSeg State.placeBitmaps segBitmaps segPassage segTombPages
  rw [segFlags_image, segNumber_image, segPinned_image, segWinPages_image, segVc_image]
  decide +kernel
/-- The last clause of SealsAndCompactionsAreBuilt. -/
theorem witness_SealsAndCompactionsAreBuilt_image : ∃ s h image rec_, mget (State.shards s) 0 = some h ∧ h.owner = false ∧
    h.imageOk image (segNumber image) = true ∧ s.segAgrees h image = true ∧
    (recSeg rec_ (segNumber image)).map (·.2) = some (segmentRoot h.id (segNumber image) image) ∧ (s.placeSeg 0 image).isSome = true := by
  refine ⟨importNode, importShard, segImage 3 7, sealRec, importNode_shard.1, importNode_shard.2.2, ?_, ?_, ?_, placeSeg_importNode⟩
  · rw [segNumber_image]; exact imageOk_image _ rfl rfl rfl
  · decide +kernel
  · rw [segNumber_image]; exact sealRec_image

/-! ### Witnesses: steps, power, agents -/

def on : State := { zst with pwr := { zst.pwr with boot := .running }, step := { zst.step with running := true } }
def withLive (l : List (Nat × Bytes)) (s : State) : State := { s with dict := { s.dict with live := l } }
def withCommitted (l : List (Nat × Bytes)) (s : State) : State := { s with dict := { s.dict with committed := l } }
def withActive (l : List (Nat × Bytes)) (s : State) : State := { s with dict := { s.dict with active := l } }
def at_ (n : Nat) (s : State) : State := { s with step := { s.step with number := n } }
def holding (s : State) : State := { s with step := { s.step with held := true } }
def closed (s : State) : State := { s with step := { s.step with open_ := false } }
theorem witness_BoundariesCountSteps :
    (∃ s : State, s.pwr.boot = .running ∧ s.step.held = false ∧ s.step.number + 1 < maxStep) ∧
    (∃ s : State, s.pwr.boot = .running ∧ s.step.held = false ∧ s.step.open_ = false ∧ s.step.number + 1 = maxStep) ∧
    (∃ s : State, s.step.held = true) ∧ ∃ s : State, s.step.number = maxStep ∧ s.step.limit = false :=
  ⟨⟨at_ (maxStep - 2) on, rfl, rfl, by decide⟩, ⟨closed (at_ (maxStep - 1) on), rfl, rfl, rfl, by decide⟩, ⟨holding zst, rfl⟩,
    ⟨at_ maxStep zst, rfl, rfl⟩⟩
theorem witness_StepsClose : (∃ s : State, s.pwr.boot = .running ∧ s.step.open_ = true) ∧ (∃ s : State, s.pwr.boot ≠ .running) ∧
    ∃ s : State, s.pwr.boot = .running ∧ s.step.open_ = false :=
  ⟨⟨{ on with step := { on.step with open_ := true } }, rfl, rfl⟩, ⟨zst, by decide⟩, ⟨closed on, rfl, rfl⟩⟩
/-- A plan of one engine slot and one route entry, both of template 0. -/
def onePlan : Plan := ⟨List.replicate 13 0 ++ [1, 0, 0] ++ List.replicate 13 0 ++ [1, 0, 0], 1, 1000, 4, 10, zeros 32, [⟨1, 1, 0⟩, ⟨3, 1, 16⟩]⟩
def oneSlot (s : State) : State :=
  { s with step := { s.step with plan := some ⟨[onePlan], zeros 32⟩, seedling := false }, node := { s.node with plots := 65535 } }
theorem witness_PlannedActionsComplete :
    (∃ (s : State) (e : EngSlot), (((s.tierPlan).map Plan.engines).getD [])[0]? = some e ∧ e.template = s.template ∧ s.plotServes e.plot = true ∧
      s.spillUsed e.plot = false) ∧
    (∃ (s : State) (e : EngSlot), (((s.tierPlan).map Plan.engines).getD [])[0]? = some e ∧ e.template = s.template ∧ s.plotServes e.plot = true ∧
      s.spillUsed e.plot = true) ∧
    (∃ (s : State) (e : Nat), s.routeAt 0 = some e ∧ bitsOf e 127 116 = s.template) ∧
    ∃ (s : State) (e : Nat) (r : RouteRetry), s.routeAt 0 = some e ∧ bitsOf e 20 9 = s.template ∧
      s.step.retries.find? (fun r => r.route == 0 && decide (r.at_ < s.step.number)) = some r :=
  ⟨⟨oneSlot zst, _, rfl, by decide +kernel, by decide +kernel, by decide +kernel⟩,
    ⟨oneSlot { zst with step := { zst.step with spill := 65535 } }, _, rfl, by decide +kernel, by decide +kernel, by decide +kernel⟩,
    ⟨oneSlot zst, _, rfl, by decide +kernel⟩,
    ⟨oneSlot { zst with step := { zst.step with number := 4, retries := [⟨0, 4, []⟩, ⟨0, 3, [7]⟩] } }, _, ⟨0, 3, [7]⟩, rfl, by decide +kernel, rfl⟩⟩
def setOf (p : List Plan) : PlanSet := ⟨p, zeros 32⟩
def embDesc : Bytes := zeros 4 ++ [9, 0, 1, 1] ++ leBytes 4 4 ++ leBytes 2 1 ++ [1, 0] ++ zeros 24
def embTab : EmbTab :=
  { desc := embDesc, digest := [], part := 0, state := 2, rows := [⟨0, 0, 0, 0, 0, [0], [], []⟩], last := 0, batches := [], running := [], final := [], commits := [],
    warned := [], counts := [], places := [], move := some ⟨0, 3, 2, [], 0⟩ }
def ringOf (part : Nat) : Ring := ⟨4, 5, part, false, 0, 0, 1, 0, 0, 0, 1, 0, 0, false⟩
def partOn : List (Nat × Bytes) := [(dkey 0x9100 1, [1, 0]), (dkey 0x9100 2, [1] ++ zeros 31)]
def slotEntry (typ : Nat) : Nat := typ * 2 ^ 104 + 1 * 2 ^ 56
def admitNode (kind : Nat) : State :=
  { withActive partOn zst with
    rings := [(0, ringOf 0)]
    node := { zst.node with plots := 1, tillers := 1 }
    mem := [(ringAddr 0 0 0, BitVec.ofNat 8 kind), (ringAddr 0 0 0 + 2, 1)] }
def replay0 : Replay := ⟨9, ⟨[], workK 1, 0, false, 0⟩, 0, 0, 1, 0, 1, 1⟩
def tenant (x : Switch) (s : State) : State := { s with parts := [(7, ⟨some x, none, none, 0⟩)] }
def rejoinAt (n : Nat) (s : State) : State := withCommitted [(dkey 0xB040 5, [1] ++ zeros 31), (dkey 0xB040 6, leBytes 8 n)] s
def dueItems : List (State × BItem) := [
  ({ zst with step := { zst.step with armed := true, staged := some (setOf []) } }, .planDrain),
  ({ zst with step := { zst.step with armed := true, staged := some (setOf []) } }, .planActivate),
  ({ zst with models := [(0, ⟨zeros 256, some (zeros 256), 0, false, 0⟩)] }, .modelActivate 0),
  (at_ 7 { zst with dict := { zst.dict with committed := [(dkey 0x8113 3, leBytes 8 7)] } }, .gateTakeover 19),
  (seedling (tenant ⟨0, 5, 2, 0, []⟩ (at_ 3 zst)), .tenantDrain 7),
  (tenant ⟨0, 3, 2, 0, []⟩ (at_ 3 zst), .tenantSwitch 7),
  (at_ 100000000 { zst with parts := [(0, ⟨none, some ⟨0, 0, 2, 3⟩, some 0, 0⟩)] }, .tenantScrubEnd 0),
  ({ zst with node := { zst.node with plots := 32768, faults := [(0, 15, 65535)] } }, .plotLimit 15),
  (seedling <| withShard { sealShard (jobOf 0 []) with sealJob := none } { zst with codebooks := [codebook0], dict := { zst.dict with active := [(dkey 0x3040 1, leBytes 4 1), (dkey 0x3200 1, zeros 32)] } }, .sealFreeze 0),
  (withShard (sealShard (jobOf 4 [])) zst, .sealSwitch 0),
  (withShard { emptyShard 7 0 16 false with pendEpoch := some [], pendDone := true } zst, .replicaSwitch 0),
  (withShard { shardOf [] with id := 7 } { zst with codebooks := [codebook0], dict := { zst.dict with active := [(dkey 0x3200 1, zeros 32)] } }, .deltaOpen 0),
  (withShard { shardOf (countImage 2) with tombs := [(mkHandle 3 0, 0)], segs := [(3, { segOf (countImage 2) with inService := true })] } { zst with dict := { zst.dict with active := [(dkey 0x3043 3, [1])] } }, .compactChoose 0),
  (withShard (compShard (jobOf 4 [])) zst, .compactSwitch 0),
  (at_ 1000000000000 (withShard { shardOf [] with epochs := [{ epoch0 with num := 0, superseded := some 0 }, epoch0] } zst), .epochRelease 0 0),
  (at_ 100000000 zst, .loadWindow), (at_ 100000000 zst, .placeWindow),
  ({ zst with tier := { zst.tier with demote := [3] } }, .pageDemote),
  ({ zst with tier := { zst.tier with promos := [⟨3, 0, true, false⟩] } }, .promotionSwitch 0),
  ({ zst with embs := [(0, embTab)] }, .embSwitch 0),
  (withShard { shardOf [] with owner := false, state := 1 } zst, .rejoinLoaded 0),
  (rejoinAt 0 (withShard { shardOf [] with state := 2 } zst), .rejoinAdmit),
  (admitNode 1, .accept (slotEntry 0) 0), (admitNode 3, .accept (slotEntry 0) 0),
  ({ admitNode 1 with ledger := { zst.ledger with replays := [replay0] } }, .accept (slotEntry 0) 0)]
def agendaOf (x : State × BItem) : State := { x.1 with step := { x.1.step with agenda := [x.2] } }
theorem test_agenda_items_fall_due : dueItems.all (fun x => (agendaOf x).due x.2) = true := by decide +kernel
/-- A slot whose image alone takes more than the weight region of SEARCH. -/
def drainNode (n : Nat) : State :=
  { withActive partOn zst with models := [(0, ⟨zeros n, some (zeros 256), 0, false, 0⟩)], step := { zst.step with agenda := [.modelDrain 0] } }
theorem u8_zeros (n o : Nat) : u8 (zeros n) o = 0 := by
  unfold u8 sl zeros
  rw [List.drop_replicate, List.take_replicate]
  cases hm : min 1 (n - o) with
  | zero => rfl
  | succ k => have : k = 0 := by omega
              subst this; rfl
theorem drainNode_due (n : Nat) (h : 268435456 < n) : (drainNode n).due (.modelDrain 0) = true := by
  have fit : (drainNode n).modelsFit ((drainNode n).liveN 0x5400 1) true = false := by
    rw [show (drainNode n).liveN 0x5400 1 = 0 from rfl]
    cases hf : (drainNode n).modelsFit 0 true with
    | false => rfl
    | true =>
      exfalso
      unfold State.modelsFit at hf
      have h0 := of_decide_eq_true (List.all_eq_true.mp hf 0 (by decide))
      unfold State.weightsOn at h0
      have till : (drainNode n).tillTensors (zeros n) = [] := by
        unfold State.tillTensors; rw [u8_zeros]; rfl
      have share : (drainNode n).weightShare 0 (zeros n) = n := by
        unfold State.weightShare State.residentBytes
        rw [till, show (drainNode n).actN (0x9100 + 0) 1 = (withActive partOn zst).actN 0x9100 1 from rfl,
          show max 1 (popCount ((withActive partOn zst).actN 0x9100 1) 16) = 1 from by decide +kernel]
        simp [ceilDiv, zeros, sumNat]
      have here : ((drainNode n).models.filter fun m => (drainNode n).partOfPlot 0 == some m.2.part) = (drainNode n).models := by
        rw [show (drainNode n).partOfPlot 0 = (withActive partOn zst).partOfPlot 0 from rfl,
          show (withActive partOn zst).partOfPlot 0 = some 0 from by decide +kernel]
        rfl
      rw [here, show (drainNode n).models = [(0, ⟨zeros n, some (zeros 256), 0, false, 0⟩)] from rfl] at h0
      simp only [List.map_cons, List.map_nil, share, sumNat, List.foldl_cons, List.foldl_nil, weightMib] at h0
      simp at h0
      omega
  show (true && true && true && !(drainNode n).modelsFit ((drainNode n).liveN 0x5400 1) true) = true
  rw [fit]; rfl
/-- A SEARCH of shard 7 with a block of its own, and a GENERATE of one token, at the head of a ring that admits them. -/
def admBlock : Bytes := leBytes 2 1 ++ leBytes 2 8 ++ leBytes 4 64 ++ leBytes 4 16 ++ leBytes 2 1 ++ zeros 146
def searchDesc : Bytes :=
  [1, 2] ++ leBytes 2 5 ++ leBytes 4 0 ++ leBytes 8 9 ++ leBytes 4 224 ++ leBytes 2 32 ++ zeros 2 ++ leBytes 4 32 ++ zeros 36 ++
    admBlock ++ leBytes 2 1 ++ zeros 14 ++ leBytes 4 7 ++ zeros 12 ++ zeros 32 ++ zeros 32
def genDesc : Bytes :=
  [3, 0] ++ leBytes 2 3 ++ leBytes 4 0 ++ leBytes 8 9 ++ leBytes 4 96 ++ zeros 44 ++
    [0, 0, 0, 0, 0xFF, 0xFF, 1, 0] ++ leBytes 2 1 ++ zeros 46 ++ [0xFF] ++ zeros 71
def admRing0 : Ring := { ringOf 0 with log2 := 10, sTail := 5 }
def admRing (d : Bytes) (s : State) : State :=
  { withActive partOn s with rings := [(0, admRing0)], node := { s.node with plots := 1, tillers := 1 }
                             mem := Memory.writeN s.mem (ringAddr 0 0 0) d }
def servedShard : Shard := { shardOf (segImage 3 7) with segs := [(3, { segOf (segImage 3 7) with loaded := true })] }
def admitSearch : State := admRing searchDesc (withShard servedShard (seedling zst))
def genKindRec : Bytes := [0, 0, 0, 0] ++ leBytes 2 1 ++ leBytes 2 1 ++ leBytes 4 64 ++ leBytes 4 1 ++ zeros 48
def genPlan : Plan :=
  ⟨zeros 6 ++ leBytes 2 1 ++ zeros 56 ++ genKindRec ++ zeros 7 ++ leBytes 4 1 ++ zeros 5, 0, 1000, 4, 10, zeros 32, [⟨8, 1, 0⟩, ⟨5, 1, 128⟩]⟩
def genImage0 : Bytes := zeros 6 ++ [4] ++ zeros 133 ++ leBytes 4 64 ++ zeros 112
def admitGen : State :=
  let s := admRing genDesc { zst with models := [(0, ⟨genImage0, none, 0, false, 0⟩)] }
  { s with step := { s.step with seedling := false, plan := some ⟨[genPlan], zeros 32⟩ } }
theorem admits_search : (agendaOf (admitSearch, .accept (slotEntry 0) 0)).admits (admSlotOf (slotEntry 0)) 0 admRing0 searchDesc := by
  refine ⟨by decide +kernel, by decide, by decide +kernel, by decide +kernel, rfl, rfl, by decide, by decide +kernel, by decide +kernel,
    by decide +kernel, by decide +kernel, by decide +kernel, by decide +kernel, by decide +kernel, by decide +kernel, by decide +kernel, ?_, ?_,
    by decide +kernel, by decide +kernel, ?_, by decide +kernel, by decide +kernel, by decide +kernel, by decide +kernel⟩
  · intro _; decide +kernel
  · intro h; revert h; decide +kernel
  · intro c hc; rcases Option.some.inj hc with rfl; decide +kernel
theorem admits_gen : (agendaOf (admitGen, .accept (slotEntry 0) 0)).admits (admSlotOf (slotEntry 0)) 0 admRing0 genDesc := by
  refine ⟨by decide +kernel, by decide, by decide +kernel, by decide +kernel, rfl, rfl, by decide, by decide +kernel, by decide +kernel,
    by decide +kernel, by decide +kernel, by decide +kernel, by decide +kernel, by decide +kernel, by decide +kernel, by decide +kernel, ?_, ?_,
    by decide +kernel, by decide +kernel, ?_, by decide +kernel, by decide +kernel, by decide +kernel, by decide +kernel⟩
  · intro h; revert h; decide +kernel
  · intro _; decide +kernel
  · intro c hc; rcases Option.some.inj hc with rfl; decide +kernel
/-- Nodes whose seal and whose compaction have built `segImage 3 7`, with a log that has room, and one whose delta freezes. -/
def sealsShard : Shard := { sealShard (jobOf 4 (segImage 3 7)) with epochs := [{ epoch0 with num := 0, sealed := [], deltas := [4] }] }
def mergesShard : Shard := { compShard (jobOf 4 (segImage 3 7)) with epochs := [{ epoch0 with num := 0 }] }
def sealsNode : State := agendaOf (roomy (withShard sealsShard zst), .sealSwitch 0)
def mergesNode : State := agendaOf (roomy (withShard mergesShard zst), .compactSwitch 0)
def freezeNode : State :=
  agendaOf (roomy (withShard { sealShard (jobOf 0 []) with sealJob := none }
    { zst with codebooks := [codebook0], dict := { zst.dict with active := [(dkey 0x3040 1, leBytes 4 1), (dkey 0x3200 1, zeros 32)] } }), .sealFreeze 0)
theorem segEpoch_image : segEpoch (segImage 3 7) = 1 := by decide +kernel
theorem placeSeg_switch : (({ sealsNode with step := { sealsNode.step with agenda := [] } } : State).placeSeg 0 (segImage 3 7)).isSome = true ∧
    (({ mergesNode with step := { mergesNode.step with agenda := [] } } : State).placeSeg 0 (segImage 3 7)).isSome = true := by
  unfold State.placeSeg State.placeBitmaps segBitmaps segPassage segTombPages
  rw [segFlags_image, segNumber_image, segPinned_image, segWinPages_image, segVc_image]
  decide +kernel
theorem witness_AgendaCommandsRunTheirItems_switches :
    (∃ s h d n cb, State.firstDue s (.sealFreeze 0) [] ∧ mget s.shards 0 = some h ∧ h.open_ = some d ∧ h.freeSegment = some n ∧
      s.deltaCb 0 = some cb ∧ s.logRoom 128 = true) ∧
    (∃ s h j v, State.firstDue s (.sealSwitch 0) [] ∧ mget s.shards 0 = some h ∧ h.sealJob = some j ∧ s.logRoom (epochRoomBytes h) = true ∧
      segEpoch j.image = h.cur.num + 1 ∧ ({ s with step := { s.step with agenda := [] } } : State).placeSeg 0 j.image = some v) ∧
    (∃ s h r v, State.firstDue s (.replicaSwitch 0) [] ∧ mget s.shards 0 = some h ∧ h.pendEpoch = some r ∧
      ({ s with step := { s.step with agenda := [] } } : State).placeSeg 0
        ((mget h.images (((recSealed r).filter fun n => !h.cur.sealed.contains n).headD 0)).getD
          (((mget h.segs (((recSealed r).filter fun n => !h.cur.sealed.contains n).headD 0)).map (·.image)).getD [])) = some v) ∧
    ∃ s h j v, State.firstDue s (.compactSwitch 0) [] ∧ mget s.shards 0 = some h ∧ h.comp = some j ∧ s.logRoom (epochRoomBytes h) = true ∧
      segEpoch j.image = h.cur.num + 1 ∧ ({ s with step := { s.step with agenda := [] } } : State).placeSeg 0 j.image = some v := by
  obtain ⟨v1, h1⟩ := Option.isSome_iff_exists.mp placeSeg_switch.1
  obtain ⟨v2, h2⟩ := Option.isSome_iff_exists.mp placeSeg_switch.2
  refine ⟨⟨freezeNode, _, 4, 0, zeros 32, ⟨rfl, by decide +kernel⟩, rfl, rfl, by decide +kernel, by decide +kernel, by decide +kernel⟩,
    ⟨sealsNode, sealsShard, _, v1, ⟨rfl, by decide +kernel⟩, rfl, rfl, by decide +kernel, segEpoch_image, h1⟩,
    ⟨agendaOf (withShard { emptyShard 7 0 16 false with pendEpoch := some [], pendDone := true } zst, .replicaSwitch 0), _, [], _,
      ⟨rfl, by decide +kernel⟩, rfl, rfl, rfl⟩,
    ⟨mergesNode, mergesShard, _, v2, ⟨rfl, by decide +kernel⟩, rfl, rfl, by decide +kernel, segEpoch_image, h2⟩⟩
theorem witness_AgendaCommandsRunTheirItems :
    (∀ x ∈ dueItems, ∃ s : State, s.firstDue x.2 []) ∧ (∃ s : State, s.firstDue (.modelDrain 0) []) ∧ (∃ (s : State) (x : Replay), s.ledger.replays = [x]) ∧
    (∃ (s : State) (e r : Nat) (q : Ring) (d : Bytes), s.firstDue (.accept e r) [] ∧ s.admits (admSlotOf e) r q d ∧ dKind d = 1) ∧
    (∃ (s : State) (e r : Nat) (q : Ring) (d : Bytes), s.firstDue (.accept e r) [] ∧ s.admits (admSlotOf e) r q d ∧ dKind d = 3 ∧
      s.cacheUsed q.part + s.blockBytes q.part (s.modelImage (gModel (d.drop 64))) (ownBlocks (d.drop 64)) ≤ 8589934592) ∧
    ∃ (s : State) (e r : Nat) (x : Replay), s.firstDue (.accept e r) [] ∧ s.admitKind e r = 9 ∧ s.replayFor (admSlotOf e) r = some x :=
  ⟨fun x h => ⟨agendaOf x, rfl, List.all_eq_true.mp test_agenda_items_fall_due x h⟩, ⟨drainNode 268435457, rfl, drainNode_due _ (by decide)⟩,
    ⟨{ zst with ledger := { zst.ledger with replays := [replay0] } }, replay0, rfl⟩,
    ⟨agendaOf (admitSearch, .accept (slotEntry 0) 0), slotEntry 0, 0, admRing0, searchDesc, ⟨rfl, by decide +kernel⟩, admits_search, rfl⟩,
    ⟨agendaOf (admitGen, .accept (slotEntry 0) 0), slotEntry 0, 0, admRing0, genDesc, ⟨rfl, by decide +kernel⟩, admits_gen, rfl, by decide +kernel⟩,
    ⟨agendaOf ({ admitNode 1 with ledger := { zst.ledger with replays := [replay0] } }, .accept (slotEntry 0) 0), slotEntry 0, 0, replay0,
      ⟨rfl, by decide +kernel⟩, by decide +kernel, by decide +kernel⟩⟩
theorem witness_LossesOfPowerKeepWhatIsDurable : (∃ s : State, s.pwr.boot = .running) ∧ ∃ s : State, s.pwr.boot = .waitClock :=
  ⟨⟨on, rfl⟩, ⟨{ zst with pwr := { zst.pwr with boot := .waitClock } }, rfl⟩⟩
/-- A running node whose set holds plans of tiers 0 and 2 and whose admission follows tier `a`. -/
def tiered (a : Nat) (s : State) : State :=
  { s with step := { s.step with plan := some ⟨[⟨[], 0, 1000, 1, 10, zeros 32, []⟩, ⟨[], 2, 1250, 1, 10, zeros 32, []⟩], zeros 32⟩,
                                 seedling := false, admTier := a, tier := 0, wantTier := none, demand := none } }
theorem witness_TierDemandsComplete :
    (∃ s : State, s.pwr.boot = .running ∧ s.step.seedling = false ∧ s.holdsTier 2 = true ∧ s.step.demand = none ∧ s.step.wantTier = none ∧
      s.step.admTier ≠ 2) ∧
    (∃ s : State, s.pwr.boot = .running ∧ s.step.seedling = false ∧ s.step.demand ≠ some 2 ∧ s.node.handAlive = true ∧ s.grant 3 = true) ∧
    (∃ s : State, s.pwr.boot = .running ∧ s.step.seedling = false ∧ s.step.demand ≠ some 2 ∧ s.node.handAlive = true ∧ s.grant 3 = false) ∧
    ∃ s : State, s.pwr.boot = .running ∧ s.step.seedling = false ∧ s.step.wantTier = some 2 ∧ s.pwr.clamp = false ∧ s.tierReady 2 = true ∧
      s.step.tier ≠ 2 :=
  ⟨⟨tiered 0 on, rfl, rfl, rfl, rfl, rfl, by decide⟩,
    ⟨withCommitted [(dkey 0x2110 3, [1])] (tiered 0 on), rfl, rfl, by decide, rfl, by decide +kernel⟩,
    ⟨tiered 0 on, rfl, rfl, by decide, rfl, by decide +kernel⟩,
    ⟨{ tiered 2 on with step := { (tiered 2 on).step with wantTier := some 2 } }, rfl, rfl, rfl, rfl, by decide +kernel, by decide⟩⟩
theorem witness_ClampsVoltagesAndHoldEnergy :
    (∃ s : State, s.pwr.boot = .running ∧ bit s.node.plots 15 = true ∧
      mgetD s.pwr.vcore 15 (vcoreWindow s.step.tier).2 < (vcoreWindow s.step.tier).2) ∧
    (∃ (s : State) (v1 v2 : Nat), s.pwr.boot = .running ∧ s.node.handAlive = true ∧ s.liveN 0xA010 7 + 100 ≤ s.liveN 0xA010 6 ∧
      s.pwr.capAt + s.actN 0xA010 8 ≤ s.step.number ∧ 8600 ≤ holdCap v1 v2) ∧
    (∃ s : State, s.pwr.boot = .running ∧ s.pwr.clamp = false) ∧
    (∃ s : State, s.pwr.boot = .running ∧ s.pwr.clamp = true ∧ s.actN 0xA030 4 ≤ s.pwr.cool ∧ s.step.seedling = false ∧ s.step.demand = none) ∧
    ∃ s : State, s.pwr.boot = .running ∧ s.step.seedling = false :=
  ⟨⟨{ on with node := { on.node with plots := 32768 }, pwr := { on.pwr with vcore := [(15, (vcoreWindow on.step.tier).1)] } }, rfl, by decide, by decide +kernel⟩,
    ⟨at_ 450000000 (withLive [(dkey 0xA010 6, leBytes 4 100), (dkey 0xA010 7, leBytes 4 0)] on), 48000, 47800, rfl, rfl, by decide +kernel,
      by decide +kernel, by decide⟩,
    ⟨on, rfl, rfl⟩,
    ⟨{ tiered 0 on with pwr := { on.pwr with clamp := true, cool := 1250 } }, rfl, rfl, by decide +kernel, rfl, rfl⟩, ⟨tiered 0 on, rfl, rfl⟩⟩
def crew : State :=
  { on with node := { on.node with bars := 15, strings := 65535, gateStrings := 15, gates := 15, restart := 2 ^ 23 + 2 ^ 4 + 2 ^ 3, handAlive := true
                                   handDie := 0, g0Lost := false } }
theorem witness_LossesOfAgentsComplete :
    (∃ s : State, bit s.node.bars 3 = true ∧ bit s.node.strings 15 = true ∧ bit s.node.gateStrings 3 = true ∧ s.node.handAlive = true ∧
      s.node.handDie = 0 ∧ s.node.g0Lost = false ∧ s.pwr.boot = .running ∧ s.step.sequencer = 0 ∧ bit s.node.gates 0 = true ∧
      bit s.node.gates 3 = true ∧ s.grant 1 = false) ∧
    (∃ s : State, s.node.g0Lost = false ∧ s.pwr.boot = .running ∧ s.step.sequencer = 0 ∧ bit s.node.gates 0 = true ∧
      (s.grant 1 && bit s.node.gates 2) = true) ∧
    (∃ s : State, s.node.g0Lost = false ∧ s.pwr.boot = .running ∧ s.step.sequencer = 2 ∧ bit s.node.gates 0 = true) ∧
    (∃ s : State, bit s.node.restart (8 + 15) = true ∧ bit s.node.restart (4 + 0) = true ∧ bit s.node.restart 3 = true ∧
      bit s.node.gates 0 = true ∧ bit s.node.gates 3 = true ∧ s.grant 2 = true) ∧
    (∃ (s : State) (x : AltBoot), s.node.altStarting = true ∧ x.verified = true) ∧
    (∃ (s : State) (x : AltBoot), s.node.altStarting = true ∧ x.verified = false ∧ bit (s.liveN 0x9020 2) 1 = true) ∧
    ∃ (s : State) (x : AltBoot), s.node.altStarting = true ∧ x.verified = false ∧ bit (s.liveN 0x9020 2) 1 = false :=
  ⟨⟨crew, by decide, by decide, by decide, rfl, rfl, rfl, rfl, rfl, by decide, by decide, by decide +kernel⟩,
    ⟨withCommitted [(dkey 0x2110 1, [1])] crew, rfl, rfl, rfl, by decide, by decide +kernel⟩,
    ⟨{ crew with step := { crew.step with sequencer := 2 } }, rfl, rfl, rfl, by decide⟩,
    ⟨withCommitted [(dkey 0x2110 2, [1])] crew, by decide, by decide, by decide, by decide, by decide, by decide +kernel⟩,
    ⟨{ crew with node := { crew.node with altStarting := true } }, ⟨true, true⟩, rfl, rfl⟩,
    ⟨withLive [(dkey 0x9020 2, [2])] { crew with node := { crew.node with altStarting := true } }, ⟨false, true⟩, rfl, rfl, by decide +kernel⟩,
    ⟨{ crew with node := { crew.node with altStarting := true } }, ⟨false, true⟩, rfl, rfl, by decide +kernel⟩⟩

/-! ### Witnesses: host, field network, dictionary, traffic -/

def outItem (p : Nat) : TxItem := ⟨p, 7, .hedge 1 (zeros 244), 0, 0, none⟩
def qpair : QPair := ⟨false, 0, 2, 1024, 0, 0, 0, [6, 7, 8].map fun n => (n, outItem 16), 0, 3, 0, 64, 0, 0, some 5, false, 0, 0, none, 0, 0, 0⟩
/-- Ethernet port 0 with its link up and queue pair 5 on it, in the given state. -/
def hosted (q : QPair) : State := { withLive [(dkey 0x8040 6, [1])] zst with qps := [(5, q)], rings := [(0, ringOf 0)] }
theorem takes_rdma : (hosted qpair).takesRdma 5 qpair true := ⟨rfl, rfl, by decide, by decide, by decide +kernel, rfl⟩
def ringBase : BitVec 64 := 0x4000000000000000
def bellTail : BitVec 64 := 0x4000800000000000
def bellHead : BitVec 64 := 0x4000800000000008
theorem witness_HostAccessesComplete_write :
    ∃ (s : State) (q : QPair) (a : BitVec 64) (b : Bytes), Memory.wf s.mem = true ∧ s.takesRdma 5 q true ∧ s.gates (16 + q.port) 1 = [] ∧ b ≠ [] ∧
      faRegion a.toNat = 4 ∧ s.refusal 5 a.toNat b.length true = none ∧ bitsOf a.toNat 47 46 ≠ 2 :=
  ⟨hosted qpair, qpair, ringBase + 1023, [9], by decide, takes_rdma, by decide +kernel, by decide, by decide +kernel, by decide +kernel, by decide +kernel⟩
theorem witness_HostAccessesComplete_refused :
    ∃ (s : State) (q : QPair) (a : BitVec 64) (b : Bytes) (e : Nat), Memory.wf s.mem = true ∧ s.takesRdma 5 q true ∧
      s.gates (16 + q.port) 1 = [] ∧ b ≠ [] ∧ faRegion a.toNat = 4 ∧ s.refusal 5 a.toNat b.length true = some e :=
  ⟨hosted qpair, qpair, ringBase + 1023, [9, 9], 0x6001, by decide, takes_rdma, by decide +kernel, by decide, by decide +kernel, by decide +kernel⟩
theorem witness_HostAccessesComplete_doorbell :
    ∃ (s : State) (q : QPair) (b : Bytes) (r : Ring), Memory.wf s.mem = true ∧ s.takesRdma 5 q true ∧ s.gates (16 + q.port) 1 = [] ∧ b.length = 4 ∧
      (∃ a : BitVec 64, a.toNat % 2 ^ 30 = 0 ∧ faRegion a.toNat = 4 ∧ bitsOf a.toNat 47 46 = 2 ∧ s.refusal 5 a.toNat b.length true = none ∧
        mget s.rings (bitsOf a.toNat 45 30) = some r) ∧
      ∃ a : BitVec 64, a.toNat % 2 ^ 30 = 8 ∧ faRegion a.toNat = 4 ∧ bitsOf a.toNat 47 46 = 2 ∧ s.refusal 5 a.toNat b.length true = none ∧
        mget s.rings (bitsOf a.toNat 45 30) = some r :=
  ⟨hosted qpair, qpair, [1, 0, 0, 0], ringOf 0, by decide, takes_rdma, by decide +kernel, rfl,
    ⟨bellTail, by decide +kernel, by decide +kernel, by decide +kernel, by decide +kernel, by decide +kernel⟩,
    ⟨bellHead, by decide +kernel, by decide +kernel, by decide +kernel, by decide +kernel, by decide +kernel⟩⟩
theorem witness_HostAccessesComplete_staging :
    ∃ (s : State) (q : QPair) (a : BitVec 64) (b : Bytes), s.takesRdma 5 q true ∧ s.gates (16 + q.port) 1 = [] ∧ b ≠ [] ∧
      faRegion a.toNat ≤ 1 ∧ s.refusal 5 a.toNat b.length true = none :=
  ⟨withActive [(dkey 0x6010 4, [1, 0, 0, 0]), (dkey 0x9100 1, [1, 0])] (hosted qpair), qpair, 1048575, [9], ⟨rfl, rfl, by decide, by decide, by decide +kernel, rfl⟩,
    by decide +kernel, by decide, by decide +kernel, by decide +kernel⟩
/-- The same without rings, with sixteen reads whose data waits, and with an ingress list that opens class 7 and a write that waits for it. -/
def unringed : State := { hosted qpair with rings := [] }
theorem takes_unringed : unringed.takesRdma 5 qpair true := ⟨rfl, rfl, by decide, by decide, by decide +kernel, rfl⟩
def readsFull : State := { hosted qpair with tx := List.replicate 16 ⟨16, 0, .reply 5 [0], 0, 0, none⟩ }
theorem takes_readsFull : readsFull.takesRdma 5 qpair true := ⟨rfl, rfl, by decide, by decide, by decide +kernel, rfl⟩
def windowed : State :=
  { hosted qpair with eth := [(0, { EPort.reset with inQ := [⟨7, 5, 0x4000000000000000, [9]⟩] })]
                      step := { zst.step with seedling := false, plan := some ⟨[⟨leBytes 32 (16 * 2 ^ 235 + 2 ^ 234 + 255 * 2 ^ 226), 0, 1000, 1, 10, zeros 32, [⟨4, 1, 0⟩]⟩], zeros 32⟩ } }
theorem takes_windowed : windowed.takesRdma 5 qpair true := ⟨rfl, rfl, by decide, by decide, by decide +kernel, rfl⟩
theorem witness_HostAccessesComplete :
    (∃ (s : State) (q : QPair) (a : BitVec 64) (n : Nat), s.takesRdma 5 q true ∧ n ≠ 0 ∧ s.readsOut 5 < 16 ∧ faRegion a.toNat = 4 ∧ bitsOf a.toNat 47 46 ≠ 2 ∧
      s.refusal 5 a.toNat n false = none) ∧
    (∃ (s : State) (q : QPair) (e : Nat), s.takesRdma 5 q true ∧ s.readsOut 5 < 16 ∧ s.refusal 5 0x4000000000000000 65 false = some e) ∧
    (∃ (s : State) (q : QPair), s.takesRdma 5 q true ∧ 16 ≤ s.readsOut 5) ∧
    (∃ (s : State) (q : QPair), s.takesRdma 5 q true ∧ s.gates (16 + q.port) 1 ≠ [] ∧ (s.ep q.port).queued (s.classIn q.port ⟨true, none, 0⟩) + 1 ≤ 524288) ∧
    (∃ (s : State) (b : Bytes), (mget s.qps 5).isSome = true ∧ s.consumedOk 8 b = true ∧ s.consumedOk 0 b = false) ∧
    (∃ s : State, (s.ep 3).inQ = []) ∧
    ∃ (s : State) (w : HeldWrite) (q : QPair), (s.ep 0).inQ = [w] ∧ bit (255 &&& s.openClasses 16 1) w.cls = true ∧ mget s.qps w.qp = some q ∧
      Memory.wf s.mem = true ∧ w.data ≠ [] ∧ faRegion w.addr = 4 ∧ bitsOf w.addr 47 46 ≠ 2 ∧ s.refusal w.qp w.addr w.data.length true = none :=
  ⟨⟨hosted qpair, qpair, ringBase, 1024, takes_rdma, by decide, by decide +kernel, by decide +kernel, by decide +kernel⟩,
    ⟨unringed, qpair, 0x6001, takes_unringed, by decide +kernel, by decide +kernel⟩, ⟨readsFull, qpair, takes_readsFull, by decide +kernel⟩,
    ⟨windowed, qpair, takes_windowed, by decide +kernel, by decide +kernel⟩,
    ⟨hosted qpair, zeros 8, rfl, by decide +kernel, by decide +kernel⟩, ⟨zst, rfl⟩,
    ⟨windowed, ⟨7, 5, 0x4000000000000000, [9]⟩, qpair, rfl, by decide +kernel, rfl, by decide, by decide, by decide +kernel, by decide +kernel,
      by decide +kernel⟩⟩
def frame (idx sub total : Nat) (value : Bytes) : FdpFrame := ⟨1, false, 1, false, false, true, 3, idx, sub, total, 0, value, []⟩
def boolRow : DRow := ⟨.bool, .rw, [0], .any, .boundary⟩
def wordRow : DRow := ⟨.uint 4, .rw, [0xD4, 0x30, 0, 0], .nat 1250 1250000 [], .boundary⟩
def moving (w : Bool) (buf : Bytes) (moved : Nat) : State :=
  { on with dict := { on.dict with xfers := [⟨1, 3, w, 0x1020, 5, 2048, buf, moved, 0⟩] } }
theorem takes (svc : Nat) (f : FdpFrame) (xs : List Xfer) (h : f.mac = 1 ∧ f.version = 1 ∧ f.broadcast = false) :
    ({ on with dict := { on.dict with xfers := xs } } : State).takesFrame svc f :=
  ⟨rfl, fun e => absurd e (by decide +kernel : on.liveN 0x1020 1 ≠ 0), h.2.2, by rw [h.1]; exact nofun, h.2.1, rfl⟩
theorem witness_FieldTransfersComplete :
    (∃ (s : State) (f : FdpFrame), s.takesFrame 1 f ∧ readFail f.index f.sub true = none) ∧
    (∃ (s : State) (f : FdpFrame) (r : DRow), s.takesFrame 2 f ∧ stageRow f.index f.sub = .inr r ∧ longEntry r.typ = false ∧ f.value.length = 32) ∧
    (∃ (s : State) (f : FdpFrame), s.takesFrame 3 f ∧ s.xfer f.mac = none ∧ readFail f.index f.sub false = none) ∧
    (∃ (s : State) (f : FdpFrame) (r : DRow), s.takesFrame 4 f ∧ s.xfer f.mac = none ∧ stageRow f.index f.sub = .inr r ∧
      s.pendingSet (.mac f.mac) = false ∧ dsize r.typ = some f.total ∧ f.value.length < f.total ∧ f.last = false) ∧
    (∃ (s : State) (f : FdpFrame) (x : Xfer), s.takesFrame 5 f ∧ s.xfer f.mac = some x ∧ f.total = x.moved ∧ x.write = true ∧ f.last = false ∧
      x.buf.length + f.value.length < x.total) ∧
    (∃ (s : State) (f : FdpFrame) (x : Xfer), s.takesFrame 5 f ∧ s.xfer f.mac = some x ∧ f.total = x.moved ∧ x.write = false ∧
      x.moved + (sl x.buf x.moved 1024).length < x.total) ∧
    (∃ (s : State) (f : FdpFrame) (x : Xfer), s.takesFrame 6 f ∧ s.xfer f.mac = some x ∧ f.value.length = 2 ∧ leNat f.value = x.txn) ∧
    (∃ (s : State) (x : Xfer), s.xfer 1 = some x ∧ x.since + s.comN 0x1020 5 ≤ s.step.number) ∧
    ∃ (s : State) (r : FdpResp) (rest : List FdpResp), s.dict.resp = r :: rest ∧ s.liveN 0x1020 1 ≠ 0 :=
  ⟨⟨on, frame 0x2110 1 0 [], takes 1 _ [] ⟨rfl, rfl, rfl⟩, by decide +kernel⟩,
    ⟨on, frame 0x2110 1 0 (zeros 32), boolRow, takes 2 _ [] ⟨rfl, rfl, rfl⟩, by decide +kernel, by decide, rfl⟩,
    ⟨on, frame 0x2110 1 0 [], takes 3 _ [] ⟨rfl, rfl, rfl⟩, rfl, by decide +kernel⟩,
    ⟨on, frame 0x1020 5 4 [1, 2, 3], wordRow, takes 4 _ [] ⟨rfl, rfl, rfl⟩, rfl, by decide +kernel, rfl, by decide, by decide, rfl⟩,
    ⟨moving true [1] 1, frame 0x1020 5 1 [2], _, takes 5 _ _ ⟨rfl, rfl, rfl⟩, rfl, rfl, rfl, rfl, by decide⟩,
    ⟨moving false (zeros 2048) 1023, frame 0x1020 5 1023 [], _, takes 5 _ _ ⟨rfl, rfl, rfl⟩, rfl, rfl, rfl, by decide +kernel⟩,
    ⟨moving false (zeros 2048) 1024, frame 0 0 0 [3, 0], _, takes 6 _ _ ⟨rfl, rfl, rfl⟩, rfl, rfl, rfl⟩,
    ⟨at_ 12500 (moving true [1] 1), _, rfl, by decide +kernel⟩,
    ⟨{ on with dict := { on.dict with resp := [⟨1, 1, true, 0, 3, 0, 0, 0, []⟩] } }, _, _, rfl, by decide +kernel⟩⟩
/-- Queue pair 5 is privileged: 0x1031:01 names it. -/
def ruled : State := withCommitted [(dkey 0x1031 1, leBytes 4 5)] on
theorem witness_StagingAndCommitsComplete :
    (∃ (s : State) (f : FdpFrame), s.takesFrame 7 f ∧ s.takesFrame 8 f ∧ s.pendingSet (.mac f.mac) = false) ∧
    (∃ (s : State) (b : Bytes) (r : DRow), s.handServes = true ∧ s.privileged 5 = true ∧ stageRow 0x1020 5 = .inr r ∧ dsize r.typ = some b.length ∧
      encOk r.typ b = true ∧ s.pendingSet (.qp 5) = false ∧ s.stagedSet (.qp 5) = none ∧ s.dict.sets.length < 8) ∧
    (∃ s : State, s.handServes = true ∧ s.privileged 5 = true ∧ s.pendingSet (.qp 5) = false) ∧
    (∃ (s : State) (q : CommitReq) (rest : List CommitReq), s.dict.commits = q :: rest ∧ s.handServes = true ∧
      let vals := (((s.stagedSet q.src).map (·.vals)).getD []).map fun e => (e.1, clearReserved e.1 e.2)
      let s0 := { s with dict := { s.dict with commits := s.dict.commits.filter fun x => x != q } }
      (CommitCtx.fail ⟨q.src, vals, s0, s0.withValues vals⟩).isSome = true) :=
  ⟨⟨on, frame 0 0 0 [], takes 7 _ [] ⟨rfl, rfl, rfl⟩, takes 8 _ [] ⟨rfl, rfl, rfl⟩, rfl⟩,
    ⟨ruled, leBytes 4 1250, wordRow, by decide, by decide +kernel, by decide +kernel, by decide, by decide +kernel, rfl, rfl, by decide⟩,
    ⟨ruled, by decide, by decide +kernel, rfl⟩,
    ⟨{ ruled with dict := { ruled.dict with commits := [⟨.qp 5, none, 16⟩], sets := [⟨.qp 5, [(dkey 0x1020 5, leBytes 4 1249)], false⟩] } },
      _, _, rfl, by decide, by decide +kernel⟩⟩
def linked (e : Nat) (s : State) : State := withLive [(dkey (0x8040 + e) 6, [1])] s
theorem witness_EthernetPortsComplete :
    (∃ s : State, s.linkUp 3 = true) ∧
    (∃ s : State, s.linkUp 0 = false ∧ s.ownerOf 4 0 ≠ ownOff ∧ (if s.actN 0x8040 1 = 0 then true else true) = true) ∧
    (∃ s : State, (s.ep 0).downAt = some 0 ∧ 0 + 4 ≤ s.step.number ∧ (s.ep 0).movedTo = none ∧ s.grant 13 = true ∧ s.comN 0x8040 7 < 4 ∧
      s.comN 0x8040 7 ≠ 0 ∧ s.linkUp (s.comN 0x8040 7) = true) ∧
    ∃ s : State, s.linkUp 0 = true ∧ s.pfc 0 3 = true :=
  ⟨⟨linked 3 zst, by decide +kernel⟩, ⟨zst, by decide +kernel, by decide +kernel, by simp⟩,
    ⟨at_ 4 (linked 1 (withCommitted [(dkey 0x2110 13, [1]), (dkey 0x8040 7, [1])] { zst with eth := [(0, { EPort.reset with downAt := some 0 })] })), rfl,
      by decide, rfl, by decide +kernel, by decide +kernel, by decide +kernel, by decide +kernel⟩,
    ⟨linked 0 zst, by decide +kernel, by decide +kernel⟩⟩
theorem witness_QueuePairsComplete :
    (∃ s : State, s.linkUp 0 = true ∧ mget s.qps (2 ^ 24 - 1) = none ∧ (s.qps.filter fun x => x.2.ud == false).length < s.liveN 0x8050 1 ∧
      s.ownerOf 4 0 = ownHost) ∧
    (∃ (s : State) (q : QPair), mget s.qps 5 = some q ∧ s.linkUp 0 = true ∧ q.state = 1) ∧
    (∃ (s : State) (q : QPair), mget s.qps 5 = some q ∧ q.lastCnp = some 5 ∧ 5 + s.actN (0x8040 + q.port) 9 ≤ 50005) ∧
    (∃ (s : State) (q : QPair), mget s.qps 5 = some q ∧ q.lastCnp = some 5 ∧ 50004 < 5 + s.actN (0x8040 + q.port) 9) ∧
    (∃ (s : State) (q : QPair), mget s.qps 5 = some q ∧ q.state = 2 ∧ q.outstanding ≠ [] ∧ q.retries < q.retryMax) ∧
    (∃ (s : State) (q : QPair), mget s.qps 5 = some q ∧ q.state = 2 ∧ q.outstanding ≠ [] ∧ q.retryMax ≤ q.retries) ∧
    ∃ (s : State) (q : QPair), mget s.qps 5 = some q ∧ q.state = 2 ∧ q.outstanding = [(6, outItem 16)] ++ (7, outItem 16) :: [(8, outItem 16)] ∧
      (∀ e ∈ [(6, outItem 16)], e.1 ≠ 7) ∧ q.retries < q.retryMax ∧ q.port = 0 :=
  ⟨⟨hosted qpair, by decide +kernel, by decide +kernel, by decide +kernel, by decide +kernel⟩,
    ⟨hosted { qpair with state := 1 }, _, rfl, by decide +kernel, rfl⟩, ⟨hosted qpair, qpair, rfl, rfl, by decide +kernel⟩,
    ⟨hosted qpair, qpair, rfl, rfl, by decide +kernel⟩, ⟨hosted qpair, qpair, rfl, rfl, by decide, by decide⟩,
    ⟨hosted { qpair with retries := 3 }, _, rfl, rfl, by decide, by decide⟩, ⟨hosted qpair, qpair, rfl, rfl, rfl, by simp, by decide, rfl⟩⟩
/-- Hedge port `p` in a state, with its record. -/
def ported (p st : Nat) (h : HPort) (s : State) : State := { withLive [(dkey (0x8020 + p) 1, [BitVec.ofNat 8 st]), (dkey (0x8020 + p) 3, [255, 0])] s with hedge := [(p, h)] }
theorem witness_FramesLeaveInTheirWindow :
    ∃ (s : State) (x : TxItem) (rest : List TxItem) (b : Bytes), s.tx = x :: rest ∧ x.port = 15 ∧ x.cls = 7 ∧ x.msg = .hedge 1 b ∧ x.done = 0 ∧
      s.framesOf x = 1 ∧ (∀ y ∈ rest, y.port ≠ 15) ∧ s.portSends 15 = true ∧ s.classOk 15 7 = true ∧ bit (128 &&& s.openClasses 15 0) 7 = true ∧ s.wirePs x ≤ s.windowPs 15 1000 7 :=
  ⟨{ ported 15 2 HPort.reset zst with tx := [outItem 15, outItem 2] }, _, _, _, rfl, rfl, rfl, rfl, rfl, by decide +kernel, by decide, by decide +kernel,
    by decide +kernel, by decide +kernel, by decide +kernel⟩
theorem witness_LanesAndPortsComplete :
    (∃ s : State, s.hState 15 = 2 ∧ bit (s.laneMap 15) 7 = true ∧ (s.hp 15).spare = some 8 ∧ s.spareArm 15 = true) ∧
    (∃ s : State, s.hState 15 = 2 ∧ bit (s.laneMap 15) 7 = true ∧ (s.hp 15).spare = some 8 ∧ s.spareArm 15 = false) ∧
    (∃ (s : State) (x : LaneFault), s.actN 0x8010 3 < x.errors ∧ x.lock = false ∧ x.peerArmed = true) ∧
    (∃ s : State, (s.hp 0).failed = some 3 ∧ s.settling = true ∧ (s.hp 0).tries < s.actN 0x8010 2 ∧ (s.hp 0).triedAt ≠ some s.step.number) ∧
    (∃ s : State, s.settling = false) ∧
    (∃ s : State, s.hState 0 = 3 ∧ s.settling = true ∧ (s.hp 0).recAt ≠ some s.step.number ∧ 4000 ≤ s.liveN 0x8010 5 ∧
      (s.hp 0).recTries + 1 < s.actN 0x8010 2) ∧
    (∃ s : State, s.hState 0 = 3 ∧ s.settling = true ∧ (s.hp 0).recAt ≠ some s.step.number ∧ s.actN 0x8010 2 ≤ (s.hp 0).recTries + 1) ∧
    (∃ s : State, s.hState 0 = 1 ∧ s.ownerOf 3 0 ≠ ownOff ∧ 4000 ≤ s.liveN 0x8010 5) ∧
    ∃ s : State, s.hState 0 = 0 ∧ s.actN 0x8010 6 ≠ 0 ∧ s.step.number ≠ 0 ∧ s.step.number % s.actN 0x8010 6 = 0 ∧ s.ownerOf 3 0 ≠ ownOff :=
  ⟨⟨withCommitted [(dkey 0x802F 4, [1])] (ported 15 2 { HPort.reset with spare := some 8 } zst), by decide +kernel, by decide +kernel, rfl, by decide +kernel⟩,
    ⟨withCommitted [(dkey 0x802F 4, [0])] (ported 15 2 { HPort.reset with spare := some 8 } zst), by decide +kernel, by decide +kernel, rfl, by decide +kernel⟩,
    ⟨zst, ⟨false, zst.actN 0x8010 3 + 1, true⟩, Nat.lt_succ_self _, rfl, rfl⟩,
    ⟨ported 0 2 { HPort.reset with failed := some 3, tries := 2 } (closed on), rfl, rfl, by decide +kernel, by decide⟩, ⟨zst, rfl⟩,
    ⟨ported 0 3 { HPort.reset with recTries := 1 } (closed on), by decide +kernel, rfl, by decide, by decide +kernel, by decide +kernel⟩,
    ⟨ported 0 3 { HPort.reset with recTries := 2 } (closed on), by decide +kernel, rfl, by decide, by decide +kernel⟩,
    ⟨ported 0 1 HPort.reset zst, by decide +kernel, by decide +kernel, by decide +kernel⟩,
    ⟨at_ 125000 zst, by decide +kernel, by decide +kernel, by decide, by decide +kernel, by decide +kernel⟩⟩
def flitBody (fsn len : Nat) : Bytes := [1, 8] ++ leBytes 2 fsn ++ [0, 0] ++ leBytes 2 len ++ zeros 244
def flitOf (fsn len : Nat) : Bytes := flitBody fsn len ++ leBytes 4 (crc32 (flitBody fsn len))
def sentFlit (n : Nat) : RFlit := ⟨n, zeros 256, 0, [0]⟩
theorem witness_FlitsComplete :
    (∃ (s : State) (f : Bytes), s.hState 15 = 2 ∧ flitCrcOk f = true ∧ u8 f 0 = 1 ∧ u16 f 2 = (s.hp 15).rxFsn ∧ 1 ≤ u16 f 6 ∧ u16 f 6 = 244 ∧
      flitFirst f = true ∧ flitLast f = false ∧ mget (s.hp 15).halves (flitClass f) = none ∧ (s.hp 15).gap = false) ∧
    ∃ s : State, s.hState 0 = 2 ∧ (s.hp 0).replay = [sentFlit 6] ++ sentFlit 7 :: [sentFlit 8] ∧ ∀ x ∈ [sentFlit 6], x.fsn ≠ 7 :=
  ⟨⟨ported 15 2 { HPort.reset with rxFsn := 65535 } zst, flitOf 65535 244, by decide +kernel, by decide +kernel, by decide +kernel, by decide +kernel,
      by decide +kernel, by decide +kernel, by decide +kernel, by decide +kernel, by decide +kernel, rfl⟩,
    ⟨ported 0 2 { HPort.reset with replay := [sentFlit 6, sentFlit 7, sentFlit 8] } zst, by decide +kernel, rfl, by decide⟩⟩

/-! ### Witnesses: tilling, movers -/

def lastGroup : GroupId := ⟨15, 63⟩
/-- A record over all 80 banks: opcode, FIRST and count of banks, A, B, DST, ELEM and FUNC. -/
def tillRec (op bank0 banks a b dst elem func : Nat) : Bytes :=
  leBytes 1 op ++ [0] ++ leBytes 2 9 ++ leBytes 1 bank0 ++ leBytes 1 banks ++ leBytes 2 100 ++ leBytes 2 a ++ leBytes 2 b ++ leBytes 2 dst ++
    leBytes 1 elem ++ leBytes 1 func ++ zeros 48
def matvecRec : Bytes :=
  [0x30, 0] ++ leBytes 2 9 ++ [0, 80] ++ leBytes 2 100 ++ zeros 8 ++ leBytes 4 8 ++ leBytes 2 1 ++ [1, 0] ++ leBytes 2 16 ++ leBytes 2 528 ++ zeros 36
def tillNode (r : Bytes) : State :=
  { zst with tills := [(groupKey lastGroup, { emptyGroup with st := 1, fifo := [r], xIn := [1, 2, 3, 4, 5, 6, 7, 8], hot := true })] }
def records : List (Nat × Bytes) :=
  [(0x00, tillRec 0x00 0 80 0 0 0 0 0), (0x01, tillRec 0x01 0 80 4095 0 2 0 0), (0x02, tillRec 0x02 79 1 0 0 4 0 0), (0x03, tillRec 0x03 0 80 0 0 15 0 0),
   (0x04, tillRec 0x04 79 1 4094 0 0 0 0), (0x04, tillRec 0x04 79 1 16 0 0 0 1), (0x04, tillRec 0x04 79 1 16 0 0 0 2), (0x10, tillRec 0x10 0 80 16 18 2 0 0), (0x11, tillRec 0x11 0 80 16 18 4 0 0),
   (0x12, tillRec 0x12 0 80 16 0 6 0 0), (0x13, tillRec 0x13 0 80 16 18 8 0 0), (0x20, tillRec 0x20 0 80 16 17 2 2 0),
   (0x21, tillRec 0x21 0 80 16 17 2 1 31), (0x22, tillRec 0x22 78 2 16 0 2 0 2), (0x30, matvecRec)]
theorem test_records_are_well_formed : records.all (fun x => recOk x.2 && u8 x.2 0 == x.1 && zst.groupOk lastGroup) = true := by decide +kernel
theorem atTill_node (x : Nat × Bytes) (h : x ∈ records) : (tillNode x.2).atTill lastGroup x.1 x.2 := by
  have e := List.all_eq_true.mp test_records_are_well_formed x h
  simp only [Bool.and_eq_true, beq_iff_eq] at e
  exact ⟨e.2, rfl, rfl, e.1.1, e.1.2⟩
theorem witness_TillingRowCommandsComplete : ∀ op ∈ [0x00, 0x01, 0x02, 0x03, 0x20, 0x21, 0x22],
    ∃ (s : State) (r : Bytes), Memory.wf s.mem = true ∧ s.atTill lastGroup op r := by
  intro op h
  have e : ∃ x ∈ records, x.1 = op := by revert op; decide +kernel
  obtain ⟨x, hx, rfl⟩ := e
  exact ⟨tillNode x.2, x.2, rfl, atTill_node x hx⟩
theorem witness_BitwiseCommandsKeepTwoRails : ∀ op ∈ [0x10, 0x11, 0x12, 0x13],
    ∃ (s : State) (r : Bytes), Memory.wf s.mem = true ∧ s.atTill lastGroup op r ∧ bankList r ≠ [] := by
  intro op h
  have e : ∃ x ∈ records, x.1 = op ∧ bankList x.2 ≠ [] := by revert op; decide +kernel
  obtain ⟨x, hx, rfl, hb⟩ := e
  exact ⟨tillNode x.2, x.2, rfl, atTill_node x hx, hb⟩
/-- The column sums of a block agree with its weights (R259). -/
def sumsAgree (s : State) (g : GroupId) (r : Bytes) : Bool :=
  let x := padTo 32768 (s.tg g).xIn
  let xs := (List.range (rVec r)).map fun v => (sl x (v * rK r) (rK r)).map (·.toInt)
  let ys := xs.map fun xv => (s.blockWeights g r).map fun w => dotInt w xv
  let cs := (splitAll 8 ((s.rowsBytes g (rBank0 r) (sumRows r)).take (8 * rK r))).map fun b => sInt 64 (leNat b)
  (xs.map fun xv => dotInt cs xv) == ys.map (fun y => y.foldl (· + ·) (0 : Int))
def wrongSums : State := { tillNode matvecRec with mem := [(rowAddr lastGroup 0 528, 1)] }
theorem witness_ReadRowAndMatvecComplete :
    (∀ func < 3, ∃ (s : State) (r : Bytes), s.atTill lastGroup 0x04 r ∧ rFunc r = func) ∧
    (∃ (s : State) (r : Bytes), s.atTill lastGroup 0x30 r ∧ sumsAgree s lastGroup r = true) ∧
    ∃ (s : State) (r : Bytes), s.atTill lastGroup 0x30 r ∧ sumsAgree s lastGroup r = false := by
  refine ⟨?_, ⟨_, _, atTill_node (0x30, matvecRec) (by simp [records]), by decide +kernel⟩, ⟨wrongSums, matvecRec, ?_, by decide +kernel⟩⟩
  · intro func h
    have e : ∃ x ∈ records, x.1 = 0x04 ∧ rFunc x.2 = func := by revert func; decide +kernel
    obtain ⟨x, hx, h1, h2⟩ := e
    exact ⟨tillNode x.2, x.2, h1 ▸ atTill_node x hx, h2⟩
  · exact ⟨by decide +kernel, rfl, rfl, by decide +kernel, by decide +kernel⟩
def group0 : GroupId := ⟨0, 0⟩
def group (t : TGroup) : State := { zst with tills := [(0, t)] }
/-- A slice of template 0 on plot 0: its type, its target channel 0 and parameters that name bank group 3 of pseudo channel 0; byte 5
names one record. -/
def tillSlice (typ : Nat) : Bytes := [0, 0, 0, 0, 0, 0x10] ++ zeros 9 ++ [0x60, 1, 0, 0, 0] ++ zeros 9 ++ leBytes 1 typ ++ zeros 2
def tillPlan : Plan :=
  ⟨tillSlice 0x10 ++ tillSlice 0x11 ++ tillSlice 0x12 ++ tillSlice 0x13, 1, 1000, 1, 10, zeros 32, [⟨6, 4, 0⟩]⟩
def sliced (s : State) : State := { s with step := { s.step with plan := some ⟨[tillPlan], zeros 32⟩, seedling := false }, node := { s.node with plots := 65535 } }
theorem witness_TillingModeCommandsComplete :
    (∃ s : State, s.groupOk group0 = true ∧ (s.tg group0).st = 2 ∧ (s.tg group0).fifo.length < 64) ∧
    (∃ s : State, s.groupOk group0 = true ∧ (s.tg group0).st ≠ 1 ∧ (s.tg group0).st ≠ 2) ∧
    (∃ s : State, s.groupOk group0 = true ∧ (s.tg group0).st = 1 ∧ 64 ≤ (s.tg group0).fifo.length ∧ (s.tg group0).fifo ≠ [] ∧ 8 ≤ (s.tg group0).deficit) ∧
    (∃ s : State, s.groupOk group0 = true ∧ (s.tg group0).st = 1 ∧ (s.tg group0).fifo = []) ∧
    (∃ s : State, s.groupOk group0 = true ∧ (s.tg group0).st = 1 ∧ (s.tg group0).fifo ≠ [] ∧ (s.tg group0).deficit < 8) ∧
    (∃ (s : State) (x : Slice), s.sliceAt 0 0x10 = some x ∧ s.sliceGroups x = [group0] ∧ (s.tg group0).st = 0) ∧
    (∃ (s : State) (x : Slice), s.sliceAt 1 0x11 = some x ∧ s.sliceGroups x = [group0] ∧ (s.tg group0).st = 1) ∧
    (∃ (s : State) (x : Slice), s.sliceAt 2 0x12 = some x ∧ group0 ∈ s.sliceGroups x ∧ (s.tg group0).st = 2) ∧
    (∃ (s : State) (x : Slice), Memory.wf s.mem = true ∧ s.sliceAt 3 0x13 = some x ∧ (s.sliceGroups x).contains group0 = true ∧
      (s.tg group0).st = 0 ∧ rowClass 4095 = 4 ∧ (s.rewriteBitmaps x.plot).bitmapAt group0 79 4095 = none ∧
      (s.rewriteBitmaps x.plot).placeAt group0 79 4095 = none ∧
      (((s.rewriteBitmaps x.plot).blocksOf group0).filter fun b => inBlock b 79 4095) = []) ∧
    (∃ (s : State) (x : Slice), Memory.wf s.mem = true ∧ s.sliceAt 3 0x13 = some x ∧ (s.sliceGroups x).contains group0 = true ∧
      (s.tg group0).st = 0 ∧ rowClass 16 = 4 ∧ (s.rewriteBitmaps x.plot).bitmapAt group0 0 16 ≠ none) ∧
    ∃ s : State, s.groupOk group0 = true ∧ (s.tg group0).ctrlAt = some s.step.number ∧ s.tillDeps group0 = [] :=
  ⟨⟨group { emptyGroup with st := 2, fifo := List.replicate 63 [] }, by decide +kernel, rfl, by decide +kernel⟩, ⟨zst, by decide +kernel, by decide, by decide⟩,
    ⟨group { emptyGroup with st := 1, fifo := List.replicate 64 [], deficit := 8 }, by decide +kernel, rfl, by decide +kernel, by decide +kernel, by decide⟩,
    ⟨group { emptyGroup with st := 1 }, by decide +kernel, rfl, rfl⟩,
    ⟨group { emptyGroup with st := 1, fifo := [[]], deficit := 7 }, by decide +kernel, rfl, by decide, by decide⟩,
    ⟨sliced zst, sliceOf (leNat (tillSlice 0x10)), by decide +kernel, by decide +kernel, rfl⟩,
    ⟨sliced (group { emptyGroup with st := 1 }), sliceOf (leNat (tillSlice 0x11)), by decide +kernel, by decide +kernel, rfl⟩,
    ⟨sliced (group { emptyGroup with st := 2 }), sliceOf (leNat (tillSlice 0x12)), by decide +kernel, by decide +kernel, rfl⟩,
    ⟨sliced zst, sliceOf (leNat (tillSlice 0x13)), rfl, by decide +kernel, by decide +kernel, rfl, rfl, by decide +kernel, by decide +kernel, by decide +kernel⟩,
    ⟨sliced (withShard (shardOf (countImage 1)) { zst with tier := { zst.tier with bmaps := [⟨0, 0, 3, 0, 1, false⟩] } }),
      sliceOf (leNat (tillSlice 0x13)), rfl, by decide +kernel, by decide +kernel, rfl, by decide, by decide +kernel⟩,
    ⟨group { emptyGroup with ctrlAt := some 0 }, by decide +kernel, rfl, rfl⟩⟩
def qst (credits : Nat) (pkts : List (List Nat)) (flush : Bool) : QSt :=
  ⟨credits, pkts, [], 0, 0, flush, [], []⟩
def queued (q : Nat) (x : QSt) : State := { zst with queues := [(queueKey 15 q, x)] }
/-- The cell pool of plot 15 holds an event record of a class in cells 0 and 1. -/
def eventNode (code : Nat) : State :=
  { queued 1 (qst 0 [[0, 1]] false) with mem := [(cellAddr 15 0, BitVec.ofNat 8 code), (cellAddr 15 0 + 1, BitVec.ofNat 8 (code / 256)), (cellAddr 15 0 + 60, 32)] }
theorem witness_QueuesMoveWholePackets :
    (∃ (s : State) (d : Nat × Nat × Nat), Memory.wf s.mem = true ∧ s.queueDef 15 1 = some d ∧ s.cellsFit 15 (ceilDiv 57 56) ∧
      ceilDiv 57 56 = (s.queue 15 1).credits ∧ (s.queue 15 1).fate = 0 ∧ (s.queue 15 1).open_ = []) ∧
    (∃ (s : State) (d : Nat × Nat × Nat), Memory.wf s.mem = true ∧ s.queueDef 15 1 = some d ∧ s.cellsFit 15 (ceilDiv 57 56) ∧
      ceilDiv 57 56 ≤ (s.queue 15 1).credits ∧ (s.queue 15 1).fate = 0 ∧ (s.queue 15 1).open_ ≠ [] ∧ (s.queue 15 1).ahead = 1) ∧
    (∃ (s : State) (d : Nat × Nat × Nat), Memory.wf s.mem = true ∧ s.queueDef 15 1 = some d ∧ s.cellsFit 15 (ceilDiv 57 56) ∧
      (s.queue 15 1).credits < ceilDiv 57 56 ∧ (s.queue 15 1).fate ≠ 2) ∧
    (∃ s : State, (s.queue 15 1).fate = 2) ∧ (∃ s : State, (s.queue 15 1).oldest = none) ∧
    (∃ (s : State) (cells : List Nat), (s.queue 15 65535).oldest = some cells ∧ 1 < 65535 ∧ ((s.queueDef 15 65535).map (·.1)).getD 0 ≠ 4) ∧
    (∃ (s : State) (cells : List Nat), (s.queue 15 0).oldest = some cells) ∧
    (∃ (s : State) (cells : List Nat), (s.queue 15 1).oldest = some cells ∧ (evOf (s.packetData 15 cells)).code / 4096 = 0) ∧
    (∃ (s : State) (cells : List Nat), (s.queue 15 1).oldest = some cells ∧ (evOf (s.packetData 15 cells)).code / 4096 = 12) ∧
    (∃ s : State, (s.queue 15 1).flush = true) ∧ ∃ s : State, (s.queue 15 1).flush = false :=
  ⟨⟨queued 1 (qst 2 [] false), _, rfl, rfl, ⟨by decide +kernel, by decide +kernel⟩, by decide +kernel, rfl, rfl⟩,
    ⟨queued 1 { qst 2 [[0]] false with open_ := [1], ahead := 1 }, _, rfl, rfl, ⟨by decide +kernel, by decide +kernel⟩, by decide +kernel, rfl,
      by decide, rfl⟩,
    ⟨queued 1 (qst 1 [[0]] false), _, rfl, rfl, ⟨by decide +kernel, by decide +kernel⟩, by decide +kernel, by decide⟩,
    ⟨queued 1 { qst 1 [] false with fate := 2 }, rfl⟩, ⟨queued 1 { qst 1 [[0]] false with open_ := [1] }, rfl⟩,
    ⟨queued 65535 (qst 0 [[0, 1], [2]] false), _, rfl, by decide, by decide +kernel⟩, ⟨queued 0 (qst 0 [[0]] false), _, rfl⟩,
    ⟨queued 1 (qst 0 [[0, 1]] false), _, rfl, by decide +kernel⟩,
    ⟨eventNode 0xC001, [0, 1], rfl, by decide +kernel⟩,
    ⟨queued 1 (qst 0 [] true), rfl⟩, ⟨queued 1 (qst 0 [] false), rfl⟩⟩
/-- A plan of one transfer per mode. -/
def movePlan : Plan :=
  ⟨(List.range 5).flatMap fun m => leBytes 32 (m * 2 ^ 229), 1, 1000, 1, 10, zeros 32, [⟨2, 5, 0⟩]⟩
def outOf (s : State) (e mode : Nat) : List (Nat × Bytes) := moverOut e mode fun a n => (s.readField a n).1
def movesOf (s : State) : State := { s with step := { s.step with plan := some ⟨[movePlan], zeros 32⟩, seedling := false }, node := { s.node with plots := 65535 } }
/-- The same modes with a length of 64 bytes and a source that is no memory. -/
def refusedEntry (m : Nat) : Nat := m * 2 ^ 229 + 64 * 2 ^ 164 + 7 * 2 ^ 124
def refusedPlan : Plan := { movePlan with image := (List.range 5).flatMap fun m => leBytes 32 (refusedEntry m) }
def refusedOf (s : State) : State := { s with step := { s.step with plan := some ⟨[refusedPlan], zeros 32⟩, seedling := false }, node := { s.node with plots := 65535 } }
/-- The same modes of which each writes into a cell that a queue holds, and wants a completion. -/
def cellEntry (m : Nat) : Nat := m * 2 ^ 229 + 2 ^ 188 + 5 * 2 ^ 60
def cellPlan : Plan := { movePlan with image := (List.range 5).flatMap fun m => leBytes 32 (cellEntry m) }
def cellsOf (flush : Bool) (frames : List Nat) : State :=
  { zst with step := { zst.step with plan := some ⟨[cellPlan], zeros 32⟩, seedling := false }, node := { zst.node with plots := 65535 }
             queues := [(queueKey 0 2, qst 0 [[0]] flush)], tier := { zst.tier with frames := frames } }
theorem moves_are_taken : ∀ m < 5,
    ((movesOf zst).transferAt m m = some (m * 2 ^ 229) ∧ bitsOf (m * 2 ^ 229) 188 188 = 0 ∧ (movesOf zst).flushTarget (m * 2 ^ 229) = false ∧
      (movesOf zst).moverRefusal (m * 2 ^ 229) (outOf (movesOf zst) (m * 2 ^ 229) m) = none) ∧
    ((refusedOf zst).transferAt m m = some (refusedEntry m) ∧
      (refusedOf zst).moverRefusal (refusedEntry m) (outOf (refusedOf zst) (refusedEntry m) m) = some (0x6001, 7 * 2 ^ 60)) ∧
    ∀ b f, f = [] ∨ f = [0] → (cellsOf b f).transferAt m m = some (cellEntry m) ∧ bitsOf (cellEntry m) 188 188 = 1 ∧
      (cellsOf b f).flushTarget (cellEntry m) = b ∧ (cellsOf b f).moverRefusal (cellEntry m) (outOf (cellsOf b f) (cellEntry m) m) = none ∧
      (cellsOf b f).spillUsed (xPlot (cellEntry m)) = false ∧ ((cellsOf b f).sourceFault (cellEntry m) 0 []).2 = (f == [0]) := by
  intro m h
  refine ⟨by revert m; decide +kernel, by revert m; decide +kernel, ?_⟩
  rintro b f (rfl | rfl) <;> revert b m <;> decide +kernel
theorem witness_TransfersMoveTheirBytes : ∀ mode < 5,
    (∃ (s : State) (e : Nat), s.transferAt mode mode = some e ∧ bitsOf e 188 188 = 0 ∧ s.flushTarget e = false ∧
      s.moverRefusal e (outOf s e mode) = none) ∧
    (∃ (s : State) (e : Nat), s.transferAt mode mode = some e ∧ bitsOf e 188 188 = 1 ∧ s.flushTarget e = false ∧
      s.moverRefusal e (outOf s e mode) = none ∧ s.spillUsed (xPlot e) = false ∧ (s.sourceFault e 0 []).2 = true) ∧
    (∃ (s : State) (e : Nat), s.transferAt mode mode = some e ∧ s.flushTarget e = false ∧ s.moverRefusal e (outOf s e mode) = none ∧
      (s.sourceFault e 0 []).2 = false) ∧
    (∃ (s : State) (e : Nat), s.transferAt mode mode = some e ∧ s.flushTarget e = true ∧ s.moverRefusal e (outOf s e mode) = none) ∧
    ∃ (s : State) (e : Nat) (x : Nat × Nat), s.transferAt mode mode = some e ∧ s.moverRefusal e (outOf s e mode) = some x := by
  intro m h
  obtain ⟨a, r, c⟩ := moves_are_taken m h
  obtain ⟨c1, c2, c3, c4, c5, c6⟩ := c false [0] (.inr rfl)
  obtain ⟨d1, -, d3, d4, -, d6⟩ := c false [] (.inl rfl)
  obtain ⟨e1, -, e3, e4, -, -⟩ := c true [] (.inl rfl)
  exact ⟨⟨_, _, a⟩, ⟨_, _, c1, c2, c3, c4, c5, c6⟩, ⟨_, _, d1, d3, d4, d6⟩, ⟨_, _, e1, e3, e4⟩, _, _, _, r⟩
/-! ### Witnesses: tensors, generation, embeddings -/

def intBuf : Buf := plainBuf 16 [[1, 2 ^ 32 - 1]]
def byteBuf : Buf := plainBuf 0 [[1, 255], [128, 127]]
def fltBuf : Buf := plainBuf 9 [[0x3F800000, 0xC0000000], [0, 0x7F800000]]
/-- An infinity among FP8 values: a product with it misses its references. -/
def hotBuf : Buf := plainBuf 3 [[0x7C, 0x3C], [0x3C, 0x3C]]
def instr (f : Nat) : TInstr := ⟨0, 0, 9, f, 4, 2, 2, 7, 8, 0x8009⟩
def tensorImage : Bytes := zeros 8 ++ leBytes 4 1 ++ zeros 116 ++ leBytes 4 8 ++ zeros 4 ++ leBytes 4 2 ++ leBytes 4 1 ++ leBytes 8 160 ++ leBytes 8 64 ++ zeros 64
def bufWork (a b : Buf) : Work := { workK 1 with bufs := [(7, a), (8, b), (0x8009, a)], lastOut := 7 }
/-- A request whose encoder's program stands at an instruction. -/
def standing (op : Nat) (ti : TInstr) (w : Work) : Work := { w with prog := [⟨false, op, ti⟩] }
def progNode (op : Nat) (ti : TInstr) (w : Work) : State := holds zst (farAt 2 2 1) (standing op ti w)
theorem batch_node (op : Nat) (ti : TInstr) (w : Work) (hg : w.gen = none) (hw : w.gather = none) : (progNode op ti w).batchAt op ti [5] := by
  refine ⟨by decide, (standing op ti w).runImage, ?_⟩
  intro tag ht
  rcases List.mem_singleton.mp ht with rfl
  refine ⟨standing op ti w, ⟨⟨farAt 2 2 1, ⟨rfl, rfl, rfl, rfl⟩, by decide⟩, hw, false, [], rfl, ?_⟩, rfl⟩
  intro g h
  have : w.gen = some g := h
  rw [hg] at this; cases this
/-- The same where a block of operand B stands in the banks of a group in a state. -/
def bankNode (st : Nat) : State :=
  { progNode 0x45 (instr 0) (bufWork byteBuf byteBuf) with
    models := [(0, ⟨[], none, 0, false, 0⟩)], tills := [(0, { emptyGroup with st := st })]
    tier := { zst.tier with places := [⟨0, 8, group0, 0, matvecRec⟩] } }
theorem batch_bank (st : Nat) : (bankNode st).batchAt 0x45 (instr 0) [5] := by
  refine ⟨by decide, (standing 0x45 (instr 0) (bufWork byteBuf byteBuf)).runImage, ?_⟩
  intro tag ht
  rcases List.mem_singleton.mp ht with rfl
  exact ⟨standing 0x45 (instr 0) (bufWork byteBuf byteBuf), ⟨⟨farAt 2 2 1, ⟨rfl, rfl, rfl, rfl⟩, by decide⟩, rfl, false, [], rfl, nofun⟩, rfl⟩
theorem witness_TensorInstructionsComplete :
    (∃ (s : State) (arr : Nat) (ti : TInstr), arr = 63 ∧ s.batchAt 1 ti [5] ∧ s.gemmAgrees arr ti [5] = true) ∧
    (∃ (s : State) (arr : Nat) (ti : TInstr), arr = 63 ∧ s.batchAt 1 ti [5] ∧ s.gemmAgrees arr ti [5] = false) ∧
    (∀ op ∈ [0x10, 0x11, 0x12, 0x13, 0x14, 0x15], ∀ f < 4, ∀ b ∈ [byteBuf, fltBuf, intBuf], ∃ (s : State) (ti : TInstr), ti.func = f ∧ s.batchAt op ti [5] ∧
      (s.workOf 5).map (fun w => mget w.bufs ti.opA) = some (some b)) ∧
    (∀ banks : Bool, ∃ (s : State) (ti : TInstr), s.batchAt 0x45 ti [5] ∧ ∀ tag ∈ [5], ∀ w, s.workOf tag = some w →
      (s.blocksOfB w ti).isEmpty = !banks ∧ (s.blocksOfB w ti).find? (fun p => (s.tg p.g).st != 1 && (s.tg p.g).st != 2) = none ∧
      tillSumsOk (((w.bufOf ti.res 0 ti.m ti.k).asFmt 0).rowsUpTo (s.rowLimit tag ti)) ti.k (s.weightsB w ti (w.operandB ti) 0 0 fun _ => 0).1 ti.n = true) ∧
    ∃ (s : State) (ti : TInstr) (w : Work) (p : TillPlace), s.batchAt 0x45 ti [5] ∧ s.workOf 5 = some w ∧
      (s.blocksOfB w ti).find? (fun p => (s.tg p.g).st != 1 && (s.tg p.g).st != 2) = some p :=
  ⟨⟨progNode 1 (instr 0) (bufWork byteBuf byteBuf), 63, instr 0, rfl, batch_node _ _ _ rfl rfl, by decide +kernel⟩,
    ⟨progNode 1 { instr 0 with fmtA := 3, fmtB := 3 } (bufWork hotBuf hotBuf), 63, { instr 0 with fmtA := 3, fmtB := 3 }, rfl, batch_node _ _ _ rfl rfl,
      by decide +kernel⟩,
    fun op _ f _ b _ => ⟨progNode op (instr f) (bufWork b b), instr f, rfl, batch_node _ _ _ rfl rfl, rfl⟩,
    fun banks => match banks with
      | false => ⟨progNode 0x45 (instr 0) (bufWork byteBuf byteBuf), instr 0, batch_node _ _ _ rfl rfl, by
          intro tag ht w hw
          rcases List.mem_singleton.mp ht with rfl
          cases hw
          decide +kernel⟩
      | true => ⟨bankNode 1, instr 0, batch_bank 1, by
          intro tag ht w hw
          rcases List.mem_singleton.mp ht with rfl
          cases hw
          decide +kernel⟩,
    ⟨bankNode 0, instr 0, standing 0x45 (instr 0) (bufWork byteBuf byteBuf), ⟨0, 8, group0, 0, matvecRec⟩, batch_bank 0, rfl, by decide +kernel⟩⟩
def imageWork : Work := { bufWork byteBuf byteBuf with image := tensorImage }
theorem witness_ScaleBanksAndClipCounts :
    (∃ (s : State) (ti : TInstr), s.batchAt 3 ti [5]) ∧
    (∃ (s : State) (ti : TInstr) (w : Work) (d : Tensor), s.batchAt 2 ti [5] ∧ s.workOf (List.headD [5] 0) = some w ∧ w.tensor ti.opB = some d ∧ ti.n + 0 < d.n) ∧
    ∃ (s : State) (ti : TInstr), s.batchAt 0x30 ti [5] :=
  ⟨⟨_, instr 0, batch_node 3 (instr 0) imageWork rfl rfl⟩,
    ⟨_, { instr 0 with n := 0 }, standing 2 { instr 0 with n := 0 } imageWork, tensorAt tensorImage 0, batch_node 2 { instr 0 with n := 0 } imageWork rfl rfl, rfl,
      by decide +kernel, by decide +kernel⟩,
    ⟨_, instr 0, batch_node 0x30 (instr 0) imageWork rfl rfl⟩⟩
def gen0 : GenWork :=
  { hdr := zeros 64, image := overlay (zeros 256) 130 [1, 1, 2, 0], draft := [], cache := 0, prior := [], base := 0, prompt := [1, 2, 3], block := [], passages := [], roots := [], pages := [],
    dpages := [], tried := 0, pass := some 0, spread := 0, members := [], fed := 0, choice := [4], drafts := [], path := [], next := none, out := [9], scores := [],
    passes := 1, emitting := 0, accepted := 0, stop := 0, done := false, late := false, stage := 0, key := none, asked := 0, passg := false }
def genWork (g : GenWork) : Work := { bufWork fltBuf fltBuf with gen := some g }
def genNode (ph : Nat) (g : GenWork) : State := seedling (holds zst (farAt 2 ph 3) (genWork g))
theorem genNode_home (ph : Nat) (g : GenWork) : (genNode ph g).atHome 5 (farAt 2 ph 3) (genWork g) := ⟨rfl, rfl, rfl, rfl⟩
/-- A generation whose program stands at an instruction, with one entry of a length table: rows of a kind from position `pos` on. -/
def passWork (op : Nat) (ti : TInstr) (g : GenWork) : Work := { genWork g with prog := [⟨false, op, ti⟩, ⟨false, 0x46, ti⟩] }
def passNode (op ph : Nat) (ti : TInstr) (g : GenWork) (kind count pos : Nat) : State :=
  let s := holds zst (farAt 2 ph 3) (passWork op ti g)
  { s with ledger := { s.ledger with lens := [(0, [⟨stubAt.nearSlot, 0, kind, 0, count, pos, pos⟩])] } }
theorem batch_pass (op ph : Nat) (ti : TInstr) (g : GenWork) (kind count pos : Nat) (hp : g.pass = some 0) (ha : g.asked = 0)
    (h : ph = 0x21 ∨ ph = 0x22) :
    (passNode op ph ti g kind count pos).batchAt op ti [5] := by
  refine ⟨by decide, (passWork op ti g).runImage, ?_⟩
  intro tag ht
  rcases List.mem_singleton.mp ht with rfl
  refine ⟨passWork op ti g, ⟨⟨farAt 2 ph 3, ⟨rfl, rfl, rfl, rfl⟩, ?_⟩, rfl, false, [⟨false, 0x46, ti⟩], rfl, ?_⟩, rfl⟩
  · rcases h with rfl | rfl <;> decide
  · intro x hx
    have : some g = some x := hx
    cases this
    exact ⟨by rw [hp]; rfl, rfl, fun _ => ha⟩
/-- A generation whose prompt is the prefix before its passages, and one whose pair takes more than one pass. -/
def splicedGen : GenWork :=
  { gen0 with stage := 1, hdr := overlay (zeros 64) 28 [3], pages := [(⟨0, 0, false, true, false, 4, 0, [], []⟩, 0)] }
def longPair : GenWork := { gen0 with stage := 1, hdr := overlay (List.replicate 64 1) 0 [1], prompt := List.replicate 1025 7 }
theorem witness_GenerationPhasesComplete :
    (∀ l, l = [] ∨ l = [1, 2, 3] → ∃ (s : State) (f : FarCtx) (w : Work) (g : GenWork), s.atHome 5 f w ∧ w.gen = some g ∧ f.phase = 0x20 ∧ g.stage = 0 ∧
      gForm g.hdr ≠ 1 ∧ g.passages = [] ∧ g.prompt = l ∧
      g.base + gPrompt g.hdr + gMaxNew g.hdr ≤ min (genMaxCtx g.image) (kindVisits (s.kinds.getD w.kindId []))) ∧
    (∃ (s : State) (f : FarCtx) (w : Work) (g : GenWork), s.atHome 5 f w ∧ w.gen = some g ∧ f.phase = 0x21 ∧ g.stage = 1 ∧ w.prog = [] ∧
      g.fed + g.rowTokens.length < g.prompt.length) ∧
    (∃ (s : State) (f : FarCtx) (w : Work) (g : GenWork), s.atHome 5 f w ∧ w.gen = some g ∧ f.phase = 0x21 ∧ g.stage = 1 ∧ w.prog = [] ∧
      g.prompt.length ≤ g.fed + g.rowTokens.length ∧ g.prompt ≠ [] ∧ gPrefix g.hdr ≠ g.prompt.length) ∧
    (∃ (s : State) (f : FarCtx) (w : Work) (g : GenWork), s.atHome 5 f w ∧ w.gen = some g ∧ f.phase = 0x21 ∧ g.stage = 1 ∧ w.prog = [] ∧
      g.prompt.length ≤ g.fed + g.rowTokens.length ∧ gPrefix g.hdr = g.prompt.length ∧ g.spliced ≠ 0) ∧
    (∃ (s : State) (f : FarCtx) (w : Work) (g : GenWork), s.atHome 5 f w ∧ w.gen = some g ∧ f.phase = 0x23 ∧ g.stage = 1 ∧ w.prog = [] ∧
      g.scores.length < gPassages g.hdr ∧ g.fed + g.rowTokens.length < g.pair.length) ∧
    (∀ d, ∃ (s : State) (f : FarCtx) (w : Work) (g : GenWork), s.atHome 5 f w ∧ w.gen = some g ∧ f.phase = 0x22 ∧ g.stage = 2 ∧ w.prog = [] ∧
      g.done = d ∧ g.choice ≠ []) ∧
    (∃ (s : State) (f : FarCtx) (w : Work) (g : GenWork) (b : Buf), s.atHome 5 f w ∧ w.gen = some g ∧ f.phase = 0x23 ∧ g.stage = 1 ∧ w.prog = [] ∧
      mget w.bufs w.lastOut = some b ∧ g.scores.length < gPassages g.hdr ∧ g.pair.length ≤ g.fed + g.rowTokens.length) ∧
    (∃ (s : State) (f : FarCtx) (w : Work) (g : GenWork), s.atHome 5 f w ∧ w.gen = some g ∧ f.phase = 0x23 ∧ g.stage = 1 ∧ w.prog = [] ∧
      gPassages g.hdr ≤ g.scores.length) ∧
    (∃ (s : State) (ti : TInstr) (w : Work) (g : GenWork) (a : Nat) (l : List Nat), s.batchAt 0x48 ti [5] ∧ s.workOf 5 = some w ∧ w.gen = some g ∧
      g.stage = 2 ∧ g.choice = a :: l) ∧
    (∃ (s : State) (c : Nat) (f : FarCtx) (w : Work) (g : GenWork), s.farOf 5 = some (c, f) ∧ f.phase = 0x24 ∧ s.workOf 5 = some w ∧ w.gen = some g ∧
      mget s.ledger.fars c = some f) ∧
    (∃ (s : State) (b : Bytes), u8 b 0 = 1 ∧ ∃ l ∈ s.tier.lent, l.port = 15 ∧ l.key = u64 b 8) ∧
    (∃ s : State, s.awaits 5 15 = true) ∧ (∃ s : State, s.awaits 5 15 = false) ∧
    ∃ (s : State) (c : Cache), mget s.caches 3 = some c ∧ c.inUse = false ∧ s.actN 0x5400 7 ≠ 0 ∧ c.last + s.actN 0x5400 7 ≤ s.step.number := by
  refine ⟨?_, ?_, ?_, ?_, ?_, ?_, ?_, ?_, ?_, ?_, ?_, ?_, ?_, ?_⟩
  · intro l _
    exact ⟨genNode 0x20 { gen0 with prompt := l }, farAt 2 0x20 3, genWork { gen0 with prompt := l }, { gen0 with prompt := l }, genNode_home _ _, rfl, rfl, rfl,
      by show gForm (zeros 64) ≠ 1; decide, rfl, rfl, by show 0 + gPrompt (zeros 64) + gMaxNew (zeros 64) ≤ _; exact Nat.zero_le _⟩
  · exact ⟨genNode 0x21 { gen0 with stage := 1, prompt := List.replicate 1025 7 }, farAt 2 0x21 3, genWork { gen0 with stage := 1, prompt := List.replicate 1025 7 },
      { gen0 with stage := 1, prompt := List.replicate 1025 7 }, genNode_home _ _, rfl, rfl, rfl, rfl, by decide +kernel⟩
  · exact ⟨genNode 0x21 { gen0 with stage := 1 }, farAt 2 0x21 3, genWork { gen0 with stage := 1 }, { gen0 with stage := 1 }, genNode_home _ _, rfl, rfl, rfl, rfl,
      by decide +kernel, by decide, by decide⟩
  · exact ⟨genNode 0x21 splicedGen, farAt 2 0x21 3, genWork splicedGen, splicedGen, genNode_home _ _, rfl, rfl, rfl, rfl,
      by decide +kernel, by decide +kernel, by decide +kernel⟩
  · exact ⟨genNode 0x23 longPair, farAt 2 0x23 3, genWork longPair, longPair, genNode_home _ _, rfl, rfl, rfl, rfl, by decide +kernel, by decide +kernel⟩
  · intro d
    exact ⟨genNode 0x22 { gen0 with stage := 2, done := d }, farAt 2 0x22 3, genWork { gen0 with stage := 2, done := d }, { gen0 with stage := 2, done := d },
      genNode_home _ _, rfl, rfl, rfl, rfl, rfl, by intro h; cases h⟩
  · exact ⟨genNode 0x23 { gen0 with stage := 1, hdr := List.replicate 64 1 }, farAt 2 0x23 3, genWork { gen0 with stage := 1, hdr := List.replicate 64 1 },
      { gen0 with stage := 1, hdr := List.replicate 64 1 }, fltBuf, genNode_home _ _, rfl, rfl, rfl, rfl, rfl, by decide +kernel, by decide +kernel⟩
  · exact ⟨genNode 0x23 { gen0 with stage := 1 }, farAt 2 0x23 3, genWork { gen0 with stage := 1 }, { gen0 with stage := 1 }, genNode_home _ _, rfl, rfl, rfl, rfl,
      by decide +kernel⟩
  · exact ⟨_, instr 0, passWork 0x48 (instr 0) { gen0 with stage := 2 }, _, 4, [], batch_pass 0x48 0x22 (instr 0) { gen0 with stage := 2 } 2 1 0 rfl rfl (.inr rfl),
      rfl, rfl, rfl, rfl⟩
  · exact ⟨holds zst (farAt 1 0x24 3) (genWork gen0), 2, farAt 1 0x24 3, genWork gen0, gen0, rfl, rfl, rfl, rfl, rfl⟩
  · exact ⟨{ zst with tier := { zst.tier with lent := [⟨15, 0, 2, 0, []⟩] } }, [1], rfl, _, List.mem_singleton.mpr rfl, rfl, rfl⟩
  · exact ⟨holds zst (farAt 2 0x22 3) (genWork { gen0 with asked := 2 ^ 15 }), by decide +kernel⟩
  · exact ⟨zst, rfl⟩
  · exact ⟨withActive [(dkey 0x5400 7, [1, 0, 0, 0])] (at_ 1 { zst with caches := [(3, ⟨0, 0, [], 4, [], [], [], 0, [], 0, false, 0⟩)] }),
      ⟨0, 0, [], 4, [], [], [], 0, [], 0, false, 0⟩, rfl, rfl, by decide +kernel, by decide +kernel⟩
/-- A generator's image with one KV head of two values, and a buffer of two rows. -/
theorem witness_AttentionInstructionsComplete :
    (∀ kind, kind = 0 ∨ kind = 2 → ∀ f ≤ 1, ∃ (s : State) (ti : TInstr) (w : Work), ti.func = f ∧ s.batchAt 0x40 ti [5] ∧ s.workOf 5 = some w ∧
      (s.coveredRows 5 w ti).map (fun e => e.1.1.kind) = [kind, kind] ∧ 0 < genKvHeads w.runImage) ∧
    (∀ op ∈ [0x41, 0x44], ∃ (s : State) (ti : TInstr) (w : Work), s.batchAt op ti [5] ∧ s.workOf 5 = some w ∧ (s.coveredRows 5 w ti).length = 2) ∧
    (∀ op ∈ [0x42, 0x43], ∃ (s : State) (ti : TInstr) (w : Work), s.batchAt op ti [5] ∧ s.workOf 5 = some w ∧ (s.queryRows 5 w ti).length = 2) ∧
    (∀ f ≤ 1, ∀ st, st = 1 ∨ st = 2 → ∃ (s : State) (ti : TInstr) (w : Work) (g : GenWork), ti.func = f ∧ s.batchAt 0x46 ti [5] ∧ s.workOf 5 = some w ∧
      w.gen = some g ∧ g.stage = st ∧ w.drafting = false ∧ (s.coveredRows 5 w ti).length = 2 ∧ gDecode g.hdr = 0) ∧
    (∃ (s : State) (ti : TInstr), ti.func = 2 ∧ s.batchAt 0x46 ti [5]) ∧
    ∃ (s : State) (ti : TInstr) (w : Work) (g : GenWork), s.batchAt 0x43 ti [5] ∧ s.workOf 5 = some w ∧ w.gen = some g ∧ g.base ≠ 0 ∧
      w.drafting = false ∧ ∃ m ∈ g.members, s.memberPort m < 16 := by
  refine ⟨?_, ?_, ?_, ?_, ⟨_, instr 2, rfl, batch_pass 0x46 0x22 (instr 2) { gen0 with stage := 2 } 2 1 0 rfl rfl (.inr rfl)⟩,
    ⟨withActive [(dkey 0x5300 2, [0, 15])] (passNode 0x43 0x22 (instr 0) { gen0 with stage := 2, base := 64, members := [1] } 2 1 0), instr 0,
      passWork 0x43 (instr 0) { gen0 with stage := 2, base := 64, members := [1] }, { gen0 with stage := 2, base := 64, members := [1] },
      batch_pass 0x43 0x22 (instr 0) { gen0 with stage := 2, base := 64, members := [1] } 2 1 0 rfl rfl (.inr rfl), rfl, rfl, by decide, rfl,
      1, List.mem_singleton.mpr rfl, by decide +kernel⟩⟩
  · rintro kind hk f hf
    refine ⟨_, { instr f with opB := 8, fmtB := 9 }, passWork 0x40 { instr f with opB := 8, fmtB := 9 } { gen0 with stage := 1 }, rfl,
      batch_pass 0x40 0x21 { instr f with opB := 8, fmtB := 9 } { gen0 with stage := 1 } kind 2 0 rfl rfl (.inl rfl), rfl, ?_⟩
    rcases hk with rfl | rfl <;> revert f <;> decide +kernel
  · intro op ho
    refine ⟨_, { instr 0 with fmtB := 9 }, passWork op { instr 0 with fmtB := 9 } { gen0 with stage := 1 },
      batch_pass op 0x21 { instr 0 with fmtB := 9 } { gen0 with stage := 1 } 0 2 0 rfl rfl (.inl rfl), rfl, ?_⟩
    revert op; decide +kernel
  · intro op ho
    refine ⟨_, { instr 0 with fmtB := 9 }, passWork op { instr 0 with fmtB := 9 } { gen0 with stage := 1 },
      batch_pass op 0x21 { instr 0 with fmtB := 9 } { gen0 with stage := 1 } 0 2 0 rfl rfl (.inl rfl), rfl, ?_⟩
    revert op; decide +kernel
  · intro f hf st hs
    refine ⟨_, { instr f with fmtB := 9 }, passWork 0x46 { instr f with fmtB := 9 } { gen0 with stage := st }, { gen0 with stage := st }, rfl,
      batch_pass 0x46 0x21 { instr f with fmtB := 9 } { gen0 with stage := st } 0 2 0 rfl rfl (.inl rfl), rfl, rfl, rfl, rfl, ?_, by show gDecode (zeros 64) = 0; decide⟩
    rcases hs with rfl | rfl <;> revert f <;> decide +kernel
def sharedTab : EmbTab := embTab
def localTab : EmbTab := { embTab with desc := zeros 4 ++ [9, 0, 0, 1] ++ leBytes 4 1 ++ leBytes 2 1 ++ [1, 0] ++ zeros 24, final := [(1, [(0, [0x3F800000])])], commits := [(1, 1)] }
def embNode (e : EmbTab) (w : Work) : State := { holds zst (farAt 2 2 1) w with embs := [(0, e)] }
/-- An image of ROLE 4 that names table 0, and a request that looks up its row 0. -/
def tableImage : Bytes := overlay (zeros 256) 6 [4, 0, 0, 0, 0, 0, 1, 0]
def indexWork : Work := { bufWork (plainBuf 16 [[0, 0]]) (plainBuf 16 [[0, 0]]) with image := tableImage }
def lookup : TInstr := { instr 0 with fmtA := 16 }
theorem batch_emb (e : EmbTab) : (embNode e (standing 0x20 lookup indexWork)).batchAt 0x20 lookup [5] := by
  refine ⟨by decide, (standing 0x20 lookup indexWork).runImage, ?_⟩
  intro tag ht
  rcases List.mem_singleton.mp ht with rfl
  exact ⟨standing 0x20 lookup indexWork, ⟨⟨farAt 2 2 1, ⟨rfl, rfl, rfl, rfl⟩, by decide⟩, rfl, false, [], rfl, nofun⟩, rfl⟩
/-- The batch of source 0 for TRAIN_STEP 1, which came in step 4. -/
def waitTab : EmbTab := { sharedTab with batches := [⟨1, 0, [], 4⟩] }
theorem dedupBy_distinct {α : Type} (key : α → Nat) (l : List α) : ∀ seen : List Nat, (∀ x ∈ l, key x ∉ seen) → (l.map key).Nodup →
    dedupBy key seen l = l := by
  induction l with
  | nil => intros; rfl
  | cons x l ih =>
    intro seen h hn
    rw [List.map_cons, List.nodup_cons] at hn
    have hx : seen.contains (key x) = false := by simpa using h x (by simp)
    rw [dedupBy, hx]
    simp only [Bool.false_eq_true, if_false, List.cons.injEq, true_and]
    refine ih _ (fun y hy hm => ?_) hn.2
    rcases List.mem_cons.mp hm with e | e
    · exact hn.1 (e ▸ List.mem_map_of_mem hy)
    · exact h y (by simp [hy]) e
/-- A gather of 262,145 distinct rows. -/
def wideLookup : TInstr := { lookup with m := 262145 }
def wideWork : Work := { indexWork with bufs := [(7, plainBuf 16 ((List.range 262145).map fun i => [i]))], prog := [⟨false, 0x20, wideLookup⟩] }
def wideNode : State := embNode localTab wideWork
theorem wide_over : wideNode.gatherOver wideLookup [5] wideWork.plot = true := by
  have h0 : wideNode.workOf 5 = some wideWork := rfl
  have hl : wideNode.rowLimit 5 wideLookup = 262145 := rfl
  have hb : wideWork.bufOf wideLookup.opA 16 wideLookup.m 1 = plainBuf 16 ((List.range 262145).map fun i => [i]) := rfl
  have hp : gatherPositions ((plainBuf 16 ((List.range 262145).map fun i => [i])).rowsUpTo 262145) wideLookup.opB =
      (List.range 262145).map fun i => (8, i) := by
    unfold gatherPositions Buf.rowsUpTo plainBuf
    dsimp only
    rw [List.take_of_length_le (by rw [List.length_map, List.length_range]), List.map_map]
    rfl
  have hg : wideNode.gatherRows wideLookup [5] wideWork.plot = (List.range 262145).map fun i => (8, i) := by
    unfold State.gatherRows
    rw [List.flatMap_cons, List.flatMap_nil, List.append_nil, h0]
    dsimp only
    rw [if_pos rfl, hb, hl, hp]
    refine dedupBy_distinct _ _ _ (by simp) ?_
    rw [List.map_map]
    refine List.Nodup.map_on ?_ List.nodup_range
    intro a _ b _ e
    simp only [Function.comp_apply] at e
    omega
  unfold State.gatherOver
  rw [hg, List.length_map, List.length_range]
  rfl
theorem witness_EmbeddingCommandsComplete_gather : ∃ (s : State) (ti : TInstr) (w : Work), s.batchAt 0x20 ti [5] ∧ ti.func ≤ 1 ∧
    s.workOf 5 = some w ∧ s.gatherOver ti [5] w.plot = true := by
  refine ⟨wideNode, wideLookup, wideWork, ⟨by decide, wideWork.runImage, ?_⟩, by decide, rfl, wide_over⟩
  intro tag ht
  rcases List.mem_singleton.mp ht with rfl
  exact ⟨wideWork, ⟨⟨farAt 2 2 1, ⟨rfl, rfl, rfl, rfl⟩, by decide⟩, rfl, false, [], rfl, nofun⟩, rfl⟩
theorem witness_EmbeddingCommandsComplete :
    (∃ (s : State) (ti : TInstr) (w : Work), s.batchAt 0x20 ti [5] ∧ ti.func = 0 ∧ s.workOf 5 = some w ∧
      gatherPositions ((w.bufOf ti.opA 16 ti.m 1).rowsUpTo (s.rowLimit 5 ti)) ti.opB = [(0, 0)] ∧
      s.gatherOver ti [5] w.plot = false ∧
      ∃ e, mget s.embs 0 = some e ∧ e.state = 2 ∧ 0 < s.rowsFor w.runImage 0 ∧ (s.posValue w (0, 0)).isSome = true) ∧
    (∃ (s : State) (b : Bytes) (e : EmbTab), mget s.embs (u16 b 2) = some e ∧ u8 b 0 = 0 ∧ s.hedgeUp 15 = true) ∧
    (∃ (s : State) (b : Bytes) (e : EmbTab) (w : Work), mget s.embs (u16 b 2) = some e ∧ u8 b 0 ≠ 0 ∧ s.workOf 5 = some w ∧ w.gather = none) ∧
    (∃ (s : State) (b : Bytes) (e : EmbTab), mget s.embs (u16 b 0) = some e ∧ embSharded e.desc = true ∧ s.partOpen e.part = true ∧
      s.gradFail (b.take 32) (gradEntries (embWidth e.desc) (u32 (b.take 32) 4) (b.drop 32)) = none) ∧
    (∃ (s : State) (e : EmbTab), mget s.embs 0 = some e ∧ embSharded e.desc = false ∧ embTrainable e.desc = true ∧ e.state = 2) ∧
    (∃ (s : State) (e : EmbTab), mget s.embs 0 = some e ∧ embTrainable e.desc = false) ∧
    (∃ (s : State) (e : EmbTab) (g : List (Nat × List Nat)), mget s.embs 0 = some e ∧ e.state = 2 ∧ s.readySums 0 e (e.last + 1) = some g ∧
      ((s.applyPlots 0 e (g.map (·.1))).all fun p => s.fits (onPlot p.1 6) p.2) = true) ∧
    (∃ (s : State) (e : EmbTab) (g : List (Nat × List Nat)), mget s.embs 0 = some e ∧ e.state = 2 ∧ s.readySums 0 e (e.last + 1) = some g ∧
      ((s.applyPlots 0 e (g.map (·.1))).all fun p => s.fits (onPlot p.1 6) p.2) = false) ∧
    (∃ (s : State) (e : EmbTab) (b : GradBatch) (l : List GradBatch), mget s.embs 0 = some e ∧ e.state = 2 ∧
      e.batches.filter (fun b => b.train == e.last + 1) = b :: l ∧ embSharded e.desc = true ∧ (s.sources 0).any (fun n => !(b :: l).any fun b => b.source == n) = true ∧
      (mget e.warned (e.last + 1)).getD (minNat b.at_ ((b :: l).map (·.at_))) + s.actN 0x5300 6 ≤ s.step.number) ∧
    (∃ (s : State) (e : EmbTab) (b : GradBatch) (l : List GradBatch), mget s.embs 0 = some e ∧ e.state = 2 ∧
      e.batches.filter (fun b => b.train == e.last + 1) = b :: l ∧ embSharded e.desc = false ∧ mget e.final (e.last + 1) = none ∧
      (mget e.warned (e.last + 1)).getD (minNat b.at_ ((b :: l).map (·.at_))) + s.actN 0x5300 6 ≤ s.step.number) ∧
    (∃ (s : State) (e : EmbTab) (m : EmbMove), mget s.embs 0 = some e ∧ e.move = some m ∧ s.grant 8 = true ∧ m.at_ ≠ s.step.number ∧
      s.hasSlice (s.shardPlot e m.shard) 6 = true) ∧
    (∃ (s : State) (e : EmbTab) (m : EmbMove), mget s.embs 0 = some e ∧ e.move = some m ∧ s.grant 8 = true ∧ s.hasSlice (s.shardPlot e m.shard) 6 = false) ∧
    ∃ (s : State) (e : EmbTab) (m : EmbMove), mget s.embs 0 = some e ∧ e.move = some m ∧ s.grant 8 = false :=
  ⟨⟨_, lookup, standing 0x20 lookup indexWork, batch_emb localTab, rfl, rfl, by decide +kernel, by decide +kernel, localTab, rfl, rfl, by decide +kernel, by decide +kernel⟩,
    ⟨ported 15 2 HPort.reset (embNode localTab indexWork), zeros 16, localTab, rfl, by decide, by decide +kernel⟩,
    ⟨embNode localTab indexWork, [1, 0, 0, 0] ++ zeros 12, localTab, indexWork, rfl, by decide, rfl, rfl⟩,
    ⟨embNode sharedTab indexWork, [0, 0, 0, 63] ++ zeros 4 ++ leBytes 8 1 ++ zeros 16, sharedTab, rfl, by decide, rfl, by decide +kernel⟩,
    ⟨embNode localTab indexWork, localTab, rfl, by decide, by decide, rfl⟩,
    ⟨embNode { localTab with desc := zeros 40 } indexWork, { localTab with desc := zeros 40 }, rfl, by decide⟩,
    ⟨withActive partOn (seedling (embNode localTab indexWork)), localTab, [(0, [0x3F800000])], rfl, rfl, by decide +kernel, by decide +kernel⟩,
    ⟨withActive partOn (planned [] (embNode localTab indexWork)), localTab, [(0, [0x3F800000])], rfl, rfl, by decide +kernel, by decide +kernel⟩,
    ⟨withActive [(dkey 0x5200 3, [3] ++ zeros 7), (dkey 0x5300 6, zeros 4)] (at_ 4 (embNode waitTab indexWork)), waitTab, ⟨1, 0, [], 4⟩, [], rfl, rfl, rfl,
      by decide, by decide +kernel, by decide +kernel⟩,
    ⟨withActive [(dkey 0x5300 6, zeros 4)] (at_ 4 (embNode { localTab with batches := [⟨1, 0, [], 4⟩], final := [] } indexWork)),
      { localTab with batches := [⟨1, 0, [], 4⟩], final := [] }, ⟨1, 0, [], 4⟩, [], rfl, rfl, rfl, by decide, rfl, by decide +kernel⟩,
    ⟨grants [8] (at_ 4 (withActive partOn (planned [sliceEnt 0 6 4096 0 0] (embNode sharedTab indexWork)))), sharedTab, _, rfl, rfl, by decide +kernel, by decide, by decide +kernel⟩,
    ⟨grants [8] (planned [] (embNode sharedTab indexWork)), sharedTab, _, rfl, rfl, by decide +kernel, by decide +kernel⟩,
    ⟨embNode sharedTab indexWork, sharedTab, _, rfl, rfl, by decide +kernel⟩⟩

/-! ### Witnesses: rejoin, security, bring-up -/

def joinShard : Shard := { emptyShard 7 0 16 false with state := 1, pendEpoch := some sealRec }
def joinNode : State := withShard joinShard zst
def report : BootReport :=
  { g0Alive := true, straps := 0, bankOk := true, altBankOk := false, svnRunning := [0, 0, 0, 0], refclkOk := true, plotsOk := 32768, stacksOk := 32768, gatesOk := 1,
    headlandOk := true, chansOk := 0, dies := [], hedgePeers := [], leafCopyOk := true, leafReserved := 0, leafFuses := 0, capUf := 0, holdMv := 0, badLog := [],
    badSys := [], mapDecodes := true, flushRecordOk := false, failedSegs := [], rereadSegs := [] }
def testNode : State := at_ 1250 { zst with pwr := { zst.pwr with test := some (0, 1250) } }
theorem joinShard_image : joinShard.imageOk (segImage 3 7) 3 = true := imageOk_image _ rfl rfl rfl
theorem witness_RejoinAndSecurityComplete :
    (∃ (s : State) (h : Shard) (r : Bytes), mget s.shards 0 = some h ∧ h.owner = false ∧ h.state = 1 ∧ u32 r 8 = h.id) ∧
    (∃ (s : State) (h : Shard) (r image : Bytes), mget s.shards 0 = some h ∧ h.owner = false ∧ h.state = 1 ∧ h.pendEpoch = some r ∧ (recSeg r 3).isSome = true ∧
      mget h.images 3 = none ∧ h.imageOk image 3 = true ∧ s.segAgrees h image = true ∧ s.loadAgrees 0 h image = true ∧
      (recSeg r 3).map (·.2) = some (segmentRoot h.id 3 image)) ∧
    (∃ (s : State) (h : Shard) (r image : Bytes), mget s.shards 0 = some h ∧ h.owner = false ∧ h.state = 1 ∧ h.pendEpoch = some r ∧ (recSeg r 3).isSome = true ∧
      mget h.images 3 = none ∧ h.imageOk image 3 = false) ∧
    (∃ (s : State) (x due : Nat) (units : List TestUnit), s.pwr.test = some (x, due) ∧ due ≤ s.step.number ∧ units.length = 2 ∧
      ∀ u ∈ units, u.ok = true ∧ ∀ v ∈ units, v.typ = u.typ → ∀ k, unitResult v k = unitResult u k) ∧
    (∃ (s : State) (x due : Nat) (units : List TestUnit), s.pwr.test = some (x, due) ∧ due ≤ s.step.number ∧ ∃ u ∈ units, u.ok = false) ∧
    (∃ (s : State) (x due : Nat) (units : List TestUnit), s.pwr.test = some (x, due) ∧ due ≤ s.step.number ∧ (∀ u ∈ units, u.ok = true) ∧
      ∃ u ∈ units, ∃ v ∈ units, v.typ = u.typ ∧ ∃ k, unitResult v k ≠ unitResult u k) ∧
    (∃ (s : State) (x : Scrub), (s.part 7).scrub = some x ∧ x.ext < 2 ∧ x.chip < 2) ∧
    ∃ (s s1 : State) (a : AttReq) (i : Nat), s.sec.atts = a :: [] ∧ a.body ≠ [] ∧ s.handServes = true ∧
      State.takeLeaf { s with sec := { s.sec with atts := [] } } = some (i, s1) :=
  ⟨⟨joinNode, joinShard, zeros 8 ++ leBytes 4 7, rfl, rfl, rfl, by decide⟩,
    ⟨joinNode, joinShard, sealRec, segImage 3 7, rfl, rfl, rfl, rfl, by simpa using congrArg Option.isSome sealRec_image, rfl, joinShard_image, by decide +kernel,
      by decide +kernel, sealRec_image⟩,
    ⟨joinNode, joinShard, sealRec, [], rfl, rfl, rfl, rfl, by simpa using congrArg Option.isSome sealRec_image, rfl, by decide +kernel⟩,
    ⟨testNode, _, _, [⟨4, 0, true, []⟩, ⟨4, 1, true, []⟩], rfl, by decide, rfl, by
      intro u hu; simp only [List.mem_cons, List.not_mem_nil, or_false] at hu
      rcases hu with rfl | rfl <;> refine ⟨rfl, ?_⟩ <;> intro v hv _ k <;> simp only [List.mem_cons, List.not_mem_nil, or_false] at hv <;>
        rcases hv with rfl | rfl <;> rfl⟩,
    ⟨testNode, _, _, [⟨0, 15, false, []⟩], rfl, by decide, by decide⟩,
    ⟨testNode, _, _, [⟨4, 0, true, []⟩, ⟨4, 1, true, [(255, [1])]⟩], rfl, by decide, by decide,
      ⟨4, 0, true, []⟩, by simp, ⟨4, 1, true, [(255, [1])]⟩, by simp, rfl, 255, by decide⟩,
    ⟨{ zst with parts := [(7, ⟨none, some ⟨0, 0, 1, 0⟩, none, 0⟩)] }, ⟨0, 0, 1, 0⟩, rfl, by decide, by decide⟩,
    ⟨{ on with sec := { on.sec with atts := [⟨.mac 1, zeros 32, 0, 0, [1]⟩] } }, _, _, _, rfl, by decide, by decide, rfl⟩⟩
theorem witness_BringUpStartsSteps : ∃ (s : State) (r : BootReport), s.pwr.boot = .off ∧ r.g0Alive = true ∧ r.refclkOk = true ∧ r.headlandOk = true ∧
    bit r.gatesOk 0 = true ∧ s.powerDown.bankPasses r (if s.sec.swap then 1 - s.sec.bank else s.sec.bank) r.bankOk = true ∧
    bit r.plotsOk 15 = true ∧ bit r.stacksOk 15 = true :=
  ⟨zst, report, rfl, rfl, rfl, rfl, rfl, by decide +kernel, by decide, by decide⟩

/-! ### The checks of WellFormed: an ill-formed term for each is refused -/

def okTi : TInstr := ⟨255, 255, 255, 255, 2 ^ 32 - 1, 2 ^ 32 - 1, 2 ^ 32 - 1, 2 ^ 32 - 1, 2 ^ 32 - 1, 2 ^ 32 - 1⟩
def badTi : TInstr := { okTi with res := 2 ^ 32 }
def okFrame : FdpFrame := ⟨2 ^ 48 - 1, false, 255, false, false, true, 65535, 65535, 255, 2 ^ 32 - 1, 2 ^ 32 - 1, [], []⟩
def badFrame : FdpFrame := { okFrame with total := 2 ^ 32 }
def badGroup : GroupId := ⟨0, 128⟩
def okRow : TillRow := ⟨⟨15, 127⟩, 79, 4095⟩
def badRow : TillRow := { okRow with bank := 80 }
def okSensors : Sensors := ⟨2 ^ 32 - 1, 2 ^ 32 - 1, 2 ^ 32 - 1, List.replicate 20 0, List.replicate 16 0, List.replicate 16 0, [(159, 0)], [3], []⟩
/-- Outcomes and frames of which nothing is wrong. -/
def okAudit : AuditChk := ⟨.ok, .ok, .ok⟩
def okHow : FrameIn := ⟨true, none, 0⟩
def okDie : DieReport := ⟨31, 15, zeros 6, zeros 20, true, 16384, 2208, 1000, 768, [], 2⟩
def badSensors : Sensors := { okSensors with uncorrected := [4] }
theorem test_ill_formed_places_are_refused : [GroupId.wf ⟨16, 0⟩, GroupId.wf ⟨0, 128⟩, TillRow.wf { okRow with g := badGroup }, TillRow.wf { okRow with bank := 80 },
    TillRow.wf { okRow with row := 4096 }, plotOk 16, hedgeOk 16, ethOk 4, portOk 20, DieReport.wf { okDie with chan := 32 },
    DieReport.wf { okDie with die := 16 }, DieReport.wf { okDie with jedecId := [] }, DieReport.wf { okDie with model := [] },
    DieReport.wf { okDie with format := 3 }, FrameIn.wf ⟨true, some 8, 0⟩, FrameIn.wf ⟨true, none, 64⟩].all (! ·) = true := by decide +kernel
theorem test_ill_formed_fields_are_refused : [TInstr.wf { okTi with fmtA := 256 }, TInstr.wf { okTi with fmtB := 256 }, TInstr.wf { okTi with outFmt := 256 },
    TInstr.wf { okTi with func := 256 }, TInstr.wf { okTi with m := 2 ^ 32 }, TInstr.wf { okTi with n := 2 ^ 32 }, TInstr.wf { okTi with k := 2 ^ 32 },
    TInstr.wf { okTi with opA := 2 ^ 32 }, TInstr.wf { okTi with opB := 2 ^ 32 }, TInstr.wf badTi, FdpFrame.wf { okFrame with mac := 2 ^ 48 },
    FdpFrame.wf { okFrame with version := 256 }, FdpFrame.wf { okFrame with transaction := 65536 }, FdpFrame.wf { okFrame with index := 65536 },
    FdpFrame.wf { okFrame with sub := 256 }, FdpFrame.wf badFrame, FdpFrame.wf { okFrame with frameSeq := 2 ^ 32 }].all (! ·) = true := by decide +kernel
theorem test_ill_formed_reports_are_refused : [Sensors.wf { okSensors with pinW := 2 ^ 32 }, Sensors.wf { okSensors with vinMv := 2 ^ 32 },
    Sensors.wf { okSensors with holdMv := 2 ^ 32 }, Sensors.wf { okSensors with tjDc := List.replicate 21 0 }, Sensors.wf { okSensors with stackDc := List.replicate 17 0 },
    Sensors.wf { okSensors with cpm := List.replicate 17 0 }, Sensors.wf { okSensors with delays := [(160, 0)] }, Sensors.wf badSensors,
    BootReport.wf { report with plotsOk := 65536 }, BootReport.wf { report with stacksOk := 65536 }, BootReport.wf { report with gatesOk := 16 },
    BootReport.wf { report with chansOk := 2 ^ 32 }, BootReport.wf { report with svnRunning := [0, 0, 0] }, BootReport.wf { report with capUf := 2 ^ 32 },
    BootReport.wf { report with holdMv := 2 ^ 32 }, BootReport.wf { report with dies := [{ okDie with chan := 32 }] }].all (! ·) = true := by decide +kernel
theorem test_ill_formed_items_are_refused :
    ([.near 16, .far 16, .stack 16, .plot 16, .farContext (2 ^ 64), .stub (2 ^ 64)] : List PoolLoss).all (!·.wf) = true ∧
    ([⟨.frame (2 ^ 32), 0, 1⟩, ⟨.sealed 256 0 0, 0, 1⟩, ⟨.sealed 0 65536 0, 0, 1⟩, ⟨.sealed 0 0 (2 ^ 32), 0, 1⟩, ⟨.delta 256, 0, 1⟩, ⟨.emb 256, 0, 1⟩,
      ⟨.context (2 ^ 64), 0, 1⟩, ⟨.stub (2 ^ 64), 0, 1⟩, ⟨.image 256 0 0, 0, 1⟩, ⟨.image 0 65536 0, 0, 1⟩, ⟨.image 0 0 (2 ^ 32), 0, 1⟩,
      ⟨.row, 2 ^ 32, 1⟩, ⟨.row, 0, 73⟩] : List ScrubFind).all (!·.wf) = true ∧
    ([.image 65536 [], .tombs [(2 ^ 40, 0)], .tombs [(0, 2 ^ 64)]] : List RejoinItem).all (!·.wf) = true ∧
    ([.req (2 ^ 24) 0 256 0 0 false, .req 0 4 256 0 0 false, .req 0 0 4097 0 0 false, .req 0 0 256 256 0 false, .req 0 0 256 0 (2 ^ 24) false, .rtu (2 ^ 24),
      .dreq (2 ^ 24)] : List CmMsg).all (!·.wf) = true ∧
    ([.running (2 ^ 64) [], .final (2 ^ 64) [], .commit (2 ^ 64) 0, .commit 0 64, .missing (2 ^ 64)] : List SumsMsg).all (!·.wf) = true ∧
    ([⟨2 ^ 23, 0, 0, 0, [], []⟩, ⟨0, 2 ^ 32, 0, 0, [], []⟩, ⟨0, 0, 2 ^ 32, 0, [], []⟩, ⟨0, 0, 0, 2 ^ 32, [], []⟩, ⟨0, 0, 0, 0, [(16, 1)], []⟩,
      ⟨0, 0, 0, 0, [(0, 8193)], []⟩, ⟨0, 0, 0, 0, [], [2 ^ 23]⟩] : List ScrubRead).all (!·.wf) = true ∧
    MoveEnd.wf (.sourceUe (2 ^ 24)) = false ∧ ([.corrected 0, .poison []] : List CellDamage).all (!·.wf) = true := by decide +kernel
def ill0 : List Instr :=
  [.stepClose badSensors, .engineSlot (2 ^ 20) .inSlot [], .engineSlot 0 .inSlot [0, 2 ^ 64], .headlandTransfer (2 ^ 20) true [],
   .headlandTransfer 0 true [0, 2 ^ 64], .headlandRetry (2 ^ 20) true, .tierChangeRequest 3, .tierStretch 3, .barLoss (2 ^ 2),
   .stringLoss true (2 ^ 4), .gateDieLoss (2 ^ 2), .agentRestart true true (2 ^ 4), .hostRdmaWrite (2 ^ 24) 0 [] okHow,
   .hostRdmaRead (2 ^ 24) 0 0 true, .hostRdmaRead 0 0 (2 ^ 32) true, .eventConsumedWrite (2 ^ 24) 0 [], .eventConsumedWrite 0 (2 ^ 32) [],
   .queryPrepare (2 ^ 64) .ok, .tableBuild (2 ^ 64) .ok, .segmentWalk (2 ^ 64) 0 0 0 .ok, .segmentWalk 0 (2 ^ 8) 0 0 .ok,
   .segmentWalk 0 0 (2 ^ 16) 0 .ok, .segmentWalk 0 0 0 (2 ^ 32) .ok, .fullScan (2 ^ 64) 0 0 .ok, .fullScan 0 (2 ^ 8) 0 .ok,
   .fullScan 0 0 (2 ^ 16) .ok, .deltaScan (2 ^ 64) 0 [], .deltaScan 0 (2 ^ 8) [], .deltaScan 0 0 [(16, .ok)], .enumeration (2 ^ 64) 0 0 .ok,
   .enumeration 0 (2 ^ 8) 0 .ok, .enumeration 0 0 (2 ^ 16) .ok, .bitmapFilterEval (2 ^ 64) 0 0 .ok, .bitmapFilterEval 0 (2 ^ 8) 0 .ok,
   .bitmapFilterEval 0 0 (2 ^ 16) .ok, .rerankSelect (2 ^ 64) 0 .ok, .rerankSelect 0 (2 ^ 8) .ok, .rerank (2 ^ 64) 0 .ok .ok,
   .rerank 0 (2 ^ 8) .ok .ok, .widenedPass (2 ^ 64), .winnowerPass (2 ^ 64) 0 0 .ok, .winnowerPass 0 (2 ^ 8) 0 .ok, .winnowerPass 0 0 16 .ok,
   .shardResult (2 ^ 64) 0 .ok .ok, .shardResult 0 (2 ^ 8) .ok .ok, .merge (2 ^ 64) .ok .ok, .remoteWaitExpiry (2 ^ 64),
   .certify (2 ^ 64) .ok, .completionWrite (2 ^ 64), .auditPass (2 ^ 64) .ok okAudit .ok, .rootRequest (2 ^ 64) .ok]
def ill1 : List Instr :=
  [.subSearch 16 [], .shardList 16 0 [], .shardList 0 (2 ^ 64) [], .certFields 16 0 [], .certFields 0 (2 ^ 64) [], .insert (2 ^ 64),
   .delete (2 ^ 64), .replace (2 ^ 64), .logRecords 16 [], .replicaApply (2 ^ 8), .logAck 16 0 0, .logAck 0 (2 ^ 32) 0, .logAck 0 0 (2 ^ 64),
   .logResend 16 0 0, .logResend 0 (2 ^ 32) 0, .logResend 0 0 (2 ^ 64), .deltaOpen (2 ^ 8), .sealFreeze (2 ^ 8), .sealBuild (2 ^ 8) .ok [],
   .sealBuild 0 .ok [(2 ^ 24, [])],
   .sealBuild 0 .ok [(0, [2 ^ 32])], .sealWrite (2 ^ 8), .sealSwitch (2 ^ 8), .segmentImage 16 0 [] [],
   .segmentImage 0 (2 ^ 8) [] [], .replicaEpochSwitch (2 ^ 8), .compactionChoose (2 ^ 8), .compactionBuild (2 ^ 8) .ok,
   .compactionSwitch (2 ^ 8), .epochRelease (2 ^ 8) 0, .epochRelease 0 (2 ^ 32), .take (2 ^ 64) .clean, .release (2 ^ 64) .clean,
   .auditSweep 16, .poolLoss (.near 16), .replay (2 ^ 64) true, .gemm [0, 2 ^ 64] 0 okTi .ok .ok, .gemm [] (2 ^ 6) okTi .ok .ok,
   .gemm [] 0 badTi .ok .ok, .loadScales [0, 2 ^ 64] 0 okTi, .loadScales [] (2 ^ 6) okTi, .loadScales [] 0 badTi,
   .swapScales [0, 2 ^ 64] 0 okTi, .swapScales [] (2 ^ 6) okTi, .swapScales [] 0 badTi, .ewise [0, 2 ^ 64] 0 okTi .ok,
   .ewise [] (2 ^ 6) okTi .ok, .ewise [] 0 badTi .ok, .act [0, 2 ^ 64] 0 okTi .ok, .act [] (2 ^ 6) okTi .ok]
def ill2 : List Instr :=
  [.act [] 0 badTi .ok, .norm [0, 2 ^ 64] 0 okTi .ok, .norm [] (2 ^ 6) okTi .ok, .norm [] 0 badTi .ok, .softmax [0, 2 ^ 64] 0 okTi .ok,
   .softmax [] (2 ^ 6) okTi .ok, .softmax [] 0 badTi .ok, .pool [0, 2 ^ 64] 0 okTi .ok, .pool [] (2 ^ 6) okTi .ok, .pool [] 0 badTi .ok,
   .convert [0, 2 ^ 64] 0 okTi, .convert [] (2 ^ 6) okTi, .convert [] 0 badTi, .embGather [0, 2 ^ 64] okTi, .embGather [] badTi,
   .clipDump [0, 2 ^ 64] 0 okTi, .clipDump [] (2 ^ 6) okTi, .clipDump [] 0 badTi, .kvAppend [0, 2 ^ 64] 0 okTi, .kvAppend [] (2 ^ 6) okTi,
   .kvAppend [] 0 badTi, .ropeQ [0, 2 ^ 64] 0 okTi, .ropeQ [] (2 ^ 6) okTi, .ropeQ [] 0 badTi, .attnMax [0, 2 ^ 64] 0 okTi,
   .attnMax [] (2 ^ 6) okTi, .attnMax [] 0 badTi, .attnPage [0, 2 ^ 64] 0 okTi, .attnPage [] (2 ^ 6) okTi, .attnPage [] 0 badTi,
   .attnCombine [0, 2 ^ 64] 0 okTi, .attnCombine [] (2 ^ 6) okTi, .attnCombine [] 0 badTi, .tillMatvec [0, 2 ^ 64] okTi ⟨.ok, .ok⟩,
   .tillMatvec [] badTi ⟨.ok, .ok⟩, .tokenChoose [0, 2 ^ 64] 0 okTi, .tokenChoose [] (2 ^ 6) okTi, .tokenChoose [] 0 badTi, .verify [0, 2 ^ 64] okTi,
   .verify [] badTi, .modelDrainStart (2 ^ 8), .modelActivate (2 ^ 8), .gradientBatch 16 [], .trainStepApply (2 ^ 8) true,
   .trainWaitExpiry (2 ^ 8), .runningSums 16 0 (.missing 0), .runningSums 0 (2 ^ 8) (.missing 0), .runningSums 0 0 (.missing (2 ^ 64)),
   .embRows 16 0 [], .embRows 0 (2 ^ 64) []]
def ill3 : List Instr :=
  [.embShardCopy (2 ^ 8), .embShardSwitch (2 ^ 8), .genPlace (2 ^ 64), .prefill (2 ^ 64) .ok, .decode (2 ^ 64) ⟨.ok, .ok⟩, .score (2 ^ 64) ⟨.ok, .ok⟩,
   .pagePartials (2 ^ 64) 0 [] true, .pagePartials 0 16 [] true, .cacheRetainExpiry (2 ^ 32), .promotionCopy ⟨16, []⟩, .promotionCopy ⟨0, [2 ^ 32]⟩, .promotionSwitch 16,
   .refreshSlice (2 ^ 20), .scrubSlice (2 ^ 20) [], .scrubSlice 0 [⟨.emb 256, 0, 1⟩], .rowRepair 16 0, .rowRepair 0 (2 ^ 32),
   .segmentLoad (2 ^ 8) 0 .ok, .segmentLoad 0 (2 ^ 16) .ok, .pageReload (2 ^ 8) 0 0 true, .pageReload 0 (2 ^ 16) 0 true,
   .pageReload 0 0 (2 ^ 32) true, .segmentRefetch (2 ^ 8) 0 [], .segmentRefetch 0 (2 ^ 16) [], .tillingEnter (2 ^ 20), .tillingRun (2 ^ 20),
   .tillingExit (2 ^ 20), .tillingLoad (2 ^ 20) okRow .corrected, .tillingLoad 0 badRow .corrected, .tmAckTimeout badGroup,
   .tillCommandWrite badGroup (zeros 64), .tillCommandWrite group0 (zeros 63), .nop badGroup, .tillingRefreshDue badGroup true,
   .rowCopy badGroup, .rowClear badGroup, .writeRow badGroup, .readRow ⟨badGroup, .ok⟩, .tillAnd badGroup, .tillOr badGroup, .tillNot badGroup,
   .tillXor badGroup, .ewAdd badGroup, .ewMul badGroup, .ewAct badGroup, .matvec badGroup .ok, .flashRead (2 ^ 32) 0 (.decoded 0) [] [],
   .flashRead 0 (2 ^ 3) (.decoded 0) [] [], .flashRead 0 0 (.decoded 0) [(16, 1)] [], .flashRead 0 0 (.decoded 0) [] [0, 2 ^ 64],
   .imageWrite (2 ^ 8) true []]
def ill4 : List Instr :=
  [.imageWrite 0 true [(0, true), (2 ^ 32, true)], .mapCheckpoint (2 ^ 32), .gcCopy (2 ^ 9) .ok, .flashScrub (2 ^ 9) [],
   .flashScrub 0 [⟨2 ^ 23, 0, 0, 0, [], []⟩], .flashDieLoss (2 ^ 9), .nandRailOvercurrent (2 ^ 5), .copy (2 ^ 20) .ok [], .copy 0 .ok [0, 2 ^ 64],
   .transpose (2 ^ 20) .ok [], .transpose 0 .ok [0, 2 ^ 64], .untranspose (2 ^ 20) .ok [], .untranspose 0 .ok [0, 2 ^ 64],
   .gather (2 ^ 20) .ok [], .gather 0 .ok [0, 2 ^ 64], .scatter (2 ^ 20) .ok [], .scatter 0 .ok [0, 2 ^ 64], .cellPush 16 0 none ⟨[], true⟩,
   .cellPush 0 (2 ^ 16) none ⟨[], true⟩, .cellPush 0 0 (some (2 ^ 64)) ⟨[], true⟩, .cellPop 16 0 .none [], .cellPop 0 (2 ^ 16) .none [],
   .cellPop 0 0 .none [0, 2 ^ 64], .queueFlushApply 16 0, .queueFlushApply 0 (2 ^ 16), .laneFailure 16 0 ⟨true, 0, true⟩, .laneFailure 0 9 ⟨true, 0, true⟩,
   .laneFailure 0 0 ⟨false, 2 ^ 32, true⟩, .laneSwap 16 0, .laneSwap 0 9, .laneRetrain 16 true, .portRecovery 16 true 0, .portRecovery 0 true (2 ^ 32),
   .portTraining 16 0 0 true true [] [], .portTraining 0 (2 ^ 64) 0 true true [] [], .portTraining 0 0 (2 ^ 32) true true [] [], .portReup 16,
   .dataFlit 16 (zeros 256) true true, .dataFlit 0 (zeros 255) true true, .retry 16 0, .retry 0 (2 ^ 16), .ack 16 0, .ack 0 (2 ^ 16),
   .peerId 16 0, .peerId 0 (2 ^ 64), .replayTimeout 16, .rejoinLoad 16 0 (.log []), .rejoinLoad 0 (2 ^ 8) (.log []),
   .rejoinLoad 0 0 (.image 65536 []), .ethLinkDown 4, .ethLinkUp ⟨4, true, true⟩]
def ill5 : List Instr :=
  [.ethFailover 4, .cmMessage 4 (.rtu 0), .cmMessage 0 (.rtu (2 ^ 24)), .roceRefusedOpcode (2 ^ 24), .cnpReceive (2 ^ 24),
   .ceMarkedPacket (2 ^ 24) 0, .ceMarkedPacket 0 (2 ^ 64), .pfcPause 4 0 true, .pfcPause 0 (2 ^ 3) true, .arpNdEcho 4 .arp ⟨64, 0, false, []⟩,
   .arpNdEcho 0 .arp ⟨65536, 0, false, []⟩, .roceAckTimeout (2 ^ 24), .shaperRefill 20, .egressWindow 20 0 0, .egressWindow 0 (2 ^ 32) 0, .egressWindow 0 0 (2 ^ 8),
   .gateListTakeover 20, .readExpedited badFrame, .writeExpedited badFrame, .readInit badFrame, .writeInit badFrame, .segment badFrame,
   .abort badFrame, .commit badFrame, .discard badFrame, .transferIdleExpiry (2 ^ 48), .mirrorStagingWrite (2 ^ 24) 0 0 0 [],
   .mirrorStagingWrite 0 (2 ^ 16) 0 0 [], .mirrorStagingWrite 0 0 (2 ^ 8) 0 [], .mirrorStagingWrite 0 0 0 (2 ^ 32) [], .dictCommit (2 ^ 24),
   .dictDiscard (2 ^ 24), .rejoinTestEnd [⟨5, 0, true, []⟩], .rejoinTestEnd [⟨4, 0, true, [(256, [])]⟩], .rejoinLoaded (2 ^ 8), .plotFaultLimit 16, .tenantDrainStart (2 ^ 3),
   .tenantSwitch (2 ^ 3), .tenantScrub (2 ^ 3) true true, .tenantScrubEnd (2 ^ 3), .powerOn { report with gatesOk := 16 },
   .vinMarginal (2 ^ 32), .resetPulse (2 ^ 32), .capTest (2 ^ 32) 0, .capTest 0 (2 ^ 32), .vcoreAdjust 16 0, .ingressWindow 4 0,
   .ingressWindow 0 (2 ^ 8), .roceAckReceived (2 ^ 24) 0 true, .roceAckReceived 0 (2 ^ 24) true]
def well0 : List Instr :=
  [.stepBoundary, .stepClose okSensors, .engineSlot 0 .inSlot [], .headlandTransfer 0 true [], .headlandRetry 0 true, .stepNumberLimit,
   .planDrainStart, .planSetActivate, .tierChangeRequest 0, .tierClockChange, .tierStretch 0, .handWatchdogExpiry, .g0Loss, .barLoss 0,
   .stringLoss true 0, .gateDieLoss 0, .alternateHandTakeover ⟨true, true⟩, .agentRestart true true 0, .hostRdmaWrite 0 0 [] okHow,
   .hostRdmaRead 0 0 0 true, .eventConsumedWrite 0 0 [], .search, .queryPrepare 0 .ok, .tableBuild 0 .ok, .segmentWalk 0 0 0 0 .ok,
   .fullScan 0 0 0 .ok, .deltaScan 0 0 [], .enumeration 0 0 0 .ok, .bitmapFilterEval 0 0 0 .ok, .rerankSelect 0 0 .ok, .rerank 0 0 .ok .ok,
   .widenedPass 0, .winnowerPass 0 0 0 .ok, .shardResult 0 0 .ok .ok, .merge 0 .ok .ok, .remoteWaitExpiry 0, .certify 0 .ok,
   .completionWrite 0, .auditPass 0 .ok okAudit .ok, .rootRequest 0 .ok, .rootQueueDrain, .subSearch 0 [], .shardList 0 0 [], .certFields 0 0 [],
   .insert 0, .delete 0, .replace 0, .logRecords 0 [], .replicaApply 0, .logAck 0 0 0, .logResend 0 0 0, .deltaOpen 0, .sealFreeze 0]
def well1 : List Instr :=
  [.sealBuild 0 .ok [], .sealWrite 0, .sealSwitch 0, .segmentImage 0 0 [] [], .replicaEpochSwitch 0, .compactionChoose 0,
   .compactionBuild 0 .ok, .compactionSwitch 0, .epochRelease 0 0, .logTrim, .take 0 .clean, .release 0 .clean, .auditSweep 0,
   .poolLoss (.near 0), .replay 0 true, .gemm [] 0 okTi .ok .ok, .loadScales [] 0 okTi, .swapScales [] 0 okTi, .ewise [] 0 okTi .ok,
   .act [] 0 okTi .ok, .norm [] 0 okTi .ok, .softmax [] 0 okTi .ok, .pool [] 0 okTi .ok, .convert [] 0 okTi, .embGather [] okTi,
   .clipDump [] 0 okTi, .kvAppend [] 0 okTi, .ropeQ [] 0 okTi, .attnMax [] 0 okTi, .attnPage [] 0 okTi, .attnCombine [] 0 okTi,
   .tillMatvec [] okTi ⟨.ok, .ok⟩, .tokenChoose [] 0 okTi, .verify [] okTi, .modelDrainStart 0, .modelActivate 0, .gradientBatch 0 [],
   .trainStepApply 0 true, .trainWaitExpiry 0, .runningSums 0 0 (.missing 0), .embRows 0 0 [], .loadWindowEnd, .embShardCopy 0,
   .embShardSwitch 0, .generate, .genPlace 0, .prefill 0 .ok, .decode 0 ⟨.ok, .ok⟩, .score 0 ⟨.ok, .ok⟩, .pagePartials 0 0 [] true, .cacheRetainExpiry 0,
   .placementWindowEnd, .pageDemote]
def well2 : List Instr :=
  [.promotionCopy ⟨0, []⟩, .promotionSwitch 0, .refreshSlice 0, .scrubSlice 0 [], .rowRepair 0 0, .segmentLoad 0 0 .ok, .pageReload 0 0 0 true,
   .segmentRefetch 0 0 [], .tillingEnter 0, .tillingRun 0, .tillingExit 0, .tillingLoad 0 okRow .corrected, .tmAckTimeout group0,
   .tillCommandWrite group0 (zeros 64), .nop group0, .tillingRefreshDue group0 true, .rowCopy group0, .rowClear group0, .writeRow group0,
   .readRow ⟨group0, .ok⟩, .tillAnd group0, .tillOr group0, .tillNot group0, .tillXor group0, .ewAdd group0, .ewMul group0, .ewAct group0,
   .matvec group0 .ok, .flashRead 0 0 (.decoded 0) [] [], .logWrite true, .logPageTimeout, .imageWrite 0 true [], .mapCheckpoint 0,
   .gcCopy 0 .ok, .flashScrub 0 [], .flashDieLoss 0, .nandRailOvercurrent 0, .copy 0 .ok [], .transpose 0 .ok [], .untranspose 0 .ok [],
   .gather 0 .ok [], .scatter 0 .ok [], .cellPush 0 0 none ⟨[], true⟩, .cellPop 0 0 .none [], .queueFlushApply 0 0, .laneFailure 0 0 ⟨true, 0, true⟩,
   .laneSwap 0 0, .laneRetrain 0 true, .portRecovery 0 true 0, .portTraining 0 0 0 true true [] [], .portReup 0,
   .dataFlit 0 (zeros 256) true true, .retry 0 0]
def well3 : List Instr :=
  [.ack 0 0, .peerId 0 0, .replayTimeout 0, .rejoinLoad 0 0 (.log []), .ethLinkDown 0, .ethLinkUp ⟨0, true, true⟩, .ethFailover 0, .cmMessage 0 (.rtu 0),
   .roceRefusedOpcode 0, .cnpReceive 0, .ceMarkedPacket 0 0, .pfcPause 0 0 true, .arpNdEcho 0 .arp ⟨64, 0, false, []⟩, .roceAckTimeout 0, .shaperRefill 0,
   .egressWindow 0 0 0, .gateListTakeover 0, .readExpedited okFrame, .writeExpedited okFrame, .readInit okFrame, .writeInit okFrame,
   .segment okFrame, .abort okFrame, .commit okFrame, .discard okFrame, .transferIdleExpiry 0, .mirrorStagingWrite 0 0 0 0 [], .dictCommit 0,
   .dictDiscard 0, .commitApply, .rejoinTestEnd [], .rejoinLoaded 0, .rejoinAdmit, .plotFaultLimit 0, .tenantDrainStart 0, .tenantSwitch 0,
   .tenantScrub 0 true true, .tenantScrubEnd 0, .attReportSign, .powerOn report, .inputLoss ⟨.vin, [], []⟩, .vinMarginal 0, .clockFault, .resetPulse 0,
   .capTest 0 0, .vcoreAdjust 0 0, .thermalClamp, .clampRelease, .thermalTrip, .ingressWindow 0 0, .roceAckReceived 0 0 true, .refclkReturn,
   .transmitOpportunity]
theorem test_ill_formed_commands_are_refused : (ill0 ++ ill1 ++ ill2 ++ ill3 ++ ill4 ++ ill5).all (fun c => !c.wf) = true := by decide +kernel
theorem test_well_formed_commands_are_taken : (well0 ++ well1 ++ well2 ++ well3).all Instr.wf = true := by decide +kernel

/-! ### Worked cases of the spec, and checks by hand -/

/-- The example under R56. -/
theorem test_neighbour_list_of_vertex_70100 :
    encodeNeighbours [1000, 1003, 1200, 70000] = [0x04, 0x81, 0xE8, 0x03, 0x02, 0xC4, 0xBF, 0x0C, 0x01] ∧
    decodeNeighbours [0x04, 0x81, 0xE8, 0x03, 0x02, 0xC4, 0xBF, 0x0C, 0x01] = [1000, 1003, 1200, 70000] := by decide +kernel
/-- The example under R17: lane 2 of P5.Harrow3. -/
theorem test_location_of_a_lane : locLane 5 2 3 2 = 0x8A906040 := by decide
/-- The example under R21. -/
theorem test_field_address_of_a_stack : faRegion 0x1000012300001000 = 1 ∧ faStack 0x1000012300001000 = 9 ∧
    faStackOff 0x1000012300001000 = 0x300001000 := by decide +kernel
/-- The example under R66: the sides of the paths of leaves 2 and 4 of five. -/
theorem test_paths_of_a_five_leaf_tree :
    (inclPath [[0], [1], [2], [3], [4]] 2).map (·.1) = [true, false, true] ∧ ((inclPath [[0], [1], [2], [3], [4]] 2).head?.map (·.2)) = some [3] ∧
    ((inclPath [[0], [1], [2], [3], [4]] 2).getLast?.map (·.2)) = some [4] ∧ (inclPath [[0], [1], [2], [3], [4]] 4).map (·.1) = [false] := by
  decide +kernel
/-- The first 32 bytes of SHAKE256 of no bytes (FIPS 202). -/
theorem test_digest_of_no_bytes : digest [] =
    [0x46, 0xB9, 0xDD, 0x2B, 0x0B, 0xA8, 0x8D, 0x13, 0x23, 0x3B, 0x3F, 0xEB, 0x74, 0x3E, 0xEB, 0x24, 0x3F, 0xCD, 0x52, 0xEA, 0x62, 0xB8, 0x1B, 0x82,
     0xB5, 0x0C, 0x27, 0x64, 0x6E, 0xD5, 0x76, 0x2F] := by decide +kernel
/-- The check value of the IEEE 802.3 CRC-32. -/
theorem test_crc_check_value : crc32 (ascii "123456789") = 0xCBF43926 := by decide +kernel
/-- The example under R78: tables from -7.25 to 8.75, and an entry of -3.75. -/
theorem test_quantised_table_entries : (tableScale [0xC740, 0x4860]).map (·.2) = some 0x457FFF00 ∧
    [0xC740, 0xC380, 0x4860].map (quantEntry (tableScale [0xC740, 0x4860])) = [0, 14336, 65535] := by decide +kernel
/-- The example under R84: shares of three segments. -/
theorem test_shares_of_the_visit_budget : shares 4096 [16777216, 40000, 50] = (4096, [3973, 73, 50]) := by decide
/-- The example under R108: two shard lists merged at K = 3. -/
def mergeCand (ext shard handle : Nat) (exact : Int) : Cand := ⟨ext, shard, handle, 0, exact, 0, false, false, 0⟩
def mergeList : List Cand :=
  [mergeCand 0x0A11 0x17 0x0041000010 (-9120), mergeCand 0x0B22 0x17 0x0040000200 (-8700), mergeCand 0x0C33 0x17 0x0043000005 (-8700),
   mergeCand 0x0B22 0x21 0x0082000007 (-8950), mergeCand 0x0E55 0x21 0x0080000001 (-8700), mergeCand 0x0C33 0x21 0x0081000044 (-8700)]
def mergePos (shard : Nat) : Nat := if shard = 0x17 then 0 else 1
theorem test_merge_of_two_shard_lists :
    (selectBy (fun c => orderKey (exactPrimary c.exact) (mergePos c.shard) c.handle) (removeDups mergePos mergePos mergeList) 3).map
      (fun c => (c.ext, c.shard, c.dup)) = [(0x0A11, 0x17, false), (0x0B22, 0x21, true), (0x0E55, 0x21, false)] ∧
    exactPrimary (-9120) = 0x7FFFDC60 ∧ exactPrimary (-8950) = 0x7FFFDD0A ∧ exactPrimary 0 = 0x80000000 := by decide +kernel
/-- The product of the example under R124. -/
theorem test_integer_product : ([[1, 254, 3], [4, 0, 255]].map fun a => [[2, 0, 253], [1, 5, 2]].map fun b => gemmAcc 0 0 a [] b []) =
    [[.int (-7), .int (-3)], [.int 11, .int 2]] := by decide +kernel
/-- The example under R182: MULT 3, SHIFT 10, ZERO -5, INT8. -/
theorem test_rescale_of_accumulators :
    [20000, 60000, -60000].map (rescaleInt (3 * 2 ^ 32 + 10 * 2 ^ 26 + 251 * 2 ^ 18)) = [(54, false, false), (127, true, false), (128, true, false)] := by
  decide +kernel
/-- The example under R200: 1 + 1 + 16,777,216 in the order of source and batch position. -/
theorem test_gradients_add_in_order :
    addGrads 1 (addGrads 1 [] [(42, 7, [0x3F800000]), (42, 3, [0x3F800000])]) [(42, 0, [0x4B800000])] = [(42, [0x4B800001])] := by decide +kernel
/-- The example under R213: the key (1.0, 0.5) at position 305, converted to E4M3. -/
theorem test_rotation_of_a_key : toKv 2 (rotate 0x461C4000 2 305 [0x3F800000, 0x3F000000]) = [0xB5, 0xB4] := by decide +kernel
/-- The example under R257: 1.5 under a shift of 3, -6 under a shift of 1. -/
theorem test_tiller_weights : weightsOf 1 64 ([0x03] ++ zeros 15 ++ [0x0F] ++ zeros 15 ++ [0b0111]) =
    [24] ++ List.replicate 31 0 ++ [-24] ++ List.replicate 31 0 := by decide +kernel
/-- The example under R373: C_HOLD 11.0 mF at 48.0 V, and a draw of 0.1 J that leaves 47.81 V. -/
theorem test_hold_energy : holdUsable 11000 48000 = 10890 ∧ 10800 < holdCap 48000 47810 ∧ holdCap 48000 47810 < 11200 := by decide
/-- R255 on one byte of valid rails: A = 0xCC, B = 0xAA. -/
theorem test_rails_of_the_bitwise_commands :
    [0x10, 0x11, 0x12, 0x13].map (fun op => railsOf op [0xCC] [0x33] [0xAA] [0x55]) =
      [([0x88], [0x77]), ([0xEE], [0x11]), ([0x33], [0xCC]), ([0x66], [0x99])] := by decide
/-- R261 in INT8: addition saturates, and an exact product is shifted with rounding half away from zero or to even. -/
theorem test_elementwise_saturation : clampS 8 (127 + 1) = 127 ∧ clampS 8 (-128 - 1) = -128 ∧ clampS 16 (32767 + 1) = 32767 := by decide

/-! ### One step each -/

theorem test_boundary_counts : ∃ t, exec .stepBoundary (at_ 5 on) = .next t ∧ t.step.number = 6 ∧ t.step.open_ = true := ⟨_, rfl, by decide +kernel, by decide +kernel⟩
theorem test_number_limit_holds : ∃ t, exec .stepNumberLimit (at_ maxStep on) = .next t ∧ t.step.held = true ∧ t.ev.raised.map (·.code) = [0xC009] :=
  ⟨_, rfl, by decide +kernel, by decide +kernel⟩
theorem test_swap_of_scale_banks : ∃ t, exec (.swapScales [5] 63 (instr 0)) (progNode 3 (instr 0) imageWork) = .next t ∧ (t.arr 63).useB = true ∧ (t.arr 62).useB = false :=
  ⟨_, rfl, by decide +kernel, by decide +kernel⟩
theorem test_host_write_lands_at_its_address :
    ∃ t, exec (.hostRdmaWrite 5 (ringBase + 1022) [7, 9] okHow) (hosted qpair) = .next t ∧
      t.mem = [(0x4000000000000000 + 1022, 7), (0x4000000000000000 + 1023, 9)] ∧ t.resp = .done := ⟨_, rfl, by decide +kernel, by decide +kernel⟩
/-- R22: a host write of the window reaches memory, at the byte's home in its stack, when the writes land. -/
theorem test_host_writes_land_together :
    ({ State.reset with tier := { TierSt.reset with landing := [(5, [7]), (5, [9]), (6, [1])] } }).landed.mem =
      [(0x1000000400000005, 9), (0x1000000400000006, 1)] := by decide +kernel
theorem test_host_write_past_the_ring_is_refused :
    ∃ t, exec (.hostRdmaWrite 5 (ringBase + 1023) [7, 9] okHow) { hosted qpair with step := on.step } = .next t ∧ t.mem = [] ∧ t.resp = .nak ∧ t.ev.raised.map (·.code) = [0x6001] :=
  ⟨_, rfl, by decide +kernel, by decide +kernel, by decide +kernel⟩
theorem test_row_write_fills_a_row :
    ∃ t, exec (.writeRow lastGroup) { tillNode (tillRec 0x03 79 1 0 0 15 0 0) with
        tills := [(groupKey lastGroup, { emptyGroup with st := 1, fifo := [tillRec 0x03 79 1 0 0 15 0 0], rowIn := [0xAB] })] } = .next t ∧
      t.mem = [(rowAddr lastGroup 79 15, 0xAB)] ∧ (t.tg lastGroup).lastSeq = 9 ∧ (t.tg lastGroup).fifo = [] :=
  ⟨_, rfl, by decide +kernel, by decide +kernel, by decide +kernel⟩
theorem test_ack_frees_replay_entries :
    ∃ t, exec (.ack 0 7) (ported 0 2 { HPort.reset with replay := [sentFlit 6, sentFlit 7, sentFlit 8] } zst) = .next t ∧
      ((t.hp 0).replay.map (·.fsn)) = [8] := ⟨_, rfl, by decide +kernel⟩
theorem test_marginal_input_demands_the_slowest_tier :
    ∃ t, exec (.vinMarginal 39999) (tiered 0 on) = .next t ∧ t.ev.raised.map (·.code) = [0xA002, 0xC005] ∧ t.step.wantTier = some 2 :=
  ⟨_, rfl, by decide +kernel, by decide +kernel⟩
theorem test_step_takes_the_front_command :
    ∃ t, step { at_ maxStep on with pending := [.stepNumberLimit, .search] } = .next t ∧ t.pending = [.search] ∧ t.step.held = true :=
  ⟨_, rfl, by decide +kernel, by decide +kernel⟩
theorem test_power_on_starts_step_zero : ∃ t, exec (.powerOn report) zst = .next t ∧ t.pwr.boot = .running ∧ t.step.number = 0 ∧ t.step.seedling = true :=
  ⟨_, rfl, by decide +kernel, by decide +kernel, by decide +kernel⟩

end Sys2Proof.Tests
end

section
/-! The frame of every command (R20, R23, R36): each meaning keeps to the operations of its `Inv` lemma, and its footprint names every part
that these touch.  The numbers are the sets of the `Inv` lemmas, a bit for each part by `Part.idx`. -/

namespace Sys2Proof.Machine
set_option Elab.async false

/-- All that a command does is made of operations that touch no part outside its footprint. -/
def KeepsToFootprint (c : Instr) (s : State) : Prop :=
  ∃ m, Part.covers (footprint c) m = true ∧ ∀ P : State → Prop, Stables P m → P s → Ends P (exec c s)

/-- Commands that wait for their boundary name every part that they touch. -/
theorem covers_agenda : Part.covers Part.ofAgenda 3941818248099285677776 = true := by decide +kernel

/-- Passes over the entries of a request name every part that they touch. -/
theorem covers_entryPass : Part.covers (Part.ofCheck ++
    [.stepSpill, .shards, .tierFrames, .tierRows, .embs]) 1183375691221771034656 = true := by decide +kernel

/-- Commands that check and complete a request name every part that they touch. -/
theorem covers_check : Part.covers Part.ofCheck 1183338816900310310912 = true := by decide +kernel

/-- Passes of the tensor arrays name every part that they touch. -/
theorem covers_arrayPass : Part.covers (Part.ofCheck ++
    [.stepSpill, .shards, .tierFrames, .tierRows, .arrays, .embs]) 1183393705620280516640 = true := by decide +kernel

/-- Tilling commands that write rows name every part that they touch. -/
theorem covers_rowWrite : Part.covers (Part.ofCheck ++ [.memRows, .tills]) 5905777357363993452544 = true := by decide +kernel

/-- Transfers of the movers name every part that they touch. -/
theorem covers_transfer : Part.covers (Part.ofCheck ++
    [.stepSpill, .memField, .memCells, .memRows, .shards, .flashDies, .flashMap, .flashReserve,
      .tierAlloc, .tierFrames, .tierRows, .tierOutQ, .embs, .tills, .freeCtr]) 13284513176185181642784 = true := by decide +kernel

/-- Every command but STEP_BOUNDARY, by the `Inv` lemma of its meaning. -/
theorem keepsToFootprint (c : Instr) (hc : c ≠ .stepBoundary) (s : State) : KeepsToFootprint c s := by
  cases c with
  | stepBoundary => exact absurd rfl hc
  | stepClose sens => exact ⟨_, rfl, fun _ hk h => Inv.execStepClose hk h sens⟩
  | engineSlot idx fin deps => exact ⟨_, rfl, fun _ hk h => Inv.execEngineSlot hk h idx fin deps⟩
  | headlandTransfer route ok deps => exact ⟨_, rfl, fun _ hk h => Inv.execHeadlandTransfer hk h route ok deps⟩
  | headlandRetry route ok => exact ⟨_, rfl, fun _ hk h => Inv.execHeadlandRetry hk h route ok⟩
  | stepNumberLimit => exact ⟨_, rfl, fun _ hk h => Inv.execStepNumberLimit hk h⟩
  | planDrainStart => exact ⟨_, covers_agenda, fun _ hk h => Inv.execPlanDrainStart hk h⟩
  | planSetActivate => exact ⟨_, covers_agenda, fun _ hk h => Inv.execPlanSetActivate hk h⟩
  | tierChangeRequest tier => exact ⟨_, rfl, fun _ hk h => Inv.execTierChangeRequest hk h tier⟩
  | tierClockChange => exact ⟨_, rfl, fun _ hk h => Inv.execTierClockChange hk h⟩
  | tierStretch tier => exact ⟨_, rfl, fun _ hk h => Inv.execTierStretch hk h tier⟩
  | handWatchdogExpiry => exact ⟨_, rfl, fun _ hk h => Inv.execHandWatchdogExpiry hk h⟩
  | g0Loss => exact ⟨_, rfl, fun _ hk h => Inv.execG0Loss hk h⟩
  | barLoss b => exact ⟨_, rfl, fun _ hk h => Inv.execBarLoss hk h b⟩
  | stringLoss gate n => exact ⟨_, rfl, fun _ hk h => Inv.execStringLoss hk h gate n⟩
  | gateDieLoss g => exact ⟨_, rfl, fun _ hk h => Inv.execGateDieLoss hk h g⟩
  | alternateHandTakeover x => exact ⟨_, rfl, fun _ hk h => Inv.execAlternateHandTakeover hk h x⟩
  | agentRestart isBar gate n => exact ⟨_, rfl, fun _ hk h => Inv.execAgentRestart hk h isBar gate n⟩
  | hostRdmaWrite qp addr data tagOk => exact ⟨_, rfl, fun _ hk h => Inv.execHostRdmaWrite hk h qp addr data tagOk⟩
  | hostRdmaRead qp addr len tagOk => exact ⟨_, rfl, fun _ hk h => Inv.execHostRdmaRead hk h qp addr len tagOk⟩
  | eventConsumedWrite qp offset data => exact ⟨_, rfl, fun _ hk h => Inv.execEventConsumedWrite hk h qp offset data⟩
  | search => exact ⟨_, covers_agenda, fun _ hk h => Inv.execSearch hk h⟩
  | queryPrepare tag chk => exact ⟨_, covers_entryPass, fun _ hk h => Inv.execQueryPrepare hk h tag chk⟩
  | tableBuild tag chk => exact ⟨_, covers_entryPass, fun _ hk h => Inv.execTableBuild hk h tag chk⟩
  | segmentWalk tag pos seg hops chk => exact ⟨_, covers_entryPass, fun _ hk h => Inv.execSegmentWalk hk h tag pos seg hops chk⟩
  | fullScan tag pos seg chk => exact ⟨_, covers_entryPass, fun _ hk h => Inv.execFullScan hk h tag pos seg chk⟩
  | deltaScan tag pos chk => exact ⟨_, covers_entryPass, fun _ hk h => Inv.execDeltaScan hk h tag pos chk⟩
  | enumeration tag pos seg chk => exact ⟨_, covers_entryPass, fun _ hk h => Inv.execEnumeration hk h tag pos seg chk⟩
  | bitmapFilterEval tag pos seg rail => exact ⟨_, rfl, fun _ hk h => Inv.execBitmapFilterEval hk h tag pos seg rail⟩
  | rerankSelect tag pos chk => exact ⟨_, covers_entryPass, fun _ hk h => Inv.execRerankSelect hk h tag pos chk⟩
  | rerank tag pos chk sumsq => exact ⟨_, covers_entryPass, fun _ hk h => Inv.execRerank hk h tag pos chk sumsq⟩
  | widenedPass tag => exact ⟨_, covers_check, fun _ hk h => Inv.execWidenedPass hk h tag⟩
  | winnowerPass tag pos plot chk => exact ⟨_, covers_entryPass, fun _ hk h => Inv.execWinnowerPass hk h tag pos plot chk⟩
  | shardResult tag pos chk hash => exact ⟨_, covers_entryPass, fun _ hk h => Inv.execShardResult hk h tag pos chk hash⟩
  | merge tag chk hash => exact ⟨_, covers_entryPass, fun _ hk h => Inv.execMerge hk h tag chk hash⟩
  | remoteWaitExpiry tag => exact ⟨_, covers_check, fun _ hk h => Inv.execRemoteWaitExpiry hk h tag⟩
  | certify tag chk => exact ⟨_, covers_entryPass, fun _ hk h => Inv.execCertify hk h tag chk⟩
  | completionWrite tag => exact ⟨_, rfl, fun _ hk h => Inv.execCompletionWrite hk h tag⟩
  | auditPass tag sumsq chk hash => exact ⟨_, covers_entryPass, fun _ hk h => Inv.execAuditPass hk h tag sumsq chk hash⟩
  | rootRequest tag hash => exact ⟨_, covers_entryPass, fun _ hk h => Inv.execRootRequest hk h tag hash⟩
  | rootQueueDrain => exact ⟨_, rfl, fun _ hk h => Inv.execRootQueueDrain hk h⟩
  | subSearch port body => exact ⟨_, rfl, fun _ hk h => Inv.execSubSearch hk h port body⟩
  | shardList port tag body => exact ⟨_, covers_check, fun _ hk h => Inv.execShardList hk h port tag body⟩
  | certFields port tag body => exact ⟨_, rfl, fun _ hk h => Inv.execCertFields hk h port tag body⟩
  | insert tag => exact ⟨_, rfl, fun _ hk h => Inv.execInsert hk h tag⟩
  | delete tag => exact ⟨_, rfl, fun _ hk h => Inv.execDelete hk h tag⟩
  | replace tag => exact ⟨_, rfl, fun _ hk h => Inv.execReplace hk h tag⟩
  | logRecords port body => exact ⟨_, rfl, fun _ hk h => Inv.execLogRecords hk h port body⟩
  | replicaApply slot => exact ⟨_, rfl, fun _ hk h => Inv.execReplicaApply hk h slot⟩
  | logAck port shard usn => exact ⟨_, rfl, fun _ hk h => Inv.execLogAck hk h port shard usn⟩
  | logResend port shard usn => exact ⟨_, rfl, fun _ hk h => Inv.execLogResend hk h port shard usn⟩
  | deltaOpen slot => exact ⟨_, covers_agenda, fun _ hk h => Inv.execDeltaOpen hk h slot⟩
  | sealFreeze slot => exact ⟨_, covers_agenda, fun _ hk h => Inv.execSealFreeze hk h slot⟩
  | sealBuild slot chk ps => exact ⟨_, rfl, fun _ hk h => Inv.execSealBuild hk h slot chk ps⟩
  | sealWrite slot => exact ⟨_, rfl, fun _ hk h => Inv.execSealWrite hk h slot⟩
  | sealSwitch slot => exact ⟨_, covers_agenda, fun _ hk h => Inv.execSealSwitch hk h slot⟩
  | segmentImage _port slot image rec_ => exact ⟨_, rfl, fun _ hk h => Inv.execSegmentImage hk h _port slot image rec_⟩
  | replicaEpochSwitch slot => exact ⟨_, covers_agenda, fun _ hk h => Inv.execReplicaEpochSwitch hk h slot⟩
  | compactionChoose slot => exact ⟨_, covers_agenda, fun _ hk h => Inv.execCompactionChoose hk h slot⟩
  | compactionBuild slot chk => exact ⟨_, rfl, fun _ hk h => Inv.execCompactionBuild hk h slot chk⟩
  | compactionSwitch slot => exact ⟨_, covers_agenda, fun _ hk h => Inv.execCompactionSwitch hk h slot⟩
  | epochRelease slot epoch => exact ⟨_, covers_agenda, fun _ hk h => Inv.execEpochRelease hk h slot epoch⟩
  | logTrim => exact ⟨_, rfl, fun _ hk h => Inv.execLogTrim hk h⟩
  | take tag x => exact ⟨_, covers_check, fun _ hk h => Inv.execTake hk h tag x⟩
  | release tag x => exact ⟨_, covers_check, fun _ hk h => Inv.execRelease hk h tag x⟩
  | auditSweep plot => exact ⟨_, covers_check, fun _ hk h => Inv.execAuditSweep hk h plot⟩
  | poolLoss l => exact ⟨_, rfl, fun _ hk h => Inv.execPoolLoss hk h l⟩
  | replay tag copyOk => exact ⟨_, covers_agenda, fun _ hk h => Inv.execReplay hk h tag copyOk⟩
  | gemm tags arr ti chk resc => exact ⟨_, covers_arrayPass, fun _ hk h => Inv.execGemm hk h tags arr ti chk resc⟩
  | loadScales tags arr ti => exact ⟨_, rfl, fun _ hk h => Inv.execLoadScales hk h tags arr ti⟩
  | swapScales tags arr ti => exact ⟨_, rfl, fun _ hk h => Inv.execSwapScales hk h tags arr ti⟩
  | ewise tags arr ti chk => exact ⟨_, covers_arrayPass, fun _ hk h => Inv.execEwise hk h tags arr ti chk⟩
  | act tags arr ti chk => exact ⟨_, covers_arrayPass, fun _ hk h => Inv.execAct hk h tags arr ti chk⟩
  | norm tags arr ti chk => exact ⟨_, covers_arrayPass, fun _ hk h => Inv.execNorm hk h tags arr ti chk⟩
  | softmax tags arr ti chk => exact ⟨_, covers_arrayPass, fun _ hk h => Inv.execSoftmax hk h tags arr ti chk⟩
  | pool tags arr ti chk => exact ⟨_, covers_arrayPass, fun _ hk h => Inv.execPool hk h tags arr ti chk⟩
  | convert tags arr ti => exact ⟨_, rfl, fun _ hk h => Inv.execConvert hk h tags arr ti⟩
  | embGather tags ti => exact ⟨_, rfl, fun _ hk h => Inv.execEmbGather hk h tags ti⟩
  | clipDump tags arr ti => exact ⟨_, rfl, fun _ hk h => Inv.execClipDump hk h tags arr ti⟩
  | kvAppend tags arr ti => exact ⟨_, rfl, fun _ hk h => Inv.execKvAppend hk h tags arr ti⟩
  | ropeQ tags arr ti => exact ⟨_, rfl, fun _ hk h => Inv.execRopeQ hk h tags arr ti⟩
  | attnMax tags arr ti => exact ⟨_, rfl, fun _ hk h => Inv.execAttnMax hk h tags arr ti⟩
  | attnPage tags arr ti => exact ⟨_, rfl, fun _ hk h => Inv.execAttnPage hk h tags arr ti⟩
  | attnCombine tags arr ti => exact ⟨_, rfl, fun _ hk h => Inv.execAttnCombine hk h tags arr ti⟩
  | tillMatvec tags ti chk => exact ⟨_, rfl, fun _ hk h => Inv.execTillMatvec hk h tags ti chk⟩
  | tokenChoose tags arr ti => exact ⟨_, rfl, fun _ hk h => Inv.execTokenChoose hk h tags arr ti⟩
  | verify tags ti => exact ⟨_, rfl, fun _ hk h => Inv.execVerify hk h tags ti⟩
  | modelDrainStart slot => exact ⟨_, covers_agenda, fun _ hk h => Inv.execModelDrainStart hk h slot⟩
  | modelActivate slot => exact ⟨_, covers_agenda, fun _ hk h => Inv.execModelActivate hk h slot⟩
  | gradientBatch port body => exact ⟨_, rfl, fun _ hk h => Inv.execGradientBatch hk h port body⟩
  | trainStepApply table ue => exact ⟨_, rfl, fun _ hk h => Inv.execTrainStepApply hk h table ue⟩
  | trainWaitExpiry table => exact ⟨_, rfl, fun _ hk h => Inv.execTrainWaitExpiry hk h table⟩
  | runningSums port table msg => exact ⟨_, rfl, fun _ hk h => Inv.execRunningSums hk h port table msg⟩
  | embRows port tag body => exact ⟨_, rfl, fun _ hk h => Inv.execEmbRows hk h port tag body⟩
  | loadWindowEnd => exact ⟨_, covers_agenda, fun _ hk h => Inv.execLoadWindowEnd hk h⟩
  | embShardCopy table => exact ⟨_, rfl, fun _ hk h => Inv.execEmbShardCopy hk h table⟩
  | embShardSwitch table => exact ⟨_, covers_agenda, fun _ hk h => Inv.execEmbShardSwitch hk h table⟩
  | generate => exact ⟨_, covers_agenda, fun _ hk h => Inv.execGenerate hk h⟩
  | genPlace tag => exact ⟨_, covers_check, fun _ hk h => Inv.execGenPlace hk h tag⟩
  | prefill tag chk => exact ⟨_, covers_entryPass, fun _ hk h => Inv.execPrefill hk h tag chk⟩
  | decode tag chk => exact ⟨_, rfl, fun _ hk h => Inv.execDecode hk h tag chk⟩
  | score tag chk => exact ⟨_, covers_entryPass, fun _ hk h => Inv.execScore hk h tag chk⟩
  | pagePartials tag port _body late => exact ⟨_, rfl, fun _ hk h => Inv.execPagePartials hk h tag port _body late⟩
  | cacheRetainExpiry cache => exact ⟨_, rfl, fun _ hk h => Inv.execCacheRetainExpiry hk h cache⟩
  | placementWindowEnd => exact ⟨_, covers_agenda, fun _ hk h => Inv.execPlacementWindowEnd hk h⟩
  | pageDemote => exact ⟨_, covers_agenda, fun _ hk h => Inv.execPageDemote hk h⟩
  | promotionCopy copy => exact ⟨_, rfl, fun _ hk h => Inv.execPromotionCopy hk h copy⟩
  | promotionSwitch plot => exact ⟨_, covers_agenda, fun _ hk h => Inv.execPromotionSwitch hk h plot⟩
  | refreshSlice _idx => exact ⟨_, rfl, fun _ hk h => Inv.execRefreshSlice hk h _idx⟩
  | scrubSlice idx found => exact ⟨_, rfl, fun _ hk h => Inv.execScrubSlice hk h idx found⟩
  | rowRepair plot row => exact ⟨_, rfl, fun _ hk h => Inv.execRowRepair hk h plot row⟩
  | segmentLoad slot seg chk => exact ⟨_, rfl, fun _ hk h => Inv.execSegmentLoad hk h slot seg chk⟩
  | pageReload slot seg page flashOk => exact ⟨_, rfl, fun _ hk h => Inv.execPageReload hk h slot seg page flashOk⟩
  | segmentRefetch slot seg image => exact ⟨_, rfl, fun _ hk h => Inv.execSegmentRefetch hk h slot seg image⟩
  | tillingEnter idx => exact ⟨_, rfl, fun _ hk h => Inv.execTillingEnter hk h idx⟩
  | tillingRun idx => exact ⟨_, rfl, fun _ hk h => Inv.execTillingRun hk h idx⟩
  | tillingExit idx => exact ⟨_, rfl, fun _ hk h => Inv.execTillingExit hk h idx⟩
  | tillingLoad idx r act => exact ⟨_, rfl, fun _ hk h => Inv.execTillingLoad hk h idx r act⟩
  | tmAckTimeout g => exact ⟨_, rfl, fun _ hk h => Inv.execTmAckTimeout hk h g⟩
  | tillCommandWrite g rec_ => exact ⟨_, rfl, fun _ hk h => Inv.execTillCommandWrite hk h g rec_⟩
  | nop g => exact ⟨_, rfl, fun _ hk h => Inv.execNop hk h g⟩
  | tillingRefreshDue g hot => exact ⟨_, rfl, fun _ hk h => Inv.execTillingRefreshDue hk h g hot⟩
  | rowCopy g => exact ⟨_, covers_rowWrite, fun _ hk h => Inv.execRowCopy hk h g⟩
  | rowClear g => exact ⟨_, covers_rowWrite, fun _ hk h => Inv.execRowClear hk h g⟩
  | writeRow g => exact ⟨_, covers_rowWrite, fun _ hk h => Inv.execWriteRow hk h g⟩
  | readRow x => exact ⟨_, rfl, fun _ hk h => Inv.execReadRow hk h x⟩
  | tillAnd g => exact ⟨_, rfl, fun _ hk h => Inv.execTillAnd hk h g⟩
  | tillOr g => exact ⟨_, rfl, fun _ hk h => Inv.execTillOr hk h g⟩
  | tillNot g => exact ⟨_, rfl, fun _ hk h => Inv.execTillNot hk h g⟩
  | tillXor g => exact ⟨_, rfl, fun _ hk h => Inv.execTillXor hk h g⟩
  | ewAdd g => exact ⟨_, covers_rowWrite, fun _ hk h => Inv.execEwAdd hk h g⟩
  | ewMul g => exact ⟨_, covers_rowWrite, fun _ hk h => Inv.execEwMul hk h g⟩
  | ewAct g => exact ⟨_, covers_rowWrite, fun _ hk h => Inv.execEwAct hk h g⟩
  | matvec g chk => exact ⟨_, rfl, fun _ hk h => Inv.execMatvec hk h g chk⟩
  | flashRead lpn sector out ones deps => exact ⟨_, rfl, fun _ hk h => Inv.execFlashRead hk h lpn sector out ones deps⟩
  | logWrite ok => exact ⟨_, rfl, fun _ hk h => Inv.execLogWrite hk h ok⟩
  | logPageTimeout => exact ⟨_, rfl, fun _ hk h => Inv.execLogPageTimeout hk h⟩
  | imageWrite slot comp fails => exact ⟨_, rfl, fun _ hk h => Inv.execImageWrite hk h slot comp fails⟩
  | mapCheckpoint n => exact ⟨_, rfl, fun _ hk h => Inv.execMapCheckpoint hk h n⟩
  | gcCopy die out => exact ⟨_, rfl, fun _ hk h => Inv.execGcCopy hk h die out⟩
  | flashScrub die found => exact ⟨_, rfl, fun _ hk h => Inv.execFlashScrub hk h die found⟩
  | flashDieLoss die => exact ⟨_, rfl, fun _ hk h => Inv.execFlashDieLoss hk h die⟩
  | nandRailOvercurrent chan => exact ⟨_, rfl, fun _ hk h => Inv.execNandRailOvercurrent hk h chan⟩
  | copy idx fin deps => exact ⟨_, covers_transfer, fun _ hk h => Inv.execCopy hk h idx fin deps⟩
  | transpose idx fin deps => exact ⟨_, covers_transfer, fun _ hk h => Inv.execTranspose hk h idx fin deps⟩
  | untranspose idx fin deps => exact ⟨_, covers_transfer, fun _ hk h => Inv.execUntranspose hk h idx fin deps⟩
  | gather idx fin deps => exact ⟨_, covers_transfer, fun _ hk h => Inv.execGather hk h idx fin deps⟩
  | scatter idx fin deps => exact ⟨_, covers_transfer, fun _ hk h => Inv.execScatter hk h idx fin deps⟩
  | cellPush plot q req x => exact ⟨_, rfl, fun _ hk h => Inv.execCellPush hk h plot q req x⟩
  | cellPop plot q dmg deps => exact ⟨_, rfl, fun _ hk h => Inv.execCellPop hk h plot q dmg deps⟩
  | queueFlushApply plot q => exact ⟨_, rfl, fun _ hk h => Inv.execQueueFlushApply hk h plot q⟩
  | laneFailure port lane x => exact ⟨_, rfl, fun _ hk h => Inv.execLaneFailure hk h port lane x⟩
  | laneSwap port lane => exact ⟨_, rfl, fun _ hk h => Inv.execLaneSwap hk h port lane⟩
  | laneRetrain port ok => exact ⟨_, rfl, fun _ hk h => Inv.execLaneRetrain hk h port ok⟩
  | portRecovery port ok rttNs => exact ⟨_, rfl, fun _ hk h => Inv.execPortRecovery hk h port ok rttNs⟩
  | portTraining port peer rttNs ok reportOk ek ct => exact ⟨_, rfl, fun _ hk h => Inv.execPortTraining hk h port peer rttNs ok reportOk ek ct⟩
  | portReup port => exact ⟨_, rfl, fun _ hk h => Inv.execPortReup hk h port⟩
  | dataFlit port flit fecOk tagOk => exact ⟨_, rfl, fun _ hk h => Inv.execDataFlit hk h port flit fecOk tagOk⟩
  | retry port fsn => exact ⟨_, rfl, fun _ hk h => Inv.execRetry hk h port fsn⟩
  | ack port fsn => exact ⟨_, rfl, fun _ hk h => Inv.execAck hk h port fsn⟩
  | peerId port peer => exact ⟨_, rfl, fun _ hk h => Inv.execPeerId hk h port peer⟩
  | replayTimeout port => exact ⟨_, rfl, fun _ hk h => Inv.execReplayTimeout hk h port⟩
  | rejoinLoad port slot item => exact ⟨_, rfl, fun _ hk h => Inv.execRejoinLoad hk h port slot item⟩
  | ethLinkDown port => exact ⟨_, rfl, fun _ hk h => Inv.execEthLinkDown hk h port⟩
  | ethLinkUp port => exact ⟨_, rfl, fun _ hk h => Inv.execEthLinkUp hk h port⟩
  | ethFailover port => exact ⟨_, rfl, fun _ hk h => Inv.execEthFailover hk h port⟩
  | cmMessage port msg => exact ⟨_, rfl, fun _ hk h => Inv.execCmMessage hk h port msg⟩
  | roceRefusedOpcode qp => exact ⟨_, rfl, fun _ hk h => Inv.execRoceRefusedOpcode hk h qp⟩
  | cnpReceive qp => exact ⟨_, rfl, fun _ hk h => Inv.execCnpReceive hk h qp⟩
  | ceMarkedPacket qp nowNs => exact ⟨_, rfl, fun _ hk h => Inv.execCeMarkedPacket hk h qp nowNs⟩
  | pfcPause port prio pause => exact ⟨_, rfl, fun _ hk h => Inv.execPfcPause hk h port prio pause⟩
  | arpNdEcho port kind x => exact ⟨_, rfl, fun _ hk h => Inv.execArpNdEcho hk h port kind x⟩
  | roceAckTimeout qp => exact ⟨_, rfl, fun _ hk h => Inv.execRoceAckTimeout hk h qp⟩
  | shaperRefill port => exact ⟨_, rfl, fun _ hk h => Inv.execShaperRefill hk h port⟩
  | egressWindow port openNs classes => exact ⟨_, rfl, fun _ hk h => Inv.execEgressWindow hk h port openNs classes⟩
  | gateListTakeover port => exact ⟨_, covers_agenda, fun _ hk h => Inv.execGateListTakeover hk h port⟩
  | readExpedited f => exact ⟨_, rfl, fun _ hk h => Inv.execReadExpedited hk h f⟩
  | writeExpedited f => exact ⟨_, rfl, fun _ hk h => Inv.execWriteExpedited hk h f⟩
  | readInit f => exact ⟨_, rfl, fun _ hk h => Inv.execReadInit hk h f⟩
  | writeInit f => exact ⟨_, rfl, fun _ hk h => Inv.execWriteInit hk h f⟩
  | segment f => exact ⟨_, rfl, fun _ hk h => Inv.execSegment hk h f⟩
  | abort f => exact ⟨_, rfl, fun _ hk h => Inv.execAbort hk h f⟩
  | commit f => exact ⟨_, rfl, fun _ hk h => Inv.execCommit hk h f⟩
  | discard f => exact ⟨_, rfl, fun _ hk h => Inv.execDiscard hk h f⟩
  | transferIdleExpiry mac => exact ⟨_, rfl, fun _ hk h => Inv.execTransferIdleExpiry hk h mac⟩
  | mirrorStagingWrite qp idx sub off b => exact ⟨_, rfl, fun _ hk h => Inv.execMirrorStagingWrite hk h qp idx sub off b⟩
  | dictCommit qp => exact ⟨_, rfl, fun _ hk h => Inv.execDictCommit hk h qp⟩
  | dictDiscard qp => exact ⟨_, rfl, fun _ hk h => Inv.execDictDiscard hk h qp⟩
  | commitApply => exact ⟨_, rfl, fun _ hk h => Inv.execCommitApply hk h⟩
  | rejoinTestEnd units => exact ⟨_, rfl, fun _ hk h => Inv.execRejoinTestEnd hk h units⟩
  | rejoinLoaded slot => exact ⟨_, covers_agenda, fun _ hk h => Inv.execRejoinLoaded hk h slot⟩
  | rejoinAdmit => exact ⟨_, covers_agenda, fun _ hk h => Inv.execRejoinAdmit hk h⟩
  | plotFaultLimit plot => exact ⟨_, covers_agenda, fun _ hk h => Inv.execPlotFaultLimit hk h plot⟩
  | tenantDrainStart p => exact ⟨_, covers_agenda, fun _ hk h => Inv.execTenantDrainStart hk h p⟩
  | tenantSwitch p => exact ⟨_, covers_agenda, fun _ hk h => Inv.execTenantSwitch hk h p⟩
  | tenantScrub p external ok => exact ⟨_, rfl, fun _ hk h => Inv.execTenantScrub hk h p external ok⟩
  | tenantScrubEnd p => exact ⟨_, covers_agenda, fun _ hk h => Inv.execTenantScrubEnd hk h p⟩
  | attReportSign => exact ⟨_, rfl, fun _ hk h => Inv.execAttReportSign hk h⟩
  | powerOn r => exact ⟨_, rfl, fun _ hk h => Inv.execPowerOn hk h r⟩
  | inputLoss x => exact ⟨_, rfl, fun _ hk h => Inv.execInputLoss hk h x⟩
  | vinMarginal mv => exact ⟨_, rfl, fun _ hk h => Inv.execVinMarginal hk h mv⟩
  | clockFault => exact ⟨_, rfl, fun _ hk h => Inv.execClockFault hk h⟩
  | resetPulse us => exact ⟨_, rfl, fun _ hk h => Inv.execResetPulse hk h us⟩
  | capTest v1mv v2mv => exact ⟨_, rfl, fun _ hk h => Inv.execCapTest hk h v1mv v2mv⟩
  | vcoreAdjust plot margin => exact ⟨_, rfl, fun _ hk h => Inv.execVcoreAdjust hk h plot margin⟩
  | thermalClamp => exact ⟨_, rfl, fun _ hk h => Inv.execThermalClamp hk h⟩
  | clampRelease => exact ⟨_, rfl, fun _ hk h => Inv.execClampRelease hk h⟩
  | thermalTrip => exact ⟨_, rfl, fun _ hk h => Inv.execThermalTrip hk h⟩
  | ingressWindow port classes => exact ⟨_, rfl, fun _ hk h => Inv.execIngressWindow hk h port classes⟩
  | roceAckReceived qp psn nak => exact ⟨_, rfl, fun _ hk h => Inv.execRoceAckReceived hk h qp psn nak⟩
  | refclkReturn => exact ⟨_, rfl, fun _ hk h => Inv.execRefclkReturn hk h⟩
  | transmitOpportunity => exact ⟨_, rfl, fun _ hk h => Inv.execTransmitOpportunity hk h⟩

/-- STEP_BOUNDARY raises the Step Number (R36), and else keeps to its footprint. -/
theorem ends_stepBoundary {P : State → Prop} {s : State} (hk : Stables P 13424599914872859260916)
    (hn : ∀ v, P v → P { v with step := { v.step with number := v.step.number + 1 } }) (h : P s) : Ends P (exec .stepBoundary s) :=
  Inv.execStepBoundary hk h hn

/-- STEP_BOUNDARY names every part that it touches. -/
theorem covers_stepBoundary : Part.covers (footprint .stepBoundary) 13424599914872859260916 = true := by decide +kernel

/-- A rise of the Step Number leaves every other part as it is. -/
theorem Part.same_number {f : Part} (hf : f ≠ .stepNumber) (s v : State) (n : Nat) (h : f.same s v) :
    f.same s { v with step := { v.step with number := n } } :=
  Part.put_other hf s { v with step := { v.step with number := n } } v h

theorem stepBoundary_frame {s t : State} {f : Part} (w : Memory.wf s.mem = true) (e : exec .stepBoundary s = .next t)
    (hf : f ∉ footprint .stepBoundary) : f.same s t := by
  have hn : f ≠ .stepNumber := fun h => hf (by rw [h]; decide)
  have ho := Part.outside_of covers_stepBoundary hf
  unfold Part.outside at ho
  split at ho
  case isTrue hm =>
    simp only [Bool.and_eq_true, Bool.not_eq_true', decide_eq_true_eq] at ho
    obtain ⟨⟨⟨hbit, hany⟩, hdown⟩, hlt⟩ := ho
    have hk := Stables.sameMem s hm hbit hany hdown hlt
    have hs := ends_stepBoundary hk (fun v hv w => ⟨(hv w).1, Part.same_number hn s v _ (hv w).2⟩) fun w => ⟨w, Part.same_refl f s⟩
    exact (hs.holds t e w).2
  case isFalse hm =>
    simp only [Bool.and_eq_true, Bool.not_eq_true', Bool.or_eq_true] at ho
    have hk := Stables.same s (by simpa using hm) ho.1 ho.2
    exact (ends_stepBoundary hk (fun v => Part.same_number hn s v _) (Part.same_refl f s)).holds t e

/-- Settles O6: outside STEP_BOUNDARY a command keeps to the parts of its footprint; STEP_BOUNDARY also raises the Step Number, which its
footprint names. -/
theorem commandsKeepTheirFrame : Obligations.CommandsKeepTheirFrame := by
  intro c s t f w e hf
  by_cases hc : c = .stepBoundary
  · subst hc
    exact stepBoundary_frame w e hf
  · obtain ⟨m, hm, hi⟩ := keepsToFootprint c hc s
    exact Inv.frame hi (Part.outside_of hm hf) w e

/-- A command keeps memory canonical. -/
theorem exec_wf {c : Instr} {s t : State} (w : Memory.wf s.mem = true) (e : exec c s = .next t) : Memory.wf t.mem = true := by
  by_cases hc : c = .stepBoundary
  · subst hc
    exact (ends_stepBoundary (Stables.wf _) (fun _ hv => hv) w).holds t e
  · obtain ⟨m, -, hi⟩ := keepsToFootprint c hc s
    exact Inv.canon hi w e

/-- Settles O3: an idle block keeps its state, and a command that runs keeps memory canonical. -/
theorem memoryStaysCanonical : Obligations.MemoryStaysCanonical := by
  intro s t w e
  unfold step at e
  split at e
  case h_1 => cases e; exact w
  case h_2 c rest _ => exact exec_wf (c := c) (s := { s with pending := rest }) w e

end Sys2Proof.Machine
end

section
/-! Planned actions (R12, R26, R296): ENGINE_SLOT, HEADLAND_TRANSFER and HEADLAND_RETRY. -/

namespace Sys2Proof.Machine
set_option Elab.async false

section
variable {s : State} {idx : Nat} {e : EngSlot} {deps : List Nat}
  (he : (((s.tierPlan).map Plan.engines).getD [])[idx]? = some e) (ht : e.template = s.template) (hp : s.plotServes e.plot = true)
include he ht hp

theorem engineSlot_in_slot : exec (.engineSlot idx .inSlot deps) s = .next s := by
  simp [exec, execEngineSlot, he, ht, hp]

/-- An overrun completes in the spill slot where that is free (R26). -/
theorem engineSlot_overran_free (hs : s.spillUsed e.plot = false) : exec (.engineSlot idx .overran deps) s =
    .next ((s.useSpill e.plot).raise 0xC003 (locRow e.plot e.rowType e.rowIndex) 0) := by
  simp [exec, execEngineSlot, he, ht, hp, hs]

/-- A spill slot that proves too short is used all the same, and the requests are lost. -/
theorem engineSlot_spill_short (hs : s.spillUsed e.plot = false) : exec (.engineSlot idx .spillShort deps) s =
    .next (((s.useSpill e.plot).raise 0xC004 (locRow e.plot e.rowType e.rowIndex) 0).loseAll deps) := by
  simp [exec, execEngineSlot, he, ht, hp, hs]

/-- With the spill slot used, either overrun loses the requests. -/
theorem engineSlot_spill_used (hs : s.spillUsed e.plot = true) {fin : SlotEnd} (hf : fin ≠ .inSlot) :
    exec (.engineSlot idx fin deps) s = .next ((s.raise 0xC004 (locRow e.plot e.rowType e.rowIndex) 0).loseAll deps) := by
  cases fin with
  | inSlot => exact absurd rfl hf
  | overran => simp [exec, execEngineSlot, he, ht, hp, hs]
  | spillShort => simp [exec, execEngineSlot, he, ht, hp, hs]

end

theorem headlandTransfer_ok (s : State) (k : Nat) (deps : List Nat) : exec (.headlandTransfer k true deps) s = .next s := by
  cases he : s.routeAt k with
  | none => simp [exec, execHeadlandTransfer, he]
  | some e => simp [exec, execHeadlandTransfer, he]

/-- A transfer that fails waits for its retry slot with the requests that depend on it (R296). -/
theorem headlandTransfer_failed {s : State} {k e : Nat} (deps : List Nat) (he : s.routeAt k = some e) (ht : bitsOf e 127 116 = s.template) :
    exec (.headlandTransfer k false deps) s =
      .next { s with step := { s.step with retries := s.step.retries ++ [⟨k, s.step.number, deps⟩] } } := by
  simp [exec, execHeadlandTransfer, he, ht]

/-- A retry ends the wait; where it fails again the requests are lost (R296). -/
theorem headlandRetry_ends {s : State} {k e : Nat} {r : RouteRetry} (ok : Bool) (he : s.routeAt k = some e)
    (ht : bitsOf e 20 9 = s.template)
    (hr : s.step.retries.find? (fun r => r.route == k && decide (r.at_ < s.step.number)) = some r) :
    let ended := { s with step := { s.step with retries := s.step.retries.erase r } }
    exec (.headlandRetry k ok) s = .next (if ok then ended else (ended.raise 0x6004 (routeLoc e) 0).loseAll r.deps) := by
  simp [exec, execHeadlandRetry, he, ht, hr]

/-- Settles O34, from what each way that a slot can end does. -/
theorem plannedActionsComplete : Obligations.PlannedActionsComplete := by
  refine ⟨fun s idx e deps he ht hp => ⟨engineSlot_in_slot he ht hp, fun hs => ?_, fun hs fin => ?_⟩, ?_, ?_⟩
  · exact ⟨engineSlot_overran_free he ht hp hs, engineSlot_spill_short he ht hp hs⟩
  · exact engineSlot_spill_used he ht hp hs
  · intro s k e deps he ht
    exact ⟨headlandTransfer_ok s k deps, _, headlandTransfer_failed deps he ht, rfl, rfl⟩
  · intro s k e r he ht hr
    exact ⟨headlandRetry_ends true he ht hr, headlandRetry_ends false he ht hr⟩

end Sys2Proof.Machine
end

section
/-! The loss of supervisors and Gate dies, and the alternate Hand (R16, R18, R339). -/

namespace Sys2Proof.Machine
set_option Elab.async false

/-! ### One unit of a bit field -/

theorem bit_setBit (n i : Nat) : bit (setBit n i) i = true := by
  simp [bit, setBit, Nat.testBit_or, Nat.one_shiftLeft, Nat.testBit_two_pow_self]

theorem bit_clrBit (n i : Nat) : bit (clrBit n i) i = false := by
  unfold bit clrBit
  split
  case isTrue h =>
    rw [Nat.testBit_eq_decide_div_mod_eq, decide_eq_true_eq] at h
    have hd := Nat.sub_mul_div n (2 ^ i) 1
    rw [Nat.mul_one] at hd
    rw [Nat.testBit_eq_decide_div_mod_eq, hd, decide_eq_false_iff_not]
    omega
  case isFalse h => simpa using h

/-- A unit that is lost may be restarted where the grant stands (R339). -/
theorem bit_restart (n i : Nat) (g : Bool) : bit (if g then setBit n i else clrBit n i) i = g := by
  cases g with
  | true => exact bit_setBit n i
  | false => exact bit_clrBit n i

/-! ### What an operation leaves of the agents -/

/-- `t` has the agents of `s`: the Gate dies and Bars in service, the Hand, the sequencer, and the grants. -/
structure State.AgentsAs (s t : State) : Prop where
  held : t.step.held = s.step.held
  sequencer : t.step.sequencer = s.step.sequencer
  gates : t.node.gates = s.node.gates
  bars : t.node.bars = s.node.bars
  handDie : t.node.handDie = s.node.handDie
  handAlive : t.node.handAlive = s.node.handAlive
  altStarting : t.node.altStarting = s.node.altStarting
  g0Lost : t.node.g0Lost = s.node.g0Lost

/-- The parts that hold the agents. -/
def Part.ofAgents : List Part := [.stepHeld, .stepSequencer, .nodeUnits, .nodeHand]

/-- An operation leaves a part of the state, memory aside, outside its set. -/
theorem Inv.same {s t : State} {m : Nat} {f : Part} (hi : ∀ P : State → Prop, Stables P m → P s → P t)
    (hf : (!f.isMem && f.outside m) = true) : f.same s t := by
  simp only [Bool.and_eq_true, Bool.not_eq_true', Part.outside] at hf
  obtain ⟨hmem, ho⟩ := hf
  simp only [hmem, Bool.false_eq_true, if_false, Bool.and_eq_true, Bool.or_eq_true, Bool.not_eq_true'] at ho
  exact hi _ (Stables.same s hmem ho.1 ho.2) (Part.same_refl f s)

/-- An operation outside whose set the agents' parts stand leaves the agents as they are. -/
theorem State.AgentsAs.of_ops {s t : State} {m : Nat} (hi : ∀ P : State → Prop, Stables P m → P s → P t)
    (hm : Part.ofAgents.all (fun f => !f.isMem && f.outside m) = true) : s.AgentsAs t := by
  have same : ∀ f ∈ Part.ofAgents, f.same s t := fun f hf => Inv.same hi (List.all_eq_true.mp hm f hf)
  have hheld := same .stepHeld (by decide)
  have hseq := same .stepSequencer (by decide)
  have hunits := same .nodeUnits (by decide)
  have hhand := same .nodeHand (by decide)
  simp only [Part.same, Prod.mk.injEq] at hheld hseq hunits hhand
  obtain ⟨-, -, hgates, hbars, -⟩ := hunits
  obtain ⟨hdie, halive, halt, hlost⟩ := hhand
  exact ⟨hheld.1, hseq, hgates, hbars, hdie, halive, halt, hlost⟩

/-- Requests in flight that are lost leave the agents. -/
theorem loseInFlight_agents (s : State) : s.AgentsAs s.loseInFlight :=
  .of_ops (fun _ hk h => Inv.loseInFlight hk h) (by decide +kernel)

theorem evBy_agents (s : State) (a c l : Nat) (u : Option (Nat × Nat)) (d : Nat) : s.AgentsAs (s.evBy a c l u d) :=
  .of_ops (fun _ hk h => Inv.evBy hk h a c l u d) (by decide +kernel)

theorem raise_agents (s : State) (c l d : Nat) : s.AgentsAs (s.raise c l d) :=
  .of_ops (fun _ hk h => Inv.raise hk h c l d) (by decide +kernel)

/-- The units of a Gate die go, and no other die or Bar, nor the Hand (R18). -/
theorem gateOut_agents (s : State) (g : Nat) :
    State.AgentsAs { s with node := { s.node with gates := clrBit s.node.gates g, gateStrings := clrBit s.node.gateStrings g } }
      (s.gateOut g) := by
  refine .of_ops (m := 1185069330554685562880) (fun P hk h => ?_) (by decide +kernel)
  have ports {u : State} (h : P u) (l : List Nat) : P (l.foldl State.portOut u) :=
    Inv.foldl (fun _ p hv => Inv.portOut (hk.sub rfl) hv p) h
  have channels {u : State} (h : P u) : P ((List.range 8).foldl (fun (s : State) c => s.channelOut (8 * g + c) []) u) :=
    Inv.foldl (fun _ _ hv => Inv.channelOut (hk.sub rfl) hv _ _) h
  unfold State.gateOut
  dsimp only
  exact Inv.loseAll (hk.sub rfl) (channels (Inv.lit hk (Inv.modEp (hk.sub rfl) (Inv.setN (hk.sub rfl)
    (ports (Inv.setN (hk.sub rfl) h _ _ _) _) _ _ _) _ _))) _

/-! ### Losses -/

@[simp] theorem barOut_step (s : State) (b : Nat) : (s.barOut b).step = s.step := by
  unfold State.barOut; dsimp only; rw [State.evBy_step, State.setN_step]
@[simp] theorem barOut_ledger (s : State) (b : Nat) : (s.barOut b).ledger = s.ledger := by
  unfold State.barOut; dsimp only; rw [State.evBy_ledger, State.setN_ledger]
@[simp] theorem barOut_bars (s : State) (b : Nat) : (s.barOut b).node.bars = clrBit s.node.bars b := by simp [State.barOut]
@[simp] theorem barOut_gates (s : State) (b : Nat) : (s.barOut b).node.gates = s.node.gates := by simp [State.barOut]
@[simp] theorem barOut_handDie (s : State) (b : Nat) : (s.barOut b).node.handDie = s.node.handDie := by simp [State.barOut]
@[simp] theorem barOut_handAlive (s : State) (b : Nat) : (s.barOut b).node.handAlive = s.node.handAlive := by simp [State.barOut]
@[simp] theorem barOut_altStarting (s : State) (b : Nat) : (s.barOut b).node.altStarting = s.node.altStarting := by simp [State.barOut]
@[simp] theorem barOut_g0Lost (s : State) (b : Nat) : (s.barOut b).node.g0Lost = s.node.g0Lost := by simp [State.barOut]

theorem barLoss_ends {s : State} {b : Nat} (hb : b < 4) (hl : bit s.node.bars b = true) : ∃ t, exec (.barLoss b) s = .next t ∧
    t.node.bars = clrBit s.node.bars b ∧ bit t.node.restart b = s.grant 2 ∧ t.step = s.step ∧ t.ledger = s.ledger := by
  refine ⟨s.barOut b, by simp [exec, execBarLoss, hb, hl], barOut_bars s b, ?_, barOut_step s b, barOut_ledger s b⟩
  simpa [State.barOut] using bit_restart s.node.restart b (s.grant 2)

/-- The lost Strings of a plot and of a Gate die differ in their list alone. -/
theorem stringLoss_runs {s : State} {n : Nat} (hn : n < 16) (hl : bit s.node.strings n = true) : exec (.stringLoss false n) s =
    .next (({ s with node := { s.node with
      strings := clrBit s.node.strings n,
      restart := if s.grant 2 then setBit s.node.restart (8 + n) else clrBit s.node.restart (8 + n) } }).raise 0x1104 (locPlot n) 0) := by
  simp [exec, execStringLoss, hn, hl]

theorem gateStringLoss_runs {s : State} {n : Nat} (hn : n < 4) (hl : bit s.node.gateStrings n = true) : exec (.stringLoss true n) s =
    .next (({ s with node := { s.node with
      gateStrings := clrBit s.node.gateStrings n,
      restart := if s.grant 2 then setBit s.node.restart (4 + n) else clrBit s.node.restart (4 + n) } }).raise 0x1104 (locGate n) 0) := by
  simp [exec, execStringLoss, hn, hl]

/-- What the loss of a Gate die in service does to the agents (R18). -/
structure State.GateLost (s t : State) (g : Nat) : Prop where
  gates : bit t.node.gates g = false
  bars : bit t.node.bars g = false
  handAlive : t.node.handAlive = (s.node.handAlive && s.node.handDie != g)
  altStarting : t.node.altStarting = (s.node.altStarting && g != 2)
  g0Lost : t.node.g0Lost = s.node.g0Lost
  held : t.step.held = (s.step.held || s.step.sequencer == g)
  sequencer : t.step.sequencer = s.step.sequencer

/-- The Bar of a Gate die that goes out is out too, and no other agent. -/
theorem barOut_if_lives (s : State) (g : Nat) :
    ∃ u, u = (if bit s.node.bars g then s.barOut g else s) ∧ bit u.node.bars g = false ∧ u.step = s.step ∧
      u.node.gates = s.node.gates ∧ u.node.handDie = s.node.handDie ∧ u.node.handAlive = s.node.handAlive ∧
      u.node.altStarting = s.node.altStarting ∧ u.node.g0Lost = s.node.g0Lost := by
  by_cases h : bit s.node.bars g = true
  · exact ⟨s.barOut g, by rw [if_pos h], by simpa using bit_clrBit s.node.bars g, by simp⟩
  · exact ⟨s, by rw [if_neg h], by simpa using h, by simp⟩

/-- A Gate die goes out with its Bar and what of the Hand and the sequencer ran on it, its event aside. -/
def State.dieGone (s : State) (g : Nat) : State :=
  let u := if bit (s.gateOut g).node.bars g then (s.gateOut g).barOut g else s.gateOut g
  let v := { u with node := { u.node with handAlive := u.node.handAlive && u.node.handDie != g,
                                          altStarting := u.node.altStarting && g != 2 } }
  if v.step.sequencer = g then { v with step := { v.step with held := true } } else v

theorem dieGone_lost (s : State) (g : Nat) : s.GateLost (s.dieGone g) g := by
  have hout := gateOut_agents s g
  obtain ⟨u, hu, ubars, ustep, ugates, udie, ualive, ualt, ulost⟩ := barOut_if_lives (s.gateOut g) g
  unfold State.dieGone
  dsimp only
  rw [← hu]
  generalize s.gateOut g = v at hout ustep ugates udie ualive ualt ulost
  clear hu
  obtain ⟨hheld, hseq, hgates, -, hdie, halive, halt, hlost⟩ := hout
  dsimp only at hheld hseq hgates hdie halive halt hlost
  have hgone : bit u.node.gates g = false := by
    rw [ugates, hgates]
    exact bit_clrBit s.node.gates g
  have hd := udie.trans hdie
  have ha := ualive.trans halive
  have hs := ualt.trans halt
  have hq : u.step.sequencer = s.step.sequencer := by rw [ustep, hseq]
  have hh : u.step.held = s.step.held := by rw [ustep, hheld]
  split
  case isTrue h =>
    exact ⟨hgone, ubars, by rw [← ha, ← hd], by rw [← hs], ulost.trans hlost, by simp [← hq, h], hq⟩
  case isFalse h =>
    have hne : (s.step.sequencer == g) = false := by rw [← hq]; simpa using h
    exact ⟨hgone, ubars, by rw [← ha, ← hd], by rw [← hs], ulost.trans hlost, by rw [hne, Bool.or_false, ← hh], hq⟩

theorem State.GateLost.of_agents {s v t : State} {g : Nat} (hv : s.AgentsAs v) (h : v.GateLost t g) : s.GateLost t g := by
  obtain ⟨hheld, hseq, -, -, hdie, halive, halt, hlost⟩ := hv
  obtain ⟨h1, h2, h3, h4, h5, h6, h7⟩ := h
  exact ⟨h1, h2, by rw [h3, halive, hdie], by rw [h4, halt], by rw [h5, hlost], by rw [h6, hheld, hseq], by rw [h7, hseq]⟩

theorem gateLoss_lost {s : State} {g : Nat} (hg : g < 4) (hb : bit s.node.gates g = true) : s.GateLost (s.gateLoss g) g := by
  have hno : ¬ (4 ≤ g ∨ ¬ bit s.node.gates g = true) := by simp [hb, hg]
  have heq : s.gateLoss g = (s.evBy (s.lossAgent g) 0x1107 (locGate g) none 0).dieGone g := by
    unfold State.gateLoss
    rw [if_neg hno]
    rfl
  rw [heq]
  exact (dieGone_lost _ g).of_agents (evBy_agents s _ _ _ _ _)

/-! ### G0 and the Hand -/

theorem grant_of_committed {s t : State} (h : t.dict.committed = s.dict.committed) (g : Nat) : t.grant g = s.grant g := by
  unfold State.grant State.comN State.com
  rw [h]

theorem raise_grant (s : State) (c l d g : Nat) : (s.raise c l d).grant g = s.grant g :=
  grant_of_committed (State.raise_dict_committed s c l d) g

theorem startAlternate_altStarting (s : State) :
    s.startAlternate.node.altStarting = (s.node.altStarting || (s.grant 1 && bit s.node.gates 2)) := by
  unfold State.startAlternate
  split
  case isTrue h =>
    rw [State.useGrant, State.bump_node, h.1, h.2]
    simp
  case isFalse h =>
    have : (s.grant 1 && bit s.node.gates 2) = false := by simpa using h
    rw [this, Bool.or_false]

/-- The start of the alternate Hand leaves the Hand that runs, and the Gate dies. -/
theorem startAlternate_keeps (s : State) : s.startAlternate.node.g0Lost = s.node.g0Lost ∧
    s.startAlternate.node.handAlive = s.node.handAlive ∧ s.startAlternate.node.handDie = s.node.handDie ∧
      s.startAlternate.node.gates = s.node.gates := by
  unfold State.startAlternate
  split
  case isTrue =>
    rw [State.useGrant, State.bump_node]
    exact ⟨rfl, rfl, rfl, rfl⟩
  case isFalse => exact ⟨rfl, rfl, rfl, rfl⟩

@[simp] theorem startAlternate_step (s : State) : s.startAlternate.step = s.step := by
  unfold State.startAlternate
  split
  case isTrue => rw [State.useGrant, State.bump_step]
  case isFalse => rfl

theorem handWatchdogExpiry_ends {s : State} (ha : s.node.handAlive = true) (hd : s.node.handDie = 0) (hl : s.node.g0Lost = false) :
    ∃ t, exec .handWatchdogExpiry s = .next t ∧
      t = ({ s with node := { s.node with handAlive := false } }.raise 0x1102 (locHand s) 0).startAlternate ∧ t.node.handAlive = false ∧
      t.node.altStarting = (s.node.altStarting || (s.grant 1 && bit s.node.gates 2)) ∧ t.step = s.step := by
  have hno : ¬ (¬ s.node.handAlive = true ∨ s.node.handDie ≠ 0 ∨ s.node.g0Lost = true) := by simp [ha, hd, hl]
  refine ⟨_, by rw [exec, execHandWatchdogExpiry, if_neg hno], rfl, ?_⟩
  have hu := raise_agents { s with node := { s.node with handAlive := false } } 0x1102 (locHand s) 0
  have hg := raise_grant { s with node := { s.node with handAlive := false } } 0x1102 (locHand s) 0 1
  have hs := State.raise_step { s with node := { s.node with handAlive := false } } 0x1102 (locHand s) 0
  have hc : State.grant { s with node := { s.node with handAlive := false } } 1 = s.grant 1 := grant_of_committed rfl 1
  generalize State.raise _ _ _ _ = u at hu hg hs ⊢
  rw [(startAlternate_keeps u).2.1, startAlternate_altStarting, startAlternate_step, hg, hc, hu.gates, hu.altStarting, hs]
  exact ⟨hu.handAlive, rfl, rfl⟩

/-- What G0_LOSS does before the die itself goes out: the Hand on it stops, and the standby sequencer starts or every plot holds. -/
structure State.G0Stopped (s u : State) : Prop where
  g0Lost : u.node.g0Lost = true
  handAlive : u.node.handAlive = (s.node.handAlive && s.node.handDie != 0)
  handDie : u.node.handDie = s.node.handDie
  gates : u.node.gates = s.node.gates
  elsewhere : s.step.sequencer ≠ 0 → u.step.held = s.step.held ∧ u.step.sequencer = s.step.sequencer
  standby : s.step.sequencer = 0 → (s.grant 1 && bit s.node.gates 2) = true → u.step.sequencer = 2 ∧ u.step.held = s.step.held ∧
    (s.node.handDie = 0 → u.node.altStarting = true)
  holds : s.step.sequencer = 0 → (s.grant 1 && bit s.node.gates 2) = false → u.step.held = true

/-- G0 lost, the Hand on it stopped, and EV 0x1105 raised by a Bar. -/
def State.g0Noted (s : State) : State :=
  ({ s with node := { s.node with g0Lost := true, handAlive := s.node.handAlive && s.node.handDie != 0 } }).evBy
    (s.barPath (s.otherBar 0)) 0x1105 (locGate 0) none 0

theorem g0Noted_agents (s : State) : State.AgentsAs
    { s with node := { s.node with g0Lost := true, handAlive := s.node.handAlive && s.node.handDie != 0 } } s.g0Noted :=
  evBy_agents _ _ _ _ _ _

theorem g0Noted_grant (s : State) (g : Nat) : s.g0Noted.grant g = s.grant g := by
  refine grant_of_committed ?_ g
  unfold State.g0Noted
  rw [State.evBy_dict_committed]

/-- The standby sequencer takes over, and the alternate Hand starts where the Hand was on G0. -/
def State.standbyStarts (s : State) : State :=
  let u := { s with step := { s.step with sequencer := 2 } }
  if u.node.handDie = 0 ∧ ¬ u.node.altStarting then u.startAlternate else u

/-- Every plot holds, and what is in flight is lost. -/
def State.plotsHold (s : State) : State := ({ s with step := { s.step with held := true } }).loseInFlight

theorem g0Loss_eq {s : State} (hl : s.node.g0Lost = false) (hr : s.pwr.boot = .running) : s.g0Loss =
    (if s.g0Noted.step.sequencer ≠ 0 then s.g0Noted
      else if s.g0Noted.grant 1 ∧ bit s.g0Noted.node.gates 2 then s.g0Noted.standbyStarts else s.g0Noted.plotsHold).gateLoss 0 := by
  have hno : ¬ (s.node.g0Lost = true ∨ s.pwr.boot ≠ .running) := by simp [hl, hr]
  unfold State.g0Loss
  rw [if_neg hno]
  rfl

theorem g0Noted_stopped (s : State) (hs : s.step.sequencer ≠ 0) : s.G0Stopped s.g0Noted := by
  obtain ⟨hheld, hseq, hgates, -, hdie, halive, -, hlost⟩ := g0Noted_agents s
  exact ⟨hlost, halive, hdie, hgates, fun _ => ⟨hheld, hseq⟩, fun h => absurd h hs, fun h => absurd h hs⟩

/-- Where the standby sequencer may start, it does, with the alternate Hand of a node whose Hand was on G0. -/
structure State.Standby (v t : State) : Prop where
  g0Lost : t.node.g0Lost = v.node.g0Lost
  handAlive : t.node.handAlive = v.node.handAlive
  handDie : t.node.handDie = v.node.handDie
  gates : t.node.gates = v.node.gates
  sequencer : t.step.sequencer = 2
  held : t.step.held = v.step.held
  alternate : v.node.handDie = 0 → t.node.altStarting = true

theorem standbyStarts_standby {v : State} (hg : (v.grant 1 && bit v.node.gates 2) = true) : v.Standby v.standbyStarts := by
  unfold State.standbyStarts
  dsimp only
  split
  case isTrue h =>
    have hgu : State.grant { v with step := { v.step with sequencer := 2 } } 1 = v.grant 1 := grant_of_committed rfl 1
    obtain ⟨hlost, halive, hdie, hgates⟩ := startAlternate_keeps { v with step := { v.step with sequencer := 2 } }
    have halt := startAlternate_altStarting { v with step := { v.step with sequencer := 2 } }
    dsimp only at halt
    rw [hgu, hg, Bool.or_true] at halt
    exact ⟨hlost, halive, hdie, hgates, by rw [startAlternate_step], by rw [startAlternate_step], fun _ => halt⟩
  case isFalse h => exact ⟨rfl, rfl, rfl, rfl, rfl, rfl, fun h0 => by simpa [h0] using h⟩

theorem standbyStarts_stopped {s : State} (hs : s.step.sequencer = 0) (hg : (s.grant 1 && bit s.node.gates 2) = true) :
    s.G0Stopped s.g0Noted.standbyStarts := by
  obtain ⟨hheld, -, hgates, -, hdie, halive, -, hlost⟩ := g0Noted_agents s
  have hv := standbyStarts_standby (v := s.g0Noted) (by rw [g0Noted_grant, hgates]; exact hg)
  exact ⟨hv.g0Lost.trans hlost, hv.handAlive.trans halive, hv.handDie.trans hdie, hv.gates.trans hgates, fun h => absurd hs h,
    fun _ _ => ⟨hv.sequencer, hv.held.trans hheld, fun h0 => hv.alternate (hdie.trans h0)⟩,
    fun _ hn => absurd (hg.symm.trans hn) (by decide)⟩

theorem plotsHold_stopped {s : State} (hs : s.step.sequencer = 0) (hg : (s.grant 1 && bit s.node.gates 2) = false) :
    s.G0Stopped s.g0Noted.plotsHold := by
  obtain ⟨-, -, hgates, -, hdie, halive, -, hlost⟩ := g0Noted_agents s
  have hv := loseInFlight_agents { s.g0Noted with step := { s.g0Noted.step with held := true } }
  exact ⟨hv.g0Lost.trans hlost, hv.handAlive.trans halive, hv.handDie.trans hdie, hv.gates.trans hgates, fun h => absurd hs h,
    fun _ hp => absurd (hp.symm.trans hg) (by decide), fun _ _ => hv.held⟩

theorem g0Loss_stopped {s : State} (hl : s.node.g0Lost = false) (hr : s.pwr.boot = .running) :
    ∃ u, s.g0Loss = u.gateLoss 0 ∧ s.G0Stopped u := by
  have hseq := (g0Noted_agents s).sequencer
  have hgates := (g0Noted_agents s).gates
  refine ⟨_, g0Loss_eq hl hr, ?_⟩
  rw [hseq, hgates, g0Noted_grant]
  by_cases hs : s.step.sequencer = 0
  · rw [if_neg (by simpa using hs)]
    cases hg : (s.grant 1 && bit s.node.gates 2) with
    | true =>
      rw [if_pos (by simpa using hg)]
      exact standbyStarts_stopped hs hg
    | false =>
      rw [if_neg (by simpa using hg)]
      exact plotsHold_stopped hs hg
  · rw [if_pos hs]
    exact g0Noted_stopped s hs

/-- What G0_LOSS leaves of the agents (R18). -/
theorem g0Loss_ends {s : State} (hl : s.node.g0Lost = false) (hr : s.pwr.boot = .running) (hb : bit s.node.gates 0 = true) :
    ∃ t, exec .g0Loss s = .next t ∧ t.node.g0Lost = true ∧
      t.node.handAlive = (s.node.handAlive && s.node.handDie != 0) ∧ bit t.node.gates 0 = false ∧
      (s.step.sequencer ≠ 0 → t.step.held = s.step.held ∧ t.step.sequencer = s.step.sequencer) ∧
      (s.step.sequencer = 0 → (s.grant 1 && bit s.node.gates 2) = true → t.step.sequencer = 2 ∧ t.step.held = s.step.held ∧
        (s.node.handDie = 0 → t.node.altStarting = true)) ∧
      (s.step.sequencer = 0 → (s.grant 1 && bit s.node.gates 2) = false → t.step.held = true) := by
  obtain ⟨u, hu, ulost, ualive, udie, ugates, uelse, ustandby, uholds⟩ := g0Loss_stopped hl hr
  obtain ⟨hgates, -, halive, halt, hlost, hheld, hseq⟩ := gateLoss_lost (s := u) (g := 0) (by decide) (by rw [ugates]; exact hb)
  refine ⟨s.g0Loss, rfl, ?_⟩
  rw [hu]
  refine ⟨hlost.trans ulost, ?_, hgates, fun hs => ?_, fun hs hg => ?_, fun hs hg => ?_⟩
  · rw [halive, ualive, udie, Bool.and_assoc, Bool.and_self]
  · obtain ⟨h1, h2⟩ := uelse hs
    have hne : (u.step.sequencer == 0) = false := by rw [h2]; simpa using hs
    exact ⟨by rw [hheld, hne, Bool.or_false, h1], hseq.trans h2⟩
  · obtain ⟨h1, h2, h3⟩ := ustandby hs hg
    have hne : (u.step.sequencer == 0) = false := by rw [h1]; rfl
    exact ⟨hseq.trans h1, by rw [hheld, hne, Bool.or_false, h2], fun h0 => by rw [halt, h3 h0]; rfl⟩
  · rw [hheld, uholds hs hg, Bool.true_or]

theorem gateDieLoss_ends {s : State} {g : Nat} (h0 : g ≠ 0) (hg : g < 4) (hb : bit s.node.gates g = true) :
    ∃ t, exec (.gateDieLoss g) s = .next t ∧ bit t.node.gates g = false ∧ bit t.node.bars g = false ∧
      t.node.handAlive = (s.node.handAlive && s.node.handDie != g) ∧ t.step.held = (s.step.held || s.step.sequencer == g) := by
  have h := gateLoss_lost hg hb
  exact ⟨s.gateLoss g, by rw [exec, execGateDieLoss, if_neg h0], h.gates, h.bars, h.handAlive, h.held⟩

theorem gateDieLoss_zero (s : State) : exec (.gateDieLoss 0) s = exec .g0Loss s := by
  rw [exec, exec, execGateDieLoss, execG0Loss, if_pos rfl]

/-! ### Restarts and the takeover -/

theorem stringRestart_runs {s : State} {n : Nat} (hn : n < 16) (hb : bit s.node.restart (8 + n) = true) (hg : s.grant 2 = true) :
    exec (.agentRestart false false n) s = .next ((({ s with node := { s.node with
      strings := setBit s.node.strings n, restart := clrBit s.node.restart (8 + n) } }).useGrant 2).raise 0x1106 (locPlot n) 0) := by
  simp [exec, execAgentRestart, hn, hb, hg]

theorem gateStringRestart_runs {s : State} {n : Nat} (hn : n < 4) (hl : bit s.node.gates n = true)
    (hb : bit s.node.restart (4 + n) = true) (hg : s.grant 2 = true) :
    exec (.agentRestart false true n) s = .next ((({ s with node := { s.node with
      gateStrings := setBit s.node.gateStrings n, restart := clrBit s.node.restart (4 + n) } }).useGrant 2).raise 0x1106 (locGate n) 0) := by
  simp [exec, execAgentRestart, hn, hl, hb, hg]

theorem barRestart_runs {s : State} {n : Nat} (gate : Bool) (hn : n < 4) (hl : bit s.node.gates n = true)
    (hb : bit s.node.restart n = true) (hg : s.grant 2 = true) :
    exec (.agentRestart true gate n) s = .next (((({ s with node := { s.node with
      bars := setBit s.node.bars n, restart := clrBit s.node.restart n } }).setN 0x1010 4 (setBit s.node.bars n)).useGrant 2).raise
        0x1106 (locGate n) 0) := by
  simp [exec, execAgentRestart, hn, hl, hb, hg]

/-- An event of a place that no plot scores leaves the node as it is (R393). -/
theorem raise_node_of_unit {s : State} {c l d : Nat} (hl : 4 < locScope l) : (s.raise c l d).node = s.node := by
  have hno : ¬ (4 ≤ severity c ∧ 2 ≤ locScope l ∧ locScope l ≤ 4) := by omega
  unfold State.raise State.evU State.evBy State.mkEv
  dsimp only
  rw [State.bump_node, if_neg hno]

/-- The alternate Hand is the live one, and what the lost Hand had in progress is gone (R18). -/
def State.altLives (s : State) : State :=
  { s with
    node := { s.node with handDie := 2, handAlive := true, altStarting := false }
    dict := { s.dict with sets := [], xfers := [], commits := [], resp := [], lastTxn := [], lastResp := [], expired := [] } }

/-- The alternate Hand with its roles published, its leaf counter and its key. -/
def State.altKeyed (s : State) (leafOk : Bool) : State :=
  ((((s.altLives).setN 0x1010 5 2).setN 0x1020 1 2).resumeLeaf leafOk).newKemKey

/-- What the takeover raises (R18). -/
def State.altReported (s : State) : State := (s.raise 0x1103 (locHand s) 0).raise 0x9031 (locHand s) 0

theorem takeover_runs {s : State} {x : AltBoot} (ha : s.node.altStarting = true) (hx : x.verified = true) :
    exec (.alternateHandTakeover x) s = .next (s.altKeyed x.leafOk).altReported := by
  have h1 : ¬ (¬ s.node.altStarting = true) := by simp [ha]
  have h2 : ¬ (¬ x.verified = true) := by simp [hx]
  rw [exec, execAlternateHandTakeover, if_neg h1, if_neg h2, State.altReported, State.altKeyed, State.altLives]

theorem Inv.altReported {P : State → Prop} (hk : Stables P 9223372036888403968) {s : State} (h : P s.altLives) (leafOk : Bool) :
    P (s.altKeyed leafOk).altReported :=
  Inv.raise (hk.sub rfl) (Inv.raise (hk.sub rfl) (Inv.newKemKey (hk.sub rfl) (Inv.resumeLeaf hk
    (Inv.setN (hk.sub rfl) (Inv.setN (hk.sub rfl) h _ _ _) _ _ _) _)) _ _ _) _ _ _

/-- The alternate Hand takes over with an empty dictionary protocol; the committed configuration stands (R18). -/
theorem altLives_kept {s t : State} (hi : ∀ P : State → Prop, Stables P 9223372036888403968 → P s.altLives → P t) :
    t.node.handDie = 2 ∧ t.node.handAlive = true ∧ t.node.altStarting = false ∧ t.dict.sets = [] ∧ t.dict.xfers = [] ∧
      t.dict.commits = [] ∧ t.dict.committed = s.dict.committed := by
  have hagents := State.AgentsAs.of_ops hi (by decide +kernel)
  have hprot := Inv.same (f := .dictProtocol) hi (by decide +kernel)
  have hsets := Inv.same (f := .dictSets) hi (by decide +kernel)
  have hcommits := Inv.same (f := .dictCommits) hi (by decide +kernel)
  have hcom := Inv.same (f := .dictCommitted) hi (by decide +kernel)
  simp only [Part.same, Prod.mk.injEq] at hprot hsets hcommits hcom
  exact ⟨hagents.handDie, hagents.handAlive, hagents.altStarting, hsets, hprot.1, hcommits, hcom⟩

theorem takeover_second_bank {s : State} {x : AltBoot} (ha : s.node.altStarting = true) (hx : x.verified = false)
    (hb : bit (s.liveN 0x9020 2) 1 = true) : exec (.alternateHandTakeover x) s =
      .next ({ s with node := { s.node with altStarting := false } }.raise 0x9003 (locUnit 2 4 0 0) 0) := by
  simp [exec, execAlternateHandTakeover, ha, hx, hb]

theorem takeover_first_bank {s : State} {x : AltBoot} (ha : s.node.altStarting = true) (hx : x.verified = false)
    (hb : bit (s.liveN 0x9020 2) 1 = false) : exec (.alternateHandTakeover x) s =
      .next ((({ s with sec := { s.sec with bank := 1 - s.sec.bank } }).setN 0x9020 2 (2 + (1 - s.sec.bank))).raise 0x9002
        (locUnit 2 4 0 0) 0) := by
  simp [exec, execAlternateHandTakeover, ha, hx, hb]

/-- Settles O39, agent by agent. -/
theorem lossesOfAgentsComplete : Obligations.LossesOfAgentsComplete := by
  intro s
  refine ⟨fun b => barLoss_ends, fun n hn hl => ⟨_, stringLoss_runs hn hl, ?_, ?_, State.raise_step .., State.raise_ledger ..⟩,
    fun n hn hl => ⟨_, gateStringLoss_runs hn hl, ?_, ?_, State.raise_step .., State.raise_ledger ..⟩,
    fun g => gateDieLoss_ends, gateDieLoss_zero s, g0Loss_ends,
    handWatchdogExpiry_ends, fun n hn hb hg => ⟨_, stringRestart_runs hn hb hg, ?_, ?_⟩,
    fun n hn hl hg => ⟨fun hb => ⟨_, gateStringRestart_runs hn hl hb hg, ?_, ?_⟩,
      fun hb gate => ⟨_, barRestart_runs gate hn hl hb hg, ?_, ?_⟩⟩,
    fun x ha => ⟨fun hx => ⟨_, takeover_runs ha hx, altLives_kept fun _ hk h => Inv.altReported hk h x.leafOk⟩,
      takeover_second_bank ha, fun hx hb => ⟨_, takeover_first_bank ha hx hb, ?_, ?_⟩⟩⟩
  · rw [State.raise_node_strings]
  · rw [State.raise_node_restart]
    exact bit_restart s.node.restart (8 + n) (s.grant 2)
  · rw [State.raise_node_gateStrings]
  · rw [State.raise_node_restart]
    exact bit_restart s.node.restart (4 + n) (s.grant 2)
  · rw [State.raise_node_strings, State.useGrant, State.bump_node]
  · rw [State.raise_node_restart, State.useGrant, State.bump_node]
  · rw [State.raise_node_gateStrings, State.useGrant, State.bump_node]
  · rw [State.raise_node_restart, State.useGrant, State.bump_node]
  · rw [State.raise_node_bars, State.useGrant, State.bump_node, State.setN_node]
  · rw [State.raise_node_restart, State.useGrant, State.bump_node, State.setN_node]
  · rw [State.raise_sec, State.setN_sec]
  · rw [raise_node_of_unit (by decide), State.setN_node]

end Sys2Proof.Machine
end

section
/-! The accesses of a host over Ethernet (R20, R22, R155, R156, R311, R312, R318, R389). -/

namespace Sys2Proof.Machine
set_option Elab.async false

/-! ### The doorbell page (R156) -/

theorem length_eq_four {b : Bytes} (h : b.length = 4) : ∃ b0 b1 b2 b3, b = [b0, b1, b2, b3] := by
  match b, h with
  | [b0, b1, b2, b3], _ => exact ⟨b0, b1, b2, b3, rfl⟩

/-- Four bytes at offset 0 are the new REQ_TAIL. -/
theorem doorbell_reqTail (r : Ring) {b : Bytes} (h : b.length = 4) :
    (r.doorbell 0 b).reqTail = leNat b ∧ (r.doorbell 0 b).cplHead = r.cplHead % 2 ^ 32 := by
  obtain ⟨b0, b1, b2, b3, rfl⟩ := length_eq_four h
  exact ⟨rfl, leNat_leBytes 4 r.cplHead⟩

/-- Four bytes at offset 8 are the new CPL_HEAD. -/
theorem doorbell_cplHead (r : Ring) {b : Bytes} (h : b.length = 4) :
    (r.doorbell 8 b).cplHead = leNat b ∧ (r.doorbell 8 b).reqTail = r.reqTail % 2 ^ 32 := by
  obtain ⟨b0, b1, b2, b3, rfl⟩ := length_eq_four h
  exact ⟨rfl, leNat_leBytes 4 r.reqTail⟩

/-! ### What an access answers -/

section
variable {s t u : State} {qp : Nat} {q : QPair} (hq : mget s.qps qp = some q) (ht : t = u) (hs : u.qps = s.qps)
include hq ht hs

theorem answerHost_done (h : u.resp = .done) : t.answerHost qp = u.emit (16 + q.port) 7 (.ack qp false) := by
  simp only [State.answerHost, ht, hs, hq, h]

theorem answerHost_nak (h : u.resp = .nak) : t.answerHost qp = u.emit (16 + q.port) 7 (.ack qp true) := by
  simp only [State.answerHost, ht, hs, hq, h]

theorem answerHost_data {b : Bytes} (h : u.resp = .data b) : t.answerHost qp = u.emit (16 + q.port) q.cls (.reply qp b) := by
  simp only [State.answerHost, ht, hs, hq, h]

end

/-- A refused access raises the event that names it, and is answered with a NAK. -/
theorem answerHost_refused {s t : State} {qp e addr : Nat} {q : QPair} (hq : mget s.qps qp = some q) (ht : t = s.refuseAccess e addr) :
    t.answerHost qp = { s.raise e locField addr with resp := .nak }.emit (16 + q.port) 7 (.ack qp true) :=
  answerHost_nak hq ht (State.raise_qps s e locField addr) rfl

/-! ### Writes (R155, R156) -/

section
variable {s : State} {qp addr : Nat} {b : Bytes} (hb : b ≠ []) (hn : s.refusal qp addr b.length true = none)
include hb hn

/-- A write to the slots of a ring. -/
theorem hostWrite_slots (hr : faRegion addr = 4) (hk : bitsOf addr 47 46 ≠ 2) :
    s.hostWrite qp addr b = { s with mem := Memory.writeN s.mem addr b, resp := .done } := by
  simp [State.hostWrite, hb, hn, hr, hk]

/-- A write to a doorbell page. -/
theorem hostWrite_doorbell (hr : faRegion addr = 4) (hk : bitsOf addr 47 46 = 2) : s.hostWrite qp addr b =
    { s.modRing (bitsOf addr 45 30) (fun q => q.doorbell (addr % 2 ^ 30) b) with resp := .done } := by
  simp [State.hostWrite, hb, hn, hr, hk]

/-- A write to host staging waits for the next boundary (R22). -/
theorem hostWrite_staging (hr : faRegion addr ≤ 1) :
    s.hostWrite qp addr b = { s with tier := { s.tier with landing := s.tier.landing ++ [(addr, b)] }, resp := .done } := by
  have h7 : faRegion addr ≠ 7 := by omega
  have h6 : faRegion addr ≠ 6 := by omega
  have h4 : faRegion addr ≠ 4 := by omega
  simp [State.hostWrite, hb, hn, hr, h7, h6, h4]

end

theorem hostWrite_refused {s : State} {qp addr e : Nat} {b : Bytes} (hb : b ≠ []) (hr : faRegion addr ≠ 7)
    (he : s.refusal qp addr b.length true = some e) : s.hostWrite qp addr b = s.refuseAccess e addr := by
  simp [State.hostWrite, hb, he, hr]

section
variable {s : State} {qp : Nat} {q : QPair} {addr : BitVec 64} {b : Bytes} {how : FrameIn}

/-- At a port without ingress gates a write is made as it arrives. -/
theorem hostRdmaWrite_ungated (hq : s.takesRdma qp q how.tagOk) (hg : s.gates (16 + q.port) 1 = []) :
    exec (.hostRdmaWrite qp addr b how) s = .next ((s.hostWrite qp addr.toNat b).answerHost qp) := by
  obtain ⟨hq, hud, h0, h3, hl, ht⟩ := hq
  simp [exec, execHostRdmaWrite, hq, hud, h0, h3, hl, ht, hg]

/-- At a port with ingress gates a write waits in its class buffer (R318). -/
theorem hostRdmaWrite_gated (hq : s.takesRdma qp q how.tagOk) (hg : s.gates (16 + q.port) 1 ≠ []) :
    exec (.hostRdmaWrite qp addr b how) s = .next (s.holdWrite q.port ⟨s.classIn q.port how, qp, addr.toNat, b⟩) := by
  obtain ⟨hq, hud, h0, h3, hl, ht⟩ := hq
  simp [exec, execHostRdmaWrite, hq, hud, h0, h3, hl, ht, hg]

/-- A class buffer with room takes the write, and only the port changes. -/
theorem holdWrite_with_room {e : Nat} {w : HeldWrite} (h : (s.ep e).queued w.cls + w.data.length ≤ 524288) :
    ((s.holdWrite e w).ep e).inQ = (s.ep e).inQ ++ [w] ∧ { s.holdWrite e w with eth := s.eth } = s := by
  unfold State.holdWrite
  rw [if_neg (by omega)]
  exact ⟨by rw [State.ep_modEp], rfl⟩

theorem hostRdmaWrite_slots (w : Memory.wf s.mem = true) (hq : s.takesRdma qp q how.tagOk) (hg : s.gates (16 + q.port) 1 = [])
    (hb : b ≠ []) (hr : faRegion addr.toNat = 4) (hn : s.refusal qp addr.toNat b.length true = none)
    (hk : bitsOf addr.toNat 47 46 ≠ 2) :
    ∃ t x, exec (.hostRdmaWrite qp addr b how) s = .next t ∧ Memory.readN t.mem addr.toNat b.length = b ∧
      (∀ a, a < addr.toNat ∨ addr.toNat + b.length ≤ a → Memory.read t.mem a = Memory.read s.mem a) ∧
      t.resp = .done ∧ t.tx = s.tx ++ [x] ∧ x.msg = .ack qp false ∧ x.port = 16 + q.port ∧ x.cls = 7 ∧
      { t with mem := s.mem, resp := s.resp, tx := s.tx } = s := by
  rw [hostRdmaWrite_ungated hq hg, answerHost_done hq.1 (hostWrite_slots hb hn hr hk) rfl rfl]
  exact ⟨_, _, rfl, Memory.readN_writeN w, fun a ha => Memory.read_writeN_out w ha, rfl, rfl, rfl, rfl, rfl, rfl⟩

theorem hostRdmaWrite_doorbell (hq : s.takesRdma qp q how.tagOk) (hg : s.gates (16 + q.port) 1 = []) (hb : b ≠ [])
    (hr : faRegion addr.toNat = 4) (hn : s.refusal qp addr.toNat b.length true = none) (hk : bitsOf addr.toNat 47 46 = 2)
    {r : Ring} (hring : mget s.rings (bitsOf addr.toNat 45 30) = some r) :
    ∃ t r1, exec (.hostRdmaWrite qp addr b how) s = .next t ∧ mget t.rings (bitsOf addr.toNat 45 30) = some r1 ∧
      { r1 with reqTail := r.reqTail, cplHead := r.cplHead } = r ∧
      (addr.toNat % 2 ^ 30 = 0 → b.length = 4 → r1.reqTail = leNat b ∧ r1.cplHead = r.cplHead % 2 ^ 32) ∧
      (addr.toNat % 2 ^ 30 = 8 → b.length = 4 → r1.cplHead = leNat b ∧ r1.reqTail = r.reqTail % 2 ^ 32) ∧
      { t with rings := s.rings, resp := s.resp, tx := s.tx } = s := by
  rw [hostRdmaWrite_ungated hq hg, answerHost_done hq.1 (hostWrite_doorbell hb hn hr hk) rfl rfl]
  have hbell := mget_mmod_self (fun x : Ring => x.doorbell (addr.toNat % 2 ^ 30) b) hring
  refine ⟨_, r.doorbell (addr.toNat % 2 ^ 30) b, rfl, hbell, rfl, fun h hl => ?_, fun h hl => ?_, rfl⟩
  · rw [h]
    exact doorbell_reqTail r hl
  · rw [h]
    exact doorbell_cplHead r hl

end

/-! ### Reads (R311) -/

section
variable {s : State} {qp : Nat} {q : QPair} {addr : BitVec 64} {n : Nat} {tagOk : Bool} (hq : s.takesRdma qp q tagOk)
include hq

/-- A queue pair with fewer than 16 reads out answers the next one. -/
theorem hostRdmaRead_with_room (ho : s.readsOut qp < 16) :
    exec (.hostRdmaRead qp addr n tagOk) s = .next ((s.hostRead qp addr.toNat n).answerHost qp) := by
  obtain ⟨hq, hud, h0, h3, hl, ht⟩ := hq
  simp [exec, execHostRdmaRead, hq, hud, h0, h3, hl, ht, Nat.not_le.mpr ho]

theorem hostRdmaRead_full (ho : 16 ≤ s.readsOut qp) : exec (.hostRdmaRead qp addr n tagOk) s =
    .next ({ s with resp := .nak }.emit (16 + q.port) 7 (.ack qp true)) := by
  have ha := answerHost_nak (u := { s with resp := .nak }) hq.1 rfl rfl rfl
  obtain ⟨hq, hud, h0, h3, hl, ht⟩ := hq
  simp [exec, execHostRdmaRead, hq, hud, h0, h3, hl, ht, ho, ha]

theorem hostRdmaRead_slots (hn0 : n ≠ 0) (ho : s.readsOut qp < 16) (hr : faRegion addr.toNat = 4) (hk : bitsOf addr.toNat 47 46 ≠ 2)
    (hn : s.refusal qp addr.toNat n false = none) : exec (.hostRdmaRead qp addr n tagOk) s =
      .next ({ s with resp := .data (Memory.readN s.mem addr.toNat n) }.emit (16 + q.port) q.cls
        (.reply qp (Memory.readN s.mem addr.toNat n))) := by
  have hread : s.hostRead qp addr.toNat n = { s with resp := .data (Memory.readN s.mem addr.toNat n) } := by
    simp [State.hostRead, hn0, hn, hr, hk]
  rw [hostRdmaRead_with_room hq ho, answerHost_data hq.1 hread rfl rfl]

theorem hostRdmaRead_refused {e : Nat} (hn0 : n ≠ 0) (ho : s.readsOut qp < 16) (he : s.refusal qp addr.toNat n false = some e) :
    exec (.hostRdmaRead qp addr n tagOk) s =
      .next ({ s.raise e locField addr.toNat with resp := .nak }.emit (16 + q.port) 7 (.ack qp true)) := by
  have hread : s.hostRead qp addr.toNat n = s.refuseAccess e addr.toNat := by simp [State.hostRead, hn0, he]
  rw [hostRdmaRead_with_room hq ho, answerHost_refused hq.1 hread]

end

/-! ### The ingress window (R312, R318) -/

/-- The writes of a port's class buffers whose gate is open leave them. -/
def State.releaseWrites (s : State) (port open_ : Nat) : State :=
  s.modEp port fun p => { p with inQ := p.inQ.filter fun w => !bit open_ w.cls }

/-- The classes whose buffers have drained are told to send again. -/
def State.sendXon (s : State) (port : Nat) : State :=
  let xon := (List.range 8).filter fun c => bit (s.ep port).xoff c && decide ((s.ep port).queued c ≤ 131072)
  s.modEp port fun p => { p with xoff := xon.foldl clrBit p.xoff, pfcSent := p.pfcSent ++ xon.map fun c => (c, false) }

theorem ingressWindow_runs (s : State) (port classes : Nat) : exec (.ingressWindow port classes) s = .next (State.sendXon
    (((s.ep port).inQ.filter fun w => bit (classes &&& s.openClasses (16 + port) 1) w.cls).foldl
      (fun (s : State) w => (s.hostWrite w.qp w.addr w.data).answerHost w.qp)
      (s.releaseWrites port (classes &&& s.openClasses (16 + port) 1))) port) := rfl

theorem sendXon_inQ (s : State) (port : Nat) : ((s.sendXon port).ep port).inQ = (s.ep port).inQ := by
  unfold State.sendXon
  rw [State.ep_modEp]

theorem releaseWrites_inQ (s : State) (port open_ : Nat) :
    ((s.releaseWrites port open_).ep port).inQ = (s.ep port).inQ.filter fun w => !bit open_ w.cls := by
  unfold State.releaseWrites
  rw [State.ep_modEp]

/-- The rules of an access do not look at the ports' class buffers. -/
theorem refusal_eth (s : State) (e : List (Nat × EPort)) (qp a n : Nat) (w : Bool) :
    ({ s with eth := e } : State).refusal qp a n w = s.refusal qp a n w := rfl

theorem ingressWindow_closed {s : State} {port classes : Nat}
    (h : ∀ w ∈ (s.ep port).inQ, bit (classes &&& s.openClasses (16 + port) 1) w.cls = false) :
    ∃ t, exec (.ingressWindow port classes) s = .next t ∧ (t.ep port).inQ = (s.ep port).inQ ∧ { t with eth := s.eth } = s := by
  have hnone : ((s.ep port).inQ.filter fun w => bit (classes &&& s.openClasses (16 + port) 1) w.cls) = [] :=
    List.filter_eq_nil_iff.mpr fun w hw => by simp [h w hw]
  refine ⟨_, ingressWindow_runs s port classes, ?_, ?_⟩
  · rw [hnone, List.foldl_nil, sendXon_inQ, releaseWrites_inQ]
    exact List.filter_eq_self.mpr fun w hw => by simp [h w hw]
  · rw [hnone]
    rfl

/-- A write that leaves its class buffer reaches its ring, and is acknowledged. -/
theorem released_write_lands {s : State} {port open_ : Nat} {w : HeldWrite} {q : QPair} (hq : mget s.qps w.qp = some q)
    (hb : w.data ≠ []) (hr : faRegion w.addr = 4) (hk : bitsOf w.addr 47 46 ≠ 2) (hn : s.refusal w.qp w.addr w.data.length true = none) :
    ((s.releaseWrites port open_).hostWrite w.qp w.addr w.data).answerHost w.qp =
      { s.releaseWrites port open_ with mem := Memory.writeN s.mem w.addr w.data, resp := .done }.emit (16 + q.port) 7 (.ack w.qp false) :=
  answerHost_done (s := s) hq
    (hostWrite_slots (s := s.releaseWrites port open_) hb ((refusal_eth s _ _ _ _ _).trans hn) hr hk) rfl rfl

/-- A window that is open for the one write that waits makes that write. -/
theorem ingressWindow_makes {s : State} {port classes : Nat} {w : HeldWrite} {q : QPair} (hone : (s.ep port).inQ = [w])
    (hopen : bit (classes &&& s.openClasses (16 + port) 1) w.cls = true) (hq : mget s.qps w.qp = some q) (hm : Memory.wf s.mem = true)
    (hb : w.data ≠ []) (hr : faRegion w.addr = 4) (hk : bitsOf w.addr 47 46 ≠ 2) (hn : s.refusal w.qp w.addr w.data.length true = none) :
    ∃ t x, exec (.ingressWindow port classes) s = .next t ∧ (t.ep port).inQ = [] ∧ Memory.readN t.mem w.addr w.data.length = w.data ∧
      (∀ a, a < w.addr ∨ w.addr + w.data.length ≤ a → Memory.read t.mem a = Memory.read s.mem a) ∧
      t.tx = s.tx ++ [x] ∧ x.msg = .ack w.qp false := by
  have hwrite := released_write_lands (port := port) (open_ := classes &&& s.openClasses (16 + port) 1) hq hb hr hk hn
  have hrun := ingressWindow_runs s port classes
  have hmine : ([w].filter fun w => bit (classes &&& s.openClasses (16 + port) 1) w.cls) = [w] := by simp [hopen]
  rw [hone, hmine, List.foldl_cons, List.foldl_nil, hwrite] at hrun
  refine ⟨_, _, hrun, ?_, Memory.readN_writeN hm, fun a ha => Memory.read_writeN_out hm ha, rfl, rfl⟩
  rw [sendXon_inQ]
  exact (releaseWrites_inQ s port _).trans (by simp [hone, hopen])

/-- Settles O40, access by access. -/
theorem hostAccessesComplete : Obligations.HostAccessesComplete := by
  refine ⟨fun s qp q addr b how w hq hg hb hr => ⟨fun hn hk => ?_, fun hn hk r hring => ?_, fun e he => ?_⟩,
    fun s qp q addr b how hq => ⟨fun hg hb hr hn => ?_, fun hg hroom => ?_⟩,
    fun s qp q addr n tagOk hq hn0 => ⟨fun ho hr hk hn => ?_, fun ho e he => ?_, fun ho => ?_⟩,
    fun s qp off b hq => ⟨fun hok => ?_, fun hbad => ?_⟩,
    fun s port classes => ⟨fun h => ?_, fun w q hone hopen hq hm hb _ hr hk hn => ?_⟩⟩
  · exact hostRdmaWrite_slots w hq hg hb hr hn hk
  · exact hostRdmaWrite_doorbell hq hg hb hr hn hk hring
  · rw [hostRdmaWrite_ungated hq hg, answerHost_refused hq.1 (hostWrite_refused hb (by omega) he)]
  · rw [hostRdmaWrite_ungated hq hg, answerHost_done hq.1 (hostWrite_staging hb hn hr) rfl rfl]
  · exact ⟨_, hostRdmaWrite_gated hq hg, holdWrite_with_room hroom⟩
  · exact hostRdmaRead_slots hq hn0 ho hr hk hn
  · exact hostRdmaRead_refused hq hn0 ho he
  · exact hostRdmaRead_full hq ho
  · simp [exec, execEventConsumedWrite, hq, State.consumedWrite, hok]
  · simp [exec, execEventConsumedWrite, hq, State.consumedWrite, hbad, State.refuseAccess]
  · exact ingressWindow_closed h
  · exact ingressWindow_makes hone hopen hq hm hb hr hk hn

end Sys2Proof.Machine
end

section
/-! The transfers of the movers (R22, R290, R291, R293, R294). -/

namespace Sys2Proof.Machine
set_option Elab.async false

/-- The line that a transfer reads back: the one of the last byte written, or the target's where nothing is (R294). -/
def lastLine (e : Nat) (out : List (Nat × Bytes)) : Nat :=
  ((out.getLast?).map fun p => (p.1 + p.2.length - 1) / 64 * 64).getD (xDst e)

/-- The parts of a transfer written in their order. -/
def State.moveWrites (s : State) (out : List (Nat × Bytes)) : State :=
  out.foldl (fun (s : State) p => s.writeField p.1 p.2) { s with freeCtr := s.freeCtr + 1 }

/-- A transfer that stands is counted and completes. -/
def State.moveFine (s : State) (e idx : Nat) (out : List (Nat × Bytes)) (deps : List Nat) : State :=
  (s.bump 0x6030 1 1).moverDone e idx 0 (lastLine e out) (xLen e) deps

/-- A transfer that has read its source: its channel and its buffer noted, its reads counted. -/
def State.moveReads (s : State) (e idx : Nat) : State :=
  (readRanges e).foldl (fun (s : State) r => s.countReads r.1 r.2)
    (s.noteMove e idx ((readRanges e).flatMap fun r => (s.readField r.1 r.2).1))

/-- Without CPL_WANT there is no completion (R294). -/
theorem moverDone_unwanted {e : Nat} (h : bitsOf e 188 188 = 0) (v : State) (res idx l n : Nat) (deps : List Nat) :
    v.moverDone e idx res l n deps = v := by
  rw [State.moverDone, if_pos h]

/-! ### Ends of a transfer (R26, R293, R294) -/

section
variable (u : State) (e idx : Nat) (out : List (Nat × Bytes)) (deps : List Nat)

theorem moverEnd_ok : u.moverEnd e idx out .ok deps = (u.moveWrites out).moveFine e idx out deps := rfl

theorem moverEnd_flushed : u.moverEnd e idx out .flushed deps = u.moverDone e idx 4 0 0 deps := rfl

variable {e}

/-- Without CPL_WANT nothing is read back, so no mismatch is seen. -/
theorem moverEnd_mismatchOnce_unwanted (h : bitsOf e 188 188 = 0) :
    u.moverEnd e idx out .mismatchOnce deps = (u.moveWrites out).moveFine e idx out deps := by
  simp only [State.moverEnd, h, if_true]
  rfl

theorem moverEnd_mismatchTwice_unwanted (h : bitsOf e 188 188 = 0) :
    u.moverEnd e idx out .mismatchTwice deps = (u.moveWrites out).moveFine e idx out deps := by
  simp only [State.moverEnd, h, if_true]
  rfl

variable {u}

/-- A mismatch writes again in the free spill slot. -/
theorem moverEnd_mismatchOnce (h : bitsOf e 188 188 = 1) (hs : u.spillUsed (xPlot e) = false) :
    u.moverEnd e idx out .mismatchOnce deps =
      (((((u.useSpill (xPlot e)).moveWrites out).bump 0x6030 2 1).raise 0x6030 (locPlot (xPlot e)) 0).moveFine e idx out deps) := by
  have hw : ¬ bitsOf e 188 188 = 0 := by omega
  simp only [State.moverEnd, hw, hs, if_false, Bool.false_eq_true]
  rfl

/-- An overrun ends in the free spill slot. -/
theorem moverEnd_overran (hs : u.spillUsed (xPlot e) = false) : u.moverEnd e idx out .overran deps =
    ((((u.useSpill (xPlot e)).moveWrites out).raise 0xC003 (locPlot (xPlot e)) 0).moveFine e idx out deps) := by
  simp only [State.moverEnd, hs, if_false, Bool.false_eq_true]
  rfl

/-- What an uncorrected source word leaves, and whether the transfer stands. -/
def State.moveSource (u : State) (e off : Nat) (deps : List Nat) : State × Bool :=
  ((u.bump 0x6030 3 1).raise 0x6031 (locPlot (xPlot e)) 0).sourceFault e off deps

theorem moverEnd_source_stands {off : Nat} (h : (u.moveSource e off deps).2 = true) : u.moverEnd e idx out (.sourceUe off) deps =
    ((u.moveSource e off deps).1.moveWrites out).moveFine e idx out deps := by
  unfold State.moveSource at h ⊢
  simp only [State.moverEnd, h, if_true]
  rfl

theorem moverEnd_source_fails {off : Nat} (h : (u.moveSource e off deps).2 = false) : u.moverEnd e idx out (.sourceUe off) deps =
    (u.moveSource e off deps).1.moverDone e idx 2 0 0 deps := by
  unfold State.moveSource at h ⊢
  simp only [State.moverEnd, h, if_false, Bool.false_eq_true]

end

/-! ### A transfer (R22, R291) -/

section
variable {s : State} {idx e mode : Nat} {deps : List Nat} (he : s.transferAt idx mode = some e)
include he

theorem transfer_refused {x : Nat × Nat} (fin : MoveEnd) (h : s.moverRefusal e (moverOut e mode fun a n => (s.readField a n).1) = some x) :
    s.transfer idx mode fin deps = (s.raise x.1 (locPlot (xPlot e)) x.2).loseAll deps := by
  simp only [State.transfer, he, h]

variable (hr : s.moverRefusal e (moverOut e mode fun a n => (s.readField a n).1) = none)
include hr

/-- A flushed transfer, and one into a queue that is being flushed, moves nothing. -/
theorem transfer_flushed {fin : MoveEnd} (h : fin = .flushed ∨ s.flushTarget e = true) :
    s.transfer idx mode fin deps = s.moverDone e idx 4 0 0 deps := by
  simp only [State.transfer, he, hr, h, if_true]
  exact moverEnd_flushed ..

/-- Any other reads its source, and ends as its command says. -/
theorem transfer_reads {fin : MoveEnd} (hf : fin ≠ .flushed) (h : s.flushTarget e = false) : s.transfer idx mode fin deps =
    (s.moveReads e idx).moverEnd e idx (moverOut e mode fun a n => (s.readField a n).1) fin deps := by
  have hno : ¬ (fin = .flushed ∨ s.flushTarget e = true) := by simp [hf, h]
  simp only [State.transfer, he, hr, hno, if_false]
  rfl

end

/-- The five commands are one transfer, in their modes. -/
theorem exec_transfer {s : State} {idx mode : Nat} {deps : List Nat} {c : MoveEnd → Instr}
    (hc : (mode = 0 ∧ c = fun x => .copy idx x deps) ∨ (mode = 1 ∧ c = fun x => .transpose idx x deps) ∨
      (mode = 2 ∧ c = fun x => .untranspose idx x deps) ∨ (mode = 3 ∧ c = fun x => .gather idx x deps) ∨
      (mode = 4 ∧ c = fun x => .scatter idx x deps)) (fin : MoveEnd) : exec (c fin) s = .next (s.transfer idx mode fin deps) := by
  obtain ⟨rfl, rfl⟩ | ⟨rfl, rfl⟩ | ⟨rfl, rfl⟩ | ⟨rfl, rfl⟩ | ⟨rfl, rfl⟩ := hc
  · rw [exec, execCopy]
  · rw [exec, execTranspose]
  · rw [exec, execUntranspose]
  · rw [exec, execGather]
  · rw [exec, execScatter]

/-- Settles O53: the access first, then the flush, then the way the transfer ends. -/
theorem transfersMoveTheirBytes : Obligations.TransfersMoveTheirBytes := by
  intro s idx e mode deps he c hc out loc last u write fine
  refine ⟨fun h v res l n => moverDone_unwanted h v res idx l n deps, fun hr hf => ?_, fun hr => ?_, fun hr hf fin => ?_,
    fun x fin hr => ?_⟩
  · have runs {fin : MoveEnd} {v : State} (hv : (s.moveReads e idx).moverEnd e idx out fin deps = v) (hfin : fin ≠ .flushed) :
        exec (c fin) s = .next v := by
      rw [exec_transfer hc, transfer_reads he hr hfin hf, hv]
    exact ⟨runs (moverEnd_ok ..) nofun,
      fun h => ⟨runs (moverEnd_mismatchOnce_unwanted _ idx out deps h) nofun, runs (moverEnd_mismatchTwice_unwanted _ idx out deps h) nofun⟩,
      fun h hs => runs (moverEnd_mismatchOnce idx out deps h hs) nofun,
      fun hs => runs (moverEnd_overran idx out deps hs) nofun,
      fun off => ⟨fun hy => runs (moverEnd_source_stands idx out deps hy) nofun,
        fun hy => runs (moverEnd_source_fails idx out deps hy) nofun⟩⟩
  · rw [exec_transfer hc, transfer_flushed he hr (Or.inl rfl)]
  · rw [exec_transfer hc, transfer_flushed he hr (Or.inr hf)]
  · rw [exec_transfer hc, transfer_refused he fin hr]

end Sys2Proof.Machine
end

section
/-! The Step Number (R36): it is zeroed by a loss of power, raised by a boundary, and nothing else touches it; at its highest value the
node holds. -/

namespace Sys2Proof.Machine
set_option Elab.async false

/-! ### What every operation keeps -/

/-- Fair changes of parts leave the Step Number or set it to 0. -/
theorem Stables.number (n m : Nat) : Stables (fun v => v.step.number = n ∨ v.step.number = 0) m where
  part p _ u v hf hv := by
    cases p
    case stepNumber => exact Or.inr hf
    all_goals exact hv
  down _ _ _ := Or.inr rfl
  mem _ _ _ _ _ hv := hv

/-- Operations that do not touch the hold leave a node held, but for a loss of power. -/
theorem Stables.holds {m : Nat} (hm : m.testBit 2 = false) : Stables (fun v => v.step.held = true ∨ v.step.number = 0) m where
  part p hp u v hf hv := by
    cases p
    case stepNumber => exact Or.inr hf
    case stepHeld => exact absurd (hp.symm.trans hm) (by decide)
    all_goals exact hv
  down _ _ _ := Or.inr rfl
  mem _ _ _ _ _ hv := hv

/-- No command but STEP_BOUNDARY changes the Step Number, but to 0. -/
theorem exec_number {c : Instr} {s t : State} (hc : c ≠ .stepBoundary) (e : exec c s = .next t) :
    t.step.number = s.step.number ∨ t.step.number = 0 := by
  obtain ⟨m, -, hi⟩ := keepsToFootprint c hc s
  exact (hi _ (Stables.number s.step.number m) (Or.inl rfl)).holds t e

/-! ### The hold -/

theorem gateLoss_held {s : State} (h : s.step.held = true) (g : Nat) : (s.gateLoss g).step.held = true := by
  by_cases hg : g < 4 ∧ bit s.node.gates g = true
  · rw [(gateLoss_lost hg.1 hg.2).held, h, Bool.true_or]
  · have hno : 4 ≤ g ∨ ¬ bit s.node.gates g = true := (not_and_or.mp hg).imp Nat.le_of_not_lt id
    rwa [State.gateLoss, if_pos hno]

/-- What is left of G0's die still holds where the node held. -/
theorem State.G0Stopped.held_of_held {s u : State} (hu : s.G0Stopped u) (h : s.step.held = true) : u.step.held = true := by
  by_cases hs : s.step.sequencer = 0
  · cases hg : (s.grant 1 && bit s.node.gates 2) with
    | true => exact (hu.standby hs hg).2.1.trans h
    | false => exact hu.holds hs hg
  · exact (hu.elsewhere hs).1.trans h

theorem g0Loss_held {s : State} (h : s.step.held = true) : s.g0Loss.step.held = true := by
  by_cases hl : s.node.g0Lost = false ∧ s.pwr.boot = .running
  · obtain ⟨u, hu, hstop⟩ := g0Loss_stopped hl.1 hl.2
    rw [hu]
    exact gateLoss_held (hstop.held_of_held h) 0
  · have hno : s.node.g0Lost = true ∨ s.pwr.boot ≠ .running := by
      cases hg : s.node.g0Lost
      · exact Or.inr fun hr => hl ⟨hg, hr⟩
      · exact Or.inl rfl
    rwa [State.g0Loss, if_pos hno]

/-- The commands whose footprint names the hold: the boundary, what ends a step or the power, and what makes the node hold. -/
def mayHold : Instr → Bool
  | .stepBoundary | .stepClose .. | .stepNumberLimit | .g0Loss | .gateDieLoss .. | .powerOn .. | .inputLoss .. | .clockFault
  | .resetPulse .. | .thermalTrip => true
  | _ => false

theorem stepHeld_notMem_footprint {c : Instr} (h : mayHold c = false) : .stepHeld ∉ footprint c := by
  have hc : (footprint c).contains .stepHeld = mayHold c := by cases c <;> rfl
  rw [h] at hc
  simpa using hc

theorem stepNumberLimit_held {s : State} (h : s.step.held = true) :
    Ends (fun v => v.step.held = true ∨ v.step.number = 0) (exec .stepNumberLimit s) :=
  Ends.ite (Ends.next (Or.inl h)) (Ends.next (Or.inl rfl))

/-- A node that holds goes on holding under every command but a boundary, or its Step Number is 0. -/
theorem exec_held {c : Instr} {s t : State} (hc : c ≠ .stepBoundary) (h : s.step.held = true) (e : exec c s = .next t) :
    t.step.held = true ∨ t.step.number = 0 := by
  suffices Ends (fun v => v.step.held = true ∨ v.step.number = 0) (exec c s) from this.holds t e
  cases hm : mayHold c with
  | false =>
    obtain ⟨m, hcov, hi⟩ := keepsToFootprint c hc s
    have ho := Part.outside_of hcov (stepHeld_notMem_footprint hm)
    simp only [Part.outside, Part.isMem, Part.idx, Bool.false_eq_true, if_false, Bool.and_eq_true, Bool.not_eq_true'] at ho
    exact hi _ (Stables.holds ho.1) (Or.inl h)
  | true =>
    cases c
    case stepBoundary => exact absurd rfl hc
    case stepNumberLimit => exact stepNumberLimit_held h
    case g0Loss => exact Ends.next (Or.inl (g0Loss_held h))
    case gateDieLoss g =>
      refine Ends.next (Or.inl ?_)
      split
      · exact g0Loss_held h
      · exact gateLoss_held h g
    case stepClose x => exact Inv.execStepClose (Stables.holds rfl) (Or.inl h) x
    case powerOn r => exact Inv.execPowerOn (Stables.holds rfl) (Or.inl h) r
    case inputLoss x => exact Inv.execInputLoss (Stables.holds rfl) (Or.inl h) x
    case clockFault => exact Inv.execClockFault (Stables.holds rfl) (Or.inl h)
    case resetPulse us => exact Inv.execResetPulse (Stables.holds rfl) (Or.inl h) us
    case thermalTrip => exact Inv.execThermalTrip (Stables.holds rfl) (Or.inl h)
    all_goals cases hm

/-! ### The boundary (R25, R36) -/

/-- The close of a step without its sensors leaves the Step Number. -/
theorem closeNone_number (s : State) : (s.closeStep none).step.number = s.step.number :=
  Inv.closeNone (Stables.same (f := .stepNumber) s rfl rfl (Or.inr rfl)) (Part.same_refl .stepNumber s)

/-- A boundary raises the Step Number by one. -/
theorem openStep_number (s : State) : s.openStep.step.number = s.step.number + 1 :=
  let raised : State := { s with step := { s.step with number := s.step.number + 1 } }
  Inv.openStep (Stables.same (f := .stepNumber) raised rfl rfl (Or.inr rfl)) (Part.same_refl .stepNumber raised)

/-- At the highest Step Number the node holds there, with nothing to do. -/
theorem openStep_at_limit {s : State} (h : maxStep ≤ s.step.number + 1) :
    s.openStep.step.held = true ∧ s.openStep.step.agenda = [] := by
  unfold State.openStep
  dsimp only
  rw [if_pos h]
  exact ⟨rfl, rfl⟩

theorem stepBoundary_idle {s : State} (h : s.pwr.boot ≠ .running ∨ s.step.held = true) : exec .stepBoundary s = .next s :=
  if_pos h

theorem stepBoundary_opens {s : State} (hr : s.pwr.boot = .running) (hh : s.step.held = false) :
    exec .stepBoundary s = .next (if s.step.open_ then s.closeStep none else s).openStep :=
  if_neg (by simp [hr, hh])

theorem boundary_number (s : State) : (if s.step.open_ then s.closeStep none else s).openStep.step.number = s.step.number + 1 := by
  rw [openStep_number]
  split
  · rw [closeNone_number]
  · rfl

/-- A boundary changes nothing, or raises the Step Number by one, where the node does not hold. -/
theorem stepBoundary_cases {s t : State} (e : exec .stepBoundary s = .next t) :
    t = s ∨ s.step.held = false ∧ t.step.number = s.step.number + 1 ∧ (maxStep ≤ t.step.number → t.step.held = true) := by
  by_cases h : s.pwr.boot = .running ∧ s.step.held = false
  · obtain ⟨hr, hh⟩ := h
    rw [stepBoundary_opens hr hh] at e
    cases e
    refine Or.inr ⟨hh, boundary_number s, fun hn => (openStep_at_limit ?_).1⟩
    rwa [openStep_number] at hn
  · have hidle : s.pwr.boot ≠ .running ∨ s.step.held = true :=
      (not_and_or.mp h).imp_right (by simp)
    rw [stepBoundary_idle hidle] at e
    cases e
    exact Or.inl rfl

/-- A command keeps the Step Number in its range, and a node that has reached its highest value holds. -/
theorem exec_stepOk {c : Instr} {s t : State} (h : s.stepOk) (e : exec c s = .next t) : t.stepOk := by
  obtain ⟨hle, hheld⟩ := h
  by_cases hc : c = .stepBoundary
  · subst hc
    obtain rfl | ⟨hh, hn, hat⟩ := stepBoundary_cases e
    · exact ⟨hle, hheld⟩
    · have hne : s.step.number ≠ maxStep := fun hm => by rw [hheld hm] at hh; cases hh
      exact ⟨by omega, fun hm => hat (by omega)⟩
  · have zero (h0 : t.step.number = 0) : t.stepOk :=
      ⟨by rw [h0]; exact Nat.zero_le _, fun hm => absurd (h0.symm.trans hm) (by decide)⟩
    rcases exec_number hc e with hn | h0
    · by_cases hm : s.step.number = maxStep
      · rcases exec_held hc (hheld hm) e with hh | h0
        · exact ⟨hn ▸ hle, fun _ => hh⟩
        · exact zero h0
      · exact ⟨hn ▸ hle, fun ht => absurd (hn.symm.trans ht) hm⟩
    · exact zero h0

/-- Settles O4: a step idles or runs one command, each keeps the invariant, and only the boundary raises the number. -/
theorem stepNumberStaysInRange : Obligations.StepNumberStaysInRange := by
  refine ⟨fun s t h e => ?_, fun c s t e => ?_⟩
  · unfold step at e
    split at e
    case h_1 => cases e; exact h
    case h_2 c rest _ => exact exec_stepOk (c := c) (s := { s with pending := rest }) h e
  · by_cases hc : c = .stepBoundary
    · subst hc
      obtain rfl | ⟨hh, hn, -⟩ := stepBoundary_cases e
      · exact Or.inl rfl
      · exact Or.inr (Or.inr ⟨rfl, hn, hh⟩)
    · exact (exec_number hc e).imp_right Or.inl

/-- Settles O2: the state after reset, field by field. -/
theorem resetLeavesNothingInService : Obligations.ResetLeavesNothingInService :=
  ⟨⟨rfl, Nat.zero_le _, fun h => absurd h (by decide)⟩, rfl, rfl, rfl, rfl, rfl, rfl, rfl, rfl, fun _ => rfl⟩

end Sys2Proof.Machine
end

section
/-! The two ends of a step (R23, R24, R25): the boundary that opens it, and the close phase. -/

namespace Sys2Proof.Machine
set_option Elab.async false

/-! ### The boundary -/

/-- The step that a boundary opens, before anything runs in it: the next number, no spill slot and no slice's room taken. -/
def State.opened (s : State) : State :=
  let ctl := fun (e : Nat × HPort) => (e.1, { e.2 with ctl := [] })
  let pfc := fun (e : Nat × EPort) => (e.1, { e.2 with pfcSent := [] })
  let calm := fun (q : Promo) => { q with hit := false }
  let rest := fun (m : Nat × Mover) => (m.1, { m.2 with chans := [] })
  ({ s with step := { s.step with number := s.step.number + 1, open_ := true, spill := 0, agenda := [], used := [],
                                  movers := s.step.movers.map rest },
            tier := { s.tier with wrote := [], copied := [], promos := if s.grant 0x0A then s.tier.promos.map calm else [] },
            sent := [], hedge := s.hedge.map ctl, eth := s.eth.map pfc, dict := { s.dict with sent := [] } }).setN 0xC010 2 (s.step.number + 1)

/-- The work of an opened step up to the first item that falls to a command of its own. -/
def State.boundaryWork (s : State) : State :=
  let s4 := (((s.landed.flashBoundary).pruneFaults.trimLater).tierBoundary).applyDue.outNow
  let s5 := ((s4.shards.map (·.1)).foldl (fun (s : State) i => (s.restartSeal i).sendOwed i) s4).settleMirror.publish
  let s6 := { s5 with step := { s5.step with agenda := s5.buildAgenda } }
  s6.drain false s6.agendaFuel

theorem openStep_eq (s : State) : s.openStep =
    if maxStep ≤ s.step.number + 1 then { s.opened with step := { s.opened.step with held := true } } else s.opened.boundaryWork := by
  unfold State.openStep State.boundaryWork State.opened
  with_reducible rfl

/-- The work of a boundary touches neither the number, the hold, the sequencer, the spill slots, nor that the step is open. -/
theorem Inv.boundaryWork {P : State → Prop} (hk : Stables P 13386551218236622616272) {t : State} (h : P t) : P t.boundaryWork := by
  have kLanded : Stables P 9444807134395687313408 := hk.sub rfl
  have kFlash : Stables P 13194139533312 := hk.sub rfl
  have kFaults : Stables P 8192 := hk.sub rfl
  have kTrim : Stables P 73787002683117273088 := hk.sub rfl
  have kTier : Stables P 16 := hk.sub rfl
  have kDue : Stables P 38167347235758080 := hk.sub rfl
  have kOut : Stables P 1183339943899728781312 := hk.sub rfl
  have kSeal : Stables P 1099545255936 := hk.sub rfl
  have kOwed : Stables P 288231475696967680 := hk.sub rfl
  have kMirror : Stables P 4294967296 := hk.sub rfl
  have kPublish : Stables P 8585216 := hk.sub rfl
  have kDrain : Stables P 3941818248099285677776 := hk.sub rfl
  unfold State.boundaryWork
  extract_lets s4 s5 s6
  have h4 : P s4 := Inv.outNow kOut (Inv.applyDue kDue (Inv.tierBoundary kTier (Inv.trimLater kTrim
    (Inv.pruneFaults kFaults (Inv.flashBoundary kFlash (Inv.landed kLanded h))))))
  clear_value s4
  have h5 : P s5 := Inv.publish kPublish (Inv.settleMirror kMirror
    (Inv.foldl (fun v _ hv => Inv.sendOwed kOwed (Inv.restartSeal kSeal hv _) _) h4))
  clear_value s5
  exact Inv.drain kDrain (Inv.lit hk h5 (e7 := Or.inr (by decide))) _ _

theorem boundaryWork_same {f : Part} (t : State) (hm : f.isMem = false) (h : (13386551218236622616272 : Nat).testBit f.idx = false) :
    f.same t t.boundaryWork :=
  Inv.boundaryWork (Stables.same t hm h (Or.inr rfl)) (Part.same_refl f t)

/-- An opened step has its first figures, under the sequencer and with the commands that there were. -/
theorem openStep_opens (s : State) : s.openStep.step.open_ = true ∧ s.openStep.step.spill = 0 ∧ s.openStep.step.used = [] ∧
    s.openStep.step.sequencer = s.step.sequencer ∧ s.openStep.pending = s.pending := by
  rw [openStep_eq]
  split
  · exact ⟨rfl, rfl, rfl, rfl, rfl⟩
  · have hopen := boundaryWork_same (f := .stepOpen) s.opened rfl rfl
    have hspill := boundaryWork_same (f := .stepSpill) s.opened rfl rfl
    simp only [Part.same, Prod.mk.injEq] at hopen hspill
    exact ⟨hopen.2, hspill.1, hspill.2.1, boundaryWork_same (f := .stepSequencer) s.opened rfl rfl,
      boundaryWork_same (f := .pending) s.opened rfl rfl⟩

/-- Below the highest Step Number a boundary leaves the hold. -/
theorem openStep_held {s : State} (h : s.step.number + 1 < maxStep) : s.openStep.step.held = s.step.held := by
  rw [openStep_eq, if_neg (by omega)]
  have hheld := boundaryWork_same (f := .stepHeld) s.opened rfl rfl
  simp only [Part.same, Prod.mk.injEq] at hheld
  exact hheld.1

/-- The close of a step without its sensors leaves the parts that no late work of a step touches. -/
theorem closeNone_same {f : Part} (s : State) (hm : f.isMem = false) (h : (3978714023230915475440 : Nat).testBit f.idx = false) :
    f.same s (s.closeStep none) :=
  Inv.closeNone (Stables.same s hm h (Or.inr rfl)) (Part.same_refl f s)

/-- The state that a boundary opens the next step on. -/
def State.closed (s : State) : State := if s.step.open_ then s.closeStep none else s

theorem closed_keeps (s : State) : s.closed.step.number = s.step.number ∧ s.closed.step.held = s.step.held ∧
    s.closed.step.sequencer = s.step.sequencer ∧ s.closed.pending = s.pending := by
  unfold State.closed
  split
  · have hheld := closeNone_same (f := .stepHeld) s rfl rfl
    simp only [Part.same, Prod.mk.injEq] at hheld
    exact ⟨closeNone_number s, hheld.1, closeNone_same (f := .stepSequencer) s rfl rfl, closeNone_same (f := .pending) s rfl rfl⟩
  · exact ⟨rfl, rfl, rfl, rfl⟩

theorem stepNumberLimit_reports {s : State} (hn : maxStep ≤ s.step.number) (hl : s.step.limit = false) : exec .stepNumberLimit s =
    .next ({ s with step := { s.step with held := true, limit := true } }.raise 0xC009 locField s.step.number) :=
  if_neg (by rw [hl, not_or]; exact ⟨Nat.not_lt.mpr hn, Bool.false_ne_true⟩)

/-- Settles O32: what a boundary opens, on the state that closing the open step leaves. -/
theorem boundariesCountSteps : Obligations.BoundariesCountSteps := by
  intro s
  refine ⟨fun hr hh => ?_, stepBoundary_idle, stepNumberLimit_reports, fun h => if_pos h⟩
  obtain ⟨hnum, hheld, hseq, hpend⟩ := closed_keeps s
  obtain ⟨hopen, hspill, hused, hseq', hpend'⟩ := openStep_opens s.closed
  refine ⟨s.closed.openStep, stepBoundary_opens hr hh, rfl, ?_, hopen, hspill, hused, hseq'.trans hseq, hpend'.trans hpend,
    fun hlt => ?_, fun hge => openStep_at_limit (by rwa [hnum])⟩
  · rw [openStep_number, hnum]
  · rw [openStep_held (by rwa [hnum]), hheld, hh]

/-! ### The close phase (R24) -/

/-- The power controller's tick takes the node's power away, or keeps to the parts of the clock, of the power and of events. -/
theorem powerTick_cases (s : State) (x : Sensors) : (s.powerTick x).pwr.boot ≠ .running ∨
    ∀ P : State → Prop, Stables P 73786976294938943504 → P s → P (s.powerTick x) := by
  have off (code detail : Nat) : (s.lossOfInput code detail cleanLoss .off).pwr.boot ≠ .running := by
    unfold State.lossOfInput
    split
    case isTrue h => rw [h]; decide
    case isFalse => exact nofun
  unfold State.powerTick
  extract_lets pin mean level cap cool calm pwr s1 s2 s3 s4
  split
  · exact Or.inl (off _ _)
  split
  · exact Or.inl (off _ _)
  refine Or.inr fun P hk h => ?_
  have kFigures : Stables P 65536 := hk.sub rfl
  have kClamp : Stables P 73786976294871834624 := hk.sub rfl
  have kTier : Stables P 73786976294871834640 := hk.sub rfl
  have kRun : Stables P 100737024 := hk.sub rfl
  have kVin : Stables P 100737040 := hk.sub rfl
  have h1 : P s1 := Inv.powerFigures kFigures (Inv.lit hk h) x mean level
  have h2 : P s2 := Inv.ite (Inv.setClamp kClamp h1) (Inv.ite (Inv.releaseClamp kTier h1) h1)
  have h3 : P s3 := Inv.ite (Inv.raiseRun kRun h2 ..) h2
  have h4 : P s4 := Inv.ite (Inv.vinMarginal kVin h3) h3
  exact Inv.ite h2 (Inv.ite h4 (Inv.ite (Inv.demandLower kTier h4) (Inv.ite (Inv.demandHigher kTier h4) h4)))

@[simp] theorem sendNotice_produced (s : State) (recs : List EvRec) : (s.sendNotice recs).ev.produced = s.ev.produced := by
  unfold State.sendNotice
  dsimp only
  split
  · rfl
  · split <;> simp

@[simp] theorem sendNotice_records (s : State) (recs : List EvRec) : (s.sendNotice recs).ev.records = s.ev.records := by
  unfold State.sendNotice
  dsimp only
  split
  · rfl
  · split <;> simp

/-- The event flush publishes every record that it put into the ring. -/
theorem flushEvents_publishes (s : State) : s.flushEvents.ev.produced = s.flushEvents.ev.records := by
  simp [State.flushEvents]

/-- The state after the counter latch and the power controller's tick of a close phase. -/
def State.latched (s : State) (x : Sensors) : State := ((s.lastWork.formRoots x.roots).latchQueues x.delays x.uncorrected).powerTick x

theorem closeStep_some (s : State) (x : Sensors) : s.closeStep (some x) =
    if (s.latched x).pwr.boot ≠ .running then s.latched x else (s.latched x).flushEvents.settleStep := rfl

/-- What precedes the tick leaves the Step Number, so it stands where the node still runs. -/
theorem latched_number {s : State} {x : Sensors} (hr : (s.latched x).pwr.boot = .running) : (s.latched x).step.number = s.step.number := by
  have hk (m : Nat) (h : m.testBit 1 = false ∧ m.testBit 69 = false) : Stables (fun v => v.step.number = s.step.number) m :=
    Stables.same (f := .stepNumber) s rfl h.1 (Or.inr h.2)
  have hpre := Inv.latchQueues (hk _ ⟨rfl, rfl⟩) (Inv.formRoots (hk _ ⟨rfl, rfl⟩) (Inv.lastWork (hk _ ⟨rfl, rfl⟩) rfl) x.roots) x.delays x.uncorrected
  rcases powerTick_cases ((s.lastWork.formRoots x.roots).latchQueues x.delays x.uncorrected) x with hoff | hkeep
  · exact absurd hr hoff
  · exact hkeep _ (hk _ ⟨rfl, rfl⟩) hpre

theorem settleStep_same {f : Part} (t : State) (hm : f.isMem = false) (h : (73931091482947690832 : Nat).testBit f.idx = false) :
    f.same t t.settleStep :=
  Inv.settleStep (Stables.same t hm h (Or.inr rfl)) (Part.same_refl f t)

theorem flushEvents_number (s : State) : s.flushEvents.step.number = s.step.number :=
  Inv.flushEvents (Stables.same (f := .stepNumber) s rfl rfl (Or.inr rfl)) (Part.same_refl .stepNumber s)

/-- A step that closes on a node that still runs keeps its number, and its flushed records are published. -/
theorem closeStep_running {s : State} {x : Sensors} (hr : (s.closeStep (some x)).pwr.boot = .running) :
    (s.closeStep (some x)).step.open_ = false ∧ (s.closeStep (some x)).step.number = s.step.number ∧
      (s.closeStep (some x)).ev.produced = (s.closeStep (some x)).ev.records := by
  rw [closeStep_some] at hr ⊢
  split at hr
  case isTrue h => exact absurd hr h
  case isFalse h =>
    rw [if_neg h]
    have hnum := settleStep_same (f := .stepNumber) (s.latched x).flushEvents rfl rfl
    have hring := settleStep_same (f := .evRing) (s.latched x).flushEvents rfl rfl
    simp only [Part.same, Prod.mk.injEq] at hnum hring
    obtain ⟨-, hrec, hprod, -⟩ := hring
    refine ⟨rfl, ?_, ?_⟩
    · rw [hnum, flushEvents_number, latched_number (not_not.mp h)]
    · rw [hrec, hprod, flushEvents_publishes]

/-- Settles O33: the parts that no close touches, and what a close leaves where the node still runs. -/
theorem stepsClose : Obligations.StepsClose := by
  refine fun s x => ⟨fun hr ho => ⟨s.closeStep (some x), if_neg (by simp [hr, ho]), rfl, ?_, ?_, closeStep_running⟩,
    fun h => if_pos (by simpa using h)⟩
  · exact Inv.closeStep (Stables.same (f := .pending) s rfl rfl (Or.inl rfl)) (Part.same_refl .pending s) _
  · exact Inv.closeStep (Stables.number s.step.number _) (Or.inl rfl) _

end Sys2Proof.Machine
end

section
/-! Changes of the tier (R33, R34, R376). -/

namespace Sys2Proof.Machine
set_option Elab.async false

/-! ### Demands of the power controller -/

theorem tierChangeRequest_running {s : State} (hr : s.pwr.boot = .running) (k : Nat) :
    exec (.tierChangeRequest k) s = .next (s.demandTier k) := congrArg _ (if_pos hr)

theorem tierStretch_running {s : State} {k : Nat} (hr : s.pwr.boot = .running) (hs : s.step.seedling = false) (hk : k ≤ 2) :
    exec (.tierStretch k) s = .next (s.demandStretch k) := congrArg _ (if_pos ⟨hr, by simp [hs], hk⟩)

/-- No tier changes while no step runs, in Seedling service, or to a tier that does not exist. -/
theorem tierCommands_idle {s : State} {k : Nat} (h : s.pwr.boot ≠ .running ∨ s.step.seedling = true ∨ 2 < k) :
    exec (.tierChangeRequest k) s = .next s ∧ exec (.tierStretch k) s = .next s := by
  refine ⟨congrArg Host.Outcome.next ?_, congrArg Host.Outcome.next (if_neg fun hg => ?_)⟩
  · split
    case isTrue hr => exact if_pos (h.resolve_left (not_not.mpr hr))
    case isFalse => rfl
  · obtain ⟨hr, hs, hk⟩ := hg
    rcases h with h | h | h
    · exact h hr
    · exact hs h
    · omega

section
variable {s : State} {k : Nat}

theorem demandStretch_stands (hd : s.step.demand = some k) : s.demandStretch k = s := if_pos hd

theorem demandStretch_no_hand (hd : s.step.demand ≠ some k) (ha : s.node.handAlive = false) :
    s.demandStretch k = { s with step := { s.step with demand := some k, noAdmit := true } } := by
  rw [State.demandStretch, if_neg hd, if_pos (by simp [ha])]

theorem demandStretch_granted (hd : s.step.demand ≠ some k) (ha : s.node.handAlive = true) (hg : s.grant 3 = true) :
    s.demandStretch k = ({ s with step := { s.step with demand := some k, noAdmit := false } }).useGrant 3 := by
  rw [State.demandStretch, if_neg hd, if_neg (by simp [ha]), if_pos hg]

theorem demandStretch_not_granted (hd : s.step.demand ≠ some k) (ha : s.node.handAlive = true) (hg : s.grant 3 = false) :
    s.demandStretch k = ({ s with step := { s.step with demand := some k, noAdmit := true } }).raise 0xC006 locField 0 := by
  rw [State.demandStretch, if_neg hd, if_neg (by simp [ha]), if_neg (by simp [hg])]

section
variable (hs : s.step.seedling = false) (hk : k ≤ 2)
include hs hk

/-- A demand for a tier that the active set does not hold falls under R34. -/
theorem demandTier_not_held (hh : s.holdsTier k = false) : s.demandTier k = s.demandStretch k := by
  rw [State.demandTier, if_neg (by simp [hs, hk]), if_pos (by simp [hh])]

variable (hh : s.holdsTier k = true)
include hh

/-- Of a tier that the active set holds: in force or asked for, gone back to, or foreseen (R33). -/
theorem demandTier_held : s.demandTier k =
    if s.step.demand = none ∧ s.step.wantTier.getD s.step.admTier = k ∧ s.step.stretch = false then s
    else if s.step.demand ≠ none ∧ s.step.stretch = false ∧ s.step.wantTier = none ∧ s.step.admTier = k then
      { s with step := { s.step with demand := none, noAdmit := false } }
    else ({ s with step := { s.step with wantTier := some k, demand := none, noAdmit := false } }).raise 0xC005 locField 0 := by
  rw [State.demandTier, if_neg (by simp [hs, hk]), if_neg (by simp [hh])]
  simp only [Option.isNone_iff_eq_none, Option.isSome_iff_ne_none, Bool.not_eq_true]

end

end

/-! ### The clock -/

theorem vcoreWindow_le (t : Nat) : (vcoreWindow t).1 ≤ (vcoreWindow t).2 := by
  match t with
  | 0 | 1 | 2 => decide
  | _ + 3 => exact (by decide : 5800 ≤ 7000)

/-- Every plot's voltage is in the window of the tier that the clock changes to. -/
theorem clockTo_vcore (s : State) (t : Nat) :
    ∀ e ∈ (s.clockTo t).pwr.vcore, (vcoreWindow t).1 ≤ e.2 ∧ e.2 ≤ (vcoreWindow t).2 := by
  intro e he
  simp only [State.clockTo, State.setN_pwr, List.mem_map] at he
  obtain ⟨v, -, rfl⟩ := he
  have := vcoreWindow_le t
  dsimp only
  omega

section
variable {s : State} {k : Nat} (hw : s.step.wantTier = some k)
include hw

theorem tierClockChange_waits (h : s.pwr.clamp = true ∨ s.tierReady k = false) : exec .tierClockChange s = .next s := by
  simp only [exec, execTierClockChange, State.foreseenClock, hw]
  exact congrArg _ (if_pos (by simpa using h))

theorem foreseenClock_ready (hc : s.pwr.clamp = false) (hr : s.tierReady k = true) :
    let u : State := { s with step := { s.step with wantTier := if s.step.admTier = k then none else some k, stretch := false, planTier := k } }
    s.foreseenClock = if s.step.tier = k then u else (u.clockTo k).raise 0xC005 locField 0 := by
  simp only [State.foreseenClock, hw]
  exact if_neg (by simp [hc, hr])

/-- A change that is ready moves the clock, every plot's voltage into the tier's window, and ends the stretch (R33, R376). -/
theorem tierClockChange_ready (hc : s.pwr.clamp = false) (hr : s.tierReady k = true) :
    ∃ t, exec .tierClockChange s = .next t ∧ t.step.tier = k ∧ t.step.planTier = k ∧ t.step.stretch = false ∧
      t.step.wantTier = (if s.step.admTier = k then none else some k) ∧
      (s.step.tier ≠ k → ∀ e ∈ t.pwr.vcore, (vcoreWindow k).1 ≤ e.2 ∧ e.2 ≤ (vcoreWindow k).2) := by
  refine ⟨s.foreseenClock, rfl, ?_⟩
  rw [foreseenClock_ready hw hc hr]
  by_cases ht : s.step.tier = k
  · rw [if_pos ht]
    exact ⟨ht, rfl, rfl, rfl, fun hne => absurd ht hne⟩
  · rw [if_neg ht]
    exact ⟨rfl, rfl, rfl, rfl, fun _ => clockTo_vcore _ k⟩

end

theorem tierClockChange_unwanted {s : State} (hw : s.step.wantTier = none) : exec .tierClockChange s = .next s := by
  simp only [exec, execTierClockChange, State.foreseenClock, hw]

/-- Settles O37: the demands case by case, then the clock. -/
theorem tierDemandsComplete : Obligations.TierDemandsComplete := by
  intro s k
  refine ⟨tierCommands_idle, fun hr hs hk => ?_, tierClockChange_unwanted, tierClockChange_waits, tierClockChange_ready⟩
  rw [tierChangeRequest_running hr, tierStretch_running hr hs hk]
  refine ⟨fun hh => ?_, fun hh ha => ?_, fun hh hb => ?_, fun hh ha hb => ?_, fun hd => ?_, fun hd ha => ?_, fun hd ha hg => ?_,
    fun hd ha hg => ?_⟩
  · rw [demandTier_not_held hs hk hh]
  · rw [demandTier_held hs hk hh, if_pos ha]
  · rw [demandTier_held hs hk hh, if_neg fun ha => hb.1 ha.1, if_pos hb]
  · rw [demandTier_held hs hk hh, if_neg ha, if_neg hb]
  · rw [demandStretch_stands hd]
  · rw [demandStretch_no_hand hd ha]
  · rw [demandStretch_granted hd ha hg]
  · rw [demandStretch_not_granted hd ha hg]

end Sys2Proof.Machine
end

section
/-! MERGE and WIDENED_PASS (R46, R92, R101, R102, R104, R162). -/

namespace Sys2Proof.Machine
set_option Elab.async false

/-! ### The merge of the shard lists -/

theorem mget_mmod_same {α : Type} (m : List (Nat × α)) (x : Nat) (f : α → α) : mget (mmod m x f) x = (mget m x).map f := by
  rw [mget_mmod, if_pos rfl]

/-- The place of a shard's entry in a request, and the node that serves it. -/
def Work.posOf (w : Work) (id : Nat) : Nat := w.shards.findIdx fun x => x.id == id
def Work.nodeOf (w : Work) (id : Nat) : Nat := ((w.shards.find? fun x => x.id == id).map (·.src.node)).getD 0

/-- What MERGE selects from: every list, with one record per EXTERNAL_ID (R101). -/
def Work.mergeAll (w : Work) : List Cand := w.shards.flatMap (·.result)
def Work.mergeUniq (w : Work) : List Cand := removeDups w.posOf w.nodeOf w.mergeAll
def Work.mergeKey (w : Work) (c : Cand) : Nat := orderKey (exactPrimary c.exact) (w.posOf c.shard) c.handle

/-- One pass of the selection, and whether it ends it. -/
def Work.mergePass (w : Work) : List Nat × Bool := selectPass (w.mergeUniq.map w.mergeKey) w.sel w.k

section
variable {s : State} {tag : Nat} {f : FarCtx} {w : Work} (hr : s.atHome tag f w) (hp : f.phase = 9)
include hr hp

section
variable (hm : w.merged = false) (hall : ∀ x ∈ w.shards, x.stage = 5)
include hm hall

/-- MERGE of entries that have all concluded runs one pass and counts it; the pass that ends the selection concludes the request. -/
theorem merge_runs : exec (.merge tag .ok .ok) s = .next (
    if w.mergePass.2 = false then (s.bump 0x3012 1 1).modWork tag fun y => { y with sel := w.mergePass.1 }
    else
      let w1 := w.conclude (recordsOf w.mergeKey w.mergeUniq w.mergePass.1)
      let t := ((s.bump 0x3012 1 1).bump 0x3012 2 (w.mergeAll.length - w.mergeUniq.length)).modWork tag fun _ => w1
      if w1.short && pWiden w.params && !w.widen then t.raise 0x3013 (locPlot f.home) 0 else t) := by
  have hgo : ¬ (w.merged = true ∨ ¬ (w.shards.all fun x => x.stage == 5) = true) := by simpa [hm] using hall
  refine congrArg Host.Outcome.next ((State.during_home hr hp).trans ((if_neg hgo).trans ?_))
  simp only [State.checkIn_ok, not_true_eq_false, if_false, Bool.not_eq_true]
  rfl

end

/-- The entries and the merge of a request as its widened pass finds them (R92). -/
def State.widenWork (s : State) (w : Work) : Work :=
  { w with widened := true, short := false, merged := false, final := [], status := 0, condBits := 0, replay := [],
           shards := w.shards.map fun x => x.again (s.entryOf x) }

/-- A request that a widened pass has put back into EXECUTE. -/
def State.widenAgain (s : State) (tag c : Nat) : State :=
  (s.modWork tag s.widenWork).modFar c fun f => { f with phase := 4 }

/-- The state in which other nodes are asked again: the pass is counted, its grant used, EV 0x3012 raised. -/
def State.widenNoted (s : State) (tag c home : Nat) : State :=
  (((s.widenAgain tag c).bump 0x3011 5 1).useGrant 5).raise 0x3012 (locPlot home) 0

/-- The posted block, under which the shards of other nodes are asked again. -/
def Work.posted (w : Work) : SearchReq := ⟨w.params, w.query, w.shards.map fun x => (x.id, x.epoch, x.usn), w.shards.map (·.src)⟩

/-- WIDENED_PASS under a live Hand puts the request back and asks other nodes again. -/
theorem widenedPass_runs {c : Nat} (hf : s.farOf tag = some (c, f)) (hm : w.merged = true) (hw : w.wantsWiden = true)
    (ha : s.node.handAlive = true) :
    exec (.widenedPass tag) s = .next ((s.widenNoted tag c f.home).sendSubs f.client tag w.supplied w.posted) := by
  have hgo : ¬ (¬ w.merged = true ∨ ¬ w.wantsWiden = true) := by simp [hm, hw]
  rw [exec, execWidenedPass, State.during_home hr hp, if_neg hgo, hf]
  exact congrArg Host.Outcome.next (if_neg (by simp [ha]))

end

/-- Settles O16: the pass that MERGE runs, its end, and the widened pass. -/
theorem mergeAndWidenedPassComplete : Obligations.MergeAndWidenedPassComplete := by
  intro s tag c f w hr hf hp
  refine ⟨fun hm hall => ⟨fun hsel => ?_, fun hsel => ?_⟩, fun hm hw ha => ?_⟩
  · rw [merge_runs hr hp hm hall]
    exact congrArg _ (if_pos hsel)
  · refine ⟨_, (w.conclude (recordsOf w.mergeKey w.mergeUniq w.mergePass.1)).replay, rfl, ?_⟩
    rw [merge_runs hr hp hm hall]
    exact congrArg _ (if_neg (ne_false_of_eq_true hsel))
  · have hledger : (s.widenNoted tag c f.home).ledger = (s.widenAgain tag c).ledger := rfl
    refine ⟨_, s.widenWork w, widenedPass_runs hr hp hf hm hw ha, ?_, rfl, rfl, rfl, rfl, ?_⟩
    · rw [State.workOf, State.sendSubs_ledger, hledger]
      exact State.workOf_modWork s.widenWork hr.2.2.1
    · have hfars : (s.widenAgain tag c).ledger.fars = mmod s.ledger.fars c fun g => { g with phase := 4 } := rfl
      rw [State.sendSubs_ledger, hledger, hfars, mget_mmod_same]

end Sys2Proof.Machine
end

section
/-! INSERT, DELETE and REPLACE (R37, R135, R136). -/

namespace Sys2Proof.Machine
set_option Elab.async false

/-! ### Applying and logging an update -/

/-- Marking a page as written leaves the shards. -/
theorem touchAt_shards (s : State) (kind a b off : Nat) : (s.touchAt kind a b off).shards = s.shards :=
  Inv.touchAt (Stables.same (f := .shards) s rfl rfl (Or.inl rfl)) (Part.same_refl .shards s) kind a b off

/-- So does the growth of a delta, where it finds its pages and where it finds none. -/
theorem growDelta_shards (s : State) (slot seg n : Nat) (c : Codebook) : ((s.growDelta slot seg n c).getD s).shards = s.shards :=
  Inv.getD (P := fun v => v.shards = s.shards)
    (fun _ hu => Inv.growDelta (Stables.same (f := .shards) s rfl rfl (Or.inl rfl)) (Part.same_refl .shards s) hu) rfl

/-- The shard that an update is applied to has its effect; the pages that it grows and writes leave it (R135). -/
theorem applyUpdate_shard {s : State} {i : Nat} {h : Shard} (d : Bytes) (u : Nat) (hi : mget s.shards i = some h) :
    mget (s.applyUpdate i d u).shards i = some (h.applied d u (s.deltaRec h d u)) := by
  have hmod := State.shard_modShard (fun y => y.applied d u (s.deltaRec h d u)) hi
  simp only [State.applyUpdate, hi]
  rw [foldl_same (g := State.shards) fun s x => touchAt_shards s ..]
  split
  · split
    · exact hmod
    · rw [touchAt_shards, growDelta_shards]
      exact hmod
  · exact hmod

theorem applyUpdate_same {f : Part} (s : State) (i : Nat) (d : Bytes) (u : Nat) (hm : f.isMem = false)
    (h : (2112161870585856 : Nat).testBit f.idx = false) : f.same s (s.applyUpdate i d u) :=
  Inv.applyUpdate (Stables.same s hm h (Or.inr rfl)) (Part.same_refl f s) i d u

theorem sendOwed_same {f : Part} (s : State) (i : Nat) (hm : f.isMem = false) (h : (288231475696967680 : Nat).testBit f.idx = false) :
    f.same s (s.sendOwed i) :=
  Inv.sendOwed (Stables.same s hm h (Or.inr rfl)) (Part.same_refl f s) i

theorem sendRecord_shards (s : State) (h : Shard) (p : Partner) (r : LogRec) : (s.sendRecord h p r).shards = s.shards :=
  Inv.sendRecord (Stables.same (f := .shards) s rfl rfl (Or.inl rfl)) (Part.same_refl .shards s) h p r

/-- Sending what partners are owed changes nothing of a shard but what they are owed next. -/
theorem sendOwed_shard {s : State} {i : Nat} {h : Shard} (hi : mget s.shards i = some h) :
    ∃ l, mget (s.sendOwed i).shards i = some { h with partners := l } := by
  simp only [State.sendOwed, hi]
  refine ⟨_, State.shard_modShard _ ?_⟩
  rw [foldl_same (g := State.shards) fun s p => foldl_same (g := State.shards) (fun s r => sendRecord_shards s ..) _ _]
  exact hi

/-- The owner's append puts one record at the end of the log (R136, R140). -/
theorem appendLog_appends {s : State} {i : Nat} {h : Shard} (kind usn : Nat) (body : Bytes) (hi : mget s.shards i = some h) :
    (∃ r : LogRec, (s.appendLog i kind usn body).log.recs = s.log.recs ++ [r] ∧ r.slot = i ∧ r.kind = kind ∧ r.usn = usn) ∧
      ∃ l, mget (s.appendLog i kind usn body).shards i = some { h with partners := l } := by
  simp only [State.appendLog, hi]
  constructor
  · have hlog {v : State} : (v.sendOwed i).log = v.log := sendOwed_same (f := .log) v i rfl rfl
    rw [hlog, foldl_same (g := State.log) fun s p => State.raise_log ..]
    exact ⟨_, rfl, rfl, rfl, rfl⟩
  · apply sendOwed_shard
    rw [foldl_same (g := State.shards) fun s p => State.raise_shards ..]
    exact hi

theorem appendLog_same {f : Part} (s : State) (i kind usn : Nat) (body : Bytes) (hm : f.isMem = false)
    (h : (288233674720223232 : Nat).testBit f.idx = false) : f.same s (s.appendLog i kind usn body) :=
  Inv.appendLog (Stables.same s hm h (Or.inr rfl)) (Part.same_refl f s) i kind usn body

/-! ### The owner's update -/

/-- The state after an update is applied and logged, before its request is told. -/
def State.updateLogged (s : State) (i : Nat) (h : Shard) (w : Work) : State :=
  ((s.applyUpdate i (h.fillUpdate w.body w.usn) w.usn).appendLog i 1 w.usn (h.fillUpdate w.body w.usn)).setN 0x3042 4
    (s.log.dirty + logLen w.body)

theorem updateLogged_ledger (s : State) (i : Nat) (h : Shard) (w : Work) :
    (s.updateLogged i h w).ledger.works = s.ledger.works ∧ (s.updateLogged i h w).ledger.fars = s.ledger.fars := by
  have hworks := Part.same_trans (applyUpdate_same (f := .works) s i (h.fillUpdate w.body w.usn) w.usn rfl rfl)
    (appendLog_same _ i 1 w.usn (h.fillUpdate w.body w.usn) rfl rfl)
  have hfars := Part.same_trans (applyUpdate_same (f := .fars) s i (h.fillUpdate w.body w.usn) w.usn rfl rfl)
    (appendLog_same _ i 1 w.usn (h.fillUpdate w.body w.usn) rfl rfl)
  simp only [Part.same, Prod.mk.injEq] at hworks hfars
  exact ⟨hworks.1, hfars⟩

/-- The update takes effect: the shard's last USN is the update's, and the log has its record. -/
theorem updateLogged_ends {s : State} {i : Nat} {h : Shard} (w : Work) (hi : mget s.shards i = some h) :
    ∃ g r, mget (s.updateLogged i h w).shards i = some g ∧ g.lastUsn = w.usn ∧ (s.updateLogged i h w).log.recs = s.log.recs ++ [r] ∧
      r.slot = i ∧ r.usn = w.usn ∧ r.kind = 1 := by
  obtain ⟨⟨r, hrecs, hslot, hkind, husn⟩, l, hshard⟩ :=
    appendLog_appends 1 w.usn (h.fillUpdate w.body w.usn) (applyUpdate_shard (h.fillUpdate w.body w.usn) w.usn hi)
  have hlog : (s.applyUpdate i (h.fillUpdate w.body w.usn) w.usn).log = s.log := applyUpdate_same (f := .log) s i _ _ rfl rfl
  rw [hlog] at hrecs
  exact ⟨_, r, hshard, rfl, hrecs, hslot, husn, hkind⟩

/-- An update that has the USN after its shard's last one is applied, and its request marked or cleared. -/
theorem ownUpdate_applies {s : State} {tag i : Nat} {w : Work} {h : Shard} (hw : s.workOf tag = some w)
    (hs : s.slotOf (uShard w.body) = some i) (hi : mget s.shards i = some h) (hk : w.kind = 2) (ha : w.acks = 0)
    (hu : w.usn = h.lastUsn + 1) : s.ownUpdate tag (uOp w.body) =
      let u := s.updateLogged i h w
      if s.ledger.fars.any fun e => e.2.tag == tag then
        u.modWork tag fun y => { y with acks := 1, image := (h.fillUpdate w.body w.usn).take 64 }
      else { u with ledger := { u.ledger with works := mdel u.ledger.works tag } } := by
  have hgo : ¬ (w.kind ≠ 2 ∨ uOp w.body ≠ uOp w.body ∨ w.acks ≠ 0 ∨ w.usn ≠ h.lastUsn + 1) := by simp [hk, ha, hu]
  rw [← (updateLogged_ledger s i h w).2]
  simp only [State.ownUpdate, hw, hs, hi]
  exact if_neg hgo

/-- Settles O22: the three commands are the update of their operation. -/
theorem updatesTakeTheNextUsn : Obligations.UpdatesTakeTheNextUsn := by
  intro s tag i w h hw hs hi hk ha hu takesEffect
  have effect (c : Instr) (hc : exec c s = .next (s.ownUpdate tag (uOp w.body))) : takesEffect c := by
    obtain ⟨g, r, hg, hlast, hrecs, hslot, husn, hkind⟩ := updateLogged_ends w hi
    obtain ⟨hworks, -⟩ := updateLogged_ledger s i h w
    have hwork (k : Nat) : (s.updateLogged i h w).workOf k = s.workOf k := by rw [State.workOf, hworks, State.workOf]
    rw [ownUpdate_applies hw hs hi hk ha hu] at hc
    by_cases hf : ∃ e ∈ s.ledger.fars, e.2.tag = tag
    · have hany : (s.ledger.fars.any fun e => e.2.tag == tag) = true := by simpa using hf
      refine ⟨_, g, r, hc.trans (congrArg _ (if_pos hany)), hg, hlast, hrecs, hslot, husn, hkind, fun _ => ⟨?_, fun k hne => ?_⟩, fun hno => ?_⟩
      · exact State.workOf_modWork _ ((hwork tag).trans hw)
      · exact (State.workOf_modWork_ne _ _ hne).trans (hwork k)
      · obtain ⟨e, he, ht⟩ := hf
        exact absurd ht (hno e he)
    · have hany : ¬ (s.ledger.fars.any fun e => e.2.tag == tag) = true := by simpa using hf
      refine ⟨_, g, r, hc.trans (congrArg _ (if_neg hany)), hg, hlast, hrecs, hslot, husn, hkind, fun h => absurd h hf, fun _ => ⟨mget_mdel _ _, ?_⟩⟩
      exact congrArg (mdel · tag) hworks
  exact ⟨fun ho => effect _ (ho ▸ rfl), fun ho => effect _ (ho ▸ rfl), fun ho => effect _ (ho ▸ rfl)⟩

end Sys2Proof.Machine
end

section
/-! The items of the boundary phase that concern plans, models, gate lists and plots (R25, R32, R188, R319, R393). -/

namespace Sys2Proof.Machine
set_option Elab.async false

/-! ### The command of an item -/

/-- The state that an item of the agenda is run on: the item is off the agenda. -/
abbrev State.taken (s : State) (rest : List BItem) : State := { s with step := { s.step with agenda := rest } }

/-- A command that the item answers to runs whatever the item does there. -/
theorem command_runs {s : State} {rest : List BItem} {i : BItem} {p : State → BItem → Bool} {f : State → State} (hf : s.firstDue i rest)
    (hp : p s i = true) (h : (s.taken rest).runItem i = f (s.taken rest)) :
    (.next (s.command p) : Host.Outcome State Fault Refusal) = .next (s.runFirst rest f) := by
  rw [command_runs_first p hf hp]
  exact congrArg (fun u : State => Host.Outcome.next (u.drain false u.agendaFuel)) h

/-- So does the command that is the item's own. -/
theorem itemCommand_runs {s : State} {rest : List BItem} {i : BItem} {f : State → State} (hf : s.firstDue i rest)
    (h : (s.taken rest).runItem i = f (s.taken rest)) :
    (.next (s.command fun _ j => j == i) : Host.Outcome State Fault Refusal) = .next (s.runFirst rest f) :=
  command_runs hf (beq_self_eq_true i) h

section
variable {s : State} {rest : List BItem}

/-! ### Plan sets -/

theorem planDrainStart_runs (hf : s.firstDue .planDrain rest) : exec .planDrainStart s = .next (s.runFirst rest fun u =>
    ({ u with step := { u.step with draining := true } }.setN 0xC020 4 2).raise 0xC008 locField 0) :=
  itemCommand_runs hf (if_pos hf.2)

theorem planSetActivate_runs (hf : s.firstDue .planActivate rest) :
    exec .planSetActivate s = .next (s.runFirst rest State.doPlanActivate) := itemCommand_runs hf rfl

/-- A set is the active one since step `n`: none is staged, armed or draining, and no transfer waits. -/
def State.runsSet (s : State) (ps : PlanSet) (n : Nat) : Prop :=
  s.step.plan = some ps ∧ s.step.activated = n ∧ s.step.staged = none ∧ s.step.armed = false ∧ s.step.draining = false ∧ s.step.retries = []

theorem State.runsSet.of_same {s t : State} {ps : PlanSet} {n : Nat} (h : s.runsSet ps n) (hp : Part.stepPlan.same s t)
    (hr : Part.stepRetries.same s t) : t.runsSet ps n := by
  simp only [Part.same, Prod.mk.injEq] at hp hr
  simpa only [State.runsSet, hp, hr] using h

/-- The state in which full service at tier `k` begins, as the clock is moved there. -/
def State.inFullService (s : State) (k : Nat) : State :=
  { s with step := { s.step with seedling := false, admTier := k, planTier := k, tierAt := s.step.number } }

theorem fullService_same {f : Part} (u : State) (k : Nat) (hm : f.isMem = false)
    (h : (73786976294871834640 : Nat).testBit f.idx = false) :
    f.same u (((u.clockTo k).setN 0xA050 2 2).raise 0xA044 locField 0) := by
  have hk : Stables (fun v => f.same u v) 73786976294871834640 := Stables.same u hm h (Or.inr rfl)
  exact Inv.raise (hk.sub rfl) (Inv.setN (hk.sub rfl) (Inv.clockTo (hk.sub rfl) (Part.same_refl f u) k) ..) ..

/-- Full service leaves the set as it is. -/
theorem leaveSeedling_runsSet {ps qs : PlanSet} {n : Nat} (h : s.runsSet ps n) :
    (s.leaveSeedling qs).runsSet ps n ∧ (s.leaveSeedling qs).step.seedling = false := by
  unfold State.leaveSeedling
  dsimp only
  generalize (qs.plans.head?.map fun p => p.tier).getD 0 = k
  split
  case isTrue =>
    have hp := fullService_same (f := .stepPlan) (s.inFullService k) k rfl rfl
    have hr := fullService_same (f := .stepRetries) (s.inFullService k) k rfl rfl
    have hi : (s.inFullService k).runsSet ps n := h
    refine ⟨hi.of_same hp hr, ?_⟩
    simp only [Part.same, Prod.mk.injEq] at hp
    exact hp.2.2.2.2.2
  case isFalse hs =>
    have hs : s.step.seedling = false := Bool.eq_false_iff.mpr hs
    split
    · exact ⟨h, hs⟩
    · exact ⟨h, hs⟩

theorem auditsEnd_runsSet {ps : PlanSet} {n : Nat} (h : s.runsSet ps n) :
    s.auditsEnd.runsSet ps n ∧ s.auditsEnd.step.seedling = s.step.seedling := by
  have hp : Part.stepPlan.same s s.auditsEnd := Inv.auditsEnd (Stables.same s rfl rfl (Or.inr rfl)) (Part.same_refl .stepPlan s)
  have hr : Part.stepRetries.same s s.auditsEnd := Inv.auditsEnd (Stables.same s rfl rfl (Or.inr rfl)) (Part.same_refl .stepRetries s)
  refine ⟨h.of_same hp hr, ?_⟩
  simp only [Part.same, Prod.mk.injEq] at hp
  exact hp.2.2.2.2.2

/-- The state with the set activated, before what changes with it. -/
def State.setActive (s : State) (ps : PlanSet) : State :=
  { s with step := { s.step with
      plan := some ps, activated := s.step.number, staged := none, armed := false, draining := false, retries := [] } }

/-- What changes with a set, short of full service. -/
def State.setTaken (s : State) (ps : PlanSet) : State :=
  let s2 := (((s.setActive ps).takeMoment.roleActivate).divideSram s).hostGroupsAt
  ((((List.range 20).foldl (fun s p => s.setN (0x8100 + p) 1 0) s2).setLive 0xC020 1 ps.digest).setN 0xC020 4 3).raise 0xC002 locField 0

theorem doPlanActivate_eq {ps : PlanSet} (hs : s.step.staged = some ps) (hd : s.planActivates = true) :
    s.doPlanActivate = ((s.setTaken ps).leaveSeedling ps).auditsEnd := by
  unfold State.doPlanActivate
  rw [hs]
  exact if_neg (by simp [hd])

theorem setTaken_same {f : Part} (ps : PlanSet) (hm : f.isMem = false)
    (h : (370139594408173568 : Nat).testBit f.idx = false) : f.same (s.setActive ps) (s.setTaken ps) := by
  have hk : Stables (fun v => f.same (s.setActive ps) v) 370139594408173568 := Stables.same _ hm h (Or.inr rfl)
  have kMoment : Stables (fun v => f.same (s.setActive ps) v) 32768 := hk.sub rfl
  have kRole : Stables (fun v => f.same (s.setActive ps) v) 297237575440080896 := hk.sub rfl
  have kSram : Stables (fun v => f.same (s.setActive ps) v) 281474976776192 := hk.sub rfl
  have kHosts : Stables (fun v => f.same (s.setActive ps) v) 72620543991349248 := hk.sub rfl
  have kLive : Stables (fun v => f.same (s.setActive ps) v) 65536 := hk.sub rfl
  have kRaise : Stables (fun v => f.same (s.setActive ps) v) 33628160 := hk.sub rfl
  have hMoment := Inv.takeMoment kMoment (Part.same_refl f (s.setActive ps))
  have hHosts := Inv.hostGroupsAt kHosts (Inv.divideSram kSram (Inv.roleActivate kRole hMoment) s)
  have hGates := Inv.foldl (P := fun v => f.same (s.setActive ps) v) (f := fun (s : State) p => s.setN (0x8100 + p) 1 0) (l := List.range 20)
    (fun _ _ hu => Inv.setN kLive hu _ _ _) hHosts
  exact Inv.raise kRaise (Inv.setN kLive (Inv.setLive kLive hGates _ _ _) _ _ _) _ _ _

/-- The staged set becomes the active one (R32), and Seedling service ends (R384). -/
theorem doPlanActivate_runsSet {ps : PlanSet} (hs : s.step.staged = some ps) (hd : s.planActivates = true) :
    s.doPlanActivate.runsSet ps s.step.number ∧ s.doPlanActivate.step.seedling = false := by
  rw [doPlanActivate_eq hs hd]
  have ha : (s.setActive ps).runsSet ps s.step.number := ⟨rfl, rfl, rfl, rfl, rfl, rfl⟩
  have ht := ha.of_same (setTaken_same (f := .stepPlan) ps rfl rfl) (setTaken_same (f := .stepRetries) ps rfl rfl)
  obtain ⟨hl, hf⟩ := leaveSeedling_runsSet (qs := ps) ht
  obtain ⟨he, hn⟩ := auditsEnd_runsSet hl
  exact ⟨he, hn.trans hf⟩

/-! ### Models, gate lists and tenants -/

theorem modelDrainStart_runs {k : Nat} (hf : s.firstDue (.modelDrain k) rest) : exec (.modelDrainStart k) s = .next (s.runFirst rest fun u =>
    ({ u with models := mmod u.models k fun m => { m with blocked := true } }.setN (0x5100 + k) 5 3).raise 0x5003 locField 0) := by
  have hd : s.modelDrains k = true := hf.2
  refine itemCommand_runs hf ((if_pos hd).trans ?_)
  unfold State.doModelDrain
  cases hm : mget s.models k with
  | none => simp [State.modelDrains, hm] at hd
  | some m =>
    simp only [State.modelDrains, hm, Bool.and_eq_true, Bool.not_eq_true', Option.isSome_iff_ne_none] at hd
    obtain ⟨⟨⟨hn, hb⟩, -⟩, -⟩ := hd
    exact if_neg (by simp [hn, hb])

theorem modelActivate_runs {k : Nat} (hf : s.firstDue (.modelActivate k) rest) :
    exec (.modelActivate k) s = .next (s.runFirst rest (·.doModelActivate k)) := itemCommand_runs hf (if_pos hf.2)

/-- A model's change puts its staged image in the slot, or empties it (R188). -/
theorem doModelActivate_models {k : Nat} {m : ModelSlot} {img : Bytes} (hm : mget s.models k = some m) (hi : m.next = some img) :
    (s.doModelActivate k).models = if img.isEmpty then mdel s.models k else mput s.models k ⟨img, none, 0, false, m.part⟩ := by
  simp only [State.doModelActivate, hm, hi, State.placeTensors, State.raise_models, State.setN_models, State.setLive_models]
  split
  · rfl
  · rfl

theorem gateListTakeover_runs {p : Nat} (hp : p < 20) (hf : s.firstDue (.gateTakeover p) rest) :
    exec (.gateListTakeover p) s = .next (s.runFirst rest fun u =>
      (u.setN (0x8100 + p) 1 (u.comN (0x8100 + p) 2)).raise 0x8021 (locPort p) 0) := by
  have hd : s.comN (0x8100 + p) 3 = s.step.number := eq_of_beq hf.2
  exact itemCommand_runs hf (if_neg (not_or.mpr ⟨not_not.mpr hd, Nat.not_le.mpr hp⟩))

theorem tenantDrainStart_runs {p : Nat} (hp : p < 8) (hf : s.firstDue (.tenantDrain p) rest) :
    exec (.tenantDrainStart p) s = .next (s.runFirst rest fun u => (u.setN (0x9100 + p) 5 1).raise 0x9010 locField 0) :=
  itemCommand_runs hf (if_pos ⟨hp, hf.2⟩)

theorem tenantScrubEnd_runs {p : Nat} (hp : p < 8) (hf : s.firstDue (.tenantScrubEnd p) rest) :
    exec (.tenantScrubEnd p) s = .next (s.runFirst rest fun u =>
      let v := u.modPart p fun x => { x with scrub := none, owed := none }
      ((v.setN (0x9100 + p) 5 (v.partState p)).bump (0x9100 + p) 6 1).raise 0x9012 locField 0) :=
  itemCommand_runs hf (if_neg (not_or.mpr ⟨Nat.not_le.mpr hp, not_not.mpr hf.2⟩))

/-! ### Plots past their limit -/

/-- A plot past its limit is only reported where the Hand may not retire it. -/
theorem plotFaultLimit_reports {p : Nat} (hp : p < 16) (hf : s.firstDue (.plotLimit p) rest) (hg : s.grant 0x0E = false) :
    exec (.plotFaultLimit p) s = .next (s.runFirst rest fun u => u.raiseRun 0x1108 p (locPlot p) none (u.faultScore p)) := by
  have hl : ¬ (16 ≤ p ∨ ¬ (s.taken rest).overLimit p = true) := not_or.mpr ⟨Nat.not_le.mpr hp, not_not.mpr hf.2⟩
  have hn : ¬ (s.taken rest).grant 0x0E = true := Bool.not_eq_true _ ▸ hg
  exact itemCommand_runs hf ((if_neg hl).trans (if_pos hn))

theorem plotFaultLimit_runs {p : Nat} (hf : s.firstDue (.plotLimit p) rest) :
    exec (.plotFaultLimit p) s = .next (s.runFirst rest (·.doPlotLimit p)) := itemCommand_runs hf rfl

/-- The node with a plot retired and lost to it. -/
def State.plotRetired (s : State) (p : Nat) : State :=
  { s with node := { s.node with
      retired := setBit s.node.retired p, nearOut := setBit s.node.nearOut p, farOut := setBit s.node.farOut p
      plots := clrBit s.node.plots p, tillers := clrBit s.node.tillers p } }

/-- What the loss of a retired plot does beyond that is no change of the units. -/
theorem doPlotLimit_same {f : Part} {p : Nat} (hp : p < 16) (hd : s.overLimit p = true) (hg : s.grant 0x0E = true) (hm : f.isMem = false)
    (h : (154248697440444416 : Nat).testBit f.idx = false) : f.same (s.plotRetired p) (s.doPlotLimit p) := by
  have hk : Stables (fun v => f.same (s.plotRetired p) v) 154248697440444416 := Stables.same _ hm h (Or.inr rfl)
  have kLive : Stables (fun v => f.same (s.plotRetired p) v) 65536 := hk.sub rfl
  have kNear : Stables (fun v => f.same (s.plotRetired p) v) 68753104896 := hk.sub rfl
  have kFar : Stables (fun v => f.same (s.plotRetired p) v) 153122797533601792 := hk.sub rfl
  have kSegs : Stables (fun v => f.same (s.plotRetired p) v) 1125899940470784 := hk.sub rfl
  have kRaise : Stables (fun v => f.same (s.plotRetired p) v) 33628160 := hk.sub rfl
  rw [State.doPlotLimit, if_neg (not_or.mpr ⟨Nat.not_le.mpr hp, not_not.mpr hd⟩), if_neg (not_not.mpr hg)]
  have hLost := Inv.farLost kFar (Inv.nearLost kNear (Inv.setN kLive (Inv.setN kLive (Part.same_refl f (s.plotRetired p))
    0x1010 1 (s.plotRetired p).node.plots) 0x1010 2 (s.plotRetired p).node.tillers) p) p
  exact Inv.raise kRaise (Inv.useGrant kLive (Inv.plotSegsOut kSegs (Inv.setN kLive hLost _ _ _) p) _) _ _ _

theorem doPlotLimit_units {p : Nat} (hp : p < 16) (hd : s.overLimit p = true) (hg : s.grant 0x0E = true) :
    let t := s.doPlotLimit p
    t.node.retired = setBit s.node.retired p ∧ t.node.plots = clrBit s.node.plots p ∧ t.node.tillers = clrBit s.node.tillers p ∧
      t.node.nearOut = setBit s.node.nearOut p ∧ t.node.farOut = setBit s.node.farOut p := by
  have hu := doPlotLimit_same (f := .nodeUnits) hp hd hg rfl rfl
  have ho := doPlotLimit_same (f := .nodePools) hp hd hg rfl rfl
  simp only [Part.same, Prod.mk.injEq] at hu ho
  obtain ⟨hplots, htillers, -, -, -, -, hretired, -⟩ := hu
  exact ⟨hretired, hplots, htillers, ho.1, ho.2⟩

end

end Sys2Proof.Machine
end

section
/-! The items of the boundary phase that concern tenants and the epochs of a shard (R138, R145 to R151, R351, R397). -/

namespace Sys2Proof.Machine
set_option Elab.async false

section
variable {s : State} {rest : List BItem}

/-! ### Tenant switches -/

@[simp] theorem act_setAct_same (s : State) (i k : Nat) (v : Bytes) : (s.setAct i k v).act i k = v := by
  simp [State.act, State.setAct, mget_mput]

theorem act_setAct_ne (s : State) (i : Nat) {k j : Nat} (v : Bytes) (h : j ≠ k) : (s.setAct i k v).act i j = s.act i j := by
  have hne : dkey i j ≠ dkey i k := by simpa [dkey] using h
  simp [State.act, State.setAct, mget_mput_ne _ hne]

@[simp] theorem act_raise (s : State) (c l d i k : Nat) : (s.raise c l d).act i k = s.act i k := by simp [State.act]
@[simp] theorem act_setN (s : State) (j m v i k : Nat) : (s.setN j m v).act i k = s.act i k := by simp [State.act]
@[simp] theorem part_raise (s : State) (c l d p : Nat) : (s.raise c l d).part p = s.part p := by simp [State.part]
@[simp] theorem part_setN (s : State) (j m v p : Nat) : (s.setN j m v).part p = s.part p := by simp [State.part]
@[simp] theorem part_setAct (s : State) (j m p : Nat) (v : Bytes) : (s.setAct j m v).part p = s.part p := by simp [State.part]

theorem tenantSwitch_runs {p : Nat} (hf : s.firstDue (.tenantSwitch p) rest) :
    exec (.tenantSwitch p) s = .next (s.runFirst rest (·.doTenantSwitch p)) := itemCommand_runs hf rfl

/-- A partition as its switch leaves it: its scrub runs (R351). -/
def PartSt.switched (x : PartSt) (w : Switch) (now : Nat) : PartSt :=
  { x with
    next := none, owed := some w.mode, key := x.key + 1
    scrub := some ⟨w.mode, now, if w.mode = 1 then 3 else 0, if w.mode = 0 then 3 else 0⟩ }

/-- What a partition held goes before its plots and shards change; the partitions stay. -/
theorem switchEmptied_parts (s : State) (p : Nat) : ((s.emptyPart p).trimNamespace p).parts = s.parts :=
  Inv.trimNamespace (Stables.same (f := .parts) s rfl rfl (Or.inr rfl))
    (Inv.emptyPart (Stables.same (f := .parts) s rfl rfl (Or.inr rfl)) (Part.same_refl .parts s) p) p

theorem doTenantSwitch_switches {p : Nat} {w : Switch} (hw : (s.part p).next = some w) (ha : w.at_ ≤ s.step.number) :
    let t := s.doTenantSwitch p
    t.part p = (s.part p).switched w s.step.number ∧ t.act (0x9100 + p) 1 = leBytes 2 w.plots ∧ t.act (0x9100 + p) 2 = w.shards := by
  have hp : ((s.emptyPart p).trimNamespace p).part p = s.part p := by rw [State.part, switchEmptied_parts, State.part]
  simp only [State.doTenantSwitch, hw, if_neg (Nat.not_lt.mpr ha), part_raise, part_setN, part_setAct, State.part_modPart, act_raise,
    act_setN, act_setAct_same, hp]
  exact ⟨rfl, (act_setAct_ne (j := 1) (k := 2) _ _ _ (by decide)).trans (act_setAct_same ..), trivial⟩

/-! ### Deltas and seals -/

/-- The current epoch of a shard that holds one, where it is changed. -/
theorem cur_modCur {h : Shard} (f : Epoch → Epoch) (he : h.epochs ≠ []) : (h.modCur f).cur = f h.cur := by
  obtain ⟨es, e, hl⟩ : ∃ es e, h.epochs = es ++ [e] := ⟨_, _, (List.dropLast_append_getLast he).symm⟩
  simp [Shard.cur, Shard.modCur, hl]

/-- A shard with the delta that opens now. -/
def Shard.opened (h : Shard) (s : State) (i n : Nat) (cb : Bytes) : Shard :=
  { h.modCur (fun e => { e with deltas := e.deltas ++ [n] }) with
    deltas := mput h.deltas n ⟨cb, s.actN (0x3200 + i) 6, h.cur.num, s.step.number, []⟩ }

theorem openDelta_shard {i n : Nat} {h : Shard} (cb : Bytes) (hi : mget s.shards i = some h) :
    mget (s.openDelta i n cb).shards i = some (h.opened s i n cb) := State.shard_modShard _ hi

theorem deltaOpen_runs {i n : Nat} {h : Shard} {cb : Bytes} (hf : s.firstDue (.deltaOpen i) rest) (hi : mget s.shards i = some h)
    (hn : h.freeSegment = some n) (hc : s.deltaCb i = some cb) :
    exec (.deltaOpen i) s = .next (s.runFirst rest (·.openDelta i n cb)) ∧
      ∃ g, mget ((s.taken rest).openDelta i n cb).shards i = some g ∧ g.cur.deltas = [n] ∧
        mget g.deltas n = some ⟨cb, s.actN (0x3200 + i) 6, h.cur.num, s.step.number, []⟩ := by
  have hd : s.opensFirst i h = true := by simpa only [State.due, hi, Option.map_some, Option.getD_some] using hf.2
  constructor
  · refine itemCommand_runs hf ?_
    have hib : mget (s.taken rest).shards i = some h := hi
    have hcb : (s.taken rest).deltaCb i = some cb := hc
    simp only [State.runItem, State.doDeltaOpen, hib, hn, hcb]
    exact if_neg (not_not.mpr hd)
  · simp only [State.opensFirst, Bool.and_eq_true, Bool.not_eq_true', List.isEmpty_eq_false_iff, List.isEmpty_iff] at hd
    obtain ⟨⟨⟨⟨-, he⟩, hempty⟩, -⟩, -⟩ := hd
    refine ⟨_, openDelta_shard cb hi, ?_, mget_mput ..⟩
    exact (congrArg Epoch.deltas (cur_modCur _ he)).trans (by simp [hempty])

/-- The job of a freeze at `f`, and the shard with it. -/
def Shard.freezeJob (h : Shard) (s : State) (d f : Nat) : SealJob :=
  ⟨[d], d, f, if h.owner then 1 else 5, 0, [], [], s.sealSet, h.chainFrom (h.cur.num + 1) f, false, 0, 0⟩

theorem freezeAt_shard {i n d : Nat} {h : Shard} (cb : Bytes) (f : Nat) (hi : mget s.shards i = some h) (ho : h.open_ = some d) :
    mget (s.freezeAt i n cb f).shards i = some { h.opened s i n cb with sealJob := some (h.freezeJob s d f) } := by
  simp only [State.freezeAt, hi, ho]
  exact State.shard_modShard _ (openDelta_shard cb hi)

theorem sealFreeze_runs {i : Nat} (hf : s.firstDue (.sealFreeze i) rest) :
    exec (.sealFreeze i) s = .next (s.runFirst rest (·.doSealFreeze i)) := itemCommand_runs hf rfl

/-- SEAL_FREEZE makes the open delta the input of a seal, opens the next one and logs both (R140, R146). -/
theorem doSealFreeze_freezes {i n d : Nat} {h : Shard} {cb : Bytes} (hd : s.due (.sealFreeze i) = true) (hi : mget s.shards i = some h)
    (ho : h.open_ = some d) (hn : h.freeSegment = some n) (hc : s.deltaCb i = some cb) (hl : s.logRoom 128 = true) :
    ∃ g j, mget (s.doSealFreeze i).shards i = some g ∧ g.sealJob = some j ∧ j.inputs = [d] ∧ j.out = d ∧ j.floor = h.vis ∧ j.stage = 1 ∧
      mget g.deltas n = some ⟨cb, s.actN (0x3200 + i) 6, h.cur.num, s.step.number, []⟩ ∧
      ∃ r, (s.doSealFreeze i).log.recs = s.log.recs ++ [r] ∧ r.slot = i ∧ r.kind = 2 ∧ r.usn = h.vis := by
  have hb : s.sealBegins i h = true := by simpa only [State.due, hi, Option.map_some, Option.getD_some] using hd
  have howner : h.owner = true := by
    simp only [State.sealBegins, Bool.and_eq_true] at hb
    exact hb.1.1.1
  simp only [State.doSealFreeze, hi, ho, hn, hc, if_neg (not_or.mpr ⟨not_not.mpr hb, not_not.mpr hl⟩)]
  obtain ⟨⟨r, hrecs, hslot, hkind, husn⟩, l, hshard⟩ :=
    appendLog_appends 2 h.vis (leBytes 8 h.vis ++ leBytes 2 d ++ leBytes 2 n ++ zeros 4 ++ padTo 32 cb) (freezeAt_shard cb h.vis hi ho)
  have hlog : (s.freezeAt i n cb h.vis).log = s.log := by simp only [State.freezeAt, hi, ho]; rfl
  rw [hlog] at hrecs
  exact ⟨_, _, hshard, rfl, rfl, rfl, rfl, if_pos howner, mget_mput .., r, hrecs, hslot, hkind, husn⟩

/-! ### Switches of an epoch -/

theorem placeSeg_shards {i : Nat} {img : Bytes} {v : State} (hv : s.placeSeg i img = some v) : v.shards = s.shards :=
  Inv.placeSeg (Stables.same (f := .shards) s rfl rfl (Or.inr rfl)) (Part.same_refl .shards s) hv

theorem sendImage_shards (s : State) (h : Shard) (p : Partner) (r : Bytes) : (s.sendImage h p r).shards = s.shards :=
  Inv.sendImage (Stables.same (f := .shards) s rfl rfl (Or.inr rfl)) (Part.same_refl .shards s) h p r

theorem queueRoot_shards (s : State) (i : Nat) (h : Shard) (e : Epoch) (u k : Nat) : (s.queueRoot i h e u k).shards = s.shards :=
  Inv.queueRoot (Stables.same (f := .shards) s rfl rfl (Or.inr rfl)) (Part.same_refl .shards s) i h e u k

/-- To announce an epoch changes nothing of its shard but what partners are owed next. -/
theorem announceEpoch_shard {i : Nat} {h : Shard} (k : Nat) (hi : mget s.shards i = some h) :
    ∃ l, mget (s.announceEpoch i k).shards i = some { h with partners := l } := by
  simp only [State.announceEpoch, hi]
  rw [foldl_same (g := State.shards) fun s p => sendImage_shards s ..]
  exact (appendLog_appends 3 h.vis (epochRecord h h.cur k) ((congrArg (mget · i) (queueRoot_shards ..)).trans hi)).2

/-- The last epoch of a shard is its current one. -/
theorem cur_of_epochs {h : Shard} {es : List Epoch} {e : Epoch} (he : h.epochs = es ++ [e]) : h.cur = e := by
  simp [Shard.cur, he]

theorem sealSwitch_runs {i : Nat} (hf : s.firstDue (.sealSwitch i) rest) :
    exec (.sealSwitch i) s = .next (s.runFirst rest (·.doSealSwitch i)) := itemCommand_runs hf rfl

/-- The switch of a seal whose segment fits puts its epoch in force (stage 5 of R146). -/
theorem doSealSwitch_switches {i : Nat} {h : Shard} {j : SealJob} {v : State} (hd : s.due (.sealSwitch i) = true)
    (hi : mget s.shards i = some h) (hj : h.sealJob = some j) (hl : s.logRoom (epochRoomBytes h) = true)
    (he : segEpoch j.image = h.cur.num + 1) (hv : s.placeSeg i j.image = some v) :
    ∃ g, mget (s.doSealSwitch i).shards i = some g ∧ g.cur.num = h.cur.num + 1 ∧ g.cur.floor = j.floor ∧
      g.cur.sealed = sortNat (h.cur.sealed ++ [j.out]) ∧ g.cur.deltas = h.cur.deltas.filter (· != j.out) ∧ g.sealJob = none := by
  have hr : h.sealReady = true := by simpa only [State.due, hi, Option.map_some, Option.getD_some] using hd
  simp only [State.doSealSwitch, hi, hj, if_neg (not_or.mpr ⟨not_not.mpr hr, not_not.mpr hl⟩), if_neg (not_not.mpr he),
    State.switchSeal, hv, State.commitSeal]
  obtain ⟨l, hg⟩ := announceEpoch_shard 1 (State.shard_modShard (fun h => h.sealedBy j v.step.number)
    ((congrArg (mget · i) (placeSeg_shards hv)).trans hi))
  refine ⟨_, hg, ?_⟩
  rw [cur_of_epochs rfl]
  exact ⟨rfl, rfl, rfl, rfl, rfl⟩

theorem compactionSwitch_runs {i : Nat} (hf : s.firstDue (.compactSwitch i) rest) :
    exec (.compactionSwitch i) s = .next (s.runFirst rest (·.doCompactSwitch i)) := itemCommand_runs hf rfl

/-- The switch of a compaction whose segment fits puts its epoch in force (stage 4 of R149). -/
theorem doCompactSwitch_switches {i : Nat} {h : Shard} {j : SealJob} {v : State} (hd : s.due (.compactSwitch i) = true)
    (hi : mget s.shards i = some h) (hj : h.comp = some j) (hl : s.logRoom (epochRoomBytes h) = true)
    (he : segEpoch j.image = h.cur.num + 1) (hv : s.placeSeg i j.image = some v) :
    ∃ g, mget (s.doCompactSwitch i).shards i = some g ∧ g.cur.num = h.cur.num + 1 ∧ g.cur.floor = h.cur.floor ∧
      g.cur.deltas = h.cur.deltas ∧ g.cur.sealed = sortNat (h.cur.sealed.filter (fun n => !j.inputs.contains n) ++ [j.out]) ∧
      g.comp = none := by
  have hr : h.compReady s.step.number = true := by simpa only [State.due, hi, Option.map_some, Option.getD_some] using hd
  simp only [State.doCompactSwitch, hi, hj, if_neg (not_or.mpr ⟨not_not.mpr hr, not_not.mpr hl⟩), if_neg (not_not.mpr he),
    State.switchCompact, hv, State.commitCompact]
  obtain ⟨l, hg⟩ := announceEpoch_shard 2 (State.shard_modShard (fun h => h.compactedBy j v.step.number)
    ((congrArg (mget · i) (placeSeg_shards hv)).trans hi))
  refine ⟨_, hg, ?_⟩
  rw [cur_of_epochs rfl]
  exact ⟨rfl, rfl, rfl, rfl, rfl⟩

theorem compactionChoose_runs {i : Nat} (hf : s.firstDue (.compactChoose i) rest) :
    exec (.compactionChoose i) s = .next (s.runFirst rest (·.doCompactChoose i)) := itemCommand_runs hf rfl

/-- A compaction that is chosen begins with its inputs and output (R148). -/
theorem doCompactChoose_chooses {i out : Nat} {h : Shard} {ins : List Nat} (hd : s.due (.compactChoose i) = true)
    (hi : mget s.shards i = some h) (hins : s.compInputs h = some ins) (hout : h.freeSegment = some out) :
    ∃ g j, mget (s.doCompactChoose i).shards i = some g ∧ g.comp = some j ∧ j.inputs = ins ∧ j.out = out ∧ j.floor = h.cur.floor ∧
      j.stage = 1 := by
  have hb : s.compBegins h = true := by
    simp only [State.due, hi, Option.map_some, Option.getD_some, Bool.and_eq_true] at hd
    exact hd.1
  simp only [State.doCompactChoose, hi, if_neg (not_not.mpr hb), hins, hout]
  exact ⟨_, _, State.shard_modShard _ hi, rfl, rfl, rfl, rfl, rfl⟩

theorem replicaEpochSwitch_runs {i : Nat} (hf : s.firstDue (.replicaSwitch i) rest) :
    exec (.replicaEpochSwitch i) s = .next (s.runFirst rest (·.doReplicaSwitch i)) := itemCommand_runs hf rfl

/-- A replica puts the epoch of its owner's record in force, where the image fits (R146). -/
theorem doReplicaSwitch_switches {i : Nat} {h : Shard} {r : Bytes} {v : State} (hd : s.due (.replicaSwitch i) = true)
    (hi : mget s.shards i = some h) (hr : h.pendEpoch = some r) (out : Nat)
    (ho : out = ((recSealed r).filter fun n => !h.cur.sealed.contains n).headD 0)
    (hv : s.placeSeg i ((mget h.images out).getD (((mget h.segs out).map (·.image)).getD [])) = some v) :
    ∃ g, mget (s.doReplicaSwitch i).shards i = some g ∧ g.cur.num = u32 r 12 ∧ g.cur.floor = u64 r 16 ∧ g.cur.sealed = recSealed r ∧
      g.pendEpoch = none ∧ mget g.images out = none := by
  have hready : h.replicaReady = true := by simpa only [State.due, hi, Option.map_some, Option.getD_some] using hd
  subst ho
  simp only [State.doReplicaSwitch, hi, if_pos hready, State.installEpoch, hr, if_true, hv]
  refine ⟨_, State.shard_modShard _ ((congrArg (mget · i) (placeSeg_shards hv)).trans hi), ?_⟩
  rw [cur_of_epochs rfl]
  exact ⟨rfl, rfl, rfl, rfl, mget_mdel ..⟩

/-! ### Releases and rejoins -/

theorem epochRelease_runs {i n : Nat} (hf : s.firstDue (.epochRelease i n) rest) :
    exec (.epochRelease i n) s = .next (s.runFirst rest (·.doEpochRelease i n)) := itemCommand_runs hf rfl

theorem dropExtent_shards (s : State) (i n : Nat) : (s.dropExtent i n).shards = s.shards :=
  Inv.dropExtent (Stables.same (f := .shards) s rfl rfl (Or.inr rfl)) (Part.same_refl .shards s) i n

theorem releasePages_shards (s : State) (p : Nat × Nat × Nat → Bool) : (s.releasePages p).shards = s.shards :=
  Inv.releasePages (Stables.same (f := .shards) s rfl rfl (Or.inr rfl)) (Part.same_refl .shards s) p

/-- The release of an epoch takes it from its shard (R151). -/
theorem doEpochRelease_releases {i n : Nat} {h : Shard} (hd : s.due (.epochRelease i n) = true) (hi : mget s.shards i = some h) :
    ∃ g, mget (s.doEpochRelease i n).shards i = some g ∧ g.epochs = h.epochs.filter fun x => x.num != n := by
  simp only [State.due, hi, Option.bind_some] at hd
  cases he : h.epoch? n with
  | none => simp [he] at hd
  | some e =>
    have hrel : s.releases h e = true := by simpa [he] using hd
    simp only [State.doEpochRelease, hi, he, if_neg (not_not.mpr hrel), releasePages_shards]
    rw [foldl_same (g := State.shards) fun s n => dropExtent_shards s ..]
    exact ⟨_, State.shard_modShard _ hi, rfl⟩

theorem rejoinLoaded_runs {i : Nat} (hf : s.firstDue (.rejoinLoaded i) rest) :
    exec (.rejoinLoaded i) s = .next (s.runFirst rest (·.doRejoinLoaded i)) := itemCommand_runs hf rfl

/-- A slot that is loaded says so (R397). -/
theorem doRejoinLoaded_marks {i : Nat} {h : Shard} (hd : s.due (.rejoinLoaded i) = true) (hi : mget s.shards i = some h) :
    mget (s.doRejoinLoaded i).shards i = some { h with state := 2 } := by
  have hl : h.loadDone = true := by simpa only [State.due, hi, Option.map_some, Option.getD_some] using hd
  simp only [State.doRejoinLoaded, hi, if_pos hl]
  exact State.shard_modShard (fun h => { h with state := 2 }) hi

theorem rejoinAdmit_runs (hf : s.firstDue .rejoinAdmit rest) : exec .rejoinAdmit s = .next (s.runFirst rest State.doRejoinAdmit) :=
  itemCommand_runs hf rfl

theorem setSlotState_same (s : State) (i st : Nat) {h : Shard} (hi : mget s.shards i = some h) :
    mget (s.setSlotState i st).shards i = some { h with state := st } := State.shard_modShard (fun h => { h with state := st }) hi

theorem setSlotState_ne (s : State) {i j : Nat} (st : Nat) (hne : j ≠ i) : mget (s.setSlotState i st).shards j = mget s.shards j :=
  mget_mmod_ne s.shards (fun h => { h with state := st }) hne

/-- Slots that are put in service one after another: each of the list serves, and no other changes. -/
theorem foldl_setSlotState (l : List Nat) {i : Nat} {h : Shard} : ∀ {s : State}, mget s.shards i = some h →
    mget (l.foldl (fun s i => s.setSlotState i 0) s).shards i = some (if i ∈ l then { h with state := 0 } else h) := by
  induction l generalizing h with
  | nil => intro s hi; simpa using hi
  | cons k l ih =>
    intro s hi
    by_cases hk : i = k
    · subst hk
      rw [List.foldl_cons, ih (setSlotState_same s i 0 hi)]
      simp
    · rw [List.foldl_cons, ih ((setSlotState_ne s 0 hk).trans hi)]
      simp [hk]

/-- The slots that the committed set admits serve again (R398). -/
theorem doRejoinAdmit_admits {i : Nat} {h : Shard} (hat : s.comN 0xB040 6 = s.step.number) (hlt : i < 256) (hi : mget s.shards i = some h) :
    mget s.doRejoinAdmit.shards i = some (if bitAt (s.com 0xB040 5) i && h.state == 2 then { h with state := 0 } else h) := by
  rw [State.doRejoinAdmit, if_neg (not_not.mpr hat), foldl_setSlotState _ hi]
  simp [hlt, hi]

end

end Sys2Proof.Machine
end

section
/-! The items of the boundary phase that end a window or move pages and embedding shards (R203, R204, R234, R235). -/

namespace Sys2Proof.Machine
set_option Elab.async false

/-! ### Sorted lists -/

theorem mem_insertBy {α : Type} (lt : α → α → Bool) (x y : α) (l : List α) : y ∈ insertBy lt x l ↔ y = x ∨ y ∈ l := by
  induction l with
  | nil => simp [insertBy]
  | cons z l ih =>
    rw [insertBy]
    split
    · simp
    · simp only [List.mem_cons, ih]
      exact or_left_comm

theorem mem_foldl_insertBy {α : Type} (lt : α → α → Bool) (y : α) (l : List α) :
    ∀ acc : List α, y ∈ l.foldl (fun acc x => insertBy lt x acc) acc ↔ y ∈ acc ∨ y ∈ l := by
  induction l with
  | nil => simp
  | cons x l ih =>
    intro acc
    rw [List.foldl_cons, ih, mem_insertBy, List.mem_cons]
    tauto

/-- Sorting keeps the members. -/
theorem mem_sortNat (y : Nat) (l : List Nat) : y ∈ sortNat l ↔ y ∈ l := by
  rw [sortNat, sortBy, mem_foldl_insertBy]
  simp

section
variable {s : State} {rest : List BItem}

/-! ### Load windows -/

@[simp] theorem useGrant_embWinAt (s : State) (g : Nat) : (s.useGrant g).embWinAt = s.embWinAt :=
  congrArg Prod.snd (Inv.useGrant (Stables.same (f := .embs) s rfl rfl (Or.inr rfl)) (Part.same_refl .embs s) g)

theorem loadWindowEnd_runs (hf : s.firstDue .loadWindow rest) : exec .loadWindowEnd s = .next (s.runFirst rest State.doLoadWindow) :=
  itemCommand_runs hf rfl

/-- The next load window begins, with no count (R203). -/
theorem doLoadWindow_restarts (hd : s.loadEnds = true) :
    s.doLoadWindow.embWinAt = s.step.number ∧ ∀ e ∈ s.doLoadWindow.embs, e.2.counts = [] := by
  rw [State.doLoadWindow, if_neg (not_not.mpr hd)]
  constructor
  · simp only [State.grant, apply_ite State.embWinAt, State.raise_embWinAt]
    rw [foldl_same (g := State.embWinAt) fun s (w : Nat × Nat × Nat) => by simp,
      foldl_same (g := State.embWinAt) fun s (t : Nat × EmbTab) => State.setN_embWinAt ..]
    simp
  · intro e he
    obtain ⟨t, -, rfl⟩ := List.mem_map.mp he
    rfl

/-! ### Placement windows -/

theorem placementWindowEnd_runs (hf : s.firstDue .placeWindow rest) :
    exec .placementWindowEnd s = .next (s.runFirst rest State.doPlaceWindow) := itemCommand_runs hf rfl

/-- The next placement window begins with no count; what moves is wanted only where the Hand grants it (R234, R235). -/
theorem doPlaceWindow_restarts (hd : s.placeEnds = true) :
    let t := s.doPlaceWindow
    t.tier.winAt = s.step.number ∧ t.tier.counts = [] ∧ t.tier.frames = s.tier.frames ∧
      let want := (List.range 16).flatMap s.desired
      t.tier.promos = (if s.grant 0x0A then (want.filter fun p => !s.tier.frames.contains p).map fun p => ⟨p, 0, false, false⟩ else []) ∧
      t.tier.demote = (if s.grant 0x0A then s.tier.frames.filter fun p => !want.contains p else []) := by
  simp only [State.doPlaceWindow, if_neg (not_not.mpr hd)]
  by_cases hg : s.grant 0x0A = true
  · simp [hg, apply_ite State.tier]
  · simp [hg, apply_ite State.tier]

theorem pageDemote_runs (hf : s.firstDue .pageDemote rest) : exec .pageDemote s = .next (s.runFirst rest State.doDemote) :=
  itemCommand_runs hf rfl

/-- No page is left to demote, and those that were have left their frames where the Hand grants it (R235). -/
theorem doDemote_demotes (hd : s.due .pageDemote = true) :
    s.doDemote.tier.demote = [] ∧
      s.doDemote.tier.frames = (if s.grant 0x0A then s.tier.frames.filter fun p => !s.tier.demote.contains p else s.tier.frames) := by
  have hne : ¬ s.tier.demote.isEmpty = true := by simpa [State.due] using hd
  rw [State.doDemote, if_neg hne]
  by_cases hg : s.grant 0x0A = true
  · simp [hg]
  · simp [hg]

theorem promotionSwitch_runs {p : Nat} (hf : s.firstDue (.promotionSwitch p) rest) :
    exec (.promotionSwitch p) s = .next (s.runFirst rest (·.doPromoSwitch p)) := itemCommand_runs hf rfl

/-- The copied pages of the plot are frames, and no promotion of theirs is left (R235). -/
theorem doPromoSwitch_switches {p : Nat} (hd : s.due (.promotionSwitch p) = true) :
    (∀ x, x ∈ (s.doPromoSwitch p).tier.frames ↔
      x ∈ s.tier.frames ∨ ∃ q ∈ s.tier.promos, q.page = x ∧ q.copied = true ∧ s.pageHome x = p) ∧
    (s.doPromoSwitch p).tier.promos = s.tier.promos.filter fun q => !(s.pageHome q.page == p && q.copied) := by
  have hne : ¬ (s.tier.promos.filter fun q => s.pageHome q.page == p && q.copied).isEmpty = true := by
    obtain ⟨q, hq, hc⟩ := List.any_eq_true.mp hd
    rw [List.isEmpty_iff]
    exact List.ne_nil_of_mem (List.mem_filter.mpr ⟨hq, hc⟩)
  simp only [State.doPromoSwitch, if_neg hne, State.bump_tier]
  refine ⟨fun x => ?_, trivial⟩
  rw [mem_sortNat, List.mem_append]
  refine or_congr_right ?_
  simp only [List.mem_map, List.mem_filter, Bool.and_eq_true, beq_iff_eq]
  constructor
  · rintro ⟨q, ⟨hq, hh, hc⟩, rfl⟩
    exact ⟨q, hq, rfl, hc, hh⟩
  · rintro ⟨q, hq, rfl, hc, hh⟩
    exact ⟨q, ⟨hq, hh, hc⟩, rfl⟩

/-! ### Moves of an embedding shard -/

theorem embShardSwitch_runs {k : Nat} (hf : s.firstDue (.embSwitch k) rest) :
    exec (.embShardSwitch k) s = .next (s.runFirst rest (·.doEmbSwitch k)) := itemCommand_runs hf rfl

/-- The pages that a shard gives up and takes leave the tables. -/
theorem movePages_embs (s : State) (p : Nat × Nat × Nat → Bool) (plot kind a b n : Nat) :
    (((s.releasePages p).allocPages plot kind a b n).getD (s.releasePages p)).embs = s.embs := by
  have hk : Stables (fun v => Part.embs.same s v) 422212465131520 := Stables.same s rfl rfl (Or.inr rfl)
  have hr := Inv.releasePages hk (Part.same_refl .embs s) p
  have ht := Inv.getD (P := fun v => Part.embs.same s v) (o := (s.releasePages p).allocPages plot kind a b n)
    (fun v hv => Inv.allocPages (hk.sub rfl) hr hv) hr
  exact congrArg Prod.fst ht

/-- Rows of a move are still to be copied, or a step of the table is about to be applied. -/
def State.moveWaits (s : State) (k : Nat) (e : EmbTab) (m : EmbMove) : Prop :=
  m.copied < min (2 ^ embShardLog e.desc) (embRows e.desc - m.shard * 2 ^ embShardLog e.desc) ∨ ¬ m.dirty.isEmpty = true ∨
    (s.readySums k e (e.last + 1)).isSome = true

section
variable {k : Nat} {e : EmbTab} {m : EmbMove} (he : mget s.embs k = some e) (hm : e.move = some m)
include he hm

/-- A switch that falls due under the grant waits for nothing. -/
theorem not_moveWaits_of_due (hd : s.due (.embSwitch k) = true) (hg : s.grant 8 = true) : ¬ s.moveWaits k e m := by
  intro hw
  simp only [State.due, Bool.and_eq_true] at hd
  refine bne_iff_ne.mp hd.2 ?_
  simp only [State.doEmbSwitch, he, hm]
  rw [if_neg (not_not.mpr hg)]
  exact if_pos hw

/-- The move ends: the shard lies at its new place where the Hand grants it, and where it was else (R204, R339). -/
theorem doEmbSwitch_ends (hw : s.grant 8 = true → ¬ s.moveWaits k e m) :
    ∃ x, mget (s.doEmbSwitch k).embs k = some x ∧ x.move = none ∧ (s.grant 8 = true → mget x.places m.shard = some m.dest) ∧
      (s.grant 8 = false → x.places = e.places) := by
  simp only [State.doEmbSwitch, he, hm]
  by_cases hg : s.grant 8 = true
  · have hgo := hw hg
    rw [State.moveWaits] at hgo
    rw [if_neg (not_not.mpr hg), if_neg hgo]
    simp only [State.raise_embs, State.bump_embs]
    refine ⟨_, State.emb_modEmb _ ((congrArg (mget · k) (movePages_embs ..)).trans he), rfl, fun _ => mget_mput .., fun hn => ?_⟩
    simp [hg] at hn
  · rw [if_pos hg]
    exact ⟨_, State.emb_modEmb _ he, rfl, fun h => absurd h hg, fun _ => rfl⟩

end

end

end Sys2Proof.Machine
end

section
/-! The slots that meet a request or a replay (R76, R168, R175, R217). -/

namespace Sys2Proof.Machine
set_option Elab.async false

section
variable {s : State} {rest : List BItem}

/-! ### Admission -/

/-- A request that is admitted has a far context, at its home plot. -/
theorem allocate_far (s : State) (a : AdmSlot) (f : FarCtx) (w : Work) (p : Nat) :
    ∃ c k, mget (s.allocate a f w p).ledger.fars c = some { f with stub := k, home := a.plot } :=
  ⟨_, _, mget_mput ..⟩

theorem allocate_work (s : State) (a : AdmSlot) (f : FarCtx) (w : Work) (p : Nat) :
    mget (s.allocate a f w p).ledger.works f.tag = some w := mget_mput ..

theorem allocate_replays (s : State) (a : AdmSlot) (f : FarCtx) (w : Work) (p : Nat) :
    (s.allocate a f w p).ledger.replays = s.ledger.replays := rfl

/-- What a ring holds back for completions leaves where its requests begin. -/
theorem reqHead_modRing (s : State) (k r : Nat) (g : Ring → Nat) :
    (mget (s.modRing k fun q => { q with reserved := g q }).rings r).map (·.reqHead) = (mget s.rings r).map (·.reqHead) := by
  rw [State.modRing, mget_mmod]
  rw [Option.map_map]
  split
  · rfl
  · rfl

theorem reqHead_allocate (s : State) (a : AdmSlot) (f : FarCtx) (w : Work) (p r : Nat) :
    (mget (s.allocate a f w p).rings r).map (·.reqHead) = (mget s.rings r).map (·.reqHead) := by
  simp only [State.allocate, State.bump_rings]
  exact reqHead_modRing ..

/-- The far context of a request that is admitted. -/
def State.requestFar (s : State) (a : AdmSlot) (r : Nat) (q : Ring) (d : Bytes) : FarCtx :=
  let w := s.newWork a.plot q.qp d (s.reqKind d)
  let life := if s.reqKind d = 0xFF then s.lifetime else kindLifetime (s.kinds.getD (s.reqKind d) [])
  { newFar (dKind d) (s.reqKind d) (dCplRing d) r (mkTag s.step.number a.plot a.typ a.idx) (dClient d) (s.descSlots d)
      (s.step.number + life) a.plot w with
    replayable := dReplayable d, audit := dKind d == 1 && pAudit w.params, ref := s.refOf d }

/-- The state after the contexts of a request are taken and its ring is past it. -/
def State.requestPlaced (s : State) (a : AdmSlot) (r : Nat) (q : Ring) (d : Bytes) : State :=
  (s.consume r (dSlots d)).allocate a (s.requestFar a r q d) (s.newWork a.plot q.qp d (s.reqKind d)) (s.farPlot a.plot q.part)

theorem keepCopy_same (s : State) (d : Bytes) (tag : Nat) (w : Work) (p part r : Nat) :
    let t := s.keepCopy d tag w p part r
    t.ledger.fars = s.ledger.fars ∧ t.ledger.works = s.ledger.works ∧ t.rings = s.rings := by
  rw [State.keepCopy]
  split
  · exact ⟨rfl, rfl, rfl⟩
  · exact ⟨rfl, rfl, rfl⟩

/-- Of a SEARCH or GENERATE, admission leaves the contexts and the rings as they then are. -/
theorem accept_placed {a : AdmSlot} {r : Nat} {q : Ring} {d : Bytes} (hk : dKind d ≠ 4) :
    let t := s.accept a r q d
    let u := s.requestPlaced a r q d
    t.ledger.fars = u.ledger.fars ∧ t.ledger.works = u.ledger.works ∧ t.rings = u.rings := by
  obtain ⟨hfars, hworks, hrings⟩ := keepCopy_same (s.requestPlaced a r q d) d (mkTag s.step.number a.plot a.typ a.idx)
    (s.newWork a.plot q.qp d (s.reqKind d)) a.plot q.part r
  simp only [State.accept, if_neg hk]
  by_cases h1 : dKind d = 1
  · have h3 : ¬ dKind d = 3 := by omega
    simp only [if_pos h1, if_neg h3, State.sendSubs_ledger, State.sendSubs_rings]
    exact ⟨hfars, hworks, hrings⟩
  · rw [if_neg h1]
    split
    · exact ⟨hfars, hworks, hrings⟩
    · exact ⟨hfars, hworks, hrings⟩

theorem accept_admitted {a : AdmSlot} {r : Nat} {q : Ring} {d : Bytes} (hk : dKind d ≠ 4) (hq : mget s.rings r = some q) :
    s.admitted (s.accept a r q d) a r q d := by
  obtain ⟨hfars, hworks, hrings⟩ := accept_placed (s := s) (a := a) (r := r) (q := q) hk
  obtain ⟨c, k, hc⟩ := allocate_far (s.consume r (dSlots d)) a (s.requestFar a r q d) (s.newWork a.plot q.qp d (s.reqKind d))
    (s.farPlot a.plot q.part)
  refine ⟨c, _, s.newWork a.plot q.qp d (s.reqKind d), (congrArg (mget · c) hfars).trans hc, rfl, rfl, rfl, rfl, rfl, rfl, rfl, rfl, rfl, ?_, ?_⟩
  · exact (congrArg (mget · _) hworks).trans (allocate_work ..)
  · rw [hrings, State.requestPlaced, reqHead_allocate]
    rw [State.consume, State.modRing, mget_mmod_self _ hq]
    rfl

/-! ### The slot of a request -/

/-- A slot passes a request that every row of R168 lets in on to its pool (GENERATE) or admits it. -/
theorem serveRequest_passes {a : AdmSlot} {r : Nat} {q : Ring} {d : Bytes} (h : s.admits a r q d) (hk : dKind d = 1 ∨ dKind d = 3)
    (hc : dKind d = 3 → s.cacheOk q.part (sl d 64 (dBody d)) = true) :
    s.serveRequest a r = if dKind d = 3 then s.acceptGen a r q d else s.accept a r q d := by
  obtain ⟨-, -, -, -, hq, hhalt, hlap, hn, hn', havail, hbody, hd, hkind, hover, hcpl, hbreach, hsearch, hgen, hring, hslot, hsize, hlack,
    hstore, hnear, hfar⟩ := h
  obtain ⟨c, hcq, hpart⟩ := Option.map_eq_some_iff.mp hcpl
  have hrefusal : (if dKind d = 1 then s.searchRefusal (s.searchReq d) (s.searchBody d).merge (dStamp d)
      else if dKind d = 3 then s.genRefusal d else none) = none := by
    rcases hk with hk | hk
    · rw [if_pos hk, hsearch hk]
    · rw [if_neg (by omega), if_pos hk, (hgen hk).1]
  have hlapNot : ¬ 2 ^ q.log2 < ringDiff q.sTail q.reqHead := by omega
  have hslots : ¬ (dSlots (s.ringSlots 0 r q.log2 q.reqHead 1) = 0 ∨ 8192 < dSlots (s.ringSlots 0 r q.log2 q.reqHead 1) ∨
      2 ^ q.log2 < dSlots (s.ringSlots 0 r q.log2 q.reqHead 1)) := by omega
  have hopen : ¬ (q.halted = true ∨ ringDiff q.sTail q.reqHead = 0) := by
    rw [hhalt]
    simp only [Bool.false_eq_true, false_or]
    omega
  have hbodyNot : ¬ 64 * (dSlots (s.ringSlots 0 r q.log2 q.reqHead 1) - 1) < dBody (s.ringSlots 0 r q.log2 q.reqHead 1) := by omega
  have hkindUpd : ¬ (s.step.seedling = true ∧ dKind (s.ringSlots 0 r q.log2 q.reqHead 1) = 2) := by omega
  have hkindOk : ¬ (dKind (s.ringSlots 0 r q.log2 q.reqHead 1) ≠ 1 ∧ dKind (s.ringSlots 0 r q.log2 q.reqHead 1) ≠ 3 ∧
      dKind (s.ringSlots 0 r q.log2 q.reqHead 1) ≠ 4) := by omega
  simp only [State.serveRequest, hq, ← hd, if_neg hopen, if_neg hlapNot, if_neg hslots, if_neg (Nat.not_lt.mpr havail), if_neg hbodyNot,
    if_neg hkindUpd, if_neg hkindOk, hover, hcq, Option.map_some, Option.getD_some, hpart, hbreach, hrefusal, Bool.false_eq_true, if_false,
    not_true_eq_false]
  have hlarge : ¬ 2 ^ c.log2 < s.descSlots d := Nat.not_lt.mpr (hsize c hcq)
  have hcache : ¬ (dKind d = 3 ∧ ¬ s.cacheOk q.part (sl d 64 (dBody d)) = true) := fun hg => hg.2 (hc hg.1)
  simp only [hring, hslot, hlack, hstore, hnear, hfar, not_true_eq_false, and_false, if_false, if_neg hlarge, if_neg hcache,
    Bool.false_eq_true, or_self]

theorem sl_take (b : Bytes) {n o k : Nat} (h : o + k ≤ n) : sl (b.take n) o k = sl b o k := by
  rw [sl, sl, List.drop_take, List.take_take, Nat.min_eq_left (by omega)]

/-- The cache that a GENERATE names stands in the first bytes of its body, which the body holds. -/
theorem cacheOk_body {p : Nat} {d : Bytes} (hk : dKind d = 3) (ho : bodyOverrun d = false) :
    s.cacheOk p (sl d 64 (dBody d)) = s.cacheOk p (d.drop 64) := by
  have hlen : 96 ≤ dBody d := by
    simp [bodyOverrun, hk] at ho
    omega
  have hop : gCacheOp (sl d 64 (dBody d)) = gCacheOp (d.drop 64) := congrArg leNat (sl_take _ (by omega))
  have hcache : gCache (sl d 64 (dBody d)) = gCache (d.drop 64) := congrArg leNat (sl_take _ (by omega))
  have hmodel : gModel (sl d 64 (dBody d)) = gModel (d.drop 64) := congrArg leNat (sl_take _ (by omega))
  rw [State.cacheOk, hop, hcache, hmodel, State.cacheOk]

theorem evict_fits {p need keep : Nat} (n : Nat) (h : s.cacheUsed p + need ≤ 8589934592) : s.evict p need keep (n + 1) = s := by
  rw [State.evict]
  exact if_pos h

/-- A GENERATE whose block fits the pool is admitted with no cache evicted (R219). -/
theorem acceptGen_fits {a : AdmSlot} {r : Nat} {q : Ring} {d : Bytes}
    (h : s.cacheUsed q.part + s.blockBytes q.part (s.modelImage (gModel (d.drop 64))) (ownBlocks (d.drop 64)) ≤ 8589934592) :
    s.acceptGen a r q d = s.accept a r q d := by
  simp only [State.acceptGen, evict_fits 63 h, ite_self]
  rw [if_neg (fun hn => absurd h (Nat.not_le.mpr hn.2.2)), if_neg (Nat.not_lt.mpr h)]

/-- A slot that meets a request has its kind (R76, R217). -/
theorem admitKind_request {e r : Nat} {q : Ring} {d : Bytes} (h : s.admits (admSlotOf e) r q d) (hk : dKind d = 1 ∨ dKind d = 3) :
    s.admitKind e r = dKind d := by
  obtain ⟨hserves, htyp, hslot, hreplay, hq, hhalt, -, hn, -, havail, -, -, hkind, -⟩ := h
  have hhead : s.hasHead r q = true := by
    simp only [State.hasHead, hhalt, Bool.not_false, Bool.true_and, Bool.and_eq_true, bne_iff_ne, Bool.or_eq_true, decide_eq_true_eq]
    omega
  have hnot : ¬ (¬ s.admitsRequests = true ∨ (admSlotOf e).typ ≠ 0 ∨ ¬ s.slotServes (admSlotOf e) r = true) := by
    simp [hserves, htyp, hslot]
  simp only [State.admitKind, if_neg hnot, hreplay, Option.isSome_none, Bool.false_eq_true, if_false, hq, hkind, hhead, hk, and_self, if_true]

/-- Such a slot admits the request. -/
theorem admitOne_admits {e r : Nat} {q : Ring} {d : Bytes} (h : s.admits (admSlotOf e) r q d) (hk : dKind d = 1 ∨ dKind d = 3)
    (hfit : dKind d = 3 →
      s.cacheUsed q.part + s.blockBytes q.part (s.modelImage (gModel (d.drop 64))) (ownBlocks (d.drop 64)) ≤ 8589934592) :
    s.admitted (s.admitOne e r) (admSlotOf e) r q d := by
  obtain ⟨hserves, htyp, hslot, hreplay, hq, -, -, -, -, -, -, -, -, hover, -, -, -, hgen, -⟩ := id h
  have hone : s.admitOne e r = s.serveRequest (admSlotOf e) r := by
    simp [State.admitOne, hserves, htyp, hslot, hreplay]
  have hserve := serveRequest_passes h hk fun h3 => (cacheOk_body h3 hover).trans (hgen h3).2
  have haccept : s.admitOne e r = s.accept (admSlotOf e) r q d := by
    rw [hone, hserve]
    split
    case isTrue h3 => exact acceptGen_fits (hfit h3)
    case isFalse => rfl
  rw [haccept]
  exact accept_admitted (by omega) hq

theorem search_runs {e r : Nat} {q : Ring} {d : Bytes} (hf : s.firstDue (.accept e r) rest) (h : s.admits (admSlotOf e) r q d)
    (hk : dKind d = 1) : exec .search s = .next (s.runFirst rest (·.admitOne e r)) :=
  command_runs hf (beq_iff_eq.mpr ((admitKind_request h (.inl hk)).trans hk)) rfl

theorem generate_runs {e r : Nat} {q : Ring} {d : Bytes} (hf : s.firstDue (.accept e r) rest) (h : s.admits (admSlotOf e) r q d)
    (hk : dKind d = 3) : exec .generate s = .next (s.runFirst rest (·.admitOne e r)) :=
  command_runs hf (beq_iff_eq.mpr ((admitKind_request h (.inr hk)).trans hk)) rfl

/-! ### The slot of a replay -/

theorem replay_runs {e r : Nat} {x : Replay} (hf : s.firstDue (.accept e r) rest) (hk : s.admitKind e r = 9)
    (hx : s.replayFor (admSlotOf e) r = some x) : exec (.replay x.tag true) s = .next (s.runFirst rest (·.admitOne e r)) :=
  command_runs hf (by simp [hk, hx]) rfl

/-- A slot that a replay takes admits it. -/
theorem admitOne_replay {e r : Nat} {x : Replay} (hk : s.admitKind e r = 9) (hx : s.replayFor (admSlotOf e) r = some x) :
    s.admitOne e r = s.admitReplay (admSlotOf e) x := by
  have hgo : ¬ (¬ s.admitsRequests = true ∨ (admSlotOf e).typ ≠ 0 ∨ ¬ s.slotServes (admSlotOf e) r = true) := by
    intro hn
    rw [State.admitKind, if_pos hn] at hk
    cases hk
  simp only [not_or, not_not] at hgo
  obtain ⟨hserves, htyp, hslot⟩ := hgo
  simp [State.admitOne, hserves, htyp, hslot, hx]

/-- What ends with an early completion is no replay that waits. -/
theorem writeCpl_replays (s : State) (r n : Nat) (h : CplHead) (b : Bytes) : (s.writeCpl r n h b).ledger.replays = s.ledger.replays :=
  congrArg Prod.snd (Inv.writeCpl (Stables.same (f := .waits) s rfl rfl (Or.inr rfl)) (Part.same_refl .waits s) r n h b)

theorem countStatus_replays (s : State) (k c : Nat) : (s.countStatus k c).ledger.replays = s.ledger.replays :=
  congrArg Prod.snd (Inv.countStatus (Stables.same (f := .waits) s rfl rfl (Or.inr rfl)) (Part.same_refl .waits s) k c)

theorem returnRoot_replays (s : State) (t : Nat) : (s.returnRoot t).ledger.replays = s.ledger.replays :=
  congrArg Prod.snd (Inv.returnRoot (Stables.same (f := .waits) s rfl rfl (Or.inr rfl)) (Part.same_refl .waits s) t)

theorem sendEmptyLists_replays (s : State) (w : Work) (st : Nat) : (s.sendEmptyLists w st).ledger.replays = s.ledger.replays :=
  congrArg Prod.snd (Inv.sendEmptyLists (Stables.same (f := .waits) s rfl rfl (Or.inr rfl)) (Part.same_refl .waits s) w st)

theorem useGrant_replays (s : State) (g : Nat) : (s.useGrant g).ledger.replays = s.ledger.replays :=
  congrArg Prod.snd (Inv.useGrant (Stables.same (f := .waits) s rfl rfl (Or.inr rfl)) (Part.same_refl .waits s) g)

theorem freeReq_replays (s : State) (t : Nat) : (s.freeReq t).ledger.replays = s.ledger.replays := rfl

theorem keepAudit_replays (s : State) (t c n : Nat) (f : FarCtx) (w : Work) : (s.keepAudit t c n f w).ledger.replays = s.ledger.replays := by
  simp only [State.keepAudit]
  cases (s.modFar c fun f => { f with owner := 1, phase := 0x0C, reserved := n }).stubOf t with
  | none => rfl
  | some k => rfl

theorem completeEmpty_replays (s : State) (t : Nat) (f : FarCtx) (st : Nat) :
    (s.completeEmpty t f st).ledger.replays = s.ledger.replays := by
  simp only [State.completeEmpty]
  split
  · rw [keepAudit_replays, writeCpl_replays, countStatus_replays]
  · rw [freeReq_replays, returnRoot_replays]
    split
    · split
      · rw [sendEmptyLists_replays, countStatus_replays]
      · rw [countStatus_replays]
    · rw [writeCpl_replays, countStatus_replays]

/-- The far context of a replay. -/
def State.replayFar (s : State) (a : AdmSlot) (x : Replay) : FarCtx :=
  let w := { x.copy.work with plot := a.plot, orig := x.tag, plan := s.planDigest }
  { newFar x.kind x.kindId x.cplRing x.copy.ring (mkTag s.step.number a.plot 0 a.idx) x.client x.reserved
      (s.step.number + kindLifetime (s.kinds.getD x.kindId [])) a.plot w with
    replayable := true, replayed := true, audit := x.kind == 1 && pAudit w.params }

/-- The state after the contexts of a replay are taken; it waits no more. -/
def State.replayPlaced (s : State) (a : AdmSlot) (x : Replay) : State :=
  let w := { x.copy.work with plot := a.plot, orig := x.tag, plan := s.planDigest }
  let s1 := { s with ledger := { s.ledger with replays := s.ledger.replays.filter fun y => y.tag != x.tag } }
  let s2 := (s1.modRing x.cplRing fun q => { q with reserved := q.reserved - x.reserved }).allocate a (s.replayFar a x)
    { w with walk := if x.kind = 1 then s.walkPlots x.copy.work.posted else [] } ((s.farPlotUp a.plot (s.ringPart x.copy.ring)).getD a.plot)
  ((({ s2 with caches := s2.holdCache (mkTag s.step.number a.plot 0 a.idx) true }).bump 0x4021 4 1).useGrant 7).raise 0x4018 (locPlot a.plot) 0

theorem replayPlaced_replays (a : AdmSlot) (x : Replay) :
    (s.replayPlaced a x).ledger.replays = s.ledger.replays.filter fun y => y.tag != x.tag := by
  simp only [State.replayPlaced, State.raise_ledger, useGrant_replays, State.bump_ledger, allocate_replays, State.modRing_ledger]

theorem useGrant_fars (s : State) (g : Nat) : (s.useGrant g).ledger.fars = s.ledger.fars :=
  Inv.useGrant (Stables.same (f := .fars) s rfl rfl (Or.inr rfl)) (Part.same_refl .fars s) g

theorem replayPlaced_far (a : AdmSlot) (x : Replay) :
    ∃ c k, mget (s.replayPlaced a x).ledger.fars c = some { s.replayFar a x with stub := k, home := a.plot } := by
  simp only [State.replayPlaced, State.raise_ledger, useGrant_fars, State.bump_ledger]
  exact allocate_far ..

/-- A replay is admitted, and ends at once where a snapshot of it is gone (R175). -/
theorem admitReplay_eq (a : AdmSlot) (x : Replay) : s.admitReplay a x =
    match ((x.copy.work.posted.ents.zip x.copy.work.posted.srcs).filter fun e => e.2.isLocal).findSome? fun e => s.staleEvent true e.1 with
    | some ev => ((s.replayPlaced a x).raise ev (locPlot a.plot) 0).completeEmpty (mkTag s.step.number a.plot 0 a.idx) (s.replayFar a x)
        (mkStatus 5 0)
    | none => if x.kind = 1 then (s.replayPlaced a x).sendSubs x.client (mkTag s.step.number a.plot 0 a.idx) true x.copy.work.posted
        else s.replayPlaced a x := rfl

/-- A replay that is admitted waits no more. -/
theorem admitReplay_replays (a : AdmSlot) (x : Replay) :
    (s.admitReplay a x).ledger.replays = s.ledger.replays.filter fun y => y.tag != x.tag := by
  rw [admitReplay_eq]
  split
  · rw [completeEmpty_replays, State.raise_ledger, replayPlaced_replays]
  · rw [apply_ite State.ledger, State.sendSubs_ledger, ite_self, replayPlaced_replays]

/-- It starts again from its copy where every snapshot is still served. -/
theorem admitReplay_starts (a : AdmSlot) (x : Replay)
    (hs : ∀ y ∈ x.copy.work.shards, s.staleEvent true (y.id, y.epoch, y.usn) = none) :
    ∃ c k, mget (s.admitReplay a x).ledger.fars c = some { s.replayFar a x with stub := k, home := a.plot } := by
  have hnone : (((x.copy.work.posted.ents.zip x.copy.work.posted.srcs).filter fun e => e.2.isLocal).findSome? fun e =>
      s.staleEvent true e.1) = none := by
    rw [List.findSome?_eq_none_iff]
    intro e he
    obtain ⟨y, hy, heq⟩ := List.mem_map.mp (List.of_mem_zip (List.mem_of_mem_filter he)).1
    rw [← heq]
    exact hs y hy
  obtain ⟨c, k, hc⟩ := replayPlaced_far (s := s) a x
  refine ⟨c, k, ?_⟩
  rw [admitReplay_eq, hnone]
  dsimp only
  rw [apply_ite State.ledger, State.sendSubs_ledger, ite_self]
  exact hc

/-- A replay that ends without running waits no more. -/
theorem failReplay_replays (s : State) (x : Replay) :
    (s.failReplay x).ledger.replays = s.ledger.replays.filter fun y => y.tag != x.tag := by
  rw [State.failReplay, State.endReplay, countStatus_replays, writeCpl_replays]

/-- REPLAY whose copy cannot be read fails the replay that it names (R175). -/
theorem replay_fails {x : Replay} (hx : s.ledger.replays.filter (fun r => r.tag == x.tag) = [x]) :
    exec (.replay x.tag false) s = .next (s.failReplay x) := by
  show Host.Outcome.next ((s.ledger.replays.filter fun r => r.tag == x.tag).foldl State.failReplay s) = _
  rw [hx]
  rfl

end

end Sys2Proof.Machine
end

section
/-! The commands of the boundary phase run their items (R25). -/

namespace Sys2Proof.Machine
set_option Elab.async false

/-- Settles O35: each command runs its item, which makes its change of the state that the item is run on. -/
theorem agendaCommandsRunTheirItems : Obligations.AgendaCommandsRunTheirItems := by
  intro s rest b
  refine ⟨planDrainStart_runs, ?planSetActivate, fun _ => modelDrainStart_runs, ?modelActivate, fun _ => gateListTakeover_runs,
    fun _ => tenantDrainStart_runs, ?tenantSwitch, fun _ => tenantScrubEnd_runs, ?plotFaultLimit, ?sealFreeze, ?sealSwitch,
    ?replicaEpochSwitch, fun _ _ _ _ => deltaOpen_runs, ?compactionChoose, ?compactionSwitch, ?epochRelease, ?loadWindowEnd,
    ?placementWindowEnd, ?pageDemote, ?promotionSwitch, ?embShardSwitch, ?rejoinLoaded, ?rejoinAdmit, ?slots, ?replay, ?replayFails⟩
  case planSetActivate =>
    intro ps hf hs
    obtain ⟨⟨hplan, hat, hstaged, harmed, hdraining, hretries⟩, hfull⟩ := doPlanActivate_runsSet (s := b) hs hf.2
    exact ⟨planSetActivate_runs hf, _, rfl, hplan, hat, hstaged, harmed, hdraining, hretries, hfull⟩
  case modelActivate =>
    intro k m img hf hm hi
    exact ⟨modelActivate_runs hf, _, rfl, doModelActivate_models (s := b) hm hi⟩
  case tenantSwitch =>
    intro p w hf hw
    have hat : w.at_ ≤ s.step.number := by
      have hd : s.tenantSwitches p = true := hf.2
      simpa [State.tenantSwitches, hw] using hd
    exact ⟨tenantSwitch_runs hf, _, rfl, doTenantSwitch_switches (s := b) hw hat⟩
  case plotFaultLimit =>
    intro p hp hf
    exact ⟨plotFaultLimit_reports hp hf, fun hg => ⟨plotFaultLimit_runs hf, _, rfl, doPlotLimit_units (s := b) hp hf.2 hg⟩⟩
  case sealFreeze =>
    intro i h d n cb hf hi ho hn hc hl
    obtain ⟨g, j, hg⟩ := doSealFreeze_freezes (s := b) hf.2 hi ho hn hc hl
    exact ⟨sealFreeze_runs hf, _, g, j, rfl, hg⟩
  case sealSwitch =>
    intro i h j v hf hi hj hl he hv
    obtain ⟨g, hg⟩ := doSealSwitch_switches (s := b) hf.2 hi hj hl he hv
    exact ⟨sealSwitch_runs hf, _, g, rfl, hg⟩
  case replicaEpochSwitch =>
    intro i h r v hf hi hr out hv
    obtain ⟨g, hg⟩ := doReplicaSwitch_switches (s := b) hf.2 hi hr out rfl hv
    exact ⟨replicaEpochSwitch_runs hf, _, g, rfl, hg⟩
  case compactionChoose =>
    intro i h ins out hf hi hins hout
    exact ⟨compactionChoose_runs hf, doCompactChoose_chooses (s := b) hf.2 hi hins hout⟩
  case compactionSwitch =>
    intro i h j v hf hi hj hl he hv
    obtain ⟨g, hg⟩ := doCompactSwitch_switches (s := b) hf.2 hi hj hl he hv
    exact ⟨compactionSwitch_runs hf, _, g, rfl, hg⟩
  case epochRelease =>
    intro i n h hf hi
    exact ⟨epochRelease_runs hf, doEpochRelease_releases (s := b) hf.2 hi⟩
  case loadWindowEnd =>
    intro hf
    exact ⟨loadWindowEnd_runs hf, _, rfl, doLoadWindow_restarts (s := b) hf.2⟩
  case placementWindowEnd =>
    intro hf
    exact ⟨placementWindowEnd_runs hf, _, rfl, doPlaceWindow_restarts (s := b) hf.2⟩
  case pageDemote =>
    intro hf
    exact ⟨pageDemote_runs hf, _, rfl, doDemote_demotes (s := b) hf.2⟩
  case promotionSwitch =>
    intro p hf
    exact ⟨promotionSwitch_runs hf, _, rfl, doPromoSwitch_switches (s := b) hf.2⟩
  case embShardSwitch =>
    intro k e m hf he hm
    have hw : s.grant 8 = true → ¬ s.moveWaits k e m := not_moveWaits_of_due he hm hf.2
    exact ⟨embShardSwitch_runs hf, doEmbSwitch_ends (s := b) he hm hw⟩
  case rejoinLoaded =>
    intro i h hf hi
    exact ⟨rejoinLoaded_runs hf, doRejoinLoaded_marks (s := b) hf.2 hi⟩
  case rejoinAdmit =>
    intro hf
    have hat : s.comN 0xB040 6 = s.step.number := by
      have hd : s.due .rejoinAdmit = true := hf.2
      simp only [State.due, Bool.and_eq_true] at hd
      exact eq_of_beq hd.1
    exact ⟨rejoinAdmit_runs hf, fun i h hlt hi => doRejoinAdmit_admits (s := b) hat hlt hi⟩
  case slots =>
    intro e r q d hf h
    have hb : b.admits (admSlotOf e) r q d := h
    constructor
    · intro hk
      exact ⟨search_runs hf h hk, admitOne_admits (s := b) hb (.inl hk) fun h3 => absurd (hk.symm.trans h3) (by decide)⟩
    · intro hk hfit
      exact ⟨generate_runs hf h hk, admitOne_admits (s := b) hb (.inr hk) fun _ => hfit⟩
  case replay =>
    intro e r x hf hk hx
    have hb : b.admitOne e r = b.admitReplay (admSlotOf e) x := admitOne_replay (s := b) hk hx
    refine ⟨replay_runs hf hk hx, _, hb, admitReplay_replays (s := b) .., fun hs => ?_⟩
    obtain ⟨c, k, hc⟩ := admitReplay_starts (s := b) (admSlotOf e) x hs
    exact ⟨c, _, hc, rfl, rfl, rfl, rfl, rfl, rfl, rfl⟩
  case replayFails =>
    intro x hx
    exact ⟨_, replay_fails hx, rfl, failReplay_replays s x⟩

end Sys2Proof.Machine
end

section
/-! CERTIFY, ROOT_REQUEST, ROOT_QUEUE_DRAIN and AUDIT_PASS (R70, R110 to R116, R128, R159, R166). -/

namespace Sys2Proof.Machine
set_option Elab.async false

/-! ### Certificates (R110, R111) -/

section
variable {s : State} {tag : Nat} {f : FarCtx} {w : Work} (hr : s.atHome tag f w) (hp : f.phase = 0x0A) (hc : w.certSet = [])
include hr hp hc

theorem certify_no_records (hn : carriesRecords (w.status % 256) = false) :
    exec (.certify tag .ok) s = .next (s.modWork tag fun y => { y with certSet := [0] }) := by
  refine congrArg Host.Outcome.next ((State.during_home hr hp).trans ?_)
  simp [hc, hn]

/-- A request whose every record has its certificate gets them behind the header and its tag, in list order. -/
theorem certify_records {certs : List Bytes} (hn : carriesRecords (w.status % 256) = true)
    (hall : ((w.final.zipIdx).map fun e => s.certOf w e.2 e.1 (digest (setHeader w tag (s.workDim w).2))) = certs.map some) :
    exec (.certify tag .ok) s = .next (s.modWork tag fun y => { y with
      certSet := setHeader w tag (s.workDim w).2 ++ tagOf (s.sessionKey w.qp) (setHeader w tag (s.workDim w).2) "OC4-CERT-SET" ++
        certs.flatten }) := by
  have hnone : (certs.map some).any (·.isNone) = false := by simp
  have hids : (certs.map some).filterMap id = certs := by simp [List.filterMap_map]
  refine congrArg Host.Outcome.next ((State.during_home hr hp).trans ?_)
  simp only [State.checkIn_ok, hc, hn, hall, hnone, hids, List.isEmpty_nil, not_true_eq_false, Bool.false_eq_true, if_false]

end

/-! ### Roots (R70, R159, R166) -/

/-- ROOT_REQUEST leaves the root of the shard at the USN of the request's admission, and which epoch it belongs to. -/
theorem rootRequest_runs {s : State} {tag i : Nat} {f : FarCtx} {w : Work} {h : Shard} (hr : s.atHome tag f w) (hp : f.phase = 0x12)
    (hslot : s.slotOf (u32 w.body 0) = some i) (hi : mget s.shards i = some h) :
    exec (.rootRequest tag .ok) s = .next (s.modWork tag fun y => { y with
      merged := true,
      replay := rootBytes ⟨i, h.id, (h.epochAt w.usn).num, y.usn, 3, snapRoot h (h.epochAt w.usn) y.usn, true⟩,
      roots := [(i, (h.epochAt w.usn).num, y.usn)] }) := by
  refine congrArg Host.Outcome.next ((State.during_home hr hp).trans ?_)
  simp [hslot, hi]

/-- One root record that waits is written where the ring has room for it. -/
theorem rootQueueDrain_writes {s : State} {r : RootRec} {q : Ring} (hq : s.ledger.rootQ = [r]) (hok : r.ok = true)
    (hring : mget s.rings (s.actN 0x3030 2) = some q) (hroom : 2 ≤ q.freeSlots) :
    exec .rootQueueDrain s = .next (({ s with ledger := { s.ledger with rootQ := [] } }).writeCpl (s.actN 0x3030 2) 0 rootHead (rootBytes r)) := by
  have hgo : ¬ (q.freeSlots < 2 ∨ ¬ r.ok = true) := not_or.mpr ⟨Nat.not_lt.mpr hroom, not_not.mpr hok⟩
  simp only [exec, execRootQueueDrain, hq, List.length_singleton, State.drainRoots, hring, if_neg hgo]

/-! ### Selections from a list (R97, R98, R101) -/

theorem mem_sortBy {α : Type} (lt : α → α → Bool) (x : α) (l : List α) : x ∈ sortBy lt l ↔ x ∈ l := by
  rw [sortBy, mem_foldl_insertBy]
  simp

theorem mem_of_mem_dedupBy {α : Type} {key : α → Nat} {x : α} {l : List α} : ∀ {seen : List Nat}, x ∈ dedupBy key seen l → x ∈ l := by
  induction l with
  | nil => exact fun hx => hx
  | cons y l ih =>
    intro seen hx
    rw [dedupBy] at hx
    split at hx
    · exact List.mem_cons_of_mem y (ih hx)
    · exact (List.mem_cons.mp hx).elim (fun e => e ▸ List.mem_cons_self) fun hx => List.mem_cons_of_mem y (ih hx)

/-- What the removal of duplicates leaves is of the list, but for the mark of a discarded copy. -/
theorem mem_of_mem_removeDups {pos node : Nat → Nat} {l : List Cand} {c : Cand} (hc : c ∈ removeDups pos node l) :
    c ∈ l ∨ { c with dup := false } ∈ l := by
  obtain ⟨d, hd, rfl⟩ := List.mem_map.mp hc
  have hmem : d ∈ l := (mem_sortBy ..).mp (mem_of_mem_dedupBy hd)
  cases hdup : d.dup with
  | true => exact .inl (by rw [Bool.true_or, ← hdup]; exact hmem)
  | false => exact .inr (by rw [← hdup]; exact hmem)

theorem mem_of_mem_selectBy {α : Type} {key : α → Nat} {l : List α} {k : Nat} {c : α} (hc : c ∈ selectBy key l k) : c ∈ l := by
  obtain ⟨x, -, hx⟩ := List.mem_filterMap.mp hc
  exact List.mem_of_find?_eq_some hx

/-! ### Audit passes (R121, R128 to R130) -/

@[simp] theorem State.checkAlone_ok (s : State) (p c l i k : Nat) : s.checkAlone .ok p c l i k = (s, true) := rfl

/-- Every vector that an audit scores, and the exact set that its last pass selects. -/
def State.auditVectors (s : State) (a : Audit) : List Cand := a.work.shards.flatMap fun x => s.auditShard a.work x (s.workDim a.work).1
def Audit.posOf (a : Audit) (id : Nat) : Nat := a.work.shards.findIdx fun x => x.id == id
def State.auditUniq (s : State) (a : Audit) : List Cand := removeDups a.posOf (fun _ => 0) (s.auditVectors a)
def State.auditExact (s : State) (a : Audit) : List Cand :=
  selectBy (fun c => orderKey (exactPrimary c.exact) (a.posOf c.shard) c.handle) (s.auditUniq a) a.work.k

/-- The exact set holds audited vectors. -/
theorem auditExact_audited {s : State} {a : Audit} : ∀ c ∈ s.auditExact a, c ∈ s.auditVectors a ∨ { c with dup := false } ∈ s.auditVectors a :=
  fun _ hc => mem_of_mem_removeDups (mem_of_mem_selectBy hc)

/-- An audited vector whose SUMSQ fails (R121). -/
def State.auditBad (s : State) (a : Audit) : Bool :=
  a.work.shards.any fun x => ((s.entryOf x).map fun e => (s.auditVectors a).any fun c => c.shard == x.id && sumsqBad e.1 c.handle).getD false

theorem auditBad_eq_false {s : State} {a : Audit} (hb : ∀ x ∈ a.work.shards, ∀ h e, s.entryOf x = some (h, e) →
    ∀ c ∈ s.auditVectors a, c.shard = x.id → sumsqBad h c.handle = false) : s.auditBad a = false := by
  refine List.any_eq_false.mpr fun x hx => ?_
  cases he : s.entryOf x with
  | none => simp
  | some e => simpa using hb x hx e.1 e.2 he

section
variable {s : State} {tag : Nat} {a : Audit} (ha : s.ledger.audits.find? (fun a => a.tag == tag) = some a) (hin : s.inAudit = true)
  (hq : ∀ x ∈ a.work.shards, x.q ≠ []) (hb : s.auditBad a = false)
include ha hin hq hb

/-- A pass whose checks pass goes by whether the audit is done: its scan is kept, or it ends with the exact set. -/
theorem auditPass_checks (hs : s.step.seedling = false) {all : List Cand} {scan : State × Audit} (hall : s.auditVectors a = all)
    (hscan : s.auditScan a all = scan) : exec (.auditPass tag .ok ⟨.ok, .ok, .ok⟩ .ok) s =
    if ¬ s.audited scan.2 all = true then
      .next { scan.1 with ledger := { scan.1.ledger with audits := scan.1.ledger.audits.map fun x => if x.tag == tag then scan.2 else x } }
    else .next (((scan.1.bump 0x3012 1 (winnowPasses (s.auditUniq a).length a.work.k)).bump 0x3012 2
        (all.length - (s.auditUniq a).length)).endAudit a 0 all.length (s.auditExact a)) := by
  have hempty : ¬ (a.work.shards.any fun x => x.q.isEmpty) = true := by simpa using hq
  have hvectors : (a.work.shards.flatMap fun x => s.auditShard a.work x (s.workDim a.work).1) = s.auditVectors a := rfl
  subst hall hscan
  unfold State.auditBad at hb
  simp only [exec, execAuditPass, ha, hvectors, hb, hs, hempty, hin, not_true_eq_false, Bool.false_eq_true, if_false, State.checkAlone_ok]
  rfl

end

/-- Settles O20: the certificate set, the two root commands, and an audit pass that goes on or ends. -/
theorem certificatesAndRootsComplete : Obligations.CertificatesAndRootsComplete := by
  refine ⟨fun s tag f w hr hp hc => ⟨certify_no_records hr hp hc, fun hn certs hall => certify_records hr hp hc hn hall⟩,
    fun s tag i f w h hr hp hslot hi => ⟨_, rootRequest_runs hr hp hslot hi, rfl, State.workOf_modWork _ hr.2.2.1⟩,
    fun s r q hq hok hring hroom => rootQueueDrain_writes hq hok hring hroom, fun s tag a ha hs hin hq => ?_⟩
  intro all scan hbad
  have hrun := auditPass_checks ha hin hq (auditBad_eq_false hbad) hs (all := all) (scan := scan) rfl rfl
  exact ⟨fun hd => hrun.trans (if_pos (Bool.eq_false_iff.mp hd)),
    fun hd => ⟨_, _, s.auditExact a, hrun.trans (if_neg (not_not.mpr hd)), auditExact_audited⟩⟩

end Sys2Proof.Machine
end

section
/-! SEAL_BUILD, COMPACTION_BUILD, SEAL_WRITE and SEGMENT_IMAGE (R62, R146 to R149, R237, R279). -/

namespace Sys2Proof.Machine
set_option Elab.async false

/-! ### Builds (R146, R149, R237) -/

/-- A build at stage 1 goes on at the owner, with a slice of the output's plot. -/
theorem build_goes_on {s : State} {h : Shard} {j : SealJob} (ho : h.owner = true) (hs : j.stage = 1) (hsl : s.hasSlice (j.out % 16) 5 = true) :
    ¬ (j.stage ≠ 1 ∨ ¬ h.owner = true ∨ ¬ s.hasSlice (j.out % 16) 5 = true) := by simp [ho, hs, hsl]

section
variable {s : State} {i : Nat} {h : Shard} {j : SealJob} (hi : mget s.shards i = some h) (ho : h.owner = true) (hs : j.stage = 1)
  (hsl : s.hasSlice (j.out % 16) 5 = true)
include hi ho hs hsl

section
variable {ps : List (Nat × List Nat)} (hj : h.sealJob = some j)
include hj

/-- A seal that the slices of the step do not finish keeps the part they built. -/
theorem sealBuild_part (chk : Chk) (hb : j.built + s.buildRoom j (s.sealImage h j ps) < (s.sealImage h j ps).length) :
    exec (.sealBuild i chk ps) s = .next (s.buildPart i false j (s.sealImage h j ps)) := by
  simp only [exec, execSealBuild, hi, hj]
  exact (if_neg (build_goes_on ho hs hsl)).trans (if_pos hb)

section
variable (hb : (s.sealImage h j ps).length ≤ j.built + s.buildRoom j (s.sealImage h j ps))
include hb

/-- A seal that is finished, checks and finds its place has its image (stage 2 of R146). -/
theorem sealBuild_stands (hok : h.imageOk (s.sealImage h j ps) j.out = true)
    (hp : ((s.buildPart i false j (s.sealImage h j ps)).placeSeg i (s.sealImage h j ps)).isSome = true) :
    exec (.sealBuild i .ok ps) s = .next ((s.buildPart i false j (s.sealImage h j ps)).modJob i false fun k =>
      some { k with stage := 2, image := s.sealImage h j ps }) := by
  simp only [exec, execSealBuild, hi, hj]
  refine (if_neg (build_goes_on ho hs hsl)).trans ((if_neg (Nat.not_lt.mpr hb)).trans ?_)
  simp [Chk.fault, hok, hp, buildOutcome, State.raiseBuild]

/-- A seal whose image fails its check, and so its repeat, begins again. -/
theorem sealBuild_fails (hok : h.imageOk (s.sealImage h j ps) j.out = false) :
    exec (.sealBuild i .ok ps) s = .next ((((s.buildPart i false j (s.sealImage h j ps)).evU 0x306A locField (some (i, h.vis)) 0).evU
      0x306A locField (some (i, h.vis)) 0).modJob i false fun k => some { k with stage := 0, image := [], built := 0 }) := by
  simp only [exec, execSealBuild, hi, hj]
  refine (if_neg (build_goes_on ho hs hsl)).trans ((if_neg (Nat.not_lt.mpr hb)).trans ?_)
  simp [Chk.fault, hok, State.raiseBuild]

end

end

/-- The epoch of a compaction's output: beside a seal that runs it is the one after the seal's. -/
def Shard.compNum (h : Shard) : Nat := h.cur.num + (if h.sealJob.isSome then 2 else 1)
/-- The compaction with the offsets of its output, and the image of it. -/
def Shard.compJob (h : Shard) (j : SealJob) : SealJob := { j with offs := h.compMap j }
def Shard.compOutput (h : Shard) (j : SealJob) : Bytes := compImage h (h.compJob j) h.compNum

section
variable (hj : h.comp = some j)
include hj

/-- A compaction that the slices of the step do not finish keeps the part they built. -/
theorem compactionBuild_part (chk : Chk) (hb : j.built + s.buildRoom j (h.compOutput j) < (h.compOutput j).length) :
    exec (.compactionBuild i chk) s = .next (s.buildPart i true j (h.compOutput j)) := by
  simp only [exec, execCompactionBuild, hi, hj]
  exact (if_neg (build_goes_on ho hs hsl)).trans (if_pos hb)

section
variable (hb : (h.compOutput j).length ≤ j.built + s.buildRoom j (h.compOutput j))
include hb

/-- A compaction that is finished, checks and finds its place has its image and the chain of its epoch. -/
theorem compactionBuild_stands (hok : h.imageOk (h.compOutput j) j.out = true)
    (hp : ((s.buildPart i true j (h.compOutput j)).placeSeg i (h.compOutput j)).isSome = true) :
    exec (.compactionBuild i .ok) s = .next ((s.buildPart i true j (h.compOutput j)).modJob i true fun _ =>
      some { h.compJob j with stage := 2, image := h.compOutput j, chain := h.chainFrom h.compNum j.floor }) := by
  have hplace : ¬ ((s.buildPart i true j (h.compOutput j)).placeSeg i (h.compOutput j)).isNone = true := Bool.eq_false_iff.mp (by simpa using hp)
  simp only [exec, execCompactionBuild, hi, hj]
  refine (if_neg (build_goes_on ho hs hsl)).trans ((if_neg (Nat.not_lt.mpr hb)).trans ((if_neg ?_).trans (if_neg hplace)))
  exact not_or.mpr ⟨by decide, not_or.mpr ⟨by decide, not_not.mpr hok⟩⟩

/-- A compaction whose build fails once is dropped. -/
theorem compactionBuild_fails :
    exec (.compactionBuild i .once) s = .next (((s.buildPart i true j (h.compOutput j)).evU 0x306A locField (some (i, h.vis)) 0).modShard i
      fun h => { h with comp := none }) := by
  simp only [exec, execCompactionBuild, hi, hj]
  exact (if_neg (build_goes_on ho hs hsl)).trans ((if_neg (Nat.not_lt.mpr hb)).trans (if_pos (.inl trivial)))

end

end

end

/-! ### Writes (R147, R279) -/

/-- An extent that the write of some of a slot's segments makes durable. -/
def Extent.sealedFor (i : Nat) (ns : List Nat) (x : Extent) : Extent := if x.slot = i ∧ ns.contains x.seg then { x with prov := false } else x

theorem sealedFor_durable {i : Nat} {ns : List Nat} {l : List Extent} :
    ∀ x ∈ l.map (Extent.sealedFor i ns), x.slot = i → x.seg ∈ ns → x.prov = false := by
  intro x hx hslot hseg
  obtain ⟨y, -, rfl⟩ := List.mem_map.mp hx
  unfold Extent.sealedFor at hslot hseg ⊢
  split
  · rfl
  · rename_i hn
    rw [if_neg hn] at hslot hseg
    exact absurd ⟨hslot, List.contains_iff_mem.mpr hseg⟩ hn

/-- The extents of segments that are made durable are no longer provisional. -/
theorem sealExtents_durable {s u : State} {i : Nat} {ns : List Nat} (hu : s.sealExtents i ns = some u) :
    ∀ x ∈ u.flash.extents, x.slot = i → x.seg ∈ ns → x.prov = false := by
  suffices he : u.flash.extents = s.flash.extents.map (Extent.sealedFor i ns) by rw [he]; exact sealedFor_durable
  unfold State.sealExtents at hu
  dsimp only at hu
  split at hu
  · split at hu
    · rename_i heq
      cases hu
      exact heq.symm
    · obtain ⟨v, -, rfl⟩ := Option.map_eq_some_iff.mp hu
      rfl
  · cases hu

theorem putSys_extents {s u : State} {typ key : Nat} {data : Bytes} (hu : s.putSys typ key data = some u) :
    u.flash.extents = s.flash.extents :=
  congrArg Prod.fst (Inv.putSys (Stables.same (f := .flashExtents) s rfl rfl (Or.inr rfl)) (Part.same_refl .flashExtents s) hu)

section
variable {s u v : State} {i : Nat} {h : Shard} (hi : mget s.shards i = some h)
include hi

/-- A seal whose extents and epoch record are durable goes to stage 4. -/
theorem sealWrite_owner {j : SealJob} (ho : h.owner = true) (hj : h.sealJob = some j) (hs : j.stage = 3)
    (hu : s.sealExtents i [j.out] = some u) (hv : u.putSys 0x20 (1 + i) (u.jobRecord i false j) = some v) :
    exec (.sealWrite i) s = .next (v.modJob i false fun k => some { k with stage := 4 }) := by
  have hf : h.sealJob.filter (fun j => j.stage == 3) = some j := by simp [hj, hs]
  simp only [exec, execSealWrite, hi, ho, if_true, hf, State.jobDurable, hu, Option.bind_some, hv]

/-- A replica whose next epoch record is durable with its images says so. -/
theorem sealWrite_replica {r : Bytes} (ho : h.owner = false) (hr : h.pendEpoch = some r) (hu : s.sealExtents i (recSealed r) = some u)
    (hv : u.putSys 0x20 (1 + i) r = some v) :
    exec (.sealWrite i) s = .next (v.modShard i fun h => { h with pendDone := true }) := by
  simp only [exec, execSealWrite, hi, ho, Bool.false_eq_true, if_false, hr, hu, hv]

/-- A replica keeps an image that passes every check (R62, R146). -/
theorem segmentImage_kept {port : Nat} {image r : Bytes} (ho : h.owner = false) (hok : h.imageOk image (segNumber image) = true)
    (hag : s.segAgrees h image = true)
    (hr : (recSeg r (segNumber image)).map (·.2) = some (segmentRoot h.id (segNumber image) image))
    (hp : (s.placeSeg i image).isSome = true) :
    exec (.segmentImage port i image r) s = .next (s.modShard i fun h => { h with images := mput h.images (segNumber image) image }) := by
  have hplace : (s.placeSeg i image).isNone = false := by simpa using hp
  simp [exec, execSegmentImage, hi, ho, hok, hag, hr, hplace]

end

/-- Settles O26: the builds by what the slices finish, then the writes and the image at a replica. -/
theorem sealsAndCompactionsAreBuilt : Obligations.SealsAndCompactionsAreBuilt := by
  refine ⟨fun s i h j ps hi ho hj hs hsl => ⟨?_, ?_, ?_⟩, fun s i h j hi ho hj hs hsl => ⟨?_, ?_, ?_⟩,
    fun s u v i h j hi ho hj hs hu hv => ⟨sealWrite_owner hi ho hj hs hu hv, fun x hx hslot hseg => ?_⟩,
    fun s u v i h r hi ho hr hu hv => ⟨sealWrite_replica hi ho hr hu hv, fun x hx => ?_⟩,
    fun s port i image r h hi ho hok hag hr hp => segmentImage_kept hi ho hok hag hr hp⟩
  · exact sealBuild_part hi ho hs hsl hj .ok
  · exact sealBuild_stands hi ho hs hsl hj
  · exact sealBuild_fails hi ho hs hsl hj
  · exact compactionBuild_part hi ho hs hsl hj .ok
  · exact compactionBuild_stands hi ho hs hsl hj
  · exact compactionBuild_fails hi ho hs hsl hj
  · rw [putSys_extents hv] at hx
    exact sealExtents_durable hu x hx hslot (List.mem_singleton.mpr hseg)
  · rw [putSys_extents hv] at hx
    exact sealExtents_durable hu x hx

end Sys2Proof.Machine
end

section
/-! SEGMENT_LOAD, PAGE_RELOAD and SEGMENT_REFETCH (R62, R71). -/

namespace Sys2Proof.Machine
set_option Elab.async false

/-- A segment that is to leave service is listed for the next boundary (R71, third case). -/
theorem segOut_listed (s : State) (i n : Nat) : (i, n) ∈ (s.segOut i n).tier.outQ := by
  unfold State.segOut
  split
  · rename_i h
    exact List.contains_iff_mem.mp h
  · simp

theorem segOut_shards (s : State) (i n : Nat) : (s.segOut i n).shards = s.shards :=
  Inv.segOut (Stables.same (f := .shards) s rfl rfl (Or.inr rfl)) (Part.same_refl .shards s) i n

theorem useGrant_shards (s : State) (k : Nat) : (s.useGrant k).shards = s.shards := rfl

section
variable {s : State} {i n : Nat} {h : Shard} {g : Seg} (hi : mget s.shards i = some h) (hg : mget h.segs n = some g)
include hi hg

section
variable (hl : g.loaded = false)
include hl

/-- A page that mismatches twice takes the segment that loads out of service. -/
theorem segmentLoad_page_bad : exec (.segmentLoad i n .twice) s = .next (s.segOut i n) := by
  simp [exec, execSegmentLoad, hi, hg, hl, Chk.bad]

section
variable (hok : h.imageOk g.image n = true) (hag : s.segAgrees h g.image = true)
include hok hag

/-- An image whose root is not the recorded one takes its segment out of service. -/
theorem segmentLoad_root_differs (hr : segmentRoot h.id n g.image ≠ g.root) :
    exec (.segmentLoad i n .ok) s = .next (s.segOut i n) := by
  simp [exec, execSegmentLoad, hi, hg, hl, hok, hag, hr, Chk.bad]

/-- An image that passes every check and finds its place serves. -/
theorem segmentLoad_serves {u : State} (hr : segmentRoot h.id n g.image = g.root) (hp : s.placeSeg i g.image = some u) :
    exec (.segmentLoad i n .ok) s = .next (u.modShard i fun h =>
      { h with segs := mmod h.segs n (fun g => { g with loaded := true, inService := true }) }) := by
  simp [exec, execSegmentLoad, hi, hg, hl, hok, hag, hr, hp, Chk.bad]

end

end

/-- A page whose flash copy matches waits for its reload no more. -/
theorem pageReload_returns {page : Nat} (hp : g.reload.contains page = true) :
    exec (.pageReload i n page true) s = .next (s.modShard i fun h =>
      { h with segs := mmod h.segs n (fun g => { g with reload := g.reload.filter (fun x => x != page) }) }) := by
  simp only [exec, execPageReload, hi, hg, Option.bind_some, hp, not_true_eq_false, if_false, if_true]

section
variable {image : Bytes}

/-- A partner's image that passes every check replaces the segment's, under the grant, where it has a place or finds one. -/
theorem segmentRefetch_replaces {u : State} (hs : g.inService = false) (hgr : s.grant 4 = true) (hok : h.imageOk image n = true)
    (hag : s.segAgrees h image = true) (hr : segmentRoot h.id n image = g.root)
    (hp : (if g.loaded then some (s.useGrant 4) else (s.useGrant 4).placeSeg i image) = some u) :
    exec (.segmentRefetch i n image) s = .next ((u.dropExtent i n).modShard i fun h =>
      { h with segs := mmod h.segs n (fun g => { g with image := image, inService := true, loaded := true, reload := [] }),
               images := mput h.images n image }) := by
  simp only [exec, execSegmentRefetch, hi, hg, hs, hgr, hok, hag, hr, hp, Bool.not_true, Bool.or_false, Bool.false_eq_true,
    not_true_eq_false, or_false, if_false, ne_eq]

/-- A partner's image that fails a check changes no shard, and neither does one that nothing asked for. -/
theorem segmentRefetch_refused (hbad : h.imageOk image n = false ∨ s.segAgrees h image = false ∨ segmentRoot h.id n image ≠ g.root) :
    ∃ t, exec (.segmentRefetch i n image) s = .next t ∧ t.shards = s.shards := by
  rw [exec, execSegmentRefetch, hi]
  simp only [hg]
  by_cases hgo : (g.inService || !s.grant 4) = true
  · exact ⟨s, if_pos hgo, rfl⟩
  rw [if_neg hgo]
  by_cases hck : ¬ h.imageOk image n = true ∨ ¬ s.segAgrees h image = true
  · exact ⟨_, if_pos hck, (State.raise_shards ..).trans (useGrant_shards s 4)⟩
  · have hr : segmentRoot h.id n image ≠ g.root := by
      simp only [not_or, not_not] at hck
      simpa [hck] using hbad
    exact ⟨_, (if_neg hck).trans (if_pos hr), (State.raise_shards ..).trans (useGrant_shards s 4)⟩

end

end

/-- Settles O31: the load, the reload and the refetch of a segment, check by check. -/
theorem segmentsEnterAndReenterService : Obligations.SegmentsEnterAndReenterService := by
  intro s i n h g hi hg
  refine ⟨fun u hl hok hag hr hp => segmentLoad_serves hi hg hl hok hag hr hp, fun hl hok hag hr => ?_, fun hl => ?_,
    fun page hp => pageReload_returns hi hg hp, fun image u hs hgr hok hag hr hp => ?_, fun image hbad => segmentRefetch_refused hi hg hbad⟩
  · exact ⟨_, segmentLoad_root_differs hi hg hl hok hag hr, segOut_listed s i n, segOut_shards s i n⟩
  · exact ⟨_, segmentLoad_page_bad hi hg hl, segOut_listed s i n, segOut_shards s i n⟩
  · refine segmentRefetch_replaces hi hg hs hgr hok hag hr ?_
    rcases hp with ⟨hl, rfl⟩ | ⟨hl, hp⟩
    · exact if_pos hl
    · exact (if_neg (Bool.eq_false_iff.mp hl)).trans hp

end Sys2Proof.Machine
end

section
/-! SEGMENT_LOAD of a segment that differs from its epoch (R71, R80). -/

namespace Sys2Proof.Machine
set_option Elab.async false

/-- METRIC, DIM, M and CODE_BITS of an image, which R80 wants equal within an epoch. -/
def segShape (i : Bytes) : Nat × Nat × Nat × Nat := (segMetric i, segDim i, segM i, segBits i)

theorem imagesAgree_iff (a b : Bytes) : imagesAgree a b = true ↔ segShape a = segShape b := by
  simp [imagesAgree, segShape, and_assoc]

/-- A sealed segment or a delta of the shard's epoch has another shape than an image. -/
def State.epochDiffers (s : State) (h : Shard) (i : Bytes) : Prop :=
  (∃ m ∈ h.cur.sealed, ∃ x, mget h.segs m = some x ∧ segShape x.image ≠ segShape i) ∨
    ∃ m ∈ h.cur.deltas, ∃ d cb, mget h.deltas m = some d ∧ s.cbOf d.cb = some cb ∧ (d.metric, cb.dim, cb.m, cb.bits) ≠ segShape i

/-- The load's test of R80 fails for an image from which its epoch differs. -/
theorem segAgrees_of_epochDiffers {s : State} {h : Shard} {i : Bytes} (hd : s.epochDiffers h i) : s.segAgrees h i = false := by
  rw [State.segAgrees, Bool.and_eq_false_iff, List.all_eq_false, List.all_eq_false]
  rcases hd with ⟨m, hm, x, hx, hne⟩ | ⟨m, hm, d, cb, hx, hcb, hne⟩
  · refine .inl ⟨m, hm, ?_⟩
    simpa only [hx, imagesAgree_iff] using hne
  · refine .inr ⟨m, hm, fun heq => hne ?_⟩
    simpa [hx, hcb, segShape, and_assoc] using heq

section
variable {s : State} {i n : Nat} {h : Shard} {g : Seg} (hi : mget s.shards i = some h) (hg : mget h.segs n = some g)
  (hl : g.loaded = false) (hd : s.epochDiffers h g.image)
include hi hg hl hd

/-- A load whose pages come in refuses such a segment with EV 0x3030, behind EV 0x3031 where one page came in on its repeat. -/
theorem segmentLoad_refuses {chk : Chk} (hc : Chk.bad chk = false) : exec (.segmentLoad i n chk) s =
    .next ((if chk = .once then s.raise 0x3031 (locPlot n) 0 else s).raise 0x3030 (locPlot n) 0) := by
  have hag : (if chk = .once then s.raise 0x3031 (locPlot n) 0 else s).segAgrees h g.image = false := by
    split <;> exact segAgrees_of_epochDiffers hd
  simp [exec, execSegmentLoad, hi, hg, hl, hc, hag]

/-- So no load changes a shard that holds such a segment. -/
theorem segmentLoad_refused_shards {chk : Chk} {t : State} (ht : exec (.segmentLoad i n chk) s = .next t) : t.shards = s.shards := by
  cases hc : Chk.bad chk
  · rw [segmentLoad_refuses hi hg hl hd hc] at ht
    cases ht
    exact (State.raise_shards ..).trans (ite_same (State.raise_shards ..) rfl)
  · have hout : exec (.segmentLoad i n chk) s = .next (s.segOut i n) := by simp [exec, execSegmentLoad, hi, hg, hl, hc]
    rw [hout] at ht
    cases ht
    exact segOut_shards s i n

end

/-- Settles O10: by the refusal of every load of a segment from which its epoch differs. -/
theorem segmentsOfAnEpochAgree : Obligations.SegmentsOfAnEpochAgree := by
  intro s i n h g hi hg hl shape differs
  refine ⟨fun hd => segmentLoad_refuses hi hg hl hd rfl, fun hd => segmentLoad_refuses hi hg hl hd rfl,
    fun chk t x y ht hx hy hload hd => ?_⟩
  rw [segmentLoad_refused_shards hi hg hl hd ht, hi] at hx
  obtain rfl := Option.some.inj hx
  rw [hg] at hy
  obtain rfl := Option.some.inj hy
  exact absurd hload (Bool.eq_false_iff.mp hl)

end Sys2Proof.Machine
end

section
/-! QUERY_PREPARE and TABLE_BUILD (R77 to R79). -/

namespace Sys2Proof.Machine
set_option Elab.async false

section
variable {s : State} {tag : Nat} {f : FarCtx} {w : Work} (hr : s.atHome tag f w)
include hr

/-- A raw query becomes its own values, normalised under COSINE (R77). -/
theorem queryPrepare_raw (hp : f.phase = 2) (hq : pQuery w.params = 0) :
    exec (.queryPrepare tag .ok) s = .next (s.modWork tag fun y =>
      { y with x := some (if (s.workDim y).1 = 2 then normalise ((splitAll 2 w.query).map leNat) else (splitAll 2 w.query).map leNat) }) := by
  have hraw : ((splitAll 2 w.query).map fun b => ((leNat b, false, false) : Conv)).map (·.1) = (splitAll 2 w.query).map leNat :=
    List.map_map
  have hflags : ((splitAll 2 w.query).map fun b => ((leNat b, false, false) : Conv)).any (fun c => c.2.1 || c.2.2) = false := by simp
  refine congrArg Host.Outcome.next ((State.during_home hr hp).trans ?_)
  simp only [hq, State.checkIn_ok, hraw, hflags, if_true, if_false, ne_eq, not_true_eq_false, false_and, Bool.false_eq_true,
    OfNat.zero_ne_ofNat]

/-- An entry as TABLE_BUILD leaves it: the INT8 query and its scale, and where this node serves it the tables, the sealed segments to
search and stage 1 (R78, R79). -/
def State.tabled (s : State) (w : Work) (v : List Nat) (x : ShardWork) : ShardWork :=
  let q := quantQuery (pScale w.params) v
  match (if x.src.port = 0xFF then s.entryOf x else none) with
  | none => { x with q := q.1, qScale := q.2 }
  | some (h, e) =>
    { x with tables := buildTables (s.workDim w).1 (s.workDim w).2 (s.entryCode h e).1 (s.entryCode h e).2 (s.entryCbs h e x.usn) v,
             q := q.1, qScale := q.2, todo := e.sealed, stage := 1 }

theorem tableBuild_runs (hp : f.phase = 3) {v : List Nat} (hv : w.x = some v) :
    exec (.tableBuild tag .ok) s = .next (s.modWork tag fun y => { y with shards := y.shards.map (s.tabled w v) }) := by
  refine congrArg Host.Outcome.next ((State.during_home hr hp).trans ?_)
  simp only [hv, State.checkIn_ok, if_true]
  rfl

end

theorem tabled_query (s : State) (w : Work) (v : List Nat) (x : ShardWork) :
    (s.tabled w v x).q = (quantQuery (pScale w.params) v).1 ∧ (s.tabled w v x).qScale = (quantQuery (pScale w.params) v).2 := by
  unfold State.tabled
  dsimp only
  split <;> exact ⟨rfl, rfl⟩

theorem tabled_served {s : State} {w : Work} {v : List Nat} {x : ShardWork} {h : Shard} {e : Epoch} (hx : x.src.port = 0xFF)
    (he : s.entryOf x = some (h, e)) : (s.tabled w v x).stage = 1 ∧ (s.tabled w v x).todo = e.sealed ∧
      (s.tabled w v x).tables =
        buildTables (s.workDim w).1 (s.workDim w).2 (s.entryCode h e).1 (s.entryCode h e).2 (s.entryCbs h e x.usn) v := by
  simp [State.tabled, hx, he]

/-- Settles O11: by the values of a raw query, and by what TABLE_BUILD makes of each entry. -/
theorem searchPreparationAndTables : Obligations.SearchPreparationAndTables := by
  intro s tag f w hr
  refine ⟨queryPrepare_raw hr, fun v hp hv => ⟨s.tabled w v, tableBuild_runs hr hp hv, fun x => ?_⟩⟩
  obtain ⟨hq, hscale⟩ := tabled_query s w v x
  exact ⟨hq, hscale, fun h e hx he => tabled_served hx he⟩

end Sys2Proof.Machine
end

section
/-! SEGMENT_WALK, FULL_SCAN and ENUMERATION (R81 to R83, R85, R88, R122). -/

namespace Sys2Proof.Machine
set_option Elab.async false

/-- The walk of a segment, new or waiting in its entry, after the hops of its slots (R82, R85). -/
def ShardWork.walkOn (x : ShardWork) (v : SegView) (w : Work) (seg share hops : Nat) : Walk :=
  walkHops v share w.beam w.hops hops ((x.walks.find? fun y => y.seg == seg).getD (walkStart v share w.beam))

/-- The visits that a search of one method yields, of a walk so far those that `st` recorded. -/
def ShardWork.visitsBy (x : ShardWork) (v : SegView) (w : Work) (seg : Nat) (st : Walk) (method : Nat) : List Visit :=
  if method = 0 then st.recs.reverse else if method = 1 then segScan v else segEnum v w.terms ((x.rowOf seg).getD [])

/-- An entry whose search of a segment is over. -/
def ShardWork.searchOver (y x : ShardWork) (seg : Nat) (vs : List Visit) (exhausted : Bool) : ShardWork :=
  { y with walks := x.walks.filter fun z => z.seg != seg, segs := y.segs ++ [⟨seg, vs, exhausted⟩], todo := y.todo.filter (· != seg) }

/-- An entry in which a walk waits for its next slots. -/
def ShardWork.walkWaits (y x : ShardWork) (seg : Nat) (st : Walk) : ShardWork :=
  { y with walks := (x.walks.filter fun z => z.seg != seg) ++ [st] }

section
variable {s : State} {tag pos seg : Nat} {f : FarCtx} {w : Work} {x : ShardWork} {h : Shard} {e : Epoch} {g : Seg}
  (hr : s.atHome tag f w) (hp : f.phase = 4) (hs : s.serves w pos x h e) (hg : mget h.segs seg = some g)
  (ht : x.todo.contains seg = true)
include hr hp hs hg ht

/-- A search by the pass's method, whose shadow sums agree, ends in its entry, or is a walk that waits there. -/
theorem searchSeg_runs {hops method share : Nat} (hm : w.method h e seg = (method, share))
    (hrow : method = 2 → (x.rowOf seg).isSome = true) :
    let v := segView h x w.terms g
    let st := x.walkOn v w seg share hops
    v.shadowsOk (x.visitsBy v w seg st method) = true →
      s.searchSeg tag pos seg hops .ok method = s.modEntry tag pos fun y =>
        if method != 0 || st.done || st.ended then y.searchOver x seg (x.visitsBy v w seg st method) (method == 0 && st.done)
        else y.walkWaits x seg st := by
  intro v st hok
  obtain ⟨hx, he⟩ := hs
  have hgo : ¬ (¬ x.todo.contains seg = true ∨ (w.method h e seg).1 ≠ method ∨ (method = 2 ∧ (x.rowOf seg).isNone = true)) := by
    simp only [ht, hm, not_true_eq_false, ne_eq, false_or, not_and]
    intro h2
    simp [← Option.not_isSome, hrow h2]
  refine (State.during_home hr hp).trans ?_
  simp only [hx, he, hg]
  refine (if_neg hgo).trans ?_
  simp only [v, st, ShardWork.visitsBy, ShardWork.walkOn] at hok
  simp only [hm, hok, if_true, State.checkIn_ok, not_true_eq_false, if_false]
  rfl

/-- SEGMENT_WALK of a walk that has ended gives the entry its visits (R82). -/
theorem segmentWalk_ends {hops share : Nat} (hm : w.method h e seg = (0, share)) :
    let v := segView h x w.terms g
    let st := x.walkOn v w seg share hops
    v.shadowsOk st.recs.reverse = true → (st.done || st.ended) = true →
      exec (.segmentWalk tag pos seg hops .ok) s = .next (s.modEntry tag pos fun y => y.searchOver x seg st.recs.reverse st.done) := by
  intro v st hok hend
  refine congrArg Host.Outcome.next ((searchSeg_runs hr hp hs hg ht hm (by simp) hok).trans ?_)
  have hwhole : ((0 : Nat) != 0 || st.done || st.ended) = true := by simpa using hend
  exact congrArg _ (funext fun y => if_pos hwhole)

/-- One that has not waits in the entry (R85). -/
theorem segmentWalk_waits {hops share : Nat} (hm : w.method h e seg = (0, share)) :
    let v := segView h x w.terms g
    let st := x.walkOn v w seg share hops
    v.shadowsOk st.recs.reverse = true → (st.done || st.ended) = false →
      exec (.segmentWalk tag pos seg hops .ok) s = .next (s.modEntry tag pos fun y => y.walkWaits x seg st) := by
  intro v st hok hend
  refine congrArg Host.Outcome.next ((searchSeg_runs hr hp hs hg ht hm (by simp) hok).trans ?_)
  have hpart : ¬ ((0 : Nat) != 0 || st.done || st.ended) = true := by simpa using hend
  exact congrArg _ (funext fun y => if_neg hpart)

theorem fullScan_runs (hm : (w.method h e seg).1 = 1) (hok : (segView h x w.terms g).shadowsOk (segScan (segView h x w.terms g)) = true) :
    exec (.fullScan tag pos seg .ok) s =
      .next (s.modEntry tag pos fun y => y.searchOver x seg (segScan (segView h x w.terms g)) false) :=
  congrArg Host.Outcome.next (searchSeg_runs hr hp hs hg ht (Prod.ext hm rfl) (by simp) hok)

theorem enumeration_runs {row : Bytes} (hm : (w.method h e seg).1 = 2) (hrow : x.rowOf seg = some row)
    (hok : (segView h x w.terms g).shadowsOk (segEnum (segView h x w.terms g) w.terms row) = true) :
    exec (.enumeration tag pos seg .ok) s =
      .next (s.modEntry tag pos fun y => y.searchOver x seg (segEnum (segView h x w.terms g) w.terms row) false) := by
  have hvs : (x.rowOf seg).getD [] = row := by rw [hrow, Option.getD_some]
  subst hvs
  exact congrArg Host.Outcome.next (searchSeg_runs hr hp hs hg ht (Prod.ext hm rfl) (fun _ => Option.isSome_iff_exists.mpr ⟨_, hrow⟩) hok)

end

/-- Settles O12: by the one search of a segment, method by method. -/
theorem segmentSearchesVisitTheirSegment : Obligations.SegmentSearchesVisitTheirSegment := by
  intro s tag pos seg f w x h e g hr hp hs hg ht
  exact ⟨fun share hops hm => segmentWalk_ends hr hp hs hg ht hm, fun share hops hm => segmentWalk_waits hr hp hs hg ht hm,
    fullScan_runs hr hp hs hg ht, fun row hm hrow hok => enumeration_runs hr hp hs hg ht hm hrow hok⟩

end Sys2Proof.Machine
end

section
/-! DELTA_SCAN, BITMAP_FILTER_EVAL and RERANK_SELECT (R83, R87, R89, R90, R106). -/

namespace Sys2Proof.Machine
set_option Elab.async false

/-! ### Checks on several plots -/

/-- Outcomes that all pass give every key a pass. -/
theorem mgetD_ok {chks : List (Nat × Chk)} (hc : ∀ c ∈ chks, c.2 = .ok) (p : Nat) : mgetD chks p .ok = .ok := by
  induction chks with
  | nil => rfl
  | cons c cs ih =>
    obtain ⟨k, o⟩ := c
    obtain rfl : o = .ok := hc (k, o) List.mem_cons_self
    have hrest : mgetD cs p .ok = .ok := ih fun c hm => hc c (List.mem_cons_of_mem _ hm)
    simp only [mgetD, mget] at hrest ⊢
    split
    · rfl
    · split
      · rfl
      · exact hrest

/-- A check that passes on each of its plots changes nothing. -/
theorem checkPlots_ok (s : State) (tag code idx sub : Nat) (loc : Nat → Nat) {l : List (Nat × Chk)} (hl : ∀ c ∈ l, c.2 = .ok) :
    s.checkPlots tag code idx sub loc l = (s, true) := by
  induction l with
  | nil => rfl
  | cons c cs ih =>
    obtain ⟨p, o⟩ := c
    obtain rfl : o = .ok := hl (p, o) List.mem_cons_self
    exact ih fun c hm => hl c (List.mem_cons_of_mem _ hm)

/-- Shadow sums that agree for a scan agree for the part of it on one plot (R122). -/
theorem deltaShadowsOk_filter {h : Shard} {x : ShardWork} {bits : Nat} {vs : List Visit} (p : Visit → Bool)
    (hok : deltaShadowsOk h x bits vs = true) : deltaShadowsOk h x bits (vs.filter p) = true := by
  rw [deltaShadowsOk, List.all_eq_true] at hok ⊢
  exact fun v hv => hok v (List.mem_of_mem_filter hv)

/-! ### Bitmaps -/

/-- What BITMAP_FILTER_EVAL asks of a tilling place: whether its bitmaps took an error, or a group that holds them is in FAULT. -/
theorem bitmapsSound_reads {s : State} {slot seg : Nat} {img : Bytes} (hb : s.bitmapsSound slot seg img) :
    ((s.tier.bmaps.find? fun b => b.slot == slot && b.seg == seg).map fun b => b.bad || (List.range s.tillGroups).any fun c =>
      decide (8192 * c < segVc img) && s.tillState ⟨b.plot, c⟩ == 3).getD false = false := by
  cases hf : s.tier.bmaps.find? fun b => b.slot == slot && b.seg == seg with
  | none => rfl
  | some b =>
    obtain ⟨hbad, hstate⟩ := hb b hf
    simpa [hbad] using hstate

/-- An entry with a segment's result row pair (R87). -/
def ShardWork.withRows (y : ShardWork) (seg : Nat) (rows : Bytes × Bytes) : ShardWork :=
  { y with rows := (y.rows.filter fun r => r.1 != seg) ++ [(seg, rows)] }

/-- The events and the count of a rail comparison that failed (R87, R126). -/
def State.railFailed (s : State) (loc : Nat) : State := ((s.bump 0x6021 3 1).raise 0x6021 loc 0).raise 0x3014 loc 0

/-- The union of an entry's plot lists (R106). -/
def ShardWork.plotUnion (x : ShardWork) : List Cand := x.searched.flatMap fun p => parseRecords (((x.plotSel p).list.getD []).drop 96)

theorem mem_of_mem_recordsOf {α : Type} {key : α → Nat} {l : List α} {ks : List Nat} {r : α} (hr : r ∈ recordsOf key l ks) : r ∈ l := by
  obtain ⟨k, -, hk⟩ := List.mem_filterMap.mp hr
  exact List.mem_of_find?_eq_some hk

section
variable {s : State} {tag pos seg : Nat} {f : FarCtx} {w : Work} {x : ShardWork} {h : Shard} {e : Epoch} {g : Seg}
  (hr : s.atHome tag f w) (hs : s.serves w pos x h e)
include hr hs

/-- DELTA_SCAN whose checks all pass gives the entry the visits of its delta records (R83). -/
theorem deltaScan_runs (hp : f.phase = 4) (hd : x.delta = none) (hst : x.stage ≠ 0)
    (hok : deltaShadowsOk h x (s.entryCode h e).2 (deltaVisits h e x w.terms (s.entryCode h e).2) = true)
    {chks : List (Nat × Chk)} (hc : ∀ c ∈ chks, c.2 = .ok) : exec (.deltaScan tag pos chks) s =
      .next (s.modEntry tag pos fun y => { y with delta := some (deltaVisits h e x w.terms (s.entryCode h e).2) }) := by
  obtain ⟨hx, he⟩ := hs
  have hgo : ¬ (x.delta.isSome = true ∨ x.stage = 0) := by simp [hd, hst]
  refine congrArg Host.Outcome.next ((State.during_home hr hp).trans ?_)
  simp only [hx, he, if_neg hgo, deltaShadowsOk_filter _ hok, mgetD_ok hc, if_true]
  rw [checkPlots_ok]
  · rfl
  · intro c hm
    obtain ⟨p, -, rfl⟩ := List.mem_map.mp hm
    rfl

section
variable (hp : f.phase = 4) (hg : mget h.segs seg = some g) (ht : x.todo.contains seg = true)
  (hcov : w.terms.any (termCovered g.image) = true) (hb : s.bitmapsSound x.slot seg g.image)
include hp hg ht hcov hb

/-- BITMAP_FILTER_EVAL over sound bitmaps gives the entry the segment's result rows, after one failed comparison of the rails too. -/
theorem bitmapFilterEval_runs {rail : Chk} (hc : rail = .ok ∨ rail = .once) :
    exec (.bitmapFilterEval tag pos seg rail) s =
      .next ((if rail = .once then s.railFailed (locPlot (s.codesPlot x.slot seg)) else s).modEntry tag pos
        fun y => y.withRows seg (resultRows g.image w.terms)) := by
  obtain ⟨hx, he⟩ := hs
  refine congrArg Host.Outcome.next ((State.during_home hr hp).trans ?_)
  simp only [hx, he, hg, ht, hcov, not_true_eq_false, or_self, if_false, bitmapsSound_reads hb, Bool.false_eq_true]
  rcases hc with rfl | rfl <;> rfl

end

/-- RERANK_SELECT, once every searched plot's list is there, runs one pass over their union and counts it; the pass that ends the selection
fixes the candidates (R89, R90, R106). -/
theorem rerankSelect_runs (hp : f.phase = 5) (hst : x.stage < 3) (hl : ∀ p ∈ x.searched, (x.plotSel p).list.isSome = true) :
    let key := fun (c : Cand) => orderKey c.pq pos c.handle
    let sel := selectPass (x.plotUnion.map key) x.sel (pRerank w.params)
    exec (.rerankSelect tag pos .ok) s = .next ((s.bump 0x3012 1 1).modEntry tag pos fun y =>
      if sel.2 then { y with cands := (recordsOf key x.plotUnion sel.1).filter fun c => !w.seedling || inStacks h c.handle, sel := [], stage := 3 }
      else { y with sel := sel.1 }) := by
  intro key sel
  obtain ⟨hx, he⟩ := hs
  have hgo : ¬ (3 ≤ x.stage ∨ ¬ (x.searched.all fun p => (x.plotSel p).list.isSome) = true) :=
    not_or.mpr ⟨Nat.not_le.mpr hst, not_not.mpr (List.all_eq_true.mpr hl)⟩
  refine congrArg Host.Outcome.next ((State.during_home hr hp).trans ?_)
  simp only [hx, he, if_neg hgo, State.checkIn_ok, not_true_eq_false, if_false]
  rfl

end

/-- Settles O13: by the effect of each of the three commands on the entry. -/
theorem scansFiltersAndSelectionComplete : Obligations.ScansFiltersAndSelectionComplete := by
  intro s tag pos seg f w x h e g hr hs
  refine ⟨fun hp hd hst hok chks hc => deltaScan_runs hr hs hp hd hst hok hc, fun hp hg ht hcov hb => ⟨?_, ?_⟩, fun hp hst hl => ?_⟩
  · exact bitmapFilterEval_runs hr hs hp hg ht hcov hb (.inl rfl)
  · exact bitmapFilterEval_runs hr hs hp hg ht hcov hb (.inr rfl)
  · refine ⟨_, rerankSelect_runs hr hs hp hst hl, fun hsd => ?_, fun hsd => ?_, fun c hc => ?_⟩
    · simp only [hsd, Bool.not_false, Bool.true_or, List.filter_true]
      rfl
    · simp only [hsd, Bool.not_true, Bool.false_or]
      rfl
    · exact mem_of_mem_recordsOf (List.mem_of_mem_filter hc)

end Sys2Proof.Machine
end

section
/-! RERANK (R79, R90, R121, R123). -/

namespace Sys2Proof.Machine
set_option Elab.async false

/-- The check of the stored SUMSQs that passes changes nothing. -/
@[simp] theorem State.checkSumsq_ok (s : State) (p l tag : Nat) : s.checkSumsq .ok p l tag = (s, true) := rfl

/-- What RERANK reads of a stored vector: EXTERNAL_ID, SCALE, SUMSQ and components (R59, R63). -/
def rerankVector (h : Shard) (hd : Nat) : Nat × Nat × Nat × List Int := (storedVector h hd).getD (0, 0, 0, [])

/-- A candidate scored exactly against the query (R79, R121). -/
def scored (metric : Nat) (q : List Int) (h : Shard) (c : Cand) : Cand :=
  let v := rerankVector h c.handle
  { c with ext := v.1, scale := v.2.1, exact := exactDist metric q v.2.2.2 v.2.2.1, resid := residue metric q v.2.2.2 }

theorem sumsqBad_of_agrees {h : Shard} {hd : Nat} {v : Nat × Nat × Nat × List Int} (hv : storedVector h hd = some v)
    (ha : sumsqOf v.2.2.2 % 65521 = v.2.2.1 % 65521) : sumsqBad h hd = false := by
  simp [sumsqBad, hv, ha]

/-- RERANK scores every candidate in its place where every stored SUMSQ agrees with its components. -/
theorem rerank_runs {s : State} {tag pos : Nat} {f : FarCtx} {w : Work} {x : ShardWork} {h : Shard} {e : Epoch} (hr : s.atHome tag f w)
    (hp : f.phase = 6) (hs : s.serves w pos x h e) (hst : x.stage = 3) (hsum : ∀ c ∈ x.cands, sumsqBad h c.handle = false) :
    exec (.rerank tag pos .ok .ok) s =
      .next (s.modEntry tag pos fun y => { y with ranked := y.cands.map (scored (s.workDim w).1 x.q h), stage := 4 }) := by
  obtain ⟨hx, he⟩ := hs
  have hbad : (x.cands.any fun c => sumsqBad h c.handle) = false := by simpa using hsum
  refine congrArg Host.Outcome.next ((State.during_home hr hp).trans ?_)
  simp only [hx, he, hst, hbad, ne_eq, not_true_eq_false, if_false, Bool.false_eq_true, State.checkSumsq_ok, State.checkIn_ok, if_true]
  rfl

/-- Settles O14: no stored SUMSQ is bad, and each candidate's score comes from its stored vector. -/
theorem rerankScoresEveryCandidate : Obligations.RerankScoresEveryCandidate := by
  intro s tag pos f w x h e hr hp hs hst hall
  refine ⟨scored (s.workDim w).1 x.q h, rerank_runs hr hp hs hst fun c hc => ?_, fun c hc => ?_⟩
  · obtain ⟨v, hv, ha⟩ := hall c hc
    exact sumsqBad_of_agrees hv ha
  · obtain ⟨v, hv, -⟩ := hall c hc
    exact ⟨v, hv, by simp only [scored, rerankVector, hv, Option.getD_some]⟩

end Sys2Proof.Machine
end

section
/-! WINNOWER_PASS and SHARD_RESULT (R89, R91, R97, R98, R100, R101, R105, R106). -/

namespace Sys2Proof.Machine
set_option Elab.async false

/-- The visits of an entry from which a plot selects (R89, R106). -/
def ShardWork.eligibleOn (x : ShardWork) (plot : Nat) : List Visit := x.eligible.filter fun v => handleSeg v.handle % 16 == plot

theorem mem_eligibleOn {x : ShardWork} {plot : Nat} {v : Visit} : v ∈ x.eligibleOn plot ↔
    v ∈ x.allVisits ∧ v.filtered = false ∧ v.invisible = false ∧ handleSeg v.handle % 16 = plot := by
  simp only [ShardWork.eligibleOn, ShardWork.eligible, List.mem_filter, Bool.and_eq_true, Bool.not_eq_true', beq_iff_eq, and_assoc]

/-- The distinct candidates of an entry, from which its result is selected, and their keys (R95, R101). -/
def ShardWork.uniq (x : ShardWork) (pos : Nat) : List Cand := removeDups (fun _ => pos) (fun _ => x.src.node) x.ranked
def resultKey (pos : Nat) (c : Cand) : Nat := orderKey (exactPrimary c.exact) pos c.handle

/-- The certificates of a sub-request's results, by rank; no other request has any yet (R117). -/
def State.entryCerts (s : State) (w : Work) (x : ShardWork) : List (Nat × Bytes) :=
  if w.kind = 5 then x.result.zipIdx.map fun c => (c.2, s.servedCert w x c.1 ++ zeros 32) else []

theorem entryCerts_ranks (s : State) {w : Work} (x : ShardWork) (hk : w.kind = 5) :
    (s.entryCerts w x).map (·.1) = List.range x.result.length := by
  rw [State.entryCerts, if_pos hk, List.map_map]
  exact (List.zipIdx_map_snd 0 x.result).trans List.range_eq_range'.symm

section
variable {s : State} {tag pos : Nat} {f : FarCtx} {w : Work} {x : ShardWork} {h : Shard} {e : Epoch}
  (hr : s.atHome tag f w) (hs : s.serves w pos x h e)
include hr hs

/-- WINNOWER_PASS runs the next pass of a plot's selection and counts it; the pass that ends it forms the plot list (R105, R106). -/
theorem winnowerPass_runs {plot : Nat} (hp : f.phase = 5) (hst : x.stage < 3) (hpl : plot ∈ x.searched) (hl : (x.plotSel plot).list = none) :
    let key := fun (v : Visit) => orderKey v.dist pos v.handle
    let sel := selectPass ((x.eligibleOn plot).map key) (x.plotSel plot).keys (pRerank w.params)
    exec (.winnowerPass tag pos plot .ok) s = .next ((s.bump 0x3012 1 1).modEntry tag pos fun y =>
      { y with plots := (y.plots.filter fun z => z.plot != plot) ++ [⟨plot, sel.1, if sel.2 then some (plotListBytes x x.src.node plot tag
        w.widened ((recordsOf key (x.eligibleOn plot) sel.1).map (visitCand h x.id))) else none⟩] }) := by
  intro key sel
  obtain ⟨hx, he⟩ := hs
  have hgo : ¬ (3 ≤ x.stage ∨ ¬ x.searched.contains plot = true ∨ (x.plotSel plot).list.isSome = true) := by
    simp [hl, hpl, Nat.not_le.mpr hst]
  refine congrArg Host.Outcome.next ((State.during_home hr hp).trans ?_)
  simp only [hx, he, if_neg hgo, State.checkIn_ok, if_true]
  rfl

section
variable (hp : f.phase = 7) (hst : x.stage = 4)
include hp hst

/-- SHARD_RESULT runs the next pass of the selection and counts it; the pass that ends it concludes the entry (R91, R106). -/
theorem shardResult_runs :
    let sel := selectPass ((x.uniq pos).map (resultKey pos)) x.sel w.k
    exec (.shardResult tag pos .ok .ok) s = .next (
      if sel.2 = false then (s.bump 0x3012 1 1).modEntry tag pos fun y => { y with sel := sel.1 }
      else
        let x1 := x.conclude w h e (recordsOf (resultKey pos) (x.uniq pos) sel.1)
        ((s.bump 0x3012 1 1).bump 0x3012 2 (x.ranked.length - (x.uniq pos).length)).modEntry tag pos fun _ =>
          { x1 with certs := s.entryCerts w x1 }) := by
  intro sel
  obtain ⟨hx, he⟩ := hs
  refine congrArg Host.Outcome.next ((State.during_home hr hp).trans ?_)
  simp only [hx, he, hst, State.checkIn_ok, ne_eq, not_true_eq_false, if_false, Bool.not_eq_true]
  rfl

end

end

/-- Settles O15: by the pass of a plot, whose visits are eligible, and the pass over a shard's distinct candidates. -/
theorem passesAndShardResultsComplete : Obligations.PassesAndShardResultsComplete := by
  constructor
  · intro s tag pos plot f w x h e hr hp hs hst hpl hl
    exact ⟨_, winnowerPass_runs hr hs hp hst hpl hl, rfl, rfl, rfl, fun v hv => mem_eligibleOn.mp (mem_of_mem_recordsOf hv)⟩
  · intro s tag pos f w x h e hr hp hs hst uniq key sel list
    refine ⟨fun hsel => ?_, fun hsel => ?_⟩
    · exact (shardResult_runs hr hs hp hst).trans (congrArg _ (if_pos hsel))
    · refine ⟨_, _, (shardResult_runs hr hs hp hst).trans (congrArg _ (if_neg (ne_false_of_eq_true hsel))), fun hk => ?_, fun hk => ?_⟩
      · exact entryCerts_ranks s _ hk
      · exact if_neg hk

end Sys2Proof.Machine
end

section
/-! Bucket passes and selections of the Winnower (R95, R97, R98): a round splits its candidates in two, and the lower part, with what
the rounds after it take from the boundary bucket, holds the lowest keys. -/

namespace Sys2Proof.Machine
set_option Elab.async false

/-! ### Sorting -/

theorem insertBy_perm {α : Type} (lt : α → α → Bool) (x : α) (l : List α) : (insertBy lt x l).Perm (x :: l) := by
  induction l with
  | nil => exact .refl _
  | cons y l ih =>
    rw [insertBy]
    split
    · exact .refl _
    · exact (ih.cons y).trans (.swap x y l)

theorem foldl_insertBy_perm {α : Type} (lt : α → α → Bool) (l acc : List α) :
    (l.foldl (fun acc x => insertBy lt x acc) acc).Perm (acc ++ l) := by
  induction l generalizing acc with
  | nil => simp
  | cons x l ih => exact (ih _).trans (((insertBy_perm lt x acc).append_right l).trans List.perm_middle.symm)

/-- Sorting rearranges. -/
theorem sortBy_perm {α : Type} (lt : α → α → Bool) (l : List α) : (sortBy lt l).Perm l := foldl_insertBy_perm lt l []

theorem insertBy_ascends {x : Nat} {l : List Nat} (hl : l.Pairwise (· ≤ ·)) :
    (insertBy (fun a b => decide (a < b)) x l).Pairwise (· ≤ ·) := by
  induction l with
  | nil => exact List.pairwise_singleton ..
  | cons y l ih =>
    obtain ⟨hy, hl⟩ := List.pairwise_cons.mp hl
    rw [insertBy]
    split
    next hxy =>
      have hxy : x < y := of_decide_eq_true hxy
      exact .cons (List.forall_mem_cons.mpr ⟨hxy.le, fun z hz => hxy.le.trans (hy z hz)⟩) (.cons hy hl)
    next hxy =>
      refine .cons (fun z hz => ?_) (ih hl)
      obtain rfl | hz := (mem_insertBy ..).mp hz
      · simpa using hxy
      · exact hy z hz

theorem sortNat_ascends (l : List Nat) : (sortNat l).Pairwise (· ≤ ·) :=
  List.foldlRecOn l _ .nil fun _ hl _ _ => insertBy_ascends hl

theorem sortNat_strictly_ascends {l : List Nat} (hl : l.Nodup) : (sortNat l).Pairwise (· < ·) :=
  (sortNat_ascends l).imp₂ (fun _ _ h ne => h.lt_of_ne ne) ((sortBy_perm _ l).nodup_iff.mpr hl)

/-! ### The lowest keys of a list -/

/-- The keys of `l` in two parts: the `k` lowest, or all of them where there are no more, and the rest. -/
structure Lowest (k : Nat) (l low rest : List Nat) : Prop where
  perm : (low ++ rest).Perm l
  below : ∀ y ∈ low, ∀ x ∈ rest, y < x
  length_low : low.length = min k l.length

namespace Lowest
variable {k n : Nat} {l low rest : List Nat}

theorem length_rest (h : Lowest k l low rest) : rest.length = l.length - k := by
  have hlen := h.perm.length_eq
  have hlow := h.length_low
  rw [List.length_append] at hlen
  omega

theorem zero (l : List Nat) : Lowest 0 l [] l := ⟨.refl l, fun _ hy => absurd hy List.not_mem_nil, by simp⟩

theorem all (h : l.length ≤ k) : Lowest k l l [] := ⟨by simp, fun _ _ _ hx => absurd hx List.not_mem_nil, (Nat.min_eq_right h).symm⟩

theorem mem_low (h : Lowest k l low rest) {x : Nat} (hx : x ∈ low) : x ∈ l := h.perm.subset (List.mem_append_left _ hx)

theorem mem_rest (h : Lowest k l low rest) {x : Nat} (hx : x ∈ l) (hn : x ∉ low) : x ∈ rest :=
  (List.mem_append.mp (h.perm.symm.subset hx)).resolve_left hn

/-- The lowest keys, and then the lowest of the rest. -/
theorem append {low' rest' : List Nat} (h : Lowest k l low rest) (h' : Lowest n rest low' rest') :
    Lowest (k + n) l (low ++ low') rest' where
  perm := (List.append_assoc low low' rest').symm ▸ (h'.perm.append_left low).trans h.perm
  below y hy x hx := (List.mem_append.mp hy).elim (fun hy => h.below y hy x (h'.perm.subset (List.mem_append_right _ hx)))
    fun hy => h'.below y hy x hx
  length_low := by
    have hrest := h.length_rest
    rw [List.length_append, h.length_low, h'.length_low]
    omega

/-- Greater keys change nothing where there are enough without them. -/
theorem append_greater {high : List Nat} (h : Lowest k l low rest) (hk : k ≤ l.length) (hh : ∀ y ∈ l, ∀ x ∈ high, y < x) :
    Lowest k (l ++ high) low (rest ++ high) where
  perm := List.append_assoc low rest high ▸ h.perm.append_right high
  below y hy x hx := (List.mem_append.mp hx).elim (h.below y hy x) (hh y (h.mem_low hy) x)
  length_low := by rw [h.length_low, List.length_append]; omega

/-- The order of the keys, and of those selected, is free. -/
theorem congr {l' low' : List Nat} (h : Lowest k l low rest) (hl : l.Perm l') (hlow : low'.Perm low) : Lowest k l' low' rest where
  perm := ((hlow.append_right rest).trans h.perm).trans hl
  below y hy := h.below y (hlow.subset hy)
  length_low := by rw [hlow.length_eq, h.length_low, hl.length_eq]

/-- Where there are fewer keys than asked for, all are selected, and more could be asked for. -/
theorem of_short (h : Lowest k l low rest) (hs : low.length < k) (hkn : k ≤ n) : Lowest n l low rest where
  perm := h.perm
  below := h.below
  length_low := by have hlow := h.length_low; omega

end Lowest

/-! ### The digits of a pass (R97) -/

/-- The digit of a round. -/
def winnowDigit (sh x : Nat) : Nat := x / 2 ^ sh % 256

/-- The order of two keys is that of the first digit in which they differ, and they differ in one. -/
def DigitsDecide : List Nat → Nat → Nat → Prop
  | [], x, y => x = y
  | sh :: rest, x, y => (winnowDigit sh x < winnowDigit sh y → x < y) ∧ (winnowDigit sh x = winnowDigit sh y → DigitsDecide rest x y)

/-- A digit decides between keys that agree above it, and those that agree in it go on. -/
theorem digitsDecide_cons {sh x y : Nat} {rest : List Nat} (ha : x / 2 ^ (sh + 8) = y / 2 ^ (sh + 8))
    (h : x / 2 ^ sh = y / 2 ^ sh → DigitsDecide rest x y) : DigitsDecide (sh :: rest) x y := by
  rw [Nat.pow_add, ← Nat.div_div_eq_div_mul, ← Nat.div_div_eq_div_mul] at ha
  constructor <;> intro hd <;> rw [winnowDigit, winnowDigit] at hd
  · exact Nat.lt_of_div_lt_div (c := 2 ^ sh) (by omega)
  · exact h (by omega)

/-- The digits of R97 decide between keys whose reserved bits are zero. -/
theorem winnowShifts_decide {x y : Nat} (hx : x < 2 ^ 96 ∧ x / 2 ^ 48 % 2 ^ 16 = 0) (hy : y < 2 ^ 96 ∧ y / 2 ^ 48 % 2 ^ 16 = 0) :
    DigitsDecide winnowShifts x y := by
  have htop : x / 2 ^ 96 = y / 2 ^ 96 := by rw [Nat.div_eq_of_lt hx.1, Nat.div_eq_of_lt hy.1]
  refine digitsDecide_cons htop fun h => digitsDecide_cons h fun h => digitsDecide_cons h fun h => digitsDecide_cons h fun h => ?_
  have hres : x / 2 ^ 48 = y / 2 ^ 48 := by omega
  exact digitsDecide_cons hres fun h => digitsDecide_cons h fun h => digitsDecide_cons h fun h => digitsDecide_cons h fun h =>
    digitsDecide_cons h fun h => digitsDecide_cons h fun h => by simpa [DigitsDecide] using h

/-! ### The rounds of a pass (R97) -/

/-- The keys of the buckets before `b`, of `b` itself, and from `b` on. -/
def bucketsBelow (cand : List Nat) (sh b : Nat) : List Nat := cand.filter fun x => decide (winnowDigit sh x < b)
def bucket (cand : List Nat) (sh b : Nat) : List Nat := cand.filter fun x => winnowDigit sh x == b
def bucketsFrom (cand : List Nat) (sh b : Nat) : List Nat := cand.filter fun x => !decide (winnowDigit sh x < b)

theorem mem_bucketsBelow {cand : List Nat} {sh b x : Nat} : x ∈ bucketsBelow cand sh b ↔ x ∈ cand ∧ winnowDigit sh x < b := by
  rw [bucketsBelow, List.mem_filter, decide_eq_true_iff]

theorem mem_bucket {cand : List Nat} {sh b x : Nat} : x ∈ bucket cand sh b ↔ x ∈ cand ∧ winnowDigit sh x = b := by
  rw [bucket, List.mem_filter, beq_iff_eq]

theorem mem_bucketsFrom {cand : List Nat} {sh b x : Nat} : x ∈ bucketsFrom cand sh b ↔ x ∈ cand ∧ b ≤ winnowDigit sh x := by
  rw [bucketsFrom, List.mem_filter, Bool.not_eq_true', decide_eq_false_iff_not, Nat.not_lt]

theorem buckets_perm (cand : List Nat) (sh b : Nat) : (bucketsBelow cand sh b ++ bucketsFrom cand sh b).Perm cand :=
  List.filter_append_perm ..

theorem bucketsFrom_perm (cand : List Nat) (sh b : Nat) :
    (bucket cand sh b ++ bucketsFrom cand sh (b + 1)).Perm (bucketsFrom cand sh b) := by
  have hone : bucket (bucketsFrom cand sh b) sh b = bucket cand sh b := by
    rw [bucket, bucketsFrom, List.filter_filter]
    exact List.filter_congr fun x _ => by grind
  have hrest : (bucketsFrom cand sh b).filter (fun x => !(winnowDigit sh x == b)) = bucketsFrom cand sh (b + 1) := by
    rw [bucketsFrom, List.filter_filter]
    exact List.filter_congr fun x _ => by grind
  exact hone ▸ hrest ▸ List.filter_append_perm ..

theorem bucketsFrom_256 (cand : List Nat) (sh : Nat) : bucketsFrom cand sh 256 = [] :=
  List.filter_eq_nil_iff.mpr fun x _ => by simp [winnowDigit, Nat.mod_lt]

/-- The boundary bucket is the one with which the keys counted reach those that are needed. -/
theorem winnowBoundary_reaches {cand : List Nat} {sh need : Nat} (hn : need ≤ cand.length) :
    ∀ {fuel b : Nat}, fuel + b = 255 → (bucketsBelow cand sh b).length < need →
      let c := winnowBoundary cand sh need fuel b (bucketsBelow cand sh b).length
      (bucketsBelow cand sh c).length < need ∧ need ≤ (bucketsBelow cand sh c).length + (bucket cand sh c).length
  | 0, b, hb, hlt => by
    obtain rfl : b = 255 := by omega
    have hall := (buckets_perm cand sh 255).length_eq
    have hlast := (bucketsFrom_256 cand sh ▸ bucketsFrom_perm cand sh 255).length_eq
    rw [List.length_append] at hall hlast
    rw [List.length_nil] at hlast
    exact ⟨hlt, by rw [winnowBoundary]; omega⟩
  | fuel + 1, b, hb, hlt => by
    rw [winnowBoundary]
    split
    next hle => exact ⟨hlt, hle⟩
    next hgt =>
      have hsum : (bucketsBelow cand sh (b + 1)).length = (bucketsBelow cand sh b).length + (bucket cand sh b).length := by
        have h0 := (buckets_perm cand sh b).length_eq
        have h1 := (buckets_perm cand sh (b + 1)).length_eq
        have h2 := (bucketsFrom_perm cand sh b).length_eq
        simp only [List.length_append] at h0 h1 h2
        omega
      have ih := winnowBoundary_reaches (sh := sh) hn (fuel := fuel) (b := b + 1) (by omega) (by rw [hsum]; exact Nat.not_le.mp hgt)
      rw [hsum] at ih
      exact ih

section
variable {cand rest : List Nat} {sh b : Nat} (hd : ∀ x ∈ cand, ∀ y ∈ cand, DigitsDecide (sh :: rest) x y)
include hd

/-- What the buckets from `b` on hold is above what the buckets before it hold. -/
theorem bucketsBelow_lowest : Lowest (bucketsBelow cand sh b).length cand (bucketsBelow cand sh b) (bucketsFrom cand sh b) where
  perm := buckets_perm cand sh b
  below y hy x hx :=
    have ⟨hy, hyb⟩ := mem_bucketsBelow.mp hy
    have ⟨hx, hxb⟩ := mem_bucketsFrom.mp hx
    (hd y hy x hx).1 (hyb.trans_le hxb)
  length_low := (Nat.min_eq_left (List.length_filter_le ..)).symm

theorem bucket_below : ∀ y ∈ bucket cand sh b, ∀ x ∈ bucketsFrom cand sh (b + 1), y < x := by
  intro y hy x hx
  obtain ⟨hy, hyb⟩ := mem_bucket.mp hy
  obtain ⟨hx, hxb⟩ := mem_bucketsFrom.mp hx
  exact (hd y hy x hx).1 (Nat.lt_of_succ_le (hyb ▸ hxb))

/-- The keys of one bucket are decided by the digits after it. -/
theorem bucket_decide : ∀ x ∈ bucket cand sh b, ∀ y ∈ bucket cand sh b, DigitsDecide rest x y := by
  intro x hx y hy
  obtain ⟨hx, hxb⟩ := mem_bucket.mp hx
  obtain ⟨hy, hyb⟩ := mem_bucket.mp hy
  exact (hd x hx y hy).2 (hxb.trans hyb.symm)

end

/-- A round that has more candidates than it needs keeps the buckets before the boundary and goes on in it. -/
theorem winnowRounds_round {sh need : Nat} {rest cand : List Nat} (out : List Nat) (h0 : need ≠ 0) (hn : need < cand.length) :
    ∃ b, (bucketsBelow cand sh b).length < need ∧ need ≤ (bucketsBelow cand sh b).length + (bucket cand sh b).length ∧
      winnowRounds (sh :: rest) cand out need =
        winnowRounds rest (bucket cand sh b) (out ++ bucketsBelow cand sh b) (need - (bucketsBelow cand sh b).length) := by
  have hnone : bucketsBelow cand sh 0 = [] := List.filter_eq_nil_iff.mpr fun x _ => by simp
  have hreach := winnowBoundary_reaches (sh := sh) hn.le (fuel := 255) (b := 0) rfl (by rw [hnone]; exact Nat.pos_of_ne_zero h0)
  rw [hnone] at hreach
  refine ⟨_, hreach.1, hreach.2, ?_⟩
  rw [winnowRounds, if_neg h0, if_neg (Nat.not_le.mpr hn)]
  rfl

/-- The rounds add the lowest of their candidates to what is out (R97). -/
theorem winnowRounds_lowest {shs cand : List Nat} (hnd : cand.Nodup) (hd : ∀ x ∈ cand, ∀ y ∈ cand, DigitsDecide shs x y)
    (out : List Nat) (need : Nat) : ∃ low rest, winnowRounds shs cand out need = out ++ low ∧ Lowest need cand low rest := by
  induction shs generalizing cand out need with
  | nil =>
    rw [winnowRounds]
    split
    next hle => exact ⟨cand, [], rfl, .all hle⟩
    next hgt =>
      have hone : cand.length ≤ 1 := List.toFinset_card_of_nodup hnd ▸ Finset.card_le_one.mpr (by simpa [DigitsDecide] using hd)
      obtain rfl : need = 0 := by omega
      exact ⟨[], cand, by simp, .zero cand⟩
  | cons sh shs ih =>
    obtain rfl | h0 := eq_or_ne need 0
    · exact ⟨[], cand, by simp [winnowRounds], .zero cand⟩
    obtain hle | hlt := le_or_gt cand.length need
    · exact ⟨cand, [], by simp [winnowRounds, h0, hle], .all hle⟩
    obtain ⟨b, hb, hreach, heq⟩ := winnowRounds_round (sh := sh) (rest := shs) out h0 hlt
    have hin : (bucket cand sh b).Nodup := hnd.filter _
    obtain ⟨low, rest, hout, hlow⟩ :=
      ih hin (bucket_decide hd) (out ++ bucketsBelow cand sh b) (need - (bucketsBelow cand sh b).length)
    have hfrom := (hlow.append_greater (by omega) (bucket_below hd)).congr (bucketsFrom_perm cand sh b) (.refl low)
    have hboth := (bucketsBelow_lowest hd).append hfrom
    rw [Nat.add_sub_of_le hb.le] at hboth
    exact ⟨_, _, by rw [heq, hout, List.append_assoc], hboth⟩

/-! ### Passes and selections (R97, R98) -/

/-- The keys above the threshold of a pass, if it has one. -/
def keysAbove (keys : List Nat) (t : Option Nat) : List Nat := keys.filter fun x => match t with | none => true | some t => decide (t < x)

theorem keysAbove_append (l l' : List Nat) (t : Option Nat) : keysAbove (l ++ l') t = keysAbove l t ++ keysAbove l' t :=
  List.filter_append ..

/-- Keys as R95 forms them: distinct, of 96 bits, with zero reserved bits. -/
def WinnowKeys (keys : List Nat) : Prop := keys.Nodup ∧ ∀ x ∈ keys, x < 2 ^ 96 ∧ x / 2 ^ 48 % 2 ^ 16 = 0

/-- The keys above the last one that a pass gave are those that it left. -/
theorem Lowest.keysAbove_last {keys : List Nat} {t : Option Nat} {k m : Nat} {low rest : List Nat}
    (h : Lowest k (keysAbove keys t) (low ++ [m]) rest) (hs : (low ++ [m]).Pairwise (· < ·)) : rest.Perm (keysAbove keys (some m)) := by
  have hm : m ∈ low ++ [m] := List.mem_append_right low (List.mem_singleton_self m)
  have habove : keysAbove (keysAbove keys t) (some m) = keysAbove keys (some m) := by
    rw [keysAbove, keysAbove, List.filter_filter]
    refine List.filter_congr fun x _ => ?_
    have hmt := (List.mem_filter.mp (h.mem_low hm)).2
    cases t with
    | none => exact Bool.and_true _
    | some t => simp at hmt ⊢; omega
  have hlow : keysAbove (low ++ [m]) (some m) = [] := List.filter_eq_nil_iff.mpr fun x hx => by
    obtain hx | rfl := (List.mem_append.mp hx).imp_right List.mem_singleton.mp
    · simpa using ((List.pairwise_append.mp hs).2.2 x hx m (List.mem_singleton_self m)).le
    · simp
  have hrest : keysAbove rest (some m) = rest := List.filter_eq_self.mpr fun x hx => decide_eq_true (h.below m hm x hx)
  have hsplit : keysAbove ((low ++ [m]) ++ rest) (some m) = rest := by rw [keysAbove_append, hlow, hrest, List.nil_append]
  exact habove ▸ hsplit ▸ h.perm.filter _

section
variable {keys : List Nat} (hk : WinnowKeys keys)
include hk

/-- A pass gives the lowest keys above its threshold, in ascending order (R97). -/
theorem winnowPass_lowest (k : Nat) (t : Option Nat) :
    (winnowPass keys k t).Pairwise (· < ·) ∧ ∃ rest, Lowest k (keysAbove keys t) (winnowPass keys k t) rest := by
  obtain ⟨hnd, hw⟩ := hk
  have hd : ∀ x ∈ keysAbove keys t, ∀ y ∈ keysAbove keys t, DigitsDecide winnowShifts x y := fun x hx y hy =>
    winnowShifts_decide (hw x (List.mem_filter.mp hx).1) (hw y (List.mem_filter.mp hy).1)
  obtain ⟨low, rest, hout, hlow⟩ := winnowRounds_lowest (hnd.filter _) hd [] k
  have hpass : winnowPass keys k t = sortNat low := congrArg sortNat hout
  have hlownd : low.Nodup := (List.nodup_append.mp (hlow.perm.nodup_iff.mpr (hnd.filter _))).1
  rw [hpass]
  exact ⟨sortNat_strictly_ascends hlownd, rest, hlow.congr (.refl _) (sortBy_perm _ low)⟩

/-- A selection gives the lowest keys above its threshold, in ascending order (R98). -/
theorem winnowSelect_lowest {fuel k : Nat} (hf : k ≤ 64 * fuel) (t : Option Nat) :
    (winnowSelect keys fuel k t).Pairwise (· < ·) ∧ ∃ rest, Lowest k (keysAbove keys t) (winnowSelect keys fuel k t) rest := by
  induction fuel generalizing k t with
  | zero =>
    obtain rfl : k = 0 := by omega
    exact ⟨.nil, _, .zero _⟩
  | succ fuel ih =>
    simp only [winnowSelect]
    split
    next h0 => exact h0 ▸ ⟨.nil, _, .zero _⟩
    next h0 =>
      obtain ⟨hasc, rest, hlow⟩ := winnowPass_lowest hk (min 64 k) t
      split
      next hshort => exact ⟨hasc, rest, hlow.of_short hshort (Nat.min_le_right 64 k)⟩
      next hfull =>
        generalize winnowPass keys (min 64 k) t = out at hasc hlow hfull ⊢
        obtain rfl | ⟨low, m, rfl⟩ := List.eq_nil_or_concat' out
        · rw [List.length_nil] at hfull; omega
        have hrest := hlow.keysAbove_last hasc
        obtain ⟨hasc', rest', hlow'⟩ := ih (k := k - 64) (by omega) (some m)
        rw [List.getLast?_concat]
        have hboth := hlow.append (hlow'.congr hrest.symm (.refl _))
        refine ⟨List.pairwise_append.mpr ⟨hasc, hasc', fun y hy x hx => ?_⟩, rest', ?_⟩
        · exact hlow.below y hy x (hrest.symm.subset (hlow'.mem_low hx))
        · rwa [show min 64 k + (k - 64) = k by omega] at hboth

end

/-- Settles O7: the passes of a selection give its lowest keys, and what is not among them is in the rest. -/
theorem winnowerSelectsSmallestKeys : Obligations.WinnowerSelectsSmallestKeys := by
  intro keys k _ _ hnd hw out
  obtain ⟨hasc, rest, hlow⟩ := winnowSelect_lowest ⟨hnd, hw⟩ (fuel := ceilDiv k 64) (k := k) (by rw [ceilDiv]; omega) none
  have hall : keysAbove keys none = keys := List.filter_true keys
  rw [hall] at hlow
  exact ⟨hasc, hlow.length_low, fun _ hx => hlow.mem_low hx, fun x hx hn y hy => hlow.below y hy x (hlow.mem_rest hx hn)⟩

end Sys2Proof.Machine
end

section
/-! SHARD_LIST, CERT_FIELDS, REMOTE_WAIT_EXPIRY and SUB_SEARCH (R105, R108, R117, R158, R168). -/

namespace Sys2Proof.Machine
set_option Elab.async false

/-- The place of the entry that a shard list names, and of the one that certificate blocks are for. -/
def Work.listPos (w : Work) (port : Nat) (body : Bytes) : Nat := w.shards.findIdx fun x => x.id == u32 body 8 && x.src.port == port
def Work.certPos (w : Work) (port : Nat) (body : Bytes) : Nat :=
  w.shards.findIdx fun x => x.src.port == port && ((certBlocks 1024 body).head?.map fun b => u32 b 24 == x.id).getD false

/-- Whether a list suits: lists are still awaited, its entry has none yet, and it fits (R108). -/
def Work.takesList (w : Work) (phase port tag : Nat) (body : Bytes) : Bool :=
  match w.shards[w.listPos port body]? with
  | some x => decide (phase ≤ 8) && x.stage != 5 && listFits body x w.k tag
  | none => false

theorem takesList_of_fits {w : Work} {phase port tag : Nat} {body : Bytes} {x : ShardWork} (hx : w.shards[w.listPos port body]? = some x)
    (hp : phase ≤ 8) (hst : x.stage ≠ 5) (hfit : listFits body x w.k tag = true) : w.takesList phase port tag body = true := by
  simp [Work.takesList, hx, hp, hst, hfit]

theorem takesList_of_unfit {w : Work} {phase port tag : Nat} {body : Bytes}
    (h : ∀ x, w.shards[w.listPos port body]? = some x → 8 < phase ∨ x.stage = 5 ∨ listFits body x w.k tag = false) :
    w.takesList phase port tag body = false := by
  rw [Work.takesList]
  split
  next x hx =>
    obtain hp | hst | hfit := h x hx
    · simp [Nat.not_le.mpr hp]
    · simp [hst]
    · simp [hfit]
  next => rfl

/-- The entries whose list is missing (R108), and the first whose list has more records than it has certificate blocks (R117). -/
def Work.late (w : Work) : List ShardWork := w.remotes.filter fun x => x.stage != 5
def Work.uncertified (w : Work) : Option ShardWork := w.remotes.find? fun x => decide (x.certs.length < x.result.length)

section
variable {s : State} {tag c : Nat} {f : FarCtx} {w : Work} (hf : s.farOf tag = some (c, f)) (hw : s.workOf tag = some w)
include hf hw

section
variable {port : Nat} {body : Bytes} (hk : f.kind = 1)
include hk

/-- SHARD_LIST gives a list that suits to its entry, and loses the request for any other (R108). -/
theorem shardList_runs (hp : f.phase ≠ 0x0C) : exec (.shardList port tag body) s = .next (
    if w.takesList f.phase port tag body then s.modEntry tag (w.listPos port body) fun y => y.withList body
    else ((s.bump 0x3012 4 1).raise 0x3041 (locHedge port) 0).lose tag 9) := by
  have hgo : ¬ (f.kind ≠ 1 ∨ f.phase = 0x0C) := by simp [hk, hp]
  simp only [exec, execShardList, hf, hw, if_neg hgo]
  rfl

/-- CERT_FIELDS gives the entry its blocks, by rank (R117). -/
theorem certFields_runs (hp : f.phase ≤ 8) : exec (.certFields port tag body) s = .next (s.modEntry tag (w.certPos port body) fun y =>
    { y with certs := ((certBlocks 1024 body).zipIdx).map fun e => (e.2, e.1) }) := by
  have hgo : ¬ (f.kind ≠ 1 ∨ 0x08 < f.phase) := by simp [hk, hp]
  simp only [exec, execCertFields, hf, hw, if_neg hgo, Work.certPos]

end

section
variable (ho : f.owner = 1) (hp : f.phase = 8)
include ho hp

/-- REMOTE_WAIT_EXPIRY counts and reports each missing list, and loses the request (R108). -/
theorem remoteWaitExpiry_late (hl : w.late ≠ []) : exec (.remoteWaitExpiry tag) s = .next
    ((w.late.foldl (fun (u : State) x => (u.bump 0x3012 4 1).raise 0x3040 (locHedge x.src.port) 0) s).lose tag 9) := by
  have hgo : ¬ (f.owner ≠ 1 ∨ f.phase ≠ 0x08) := by simp [ho, hp]
  simp only [exec, execRemoteWaitExpiry, hf, hw, if_neg hgo]
  exact if_pos (by simpa [Work.late] using hl)

/-- Where every list has arrived, it reports missing certificate blocks and loses the request, or changes nothing (R117). -/
theorem remoteWaitExpiry_lists (hl : w.late = []) : exec (.remoteWaitExpiry tag) s =
    .next (w.uncertified.elim s fun x => (s.raise 0x3055 (locHedge x.src.port) 0).lose tag 9) := by
  have hgo : ¬ (f.owner ≠ 1 ∨ f.phase ≠ 0x08) := by simp [ho, hp]
  have hin : ¬ ¬ w.late.isEmpty = true := by simp [hl]
  simp only [exec, execRemoteWaitExpiry, hf, hw, if_neg hgo]
  refine (if_neg hin).trans ?_
  rw [Work.uncertified]
  cases w.remotes.find? fun x => decide (x.certs.length < x.result.length) <;> rfl

end

end

/-- Settles O17: a list suits or it does not; a wait expires with lists, with certificate blocks or with nothing missing. -/
theorem remoteListsAndSubSearchesComplete : Obligations.RemoteListsAndSubSearchesComplete := by
  refine ⟨fun s port tag c body f w hf hw hk hp => ⟨fun x hx hph hst hfit => ?_, fun h => ?_⟩,
    fun s port tag c pos body f w hf hw hk hp hpos => hpos ▸ certFields_runs hf hw hk hp,
    fun s tag c f w hf hw ho hp => ⟨remoteWaitExpiry_late hf hw ho hp, fun hl x hx => ?_, fun hl h => ?_⟩,
    fun s port body => ⟨_, rfl, rfl, rfl⟩⟩
  · exact (shardList_runs hf hw hk hp).trans (congrArg _ (if_pos (takesList_of_fits hx hph hst hfit)))
  · exact (shardList_runs hf hw hk hp).trans (congrArg _ (if_neg (ne_true_of_eq_false (takesList_of_unfit h))))
  · have hu : w.uncertified = some x := hx
    rw [remoteWaitExpiry_lists hf hw ho hp hl, hu, Option.elim_some]
  · have hu : w.uncertified = none := List.find?_eq_none.mpr fun x hx => by simpa using h x hx
    rw [remoteWaitExpiry_lists hf hw ho hp hl, hu, Option.elim_none]

end Sys2Proof.Machine
end

section
/-! Programs of a batch (R185, R189, R192, R220): an instruction runs each request's part in turn, and no part meets what another did. -/

namespace Sys2Proof.Machine
set_option Elab.async false

/-! ### The batch -/

/-- Distinct numbers stay all, in their order. -/
theorem dedupBy_of_nodup {l seen : List Nat} (hl : l.Nodup) (hs : ∀ x ∈ l, x ∉ seen) : dedupBy (fun t => t) seen l = l := by
  induction l generalizing seen with
  | nil => rfl
  | cons x l ih =>
    obtain ⟨hx, hl⟩ := List.nodup_cons.mp hl
    have hfree : seen.contains x = false := by simpa using hs x List.mem_cons_self
    have hrest : ∀ y ∈ l, y ∉ x :: seen := fun y hy hmem => by
      obtain rfl | hin := List.mem_cons.mp hmem
      · exact hx hy
      · exact hs y (List.mem_cons_of_mem _ hy) hin
    rw [dedupBy, hfree, ih hl hrest]
    rfl

section
variable {s : State} {op : Nat} {ti : TInstr} {tag : Nat} {w : Work}

theorem State.atProg.workOf (h : s.atProg op ti tag w) : s.workOf tag = some w := by
  obtain ⟨⟨f, ⟨-, -, hw, -⟩, -⟩, -⟩ := h
  exact hw

theorem State.atProg.atInstr (h : s.atProg op ti tag w) : s.atInstr op ti tag = true := by
  obtain ⟨⟨f, ⟨hf, ho, hw, hl⟩, hph⟩, hg, draft, rest, hprog, hgen⟩ := h
  obtain ⟨⟨c, x⟩, hfar, rfl⟩ := Option.map_eq_some_iff.mp hf
  have howner : x.owner = 2 := ho
  have hphase : [2, 3, 0x21, 0x22, 0x23].contains x.phase = true := List.contains_iff_mem.mpr hph
  have hasked : (op != 0x44 || (w.gen.map fun g => g.asked == 0).getD true) = true := by
    cases hgw : w.gen with
    | none => simp
    | some g =>
      obtain ⟨-, -, ha⟩ := hgen g hgw
      by_cases h44 : op = 0x44
      · simp [ha h44]
      · simp [h44]
  simp only [State.atInstr, hfar, hw, hphase, hasked]
  simp [howner, hl, hg, hprog]

/-- A program goes on within its own image: it is an encoder's, or more of the same program follows (R221). -/
def Work.goesOn (w : Work) : Prop :=
  ∀ g, w.gen = some g → (w.prog.drop 1).head?.map (·.draft) = some ((w.prog.head?.map (·.draft)).getD false)

theorem State.atProg.goesOn (h : s.atProg op ti tag w) : w.goesOn := by
  obtain ⟨-, -, draft, rest, hprog, hgen⟩ := h
  intro g hg
  obtain ⟨-, hrest, -⟩ := hgen g hg
  simpa [hprog] using hrest

/-- A length table covers the rows of a request that stands at an instruction, if it is a generation (R220). -/
theorem State.atProg.inPass (h : s.atProg op ti tag w) : (w.gen.map fun g => g.pass.isSome).getD true = true := by
  obtain ⟨-, -, draft, rest, hprog, hgen⟩ := h
  cases hg : w.gen with
  | none => rfl
  | some g => exact (hgen g hg).1

end

section
variable {s : State} {op : Nat} {ti : TInstr} {tags : List Nat} (hb : s.batchAt op ti tags)
include hb

theorem State.batchAt.atProg {tag : Nat} (ht : tag ∈ tags) : ∃ w, s.atProg op ti tag w :=
  have ⟨_, _, hat⟩ := hb
  have ⟨w, hw, _⟩ := hat tag ht
  ⟨w, hw⟩

theorem State.batchAt.standing : s.standing op ti tags = tags := by
  obtain ⟨hnd, img, hat⟩ := hb
  have hat' : ∀ tag ∈ tags, ∃ w, s.atInstr op ti tag = true ∧ s.workOf tag = some w ∧ w.runImage = img := fun tag ht => by
    obtain ⟨w, hw, hi⟩ := hat tag ht
    exact ⟨w, hw.atInstr, hw.workOf, hi⟩
  have hall : (dedupBy (fun t => t) [] tags).filter (s.atInstr op ti) = tags := by
    rw [dedupBy_of_nodup hnd (by simp)]
    exact List.filter_eq_self.mpr fun tag ht => by obtain ⟨w, hi, -⟩ := hat' tag ht; exact hi
  simp only [State.standing, hall]
  cases tags with
  | nil => rfl
  | cons t ts =>
    obtain ⟨w, -, hw, hi⟩ := hat' t List.mem_cons_self
    simp only [List.head?_cons, Option.bind_some, hw]
    refine List.filter_eq_self.mpr fun tag ht => ?_
    obtain ⟨x, -, hx, hix⟩ := hat' tag ht
    simp [hx, hi, hix]

theorem State.batchAt.startPass : s.startPass tags = s := by
  have hnew : (tags.filter fun t => (((s.workOf t).bind (·.gen)).map fun g => g.pass.isNone).getD false) = [] := by
    refine List.filter_eq_nil_iff.mpr fun tag ht => ?_
    obtain ⟨w, hw⟩ := hb.atProg ht
    have hin := hw.inPass
    rw [hw.workOf, Option.bind_some]
    cases hg : w.gen with
    | none => simp
    | some g => simpa [hg, Option.isSome_iff_ne_none] using hin
  rw [State.startPass, hnew]
  rfl

theorem State.batchAt.batch : s.batch op ti tags = tags := by
  rw [State.batch, hb.standing]
  refine List.filter_eq_self.mpr fun tag ht => ?_
  obtain ⟨w, hw⟩ := hb.atProg ht
  rw [hw.workOf, Option.bind_some]
  exact hw.inPass

end

/-- A request's part of an instruction, after which its program moves on. -/
def State.runPart (part : Nat → Work → State → State) (s : State) (tag : Nat) : State :=
  match s.workOf tag with
  | some w => (part tag w s).stepProg tag
  | none => s

section
variable {s v : State} {op : Nat} {ti : TInstr} {tags : List Nat} {whole : List Nat → State → State × Bool}
  {part : Nat → Work → State → State} (hb : s.batchAt op ti tags)
include hb

/-- What the batch goes through as a whole fails, and no part runs. -/
theorem runBatch_fails (hne : tags ≠ []) (hw : whole tags s = (v, false)) : s.runBatch op ti tags whole part = v := by
  simp only [State.runBatch, hb.standing, hb.startPass, hb.batch, hw]
  simp [hne]

/-- It passes and changes nothing, and the parts run. -/
theorem runBatch_passes (hw : whole tags s = (s, true)) : s.runBatch op ti tags whole part = tags.foldl (State.runPart part) s := by
  simp only [State.runBatch, hb.standing, hb.startPass, hb.batch, hw]
  cases tags <;> rfl

end

/-! ### What an instruction reads of the node -/

/-- All that the result of an instruction can depend on, the requests' own work aside, is in `u` as it is in `s`. -/
structure State.ReadsAs (s u : State) : Prop where
  mem : u.mem = s.mem
  tier : u.tier = s.tier
  models : u.models = s.models
  shards : u.shards = s.shards
  active : u.dict.active = s.dict.active
  fars : u.ledger.fars = s.ledger.fars
  stubs : u.ledger.stubs = s.ledger.stubs
  lens : u.ledger.lens = s.ledger.lens
  base : ∀ a, (u.arr a).base = (s.arr a).base
  reg : ∀ a, (u.arr a).reg = (s.arr a).reg

theorem State.ReadsAs.refl (s : State) : s.ReadsAs s := ⟨rfl, rfl, rfl, rfl, rfl, rfl, rfl, rfl, fun _ => rfl, fun _ => rfl⟩

theorem State.ReadsAs.trans {s u v : State} (h : s.ReadsAs u) (k : u.ReadsAs v) : s.ReadsAs v where
  mem := k.mem.trans h.mem
  tier := k.tier.trans h.tier
  models := k.models.trans h.models
  shards := k.shards.trans h.shards
  active := k.active.trans h.active
  fars := k.fars.trans h.fars
  stubs := k.stubs.trans h.stubs
  lens := k.lens.trans h.lens
  base a := (k.base a).trans (h.base a)
  reg a := (k.reg a).trans (h.reg a)

theorem modWork_readsAs (s : State) (tag : Nat) (f : Work → Work) : s.ReadsAs (s.modWork tag f) :=
  ⟨rfl, rfl, rfl, rfl, rfl, rfl, rfl, rfl, fun _ => rfl, fun _ => rfl⟩

theorem setBuf_readsAs (s : State) (tag id : Nat) (b : Buf) : s.ReadsAs (s.setBuf tag id b) := modWork_readsAs ..

theorem modTg_readsAs (s : State) (g : GroupId) (f : TGroup → TGroup) : s.ReadsAs (s.modTg g f) :=
  ⟨rfl, rfl, rfl, rfl, rfl, rfl, rfl, rfl, fun _ => rfl, fun _ => rfl⟩

theorem tallyNan_readsAs (s : State) (fl : Flags) : s.ReadsAs (s.tallyNan fl) := by
  simp only [State.tallyNan]
  split
  · exact .refl s
  · exact ⟨rfl, rfl, rfl, rfl, rfl, rfl, rfl, rfl, fun _ => rfl, fun _ => rfl⟩

@[simp] theorem tallyNan_ledger (s : State) (fl : Flags) : (s.tallyNan fl).ledger = s.ledger := by
  simp only [State.tallyNan]
  split <;> rfl

/-- Clip statistics touch neither the bank in use nor its registers. -/
theorem tally_readsAs (s : State) (a : Nat) (fl : Flags) : s.ReadsAs (s.tally a fl) := by
  have harr (k : Nat) : ((s.modArr a fun t => t.tally fl).arr k).base = (s.arr k).base ∧
      ((s.modArr a fun t => t.tally fl).arr k).reg = (s.arr k).reg := by
    obtain rfl | hne := eq_or_ne k a
    · rw [State.arr_modArr]; exact ⟨rfl, rfl⟩
    · rw [State.arr_modArr_ne s _ hne]; exact ⟨rfl, rfl⟩
  have hclip : s.ReadsAs (s.modArr a fun t => t.tally fl) :=
    ⟨rfl, rfl, rfl, rfl, rfl, rfl, rfl, rfl, fun k => (harr k).1, fun k => (harr k).2⟩
  exact hclip.trans (tallyNan_readsAs _ fl)

@[simp] theorem tally_ledger (s : State) (a : Nat) (fl : Flags) : (s.tally a fl).ledger = s.ledger := tallyNan_ledger ..

/-! ### The parts of a batch -/

theorem stepProg_eq {u : State} {tag : Nat} {w : Work} (hw : u.workOf tag = some w) (hgo : w.goesOn) :
    u.stepProg tag = u.modWork tag fun x => { x with prog := w.prog.drop 1 } := by
  simp only [State.stepProg, hw]
  cases hg : w.gen with
  | none => rfl
  | some g =>
    obtain ⟨p, hp, hd⟩ := Option.map_eq_some_iff.mp (hgo g hg)
    obtain ⟨rest, hrest⟩ := List.head?_eq_some_iff.mp hp
    simp only [hrest, if_pos hd]

/-- The work of a request that an instruction leaves: its result, and the program past the instruction. -/
def Work.movedOn (w : Work) (id : Nat) (b : Buf) : Work := { w with bufs := mput w.bufs id b, lastOut := id, prog := w.prog.drop 1 }

section
variable {s : State} {op : Nat} {ti : TInstr} {tags : List Nat} {part : Nat → Work → State → State} {out : Nat → Work → Buf}

/-- A part writes its request's result and changes nothing else of what instructions read. -/
def State.PartWrites (s : State) (ti : TInstr) (part : Nat → Work → State → State) (out : Nat → Work → Buf) : Prop :=
  ∀ u tag w, s.ReadsAs u → s.workOf tag = some w → u.workOf tag = some w →
    ∃ v, part tag w u = v.setBuf tag ti.res (out tag w) ∧ u.ReadsAs v ∧ v.ledger = u.ledger

theorem runPart_moves {u : State} {tag : Nat} {w : Work} (hpart : s.PartWrites ti part out) (hu : s.ReadsAs u)
    (hs : s.workOf tag = some w) (hw : u.workOf tag = some w) (hgo : w.goesOn) :
    s.ReadsAs (u.runPart part tag) ∧ (u.runPart part tag).workOf tag = some (w.movedOn ti.res (out tag w)) ∧
      ∀ k, k ≠ tag → (u.runPart part tag).workOf k = u.workOf k := by
  obtain ⟨v, hv, hread, hled⟩ := hpart u tag w hu hs hw
  have hvw (k : Nat) : v.workOf k = u.workOf k := by rw [State.workOf, hled, State.workOf]
  have hset : (v.setBuf tag ti.res (out tag w)).workOf tag = some { w with bufs := mput w.bufs ti.res (out tag w), lastOut := ti.res } :=
    State.workOf_modWork _ ((hvw tag).trans hw)
  have hrun : u.runPart part tag = (v.setBuf tag ti.res (out tag w)).modWork tag fun x => { x with prog := w.prog.drop 1 } := by
    simp only [State.runPart, hw, hv]
    exact stepProg_eq (w := { w with bufs := mput w.bufs ti.res (out tag w), lastOut := ti.res }) hset hgo
  rw [hrun]
  refine ⟨hu.trans (hread.trans ((setBuf_readsAs ..).trans (modWork_readsAs ..))), State.workOf_modWork _ hset, fun k hk => ?_⟩
  calc _ = (v.setBuf tag ti.res (out tag w)).workOf k := State.workOf_modWork_ne _ _ hk
    _ = v.workOf k := State.workOf_modWork_ne _ _ hk
    _ = u.workOf k := hvw k

/-- The parts of distinct requests, in turn: each has its own result, as `s` gives it. -/
theorem runParts_move (hpart : s.PartWrites ti part out) {l : List Nat} (hnd : l.Nodup) {u : State} (hu : s.ReadsAs u)
    (hl : ∀ tag ∈ l, ∃ w, s.workOf tag = some w ∧ u.workOf tag = some w ∧ w.goesOn) :
    s.ReadsAs (l.foldl (State.runPart part) u) ∧
      (∀ tag w, tag ∈ l → s.workOf tag = some w →
        (l.foldl (State.runPart part) u).workOf tag = some (w.movedOn ti.res (out tag w))) ∧
      ∀ k, k ∉ l → (l.foldl (State.runPart part) u).workOf k = u.workOf k := by
  induction l generalizing u with
  | nil => exact ⟨hu, fun _ _ h => absurd h List.not_mem_nil, fun _ _ => rfl⟩
  | cons t l ih =>
    obtain ⟨ht, hnd⟩ := List.nodup_cons.mp hnd
    obtain ⟨x, hsx, hux, hgo⟩ := hl t List.mem_cons_self
    obtain ⟨hread, hmoved, hothers⟩ := runPart_moves hpart hu hsx hux hgo
    have hl' : ∀ tag ∈ l, ∃ w, s.workOf tag = some w ∧ (u.runPart part t).workOf tag = some w ∧ w.goesOn := fun tag hm => by
      obtain ⟨w, hs, hw, hg⟩ := hl tag (List.mem_cons_of_mem _ hm)
      exact ⟨w, hs, (hothers tag fun e => ht (e ▸ hm)).trans hw, hg⟩
    obtain ⟨hend, hin, hout⟩ := ih hnd hread hl'
    refine ⟨hend, fun tag w hm hs => ?_, fun k hk => ?_⟩
    · obtain rfl | hm := List.mem_cons.mp hm
      · obtain rfl : w = x := Option.some.inj (hs.symm.trans hsx)
        exact (hout tag ht).trans hmoved
      · exact hin tag w hm hs
    · obtain ⟨hne, hnl⟩ := not_or.mp fun h => hk (List.mem_cons.mpr h)
      exact (hout k hnl).trans (hothers k hne)

/-- A batch whose whole passes and whose parts write their results has moved on (R185). -/
theorem runBatch_movesOn {whole : List Nat → State → State × Bool} (hb : s.batchAt op ti tags) (hw : whole tags s = (s, true))
    (hpart : s.PartWrites ti part out) : s.movesOn (s.runBatch op ti tags whole part) ti tags out := by
  have hl : ∀ tag ∈ tags, ∃ w, s.workOf tag = some w ∧ s.workOf tag = some w ∧ w.goesOn := fun tag ht => by
    obtain ⟨w, hat⟩ := hb.atProg ht
    exact ⟨w, hat.workOf, hat.workOf, hat.goesOn⟩
  obtain ⟨hread, hin, hout⟩ := runParts_move hpart hb.1 (.refl s) hl
  rw [runBatch_passes hb hw]
  exact ⟨hin, hout, hread.mem⟩

end

end Sys2Proof.Machine
end
section
/-! GEMM, EWISE, ACT, NORM, SOFTMAX, POOL, CONVERT and TILL_MATVEC (R124, R180 to R191, R260). -/

namespace Sys2Proof.Machine
set_option Elab.async false

/-! ### What operands and rows read -/

section
variable {s u : State} (h : s.ReadsAs u)
include h

theorem State.ReadsAs.tillGroups : u.tillGroups = s.tillGroups := by
  rw [State.tillGroups, State.actN, State.act, h.active]; rfl

theorem State.ReadsAs.bitmapAt (g : GroupId) (bank r : Nat) : u.bitmapAt g bank r = s.bitmapAt g bank r := by
  simp only [State.bitmapAt, h.tillGroups, h.tier, h.shards]

theorem State.ReadsAs.bitmapRow (g : GroupId) (bank r : Nat) : u.bitmapRow g bank r = s.bitmapRow g bank r := by
  simp only [State.bitmapRow, h.bitmapAt, h.shards]

theorem State.ReadsAs.placeRow (g : GroupId) (bank r : Nat) : u.placeRow g bank r = s.placeRow g bank r := by
  simp only [State.placeRow, State.placeAt, h.tier, h.models]

theorem State.ReadsAs.row (g : GroupId) (bank r : Nat) : u.row g bank r = s.row g bank r := by
  simp only [State.row, h.bitmapRow, h.placeRow, h.mem]

theorem State.ReadsAs.blockWeights (g : GroupId) (r : Bytes) : u.blockWeights g r = s.blockWeights g r := by
  have hrow (bank : Nat) : u.row g bank = s.row g bank := funext (h.row g bank)
  simp only [State.blockWeights, State.rowsBytes, hrow]

theorem State.ReadsAs.products (g : GroupId) (r : Bytes) (xs : List (List Int)) : u.products g r xs = s.products g r xs := by
  simp only [State.products, h.blockWeights]

theorem State.ReadsAs.blocksOfB (w : Work) (ti : TInstr) : u.blocksOfB w ti = s.blocksOfB w ti := by
  simp only [State.blocksOfB, h.tier, h.models]

theorem State.ReadsAs.weightsB (w : Work) (ti : TInstr) (b : Buf) (fa base : Nat) (reg : Nat → Nat) :
    u.weightsB w ti b fa base reg = s.weightsB w ti b fa base reg := by
  simp only [State.weightsB, State.bankBuf, h.blocksOfB, h.blockWeights]

section
variable {tag : Nat} (hw : u.workOf tag = s.workOf tag)
include hw

theorem State.ReadsAs.entriesOf : u.entriesOf tag = s.entriesOf tag := by
  have hfar : u.farOf tag = s.farOf tag := by rw [State.farOf, h.fars]; rfl
  have hstub : u.stubOf tag = s.stubOf tag := by rw [State.stubOf, h.stubs]; rfl
  simp only [State.entriesOf, hfar, hstub, hw, h.lens]

theorem State.ReadsAs.rowLimit (ti : TInstr) : u.rowLimit tag ti = s.rowLimit tag ti := by
  rw [State.rowLimit, h.entriesOf hw]; rfl

theorem State.ReadsAs.gemmA (w : Work) (ti : TInstr) : u.gemmA tag w ti = s.gemmA tag w ti := by
  rw [State.gemmA, h.rowLimit hw]; rfl

theorem State.ReadsAs.vecA (w : Work) (ti : TInstr) : u.vecA tag w ti = s.vecA tag w ti := by
  simp only [State.vecA, State.upTo, h.entriesOf hw, h.rowLimit hw]

end

end

/-! ### Products of the banks (R258, R260) -/

/-- Outputs so far, with the node that gave them. -/
abbrev Issued := List (List Int) × State

/-- A block's unit takes up to 16 rows, and their outputs join those so far. -/
def issueRows (p : TillPlace) (a : Issued) (xs : List (List Int)) : Issued :=
  let ys := a.2.products p.g p.rec_ xs
  let latch := fun (t : TGroup) => { t with xIn := overlay (padTo 32768 t.xIn) 0 (xs.flatMap fun x => x.map (BitVec.ofInt 8)) }
  (a.1 ++ ys, (a.2.modTg p.g latch).putProducts p.g ys (sumsOf ys))

/-- A block takes all rows, and its channels join those of the blocks before it. -/
def issueBlock (rows : List (List Int)) (a : Issued) (p : TillPlace) : Issued :=
  let r := (groupsOf 16 rows).foldl (issueRows p) ([], a.2)
  ((a.1.zip r.1).map fun y => y.1 ++ y.2, r.2)

theorem issueBlocks_eq (s : State) (ps : List TillPlace) (rows : List (List Int)) :
    s.issueBlocks ps rows = ps.foldl (issueBlock rows) (rows.map fun _ => [], s) := rfl

/-- The same outputs, by nodes that read as `s`. -/
def SameOutputs (s : State) (a b : Issued) : Prop := a.1 = b.1 ∧ s.ReadsAs a.2 ∧ s.ReadsAs b.2

section
variable {s : State} {a b : Issued} (h : SameOutputs s a b)
include h

theorem SameOutputs.issueRows (p : TillPlace) (xs : List (List Int)) : SameOutputs s (issueRows p a xs) (issueRows p b xs) := by
  obtain ⟨hout, ha, hb⟩ := h
  have hprod : a.2.products p.g p.rec_ xs = b.2.products p.g p.rec_ xs := (ha.products ..).trans (hb.products ..).symm
  exact ⟨congrArg₂ _ hout hprod, ha.trans ((modTg_readsAs ..).trans (modTg_readsAs ..)),
    hb.trans ((modTg_readsAs ..).trans (modTg_readsAs ..))⟩

theorem SameOutputs.issueBlock (rows : List (List Int)) (p : TillPlace) : SameOutputs s (issueBlock rows a p) (issueBlock rows b p) := by
  obtain ⟨hout, ha, hb⟩ := h
  have hr : SameOutputs s ((groupsOf 16 rows).foldl (Machine.issueRows p) ([], a.2)) ((groupsOf 16 rows).foldl (Machine.issueRows p) ([], b.2)) :=
    List.foldl_rel (r := SameOutputs s) ⟨rfl, ha, hb⟩ fun xs _ _ _ h => h.issueRows p xs
  obtain ⟨hys, hra, hrb⟩ := hr
  exact ⟨by simp only [Machine.issueBlock, hout, hys], hra, hrb⟩

end

/-- The outputs of a tensor's blocks come from what instructions read alone, and leave it as it is. -/
theorem issueBlocks_reads {s u : State} (h : s.ReadsAs u) (ps : List TillPlace) (rows : List (List Int)) :
    (u.issueBlocks ps rows).1 = (s.issueBlocks ps rows).1 ∧ s.ReadsAs (u.issueBlocks ps rows).2 := by
  have hfold : SameOutputs s (u.issueBlocks ps rows) (s.issueBlocks ps rows) :=
    issueBlocks_eq u ps rows ▸ issueBlocks_eq s ps rows ▸
      List.foldl_rel (r := SameOutputs s) ⟨rfl, h, .refl s⟩ fun p _ _ _ h => h.issueBlock rows p
  exact ⟨hfold.1, hfold.2.1⟩

@[simp] theorem issueBlocks_ledger (s : State) (ps : List TillPlace) (rows : List (List Int)) :
    (s.issueBlocks ps rows).2.ledger = s.ledger :=
  issueBlocks_eq s ps rows ▸ foldl_same (f := issueBlock rows) (g := fun a => a.2.ledger)
    (fun a p => foldl_same (f := issueRows p) (g := fun a => a.2.ledger) (fun _ _ => rfl) (groupsOf 16 rows) ([], a.2)) ps _

/-! ### Checks of a batch (R185) -/

@[simp] theorem State.checkBatch_ok (s : State) (p c l i k : Nat) (tags : List Nat) : s.checkBatch .ok p c l i k tags = (s, true) := rfl

/-- A check that fails twice fails for good (R123). -/
theorem State.checkBatch_twice (s : State) (p c l i k : Nat) (tags : List Nat) : (s.checkBatch .twice p c l i k tags).2 = false := rfl

/-- Two checks in turn that pass change nothing. -/
theorem State.checkBatch_both (s : State) (p p' c c' l l' i i' k k' : Nat) (tags : List Nat) {chk : Chk} (h : chk = .ok) :
    (let r := s.checkBatch chk p c l i k tags; if ¬ r.2 then r else r.1.checkBatch .ok p' c' l' i' k' tags) = (s, true) := by
  subst h
  rfl

/-! ### Parts that count in an array's statistics -/

section
variable {s : State} {ti : TInstr} {tags : List Nat} {arr : Nat}

/-- Results that depend only on what instructions read are those that `s` gives, whatever the statistics count. -/
theorem State.PartWrites.of_tally {res : State → Nat → Work → Buf × Flags}
    (hres : ∀ u tag w, s.ReadsAs u → u.workOf tag = s.workOf tag → res u tag w = res s tag w) :
    s.PartWrites ti (fun tag w u => (u.tally arr (res u tag w).2).setBuf tag ti.res (res u tag w).1) fun tag w => (res s tag w).1 := by
  intro u tag w hu hs hw
  exact ⟨_, congrArg _ (congrArg Prod.fst (hres u tag w hu (hw.trans hs.symm))), tally_readsAs .., tally_ledger ..⟩

/-- What a checked vector operation writes and counts: its rows converted to OUT_FORMAT (R182). -/
def vectorResult (f : Nat) (x : List (List Nat) × Flags) : Buf × Flags :=
  let c := convRows f x.1
  (c.1, if x.2.isEmpty then c.2 else bothFlags x.2 c.2)

/-- A vector operation whose check passes gives every request of the batch its rows. -/
theorem vectorOp_moves {op : Nat} {rows : State → Nat → Work → List (List Nat) × Flags} (ha : arr < 64) (hb : s.batchAt op ti tags)
    (hrows : ∀ u tag w, s.ReadsAs u → u.workOf tag = s.workOf tag → rows u tag w = rows s tag w) :
    s.movesOn (s.vectorOp op tags arr ti .ok rows) ti tags fun tag w => (convRows ti.outFmt (rows s tag w).1).1 := by
  rw [State.vectorOp, if_neg (Nat.not_le.mpr ha)]
  exact runBatch_movesOn hb rfl
    (State.PartWrites.of_tally (res := fun u tag w => vectorResult ti.outFmt (rows u tag w)) fun u tag w hu hw => by rw [hrows u tag w hu hw])

end

/-! ### Results -/

/-- A request's product, joined to the channels written before, and the flags of its conversions. -/
def State.gemmResult (s : State) (arr : Nat) (ti : TInstr) (tag : Nat) (w : Work) : Buf × Flags :=
  let b := s.weightsB w ti ((w.operandB ti).asFmt ti.fmtB) ti.fmtA (s.arr arr).base (s.arr arr).reg
  let o := gemmOut (s.gemmA tag w ti) ti.k b.1 (s.arr arr).base ti.n b.2
  (Buf.extend (mget w.bufs ti.res) (s.arr arr).base o.1, o.2)

theorem State.ReadsAs.gemmResult {s u : State} {tag : Nat} (h : s.ReadsAs u) (hw : u.workOf tag = s.workOf tag) (arr : Nat) (ti : TInstr)
    (w : Work) : u.gemmResult arr ti tag w = s.gemmResult arr ti tag w := by
  simp only [State.gemmResult, h.weightsB, h.gemmA hw, h.base, h.reg]

/-- EWISE's values: integers give INT32, which an integer OUT_FORMAT clamps (R190). -/
theorem ewRows_fst (ti : TInstr) (a b : Buf) : (ewRows ti a b).1 =
    let ints := (List.range a.rows.length).map fun i =>
      ((rowInts a.fmt (a.rows.getD i [])).zip (rowInts b.fmt (b.rows.getD (bIdx b i) []))).map fun p => ewInt ti.func p.1 p.2
    if isIntFmt a.fmt ∧ isIntFmt b.fmt then
      if ti.outFmt ≤ 1 then plainBuf ti.outFmt (ints.map fun r => r.map fun v => ofSInt (fmtBits ti.outFmt) (clampS (fmtBits ti.outFmt) v))
      else (convRows ti.outFmt (ints.map fun r => r.map intTo32)).1
    else (convRows ti.outFmt ((List.range a.rows.length).map fun i =>
      ((a.f32 i).zip (b.f32 (bIdx b i))).map fun p => ewFlt ti.func p.1 p.2)).1 := by
  have hfmt : (ti.outFmt = 0 ∨ ti.outFmt = 1) = (ti.outFmt ≤ 1) := propext (by omega)
  simp only [ewRows, hfmt, List.map_map, Function.comp_def]
  split
  · split <;> rfl
  · rfl

/-- CONVERT's values: an integer row to an integer format clamps (R182). -/
theorem convBuf_fst (f : Nat) (a : Buf) : (convBuf f a).1 =
    if isIntFmt a.fmt ∧ isIntFmt f then
      plainBuf f (a.rows.map fun r => (rowInts a.fmt r).map fun v => ofSInt (fmtBits f) (clampS (fmtBits f) v))
    else (convRows f a.f32Rows).1 := by
  simp only [convBuf, List.map_map, Function.comp_def]
  split <;> rfl

/-- The outputs of a TILL_MATVEC come from what instructions read alone; its vectors leave that as it is. -/
theorem State.ReadsAs.tillOut {s u : State} (h : s.ReadsAs u) (w : Work) (ti : TInstr) (x : Buf) (reg : Nat → Nat) :
    (u.tillOut w ti x reg).1 = (s.tillOut w ti x reg).1 := by
  simp only [State.tillOut, h.blocksOfB]
  split
  · rfl
  · dsimp only
    rw [(issueBlocks_reads h _ _).1]

theorem tillOut_keeps (s : State) (w : Work) (ti : TInstr) (x : Buf) (reg : Nat → Nat) :
    s.ReadsAs (s.tillOut w ti x reg).2 ∧ (s.tillOut w ti x reg).2.ledger = s.ledger := by
  simp only [State.tillOut]
  split
  · exact ⟨.refl s, rfl⟩
  · exact ⟨(issueBlocks_reads (.refl s) _ _).2, issueBlocks_ledger ..⟩

theorem tillOut_fst (s : State) (w : Work) (ti : TInstr) (x : Buf) (reg : Nat → Nat) : (s.tillOut w ti x reg).1.1 =
    if (s.blocksOfB w ti).isEmpty then (gemmOut x ti.k (w.operandB ti) 0 ti.n reg).1
    else (outRows true ((List.range ti.n).map fun j => tillReg 0 (w.operandB ti) j (reg j))
      ((s.issueBlocks (s.blocksOfB w ti) (x.rows.map fun r => rowInts 0 (r.take ti.k))).1.map fun r => r.map AccVal.int)).1 := by
  simp only [State.tillOut]
  split <;> rfl

/-- The rows that a TILL_MATVEC takes of a request, its tensor's registers, and what it makes of them. -/
def State.tillIn (s : State) (ti : TInstr) (tag : Nat) (w : Work) : Buf :=
  ((w.bufOf ti.res 0 ti.m ti.k).asFmt 0).rowsUpTo (s.rowLimit tag ti)
def Work.tensorReg (w : Work) (ti : TInstr) (j : Nat) : Nat := ((w.tensor ti.opB).map fun d => d.reg w.runImage j).getD 0

def State.tillResult (s : State) (ti : TInstr) (tag : Nat) (w : Work) : (Buf × Flags) × State :=
  s.tillOut w ti (s.tillIn ti tag w) (w.tensorReg ti)

theorem State.ReadsAs.tillResult {s u : State} {tag : Nat} (h : s.ReadsAs u) (hw : u.workOf tag = s.workOf tag) (ti : TInstr) (w : Work) :
    (u.tillResult ti tag w).1 = (s.tillResult ti tag w).1 := by
  have hin : u.tillIn ti tag w = s.tillIn ti tag w := by rw [State.tillIn, h.rowLimit hw]; rfl
  rw [State.tillResult, hin]
  exact h.tillOut w ti _ _

/-- A block whose group is out of tilling mode. -/
def State.tillsNot (s : State) (p : TillPlace) : Bool := (s.tg p.g).st != 1 && (s.tg p.g).st != 2

/-! ### The instructions -/

section
variable {s : State} {tags : List Nat} {arr : Nat} {ti : TInstr} (ha : arr < 64)
include ha

/-- Where GEMM's sums agree, every request gets its product, joined to the channels written before (R124, R180, R183). -/
theorem gemm_moves (hb : s.batchAt 1 ti tags) (hg : s.gemmAgrees arr ti tags = true) :
    ∃ t, exec (.gemm tags arr ti .ok .ok) s = .next t ∧ s.movesOn t ti tags fun tag w => (s.gemmResult arr ti tag w).1 := by
  refine ⟨_, rfl, ?_⟩
  rw [if_neg (Nat.not_le.mpr ha)]
  exact runBatch_movesOn hb (s.checkBatch_both _ _ _ _ _ _ _ _ _ _ _ (if_pos hg)) (State.PartWrites.of_tally
    (res := fun u tag w => u.gemmResult arr ti tag w) fun u tag w hu hw => hu.gemmResult hw arr ti w)

/-- A product that misses its references, or whose check fails twice, loses its batch (R124, R185). -/
theorem gemm_fails (hb : s.batchAt 1 ti tags) (hne : tags ≠ []) (chk resc : Chk) (hbad : s.gemmAgrees arr ti tags = false ∨ chk = .twice) :
    exec (.gemm tags arr ti chk resc) s = .next (s.checkBatch .twice (arr / 4) 0x5010 (locArr arr) 0x5010 4 tags).1 := by
  have hchk : (if s.gemmAgrees arr ti tags then chk else .twice) = Chk.twice := by
    obtain hg | hc := hbad
    · simp [hg]
    · simp [hc]
  refine congrArg _ ((if_neg (Nat.not_le.mpr ha)).trans (runBatch_fails hb hne ?_))
  simp only [hchk, State.checkBatch_twice]
  rfl

/-- EWISE gives every request its element-wise result (R190). -/
theorem ewise_moves (hb : s.batchAt 0x10 ti tags) (hf : ti.func ≤ 2) :
    ∃ t, exec (.ewise tags arr ti .ok) s = .next t ∧ s.movesOn t ti tags fun tag w =>
      (ewRows ti (s.vecA tag w ti) (if ti.n = 0 then w.vecB ti else (w.vecB ti).colsUpTo ti.n)).1 := by
  refine ⟨_, rfl, ?_⟩
  rw [if_neg (by omega)]
  exact runBatch_movesOn hb rfl (State.PartWrites.of_tally
    (res := fun u tag w => ewRows ti (u.vecA tag w ti) (if ti.n = 0 then w.vecB ti else (w.vecB ti).colsUpTo ti.n))
    fun u tag w hu hw => by rw [hu.vecA hw])

/-- ACT gives every request the function of its rows (R191). -/
theorem act_moves (hb : s.batchAt 0x11 ti tags) (hf : ti.func ≤ 3) :
    ∃ t, exec (.act tags arr ti .ok) s = .next t ∧ s.movesOn t ti tags fun tag w =>
      (convRows ti.outFmt ((s.vecA tag w ti).f32Rows.map fun x => (x.map (actOne ti.func)).map (·.1))).1 := by
  refine ⟨_, rfl, ?_⟩
  rw [if_neg (Nat.not_lt.mpr hf)]
  have h := vectorOp_moves ha hb (rows := fun u tag w => let rows := (u.vecA tag w ti).f32Rows.map fun r => r.map (actOne ti.func)
    (rows.map fun r => r.map (·.1), rows.flatMap flagsOf)) fun u tag w hu hw => by rw [hu.vecA hw]
  simpa only [List.map_map, Function.comp_def] using h

/-- NORM gives every request its normalised rows (R191). -/
theorem norm_moves (hb : s.batchAt 0x12 ti tags) (hf : ti.func ≤ 1) :
    ∃ t, exec (.norm tags arr ti .ok) s = .next t ∧ s.movesOn t ti tags fun tag w =>
      (convRows ti.outFmt ((s.vecA tag w ti).f32Rows.map (normRow ti.func (((w.vecB ti).f32 0).headD 0)))).1 := by
  refine ⟨_, rfl, ?_⟩
  rw [if_neg (Nat.not_lt.mpr hf)]
  exact vectorOp_moves ha hb fun u tag w hu hw => by rw [hu.vecA hw]

/-- SOFTMAX gives every request the softmax of its rows (R191). -/
theorem softmax_moves (hb : s.batchAt 0x13 ti tags) :
    ∃ t, exec (.softmax tags arr ti .ok) s = .next t ∧ s.movesOn t ti tags fun tag w =>
      (convRows ti.outFmt ((s.vecA tag w ti).f32Rows.map softmaxRow)).1 := by
  refine ⟨_, rfl, ?_⟩
  have h := vectorOp_moves ha hb (rows := fun u tag w => let rows := (u.vecA tag w ti).f32Rows.map softmaxConv
    (rows.map (·.1), rows.flatMap fun r => flagsOf r.2)) fun u tag w hu hw => by rw [hu.vecA hw]
  have hrow (l : List (List Nat)) : (l.map softmaxConv).map (·.1) = l.map softmaxRow := List.map_map
  simpa only [hrow] using h

/-- POOL gives every request the pooling of its rows (R190). -/
theorem pool_moves (hb : s.batchAt 0x14 ti tags) (hf : ti.func ≤ 3) :
    ∃ t, exec (.pool tags arr ti .ok) s = .next t ∧ s.movesOn t ti tags fun tag w =>
      (convRows ti.outFmt [poolRows ti.func (s.vecA tag w ti).f32Rows]).1 := by
  refine ⟨_, rfl, ?_⟩
  rw [if_neg (Nat.not_lt.mpr hf)]
  exact vectorOp_moves ha hb fun u tag w hu hw => by rw [hu.vecA hw]

/-- CONVERT gives every request its rows in OUT_FORMAT (R182). -/
theorem convert_moves (hb : s.batchAt 0x15 ti tags) :
    ∃ t, exec (.convert tags arr ti) s = .next t ∧ s.movesOn t ti tags fun tag w => (convBuf ti.outFmt (s.vecA tag w ti)).1 := by
  refine ⟨_, rfl, ?_⟩
  rw [if_neg (Nat.not_le.mpr ha)]
  exact runBatch_movesOn hb rfl (State.PartWrites.of_tally (res := fun u tag w => convBuf ti.outFmt (u.vecA tag w ti))
    fun u tag w hu hw => by rw [hu.vecA hw])

end

section
variable {s : State} {tags : List Nat} {ti : TInstr} (hb : s.batchAt 0x45 ti tags)
include hb

/-- TILL_MATVEC over blocks in tilling mode, with sums that agree, gives every request its outputs (R125, R260). -/
theorem tillMatvec_moves (hsums : ∀ tag ∈ tags, ∀ w, s.workOf tag = some w → (s.blocksOfB w ti).find? s.tillsNot = none ∧
      tillSumsOk (s.tillIn ti tag w) ti.k (s.weightsB w ti (w.operandB ti) 0 0 fun _ => 0).1 ti.n = true) :
    ∃ t, exec (.tillMatvec tags ti ⟨.ok, .ok⟩) s = .next t ∧
      s.movesOn t ti tags fun tag w => (s.tillResult ti tag w).1.1 := by
  refine ⟨_, rfl, runBatch_movesOn hb ?_ ?_⟩
  · have hall : (tags.all fun tag => match s.workOf tag with
        | some w => tillSumsOk (s.tillIn ti tag w) ti.k (s.weightsB w ti (w.operandB ti) 0 0 fun _ => 0).1 ti.n
        | none => true) = true := List.all_eq_true.mpr fun tag ht => by
      obtain ⟨w, hat⟩ := hb.atProg ht
      rw [hat.workOf]
      exact (hsums tag ht w hat.workOf).2
    have hfind : (((tags.head?.bind s.workOf).map fun w => s.blocksOfB w ti).getD []).find? s.tillsNot = none := by
      cases tags with
      | nil => rfl
      | cons t ts =>
        obtain ⟨w, hat⟩ := hb.atProg List.mem_cons_self
        rw [List.head?_cons, Option.bind_some, hat.workOf]
        exact (hsums t List.mem_cons_self w hat.workOf).1
    dsimp only
    split
    next p hp => exact absurd (hfind.symm.trans hp) nofun
    next => exact s.checkBatch_both _ _ _ _ _ _ _ _ _ _ _ (if_pos hall)
  · intro u tag w hu hs hw
    obtain ⟨hread, hled⟩ := tillOut_keeps u w ti (u.tillIn ti tag w) (w.tensorReg ti)
    have hres : (u.tillResult ti tag w).1.1 = (s.tillResult ti tag w).1.1 := congrArg Prod.fst (hu.tillResult (hw.trans hs.symm) ti w)
    exact ⟨(u.tillResult ti tag w).2.tallyNan (u.tillResult ti tag w).1.2, congrArg (State.setBuf _ tag ti.res) hres,
      hread.trans (tallyNan_readsAs ..), (tallyNan_ledger ..).trans hled⟩

/-- A block whose group is out of tilling mode loses the batch (R266). -/
theorem tillMatvec_out (chk : TillChk) {w : Work} {p : TillPlace} (hw : s.workOf (tags.headD 0) = some w) (hne : tags ≠ [])
    (hp : (s.blocksOfB w ti).find? s.tillsNot = some p) :
    exec (.tillMatvec tags ti chk) s = .next ((s.raise 0x6024 (locPlot p.g.stack) 0).loseAll tags) := by
  refine congrArg _ (runBatch_fails hb hne ?_)
  obtain ⟨t, ts, rfl⟩ := List.exists_cons_of_ne_nil hne
  have hw : s.workOf t = some w := hw
  dsimp only
  simp only [List.head?_cons, Option.bind_some, hw, Option.map_some, Option.getD_some]
  split
  next q hq => rw [Option.some.inj (hq.symm.trans hp)]
  next hq => exact absurd (hq.symm.trans hp) nofun

end

/-- Settles O54, instruction by instruction. -/
theorem tensorInstructionsComplete : Obligations.TensorInstructionsComplete := by
  intro s tags arr ti ha
  refine ⟨fun hg hb => gemm_moves ha hb hg, fun chk resc hb hne hbad => gemm_fails ha hb hne chk resc hbad, fun hf hb => ?_,
    fun hf hb => act_moves ha hb hf, fun hf hb => norm_moves ha hb hf, fun hb => softmax_moves ha hb, fun hf hb => pool_moves ha hb hf,
    fun hb => ?_, fun hsums hb => ?_, fun chk w p hb hw hne hp => tillMatvec_out hb chk hw hne hp⟩
  · simpa only [ewRows_fst] using ewise_moves ha hb hf
  · simpa only [convBuf_fst] using convert_moves ha hb
  · have h := tillMatvec_moves hb hsums
    simp only [State.tillResult, tillOut_fst] at h
    exact h

end Sys2Proof.Machine
end

section
/-! TILL_COMMAND_WRITE, TILLING_REFRESH_DUE, TILLING_ENTER, TILLING_RUN, TILLING_EXIT, TILLING_LOAD and TM_ACK_TIMEOUT (R244 to R247, R253,
R263 to R266). -/

namespace Sys2Proof.Machine
set_option Elab.async false

/-! ### What a group keeps -/

theorem tg_raise (s : State) (g : GroupId) (c l d : Nat) : (s.raise c l d).tg g = s.tg g := rfl

/-- Requests that are lost leave every group. -/
theorem tg_loseAll (s : State) (g : GroupId) (tags : List Nat) : (s.loseAll tags).tg g = s.tg g := by
  have htills : Part.same s (s.loseAll tags) .tills := Inv.same (fun _ hk h => Inv.loseAll hk h tags) (by decide +kernel)
  rw [State.tg, htills, State.tg]

/-- A group that is not suspended has nothing to resume. -/
theorem resumeTill_of_ne {s : State} {g : GroupId} (h : (s.tg g).st ≠ 2) : s.resumeTill g = s := if_neg h

/-- Groups of one key are one group. -/
theorem tg_of_key {s : State} {g h : GroupId} (hk : groupKey h = groupKey g) : s.tg h = s.tg g := by rw [State.tg, hk, State.tg]

theorem tg_modTg_of_key (s : State) {g h : GroupId} (f : TGroup → TGroup) (hk : groupKey h = groupKey g) : (s.modTg h f).tg g = f (s.tg g) := by
  rw [← tg_of_key hk, State.tg_modTg, tg_of_key hk]

/-! ### The command window and refresh (R253, R263) -/

section
variable {s : State} {g : GroupId} {r : Bytes}

theorem tillCommandWrite_pushes (hok : s.groupOk g = true) (hst : (s.tg g).st = 1 ∨ (s.tg g).st = 2) (hr : r.length = 64) :
    exec (.tillCommandWrite g r) s = .next (s.pushTill g r) := by
  have hin : ¬ (¬ s.groupOk g = true ∨ ((s.tg g).st ≠ 1 ∧ (s.tg g).st ≠ 2)) := fun h =>
    h.elim (absurd hok) fun ⟨h1, h2⟩ => hst.elim h1 h2
  exact (if_neg hin).trans (if_pos hr)

theorem tillCommandWrite_refused (hout : s.groupOk g = false ∨ ((s.tg g).st ≠ 1 ∧ (s.tg g).st ≠ 2)) :
    exec (.tillCommandWrite g r) s = .next (s.raise 0x6002 (locPlot g.stack) (s.winAddr g 0x40)) :=
  if_pos (hout.imp_left fun h => by simp [h])

theorem pushTill_room (h : (s.tg g).fifo.length < 64) : s.pushTill g r = s.modTg g fun t => { t with fifo := t.fifo ++ [r] } :=
  if_neg (Nat.not_le.mpr h)

theorem pushTill_full (h : 64 ≤ (s.tg g).fifo.length) :
    s.pushTill g r = (s.modTg g fun t => { t with lastRes := 4, lastSeq := u16 r 2 }).raise 0x6024 (locPlot g.stack) 0 := if_pos h

/-- A round that falls due at a group that executes (R263). -/
theorem tillingRefreshDue_runs (hot : Bool) (hok : s.groupOk g = true) (hst : (s.tg g).st = 1) : exec (.tillingRefreshDue g hot) s = .next (
    if (s.tg g).fifo.isEmpty then s.modTg g fun t => { t with hot := hot, deficit := 0 }
    else if 8 ≤ (s.tg g).deficit then (s.modTg g fun t => { t with hot := hot }).raise 0x6027 (locPlot g.stack) 0
    else s.modTg g fun t => { t with hot := hot, deficit := t.deficit + 1 }) := by
  simp only [exec, execTillingRefreshDue, resumeTill_of_ne (s := s) (g := g) (by omega), hok, hst]
  simp only [apply_ite Host.Outcome.next]
  rfl

end

/-! ### Slices over several groups -/

/-- A fold reaches `P` at an element that brings `Q` there, where every step keeps `P`, and leaves `Q` only for `P`. -/
theorem foldl_reaches {α σ : Type} {f : σ → α → σ} {P Q : σ → Prop} {a : α} {l : List α} (hl : a ∈ l) (ha : ∀ u, Q u → P (f u a))
    (hQ : ∀ u, ∀ x ∈ l, Q u → Q (f u x) ∨ P (f u x)) (hP : ∀ u x, P u → P (f u x)) {u : σ} (hu : Q u) : P (l.foldl f u) := by
  have keeps (l : List α) (u : σ) (h : P u) : P (l.foldl f u) := List.foldlRecOn l f h fun u hu x _ => hP u x hu
  induction l generalizing u with
  | nil => exact absurd hl List.not_mem_nil
  | cons x l ih =>
    obtain rfl | hl := List.mem_cons.mp hl
    · exact keeps l _ (ha u hu)
    · obtain h | h := hQ u x List.mem_cons_self hu
      · exact ih hl (fun u y hy => hQ u y (List.mem_cons_of_mem _ hy)) h
      · exact keeps l _ h

/-! ### TM_CTRL (R246) -/

theorem tg_modTm (s : State) (g k : GroupId) (f : TmReg → TmReg) : (s.modTm g f).tg k = s.tg k := rfl

theorem tmReg_modTm (s : State) (g : GroupId) (f : TmReg → TmReg) : (s.modTm g f).tmReg g = f (s.tmReg g) := mgetD_mupd ..

theorem tmReg_modTm_ne (s : State) {g k : GroupId} (f : TmReg → TmReg) (h : tmKey k ≠ tmKey g) : (s.modTm g f).tmReg k = s.tmReg k :=
  mgetD_mupd_ne _ _ _ h

/-- The node with the groups and tiers of `r`. -/
def State.withTills (s r : State) : State := { s with tills := r.tills, tier := r.tier }

theorem modTg_withTills (s : State) (g : GroupId) (f : TGroup → TGroup) (r : State) : (s.modTg g f).withTills r = s.withTills r := rfl

theorem modTm_withTills (s : State) (g : GroupId) (f : TmReg → TmReg) (r : State) : (s.modTm g f).withTills r = s.withTills r := rfl

section
variable (s : State) {g h : GroupId} (op : Nat) (f : TGroup → TGroup)

theorem switchTm_eq : s.switchTm h op f = ((s.modTm h fun t => { t with ctrl := op * 64 + s.groupBg h * 16 }).modTg h fun t =>
    { f t with ctrlAt := some s.step.number }).modTm h fun t => { t with ue := false } := rfl

theorem switchTm_tg_of_key (hk : groupKey h = groupKey g) :
    (s.switchTm h op f).tg g = { f (s.tg g) with ctrlAt := some s.step.number } := by
  rw [switchTm_eq, tg_modTm, tg_modTg_of_key _ _ hk, tg_modTm]

theorem switchTm_tg_ne (hk : groupKey h ≠ groupKey g) : (s.switchTm h op f).tg g = s.tg g := by
  rw [switchTm_eq, tg_modTm, State.tg_modTg_ne _ _ (Ne.symm hk), tg_modTm]

/-- The read of TM_STATUS that acknowledges TM_CTRL clears ONDIE_UE of its pseudo-channel. -/
theorem switchTm_ue : ((s.switchTm g op f).tmReg g).ue = false := congrArg TmReg.ue (tmReg_modTm _ g _)

theorem switchTm_tmReg_ne (hk : tmKey g ≠ tmKey h) : (s.switchTm h op f).tmReg g = s.tmReg g :=
  (tmReg_modTm_ne _ _ hk).trans (tmReg_modTm_ne s _ hk)

theorem switchTm_withTills (r : State) : (s.switchTm h op f).withTills r = s.withTills r := by
  rw [switchTm_eq, modTm_withTills, modTg_withTills, modTm_withTills]

end

/-- ONDIE_UE that is clear stays so. -/
theorem switchTm_ue_clear {s : State} {g : GroupId} (h : GroupId) (op : Nat) (f : TGroup → TGroup) (hue : (s.tmReg g).ue = false) :
    ((s.switchTm h op f).tmReg g).ue = false := by
  by_cases hk : tmKey g = tmKey h
  · rw [State.tmReg, hk]
    exact switchTm_ue s op f
  · rw [switchTm_tmReg_ne s op f hk, hue]

/-! ### Entering (R246) -/

/-- The group has entered tilling mode in step `n`. -/
structure State.EnteredAt (u : State) (n : Nat) (g : GroupId) : Prop where
  st : (u.tg g).st = 1
  deficit : (u.tg g).deficit = 0
  xIn : (u.tg g).xIn = []
  sumY : (u.tg g).sumY = []
  acc : (u.tg g).acc = []
  ctrlAt : (u.tg g).ctrlAt = some n
  ue : (u.tmReg g).ue = false

theorem enterTill_out {s : State} {h : GroupId} (hst : (s.tg h).st = 0) :
    s.enterTill h = s.switchTm h 1 fun t => { t with st := 1, deficit := 0, xIn := [], acc := [], sumY := [] } := if_neg (not_not.mpr hst)

theorem enterTill_in {s : State} {h : GroupId} (hst : (s.tg h).st ≠ 0) : s.enterTill h = s := if_pos hst

theorem enterTill_enters {s : State} {g : GroupId} (hst : (s.tg g).st = 0) : (s.enterTill g).EnteredAt s.step.number g := by
  rw [enterTill_out hst]
  constructor
  case ue => exact switchTm_ue ..
  all_goals rw [switchTm_tg_of_key _ _ _ rfl]

theorem enterTill_withTills (s : State) (h : GroupId) (r : State) : (s.enterTill h).withTills r = s.withTills r := by
  by_cases hst : (s.tg h).st = 0
  · rw [enterTill_out hst, switchTm_withTills]
  · rw [enterTill_in hst]

theorem enterTill_step (s : State) (h : GroupId) : (s.enterTill h).step = s.step := (congrArg State.step (enterTill_withTills s h s) :)

theorem enterTill_tg_ne (s : State) {g h : GroupId} (hk : groupKey h ≠ groupKey g) : (s.enterTill h).tg g = s.tg g := by
  by_cases hst : (s.tg h).st = 0
  · rw [enterTill_out hst, switchTm_tg_ne s _ _ hk]
  · rw [enterTill_in hst]

theorem State.EnteredAt.enterTill {u : State} {n : Nat} {g : GroupId} (hu : u.EnteredAt n g) (h : GroupId) : (u.enterTill h).EnteredAt n g := by
  by_cases hst : (u.tg h).st = 0
  · have hk : groupKey h ≠ groupKey g := fun hk => by
      rw [tg_of_key hk, hu.st] at hst
      exact absurd hst Nat.one_ne_zero
    have htg : (u.enterTill h).tg g = u.tg g := enterTill_tg_ne u hk
    exact ⟨htg ▸ hu.st, htg ▸ hu.deficit, htg ▸ hu.xIn, htg ▸ hu.sumY, htg ▸ hu.acc, htg ▸ hu.ctrlAt,
      enterTill_out hst ▸ switchTm_ue_clear h 1 _ hu.ue⟩
  · rwa [enterTill_in hst]

/-- A slice's groups lie in one stack, where a key names one group. -/
theorem eq_of_key_of_sliceGroups {s : State} {x : Slice} {g h : GroupId} (hg : g ∈ s.sliceGroups x) (hh : h ∈ s.sliceGroups x)
    (hk : groupKey h = groupKey g) : h = g := by
  have hstack : ∀ g ∈ s.sliceGroups x, g.stack = x.plot := fun g hg => by
    simp only [State.sliceGroups, List.mem_filter, List.mem_flatMap, List.mem_map] at hg
    obtain ⟨⟨ch, -, p, -, b, -, rfl⟩, -⟩ := hg
    rfl
  have hs : h.stack = g.stack := (hstack h hh).trans (hstack g hg).symm
  have hgamma : h.gamma = g.gamma := by simp only [groupKey, hs] at hk; omega
  exact congrArg₂ GroupId.mk hs hgamma

theorem enterTills_enter {s : State} {x : Slice} {g : GroupId} (hg : g ∈ s.sliceGroups x) (hst : (s.tg g).st = 0) :
    ((s.sliceGroups x).foldl State.enterTill s).EnteredAt s.step.number g := by
  refine foldl_reaches (Q := fun u : State => (u.tg g).st = 0 ∧ u.step.number = s.step.number) (P := fun u => u.EnteredAt s.step.number g) hg
    (fun u ⟨hu, hn⟩ => hn ▸ enterTill_enters hu) (fun u h hh ⟨hu, hn⟩ => ?_) (fun u h hu => hu.enterTill h) ⟨hst, rfl⟩
  by_cases hk : groupKey h = groupKey g
  · obtain rfl := eq_of_key_of_sliceGroups hg hh hk
    exact .inr (hn ▸ enterTill_enters hu)
  · exact .inl ⟨(enterTill_tg_ne u hk).symm ▸ hu, by rw [enterTill_step, hn]⟩

theorem enterTills_tg_ne {g : GroupId} {l : List GroupId} (hl : ∀ h ∈ l, groupKey h ≠ groupKey g) (s : State) :
    (l.foldl State.enterTill s).tg g = s.tg g := by
  induction l generalizing s with
  | nil => rfl
  | cons h l ih =>
    exact (ih (fun k hk => hl k (List.mem_cons_of_mem _ hk)) _).trans (enterTill_tg_ne s (hl h List.mem_cons_self))

theorem enterTills_withTills (l : List GroupId) (s r : State) : (l.foldl State.enterTill s).withTills r = s.withTills r :=
  foldl_same (g := fun u => State.withTills u r) (fun u h => enterTill_withTills u h r) l s

/-! ### Leaving (R247, R266) -/

/-- A dropped FIFO leaves every other group, and of its own group all but the queue and the last answer. -/
theorem dropFifo_tg (s : State) (g k : GroupId) (res event : Nat) : (s.dropFifo g res event).tg k =
    (s.modTg g fun t => { t with fifo := [], lastRes := res, lastSeq := (t.fifo.getLast?.map fun r => u16 r 2).getD t.lastSeq }).tg k := by
  simp only [State.dropFifo]
  split <;> split <;> simp only [tg_loseAll, tg_raise]

/-- Nothing is queued when a group leaves. -/
def State.emptied (s : State) (g : GroupId) : State := if (s.tg g).fifo.isEmpty then s else s.dropFifo g 4 0x6024

theorem emptied_fifo (s : State) (g : GroupId) : ((s.emptied g).tg g).fifo = [] := by
  rw [State.emptied]
  split
  next h => exact List.isEmpty_iff.mp h
  next => rw [dropFifo_tg, State.tg_modTg]

theorem emptied_tg_ne (s : State) {g h : GroupId} (hk : groupKey h ≠ groupKey g) : (s.emptied h).tg g = s.tg g := by
  rw [State.emptied]
  split
  · rfl
  · rw [dropFifo_tg, State.tg_modTg_ne _ _ (Ne.symm hk)]

/-- The group is in OUT, with nothing queued. -/
def State.HasLeft (s : State) (g : GroupId) : Prop := (s.tg g).st = 0 ∧ (s.tg g).fifo = []

theorem exitTill_in {s : State} {g : GroupId} (h : (s.tg g).st = 1 ∨ (s.tg g).st = 2) :
    s.exitTill g = (s.emptied g).switchTm g 2 fun t => { t with st := 0, deficit := 0 } :=
  if_neg fun ⟨h1, h2⟩ => h.elim h1 h2

theorem exitTill_out {s : State} {g : GroupId} (h : ¬ ((s.tg g).st = 1 ∨ (s.tg g).st = 2)) : s.exitTill g = s :=
  if_pos (not_or.mp h)

theorem exitTill_leaves {s : State} {g : GroupId} (h : (s.tg g).st = 1 ∨ (s.tg g).st = 2) : (s.exitTill g).HasLeft g := by
  rw [exitTill_in h, State.HasLeft, switchTm_tg_of_key _ _ _ rfl]
  exact ⟨rfl, emptied_fifo s g⟩

theorem exitTill_tg_ne (s : State) {g h : GroupId} (hk : groupKey h ≠ groupKey g) : (s.exitTill h).tg g = s.tg g := by
  by_cases hst : (s.tg h).st = 1 ∨ (s.tg h).st = 2
  · rw [exitTill_in hst, switchTm_tg_ne _ _ _ hk, emptied_tg_ne s hk]
  · rw [exitTill_out hst]

theorem State.HasLeft.exitTill {u : State} {g : GroupId} (hu : u.HasLeft g) (h : GroupId) : (u.exitTill h).HasLeft g := by
  by_cases hk : groupKey h = groupKey g
  · have hst : ¬ ((u.tg h).st = 1 ∨ (u.tg h).st = 2) := by rw [tg_of_key hk, hu.1]; decide
    rwa [exitTill_out hst]
  · rwa [State.HasLeft, exitTill_tg_ne u hk]

theorem exitTills_leave {s : State} {x : Slice} {g : GroupId} (hg : g ∈ s.sliceGroups x) (hst : (s.tg g).st = 1 ∨ (s.tg g).st = 2) :
    ((s.sliceGroups x).foldl State.exitTill s).HasLeft g := by
  refine foldl_reaches (Q := fun u : State => (u.tg g).st = 1 ∨ (u.tg g).st = 2) (P := fun u => u.HasLeft g) hg
    (fun u hu => exitTill_leaves hu) (fun u h hh hu => ?_) (fun u h hu => hu.exitTill h) hst
  by_cases hk : groupKey h = groupKey g
  · obtain rfl := eq_of_key_of_sliceGroups hg hh hk
    exact .inr (exitTill_leaves hu)
  · exact .inl ((exitTill_tg_ne u hk).symm ▸ hu)

/-! ### The slices (R245) -/

section
variable {s : State} {idx : Nat} {x : Slice}

theorem tillingEnter_runs (hx : s.sliceAt idx 0x10 = some x) :
    exec (.tillingEnter idx) s = .next ((s.sliceGroups x).foldl State.enterTill s) := by
  simp only [exec, execTillingEnter, hx]

theorem tillingExit_runs (hx : s.sliceAt idx 0x12 = some x) :
    exec (.tillingExit idx) s = .next ((s.sliceGroups x).foldl State.exitTill s) := by
  simp only [exec, execTillingExit, hx]

/-- The one group that a RUN slice names, which executes, takes the slice's list. -/
theorem tillingRun_one {g : GroupId} (hx : s.sliceAt idx 0x11 = some x) (hg : s.sliceGroups x = [g]) (hst : (s.tg g).st = 1) :
    exec (.tillingRun idx) s = .next (s.modTg g fun t => { t with
      fifo := t.fifo ++ splitAll 64 (sl (((s.tierPlan).map (·.image)).getD []) (x.params % 2 ^ 44) (64 * bitsOf x.params 59 44)) }) := by
  simp only [exec, execTillingRun, hx, hg, List.foldl_cons, List.foldl_nil, resumeTill_of_ne (s := s) (g := g) (by omega), hst, if_true]

/-! ### Loads (R232, R244, R265, R266) -/

section
variable {r : TillRow} (hin : (s.sliceGroups x).contains r.g = true) (hbank : r.bank < 80) (hrow : r.row < 4096) (hst : (s.tg r.g).st = 0)
  (hclass : rowClass r.row = 4)
include hin hbank hrow hst hclass

/-- A load slice reaches a DATA row of its groups in OUT. -/
theorem tillingLoad_reaches : ¬ (¬ (s.sliceGroups x).contains r.g = true ∨ 80 ≤ r.bank ∨ 4096 ≤ r.row) ∧
    ¬ ((s.tg r.g).st ≠ 0 ∨ rowClass r.row ≠ 4) :=
  ⟨fun h => h.elim (absurd hin) (by omega), by omega⟩

variable (hx : s.sliceAt idx 0x13 = some x)
include hx

theorem tillingLoad_write (d : Bytes) : exec (.tillingLoad idx r (.write d)) s = .next (
    let u := s.rewriteBitmaps x.plot
    if (u.bitmapAt r.g r.bank r.row).isSome ∨ (u.placeAt r.g r.bank r.row).isSome then u
    else ((u.blocksOf r.g).filter fun b => inBlock b r.bank r.row).foldl (fun v b => v.sumBlock r.g b) (u.putRow r.g r.bank r.row d)) := by
  obtain ⟨hgo, hdata⟩ := tillingLoad_reaches hin hbank hrow hst hclass
  simp only [exec, execTillingLoad, hx, if_neg hgo, if_neg hdata, apply_ite Host.Outcome.next]

theorem tillingLoad_found {act : LoadAct} (hact : ∀ d, act ≠ .write d) :
    exec (.tillingLoad idx r act) s = .next ((s.rewriteBitmaps x.plot).loadFound r act) := by
  obtain ⟨hgo, hdata⟩ := tillingLoad_reaches hin hbank hrow hst hclass
  cases act with
  | write d => exact absurd rfl (hact d)
  | read | corrected | ondieUe | rails => simp only [exec, execTillingLoad, hx, if_neg hgo, if_neg hdata]

end

end

theorem padTo_length (n : Nat) (b : Bytes) : (padTo n b).length = n := by
  simp only [padTo, zeros, List.length_append, List.length_take, List.length_replicate]
  omega

section
variable {s : State} {g : GroupId} {bank r : Nat} (hclass : rowClass r = 4) (d : Bytes)
include hclass

theorem putRow_data : s.putRow g bank r d = { s with mem := Memory.writeN s.mem (rowAddr g bank r) (padTo 1024 d) } :=
  if_neg (by omega)

/-- A DATA row that neither a bitmap nor a placed weight takes reads as it was written. -/
theorem row_putRow (hm : Memory.wf s.mem = true) (hb : s.bitmapAt g bank r = none) (hp : s.placeAt g bank r = none) :
    (s.putRow g bank r d).row g bank r = padTo 1024 d := by
  have hbitmap : (s.putRow g bank r d).bitmapRow g bank r = none := by
    rw [putRow_data hclass]
    exact congrArg (Option.map _) hb
  have hplace : (s.putRow g bank r d).placeRow g bank r = none := by
    rw [putRow_data hclass]
    exact congrArg (Option.bind · _) hp
  have hread := Memory.readN_writeN (a := rowAddr g bank r) (b := padTo 1024 d) hm
  rw [padTo_length] at hread
  rw [State.row, if_neg (by omega), if_neg (by omega), hbitmap, hplace, putRow_data hclass]
  exact hread

/-- It keeps what memory holds outside the row. -/
theorem putRow_read_out (hm : Memory.wf s.mem = true) {a : Nat} (ha : a < rowAddr g bank r ∨ rowAddr g bank r + 1024 ≤ a) :
    Memory.read (s.putRow g bank r d).mem a = Memory.read s.mem a := by
  rw [putRow_data hclass]
  exact Memory.read_writeN_out hm (by rwa [padTo_length])

end

/-! ### TM_ACK_TIMEOUT (R246, R266) -/

theorem tmAckTimeout_runs {s : State} {g : GroupId} (hok : s.groupOk g = true) (hc : (s.tg g).ctrlAt = some s.step.number) :
    exec (.tmAckTimeout g) s = .next (
      let v := s.modTg g fun t => { t with st := 3, fifo := [], ctrlAt := none }
      (v.raise 0x6026 (locPlot g.stack) 0).loseAll (s.tillDeps g)) := by
  have hgo : ¬ (¬ s.groupOk g = true ∨ (s.tg g).ctrlAt ≠ some s.step.number) := by simp [hok, hc]
  exact if_neg hgo

/-- Settles O51: the window and the rounds of one group, the slices over theirs, and the acknowledgement that does not come. -/
theorem tillingModeCommandsComplete : Obligations.TillingModeCommandsComplete := by
  refine ⟨fun s g r hok hst hr => ⟨fun hroom => ?_, fun hfull => ?_⟩, fun s g r hout => tillCommandWrite_refused hout,
    fun s g hot hok hst => ⟨fun hnone => ?_, fun hsome hd => ?_, fun hsome hd => ?_⟩,
    fun s idx x => ⟨fun hx => ?_, fun g hx hg hst => ⟨_, tillingRun_one hx hg hst, ?_, rfl⟩,
      fun hx => ⟨_, tillingExit_runs hx, fun g hg hst => exitTills_leave hg hst⟩, fun r hm hx hin hbank hrow hst hclass => ?_⟩,
    fun s g hok hc => ⟨_, tmAckTimeout_runs hok hc, ?_, ?_, fun hnone => ?_⟩⟩
  · exact ⟨_, (tillCommandWrite_pushes hok hst hr).trans (congrArg _ (pushTill_room hroom)), by rw [State.tg_modTg], rfl⟩
  · refine ⟨_, (tillCommandWrite_pushes hok hst hr).trans (congrArg _ (pushTill_full hfull)), ?_⟩
    rw [tg_raise, State.tg_modTg]
    exact ⟨rfl, rfl, rfl⟩
  · refine ⟨_, (tillingRefreshDue_runs hot hok hst).trans (congrArg _ (if_pos (by rw [hnone]; rfl))), ?_⟩
    rw [State.tg_modTg]
    exact ⟨rfl, rfl⟩
  · refine ⟨_, (tillingRefreshDue_runs hot hok hst).trans (congrArg _ ((if_neg (by simpa using hsome)).trans (if_neg (by omega)))), ?_⟩
    rw [State.tg_modTg]
    exact ⟨rfl, rfl⟩
  · refine ⟨_, (tillingRefreshDue_runs hot hok hst).trans (congrArg _ ((if_neg (by simpa using hsome)).trans (if_pos hd))), ?_⟩
    rw [tg_raise, State.tg_modTg]
  · refine ⟨_, tillingEnter_runs hx, fun g hg hst => ?_, fun g hne => enterTills_tg_ne hne s, enterTills_withTills _ s s⟩
    have h := enterTills_enter hg hst
    exact ⟨h.st, h.deficit, h.xIn, h.sumY, h.acc, h.ctrlAt, h.ue⟩
  · rw [State.tg_modTg]
  · have hwrite := tillingLoad_write hin hbank hrow hst hclass hx
    have hfound {act : LoadAct} := tillingLoad_found hin hbank hrow hst hclass hx (act := act)
    have hrails := hfound (act := .rails) nofun
    refine ⟨fun d hb hp hnone => ?_, fun d hb hp => ?_, fun d hsome => ?_, hfound nofun, hfound nofun, hfound nofun,
      fun b hb => hrails.trans ?_, fun hb => hrails.trans ?_⟩
    · have hput : exec (.tillingLoad idx r (.write d)) s = .next ((s.rewriteBitmaps x.plot).putRow r.g r.bank r.row d) :=
        (hwrite d).trans (congrArg _ ((if_neg (by simp [hb, hp])).trans (by rw [hnone, List.foldl_nil])))
      exact ⟨_, hput, row_putRow (s := s.rewriteBitmaps x.plot) hclass d hm hb hp, by rw [putRow_data hclass]; rfl,
        fun a ha => putRow_read_out (s := s.rewriteBitmaps x.plot) hclass d hm ha⟩
    · exact (hwrite d).trans (congrArg _ (if_neg (by simp [hb, hp])))
    · exact (hwrite d).trans (congrArg _ (if_pos (by simpa [Option.isSome_iff_ne_none] using hsome)))
    · rw [State.loadFound, hb]
    · rw [State.loadFound, hb]
  · rw [tg_loseAll, tg_raise, State.tg_modTg]
  · rw [tg_loseAll, tg_raise, State.tg_modTg]
  · rw [hnone, State.loseAll, List.foldl_nil, State.raise_mem, State.modTg_mem]

end Sys2Proof.Machine
end

section
/-! REPLICA_APPLY, LOG_ACK and LOG_RESEND (R142, R143, R396). -/

namespace Sys2Proof.Machine
set_option Elab.async false

/-! ### The inbox of a replica (R143) -/

/-- An update record waits for no seal and no switch. -/
theorem recordWaits_update (h : Shard) {r : LogRec} (hk : r.kind = 1) : h.recordWaits r = false := by
  simp [Shard.recordWaits, hk]

/-- An update whose pages are there leaves the inbox and is applied at its USN. -/
theorem takeInbox_update {s : State} {i : Nat} {h : Shard} {r : LogRec} {rest : List LogRec} (hi : mget s.shards i = some h)
    (hb : h.inbox = r :: rest) (hk : r.kind = 1) (hp : s.lacksPage i h (r.bytes.drop 16) = false) :
    s.takeInbox i false = (s.modShard i fun h => { h with inbox := rest }).applyUpdate i
      ((r.bytes.drop 16).take (64 + uPayload (r.bytes.drop 16))) r.usn := by
  simp [State.takeInbox, hi, hb, hk, hp]

/-- A replica in full service acts on the oldest record of its inbox, where that is an update. -/
theorem replicaApply_takes {s : State} {i : Nat} {h : Shard} {r : LogRec} {rest : List LogRec} (hi : mget s.shards i = some h)
    (hb : h.inbox = r :: rest) (ho : h.owner = false) (hs : s.step.seedling = false) (hk : r.kind = 1) :
    exec (.replicaApply i) s = .next (s.takeInbox i false) := by
  simp [exec, execReplicaApply, hi, hb, ho, hs, recordWaits_update h hk]

/-! ### Acknowledgements of a partner (R142, R396) -/

/-- What an acknowledgement that comes by a port makes of a partner, where V(h) is `v`. -/
def Partner.takesAck (port usn v : Nat) (p : Partner) : Partner :=
  if p.port = port then
    let att := !p.detached && decide (v ≤ max p.acked usn)
    { p with acked := max p.acked usn, attached := p.attached || att, next := if !p.attached && att then p.loadSeq else p.next,
             loading := p.loading && decide (max p.acked usn < v) }
  else p

section
variable {port : Nat} {p : Partner}

theorem takesAck_other (usn v : Nat) (hp : p.port ≠ port) : p.takesAck port usn v = p := if_neg hp

theorem takesAck_acked (usn v : Nat) (hp : p.port = port) : (p.takesAck port usn v).acked = max p.acked usn := by
  rw [Partner.takesAck, if_pos hp]

theorem takesAck_stays_attached (usn v : Nat) (ha : p.attached = true) : (p.takesAck port usn v).attached = true := by
  unfold Partner.takesAck
  split <;> simp [ha]

/-- A partner that was not detached and has acknowledged up to V(h) is attached, and loads no more. -/
theorem takesAck_attaches {usn v : Nat} (hp : p.port = port) (hd : p.detached = false) (hv : v ≤ max p.acked usn) :
    (p.takesAck port usn v).attached = true ∧ (p.takesAck port usn v).loading = false := by
  rw [Partner.takesAck, if_pos hp]
  simp only [hd, hv, Nat.not_lt.mpr hv]
  simp

end

theorem settleMirror_shards (s : State) : s.settleMirror.shards = s.shards := by
  unfold State.settleMirror
  exact foldl_same (g := State.shards) (fun _ _ => State.modFar_shards ..) _ _

/-- LOG_ACK at an owner changes its partners, each as the acknowledgement makes it. -/
theorem logAck_shard {s : State} {shard i : Nat} {h : Shard} (port usn : Nat) (hs : s.slotOf shard = some i)
    (hi : mget s.shards i = some h) (ho : h.owner = true) : ∃ t, exec (.logAck port shard usn) s = .next t ∧
      mget t.shards i = some { h with partners := h.partners.map (Partner.takesAck port usn h.vis) } := by
  simp only [exec, execLogAck, hs]
  refine ⟨_, rfl, ?_⟩
  rw [settleMirror_shards, State.shard_modShard _ hi, if_pos ho]
  rfl

/-! ### Records sent again (R142, R143, R397) -/

/-- The records of a slot's log from a USN on go to a port again. -/
def State.resent (s : State) (port shard usn i : Nat) : State :=
  (s.log.recs.filter fun r => r.slot == i && r.from_ usn).foldl (fun (s : State) r => s.sendHedge port 4 r.usn shard r.bytes) s

/-- A partner that loads by a port needs an update that the log holds no longer. -/
def State.lacksRecord (s : State) (h : Shard) (port usn i : Nat) : Prop :=
  (∃ p ∈ h.partners, p.port = port ∧ p.loading = true) ∧ usn ≤ h.last ∧
    ∀ r ∈ s.log.recs, ¬ (r.slot = i ∧ r.kind = 1 ∧ r.usn = usn)

theorem lacksRecord_iff (s : State) (h : Shard) (port usn i : Nat) :
    ((h.partners.any fun p => p.port == port && p.loading) && decide (usn ≤ h.last) &&
      !(s.log.recs.any fun r => r.slot == i && r.kind == 1 && r.usn == usn)) = true ↔ s.lacksRecord h port usn i := by
  simp [State.lacksRecord, and_assoc]

section
variable {s : State} {port shard usn i : Nat} {h : Shard} (hs : s.slotOf shard = some i) (hi : mget s.shards i = some h)
  (ho : h.owner = true) (hp : (h.partners.any fun p => p.port == port && !p.detached) = true)
include hs hi ho hp

theorem logResend_held (hl : ¬ s.lacksRecord h port usn i) : exec (.logResend port shard usn) s = .next (s.resent port shard usn i) := by
  have hgo : ¬ (!h.owner || !(h.partners.any fun p => p.port == port && !p.detached)) = true := by simp [ho, hp]
  simp only [exec, execLogResend, hs, hi]
  exact (if_neg hgo).trans (congrArg _ (if_neg ((lacksRecord_iff s h port usn i).not.mpr hl)))

theorem logResend_gone (hl : s.lacksRecord h port usn i) :
    exec (.logResend port shard usn) s = .next ((s.resent port shard usn i).evU 0xB011 locField (some (i, usn)) 0) := by
  have hgo : ¬ (!h.owner || !(h.partners.any fun p => p.port == port && !p.detached)) = true := by simp [ho, hp]
  simp only [exec, execLogResend, hs, hi]
  exact (if_neg hgo).trans (congrArg _ (if_pos ((lacksRecord_iff s h port usn i).mpr hl)))

end

/-- Settles O23: the inbox, then each partner by what the acknowledgement makes of it, then the records sent again. -/
theorem replicasTakeAndApplyRecords : Obligations.ReplicasTakeAndApplyRecords := by
  refine ⟨fun s i h r rest hi hb ho hs hk hp => ?_, fun s port shard usn i h hs hi ho => ?_, fun s port shard usn i h hs hi ho hp =>
    ⟨logResend_held hs hi ho hp, logResend_gone hs hi ho hp⟩⟩
  · exact (replicaApply_takes hi hb ho hs hk).trans (congrArg _ (takeInbox_update hi hb hk hp))
  · obtain ⟨t, hrun, hshard⟩ := logAck_shard port usn hs hi ho
    refine ⟨t, _, hrun, hshard, List.length_map .., fun k p q hp hq => ?_⟩
    have hpq : q = p.takesAck port usn h.vis := by simpa [hp] using hq.symm
    subst hpq
    exact ⟨takesAck_other usn h.vis, fun hport => ⟨takesAck_acked usn h.vis hport, takesAck_stays_attached usn h.vis,
      takesAck_attaches hport⟩⟩

end Sys2Proof.Machine
end

section
/-! LOG_RECORDS of one update record at a replica (R141 to R143). -/

namespace Sys2Proof.Machine
set_option Elab.async false

/-! ### Taking a record -/

/-- The record that a replica makes of the bytes which it takes. -/
def State.recordOf (s : State) (i : Nat) (b : Bytes) : LogRec := ⟨s.log.nextSeq, i, u8 b 0, u64 b 8, b, s.step.number, 0, false⟩

/-- An update that the log has room for joins the inbox, and the next USN is expected. -/
theorem takeRecord_shard {s : State} {i : Nat} {b : Bytes} {h : Shard} (hi : mget s.shards i = some h) (hk : u8 b 0 = 1)
    (hr : s.logRoom b.length = true) : mget (s.takeRecord i b).shards i =
      some { h with inbox := h.inbox ++ [s.recordOf i b], topUsn := max h.topUsn (u64 b 8), expects := u64 b 8 + 1 } := by
  rw [State.takeRecord, if_neg (not_not.mpr hr)]
  refine (State.shard_modShard _ hi).trans ?_
  rw [if_pos hk]
  rfl

/-- Where a shard holds no record back, no held record is taken. -/
theorem takeHeld_none {s : State} {i : Nat} {h : Shard} (hi : mget s.shards i = some h) (hh : h.held = []) (n : Nat) :
    s.takeHeld i n = s := by
  cases n with
  | zero => rfl
  | succ n => simp [State.takeHeld, hi, hh]

/-! ### One update record -/

/-- An update was taken before where its USN lies below the expected one. -/
theorem logSeen_update (s : State) (i : Nat) (h : Shard) {b : Bytes} (hk : u8 b 0 = 1) :
    s.logSeen i h b = decide (u64 b 8 < h.expects) := if_pos hk

/-- An update is in order where its USN is the expected one. -/
theorem inOrder_update (h : Shard) {b : Bytes} (hk : u8 b 0 = 1) : h.inOrder b = (u64 b 8 == h.expects) := if_pos hk

section
variable {s : State} {i : Nat} {b : Bytes} {h : Shard} (port : Nat) (hb : logParts b.length b = [b]) (hs : s.slotOf (u32 b 4) = some i)
  (hi : mget s.shards i = some h) (ho : h.owner = false) (hk : u8 b 0 = 1)
include hb hs hi ho hk

/-- An update that was taken before is acknowledged again. -/
theorem logRecords_taken (hu : u64 b 8 < h.expects) :
    exec (.logRecords port b) s = .next (s.sendHedge port 5 (h.expects - 1) h.id []) := by
  simp [exec, execLogRecords, hb, hs, hi, ho, hk, logSeen_update s i h hk, hu]

/-- An update after a gap is held, and the missing one asked for. -/
theorem logRecords_gap (hu : h.expects < u64 b 8) : exec (.logRecords port b) s =
    .next (((s.modShard i fun h => h.hold b).sendHedge port 6 h.expects h.id []).evU 0x3068 locField (some (i, h.expects)) 0) := by
  simp [exec, execLogRecords, hb, hs, hi, ho, hk, logSeen_update s i h hk, inOrder_update h hk, Nat.lt_asymm hu, Nat.ne_of_gt hu]

section
variable (hu : u64 b 8 = h.expects)
include hu

/-- An update in order that the log has no room for is held. -/
theorem logRecords_no_room (hr : s.logRoom b.length = false) :
    exec (.logRecords port b) s = .next (s.modShard i fun h => h.hold b) := by
  simp [exec, execLogRecords, hb, hs, hi, ho, hk, logSeen_update s i h hk, inOrder_update h hk, hu, hr]

/-- An update in order is taken and acknowledged, where no held one follows it. -/
theorem logRecords_in_order (hh : h.held = []) (hr : s.logRoom b.length = true) :
    exec (.logRecords port b) s = .next ((s.takeRecord i b).sendHedge port 5 (u64 b 8) h.id []) := by
  have hshard := takeRecord_shard hi hk hr
  simp [exec, execLogRecords, hb, hs, hi, ho, hk, logSeen_update s i h hk, inOrder_update h hk, hu, hr, takeHeld_none hshard hh, hshard]

end

end

/-- Settles O24, by where the record's USN lies to the one that is expected. -/
theorem logRecordsArriveInOrder : Obligations.LogRecordsArriveInOrder := by
  refine fun s port i b h hb hs hi ho hk hh => ⟨logRecords_no_room port hb hs hi ho hk, fun hu hr => ?_,
    logRecords_taken port hb hs hi ho hk, logRecords_gap port hb hs hi ho hk⟩
  exact ⟨_, s.recordOf i b, logRecords_in_order port hb hs hi ho hk hu hh hr, takeRecord_shard hi hk hr, rfl, rfl,
    congrArg (· + 1) hu⟩

end Sys2Proof.Machine
end

section
/-! LOG_TRIM (R147, R152). -/

namespace Sys2Proof.Machine
set_option Elab.async false

/-- The unmapping of pages leaves the log. -/
theorem trim_log (s : State) (first n : Nat) : (s.trim first n).log = s.log :=
  Inv.trim (Stables.same (f := .log) s rfl rfl (Or.inl rfl)) (Part.same_refl .log s) first n

/-- A record may leave when it is durable and, where its shard stands, a durable epoch record covers it and every attached partner has
acknowledged it. -/
theorem trims_iff (s : State) (r : LogRec) : s.trims r = true ↔ r.durable = true ∧ ∀ h, mget s.shards r.slot = some h →
    1 ≤ h.cur.num ∧ r.usn ≤ h.cur.floor ∧ ∀ p ∈ h.partners, p.attached = true → r.usn ≤ p.acked := by
  unfold State.trims
  cases mget s.shards r.slot with
  | none => simp
  | some h => simp [-List.all_filter, and_assoc]

/-- LOG_TRIM takes records from the front of the log while they may leave. -/
theorem logTrim_recs (s : State) : ∃ t, exec .logTrim s = .next t ∧ t.log.recs = s.log.recs.dropWhile s.trims :=
  ⟨_, rfl, congrArg LogSt.recs (foldl_same (g := State.log) (fun _ _ => trim_log ..) _ _)⟩

/-- Settles O25, by the condition under which a record may leave. -/
theorem logTrimKeepsWhatIsOwed : Obligations.LogTrimKeepsWhatIsOwed := by
  intro s
  obtain ⟨t, hrun, hrecs⟩ := logTrim_recs s
  refine ⟨t, s.log.recs.takeWhile s.trims, hrun, ?_, fun r hr => (trims_iff s r).mp (List.mem_takeWhile_imp hr), fun r hr => ?_⟩
  · rw [hrecs, List.takeWhile_append_dropWhile]
  · rw [hrecs] at hr
    have hstays := List.head?_dropWhile_not s.trims s.log.recs
    rw [hr] at hstays
    exact (trims_iff s r).not.mp (by simpa using hstays)

end Sys2Proof.Machine
end

section
/-! TAKE and RELEASE (R168, R171, R172). -/

namespace Sys2Proof.Machine
set_option Elab.async false

/-- The far context of a request that a take hands to its home plot. -/
def State.takenFar (s : State) (c : Nat) (f : FarCtx) : State :=
  s.modFar c fun x => { x with owner := 2, phase := takePhase f.kind f.phase, moved := some s.step.number }

/-- What each handoff of a take leaves: the near side follows the far side, unless the record is poisoned or its transfer fails. -/
def State.takeLeaves (s : State) (tag c k : Nat) (f : FarCtx) : Handoff → State
  | .poison => ((s.takenFar c f).raise 0x4014 (locPlot f.home) 0).lose tag 10
  | .routeFail => ((s.takenFar c f).raise 0x6004 (locPlot f.home) 0).lose tag 9
  | .clean | .beliefFail => (s.takenFar c f).modStub k fun x =>
      { x with belief := 2, phase := takePhase f.kind f.phase, nearSlot := (s.takenFar c f).freeNear f.home }

/-- The phase that a release enters, and the far context that it leaves. -/
def State.releasePhase (s : State) (f : FarCtx) (w : Work) : Nat :=
  nextPhase f.kind f.phase (!w.remotes.isEmpty) (s.mirrorWait w) ((w.gen.map fun g => u8 g.hdr 0 == 1).getD false) w.spreads
def State.releasedFar (s : State) (f : FarCtx) (w : Work) (x : FarCtx) : FarCtx :=
  { x with owner := 1, phase := s.releasePhase f w, status := w.status, ckpt := some w, moved := some s.step.number }

/-- The near slot of a request given up. -/
def State.releasedStub (s : State) (k : Nat) : State := s.modStub k fun x => { x with belief := 1, nearSlot := 0xFFFF }

/-- What each handoff of a release leaves: only where the BELIEF write fails does the stub stay as it was. -/
def State.releaseLeaves (s : State) (tag c k : Nat) (f : FarCtx) (w : Work) : Handoff → State
  | .clean => (s.releasedStub k).modFar c (s.releasedFar f w)
  | .poison => ((s.releasedStub k).raise 0x4014 (locPlot f.home) 0).lose tag 10
  | .routeFail => ((s.releasedStub k).raise 0x6004 (locPlot f.home) 0).lose tag 9
  | .beliefFail => s.modFar c (s.releasedFar f w)

section
variable {s : State} {tag c k : Nat} {f : FarCtx} {st : Stub} (hf : s.farOf tag = some (c, f)) (hst : s.stubOf tag = some (k, st))
  (hl : s.isLost tag = false)
include hf hst hl

/-- TAKE runs outside the phases in which the far context stays (R171). -/
theorem take_runs (ho : f.owner = 1) (hp : f.phase ∉ [0x0B, 0x0C, 0x11, 0x24]) (x : Handoff) :
    exec (.take tag x) s = .next (s.takeLeaves tag c k f x) := by
  have hgo : ¬ (f.owner ≠ 1 ∨ [0x0B, 0x0C, 0x11, 0x24].contains f.phase = true ∨ s.isLost tag = true) := by
    simpa [ho, hl] using hp
  simp only [exec, execTake, hf, hst, if_neg hgo]
  cases x <;> rfl

/-- RELEASE runs once the work of the phase has ended (R171). -/
theorem release_runs {w : Work} (hw : s.workOf tag = some w) (ho : f.owner = 2) (hd : w.phaseDone f.phase = true) (x : Handoff) :
    exec (.release tag x) s = .next (s.releaseLeaves tag c k f w x) := by
  have hgo : ¬ (f.owner ≠ 2 ∨ ¬ w.phaseDone f.phase = true ∨ s.isLost tag = true) := by simp [ho, hd, hl]
  simp only [exec, execRelease, hf, hst, hw, if_neg hgo]
  cases x <;> rfl

end

/-- Settles O18: each way that a handoff ends is a case of what TAKE or RELEASE leaves. -/
theorem handoffsMoveTheRequest : Obligations.HandoffsMoveTheRequest := by
  refine ⟨fun s tag c k f st hf hst ho hp hl => ?_, fun s tag c k f st w hf hst hw ho hd hl => ?_⟩
  · have hrun := take_runs hf hst hl ho hp
    exact ⟨hrun .clean, hrun .poison, hrun .routeFail⟩
  · have hrun := release_runs hf hst hl hw ho hd
    exact ⟨hrun .clean, hrun .beliefFail, hrun .poison⟩

end Sys2Proof.Machine
end

section
/-! AUDIT_SWEEP and POOL_LOSS (R173, R174). -/

namespace Sys2Proof.Machine
set_option Elab.async false

/-! ### Loose stubs (R173) -/

/-- A stub under a key is freed, and EV 0x4016 raised. -/
def State.freeStub (s : State) (k : Nat) : State :=
  ({ s with ledger := { s.ledger with stubs := mdel s.ledger.stubs k } }).raise 0x4016 (locPlot (k / 131072)) 0

theorem mem_freeStub {s : State} {k : Nat} {e : Nat × Stub} : e ∈ (s.freeStub k).ledger.stubs ↔ e ∈ s.ledger.stubs ∧ e.1 ≠ k := by
  simp [State.freeStub, mdel]

theorem freeStub_fars (s : State) (k : Nat) : (s.freeStub k).ledger.fars = s.ledger.fars := by simp [State.freeStub]

/-- The stubs of a list are freed, and no other; the far contexts stand. -/
def State.freeStubs (s : State) (l : List (Nat × Stub)) : State := l.foldl (fun s e => s.freeStub e.1) s

theorem mem_freeStubs {l : List (Nat × Stub)} {e : Nat × Stub} {s : State} :
    e ∈ (s.freeStubs l).ledger.stubs ↔ e ∈ s.ledger.stubs ∧ ∀ x ∈ l, e.1 ≠ x.1 := by
  induction l generalizing s with
  | nil => simp [State.freeStubs]
  | cons x l ih => simpa [State.freeStubs, mem_freeStub, and_assoc] using ih (s := s.freeStub x.1)

theorem freeStubs_fars (s : State) (l : List (Nat × Stub)) : (s.freeStubs l).ledger.fars = s.ledger.fars :=
  foldl_same (g := fun s => s.ledger.fars) (fun _ _ => freeStub_fars ..) l s

/-- A stub of a plot's far partition that names no far context (R173). -/
def State.looseStub (s : State) (plot : Nat) (e : Nat × Stub) : Bool :=
  e.2.far / 131072 == plot && !(s.ledger.fars.any fun x => x.1 == e.2.far)

/-- Where the loose stubs of a partition are freed, every stub of it names a far context that stands. -/
theorem freeStubs_loose {s : State} {plot : Nat} {e : Nat × Stub}
    (he : e ∈ (s.freeStubs (s.ledger.stubs.filter (s.looseStub plot))).ledger.stubs) (hp : e.2.far / 131072 = plot) :
    ∃ x ∈ (s.freeStubs (s.ledger.stubs.filter (s.looseStub plot))).ledger.fars, x.1 = e.2.far := by
  obtain ⟨hmem, hkept⟩ := mem_freeStubs.mp he
  have htight : s.looseStub plot e ≠ true := fun hloose => hkept e (List.mem_filter.mpr ⟨hmem, hloose⟩) rfl
  rw [freeStubs_fars]
  simpa [State.looseStub, hp] using htight

/-- AUDIT_SWEEP ends by freeing the stubs that the audit of the far contexts leaves loose. -/
theorem auditSweep_frees (s : State) (plot : Nat) :
    ∃ u : State, exec (.auditSweep plot) s = .next (u.freeStubs (u.ledger.stubs.filter (u.looseStub plot))) := ⟨_, rfl⟩

/-! ### Pools and plots (R174) -/

/-- `t` has the pools of `s`: those that are out, and the plots and Tiller stacks in service. -/
structure State.PoolsAs (s t : State) : Prop where
  nearOut : t.node.nearOut = s.node.nearOut
  farOut : t.node.farOut = s.node.farOut
  plots : t.node.plots = s.node.plots
  tillers : t.node.tillers = s.node.tillers

/-- An operation outside whose set these parts stand leaves the pools as they are. -/
theorem State.PoolsAs.of_ops {s t : State} {m : Nat} (hi : ∀ P : State → Prop, Stables P m → P s → P t)
    (hm : [Part.nodePools, .nodeUnits].all (fun f => !f.isMem && f.outside m) = true) : s.PoolsAs t := by
  have same : ∀ f ∈ [Part.nodePools, .nodeUnits], f.same s t := fun f hf => Inv.same hi (List.all_eq_true.mp hm f hf)
  have hpools := same .nodePools (by decide)
  have hunits := same .nodeUnits (by decide)
  simp only [Part.same, Prod.mk.injEq] at hpools hunits
  obtain ⟨hnear, hfar⟩ := hpools
  obtain ⟨hplots, htillers, -⟩ := hunits
  exact ⟨hnear, hfar, hplots, htillers⟩

theorem State.PoolsAs.trans {s t u : State} (h : s.PoolsAs t) (k : t.PoolsAs u) : s.PoolsAs u :=
  ⟨k.nearOut.trans h.nearOut, k.farOut.trans h.farOut, k.plots.trans h.plots, k.tillers.trans h.tillers⟩

/-- The requests that a lost pool ends take no pool with them. -/
theorem nearLost_pools (s : State) (p : Nat) : s.PoolsAs (s.nearLost p) :=
  .of_ops (fun _ hk h => Inv.nearLost hk h p) (by decide +kernel)

theorem farLost_pools (s : State) (p : Nat) : s.PoolsAs (s.farLost p) :=
  .of_ops (fun _ hk h => Inv.farLost hk h p) (by decide +kernel)

/-- Settles O19: a sweep ends by freeing loose stubs, and what a lost pool does to requests leaves the pools as they were marked. -/
theorem sweepsAndLossesComplete : Obligations.SweepsAndLossesComplete := by
  refine ⟨fun s plot => ?_, fun s p => ?_⟩
  · obtain ⟨u, hrun⟩ := auditSweep_frees s plot
    exact ⟨_, hrun, fun e he hp => freeStubs_loose he hp⟩
  · have hnear := nearLost_pools { s with node := { s.node with nearOut := setBit s.node.nearOut p } } p
    have hfar := farLost_pools { s with node := { s.node with farOut := setBit s.node.farOut p } } p
    have hstack := fun u => farLost_pools (u : State) p
    have hplot := fun u => (nearLost_pools (u : State) p).trans (farLost_pools _ p)
    exact ⟨_, _, _, _, rfl, hnear.nearOut, rfl, hfar.farOut, rfl, (hstack _).farOut, (hstack _).tillers,
      rfl, (hplot _).nearOut, (hplot _).farOut, (hplot _).plots, (hplot _).tillers⟩

end Sys2Proof.Machine
end

section
/-! COMPLETION_WRITE of an update, a root request or a sub-search (R157, R163, R164, R176). -/

namespace Sys2Proof.Machine
set_option Elab.async false

/-! ### The bytes of a completion (R163) -/

theorem length_cplBytes (h : CplHead) (n : Nat) (body : Bytes) : (cplBytes h n body).length = 64 + body.length := by
  simp [cplBytes, leBytes_length, zeros]
  omega

/-- A ring pair with its completion tail moved and reserved slots given back. -/
def Ring.advance (tail n : Nat) (r : Ring) : Ring := { r with cplTail := tail, reserved := r.reserved - n }

/-- A completion moves its ring's tail by the slots of header and body, and gives back the slots reserved for it (R157, R165). -/
theorem writeCpl_rings {s : State} {ring : Nat} {r : Ring} (hr : mget s.rings ring = some r) (n : Nat) (h : CplHead) (body : Bytes) :
    mget (s.writeCpl ring n h body).rings ring = some { r with
      cplTail := (r.cplTail + ceilDiv (64 + body.length) 64) % 2 ^ 32, reserved := r.reserved - n } := by
  simp only [State.writeCpl, hr, length_cplBytes]
  split
  · rw [State.emitQp_rings, foldl_same (g := State.rings) fun _ _ => State.emitQp_rings ..]
    exact mget_mmod_self (Ring.advance _ n) hr
  · exact mget_mmod_self (Ring.advance _ n) hr

/-! ### The end of a request -/

section
variable (u : State) (tag : Nat)

theorem freeReq_fars : ∀ e ∈ (u.freeReq tag).ledger.fars, e.2.tag ≠ tag :=
  fun _ he => bne_iff_ne.mp (List.mem_filter.mp he).2

theorem freeReq_stubs : ∀ e ∈ (u.freeReq tag).ledger.stubs, e.2.tag ≠ tag :=
  fun _ he => bne_iff_ne.mp (List.mem_filter.mp he).2

/-- The near slot of a request that owes nothing is freed with it (R136). -/
theorem freeReq_workOf (h : ∀ e ∈ u.ledger.works, e.1 = tag → e.2.owed = false) : (u.freeReq tag).workOf tag = none := by
  have hdel : (u.ledger.works.filter fun e => e.1 != tag || e.2.owed) = mdel u.ledger.works tag :=
    List.filter_congr fun e he => by by_cases ht : e.1 = tag <;> simp [ht, h e he]
  exact (congrArg (mget · tag) hdel).trans (mget_mdel ..)

end

/-- The header of a completion that carries no records (R163). -/
def FarCtx.plainHead (f : FarCtx) (w : Work) (tag : Nat) : CplHead :=
  ⟨f.kind, f.replayed, false, w.status, 0, f.client, tag, w.condBits, 0, if f.replayed then w.orig else 0⟩

/-- What a request writes or sends as it completes, before it is freed: a sub-search its lists, an update and a root request their
completion, the latter with the root record behind it (R108, R157, R166). -/
def State.completed (s : State) (tag : Nat) (f : FarCtx) (w : Work) : State :=
  if f.kind = 5 then s.sendLists w
  else if f.kind = 2 then (s.writeCpl f.cplRing f.reserved (f.plainHead w tag) (s.earlyBody 2 tag)).countStatus 2 0
  else (s.writeCpl f.cplRing f.reserved (f.plainHead w tag) []).writeRoot w

/-- None of this touches what the near slots hold; the number is the set of `Inv.writeRoot`, which holds those of the other two. -/
theorem completed_works (s : State) (tag : Nat) (f : FarCtx) (w : Work) : (s.completed tag f w).ledger.works = s.ledger.works := by
  have hkeep : Part.works.same s (s.completed tag f w) := by
    refine Inv.same (m := 1183185694242396774400) (fun P hk h => ?_) (by decide +kernel)
    have hwrite {u : State} (hu : P u) (b : Bytes) := Inv.writeCpl (hk.sub rfl) hu f.cplRing f.reserved (f.plainHead w tag) b
    exact Inv.ite (Inv.sendLists (hk.sub rfl) h w) (Inv.ite (Inv.countStatus (hk.sub rfl) (hwrite h _) 2 0)
      (Inv.writeRoot hk (hwrite h _) w))
  exact congrArg Prod.fst hkeep

/-- An update's ring after its completion. -/
theorem completed_ring {s : State} {f : FarCtx} {r : Ring} (hk : f.kind = 2) (hr : mget s.rings f.cplRing = some r) (tag : Nat) (w : Work) :
    mget (s.completed tag f w).rings f.cplRing = some { r with
      cplTail := (r.cplTail + ceilDiv (64 + (s.earlyBody 2 tag).length) 64) % 2 ^ 32, reserved := r.reserved - f.reserved } := by
  have hcount (u : State) : (u.countStatus 2 0).rings = u.rings :=
    Inv.same (f := .rings) (fun _ hk h => Inv.countStatus hk h 2 0) (by decide +kernel)
  rw [State.completed, hk, if_neg (by decide), if_pos rfl, hcount]
  exact writeCpl_rings hr ..

/-- A sub-search writes to no ring. -/
theorem completed_rings {s : State} {f : FarCtx} (hk : f.kind = 5) (tag : Nat) (w : Work) : (s.completed tag f w).rings = s.rings := by
  rw [State.completed, if_pos hk]
  exact Inv.same (f := .rings) (fun _ hk h => Inv.sendLists hk h w) (by decide +kernel)

/-- COMPLETION_WRITE of such a request that its far context owns, and that is not lost (R171, R174). -/
theorem completionWrite_runs {s : State} {tag c : Nat} {f : FarCtx} {w : Work} (hf : s.farOf tag = some (c, f)) (hw : s.workOf tag = some w)
    (ho : f.owner = 1) (hp : f.phase = 0x0B) (hk : f.kind = 2 ∨ f.kind = 4 ∨ f.kind = 5) (hl : s.isLost tag = false) :
    exec (.completionWrite tag) s = .next ((s.completed tag f w).freeReq tag) := by
  have hgo : ¬ (f.phase ≠ 0x0B ∨ f.owner ≠ 1 ∨ s.isLost tag = true) := by simp [ho, hp, hl]
  simp only [exec, execCompletionWrite, hf, hw, if_neg hgo, State.completed]
  obtain hk | hk | hk := hk <;> simp [hk, FarCtx.plainHead]

/-! ### The frame -/

/-- The parts that make up the step. -/
def Part.ofStep : List Part :=
  [.stepNumber, .stepHeld, .stepSequencer, .stepClock, .stepSpill, .stepRetries, .stepAgenda, .stepOpen, .stepPlan]

/-- A command whose footprint names none of them keeps the step. -/
theorem step_of_frame {s t : State} (h : ∀ f ∈ Part.ofStep, f.same s t) : t.step = s.step := by
  simp only [Part.ofStep, List.forall_mem_cons, Part.same, Prod.mk.injEq] at h
  generalize s.step = x, t.step = y at h ⊢
  cases x
  cases y
  simp_all

/-- Settles O21: the request's completion is written and the request freed; all else is COMPLETION_WRITE's frame. -/
theorem requestsCompleteInTheirRing : Obligations.RequestsCompleteInTheirRing := by
  intro s tag c f w hf hw ho hp hk howed hl hmem
  have hrun := completionWrite_runs hf hw ho hp hk hl
  have frame {p : Part} (hout : p ∉ Part.ofCheck ++ [.roots]) := commandsKeepTheirFrame _ _ _ p hmem hrun hout
  have hstep : ∀ p ∈ Part.ofStep, p ∉ Part.ofCheck ++ [.roots] := by decide
  refine ⟨_, hrun, freeReq_workOf _ _ (by rw [completed_works]; exact howed), freeReq_fars _ _, freeReq_stubs _ _,
    fun hkind r hr => completed_ring hkind hr tag w, fun hkind => completed_rings hkind tag w, ?_, frame (p := .shards) (by decide),
    step_of_frame fun p hp => frame (hstep p hp), frame (p := .dictCommitted) (by decide)⟩
  rintro a (hlow | hhigh)
  · exact frame (p := .memField) (by decide) a hlow
  · by_cases hcell : a < 2 ^ 64
    · exact frame (p := .memCells) (by decide) a hhigh hcell
    · exact frame (p := .memRows) (by decide) a (Nat.not_lt.mp hcell)

end Sys2Proof.Machine
end

section
/-! Batches whose whole changes the node and whose parts change more than a result (R185), and LOAD_SCALES, SWAP_SCALES and CLIP_DUMP
(R181, R183, R184). -/

namespace Sys2Proof.Machine
set_option Elab.async false

/-! ### The work of one request -/

section
variable {s u v t : State} {tag : Nat} {w x y : Work}

/-- From `u` to `v` the work of a request has become `x`, and that of every other request is as it was. -/
def State.WorkBecomes (u v : State) (tag : Nat) (x : Work) : Prop :=
  v.workOf tag = some x ∧ ∀ k, k ≠ tag → v.workOf k = u.workOf k

theorem State.WorkBecomes.trans (h : u.WorkBecomes v tag x) (k : v.WorkBecomes t tag y) : u.WorkBecomes t tag y :=
  ⟨k.1, fun i hi => (k.2 i hi).trans (h.2 i hi)⟩

theorem State.WorkBecomes.of_works (h : v.ledger.works = u.ledger.works) (hw : u.workOf tag = some w) : u.WorkBecomes v tag w := by
  have hsame (k : Nat) : v.workOf k = u.workOf k := by rw [State.workOf, h, State.workOf]
  exact ⟨(hsame tag).trans hw, fun k _ => hsame k⟩

theorem modWork_becomes (f : Work → Work) (hw : u.workOf tag = some w) : u.WorkBecomes (u.modWork tag f) tag (f w) :=
  ⟨State.workOf_modWork f hw, fun _ hk => State.workOf_modWork_ne u f hk⟩

end

/-! ### Requests in turn -/

/-- Steps for distinct requests, each of which keeps `R` and gives its own request its next work, do so for all of them. -/
theorem foldl_works {s : State} {f : State → Nat → State} {next : Nat → Work → Work} {R : State → Prop} {l : List Nat}
    (hf : ∀ u tag w, R u → tag ∈ l → s.workOf tag = some w → u.workOf tag = some w →
      R (f u tag) ∧ u.WorkBecomes (f u tag) tag (next tag w))
    (hnd : l.Nodup) {u : State} (hu : R u) (hl : ∀ tag ∈ l, ∃ w, s.workOf tag = some w ∧ u.workOf tag = some w) :
    R (l.foldl f u) ∧ (∀ tag w, tag ∈ l → s.workOf tag = some w → (l.foldl f u).workOf tag = some (next tag w)) ∧
      ∀ k, k ∉ l → (l.foldl f u).workOf k = u.workOf k := by
  induction l generalizing u with
  | nil => exact ⟨hu, fun _ _ h => absurd h List.not_mem_nil, fun _ _ => rfl⟩
  | cons a l ih =>
    obtain ⟨ha, hnd⟩ := List.nodup_cons.mp hnd
    obtain ⟨x, hsx, hux⟩ := hl a List.mem_cons_self
    obtain ⟨hkeep, hown, hothers⟩ := hf u a x hu List.mem_cons_self hsx hux
    have hrest : ∀ tag ∈ l, ∃ w, s.workOf tag = some w ∧ (f u a).workOf tag = some w := fun tag hm => by
      obtain ⟨w, hs, hw⟩ := hl tag (List.mem_cons_of_mem _ hm)
      exact ⟨w, hs, (hothers tag fun e => ha (e ▸ hm)).trans hw⟩
    obtain ⟨hend, hin, hout⟩ := ih (fun v tag w hv hm => hf v tag w hv (List.mem_cons_of_mem _ hm)) hnd hkeep hrest
    refine ⟨hend, fun tag w hm hs => ?_, fun k hk => ?_⟩
    · obtain rfl | hm := List.mem_cons.mp hm
      · obtain rfl : w = x := Option.some.inj (hs.symm.trans hsx)
        exact (hout tag ha).trans hown
      · exact hin tag w hm hs
    · obtain ⟨hne, hnl⟩ := not_or.mp fun h => hk (List.mem_cons.mpr h)
      exact (hout k hnl).trans (hothers k hne)

/-! ### The parts of a batch -/

/-- A part keeps `R` and turns its request's work `w` into `mid tag w`, of the same program and the same kind. -/
structure State.PartLeaves (s : State) (R : State → Prop) (part : Nat → Work → State → State) (mid : Nat → Work → Work) : Prop where
  prog : ∀ tag w, (mid tag w).prog = w.prog
  gen : ∀ tag w, (mid tag w).gen.isSome = w.gen.isSome
  moves : ∀ u tag f, R u → R (u.modWork tag f)
  leaves : ∀ u tag w, R u → s.workOf tag = some w → u.workOf tag = some w →
    R (part tag w u) ∧ u.WorkBecomes (part tag w u) tag (mid tag w)

section
variable {s : State} {op : Nat} {ti : TInstr} {tags : List Nat} {R : State → Prop} {part : Nat → Work → State → State}
  {mid : Nat → Work → Work}

/-- Whether a program goes on depends on the program and on there being a generation. -/
theorem Work.goesOn.of_same {w x : Work} (h : w.goesOn) (hp : x.prog = w.prog) (hg : x.gen.isSome = w.gen.isSome) : x.goesOn := by
  intro g hx
  obtain ⟨g', hw⟩ := Option.isSome_iff_exists.mp (hg.symm.trans (Option.isSome_of_eq_some hx))
  rw [hp]
  exact h g' hw

theorem State.PartLeaves.runPart (hpart : s.PartLeaves R part mid) {u : State} {tag : Nat} {w : Work} (hu : R u)
    (hs : s.workOf tag = some w) (hw : u.workOf tag = some w) (hgo : w.goesOn) :
    R (u.runPart part tag) ∧ u.WorkBecomes (u.runPart part tag) tag { mid tag w with prog := w.prog.drop 1 } := by
  obtain ⟨hR, hmid⟩ := hpart.leaves u tag w hu hs hw
  have hrun : u.runPart part tag = (part tag w u).modWork tag fun x => { x with prog := w.prog.drop 1 } := by
    have hstep := stepProg_eq hmid.1 (hgo.of_same (hpart.prog tag w) (hpart.gen tag w))
    rw [hpart.prog] at hstep
    simp only [State.runPart, hw, hstep]
  rw [hrun]
  exact ⟨hpart.moves _ _ _ hR, hmid.trans (modWork_becomes (fun x => { x with prog := w.prog.drop 1 }) hmid.1)⟩

/-- A batch whose whole gives `v`, with the requests' work as it was, and whose parts then run (R185). -/
theorem State.PartLeaves.runBatch {whole : List Nat → State → State × Bool} {v : State} (hpart : s.PartLeaves R part mid)
    (hb : s.batchAt op ti tags) (hw : whole tags s = (v, true)) (hnil : tags = [] → v = s)
    (hv : v.ledger.works = s.ledger.works) (hR : R v) :
    R (s.runBatch op ti tags whole part) ∧ ∀ tag w, tag ∈ tags → s.workOf tag = some w →
      (s.runBatch op ti tags whole part).workOf tag = some { mid tag w with prog := w.prog.drop 1 } := by
  have hrun : s.runBatch op ti tags whole part = tags.foldl (State.runPart part) v := by
    simp only [State.runBatch, hb.standing, hb.startPass, hb.batch, hw]
    cases tags with
    | nil => exact (hnil rfl).symm
    | cons t ts => rfl
  have hat (tag : Nat) (ht : tag ∈ tags) : ∃ w, s.workOf tag = some w ∧ w.goesOn := by
    obtain ⟨w, hw⟩ := hb.atProg ht
    exact ⟨w, hw.workOf, hw.goesOn⟩
  have hvw (tag : Nat) : v.workOf tag = s.workOf tag := by rw [State.workOf, hv, State.workOf]
  have hall := foldl_works (s := s) (f := State.runPart part) (next := fun tag w => { mid tag w with prog := w.prog.drop 1 }) (R := R)
    (fun u tag w hu ht hs hw => by
      obtain ⟨x, hx, hgo⟩ := hat tag ht
      obtain rfl : w = x := Option.some.inj (hs.symm.trans hx)
      exact hpart.runPart hu hs hw hgo)
    hb.1 hR fun tag ht => by
      obtain ⟨w, hs, -⟩ := hat tag ht
      exact ⟨w, hs, (hvw tag).trans hs⟩
  rw [hrun]
  exact ⟨hall.1, hall.2.1⟩

/-- Parts that do nothing. -/
theorem State.PartLeaves.none (hmoves : ∀ u tag f, R u → R (u.modWork tag f)) : s.PartLeaves R (fun _ _ u => u) fun _ w => w where
  prog _ _ := rfl
  gen _ _ := rfl
  moves := hmoves
  leaves _ _ _ hu _ hw := ⟨hu, .of_works rfl hw⟩

end

/-! ### Maps -/

/-- A function's graph over ascending keys gives its values. -/
theorem mget_graph {α : Type} (f : Nat → α) {l : List Nat} (hl : l.Pairwise (· < ·)) {x : Nat} (hx : x ∈ l) :
    mget (l.map fun j => (j, f j)) x = some (f x) := by
  induction l with
  | nil => exact absurd hx List.not_mem_nil
  | cons a l ih =>
    obtain ⟨ha, hl⟩ := List.pairwise_cons.mp hl
    obtain rfl | hx := List.mem_cons.mp hx
    · exact if_pos rfl
    · have hax : a < x := ha x hx
      exact (if_neg (Nat.ne_of_lt hax)).trans ((if_neg (Nat.not_lt.mpr hax.le)).trans (ih hl hx))

/-! ### Scale banks (R181, R183) -/

/-- The scales of up to 4,096 channels of a tensor, from `first` on. -/
def scaleBank (img : Bytes) (d : Tensor) (first : Nat) : List (Nat × Nat) :=
  ((List.range 4096).filter fun j => decide (first + j < d.n)).map fun j => (j, d.reg img (first + j))

theorem mget_scaleBank (img : Bytes) (d : Tensor) {first j : Nat} (hj : j < 4096) (hd : first + j < d.n) :
    mget (scaleBank img d first) j = some (d.reg img (first + j)) :=
  mget_graph (fun j => d.reg img (first + j)) (List.pairwise_lt_range.filter _)
    (List.mem_filter.mpr ⟨List.mem_range.mpr hj, decide_eq_true hd⟩)

/-- An array with scales in its idle bank, and with its other bank in use. -/
def TArr.loaded (bank : List (Nat × Nat)) (first : Nat) (a : TArr) : TArr :=
  if a.useB then { a with bankA := bank, baseA := first } else { a with bankB := bank, baseB := first }
def TArr.swapped (a : TArr) : TArr := { a with useB := !a.useB }

theorem TArr.swapped_swapped (a : TArr) : a.swapped.swapped = a := by simp [TArr.swapped]

theorem loadScales_eq {s : State} {w : Work} {ti : TInstr} {d : Tensor} (hd : w.tensor ti.opB = some d) (arr : Nat) :
    s.loadScales arr ti w = s.modArr arr (TArr.loaded (scaleBank w.runImage d ti.n) ti.n) := by
  simp only [State.loadScales, hd]
  rfl

/-! ### Clip counts (R184) -/

theorem clipDumped_arrays (s : State) (arr : Nat) : (s.clipDumped arr).arrays = (s.modArr arr fun a => { a with clip := [] }).arrays := by
  have hsaid {u : State} {c : Prop} [Decidable c] (n d : Nat) :
      (if c then (u.raise 0x5012 (locArr arr) d).bump 0x5010 5 n else u).arrays = u.arrays := by split <;> simp
  simp only [State.clipDumped]
  split
  · rw [State.raise_arrays]
    exact foldl_same (g := State.arrays) (fun _ _ => hsaid ..) _ _
  · exact foldl_same (g := State.arrays) (fun _ _ => hsaid ..) _ _

theorem clipDumped_works (s : State) (arr : Nat) : (s.clipDumped arr).ledger.works = s.ledger.works :=
  congrArg Prod.fst (Inv.same (f := .works) (fun _ hk h => Inv.clipDumped hk h arr) (by decide +kernel))

theorem length_clipBytes (s : State) (arr : Nat) : (s.clipBytes arr).length = 784 := by
  simp [State.clipBytes, leBytes_length, zeros, List.length_flatMap]

/-- The work of a request with a dump in a buffer, which is no output. -/
def Work.withBuf (w : Work) (id : Nat) (b : Buf) : Work := { w with bufs := mput w.bufs id b }

/-! ### The instructions -/

section
variable {s v : State} {op : Nat} {ti : TInstr} {tags : List Nat} {part : Nat → Work → State → State} {mid : Nat → Work → Work}

/-- The next work of every request of a batch, and the arrays as `v` has them. -/
def State.Onward (s v t : State) (tags : List Nat) (mid : Nat → Work → Work) : Prop :=
  (∀ tag w, tag ∈ tags → s.workOf tag = some w → t.workOf tag = some { mid tag w with prog := w.prog.drop 1 }) ∧
    ∀ k, t.arr k = v.arr k

/-- A batch that changes arrays as a whole. -/
theorem runBatch_onward (hb : s.batchAt op ti tags) (hne : tags ≠ []) (hv : v.ledger.works = s.ledger.works)
    (hpart : s.PartLeaves (fun u => u.arrays = v.arrays) part mid) {whole : List Nat → State → State × Bool} (hw : whole tags s = (v, true)) :
    s.Onward v (s.runBatch op ti tags whole part) tags mid := by
  obtain ⟨harr, hworks⟩ := hpart.runBatch hb hw (fun h => absurd h hne) hv rfl
  exact ⟨hworks, fun k => by rw [State.arr, harr, State.arr]⟩

variable {arr : Nat} (ha : arr < 64) (hne : tags ≠ [])
include ha hne

theorem swapScales_onward (hb : s.batchAt 3 ti tags) :
    ∃ t, exec (.swapScales tags arr ti) s = .next t ∧ s.Onward (s.modArr arr TArr.swapped) t tags fun _ w => w := by
  refine ⟨_, rfl, ?_⟩
  rw [if_neg (Nat.not_le.mpr ha)]
  exact runBatch_onward (v := s.modArr arr TArr.swapped) hb hne rfl (.none fun _ _ _ h => h) rfl

theorem loadScales_onward (hb : s.batchAt 2 ti tags) {w : Work} {d : Tensor} (hw : s.workOf (tags.headD 0) = some w)
    (hd : w.tensor ti.opB = some d) : ∃ t, exec (.loadScales tags arr ti) s = .next t ∧
      s.Onward (s.modArr arr (TArr.loaded (scaleBank w.runImage d ti.n) ti.n)) t tags fun _ w => w := by
  refine ⟨_, rfl, ?_⟩
  rw [if_neg (Nat.not_le.mpr ha)]
  refine runBatch_onward (v := s.modArr arr _) hb hne rfl (.none fun _ _ _ h => h) ?_
  obtain ⟨a, l, rfl⟩ := List.exists_cons_of_ne_nil hne
  have hw : s.workOf a = some w := hw
  simp only [List.head?_cons, Option.bind_some, hw, Option.map_some, Option.getD_some, loadScales_eq hd]

theorem clipDump_onward (hb : s.batchAt 0x30 ti tags) : ∃ t, exec (.clipDump tags arr ti) s = .next t ∧
    s.Onward (s.modArr arr fun a => { a with clip := [] }) t tags fun _ w =>
      w.withBuf ti.res (plainBuf 0 [(s.clipBytes arr).map (·.toNat)]) := by
  refine ⟨_, rfl, ?_⟩
  rw [if_neg (Nat.not_le.mpr ha)]
  have h := runBatch_onward (v := s.clipDumped arr) hb hne (clipDumped_works s arr)
    (part := fun tag _ u => u.modWork tag fun w => w.withBuf ti.res (plainBuf 0 [(s.clipBytes arr).map (·.toNat)]))
    (mid := fun _ w => w.withBuf ti.res (plainBuf 0 [(s.clipBytes arr).map (·.toNat)]))
    ⟨fun _ _ => rfl, fun _ _ => rfl, fun _ _ _ h => h, fun _ _ _ hu _ hw =>
      ⟨hu, modWork_becomes (fun w => w.withBuf ti.res (plainBuf 0 [(s.clipBytes arr).map (·.toNat)])) hw⟩⟩
    (whole := fun _ s => (s.clipDumped arr, true)) rfl
  refine ⟨h.1, fun k => (h.2 k).trans ?_⟩
  rw [State.arr, clipDumped_arrays, State.arr]

end

/-- Settles O55: each of the three changes the one array as a whole, and then the programs move on. -/
theorem scaleBanksAndClipCounts : Obligations.ScaleBanksAndClipCounts := by
  intro s tags arr ti ha hne
  refine ⟨fun hb => ?_, fun w d hb hw hd => ?_, fun hb => ?_⟩
  · obtain ⟨t, hrun, hworks, harr⟩ := swapScales_onward ha hne hb
    have hswap : t.arr arr = (s.arr arr).swapped := (harr arr).trans (State.arr_modArr ..)
    refine ⟨t, hrun, ⟨hworks, fun k hk => (harr k).trans (State.arr_modArr_ne _ _ hk)⟩, by rw [hswap]; rfl, by rw [hswap]; rfl,
      by rw [hswap]; rfl, fun tj hbt => ?_⟩
    obtain ⟨u, hrun', -, harr'⟩ := swapScales_onward ha hne hbt
    refine ⟨u, hrun', (harr' arr).trans ?_⟩
    rw [State.arr_modArr, hswap, TArr.swapped_swapped]
  · obtain ⟨t, hrun, hworks, harr⟩ := loadScales_onward ha hne hb hw hd
    have hload : t.arr arr = (s.arr arr).loaded (scaleBank w.runImage d ti.n) ti.n := (harr arr).trans (State.arr_modArr ..)
    refine ⟨t, hrun, ⟨hworks, fun k hk => (harr k).trans (State.arr_modArr_ne _ _ hk)⟩, ?_⟩
    have hscales (j : Nat) (hj : j < 4096) (hn : ti.n + j < d.n) := mget_scaleBank w.runImage d hj hn
    rw [hload, TArr.loaded]
    cases (s.arr arr).useB <;> simpa using hscales
  · obtain ⟨t, hrun, hworks, harr⟩ := clipDump_onward ha hne hb
    refine ⟨t, hrun, ?_, length_clipBytes s arr, hworks, fun k hk => (harr k).trans (State.arr_modArr_ne _ _ hk)⟩
    rw [harr arr, State.arr_modArr]

end Sys2Proof.Machine
end

section
/-! KV_APPEND, ROPE_Q, ATTN_MAX, ATTN_PAGE, ATTN_COMBINE and TOKEN_CHOOSE (R213 to R215, R220, R222, R225). -/

namespace Sys2Proof.Machine
set_option Elab.async false

/-! ### What the rows of a pass read -/

section
variable {s u : State} (h : s.ReadsAs u)
include h

theorem State.ReadsAs.memberPort (n : Nat) : u.memberPort n = s.memberPort n := by
  simp only [State.memberPort, State.act, h.active]

variable {tag : Nat} (hw : u.workOf tag = s.workOf tag)
include hw

theorem State.ReadsAs.coveredRows (w : Work) (ti : TInstr) : u.coveredRows tag w ti = s.coveredRows tag w ti := by
  simp only [State.coveredRows, h.rowLimit hw, h.entriesOf hw]

theorem State.ReadsAs.queryRows (w : Work) (ti : TInstr) : u.queryRows tag w ti = s.queryRows tag w ti := by
  simp only [State.queryRows, h.rowLimit hw, h.entriesOf hw]

end

theorem modGen_readsAs (s : State) (tag : Nat) (f : GenWork → GenWork) : s.ReadsAs (s.modGen tag f) := modWork_readsAs ..

theorem sendHedge_readsAs (s : State) (port typ tag i : Nat) (b : Bytes) : s.ReadsAs (s.sendHedge port typ tag i b) := by
  constructor <;> simp [State.arr]

/-! ### Parts of a cache instruction -/

/-- The work of a request with an instruction's result. -/
def Work.withOut (w : Work) (id : Nat) (b : Buf) : Work := { w with bufs := mput w.bufs id b, lastOut := id }

section
variable {u v : State} {tag : Nat} {w : Work} {g : GenWork}

theorem setBuf_becomes (id : Nat) (b : Buf) (hv : v.ledger.works = u.ledger.works) (hw : u.workOf tag = some w) :
    u.WorkBecomes (v.setBuf tag id b) tag (w.withOut id b) :=
  have hsame := State.WorkBecomes.of_works hv hw
  hsame.trans (modWork_becomes (fun w => { w with bufs := mput w.bufs id b, lastOut := id }) hsame.1)

theorem modGen_becomes (f : GenWork → GenWork) (hw : u.workOf tag = some w) (hg : w.gen = some g) :
    u.WorkBecomes (u.modGen tag f) tag { w with gen := some (f g) } := by
  have h : u.WorkBecomes (u.modGen tag f) tag { w with gen := w.gen.map f } := modWork_becomes (fun w => { w with gen := w.gen.map f }) hw
  rwa [hg, Option.map_some] at h

/-- A generation's work is its own with its own state. -/
theorem Work.with_gen (h : w.gen = some g) : { w with gen := some g } = w := by rw [← h]

end

section
variable {s : State} {op : Nat} {ti : TInstr} {tags : List Nat} {arr : Nat} {f : Nat → Work → GenWork → State → State}

/-- The part of a cache instruction on a generation, from any state that reads as `s`: its work becomes `mid` of it. -/
def State.GenPart (s : State) (f : Nat → Work → GenWork → State → State) (mid : Nat → Work → GenWork → Work) : Prop :=
  ∀ u tag w g, s.ReadsAs u → u.workOf tag = s.workOf tag → u.workOf tag = some w → w.gen = some g →
    s.ReadsAs (f tag w g u) ∧ u.WorkBecomes (f tag w g u) tag (mid tag w g)

/-- The part of any request of the batch, and what it leaves of the request. -/
def partOf (f : Nat → Work → GenWork → State → State) (tag : Nat) (w : Work) (u : State) : State :=
  match w.gen with
  | some g => f tag w g u
  | none => u
def midOf (mid : Nat → Work → GenWork → Work) (tag : Nat) (w : Work) : Work :=
  match w.gen with
  | some g => mid tag w g
  | none => w

theorem genOp_eq (ha : arr < 64) : s.genOp op tags arr ti f = s.runBatch op ti tags noCheck (partOf f) := if_neg (Nat.not_le.mpr ha)

variable {mid : Nat → Work → GenWork → Work} (hprog : ∀ tag w g, (mid tag w g).prog = w.prog)
  (hgen : ∀ tag w g, w.gen = some g → (mid tag w g).gen.isSome = true) (hf : s.GenPart f mid)
include hprog hgen hf

theorem State.GenPart.partLeaves : s.PartLeaves s.ReadsAs (partOf f) (midOf mid) := by
  refine ⟨fun tag w => ?_, fun tag w => ?_, fun u tag f h => h.trans (modWork_readsAs ..), fun u tag w hu hs hw => ?_⟩
  · cases hg : w.gen with
    | none => simp only [midOf, hg]
    | some g => simp only [midOf, hg, hprog]
  · cases hg : w.gen with
    | none => simp only [midOf, hg]
    | some g => simp only [midOf, hg, hgen tag w g hg, Option.isSome_some]
  · cases hg : w.gen with
    | none => simpa only [partOf, midOf, hg] using ⟨hu, State.WorkBecomes.of_works rfl hw⟩
    | some g => simpa only [partOf, midOf, hg] using hf u tag w g hu (hw.trans hs.symm) hw hg

theorem genOp_leaves (ha : arr < 64) (hb : s.batchAt op ti tags) :
    (s.genOp op tags arr ti f).mem = s.mem ∧ ∀ tag w g, tag ∈ tags → s.workOf tag = some w → w.gen = some g →
      (s.genOp op tags arr ti f).workOf tag = some { mid tag w g with prog := w.prog.drop 1 } := by
  obtain ⟨hread, hworks⟩ := (State.GenPart.partLeaves hprog hgen hf).runBatch hb (whole := noCheck) rfl (fun _ => rfl) rfl (.refl s)
  rw [genOp_eq ha]
  refine ⟨hread.mem, fun tag w g ht hs hg => ?_⟩
  have hmid : midOf mid tag w = mid tag w g := by simp only [midOf, hg]
  rw [hworks tag w ht hs, hmid]

end

section
variable {s : State} {op : Nat} {ti : TInstr} {tags : List Nat} {arr : Nat} {f : Nat → Work → GenWork → State → State}

/-- A cache instruction that only writes a result, which depends on what instructions read alone. -/
theorem genOp_writes {out : Nat → Work → GenWork → Buf} (ha : arr < 64) (hb : s.batchAt op ti tags)
    (hf : ∀ u tag w g, s.ReadsAs u → u.workOf tag = s.workOf tag →
      ∃ v, f tag w g u = v.setBuf tag ti.res (out tag w g) ∧ u.ReadsAs v ∧ v.ledger = u.ledger) :
    (s.genOp op tags arr ti f).mem = s.mem ∧ ∀ tag w g, tag ∈ tags → s.workOf tag = some w → w.gen = some g →
      (s.genOp op tags arr ti f).workOf tag =
        some { w with bufs := mput w.bufs ti.res (out tag w g), lastOut := ti.res, prog := w.prog.drop 1 } := by
  refine genOp_leaves (mid := fun tag w g => w.withOut ti.res (out tag w g)) (fun _ _ _ => rfl)
    (fun _ _ _ hg => Option.isSome_of_eq_some hg) (fun u tag w g hu hs hw hg => ?_) ha hb
  obtain ⟨v, hv, hread, hled⟩ := hf u tag w g hu hs
  rw [hv]
  exact ⟨(hu.trans hread).trans (setBuf_readsAs ..), setBuf_becomes _ _ (congrArg LedgerSt.works hled) hw⟩

end

/-! ### KV_APPEND (R210, R211, R213, R215) -/

theorem mget_foldl_mput {α : Type} {key : Nat → Nat} (hinj : Function.Injective key) (val : Nat → α) {l : List Nat} {k : Nat} (hk : k ∈ l)
    (m : List (Nat × α)) : mget (l.foldl (fun m h => mput m (key h) (val h)) m) (key k) = some (val k) := by
  induction l using List.reverseRecOn with
  | nil => exact absurd hk List.not_mem_nil
  | append_singleton l a ih =>
    rw [List.foldl_append, List.foldl_cons, List.foldl_nil]
    obtain rfl | hne := eq_or_ne k a
    · exact mget_mput ..
    · obtain hl | ha := List.mem_append.mp hk
      · exact (mget_mput_ne _ fun e => hne (hinj e)).trans (ih hl)
      · exact absurd (List.mem_singleton.mp ha) hne

theorem nodeBuf_injective (draft : Bool) (layer : Nat) (key : Bool) : Function.Injective fun head => nodeBuf draft layer head key := by
  intro a b h
  simp only [nodeBuf] at h
  omega

/-- A row that the length table covers, with its values; and such a row with each head's values converted. -/
abbrev CovRow := (LenEntry × Nat) × List Nat
abbrev ConvRow := (LenEntry × Nat) × List (List Conv)

section
variable (w : Work) (g : GenWork) (ti : TInstr)

/-- A head's values of a row that are turned: a key's, but for a passage's own pass (R211, R213). -/
def Work.kvTurned (e : CovRow) (k : Nat) : List Nat :=
  let v := (e.2.drop (k * genHeadDim w.runImage)).take (genHeadDim w.runImage)
  if ti.func == 0 && !g.passg then rotate (genRopeBase w.runImage) (genHeadDim w.runImage) (LenEntry.rowPos g e.1) v else v

/-- The head as the cache keeps it, and a row with all its heads converted. -/
def Work.kvHead (e : CovRow) (k : Nat) : List Nat := toKv (genKvFmt w.runImage) (w.kvTurned g ti e k)
def Work.kvConv (e : CovRow) : ConvRow :=
  (e.1, (List.range (genKvHeads w.runImage)).map fun k => (convRow (genKvFmt w.runImage) (w.kvTurned g ti e k)).1)
def ConvRow.head (r : ConvRow) (k : Nat) : List Nat := (r.2.getD k []).map (·.1)

theorem kvConv_head (e : CovRow) {k : Nat} (hk : k < genKvHeads w.runImage) : ConvRow.head (w.kvConv g ti e) k = w.kvHead g ti e k := by
  simp [ConvRow.head, Work.kvConv, hk]
  rfl

/-- The pages with a row's heads appended, and with those of all rows but drafted ones; and the buffers with the heads of the drafted ones. -/
def Work.appendHeads (head : Nat → List Nat) (pos : Nat) (ps : List (KvPage × Nat)) : List (KvPage × Nat) :=
  (List.range (genKvHeads w.runImage)).foldl (fun ps k => appendKv (genHeadDim w.runImage) ti.n k pos (!g.passg) (ti.func == 0) (head k) ps) ps
def Work.kvPages (rows : List CovRow) : List (KvPage × Nat) :=
  (rows.filter fun e => e.1.1.kind != 2).foldl (fun ps e => w.appendHeads g ti (w.kvHead g ti e) (LenEntry.rowPos g e.1) ps)
    (g.pagesOf w.drafting)
def Work.withNodes (nodes : List CovRow) (x : Work) : Work :=
  { x with bufs := (List.range (genKvHeads w.runImage)).foldl (fun m k => mput m (nodeBuf x.drafting ti.n k (ti.func == 0))
    (plainBuf (genKvFmt w.runImage) (nodes.map fun e => w.kvHead g ti e k))) x.bufs }

/-- The drafted rows among those of a pass, and the work of a request whose rows have been appended. -/
def draftedRows (rows : List CovRow) : List CovRow := rows.filter fun e => e.1.1.kind == 2
def Work.appended (rows : List CovRow) : Work :=
  let x : Work := { w with gen := some (g.setPages w.drafting (w.kvPages g ti rows)) }
  if (draftedRows rows).isEmpty then x else w.withNodes g ti (draftedRows rows) x

end

section
variable {w : Work} {g : GenWork} {ti : TInstr}

theorem appendHeads_congr {head head' : Nat → List Nat} (h : ∀ k, k < genKvHeads w.runImage → head k = head' k) (pos : Nat)
    (ps : List (KvPage × Nat)) : w.appendHeads g ti head pos ps = w.appendHeads g ti head' pos ps :=
  List.foldl_ext _ _ _ fun ps k hk => by rw [h k (List.mem_range.mp hk)]

theorem kvPages_conv (rows : List CovRow) :
    ((rows.map (w.kvConv g ti)).filter fun r => r.1.1.kind != 2).foldl (fun ps r => w.appendHeads g ti (ConvRow.head r) (LenEntry.rowPos g r.1) ps)
      (g.pagesOf w.drafting) = w.kvPages g ti rows := by
  rw [List.filter_map, List.foldl_map]
  exact List.foldl_ext _ _ _ fun ps e _ => appendHeads_congr (fun k hk => kvConv_head w g ti e hk) _ ps

theorem draftedRows_conv (rows : List CovRow) :
    ((rows.map (w.kvConv g ti)).filter fun r => r.1.1.kind == 2) = (draftedRows rows).map (w.kvConv g ti) := List.filter_map

theorem withNodes_conv (nodes : List CovRow) (x : Work) :
    { x with bufs := (List.range (genKvHeads w.runImage)).foldl (fun m k => mput m (nodeBuf x.drafting ti.n k (ti.func == 0))
      (plainBuf (genKvFmt w.runImage) ((nodes.map (w.kvConv g ti)).map fun r => ConvRow.head r k))) x.bufs } = w.withNodes g ti nodes x := by
  refine congrArg (fun m => { x with bufs := m }) (List.foldl_ext _ _ _ fun m k hk => ?_)
  rw [List.map_map]
  exact congrArg (fun l => mput m _ (plainBuf _ l)) (List.map_congr_left fun e _ => kvConv_head w g ti e (List.mem_range.mp hk))

theorem appended_gen (rows : List CovRow) : (w.appended g ti rows).gen = some (g.setPages w.drafting (w.kvPages g ti rows)) := by
  rw [Work.appended]
  split <;> rfl

theorem appended_prog (rows : List CovRow) : (w.appended g ti rows).prog = w.prog := by
  rw [Work.appended]
  split <;> rfl

theorem appended_lastOut (rows : List CovRow) : (w.appended g ti rows).lastOut = w.lastOut := by
  rw [Work.appended]
  split <;> rfl

/-- No row is drafted, and no buffer changes; or the nodes' buffers take the drafted rows. -/
theorem appended_bufs_same {rows : List CovRow} (h : ∀ e ∈ rows, e.1.1.kind ≠ 2) : (w.appended g ti rows).bufs = w.bufs := by
  have hnone : draftedRows rows = [] := List.filter_eq_nil_iff.mpr fun e he => by simpa using h e he
  rw [Work.appended, hnone]
  rfl

theorem appended_bufs_node {rows : List CovRow} (h : ∃ e ∈ rows, e.1.1.kind = 2) {k : Nat} (hk : k < genKvHeads w.runImage) :
    mget (w.appended g ti rows).bufs (nodeBuf w.drafting ti.n k (ti.func == 0)) =
      some (plainBuf (genKvFmt w.runImage) ((draftedRows rows).map fun e => w.kvHead g ti e k)) := by
  have hsome : ¬ (draftedRows rows).isEmpty = true := by
    obtain ⟨e, he, h2⟩ := h
    rw [List.isEmpty_iff]
    exact List.ne_nil_of_mem (List.mem_filter.mpr ⟨he, by simpa using h2⟩)
  simp only [Work.appended, if_neg hsome]
  exact mget_foldl_mput (nodeBuf_injective w.drafting ti.n (ti.func == 0)) _ (List.mem_range.mpr hk) _

theorem kvHead_eq (e : CovRow) (k : Nat) : w.kvHead g ti e k =
    if ti.func = 0 ∧ g.passg = false then toKv (genKvFmt w.runImage) (rotate (genRopeBase w.runImage) (genHeadDim w.runImage)
      (LenEntry.rowPos g e.1) ((e.2.drop (k * genHeadDim w.runImage)).take (genHeadDim w.runImage)))
    else toKv (genKvFmt w.runImage) ((e.2.drop (k * genHeadDim w.runImage)).take (genHeadDim w.runImage)) := by
  have hturn : (ti.func == 0 && !g.passg) = true ↔ ti.func = 0 ∧ g.passg = false := by simp
  simp only [Work.kvHead, Work.kvTurned, hturn, apply_ite (toKv _)]

/-- KV_APPEND counts its conversions, appends to the pages, and puts the drafted rows into their buffers. -/
theorem kvAppend_eq (u : State) (tag arr : Nat) : ∃ fl, u.kvAppend tag arr ti w g =
    let s1 := (u.tally arr fl).modGen tag fun h => h.setPages w.drafting (w.kvPages g ti (u.coveredRows tag w ti))
    let nodes := draftedRows (u.coveredRows tag w ti)
    if nodes.isEmpty then s1 else s1.modWork tag (w.withNodes g ti nodes) := by
  have hrun : ∃ fl, u.kvAppend tag arr ti w g =
      let rows := (u.coveredRows tag w ti).map (w.kvConv g ti)
      let nodes := rows.filter fun r => r.1.1.kind == 2
      let s1 := (u.tally arr fl).modGen tag fun h => h.setPages w.drafting ((rows.filter fun r => r.1.1.kind != 2).foldl
        (fun ps r => w.appendHeads g ti (ConvRow.head r) (LenEntry.rowPos g r.1) ps) (g.pagesOf w.drafting))
      if nodes.isEmpty then s1
      else s1.modWork tag fun x => { x with bufs := (List.range (genKvHeads w.runImage)).foldl (fun m k =>
        mput m (nodeBuf x.drafting ti.n k (ti.func == 0)) (plainBuf (genKvFmt w.runImage) (nodes.map fun r => ConvRow.head r k))) x.bufs } :=
    ⟨_, rfl⟩
  obtain ⟨fl, hrun⟩ := hrun
  refine ⟨fl, hrun.trans ?_⟩
  simp only [kvPages_conv, draftedRows_conv, withNodes_conv, List.isEmpty_map]

theorem kvAppend_part (s : State) (arr : Nat) (ti : TInstr) :
    s.GenPart (fun tag w g u => u.kvAppend tag arr ti w g) fun tag w g => w.appended g ti (s.coveredRows tag w ti) := by
  intro u tag w g hu hs hw hg
  obtain ⟨fl, hrun⟩ := kvAppend_eq (w := w) (g := g) (ti := ti) u tag arr
  rw [hu.coveredRows hs] at hrun
  dsimp only at hrun ⊢
  generalize s.coveredRows tag w ti = rows at hrun ⊢
  have htally := State.WorkBecomes.of_works (v := u.tally arr fl) (congrArg LedgerSt.works (tally_ledger ..)) hw
  have hpages := htally.trans (modGen_becomes (fun h => h.setPages w.drafting (w.kvPages g ti rows)) htally.1 hg)
  have hread := (hu.trans (tally_readsAs u arr fl)).trans (modGen_readsAs _ tag fun h => h.setPages w.drafting (w.kvPages g ti rows))
  rw [hrun, Work.appended]
  split
  · exact ⟨hread, hpages⟩
  · exact ⟨hread.trans (modWork_readsAs ..), hpages.trans (modWork_becomes _ hpages.1)⟩

end

/-! ### ATTN_PAGE (R214, R225) -/

/-- A member of a spread is asked for its partials, where it has a port. -/
def State.askMember (msg : Nat × Nat → Bytes) (tag : Nat) (s : State) (m : Nat × Nat) : State :=
  if s.memberPort m.1 < 16 then
    (s.sendHedge (s.memberPort m.1) 11 tag 0 (msg m)).modGen tag fun g => { g with asked := setBit g.asked (s.memberPort m.1) }
  else s

/-- The ports asked so far, with those of all members of a spread that the pass asks. -/
def State.askedWith (s : State) (n : Nat) (m : Nat × Nat) : Nat := if s.memberPort m.1 < 16 then setBit n (s.memberPort m.1) else n
def State.askedBy (s : State) (w : Work) (g : GenWork) : Nat :=
  if g.base = 0 ∨ w.drafting then g.asked else g.members.zipIdx.foldl s.askedWith g.asked

section
variable {s u : State} {tag : Nat} {w : Work} {g : GenWork}

theorem askMember_asks {n : Nat} (msg : Nat × Nat → Bytes) (hu : s.ReadsAs u) (hw : u.workOf tag = some { w with gen := some { g with asked := n } })
    (m : Nat × Nat) : s.ReadsAs (u.askMember msg tag m) ∧
      u.WorkBecomes (u.askMember msg tag m) tag { w with gen := some { g with asked := s.askedWith n m } } := by
  rw [State.askMember, State.askedWith, hu.memberPort]
  split
  · refine ⟨(hu.trans (sendHedge_readsAs ..)).trans (modGen_readsAs ..), ?_⟩
    have hsent := State.WorkBecomes.of_works (v := u.sendHedge (s.memberPort m.1) 11 tag 0 (msg m)) (by rw [State.sendHedge_ledger]) hw
    exact hsent.trans (modGen_becomes (fun g => { g with asked := setBit g.asked (s.memberPort m.1) }) hsent.1 rfl)
  · exact ⟨hu, .of_works rfl hw⟩

theorem askMembers_ask {n : Nat} (msg : Nat × Nat → Bytes) (l : List (Nat × Nat)) (hu : s.ReadsAs u)
    (hw : u.workOf tag = some { w with gen := some { g with asked := n } }) : s.ReadsAs (l.foldl (State.askMember msg tag) u) ∧
      u.WorkBecomes (l.foldl (State.askMember msg tag) u) tag { w with gen := some { g with asked := l.foldl s.askedWith n } } := by
  induction l generalizing u n with
  | nil => exact ⟨hu, .of_works rfl hw⟩
  | cons m l ih =>
    obtain ⟨hread, hone⟩ := askMember_asks msg hu hw m
    obtain ⟨hend, hall⟩ := ih hread hone.1
    exact ⟨hend, hone.trans hall⟩

theorem askPartials_asks (layer : Nat) (w' : Work) (rows : List ((LenEntry × Nat) × List FV)) (hd : w'.drafting = w.drafting)
    (hu : s.ReadsAs u) (hw : u.workOf tag = some w) (hg : w.gen = some g) : s.ReadsAs (u.askPartials tag layer w' g rows) ∧
      u.WorkBecomes (u.askPartials tag layer w' g rows) tag { w with gen := some { g with asked := s.askedBy w g } } := by
  rw [← Work.with_gen hg] at hw
  rw [State.askPartials, State.askedBy, hd]
  split
  · exact ⟨hu, .of_works rfl hw⟩
  · exact askMembers_ask _ _ hu hw

theorem bit_setBit_of_bit {n i : Nat} (j : Nat) (h : bit n i = true) : bit (setBit n j) i = true := by
  rw [bit] at h
  rw [bit, setBit, Nat.testBit_or, h, Bool.true_or]

theorem askedBy_same (h : g.base = 0 ∨ w.drafting = true ∨ g.members = []) : s.askedBy w g = g.asked := by
  obtain h | h | h := h <;> simp [State.askedBy, h]

/-- The pass asks every member that has a port. -/
theorem bit_askedBy (hb : g.base ≠ 0) (hd : w.drafting = false) {m : Nat} (hm : m ∈ g.members) (hp : s.memberPort m < 16) :
    bit (s.askedBy w g) (s.memberPort m) = true := by
  obtain ⟨i, hi⟩ : ∃ i, (m, i) ∈ g.members.zipIdx := by
    obtain ⟨i, hlt, rfl⟩ := List.mem_iff_getElem.mp hm
    exact ⟨i, by simp [List.mem_zipIdx_iff_getElem?, hlt]⟩
  rw [State.askedBy, if_neg (by simp [hb, hd])]
  refine foldl_reaches (P := fun n => bit n (s.memberPort m) = true) (Q := fun _ => True) hi (fun n _ => ?_) (fun _ _ _ h => .inl h)
    (fun n x h => ?_) trivial
  · rw [State.askedWith, if_pos hp]
    exact bit_setBit ..
  · rw [State.askedWith]
    split
    · exact bit_setBit_of_bit _ h
    · exact h

end

/-! ### TOKEN_CHOOSE (R222) -/

section
variable (w : Work) (g : GenWork) (ti : TInstr) (rows : List CovRow)

/-- The tokens that FUNC 0 and 1 choose of a pass's rows, and the choice that they give a generation. -/
def GenWork.tokens : List Nat :=
  rows.map fun r => if ti.func = 0 then greedy r.2 else seeded (gTemp g.hdr) (gSeed g.hdr)
    (if g.stage < 2 then g.base + g.spliced + g.prompt.length else LenEntry.rowPos g r.1 + 1) r.2
def GenWork.choose (ts : List Nat) : GenWork :=
  { g with choice := if g.stage < 2 then ts.getLast?.toList else if g.next.isSome then ts else g.choice.take 1 ++ ts }

/-- The nodes that a draft knows after FUNC 2. -/
def GenWork.drafted : List Nat :=
  if g.stage < 2 then draftNodes g.hdr [] true ((rows.getLast?.map (·.2)).toList)
  else draftNodes g.hdr g.drafts g.next.isSome (rows.map (·.2))

/-- A buffer of tokens, one to a row. -/
def tokenBuf (ts : List Nat) : Buf := plainBuf 16 (ts.map fun n => [n])

/-- The work of a request whose tokens are chosen. -/
def Work.tokensChosen : Work :=
  if ti.func = 2 then { w.withOut ti.res (tokenBuf (g.drafted rows)) with
    gen := some (if w.drafting then { g with drafts := g.drafted rows } else g) }
  else { w.withOut ti.res (tokenBuf (g.tokens ti rows)) with
    gen := some (if w.drafting ∨ ti.func ≠ gDecode g.hdr then g else g.choose (g.tokens ti rows)) }

end

section
variable {u : State} {tag : Nat} {w : Work} {g : GenWork}

theorem tokenChoose_eq (u : State) (tag : Nat) (ti : TInstr) (w : Work) (g : GenWork) : u.tokenChoose tag ti w g =
    let rows := u.coveredRows tag w ti
    if ti.func = 2 then
      if w.drafting then (u.setBuf tag ti.res (tokenBuf (g.drafted rows))).modGen tag fun h => { h with drafts := g.drafted rows }
      else u.setBuf tag ti.res (tokenBuf (g.drafted rows))
    else if w.drafting ∨ ti.func ≠ gDecode g.hdr then u.setBuf tag ti.res (tokenBuf (g.tokens ti rows))
    else (u.setBuf tag ti.res (tokenBuf (g.tokens ti rows))).modGen tag fun h => h.choose (g.tokens ti rows) := rfl

/-- A result, and a result with a change of the generation. -/
theorem setBuf_leaves (id : Nat) (b : Buf) (hw : u.workOf tag = some w) (hg : w.gen = some g) :
    u.ReadsAs (u.setBuf tag id b) ∧ u.WorkBecomes (u.setBuf tag id b) tag { w.withOut id b with gen := some g } := by
  have hset := setBuf_becomes (v := u) id b rfl hw
  rw [show { w.withOut id b with gen := some g } = w.withOut id b from Work.with_gen hg]
  exact ⟨setBuf_readsAs .., hset⟩

theorem setBuf_modGen (id : Nat) (b : Buf) (f : GenWork → GenWork) (hw : u.workOf tag = some w) (hg : w.gen = some g) :
    u.ReadsAs ((u.setBuf tag id b).modGen tag f) ∧
      u.WorkBecomes ((u.setBuf tag id b).modGen tag f) tag { w.withOut id b with gen := some (f g) } := by
  have hset := setBuf_becomes (v := u) id b rfl hw
  exact ⟨(setBuf_readsAs ..).trans (modGen_readsAs ..), hset.trans (modGen_becomes f hset.1 hg)⟩

theorem tokenChoose_part (s : State) (ti : TInstr) :
    s.GenPart (fun tag w g u => u.tokenChoose tag ti w g) fun tag w g => w.tokensChosen g ti (s.coveredRows tag w ti) := by
  intro u tag w g hu hs hw hg
  have hread {v : State} {x : Work} (h : u.ReadsAs v ∧ u.WorkBecomes v tag x) := And.imp_left hu.trans h
  simp only [tokenChoose_eq, Work.tokensChosen, hu.coveredRows hs]
  split
  · split
    · exact hread (setBuf_modGen _ _ _ hw hg)
    · exact hread (setBuf_leaves _ _ hw hg)
  · split
    · exact hread (setBuf_leaves _ _ hw hg)
    · exact hread (setBuf_modGen _ _ _ hw hg)

end

/-! ### The instructions -/

section
variable {s : State} {tags : List Nat} {arr : Nat} {ti : TInstr} (ha : arr < 64)
include ha

theorem kvAppend_appends (hb : s.batchAt 0x40 ti tags) : ∃ t, exec (.kvAppend tags arr ti) s = .next t ∧ t.mem = s.mem ∧
    ∀ tag w g, tag ∈ tags → s.workOf tag = some w → w.gen = some g →
      t.workOf tag = some { w.appended g ti (s.coveredRows tag w ti) with prog := w.prog.drop 1 } :=
  ⟨_, rfl, genOp_leaves (fun _ _ _ => appended_prog _) (fun _ _ _ _ => Option.isSome_of_eq_some (appended_gen _)) (kvAppend_part s arr ti) ha hb⟩

/-- A row of query heads, rotated and converted (R213). -/
def Work.ropeRow (w : Work) (g : GenWork) (e : CovRow) : List Conv :=
  (groupsOf (genHeadDim w.runImage) e.2).flatMap fun v =>
    (convRow (genKvFmt w.runImage) (rotate (genRopeBase w.runImage) (genHeadDim w.runImage) (LenEntry.rowPos g e.1) v)).1

theorem ropeQ_writes (hb : s.batchAt 0x41 ti tags) : ∃ t, exec (.ropeQ tags arr ti) s = .next t ∧ t.mem = s.mem ∧
    ∀ tag w g, tag ∈ tags → s.workOf tag = some w → w.gen = some g → t.workOf tag = some { w with
      bufs := mput w.bufs ti.res (plainBuf (genKvFmt w.runImage) ((s.coveredRows tag w ti).map fun e =>
        (groupsOf (genHeadDim w.runImage) e.2).flatMap fun v =>
          toKv (genKvFmt w.runImage) (rotate (genRopeBase w.runImage) (genHeadDim w.runImage) (LenEntry.rowPos g e.1) v)))
      lastOut := ti.res, prog := w.prog.drop 1 } := by
  refine ⟨_, rfl, genOp_writes ha hb fun u tag w g hu hs => ?_⟩
  have hrows : ((u.coveredRows tag w ti).map (w.ropeRow g)).map (fun r => r.map (·.1)) = (s.coveredRows tag w ti).map fun e =>
      (groupsOf (genHeadDim w.runImage) e.2).flatMap fun v =>
        toKv (genKvFmt w.runImage) (rotate (genRopeBase w.runImage) (genHeadDim w.runImage) (LenEntry.rowPos g e.1) v) := by
    rw [hu.coveredRows hs, List.map_map]
    exact List.map_congr_left fun e _ => List.map_flatMap
  exact ⟨_, congrArg (fun rows => State.setBuf _ tag ti.res (plainBuf (genKvFmt w.runImage) rows)) hrows, tally_readsAs .., tally_ledger ..⟩

theorem attnMax_writes (hb : s.batchAt 0x42 ti tags) : ∃ t, exec (.attnMax tags arr ti) s = .next t ∧ t.mem = s.mem ∧
    ∀ tag w g, tag ∈ tags → s.workOf tag = some w → w.gen = some g → t.workOf tag = some { w with
      bufs := mput w.bufs ti.res (plainBuf 9 ((s.queryRows tag w ti).map fun r => w.perHead g ti.n r.1 r.2 fun _ sc => [maxScore sc]))
      lastOut := ti.res, prog := w.prog.drop 1 } := by
  refine ⟨_, rfl, genOp_writes ha hb fun u tag w g hu hs => ?_⟩
  exact ⟨u, by rw [hu.queryRows hs], .refl u, rfl⟩

theorem attnCombine_writes (hb : s.batchAt 0x44 ti tags) : ∃ t, exec (.attnCombine tags arr ti) s = .next t ∧ t.mem = s.mem ∧
    ∀ tag w g, tag ∈ tags → s.workOf tag = some w → w.gen = some g → t.workOf tag = some { w with
      bufs := mput w.bufs ti.res (convRows ti.outFmt ((s.coveredRows tag w ti).map fun r =>
        (groupsOf (r.2.length / max (genHeads w.runImage) 1) r.2).flatMap fun h =>
          combine (genHeadDim w.runImage) (groupsOf (genHeadDim w.runImage + 1) h))).1
      lastOut := ti.res, prog := w.prog.drop 1 } := by
  refine ⟨_, rfl, genOp_writes ha hb fun u tag w g hu hs => ?_⟩
  exact ⟨_, by rw [hu.coveredRows hs], tally_readsAs .., tally_ledger ..⟩

/-- The partials of a row's pages, head by head. -/
def State.partials (s : State) (tag : Nat) (w : Work) (g : GenWork) (ti : TInstr) : Buf :=
  plainBuf 9 ((s.queryRows tag w ti).map fun r =>
    w.perHead g ti.n r.1 r.2 fun pages sc => (pages.zip sc).flatMap fun x => pagePartial (maxScore sc) (genHeadDim w.runImage) x.1 x.2)

theorem attnPage_writes (hb : s.batchAt 0x43 ti tags) : ∃ t, exec (.attnPage tags arr ti) s = .next t ∧ t.mem = s.mem ∧
    ∀ tag w g, tag ∈ tags → s.workOf tag = some w → w.gen = some g → t.workOf tag = some ({ w with
      bufs := mput w.bufs ti.res (s.partials tag w g ti), lastOut := ti.res, prog := w.prog.drop 1
      gen := some { g with asked := s.askedBy w g } } : Work) := by
  refine ⟨_, rfl, genOp_leaves (mid := fun tag w g =>
    { w.withOut ti.res (s.partials tag w g ti) with gen := some { g with asked := s.askedBy w g } })
    (fun _ _ _ => rfl) (fun _ _ _ _ => rfl) (fun u tag w g hu hs hw hg => ?_) ha hb⟩
  have hread (fl : Flags) : s.ReadsAs ((u.tally arr fl).setBuf tag ti.res (s.partials tag w g ti)) :=
    (hu.trans (tally_readsAs ..)).trans (setBuf_readsAs ..)
  have hset (fl : Flags) := setBuf_becomes (v := u.tally arr fl) ti.res (s.partials tag w g ti) (congrArg LedgerSt.works (tally_ledger ..)) hw
  obtain ⟨hend, hask⟩ := askPartials_asks (w := w.withOut ti.res (s.partials tag w g ti)) ti.n w (s.queryRows tag w ti)
    rfl (hread _) (hset _).1 hg
  dsimp only
  rw [hu.queryRows hs]
  exact ⟨hend, (hset _).trans hask⟩

theorem tokenChoose_chooses (hb : s.batchAt 0x46 ti tags) (hf : ti.func ≤ 2) : ∃ t, exec (.tokenChoose tags arr ti) s = .next t ∧ t.mem = s.mem ∧
    ∀ tag w g, tag ∈ tags → s.workOf tag = some w → w.gen = some g →
      t.workOf tag = some { w.tokensChosen g ti (s.coveredRows tag w ti) with prog := w.prog.drop 1 } := by
  refine ⟨_, rfl, ?_⟩
  rw [if_neg (Nat.not_lt.mpr hf)]
  refine genOp_leaves (fun tag w g => ?_) (fun tag w g _ => ?_) (tokenChoose_part s ti) ha hb
  · simp only [Work.tokensChosen]; split <;> rfl
  · simp only [Work.tokensChosen]; split <;> rfl

end

theorem tokensChosen_of_ne {w : Work} {g : GenWork} {ti : TInstr} (h : ti.func ≠ 2) (rows : List CovRow) : w.tokensChosen g ti rows =
    { w.withOut ti.res (tokenBuf (g.tokens ti rows)) with
      gen := some (if w.drafting ∨ ti.func ≠ gDecode g.hdr then g else g.choose (g.tokens ti rows)) } := if_neg h

/-- Settles O57, instruction by instruction. -/
theorem attentionInstructionsComplete : Obligations.AttentionInstructionsComplete := by
  intro s tags arr ti ha
  refine ⟨fun hb _ => ?_, ropeQ_writes ha, attnMax_writes ha, fun hb => ?_, attnCombine_writes ha, fun hb hf => ?_, fun hb hf => ?_⟩
  · obtain ⟨t, hrun, hmem, hworks⟩ := kvAppend_appends ha hb
    refine ⟨t, hrun, hmem, fun tag w g ht hs hg => ?_⟩
    simp only [← kvHead_eq]
    exact ⟨_, hworks tag w g ht hs hg, appended_gen _, rfl, appended_lastOut _, fun h => appended_bufs_same h,
      fun k hk h => appended_bufs_node h hk⟩
  · obtain ⟨t, hrun, hmem, hworks⟩ := attnPage_writes ha hb
    refine ⟨t, hrun, hmem, fun tag w g ht hs hg => ⟨s.askedBy w g, hworks tag w g ht hs hg, askedBy_same,
      fun hbase hd m hm hp => bit_askedBy hbase hd hm hp⟩⟩
  · obtain ⟨t, hrun, hmem, hworks⟩ := tokenChoose_chooses ha hb (by omega)
    refine ⟨t, hrun, hmem, fun tag w g ht hs hg => ?_⟩
    have hx := hworks tag w g ht hs hg
    rw [tokensChosen_of_ne (by omega)] at hx
    refine ⟨_, _, hx, rfl, mget_mput .., rfl, rfl, ?_, ?_, fun hd hd' => ?_, fun h => if_pos h⟩
    · split <;> rfl
    · split <;> rfl
    · rw [if_neg (by simp [hd, hd'])]
      rfl
  · obtain ⟨t, hrun, hmem, hworks⟩ := tokenChoose_chooses ha hb hf.le
    refine ⟨t, hrun, hmem, fun tag w g ht hs hg => ?_⟩
    have hx := hworks tag w g ht hs hg
    rw [Work.tokensChosen, if_pos hf] at hx
    exact hx

end Sys2Proof.Machine
end

section
/-! EMB_GATHER, EMB_ROWS, GRADIENT_BATCH, RUNNING_SUMS, TRAIN_STEP_APPLY, TRAIN_WAIT_EXPIRY and EMB_SHARD_COPY (R194 to R204, R237). -/

namespace Sys2Proof.Machine
set_option Elab.async false

/-! ### What counting changes -/

theorem countShards_eq (s : State) (ps : List (Nat × Nat × Nat)) : s.countShards ps = { s with embs := (s.countShards ps).embs } := by
  unfold State.countShards
  exact List.foldlRecOn (motive := fun u : State => u = { s with embs := u.embs }) ps _ rfl fun u hu _ _ => by rw [hu]; rfl

theorem readRows_eq (s : State) (ps : List (Nat × Nat)) : s.readRows ps = { s with tier := (s.readRows ps).tier } := by
  unfold State.readRows
  refine List.foldlRecOn (motive := fun u : State => u = { s with tier := u.tier }) ps _ rfl fun u hu p _ => ?_
  rw [hu]
  dsimp only
  split
  · split <;> rfl
  · rfl

/-- Positions counted against their shards, and their rows read. -/
def State.counted (s : State) (ps : List (Nat × Nat × Nat)) (qs : List (Nat × Nat)) : State := (s.countShards ps).readRows qs

theorem counted_eq (s : State) (ps : List (Nat × Nat × Nat)) (qs : List (Nat × Nat)) :
    s.counted ps qs = { s with embs := (s.countShards ps).embs, tier := (s.counted ps qs).tier } := by
  rw [State.counted, readRows_eq, countShards_eq s ps]

/-! ### Lookups (R198) -/

/-- All that a lookup reads, the requests' own work aside, is in `u` as it is in `s`: tables may differ in their counts alone. -/
structure State.LooksUpAs (s u : State) : Prop where
  mem : u.mem = s.mem
  active : u.dict.active = s.dict.active
  fars : u.ledger.fars = s.ledger.fars
  stubs : u.ledger.stubs = s.ledger.stubs
  lens : u.ledger.lens = s.ledger.lens
  embs : ∀ t, ∃ c, mget u.embs t = (mget s.embs t).map fun e => { e with counts := c }

theorem sameTables (s : State) (t : Nat) : ∃ c, mget s.embs t = (mget s.embs t).map fun e => { e with counts := c } := by
  cases mget s.embs t with
  | none => exact ⟨[], rfl⟩
  | some e => exact ⟨e.counts, rfl⟩

theorem State.LooksUpAs.refl (s : State) : s.LooksUpAs s := ⟨rfl, rfl, rfl, rfl, rfl, sameTables s⟩

theorem State.LooksUpAs.trans {s u v : State} (h : s.LooksUpAs u) (k : u.LooksUpAs v) : s.LooksUpAs v where
  mem := k.mem.trans h.mem
  active := k.active.trans h.active
  fars := k.fars.trans h.fars
  stubs := k.stubs.trans h.stubs
  lens := k.lens.trans h.lens
  embs t := by
    obtain ⟨c, hc⟩ := h.embs t
    obtain ⟨d, hd⟩ := k.embs t
    exact ⟨d, by rw [hd, hc, Option.map_map]; rfl⟩

theorem modWork_looksUpAs (s : State) (tag : Nat) (f : Work → Work) : s.LooksUpAs (s.modWork tag f) :=
  ⟨rfl, rfl, rfl, rfl, rfl, sameTables s⟩

/-- A change of a table's counts. -/
theorem countShard_looksUpAs (s : State) (k : Nat) (f : EmbTab → EmbTab) (hf : ∀ e, ∃ c, f e = { e with counts := c }) :
    s.LooksUpAs (s.modEmb k f) := by
  refine ⟨rfl, rfl, rfl, rfl, rfl, fun t => ?_⟩
  have hget : mget (s.modEmb k f).embs t = (mget s.embs t).map (if t = k then f else id) := mget_mmod ..
  cases he : mget s.embs t with
  | none => exact ⟨[], by rw [hget, he]; rfl⟩
  | some e =>
    rw [hget, he]
    split
    · obtain ⟨c, hc⟩ := hf e
      exact ⟨c, congrArg some hc⟩
    · exact ⟨e.counts, rfl⟩

theorem countShards_looksUpAs (s : State) (ps : List (Nat × Nat × Nat)) : s.LooksUpAs (s.countShards ps) :=
  List.foldlRecOn (motive := s.LooksUpAs) ps _ (.refl s) fun u hu p _ => hu.trans (countShard_looksUpAs _ _ _ fun e => by
    split
    · exact ⟨_, rfl⟩
    · exact ⟨e.counts, rfl⟩)

theorem counted_looksUpAs (s : State) (ps : List (Nat × Nat × Nat)) (qs : List (Nat × Nat)) : s.LooksUpAs (s.counted ps qs) := by
  have h := countShards_looksUpAs s ps
  rw [State.counted, readRows_eq]
  exact ⟨h.mem, h.active, h.fars, h.stubs, h.lens, h.embs⟩

section
variable {s u : State} (h : s.LooksUpAs u)
include h

theorem State.LooksUpAs.rowsFor (img : Bytes) (t : Nat) : u.rowsFor img t = s.rowsFor img t := by
  obtain ⟨c, hc⟩ := h.embs t
  simp only [State.rowsFor, hc]
  cases mget s.embs t <;> rfl

theorem State.LooksUpAs.posValue (w : Work) (p : Nat × Nat) : u.posValue w p = s.posValue w p := by
  obtain ⟨c, hc⟩ := h.embs p.1
  simp only [State.posValue, hc, State.ownRow, State.ownNode, State.shardOwner, State.act, h.active]
  cases mget s.embs p.1 <;> rfl

theorem State.LooksUpAs.rowLimit {tag : Nat} (hw : u.workOf tag = s.workOf tag) (ti : TInstr) : u.rowLimit tag ti = s.rowLimit tag ti := by
  simp only [State.rowLimit, State.entriesOf, State.farOf, State.stubOf, hw, h.fars, h.stubs, h.lens]

end

/-- The positions of a request's gather, and the result of one whose rows are all there. -/
def State.gatherOf (s : State) (ti : TInstr) (tag : Nat) (w : Work) : List (Nat × Nat) :=
  gatherPositions ((w.bufOf ti.opA 16 ti.m 1).rowsUpTo (s.rowLimit tag ti)) ti.opB
def State.gathered (s : State) (ti : TInstr) (tag : Nat) (w : Work) : Buf :=
  let vals := (s.gatherOf ti tag w).map fun p => (p.1, (s.posValue w p).getD [])
  plainBuf 9 (if ti.func = 1 then (bagsOf vals).map (poolRows 3) else vals.map (·.2))

/-- A position names a row of a table in service, whose value is there. -/
def State.rowThere (s : State) (w : Work) (p : Nat × Nat) : Prop :=
  ∃ e, mget s.embs p.1 = some e ∧ e.state = 2 ∧ p.2 < s.rowsFor w.runImage p.1 ∧ (s.posValue w p).isSome = true

section
variable {s u : State} {tag : Nat} {w : Work} {ti : TInstr}

theorem State.LooksUpAs.rowThere (h : s.LooksUpAs u) {p : Nat × Nat} (hp : s.rowThere w p) : u.rowThere w p := by
  obtain ⟨e, he, hst, hlt, hval⟩ := hp
  obtain ⟨c, hc⟩ := h.embs p.1
  rw [he] at hc
  exact ⟨_, hc, hst, by rwa [h.rowsFor], by rwa [h.posValue]⟩

theorem State.LooksUpAs.gatherOf (h : s.LooksUpAs u) (hw : u.workOf tag = s.workOf tag) : u.gatherOf ti tag w = s.gatherOf ti tag w := by
  rw [State.gatherOf, h.rowLimit hw]
  rfl

theorem State.LooksUpAs.gathered (h : s.LooksUpAs u) (hw : u.workOf tag = s.workOf tag) : u.gathered ti tag w = s.gathered ti tag w := by
  simp only [State.gathered, h.gatherOf hw, h.posValue]

/-- A gather whose rows are all there writes them, and the program moves on. -/
theorem gatherRun_there (hall : ∀ p ∈ s.gatherOf ti tag w, s.rowThere w p) (home : Nat) : ∃ ps qs, s.gatherRun tag home w ti true =
    (((s.counted ps qs).setBuf tag ti.res (s.gathered ti tag w)).modWork tag fun w => { w with gather := none }).stepProg tag := by
  have hbad : s.badLookup w.runImage (s.gatherOf ti tag w) = none := by
    rw [State.badLookup, List.findIdx?_eq_none_iff.mpr fun p hp => ?_]
    · rfl
    · obtain ⟨e, -, -, hlt, -⟩ := hall p hp
      exact decide_eq_false (Nat.not_le.mpr hlt)
  have hgone : ((s.gatherOf ti tag w).any fun p => ((mget s.embs p.1).map fun e => e.state != 2).getD false) = false :=
    List.any_eq_false.mpr fun p hp => by
      obtain ⟨e, he, hst, -⟩ := hall p hp
      simp [he, hst]
  have hmiss : (s.gatherOf ti tag w).filter (fun p => (s.posValue w p).isNone) = [] :=
    List.filter_eq_nil_iff.mpr fun p hp => by
      obtain ⟨e, -, -, -, hval⟩ := hall p hp
      simp [Option.isSome_iff_ne_none.mp hval]
  rw [State.gatherOf] at hbad hgone hmiss
  simp only [State.gatherRun, hbad, hgone, hmiss]
  exact ⟨_, _, rfl⟩

end

/-! ### EMB_GATHER (R198) -/

/-- A request that waits for no row is one that no longer does. -/
theorem Work.with_gather {w : Work} (h : w.gather = none) : { w with gather := none } = w := by rw [← h]

/-- A request's part of a gather, by what the batch gathers in `s`. -/
def State.gatherPart (s : State) (ti : TInstr) (tags : List Nat) (u : State) (tag : Nat) : State :=
  match u.workOf tag with
  | some w => if s.gatherOver ti tags w.plot then u.refuseGather tag else u.gatherRun tag w.plot w ti true
  | none => u

section
variable {s : State} {tags : List Nat} {ti : TInstr}

/-- A request whose rows are all there, in a batch that gathers no more than a plot takes, gets them and moves on. -/
theorem gatherPart_moves {u : State} {tag : Nat} {w : Work} (hu : s.LooksUpAs u) (hs : s.workOf tag = some w) (hw : u.workOf tag = some w)
    (hgo : w.goesOn) (hnone : w.gather = none) (hover : s.gatherOver ti tags w.plot = false)
    (hthere : ∀ p ∈ s.gatherOf ti tag w, s.rowThere w p) : s.LooksUpAs (s.gatherPart ti tags u tag) ∧
      u.WorkBecomes (s.gatherPart ti tags u tag) tag { w.withOut ti.res (s.gathered ti tag w) with prog := w.prog.drop 1 } := by
  have hsame : u.workOf tag = s.workOf tag := hw.trans hs.symm
  have hthere' : ∀ p ∈ u.gatherOf ti tag w, u.rowThere w p := fun p hp => hu.rowThere (hthere p (hu.gatherOf hsame ▸ hp))
  obtain ⟨ps, qs, hrun⟩ := gatherRun_there hthere' w.plot
  rw [hu.gathered hsame] at hrun
  have hset := setBuf_becomes (v := u.counted ps qs) ti.res (s.gathered ti tag w) (by rw [counted_eq]) hw
  have hclear := hset.trans (modWork_becomes (fun w => { w with gather := none }) hset.1)
  have hidle : { w.withOut ti.res (s.gathered ti tag w) with gather := none } = w.withOut ti.res (s.gathered ti tag w) :=
    Work.with_gather hnone
  rw [hidle] at hclear
  simp only [State.gatherPart, hw, hover, Bool.false_eq_true, if_false, hrun]
  rw [stepProg_eq hclear.1 (hgo.of_same rfl rfl)]
  exact ⟨((hu.trans (counted_looksUpAs ..)).trans (modWork_looksUpAs ..)).trans ((modWork_looksUpAs ..).trans (modWork_looksUpAs ..)),
    hclear.trans (modWork_becomes (fun x => { x with prog := w.prog.drop 1 }) hclear.1)⟩

variable (hb : s.batchAt 0x20 ti tags) (hf : ti.func ≤ 1)
include hb hf

theorem embGather_runs : exec (.embGather tags ti) s = .next (tags.foldl (s.gatherPart ti tags) s) := by
  simp only [exec, execEmbGather, if_neg (Nat.not_lt.mpr hf), hb.standing, hb.startPass, hb.batch]
  rfl

theorem embGather_moves (hall : ∀ tag ∈ tags, ∀ w, s.workOf tag = some w →
      s.gatherOver ti tags w.plot = false ∧ ∀ p ∈ s.gatherOf ti tag w, s.rowThere w p) :
    ∃ t, exec (.embGather tags ti) s = .next t ∧ s.movesOn t ti tags (s.gathered ti) := by
  obtain ⟨hread, hin, hout⟩ := foldl_works (s := s) (R := s.LooksUpAs) (f := s.gatherPart ti tags) (u := s)
    (next := fun tag w => { w.withOut ti.res (s.gathered ti tag w) with prog := w.prog.drop 1 })
    (fun u tag w hu ht hs hw => by
      obtain ⟨x, hat⟩ := hb.atProg ht
      obtain rfl : w = x := Option.some.inj (hs.symm.trans hat.workOf)
      obtain ⟨hover, hthere⟩ := hall tag ht w hs
      exact gatherPart_moves hu hs hw hat.goesOn hat.2.1 hover hthere)
    hb.1 (.refl s) fun tag ht => by
      obtain ⟨w, hat⟩ := hb.atProg ht
      exact ⟨w, hat.workOf, hat.workOf⟩
  exact ⟨_, embGather_runs hb hf, hin, hout, hread.mem⟩

theorem embGather_refuses {tag : Nat} {w : Work} (ht : tags = [tag]) (hw : s.workOf tag = some w)
    (hover : s.gatherOver ti tags w.plot = true) : exec (.embGather tags ti) s = .next (s.refuseGather tag) := by
  rw [embGather_runs hb hf]
  subst ht
  simp only [List.foldl_cons, List.foldl_nil, State.gatherPart, hw, hover, if_true]

end

/-! ### EMB_ROWS (R198) -/

theorem hedgeParts_ne_nil (typ : Nat) (b : Bytes) : hedgeParts typ b ≠ [] := by
  rw [hedgeParts]
  split <;> simp

theorem foldl_emit_tx (port cls : Nat) (msg : Bytes → OutMsg) (bs : List Bytes) (s : State) :
    (bs.foldl (fun s b => s.emit port cls (msg b)) s).tx =
      s.tx ++ bs.map fun b => ⟨port, cls, msg b, s.step.number, 0, (msg b).hdr cls⟩ := by
  induction bs generalizing s with
  | nil => simp
  | cons b bs ih =>
    rw [List.foldl_cons, ih, List.map_cons]
    simp [State.emit]

/-- A message to a port that is up leaves on it. -/
theorem sendHedge_sends {s : State} {port : Nat} (h : s.hedgeUp port = true) (typ tag i : Nat) (b : Bytes) :
    ∃ l, l ≠ [] ∧ (s.sendHedge port typ tag i b).tx = s.tx ++ l ∧ ∀ m ∈ l, m.port = port := by
  rw [State.sendHedge, if_pos h]
  refine ⟨_, ?_, foldl_emit_tx .., fun m hm => ?_⟩
  · simpa using hedgeParts_ne_nil typ b
  · obtain ⟨p, -, rfl⟩ := List.mem_map.mp hm
    rfl

section
variable {s : State} {port tag : Nat} {b : Bytes} {e : EmbTab} (he : mget s.embs (u16 b 2) = some e)
include he

theorem embRows_answers (hk : u8 b 0 = 0) : ∃ ps qs body, exec (.embRows port tag b) s =
    .next ((s.counted ps qs).sendHedge port 8 tag (u16 b 2) body) := by
  simp only [exec, execEmbRows, he, hk]
  exact ⟨_, _, _, rfl⟩

theorem embRows_takes (hk : u8 b 0 ≠ 0) {w : Work} (hw : s.workOf tag = some w) (hg : w.gather = none) :
    ∃ t x, exec (.embRows port tag b) s = .next t ∧ t.workOf tag = some x ∧ { x with fetched := w.fetched } = w := by
  have hx (f : Work → Work) : (s.modWork tag f).workOf tag = some (f w) := State.workOf_modWork f hw
  have hfar (f : Work → Work) : (s.modWork tag f).farOf tag = s.farOf tag := rfl
  simp only [exec, execEmbRows, he, if_neg hk, hfar, hx, hg]
  cases s.farOf tag <;> exact ⟨_, _, rfl, hx _, rfl⟩

end

/-! ### GRADIENT_BATCH (R199) -/

theorem emb_modEmb_ne (s : State) {k i : Nat} (f : EmbTab → EmbTab) (h : i ≠ k) : mget (s.modEmb k f).embs i = mget s.embs i :=
  mget_mmod_ne _ f h

theorem gradientBatch_joins {s : State} {port : Nat} {b : Bytes} {e : EmbTab} (he : mget s.embs (u16 b 0) = some e) (hs : embSharded e.desc = true)
    (hp : s.partOpen e.part = true)
    (hok : s.gradFail (b.take 32) (gradEntries (embWidth e.desc) (u32 (b.take 32) 4) (b.drop 32)) = none) :
    exec (.gradientBatch port b) s = .next (s.modEmb (u16 b 0) fun x => { x with batches := x.batches ++
      [⟨u64 b 8, u8 b 3, gradEntries (embWidth e.desc) (u32 (b.take 32) 4) (b.drop 32), s.step.number⟩] }) := by
  have htab : u16 (b.take 32) 0 = u16 b 0 := congrArg leNat (sl_take b (by omega))
  have htrain : u64 (b.take 32) 8 = u64 b 8 := congrArg leNat (sl_take b (by omega))
  have hsource : u8 (b.take 32) 3 = u8 b 3 := congrArg leNat (sl_take b (by omega))
  have hwidth : s.gradWidth (b.take 32) = embWidth e.desc := by simp only [State.gradWidth, htab, he, Option.map_some, Option.getD_some]
  simp only [exec, execGradientBatch, State.takeBatch, hwidth, hok, htab, he, htrain, hsource, Option.map_some, Option.getD_some, hp, hs,
    Bool.not_true, Bool.false_eq_true, if_false]

/-! ### RUNNING_SUMS (R202) -/

section
variable {s : State} {k : Nat} {e : EmbTab} (he : mget s.embs k = some e)
include he

theorem runningSums_ignored (port : Nat) (msg : SumsMsg) (h : embTrainable e.desc = false ∨ embSharded e.desc = true) :
    exec (.runningSums port k msg) s = .next s := by
  have hout : embSharded e.desc = true ∨ ¬ embTrainable e.desc = true ∨ e.state ≠ 2 := h.symm.imp id fun h => .inl (by simp [h])
  simp only [exec, execRunningSums, he, if_pos hout]

/-- A table that diverges is out of service with its rows as they were. -/
theorem divergeEmb_out (c l d : Nat) : mget ((s.divergeEmb k).raise c l d).embs k = some { e with state := 3 } := by
  rw [State.raise_embs]
  simp only [State.divergeEmb, he]
  exact mget_mmod_self (fun e => { e with state := 3 }) he

variable (hs : embSharded e.desc = false) (ht : embTrainable e.desc = true) (hst : e.state = 2)
include hs ht hst

theorem runningSums_commit (port : Nat) {tau : Nat} (node : Nat) (h : e.last < tau) : exec (.runningSums port k (.commit tau node)) s =
    .next (s.modEmb k fun e => { e with commits := mupd e.commits tau 0 fun b => setBit b node }) := by
  have hin : ¬ (embSharded e.desc = true ∨ ¬ embTrainable e.desc = true ∨ e.state ≠ 2) := by simp [hs, ht, hst]
  simp only [exec, execRunningSums, he, if_neg hin, if_neg (Nat.not_le.mpr h)]

theorem runningSums_missing (port : Nat) : exec (.runningSums port k (.missing (e.last + 1))) s =
    .next ((s.divergeEmb k).raise 0x5023 (locHedge port) 0) := by
  have hin : ¬ (embSharded e.desc = true ∨ ¬ embTrainable e.desc = true ∨ e.state ≠ 2) := by simp [hs, ht, hst]
  simp only [exec, execRunningSums, he, if_neg hin]
  exact if_neg (not_not.mpr rfl)

end

/-! ### TRAIN_STEP_APPLY (R200 to R202, R237) -/

section
variable {s : State} {k : Nat} {e : EmbTab} {g : List (Nat × List Nat)} (he : mget s.embs k = some e) (hst : e.state = 2)
  (hg : s.readySums k e (e.last + 1) = some g)

/-- Room taken, rows read and window pages touched leave the tables. -/
theorem applyTouches_embs (s : State) (k : Nat) (e : EmbTab) (on : List (Nat × Nat)) (qs : List (Nat × Nat)) (rows : List Nat) :
    (rows.foldl (fun s r => s.touchRow k e r) ((on.foldl (fun s p => s.useRoom (onPlot p.1 6) p.2) s).readRows qs)).embs = s.embs := by
  have htouch (u : State) (r : Nat) : (u.touchRow k e r).embs = u.embs :=
    congrArg Prod.fst (Inv.same (f := .embs) (fun _ hk h => Inv.touchRow hk h k e r) (by decide +kernel))
  rw [foldl_same (g := State.embs) htouch, readRows_eq]
  exact foldl_same (f := fun s p => s.useRoom (onPlot p.1 6) p.2) (g := State.embs) (fun _ _ => rfl) on s

/-- The apply slices have room for the rows that a train step names. -/
def State.applyFits (s : State) (k : Nat) (e : EmbTab) (g : List (Nat × List Nat)) : Bool :=
  (s.applyPlots k e (g.map (·.1))).all fun p => s.fits (onPlot p.1 6) p.2

/-- The rows of a table after a train step. -/
def EmbTab.appliedRows (e : EmbTab) (g : List (Nat × List Nat)) : List EmbRow :=
  e.rows.zipIdx.map fun r => match mget g r.2 with
    | some v => applyRow e.desc (e.last + 1) r.1 v
    | none => r.1

theorem getElem?_appliedRows {i : Nat} {r : EmbRow} (h : e.rows[i]? = some r) : (e.appliedRows g)[i]? = some (match mget g i with
    | some v => applyRow e.desc (e.last + 1) r v
    | none => r) := by
  simp [EmbTab.appliedRows, h]

include he hst hg

theorem trainStepApply_applies (hf : s.applyFits k e g = true) : ∃ t x, exec (.trainStepApply k false) s = .next t ∧
    mget t.embs k = some x ∧ x.last = e.last + 1 ∧ x.rows = e.appliedRows g := by
  simp only [exec, execTrainStepApply, he, if_pos hst, hg]
  have htab (on qs : List (Nat × Nat)) (rows : List Nat) := (congrArg (mget · k) (applyTouches_embs s k e on qs rows)).trans he
  refine ⟨_, _, (if_neg (not_not.mpr hf)).trans (if_neg (by decide)),
    (congrArg (mget · k) (State.setN_embs ..)).trans (State.emb_modEmb _ (htab ..)), rfl, rfl⟩

theorem trainStepApply_diverges (hf : s.applyFits k e g = true) : exec (.trainStepApply k true) s =
    .next ((s.divergeEmb k).raise 0x5024 locField 0) := by
  simp only [exec, execTrainStepApply, he, if_pos hst, hg]
  exact (if_neg (not_not.mpr hf)).trans (if_pos trivial)

theorem trainStepApply_waits (hf : ¬ s.applyFits k e g = true) (ue : Bool) : exec (.trainStepApply k ue) s = .next s := by
  simp only [exec, execTrainStepApply, he, if_pos hst, hg]
  exact if_pos hf

end

/-! ### TRAIN_WAIT_EXPIRY (R202) -/

/-- A train step waits for a batch: a source's, or a replicated table's sums. -/
def State.lacksBatch (s : State) (k : Nat) (e : EmbTab) (l : List GradBatch) : Prop :=
  if embSharded e.desc then (s.sources k).any (fun n => !l.any fun b => b.source == n) = true else mget e.final (e.last + 1) = none

theorem trainWaitExpiry_notes {s : State} {k : Nat} {e : EmbTab} {b : GradBatch} {l : List GradBatch} (he : mget s.embs k = some e)
    (hst : e.state = 2) (hb : e.batches.filter (fun b => b.train == e.last + 1) = b :: l) (hl : s.lacksBatch k e (b :: l))
    (hd : (mget e.warned (e.last + 1)).getD (minNat b.at_ ((b :: l).map (·.at_))) + s.actN 0x5300 6 ≤ s.step.number) :
    exec (.trainWaitExpiry k) s = .next ((s.modEmb k fun x => { x with warned := mput x.warned (e.last + 1) s.step.number }).raise
      0x5022 locField 0) := by
  have hlacks : (if embSharded e.desc then (s.sources k).any (fun n => !(b :: l).any fun b => b.source == n)
      else (mget e.final (e.last + 1)).isNone) = true := by
    rw [State.lacksBatch] at hl
    split at hl
    next h => rw [if_pos h, hl]
    next h => rw [if_neg h, hl]; rfl
  simp only [exec, execTrainWaitExpiry, he, hb, hlacks]
  refine if_neg fun h => ?_
  obtain h | h | h := h
  · exact h hst
  · exact h trivial
  · exact absurd hd (Nat.not_le.mpr h)

/-! ### EMB_SHARD_COPY (R204, R237) -/

section
variable {s : State} {k : Nat} {e : EmbTab} {m : EmbMove} (he : mget s.embs k = some e) (hm : e.move = some m)

/-- The rows of a move's shard that a step takes, the shard's rows, and those copied for the first time. -/
def State.copyRoom (s : State) (e : EmbTab) (m : EmbMove) : Nat :=
  s.roomFor (onPlot (s.shardPlot e m.shard) 6) (s.actN 0x5300 4) / max (embStride e.desc) 1
def EmbMove.fresh (m : EmbMove) (e : EmbTab) (rows : Nat) : Nat :=
  min rows (min (2 ^ embShardLog e.desc) (embRows e.desc - m.shard * 2 ^ embShardLog e.desc) - m.copied)

/-- A move after a step's rows. -/
def EmbMove.after (m : EmbMove) (e : EmbTab) (rows n : Nat) : EmbMove :=
  ⟨m.shard, m.dest, m.copied + m.fresh e rows, m.dirty.drop (rows - m.fresh e rows), n⟩

include he hm

theorem embShardCopy_abandoned (hg : s.grant 8 = false) : exec (.embShardCopy k) s = .next (s.abandonMove k) := by
  simp [exec, execEmbShardCopy, he, hm, hg]

theorem embShardCopy_waits (hg : s.grant 8 = true) (h : m.at_ = s.step.number ∨ s.hasSlice (s.shardPlot e m.shard) 6 = false) :
    exec (.embShardCopy k) s = .next s := by
  obtain h | h := h <;> simp [exec, execEmbShardCopy, he, hm, hg, h]

theorem embShardCopy_copies (hg : s.grant 8 = true) (hn : m.at_ ≠ s.step.number) (hh : s.hasSlice (s.shardPlot e m.shard) 6 = true) :
    ∃ t, exec (.embShardCopy k) s = .next t ∧
      mget t.embs k = some { e with move := some (m.after e (s.copyRoom e m) s.step.number) } := by
  simp only [exec, execEmbShardCopy, he, hm, hg, if_neg hn, hh]
  refine ⟨_, rfl, (State.emb_modEmb _ he).trans ?_⟩
  rfl

end

/-- Settles O58, command by command. -/
theorem embeddingCommandsComplete : Obligations.EmbeddingCommandsComplete := by
  refine ⟨fun s tags ti hb hf => ⟨fun hall => embGather_moves hb hf hall, fun tag w ht hw hover => embGather_refuses hb hf ht hw hover⟩,
    fun s port tag b e he => ⟨fun hk => ?_, fun w hk hw hg => embRows_takes he hk hw hg⟩, fun s port b e he hs hp hok => ?_,
    fun s port k e msg he h => runningSums_ignored he port msg h, fun s port k tau node e he hs ht hst => ⟨fun h => ?_, fun h => ?_⟩,
    fun s k e g he hst hg => ⟨fun hf => ?_, fun hf => ?_, fun hf ue => trainStepApply_waits he hst hg hf ue⟩,
    fun s k e b l he hst hb hl hd => ?_,
    fun s k e m he hm => ⟨fun hg hn hh => ?_, fun hg h => embShardCopy_waits he hm hg h, fun hg => ?_⟩⟩
  · obtain ⟨ps, qs, body, hrun⟩ := embRows_answers (port := port) (tag := tag) he hk
    refine ⟨_, hrun, by rw [State.sendHedge_ledger, counted_eq], fun hup => ?_⟩
    have hup' : (s.counted ps qs).hedgeUp port = true := by rwa [counted_eq]
    obtain ⟨l, hl, htx, hport⟩ := sendHedge_sends hup' 8 tag (u16 b 2) body
    exact ⟨l, hl, by rw [htx, counted_eq], hport⟩
  · exact ⟨_, _, gradientBatch_joins he hs hp hok, State.emb_modEmb _ he, rfl, rfl, rfl, fun i hi => emb_modEmb_ne _ _ hi⟩
  · exact ⟨_, _, runningSums_commit he hs ht hst port node h, State.emb_modEmb _ he, mgetD_mupd e.commits tau 0 (setBit · node), rfl⟩
  · subst h
    exact ⟨_, _, runningSums_missing he hs ht hst port, divergeEmb_out he .., by show 3 ≠ 2; decide⟩
  · obtain ⟨t, x, hrun, hx, hlast, hrows⟩ := trainStepApply_applies he hst hg hf
    refine ⟨t, x, hrun, hx, hlast, by rw [hrows]; simp [EmbTab.appliedRows], fun i r hr => ?_⟩
    rw [hrows]
    exact getElem?_appliedRows hr
  · exact ⟨_, _, trainStepApply_diverges he hst hg hf, divergeEmb_out he .., by show 3 ≠ 2; decide, rfl⟩
  · exact ⟨_, _, trainWaitExpiry_notes he hst hb hl hd,
      (congrArg (mget · k) (State.raise_embs ..)).trans (State.emb_modEmb _ he), mget_mput .., rfl⟩
  · obtain ⟨t, hrun, hmove⟩ := embShardCopy_copies he hm hg hn hh
    exact ⟨t, _, hrun, hmove, rfl, rfl, rfl, rfl, rfl⟩
  · exact ⟨_, embShardCopy_abandoned he hm hg, State.emb_modEmb _ he⟩

end Sys2Proof.Machine
end
section
/-! GEN_PLACE, PREFILL, DECODE, VERIFY, SCORE, PAGE_PARTIALS and CACHE_RETAIN_EXPIRY (R217 to R221, R225). -/

namespace Sys2Proof.Machine
set_option Elab.async false

/-! ### The next pass of a generation -/

/-- The work of a request whose next pass begins with the program `prog`. -/
def Work.nextPass (w : Work) (prog : List TStep) (g : GenWork) : Work := { w.clearBufs with prog := prog, gen := some { g with tried := 0 } }

theorem State.atHome.workOf {s : State} {tag : Nat} {f : FarCtx} {w : Work} (h : s.atHome tag f w) : s.workOf tag = some w := by
  obtain ⟨-, -, hw, -⟩ := h
  exact hw

section
variable {s : State} {tag : Nat} {w : Work} {g : GenWork} (hw : s.workOf tag = some w) (hg : w.gen = some g)
include hw hg

theorem modGen_workOf (k : GenWork → GenWork) : (s.modGen tag k).workOf tag = some { w with gen := some (k g) } := (modGen_becomes k hw hg).1

theorem loadPass_workOf : (s.loadPass tag).workOf tag = some (w.nextPass (s.passProg g) g) := by
  rw [State.loadPass, State.workOf_modWork _ hw, hg]
  rfl

/-- A change of a generation, with which its next pass begins. -/
theorem modGen_loadPass_workOf (k : GenWork → GenWork) :
    ((s.modGen tag k).loadPass tag).workOf tag = some (w.nextPass (s.passProg (k g)) (k g)) :=
  (loadPass_workOf (modGen_workOf hw hg k) rfl :)

end

@[simp] theorem hashCheck_ok (s : State) (tag home : Nat) : s.hashCheck tag home .ok = (s, true) := rfl

/-! ### GEN_PLACE, PREFILL and SCORE (R193, R217, R218, R220) -/

/-- No row's logits choose the next token: the context ends with a passage, or has no token of its own (log 173). -/
def GenWork.blind (g : GenWork) : Bool := g.prompt.isEmpty || (gPrefix g.hdr == g.prompt.length && g.spliced != 0)

theorem blind_iff {g : GenWork} : g.blind = true ↔ g.prompt = [] ∨ (gPrefix g.hdr = g.prompt.length ∧ g.spliced ≠ 0) := by
  simp [GenWork.blind]

theorem blind_eq_false {g : GenWork} (hne : g.prompt ≠ []) (h : gPrefix g.hdr ≠ g.prompt.length ∨ g.spliced = 0) : g.blind = false := by
  rw [← Bool.not_eq_true, blind_iff]
  exact fun hb => hb.elim hne fun hp => h.elim (absurd hp.1) (absurd · hp.2)

/-- A generation whose prompt is fed (R218). -/
def GenWork.prefilled (g : GenWork) : GenWork :=
  { g with
    fed := g.fed + g.rowTokens.length, stage := 2
    choice := if g.blind then [] else g.choice, drafts := if g.blind then [] else g.drafts }

theorem prefilled_of_blind {g : GenWork} (h : g.blind = true) : g.prefilled.choice = [] ∧ g.prefilled.drafts = [] := ⟨if_pos h, if_pos h⟩

theorem prefilled_of_not_blind {g : GenWork} (h : g.blind = false) : g.prefilled.choice = g.choice ∧ g.prefilled.drafts = g.drafts :=
  ⟨if_neg (by simp [h]), if_neg (by simp [h])⟩

/-- A generation that has the score of one more passage (R193, R218). -/
def GenWork.scored (g : GenWork) (v : Nat) : GenWork :=
  { g with scores := g.scores ++ [v], stage := if gPassages g.hdr ≤ g.scores.length + 1 then 3 else 1, fed := 0, pages := [] }

section
variable {s : State} {tag : Nat} {f : FarCtx} {w : Work} {g : GenWork} (hr : s.atHome tag f w) (hg : w.gen = some g)
include hr hg

/-- Without passages, a placement that fits the model's context and the kind's visits splices no page. -/
theorem genPlace_places (hp : f.phase = 0x20) (hst : g.stage = 0) (hform : gForm g.hdr ≠ 1) (hpass : g.passages = [])
    (hfit : g.base + gPrompt g.hdr + gMaxNew g.hdr ≤ min (genMaxCtx g.image) (kindVisits (s.kinds.getD w.kindId []))) :
    ∃ t : State, exec (.genPlace tag) s = .next t ∧ t.workOf tag = some (if g.prompt.isEmpty then
      { w with gen := some { g with stage := 1, roots := [] } } else w.nextPass (s.passProg g) { g with stage := 1, roots := [] }) := by
  have hroom : ¬ (genMaxCtx g.image < g.base + gPrompt g.hdr + sumNat [] + gMaxNew g.hdr ∨
      kindVisits (s.kinds.getD w.kindId []) < g.base + gPrompt g.hdr + sumNat [] + gMaxNew g.hdr) :=
    not_or.mpr ((Nat.le_min.mp hfit).imp Nat.not_lt.mpr Nat.not_lt.mpr)
  refine ⟨_, rfl, ?_⟩
  rw [genPhase_home _ hr hg hp, if_neg (not_not.mpr hst), if_neg hform]
  conv_lhs => simp only [hpass, List.map_nil, List.findIdx?_nil, List.filterMap_nil, List.foldl_nil, List.append_nil]
  rw [if_neg hroom]
  split
  · exact modGen_workOf hr.workOf hg _
  · exact modGen_loadPass_workOf hr.workOf hg _

theorem prefill_feeds (hp : f.phase = 0x21) (hst : g.stage = 1) (hprog : w.prog = []) : ∃ t, exec (.prefill tag .ok) s = .next t ∧
    t.mem = s.mem ∧ t.workOf tag = some (w.nextPass (s.passProg g)
      (if g.prompt.length ≤ g.fed + g.rowTokens.length then g.prefilled else { g with fed := g.fed + g.rowTokens.length })) := by
  refine ⟨_, rfl, ?_⟩
  rw [genPhase_home _ hr hg hp, if_neg (by simp [hst, hprog]), genCheck_ok, if_neg (by simp)]
  dsimp only
  split
  · exact ⟨rfl, modGen_loadPass_workOf hr.workOf hg _⟩
  · exact ⟨rfl, modGen_loadPass_workOf hr.workOf hg _⟩

theorem score_feeds (hp : f.phase = 0x23) (hst : g.stage = 1) (hprog : w.prog = []) (hn : g.scores.length < gPassages g.hdr)
    (hfed : g.fed + g.rowTokens.length < g.pair.length) : ∃ t, exec (.score tag ⟨.ok, .ok⟩) s = .next t ∧
    t.workOf tag = some (w.nextPass (s.passProg g) { g with fed := g.fed + g.rowTokens.length }) := by
  refine ⟨_, rfl, ?_⟩
  rw [genPhase_home _ hr hg hp, if_neg (by simp [hst, hprog]), if_neg (Nat.not_le.mpr hn), State.checkIn_ok, if_neg (by simp),
    if_pos hfed]
  exact modGen_loadPass_workOf hr.workOf hg _

theorem score_ends (hp : f.phase = 0x23) (hst : g.stage = 1) (hprog : w.prog = []) (hn : gPassages g.hdr ≤ g.scores.length) :
    ∃ t, exec (.score tag ⟨.ok, .ok⟩) s = .next t ∧ t.workOf tag = some { w with gen := some { g with stage := 3 } } := by
  refine ⟨_, rfl, ?_⟩
  rw [genPhase_home _ hr hg hp, if_neg (by simp [hst, hprog]), if_pos hn]
  exact modGen_workOf hr.workOf hg _

/-- With the last passage's score the program does not start again; in either case the generation is the same but for `tried`. -/
theorem score_takes (hp : f.phase = 0x23) (hst : g.stage = 1) (hprog : w.prog = []) {b : Buf} (hb : mget w.bufs w.lastOut = some b)
    (hn : g.scores.length < gPassages g.hdr) (hfed : g.pair.length ≤ g.fed + g.rowTokens.length) :
    ∃ t x n, exec (.score tag ⟨.ok, .ok⟩) s = .next t ∧ t.workOf tag = some x ∧
      x.gen = some { g.scored ((b.f32 0).headD 0) with tried := n } := by
  suffices h : ∃ x n, State.workOf (State.genPhase s tag 0x23 _) tag = some x ∧
      x.gen = some { g.scored ((b.f32 0).headD 0) with tried := n } by
    obtain ⟨x, n, h⟩ := h
    exact ⟨_, x, n, rfl, h⟩
  rw [genPhase_home _ hr hg hp, if_neg (by simp [hst, hprog]), if_neg (Nat.not_le.mpr hn), State.checkIn_ok, if_neg (by simp),
    if_neg (Nat.not_lt.mpr hfed), hb]
  simp only [decide_eq_true_eq, Option.getD_some, GenWork.scored]
  split
  · exact ⟨_, g.tried, modGen_workOf hr.workOf hg _, rfl⟩
  · exact ⟨_, 0, modGen_loadPass_workOf hr.workOf hg _, rfl⟩

end

/-! ### DECODE (R218, R221, R222) -/

/-- What a pass with a choice keeps of its tokens, with STOP_REASON: nothing more once generation has stopped. -/
def GenWork.kept (g : GenWork) (choice : List Nat) : List Nat × Nat :=
  if g.done then ([], g.stop) else keepTokens g.hdr (gMaxNew g.hdr - g.out.length) { g with choice := choice }.passTokens

/-- A generation after a decode pass that had this choice. -/
def GenWork.decoded (g : GenWork) (choice : List Nat) : GenWork :=
  let k := g.kept choice
  { g with
    fed := if g.done then g.fed else g.fed + g.next.toList.length + min g.path.length k.1.length
    next := if g.done then g.next else k.1.getLast?, out := g.out ++ k.1, stop := k.2, done := g.done || k.2 != 0
    passes := g.passes - 1, emitting := g.emitting + (if k.1.isEmpty then 0 else 1)
    accepted := g.accepted + (if g.done then 0 else g.path.length), choice := [], drafts := [], path := []
    stage := if g.passes - 1 = 0 then 3 else 2 }

section
variable {g : GenWork} (choice : List Nat)

theorem decoded_of_done (h : g.done = true) :
    (g.decoded choice).out = g.out ∧ (g.decoded choice).stop = g.stop ∧ (g.decoded choice).done = true := by
  have hk : g.kept choice = ([], g.stop) := if_pos h
  simp [GenWork.decoded, hk, h]

theorem decoded_out_of_not_done (h : g.done = false) : (g.decoded choice).out =
    g.out ++ (keepTokens g.hdr (gMaxNew g.hdr - g.out.length) { g with choice := choice }.passTokens).1 := by
  simp only [GenWork.decoded, GenWork.kept, h, Bool.false_eq_true, if_false]

theorem decoded_emitting : (g.decoded choice).emitting = g.emitting + (if (g.decoded choice).out = g.out then 0 else 1) := by
  simp only [GenWork.decoded, List.isEmpty_iff, List.append_right_eq_self]

theorem decoded_stage : (g.decoded choice).stage = if g.passes ≤ 1 then 3 else 2 := by
  simp only [GenWork.decoded, Nat.sub_eq_zero_iff_le]

end

/-- Only a pass without a choice, of a generation that has not stopped, takes a free value. -/
theorem anyToken_eq (s : State) (g : GenWork) : ∃ choice, (s.anyToken g).1 = { g with choice := choice } ∧
    (g.done = true ∨ g.choice ≠ [] → choice = g.choice) ∧ (s.anyToken g).2.ledger = s.ledger := by
  by_cases h : (g.done || !g.choice.isEmpty) = true
  · rw [State.anyToken, if_pos h]
    exact ⟨g.choice, rfl, fun _ => rfl, rfl⟩
  · rw [State.anyToken, if_neg h]
    refine ⟨_, rfl, fun hc => absurd ?_ h, rfl⟩
    simpa using hc

theorem sendPages_ledger (s : State) (tag : Nat) (g : GenWork) : (s.sendPages tag g).ledger = s.ledger := by
  rw [State.sendPages]
  exact foldl_same (g := State.ledger) (fun u m => ite_same (g := State.ledger) (State.sendHedge_ledger ..) rfl) _ s

/-- The end of a pass, whose buffers are free: the last one sends the appended pages, and any other begins the next unless generation has
stopped. -/
theorem passEnd_workOf {u : State} {tag : Nat} {w : Work} {g : GenWork} (hu : u.workOf tag = some { w with bufs := [], gen := some g })
    (left home : Nat) (ended : Bool) (a : GenWork) : ∃ x n,
      State.workOf (if left ≠ 0 then (if ended then u else u.loadPass tag)
        else if (u.hashCheck tag home .ok).2 then (u.hashCheck tag home .ok).1.sendPages tag a
        else (u.hashCheck tag home .ok).1) tag = some x ∧
      x.gen = some { g with tried := n } ∧ x.bufs = [] ∧ (left = 0 → x.prog = w.prog) := by
  split
  · next hleft =>
    split
    · exact ⟨_, g.tried, hu, rfl, rfl, fun _ => rfl⟩
    · exact ⟨_, 0, loadPass_workOf hu rfl, rfl, rfl, fun h => absurd h hleft⟩
  · refine ⟨{ w with bufs := [], gen := some g }, g.tried, ?_, rfl, rfl, fun _ => rfl⟩
    rw [hashCheck_ok, if_pos rfl, State.workOf, sendPages_ledger]
    exact hu

section
variable {s : State} {tag : Nat} {f : FarCtx} {w : Work} {g : GenWork} (hr : s.atHome tag f w) (hg : w.gen = some g)
include hr hg

/-- A pass ends; with the last one, or once generation has stopped, the program does not start again. -/
theorem decode_decodes (hp : f.phase = 0x22) (hst : g.stage = 2) (hprog : w.prog = []) :
    ∃ t x choice n, exec (.decode tag ⟨.ok, .ok⟩) s = .next t ∧ t.workOf tag = some x ∧
      x.gen = some { g.decoded choice with tried := n } ∧ x.bufs = [] ∧ (g.passes ≤ 1 → x.prog = []) ∧
      (g.done = true ∨ g.choice ≠ [] → choice = g.choice) := by
  obtain ⟨choice, hany, hchoice, hled⟩ := anyToken_eq s g
  have hw : (s.anyToken g).2.workOf tag = some w := by rw [State.workOf, hled]; exact hr.workOf
  suffices h : ∃ x n, State.workOf (State.genPhase s tag 0x22 _) tag = some x ∧ x.gen = some { g.decoded choice with tried := n } ∧
      x.bufs = [] ∧ (g.passes - 1 = 0 → x.prog = w.prog) by
    obtain ⟨x, n, hx, hgen, hbufs, hend⟩ := h
    exact ⟨_, x, choice, n, rfl, hx, hgen, hbufs, fun h => (hend (Nat.sub_eq_zero_of_le h)).trans hprog, hchoice⟩
  rw [genPhase_home _ hr hg hp, if_neg (by simp [hst, hprog]), genCheck_ok, if_neg (by simp)]
  simp only [hany]
  refine passEnd_workOf ?_ (g.passes - 1) f.home _ _
  exact State.workOf_modWork (fun w => { w with bufs := [] }) (modGen_workOf hw hg _)

end

/-! ### VERIFY (R221) -/

/-- A generation that has accepted the path of drafted tokens from its context's choice `a`. -/
def GenWork.acceptFrom (g : GenWork) (w : Work) (a : Nat) : GenWork :=
  let path := acceptPath g.hdr g.drafts g.choice 8 0xFF a
  let kept := path.take (keepTokens g.hdr (gMaxNew g.hdr - g.out.length) { g with path := path }.passTokens).1.length
  { g with path := path, pages := g.accept w false kept, dpages := if g.draft.isEmpty then g.dpages else g.accept w true kept }

/-- A generation after VERIFY: only one that decodes and has a choice accepts a path. -/
def GenWork.verified (g : GenWork) (w : Work) : GenWork :=
  match (if g.stage = 2 then g.choice else []) with
  | [] => g
  | a :: _ => g.acceptFrom w a

section
variable {g : GenWork} (w : Work)

theorem verified_of_nil (h : (if g.stage = 2 then g.choice else []) = []) : g.verified w = g := by rw [GenWork.verified, h]

theorem verified_of_cons {a : Nat} {l : List Nat} (h : (if g.stage = 2 then g.choice else []) = a :: l) :
    g.verified w = g.acceptFrom w a := by rw [GenWork.verified, h]

theorem verified_out : (g.verified w).out = g.out := by rw [GenWork.verified]; split <;> rfl
theorem verified_choice : (g.verified w).choice = g.choice := by rw [GenWork.verified]; split <;> rfl

theorem verified_path {a : Nat} {l : List Nat} (hst : g.stage = 2) (hc : g.choice = a :: l) :
    (g.verified w).path = acceptPath g.hdr g.drafts g.choice 8 0xFF a := by
  rw [verified_of_cons w ((if_pos hst).trans hc)]
  rfl

end

theorem verify_part (s : State) : s.GenPart (fun tag w g u => u.verify tag w g) fun _ w g => { w with gen := some (g.verified w) } := by
  intro u tag w g hu _ hw hg
  dsimp only
  rw [State.verify]
  split
  · next h =>
    rw [verified_of_nil w h, Work.with_gen hg]
    exact ⟨hu, .of_works rfl hw⟩
  · next h =>
    rw [verified_of_cons w h]
    exact ⟨hu.trans (modGen_readsAs ..), modGen_becomes _ hw hg⟩

theorem verify_verifies {s : State} {tags : List Nat} {ti : TInstr} (hb : s.batchAt 0x48 ti tags) : ∃ t, exec (.verify tags ti) s = .next t ∧
    ∀ tag w g, tag ∈ tags → s.workOf tag = some w → w.gen = some g →
      t.workOf tag = some { w with gen := some (g.verified w), prog := w.prog.drop 1 } :=
  ⟨_, rfl, (genOp_leaves (mid := fun _ w g => { w with gen := some (g.verified w) }) (fun _ _ _ => rfl) (fun _ _ _ _ => rfl)
    (verify_part s) (by decide : 0 < 64) hb).2⟩

/-! ### PAGE_PARTIALS (R225) -/

/-- A loan is that of a home node and key. -/
def Lent.isOf (port key : Nat) (l : Lent) : Bool := l.port == port && l.key == key

theorem isOf_iff {port key : Nat} {l : Lent} : l.isOf port key = true ↔ l.port = port ∧ l.key = key := by simp [Lent.isOf]

/-- A message changes nothing but what is to be sent. -/
theorem sendHedge_eq (s : State) (port typ tag i : Nat) (b : Bytes) :
    s.sendHedge port typ tag i b = { s with tx := (s.sendHedge port typ tag i b).tx } := by
  rw [State.sendHedge]
  split
  · exact List.foldlRecOn (motive := fun u : State => u = { s with tx := u.tx }) _ _ rfl fun u hu m _ => by rw [hu]; rfl
  · rfl

/-- The loan of a home node and key with the pages of its message, in place of those that they continue. -/
def State.lentWith (s : State) (port key : Nat) (b : Bytes) : Lent :=
  let old := (s.tier.lent.find? (Lent.isOf port key)).getD ⟨port, key, u16 b 6, u8 b 5, []⟩
  { old with pages := (old.pages.filter fun p => !(parsePages b).any (samePage p)) ++ parsePages b }

theorem lentWith_isOf (s : State) (port key : Nat) (b : Bytes) : (s.lentWith port key b).isOf port key = true := by
  have h : ((s.tier.lent.find? (Lent.isOf port key)).getD ⟨port, key, u16 b 6, u8 b 5, []⟩).isOf port key = true := by
    cases hf : s.tier.lent.find? (Lent.isOf port key) with
    | none => exact isOf_iff.mpr ⟨rfl, rfl⟩
    | some l => exact List.find?_some hf
  exact h

/-- The loans after a message with pages. -/
def State.lentAfter (s : State) (port key : Nat) (b : Bytes) : List Lent :=
  if (parsePages b).isEmpty then s.tier.lent else (s.tier.lent.filter fun l => !l.isOf port key) ++ [s.lentWith port key b]

theorem mem_lentAfter {s : State} {port key : Nat} {l : Lent} (h : l ∈ s.tier.lent) (hl : ¬ l.isOf port key = true) (b : Bytes) :
    l ∈ s.lentAfter port key b := by
  rw [State.lentAfter]
  split
  · exact h
  · exact List.mem_append_left _ (List.mem_filter.mpr ⟨h, by simpa using hl⟩)

theorem page_mem_lentAfter {s : State} {port key : Nat} {b : Bytes} {p : KvPage × Nat} (hp : p ∈ parsePages b) :
    ∃ l ∈ s.lentAfter port key b, l.isOf port key = true ∧ p ∈ l.pages := by
  refine ⟨s.lentWith port key b, ?_, lentWith_isOf .., List.mem_append_right _ hp⟩
  rw [State.lentAfter, if_neg (by simpa using List.ne_nil_of_mem hp)]
  exact List.mem_append_right _ (List.mem_singleton_self _)

section
variable {s : State} {tag port : Nat} {b : Bytes}

theorem pagePartials_stores (hk : u8 b 0 = 0) : exec (.pagePartials tag port b false) s = 
    .next (({ s with tier := { s.tier with lent := s.lentAfter port (u64 b 8) (b.drop 16) } }).sendHedge port 11 tag 0
      (pageHead 3 0 0 (u64 b 8))) := by
  simp only [exec, execPagePartials, hk]
  rfl

theorem pagePartials_ignores (hk : u8 b 0 = 1) (h : ∀ l ∈ s.tier.lent, ¬ l.isOf port (u64 b 8) = true) :
    exec (.pagePartials tag port b false) s = .next s := by
  have hnone : s.tier.lent.find? (fun l => l.port == port && l.key == u64 b 8) = none := List.find?_eq_none.mpr h
  simp [exec, execPagePartials, hk, State.answerQueries, hnone]

theorem pagePartials_answers (hk : u8 b 0 = 1) {l : Lent} (hl : l ∈ s.tier.lent) (hi : l.isOf port (u64 b 8) = true) :
    ∃ body, exec (.pagePartials tag port b false) s = .next (s.sendHedge port 11 tag 0 body) := by
  obtain ⟨x, hx⟩ := Option.isSome_iff_exists.mp (List.find?_isSome.mpr ⟨l, hl, hi⟩)
  have hx : s.tier.lent.find? (fun l => l.port == port && l.key == u64 b 8) = some x := hx
  simp only [exec, execPagePartials, hk, State.answerQueries, hx]
  exact ⟨_, rfl⟩

theorem pagePartials_ends_wait (hk : u8 b 0 = 2) {w : Work} {g : GenWork} (hw : s.workOf tag = some w) (hg : w.gen = some g) :
    ∃ t, exec (.pagePartials tag port b false) s = .next t ∧
      t.workOf tag = some { w with gen := some { g with asked := clrBit g.asked port } } := by
  simp only [exec, execPagePartials, hk]
  exact ⟨_, rfl, modGen_workOf hw hg _⟩

theorem far_modFar {c : Nat} {f : FarCtx} (k : FarCtx → FarCtx) (h : mget s.ledger.fars c = some f) :
    mget (s.modFar c k).ledger.fars c = some (k f) := mget_mmod_self k h

theorem pagePartials_acknowledges (hk : u8 b 0 = 3) {c : Nat} {f : FarCtx} {w : Work} {g : GenWork} (hf : s.farOf tag = some (c, f))
    (hp : f.phase = 0x24) (hw : s.workOf tag = some w) (hg : w.gen = some g) (hc : mget s.ledger.fars c = some f) :
    ∃ t, exec (.pagePartials tag port b false) s = .next t ∧ t.workOf tag = some { w with acks := setBit w.acks port } ∧
      mget t.ledger.fars c = some (if (s.otherPorts g).all (bit (setBit w.acks port)) then { f with phase := 0x0B } else f) := by
  have hack : (s.modWork tag fun w' => { w' with acks := setBit w.acks port }).workOf tag = some { w with acks := setBit w.acks port } :=
    State.workOf_modWork _ hw
  have hports : (w.gen.map s.otherPorts).getD [] = s.otherPorts g := by rw [hg]; rfl
  refine ⟨s.takePageAck port tag, by simp only [exec, execPagePartials, hk]; rfl, ?_⟩
  simp only [State.takePageAck, hf, hp, hw, Option.map_some, Option.getD_some, Option.bind_some, hports, ne_eq, not_true_eq_false,
    if_false]
  split
  · exact ⟨hack, far_modFar _ hc⟩
  · exact ⟨hack, hc⟩

theorem pagePartials_ends_loan (hk : u8 b 0 = 4) : exec (.pagePartials tag port b false) s =
    .next { s with tier := { s.tier with lent := s.tier.lent.filter fun l => !l.isOf port (u64 b 8) } } := by
  simp only [exec, execPagePartials, hk]
  rfl

/-- An answer that comes too late. -/
theorem pagePartials_late (h : s.awaits tag port = true) :
    exec (.pagePartials tag port b true) s = .next ((s.raise 0x5045 (locHedge port) 0).lose tag 9) := by
  simp only [exec, execPagePartials, h, if_true]

theorem pagePartials_not_awaited (h : s.awaits tag port = false) : exec (.pagePartials tag port b true) s = .next s := by
  simp only [exec, execPagePartials, h, if_true, Bool.false_eq_true, if_false]

theorem pagePartials_other (hk : 4 < u8 b 0) : exec (.pagePartials tag port b false) s = .next s := by
  have h (n : Nat) (hn : n ≤ 4) : u8 b 0 ≠ n := by omega
  simp [exec, execPagePartials, h]

end

/-! ### CACHE_RETAIN_EXPIRY (R219) -/

theorem releaseLent_keeps (s : State) (key : Nat) (members : List Nat) :
    (s.releaseLent key members).models = s.models ∧ (s.releaseLent key members).mem = s.mem :=
  ⟨foldl_same (g := State.models) (fun _ _ => State.sendHedge_models ..) _ s,
    foldl_same (g := State.mem) (fun _ _ => State.sendHedge_mem ..) _ s⟩

theorem dropCaches_keeps (s : State) (gone : Nat × Cache → Bool) :
    (s.dropCaches gone).models = s.models ∧ (s.dropCaches gone).mem = s.mem :=
  ⟨foldl_same (g := State.models) (fun _ _ => (releaseLent_keeps ..).1) _ s,
    foldl_same (g := State.mem) (fun _ _ => (releaseLent_keeps ..).2) _ s⟩

theorem cacheRetainExpiry_leaves {s : State} {k : Nat} {c : Cache} (hc : mget s.caches k = some c) (hu : c.inUse = false)
    (hn : s.actN 0x5400 7 ≠ 0) (hl : c.last + s.actN 0x5400 7 ≤ s.step.number) :
    exec (.cacheRetainExpiry k) s = .next ((s.dropCaches fun c => c.1 == k).raise 0x5048 locField 0) := by
  simp [exec, execCacheRetainExpiry, hc, hu, hn, hl]

/-! ### The obligation -/

/-- Settles O56, command by command. -/
theorem generationPhasesComplete : Obligations.GenerationPhasesComplete := by
  refine ⟨fun s tag f w g hr hg => ⟨genPlace_places hr hg, fun hp hst hprog => ?_, fun hp hst hprog => ?_, fun hp hst hprog =>
    ⟨score_feeds hr hg hp hst hprog, fun b hb hn hfed => ?_, score_ends hr hg hp hst hprog⟩⟩, fun s tags ti hb => ?_,
    fun s tag port b => ⟨fun hk => ?_, fun hk h => ?_, fun hk h => ?_, fun hk w g => pagePartials_ends_wait hk,
      fun hk c f w g => pagePartials_acknowledges hk, fun hk => ?_, pagePartials_other, pagePartials_late, pagePartials_not_awaited⟩,
    fun s k c hc hu hn hl => ?_⟩
  · obtain ⟨t, hrun, hmem, hwork⟩ := prefill_feeds hr hg hp hst hprog
    refine ⟨t, hrun, hmem, fun hmore => ?_, fun hend => ?_⟩
    · rwa [if_neg (Nat.not_le.mpr hmore)] at hwork
    · rw [if_pos hend] at hwork
      refine ⟨_, _, hwork, rfl, rfl, rfl, rfl, rfl, fun hne h => prefilled_of_not_blind (blind_eq_false hne h),
        fun h => prefilled_of_blind (blind_iff.mpr h)⟩
  · obtain ⟨t, x, choice, n, hrun, hx, hgen, hbufs, hend, hchoice⟩ := decode_decodes hr hg hp hst hprog
    refine ⟨t, x, _, hrun, hx, hgen, rfl, decoded_stage choice, hbufs, ⟨_, rfl⟩, decoded_of_done choice, fun hd hc => ?_, rfl,
      decoded_emitting choice, hend⟩
    rw [hchoice (.inr hc)]
    exact decoded_out_of_not_done _ hd
  · obtain ⟨t, x, n, hrun, hx, hgen⟩ := score_takes hr hg hp hst hprog hb hn hfed
    exact ⟨t, x, _, hrun, hx, hgen, rfl, rfl, rfl, rfl⟩
  · obtain ⟨t, hrun, hworks⟩ := verify_verifies hb
    exact ⟨t, hrun, fun tag w g ht hw hg => ⟨_, _, hworks tag w g ht hw hg, rfl, rfl, verified_out w, verified_choice w,
      fun a l hst hc => verified_path w hst hc⟩⟩
  · refine ⟨_, pagePartials_stores hk, ?_, ?_, fun hup => ?_, fun p hp => ?_, fun l hl hi => ?_⟩
    · rw [State.sendHedge_ledger]
    · rw [State.sendHedge_mem]
    · refine sendHedge_sends ?_ ..
      exact hup
    · obtain ⟨l, hl, hi, hmem⟩ := page_mem_lentAfter (s := s) (port := port) (key := u64 b 8) hp
      rw [State.sendHedge_tier]
      exact ⟨l, hl, isOf_iff.mp hi, hmem⟩
    · rw [State.sendHedge_tier]
      exact mem_lentAfter hl (fun h => hi (isOf_iff.mp h)) _
  · exact pagePartials_ignores hk fun l hl hi => h l hl (isOf_iff.mp hi)
  · obtain ⟨l, hl, hi⟩ := h
    obtain ⟨body, hrun⟩ := pagePartials_answers (tag := tag) hk hl (isOf_iff.mpr hi)
    exact ⟨_, hrun, fun hup => sendHedge_sends hup .., by rw [sendHedge_eq]⟩
  · refine ⟨_, pagePartials_ends_loan hk, fun l => ?_, rfl⟩
    simp [isOf_iff, ← Bool.not_eq_true]
  · exact ⟨_, cacheRetainExpiry_leaves hc hu hn hl, rfl, (dropCaches_keeps ..).1, (dropCaches_keeps ..).2⟩

end Sys2Proof.Machine
end

section
/-! PROMOTION_COPY, REFRESH_SLICE, SCRUB_SLICE and ROW_REPAIR (R235, R237 to R240). -/

namespace Sys2Proof.Machine
set_option Elab.async false

/-! ### Copies of pages (R235) -/

theorem touchPage_keeps (s : State) (p : Nat) : (s.touchPage p).tier.frames = s.tier.frames ∧ (s.touchPage p).mem = s.mem := by
  rw [State.touchPage]
  cases s.tier.promos.find? fun q => q.page == p && q.copied with
  | none => exact ⟨rfl, rfl⟩
  | some q =>
    dsimp only
    split <;> exact ⟨rfl, rfl⟩

/-- A write to a page leaves the promotions of the other pages. -/
theorem mem_promos_touchPage {s : State} {p : Nat} {x : Promo} (h : x.page ≠ p) :
    x ∈ (s.touchPage p).tier.promos ↔ x ∈ s.tier.promos := by
  rw [State.touchPage]
  cases s.tier.promos.find? fun q => q.page == p && q.copied with
  | none => rfl
  | some q =>
    have hnew : x ≠ ⟨p, q.restarts + 1, false, true⟩ := fun e => h (congrArg Promo.page e)
    dsimp only
    split
    · simp [h]
    · simp [h, hnew]

theorem copyPromo_keeps (s : State) (plot : Nat) (bad : Bool) (q : Promo) :
    (s.copyPromo plot bad q).tier.frames = s.tier.frames ∧ (s.copyPromo plot bad q).mem = s.mem := by
  rw [State.copyPromo]
  dsimp only
  split
  · exact touchPage_keeps ..
  · exact ⟨rfl, rfl⟩

/-- A promotion after a good copy of the page `p`. -/
def Promo.markCopied (p : Nat) (x : Promo) : Promo := if x.page = p then { x with copied := true } else x

theorem markCopied_page (p : Nat) (x : Promo) : (x.markCopied p).page = x.page := by
  unfold Promo.markCopied
  split <;> rfl

theorem markCopied_copied {p : Nat} {x : Promo} (h : x.page = p) : (x.markCopied p).copied = true := by
  rw [Promo.markCopied, if_pos h]

theorem mem_map_markCopied {l : List Promo} {p : Nat} {x : Promo} (h : x.page ≠ p) : x ∈ l.map (Promo.markCopied p) ↔ x ∈ l := by
  rw [List.mem_map]
  constructor
  · rintro ⟨y, hy, rfl⟩
    rw [markCopied_page] at h
    rwa [Promo.markCopied, if_neg h]
  · exact fun hx => ⟨x, hx, if_neg h⟩

section
variable {s : State} {plot : Nat} {q : Promo}

/-- What a copy makes of the list of promotions concerns its own page. -/
theorem mem_copyPromo_of_ne {bad : Bool} {x : Promo} (h : x.page ≠ q.page) :
    x ∈ (s.copyPromo plot bad q).tier.promos ↔ x ∈ s.tier.promos := by
  rw [State.copyPromo]
  dsimp only
  cases bad with
  | true =>
    have hne : x ≠ q := fun e => h (congrArg Promo.page e)
    simp [h, hne]
  | false =>
    have hmark : x ∈ s.tier.promos.map (Promo.markCopied q.page) ↔ x ∈ s.tier.promos := mem_map_markCopied h
    split
    · exact (mem_promos_touchPage h).trans hmark
    · exact hmark

theorem copyPromo_promos (hw : s.tier.wrote.contains q.page = false) :
    (s.copyPromo plot false q).tier.promos = s.tier.promos.map (Promo.markCopied q.page) := by
  rw [State.copyPromo]
  dsimp only
  rw [hw]
  rfl

end

/-- A promotion of the page waits for its switch, and none waits for a copy. -/
def State.pageCopied (s : State) (p : Nat) : Prop :=
  (∃ x ∈ s.tier.promos, x.page = p) ∧ ∀ x ∈ s.tier.promos, x.page = p → x.copied = true

theorem pageCopied_of_copyPromo {s : State} {plot : Nat} {q : Promo} (hq : q ∈ s.tier.promos) (hw : s.tier.wrote.contains q.page = false) :
    (s.copyPromo plot false q).pageCopied q.page := by
  rw [State.pageCopied, copyPromo_promos hw]
  refine ⟨⟨_, List.mem_map_of_mem hq, markCopied_page ..⟩, fun x hx hp => ?_⟩
  obtain ⟨y, -, rfl⟩ := List.mem_map.mp hx
  rw [markCopied_page] at hp
  exact markCopied_copied hp

theorem copyPromo_keeps_pageCopied {s : State} {plot p : Nat} {bad : Bool} {q : Promo} (h : s.pageCopied p) (hq : q ∈ s.tier.promos)
    (hc : q.copied = false) : (s.copyPromo plot bad q).pageCopied p := by
  obtain ⟨⟨x, hx, hp⟩, hall⟩ := h
  have hne : p ≠ q.page := fun e => by simp [hall q hq e.symm] at hc
  exact ⟨⟨x, (mem_copyPromo_of_ne (hp ▸ hne)).mpr hx, hp⟩,
    fun y hy hyp => hall y ((mem_copyPromo_of_ne (hyp ▸ hne)).mp hy) hyp⟩

/-- The next promotion is one that waits for its copy. -/
theorem nextPromo_waits {s : State} {plot : Nat} {q : Promo} (h : s.nextPromo plot = some q) : q ∈ s.tier.promos ∧ q.copied = false := by
  unfold State.nextPromo at h
  dsimp only at h
  split at h
  · have hp := List.find?_some h
    simp only [Bool.and_eq_true, Bool.not_eq_true'] at hp
    exact ⟨List.mem_of_find?_eq_some h, hp.2⟩
  · contradiction

section
variable {s : State} {plot : Nat} {bad : List Nat} {q : Promo}

theorem copyPromos_of_some (n : Nat) (h : s.nextPromo plot = some q) :
    s.copyPromos plot bad (n + 1) = (s.copyPromo plot (bad.contains q.page) q).copyPromos plot bad n := by
  rw [State.copyPromos, h]

theorem copyPromos_of_none (n : Nat) (h : s.nextPromo plot = none) : s.copyPromos plot bad n = s := by
  cases n with
  | zero => rfl
  | succ n => rw [State.copyPromos, h]

theorem copyPromos_keeps (s : State) (plot : Nat) (bad : List Nat) (n : Nat) :
    (s.copyPromos plot bad n).tier.frames = s.tier.frames ∧ (s.copyPromos plot bad n).mem = s.mem := by
  induction n generalizing s with
  | zero => exact ⟨rfl, rfl⟩
  | succ n ih =>
    cases h : s.nextPromo plot with
    | none => rw [copyPromos_of_none _ h]; exact ⟨rfl, rfl⟩
    | some q =>
      obtain ⟨hframes, hmem⟩ := copyPromo_keeps s plot (bad.contains q.page) q
      obtain ⟨iframes, imem⟩ := ih (s.copyPromo plot (bad.contains q.page) q)
      rw [copyPromos_of_some _ h]
      exact ⟨iframes.trans hframes, imem.trans hmem⟩

/-- The copies that follow in the step leave a copied page copied. -/
theorem copyPromos_keeps_pageCopied {p : Nat} (n : Nat) (h : s.pageCopied p) : (s.copyPromos plot bad n).pageCopied p := by
  induction n generalizing s with
  | zero => exact h
  | succ n ih =>
    cases hn : s.nextPromo plot with
    | none => rwa [copyPromos_of_none _ hn]
    | some q =>
      obtain ⟨hq, hc⟩ := nextPromo_waits hn
      rw [copyPromos_of_some _ hn]
      exact ih (copyPromo_keeps_pageCopied h hq hc)

theorem copyPromos_copies (hn : s.nextPromo plot = some q) (hb : q.page ∉ bad) (hw : s.tier.wrote.contains q.page = false) :
    (s.copyPromos plot bad s.tier.promos.length).pageCopied q.page := by
  obtain ⟨hq, -⟩ := nextPromo_waits hn
  obtain ⟨n, hlen⟩ := Nat.exists_eq_add_one.mpr (List.length_pos_of_mem hq)
  have hread : bad.contains q.page = false := by simpa using hb
  rw [hlen, copyPromos_of_some _ hn, hread]
  exact copyPromos_keeps_pageCopied n (pageCopied_of_copyPromo hq hw)

end

section
variable {s : State} {c : PlotCopy}

theorem promotionCopy_runs (hg : s.grant 0x0A = true) (hs : s.hasSlice c.plot 3 = true) :
    exec (.promotionCopy c) s = .next (s.copyPromos c.plot c.bad s.tier.promos.length) := by
  simp [exec, execPromotionCopy, hg, hs]

theorem promotionCopy_idles (h : s.grant 0x0A = false ∨ s.hasSlice c.plot 3 = false ∨ s.nextPromo c.plot = none) :
    exec (.promotionCopy c) s = .next s := by
  obtain hg | hs | hn := h
  · simp [exec, execPromotionCopy, hg]
  · simp [exec, execPromotionCopy, hs]
  · simp [exec, execPromotionCopy, copyPromos_of_none _ hn]

end

/-! ### Scrubs (R239, R240) -/

/-- The node as a scrub slice begins: its plot's failed copies are restored, and the counts of a period that is over forgotten. -/
def State.scrubStart (s : State) (idx plot : Nat) (cap : Option Nat) : State :=
  let over_ := decide (s.tier.scrubAt + s.actN 0x6010 9 ≤ s.step.number)
  let here := fun (slot : Nat) => s.holdsPage plot fun e => (e.1 == 1 || e.1 == 2) && e.2.1 == slot
  { s with
    step := { s.step with used := match cap with | some n => mupd s.step.used idx 0 (· + n) | none => s.step.used }
    tier := { s.tier with
      rebuild := s.tier.rebuild.filter (fun slot => !here slot), planBad := clrBit s.tier.planBad plot,
      rowCe := if over_ then [] else s.tier.rowCe, scrubAt := if over_ then s.step.number else s.tier.scrubAt } }

/-- The finds that a slice's CAPACITY has reads for. -/
def scrubReads (cap : Option Nat) (found : List ScrubFind) : List ScrubFind :=
  match cap with
  | some n => found.take (n / 64)
  | none => found

theorem scrubReads_nil (cap : Option Nat) : scrubReads cap [] = [] := by cases cap <;> simp [scrubReads]

theorem scrubReads_single {cap : Option Nat} (h : ∀ n, cap = some n → 64 ≤ n) (f : ScrubFind) : scrubReads cap [f] = [f] := by
  cases cap with
  | none => rfl
  | some n => exact List.take_of_length_le (Nat.div_pos (h n rfl) (by decide))

section
variable {s : State} {idx : Nat}

theorem scrubSlice_idles (h : s.scrubSlice idx = none) (found : List ScrubFind) : exec (.scrubSlice idx found) s = .next s := by
  simp only [exec, execScrubSlice, h]

theorem scrubSlice_runs {plot : Nat} {cap : Option Nat} (h : s.scrubSlice idx = some (plot, cap)) (found : List ScrubFind) :
    exec (.scrubSlice idx found) s = .next ((scrubReads cap found).foldl (State.scrubFound plot) (s.scrubStart idx plot cap)) := by
  simp only [exec, execScrubSlice, h]
  rfl

end

theorem tillerCode_corrects {errs : Nat} (h1 : 1 ≤ errs) (h3 : errs ≤ 3) (free : Nat) : tillerCode errs free = .corrected := by
  rw [tillerCode, if_neg (by omega), if_pos h3]

/-- A row with 1 to 3 wrong bytes reads corrected, and is counted. -/
theorem scrubFound_row (s : State) (plot row : Nat) {errs : Nat} (h1 : 1 ≤ errs) (h3 : errs ≤ 3) :
    s.scrubFound plot ⟨.row, row, errs⟩ = s.countRow plot row := by
  have hread : s.eccRead ⟨.row, row, errs⟩ = (.corrected, s) := by
    simp [State.eccRead, ScrubPlace.inSram, tillerCode_corrects h1 h3, show ¬ 5 < errs by omega]
  simp [State.scrubFound, State.scrubs, hread, ScrubPlace.inSram]

theorem countRow_counts (s : State) (plot row : Nat) :
    let n := mgetD s.tier.rowCe (rowKey plot row) 0 + 1
    (s.countRow plot row).tier.rowCe = mput s.tier.rowCe (rowKey plot row) n ∧
      (s.countRow plot row).tier.repairs =
        (if n = s.actN 0x6010 0x0A + 1 then s.tier.repairs ++ [(plot, row)] else s.tier.repairs) ∧
      (s.countRow plot row).mem = s.mem := by
  dsimp only
  rw [State.countRow]
  split
  · exact ⟨by rw [State.raise_tier, State.bump_tier], by rw [State.raise_tier, State.bump_tier],
      by rw [State.raise_mem, State.bump_mem]⟩
  · exact ⟨by rw [State.bump_tier], by rw [State.bump_tier], by rw [State.bump_mem]⟩

/-! ### Repairs (R240) -/

theorem rowRepair_repairs {s : State} {plot row : Nat} (hg : s.grant 0x0B = true) (hr : s.tier.repairs.contains (plot, row) = true)
    (hs : s.repairSlice plot row = true) : exec (.rowRepair plot row) s = .next
      ((({ s with tier := { s.tier with repairs := s.tier.repairs.filter (· != (plot, row)),
                                        rowCe := mdel s.tier.rowCe (rowKey plot row) } }).useGrant 0x0B).raise 0x6017 (locPlot plot) 0) := by
  simp only [exec, execRowRepair, hg, hr, hs, Bool.and_self, if_true]

/-- Settles O30, command by command. -/
theorem tierWorkCompletes : Obligations.TierWorkCompletes := by
  refine fun s => ⟨fun c q hg hs hn hb hw => ?_, fun c => promotionCopy_idles, fun idx => rfl, fun idx => scrubSlice_idles,
    fun idx plot cap hslice => ⟨?_, fun row errs hcap h1 h3 => ?_⟩, fun plot row hg hr hs => ?_⟩
  · obtain ⟨⟨x, hx, hp⟩, hall⟩ := copyPromos_copies hn hb hw
    obtain ⟨hframes, hmem⟩ := copyPromos_keeps s c.plot c.bad s.tier.promos.length
    exact ⟨_, promotionCopy_runs hg hs, ⟨x, hx, hp, hall x hx hp⟩, hframes, hmem⟩
  · have hrun := scrubSlice_runs hslice []
    rw [scrubReads_nil] at hrun
    exact ⟨_, hrun, rfl, fun x hx => (List.mem_filter.mp hx).1, rfl, rfl, rfl, rfl, rfl, rfl⟩
  · have hrun := scrubSlice_runs hslice [⟨.row, row, errs⟩]
    rw [scrubReads_single hcap, List.foldl_cons, List.foldl_nil, scrubFound_row _ _ _ h1 h3] at hrun
    exact ⟨_, hrun, countRow_counts (s.scrubStart idx plot cap) plot row⟩
  · exact ⟨_, rowRepair_repairs hg hr hs, rfl, rfl, rfl, rfl⟩

end Sys2Proof.Machine
end

section
/-! The queue of waiting commands: a step runs the command at its front, which answers a next state and leaves the rest in its place. -/

namespace Sys2Proof.Machine
set_option Elab.async false

theorem goesOn_next (s : State) : ∃ t, (.next s : Host.Outcome State Fault Refusal) = .next t := ⟨s, rfl⟩

theorem goesOn_ite {c : Prop} [Decidable c] {a b : Host.Outcome State Fault Refusal} (ha : ∃ t, a = .next t) (hb : ∃ t, b = .next t) :
    ∃ t, (if c then a else b) = .next t := by
  split
  · exact ha
  · exact hb

/-- Every branch of every command answers a next state: the commands listed choose between branches, and the others have one. -/
theorem exec_goesOn (c : Instr) (s : State) : ∃ t, exec c s = .next t := by
  cases c
  case' stepBoundary | stepClose | engineSlot | headlandTransfer | headlandRetry | stepNumberLimit | handWatchdogExpiry | stringLoss |
      alternateHandTakeover | agentRestart | hostRdmaWrite | hostRdmaRead | remoteWaitExpiry | completionWrite | auditPass | shardList
      | certFields | replicaApply | logAck | logResend | sealBuild | sealWrite | segmentImage | compactionBuild | take | release |
      poolLoss | replay | trainStepApply | trainWaitExpiry | runningSums | embRows | embShardCopy | cacheRetainExpiry | scrubSlice |
      segmentLoad | pageReload | segmentRefetch | tillingEnter | tillingRun | tillingExit | tillingLoad | tmAckTimeout |
      tillCommandWrite | tillingRefreshDue | flashRead | logWrite | imageWrite | gcCopy | flashScrub | cellPop | laneFailure |
      laneRetrain | portRecovery | portTraining | dataFlit | replayTimeout | rejoinLoad | ethLinkDown | ethLinkUp | ethFailover |
      cmMessage | roceRefusedOpcode | ceMarkedPacket | pfcPause | arpNdEcho | roceAckTimeout | shaperRefill | egressWindow |
      transferIdleExpiry | rejoinTestEnd | tenantScrub | powerOn | capTest | vcoreAdjust | roceAckReceived | transmitOpportunity =>
    simp only [exec]
    delta execStepBoundary execStepClose execEngineSlot execHeadlandTransfer execHeadlandRetry execStepNumberLimit execHandWatchdogExpiry
      execStringLoss execAlternateHandTakeover execAgentRestart execHostRdmaWrite execHostRdmaRead execRemoteWaitExpiry
      execCompletionWrite execAuditPass execShardList execCertFields execReplicaApply execLogAck execLogResend execSealBuild
      execSealWrite execSegmentImage execCompactionBuild execTake execRelease execPoolLoss execReplay execTrainStepApply
      execTrainWaitExpiry execRunningSums execEmbRows execEmbShardCopy execCacheRetainExpiry execScrubSlice execSegmentLoad
      execPageReload execSegmentRefetch execTillingEnter execTillingRun execTillingExit execTillingLoad execTmAckTimeout
      execTillCommandWrite execTillingRefreshDue execFlashRead execLogWrite execImageWrite execGcCopy execFlashScrub execCellPop
      execLaneFailure execLaneRetrain execPortRecovery execPortTraining execDataFlit execReplayTimeout execRejoinLoad execEthLinkDown
      execEthLinkUp execEthFailover execCmMessage execRoceRefusedOpcode execCeMarkedPacket execPfcPause execArpNdEcho
      execRoceAckTimeout execShaperRefill execEgressWindow execTransferIdleExpiry execRejoinTestEnd execTenantScrub execPowerOn
      execCapTest execVcoreAdjust execRoceAckReceived execTransmitOpportunity
    repeat' first
      | with_reducible apply goesOn_next
      | with_reducible apply goesOn_ite
      | split
      | dsimp only
  all_goals exact ⟨_, rfl⟩

theorem pending_notMem_footprint (c : Instr) : .pending ∉ footprint c := by
  have hc : (footprint c).contains .pending = false := by cases c <;> rfl
  simpa using hc

/-- A command leaves the queue of waiting commands as it is. -/
theorem exec_pending {c : Instr} {s t : State} (e : exec c s = .next t) : t.pending = s.pending := by
  by_cases hc : c = .stepBoundary
  · subst hc
    exact (ends_stepBoundary (Stables.same (f := .pending) s rfl rfl (Or.inl rfl)) (fun _ hv => hv) rfl).holds t e
  · obtain ⟨m, hm, hi⟩ := keepsToFootprint c hc s
    have ho := Part.outside_of hm (pending_notMem_footprint c)
    simp only [Part.outside, Part.isMem, Part.idx, Bool.false_eq_true, if_false, Bool.and_eq_true, Bool.not_eq_true'] at ho
    exact (hi _ (Stables.same (f := .pending) s rfl ho.1 (Or.inl rfl)) rfl).holds t e

/-- Settles O5: an idle block keeps its state, and a command answers on each of its branches and leaves the queue. -/
theorem everyStepGoesOn : Obligations.EveryStepGoesOn := by
  refine ⟨fun s => ?_, fun s t c rest hs e => ?_⟩
  · unfold State.goesOn step
    split
    · exact goesOn_next s
    · exact exec_goesOn _ _
  · rw [step, hs] at e
    exact exec_pending e

/-- Settles O1: what a step does with the queue, and that a command leaves the queue's rest to the next step. -/
theorem stepRunsTheFrontCommand : Obligations.StepRunsTheFrontCommand := by
  refine ⟨fun c s rest => rfl, fun s h => by rw [step, h], fun c d s t rest hs ht => ?_⟩
  have hq : t.pending = d :: rest := exec_pending ht
  constructor
  · rw [step, hs]
    exact ht
  · rw [step, hq]

end Sys2Proof.Machine
end

section
/-! Conditions that are reported once per run of steps (R388). -/

namespace Sys2Proof.Machine
set_option Elab.async false

/-- The state at a step. -/
def State.atStep (s : State) (n : Nat) : State := { s with step := { s.step with number := n } }

/-- The step of the state noted as one in which a condition held. -/
def State.noteRun (s : State) (k : Nat) : State := { s with ev := { s.ev with runs := mput s.ev.runs k s.step.number } }

/-- From one state to another only records of one event were raised, in the steps listed; the runs have gone on. -/
structure State.RunRaised (code detail : Nat) (s t : State) (ns : List Nat) : Prop where
  running : t.step.running = s.step.running
  ev : ∃ l, t.ev = { s.ev with raised := s.ev.raised ++ l, runs := t.ev.runs } ∧ l.map (·.stepNo) = ns ∧
    ∀ r ∈ l, r.code = code ∧ r.detail = detail % 2 ^ 64

namespace State.RunRaised
variable {code detail : Nat} {s t u : State} {ms ns : List Nat}

theorem refl : State.RunRaised code detail s s [] := ⟨rfl, [], by simp⟩

theorem trans (h : State.RunRaised code detail s t ms) (k : State.RunRaised code detail t u ns) :
    State.RunRaised code detail s u (ms ++ ns) := by
  obtain ⟨hr, l, hl, hm, hc⟩ := h
  obtain ⟨kr, l', kl, km, kc⟩ := k
  refine ⟨kr.trans hr, l ++ l', ?_, by rw [List.map_append, hm, km], fun r hr => (List.mem_append.mp hr).elim (hc r) (kc r)⟩
  rw [kl, hl, List.append_assoc]

end State.RunRaised

/-- An event of a running node joins the records of its step. -/
theorem evU_ev {s : State} (hr : s.step.running = true) (code loc : Nat) (usn : Option (Nat × Nat)) (detail : Nat) :
    (s.evU code loc usn detail).ev = { s.ev with raised := s.ev.raised ++ [s.mkEv code loc usn detail] } := by
  simp only [State.evU, State.evBy, State.bump_ev, hr, if_true]
  rfl

theorem State.RunRaised.evU {s : State} (hr : s.step.running = true) (code loc detail : Nat) :
    State.RunRaised code detail s (s.evU code loc none detail) [s.step.number] := by
  refine ⟨by rw [State.evU_step], [s.mkEv code loc none detail], by rw [evU_ev hr], ?_, ?_⟩
  · simp [State.mkEv, State.evStep, hr]
  · simp [State.mkEv]

/-! ### The steps that follow none of a list -/

theorem none_follows {n : Nat} {l : List Nat} (h : ∀ m ∈ l, n ≤ m) : (l.any fun m => m + 1 == n) = false := by
  rw [List.any_eq_false]
  intro m hm
  have := h m hm
  simp only [beq_iff_eq]
  omega

/-- The first of an ascending list follows none of it. -/
theorem filter_follows_none {n : Nat} {l : List Nat} (hs : (n :: l).Pairwise (· < ·)) :
    (n :: l).filter (fun x => !(n :: l).any fun m => m + 1 == x) = n :: l.filter fun x => !(n :: l).any fun m => m + 1 == x := by
  have hn : ((n :: l).any fun m => m + 1 == n) = false :=
    none_follows (List.forall_mem_cons.mpr ⟨Nat.le_refl n, fun m hm => Nat.le_of_lt ((List.pairwise_cons.mp hs).1 m hm)⟩)
  rw [List.filter_cons, hn]
  rfl

/-- After a step before the list, its first follows that step or none, and the others follow one of the list or none. -/
theorem filter_follows {m n : Nat} {l : List Nat} (hs : (m :: n :: l).Pairwise (· < ·)) :
    (n :: l).filter (fun x => !(m :: n :: l).any fun m => m + 1 == x) =
      (if m + 1 < n then [n] else []) ++ l.filter fun x => !(n :: l).any fun m => m + 1 == x := by
  obtain ⟨hm, hns⟩ := List.pairwise_cons.mp hs
  have hmn := hm n (List.mem_cons_self ..)
  have hl : ∀ x ∈ l, (m + 1 == x) = false := fun x hx => by
    have := (List.pairwise_cons.mp hns).1 x hx
    exact beq_false_of_ne (by omega)
  have hn : ((n :: l).any fun m => m + 1 == n) = false :=
    none_follows (List.forall_mem_cons.mpr ⟨Nat.le_refl n, fun x hx => Nat.le_of_lt ((List.pairwise_cons.mp hns).1 x hx)⟩)
  have hrest : l.filter (fun x => !(m :: n :: l).any fun m => m + 1 == x) = l.filter fun x => !(n :: l).any fun m => m + 1 == x :=
    List.filter_congr fun x hx => by rw [List.any_cons, hl x hx, Bool.false_or]
  rw [List.filter_cons, hrest, List.any_cons, hn, Bool.or_false]
  by_cases h : m + 1 < n
  · have hne : (m + 1 == n) = false := beq_false_of_ne (by omega)
    rw [hne, if_pos h]; rfl
  · have he : (m + 1 == n) = true := beq_iff_eq.mpr (by omega)
    rw [he, if_neg h]; rfl

/-! ### Runs (R388) -/

section
variable (code unit loc detail : Nat)

/-- The step in which a condition held is noted, and it is reported unless it held in the step before. -/
theorem raiseRun_eq (s : State) :
    s.raiseRun code unit loc none detail =
      if (mget s.ev.runs (code * 2 ^ 64 + unit)).all fun m => decide (m + 1 < s.step.number) then
        (s.noteRun (code * 2 ^ 64 + unit)).evU code loc none detail
      else s.noteRun (code * 2 ^ 64 + unit) := by
  cases h : mget s.ev.runs (code * 2 ^ 64 + unit) <;> simp only [State.raiseRun, h] <;> rfl

/-- A step in which the condition holds. -/
theorem raiseRun_atStep {s : State} (hr : s.step.running = true) (n : Nat) :
    let t := (s.atStep n).raiseRun code unit loc none detail
    mget t.ev.runs (code * 2 ^ 64 + unit) = some n ∧ State.RunRaised code detail s t
      (if (mget s.ev.runs (code * 2 ^ 64 + unit)).all fun m => decide (m + 1 < n) then [n] else []) := by
  have hnote : State.RunRaised code detail s ((s.atStep n).noteRun (code * 2 ^ 64 + unit)) [] := ⟨rfl, [], by simp; rfl⟩
  have hlast : mget ((s.atStep n).noteRun (code * 2 ^ 64 + unit)).ev.runs (code * 2 ^ 64 + unit) = some n := mget_mput ..
  dsimp only
  rw [raiseRun_eq, show (s.atStep n).ev = s.ev from rfl, show (s.atStep n).step.number = n from rfl]
  split
  · exact ⟨by rw [State.evU_ev_runs]; exact hlast, hnote.trans (.evU (hnote.running.trans hr) code loc detail)⟩
  · exact ⟨hlast, hnote⟩

/-- Over later steps of an ascending list the condition is reported in those that follow none of the list. -/
theorem raiseRun_foldl {s : State} (hr : s.step.running = true) {m : Nat} {steps : List Nat}
    (hm : mget s.ev.runs (code * 2 ^ 64 + unit) = some m) (hs : (m :: steps).Pairwise (· < ·)) :
    State.RunRaised code detail s (steps.foldl (fun u n => (u.atStep n).raiseRun code unit loc none detail) s)
      (steps.filter fun n => !(m :: steps).any fun m => m + 1 == n) := by
  induction steps generalizing s m with
  | nil => exact .refl
  | cons n steps ih =>
    obtain ⟨hlast, hone⟩ := raiseRun_atStep code unit loc detail hr n
    have hrest := ih (hone.running.trans hr) hlast (List.pairwise_cons.mp hs).2
    rw [filter_follows hs]
    rw [hm, Option.all_some] at hone
    simpa using hone.trans hrest

end

/-- Settles O8: the first step of the list is reported, and of the later ones those that follow none of it. -/
theorem oncePerRunMeansItsFirstStep : Obligations.OncePerRunMeansItsFirstStep := by
  intro s code unit loc detail steps hr hs hold at_ t
  suffices State.RunRaised code detail s t (steps.filter fun n => !steps.any fun m => m + 1 == n) by
    obtain ⟨-, l, hl, hn, hc⟩ := this
    rw [hl]
    exact ⟨by rw [List.map_append, hn], fun r h => hc r (by simpa using h), rfl⟩
  cases steps with
  | nil => exact .refl
  | cons n steps =>
    obtain ⟨hlast, hone⟩ := raiseRun_atStep code unit loc detail hr n
    have hrest := raiseRun_foldl code unit loc detail (hone.running.trans hr) hlast hs
    have hfresh : ((mget s.ev.runs (code * 2 ^ 64 + unit)).all fun m => decide (m + 1 < n)) = true := by
      cases h : mget s.ev.runs (code * 2 ^ 64 + unit) with
      | none => rfl
      | some m => exact decide_eq_true (hold n (List.mem_cons_self ..) m h)
    rw [hfresh] at hone
    rw [filter_follows_none hs]
    exact hone.trans hrest

end Sys2Proof.Machine
end

section
/-! The supervision check of a commit and POLICY.GRANT_SOURCE (R329, R332, R341). -/

namespace Sys2Proof.Machine
set_option Elab.async false

/-- What the supervision check says of one entry. -/
def CommitCtx.denial (c : CommitCtx) (e : Nat × Bytes) : Option Reject :=
  let mirror := match c.src with | .qp _ => true | .mac _ => false
  let k := dkey (e.1 / 256) (e.1 % 256)
  if mirror && (e.1 / 256 == 0x1031 || e.1 / 256 == 0x2100 || k == dkey 0x9000 5) then
    some ⟨7, 5, k, k, 0, 0, if e.1 / 256 = 0x9000 then [(0x1021, 0)] else []⟩
  else if mirror && e.1 / 256 == 0x2110 && c.s.comN 0x2100 1 == 1 then some ⟨7, 5, k, dkey 0x2100 1, 0, 0, []⟩
  else if (entryBars (e.1 / 256) (e.1 % 256) e.2 (c.s.com (e.1 / 256) (e.1 % 256))).any fun b => !bit c.s.node.bars b then
    some ⟨7, 5, k, k, 0, 0, []⟩
  else if c.s.pwr.boot == .halt && (k == dkey 0xC020 2 || k == dkey 0xC020 3 || k == dkey 0xC020 6 ||
      inRun (e.1 / 256) 0x3100 512 || inRun (e.1 / 256) 0x5100 256) then some ⟨7, 5, k, k, 0, 0, [(0xA042, 0)]⟩
  else none

theorem supervisionFail_eq (c : CommitCtx) : c.supervisionFail = c.vals.findSome? c.denial := rfl

theorem dkey_entry (k : Nat) : dkey (k / 256) (k % 256) = k := by unfold dkey; omega

theorem dkey_grant_ne (n : Nat) {i j : Nat} (hi : i ≠ 0x2110) (hj : j < 256) : dkey 0x2110 (n % 256) ≠ dkey i j := by
  unfold dkey; omega

/-- A grant lies under no Bar. -/
theorem entryBars_grant (sub : Nat) (v old : Bytes) : entryBars 0x2110 sub v old = [] := by
  simp [entryBars, inRun]

section
variable {c : CommitCtx} {e : Nat × Bytes}

/-- A grant from the mirror is denied. -/
theorem denial_grant {q : Nat} (hsrc : c.src = .qp q) (hp : c.s.comN 0x2100 1 = 1) (he : e.1 / 256 = 0x2110) :
    c.denial e = some ⟨7, 5, e.1, dkey 0x2100 1, 0, 0, []⟩ := by
  have hk : e.1 = dkey 0x2110 (e.1 % 256) := by rw [← he, dkey_entry]
  have hne : e.1 ≠ dkey 0x9000 5 := hk ▸ dkey_grant_ne _ (by decide) (by decide)
  simp [CommitCtx.denial, hsrc, hp, he, ← hk, hne]

/-- An entry that asks for no supervision, whose Bars live, is denied in a halt only. -/
theorem denial_none (hb : c.s.pwr.boot ≠ .halt) (h1 : e.1 / 256 ≠ 0x1031) (h2 : e.1 / 256 ≠ 0x2100) (h3 : e.1 ≠ dkey 0x9000 5)
    (hg : e.1 / 256 ≠ 0x2110)
    (hbars : ∀ b ∈ entryBars (e.1 / 256) (e.1 % 256) e.2 (c.s.com (e.1 / 256) (e.1 % 256)), bit c.s.node.bars b = true) :
    c.denial e = none := by
  have hany : ((entryBars (e.1 / 256) (e.1 % 256) e.2 (c.s.com (e.1 / 256) (e.1 % 256))).any fun b => !bit c.s.node.bars b) = false := by
    simpa using hbars
  simp [CommitCtx.denial, h1, h2, h3, hg, dkey_entry, hany, hb]

/-- A grant from the field network is not denied. -/
theorem denial_grant_field {m : Nat} (hsrc : c.src = .mac m) (he : e.1 / 256 = 0x2110) : c.denial e = none := by
  simp [CommitCtx.denial, hsrc, he, entryBars_grant, inRun, dkey_grant_ne]

end

/-- A check that fails fails the set. -/
theorem fail_isSome_of_supervision {c : CommitCtx} (h : c.supervisionFail.isSome = true) : c.fail.isSome = true := by
  simp [CommitCtx.fail, h]

/-- Settles O9: the first grant of the set is denied to the mirror, whatever else it holds, and to the field network none is. -/
theorem grantsOnlyFromTheFieldNetwork : Obligations.GrantsOnlyFromTheFieldNetwork := by
  intro c hp ⟨e, he, hgrant⟩
  have hdenied (q) (hsrc : c.src = .qp q) : c.supervisionFail.isSome = true := by
    rw [supervisionFail_eq, List.findSome?_isSome_iff]
    exact ⟨e, he, by rw [denial_grant hsrc hp hgrant]; rfl⟩
  refine ⟨fun q hsrc => ⟨fail_isSome_of_supervision (hdenied q hsrc), fun hr hc ho hf hb hall => ?_⟩, fun m hsrc hall => ?_⟩
  · have hsome : c.supervisionFail.isSome = true := hdenied q hsrc
    obtain ⟨r, hr'⟩ := Option.isSome_iff_exists.mp hsome
    obtain ⟨x, hx, hxr⟩ := List.exists_of_findSome?_eq_some (supervisionFail_eq c ▸ hr')
    obtain ⟨h1, h2, h3, hbars⟩ := hall x hx
    have hg : x.1 / 256 = 0x2110 := by
      by_contra hg
      rw [denial_none hb h1 h2 h3 hg hbars] at hxr
      cases hxr
    rw [denial_grant hsrc hp hg] at hxr
    refine ⟨x.1, hg, ?_⟩
    simp [CommitCtx.fail, hr, hc, ho, hf, hr', hxr]
  · rw [supervisionFail_eq, List.findSome?_eq_none_iff]
    exact fun e he => denial_grant_field hsrc (hall e he)

end Sys2Proof.Machine
end

section
/-! The tilling commands that write rows: NOP, ROW_COPY, ROW_CLEAR, WRITE_ROW, EW_ADD, EW_MUL, EW_ACT and the bitwise commands (R252, R253,
R255, R256, R261). -/

namespace Sys2Proof.Machine
set_option Elab.async false

/-! ### Lengths -/

theorem readN_length (m : List (Nat × Byte)) (a n : Nat) : (Memory.readN m a n).length = n := by
  induction n generalizing a with
  | zero => rfl
  | succ n ih => rw [Memory.readN, List.length_cons, ih]

theorem readN_congr {m m' : List (Nat × Byte)} {a n : Nat} (h : ∀ x, a ≤ x → x < a + n → Memory.read m' x = Memory.read m x) :
    Memory.readN m' a n = Memory.readN m a n := by
  induction n generalizing a with
  | zero => rfl
  | succ n ih => rw [Memory.readN, Memory.readN, h a (Nat.le_refl a) (by omega), ih fun x h1 h2 => h x (by omega) (by omega)]

theorem padTo_of_length {n : Nat} {b : Bytes} (h : b.length = n) : padTo n b = b := by
  subst h
  simp [padTo, zeros]

theorem zeros_length (n : Nat) : (zeros n).length = n := List.length_replicate

theorem blockRow_length (t : Tensor) (img : Bytes) (p : TillPlace) (bank r : Nat) : (blockRow t img p bank r).length = 1024 := by
  unfold blockRow
  dsimp only
  split
  · split
    · exact padTo_length ..
    · exact zeros_length _
  · exact padTo_length ..

/-- A row holds 1,024 bytes (R242). -/
theorem row_length (s : State) (g : GroupId) (bank r : Nat) : (s.row g bank r).length = 1024 := by
  unfold State.row
  split
  · exact zeros_length _
  split
  · exact List.length_replicate
  cases hb : s.bitmapRow g bank r with
  | some x =>
    obtain ⟨y, -, rfl⟩ := Option.map_eq_some_iff.mp hb
    exact padTo_length ..
  | none =>
    cases hp : s.placeRow g bank r with
    | none => exact readN_length ..
    | some x =>
      obtain ⟨p, -, hp⟩ := Option.bind_eq_some_iff.mp hp
      obtain ⟨m, -, hp⟩ := Option.bind_eq_some_iff.mp hp
      obtain ⟨t, -, rfl⟩ := Option.map_eq_some_iff.mp hp
      exact blockRow_length ..

theorem chunks_length (n k : Nat) (b : Bytes) (hn : 0 < n) (h : b.length = n * k) : (chunks n k b).length = k := by
  induction k generalizing b with
  | zero => rfl
  | succ k ih =>
    have hne : b.isEmpty = false := by
      rw [List.isEmpty_eq_false_iff, ← List.length_pos_iff, h]
      exact Nat.mul_pos hn (Nat.succ_pos k)
    have hrest : (b.drop n).length = n * k := by rw [List.length_drop, h, Nat.mul_succ]; omega
    simp only [chunks, hne, Bool.false_eq_true, if_false, List.length_cons, ih _ hrest]

theorem splitAll_length {n k : Nat} {b : Bytes} (hn : 0 < n) (h : b.length = n * k) : (splitAll n b).length = k := by
  have hk : ceilDiv b.length (max n 1) = k := by
    have h1 : n * k + max n 1 - 1 = (n - 1) + n * k := by omega
    rw [ceilDiv, h, h1, max_eq_left (by omega), Nat.add_mul_div_left _ _ hn, Nat.div_eq_of_lt (by omega), Nat.zero_add]
  rw [splitAll, hk]
  exact chunks_length n k b hn h

theorem elemBytes_pos (e : Nat) : 0 < elemBytes e := by
  unfold elemBytes
  split
  · decide
  · split <;> decide

theorem elemBytes_dvd (e : Nat) : elemBytes e ∣ 1024 := by
  unfold elemBytes
  split
  · decide
  · split <;> decide

theorem elemsOf_length (e : Nat) {b : Bytes} (h : b.length = 1024) : (elemsOf e b).length = 1024 / elemBytes e := by
  rw [elemsOf, List.length_map]
  exact splitAll_length (elemBytes_pos e) (h.trans (Nat.mul_div_cancel' (elemBytes_dvd e)).symm)

theorem rowOfElems_length {e : Nat} {l : List Int} (h : l.length = 1024 / elemBytes e) : (rowOfElems e l).length = 1024 := by
  rw [rowOfElems, List.length_flatMap]
  simp only [leBytes_length, List.map_const', List.sum_replicate, h, smul_eq_mul]
  exact Nat.div_mul_cancel (elemBytes_dvd e)

theorem maj3_length {a b c : Bytes} (ha : a.length = 1024) (hb : b.length = 1024) (hc : c.length = 1024) :
    (maj3 a b c).length = 1024 := by
  simp [maj3, ha, hb, hc]

/-! ### Writes of rows -/

/-- The rows that may be written; all else that rows are read from, the FIFO and the count of commands done are as before. -/
structure State.WritesRows (g : GroupId) (A : Nat → Nat → Prop) (s u : State) : Prop where
  reads : s.ReadsAs { u with mem := s.mem }
  fifo : (u.tg g).fifo = (s.tg g).fifo
  done : (u.tg g).done = (s.tg g).done
  wf : Memory.wf s.mem = true → Memory.wf u.mem = true
  kept : Memory.wf s.mem = true → ∀ a, (∀ b r, A b r → a < rowAddr g b r ∨ rowAddr g b r + 1024 ≤ a) →
    Memory.read u.mem a = Memory.read s.mem a

/-- Rows of one group lie apart. -/
theorem rowAddr_apart {g : GroupId} {b r c q : Nat} (h : b ≠ c ∨ r % 4096 ≠ q % 4096) {a : Nat} (h1 : rowAddr g b r ≤ a)
    (h2 : a < rowAddr g b r + 1024) : a < rowAddr g c q ∨ rowAddr g c q + 1024 ≤ a := by
  have hr := Nat.mod_lt r (show 0 < 4096 by decide)
  have hq := Nat.mod_lt q (show 0 < 4096 by decide)
  unfold rowAddr at *
  omega

section
variable {g : GroupId} {A B : Nat → Nat → Prop} {s u v : State}

theorem State.WritesRows.refl : s.WritesRows g A s := ⟨.refl s, rfl, rfl, id, fun _ _ _ => rfl⟩

theorem State.WritesRows.trans (h : s.WritesRows g A u) (k : u.WritesRows g A v) : s.WritesRows g A v where
  reads := h.reads.trans ⟨rfl, k.reads.tier, k.reads.models, k.reads.shards, k.reads.active, k.reads.fars, k.reads.stubs, k.reads.lens,
    k.reads.base, k.reads.reg⟩
  fifo := k.fifo.trans h.fifo
  done := k.done.trans h.done
  wf w := k.wf (h.wf w)
  kept w a ha := (k.kept (h.wf w) a ha).trans (h.kept w a ha)

theorem State.WritesRows.mono (hAB : ∀ b r, A b r → B b r) (h : s.WritesRows g A u) : s.WritesRows g B u :=
  { h with kept := fun w a ha => h.kept w a fun b r hA => ha b r (hAB b r hA) }

/-- A row reads as before where the rows that may be written are others. -/
theorem State.WritesRows.row (h : s.WritesRows g A u) (w : Memory.wf s.mem = true) {b r : Nat}
    (ho : ∀ c q, A c q → b ≠ c ∨ r % 4096 ≠ q % 4096) : u.row g b r = s.row g b r := by
  have hmem : Memory.readN u.mem (rowAddr g b r) 1024 = Memory.readN s.mem (rowAddr g b r) 1024 :=
    readN_congr fun a h1 h2 => h.kept w a fun c q hA => rowAddr_apart (ho c q hA) h1 h2
  have hb : u.bitmapRow g b r = s.bitmapRow g b r := h.reads.bitmapRow g b r
  have hp : u.placeRow g b r = s.placeRow g b r := h.reads.placeRow g b r
  simp only [State.row, hb, hp, hmem]

theorem modTg_writesRows (s : State) {f : TGroup → TGroup} (hf : ∀ t, (f t).fifo = t.fifo ∧ (f t).done = t.done) :
    s.WritesRows g A (s.modTg g f) :=
  ⟨modTg_readsAs .., by rw [State.tg_modTg, (hf _).1], by rw [State.tg_modTg, (hf _).2], id, fun _ _ _ => rfl⟩

theorem resumeTill_writesRows (s : State) : s.WritesRows g A (s.resumeTill g) := by
  unfold State.resumeTill
  split
  · exact modTg_writesRows s fun _ => ⟨rfl, rfl⟩
  · exact .refl

theorem setMark_writesRows (s : State) (b r m : Nat) : s.WritesRows g A (s.setMark g b r m) := by
  unfold State.setMark
  split
  · exact .refl
  · exact modTg_writesRows s fun _ => ⟨rfl, rfl⟩

theorem putRow_writesRows (s : State) {b r : Nat} (hA : A b r) (d : Bytes) : s.WritesRows g A (s.putRow g b r d) := by
  unfold State.putRow
  split
  · exact .refl
  · exact ⟨.refl s, rfl, rfl, fun w => Memory.wf_writeN w .., fun w a ha =>
      Memory.read_writeN_out w (by rw [padTo_length]; exact ha b r hA)⟩

/-- A work row reads as it was written: no bitmap and no weights lie there. -/
theorem row_putRow_work {b r : Nat} (hr : isWork r = true) (w : Memory.wf s.mem = true) (d : Bytes) :
    (s.putRow g b r d).row g b r = padTo 1024 d := by
  have hclass : rowClass r = 2 ∨ rowClass r = 3 := by simpa [isWork] using hr
  have hread := Memory.readN_writeN (a := rowAddr g b r) (b := padTo 1024 d) w
  rw [padTo_length] at hread
  simp only [State.putRow, State.row, State.bitmapRow, State.placeRow, State.bitmapAt, State.placeAt, if_neg (show ¬ rowClass r ≤ 1 by omega),
    if_neg (show rowClass r ≠ 0 by omega), if_neg (show rowClass r ≠ 1 by omega), if_pos (show rowClass r ≠ 4 by omega)]
  exact hread

end

/-- What a record that ends reads of the rows. -/
theorem endTill_row (u : State) (g : GroupId) (r : Bytes) (n b q : Nat) : (u.endTill g r n).row g b q = u.row g b q := by
  unfold State.endTill
  dsimp only
  split <;> rfl

/-! ### Banks in turn -/

theorem bankList_nodup (r : Bytes) : (bankList r).Nodup := List.nodup_range.map fun _ _ h => Nat.add_left_cancel h

/-- Banks in turn: each starts from its own rows as they stood, and keeps what its own turn left. -/
theorem foldl_banks {g : GroupId} {R : Nat → Prop} {P : Nat → (Nat → Bytes) → Prop} {f : State → Nat → State} {l : List Nat} {s : State}
    (hl : l.Nodup) (w : Memory.wf s.mem = true)
    (hf : ∀ u, ∀ b ∈ l, Memory.wf u.mem = true → (∀ q, u.row g b q = s.row g b q) →
      u.WritesRows g (fun c q => c = b ∧ R q) (f u b) ∧ P b ((f u b).row g b)) :
    s.WritesRows g (fun c q => c ∈ l ∧ R q) (l.foldl f s) ∧ ∀ b ∈ l, P b ((l.foldl f s).row g b) := by
  induction l generalizing s with
  | nil => exact ⟨.refl, fun b hb => absurd hb List.not_mem_nil⟩
  | cons b l ih =>
    obtain ⟨hb, hl⟩ := List.nodup_cons.mp hl
    obtain ⟨hw, hp⟩ := hf s b (List.mem_cons_self ..) w fun _ => rfl
    have hother (c) (hc : c ∈ l) (q) : (f s b).row g c q = s.row g c q :=
      hw.row w fun _ _ h => Or.inl fun e => hb (h.1 ▸ e ▸ hc)
    obtain ⟨hrest, hps⟩ := ih hl (hw.wf w) fun u c hc wu hu => hf u c (List.mem_cons_of_mem _ hc) wu fun q => (hu q).trans (hother c hc q)
    have hkeep : (l.foldl f (f s b)).row g b = (f s b).row g b :=
      funext fun q => hrest.row (hw.wf w) fun _ _ h => Or.inl fun e => hb (e ▸ h.1)
    refine ⟨(hw.mono ?_).trans (hrest.mono ?_), List.forall_mem_cons.mpr ⟨?_, hps⟩⟩
    · rintro _ q ⟨rfl, hq⟩
      exact ⟨List.mem_cons_self .., hq⟩
    · exact fun c q h => ⟨List.mem_cons_of_mem _ h.1, h.2⟩
    · rw [List.foldl_cons, hkeep]
      exact hp

section
variable {s : State} {g : GroupId} {r : Bytes}

/-- The destination of a record that writes rows is a work row. -/
theorem recOk_dst (h : recOk r = true) (hop : u8 r 0 ∈ [0x01, 0x02, 0x03, 0x10, 0x11, 0x12, 0x13, 0x20, 0x21, 0x22]) :
    isWork (rDst r) = true ∧ rDst r < 4096 := by
  simp only [List.mem_cons, List.not_mem_nil, or_false] at hop
  rcases hop with e | e | e | e | e | e | e | e | e | e <;>
    · simp [recOk, e] at h
      tauto

/-- A row written in every bank of a range. -/
theorem eachBank_written (hr : isWork (rDst r) = true) (w : Memory.wf s.mem = true) (m : Nat) (f : Nat → Bytes) :
    s.WritesRows g (fun c q => c ∈ bankList r ∧ q = rDst r) (s.eachBank g r m f) ∧
      ∀ b ∈ bankList r, (s.eachBank g r m f).row g b (rDst r) = padTo 1024 (f b) :=
  foldl_banks (P := fun b row => row (rDst r) = padTo 1024 (f b)) (bankList_nodup r) w fun u b _ wu _ =>
    have hput := putRow_writesRows u (A := fun c q => c = b ∧ q = rDst r) ⟨rfl, rfl⟩ (f b)
    ⟨hput.trans (setMark_writesRows ..), ((setMark_writesRows (A := fun _ _ => False) ..).row (hput.wf wu) fun _ _ h => h.elim).trans
      (row_putRow_work hr wu (f b))⟩

/-- A record that writes rows and ends. -/
theorem runTill_written {op m : Nat} {f : State → Bytes → Nat → Bytes} {x : Nat → Bytes} (w : Memory.wf s.mem = true) (h : s.atTill g op r)
    (hop : op ∈ [0x01, 0x02, 0x03, 0x10, 0x11, 0x12, 0x13, 0x20, 0x21, 0x22]) (hx : ∀ b, f (s.resumeTill g) r b = x b)
    (hlen : ∀ b, (x b).length = 1024) :
    let t := s.runTill g op fun s r => (s.eachBank g r m (f s r), 0)
    s.tillEnds t g r 0 ∧ s.rowWritten t g r x := by
  have hrec := h
  obtain ⟨-, -, -, hok, rfl⟩ := hrec
  have hres : s.WritesRows g (fun c q => c ∈ bankList r ∧ q = rDst r) (s.resumeTill g) := resumeTill_writesRows s
  obtain ⟨hw, hrow⟩ := eachBank_written (recOk_dst hok hop).1 (hres.wf w) m (f (s.resumeTill g) r)
  have hall := hres.trans hw
  dsimp only
  rw [runTill_at_head _ h]
  refine ⟨endTill_ends r 0 hall.fifo hall.done, fun b hb => ?_, fun a ha => ?_⟩
  · rw [endTill_row, hrow b hb, hx, padTo_of_length (hlen b)]
  · rw [(endTill_keeps ..).2.2.2.2]
    refine hall.kept w a ?_
    rintro b _ ⟨hb, rfl⟩
    exact ha b hb

theorem resumeTill_row (s : State) (g : GroupId) (b q : Nat) : (s.resumeTill g).row g b q = s.row g b q := by
  unfold State.resumeTill
  split <;> rfl

end

theorem resumeTill_rowIn (s : State) (g : GroupId) : ((s.resumeTill g).tg g).rowIn = (s.tg g).rowIn := by
  unfold State.resumeTill
  split
  · rw [State.tg_modTg]
  · rfl

/-- Settles O48, command by command. -/
theorem tillingRowCommandsComplete : Obligations.TillingRowCommandsComplete := by
  intro s g r w
  refine ⟨fun h => ?_, fun h => ?_, fun h => ?_, fun h => ?_, fun h => ?_, fun h => ?_, fun h => ?_⟩
  · obtain ⟨hfifo, hdone, -, -, -, hmem⟩ := resumeTill_keeps s g
    refine ⟨_, rfl, ?_⟩
    rw [runTill_at_head _ h]
    exact ⟨endTill_ends r 0 hfifo hdone, (endTill_keeps ..).2.2.2.2.trans hmem⟩
  · exact ⟨_, rfl, runTill_written w h (by decide) (fun b => resumeTill_row ..) fun b => row_length ..⟩
  · exact ⟨_, rfl, runTill_written w h (by decide) (fun b => rfl) fun b => zeros_length _⟩
  · exact ⟨_, rfl, runTill_written w h (by decide) (fun b => by rw [resumeTill_rowIn]) fun b => padTo_length ..⟩
  · refine ⟨_, rfl, runTill_written w h (by decide) (fun b => by simp only [resumeTill_row]) fun b => rowOfElems_length ?_⟩
    simp [elemsOf_length, row_length]
  · refine ⟨_, rfl, runTill_written w h (by decide) (fun b => by simp only [resumeTill_row]) fun b => rowOfElems_length ?_⟩
    simp [elemsOf_length, row_length]
  · refine ⟨_, rfl, runTill_written w h (by decide) (fun b => by simp only [resumeTill_row]) fun b => rowOfElems_length ?_⟩
    simp [elemsOf_length, row_length]

/-! ### Bitwise commands (R255) -/

theorem railsOf_length (op : Nat) {aT aC bT bC : Bytes} (haT : aT.length = 1024) (haC : aC.length = 1024) (hbT : bT.length = 1024)
    (hbC : bC.length = 1024) : (railsOf op aT aC bT bC).1.length = 1024 ∧ (railsOf op aT aC bT bC).2.length = 1024 := by
  have hand {a b : Bytes} (ha : a.length = 1024) (hb : b.length = 1024) : (majAnd a b).length = 1024 :=
    maj3_length ha hb (zeros_length _)
  have hor {a b : Bytes} (ha : a.length = 1024) (hb : b.length = 1024) : (majOr a b).length = 1024 :=
    maj3_length ha hb List.length_replicate
  unfold railsOf
  split
  · exact ⟨hand haT hbT, hor haC hbC⟩
  split
  · exact ⟨hor haT hbT, hand haC hbC⟩
  split
  · exact ⟨haC, haT⟩
  · exact ⟨hor (hand haT hbC) (hand haC hbT), hor (hand haT hbT) (hand haC hbC)⟩

section
variable {s : State} {g : GroupId} {r : Bytes}

/-- The staging rows lie in the bank at work. -/
theorem stage_writesRows (s : State) (b : Nat) : s.WritesRows g (fun c _ => c = b ∧ True) (s.stage g b r) := by
  unfold State.stage
  induction stagingRows r generalizing s with
  | nil => exact .refl
  | cons x l ih =>
    have hfree : s.WritesRows g (fun c _ => c = b ∧ True) { s with freeCtr := s.freeCtr + 1 } :=
      ⟨⟨rfl, rfl, rfl, rfl, rfl, rfl, rfl, rfl, fun _ => rfl, fun _ => rfl⟩, rfl, rfl, id, fun _ _ _ => rfl⟩
    exact ((hfree.trans (putRow_writesRows _ ⟨rfl, trivial⟩ _)).trans (setMark_writesRows ..)).trans (ih _)

/-- The two rails of a bank's destination pair. -/
def State.putPair (s : State) (g : GroupId) (b q : Nat) (x : Bytes × Bytes) : State :=
  (((s.putRow g b q x.1).setMark g b q 1).putRow g b (q + 1) x.2).setMark g b (q + 1) 1

theorem putPair_rows {b q : Nat} (hq : isWork q = true) (hq' : isWork (q + 1) = true) (hne : q % 4096 ≠ (q + 1) % 4096) (x : Bytes × Bytes)
    (w : Memory.wf s.mem = true) : s.WritesRows g (fun c _ => c = b ∧ True) (s.putPair g b q x) ∧
      (s.putPair g b q x).row g b q = padTo 1024 x.1 ∧ (s.putPair g b q x).row g b (q + 1) = padTo 1024 x.2 := by
  have h0 : s.WritesRows g (fun c _ => c = b ∧ True) (s.putRow g b q x.1) := putRow_writesRows s ⟨rfl, trivial⟩ x.1
  have h1 := h0.trans (setMark_writesRows _ b q 1)
  have h2 := putRow_writesRows (g := g) ((s.putRow g b q x.1).setMark g b q 1) (A := fun c p => c = b ∧ p = q + 1) ⟨rfl, rfl⟩ x.2
  have hmark (u : State) (p m : Nat) (wu : Memory.wf u.mem = true) (y : Nat) : (u.setMark g b p m).row g b y = u.row g b y :=
    (setMark_writesRows (A := fun _ _ => False) ..).row wu fun _ _ h => h.elim
  have w1 := h1.wf w
  have w2 := h2.wf w1
  refine ⟨(h1.trans (putRow_writesRows _ ⟨rfl, trivial⟩ x.2)).trans (setMark_writesRows ..), ?_, ?_⟩
  · rw [State.putPair, hmark _ _ _ w2, h2.row w1 fun _ _ h => Or.inr (h.2 ▸ hne), hmark _ _ _ (h0.wf w), row_putRow_work hq w]
  · rw [State.putPair, hmark _ _ _ w2, row_putRow_work hq' w1]

/-- The destination of a bitwise record is a pair of work rows. -/
theorem recOk_pair (h : recOk r = true) (hop : u8 r 0 ∈ [0x10, 0x11, 0x12, 0x13]) :
    isWork (rDst r) = true ∧ isWork (rDst r + 1) = true ∧ rDst r % 4096 ≠ (rDst r + 1) % 4096 := by
  obtain ⟨hwork, -⟩ := recOk_dst h (by simp only [List.mem_cons] at hop ⊢; tauto)
  have heven : rDst r % 2 = 0 := by
    simp only [List.mem_cons, List.not_mem_nil, or_false] at hop
    rcases hop with e | e | e | e <;>
      · simp [recOk, e] at h
        tauto
  have hclass : 2 ≤ rDst r % 512 ∧ rDst r % 512 < 16 := by
    unfold isWork rowClass at hwork
    grind
  refine ⟨hwork, ?_, by omega⟩
  unfold isWork rowClass
  grind

/-- The rails of a record's result in a bank. -/
def State.rails (s : State) (g : GroupId) (op : Nat) (r : Bytes) (b : Nat) : Bytes × Bytes :=
  railsOf op (s.row g b (rA r)) (s.row g b (rA r + 1)) (s.row g b (rB r)) (s.row g b (rB r + 1))

/-- A bitwise command in one bank. -/
def State.bitwiseBank (s : State) (g : GroupId) (op : Nat) (r : Bytes) (b : Nat) : State :=
  (if op = 0x12 then s else s.stage g b r).putPair g b (rDst r) (s.rails g op r b)

theorem rails_congr {u : State} {op b : Nat} (h : ∀ q, u.row g b q = s.row g b q) : u.rails g op r b = s.rails g op r b := by
  simp only [State.rails, h]

theorem rails_length (s : State) (g : GroupId) (op : Nat) (r : Bytes) (b : Nat) :
    (s.rails g op r b).1.length = 1024 ∧ (s.rails g op r b).2.length = 1024 :=
  railsOf_length _ (row_length ..) (row_length ..) (row_length ..) (row_length ..)

/-- A bank's destination pair holds the rails of its own operands. -/
theorem bitwiseBank_rows {op : Nat} (hok : recOk r = true) (hop : u8 r 0 ∈ [0x10, 0x11, 0x12, 0x13]) (b : Nat)
    (w : Memory.wf s.mem = true) :
    s.WritesRows g (fun c _ => c = b ∧ True) (s.bitwiseBank g op r b) ∧
      (s.bitwiseBank g op r b).row g b (rDst r) = (s.rails g op r b).1 ∧
      (s.bitwiseBank g op r b).row g b (rDst r + 1) = (s.rails g op r b).2 := by
  obtain ⟨hd, hd', hne⟩ := recOk_pair hok hop
  have hst : s.WritesRows g (fun c _ => c = b ∧ True) (if op = 0x12 then s else s.stage g b r) := by
    split
    · exact .refl
    · exact stage_writesRows s b
  obtain ⟨hpair, h1, h2⟩ := putPair_rows (g := g) (b := b) hd hd' hne (s.rails g op r b) (hst.wf w)
  obtain ⟨hl1, hl2⟩ := rails_length s g op r b
  rw [padTo_of_length hl1] at h1
  rw [padTo_of_length hl2] at h2
  exact ⟨hst.trans hpair, h1, h2⟩

/-- A bitwise record ends, with the rails of its result in every bank. -/
theorem bitwise_ends {op : Nat} (w : Memory.wf s.mem = true) (h : s.atTill g op r) (hop : op ∈ [0x10, 0x11, 0x12, 0x13]) :
    s.tillEnds (s.bitwise g op) g r 0 ∧ ∀ b ∈ bankList r,
      (s.bitwise g op).row g b (rDst r) = (s.rails g op r b).1 ∧ (s.bitwise g op).row g b (rDst r + 1) = (s.rails g op r b).2 := by
  have hrec := h
  obtain ⟨-, -, -, hok, hrop⟩ := hrec
  have hres : s.WritesRows g (fun c _ => c ∈ bankList r ∧ True) (s.resumeTill g) := resumeTill_writesRows s
  obtain ⟨hw, hrows⟩ := foldl_banks (g := g) (R := fun _ => True) (s := s.resumeTill g) (f := fun u b => u.bitwiseBank g op r b)
    (P := fun b row => row (rDst r) = (s.rails g op r b).1 ∧ row (rDst r + 1) = (s.rails g op r b).2)
    (bankList_nodup r) (hres.wf w) fun u b _ wu hu => by
      rw [← rails_congr fun q => (hu q).trans (resumeTill_row s g b q)]
      exact bitwiseBank_rows hok (hrop ▸ hop) b wu
  have hall := hres.trans hw
  rw [State.bitwise, runTill_at_head _ h]
  refine ⟨endTill_ends r 0 hall.fifo hall.done, fun b hb => ?_⟩
  rw [endTill_row, endTill_row]
  exact hrows b hb

end

/-- Settles O49: each command is the bitwise command of its opcode. -/
theorem bitwiseCommandsKeepTwoRails : Obligations.BitwiseCommandsKeepTwoRails := by
  rintro s g r c op w (⟨rfl, rfl⟩ | ⟨rfl, rfl⟩ | ⟨rfl, rfl⟩ | ⟨rfl, rfl⟩) h
  all_goals exact ⟨_, rfl, bitwise_ends w h (by decide)⟩

end Sys2Proof.Machine
end

section
/-! READ_ROW and MATVEC (R256, R259, R266). -/

namespace Sys2Proof.Machine
set_option Elab.async false

/-! ### What the ends of a record keep -/

/-- The FIFO, the count of commands done and ROW_OUT of a group are as before. -/
structure State.KeepsEngine (g : GroupId) (s u : State) : Prop where
  fifo : (u.tg g).fifo = (s.tg g).fifo
  done : (u.tg g).done = (s.tg g).done
  rowOut : (u.tg g).rowOut = (s.tg g).rowOut

section
variable {g : GroupId} {s u v : State}

theorem State.KeepsEngine.refl : s.KeepsEngine g s := ⟨rfl, rfl, rfl⟩

theorem State.KeepsEngine.trans (h : s.KeepsEngine g u) (k : u.KeepsEngine g v) : s.KeepsEngine g v :=
  ⟨k.fifo.trans h.fifo, k.done.trans h.done, k.rowOut.trans h.rowOut⟩

theorem keepsEngine_of_tills (h : u.tills = s.tills) : s.KeepsEngine g u := by
  have htg : u.tg g = s.tg g := by rw [State.tg, h, State.tg]
  exact ⟨by rw [htg], by rw [htg], by rw [htg]⟩

theorem markRead_keepsEngine (s : State) (b r : Nat) (ok : Bool) : s.KeepsEngine g (s.markRead g b r ok) := by
  have hmark (m : Nat) : s.KeepsEngine g (s.setMark g b r m) := by
    obtain ⟨h1, h2, h3⟩ := setMark_keeps s g b r m
    exact ⟨h1, h2, h3⟩
  unfold State.markRead
  split
  · exact hmark 3
  split
  · exact .refl
  · exact hmark 2

/-- A check touches no group. -/
theorem check_tills (s : State) (c : Chk) (plot code loc : Nat) (tags : List Nat) : (s.check c plot code loc tags).1.tills = s.tills :=
  Inv.same (f := .tills) (fun _ hk h => Inv.check hk h c plot code loc tags) (by decide +kernel)

/-- Nor does one that is counted. -/
theorem checkCounted_tills (s : State) (c : Chk) (plot code loc i k n : Nat) (tags : List Nat) :
    ((if n = 0 then s else s.bump i k n).check c plot code loc tags).1.tills = s.tills := by
  rw [check_tills]
  split <;> rfl

theorem ondieRow_tills (s : State) (b r : Nat) : (s.ondieRow g b r).tills = s.tills :=
  Inv.same (f := .tills) (fun _ hk h => Inv.ondieRow hk h g b r) (by decide +kernel)

theorem layersUe_tills (s : State) (slots : List Nat) : (s.layersUe g slots).tills = s.tills :=
  Inv.same (f := .tills) (fun _ hk h => Inv.layersUe hk h g slots) (by decide +kernel)

/-- The on-die ECC's error stands in ONDIE_UE, whatever is lost for it (R246). -/
theorem ondieUe_ue (s : State) : ((s.ondieUe g).tmReg g).ue = true := by
  rw [State.tmReg, State.ondieUe, State.raise_tier, State.modTm, mgetD_mupd]

theorem layersUe_ue (s : State) (slots : List Nat) : ((s.layersUe g slots).tmReg g).ue = true := by
  have hlose (u : State) (tags : List Nat) : (u.loseAll tags).tier.tm = u.tier.tm := by
    have h : Part.same u (u.loseAll tags) .tierRows := Inv.same (fun _ hk h => Inv.loseAll hk h tags) (by decide +kernel)
    simp only [Part.same, Prod.mk.injEq] at h
    exact h.2.2.2.2.2
  rw [State.tmReg, State.layersUe, hlose]
  exact ondieUe_ue s

theorem ondieRow_ue (s : State) (b r : Nat) : ((s.ondieRow g b r).tmReg g).ue = true := by
  unfold State.ondieRow
  split
  · rw [State.tmReg, State.badBitmap]
    dsimp only
    rw [State.raise_tier]
    exact ondieUe_ue s
  split
  · exact layersUe_ue ..
  · exact ondieUe_ue s

end

theorem endTill_acc (u : State) (g : GroupId) (r : Bytes) (n : Nat) : ((u.endTill g r n).tg g).acc = (u.tg g).acc := by
  unfold State.endTill
  dsimp only
  split <;> simp [State.tg_modTg, tg_bump]

theorem endTill_ue (u : State) (g : GroupId) (r : Bytes) (n : Nat) : ((u.endTill g r n).tmReg g).ue = (u.tmReg g).ue := by
  rw [State.tmReg, (endTill_keeps u g r n).2.2.2.1, State.tmReg]

/-! ### READ_ROW (R256, R266) -/

/-- The twin or complement that a READ_ROW compares its row with. -/
def State.secondRow (s : State) (g : GroupId) (r : Bytes) : Bytes :=
  if rFunc r = 1 then s.row g (rBank0 r ^^^ 1) (rA r) else s.row g (rBank0 r) (rA r + 1)

/-- A read of a dual-rail pair, on the node that holds the rows in ROW_OUT. -/
def State.readRails (s : State) (g : GroupId) (chk : Chk) (r first second : Bytes) : State × Nat :=
  let ok := ((first.zip second).all fun p => p.1 ^^^ p.2 == (0xFF : Byte)) && !Chk.bad chk
  let s2 := (s.markRead g (rBank0 r) (rA r) ok).markRead g (rBank0 r) (rA r + 1) ok
  if ok then (s2, 0)
  else
    let s3 := (s2.bump 0x6021 3 1).raise 0x6021 (locPlot g.stack) 0
    (if s.hostGroup g then s3 else s3.raise 0x3014 (locPlot g.stack) 0, 1)

/-- A read of twins. -/
def State.readTwins (s : State) (g : GroupId) (chk : Chk) (r first second : Bytes) : State × Nat :=
  let c := if first == second then chk else .twice
  let n := Chk.fails c (s.spillUsed g.stack)
  let y := (if n = 0 then s else s.bump 0x6021 5 n).check c g.stack 0x6022 (locPlot g.stack) (s.tillDeps g)
  ((y.1.markRead g (rBank0 r) (rA r) y.2).markRead g (rBank0 r ^^^ 1) (rA r) y.2, if y.2 then 0 else 1)

/-- What a READ_ROW does with its two rows. -/
def State.readRows2 (s : State) (g : GroupId) (chk : Chk) (r first second : Bytes) : State × Nat :=
  let s1 := s.modTg g fun t => { t with rowOut := first ++ second }
  if (Chk.ue chk).isSome ∧ rFunc r ≠ 2 then (s1.ondieRow g (rBank0 r) (rA r), 3)
  else if rFunc r = 0 then s1.readRails g chk r first second
  else if rFunc r = 1 then s1.readTwins g chk r first second
  else (s1, if Chk.bad chk then 1 else 0)

theorem readRow_eq (s : State) (g : GroupId) (chk : Chk) : exec (.readRow ⟨g, chk⟩) s =
    .next (s.runTill g 0x04 fun s r => s.readRows2 g chk r (s.row g (rBank0 r) (rA r)) (s.secondRow g r)) := rfl

section
variable {g : GroupId} (s : State) (chk : Chk) (r first second : Bytes)

theorem readRails_keepsEngine : s.KeepsEngine g (s.readRails g chk r first second).1 := by
  have hmarks (ok : Bool) : s.KeepsEngine g ((s.markRead g (rBank0 r) (rA r) ok).markRead g (rBank0 r) (rA r + 1) ok) :=
    (markRead_keepsEngine ..).trans (markRead_keepsEngine ..)
  unfold State.readRails
  dsimp only
  split
  · exact hmarks _
  split
  · exact (hmarks _).trans (keepsEngine_of_tills rfl)
  · exact (hmarks _).trans (keepsEngine_of_tills rfl)

theorem readTwins_keepsEngine : s.KeepsEngine g (s.readTwins g chk r first second).1 := by
  unfold State.readTwins
  exact ((keepsEngine_of_tills (checkCounted_tills ..)).trans (markRead_keepsEngine ..)).trans (markRead_keepsEngine ..)

/-- A READ_ROW leaves its rows in ROW_OUT. -/
theorem readRows2_rowOut : (((s.readRows2 g chk r first second).1).tg g).fifo = (s.tg g).fifo ∧
    (((s.readRows2 g chk r first second).1).tg g).done = (s.tg g).done ∧
    (((s.readRows2 g chk r first second).1).tg g).rowOut = first ++ second := by
  let s1 := s.modTg g fun t => { t with rowOut := first ++ second }
  have hs1 : s1.tg g = { s.tg g with rowOut := first ++ second } := State.tg_modTg ..
  suffices s1.KeepsEngine g (s.readRows2 g chk r first second).1 by
    obtain ⟨h1, h2, h3⟩ := this
    rw [hs1] at h1 h2 h3
    exact ⟨h1, h2, h3⟩
  unfold State.readRows2
  dsimp only
  split
  · exact keepsEngine_of_tills (ondieRow_tills ..)
  split
  · exact readRails_keepsEngine ..
  split
  · exact readTwins_keepsEngine ..
  · exact .refl

/-! #### Its results -/

variable {s chk r first second}

theorem readRails_ok : (s.readRails g .ok r first second).2 =
    if (first.zip second).all fun p => p.1 ^^^ p.2 == (0xFF : Byte) then 0 else 1 := by
  unfold State.readRails
  dsimp only
  rw [show Chk.bad .ok = false from rfl, Bool.not_false, Bool.and_true]
  split <;> rfl

theorem readRails_bad (h : Chk.bad chk = true) : (s.readRails g chk r first second).2 = 1 := by
  simp only [State.readRails, h, Bool.not_true, Bool.and_false, Bool.false_eq_true, if_false]

theorem readTwins_ok : (s.readTwins g .ok r first second).2 = if first = second then 0 else 1 := by
  unfold State.readTwins
  by_cases h : first = second
  · simp [h]
  · simp [h, State.check]

theorem readTwins_twice : (s.readTwins g .twice r first second).2 = 1 := by
  simp [State.readTwins, State.check]

/-- A read outside the code of R239 under an uncorrected error has result 3, which ONDIE_UE keeps. -/
theorem readRows2_ue {page : Nat} (h : rFunc r ≠ 2) : (s.readRows2 g (.readUe page) r first second).2 = 3 ∧
    (((s.readRows2 g (.readUe page) r first second).1).tmReg g).ue = true := by
  rw [State.readRows2, if_pos ⟨rfl, h⟩]
  exact ⟨rfl, ondieRow_ue ..⟩

theorem readRows2_rails (hu : Chk.ue chk = none) (h : rFunc r = 0) : (s.readRows2 g chk r first second).2 =
    ((s.modTg g fun t => { t with rowOut := first ++ second }).readRails g chk r first second).2 := by
  simp [State.readRows2, hu, h]

theorem readRows2_twins (hu : Chk.ue chk = none) (h : rFunc r = 1) : (s.readRows2 g chk r first second).2 =
    ((s.modTg g fun t => { t with rowOut := first ++ second }).readTwins g chk r first second).2 := by
  simp [State.readRows2, hu, h]

theorem readRows2_coded (h : rFunc r = 2) : (s.readRows2 g chk r first second).2 = if Chk.bad chk then 1 else 0 := by
  simp [State.readRows2, h]

end

/-- READ_ROW of a record at the front of an engine's FIFO. -/
theorem readRow_runs {s : State} {g : GroupId} {r : Bytes} (h : s.atTill g 0x04 r) (chk : Chk) :
    let x := (s.resumeTill g).readRows2 g chk r (s.row g (rBank0 r) (rA r)) (s.secondRow g r)
    exec (.readRow ⟨g, chk⟩) s = .next (x.1.endTill g r x.2) := by
  have hsecond : (s.resumeTill g).secondRow g r = s.secondRow g r := by simp only [State.secondRow, resumeTill_row]
  rw [readRow_eq, runTill_at_head _ h]
  simp only [resumeTill_row, hsecond]

/-! ### MATVEC (R259, R266) -/

/-- The input vectors in the X latch, and their products with the stored column sums. -/
def State.tillVectors (s : State) (g : GroupId) (r : Bytes) : List (List Int) :=
  (List.range (rVec r)).map fun v => (sl (padTo 32768 (s.tg g).xIn) (v * rK r) (rK r)).map (·.toInt)
def State.storedSums (s : State) (g : GroupId) (r : Bytes) : List Int :=
  (s.tillVectors g r).map fun xv =>
    dotInt ((splitAll 8 ((s.rowsBytes g (rBank0 r) (sumRows r)).take (8 * rK r))).map fun b => sInt 64 (leNat b)) xv

/-- What a MATVEC does. -/
def State.multiply (s : State) (g : GroupId) (chk : Chk) (r : Bytes) : State × Nat :=
  let ys := s.products g r (s.tillVectors g r)
  let real := s.storedSums g r == sumsOf ys
  let bad := fun (s : State) => (s.spoilt ys).2.putProducts g (s.spoilt ys).1 (sumsOf (s.spoilt ys).1)
  if (Chk.ue chk).isSome then ((bad s).layersUe g (s.layersOf g r), 3)
  else
    let c := if real then chk else .twice
    let n := Chk.fails c (s.spillUsed g.stack)
    let y := (if n = 0 then s else s.bump 0x6021 4 n).check c g.stack 0x6020 (locPlot g.stack) (s.tillDeps g)
    (if real && !y.2 then bad y.1 else y.1.putProducts g ys (sumsOf ys), if y.2 then 0 else 1)

theorem matvec_eq (s : State) (g : GroupId) (chk : Chk) :
    exec (.matvec g chk) s = .next (s.runTill g 0x30 fun s r => s.multiply g chk r) := rfl

section
variable {s : State} {g : GroupId} {r : Bytes}

theorem multiply_agrees (h : s.storedSums g r = sumsOf (s.products g r (s.tillVectors g r))) :
    s.multiply g .ok r = (s.putProducts g (s.products g r (s.tillVectors g r)) (sumsOf (s.products g r (s.tillVectors g r))), 0) := by
  have hreal : (s.storedSums g r == sumsOf (s.products g r (s.tillVectors g r))) = true := beq_iff_eq.mpr h
  rw [State.multiply, hreal]
  rfl

/-- Products that disagree with the column sums are written all the same. -/
theorem multiply_disagrees (h : s.storedSums g r ≠ sumsOf (s.products g r (s.tillVectors g r))) {chk : Chk} (hu : Chk.ue chk = none) :
    ∃ y : State, y.tills = s.tills ∧
      s.multiply g chk r = (y.putProducts g (s.products g r (s.tillVectors g r)) (sumsOf (s.products g r (s.tillVectors g r))), 1) := by
  have hreal : (s.storedSums g r == sumsOf (s.products g r (s.tillVectors g r))) = false := beq_false_of_ne h
  refine ⟨_, checkCounted_tills s .twice g.stack 0x6020 (locPlot g.stack) 0x6021 4 (Chk.fails .twice (s.spillUsed g.stack))
    (s.tillDeps g), ?_⟩
  rw [State.multiply, hreal, hu]
  rfl

/-- A weight with an uncorrected error spoils the products. -/
theorem multiply_ue (page : Nat) : ∃ (y : State) (zs : List (List Int)) (slots : List Nat), y.tills = s.tills ∧
    s.multiply g (.readUe page) r = ((y.putProducts g zs (sumsOf zs)).layersUe g slots, 3) :=
  ⟨(s.spoilt (s.products g r (s.tillVectors g r))).2, _, _, rfl, rfl⟩

/-- The group after its products. -/
theorem putProducts_tg (s : State) (ys : List (List Int)) (sums : List Int) : ((s.putProducts g ys sums).tg g) =
    { s.tg g with
      acc := ys.flatten, yOut := overlay (padTo 8192 (s.tg g).yOut) 0 (ys.flatMap fun y => y.flatMap fun v => leBytes 4 (ofSInt 32 v))
      sumY := overlay (padTo 128 (s.tg g).sumY) 0 (sums.flatMap fun v => leBytes 8 (ofSInt 64 v)) } := State.tg_modTg ..

/-- A MATVEC that leaves products in its group. -/
theorem putProducts_ends {y : State} (hy : y.tills = s.tills) (ys : List (List Int)) (sums : List Int) (n : Nat) :
    let t := (y.putProducts g ys sums).endTill g r n
    s.tillEnds t g r n ∧ t.mem = y.mem ∧ (t.tg g).acc = ys.flatten ∧
      (t.tg g).yOut = overlay (padTo 8192 (s.tg g).yOut) 0 (ys.flatMap fun y => y.flatMap fun v => leBytes 4 (ofSInt 32 v)) ∧
      (t.tg g).sumY = overlay (padTo 128 (s.tg g).sumY) 0 (sums.flatMap fun v => leBytes 8 (ofSInt 64 v)) := by
  have htg : y.tg g = s.tg g := by rw [State.tg, hy, State.tg]
  have hput := putProducts_tg (g := g) y ys sums
  rw [htg] at hput
  obtain ⟨-, hyOut, hsumY, -, hmem⟩ := endTill_keeps (y.putProducts g ys sums) g r n
  refine ⟨endTill_ends r n (by rw [hput]) (by rw [hput]), hmem, ?_, ?_, ?_⟩
  · rw [endTill_acc, hput]
  · rw [hyOut, hput]
  · rw [hsumY, hput]

theorem resumeTill_readsAs (s : State) (g : GroupId) : s.ReadsAs (s.resumeTill g) := by
  unfold State.resumeTill
  split
  · exact modTg_readsAs ..
  · exact .refl s

/-- MATVEC of a record at the front of an engine's FIFO. -/
theorem matvec_runs (h : s.atTill g 0x30 r) (chk : Chk) : let u := s.resumeTill g
    exec (.matvec g chk) s = .next ((u.multiply g chk r).1.endTill g r (u.multiply g chk r).2) ∧
      u.tillVectors g r = s.tillVectors g r ∧ u.storedSums g r = s.storedSums g r ∧ (∀ xs, u.products g r xs = s.products g r xs) := by
  obtain ⟨-, -, hx, -, -, -⟩ := resumeTill_keeps s g
  have hreads := resumeTill_readsAs s g
  have hvec : (s.resumeTill g).tillVectors g r = s.tillVectors g r := by simp only [State.tillVectors, hx]
  refine ⟨?_, hvec, ?_, hreads.products g r⟩
  · rw [matvec_eq, runTill_at_head _ h]
  · have hrow : (s.resumeTill g).row g (rBank0 r) = s.row g (rBank0 r) := funext (hreads.row g _)
    simp only [State.storedSums, hvec, State.rowsBytes, hrow]

theorem tillEnds_of_resumed {t : State} {n : Nat} (h : (s.resumeTill g).tillEnds t g r n) : s.tillEnds t g r n := by
  obtain ⟨h1, h2, h3, h4⟩ := h
  obtain ⟨hfifo, hdone, -, -, -, -⟩ := resumeTill_keeps s g
  exact ⟨hfifo ▸ h1, h2, h3, hdone ▸ h4⟩

end

/-- The result code of a READ_ROW whose check failed twice, outside the code of R239 (R256). -/
theorem readRows2_twice {g : GroupId} {s : State} {r first second : Bytes} (hf : rFunc r = 0 ∨ rFunc r = 1) :
    (s.readRows2 g .twice r first second).2 = 1 := by
  rcases hf with hf | hf
  · rw [readRows2_rails rfl hf, readRails_bad rfl]
  · rw [readRows2_twins rfl hf, readTwins_twice]

theorem recOk_read {r : Bytes} (h : recOk r = true) (hop : u8 r 0 = 0x04) : rFunc r ≤ 2 := by
  simp [recOk, hop] at h
  tauto

/-- Settles O50: the read and its results by FUNC and by what the check says, then the product by what its sums say. -/
theorem readRowAndMatvecComplete : Obligations.ReadRowAndMatvecComplete := by
  constructor
  · intro s g r h a b railed chk
    obtain ⟨hfifo, hdone, hrow⟩ := readRows2_rowOut (g := g) (s.resumeTill g) chk r a b
    refine ⟨_, _, readRow_runs h chk, tillEnds_of_resumed (endTill_ends r _ hfifo hdone), (endTill_keeps ..).1.trans hrow,
      fun hc hf => ?_, fun hc hf => ?_, fun hc hf => ?_, fun hc hf => ?_, fun hc hf => ?_, fun page hc hf => ?_⟩
    · subst hc
      rw [readRows2_rails rfl hf, readRails_ok]
      rfl
    · subst hc
      rw [readRows2_twins rfl hf, readTwins_ok]
      rfl
    · subst hc
      exact readRows2_coded hf
    · rw [readRows2_coded hf, if_pos hc]
    · subst hc
      obtain ⟨-, -, -, hok, hop⟩ := h
      have := recOk_read hok hop
      exact readRows2_twice (by omega)
    · subst hc
      obtain ⟨hn, hue⟩ := readRows2_ue (g := g) (s := s.resumeTill g) (first := a) (second := b) (page := page) hf
      exact ⟨hn, (endTill_ue ..).trans hue⟩
  · intro s g r h x xs ys cs agree holds
    obtain ⟨-, -, -, hyOut, hsumY, hmem⟩ := resumeTill_keeps s g
    have hwritten {y : State} (n : Nat) (hy : y.tills = (s.resumeTill g).tills) :
        s.tillEnds ((y.putProducts g ys (sumsOf ys)).endTill g r n) g r n ∧
          ((y.putProducts g ys (sumsOf ys)).endTill g r n).mem = y.mem ∧ holds ((y.putProducts g ys (sumsOf ys)).endTill g r n) := by
      obtain ⟨hend, hm, hw⟩ := putProducts_ends (g := g) (r := r) hy ys (sumsOf ys) n
      rw [hyOut, hsumY] at hw
      exact ⟨tillEnds_of_resumed hend, hm, hw⟩
    refine ⟨fun ha => ?_, fun ha chk hu => ?_, fun page => ?_⟩
    · obtain ⟨hrun, hvec, href, hprod⟩ := matvec_runs h .ok
      obtain ⟨hend, hm, hw⟩ := hwritten 0 rfl
      rw [multiply_agrees (by rw [hvec, href, hprod]; exact ha), hvec, hprod] at hrun
      exact ⟨_, hrun, hend, hm.trans hmem, hw⟩
    · obtain ⟨hrun, hvec, href, hprod⟩ := matvec_runs h chk
      obtain ⟨y, hy, hmul⟩ := multiply_disagrees (s := s.resumeTill g) (g := g) (r := r) (by rw [hvec, href, hprod]; exact ha) hu
      obtain ⟨hend, -, hw⟩ := hwritten 1 hy
      rw [hmul, hvec, hprod] at hrun
      exact ⟨_, hrun, hend, hw⟩
    · obtain ⟨hrun, -⟩ := matvec_runs h (.readUe page)
      obtain ⟨y, zs, slots, hy, hmul⟩ := multiply_ue (s := s.resumeTill g) (g := g) (r := r) page
      rw [hmul] at hrun
      refine ⟨_, hrun, tillEnds_of_resumed ?_, (endTill_ue ..).trans (layersUe_ue ..)⟩
      have htg : ((y.putProducts g zs (sumsOf zs)).layersUe g slots).tg g = (y.putProducts g zs (sumsOf zs)).tg g := by
        rw [State.tg, layersUe_tills, State.tg]
      have hyg : y.tg g = (s.resumeTill g).tg g := by rw [State.tg, hy, State.tg]
      exact endTill_ends r 3 (by rw [htg, putProducts_tg, hyg]) (by rw [htg, putProducts_tg, hyg])

end Sys2Proof.Machine
end

section
/-! FLASH_READ (R277, R281). -/

namespace Sys2Proof.Machine
set_option Elab.async false

/-- The tracking loop changes a die's read offsets only. -/
theorem trackAll_keeps (d : Die) (n : Nat) (l : List (Nat × Int)) :
    ∃ offsets seen feats, d.trackAll n l = { d with offsets := offsets, seen := seen, feats := feats } := by
  unfold Die.trackAll
  induction l generalizing d with
  | nil => exact ⟨d.offsets, d.seen, d.feats, rfl⟩
  | cons e l ih =>
    have hone : ∃ offsets seen feats, d.track n e = { d with offsets := offsets, seen := seen, feats := feats } := by
      unfold Die.track
      dsimp only
      by_cases h : (if (d.blk n).slc then 1 else d.levels) ≤ e.1
      · exact ⟨d.offsets, d.seen, d.feats, if_pos h⟩
      · exact ⟨_, _, _, if_neg h⟩
    obtain ⟨o, v, f, h⟩ := hone
    obtain ⟨o', v', f', h'⟩ := ih (d.track n e)
    exact ⟨o', v', f', by rw [List.foldl_cons, h', h]⟩

theorem inPeriod_keeps (d : Die) (p : Nat) : (d.inPeriod p).period = p ∧ (d.inPeriod p).spares = d.spares ∧ (d.inPeriod p).bad = d.bad := by
  unfold Die.inPeriod
  split
  · next h => exact ⟨h, rfl, rfl⟩
  · exact ⟨rfl, rfl, rfl⟩

theorem modDie_self {s : State} {k : Nat} {d : Die} (f : Die → Die) (h : mget s.flash.dies k = some d) :
    mget (s.modDie k f).flash.dies k = some (f d) := mget_mmod_self f h

/-- Reads of a die are counted, and nothing else of the map, the requests, the events or the shards changes. -/
structure State.CountsReads (s u : State) (k : Nat) (d : Die) (reads retried : Nat) : Prop where
  map : u.flash.map = s.flash.map
  extents : u.flash.extents = s.flash.extents
  ledger : u.ledger = s.ledger
  ev : u.ev = s.ev
  shards : u.shards = s.shards
  die : ∃ e, mget u.flash.dies k = some e ∧ e.period = s.scrubAge ∧ e.reads = (d.inPeriod s.scrubAge).reads + reads ∧
    e.retried = (d.inPeriod s.scrubAge).retried + retried ∧ e.spares = d.spares ∧ e.bad = d.bad

section
variable {s u : State} {k n : Nat} {d : Die}

theorem tallyReads_counts (hd : mget s.flash.dies k = some d) (reads retried beyond : Nat) :
    s.CountsReads (s.tallyReads k n reads retried beyond) k d reads retried := by
  obtain ⟨hp, hs, hb⟩ := inPeriod_keeps d s.scrubAge
  have hget : mget ((s.bump 0x7011 1 reads).bump 0x7011 2 retried).flash.dies k = some d := hd
  exact ⟨rfl, rfl, rfl, rfl, rfl, _, modDie_self _ hget, hp, rfl, rfl, hs, hb⟩

theorem State.CountsReads.track {reads retried : Nat} (h : s.CountsReads u k d reads retried) (l : List (Nat × Int)) :
    s.CountsReads (u.modDie k fun d => d.trackAll n l) k d reads retried := by
  obtain ⟨hm, hx, hl, he, hs, e, hget, hdie⟩ := h
  obtain ⟨o, v, f, htrack⟩ := trackAll_keeps e n l
  refine ⟨hm, hx, hl, he, hs, e.trackAll n l, modDie_self _ hget, ?_⟩
  rw [htrack]
  exact hdie

end

theorem extentOf_congr {s u : State} (h : u.flash.extents = s.flash.extents) (lpn : Nat) : u.extentOf lpn = s.extentOf lpn := by
  simp only [State.extentOf, h]

/-- A page of an extent that does not decode takes its segment out. -/
theorem pageLost_extent {s : State} {lpn : Nat} {e : Extent} (h : s.extentOf lpn = some e) : s.pageLost lpn = s.segOut e.slot e.seg := by
  simp only [State.pageLost, h]

/-- What a read of a unit that needed `r` retries leaves, beside what its outcome reports. -/
def State.readTally (s : State) (a r : Nat) (d : Die) : State :=
  s.tallyReads (addrDie a) (d.addrBlk a) 1 (if r = 0 then 0 else 1) (if s.liveN 0x7010 8 < r then 1 else 0)

section
variable {s : State} {lpn a : Nat} {d : Die} (hmap : mget s.flash.map lpn = some a) (hd : mget s.flash.dies (addrDie a) = some d)
include hmap hd

theorem execFlashRead_decoded (sector r : Nat) (ones : List (Nat × Int)) (deps : List Nat) :
    exec (.flashRead lpn sector (.decoded r) ones deps) s =
      .next ((s.readTally a r d).modDie (addrDie a) fun e => e.trackAll (d.addrBlk a) ones) := by
  simp only [exec, execFlashRead, State.readTally, hmap, hd, Option.map_some, Option.getD_some]

theorem execFlashRead_late (sector r : Nat) (ones : List (Nat × Int)) (deps : List Nat) :
    exec (.flashRead lpn sector (.late r) ones deps) s =
      .next ((((s.readTally a (max r (s.liveN 0x7010 8 + 1)) d).modDie (addrDie a) fun e => e.trackAll (d.addrBlk a) ones).raise
        0x7020 (dieLoc (addrDie a)) (sector % 8)).loseAll deps) := by
  simp only [exec, execFlashRead, State.readTally, hmap, hd, Option.map_some, Option.getD_some]

/-- A unit that fails in an extent takes the extent's segment out. -/
theorem execFlashRead_failed {e : Extent} (he : s.extentOf lpn = some e) (sector : Nat) (ones : List (Nat × Int)) :
    exec (.flashRead lpn sector .failed ones []) s =
      .next ((((s.readTally a (s.liveN 0x7010 14) d).bump 0x7011 3 1).raise 0x7021 (dieLoc (addrDie a)) (sector % 8)).segOut e.slot e.seg) := by
  have hsame : (((s.readTally a (s.liveN 0x7010 14) d).bump 0x7011 3 1).raise 0x7021 (dieLoc (addrDie a)) (sector % 8)).extentOf lpn =
      some e :=
    (extentOf_congr (by rw [State.raise_flash, State.bump_flash]; exact (tallyReads_counts hd ..).extents) lpn).trans he
  rw [← pageLost_extent hsame]
  simp only [exec, execFlashRead, State.readTally, hmap, hd, Option.map_some, Option.getD_some, List.isEmpty_nil, if_true]

end

/-- Settles O27, outcome by outcome. -/
theorem flashReadsComplete : Obligations.FlashReadsComplete := by
  intro s lpn sector a d ones hmap hd counted
  have hcounts {u : State} {retried : Nat} (h : s.CountsReads u (addrDie a) d 1 retried) : counted u retried :=
    ⟨h.map, h.ledger, h.ev, h.shards, h.die⟩
  have htally (r : Nat) : s.CountsReads (s.readTally a r d) (addrDie a) d 1 (if r = 0 then 0 else 1) := tallyReads_counts hd ..
  refine ⟨fun r deps => ?_, fun r deps => ?_, fun e he hpos => ?_⟩
  · exact ⟨_, execFlashRead_decoded hmap hd .., hcounts ((htally r).track ones)⟩
  · have hlate := (htally (max r (s.liveN 0x7010 8 + 1))).track (n := d.addrBlk a) ones
    rw [if_neg (by omega)] at hlate
    exact ⟨_, execFlashRead_late hmap hd .., hcounts hlate⟩
  · have hfailed := htally (s.liveN 0x7010 14)
    rw [if_neg (by omega)] at hfailed
    exact ⟨_, _, rfl, execFlashRead_failed hmap hd he .., hcounts hfailed, segOut_listed ..⟩

end Sys2Proof.Machine
end

section
/-! Programs of flash pages, and what LOG_WRITE, LOG_PAGE_TIMEOUT, MAP_CHECKPOINT and IMAGE_WRITE make of them (R270, R271, R278, R282). -/

namespace Sys2Proof.Machine
set_option Elab.async false

/-! ### Programs -/

/-- A page of `data` was programmed at an address: beside it only the dies, the slices' use and WRITE_SEQ changed (R270, R271). -/
def State.ProgramsAt (s u : State) (a lpn : Nat) (data : Bytes) : Prop :=
  ∃ used dies units unit, u = { s with step := { s.step with used := used },
                                       flash := { s.flash with dies := dies, units := units, writeSeq := s.flash.writeSeq + 1 } } ∧
    mget units a = some unit ∧ unit.lpn = lpn ∧ unit.data = data

section
variable {s : State} {typ k use_ : Nat} {slc : Bool}

/-- A block is found on a die that is there only. -/
theorem blockFor_die {n : Nat} (h : s.blockFor k slc use_ = some n) : ∃ d, mget s.flash.dies k = some d := by
  obtain ⟨d, hd, -⟩ := Option.bind_eq_some_iff.mp h
  exact ⟨d, hd⟩

theorem programIn_programsAt {d : Die} (hd : mget s.flash.dies k = some d) (n lpn kind : Nat) (data : Bytes) :
    s.ProgramsAt (s.programIn k n slc use_ lpn kind data).1 (s.programIn k n slc use_ lpn kind data).2 lpn data := by
  simp only [State.programIn, hd]
  exact ⟨s.step.used, _, _, _, rfl, mget_mput .., rfl, rfl⟩

/-- A die that runs and has a block takes the page. -/
theorem program_programsAt {n : Nat} (hr : s.dieRuns typ k 1 = true) (hn : s.blockFor k slc use_ = some n) (lpn kind : Nat) (data : Bytes) :
    ∃ x, s.program typ k slc use_ lpn kind data = some x ∧ s.ProgramsAt x.1 x.2 lpn data := by
  obtain ⟨d, hd⟩ := blockFor_die hn
  refine ⟨(s.dieRan typ k 1).programIn k n slc use_ lpn kind data, by rw [State.program, if_pos hr, hn]; rfl, ?_⟩
  obtain ⟨used, dies, units, unit, hx, hunit⟩ := programIn_programsAt (s := s.dieRan typ k 1) (slc := slc) (use_ := use_) hd n lpn kind data
  exact ⟨used, dies, units, unit, hx, hunit⟩

theorem dieFor_programsAt (hk : s.dieFor typ slc use_ = some k) (lpn kind : Nat) (data : Bytes) :
    ∃ x, s.program typ k slc use_ lpn kind data = some x ∧ s.ProgramsAt x.1 x.2 lpn data := by
  have hfound := List.find?_some hk
  rw [Bool.and_eq_true, Option.isSome_iff_exists] at hfound
  obtain ⟨hr, n, hn⟩ := hfound
  exact program_programsAt hr hn lpn kind data

end

/-! ### Log and journal pages (R278) -/

/-- A ready log page is programmed, and its bytes leave what waits. -/
theorem logWrite_page {s : State} {p k lpn : Nat} (hpwr : s.pwr.short = false) (hp : (List.range 8).find? s.pageReady = some p)
    (hk : s.dieFor 0x20 true 0 = some k) (hlpn : s.nextLogLpn p = some lpn) :
    ∃ t a g u, exec (.logWrite true) s = .next t ∧ t.flash.logPages = s.flash.logPages ++ [g] ∧ g.part = p ∧ g.lpn = lpn ∧
      mget t.flash.units a = some u ∧ u.data = s.logPage p ∧ t.log.dirty = s.log.dirty - min 16320 (s.logPending p) ∧
      t.flash.logSeq = s.flash.logSeq + 1 ∧ t.flash.map = s.flash.map ∧
      t.flash.pend = s.flash.pend ++ [⟨lpn, a, s.flash.writeSeq, 1⟩] ∧ t.mem = s.mem := by
  obtain ⟨⟨u, a⟩, hx, hat⟩ := dieFor_programsAt hk lpn 1 (s.logPage p)
  have hexec : exec (.logWrite true) s = .next (u.logDone p lpn a s.flash.writeSeq) := by
    simp only [exec, execLogWrite, hpwr, hp, State.writeLogPage, hk, hlpn, hx, if_true, Bool.false_eq_true, if_false]
  obtain ⟨used, dies, units, unit, rfl, hunit, -, hdata⟩ := hat
  exact ⟨_, a, _, unit, hexec, rfl, rfl, rfl, hunit, hdata, rfl, rfl, rfl, rfl, rfl⟩

theorem logWrite_journal {s : State} {k : Nat} (hpwr : s.pwr.short = false) (hp : (List.range 8).find? s.pageReady = none)
    (hj : s.journalNow ≠ []) (hk : s.dieFor 0x20 true 1 = some k) :
    ∃ t a u, exec (.logWrite true) s = .next t ∧ t.flash.jpages = s.flash.jpages ++ [⟨a, s.journalNow⟩] ∧
      mget t.flash.units a = some u ∧ u.data = journalPage s.journalNow ∧
      (∀ e ∈ t.flash.journal, e ∈ s.flash.journal ∧ e ∉ s.journalNow) ∧ t.flash.map = s.flash.map ∧ t.log = s.log ∧ t.mem = s.mem := by
  obtain ⟨⟨u, a⟩, hx, hat⟩ := dieFor_programsAt hk unmapped 2 (journalPage s.journalNow)
  have hexec : exec (.logWrite true) s = .next (u.journalDone s.journalNow a) := by
    simp only [exec, execLogWrite, hpwr, hp, State.writeJournal, List.isEmpty_iff, hj, hk, hx, if_true, Bool.false_eq_true, if_false]
  obtain ⟨used, dies, units, unit, rfl, hunit, -, hdata⟩ := hat
  refine ⟨_, a, unit, hexec, rfl, hunit, hdata, fun e he => ?_, rfl, rfl, rfl⟩
  obtain ⟨hin, hout⟩ := List.mem_filter.mp he
  exact ⟨hin, by simpa only [Bool.not_eq_true', List.contains_eq_mem, decide_eq_false_iff_not] using hout⟩

theorem logPageTimeout_due (s : State) : ∃ t, exec .logPageTimeout s = .next t ∧ { t with flash := s.flash } = s ∧ ∀ p, p < 8 →
    (p ∈ t.flash.due ↔ p ∈ s.flash.due ∨ ∃ k, s.logOldest p = some k ∧ k + s.actN 0x7010 0x0A ≤ s.step.number) := by
  refine ⟨_, rfl, rfl, fun p hp => ?_⟩
  simp only [List.mem_filter, List.mem_range, hp, true_and, Bool.or_eq_true, List.contains_iff_mem, State.pageAged, Option.any_eq_true,
    decide_eq_true_eq]

/-! ### Map checkpoints (R278) -/

theorem putSys_none {s : State} {typ key : Nat} {data : Bytes} (h : s.putSys typ key data = none) : s.dieFor typ true 1 = none := by
  cases hk : s.dieFor typ true 1 with
  | none => rfl
  | some k =>
    obtain ⟨x, hx, -⟩ := dieFor_programsAt hk unmapped 2 data
    simp only [State.putSys, hk, Option.bind_some, hx, Option.map_some, reduceCtorEq] at h

theorem putSys_keeps {s u : State} {typ key : Nat} {data : Bytes} (h : s.putSys typ key data = some u) :
    u.flash.ckptNext = s.flash.ckptNext ∧ u.flash.map = s.flash.map ∧ u.flash.journal = s.flash.journal := by
  unfold State.putSys at h
  obtain ⟨k, hk, h⟩ := Option.bind_eq_some_iff.mp h
  obtain ⟨x, hx, hat⟩ := dieFor_programsAt hk unmapped 2 data
  rw [hx, Option.map_some, Option.some_inj] at h
  obtain ⟨used, dies, units, unit, hu, -⟩ := hat
  subst h
  simp only [hu, and_self]

theorem writeCkpt_none {s : State} (h : s.writeCkpt = none) : s.dieFor 0x23 true 1 = none :=
  putSys_none (Option.map_eq_none_iff.mp h)

theorem writeCkpt_next {s u : State} (h : s.writeCkpt = some u) :
    u.flash.ckptNext = (s.flash.ckptNext + 1) % 1048576 ∧ u.flash.map = s.flash.map ∧ u.flash.journal = s.flash.journal := by
  obtain ⟨v, hv, rfl⟩ := Option.map_eq_some_iff.mp h
  obtain ⟨-, hmap, hjournal⟩ := putSys_keeps hv
  exact ⟨rfl, hmap, hjournal⟩

/-- Map pages are written until `n` are, or until no die has a page. -/
theorem writeCkpts_moves (n : Nat) (s : State) (hlt : s.flash.ckptNext < 1048576) : ∃ m, m ≤ n ∧
    (State.writeCkpts n s).flash.ckptNext = (s.flash.ckptNext + m) % 1048576 ∧ (m < n → (State.writeCkpts n s).dieFor 0x23 true 1 = none) ∧
    (State.writeCkpts n s).flash.map = s.flash.map ∧ (State.writeCkpts n s).flash.journal = s.flash.journal := by
  induction n generalizing s with
  | zero => exact ⟨0, le_rfl, (Nat.mod_eq_of_lt hlt).symm, fun h => absurd h (by omega), rfl, rfl⟩
  | succ n ih =>
    rw [State.writeCkpts]
    cases hw : s.writeCkpt with
    | none => exact ⟨0, by omega, (Nat.mod_eq_of_lt hlt).symm, fun _ => writeCkpt_none hw, rfl, rfl⟩
    | some u =>
      obtain ⟨hnext, hmap, hjournal⟩ := writeCkpt_next hw
      obtain ⟨m, hm, hn, hstop, hm', hj'⟩ := ih u (by omega)
      refine ⟨m + 1, by omega, ?_, fun h => hstop (by omega), hm'.trans hmap, hj'.trans hjournal⟩
      rw [Option.map_some, Option.getD_some, hn]
      omega

theorem mapCheckpoint_moves {s : State} (hlt : s.flash.ckptNext < 1048576) {n : Nat} (hn : n ≤ 1048576) :
    ∃ t m, exec (.mapCheckpoint n) s = .next t ∧ m ≤ n ∧ t.flash.ckptNext = (s.flash.ckptNext + m) % 1048576 ∧
      (m < n → t.dieFor 0x23 true 1 = none) ∧ t.flash.map = s.flash.map ∧ t.flash.journal = s.flash.journal := by
  obtain ⟨m, hm, hnext, hstop, hmap, hjournal⟩ := writeCkpts_moves n s hlt
  refine ⟨_, m, rfl, hm, ?_⟩
  rw [Nat.min_eq_left hn]
  exact ⟨hnext, hstop, hmap, hjournal⟩

/-! ### Image writes (R278, R282) -/

/-- The extents that do not hold a segment. -/
def State.otherExtents (s : State) (i seg : Nat) : List Extent := s.flash.extents.filter fun y => !(y.slot == i && y.seg == seg)

theorem otherExtents_not (s : State) (i seg : Nat) : ∀ y ∈ s.otherExtents i seg, ¬ (y.slot == i && y.seg == seg) = true := fun y hy => by
  simpa only [Bool.not_eq_true, Bool.not_eq_true'] using (List.mem_filter.mp hy).2

/-- An image without an extent is written from its first page on, as far as the slices go. -/
theorem writeImage_new {s : State} {i seg first : Nat} {image : Bytes} (hnew : s.extentFor i seg = none)
    (hroom : image.length / 16384 ≤ s.freeUnits) (hrange : s.findRange (s.logPart i) (image.length / 16384) = some first) :
    ∃ (v : State) (d : Nat), s.writeImage i seg image [] =
      some { v with flash := { v.flash with extents := v.otherExtents i seg ++ [⟨s.logPart i, i, seg, first, image.length / 16384, true, d⟩] } } := by
  refine ⟨(State.writeUnits first image [] (image.length / 16384) 0 s).1, (State.writeUnits first image [] (image.length / 16384) 0 s).2, ?_⟩
  simp only [State.writeImage, hnew, hrange, Option.map_some, Nat.sub_zero, Nat.not_lt.mpr hroom, if_false, State.otherExtents]

theorem extentFor_last (v : State) {e : Extent} {i seg : Nat} (hslot : e.slot = i) (hseg : e.seg = seg) :
    ({ v with flash := { v.flash with extents := v.otherExtents i seg ++ [e] } } : State).extentFor i seg = some e := by
  rw [State.extentFor, List.find?_append, List.find?_eq_none.mpr (otherExtents_not v i seg), Option.none_or]
  exact List.find?_cons_of_pos (by simp only [hslot, hseg, beq_self_eq_true, Bool.and_self])

theorem modShard_self {s : State} {i : Nat} {h : Shard} (f : Shard → Shard) (hi : mget s.shards i = some h) :
    mget (s.modShard i f).shards i = some (f h) := mget_mmod_self f hi

theorem modJob_seal {s : State} {i : Nat} {h : Shard} {j k : SealJob} {f : SealJob → Option SealJob} (hi : mget s.shards i = some h)
    (hj : h.sealJob = some j) (hf : f j = some k) : ∃ g, mget (s.modJob i false f).shards i = some g ∧ g.sealJob = some k :=
  ⟨_, modShard_self _ hi, by simp only [hj, Option.bind_some, hf, Bool.false_eq_true, if_false]⟩

/-- A seal's image that finds a range gets a provisional extent of its pages; the seal goes on where all of them are done. -/
theorem imageWrite_extent {s : State} {i first : Nat} {h : Shard} {j : SealJob} (hi : mget s.shards i = some h) (ho : h.owner = true)
    (hj : h.sealJob = some j) (hstage : j.stage = 2) (hpwr : s.pwr.short = false) (hnew : s.extentFor i j.out = none)
    (hroom : j.image.length / 16384 ≤ s.freeUnits) (hrange : s.findRange (s.logPart i) (j.image.length / 16384) = some first) :
    ∃ t g k d, exec (.imageWrite i false []) s = .next t ∧
      t.extentFor i j.out = some ⟨s.logPart i, i, j.out, first, j.image.length / 16384, true, d⟩ ∧
      mget t.shards i = some g ∧ g.sealJob = some k ∧ k.image = j.image ∧ k.stage = (if j.image.length / 16384 ≤ d then 3 else 2) := by
  obtain ⟨v, d, hw⟩ := writeImage_new hnew hroom hrange
  have hsh := Inv.same (f := .shards) (fun _ hk h => Inv.writeImage hk h hw) (by decide +kernel)
  have hext := extentFor_last v (e := ⟨s.logPart i, i, j.out, first, j.image.length / 16384, true, d⟩) rfl rfl
  set u : State := { v with flash := { v.flash with
    extents := v.otherExtents i j.out ++ [⟨s.logPart i, i, j.out, first, j.image.length / 16384, true, d⟩] } }
  have hget : mget u.shards i = some h := (congrArg (mget · i) hsh).trans hi
  have hwritten : u.written i j.out = decide (j.image.length / 16384 ≤ d) := by rw [State.written, hext, Option.any_some]
  have hexec : exec (.imageWrite i false []) s =
      .next (if j.image.length / 16384 ≤ d then u.modJob i false fun j => some { j with stage := 3 } else u) := by
    simp only [exec, execImageWrite, hi, hpwr, hj, ho, hstage, hw, hwritten, Bool.false_eq_true, if_false, Option.filter_some, beq_self_eq_true,
      Bool.and_self, if_true, decide_eq_true_eq]
  by_cases hd : j.image.length / 16384 ≤ d
  · rw [if_pos hd] at hexec
    obtain ⟨g, hg, hjob⟩ := modJob_seal (f := fun j => some { j with stage := 3 }) hget hj rfl
    exact ⟨_, g, _, d, hexec, hext, hg, hjob, rfl, (if_pos hd).symm⟩
  · rw [if_neg hd] at hexec
    exact ⟨_, _, _, d, hexec, hext, hget, hj, rfl, hstage.trans (if_neg hd).symm⟩

/-- Settles O28, command by command. -/
theorem logAndMapWritesComplete : Obligations.LogAndMapWritesComplete := fun s =>
  ⟨fun hpwr _ _ _ hp hk hlpn => logWrite_page hpwr hp hk hlpn, fun hpwr _ hp hj hk => logWrite_journal hpwr hp hj hk, logPageTimeout_due s,
    fun hlt _ hn => mapCheckpoint_moves hlt hn,
    fun _ _ _ _ hi ho hj hstage hpwr hnew hroom hrange => imageWrite_extent hi ho hj hstage hpwr hnew hroom hrange⟩

end Sys2Proof.Machine
end

section
/-! Collections, scrubbing and losses of flash dies (R269, R280, R281, R283). -/

namespace Sys2Proof.Machine
set_option Elab.async false

/-- An operation that writes no memory and takes no power leaves memory as it is. -/
theorem Stables.sameMemory (s : State) {m : Nat} (hm : m < 2 ^ 69) : Stables (fun v => v.mem = s.mem) m where
  part p _ u v _ hv := (Part.put_mem p u v).trans hv
  down h := by rw [Nat.testBit_lt_two_pow hm] at h; cases h
  mem k h := by rw [Nat.testBit_lt_two_pow (hm.trans_le (Nat.pow_le_pow_right (by decide) (by omega)))] at h; cases h

theorem Inv.sameMemory {s t : State} {m : Nat} (hi : ∀ P : State → Prop, Stables P m → P s → P t) (hm : m < 2 ^ 69) : t.mem = s.mem :=
  hi _ (Stables.sameMemory s hm) rfl

/-! ### What of a die only its collection and its reads change -/

/-- The collection that a die runs, and its reads and retries of the scrub period. -/
def Die.figures (d : Die) : Option GcJob × Nat × Nat × Nat := (d.gc, d.period, d.reads, d.retried)
def State.dieFigures (s : State) (k : Nat) : Option (Option GcJob × Nat × Nat × Nat) := (mget s.flash.dies k).map Die.figures

section
variable (s : State) (k k' n : Nat)

theorem modDie_dieFigures {f : Die → Die} (hf : ∀ d, (f d).figures = d.figures) : (s.modDie k' f).dieFigures k = s.dieFigures k := by
  show (mget (mmod s.flash.dies k' f) k).map Die.figures = _
  rw [mget_mmod, Option.map_map, State.dieFigures]
  congr 1
  funext d
  by_cases h : k = k'
  · simp only [h, if_true, Function.comp_apply, hf]
  · simp only [h, if_false, Function.comp_apply, id_eq]

@[simp] theorem raise_dieFigures (c l d : Nat) : (s.raise c l d).dieFigures k = s.dieFigures k := by rw [State.dieFigures, State.raise_flash]; rfl
@[simp] theorem bump_dieFigures (i j m : Nat) : (s.bump i j m).dieFigures k = s.dieFigures k := by rw [State.dieFigures, State.bump_flash]; rfl

theorem retireBlk_dieFigures : (s.retireBlk k' n).dieFigures k = s.dieFigures k := by
  unfold State.retireBlk
  split
  · rfl
  · dsimp only
    split
    · rw [raise_dieFigures, bump_dieFigures]
      exact modDie_dieFigures s k k' fun _ => rfl
    · rw [bump_dieFigures]
      exact modDie_dieFigures s k k' fun _ => rfl

theorem eraseBlk_dieFigures : (s.eraseBlk k' n).dieFigures k = s.dieFigures k := by
  unfold State.eraseBlk
  split
  · rfl
  · split
    · exact retireBlk_dieFigures ..
    · exact modDie_dieFigures (s.dropUnits k' n) k k' fun _ => rfl

theorem gcErase_dieFigures (fails : Bool) : (s.gcErase k' fails).dieFigures k = s.dieFigures k := by
  unfold State.gcErase
  dsimp only
  generalize ((mget s.flash.dies k').map fun d => (d.blks.filter fun b => s.erasable b.2).map (·.1)).getD [] = due
  cases due with
  | nil => rfl
  | cons n rest =>
    have hrest (l : List Nat) (t : State) : (l.foldl (fun s m => s.eraseBlk k' m) t).dieFigures k = t.dieFigures k := by
      induction l generalizing t with
      | nil => rfl
      | cons m l ih => rw [List.foldl_cons, ih, eraseBlk_dieFigures]
    refine (hrest ..).trans ?_
    split
    · exact (retireBlk_dieFigures ..).trans (raise_dieFigures ..)
    · exact eraseBlk_dieFigures ..

theorem programIn_dieFigures (slc : Bool) (use_ lpn kind : Nat) (data : Bytes) :
    (s.programIn k' n slc use_ lpn kind data).1.dieFigures k = s.dieFigures k := by
  unfold State.programIn
  split
  · rfl
  · exact modDie_dieFigures (f := fun d => (d.setMode slc).setBlk n _) s k k' fun _ => rfl

theorem program_dieFigures {typ use_ lpn kind : Nat} {slc : Bool} {data : Bytes} {x : State × Nat}
    (hx : s.program typ k' slc use_ lpn kind data = some x) : x.1.dieFigures k = s.dieFigures k := by
  unfold State.program at hx
  split at hx
  · obtain ⟨n, -, rfl⟩ := Option.map_eq_some_iff.mp hx
    exact programIn_dieFigures (s.dieRan typ k' 1) k k' n ..
  · cases hx

theorem segOut_dieFigures (slot seg : Nat) : (s.segOut slot seg).dieFigures k = s.dieFigures k := by
  unfold State.segOut
  split
  · rfl
  · exact raise_dieFigures ..

theorem pageLost_dieFigures (lpn : Nat) : (s.pageLost lpn).dieFigures k = s.dieFigures k := by
  unfold State.pageLost
  split
  · exact segOut_dieFigures ..
  · dsimp only
    split
    · next x hx =>
      obtain ⟨k', -, hx⟩ := Option.bind_eq_some_iff.mp hx
      exact program_dieFigures s k k' hx
    · rfl

theorem sysLost_dieFigures (a : Nat) : (s.sysLost a).dieFigures k = s.dieFigures k := by
  unfold State.sysLost
  dsimp only
  split
  · rfl
  · next x hx =>
    obtain ⟨k', -, hx⟩ := Option.bind_eq_some_iff.mp hx
    exact program_dieFigures s k k' hx

theorem unitLost_dieFigures (a : Nat) : (s.unitLost a).dieFigures k = s.dieFigures k := by
  unfold State.unitLost
  split
  · exact sysLost_dieFigures ..
  · split
    · exact pageLost_dieFigures ..
    · rfl

theorem weakBlk_dieFigures : (s.weakBlk k' n).dieFigures k = s.dieFigures k := by
  unfold State.weakBlk
  split
  · rfl
  · dsimp only
    split
    · rfl
    · split
      · exact (raise_dieFigures ..).trans (modDie_dieFigures s k k' fun _ => rfl)
      · exact modDie_dieFigures s k k' fun _ => rfl

theorem warn_dieFigures (i event : Nat) (on : Bool) : (s.warn i event on).dieFigures k = s.dieFigures k := by
  unfold State.warn
  split
  · split
    · rfl
    · exact raise_dieFigures ..
  · rfl

theorem health_dieFigures : s.health.dieFigures k = s.dieFigures k := by
  unfold State.health
  dsimp only
  rw [warn_dieFigures, warn_dieFigures, warn_dieFigures]

end

/-! ### Collections (R280) -/

/-- Map changes of units of a die only were made since a state, all of them for the step's end. -/
structure State.Collects (s u : State) (k : Nat) (l : List JEntry) : Prop where
  map : u.flash.map = s.flash.map
  pend : u.flash.pend = s.flash.pend ++ l
  units : ∀ e ∈ l, e.span = 1 ∧ ∃ a, mget s.flash.map e.lpn = some a ∧ addrDie a = k

section
variable {s u v : State} {k : Nat} {l l' : List JEntry}

theorem State.Collects.nothing (hm : u.flash.map = s.flash.map) (hp : u.flash.pend = s.flash.pend) : s.Collects u k [] :=
  ⟨hm, hp.trans (List.append_nil _).symm, fun _ he => absurd he List.not_mem_nil⟩

theorem State.Collects.of_ops {m : Nat} (hi : ∀ P : State → Prop, Stables P m → P s → P u)
    (hm : (!Part.flashMap.isMem && Part.flashMap.outside m) = true) : s.Collects u k [] := by
  have hsame := Inv.same (f := .flashMap) hi hm
  simp only [Part.same, Prod.mk.injEq] at hsame
  obtain ⟨hmap, hpend, -⟩ := hsame
  exact .nothing hmap hpend

theorem State.Collects.trans (h : s.Collects u k l) (h' : u.Collects v k l') : s.Collects v k (l ++ l') := by
  refine ⟨h'.map.trans h.map, by rw [h'.pend, h.pend, List.append_assoc], fun e he => ?_⟩
  rcases List.mem_append.mp he with he | he
  · exact h.units e he
  · rw [← h.map]
    exact h'.units e he

/-- The switch of a copied unit, as the map changes at the step's end. -/
def Moved.entry (m : Moved) : JEntry := ⟨m.lpn, m.to_, m.seq, 1⟩

theorem foldl_changeMap (good : List Moved) (s : State) :
    (good.foldl (fun s m => s.changeMap m.lpn m.to_ m.seq) s).flash.map = s.flash.map ∧
      (good.foldl (fun s m => s.changeMap m.lpn m.to_ m.seq) s).flash.pend = s.flash.pend ++ good.map Moved.entry := by
  induction good generalizing s with
  | nil => exact ⟨rfl, (List.append_nil _).symm⟩
  | cons m good ih =>
    obtain ⟨hmap, hpend⟩ := ih (s.changeMap m.lpn m.to_ m.seq)
    exact ⟨hmap, hpend.trans (List.append_assoc ..)⟩

/-- The copies of a job come from units of its die. -/
def GcJob.On (j : GcJob) (k : Nat) : Prop := ∀ m ∈ j.moved, addrDie m.from_ = k

theorem gcClose_collects {j : GcJob} (hj : j.On k) : ∃ l, s.Collects (s.gcClose k j).1 k l := by
  have hshut : ((j.target.map fun t => s.modDie k fun d => d.setBlk t fun b => { b with st := 2 }).getD s).flash.map = s.flash.map ∧
      ((j.target.map fun t => s.modDie k fun d => d.setBlk t fun b => { b with st := 2 }).getD s).flash.pend = s.flash.pend := by
    cases j.target with
    | none => exact ⟨rfl, rfl⟩
    | some t => exact ⟨rfl, rfl⟩
  obtain ⟨hmap, hpend⟩ := foldl_changeMap (j.moved.filter fun m => mget s.flash.map m.lpn == some m.from_ &&
    !(s.flash.pend.any fun p => p.lpn == m.lpn)) ((j.target.map fun t => s.modDie k fun d => d.setBlk t fun b => { b with st := 2 }).getD s)
  refine ⟨_, hmap.trans hshut.1, hpend.trans (congrArg (· ++ _) hshut.2), fun e he => ?_⟩
  obtain ⟨m, hm, rfl⟩ := List.mem_map.mp he
  obtain ⟨hin, hgood⟩ := List.mem_filter.mp hm
  rw [Bool.and_eq_true, beq_iff_eq] at hgood
  exact ⟨rfl, m.from_, hgood.1, hj m hin⟩

theorem gcClose_on (s : State) (k : Nat) (j : GcJob) : (s.gcClose k j).2.On k := fun _ hm => absurd hm List.not_mem_nil

theorem gcOpen_collects {slc : Bool} {j : GcJob} {x : State × GcJob} (hx : s.gcOpen k slc j = some x) :
    s.Collects x.1 k [] ∧ x.2.moved = j.moved := by
  unfold State.gcOpen at hx
  split at hx
  · cases hx
    exact ⟨.nothing rfl rfl, rfl⟩
  · obtain ⟨d, -, hx⟩ := Option.bind_eq_some_iff.mp hx
    obtain ⟨t, -, rfl⟩ := Option.map_eq_some_iff.mp hx
    exact ⟨.nothing rfl rfl, rfl⟩

theorem programIn_collects (n : Nat) (slc : Bool) (use_ lpn kind : Nat) (data : Bytes) :
    s.Collects (s.programIn k n slc use_ lpn kind data).1 k [] := by
  unfold State.programIn
  split
  · exact .nothing rfl rfl
  · exact .nothing rfl rfl

theorem gcCopy1_collects {j : GcJob} (hj : j.On k) (t : Nat) (slc : Bool) {x : Nat × Nat} (hx : addrDie x.2 = k) :
    (∃ l, s.Collects (s.gcCopy1 k t slc j x).1 k l) ∧ (s.gcCopy1 k t slc j x).2.On k := by
  unfold State.gcCopy1
  dsimp only
  generalize ((mget s.flash.units x.2).map (·.data)).getD [] = data
  generalize ((mget s.flash.units x.2).map (·.kind)).getD 0 = kind
  have hcopied : s.Collects (((s.dieRan 0x21 k 1).programIn k t slc 2 x.1 kind data).1.bump 0x7011 5 1) k [] := by
    obtain ⟨hmap, hpend, -⟩ := programIn_collects (s := s.dieRan 0x21 k 1) (k := k) t slc 2 x.1 kind data
    exact .nothing hmap (hpend.trans (List.append_nil _))
  generalize ((s.dieRan 0x21 k 1).programIn k t slc 2 x.1 kind data) = y at hcopied ⊢
  have hon : ({ j with moved := j.moved ++ [(⟨x.1, x.2, y.2, s.flash.writeSeq⟩ : Moved)] } : GcJob).On k := by
    intro m hm
    rcases List.mem_append.mp hm with hm | hm
    · exact hj m hm
    · rw [List.mem_singleton.mp hm]
      exact hx
  split
  · obtain ⟨l, hl⟩ := gcClose_collects (s := y.1.bump 0x7011 5 1) hon
    exact ⟨⟨_, hcopied.trans hl⟩, gcClose_on _ k _⟩
  · exact ⟨⟨_, hcopied⟩, hon⟩

/-- What is left for a collection to copy lies on its die. -/
theorem addrDie_of_mem_gcLeft {j : GcJob} {x : Nat × Nat} (hx : x ∈ s.gcLeft k j) : addrDie x.2 = k := by
  have hvalid := (List.mem_filter.mp ((mem_sortBy ..).mp (List.mem_filter.mp hx).1)).2
  simp only [State.inBlk, Bool.and_eq_true, beq_iff_eq] at hvalid
  exact hvalid.1.1

theorem gcRun_collects (slc : Bool) (stop : Option Nat) (fuel : Nat) {j : GcJob} (hj : j.On k) :
    ∃ l, s.Collects (State.gcRun k slc stop fuel s j).1 k l := by
  induction fuel generalizing s j with
  | zero => exact ⟨[], .nothing rfl rfl⟩
  | succ fuel ih =>
    rw [State.gcRun]
    cases hleft : s.gcLeft k j with
    | nil => exact gcClose_collects hj
    | cons x rest =>
      dsimp only
      split
      · exact gcClose_collects hj
      · split
        · exact ⟨[], .nothing rfl rfl⟩
        · split
          · exact ⟨[], .of_ops (fun _ hk h => Inv.raiseRun hk h ..) (by decide +kernel)⟩
          · next s1 j1 hopen =>
            obtain ⟨hs1, hmoved⟩ := gcOpen_collects hopen
            have hj1 : j1.On k := fun m hm => hj m (hmoved ▸ hm)
            split
            · exact ⟨_, hs1⟩
            · next t _ =>
              obtain ⟨⟨l, hl⟩, hon⟩ := gcCopy1_collects (s := s1) hj1 t slc (addrDie_of_mem_gcLeft (hleft ▸ List.mem_cons_self))
              obtain ⟨l', hl'⟩ := ih (s := (s1.gcCopy1 k t slc j1 x).1) hon
              exact ⟨_, hs1.trans (hl.trans hl')⟩

end

/-- A collection that finds no fault copies units of its die and switches them at the step's end. -/
theorem gcGo_collects (s : State) (k : Nat) (d : Die) {j : GcJob} (hj : j.On k) : ∃ l, s.Collects (s.gcGo k d .ok j) k l := by
  obtain ⟨l, hl⟩ := gcRun_collects (s := s) (d.blk j.victim).slc none (d.units + d.units) hj
  unfold State.gcGo
  dsimp only
  refine ⟨l, ?_⟩
  split
  · exact ⟨hl.map, hl.pend, hl.units⟩
  · next h => cases h
  · split
    · exact ⟨hl.map, hl.pend, hl.units⟩
    · exact ⟨hl.map, hl.pend, hl.units⟩

end Sys2Proof.Machine
end

section
/-! GC_COPY, FLASH_SCRUB, FLASH_DIE_LOSS and NAND_RAIL_OVERCURRENT (R269, R270, R280, R281, R283). -/

namespace Sys2Proof.Machine
set_option Elab.async false

/-! ### GC_COPY (R280) -/

/-- What a step of a collection leaves: beside its copies and their switch nothing of the map, the log or memory changes. -/
def State.CopiesOn (s t : State) (die : Nat) : Prop := ∃ l, s.Collects t die l ∧ t.mem = s.mem ∧ t.log = s.log

theorem State.CopiesOn.trans {s t u : State} {die : Nat} (h : s.CopiesOn t die) (h' : t.CopiesOn u die) : s.CopiesOn u die := by
  obtain ⟨l, hl, hmem, hlog⟩ := h
  obtain ⟨l', hl', hmem', hlog'⟩ := h'
  exact ⟨l ++ l', hl.trans hl', hmem'.trans hmem, hlog'.trans hlog⟩

theorem gcErase_copiesOn (s : State) (die : Nat) (fails : Bool) : s.CopiesOn (s.gcErase die fails) die :=
  ⟨[], .of_ops (fun _ hk h => Inv.gcErase hk h ..) (by decide +kernel), Inv.sameMemory (fun _ hk h => Inv.gcErase hk h ..) (by decide +kernel),
    Inv.same (f := .log) (fun _ hk h => Inv.gcErase hk h ..) (by decide +kernel)⟩

/-- `gcGo_collects` for the whole of what a collection leaves. -/
theorem gcGo_copiesOn (s : State) (die : Nat) (d : Die) {j : GcJob} (hj : j.On die) : s.CopiesOn (s.gcGo die d .ok j) die := by
  obtain ⟨l, hl⟩ := gcGo_collects s die d hj
  exact ⟨l, hl, Inv.sameMemory (fun _ hk h => Inv.gcGo hk h ..) (by decide +kernel),
    Inv.same (f := .log) (fun _ hk h => Inv.gcGo hk h ..) (by decide +kernel)⟩

/-- A collection that begins has copied nothing yet. -/
theorem gcJob_on {s : State} {die : Nat} {d : Die} {j : GcJob} (hgc : d.gc = none) (hj : s.gcJob die d = some j) : j.On die := by
  rw [State.gcJob, hgc] at hj
  change (s.gcVictim die d).map _ = some j at hj
  obtain ⟨v, -, rfl⟩ := Option.map_eq_some_iff.mp hj
  exact fun _ hm => absurd hm List.not_mem_nil

/-- The collection of a die goes on, or begins. -/
def State.gcGoesOn (s : State) (die : Nat) : Option State := (mget s.flash.dies die).bind fun d => (s.gcJob die d).map (s.gcGo die d .ok)

section
variable {s : State} {die : Nat} {d : Die}

theorem gcGoesOn_copiesOn {t : State} (hfig : s.dieFigures die = some d.figures) (hgc : d.gc = none) (ht : s.gcGoesOn die = some t) :
    s.CopiesOn t die := by
  obtain ⟨d', hd', ht⟩ := Option.bind_eq_some_iff.mp ht
  obtain ⟨j, hj, rfl⟩ := Option.map_eq_some_iff.mp ht
  rw [State.dieFigures, hd', Option.map_some, Option.some_inj] at hfig
  exact gcGo_copiesOn s die d' (gcJob_on ((congrArg (·.1) hfig).trans hgc) hj)

theorem execGcCopy_ok (hpwr : s.pwr.short = false) (hr : s.dieRuns 0x21 die 0 = true) :
    exec (.gcCopy die .ok) s = .next (((s.gcErase die false).gcGoesOn die).getD (s.gcErase die false)) := by
  have hok : (GcOut.ok == GcOut.eraseFail) = false := rfl
  simp only [exec, execGcCopy, hpwr, hr, hok, Bool.false_eq_true, not_true_eq_false, or_self, if_false, State.gcGoesOn]
  cases mget (s.gcErase die false).flash.dies die with
  | none => rfl
  | some d => rfl

/-- A collection that begins copies units of its die and of the map only. -/
theorem gcCopy_copiesOn (hd : mget s.flash.dies die = some d) (hpwr : s.pwr.short = false) (hr : s.dieRuns 0x21 die 0 = true)
    (hgc : d.gc = none) : ∃ t, exec (.gcCopy die .ok) s = .next t ∧ s.CopiesOn t die := by
  have herase := gcErase_copiesOn s die false
  have hfig : (s.gcErase die false).dieFigures die = some d.figures := by
    rw [gcErase_dieFigures, State.dieFigures, hd, Option.map_some]
  refine ⟨_, execGcCopy_ok hpwr hr, ?_⟩
  cases hgo : (s.gcErase die false).gcGoesOn die with
  | none => exact herase
  | some t => exact herase.trans (gcGoesOn_copiesOn hfig hgc hgo)

/-- With no block due, a slice erases nothing. -/
theorem gcErase_none (hd : mget s.flash.dies die = some d) (hnone : ∀ b ∈ d.blks, s.erasable b.2 = false) (fails : Bool) :
    s.gcErase die fails = s := by
  have hdue : d.blks.filter (fun b => s.erasable b.2) = [] := List.filter_eq_nil_iff.mpr fun b hb => by simp only [hnone b hb, Bool.false_eq_true, not_false_eq_true]
  simp only [State.gcErase, hd, Option.map_some, Option.getD_some, hdue, List.map_nil]

/-- A victim without a valid unit is emptied at once. -/
theorem gcGo_empty {n : Nat} (hunits : 0 < d.units) (hvalid : s.validUnits die n = []) :
    s.gcGo die d .ok ⟨n, none, [], false⟩ = (s.modDie die fun d => { d with gc := none }).emptyVictim die n := by
  obtain ⟨fuel, hfuel⟩ := Nat.exists_eq_succ_of_ne_zero (show d.units + d.units ≠ 0 by omega)
  have hleft : s.gcLeft die ⟨n, none, [], false⟩ = [] := by simp only [State.gcLeft, hvalid, List.filter_nil]
  have hrun : State.gcRun die (d.blk n).slc none (d.units + d.units) s ⟨n, none, [], false⟩ = (s, none) := by
    rw [hfuel, State.gcRun, hleft]
    rfl
  simp only [State.gcGo, hrun, Bool.false_eq_true, if_false]

theorem blk_setBlk_self (d : Die) (n : Nat) (f : Blk → Blk) : (d.setBlk n f).blk n = f (d.blk n) := mgetD_mput ..
theorem blk_setBlk_ne (d : Die) {n m : Nat} (f : Blk → Blk) (h : m ≠ n) : (d.setBlk n f).blk m = d.blk m := mgetD_mput_ne _ _ _ h

theorem gcCopy_empties (hd : mget s.flash.dies die = some d) (hpwr : s.pwr.short = false) (hr : s.dieRuns 0x21 die 0 = true)
    (hgc : d.gc = none) {n : Nat} (hunits : 0 < d.units) (hnone : ∀ b ∈ d.blks, s.erasable b.2 = false)
    (hv : s.gcVictim die d = some (n, false)) (hvalid : s.validUnits die n = []) :
    ∃ t e, exec (.gcCopy die .ok) s = .next t ∧ mget t.flash.dies die = some e ∧ (e.blk n).st = 4 ∧
      (e.blk n).eraseAt = s.step.number + 65 ∧ (∀ m, m ≠ n → e.blk m = d.blk m) ∧ e.gc = none ∧ t.flash.pend = s.flash.pend := by
  have hexec : exec (.gcCopy die .ok) s = .next ((s.modDie die fun d => { d with gc := none }).emptyVictim die n) := by
    have hjob : s.gcJob die d = some ⟨n, none, [], false⟩ := by rw [State.gcJob, hgc, hv]; rfl
    rw [execGcCopy_ok hpwr hr, gcErase_none hd hnone]
    simp only [State.gcGoesOn, hd, Option.bind_some, hjob, Option.map_some, Option.getD_some, gcGo_empty hunits hvalid]
  refine ⟨_, _, hexec, modDie_self _ (modDie_self _ hd), ?_, ?_, fun m hm => blk_setBlk_ne _ _ hm, rfl, rfl⟩
  · rw [blk_setBlk_self]
  · rw [blk_setBlk_self]
    rfl

/-! ### FLASH_SCRUB (R277, R281, R283) -/

theorem scrubbed_dieFigures (s : State) (k : Nat) (r : ScrubRead) : (s.scrubbed k r).dieFigures k =
    ((s.tallyReads k r.blk r.reads r.retried r.beyond).modDie k fun d => d.trackAll r.blk r.ones).dieFigures k := by
  unfold State.scrubbed
  dsimp only
  generalize (s.tallyReads k r.blk r.reads r.retried r.beyond).modDie k _ = t
  generalize ((mget s.flash.dies k).map (·.units)).getD 0 = units
  induction r.lost generalizing t with
  | nil => rfl
  | cons p l ih => rw [List.foldl_cons, ih, unitLost_dieFigures, raise_dieFigures, bump_dieFigures]

theorem scrubFits_one {r : ScrubRead} {n : Nat} (h : ceilDiv r.reads 8 ≤ n) : scrubFits [r] (8 * n) = [r] := by
  have hle : r.reads ≤ 8 * n := by
    unfold ceilDiv at h
    omega
  rw [scrubFits, if_pos hle, scrubFits]

theorem flashScrub_counts (hd : mget s.flash.dies die = some d) (r : ScrubRead) (hr : s.dieRuns 0x22 die 0 = true)
    (hroom : ceilDiv r.reads 8 ≤ s.roomFor (onDie 0x22 die) (ceilDiv r.reads 8)) :
    ∃ t e, exec (.flashScrub die [r]) s = .next t ∧ mget t.flash.dies die = some e ∧ e.period = s.scrubAge ∧
      e.reads = (d.inPeriod s.scrubAge).reads + r.reads ∧ e.retried = (d.inPeriod s.scrubAge).retried + r.retried := by
  have htotal : sumNat ([r].map (·.reads)) = r.reads := Nat.zero_add _
  have hexec : exec (.flashScrub die [r]) s = .next ((((s.dieRan 0x22 die (s.roomFor (onDie 0x22 die) (ceilDiv r.reads 8))).scrubbed die r).weakBlk
      die r.blk).health) := by
    simp only [exec, execFlashScrub, hr, not_true_eq_false, if_false, htotal, scrubFits_one hroom, List.foldl_cons, List.foldl_nil]
  obtain ⟨-, -, -, -, -, e, he, hperiod, hreads, hretried, -⟩ :=
    (tallyReads_counts (s := s.dieRan 0x22 die (s.roomFor (onDie 0x22 die) (ceilDiv r.reads 8))) (n := r.blk) hd r.reads r.retried r.beyond).track
      (n := r.blk) r.ones
  have hfig : (((((s.dieRan 0x22 die (s.roomFor (onDie 0x22 die) (ceilDiv r.reads 8))).scrubbed die r).weakBlk die r.blk).health).dieFigures die) =
      some e.figures := by
    rw [health_dieFigures, weakBlk_dieFigures, scrubbed_dieFigures, State.dieFigures, he, Option.map_some]
  obtain ⟨e', he', hsame⟩ := Option.map_eq_some_iff.mp hfig
  simp only [Die.figures, Prod.mk.injEq] at hsame
  obtain ⟨-, hp, hr', ht⟩ := hsame
  exact ⟨_, e', hexec, he', hp.trans hperiod, hr'.trans hreads, ht.trans hretried⟩

end

/-! ### Losses (R281) -/

theorem foldl_raise_flash (c d : Nat) (loc : Nat → Nat) (ks : List Nat) (s : State) :
    (ks.foldl (fun s k => s.raise c (loc k) d) s).flash = s.flash := by
  induction ks generalizing s with
  | nil => rfl
  | cons k ks ih => rw [List.foldl_cons, ih, State.raise_flash]

/-- A die of those that stopped is off. -/
def offIn (ks : List Nat) (e : Nat × Die) : Nat × Die := if ks.contains e.1 then (e.1, { e.2 with on := false }) else e

theorem channelOut_flash (s : State) (c : Nat) (ks : List Nat) :
    (s.channelOut c ks).flash.dies = s.flash.dies.map (offIn ks) ∧ (s.channelOut c ks).flash.chans = clrBit s.flash.chans c := by
  unfold State.channelOut
  dsimp only
  generalize hu : ks.foldl _ _ = u
  have hflash : u.flash = { s.flash with chans := clrBit s.flash.chans c, dies := s.flash.dies.map (offIn ks) } := by
    rw [← hu, foldl_raise_flash]
    rfl
  have hsame := Inv.same (f := .flashDies) (s := u) (fun _ hk h => Inv.segsOutOn hk h fun k => k / 16 == c) (by decide +kernel)
  simp only [Part.same, Prod.mk.injEq] at hsame
  obtain ⟨hdies, hchans, -⟩ := hsame
  exact ⟨hdies.trans (by rw [hflash]), hchans.trans (by rw [hflash])⟩

theorem mget_map_offIn (ks : List Nat) (m : List (Nat × Die)) (k : Nat) :
    mget (m.map (offIn ks)) k = (mget m k).map fun d => (offIn ks (k, d)).2 := by
  induction m with
  | nil => rfl
  | cons e m ih =>
    obtain ⟨k', d⟩ := e
    have hkey : offIn ks (k', d) = (k', (offIn ks (k', d)).2) := by
      unfold offIn
      split
      · rfl
      · rfl
    rw [List.map_cons, hkey, mget, mget]
    split
    · next h => subst h; rfl
    · split
      · rfl
      · exact ih

theorem div_sub_two_pow_of_testBit {n i : Nat} (h : n.testBit i = true) : (n - 2 ^ i) / 2 ^ (i + 1) = n / 2 ^ (i + 1) := by
  rw [Nat.testBit_eq_decide_div_mod_eq, decide_eq_true_eq] at h
  have hd := Nat.sub_mul_div n (2 ^ i) 1
  rw [Nat.mul_one] at hd
  rw [Nat.pow_succ, ← Nat.div_div_eq_div_mul, ← Nat.div_div_eq_div_mul, hd]
  generalize n / 2 ^ i = q at h ⊢
  omega

theorem bit_clrBit_ne {i j : Nat} (n : Nat) (hij : j ≠ i) : bit (clrBit n i) j = bit n j := by
  unfold bit clrBit
  split
  case isFalse => rfl
  case isTrue h =>
    rcases Nat.lt_or_gt_of_ne hij with hlt | hlt
    · obtain ⟨c, hc⟩ := Nat.exists_eq_add_of_lt hlt
      have hle := Nat.ge_two_pow_of_testBit h
      subst hc
      rw [Nat.testBit_eq_decide_div_mod_eq, Nat.testBit_eq_decide_div_mod_eq]
      have hd := Nat.sub_mul_div n (2 ^ j) (2 ^ (c + 1))
      rw [← Nat.pow_add, ← Nat.add_assoc] at hd
      rw [hd]
      have hq : 2 ^ (c + 1) ≤ n / 2 ^ j := (Nat.le_div_iff_mul_le (by positivity)).mpr (by rw [← Nat.pow_add]; convert hle using 2; omega)
      rw [Nat.pow_succ] at hq ⊢
      congr 2
      omega
    · obtain ⟨c, rfl⟩ := Nat.exists_eq_add_of_lt hlt
      rw [Nat.testBit_eq_decide_div_mod_eq, Nat.testBit_eq_decide_div_mod_eq, show i + c + 1 = (i + 1) + c by omega, Nat.pow_add _ (i+1),
        ← Nat.div_div_eq_div_mul, ← Nat.div_div_eq_div_mul, div_sub_two_pow_of_testBit h]
section
variable {s : State} {die : Nat} {d : Die} (hd : mget s.flash.dies die = some d)
include hd

theorem channelOut_die (c : Nat) (ks : List Nat) : mget (s.channelOut c ks).flash.dies die = some (offIn ks (die, d)).2 := by
  rw [(channelOut_flash s c ks).1, mget_map_offIn, hd, Option.map_some]

theorem flashDieLoss_on (hon : d.on = true) : exec (.flashDieLoss die) s = .next (s.channelOut (die / 16) [die]) := by
  simp only [exec, execFlashDieLoss, hd, Option.any_some, hon, if_true]

theorem flashDieLoss_off (hon : d.on = false) : exec (.flashDieLoss die) s = .next s := by
  simp only [exec, execFlashDieLoss, hd, Option.any_some, hon, Bool.false_eq_true, if_false]

/-- A channel that goes out takes its dies that are on, and no other die. -/
theorem channelOut_dieUp (c : Nat) :
    (s.channelOut c ((s.flash.dies.filter fun e => e.1 / 16 == c && e.2.on).map (·.1))).dieUp die = (s.dieUp die && die / 16 != c) := by
  rw [State.dieUp, State.dieUp, channelOut_die hd, (channelOut_flash ..).2, hd, Option.any_some, Option.any_some]
  by_cases h : die / 16 = c
  · subst h
    simp only [bit_clrBit, Bool.false_and, bne_self_eq_false, Bool.and_false]
  · have hother : die ∉ (s.flash.dies.filter fun e => e.1 / 16 == c && e.2.on).map (·.1) := by
      simp only [List.mem_map, List.mem_filter, Bool.and_eq_true, beq_iff_eq, not_exists, not_and, and_imp]
      exact fun e _ hc _ he => h (he ▸ hc)
    have hoff : offIn ((s.flash.dies.filter fun e => e.1 / 16 == c && e.2.on).map (·.1)) (die, d) = (die, d) :=
      if_neg (by rw [List.contains_iff_mem]; exact hother)
    rw [hoff, bit_clrBit_ne _ h, bne_iff_ne.mpr h, Bool.and_true]

end

/-- Settles O29, command by command. -/
theorem flashUpkeepCompletes : Obligations.FlashUpkeepCompletes := by
  intro s die d hd
  refine ⟨fun hpwr hr hgc => ⟨?_, fun n hunits hnone hv hvalid => gcCopy_empties hd hpwr hr hgc hunits hnone hv hvalid⟩,
    fun r hr hroom => flashScrub_counts hd r hr hroom, fun hon => ⟨_, flashDieLoss_on hd hon, rfl, (channelOut_flash ..).2, ?_⟩,
    fun hon => flashDieLoss_off hd hon, fun ch hch => ⟨_, congrArg Host.Outcome.next (if_pos hch), (channelOut_flash ..).2, rfl, channelOut_dieUp hd ch⟩⟩
  · obtain ⟨t, hexec, l, ⟨hmap, hpend, hunits⟩, hmem, hlog⟩ := gcCopy_copiesOn hd hpwr hr hgc
    exact ⟨t, l, hexec, hmap, hpend, hmem, hlog, hunits⟩
  · rw [channelOut_die hd, offIn, if_pos (List.contains_iff_mem.mpr List.mem_cons_self)]

end Sys2Proof.Machine
end

section
/-! Losses of power, of the clock and of the reset line (R285, R374, R375, R377, R403, R404). -/

namespace Sys2Proof.Machine
set_option Elab.async false

/-- What the flush left, the configuration store and the waiting commands outlast a loss of power. -/
structure State.KeepsDurable (s t : State) (b : Boot) (x : Loss) : Prop where
  boot : t.pwr.boot = b
  flushN : t.pwr.flushN = t.flash.flushRec.isSome
  store : t.dict.store = s.dict.store
  pending : t.pending = s.pending
  rings : t.rings = []
  ledger : t.ledger = LedgerSt.reset
  mem : t.mem = []
  step : t.step = State.reset.step
  shards : t.shards = (s.flush x).shards
  flash : t.flash = (s.flush x).flash.off
  log : t.log = (s.flush x).log

theorem flush_store (s : State) (x : Loss) : (s.flush x).dict.store = s.dict.store :=
  Inv.same (f := .dictStore) (fun _ hk h => Inv.flush hk h x) (by decide +kernel)
theorem flush_pending (s : State) (x : Loss) : (s.flush x).pending = s.pending :=
  Inv.same (f := .pending) (fun _ hk h => Inv.flush hk h x) (by decide +kernel)

/-- A loss of power after a flush, of a state that differs from what the flush left in its volatile parts only. -/
theorem powerDown_keeps {s v : State} {b : Boot} {x : Loss} (hstore : v.dict.store = (s.flush x).dict.store)
    (hpending : v.pending = (s.flush x).pending) (hshards : v.shards = (s.flush x).shards) (hflash : v.flash = (s.flush x).flash)
    (hlog : v.log = (s.flush x).log) :
    s.KeepsDurable { v.powerDown with pwr := { v.powerDown.pwr with boot := b, flushN := (s.flush x).flash.flushRec.isSome } } b x where
  boot := rfl
  flushN := by rw [← hflash]; rfl
  store := hstore.trans (flush_store s x)
  pending := hpending.trans (flush_pending s x)
  rings := rfl
  ledger := rfl
  mem := rfl
  step := rfl
  shards := hshards
  flash := congrArg FlashSt.off hflash
  log := hlog

theorem raise_store (s : State) (c l d : Nat) : (s.raise c l d).dict.store = s.dict.store :=
  Inv.same (f := .dictStore) (fun _ hk h => Inv.raise hk h c l d) (by decide +kernel)
theorem bump_store (s : State) (i k n : Nat) : (s.bump i k n).dict.store = s.dict.store :=
  Inv.same (f := .dictStore) (fun _ hk h => Inv.bump hk h i k n) (by decide +kernel)

/-- A running node flushes, and the event and its count go with the power. -/
theorem lossOfInput_keeps {s : State} (hrun : s.pwr.boot = .running) (code detail : Nat) (x : Loss) (b : Boot) :
    s.KeepsDurable (s.lossOfInput code detail x b) b x := by
  have hoff : ¬ s.pwr.boot = .off := by rw [hrun]; decide
  have hflushN : (s.pwr.boot != .running || (s.flush x).flash.flushRec.isSome) = (s.flush x).flash.flushRec.isSome := by
    rw [hrun, bne_self_eq_false, Bool.false_or]
  rw [State.lossOfInput, if_neg hoff, if_pos hrun]
  dsimp only
  rw [hflushN]
  split
  · exact powerDown_keeps (by rw [bump_store, raise_store]) (by rw [State.bump_pending, State.raise_pending])
      (by rw [State.bump_shards, State.raise_shards]) (by rw [State.bump_flash, State.raise_flash]) (by rw [State.bump_log, State.raise_log])
  · exact powerDown_keeps (by rw [raise_store]) (by rw [State.raise_pending]) (by rw [State.raise_shards]) (by rw [State.raise_flash])
      (by rw [State.raise_log])

theorem lossOfInput_off {s : State} (hoff : s.pwr.boot = .off) (code detail : Nat) (x : Loss) (b : Boot) : s.lossOfInput code detail x b = s :=
  if_pos hoff

/-- The commands by which a running node loses its power, its clock or its reset line. -/
theorem loss_keeps {s : State} (hrun : s.pwr.boot = .running) {c : Instr} {b : Boot} {x : Loss}
    (hc : (c = .inputLoss x ∧ b = .off) ∨ (c = .thermalTrip ∧ b = .off ∧ x = cleanLoss) ∨
      (c = .clockFault ∧ b = .waitClock ∧ x = cleanLoss) ∨ (∃ us, 1000 ≤ us ∧ c = .resetPulse us ∧ b = .reset ∧ x = cleanLoss)) :
    ∃ t, exec c s = .next t ∧ s.KeepsDurable t b x := by
  rcases hc with ⟨rfl, rfl⟩ | ⟨rfl, rfl, rfl⟩ | ⟨rfl, rfl, rfl⟩ | ⟨us, hus, rfl, rfl, rfl⟩
  · exact ⟨_, rfl, lossOfInput_keeps hrun ..⟩
  · exact ⟨_, rfl, lossOfInput_keeps hrun ..⟩
  · have hclock : ¬ (s.pwr.boot = .romHalt ∨ s.pwr.boot = .waitClock) := by rw [hrun]; decide
    exact ⟨_, congrArg Host.Outcome.next (if_neg hclock), lossOfInput_keeps hrun ..⟩
  · have hpulse : ¬ (us < 1000 ∨ s.pwr.boot = .waitClock) := by rw [hrun]; simp only [reduceCtorEq, or_false]; omega
    exact ⟨_, congrArg Host.Outcome.next (if_neg hpulse), lossOfInput_keeps hrun ..⟩

theorem resetPulse_off {s : State} (hoff : s.pwr.boot = .off) (us : Nat) : exec (.resetPulse us) s = .next s := by
  simp only [exec, execResetPulse, lossOfInput_off hoff, ite_self]

theorem clockFault_off {s : State} (hoff : s.pwr.boot = .off) : exec .clockFault s = .next s := by
  simp only [exec, execClockFault, lossOfInput_off hoff, ite_self]

/-- Settles O36, by the phase of power. -/
theorem lossesOfPowerKeepWhatIsDurable : Obligations.LossesOfPowerKeepWhatIsDurable := by
  intro s
  refine ⟨fun hrun c b x hc => ?_, fun hoff x us => ⟨congrArg Host.Outcome.next (lossOfInput_off hoff ..),
    congrArg Host.Outcome.next (lossOfInput_off hoff ..), clockFault_off hoff, resetPulse_off hoff us⟩,
    fun us hus => congrArg Host.Outcome.next (if_pos (Or.inl hus)),
    fun hwait => ⟨congrArg Host.Outcome.next (if_pos (Or.inr hwait)), congrArg Host.Outcome.next (if_pos hwait)⟩,
    fun hwait => congrArg Host.Outcome.next (if_neg hwait)⟩
  obtain ⟨t, hexec, hk⟩ := loss_keeps hrun hc
  exact ⟨t, hexec, hk.boot, hk.flushN, hk.store, hk.pending, hk.rings, hk.ledger, hk.mem, hk.step, hk.shards, hk.flash, hk.log⟩

end Sys2Proof.Machine
end

section
/-! Core voltages, the hold energy, the thermal clamp and a marginal input (R372 to R377). -/

namespace Sys2Proof.Machine
set_option Elab.async false

/-! ### VCORE_ADJUST and CAP_TEST (R373, R376) -/

/-- The voltage loop of a plot in service, by the sign of its margin. -/
theorem vcoreAdjust_running {s : State} (hrun : s.pwr.boot = .running) {p : Nat} (hp : p < 16) (hin : bit s.node.plots p = true) (m : Int) :
    let w := vcoreWindow s.step.tier
    let v := mgetD s.pwr.vcore p w.2
    let put := fun n => { s with pwr := { s.pwr with vcore := mput s.pwr.vcore p n } }
    exec (.vcoreAdjust p m) s =
      if m < 0 then
        if v < w.2 then .next (put (min w.2 (v + 25)))
        else .next ((((put v).raise 0xA020 (locPlot p) 0).bump 0xA020 4 1).demandTier (s.askedTier + 1))
      else if 0 < m then .next (put (max w.1 (v - 25))) else .next (put v) := by
  refine if_neg ?_
  simp only [hin, hrun, not_true_eq_false, ne_eq, or_false, not_le]
  exact hp

theorem capTest_due {s : State} (hrun : s.pwr.boot = .running) (hhand : s.node.handAlive = true)
    (henergy : s.liveN 0xA010 7 + 100 ≤ s.liveN 0xA010 6) (hdue : s.pwr.capAt + s.actN 0xA010 8 ≤ s.step.number) (v1 v2 : Nat) :
    let u := ({ s with pwr := { s.pwr with capAt := s.step.number } }.setN 0xA010 5 (holdCap v1 v2)).setN 0xA010 6
      (holdUsable (holdCap v1 v2) (s.liveN 0xA010 4))
    exec (.capTest v1 v2) s = .next (if holdCap v1 v2 < 8600 then u.raise 0xA005 locField 0 else u) := by
  refine if_neg ?_
  simp only [hrun, hhand, not_true_eq_false, ne_eq, false_or, not_or, not_lt]
  exact ⟨henergy, hdue⟩

/-! ### The clamp (R377) -/

theorem setClamp_sets {s : State} (hrun : s.pwr.boot = .running) (hc : s.pwr.clamp = false) :
    s.setClamp = { s with pwr := { s.pwr with clamp := true, cool := 0 } }.raise 0xA012 locField 0 :=
  if_neg (by simp only [hc, hrun, Bool.false_eq_true, ne_eq, not_true_eq_false, or_self, not_false_eq_true])

/-- The node without its clamp, before the clock returns. -/
def State.unclamped (s : State) : State := { s with pwr := { s.pwr with clamp := false, cool := 0 } }

/-- The clock after a clamp: as it is in Seedling service, at the tier of a demand that is met, or at the admitted tier. -/
def State.clockBack (s : State) : State :=
  if s.step.seedling then { s.unclamped with step := { s.unclamped.step with stretch := false } }
  else match s.step.demand, s.step.noAdmit with
    | some t, false => s.unclamped.clockTo t
    | _, _ => ({ s.unclamped with step := { s.unclamped.step with stretch := false } }).clockTo s.step.admTier

theorem clockBack_clamp (s : State) : s.clockBack.pwr.clamp = false ∧ s.clockBack.pwr.cool = 0 := by
  unfold State.clockBack
  split
  · exact ⟨rfl, rfl⟩
  · split
    · exact ⟨rfl, rfl⟩
    · exact ⟨rfl, rfl⟩

theorem clockBack_seedling {s : State} (hs : s.step.seedling = true) :
    s.clockBack.step.tier = s.step.tier ∧ s.clockBack.step.stretch = false := by
  rw [State.clockBack, if_pos hs]
  exact ⟨rfl, rfl⟩

section
variable {s : State} (hs : s.step.seedling = false)
include hs

theorem clockBack_demand {k : Nat} (hd : s.step.demand = some k) (ha : s.step.noAdmit = false) :
    s.clockBack.step.tier = k ∧ s.clockBack.step.stretch = s.step.stretch := by
  rw [State.clockBack, if_neg (by rw [hs]; exact Bool.false_ne_true), hd, ha]
  exact ⟨rfl, rfl⟩

theorem clockBack_admitted (h : s.step.demand = none ∨ s.step.noAdmit = true) :
    s.clockBack.step.tier = s.step.admTier ∧ s.clockBack.step.stretch = false := by
  rw [State.clockBack, if_neg (by rw [hs]; exact Bool.false_ne_true)]
  split
  · next hd ha =>
    rw [hd, ha] at h
    simp only [reduceCtorEq, Bool.false_eq_true, or_self] at h
  · exact ⟨rfl, rfl⟩

end

theorem releaseClamp_ends {s : State} (hc : s.pwr.clamp = true) (hcool : s.actN 0xA030 4 ≤ s.pwr.cool) :
    s.releaseClamp = s.clockBack.raise 0xA014 locField 0 :=
  if_neg (by simp only [hc, not_true_eq_false, false_or, not_lt]; exact hcool)

theorem clampRelease_ends {s : State} (hc : s.pwr.clamp = true) (hcool : s.actN 0xA030 4 ≤ s.pwr.cool) :
    ∃ t, exec .clampRelease s = .next t ∧ t.pwr.clamp = false ∧ t.pwr.cool = 0 ∧
    (s.step.seedling = true → t.step.tier = s.step.tier ∧ t.step.stretch = false) ∧
    (s.step.seedling = false → ∀ k, s.step.demand = some k → s.step.noAdmit = false → t.step.tier = k ∧ t.step.stretch = s.step.stretch) ∧
    (s.step.seedling = false → s.step.demand = none ∨ s.step.noAdmit = true → t.step.tier = s.step.admTier ∧ t.step.stretch = false) := by
  refine ⟨_, congrArg Host.Outcome.next (releaseClamp_ends hc hcool), ?_⟩
  rw [State.raise_pwr, State.raise_step]
  exact ⟨(clockBack_clamp s).1, (clockBack_clamp s).2, clockBack_seedling, fun hs _ hd ha => clockBack_demand hs hd ha, clockBack_admitted⟩

theorem clampRelease_waits {s : State} (h : s.pwr.clamp = false ∨ s.pwr.cool < s.actN 0xA030 4) : exec .clampRelease s = .next s :=
  congrArg Host.Outcome.next (if_pos (h.imp (fun hc => by rw [hc]; exact Bool.false_ne_true) id))

/-! ### VIN_MARGINAL (R374) -/

theorem demandTier_seedling {s : State} (hs : s.step.seedling = true) (k : Nat) : s.demandTier k = s := if_pos (Or.inl hs)

theorem raiseRun_step (s : State) (code unit loc : Nat) (usn : Option (Nat × Nat)) (d : Nat) : (s.raiseRun code unit loc usn d).step = s.step := by
  unfold State.raiseRun
  dsimp only
  rw [apply_ite State.step, State.evU_step, ite_self]

theorem vinMarginal_inBand {s : State} (hrun : s.pwr.boot = .running) {mv : Nat} (hmv : (37000 ≤ mv ∧ mv < 40000) ∨ (58000 < mv ∧ mv ≤ 60000)) :
    exec (.vinMarginal mv) s = .next (if s.step.seedling then s.raiseRun 0xA002 0 locField none 0
      else (s.raiseRun 0xA002 0 locField none 0).demandTier s.slowestTier) := by
  refine congrArg Host.Outcome.next ((if_pos ⟨hrun, hmv⟩).trans ?_)
  cases hs : s.step.seedling with
  | true => rw [State.vinMarginal, demandTier_seedling (by rw [raiseRun_step, hs])]; rfl
  | false => simp only [State.vinMarginal, hs, Bool.false_eq_true, if_false]

theorem vinMarginal_outside {s : State} {mv : Nat} (hmv : mv < 37000 ∨ (40000 ≤ mv ∧ mv ≤ 58000) ∨ 60000 < mv) :
    exec (.vinMarginal mv) s = .next s := congrArg Host.Outcome.next (if_neg (by omega))

/-- Settles O38, command by command. -/
theorem clampsVoltagesAndHoldEnergy : Obligations.ClampsVoltagesAndHoldEnergy := by
  intro s hrun
  refine ⟨fun p m hp hin => ?_, fun v1 v2 hhand henergy hdue => capTest_due hrun hhand henergy hdue v1 v2,
    fun hc => congrArg Host.Outcome.next (setClamp_sets hrun hc), fun hc => congrArg Host.Outcome.next (if_pos (Or.inl hc)),
    clampRelease_ends, clampRelease_waits, fun mv hmv => vinMarginal_inBand hrun hmv, fun mv hmv => vinMarginal_outside hmv⟩
  rw [vcoreAdjust_running hrun hp hin m]
  intro w v put
  refine ⟨fun hm hv => ?_, fun hm hv => ?_, fun hm => ?_, fun hm => ?_⟩
  · rw [if_pos hm, if_pos hv]
  · rw [if_pos hm, if_neg (Nat.not_lt.mpr hv)]
  · rw [if_neg (by omega), if_neg (by omega)]
  · rw [if_neg (by omega), if_pos hm]

end Sys2Proof.Machine
end

section
/-! POWER_ON (R378 to R383): the stages of bring-up, where they stop, and service at Step Number 0. -/

namespace Sys2Proof.Machine
set_option Elab.async false

/-! ### The ledger -/

/-- The parts that hold the ledger. -/
def Part.ofLedger : List Part := [.fars, .stubs, .works, .copies, .waits, .roots, .audits, .subQ]

theorem Part.put_ledger {p : Part} (hp : p ∉ Part.ofLedger) (u v : State) : (p.put u v).ledger = v.ledger := by
  cases p with
  | fars | stubs | works | copies | waits | roots | audits | subQ => exact absurd (by decide) hp
  | _ => rfl

/-- An operation that touches no part of the ledger and takes no power leaves the ledger as it is. -/
theorem Stables.sameLedger (l : LedgerSt) {m : Nat} (hm : Part.ofLedger.all (fun f => !m.testBit f.idx) = true)
    (h69 : m.testBit 69 = false) : Stables (fun v => v.ledger = l) m where
  part p hp u v _ hv := by
    have hne : p ∉ Part.ofLedger := fun hin => by
      have h := List.all_eq_true.mp hm p hin
      rw [hp] at h
      cases h
    exact (Part.put_ledger hne u v).trans hv
  down h := by rw [h69] at h; cases h
  mem _ _ _ _ _ hv := hv

/-- Stage 7 begins to place the shards with the empty ledger, and nothing after that touches it. -/
theorem bootState_ledger (s : State) (r : BootReport) : (s.bootState r).ledger = LedgerSt.reset := by
  have hk : Stables (fun v => v.ledger = LedgerSt.reset) 18448882623926312960 := .sameLedger _ (by decide +kernel) (by decide +kernel)
  unfold State.bootState
  extract_lets s0 s1 s2 s3 s4 s5 fresh s6 owed s7
  have h2 : s2.ledger = LedgerSt.reset := rfl
  clear_value s2
  have h3 : s3.ledger = LedgerSt.reset :=
    Inv.ite (P := fun v => v.ledger = LedgerSt.reset) h2 (Inv.trimProvisional (hk.sub rfl) h2)
  clear_value s3
  have h4 : s4.ledger = LedgerSt.reset := Inv.foldl (P := fun v => v.ledger = LedgerSt.reset)
    (fun v x hv => Inv.setSlotState (hk.sub rfl) (Inv.placeShard (hk.sub rfl) hv ..) ..) h3
  clear_value s4
  have h5 : s5.ledger = LedgerSt.reset := Inv.foldl (P := fun v => v.ledger = LedgerSt.reset)
    (fun v x hv => Inv.applySlot (hk.sub rfl) hv _) h4
  clear_value s5
  have h6 : s6.ledger = LedgerSt.reset := h5
  clear_value s6
  have h7 : s7.ledger = LedgerSt.reset := Inv.foldl (P := fun v => v.ledger = LedgerSt.reset)
    (fun v x hv => Inv.raise (hk.sub rfl) (Inv.setN (hk.sub rfl) (Inv.modPart (hk.sub rfl) hv ..) ..) ..) h6
  exact Inv.endStage (hk.sub rfl) h7 7

/-! ### The units that pass -/

theorem bootPlots_units (s : State) (r : BootReport) :
    (s.bootPlots r).node.plots = r.plotsOk % 65536 ∧ (s.bootPlots r).node.tillers = r.stacksOk % 65536 := by
  unfold State.bootPlots
  extract_lets plots st out v _ _ s1 s2
  have hsame : Part.same s2 ((out.foldl (fun (s : State) p => s.raise 0xA041 (locPlot p) 0) s2).endStage 4) .nodeUnits :=
    Inv.same (fun _ hk h => Inv.endStage hk (Inv.foldl (fun _ _ hv => Inv.raise hk hv ..) h) 4) (by decide +kernel)
  simp only [Part.same, Prod.mk.injEq] at hsame
  obtain ⟨hplots, htillers, -⟩ := hsame
  exact ⟨hplots, htillers⟩

theorem bootUnits_units (s : State) (r : BootReport) : (s.bootUnits r).node.gates = r.gatesOk % 16 ∧
    (s.bootUnits r).node.plots = s.node.plots ∧ (s.bootUnits r).node.tillers = s.node.tillers := by
  unfold State.bootUnits
  extract_lets gates gone _ node s1 s2 s3
  have hsame : Part.same s2 ((((s3.bootFlashUnits r).bootHedge r).bootLeaf r).endStage 5) .nodeUnits :=
    Inv.same (m := 10376412288751099904) (fun _ hk h => Inv.endStage (hk.sub rfl) (Inv.bootLeaf (hk.sub rfl) (Inv.bootHedge (hk.sub rfl)
      (Inv.bootFlashUnits (hk.sub rfl) (Inv.foldl (fun _ _ hv => Inv.raise (hk.sub rfl) hv ..) h) r) r) r) 5) (by decide +kernel)
  simp only [Part.same, Prod.mk.injEq] at hsame
  obtain ⟨hplots, htillers, hgates, -⟩ := hsame
  exact ⟨hgates, hplots, htillers⟩

/-- The node as stages 4 to 7 leave it. -/
def State.bootRest (s : State) (r : BootReport) : State := (((s.bootPlots r).bootUnits r).bootFlash r).bootState r

theorem bootRest_units (s : State) (r : BootReport) : (s.bootRest r).node.plots = r.plotsOk % 65536 ∧
    (s.bootRest r).node.tillers = r.stacksOk % 65536 ∧ (s.bootRest r).node.gates = r.gatesOk % 16 ∧
    (s.bootRest r).node.handDie = s.node.handDie := by
  have hlate : Part.same ((s.bootPlots r).bootUnits r) (s.bootRest r) .nodeUnits :=
    Inv.same (m := 92524132171574747136) (fun _ hk h => Inv.bootState (hk.sub rfl) (Inv.bootFlash (hk.sub rfl) h r) r) (by decide +kernel)
  have hhand : Part.same s (s.bootRest r) .nodeHand :=
    Inv.same (m := 102900496081780597760) (fun _ hk h => Inv.bootState (hk.sub rfl) (Inv.bootFlash (hk.sub rfl)
      (Inv.bootUnits (hk.sub rfl) (Inv.bootPlots (hk.sub rfl) h r) r) r) r) (by decide +kernel)
  obtain ⟨hplots, htillers⟩ := bootPlots_units s r
  obtain ⟨hgates, hplots', htillers'⟩ := bootUnits_units (s.bootPlots r) r
  simp only [Part.same, Prod.mk.injEq] at hlate hhand
  obtain ⟨hp, ht, hg, -⟩ := hlate
  exact ⟨hp.trans (hplots'.trans hplots), ht.trans (htillers'.trans htillers), hg.trans hgates, hhand.1⟩

/-! ### Where bring-up stops -/

/-- Bring-up goes on, or it stopped in reset, in the boot ROM, or at the clock. -/
def StageOut.Named (x : StageOut) : Prop := x.2 = false → x.1.pwr.boot = .reset ∨ x.1.pwr.boot = .romHalt ∨ x.1.pwr.boot = .waitClock

theorem StageOut.Named.andThen {x : StageOut} {f : State → StageOut} (hx : x.Named) (hf : ∀ s, (f s).Named) : (x.andThen f).Named := by
  unfold StageOut.andThen
  split
  · exact hf x.1
  · exact hx

theorem bootGates_named (s : State) (r : BootReport) : (s.bootGates r).Named := by
  unfold State.bootGates
  dsimp only
  split
  · exact fun h => by cases h
  · split
    · exact fun h => by cases h
    · exact fun _ => Or.inl rfl

theorem bootFirmware_named (s : State) (r : BootReport) : (s.bootFirmware r).Named := by
  unfold State.bootFirmware
  extract_lets bank other run s1 s2
  split
  · exact fun h => by cases h
  · split
    · exact fun h => by cases h
    · exact fun _ => Or.inr (Or.inl rfl)

theorem bootClocks_named (s : State) (r : BootReport) : (s.bootClocks r).Named := by
  unfold State.bootClocks
  dsimp only
  split
  · exact fun h => by cases h
  · exact fun _ => Or.inr (Or.inr rfl)

/-! ### Service (R382, R383) -/

/-- In service: Step Number 0 is open under the Seedling set, at tier 2. -/
structure State.BegunService (s : State) : Prop where
  boot : s.pwr.boot = .running
  number : s.step.number = 0
  opened : s.step.open_ = true
  seedling : s.step.seedling = true
  tier : s.step.tier = 2

theorem State.BegunService.of_live {s t : State} (h : s.BegunService) (hi : ∀ P : State → Prop, Stables P 65536 → P s → P t) :
    t.BegunService := by
  have hboot := Inv.same (f := .boot) hi (by decide +kernel)
  have hnumber := Inv.same (f := .stepNumber) hi (by decide +kernel)
  have hopen := Inv.same (f := .stepOpen) hi (by decide +kernel)
  have hplan := Inv.same (f := .stepPlan) hi (by decide +kernel)
  have hclock := Inv.same (f := .stepClock) hi (by decide +kernel)
  simp only [Part.same, Prod.mk.injEq] at hboot hnumber hopen hplan hclock
  exact ⟨hboot.1.trans h.boot, hnumber.trans h.number, hopen.2.trans h.opened, hplan.2.2.2.2.2.trans h.seedling, hclock.1.trans h.tier⟩

theorem State.BegunService.raise {s : State} (h : s.BegunService) (c l d : Nat) : (s.raise c l d).BegunService where
  boot := by rw [State.raise_pwr]; exact h.boot
  number := by rw [State.raise_step]; exact h.number
  opened := by rw [State.raise_step]; exact h.opened
  seedling := by rw [State.raise_step]; exact h.seedling
  tier := by rw [State.raise_step]; exact h.tier

/-- Without the minimal set bring-up halts, and with it service begins. -/
theorem bootService_halts {s : State} {r : BootReport} (h : ¬ s.minimalSet r = true) : (s.bootService r).pwr.boot = .halt := by
  rw [State.bootService, if_pos h]
  rfl

theorem bootService_begins {s : State} {r : BootReport} (h : s.minimalSet r = true) : (s.bootService r).BegunService := by
  rw [State.bootService, if_neg (not_not.mpr h)]
  extract_lets _ step _ s1 d s2 s3 _ s4
  have h1 : s1.BegunService := ⟨rfl, rfl, rfl, rfl, rfl⟩
  have h2 : s2.BegunService := ⟨h1.boot, h1.number, h1.opened, h1.seedling, h1.tier⟩
  clear_value s2
  have h3 : s3.BegunService := h2.of_live fun _ hk h => Inv.flashFigures hk h
  clear_value s3
  have h4 : s4.BegunService := ⟨h3.boot, h3.number, h3.opened, h3.seedling, h3.tier⟩
  exact (h4.raise ..).raise ..

theorem bootService_ledger (s : State) (r : BootReport) : (s.bootService r).ledger = s.ledger :=
  Inv.bootService (Stables.sameLedger s.ledger (by decide +kernel) (by decide +kernel)) rfl r

/-! ### The way to service -/

theorem live_raise_ne (s : State) {c i k : Nat} (l d : Nat) (h : dkey i k ≠ dkey 0xB011 (c / 4096)) : (s.raise c l d).live i k = s.live i k :=
  (State.live_setLive_ne _ _ h).trans rfl

/-- The stages before stage 2 leave what stage 2 checks, and the Hand's die. -/
structure State.KeepsImages (s t : State) : Prop where
  sec : t.sec = s.sec
  fuses : t.live 0x9020 4 = s.live 0x9020 4
  hand : t.node.handDie = s.node.handDie

theorem State.KeepsImages.setN {s t : State} (h : s.KeepsImages t) {i k : Nat} (v : Nat) (hne : dkey 0x9020 4 ≠ dkey i k) :
    s.KeepsImages (t.setN i k v) := ⟨h.sec, (State.live_setLive_ne _ _ hne).trans h.fuses, h.hand⟩

theorem State.KeepsImages.raise {s t : State} (h : s.KeepsImages t) {c : Nat} (l d : Nat) (hne : dkey 0x9020 4 ≠ dkey 0xB011 (c / 4096)) :
    s.KeepsImages (t.raise c l d) :=
  ⟨by rw [State.raise_sec]; exact h.sec, (live_raise_ne _ _ _ hne).trans h.fuses, by rw [State.raise_node_handDie]; exact h.hand⟩

theorem State.KeepsImages.endStage {s t : State} (h : s.KeepsImages t) (n : Nat) : s.KeepsImages (t.endStage n) :=
  (h.raise _ _ (by decide)).setN _ (by decide)

/-- With G0, stage 1 goes on. -/
theorem bootGates_g0 (s : State) {r : BootReport} (hg : r.g0Alive = true) : (s.bootGates r).2 = true ∧ s.KeepsImages (s.bootGates r).1 := by
  rw [State.bootGates, if_pos hg]
  refine ⟨rfl, State.KeepsImages.endStage ?_ 1⟩
  have hset (p : PwrSt) (a b : Nat) : s.KeepsImages ((({ s with pwr := p } : State).setN 0x1000 7 a).setN 0x1020 1 b) := by
    have h0 : s.KeepsImages { s with pwr := p } := ⟨rfl, rfl, rfl⟩
    exact (h0.setN _ (by decide)).setN _ (by decide)
  split
  · exact (hset ..).raise _ _ (by decide)
  · exact hset ..

/-- With a bank that passes, stage 2 goes on. -/
theorem bootFirmware_passes {s : State} {r : BootReport}
    (hbank : s.bankPasses r (if s.sec.swap then 1 - s.sec.bank else s.sec.bank) r.bankOk = true) : (s.bootFirmware r).2 = true := by
  unfold State.bootFirmware
  extract_lets bank other run s1 s2
  rw [if_pos hbank]

theorem bootClocks_passes (s : State) {r : BootReport} (hclk : r.refclkOk = true) : (s.bootClocks r).2 = true := by
  rw [State.bootClocks, if_pos hclk]

theorem State.KeepsImages.bankPasses {s t : State} (h : s.KeepsImages t) (r : BootReport) (bank : Nat) (ok : Bool) :
    t.bankPasses r bank ok = s.bankPasses r bank ok := by
  have hsvn : t.svnOf r bank = s.svnOf r bank := by
    funext c
    rw [State.svnOf, h.sec]
    rfl
  rw [State.bankPasses, h.fuses, hsvn]
  rfl

/-! ### POWER_ON -/

/-- Stages 1 to 3. -/
def State.bootEarly (s : State) (r : BootReport) : StageOut := ((s.bootGates r).andThen fun s => s.bootFirmware r).andThen fun s => s.bootClocks r

/-- Bring-up from stage 1 on. -/
def State.bootFrom (s : State) (r : BootReport) : State := ((s.bootEarly r).andThen fun s => ((s.bootRest r).bootService r, true)).1

theorem Inv.bootFrom {P : State → Prop} (hk : Stables P 139793984229199834906) {s : State} (h : P s) (r : BootReport) : P (s.bootFrom r) :=
  Inv.andThen (Inv.andThen (Inv.andThen (Inv.bootGates (hk.sub rfl) h r) fun _ g => Inv.bootFirmware (hk.sub rfl) g r)
    fun _ g => Inv.bootClocks (hk.sub rfl) g r) fun _ g => Inv.bootService (hk.sub rfl) (Inv.bootState (hk.sub rfl)
      (Inv.bootFlash (hk.sub rfl) (Inv.bootUnits (hk.sub rfl) (Inv.bootPlots (hk.sub rfl) g r) r) r) r) r

theorem bootEarly_named (s : State) (r : BootReport) : (s.bootEarly r).Named :=
  ((bootGates_named s r).andThen fun s => bootFirmware_named s r).andThen fun s => bootClocks_named s r

/-- Bring-up stops in the first stages, or it comes to the end of stage 8. -/
theorem bootFrom_cases (s : State) (r : BootReport) :
    (s.bootFrom r = ((s.bootEarly r).1.bootRest r).bootService r ∧ (s.bootEarly r).2 = true) ∨
    ((s.bootFrom r).pwr.boot = .reset ∨ (s.bootFrom r).pwr.boot = .romHalt ∨ (s.bootFrom r).pwr.boot = .waitClock) := by
  unfold State.bootFrom
  cases hx : (s.bootEarly r).2 with
  | true => exact Or.inl ⟨by rw [StageOut.andThen, if_pos hx], rfl⟩
  | false => exact Or.inr (by rw [StageOut.andThen, if_neg (by rw [hx]; exact Bool.false_ne_true)]; exact bootEarly_named s r hx)

theorem bootFrom_on (s : State) (r : BootReport) : (s.bootFrom r).pwr.boot ≠ .off := by
  rcases bootFrom_cases s r with ⟨h, -⟩ | h
  · rw [h]
    by_cases hmin : ((s.bootEarly r).1.bootRest r).minimalSet r = true
    · rw [(bootService_begins hmin).boot]
      decide
    · rw [bootService_halts hmin]
      decide
  · rcases h with h | h | h
    · rw [h]; decide
    · rw [h]; decide
    · rw [h]; decide

theorem bootFrom_running {s : State} {r : BootReport} (h : (s.bootFrom r).pwr.boot = .running) :
    (s.bootFrom r).BegunService ∧ (s.bootFrom r).ledger = LedgerSt.reset := by
  rcases bootFrom_cases s r with ⟨ht, -⟩ | hstop
  · rw [ht] at h ⊢
    have hmin : ((s.bootEarly r).1.bootRest r).minimalSet r = true := by
      by_contra hmin
      rw [bootService_halts hmin] at h
      cases h
    exact ⟨bootService_begins hmin, (bootService_ledger ..).trans (bootState_ledger ..)⟩
  · rw [h] at hstop
    simp only [reduceCtorEq, or_self] at hstop

section
variable {s : State} {r : BootReport} (hg : r.g0Alive = true) (hclk : r.refclkOk = true)
  (hbank : s.bankPasses r (if s.sec.swap then 1 - s.sec.bank else s.sec.bank) r.bankOk = true)
include hg hclk hbank

/-- With G0, a bank and the clock, the first stages go on, with the Hand on its die. -/
theorem bootEarly_goesOn : (s.bootEarly r).2 = true ∧ (s.bootEarly r).1.node.handDie = s.node.handDie := by
  obtain ⟨hgates, hkeep⟩ := bootGates_g0 s hg
  have hfirm : ((s.bootGates r).1.bootFirmware r).2 = true := by
    refine bootFirmware_passes ?_
    rw [hkeep.bankPasses, hkeep.sec]
    exact hbank
  have hearly : s.bootEarly r = ((s.bootGates r).1.bootFirmware r).1.bootClocks r := by
    rw [State.bootEarly, StageOut.andThen, StageOut.andThen, if_pos hgates, if_pos hfirm]
  have hhand : Part.same (s.bootGates r).1 (((s.bootGates r).1.bootFirmware r).1.bootClocks r).1 .nodeHand :=
    Inv.same (m := 119903836479145762832) (fun _ hk h => Inv.bootClocks (hk.sub rfl) (Inv.bootFirmware (hk.sub rfl) h r) r) (by decide +kernel)
  simp only [Part.same, Prod.mk.injEq] at hhand
  rw [hearly]
  exact ⟨bootClocks_passes _ hclk, hhand.1.trans hkeep.hand⟩

/-- With the minimal set besides, bring-up ends in service. -/
theorem bootFrom_service (hdie : s.node.handDie = 0) (hhead : r.headlandOk = true) (hgate : bit r.gatesOk 0 = true)
    (hplot : ∃ p, p < 16 ∧ bit r.plotsOk p = true ∧ bit r.stacksOk p = true) : (s.bootFrom r).pwr.boot = .running := by
  obtain ⟨hon, hhand⟩ := bootEarly_goesOn hg hclk hbank
  have hfrom : s.bootFrom r = ((s.bootEarly r).1.bootRest r).bootService r := by rw [State.bootFrom, StageOut.andThen, if_pos hon]
  obtain ⟨hplots, htillers, hgates, hdie'⟩ := bootRest_units (s.bootEarly r).1 r
  obtain ⟨p, hp, hpp, hps⟩ := hplot
  have hmod {n k : Nat} (i : Nat) (hi : i < k) (h : bit n i = true) : bit (n % 2 ^ k) i = true := by
    rw [bit, Nat.testBit_mod_two_pow, Bool.and_eq_true, decide_eq_true_eq]
    exact ⟨hi, h⟩
  have hmin : ((s.bootEarly r).1.bootRest r).minimalSet r = true := by
    have hbit : bit (r.gatesOk % 16) 0 = true := hmod (k := 4) 0 (by decide) hgate
    have hne : (r.gatesOk % 16 != 0) = true := bne_iff_ne.mpr fun h0 => by rw [h0] at hbit; cases hbit
    have hany : (List.range 16).any (fun p => bit (r.plotsOk % 65536) p && bit (r.stacksOk % 65536) p) = true :=
      List.any_eq_true.mpr ⟨p, List.mem_range.mpr hp, Bool.and_eq_true_iff.mpr ⟨hmod (k := 16) p hp hpp, hmod (k := 16) p hp hps⟩⟩
    rw [State.minimalSet, hplots, htillers, hgates, hdie', hhand, hdie, hbit, hany, hhead, hne]
    rfl
  rw [hfrom]
  exact (bootService_begins hmin).boot

end

/-- Settles O60: what stage 1 begins from is the node without power. -/
theorem bringUpStartsSteps : Obligations.BringUpStartsSteps := by
  intro s r hboot
  obtain ⟨s1, hexec, hkeep, hstore, hpending, hrings, hmem⟩ : ∃ s1 : State, exec (.powerOn r) s = .next (s1.bootFrom r) ∧
      s.powerDown.KeepsImages s1 ∧ s1.dict.store = s.dict.store ∧ s1.pending = s.pending ∧ s1.rings = [] ∧ s1.mem = [] := by
    rcases hboot with h | h
    · exact ⟨s.powerDown.endStage 0, by simp only [exec, execPowerOn, h, if_true]; rfl,
        State.KeepsImages.endStage ⟨rfl, rfl, rfl⟩ 0, rfl, rfl, rfl, rfl⟩
    · exact ⟨s.powerDown.setN 0xA050 1 1, by simp only [exec, execPowerOn, h, if_false, reduceCtorEq]; rfl,
        State.KeepsImages.setN ⟨rfl, rfl, rfl⟩ _ (by decide), rfl, rfl, rfl, rfl⟩
  have hi : ∀ P : State → Prop, Stables P 139793984229199834906 → P s1 → P (s1.bootFrom r) := fun _ hk h => Inv.bootFrom hk h r
  refine ⟨_, hexec, bootFrom_on s1 r, (Inv.same (f := .dictStore) hi (by decide +kernel)).trans hstore,
    (Inv.same (f := .pending) hi (by decide +kernel)).trans hpending, (Inv.same (f := .rings) hi (by decide +kernel)).trans hrings,
    (Inv.sameMemory hi (by decide +kernel)).trans hmem, fun h => ?_, fun hg hclk hhead hgate hbank hplot => ?_⟩
  · obtain ⟨hbegun, hledger⟩ := bootFrom_running h
    exact ⟨hbegun.number, hbegun.opened, hbegun.seedling, hbegun.tier, hledger⟩
  · refine bootFrom_service hg hclk ?_ (hkeep.hand.trans rfl) hhead hgate hplot
    rw [hkeep.bankPasses, hkeep.sec]
    exact hbank

end Sys2Proof.Machine
end

section
/-! The frames of the field network (R323 to R328). -/

namespace Sys2Proof.Machine
set_option Elab.async false

/-! ### Transfers (R327) -/

section
variable (s : State)

theorem xfer_congr {s t : State} (h : t.dict.xfers = s.dict.xfers) (mac : Nat) : t.xfer mac = s.xfer mac := by
  rw [State.xfer, h, State.xfer]

theorem xfer_mac {s : State} {mac : Nat} {x : Xfer} (h : s.xfer mac = some x) : x.mac = mac := by
  simpa only [beq_iff_eq] using List.find?_some h

theorem xfer_endXfer (mac : Nat) : (s.endXfer mac).xfer mac = none := by
  refine List.find?_eq_none.mpr fun x hx => ?_
  have hne := (List.mem_filter.mp hx).2
  simp only [bne_iff_ne] at hne
  simpa only [beq_iff_eq] using hne

theorem xfer_putXfer (x : Xfer) : (s.putXfer x).xfer x.mac = some x := by
  rw [State.xfer, State.putXfer, List.find?_append, ← State.xfer, xfer_endXfer, Option.none_or]
  exact List.find?_cons_of_pos (beq_self_eq_true x.mac)

theorem putXfer_resp (x : Xfer) : (s.putXfer x).dict.resp = s.dict.resp := rfl
theorem putXfer_sets (x : Xfer) : (s.putXfer x).dict.sets = s.dict.sets := rfl
theorem endXfer_resp (mac : Nat) : (s.endXfer mac).dict.resp = s.dict.resp := rfl
theorem respond_xfer (svc : Nat) (f : FdpFrame) (res : Nat) (last : Bool) (total : Nat) (v : Bytes) (mac : Nat) :
    (s.respond svc f res last total v).xfer mac = s.xfer mac := rfl
theorem respond_resp (svc : Nat) (f : FdpFrame) (res : Nat) (last : Bool) (total : Nat) (v : Bytes) :
    (s.respond svc f res last total v).dict.resp = s.dict.resp ++ [⟨f.mac, svc, last, res, f.transaction, f.index, f.sub, total, v⟩] := rfl

theorem tookFrame_xfer (f : FdpFrame) (mac : Nat) : (s.tookFrame f).xfer mac = s.xfer mac := xfer_congr (tookFrame_keeps s f).1 mac

theorem tookFrame_resp (f : FdpFrame) : (s.tookFrame f).dict.resp = s.dict.resp := by
  obtain ⟨-, hresp, -⟩ := tookFrame_keeps s f
  exact hresp

theorem tookFrame_pendingSet (f : FdpFrame) (x : Src) : (s.tookFrame f).pendingSet x = s.pendingSet x := by
  obtain ⟨-, -, hsets, hcommits, -⟩ := tookFrame_keeps s f
  simp only [State.pendingSet, State.stagedSet, hsets, hcommits]

theorem tookFrame_step (f : FdpFrame) : (s.tookFrame f).step = s.step := by
  obtain ⟨-, -, -, -, -, hstep, -⟩ := tookFrame_keeps s f
  exact hstep

end

/-! ### Expedited frames and the first frame of a transfer (R324, R326, R327) -/

section
variable {s : State} {f : FdpFrame}

theorem readExpedited_answers (h : s.takesFrame 1 f) (hr : readFail f.index f.sub true = none) :
    exec (.readExpedited f) s = .next ((s.tookFrame f).respond 1 f 0 true 0 ((s.tookFrame f).frameRead f)) := by
  simp only [exec, execReadExpedited, fdp_takes _ h, hr]

theorem writeExpedited_stages {r : DRow} (h : s.takesFrame 2 f) (hr : stageRow f.index f.sub = .inr r) (hlong : longEntry r.typ = false)
    (hlen : f.value.length ≤ 32) :
    exec (.writeExpedited f) s = .next ((((s.tookFrame f).stageValue (.mac f.mac) f.index f.sub f.value).1).answer 2 f
      ((s.tookFrame f).stageValue (.mac f.mac) f.index f.sub f.value).2) := by
  have hno : ¬ (longEntry r.typ = true ∨ 32 < f.value.length) := by rw [hlong]; simp only [Bool.false_eq_true, false_or]; omega
  simp only [exec, execWriteExpedited, fdp_takes _ h, hr, if_neg hno]

theorem readInit_begins (h : s.takesFrame 3 f) (hx : s.xfer f.mac = none) (hr : readFail f.index f.sub false = none) :
    let v := (s.tookFrame f).frameRead f
    ∃ t, exec (.readInit f) s = .next t ∧
      t.dict.resp = s.dict.resp ++ [⟨f.mac, 3, decide (v.length ≤ 1024), 0, f.transaction, f.index, f.sub, v.length, v.take 1024⟩] ∧
      (1024 < v.length → t.xfer f.mac = some ⟨f.mac, f.transaction, false, f.index, f.sub, v.length, v, 1024, s.step.number⟩) := by
  intro v
  let s1 := (s.tookFrame f).respond 3 f 0 (decide (v.length ≤ 1024)) v.length (v.take 1024)
  have hexec : exec (.readInit f) s = .next (if v.length ≤ 1024 then s1
      else s1.putXfer ⟨f.mac, f.transaction, false, f.index, f.sub, v.length, v, 1024, s.step.number⟩) := by
    simp only [exec, execReadInit, fdp_takes _ h, tookFrame_xfer, hx, hr, tookFrame_step, Option.isSome_none, Bool.false_eq_true, if_false]
    rfl
  have hresp : s1.dict.resp = s.dict.resp ++ [_] := (respond_resp ..).trans (by rw [tookFrame_resp])
  refine ⟨_, hexec, ?_, fun hlong => ?_⟩
  · split
    · exact hresp
    · exact hresp
  · rw [if_neg (by omega)]
    exact xfer_putXfer ..

theorem writeInit_begins {r : DRow} (h : s.takesFrame 4 f) (hx : s.xfer f.mac = none) (hr : stageRow f.index f.sub = .inr r)
    (hp : s.pendingSet (.mac f.mac) = false) (hsize : dsize r.typ = some f.total ∨ (dsize r.typ = none ∧ f.total ≤ 16777216))
    (hlen : f.value.length < f.total) (hlast : f.last = false) :
    ∃ t, exec (.writeInit f) s = .next t ∧
      t.xfer f.mac = some ⟨f.mac, f.transaction, true, f.index, f.sub, f.total, f.value, f.value.length, s.step.number⟩ ∧
      t.dict.resp = s.dict.resp ++ [⟨f.mac, 4, true, 0, f.transaction, f.index, f.sub, 0, []⟩] ∧ t.dict.sets = s.dict.sets := by
  have hne : ¬ f.value.length = f.total := by omega
  have hexec : exec (.writeInit f) s = .next (((s.tookFrame f).answer 4 f 0).putXfer
      ⟨f.mac, f.transaction, true, f.index, f.sub, f.total, f.value, f.value.length, s.step.number⟩) := by
    simp only [exec, execWriteInit, fdp_takes _ h, tookFrame_xfer, hx, hr, tookFrame_step, tookFrame_pendingSet, hp, hne, hlast,
      Option.isSome_none, Bool.false_eq_true, if_false]
    refine congrArg Host.Outcome.next (if_neg ?_)
    have hshort : ¬ f.total < f.value.length := by omega
    rcases hsize with hs | ⟨hs, hle⟩
    · simp only [hs, bne_self_eq_false, hshort, decide_false, Bool.or_self, Bool.false_eq_true, not_false_eq_true]
    · simp only [hs, Nat.not_lt.mpr hle, hshort, decide_false, Bool.or_self, Bool.false_eq_true, not_false_eq_true]
  obtain ⟨-, -, hsets, -⟩ := tookFrame_keeps s f
  refine ⟨_, hexec, xfer_putXfer .., ?_, hsets⟩
  rw [putXfer_resp, State.answer, respond_resp, tookFrame_resp]

/-! ### Segments and the end of a transfer (R327) -/

section
variable {x : Xfer} (h : s.takesFrame 5 f) (hx : s.xfer f.mac = some x) (hat : f.total = x.moved)
include h hx hat

theorem segment_writes (hw : x.write = true) (hlast : f.last = false) (hlen : x.buf.length + f.value.length < x.total) :
    ∃ t, exec (.segment f) s = .next t ∧
      t.xfer f.mac = some { x with buf := x.buf ++ f.value, moved := x.buf.length + f.value.length, since := s.step.number } := by
  have hmore : ¬ (x.total < (x.buf ++ f.value).length ∨ (f.last = true ∧ (x.buf ++ f.value).length < x.total)) := by
    rw [List.length_append, hlast]
    simp only [Bool.false_eq_true, false_and, or_false]
    omega
  have hne : ¬ (x.buf ++ f.value).length = x.total := by rw [List.length_append]; omega
  have hexec : exec (.segment f) s = .next (((s.tookFrame f).answer 5 f 0).putXfer
      { x with buf := x.buf ++ f.value, moved := (x.buf ++ f.value).length, since := s.step.number }) := by
    simp only [exec, execSegment, fdp_takes _ h, tookFrame_xfer, hx, tookFrame_step, hat, hw, if_neg hmore, hne, ne_eq, not_true_eq_false,
      if_false, if_true]
  refine ⟨_, hexec, ?_⟩
  rw [← xfer_mac hx, List.length_append]
  exact xfer_putXfer ..

theorem segment_reads (hw : x.write = false) (hlen : x.moved + (sl x.buf x.moved 1024).length < x.total) :
    ∃ t, exec (.segment f) s = .next t ∧
      t.xfer f.mac = some { x with moved := x.moved + (sl x.buf x.moved 1024).length, since := s.step.number } ∧
      t.dict.resp = s.dict.resp ++ [⟨f.mac, 5, false, 0, f.transaction, f.index, f.sub, x.moved, sl x.buf x.moved 1024⟩] := by
  have hmore : ¬ x.total ≤ x.moved + (sl x.buf x.moved 1024).length := by omega
  have hexec : exec (.segment f) s = .next (((s.tookFrame f).respond 5 f 0 false x.moved (sl x.buf x.moved 1024)).putXfer
      { x with moved := x.moved + (sl x.buf x.moved 1024).length, since := s.step.number }) := by
    simp only [exec, execSegment, fdp_takes _ h, tookFrame_xfer, hx, tookFrame_step, hat, hw, hmore, ne_eq, not_true_eq_false, if_false,
      Bool.false_eq_true, decide_false]
  refine ⟨_, hexec, ?_, ?_⟩
  · rw [← xfer_mac hx]
    exact xfer_putXfer ..
  · rw [putXfer_resp, respond_resp, tookFrame_resp]

end

theorem abort_ends {x : Xfer} (h : s.takesFrame 6 f) (hx : s.xfer f.mac = some x) (hlen : f.value.length = 2) (htxn : leNat f.value = x.txn) :
    ∃ t, exec (.abort f) s = .next t ∧ t.xfer f.mac = none ∧
      t.dict.resp = s.dict.resp ++ [⟨f.mac, 6, true, 0, f.transaction, f.index, f.sub, 0, []⟩] := by
  have hexec : exec (.abort f) s = .next (((s.tookFrame f).endXfer f.mac).answer 6 f 0) := by
    simp only [exec, execAbort, fdp_takes _ h, tookFrame_xfer, hx, hlen, htxn, and_self, if_true]
  refine ⟨_, hexec, xfer_endXfer .., ?_⟩
  rw [State.answer, respond_resp, endXfer_resp, tookFrame_resp]

end

theorem transferIdleExpiry_ends {s : State} {mac : Nat} {x : Xfer} (hx : s.xfer mac = some x) (hdue : x.since + s.comN 0x1020 5 ≤ s.step.number) :
    ∃ t, exec (.transferIdleExpiry mac) s = .next t ∧ t.xfer mac = none ∧ t.dict.expired.contains mac = true := by
  have hnot : ¬ s.step.number < x.since + s.comN 0x1020 5 := by omega
  refine ⟨_, by simp only [exec, execTransferIdleExpiry, hx, hnot, if_false]; rfl, ?_, ?_⟩
  · exact (xfer_congr (s := s.endXfer mac) rfl mac).trans (xfer_endXfer s mac)
  · exact List.contains_iff_mem.mpr List.mem_cons_self

theorem transmitOpportunity_sends {s : State} {r : FdpResp} {rest : List FdpResp} (hr : s.dict.resp = r :: rest) (hport : s.liveN 0x1020 1 ≠ 0) :
    ∃ t, exec .transmitOpportunity s = .next t ∧ t.dict.resp = rest ∧ t.dict.sent = s.dict.sent ++ [r] ∧ t.dict.sets = s.dict.sets := by
  have hexec : exec .transmitOpportunity s = .next (({ s with dict := { s.dict with
      resp := rest, sent := s.dict.sent ++ [r], lastResp := mput s.dict.lastResp r.mac r } }).bump 0x1020 3 1) := by
    simp only [exec, execTransmitOpportunity, hr, hport, if_false]
  exact ⟨_, hexec, rfl, rfl, rfl⟩

/-- Settles O41, service by service. -/
theorem fieldTransfersComplete : Obligations.FieldTransfersComplete :=
  ⟨fun _ _ => readExpedited_answers, fun _ _ _ => writeExpedited_stages, fun _ _ => readInit_begins, fun _ _ _ => writeInit_begins,
    fun _ _ _ h hx hat => ⟨segment_writes h hx hat, segment_reads h hx hat⟩, fun _ _ _ => abort_ends, fun _ _ _ => transferIdleExpiry_ends,
    fun _ _ _ => transmitOpportunity_sends⟩

end Sys2Proof.Machine
end

section
/-! Staging, the mirror's writes and COMMIT_APPLY (R328 to R331). -/

namespace Sys2Proof.Machine
set_option Elab.async false

/-! ### COMMIT and DISCARD of the field network (R330, R331) -/

section
variable {s : State} {f : FdpFrame}

theorem askCommit_waits (s : State) (x : Src) (txn : Option Nat) : ∃ q, (s.askCommit x txn).dict.commits = s.dict.commits ++ [q] ∧ q.src = x ∧
    q.txn = txn ∧ s.step.number + 16 ≤ q.due := ⟨_, rfl, rfl, rfl, Nat.le_add_right ..⟩

theorem commit_asks (h : s.takesFrame 7 f) (hp : s.pendingSet (.mac f.mac) = false) :
    ∃ t q, exec (.commit f) s = .next t ∧ t.dict.commits = s.dict.commits ++ [q] ∧ q.src = .mac f.mac ∧ q.txn = some f.transaction ∧
      s.step.number + 16 ≤ q.due ∧ t.dict.committed = s.dict.committed := by
  have hexec : exec (.commit f) s = .next ((s.tookFrame f).askCommit (.mac f.mac) (some f.transaction)) := by
    simp only [exec, execCommit, fdp_takes _ h, tookFrame_pendingSet, hp, Bool.false_eq_true, if_false]
  obtain ⟨q, hcommits, hsrc, htxn, hdue⟩ := askCommit_waits (s.tookFrame f) (.mac f.mac) (some f.transaction)
  obtain ⟨-, -, -, hc, hcom, hstep, -⟩ := tookFrame_keeps s f
  rw [hc] at hcommits
  rw [hstep] at hdue
  exact ⟨_, q, hexec, hcommits, hsrc, htxn, hdue, hcom⟩

theorem discard_drops (h : s.takesFrame 8 f) (hp : s.pendingSet (.mac f.mac) = false) :
    ∃ t, exec (.discard f) s = .next t ∧ t.dict.sets = s.dict.sets.filter (fun x => x.src != .mac f.mac) ∧
      t.dict.committed = s.dict.committed := by
  have hexec : exec (.discard f) s = .next (((s.tookFrame f).dropSet (.mac f.mac)).answer 8 f 0) := by
    simp only [exec, execDiscard, fdp_takes _ h, tookFrame_pendingSet, hp, Bool.false_eq_true, if_false]
  obtain ⟨-, -, hsets, -, hcom, -⟩ := tookFrame_keeps s f
  exact ⟨_, hexec, congrArg (List.filter _) hsets, hcom⟩

end

/-! ### The mirror (R328, R329) -/

/-- A value over a whole entry is that value. -/
theorem overlay_whole {b v : Bytes} (h : v.length = b.length) : overlay b 0 v = v := by
  rw [overlay, List.take_zero, List.nil_append, Nat.zero_add, h, List.drop_length, List.append_nil, ← h, List.take_length]

section
variable {s : State} {qp idx sub : Nat} {b : Bytes} {r : DRow}

/-- A write of a whole entry stages its bytes. -/
theorem mirrorStage_whole (hr : stageRow idx sub = .inr r) (hlen : dsize r.typ = some b.length) :
    s.mirrorStage qp idx sub 0 b = s.stageValue (.qp qp) idx sub b := by
  unfold State.mirrorStage
  rw [hr]
  dsimp only
  have hwhole (old : Bytes) : overlay (padTo b.length old) 0 b = b := overlay_whole (padTo_length ..).symm
  cases ht : r.typ with
  | dom => rw [ht] at hlen; cases hlen
  | oct n | vis n =>
    rw [ht, dsize, Option.some_inj] at hlen
    simp only [hlen, hwhole, Nat.zero_add, lt_irrefl, if_false]
  | bool | uint | real => rfl

theorem mirrorWrite_serves (hs : s.handServes = true) (hq : s.privileged qp = true) (off : Nat) :
    s.mirrorWrite qp idx sub off b = { (s.mirrorStage qp idx sub off b).1 with
      resp := if (s.mirrorStage qp idx sub off b).2 = 0 then .done else .nak } := by
  rw [State.mirrorWrite, if_neg (by rw [hs]; exact not_not.mpr rfl), if_neg (by rw [hq]; exact not_not.mpr rfl)]

/-- A value that passes is put into its source's set. -/
theorem stageValue_puts {x : Src} {v : Bytes} (hr : stageRow idx sub = .inr r) (henc : encOk r.typ v = true) (hp : s.pendingSet x = false)
    (hidx : idx ≠ 0x1030) (hput : (s.putStaged x idx sub v).2 = 0) : s.stageValue x idx sub v = s.putStaged x idx sub v := by
  simp only [State.stageValue, hr, henc, hp, hidx, hput, not_true_eq_false, if_false, Bool.false_eq_true, false_and, if_true]

theorem putStaged_new {x : Src} {v : Bytes} (hset : s.stagedSet x = none) (hsets : s.dict.sets.length < 8) (hlen : v.length ≤ 4194304) :
    s.putStaged x idx sub v = ({ s with dict := { s.dict with
      sets := (s.dict.sets.filter fun y => y.src != x) ++ [⟨x, [(dkey idx sub, v)], false⟩] } }, 0) := by
  have hbytes : ¬ 4194304 < (StagedSet.mk x [(dkey idx sub, v)] false).bytes := Nat.not_lt.mpr ((Nat.zero_add _).trans_le hlen)
  unfold State.putStaged
  rw [hset]
  refine if_neg ?_
  rintro (h | h | ⟨-, h⟩)
  · cases h
  · exact hbytes h
  · omega

theorem mirrorStagingWrite_stages (hs : s.handServes = true) (hq : s.privileged qp = true) (hr : stageRow idx sub = .inr r)
    (hlen : dsize r.typ = some b.length) (henc : encOk r.typ b = true) (hp : s.pendingSet (.qp qp) = false) (hidx : idx ≠ 0x1030)
    (hset : s.stagedSet (.qp qp) = none) (hsets : s.dict.sets.length < 8) (hmax : b.length ≤ 4194304) :
    ∃ t, exec (.mirrorStagingWrite qp idx sub 0 b) s = .next t ∧ t.resp = .done ∧
      t.dict.sets = s.dict.sets.filter (fun x => x.src != .qp qp) ++ [⟨.qp qp, [(dkey idx sub, b)], false⟩] ∧
      t.dict.committed = s.dict.committed := by
  have hput := putStaged_new (idx := idx) (sub := sub) hset hsets hmax
  have hstage := (mirrorStage_whole hr hlen).trans ((stageValue_puts hr henc hp hidx (congrArg (·.2) hput)).trans hput)
  refine ⟨_, congrArg Host.Outcome.next (mirrorWrite_serves hs hq 0), ?_⟩
  rw [hstage]
  exact ⟨rfl, rfl, rfl⟩

/-- DICT.COMMIT and DICT.DISCARD are entries of four bytes that are written only. -/
theorem stageRow_commit : ∃ r, stageRow 0x1030 1 = .inr r ∧ r.typ = .uint 4 := ⟨_, rfl, rfl⟩
theorem stageRow_discard : ∃ r, stageRow 0x1030 2 = .inr r ∧ r.typ = .uint 4 := ⟨_, rfl, rfl⟩

variable (hs : s.handServes = true) (hq : s.privileged qp = true) (hp : s.pendingSet (.qp qp) = false)
include hs hq hp

theorem dictCommit_asks : ∃ t q, exec (.dictCommit qp) s = .next t ∧ t.resp = .done ∧ t.dict.commits = s.dict.commits ++ [q] ∧ q.src = .qp qp ∧
    q.txn = none := by
  have hstage : s.mirrorStage qp 0x1030 1 0 (zeros 4) = (s.askCommit (.qp qp) none, 0) := by
    obtain ⟨r, hr, ht⟩ := stageRow_commit
    have henc : encOk (.uint 4) (zeros 4) = true := by decide
    rw [mirrorStage_whole hr (by rw [ht]; rfl)]
    simp only [State.stageValue, hr, ht, henc, hp, not_true_eq_false, if_false, Bool.false_eq_true, and_self, if_true]
  obtain ⟨q, hcommits, hsrc, htxn, -⟩ := askCommit_waits s (.qp qp) none
  refine ⟨_, q, congrArg Host.Outcome.next (mirrorWrite_serves hs hq 0), ?_⟩
  rw [hstage]
  exact ⟨rfl, hcommits, hsrc, htxn⟩

theorem dictDiscard_drops : ∃ t, exec (.dictDiscard qp) s = .next t ∧ t.resp = .done ∧
    t.dict.sets = s.dict.sets.filter fun x => x.src != .qp qp := by
  have hstage : s.mirrorStage qp 0x1030 2 0 (zeros 4) = (s.dropSet (.qp qp), 0) := by
    obtain ⟨r, hr, ht⟩ := stageRow_discard
    have henc : encOk (.uint 4) (zeros 4) = true := by decide
    rw [mirrorStage_whole hr (by rw [ht]; rfl)]
    simp only [State.stageValue, hr, ht, henc, hp, not_true_eq_false, if_false, Bool.false_eq_true, and_self, if_true, and_false,
      OfNat.ofNat_ne_one]
  refine ⟨_, congrArg Host.Outcome.next (mirrorWrite_serves hs hq 0), ?_⟩
  rw [hstage]
  exact ⟨rfl, rfl⟩

end

/-! ### COMMIT_APPLY (R331) -/

/-- The state whose Hand has taken a commit from the queue, and what it checks. -/
def State.tookCommit (s : State) (q : CommitReq) : State := { s with dict := { s.dict with commits := s.dict.commits.filter fun x => x != q } }
def State.ctxOf (s : State) (q : CommitReq) : CommitCtx :=
  let vals := (((s.stagedSet q.src).map (·.vals)).getD []).map fun e => (e.1, clearReserved e.1 e.2)
  ⟨q.src, vals, s.tookCommit q, (s.tookCommit q).withValues vals⟩

/-- The state with a commit applied or rejected, before its source has the result. -/
def State.settled (s : State) (q : CommitReq) : State :=
  match (s.ctxOf q).fail with
  | none => (s.tookCommit q).applySet (s.ctxOf q)
  | some r => (s.tookCommit q).rejectSet r

theorem settled_queues (s : State) (q : CommitReq) : (s.settled q).dict.commits = s.dict.commits.filter (fun x => x != q) ∧
    (s.settled q).dict.sets = s.dict.sets := by
  unfold State.settled
  split
  · exact ⟨Inv.same (s := s.tookCommit q) (f := .dictCommits) (fun _ hk h => Inv.applySet hk h _) (by decide +kernel),
      Inv.same (s := s.tookCommit q) (f := .dictSets) (fun _ hk h => Inv.applySet hk h _) (by decide +kernel)⟩
  · exact ⟨Inv.same (s := s.tookCommit q) (f := .dictCommits) (fun _ hk h => Inv.rejectSet hk h _) (by decide +kernel),
      Inv.same (s := s.tookCommit q) (f := .dictSets) (fun _ hk h => Inv.rejectSet hk h _) (by decide +kernel)⟩

/-- A set that fails changes no value, no ring and no shard. -/
theorem settled_fails {s : State} {q : CommitReq} (h : (s.ctxOf q).fail.isSome = true) : (s.settled q).dict.committed = s.dict.committed ∧
    (s.settled q).dict.active = s.dict.active ∧ (s.settled q).rings = s.rings ∧ (s.settled q).shards = s.shards := by
  obtain ⟨r, hr⟩ := Option.isSome_iff_exists.mp h
  unfold State.settled
  rw [hr]
  exact ⟨Inv.same (s := s.tookCommit q) (f := .dictCommitted) (fun _ hk h => Inv.rejectSet hk h r) (by decide +kernel),
    Inv.same (s := s.tookCommit q) (f := .dictActive) (fun _ hk h => Inv.rejectSet hk h r) (by decide +kernel),
    Inv.same (s := s.tookCommit q) (f := .rings) (fun _ hk h => Inv.rejectSet hk h r) (by decide +kernel),
    Inv.same (s := s.tookCommit q) (f := .shards) (fun _ hk h => Inv.rejectSet hk h r) (by decide +kernel)⟩

/-- After a commit is settled its source's set leaves; the result and the answer touch no value. -/
theorem finishCommit_keeps (s : State) (q : CommitReq) :
    (s.finishCommit q).dict.commits = (s.settled q).dict.commits ∧
    (s.finishCommit q).dict.sets = (s.settled q).dict.sets.filter (fun x => x.src != q.src) ∧
    (s.finishCommit q).dict.committed = (s.settled q).dict.committed ∧ (s.finishCommit q).dict.active = (s.settled q).dict.active ∧
    (s.finishCommit q).rings = (s.settled q).rings ∧ (s.finishCommit q).shards = (s.settled q).shards := by
  unfold State.finishCommit
  extract_lets vals _ s0 c fail s1 res s2 code _
  have hsettled : s1 = s.settled q := rfl
  clear_value s1
  subst hsettled
  split
  · exact ⟨rfl, rfl, rfl, rfl, rfl, rfl⟩
  · exact ⟨rfl, rfl, rfl, rfl, rfl, rfl⟩

theorem commitApply_settles {s : State} {q : CommitReq} {rest : List CommitReq} (hq : s.dict.commits = q :: rest) (hs : s.handServes = true) :
    exec .commitApply s = .next (s.finishCommit q) := by
  simp only [exec, execCommitApply, State.commitNext, hq, hs, if_true]

/-- Settles O42, form by form. -/
theorem stagingAndCommitsComplete : Obligations.StagingAndCommitsComplete := by
  refine ⟨fun _ _ => commit_asks, fun _ _ => discard_drops, fun _ _ _ _ _ _ => mirrorStagingWrite_stages,
    fun _ _ hs hq hp => ⟨dictCommit_asks hs hq hp, dictDiscard_drops hs hq hp⟩, fun s q rest hq hs => ?_⟩
  obtain ⟨hcommits, hsets, hcommitted, hactive, hrings, hshards⟩ := finishCommit_keeps s q
  obtain ⟨hc, hset⟩ := settled_queues s q
  refine ⟨_, commitApply_settles hq hs, hcommits.trans hc, hsets.trans (by rw [hset]), fun hf => ?_⟩
  obtain ⟨h1, h2, h3, h4⟩ := settled_fails (s := s) (q := q) hf
  exact ⟨hcommitted.trans h1, hactive.trans h2, hrings.trans h3, hshards.trans h4⟩

end Sys2Proof.Machine
end

section
/-! The Ethernet ports (R310, R312, R314). -/

namespace Sys2Proof.Machine
set_option Elab.async false

/-! ### Links -/

/-- EPORT.STATE takes one byte, and no event counter lies there. -/
theorem linkState_size {e : Nat} (he : e < 4) : (dictDefault (0x8040 + e) 6).length = 1 := by
  interval_cases e <;> rfl

theorem linkState_ne {e : Nat} (he : e < 4) {c : Nat} (hc : c < 65536) : dkey (0x8040 + e) 6 ≠ dkey 0xB011 (c / 4096) := by
  unfold dkey
  omega

section
variable (s : State) {e : Nat} (he : e < 4)
include he

theorem linkState_raise {c : Nat} (hc : c < 65536) (l d : Nat) : (s.raise c l d).liveN (0x8040 + e) 6 = s.liveN (0x8040 + e) 6 :=
  congrArg leNat (live_raise_ne s l d (linkState_ne he hc))

theorem linkState_setN {v : Nat} (hv : v < 256) : (s.setN (0x8040 + e) 6 v).liveN (0x8040 + e) 6 = v := by
  rw [State.liveN_setN, linkState_size he, pow_one, Nat.mod_eq_of_lt hv]

/-- The state of a link that is set, whatever else of its port changes with an event. -/
theorem linkState_set {v : Nat} (hv : v < 256) (f : EPort → EPort) {c : Nat} (hc : c < 65536) (l d : Nat) :
    (((s.setN (0x8040 + e) 6 v).modEp e f).raise c l d).liveN (0x8040 + e) 6 = v :=
  (linkState_raise _ he hc l d).trans (linkState_setN s he hv)

end

theorem ep_raise (s : State) (c l d e : Nat) : (s.raise c l d).ep e = s.ep e := by
  rw [State.ep, State.raise_eth, State.ep]

section
variable {s : State} {e : Nat} (he : e < 4)
include he

theorem ethLinkDown_down (hup : s.linkUp e = true) : ∃ t, exec (.ethLinkDown e) s = .next t ∧ t.linkUp e = false ∧
    (t.ep e).downAt = some s.step.number ∧ (t.ep e).paused = [] ∧ (t.ep e).inQ = (s.ep e).inQ ∧ t.qps = s.qps := by
  have hexec : exec (.ethLinkDown e) s = .next (((s.setN (0x8040 + e) 6 0).modEp e fun p =>
      { p with downAt := some s.step.number, paused := [] }).raise 0x8010 (locEth e) 0) :=
    if_neg (by rw [hup]; simp only [not_true_eq_false, or_false]; omega)
  refine ⟨_, hexec, ?_, ?_⟩
  · rw [State.linkUp, linkState_set s he (by decide) _ (by decide)]
    rfl
  · rw [ep_raise, State.ep_modEp, State.raise_qps]
    exact ⟨rfl, rfl, rfl, rfl⟩

theorem ethLinkUp_up {x : EthUp} (hx : x.port = e) (hdown : s.linkUp e = false) (hown : s.ownerOf 4 e ≠ ownOff)
    (hpmd : (if s.actN (0x8040 + e) 1 = 0 then x.kr4 else x.cr4) = true) :
    ∃ t, exec (.ethLinkUp x) s = .next t ∧ t.linkUp e = true ∧ (t.ep e).downAt = none ∧ (t.ep e).movedTo = none ∧ t.qps = s.qps := by
  subst hx
  have hexec : exec (.ethLinkUp x) s = .next (((s.setN (0x8040 + x.port) 6 1).modEp x.port fun p =>
      { p with downAt := none, movedTo := none }).raise 0x8011 (locEth x.port) 0) :=
    if_neg (by
      rw [hpmd, hdown]
      simp only [not_true_eq_false, or_false, Bool.false_eq_true, false_or]
      exact fun h => h.elim (fun h => by omega) hown)
  refine ⟨_, hexec, ?_, ?_⟩
  · rw [State.linkUp, linkState_set s he (by decide) _ (by decide)]
    rfl
  · rw [ep_raise, State.ep_modEp, State.raise_qps]
    exact ⟨rfl, rfl, rfl⟩

omit he in
theorem ethLinkUp_stays {x : EthUp} (hx : x.port = e) (h : s.linkUp e = true ∨ (if s.actN (0x8040 + e) 1 = 0 then x.kr4 else x.cr4) = false) :
    exec (.ethLinkUp x) s = .next s := by
  subst hx
  refine if_pos ?_
  rcases h with h | h
  · exact Or.inr (Or.inl h)
  · exact Or.inr (Or.inr (Or.inr (by rw [h]; exact Bool.false_ne_true)))

/-! ### Failover (R314) -/

/-- The queue pairs of a port, and what they had to send, move to its target. -/
def State.failedOver (s : State) (e dst : Nat) : State :=
  { (s.setN (0x8040 + e) 6 2).modEp e fun p => { p with movedTo := some dst } with
    qps := s.qps.map fun x => (x.1, if x.2.port = e then { x.2 with port := dst } else x.2),
    tx := s.tx.map fun x => if x.port = 16 + e ∧ x.msg.qpn.isSome then { x with port := 16 + dst } else x }

omit he in
theorem announce_keeps (s : State) (from_ e' : Nat) : (s.announce from_ e').dict = s.dict ∧ (s.announce from_ e').eth = s.eth ∧
    (s.announce from_ e').qps = s.qps := by
  unfold State.announce
  generalize (splitAll 18 (s.act (0x8040 + from_) 3)).filter _ = l
  induction l generalizing s with
  | nil => exact ⟨rfl, rfl, rfl⟩
  | cons a l ih => exact ih (s.net e' 0 (if u8 a 0 = 6 then 6 else 5) a)

theorem ethFailover_moves {d : Nat} (hdown : (s.ep e).downAt = some d) (hdue : d + 4 ≤ s.step.number) (hstay : (s.ep e).movedTo = none)
    (hg : s.grant 13 = true) (ht : s.comN (0x8040 + e) 7 < 4) (hne : s.comN (0x8040 + e) 7 ≠ e) (hup : s.linkUp (s.comN (0x8040 + e) 7) = true) :
    ∃ t, exec (.ethFailover e) s = .next t ∧ t.liveN (0x8040 + e) 6 = 2 ∧ (t.ep e).movedTo = some (s.comN (0x8040 + e) 7) ∧
      t.qps = s.qps.map fun x => (x.1, if x.2.port = e then { x.2 with port := s.comN (0x8040 + e) 7 } else x.2) := by
  generalize hto : s.comN (0x8040 + e) 7 = dst at ht hne hup ⊢
  have hgo : (s.grant 13 && decide (dst < 4) && decide (dst ≠ e) && s.linkUp dst) = true := by
    rw [hg, decide_eq_true ht, decide_eq_true hne, hup]
    rfl
  have hwait : ¬ (s.step.number < d + 4 ∨ (s.ep e).movedTo.isSome = true) := by
    rw [hstay]
    simp only [Option.isSome_none, Bool.false_eq_true, or_false]
    omega
  have hexec : exec (.ethFailover e) s = .next ((((s.failedOver e dst).announce e dst).useGrant 13).raise 0x8012 (locEth e) 0) := by
    simp only [exec, execEthFailover, hdown, hto, if_neg hwait, if_pos hgo]
    rfl
  obtain ⟨hdict, heth, hqps⟩ := announce_keeps (s.failedOver e dst) e dst
  refine ⟨_, hexec, ?_, ?_, ?_⟩
  · have hkey : dkey (0x8040 + e) 6 ≠ dkey 0x2111 13 := by unfold dkey; omega
    rw [linkState_raise _ he (by decide), State.useGrant, State.bump, State.liveN_setN_ne _ _ hkey, State.liveN, State.live, hdict]
    exact linkState_setN s he (by decide)
  · rw [ep_raise, State.ep, State.useGrant, State.bump_eth, heth]
    exact congrArg EPort.movedTo (State.ep_modEp (s.setN (0x8040 + e) 6 2) e fun p => { p with movedTo := some dst })
  · rw [State.raise_qps, State.useGrant, State.bump_qps, hqps]
    rfl

end

/-! ### The network layer and pauses (R310, R312) -/

section
variable {s : State} {e : Nat}

theorem arpNdEcho_answers (hup : s.linkUp e = true) {k : EchoKind} {x : NetFrame} (hk : k ≠ .other) (hmin : 64 ≤ x.len) (hmax : x.len ≤ 4224)
    (htags : x.tags ≤ 1) (hfrag : x.frag = false) :
    ∃ n, 8 ≤ n ∧ n ≤ 11 ∧ exec (.arpNdEcho e k x) s = .next (s.net e 0 n x.src) := by
  have hok : NetFrame.ok x = true := by simp only [NetFrame.ok, hmin, hmax, htags, hfrag, decide_true, Bool.not_false, Bool.and_self]
  show ∃ n, 8 ≤ n ∧ n ≤ 11 ∧ execArpNdEcho e k x s = _
  unfold execArpNdEcho
  rw [if_neg (not_not.mpr hup), if_neg (not_not.mpr hok)]
  cases k with
  | arp => exact ⟨8, by omega, by omega, rfl⟩
  | neighbour => exact ⟨9, by omega, by omega, rfl⟩
  | icmp => exact ⟨10, by omega, by omega, rfl⟩
  | icmp6 => exact ⟨11, by omega, by omega, rfl⟩
  | other => exact absurd rfl hk

theorem arpNdEcho_drops (hup : s.linkUp e = true) {k : EchoKind} {x : NetFrame}
    (h : k = .other ∨ x.len < 64 ∨ 4224 < x.len ∨ 1 < x.tags ∨ x.frag = true) : exec (.arpNdEcho e k x) s = .next (s.countDrop e) := by
  by_cases hok : NetFrame.ok x = true
  · have hother : k = .other := h.resolve_right fun h => by
      simp only [NetFrame.ok, Bool.and_eq_true, decide_eq_true_eq, Bool.not_eq_true'] at hok
      obtain ⟨⟨⟨hmin, hmax⟩, htags⟩, hfrag⟩ := hok
      rcases h with h | h | h | h
      · omega
      · omega
      · omega
      · rw [h] at hfrag; cases hfrag
    simp only [exec, execArpNdEcho, hup, hok, hother, not_true_eq_false, if_false]
  · simp only [exec, execArpNdEcho, hup, hok, not_true_eq_false, Bool.false_eq_true, not_false_eq_true, if_false, if_true]

section
variable {prio : Nat} (he : e < 4) (hprio : prio < 8) (hpfc : s.pfc e prio = true)
include he hprio hpfc

theorem pfc_taken : ¬ (4 ≤ e ∨ 8 ≤ prio ∨ ¬ s.pfc e prio = true) := by
  rw [hpfc]
  simp only [not_true_eq_false, or_false]
  omega

theorem pfcPause_begins : ∃ t, exec (.pfcPause e prio true) s = .next t ∧
    mget (t.ep e).paused prio = some ((mget (s.ep e).paused prio).getD s.step.number) := by
  refine ⟨_, (if_neg (pfc_taken he hprio hpfc)).trans (if_pos rfl), ?_⟩
  rw [State.ep_modEp]
  cases hp : mget (s.ep e).paused prio with
  | none =>
    rw [if_neg (by decide)]
    exact mget_mput ..
  | some n =>
    rw [if_pos (by rfl)]
    exact hp

theorem pfcPause_ends : exec (.pfcPause e prio false) s = .next (s.modEp e fun p => { p with paused := mdel p.paused prio }) :=
  (if_neg (pfc_taken he hprio hpfc)).trans (if_neg Bool.false_ne_true)

end

end

/-- Settles O43, command by command. -/
theorem ethernetPortsComplete : Obligations.EthernetPortsComplete := fun _ _ he =>
  ⟨ethLinkDown_down he, fun _ hx hdown hown hpmd => ethLinkUp_up he hx hdown hown hpmd, fun _ hx h => ethLinkUp_stays hx h,
    fun _ hdown hdue hstay hg ht hne hup => ethFailover_moves he hdown hdue hstay hg ht hne hup,
    fun hup _ _ => ⟨fun hk hmin hmax htags hfrag => arpNdEcho_answers hup hk hmin hmax htags hfrag, fun h => arpNdEcho_drops hup h⟩,
    fun _ hprio hpfc => ⟨pfcPause_begins he hprio hpfc, pfcPause_ends he hprio hpfc⟩⟩

end Sys2Proof.Machine
end

section
/-! Queue pairs (R311, R312, R314, R316). -/

namespace Sys2Proof.Machine
set_option Elab.async false

theorem mget_mdel_ne {α : Type} {m : List (Nat × α)} {lo x k : Nat} (hm : mrisesFrom lo m = true) (hk : k ≠ x) :
    mget (mdel m x) k = mget m k := by
  unfold mdel
  induction m generalizing lo with
  | nil => rfl
  | cons e m ih =>
    obtain ⟨y, v⟩ := e
    rw [mrisesFrom, Bool.and_eq_true] at hm
    by_cases hy : y = x
    · subst hy
      rw [List.filter_cons_of_neg (by simp only [bne_self_eq_false, Bool.false_eq_true, not_false_eq_true]), ih hm.2, mget, if_neg hk.symm]
      split
      · next hlt => exact mget_below hm.2 (by omega)
      · rfl
    · rw [List.filter_cons_of_pos (by simpa only [bne_iff_ne] using hy), mget, mget, ih hm.2]

/-- A change of every value reads as the change of the value. -/
theorem mget_mapValues {α : Type} (m : List (Nat × α)) (f : α → α) (k : Nat) : mget (m.map fun e => (e.1, f e.2)) k = (mget m k).map f := by
  induction m with
  | nil => rfl
  | cons e m ih =>
    obtain ⟨y, v⟩ := e
    rw [List.map_cons, mget, mget]
    split
    · rfl
    · split
      · rfl
      · exact ih

theorem modQp_self {s : State} {qp : Nat} {q : QPair} (f : QPair → QPair) (hq : mget s.qps qp = some q) :
    mget (s.modQp qp f).qps qp = some (f q) := mget_mmod_self f hq

/-! ### Connection management (R311) -/

theorem cmMessage_request {s : State} {e qp mtu : Nat} (ps tc psn : Nat) (hup : s.linkUp e = true) (hlow : 1 < qp) (hhigh : qp < 2 ^ 24)
    (hfree : mget s.qps qp = none) (hmtu : mtu ∈ [256, 512, 1024, 2048, 4096])
    (hroom : (s.qps.filter fun x => x.2.ud == false).length < s.liveN 0x8050 1) (hown : s.ownerOf 4 e = ownHost) :
    ∃ t q, exec (.cmMessage e (.req qp ps mtu tc psn false)) s = .next t ∧ mget t.qps qp = some q ∧ q.state = 1 ∧ q.port = e ∧ q.mtu = mtu ∧
      q.recvPsn = psn % 2 ^ 24 ∧ q.rate = 64 ∧ q.rateExp = 0 ∧ (∀ k, k ≠ qp → mget t.qps k = mget s.qps k) ∧ t.tx.length = s.tx.length + 1 := by
  have hok : (decide (1 < qp) && decide (qp < 2 ^ 24) && (mget s.qps qp).isNone && [256, 512, 1024, 2048, 4096].contains mtu &&
      decide ((s.qps.filter fun x => x.2.ud == false).length < (if false = true then s.liveN 0x8050 2 else s.liveN 0x8050 1)) &&
      s.ownerOf 4 e == ownHost) = true := by
    rw [decide_eq_true hlow, decide_eq_true hhigh, hfree, List.contains_iff_mem.mpr hmtu, if_neg Bool.false_ne_true, decide_eq_true hroom, hown]
    rfl
  have hexec : exec (.cmMessage e (.req qp ps mtu tc psn false)) s = .next (({ s with
      qps := mput s.qps qp { s.newQp e mtu tc psn false with part := ((s.rings.find? fun r => r.2.qp == qp).map (·.2.part)).getD 0 },
      freeCtr := s.freeCtr + 1 } : State).net e 7 1 (beBytes 4 qp)) :=
    (if_neg (not_not.mpr hup)).trans (if_pos hok)
  exact ⟨_, _, hexec, mget_mput .., rfl, rfl, rfl, rfl, rfl, rfl, fun k hk => mget_mput_ne _ hk, List.length_append⟩

section
variable {s : State} {qp : Nat} {q : QPair} (hq : mget s.qps qp = some q)
include hq

theorem cmMessage_ready {e : Nat} (hup : s.linkUp e = true) (hst : q.state = 1) :
    ∃ t, exec (.cmMessage e (.rtu qp)) s = .next t ∧ mget t.qps qp = some { q with state := 2 } := by
  refine ⟨_, if_neg (not_not.mpr hup), ?_⟩
  rw [modQp_self _ hq, if_pos hst]

theorem cmMessage_disconnects {e : Nat} (hup : s.linkUp e = true) : ∃ t, exec (.cmMessage e (.dreq qp)) s = .next t ∧ mget t.qps qp = none ∧
    (mrisesFrom 0 s.qps = true → ∀ k, k ≠ qp → mget t.qps k = mget s.qps k) ∧
    ∀ x ∈ t.tx, (x ∈ s.tx ∧ x.msg.qpn ≠ some qp) ∨ x.msg = .net 3 (beBytes 4 qp) := by
  have hexec : exec (.cmMessage e (.dreq qp)) s = .next ((s.dropQp qp).net e 7 3 (beBytes 4 qp)) :=
    (if_neg (not_not.mpr hup)).trans (if_neg (by rw [hq]; exact Bool.false_ne_true))
  refine ⟨_, hexec, mget_mdel .., fun hm k hk => mget_mdel_ne hm hk, fun x hx => ?_⟩
  rcases List.mem_append.mp hx with hx | hx
  · obtain ⟨hin, hne⟩ := List.mem_filter.mp hx
    exact Or.inl ⟨hin, by simpa only [bne_iff_ne] using hne⟩
  · rw [List.mem_singleton.mp hx]
    exact Or.inr rfl

theorem roceRefusedOpcode_naks : exec (.roceRefusedOpcode qp) s = .next ((s.net q.port 7 7 (beBytes 4 qp)).raise 0x8017 (locEth q.port) 0) := by
  simp only [exec, execRoceRefusedOpcode, hq]

end

/-! ### Rates (R312) -/

/-- Halving changes the rate alone. -/
theorem halve_keeps (q : QPair) : { q.halve with rate := q.rate, rateExp := q.rateExp } = q := by
  unfold QPair.halve
  split
  · rfl
  · split
    · rfl
    · rfl

theorem halve_floor {q : QPair} (h : q.rate ≤ 2 * 2 ^ q.rateExp) : q.halve.rate = 1 ∧ q.halve.rateExp = 0 := by
  rw [QPair.halve, if_pos h]
  exact ⟨rfl, rfl⟩

theorem halve_exact {q : QPair} (h : 2 * 2 ^ q.rateExp < q.rate) : 2 * q.halve.rate * 2 ^ q.rateExp = q.rate * 2 ^ q.halve.rateExp := by
  rw [QPair.halve, if_neg (Nat.not_le.mpr h)]
  split
  · next heven =>
    rw [Nat.mul_div_cancel' (Nat.dvd_of_mod_eq_zero heven)]
  · show 2 * q.rate * 2 ^ q.rateExp = q.rate * 2 ^ (q.rateExp + 1)
    ring

theorem raised_top {q : QPair} (h : 62 * 2 ^ q.rateExp ≤ q.rate) : q.raised.rate = 64 ∧ q.raised.rateExp = 0 := by
  rw [QPair.raised, if_pos h]
  exact ⟨rfl, rfl⟩

theorem raised_below {q : QPair} (h : q.rate < 62 * 2 ^ q.rateExp) :
    q.raised.rate = q.rate + 2 * 2 ^ q.rateExp ∧ q.raised.rateExp = q.rateExp := by
  rw [QPair.raised, if_neg (Nat.not_le.mpr h)]
  exact ⟨rfl, rfl⟩

section
variable {s : State} {qp : Nat} {q : QPair} (hq : mget s.qps qp = some q)
include hq

theorem cnpReceive_halves : ∃ t r, exec (.cnpReceive qp) s = .next t ∧ mget t.qps qp = some r ∧
    { r with rate := q.rate, rateExp := q.rateExp } = { q with cuts := q.cuts + 1, congested := true } ∧
    (q.rate ≤ 2 * 2 ^ q.rateExp → r.rate = 1 ∧ r.rateExp = 0) ∧
    (2 * 2 ^ q.rateExp < q.rate → 2 * r.rate * 2 ^ q.rateExp = q.rate * 2 ^ r.rateExp) :=
  ⟨_, _, rfl, modQp_self _ hq, congrArg (fun p : QPair => { p with cuts := q.cuts + 1, congested := true }) (halve_keeps q), halve_floor,
    halve_exact⟩

theorem ceMarkedPacket_first {now : Nat} (hdue : ∀ l, q.lastCnp = some l → l + s.actN (0x8040 + q.port) 9 ≤ now) :
    ∃ t, exec (.ceMarkedPacket qp now) s = .next t ∧ mget t.qps qp = some { q with lastCnp := some now } ∧ t.tx.length = s.tx.length + 1 := by
  have hexec : exec (.ceMarkedPacket qp now) s =
      .next ((s.modQp qp fun q => { q with lastCnp := some now }).net q.port 7 4 (beBytes 4 qp)) := by
    simp only [exec, execCeMarkedPacket, hq]
    cases hl : q.lastCnp with
    | none => rfl
    | some l => exact if_pos (decide_eq_true (hdue l hl))
  exact ⟨_, hexec, modQp_self (fun q => { q with lastCnp := some now }) hq, List.length_append⟩

theorem ceMarkedPacket_again {now l : Nat} (hl : q.lastCnp = some l) (hlt : now < l + s.actN (0x8040 + q.port) 9) :
    exec (.ceMarkedPacket qp now) s = .next s := by
  simp only [exec, execCeMarkedPacket, hq, hl]
  exact if_neg (by rw [decide_eq_true_eq]; omega)

/-- A queue pair after a refill of its port. -/
def QPair.refilled (q : QPair) : QPair := { (if q.congested then q else q.raised) with congested := false, spent := 0 }

omit hq in
theorem shaperRefill_qps (s : State) {port : Nat} (hp : port < 20) : ∃ t, exec (.shaperRefill port) s = .next t ∧
    t.qps = s.qps.map fun e => (e.1, if port = 16 + e.2.port then e.2.refilled else e.2) :=
  ⟨_, if_neg (Nat.not_le.mpr hp), rfl⟩

theorem shaperRefill_raises {port : Nat} (hp : port < 20) (hport : port = 16 + q.port) :
    ∃ t r, exec (.shaperRefill port) s = .next t ∧ mget t.qps qp = some r ∧
      r.congested = false ∧ r.spent = 0 ∧ (q.congested = true → r.rate = q.rate ∧ r.rateExp = q.rateExp) ∧
      (q.congested = false → 62 * 2 ^ q.rateExp ≤ q.rate → r.rate = 64 ∧ r.rateExp = 0) ∧
      (q.congested = false → q.rate < 62 * 2 ^ q.rateExp → r.rate = q.rate + 2 * 2 ^ q.rateExp ∧ r.rateExp = q.rateExp) := by
  obtain ⟨t, hexec, hqps⟩ := shaperRefill_qps s hp
  have hget : mget t.qps qp = some q.refilled := by
    rw [hqps, mget_mapValues _ fun r : QPair => if port = 16 + r.port then r.refilled else r, hq, Option.map_some, if_pos hport]
  refine ⟨t, q.refilled, hexec, hget, rfl, rfl, fun hc => ?_, fun hc h => ?_, fun hc h => ?_⟩
  · rw [QPair.refilled, if_pos hc]
    exact ⟨rfl, rfl⟩
  · rw [QPair.refilled, if_neg (by rw [hc]; exact Bool.false_ne_true)]
    exact raised_top h
  · rw [QPair.refilled, if_neg (by rw [hc]; exact Bool.false_ne_true)]
    exact raised_below h

/-! ### Retransmission (R311, R314) -/

omit hq in
theorem retryQp_resends (s : State) (qp : Nat) {q : QPair} (hr : q.retries < q.retryMax) : s.retryQp qp q =
    { s with qps := mput s.qps qp { q.rewind with retries := q.retries + 1 },
             tx := q.resends ++ s.tx.filter fun x => x.msg.qp != some qp || x.done == 0 } := if_pos hr

theorem retryQp_fails (hr : q.retryMax ≤ q.retries) : mget (s.retryQp qp q).qps qp = some { q with state := 3, outstanding := [] } ∧
    ∀ x ∈ (s.retryQp qp q).tx, x ∈ s.tx ∧ x.msg.qp ≠ some qp := by
  rw [State.retryQp, if_neg (Nat.not_lt.mpr hr)]
  dsimp only
  rw [State.raise_qps, State.raise_tx]
  refine ⟨mget_mmod_self (fun q : QPair => { q with state := 3, outstanding := [] }) hq, fun x hx => ?_⟩
  obtain ⟨hin, hne⟩ := List.mem_filter.mp hx
  exact ⟨hin, by simpa only [bne_iff_ne] using hne⟩

variable (hopen : q.state = 2)
include hopen

theorem roceAckTimeout_retries (hout : q.outstanding ≠ []) : exec (.roceAckTimeout qp) s = .next (s.retryQp qp q) := by
  have hgo : ¬ (q.outstanding.isEmpty = true ∨ q.state ≠ 2) := by
    rw [List.isEmpty_iff]
    exact fun h => h.elim hout fun h => h hopen
  simp only [exec, execRoceAckTimeout, hq, if_neg hgo]

variable {psn : Nat} {x : TxItem} {pre post : List (Nat × TxItem)} (hout : q.outstanding = pre ++ (psn, x) :: post)
  (hpre : ∀ e ∈ pre, e.1 ≠ psn)
include hout hpre

omit hq hopen in
/-- What an acknowledgement of a packet leaves begins with that packet. -/
theorem outstanding_from : q.outstanding.any (fun e => e.1 == psn) = true ∧ q.outstanding.dropWhile (fun e => e.1 != psn) = (psn, x) :: post := by
  rw [hout]
  constructor
  · exact List.any_eq_true.mpr ⟨(psn, x), List.mem_append_right _ List.mem_cons_self, beq_self_eq_true _⟩
  · rw [List.dropWhile_append_of_pos fun e he => bne_iff_ne.mpr (hpre e he)]
    exact List.dropWhile_cons_of_neg (by simp only [bne_self_eq_false, Bool.false_eq_true, not_false_eq_true])

theorem roceAckReceived_ends : ∃ t, exec (.roceAckReceived qp psn false) s = .next t ∧
    mget t.qps qp = some { q with outstanding := post, ackPsn := psn, retries := 0 } ∧ t.tx = s.tx := by
  obtain ⟨hany, hrest⟩ := outstanding_from hout hpre
  have hexec : exec (.roceAckReceived qp psn false) s = .next (s.modQp qp fun q => { q with outstanding := post, ackPsn := psn, retries := 0 }) := by
    simp only [exec, execRoceAckReceived, hq, hany, hopen, hrest, not_true_eq_false, ne_eq, or_self, if_false, Bool.false_eq_true,
      List.drop_succ_cons, List.drop_zero]
  exact ⟨_, hexec, modQp_self _ hq, rfl⟩

theorem roceAckReceived_nak (hr : q.retries < q.retryMax) : ∃ t, exec (.roceAckReceived qp psn true) s = .next t ∧
    mget t.qps qp = some { q with outstanding := [], sendPsn := psn, sendSeq := q.sendSeq - (if q.sendPsn < psn then 1 else 0),
                                  retries := q.retries + 1 } := by
  obtain ⟨hany, hrest⟩ := outstanding_from hout hpre
  have hexec : exec (.roceAckReceived qp psn true) s = .next (({ s with qps := mput s.qps qp { q with outstanding := (psn, x) :: post } } :
      State).retryQp qp { q with outstanding := (psn, x) :: post }) := by
    simp only [exec, execRoceAckReceived, hq, hany, hopen, hrest, not_true_eq_false, ne_eq, or_self, if_false, if_true]
  refine ⟨_, hexec, ?_⟩
  rw [retryQp_resends (q := { q with outstanding := (psn, x) :: post }) _ _ hr]
  exact mget_mput ..

end

/-- Settles O44, command by command. -/
theorem queuePairsComplete : Obligations.QueuePairsComplete :=
  ⟨fun _ _ _ ps _ tc psn hup hlow hhigh hfree hmtu hroom hown => cmMessage_request ps tc psn hup hlow hhigh hfree hmtu hroom hown,
    fun _ _ _ hq => ⟨fun _ hup hst => cmMessage_ready hq hup hst, fun _ hup => cmMessage_disconnects hq hup, roceRefusedOpcode_naks hq,
      cnpReceive_halves hq, fun _ hdue => ceMarkedPacket_first hq hdue, fun _ _ hl hlt => ceMarkedPacket_again hq hl hlt,
      fun hopen hout => ⟨fun hr => ⟨_, roceAckTimeout_retries hq hopen hout, by rw [retryQp_resends _ _ hr]; exact ⟨mget_mput .., rfl⟩⟩,
        fun hr => ⟨_, roceAckTimeout_retries hq hopen hout, retryQp_fails hq hr⟩⟩,
      fun _ _ _ _ hopen hout hpre => ⟨roceAckReceived_ends hq hopen hout hpre, fun hr => roceAckReceived_nak hq hopen hout hpre hr⟩,
      fun _ hp hport => shaperRefill_raises hq hp hport⟩⟩

end Sys2Proof.Machine
end

section
/-! Lanes and ports of the Hedge links (R304 to R307, R367). -/

namespace Sys2Proof.Machine
set_option Elab.async false

/-! ### What a port publishes -/

theorem portState_size {p : Nat} (hp : p < 16) : (dictDefault (0x8020 + p) 1).length = 1 := by
  interval_cases p <;> rfl

theorem portPeer_size {p : Nat} (hp : p < 16) : (dictDefault (0x8020 + p) 2).length = 8 := by
  interval_cases p <;> rfl

theorem portLanes_size {p : Nat} (hp : p < 16) : (dictDefault (0x8020 + p) 3).length = 2 := by
  interval_cases p <;> rfl

/-- No event counter lies among the entries of a port. -/
theorem portEntry_ne {p : Nat} (hp : p < 16) {k : Nat} (hk : k < 256) {c : Nat} (hc : c < 65536) :
    dkey (0x8020 + p) k ≠ dkey 0xB011 (c / 4096) := by
  unfold dkey
  omega

theorem portEntry_ne_sub (p : Nat) {k j : Nat} (h : k ≠ j) : dkey (0x8020 + p) k ≠ dkey (0x8020 + p) j := by
  unfold dkey
  omega

theorem portEntry_ne_traffic (p k : Nat) {j : Nat} (hj : j < 256) : dkey (0x8020 + p) k ≠ dkey 0x8010 j := by
  unfold dkey
  omega

section
variable (s : State) {p : Nat} (hp : p < 16)
include hp

theorem hState_setHState {v : Nat} (hv : v < 256) : (s.setHState p v).hState p = v := by
  rw [State.hState, State.setHState, State.liveN_setN, portState_size hp, pow_one, Nat.mod_eq_of_lt hv]

theorem peerOf_setN (v : Nat) : (s.setN (0x8020 + p) 2 v).peerOf p = v % 2 ^ 64 := by
  exact (congrArg (v % 256 ^ ·) (portPeer_size hp)) ▸ State.liveN_setN ..

theorem laneMap_setN (v : Nat) : (s.setN (0x8020 + p) 3 v).laneMap p = v % 65536 := by
  exact (congrArg (v % 256 ^ ·) (portLanes_size hp)) ▸ State.liveN_setN ..

theorem hState_raise {c : Nat} (hc : c < 65536) (l d : Nat) : (s.raise c l d).hState p = s.hState p :=
  congrArg leNat (live_raise_ne s l d (portEntry_ne hp (by decide) hc))

theorem laneMap_raise {c : Nat} (hc : c < 65536) (l d : Nat) : (s.raise c l d).laneMap p = s.laneMap p :=
  congrArg leNat (live_raise_ne s l d (portEntry_ne hp (by decide) hc))

theorem peerOf_raise {c : Nat} (hc : c < 65536) (l d : Nat) : (s.raise c l d).peerOf p = s.peerOf p :=
  congrArg leNat (live_raise_ne s l d (portEntry_ne hp (by decide) hc))

end

section
variable (s : State) (p : Nat)

/-- Another entry of the port leaves its state, its lanes and its peer. -/
theorem hState_setN_ne {j : Nat} (h : 1 ≠ j) (v : Nat) : (s.setN (0x8020 + p) j v).hState p = s.hState p :=
  State.liveN_setN_ne s v (portEntry_ne_sub p h)

theorem laneMap_setN_ne {j : Nat} (h : 3 ≠ j) (v : Nat) : (s.setN (0x8020 + p) j v).laneMap p = s.laneMap p :=
  State.liveN_setN_ne s v (portEntry_ne_sub p h)

theorem peerOf_setN_ne {j : Nat} (h : 2 ≠ j) (v : Nat) : (s.setN (0x8020 + p) j v).peerOf p = s.peerOf p :=
  State.liveN_setN_ne s v (portEntry_ne_sub p h)

theorem hp_raise (c l d q : Nat) : (s.raise c l d).hp q = s.hp q := by
  rw [State.hp, State.raise_hedge, State.hp]

end

/-! ### Lanes (R306) -/

section
variable {s : State} {p : Nat} (hp : p < 16)

/-- The lane's position moves to the spare, which waits no longer. -/
theorem swapLane_moves (s : State) (hp : p < 16) (lane sp : Nat) :
    ((s.swapLane p lane sp).hp p).spare = none ∧ ((s.swapLane p lane sp).hp p).failed = some lane ∧
      (s.swapLane p lane sp).hState p = s.hState p ∧
      (s.swapLane p lane sp).laneMap p = setBit (clrBit (s.laneMap p) lane) sp % 65536 := by
  unfold State.swapLane
  rw [hp_raise, State.hp_modHp, hState_raise _ hp (by decide), laneMap_raise _ hp (by decide)]
  refine ⟨rfl, rfl, ?_, ?_⟩
  · exact (hState_setN_ne _ p (by decide) _).trans (hState_setN_ne s p (by decide) _)
  · exact (laneMap_setN_ne _ p (by decide) _).trans (laneMap_setN s hp _)

/-- A lane of an UP port that fails. -/
def State.LaneFails (s : State) (x : LaneFault) : Prop := x.lock = true ∨ s.actN 0x8010 3 < x.errors

variable {lane sp : Nat} (hup : s.hState p = 2) (hlane : lane ≤ 8) (hbit : bit (s.laneMap p) lane = true)
  (hsp : (s.hp p).spare = some sp)

include hup hlane hbit hsp in
theorem laneFailure_fails {x : LaneFault} (hx : s.LaneFails x) :
    exec (.laneFailure p lane x) s = .next (if s.spareArm p && x.peerArmed then (s.sendCtl p 2 lane).swapLane p lane sp
      else (s.recover p).raise 0x8003 (locHedgeLane p lane) 0) := by
  refine (if_neg (c := s.hState p ≠ 2 ∨ 8 < lane ∨ ¬ (x.lock ∨ s.actN 0x8010 3 < x.errors)) ?_).trans ((if_neg (not_not.2 hbit)).trans ?_)
  · exact fun h => h.elim (· hup) fun h => h.elim (by omega) (· hx)
  · rw [hsp]
    exact (apply_ite Host.Outcome.next _ _ _).symm

include hp hup hlane hbit hsp in
theorem laneFailure_swaps {x : LaneFault} (hx : s.LaneFails x) (harm : s.spareArm p = true) (hpeer : x.peerArmed = true) :
    ∃ t, exec (.laneFailure p lane x) s = .next t ∧ (t.hp p).spare = none ∧ (t.hp p).failed = some lane ∧ t.hState p = 2 ∧
      t.laneMap p = setBit (clrBit (s.laneMap p) lane) sp % 65536 := by
  obtain ⟨hs, hf, hst, hmap⟩ := swapLane_moves (s.sendCtl p 2 lane) hp lane sp
  refine ⟨_, laneFailure_fails hup hlane hbit hsp hx, ?_⟩
  rw [harm, hpeer]
  exact ⟨hs, hf, hst.trans hup, hmap⟩

include hp hup hlane hbit hsp in
theorem laneFailure_recovers {x : LaneFault} (hx : s.LaneFails x) (harm : s.spareArm p = false ∨ x.peerArmed = false) :
    ∃ t, exec (.laneFailure p lane x) s = .next t ∧ t.hState p = 3 ∧ (t.hp p).spare = some sp ∧ (t.hp p).recTries = 0 := by
  have hno : (s.spareArm p && x.peerArmed) = false := Bool.and_eq_false_iff.2 harm
  refine ⟨_, laneFailure_fails hup hlane hbit hsp hx, ?_⟩
  rw [hno, if_neg Bool.false_ne_true, hState_raise _ hp (by decide), hp_raise, State.recover, State.hp_modHp]
  exact ⟨hState_setHState s hp (by decide), hsp, rfl⟩

theorem laneFailure_within {x : LaneFault} (hlock : x.lock = false) (herr : x.errors ≤ s.actN 0x8010 3) :
    exec (.laneFailure p lane x) s = .next s := by
  refine if_pos (Or.inr (Or.inr ?_))
  rw [hlock, not_or]
  exact ⟨Bool.false_ne_true, by omega⟩

include hp hup hbit hsp in
theorem laneSwap_swaps (harm : s.spareArm p = true) : ∃ t, exec (.laneSwap p lane) s = .next t ∧ (t.hp p).spare = none ∧
    (t.hp p).failed = some lane ∧ t.laneMap p = setBit (clrBit (s.laneMap p) lane) sp % 65536 := by
  have hexec : exec (.laneSwap p lane) s = .next ((s.swapLane p lane sp).sendCtl p 4 0) := by
    refine congrArg Host.Outcome.next ?_
    unfold State.swapNamed
    rw [hsp]
    exact if_pos ⟨hup, harm, hbit⟩
  obtain ⟨hs, hf, _, hmap⟩ := swapLane_moves s hp lane sp
  refine ⟨_, hexec, ?_⟩
  rw [State.sendCtl, State.hp_modHp]
  exact ⟨hs, hf, hmap⟩

include hsp in
theorem laneSwap_unarmed (harm : s.spareArm p = false) : exec (.laneSwap p lane) s = .next s := by
  refine congrArg Host.Outcome.next ?_
  unfold State.swapNamed
  rw [hsp]
  exact if_neg fun h => by simp [harm] at h

end

/-! ### The settle part (R305, R306) -/

section
variable {s : State} {p : Nat}

/-- What an attempt to retrain a lane does in the settle part, one a step and no more than HEDGE.RETRAIN_MAX. -/
theorem laneRetrain_of {l : Nat} (hl : (s.hp p).failed = some l) (hset : s.settling = true) (htry : (s.hp p).tries < s.actN 0x8010 2)
    (hat : (s.hp p).triedAt ≠ some s.step.number) (ok : Bool) :
    exec (.laneRetrain p ok) s = .next (if ok = true then
        (s.modHp p fun h => { h with spare := some l, failed := none, tries := 0 }).raise 0x8002 (locHedgeLane p l) 0
      else s.modHp p fun h => { h with tries := h.tries + 1, triedAt := some s.step.number }) := by
  have hgo : ¬ (¬ s.settling ∨ s.actN 0x8010 2 ≤ (s.hp p).tries ∨ (s.hp p).triedAt = some s.step.number) := by
    rw [hset, not_or, not_or, not_not]
    exact ⟨rfl, by omega, hat⟩
  change execLaneRetrain p ok s = _
  unfold execLaneRetrain
  rw [hl]
  exact (if_neg hgo).trans (apply_ite Host.Outcome.next _ _ _).symm

theorem laneRetrain_rests (h : s.settling = false ∨ (s.hp p).triedAt = some s.step.number) (ok : Bool) :
    exec (.laneRetrain p ok) s = .next s := by
  change execLaneRetrain p ok s = _
  unfold execLaneRetrain
  cases (s.hp p).failed with
  | none => rfl
  | some l =>
    exact if_pos (h.elim (fun h => Or.inl (by rw [h]; exact Bool.false_ne_true)) fun h => Or.inr (Or.inr h))

theorem laneRetrain_completes {l : Nat} (hl : (s.hp p).failed = some l) (hset : s.settling = true)
    (htry : (s.hp p).tries < s.actN 0x8010 2) (hat : (s.hp p).triedAt ≠ some s.step.number) :
    (∃ t, exec (.laneRetrain p true) s = .next t ∧ (t.hp p).spare = some l ∧ (t.hp p).failed = none) ∧
      (∃ t, exec (.laneRetrain p false) s = .next t ∧ (t.hp p).tries = (s.hp p).tries + 1 ∧ (t.hp p).failed = some l ∧
        ∀ ok, exec (.laneRetrain p ok) t = .next t) := by
  refine ⟨⟨_, laneRetrain_of hl hset htry hat true, ?_⟩, ⟨_, laneRetrain_of hl hset htry hat false, ?_⟩⟩
  · rw [if_pos rfl, hp_raise, State.hp_modHp]
    exact ⟨rfl, rfl⟩
  · rw [if_neg Bool.false_ne_true]
    refine ⟨?_, ?_, laneRetrain_rests (Or.inr ?_)⟩ <;> rw [State.hp_modHp]
    · exact hl
    · rfl

theorem portRecovery_rests (h : s.settling = false ∨ (s.hp p).recAt = some s.step.number) (ok : Bool) (rtt : Nat) :
    exec (.portRecovery p ok rtt) s = .next s :=
  if_pos (h.elim (fun h => Or.inr (Or.inl (by rw [h]; exact Bool.false_ne_true))) fun h => Or.inr (Or.inr h))

/-- A port that is DOWN, with nothing to send. -/
def State.gone (t : State) (p : Nat) : Prop := t.hState p = 0 ∧ (t.hp p).replay = [] ∧ ∀ x ∈ t.tx, x.port ≠ p

/-- A port that has gone DOWN in a step. -/
def HPort.fallen (h : HPort) (n : Nat) : HPort :=
  { h with replay := [], halves := [], ctl := [], key := none, gap := false, tries := 0, downAt := n }

theorem portOut_hp (s : State) (p : Nat) : (s.portOut p).hp p = (s.hp p).fallen s.step.number :=
  mgetD_mupd s.hedge p HPort.reset (HPort.fallen · s.step.number)

theorem portOut_gone (s : State) (hp : p < 16) : (s.portOut p).gone p := by
  refine ⟨?_, ?_, fun x hx => ?_⟩
  · exact (hState_setN_ne (s.setHState p 0) p (by decide) _).trans (hState_setHState s hp (by decide))
  · exact congrArg HPort.replay (portOut_hp s p)
  · exact ne_of_apply_ne (· == p) (by have := (List.mem_filter.1 hx).2; simp_all)

theorem portDown_gone (s : State) (hp : p < 16) : (s.portDown p).gone p := by
  obtain ⟨hst, hrep, htx⟩ := portOut_gone s hp
  unfold State.portDown
  refine ⟨(hState_raise _ hp (by decide) ..).trans hst, ?_, ?_⟩
  · rw [hp_raise]
    exact hrep
  · rw [State.raise_tx]
    exact htx

/-- A port in RECOVERY in the settle part that has not tried yet in its step. -/
structure State.Recovers (s : State) (p : Nat) : Prop where
  state : s.hState p = 3
  settles : s.settling = true
  fresh : (s.hp p).recAt ≠ some s.step.number

theorem State.Recovers.exec_eq (h : s.Recovers p) (ok : Bool) (rtt : Nat) : exec (.portRecovery p ok rtt) s =
    if s.actN 0x8010 2 ≤ (s.hp p).recTries then .next (s.portDown p)
    else if ok then .next (if s.liveN 0x8010 5 < rtt then s.portDown p else s.recovered p rtt)
    else if (s.hp p).recTries + 1 < s.actN 0x8010 2 then
      .next (s.modHp p fun h => { h with recTries := h.recTries + 1, recAt := some s.step.number })
    else .next (s.portDown p) :=
  if_neg fun hn => hn.elim (· h.state) fun hn => hn.elim (· h.settles) h.fresh

theorem recovered_up (s : State) (hp : p < 16) (rtt : Nat) : (s.recovered p rtt).hState p = 2 ∧ ((s.recovered p rtt).hp p).rtt = rtt ∧
    ((s.recovered p rtt).hp p).replay = (s.hp p).replay.map fun r => { r with retried := 0 } := by
  unfold State.recovered
  rw [hState_raise _ hp (by decide), hp_raise]
  refine ⟨?_, ?_⟩
  · exact (State.liveN_setN_ne _ _ (portEntry_ne_traffic p _ (by decide))).trans (hState_setHState s hp (by decide))
  · have hport : ∀ (u : State) (n : Nat), (u.bump 0x8010 7 n).hp p = u.hp p := fun u n => rfl
    rw [hport, State.hp_modHp]
    exact ⟨rfl, rfl⟩

theorem portRecovery_completes (hp : p < 16) (h : s.Recovers p) (rtt : Nat) :
    ((s.hp p).recTries < s.actN 0x8010 2 → rtt ≤ s.liveN 0x8010 5 → ∃ t, exec (.portRecovery p true rtt) s = .next t ∧ t.hState p = 2 ∧
      (t.hp p).rtt = rtt ∧ (t.hp p).replay = (s.hp p).replay.map fun r => { r with retried := 0 }) ∧
    (s.liveN 0x8010 5 < rtt → ∃ t, exec (.portRecovery p true rtt) s = .next t ∧ t.gone p) ∧
    ((s.hp p).recTries + 1 < s.actN 0x8010 2 → ∃ t, exec (.portRecovery p false rtt) s = .next t ∧
      (t.hp p).recTries = (s.hp p).recTries + 1 ∧ t.hState p = 3 ∧ ∀ ok, exec (.portRecovery p ok rtt) t = .next t) ∧
    (s.actN 0x8010 2 ≤ (s.hp p).recTries + 1 → ∃ t, exec (.portRecovery p false rtt) s = .next t ∧ t.gone p) := by
  refine ⟨fun htry hrtt => ⟨s.recovered p rtt, ?_, recovered_up s hp rtt⟩, fun hrtt => ⟨s.portDown p, ?_, portDown_gone s hp⟩,
    fun htry => ?_, fun htry => ⟨s.portDown p, ?_, portDown_gone s hp⟩⟩
  · rw [h.exec_eq, if_neg (by omega), if_pos rfl, if_neg (by omega)]
  · rw [h.exec_eq, if_pos rfl, if_pos hrtt, ite_self]
  · refine ⟨_, (h.exec_eq ..).trans <| (if_neg (by omega)).trans ((if_neg Bool.false_ne_true).trans (if_pos htry)), ?_, h.state, fun ok =>
      portRecovery_rests (Or.inr ?_) ok rtt⟩ <;> rw [State.hp_modHp]
    rfl
  · rw [h.exec_eq, if_neg Bool.false_ne_true, if_neg (by omega : ¬ (s.hp p).recTries + 1 < s.actN 0x8010 2), ite_self]

end

/-! ### Training (R304, R306, R367) -/

section
variable {s : State} {p : Nat} (hp : p < 16) (htr : s.hState p = 1) (hown : s.ownerOf 3 p ≠ ownOff)

/-- The port that training takes UP, with its key where sealing is on. -/
def State.trainedPort (s : State) (peer rtt : Nat) (ek ct : Bytes) : HPort :=
  { HPort.reset with
    spare := some 8, rtt := rtt,
    key := if s.comN 0x9000 6 == 1 then
        some (hedgeKey Config.peerId peer ((List.range 32).map (Config.kemEncaps s.freeCtr ek))
          ((List.range 32).map (Config.kemDecaps s.sec.kemGen ct)))
      else none }

/-- What a trained port publishes. -/
def State.trainedEntries (s : State) (p peer : Nat) : State :=
  ((s.setHState p 2).setN (0x8020 + p) 2 peer).setN (0x8020 + p) 3 0xFF

/-- The node once a port has trained. -/
def State.trained (s : State) (p peer rtt : Nat) (ek ct : Bytes) : State :=
  let s1 := s.trainedEntries p peer
  { s1 with freeCtr := s1.freeCtr + 1, hedge := mput s1.hedge p (s.trainedPort peer rtt ek ct) }

include hp htr hown in
theorem portTraining_of (peer rtt : Nat) (ok rep : Bool) (ek ct : Bytes) : exec (.portTraining p peer rtt ok rep ek ct) s =
    if ¬ ok then .next (s.setHState p 0)
    else if s.liveN 0x8010 5 < rtt then .next (s.portDown p)
    else if (s.comN 0x9000 6 == 1) ∧ ¬ rep then .next ((s.setHState p 0).raise 0x8007 (locHedge p) 0)
    else .next (((s.trained p peer rtt ek ct).sendCtl p 3 Config.peerId).raise 0x8005 (locHedge p) 0) :=
  if_neg fun h => h.elim (by omega) fun h => h.elim (· htr) hown

theorem trained_hp (peer rtt : Nat) (ek ct : Bytes) : (s.trained p peer rtt ek ct).hp p = s.trainedPort peer rtt ek ct :=
  mgetD_mput ..

include hp htr hown in
theorem portTraining_up {peer rtt : Nat} (ek ct : Bytes) (hrtt : rtt ≤ s.liveN 0x8010 5) :
    ∃ t, exec (.portTraining p peer rtt true true ek ct) s = .next t ∧ t.hState p = 2 ∧
      t.peerOf p = peer % 2 ^ 64 ∧ t.laneMap p = 255 ∧ (t.hp p).spare = some 8 ∧ (t.hp p).rtt = rtt ∧
      ((t.hp p).key.isSome ↔ s.comN 0x9000 6 = 1) ∧ (t.hp p).txFsn = 0 ∧ (t.hp p).rxFsn = 0 := by
  refine ⟨_, (portTraining_of hp htr hown ..).trans ((if_neg (by simp)).trans ((if_neg (by omega)).trans (if_neg (by simp)))), ?_⟩
  rw [hState_raise _ hp (by decide), peerOf_raise _ hp (by decide), laneMap_raise _ hp (by decide), hp_raise, State.sendCtl, State.hp_modHp,
    trained_hp]
  refine ⟨?_, ?_, laneMap_setN _ hp _, rfl, rfl, ?_, rfl, rfl⟩
  · exact (hState_setN_ne _ p (by decide) _).trans ((hState_setN_ne _ p (by decide) _).trans
      (hState_setHState s hp (by decide)))
  · exact (peerOf_setN_ne _ p (by decide) _).trans (peerOf_setN _ hp _)
  · change (State.trainedPort s peer rtt ek ct).key.isSome = true ↔ _
    unfold State.trainedPort
    by_cases h : s.comN 0x9000 6 = 1 <;> simp [h]

include hp htr hown in
theorem portTraining_fails (peer rtt : Nat) (rep : Bool) (ek ct : Bytes) :
    ∃ t, exec (.portTraining p peer rtt false rep ek ct) s = .next t ∧ t.hState p = 0 :=
  ⟨_, (portTraining_of hp htr hown ..).trans (if_pos Bool.false_ne_true), hState_setHState s hp (by decide)⟩

include hp htr hown in
theorem portTraining_unsealed (peer rtt : Nat) (ek ct : Bytes) (hseal : s.comN 0x9000 6 = 1) :
    ∃ t, exec (.portTraining p peer rtt true false ek ct) s = .next t ∧ t.hState p = 0 := by
  rw [portTraining_of hp htr hown, if_neg (by simp)]
  by_cases hrtt : s.liveN 0x8010 5 < rtt
  · exact ⟨_, if_pos hrtt, (portDown_gone s hp).1⟩
  · refine ⟨_, (if_neg hrtt).trans (if_pos ⟨by rw [hseal]; rfl, Bool.false_ne_true⟩), ?_⟩
    exact (hState_raise _ hp (by decide) ..).trans (hState_setHState s hp (by decide))

include hp in
theorem portReup_trains (hdown : s.hState p = 0) (hn : s.actN 0x8010 6 ≠ 0) (hat : s.step.number % s.actN 0x8010 6 = 0)
    (hown : s.ownerOf 3 p ≠ ownOff) : ∃ t, exec (.portReup p) s = .next t ∧ t.hState p = 1 ∧ t.hedge = s.hedge :=
  ⟨_, congrArg Host.Outcome.next (if_pos ⟨hp, hdown, hn, hat, hown⟩), hState_setHState s hp (by decide), rfl⟩

theorem portReup_never (hn : s.actN 0x8010 6 = 0) : exec (.portReup p) s = .next s :=
  congrArg Host.Outcome.next (if_neg fun ⟨_, _, h, _⟩ => h hn)

include hp in
theorem peerId_keeps (hup : s.hState p = 2) (peer : Nat) :
    ∃ t, exec (.peerId p peer) s = .next t ∧ t.peerOf p = peer % 2 ^ 64 ∧ t.hedge = s.hedge :=
  ⟨_, congrArg Host.Outcome.next (if_pos hup), peerOf_setN s hp peer, rfl⟩

end

/-- Settles O46: each command's rule for a port, with the settle part's one attempt a step. -/
theorem lanesAndPortsComplete : Obligations.LanesAndPortsComplete := by
  unfold Obligations.LanesAndPortsComplete
  intro s p hp
  refine ⟨fun lane sp hup hlane hbit hsp => ⟨fun x hx => ⟨?_, ?_⟩, fun x => laneFailure_within, ?_, laneSwap_unarmed hsp⟩,
    fun l => laneRetrain_completes, fun h ok rtt => ⟨laneRetrain_rests (Or.inl h) ok, portRecovery_rests (Or.inl h) ok rtt⟩,
    fun rtt hst hset hat => portRecovery_completes hp ⟨hst, hset, hat⟩ rtt, fun peer rtt ek ct htr hown => ⟨?_, ?_, ?_⟩,
    portReup_trains hp, portReup_never, fun peer hup => peerId_keeps hp hup peer⟩
  · exact laneFailure_swaps hp hup hlane hbit hsp hx
  · exact laneFailure_recovers hp hup hlane hbit hsp hx
  · exact laneSwap_swaps hp hup hbit hsp
  · exact portTraining_up hp htr hown ek ct
  · exact fun rep => portTraining_fails hp htr hown peer rtt rep ek ct
  · exact portTraining_unsealed hp htr hown peer rtt ek ct

end Sys2Proof.Machine
end

section
/-! The flits of the Hedge links (R307, R308). -/

namespace Sys2Proof.Machine
set_option Elab.async false

/-- Two states that differ in the Hedge ports only. -/
def State.hedgeOnly (s t : State) : Prop := { t with hedge := s.hedge } = s

theorem State.hedgeOnly.trans {s t u : State} (h : s.hedgeOnly t) (h' : t.hedgeOnly u) : s.hedgeOnly u := by
  unfold State.hedgeOnly at *
  conv_rhs => rw [← h, ← h']

section
variable (s : State) (p : Nat)

theorem hedgeOnly_modHp (f : HPort → HPort) : s.hedgeOnly (s.modHp p f) := rfl

/-! ### Taking a flit -/

theorem ackFlit_ctl : s.hedgeOnly (s.ackFlit p) ∧ ((s.ackFlit p).hp p).rxFsn = (s.hp p).rxFsn ∧
    ((s.ackFlit p).hp p).gap = (s.hp p).gap ∧ ((s.ackFlit p).hp p).halves = (s.hp p).halves := by
  unfold State.ackFlit
  split
  · exact ⟨rfl, rfl, rfl, rfl⟩
  · rw [State.sendCtl, State.hp_modHp]
    exact ⟨rfl, rfl, rfl, rfl⟩

theorem acked_keeps (fsn : Nat) : s.hedgeOnly (s.acked p fsn) ∧ ((s.acked p fsn).hp p).rxFsn = (s.hp p).rxFsn ∧
    ((s.acked p fsn).hp p).halves = (s.hp p).halves := by
  rw [State.acked, State.hp_modHp]
  refine ⟨rfl, ?_⟩
  split <;> exact ⟨rfl, rfl⟩

/-- The first flit of a message opens it, where its class has none open. -/
theorem takeFlit_first {f : Bytes} (hfirst : flitFirst f = true) (hlast : flitLast f = false) (hnone : mget (s.hp p).halves (flitClass f) = none)
    (tagOk : Bool) : s.takeFlit p f tagOk = s.modHp p fun h => { h with halves := mput h.halves (flitClass f) (sl f 8 (u16 f 6)) } := by
  simp [State.takeFlit, hfirst, hlast, hnone]

/-- The expected FSN moves on with a flit that is taken. -/
def State.flitTaken (s : State) (p : Nat) (f : Bytes) : State :=
  ((s.acked p (u16 f 4)).modHp p fun h => { h with rxFsn := (h.rxFsn + 1) % 65536, gap := false }).ackFlit p

theorem flitTaken_moves (f : Bytes) : s.hedgeOnly (s.flitTaken p f) ∧ ((s.flitTaken p f).hp p).rxFsn = ((s.hp p).rxFsn + 1) % 65536 ∧
    ((s.flitTaken p f).hp p).gap = false ∧ ((s.flitTaken p f).hp p).halves = (s.hp p).halves := by
  obtain ⟨hs, hrx, hgap, hhalves⟩ :=
    ackFlit_ctl ((s.acked p (u16 f 4)).modHp p fun h => { h with rxFsn := (h.rxFsn + 1) % 65536, gap := false }) p
  obtain ⟨hs', hrx', hhalves'⟩ := acked_keeps s p (u16 f 4)
  rw [State.hp_modHp] at hrx hgap hhalves
  unfold State.flitTaken
  exact ⟨hs'.trans ((hedgeOnly_modHp ..).trans hs), hrx.trans (congrArg (fun n => (n + 1) % 65536) hrx'), hgap, hhalves.trans hhalves'⟩

end

section
variable {s : State} {p : Nat} (hup : s.hState p = 2)

theorem dataFlit_expected (hup : s.hState p = 2) {f : Bytes} (tagOk : Bool) (hcrc : flitCrcOk f = true) (htyp : u8 f 0 = 1)
    (hfsn : u16 f 2 = (s.hp p).rxFsn) (hlo : 1 ≤ u16 f 6) (hhi : u16 f 6 ≤ 244) :
    exec (.dataFlit p f true tagOk) s = .next ((s.flitTaken p f).takeFlit p f tagOk) :=
  (if_neg (not_not.2 hup)).trans <| (if_neg (by simp [hcrc])).trans <| (if_neg (not_not.2 htyp)).trans <| (if_pos hfsn).trans <|
    if_neg (by omega)

theorem dataFlit_opens (hup : s.hState p = 2) {f : Bytes} (tagOk : Bool) (hcrc : flitCrcOk f = true) (htyp : u8 f 0 = 1)
    (hfsn : u16 f 2 = (s.hp p).rxFsn) (hlo : 1 ≤ u16 f 6) (hhi : u16 f 6 ≤ 244) (hfirst : flitFirst f = true) (hlast : flitLast f = false)
    (hnone : mget (s.hp p).halves (flitClass f) = none) :
    ∃ t, exec (.dataFlit p f true tagOk) s = .next t ∧ (t.hp p).rxFsn = (u16 f 2 + 1) % 65536 ∧ (t.hp p).gap = false ∧
      mget (t.hp p).halves (flitClass f) = some (sl f 8 (u16 f 6)) ∧ { t with hedge := s.hedge } = s := by
  obtain ⟨hs, hrx, hgap, hhalves⟩ := flitTaken_moves s p f
  have hexec := dataFlit_expected hup tagOk hcrc htyp hfsn hlo hhi
  rw [takeFlit_first _ p hfirst hlast (hhalves.symm ▸ hnone)] at hexec
  refine ⟨_, hexec, ?_⟩
  rw [State.hp_modHp, hfsn]
  exact ⟨hrx, hgap, mget_mput .., hs.trans (hedgeOnly_modHp ..)⟩

/-- The node that has asked for the FSN it expects. -/
def State.asked (s : State) (p : Nat) : State := (s.sendCtl p 1 (s.hp p).rxFsn).modHp p fun h => { h with gap := true }

theorem asked_hp (s : State) (p : Nat) : (s.asked p).hp p =
    { s.hp p with ctl := (s.hp p).ctl ++ [(s.hp p).ctlFlit 2 (ctlRecord 1 (s.hp p).rxFsn)], gap := true } := by
  rw [State.asked, State.hp_modHp, State.sendCtl, State.hp_modHp]

/-- A flit that is no good asks for the expected FSN, once for its gap. -/
theorem dataFlit_bad (hup : s.hState p = 2) {f : Bytes} {fecOk : Bool} (tagOk : Bool) (hbad : fecOk = false ∨ flitCrcOk f = false) :
    exec (.dataFlit p f fecOk tagOk) s = .next (if (s.hp p).gap then s else s.asked p) :=
  (if_neg (not_not.2 hup)).trans (if_pos (by simpa using hbad))

theorem dataFlit_asksOnce (hup : s.hState p = 2) {f : Bytes} {fecOk : Bool} (tagOk : Bool) (hbad : fecOk = false ∨ flitCrcOk f = false)
    (hgap : (s.hp p).gap = false) :
    ∃ t, exec (.dataFlit p f fecOk tagOk) s = .next t ∧ (t.hp p).gap = true ∧
      (t.hp p).ctl = (s.hp p).ctl ++ [(s.hp p).ctlFlit 2 (ctlRecord 1 (s.hp p).rxFsn)] ∧ (t.hp p).rxFsn = (s.hp p).rxFsn ∧
      (t.hp p).halves = (s.hp p).halves ∧ exec (.dataFlit p f fecOk tagOk) t = .next t := by
  have hexec := dataFlit_bad hup tagOk hbad
  rw [hgap, if_neg Bool.false_ne_true] at hexec
  have hask : (s.asked p).hp p = _ := asked_hp s p
  refine ⟨_, hexec, ?_, ?_, ?_, ?_, (dataFlit_bad (s := s.asked p) hup tagOk hbad).trans (congrArg Host.Outcome.next (if_pos ?_))⟩ <;>
    rw [hask]

end

/-! ### Acknowledging and sending again (R308) -/

/-- An entry of the replay buffer that goes out again. -/
def RFlit.again (r : RFlit) : RFlit := { r with retried := r.retried + 1 }

theorem replay_recover (u : State) (p : Nat) : ((u.recover p).hp p).replay = (u.hp p).replay := by
  rw [State.recover, State.hp_modHp]
  rfl

theorem replay_sentAgain (s : State) (p n : Nat) (l : List RFlit) :
    (((s.modHp p fun h => { h with replay := l }).bump 0x8010 7 n).hp p).replay = l :=
  congrArg HPort.replay (State.hp_modHp s p fun h => { h with replay := l })

section
variable {s : State} {p fsn : Nat} {pre post : List RFlit} {r : RFlit} (hrep : (s.hp p).replay = pre ++ r :: post) (hr : r.fsn = fsn)
  (hpre : ∀ x ∈ pre, x.fsn ≠ fsn)
include hrep hr hpre

theorem replay_from : ((s.hp p).replay.any fun x => x.fsn == fsn) = true ∧ ((s.hp p).replay.takeWhile fun x => x.fsn != fsn) = pre ∧
    ((s.hp p).replay.dropWhile fun x => x.fsn != fsn) = r :: post := by
  have hne : ∀ x ∈ pre, (x.fsn != fsn) = true := fun x hx => bne_iff_ne.2 (hpre x hx)
  have hstop : ¬ (fun x : RFlit => x.fsn != fsn) r = true := by simp [hr]
  rw [hrep, List.takeWhile_append_of_pos hne, List.dropWhile_append_of_pos hne, List.takeWhile_cons_of_neg (p := fun x : RFlit => x.fsn != fsn) hstop,
    List.dropWhile_cons_of_neg (p := fun x : RFlit => x.fsn != fsn) hstop, List.append_nil]
  exact ⟨List.any_eq_true.2 ⟨r, by simp, by simp [hr]⟩, rfl, rfl⟩

theorem ack_frees : ∃ t, exec (.ack p fsn) s = .next t ∧ (t.hp p).replay = post ∧ { t with hedge := s.hedge } = s := by
  obtain ⟨hany, -, hdrop⟩ := replay_from hrep hr hpre
  refine ⟨s.acked p fsn, rfl, ?_, rfl⟩
  rw [State.acked, State.hp_modHp, if_pos hany]
  exact congrArg (List.drop 1) hdrop

theorem resendFrom_replay (hup : s.hState p = 2) : ((s.resendFrom p fsn).hp p).replay = pre ++ (r :: post).map RFlit.again := by
  obtain ⟨hany, htake, hdrop⟩ := replay_from hrep hr hpre
  unfold State.resendFrom
  dsimp only
  rw [hany, htake, hdrop]
  rw [if_neg (by simp [hup])]
  split
  · exact (congrArg HPort.replay (hp_raise ..)).trans ((replay_recover ..).trans (replay_sentAgain s p _ _))
  · exact replay_sentAgain s p _ _

end

/-- Settles O47: a flit goes by what its FEC, CRC and FSN say, and the replay buffer by the place of the FSN in it. -/
theorem flitsComplete : Obligations.FlitsComplete := by
  unfold Obligations.FlitsComplete
  intro s p _ hup
  refine ⟨fun f tagOk => dataFlit_opens hup tagOk, fun f fecOk tagOk => dataFlit_asksOnce hup tagOk, fun fsn pre r post hrep hr hpre =>
    ⟨ack_frees hrep hr hpre, ⟨s.resendFrom p fsn, rfl, resendFrom_replay hrep hr hpre hup⟩, ?_⟩⟩
  rintro rfl
  refine ⟨s.resendFrom p fsn, ?_, resendFrom_replay hrep hr hpre hup⟩
  change execReplayTimeout p s = _
  unfold execReplayTimeout
  rw [hrep, ← hr]
  rfl

end Sys2Proof.Machine
end

section
/-! The queues of the cell pool (R297 to R302). -/

namespace Sys2Proof.Machine
set_option Elab.async false

/-! ### Pieces of a packet -/

theorem chunks_flatten {n : Nat} (k : Nat) (b : Bytes) (h : b.length ≤ n * k) : (chunks n k b).flatten = b := by
  induction k generalizing b with
  | zero => exact (List.length_eq_zero_iff.1 (by omega)).symm
  | succ k ih =>
    unfold chunks
    split
    · next he => exact (List.isEmpty_iff.1 he).symm
    · rw [List.flatten_cons, ih _ (by rw [List.length_drop]; rw [Nat.mul_succ] at h; omega), List.take_append_drop]

theorem chunks_length_ceil {n : Nat} (k : Nat) (b : Bytes) (h : b.length ≤ n * k) (h' : n * k < b.length + n) :
    (chunks n k b).length = k := by
  induction k generalizing b with
  | zero => rfl
  | succ k ih =>
    rw [Nat.mul_succ] at h h'
    have hne : b.isEmpty = false := by
      rw [List.isEmpty_eq_false_iff, ← List.length_pos_iff]
      omega
    have hdrop : (b.drop n).length = b.length - n := List.length_drop
    by_cases hk : k = 0
    · subst hk
      simp [chunks, hne]
    · have hle : n ≤ n * k := Nat.le_mul_of_pos_right n (Nat.pos_of_ne_zero hk)
      rw [chunks, hne, if_neg Bool.false_ne_true, List.length_cons, ih _ (by omega) (by omega)]

theorem length_of_mem_chunks {n k : Nat} {b p : Bytes} (h : p ∈ chunks n k b) : p.length ≤ n := by
  induction k generalizing b with
  | zero => cases h
  | succ k ih =>
    unfold chunks at h
    split at h
    · cases h
    · rcases List.mem_cons.1 h with rfl | h
      · exact List.length_take_le ..
      · exact ih h

theorem ceilDiv_bounds (a : Nat) : a ≤ 56 * ceilDiv a 56 ∧ 56 * ceilDiv a 56 < a + 56 := by
  unfold ceilDiv
  omega

theorem pieces_flatten (b : Bytes) : (splitAll 56 b).flatten = b :=
  chunks_flatten _ b (ceilDiv_bounds b.length).1

theorem pieces_length (b : Bytes) : (splitAll 56 b).length = ceilDiv b.length 56 :=
  chunks_length_ceil _ b (ceilDiv_bounds b.length).1 (ceilDiv_bounds b.length).2

/-! ### Free cells -/

section
variable (s : State) (plot n : Nat)

theorem freeCells_length : (s.freeCells plot n).length = n := by
  unfold State.freeCells
  dsimp only
  generalize (s.queues.filter fun e => e.1 / 65536 == plot).flatMap _ = used
  have hsplit := List.length_eq_length_filter_add (l := List.range (used.length + n)) fun c => !used.contains c
  have hused : ((List.range (used.length + n)).filter fun c => !!used.contains c).length ≤ used.length := by
    refine (List.subperm_of_subset (List.nodup_range.filter _) fun c hc => ?_).length_le
    simpa using (List.mem_filter.1 hc).2
  rw [List.length_range] at hsplit
  rw [List.length_take]
  omega

theorem freeCells_nodup : (s.freeCells plot n).Nodup :=
  ((List.nodup_range.filter _).sublist (List.take_sublist ..))

theorem freeCells_of_mem {c : Nat} (h : c ∈ s.freeCells plot n) : c ∉ s.usedCells plot ∧ c < (s.usedCells plot).length + n := by
  obtain ⟨hr, hf⟩ := List.mem_filter.1 (List.mem_of_mem_take h)
  exact ⟨by simpa [State.usedCells] using hf, List.mem_range.1 hr⟩

end

/-! ### The bytes of cells -/

theorem readN_getElem? (m : List (Nat × Byte)) (a n i : Nat) (h : i < n) : (Memory.readN m a n)[i]? = some (Memory.read m (a + i)) := by
  induction n generalizing a i with
  | zero => cases h
  | succ n ih =>
    cases i with
    | zero => rfl
    | succ i => rw [Memory.readN, List.getElem?_cons_succ, ih (a + 1) i (by omega), Nat.add_right_comm, Nat.add_assoc]

theorem readN_take (m : List (Nat × Byte)) (a : Nat) {k n : Nat} (h : k ≤ n) : (Memory.readN m a n).take k = Memory.readN m a k := by
  induction k generalizing a n with
  | zero => rfl
  | succ k ih =>
    cases n with
    | zero => cases h
    | succ n => rw [Memory.readN, List.take_succ_cons, ih (a + 1) (by omega), Memory.readN]

theorem cellAddr_apart {plot c d a : Nat} (hc : c < 1048576) (hd : d < 1048576) (hne : c ≠ d) (h1 : cellAddr plot c ≤ a)
    (h2 : a < cellAddr plot c + 64) : a < cellAddr plot d ∨ cellAddr plot d + 64 ≤ a := by
  unfold cellAddr at *
  omega

/-- Cells written one after another. -/
def writeCells (plot : Nat) (l : List (Nat × Bytes)) (m : List (Nat × Byte)) : List (Nat × Byte) :=
  l.foldl (fun m e => Memory.writeN m (cellAddr plot e.1) (padTo 64 e.2)) m

section
variable {plot : Nat} {l : List (Nat × Bytes)} (hl : ∀ e ∈ l, e.1 < 1048576)
include hl

theorem read_writeCells_out {m : List (Nat × Byte)} (w : Memory.wf m = true) {c a : Nat} (hc : c < 1048576) (hne : c ∉ l.map Prod.fst)
    (h1 : cellAddr plot c ≤ a) (h2 : a < cellAddr plot c + 64) : Memory.read (writeCells plot l m) a = Memory.read m a := by
  induction l generalizing m with
  | nil => rfl
  | cons e l ih =>
    rw [List.map_cons, List.mem_cons, not_or] at hne
    have hstep : Memory.read (Memory.writeN m (cellAddr plot e.1) (padTo 64 e.2)) a = Memory.read m a :=
      Memory.read_writeN_out w (by rw [padTo_length]; exact cellAddr_apart hc (hl e List.mem_cons_self) hne.1 h1 h2)
    exact (ih (fun e he => hl e (List.mem_cons_of_mem _ he)) (Memory.wf_writeN w ..) hne.2).trans hstep

/-- Each of the cells holds its bytes, as they have different numbers. -/
theorem readN_writeCells {m : List (Nat × Byte)} (w : Memory.wf m = true) (hnd : (l.map Prod.fst).Nodup) {e : Nat × Bytes} (he : e ∈ l) :
    Memory.readN (writeCells plot l m) (cellAddr plot e.1) 64 = padTo 64 e.2 := by
  induction l generalizing m with
  | nil => cases he
  | cons d l ih =>
    rw [List.map_cons, List.nodup_cons] at hnd
    have w' := Memory.wf_writeN w (cellAddr plot d.1) (padTo 64 d.2)
    have hl' : ∀ e ∈ l, e.1 < 1048576 := fun e he => hl e (List.mem_cons_of_mem _ he)
    rcases List.mem_cons.1 he with rfl | he
    · have hrest := readN_congr (m := Memory.writeN m (cellAddr plot e.1) (padTo 64 e.2)) (a := cellAddr plot e.1) (n := 64) fun x h1 h2 =>
        read_writeCells_out hl' w' (hl e List.mem_cons_self) hnd.1 h1 h2
      refine hrest.trans ?_
      have hsame := Memory.readN_writeN (m := m) (a := cellAddr plot e.1) (b := padTo 64 e.2) w
      rwa [padTo_length] at hsame
    · exact ih hl' w' hnd.2 he

end

/-- The bytes of the cell that carries a piece at a place of its packet. -/
def pieceBytes (q : Nat) (cells : List Nat) (first last : Bool) (i : Nat) (part : Bytes) : Bytes :=
  padTo 56 part ++ leBytes 3 ((cells[i + 1]?).getD 0xFFFFFF) ++
    leBytes 1 ((if first && i == 0 then 1 else 0) + (if last && i + 1 == cells.length then 2 else 0)) ++ leBytes 1 part.length ++ [0] ++ leBytes 2 q

theorem packetCells_eq (q : Nat) (cells : List Nat) (data : Bytes) (first last : Bool) : packetCells q cells data first last =
    ((cells.zip (splitAll 56 data)).zipIdx).map fun e => (e.1.1, pieceBytes q cells first last e.2 e.1.2) := rfl

section
variable (q : Nat) (cells : List Nat) (first last : Bool) (i : Nat) (part : Bytes)

theorem pieceBytes_length : (pieceBytes q cells first last i part).length = 64 := by
  simp [pieceBytes, padTo_length, leBytes_length]

theorem pieceBytes_count : (pieceBytes q cells first last i part)[60]? = some (BitVec.ofNat 8 part.length) := by
  simp [pieceBytes, padTo_length, leBytes]

theorem pieceBytes_take (h : part.length ≤ 56) : (pieceBytes q cells first last i part).take part.length = part := by
  unfold pieceBytes
  simp only [List.append_assoc]
  rw [List.take_append_of_le_length (by rw [padTo_length]; exact h), padTo, List.take_of_length_le h, List.take_left]

end

theorem map_fst_packetCells (q : Nat) {cells : List Nat} {data : Bytes} (first last : Bool) (hlen : cells.length = (splitAll 56 data).length) :
    (packetCells q cells data first last).map Prod.fst = cells := by
  rw [packetCells_eq, List.map_map]
  calc _ = ((cells.zip (splitAll 56 data)).zipIdx.map Prod.fst).map Prod.fst := by rw [List.map_map]; rfl
    _ = cells := by rw [List.zipIdx_map_fst, List.map_fst_zip (by omega)]

/-- A packet's cells read back as its bytes. -/
theorem packetData_written {s : State} {plot q : Nat} {cells : List Nat} {data : Bytes} {first last : Bool} {m : List (Nat × Byte)}
    (hmem : s.mem = writeCells plot (packetCells q cells data first last) m) (w : Memory.wf m = true) (hnd : cells.Nodup)
    (hlow : ∀ c ∈ cells, c < 1048576) (hlen : cells.length = (splitAll 56 data).length) : s.packetData plot cells = data := by
  have hfst := map_fst_packetCells q first last hlen
  have hcell : ∀ e ∈ cells.zip (splitAll 56 data),
      Memory.readN s.mem (cellAddr plot e.1) (min 56 (Memory.read s.mem (cellAddr plot e.1 + 60)).toNat) = e.2 := by
    rintro ⟨c, part⟩ he
    obtain ⟨i, hi⟩ := List.getElem?_of_mem he
    have hpart : part.length ≤ 56 := length_of_mem_chunks (List.of_mem_zip he).2
    have hin : (c, pieceBytes q cells first last i part) ∈ packetCells q cells data first last :=
      List.mem_map.2 ⟨((c, part), i), List.mem_zipIdx_iff_getElem?.2 hi, rfl⟩
    have hbytes : Memory.readN s.mem (cellAddr plot c) 64 = pieceBytes q cells first last i part := by
      rw [hmem, readN_writeCells (fun e he => hlow _ (hfst ▸ List.mem_map_of_mem he)) w (hfst.symm ▸ hnd) hin]
      exact padTo_of_length (pieceBytes_length ..)
    have hcount : Memory.read s.mem (cellAddr plot c + 60) = BitVec.ofNat 8 part.length := by
      refine Option.some.inj ((readN_getElem? s.mem (cellAddr plot c) 64 60 (by decide)).symm.trans ?_)
      rw [hbytes, pieceBytes_count]
    rw [hcount, BitVec.toNat_ofNat, Nat.mod_eq_of_lt (by omega), Nat.min_eq_right hpart, ← readN_take s.mem _ (by omega : part.length ≤ 64), hbytes,
      pieceBytes_take _ _ _ _ _ _ hpart]
  calc s.packetData plot cells
      = (cells.zip (splitAll 56 data)).flatMap fun e =>
          Memory.readN s.mem (cellAddr plot e.1) (min 56 (Memory.read s.mem (cellAddr plot e.1 + 60)).toNat) := by
        conv_lhs => rw [← List.map_fst_zip (l₁ := cells) (l₂ := splitAll 56 data) (by omega)]
        exact List.flatMap_map ..
    _ = (cells.zip (splitAll 56 data)).flatMap Prod.snd := List.flatMap_congr hcell
    _ = ((cells.zip (splitAll 56 data)).map Prod.snd).flatten := List.flatMap_def ..
    _ = data := by rw [List.map_snd_zip (by omega), pieces_flatten]

/-! ### Pushing -/

theorem queue_modQueue (s : State) (plot q : Nat) (f : QSt → QSt) : (s.modQueue plot q f).queue plot q = f (s.queue plot q) :=
  mgetD_mupd ..

/-- Cells that join a queue, behind its open packet. -/
def QSt.joined (x : QSt) (cells : List Nat) : QSt :=
  { x with
    credits := x.credits - cells.length, open_ := x.open_ ++ cells
    ahead := if x.open_.isEmpty then x.pkts.length else x.ahead }

/-- The cells that a push takes. -/
def State.pushed (s : State) (plot q : Nat) (p : Push) : State × List Nat :=
  s.putCells plot q ((s.queue plot q).open_.getLast? <|> ((s.queue plot q).pkts.getLast?).bind List.getLast?) p.data
    (s.queue plot q).open_.isEmpty p.last

section
variable {s : State} {plot q : Nat} {d : Nat × Nat × Nat} {b : Bytes} (hdef : s.queueDef plot q = some d) (hb : b ≠ [])
include hb

theorem cells_pos : ceilDiv b.length 56 ≠ 0 := by
  have := List.length_pos_iff.2 hb
  unfold ceilDiv
  omega

include hdef

theorem pushCells_credit (last : Bool) (hcr : ceilDiv b.length 56 ≤ (s.queue plot q).credits) (hfate : (s.queue plot q).fate = 0) :
    s.pushCells plot q ⟨b, last⟩ = (s.pushed plot q ⟨b, last⟩).1.modQueue plot q fun x =>
      if last then (x.joined (s.freeCells plot (ceilDiv b.length 56))).close else x.joined (s.freeCells plot (ceilDiv b.length 56)) := by
  unfold State.pushCells QSt.joined
  rw [freeCells_length]
  refine (if_neg ?_).trans ((if_neg ?_).trans (if_neg ?_))
  · rw [hdef]
    exact fun h => h.elim (by simp) (cells_pos hb)
  · exact fun h => absurd (hfate.symm.trans h) (by decide)
  · exact Nat.not_lt.2 hcr

theorem pushCells_noCredit (last : Bool) (hcr : (s.queue plot q).credits < ceilDiv b.length 56) (hfate : (s.queue plot q).fate ≠ 2) :
    s.pushCells plot q ⟨b, last⟩ = s.noCredit plot q fun x => { x with open_ := [], ahead := 0, fate := if last then 0 else 2 } := by
  unfold State.pushCells
  refine (if_neg ?_).trans ((if_neg hfate).trans (if_pos hcr))
  rw [hdef]
  exact fun h => h.elim (by simp) (cells_pos hb)

theorem pushCells_ignored (hfate : (s.queue plot q).fate = 2) : s.pushCells plot q ⟨b, false⟩ = s.modQueue plot q id := by
  unfold State.pushCells
  refine (if_neg ?_).trans (if_pos hfate)
  rw [hdef]
  exact fun h => h.elim (by simp) (cells_pos hb)

end

theorem cellPush_none {plot : Nat} (hplot : plot < 16) (s : State) (q : Nat) (p : Push) : exec (.cellPush plot q none p) s = .next (s.pushCells plot q p) :=
  congrArg Host.Outcome.next (if_pos hplot)

/-- The requests of a queue once a packet of one joins it. -/
def QSt.noteReq (x : QSt) (req : Option Nat) : List Nat :=
  match req with
  | some tag => x.reqs.filter (fun y => y != tag) ++ [tag]
  | none => x.reqs

section
variable {s : State} {plot q : Nat} {d : Nat × Nat × Nat} {b : Bytes} (hplot : plot < 16) (w : Memory.wf s.mem = true)
  (hdef : s.queueDef plot q = some d) (hb : b ≠ []) (hfit : s.cellsFit plot (ceilDiv b.length 56))

theorem pushed_keeps (p : Push) (f : QSt → QSt) :
    ({ (s.pushed plot q p).1.modQueue plot q f with queues := s.queues, mem := s.mem } : State) = s ∧
      ((s.pushed plot q p).1.modQueue plot q f).queue plot q = f (s.queue plot q) :=
  ⟨rfl, queue_modQueue ..⟩

include w hfit in
theorem pushed_data (last : Bool) : (s.pushed plot q ⟨b, last⟩).1.packetData plot (s.freeCells plot (ceilDiv b.length 56)) = b := by
  refine packetData_written (q := q) (first := (s.queue plot q).open_.isEmpty) (last := last) rfl ?_ (freeCells_nodup ..) (fun c hc => ?_)
    ((freeCells_length ..).trans (pieces_length b).symm)
  · split
    · exact Memory.wf_writeN w ..
    · exact w
  · have := (freeCells_of_mem s plot _ hc).2
    have := hfit.2
    omega

theorem held_joined_close {x : QSt} {cells : List Nat} (hopen : x.open_ = []) (hfate : x.fate = 0) (hc : cells ≠ []) :
    (x.joined cells).close = { x with credits := x.credits - cells.length, pkts := x.pkts ++ [cells], ahead := 0 } ∧
      ¬ (x.joined cells).close.held ≤ x.held := by
  have heq : (x.joined cells).close = { x with credits := x.credits - cells.length, pkts := x.pkts ++ [cells], ahead := 0 } := by
    simp [QSt.joined, QSt.close, hopen, hfate]
  refine ⟨heq, ?_⟩
  have := List.length_pos_iff.2 hc
  rw [heq]
  simp [QSt.held, sumNat, hopen]
  omega

include hplot w hdef hb hfit in
theorem cellPush_whole (hcr : ceilDiv b.length 56 ≤ (s.queue plot q).credits) (hfate : (s.queue plot q).fate = 0)
    (hopen : (s.queue plot q).open_ = []) (req : Option Nat) :
    ∃ t, exec (.cellPush plot q req ⟨b, true⟩) s = .next t ∧ t.packetData plot (s.freeCells plot (ceilDiv b.length 56)) = b ∧
      t.queue plot q = { s.queue plot q with
        credits := (s.queue plot q).credits - (s.freeCells plot (ceilDiv b.length 56)).length
        pkts := (s.queue plot q).pkts ++ [s.freeCells plot (ceilDiv b.length 56)], ahead := 0
        reqs := (s.queue plot q).noteReq req } ∧ { t with queues := s.queues, mem := s.mem } = s := by
  have hpush := pushCells_credit hdef hb true hcr hfate
  have hcells : s.freeCells plot (ceilDiv b.length 56) ≠ [] := by
    rw [← List.length_pos_iff, freeCells_length]
    exact Nat.pos_of_ne_zero (cells_pos hb)
  obtain ⟨hclose, hheld⟩ := held_joined_close hopen hfate hcells
  have hqueue : (s.pushCells plot q ⟨b, true⟩).queue plot q = _ := hpush ▸ queue_modQueue _ plot q _
  rw [if_pos rfl] at hqueue
  have hdata : (s.pushCells plot q ⟨b, true⟩).packetData plot (s.freeCells plot (ceilDiv b.length 56)) = b :=
    hpush ▸ pushed_data w hfit true
  have hkeep : ({ s.pushCells plot q ⟨b, true⟩ with queues := s.queues, mem := s.mem } : State) = s := hpush ▸ rfl
  cases req with
  | none => exact ⟨_, cellPush_none hplot s q _, hdata, hqueue.trans hclose, hkeep⟩
  | some tag =>
    refine ⟨(s.pushCells plot q ⟨b, true⟩).modQueue plot q fun y => { y with reqs := y.reqs.filter (· != tag) ++ [tag] }, ?_, hdata, ?_, hkeep⟩
    · exact congrArg Host.Outcome.next ((if_pos hplot).trans (if_neg (hqueue.symm ▸ hheld)))
    · rw [queue_modQueue, hqueue]
      exact hclose ▸ rfl

end

/-! ### Taking the oldest packet (R300, R302) -/

section
variable (s : State) (Q : List (Nat × QSt))

theorem bump_swapQueues (i k n : Nat) : ({ ({ s with queues := Q } : State).bump i k n with queues := s.queues } : State) = s.bump i k n := rfl

theorem bump_raise_swapQueues (i k n c l d : Nat) :
    ({ (({ s with queues := Q } : State).bump i k n).raise c l d with queues := s.queues } : State) = (s.bump i k n).raise c l d := rfl

theorem queue_raise (c l d plot q : Nat) : (s.raise c l d).queue plot q = s.queue plot q := by
  rw [State.queue, State.raise_queues, State.queue]

end

/-- Whether a queue's words carry parity, and no SECDED code (R302). -/
def State.parity (s : State) (plot q : Nat) : Bool := decide (q ≤ 1) || ((s.queueDef plot q).map (·.1)).getD 0 == 4

section
variable {s : State} {plot q : Nat} {cells : List Nat} (h : (s.queue plot q).oldest = some cells)

theorem cellPop_empty (h : (s.queue plot q).oldest = none) (dmg : CellDamage) (deps : List Nat) : exec (.cellPop plot q dmg deps) s = .next s := by
  change execCellPop plot q dmg deps s = _
  unfold execCellPop
  rw [h]

/-- A packet that leaves its queue whole: the event queue's joins the step's records. -/
def State.poppedWhole (s : State) (plot q : Nat) (cells : List Nat) : State :=
  if q = 1 then (s.popPacket plot q).queuedEvent (s.packetData plot cells) false else s.popPacket plot q

include h in
theorem cellPop_of (dmg : CellDamage) (deps : List Nat) : exec (.cellPop plot q dmg deps) s = match dmg with
    | .none => .next (s.poppedWhole plot q cells)
    | .corrected n => .next (if s.parity plot q then s.poppedWhole plot q cells else (s.poppedWhole plot q cells).bump 0x4030 2 n)
    | .uncorrectable => .next (if s.parity plot q then s.poppedWhole plot q cells else (s.popPacket plot q).badPacket plot deps)
    | .poison words => .next (if s.parity plot q then (s.popPacket plot q).popPoisoned plot q cells words (s.packetData plot cells) deps
        else s.poppedWhole plot q cells) := by
  change execCellPop plot q dmg deps s = _
  unfold execCellPop
  rw [h]
  cases dmg <;> rfl

theorem popPacket_pkts (s : State) (plot q : Nat) : ((s.popPacket plot q).queue plot q).pkts = (s.queue plot q).pkts.drop 1 :=
  congrArg QSt.pkts (queue_modQueue ..)

/-- What an event packet does where it leaves the event queue. -/
theorem queuedEvent_keeps (s : State) (data : Bytes) (poison : Bool) : (s.queuedEvent data poison).queues = s.queues ∧
    (s.queuedEvent data poison).mem = s.mem ∧
    (1 ≤ (evOf data).code / 4096 → (evOf data).code / 4096 ≤ 12 →
      (s.queuedEvent data poison).ev.raised = s.ev.raised ++ [{ evOf data with poison := poison }]) ∧
    ((evOf data).code / 4096 = 0 ∨ 12 < (evOf data).code / 4096 → (s.queuedEvent data poison).ev = s.ev) := by
  unfold State.queuedEvent
  dsimp only
  split
  · next h => exact ⟨rfl, rfl, fun _ _ => rfl, fun hn => absurd h (by omega)⟩
  · next h => exact ⟨rfl, rfl, fun h1 h2 => absurd ⟨h1, h2⟩ h, fun _ => rfl⟩

include h

theorem cellPop_whole (hq : q ≠ 1) (deps : List Nat) : ∃ t, exec (.cellPop plot q .none deps) s = .next t ∧
    (t.queue plot q).pkts = (s.queue plot q).pkts.drop 1 ∧ { t with queues := s.queues } = s := by
  refine ⟨s.popPacket plot q, (cellPop_of h .none deps).trans (congrArg Host.Outcome.next (if_neg hq)), popPacket_pkts .., rfl⟩

theorem cellPop_event (hq : q = 1) (deps : List Nat) : ∃ t, exec (.cellPop plot q .none deps) s = .next t ∧
    (t.queue plot q).pkts = (s.queue plot q).pkts.drop 1 ∧ t.mem = s.mem ∧
    (1 ≤ (evOf (s.packetData plot cells)).code / 4096 → (evOf (s.packetData plot cells)).code / 4096 ≤ 12 →
      t.ev.raised = s.ev.raised ++ [{ evOf (s.packetData plot cells) with poison := false }]) ∧
    ((evOf (s.packetData plot cells)).code / 4096 = 0 ∨ 12 < (evOf (s.packetData plot cells)).code / 4096 → t.ev = s.ev) := by
  obtain ⟨hqs, hmem, hjoin, hdrop⟩ := queuedEvent_keeps (s.popPacket plot q) (s.packetData plot cells) false
  refine ⟨_, (cellPop_of h .none deps).trans (congrArg Host.Outcome.next (if_pos hq)), ?_, hmem, hjoin, hdrop⟩
  rw [State.queue, hqs]
  exact popPacket_pkts s plot q

omit h in
theorem parity_secded (hq : 1 < q) (hcls : ((s.queueDef plot q).map (·.1)).getD 0 ≠ 4) : s.parity plot q = false := by
  unfold State.parity
  rw [decide_eq_false (by omega), Bool.false_or]
  exact beq_false_of_ne hcls

theorem cellPop_secded (hq : 1 < q) (hcls : ((s.queueDef plot q).map (·.1)).getD 0 ≠ 4) (deps : List Nat) :
    (∀ n, ∃ t, exec (.cellPop plot q (.corrected n) deps) s = .next t ∧ (t.queue plot q).pkts = (s.queue plot q).pkts.drop 1 ∧
      ({ t with queues := s.queues } : State) = s.bump 0x4030 2 n) ∧
    ∃ t, exec (.cellPop plot q .uncorrectable []) s = .next t ∧ (t.queue plot q).pkts = (s.queue plot q).pkts.drop 1 ∧
      ({ t with queues := s.queues } : State) = (s.bump 0x4030 3 1).raise 0x4030 (locPlot plot) 0 := by
  have hpar := parity_secded hq hcls
  constructor
  · intro n
    refine ⟨(s.popPacket plot q).bump 0x4030 2 n, (cellPop_of h (.corrected n) deps).trans (congrArg Host.Outcome.next ?_), popPacket_pkts s plot q,
      bump_swapQueues ..⟩
    rw [hpar, if_neg Bool.false_ne_true, State.poppedWhole, if_neg (by omega)]
  · refine ⟨((s.popPacket plot q).bump 0x4030 3 1).raise 0x4030 (locPlot plot) 0,
      (cellPop_of h .uncorrectable []).trans (congrArg Host.Outcome.next ?_), ?_, bump_raise_swapQueues ..⟩
    · rw [hpar, if_neg Bool.false_ne_true]
      rfl
    · rw [queue_raise]
      exact popPacket_pkts s plot q

theorem cellPop_poisonedCommand (hq : q = 0) (words deps : List Nat) : ∃ t, exec (.cellPop plot q (.poison words) deps) s = .next t ∧
    (t.queue plot q).pkts = (s.queue plot q).pkts.drop 1 ∧ (t.queue plot q).again = (s.queue plot q).again ++ [s.packetData plot cells] := by
  have hpar : s.parity plot q = true := by simp [State.parity, hq]
  refine ⟨_, (cellPop_of h (.poison words) deps).trans (congrArg Host.Outcome.next (if_pos hpar)), ?_⟩
  unfold State.popPoisoned
  dsimp only
  rw [if_pos hq, queue_raise, queue_modQueue]
  change ((s.popPacket plot q).queue plot q).pkts = _ ∧ ((s.popPacket plot q).queue plot q).again ++ [s.packetData plot cells] = _
  rw [State.popPacket, queue_modQueue]
  exact ⟨rfl, rfl⟩

end

/-! ### Flushing (R301) -/

theorem queueFlushApply_frees {s : State} {plot q : Nat} (h : (s.queue plot q).flush = true) :
    ∃ t, exec (.queueFlushApply plot q) s = .next t ∧ (t.queue plot q).pkts = [] ∧ (t.queue plot q).open_ = (s.queue plot q).open_ ∧
      (t.queue plot q).flush = false ∧ (t.queue plot q).credits = (s.queue plot q).credits ∧ { t with queues := s.queues } = s := by
  refine ⟨_, congrArg Host.Outcome.next (if_pos h), ?_⟩
  rw [queue_modQueue]
  exact ⟨rfl, rfl, rfl, rfl, rfl⟩

/-- Settles O52: the cells that a push takes are free ones, so that a packet reads back; the other commands go by the oldest packet. -/
theorem queuesMoveWholePackets : Obligations.QueuesMoveWholePackets := by
  unfold Obligations.QueuesMoveWholePackets
  intro s plot q hplot _
  refine ⟨fun b d w hdef hb hfit => ⟨fun hcr hfate => ⟨s.freeCells plot (ceilDiv b.length 56), freeCells_length .., freeCells_nodup ..,
    fun c hc => (freeCells_of_mem s plot _ hc).1, fun hopen req => ?_, ?_, fun hopen => ?_⟩, fun hcr hfate last => ?_, fun hfate => ?_⟩,
    fun h dmg deps => cellPop_empty h dmg deps, fun cells deps h => ⟨fun hq => cellPop_whole h hq deps, fun hq => cellPop_event h hq deps,
      fun hq hcls => cellPop_secded h hq hcls deps, fun hq word => cellPop_poisonedCommand h hq [word] deps⟩,
    queueFlushApply_frees, fun h => congrArg Host.Outcome.next (if_neg (by rw [h]; exact Bool.false_ne_true))⟩
  · exact cellPush_whole hplot w hdef hb hfit hcr hfate hopen req
  · obtain ⟨hkeep, hqueue⟩ := pushed_keeps (s := s) (plot := plot) (q := q) ⟨b, false⟩ (QSt.joined · (s.freeCells plot (ceilDiv b.length 56)))
    refine ⟨_, (cellPush_none hplot s q _).trans (congrArg Host.Outcome.next (pushCells_credit hdef hb false hcr hfate)), ?_⟩
    simp only [Bool.false_eq_true, if_false]
    rw [hqueue]
    refine ⟨rfl, rfl, rfl, ?_, hkeep⟩
    simp [QSt.joined]
  · obtain ⟨-, hqueue⟩ := pushed_keeps (s := s) (plot := plot) (q := q) ⟨b, true⟩ fun x =>
      (x.joined (s.freeCells plot (ceilDiv b.length 56))).close
    refine ⟨_, (cellPush_none hplot s q _).trans (congrArg Host.Outcome.next (pushCells_credit hdef hb true hcr hfate)), ?_⟩
    simp only [if_true]
    rw [hqueue]
    simp [QSt.close, QSt.joined, hfate, hopen]
  · refine ⟨_, (cellPush_none hplot s q _).trans (congrArg Host.Outcome.next (pushCells_noCredit hdef hb last hcr hfate)), ?_, ?_,
      bump_raise_swapQueues ..⟩
    · rw [State.noCredit, queue_raise]
      exact queue_modQueue s plot q fun x => { x with credits := 0, open_ := [], ahead := 0, fate := if last then 0 else 2 }
    · rw [State.noCredit, State.raise_mem]
      rfl
  · exact ⟨_, (cellPush_none hplot s q _).trans (congrArg Host.Outcome.next (pushCells_ignored hdef hb hfate)), queue_modQueue .., rfl⟩

end Sys2Proof.Machine
end

section
/-! Loads of a joining replica, the extended test, scrubs and attestation reports (R352, R353, R361, R395, R397). -/

namespace Sys2Proof.Machine
set_option Elab.async false

/-! ### Loads (R397) -/

section
variable {s : State} {i : Nat} {h : Shard} (hi : mget s.shards i = some h) (hown : h.owner = false) (hst : h.state = 1)
include hi hown hst

theorem rejoinLoad_epoch (port : Nat) {r : Bytes} (hid : u32 r 8 = h.id) : exec (.rejoinLoad port i (.epoch r)) s =
    .next ((s.modShard i fun h =>
      { h with pendEpoch := some r, pendDone := false, images := h.images.filter fun x => (recSealed r).contains x.1 }).installLoad i) := by
  change execRejoinLoad port i (.epoch r) s = _
  unfold execRejoinLoad
  rw [hi]
  refine (if_neg (by rw [hown]; exact Bool.false_ne_true)).trans (if_neg ?_)
  exact fun hn => hn.elim (· hst) (· hid)

/-- An image of a load that checks, and agrees with its shard and with the images loaded. -/
def State.loadFits (s : State) (i : Nat) (h : Shard) (n : Nat) (image : Bytes) : Bool :=
  h.imageOk image n && s.segAgrees h image && s.loadAgrees i h image

variable {r : Bytes} {n : Nat} (hpend : h.pendEpoch = some r) (hseg : (recSeg r n).isSome = true) (hnew : mget h.images n = none)
include hpend hseg hnew

theorem rejoinLoad_image (port : Nat) (image : Bytes) : exec (.rejoinLoad port i (.image n image)) s =
    if s.loadFits i h n image && (recSeg r n).map (·.2) == some (segmentRoot h.id n image) then
      .next ((s.modShard i fun h => { h with images := mput h.images n image }).installLoad i)
    else if h.badImage.contains n then .next ((s.raise (if s.loadFits i h n image then 0x3032 else 0x3030) locField 0).raise 0xB011 locField 0)
    else .next ((s.raise (if s.loadFits i h n image then 0x3032 else 0x3030) locField 0).modShard i fun h =>
      { h with badImage := h.badImage ++ [n] }) := by
  change execRejoinLoad port i (.image n image) s = _
  unfold execRejoinLoad
  rw [hi]
  refine (if_neg (by rw [hown]; exact Bool.false_ne_true)).trans ?_
  dsimp only
  rw [hpend]
  refine if_neg ?_
  rw [hnew, Option.isNone_iff_eq_none, not_or, not_or]
  exact ⟨not_not.2 hst, Option.isSome_iff_ne_none.1 hseg, Bool.false_ne_true⟩

theorem rejoinLoad_badImage (port : Nat) {image : Bytes}
    (hbad : ¬ (s.loadFits i h n image && (recSeg r n).map (·.2) == some (segmentRoot h.id n image)) = true) :
    ∃ t g, exec (.rejoinLoad port i (.image n image)) s = .next t ∧ mget t.shards i = some g ∧ g.images = h.images ∧
      n ∈ g.badImage ∧ g.segs = h.segs := by
  rw [rejoinLoad_image hi hown hst hpend hseg hnew, if_neg hbad]
  by_cases hin : h.badImage.contains n = true
  · rw [if_pos hin]
    refine ⟨_, h, rfl, ?_, rfl, List.contains_iff_mem.1 hin, rfl⟩
    rw [State.raise_shards, State.raise_shards]
    exact hi
  · rw [if_neg hin]
    refine ⟨_, { h with badImage := h.badImage ++ [n] }, rfl, ?_, rfl, by simp, rfl⟩
    exact modShard_self (fun h => { h with badImage := h.badImage ++ [n] }) ((congrArg (mget · i) (State.raise_shards ..)).trans hi)

end

/-! ### The extended test (R395) -/

theorem key_of_mget {α : Type} {m : List (Nat × α)} {k : Nat} {v : α} (h : mget m k = some v) : ∃ w, (k, w) ∈ m := by
  induction m with
  | nil => cases h
  | cons e m ih =>
    unfold mget at h
    split at h
    · next he => exact ⟨e.2, by rw [← he]; exact List.mem_cons_self⟩
    · split at h
      · cases h
      · exact (ih h).imp fun _ => List.mem_cons_of_mem _

/-- Two units of a type differ where their results on some pattern do: on any other pattern both give what the type gives. -/
theorem unitsDiffer_iff (u v : TestUnit) : unitsDiffer u v = true ↔ v.typ = u.typ ∧ ∃ k, unitResult v k ≠ unitResult u k := by
  unfold unitsDiffer
  rw [Bool.and_eq_true, beq_iff_eq, List.any_eq_true]
  refine and_congr_right fun htyp => ⟨?_, ?_⟩
  · rintro ⟨e, -, he⟩
    exact ⟨e.1, (bne_iff_ne.1 he).symm⟩
  · rintro ⟨k, hk⟩
    have hwrong : mget u.wrong k ≠ none ∨ mget v.wrong k ≠ none := by
      by_contra hn
      rw [not_or, not_not, not_not] at hn
      exact hk (by rw [unitResult, unitResult, hn.1, hn.2, htyp])
    have hkey : ∃ w, (k, w) ∈ u.wrong ++ v.wrong := by
      rcases hwrong with hw | hw
      · obtain ⟨x, hx⟩ := Option.ne_none_iff_exists'.1 hw
        exact (key_of_mget hx).imp fun _ => List.mem_append_left _
      · obtain ⟨x, hx⟩ := Option.ne_none_iff_exists'.1 hw
        exact (key_of_mget hx).imp fun _ => List.mem_append_right _
    obtain ⟨w, hw⟩ := hkey
    exact ⟨(k, w), hw, bne_iff_ne.2 hk.symm⟩

theorem failedUnits_nil {units : List TestUnit}
    (h : ∀ u ∈ units, u.ok = true ∧ ∀ v ∈ units, v.typ = u.typ → ∀ k, unitResult v k = unitResult u k) : failedUnits units = [] := by
  refine List.filter_eq_nil_iff.2 fun u hu hbad => ?_
  obtain ⟨hok, hsame⟩ := h u hu
  rw [hok, Bool.not_true, Bool.false_or, List.any_eq_true] at hbad
  obtain ⟨v, hv, hd⟩ := hbad
  obtain ⟨htyp, k, hk⟩ := (unitsDiffer_iff u v).1 hd
  exact hk (hsame v hv htyp k)

theorem failedUnits_ne_nil {units : List TestUnit}
    (h : ∃ u ∈ units, u.ok = false ∨ ∃ v ∈ units, v.typ = u.typ ∧ ∃ k, unitResult v k ≠ unitResult u k) : failedUnits units ≠ [] := by
  obtain ⟨u, hu, hbad⟩ := h
  refine List.ne_nil_of_mem (a := u) (List.mem_filter.2 ⟨hu, ?_⟩)
  rcases hbad with hok | ⟨v, hv, hd⟩
  · rw [hok]
    rfl
  · exact Bool.or_eq_true_iff.2 (Or.inr (List.any_eq_true.2 ⟨v, hv, (unitsDiffer_iff u v).2 hd⟩))

/-- Each failed unit is reported. -/
def State.reportUnits (s : State) (bad : List TestUnit) : State :=
  bad.foldl (fun (s : State) u => s.raise 0xB011 locField (u.typ * 2 ^ 32 + u.num)) s

theorem reportUnits_keeps (s : State) (bad : List TestUnit) : (s.reportUnits bad).pwr = s.pwr ∧
    (s.reportUnits bad).liveN 0xB040 2 = s.liveN 0xB040 2 := by
  induction bad generalizing s with
  | nil => exact ⟨rfl, rfl⟩
  | cons u bad ih =>
    obtain ⟨hpwr, hlive⟩ := ih (s.raise 0xB011 locField (u.typ * 2 ^ 32 + u.num))
    exact ⟨hpwr.trans (State.raise_pwr ..), hlive.trans (congrArg leNat (live_raise_ne s _ _ (by decide)))⟩

theorem rejoinTestEnd_result {s : State} {x due : Nat} (ht : s.pwr.test = some (x, due)) (hdue : due ≤ s.step.number) (units : List TestUnit) :
    ∃ t, exec (.rejoinTestEnd units) s = .next t ∧ t.pwr.test = none ∧
      t.liveN 0xB040 2 = if (failedUnits units).isEmpty then 1 else 2 := by
  obtain ⟨hpwr, hlive⟩ := reportUnits_keeps
    (({ s with pwr := { s.pwr with test := none } } : State).setN 0xB040 2 (if (failedUnits units).isEmpty then 1 else 2)) (failedUnits units)
  refine ⟨_, ?_, congrArg PwrSt.test hpwr, hlive.trans ((State.liveN_setN ..).trans ?_)⟩
  · change execRejoinTestEnd units s = _
    unfold execRejoinTestEnd
    rw [ht]
    exact if_neg (Nat.not_lt.2 hdue)
  · rw [show (dictDefault 0xB040 2).length = 1 from rfl]
    split <;> rfl

/-! ### Scrubs (R352, R353) -/

/-- The stage that a scrub's part comes to. -/
def scrubStage (ok : Bool) (st : Nat) : Nat := if ok then 2 else if st = 0 then 1 else 4

/-- A scrub, one of whose parts has ended. -/
def Scrub.ended (x : Scrub) (external ok : Bool) : Scrub :=
  if external then { x with ext := scrubStage ok x.ext } else { x with chip := scrubStage ok x.chip }

theorem tenantScrub_ends {s : State} {p : Nat} {x : Scrub} {external : Bool} (ok : Bool) (hp : p < 8) (hx : (s.part p).scrub = some x)
    (hst : (if external then x.ext else x.chip) < 2) :
    ∃ t, exec (.tenantScrub p external ok) s = .next t ∧ (t.part p).scrub = some (x.ended external ok) := by
  have hgo : ¬ (2 ≤ (if external then x.ext else x.chip) ∨ 8 ≤ p) := by omega
  change ∃ t, execTenantScrub p external ok s = .next t ∧ _
  unfold execTenantScrub
  rw [hx]
  refine ⟨_, if_neg hgo, ?_⟩
  have hput : ∀ (u : State) (y : Scrub), ((u.modPart p fun z => { z with scrub := some y }).part p).scrub = some y := fun u y =>
    congrArg PartSt.scrub (State.part_modPart ..)
  have hraise : ∀ (u : State), ((u.raise 0x9013 locField 0).part p).scrub = (u.part p).scrub := fun u => by
    rw [State.part, State.raise_parts, State.part]
  cases ok <;> cases external <;> simp only [if_true, Bool.false_eq_true, if_false, hraise] <;> exact hput ..

theorem Scrub.ended_parts (x : Scrub) (external ok : Bool) :
    (if external then (x.ended external ok).ext else (x.ended external ok).chip) =
        (if ok then 2 else if (if external then x.ext else x.chip) = 0 then 1 else 4) ∧
      (if external then (x.ended external ok).chip else (x.ended external ok).ext) = (if external then x.chip else x.ext) ∧
      (x.ended external ok).mode = x.mode := by
  cases external <;> exact ⟨rfl, rfl, rfl⟩

/-! ### Attestation reports (R359 to R361) -/

/-- A captured report with its leaf index, and its signature behind it. -/
def signedReport (body : Bytes) (i : Nat) : Bytes :=
  overlay body 120 (leBytes 8 i) ++ (List.range 9893).map (Config.leafSignature i (overlay body 120 (leBytes 8 i)))

theorem attReportSign_signs {s s1 : State} {a : AttReq} {rest : List AttReq} {i : Nat} (hatts : s.sec.atts = a :: rest) (hbody : a.body ≠ [])
    (hserves : s.handServes = true) (hleaf : State.takeLeaf { s with sec := { s.sec with atts := rest } } = some (i, s1)) :
    ∃ t, exec .attReportSign s = .next t ∧ (t.result a.src).att = 2 ∧ (t.result a.src).nonce = a.nonce ∧
      (t.result a.src).report = signedReport a.body i := by
  have hexec : exec .attReportSign s = .next ((s1.modResult a.src fun r =>
      { r with report := signedReport a.body i, nonce := a.nonce, att := 2, gen := s1.sec.kemGen }).raise 0x9020 (locHand s) 0) := by
    refine congrArg Host.Outcome.next ?_
    unfold State.signReport
    rw [hatts]
    refine (if_neg ?_).trans ?_
    · rw [List.isEmpty_iff, hserves]
      exact fun h => h.elim hbody (· rfl)
    · dsimp only at hleaf ⊢
      rw [hleaf]
      rfl
  refine ⟨_, hexec, ?_⟩
  have hresult : ∀ (u : State) (c l d : Nat), (u.raise c l d).result a.src = u.result a.src := fun u c l d => by
    rw [State.result, State.raise_dict_results, State.result]
  have hmod := mgetD_mupd s1.dict.results (srcKey a.src) emptyResult fun r =>
    { r with report := signedReport a.body i, nonce := a.nonce, att := 2, gen := s1.sec.kemGen }
  rw [hresult]
  exact ⟨congrArg SrcResult.att hmod, congrArg SrcResult.nonce hmod, congrArg SrcResult.report hmod⟩

/-- Settles O59, command by command. -/
theorem rejoinAndSecurityComplete : Obligations.RejoinAndSecurityComplete := by
  unfold Obligations.RejoinAndSecurityComplete
  refine ⟨fun s port i h r hi hown hst => ⟨rejoinLoad_epoch hi hown hst port, fun n image hpend hseg hnew => ?_⟩,
    fun s x due units ht hdue => ?_, fun s p x external ok hp hx hst => ?_, fun s s1 a rest i => attReportSign_signs⟩
  · have hgood : (s.loadFits i h n image && (recSeg r n).map (·.2) == some (segmentRoot h.id n image)) = true ↔
        h.imageOk image n = true ∧ s.segAgrees h image = true ∧ s.loadAgrees i h image = true ∧
          (recSeg r n).map (·.2) = some (segmentRoot h.id n image) := by
      simp only [State.loadFits, Bool.and_eq_true, beq_iff_eq, and_assoc]
    refine ⟨fun hg => ?_, fun hb => rejoinLoad_badImage hi hown hst hpend hseg hnew port fun h => hb (hgood.1 h)⟩
    exact (rejoinLoad_image hi hown hst hpend hseg hnew port image).trans (if_pos (hgood.2 hg))
  · obtain ⟨t, hexec, htest, hresult⟩ := rejoinTestEnd_result ht hdue units
    refine ⟨t, hexec, htest, fun h => ?_, fun h => ?_⟩
    · rw [hresult, failedUnits_nil h]
      rfl
    · rw [hresult, if_neg (mt List.isEmpty_iff.1 (failedUnits_ne_nil h))]
  · obtain ⟨t, hexec, hscrub⟩ := tenantScrub_ends ok hp hx hst
    exact ⟨t, x.ended external ok, hexec, hscrub, x.ended_parts external ok⟩

end Sys2Proof.Machine
end
